-- ==== Sys2Proof/Word.lean ====
section
/-! DEFINITION. The word types of the LN96 model and the index types of its units. -/

namespace Sys2Proof

/-- A 64-bit register value: R4 numbers its bits from the least significant. -/
abbrev Word := BitVec 64

/-- One byte of memory or of a message. -/
abbrev Byte := BitVec 8

/-- A 5-bit register field (R178). -/
abbrev Reg := Fin 32

/-- CORE.c, 0 to 95: core c mod 4 of TILE.(c div 4). -/
abbrev CoreId := Fin 96

/-- TILE.t, 0 to 23. -/
abbrev TileId := Fin 24

/-- A register bank of a core (R79); bank 15 is the NEST_ERR bank. -/
abbrev BankId := Fin 16

end Sys2Proof
end

