-- ==== Sys2Proof/Machine/Bits.lean ====
section
/-! DEFINITION. Bit fields, sign extension and byte order (R4, R5: bit 0 is the least significant; multi-byte
values are little-endian unless a rule says big-endian). -/

namespace Sys2Proof.Machine

/-- Bits [lo + w - 1 : lo] of a number. -/
def bitsOf (x lo w : Nat) : Nat := (x >>> lo) % 2 ^ w

/-- The number `x` with bits [lo + w - 1 : lo] replaced by `v`. -/
def putBits (x lo w v : Nat) : Nat :=
  (x >>> (lo + w)) <<< (lo + w) + (v % 2 ^ w) <<< lo + x % 2 ^ lo

/-- Bit `i` of a number. -/
def bitAt (x i : Nat) : Bool := x.testBit i

/-- 1 for true. -/
def b2n (b : Bool) : Nat := if b then 1 else 0

/-- The value of little-endian bytes. -/
def leNat : List Byte → Nat
  | [] => 0
  | b :: t => b.toNat + 256 * leNat t

/-- The low `n` bytes of a number, least significant first. -/
def leBytes : Nat → Nat → List Byte
  | 0, _ => []
  | n + 1, x => BitVec.ofNat 8 x :: leBytes n (x / 256)

/-- The value of big-endian bytes. -/
def beNat (bs : List Byte) : Nat := bs.foldl (fun a b => a * 256 + b.toNat) 0

/-- The low `n` bytes of a number, most significant first. -/
def beBytes (n x : Nat) : List Byte := (leBytes n x).reverse

/-- A number as an integer in two's complement of `w` bits. -/
def toSigned (w x : Nat) : Int :=
  let y := x % 2 ^ w
  if y < 2 ^ (w - 1) then (y : Int) else (y : Int) - 2 ^ w

/-- An integer modulo 2^w. -/
def ofSigned (w : Nat) (x : Int) : Nat := (x % (2 ^ w : Int)).toNat

/-- A byte from a number. -/
abbrev byte (n : Nat) : Byte := BitVec.ofNat 8 n

/-- `n` zero bytes. -/
def zeros (n : Nat) : List Byte := List.replicate n 0#8

/-- Bytes `[off, off + n)` of a list, zero where the list ends. -/
def sliceOf (bs : List Byte) (off n : Nat) : List Byte :=
  let t := (bs.drop off).take n
  t ++ zeros (n - t.length)

/-- A little-endian field of a byte block. -/
def fld (bs : List Byte) (off n : Nat) : Nat := leNat (sliceOf bs off n)

/-- A big-endian field of a byte block. -/
def fldBe (bs : List Byte) (off n : Nat) : Nat := beNat (sliceOf bs off n)

/-- `bs` with the bytes from `off` on replaced by `v`. -/
def patch (bs : List Byte) (off : Nat) (v : List Byte) : List Byte :=
  bs.take off ++ zeros (off - bs.length) ++ v ++ bs.drop (off + v.length)

/-- Ceiling of a division. -/
def ceilDiv (a b : Nat) : Nat := (a + b - 1) / b

/-- `x` rounded up to a multiple of `m`. -/
def roundUp (x m : Nat) : Nat := ceilDiv x m * m

/-- The natural number nearest to `x` in the range. -/
def clampNat (lo hi x : Nat) : Nat := min hi (max lo x)

/-- Bytewise exclusive or; the shorter list ends the result. -/
def xorBytes (a b : List Byte) : List Byte := List.zipWith (· ^^^ ·) a b

/-- The bytes of a word of characters given as numbers. -/
def bytesOf (l : List Nat) : List Byte := l.map byte

end Sys2Proof.Machine
end

