-- ==== Sys2Proof/Machine/Hash.lean ====
section
/-! DEFINITION. The hash functions of R263: SHA-256, SHA-384 and SHA-512 (FIPS 180-4), SHA3-256 (FIPS 202), and HMAC
(FIPS 198-1). The constants are computed from the primes as the standard defines them (log 15). -/

namespace Sys2Proof.Machine

/-! ## Constants -/

/-- The first 80 primes. -/
def hashPrimes : List Nat :=
  ((List.range 410).drop 2).filter fun n => ((List.range 21).drop 2).all fun d => n % d ≠ 0 || n == d

/-- The largest `r` below 2^`f` times the start with r^3 ≤ x, by bits from the top. -/
def cubeRoot (x : Nat) : Nat → Nat → Nat
  | 0, r => r
  | f + 1, r => let t := r + 2 ^ f; if t * t * t ≤ x then cubeRoot x f t else cubeRoot x f r

/-- The largest `r` with r^2 ≤ x, by bits from the top. -/
def squareRoot (x : Nat) : Nat → Nat → Nat
  | 0, r => r
  | f + 1, r => let t := r + 2 ^ f; if t * t ≤ x then squareRoot x f t else squareRoot x f r

/-- The round constants of SHA-512: 64 fraction bits of the cube roots of the first 80 primes. -/
def sha512K : List Nat := hashPrimes.map fun p => cubeRoot (p * 2 ^ 192) 68 0 % 2 ^ 64

/-- 64 fraction bits of the square roots of the first 16 primes: SHA-512's, then SHA-384's initial values. -/
def sha512H : List Nat := (hashPrimes.take 16).map fun p => squareRoot (p * 2 ^ 128) 70 0 % 2 ^ 64

/-- The round constants of SHA-256: 32 fraction bits. -/
def sha256K : List Nat := (sha512K.take 64).map (· / 2 ^ 32)

/-- SHA-256's initial values. -/
def sha256H : List Nat := (sha512H.take 8).map (· / 2 ^ 32)

/-! ## SHA-2 -/

/-- Rotation right of a word. -/
def rotr {w : Nat} (n : Nat) (x : BitVec w) : BitVec w := x.rotateRight n

/-- The six rotation and shift amounts that tell SHA-256 from SHA-512: Σ0, Σ1, σ0, σ1. -/
structure ShaParam where
  a : Nat × Nat × Nat
  e : Nat × Nat × Nat
  s0 : Nat × Nat × Nat
  s1 : Nat × Nat × Nat
  deriving DecidableEq, Repr

/-- SHA-256's amounts. -/
def sha256P : ShaParam := { a := (2, 13, 22), e := (6, 11, 25), s0 := (7, 18, 3), s1 := (17, 19, 10) }
/-- SHA-512's amounts. -/
def sha512P : ShaParam := { a := (28, 34, 39), e := (14, 18, 41), s0 := (1, 8, 7), s1 := (19, 61, 6) }

/-- Three rotations combined. -/
def sha3rot {w : Nat} (p : Nat × Nat × Nat) (x : BitVec w) : BitVec w := rotr p.1 x ^^^ rotr p.2.1 x ^^^ rotr p.2.2 x

/-- Two rotations and a shift combined. -/
def sha2rot {w : Nat} (p : Nat × Nat × Nat) (x : BitVec w) : BitVec w := rotr p.1 x ^^^ rotr p.2.1 x ^^^ (x >>> p.2.2)

/-- The message schedule, youngest word first. -/
def shaSchedule {w : Nat} (p : ShaParam) : Nat → List (BitVec w) → List (BitVec w)
  | 0, ws => ws
  | n + 1, ws =>
    let g := fun i => ws.getD i 0
    shaSchedule p n ((sha2rot p.s1 (g 1) + g 6 + sha2rot p.s0 (g 14) + g 15) :: ws)

/-- One round on the eight working words. -/
def shaRound {w : Nat} (p : ShaParam) (v : List (BitVec w)) (kw : BitVec w × BitVec w) : List (BitVec w) :=
  match v with
  | [a, b, c, d, e, f, g, h] =>
    let t1 := h + sha3rot p.e e + ((e &&& f) ^^^ (~~~e &&& g)) + kw.1 + kw.2
    let t2 := sha3rot p.a a + ((a &&& b) ^^^ (a &&& c) ^^^ (b &&& c))
    [t1 + t2, a, b, c, d + t1, e, f, g]
  | _ => v

/-- One block. -/
def shaBlock {w : Nat} (p : ShaParam) (ks : List (BitVec w)) (h : List (BitVec w)) (blk : List Byte) : List (BitVec w) :=
  let m := (List.range 16).map fun i => BitVec.ofNat w (fldBe blk (w / 8 * i) (w / 8))
  let ws := (shaSchedule p (ks.length - 16) m.reverse).reverse
  List.zipWith (· + ·) h ((ks.zip ws).foldl (shaRound p) h)

/-- All blocks of a padded message. -/
def shaBlocks {w : Nat} (p : ShaParam) (ks : List (BitVec w)) : Nat → List (BitVec w) → List Byte → List (BitVec w)
  | 0, h, _ => h
  | n + 1, h, bs => shaBlocks p ks n (shaBlock p ks h (bs.take (2 * w))) (bs.drop (2 * w))

/-- A SHA-2 digest before truncation: `w` bits to a word. -/
def sha2 (w : Nat) (p : ShaParam) (ks hs : List Nat) (m : List Byte) : List Byte :=
  let bl := 2 * w
  let len := m.length
  let total := roundUp (len + 1 + w / 4) bl
  let padded := m ++ [0x80#8] ++ zeros (total - len - 1 - w / 4) ++ beBytes (w / 4) (8 * len)
  let h := shaBlocks p (ks.map (BitVec.ofNat w)) (total / bl) (hs.map (BitVec.ofNat w)) padded
  h.flatMap fun x => beBytes (w / 8) x.toNat

/-- SHA-256. -/
def sha256 (m : List Byte) : List Byte := sha2 32 sha256P sha256K sha256H m
/-- SHA-512. -/
def sha512 (m : List Byte) : List Byte := sha2 64 sha512P sha512K (sha512H.take 8) m
/-- SHA-384. -/
def sha384 (m : List Byte) : List Byte := (sha2 64 sha512P sha512K (sha512H.drop 8) m).take 48

/-! ## SHA3-256 -/

/-- The Keccak round constant bits: the LFSR of FIPS 202. -/
def keccakRc : Nat → Nat → List Bool
  | 0, _ => []
  | n + 1, r =>
    let r2 := r * 2
    (r % 2 == 1) :: keccakRc n (if r2 ≥ 256 then (r2 % 256) ^^^ 0x71 else r2)

/-- The round constant of round `i`. -/
def keccakConst (i : Nat) : BitVec 64 :=
  let bits := keccakRc 168 1
  BitVec.ofNat 64 ((List.range 7).foldl (fun a j => a + b2n (bits.getD (7 * i + j) false) * 2 ^ (2 ^ j - 1)) 0)

/-- Rotation offsets of rho, in lane order x + 5 y. -/
def keccakRho : List Nat :=
  [0, 1, 62, 28, 27, 36, 44, 6, 55, 20, 3, 10, 43, 25, 39, 41, 45, 15, 21, 8, 18, 2, 61, 56, 14]

/-- One round of Keccak-f[1600] on 25 lanes. -/
def keccakRound (a : List (BitVec 64)) (rc : BitVec 64) : List (BitVec 64) :=
  let g := fun (l : List (BitVec 64)) i => l.getD i 0
  let c := (List.range 5).map fun x => g a x ^^^ g a (x + 5) ^^^ g a (x + 10) ^^^ g a (x + 15) ^^^ g a (x + 20)
  let d := (List.range 5).map fun x => g c ((x + 4) % 5) ^^^ (g c ((x + 1) % 5)).rotateLeft 1
  let t := (List.range 25).map fun i => g a i ^^^ g d (i % 5)
  let b := (List.range 25).map fun i =>
    let x := i % 5
    let y := i / 5
    let src := (x + 3 * y) % 5 + 5 * x
    (g t src).rotateLeft (keccakRho.getD src 0)
  let e := (List.range 25).map fun i =>
    let y := 5 * (i / 5)
    let x := i % 5
    g b i ^^^ (~~~(g b ((x + 1) % 5 + y)) &&& g b ((x + 2) % 5 + y))
  match e with
  | h :: r => (h ^^^ rc) :: r
  | [] => []

/-- Keccak-f[1600]. -/
def keccakF (a : List (BitVec 64)) : List (BitVec 64) :=
  (List.range 24).foldl (fun s i => keccakRound s (keccakConst i)) a

/-- Absorbs blocks of 136 bytes. -/
def keccakAbsorb : Nat → List (BitVec 64) → List Byte → List (BitVec 64)
  | 0, a, _ => a
  | n + 1, a, bs =>
    let blk := (List.range 25).map fun i => BitVec.ofNat 64 (if i < 17 then fld (bs.take 136) (8 * i) 8 else 0)
    keccakAbsorb n (keccakF (List.zipWith (· ^^^ ·) a blk)) (bs.drop 136)

/-- SHA3-256. -/
def sha3_256 (m : List Byte) : List Byte :=
  let k := 136 - m.length % 136
  let pad := if k = 1 then [0x86#8] else [0x06#8] ++ zeros (k - 2) ++ [0x80#8]
  let p := m ++ pad
  ((keccakAbsorb (p.length / 136) (List.replicate 25 0) p).take 4).flatMap fun x => leBytes 8 x.toNat

/-! ## HMAC -/

/-- HMAC over a hash with a block of `b` bytes. -/
def hmac (h : List Byte → List Byte) (b : Nat) (key m : List Byte) : List Byte :=
  let k0 := if b < key.length then h key else key
  let k := k0 ++ zeros (b - k0.length)
  h (k.map (· ^^^ 0x5C#8) ++ h (k.map (· ^^^ 0x36#8) ++ m))

/-- HMAC-SHA-256. -/
def hmac256 (key m : List Byte) : List Byte := hmac sha256 64 key m
/-- HMAC-SHA-384. -/
def hmac384 (key m : List Byte) : List Byte := hmac sha384 128 key m
/-- HMAC-SHA-512. -/
def hmac512 (key m : List Byte) : List Byte := hmac sha512 128 key m

end Sys2Proof.Machine
end

