-- ==== Sys2Proof/Machine/Cipher.lean ====
section
/-! DEFINITION. The ciphers and MACs of R263 and of TLS: AES (FIPS 197), TDES (SP 800-67), CBC, CMAC (SP 800-38B),
ISO/IEC 9797-1 algorithms 1 and 3, GCM (SP 800-38D), ChaCha20-Poly1305 (RFC 8439), and AES key wrap with padding
(RFC 5649). The standards are named by the chapters (log 15). -/

namespace Sys2Proof.Machine

/-! ## AES -/

/-- Multiplication in GF(2^8) modulo x^8 + x^4 + x^3 + x + 1. -/
def gfMul : Nat → Byte → Byte → Byte
  | 0, _, _ => 0
  | n + 1, a, b =>
    let a2 := (a <<< 1) ^^^ (if a.getLsbD 7 then 0x1B#8 else 0)
    (if b.getLsbD 0 then a else 0) ^^^ gfMul n a2 (b >>> 1)

/-- The inverse in GF(2^8), zero for zero: the 254th power. -/
def gfInv (a : Byte) : Byte := (List.range 253).foldl (fun x _ => gfMul 8 x a) a

/-- The AES S-box. -/
def aesSboxOf (a : Byte) : Byte :=
  let b := gfInv a
  b ^^^ b.rotateLeft 1 ^^^ b.rotateLeft 2 ^^^ b.rotateLeft 3 ^^^ b.rotateLeft 4 ^^^ 0x63#8

/-- The S-box as a table. -/
def aesSbox : Vector Byte 256 := Vector.ofFn fun i : Fin 256 => aesSboxOf (byte i.val)

/-- The inverse S-box as a table. -/
def aesInvSbox : Vector Byte 256 :=
  (List.finRange 256).foldl (fun t i => t.set (aesSbox[i]).toFin (byte i.val)) (Vector.replicate 256 0)

/-- A table look-up. -/
def sub8 (t : Vector Byte 256) (b : Byte) : Byte := t[b.toFin]

/-- Round constants of the key schedule. -/
def aesRcon (i : Nat) : Byte := (List.range (i - 1)).foldl (fun x _ => gfMul 8 x 2) 1

/-- The key schedule: words of 4 bytes, youngest first. -/
def aesExpand (nk : Nat) : Nat → Nat → List (List Byte) → List (List Byte)
  | 0, _, ws => ws
  | n + 1, i, ws =>
    let prev := ws.headD []
    let t :=
      if i % nk = 0 then xorBytes ((prev.drop 1 ++ prev.take 1).map (sub8 aesSbox)) [aesRcon (i / nk), 0, 0, 0]
      else if 6 < nk ∧ i % nk = 4 then prev.map (sub8 aesSbox) else prev
    aesExpand nk n (i + 1) (xorBytes (ws.getD (nk - 1) []) t :: ws)

/-- The round keys, 16 bytes each, for a key of 16, 24 or 32 bytes. -/
def aesKeys (key : List Byte) : List (List Byte) :=
  let nk := key.length / 4
  let nr := nk + 6
  let w0 := ((List.range nk).map fun i => sliceOf key (4 * i) 4).reverse
  let ws := ((aesExpand nk (4 * (nr + 1) - nk) nk w0).reverse).flatten
  (List.range (nr + 1)).map fun i => sliceOf ws (16 * i) 16

/-- The byte order of ShiftRows by `k` columns a row. -/
def aesShift (k : Nat) (s : List Byte) : List Byte :=
  (List.range 16).map fun i => s.getD ((i + 4 * k * (i % 4)) % 16) 0

/-- A column times the matrix whose first row is `m`. -/
def aesMix (m : List Byte) (s : List Byte) : List Byte :=
  (List.range 16).map fun i =>
    (List.range 4).foldl (fun x j => x ^^^ gfMul 8 (s.getD (4 * (i / 4) + j) 0) (m.getD ((j + 4 - i % 4) % 4) 0)) 0

/-- Encrypts one block under round keys. -/
def aesEncKs (ks : List (List Byte)) (blk : List Byte) : List Byte :=
  match ks with
  | [] => blk
  | k0 :: t =>
    let s0 := xorBytes blk k0
    let mid := t.dropLast.foldl (fun s k =>
      xorBytes (aesMix [2, 3, 1, 1] (aesShift 1 (s.map (sub8 aesSbox)))) k) s0
    xorBytes (aesShift 1 (mid.map (sub8 aesSbox))) (t.getLastD [])

/-- Decrypts one block under round keys. -/
def aesDecKs (ks : List (List Byte)) (blk : List Byte) : List Byte :=
  match ks.reverse with
  | [] => blk
  | k0 :: t =>
    let s0 := xorBytes blk k0
    let mid := t.dropLast.foldl (fun s k =>
      aesMix [14, 11, 13, 9] (xorBytes ((aesShift 3 s).map (sub8 aesInvSbox)) k)) s0
    xorBytes ((aesShift 3 mid).map (sub8 aesInvSbox)) (t.getLastD [])

/-! ## DES -/

/-- Initial permutation. -/
def desIP : List Nat := (List.range 64).map fun i =>
  let r := i / 8; let c := i % 8
  (if r < 4 then 2 * r + 2 else 2 * (r - 4) + 1) + 8 * (7 - c)

/-- Expansion. -/
def desE : List Nat := (List.range 48).map fun i => (4 * (i / 6) + i % 6 + 31) % 32 + 1

/-- The permutation of the round function. -/
def desP : List Nat :=
  [16, 7, 20, 21, 29, 12, 28, 17, 1, 15, 23, 26, 5, 18, 31, 10, 2, 8, 24, 14, 32, 27, 3, 9, 19, 13, 30, 6, 22, 11, 4, 25]

/-- Permuted choice 1. -/
def desPC1 : List Nat :=
  [57, 49, 41, 33, 25, 17, 9, 1, 58, 50, 42, 34, 26, 18, 10, 2, 59, 51, 43, 35, 27, 19, 11, 3, 60, 52, 44, 36] ++
  [63, 55, 47, 39, 31, 23, 15, 7, 62, 54, 46, 38, 30, 22, 14, 6, 61, 53, 45, 37, 29, 21, 13, 5, 28, 20, 12, 4]

/-- Permuted choice 2. -/
def desPC2 : List Nat :=
  [14, 17, 11, 24, 1, 5, 3, 28, 15, 6, 21, 10, 23, 19, 12, 4, 26, 8, 16, 7, 27, 20, 13, 2] ++
  [41, 52, 31, 37, 47, 55, 30, 40, 51, 45, 33, 48, 44, 49, 39, 56, 34, 53, 46, 42, 50, 36, 29, 32]

/-- The S-boxes, each as 64 hexadecimal digits in row order. -/
def desS : List Nat :=
  [0xE4D12FB83A6C59070F74E2D1A6CB953841E8D62BFC973A50FC8249175B3EA06D,
   0xF18E6B34972DC05A3D47F28EC01A69B50E7BA4D158C6932FD8A13F42B67C05E9,
   0xA09E63F51DC7B428D709346A285ECBF1D6498F30B12C5AE71AD069874FE3B52C,
   0x7DE3069A1285BC4FD8B56F03472C1AE9A690CB7DF13E52843F06A1D8945BC72E,
   0x2C417AB6853FD0E9EB2C47D150FA3986421BAD78F9C5630EB8C71E2D6F09A453,
   0xC1AF92680D34E75BAF427C9561DE0B389EF528C3704A1DB6432C95FABE17608D,
   0x4B2EF08D3C975A61D0B7491AE35C2F8614BDC37EAF6805926BD814A7950FE23C,
   0xD2846FB1A93E50C71FD8A374C56B0E927B419CE206ADF35821E74A8DFC90356B]

/-- The bits of a number, most significant first. -/
def bitsMsb (n x : Nat) : List Bool := (List.range n).map fun i => x.testBit (n - 1 - i)

/-- The number that bits spell, most significant first. -/
def ofBitsMsb (l : List Bool) : Nat := l.foldl (fun a b => 2 * a + b2n b) 0

/-- Selects bits by 1-based positions. -/
def permute (t : List Nat) (l : List Bool) : List Bool := t.map fun i => l.getD (i - 1) false

/-- The sixteen round keys. -/
def desKeys (key : List Byte) : List (List Bool) :=
  let cd := permute desPC1 (bitsMsb 64 (beNat key))
  let shifts := [1, 2, 4, 6, 8, 10, 12, 14, 15, 17, 19, 21, 23, 25, 27, 28]
  shifts.map fun n => permute desPC2 ((cd.take 28).rotateLeft n ++ (cd.drop 28).rotateLeft n)

/-- One S-box on six bits. -/
def desSbox (i : Nat) (b : List Bool) : List Bool :=
  let v := ofBitsMsb b
  let row := v / 32 * 2 + v % 2
  let col := v / 2 % 16
  bitsMsb 4 (desS.getD i 0 >>> (4 * (63 - (16 * row + col))))

/-- The round function. -/
def desF (r k : List Bool) : List Bool :=
  let x := List.zipWith xor (permute desE r) k
  permute desP ((List.range 8).flatMap fun i => desSbox i ((x.drop (6 * i)).take 6))

/-- The final permutation, the inverse of the initial one. -/
def desFP : List Nat := (List.range 64).map fun i => desIP.idxOf (i + 1) + 1

/-- DES with round keys in the given order. -/
def desCore (ks : List (List Bool)) (blk : List Byte) : List Byte :=
  let x := permute desIP (bitsMsb 64 (beNat blk))
  let lr := ks.foldl (fun (p : List Bool × List Bool) k => (p.2, List.zipWith xor p.1 (desF p.2 k))) (x.take 32, x.drop 32)
  beBytes 8 (ofBitsMsb (permute desFP (lr.2 ++ lr.1)))

/-- DES encryption of a block. -/
def desEnc (key blk : List Byte) : List Byte := desCore (desKeys key) blk
/-- DES decryption of a block. -/
def desDec (key blk : List Byte) : List Byte := desCore (desKeys key).reverse blk

/-- The three keys of TDES: double length repeats the first. -/
def tdesParts (key : List Byte) : List Byte × List Byte × List Byte :=
  (key.take 8, sliceOf key 8 8, if 24 ≤ key.length then sliceOf key 16 8 else key.take 8)

/-- TDES encryption of a block. -/
def tdesEnc (key blk : List Byte) : List Byte :=
  let (a, b, c) := tdesParts key
  desEnc c (desDec b (desEnc a blk))
/-- TDES decryption of a block. -/
def tdesDec (key blk : List Byte) : List Byte :=
  let (a, b, c) := tdesParts key
  desDec a (desEnc b (desDec c blk))

/-! ## A block cipher under a key -/

/-- A keyed block cipher: AES round keys, or a TDES key. -/
inductive Keyed where
  | aes (ks : List (List Byte))
  | tdes (key : List Byte)
  deriving DecidableEq, Repr

/-- Block length in bytes. -/
def Keyed.block : Keyed → Nat
  | .aes _ => 16
  | .tdes _ => 8

/-- Encrypts a block. -/
def Keyed.enc : Keyed → List Byte → List Byte
  | .aes ks, b => aesEncKs ks b
  | .tdes k, b => tdesEnc k b

/-- Decrypts a block. -/
def Keyed.dec : Keyed → List Byte → List Byte
  | .aes ks, b => aesDecKs ks b
  | .tdes k, b => tdesDec k b

/-- AES under a key. -/
def aesKeyed (key : List Byte) : Keyed := .aes (aesKeys key)

/-- Cuts bytes into blocks of `n`; the last may be short. -/
def chunks (n : Nat) : Nat → List Byte → List (List Byte)
  | 0, _ => []
  | f + 1, bs => if bs = [] then [] else bs.take n :: chunks n f (bs.drop n)

/-- The blocks of a message. -/
def blocksOf (n : Nat) (bs : List Byte) : List (List Byte) := chunks n (bs.length / n + 1) bs

/-! ## CBC and MACs -/

/-- CBC encryption of whole blocks. -/
def cbcEnc (c : Keyed) (iv bs : List Byte) : List Byte :=
  ((blocksOf c.block bs).foldl (fun (p : List Byte × List Byte) b =>
    let y := c.enc (xorBytes p.1 b); (y, p.2 ++ y)) (iv, [])).2

/-- CBC decryption of whole blocks. -/
def cbcDec (c : Keyed) (iv bs : List Byte) : List Byte :=
  ((blocksOf c.block bs).foldl (fun (p : List Byte × List Byte) b =>
    (b, p.2 ++ xorBytes p.1 (c.dec b))) (iv, [])).2

/-- The last block of a CBC encryption with a zero start. -/
def cbcLast (c : Keyed) (bs : List Byte) : List Byte :=
  (blocksOf c.block bs).foldl (fun x b => c.enc (xorBytes x b)) (zeros c.block)

/-- Padding of ISO/IEC 9797-1: method 1 fills with zeros, to at least one block; method 2 adds a one bit first. -/
def isoPad (n method : Nat) (bs : List Byte) : List Byte :=
  if method = 2 then bs ++ [0x80#8] ++ zeros (roundUp (bs.length + 1) n - bs.length - 1)
  else bs ++ zeros (max n (roundUp bs.length n) - bs.length)

/-- Doubling in GF(2^(8 n)) for CMAC. -/
def cmacDouble (bs : List Byte) : List Byte :=
  let n := bs.length
  let x := 2 * beNat bs
  let r := if n = 16 then 0x87 else 0x1B
  beBytes n (if 2 ^ (8 * n) ≤ x then (x % 2 ^ (8 * n)) ^^^ r else x)

/-- CMAC. -/
def cmac (c : Keyed) (m : List Byte) : List Byte :=
  let n := c.block
  let k1 := cmacDouble (c.enc (zeros n))
  let k2 := cmacDouble k1
  let full := m.length / n * n
  if m ≠ [] ∧ full = m.length then
    cbcLast c (m.take (full - n) ++ xorBytes (m.drop (full - n)) k1)
  else
    let last := m.drop full
    cbcLast c (m.take full ++ xorBytes (last ++ [0x80#8] ++ zeros (n - last.length - 1)) k2)

/-- The retail MAC, ISO/IEC 9797-1 algorithm 3: DES CBC with the first key, the last block through the second and the
third (the first for double length). -/
def retailMac (key : List Byte) (method : Nat) (m : List Byte) : List Byte :=
  let (a, b, c) := tdesParts key
  let x := (blocksOf 8 (isoPad 8 method m)).foldl (fun x blk => desEnc a (xorBytes x blk)) (zeros 8)
  desEnc c (desDec b x)

/-! ## GCM -/

/-- Multiplication in GF(2^128) with GCM's bit order; numbers are big-endian blocks. -/
def ghashMul : Nat → Nat → Nat → Nat → Nat
  | 0, _, _, z => z
  | i + 1, x, v, z =>
    let z' := if x.testBit i then z ^^^ v else z
    ghashMul i x (if v % 2 = 1 then v / 2 ^^^ (0xE1 <<< 120) else v / 2) z'

/-- GHASH over whole blocks. -/
def ghash (h : Nat) (bs : List Byte) : Nat :=
  (blocksOf 16 bs).foldl (fun y b => ghashMul 128 (y ^^^ beNat b) h 0) 0

/-- Bytes padded with zeros to whole blocks of 16. -/
def pad16 (bs : List Byte) : List Byte := bs ++ zeros (roundUp bs.length 16 - bs.length)

/-- Counter mode from a 32-bit counter on. -/
def gcmCtr (c : Keyed) (iv bs : List Byte) : List Byte :=
  ((blocksOf 16 bs).foldl (fun (p : Nat × List Byte) b =>
    (p.1 + 1, p.2 ++ xorBytes b (c.enc (iv ++ beBytes 4 p.1)))) (2, [])).2

/-- The GCM tag of a cipher text. -/
def gcmTag (c : Keyed) (iv aad ct : List Byte) : List Byte :=
  let h := beNat (c.enc (zeros 16))
  let y := ghash h (pad16 aad ++ pad16 ct ++ beBytes 8 (8 * aad.length) ++ beBytes 8 (8 * ct.length))
  xorBytes (beBytes 16 y) (c.enc (iv ++ beBytes 4 1))

/-- GCM encryption with a 12-byte IV: cipher text, then tag. -/
def gcmSeal (c : Keyed) (iv aad pt : List Byte) : List Byte :=
  let ct := gcmCtr c iv pt
  ct ++ gcmTag c iv aad ct

/-- GCM decryption; none if the tag fails. -/
def gcmOpen (c : Keyed) (iv aad bs : List Byte) : Option (List Byte) :=
  let n := bs.length - 16
  if bs.length < 16 then none
  else if gcmTag c iv aad (bs.take n) = bs.drop n then some (gcmCtr c iv (bs.take n)) else none

/-! ## ChaCha20-Poly1305 -/

/-- A quarter round on lanes of the state. -/
def chachaQuarter (st : List (BitVec 32)) (q : Nat × Nat × Nat × Nat) : List (BitVec 32) :=
  let (i, j, k, l) := q
  let g := fun n => st.getD n 0
  let a := g i + g j
  let d := (g l ^^^ a).rotateLeft 16
  let c := g k + d
  let b := (g j ^^^ c).rotateLeft 12
  let a := a + b
  let d := (d ^^^ a).rotateLeft 8
  let c := c + d
  let b := (b ^^^ c).rotateLeft 7
  (((st.set i a).set j b).set k c).set l d

/-- A block of key stream. -/
def chachaBlock (key nonce : List Byte) (ctr : Nat) : List Byte :=
  let w := fun (bs : List Byte) n => (List.range n).map fun i => BitVec.ofNat 32 (fld bs (4 * i) 4)
  let st : List (BitVec 32) := [0x61707865, 0x3320646e, 0x79622d32, 0x6b206574] ++ w key 8 ++ [BitVec.ofNat 32 ctr] ++ w nonce 3
  let qs := [(0, 4, 8, 12), (1, 5, 9, 13), (2, 6, 10, 14), (3, 7, 11, 15),
             (0, 5, 10, 15), (1, 6, 11, 12), (2, 7, 8, 13), (3, 4, 9, 14)]
  let r := (List.range 10).foldl (fun s _ => qs.foldl chachaQuarter s) st
  (List.zipWith (· + ·) st r).flatMap fun x => leBytes 4 x.toNat

/-- ChaCha20 from counter 1. -/
def chacha20 (key nonce bs : List Byte) : List Byte :=
  ((blocksOf 64 bs).foldl (fun (p : Nat × List Byte) b =>
    (p.1 + 1, p.2 ++ xorBytes b (chachaBlock key nonce p.1))) (1, [])).2

/-- Poly1305. -/
def poly1305 (key m : List Byte) : List Byte :=
  let r := leNat (key.take 16) &&& 0x0ffffffc0ffffffc0ffffffc0fffffff
  let p := 2 ^ 130 - 5
  let a := (blocksOf 16 m).foldl (fun a b => (a + leNat (b ++ [1#8])) * r % p) 0
  leBytes 16 (a + leNat (sliceOf key 16 16))

/-- The tag of RFC 8439. -/
def chachaTag (key nonce aad ct : List Byte) : List Byte :=
  poly1305 ((chachaBlock key nonce 0).take 32)
    (pad16 aad ++ pad16 ct ++ leBytes 8 aad.length ++ leBytes 8 ct.length)

/-- AEAD encryption. -/
def chachaSeal (key nonce aad pt : List Byte) : List Byte :=
  let ct := chacha20 key nonce pt
  ct ++ chachaTag key nonce aad ct

/-- AEAD decryption; none if the tag fails. -/
def chachaOpen (key nonce aad bs : List Byte) : Option (List Byte) :=
  let n := bs.length - 16
  if bs.length < 16 then none
  else if chachaTag key nonce aad (bs.take n) = bs.drop n then some (chacha20 key nonce (bs.take n)) else none

/-! ## Key wrap with padding -/

/-- The inverse wrapping of SP 800-38F on a register and blocks: one pass of the six, last block first. -/
def unwrapPass (c : Keyed) (n j : Nat) (st : List Byte × List (List Byte)) : List Byte × List (List Byte) :=
  (List.range n).foldl (fun (p : List Byte × List (List Byte)) k =>
    let i := n - k
    let t := n * j + i
    let b := c.dec (xorBytes p.1 (beBytes 8 t) ++ p.2.getD (i - 1) [])
    (b.take 8, p.2.set (i - 1) (b.drop 8))) st

/-- Unwraps an RFC 5649 key; none if its integrity check fails. -/
def kwpUnwrap (c : Keyed) (bs : List Byte) : Option (List Byte) :=
  let n := bs.length / 8 - 1
  if bs.length % 8 ≠ 0 ∨ bs.length < 16 then none
  else
    let ar : List Byte × List Byte :=
      if n = 1 then let b := c.dec bs; (b.take 8, b.drop 8)
      else
        let r := (List.range 6).foldl (fun st j => unwrapPass c n (5 - j) st) (bs.take 8, blocksOf 8 (bs.drop 8))
        (r.1, r.2.flatten)
    let mli := fldBe ar.1 4 4
    if ar.1.take 4 = [0xA6#8, 0x59#8, 0x59#8, 0xA6#8] ∧ 8 * (n - 1) < mli ∧ mli ≤ 8 * n ∧
        (ar.2.drop mli).all (fun b => b == 0)
    then some (ar.2.take mli) else none

end Sys2Proof.Machine
end

