-- ==== Sys2Proof/Machine/Pubkey.lean ====
section
/-! DEFINITION. The public-key operations of R263: ECDSA over P-256 and P-384 (FIPS 186-5, RFC 6979), Ed25519 (RFC 8032)
and the RSA primitives (log 15). -/

namespace Sys2Proof.Machine

/-! ## Modular arithmetic -/

/-- Square and multiply over the bits of `e` below `f`, from the top. -/
def powModBits (b e m : Nat) : Nat → Nat → Nat
  | 0, acc => acc
  | f + 1, acc => powModBits b e m f (acc * acc % m * (if e.testBit f then b else 1) % m)

/-- b^e mod m. -/
def powMod (b e m : Nat) : Nat := powModBits (b % m) e m (Nat.log2 e + 1) (1 % m)

/-- The inverse modulo a prime. -/
def invMod (a p : Nat) : Nat := powMod a (p - 2) p

/-- Subtraction modulo m. -/
def subMod (a b m : Nat) : Nat := (a + (m - b % m)) % m

/-! ## The NIST curves -/

/-- A short Weierstrass curve with a = −3. -/
structure Curve where
  p : Nat
  b : Nat
  n : Nat
  gx : Nat
  gy : Nat
  bytes : Nat
  deriving DecidableEq, Repr

/-- P-256. -/
def p256 : Curve :=
  { p := 2 ^ 256 - 2 ^ 224 + 2 ^ 192 + 2 ^ 96 - 1,
    b := 0x5ac635d8aa3a93e7b3ebbd55769886bc651d06b0cc53b0f63bce3c3e27d2604b,
    n := 0xffffffff00000000ffffffffffffffffbce6faada7179e84f3b9cac2fc632551,
    gx := 0x6b17d1f2e12c4247f8bce6e563a440f277037d812deb33a0f4a13945d898c296,
    gy := 0x4fe342e2fe1a7f9b8ee7eb4a7c0f9e162bce33576b315ececbb6406837bf51f5, bytes := 32 }

/-- P-384. -/
def p384 : Curve :=
  { p := 2 ^ 384 - 2 ^ 128 - 2 ^ 96 + 2 ^ 32 - 1,
    b := 0xb3312fa7e23ee7e4988e056be3f82d19181d9c6efe8141120314088f5013875ac656398d8a2ed19d2a85c8edd3ec2aef,
    n := 0xffffffffffffffffffffffffffffffffffffffffffffffffc7634d81f4372ddf581a0db248b0a77aecec196accc52973,
    gx := 0xaa87ca22be8b05378eb1c71ef320ad746e1d3b628ba79b9859f741e082542a385502f25dbf55296c3a545e3872760ab7,
    gy := 0x3617de4a96262c6f5d9e98bf9292dc29f8f41dbd289a147ce9da3113b5f0b8c00a60b1ce1d7e819d7a431d7c90ea0e5f,
    bytes := 48 }

/-- A point in Jacobian coordinates; z = 0 is the point at infinity. -/
structure JPoint where
  x : Nat
  y : Nat
  z : Nat
  deriving DecidableEq, Repr

/-- Doubling. -/
def Curve.dbl (c : Curve) (q : JPoint) : JPoint :=
  let p := c.p
  if q.z = 0 ∨ q.y = 0 then { x := 1, y := 1, z := 0 } else
  let z2 := q.z * q.z % p
  let m := 3 * (subMod q.x z2 p * ((q.x + z2) % p) % p) % p
  let y2 := q.y * q.y % p
  let t := 4 * (q.x * y2 % p) % p
  let x3 := subMod (m * m % p) (2 * t) p
  { x := x3, y := subMod (m * subMod t x3 p % p) (8 * (y2 * y2 % p)) p, z := 2 * (q.y * q.z % p) % p }

/-- Addition. -/
def Curve.add (c : Curve) (q r : JPoint) : JPoint :=
  let p := c.p
  if q.z = 0 then r else if r.z = 0 then q else
  let z1 := q.z * q.z % p
  let z2 := r.z * r.z % p
  let u1 := q.x * z2 % p
  let u2 := r.x * z1 % p
  let s1 := q.y * (z2 * r.z % p) % p
  let s2 := r.y * (z1 * q.z % p) % p
  if u1 = u2 then (if s1 = s2 then c.dbl q else { x := 1, y := 1, z := 0 }) else
  let h := subMod u2 u1 p
  let rr := subMod s2 s1 p
  let h2 := h * h % p
  let h3 := h2 * h % p
  let v := u1 * h2 % p
  let x3 := subMod (subMod (rr * rr % p) h3 p) (2 * v) p
  { x := x3, y := subMod (rr * subMod v x3 p % p) (s1 * h3 % p) p, z := h * (q.z * r.z % p) % p }

/-- Scalar multiplication over the bits of `k` below `f`. -/
def Curve.mulBits (c : Curve) (k : Nat) (q : JPoint) : Nat → JPoint → JPoint
  | 0, acc => acc
  | f + 1, acc =>
    let d := c.dbl acc
    c.mulBits k q f (if k.testBit f then c.add d q else d)

/-- Scalar multiplication. -/
def Curve.mul (c : Curve) (k : Nat) (q : JPoint) : JPoint :=
  c.mulBits k q (8 * c.bytes) { x := 1, y := 1, z := 0 }

/-- Affine coordinates; none at infinity. -/
def Curve.affine (c : Curve) (q : JPoint) : Option (Nat × Nat) :=
  if q.z = 0 then none
  else
    let i := invMod q.z c.p
    let i2 := i * i % c.p
    some (q.x * i2 % c.p, q.y * (i2 * i % c.p) % c.p)

/-- The base point. -/
def Curve.g (c : Curve) : JPoint := { x := c.gx, y := c.gy, z := 1 }

/-- A valid public point: coordinates in range and on the curve. -/
def Curve.onCurve (c : Curve) (x y : Nat) : Bool :=
  decide (x < c.p ∧ y < c.p) && (y * y % c.p == ((x * x % c.p * x + c.b) % c.p + (c.p - 3) * x) % c.p)

/-- The public point of a private scalar, x then y. -/
def Curve.public (c : Curve) (d : Nat) : List Byte :=
  match c.affine (c.mul d c.g) with
  | some (x, y) => beBytes c.bytes x ++ beBytes c.bytes y
  | none => zeros (2 * c.bytes)

/-- The leftmost bits of a digest as a number (FIPS 186-5). -/
def Curve.digest (c : Curve) (h : List Byte) : Nat := beNat (h.take c.bytes)

/-- ECDSA verification; `pub` is x then y, `sig` r then s. -/
def ecdsaVerify (c : Curve) (pub h sig : List Byte) : Bool :=
  let r := fldBe sig 0 c.bytes
  let s := fldBe sig c.bytes c.bytes
  let x := fldBe pub 0 c.bytes
  let y := fldBe pub c.bytes c.bytes
  if r = 0 ∨ c.n ≤ r ∨ s = 0 ∨ c.n ≤ s ∨ !c.onCurve x y then false
  else
    let w := invMod s c.n
    let q := c.add (c.mul (c.digest h * w % c.n) c.g) (c.mul (r * w % c.n) { x := x, y := y, z := 1 })
    match c.affine q with
    | some (x1, _) => x1 % c.n == r
    | none => false

/-- The HMAC_DRBG of RFC 6979, step h: candidates until one lies in range. -/
def rfc6979Loop (hm : List Byte → List Byte → List Byte) (n len : Nat) : Nat → List Byte → List Byte → Nat
  | 0, _, _ => 1
  | f + 1, k, v =>
    let v := hm k v
    let t := beNat (v.take len)
    if 0 < t ∧ t < n then t
    else let k := hm k (v ++ [0#8]); rfc6979Loop hm n len f k (hm k v)

/-- The nonce of RFC 6979 with the hash of the curve's size. -/
def rfc6979 (hm : List Byte → List Byte → List Byte) (hlen : Nat) (c : Curve) (d h : Nat) : Nat :=
  let x := beBytes c.bytes d ++ beBytes c.bytes (h % c.n)
  let k := zeros hlen
  let v := List.replicate hlen 1#8
  let k := hm k (v ++ [0#8] ++ x)
  let v := hm k v
  let k := hm k (v ++ [1#8] ++ x)
  rfc6979Loop hm c.n c.bytes 64 k (hm k v)

/-- ECDSA signature, r then s, with the nonce of RFC 6979 (SHA-256 for P-256, SHA-384 for P-384). -/
def ecdsaSign (c : Curve) (priv : Nat) (h : List Byte) : List Byte :=
  let e := c.digest h
  let k := if c.bytes = 32 then rfc6979 hmac256 32 c priv e else rfc6979 hmac384 48 c priv e
  match c.affine (c.mul k c.g) with
  | some (x, _) =>
    let r := x % c.n
    let s := invMod k c.n * ((e + r * priv) % c.n) % c.n
    beBytes c.bytes r ++ beBytes c.bytes s
  | none => zeros (2 * c.bytes)

/-! ## Ed25519 -/

/-- The field prime. -/
abbrev edP : Nat := 2 ^ 255 - 19
/-- The group order. -/
abbrev edL : Nat := 2 ^ 252 + 27742317777372353535851937790883648493
/-- The curve constant d. -/
def edD : Nat := subMod 0 (121665 * invMod 121666 edP % edP) edP

/-- A point in extended coordinates. -/
structure EPoint where
  x : Nat
  y : Nat
  z : Nat
  t : Nat
  deriving DecidableEq, Repr

/-- Addition, complete. -/
def edAdd (a b : EPoint) : EPoint :=
  let p := edP
  let A := subMod a.y a.x p * subMod b.y b.x p % p
  let B := (a.y + a.x) * (b.y + b.x) % p
  let C := 2 * a.t * edD % p * b.t % p
  let D := 2 * a.z * b.z % p
  let E := subMod B A p
  let F := subMod D C p
  let G := (D + C) % p
  let H := (B + A) % p
  { x := E * F % p, y := G * H % p, t := E * H % p, z := F * G % p }

/-- Scalar multiplication over the bits of `k` below `f`. -/
def edMulBits (k : Nat) (q : EPoint) : Nat → EPoint → EPoint
  | 0, acc => acc
  | f + 1, acc =>
    let d := edAdd acc acc
    edMulBits k q f (if k.testBit f then edAdd d q else d)

/-- Scalar multiplication. -/
def edMul (k : Nat) (q : EPoint) : EPoint := edMulBits k q 256 { x := 0, y := 1, z := 1, t := 0 }

/-- The x coordinate of a y with a sign bit; none if the encoding is not canonical or no point has it. -/
def edRecover (y sign : Nat) : Option Nat :=
  if edP ≤ y then none
  else
    let y2 := y * y % edP
    let x2 := subMod y2 1 edP * invMod ((edD * y2 + 1) % edP) edP % edP
    let r := powMod x2 ((edP + 3) / 8) edP
    let r := if r * r % edP = x2 then r else r * powMod 2 ((edP - 1) / 4) edP % edP
    if r * r % edP ≠ x2 then none
    else if r = 0 ∧ sign = 1 then none
    else some (if r % 2 = sign then r else (edP - r) % edP)

/-- Decodes a point of 32 bytes. -/
def edDecode (bs : List Byte) : Option EPoint :=
  let v := leNat (bs.take 32)
  let y := v % 2 ^ 255
  (edRecover y (v / 2 ^ 255)).map fun x => { x := x, y := y, z := 1, t := x * y % edP }

/-- Encodes a point. -/
def edEncode (q : EPoint) : List Byte :=
  let i := invMod q.z edP
  let x := q.x * i % edP
  let y := q.y * i % edP
  leBytes 32 (y + (x % 2) * 2 ^ 255)

/-- The base point: y = 4/5 with even x. -/
def edBase : EPoint :=
  let y := 4 * invMod 5 edP % edP
  let x := (edRecover y 0).getD 0
  { x := x, y := y, z := 1, t := x * y % edP }

/-- The scalar and the prefix of a private key of 32 bytes. -/
def edSecret (seed : List Byte) : Nat × List Byte :=
  let h := sha512 seed
  let a := leNat (h.take 32)
  (a % 2 ^ 254 / 8 * 8 + 2 ^ 254, h.drop 32)

/-- The public key of a private key. -/
def edPublic (seed : List Byte) : List Byte := edEncode (edMul (edSecret seed).1 edBase)

/-- Ed25519 signature. -/
def edSign (seed msg : List Byte) : List Byte :=
  let (a, prefix_) := edSecret seed
  let pk := edPublic seed
  let r := leNat (sha512 (prefix_ ++ msg)) % edL
  let rb := edEncode (edMul r edBase)
  let k := leNat (sha512 (rb ++ pk ++ msg)) % edL
  rb ++ leBytes 32 ((r + k * a) % edL)

/-- Ed25519 verification. -/
def edVerify (pk msg sig : List Byte) : Bool :=
  let rb := sig.take 32
  let s := leNat (sliceOf sig 32 32)
  match edDecode pk, edDecode rb with
  | some A, some R =>
    if edL ≤ s then false
    else
      let k := leNat (sha512 (rb ++ pk ++ msg)) % edL
      edEncode (edMul s edBase) == edEncode (edAdd R (edMul k A))
  | _, _ => false

/-! ## RSA -/

/-- The RSA primitive on big-endian bytes. -/
def rsaPublic (n e : Nat) (m : List Byte) : List Byte := beBytes m.length (powMod (beNat m) e n)

/-- The private operation by the Chinese remainder theorem. -/
def rsaPrivate (p q dp dq qinv : Nat) (m : List Byte) : List Byte :=
  let x := beNat m
  let m1 := powMod x dp p
  let m2 := powMod x dq q
  beBytes m.length (m2 + q * (qinv * subMod m1 m2 p % p))

/-- Bits of a number. -/
def numBits (x : Nat) : Nat := if x = 0 then 0 else Nat.log2 x + 1

/-- One-bits of a number. -/
def popCount (x : Nat) : Nat := (List.range (numBits x)).countP fun i => x.testBit i

end Sys2Proof.Machine
end

