-- ==== Sys2Proof/Machine/Text.lean ====
section
/-! DEFINITION. Digits in nibbles (R132, R133) and UTF-8 (R169, R170), as the decimal and string instructions, the translator and
the crypto clusters share them. -/

namespace Sys2Proof.Machine

/-! ## Nibbles and digits -/

/-- The nibbles of bytes, high nibble first. -/
def nibbles (bs : List Byte) : List Nat := bs.flatMap fun b => [b.toNat / 16, b.toNat % 16]

/-- The number that decimal digits stand for, or none if a digit is invalid. -/
def digitsVal (ds : List Nat) : Option Nat :=
  ds.foldl (fun acc d => acc.bind fun v => if d ≤ 9 then some (10 * v + d) else none) (some 0)

/-- The low-order `n` digits of a magnitude, most significant first. -/
def digitsOf : Nat → Nat → List Nat
  | 0, _ => []
  | n + 1, m => digitsOf n (m / 10) ++ [m % 10]

/-- Bytes from nibbles, two to a byte. -/
def packNibbles : List Nat → List Byte
  | a :: b :: t => byte (16 * a + b) :: packNibbles t
  | [a] => [byte (16 * a)]
  | [] => []

/-! ## UTF-8 -/

/-- UTF-8 of a code point below U+0100 (R169). -/
def utf8Small (cp : Nat) : List Byte := if cp < 0x80 then [byte cp] else [byte (0xC0 + cp / 64), byte (0x80 + cp % 64)]

/-- The length of a UTF-8 sequence by its first byte; 0 for a byte that begins none. -/
def utf8Len (b : Nat) : Nat :=
  if b < 0x80 then 1 else if b < 0xC2 then 0 else if b < 0xE0 then 2 else if b < 0xF0 then 3
  else if b < 0xF5 then 4 else 0

/-- The code point of a whole sequence; none if it is malformed: overlong, a surrogate, above U+10FFFF, or a bad
continuation byte (R170). -/
def utf8Decode (bs : List Nat) : Option Nat :=
  let cont (x : Nat) : Bool := x / 64 == 2
  match bs with
  | [a] => if a < 0x80 then some a else none
  | [a, x] => if cont x then some ((a % 32) * 64 + x % 64) else none
  | [a, x, y] =>
    let v := (a % 16) * 4096 + (x % 64) * 64 + y % 64
    if cont x && cont y && decide (0x800 ≤ v) && !decide (0xD800 ≤ v ∧ v ≤ 0xDFFF) then some v else none
  | [a, x, y, z] =>
    let v := (a % 8) * 262144 + (x % 64) * 4096 + (y % 64) * 64 + z % 64
    if cont x && cont y && cont z && decide (0x10000 ≤ v) && decide (v ≤ 0x10FFFF) then some v else none
  | _ => none

end Sys2Proof.Machine
end

