-- ==== Sys2Proof/Machine/Payments.lean ====
section
/-! DEFINITION. Payment cryptography (R270, R271): ISO 9564-1 PIN blocks, DUKPT (ANSI X9.24-1 and X9.24-3), the card
cryptograms of EMV Book 2, and X9.143 version D key blocks (R275). The standards are named by the rules (log 15). -/

namespace Sys2Proof.Machine

/-! ## PIN blocks -/

/-- The 12 rightmost PAN digits without the check digit, right-justified after zero digits (formats 0 and 3). -/
def panField (pan : List Nat) : List Byte :=
  let p := pan.dropLast
  let ds := p.drop (p.length - 12)
  packNibbles (List.replicate (16 - ds.length) 0 ++ ds)

/-- The PAN field of format 4: the length less 12, the digits, zeros. -/
def panField4 (pan : List Nat) : List Byte :=
  packNibbles ((pan.length - 12) :: pan ++ List.replicate (31 - pan.length) 0)

/-- The PIN of a clear PIN field, if the control nibble, the length, the digits and the fill pass (R270). -/
def pinOf (fmt : Nat) (field : List Nat) : Option (List Nat) :=
  let ctl := field.getD 0 0
  let len := field.getD 1 0
  let digits := (field.drop 2).take len
  let fill := (field.take 16).drop (2 + len)
  let fillOk : Bool := match fmt with
    | 0 => fill.all fun d => d == 15
    | 1 => true
    | _ => fill.all fun d => decide (10 ≤ d)
  if ctl = fmt ∧ 4 ≤ len ∧ len ≤ 12 ∧ (digits.all fun d => decide (d ≤ 9)) ∧ fillOk then some digits else none

/-- The PIN in an encrypted block of a format under a cipher; none if the check fails (R270). -/
def pinDecrypt (fmt : Nat) (c : Keyed) (pan : List Nat) (blk : List Byte) : Option (List Nat) :=
  match fmt with
  | 1 => pinOf 1 (nibbles (c.dec blk))
  | 4 => pinOf 4 (nibbles (c.dec (xorBytes (c.dec blk) (panField4 pan))))
  | f => pinOf f (nibbles (xorBytes (c.dec blk) (panField pan)))

/-- A fill digit from 0xA to 0xF drawn from a random byte. -/
def fillDigit (b : Byte) : Nat := 10 + b.toNat % 6

/-- The encrypted PIN block of a format; `rnd` supplies the random fill (R270). -/
def pinEncrypt (fmt : Nat) (c : Keyed) (pan pin : List Nat) (rnd : List Byte) : List Byte :=
  let n := pin.length
  let rest := 14 - n
  match fmt with
  | 0 => c.enc (xorBytes (packNibbles (0 :: n :: pin ++ List.replicate rest 15)) (panField pan))
  | 1 => c.enc (packNibbles (1 :: n :: pin ++ (nibbles rnd).take rest))
  | 4 =>
    let f := packNibbles (4 :: n :: pin ++ (rnd.map fillDigit).take rest ++ (nibbles (rnd.drop 14)).take 16)
    c.enc (xorBytes (c.enc f) (panField4 pan))
  | _ => c.enc (xorBytes (packNibbles (3 :: n :: pin ++ (rnd.map fillDigit).take rest)) (panField pan))

/-! ## DUKPT -/

/-- The variant constant of X9.24-1. -/
def dukptMask : List Byte := [0xC0, 0xC0, 0xC0, 0xC0, 0, 0, 0, 0]

/-- The non-reversible key generation of X9.24-1 on a key and a register. -/
def dukptStep (key reg : List Byte) : List Byte :=
  let half (l r : List Byte) : List Byte := xorBytes (desEnc l (xorBytes reg r)) r
  let l := key.take 8
  let r := key.drop 8
  half (xorBytes l dukptMask) (xorBytes r dukptMask) ++ half l r

/-- The 21-bit counter of a TDES KSN. -/
def ksnCounter (ksn : List Byte) : Nat := beNat (ksn.drop 2) % 2 ^ 21

/-- The PIN encryption key of TDES DUKPT for a KSN of 10 bytes. -/
def dukptTdes (bdk ksn : List Byte) : List Byte :=
  let ctr := ksnCounter ksn
  let base := beNat (ksn.drop 2) / 2 ^ 21 * 2 ^ 21
  let id := ksn.take 2 ++ (beBytes 8 base).take 6
  let ipek := tdesEnc bdk id ++ tdesEnc (xorBytes bdk (dukptMask ++ dukptMask)) id
  let r := (List.range 21).foldl (fun (p : Nat × List Byte) j =>
    let bit := 20 - j
    if ctr.testBit bit then let v := p.1 + 2 ^ bit; (v, dukptStep p.2 (beBytes 8 v)) else p) (base, ipek)
  let m : List Byte := zeros 7 ++ [0xFF#8]
  xorBytes r.2 (m ++ m)

/-- Key length codes of X9.24-3. -/
def dukptAlg (n : Nat) : Nat := if n = 32 then 4 else if n = 24 then 3 else 2

/-- Derives `n` key bytes from a key and derivation data whose second byte counts the blocks. -/
def dukptDerive (key data : List Byte) (n : Nat) : List Byte :=
  ((List.range (ceilDiv n 16)).flatMap fun i => aesEncKs (aesKeys key) (data.set 1 (byte (i + 1)))).take n

/-- Derivation data: usage, key bytes, and the eight last bytes. -/
def dukptData (usage n : Nat) (tail : List Byte) : List Byte :=
  [1#8, 1#8] ++ beBytes 2 usage ++ beBytes 2 (dukptAlg n) ++ beBytes 2 (8 * n) ++ tail

/-- The AES-128 PIN encryption key of AES DUKPT for a KSN of 12 bytes. -/
def dukptAes (bdk ksn : List Byte) : List Byte :=
  let n := bdk.length
  let id := ksn.take 8
  let ctr := fldBe ksn 8 4
  let ik := dukptDerive bdk (dukptData 0x8001 n id) n
  let r := (List.range 32).foldl (fun (p : Nat × List Byte) j =>
    let bit := 31 - j
    if ctr.testBit bit then
      let v := p.1 + 2 ^ bit
      (v, dukptDerive p.2 (dukptData 0x8000 n (id.drop 4 ++ beBytes 4 v)) n)
    else p) (0, ik)
  dukptDerive r.2 (dukptData 0x1000 16 (id.drop 4 ++ beBytes 4 ctr)) 16

/-! ## Card cryptograms -/

/-- The card master key from the issuer master key (option A for TDES, the AES method for AES). -/
def cardMaster (tdes : Bool) (imk : List Byte) (pan : List Nat) (psn : Nat) : List Byte :=
  let ds := pan ++ [psn / 16, psn % 16]
  if tdes then
    let d16 := List.replicate (16 - ds.length) 0 ++ ds.drop (ds.length - 16)
    let y := packNibbles d16
    tdesEnc imk y ++ tdesEnc imk (y.map (· ^^^ 0xFF#8))
  else
    let y := packNibbles (List.replicate (32 - ds.length) 0 ++ ds)
    let c := aesKeys imk
    (aesEncKs c y ++ aesEncKs c (y.map (· ^^^ 0xFF#8))).take imk.length

/-- The session key by common session key derivation on the ATC. -/
def cardSession (tdes : Bool) (mk atc : List Byte) : List Byte :=
  if tdes then
    tdesEnc mk (atc ++ [0xF0#8] ++ zeros 5) ++ tdesEnc mk (atc ++ [0x0F#8] ++ zeros 5)
  else
    let c := aesKeys mk
    if mk.length = 16 then aesEncKs c (atc ++ zeros 14)
    else (aesEncKs c (atc ++ [0xF0#8] ++ zeros 13) ++ aesEncKs c (atc ++ [0x0F#8] ++ zeros 13)).take mk.length

/-- The 8-byte cryptogram MAC under a session key. -/
def cardMac (tdes : Bool) (sk m : List Byte) : List Byte :=
  if tdes then retailMac sk 2 m else (cmac (aesKeyed sk) m).take 8

/-- ARPC method 1: the ARQC changed by the ARC, enciphered. -/
def arpc1 (tdes : Bool) (sk arqc arc : List Byte) : List Byte :=
  let y := xorBytes arqc (arc ++ zeros 6)
  if tdes then tdesEnc sk y else (aesEncKs (aesKeys sk) (y ++ zeros 8)).take 8

/-- ARPC method 2: a MAC over the ARQC, the CSU and the proprietary data. -/
def arpc2 (tdes : Bool) (sk arqc csu pad : List Byte) : List Byte := cardMac tdes sk (arqc ++ csu ++ pad)

/-! ## X9.143 version D key blocks -/

/-- ASCII of an upper-case hexadecimal digit. -/
def hexDigit (n : Nat) : Byte := byte (if n < 10 then 0x30 + n else 0x37 + n)

/-- Upper-case hexadecimal of bytes. -/
def toHex (bs : List Byte) : List Byte := (nibbles bs).map hexDigit

/-- Value of a hexadecimal character. -/
def hexVal (b : Byte) : Option Nat :=
  let n := b.toNat
  if 0x30 ≤ n ∧ n ≤ 0x39 then some (n - 0x30)
  else if 0x41 ≤ n ∧ n ≤ 0x46 then some (n - 0x37)
  else if 0x61 ≤ n ∧ n ≤ 0x66 then some (n - 0x57) else none

/-- Bytes of hexadecimal text. -/
def ofHex (bs : List Byte) : Option (List Byte) :=
  if bs.length % 2 = 1 ∨ bs.any (fun b => (hexVal b).isNone) then none
  else some (packNibbles (bs.map fun b => (hexVal b).getD 0))

/-- Decimal digits as a number. -/
def decVal (bs : List Byte) : Nat := bs.foldl (fun a b => 10 * a + (b.toNat - 0x30)) 0

/-- ASCII decimal of a number in `n` digits. -/
def decBytes : Nat → Nat → List Byte
  | 0, _ => []
  | n + 1, x => decBytes n (x / 10) ++ [byte (0x30 + x % 10)]

/-- The encryption (0) or authentication (1) key of a key-block protection key. -/
def kbKey (kbpk : List Byte) (use : Nat) : List Byte :=
  let n := kbpk.length
  let c := aesKeyed kbpk
  ((List.range (ceilDiv n 16)).flatMap fun i =>
    cmac c ([byte (i + 1)] ++ beBytes 2 use ++ [0#8] ++ beBytes 2 (dukptAlg n) ++ beBytes 2 (8 * n))).take n

/-- Header bytes before the encrypted part: 16 and the optional blocks. -/
def kbHeaderLen (blk : List Byte) : Nat → Nat → Nat
  | 0, off => off
  | n + 1, off => kbHeaderLen blk n (off + (beNat (((ofHex (sliceOf blk (off + 2) 2)).getD []))))

/-- Opens a version D key block: its header of 16 bytes and its key; none if the check fails. -/
def x9143Open (kbpk blk : List Byte) : Option (List Byte × List Byte) :=
  let hl := kbHeaderLen blk (decVal (sliceOf blk 12 2)) 16
  if blk.head? ≠ some 0x44#8 ∨ decVal (sliceOf blk 1 4) ≠ blk.length ∨ blk.length < hl + 64 then none
  else match ofHex ((blk.drop hl).take (blk.length - hl - 32)), ofHex (blk.drop (blk.length - 32)) with
    | some ct, some mac =>
      let pt := cbcDec (aesKeyed (kbKey kbpk 0)) mac ct
      let bits := fldBe pt 0 2
      if ct.length % 16 = 0 ∧ cmac (aesKeyed (kbKey kbpk 1)) (blk.take hl ++ pt) = mac ∧ bits % 8 = 0 ∧
          2 + bits / 8 ≤ pt.length
      then some (blk.take 16, sliceOf pt 2 (bits / 8)) else none
    | _, _ => none

/-- The size of a version D key block without optional blocks for a key of `n` bytes. -/
def x9143Len (n : Nat) : Nat := 16 + 2 * roundUp (n + 2) 16 + 32

/-- Seals a version D key block; `attr` is the header from the key usage to the exportability (R275), `rnd` the padding. -/
def x9143Seal (kbpk attr key rnd : List Byte) : List Byte :=
  let hdr := [0x44#8] ++ decBytes 4 (x9143Len key.length) ++ attr ++ decBytes 4 0
  let pt := beBytes 2 (8 * key.length) ++ key ++ rnd.take (roundUp (key.length + 2) 16 - key.length - 2)
  let mac := cmac (aesKeyed (kbKey kbpk 1)) (hdr ++ pt)
  hdr ++ toHex (cbcEnc (aesKeyed (kbKey kbpk 0)) mac pt) ++ toHex mac

end Sys2Proof.Machine
end

