-- ==== Sys2Proof/Config.lean ====
section
/-! DEFINITION. The values that the specification leaves open. Each is a constant without a body, so no proof can see
what it is; assumption log 7 lists them. -/

namespace Sys2Proof.Config

/-- Byte `k` that the DRBG of R277 delivers. -/
opaque drbg : Nat → BitVec 8

/-- The index into the history table of the branch predictor, by PC and global history (log 63). -/
opaque predictIndex : Nat → Nat → Nat

/-- The public exponent that the cost of an RSA job on an empty slot is computed from (R261 leaves it open). -/
opaque emptyExponent : Nat → Nat

/-- The slot from which an insert looks for a free one, and the entry that a move picks (R235 leaves both open). -/
opaque slotHint : Nat → Nat

/-- The MAXLEN of a path entry by its CANON, which R57 and R74 count and no table of R65 gives (log 25). -/
opaque pathMaxLen : Nat → Nat

/-- A value that the specification leaves open, drawn afresh each time (log 7). -/
opaque openValue : Nat → Nat

/-- Byte `k` of the key that the device derives from the root seed of its fuses (R277; the derivation is not given). -/
opaque rootKey : Nat → Nat → BitVec 8

end Sys2Proof.Config
end

