-- ==== Sys2Proof/Machine/Sparse.lean ====
section
/-! DEFINITION. Sparse maps: the canonical form in which memory, storage keys and setup registers are held, a
list of (key, value) pairs with strictly rising keys in which no value equals what an unlisted key reads as. -/

namespace Sys2Proof.Machine

variable {α : Type} [DecidableEq α]

/-- The value at a key; an unlisted key has the default. -/
def Sparse.get (d : Nat → α) (m : List (Nat × α)) (k : Nat) : α := (m.lookup k).getD (d k)

/-- The map without a key. -/
def Sparse.erase (m : List (Nat × α)) (k : Nat) : List (Nat × α) := m.filter fun p => p.1 != k

/-- Inserts an entry before the first larger key. -/
def Sparse.insert (k : Nat) (v : α) : List (Nat × α) → List (Nat × α)
  | [] => [(k, v)]
  | p :: t => if k < p.1 then (k, v) :: p :: t else p :: Sparse.insert k v t

/-- Writes a value; writing the default removes the entry. -/
def Sparse.set (d : Nat → α) (m : List (Nat × α)) (k : Nat) (v : α) : List (Nat × α) :=
  if v = d k then Sparse.erase m k else Sparse.insert k v (Sparse.erase m k)

/-- The canonical form. -/
abbrev Sparse.WF (d : Nat → α) (m : List (Nat × α)) : Prop :=
  m.Pairwise (fun a b => a.1 < b.1) ∧ ∀ p ∈ m, p.2 ≠ d p.1

end Sys2Proof.Machine
end

