-- ==== Sys2Proof/Machine/RegMap.lean ====
section
/-! DEFINITION. The setup registers of R427: for every register its BAR0 offset, its size, its fields with their
access codes and reset values, and how a written value outside a field's range is stored. The descriptors follow
the register tables of the chapters one by one; R421 gives the blocks' bases, R423 the sizes. -/

namespace Sys2Proof.Machine

/-- The access codes of register fields (R7; R427). -/
inductive Acc where
  | ro
  | rw
  | rwl
  | w1c
  | wo
  deriving DecidableEq, Repr

/-- How a written value is stored, as the field's Meaning states. -/
inductive Clamp where
  /-- as written -/
  | keep
  /-- a value outside the range is stored as the nearer limit -/
  | range (lo hi : Nat)
  /-- rounded down to a multiple of 64, then the nearer limit (XLT_REC) -/
  | range64 (lo hi : Nat)
  /-- a write of the first value is stored as the second -/
  | subst (bad good : Nat)
  /-- a write above the first value is stored as the second -/
  | above (top good : Nat)
  /-- bits [11:0] read as zero (XLT_POOL) -/
  | low12
  /-- a 32-bit two's complement value, the nearer limit of plus or minus the bound (R431) -/
  | signed32 (bound : Nat)
  /-- LOG2SIZE of a ring: 4 to 16 for slot rings, 20 to 32 for byte rings (R337, R355) -/
  | ringLog
  deriving DecidableEq, Repr

/-- One field of a register. -/
structure RField where
  lo : Nat
  width : Nat
  acc : Acc
  reset : Nat
  clamp : Clamp
  deriving DecidableEq, Repr

/-- A register, or an array of `count` registers `stride` bytes apart. `resetAt` lists the indices whose reset
value differs from that of the fields. -/
structure RegGroup where
  base : Nat
  stride : Nat
  count : Nat
  bytes : Nat
  fields : List RField
  resetAt : List (Nat × Nat)
  deriving DecidableEq, Repr

/-- A field of one register: its BAR0 offset, its lowest bit and its width. -/
structure FieldRef where
  off : Nat
  lo : Nat
  width : Nat
  deriving DecidableEq, Repr

/-- The registers of SYS: SYS_ID, SYS_SERIAL, SYS_STRAP, SYS_STATUS, SYS_RESET_CAUSE, SYS_BAD_ACCESS, SYS_EVT, SYS_EVT_EN, SYS_DEVTIME, SYS_TIME_CFG, SYS_TIME_RATE, SYS_TIME_STEP, SYS_PPS_CAP, SYS_PPS_OUT, SYS_DBG_CTRL, SYS_DBG_CHAL. -/
def RegMap.sys : List RegGroup := [
   ⟨0x0, 8, 1, 8, [⟨48, 16, .ro, 7996, .keep⟩, ⟨32, 16, .ro, 2400, .keep⟩, ⟨24, 8, .ro, 176, .keep⟩, ⟨16, 8, .ro, 1, .keep⟩], []⟩,
   ⟨0x8, 8, 2, 8, [⟨0, 64, .ro, 0, .keep⟩], []⟩,
   ⟨0x18, 8, 1, 8, [⟨63, 1, .ro, 0, .keep⟩, ⟨18, 2, .ro, 0, .keep⟩, ⟨16, 1, .ro, 0, .keep⟩, ⟨0, 10, .ro, 0, .keep⟩], []⟩,
   ⟨0x20, 8, 1, 8, [⟨8, 1, .ro, 0, .keep⟩, ⟨7, 1, .ro, 0, .keep⟩, ⟨6, 1, .ro, 0, .keep⟩, ⟨5, 1, .ro, 0, .keep⟩, ⟨4, 1, .w1c, 0, .keep⟩, ⟨3, 1, .w1c, 0, .keep⟩], []⟩,
   ⟨0x28, 8, 1, 8, [⟨48, 16, .ro, 0, .keep⟩, ⟨0, 3, .ro, 0, .keep⟩], []⟩,
   ⟨0x100, 8, 1, 8, [⟨63, 1, .ro, 0, .keep⟩, ⟨56, 4, .ro, 0, .keep⟩, ⟨48, 4, .ro, 0, .keep⟩, ⟨0, 24, .ro, 0, .keep⟩], []⟩,
   ⟨0x40, 8, 1, 8, [⟨0, 14, .w1c, 0, .keep⟩], []⟩,
   ⟨0x48, 8, 1, 8, [⟨16, 6, .rw, 0, .keep⟩, ⟨0, 14, .rw, 0, .keep⟩], []⟩,
   ⟨0x80, 8, 1, 8, [⟨0, 64, .ro, 0, .keep⟩], []⟩,
   ⟨0x88, 8, 1, 8, [⟨32, 32, .rw, 1000, .keep⟩, ⟨1, 1, .rw, 0, .keep⟩, ⟨0, 1, .rwl, 0, .keep⟩], []⟩,
   ⟨0x90, 8, 1, 8, [⟨0, 32, .rw, 0, .signed32 2147483⟩], []⟩,
   ⟨0x98, 8, 1, 8, [⟨0, 64, .wo, 0, .keep⟩], []⟩,
   ⟨0xA0, 8, 1, 8, [⟨0, 64, .ro, 0, .keep⟩], []⟩,
   ⟨0xA8, 8, 1, 8, [⟨63, 1, .rw, 0, .keep⟩, ⟨0, 32, .rw, 100000000, .range 1000 500000000⟩], []⟩,
   ⟨0xC0, 8, 1, 8, [⟨63, 1, .ro, 0, .keep⟩, ⟨56, 4, .ro, 0, .keep⟩, ⟨6, 41, .rw, 0, .keep⟩, ⟨4, 2, .rw, 0, .keep⟩, ⟨1, 1, .wo, 0, .keep⟩, ⟨0, 1, .wo, 0, .keep⟩], []⟩,
   ⟨0xC8, 8, 6, 8, [⟨0, 64, .ro, 0, .keep⟩], []⟩]

/-- The registers of BOOT: BOOT_STATUS, BOOT_CTRL, BOOT_HIMG, BOOT_HIMG_LEN, BOOT_RESET, BOOT_T_PG, BOOT_T_SI, BOOT_T_REL, BOOT_WARM_JSN, BOOT_FUSE_PROG, BOOT_FUSE_RD, BOOT_UCODE, BOOT_UCODE_DIGEST. -/
def RegMap.boot : List RegGroup := [
   ⟨0x10000, 8, 1, 8, [⟨32, 32, .ro, 0, .keep⟩, ⟨25, 1, .ro, 0, .keep⟩, ⟨24, 1, .ro, 0, .keep⟩, ⟨16, 8, .ro, 0, .keep⟩, ⟨8, 8, .ro, 0, .keep⟩, ⟨6, 2, .ro, 0, .keep⟩, ⟨0, 4, .ro, 0, .keep⟩], []⟩,
   ⟨0x10008, 8, 1, 8, [⟨2, 1, .wo, 0, .keep⟩, ⟨1, 1, .wo, 0, .keep⟩, ⟨0, 1, .wo, 0, .keep⟩], []⟩,
   ⟨0x10010, 8, 1, 8, [⟨6, 41, .rw, 0, .keep⟩], []⟩,
   ⟨0x10018, 8, 1, 8, [⟨0, 32, .rw, 0, .keep⟩], []⟩,
   ⟨0x10020, 8, 1, 8, [⟨48, 16, .wo, 0, .keep⟩, ⟨0, 2, .wo, 0, .keep⟩], []⟩,
   ⟨0x10028, 8, 1, 8, [⟨0, 64, .ro, 0, .keep⟩], []⟩,
   ⟨0x10030, 8, 1, 8, [⟨0, 64, .ro, 0, .keep⟩], []⟩,
   ⟨0x10038, 8, 1, 8, [⟨0, 64, .ro, 0, .keep⟩], []⟩,
   ⟨0x10040, 8, 1, 8, [⟨0, 64, .ro, 0, .keep⟩], []⟩,
   ⟨0x10048, 8, 1, 8, [⟨0, 16, .wo, 0, .keep⟩], []⟩,
   ⟨0x10100, 8, 1024, 8, [⟨0, 64, .ro, 0, .keep⟩], [(2, 176)]⟩,
   ⟨0x10050, 8, 1, 8, [⟨32, 32, .ro, 0, .keep⟩, ⟨24, 8, .ro, 0, .keep⟩, ⟨0, 15, .ro, 0, .keep⟩], []⟩,
   ⟨0x10058, 8, 6, 8, [⟨0, 64, .ro, 0, .keep⟩], []⟩]

/-- The registers of PWR: PWR_AVS, PWR_ISL_CTRL, PWR_ISL_STATUS. -/
def RegMap.pwr : List RegGroup := [
   ⟨0x20000, 8, 1, 8, [⟨48, 16, .ro, 0, .keep⟩, ⟨32, 16, .ro, 850, .keep⟩, ⟨16, 1, .w1c, 0, .keep⟩, ⟨1, 7, .rwl, 10, .range 0 50⟩, ⟨0, 1, .rwl, 1, .keep⟩], []⟩,
   ⟨0x20100, 8, 44, 8, [⟨0, 2, .wo, 0, .keep⟩], []⟩,
   ⟨0x20400, 8, 44, 8, [⟨48, 16, .ro, 0, .keep⟩, ⟨32, 16, .ro, 0, .keep⟩, ⟨16, 16, .ro, 0, .keep⟩, ⟨8, 4, .w1c, 0, .keep⟩, ⟨0, 3, .ro, 0, .keep⟩], []⟩]

/-- The registers of THM: THM_CFG, THM_SENSOR, THM_STATUS. -/
def RegMap.thm : List RegGroup := [
   ⟨0x30000, 8, 1, 8, [⟨48, 16, .rw, 100, .range 20 1000⟩, ⟨32, 8, .rw, 3, .range 1 20⟩, ⟨24, 8, .rw, 2, .range 1 10⟩, ⟨0, 8, .rw, 105, .range 60 120⟩], []⟩,
   ⟨0x30100, 8, 64, 8, [⟨48, 16, .w1c, 0, .keep⟩, ⟨16, 1, .ro, 0, .keep⟩, ⟨0, 16, .ro, 0, .keep⟩], []⟩,
   ⟨0x30008, 8, 1, 8, [⟨48, 16, .ro, 0, .keep⟩, ⟨32, 6, .ro, 0, .keep⟩, ⟨2, 1, .w1c, 0, .keep⟩, ⟨1, 1, .ro, 0, .keep⟩, ⟨0, 1, .ro, 0, .keep⟩], []⟩]

/-- The registers of ERR: ERR_CTRL, ERR_CFG, ERR_STATUS, ERR_LOG_PTR, ERR_SIMPLEX, ERR_CORE_MAP, ERR_LOG, ERR_CE_CNT, ERR_FAULT_CNT, ERR_RETIRE_CNT, ERR_SECOND_CNT, ERR_LOST_CNT. -/
def RegMap.err : List RegGroup := [
   ⟨0x40000, 8, 1, 8, [⟨8, 6, .rw, 0, .keep⟩, ⟨1, 1, .rw, 1, .keep⟩, ⟨0, 1, .rw, 0, .keep⟩], []⟩,
   ⟨0x40008, 8, 1, 8, [⟨32, 32, .rw, 86400, .keep⟩, ⟨0, 4, .rw, 2, .range 1 15⟩], []⟩,
   ⟨0x40010, 8, 1, 8, [⟨3, 1, .ro, 0, .keep⟩, ⟨2, 1, .w1c, 0, .keep⟩, ⟨1, 1, .w1c, 0, .keep⟩, ⟨0, 1, .w1c, 0, .keep⟩], []⟩,
   ⟨0x40018, 8, 1, 8, [⟨32, 32, .rw, 0, .keep⟩, ⟨0, 32, .ro, 0, .keep⟩], []⟩,
   ⟨0x40020, 8, 1, 8, [⟨0, 44, .ro, 0, .keep⟩], []⟩,
   ⟨0x40028, 8, 2, 8, [⟨0, 64, .ro, 0, .keep⟩], [(0, 18446744073709551615), (1, 4294967295)]⟩,
   ⟨0x41000, 8, 1024, 8, [⟨0, 64, .ro, 0, .keep⟩], []⟩,
   ⟨0x40080, 8, 1, 8, [⟨0, 64, .ro, 0, .keep⟩], []⟩,
   ⟨0x40088, 8, 1, 8, [⟨0, 64, .ro, 0, .keep⟩], []⟩,
   ⟨0x40090, 8, 1, 8, [⟨0, 64, .ro, 0, .keep⟩], []⟩,
   ⟨0x40098, 8, 1, 8, [⟨0, 64, .ro, 0, .keep⟩], []⟩,
   ⟨0x400A0, 8, 1, 8, [⟨0, 64, .ro, 0, .keep⟩], []⟩]

/-- The registers of MPU: MPU_COMMIT, MPU_STATUS, MPU_SKEY, MPU_FAULT, MPU_RGN_BASE, MPU_RGN_ATTR, MPU_ACT_BASE, MPU_ACT_ATTR, MPU_APTR. -/
def RegMap.mpu : List RegGroup := [
   ⟨0x50000, 8, 1, 8, [⟨0, 1, .wo, 0, .keep⟩], []⟩,
   ⟨0x50008, 8, 1, 8, [⟨32, 32, .ro, 0, .keep⟩, ⟨0, 1, .ro, 0, .keep⟩], []⟩,
   ⟨0x50010, 8, 1, 8, [⟨63, 1, .ro, 0, .keep⟩, ⟨12, 36, .wo, 0, .keep⟩, ⟨4, 1, .wo, 0, .keep⟩, ⟨0, 4, .wo, 0, .keep⟩], []⟩,
   ⟨0x50018, 8, 1, 8, [⟨63, 1, .w1c, 0, .keep⟩, ⟨56, 3, .ro, 0, .keep⟩, ⟨48, 1, .ro, 0, .keep⟩, ⟨0, 48, .ro, 0, .keep⟩], []⟩,
   ⟨0x51000, 16, 256, 8, [⟨12, 36, .rw, 0, .keep⟩, ⟨0, 6, .rw, 12, .range 12 48⟩], []⟩,
   ⟨0x51008, 16, 256, 8, [⟨16, 8, .rw, 0, .keep⟩, ⟨10, 1, .rw, 0, .keep⟩, ⟨9, 1, .rw, 0, .keep⟩, ⟨8, 1, .rw, 0, .keep⟩, ⟨4, 2, .rw, 0, .subst 3 1⟩, ⟨0, 1, .rw, 0, .keep⟩], []⟩,
   ⟨0x52000, 16, 256, 8, [⟨12, 36, .ro, 0, .keep⟩, ⟨0, 6, .ro, 0, .keep⟩], []⟩,
   ⟨0x52008, 16, 256, 8, [⟨16, 8, .ro, 0, .keep⟩, ⟨10, 1, .ro, 0, .keep⟩, ⟨9, 1, .ro, 0, .keep⟩, ⟨8, 1, .ro, 0, .keep⟩, ⟨4, 2, .ro, 0, .keep⟩, ⟨0, 1, .ro, 0, .keep⟩], []⟩,
   ⟨0x53000, 8, 256, 8, [⟨0, 48, .ro, 0, .keep⟩], []⟩]

/-- The registers of ADM: ADM_CTRL, ADM_CLASS, ADM_BUCKET, ADM_EGRESS, ADM_SCALE, ADM_PDT, ADM_ANSEQ, ADM_STATUS, ADM_ACCEPT_CNT, ADM_REFUSE_CNT, ADM_DECLINE_CNT, ADM_LATE_CNT. -/
def RegMap.adm : List RegGroup := [
   ⟨0x60000, 8, 1, 4, [⟨16, 16, .rwl, 2048, .keep⟩, ⟨2, 1, .rwl, 1, .keep⟩, ⟨1, 1, .rw, 1, .keep⟩, ⟨0, 1, .rw, 0, .keep⟩], []⟩,
   ⟨0x60010, 4, 4, 4, [⟨0, 32, .rw, 0, .range 250000 500000000⟩], [(0, 2000000), (1, 5000000), (2, 20000000), (3, 500000000)]⟩,
   ⟨0x60020, 8, 1, 4, [⟨16, 16, .rwl, 1000, .range 100 4000⟩, ⟨0, 16, .rwl, 10000, .range 1000 65535⟩], []⟩,
   ⟨0x60024, 8, 1, 4, [⟨0, 32, .rw, 120000, .keep⟩], []⟩,
   ⟨0x60028, 8, 1, 4, [⟨16, 16, .rw, 10000, .keep⟩, ⟨8, 8, .rw, 200, .keep⟩, ⟨0, 6, .rw, 4, .keep⟩], []⟩,
   ⟨0x60030, 8, 1, 8, [⟨48, 16, .rwl, 0, .range 0 4096⟩, ⟨12, 36, .rwl, 0, .keep⟩], []⟩,
   ⟨0x60038, 8, 1, 8, [⟨54, 10, .ro, 0, .keep⟩, ⟨0, 54, .rwl, 0, .keep⟩], []⟩,
   ⟨0x60040, 8, 1, 4, [⟨15, 17, .ro, 0, .keep⟩, ⟨1, 1, .ro, 0, .keep⟩, ⟨0, 1, .ro, 0, .keep⟩], []⟩,
   ⟨0x60080, 8, 1, 8, [⟨0, 64, .ro, 0, .keep⟩], []⟩,
   ⟨0x60108, 8, 7, 8, [⟨0, 64, .ro, 0, .keep⟩], []⟩,
   ⟨0x60180, 8, 7, 8, [⟨0, 64, .ro, 0, .keep⟩], []⟩,
   ⟨0x60200, 8, 1, 8, [⟨0, 64, .ro, 0, .keep⟩], []⟩]

/-- The registers of NET: NET_CTRL, NET_PORT, NET_PORT_STATUS, NET_CONN_BASE, NET_CONN_COUNT, NET_TCP, NET_STALL, NET_RXBUF, NET_DISCARD_CNT, NET_KEEPALIVE_CNT, NET_PAUSE_CNT, NET_CSUM_CNT, NET_STALL_CNT, NET_RETX_CNT. -/
def RegMap.net : List RegGroup := [
   ⟨0x70000, 8, 1, 4, [⟨16, 16, .rw, 1000, .keep⟩, ⟨4, 2, .rwl, 0, .subst 3 0⟩, ⟨3, 1, .rw, 0, .keep⟩, ⟨2, 1, .rwl, 1, .keep⟩, ⟨1, 1, .rw, 1, .keep⟩, ⟨0, 1, .rw, 0, .keep⟩], []⟩,
   ⟨0x70100, 32, 8, 8, [⟨16, 48, .rwl, 0, .keep⟩, ⟨0, 16, .rwl, 1500, .range 576 9216⟩], []⟩,
   ⟨0x70108, 32, 8, 4, [⟨2, 1, .w1c, 0, .keep⟩, ⟨1, 1, .w1c, 0, .keep⟩, ⟨0, 1, .ro, 0, .keep⟩], []⟩,
   ⟨0x70200, 8, 1, 8, [⟨12, 36, .rwl, 0, .keep⟩], []⟩,
   ⟨0x70208, 8, 1, 4, [⟨0, 19, .rwl, 0, .range 0 262144⟩], []⟩,
   ⟨0x70210, 8, 1, 8, [⟨48, 16, .rw, 5000, .keep⟩, ⟨32, 16, .rw, 60000, .keep⟩, ⟨24, 8, .rw, 8, .keep⟩, ⟨16, 8, .rw, 40, .keep⟩, ⟨8, 8, .rw, 10, .keep⟩], []⟩,
   ⟨0x70218, 8, 1, 8, [⟨32, 32, .rw, 30000, .keep⟩, ⟨0, 32, .rw, 20000, .range 0 20000⟩], []⟩,
   ⟨0x70220, 8, 1, 4, [⟨16, 4, .rw, 4, .range 0 8⟩, ⟨0, 16, .rw, 256, .keep⟩], []⟩,
   ⟨0x70300, 8, 1, 8, [⟨0, 64, .ro, 0, .keep⟩], []⟩,
   ⟨0x70308, 8, 1, 8, [⟨0, 64, .ro, 0, .keep⟩], []⟩,
   ⟨0x70310, 8, 1, 8, [⟨0, 64, .ro, 0, .keep⟩], []⟩,
   ⟨0x70318, 8, 1, 8, [⟨0, 64, .ro, 0, .keep⟩], []⟩,
   ⟨0x70320, 8, 1, 8, [⟨0, 64, .ro, 0, .keep⟩], []⟩,
   ⟨0x70328, 8, 1, 8, [⟨0, 64, .ro, 0, .keep⟩], []⟩]

/-- The registers of XLT: XLT_CTRL, XLT_DTAB, XLT_REC, XLT_POOL, XLT_EXT_REQ, XLT_EXT_RSP, XLT_VWIN, XLT_LAST_ERR, XLT_SCR_VA, XLT_SCR_AREA, XLT_PARSE_CNT, XLT_PERR_CNT, XLT_SERR_CNT, XLT_SUBST_CNT. -/
def RegMap.xlt : List RegGroup := [
   ⟨0x80000, 8, 1, 8, [⟨32, 32, .ro, 4294967295, .keep⟩, ⟨0, 1, .rw, 0, .keep⟩], []⟩,
   ⟨0x80008, 8, 1, 8, [⟨12, 36, .rwl, 0, .keep⟩], []⟩,
   ⟨0x80010, 8, 1, 4, [⟨16, 16, .rwl, 640, .range64 256 16384⟩, ⟨0, 16, .rwl, 640, .range64 256 16384⟩], []⟩,
   ⟨0x80018, 8, 1, 8, [⟨32, 32, .rwl, 0, .low12⟩, ⟨0, 32, .rwl, 0, .low12⟩], []⟩,
   ⟨0x80020, 8, 1, 8, [⟨12, 36, .rwl, 0, .keep⟩], []⟩,
   ⟨0x80028, 8, 1, 8, [⟨12, 36, .rwl, 0, .keep⟩], []⟩,
   ⟨0x80040, 8, 4, 8, [⟨12, 36, .rwl, 0, .keep⟩], []⟩,
   ⟨0x80060, 8, 1, 8, [⟨32, 32, .ro, 0, .keep⟩, ⟨16, 16, .ro, 0, .keep⟩, ⟨8, 8, .ro, 0, .keep⟩, ⟨0, 8, .ro, 0, .keep⟩], []⟩,
   ⟨0x80068, 8, 1, 8, [⟨12, 36, .rwl, 0, .keep⟩], []⟩,
   ⟨0x80070, 8, 1, 4, [⟨24, 8, .rwl, 6, .range 1 64⟩, ⟨12, 10, .rwl, 640, .keep⟩], []⟩,
   ⟨0x80080, 8, 1, 8, [⟨0, 64, .ro, 0, .keep⟩], []⟩,
   ⟨0x80088, 8, 1, 8, [⟨0, 64, .ro, 0, .keep⟩], []⟩,
   ⟨0x80090, 8, 1, 8, [⟨0, 64, .ro, 0, .keep⟩], []⟩,
   ⟨0x80098, 8, 1, 8, [⟨0, 64, .ro, 0, .keep⟩], []⟩]

/-- The registers of CRY: CRY_CTRL, CRY_PKE_MAP, CRY_SYM_MAP, CRY_STATUS, CRY_TAMPER, CRY_JOB_CNT, CRY_MISMATCH_CNT, CRY_ABORT_CNT, CRY_ABLATE_CNT, CRY_REISSUE_CNT, CRY_SIGFAIL_CNT, CRY_XLTKEY_CNT. -/
def RegMap.cry : List RegGroup := [
   ⟨0x90000, 8, 1, 8, [⟨1, 1, .rwl, 0, .keep⟩, ⟨0, 1, .rw, 0, .keep⟩], []⟩,
   ⟨0x90008, 8, 1, 8, [⟨0, 48, .ro, 281474976710655, .keep⟩], []⟩,
   ⟨0x90010, 8, 1, 8, [⟨0, 48, .ro, 281474976710655, .keep⟩], []⟩,
   ⟨0x90018, 8, 1, 8, [⟨32, 16, .ro, 0, .keep⟩, ⟨16, 16, .ro, 32768, .keep⟩, ⟨8, 1, .w1c, 0, .keep⟩, ⟨4, 4, .w1c, 0, .keep⟩], []⟩,
   ⟨0x90020, 8, 1, 4, [⟨0, 4, .rwl, 15, .keep⟩], []⟩,
   ⟨0x90080, 8, 1, 8, [⟨0, 64, .ro, 0, .keep⟩], []⟩,
   ⟨0x90088, 8, 1, 8, [⟨0, 64, .ro, 0, .keep⟩], []⟩,
   ⟨0x90090, 8, 1, 8, [⟨0, 64, .ro, 0, .keep⟩], []⟩,
   ⟨0x90098, 8, 1, 8, [⟨0, 64, .ro, 0, .keep⟩], []⟩,
   ⟨0x900A0, 8, 1, 8, [⟨0, 64, .ro, 0, .keep⟩], []⟩,
   ⟨0x900A8, 8, 1, 8, [⟨0, 64, .ro, 0, .keep⟩], []⟩,
   ⟨0x900B0, 8, 1, 8, [⟨0, 64, .ro, 0, .keep⟩], []⟩]

/-- The registers of LDG: LDG_CTRL, LDG_HBM, LDG_BTAB, LDG_WLOG, LDG_STATUS, LDG_OPS_CNT, LDG_WOUND_CNT, LDG_REPLAY_CNT, LDG_ABORT_CNT, LDG_REFUSE_CNT, LDG_CE_CNT, LDG_REBUILD_CNT. -/
def RegMap.ldg : List RegGroup := [
   ⟨0xA0000, 8, 1, 8, [⟨12, 4, .rw, 3, .keep⟩, ⟨0, 1, .rw, 0, .keep⟩], []⟩,
   ⟨0xA0008, 8, 1, 8, [⟨16, 8, .rw, 24, .range 1 168⟩, ⟨0, 2, .rwl, 0, .subst 3 0⟩], []⟩,
   ⟨0xA0010, 8, 1, 8, [⟨12, 36, .rwl, 0, .keep⟩], []⟩,
   ⟨0xA0018, 8, 1, 8, [⟨12, 10, .rwl, 736, .keep⟩], []⟩,
   ⟨0xA0020, 8, 1, 8, [⟨32, 32, .ro, 0, .keep⟩, ⟨4, 1, .ro, 0, .keep⟩, ⟨2, 2, .ro, 0, .keep⟩], []⟩,
   ⟨0xA0080, 8, 1, 8, [⟨0, 64, .ro, 0, .keep⟩], []⟩,
   ⟨0xA0088, 8, 1, 8, [⟨0, 64, .ro, 0, .keep⟩], []⟩,
   ⟨0xA0090, 8, 1, 8, [⟨0, 64, .ro, 0, .keep⟩], []⟩,
   ⟨0xA0098, 8, 1, 8, [⟨0, 64, .ro, 0, .keep⟩], []⟩,
   ⟨0xA00A0, 8, 1, 8, [⟨0, 64, .ro, 0, .keep⟩], []⟩,
   ⟨0xA00A8, 8, 1, 8, [⟨0, 64, .ro, 0, .keep⟩], []⟩,
   ⟨0xA00B0, 8, 1, 8, [⟨0, 64, .ro, 0, .keep⟩], []⟩]

/-- The registers of JNL: JNL_CTRL, JNL_EPOCH, JNL_SEAL, JNL_MIRROR, JNL_AREA, JNL_GSEAL, JNL_RESUME_JSN, JNL_RESUME_EPOCH, JNL_RESUME_CHAIN, JNL_RESUME_SEAL, JNL_RESUME_GSEAL, JNL_STATUS, JNL_LAST_JSN, JNL_COMMIT_CNT, JNL_SEAL_CNT, JNL_MLATE_CNT, JNL_STRAG_CNT, JNL_GABSENT_CNT. -/
def RegMap.jnl : List RegGroup := [
   ⟨0xB0000, 8, 1, 8, [⟨0, 1, .rw, 0, .keep⟩], []⟩,
   ⟨0xB0008, 8, 1, 8, [⟨32, 32, .rw, 50000, .range 20000 1000000⟩, ⟨0, 32, .rwl, 10000, .range 1000 1000000⟩], []⟩,
   ⟨0xB0010, 8, 1, 8, [⟨16, 16, .rwl, 0, .keep⟩, ⟨0, 16, .rwl, 0, .keep⟩], []⟩,
   ⟨0xB0018, 8, 1, 8, [⟨32, 32, .rw, 30000, .keep⟩, ⟨16, 16, .rw, 8000, .range 0 20000⟩, ⟨4, 10, .rwl, 0, .keep⟩, ⟨0, 2, .rwl, 0, .subst 3 0⟩], []⟩,
   ⟨0xB0020, 8, 2, 8, [⟨32, 32, .rw, 65536, .keep⟩, ⟨8, 1, .rw, 0, .keep⟩, ⟨0, 8, .rwl, 0, .keep⟩], []⟩,
   ⟨0xB0030, 8, 1, 8, [⟨0, 32, .rw, 5000, .keep⟩], []⟩,
   ⟨0xB0038, 8, 1, 8, [⟨0, 64, .rwl, 1, .keep⟩], []⟩,
   ⟨0xB0040, 8, 1, 8, [⟨0, 32, .rwl, 1, .keep⟩], []⟩,
   ⟨0xB0048, 8, 6, 8, [⟨0, 64, .rwl, 0, .keep⟩], []⟩,
   ⟨0xB0078, 8, 6, 8, [⟨0, 64, .rwl, 0, .keep⟩], []⟩,
   ⟨0xB00A8, 8, 6, 8, [⟨0, 64, .rwl, 0, .keep⟩], []⟩,
   ⟨0xB00D8, 8, 1, 8, [⟨32, 32, .ro, 0, .keep⟩, ⟨5, 1, .w1c, 0, .keep⟩, ⟨4, 1, .ro, 0, .keep⟩, ⟨3, 1, .w1c, 0, .keep⟩, ⟨2, 1, .w1c, 0, .keep⟩, ⟨1, 1, .ro, 0, .keep⟩], []⟩,
   ⟨0xB00E0, 8, 1, 8, [⟨0, 64, .ro, 0, .keep⟩], []⟩,
   ⟨0xB0100, 8, 1, 8, [⟨0, 64, .ro, 0, .keep⟩], []⟩,
   ⟨0xB0108, 8, 1, 8, [⟨0, 64, .ro, 0, .keep⟩], []⟩,
   ⟨0xB0110, 8, 1, 8, [⟨0, 64, .ro, 0, .keep⟩], []⟩,
   ⟨0xB0118, 8, 1, 8, [⟨0, 64, .ro, 0, .keep⟩], []⟩,
   ⟨0xB0120, 8, 1, 8, [⟨0, 64, .ro, 0, .keep⟩], []⟩]

/-- The registers of KOL: KOL_CTRL, KOL_ROLE, KOL_LINK, KOL_E2E, KOL_LEAD, KOL_SMAP, KOL_RSV, KOL_MRX, KOL_TIME, KOL_TIME_OFS, KOL_GEPOCH, KOL_STATUS, KOL_PORT_STATUS, KOL_WIN, KOL_RETRY_CNT, KOL_FEC_CNT, KOL_FECUNC_CNT, KOL_TIMEOUT_CNT, KOL_WOUND_CNT, KOL_LOST_CNT, KOL_XCOMMIT_CNT. -/
def RegMap.kol : List RegGroup := [
   ⟨0xC0000, 8, 1, 8, [⟨32, 10, .rwl, 0, .keep⟩, ⟨24, 3, .rwl, 0, .keep⟩, ⟨16, 5, .rwl, 0, .keep⟩, ⟨8, 6, .rwl, 0, .keep⟩, ⟨1, 3, .rwl, 0, .above 4 0⟩, ⟨0, 1, .rw, 0, .keep⟩], []⟩,
   ⟨0xC0008, 8, 1, 8, [⟨32, 10, .rwl, 0, .keep⟩, ⟨16, 10, .rw, 0, .keep⟩, ⟨10, 1, .ro, 0, .keep⟩, ⟨0, 10, .ro, 0, .keep⟩], []⟩,
   ⟨0xC0010, 8, 1, 8, [⟨0, 8, .rw, 8, .range 1 255⟩], []⟩,
   ⟨0xC0018, 8, 1, 8, [⟨48, 16, .rw, 10000, .keep⟩, ⟨32, 16, .rw, 1000, .keep⟩, ⟨0, 32, .rw, 100000, .range 20000 4294967295⟩], []⟩,
   ⟨0xC0020, 8, 1, 8, [⟨16, 16, .rw, 1000, .range 0 1000⟩, ⟨0, 16, .rw, 100, .range 0 250⟩], []⟩,
   ⟨0xC0028, 8, 1, 8, [⟨12, 36, .rwl, 0, .keep⟩], []⟩,
   ⟨0xC0030, 8, 1, 8, [⟨12, 36, .rwl, 0, .keep⟩], []⟩,
   ⟨0xC0038, 8, 1, 8, [⟨0, 8, .rwl, 0, .keep⟩], []⟩,
   ⟨0xC0040, 8, 1, 8, [⟨0, 32, .rw, 1000, .keep⟩], []⟩,
   ⟨0xC0048, 8, 1, 8, [⟨0, 64, .ro, 0, .keep⟩], []⟩,
   ⟨0xC0050, 8, 1, 8, [⟨0, 32, .rwl, 1, .keep⟩], []⟩,
   ⟨0xC0058, 8, 1, 8, [⟨32, 32, .ro, 0, .keep⟩, ⟨16, 16, .ro, 0, .keep⟩, ⟨6, 1, .ro, 0, .keep⟩, ⟨5, 1, .w1c, 0, .keep⟩, ⟨4, 1, .w1c, 0, .keep⟩, ⟨3, 1, .ro, 0, .keep⟩, ⟨2, 1, .ro, 0, .keep⟩, ⟨1, 1, .ro, 0, .keep⟩], []⟩,
   ⟨0xC0100, 8, 8, 8, [⟨16, 10, .ro, 0, .keep⟩, ⟨1, 1, .w1c, 0, .keep⟩, ⟨0, 1, .ro, 0, .keep⟩], []⟩,
   ⟨0xC0200, 8, 64, 8, [⟨63, 1, .rw, 0, .keep⟩, ⟨0, 10, .rw, 0, .keep⟩], []⟩,
   ⟨0xC0400, 8, 1, 8, [⟨0, 64, .ro, 0, .keep⟩], []⟩,
   ⟨0xC0408, 8, 1, 8, [⟨0, 64, .ro, 0, .keep⟩], []⟩,
   ⟨0xC0410, 8, 1, 8, [⟨0, 64, .ro, 0, .keep⟩], []⟩,
   ⟨0xC0418, 8, 1, 8, [⟨0, 64, .ro, 0, .keep⟩], []⟩,
   ⟨0xC0420, 8, 1, 8, [⟨0, 64, .ro, 0, .keep⟩], []⟩,
   ⟨0xC0428, 8, 1, 8, [⟨0, 64, .ro, 0, .keep⟩], []⟩,
   ⟨0xC0430, 8, 1, 8, [⟨0, 64, .ro, 0, .keep⟩], []⟩]

/-- The registers of HIF: HIF_CTRL, HIF_STATUS, HIF_POLL, HIF_DBELL, HIF_STAT, HIF_GONE, HIF_RING_BASE, HIF_RING_CFG, HIF_RING_STATE, HIF_RING_IDX, HIF_SQ_CNT, HIF_BADDESC_CNT, HIF_WAIT_CNT, HIF_EXCDROP_CNT, HIF_HOSTERR_CNT, HIF_RINGERR_CNT. -/
def RegMap.hif : List RegGroup := [
   ⟨0xD0000, 8, 1, 8, [⟨0, 1, .rw, 0, .keep⟩], []⟩,
   ⟨0xD0008, 8, 1, 8, [⟨8, 8, .ro, 0, .keep⟩, ⟨5, 3, .ro, 0, .keep⟩, ⟨2, 1, .ro, 0, .keep⟩, ⟨0, 2, .ro, 0, .keep⟩], []⟩,
   ⟨0xD0010, 8, 1, 8, [⟨0, 32, .rw, 2000, .range 500 100000⟩], []⟩,
   ⟨0xD0018, 8, 1, 8, [⟨12, 35, .rwl, 0, .keep⟩], []⟩,
   ⟨0xD0020, 8, 1, 8, [⟨12, 35, .rwl, 0, .keep⟩], []⟩,
   ⟨0xD0028, 8, 1, 8, [⟨0, 4, .rw, 0, .keep⟩], []⟩,
   ⟨0xD0100, 32, 40, 8, [⟨12, 35, .rwl, 0, .keep⟩], []⟩,
   ⟨0xD0108, 32, 40, 8, [⟨32, 32, .rw, 20000, .keep⟩, ⟨24, 6, .rw, 0, .keep⟩, ⟨16, 8, .rw, 1, .keep⟩, ⟨8, 8, .rw, 0, .keep⟩, ⟨2, 6, .rwl, 0, .ringLog⟩, ⟨0, 1, .rw, 0, .keep⟩], []⟩,
   ⟨0xD0110, 32, 40, 8, [⟨4, 4, .ro, 0, .keep⟩, ⟨1, 1, .w1c, 0, .keep⟩, ⟨0, 1, .ro, 0, .keep⟩], []⟩,
   ⟨0xD0118, 32, 40, 8, [⟨0, 64, .ro, 0, .keep⟩], []⟩,
   ⟨0xD0800, 8, 1, 8, [⟨0, 64, .ro, 0, .keep⟩], []⟩,
   ⟨0xD0808, 8, 1, 8, [⟨0, 64, .ro, 0, .keep⟩], []⟩,
   ⟨0xD0810, 8, 1, 8, [⟨0, 64, .ro, 0, .keep⟩], []⟩,
   ⟨0xD0818, 8, 1, 8, [⟨0, 64, .ro, 0, .keep⟩], []⟩,
   ⟨0xD0820, 8, 1, 8, [⟨0, 64, .ro, 0, .keep⟩], []⟩,
   ⟨0xD0828, 8, 1, 8, [⟨0, 64, .ro, 0, .keep⟩], []⟩]

/-- The registers of the block that holds an offset (R421: one block in each 64 KiB). -/
def RegMap.block : Nat → List RegGroup
  | 0 => RegMap.sys
  | 1 => RegMap.boot
  | 2 => RegMap.pwr
  | 3 => RegMap.thm
  | 4 => RegMap.err
  | 5 => RegMap.mpu
  | 6 => RegMap.adm
  | 7 => RegMap.net
  | 8 => RegMap.xlt
  | 9 => RegMap.cry
  | 10 => RegMap.ldg
  | 11 => RegMap.jnl
  | 12 => RegMap.kol
  | 13 => RegMap.hif
  | _ => []

namespace Off

def ADM_CTRL : Nat := 0x60000
def ADM_CLASS (k : Nat) : Nat := 0x60010 + 4 * k
def ADM_BUCKET : Nat := 0x60020
def ADM_EGRESS : Nat := 0x60024
def ADM_SCALE : Nat := 0x60028
def ADM_PDT : Nat := 0x60030
def ADM_ANSEQ : Nat := 0x60038
def ADM_STATUS : Nat := 0x60040
def ADM_ACCEPT_CNT : Nat := 0x60080
def ADM_REFUSE_CNT (k : Nat) : Nat := 0x60108 + 8 * k
def ADM_DECLINE_CNT (k : Nat) : Nat := 0x60180 + 8 * k
def ADM_LATE_CNT : Nat := 0x60200
def NET_CTRL : Nat := 0x70000
def NET_PORT (k : Nat) : Nat := 0x70100 + 32 * k
def NET_PORT_STATUS (k : Nat) : Nat := 0x70108 + 32 * k
def NET_CONN_BASE : Nat := 0x70200
def NET_CONN_COUNT : Nat := 0x70208
def NET_TCP : Nat := 0x70210
def NET_STALL : Nat := 0x70218
def NET_RXBUF : Nat := 0x70220
def NET_DISCARD_CNT : Nat := 0x70300
def NET_KEEPALIVE_CNT : Nat := 0x70308
def NET_PAUSE_CNT : Nat := 0x70310
def NET_CSUM_CNT : Nat := 0x70318
def NET_STALL_CNT : Nat := 0x70320
def NET_RETX_CNT : Nat := 0x70328
def XLT_CTRL : Nat := 0x80000
def XLT_DTAB : Nat := 0x80008
def XLT_REC : Nat := 0x80010
def XLT_POOL : Nat := 0x80018
def XLT_EXT_REQ : Nat := 0x80020
def XLT_EXT_RSP : Nat := 0x80028
def XLT_VWIN (k : Nat) : Nat := 0x80040 + 8 * k
def XLT_LAST_ERR : Nat := 0x80060
def XLT_SCR_VA : Nat := 0x80068
def XLT_SCR_AREA : Nat := 0x80070
def XLT_PARSE_CNT : Nat := 0x80080
def XLT_PERR_CNT : Nat := 0x80088
def XLT_SERR_CNT : Nat := 0x80090
def XLT_SUBST_CNT : Nat := 0x80098
def MPU_COMMIT : Nat := 0x50000
def MPU_STATUS : Nat := 0x50008
def MPU_SKEY : Nat := 0x50010
def MPU_FAULT : Nat := 0x50018
def MPU_RGN_BASE (k : Nat) : Nat := 0x51000 + 16 * k
def MPU_RGN_ATTR (k : Nat) : Nat := 0x51008 + 16 * k
def MPU_ACT_BASE (k : Nat) : Nat := 0x52000 + 16 * k
def MPU_ACT_ATTR (k : Nat) : Nat := 0x52008 + 16 * k
def MPU_APTR (k : Nat) : Nat := 0x53000 + 8 * k
def LDG_CTRL : Nat := 0xA0000
def LDG_HBM : Nat := 0xA0008
def LDG_BTAB : Nat := 0xA0010
def LDG_WLOG : Nat := 0xA0018
def LDG_STATUS : Nat := 0xA0020
def LDG_OPS_CNT : Nat := 0xA0080
def LDG_WOUND_CNT : Nat := 0xA0088
def LDG_REPLAY_CNT : Nat := 0xA0090
def LDG_ABORT_CNT : Nat := 0xA0098
def LDG_REFUSE_CNT : Nat := 0xA00A0
def LDG_CE_CNT : Nat := 0xA00A8
def LDG_REBUILD_CNT : Nat := 0xA00B0
def CRY_CTRL : Nat := 0x90000
def CRY_PKE_MAP : Nat := 0x90008
def CRY_SYM_MAP : Nat := 0x90010
def CRY_STATUS : Nat := 0x90018
def CRY_TAMPER : Nat := 0x90020
def CRY_JOB_CNT : Nat := 0x90080
def CRY_MISMATCH_CNT : Nat := 0x90088
def CRY_ABORT_CNT : Nat := 0x90090
def CRY_ABLATE_CNT : Nat := 0x90098
def CRY_REISSUE_CNT : Nat := 0x900A0
def CRY_SIGFAIL_CNT : Nat := 0x900A8
def CRY_XLTKEY_CNT : Nat := 0x900B0
def JNL_CTRL : Nat := 0xB0000
def JNL_EPOCH : Nat := 0xB0008
def JNL_SEAL : Nat := 0xB0010
def JNL_MIRROR : Nat := 0xB0018
def JNL_AREA (k : Nat) : Nat := 0xB0020 + 8 * k
def JNL_GSEAL : Nat := 0xB0030
def JNL_RESUME_JSN : Nat := 0xB0038
def JNL_RESUME_EPOCH : Nat := 0xB0040
def JNL_RESUME_CHAIN (k : Nat) : Nat := 0xB0048 + 8 * k
def JNL_RESUME_SEAL (k : Nat) : Nat := 0xB0078 + 8 * k
def JNL_RESUME_GSEAL (k : Nat) : Nat := 0xB00A8 + 8 * k
def JNL_STATUS : Nat := 0xB00D8
def JNL_LAST_JSN : Nat := 0xB00E0
def JNL_COMMIT_CNT : Nat := 0xB0100
def JNL_SEAL_CNT : Nat := 0xB0108
def JNL_MLATE_CNT : Nat := 0xB0110
def JNL_STRAG_CNT : Nat := 0xB0118
def JNL_GABSENT_CNT : Nat := 0xB0120
def KOL_CTRL : Nat := 0xC0000
def KOL_ROLE : Nat := 0xC0008
def KOL_LINK : Nat := 0xC0010
def KOL_E2E : Nat := 0xC0018
def KOL_LEAD : Nat := 0xC0020
def KOL_SMAP : Nat := 0xC0028
def KOL_RSV : Nat := 0xC0030
def KOL_MRX : Nat := 0xC0038
def KOL_TIME : Nat := 0xC0040
def KOL_TIME_OFS : Nat := 0xC0048
def KOL_GEPOCH : Nat := 0xC0050
def KOL_STATUS : Nat := 0xC0058
def KOL_PORT_STATUS (k : Nat) : Nat := 0xC0100 + 8 * k
def KOL_WIN (k : Nat) : Nat := 0xC0200 + 8 * k
def KOL_RETRY_CNT : Nat := 0xC0400
def KOL_FEC_CNT : Nat := 0xC0408
def KOL_FECUNC_CNT : Nat := 0xC0410
def KOL_TIMEOUT_CNT : Nat := 0xC0418
def KOL_WOUND_CNT : Nat := 0xC0420
def KOL_LOST_CNT : Nat := 0xC0428
def KOL_XCOMMIT_CNT : Nat := 0xC0430
def HIF_CTRL : Nat := 0xD0000
def HIF_STATUS : Nat := 0xD0008
def HIF_POLL : Nat := 0xD0010
def HIF_DBELL : Nat := 0xD0018
def HIF_STAT : Nat := 0xD0020
def HIF_GONE : Nat := 0xD0028
def HIF_RING_BASE (k : Nat) : Nat := 0xD0100 + 32 * k
def HIF_RING_CFG (k : Nat) : Nat := 0xD0108 + 32 * k
def HIF_RING_STATE (k : Nat) : Nat := 0xD0110 + 32 * k
def HIF_RING_IDX (k : Nat) : Nat := 0xD0118 + 32 * k
def HIF_SQ_CNT : Nat := 0xD0800
def HIF_BADDESC_CNT : Nat := 0xD0808
def HIF_WAIT_CNT : Nat := 0xD0810
def HIF_EXCDROP_CNT : Nat := 0xD0818
def HIF_HOSTERR_CNT : Nat := 0xD0820
def HIF_RINGERR_CNT : Nat := 0xD0828
def BOOT_STATUS : Nat := 0x10000
def BOOT_CTRL : Nat := 0x10008
def BOOT_HIMG : Nat := 0x10010
def BOOT_HIMG_LEN : Nat := 0x10018
def BOOT_RESET : Nat := 0x10020
def BOOT_T_PG : Nat := 0x10028
def BOOT_T_SI : Nat := 0x10030
def BOOT_T_REL : Nat := 0x10038
def BOOT_WARM_JSN : Nat := 0x10040
def BOOT_FUSE_PROG : Nat := 0x10048
def BOOT_FUSE_RD (k : Nat) : Nat := 0x10100 + 8 * k
def PWR_AVS : Nat := 0x20000
def PWR_ISL_CTRL (k : Nat) : Nat := 0x20100 + 8 * k
def PWR_ISL_STATUS (k : Nat) : Nat := 0x20400 + 8 * k
def THM_CFG : Nat := 0x30000
def THM_SENSOR (k : Nat) : Nat := 0x30100 + 8 * k
def THM_STATUS : Nat := 0x30008
def ERR_CTRL : Nat := 0x40000
def ERR_CFG : Nat := 0x40008
def ERR_STATUS : Nat := 0x40010
def ERR_LOG_PTR : Nat := 0x40018
def ERR_SIMPLEX : Nat := 0x40020
def ERR_CORE_MAP (k : Nat) : Nat := 0x40028 + 8 * k
def ERR_LOG (k : Nat) : Nat := 0x41000 + 8 * k
def ERR_CE_CNT : Nat := 0x40080
def ERR_FAULT_CNT : Nat := 0x40088
def ERR_RETIRE_CNT : Nat := 0x40090
def ERR_SECOND_CNT : Nat := 0x40098
def ERR_LOST_CNT : Nat := 0x400A0
def BOOT_UCODE : Nat := 0x10050
def BOOT_UCODE_DIGEST (k : Nat) : Nat := 0x10058 + 8 * k
def SYS_ID : Nat := 0x0
def SYS_SERIAL (k : Nat) : Nat := 0x8 + 8 * k
def SYS_STRAP : Nat := 0x18
def SYS_STATUS : Nat := 0x20
def SYS_RESET_CAUSE : Nat := 0x28
def SYS_BAD_ACCESS : Nat := 0x100
def SYS_EVT : Nat := 0x40
def SYS_EVT_EN : Nat := 0x48
def SYS_DEVTIME : Nat := 0x80
def SYS_TIME_CFG : Nat := 0x88
def SYS_TIME_RATE : Nat := 0x90
def SYS_TIME_STEP : Nat := 0x98
def SYS_PPS_CAP : Nat := 0xA0
def SYS_PPS_OUT : Nat := 0xA8
def SYS_DBG_CTRL : Nat := 0xC0
def SYS_DBG_CHAL (k : Nat) : Nat := 0xC8 + 8 * k

end Off

namespace Fld

def ADM_CTRL_TILE_MAX : FieldRef := ⟨0x60000, 16, 16⟩
def ADM_CTRL_REPLAY_RES : FieldRef := ⟨0x60000, 2, 1⟩
def ADM_CTRL_SCALE_EN : FieldRef := ⟨0x60000, 1, 1⟩
def ADM_CTRL_ENABLE : FieldRef := ⟨0x60000, 0, 1⟩
def ADM_CLASS_DEADLINE_NS (k : Nat) : FieldRef := ⟨0x60010 + 4 * k, 0, 32⟩
def ADM_BUCKET_COARSE_US : FieldRef := ⟨0x60020, 16, 16⟩
def ADM_BUCKET_FINE_NS : FieldRef := ⟨0x60020, 0, 16⟩
def ADM_EGRESS_NS : FieldRef := ⟨0x60024, 0, 32⟩
def ADM_SCALE_LEAD_NS : FieldRef := ⟨0x60028, 16, 16⟩
def ADM_SCALE_HOLD_US : FieldRef := ⟨0x60028, 8, 8⟩
def ADM_SCALE_MARGIN : FieldRef := ⟨0x60028, 0, 6⟩
def ADM_PDT_COUNT : FieldRef := ⟨0x60030, 48, 16⟩
def ADM_PDT_BASE : FieldRef := ⟨0x60030, 12, 36⟩
def ADM_ANSEQ_DEVICE_ID : FieldRef := ⟨0x60038, 54, 10⟩
def ADM_ANSEQ_NEXT : FieldRef := ⟨0x60038, 0, 54⟩
def ADM_STATUS_OUTSTANDING : FieldRef := ⟨0x60040, 15, 17⟩
def ADM_STATUS_FAULT_HOLD : FieldRef := ⟨0x60040, 1, 1⟩
def ADM_STATUS_THERM_DERATE : FieldRef := ⟨0x60040, 0, 1⟩
def ADM_ACCEPT_CNT_CNT : FieldRef := ⟨0x60080, 0, 64⟩
def ADM_REFUSE_CNT_CNT (k : Nat) : FieldRef := ⟨0x60108 + 8 * k, 0, 64⟩
def ADM_DECLINE_CNT_CNT (k : Nat) : FieldRef := ⟨0x60180 + 8 * k, 0, 64⟩
def ADM_LATE_CNT_CNT : FieldRef := ⟨0x60200, 0, 64⟩
def NET_CTRL_EXC_RATE : FieldRef := ⟨0x70000, 16, 16⟩
def NET_CTRL_MODE : FieldRef := ⟨0x70000, 4, 2⟩
def NET_CTRL_PTP_EN : FieldRef := ⟨0x70000, 3, 1⟩
def NET_CTRL_AN_EN : FieldRef := ⟨0x70000, 2, 1⟩
def NET_CTRL_FAILOVER_EN : FieldRef := ⟨0x70000, 1, 1⟩
def NET_CTRL_ENABLE : FieldRef := ⟨0x70000, 0, 1⟩
def NET_PORT_MAC_ADDR (k : Nat) : FieldRef := ⟨0x70100 + 32 * k, 16, 48⟩
def NET_PORT_MTU (k : Nat) : FieldRef := ⟨0x70100 + 32 * k, 0, 16⟩
def NET_PORT_STATUS_FAILED_OVER (k : Nat) : FieldRef := ⟨0x70108 + 32 * k, 2, 1⟩
def NET_PORT_STATUS_FEC_DEGRADE (k : Nat) : FieldRef := ⟨0x70108 + 32 * k, 1, 1⟩
def NET_PORT_STATUS_LINK_UP (k : Nat) : FieldRef := ⟨0x70108 + 32 * k, 0, 1⟩
def NET_CONN_BASE_BASE : FieldRef := ⟨0x70200, 12, 36⟩
def NET_CONN_COUNT_COUNT : FieldRef := ⟨0x70208, 0, 19⟩
def NET_TCP_RTO_MIN_US : FieldRef := ⟨0x70210, 48, 16⟩
def NET_TCP_RTO_MAX_MS : FieldRef := ⟨0x70210, 32, 16⟩
def NET_TCP_RETRIES : FieldRef := ⟨0x70210, 24, 8⟩
def NET_TCP_DELACK_US : FieldRef := ⟨0x70210, 16, 8⟩
def NET_TCP_INIT_CWND : FieldRef := ⟨0x70210, 8, 8⟩
def NET_STALL_PERSIST_MAX_MS : FieldRef := ⟨0x70218, 32, 32⟩
def NET_STALL_STALL_NS : FieldRef := ⟨0x70218, 0, 32⟩
def NET_RXBUF_OOO_RANGES : FieldRef := ⟨0x70220, 16, 4⟩
def NET_RXBUF_RCV_WND_KIB : FieldRef := ⟨0x70220, 0, 16⟩
def NET_DISCARD_CNT_CNT : FieldRef := ⟨0x70300, 0, 64⟩
def NET_KEEPALIVE_CNT_CNT : FieldRef := ⟨0x70308, 0, 64⟩
def NET_PAUSE_CNT_CNT : FieldRef := ⟨0x70310, 0, 64⟩
def NET_CSUM_CNT_CNT : FieldRef := ⟨0x70318, 0, 64⟩
def NET_STALL_CNT_CNT : FieldRef := ⟨0x70320, 0, 64⟩
def NET_RETX_CNT_CNT : FieldRef := ⟨0x70328, 0, 64⟩
def XLT_CTRL_LANES : FieldRef := ⟨0x80000, 32, 32⟩
def XLT_CTRL_ENABLE : FieldRef := ⟨0x80000, 0, 1⟩
def XLT_DTAB_BASE : FieldRef := ⟨0x80008, 12, 36⟩
def XLT_REC_RSP_BYTES : FieldRef := ⟨0x80010, 16, 16⟩
def XLT_REC_REQ_BYTES : FieldRef := ⟨0x80010, 0, 16⟩
def XLT_POOL_RSP_OFF : FieldRef := ⟨0x80018, 32, 32⟩
def XLT_POOL_REQ_OFF : FieldRef := ⟨0x80018, 0, 32⟩
def XLT_EXT_REQ_BASE : FieldRef := ⟨0x80020, 12, 36⟩
def XLT_EXT_RSP_BASE : FieldRef := ⟨0x80028, 12, 36⟩
def XLT_VWIN_VA (k : Nat) : FieldRef := ⟨0x80040 + 8 * k, 12, 36⟩
def XLT_LAST_ERR_OFFSET : FieldRef := ⟨0x80060, 32, 32⟩
def XLT_LAST_ERR_FID : FieldRef := ⟨0x80060, 16, 16⟩
def XLT_LAST_ERR_DIALECT : FieldRef := ⟨0x80060, 8, 8⟩
def XLT_LAST_ERR_CODE : FieldRef := ⟨0x80060, 0, 8⟩
def XLT_SCR_VA_VA : FieldRef := ⟨0x80068, 12, 36⟩
def XLT_SCR_AREA_KIB : FieldRef := ⟨0x80070, 24, 8⟩
def XLT_SCR_AREA_OFF : FieldRef := ⟨0x80070, 12, 10⟩
def XLT_PARSE_CNT_CNT : FieldRef := ⟨0x80080, 0, 64⟩
def XLT_PERR_CNT_CNT : FieldRef := ⟨0x80088, 0, 64⟩
def XLT_SERR_CNT_CNT : FieldRef := ⟨0x80090, 0, 64⟩
def XLT_SUBST_CNT_CNT : FieldRef := ⟨0x80098, 0, 64⟩
def MPU_COMMIT_GO : FieldRef := ⟨0x50000, 0, 1⟩
def MPU_STATUS_GEN : FieldRef := ⟨0x50008, 32, 32⟩
def MPU_STATUS_DRAINING : FieldRef := ⟨0x50008, 0, 1⟩
def MPU_SKEY_BUSY : FieldRef := ⟨0x50010, 63, 1⟩
def MPU_SKEY_FRAME : FieldRef := ⟨0x50010, 12, 36⟩
def MPU_SKEY_RG : FieldRef := ⟨0x50010, 4, 1⟩
def MPU_SKEY_KEY : FieldRef := ⟨0x50010, 0, 4⟩
def MPU_FAULT_VALID : FieldRef := ⟨0x50018, 63, 1⟩
def MPU_FAULT_CLASS : FieldRef := ⟨0x50018, 56, 3⟩
def MPU_FAULT_WRITE : FieldRef := ⟨0x50018, 48, 1⟩
def MPU_FAULT_ADDR : FieldRef := ⟨0x50018, 0, 48⟩
def MPU_RGN_BASE_BASE (k : Nat) : FieldRef := ⟨0x51000 + 16 * k, 12, 36⟩
def MPU_RGN_BASE_LOG2SZ (k : Nat) : FieldRef := ⟨0x51000 + 16 * k, 0, 6⟩
def MPU_RGN_ATTR_INIT (k : Nat) : FieldRef := ⟨0x51008 + 16 * k, 16, 8⟩
def MPU_RGN_ATTR_X (k : Nat) : FieldRef := ⟨0x51008 + 16 * k, 10, 1⟩
def MPU_RGN_ATTR_W (k : Nat) : FieldRef := ⟨0x51008 + 16 * k, 9, 1⟩
def MPU_RGN_ATTR_R (k : Nat) : FieldRef := ⟨0x51008 + 16 * k, 8, 1⟩
def MPU_RGN_ATTR_TYPE (k : Nat) : FieldRef := ⟨0x51008 + 16 * k, 4, 2⟩
def MPU_RGN_ATTR_EN (k : Nat) : FieldRef := ⟨0x51008 + 16 * k, 0, 1⟩
def MPU_ACT_BASE_BASE (k : Nat) : FieldRef := ⟨0x52000 + 16 * k, 12, 36⟩
def MPU_ACT_BASE_LOG2SZ (k : Nat) : FieldRef := ⟨0x52000 + 16 * k, 0, 6⟩
def MPU_ACT_ATTR_INIT (k : Nat) : FieldRef := ⟨0x52008 + 16 * k, 16, 8⟩
def MPU_ACT_ATTR_X (k : Nat) : FieldRef := ⟨0x52008 + 16 * k, 10, 1⟩
def MPU_ACT_ATTR_W (k : Nat) : FieldRef := ⟨0x52008 + 16 * k, 9, 1⟩
def MPU_ACT_ATTR_R (k : Nat) : FieldRef := ⟨0x52008 + 16 * k, 8, 1⟩
def MPU_ACT_ATTR_TYPE (k : Nat) : FieldRef := ⟨0x52008 + 16 * k, 4, 2⟩
def MPU_ACT_ATTR_EN (k : Nat) : FieldRef := ⟨0x52008 + 16 * k, 0, 1⟩
def MPU_APTR_APTR (k : Nat) : FieldRef := ⟨0x53000 + 8 * k, 0, 48⟩
def LDG_CTRL_REPLAY_MAX : FieldRef := ⟨0xA0000, 12, 4⟩
def LDG_CTRL_ENABLE : FieldRef := ⟨0xA0000, 0, 1⟩
def LDG_HBM_SCRUB_H : FieldRef := ⟨0xA0008, 16, 8⟩
def LDG_HBM_MODE : FieldRef := ⟨0xA0008, 0, 2⟩
def LDG_BTAB_BASE : FieldRef := ⟨0xA0010, 12, 36⟩
def LDG_WLOG_OFF : FieldRef := ⟨0xA0018, 12, 10⟩
def LDG_STATUS_LOCKS : FieldRef := ⟨0xA0020, 32, 32⟩
def LDG_STATUS_DEGRADED : FieldRef := ⟨0xA0020, 4, 1⟩
def LDG_STATUS_STACK : FieldRef := ⟨0xA0020, 2, 2⟩
def LDG_OPS_CNT_CNT : FieldRef := ⟨0xA0080, 0, 64⟩
def LDG_WOUND_CNT_CNT : FieldRef := ⟨0xA0088, 0, 64⟩
def LDG_REPLAY_CNT_CNT : FieldRef := ⟨0xA0090, 0, 64⟩
def LDG_ABORT_CNT_CNT : FieldRef := ⟨0xA0098, 0, 64⟩
def LDG_REFUSE_CNT_CNT : FieldRef := ⟨0xA00A0, 0, 64⟩
def LDG_CE_CNT_CNT : FieldRef := ⟨0xA00A8, 0, 64⟩
def LDG_REBUILD_CNT_CNT : FieldRef := ⟨0xA00B0, 0, 64⟩
def CRY_CTRL_CLEAR_OK : FieldRef := ⟨0x90000, 1, 1⟩
def CRY_CTRL_ENABLE : FieldRef := ⟨0x90000, 0, 1⟩
def CRY_PKE_MAP_INSVC : FieldRef := ⟨0x90008, 0, 48⟩
def CRY_SYM_MAP_INSVC : FieldRef := ⟨0x90010, 0, 48⟩
def CRY_STATUS_SLOTS_USED : FieldRef := ⟨0x90018, 32, 16⟩
def CRY_STATUS_MAT_FREE : FieldRef := ⟨0x90018, 16, 16⟩
def CRY_STATUS_ZEROISED : FieldRef := ⟨0x90018, 8, 1⟩
def CRY_STATUS_TAMPER : FieldRef := ⟨0x90018, 4, 4⟩
def CRY_TAMPER_EN : FieldRef := ⟨0x90020, 0, 4⟩
def CRY_JOB_CNT_CNT : FieldRef := ⟨0x90080, 0, 64⟩
def CRY_MISMATCH_CNT_CNT : FieldRef := ⟨0x90088, 0, 64⟩
def CRY_ABORT_CNT_CNT : FieldRef := ⟨0x90090, 0, 64⟩
def CRY_ABLATE_CNT_CNT : FieldRef := ⟨0x90098, 0, 64⟩
def CRY_REISSUE_CNT_CNT : FieldRef := ⟨0x900A0, 0, 64⟩
def CRY_SIGFAIL_CNT_CNT : FieldRef := ⟨0x900A8, 0, 64⟩
def CRY_XLTKEY_CNT_CNT : FieldRef := ⟨0x900B0, 0, 64⟩
def JNL_CTRL_ENABLE : FieldRef := ⟨0xB0000, 0, 1⟩
def JNL_EPOCH_STRAGGLER_NS : FieldRef := ⟨0xB0008, 32, 32⟩
def JNL_EPOCH_LEN_US : FieldRef := ⟨0xB0008, 0, 32⟩
def JNL_SEAL_GSLOT : FieldRef := ⟨0xB0010, 16, 16⟩
def JNL_SEAL_SLOT : FieldRef := ⟨0xB0010, 0, 16⟩
def JNL_MIRROR_TARGET_NS : FieldRef := ⟨0xB0018, 32, 32⟩
def JNL_MIRROR_GROUP_NS : FieldRef := ⟨0xB0018, 16, 16⟩
def JNL_MIRROR_PEER : FieldRef := ⟨0xB0018, 4, 10⟩
def JNL_MIRROR_TARGET : FieldRef := ⟨0xB0018, 0, 2⟩
def JNL_AREA_LOW_KIB (k : Nat) : FieldRef := ⟨0xB0020 + 8 * k, 32, 32⟩
def JNL_AREA_ARMED (k : Nat) : FieldRef := ⟨0xB0020 + 8 * k, 8, 1⟩
def JNL_AREA_RGN (k : Nat) : FieldRef := ⟨0xB0020 + 8 * k, 0, 8⟩
def JNL_GSEAL_WAIT_US : FieldRef := ⟨0xB0030, 0, 32⟩
def JNL_RESUME_JSN_NEXT : FieldRef := ⟨0xB0038, 0, 64⟩
def JNL_RESUME_EPOCH_NEXT : FieldRef := ⟨0xB0040, 0, 32⟩
def JNL_RESUME_CHAIN_BYTES (k : Nat) : FieldRef := ⟨0xB0048 + 8 * k, 0, 64⟩
def JNL_RESUME_SEAL_BYTES (k : Nat) : FieldRef := ⟨0xB0078 + 8 * k, 0, 64⟩
def JNL_RESUME_GSEAL_BYTES (k : Nat) : FieldRef := ⟨0xB00A8 + 8 * k, 0, 64⟩
def JNL_STATUS_EPOCH : FieldRef := ⟨0xB00D8, 32, 32⟩
def JNL_STATUS_SEAL_FAIL : FieldRef := ⟨0xB00D8, 5, 1⟩
def JNL_STATUS_FULL : FieldRef := ⟨0xB00D8, 4, 1⟩
def JNL_STATUS_MIRROR_LATE : FieldRef := ⟨0xB00D8, 3, 1⟩
def JNL_STATUS_STRAG_LATE : FieldRef := ⟨0xB00D8, 2, 1⟩
def JNL_STATUS_AREA : FieldRef := ⟨0xB00D8, 1, 1⟩
def JNL_LAST_JSN_CNT : FieldRef := ⟨0xB00E0, 0, 64⟩
def JNL_COMMIT_CNT_CNT : FieldRef := ⟨0xB0100, 0, 64⟩
def JNL_SEAL_CNT_CNT : FieldRef := ⟨0xB0108, 0, 64⟩
def JNL_MLATE_CNT_CNT : FieldRef := ⟨0xB0110, 0, 64⟩
def JNL_STRAG_CNT_CNT : FieldRef := ⟨0xB0118, 0, 64⟩
def JNL_GABSENT_CNT_CNT : FieldRef := ⟨0xB0120, 0, 64⟩
def KOL_CTRL_NM1 : FieldRef := ⟨0xC0000, 32, 10⟩
def KOL_CTRL_ZM1 : FieldRef := ⟨0xC0000, 24, 3⟩
def KOL_CTRL_YM1 : FieldRef := ⟨0xC0000, 16, 5⟩
def KOL_CTRL_XM1 : FieldRef := ⟨0xC0000, 8, 6⟩
def KOL_CTRL_TOPO : FieldRef := ⟨0xC0000, 1, 3⟩
def KOL_CTRL_ENABLE : FieldRef := ⟨0xC0000, 0, 1⟩
def KOL_ROLE_LEAD : FieldRef := ⟨0xC0008, 32, 10⟩
def KOL_ROLE_DEPUTY : FieldRef := ⟨0xC0008, 16, 10⟩
def KOL_ROLE_LEADSTRAP : FieldRef := ⟨0xC0008, 10, 1⟩
def KOL_ROLE_NODE : FieldRef := ⟨0xC0008, 0, 10⟩
def KOL_LINK_RETRY_MAX : FieldRef := ⟨0xC0010, 0, 8⟩
def KOL_E2E_HOLD_US : FieldRef := ⟨0xC0018, 48, 16⟩
def KOL_E2E_LEASE_US : FieldRef := ⟨0xC0018, 32, 16⟩
def KOL_E2E_TIMEOUT_NS : FieldRef := ⟨0xC0018, 0, 32⟩
def KOL_LEAD_LOSS_US : FieldRef := ⟨0xC0020, 16, 16⟩
def KOL_LEAD_HB_US : FieldRef := ⟨0xC0020, 0, 16⟩
def KOL_SMAP_BASE : FieldRef := ⟨0xC0028, 12, 36⟩
def KOL_RSV_BASE : FieldRef := ⟨0xC0030, 12, 36⟩
def KOL_MRX_RGN : FieldRef := ⟨0xC0038, 0, 8⟩
def KOL_TIME_SKEW_NS : FieldRef := ⟨0xC0040, 0, 32⟩
def KOL_TIME_OFS_OFS : FieldRef := ⟨0xC0048, 0, 64⟩
def KOL_GEPOCH_NEXT : FieldRef := ⟨0xC0050, 0, 32⟩
def KOL_STATUS_SMAP_GEN : FieldRef := ⟨0xC0058, 32, 32⟩
def KOL_STATUS_LGEN : FieldRef := ⟨0xC0058, 16, 16⟩
def KOL_STATUS_ORPHAN : FieldRef := ⟨0xC0058, 6, 1⟩
def KOL_STATUS_TICK_MISS : FieldRef := ⟨0xC0058, 5, 1⟩
def KOL_STATUS_SKEW : FieldRef := ⟨0xC0058, 4, 1⟩
def KOL_STATUS_NO_DEPUTY : FieldRef := ⟨0xC0058, 3, 1⟩
def KOL_STATUS_ACTING_LEAD : FieldRef := ⟨0xC0058, 2, 1⟩
def KOL_STATUS_JOINED : FieldRef := ⟨0xC0058, 1, 1⟩
def KOL_PORT_STATUS_NEIGHBOUR (k : Nat) : FieldRef := ⟨0xC0100 + 8 * k, 16, 10⟩
def KOL_PORT_STATUS_FAILED (k : Nat) : FieldRef := ⟨0xC0100 + 8 * k, 1, 1⟩
def KOL_PORT_STATUS_LINK_UP (k : Nat) : FieldRef := ⟨0xC0100 + 8 * k, 0, 1⟩
def KOL_WIN_VALID (k : Nat) : FieldRef := ⟨0xC0200 + 8 * k, 63, 1⟩
def KOL_WIN_NODE (k : Nat) : FieldRef := ⟨0xC0200 + 8 * k, 0, 10⟩
def KOL_RETRY_CNT_CNT : FieldRef := ⟨0xC0400, 0, 64⟩
def KOL_FEC_CNT_CNT : FieldRef := ⟨0xC0408, 0, 64⟩
def KOL_FECUNC_CNT_CNT : FieldRef := ⟨0xC0410, 0, 64⟩
def KOL_TIMEOUT_CNT_CNT : FieldRef := ⟨0xC0418, 0, 64⟩
def KOL_WOUND_CNT_CNT : FieldRef := ⟨0xC0420, 0, 64⟩
def KOL_LOST_CNT_CNT : FieldRef := ⟨0xC0428, 0, 64⟩
def KOL_XCOMMIT_CNT_CNT : FieldRef := ⟨0xC0430, 0, 64⟩
def HIF_CTRL_ENABLE : FieldRef := ⟨0xD0000, 0, 1⟩
def HIF_STATUS_WIDTH : FieldRef := ⟨0xD0008, 8, 8⟩
def HIF_STATUS_SPEED : FieldRef := ⟨0xD0008, 5, 3⟩
def HIF_STATUS_BME : FieldRef := ⟨0xD0008, 2, 1⟩
def HIF_STATUS_MODE : FieldRef := ⟨0xD0008, 0, 2⟩
def HIF_POLL_INTERVAL_NS : FieldRef := ⟨0xD0010, 0, 32⟩
def HIF_DBELL_BASE : FieldRef := ⟨0xD0018, 12, 35⟩
def HIF_STAT_BASE : FieldRef := ⟨0xD0020, 12, 35⟩
def HIF_GONE_CQ : FieldRef := ⟨0xD0028, 0, 4⟩
def HIF_RING_BASE_BASE (k : Nat) : FieldRef := ⟨0xD0100 + 32 * k, 12, 35⟩
def HIF_RING_CFG_DRAIN_NS (k : Nat) : FieldRef := ⟨0xD0108 + 32 * k, 32, 32⟩
def HIF_RING_CFG_VECTOR (k : Nat) : FieldRef := ⟨0xD0108 + 32 * k, 24, 6⟩
def HIF_RING_CFG_IRQ_COUNT (k : Nat) : FieldRef := ⟨0xD0108 + 32 * k, 16, 8⟩
def HIF_RING_CFG_IRQ_US (k : Nat) : FieldRef := ⟨0xD0108 + 32 * k, 8, 8⟩
def HIF_RING_CFG_LOG2SIZE (k : Nat) : FieldRef := ⟨0xD0108 + 32 * k, 2, 6⟩
def HIF_RING_CFG_ENABLE (k : Nat) : FieldRef := ⟨0xD0108 + 32 * k, 0, 1⟩
def HIF_RING_STATE_ERR (k : Nat) : FieldRef := ⟨0xD0110 + 32 * k, 4, 4⟩
def HIF_RING_STATE_WAIT (k : Nat) : FieldRef := ⟨0xD0110 + 32 * k, 1, 1⟩
def HIF_RING_STATE_RUN (k : Nat) : FieldRef := ⟨0xD0110 + 32 * k, 0, 1⟩
def HIF_RING_IDX_IDX (k : Nat) : FieldRef := ⟨0xD0118 + 32 * k, 0, 64⟩
def HIF_SQ_CNT_CNT : FieldRef := ⟨0xD0800, 0, 64⟩
def HIF_BADDESC_CNT_CNT : FieldRef := ⟨0xD0808, 0, 64⟩
def HIF_WAIT_CNT_CNT : FieldRef := ⟨0xD0810, 0, 64⟩
def HIF_EXCDROP_CNT_CNT : FieldRef := ⟨0xD0818, 0, 64⟩
def HIF_HOSTERR_CNT_CNT : FieldRef := ⟨0xD0820, 0, 64⟩
def HIF_RINGERR_CNT_CNT : FieldRef := ⟨0xD0828, 0, 64⟩
def BOOT_STATUS_SILOG : FieldRef := ⟨0x10000, 32, 32⟩
def BOOT_STATUS_FUSE_BUSY : FieldRef := ⟨0x10000, 25, 1⟩
def BOOT_STATUS_WARM : FieldRef := ⟨0x10000, 24, 1⟩
def BOOT_STATUS_REL_ERR : FieldRef := ⟨0x10000, 16, 8⟩
def BOOT_STATUS_ERR : FieldRef := ⟨0x10000, 8, 8⟩
def BOOT_STATUS_SLOT : FieldRef := ⟨0x10000, 6, 2⟩
def BOOT_STATUS_PHASE : FieldRef := ⟨0x10000, 0, 4⟩
def BOOT_CTRL_SVN_COMMIT : FieldRef := ⟨0x10008, 2, 1⟩
def BOOT_CTRL_LOAD : FieldRef := ⟨0x10008, 1, 1⟩
def BOOT_CTRL_RELEASE : FieldRef := ⟨0x10008, 0, 1⟩
def BOOT_HIMG_ADDR : FieldRef := ⟨0x10010, 6, 41⟩
def BOOT_HIMG_LEN_LEN : FieldRef := ⟨0x10018, 0, 32⟩
def BOOT_RESET_CONFIRM : FieldRef := ⟨0x10020, 48, 16⟩
def BOOT_RESET_KIND : FieldRef := ⟨0x10020, 0, 2⟩
def BOOT_T_PG_TIME : FieldRef := ⟨0x10028, 0, 64⟩
def BOOT_T_SI_TIME : FieldRef := ⟨0x10030, 0, 64⟩
def BOOT_T_REL_TIME : FieldRef := ⟨0x10038, 0, 64⟩
def BOOT_WARM_JSN_JSN : FieldRef := ⟨0x10040, 0, 64⟩
def BOOT_FUSE_PROG_BIT : FieldRef := ⟨0x10048, 0, 16⟩
def BOOT_FUSE_RD_BYTES (k : Nat) : FieldRef := ⟨0x10100 + 8 * k, 0, 64⟩
def PWR_AVS_MEAS_MV : FieldRef := ⟨0x20000, 48, 16⟩
def PWR_AVS_TARGET_MV : FieldRef := ⟨0x20000, 32, 16⟩
def PWR_AVS_FAULT : FieldRef := ⟨0x20000, 16, 1⟩
def PWR_AVS_MARGIN_MV : FieldRef := ⟨0x20000, 1, 7⟩
def PWR_AVS_ENABLE : FieldRef := ⟨0x20000, 0, 1⟩
def PWR_ISL_CTRL_ACTION (k : Nat) : FieldRef := ⟨0x20100 + 8 * k, 0, 2⟩
def PWR_ISL_STATUS_CLK_MHZ (k : Nat) : FieldRef := ⟨0x20400 + 8 * k, 48, 16⟩
def PWR_ISL_STATUS_FCAP_MHZ (k : Nat) : FieldRef := ⟨0x20400 + 8 * k, 32, 16⟩
def PWR_ISL_STATUS_FMAX_MHZ (k : Nat) : FieldRef := ⟨0x20400 + 8 * k, 16, 16⟩
def PWR_ISL_STATUS_ERR (k : Nat) : FieldRef := ⟨0x20400 + 8 * k, 8, 4⟩
def PWR_ISL_STATUS_STATE (k : Nat) : FieldRef := ⟨0x20400 + 8 * k, 0, 3⟩
def THM_CFG_PERIOD_US : FieldRef := ⟨0x30000, 48, 16⟩
def THM_CFG_HYST_C : FieldRef := ⟨0x30000, 32, 8⟩
def THM_CFG_STEP_C : FieldRef := ⟨0x30000, 24, 8⟩
def THM_CFG_DERATE_C : FieldRef := ⟨0x30000, 0, 8⟩
def THM_SENSOR_MAX (k : Nat) : FieldRef := ⟨0x30100 + 8 * k, 48, 16⟩
def THM_SENSOR_FAULT (k : Nat) : FieldRef := ⟨0x30100 + 8 * k, 16, 1⟩
def THM_SENSOR_TEMP (k : Nat) : FieldRef := ⟨0x30100 + 8 * k, 0, 16⟩
def THM_STATUS_HOTTEST : FieldRef := ⟨0x30008, 48, 16⟩
def THM_STATUS_SENSOR : FieldRef := ⟨0x30008, 32, 6⟩
def THM_STATUS_OVER125 : FieldRef := ⟨0x30008, 2, 1⟩
def THM_STATUS_CLAMP : FieldRef := ⟨0x30008, 1, 1⟩
def THM_STATUS_DERATED : FieldRef := ⟨0x30008, 0, 1⟩
def ERR_CTRL_VECTOR : FieldRef := ⟨0x40000, 8, 6⟩
def ERR_CTRL_ESC_EN : FieldRef := ⟨0x40000, 1, 1⟩
def ERR_CTRL_IRQ_EN : FieldRef := ⟨0x40000, 0, 1⟩
def ERR_CFG_RETIRE_S : FieldRef := ⟨0x40008, 32, 32⟩
def ERR_CFG_STRIKES : FieldRef := ⟨0x40008, 0, 4⟩
def ERR_STATUS_SIMPLEX : FieldRef := ⟨0x40010, 3, 1⟩
def ERR_STATUS_UNCOVERED : FieldRef := ⟨0x40010, 2, 1⟩
def ERR_STATUS_SECOND : FieldRef := ⟨0x40010, 1, 1⟩
def ERR_STATUS_OVERFLOW : FieldRef := ⟨0x40010, 0, 1⟩
def ERR_LOG_PTR_RD : FieldRef := ⟨0x40018, 32, 32⟩
def ERR_LOG_PTR_WR : FieldRef := ⟨0x40018, 0, 32⟩
def ERR_SIMPLEX_ISL : FieldRef := ⟨0x40020, 0, 44⟩
def ERR_CORE_MAP_INSVC (k : Nat) : FieldRef := ⟨0x40028 + 8 * k, 0, 64⟩
def ERR_LOG_WORD (k : Nat) : FieldRef := ⟨0x41000 + 8 * k, 0, 64⟩
def ERR_CE_CNT_CNT : FieldRef := ⟨0x40080, 0, 64⟩
def ERR_FAULT_CNT_CNT : FieldRef := ⟨0x40088, 0, 64⟩
def ERR_RETIRE_CNT_CNT : FieldRef := ⟨0x40090, 0, 64⟩
def ERR_SECOND_CNT_CNT : FieldRef := ⟨0x40098, 0, 64⟩
def ERR_LOST_CNT_CNT : FieldRef := ⟨0x400A0, 0, 64⟩
def BOOT_UCODE_BUILD : FieldRef := ⟨0x10050, 32, 32⟩
def BOOT_UCODE_SVN : FieldRef := ⟨0x10050, 24, 8⟩
def BOOT_UCODE_NWORDS : FieldRef := ⟨0x10050, 0, 15⟩
def BOOT_UCODE_DIGEST_BYTES (k : Nat) : FieldRef := ⟨0x10058 + 8 * k, 0, 64⟩
def SYS_ID_VENDOR : FieldRef := ⟨0x0, 48, 16⟩
def SYS_ID_DEVICE : FieldRef := ⟨0x0, 32, 16⟩
def SYS_ID_STEPPING : FieldRef := ⟨0x0, 24, 8⟩
def SYS_ID_MAPREV : FieldRef := ⟨0x0, 16, 8⟩
def SYS_SERIAL_BYTES (k : Nat) : FieldRef := ⟨0x8 + 8 * k, 0, 64⟩
def SYS_STRAP_SAMPLED : FieldRef := ⟨0x18, 63, 1⟩
def SYS_STRAP_BOOT_SRC : FieldRef := ⟨0x18, 18, 2⟩
def SYS_STRAP_LEAD : FieldRef := ⟨0x18, 16, 1⟩
def SYS_STRAP_NODE_ID : FieldRef := ⟨0x18, 0, 10⟩
def SYS_STATUS_LOCKED : FieldRef := ⟨0x20, 8, 1⟩
def SYS_STATUS_DEBUG : FieldRef := ⟨0x20, 7, 1⟩
def SYS_STATUS_TIME_SRC_OK : FieldRef := ⟨0x20, 6, 1⟩
def SYS_STATUS_PPS_SEEN : FieldRef := ⟨0x20, 5, 1⟩
def SYS_STATUS_STEP_REFUSED : FieldRef := ⟨0x20, 4, 1⟩
def SYS_STATUS_BAD_ACCESS : FieldRef := ⟨0x20, 3, 1⟩
def SYS_RESET_CAUSE_WARM_CNT : FieldRef := ⟨0x28, 48, 16⟩
def SYS_RESET_CAUSE_CAUSE : FieldRef := ⟨0x28, 0, 3⟩
def SYS_BAD_ACCESS_WRITE : FieldRef := ⟨0x100, 63, 1⟩
def SYS_BAD_ACCESS_REASON : FieldRef := ⟨0x100, 56, 4⟩
def SYS_BAD_ACCESS_SIZE : FieldRef := ⟨0x100, 48, 4⟩
def SYS_BAD_ACCESS_OFFSET : FieldRef := ⟨0x100, 0, 24⟩
def SYS_EVT_EVT : FieldRef := ⟨0x40, 0, 14⟩
def SYS_EVT_EN_VECTOR : FieldRef := ⟨0x48, 16, 6⟩
def SYS_EVT_EN_EN : FieldRef := ⟨0x48, 0, 14⟩
def SYS_DEVTIME_NS : FieldRef := ⟨0x80, 0, 64⟩
def SYS_TIME_CFG_STEP_MAX_NS : FieldRef := ⟨0x88, 32, 32⟩
def SYS_TIME_CFG_PPS_EDGE : FieldRef := ⟨0x88, 1, 1⟩
def SYS_TIME_CFG_SRC : FieldRef := ⟨0x88, 0, 1⟩
def SYS_TIME_RATE_ADJ : FieldRef := ⟨0x90, 0, 32⟩
def SYS_TIME_STEP_DELTA : FieldRef := ⟨0x98, 0, 64⟩
def SYS_PPS_CAP_TIME : FieldRef := ⟨0xA0, 0, 64⟩
def SYS_PPS_OUT_EN : FieldRef := ⟨0xA8, 63, 1⟩
def SYS_PPS_OUT_WIDTH_NS : FieldRef := ⟨0xA8, 0, 32⟩
def SYS_DBG_CTRL_ACTIVE : FieldRef := ⟨0xC0, 63, 1⟩
def SYS_DBG_CTRL_RESULT : FieldRef := ⟨0xC0, 56, 4⟩
def SYS_DBG_CTRL_ADDR : FieldRef := ⟨0xC0, 6, 41⟩
def SYS_DBG_CTRL_KEYIDX : FieldRef := ⟨0xC0, 4, 2⟩
def SYS_DBG_CTRL_GO : FieldRef := ⟨0xC0, 1, 1⟩
def SYS_DBG_CTRL_NEWCHAL : FieldRef := ⟨0xC0, 0, 1⟩
def SYS_DBG_CHAL_BYTES (k : Nat) : FieldRef := ⟨0xC8 + 8 * k, 0, 64⟩

end Fld

/-- The index of the register of a group that starts at an offset. -/
def RegGroup.index? (g : RegGroup) (off : Nat) : Option Nat :=
  if g.base ≤ off ∧ (off - g.base) % g.stride = 0 ∧ (off - g.base) / g.stride < g.count then
    some ((off - g.base) / g.stride)
  else none

/-- The register that starts at a BAR0 offset, with its index. -/
def RegMap.at? (off : Nat) : Option (RegGroup × Nat) :=
  (RegMap.block (off / 65536)).findSome? fun g => (g.index? off).map fun k => (g, k)

/-- The reset value of a group's register `k`. -/
def RegGroup.resetVal (g : RegGroup) (k : Nat) : BitVec 64 :=
  match g.resetAt.lookup k with
  | some v => BitVec.ofNat 64 v
  | none => g.fields.foldl (fun a f => a ||| BitVec.ofNat 64 (f.reset <<< f.lo)) 0#64

/-- What an unlisted offset holds: the reset value of R427's tables, zero where no register starts. -/
def RegMap.reset (off : Nat) : BitVec 64 :=
  match RegMap.at? off with
  | some (g, k) => g.resetVal k
  | none => 0#64

end Sys2Proof.Machine
end

