-- ==== Sys2Proof/Syntax.lean ====
section
/-! DEFINITION. The commands of the LN96: one constructor of `Instr` for each row of the table of
operations and events. The table gives its rows no operands; the operands here are the model's own
(assumption log 3): what the event or the requester supplies and the state does not hold. A Porilnus
instruction names the core that executes it and the fields of its encoding (R177 to R196). -/

namespace Sys2Proof

/-- The header of a received Kolat message, with the link-level fields of its flits (R299, R308). -/
structure KHdr where
  /-- KPORT.k on which the message arrived -/
  port : Fin 8
  /-- virtual channel of its flits -/
  vc : Fin 8
  /-- flits of the message -/
  flits : Nat
  /-- SEQ of its head flit; its body flits follow in sequence -/
  seq : Nat
  /-- last sequence number that the sender has received in order, if its ACK is valid -/
  ack : Option Nat
  /-- virtual channel and running count of the CREDIT field -/
  credit : Option (Nat × Nat)
  src : Nat
  dest : Nat
  key : Nat
  last : Bool
  an : Nat
  deadline : Nat
  tag : Nat
  deriving DecidableEq, Repr

/-- Why a port's flits are sent again (R300): a NAK with the last number received in order, or a received flit that fails
its check here, for which this port sends NAK. -/
inductive LinkFail where
  | nak (ack : Nat)
  | badFlit
  deriving DecidableEq, Repr

/-- The parameters of an admin command (the table *Admin command* of R350). -/
structure AdminCmd where
  cid : Nat
  addr : Nat
  len : Nat
  p0 : Nat
  p1 : Nat
  p2 : Nat
  deriving DecidableEq, Repr

/-- A packed or zoned memory operand of the long format: base, displacement, length field (R184, R185). -/
structure MOp where
  base : Reg
  disp : BitVec 10
  lf : BitVec 6
  deriving DecidableEq, Repr

/-- Who makes an access to the setup registers (R424: each has its own read latch). -/
inductive Requester where
  | host
  | core (c : CoreId)
  deriving DecidableEq, Repr

/-- Where the message that ADM takes waits: a connection's framer or a submission ring (R49, R343). -/
inductive MsgSource where
  | conn (h : Nat)
  | sq (n : Fin 16)
  deriving DecidableEq, Repr

/-- The answers of a boundary cell that are not the island's own (R383). -/
inductive Boundary where
  | absent
  | reset
  deriving DecidableEq, Repr

/-- Causes of a port failure (R54) and of a Kolat port failure (R302). -/
inductive PortCause where
  | alignment
  | fecRate
  | laneFault
  deriving DecidableEq, Repr

/-- What becomes of the handshake fabric at a fault (R397, R407): the transfer is sent again, the failed link or router is
routed round, or the fabric is left unable to serve. -/
inductive FabricEnd where
  | resent
  | routed
  | unserved
  deriving DecidableEq, Repr

/-- What a scrub or a read finds in an ECC-protected word or line. -/
inductive EccState where
  | clean
  | single
  | uncorrectable
  deriving DecidableEq, Repr

/-- The kinds of crypto engine (R260). -/
inductive EngineKind where
  | pke
  | sym
  deriving DecidableEq, Repr

/-- How a host access fails (R335, R340). -/
inductive HostFail where
  | refused
  | error
  | timeout
  deriving DecidableEq, Repr

/-- The reference clocks whose loss R453 describes. -/
inductive RefClk where
  | eth
  | kol
  | pcie
  | sys25
  | time10
  deriving DecidableEq, Repr

/-- A unit that runs a built-in self-test (R402). -/
inductive TestUnit where
  | core (c : CoreId)
  | engine (k : EngineKind) (e : Fin 48)
  | xltLane (l : Fin 32)
  | jnlLane (l : Nat)
  deriving DecidableEq, Repr

/-- What starts a cold reset (R356). -/
inductive ColdCause where
  | pin
  | aonLoss
  deriving DecidableEq, Repr

/-- The acknowledgement of a mirror group (R286). -/
inductive MirrorFrom where
  | host
  | kolat (h : KHdr) (firstJsn glen : Nat)
  deriving DecidableEq, Repr

/-- The commands. -/
inductive Instr where
  -- network ports (03)
  | frameReceive (p : Fin 8) (frame : List Byte)
  | handbackComplete (h : Nat)
  | segmentTransmit (p : Fin 8)
  | retransmitTimeout (h : Nat)
  | delayedAckTimer (h : Nat)
  | zeroWindowProbe (h : Nat)
  | persistLimit (h : Nat)
  | stallBoundExpiry (h : Nat)
  | portFail (p : Fin 8) (cause : PortCause)
  | txqTransmit (desc : List Byte)
  -- admission (02) and translation (04)
  | admission (m : MsgSource)
  | xltParse (lane : Fin 32)
  | xltEchoScan (lane : Fin 32)
  | technicalDecline (lane : Fin 32)
  | xltSerialise (lane : Fin 32)
  | xltEnableWrite (v : Bool)
  -- the caller (05)
  | bind (t : TileId)
  | callerStop (c : CoreId)
  | timerExpiry (c : CoreId) (b : BankId)
  | deadlineAlarm (an : Nat)
  | budgetExceeded (c : CoreId) (b : BankId)
  | boundaryResponse (c : CoreId) (b : BankId) (k : Boundary)
  | machineCheck (c : CoreId) (b : BankId)
  | bank15Timeout (c : CoreId)
  -- the pipeline (06)
  | instructionFetch (c : CoreId)
  | storeDrain (c : CoreId)
  | asyncMchk (c : CoreId)
  | accessTimeout (c : CoreId) (addr : Word)
  -- integer (09, 07)
  | add (c : CoreId) (d a b : Reg)
  | sub (c : CoreId) (d a b : Reg)
  | and (c : CoreId) (d a b : Reg)
  | or (c : CoreId) (d a b : Reg)
  | xor (c : CoreId) (d a b : Reg)
  | andn (c : CoreId) (d a b : Reg)
  | sll (c : CoreId) (d a b : Reg)
  | srl (c : CoreId) (d a b : Reg)
  | sra (c : CoreId) (d a b : Reg)
  | slli (c : CoreId) (d a : Reg) (sh : Fin 64)
  | srli (c : CoreId) (d a : Reg) (sh : Fin 64)
  | srai (c : CoreId) (d a : Reg) (sh : Fin 64)
  | adds (c : CoreId) (d a b : Reg)
  | addc (c : CoreId) (d a b : Reg)
  | subs (c : CoreId) (d a b : Reg)
  | subb (c : CoreId) (d a b : Reg)
  | cmp (c : CoreId) (a b : Reg)
  | cmpu (c : CoreId) (a b : Reg)
  | sextb (c : CoreId) (d a : Reg)
  | sexth (c : CoreId) (d a : Reg)
  | sextw (c : CoreId) (d a : Reg)
  | mul (c : CoreId) (d a b : Reg)
  | mulwu (c : CoreId) (d a b : Reg)
  | mulws (c : CoreId) (d a b : Reg)
  | divu (c : CoreId) (d a b : Reg)
  | divs (c : CoreId) (d a b : Reg)
  | remu (c : CoreId) (d a b : Reg)
  | rems (c : CoreId) (d a b : Reg)
  | divwu (c : CoreId) (d a b : Reg)
  -- floating point: `dbl` is SZ, true for binary64 (R191)
  | fadd (c : CoreId) (dbl : Bool) (d a b : Reg)
  | fsub (c : CoreId) (dbl : Bool) (d a b : Reg)
  | fmul (c : CoreId) (dbl : Bool) (d a b : Reg)
  | fdiv (c : CoreId) (dbl : Bool) (d a b : Reg)
  | fma (c : CoreId) (dbl : Bool) (d a b cc : Reg)
  | fsqrt (c : CoreId) (dbl : Bool) (d a : Reg)
  | fcvt (c : CoreId) (dbl : Bool) (d a : Reg)
  | fcvti (c : CoreId) (dbl : Bool) (d a : Reg)
  | fcvtiz (c : CoreId) (dbl : Bool) (d a : Reg)
  | fcvtf (c : CoreId) (dbl : Bool) (d a : Reg)
  | fcmpq (c : CoreId) (dbl : Bool) (a b : Reg)
  | fcmps (c : CoreId) (dbl : Bool) (a b : Reg)
  | fmvfg (c : CoreId) (dbl : Bool) (d a : Reg)
  | fmvgf (c : CoreId) (dbl : Bool) (d a : Reg)
  | fneg (c : CoreId) (dbl : Bool) (d a : Reg)
  | fabs (c : CoreId) (dbl : Bool) (d a : Reg)
  -- immediate, load, store, control (R188)
  | addi (c : CoreId) (d a : Reg) (imm : BitVec 16)
  | andi (c : CoreId) (d a : Reg) (imm : BitVec 16)
  | ori (c : CoreId) (d a : Reg) (imm : BitVec 16)
  | xori (c : CoreId) (d a : Reg) (imm : BitVec 16)
  | lui (c : CoreId) (d : Reg) (imm : BitVec 16)
  | cmpi (c : CoreId) (a : Reg) (imm : BitVec 16)
  | cmpui (c : CoreId) (a : Reg) (imm : BitVec 16)
  | ldb (c : CoreId) (d a : Reg) (imm : BitVec 16)
  | ldh (c : CoreId) (d a : Reg) (imm : BitVec 16)
  | ldw (c : CoreId) (d a : Reg) (imm : BitVec 16)
  | ldd (c : CoreId) (d a : Reg) (imm : BitVec 16)
  | ldbs (c : CoreId) (d a : Reg) (imm : BitVec 16)
  | ldhs (c : CoreId) (d a : Reg) (imm : BitVec 16)
  | ldws (c : CoreId) (d a : Reg) (imm : BitVec 16)
  | pref (c : CoreId) (wr : Bool) (a : Reg) (imm : BitVec 16)
  | stb (c : CoreId) (d a : Reg) (imm : BitVec 16)
  | sth (c : CoreId) (d a : Reg) (imm : BitVec 16)
  | stw (c : CoreId) (d a : Reg) (imm : BitVec 16)
  | std (c : CoreId) (d a : Reg) (imm : BitVec 16)
  | fldd (c : CoreId) (d a : Reg) (imm : BitVec 16)
  | fstd (c : CoreId) (d a : Reg) (imm : BitVec 16)
  | flds (c : CoreId) (d a : Reg) (imm : BitVec 16)
  | fsts (c : CoreId) (d a : Reg) (imm : BitVec 16)
  | bc (c : CoreId) (mask : BitVec 4) (disp : BitVec 22)
  | jal (c : CoreId) (d : Reg) (disp : BitVec 21)
  | jalr (c : CoreId) (d a : Reg) (imm : BitVec 16)
  -- interruptible: `stop` is the number of checkpoints passed when a caller stop is taken (log 11)
  | stm (c : CoreId) (a b x : Reg) (stop : Option Nat)
  | ldm (c : CoreId) (a b x : Reg) (stop : Option Nat)
  | svlk (c : CoreId) (b m : Reg) (imm : BitVec 16) (stop : Option Nat)
  | rslk (c : CoreId) (b m : Reg) (stop : Option Nat)
  | smov (c : CoreId) (d s n : Reg) (stop : Option Nat)
  | smovx (c : CoreId) (d s n : Reg) (stop : Option Nat)
  | sfill (c : CoreId) (d b n : Reg) (stop : Option Nat)
  | scmp (c : CoreId) (a b n : Reg) (stop : Option Nat)
  | str (c : CoreId) (d s n t : Reg) (stop : Option Nat)
  | sscan (c : CoreId) (a n t f : Reg) (stop : Option Nat)
  | scvu (c : CoreId) (d s n t : Reg) (stop : Option Nat)
  | scvs (c : CoreId) (d s n t : Reg) (stop : Option Nat)
  | edit (c : CoreId) (d p s : Reg) (stop : Option Nat)
  -- system (R193 to R195)
  | scall (c : CoreId)
  | breakpoint (c : CoreId)
  | fenceSl (c : CoreId)
  | fenceDev (c : CoreId)
  | fenceAll (c : CoreId)
  | csync (c : CoreId)
  | isync (c : CoreId)
  | ctlr (c : CoreId) (d ctl : Reg)
  | ctlw (c : CoreId) (ctl a : Reg)
  | tret (c : CoreId)
  | quar (c : CoreId)
  | msync (c : CoreId)
  | tlbsync (c : CoreId)
  | tlbins (c : CoreId) (a b : Reg)
  | tlbset (c : CoreId) (d a b : Reg)
  | tlbrd (c : CoreId) (d a : Reg)
  | tlbfind (c : CoreId) (d a : Reg)
  | tlbiv (c : CoreId) (a : Reg) (bcast : Bool)
  | tlbia (c : CoreId) (a : Reg) (bcast : Bool)
  | fkset (c : CoreId) (a b : Reg)
  | fkget (c : CoreId) (d a : Reg)
  -- ledger, crypto and timer (R196)
  | ldl (c : CoreId) (r k n : Reg)
  | ldlu (c : CoreId) (r k n : Reg)
  | stl (c : CoreId) (r k n : Reg)
  | del (c : CoreId) (k n : Reg)
  | commit (c : CoreId)
  | abort (c : CoreId) (a : Reg)
  | crypt (c : CoreId) (a : Reg)
  | waitt (c : CoreId) (a : Reg)
  -- decimal (R186); DSHF carries N
  | dadd (c : CoreId) (a b : MOp)
  | dsub (c : CoreId) (a b : MOp)
  | dmul (c : CoreId) (a b : MOp)
  | ddiv (c : CoreId) (a b : MOp)
  | dmod (c : CoreId) (a b : MOp)
  | dcpy (c : CoreId) (a b : MOp)
  | dcmp (c : CoreId) (a b : MOp)
  | dshf (c : CoreId) (a b : MOp) (n : BitVec 7)
  | dtst (c : CoreId) (a : MOp)
  | packz (c : CoreId) (a z : MOp)
  | unpkz (c : CoreId) (z a : MOp)
  | cvpb (c : CoreId) (d : Reg) (b : MOp)
  | cvbp (c : CoreId) (a : MOp) (g : Reg)
  | dlda (c : CoreId) (n : Fin 8) (b : MOp)
  | dsta (c : CoreId) (a : MOp) (n : Fin 8)
  | dada (c : CoreId) (n : Fin 8) (b : MOp)
  | dsba (c : CoreId) (n : Fin 8) (b : MOp)
  | dmla (c : CoreId) (n : Fin 8) (b : MOp)
  | dcpa (c : CoreId) (n : Fin 8) (b : MOp)
  | dadr (c : CoreId) (n m : Fin 8)
  -- microcode (19)
  | microcodeWatchdog (c : CoreId)
  | waitBoundExpiry (c : CoreId) (code : Fin 7) (addr : Word)
  | controlStoreScrub (c : CoreId) (word : Nat) (e : EccState)
  -- ledger store (11)
  | ledgerResponse (c : CoreId) (b : BankId)
  | wound (c : CoreId) (b : BankId)
  | runEndRelease (an : Nat)
  | jsnAssignment (an : Nat)
  | hbmScrub (line : Nat) (e : EccState)
  -- journal (13)
  | recordComplete
  | mirrorGroupSend
  | mirrorAck (m : MirrorFrom)
  | mirrorTargetTimeout
  | epochSeam
  | epochClose
  | stragglerTimeout
  | sealComplete
  | sealRetry
  | exportPost
  | gsealWaitExpiry
  | gseal (h : KHdr) (bytes : List Byte)
  | sealMessage (h : KHdr) (gepoch : Nat) (bytes : List Byte)
  -- Kolat (14)
  | linkResend (p : Fin 8) (w : LinkFail)
  | kportFail (p : Fin 8) (cause : PortCause)
  | linkstate (h : KHdr) (node : Nat) (bond : Fin 8) (recovered : Bool)
  | heartbeatSend
  | heartbeat (h : KHdr) (lgen : Nat) (route : Bool) (sent : Nat)
  | leadLossTimeout
  | takeover (h : KHdr) (lgen lead : Nat)
  | tickSend
  | tick (h : KHdr) (seam gepoch smapGen lgen : Nat)
  | tickMiss
  | timeExchange
  | timeRequest (h : KHdr) (t1 : Nat)
  | timeAnswer (h : KHdr) (t1 t2 t3 : Nat)
  | map (h : KHdr) (gen first : Nat) (entries : List Nat)
  | applied (h : KHdr) (ref partJsn : Nat)
  | lop (h : KHdr) (op bench : Nat) (keyhash : Word) (key data : List Byte)
  | lopRsp (h : KHdr) (cc : Nat) (record : List Byte)
  | prepare (h : KHdr) (nrsv : Nat)
  | prepRsp (h : KHdr) (result : Nat)
  | apply (h : KHdr) (coordJsn : Nat)
  | applyResend (an node : Nat)
  | woundMessage (h : KHdr) (reqAn reqDeadline : Nat)
  | woundResend (an : Nat)
  | kolRelease (h : KHdr)
  | reservationLeaseExpiry (an run : Nat)
  | holdExpiry (an run : Nat)
  | kolTimeout (req : Nat)
  | wread (h : KHdr) (offset size : Nat)
  | wwrite (h : KHdr) (offset size : Nat) (data : Word)
  | winRsp (h : KHdr) (status : Nat) (data : Word)
  | mirror (h : KHdr) (firstJsn goff : Nat) (data : List Byte)
  | kolEnableWrite (v : Bool)
  -- host interface (15)
  | doorbellSnoop (r : Fin 40)
  | doorbellPoll
  | doorbellRead (r : Fin 40)
  | submissionFetch (sq : Fin 16)
  | completionPost (r : Fin 40)
  | excPost
  | ringEnable (r : Fin 40)
  | ringIrqTimer (r : Fin 40)
  | drainTimeout (r : Fin 40)
  | hostAccessTimeout (r : Option (Fin 40)) (f : HostFail)
  | pcieLinkUp (cxl : Bool) (speed width : Nat)
  | pciePerst
  -- admin commands (R350)
  | handover (a : AdminCmd)
  | close (a : AdminCmd)
  | rekey (a : AdminCmd)
  | portMove (a : AdminCmd)
  | descriptorUpdate (a : AdminCmd)
  | dialectLoad (a : AdminCmd)
  | benchConfigure (a : AdminCmd)
  | bulkLoad (a : AdminCmd)
  | cancel (a : AdminCmd)
  | keyLoad (a : AdminCmd)
  | keyExport (a : AdminCmd)
  | keyDelete (a : AdminCmd)
  | keyInfo (a : AdminCmd)
  | keySave (a : AdminCmd)
  | keyRestore (a : AdminCmd)
  | zeroise (a : AdminCmd)
  | journalTail (a : AdminCmd)
  | mapUpdate (a : AdminCmd)
  | sliceTransfer (a : AdminCmd)
  | orphanResolve (a : AdminCmd)
  -- crypto (12)
  | cryptoJobStart (k : EngineKind) (e : Fin 48)
  | completionLatch (job : Nat)
  | cryptoCompletion (c : CoreId) (b : BankId)
  | jobAbort (job : Nat)
  | tamperInput (i : Fin 4)
  | zeroisationDone
  | trafficSpaceWipe
  -- MPU (10)
  | mpuCommitGo
  | mpuActivation
  | mpuSkeyWrite (v : Word)
  | storageKeyAcked
  -- clocks, power, temperature (02, 17)
  | clockScaleEval (i : Fin 30)
  | clockHoldExpiry (i : Fin 30)
  | operatingPointDone (i : Fin 30)
  | islandRun (i : Fin 44)
  | islandHold (i : Fin 44)
  | islandOff (i : Fin 44)
  | islandReset (i : Fin 44)
  | islandQuiesced (i : Fin 44)
  | islandReturn (i : Fin 44)
  | sensorSample (k : Fin 64) (reading : Option Int)
  | thermalModelPeriod
  | thermalTrip
  | avsUpdate (measured : Nat)
  | avsFault (measured : Nat)
  | railLoss (rail : Fin 10)
  | refclkLoss (k : RefClk)
  | refclkRestore (k : RefClk)
  -- faults (18)
  | coreFaultStop (c : CoreId)
  | engineFault (k : EngineKind) (e : Fin 48)
  | tileLoss (t : TileId)
  | xltLaneFault (lane : Fin 32)
  | jnlLaneFault (jsn : Nat)
  | hbmStackFail (k : Fin 4)
  | hbmDataLoss (line : Nat)
  | fabricFault (link : Nat) (e : FabricEnd) (caught : List (CoreId × BankId))
  | pairedMismatch (i : Fin 44)
  | keyStoreFault (slot : Nat)
  | selfTestDone (u : TestUnit) (pass : Bool)
  | faultHoldExpiry
  -- bring-up and resets (16)
  | coldReset (k : ColdCause)
  | warmReset
  | bootResetWarm (confirm : BitVec 16)
  | bootResetCold (confirm : BitVec 16)
  | powerGood
  | imageSelect
  | microcodeLoad (bad : List CoreId)
  | standinOpen
  | hbmInitDone
  | bringupReady
  | bootLoad
  | bootRelease
  | standinTilesJoin
  | svnCommit
  | fuseProgram (bit : BitVec 16)
  | standinDecide (an : Nat)
  -- system registers and time (20, 21)
  | timeStep (delta : Word)
  | timeRateWrite (adj : BitVec 32)
  | ppsEdge (rising : Bool)
  | ppsOutRise
  | ppsOutFall
  | debugNewchal
  | debugGo (addr : Nat) (keyidx : Fin 4)
  | sysEvtClear (bits : Word)
  | sysEvtEnWrite (v : Word)
  | latchedHalfRead (who : Requester) (off : Nat)
  | bar0UnmappedAccess (write : Bool) (off size : Nat)
  | bar0Abort (write : Bool) (off size : Nat)
  | smbusBlockWrite (ptr : BitVec 24)
  | smbusBlockRead
  | registerWrite (who : Requester) (off size : Nat) (v : Word)
  -- the further rows of the table
  | portLinkUp (p : Fin 8)
  | bondRecover (p : Fin 8)
  | pcieLinkDown
  | fuseWriteDone
  | warmResetNRise
  | tamperInputHigh (i : Fin 4)
  | adminUnknownOp (opc : Nat) (a : AdminCmd)
  | illegalInstruction (c : CoreId) (w0 w1 : BitVec 32)
  deriving DecidableEq, Repr

end Sys2Proof
end

