-- ==== Sys2Proof/Machine/State.lean ====
section
/-! DEFINITION. The state of the LN96 (stepping B0), as plain data: what R80 gives each core and bank, the memory and
storage keys of R198 and R220, the setup registers of R427, and the internal state that the chapters give each
block. INVENTORY.md lists every field with its rule and reset value. -/

namespace Sys2Proof.Machine

/-- How the machine stops with a fault: never; the spec answers every fault of its own by replay, retirement or
reset, which are next states. The constructor is raised by nobody. Safe. -/
inductive Fault where
  /-- raised by nobody: no rule of the specification stops the machine (safe) -/
  | none_
  deriving DecidableEq, Repr

/-- How the machine refuses a command. -/
inductive Refusal where
  /-- raised by exec's arm of a command that has no meaning yet (safe) -/
  | notModelled (mnemonic : String)
  deriving DecidableEq, Repr

/-! ## The ledger cores (05, 06, 10) -/

/-- What a blocked context waits for (R86, R91). -/
inductive Block where
  | ledger
  | crypto
  | timer (at_ : Nat)
  | commit
  deriving DecidableEq, Repr

/-- The context bound to a bank (R79): the transaction's AN, its run number (R86), whether it is blocked, whether it
has used each lazy set since binding (R84), and the core time charged to the run (R93) in thousandths of a cycle. -/
structure Ctx where
  an : Nat
  run : Nat
  block : Option Block
  usedF : Bool
  usedD : Bool
  mcycles : Nat
  deriving DecidableEq, Repr

/-- A register bank (R79, R80). `pend` holds the pending CTL writes of R124 by CTL number. -/
structure Bank where
  lo : Vector Word 16
  w0 : Vector Word 16
  w1 : Vector Word 16
  pc : Word
  status : Word
  bwr : Word
  asid : Word
  an : Word
  deadline : Word
  epc : Word
  cause : Word
  badaddr : Word
  fpctl : Word
  dctl : Word
  pend : List (Nat × Word)
  ctx : Option Ctx
  deriving DecidableEq, Repr

/-- A TLB entry: its two words (R202) and its use bit (R207). -/
structure TlbEntry where
  w0 : Word
  w1 : Word
  use : Bool
  deriving DecidableEq, Repr

/-- How an access in flight was translated (R212): the words of the TLB entry, if one was used, and the cores that have
broadcast an invalidation of it since. -/
structure Via where
  entry : Option (Word × Word)
  inval : List CoreId
  deriving DecidableEq, Repr

/-- Whose access it is, as a request that leaves the core names it (R86, R309): AN, deadline, TAG without its request
number, and access key. -/
structure Origin where
  an : Nat
  deadline : Nat
  tag : Nat
  key : Nat
  deriving DecidableEq, Repr

/-- A retired store that is not yet visible (R114): its bytes; a device store keeps its size as one access (R121). `va` is
the address that the instruction used (R127). -/
structure SqEntry where
  cells : List Host.Cell
  dev : Bool
  va : Nat
  org : Origin
  via : Via
  deriving DecidableEq, Repr

/-- A posted store that its target has not acknowledged (R121, R398): the request number of a window store, none for a
store to host memory; and the address that the instruction used. -/
structure PostedSt where
  req : Option Nat
  va : Nat
  via : Via
  deriving DecidableEq, Repr

/-- A line in a core's L1 (R107): its line number (physical address over 64), its way, whether the core holds it with
write permission (R114), and whether it has been written since it was filled. The set is the line number modulo 128. The bytes
are those of memory: R122 keeps every copy coherent. -/
structure L1Line where
  core : CoreId
  line : Nat
  way : Nat
  write : Bool
  dirty : Bool
  deriving DecidableEq, Repr

/-- The branch predictor (the text after R108): two-bit counters by index and targets by index, each a sparse map, the
global history, and the return stack, newest first. -/
structure Predictor where
  counters : List (Nat × BitVec 2)
  history : Nat
  targets : List (Nat × (Word × Word))
  returns : List Word
  deriving DecidableEq, Repr

/-- A fetch word of the prefetch queue (R108): its address, its physical address and its 16 bytes, or the fault mark of R229. -/
structure FetchWord where
  addr : Nat
  pa : Nat
  bytes : Option (List Byte)
  deriving DecidableEq, Repr

/-- What bank 15 keeps while it is current (R99 to R101): the context's bank, the resume address of G3, and the time
in bank 15 in thousandths of a core cycle; and the cause of the trap at level 4, which R102 logs. -/
structure Bank15 where
  bank : BankId
  resume : Word
  cause : Nat
  mcycles : Nat
  usedF : Bool
  usedD : Bool
  deriving DecidableEq, Repr

/-- Whether a unit is in service (R399, R402). -/
inductive Service where
  | inService
  | testing
  | retired
  deriving DecidableEq, Repr

/-- What a core's oldest instruction waits for without having retired (R125, R199, R222): the activation of MSYNC, the
accesses that TLBSYNC waits for, the key-cache acknowledgements of FKSET (its frame address and key), the answer of a remote
window for a load (its request, the address that it used, the register it loads, its size, sign extension, and whether the
register is an F register), or for one access of a sequenced instruction or a fetch (its request, the address that it used,
its physical address and its size). -/
inductive CoreWait where
  | msync
  | tlbsync
  | fkset (pa v : Nat)
  | window (req va : Nat) (d : Reg) (size : Nat) (sx fp : Bool) (via : Via)
  | bytes (req va pa size : Nat) (via : Via)
  deriving DecidableEq, Repr

/-- A read through a remote window that a sequenced instruction or a fetch needs and has not sent (R121, R199). -/
structure WinNeed where
  va : Nat
  pa : Nat
  size : Nat
  tlb : Option Nat
  deriving DecidableEq, Repr

/-- A ledger core (R79, R80, R84, R107, R108, R113). `port` is set while the data side has the L1 port in the current
cycle; `smc` while a store of the instruction in progress has written a fetched word (R118, R164); `win` holds the bytes
that remote windows have answered for the instruction or the fetch in progress, and `need` what it finds missing. -/
structure Core where
  banks : Vector Bank 16
  cur : Option BankId
  fOwner : Option BankId
  dOwner : Option BankId
  f : Vector Word 32
  da : Vector (BitVec 256) 8
  tvec : Word
  pinmax : Nat
  hand : Nat
  tlb : Vector TlbEntry 128
  sq : List SqEntry
  posted : List PostedSt
  pq : List FetchWord
  port : Bool
  smc : Bool
  bp : Predictor
  win : List Host.Cell
  need : Option WinNeed
  b15 : Option Bank15
  wait : Option CoreWait
  svc : Service
  deriving DecidableEq, Repr

/-! ## Transactions (01, 02, 05, 11) -/

/-- Where an accepted message came from and where its response goes (R10, R21, R36, R343): a handover of a connection
handle with its HOST_TAG, or a submission ring with its TAG and response buffer. -/
inductive TxnSrc where
  | conn (h gen tag : Nat)
  | sq (n : Fin 16) (tag : Nat) (rspAddr rspCap : Nat)
  deriving DecidableEq, Repr

/-- A program descriptor as ADM reads it (R24); fixed for the life of the transaction (R25). -/
structure Budget where
  entry : Nat
  asid : Nat
  key : Nat
  cls : Nat
  cycles : Nat
  blockNs : Nat
  pkeNs : Nat
  symNs : Nat
  cryptOps : Nat
  ldgOps : Nat
  remoteOps : Nat
  scratchKib : Nat
  declineTpl : Nat
  deriving DecidableEq, Repr

/-- The operation codes of a write-log directory entry (R242). -/
inductive WOp where
  | shared
  | exclusive
  | replace
  | insert
  | remove
  deriving DecidableEq, Repr

/-- An entry of a context's write log (R242), with the key and the DATA image it stands for; `img` is the image
offset in 64-byte units and `slot` the slot an insert has reserved (R235). -/
structure WEntry where
  hash : Nat
  bench : Nat
  op : WOp
  node : Nat
  key : List Byte
  img : Option Nat
  data : List Byte
  slot : Option Nat
  deriving DecidableEq, Repr

/-- The owner flag of R245. -/
inductive Owner where
  | owned
  | committing
  | ended
  deriving DecidableEq, Repr

/-- Where a transaction stands on the path of chapter 01. `declined` waits for its technical decline (R35),
`committed` for serialisation, `serialised` for the mirror acknowledgement (R16), `handed` for its completion to be
written (R67). -/
inductive Phase where
  | parse
  | queued
  | bound (c : CoreId) (b : BankId)
  | committed
  | serialised
  | declined (reason : Nat)
  | handed
  deriving DecidableEq, Repr

/-- An accepted transaction (R10 to R18). Counts marked per run restart at a replay (R15, R31). -/
structure Txn where
  an : Nat
  deadline : Nat
  tin : Nat
  src : TxnSrc
  dialect : Nat
  /-- the dialect table that was in force at classification (R56) -/
  dtab : Nat
  prog : Nat
  pd : Budget
  /-- ADM_EGRESS.NS at acceptance: the deadline alarm fires this long before the deadline (R33) -/
  egress : Nat
  tile : TileId
  /-- the tile whose slot and extensions hold the records; it stays when a lost tile's work moves (R404) -/
  home : TileId
  slot : Nat
  /-- start of its demand bucket (R27) -/
  bkt : Nat
  /-- a stand-in transaction (R366) -/
  si : Bool
  typeKey : List Byte
  msg : List Byte
  reqPa : Nat
  reqLen : Nat
  rspPa : Nat
  rspImage : List Byte
  g1 : Nat
  g2 : Nat
  phase : Phase
  owner : Owner
  run : Nat
  counted : Nat
  replays : Nat
  /-- demand not yet consumed (R31) -/
  remCyc : Nat
  remPke : Nat
  remSym : Nat
  /-- operations of this run (R33) -/
  nCrypt : Nat
  nLdg : Nat
  nRemote : Nat
  declPke : Nat
  declSym : Nat
  wlog : List WEntry
  jsn : Option Nat
  rsp : Option (List Byte)
  /-- REASON of its completion (R344) -/
  code : Nat
  mirrored : Bool
  /-- the template of a stand-in decision whose response is not yet built (R370) -/
  tpl : Option Nat
  deriving DecidableEq, Repr

/-- A message that ADM refused and whose busy response is not yet out (R32). -/
structure BusyRsp where
  at_ : Nat
  src : TxnSrc
  dialect : Nat
  /-- the dialect table in force when ADM took it -/
  dtab : Nat
  si : Bool
  msg : List Byte
  reason : Nat
  deriving DecidableEq, Repr

/-- The response that waits for its MAC (R73): that of a committed transaction; a templated one of a transaction with its
template and error, the serialise fault of a committed one included (R77); or a busy response. -/
inductive LaneFor where
  | committed (an : Nat)
  | templated (an tpl code off fid : Nat)
  | busy (b : BusyRsp)
  deriving DecidableEq, Repr

/-- A response whose MAC job is outstanding (R73): its lane and job, what stands before and after the MAC on the wire, whether
the MAC goes out as hexadecimal text, and the characters that were substituted. -/
structure LaneWork where
  lane : Fin 32
  job : Nat
  what : LaneFor
  pre : List Byte
  post : List Byte
  hex : Bool
  subst : Nat
  deriving DecidableEq, Repr

/-! ## The ledger store (11) -/

/-- A lock on a bench and a key hash (R243), held by a run; `node` is the node whose transaction holds it. -/
structure Lock where
  bench : Nat
  hash : Nat
  an : Nat
  run : Nat
  excl : Bool
  deadline : Nat
  node : Nat
  tag : Nat
  deriving DecidableEq, Repr

/-- The ledger operations of R238. -/
inductive LOp where
  | ldl
  | ldlu
  | stl
  | del
  deriving DecidableEq, Repr

/-- Where a ledger request stands: waiting for its lock (R244), granted, or refused (R237). -/
inductive LSt where
  | waiting
  | granted
  | refused
  deriving DecidableEq, Repr

/-- A ledger request from issue to response (R236 to R240): the context that waits, the operation, the key, the buffer
as physical parts, and the DATA captured for STL. A request that a Kolat peer made (R319) has its node and TAG in
`peer`; one that a peer serves has its node and request number in `remote`. `sent` lists the holders on other nodes to which
WOUND has been sent for it (R311). -/
structure LReq where
  an : Nat
  run : Nat
  core : CoreId
  bank : BankId
  op : LOp
  bench : Nat
  hash : Nat
  key : List Byte
  buf : List (Nat × Nat)
  data : List Byte
  akey : Nat
  user : Bool
  deadline : Nat
  st : LSt
  peer : Option (Nat × Nat)
  remote : Option (Nat × Nat)
  sent : List Lock
  deriving DecidableEq, Repr

/-- A slot and a pending index entry that an insert has reserved (R235). -/
structure SlotRes where
  an : Nat
  run : Nat
  bench : Nat
  hash : Nat
  slot : Nat
  deriving DecidableEq, Repr

/-- A run that has ended and whose locks are not yet released (R246), with the nodes that are owed a RELEASE (R321). -/
structure EndedRun where
  an : Nat
  run : Nat
  deadline : Nat
  tag : Nat
  nodes : List Nat
  deriving DecidableEq, Repr

/-- Ledger state beside the benches in memory (R243 to R246): locks, requests waiting or in service, reserved slots,
wounds sent and not yet at their owner flag, ended runs, and lines whose data is lost (R257, R406). -/
structure Ldg where
  locks : List Lock
  reqs : List LReq
  slots : List SlotRes
  wounds : List (Nat × Nat)
  ended : List EndedRun
  poison : List Nat
  deriving DecidableEq, Repr

/-! ## Kolat (14) -/

/-- A flit kept for a resend (R300): its SEQ, its bytes, and how often it has been sent again (R302). -/
structure SentFlit where
  seq : Nat
  bytes : List Byte
  resends : Nat
  deriving DecidableEq, Repr

/-- A Kolat port (R299 to R301): the next SEQ, the sent flits kept for a resend, the next SEQ expected, credits held and
the last CREDIT count by channel, the running count of flits freed by channel, and the flits that wait for a credit. -/
structure KPort where
  seq : Nat
  sent : List SentFlit
  rx : Nat
  credits : Vector Nat 8
  seen : Vector Nat 8
  freed : Vector Nat 8
  queue : List (Nat × Nat × List Byte)
  /-- NAK has been sent and the flit that it asks for has not arrived (R300) -/
  naked : Bool
  deriving DecidableEq, Repr

/-- What an outstanding REQ is for (R311). -/
inductive KWhat where
  | lop (an run : Nat) (c : CoreId) (b : BankId)
  | prepare (an run : Nat)
  | wread (c : CoreId)
  | wwrite (c : CoreId)
  deriving DecidableEq, Repr

/-- An outstanding REQ: its request number, its node, and when it was sent (R311). -/
structure KReq where
  no : Nat
  node : Nat
  at_ : Nat
  what : KWhat
  deriving DecidableEq, Repr

/-- A reservation that this node holds for a run of another (R319, R321, R324). -/
structure Rsv where
  an : Nat
  run : Nat
  deadline : Nat
  prepared : Bool
  tag : Nat
  e : WEntry
  deriving DecidableEq, Repr

/-- The memory of an ended or an applied run (R321, R326): when it is dropped, and for an applied run its COORD_JSN and
participant JSN. -/
structure Mark where
  an : Nat
  run : Nat
  until_ : Nat
  applied : Option (Nat × Nat)
  deriving DecidableEq, Repr

/-- The PREPARE answers of a COMMIT by node (R325): none while outstanding; 1 PREPARED, 2 LOST, 3 LOST_RESET, 4 the
timeout of R311. -/
structure XPrep where
  an : Nat
  run : Nat
  answers : List (Nat × Option Nat)
  deriving DecidableEq, Repr

/-- An APPLY whose APPLIED has not arrived (R311, R326). -/
structure XApply where
  an : Nat
  run : Nat
  deadline : Nat
  node : Nat
  tag : Nat
  jsn : Nat
  at_ : Nat
  deriving DecidableEq, Repr

/-- A named seam (R314): its DEVTIME, the GEPOCH of the epoch that it closes, the generation in force from it. -/
structure KTick where
  seam : Nat
  gepoch : Nat
  gen : Nat
  deriving DecidableEq, Repr

/-- A shard-map generation as a node receives it (R309, R318): entries by slice, and whether it is complete. -/
structure NewMap where
  gen : Nat
  entries : List (Nat × Nat)
  full : Bool
  deriving DecidableEq, Repr

/-- A mirror group that this node receives as a peer (R330): sender, first JSN, bytes appended, data that arrived ahead of
its place, and the length that its last message gives. -/
structure MirrorRx where
  src : Nat
  first : Nat
  got : Nat
  held : List (Nat × List Byte)
  len : Option Nat
  deriving DecidableEq, Repr

/-- A global seam whose global seal the lead has not yet formed (R295). -/
structure GWait where
  gepoch : Nat
  seam : Nat
  members : List Nat
  /-- its sign job has been issued: no later seal is added -/
  formed : Bool
  deriving DecidableEq, Repr

/-- The Kolat island (14). `down` lists the bonds known to have failed by node and lowest port (R306); `frozen` lists
slices with the DEVTIME of the seam since which they are frozen (R318). -/
structure Kol where
  ports : Vector KPort 8
  nextReq : Nat
  reqs : List KReq
  rsv : List Rsv
  marks : List Mark
  preps : List XPrep
  applies : List XApply
  lead : Nat
  hbAt : Nat
  down : List (Nat × Nat)
  tick : Option KTick
  lastSeam : Option KTick
  map : Option NewMap
  mapAcked : List Nat
  frozen : List (Nat × Nat)
  seals : List (Nat × Nat × List Byte)
  gwaits : List GWait
  gprev : Option (List Byte)
  mrx : List MirrorRx
  /-- runs that have lost a reservation or its lock by a reset of the ledger store (R324) -/
  lost : List (Nat × Nat)
  /-- GEPOCH of the newest global seal that this node has journalled (R295, R311) -/
  gseen : Option Nat
  deriving DecidableEq, Repr

/-! ## The journal (13) -/

/-- A journal record (R281) from its JSN assignment until its epoch is exported; leaf hash and chain value once it is
complete (R284, R285). -/
structure JRec where
  jsn : Nat
  kind : Nat
  epoch : Nat
  bytes : List Byte
  leaf : List Byte
  chain : List Byte
  complete : Bool
  /-- mirror-acknowledged (R286, R351) -/
  acked : Bool
  deriving DecidableEq, Repr

/-- A mirror group (R286): its entries as bytes and their JSNs, when it was opened or sent, the targets that have not
acknowledged it, and whether it was counted late (R287). -/
structure MGroup where
  first : Nat
  jsns : List Nat
  bytes : List Byte
  at_ : Nat
  host : Bool
  peer : Bool
  late : Bool
  /-- in PCIe mode, the address of its last 8 bytes, whose read acknowledges it (R286) -/
  probe : Option Nat
  deriving DecidableEq, Repr

/-- Where a closing epoch stands: waiting for its records, its seal to be signed, sealed. -/
inductive EpochSt where
  | closing
  | signing
  | sealed
  deriving DecidableEq, Repr

/-- An epoch that a seam has closed (R289 to R293), until it is exported. -/
structure JEpoch where
  epoch : Nat
  first : Nat
  last : Nat
  seamOpen : Nat
  seamClose : Nat
  flags : Nat
  gepoch : Option Nat
  st : EpochSt
  sealBytes : List Byte
  retryAt : Nat
  /-- batches exported (R294) -/
  exported : Nat
  deriving DecidableEq, Repr

/-- The journal unit (13): the next JSN, the chain value of the last complete record, records, the group in gathering, the groups
that wait to be sent and the groups sent, the first JSN and the opening seam of the working face, epochs in closing, the last seal hash, and
whether main epochs run (after release, R297). -/
structure Jnl where
  next : Nat
  chain : List Byte
  recs : List JRec
  group : Option MGroup
  due : List MGroup
  sent : List MGroup
  first : Nat
  seamOpen : Nat
  closing : List JEpoch
  prevSeal : List Byte
  /-- chain value before the first record not yet exported -/
  outChain : List Byte
  running : Bool
  /-- no JSN is assigned until a reset (R406) -/
  halted : Bool
  /-- the seal of a journal tail that is not yet journalled (R296) -/
  tailSeal : Option (List Byte)
  /-- a journal-tail command has been taken since reset (R296, R374) -/
  tailNamed : Bool
  /-- export entries that wait for ring space (R294) -/
  exports : List (List Byte)
  deriving DecidableEq, Repr

/-! ## Crypto (12) -/

/-- A loaded key slot (R274): its space (0 general, 1 + g for traffic space g), its header word and its material. -/
structure KeySlot where
  space : Nat
  slot : Nat
  header : Nat
  mat : List Byte
  deriving DecidableEq, Repr

/-- A wrapped copy of a traffic key in the HBM metadata store (R274): the key that it holds, and which wrapping key wrapped it. -/
structure WrappedKey where
  gen : Nat
  key : KeySlot
  deriving DecidableEq, Repr

/-- For whom a job runs (R265): a context, an XLT lane for a response MAC, or JNL for the seal of the epoch with a first JSN
or for the global seal of a GEPOCH. -/
inductive JobFor where
  | program
  | mac (lane : Fin 32)
  | seal (first : Nat)
  | gseal (gepoch : Nat)
  deriving DecidableEq, Repr

/-- Where a job stands (R265, R268): waiting for an engine, running on one since a DEVTIME, or latched with its status. -/
inductive JobSt where
  | waiting
  | running (e : Fin 48) (since : Nat)
  | latched (status : Nat)
  deriving DecidableEq, Repr

/-- A crypto job (R260, R261): for whom it runs and its home cluster, the context and run that issued it, the descriptor's
fields, the physical parts captured at issue, its cost, the storage key K, and what CRYPT took for the key's TYPE and modulus
length. An XLT or JNL job has no descriptor: its input is `data` and its output `res`. -/
structure CJob where
  id : Nat
  who : JobFor
  cluster : Nat
  data : List Byte
  res : List Byte
  /-- the ADM bucket that a seal job's cost is counted in (R265) -/
  bkt : Nat
  an : Nat
  run : Nat
  core : CoreId
  bank : BankId
  deadline : Nat
  kind : EngineKind
  op : Nat
  param : Nat
  key1 : Nat
  key2 : Nat
  inp : List (Nat × Nat)
  aux : List (Nat × Nat)
  out : List (Nat × Nat)
  outCap : Nat
  mlen : Nat
  desc : Nat
  cost : Nat
  key : Nat
  typ : Option (Nat × Nat)
  reissued : Bool
  /-- failed checks of R266 -/
  fails : Nat
  /-- the engines of the pair whose check failed (R266) -/
  avoid : List (Fin 48)
  /-- KEY1 and KEY2 as it read them at its start; a reissued job keeps them (R276) -/
  keys : Option (Option KeySlot × Option KeySlot)
  /-- work done on it up to `since`, in MHz × ns (R264) -/
  work : Nat
  /-- its completion has reached the caller and been discarded; the abort has not reached the latch (R269) -/
  told : Bool
  st : JobSt
  deriving DecidableEq, Repr

/-- The key store and the jobs (R265, R274): the general space, the wrapped traffic keys in the HBM metadata store, the number
of the wrapping key in force, and the traffic keys that NET caches. `zeroing` holds from the start of a zeroisation until its
20 µs steps are done, `wiping` until the wrapped traffic spaces are overwritten (R278). -/
structure Cry where
  keys : List KeySlot
  wrapped : List WrappedKey
  wrapGen : Nat
  cache : List KeySlot
  jobs : List CJob
  nextJob : Nat
  zeroing : Bool
  wiping : Bool
  deriving DecidableEq, Repr

/-! ## The host interface (15) -/

/-- A host ring (R336 to R341, R352, R355): both indices, whether a read of its doorbell line is out, observed producer
indices with their t_in that HIF has not fetched yet, the index up to which it has fetched, descriptors fetched with
whether HIF is done with each (R343), entries posted and not yet signalled with the time of the first, and since when a
post waits for room and whether that wait was counted. -/
structure Ring where
  prod : Nat
  cons : Nat
  reading : Bool
  seen : List (Nat × Nat)
  fetched : Nat
  flight : List (Nat × Bool)
  unsig : Nat
  unsigAt : Nat
  /-- since when each of its first queued posts has waited for room, and whether that was counted (R352) -/
  waits : List (Nat × Bool)
  deriving DecidableEq, Repr

/-- A message that HIF has copied from host memory and ADM has not taken (R343). -/
structure HMsg where
  sq : Fin 16
  idx : Option Nat
  tin : Nat
  dialect : Nat
  note : Bool
  tag : Nat
  rspAddr : Nat
  rspCap : Nat
  bytes : List Byte
  deriving DecidableEq, Repr

/-- A completion that waits to be posted (R344 to R347): its CQ, the fields of the table, the response bytes with the
buffer that they go to, whether they have been moved to GONE, and the descriptor that a BAD_DESC answers. `conn` is the
handle of a CONN_GONE. -/
structure Cpl where
  cq : Nat
  status : Nat
  reason : Nat
  sq : Nat
  rsp : List Byte
  addr : Nat
  cap : Nat
  tag : Nat
  an : Nat
  jsn : Nat
  deadline : Nat
  conn : Option Nat
  moved : Bool
  desc : Option Nat
  deriving DecidableEq, Repr

/-- An exception entry that waits to be posted (R348): its kind, its connection and its bytes. -/
structure Exc where
  kind : Nat
  conn : Option Nat
  bytes : List Byte
  deriving DecidableEq, Repr

/-- An admin completion that waits to be posted (R350). -/
structure ACpl where
  cid : Nat
  status : Nat
  late : Bool
  r0 : Nat
  deriving DecidableEq, Repr

/-- What a taken admin command still waits for (R350): the transactions of a replaced dialect table (R56), the jobs that read
a deleted key (R276), the locks on a bench that goes OFF and its new descriptor (R232), the end of a zeroisation (R278),
the seam at which a map generation is in force (R318); `queued` waits for its turn in its lane. -/
inductive AdmWait where
  | queued (opc : Nat) (a : AdminCmd)
  | dialect (dtab : Nat)
  | jobs (ids : List Nat)
  | bench (n : Nat) (desc : List Byte)
  | zeroise
  | map (gen : Nat)
  | tail (recs : Nat)
  deriving DecidableEq, Repr

/-- An admin command that has been taken and has not finished (R350). -/
structure AdmJob where
  cid : Nat
  quick : Bool
  wait : AdmWait
  deriving DecidableEq, Repr

/-- A vector of the MSI-X table with its bit of the PBA (R333): message address and data, masked, pending. -/
structure MsixVec where
  addr : Nat
  data : Nat
  masked : Bool
  pending : Bool
  deriving DecidableEq, Repr

/-- HIF (15): the rings, messages copied in and not yet taken by ADM, the SQ served last (R343), and what waits to be
posted on the CQs, EXC and ACQ. -/
structure Hif where
  rings : Vector Ring 40
  msgs : List HMsg
  turn : Nat
  cpls : List Cpl
  excs : List Exc
  acpls : List ACpl
  /-- admin commands in progress -/
  admin : List AdmJob
  /-- the MSI-X table and PBA of BAR2 (R333) -/
  msix : Vector MsixVec 64
  /-- the host fails the next access to host memory that is not a ring's own (R335) -/
  failing : Bool
  deriving DecidableEq, Repr

/-! ## Network ports and connections (03) -/

/-- A response handed to NET (R16, R47): its bytes without framing, what a CONN_GONE completion would carry, when it was
handed over, whether it was counted under R50, and the sequence number after its last byte once it is sealed. -/
structure NRsp where
  rsp : List Byte
  an : Nat
  jsn : Nat
  deadline : Nat
  reason : Nat
  at_ : Nat
  stalled : Bool
  endSeq : Option Nat
  deriving DecidableEq, Repr

/-- STATE of a connection (R45, R46); a closed one stays while messages framed before its end wait for ADM (R48). -/
inductive ConnSt where
  | active
  | paused
  | draining (reason : Nat)
  | closed
  deriving DecidableEq, Repr

/-- The congestion and retransmission state of a connection (the table *Protocol support on the data path*): NewReno, RFC
6298, received SACK ranges, the segment being timed, and the closed-window times. Times in ns. -/
structure Tcp where
  una : Nat
  nxt : Nat
  max_ : Nat
  wnd : Nat
  cwnd : Nat
  ssthresh : Nat
  dup : Nat
  recover : Option Nat
  /-- the highest sequence number sent when recovery last began or a timeout last struck (`recover` of RFC 6582) -/
  high : Option Nat
  sacked : List (Nat × Nat)
  srtt : Option Nat
  rttvar : Nat
  rto : Nat
  rtoAt : Option Nat
  tries : Nat
  timed : Option (Nat × Nat)
  closedAt : Option Nat
  probeAt : Nat
  deriving DecidableEq, Repr

/-- A connection that NET owns (R45 to R52): its handle and which handover it is, its table entry as handed over, its
port, send and receive state, TLS state, the decrypted stream and the framed messages with the ingress time of each byte
(R53). `sbuf` holds the bytes from `una` on. -/
structure Conn where
  h : Nat
  gen : Nat
  entry : List Byte
  st : ConnSt
  port : Fin 8
  tcp : Tcp
  sbuf : List Byte
  rsps : List NRsp
  rcv : Nat
  rbuf : List (Byte × Nat)
  ooo : List (Nat × List (Byte × Nat))
  tsRecent : Nat
  ackCnt : Nat
  ackAt : Option Nat
  rxSeq : Nat
  txSeq : Nat
  rxKey : Nat
  txKey : Nat
  rxIv : List Byte
  txIv : List Byte
  plain : List (Byte × Nat)
  msgs : List (List Byte × Nat)
  rekeyDue : Bool
  deriving DecidableEq, Repr

/-- NET (03): connections, the number of the next handover, and the host frames of the current millisecond of each port. -/
structure Net where
  conns : List Conn
  nextGen : Nat
  exc : Vector (Nat × Nat) 8
  deriving DecidableEq, Repr

/-! ## The error collector (18) -/

/-- What the collector remembers: detection times of faults by unit (R396), whether entries were lost since the last
one written (R408), the last corrected entry of each unit (R408), faults of each unit within the window (R402). -/
structure Err where
  faults : List (Nat × Nat)
  lost : Bool
  corrected : List (Nat × Nat)
  strikes : List (Nat × Nat)
  /-- codes of the units under self-test and of the units retired -/
  testing : List Nat
  retired : List Nat
  deriving DecidableEq, Repr

/-! ## The system block (20) -/

/-- Internal state of SYS: the upper halves latched by a 4-byte read of an RO register, by requester (0 the host, c + 1
core c), register and value (R424); the fraction of DEVTIME in units of 2^-32 ns (R431); the SMBus pointer (R441);
the DEVTIME of the last PPS edge taken, if any (R434). -/
structure Sys where
  latches : List (Nat × Nat × Nat)
  frac : Nat
  smbPtr : Nat
  lastPps : Option Nat
  /-- bit i set: TAMPER_N[i] is low -/
  tamper : Nat
  /-- PTP_PPS_OUT is high since this DEVTIME (R434) -/
  ppsOut : Option Nat
  /-- SYS_DBG_CHAL holds an unused challenge; debug waits for the zeroisation (R435) -/
  dbgChal : Bool
  dbgWait : Bool
  deriving DecidableEq, Repr

/-! ## Power, clocks and temperature (17) -/

/-- What PWR keeps for an island: the operating point it moves to in MHz (R380), since when the target of R41 has been below
its clock, its thermal limit in MHz, the temperature that lowered the limit in eighths of a degree and whether the
sensors have stayed below it by the hysteresis since (R391), the capacity clock that waits for the rail (R382), the action in
progress (R386), and the voltage offset measured at bring-up in mV (R379). -/
structure IslPwr where
  want : Option Nat
  lowSince : Option Nat
  lim : Nat
  limTemp : Int
  cool : Bool
  rise : Option Nat
  action : Option Nat
  offset : Int
  deriving DecidableEq, Repr

/-- PWR and THM (17): the islands; successive readings of 135 °C or above by sensor (R395); the sensors read since their MAX was
cleared; THERM_TRIP_N and PWR_FAULT_N driven low (R395, R446); since when the rail read-back has been off (R382); reference
clocks lost (R453); TVEC and PINMAX kept across OFF by core (R388). -/
structure Pwr where
  isl : Vector IslPwr 44
  hot : List (Nat × Nat)
  fresh : List Nat
  trip : Bool
  railFault : Bool
  avsOff : Option Nat
  clkLost : List RefClk
  kept : List (Nat × Word × Nat)
  deriving DecidableEq, Repr

/-! ## Bring-up (16) -/

/-- BOOT (16): steps of R358 passed; the configuration flash; the bytes of the running image; whether stand-in is open, the
count of stand-in messages accepted in this boot (R368), and the dialect index of SI_DIALECT; the microcode SVN of the
running image; its words, which every control store and the SYS retention memory hold (R418); the levels of the strap balls in the
layout of SYS_STRAP (R449); fuse bits being programmed (R360, R365); whether WARM_RESET_N is held low; how far release has
journalled epoch 0. -/
structure Boot where
  step : Nat
  flash : List Host.Cell
  image : List Byte
  siOpen : Bool
  siNext : Nat
  siDialect : Nat
  ucodeSvn : Nat
  ucode : List Byte
  straps : Nat
  fusing : List Nat
  warmLow : Bool
  /-- records of epoch 0 that release has journalled: its head and the log's entries (R375) -/
  relAt : Nat
  deriving DecidableEq, Repr

/-- ADM (02): the descriptors in its cache by program number (R26). -/
structure Adm where
  pdt : List (Nat × List Byte)
  deriving DecidableEq, Repr

/-! ## The whole machine -/

/-- What has left the device at its pins and links, oldest last. -/
inductive Emit where
  | flit (p : Fin 8) (bytes : List Byte)
  | frame (p : Fin 8) (bytes : List Byte)
  | msix (vector : Nat)
  /-- a read of host memory that the device issues for its ordering alone (R286) -/
  | hostRead (addr n : Nat)
  /-- the completion of a host access to BAR0: what a read returns, none for Completer Abort (R334, R422, R424) -/
  | completion (v : Option Nat)
  /-- what an SMBus Block Read returns (R441) -/
  | smbus (bytes : List Byte)
  deriving DecidableEq, Repr

/-- The machine. -/
structure State where
  mem : List Host.Cell
  skeys : List (Nat × BitVec 5)
  regs : List (Nat × BitVec 64)
  cores : Vector Core 96
  /-- the lines of the 96 L1s (R107) -/
  l1 : List L1Line
  devtime : BitVec 64
  txns : List Txn
  busy : List BusyRsp
  /-- responses that wait for their MAC (R73) -/
  xlt : List LaneWork
  ldg : Ldg
  kol : Kol
  jnl : Jnl
  cry : Cry
  hif : Hif
  net : Net
  err : Err
  sys : Sys
  pwr : Pwr
  boot : Boot
  adm : Adm
  /-- a key write of MPU_SKEY that waits for the key caches: the address and the value (R222) -/
  skey : Option (Nat × Nat)
  /-- machine-check events on their way to an owner flag, and boundary responses (R86, R399): AN and run -/
  mchks : List (Nat × Nat)
  out : List Emit
  freeCtr : Nat
  pending : List Instr
  deriving DecidableEq, Repr

/-! ## Reset -/

/-- A bank after core reset: every field zero but DCTL.DOT (R146; log 5). -/
def Bank.reset : Bank :=
  { lo := Vector.replicate 16 0, w0 := Vector.replicate 16 0, w1 := Vector.replicate 16 0, pc := 0, status := 0,
    bwr := 0, asid := 0, an := 0, deadline := 0, epc := 0, cause := 0, badaddr := 0, fpctl := 0, dctl := 2,
    pend := [], ctx := none }

/-- A TLB entry after core reset (R202). -/
def TlbEntry.reset : TlbEntry := { w0 := 0, w1 := 0, use := false }

/-- The branch predictor after core reset: empty (log 5). -/
def Predictor.reset : Predictor := { counters := [], history := 0, targets := [], returns := [] }

/-- A core after core reset (the reset columns of 05 to 10; log 5). -/
def Core.reset : Core :=
  { banks := Vector.replicate 16 Bank.reset, cur := none, fOwner := none, dOwner := none, f := Vector.replicate 32 0,
    da := Vector.replicate 8 0, tvec := 0, pinmax := 32, hand := 0, tlb := Vector.replicate 128 TlbEntry.reset,
    sq := [], posted := [], pq := [], port := false, smc := false, bp := Predictor.reset, win := [], need := none,
    b15 := none, wait := none, svc := .inService }

/-- A Kolat port after reset: 32 credits on each channel (R301). -/
def KPort.reset : KPort :=
  { seq := 0, sent := [], rx := 0, credits := Vector.replicate 8 32, seen := Vector.replicate 8 0,
    freed := Vector.replicate 8 0, queue := [], naked := false }

/-- The Kolat island after reset. -/
def Kol.reset : Kol :=
  { ports := Vector.replicate 8 KPort.reset, nextReq := 0, reqs := [], rsv := [], marks := [], preps := [],
    applies := [], lead := 0, hbAt := 0, down := [], tick := none, lastSeam := none, map := none, mapAcked := [],
    frozen := [], seals := [], gwaits := [], gprev := none, mrx := [],
    lost := [], gseen := none }

/-- The journal after reset. -/
def Jnl.reset : Jnl :=
  { next := 1, chain := List.replicate 48 0, recs := [], group := none, due := [], sent := [], first := 1, seamOpen := 0,
    closing := [], prevSeal := List.replicate 48 0,
    outChain := List.replicate 48 0, running := false, halted := false, tailSeal := none, tailNamed := false,
    exports := [] }

/-- A ring that is not enabled. -/
def Ring.reset : Ring :=
  { prod := 0, cons := 0, reading := false, seen := [], fetched := 0, flight := [], unsig := 0, unsigAt := 0,
    waits := [] }

/-- HIF after reset: no ring is enabled. No command writes the MSI-X table, which the host sets up in BAR2: its vectors are unmasked
(DESIGN CHOICE, log 65). -/
def Hif.reset : Hif :=
  { rings := Vector.replicate 40 Ring.reset, msgs := [], turn := 15, cpls := [], excs := [], acpls := [],
    admin := [], msix := Vector.replicate 64 { addr := 0, data := 0, masked := false, pending := false },
    failing := false }

/-- An island that has not been brought up. -/
def IslPwr.reset : IslPwr :=
  { want := none, lowSince := none, lim := 0, limTemp := 0, cool := false, rise := none, action := none, offset := 0 }

/-- PWR after reset. -/
def Pwr.reset : Pwr :=
  { isl := Vector.replicate 44 IslPwr.reset, hot := [], fresh := [], trip := false, railFault := false, avsOff := none, clkLost := [], kept := [] }

/-- BOOT after a cold reset, with an erased flash (log 6). -/
def Boot.reset : Boot :=
  { step := 0, flash := [], image := [], siOpen := false, siNext := 0, siDialect := 0, ucodeSvn := 0, ucode := [],
    straps := 0, fusing := [], warmLow := false, relAt := 0 }

/-- The machine right after reset (R356): every setup register at its reset value, memory with nothing listed. -/
def State.reset : State :=
  { mem := [], skeys := [], regs := [], cores := Vector.replicate 96 Core.reset, l1 := [], devtime := 0, txns := [], busy := [], xlt := [],
    ldg := { locks := [], reqs := [], slots := [], wounds := [], ended := [], poison := [] }, kol := Kol.reset,
    jnl := Jnl.reset,
    cry := { keys := [], wrapped := [], wrapGen := 0, cache := [], jobs := [], nextJob := 0, zeroing := false, wiping := false },
    hif := Hif.reset, net := { conns := [], nextGen := 0, exc := Vector.replicate 8 (0, 0) },
    err := { faults := [], lost := false, corrected := [], strikes := [], testing := [], retired := [] },
    sys := { latches := [], frac := 0, smbPtr := 0, lastPps := none, tamper := 0, ppsOut := none, dbgChal := false, dbgWait := false },
    pwr := Pwr.reset, boot := Boot.reset, adm := { pdt := [] }, skey := none, mchks := [], out := [],
    freeCtr := 0, pending := [] }

end Sys2Proof.Machine
end

