-- ==== Sys2Proof/Machine/Mem.lean ====
section
/-! DEFINITION. Physical memory, setup-register fields, counters and events: the operations through which everything
else reads and writes them. -/

namespace Sys2Proof.Machine

/-! ## Memory bytes -/

/-- What a byte of memory that nothing has written reads as (log 4). -/
def memDefault (_ : Nat) : Byte := 0

/-- One byte of memory. -/
def memGet (m : List Host.Cell) (a : Nat) : Byte := Sparse.get memDefault m a

/-- Writes one byte of memory. -/
def memSet (m : List Host.Cell) (a : Nat) (b : Byte) : List Host.Cell := Sparse.set memDefault m a b

/-- `n` bytes from an address on. -/
def memRead (m : List Host.Cell) (a : Nat) : Nat → List Byte
  | 0 => []
  | n + 1 => memGet m a :: memRead m (a + 1) n

/-- Writes bytes from an address on. -/
def memWrite (m : List Host.Cell) (a : Nat) : List Byte → List Host.Cell
  | [] => m
  | b :: t => memWrite (memSet m a b) (a + 1) t

/-- The canonical form of memory. -/
abbrev Memory.wf (m : List Host.Cell) : Prop := Sparse.WF memDefault m

/-- Bytes of memory as a state holds them. -/
def State.rd (s : State) (a n : Nat) : List Byte := memRead s.mem a n

/-- Writes bytes of memory on behalf of an initiator beside the cores: the L1s lose their copies of the lines (R122). -/
def State.wr (s : State) (a : Nat) (bs : List Byte) : State :=
  { s with mem := memWrite s.mem a bs, l1 := s.l1.filter fun e => decide (64 * e.line + 64 ≤ a ∨ a + bs.length ≤ 64 * e.line) }

/-! ## Setup registers -/

/-- The value a setup register holds. -/
def State.reg (s : State) (off : Nat) : Nat := (Sparse.get RegMap.reset s.regs off).toNat

/-- Replaces the value a setup register holds. -/
def State.setReg (s : State) (off v : Nat) : State :=
  { s with regs := Sparse.set RegMap.reset s.regs off (BitVec.ofNat 64 v) }

/-- A field of a setup register. -/
def State.getF (s : State) (f : FieldRef) : Nat := bitsOf (s.reg f.off) f.lo f.width

/-- Adds to a counter (R427: 64 bits, wraps to zero). -/
def State.bump (s : State) (off : Nat) (n : Nat := 1) : State := s.setReg off ((s.reg off + n) % 2 ^ 64)

/-- DEVTIME in ns. -/
def State.now (s : State) : Nat := s.devtime.toNat

/-! ## Fuses and pins -/

/-- Byte of the fuse array (R360), which BOOT_FUSE_RD shows in 8-byte words. -/
def State.fuseByte (s : State) (off : Nat) : Nat := bitsOf (s.reg (Off.BOOT_FUSE_RD (off / 8))) (8 * (off % 8)) 8

/-- `n` bytes of the fuse array. -/
def State.fuseBytes (s : State) (off n : Nat) : List Byte := (List.range n).map fun i => byte (s.fuseByte (off + i))

/-- Word `k` of the fuse array as an interface reads it: ROOT_SEED, words 4 to 7, reads as zero (R360). -/
def State.fuseVisible (s : State) (k : Nat) : Nat := if 4 ≤ k ∧ k < 8 then 0 else s.reg (Off.BOOT_FUSE_RD k)

/-- POLICY bits of the fuses: 0 CLEAR_PERMIT, 1 DEBUG_OFF, 2 HOST_BOOT_OFF, 3 STANDIN_OFF (R360). -/
def State.policy (s : State) (i : Nat) : Bool := bitAt (s.fuseByte 0x131) i

/-- The fuses permit clear key entry (R275). -/
def State.clearEntryFused (s : State) : Bool := s.policy 0

/-- An enabled tamper input is low (R278). -/
def State.tamperLow (s : State) : Bool := s.sys.tamper &&& s.getF Fld.CRY_TAMPER_EN ≠ 0

/-! ## Free values -/

/-- Draws a fresh free value number (log 7). -/
def State.draw (s : State) : Nat × State := (s.freeCtr, { s with freeCtr := s.freeCtr + 1 })

/-- `n` bytes of the DRBG, each a free value (log 7). -/
def drbgFrom (k : Nat) : Nat → List Byte
  | 0 => []
  | n + 1 => Config.drbg k :: drbgFrom (k + 1) n

/-- Draws `n` bytes from the DRBG. -/
def State.random (s : State) (n : Nat) : List Byte × State :=
  (drbgFrom s.freeCtr n, { s with freeCtr := s.freeCtr + n })

/-- `n` bytes that the specification leaves open (log 7). -/
def State.openBytes (s : State) (n : Nat) : List Byte × State :=
  ((List.range n).map fun i => byte (Config.openValue (s.freeCtr + i)), { s with freeCtr := s.freeCtr + n })

/-! ## Interrupts and system events -/

/-- Sends an MSI-X message. -/
def State.msix (s : State) (v : Nat) : State :=
  let i : Fin 64 := ⟨v % 64, Nat.mod_lt _ (by decide)⟩
  if s.hif.msix[i].masked then
    { s with hif := { s.hif with msix := s.hif.msix.set i { s.hif.msix[i] with pending := true } } }
  else { s with out := s.out ++ [.msix v] }

/-- SYS_EVT and SYS_EVT_EN.EN (R430). -/
def State.evtSummary (s : State) : Nat := s.getF Fld.SYS_EVT_EVT &&& s.getF Fld.SYS_EVT_EN_EN

/-- Raises the summary vector when the summary went from zero to non-zero (R430). -/
def State.evtRaise (s : State) (before : Nat) : State :=
  if before = 0 ∧ s.evtSummary ≠ 0 then s.msix (s.getF Fld.SYS_EVT_EN_VECTOR) else s

/-- Sets a bit of SYS_EVT (R429) and raises the summary interrupt as R430 states. -/
def State.evt (s : State) (bit : Nat) : State :=
  (s.setReg Off.SYS_EVT (s.reg Off.SYS_EVT ||| 2 ^ bit)).evtRaise s.evtSummary

/-- Whether a field is the same field as `g` of one of `n` registers `stride` bytes apart, `g` being of the first. -/
def FieldRef.among (f g : FieldRef) (stride n : Nat) : Bool :=
  f.lo == g.lo && decide (g.off ≤ f.off) && decide (f.off < g.off + stride * n) && (f.off - g.off) % stride == 0

/-- The system event of a field whose value goes from `old` to `new`, if any (R429, the table *System events*). -/
@[irreducible] def eventOf (f : FieldRef) (old new : Nat) : Option Nat :=
  let moved (bit : Nat) : Option Nat := if old = new then none else some bit
  let rises (bit : Nat) : Option Nat := if old = 0 ∧ new ≠ 0 then some bit else none
  if f = Fld.BOOT_STATUS_PHASE then moved 0
  else if f = Fld.ERR_LOG_PTR_WR then moved 1
  else if f = Fld.THM_STATUS_DERATED then moved 2
  else if f = Fld.THM_STATUS_OVER125 then rises 2
  else if f = Fld.PWR_AVS_FAULT then rises 3
  else if f.among (Fld.PWR_ISL_STATUS_STATE 0) 8 44 then moved 4
  else if f.among (Fld.NET_PORT_STATUS_LINK_UP 0) 0x20 8 then moved 5
  else if f.among (Fld.NET_PORT_STATUS_FAILED_OVER 0) 0x20 8 then rises 5
  else if f = Fld.KOL_STATUS_TICK_MISS ∨ f = Fld.KOL_STATUS_SKEW ∨ f = Fld.KOL_STATUS_ORPHAN then rises 6
  else if f.among (Fld.KOL_PORT_STATUS_FAILED 0) (Off.KOL_PORT_STATUS 1 - Off.KOL_PORT_STATUS 0) 8 then rises 6
  else if f = Fld.JNL_STATUS_SEAL_FAIL ∨ f = Fld.JNL_STATUS_MIRROR_LATE ∨ f = Fld.JNL_STATUS_STRAG_LATE ∨
      f = Fld.JNL_STATUS_FULL then rises 7
  else if f.among (Fld.HIF_RING_STATE_ERR 0) 0x20 40 ∨ f.among (Fld.HIF_RING_STATE_WAIT 0) 0x20 40 then rises 8
  else if f = Fld.CRY_STATUS_ZEROISED then rises 11
  else if f = Fld.LDG_STATUS_DEGRADED then rises 12
  else none

/-- Writes a field as the hardware does, whatever its access code, with the system event of the change (R429). -/
def State.setF (s : State) (f : FieldRef) (v : Nat) : State :=
  let s1 := s.setReg f.off (putBits (s.reg f.off) f.lo f.width v)
  match eventOf f (s.getF f) (v % 2 ^ f.width) with
  | some bit => s1.evt bit
  | none => s1

/-! ## The error collector (R396, R408, R409) -/

/-- Classes of the error log (R397, R408). -/
inductive ErrClass where
  | core | tile | pke | sym | xlt | jnl | line | stack | loss | eth | kolat | fabric | paired | keystore
  | mpu | timeout | quarantine | serialise | environment
  deriving DecidableEq, Repr

/-- CLASS codes. -/
def ErrClass.code : ErrClass → Nat
  | .core => 0x01 | .tile => 0x02 | .pke => 0x03 | .sym => 0x04 | .xlt => 0x05 | .jnl => 0x06 | .line => 0x07
  | .stack => 0x08 | .loss => 0x09 | .eth => 0x0A | .kolat => 0x0B | .fabric => 0x0C | .paired => 0x0D
  | .keystore => 0x0E | .mpu => 0x10 | .timeout => 0x11 | .quarantine => 0x12 | .serialise => 0x13
  | .environment => 0x14

/-- What a unit reports to the collector. `outcome` marks the entry of R402, which concludes a fault. -/
structure ErrReport where
  island : Nat
  unit : Nat
  cls : ErrClass
  severity : Nat
  code : Nat := 0
  bank : Nat := 0
  an : Nat := 0
  detail : Nat := 0
  outcome : Bool := false
  deriving DecidableEq, Repr

/-- The kind of unit that a class is about: a stack, its lines and the loss of its data are one unit (R396, R397). -/
def ErrClass.kind : ErrClass → Nat
  | .line => ErrClass.stack.code
  | .loss => ErrClass.stack.code
  | c => c.code

/-- The key under which the collector knows a unit. -/
def ErrReport.unitKey (r : ErrReport) : Nat := r.island * 65536 + r.unit * 256 + r.cls.kind

/-- The first detection of a fault: SEVERITY 1 to 3, no self-test outcome, no detection in the unit within 1 ms (R396). -/
def isNewFault (s : State) (r : ErrReport) : Bool :=
  1 ≤ r.severity ∧ r.severity ≤ 3 ∧ !r.outcome ∧
    (s.err.faults.all fun p => p.1 != r.unitKey || decide (p.2 + 1000000 ≤ s.now))

/-- FLAGS[1]: within 10 ms of an earlier fault (R396). -/
def isSecondFault (s : State) (r : ErrReport) : Bool :=
  isNewFault s r && s.err.faults.any fun p => decide (s.now < p.2 + 10000000)

/-- The 32 bytes of an entry (R408). -/
def errEntry (s : State) (r : ErrReport) (second : Bool) : List Byte :=
  leBytes 8 s.now ++ bytesOf [r.island, r.unit, r.cls.code, r.severity, r.code,
    b2n s.err.lost + 2 * b2n second] ++ leBytes 2 r.bank ++ leBytes 8 r.an ++ leBytes 8 r.detail

/-- Counts a new fault: ERR_FAULT_CNT, and ERR_STATUS.SECOND with ERR_SECOND_CNT when it is a second one (R396). -/
def noteFault (s : State) (r : ErrReport) : State :=
  if isNewFault s r then
    let s1 := if isSecondFault s r then (s.setF Fld.ERR_STATUS_SECOND 1).bump Off.ERR_SECOND_CNT else s
    let s2 := s1.bump Off.ERR_FAULT_CNT
    { s2 with err := { s2.err with faults := (r.unitKey, s.now) :: s2.err.faults.filter fun p => s.now < p.2 + 10000000 } }
  else s

/-- Writes the entry at WR mod 256 and advances WR; a full ring loses it (R408, R409). -/
def writeEntry (s : State) (r : ErrReport) (second : Bool) : State :=
  let wr := s.getF Fld.ERR_LOG_PTR_WR
  let rd := s.getF Fld.ERR_LOG_PTR_RD
  if (wr + 2 ^ 32 - rd) % 2 ^ 32 = 256 then
    let s1 := (s.bump Off.ERR_LOST_CNT).setF Fld.ERR_STATUS_OVERFLOW 1
    { s1 with err := { s1.err with lost := true } }
  else
    let e := errEntry s r second
    let k := 4 * (wr % 256)
    let s1 := (((s.setReg (Off.ERR_LOG k) (fld e 0 8)).setReg (Off.ERR_LOG (k + 1)) (fld e 8 8)).setReg
      (Off.ERR_LOG (k + 2)) (fld e 16 8)).setReg (Off.ERR_LOG (k + 3)) (fld e 24 8)
    let s2 := { s1 with err := { s1.err with lost := false } }
    let s3 := s2.setF Fld.ERR_LOG_PTR_WR (wr + 1)
    if s3.getF Fld.ERR_CTRL_IRQ_EN = 1 then s3.msix (s3.getF Fld.ERR_CTRL_VECTOR) else s3

/-- Reports an event to the collector. Corrected events of a unit are logged at most once per second and otherwise
only counted (R408). -/
def State.report (s : State) (r : ErrReport) : State :=
  if r.severity = 0 then
    let s1 := s.bump Off.ERR_CE_CNT
    if s.err.corrected.any fun p => p.1 == r.unitKey && decide (s.now < p.2 + 1000000000) then s1
    else
      let s2 := { s1 with err := { s1.err with
        corrected := (r.unitKey, s.now) :: s1.err.corrected.filter fun p => p.1 != r.unitKey } }
      writeEntry s2 r false
  else writeEntry (noteFault s r) r (isSecondFault s r)

end Sys2Proof.Machine
end

