-- ==== Sys2Proof/Machine/Mpu.lean ====
section
/-! DEFINITION. The physical address map (R198), the MPU (R215 to R219), the storage keys (R220 to R222), and the
checked accesses of island initiators (R223, steps 7 to 9). -/

namespace Sys2Proof.Machine

/-- The ranges of the physical address map (R198), with the address within the range. -/
inductive Target where
  | hbm (a : Nat)
  | tile (t off : Nat)
  | setup (off : Nat)
  | window (w a : Nat)
  | host (a : Nat)
  | hole
  deriving DecidableEq, Repr

/-- First address of the tile stores. -/
abbrev tileBase : Nat := 0x2000_0000_0000
/-- First address of the setup-register window. -/
abbrev setupBase : Nat := 0x3000_0000_0000
/-- First address of the Kolat remote windows. -/
abbrev windowBase : Nat := 0x4000_0000_0000
/-- First address of host memory. -/
abbrev hostBase : Nat := 0x8000_0000_0000

/-- Which range an address lies in (R198). -/
def targetOf (pa : Nat) : Target :=
  if pa ≤ 0x0017_FFFF_FFFF then .hbm pa
  else if tileBase ≤ pa ∧ pa ≤ 0x2000_05FF_FFFF then .tile ((pa - tileBase) / 0x40_0000) ((pa - tileBase) % 0x40_0000)
  else if setupBase ≤ pa ∧ pa ≤ 0x3000_00FF_FFFF then .setup (pa - setupBase)
  else if windowBase ≤ pa ∧ pa < hostBase then .window ((pa - windowBase) / 2 ^ 40) ((pa - windowBase) % 2 ^ 40)
  else if hostBase ≤ pa ∧ pa < 2 ^ 48 then .host (pa - hostBase)
  else .hole

/-- The physical address of an offset in the tile store of TILE.t. -/
def tileAddr (t : Nat) (off : Nat) : Nat := tileBase + t * 0x40_0000 + off

/-- The register that covers a BAR0 offset: the offset where it starts and its size (R423). -/
def regCovering (off : Nat) : Option (Nat × Nat) :=
  match RegMap.at? (off - off % 8) with
  | some (g, _) =>
    if off % 8 < g.bytes then some (off - off % 8, g.bytes)
    else (RegMap.at? (off - off % 4)).map fun p => (off - off % 4, p.1.bytes)
  | none => (RegMap.at? (off - off % 4)).bind fun p =>
      if p.1.bytes = 4 then some (off - off % 4, 4) else none

/-- Bytes of HBM that the protection mode backs (R255). -/
def hbmLimit (s : State) : Nat :=
  match s.getF Fld.LDG_HBM_MODE with
  | 1 => 0x000C_0000_0000
  | 2 => 0x0018_0000_0000
  | _ => 0x0012_0000_0000

/-- Host memory is backed while the link is up and Bus Master Enable is set (R335). -/
def hostBacked (s : State) : Bool := s.getF Fld.HIF_STATUS_MODE ≠ 0 ∧ s.getF Fld.HIF_STATUS_BME = 1

/-- A backed address (R198, R199). -/
def backed (s : State) (pa : Nat) : Bool :=
  match targetOf pa with
  | .hbm a => a < hbmLimit s
  | .tile _ _ => true
  | .setup off => (regCovering off).isSome
  | .window w _ => s.getF (Fld.KOL_WIN_VALID w) = 1
  | .host _ => hostBacked s
  | .hole => false

/-- Every byte of a piece that lies within one 4 KiB block is backed (R198): in the setup-register window a register must lie
under each of them. -/
def backedAll (s : State) (pa len : Nat) : Bool :=
  match targetOf pa with
  | .setup off => (List.range len).all fun i => (regCovering (off + i)).isSome
  | _ => backed s pa && backed s (pa + len - 1)

/-- The kinds of access that permissions tell apart. -/
inductive Kind where
  | read
  | write
  | fetch
  deriving DecidableEq, Repr

/-- The initiator classes (R215), in the order of their INIT bits. -/
inductive Initiator where
  | user | supervisor | net | xlt | cry | jnl | hif | kol
  deriving DecidableEq, Repr

/-- INIT bit of a class. -/
def Initiator.bit : Initiator → Nat
  | .user => 0 | .supervisor => 1 | .net => 2 | .xlt => 3 | .cry => 4 | .jnl => 5 | .hif => 6 | .kol => 7

/-- The island an initiator's refusals are reported for (R377). -/
def Initiator.island : Initiator → Nat
  | .user => 34 | .supervisor => 34 | .net => 38 | .xlt => 30 | .cry => 24 | .jnl => 42 | .hif => 40 | .kol => 39

/-- An active MPU region (R215). -/
structure Region where
  index : Nat
  base : Nat
  size : Nat
  init : Nat
  x : Bool
  w : Bool
  r : Bool
  type : Nat
  deriving DecidableEq, Repr

/-- Active region `k`, if enabled. -/
def activeRegion (s : State) (k : Nat) : Option Region :=
  let a := s.reg (Off.MPU_ACT_ATTR k)
  if bitAt a 0 then
    let b := s.reg (Off.MPU_ACT_BASE k)
    let sz := 2 ^ clampNat 12 48 (bitsOf b 0 6)
    some { index := k, base := bitsOf b 12 36 * 4096 / sz * sz, size := sz, init := bitsOf a 16 8,
           x := bitAt a 10, w := bitAt a 9, r := bitAt a 8, type := bitsOf a 4 2 }
  else none

/-- The regions that apply to an access (R216). -/
def applying (s : State) (i : Initiator) (pa : Nat) : List Region :=
  ((List.range 256).filterMap (activeRegion s)).filter fun g =>
    decide (g.base ≤ pa ∧ pa < g.base + g.size) && bitAt g.init i.bit

/-- Whether a region grants a kind of access (R216). -/
def Region.grants (g : Region) : Kind → Bool
  | .read => g.r
  | .write => g.w
  | .fetch => g.x

/-- The MPU's answer for one part at `pa` of an access that covers the bytes from `start` up to `fin`: the type of the
allowed access (0 normal, 1 device, 2 append-only), or refusal (R216, R217). A write to append-only memory starts at the
pointer of every applying region and lies wholly below their ends. -/
def mpuCheck (s : State) (i : Initiator) (k : Kind) (start fin pa : Nat) : Option Nat :=
  match applying s i pa with
  | [] => none
  | g :: t =>
    if (g :: t).all (fun h => h.grants k && h.type == g.type) &&
       !(decide (k = .fetch) && g.type == 1) &&
       (decide (k ≠ .write) || g.type != 2 ||
         (g :: t).all fun h => s.getF (Fld.MPU_APTR_APTR h.index) == start && decide (fin ≤ h.base + h.size))
    then some g.type else none

/-- Moves the pointers of an allowed write to append-only memory past its last byte (R217). -/
def appendAdvance (s : State) (i : Initiator) (pa len : Nat) : State :=
  (applying s i pa).foldl (fun s g => if g.type = 2 then s.setF (Fld.MPU_APTR_APTR g.index) (pa + len) else s) s

/-- The storage key and read-guard bit of the frame of an address: key in bits 3:0, read guard in bit 4; frames
without a key read as 0 (R220). -/
def frameKey (s : State) (pa : Nat) : Nat :=
  match targetOf pa with
  | .hbm _ => (Sparse.get (fun _ => 0#5) s.skeys (pa / 4096)).toNat
  | .tile _ _ => (Sparse.get (fun _ => 0#5) s.skeys (pa / 4096)).toNat
  | _ => 0

/-- Whether a frame has a key (R220). -/
def keyed (pa : Nat) : Bool :=
  match targetOf pa with
  | .hbm _ => true
  | .tile _ _ => true
  | _ => false

/-- Sets the key of a frame; no effect on a frame without one (R222). -/
def setFrameKey (s : State) (pa v : Nat) : State :=
  if keyed pa then { s with skeys := Sparse.set (fun _ => 0#5) s.skeys (pa / 4096) (BitVec.ofNat 5 v) } else s

/-- The key rule of R221, for key K against a frame key and read-guard bit. -/
def keyAllows (k : Kind) (key fk : Nat) (rg : Bool) : Bool :=
  key == 0 || key == fk || (decide (k ≠ .write) && !rg)

/-- The storage-key check of an address (R221). -/
def keyCheck (s : State) (k : Kind) (key pa : Nat) : Bool :=
  !keyed pa || keyAllows k key (bitsOf (frameKey s pa) 0 4) (bitAt (frameKey s pa) 4)

/-- The parts of an operand: its pieces within aligned 4 KiB blocks, in address order (R224). -/
def partsFuel : Nat → Nat → Nat → List (Nat × Nat)
  | 0, _, _ => []
  | f + 1, a, n =>
    if n = 0 then [] else
    let m := min n (4096 - a % 4096)
    (a, m) :: partsFuel f (a + m) (n - m)

/-- The parts of the `n` bytes at `a`. -/
def partsOf (a n : Nat) : List (Nat × Nat) := partsFuel (n / 4096 + 2) a n

/-- Codes under which the collector knows a failed HBM stack and a lost tile. -/
def stackCode (k : Nat) : Nat := 0x500 + k
/-- The code of a lost tile. -/
def tileCode (t : Nat) : Nat := 0x600 + t

/-- A stack that answers nothing: failed, or its island out of service (R256, R387). -/
def stackGone (s : State) (k : Nat) : Bool :=
  s.err.retired.contains (stackCode k) ||
    (s.getF Fld.LDG_STATUS_DEGRADED == 1 && s.getF Fld.LDG_STATUS_STACK == k)

/-- The stacks that hold line `n`, the data first, by the protection mode (R255); under 3+1 parity the whole stripe. -/
def lineStacks (mode n : Nat) : List Nat :=
  match mode with
  | 1 => [n % 2, n % 2 + 2]
  | 2 => [n % 4]
  | _ =>
    let par := n / 3 % 4
    let data := ([0, 1, 2, 3].filter fun k => k != par).getD (n % 3) 0
    data :: [0, 1, 2, 3].filter fun k => k != data

/-- A line that failed stacks have lost: under 3+1 parity its own stack and another, else every stack that holds it (R256,
R257, R406). -/
def stacksLost (s : State) (n : Nat) : Bool :=
  let mode := s.getF Fld.LDG_HBM_MODE
  let l := lineStacks mode n
  if mode = 1 ∨ mode = 2 then l.all (stackGone s)
  else stackGone s (l.headD 0) && l.tail.any (stackGone s)

/-- Whether a range of HBM holds a line whose data is lost (R257, R406). -/
def poisoned (s : State) (pa n : Nat) : Bool :=
  (s.ldg.poison.any fun l => decide (pa < 64 * l + 64 ∧ 64 * l < pa + n)) ||
    (match targetOf pa with
     | .hbm _ => [0, 1, 2, 3].any (stackGone s) &&
         (List.range ((pa + n + 63) / 64 - pa / 64)).any fun i => stacksLost s (pa / 64 + i)
     | _ => false)

/-- The boundary cells of a tile answer ISLAND_ABSENT to a core of another tile: they do so from the moment that the tile
quiesces until it is in service again (R383, R384). A core of the tile itself crosses no boundary. -/
def storeAbsent (s : State) (own : TileId) (pa : Nat) : Bool :=
  match targetOf pa with
  | .tile t _ => t != own.val && s.getF (Fld.PWR_ISL_STATUS_STATE t) != 2
  | _ => false

/-- The tile store of a tile that is neither in service nor quiescing answers ISLAND_ABSENT to every island (R384). What islands
do at a tile that quiesces is for its own transactions, which it still completes (log 53). -/
def storeGone (s : State) (pa : Nat) : Bool :=
  match targetOf pa with
  | .tile t _ => s.getF (Fld.PWR_ISL_STATUS_STATE t) != 2 && s.getF (Fld.PWR_ISL_STATUS_STATE t) != 3
  | _ => false

/-! ## Activation -/

/-- Requests an activation (R225, R226): one that arrives while another drains is satisfied by it. -/
def requestActivation (s : State) : State := s.setF Fld.MPU_STATUS_DRAINING 1

/-- The append pointer of region `k` at an activation (R218): kept where EN, base, size and type stay as they are, the
region base where one changes, zero for a region that is not append-only. -/
def newPointer (s : State) (k : Nat) : Nat :=
  let attr := s.reg (Off.MPU_RGN_ATTR k)
  let base := s.reg (Off.MPU_RGN_BASE k)
  let old := s.reg (Off.MPU_ACT_ATTR k)
  let oldBase := s.reg (Off.MPU_ACT_BASE k)
  let start (b : Nat) : Nat := bitsOf b 12 36 * 4096 / 2 ^ clampNat 12 48 (bitsOf b 0 6) * 2 ^ clampNat 12 48 (bitsOf b 0 6)
  if bitsOf attr 4 2 ≠ 2 then 0
  else if bitAt attr 0 = bitAt old 0 ∧ start base = start oldBase ∧ bitsOf base 0 6 = bitsOf oldBase 0 6 ∧
      bitsOf old 4 2 = 2 then s.getF (Fld.MPU_APTR_APTR k)
  else start base

/-- Makes region `k` of the shadow set active (R225 step 3, R218). -/
def activateRegion (s : State) (k : Nat) : State :=
  let s1 := s.setF (Fld.MPU_APTR_APTR k) (newPointer s k)
  (s1.setReg (Off.MPU_ACT_BASE k) (s.reg (Off.MPU_RGN_BASE k))).setReg (Off.MPU_ACT_ATTR k) (s.reg (Off.MPU_RGN_ATTR k))

/-- The activation instant: the shadow set becomes active and GEN advances (R225 step 3, R226). -/
def activateAll (s : State) : State :=
  let s1 := (List.range 256).foldl activateRegion s
  (s1.setF Fld.MPU_STATUS_DRAINING 0).setF Fld.MPU_STATUS_GEN (s1.getF Fld.MPU_STATUS_GEN + 1)

/-! ## Island initiators -/

/-- The first part of an island access that is refused (R223 steps 7 to 9; island initiators use key 0, R221). -/
def islandRefused (s : State) (i : Initiator) (k : Kind) (pa n : Nat) : Option Nat :=
  (partsOf pa n).findSome? fun p =>
    if backedAll s p.1 p.2 && (mpuCheck s i k pa (pa + n) p.1).isSome then none else some p.1

/-- Records a refusal (R219): MPU_FAULT on the first, and an entry of CLASS 0x10. -/
def refuseAccess (s : State) (i : Initiator) (k : Kind) (pa : Nat) : State :=
  let s1 := if s.getF Fld.MPU_FAULT_VALID = 0 then
      (((s.setF Fld.MPU_FAULT_VALID 1).setF Fld.MPU_FAULT_CLASS i.bit).setF Fld.MPU_FAULT_WRITE
        (b2n (decide (k = .write)))).setF Fld.MPU_FAULT_ADDR pa
    else s
  s1.report { island := i.island, unit := 0xFF, cls := .mpu, severity := 5, detail := pa }

/-- An island access that arrives while an activation drains is held at the check and made under the new set (R225 steps 2
and 3; log 62). -/
def mpuSettled (s : State) : State := if s.getF Fld.MPU_STATUS_DRAINING = 1 then activateAll s else s

/-- Reads under the active set: the bytes, or none with the refusal recorded, the data lost or the store absent (R384). -/
def readChecked (s : State) (i : Initiator) (pa n : Nat) : Option (List Byte) × State :=
  match islandRefused s i .read pa n with
  | none => if poisoned s pa n || storeGone s pa then (none, s) else (some (s.rd pa n), s)
  | some p => (none, refuseAccess s i .read p)

/-- Reads as an island initiator: the bytes, or none and the refusal recorded. -/
def islandRead (s : State) (i : Initiator) (pa n : Nat) : Option (List Byte) × State := readChecked (mpuSettled s) i pa n

/-- Writes under the active set: all of it, or nothing with the refusal recorded or the store absent (R384). -/
def writeChecked (s : State) (i : Initiator) (pa : Nat) (bs : List Byte) : Bool × State :=
  match islandRefused s i .write pa bs.length with
  | none => if storeGone s pa then (false, s) else (true, appendAdvance (s.wr pa bs) i pa bs.length)
  | some p => (false, refuseAccess s i .write p)

/-- Writes as an island initiator: all of it, or nothing and the refusal recorded. -/
def islandWrite (s : State) (i : Initiator) (pa : Nat) (bs : List Byte) : Bool × State :=
  writeChecked (mpuSettled s) i pa bs

/-- An access of HIF to host memory that is not a ring's own: one that the host fails is not performed, as a refused one (R219,
R335). -/
def hifRead (s : State) (pa n : Nat) : Option (List Byte) × State :=
  if s.hif.failing then (none, { s with hif := { s.hif with failing := false } }) else islandRead s .hif pa n

/-- The same for a write. -/
def hifWrite (s : State) (pa : Nat) (bs : List Byte) : Bool × State :=
  if s.hif.failing then (false, { s with hif := { s.hif with failing := false } }) else islandWrite s .hif pa bs

/-- Host memory at a host physical address, as class HIF or JNL sees it (R335). -/
def hostPa (a : Nat) : Nat := hostBase + a % 2 ^ 47

/-! ## Key writes -/

/-- Performs the key write of MPU_SKEY that waits, if one does (R222, R228). -/
def finishSkey (s : State) : State :=
  match s.skey with
  | none => s
  | some (pa, v) => { (setFrameKey s pa v).setF Fld.MPU_SKEY_BUSY 0 with skey := none }

/-- A write of MPU_SKEY (R222): the change waits for every key cache. A frame without a key takes no change; a write that
finds an earlier one waiting follows it (log 49). -/
def skeyWrite (s : State) (v : Nat) : State :=
  let s1 := finishSkey s
  let pa := bitsOf v 12 36 * 4096
  if keyed pa then { s1.setF Fld.MPU_SKEY_BUSY 1 with skey := some (pa, bitsOf v 0 5) } else s1

end Sys2Proof.Machine
end

