-- ==== Sys2Proof/Machine/RunEnd.lean ====
section
/-! DEFINITION. Transactions, core and bank accessors, and how a run ends (R86, R90, R245, R252, R254): what the
caller does at an owner flag. -/

namespace Sys2Proof.Machine

/-! ## Cores and banks -/

/-- Core `c`. -/
def State.core (s : State) (c : CoreId) : Core := s.cores[c]

/-- Replaces core `c`. -/
def State.setCore (s : State) (c : CoreId) (k : Core) : State := { s with cores := s.cores.set c k }

/-- Changes core `c`. -/
def State.modCore (s : State) (c : CoreId) (f : Core → Core) : State := s.setCore c (f (s.core c))

/-- Bank `b` of a core. -/
def Core.bank (k : Core) (b : BankId) : Bank := k.banks[b]

/-- Replaces bank `b` of a core. -/
def Core.setBank (k : Core) (b : BankId) (v : Bank) : Core := { k with banks := k.banks.set b v }

/-- Changes bank `b` of a core. -/
def Core.modBank (k : Core) (b : BankId) (f : Bank → Bank) : Core := k.setBank b (f (k.bank b))

/-- Bank `b` of core `c`. -/
def State.bank (s : State) (c : CoreId) (b : BankId) : Bank := (s.core c).bank b

/-- Changes bank `b` of core `c`. -/
def State.modBank (s : State) (c : CoreId) (b : BankId) (f : Bank → Bank) : State :=
  s.modCore c fun k => k.modBank b f

/-- The tile of a core. -/
def tileOf (c : CoreId) : TileId := ⟨c.val / 4, by omega⟩

/-- The core's index within its tile. -/
def coreInTile (c : CoreId) : Nat := c.val % 4

/-- Core `j` of a tile. -/
def coreOf (t : TileId) (j : Fin 4) : CoreId := ⟨4 * t.val + j.val, by omega⟩

/-- The four cores of a tile. -/
def coresOf (t : TileId) : List CoreId := [coreOf t 0, coreOf t 1, coreOf t 2, coreOf t 3]

/-- Banks 0 to 14 (R79). -/
def contextBanks : List BankId := [0, 1, 2, 3, 4, 5, 6, 7, 8, 9, 10, 11, 12, 13, 14]

/-- Bank 15. -/
abbrev bank15 : BankId := 15

/-- Whether the context in a bank can run (R86, R91). -/
def Bank.runnable (b : Bank) : Bool :=
  match b.ctx with
  | some x => x.block.isNone
  | none => false

/-- The priority comparison of the conventions: deadline, then AN (R12). -/
def older (d1 a1 d2 a2 : Nat) : Bool := decide (d1 < d2) || (d1 == d2 && decide (a1 < a2))

/-- The priority comparison of the contexts of two banks. -/
def Bank.before (x y : Bank) : Bool := older x.deadline.toNat x.an.toNat y.deadline.toNat y.an.toNat

/-- The bank whose runnable context comes first (R87). -/
def Core.best (k : Core) : Option BankId :=
  contextBanks.foldl (fun acc b =>
    if (k.bank b).runnable then
      match acc with
      | none => some b
      | some a => if (k.bank b).before (k.bank a) then some b else acc
    else acc) none

/-- Makes a bank current: fetch restarts at its PC with an empty prefetch queue (R108, R112). -/
def Core.switchTo (k : Core) (b : BankId) : Core :=
  { k with cur := some b, pq := [], win := [], need := none }

/-- A core in service without a current bank takes the first runnable context (R87). -/
def Core.select (k : Core) : Core :=
  if k.cur = none ∧ k.svc = .inService then
    match k.best with
    | some b => k.switchTo b
    | none => k
  else k

/-- The current bank gives up the core, and the next context is selected (R92). -/
def Core.yieldBank (k : Core) : Core := Core.select { k with cur := none, pq := [], win := [], need := none }

/-! ## Transactions -/

/-- The accepted transaction with an AN. -/
def State.txn? (s : State) (an : Nat) : Option Txn := s.txns.find? fun t => t.an == an

/-- Changes the transaction with an AN. -/
def State.modTxn (s : State) (an : Nat) (f : Txn → Txn) : State :=
  { s with txns := s.txns.map fun t => if t.an = an then f t else t }

/-- Removes the transaction with an AN: its outcome is decided and answered. -/
def State.dropTxn (s : State) (an : Nat) : State := { s with txns := s.txns.filter fun t => t.an != an }

/-- The bank that a transaction's context occupies. -/
def Txn.where_ (t : Txn) : Option (CoreId × BankId) :=
  match t.phase with
  | .bound c b => some (c, b)
  | _ => none

/-- The reason of a transaction that waits for its technical decline. -/
def Txn.declineReason (t : Txn) : Option Nat := match t.phase with | .declined r => some r | _ => none

/-- ADM_STATUS.OUTSTANDING: accepted transactions without a decided outcome; a JSN or a decline decides it (R10). -/
def Txn.undecided (t : Txn) : Bool :=
  match t.phase with
  | .parse => true
  | .queued => true
  | .bound _ _ => true
  | _ => false

/-- Writes ADM_STATUS.OUTSTANDING from the table of transactions. -/
def State.countOutstanding (s : State) : State :=
  s.setF Fld.ADM_STATUS_OUTSTANDING (s.txns.countP Txn.undecided)

/-! ## The end of a run -/

/-- Why a run ends and what follows (R252, R254). -/
inductive RunEnd where
  | faultReplay
  | countedReplay
  | decline (reason : Nat)
  deriving DecidableEq, Repr

/-- Frees a bank and its lazy ownership (R84, R102); bank 15 is left with its context. -/
def Core.freeBank (k : Core) (b : BankId) : Core :=
  let k1 := k.modBank b fun v => { v with ctx := none, pend := [] }
  let k2 := { k1 with fOwner := (if k1.fOwner = some b then none else k1.fOwner),
                      dOwner := (if k1.dOwner = some b then none else k1.dOwner) }
  let in15 := match k.b15 with | some x => x.bank == b | none => false
  if in15 then
    Core.yieldBank { k2 with b15 := none, wait := none,
                             fOwner := (if k2.fOwner = some bank15 then none else k2.fOwner),
                             dOwner := (if k2.dOwner = some bank15 then none else k2.dOwner) }
  else if k.cur = some b then Core.yieldBank { k2 with wait := none } else k2

/-- A transaction that starts again from its accepted image (R15, R31, R254). -/
def Txn.replay (t : Txn) (counted : Bool) : Txn :=
  { t with phase := .queued, run := t.run + 1, counted := (if counted then t.counted + 1 else t.counted),
           replays := min 15 (t.replays + 1), remCyc := t.pd.cycles, remPke := t.pd.pkeNs, remSym := t.pd.symNs,
           nCrypt := 0, nLdg := 0, nRemote := 0, declPke := 0, declSym := 0, wlog := [], owner := .ended }

/-- A transaction that will be answered with a technical decline (R35). -/
def Txn.declined (t : Txn) (reason : Nat) : Txn :=
  { t with phase := .declined reason, run := t.run + 1, wlog := [], owner := .ended }

/-- The outcome of a run's end: a counted replay only below REPLAY_MAX (R254). -/
def Txn.finishRun (t : Txn) (e : RunEnd) (replayMax : Nat) : Txn :=
  match e with
  | .faultReplay => t.replay false
  | .countedReplay => if t.counted < replayMax then t.replay true else t.declined 0x14
  | .decline r => t.declined r

/-- Counts what the end of a run counts: declines by reason and counted replays. -/
def countEnd (s : State) (t' : Txn) (e : RunEnd) : State :=
  match t'.phase, e with
  | .declined r, _ => if 0x10 ≤ r ∧ r ≤ 0x16 then s.bump (Off.ADM_DECLINE_CNT (r - 0x10)) else s
  | _, .countedReplay => s.bump Off.LDG_REPLAY_CNT
  | _, _ => s

/-- The nodes that a run's end must tell (R321): those that its write log names and those that hold an unanswered LOP of it. -/
def runNodes (s : State) (t : Txn) : List Nat :=
  let self := t.an / 2 ^ 54
  let l := (t.wlog.map fun e => e.node) ++ s.ldg.reqs.filterMap fun r =>
    if r.an = t.an ∧ r.run = t.run then r.remote.map fun p => p.1 else none
  (l.filter fun n => n != self).eraseDups

/-- TAG of a run (R308): tile, core and bank of its context and its run, with request number 0. -/
def runTag (t : Txn) : Nat :=
  (match t.where_ with
   | some (c, b) => c.val / 4 + c.val % 4 * 2 ^ 5 + b.val * 2 ^ 7
   | none => t.tile.val) + t.run % 16 * 2 ^ 11

/-- The cycles that the caller reports for a run (R31, R93): what its CYCLES leave. -/
def Txn.reported (t : Txn) (mcycles : Nat) : Txn := { t with remCyc := t.pd.cycles - mcycles / 1000 }

/-- The caller reports the cycles that the run of a bank has consumed so far (R31, R93). -/
def reportCycles (s : State) (c : CoreId) (b : BankId) : State :=
  match (s.bank c b).ctx with
  | none => s
  | some x => s.modTxn x.an fun t => t.reported x.mcycles

/-- Ends the current run of a transaction whatever its owner flag: the flag becomes ENDED, its locks will be released
(R246, RUN_END_RELEASE), its cycles are reported (R31), the bank is freed and the transaction replays or is declined. -/
def endRun (s : State) (an : Nat) (e : RunEnd) : State :=
  match s.txn? an with
  | none => s
  | some t =>
    let t0 := match t.where_ with
      | some (c, b) => (match (s.bank c b).ctx with | some x => t.reported x.mcycles | none => t)
      | none => t
    let t' := t0.finishRun e (s.getF Fld.LDG_CTRL_REPLAY_MAX)
    let s1 := match t.where_ with
      | some (c, b) => s.modCore c fun k => k.freeBank b
      | none => s
    let s2 := s1.modTxn an fun _ => t'
    let er : EndedRun := { an := an, run := t.run, deadline := t.deadline, tag := runTag t, nodes := runNodes s t }
    let s3 := { s2 with ldg := { s2.ldg with ended := s2.ldg.ended ++ [er] } }
    (countEnd s3 t' e).countOutstanding

/-- An event that ends the run if it finds OWNED at the owner flag (R90, R245, R400), for a stated run only: an event
of an earlier run is discarded (R86). -/
def endIfOwned (s : State) (an run : Nat) (e : RunEnd) : State :=
  match s.txn? an with
  | some t => if t.owner = .owned ∧ t.run = run then endRun s an e else s
  | none => s

/-- Makes a blocked context runnable and lets an idle core take it (R86). -/
def wake (s : State) (c : CoreId) (b : BankId) : State :=
  s.modCore c fun k =>
    Core.select (k.modBank b fun v => { v with ctx := v.ctx.map fun x => { x with block := none } })

/-- The island index of the tile of a core, and the core's unit number, for the error log. -/
def coreUnit (c : CoreId) : Nat × Nat := ((tileOf c).val, coreInTile c)

/-- Quarantine of the context of a bank (R102): logged with CLASS 0x12 and declined. -/
def quarantine (s : State) (c : CoreId) (b : BankId) (cause reason : Nat) : State :=
  match (s.bank c b).ctx with
  | none => s
  | some x =>
    let s1 := s.report { island := (coreUnit c).1, unit := (coreUnit c).2, cls := .quarantine, severity := 5,
                         code := cause, bank := b.val, an := x.an }
    endRun s1 x.an (.decline reason)

end Sys2Proof.Machine
end

