-- ==== Sys2Proof/Machine/Jobs.lean ====
section
/-! DEFINITION. The key store (R274, R275), the job descriptor and its checks (R260, R261), costs (R263, R264), the key
checks at a job's start (R272), and what each job kind computes (R263, R270, R271). -/

namespace Sys2Proof.Machine

/-! ## The key store -/

/-- TYPE of a slot header. -/
def KeySlot.type (k : KeySlot) : Nat := bitsOf k.header 56 5
/-- KEY of a slot header. -/
def KeySlot.skey (k : KeySlot) : Nat := bitsOf k.header 52 4
/-- USAGE bit `i` of a slot header. -/
def KeySlot.usage (k : KeySlot) (i : Nat) : Bool := bitAt k.header (32 + i)
/-- EXPORT of a slot header. -/
def KeySlot.export_ (k : KeySlot) : Bool := bitAt k.header 62

/-- Whether a key lies in a slot of a space. -/
def KeySlot.at_ (k : KeySlot) (space slot : Nat) : Bool := k.space == space && k.slot == slot

/-- A loaded slot, zeroisation or not (R274): of the general space; or of a traffic space, from its wrapped copy under the
wrapping key in force. -/
def slotOf (s : State) (space slot : Nat) : Option KeySlot :=
  if space = 0 then s.cry.keys.find? fun k => k.at_ 0 slot
  else (s.cry.wrapped.find? fun w => w.gen == s.cry.wrapGen && w.key.at_ space slot).map fun w => w.key

/-- The key that a read of a slot finds (R272, R274, R278): none while a zeroisation is under way; a traffic key from NET's
cache, else unwrapped. -/
def State.keyOf (s : State) (space slot : Nat) : Option KeySlot :=
  if s.cry.zeroing then none
  else match (if space = 0 then none else s.cry.cache.find? fun k => k.at_ space slot) with
    | some k => some k
    | none => slotOf s space slot

/-- RSA material: modulus bytes, exponent, and where the CRT values begin (log 26). -/
def rsaParts (mat : List Byte) : Nat × Nat × Nat :=
  let k := fldBe mat 0 2
  let el := fldBe mat 2 2
  (k, fldBe mat (4 + k) el, 4 + k + el)

/-- The modulus of RSA material. -/
def rsaModulus (mat : List Byte) : Nat := fldBe mat 4 (fldBe mat 0 2)

/-- Modulus length in bits of an RSA slot, 0 for any other. -/
def KeySlot.modLen (k : KeySlot) : Nat := if k.type = 13 ∨ k.type = 14 then 8 * (rsaParts k.mat).1 else 0

/-! ## Descriptors -/

/-- The fields of a job descriptor that CRYPT reads (R260). -/
structure Desc where
  op : Nat
  param : Nat
  key1 : Nat
  key2 : Nat
  inp : Nat
  inLen : Nat
  outLen : Nat
  out : Nat
  aux : Nat
  auxLen : Nat
  mlen : Nat
  reserved : Nat
  deriving DecidableEq, Repr

/-- Reads a descriptor (R260). -/
def readDesc (bs : List Byte) : Desc :=
  { op := fld bs 0 1, param := fld bs 1 1, key1 := fld bs 2 2, key2 := fld bs 4 2, inp := fld bs 8 8,
    inLen := fld bs 0x10 4, outLen := fld bs 0x14 4, out := fld bs 0x18 8, aux := fld bs 0x20 8,
    auxLen := fld bs 0x28 2, mlen := fld bs 0x2A 2, reserved := fld bs 0x30 16 }

/-- Engine kind of a job kind: PKE from 0x30 on (R263). -/
def opEngine (op : Nat) : EngineKind := if 0x30 ≤ op then .pke else .sym

/-- Whether a job kind is listed. -/
def opListed (op : Nat) : Bool :=
  [0x01, 0x02, 0x03, 0x04, 0x08, 0x09, 0x10, 0x11, 0x12, 0x13, 0x14, 0x15, 0x18, 0x19, 0x1A, 0x1B, 0x20, 0x28, 0x29,
   0x2F, 0x30, 0x31, 0x32, 0x33, 0x34, 0x35].contains op

/-- Job kinds that name a key. -/
def opKeyed (op : Nat) : Bool := !([0x01, 0x02, 0x03, 0x04, 0x2F].contains op)

/-- The two halves of an ECDSA signature together: 96 bytes for a P-384 key, else 64 (R261). -/
def sigLen (t : Nat) : Nat := if t = 9 ∨ t = 10 then 96 else 64

/-- The block of a CBC job: 8 for a TDES key, else 16 (R261). -/
def cbcBlock (t : Nat) : Nat := if t = 4 ∨ t = 5 then 8 else 16

/-- Digest length of an HMAC job's PARAM. -/
def hmacLen (param : Nat) : Nat := match param with | 0 => 32 | 1 => 48 | _ => 64

/-- PIN block bytes of a format (R270). -/
def pinLen (fmt : Nat) : Nat := if fmt = 4 then 16 else 8

/-- The limits of a job kind (R263): IN lengths, AUX lengths, output bytes, MLEN, PARAM. `t` is the key's TYPE and `m` the
modulus length that CRYPT takes (R261). -/
structure OpLimit where
  inOk : Bool
  auxOk : Bool
  outNeed : Nat
  mlenOk : Bool
  paramOk : Bool
  deriving DecidableEq, Repr

/-- A MAC job: input up to 128 KiB; AUX holds the expected value of a verification. -/
def macLimit (d : Desc) (verify : Bool) (hi : Nat) (paramOk : Bool) : OpLimit :=
  { inOk := d.inLen ≤ 131072, auxOk := d.auxLen == if verify then d.mlen else 0,
    outNeed := if verify then 0 else d.mlen, mlenOk := 4 ≤ d.mlen ∧ d.mlen ≤ hi, paramOk := paramOk }

/-- The limits of R263 for a descriptor. -/
def opLimit (d : Desc) (t m : Nat) : OpLimit :=
  let hash (n : Nat) : OpLimit :=
    { inOk := d.inLen ≤ 131072, auxOk := d.auxLen == 0, outNeed := n, mlenOk := d.mlen == 0, paramOk := d.param == 0 }
  let pad := d.param == 1 || d.param == 2
  let sig (lo hi aux out : Nat) : OpLimit :=
    { inOk := lo ≤ d.inLen ∧ d.inLen ≤ hi, auxOk := d.auxLen == aux, outNeed := out, mlenOk := d.mlen == 0,
      paramOk := d.param == 0 }
  match d.op with
  | 0x01 => hash 32
  | 0x02 => hash 48
  | 0x03 => hash 64
  | 0x04 => hash 32
  | 0x08 => macLimit d false (hmacLen d.param) (d.param ≤ 2)
  | 0x09 => macLimit d true (hmacLen d.param) (d.param ≤ 2)
  | 0x10 => macLimit d false 16 (d.param == 0)
  | 0x11 => macLimit d true 16 (d.param == 0)
  | 0x12 => macLimit d false 16 pad
  | 0x13 => macLimit d true 16 pad
  | 0x14 => macLimit d false 8 pad
  | 0x15 => macLimit d true 8 pad
  | 0x18 => { inOk := d.inLen ≤ 65536, auxOk := 12 ≤ d.auxLen ∧ d.auxLen ≤ 4096, outNeed := d.inLen + 16,
              mlenOk := d.mlen == 0, paramOk := d.param == 0 }
  | 0x19 => { inOk := d.inLen ≤ 65536, auxOk := 12 ≤ d.auxLen ∧ d.auxLen ≤ 4096, outNeed := d.inLen - 16,
              mlenOk := d.mlen == 0, paramOk := d.param == 0 }
  | 0x1A => { sig 0 65536 (cbcBlock t) d.inLen with inOk := d.inLen ≤ 65536 ∧ d.inLen % cbcBlock t = 0 }
  | 0x1B => { sig 0 65536 (cbcBlock t) d.inLen with inOk := d.inLen ≤ 65536 ∧ d.inLen % cbcBlock t = 0 }
  | 0x20 =>
    let ok (f : Nat) : Bool := f == 0 || f == 1 || f == 3 || f == 4
    { inOk := d.inLen == pinLen (d.param % 16), auxOk := d.auxLen == 32, outNeed := pinLen (d.param / 16),
      mlenOk := d.mlen == 0, paramOk := ok (d.param % 16) && ok (d.param / 16) }
  | 0x28 => sig 1 256 32 0
  | 0x29 => { inOk := d.inLen == 0, auxOk := if d.param = 1 then d.auxLen == 36 else decide (36 ≤ d.auxLen ∧ d.auxLen ≤ 44),
              outNeed := if d.mlen = 0 then 8 else d.mlen, mlenOk := d.mlen = 0 ∨ (4 ≤ d.mlen ∧ d.mlen ≤ 8), paramOk := pad }
  | 0x2F => { sig 0 0 0 d.outLen with mlenOk := d.mlen = 0 ∧ 1 ≤ d.outLen ∧ d.outLen ≤ 256 }
  | 0x30 => sig 32 64 (sigLen t) 0
  | 0x31 => sig 32 64 0 (sigLen t)
  | 0x32 => sig 0 65536 64 0
  | 0x33 => sig 0 65536 0 64
  | _ => { sig (m / 8) (m / 8) 0 (m / 8) with paramOk := d.param = 0 ∧ 1024 ≤ m ∧ m ≤ 4096 ∧ m % 64 = 0 }

/-- Step 3 of R261. -/
def descOk (d : Desc) (t m : Nat) : Bool :=
  let l := opLimit d t m
  let noIn := d.op == 0x29 || d.op == 0x2F
  opListed d.op && d.reserved == 0 && l.inOk && l.auxOk && l.mlenOk && l.paramOk &&
    (opKeyed d.op || d.key1 == 0) && (d.op == 0x20 || d.key2 == 0) &&
    (!noIn || d.inp == 0) && (d.auxLen != 0 || d.aux == 0) &&
    (if l.outNeed = 0 ∧ !(d.op == 0x19 || d.op == 0x1A || d.op == 0x1B) then d.out == 0 && d.outLen == 0
     else decide (l.outNeed ≤ d.outLen))

/-! ## Cost -/

/-- H(x) of R263. -/
def costH (x : Nat) : Nat := 100 + 40 * ceilDiv (x + 9) 64

/-- The cost of a SHA-384 or SHA-512 job on x bytes. -/
def costH2 (x : Nat) : Nat := 100 + 50 * ceilDiv (x + 17) 128

/-- P(m) of R263 for a public exponent. -/
def costP (m e : Nat) : Nat := 200 + (numBits e + popCount e) * 40 * (ceilDiv m 1024) ^ 2

/-- COST of a job (R263); `t` is the key's TYPE, `m` the modulus length, `e` the public exponent. -/
def costOf (d : Desc) (t m e : Nat) : Nat :=
  let n := d.inLen
  match d.op with
  | 0x01 => costH n
  | 0x02 => costH2 n
  | 0x03 => costH2 n
  | 0x04 => 100 + 30 * ceilDiv (n + 1) 136
  | 0x08 => if d.param = 0 then costH (n + 64) + 80 else costH2 (n + 128) + 100
  | 0x09 => if d.param = 0 then costH (n + 64) + 80 else costH2 (n + 128) + 100
  | 0x10 => 150 + 2 * ceilDiv n 16
  | 0x11 => 150 + 2 * ceilDiv n 16
  | 0x12 => 150 + 2 * ceilDiv n 16
  | 0x13 => 150 + 2 * ceilDiv n 16
  | 0x14 => 150 + 6 * ceilDiv n 8
  | 0x15 => 150 + 6 * ceilDiv n 8
  | 0x18 => 200 + 2 * ceilDiv (n + d.auxLen) 16
  | 0x19 => 200 + 2 * ceilDiv (n + d.auxLen) 16
  | 0x1A => if cbcBlock t = 8 then 150 + 6 * ceilDiv n 8 else 150 + 2 * ceilDiv n 16
  | 0x1B => if cbcBlock t = 8 then 150 + 6 * ceilDiv n 8 else 150 + 2 * ceilDiv n 16
  | 0x20 => 400 + (if t = 15 then 1600 else if t = 16 then 800 else 0)
  | 0x28 => 500
  | 0x29 => 400
  | 0x2F => 200 + 2 * ceilDiv d.outLen 16
  | 0x30 => if sigLen t = 96 then 60000 else 25000
  | 0x31 => if sigLen t = 96 then 84000 else 35000
  | 0x32 => 20000 + 50 * ceilDiv (n + 81) 128
  | 0x33 => 29000 + 150 * ceilDiv (n + 81) 128
  | 0x34 => costP m e
  | _ => 11 * (ceilDiv m 64) ^ 3 + costP m e

/-! ## Key checks -/

/-- TYPEs that suit KEY1 of a job kind (R263). -/
def typesOf (op : Nat) : List Nat :=
  match op with
  | 0x08 => [6] | 0x09 => [6]
  | 0x10 => [1, 2, 3] | 0x11 => [1, 2, 3] | 0x12 => [1, 2, 3] | 0x13 => [1, 2, 3]
  | 0x14 => [4, 5] | 0x15 => [4, 5]
  | 0x18 => [1, 2, 3] | 0x19 => [1, 2, 3]
  | 0x1A => [1, 2, 3, 4, 5] | 0x1B => [1, 2, 3, 4, 5]
  | 0x20 => [1, 2, 3, 4, 5, 15, 16]
  | 0x28 => [1, 2, 3, 4, 5] | 0x29 => [1, 2, 3, 4, 5]
  | 0x30 => [7, 8, 9, 10] | 0x31 => [8, 10]
  | 0x32 => [11, 12] | 0x33 => [12]
  | 0x34 => [13, 14] | 0x35 => [14]
  | _ => []

/-- Usage bits any of which a job kind needs of KEY1 (R263, R270). -/
def usageOf (op typ : Nat) : List Nat :=
  match op with
  | 0x08 => [0] | 0x09 => [1] | 0x10 => [0] | 0x11 => [1] | 0x12 => [0] | 0x13 => [1] | 0x14 => [0] | 0x15 => [1]
  | 0x18 => [2] | 0x19 => [3] | 0x1A => [2] | 0x1B => [3]
  | 0x20 => if typ = 15 ∨ typ = 16 then [6] else [4]
  | 0x28 => [7] | 0x29 => [7]
  | 0x30 => [9] | 0x31 => [8] | 0x32 => [9] | 0x33 => [8]
  | 0x34 => [9, 2] | 0x35 => [8, 3]
  | _ => []

/-- KEY1 or KEY2 suits a PIN format: TDES for 0, 1 and 3, AES for 4 (R270). -/
def pinType (fmt t : Nat) (input : Bool) : Bool :=
  if fmt = 4 then t == 1 || t == 2 || t == 3 || (input && t == 16) else t == 4 || t == 5 || (input && t == 15)

/-- The check of one key at a job's start (R272): the status that refuses it, if any. -/
def keyStatus (k : Option KeySlot) (types usages : List Nat) (issued : Option (Nat × Nat)) (ctxKey : Nat) : Option Nat :=
  match k with
  | none => some 0x04
  | some x =>
    if !types.contains x.type then some 0x05
    else if (match issued with | some p => x.type != p.1 || x.modLen != p.2 | none => false) then some 0x05
    else if !(usages.any fun u => x.usage u) ∨ x.usage 12 then some 0x05
    else if ctxKey ≠ 0 ∧ ctxKey ≠ x.skey then some 0x05
    else none

/-! ## The operations -/

/-- The cipher of an AES or TDES slot. -/
def KeySlot.cipher (k : KeySlot) : Keyed := if k.type = 4 ∨ k.type = 5 then .tdes k.mat else aesKeyed k.mat

/-- The EC curve of a slot. -/
def KeySlot.curve (k : KeySlot) : Curve := if k.type = 9 ∨ k.type = 10 then p384 else p256

/-- The public point of an EC slot: a private slot holds its public key after the scalar (R274). -/
def KeySlot.point (k : KeySlot) : List Byte :=
  if k.type = 8 ∨ k.type = 10 then k.mat.drop k.curve.bytes else k.mat

/-- The Ed25519 public key of a slot. -/
def KeySlot.edKey (k : KeySlot) : List Byte := if k.type = 12 then k.mat.drop 32 else k.mat

/-- What a job's computation gives: a status and output bytes. -/
structure JobRes where
  status : Nat
  out : List Byte
  deriving DecidableEq, Repr

/-- Done, with output. -/
def jobOk (out : List Byte) : JobRes := { status := 0x01, out := out }

/-- A verification: the leftmost MLEN bytes against AUX. -/
def jobVerify (good : Bool) : JobRes := { status := if good then 0x01 else 0x02, out := [] }

/-- A MAC job: generates MLEN bytes or compares them with AUX. -/
def jobMac (verify : Bool) (mlen : Nat) (mac aux : List Byte) : JobRes :=
  if verify then jobVerify (mac.take mlen == aux) else jobOk (mac.take mlen)

/-- The PAN digits of AUX; none unless 12 to 19 decimal digits with zero bytes after (R271). -/
def auxPan (aux : List Byte) : Option (List Nat) :=
  let n := fld aux 0 1
  let ds := ((aux.drop 1).take n).map fun b => b.toNat - 0x30
  if 12 ≤ n ∧ n ≤ 19 ∧ (((aux.drop 1).take n).all fun b => decide (0x30 ≤ b.toNat ∧ b.toNat ≤ 0x39)) then some ds
  else none

/-- One-bits of a DUKPT counter within their limit, and the counter not zero (R271). -/
def ctrOk (ctr lim : Nat) : Bool := ctr != 0 && decide (popCount ctr ≤ lim)

/-- PIN_XLATE (R270, R271). -/
def pinXlate (param : Nat) (k1 k2 : KeySlot) (inp aux rnd : List Byte) : JobRes :=
  let fi := param % 16
  let fo := param / 16
  let bad : JobRes := { status := 0x03, out := [] }
  let ksn := (aux.drop 0x14).take 12
  let panOk := fi = 1 ∧ fo = 1
  match (if panOk then some [] else auxPan aux) with
  | none => bad
  | some pan =>
    let c? : Option Keyed :=
      if k1.type = 15 then (if ctrOk (ksnCounter (ksn.take 10)) 10 then some (.tdes (dukptTdes k1.mat (ksn.take 10))) else none)
      else if k1.type = 16 then (if ctrOk (fldBe ksn 8 4) 16 then some (aesKeyed (dukptAes k1.mat ksn)) else none)
      else some k1.cipher
    match c? with
    | none => bad
    | some c =>
      if fo = 1 ∧ fi ≠ 1 then bad
      else match pinDecrypt fi c pan inp with
        | none => bad
        | some pin => jobOk (pinEncrypt fo k2.cipher pan pin rnd)

/-- The card session key of an ARQC or ARPC job. -/
def cardKey (k : KeySlot) (pan : List Nat) (aux : List Byte) : Bool × List Byte :=
  let tdes := k.type = 4 ∨ k.type = 5
  let imk := if k.type = 5 then k.mat.take 24 else k.mat
  (tdes, cardSession tdes (cardMaster tdes imk pan (fld aux 0x14 1)) ((aux.drop 0x16).take 2))

/-- ARQC verify (R271). -/
def arqcVerify (k : KeySlot) (inp aux : List Byte) : JobRes :=
  match auxPan aux with
  | none => { status := 0x03, out := [] }
  | some pan =>
    let (tdes, sk) := cardKey k pan aux
    jobVerify (cardMac tdes sk inp == (aux.drop 0x18).take 8)

/-- ARPC generate (R271). -/
def arpcGen (k : KeySlot) (param mlen : Nat) (aux : List Byte) : JobRes :=
  match auxPan aux with
  | none => { status := 0x03, out := [] }
  | some pan =>
    let (tdes, sk) := cardKey k pan aux
    let arqc := (aux.drop 0x18).take 8
    let v := if param = 1 then arpc1 tdes sk arqc ((aux.drop 0x20).take 2)
      else arpc2 tdes sk arqc ((aux.drop 0x20).take 4) (aux.drop 0x24)
    jobOk (v.take (if mlen = 0 then 8 else mlen))

/-- The hash of an HMAC job's PARAM. -/
def hmacOf (param : Nat) (key m : List Byte) : List Byte :=
  match param with | 0 => hmac256 key m | 1 => hmac384 key m | _ => hmac512 key m

/-- RSA jobs: an input not below the modulus is BAD_INPUT (R262). -/
def rsaJob (priv : Bool) (k : KeySlot) (inp : List Byte) : JobRes :=
  let (kb, e, off) := rsaParts k.mat
  let n := rsaModulus k.mat
  let h := kb / 2
  let v (i : Nat) : Nat := fldBe k.mat (off + h * i) h
  if n ≤ beNat inp then { status := 0x03, out := [] }
  else jobOk (if priv then rsaPrivate (v 0) (v 1) (v 2) (v 3) (v 4) inp else rsaPublic n e inp)

/-- What a job computes from its keys and data; `rnd` is what it draws from the DRBG (R263). -/
def jobCompute (op param mlen outCap : Nat) (k1 k2 : KeySlot) (inp aux rnd : List Byte) : JobRes :=
  match op with
  | 0x01 => jobOk (sha256 inp)
  | 0x02 => jobOk (sha384 inp)
  | 0x03 => jobOk (sha512 inp)
  | 0x04 => jobOk (sha3_256 inp)
  | 0x08 => jobMac false mlen (hmacOf param k1.mat inp) aux
  | 0x09 => jobMac true mlen (hmacOf param k1.mat inp) aux
  | 0x10 => jobMac false mlen (cmac k1.cipher inp) aux
  | 0x11 => jobMac true mlen (cmac k1.cipher inp) aux
  | 0x12 => jobMac false mlen (cbcLast k1.cipher (isoPad 16 param inp)) aux
  | 0x13 => jobMac true mlen (cbcLast k1.cipher (isoPad 16 param inp)) aux
  | 0x14 => jobMac false mlen (retailMac k1.mat param inp) aux
  | 0x15 => jobMac true mlen (retailMac k1.mat param inp) aux
  | 0x18 => jobOk (gcmSeal k1.cipher (aux.take 12) (aux.drop 12) inp)
  | 0x19 => match gcmOpen k1.cipher (aux.take 12) (aux.drop 12) inp with
    | some pt => jobOk pt
    | none => { status := 0x03, out := [] }
  | 0x1A => jobOk (cbcEnc k1.cipher aux inp)
  | 0x1B => jobOk (cbcDec k1.cipher aux inp)
  | 0x20 => pinXlate param k1 k2 inp aux rnd
  | 0x28 => arqcVerify k1 inp aux
  | 0x29 => arpcGen k1 param mlen aux
  | 0x2F => jobOk (rnd.take outCap)
  | 0x30 => jobVerify (ecdsaVerify k1.curve k1.point inp aux)
  | 0x31 => jobOk (ecdsaSign k1.curve (beNat (k1.mat.take k1.curve.bytes)) inp)
  | 0x32 => jobVerify (edVerify k1.edKey inp aux)
  | 0x33 => jobOk (edSign (k1.mat.take 32) inp)
  | 0x34 => rsaJob false k1 inp
  | _ => rsaJob true k1 inp

/-- Random bytes that a job draws. -/
def jobRandom (op outCap : Nat) : Nat := if op = 0x2F then outCap else if op = 0x20 then 32 else 0

end Sys2Proof.Machine
end

