-- ==== Sys2Proof/Machine/L1.lean ====
section
/-! DEFINITION. The L1 of a core (R107, R114, R122): which lines it holds, in which way, with which permission, and the single
port. The bytes of a line are those of memory, because R122 keeps every copy coherent (log 9). -/

namespace Sys2Proof.Machine

/-- Ways of an L1 set (R107). -/
def l1Ways : Nat := 8
/-- Sets of an L1 (R107). -/
def l1Sets : Nat := 128

/-- Normal memory that an L1 can hold (R122): HBM, tile stores, and host memory over CXL. -/
def cacheable (s : State) (pa : Nat) : Bool :=
  match targetOf pa with
  | .hbm _ => true
  | .tile _ _ => true
  | .host _ => s.getF Fld.HIF_STATUS_MODE != 1
  | _ => false

/-- The lines that the `n` bytes at an address touch. -/
def linesOf (pa n : Nat) : List Nat := (List.range ((pa + n + 63) / 64 - pa / 64)).map fun i => pa / 64 + i

/-- Whether a line of `e` lies in the set of line `n` of core `c`. -/
def L1Line.sharesSet (e : L1Line) (c : CoreId) (n : Nat) : Bool := e.core == c && e.line % l1Sets == n % l1Sets

/-- The way that a fill takes: a free way of the set, or one whose line is written back and gives way. R107 names no
replacement rule, so that way is a free value (log 7). -/
def l1Room (s : State) (c : CoreId) (n : Nat) : Nat × State :=
  let set := s.l1.filter fun e => e.sharesSet c n
  match (List.range l1Ways).find? fun w => set.all fun e => e.way != w with
  | some w => (w, s)
  | none =>
    let w := Config.openValue s.freeCtr % l1Ways
    (w, { s with l1 := s.l1.filter fun e => !(e.sharesSet c n && e.way == w), freeCtr := s.freeCtr + 1 })

/-- What an access of core `c` to line `n` does to the other cores' copies: a write invalidates them, a read takes their
write permission, and what they had written is written back (R114, R122). -/
def l1Others (l : List L1Line) (c : CoreId) (n : Nat) (wr : Bool) : List L1Line :=
  if wr then l.filter fun e => e.core == c || e.line != n
  else l.map fun e => if e.core != c && e.line == n then { e with write := false, dirty := false } else e

/-- An access of core `c` to a line: the line is obtained, with write permission for a write (R107, R114). -/
def l1Line (s : State) (c : CoreId) (wr : Bool) (n : Nat) : State :=
  let l := l1Others s.l1 c n wr
  if l.any fun e => e.core == c && e.line == n then
    { s with l1 := l.map fun e =>
        if e.core == c && e.line == n then { e with write := e.write || wr, dirty := e.dirty || wr } else e }
  else
    let r := l1Room { s with l1 := l } c n
    { r.2 with l1 := r.2.l1 ++ [{ core := c, line := n, way := r.1, write := wr, dirty := wr }] }

/-- An access of core `c` to the `n` bytes of normal memory at an address. -/
def l1Access (s : State) (c : CoreId) (wr : Bool) (pa n : Nat) : State :=
  if cacheable s pa then (linesOf pa n).foldl (fun s l => l1Line s c wr l) s else s

/-- An access of the data side, which has the port in this cycle (R107). -/
def l1Data (s : State) (c : CoreId) (wr : Bool) (pa n : Nat) : State :=
  (l1Access s c wr pa n).modCore c fun k => { k with port := true }

/-- The L1 of a core is emptied; what it had written is in memory. -/
def l1Empty (s : State) (c : CoreId) : State := { s with l1 := s.l1.filter fun e => e.core != c }

end Sys2Proof.Machine
end

