-- ==== Sys2Proof/Machine/Operands.lean ====
section
/-! DEFINITION. Register operands of an instruction: general registers through windows and views (R80, R81, R178),
F and DA registers (R84, R135), the fields of CTL.STATUS (R94) and the other control registers, and pending CTL
writes (R124). -/

namespace Sys2Proof.Machine

/-! ## Fields of control words -/

/-- A field of a 64-bit control word. -/
def Bits.get (w : Word) (lo n : Nat) : Nat := bitsOf w.toNat lo n

/-- A control word with a field replaced. -/
def Bits.put (w : Word) (lo n v : Nat) : Word := BitVec.ofNat 64 (putBits w.toNat lo n v)

/-- Sign extension of a 64-bit word from bit `n - 1`. -/
def sextFrom (n : Nat) (w : Word) : Word := (w.setWidth n).signExtend 64

/-- STATUS.XLATE. -/
def Bank.xlate (b : Bank) : Bool := b.status.getLsbD 0
/-- STATUS.USER. -/
def Bank.user (b : Bank) : Bool := b.status.getLsbD 1
/-- STATUS.TL, the trap level. -/
def Bank.tl (b : Bank) : Nat := Bits.get b.status 8 3
/-- STATUS.CC. -/
def Bank.cc (b : Bank) : Nat := Bits.get b.status 18 2
/-- STATUS.KEY. -/
def Bank.key (b : Bank) : Nat := Bits.get b.status 20 4
/-- STATUS.PART. -/
def Bank.part (b : Bank) : Bool := b.status.getLsbD 47
/-- STATUS.PROG. -/
def Bank.prog (b : Bank) : Nat := Bits.get b.status 48 16
/-- Sets STATUS.CC. -/
def Bank.setCC (b : Bank) (v : Nat) : Bank := { b with status := Bits.put b.status 18 2 v }
/-- Sets STATUS.PART and PROG. -/
def Bank.setProgress (b : Bank) (part : Bool) (prog : Nat) : Bank :=
  { b with status := Bits.put (Bits.put b.status 47 1 (b2n part)) 48 16 prog }
/-- The access class of the bank's accesses (R200). -/
def Bank.initiator (b : Bank) : Initiator := if b.user then .user else .supervisor

/-- The condition code as seen by an instruction of bank `b` of core `c`. -/
def State.cc (s : State) (c : CoreId) (b : BankId) : Nat := (s.bank c b).cc
/-- Writes the condition code. -/
def State.setCC (s : State) (c : CoreId) (b : BankId) (v : Nat) : State := s.modBank c b fun x => x.setCC v

/-! ## General registers -/

/-- The upper window in use: W(TL mod 2) (R80). -/
def Bank.window (b : Bank) : Bool := b.tl % 2 == 1

/-- Register `i` of a sixteen-register set of a bank: window W1 or W0. -/
def Bank.getWin (b : Bank) (w1 : Bool) (i : Fin 16) : Word := if w1 then b.w1[i] else b.w0[i]

/-- Writes a register of a window. -/
def Bank.setWin (b : Bank) (w1 : Bool) (i : Fin 16) (v : Word) : Bank :=
  if w1 then { b with w1 := b.w1.set i v } else { b with w0 := b.w0.set i v }

/-- Index of a register within its half. -/
def halfIndex (r : Reg) : Fin 16 := ⟨r.val % 16, Nat.mod_lt _ (by decide)⟩

/-- A general register as bank `b` names it: G0 reads as zero; G16 to G31 denote the window in use, or what
CTL.BWR.VIEW selects (R80, R81, R178). -/
def Core.readG (k : Core) (b : BankId) (r : Reg) : Word :=
  if r = 0 then 0
  else if r.val < 16 then (k.bank b).lo[halfIndex r]
  else
    let v := Bits.get (k.bank b).bwr 8 2
    let vb : BankId := ⟨Bits.get (k.bank b).bwr 16 4, Nat.mod_lt _ (by decide)⟩
    if v = 1 then (if halfIndex r = 0 then 0 else (k.bank vb).lo[halfIndex r])
    else if v = 2 then (k.bank vb).getWin ((k.bank b).bwr.getLsbD 12) (halfIndex r)
    else (k.bank b).getWin (k.bank b).window (halfIndex r)

/-- Writes a general register; a write to G0 is discarded (R178). -/
def Core.writeG (k : Core) (b : BankId) (r : Reg) (x : Word) : Core :=
  if r = 0 then k
  else if r.val < 16 then k.modBank b fun y => { y with lo := y.lo.set (halfIndex r) x }
  else
    let v := Bits.get (k.bank b).bwr 8 2
    let vb : BankId := ⟨Bits.get (k.bank b).bwr 16 4, Nat.mod_lt _ (by decide)⟩
    if v = 1 then (if halfIndex r = 0 then k else k.modBank vb fun y => { y with lo := y.lo.set (halfIndex r) x })
    else if v = 2 then k.modBank vb fun y => y.setWin ((k.bank b).bwr.getLsbD 12) (halfIndex r) x
    else k.modBank b fun y => y.setWin y.window (halfIndex r) x

/-- A general register of the context in bank `b` of core `c`. -/
def State.g (s : State) (c : CoreId) (b : BankId) (r : Reg) : Word := (s.core c).readG b r

/-- Writes a general register. -/
def State.setG (s : State) (c : CoreId) (b : BankId) (r : Reg) (v : Word) : State :=
  s.modCore c fun k => k.writeG b r v

/-- The register after `r`, numbers taken modulo 32 (R148). -/
def Reg.succ (r : Reg) : Reg := ⟨(r.val + 1) % 32, Nat.mod_lt _ (by decide)⟩

/-- Register number `n` modulo 32. -/
def regOf (n : Nat) : Reg := ⟨n % 32, Nat.mod_lt _ (by decide)⟩

/-! ## F and DA registers -/

/-- An F register. -/
def State.f (s : State) (c : CoreId) (r : Reg) : Word := (s.core c).f[r]

/-- Writes an F register. -/
def State.setFr (s : State) (c : CoreId) (r : Reg) (v : Word) : State :=
  s.modCore c fun k => { k with f := k.f.set r v }

/-- A decimal accumulator as its 32 bytes in memory order (R82, R135). -/
def State.da (s : State) (c : CoreId) (n : Fin 8) : List Byte := leBytes 32 ((s.core c).da[n]).toNat

/-- Writes a decimal accumulator. -/
def State.setDa (s : State) (c : CoreId) (n : Fin 8) (bs : List Byte) : State :=
  s.modCore c fun k => { k with da := k.da.set n (BitVec.ofNat 256 (leNat bs)) }

/-- The accumulator value +0: 31 zero bytes and 0x0C (R84). -/
def daZero : BitVec 256 := BitVec.ofNat 256 (0x0C <<< 248)

/-! ## Control registers -/

/-- The CTL numbers of R194. -/
inductive Ctl where
  | status | tvec | bwr | asid | tlbcfg | tlbidx | fpctl | dctl | deadline | an | epc | cause | badaddr
  deriving DecidableEq, Repr

/-- The CTL register with a number; numbers above 0x0C are not listed (R194). -/
def ctlOf : Nat → Option Ctl
  | 0 => some .status | 1 => some .tvec | 2 => some .bwr | 3 => some .asid | 4 => some .tlbcfg | 5 => some .tlbidx
  | 6 => some .fpctl | 7 => some .dctl | 8 => some .deadline | 9 => some .an | 10 => some .epc | 11 => some .cause
  | 12 => some .badaddr
  | _ => none

/-- The number of a CTL register (R194). -/
def Ctl.num : Ctl → Nat
  | .status => 0 | .tvec => 1 | .bwr => 2 | .asid => 3 | .tlbcfg => 4 | .tlbidx => 5 | .fpctl => 6 | .dctl => 7
  | .deadline => 8 | .an => 9 | .epc => 10 | .cause => 11 | .badaddr => 12

/-- The writable bits of a CTL register as a mask: reserved bits discard writes (R8). -/
def Ctl.mask : Ctl → Word
  | .status => 0xFFFF_8000_00FC_0003
  | .tvec => 0xFFFF_FFFF_FFFF_F000
  | .bwr => 0x000F_1300
  | .asid => 0xFFF
  | .tlbcfg => 0x7F
  | .tlbidx => 0x7F
  | .fpctl => 0xF803_1F7F
  | .dctl => 0x3_0703
  | .deadline => 0
  | .an => 0
  | .epc => 0xFFFF_FFFF_FFFF_FFFF
  | .cause => 0x3F
  | .badaddr => 0xFFFF_FFFF_FFFF_FFFF

/-- The value that a write stores (R81: VIEW 3 is stored as 0; R203: PINMAX above 120 as 120; EPC is sign-extended
from bit 47). -/
def Ctl.store (r : Ctl) (v : Word) : Word :=
  let m := v &&& r.mask
  match r with
  | .bwr => if Bits.get m 8 2 = 3 then Bits.put m 8 2 0 else m
  | .tlbcfg => if 120 < m.toNat then 120 else m
  | .epc => sextFrom 48 m
  | _ => m

/-- Number of valid pinned TLB entries, CTL.TLBCFG.PINNED. -/
def Core.pinned (k : Core) : Nat := k.tlb.toList.countP fun e => e.w1.getLsbD 63 && e.w1.getLsbD 49

/-- What the hardware holds in a CTL register (fields that the hardware computes included). -/
def Core.ctlNow (k : Core) (b : BankId) (r : Ctl) : Word :=
  let x := k.bank b
  match r with
  | .status => x.status
  | .tvec => k.tvec
  | .bwr => Bits.put x.bwr 0 1 (b2n x.window)
  | .asid => x.asid
  | .tlbcfg => BitVec.ofNat 64 (127 * 2 ^ 16 + k.pinned * 2 ^ 8 + k.pinmax)
  | .tlbidx => BitVec.ofNat 64 k.hand
  | .fpctl => x.fpctl
  | .dctl => x.dctl
  | .deadline => x.deadline
  | .an => x.an
  | .epc => x.epc
  | .cause => x.cause
  | .badaddr => x.badaddr

/-- The pending value of a CTL register (R124). -/
def Bank.pending (b : Bank) (r : Ctl) : Option Word := b.pend.lookup r.num

/-- A read of a CTL register: the pending value, or the value the hardware last set (R124), its read-only fields as
the hardware holds them. -/
def Core.readCtl (k : Core) (b : BankId) (r : Ctl) : Word :=
  match (k.bank b).pending r with
  | some v => v ||| (k.ctlNow b r &&& ~~~r.mask)
  | none => k.ctlNow b r

/-- Sets a CTL register to a stored value: the writable fields take it, the others stay (R124, R157). -/
def Core.putCtl (k : Core) (b : BankId) (r : Ctl) (v : Word) : Core :=
  match r with
  | .status => k.modBank b fun x => { x with status := (x.status &&& ~~~r.mask) ||| v }
  | .tvec => { k with tvec := v }
  | .bwr => k.modBank b fun x => { x with bwr := v }
  | .asid => k.modBank b fun x => { x with asid := v }
  | .tlbcfg => { k with pinmax := v.toNat }
  | .tlbidx => { k with hand := v.toNat }
  | .fpctl => k.modBank b fun x => { x with fpctl := v }
  | .dctl => k.modBank b fun x => { x with dctl := v }
  | .deadline => k
  | .an => k
  | .epc => k.modBank b fun x => { x with epc := v }
  | .cause => k.modBank b fun x => { x with cause := v }
  | .badaddr => k.modBank b fun x => { x with badaddr := v }

/-- Records a pending CTL write (R124); AN and DEADLINE take none (R194). -/
def Core.pendCtl (k : Core) (b : BankId) (r : Ctl) (v : Word) : Core :=
  if r = .an ∨ r = .deadline then k
  else k.modBank b fun x => { x with pend := (r.num, r.store v) :: x.pend.filter fun p => p.1 != r.num }

/-- Every pending CTL write of a bank takes effect (R124: CSYNC, trap entry, TRET). -/
def Core.applyPend (k : Core) (b : BankId) : Core :=
  let k1 := (k.bank b).pend.foldl (fun k p =>
    match ctlOf p.1 with
    | some r => k.putCtl b r p.2
    | none => k) k
  k1.modBank b fun x => { x with pend := [] }

/-- Raises sticky bits in a control register and in its pending value (R157). -/
def Bank.sticky (x : Bank) (r : Ctl) (bits : Word) : Bank :=
  let x1 := if r = .fpctl then { x with fpctl := x.fpctl ||| bits }
            else if r = .dctl then { x with dctl := x.dctl ||| bits } else x
  { x1 with pend := x1.pend.map fun p => if p.1 = r.num then (p.1, p.2 ||| bits) else p }

end Sys2Proof.Machine
end

