-- ==== Sys2Proof/Machine/Units.lean ====
section
/-! DEFINITION. Units that are tested after a fault (R399, R402): how a unit leaves service, and the strikes against it. -/

namespace Sys2Proof.Machine

/-- PWR_ISL_STATUS[i].STATE. -/
def islandState (s : State) (i : Nat) : Nat := s.getF (Fld.PWR_ISL_STATUS_STATE i)

/-- Stand-in service is open and release is not complete (R358, R366, R375). -/
def standinService (s : State) : Bool := s.boot.siOpen && decide (s.getF Fld.BOOT_STATUS_PHASE < 6)

/-- The code under which a core, an engine, an XLT lane or a JNL lane is known to the collector. -/
def unitCode : TestUnit → Nat
  | .core c => c.val
  | .engine .pke e => 0x100 + e.val
  | .engine .sym e => 0x200 + e.val
  | .xltLane l => 0x300 + l.val
  | .jnlLane l => 0x400 + l

/-- Whether a unit is under self-test. -/
def State.inTest (s : State) (u : TestUnit) : Bool := s.err.testing.contains (unitCode u)

/-- A fault was absorbed: ADM_STATUS.FAULT_HOLD is set (R399; register ADM_STATUS). -/
def faultHold (s : State) : State := s.setF Fld.ADM_STATUS_FAULT_HOLD 1

/-- A unit starts its self-test, with one more strike against it (R402). -/
def startTest (s : State) (u : TestUnit) : State :=
  { s with err := { s.err with
      testing := unitCode u :: s.err.testing.filter fun x => x != unitCode u,
      strikes := (unitCode u, s.now) :: s.err.strikes } }

/-- Faults of a unit within RETIRE_S seconds (R402). -/
def strikesOf (s : State) (u : TestUnit) : Nat :=
  s.err.strikes.countP fun p =>
    p.1 == unitCode u && decide (s.now < p.2 + s.getF Fld.ERR_CFG_RETIRE_S * 1000000000)

/-- The self-test of a unit is over. -/
def endTest (s : State) (u : TestUnit) : State :=
  { s with err := { s.err with testing := s.err.testing.filter fun x => x != unitCode u } }

/-- The map of engines in service. -/
def engineMap : EngineKind → FieldRef
  | .pke => Fld.CRY_PKE_MAP_INSVC
  | .sym => Fld.CRY_SYM_MAP_INSVC

/-- Whether an engine is in service (R28, R402). -/
def engineInService (s : State) (k : EngineKind) (e : Fin 48) : Bool := bitAt (s.getF (engineMap k)) e.val

/-- Whether an engine takes jobs: in service, in a cluster that runs (R28, R387; log 50). -/
def engineTakes (s : State) (k : EngineKind) (e : Fin 48) : Bool :=
  engineInService s k e && islandState s (24 + e.val / 8) == 2

/-- Whether an engine runs a job. -/
def engineBusy (s : State) (k : EngineKind) (e : Fin 48) : Bool :=
  s.cry.jobs.any fun j => decide (j.kind = k) &&
    match j.st with
    | .running e' _ => e' == e
    | _ => false

/-- Work that a job has had done on it so far, in MHz × ns (R264): an engine works at the clock of its cluster. -/
def workNow (s : State) (j : CJob) : Nat :=
  match j.st with
  | .running e t0 => j.work + (s.now - t0) * s.getF (Fld.PWR_ISL_STATUS_CLK_MHZ (24 + e.val / 8))
  | _ => j.work

/-- Brings the work of the jobs that run on an island up to now: its clock is about to change (R264). -/
def settleWork (s : State) (i : Nat) : State :=
  { s with cry := { s.cry with jobs := s.cry.jobs.map fun j =>
      match j.st with
      | .running e _ => if 24 + e.val / 8 = i then { j with work := workNow s j, st := .running e s.now } else j
      | _ => j } }

/-- Sets or clears an engine's bit in its map. -/
def setEngine (s : State) (k : EngineKind) (e : Fin 48) (v : Bool) : State :=
  s.setF (engineMap k) (putBits (s.getF (engineMap k)) e.val 1 (b2n v))

/-- A fault of an engine (R397): logged, out of service for its self-test. -/
def engineFaulted (s : State) (k : EngineKind) (e : Fin 48) (code : Nat) : State :=
  let cls := match k with | .pke => ErrClass.pke | .sym => ErrClass.sym
  let s1 := s.report { island := 24 + e.val / 8, unit := e.val % 8, cls := cls, severity := 1, code := code }
  faultHold (startTest (setEngine s1 k e false) (.engine k e))

end Sys2Proof.Machine
end

