-- ==== Sys2Proof/Machine/CryptJobs.lean ====
section
/-! DEFINITION. The life of a crypto job (R262, R264 to R269, R272): the engine that takes it, its keys, its result and the check
of it, its completion at the caller, and aborts. The engine's own commands stand in Engines.lean. -/

namespace Sys2Proof.Machine

/-- Whether the kind is RSA. -/
def isRsa (op : Nat) : Bool := op == 0x34 || op == 0x35

/-! ## Jobs -/

/-- The job with an identifier. -/
def State.job? (s : State) (id : Nat) : Option CJob := s.cry.jobs.find? fun j => j.id == id

/-- Changes a job. -/
def State.modJob (s : State) (id : Nat) (f : CJob → CJob) : State :=
  { s with cry := { s.cry with jobs := s.cry.jobs.map fun j => if j.id = id then f j else j } }

/-- Removes a job. -/
def State.dropJob (s : State) (id : Nat) : State :=
  { s with cry := { s.cry with jobs := s.cry.jobs.filter fun j => j.id != id } }

/-- Whether the run that issued a job is still the transaction's run (R86). -/
def jobLive (s : State) (j : CJob) : Bool :=
  match s.txn? j.an with
  | some t => t.run == j.run
  | none => false

/-- XFLAGS[1]. -/
def CJob.xflags (j : CJob) (late : Bool) : Nat := b2n late + 2 * b2n j.reissued

/-- Writes XFLAGS, OUT_LEN and STATUS as the CRY class (R262). -/
def writeStatus (s : State) (j : CJob) (status xf outLen : Nat) : State :=
  let s1 := (islandWrite s .cry (j.desc + 0x07) [byte xf]).2
  let s2 := (islandWrite s1 .cry (j.desc + 0x14) (leBytes 4 outLen)).2
  (islandWrite s2 .cry (j.desc + 0x06) [byte status]).2

/-- Reads captured parts as the CRY class; none if the MPU refuses one (R219, R261). -/
def readCaptured (s : State) : List (Nat × Nat) → Option (List Byte) × State
  | [] => (some [], s)
  | (p, n) :: t =>
    match islandRead s .cry p n with
    | (none, s1) => (none, s1)
    | (some bs, s1) =>
      match readCaptured s1 t with
      | (some l, s2) => (some (bs ++ l), s2)
      | (none, s2) => (none, s2)

/-- Writes output in ascending order as the CRY class, up to the first refused part (R262, R268). -/
def writeCaptured (s : State) : List (Nat × Nat) → List Byte → Bool × State
  | [], _ => (true, s)
  | (p, n) :: t, bs =>
    if bs = [] then (true, s)
    else match islandWrite s .cry p (bs.take n) with
      | (false, s1) => (false, s1)
      | (true, s1) => writeCaptured s1 t (bs.drop n)

/-- Subtracts charged engine time from ADM's demand of the run that issued the job (R31, R264). A run that replays had its
whole demand entered anew, so a job of an earlier run than a replay's charges nothing. -/
def chargeJob (s : State) (j : CJob) (n : Nat) : State :=
  s.modTxn j.an fun t =>
    if t.run = j.run ∨ (t.declineReason.isSome ∧ t.run = j.run + 1) then
      match j.kind with
      | .pke => { t with remPke := t.remPke - n }
      | .sym => { t with remSym := t.remSym - n }
    else t

/-- Engine time that a job has used, in engine-ns at capacity clock (R264). -/
def usedTime (s : State) (j : CJob) : Nat := min j.cost (workNow s j / 1600)

/-- What a job charges when it ends with a status (R264). -/
def chargeOf (s : State) (j : CJob) (status : Nat) : Nat :=
  if status = 0x01 ∨ status = 0x02 ∨ status = 0x03 ∨ status = 0x09 then j.cost else usedTime s j

/-- STATUS, XFLAGS and OUT_LEN at a job's end (R262); a job of XLT or JNL has no descriptor. -/
def noteStatus (s : State) (j : CJob) (status outLen : Nat) : State :=
  if j.who = .program then writeStatus s j status (j.xflags false) outLen else s

/-- A job ends with its own outcome: STATUS is written, its time charged, the completion on its way (R262, R268). `res` is the
output of a job of XLT or JNL. OUT_LEN after a status other than OK is a free value (log 7). -/
def endJob (s : State) (j : CJob) (status outLen : Nat) (res : List Byte) : State :=
  let n := if status = 0x01 then outLen else Config.openValue s.freeCtr
  let s0 := if status = 0x01 then s else { s with freeCtr := s.freeCtr + 1 }
  let s1 := noteStatus s0 j status n
  let s2 := (chargeJob s1 j (chargeOf s1 j status)).bump Off.CRY_JOB_CNT
  let s3 := if status = 0x02 then s2.bump Off.CRY_MISMATCH_CNT else s2
  s3.modJob j.id fun j => { j with work := workNow s j, st := .latched status, res := res }

/-- The TYPEs that suit a job, narrowed by what CRYPT took for an empty slot (R261, R272). -/
def CJob.types (j : CJob) : List Nat :=
  let l := typesOf j.op
  if j.typ.isSome then l
  else if j.op = 0x30 ∨ j.op = 0x31 then l.filter fun t => t == 7 || t == 8
  else if j.op = 0x1A ∨ j.op = 0x1B then l.filter fun t => t ≤ 3
  else if j.op = 0x20 then l.filter fun t => t ≤ 5
  else l

/-- KEY1's TYPE against the input format of PIN_XLATE (R270). -/
def CJob.types1 (j : CJob) : List Nat :=
  if j.op = 0x20 then j.types.filter fun t => pinType (j.param % 16) t true else j.types

/-- The modulus that an RSA job on an empty slot must find (R261). -/
def CJob.modulusOk (j : CJob) (k : Option KeySlot) : Bool :=
  if isRsa j.op && j.typ.isNone then
    match k with
    | some x => x.modLen == 8 * (j.inp.map fun p => p.2).sum
    | none => true
  else true

/-- The keys of a program's job, or the status that ends it (R272). -/
def programKeys (s : State) (j : CJob) : Except Nat (Option KeySlot × Option KeySlot) :=
  if !opKeyed j.op then .ok (none, none)
  else
    let k1 := s.keyOf 0 j.key1
    match keyStatus k1 j.types1 (usageOf j.op (match k1 with | some x => x.type | none => 0)) j.typ j.key with
    | some st => .error st
    | none =>
      if !j.modulusOk k1 then .error 0x05
      else if j.op = 0x20 then
        let k2 := s.keyOf 0 j.key2
        match keyStatus k2 ([1, 2, 3, 4, 5].filter fun t => pinType (j.param / 16) t false) [5] none j.key with
        | some st => .error st
        | none => .ok (k1, k2)
      else .ok (k1, none)

/-- The key of a response MAC, which needs RSP_MAC in place of MAC_GEN (R272). -/
def macKeys (s : State) (j : CJob) : Except Nat (Option KeySlot × Option KeySlot) :=
  let k := s.keyOf 0 j.key1
  match keyStatus k (typesOf j.op) [11] none 0 with
  | some st => .error st
  | none => .ok (k, none)

/-- The key of a seal: a P-384 private key with SEAL usage and KEY 0 (R293). -/
def sealKeys (s : State) (j : CJob) : Except Nat (Option KeySlot × Option KeySlot) :=
  match s.keyOf 0 j.key1 with
  | none => .error 0x04
  | some k => if k.type = 10 ∧ k.usage 12 ∧ k.skey = 0 then .ok (some k, none) else .error 0x05

/-- Reads and checks the keys of a job at its start: the status that ends it, or the keys. -/
def jobKeys (s : State) (j : CJob) : Except Nat (Option KeySlot × Option KeySlot) :=
  match j.who with
  | .program => programKeys s j
  | .mac _ => macKeys s j
  | .seal _ => sealKeys s j
  | .gseal _ => sealKeys s j

/-! ## Engines -/

/-- An engine may take a job: it is not of a pair whose check failed, unless no other engine of the kind serves (R266). In
stand-in service SYM jobs use CRYPTO.0 alone (R367). -/
def mayTake (s : State) (e : Fin 48) (j : CJob) : Bool :=
  !(standinService s && decide (j.kind = .sym) && e.val / 8 != 0) &&
  (!j.avoid.contains e || !(List.finRange 48).any fun x => engineTakes s j.kind x && !j.avoid.contains x)

/-- Which of two jobs an engine takes first (R12, R265): by priority, ties to its own cluster. -/
def takesFirst (e : Fin 48) (i j : CJob) : Bool :=
  older i.deadline i.an j.deadline j.an ||
    (i.deadline == j.deadline && i.an == j.an && i.cluster == e.val / 8 && j.cluster != e.val / 8)

/-- The waiting job that a free engine takes, among all six clusters (R12, R265). A job that draws from the DRBG waits for the
reseed of a zeroisation (R278). -/
def nextJob (s : State) (k : EngineKind) (e : Fin 48) : Option CJob :=
  (s.cry.jobs.filter fun j => decide (j.kind = k ∧ j.st = .waiting) && mayTake s e j &&
    !(s.cry.zeroing && (jobRandom j.op j.outCap != 0))).foldl (fun acc j =>
      match acc with
      | none => some j
      | some i => if takesFirst e j i then some j else acc) none

/-- A job starts on an engine with the keys that it reads now, or read before a reissue (R272, R276). -/
def startJob (s : State) (j : CJob) (e : Fin 48) : State :=
  match (match j.keys with | some k => Except.ok k | none => jobKeys s j) with
  | .error st => endJob s j st 0 []
  | .ok k => s.modJob j.id fun j => { j with st := .running e s.now, keys := some k }

/-- The job that runs on an engine. -/
def jobOn (s : State) (k : EngineKind) (e : Fin 48) : Option CJob :=
  s.cry.jobs.find? fun j => decide (j.kind = k) &&
    match j.st with
    | .running e' _ => e' == e
    | _ => false

/-- A slot that no key fills, for job kinds without a key. -/
def KeySlot.empty : KeySlot := { space := 0, slot := 0, header := 0, mat := [] }

/-- The check of a signature or RSA private result by a second PKE (R266). -/
def resultChecks (j : CJob) (k1 : KeySlot) (inp : List Byte) (r : JobRes) : Bool :=
  if r.status ≠ 0x01 then true
  else match j.op with
    | 0x31 => ecdsaVerify k1.curve k1.point inp r.out
    | 0x33 => edVerify k1.edKey inp r.out
    | 0x35 => rsaPublic (rsaModulus k1.mat) (rsaParts k1.mat).2.1 r.out == inp
    | _ => true

/-- Job kinds whose result a second PKE checks (R266). -/
def opChecked (op : Nat) : Bool := op == 0x31 || op == 0x33 || op == 0x35

/-- The PKE that checks a result: a free one of another cluster when a PKE serves there (R266). -/
def secondPke (s : State) (e : Fin 48) : Option (Fin 48) :=
  let others := (List.finRange 48).filter fun x => x != e && engineTakes s .pke x
  let far := others.filter fun x => x.val / 8 != e.val / 8
  (if far = [] then others else far).find? fun x => !engineBusy s .pke x

/-- Puts a job back for another engine of its kind (R266, R267), with the keys that it read; without one it ends with
ENGINE_FAULT. `pair` are engines that it does not go to again. -/
def reissueJob (s : State) (j : CJob) (failed : Bool) (pair : List (Fin 48)) : State :=
  let fails := j.fails + b2n failed
  if !((List.finRange 48).any (engineTakes s j.kind)) ∨ 2 ≤ fails then endJob s j 0x09 0 []
  else (s.bump Off.CRY_REISSUE_CNT).modJob j.id fun j =>
    { j with work := workNow s j, st := .waiting, reissued := true, fails := fails, avoid := pair }

/-- The keys of a job, for its computation. -/
def CJob.slots (j : CJob) : KeySlot × KeySlot :=
  match j.keys with
  | some k => (k.1.getD .empty, k.2.getD .empty)
  | none => (.empty, .empty)

/-- The output of a job that has its result: it is written, or kept for XLT or JNL (R268). -/
def giveResult (s : State) (j : CJob) (r : JobRes) : State :=
  if r.status ≠ 0x01 then endJob s j r.status 0 []
  else if j.who = .program then
    match writeCaptured s j.out r.out with
    | (true, s1) => endJob s1 j 0x01 r.out.length []
    | (false, s1) => endJob s1 j 0x06 0 []
  else endJob s j 0x01 r.out.length r.out

/-- What a job of XLT or JNL works on: the bytes of a response, or the digest of a seal (R73, R292). -/
def CJob.input (j : CJob) : List Byte :=
  match j.who with
  | .seal _ => sha384 j.data
  | .gseal _ => sha384 j.data
  | _ => j.data

/-- The check of a result by a second PKE, and the latch (R266, R268). The latch waits until a second PKE is free. -/
def latchJob (s s0 : State) (j : CJob) (e : Fin 48) (inp : List Byte) (r : JobRes) : State :=
  if opChecked j.op && r.status == 0x01 then
    match secondPke s e with
    | none => s0
    | some x =>
      if resultChecks j j.slots.1 inp r then giveResult s j r
      else reissueJob (engineFaulted (s.bump Off.CRY_SIGFAIL_CNT) j.kind e 0x09) j true [e, x]
  else giveResult s j r

/-- The input and the auxiliary operand of a job: as captured, or the bytes of XLT or JNL (R261). -/
def jobInput (s : State) (j : CJob) : Option (List Byte × List Byte) × State :=
  if j.who ≠ .program then (some (j.input, []), s)
  else match readCaptured s j.inp with
    | (none, s1) => (none, s1)
    | (some inp, s1) =>
      match readCaptured s1 j.aux with
      | (none, s2) => (none, s2)
      | (some aux, s2) => (some (inp, aux), s2)

/-- A running job computes, writes its output and ends (R262, R268). -/
def finishJob (s : State) (j : CJob) (e : Fin 48) : State :=
  match jobInput s j with
  | (none, s1) => endJob s1 j 0x06 0 []
  | (some d, s1) =>
    let rnd := s1.random (jobRandom j.op j.outCap)
    latchJob rnd.2 s j e d.1
      (jobCompute j.op j.param j.mlen j.outCap j.slots.1 j.slots.2 d.1 d.2 rnd.1)

/-- CC after a crypto completion (R262). -/
def statusCC (status : Nat) : Nat := if status = 1 then 0 else if status = 2 then 1 else if status = 3 then 2 else 3

/-- CRYPTO_COMPLETION (R86, R262): the completion for a bank reaches the caller. One of a run that has ended is discarded;
its job is known to the latch until the abort arrives (R269). ENGINE_FAULT is a machine check of the context (R267, R399). -/
def execCryptoCompletion (c : CoreId) (b : BankId) (s : State) : Host.Outcome State Fault Refusal :=
  .next (match s.cry.jobs.find? fun j => decide (j.who = .program) && !j.told && j.core == c && j.bank == b &&
      match j.st with
      | .latched _ => true
      | _ => false with
    | none => s
    | some j =>
      match j.st with
      | .latched st =>
        if !jobLive s j then s.modJob j.id fun j => { j with told := true }
        else if st = 0x09 then endIfOwned (s.dropJob j.id) j.an j.run .faultReplay
        else wake ((s.dropJob j.id).setCC c b (statusCC st)) c b
      | _ => s)

/-- The output bytes that a job has computed when it is stopped, if it runs. -/
def stoppedOutput (s : State) (j : CJob) : List Byte :=
  match j.st with
  | .running _ _ =>
    (jobCompute j.op j.param j.mlen j.outCap j.slots.1 j.slots.2 ((readCaptured s j.inp).1.getD [])
      ((readCaptured s j.aux).1.getD []) (drbgFrom s.freeCtr (jobRandom j.op j.outCap))).out
  | _ => []

/-- An abort at the completion latch of a job that has not set it (R269, R279): some output bytes may stand. -/
def stopJob (s : State) (j : CJob) (status : Nat) : State :=
  let n := Config.openValue s.freeCtr % (j.outCap + 1)
  let s0 := { s with freeCtr := s.freeCtr + 2 + jobRandom j.op j.outCap }
  let s1 := if j.who = .program then (writeCaptured s0 j.out ((stoppedOutput s j).take n)).2 else s0
  let s2 := noteStatus s1 j status (Config.openValue (s.freeCtr + 1))
  (chargeJob s2 j (usedTime s j)).modJob j.id fun j => { j with work := workNow s j, st := .latched status }

/-- An abort that finds the latch set (R268, R269): ABORT_LATE is written, and the job charges the rest of its COST. -/
def lateAbort (s : State) (j : CJob) (status : Nat) : State :=
  let s1 := (islandWrite s .cry (j.desc + 0x07) [byte (j.xflags true)]).2.bump Off.CRY_ABLATE_CNT
  chargeJob s1 j (j.cost - chargeOf s j status)

/-- JOB_ABORT (R268, R269): the caller's abort of a job whose run has ended reaches the completion latch. The completion
is discarded either way. -/
def execJobAbort (job : Nat) (s : State) : Host.Outcome State Fault Refusal :=
  .next (match s.job? job with
    | none => s
    | some j =>
      if j.who ≠ .program ∨ jobLive s j then s
      else match j.st with
        | .latched st => (if st = 0x07 ∨ st = 0x08 then s else lateAbort s j st).dropJob j.id
        | _ => ((stopJob s j 0x07).bump Off.CRY_ABORT_CNT).dropJob j.id)

/-- KEY_STORE_FAULT (R397): the failed copy is rewritten from the other; absorbed (log 27). -/
def execKeyStoreFault (slot : Nat) (s : State) : Host.Outcome State Fault Refusal :=
  .next (s.report { island := 24, unit := 0xFF, cls := .keystore, severity := 1, detail := slot })

end Sys2Proof.Machine
end

