-- ==== Sys2Proof/Machine/Ops.lean ====
section
/-! DEFINITION. The named operations of the cores: translation and the order of checks (R200 to R205, R223), a core's
view of memory through its store queue (R116), taking an exception (R95, R99), and returning from one
(R98, R100). -/

namespace Sys2Proof.Machine

/-! ## Translation -/

/-- Whether a TLB entry matches an address under an ASID (R204). -/
def TlbEntry.hits (e : TlbEntry) (va asid : Nat) : Bool :=
  let size := Bits.get e.w0 40 5
  e.w1.getLsbD 63 && (e.w1.getLsbD 62 || Bits.get e.w1 50 12 == asid) &&
    bitsOf va 12 36 >>> size == Bits.get e.w0 0 36 >>> size

/-- The indices of the entries that match (R204). -/
def Core.tlbHits (k : Core) (va asid : Nat) : List Nat :=
  (List.range 128).filter fun i => match k.tlb[i]? with | some e => e.hits va asid | none => false

/-- The physical address through an entry (R204). -/
def TlbEntry.translate (e : TlbEntry) (va : Nat) : Nat :=
  let n := 12 + Bits.get e.w0 40 5
  bitsOf (Bits.get e.w1 12 36 * 4096) n (48 - n) <<< n + va % 2 ^ n

/-- The permission rule of R205. -/
def TlbEntry.permits (e : TlbEntry) (k : Kind) (user : Bool) : Bool :=
  let u := e.w1.getLsbD 3
  match k with
  | .read => e.w1.getLsbD 0 && (!user || u)
  | .write => e.w1.getLsbD 1 && (!user || u)
  | .fetch => e.w1.getLsbD 2 && (if user then u else !u)

/-- The causes of R127 that the checks of R223 raise. -/
inductive ChkFail where
  | miss | accessed | dirty | perm | multi | mpu | key | poison | absent
  deriving DecidableEq, Repr

/-- The pseudo-cause of what ends the run for a fault replay and never vectors: a read of lost data (R257, R398, R406), and an
access that is answered with ISLAND_ABSENT (R86, R383). -/
def poisonCause : Nat := 0x40

/-- Cause code of a failed check, in the I_ form for a fetch (R127). -/
def ChkFail.code (k : Kind) : ChkFail → Nat
  | .miss => if k = .fetch then 0x05 else 0x11
  | .accessed => if k = .fetch then 0x06 else 0x12
  | .dirty => 0x13
  | .perm => if k = .fetch then 0x07 else 0x14
  | .multi => if k = .fetch then 0x08 else 0x15
  | .mpu => if k = .fetch then 0x09 else 0x16
  | .key => if k = .fetch then 0x0A else 0x17
  | .poison => poisonCause
  | .absent => poisonCause

/-- A checked part: its physical address, whether the access is a device access, and the TLB entry used. -/
structure Phys where
  pa : Nat
  va : Nat
  dev : Bool
  tlb : Option Nat
  deriving DecidableEq, Repr

/-- Device accesses by target (R121, R122, R199, R425): the setup window, the remote windows, host memory in PCIe
mode, and device-type regions. -/
def isDevice (s : State) (pa type : Nat) : Bool :=
  type == 1 ||
    match targetOf pa with
    | .setup _ => true
    | .window _ _ => true
    | .host _ => s.getF Fld.HIF_STATUS_MODE == 1
    | _ => false

/-- Steps 7 to 9 of R223 on a physical part of an access of a core of tile `own`; then the boundary of the island that
holds it (R383, R384). -/
def checkPhys (s : State) (own : TileId) (x : Bank) (k : Kind) (va pa len : Nat) (tlb : Option Nat) :
    Except ChkFail Phys :=
  if !backedAll s pa len then .error .mpu
  else match mpuCheck s x.initiator k pa (pa + len) pa with
    | none => .error .mpu
    | some ty =>
      if !keyCheck s k x.key pa then .error .key
      else if storeAbsent s own pa then .error .absent
      else if k ≠ .write ∧ poisoned s pa len then .error .poison
      else .ok { pa := pa, va := va, dev := isDevice s pa ty, tlb := tlb }

/-- The byte `off` further on in a checked part. -/
def Phys.shift (p : Phys) (off : Nat) : Phys := { p with pa := p.pa + off, va := p.va + off }

/-- One part of a core access in the order of checks of R223. -/
def checkPart (s : State) (c : CoreId) (b : BankId) (k : Kind) (va len : Nat) : Except ChkFail Phys :=
  let x := s.bank c b
  if x.xlate then
    if va >>> 47 ≠ 0 ∧ va >>> 47 ≠ 0x1FFFF then .error .perm
    else match (s.core c).tlbHits va (Bits.get x.asid 0 12) with
      | [] => .error .miss
      | [i] =>
        match (s.core c).tlb[i]? with
        | none => .error .miss
        | some e =>
          if !e.permits k x.user then .error .perm
          else if !e.w1.getLsbD 4 then .error .accessed
          else if k = .write ∧ !e.w1.getLsbD 5 then .error .dirty
          else checkPhys s (tileOf c) x k va (e.translate va) len (some i)
      | _ => .error .multi
  else if va >>> 48 ≠ 0 then .error .mpu
  else checkPhys s (tileOf c) x k va va len none

/-- Sets the use bit of the entry that a performed access translated through (R207). -/
def markUse (s : State) (c : CoreId) (i : Option Nat) : State :=
  match i with
  | none => s
  | some j =>
    s.modCore c fun k =>
      if h : j < 128 then { k with tlb := k.tlb.set j { k.tlb[j] with use := true } } else k

/-- A refused part: the cause and BADADDR, the part's first byte (R223). -/
structure Refused where
  cause : Nat
  bad : Nat
  deriving DecidableEq, Repr

/-- Checks every part of an operand in address order (R224). -/
def checkParts (s : State) (c : CoreId) (b : BankId) (k : Kind) :
    List (Nat × Nat) → Except Refused (List (Phys × Nat))
  | [] => .ok []
  | p :: t =>
    match checkPart s c b k p.1 p.2 with
    | .error e => .error { cause := e.code k, bad := p.1 }
    | .ok x =>
      match checkParts s c b k t with
      | .error e => .error e
      | .ok l => .ok ((x, p.2) :: l)

/-- Checks the `n` bytes at an address. -/
def checkRange (s : State) (c : CoreId) (b : BankId) (k : Kind) (va n : Nat) : Except Refused (List (Phys × Nat)) :=
  checkParts s c b k (partsOf va n)

/-- Marks the entries of performed parts. -/
def markParts (s : State) (c : CoreId) (ps : List (Phys × Nat)) : State :=
  ps.foldl (fun s p => markUse s c p.1.tlb) s

/-! ## A core's view of memory -/

/-- The youngest store-queue byte at an address (R116). -/
def sqByte (sq : List SqEntry) (a : Nat) : Option Byte :=
  sq.foldl (fun acc e => match e.cells.lookup a with | some v => some v | none => acc) none

/-- The byte that a load of core `c` takes (R116, R120). -/
def coreByte (s : State) (c : CoreId) (a : Nat) : Byte := (sqByte (s.core c).sq a).getD (memGet s.mem a)

/-- The bytes that loads of core `c` take. -/
def coreRead (s : State) (c : CoreId) (a : Nat) : Nat → List Byte
  | 0 => []
  | n + 1 => coreByte s c a :: coreRead s c (a + 1) n

/-- Removes from a store queue the bytes of a range that a later write of the hardware has replaced. -/
def sqDrop (sq : List SqEntry) (a n : Nat) : List SqEntry :=
  sq.map fun e => { e with cells := e.cells.filter fun p => decide (p.1 < a ∨ a + n ≤ p.1) }

/-- A write of the core's own hardware through its L1, younger than the stores in its queue and made without checks (R83). -/
def hwWrite (s : State) (c : CoreId) (a : Nat) (bs : List Byte) : State :=
  l1Access ((s.modCore c fun k => { k with sq := sqDrop k.sq a bs.length }).wr a bs) c true a bs.length

/-- A write into a tile's store by the caller or a translator lane, after every store that a run of the tile retired before
it (R15, R67; log 45): what the cores' queues still hold of the range is older. -/
def tileWrite (s : State) (t : TileId) (a : Nat) (bs : List Byte) : State :=
  ((coresOf t).foldl (fun s c => s.modCore c fun k => { k with sq := sqDrop k.sq a bs.length }) s).wr a bs

/-! ## Taking an exception and returning from one -/

/-- Physical address of the bank area (R82). -/
def bankArea (c : CoreId) (b : BankId) : Nat :=
  tileAddr (tileOf c).val (0x3E_0000 + 0x800 * (16 * coreInTile c + b.val))

/-- Physical address of the frame slot of a trap level 1 to 4 (R82). -/
def frameAddr (c : CoreId) (b : BankId) (level : Nat) : Nat := bankArea c b + 0xC0 * (level - 1)

/-- The 128 bytes of a window, G16 first. -/
def winBytes (w : Vector Word 16) : List Byte := w.toList.flatMap fun x => leBytes 8 x.toNat

/-- A window from 128 bytes. -/
def winOf (bs : List Byte) : Vector Word 16 := Vector.ofFn fun i : Fin 16 => BitVec.ofNat 64 (fld bs (8 * i.val) 8)

/-- A window of a bank. -/
def Bank.win (x : Bank) (w1 : Bool) : Vector Word 16 := if w1 then x.w1 else x.w0

/-- Replaces a window of a bank. -/
def Bank.putWin (x : Bank) (w1 : Bool) (v : Vector Word 16) : Bank :=
  if w1 then { x with w1 := v } else { x with w0 := v }

/-- The frame of R97, stacked on entry to level `lvl` from the bank as it stands with its pending writes applied. -/
def frameBytes (x : Bank) (bwr : Word) (cause : Nat) (bad epc : Word) (lvl : Nat) : List Byte :=
  leBytes 8 epc.toNat ++ leBytes 8 bad.toNat ++ leBytes 8 x.status.toNat ++ leBytes 8 bwr.toNat ++
    bytesOf [cause % 64, b2n (decide (2 ≤ lvl))] ++ zeros 30 ++
    (if 2 ≤ lvl then winBytes (x.win (lvl % 2 == 1)) else [])

/-- CTL.STATUS after entry to a trap level (R95 step 4). -/
def trapStatus (st : Word) (lvl : Nat) : Word :=
  Bits.put (Bits.put (Bits.put (Bits.put (Bits.put st 8 3 lvl) 0 2 0) 20 4 0) 47 1 0) 48 16 0

/-- The new window: zero but G16, which receives the frame's address (R95 step 5). -/
def trapWindow (frame : Nat) : Vector Word 16 := (Vector.replicate 16 0).set 0 (BitVec.ofNat 64 frame)

/-- The vector of a cause (R127). -/
def vectorOf (tvec : Word) (cause : Nat) : Word := tvec + BitVec.ofNat 64 (0x40 * cause)

/-- A bank after trap entry to level `lvl` (R95 steps 2, 4, 5, 6), from the bank with its pending writes applied. -/
def Bank.enter (x : Bank) (tvec : Word) (cause : Nat) (bad epc : Word) (lvl frame : Nat) : Bank :=
  { x.putWin (lvl % 2 == 1) (trapWindow frame) with
    epc := sextFrom 48 epc, cause := BitVec.ofNat 64 (cause % 64), badaddr := bad, status := trapStatus x.status lvl,
    bwr := Bits.put x.bwr 8 2 0, pc := vectorOf tvec cause }

/-- Entry to trap level L + 1 from level L, 0 to 3 (R95). -/
def enterTrap (s : State) (c : CoreId) (b : BankId) (cause : Nat) (bad epc : Word) : State :=
  let k := (s.core c).applyPend b
  let x := k.bank b
  let lvl := x.tl + 1
  let frame := frameAddr c b lvl
  let y := x.enter k.tvec cause bad epc lvl frame
  let s1 := s.setCore c { k.setBank b y with pq := [], win := [], need := none }
  hwWrite s1 c frame (frameBytes x (k.ctlNow b .bwr) cause bad epc lvl)

/-- Bank 15 at NEST_ERR entry (R99). -/
def bank15Entry (c : CoreId) (b : BankId) (tvec an deadline : Word) (cause : Nat) (bad epc : Word) : Bank :=
  { lo := ((((((Vector.replicate 16 0).set 1 (BitVec.ofNat 64 b.val)).set 2 (BitVec.ofNat 64 cause)).set 3 epc).set 4
      bad).set 5 (BitVec.ofNat 64 (bankArea c b))),
    w0 := Vector.replicate 16 0, w1 := Vector.replicate 16 0, pc := vectorOf tvec 0x02, status := Bits.put 0 8 3 4,
    bwr := Bits.put 0 16 4 b.val, asid := 0, an := an, deadline := deadline, epc := 0, cause := 0, badaddr := 0,
    fpctl := 0, dctl := 0, pend := [], ctx := none }

/-- A trap taken at level 4 (R99): bank 15 becomes current; the context's bank keeps everything but its PC. -/
def enterNest (s : State) (c : CoreId) (b : BankId) (cause : Nat) (bad epc : Word) : State :=
  s.modCore c fun k =>
    let x := k.bank b
    let y := bank15Entry c b k.tvec x.an x.deadline cause bad epc
    { (k.setBank b { x with pc := epc }).setBank bank15 y with
      cur := some bank15, pq := [], win := [], need := none,
      b15 := some { bank := b, resume := epc, cause := cause, mcycles := 0, usedF := false, usedD := false },
      fOwner := (if k.fOwner = some bank15 then none else k.fOwner),
      dOwner := (if k.dOwner = some bank15 then none else k.dOwner) }

/-- A fault machine check of the running context alone (R257, R399 to R401): its run ends for a fault replay, also from
bank 15. -/
def contextMchk (s : State) (c : CoreId) (b : BankId) : State :=
  let own := if b = bank15 then (match (s.core c).b15 with | some x => x.bank | none => b) else b
  match (s.bank c own).ctx with
  | some x => endIfOwned s x.an x.run .faultReplay
  | none => s

/-- Taking an exception (R95, R99, R100): one operation for every cause. `epc` is the resume address. -/
def takeTrap (s : State) (c : CoreId) (b : BankId) (cause : Nat) (bad epc : Word) : State :=
  if cause = poisonCause then contextMchk s c b
  else if b = bank15 then
    match (s.core c).b15 with
    | some x => quarantine s c x.bank cause 0x15
    | none => s
  else if 4 ≤ (s.bank c b).tl then enterNest s c b cause bad epc
  else enterTrap s c b cause bad epc

/-- The bank after TRET from level `lvl` with the frame of that level, and of the level below where there is one
(R98), from the bank with its pending writes applied. -/
def Bank.leave (x : Bank) (lvl : Nat) (fr below : List Byte) : Bank :=
  let x1 := if bitAt (fld fr 0x21 1) 0 then x.putWin (lvl % 2 == 1) (winOf (sliceOf fr 0x40 128)) else x
  let x2 := { x1 with
    pc := BitVec.ofNat 64 (fld fr 0 8),
    status := Bits.put (Ctl.store .status (BitVec.ofNat 64 (fld fr 0x10 8))) 8 3 (lvl - 1),
    bwr := Ctl.store .bwr (BitVec.ofNat 64 (fld fr 0x18 8)) }
  if 2 ≤ lvl then
    { x2 with epc := sextFrom 48 (BitVec.ofNat 64 (fld below 0 8)),
              badaddr := BitVec.ofNat 64 (fld below 8 8), cause := BitVec.ofNat 64 (fld below 0x20 1 % 64) }
  else x2

/-- TRET at level 1 to 4 (R98). -/
def trapReturn (s : State) (c : CoreId) (b : BankId) : State :=
  let k := (s.core c).applyPend b
  let x := k.bank b
  let lvl := x.tl
  let y := x.leave lvl (coreRead s c (frameAddr c b lvl) 192) (coreRead s c (frameAddr c b (lvl - 1)) 192)
  l1Access (s.setCore c { k.setBank b y with pq := [] }) c false (frameAddr c b lvl) 192

/-- TRET in bank 15 (R100): the context's bank is current again at the resume address. -/
def nestReturn (s : State) (c : CoreId) (x : Bank15) : State :=
  s.modCore c fun k0 =>
    let k := k0.applyPend bank15
    { k.modBank x.bank fun y => { y with pc := x.resume } with
      cur := some x.bank, pq := [], b15 := none,
      fOwner := (if k.fOwner = some bank15 then none else k.fOwner),
      dOwner := (if k.dOwner = some bank15 then none else k.dOwner) }

/-! ## What an instruction answers -/

/-- What an instruction's body answers: retired, retired with a new PC, an exception (with the state that the
instruction leaves), not retired, or retired with everything done (TRET, a blocking instruction). -/
inductive IRes where
  | done (s : State)
  | jump (s : State) (pc : Word)
  | trap (s : State) (cause : Nat) (bad : Word)
  | hold (s : State)
  | own (s : State)
  deriving DecidableEq, Repr

end Sys2Proof.Machine
end

