-- ==== Sys2Proof/Machine/Areas.lean ====
section
/-! DEFINITION. Islands and cores in service (R384, R388), and the areas of a tile store and of the record extensions (R67,
R68, R242). -/

namespace Sys2Proof.Machine

/-! ## Islands and cores in service -/

/-- A tile in service: its island runs. -/
def tileInService (s : State) (t : TileId) : Bool := islandState s t.val == 2

/-- A tile that runs: its cores execute and its caller binds (R384, R388). -/
def tileRuns (s : State) (t : TileId) : Bool := islandState s t.val == 2 || islandState s t.val == 3

/-- A core that can take contexts. -/
def coreServes (s : State) (c : CoreId) : Bool := decide ((s.core c).svc = .inService) && tileRuns s (tileOf c)

/-! ## Areas -/

/-- Tile-store offset of the scratch area of a bank (R68). -/
def scratchOff (s : State) (c : CoreId) (b : BankId) : Nat :=
  s.getF Fld.XLT_SCR_AREA_OFF * 4096 + s.getF Fld.XLT_SCR_AREA_KIB * 1024 * (15 * coreInTile c + b.val)

/-- Tile-store offset of the write log of a bank (R242). -/
def wlogOff (s : State) (c : CoreId) (b : BankId) : Nat :=
  s.getF Fld.LDG_WLOG_OFF * 4096 + 0x4400 * (15 * coreInTile c + b.val)

/-- Physical address of the write log of a bank. -/
def wlogAddr (s : State) (c : CoreId) (b : BankId) : Nat := tileAddr (tileOf c).val (wlogOff s c b)

/-- The effective TILE_MAX: a value above 2,730 acts as 2,730 (R67; ADM_CTRL). -/
def tileMax (s : State) : Nat := min 2730 (s.getF Fld.ADM_CTRL_TILE_MAX)

/-- The response extension of a slot (R67). -/
def extRsp (s : State) (t : TileId) (slot : Nat) : Nat :=
  s.getF Fld.XLT_EXT_RSP_BASE * 4096 + (t.val * tileMax s + slot) * 65536

/-- The request extension of a slot (R67). -/
def extReq (s : State) (t : TileId) (slot : Nat) : Nat :=
  s.getF Fld.XLT_EXT_REQ_BASE * 4096 + (t.val * tileMax s + slot) * 131072

/-- The small request slot (R67). -/
def smallReq (s : State) (t : TileId) (slot : Nat) : Nat :=
  tileAddr t.val (s.getF Fld.XLT_POOL_REQ_OFF + slot * s.getF Fld.XLT_REC_REQ_BYTES)

/-- The small response slot (R67). -/
def smallRsp (s : State) (t : TileId) (slot : Nat) : Nat :=
  tileAddr t.val (s.getF Fld.XLT_POOL_RSP_OFF + slot * s.getF Fld.XLT_REC_RSP_BYTES)

/-- Directory entry of a dialect (R56): the address of its table, zero for no dialect; a refused read answers zero. -/
def dialectEntry (s : State) (i : Nat) : Nat × State :=
  match islandRead s .xlt (s.getF Fld.XLT_DTAB_BASE * 4096 + 8 * (i % 256)) 8 with
  | (some bs, s1) => (leNat bs, s1)
  | (none, s1) => (0, s1)

end Sys2Proof.Machine
end

