-- ==== Sys2Proof/Machine/Rings.lean ====
section
/-! DEFINITION. Host rings (R336 to R341, R352 to R355): where an entry lies, how a ring starts and stops, and how the
device posts an entry. -/

namespace Sys2Proof.Machine

/-- A ring number from its index. -/
abbrev RingId : Type := Fin 40

/-- Ring indices of the table *Rings* (R336). -/
abbrev ringAQ : RingId := 0
/-- Admin completion. -/
abbrev ringACQ : RingId := 1
/-- Host exception. -/
abbrev ringEXC : RingId := 2
/-- Journal mirror. -/
abbrev ringMIR : RingId := 3
/-- Journal export. -/
abbrev ringEXP : RingId := 4
/-- Response data. -/
abbrev ringGONE : RingId := 5
/-- Host transmit. -/
abbrev ringTXQ : RingId := 6

/-- Submission ring SQ.n. -/
def ringSQ (n : Fin 16) : RingId := ⟨8 + n.val, by omega⟩
/-- Completion ring CQ.n. -/
def ringCQ (n : Fin 16) : RingId := ⟨24 + n.val, by omega⟩

/-- Whether the host produces the entries of a ring (R336). -/
def hostProduced (r : RingId) : Bool := r.val == 0 || r.val == 6 || (decide (8 ≤ r.val) && decide (r.val < 24))

/-- Byte rings (R336). -/
def ringBytes (r : RingId) : Bool := decide (2 ≤ r.val) && decide (r.val ≤ 5)

/-- The class under which the MPU checks a ring's accesses (R336). -/
def ringClass (r : RingId) : Initiator := if r.val = 3 ∨ r.val = 4 then .jnl else .hif

/-- A ring of the state. -/
def State.ring (s : State) (r : RingId) : Ring := s.hif.rings[r]

/-- Changes a ring. -/
def State.modRing (s : State) (r : RingId) (f : Ring → Ring) : State :=
  { s with hif := { s.hif with rings := s.hif.rings.set r (f s.hif.rings[r]) } }

/-- Slots or bytes of a ring (R337). -/
def ringSize (s : State) (r : RingId) : Nat := 2 ^ s.getF (Fld.HIF_RING_CFG_LOG2SIZE r.val)

/-- Indices are 32 bits on a slot ring and 64 bits on a byte ring (R337). -/
def ringMod (r : RingId) : Nat := if ringBytes r then 2 ^ 64 else 2 ^ 32

/-- Bytes of an index in memory. -/
def ringIdxBytes (r : RingId) : Nat := if ringBytes r then 8 else 4

/-- The distance from one index to a later one. -/
def ringDist (r : RingId) (a b : Nat) : Nat := (b + ringMod r - a % ringMod r) % ringMod r

/-- Entries or bytes in a ring. -/
def ringUsed (s : State) (r : RingId) : Nat := ringDist r (s.ring r).cons (s.ring r).prod

/-- HIF serves a ring: in service, enabled and not stopped (R340; HIF_CTRL). -/
def ringRuns (s : State) (r : RingId) : Bool :=
  s.getF Fld.HIF_CTRL_ENABLE == 1 && s.getF (Fld.HIF_RING_STATE_RUN r.val) == 1

/-- Physical address of a ring's memory. -/
def ringBase (s : State) (r : RingId) : Nat := hostPa (s.getF (Fld.HIF_RING_BASE_BASE r.val) * 4096)

/-- Physical address of entry `i` of a slot ring (R337). -/
def slotPa (s : State) (r : RingId) (i : Nat) : Nat := ringBase s r + 64 * (i % ringSize s r)

/-- Physical address of a doorbell word (R339). -/
def doorbellPa (s : State) (r : RingId) : Nat := hostPa (s.getF Fld.HIF_DBELL_BASE * 4096) + 64 * r.val

/-- Physical address of a status word (R339). -/
def statusPa (s : State) (r : RingId) : Nat := hostPa (s.getF Fld.HIF_STAT_BASE * 4096) + 64 * r.val

/-! ## Stopping and starting -/

/-- The stop of a ring (R340): ERR, HIF_RINGERR_CNT, and nothing further is taken from it. -/
def stopRing (s : State) (r : RingId) (err : Nat) : State :=
  (((s.setF (Fld.HIF_RING_STATE_RUN r.val) 0).setF (Fld.HIF_RING_STATE_ERR r.val) err).bump Off.HIF_RINGERR_CNT).modRing
    r fun x => { x with reading := false, seen := [] }

/-- The device's index in HIF_RING_IDX. -/
def showIndex (s : State) (r : RingId) : State :=
  s.setF (Fld.HIF_RING_IDX_IDX r.val) (if hostProduced r then (s.ring r).cons else (s.ring r).prod)

/-- Descriptors of an earlier start of a submission ring are no longer the ring's: work already taken proceeds (R340). -/
def forgetDescs (s : State) (r : RingId) : State :=
  { s with hif := { s.hif with
    msgs := s.hif.msgs.map fun m => if 8 + m.sq.val = r.val then { m with idx := none } else m,
    cpls := s.hif.cpls.map fun c => if c.sq + 8 = r.val then { c with desc := none } else c } }

/-- The start of a ring (R340): the doorbell value becomes both indices; a refused read stops it. -/
def startRing (s : State) (r : RingId) : State :=
  let (a, s1) := islandRead (s.setF (Fld.HIF_RING_STATE_ERR r.val) 0) (ringClass r) (doorbellPa s r) (ringIdxBytes r)
  match a with
  | none => stopRing s1 r 2
  | some bs =>
    let v := leNat bs
    showIndex ((forgetDescs (s1.setF (Fld.HIF_RING_STATE_RUN r.val) 1) r).modRing r fun _ =>
      { Ring.reset with prod := v, cons := v, fetched := v }) r

/-- ENABLE of a ring is cleared (R340). -/
def endRing (s : State) (r : RingId) : State :=
  (s.setF (Fld.HIF_RING_STATE_RUN r.val) 0).modRing r fun x => { x with reading := false, seen := [] }

/-! ## Indices and interrupts -/

/-- Writes the status word of a ring (R339): a refused write stops the ring. -/
def writeStatusIdx (s : State) (r : RingId) : State :=
  let v := if hostProduced r then (s.ring r).cons else (s.ring r).prod
  let (ok, s1) := islandWrite s (ringClass r) (statusPa s r) (leBytes (ringIdxBytes r) v)
  if ok then showIndex s1 r else showIndex (stopRing s1 r 2) r

/-- Signals the entries of a ring that are not yet signalled (R355). -/
def signalRing (s : State) (r : RingId) : State :=
  (s.modRing r fun x => { x with unsig := 0 }).msix (s.getF (Fld.HIF_RING_CFG_VECTOR r.val))

/-- Counts one posted entry and signals it if IRQ_COUNT or IRQ_US asks for it now (R355). -/
def notePosted (s : State) (r : RingId) : State :=
  let s1 := s.modRing r fun x =>
    { x with unsig := x.unsig + 1, unsigAt := (if x.unsig = 0 then s.now else x.unsigAt), waits := x.waits.drop 1 }
  if max 1 (s.getF (Fld.HIF_RING_CFG_IRQ_COUNT r.val)) ≤ (s1.ring r).unsig ∨ s.getF (Fld.HIF_RING_CFG_IRQ_US r.val) = 0
  then signalRing s1 r else s1

/-- Posts that are queued for a ring (R352): completions of a CQ, of ACQ, entries of EXC but frames, of EXP, responses for
GONE. -/
def queuedOn (s : State) (r : RingId) : Nat :=
  if 24 ≤ r.val then s.hif.cpls.countP fun c => c.cq + 24 == r.val
  else match r.val with
    | 1 => s.hif.acpls.length
    | 2 => s.hif.excs.countP fun e => e.kind != 1
    | 4 => max 1 s.jnl.exports.length
    | 5 => s.hif.cpls.countP fun c => c.moved || c.conn.isSome
    | _ => 0

/-- A post finds no room: it waits from now on, with every post queued behind it (R352). -/
def noteWait (s : State) (r : RingId) : State :=
  s.modRing r fun x => { x with waits := x.waits ++ List.replicate (queuedOn s r - x.waits.length) (s.now, false) }

/-! ## Posting -/

/-- How a post ends: posted, no room (or the ring does not run), or the ring stopped on a refused access. -/
inductive Posted where
  | done (s : State) (at_ : Nat)
  | wait (s : State)
  | stopped (s : State)
  deriving DecidableEq, Repr

/-- Room for one more entry of a slot ring, or for `n` bytes of a byte ring (R337). -/
def ringRoom (s : State) (r : RingId) (n : Nat) : Bool :=
  decide (ringUsed s r + (if ringBytes r then roundUp n 64 else 1) ≤ ringSize s r)

/-- Writes bytes into a byte ring from a byte index on, continuing at its base (R337). -/
def writeRingBytes (s : State) (r : RingId) (i : Nat) (bs : List Byte) : Bool × State :=
  let size := ringSize s r
  let off := i % size
  let n := min bs.length (size - off)
  let (ok, s1) := islandWrite s (ringClass r) (ringBase s r + off) (bs.take n)
  if ok ∧ n < bs.length then islandWrite s1 (ringClass r) (ringBase s r) (bs.drop n) else (ok, s1)

/-- The bytes of an entry with its padding (R337). -/
def padEntry (bs : List Byte) : List Byte := sliceOf bs 0 (roundUp bs.length 64)

/-- Posts an entry of a byte ring (R337, R339): its byte index in the ring is answered. -/
def postBytes (s : State) (r : RingId) (bs : List Byte) : Posted :=
  if !ringRuns s r then .wait s
  else if !ringRoom s r bs.length then .wait (noteWait s r)
  else
    let i := (s.ring r).prod
    let (ok, s1) := writeRingBytes s r i (padEntry bs)
    if ok then
      let s2 := writeStatusIdx (s1.modRing r fun x =>
        { x with prod := (x.prod + roundUp bs.length 64) % ringMod r }) r
      .done (notePosted s2 r) i
    else .stopped (stopRing s1 r 2)

/-- Posts an entry of a slot ring with the phase in byte 1 (R338, R339). -/
def postSlot (s : State) (r : RingId) (bs : List Byte) : Posted :=
  if !ringRuns s r then .wait s
  else if !ringRoom s r 1 then .wait (noteWait s r)
  else
    let i := (s.ring r).prod
    let phase := b2n (!bitAt i (s.getF (Fld.HIF_RING_CFG_LOG2SIZE r.val)))
    let flags := fld bs 1 1 / 2 * 2 + phase
    let (ok, s1) := islandWrite s (ringClass r) (slotPa s r i) (patch (sliceOf bs 0 64) 1 [byte flags])
    if ok then
      let s2 := writeStatusIdx (s1.modRing r fun x => { x with prod := (x.prod + 1) % ringMod r }) r
      .done (notePosted s2 r) i
    else .stopped (stopRing s1 r 2)

/-! ## What waits to be posted -/

/-- Queues a completion. -/
def queueCpl (s : State) (c : Cpl) : State := { s with hif := { s.hif with cpls := s.hif.cpls ++ [c] } }

/-- Queues an admin completion (R350). -/
def queueAdmin (s : State) (a : ACpl) : State := { s with hif := { s.hif with acpls := s.hif.acpls ++ [a] } }

/-- The 64 fixed bytes of an exception entry and its data (the table *Exception entry*). -/
def excBytes (kind port reason flags conn tag time frac an : Nat) (data : List Byte) : List Byte :=
  bytesOf [kind, port % 8, reason, flags] ++ leBytes 4 (64 + data.length) ++ leBytes 4 conn ++ leBytes 4 data.length ++
    leBytes 8 tag ++ leBytes 8 time ++ leBytes 2 frac ++ zeros 6 ++ leBytes 8 an ++ zeros 16 ++ data

/-- Queues an exception entry (R348). -/
def queueExc (s : State) (e : Exc) : State := { s with hif := { s.hif with excs := s.hif.excs ++ [e] } }

/-- Advances the consumer index of a ring past leading descriptors that HIF is done with (R343), and writes it. -/
def advanceCons (s : State) (r : RingId) : State :=
  let fl := (s.ring r).flight
  let n := (fl.takeWhile fun p => p.2).length
  if n = 0 then s
  else
    let s1 := s.modRing r fun x => { x with flight := x.flight.drop n, cons := (x.cons + n) % ringMod r }
    if ringRuns s1 r then writeStatusIdx s1 r else s1

/-- HIF is done with a descriptor of an SQ. -/
def descDone (s : State) (r : RingId) (idx : Option Nat) : State :=
  match idx with
  | none => s
  | some i => advanceCons (s.modRing r fun x =>
      { x with flight := x.flight.map fun p => if p.1 = i then (p.1, true) else p }) r

/-- Takes the next entry of a ring that HIF consumes at once, an admin command or a transmit descriptor. -/
def takeEntry (s : State) (r : RingId) : State :=
  writeStatusIdx (s.modRing r fun x => { x with cons := (x.cons + 1) % ringMod r }) r

/-- A ring that runs and holds an entry. -/
def ringHasEntry (s : State) (r : RingId) : Bool := ringRuns s r && decide (0 < ringUsed s r)

end Sys2Proof.Machine
end

