-- ==== Sys2Proof/Machine/Deliver.lean ====
section
/-! DEFINITION. Connections as NET holds them, and where a response goes: to its connection, to the completion ring of its
SQ, or, for a closed connection, to GONE (R10, R16, R36, R46, R47). -/

namespace Sys2Proof.Machine

/-! ## Connections -/

/-- The connection of one handover. -/
def State.conn? (s : State) (h gen : Nat) : Option Conn := s.net.conns.find? fun c => c.h == h && c.gen == gen

/-- A connection that NET serves (not CLOSED). -/
def State.open? (s : State) (h : Nat) : Option Conn := s.net.conns.find? fun c => c.h == h && decide (c.st ≠ .closed)

/-- Replaces the connection of the same handover. -/
def putConn (s : State) (c : Conn) : State :=
  { s with net := { s.net with conns := s.net.conns.map fun x => if x.h = c.h ∧ x.gen = c.gen then c else x } }

/-- Forgets a connection. -/
def dropConn (s : State) (c : Conn) : State :=
  { s with net := { s.net with conns := s.net.conns.filter fun x => !(x.h == c.h && x.gen == c.gen) } }

/-- HOST_TAG of a connection. -/
def Conn.tag (c : Conn) : Nat := fld c.entry 0x80 8

/-- Dialect index of a connection. -/
def Conn.dialect (c : Conn) : Nat := fld c.entry 3 1

/-- Physical address of a connection table entry (R45); in stand-in service the table is fixed (R367). -/
def connAddr (s : State) (h : Nat) : Nat :=
  if standinService s then tileAddr 0 0x20_0000 + 256 * h else s.getF Fld.NET_CONN_BASE_BASE * 4096 + 256 * h

/-- Writes a field of a connection table entry, as class NET; stand-in's fixed table takes no MPU check (log 40). -/
def connWrite (s : State) (h off : Nat) (bs : List Byte) : State :=
  if standinService s then s.wr (connAddr s h + off) bs else (islandWrite s .net (connAddr s h + off) bs).2

/-- Reads a connection table entry. -/
def connRead (s : State) (h : Nat) : Option (List Byte) × State :=
  if standinService s then (some (s.rd (connAddr s h) 256), s) else islandRead s .net (connAddr s h) 256

/-- Accepted transactions of a connection without a decided outcome: INFLIGHT (R45). -/
def inflight (s : State) (c : Conn) : Nat :=
  s.txns.countP fun t => t.undecided && (match t.src with | .conn h g _ => h == c.h && g == c.gen | _ => false)

/-- The table entry with the current TCP and TLS state (R46), in STATE CLOSED. INFLIGHT is written here alone: no rule says when
else the device writes it (log 16). -/
def closedEntry (s : State) (c : Conn) (reason : Nat) : List Byte :=
  let e0 := patch (patch c.entry 0 [4]) 2 [byte c.port.val]
  let e1 := patch e0 0x38 (leBytes 4 c.tcp.max_ ++ leBytes 4 c.rcv ++ leBytes 4 c.tcp.wnd ++ leBytes 4 c.tsRecent)
  let e2 := patch e1 0x50 (leBytes 8 c.rxSeq ++ leBytes 8 c.txSeq)
  let e3 := patch e2 0x64 (leBytes 2 c.rxKey ++ leBytes 2 c.txKey ++ sliceOf c.rxIv 0 12 ++ sliceOf c.txIv 0 12)
  patch e3 0x88 (leBytes 4 (inflight s c) ++ [byte reason])

/-- Queues an event of a connection on EXC (R348). -/
def connEvent (s : State) (c : Conn) (kind reason : Nat) (data : List Byte) : State :=
  queueExc s { kind := kind, conn := some c.h,
               bytes := excBytes kind c.port.val reason (b2n c.rekeyDue) c.h c.tag 0 0 0 data }

/-- A response is delivered (R36): one later than its deadline is counted (R40); zero stands for no deadline. -/
def delivered (s : State) (deadline : Nat) : State :=
  if 0 < deadline ∧ deadline < s.now then s.bump Off.ADM_LATE_CNT else s

/-- A busy response, by its reason code (R32). -/
def NRsp.busy (r : NRsp) : Bool := decide (1 ≤ r.reason) && decide (r.reason ≤ 7)

/-- The deadline of an accepted message's response, zero for a busy response. -/
def NRsp.due (r : NRsp) : Nat := if r.busy then 0 else r.deadline

/-- The completion of a response for a closed connection (R47, R347). -/
def goneCpl (s : State) (h tag : Nat) (r : NRsp) : Cpl :=
  { cq := s.getF Fld.HIF_GONE_CQ, status := 0x04, reason := r.reason, sq := 0xFF, rsp := r.rsp, addr := 0, cap := 0,
    tag := tag, an := r.an, jsn := r.jsn, deadline := r.due, conn := some h, moved := false, desc := none }

/-- The partial message that a framer holds is discarded (R48). -/
def discardPartial (s : State) (c : Conn) : State :=
  putConn (s.bump Off.NET_DISCARD_CNT c.plain.length) { c with plain := [] }

/-- Hands a connection back (R46, R47): the entry is written, the event posted, and every response that was still to be
sent or unacknowledged becomes a CONN_GONE completion. Messages framed before the event still go to ADM (R48). A response
that was counted late at the MAC and is late again as a completion is counted twice (R40; log 16). -/
def closeConn (s : State) (c : Conn) (reason : Nat) : State :=
  let s1 := connWrite (s.bump Off.NET_DISCARD_CNT c.plain.length) c.h 0 (closedEntry s c reason)
  let s2 := connEvent s1 c 2 reason []
  let s3 := c.rsps.foldl (fun s r => queueCpl s (goneCpl s c.h c.tag r)) s2
  if c.msgs = [] then dropConn s3 c
  else putConn s3 { c with st := .closed, rsps := [], sbuf := [], plain := [], rbuf := [], ooo := [] }

/-- A handback of kind "drain" starts (R46). Records that a PAUSED connection holds have not reached the framer, and are neither
framed nor counted as a partial message (R48; log 16). -/
def startDrain (s : State) (c : Conn) (reason : Nat) : State :=
  match c.st with
  | .draining _ => s
  | .closed => s
  | _ =>
    let c1 : Conn := { c with st := .draining reason, plain := [] }
    connWrite (putConn (s.bump Off.NET_DISCARD_CNT c.plain.length) c1) c.h 0 [3]

/-! ## Responses -/

/-- Hands a response to NET (R16): it joins its connection's queue, or goes to HIF if the connection is closed (R47). -/
def handToNet (s : State) (h gen tag : Nat) (r : NRsp) : State :=
  match s.conn? h gen with
  | some c => if c.st = .closed then queueCpl s (goneCpl s h tag r) else putConn s { c with rsps := c.rsps ++ [r] }
  | none => queueCpl s (goneCpl s h tag r)

/-- Hands the response of a transaction on (R16, R36, R67). -/
def handTxn (s : State) (t : Txn) : State :=
  match t.src with
  | .conn h gen tag =>
    handToNet ((s.dropTxn t.an).countOutstanding) h gen tag
      { rsp := t.rsp.getD [], an := t.an, jsn := t.jsn.getD 0, deadline := t.deadline, reason := t.code, at_ := s.now,
        stalled := false, endSeq := none }
  | .sq n tag addr cap =>
    queueCpl ((s.modTxn t.an fun t => { t with phase := .handed }).countOutstanding)
      { cq := n.val, status := (if t.jsn.isSome then 0x01 else 0x02), reason := t.code, sq := n.val,
        rsp := t.rsp.getD [], addr := addr, cap := cap, tag := tag, an := t.an, jsn := t.jsn.getD 0,
        deadline := t.deadline, conn := none, moved := false, desc := none }

/-- A serialised response is handed on once its record is mirror-acknowledged (R16). -/
def handWhenReady (s : State) (an : Nat) : State :=
  match s.txn? an with
  | some t => if t.phase = .serialised ∧ t.mirrored then handTxn s t else s
  | none => s

/-- Hands a busy response on (R32): its deadline for port scheduling is 50 µs after ADM took the message. -/
def handBusy (s : State) (b : BusyRsp) (rsp : List Byte) : State :=
  match b.src with
  | .conn h gen tag =>
    handToNet s h gen tag { rsp := rsp, an := 0, jsn := 0, deadline := b.at_ + 50000, reason := b.reason, at_ := s.now,
                            stalled := false, endSeq := none }
  | .sq n tag addr cap =>
    queueCpl s { cq := n.val, status := 0x03, reason := b.reason, sq := n.val, rsp := rsp, addr := addr, cap := cap,
                 tag := tag, an := 0, jsn := 0, deadline := 0, conn := none, moved := false, desc := none }

end Sys2Proof.Machine
end

