-- ==== Sys2Proof/Machine/KeyAdmin.lean ====
section
/-! DEFINITION. The key store under the host's commands (R274 to R277) and zeroisation (R278, R279). Log 26 holds the layout
of key material and of key images. -/

namespace Sys2Proof.Machine

/-! ## What a key must be (R275) -/

/-- Material lengths by TYPE (R274; RSA is checked as a structure). -/
def matLenOk (t n : Nat) : Bool :=
  match t with
  | 1 => n == 16
  | 2 => n == 24
  | 3 => n == 32
  | 4 => n == 16
  | 5 => n == 24
  | 6 => decide (16 ≤ n) && decide (n ≤ 128)
  | 7 => n == 64
  | 8 => n == 32
  | 9 => n == 96
  | 10 => n == 48
  | 11 => n == 32
  | 12 => n == 32
  | 13 => true
  | 14 => true
  | 15 => n == 16
  | 16 => n == 16 || n == 32
  | 17 => n == 32
  | _ => false

/-- RSA material of the layout of log 26 is consistent: an odd modulus of 1,024 to 4,096 bits and, for a private key, CRT
values that belong together. -/
def rsaOk (priv : Bool) (m : List Byte) : Bool :=
  let x := rsaParts m
  let n := rsaModulus m
  let h := x.1 / 2
  let v (i : Nat) : Nat := fldBe m (x.2.2 + h * i) h
  decide (128 ≤ x.1) && decide (x.1 ≤ 512) && x.1 % 8 == 0 && decide (2 ^ (8 * x.1 - 1) ≤ n) && n % 2 == 1 &&
    x.2.1 % 2 == 1 && decide (3 ≤ x.2.1) &&
    (if priv then
       m.length == x.2.2 + 5 * h && v 0 * v 1 == n && x.2.1 * v 2 % (v 0 - 1) == 1 && x.2.1 * v 3 % (v 1 - 1) == 1 &&
         v 4 * v 1 % v 0 == 1
     else m.length == x.2.2)

/-- The material that a slot holds for a key: a private key with its public key (R274). None for a public key that is no
valid point and an RSA key that fails its consistency check (R275). -/
def slotMaterial (t : Nat) (m : List Byte) : Option (List Byte) :=
  let ec (c : Curve) (priv : Bool) : Option (List Byte) :=
    if priv then (if 0 < beNat m ∧ beNat m < c.n then some (m ++ c.public (beNat m)) else none)
    else if c.onCurve (fldBe m 0 c.bytes) (fldBe m c.bytes c.bytes) then some m else none
  if !matLenOk t m.length then none
  else match t with
    | 7 => ec p256 false
    | 8 => ec p256 true
    | 9 => ec p384 false
    | 10 => ec p384 true
    | 11 => (edDecode m).map fun _ => m
    | 12 => some (m ++ edPublic m)
    | 13 => if rsaOk false m then some m else none
    | 14 => if rsaOk true m then some m else none
    | _ => some m

/-- Whether a TYPE suits a space: traffic spaces hold AES-128, AES-256 and ChaCha20 keys (R274). -/
def typeSuits (space t : Nat) : Bool :=
  if space = 0 then decide (1 ≤ t) && decide (t ≤ 16) else t == 1 || t == 3 || t == 17

/-- The combinations of USAGE bits that R275 refuses. -/
def usageOk (u : Nat) : Bool :=
  let pin := bitAt u 4 || bitAt u 5 || bitAt u 6
  let data := bitAt u 0 || bitAt u 1 || bitAt u 2 || bitAt u 3 || bitAt u 10 || bitAt u 11
  let alone := bitAt u 10 || bitAt u 12 || bitAt u 13
  decide (u < 2 ^ 14) && !(pin && data) && (!alone || u == 2 ^ 10 || u == 2 ^ 12 || u == 2 ^ 13)

/-- Header bits [63:32] as a key-load command gives them, with the reserved bits zero (R274). -/
def attrOk (space attr : Nat) : Bool :=
  bitsOf attr 29 1 == 0 && bitsOf attr 16 4 == 0 && typeSuits space (bitsOf attr 24 5) && usageOk (bitsOf attr 0 16)

/-! ## Key blocks (R275) -/

/-- The algorithm letter of a TYPE in an X9.143 header (log 26). -/
def x9Alg (t : Nat) : Byte :=
  if t ≤ 3 ∨ t = 16 then 0x41 else if t = 4 ∨ t = 5 ∨ t = 15 then 0x54 else if t = 6 then 0x48
  else if t = 13 ∨ t = 14 then 0x52 else 0x45

/-- The key usage of a slot in an X9.143 header (log 26). -/
def x9Usage (t u : Nat) : List Byte :=
  if bitAt u 10 then [0x4B, 0x30]
  else if bitAt u 6 then [0x42, 0x30]
  else if bitAt u 4 ∨ bitAt u 5 then [0x50, 0x30]
  else if bitAt u 7 then [0x45, 0x30]
  else if bitAt u 8 ∨ bitAt u 9 ∨ bitAt u 12 then [0x53, 0x30]
  else if bitAt u 2 ∨ bitAt u 3 then [0x44, 0x30]
  else if t = 6 then [0x4D, 0x37] else if t ≤ 3 then [0x4D, 0x36] else [0x4D, 0x33]

/-- The attributes of a key block agree with header bits [63:32] (R350; log 26). -/
def x9Agrees (hdr : List Byte) (attr : Nat) : Bool :=
  let t := bitsOf attr 24 5
  let exp := sliceOf hdr 11 1 != [0x4E#8]
  sliceOf hdr 5 2 == x9Usage t (bitsOf attr 0 16) && sliceOf hdr 7 1 == [x9Alg t] && exp == bitAt attr 30

/-- The key-encryption key in a slot: an AES key with the KEK usage. -/
def kekOf (s : State) (slot : Nat) : Option KeySlot :=
  match s.keyOf 0 (slot % 65536) with
  | some k => if k.usage 10 ∧ 1 ≤ k.type ∧ k.type ≤ 3 then some k else none
  | none => none

/-! ## Admin statuses -/

/-- Codes of the table *Admin status* (R350). -/
inductive AdmStatus where
  | success | invalid | wrongState | cancelled | completed | unknownAn | benchFull | authFail | noSpace | dataRefused
  | zeroised | notLead | unknownOp
  deriving DecidableEq, Repr

/-- STATUS. -/
def AdmStatus.code : AdmStatus → Nat
  | .success => 1 | .invalid => 2 | .wrongState => 3 | .cancelled => 4 | .completed => 5 | .unknownAn => 6
  | .benchFull => 7 | .authFail => 8 | .noSpace => 9 | .dataRefused => 10 | .zeroised => 11 | .notLead => 12
  | .unknownOp => 13

/-- What an admin command answers when it executes: done with STATUS and R0, or something that it waits for. -/
inductive AdmRes where
  | done (st : AdmStatus) (r0 : Nat)
  | wait (w : AdmWait)
  deriving DecidableEq, Repr

/-- Done without an R0. -/
def admEnds (st : AdmStatus) (s : State) : AdmRes × State := (.done st 0, s)

/-- Reads the data of a command from host memory as HIF (R335). -/
def hostRead (s : State) (addr len : Nat) : Option (List Byte) × State :=
  if len = 0 then (some [], s) else hifRead s (hostPa addr) len

/-- Writes data to host memory as HIF. -/
def hostWrite (s : State) (addr : Nat) (bs : List Byte) : Bool × State :=
  if bs = [] then (true, s) else hifWrite s (hostPa addr) bs

/-! ## The slots -/

/-- Units of 16 bytes that a slot's own material takes (R274). -/
def KeySlot.units (k : KeySlot) : Nat := bitsOf k.header 15 8

/-- CRY_STATUS.SLOTS_USED and MAT_FREE (R274). -/
def noteSlots (s : State) : State :=
  let l := s.cry.keys
  (s.setF Fld.CRY_STATUS_SLOTS_USED l.length).setF Fld.CRY_STATUS_MAT_FREE (32768 - (l.map KeySlot.units).sum)

/-- Puts a key into its space (R274): a traffic key as a wrapped copy in the HBM metadata store, and into NET's cache. -/
def putKey (s : State) (k : KeySlot) : State :=
  if k.space = 0 then { s with cry := { s.cry with keys := s.cry.keys ++ [k] } }
  else { s with cry := { s.cry with
    wrapped := (s.cry.wrapped.filter fun w => !w.key.at_ k.space k.slot) ++ [{ gen := s.cry.wrapGen, key := k }],
    cache := s.cry.cache ++ [k] } }

/-- Clears a slot of a space. -/
def clearSlot (s : State) (space slot : Nat) : State :=
  { s with cry := { s.cry with
    keys := s.cry.keys.filter fun q => !q.at_ space slot,
    wrapped := s.cry.wrapped.filter fun w => !w.key.at_ space slot,
    cache := s.cry.cache.filter fun q => !q.at_ space slot } }

/-- Puts a key into an empty slot; where its material lies is open (log 7). -/
def fillSlot (s : State) (space slot attr n : Nat) (mat : List Byte) : Nat × State :=
  let off := Config.openValue s.freeCtr % 2 ^ 15
  let hdr := putBits (2 ^ 63 + attr % 2 ^ 31 * 2 ^ 32) 0 23 (ceilDiv n 16 * 2 ^ 15 + off)
  let k : KeySlot := { space := space, slot := slot, header := hdr, mat := mat }
  (hdr, noteSlots (putKey { s with freeCtr := s.freeCtr + 1 } k))

/-- The key in the data of a key-load command by its form, or the status that refuses it (R275). -/
def loadedKey (s : State) (form attr kek : Nat) (data : List Byte) : Except AdmStatus (List Byte) :=
  match form with
  | 2 => .ok data
  | 1 =>
    match kekOf s kek with
    | none => .error .invalid
    | some k => match kwpUnwrap k.cipher data with | some m => .ok m | none => .error .authFail
  | _ =>
    match kekOf s kek with
    | none => .error .invalid
    | some k =>
      match x9143Open k.mat data with
      | some (hdr, m) => if x9Agrees hdr attr then .ok m else .error .invalid
      | none => .error .authFail

/-- Key load (R274, R275, R278). -/
def admKeyLoad (a : AdminCmd) (s : State) : AdmRes × State :=
  let space := bitsOf a.p0 16 4
  let slot := bitsOf a.p0 0 16
  let form := bitsOf a.p1 0 32
  let attr := bitsOf a.p1 32 32
  if s.getF Fld.CRY_STATUS_ZEROISED = 1 then admEnds .zeroised s
  else if 8 < space ∨ (space = 0 ∧ slot = 0) ∨ 2 < form ∨ !attrOk space attr ∨
      (form = 2 ∧ s.getF Fld.CRY_CTRL_CLEAR_OK = 0) then admEnds .invalid s
  else if (slotOf s space slot).isSome then admEnds .wrongState s
  else match hostRead s a.addr a.len with
    | (none, s1) => admEnds .dataRefused s1
    | (some data, s1) =>
      match loadedKey s1 form attr a.p2 data with
      | .error st => admEnds st s1
      | .ok m =>
        match slotMaterial (bitsOf attr 24 5) m with
        | none => admEnds .invalid s1
        | some mat =>
          if space = 0 ∧ s.getF Fld.CRY_STATUS_MAT_FREE < ceilDiv m.length 16 then admEnds .noSpace s1
          else let r := fillSlot s1 space slot attr m.length mat; (.done .success r.1, r.2)

/-- What a key-export command writes: a public key in clear, an exportable key as a key block (R275), and, for a private key
that may not leave, its public key (R295, *Verifying a journal*). -/
def exportedKey (s : State) (k : KeySlot) (kek : Nat) : Except AdmStatus (List Byte) × State :=
  let t := k.type
  if t = 7 ∨ t = 9 ∨ t = 11 ∨ t = 13 then (.ok k.mat, s)
  else if k.export_ then
    match kekOf s kek with
    | none => (.error .invalid, s)
    | some q =>
      let m := if t = 8 ∨ t = 10 then k.mat.take k.curve.bytes else if t = 12 then k.mat.take 32 else k.mat
      let (o, s1) := s.openBytes 1
      let (r, s2) := s1.random 16
      let attr := x9Usage t (bitsOf k.header 32 16) ++ [x9Alg t] ++ o ++ [0x30, 0x30, 0x45]
      (.ok (x9143Seal q.mat attr m r), s2)
  else if t = 8 ∨ t = 10 then (.ok k.point, s)
  else if t = 12 then (.ok k.edKey, s)
  else (.error .invalid, s)

/-- Key export (R275). -/
def admKeyExport (a : AdminCmd) (s : State) : AdmRes × State :=
  match s.keyOf 0 (bitsOf a.p0 0 16) with
  | none => admEnds .wrongState s
  | some k =>
    match exportedKey s k a.p2 with
    | (.error st, s1) => admEnds st s1
    | (.ok bs, s1) =>
      if a.len < bs.length then admEnds .invalid s1
      else match hostWrite s1 a.addr bs with
        | (false, s2) => admEnds .dataRefused s2
        | (true, s2) => (.done .success bs.length, s2)

/-- The jobs that have read a key and have not set their latch, those that a reissue has put back included (R276). -/
def readersOf (s : State) (k : KeySlot) : List Nat :=
  (s.cry.jobs.filter fun j => match j.st, j.keys with
    | .latched _, _ => false
    | _, some (k1, k2) => k1 == some k || k2 == some k
    | _, none => false).map fun j => j.id

/-- Key delete (R276): done once every job that read the key has set its latch. -/
def admKeyDelete (a : AdminCmd) (s : State) : AdmRes × State :=
  match slotOf s (bitsOf a.p0 16 4) (bitsOf a.p0 0 16) with
  | none => admEnds .wrongState s
  | some k =>
    let s1 := noteSlots (clearSlot s k.space k.slot)
    match readersOf s k with
    | [] => admEnds .success s1
    | ids => (.wait (.jobs ids), s1)

/-- Key info (R274): the slot header, zero for an empty slot. -/
def admKeyInfo (a : AdminCmd) (s : State) : AdmRes × State :=
  (.done .success (match s.keyOf (bitsOf a.p0 16 4) (bitsOf a.p0 0 16) with | some k => k.header | none => 0), s)

/-! ## The key image (R277) -/

/-- The key that seals images, from the root seed of the fuses (R277). -/
def rootSealKey (s : State) : List Byte :=
  (List.range 32).map (Config.rootKey (leNat (s.fuseBytes 0x20 32)))

/-- The serial number in the fuses (R360). -/
def serialOf (s : State) : List Byte := s.fuseBytes 0 16

/-- The slots of the general space as an image holds them (log 26). -/
def imagePlain (s : State) : List Byte :=
  s.cry.keys.flatMap fun k =>
    leBytes 2 k.slot ++ leBytes 2 k.mat.length ++ leBytes 8 k.header ++ k.mat

/-- The slots in the plaintext of an image. -/
def imageSlots : Nat → List Byte → List KeySlot
  | 0, _ => []
  | f + 1, bs =>
    if bs.length < 12 then [] else
    let n := fld bs 2 2
    { space := 0, slot := fld bs 0 2, header := fld bs 4 8, mat := sliceOf bs 12 n } :: imageSlots f (bs.drop (12 + n))

/-- An image: the serial number, an IV, and the slots sealed with AES-256-GCM. -/
def keyImage (s : State) : List Byte × State :=
  let (iv, s1) := s.random 12
  (serialOf s ++ iv ++ gcmSeal (aesKeyed (rootSealKey s)) iv (serialOf s) (imagePlain s), s1)

/-- The slots of an image that was sealed on this device and authenticates. -/
def openImage (s : State) (bs : List Byte) : Option (List KeySlot) :=
  if bs.length < 44 ∨ bs.take 16 ≠ serialOf s then none
  else (gcmOpen (aesKeyed (rootSealKey s)) (sliceOf bs 16 12) (serialOf s) (bs.drop 28)).map fun p =>
    imageSlots (p.length + 1) p

/-- Key save (R277). -/
def admKeySave (a : AdminCmd) (s : State) : AdmRes × State :=
  let (bs, s1) := keyImage s
  if a.len < bs.length then admEnds .invalid s1
  else match hostWrite s1 a.addr bs with
    | (false, s2) => admEnds .dataRefused s2
    | (true, s2) => (.done .success bs.length, s2)

/-- Restores an image into an empty general space, whose keys `Cry.keys` are (R277, R278). -/
def restoreImage (s : State) (bs : List Byte) : AdmStatus × State :=
  if s.getF Fld.CRY_STATUS_ZEROISED = 1 then (.zeroised, s)
  else if s.cry.keys ≠ [] then (.wrongState, s)
  else match openImage s bs with
    | none => (.authFail, s)
    | some ks => (.success, noteSlots { s with cry := { s.cry with keys := s.cry.keys ++ ks } })

/-- Key restore (R277). -/
def admKeyRestore (a : AdminCmd) (s : State) : AdmRes × State :=
  match hostRead s a.addr a.len with
  | (none, s1) => admEnds .dataRefused s1
  | (some bs, s1) => let r := restoreImage s1 bs; (.done r.1 (if r.1 = .success then bs.length else 0), r.2)

/-! ## Zeroisation -/

/-- The start of a zeroisation (R278, R279): every slot reads as empty, every job without its latch is aborted, and every
TLS connection is handed back. `inputs` are the tamper inputs that started it. -/
def startZeroise (s : State) (inputs : Nat) : State :=
  let s1 := (s.setF Fld.CRY_STATUS_ZEROISED 1).setF Fld.CRY_STATUS_TAMPER (s.getF Fld.CRY_STATUS_TAMPER ||| inputs)
  let s2 := (s1.cry.jobs.filter fun j => match j.st with
    | .latched _ => false
    | _ => true).foldl (fun s j => stopJob s j 0x08) s1
  let s3 := { s2 with cry := { s2.cry with zeroing := true, wiping := true } }
  (s3.net.conns.filter fun c => decide (c.st ≠ .closed)).foldl (fun s c => closeConn s c 0x05) s3

/-- TAMPER_INPUT_HIGH (R448). -/
def execTamperInputHigh (i : Fin 4) (s : State) : Host.Outcome State Fault Refusal :=
  .next { s with sys := { s.sys with tamper := putBits s.sys.tamper i.val 1 0 } }

/-- TRAFFIC_SPACE_WIPE (R278): the wrapped copies that the destroyed wrapping key left are overwritten. -/
def execTrafficSpaceWipe (s : State) : Host.Outcome State Fault Refusal :=
  .next (if s.cry.wiping ∧ !s.cry.zeroing then
    { s with cry := { s.cry with wiping := false, wrapped := s.cry.wrapped.filter fun w => w.gen == s.cry.wrapGen } }
  else s)

end Sys2Proof.Machine
end

