-- ==== Sys2Proof/Machine/Dialect.lean ====
section
/-! DEFINITION. Dialect tables (R57 to R59, R61, R65, R66): their layout, the checks of a load, and the route map. -/

namespace Sys2Proof.Machine

/-- A field descriptor (R58): `pre` and `form` are the two halves of LENSPEC. -/
structure FDesc where
  fid : Nat
  num : Nat
  pre : Nat
  form : Nat
  max : Nat
  data : Nat
  canon : Nat
  flags : Nat
  pad : Nat
  min : Nat
  reserved : Nat
  deriving DecidableEq, Repr

/-- A path entry (R65). -/
structure PathEnt where
  fid : Nat
  canon : Nat
  scale : Nat
  repeat_ : Nat
  flags : Nat
  depth : Nat
  nameOff : Nat
  nameLen : Nat
  parent : Nat
  deriving DecidableEq, Repr

/-- A route entry (R61). -/
structure RouteEnt where
  key : Nat
  prog : Nat
  flags : Nat
  reserved : Nat
  deriving DecidableEq, Repr

/-- A template (R66). -/
structure Template where
  mtiAdd : Nat
  codeFid : Nat
  code : List Byte
  reasonFid : Nat
  flags : Nat
  reserved : Nat
  deriving DecidableEq, Repr

/-- A dialect table: its header (R57) and its areas. `names` is the names area. -/
structure Dialect where
  magic : Nat
  kind : Nat
  version : Nat
  mtiForm : Nat
  bitmapForm : Nat
  bitmapMax : Nat
  hdrLen : Nat
  subst : Nat
  flags : Nat
  fieldMax : Nat
  rspMtiAdd : Nat
  fields : List FDesc
  routes : List RouteEnt
  paths : List PathEnt
  templates : List Template
  charset : List Byte
  names : List Byte
  macKey : Nat
  macAlg : Nat
  macLen : Nat
  macFid : Nat
  rspKib : Nat
  macPad : Nat
  deriving DecidableEq, Repr

/-! ## Reading -/

/-- A field descriptor from its 16 bytes. -/
def readFDesc (b : List Byte) : FDesc :=
  { fid := fld b 0 2, num := fld b 2 1, pre := fld b 3 1 % 16, form := fld b 3 1 / 16, max := fld b 4 2,
    data := fld b 6 1, canon := fld b 7 1, flags := fld b 8 1, pad := fld b 9 1, min := fld b 10 2,
    reserved := fld b 12 4 }

/-- A path entry from its 16 bytes. -/
def readPathEnt (b : List Byte) : PathEnt :=
  { fid := fld b 0 2, canon := fld b 2 1, scale := fld b 3 1, repeat_ := fld b 4 2, flags := fld b 6 1,
    depth := fld b 7 1, nameOff := fld b 8 4, nameLen := fld b 12 2, parent := fld b 14 2 }

/-- A route entry from its 8 bytes. -/
def readRouteEnt (b : List Byte) : RouteEnt :=
  { key := fld b 0 4, prog := fld b 4 2, flags := fld b 6 1, reserved := fld b 7 1 }

/-- A template from its 16 bytes. -/
def readTemplate (b : List Byte) : Template :=
  { mtiAdd := fld b 0 2, codeFid := fld b 2 2, code := sliceOf b 4 4, reasonFid := fld b 8 2, flags := fld b 10 1,
    reserved := fld b 11 5 }

/-- `n` entries of `size` bytes from an offset of the table. -/
def entriesAt (t : List Byte) (off size n : Nat) : List (List Byte) :=
  (List.range n).map fun i => sliceOf t (off + size * i) size

/-- TABLE_SIZE of a header. -/
def tableSize (t : List Byte) : Nat := fld t 0x38 4

/-- A dialect table from its bytes (the table *Dialect header*). -/
def readDialect (t : List Byte) : Dialect :=
  { magic := fldBe t 0 4, kind := fld t 4 1, version := fld t 5 1, mtiForm := fld t 6 1, bitmapForm := fld t 7 1,
    bitmapMax := fld t 8 1, hdrLen := fld t 9 1, subst := fld t 10 1, flags := fld t 11 1, fieldMax := fld t 12 2,
    rspMtiAdd := fld t 14 2,
    fields := (entriesAt t (fld t 0x18 4) 16 (fld t 0x10 2)).map readFDesc,
    routes := (entriesAt t (fld t 0x1C 4) 8 (fld t 0x12 2)).map readRouteEnt,
    paths := (entriesAt t (fld t 0x20 4) 16 (fld t 0x14 2)).map readPathEnt,
    templates := (entriesAt t (fld t 0x24 4) 16 (fld t 0x16 2)).map readTemplate,
    charset := sliceOf t (fld t 0x28 4) 576, names := t.drop (fld t 0x2C 4),
    macKey := fld t 0x30 2, macAlg := fld t 0x32 1, macLen := fld t 0x33 1, macFid := fld t 0x34 2,
    rspKib := fld t 0x36 2, macPad := fld t 0x3C 1 }

/-- STRICT. -/
def Dialect.strict (d : Dialect) : Bool := bitAt d.flags 0
/-- UTF8: no character table is used. -/
def Dialect.utf8 (d : Dialect) : Bool := bitAt d.flags 1
/-- An ISO 20022 dialect. -/
def Dialect.xml (d : Dialect) : Bool := d.kind == 2
/-- The heap of a record starts here (R69). -/
def Dialect.heap (d : Dialect) : Nat := roundUp (0x40 + 4 * d.fieldMax) 8
/-- The descriptor of a field number. -/
def Dialect.byNum (d : Dialect) (n : Nat) : Option FDesc := d.fields.find? fun f => f.num == n
/-- The descriptor of a FID. -/
def Dialect.byFid (d : Dialect) (n : Nat) : Option FDesc := d.fields.find? fun f => f.fid == n
/-- The path entry of a FID. -/
def Dialect.pathFid (d : Dialect) (n : Nat) : Option PathEnt := d.paths.find? fun p => p.fid == n
/-- The path string of an entry. -/
def Dialect.pathName (d : Dialect) (p : PathEnt) : List Byte := (d.names.drop p.nameOff).take p.nameLen
/-- The envelope's name: the first name string (R64; log 25: it ends with a zero byte). -/
def Dialect.envelope (d : Dialect) : List Byte := d.names.takeWhile fun b => b != 0
/-- FIDs that a descriptor or a path entry names. -/
def Dialect.fids (d : Dialect) : List Nat := d.fields.map (·.fid) ++ d.paths.map (·.fid)
/-- FIDs of the echo fields; the header field is echoed. -/
def Dialect.echoes (d : Dialect) (fid : Nat) : Bool :=
  fid == 0 || (d.fields.any fun f => f.fid == fid && bitAt f.flags 1) ||
    d.paths.any fun p => p.fid == fid && bitAt p.flags 1

/-! ## The checks of a load (R57, R59, R74) -/

/-- Four BCD digits (log 25). -/
def bcd4 (x : Nat) : Bool := (List.range 4).all fun i => decide (bitsOf x (4 * i) 4 ≤ 9)

/-- CANON codes that a DATA code allows (R59). -/
def canonsOf (data : Nat) : List Nat :=
  match data with
  | 1 => [2, 3] | 2 => [2, 3] | 3 => [2, 3] | 4 => [3] | 5 => [3] | 6 => [1] | 7 => [1] | 8 => [0] | 9 => [1]
  | 10 => [2] | _ => []

/-- A header whose fields lie in their ranges. -/
def Dialect.headerOk (d : Dialect) (t : List Byte) : Bool :=
  decide (d.magic = 0x45574431 ∧ 1 ≤ d.kind ∧ d.kind ≤ 2 ∧ d.version ≤ (if d.kind = 2 then 0 else 2) ∧ d.mtiForm ≤ 2 ∧
    d.bitmapForm ≤ 2 ∧ 1 ≤ d.bitmapMax ∧ d.bitmapMax ≤ 3 ∧ d.hdrLen ≤ 64 ∧ d.flags ≤ 3) &&
  decide (1 ≤ d.fieldMax ∧ d.fieldMax ≤ 1024 ∧ 1 ≤ d.routes.length ∧ d.routes.length ≤ 256 ∧ 3 ≤ d.templates.length ∧
    d.macAlg ≤ 3 ∧ 4 ≤ d.macLen ∧ d.macLen ≤ 32 ∧ d.rspKib ≤ 64) &&
  bcd4 d.rspMtiAdd && decide (d.macPad ≤ (if d.macAlg = 2 then 2 else 0) ∧ fld t 0x3D 3 = 0)

/-- Every area lies within TABLE_SIZE. -/
def Dialect.areasOk (d : Dialect) (t : List Byte) : Bool :=
  let size := tableSize t
  decide (64 ≤ size ∧ fld t 0x18 4 + 16 * d.fields.length ≤ size ∧ fld t 0x1C 4 + 8 * d.routes.length ≤ size ∧
    fld t 0x24 4 + 16 * d.templates.length ≤ size) &&
  (d.utf8 || decide (fld t 0x28 4 + 576 ≤ size)) &&
  (if d.xml then
     decide (fld t 0x20 4 + 16 * d.paths.length ≤ size ∧ fld t 0x2C 4 ≤ size) &&
       d.paths.all fun p => decide (p.nameOff + p.nameLen ≤ size - fld t 0x2C 4)
   else d.paths.isEmpty)

/-- The largest length that a prefix can write (R58). -/
def prefixMax (form n : Nat) : Nat := if form = 3 then 2 ^ (8 * n) - 1 else 10 ^ n - 1

/-- One field descriptor (R57, R58, R59). -/
def Dialect.descOk (d : Dialect) (f : FDesc) : Bool :=
  decide (1 ≤ f.fid ∧ f.fid < d.fieldMax ∧ 2 ≤ f.num ∧ f.num ≤ 192 ∧ f.pre ≤ 4 ∧ f.form ≤ 3 ∧ f.flags ≤ 15 ∧
    f.reserved = 0 ∧ f.min ≤ f.max) &&
  (f.num != 65 || d.bitmapMax == 3) && (canonsOf f.data).contains f.canon &&
  (f.pre == 0 || decide (f.max ≤ prefixMax f.form f.pre))

/-- One path entry; a PARENT that is not 0xFFFF names an entry (log 25). -/
def Dialect.pathOk (d : Dialect) (p : PathEnt) : Bool :=
  decide (1 ≤ p.fid ∧ p.fid < d.fieldMax ∧ p.canon ≤ 3 ∧ 1 ≤ p.repeat_ ∧ p.repeat_ ≤ 4096 ∧ p.flags ≤ 7) &&
  decide (p.parent = 0xFFFF ∨ p.parent < d.paths.length)

/-- No value occurs twice. -/
def noRepeat (l : List Nat) : Bool := decide l.Nodup

/-- Strictly ascending numbers. -/
def ascending : List Nat → Bool
  | a :: b :: t => decide (a < b) && ascending (b :: t)
  | _ => true

/-- MAC bytes that an algorithm produces. -/
def macMax (alg : Nat) : Nat := match alg with | 1 => 16 | 2 => 8 | _ => 32

/-- The MAC field (R57, R73). -/
def Dialect.macOk (d : Dialect) : Bool :=
  d.macAlg == 0 || (decide (d.macLen ≤ macMax d.macAlg) &&
    (if d.xml then (match d.pathFid d.macFid with | some p => p.canon == 1 && p.repeat_ == 1 | none => false)
     else match d.byFid d.macFid with
       | some f => f.data == 8 && decide (f.min ≤ d.macLen ∧ d.macLen ≤ f.max)
       | none => false))

/-- One template; CODE_FID and REASON_FID are zero or a field of the dialect. KIND 2 ignores MTI_ADD (R66). -/
def Dialect.templateOk (d : Dialect) (x : Template) : Bool :=
  (d.xml || bcd4 x.mtiAdd) && decide (x.flags ≤ 1 ∧ x.reserved = 0) && (x.codeFid == 0 || d.fids.contains x.codeFid) &&
    (x.reasonFid == 0 || d.fids.contains x.reasonFid)

/-- The largest canonical length of a field: an amount is 10 bytes, and a character of a character table takes up to two
bytes of UTF-8 (R59, R62). -/
def Dialect.fieldMaxLen (d : Dialect) (f : FDesc) : Nat :=
  if f.canon = 3 then 10 else if f.data = 6 ∧ !d.utf8 then 2 * f.max else f.max

/-- The largest value of one item of a path entry. -/
def PathEnt.itemMax (p : PathEnt) : Nat := if p.canon = 3 then 10 else Config.pathMaxLen p.canon

/-- Bytes of the initialised response record at its largest (R57, R71). -/
def Dialect.rspNeed (d : Dialect) : Nat :=
  d.heap + roundUp d.hdrLen 8 +
    ((d.fields.filter fun f => bitAt f.flags 1).map fun f => roundUp (d.fieldMaxLen f) 8).sum +
    ((d.paths.filter fun p => bitAt p.flags 1).map fun p =>
      roundUp (if p.repeat_ = 1 then p.itemMax else p.repeat_ * (2 + p.itemMax)) 8).sum

/-- The response record area (R57, R67). -/
def Dialect.rspSize (d : Dialect) (rspBytes : Nat) : Nat := if d.rspKib = 0 then rspBytes else 1024 * d.rspKib

/-- The echo bound of R74. -/
def Dialect.echoBound (d : Dialect) : Nat :=
  ((d.fields.filter fun f => bitAt f.flags 1).map fun f => f.max).sum +
    ((d.paths.filter fun p => bitAt p.flags 1).map fun p => p.repeat_ * p.itemMax).sum

/-- Whether a dialect table loads (R57), under an XLT_REC.RSP_BYTES; `t` is its TABLE_SIZE bytes. -/
def dialectOk (t : List Byte) (rspBytes : Nat) : Bool :=
  let d := readDialect t
  d.headerOk t && d.areasOk t && d.fields.all d.descOk && ascending (d.fields.map (·.num)) && d.paths.all d.pathOk &&
    noRepeat d.fids && (d.routes.all fun r => decide (r.flags ≤ 1) && r.reserved == 0) && d.templates.all d.templateOk && d.macOk &&
    decide (d.rspNeed ≤ d.rspSize rspBytes ∧ d.echoBound ≤ 4096)

/-! ## The route map (R61) -/

/-- Whether a route entry matches a key: 0xFF any processing code, version 0 any version, VALID 0 never. -/
def RouteEnt.matches_ (r : RouteEnt) (key : Nat) : Bool :=
  bitAt r.flags 0 && r.key / 2 ^ 16 == key / 2 ^ 16 &&
    (bitsOf r.key 8 8 == 0xFF || bitsOf r.key 8 8 == bitsOf key 8 8) &&
    (r.key % 256 == 0 || r.key % 256 == key % 256)

/-- The program of a key: the first entry that matches. -/
def Dialect.route (d : Dialect) (key : Nat) : Option Nat := (d.routes.find? fun r => r.matches_ key).map (·.prog)

end Sys2Proof.Machine
end

