-- ==== Sys2Proof/Machine/Iso8583.lean ====
section
/-! DEFINITION. ISO 8583 messages (R60 to R63, R72, R74): reading a request field by field, and writing a response. -/

namespace Sys2Proof.Machine

/-- An XLT error (the table *XLT error codes*): its code, the offset at which it was found, and the field. -/
structure XErr where
  code : Nat
  off : Nat
  fid : Nat
  deriving DecidableEq, Repr

/-- Field values in canonical form by FID. -/
abbrev Vals : Type := List (Nat × List Byte)

/-- What reading a request gives: the header bytes and fields read, the MTI, MACIN_LEN, whether values were skipped, and
the error that stopped it. -/
structure Parsed where
  vals : Vals
  mti : Option Nat
  macin : Nat
  skipped : Bool
  err : Option XErr
  deriving DecidableEq, Repr

/-! ## Digits -/

/-- A decimal digit in ASCII or EBCDIC. -/
def charDigit (ebcdic : Bool) (b : Byte) : Option Nat :=
  let z := if ebcdic then 0xF0 else 0x30
  if z ≤ b.toNat ∧ b.toNat ≤ z + 9 then some (b.toNat - z) else none

/-- A hexadecimal digit in ASCII or EBCDIC (R60). -/
def charHex (ebcdic : Bool) (b : Byte) : Option Nat :=
  let u := if ebcdic then 0xC1 else 0x41
  let l := if ebcdic then 0x81 else 0x61
  match charDigit ebcdic b with
  | some v => some v
  | none =>
    if u ≤ b.toNat ∧ b.toNat ≤ u + 5 then some (b.toNat - u + 10)
    else if l ≤ b.toNat ∧ b.toNat ≤ l + 5 then some (b.toNat - l + 10) else none

/-- All the values of a list, or none. -/
def allSome : List (Option Nat) → Option (List Nat)
  | [] => some []
  | none :: _ => none
  | some a :: t => (allSome t).map fun l => a :: l

/-- The number that digits of a base stand for. -/
def numberOf (base : Nat) (ds : List Nat) : Nat := ds.foldl (fun a d => base * a + d) 0

/-- The index of the first absent value. -/
def firstNone (l : List (Option Nat)) : Nat := (l.takeWhile fun x => x.isSome).length

/-- The BCD sum of two four-digit numbers, modulo 10,000 (R66, R71). -/
def bcdAdd (a b : Nat) : Nat :=
  let v (x : Nat) : Nat := numberOf 10 ((List.range 4).reverse.map fun i => bitsOf x (4 * i) 4)
  numberOf 16 (digitsOf 4 (v a + v b))

/-! ## The head of a message -/

/-- The MTI: the position after it and four BCD digits. -/
def isoMti (d : Dialect) (raw : List Byte) : Except XErr (Nat × Nat) :=
  let n := if d.mtiForm = 2 then 2 else 4
  let bs := (raw.drop d.hdrLen).take n
  if bs.length < n then .error { code := 0x20, off := raw.length, fid := 0 }
  else
    let ds := if d.mtiForm = 2 then (nibbles bs).map (fun x => if x ≤ 9 then some x else none)
      else bs.map (charDigit (d.mtiForm == 1))
    match allSome ds with
    | some l => .ok (d.hdrLen + n, numberOf 16 l)
    | none => .error { code := 0x22, off := d.hdrLen, fid := 0 }

/-- Characters of one bitmap. -/
def bitmapLen (d : Dialect) : Nat := if d.bitmapForm = 0 then 8 else 16

/-- One bitmap as a 64-bit number (R60). -/
def isoBitmap (d : Dialect) (raw : List Byte) (pos : Nat) : Except XErr Nat :=
  let bs := (raw.drop pos).take (bitmapLen d)
  if bs.length < bitmapLen d then .error { code := 0x20, off := raw.length, fid := 0 }
  else if d.bitmapForm = 0 then .ok (beNat bs)
  else match allSome (bs.map (charHex (d.bitmapForm == 2))) with
    | some l => .ok (numberOf 16 l)
    | none => .error { code := 0x23, off := pos, fid := 0 }

/-- Bit 1 of a bitmap, the most significant, announces the next one in the primary bitmap, and in the secondary when
BITMAP_MAX is 3 (R60). -/
def announces (d : Dialect) (k m : Nat) : Bool := bitAt m 63 && (k == 0 || (k == 1 && d.bitmapMax == 3))

/-- The bitmaps from a position on: the position after them and each with where it stands. -/
def isoBitmaps (d : Dialect) (raw : List Byte) : Nat → Nat → Nat → Except XErr (Nat × List (Nat × Nat))
  | 0, _, pos => .ok (pos, [])
  | n + 1, k, pos =>
    match isoBitmap d raw pos with
    | .error e => .error e
    | .ok m =>
      let next := pos + bitmapLen d
      if announces d k m then
        if d.bitmapMax ≤ k + 1 then .error { code := 0x23, off := pos, fid := 0 }
        else match isoBitmaps d raw n (k + 1) next with
          | .error e => .error e
          | .ok (p, l) => .ok (p, (m, pos) :: l)
      else .ok (next, [(m, pos)])

/-- Field numbers that bitmap `k` names. -/
def bitmapFields (d : Dialect) (k m : Nat) : List Nat :=
  ((List.range 64).filter fun i => bitAt m (63 - i) && !(i == 0 && announces d k m)).map fun i => 64 * k + i + 1

/-- The field numbers that the bitmaps name, each with the position of its bitmap. -/
def namedFields (d : Dialect) : Nat → List (Nat × Nat) → List (Nat × Nat)
  | _, [] => []
  | k, p :: t => (bitmapFields d k p.1).map (fun n => (n, p.2)) ++ namedFields d (k + 1) t

/-- MTI and bitmaps: the position after them, the MTI, and the fields named. `every` asks for a descriptor of each
(R60). -/
def isoHead (d : Dialect) (raw : List Byte) (every : Bool) : Except XErr (Nat × Nat × List Nat) :=
  match isoMti d raw with
  | .error e => .error e
  | .ok (p, mti) =>
    match isoBitmaps d raw 3 0 p with
    | .error e => .error e
    | .ok (q, ms) =>
      let l := namedFields d 0 ms
      match (if every then l.find? fun x => (d.byNum x.1).isNone else none) with
      | some x => .error { code := 0x23, off := x.2, fid := 0 }
      | none => .ok (q, mti, l.map (·.1))

/-! ## Where a field lies (R58) -/

/-- BCD data: two digits to a byte. -/
def bcdData (data : Nat) : Bool := data == 3 || data == 10

/-- Bytes of a length prefix. -/
def prefixLen (f : FDesc) : Nat := if f.form = 2 then (f.pre + 1) / 2 else f.pre

/-- The length that prefix bytes give; none if they are not valid in their form. -/
def readPrefix (f : FDesc) (bs : List Byte) : Option Nat :=
  if f.form = 3 then some (beNat bs)
  else if f.form = 2 then
    let ns := nibbles bs
    if f.pre % 2 = 1 ∧ ns.headD 0 ≠ 0 then none else digitsVal ns
  else (allSome (bs.map (charDigit (f.form == 1)))).map (numberOf 10)

/-- The start of a field's data, its bytes and its length in the units of MAXLEN, wherever the message ends. -/
def isoStart (raw : List Byte) (pos : Nat) (f : FDesc) : Except XErr (Nat × Nat × Nat) :=
  let pn := if f.pre = 0 then 0 else prefixLen f
  let bs := (raw.drop pos).take pn
  if bs.length < pn then .error { code := 0x20, off := pos, fid := f.fid }
  else match (if f.pre = 0 then some f.max else readPrefix f bs) with
    | none => .error { code := 0x24, off := pos, fid := f.fid }
    | some n =>
      if f.pre ≠ 0 ∧ (n < f.min ∨ f.max < n) then .error { code := 0x24, off := pos, fid := f.fid }
      else .ok (pos + pn, if bcdData f.data then (n + 1) / 2 else n, n)

/-- The extent of a field that the message holds whole. -/
def isoExtent (raw : List Byte) (pos : Nat) (f : FDesc) : Except XErr (Nat × Nat × Nat) :=
  match isoStart raw pos f with
  | .error e => .error e
  | .ok (a, nb, n) =>
    if raw.length < a + nb then .error { code := 0x20, off := pos, fid := f.fid } else .ok (a, nb, n)

/-! ## Canonical forms (R59, R62, R63) -/

/-- The first byte at which UTF-8 is not well-formed (R62). -/
def utf8Bad : Nat → Nat → List Nat → Option Nat
  | 0, _, _ => none
  | _, _, [] => none
  | fuel + 1, i, b :: t =>
    let n := utf8Len b
    if n = 0 ∨ (utf8Decode ((b :: t).take n)).isNone then some i else utf8Bad fuel (i + n) ((b :: t).drop n)

/-- The first ill-formed byte of a text. -/
def utf8Error (bs : List Byte) : Option Nat := utf8Bad (bs.length + 1) 0 (bs.map BitVec.toNat)

/-- The code points of well-formed UTF-8. -/
def codePoints : Nat → List Nat → List Nat
  | 0, _ => []
  | _, [] => []
  | fuel + 1, b :: t =>
    let n := max 1 (utf8Len b)
    (utf8Decode ((b :: t).take n)).getD 0 :: codePoints fuel ((b :: t).drop n)

/-- The code points of a text. -/
def textPoints (bs : List Byte) : List Nat := codePoints (bs.length + 1) (bs.map BitVec.toNat)

/-- A bit of a validity bitmap of the character table (R62). -/
def charOk (d : Dialect) (at_ v : Nat) : Bool := bitAt (fld d.charset (at_ + v / 8) 1) (v % 8)

/-- Text on input, at message offset `off` (R59, R62). -/
def textIn (d : Dialect) (f : FDesc) (data : List Byte) (off : Nat) : Except XErr (List Byte) :=
  let bad (i : Nat) : Except XErr (List Byte) := .error { code := 0x26, off := off + i, fid := f.fid }
  if f.data = 9 then
    match data.findIdx? fun b => !(decide (0x20 ≤ b.toNat) && decide (b.toNat ≤ 0x7E)) with
    | some i => bad i
    | none => .ok data
  else if f.data = 7 ∨ d.utf8 then
    match utf8Error data with
    | some i => bad i
    | none => .ok data
  else match data.findIdx? fun b => !charOk d 512 b.toNat with
    | some i => bad i
    | none => .ok (data.flatMap fun b => utf8Small (fld d.charset b.toNat 1))

/-- A 10-byte amount (R59). -/
def amountBytes (neg : Bool) (v : Nat) : List Byte := packNibbles (digitsOf 19 v ++ [if neg then 0xD else 0xC])

/-- The nibbles of a BCD field without its pad nibble; none if the pad is not zero (R63). -/
def bcdNibbles (f : FDesc) (data : List Byte) (n : Nat) : Option (List Nat) :=
  let ns := nibbles data
  if n % 2 = 0 then some ns
  else if bitAt f.flags 3 then (if ns.getLastD 0 = 0 then some ns.dropLast else none)
  else if ns.headD 0 = 0 then some (ns.drop 1) else none

/-- Canonical digits of a value, `=` for the separator of DATA 0x0A, with the sign of a signed amount (R59, R63). -/
def digitsIn (f : FDesc) (data : List Byte) (n off : Nat) : Except XErr (Bool × List (Option Nat)) :=
  let bad (i : Nat) : Except XErr (Bool × List (Option Nat)) := .error { code := 0x25, off := off + i, fid := f.fid }
  if bcdData f.data then
    match bcdNibbles f data n with
    | none => bad 0
    | some ns =>
      match ns.findIdx? fun x => decide (9 < x) && !(f.data == 10 && x == 0xD) with
      | some i => bad ((i + (if n % 2 = 1 ∧ !bitAt f.flags 3 then 1 else 0)) / 2)
      | none => .ok (false, ns.map fun x => if x = 0xD then none else some x)
  else
    let eb := f.data == 2 || f.data == 5
    let signed := f.data == 4 || f.data == 5
    let c := (data.headD 0).toNat
    let neg := c == (if eb then 0xC4 else 0x44)
    if signed && !(neg || c == (if eb then 0xC3 else 0x43)) then bad 0
    else
      let ds := (if signed then data.drop 1 else data).map (charDigit eb)
      if ds.all fun x => x.isSome then .ok (signed && neg, ds) else bad (b2n signed + firstNone ds)

/-- The canonical form of a field's data (R59). -/
def canonIn (d : Dialect) (f : FDesc) (data : List Byte) (n off : Nat) : Except XErr (List Byte) :=
  if f.canon = 0 then .ok data
  else if f.canon = 1 then textIn d f data off
  else match digitsIn f data n off with
    | .error e => .error e
    | .ok (neg, ds) =>
      if f.canon = 2 then .ok (ds.map fun x => match x with | some v => byte (0x30 + v) | none => 0x3D)
      else
        let v := numberOf 10 (ds.map fun x => x.getD 0)
        if 10 ^ 19 ≤ v then .error { code := 0x2A, off := off, fid := f.fid } else .ok (amountBytes neg v)

/-! ## Reading a request -/

/-- The fields of a message in order. A full parse converts every field and stops at the first error; an echo scan
converts the echo fields alone, leaves out those with an error, and stops where it cannot find the end of a field
(R74). -/
def isoFields (d : Dialect) (raw : List Byte) (full : Bool) : List Nat → Nat → Parsed → Parsed × Nat
  | [], pos, r => (r, pos)
  | n :: t, pos, r =>
    match d.byNum n with
    | none => ({ r with err := some { code := 0x23, off := pos, fid := 0 } }, pos)
    | some f =>
      match isoExtent raw pos f with
      | .error e => ({ r with err := some e }, pos)
      | .ok (start, nb, len) =>
        let next := start + nb
        if full || bitAt f.flags 1 then
          match canonIn d f ((raw.drop start).take nb) len start with
          | .error e => if full then ({ r with err := some e }, pos) else isoFields d raw full t next r
          | .ok v =>
            if 65535 < v.length then
              (if full then ({ r with err := some { code := 0x2B, off := start, fid := f.fid } }, pos)
               else isoFields d raw full t next r)
            else
              isoFields d raw full t next
                { r with vals := r.vals ++ [(f.fid, v)],
                         macin := (if d.macAlg ≠ 0 ∧ f.fid = d.macFid then start else r.macin) }
        else isoFields d raw full t next r

/-- The header field FID 0 of a message that is long enough. -/
def headerVal (d : Dialect) (raw : List Byte) : Vals :=
  if d.hdrLen ≠ 0 ∧ d.hdrLen ≤ raw.length then [(0, raw.take d.hdrLen)] else []

/-- Reads a request in full, or scans it for its echo fields (R60, R74, R76). -/
def isoParse (d : Dialect) (raw : List Byte) (full : Bool) : Parsed :=
  let r0 : Parsed := { vals := headerVal d raw, mti := none, macin := 0, skipped := false, err := none }
  match isoHead d raw true with
  | .error e => { r0 with mti := (match isoMti d raw with | .ok p => some p.2 | .error _ => none), err := some e }
  | .ok (pos, mti, l) =>
    let (r, q) := isoFields d raw full l pos { r0 with mti := some mti }
    if !full || r.err.isSome then r
    else if q < raw.length then { r with err := some { code := 0x21, off := q, fid := 0 } }
    else match d.fields.find? fun f => bitAt f.flags 0 && (r.vals.lookup f.fid).isNone with
      | some f => { r with err := some { code := 0x27, off := raw.length, fid := f.fid } }
      | none => r

/-- The digits that two characters or the nibbles after a pad nibble hold, in the wire form of a field that holds digits
(R59). -/
def leadDigits (f : FDesc) (n : Nat) (data : List Byte) : List (Option Nat) :=
  if bcdData f.data then
    ((nibbles (data.take 2)).drop (if n % 2 = 1 ∧ !bitAt f.flags 3 then 1 else 0)).map fun x =>
      if x ≤ 9 then some x else none
  else (data.take 2).map (charDigit (f.data == 2))

/-- The first two digits of field 3; none if they cannot be read. What follows them is not read (R61). -/
def isoCode (d : Dialect) (raw : List Byte) (pos : Nat) : Option Nat :=
  match d.byNum 3 with
  | none => none
  | some f =>
    match isoStart raw pos f with
    | .error _ => none
    | .ok (start, _, n) =>
      if n < 2 ∨ !([1, 2, 3].contains f.data) then none
      else match leadDigits f n (raw.drop start) with
        | some a :: some b :: _ => some (16 * a + b)
        | _ => none

/-- The message-type key as the classifier reads it (R61): MTI, bitmaps and the length prefix of field 2. -/
def isoKey (d : Dialect) (raw : List Byte) : Option Nat :=
  match isoHead d raw false with
  | .error _ => none
  | .ok (pos, mti, l) =>
    if !l.contains 3 then some (mti * 2 ^ 16 + 0xEE00)
    else
      let start : Option Nat :=
        if l.contains 2 then
          match d.byNum 2 with
          | none => none
          | some f => match isoExtent raw pos f with
            | .ok (a, n, _) => some (a + n)
            | .error _ => none
        else some pos
      match start with
      | none => none
      | some p => (isoCode d raw p).map fun c => mti * 2 ^ 16 + c * 2 ^ 8

/-! ## Writing a response (R62, R63, R72) -/

/-- Wire bytes of a field and how many characters were substituted. -/
structure Wire where
  pre : List Byte
  data : List Byte
  subst : Nat
  deriving DecidableEq, Repr

/-- Characters on output with the count of those that SUBST replaces (R59, R62). -/
def textOut (d : Dialect) (f : FDesc) (v : List Byte) : List Byte × Nat :=
  let pick (ok : Nat → Bool) (out : Nat → Byte) : List Byte × Nat :=
    let ps := textPoints v
    (ps.map fun p => if ok p then out p else byte d.subst, ps.countP fun p => !ok p)
  if f.data = 9 then pick (fun p => decide (0x20 ≤ p ∧ p ≤ 0x7E)) byte
  else if f.data = 7 ∨ d.utf8 then (v, 0)
  else pick (fun p => decide (p ≤ 0xFF) && charOk d 544 p) fun p => byte (fld d.charset (256 + p) 1)

/-- Digits on the wire; 10 stands for the separator. -/
def digitsOut (f : FDesc) (ds : List Nat) : List Byte :=
  if bcdData f.data then
    let ns := ds.map fun x => if x = 10 then 0xD else x
    packNibbles (if ns.length % 2 = 0 then ns else if bitAt f.flags 3 then ns ++ [0] else 0 :: ns)
  else ds.map fun x => byte ((if f.data = 2 ∨ f.data = 5 then 0xF0 else 0x30) + x)

/-- The length prefix (R58). -/
def prefixOut (f : FDesc) (n : Nat) : List Byte :=
  if f.pre = 0 then []
  else if f.form = 3 then beBytes f.pre n
  else if f.form = 2 then packNibbles (digitsOf (f.pre + f.pre % 2) n)
  else (digitsOf f.pre n).map fun x => byte ((if f.form = 1 then 0xF0 else 0x30) + x)

/-- Decimal digits of a number, at least one. -/
def decDigits (n : Nat) : List Nat :=
  let l := (digitsOf 40 n).dropWhile fun x => x == 0
  if l.isEmpty then [0] else l

/-- Zeros before digits up to a count. -/
def padLeft (n : Nat) (ds : List Nat) : List Nat := List.replicate (n - ds.length) 0 ++ ds

/-- An amount on output (R63): the error code, or the wire data and its length in the descriptor's units. -/
def amountOut (f : FDesc) (v : List Byte) : Except Nat (List Byte × Nat) :=
  let sg := b2n (f.data == 4 || f.data == 5)
  if v.length ≠ 10 then .error 0x31
  else
    let ns := nibbles v
    match digitsVal ns.dropLast with
    | none => .error 0x32
    | some m =>
      let last := ns.getLastD 0
      if last ≠ 0xC ∧ last ≠ 0xD then .error 0x32
      else
        let neg := last == 0xD && m != 0
        let ds := decDigits m
        if neg && sg == 0 then .error 0x32
        else if f.max < ds.length + sg then .error 0x31
        else
          let n := if f.pre = 0 then f.max - sg else max ds.length (f.min - sg)
          let data := digitsOut f (padLeft n ds)
          let sign := byte (if f.data = 5 then (if neg then 0xC4 else 0xC3) else if neg then 0x44 else 0x43)
          .ok (if sg = 1 then sign :: data else data, n + sg)

/-- Canonical digits as numbers, 10 for `=`; none for any other character. -/
def digitVals (f : FDesc) (v : List Byte) : Option (List Nat) :=
  allSome (v.map fun b => if f.data = 10 ∧ b = 0x3D then some 10 else charDigit false b)

/-- A fixed text padded on the right with PAD, a canonical character (R58, R72). -/
def padText (d : Dialect) (f : FDesc) (data : List Byte) : List Byte × Nat :=
  let (p, n) := textOut d f (utf8Small f.pad)
  let k := if p.length = 0 then 0 else (f.max - data.length) / p.length
  (data ++ (List.replicate k p).flatten, k * n)

/-- One field on the wire (R72): the error code of a value that cannot be written. -/
def fieldOut (d : Dialect) (f : FDesc) (v : List Byte) : Except Nat Wire :=
  let done (data : List Byte) (n sub : Nat) : Except Nat Wire := .ok { pre := prefixOut f n, data := data, subst := sub }
  if f.canon = 3 then
    match amountOut f v with
    | .error e => .error e
    | .ok (data, n) => done data n 0
  else if f.canon = 2 then
    match digitVals f v with
    | none => .error 0x32
    | some ds =>
      if ds.length < f.min ∨ f.max < ds.length then .error 0x31
      else if f.pre = 0 then done (digitsOut f (padLeft f.max ds)) f.max 0
      else done (digitsOut f ds) ds.length 0
  else if f.canon = 1 ∧ (utf8Error v).isSome then .error 0x32
  else
    let (data, sub) := if f.canon = 1 then textOut d f v else (v, 0)
    if data.length < f.min ∨ f.max < data.length then .error 0x31
    else if f.pre ≠ 0 then done data data.length sub
    else if f.canon = 1 then
      let (p, n) := padText d f data
      done p p.length (sub + n)
    else done (sliceOf data 0 f.max) f.max sub

/-- The MTI on the wire; none if it is not four digits. -/
def mtiOut (d : Dialect) (mti : Nat) : Option (List Byte) :=
  if bcd4 mti then
    some (if d.mtiForm = 2 then beBytes 2 mti
      else ((List.range 4).reverse.map fun i =>
        byte ((if d.mtiForm = 1 then 0xF0 else 0x30) + bitsOf mti (4 * i) 4)))
  else none

/-- One bitmap on the wire, its letters in uppercase (R60). -/
def bitmapOut (d : Dialect) (m : Nat) : List Byte :=
  if d.bitmapForm = 0 then beBytes 8 m
  else ((List.range 16).reverse.map fun i =>
    let x := bitsOf m (4 * i) 4
    byte (if d.bitmapForm = 2 then (if x < 10 then 0xF0 + x else 0xC1 + x - 10)
          else if x < 10 then 0x30 + x else 0x41 + x - 10))

/-- The bitmaps of the fields present (R72): a further one only when a field in its range is present. -/
def bitmapsOut (d : Dialect) (nums : List Nat) : List Byte :=
  let has (k : Nat) : Bool := nums.any fun n => decide (64 * k < n ∧ n ≤ 64 * k + 64)
  let third := has 2
  let second := has 1 || third
  let m (k : Nat) : Nat :=
    (nums.filter fun n => decide (64 * k < n ∧ n ≤ 64 * k + 64)).foldl (fun a n => a ||| 2 ^ (63 - (n - 64 * k - 1))) 0
  bitmapOut d (m 0 ||| (if second then 2 ^ 63 else 0)) ++
    (if second then bitmapOut d (m 1 ||| (if third then 2 ^ 63 else 0)) else []) ++
    (if third then bitmapOut d (m 2) else [])

/-- A serialised response: its bytes, where the MAC's data and the MTI start, and the characters substituted. -/
structure Serial where
  bytes : List Byte
  macAt : Option Nat
  mtiAt : Nat
  subst : Nat
  deriving DecidableEq, Repr

/-- The fields on the wire in ascending number: numbers present, bytes, where the MAC's data starts, characters
substituted. `strict` is a program's response; a templated one leaves out what cannot be written (log 25). `mac` asks
for the MAC field. -/
def fieldsOut (d : Dialect) (vals : Vals) (strict mac : Bool) :
    List FDesc → List Nat × List Byte × Option Nat × Nat → Except XErr (List Nat × List Byte × Option Nat × Nat)
  | [], r => .ok r
  | f :: t, (nums, bs, at_, sub) =>
    let isMac := d.macAlg != 0 && f.fid == d.macFid
    let val := if isMac then (if mac then some (zeros d.macLen) else none) else vals.lookup f.fid
    match val with
    | none =>
      if strict ∧ !isMac ∧ bitAt f.flags 2 then .error { code := 0x33, off := 0x40 + 4 * f.fid, fid := f.fid }
      else fieldsOut d vals strict mac t (nums, bs, at_, sub)
    | some v =>
      match fieldOut d f v with
      | .error e =>
        if strict then .error { code := e, off := 0, fid := f.fid }
        else fieldsOut d vals strict mac t (nums, bs, at_, sub)
      | .ok w =>
        fieldsOut d vals strict mac t (nums ++ [f.num], bs ++ w.pre ++ w.data,
          (if isMac then some (bs.length + w.pre.length) else at_), sub + w.subst)

/-- Writes an ISO 8583 response (R72), the data of its MAC field zero. -/
def isoSerialise (d : Dialect) (mti : Nat) (hdr : List Byte) (vals : Vals) (strict mac : Bool) : Except XErr Serial :=
  match mtiOut d mti with
  | none => .error { code := 0x32, off := 6, fid := 0 }
  | some mb =>
    match fieldsOut d vals strict mac d.fields ([], [], none, 0) with
    | .error e => .error e
    | .ok (nums, bs, at_, sub) =>
      let lead := hdr ++ mb ++ bitmapsOut d nums
      .ok { bytes := lead ++ bs, macAt := at_.map fun a => lead.length + a, mtiAt := hdr.length, subst := sub }

end Sys2Proof.Machine
end

