-- ==== Sys2Proof/Machine/Iso20022.lean ====
section
/-! DEFINITION. ISO 20022 messages (R61, R64, R65, R72, R73): the tokeniser, and writing a document. Log 25 holds the
readings of XML 1.0 that the rules leave to it. -/

namespace Sys2Proof.Machine

/-! ## Characters and names -/

/-- ASCII bytes of a literal. -/
def ascii (s : String) : List Byte := s.toList.map fun c => byte c.toNat

/-- White space of XML. -/
def xmlSpace (b : Byte) : Bool := b == 0x20 || b == 0x09 || b == 0x0A || b == 0x0D

/-- A code point that an XML document may hold. -/
def xmlChar (p : Nat) : Bool :=
  p == 9 || p == 10 || p == 13 || (decide (0x20 ≤ p) && decide (p ≤ 0xD7FF)) ||
    (decide (0xE000 ≤ p) && decide (p ≤ 0xFFFD)) || (decide (0x10000 ≤ p) && decide (p ≤ 0x10FFFF))

/-- A byte that begins a name. -/
def nameStart (b : Byte) : Bool :=
  let n := b.toNat
  (decide (0x41 ≤ n) && decide (n ≤ 0x5A)) || (decide (0x61 ≤ n) && decide (n ≤ 0x7A)) || n == 0x5F ||
    decide (0x80 ≤ n)

/-- A byte within a qualified name. -/
def nameByte (b : Byte) : Bool :=
  let n := b.toNat
  nameStart b || (decide (0x30 ≤ n) && decide (n ≤ 0x39)) || n == 0x2D || n == 0x2E || n == 0x3A

/-- UTF-8 of a code point. -/
def utf8Of (p : Nat) : List Byte :=
  if p < 0x800 then utf8Small p
  else if p < 0x10000 then bytesOf [0xE0 + p / 4096, 0x80 + p / 64 % 64, 0x80 + p % 64]
  else bytesOf [0xF0 + p / 262144, 0x80 + p / 4096 % 64, 0x80 + p / 64 % 64, 0x80 + p % 64]

/-- What follows the first occurrence of a pattern, with the bytes before it. -/
def splitOn (pat : List Byte) : List Byte → List Byte → Option (List Byte × List Byte)
  | _, [] => none
  | acc, b :: t =>
    if pat.isPrefixOf (b :: t) then some (acc.reverse, (b :: t).drop pat.length) else splitOn pat (b :: acc) t

/-- The bytes before a pattern and those after it. -/
def cutAt (pat bs : List Byte) : Option (List Byte × List Byte) := splitOn pat [] bs

/-- The prefix and the local part of a qualified name; none if it has two colons, an empty part or more than 64 bytes
(R64). -/
def splitName (n : List Byte) : Option (List Byte × List Byte) :=
  let p := n.takeWhile fun b => b != 0x3A
  let r := n.drop p.length
  if 64 < n.length ∨ n = [] then none
  else match r with
    | [] => some ([], n)
    | _ :: l => if p = [] ∨ l = [] ∨ l.contains 0x3A ∨ !nameStart (l.headD 0) then none else some (p, l)

/-- The code point of a numeric or predefined reference; none for any other (R64). -/
def xmlRef (r : List Byte) : Option Nat :=
  if r = ascii "amp" then some 0x26
  else if r = ascii "lt" then some 0x3C
  else if r = ascii "gt" then some 0x3E
  else if r = ascii "apos" then some 0x27
  else if r = ascii "quot" then some 0x22
  else match r with
    | a :: b :: t =>
      if a = 0x23 ∧ b = 0x78 then
        (if t = [] then none else ((allSome (t.map (charHex false))).map (numberOf 16)).filter xmlChar)
      else if a = 0x23 then ((allSome ((b :: t).map (charDigit false))).map (numberOf 10)).filter xmlChar
      else none
    | _ => none

/-- Character data with its references replaced and its line ends normalised; in an attribute white space becomes a
space. -/
def xmlText (attr : Bool) : Nat → List Byte → Option (List Byte)
  | 0, _ => some []
  | _, [] => some []
  | fuel + 1, b :: t =>
    if b = 0x26 then
      match cutAt [0x3B] t with
      | none => none
      | some (r, _) => match xmlRef r with
        | none => none
        | some p => (xmlText attr fuel (t.drop (r.length + 1))).map fun l => utf8Of p ++ l
    else if b = 0x0D then
      let t1 := if t.headD 0 = 0x0A then t.drop 1 else t
      (xmlText attr fuel t1).map fun l => (if attr then 0x20 else 0x0A) :: l
    else (xmlText attr fuel t).map fun l => (if attr && xmlSpace b then 0x20 else b) :: l

/-- Whether bytes are ill-formed UTF-8, which a full parse refuses and an echo scan only remembers (R62, R74), or characters
that XML does not allow: the error code, or whether they are ill-formed. -/
def badText (full : Bool) (bs : List Byte) : Except Nat Bool :=
  if (utf8Error bs).isSome then (if full then .error 0x26 else .ok true)
  else if !((textPoints bs).all xmlChar) then .error 0x28
  else .ok false

/-- The error code of character data, or its text and whether it is ill-formed. -/
def charData (full attr : Bool) (bs : List Byte) : Except Nat (List Byte × Bool) :=
  match badText full bs with
  | .error e => .error e
  | .ok bad => match xmlText attr (bs.length + 1) bs with
    | some l => .ok (l, bad)
    | none => .error 0x28

/-! ## Tags -/

/-- An attribute: its qualified name, its value as written and decoded, and whether it is ill-formed UTF-8. -/
structure XAttr where
  name : List Byte
  raw : List Byte
  text : List Byte
  bad : Bool
  deriving DecidableEq, Repr

/-- The attributes of a start tag: with the bytes after it, and whether it is an empty-element tag. -/
def lexAttrs (full : Bool) : Nat → List Byte → List XAttr → Except Nat (List XAttr × Bool × List Byte)
  | 0, _, _ => .error 0x28
  | fuel + 1, bs, acc =>
    let t := bs.dropWhile xmlSpace
    let spaced := decide (t.length < bs.length)
    match t with
    | 0x3E :: r => .ok (acc.reverse, false, r)
    | 0x2F :: 0x3E :: r => .ok (acc.reverse, true, r)
    | b :: _ =>
      if !spaced ∨ !nameStart b then .error 0x28
      else
        let n := t.takeWhile nameByte
        match (t.drop n.length).dropWhile xmlSpace with
        | 0x3D :: r =>
          match r.dropWhile xmlSpace with
          | q :: v =>
            if q ≠ 0x22 ∧ q ≠ 0x27 then .error 0x28
            else match cutAt [q] v with
              | none => .error 0x28
              | some (raw, rest) =>
                if raw.contains 0x3C ∨ (splitName n).isNone ∨ (acc.any fun a => a.name == n) then .error 0x28
                else match badText full n, charData full true raw with
                  | .error e, _ => .error e
                  | _, .error e => .error e
                  | .ok b, .ok x => lexAttrs full fuel rest ({ name := n, raw := raw, text := x.1, bad := b || x.2 } :: acc)
          | [] => .error 0x28
        | _ => .error 0x28
    | [] => .error 0x28

/-- An open element; `bad` once something in it is ill-formed UTF-8, which an echo scan passes over (R74). -/
structure XFrame where
  qname : List Byte
  local_ : List Byte
  path : List Byte
  start : Nat
  text : List Byte
  children : List (List Byte)
  ns : List (List Byte × List Byte)
  bad : Bool
  deriving DecidableEq, Repr

/-- The tokeniser's state: the open elements, whether the root is over, the items read by path entry, the namespace of
Document, whether a value was skipped, and the error that stopped it. -/
structure XRun where
  stack : List XFrame
  ended : Bool
  items : List (Nat × List Byte)
  docNs : Option (List Byte)
  skipped : Bool
  err : Option XErr
  deriving DecidableEq, Repr

/-- Stops with an error. -/
def XRun.fail (r : XRun) (code off fid : Nat) : XRun := { r with err := some { code := code, off := off, fid := fid } }

/-- An amount's text with SCALE fraction digits (R65): the sign and digits, the point, and at most SCALE digits after
it, padded with zeros. -/
def xmlAmount (scale : Nat) (t : List Byte) : Except Nat (List Byte) :=
  let neg := t.headD 0 == 0x2D
  let u := if neg ∨ t.headD 0 = 0x2B then t.drop 1 else t
  let ip := u.takeWhile fun b => b != 0x2E
  let fp := (u.drop ip.length).drop 1
  let bad := ip = [] ∨ (decide (ip.length < u.length) && fp.isEmpty)
  match allSome ((ip ++ fp).map (charDigit false)) with
  | none => .error 0x25
  | some ds =>
    if bad then .error 0x25
    else if scale < fp.length then .error 0x2A
    else
      let v := numberOf 10 ds * 10 ^ (scale - fp.length)
      if 10 ^ 19 ≤ v then .error 0x2A else .ok (amountBytes neg v)

/-- The canonical form of a value (R59, R65). -/
def pathIn (p : PathEnt) (raw text : List Byte) : Except Nat (List Byte) :=
  match p.canon with
  | 0 => .ok raw
  | 1 => .ok text
  | 2 => if text.all fun b => (charDigit false b).isSome then .ok text else .error 0x25
  | _ => xmlAmount p.scale text

/-- Bytes that the items of an entry take in the record. -/
def itemsLen (p : PathEnt) (items : List (Nat × List Byte)) : Nat :=
  ((items.filter fun x => x.1 == p.fid).map fun x => x.2.length + (if p.repeat_ = 1 then 0 else 2)).sum

/-- Takes the value at a path (R65). -/
def XRun.value (r : XRun) (d : Dialect) (full : Bool) (path raw text : List Byte) (off : Nat) : XRun :=
  match d.paths.find? fun p => d.pathName p == path with
  | none => if full && d.strict then r.fail 0x28 off 0 else { r with skipped := true }
  | some p =>
    if full || bitAt p.flags 1 then
      if p.repeat_ ≤ (r.items.countP fun x => x.1 == p.fid) then (if full then r.fail 0x29 off p.fid else r)
      else match pathIn p raw text with
        | .error e => if full then r.fail e off p.fid else r
        | .ok v =>
          if 65535 < itemsLen p (r.items ++ [(p.fid, v)]) then (if full then r.fail 0x2B off p.fid else r)
          else { r with items := r.items ++ [(p.fid, v)] }
    else r

/-- The namespace of an element or attribute name; none if its prefix is not declared. -/
def nsOf (ns : List (List Byte × List Byte)) (pre : List Byte) : Option (List Byte) :=
  if pre = ascii "xml" then some [] else if pre = [] then some ((ns.lookup []).getD []) else ns.lookup pre

/-- The namespace declarations of a tag. -/
def nsDecls (as_ : List XAttr) : List (List Byte × List Byte) :=
  as_.filterMap fun a =>
    if a.name = ascii "xmlns" then some ([], a.text)
    else if (ascii "xmlns:").isPrefixOf a.name then some (a.name.drop 6, a.text) else none

/-- Whether an element may stand where it does: the root is Document or the envelope, which holds AppHdr and then
Document (R64). -/
def placeOk (d : Dialect) (r : XRun) (name ns : List Byte) : Bool :=
  let env := d.envelope
  match r.stack with
  | [] => !r.ended && (name == ascii "Document" || (env != [] && name == env))
  | [f] =>
    if env ≠ [] ∧ f.local_ = env ∧ env ≠ ascii "Document" then
      (match f.children with
       | [] => name == ascii "AppHdr" && (ascii "urn:iso:std:iso:20022:tech:xsd:head.001.").isPrefixOf ns
       | [_] => name == ascii "Document"
       | _ => false)
    else true
  | _ => true

/-- White space alone. -/
def blank (t : List Byte) : Bool := t.all xmlSpace

/-- An element ends: its value is taken (R65). An element with child elements has a value of CANON 0 alone (log 25). -/
def XRun.close (r : XRun) (d : Dialect) (full : Bool) (raw : Nat → List Byte) : XRun :=
  match r.stack with
  | [] => r
  | f :: t =>
    let env := d.envelope
    let bare := f.local_ == env && t.isEmpty && env != ascii "Document"
    let up : List XFrame := match t with | g :: u => { g with bad := g.bad || f.bad } :: u | [] => []
    let r1 : XRun := { r with stack := up, ended := r.ended || t.isEmpty }
    if bare && f.children.length != 2 then r1.fail 0x28 f.start 0
    else if f.bad then r1
    else if f.children.isEmpty then r1.value d full f.path (raw f.start) f.text f.start
    else if (d.paths.any fun p => d.pathName p == f.path && p.canon == 0) then
      r1.value d full f.path (raw f.start) f.text f.start
    else if blank f.text then r1
    else if full && d.strict then r1.fail 0x28 f.start 0
    else { r1 with skipped := true }

/-- An element starts. -/
def XRun.open_ (r : XRun) (d : Dialect) (full : Bool) (q : List Byte) (as_ : List XAttr) (bad : Bool) (pos : Nat) : XRun :=
  match splitName q with
  | none => r.fail 0x28 pos 0
  | some (pre, name) =>
    let outer := match r.stack with | f :: _ => f.ns | [] => []
    let ns := nsDecls as_ ++ outer
    let plain := as_.filter fun a => !(a.name == ascii "xmlns" || (ascii "xmlns:").isPrefixOf a.name)
    let prefixed := plain.all fun a => match splitName a.name with
      | some (p, _) => p.isEmpty || (nsOf ns p).isSome
      | none => false
    match nsOf ns pre with
    | none => r.fail 0x28 pos 0
    | some uri =>
      if !prefixed ∨ 24 ≤ r.stack.length ∨ !placeOk d r name uri then r.fail 0x28 pos 0
      else
        let path := match r.stack with | f :: _ => f.path ++ [0x2F] ++ name | [] => name
        let up : List XFrame := match r.stack with
          | f :: t => { f with children := f.children ++ [name] } :: t
          | [] => []
        let fr : XFrame := { qname := q, local_ := name, path := path, start := pos, text := [], children := [],
                             ns := ns, bad := bad || as_.any fun a => a.bad }
        let r1 : XRun := { r with
          stack := fr :: up,
          docNs := (if r.docNs.isNone ∧ name = ascii "Document" then some uri else r.docNs) }
        plain.foldl (fun r a =>
          if r.err.isSome || a.bad then r
          else r.value d full (path ++ [0x40] ++ ((splitName a.name).map (·.2)).getD a.name) a.raw a.text pos) r1

/-- Character data within the open element; outside the root only white space may stand. -/
def XRun.chars (r : XRun) (text : List Byte) (bad : Bool) (pos : Nat) : XRun :=
  match r.stack with
  | [] => if blank text then r else r.fail 0x28 pos 0
  | f :: t => { r with stack := { f with text := f.text ++ text, bad := f.bad || bad } :: t }

/-- A byte of ASCII text in lower case. -/
def lowerByte (b : Byte) : Byte := if 0x41 ≤ b.toNat ∧ b.toNat ≤ 0x5A then b + 0x20 else b

/-- The XML declaration names UTF-8, in any case of its letters, if it names an encoding. -/
def declOk (c : List Byte) : Bool :=
  match cutAt (ascii "encoding") c with
  | none => true
  | some (_, e) =>
    match (e.dropWhile xmlSpace).dropWhile (fun b => b == 0x3D || xmlSpace b) with
    | q :: v => (q == 0x22 || q == 0x27) && (v.takeWhile fun b => b != q).map lowerByte == ascii "utf-8"
    | [] => false

/-- Runs the tokeniser over the rest of a document. -/
def xmlRun (d : Dialect) (full : Bool) (doc : List Byte) : Nat → List Byte → XRun → XRun
  | 0, _, r => r
  | fuel + 1, bs, r =>
    let pos := doc.length - bs.length
    let raw (rest : List Byte) (a : Nat) : List Byte := (doc.take (doc.length - rest.length)).drop a
    if r.err.isSome then r
    else match bs with
      | [] => if r.stack = [] ∧ r.ended then r else r.fail 0x28 pos 0
      | 0x3C :: 0x21 :: 0x2D :: 0x2D :: t =>
        match cutAt [0x2D, 0x2D] t with
        | some (x, 0x3E :: rest) =>
          match badText full x with
          | .error e => r.fail e pos 0
          | .ok bad => xmlRun d full doc fuel rest (if r.stack = [] then r else r.chars [] bad pos)
        | _ => r.fail 0x28 pos 0
      | 0x3C :: 0x21 :: t =>
        if (ascii "[CDATA[").isPrefixOf t ∧ r.stack ≠ [] then
          match cutAt (ascii "]]>") (t.drop 7) with
          | none => r.fail 0x28 pos 0
          | some (x, rest) =>
            match badText full x with
            | .error e => r.fail e pos 0
            | .ok bad => xmlRun d full doc fuel rest (r.chars x bad pos)
        else r.fail 0x28 pos 0
      | 0x3C :: 0x3F :: t =>
        match cutAt (ascii "?>") t with
        | some (c, rest) =>
          if pos = 0 ∧ (ascii "xml").isPrefixOf c ∧ xmlSpace ((c.drop 3).headD 0) ∧ declOk c then
            xmlRun d full doc fuel rest r
          else r.fail 0x28 pos 0
        | none => r.fail 0x28 pos 0
      | 0x3C :: 0x2F :: t =>
        let n := t.takeWhile nameByte
        match (t.drop n.length).dropWhile xmlSpace, r.stack with
        | 0x3E :: rest, f :: _ =>
          if f.qname = n then xmlRun d full doc fuel rest (r.close d full (raw rest)) else r.fail 0x28 pos 0
        | _, _ => r.fail 0x28 pos 0
      | 0x3C :: t =>
        let n := t.takeWhile nameByte
        if n = [] ∨ !nameStart (n.headD 0) then r.fail 0x28 pos 0
        else match badText full n, lexAttrs full (t.length + 1) (t.drop n.length) [] with
          | .error e, _ => r.fail e pos 0
          | _, .error e => r.fail e pos 0
          | .ok bad, .ok (as_, empty, rest) =>
            let r1 := r.open_ d full n as_ bad pos
            if empty ∧ r1.err.isNone then xmlRun d full doc fuel rest (r1.close d full (raw rest))
            else xmlRun d full doc fuel rest r1
      | _ =>
        let x := bs.takeWhile fun b => b != 0x3C
        if (cutAt (ascii "]]>") x).isSome then r.fail 0x28 pos 0
        else match charData full false x with
          | .error e => r.fail e pos 0
          | .ok (v, bad) => xmlRun d full doc fuel (bs.drop x.length) (r.chars v bad pos)

/-- The tokeniser's run over a document, a byte order mark before it left out. -/
def xmlDoc (d : Dialect) (full : Bool) (doc : List Byte) : XRun :=
  let bs := if (bytesOf [0xEF, 0xBB, 0xBF]).isPrefixOf doc then doc.drop 3 else doc
  xmlRun d full bs (bs.length + 2) bs { stack := [], ended := false, items := [], docNs := none, skipped := false,
                                        err := none }

/-- The value of a path entry from its items (R65). -/
def itemsValue (p : PathEnt) (items : List (Nat × List Byte)) : Option (List Byte) :=
  match items.filter fun x => x.1 == p.fid with
  | [] => none
  | x :: t => some (if p.repeat_ = 1 then x.2 else (x :: t).flatMap fun y => leBytes 2 y.2.length ++ y.2)

/-- Reads a document in full, or scans it for its echo fields (R64, R65, R74). -/
def xmlParse (d : Dialect) (raw : List Byte) (full : Bool) : Parsed :=
  let r := xmlDoc d full (raw.drop d.hdrLen)
  let vals := headerVal d raw ++ d.paths.filterMap fun p => (itemsValue p r.items).map fun v => (p.fid, v)
  let out : Parsed :=
    { vals := vals, mti := some 0, macin := 0, skipped := r.skipped,
      err := r.err.map fun e => { e with off := e.off + d.hdrLen } }
  if raw.length < d.hdrLen then { out with err := some { code := 0x20, off := raw.length, fid := 0 } }
  else if !full || out.err.isSome then out
  else match d.paths.find? fun p => bitAt p.flags 0 && (vals.lookup p.fid).isNone with
    | some p => { out with err := some { code := 0x27, off := raw.length, fid := p.fid } }
    | none => out

/-- The family of R61. -/
def xmlFamily (f : List Byte) : Option Nat :=
  if f = ascii "pacs" then some 1 else if f = ascii "pain" then some 2 else if f = ascii "camt" then some 3
  else if f = ascii "acmt" then some 4 else if f = ascii "admi" then some 5 else none

/-- A decimal number of `n` digits of at most 255. -/
def smallDec (n : Nat) (t : List Byte) : Option Nat :=
  if t.length ≠ n then none else ((allSome (t.map (charDigit false))).map (numberOf 10)).filter fun v => decide (v ≤ 255)

/-- The key of a Document namespace (R61). -/
def nsKey (uri : List Byte) : Option Nat :=
  let p := ascii "urn:iso:std:iso:20022:tech:xsd:"
  if !p.isPrefixOf uri then none
  else
    let t := uri.drop p.length
    match xmlFamily (t.take 4), (t.drop 4).take 1 == [0x2E] && (t.drop 8).take 1 == [0x2E] && (t.drop 12).take 1 == [0x2E],
        smallDec 3 ((t.drop 5).take 3), smallDec 3 ((t.drop 9).take 3), smallDec 2 (t.drop 13) with
    | some f, true, some a, some b, some c => some (f * 2 ^ 24 + a * 2 ^ 16 + b * 2 ^ 8 + c)
    | _, _, _, _, _ => none

/-- The message-type key of a document: the classifier reads only the namespace of Document (R61). -/
def xmlKey (d : Dialect) (raw : List Byte) : Option Nat := (xmlDoc d false (raw.drop d.hdrLen)).docNs.bind nsKey

/-! ## Writing a document (R72, R73) -/

/-- Splits a path at slashes. -/
def splitSlash : List Byte → List (List Byte)
  | [] => [[]]
  | b :: t =>
    let l := splitSlash t
    if b = 0x2F then [] :: l else match l with | x :: r => (b :: x) :: r | [] => [[b]]

/-- The element names of a path string, and the attribute name if it has one. -/
def pathParts (n : List Byte) : List (List Byte) × Option (List Byte) :=
  match cutAt [0x40] n with
  | some (e, a) => (splitSlash e, some a)
  | none => (splitSlash n, none)

/-- Text with its markup characters written as references; a code point that XML does not allow becomes SUBST. -/
def escapeText (d : Dialect) (v : List Byte) : List Byte × Nat :=
  let one (p : Nat) : List Byte :=
    if p = 0x26 then ascii "&amp;" else if p = 0x3C then ascii "&lt;" else if p = 0x3E then ascii "&gt;"
    else if p = 0x22 then ascii "&quot;" else if xmlChar p then utf8Of p else [byte d.subst]
  let ps := textPoints v
  (ps.flatMap one, ps.countP fun p => !xmlChar p)

/-- An amount's text with SCALE fraction digits; the error code of an invalid amount. -/
def amountText (scale : Nat) (v : List Byte) : Except Nat (List Byte) :=
  if v.length ≠ 10 then .error 0x31
  else
    let ns := nibbles v
    match digitsVal ns.dropLast with
    | none => .error 0x32
    | some m =>
      let last := ns.getLastD 0
      if last ≠ 0xC ∧ last ≠ 0xD then .error 0x32
      else
        let ch (l : List Nat) : List Byte := l.map fun x => byte (0x30 + x)
        let ip := ch (decDigits (m / 10 ^ scale))
        let fp := if scale = 0 then [] else 0x2E :: ch (digitsOf scale (m % 10 ^ scale))
        .ok ((if last = 0xD ∧ m ≠ 0 then [0x2D] else []) ++ ip ++ fp)

/-- One item on the wire and the characters substituted. -/
def itemOut (d : Dialect) (p : PathEnt) (v : List Byte) : Except Nat (List Byte × Nat) :=
  match p.canon with
  | 0 => .ok (v, 0)
  | 1 => if (utf8Error v).isSome then .error 0x32 else .ok (escapeText d v)
  | 2 => if v.all fun b => (charDigit false b).isSome then .ok (v, 0) else .error 0x32
  | _ => match amountText p.scale v with
    | .ok t => .ok (t, 0)
    | .error e => .error e

/-- The items of a repeated value: none if an item runs past its end (R65). -/
def splitItems : Nat → List Byte → Option (List (List Byte))
  | 0, _ => some []
  | fuel + 1, bs =>
    if bs = [] then some []
    else
      let n := fld bs 0 2
      if bs.length < 2 + n then none else (splitItems fuel (bs.drop (2 + n))).map fun l => (bs.drop 2).take n :: l

/-- The items of an entry's value on the wire; the error code that stops them. -/
def itemsOut (d : Dialect) (p : PathEnt) (v : List Byte) : Except Nat (List (List Byte) × Nat) :=
  let l := if p.repeat_ = 1 then some [v] else splitItems (v.length + 1) v
  match l with
  | none => .error 0x31
  | some xs =>
    if p.repeat_ < xs.length then .error 0x31
    else xs.foldr (fun x acc => match acc, itemOut d p x with
      | .error e, _ => .error e
      | _, .error e => .error e
      | .ok (l, n), .ok (t, k) => .ok (t :: l, n + k)) (.ok ([], 0))

/-- An element to be written: the place of its entry among the path entries, its path, its attributes, its content, and whether
the content is the whole element. -/
structure XLeaf where
  entry : Nat
  path : List (List Byte)
  attrs : List (List Byte × List Byte)
  content : List Byte
  raw : Bool
  deriving DecidableEq, Repr

/-- An attribute to be written: the place of its entry, its element, which of that element's occurrences it belongs to, its name
and value. -/
structure XAttrOut where
  entry : Nat
  path : List (List Byte)
  nth : Nat
  name : List Byte
  value : List Byte
  deriving DecidableEq, Repr

/-- A start tag. -/
def startTag (n : List Byte) (as_ : List (List Byte × List Byte)) : List Byte :=
  [0x3C] ++ n ++ (as_.flatMap fun a => [0x20] ++ a.1 ++ ascii "=\"" ++ a.2 ++ [0x22]) ++ [0x3E]

/-- An end tag. -/
def endTag (n : List Byte) : List Byte := [0x3C, 0x2F] ++ n ++ [0x3E]

/-- Names that two paths share from the root. -/
def commonLen : List (List Byte) → List (List Byte) → Nat
  | a :: s, b :: t => if a = b then commonLen s t + 1 else 0
  | _, _ => 0

/-- Attributes of an ancestor element. -/
def ancestorAttrs (as_ : List XAttrOut) (path : List (List Byte)) : List (List Byte × List Byte) :=
  (as_.filter fun a => a.path == path && a.nth == 0).map fun a => (a.name, a.value)

/-- Start tags of the ancestors of a path from level `k` on. -/
def openFrom (as_ : List XAttrOut) (path : List (List Byte)) (k : Nat) : List Byte :=
  (List.range (path.length - 1 - k)).flatMap fun i =>
    startTag (path.getD (k + i) []) (ancestorAttrs as_ (path.take (k + i + 1)))

/-- End tags of the open ancestors down to level `k`. -/
def closeTo (stack : List (List Byte)) (k : Nat) : List Byte := (stack.drop k).reverse.flatMap endTag

/-- The document of a list of elements: ancestors are opened and closed as needed (R72). -/
def renderLeaves (as_ : List XAttrOut) : List XLeaf → List (List Byte) → List Byte
  | [], stack => closeTo stack 0
  | l :: t, stack =>
    let anc := l.path.dropLast
    let k := commonLen stack anc
    let body := if l.raw then l.content
      else startTag (l.path.getLastD []) l.attrs ++ l.content ++ endTag (l.path.getLastD [])
    closeTo stack k ++ openFrom as_ l.path k ++ body ++ renderLeaves as_ t anc

/-- The elements and attributes of the values present, in path order. `macText` is the MAC's text. -/
def xmlItems (d : Dialect) (vals : Vals) (strict : Bool) (macText : Option (List Byte)) :
    List PathEnt → List XLeaf × List XAttrOut × Nat → Except XErr (List XLeaf × List XAttrOut × Nat)
  | [], r => .ok r
  | p :: t, (ls, as_, sub) =>
    let isMac := d.macAlg != 0 && p.fid == d.macFid
    let k := d.paths.length - (t.length + 1)
    let skip := xmlItems d vals strict macText t (ls, as_, sub)
    let add (xs : List (List Byte)) (n : Nat) : Except XErr (List XLeaf × List XAttrOut × Nat) :=
      let parts := pathParts (d.pathName p)
      match parts.2 with
      | some a => xmlItems d vals strict macText t (ls, as_ ++ (xs.mapIdx fun i x =>
          ({ entry := k, path := parts.1, nth := i, name := a, value := x } : XAttrOut)), sub + n)
      | none => xmlItems d vals strict macText t (ls ++ (xs.map fun x =>
          ({ entry := k, path := parts.1, attrs := [], content := x, raw := p.canon == 0 } : XLeaf)), as_, sub + n)
    if isMac then (match macText with | some m => add [m] 0 | none => skip)
    else match vals.lookup p.fid with
      | none => if strict ∧ bitAt p.flags 2 then .error { code := 0x33, off := 0x40 + 4 * p.fid, fid := p.fid } else skip
      | some v => match itemsOut d p v with
        | .error e => if strict then .error { code := e, off := 0, fid := p.fid } else skip
        | .ok (xs, n) => add xs n

/-- Which occurrence of its path an element is. -/
def nthOf (ls : List XLeaf) (i : Nat) : Nat :=
  match ls[i]? with
  | some l => (ls.take i).countP fun x => x.path == l.path
  | none => 0

/-- An attribute finds its element among those to be written: the ancestor of one, or the occurrence that it belongs to. -/
def hasElement (ls : List XLeaf) (a : XAttrOut) : Bool :=
  (ls.any fun l => a.path.isPrefixOf l.path && l.path != a.path) || decide (a.nth < ls.countP fun l => l.path == a.path)

/-- The empty element of an attribute that finds none: in path order, after the element's other occurrences (R72). -/
def emptyElement (ls : List XLeaf) (a : XAttrOut) : XLeaf :=
  { entry := (match (ls.filter fun l => l.path == a.path).getLast? with | some l => l.entry | none => a.entry),
    path := a.path, attrs := [], content := [], raw := false }

/-- Attaches attributes to the elements; an attribute whose element is not written otherwise gets an empty one. -/
def attachAttrs (ls : List XLeaf) (as_ : List XAttrOut) : List XLeaf :=
  let ls1 := as_.foldl (fun ls a => if hasElement ls a then ls else ls ++ [emptyElement ls a]) ls
  let all := ls1.mergeSort fun x y => decide (x.entry ≤ y.entry)
  all.mapIdx fun i l =>
    { l with attrs := (as_.filter fun a => a.path == l.path && a.nth == nthOf all i).map fun a => (a.name, a.value) }

/-- The document after its header bytes with a text in the MAC element, and the characters substituted. -/
def xmlBytes (d : Dialect) (hdr : List Byte) (vals : Vals) (strict : Bool) (macText : Option (List Byte)) :
    Except XErr (List Byte × Nat) :=
  match xmlItems d vals strict macText d.paths ([], [], 0) with
  | .error e => .error e
  | .ok (ls, as_, sub) => .ok (hdr ++ renderLeaves as_ (attachAttrs ls as_) [], sub)

/-- Bytes that two texts share from their start. -/
def sharedLen : List Byte → List Byte → Nat
  | a :: s, b :: t => if a = b then sharedLen s t + 1 else 0
  | _, _ => 0

/-- Writes an ISO 20022 response after its header bytes (R72), its MAC element empty. The MAC's place is where a document
with one byte in the element, which no document holds (R64), first differs. -/
def xmlSerialise (d : Dialect) (hdr : List Byte) (vals : Vals) (strict mac : Bool) : Except XErr Serial :=
  match xmlBytes d hdr vals strict (if mac then some [] else none) with
  | .error e => .error e
  | .ok (bs, sub) =>
    let at_ : Option Nat :=
      if !mac then none
      else match xmlBytes d hdr vals strict (some [1]) with
        | .ok (b1, _) => some (sharedLen bs b1)
        | .error _ => none
    .ok { bytes := bs, macAt := at_, mtiAt := hdr.length, subst := sub }

end Sys2Proof.Machine
end

