-- ==== Sys2Proof/Machine/Capacity.lean ====
section
/-! DEFINITION. What ADM counts (R27 to R31): demand buckets, supply and reserve, and the schedulability test. -/

namespace Sys2Proof.Machine

/-! ## Buckets (R27) -/

/-- Width of a fine bucket in ns. -/
def fineNs (s : State) : Nat := max 1 (s.getF Fld.ADM_BUCKET_FINE_NS)

/-- Width of a coarse bucket in ns. -/
def coarseNs (s : State) : Nat := max 1 (1000 * s.getF Fld.ADM_BUCKET_COARSE_US)

/-- The starts of the 1,024 fine and 512 coarse buckets at the current DEVTIME. -/
def bucketStarts (s : State) : List Nat :=
  let f := fineNs s
  let c := coarseNs s
  let f0 := s.now / f * f
  let c0 := roundUp (f0 + 1024 * f) c
  ((List.range 1024).map fun i => f0 + i * f) ++ ((List.range 512).map fun i => c0 + i * c)

/-- bucket_of: the largest start at or before a time; a time before the first is in the first (R27). -/
def bucketOf (starts : List Nat) (de : Nat) : Nat :=
  starts.foldl (fun b x => if x ≤ de then x else b) (starts.headD 0)

/-! ## Demand (R28, R31) -/

/-- A transaction whose demand is still counted: undecided, or waiting for its technical decline (R31, R35). -/
def Txn.counts (t : Txn) : Bool :=
  t.undecided || t.declineReason.isSome

/-- Counted resources (R28). -/
inductive Resource where
  | core (t : TileId)
  | pke
  | sym
  deriving DecidableEq, Repr

/-- The remaining demand of a transaction on a resource. -/
def Txn.demand (x : Txn) : Resource → Nat
  | .core t => if x.tile = t then x.remCyc else 0
  | .pke => x.remPke
  | .sym => x.remSym

/-- The demand of a job of JNL that has not ended (R265): JNL enters the cost of each seal job into the PKE account at the
bucket of its deadline. -/
def CJob.demand (x : CJob) (r : Resource) : Nat :=
  match x.who, x.st, r with
  | _, .latched _, _ => 0
  | .seal _, _, .pke => x.cost
  | .gseal _, _, .pke => x.cost
  | _, _, _ => 0

/-- D(r, j): remaining demand in all buckets up to and including the one that starts at `j`; demand whose bucket has
passed is in the current fine bucket (R27, R29). Demand placed in a coarse bucket stays at that bucket's start when the fine
buckets come to cover its time: DESIGN CHOICE (log 13). -/
def demandTo (s : State) (r : Resource) (j : Nat) : Nat :=
  ((s.txns.filter fun x => x.counts && decide (x.bkt ≤ j)).map fun x => x.demand r).sum +
    ((s.cry.jobs.filter fun x => decide (x.bkt ≤ j)).map fun x => x.demand r).sum

/-! ## Supply (R28) -/

/-- Cores of a tile in service. -/
def coresInService (s : State) (t : TileId) : Nat := (coresOf t).countP fun c => decide ((s.core c).svc = .inService)

/-- F_cap of an island in MHz. -/
def fCap (s : State) (i : Nat) : Nat := s.getF (Fld.PWR_ISL_STATUS_FCAP_MHZ i)

/-- Engines of a kind in service in a cluster. -/
def clusterEngines (s : State) (k : EngineKind) (c : Nat) : Nat :=
  if islandState s (24 + c) = 2 then
    (List.range 8).countP fun i => bitAt (s.getF (engineMap k)) (8 * c + i)
  else 0

/-- The withheld supply and the reserve are in force (ADM_CTRL.REPLAY_RES). -/
def reserving (s : State) : Bool := s.getF Fld.ADM_CTRL_REPLAY_RES == 1

/-- Supply of all engines of a kind in MHz, less the one that is withheld. -/
def engineMhz (s : State) (k : EngineKind) : Nat :=
  let cs := (List.range 6).map fun c => (clusterEngines s k c, fCap s (24 + c))
  let top := (cs.filter fun p => decide (0 < p.1)).foldl (fun m p => max m p.2) 0
  (cs.map fun p => p.1 * p.2).sum - (if reserving s then top else 0)

/-- S(r) as a fraction of units per ns; a tile whose island does not run supplies nothing (R387). -/
def supply (s : State) : Resource → Nat × Nat
  | .core t => (b2n (tileInService s t) * (coresInService s t - b2n (reserving s)) * fCap s t.val, 1000)
  | .pke => (engineMhz s .pke, 1600)
  | .sym => (15 * engineMhz s .sym, 16 * 1600)

/-- Transactions bound to contexts of a core. -/
def boundTo (s : State) (c : CoreId) : List Txn :=
  s.txns.filter fun x => match x.phase with | .bound d _ => d == c | _ => false

/-- The largest of a list. -/
def maxOf (l : List Nat) : Nat := l.foldl max 0

/-- The replay reserve of a resource (R28). -/
def reserve (s : State) (r : Resource) : Nat :=
  if !reserving s then 0
  else match r with
    | .core t => maxOf ((coresOf t).map fun c => ((boundTo s c).map fun x => x.pd.cycles).sum)
    | .pke => max (maxOf ((s.txns.filter Txn.undecided).map fun x => x.pd.pkeNs))
        (maxOf ((List.finRange 96).map fun c => ((boundTo s c).map fun x => x.pd.pkeNs).sum))
    | .sym => max (maxOf ((s.txns.filter Txn.undecided).map fun x => x.pd.symNs))
        (maxOf ((List.finRange 96).map fun c => ((boundTo s c).map fun x => x.pd.symNs).sum))

/-! ## The test (R29) -/

/-- minslack(r, b) times the denominator of the supply. -/
def minSlack (s : State) (starts : List Nat) (sup : Nat × Nat) (r : Resource) (b : Nat) : Int :=
  let at_ (j : Nat) : Int := (sup.1 * (j - s.now) : Nat) - (demandTo s r j * sup.2 : Nat)
  match starts.filter fun j => decide (b ≤ j) with
  | [] => 0
  | j :: t => t.foldl (fun m j => min m (at_ j)) (at_ j)

/-- fits(r, b, c). -/
def fits (s : State) (starts : List Nat) (r : Resource) (b c : Nat) : Bool :=
  let sup := supply s r
  decide (((c + reserve s r) * sup.2 : Nat) ≤ minSlack s starts sup r b)

/-- Transactions in slots of a tile (R28). -/
def tileOutstanding (s : State) (t : TileId) : Nat := s.txns.countP fun x => x.home == t && x.tile == t && !x.si

/-- Tiles. -/
def allTiles : List TileId := List.finRange 24

/-- A tile can take a new transaction: in service, with at least two cores, a slot, and the CORE test (R28, R29). -/
def tileTakes (s : State) (starts : List Nat) (b cycles : Nat) (t : TileId) : Bool :=
  tileInService s t && decide (2 ≤ coresInService s t) && decide (tileOutstanding s t < tileMax s) &&
    fits s starts (.core t) b cycles

/-- The tile with the most slack among those given; the lower index of equals (R29, R30). -/
def bestTile (s : State) (starts : List Nat) (b : Nat) (ts : List TileId) : Option TileId :=
  let slack (t : TileId) : Int := minSlack s starts (supply s (.core t)) (.core t) b
  ts.foldl (fun best t =>
    match best with
    | none => some t
    | some x => if slack x < slack t then some t else best) none

end Sys2Proof.Machine
end

