-- ==== Sys2Proof/Machine/Checks.lean ====
section
/-! DEFINITION. SipHash-2-4 (R234) and the CRC-32 checks: CRC-32C of records, flits and slots (R233, R299) and the
Ethernet FCS (R44). -/

namespace Sys2Proof.Machine

/-! ## SipHash-2-4 -/

/-- The four words of the SipHash state. -/
structure Sip where
  a : Word
  b : Word
  c : Word
  d : Word
  deriving DecidableEq, Repr

/-- One SipRound. -/
def sipRound (v : Sip) : Sip :=
  let a := v.a + v.b
  let b := v.b.rotateLeft 13 ^^^ a
  let a := a.rotateLeft 32
  let c := v.c + v.d
  let d := v.d.rotateLeft 16 ^^^ c
  let a2 := a + d
  let d2 := d.rotateLeft 21 ^^^ a2
  let c2 := c + b
  let b2 := b.rotateLeft 17 ^^^ c2
  { a := a2, b := b2, c := c2.rotateLeft 32, d := d2 }

/-- `n` SipRounds. -/
def sipRounds (n : Nat) (v : Sip) : Sip := (List.range n).foldl (fun v _ => sipRound v) v

/-- Compresses one word. -/
def sipWord (v : Sip) (m : Word) : Sip :=
  let w := sipRounds 2 { v with d := v.d ^^^ m }
  { w with a := w.a ^^^ m }

/-- The words of a message, the last with the length in its top byte. -/
def sipWords (bs : List Byte) : List Word :=
  let n := bs.length / 8
  (List.range n).map (fun i => BitVec.ofNat 64 (fld bs (8 * i) 8)) ++
    [BitVec.ofNat 64 (leNat (bs.drop (8 * n)) + bs.length % 256 * 2 ^ 56)]

/-- SipHash-2-4 under the key (k0, k1) (R234). -/
def sipHash (k0 k1 : Nat) (bs : List Byte) : Nat :=
  let x : Word := BitVec.ofNat 64 k0
  let y : Word := BitVec.ofNat 64 k1
  let v : Sip := { a := x ^^^ 0x736f6d6570736575, b := y ^^^ 0x646f72616e646f6d, c := x ^^^ 0x6c7967656e657261,
                   d := y ^^^ 0x7465646279746573 }
  let w := (sipWords bs).foldl sipWord v
  let z := sipRounds 4 { w with c := w.c ^^^ 0xff }
  (z.a ^^^ z.b ^^^ z.c ^^^ z.d).toNat

/-! ## Cyclic redundancy checks -/

/-- Eight steps of a reflected CRC-32 with a polynomial. -/
def crcStep (poly : BitVec 32) : Nat → BitVec 32 → BitVec 32
  | 0, x => x
  | n + 1, x => crcStep poly n (if x.getLsbD 0 then (x >>> 1) ^^^ poly else x >>> 1)

/-- A reflected CRC-32 of bytes, initial value and final inversion all ones. -/
def crc32 (poly : BitVec 32) (bs : List Byte) : Nat :=
  (bs.foldl (fun x b => crcStep poly 8 (x ^^^ b.setWidth 32)) (BitVec.allOnes 32) ^^^ BitVec.allOnes 32).toNat

/-- CRC-32C (Castagnoli). -/
def crc32c (bs : List Byte) : Nat := crc32 0x82F63B78 bs

/-- The Ethernet frame check sequence. -/
def ethFcs (bs : List Byte) : Nat := crc32 0xEDB88320 bs

end Sys2Proof.Machine
end

