-- ==== Sys2Proof/Machine/KolLink.lean ====
section
/-! DEFINITION. Kolat links, routes and messages (R298 to R311): flits with their sequence numbers and credits, the route
of a message, and the one operation that sends a message. Log 19 names what of a link the commands do not show. -/

namespace Sys2Proof.Machine

/-! ## Topology and routes -/

/-- This node's id. -/
def State.node (s : State) : Nat := s.getF Fld.KOL_ROLE_NODE

/-- The sizes of the dimensions of a ring or torus (R303). -/
def kolSizes (s : State) : List Nat :=
  let x := s.getF Fld.KOL_CTRL_XM1 + 1
  let y := s.getF Fld.KOL_CTRL_YM1 + 1
  let z := s.getF Fld.KOL_CTRL_ZM1 + 1
  match s.getF Fld.KOL_CTRL_TOPO with
  | 1 => [x]
  | 2 => [x, y]
  | 3 => [x, y, z]
  | _ => []

/-- Nodes of the topology (R303, R304). -/
def kolNodes (s : State) : Nat :=
  if s.getF Fld.KOL_CTRL_TOPO = 4 then s.getF Fld.KOL_CTRL_NM1 + 1 else (kolSizes s).foldl (· * ·) 1

/-- The ports of a bond (R303): direction 2d is up dimension d and 2d + 1 is down; in a tree the direction is the port. -/
def bondPorts (topo dir : Nat) : List (Fin 8) :=
  match topo, dir with
  | 1, 0 => [0, 1, 2, 3]
  | 1, 1 => [4, 5, 6, 7]
  | 2, 0 => [0, 1]
  | 2, 1 => [2, 3]
  | 2, 2 => [4, 5]
  | 2, 3 => [6, 7]
  | 3, 0 => [0, 6]
  | 3, 1 => [1, 7]
  | 3, 2 => [2]
  | 3, 3 => [3]
  | 3, 4 => [4]
  | 3, 5 => [5]
  | 4, k => if h : k < 8 then [⟨k, h⟩] else []
  | _, _ => []

/-- The lowest port of a bond, which names it (R309). -/
def bondName (topo dir : Nat) : Nat := match bondPorts topo dir with | p :: _ => p.val | [] => 8

/-- The direction of the bond that a port belongs to. -/
def bondOf (topo : Nat) (p : Fin 8) : Nat := ((List.range 8).find? fun d => (bondPorts topo d).contains p).getD 8

/-- The ports of a bond that are in service. -/
def bondUp (s : State) (dir : Nat) : List (Fin 8) :=
  (bondPorts (s.getF Fld.KOL_CTRL_TOPO) dir).filter fun p => s.getF (Fld.KOL_PORT_STATUS_LINK_UP p.val) == 1

/-- The coordinate of a node in a dimension: its place value is the product of the sizes below it (R304). -/
def kolCoord (sizes : List Nat) (n d : Nat) : Nat :=
  n / (sizes.take d).foldl (· * ·) 1 % sizes.getD d 1

/-- The neighbour of a node one step up or down a dimension (R303). -/
def kolStep (sizes : List Nat) (n d : Nat) (up : Bool) : Nat :=
  let w := (sizes.take d).foldl (· * ·) 1
  let size := sizes.getD d 1
  let c := kolCoord sizes n d
  let c' := if up then (c + 1) % size else (c + size - 1) % size
  n - c * w + c' * w

/-- The node at the other end of a port by the cabling of R303. -/
def kolNeighbour (s : State) (p : Fin 8) : Nat :=
  let topo := s.getF Fld.KOL_CTRL_TOPO
  if topo = 4 then (if p.val = 0 then (s.node - 1) / 7 else 7 * s.node + p.val)
  else let dir := bondOf topo p; kolStep (kolSizes s) s.node (dir / 2) (dir % 2 == 0)

/-- NEIGHBOUR of a port whose role the topology gives (R303); before a topology is set it is not known to the model (log 61). -/
def learnNeighbour (s : State) (p : Fin 8) : State :=
  if bondOf (s.getF Fld.KOL_CTRL_TOPO) p < 8 then s.setF (Fld.KOL_PORT_STATUS_NEIGHBOUR p.val) (kolNeighbour s p) else s

/-- Whether the link from a node in a direction is known to have failed, from either end (R306). -/
def linkDown (s : State) (sizes : List Nat) (n d : Nat) (up : Bool) : Bool :=
  let topo := s.getF Fld.KOL_CTRL_TOPO
  let dir := 2 * d + b2n (!up)
  let opp := 2 * d + b2n up
  s.kol.down.contains (n, bondName topo dir) || s.kol.down.contains (kolStep sizes n d up, bondName topo opp)

/-- Whether a path of `k` links from a node in a direction crosses a failed link. -/
def pathDown (s : State) (sizes : List Nat) (d : Nat) (up : Bool) : Nat → Nat → Bool
  | 0, _ => false
  | k + 1, n => linkDown s sizes n d up || pathDown s sizes d up k (kolStep sizes n d up)

/-- The first link of the route within a dimension (R305, R306): the direction and whether it crosses the dateline. -/
def dimRoute (s : State) (sizes : List Nat) (n dest d : Nat) : Nat × Bool :=
  let size := sizes.getD d 1
  let a := kolCoord sizes n d
  let b := kolCoord sizes dest d
  let f := (b + size - a) % size
  let g := size - f
  let short := decide (f ≤ g)
  let up := if pathDown s sizes d short (if short then f else g) n then !short else short
  (2 * d + b2n (!up), if up then decide (a = size - 1) else decide (a = 0))

/-- The chain of ancestors of a tree node (R304). -/
def treePath : Nat → Nat → List Nat
  | 0, n => [n]
  | f + 1, n => if n = 0 then [0] else n :: treePath f ((n - 1) / 7)

/-- The first link of the route to a destination: the direction of the bond and the upper channel; none where the
topology gives no route. `rev` takes the dimensions in reverse order (R313). -/
def kolRoute (s : State) (dest : Nat) (rev : Bool) : Option (Nat × Bool) :=
  let n := s.node
  if kolNodes s ≤ dest ∨ dest = n then none
  else if s.getF Fld.KOL_CTRL_TOPO = 4 then
    let up := treePath 10 dest
    match up.idxOf? n with
    | some i => some ((up.getD (i - 1) 0) - 7 * n, false)
    | none => some (0, false)
  else
    let sizes := kolSizes s
    let ds := List.range sizes.length
    ((if rev then ds.reverse else ds).find? fun d => kolCoord sizes n d != kolCoord sizes dest d).map fun d =>
      dimRoute s sizes n dest d

/-! ## Flits -/

/-- The bytes of a flit (R299). `vcl` is the VC byte; ACK is valid once a flit has been received in order. -/
def flitBytes (k : KPort) (ftype vcl seq : Nat) (nak : Bool) (payload : List Byte) : List Byte :=
  let ack := (if k.rx = 0 then 0 else (k.rx - 1) % 4096 + 2 ^ 12) + b2n nak * 2 ^ 13
  let vc := vcl % 8
  let credit := vc + 8 * ((k.freed.toList.getD vc 0) % 64)
  let body := bytesOf [ftype, vcl] ++ leBytes 2 (seq % 4096) ++ leBytes 2 ack ++ leBytes 2 credit ++
    sliceOf payload 0 240 ++ zeros 4
  body ++ leBytes 4 (crc32c body)

/-- Changes a channel's count. -/
def bumpChan (v : Vector Nat 8) (c : Nat) (f : Nat → Nat) : Vector Nat 8 :=
  if h : c < 8 then v.set c (f v[c]) else v

/-- Sends one flit: it takes the next SEQ and a credit and is kept for a resend (R300, R301). -/
def KPort.emit (k : KPort) (ftype vcl : Nat) (payload : List Byte) : KPort × List Byte :=
  let bs := flitBytes k ftype vcl k.seq false payload
  ({ k with seq := k.seq + 1, sent := ({ seq := k.seq % 4096, bytes := bs, resends := 0 } :: k.sent).take 1024,
            credits := bumpChan k.credits (vcl % 8) fun n => n - 1 }, bs)

/-- Sends every waiting flit for which a credit is held, in order within each channel (R301). -/
def pumpFlits : List (Nat × Nat × List Byte) → List Nat → KPort → KPort × List (List Byte)
  | [], _, k => (k, [])
  | (ft, vcl, pl) :: t, stuck, k =>
    if stuck.contains (vcl % 8) ∨ k.credits.toList.getD (vcl % 8) 0 = 0 then
      let r := pumpFlits t ((vcl % 8) :: stuck) k
      ({ r.1 with queue := (ft, vcl, pl) :: r.1.queue }, r.2)
    else
      let e := k.emit ft vcl pl
      let r := pumpFlits t stuck e.1
      (r.1, e.2 :: r.2)

/-- Changes port `p`. -/
def State.modPort (s : State) (p : Fin 8) (f : KPort → KPort) : State :=
  { s with kol := { s.kol with ports := s.kol.ports.set p (f s.kol.ports[p]) } }

/-- Sends what port `p` can send now. -/
def pumpPort (s : State) (p : Fin 8) : State :=
  let k := s.kol.ports[p]
  let r := pumpFlits k.queue [] { k with queue := [] }
  let s1 := s.modPort p fun _ => r.1
  { s1 with out := s1.out ++ r.2.map fun bs => Emit.flit p bs }

/-- The flits of a message: FTYPE, VC byte and payload (R299, R308). -/
def flitsFuel : Nat → Nat → Nat → List Byte → List (Nat × Nat × List Byte)
  | 0, _, _, _ => []
  | f + 1, ft, vc, bs =>
    if bs.length ≤ 240 then [(ft, vc + 8, bs)] else (ft, vc, bs.take 240) :: flitsFuel f 2 vc (bs.drop 240)


/-- The port of a bond with the most credits on a channel (R303). -/
def bestPort (s : State) (ps : List (Fin 8)) (vc : Nat) : Option (Fin 8) :=
  ps.foldl (fun acc p =>
    match acc with
    | none => some p
    | some q =>
      if s.kol.ports[q].credits.toList.getD vc 0 < s.kol.ports[p].credits.toList.getD vc 0 then some p else acc) none

/-- A message to be sent: the fields of its header and its body (R308, R309); SRC is this node where none is given. -/
structure KMsg where
  src : Option Nat := none
  type : Nat
  dest : Nat
  key : Nat := 0
  flags : Nat := 0
  an : Nat := 0
  deadline : Nat := 0
  tag : Nat := 0
  body : List Byte
  deriving DecidableEq, Repr

/-- The message bytes: the header of R308 and a body. -/
def kolMessage (s : State) (m : KMsg) : List Byte :=
  bytesOf [m.type, ceilDiv (32 + m.body.length) 240] ++ leBytes 2 m.dest ++ leBytes 2 (m.src.getD s.node) ++
    bytesOf [m.key, m.flags] ++ leBytes 8 m.an ++ leBytes 8 m.deadline ++ leBytes 4 m.tag ++ zeros 4 ++ m.body

/-- Port and virtual channel of the next link of a message's route (R303, R305, R307). `came` is the dimension in which it
arrived on the upper channel of its class, if it did: it stays there until it enters another dimension. -/
def kolPort (s : State) (m : KMsg) (rev : Bool) (came : Option Nat) : Option (Fin 8 × Nat) :=
  (kolRoute s m.dest rev).bind fun r =>
    let vc := 2 * (m.type / 16) + b2n (r.2 || came == some (r.1 / 2))
    (bestPort s (bondUp s r.1) vc).map fun p => (p, vc)

/-- Sends a message on the next link of its route (R303, R305, R310): without a port in service it is lost. -/
def kolSend (s : State) (m : KMsg) (rev : Bool := false) (came : Option Nat := none) : State :=
  match kolPort s m rev came with
  | none => s
  | some (p, vc) =>
    let fl := flitsFuel 20 1 vc (kolMessage s m)
    pumpPort (s.modPort p fun k => { k with queue := k.queue ++ fl }) p

/-- Sends a one-flit message from a send buffer reserved for it: it waits for no channel and takes no credit (R309, R332). -/
def kolSendReserved (s : State) (m : KMsg) : State :=
  match kolPort s m false none with
  | none => s
  | some (p, vc) =>
    let k := s.kol.ports[p]
    let e := k.emit 1 (vc + 8) (kolMessage s m)
    let s1 := s.modPort p fun _ => { e.1 with credits := k.credits }
    { s1 with out := s1.out ++ [Emit.flit p e.2] }

/-- Sends one message to each of a list of nodes. -/
def kolSendAll (s : State) (ns : List Nat) (f : Nat → KMsg) : State := ns.foldl (fun s n => kolSend s (f n)) s

/-! ## Receiving -/

/-- Sequence number `a` lies at or before `b` within the window of a link. -/
def seqLe (a b : Nat) : Bool := decide ((b + 4096 - a) % 4096 < 2048)

/-- An acknowledgement up to `ack`: earlier flits need no longer be kept (R300). -/
def KPort.acked (k : KPort) (ack : Nat) : KPort :=
  { k with sent := k.sent.filter fun p => !seqLe p.seq ack }

/-- Sends a link-control flit of port `p` (R299 to R301): ACK, the CREDIT of a channel, NAK if `nak`. It takes no SEQ and is
not kept. -/
def sendControl (s : State) (p : Fin 8) (vc : Nat) (nak : Bool) : State :=
  { s with out := s.out ++ [Emit.flit p (flitBytes s.kol.ports[p] 3 vc 0 nak [])] }

/-- A received flit is discarded (R300): NAK is sent for the first, and every later one is discarded with it. -/
def linkDiscard (s : State) (p : Fin 8) (vc : Nat) : State :=
  if s.kol.ports[p].naked then s else sendControl (s.modPort p fun k => { k with naked := true }) p vc true

/-- The flits of a received message follow those received before on its port (R300). -/
def linkInOrder (s : State) (h : KHdr) : Bool := s.kol.ports[h.port].rx % 4096 == h.seq

/-- What a message received in order does to its link (R300, R301): the ACK and CREDIT fields act, its buffers are freed and
reported, and flits that waited for a credit leave. A port never holds more credits than the receiver has buffers. -/
def linkReceive (s : State) (h : KHdr) : State :=
  let s1 := s.modPort h.port fun k0 =>
    let k := { k0 with rx := k0.rx + h.flits, freed := bumpChan k0.freed h.vc.val fun n => n + h.flits, naked := false }
    let k1 := match h.ack with | some a => k.acked a | none => k
    match h.credit with
    | some (c, n) =>
      let d := (n + 64 - k1.seen.toList.getD c 0 % 64) % 64
      { k1 with credits := bumpChan k1.credits c fun x => min 32 (x + d), seen := bumpChan k1.seen c fun _ => n }
    | none => k1
  sendControl (pumpPort s1 h.port) h.port h.vc.val false

/-- The message that a header and a body stand for. -/
def msgOf (h : KHdr) (type : Nat) (body : List Byte) : KMsg :=
  { src := some h.src, type := type, dest := h.dest, key := h.key, flags := b2n h.last, an := h.an,
    deadline := h.deadline, tag := h.tag, body := body }

/-- Sends a message that is for another node on along its route (R305, R306). -/
def kolForward (s : State) (h : KHdr) (m : KMsg) (rev : Bool) : State :=
  kolSend s m rev (if h.vc.val % 2 = 1 then some (bondOf (s.getF Fld.KOL_CTRL_TOPO) h.port / 2) else none)

/-- A message arrives on a port in service: out of order it is discarded (R300), for another node it goes on (R305), else it
is delivered. -/
def onMessage (s : State) (h : KHdr) (type : Nat) (body : List Byte) (f : State → State) (rev : Bool := false) : State :=
  if s.getF (Fld.KOL_PORT_STATUS_LINK_UP h.port.val) = 0 then s
  else if !linkInOrder s h then linkDiscard s h.port h.vc.val
  else
    let s1 := linkReceive s h
    if h.dest = s.node then f s1 else kolForward s1 h (msgOf h type body) rev

/-! ## Requests -/

/-- TAG (R308). -/
def tagOf (c : CoreId) (b : BankId) (run no : Nat) : Nat :=
  (tileOf c).val + coreInTile c * 2 ^ 5 + b.val * 2 ^ 7 + run % 16 * 2 ^ 11 + no % 2 ^ 17 * 2 ^ 15

/-- The run field of a TAG. -/
def tagRun (tag : Nat) : Nat := bitsOf tag 11 4

/-- The request number of a TAG. -/
def tagNo (tag : Nat) : Nat := bitsOf tag 15 17

/-- Records an outstanding REQ: its request number and the state (R311). -/
def newReq (s : State) (node : Nat) (w : KWhat) : Nat × State :=
  let no := s.kol.nextReq % 2 ^ 17
  (no, { s with kol := { s.kol with
    nextReq := (s.kol.nextReq + 1) % 2 ^ 17, reqs := s.kol.reqs ++ [{ no := no, node := node, at_ := s.now, what := w }] } })

/-- The outstanding REQ with a request number. -/
def State.kreq? (s : State) (no : Nat) : Option KReq := s.kol.reqs.find? fun r => r.no == no

/-- Removes an outstanding REQ. -/
def dropReq (s : State) (no : Nat) : State :=
  { s with kol := { s.kol with reqs := s.kol.reqs.filter fun r => r.no != no } }

/-- Kolat in service for new remote work (R323). -/
def kolEnabled (s : State) : Bool := s.getF Fld.KOL_CTRL_ENABLE = 1

/-- A REQ to a node: recorded and sent. -/
def kolRequest (s : State) (node : Nat) (w : KWhat) (type key an deadline : Nat) (tag : Nat → Nat) (body : List Byte) :
    Nat × State :=
  let r := newReq s node w
  (r.1, kolSend r.2 { type := type, dest := node, key := key, an := an, deadline := deadline, tag := tag r.1, body := body })

end Sys2Proof.Machine
end

