-- ==== Sys2Proof/Machine/Ledger.lean ====
section
/-! DEFINITION. The ledger store (11): bench descriptors, records and the index (R231 to R235), what an operation does
under its lock (R238, R239), and locks with wound-wait (R243, R244). -/

namespace Sys2Proof.Machine

/-! ## Benches -/

/-- A bench descriptor (R231). -/
structure Bench where
  recBase : Nat
  idxBase : Nat
  cap : Nat
  size : Nat
  klen : Nat
  log2 : Nat
  key : Nat
  state : Nat
  flags : Nat
  reserved : Nat
  k0 : Nat
  k1 : Nat
  deriving DecidableEq, Repr

/-- A bench descriptor from its 64 bytes (R231). -/
def readBench (bs : List Byte) : Bench :=
  { recBase := fld bs 0 8, idxBase := fld bs 8 8, cap := fld bs 0x10 4, size := fld bs 0x14 1, klen := fld bs 0x15 1,
    log2 := fld bs 0x16 1, key := fld bs 0x17 1, state := fld bs 0x18 1, flags := fld bs 0x19 1,
    reserved := fld bs 0x1A 6 + fld bs 0x30 16, k0 := fld bs 0x20 8, k1 := fld bs 0x28 8 }

/-- Physical address of the descriptor of bench `n` (R231). -/
def benchAddr (s : State) (n : Nat) : Nat := s.getF Fld.LDG_BTAB_BASE * 4096 + 64 * n

/-- Bench `n`. -/
def State.bench (s : State) (n : Nat) : Bench := readBench (s.rd (benchAddr s n) 64)

/-- ONLINE. -/
def Bench.online (x : Bench) : Bool := x.state == 2
/-- Keys are placed by the shard map. -/
def Bench.sharded (x : Bench) : Bool := bitAt x.flags 0
/-- Record bytes: 64, 128 or 256. -/
def Bench.recSize (x : Bench) : Nat := 64 * 2 ^ (x.size % 4)
/-- Bytes of KEYF. -/
def Bench.keyf (x : Bench) : Nat := 8 * ceilDiv x.klen 8
/-- Offset of DATA in a record. -/
def Bench.dataOff (x : Bench) : Nat := 16 + x.keyf
/-- DATA bytes. -/
def Bench.dataLen (x : Bench) : Nat := x.recSize - x.dataOff
/-- Address of slot `s`. -/
def Bench.slotAddr (x : Bench) (slot : Nat) : Nat := x.recBase + slot * x.recSize
/-- Address of bucket `b`. -/
def Bench.bucketAddr (x : Bench) (b : Nat) : Nat := x.idxBase + 64 * b
/-- Address of the bitmap byte of a slot. -/
def Bench.bitmapAddr (x : Bench) (slot : Nat) : Nat := x.idxBase + 64 * 2 ^ x.log2 + slot / 8
/-- The index hash of a key (R234). -/
def Bench.hashOf (x : Bench) (key : List Byte) : Nat := sipHash x.k0 x.k1 (key.take x.klen)

/-! ## The index -/

/-- b1 of R234. -/
def Bench.b1 (x : Bench) (h : Nat) : Nat := h % 2 ^ x.log2

/-- The tag of R234. -/
def hashTag (h : Nat) : Nat := if bitsOf h 40 24 = 0 then 1 else bitsOf h 40 24

/-- The other bucket of an entry with a tag (R234). -/
def Bench.other (x : Bench) (b tag : Nat) : Nat :=
  let o := b ^^^ (tag * 0x9E3779B1 % 2 ^ x.log2)
  if o = b then b ^^^ 1 else o

/-- An index entry (R234). -/
def indexEntry (pending : Bool) (tag slot : Nat) : Nat := 2 ^ 63 + b2n pending * 2 ^ 62 + tag * 2 ^ 32 + slot

/-- The addresses of the eight entries of a bucket. -/
def Bench.entryAddrs (x : Bench) (b : Nat) : List Nat := (List.range 8).map fun i => x.bucketAddr b + 8 * i

/-- An index entry in memory. -/
def entryAt (s : State) (a : Nat) : Nat := leNat (s.rd a 8)

/-- The entry addresses of both buckets of a hash, b1 first. -/
def Bench.candidates (x : Bench) (h : Nat) : List Nat :=
  x.entryAddrs (x.b1 h) ++ x.entryAddrs (x.other (x.b1 h) (hashTag h))

/-- The key as a record holds it, padded with zero bytes. -/
def Bench.keyBytes (x : Bench) (key : List Byte) : List Byte := sliceOf (key.take x.klen) 0 x.keyf

/-- The slots that a lookup compares: V = 1, P = 0 and an equal tag (R235). -/
def Bench.matches_ (s : State) (x : Bench) (h : Nat) : List Nat :=
  (x.candidates h).filterMap fun a =>
    let e := entryAt s a
    if bitAt e 63 && !bitAt e 62 && bitsOf e 32 24 == hashTag h then some (bitsOf e 0 32) else none

/-- The slot that holds a key, if present (R235). -/
def Bench.lookup (s : State) (x : Bench) (key : List Byte) : Option Nat :=
  (x.matches_ s (x.hashOf key)).find? fun slot =>
    let r := s.rd (x.slotAddr slot) x.dataOff
    fld r 9 1 == x.klen && sliceOf r 16 x.keyf == x.keyBytes key

/-- A ledger record (R233) with its CHECK. -/
def Bench.record (x : Bench) (n version : Nat) (key data : List Byte) : List Byte :=
  let r := leBytes 8 version ++ bytesOf [1, x.klen, n, 0] ++ zeros 4 ++ x.keyBytes key ++ sliceOf data 0 x.dataLen
  patch r 0x0C (leBytes 4 (crc32c r))

/-- Whether a slot is live in the bitmap or reserved (R235). -/
def slotTaken (s : State) (n : Nat) (x : Bench) (slot : Nat) : Bool :=
  bitAt (memGet s.mem (x.bitmapAddr slot)).toNat (slot % 8) ||
    s.ldg.slots.any fun r => r.bench == n && r.slot == slot

/-- The first free slot from a hint on, cyclically. -/
def freeSlot (s : State) (n : Nat) (x : Bench) : Nat → Nat → Option Nat
  | 0, _ => none
  | f + 1, i => if slotTaken s n x (i % x.cap) then freeSlot s n x f (i + 1) else some (i % x.cap)

/-- The first free entry of a bucket. -/
def Bench.freeEntry (s : State) (x : Bench) (b : Nat) : Option Nat :=
  (x.entryAddrs b).find? fun a => !bitAt (entryAt s a) 63

/-- Places an entry by moving others to their other buckets: at most 32 moves (R235; which entry moves is open, log 7). `l`
lists the entries written. -/
def moveEntries (x : Bench) : Nat → Nat → Nat → Nat → List Nat → State → Option (List Nat × State)
  | 0, _, _, _, _, _ => none
  | f + 1, hint, b, e, l, s =>
    match x.freeEntry s b with
    | some a => some (l ++ [a], s.wr a (leBytes 8 e))
    | none =>
      let a := x.bucketAddr b + 8 * (Config.slotHint hint % 8)
      let v := entryAt s a
      moveEntries x f (hint + 1) (x.other b (bitsOf v 32 24)) v (l ++ [a]) (s.wr a (leBytes 8 e))

/-- Places an entry for a hash in b1 or b2, or by moves (R235): the addresses of the entries written, and the state. -/
def entryMoves (s : State) (x : Bench) (h e : Nat) : Option (List Nat × State) :=
  let b1 := x.b1 h
  match x.freeEntry s b1 with
  | some a => some ([a], s.wr a (leBytes 8 e))
  | none =>
    match x.freeEntry s (x.other b1 (hashTag h)) with
    | some a => some ([a], s.wr a (leBytes 8 e))
    | none => (moveEntries x 33 s.freeCtr b1 e [] s).map fun p => (p.1, { p.2 with freeCtr := p.2.freeCtr + 33 })

/-- Places an entry for a hash (R235). -/
def placeEntry (s : State) (x : Bench) (h e : Nat) : Option State := (entryMoves s x h e).map fun p => p.2

/-- An insert (R235): a free slot and the entries written for it, with the state; none is bench full. -/
def insertMoves (s : State) (n : Nat) (x : Bench) (h : Nat) (pending : Bool) : Option (Nat × List Nat × State) :=
  match freeSlot s n x x.cap (Config.slotHint s.freeCtr % x.cap) with
  | none => none
  | some slot => (entryMoves { s with freeCtr := s.freeCtr + 1 } x h (indexEntry pending (hashTag h) slot)).map
      fun p => (slot, p)

/-- An insert (R235): a free slot with an entry for it; none is bench full. -/
def insertSlot (s : State) (n : Nat) (x : Bench) (h : Nat) (pending : Bool) : Option (Nat × State) :=
  (insertMoves s n x h pending).map fun p => (p.1, p.2.2)

/-- The address of the index entry of a slot, among the buckets of its hash. -/
def Bench.entryOf (s : State) (x : Bench) (h slot : Nat) : Option Nat :=
  (x.candidates h).find? fun a => bitAt (entryAt s a) 63 && bitsOf (entryAt s a) 0 32 == slot

/-- Writes a bit of the slot bitmap. -/
def setBitmap (s : State) (x : Bench) (slot : Nat) (v : Bool) : State :=
  let a := x.bitmapAddr slot
  s.wr a [byte (putBits (memGet s.mem a).toNat (slot % 8) 1 (b2n v))]

/-- Frees a reserved slot and its pending index entry (R246). -/
def freeReserved (s : State) (r : SlotRes) : State :=
  let x := s.bench r.bench
  let s1 := match x.entryOf s r.hash r.slot with
    | some a => s.wr a (zeros 8)
    | none => s
  { s1 with ldg := { s1.ldg with slots := s1.ldg.slots.filter fun q => q != r } }

/-! ## Write logs -/

/-- The log entry of a key (R242). -/
def logEntry (l : List WEntry) (bench : Nat) (key : List Byte) : Option WEntry :=
  l.find? fun e => e.bench == bench && e.key == key

/-- OP of a log entry after an operation with its CC (R238, R239, R242). -/
def nextWOp (old : Option WOp) (op : LOp) (cc : Nat) : WOp :=
  let locked : WOp := match old with
    | none => .exclusive
    | some .shared => .exclusive
    | some o => o
  match op with
  | .ldl => old.getD .shared
  | .ldlu => locked
  | .stl =>
    if cc = 2 then locked
    else match old with
      | some .remove => .replace
      | some .insert => .insert
      | some .replace => .replace
      | _ => if cc = 0 then .replace else .insert
  | .del =>
    if cc ≠ 0 then locked
    else match old with
      | some .insert => .exclusive
      | _ => .remove

/-- The next free image offset in 64-byte units. -/
def nextImage (s : State) (l : List WEntry) : Nat :=
  l.foldl (fun n e => match e.img with
    | some i => max n (i + (s.bench e.bench).recSize / 64)
    | none => n) 0

/-- The log with the entry of a key replaced or appended (R242). -/
def putEntry (l : List WEntry) (e : WEntry) : List WEntry :=
  if (logEntry l e.bench e.key).isSome then
    l.map fun x => if x.bench = e.bench ∧ x.key = e.key then e else x
  else l ++ [e]

/-- The entry of a key after an operation. -/
def stepEntry (s : State) (l : List WEntry) (node bench hash : Nat) (key : List Byte) (op : LOp) (cc : Nat)
    (data : List Byte) (slot : Option Nat) : WEntry :=
  let old := logEntry l bench key
  let wop := nextWOp (old.map fun e => e.op) op cc
  let stored := op == .stl && cc != 2
  { hash := hash, bench := bench, op := wop, node := node, key := key,
    img := (match old.bind fun e => e.img with
      | some i => some i
      | none => if stored then some (nextImage s l) else none),
    data := (if stored then data else match old with | some e => e.data | none => []),
    slot := (match slot with | some x => some x | none => if wop = .insert then old.bind fun e => e.slot else none) }

/-- The code of a directory entry's OP (R242). -/
def WOp.code : WOp → Nat
  | .shared => 1 | .exclusive => 2 | .replace => 3 | .insert => 4 | .remove => 5

/-- A directory entry (R242). -/
def dirEntry (e : WEntry) : List Byte :=
  leBytes 8 e.hash ++ bytesOf [e.bench, e.op.code] ++ leBytes 2 e.node ++ bytesOf [e.img.getD 0, 0, 0, 0]

/-- The image that a log entry stands for: a record with VERSION all ones (R239). -/
def imageOf (s : State) (e : WEntry) : List Byte := (s.bench e.bench).record e.bench (2 ^ 64 - 1) e.key e.data

/-- Writes a context's write log to its tile store (R242): the directory, cleared up to the `n` entries that it had, and the
image of one entry. -/
def storeLog (s : State) (c : CoreId) (b : BankId) (n : Nat) (l : List WEntry) (e : WEntry) : State :=
  let a := wlogAddr s c b
  let s1 := tileWrite s (tileOf c) a (l.flatMap dirEntry ++ zeros (16 * (n - l.length)))
  match e.img with
  | some i =>
    if e.op = .replace ∨ e.op = .insert then tileWrite s1 (tileOf c) (a + 1024 + 64 * i) (imageOf s e) else s1
  | none => s1

/-- The OP that a code of the directory names; 0 is unused (R242). -/
def wopOf (code : Nat) : Option WOp :=
  match code with
  | 1 => some .shared | 2 => some .exclusive | 3 => some .replace | 4 => some .insert | 5 => some .remove | _ => none

/-- A log entry as the tile store holds it (R242), from the log at `a` and a place in its directory. The key of an entry
without an image and the slot of an insert are not in the log: they are those that the ledger store holds for that place,
`own`. -/
def readEntry (s : State) (a i : Nat) (own : Option WEntry) : Option WEntry :=
  (wopOf (memGet s.mem (a + 16 * i + 9)).toNat).map fun op =>
    let d := s.rd (a + 16 * i) 16
    let bench := fld d 8 1
    let x := s.bench bench
    let img := fld d 0x0C 1
    let stored := op == .replace || op == .insert
    let r := if stored then s.rd (a + 1024 + 64 * img) x.recSize else []
    { hash := fld d 0 8, bench := bench, op := op, node := fld d 0x0A 2 % 1024,
      key := (if stored then sliceOf r 16 x.klen else match own with | some e => e.key | none => []),
      img := (if stored then some img else (own.bind fun e => e.img).map fun _ => img),
      data := (if stored then sliceOf r x.dataOff x.dataLen else match own with | some e => e.data | none => []),
      slot := own.bind fun e => e.slot }

/-- The write log of a bank, read from its tile store (R242). -/
def liveLog (s : State) (c : CoreId) (b : BankId) (own : List WEntry) : List WEntry :=
  let a := wlogAddr s c b
  (List.range 64).filterMap fun i => readEntry s a i own[i]?

/-- The write log of a run (R242): in the tile store while it is bound, until COMMIT sends it to JNL (R250). -/
def logOf (s : State) (t : Txn) : List WEntry :=
  match t.phase, t.owner with
  | .bound c b, .owned => liveLog s c b t.wlog
  | _, _ => t.wlog

/-! ## What an operation does -/

/-- Whether the run sees the key (R238, R239): its own image, a removal of its own, or the ledger. -/
inductive View where
  | own (e : WEntry)
  | record (slot : Nat)
  | absent
  deriving DecidableEq, Repr

/-- The view that a run with a log has of a key. -/
def viewOf (s : State) (l : List WEntry) (bench : Nat) (key : List Byte) : View :=
  let base : View := match (s.bench bench).lookup s key with
    | some slot => .record slot
    | none => .absent
  match logEntry l bench key with
  | some e =>
    match e.op with
    | .replace => .own e
    | .insert => .own e
    | .remove => .absent
    | _ => base
  | none => base

/-- The answer of an operation: CC, the record for a load that finds one, and the slot that an insert reserved. -/
structure LAns where
  cc : Nat
  record : List Byte
  slot : Option Nat
  deriving DecidableEq, Repr

/-- LDL and LDLU under their lock (R238, R239). -/
def actLoad (s : State) (bench : Nat) : View → LAns
  | .own e => { cc := 0, record := imageOf s e, slot := none }
  | .record slot => { cc := 0, record := s.rd ((s.bench bench).slotAddr slot) (s.bench bench).recSize, slot := none }
  | .absent => { cc := 1, record := [], slot := none }

/-- STL under its lock (R238, R239): an absent key that the ledger does not hold reserves a slot. -/
def actStore (s : State) (an run bench hash : Nat) (l : List WEntry) (key : List Byte) (v : View) : LAns × State :=
  match v with
  | .own _ => ({ cc := 0, record := [], slot := none }, s)
  | .record _ => ({ cc := 0, record := [], slot := none }, s)
  | .absent =>
    let removed := match logEntry l bench key with
      | some e => decide (e.op = WOp.remove)
      | none => false
    if removed then ({ cc := 1, record := [], slot := none }, s)
    else match insertSlot s bench (s.bench bench) hash true with
      | none => ({ cc := 2, record := [], slot := none }, s)
      | some (slot, s1) =>
        let r : SlotRes := { an := an, run := run, bench := bench, hash := hash, slot := slot }
        ({ cc := 1, record := [], slot := some slot },
         { s1 with ldg := { s1.ldg with slots := s1.ldg.slots ++ [r] } })

/-- DEL under its lock (R238, R239): a DEL of the run's own insert gives its slot up. -/
def actDelete (s : State) (an run bench : Nat) (v : View) : LAns × State :=
  match v with
  | .absent => ({ cc := 1, record := [], slot := none }, s)
  | .record _ => ({ cc := 0, record := [], slot := none }, s)
  | .own e =>
    let mine := s.ldg.slots.filter fun r =>
      r.an == an && r.run == run && r.bench == bench && some r.slot == e.slot && decide (e.op = .insert)
    ({ cc := 0, record := [], slot := none }, mine.foldl freeReserved s)

/-- An operation under its lock. -/
def ledgerAct (s : State) (an run bench hash : Nat) (l : List WEntry) (op : LOp) (key : List Byte) : LAns × State :=
  let v := viewOf s l bench key
  match op with
  | .ldl => (actLoad s bench v, s)
  | .ldlu => (actLoad s bench v, s)
  | .stl => actStore s an run bench hash l key v
  | .del => actDelete s an run bench v

/-! ## Refusal (R237) -/

/-- Whether the bench's KEY lets a context act (R221, R237). -/
def benchKeyAllows (x : Bench) (op : LOp) (akey : Nat) : Bool :=
  keyAllows (match op with | .stl => .write | .del => .write | _ => .read) akey (bitsOf x.key 0 4) (bitAt x.key 4)

/-- The bucket that holds an index entry. -/
def Bench.bucketOf (x : Bench) (a : Nat) : Nat := x.idxBase + (a - x.idxBase) / 64 * 64

/-- The accesses of an insert beside those of its lookup (R235): the bitmap, the bucket of every entry that it writes, and at
COMMIT the record and the bitmap (R251). -/
def insertAccesses (s : State) (n : Nat) (x : Bench) (h : Nat) : List (Kind × Nat × Nat) :=
  match insertMoves s n x h true with
  | none => []
  | some (slot, l, _) =>
    (.read, x.bitmapAddr slot, 1) :: l.flatMap (fun a => [(.read, x.bucketOf a, 64), (.write, a, 8)]) ++
      [(.write, x.slotAddr slot, x.recSize), (.write, x.bitmapAddr slot, 1)]

/-- The record, index and bitmap accesses of an operation on a key by a run with a log (R235, R237, R251): kind, address,
bytes. A key that the run has inserted makes no second insert; a removal clears the entry and the bitmap bit at COMMIT. -/
def ledgerAccesses (s : State) (n : Nat) (l : List WEntry) (op : LOp) (key : List Byte) : List (Kind × Nat × Nat) :=
  let x := s.bench n
  let h := x.hashOf key
  let reads : List (Kind × Nat × Nat) :=
    [(.read, x.bucketAddr (x.b1 h), 64), (.read, x.bucketAddr (x.other (x.b1 h) (hashTag h)), 64)] ++
      (x.matches_ s h).map fun slot => (.read, x.slotAddr slot, x.recSize)
  match op, x.lookup s key with
  | .stl, some slot => reads ++ [(.write, x.slotAddr slot, x.recSize)]
  | .stl, none =>
    let inserted : Bool := match logEntry l n key with | some e => decide (e.op = .insert) | none => false
    if inserted then reads else reads ++ insertAccesses s n x h
  | .del, some slot =>
    reads ++ (match x.entryOf s h slot with | some a => [(.write, a, 8)] | none => []) ++ [(.write, x.bitmapAddr slot, 1)]
  | _, _ => reads

/-- The first refused access of an operation under an initiator class, if any. -/
def ledgerRefusal (s : State) (i : Initiator) (n : Nat) (l : List WEntry) (op : LOp) (key : List Byte) :
    Option (Kind × Nat) :=
  (ledgerAccesses s n l op key).findSome? fun a => (islandRefused s i a.1 a.2.1 a.2.2).map fun p => (a.1, p)

/-- Decides a refusal under the active MPU set (R237): none, or the state with the refusal counted and an MPU refusal
reported. -/
def refuseOp (s : State) (i : Initiator) (bench : Nat) (l : List WEntry) (op : LOp) (key : List Byte) (akey : Nat) :
    Option State :=
  let x := s.bench bench
  if !x.online || !benchKeyAllows x op akey then some (s.bump Off.LDG_REFUSE_CNT)
  else (ledgerRefusal s i bench l op key).map fun p => (refuseAccess s i p.1 p.2).bump Off.LDG_REFUSE_CNT

/-- Whether an operation would read a line whose data is lost (R257, R406). -/
def opPoisoned (s : State) (bench : Nat) (l : List WEntry) (op : LOp) (key : List Byte) : Bool :=
  (ledgerAccesses s bench l op key).any fun a => decide (a.1 = .read) && poisoned s a.2.1 a.2.2

/-! ## Locks -/

/-- Whether an operation takes an exclusive lock (R238). -/
def LOp.excl : LOp → Bool
  | .ldl => false
  | _ => true

/-- The node of the run behind a request: this node, or the peer's. -/
def LReq.node (r : LReq) (self : Nat) : Nat := match r.peer with | some p => p.1 | none => self

/-- TAG of the run behind a request, with request number 0 (R308). -/
def LReq.tag (r : LReq) : Nat := match r.peer with | some p => p.2 % 2 ^ 15 | none => tagOf r.core r.bank r.run 0

/-- Locks that other transactions hold on a request's key and that conflict with it (R243, R244). -/
def conflicting (s : State) (r : LReq) : List Lock :=
  s.ldg.locks.filter fun k => k.bench == r.bench && k.hash == r.hash && !(k.an == r.an && k.run == r.run) &&
    (k.excl || r.op.excl)

/-- Whether the run's own lock already covers a request. -/
def lockCovers (s : State) (r : LReq) : Bool :=
  s.ldg.locks.any fun k => k.bench == r.bench && k.hash == r.hash && k.an == r.an && k.run == r.run &&
    (k.excl || !r.op.excl)

/-- Entries of the reservation table (R319). -/
def rsvCapacity : Nat := 32768

/-- A remote request that needs a reservation-table entry while the table is full (R320). -/
def noRoom (s : State) (r : LReq) : Bool :=
  r.peer.isSome && decide (rsvCapacity ≤ s.kol.rsv.length) &&
    !(s.kol.rsv.any fun v => v.an == r.an && v.run == r.run && v.e.bench == r.bench && v.e.key == r.key)

/-- Waiting requests for the same key that come earlier by priority and are not compatible (R244; log 48). -/
def earlierWaiting (s : State) (r : LReq) : Bool :=
  s.ldg.reqs.any fun q => decide (q.st = .waiting) && q.remote.isNone && q.bench == r.bench && q.hash == r.hash &&
    !(q.an == r.an && q.run == r.run) && older q.deadline q.an r.deadline r.an && (q.op.excl || r.op.excl)

/-- Whether a request can be granted now (R244). -/
def grantable (s : State) (r : LReq) : Bool :=
  !noRoom s r && (lockCovers s r || ((conflicting s r).isEmpty && !earlierWaiting s r))

/-- The lock that a grant leaves: new, or the run's own made exclusive (R244). -/
def takeLock (s : State) (r : LReq) : State :=
  if lockCovers s r then s
  else
    let mine (k : Lock) : Bool := k.bench == r.bench && k.hash == r.hash && k.an == r.an && k.run == r.run
    let l : Lock := { bench := r.bench, hash := r.hash, an := r.an, run := r.run, excl := r.op.excl,
                      deadline := r.deadline, node := r.node s.node, tag := r.tag }
    { s with ldg := { s.ldg with locks := (s.ldg.locks.filter fun k => !mine k) ++ [l] } }

/-- Changes the request of a run. -/
def modReq (s : State) (an run : Nat) (f : LReq → LReq) : State :=
  { s with ldg := { s.ldg with reqs := s.ldg.reqs.map fun r => if r.an = an ∧ r.run = run then f r else r } }

/-- Removes the request of a run. -/
def dropLReq (s : State) (an run : Nat) : State :=
  { s with ldg := { s.ldg with reqs := s.ldg.reqs.filter fun r => !(r.an == an && r.run == run) } }

/-- Sends WOUND for a request to a holder on another node (R309, R320): the header is the holder's. -/
def woundMessage (s : State) (r : LReq) (k : Lock) : State :=
  kolSend (s.bump Off.KOL_WOUND_CNT)
    { type := 0x30, dest := k.node, an := k.an, deadline := k.deadline, tag := k.tag,
      body := leBytes 8 r.an ++ leBytes 8 r.deadline }

/-- Sends a wound to the holder of a lock (R244, R320): to its owner flag here, or as a WOUND message, which the waiting
request remembers for its resend (R311). -/
def sendWound (s : State) (r : LReq) (k : Lock) : State :=
  if k.node = s.node then
    if s.ldg.wounds.contains (k.an, k.run) then s
    else { s with ldg := { s.ldg with wounds := s.ldg.wounds ++ [(k.an, k.run)] } }
  else modReq (woundMessage s r k) r.an r.run fun q => { q with sent := q.sent ++ [k] }

/-- The reservation that a request for a full table wounds (R320): that of the latest priority, if it comes after. -/
def rsvVictim (s : State) (r : LReq) : Option Rsv :=
  (s.kol.rsv.filter fun v => older r.deadline r.an v.deadline v.an).foldl (fun acc v =>
    match acc with
    | none => some v
    | some w => if older w.deadline w.an v.deadline v.an then some v else acc) none

/-- Wounds what a request that must wait conflicts with (R244, R320). -/
def woundFor (s : State) (r : LReq) : State :=
  let s1 := ((conflicting s r).filter fun k => older r.deadline r.an k.deadline k.an).foldl (fun s k => sendWound s r k) s
  if noRoom s r then
    match rsvVictim s r with
    | some v => sendWound s1 r { bench := v.e.bench, hash := v.e.hash, an := v.an, run := v.run, excl := true,
                                 deadline := v.deadline, node := v.an / 2 ^ 54, tag := v.tag }
    | none => s1
  else s1

/-! ## Granting -/

/-- The reservation log that this node keeps for a run of a peer (R319). -/
def rsvLog (s : State) (an run : Nat) : List WEntry :=
  (s.kol.rsv.filter fun v => v.an == an && v.run == run).map fun v => v.e

/-- Enters or replaces a reservation (R319). -/
def putRsv (s : State) (an run deadline tag : Nat) (e : WEntry) : State :=
  let same (v : Rsv) : Bool := v.an == an && v.run == run && v.e.bench == e.bench && v.e.key == e.key
  if s.kol.rsv.any same then
    { s with kol := { s.kol with rsv := s.kol.rsv.map fun v => if same v then { v with e := e } else v } }
  else
    { s with kol := { s.kol with
      rsv := s.kol.rsv ++ [{ an := an, run := run, deadline := deadline, prepared := false, tag := tag, e := e }] } }

/-- The body of LOP_RSP (R309). -/
def lopRspBody (a : LAns) : List Byte :=
  bytesOf [a.cc, 0] ++ leBytes 2 a.record.length ++ zeros 4 ++ a.record

/-- Answers a peer's operation (R309, R319). -/
def answerLop (s : State) (r : LReq) (a : LAns) : State :=
  match r.peer with
  | none => s
  | some (node, tag) =>
    kolSend s { type := 0x20, dest := node, an := r.an, deadline := r.deadline, tag := tag, body := lopRspBody a }

/-- Gives up the lock that a refused operation has taken (R237): the run keeps what its log had locked before. -/
def undoLock (s : State) (r : LReq) (l : List WEntry) : State :=
  let before := l.filter fun e => e.bench == r.bench && e.hash == r.hash
  let mine (k : Lock) : Bool := k.bench == r.bench && k.hash == r.hash && k.an == r.an && k.run == r.run
  let locks := if before.isEmpty then s.ldg.locks.filter fun k => !mine k
    else s.ldg.locks.map fun k => if mine k then { k with excl := before.any fun e => decide (e.op ≠ .shared) } else k
  { s with ldg := { s.ldg with locks := locks } }

/-- The class under which the MPU checks a request (R215, R319). -/
def LReq.initiator (r : LReq) : Initiator :=
  if r.peer.isSome then .kol else if r.user then .user else .supervisor

/-- The answer of a refused operation (R237). -/
def LAns.refused : LAns := { cc := 3, record := [], slot := none }

/-- A granted operation of a peer acts, is kept as a reservation and answered (R319). Its accesses are checked again, as what
it meets may have changed while it waited (R237). One that reads lost data is not answered, so its run ends at the
requester's timeout (R257, R311). -/
def servePeer (s0 : State) (r : LReq) : State :=
  let s := mpuSettled s0
  let l := rsvLog s r.an r.run
  match refuseOp s r.initiator r.bench l r.op r.key r.akey with
  | some s1 => answerLop (undoLock (dropLReq s1 r.an r.run) r l) r .refused
  | none =>
    if opPoisoned s r.bench l r.op r.key then dropLReq s r.an r.run
    else
      let (a, s1) := ledgerAct s r.an r.run r.bench r.hash l r.op r.key
      let e := stepEntry s1 l s1.node r.bench r.hash r.key r.op a.cc r.data a.slot
      answerLop (putRsv ((dropLReq s1 r.an r.run).bump Off.LDG_OPS_CNT) r.an r.run r.deadline r.tag e) r a

/-- Grants a request: it takes its lock; a peer's acts at once, a local one at its response (R238). -/
def grantReq (s : State) (r : LReq) : State :=
  let s1 := takeLock s r
  if r.peer.isSome then servePeer s1 r else modReq s1 r.an r.run fun r => { r with st := .granted }

/-- A new request for a lock (R244): granted at once, or it wounds and waits. -/
def requestLock (s : State) (r : LReq) : State :=
  let s1 := { s with ldg := { s.ldg with reqs := s.ldg.reqs ++ [r] } }
  if grantable s1 r then grantReq s1 r else woundFor s1 r

/-- Inserts a request into a list in priority order. -/
def insertByPriority (r : LReq) : List LReq → List LReq
  | [] => [r]
  | q :: t => if older r.deadline r.an q.deadline q.an then r :: q :: t else q :: insertByPriority r t

/-- Grants what can be granted after a release, in priority order (R244). -/
def regrant (s : State) : State :=
  ((s.ldg.reqs.filter fun r => decide (r.st = .waiting) && r.remote.isNone).foldl
    (fun l r => insertByPriority r l) []).foldl (fun s r => if grantable s r then grantReq s r else s) s

/-- Releases every lock, reserved slot and waiting request of a run (R246), and grants to those who waited. -/
def releaseRun (s : State) (an run : Nat) : State :=
  let s1 := (s.ldg.slots.filter fun r => r.an == an && r.run == run).foldl freeReserved s
  regrant { s1 with
    ldg := { s1.ldg with
      locks := s1.ldg.locks.filter fun k => !(k.an == an && k.run == run),
      reqs := s1.ldg.reqs.filter fun r => !(r.an == an && r.run == run) } }

end Sys2Proof.Machine
end

