-- ==== Sys2Proof/Machine/Journal.lean ====
section
/-! DEFINITION. The journal's parts (13): records (R281 to R283), the chain (R284), mirror entries (R286), areas (R288), the
epoch tree and its audit paths (R291), seals (R292, R295), and export entries (R294). -/

namespace Sys2Proof.Machine

/-! ## Areas and JSNs -/

/-- Bytes free in journal area `a` (R288). -/
def areaFree (s : State) (a : Nat) : Nat :=
  let k := s.getF (Fld.JNL_AREA_RGN a)
  match activeRegion s k with
  | some g => g.base + g.size - s.getF (Fld.MPU_APTR_APTR k)
  | none => 0

/-- Whether JNL assigns JSNs: in service, not halted (R406), 64 KiB free in the current area (R288). -/
def canAssign (s : State) : Bool :=
  s.getF Fld.JNL_CTRL_ENABLE == 1 && !s.jnl.halted && decide (65536 ≤ areaFree s (s.getF Fld.JNL_STATUS_AREA))

/-- JNL_STATUS.FULL as R288 states it; JNL_CTRL.ENABLE = 0 applies as if full. -/
def noteFull (s : State) : State :=
  s.setF Fld.JNL_STATUS_FULL (b2n (s.getF Fld.JNL_CTRL_ENABLE == 0 ||
    decide (areaFree s (s.getF Fld.JNL_STATUS_AREA) < 65536)))

/-- The hash held in six registers. -/
def regHash (s : State) (off : Nat → Nat) : List Byte := (List.range 6).flatMap fun i => leBytes 8 (s.reg (off i))

/-! ## Records -/

/-- What a journal record says beside its JSN, epoch and time (R281). -/
structure JHead where
  kind : Nat
  flags : Nat := 0
  nent : Nat
  an : Nat := 0
  tin : Nat := 0
  deadline : Nat := 0
  typeKey : List Byte := [0, 0, 0, 0]
  program : Nat := 0
  cls : Nat := 0
  deriving DecidableEq, Repr

/-- The bytes of a record (R281). -/
def recordOf (node jsn epoch stamp : Nat) (h : JHead) (body : List Byte) : List Byte :=
  bytesOf [h.kind, h.flags] ++ leBytes 2 node ++ leBytes 4 (64 + body.length) ++ leBytes 8 jsn ++ leBytes 4 epoch ++
    leBytes 4 h.nent ++ leBytes 8 stamp ++ leBytes 8 h.an ++ leBytes 8 h.tin ++ leBytes 8 h.deadline ++
    sliceOf h.typeKey 0 4 ++ leBytes 2 h.program ++ bytesOf [h.cls, 0] ++ body

/-- Assigns the next JSN to a record (R280, R281): the record waits for its completion. -/
def assignAt (s : State) (epoch stamp : Nat) (h : JHead) (body : List Byte) : State :=
  let j := s.jnl.next
  let r : JRec := { jsn := j, kind := h.kind, epoch := epoch, bytes := recordOf s.node j epoch stamp h body,
                    leaf := [], chain := [], complete := false, acked := false }
  { s.setReg Off.JNL_LAST_JSN j with jnl := { s.jnl with next := j + 1, recs := s.jnl.recs ++ [r] } }

/-- A record of the working face, stamped now. -/
def assignRec (s : State) (h : JHead) (body : List Byte) : State :=
  assignAt s (s.getF Fld.JNL_STATUS_EPOCH) s.now h body

/-- Whether a log entry changes its record (R282). -/
def WEntry.writes (e : WEntry) : Bool := 3 ≤ e.op.code

/-- A write entry (R282). -/
def writeEntryOf (x : Bench) (e : WEntry) : List Byte :=
  let data := if e.op = .remove then [] else sliceOf e.data 0 x.dataLen
  bytesOf [e.op.code, e.bench, x.klen, 0] ++ leBytes 4 data.length ++ x.keyBytes e.key ++
    sliceOf data 0 (roundUp data.length 8)

/-- The write entries of a log, in its order (R282). -/
def writeEntries (s : State) (l : List WEntry) : List Byte :=
  (l.filter WEntry.writes).flatMap fun e => writeEntryOf (s.bench e.bench) e

/-- Entries that a record's NENT counts. -/
def writeCount (l : List WEntry) : Nat := l.countP WEntry.writes

/-- The commit record of a transaction (R281, R282). -/
def commitHead (t : Txn) (flags : Nat) : JHead :=
  { kind := 1, flags := flags, nent := writeCount t.wlog, an := t.an, tin := t.tin, deadline := t.deadline,
    typeKey := t.typeKey, program := t.prog, cls := t.pd.cls }

/-! ## Applying writes -/

/-- Writes a record; a line wholly written holds data again (R406). -/
def putRecord (s : State) (a : Nat) (bs : List Byte) : State :=
  let s1 := s.wr a bs
  { s1 with ldg := { s1.ldg with
    poison := s1.ldg.poison.filter fun l => !(decide (a ≤ 64 * l) && decide (64 * l + 64 ≤ a + bs.length)) } }

/-- Applies one write of a run on this node with a VERSION (R251). -/
def applyEntry (jsn an run : Nat) (s : State) (e : WEntry) : State :=
  let x := s.bench e.bench
  let rec_ := x.record e.bench jsn e.key e.data
  match e.op with
  | .replace =>
    match x.lookup s e.key with
    | some slot => putRecord s (x.slotAddr slot) rec_
    | none => s
  | .insert =>
    match e.slot with
    | none => s
    | some slot =>
      let s1 := { s with ldg := { s.ldg with slots := s.ldg.slots.filter fun r =>
        !(r.an == an && r.run == run && r.bench == e.bench && r.slot == slot) } }
      let s2 := setBitmap (putRecord s1 (x.slotAddr slot) rec_) x slot true
      match x.entryOf s2 e.hash slot with
      | some a => s2.wr a (leBytes 8 (indexEntry false (hashTag e.hash) slot))
      | none => s2
  | .remove =>
    match x.lookup s e.key with
    | some slot =>
      let s1 := match x.entryOf s e.hash slot with | some a => s.wr a (zeros 8) | none => s
      setBitmap s1 x slot false
    | none => s
  | _ => s

/-- Applies the writes of a log that lie on this node. -/
def applyWrites (s : State) (jsn an run : Nat) (l : List WEntry) : State :=
  (l.filter fun e => e.node == s.node).foldl (applyEntry jsn an run) s

/-! ## The chain and the mirror -/

/-- The leaf hash of a record (R284). -/
def leafHash (bs : List Byte) : List Byte := sha384 (0 :: bs)

/-- The chain value after a record (R284). -/
def chainHash (prev leaf : List Byte) : List Byte := sha384 (2 :: (prev ++ leaf))

/-- A mirror entry (R286). -/
def mirrorEntry (r : JRec) : List Byte :=
  leBytes 8 r.jsn ++ leBytes 4 r.bytes.length ++ leBytes 4 r.epoch ++ sliceOf r.chain 0 48 ++ r.bytes

/-! ## Trees -/

/-- The hash of an interior node (R291). -/
def nodeHash (l r : List Byte) : List Byte := sha384 (1 :: (l ++ r))

/-- The largest power of two below `n`, where RFC 9162 splits. -/
def splitAt (n : Nat) : Nat := 2 ^ Nat.log2 (n - 1)

/-- The Merkle tree hash over leaf hashes (RFC 9162, section 2.1.1; R291). The number bounds the depth. -/
def treeRoot : Nat → List (List Byte) → List Byte
  | _, [] => sha384 []
  | _, [x] => x
  | 0, x :: _ => x
  | f + 1, l =>
    let k := splitAt l.length
    nodeHash (treeRoot f (l.take k)) (treeRoot f (l.drop k))

/-- The audit path of leaf `m`, lowest level first (RFC 9162, section 2.1.3; R294). -/
def auditPath : Nat → Nat → List (List Byte) → List (List Byte)
  | 0, _, _ => []
  | f + 1, m, l =>
    if l.length ≤ 1 then [] else
    let k := splitAt l.length
    if m < k then auditPath f m (l.take k) ++ [treeRoot f (l.drop k)]
    else auditPath f (m - k) (l.drop k) ++ [treeRoot f (l.take k)]

/-- The records of an epoch, in JSN order. -/
def epochRecs (s : State) (first last : Nat) : List JRec :=
  s.jnl.recs.filter fun r => decide (first ≤ r.jsn) && decide (r.jsn ≤ last)

/-- Batch `k` of a list of records (R291). -/
def batchOf (l : List JRec) (k : Nat) : List JRec := (l.drop (256 * k)).take 256

/-- The batch roots of an epoch (R291). -/
def batchRoots (l : List JRec) : List (List Byte) :=
  (List.range (ceilDiv l.length 256)).map fun k => treeRoot 9 ((batchOf l k).map fun r => r.leaf)

/-- The epoch root (R291). -/
def epochRoot (l : List JRec) : List Byte := treeRoot 32 (batchRoots l)

/-! ## Seals -/

/-- KEY_HASH of a signing key (R292). -/
def keyHash (k : KeySlot) : List Byte := sha384 (4 :: k.point)

/-- The bytes of an epoch's seal before its signature (R292), once its records are complete. -/
def sealBody (s : State) (k : KeySlot) (e : JEpoch) : List Byte :=
  let l := epochRecs s e.first e.last
  let chain := match l.getLast? with | some r => r.chain | none => []
  leBytes 4 e.epoch ++ leBytes 2 s.node ++ leBytes 2 e.flags ++ leBytes 8 e.first ++ leBytes 8 e.last ++
    leBytes 8 e.seamOpen ++ leBytes 8 e.seamClose ++ leBytes 4 (ceilDiv l.length 256) ++ zeros 4 ++ epochRoot l ++
    sliceOf chain 0 48 ++ sliceOf s.jnl.prevSeal 0 48 ++ keyHash k

/-- The leaf of a node in a global tree (R295). -/
def globalLeaf (gepoch node : Nat) (h : Option (List Byte)) : List Byte :=
  match h with
  | some x => sha384 (4 :: x)
  | none => sha384 (5 :: (leBytes 2 node ++ leBytes 4 gepoch))

/-- A bit map of node ids in 128 bytes (R295). -/
def nodeMap (ns : List Nat) : List Byte :=
  (List.range 128).map fun i => byte ((List.range 8).foldl (fun a b => a + b2n (ns.contains (8 * i + b)) * 2 ^ b) 0)

/-- The hash of the last global seal that this node holds (R295). -/
def prevGseal (s : State) : List Byte := s.kol.gprev.getD (regHash s Off.JNL_RESUME_GSEAL)

/-- The seal hash of a node for a GEPOCH, if it has arrived. -/
def sealOf (s : State) (gepoch node : Nat) : Option (List Byte) :=
  (s.kol.seals.find? fun p => p.1 == node && p.2.1 == gepoch).map fun p => p.2.2

/-- The bytes of the global seal of a seam before its signature (R295). -/
def globalBody (s : State) (k : KeySlot) (w : GWait) : List Byte :=
  let leaves := w.members.map fun n => globalLeaf w.gepoch n (sealOf s w.gepoch n)
  let absent := w.members.filter fun n => (sealOf s w.gepoch n).isNone
  leBytes 4 w.gepoch ++ leBytes 2 s.node ++ leBytes 2 w.members.length ++ leBytes 8 w.seam ++
    treeRoot 16 leaves ++ sliceOf (prevGseal s) 0 48 ++ keyHash k ++ nodeMap w.members ++ nodeMap absent

/-- What the sign job of a seal signs, with the key that it read at its start. -/
def signedBody (s : State) (who : JobFor) (k : KeySlot) : List Byte :=
  match who with
  | .seal first =>
    match s.jnl.closing.find? fun e => e.first == first with
    | some e => sealBody s k e
    | none => []
  | .gseal g =>
    match s.kol.gwaits.find? fun w => w.gepoch == g with
    | some w => globalBody s k w
    | none => []
  | _ => []

/-- Issues the sign job of a seal (R265, R293, R295): to CRYPTO.0, with the seal's deadline and AN 0; its cost is in ADM's PKE
account at the bucket of the deadline until it ends. -/
def issueSign (s : State) (who : JobFor) (slot deadline : Nat) : State :=
  let j : CJob :=
    { id := s.cry.nextJob, who := who, cluster := 0, data := [], res := [], bkt := bucketOf (bucketStarts s) deadline,
      an := 0, run := 2 ^ 64, core := 0, bank := 0, deadline := deadline, kind := .pke, op := 0x31, param := 0,
      key1 := slot, key2 := 0, inp := [], aux := [], out := [], outCap := 96, mlen := 0, desc := 0, cost := 84000,
      key := 0, typ := none, reissued := false, fails := 0, avoid := [], keys := none, work := 0, told := false,
      st := .waiting }
  { s with cry := { s.cry with jobs := s.cry.jobs ++ [j], nextJob := s.cry.nextJob + 1 } }

/-- The sign job of a seal. -/
def signJob (s : State) (who : JobFor) : Option CJob := s.cry.jobs.find? fun j => decide (j.who = who)

/-- The outcome of a sign job that has ended: the seal, or none if it did not end with OK. -/
def signOutcome (j : CJob) : Option (Option (List Byte)) :=
  match j.st with
  | .latched st => some (if st = 0x01 then some (j.data ++ j.res) else none)
  | _ => none

/-! ## Export entries -/

/-- An export batch entry (R294). -/
def batchEntry (s : State) (e : JEpoch) (k : Nat) : List Byte :=
  let l := epochRecs s e.first e.last
  let roots := batchRoots l
  let b := batchOf l k
  let path := auditPath 32 k roots
  let first := e.first + 256 * k
  let chainIn := match s.jnl.recs.find? fun r => r.jsn + 1 == first with | some r => r.chain | none => s.jnl.outChain
  let recs := b.flatMap mirrorEntry
  bytesOf [1, path.length] ++ leBytes 2 s.node ++ leBytes 4 (0x80 + 48 * path.length + recs.length) ++
    leBytes 4 e.epoch ++ leBytes 4 k ++ leBytes 8 first ++ leBytes 4 b.length ++ leBytes 4 roots.length ++
    roots.getD k [] ++ sliceOf chainIn 0 48 ++ path.flatten ++ recs

/-- The seal record of an epoch, once it has been journalled (R293). -/
def journalledSeal (s : State) (e : JEpoch) : Option JRec :=
  s.jnl.recs.find? fun r => r.kind == 4 && sliceOf r.bytes 64 336 == e.sealBytes

/-- The export entry of a seal: KIND 2, then the seal record of R293 (the place of the record is log 28). -/
def sealEntry (s : State) (e : JEpoch) (r : JRec) : List Byte :=
  bytesOf [2, 0] ++ leBytes 2 s.node ++ leBytes 4 (16 + r.bytes.length) ++ leBytes 4 e.epoch ++ zeros 4 ++ r.bytes

/-- An area event (R288, R294). -/
def areaEvent (a : Nat) : List Byte := bytesOf [3, a] ++ zeros 62

/-- Queues an export entry. -/
def queueExport (s : State) (bs : List Byte) : State := { s with jnl := { s.jnl with exports := s.jnl.exports ++ [bs] } }

/-! ## Completion -/

/-- Appends a mirror entry to the current journal area (R288). -/
def areaAppend (s : State) (bs : List Byte) : State :=
  let k := s.getF (Fld.JNL_AREA_RGN (s.getF Fld.JNL_STATUS_AREA))
  (islandWrite s .jnl (s.getF (Fld.MPU_APTR_APTR k)) bs).2

/-- The group in gathering closes: it is due to be sent, and the next entry opens a new one (R286, R353). -/
def closeGroup (s : State) : State :=
  match s.jnl.group with
  | some g => { s with jnl := { s.jnl with group := none, due := s.jnl.due ++ [g] } }
  | none => s

/-- Appends a mirror entry to the group in gathering, which closes when it reaches 64 KiB (R286). -/
def groupAppend (s : State) (r : JRec) (bs : List Byte) : State :=
  let g : MGroup := match s.jnl.group with
    | some g => { g with jsns := g.jsns ++ [r.jsn], bytes := g.bytes ++ bs }
    | none => { first := r.jsn, jsns := [r.jsn], bytes := bs, at_ := s.now, host := false, peer := false, late := false,
                probe := none }
  let s1 : State := { s with jnl := { s.jnl with group := some g } }
  if 65536 ≤ g.bytes.length then closeGroup s1 else s1

/-- Completes a record (R284 to R286): leaf hash, chain value, mirror entry. -/
def completeRec (s : State) (r : JRec) : State :=
  let leaf := leafHash r.bytes
  let chain := chainHash s.jnl.chain leaf
  let r1 : JRec := { r with leaf := leaf, chain := chain, complete := true }
  let s1 := { s with jnl := { s.jnl with
    chain := chain, recs := s.jnl.recs.map fun x => if x.jsn = r.jsn then r1 else x } }
  noteFull (groupAppend (areaAppend s1 (mirrorEntry r1)) r1 (mirrorEntry r1))

/-- The record that completes next: completion is in JSN order. -/
def nextRec (s : State) : Option JRec := s.jnl.recs.find? fun r => !r.complete

/-- The head record of an epoch (R283): its own JSN is the first of the epoch. -/
def headRec (s : State) (seam prevLast : Nat) : State :=
  assignRec { s with jnl := { s.jnl with first := s.jnl.next, seamOpen := seam } } { kind := 3, nent := 1 }
    (leBytes 8 seam ++ leBytes 4 (s.getF Fld.JNL_EPOCH_LEN_US) ++ zeros 4 ++ leBytes 8 prevLast)

/-! ## The seam in a cascade -/

/-- The shard-map entries held at KOL_SMAP.BASE (R316). -/
def smapEntry (s : State) (slice : Nat) : Nat := leNat (s.rd (s.getF Fld.KOL_SMAP_BASE * 4096 + 2 * slice) 2)

/-- The generation that a seam names comes into force (R318): slices that become FROZEN are frozen since this seam. -/
def applyMap (s : State) (t : KTick) : State :=
  match s.kol.map with
  | none => s
  | some m =>
    if m.gen = t.gen ∧ m.full then
      let s1 := m.entries.foldl (fun s e => s.wr (s.getF Fld.KOL_SMAP_BASE * 4096 + 2 * e.1) (leBytes 2 e.2)) s
      let frz := (m.entries.filter fun e => bitAt e.2 15).map fun e =>
        match s.kol.frozen.find? fun f => f.1 == e.1 with | some f => f | none => (e.1, t.seam)
      { s1.setF Fld.KOL_STATUS_SMAP_GEN t.gen with kol := { s1.kol with map := none, frozen := frz } }
    else s

/-- Marks the node of each 2-byte entry of a shard map (R316). -/
def markNodes : List Byte → Vector Bool 1024 → Vector Bool 1024
  | a :: b :: t, v => markNodes t (v.set (a.toNat + b.toNat % 4 * 256) true (by omega))
  | _, v => v

/-- The nodes that the shard map names, ascending (R295, R316). -/
def members (s : State) : List Nat :=
  let used := (markNodes (s.rd (s.getF Fld.KOL_SMAP_BASE * 4096) 131072) (Vector.replicate 1024 false)).toList
  (used.zip (List.range 1024)).filterMap fun p => if p.1 then some p.2 else none

/-- What a seam does in a cascade (R314, R318): the map that it names applies, the lead waits for the seals of the nodes
that the map names at it, and the next seam is not yet named. -/
def cascadeSeam (s : State) (t : KTick) : State :=
  let s1 := applyMap s t
  let s2 := { s1 with kol := { s1.kol with tick := none, lastSeam := some t } }
  if s.getF Fld.KOL_STATUS_ACTING_LEAD = 1 then
    { s2 with kol := { s2.kol with
      gwaits := s2.kol.gwaits ++ [{ gepoch := t.gepoch, seam := t.seam, members := members s2, formed := false }] } }
  else s2

/-! ## The global seal -/

/-- The global seal of the first waiting seam is signed (R295): it is journalled and sent to the other nodes. A failed sign job
sets SEAL_FAIL and is dropped. -/
def finishGseal (s : State) : State :=
  match s.kol.gwaits with
  | [] => s
  | w :: t =>
    match signJob s (.gseal w.gepoch) with
    | none => s
    | some j =>
      match signOutcome j with
      | none => s
      | some none => (s.dropJob j.id).setF Fld.JNL_STATUS_SEAL_FAIL 1
      | some (some bs) =>
        if !canAssign s then noteFull s
        else
          let absent := w.members.countP fun n => (sealOf s w.gepoch n).isNone
          let s1 := (assignRec (s.dropJob j.id) { kind := 5, nent := 1 } bs).bump Off.JNL_GABSENT_CNT absent
          let s2 : State := { s1 with kol := { s1.kol with
            gprev := some (sha384 bs), gseen := some w.gepoch, gwaits := t,
            seals := s1.kol.seals.filter fun p => decide (w.gepoch < p.2.1) } }
          noteFull (kolSendAll s2 (w.members.filter fun n => n != s.node) fun n => { type := 0x34, dest := n, body := bs })

end Sys2Proof.Machine
end

