-- ==== Sys2Proof/Machine/NetSend.lean ====
section
/-! DEFINITION. What NET sends (03): frames and TCP segments, TLS records, the send window, and retransmission (R49 to R51).
Log 16 holds the readings of the RFCs that the rules name. -/

namespace Sys2Proof.Machine

/-! ## Ports -/

/-- The Ethernet lanes of a port under a MODE (R43, the table *Port modes*); none if the mode has no such port. -/
def modeLanes (mode : Nat) (p : Fin 8) : List Nat :=
  let w := match mode with | 0 => 4 | 1 => 2 | _ => 1
  ((List.range w).map fun i => w * p.val + i).filter fun l => decide (l < 8)

/-- The lanes of a port: in stand-in service ELANE.0 alone for PORT.0 (R43). -/
def portLanes (s : State) (p : Fin 8) : List Nat :=
  if standinService s then (if p = 0 then [0] else []) else modeLanes (s.getF Fld.NET_CTRL_MODE) p

/-- NET_CTRL.MODE groups lanes into such a port (R43). -/
def portGrouped (s : State) (p : Fin 8) : Bool := !(modeLanes (s.getF Fld.NET_CTRL_MODE) p).isEmpty

/-- A port that MODE groups is trained and aligned (NET_PORT_STATUS.LINK_UP). -/
def portLinkUp (s : State) (p : Fin 8) : Bool :=
  portGrouped s p && s.getF (Fld.NET_PORT_STATUS_LINK_UP p.val) == 1

/-- A new MODE ends the links of the ports that it does not group (R43). -/
def regroupPorts (s : State) : State :=
  (List.finRange 8).foldl (fun s p => if portGrouped s p then s else s.setF (Fld.NET_PORT_STATUS_LINK_UP p.val) 0) s

/-! ## Frames -/

/-- The ones' complement sum of 16-bit big-endian words. -/
def onesSum (bs : List Byte) : Nat :=
  let n := (bs.length + 1) / 2
  let t := ((List.range n).map fun i => fldBe bs (2 * i) 2).sum
  let f := t % 65536 + t / 65536
  (f % 65536 + f / 65536) % 65536

/-- The internet checksum of bytes. -/
def inetSum (bs : List Byte) : Nat := 65535 - onesSum bs

/-- Sends a frame on a port: padded to 60 bytes, with its FCS (R44). -/
def sendFrame (s : State) (p : Fin 8) (frame : List Byte) : State :=
  let f := if frame.length < 60 then sliceOf frame 0 60 else frame
  { s with out := s.out ++ [.frame p (f ++ leBytes 4 (ethFcs f))] }

/-- The station address of a port, most significant byte first (log 16). -/
def stationAddr (s : State) (p : Nat) : List Byte := beBytes 6 (s.getF (Fld.NET_PORT_MAC_ADDR p))

/-! ## Fields of a connection -/

/-- FLAGS of the entry. -/
def Conn.flag (c : Conn) (i : Nat) : Bool := bitAt (fld c.entry 1 1) i
/-- IPv6. -/
def Conn.v6 (c : Conn) : Bool := c.flag 0
/-- Timestamps in use. -/
def Conn.stamps (c : Conn) : Bool := c.flag 1
/-- SUITE. -/
def Conn.suite (c : Conn) : Nat := fld c.entry 0x60 1
/-- FRAMING. -/
def Conn.framing (c : Conn) : Nat := fld c.entry 0x0A 1
/-- Local address, 4 or 16 bytes. -/
def Conn.localIp (c : Conn) : List Byte := sliceOf c.entry 0x10 (if c.v6 then 16 else 4)
/-- Peer address. -/
def Conn.remoteIp (c : Conn) : List Byte := sliceOf c.entry 0x20 (if c.v6 then 16 else 4)
/-- The traffic space of a handle (R274): spaces are numbered 1 + g. -/
def trafficSpace (h : Nat) : Nat := 1 + h / 32768

/-! ## TCP segments -/

/-- Sequence numbers are 32 bits. -/
def seqAdd (a n : Nat) : Nat := (a + n) % 2 ^ 32
/-- The distance from `a` to `b`. -/
def seqDist (a b : Nat) : Nat := (b + 2 ^ 32 - a % 2 ^ 32) % 2 ^ 32
/-- `a` is before `b`. -/
def seqLt (a b : Nat) : Bool := a % 2 ^ 32 != b % 2 ^ 32 && decide (seqDist a b < 2 ^ 31)

/-- Received bytes that still occupy the receive buffer: framed messages that wait for ADM among them (R49). -/
def Conn.held (c : Conn) : Nat :=
  c.rbuf.length + c.plain.length + (c.msgs.map fun m => m.1.length).sum + (c.ooo.map fun o => o.2.length).sum

/-- The window that NET may advertise (R49; NET_RXBUF). A RCV_WND_KIB outside 16 to 4,096 acts as it was written (log 16). -/
def recvWindow (s : State) (c : Conn) : Nat := 1024 * s.getF Fld.NET_RXBUF_RCV_WND_KIB - c.held

/-- The window field: the window after scaling. -/
def windowField (s : State) (c : Conn) : Nat := min 65535 (recvWindow s c / 2 ^ fld c.entry 7 1)

/-- The device's millisecond clock plus TS_OFFSET. -/
def tsVal (s : State) (c : Conn) : Nat := (s.now / 1000000 + fld c.entry 0x48 4) % 2 ^ 32

/-- The options of a segment: timestamps where they are in use. -/
def tcpOptions (s : State) (c : Conn) : List Byte :=
  if c.stamps then bytesOf [1, 1, 8, 10] ++ beBytes 4 (tsVal s c) ++ beBytes 4 c.tsRecent else []

/-- A TCP segment of a connection with its checksum. -/
def tcpSegment (s : State) (c : Conn) (seq : Nat) (push : Bool) (data : List Byte) : List Byte :=
  let opt := tcpOptions s c
  let off := 5 + opt.length / 4
  let h (sum : Nat) : List Byte :=
    beBytes 2 (fld c.entry 0x0C 2) ++ beBytes 2 (fld c.entry 0x0E 2) ++ beBytes 4 seq ++ beBytes 4 c.rcv ++
      bytesOf [16 * off, 0x10 + 8 * b2n push] ++ beBytes 2 (windowField s c) ++ beBytes 2 sum ++ [0, 0] ++ opt ++ data
  let t := h 0
  let pseudo := c.localIp ++ c.remoteIp ++
    (if c.v6 then beBytes 4 t.length ++ bytesOf [0, 0, 0, 6] else bytesOf [0, 6] ++ beBytes 2 t.length)
  h (inetSum (pseudo ++ t))

/-- The IP packet of a segment; the fields that the rules leave open are free values (log 16). -/
def ipPacket (s : State) (c : Conn) (tcp : List Byte) : List Byte × State :=
  let (o, s1) := s.openBytes 4
  if c.v6 then
    (bytesOf [0x60, 0, 0, 0] ++ beBytes 2 tcp.length ++ [6, o.getD 0 0] ++ c.localIp ++ c.remoteIp ++ tcp, s1)
  else
    let h (sum : Nat) : List Byte :=
      [0x45, o.getD 1 0] ++ beBytes 2 (20 + tcp.length) ++ [o.getD 2 0, o.getD 3 0, 0x40, 0, o.getD 0 0, 6] ++
        beBytes 2 sum ++ c.localIp ++ c.remoteIp
    (h (inetSum (h 0)) ++ tcp, s1)

/-- The Ethernet header towards the next hop. -/
def etherHeader (s : State) (c : Conn) : List Byte :=
  sliceOf c.entry 0x30 6 ++ stationAddr s c.port.val ++
    (if c.flag 3 then bytesOf [0x81, 0] ++ beBytes 2 (fld c.entry 4 2) else []) ++
    (if c.v6 then bytesOf [0x86, 0xDD] else bytesOf [8, 0])

/-- Sends one segment of a connection; every segment acknowledges. -/
def sendSegment (s : State) (c : Conn) (seq : Nat) (push : Bool) (data : List Byte) : State :=
  let (pkt, s1) := ipPacket s c (tcpSegment s c seq push data)
  let s2 := sendFrame s1 c.port (etherHeader s c ++ pkt)
  match s2.conn? c.h c.gen with
  | some x => putConn s2 { x with ackCnt := 0, ackAt := none }
  | none => s2

/-- Sends a pure acknowledgement. -/
def sendAck (s : State) (c : Conn) : State := sendSegment s c c.tcp.nxt false []

/-! ## TLS records (R51) -/

/-- The nonce of a record. -/
def recordNonce (iv : List Byte) (seq : Nat) : List Byte := xorBytes (sliceOf iv 0 12) (zeros 4 ++ beBytes 8 seq)

/-- Seals a record under a traffic key. -/
def aeadSeal (suite : Nat) (k : KeySlot) (nonce aad pt : List Byte) : List Byte :=
  if suite = 3 then chachaSeal k.mat nonce aad pt else gcmSeal (aesKeyed k.mat) nonce aad pt

/-- Opens a record. -/
def aeadOpen (suite : Nat) (k : KeySlot) (nonce aad bs : List Byte) : Option (List Byte) :=
  if suite = 3 then chachaOpen k.mat nonce aad bs else gcmOpen (aesKeyed k.mat) nonce aad bs

/-- One record of application data on the wire. -/
def sealRecord (suite : Nat) (k : KeySlot) (iv : List Byte) (seq : Nat) (pt : List Byte) : List Byte :=
  let aad := bytesOf [0x17, 3, 3] ++ beBytes 2 (pt.length + 17)
  aad ++ aeadSeal suite k (recordNonce iv seq) aad (pt ++ [0x17])

/-- A response in its connection's framing (R52; log 16 for one that its prefix cannot count). -/
def frameResponse (c : Conn) (bs : List Byte) : List Byte :=
  match c.framing with
  | 1 => beBytes 2 bs.length ++ bs
  | 2 => beBytes 4 bs.length ++ bs
  | 3 => (digitsOf4 bs.length) ++ bs
  | 4 => bs ++ [byte (fld c.entry 0x0B 1)]
  | _ => beBytes 2 (bs.length + 2) ++ bs
where
  /-- Four ASCII digits. -/
  digitsOf4 (n : Nat) : List Byte := [3, 2, 1, 0].map fun i => byte (0x30 + n / 10 ^ i % 10)

/-- The pieces of a plaintext of at most 2^14 bytes. -/
def plainPieces : Nat → List Byte → List (List Byte)
  | 0, _ => []
  | fuel + 1, bs => if bs = [] then [] else bs.take 16384 :: plainPieces fuel (bs.drop 16384)

/-- AES-GCM suites have a limit on their records (R51). -/
def gcmSuite (c : Conn) : Bool := c.suite == 1 || c.suite == 2

/-- A sequence number reached 2^24 for the first time: REKEY_DUE is posted (R51). -/
def noteRekey (s : State) (c : Conn) : State :=
  if gcmSuite c ∧ !c.rekeyDue ∧ (2 ^ 24 ≤ c.rxSeq ∨ 2 ^ 24 ≤ c.txSeq) then
    let c1 : Conn := { c with rekeyDue := true }
    connEvent (putConn s c1) c1 4 0 []
  else putConn s c

/-- A sequence number has reached 2^25 without a rekey: the connection is handed back (R51). -/
def rekeyOver (c : Conn) : Bool := gcmSuite c && (decide (2 ^ 25 ≤ c.rxSeq) || decide (2 ^ 25 ≤ c.txSeq))

/-- Seals the first response that is not sealed yet. Without its key nothing can be sealed. -/
def sealNext (s : State) (c : Conn) : Conn :=
  match s.keyOf (trafficSpace c.h) c.txKey, c.rsps.findIdx? fun r => r.endSeq.isNone with
  | some k, some i =>
    match c.rsps[i]? with
    | none => c
    | some r =>
      let ps := plainPieces (r.rsp.length + 2) (frameResponse c r.rsp)
      let wire := ((List.range ps.length).map fun j => sealRecord c.suite k c.txIv (c.txSeq + j) (ps.getD j [])).flatten
      let buf := c.sbuf ++ wire
      { c with txSeq := c.txSeq + ps.length, sbuf := buf,
               rsps := c.rsps.set i { r with endSeq := some (seqAdd c.tcp.una buf.length) } }
  | _, _ => c

/-! ## The send window (R49) -/

/-- The largest payload of a segment. -/
def Conn.mss (s : State) (c : Conn) : Nat :=
  let hdr := (if c.v6 then 60 else 40) + (if c.stamps then 12 else 0)
  max 1 (min (fld c.entry 8 2 - (if c.stamps then 12 else 0)) (s.getF (Fld.NET_PORT_MTU c.port.val) - hdr))

/-- Bytes that have been sent and not acknowledged, from `una` to `nxt`. -/
def Tcp.flight (t : Tcp) : Nat := seqDist t.una t.nxt

/-- The send window: the smaller of SND_WND and the congestion window. -/
def Tcp.window (t : Tcp) : Nat := min t.wnd t.cwnd

/-- The end of a received SACK block that covers a sequence number. -/
def sackSkip (t : Tcp) (seq : Nat) : Nat :=
  match t.sacked.find? fun b => !seqLt seq b.1 && seqLt seq b.2 with
  | some b => b.2
  | none => seq

/-- Bytes before the next received SACK block. -/
def sackRoom (t : Tcp) (seq : Nat) : Nat :=
  (t.sacked.filter fun b => seqLt seq b.1).foldl (fun m b => min m (seqDist seq b.1)) (2 ^ 31)

/-- The connection with `nxt` moved past bytes that a SACK block covers (R49). -/
def Conn.skipSacked (c : Conn) : Conn := { c with tcp := { c.tcp with nxt := sackSkip c.tcp c.tcp.nxt } }

/-- Bytes that one segment may carry now. -/
def sendable (s : State) (c : Conn) : Nat :=
  let have_ := c.sbuf.length - c.tcp.flight
  min (min (c.mss s) (sackRoom c.tcp c.tcp.nxt)) (min have_ (c.tcp.window - c.tcp.flight))

/-- The deadline of what a connection would send next (R50): its first response not wholly sent. -/
def sendDeadline (c : Conn) : Nat :=
  ((c.rsps.find? fun r => match r.endSeq with | some e => seqLt c.tcp.nxt e | none => true).map fun r => r.deadline).getD 0

/-- A connection that NET serves on a port. -/
def servesPort (c : Conn) (p : Fin 8) : Bool := decide (c.st ≠ .closed) && c.port == p

/-- The connection with its next response sealed if everything sealed before has been sent (R51). -/
def readyToSend (s : State) (c : Conn) : Conn :=
  let c1 := c.skipSacked
  if c1.sbuf.length ≤ c1.tcp.flight then sealNext s c1 else c1

/-- The connection of a port that sends next: earliest deadline, then lower handle (R50). -/
def nextSender (s : State) (p : Fin 8) : Option Conn :=
  ((s.net.conns.filter fun c => servesPort c p).filter fun c => decide (0 < sendable s (readyToSend s c))).foldl
    (fun acc c =>
      match acc with
      | none => some c
      | some d => if older (sendDeadline c.skipSacked) c.h (sendDeadline d.skipSacked) d.h then some c else acc) none

/-- Responses whose last byte has now been handed to the MAC are delivered (R36). -/
def noteDelivered (s : State) (c : Conn) (from_ to_ : Nat) : State :=
  c.rsps.foldl (fun s r =>
    match r.endSeq with
    | some e => if seqLt from_ e && !seqLt to_ e then delivered s r.due else s
    | none => s) s

/-- Bounds of the retransmission timeout in ns. -/
def clampRto (s : State) (x : Nat) : Nat :=
  min (1000000 * s.getF Fld.NET_TCP_RTO_MAX_MS) (max (1000 * s.getF Fld.NET_TCP_RTO_MIN_US) x)

/-- Sends `n` bytes from `nxt` and moves it; new bytes may be timed, old ones are counted as retransmitted. -/
def sendBytes (s : State) (c : Conn) (n : Nat) : State :=
  let t := c.tcp
  let at_ := t.flight
  let data := sliceOf c.sbuf at_ n
  let next := seqAdd t.nxt n
  let fresh := !seqLt t.nxt t.max_
  let max2 := if seqLt t.max_ next then next else t.max_
  let t1 : Tcp := { t with
    nxt := next, max_ := max2, rtoAt := some (t.rtoAt.getD (s.now + t.rto)),
    timed := (if fresh ∧ t.timed.isNone then some (next, s.now) else t.timed) }
  let c1 : Conn := { c with tcp := t1 }
  let s1 := sendSegment (putConn (if fresh then s else s.bump Off.NET_RETX_CNT) c1) c1 t.nxt
    (decide (c.sbuf.length ≤ at_ + n)) data
  noteDelivered s1 c t.max_ max2

/-- Stores a connection after sealing, handing it back when its keys are worn out (R51). -/
def keepOrRekey (s : State) (c : Conn) : Option State :=
  if rekeyOver c then some (closeConn s c 0x05) else none

/-- SEGMENT_TRANSMIT (R49, R50): NET sends one segment of the connection whose turn it is. NET_CTRL.ENABLE at 0 stops reception
only (log 16). -/
def execSegmentTransmit (p : Fin 8) (s : State) : Host.Outcome State Fault Refusal :=
  .next (if portLinkUp s p = false then s
    else match nextSender s p with
      | none => s
      | some c0 =>
        let c := readyToSend s c0
        match keepOrRekey s c with
        | some s1 => s1
        | none =>
          let s1 := noteRekey s c
          match s1.conn? c.h c.gen with
          | some c1 => sendBytes s1 c1 (sendable s1 c1)
          | none => s1)

/-- Bytes of the first segment that is sent again: none that has not been sent yet. -/
def resendLen (s : State) (c : Conn) : Nat :=
  min (min (c.mss s) c.sbuf.length) (min (sackRoom c.tcp c.tcp.una) (seqDist c.tcp.una c.tcp.max_))

/-- Sends the first unacknowledged bytes again, outside the window (fast retransmit, partial acknowledgements,
timeouts). -/
def resendFirst (s : State) (c : Conn) : State :=
  let n := resendLen s c
  if n = 0 ∨ sackSkip c.tcp c.tcp.una ≠ c.tcp.una then s
  else sendSegment (s.bump Off.NET_RETX_CNT) c c.tcp.una false (c.sbuf.take n)

/-! ## Timers -/

/-- Half the flight, at least two segments. -/
def halfFlight (s : State) (c : Conn) : Nat := max (seqDist c.tcp.una c.tcp.max_ / 2) (2 * c.mss s)

/-- RETRANSMIT_TIMEOUT (R46, R49): unacknowledged bytes are sent again; the NET_TCP.RETRIES-th consecutive timeout hands
the connection back, with REASON RETRY_LIMIT also while it drains for another reason (log 16). -/
def execRetransmitTimeout (h : Nat) (s : State) : Host.Outcome State Fault Refusal :=
  .next (match s.open? h with
    | none => s
    | some c =>
      match c.tcp.rtoAt with
      | none => s
      | some t =>
        if s.now < t then s
        else if s.getF Fld.NET_TCP_RETRIES ≤ c.tcp.tries + 1 then closeConn s c 0x07
        else
          let rto := clampRto s (2 * c.tcp.rto)
          let n := resendLen s c
          let c1 : Conn := { c with tcp := { c.tcp with
            ssthresh := halfFlight s c, cwnd := c.mss s, nxt := seqAdd c.tcp.una n, dup := 0, recover := none,
            high := some c.tcp.max_,
            rto := rto, rtoAt := some (s.now + rto), tries := c.tcp.tries + 1, timed := none } }
          resendFirst (putConn s c1) c1)

/-- DELAYED_ACK_TIMER (R49; NET_TCP.DELACK_US). -/
def execDelayedAckTimer (h : Nat) (s : State) : Host.Outcome State Fault Refusal :=
  .next (match s.open? h with
    | none => s
    | some c =>
      match c.ackAt with
      | some t => if t ≤ s.now then sendAck s c else s
      | none => s)

/-- Sends the byte of a probe: an old one again, or the first that has not been sent, which then counts as sent (R36). -/
def sendProbe (s : State) (c : Conn) : State :=
  let t := c.tcp
  let next := seqAdd t.una 1
  let max2 := if seqLt t.max_ next then next else t.max_
  let c1 : Conn := { c with tcp := { t with nxt := (if seqLt t.nxt next then next else t.nxt), max_ := max2 } }
  noteDelivered (sendSegment (putConn s c1) c1 t.una false (c.sbuf.take 1)) c t.max_ max2

/-- ZERO_WINDOW_PROBE (R49): one byte beyond the closed window; the interval doubles up to RTO_MAX_MS. -/
def execZeroWindowProbe (h : Nat) (s : State) : Host.Outcome State Fault Refusal :=
  .next (match s.open? h with
    | none => s
    | some c0 =>
      match c0.tcp.closedAt with
      | none => s
      | some t =>
        if s.now < c0.tcp.probeAt then s
        else
          let c1 := if c0.sbuf = [] then sealNext s c0 else c0
          match keepOrRekey s c1 with
          | some s1 => s1
          | none =>
            let c : Conn := { c1 with tcp := { c1.tcp with probeAt := s.now + clampRto s (s.now - t) } }
            let s1 := noteRekey s c
            if c.sbuf = [] then s1 else sendProbe s1 c)

/-- PERSIST_LIMIT (R46): the send window has stayed closed for longer than NET_STALL.PERSIST_MAX_MS. -/
def execPersistLimit (h : Nat) (s : State) : Host.Outcome State Fault Refusal :=
  .next (match s.open? h with
    | none => s
    | some c =>
      match c.tcp.closedAt with
      | some t => if t + 1000000 * s.getF Fld.NET_STALL_PERSIST_MAX_MS < s.now then closeConn s c 0x08 else s
      | none => s)

/-- Whether a response still waits for the send window. -/
def waitsWindow (c : Conn) (r : NRsp) : Bool :=
  match r.endSeq with
  | some e => seqLt c.tcp.max_ e
  | none => true

/-- STALL_BOUND_EXPIRY (R50): responses of a connection that have waited longer than STALL_NS are counted, each once. -/
def execStallBoundExpiry (h : Nat) (s : State) : Host.Outcome State Fault Refusal :=
  .next (match s.open? h with
    | none => s
    | some c =>
      let late (r : NRsp) : Bool :=
        !r.stalled && waitsWindow c r && decide (r.at_ + s.getF Fld.NET_STALL_STALL_NS < s.now)
      putConn (s.bump Off.NET_STALL_CNT (c.rsps.countP late))
        { c with rsps := c.rsps.map fun r => if late r then { r with stalled := true } else r })

/-- HANDBACK_COMPLETE (R46): a draining connection with INFLIGHT zero and every byte acknowledged is handed back. -/
def execHandbackComplete (h : Nat) (s : State) : Host.Outcome State Fault Refusal :=
  .next (match s.open? h with
    | none => s
    | some c =>
      match c.st with
      | .draining r => if inflight s c = 0 ∧ c.rsps = [] ∧ c.sbuf = [] then closeConn s c r else s
      | _ => s)

end Sys2Proof.Machine
end

