-- ==== Sys2Proof/Machine/NetMove.lean ====
section
/-! DEFINITION. Connections that change their port (R54, R55): announcements, the move, and the failover of a port. -/

namespace Sys2Proof.Machine

/-- The partner of a port (R43). -/
def partner (p : Fin 8) : Fin 8 := Fin.xor p 1

/-- The 802.1Q tag of a connection's frames. -/
def vlanTag (c : Conn) : List Byte := if c.flag 3 then bytesOf [0x81, 0] ++ beBytes 2 (fld c.entry 4 2) else []

/-- A gratuitous ARP for the local address of a connection (R54). -/
def gratuitousArp (mac : List Byte) (c : Conn) : List Byte :=
  bytesOf [255, 255, 255, 255, 255, 255] ++ mac ++ vlanTag c ++
    bytesOf [8, 6, 0, 1, 8, 0, 6, 4, 0, 1] ++ mac ++ c.localIp ++ zeros 6 ++ c.localIp

/-- An unsolicited neighbour advertisement for the local address of a connection (R54). -/
def neighbourAdvert (mac : List Byte) (c : Conn) : List Byte :=
  let allNodes := bytesOf [0xFF, 2] ++ zeros 13 ++ [1]
  let h (sum : Nat) : List Byte :=
    bytesOf [136, 0] ++ beBytes 2 sum ++ bytesOf [0x20, 0, 0, 0] ++ c.localIp ++ bytesOf [2, 1] ++ mac
  let m := h (inetSum (c.localIp ++ allNodes ++ beBytes 4 32 ++ bytesOf [0, 0, 0, 58] ++ h 0))
  bytesOf [0x33, 0x33, 0, 0, 0, 1] ++ mac ++ vlanTag c ++ bytesOf [0x86, 0xDD, 0x60, 0, 0, 0, 0, 32, 58, 255] ++
    c.localIp ++ allNodes ++ m

/-- Announces the local address of a connection on a port. -/
def announce (s : State) (p : Fin 8) (c : Conn) : State :=
  let mac := stationAddr s p.val
  sendFrame s p (if c.v6 then neighbourAdvert mac c else gratuitousArp mac c)

/-- One connection for each local address in use. -/
def perAddress (cs : List Conn) : List Conn :=
  cs.foldl (fun l c => if l.any fun d => d.localIp == c.localIp then l else l ++ [c]) []

/-- Moves a connection to a port (R54, R55): PORT of its entry, its queue with it, and its unacknowledged bytes are sent
again there. -/
def moveConn (s : State) (p : Fin 8) (resend : Bool) (c : Conn) : State :=
  let c1 : Conn := { c with
    port := p, entry := patch c.entry 2 [byte p.val],
    tcp := (if resend then { c.tcp with nxt := c.tcp.una, recover := none, dup := 0, timed := none } else c.tcp) }
  putConn (connWrite s c.h 2 [byte p.val]) c1

/-- The connections of a port that are not closed. -/
def portConns (s : State) (p : Fin 8) : List Conn := s.net.conns.filter fun c => servesPort c p

/-- Failover of a port to its partner (R54). FAILED_OVER says that connections were moved away, so a port that has none gets
neither it nor a KIND 7 entry (log 16). -/
def failOver (s : State) (p : Fin 8) : State :=
  let cs := portConns s p
  let q := partner p
  let s1 := cs.foldl (fun s c => moveConn s q true c) s
  let s2 := (perAddress cs).foldl (fun s c => announce s q c) s1
  if cs = [] then s2
  else
    queueExc (s2.setF (Fld.NET_PORT_STATUS_FAILED_OVER p.val) 1)
      { kind := 7, conn := none, bytes := excBytes 7 p.val 0 0 0 0 0 0 0 [] }

end Sys2Proof.Machine
end

