-- ==== Sys2Proof/Machine/Power.lean ====
section
/-! DEFINITION. Islands, clocks and temperature (R377 to R395) and deadline-aware clock scaling (R41, R42): operating points,
the AVS target, the clock of an island, and the actions of PWR_ISL_CTRL. -/

namespace Sys2Proof.Machine

/-! ## Islands -/

/-- What PWR keeps for an island. -/
def State.isl (s : State) (i : Fin 44) : IslPwr := s.pwr.isl[i]

/-- Changes what PWR keeps for an island. -/
def State.modIsl (s : State) (i : Fin 44) (f : IslPwr → IslPwr) : State :=
  { s with pwr := { s.pwr with isl := s.pwr.isl.set i (f (s.isl i)) } }

/-- Island `i` of those with operating points: tiles 0 to 23, clusters 24 to 29. -/
def islOf (i : Fin 30) : Fin 44 := ⟨i.val, by omega⟩

/-- The islands with operating points. -/
def scaledIslands : List (Fin 30) := List.finRange 30

/-- Whether an island is a tile. -/
def isTile (i : Fin 44) : Bool := decide (i.val < 24)

/-- Whether an island is a crypto cluster. -/
def isCluster (i : Fin 44) : Bool := decide (24 ≤ i.val ∧ i.val < 30)

/-- Sets PWR_ISL_STATUS[i].STATE. -/
def setIslandState (s : State) (i : Fin 44) (v : Nat) : State := s.setF (Fld.PWR_ISL_STATUS_STATE i.val) v

/-- The running clock of an island in MHz. -/
def clkOf (s : State) (i : Fin 44) : Nat := s.getF (Fld.PWR_ISL_STATUS_CLK_MHZ i.val)

/-- Sets the running clock of an island. -/
def setClk (s : State) (i : Fin 44) (f : Nat) : State :=
  (settleWork s i.val).setF (Fld.PWR_ISL_STATUS_CLK_MHZ i.val) f

/-- FMAX of an island in MHz. -/
def fMax (s : State) (i : Fin 44) : Nat := s.getF (Fld.PWR_ISL_STATUS_FMAX_MHZ i.val)

/-- The fixed clock of an island without operating points in MHz (R377). -/
def fixedMhz (i : Fin 44) : Nat :=
  if i.val < 34 then 1500 else if i.val < 38 then 1600 else if i.val < 40 then 1250 else if i.val < 43 then 1000 else 200

/-- An island without operating points starts at its fixed clock, which FCAP_MHZ shows too (R377). -/
def startFixed (s : State) (i : Fin 44) : State :=
  setIslandState ((setClk s i (fixedMhz i)).setF (Fld.PWR_ISL_STATUS_FCAP_MHZ i.val) (fixedMhz i)) i 2

/-! ## Operating points (R379) -/

/-- The listed points of the table *Island voltages* from the lowest voltage up: MHz and mV. -/
def listedPoints (tile : Bool) : List (Nat × Nat) :=
  if tile then [(1000, 570), (1200, 600), (1400, 635), (1600, 670), (1800, 705), (2000, 740), (2200, 780), (2400, 820)]
  else [(800, 570), (1000, 600), (1200, 650), (1400, 700), (1600, 750)]

/-- The interpolation between two listed points, rounded up to the next 5 mV. -/
def interpolate (p q : Nat × Nat) (f : Nat) : Nat :=
  roundUp (ceilDiv (p.2 * (q.1 - p.1) + (q.2 - p.2) * (f - p.1)) (q.1 - p.1)) 5

/-- The voltage of a point among listed points, in mV. -/
def pointMv (f : Nat) : List (Nat × Nat) → Nat
  | [] => 0
  | [p] => p.2
  | p :: q :: t => if f ≤ p.1 then p.2 else if f < q.1 then interpolate p q f else pointMv f (q :: t)

/-- The voltage of an island at a point, with its offset, in mV. -/
def islandMv (s : State) (i : Fin 44) (f : Nat) : Int := (pointMv f (listedPoints (isTile i)) : Int) + (s.isl i).offset

/-- The highest clock of a kind of island in MHz. -/
def topMhz (i : Fin 44) : Nat := if isTile i then 2400 else 1600

/-- FMAX: the highest point whose voltage with its offset is at most 820 mV (R379). -/
def findFmax (s : State) (i : Fin 44) : Nat :=
  (((List.range 21).map fun k => 400 + 100 * k).filter fun f =>
    decide (f ≤ topMhz i) && decide (islandMv s i f ≤ 820)).foldl max 400

/-! ## The rail (R382) -/

/-- The AVS target in mV. Until every island has started, AVS has not, and the rail is at 850 mV (R443; log 61). -/
def avsTarget (s : State) : Nat :=
  let need := (scaledIslands.filter fun i => fCap s i.val != 0 && islandState s i.val != 5).map fun i =>
    (islandMv s (islOf i) (max (fCap s i.val) ((s.isl (islOf i)).rise.getD 0))).toNat
  if s.getF Fld.PWR_AVS_ENABLE = 0 ∨ s.boot.step < 11 ∨ need = [] then 850
  else clampNat 600 850 (maxOf need + 30 + s.getF Fld.PWR_AVS_MARGIN_MV)

/-- PWR writes the AVS target when it changes. -/
def avsWrite (s : State) : State := s.setF Fld.PWR_AVS_TARGET_MV (avsTarget s)

/-! ## Temperature (R390, R391) -/

/-- The reading of a sensor in eighths of a degree. -/
def tempOf (s : State) (k : Nat) : Int := toSigned 16 (s.getF (Fld.THM_SENSOR_TEMP k))

/-- The sensors of an island (R390). -/
def sensorsOf (i : Fin 44) : List Nat :=
  if i.val < 24 then [2 * i.val, 2 * i.val + 1]
  else if i.val < 30 then [24 + i.val]
  else if 34 ≤ i.val ∧ i.val < 38 then [20 + i.val]
  else if i.val = 38 then [58, 59]
  else if i.val = 39 then [60, 61]
  else if i.val = 40 then [62]
  else if i.val = 43 then [63]
  else []

/-- The island of a sensor (R390). -/
def sensorIsland (k : Nat) : Nat :=
  if k < 48 then k / 2 else if k < 54 then k - 24 else if k < 58 then k - 20 else if k < 60 then 38
  else if k < 62 then 39 else if k = 62 then 40 else 43

/-- The hottest of an island's sensors. -/
def islandTemp (s : State) (i : Fin 44) : Int :=
  match sensorsOf i with
  | [] => 0
  | k :: t => t.foldl (fun m j => max m (tempOf s j)) (tempOf s k)

/-- A sensor of the island reads above 125 °C (R394). -/
def islandHot (s : State) (i : Fin 44) : Bool := decide (1000 < islandTemp s i)

/-! ## Demand per time (R41, R392) -/

/-- The largest `scale · D(r, j) / (n · (start(j) − now − LEAD_NS))` over the buckets after now + LEAD_NS, times `m64` / 64,
rounded up. -/
def demandRate (s : State) (starts : List Nat) (r : Resource) (scale n m64 : Nat) : Nat :=
  let from_ := s.now + s.getF Fld.ADM_SCALE_LEAD_NS
  maxOf ((starts.filter fun j => decide (from_ < j)).map fun j =>
    ceilDiv (scale * demandTo s r j * m64) (64 * n * (j - from_)))

/-- Engines of a kind in service. -/
def allEngines (s : State) (k : EngineKind) : Nat := ((List.range 6).map fun c => clusterEngines s k c).sum

/-- The lowest operating point, in MHz, that finishes the demand of an island, with `less` cores or engines held back; none
for an island with nothing in service (R41, R392; log 51). -/
def demandPoint (s : State) (i : Fin 30) (less m64 : Nat) : Option Nat :=
  let starts := bucketStarts s
  if h : i.val < 24 then
    let t : TileId := ⟨i.val, h⟩
    let n := coresInService s t
    if n = 0 then none else some (max 400 (100 * demandRate s starts (.core t) 10 (max 1 (n - less)) m64))
  else
    let c := i.val - 24
    let p := clusterEngines s .pke c
    let y := clusterEngines s .sym c
    if p = 0 ∧ y = 0 then none
    else
      let rp := if p = 0 then 0 else demandRate s starts .pke 16 (max 1 (allEngines s .pke - less)) m64
      let ry := if y = 0 then 0 else demandRate s starts .sym 16 (max 1 (allEngines s .sym - less)) m64
      some (max 400 (100 * max rp ry))

/-! ## The running clock (R41, R380, R393, R394) -/

/-- The target clock of R41, capped at F_cap. With scaling off, and on TILE.0 and CRYPTO.0 while they serve stand-in, it is
F_cap. -/
def clockTarget (s : State) (i : Fin 30) : Option Nat :=
  if s.getF Fld.ADM_CTRL_SCALE_EN = 0 ∨ (standinService s ∧ (i.val = 0 ∨ i.val = 24)) then some (fCap s i.val)
  else (demandPoint s i 0 (64 + s.getF Fld.ADM_SCALE_MARGIN)).map fun f => min f (fCap s i.val)

/-- A raise: the voltage rises first, and the clock follows when the change is done (R380). -/
def raiseTo (s : State) (i : Fin 30) (f : Nat) : State :=
  s.modIsl (islOf i) fun x => { x with want := some f, lowSince := none }

/-- A lower: the clock switches first, and the voltage then falls (R380). -/
def lowerTo (s : State) (i : Fin 30) (f : Nat) : State :=
  (setClk s (islOf i) f).modIsl (islOf i) fun x => { x with want := some f, lowSince := none }

/-- Re-evaluates the clock of an island (R41, R393, R394): raised at once, lowered at once when it is above both F_lim and the
target or R394 holds it, and otherwise only after the hold. -/
def evalClock (s : State) (i : Fin 30) : State :=
  let st := islandState s i.val
  if st ≠ 2 ∧ st ≠ 3 then s
  else match clockTarget s i with
    | none => s
    | some t =>
      let x := s.isl (islOf i)
      let hot := islandHot s (islOf i)
      let goal := if hot then min t x.lim else t
      let clk := clkOf s (islOf i)
      let eff := x.want.getD clk
      if x.lim < clk ∧ (t < clk ∨ hot) then lowerTo s i (if hot then x.lim else max x.lim t)
      else if eff < goal then raiseTo s i goal
      else if hot ∧ clk ≤ goal ∧ goal < eff then raiseTo s i goal
      else if goal < clk then s.modIsl (islOf i) fun x => { x with lowSince := x.lowSince.or (some s.now) }
      else s.modIsl (islOf i) fun x => { x with lowSince := none }

/-- THM_STATUS.CLAMP: R394 holds some clock below its target now. -/
def noteClamp (s : State) : State :=
  s.setF Fld.THM_STATUS_CLAMP (b2n (scaledIslands.any fun i =>
    islandState s i.val == 2 && islandHot s (islOf i) &&
      match clockTarget s i with
      | some t => decide ((s.isl (islOf i)).lim < t)
      | none => false))

/-- ADM_STATUS.THERM_DERATE (R42) and THM_STATUS.DERATED: some F_cap, some F_lim, is below its FMAX. -/
def noteDerate (s : State) : State :=
  (s.setF Fld.ADM_STATUS_THERM_DERATE (b2n (scaledIslands.any fun i => decide (fCap s i.val < fMax s (islOf i))))).setF
    Fld.THM_STATUS_DERATED (b2n (scaledIslands.any fun i => decide ((s.isl (islOf i)).lim < fMax s (islOf i))))

/-! ## Actions (R384, R386 to R388) -/

/-- ADM's test of R29 for every bucket of the accounts that an island supplies, with the island removed (R387; log 53). -/
def capacityHolds (s : State) (i : Fin 44) : Bool :=
  let s1 := s.setReg (Off.PWR_ISL_STATUS i.val) (putBits (s.reg (Off.PWR_ISL_STATUS i.val)) 0 3 3)
  let starts := bucketStarts s1
  let holds (r : Resource) : Bool := fits s1 starts r 0 0
  if h : i.val < 24 then holds (.core ⟨i.val, h⟩) else holds .pke && holds .sym

/-- Island `i` is one that the host may act on (R386). -/
def actedOn (i : Fin 44) : Bool := decide (i.val < 38)

/-- The refusal of an action, as ERR shows it; zero for none. Actions: 0 RUN, 1 HOLD, 2 OFF, 3 RESET (R386, R387; log 55). -/
def actionError (s : State) (i : Fin 44) (a : Nat) : Nat :=
  if !actedOn i ∨ islandState s i.val = 5 then 1
  else if (s.isl i).action.isSome ∨ islandState s i.val = 1 ∨ islandState s i.val = 3 then 5
  else if a = 0 then 0
  else if i.val < 30 then (if capacityHolds s i then 0 else 2)
  else if i.val < 34 then
    (if ((List.range 4).countP fun k => islandState s (30 + k) == 2 && (30 + k) != i.val) < 2 then 3 else 0)
  else if s.getF Fld.LDG_HBM_MODE = 2 ∨ s.getF Fld.LDG_STATUS_DEGRADED = 1 then 4
  else 0

/-- An island that an action finds where it would take it: nothing is left to do (log 55). -/
def actionIdle (s : State) (i : Fin 44) (a : Nat) : Bool :=
  let st := islandState s i.val
  (a == 0 && st == 2) || (a == 1 && (st == 4 || st == 0)) || (a == 2 && st == 0)

/-- From the acceptance on, every access to the stack of an LDG island is served as for a failed stack (R387). -/
def quiesceStack (s : State) (i : Fin 44) : State :=
  if 34 ≤ i.val ∧ i.val < 38 then (s.setF Fld.LDG_STATUS_STACK (i.val - 34)).setF Fld.LDG_STATUS_DEGRADED 1 else s

/-- An action on an island (R386, R387): refused with its error, or started. -/
def islandAction (s : State) (i : Fin 44) (a : Nat) : State :=
  let e := actionError s i a
  if e ≠ 0 then s.setF (Fld.PWR_ISL_STATUS_ERR i.val) e
  else if actionIdle s i a then s
  else
    let s1 := s.modIsl i fun x => { x with action := some a, want := none, lowSince := none }
    if a = 0 then setIslandState s1 i 1 else quiesceStack (setIslandState s1 i 3) i

/-! ## Joining and leaving service -/

/-- Memory with a range of bytes cleared to what an unwritten byte reads as. -/
def clearRange (m : List Host.Cell) (a n : Nat) : List Host.Cell := m.filter fun p => decide (p.1 < a ∨ a + n ≤ p.1)

/-- The tile store of a tile is zeroed. -/
def clearTileStore (s : State) (t : Nat) : State := { s with mem := clearRange s.mem (tileAddr t 0) 0x40_0000 }

/-- The clock at which an island joins service (R41, R377). -/
def joinClock (s : State) (i : Fin 44) : Nat :=
  if i.val < 30 then
    (if s.getF Fld.ADM_CTRL_SCALE_EN = 0 ∨ (standinService s ∧ (i.val = 0 ∨ i.val = 24)) then fCap s i.val else 400)
  else fixedMhz i

/-- The Ethernet and Kolat ports. -/
def allPorts : List (Fin 8) := List.finRange 8

/-- The time source that SRC selects runs again, or no longer (SYS_STATUS.TIME_SRC_OK). -/
def noteTimeSource (s : State) : State :=
  let lost (k : RefClk) : Bool := s.pwr.clkLost.contains k
  s.setF Fld.SYS_STATUS_TIME_SRC_OK (b2n (!(if s.getF Fld.SYS_TIME_CFG_SRC = 0 then lost .sys25 else lost .time10)))

end Sys2Proof.Machine
end

