-- ==== Sys2Proof/Machine/Boot.lean ====
section
/-! DEFINITION. Resets (R356, R357), the loss of power (R395, R446), and bring-up: fuses, images, microcode and the opening
of stand-in (R358 to R369, R417, R418, R428). -/

namespace Sys2Proof.Machine

/-! ## Units that are retired (R402, R418) -/

/-- A core is retired: out of ERR_CORE_MAP and counted; its tile reads RETIRED when it was the last (R402). -/
def retireCore (s : State) (c : CoreId) : State :=
  let f := Fld.ERR_CORE_MAP_INSVC (c.val / 64)
  let s1 := (s.setF f (putBits (s.getF f) (c.val % 64) 1 0)).bump Off.ERR_RETIRE_CNT
  let s2 : State := { s1.modCore c fun k => { k with svc := .retired } with
    err := { s1.err with retired := c.val :: s1.err.retired.filter fun x => x != c.val } }
  if (coresOf (tileOf c)).all fun d => decide ((s2.core d).svc = .retired) then
    avsWrite (setClk (s2.setF (Fld.PWR_ISL_STATUS_STATE (tileOf c).val) 5) ⟨(tileOf c).val, by omega⟩ 0)
  else s2

/-! ## What a reset keeps -/

/-- The HBM range of physical memory. -/
def inHbm (a : Nat) : Bool := decide (a ≤ 0x0017_FFFF_FFFF)
/-- Host memory, which no reset of the device touches. -/
def inHost (a : Nat) : Bool := decide (hostBase ≤ a)
/-- The tile stores of TILE.20 to TILE.23, which hold the stand-in log (R372). -/
def inLog (a : Nat) : Bool := decide (tileAddr 20 0 ≤ a) && decide (a < tileAddr 24 0)

/-- Entries in the stand-in log. -/
def siLog (s : State) : Nat := s.getF Fld.BOOT_STATUS_SILOG

/-- The setup registers that a warm reset keeps whole: those of SYS, PWR, THM and ERR, the fuses, and BOOT_WARM_JSN (R356;
log 17). -/
def warmKeeps (off : Nat) : Bool :=
  decide (off < 0x1_0000) || (decide (0x2_0000 ≤ off) && decide (off < 0x5_0000)) || off == Off.BOOT_WARM_JSN ||
    (decide (Off.BOOT_FUSE_RD 0 ≤ off) && decide (off ≤ Off.BOOT_FUSE_RD 1023))

/-- The fuses, which every reset keeps. -/
def fuseRegs (l : List (Nat × BitVec 64)) : List (Nat × BitVec 64) :=
  l.filter fun p => decide (Off.BOOT_FUSE_RD 0 ≤ p.1) && decide (p.1 ≤ Off.BOOT_FUSE_RD 1023)

/-- A retired core stays retired until a cold reset (R402). -/
def coresAfter (s : State) : Vector Core 96 :=
  Vector.ofFn fun c => { Core.reset with svc := (if (s.core c).svc = .retired then .retired else .inService) }

/-- The units retired appear as such in the maps again: engines, lanes, failed stacks and lost tiles (R402, R403, R256). -/
def noteRetired (s : State) : State :=
  let gone (c : Nat) : Bool := s.err.retired.contains c
  let s1 := (List.finRange 48).foldl (fun s e =>
    let s1 := if gone (unitCode (.engine .pke e)) then setEngine s .pke e false else s
    if gone (unitCode (.engine .sym e)) then setEngine s1 .sym e false else s1) s
  let s2 := (List.finRange 32).foldl (fun s l =>
    if gone (unitCode (.xltLane l)) then s.setF Fld.XLT_CTRL_LANES (putBits (s.getF Fld.XLT_CTRL_LANES) l.val 1 0)
    else s) s1
  let s3 := (List.finRange 96).foldl (fun s c =>
    let f := Fld.ERR_CORE_MAP_INSVC (c.val / 64)
    s.setF f (putBits (s.getF f) (c.val % 64) 1 (b2n (decide ((s.core c).svc ≠ .retired))))) s2
  match (List.range 4).find? fun k => gone (stackCode k) with
  | some k => (s3.setF Fld.LDG_STATUS_STACK k).setF Fld.LDG_STATUS_DEGRADED 1
  | none => s3

/-- A tile that stays retired: lost, or with no core left. -/
def tileRetired (s : State) (t : TileId) : Bool :=
  s.err.retired.contains (tileCode t.val) || (coresOf t).all fun c => decide ((s.core c).svc = .retired)

/-- Every island but SYS is off. -/
def islandsOff (s : State) : State :=
  (List.finRange 43).foldl (fun s i =>
    let j : Fin 44 := ⟨i.val, by omega⟩
    let st := if h : i.val < 24 then (if tileRetired s ⟨i.val, h⟩ then 5 else 0) else 0
    setClk (setIslandState s j st) j 0) s

/-- SYS gives NODE, LEADSTRAP and DEVICE_ID from SYS_STRAP (R428). -/
def strapRegs (s : State) : State :=
  ((s.setF Fld.ADM_ANSEQ_DEVICE_ID (s.getF Fld.SYS_STRAP_NODE_ID)).setF Fld.KOL_ROLE_NODE
    (s.getF Fld.SYS_STRAP_NODE_ID)).setF Fld.KOL_ROLE_LEADSTRAP (s.getF Fld.SYS_STRAP_LEAD)

/-! ## Warm reset -/

/-- JNL completes every record that has a JSN (R357). -/
def completeAll : Nat → State → State
  | 0, s => s
  | n + 1, s => match nextRec s with | some r => completeAll n (completeRec s r) | none => s

/-- The stand-in log is emptied once every record of epoch 0 is in its journal area (R376). -/
def emptyLog (s : State) : State :=
  if s.getF Fld.BOOT_STATUS_PHASE = 6 ∧ !(s.jnl.recs.any fun r => r.epoch == 0 && !r.complete) then
    s.setF Fld.BOOT_STATUS_SILOG 0
  else s

/-- The quiesce of a warm reset (R357): the writes of a record were applied when it took its JSN (R251). -/
def quiesce (s : State) : State :=
  let s1 := emptyLog (completeAll s.jnl.recs.length s)
  if s1.reg Off.JNL_LAST_JSN = 0 then s1 else s1.setReg Off.BOOT_WARM_JSN (s1.reg Off.JNL_LAST_JSN)

/-- The state in which everything but SYS has been reset; `hbm` keeps HBM with its storage keys and the traffic keys in its
metadata store (R274), `log` the stand-in log (R356). -/
def islandReset (s : State) (hbm log : Bool) (regs : List (Nat × BitVec 64)) : State :=
  { State.reset with
    mem := s.mem.filter fun p => (hbm && inHbm p.1) || inHost p.1 || (log && inLog p.1)
    skeys := (if hbm then s.skeys else [])
    regs := regs
    cores := coresAfter s
    devtime := s.devtime
    ldg := { State.reset.ldg with poison := (if hbm then s.ldg.poison else []) }
    kol := { Kol.reset with lost := (s.kol.lost ++ s.kol.rsv.map fun v => (v.an, v.run)).eraseDups }
    cry := { State.reset.cry with
      wrapped := (if hbm then s.cry.wrapped else []), wrapGen := s.cry.wrapGen + b2n s.cry.zeroing,
      wiping := hbm && s.cry.wiping }
    err := { s.err with testing := [] }
    sys := { s.sys with dbgWait := false }
    pwr := { s.pwr with isl := Pwr.reset.isl, kept := [] }
    boot := { s.boot with step := 2, image := [], siOpen := false, siNext := 0, siDialect := 0, ucodeSvn := 0, relAt := 0 }
    out := s.out
    freeCtr := s.freeCtr
    pending := s.pending }

/-- Fields outside the kept registers that a warm reset keeps: GEN, and what CRY latched of tamper inputs (R356, R278). -/
def carryFields (old s : State) : State :=
  let keep (s : State) (f : FieldRef) : State := s.setReg f.off (putBits (s.reg f.off) f.lo f.width (old.getF f))
  [Fld.MPU_STATUS_GEN, Fld.CRY_STATUS_ZEROISED, Fld.CRY_STATUS_TAMPER, Fld.BOOT_STATUS_SILOG,
    Fld.BOOT_STATUS_FUSE_BUSY].foldl keep s

/-- SYS_RESET_CAUSE and BOOT_STATUS.WARM; release no longer locks (R356, SYS_RESET_CAUSE). -/
def noteWarm (s : State) (cause : Nat) : State :=
  let n := s.getF Fld.SYS_RESET_CAUSE_WARM_CNT
  ((((s.setF Fld.SYS_RESET_CAUSE_CAUSE cause).setF Fld.SYS_RESET_CAUSE_WARM_CNT (min 65535 (n + 1))).setF
    Fld.BOOT_STATUS_WARM 1).setF Fld.SYS_STATUS_LOCKED 0).setF Fld.ERR_STATUS_SIMPLEX 0

/-- Every Ethernet port is down (R429). -/
def portsDown (s : State) : State := allPorts.foldl (fun s p => s.setF (Fld.NET_PORT_STATUS_LINK_UP p.val) 0) s

/-- A warm reset up to its end: `pin` holds it until WARM_RESET_N rises. -/
def warmBody (s : State) (cause : Nat) (pin : Bool) : State :=
  let s1 := portsDown ((quiesce s).setF Fld.BOOT_STATUS_PHASE 0)
  let s2 := islandReset s1 true (siLog s1 != 0) (s1.regs.filter fun p => warmKeeps p.1)
  let s3 := noteWarm (carryFields s1 s2) cause
  let s4 := noteRetired (strapRegs (islandsOff (s3.setReg Off.ERR_SIMPLEX 0)))
  { s4 with boot := { s4.boot with warmLow := pin } }

/-! ## The start of bring-up -/

/-- BOOT_SRC as it acts: with HOST_BOOT_OFF, and for 0b11, flash only (R359). -/
def bootSrc (s : State) : Nat :=
  let b := s.getF Fld.SYS_STRAP_BOOT_SRC
  if s.policy 2 ∨ b = 3 then 0 else b

/-- Step 3 of R358: HIF can train, and BOOT reads an image or waits for the host's. -/
def bringupStart (s : State) : State :=
  let s1 := startFixed (s.setReg Off.BOOT_T_PG s.now) 40
  let s2 := s1.setF Fld.BOOT_STATUS_PHASE (if bootSrc s1 = 1 then 2 else 1)
  { s2 with boot := { s2.boot with step := 3 } }

/-- A warm reset (R356, R357). Power that has been removed returns only with a cold reset (R395, R446), and before
power-good there is nothing to reset. -/
def warmResetTo (s : State) (cause : Nat) (pin : Bool) : State :=
  if s.pwr.trip ∨ s.pwr.railFault then s
  else if s.boot.step = 0 then { s with boot := { s.boot with warmLow := s.boot.warmLow || pin } }
  else
    let s1 := warmBody s cause (s.boot.warmLow || pin)
    if s1.boot.warmLow then s1 else bringupStart s1

/-- WARM_RESET_N returns high (R358). -/
def warmRise (s : State) : State :=
  if !s.boot.warmLow then s
  else
    let s1 : State := { s with boot := { s.boot with warmLow := false } }
    if s1.boot.step = 2 then bringupStart s1 else s1

/-! ## Cold reset and power -/

/-- A cold reset (R356): the fuses, what lies outside the device, and the levels of its pins remain. -/
def coldResetTo (s : State) : State :=
  { State.reset with
    mem := s.mem.filter fun p => inHost p.1
    regs := fuseRegs s.regs
    sys := { State.reset.sys with tamper := s.sys.tamper }
    pwr := { Pwr.reset with clkLost := s.pwr.clkLost }
    boot := { Boot.reset with flash := s.boot.flash, straps := s.boot.straps, warmLow := s.boot.warmLow }
    out := s.out
    freeCtr := s.freeCtr
    pending := s.pending }

/-- SYS removes power from every domain except its own (R395, R446): what those domains held is lost. -/
def powerLoss (s : State) : State :=
  let s1 := portsDown (s.setF Fld.BOOT_STATUS_SILOG 0)
  let s2 := islandReset s1 false false (s1.regs.filter fun p => decide (p.1 < 0x5_0000))
  let s3 := islandsOff s2
  { s3 with boot := { s3.boot with step := 0 } }

/-- POWER_GOOD (R445; steps 1 to 3 of R358): DEVTIME counts from 0, the fuses are read and the straps sampled (R428). -/
def powerGood (s : State) : State :=
  if s.boot.step ≠ 0 ∨ s.pwr.trip ∨ s.pwr.railFault then s
  else
    let s1 : State := { s with devtime := 0, boot := { s.boot with step := 2 } }
    let s2 := noteTimeSource (startFixed s1 43)
    let s3 := strapRegs (s2.setReg Off.SYS_STRAP (s.boot.straps % 2 ^ 10 + bitsOf s.boot.straps 16 1 * 2 ^ 16 +
      bitsOf s.boot.straps 18 2 * 2 ^ 18 + 2 ^ 63))
    let s4 := s3.setReg Off.BOOT_T_PG s3.now
    if s4.boot.warmLow then s4 else bringupStart s4

/-! ## The configuration image (R361 to R363) -/

/-- A byte of the flash; an erased byte is 0xFF. -/
def flashByte (s : State) (a : Nat) : Byte := (s.boot.flash.lookup a).getD 0xFF

/-- `n` bytes of the flash. -/
def flashRead (s : State) (a n : Nat) : List Byte := (List.range n).map fun i => flashByte s (a + i)

/-- A section table entry. -/
structure ImgSec where
  type : Nat
  index : Nat
  off : Nat
  len : Nat
  digest : List Byte
  reserved : Nat
  deriving DecidableEq, Repr

/-- NSECT. -/
def imgCount (b : List Byte) : Nat := fld b 6 2

/-- IMAGE_LEN. -/
def imgLen (b : List Byte) : Nat := fld b 8 4

/-- The section table. -/
def imgSections (b : List Byte) : List ImgSec :=
  (List.range (imgCount b)).map fun i =>
    let e := sliceOf b (0xA0 + 64 * i) 64
    { type := fld e 0 1, index := fld e 2 2, off := fld e 4 4, len := fld e 8 4, digest := sliceOf e 16 48,
      reserved := fld e 1 1 + fld e 12 4 }

/-- The bytes of a section. -/
def secBytes (b : List Byte) (x : ImgSec) : List Byte := sliceOf b x.off x.len

/-- The bytes of the section with a TYPE. -/
def sectionOf (b : List Byte) (t : Nat) : Option (List Byte) :=
  ((imgSections b).find? fun x => x.type == t).map (secBytes b)

/-- MAGIC and FORMAT. -/
def imgMagic (b : List Byte) : Bool := b.take 4 == bytesOf [0x4C, 0x4E, 0x43, 0x49] && fld b 4 2 == 1

/-- Every field of the header is in range. -/
def imgHeaderOk (b : List Byte) : Bool :=
  imgMagic b &&
    decide (1 ≤ imgCount b ∧ imgCount b ≤ 32 ∧ 0xA0 + 64 * imgCount b + 96 ≤ imgLen b ∧ imgLen b ≤ 2 ^ 24 ∧
      imgLen b ≤ b.length ∧ fld b 0x10 1 ≤ 128 ∧ fld b 0x11 1 ≤ 3 ∧ fld b 0x12 2 ≤ 1) &&
    sliceOf b 0x14 12 == zeros 12 && sliceOf b 0x91 15 == zeros 15

/-- Every section entry is in range, and its section lies within IMAGE_LEN. -/
def imgTableOk (b : List Byte) : Bool :=
  (imgSections b).all fun x =>
    x.reserved == 0 && x.off % 64 == 0 && decide (x.off + x.len ≤ imgLen b) &&
      (if x.type = 2 then decide (x.index ≤ 255) else x.index == 0)

/-- Sections of a TYPE. -/
def imgTypes (b : List Byte) (t : Nat) : Nat := (imgSections b).countP fun x => x.type == t

/-- The sections are those of R362. -/
def imgSectionsOk (b : List Byte) : Bool :=
  ((imgSections b).all fun x => decide (1 ≤ x.type ∧ x.type ≤ 5)) && imgTypes b 1 == 1 &&
    decide (imgTypes b 2 ≤ 1 ∧ imgTypes b 3 ≤ imgTypes b 2 ∧ imgTypes b 4 ≤ 1 ∧ imgTypes b 5 ≤ 1)

/-- The hash of a public key of 97 bytes against an unrevoked, programmed OWNER_KEY_HASH (R360, R363, R435). -/
def ownerKeyOk (s : State) (k : Nat) (pub : List Byte) : Bool :=
  let h := s.fuseBytes (0x70 + 48 * k) 48
  h != zeros 48 && sha384 pub == h && !bitAt (s.fuseByte 0x130) k

/-- A P-384 signature by a key in 97-byte uncompressed form. -/
def sigOk (pub sig msg : List Byte) : Bool := pub.take 1 == [4] && ecdsaVerify p384 (pub.drop 1) (sha384 msg) sig

/-- Bits set in a fuse field. -/
def fuseCount (s : State) (off n : Nat) : Nat := ((List.range n).map fun i => popCount (s.fuseByte (off + i))).sum

/-- The checks of a MICROCODE section (R417). -/
def ucodeOk (s : State) (m : List Byte) : Bool :=
  let n := fld m 8 4
  m.take 4 == bytesOf [0x4C, 0x4E, 0x55, 0x43] && fld m 4 2 == 1 &&
    decide (1 ≤ n ∧ n ≤ 16384 ∧ 0x160 + 8 * n ≤ m.length ∧ fuseCount s 0x150 8 ≤ fld m 6 1) &&
    sha384 (sliceOf m 0x10 97) == s.fuseBytes 0x40 48 &&
    sigOk (sliceOf m 0x10 97) (sliceOf m 0x100 96) (sliceOf m 0 0x100 ++ sliceOf m 0x160 (8 * n))

/-- The boot error of an image, zero if it passes (R363; the table *Boot errors*; log 58). -/
def imageError (s : State) (b : List Byte) : Nat :=
  let pub := sliceOf b 0x30 97
  let signed := 0xA0 + 64 * imgCount b
  if !imgHeaderOk b ∨ !imgTableOk b then 0x01
  else if !ownerKeyOk s (fld b 0x11 1) pub then 0x02
  else if !sigOk pub (sliceOf b signed 96) (sliceOf b 0 signed) then 0x03
  else if bitAt (fld b 0x12 2) 0 ∧ sliceOf b 0x20 16 ≠ serialOf s then 0x07
  else if fld b 0x10 1 < fuseCount s 0x140 16 then 0x05
  else if !imgSectionsOk b then 0x08
  else if (imgSections b).any fun x => sha384 (secBytes b x) != x.digest then 0x04
  else match sectionOf b 1 with
    | some m => if ucodeOk s m then 0 else 0x06
    | none => 0x08

/-- The bytes of a flash slot: its header alone if that is not one. -/
def slotImage (s : State) (base : Nat) : List Byte :=
  let h := flashRead s base 0xA0
  if imgMagic h then flashRead s base (max 0xA0 (min (imgLen h) (2 ^ 24))) else h

/-- The device boots from an image (R363). -/
def takeImage (s : State) (b : List Byte) (slot : Nat) : State :=
  let s1 := ((s.setF Fld.BOOT_STATUS_SLOT slot).setF Fld.BOOT_STATUS_ERR 0).setF Fld.BOOT_STATUS_PHASE 1
  { s1 with boot := { s1.boot with image := b, step := 4 } }

/-- IMAGE_SELECT (step 4 of R358, R363). -/
def imageSelect (s : State) : State :=
  if s.boot.step = 3 ∧ s.getF Fld.BOOT_STATUS_PHASE = 1 then
    let a := slotImage s 0
    let b := slotImage s 0x100_0000
    let ea := imageError s a
    let eb := imageError s b
    if ea = 0 ∧ (eb ≠ 0 ∨ fld b 0x0C 4 ≤ fld a 0x0C 4) then takeImage s a 0
    else if eb = 0 then takeImage s b 1
    else
      let s1 := (s.setF Fld.BOOT_STATUS_ERR ea).setF Fld.BOOT_STATUS_PHASE 15
      if bootSrc s = 2 then s1.setF Fld.BOOT_STATUS_PHASE 2 else s1
  else s

/-- BOOT_CTRL.LOAD (R359): acts while the device waits for a host image (log 58). -/
def bootLoad (s : State) : State :=
  if s.boot.step = 3 ∧ s.getF Fld.BOOT_STATUS_PHASE = 2 then
    if !hostBacked s then s.setF Fld.BOOT_STATUS_ERR 0x0A
    else
      let b := s.rd (hostPa (s.getF Fld.BOOT_HIMG_ADDR * 64)) (min (2 ^ 24) (s.getF Fld.BOOT_HIMG_LEN_LEN))
      let e := imageError s b
      if e = 0 then takeImage s b 2 else s.setF Fld.BOOT_STATUS_ERR e
  else s

/-- MICROCODE_LOAD (step 5 of R358, R418): every control store and the retention memory hold the words, filled with type 0xF;
the cores in `bad` did not compare. -/
def microcodeLoad (s : State) (bad : List CoreId) : State :=
  match (if s.boot.step = 4 then sectionOf s.boot.image 1 else none) with
  | none => s
  | some m =>
    let n := fld m 8 4
    let words := sliceOf m 0x160 (8 * n) ++
      (List.range (16384 - n)).flatMap fun _ => leBytes 8 0xF000_0000_0000_0000
    let d := sha384 m
    let s1 := s.setReg Off.BOOT_UCODE (fld m 12 4 * 2 ^ 32 + fld m 6 1 * 2 ^ 24 + n)
    let s2 := (List.range 6).foldl (fun s i => s.setReg (Off.BOOT_UCODE_DIGEST i) (fld d (8 * i) 8)) s1
    let s3 : State := { s2 with boot := { s2.boot with step := 5, ucode := words, ucodeSvn := fld m 6 1 } }
    (bad.filter fun c => decide ((s3.core c).svc ≠ .retired)).foldl (fun s c =>
      retireCore (s.report { island := (coreUnit c).1, unit := (coreUnit c).2, cls := .core, severity := 2 }) c) s3

/-! ## Islands that start -/

/-- An island passes its self-test and is in service (R358, R379): its voltage offset is measured, and its clocks start. -/
def islandUp (s : State) (i : Fin 44) : State :=
  if islandState s i.val = 5 then s
  else if h : i.val < 30 then
    let j : Fin 30 := ⟨i.val, h⟩
    let s1 := { s.modIsl i (fun _ => { IslPwr.reset with
      offset := (Config.openValue s.freeCtr % 61 : Nat) - (30 : Int) }) with freeCtr := s.freeCtr + 1 }
    let f := findFmax s1 i
    let s2 := ((s1.setF (Fld.PWR_ISL_STATUS_FMAX_MHZ i.val) f).setF (Fld.PWR_ISL_STATUS_FCAP_MHZ i.val) f).modIsl
      (islOf j) fun x => { x with lim := f }
    setIslandState (setClk s2 i (joinClock s2 i)) i 2
  else startFixed s i

/-- The islands of the stand-in set (R367): TILE.0, TILE.20 to TILE.23, CRYPTO.0, XLT.0, NET, HIF, ADM and JNL. -/
def standinSet : List (Fin 44) := [0, 20, 21, 22, 23, 24, 30, 38, 40, 41, 42]

/-! ## Stand-in sections (R364, R369) -/

/-- The stand-in rule header. -/
structure SiHead where
  magic : Nat
  nrule : Nat
  acct : Nat
  amount : Nat
  currency : Nat
  mac : Nat
  macKey : Nat
  macAlg : Nat
  macLen : Nat
  badMac : Nat
  noMatch : Nat
  acctMax : Nat
  bench : Nat
  reserved : Nat
  k0 : Nat
  k1 : Nat
  deriving DecidableEq, Repr

/-- Reads the rule header. -/
def readSiHead (b : List Byte) : SiHead :=
  { magic := fldBe b 0 4, nrule := fld b 4 2, acct := fld b 8 2, amount := fld b 10 2, currency := fld b 12 2,
    mac := fld b 14 2, macKey := fld b 16 2, macAlg := fld b 0x12 1, macLen := fld b 0x13 1, badMac := fld b 0x14 2,
    noMatch := fld b 0x16 2, acctMax := fld b 0x18 8, bench := fld b 0x20 2,
    reserved := fld b 6 2 + fld b 0x22 14, k0 := fld b 0x30 8, k1 := fld b 0x38 8 }

/-- A stand-in rule. -/
structure SiRule where
  key : Nat
  mask : Nat
  amtMax : Nat
  currency : Nat
  absent : Nat
  template : Nat
  alt : Nat
  cntMax : Nat
  flags : Nat
  reserved : Nat
  deriving DecidableEq, Repr

/-- Reads a rule. -/
def readSiRule (b : List Byte) : SiRule :=
  { key := fld b 0 4, mask := fld b 4 4, amtMax := fld b 8 8, currency := fld b 16 2, absent := fld b 18 2,
    template := fld b 20 2, alt := fld b 22 2, cntMax := fld b 24 4, flags := fld b 28 1, reserved := fld b 29 3 }

/-- The rules of a section. -/
def siRules (b : List Byte) : List SiRule :=
  (List.range (readSiHead b).nrule).map fun i => readSiRule (sliceOf b (64 + 32 * i) 32)

/-- A field of a dialect, with its CANON. -/
def canonIs (d : Dialect) (fid canon : Nat) : Bool :=
  (d.fields.any fun f => f.fid == fid && f.canon == canon) || d.paths.any fun p => p.fid == fid && p.canon == canon

/-- A template number of a dialect. -/
def hasTemplate (d : Dialect) (t : Nat) : Bool := decide (t < d.templates.length)

/-- The rule header is in range (R369). -/
def siHeadOk (d : Dialect) (h : SiHead) : Bool :=
  h.magic == 0x53495231 && decide (1 ≤ h.nrule ∧ h.nrule ≤ 1024) && h.reserved == 0 && canonIs d h.acct 2 &&
    canonIs d h.amount 3 && canonIs d h.currency 2 && decide (h.macAlg ≤ 3 ∧ 4 ≤ h.macLen ∧ h.macLen ≤ 16) &&
    (h.mac == 0 || (d.fids.contains h.mac && decide (1 ≤ h.macAlg) && hasTemplate d h.badMac)) &&
    (h.noMatch == 0xFFFF || hasTemplate d h.noMatch) && decide (h.bench ≤ 255)

/-- A rule is in range (R369). -/
def siRuleOk (d : Dialect) (r : SiRule) : Bool :=
  decide (r.currency ≤ 999 ∧ r.flags ≤ 7) && (r.absent == 0 || d.fids.contains r.absent) && hasTemplate d r.template &&
    hasTemplate d r.alt && r.reserved == 0

/-- An SI_DIALECT section is valid (R57, R362, R368). -/
def siDialectOk (dial : List Byte) : Bool :=
  decide (tableSize dial ≤ 458752 ∧ tableSize dial ≤ dial.length) && dialectOk (dial.take (tableSize dial)) 8192

/-- The stand-in sections are valid (R57, R368, R369). -/
def siSectionsOk (dial rules : List Byte) : Bool :=
  let d := readDialect dial
  let h := readSiHead rules
  siDialectOk dial &&
    siHeadOk d h && decide (64 + 32 * h.nrule ≤ rules.length) && (siRules rules).all (siRuleOk d)

/-- The key image of SI_KEYS is restored (step 7 of R358); false if the image is refused. -/
def restoreKeys (s : State) : Bool × State :=
  match sectionOf s.boot.image 4 with
  | none => (true, s)
  | some b => let r := restoreImage s b; (decide (r.1 = .success), r.2)

/-- Stand-in opens (step 8 of R358, R368). -/
def openStandin (s : State) (index : Nat) (dial rules : List Byte) : State :=
  let s1 := (s.wr (tileAddr 0 0x18_0000) rules).wr (tileAddr 0 0x19_0000) (dial.take (tableSize dial))
  let s2 := (s1.setReg Off.BOOT_T_SI s.now).setF (Fld.NET_PORT_STATUS_LINK_UP 0) (b2n (!s.pwr.clkLost.contains .eth))
  let s3 : State := { s2 with boot := { s2.boot with siOpen := true, siDialect := index } }
  (standinSet.foldl islandUp s3).setF Fld.BOOT_STATUS_PHASE 3

/-- STANDIN_OPEN (steps 6 to 8 of R358, R364). -/
def standinOpen (s : State) : State :=
  if s.boot.step ≠ 5 then s
  else
    let (ok, s1) := restoreKeys { s with boot := { s.boot with step := 8 } }
    let b := s.boot.image
    let index := ((imgSections b).find? fun x => x.type == 2).map fun x => x.index
    let shut (s : State) : State := standinSet.foldl islandUp s
    match sectionOf b 2, sectionOf b 3 with
    | some dial, some rules =>
      if !ok ∨ !siSectionsOk dial rules then shut (s1.setF Fld.BOOT_STATUS_ERR 0x09)
      else if s.policy 3 then shut s1
      else openStandin s1 (index.getD 0) dial rules
    | some dial, none =>
      shut ((if ok && siDialectOk dial then s1 else s1.setF Fld.BOOT_STATUS_ERR 0x09).setReg Off.BOOT_T_SI s1.now)
    | none, _ => shut ((if ok then s1 else s1.setF Fld.BOOT_STATUS_ERR 0x09).setReg Off.BOOT_T_SI s1.now)

/-- HBM_INIT_DONE (step 9 of R358): after a cold reset HBM is zero and every storage key 0. -/
def hbmInitDone (s : State) : State :=
  if s.boot.step ≠ 8 then s
  else
    let s1 : State := { s with boot := { s.boot with step := 9 } }
    if s1.getF Fld.BOOT_STATUS_WARM = 1 then s1
    else
      { s1 with mem := s1.mem.filter fun p => !inHbm p.1, skeys := [], ldg := { s1.ldg with poison := [] } }

/-- The remaining Kolat lanes are trained (step 10 of R358); without their reference clock none is (R453). -/
def trainKolat (s : State) : State :=
  if s.pwr.clkLost.contains .kol then s
  else allPorts.foldl (fun s p => learnNeighbour (s.setF (Fld.KOL_PORT_STATUS_LINK_UP p.val) 1) p) s

/-- The remaining Ethernet lanes are trained as MODE groups them (step 10 of R358, R43); without their reference clock none is
(R453). -/
def trainEth (s : State) : State :=
  if s.pwr.clkLost.contains .eth then s
  else allPorts.foldl (fun s p =>
    if p.val ≠ 0 ∧ portGrouped s p then s.setF (Fld.NET_PORT_STATUS_LINK_UP p.val) 1 else s) s

/-- Steps 10 and 11 of R358 but for the SETUP section: every other island passes its self-test, the remaining lanes are
trained, and AVS starts. -/
def bringupRest (s : State) : State :=
  let early : Nat → Bool := fun i => standinSet.any fun j => j.val == i
  let s1 := (List.finRange 44).foldl (fun s i => if early i.val ∨ i.val = 43 then s else islandUp s i) s
  let s2 := trainKolat (trainEth s1)
  avsWrite { s2.setF Fld.BOOT_STATUS_PHASE 4 with boot := { s2.boot with step := 11 } }

end Sys2Proof.Machine
end

