-- ==== Sys2Proof/Machine/Release.lean ====
section
/-! DEFINITION. Full release (R374 to R376), and fuses that are programmed (R360, R365). -/

namespace Sys2Proof.Machine

/-! ## The stand-in log (R372) -/

/-- Where entry `k` of the stand-in log lies: the primary copy in TILE.20 and TILE.21, the second two tiles on. -/
def logAddr (second : Bool) (k : Nat) : Nat := tileAddr (20 + k / 65536 + 2 * b2n second) (64 * (k % 65536))

/-- A tile's store holds what was written there: the tile runs, is quiescing or is held. -/
def storeHolds (s : State) (t : Nat) : Bool := [2, 3, 4].contains (islandState s t)

/-- Entry `k` of the stand-in log, from the second copy if the tile of the first does not hold it (R373). -/
def logRead (s : State) (k : Nat) : List Byte := s.rd (logAddr (!storeHolds s (20 + k / 65536)) k) 64

/-- A tile of the log that returns with a cleared store while stand-in or release still needs the log receives its copy again
from the other copy (R373; log 60). -/
def restoreLog (s : State) (t : Nat) : State :=
  let second := decide (22 ≤ t)
  if 20 ≤ t ∧ t < 24 ∧ s.getF Fld.BOOT_STATUS_PHASE < 6 then
    (List.range (siLog s)).foldl (fun s k =>
      if 20 + k / 65536 + 2 * b2n second = t then s.wr (logAddr second k) (s.rd (logAddr (!second) k) 64) else s) s
  else s

/-- Writes both copies of an entry. -/
def logPut (s : State) (k : Nat) (e : List Byte) : State := (s.wr (logAddr false k) e).wr (logAddr true k) e

/-! ## Release conditions (R374) -/

/-- The stand-in rule header in force. -/
def siHead (s : State) : SiHead := readSiHead (s.rd (tileAddr 0 0x18_0000) 64)

/-- ADVICE_BENCH of the running image. -/
def adviceBench (s : State) : Nat :=
  match sectionOf s.boot.image 3 with
  | some r => (readSiHead r).bench % 256
  | none => 0

/-- Free slots of a bench. -/
def benchFree (s : State) (n : Nat) : Nat :=
  let x := s.bench n
  (List.range x.cap).countP fun i => !slotTaken s n x i

/-- The stand-in connections that are still served. -/
def standinConns (s : State) : List Conn := s.net.conns.filter fun c => decide (c.st ≠ .closed)

/-- The address of an entry of the main connection table. -/
def mainConn (s : State) (h : Nat) : Nat := s.getF Fld.NET_CONN_BASE_BASE * 4096 + 256 * h

/-- The first release condition that does not hold, zero if all do (the table *Release conditions*). A journal tail is named once
a journal-tail command has been taken (log 41). -/
def releaseError (s : State) : Nat :=
  let x := s.bench (adviceBench s)
  if s.getF Fld.BOOT_STATUS_PHASE ≠ 4 then 0x20
  else if s.getF (Fld.JNL_AREA_ARMED (s.getF Fld.JNL_STATUS_AREA)) = 0 ∨ s.getF Fld.JNL_CTRL_ENABLE = 0 then 0x21
  else if siLog s ≠ 0 ∧
      !(x.online && x.klen == 8 && x.size == 0 && !x.sharded && decide (siLog s ≤ benchFree s (adviceBench s))) then 0x22
  else if (standinConns s).any fun c => (islandRead s .net (mainConn s c.h) 1).1 != some [0] then 0x23
  else if 2 ^ 53 ≤ s.getF Fld.ADM_ANSEQ_NEXT then 0x24
  else if s.jnl.tailNamed ∧ s.jnl.tailSeal = none then 0x25
  else 0

/-! ## Epoch 0 (R297, R375) -/

/-- The journal takes up the resume point, after the tail if one was sealed (R296, R297; log 41). -/
def resumeJournal (s : State) : State :=
  match (if s.jnl.tailSeal.isSome then s.jnl.recs.getLast? else none) with
  | some r =>
    { s.setF Fld.JNL_STATUS_EPOCH 0 with jnl := { s.jnl with next := r.jsn + 1, chain := r.chain } }
  | none =>
    { s.setF Fld.JNL_STATUS_EPOCH 0 with jnl := { s.jnl with
        next := s.getF Fld.JNL_RESUME_JSN_NEXT, chain := regHash s Off.JNL_RESUME_CHAIN,
        prevSeal := regHash s Off.JNL_RESUME_SEAL, outChain := regHash s Off.JNL_RESUME_CHAIN } }

/-- Journals the advice of entry `k` (R375 step 3) and applies its insert (R251; log 59). -/
def journalAdvice (s : State) (k : Nat) : State :=
  let e := logRead s k
  let n := adviceBench s
  let x := s.bench n
  let j := s.jnl.next
  let key := leBytes 8 j
  let an := fld e 0 8
  let tin := fld e 8 8
  let w (slot : Option Nat) : WEntry :=
    { hash := x.hashOf key, bench := n, op := .insert, node := s.node, key := key, img := none, data := sliceOf e 0x18 40,
      slot := slot }
  let s1 := (assignAt s 0 ((tin + fld e 0x10 4) % 2 ^ 64)
    { kind := 1, flags := 1, nent := 1, an := an, tin := tin, deadline := (tin + 2000000) % 2 ^ 64,
      typeKey := sliceOf e 0x14 4, program := 0xFFFF, cls := 0 } (writeEntryOf x (w none))).bump Off.JNL_COMMIT_CNT
  match insertSlot s1 n x (x.hashOf key) true with
  | some (slot, s2) => applyEntry j an 0 s2 (w (some slot))
  | none => s1

/-- One record of epoch 0 (R375 step 3): its head, then the advice of one log entry after the other. -/
def epochZeroRec (s : State) : State :=
  let k := s.boot.relAt
  let s1 :=
    if k = 0 then (let r := resumeJournal s; headRec r (r.reg Off.BOOT_T_PG) (r.jnl.next - 1)) else journalAdvice s (k - 1)
  noteFull { s1 with boot := { s1.boot with relAt := k + 1 } }

/-- Bytes that the records with a JSN will still take in the journal area. -/
def unwritten (s : State) : Nat := ((s.jnl.recs.filter fun r => !r.complete).map fun r => 64 + r.bytes.length).sum

/-- JNL assigns a JSN to a record of release (R288): what has been assigned just before and is not yet written counts as written,
since release assigns one after the other. -/
def releaseRoom (s : State) : Bool :=
  canAssign s && decide (65536 + unwritten s ≤ areaFree s (s.getF Fld.JNL_STATUS_AREA))

/-- Step 3 of R375: records of epoch 0 while JNL assigns JSNs (R288), at most `n`. -/
def journalEpochZero : Nat → State → State
  | 0, s => s
  | n + 1, s =>
    if siLog s < s.boot.relAt then s
    else if releaseRoom s then journalEpochZero n (epochZeroRec s) else noteFull s

/-- Epoch 0 closes at this time (R297). -/
def closeEpochZero (s : State) : State :=
  let e : JEpoch := { epoch := 0, first := s.jnl.first, last := s.jnl.next - 1, seamOpen := s.reg Off.BOOT_T_PG,
                      seamClose := s.now, flags := 2, gepoch := none, st := .closing, sealBytes := [], retryAt := 0,
                      exported := 0 }
  { s with jnl := { s.jnl with closing := s.jnl.closing ++ [e] } }

/-- Step 4 of R375: the stand-in connections go to the main table at the same handles and to PORT.1, and PORT.0
retrains. With PORT.1 down they are handed back with PORT_DOWN (R54). -/
def moveStandin (s : State) : State :=
  let s1 := (standinConns s).foldl (fun s c =>
    (islandWrite s .net (mainConn s c.h) (s.rd (tileAddr 0 0x20_0000 + 256 * c.h) 256)).2) s
  let s2 : State := { s1 with boot := { s1.boot with siOpen := false } }
  let s3 := if portLinkUp s2 1 then failOver s2 0 else (portConns s2 0).foldl (fun s c => closeConn s c 0x09) s2
  s3.setF (Fld.NET_PORT_STATUS_LINK_UP 0) 0

/-- A journal tail's seal is journalled in the first main epoch (log 41). -/
def journalTailSeal (s : State) : State :=
  match s.jnl.tailSeal with
  | none => s
  | some bs => assignRec { s with jnl := { s.jnl with tailSeal := none } } { kind := 4, nent := 1 } bs

/-- A seam that a TICK has named and that passed before release is over: the first main epoch does not close at it (R314). -/
def passOldSeam (s : State) : State :=
  match s.kol.tick with
  | some t => if t.seam ≤ s.now then cascadeSeam s t else s
  | none => s

/-- The cascade takes part from release on (R312); the topology is now fixed. -/
def joinLead (s0 : State) : State :=
  let s := allPorts.foldl learnNeighbour s0
  let s1 : State := { s with kol := { s.kol with lead := s.getF Fld.KOL_ROLE_LEAD, hbAt := s.now } }
  if s.getF Fld.KOL_ROLE_LEADSTRAP = 1 ∧ s.getF Fld.KOL_CTRL_TOPO ≠ 0 then s1.setF Fld.KOL_STATUS_ACTING_LEAD 1 else s1

/-- A tile of stand-in leaves service until it joins (R376). -/
def awaitJoin (s : State) (t : Fin 44) : State := if islandState s t.val = 2 then setIslandState s t 1 else s

/-- The tiles that join only after release (R376). -/
def standinTiles : List (Fin 44) := [0, 20, 21, 22, 23]

/-- Step 5 of R375: RWL fields lock, PHASE is RELEASED, the first main epoch opens. The tiles of stand-in start once they are
zeroed (R376). -/
def finishRelease (s : State) : State :=
  let s1 := (s.setF Fld.SYS_STATUS_LOCKED 1).setReg Off.BOOT_T_REL s.now
  let s2 := headRec (s1.setF Fld.JNL_STATUS_EPOCH (s.getF Fld.JNL_RESUME_EPOCH_NEXT)) s.now (s.jnl.next - 1)
  let s3 := journalTailSeal s2
  let s4 := joinLead { s3 with jnl := { s3.jnl with running := true } }
  let s5 := standinTiles.foldl awaitJoin (passOldSeam s4)
  noteFull (s5.setF Fld.BOOT_STATUS_PHASE 6)

/-- Nothing of stand-in is outstanding (R375 step 2). -/
def standinDone (s : State) : Bool :=
  !(s.txns.any fun t => t.si) && !(s.busy.any fun b => b.si) &&
    !(s.xlt.any fun w => match w.what with | .busy b => b.si | _ => false)

/-- Release goes on once the outstanding stand-in work has ended (R375): JSNs wait for room in the journal area (R288), that of the
main epoch's head too. -/
def releaseProgress (s : State) : State :=
  if s.getF Fld.BOOT_STATUS_PHASE = 5 ∧ standinDone s then
    let s1 := journalEpochZero (siLog s + 2) s
    if siLog s1 < s1.boot.relAt ∧ releaseRoom s1 then finishRelease (moveStandin (closeEpochZero s1)) else noteFull s1
  else s

/-- BOOT_CTRL.RELEASE (R374, R375). -/
def bootRelease (s : State) : State :=
  let e := releaseError s
  if e ≠ 0 then s.setF Fld.BOOT_STATUS_REL_ERR e
  else releaseProgress ((s.setF Fld.BOOT_STATUS_REL_ERR 0).setF Fld.BOOT_STATUS_PHASE 5)

/-! ## TILE.0 and TILE.20 to TILE.23 join (R376) -/

/-- A tile that waits for release is zeroed and joins service; one that is held is zeroed. -/
def joinTile (s : State) (t : Fin 44) : State :=
  if islandState s t.val = 4 then clearTileStore s t.val
  else if islandState s t.val = 1 ∧ (s.isl t).action.isNone then
    let s1 := clearTileStore s t.val
    setIslandState (setClk s1 t (joinClock s1 t)) t 2
  else s

/-- STANDIN_TILES_JOIN (R376): TILE.0 after release; the log's tiles once epoch 0 is in its journal area. -/
def standinTilesJoin (s : State) : State :=
  if s.getF Fld.BOOT_STATUS_PHASE ≠ 6 then s
  else
    let s1 := if islandState s 0 = 1 then joinTile s 0 else s
    if (s1.jnl.recs.any fun r => r.epoch == 0 && !r.complete) ∨ s1.boot.relAt = 0 then s1
    else
      let s2 := ([20, 21, 22, 23] : List (Fin 44)).foldl joinTile (s1.setF Fld.BOOT_STATUS_SILOG 0)
      { s2 with boot := { s2.boot with relAt := 0 } }

/-! ## Fuses -/

/-- Fuse bit `i`. -/
def fuseBit (s : State) (i : Nat) : Bool := bitAt (s.fuseByte (i / 8)) (i % 8)

/-- Starts to program fuse bits (BOOT_STATUS.FUSE_BUSY). -/
def programFuses (s : State) (bits : List Nat) : State :=
  { s.setF Fld.BOOT_STATUS_FUSE_BUSY 1 with boot := { s.boot with fusing := s.boot.fusing ++ bits } }

/-- BOOT_CTRL.SVN_COMMIT (R365): before release it is discarded. -/
def svnCommit (s : State) : State :=
  if s.getF Fld.BOOT_STATUS_PHASE = 6 then
    programFuses s (((List.range (fld s.boot.image 0x10 1)).map fun i => 8 * 0x140 + i) ++
      (List.range s.boot.ucodeSvn).map fun i => 8 * 0x150 + i)
  else s

/-- BOOT_FUSE_PROG (R360): one bit of the operator's fields, before release. -/
def fuseProgram (s : State) (bit : Nat) : State :=
  if 8 * 0x70 ≤ bit ∧ bit < 8 * 0x132 ∧ s.getF Fld.BOOT_STATUS_PHASE ≠ 6 then programFuses s [bit] else s

/-- A fuse write is over: the bits read 1 from now on (R360, R365). -/
def fuseWriteDone (s : State) : State :=
  let s1 := s.boot.fusing.foldl (fun s i =>
    let off := Off.BOOT_FUSE_RD (i / 64)
    s.setReg off (putBits (s.reg off) (i % 64) 1 1)) s
  { s1.setF Fld.BOOT_STATUS_FUSE_BUSY 0 with boot := { s1.boot with fusing := [] } }

end Sys2Proof.Machine
end

