-- ==== Sys2Proof/Machine/Xlt.lean ====
section
/-! DEFINITION. The translator's lanes (R66 to R78): the work that a lane takes, records, templates, response MACs, and the
commands that parse, answer and serialise. -/

namespace Sys2Proof.Machine

/-! ## Dialects in force -/

/-- The fixed place of the stand-in dialect table (R368). -/
def standinTable : Nat := tileAddr 0 0x19_0000

/-- A read by XLT; stand-in's fixed areas take no MPU check (log 40). -/
def xltRead (s : State) (si : Bool) (pa n : Nat) : Option (List Byte) × State :=
  if si then (some (s.rd pa n), s) else islandRead s .xlt pa n

/-- A write by XLT. -/
def xltWrite (s : State) (si : Bool) (pa : Nat) (bs : List Byte) : State :=
  if si then s.wr pa bs else (islandWrite s .xlt pa bs).2

/-- The dialect table at an address: none if there is none or its read is refused (log 25). -/
def dialectAt (s : State) (si : Bool) (pa : Nat) : Option Dialect × State :=
  if pa = 0 then (none, s)
  else match xltRead s si pa 64 with
    | (none, s1) => (none, s1)
    | (some h, s1) =>
      match xltRead s1 si pa (max 64 (tableSize h)) with
      | (none, s2) => (none, s2)
      | (some t, s2) => (some (readDialect t), s2)

/-- The message-type key of a message (R61). -/
def typeKey (d : Dialect) (raw : List Byte) : Option Nat := if d.xml then xmlKey d raw else isoKey d raw

/-- Reads a message (R74, R76). -/
def parseMsg (d : Dialect) (raw : List Byte) (full : Bool) : Parsed :=
  if d.xml then xmlParse d raw full else isoParse d raw full

/-- The echo fields of a message that was read. -/
def Parsed.echo (d : Dialect) (r : Parsed) : Vals := r.vals.filter fun v => d.echoes v.1

/-! ## Lanes -/

/-- A lane takes work: in service, on an island that runs, and not busy with a response that waits for its MAC (R74, R78, R387,
R402; XLT_CTRL.LANES; log 50). -/
def laneServes (s : State) (l : Fin 32) : Bool :=
  bitAt (s.getF Fld.XLT_CTRL_LANES) l.val && !s.inTest (.xltLane l) && islandState s (30 + l.val / 8) == 2 &&
    !(s.xlt.any fun w => w.lane == l)

/-- A response of a transaction waits for its MAC. -/
def atMac (s : State) (an : Nat) : Bool :=
  s.xlt.any fun w => match w.what with
    | .committed a => a == an
    | .templated a _ _ _ _ => a == an
    | .busy _ => false

/-- What a lane works on: a transaction, or a refused message. -/
inductive LaneJob where
  | txn (t : Txn)
  | busy (b : BusyRsp)
  deriving DecidableEq, Repr

/-- The deadline of a piece of work: for a busy response the time ADM took the message plus 50 µs (R74). -/
def LaneJob.deadline : LaneJob → Nat
  | .txn t => t.deadline
  | .busy b => b.at_ + 50000

/-- The AN that breaks ties; a busy response has none and comes first (log 25). -/
def LaneJob.an : LaneJob → Nat
  | .txn t => t.an
  | .busy _ => 0

/-- A transaction waits for a lane: to be parsed, serialised or declined. -/
def Txn.atLane (t : Txn) : Bool :=
  match t.phase with
  | .parse => true
  | .committed => true
  | .declined _ => true
  | _ => false

/-- A lane may take a stand-in message: lanes 0 to 3 alone do (R367). -/
def laneFor (l : Fin 32) (si : Bool) : Bool := !si || decide (l.val < 4)

/-- The work that waits for a lane. A transaction whose dialect table cannot be read is passed over (log 25). -/
def laneJobs (s : State) (l : Fin 32) : List LaneJob :=
  ((s.txns.filter fun t => t.atLane && laneFor l t.si && !atMac s t.an && (dialectAt s t.si t.dtab).1.isSome).map .txn) ++
    (s.busy.filter fun b => laneFor l b.si).map .busy

/-- The work that comes first (R74): earliest deadline, ties on AN. -/
def firstJob (l : List LaneJob) : Option LaneJob :=
  l.foldl (fun acc x =>
    match acc with
    | none => some x
    | some y => if older x.deadline x.an y.deadline y.an then some x else acc) none

/-- The transaction that a lane takes next. -/
def laneTxn (s : State) (l : Fin 32) : Option Txn :=
  match firstJob (laneJobs s l) with
  | some (.txn t) => some t
  | _ => none

/-- The refused message that a lane takes next. -/
def laneBusy (s : State) (l : Fin 32) : Option BusyRsp :=
  match firstJob (laneJobs s l) with
  | some (.busy b) => some b
  | _ => none

/-- Records an error in XLT_LAST_ERR. -/
def noteXltErr (s : State) (dialect : Nat) (e : XErr) : State :=
  s.setReg Off.XLT_LAST_ERR (e.off % 2 ^ 32 * 2 ^ 32 + e.fid % 2 ^ 16 * 2 ^ 16 + dialect % 256 * 256 + e.code)

/-! ## Response MACs (R73, R272) -/

/-- Key TYPEs that suit a MAC_ALG. -/
def macTypes (alg : Nat) : List Nat := match alg with | 1 => [1, 2, 3] | 2 => [4, 5] | _ => [6]

/-- The job kind of a MAC_ALG: AES CMAC, TDES retail MAC, HMAC-SHA-256 (R73, R263). -/
def macOp (alg : Nat) : Nat := match alg with | 1 => 0x10 | 2 => 0x14 | _ => 0x08

/-- A response that needs a MAC: what stands before and after the MAC, what it is computed over, whether it goes out as text,
and the characters substituted. -/
structure MacText where
  pre : List Byte
  post : List Byte
  input : List Byte
  hex : Bool
  subst : Nat
  deriving DecidableEq, Repr

/-- A response on the wire: its bytes, its bytes but for the MAC, or the error of one that cannot be serialised. -/
inductive Written where
  | bytes (b : List Byte) (subst : Nat)
  | mac (m : MacText)
  | error (e : XErr)
  deriving DecidableEq, Repr

/-- Serialises a response up to its MAC (R72, R73). The MAC of an ISO 8583 message covers what stands between the header and
the MAC's data; that of a document covers all of it with the MAC element empty. -/
def writeResponse (d : Dialect) (mti : Nat) (hdr : List Byte) (vals : Vals) (strict mac : Bool) : Written :=
  match (if d.xml then xmlSerialise d hdr vals strict mac else isoSerialise d mti hdr vals strict mac) with
  | .error e => .error e
  | .ok w =>
    match w.macAt with
    | none => .bytes w.bytes w.subst
    | some a =>
      .mac { pre := w.bytes.take a, post := w.bytes.drop (if d.xml then a else a + d.macLen),
             input := (if d.xml then w.bytes else w.bytes.take a).drop w.mtiAt, hex := d.xml, subst := w.subst }

/-- The engine time of a MAC over `n` bytes (R263). -/
def macCost (op param n : Nat) : Nat :=
  costOf { op := op, param := param, key1 := 0, key2 := 0, inp := 0, inLen := n, outLen := 0, out := 0, aux := 0,
           auxLen := 0, mlen := 0, reserved := 0 } 0 0 0

/-- Issues the MAC job of a response (R73, R265): to the cluster nearest the lane, with the priority of its transaction, charged
to the program's SYM_NS. A busy response has its own deadline and AN 0, and no run. -/
def issueMac (s : State) (lane : Fin 32) (d : Dialect) (what : LaneFor) (deadline an run : Nat) (m : MacText) : State :=
  let op := macOp d.macAlg
  let param := if d.macAlg = 2 then max 1 d.macPad else 0
  let cost := macCost op param m.input.length
  let j : CJob :=
    { id := s.cry.nextJob, who := .mac lane, cluster := 3 * lane.val / 16, data := m.input, res := [], bkt := 0, an := an,
      run := run, core := 0, bank := 0, deadline := deadline, kind := .sym, op := op, param := param, key1 := d.macKey,
      key2 := 0, inp := [], aux := [], out := [], outCap := d.macLen, mlen := d.macLen, desc := 0, cost := cost, key := 0,
      typ := none, reissued := false, fails := 0, avoid := [], keys := none, work := 0, told := false, st := .waiting }
  let w : LaneWork :=
    { lane := lane, job := j.id, what := what, pre := m.pre, post := m.post, hex := m.hex, subst := m.subst }
  let s1 : State := { s with
    cry := { s.cry with jobs := s.cry.jobs ++ [j], nextJob := s.cry.nextJob + 1 }, xlt := s.xlt ++ [w] }
  s1.modTxn an fun t => if t.run = run then { t with declSym := t.declSym + cost } else t

/-- The run that no transaction has, for the MAC of a busy response. -/
def noRun : Nat := 2 ^ 64

/-! ## Templates (R66) -/

/-- The header bytes of a templated response: those of the request, or open bytes if it has none (log 25). -/
def templateHeader (s : State) (d : Dialect) (vals : Vals) : List Byte × State :=
  match vals.lookup 0 with
  | some h => (h, s)
  | none => s.openBytes d.hdrLen

/-- A value that a template writes: one item where its path entry repeats (R65). -/
def templateVal (d : Dialect) (fid : Nat) (v : List Byte) : Vals :=
  if fid = 0 then []
  else match d.pathFid fid with
    | some p => [(fid, if p.repeat_ = 1 then v else leBytes 2 v.length ++ v)]
    | none => [(fid, v)]

/-- The values of a templated response: the echo fields, CODE and the reason. -/
def templateVals (d : Dialect) (x : Template) (vals : Vals) (reason : List Byte) : Vals :=
  templateVal d x.reasonFid reason ++ templateVal d x.codeFid (x.code.takeWhile fun b => b != 0) ++ vals

/-- A response of a template (R66): with a MAC when FLAGS[0] is set, MAC_ALG is not 0 and `mac` asks for it. -/
def templated (s : State) (d : Dialect) (tpl : Nat) (reason : List Byte) (p : Parsed) (mac : Bool) : Written × State :=
  let x := d.templates.getD tpl (readTemplate [])
  let vals := templateVals d x (p.echo d) reason
  let (hdr, s1) := templateHeader s d vals
  (writeResponse d (bcdAdd (p.mti.getD 0) x.mtiAdd) hdr vals false (mac && bitAt x.flags 0 && d.macAlg != 0), s1)

/-- A reason code as two uppercase hexadecimal characters (R66). -/
def hexReason (r : Nat) : List Byte :=
  (nibbles [byte r]).map fun x => byte (if x < 10 then 0x30 + x else 0x41 + x - 10)

/-- Counts substituted characters (R62). -/
def noteSubst (s : State) (n : Nat) : State := s.bump Off.XLT_SUBST_CNT n

/-- The reason of a transaction's templated response: "00" for a stand-in decision (R370). -/
def Txn.reasonText (t : Txn) (code : Nat) : List Byte := if t.tpl.isSome then bytesOf [0x30, 0x30] else hexReason code

/-- What a templated response takes from the message of its transaction: what a full parse read if it is the answer to a parse
error or a stand-in decision, else an echo scan (R66, R74). -/
def Txn.echoOf (t : Txn) (d : Dialect) : Parsed := parseMsg d t.msg (decide (t.phase = .parse) || t.tpl.isSome)

/-- The templated response of a transaction is complete. A parse error is counted and the response handed on (R76); a serialise
fault is counted and logged and the response waits for the mirror (R77); a decline or a stand-in decision is handed on. -/
def answerTempl (s : State) (lane : Fin 32) (t : Txn) (e : XErr) (bs : List Byte) : State :=
  match t.phase with
  | .parse => handTxn (noteXltErr (s.bump Off.XLT_PERR_CNT) t.dialect e) { t with rsp := some bs, code := e.code }
  | .committed =>
    if t.tpl.isSome then handTxn s { t with rsp := some bs, phase := .serialised }
    else
      let s1 := noteXltErr (s.bump Off.XLT_SERR_CNT) t.dialect e
      let s2 := s1.report { island := 30 + lane.val / 8, unit := lane.val % 8, cls := .serialise, severity := 5,
                            code := e.code, an := t.an, detail := t.jsn.getD 0 }
      handWhenReady (s2.modTxn t.an fun t => { t with rsp := some bs, code := e.code, phase := .serialised }) t.an
  | _ => handTxn s { t with rsp := some bs, code := e.code }

/-- Builds the templated response of a transaction (R66); one that cannot be written is empty (log 25). -/
def sendTempl (s : State) (lane : Fin 32) (d : Dialect) (t : Txn) (tpl : Nat) (e : XErr) (mac : Bool) : State :=
  match templated s d tpl (t.reasonText e.code) (t.echoOf d) mac with
  | (.bytes b n, s1) => answerTempl (noteSubst s1 n) lane t e b
  | (.error _, s1) => answerTempl s1 lane t e []
  | (.mac m, s1) => issueMac s1 lane d (.templated t.an tpl e.code e.off e.fid) t.deadline t.an t.run m

/-- Builds a busy response from template 0 (R32, R66). -/
def sendBusy (s : State) (lane : Fin 32) (d : Dialect) (b : BusyRsp) (mac : Bool) : State :=
  match templated s d 0 (hexReason b.reason) (parseMsg d b.msg false) mac with
  | (.bytes x n, s1) => handBusy (noteSubst s1 n) b x
  | (.error _, s1) => handBusy s1 b []
  | (.mac m, s1) => issueMac s1 lane d (.busy b) (b.at_ + 50000) 0 noRun m

/-! ## Records (R69 to R71) -/

/-- Places values in the heap from an offset on: directory words by FID, the heap's bytes, and the next free offset. -/
def placeVals : Vals → Nat → List (Nat × Nat) × List Byte × Nat
  | [], off => ([], [], off)
  | v :: t, off =>
    let n := roundUp v.2.length 8
    let r := placeVals t (off + n)
    ((v.1, v.2.length * 2 ^ 16 + off / 8) :: r.1, sliceOf v.2 0 n ++ r.2.1, r.2.2)

/-- Values in ascending FID order. -/
def sortVals (vals : Vals) : Vals := vals.mergeSort fun a b => decide (a.1 ≤ b.1)

/-- SOURCE (R69): the connection handle, or the ring index and the host-ring bit. -/
def TxnSrc.code : TxnSrc → Nat
  | .conn h _ _ => h
  | .sq n _ _ _ => 2 ^ 31 + (ringSQ n).val

/-- A record (R69): its bytes up to USED. `raw` is the wire copy of a request. -/
def recordBytes (d : Dialect) (t : Txn) (kind mti size flags macin : Nat) (raw : Option (List Byte)) (vals : Vals) :
    List Byte :=
  let rawLen := (raw.map List.length).getD 0
  let start := d.heap + roundUp rawLen 8
  let (dir, body, used) := placeVals (sortVals vals) start
  let head := bytesOf [0x45, 0x57, kind, t.dialect] ++ leBytes 2 d.fieldMax ++ leBytes 2 mti ++ leBytes 4 size ++
    leBytes 4 used ++ leBytes 8 t.an ++ leBytes 8 t.deadline ++ leBytes 8 t.tin ++ leBytes 4 t.src.code ++
    leBytes 2 t.prog ++ bytesOf [t.pd.cls % 4, flags] ++ leBytes 4 (if raw.isSome then d.heap else 0) ++
    leBytes 4 rawLen ++ leBytes 4 macin ++ sliceOf t.typeKey 0 4
  let words := (List.range d.fieldMax).flatMap fun i => leBytes 4 ((dir.lookup i).getD 0)
  sliceOf (head ++ words) 0 d.heap ++ sliceOf (raw.getD []) 0 (roundUp rawLen 8) ++ body

/-- G1 or G2 (R67): a window's address plus the record's offset in its area. -/
def windowVa (s : State) (k : Nat) (off : Nat) : Nat := s.getF (Fld.XLT_VWIN_VA k) * 4096 + off

/-- Where the records of a transaction go (R67, R368): addresses and window addresses of the small and extension forms. -/
structure RecAreas where
  smallReq : Nat
  extReq : Nat
  rsp : Nat
  reqMax : Nat
  smallMax : Nat
  rspMax : Nat
  g1Small : Nat
  g1Ext : Nat
  g2 : Nat
  deriving DecidableEq, Repr

/-- The record areas of a transaction under its dialect. -/
def recAreas (s : State) (d : Dialect) (t : Txn) : RecAreas :=
  if t.si then
    let a := tileAddr 0 (16384 * t.slot)
    { smallReq := a, extReq := a, rsp := a, reqMax := 16384, smallMax := 16384, rspMax := 16384, g1Small := 0,
      g1Ext := 0, g2 := 0 }
  else
    let i := t.home.val * tileMax s + t.slot
    let lost := s.err.retired.contains (tileCode t.home.val)
    let small := d.rspKib = 0 ∧ !lost
    { smallReq := smallReq s t.home t.slot, extReq := extReq s t.home t.slot,
      rsp := (if small then smallRsp s t.home t.slot else extRsp s t.home t.slot), reqMax := 131072,
      smallMax := (if lost then 0 else s.getF Fld.XLT_REC_REQ_BYTES), rspMax := d.rspSize (s.getF Fld.XLT_REC_RSP_BYTES),
      g1Small := windowVa s 0 (t.slot * s.getF Fld.XLT_REC_REQ_BYTES), g1Ext := windowVa s 2 (i * 131072),
      g2 := (if small then windowVa s 1 (t.slot * s.getF Fld.XLT_REC_RSP_BYTES) else windowVa s 3 (i * 65536)) }

/-- Writes the request record to the small slot with its image copy, or to the extension (R67, R403). -/
def writeRequest (s : State) (t : Txn) (a : RecAreas) (bs : List Byte) : State :=
  if t.si then s.wr a.smallReq bs
  else if bs.length ≤ a.smallMax then xltWrite (xltWrite s false a.smallReq bs) false a.extReq bs
  else xltWrite s false a.extReq bs

/-- A parsed message becomes a request record and an initialised response record, and its transaction joins the tile
queue (R67, R71, R86). -/
def placeRecords (s : State) (t : Txn) (a : RecAreas) (req : List Byte) (rsp : List Byte) : State :=
  let small := decide (req.length ≤ a.smallMax)
  let s1 := writeRequest s t a req
  let s2 := xltWrite s1 t.si a.rsp rsp
  (s2.bump Off.XLT_PARSE_CNT).modTxn t.an fun t =>
    { t with phase := .queued, reqPa := (if small then a.smallReq else a.extReq), reqLen := req.length, rspPa := a.rsp,
             rspImage := rsp, g1 := (if small then a.g1Small else a.g1Ext), g2 := a.g2 }

/-- A parse error ends the transaction as a technical decline, answered from template 1 (R76). -/
def parseError (s : State) (lane : Fin 32) (d : Dialect) (t : Txn) (e : XErr) : State := sendTempl s lane d t 1 e true

/-- The records of a stand-in message share its 16 KiB slot: the response record follows the request record (log 40). -/
def RecAreas.shared (a : RecAreas) (req : Nat) : RecAreas :=
  { a with reqMax := roundUp req 64, smallMax := roundUp req 64, rsp := a.smallReq + roundUp req 64,
           rspMax := a.reqMax - roundUp req 64 }

/-- Parses an accepted message (R67, R71, R74, R76). -/
def parseTxn (s : State) (lane : Fin 32) (d : Dialect) (t : Txn) : State :=
  let p := parseMsg d t.msg true
  let a0 := recAreas s d t
  match p.err with
  | some e => parseError s lane d t e
  | none =>
    let mti := p.mti.getD 0
    let req0 := recordBytes d t 1 mti 0 (b2n p.skipped) p.macin (some t.msg) p.vals
    let a := if t.si then a0.shared req0.length else a0
    let size := if req0.length ≤ a.smallMax then a.smallMax else a.reqMax
    let req := patch req0 8 (leBytes 4 size)
    let rmti := if d.xml then 0 else bcdAdd mti d.rspMtiAdd
    let rsp := recordBytes d t 2 rmti a.rspMax (b2n p.skipped) 0 none (p.echo d)
    if a0.reqMax < req.length ∨ a.rspMax < rsp.length then
      parseError s lane d t { code := 0x2B, off := t.msg.length, fid := 0 }
    else placeRecords s t a req rsp

/-- XLT_PARSE (R67): a lane parses the accepted message that comes first. -/
def execXltParse (lane : Fin 32) (s : State) : Host.Outcome State Fault Refusal :=
  .next (releaseProgress <| if !laneServes s lane then s
    else match laneTxn s lane with
      | none => s
      | some t =>
        if t.phase ≠ .parse then s
        else match dialectAt s t.si t.dtab with
          | (none, s1) => s1
          | (some d, s1) => parseTxn s1 lane d t)

/-! ## Busy responses and declines -/

/-- XLT_ECHO_SCAN (R74): a lane scans a refused message for its echo fields and builds its busy response from template
0. Without a dialect table there is none to build (log 25). -/
def execXltEchoScan (lane : Fin 32) (s : State) : Host.Outcome State Fault Refusal :=
  .next (releaseProgress <| if !laneServes s lane then s
    else match laneBusy s lane with
      | none => s
      | some b =>
        let s0 : State := { s with busy := s.busy.erase b }
        match dialectAt s0 b.si b.dtab with
        | (none, s1) => handBusy s1 b []
        | (some d, s1) => sendBusy s1 lane d b true)

/-- TECHNICAL_DECLINE (R35): a lane builds the response of a cut-off transaction from its DECLINE_TPL. -/
def execTechnicalDecline (lane : Fin 32) (s : State) : Host.Outcome State Fault Refusal :=
  .next (releaseProgress <| if !laneServes s lane then s
    else match laneTxn s lane with
      | none => s
      | some t =>
        match t.declineReason with
        | none => s
        | some r =>
          match dialectAt s t.si t.dtab with
          | (none, s1) => s1
          | (some d, s1) => sendTempl s1 lane d t t.pd.declineTpl { code := r, off := 0, fid := 0 } true)

/-! ## Committed responses -/

/-- The directory entry of a FID in a record. -/
def dirWord (rec_ : List Byte) (fid : Nat) : Nat := fld rec_ (0x40 + 4 * fid) 4

/-- The values that a response record holds for the named FIDs (R70, R72): an entry outside the record stops it. -/
def recordVals (rec_ : List Byte) (heap size : Nat) : List Nat → Except XErr Vals
  | [] => .ok []
  | fid :: t =>
    let w := dirWord rec_ fid
    let off := w % 2 ^ 16 * 8
    let n := w / 2 ^ 16
    if w % 2 ^ 16 = 0 then recordVals rec_ heap size t
    else if off < heap ∨ size ≤ off ∨ size < off + n then .error { code := 0x30, off := 0x40 + 4 * fid, fid := fid }
    else match recordVals rec_ heap size t with
      | .error e => .error e
      | .ok l => .ok ((fid, sliceOf rec_ off n) :: l)

/-- The header field FID 0 of a program's response (R72). -/
def headerOf (d : Dialect) (vals : Vals) : Except XErr (List Byte) :=
  match vals.lookup 0 with
  | none => if d.hdrLen = 0 then .ok [] else .error { code := 0x33, off := 0x40, fid := 0 }
  | some h => if h.length = d.hdrLen then .ok h else .error { code := 0x31, off := 0x40, fid := 0 }

/-- The record offset of an error: that of the field's value where the serialiser names none (XLT_LAST_ERR). -/
def errOffset (rec_ : List Byte) (e : XErr) : XErr :=
  if e.off = 0 then { e with off := dirWord rec_ e.fid % 2 ^ 16 * 8 } else e

/-- Serialises a response record as it stands (R72, R73). -/
def serialiseRecord (d : Dialect) (rec_ : List Byte) (size : Nat) : Written :=
  match recordVals rec_ d.heap size (0 :: (d.fids.mergeSort fun a b => decide (a ≤ b))) with
  | .error e => .error e
  | .ok vals =>
    match headerOf d vals with
    | .error e => .error e
    | .ok hdr =>
      match writeResponse d (fld rec_ 6 2) hdr vals true (d.macAlg != 0) with
      | .error e => .error (errOffset rec_ e)
      | w => w

/-- A serialise fault (R77): answered from template 2. -/
def serialiseFault (s : State) (lane : Fin 32) (d : Dialect) (t : Txn) (e : XErr) : State := sendTempl s lane d t 2 e true

/-- The response of a committed transaction is on the wire form's bytes; it goes on once its record is mirror-acknowledged
(R16). -/
def serialised (s : State) (an : Nat) (bs : List Byte) (n : Nat) : State :=
  handWhenReady ((noteSubst s n).modTxn an fun t => { t with rsp := some bs, phase := .serialised }) an

/-- Serialises the response of a committed transaction. -/
def serialiseTxn (s : State) (lane : Fin 32) (d : Dialect) (t : Txn) : State :=
  let size := (recAreas s d t).rspMax
  match xltRead s t.si t.rspPa size with
  | (none, s1) => serialiseFault s1 lane d t { code := 0x30, off := 0, fid := 0 }
  | (some rec_, s1) =>
    match serialiseRecord d rec_ size with
    | .error e => serialiseFault s1 lane d t e
    | .bytes bs n => serialised s1 t.an bs n
    | .mac m => issueMac s1 lane d (.committed t.an) t.deadline t.an t.run m

/-- XLT_SERIALISE (R72, R77): a lane serialises the committed response that comes first, or builds that of a stand-in decision
(R370). -/
def execXltSerialise (lane : Fin 32) (s : State) : Host.Outcome State Fault Refusal :=
  .next (releaseProgress <| if !laneServes s lane then s
    else match laneTxn s lane with
      | none => s
      | some t =>
        if t.phase ≠ .committed then s
        else match dialectAt s t.si t.dtab with
          | (none, s1) => s1
          | (some d, s1) =>
            match t.tpl with
            | some tpl => sendTempl s1 lane d t tpl { code := 0, off := 0, fid := 0 } true
            | none => serialiseTxn s1 lane d t)

/-! ## The MAC arrives -/

/-- MAC bytes as uppercase hexadecimal text (R73). -/
def macHex (m : List Byte) : List Byte := m.flatMap fun b => hexReason b.toNat

/-- A response with its MAC. -/
def LaneWork.whole (w : LaneWork) (mac : List Byte) : List Byte := w.pre ++ (if w.hex then macHex mac else mac) ++ w.post

/-- A response whose MAC is computed goes on. -/
def macDone (s : State) (w : LaneWork) (mac : List Byte) : State :=
  let bs := w.whole mac
  match w.what with
  | .committed an => serialised s an bs w.subst
  | .templated an _ code off fid =>
    match s.txn? an with
    | some t => answerTempl (noteSubst s w.subst) w.lane t { code := code, off := off, fid := fid } bs
    | none => s
  | .busy b => handBusy (noteSubst s w.subst) b bs

/-- A response whose MAC job ended otherwise: a committed one has a serialise fault (R77); a templated one goes without its MAC
field and is counted (R272). -/
def macFailed (s : State) (w : LaneWork) : State :=
  let s1 := s.bump Off.CRY_XLTKEY_CNT
  match w.what with
  | .committed an =>
    match s.txn? an with
    | none => s
    | some t =>
      match dialectAt s t.si t.dtab with
      | (none, s2) => s2
      | (some d, s2) => serialiseFault s2 w.lane d t { code := 0x34, off := 0x40 + 4 * d.macFid, fid := d.macFid }
  | .templated an tpl code off fid =>
    match s1.txn? an with
    | none => s1
    | some t =>
      match dialectAt s1 t.si t.dtab with
      | (none, s2) => answerTempl s2 w.lane t { code := code, off := off, fid := fid } []
      | (some d, s2) => sendTempl s2 w.lane d t tpl { code := code, off := off, fid := fid } false
  | .busy b =>
    match dialectAt s1 b.si b.dtab with
    | (none, s2) => handBusy s2 b []
    | (some d, s2) => sendBusy s2 w.lane d b false

/-- The outcome of a MAC job, once it has ended. -/
def macOutcome (s : State) (w : LaneWork) : Option (Nat × List Byte) :=
  match s.cry.jobs.find? fun j => j.id == w.job with
  | some j => (match j.st with | .latched st => some (st, j.res) | _ => none)
  | none => none

/-- A lane takes up its response again if its MAC job has ended. -/
def laneResume (s : State) (w : LaneWork) : State :=
  match macOutcome s w with
  | none => s
  | some (st, mac) =>
    let s1 : State := { s with
      xlt := s.xlt.filter fun x => x.job != w.job,
      cry := { s.cry with jobs := s.cry.jobs.filter fun j => j.id != w.job } }
    if st = 0x01 then macDone s1 w mac else macFailed s1 w

/-- Every lane whose MAC job has ended goes on. -/
def settleMacs (s : State) : State := releaseProgress (s.xlt.foldl laneResume s)

/-- A lane drops the response that waits for its MAC (R78): another lane builds it again. -/
def dropLaneWork (s : State) (l : Fin 32) : State :=
  let ws := s.xlt.filter fun w => w.lane == l
  { s with
    xlt := s.xlt.filter fun w => w.lane != l,
    busy := s.busy ++ ws.filterMap fun w => (match w.what with | .busy b => some b | _ => none),
    cry := { s.cry with jobs := s.cry.jobs.filter fun j => !(ws.any fun w => w.job == j.id) } }

/-- XLT_ENABLE_WRITE (R75): stops or resumes acceptance for the messages that ADM takes from now on. -/
def execXltEnableWrite (v : Bool) (s : State) : Host.Outcome State Fault Refusal :=
  .next (s.setF Fld.XLT_CTRL_ENABLE (b2n v))

end Sys2Proof.Machine
end

