-- ==== Sys2Proof/Machine/Engines.lean ====
section
/-! DEFINITION. The crypto engines at work (R265 to R268), what follows the end of a job of XLT or JNL (R73, R295), and the start of
zeroisation (R278, R279). -/

namespace Sys2Proof.Machine

/-- What waits for jobs that have just ended goes on: responses that wait for their MAC, and a global seal. An epoch's seal goes
on at SEAL_COMPLETE. -/
def settleJobs (s : State) : State := finishGseal (settleMacs s)

/-- What a job works on from its start: a seal names the key that signs it (R292). -/
def jobData (s : State) (j : CJob) : List Byte :=
  match j.keys with
  | some (some k, _) => if j.kind = .pke ∧ j.who ≠ .program then signedBody s j.who k else j.data
  | _ => j.data

/-- CRYPTO_JOB_START (R265, R272): a free engine takes the first waiting job and reads and checks its keys. -/
def execCryptoJobStart (k : EngineKind) (e : Fin 48) (s : State) : Host.Outcome State Fault Refusal :=
  .next (if !engineTakes s k e || engineBusy s k e then s
    else match nextJob s k e with
      | none => s
      | some j =>
        let s1 := startJob s j e
        settleJobs (s1.modJob j.id fun j => { j with data := jobData s1 j }))

/-- COMPLETION_LATCH (R262, R268): the job that runs on an engine computes, writes its output and ends. -/
def execCompletionLatch (job : Nat) (s : State) : Host.Outcome State Fault Refusal :=
  .next (match s.job? job with
    | none => s
    | some j =>
      match j.st with
      | .running e _ => settleJobs (finishJob s j e)
      | _ => s)

/-- ENGINE_FAULT (R267, R397): the engine leaves service for its test and its job is reissued. -/
def execEngineFault (k : EngineKind) (e : Fin 48) (s : State) : Host.Outcome State Fault Refusal :=
  .next (if !engineInService s k e then s
    else
      let s1 := engineFaulted s k e 0
      match jobOn s k e with
      | some j => settleJobs (reissueJob s1 j false [e])
      | none => s1)

/-- Zeroisation starts, and what waits for a job that it has ended goes on. -/
def zeroise (s : State) (inputs : Nat) : State := settleJobs (startZeroise s inputs)

/-- Zeroise (R278): done when the 20 µs steps are. It started when the command was taken. -/
def admZeroise (_a : AdminCmd) (s : State) : AdmRes × State := (.wait .zeroise, s)

/-- TAMPER_INPUT (R278, R448): the filter reports a tamper input low. -/
def execTamperInput (i : Fin 4) (s : State) : Host.Outcome State Fault Refusal :=
  let s1 := { s with sys := { s.sys with tamper := putBits s.sys.tamper i.val 1 1 } }
  .next (if bitAt (s.getF Fld.CRY_TAMPER_EN) i.val ∧ !bitAt s.sys.tamper i.val then zeroise s1 (2 ^ i.val) else s1)

end Sys2Proof.Machine
end

