-- ==== Sys2Proof/Machine/HostRings.lean ====
section
/-! DEFINITION. The host interface at work (15): doorbells, submissions, completions, exception entries, interrupts, and
the link. -/

namespace Sys2Proof.Machine

/-- A host failure (R335): counted and reported. -/
def hostError (s : State) (pa : Nat) : State :=
  (s.bump Off.HIF_HOSTERR_CNT).report { island := 40, unit := 0, cls := .timeout, severity := 5, detail := pa }

/-! ## Doorbells -/

/-- HIF issues a read of a doorbell line (R341). -/
def issueRead (s : State) (r : RingId) : State :=
  if ringRuns s r then s.modRing r fun x => { x with reading := true } else s

/-- DOORBELL_SNOOP (R341): a host write takes HIF's copy of the line in CXL mode, and HIF reads it again. -/
def execDoorbellSnoop (r : RingId) (s : State) : Host.Outcome State Fault Refusal :=
  .next (if s.getF Fld.HIF_STATUS_MODE = 2 then issueRead s r else s)

/-- Every ring. -/
def allRings : List RingId := List.finRange 40

/-- DOORBELL_POLL (R341): in PCIe mode HIF reads the doorbell line of every enabled ring. -/
def execDoorbellPoll (s : State) : Host.Outcome State Fault Refusal :=
  .next (if s.getF Fld.HIF_STATUS_MODE = 1 then allRings.foldl issueRead s else s)

/-- A new doorbell value (R337, R340, R341). -/
def observe (s : State) (r : RingId) (v : Nat) : State :=
  let x := s.ring r
  if hostProduced r then
    if ringSize s r < ringDist r x.cons v then stopRing s r 1
    else if v = x.prod then s
    else s.modRing r fun y =>
      { y with prod := v, seen := (if 8 ≤ r.val then y.seen ++ [(v, s.now)] else y.seen) }
  else if ringSize s r < ringDist r v x.prod then stopRing s r 1
  else s.modRing r fun y => { y with cons := v }

/-- DOORBELL_READ (R341): a doorbell read completes; a new value is observed at this DEVTIME. -/
def execDoorbellRead (r : RingId) (s : State) : Host.Outcome State Fault Refusal :=
  if (s.ring r).reading ∧ ringRuns s r then
    let s1 := s.modRing r fun x => { x with reading := false }
    match islandRead s1 (ringClass r) (doorbellPa s r) (ringIdxBytes r) with
    | (none, s2) => .next (stopRing s2 r 2)
    | (some bs, s2) => .next (observe s2 r (leNat bs))
  else .next s

/-! ## Submission -/

/-- A submission descriptor (the table of that name). -/
structure SubDesc where
  op : Nat
  dialect : Nat
  flags : Nat
  len : Nat
  addr : Nat
  tag : Nat
  rspAddr : Nat
  rspCap : Nat
  reserved : Nat
  deriving DecidableEq, Repr

/-- A submission descriptor from its 64 bytes. -/
def readSubDesc (bs : List Byte) : SubDesc :=
  { op := fld bs 0 1, dialect := fld bs 1 1, flags := fld bs 2 1, len := fld bs 4 4, addr := fld bs 8 8,
    tag := fld bs 0x10 8, rspAddr := fld bs 0x18 8, rspCap := fld bs 0x20 4,
    reserved := fld bs 3 1 + fld bs 0x24 28 }

/-- A completion for a descriptor of SQ `n` that ADM has not taken. -/
def badDesc (n : Fin 16) (i : Nat) (d : SubDesc) : Cpl :=
  { cq := n.val, status := 0x05, reason := 0, sq := n.val, rsp := [], addr := d.rspAddr, cap := d.rspCap, tag := d.tag,
    an := 0, jsn := 0, deadline := 0, conn := none, moved := false, desc := some i }

/-- HIF reads one descriptor and copies its message (R343). -/
def fetchDesc (n : Fin 16) (tin : Nat) (s : State) (i : Nat) : State :=
  let r := ringSQ n
  if !ringRuns s r then s
  else match islandRead s .hif (slotPa s r i) 64 with
    | (none, s1) => stopRing s1 r 2
    | (some bs, s1) =>
      let d := readSubDesc bs
      let s2 := s1.modRing r fun x =>
        { x with flight := x.flight ++ [(i, false)], fetched := (i + 1) % ringMod r }
      if d.op ≠ 1 ∨ d.reserved ≠ 0 ∨ d.len = 0 ∨ 65536 < d.len then queueCpl s2 (badDesc n i d)
      else match dialectEntry s2 d.dialect with
        | (0, s3) => queueCpl s3 (badDesc n i d)
        | (_, s3) =>
          match hifRead s3 (hostPa d.addr) d.len with
          | (none, s4) => queueCpl s4 (badDesc n i d)
          | (some m, s4) =>
            let msg : HMsg := { sq := n, idx := some i, tin := tin, dialect := d.dialect, note := bitAt d.flags 0,
                                tag := d.tag, rspAddr := d.rspAddr, rspCap := d.rspCap, bytes := m }
            { s4 with hif := { s4.hif with msgs := s4.hif.msgs ++ [msg] } }

/-- The descriptors that one observed doorbell write covers (R343). -/
def fetchBatch (n : Fin 16) (s : State) (p : Nat × Nat) : State :=
  let r := ringSQ n
  let x := s.ring r
  let k := ringDist r x.cons p.1 - ringDist r x.cons x.fetched
  (List.range k).foldl (fun s j => fetchDesc n p.2 s ((x.fetched + j) % ringMod r)) s

/-- SUBMISSION_FETCH (R343): HIF reads the descriptors that observed doorbell writes cover. -/
def execSubmissionFetch (n : Fin 16) (s : State) : Host.Outcome State Fault Refusal :=
  let r := ringSQ n
  if ringRuns s r then
    .next ((s.ring r).seen.foldl (fetchBatch n) (s.modRing r fun x => { x with seen := [] }))
  else .next s

/-! ## Completions -/

/-- The 64 bytes of a completion before its phase (the table *Completion*, R344, R345). -/
def cplBytes (c : Cpl) (now off : Nat) : List Byte :=
  let gone := c.conn.isSome || c.moved
  let trunc := !gone && decide (c.cap < c.rsp.length)
  bytesOf [c.status, 2 * b2n trunc + 4 * b2n c.moved, c.reason, c.sq] ++ leBytes 4 c.rsp.length ++ leBytes 8 c.tag ++
    leBytes 8 c.an ++ leBytes 8 c.jsn ++ leBytes 8 c.deadline ++ leBytes 8 now ++
    leBytes 8 (if gone then off else 0) ++ leBytes 4 (c.conn.getD 0) ++ zeros 4

/-- A completion may be posted now: CONN_GONE follows the KIND 2 entry of its connection (R351). -/
def cplReady (s : State) (c : Cpl) : Bool :=
  match c.conn with
  | some h => !(s.hif.excs.any fun e => e.kind == 2 && e.conn == some h)
  | none => true

/-- The first completion of a CQ that can be posted. -/
def nextCpl (s : State) (cq : Nat) : Option Cpl := s.hif.cpls.find? fun c => c.cq == cq && cplReady s c

/-- Replaces or removes a queued completion. -/
def putCpl (s : State) (old : Cpl) (new : List Cpl) : State :=
  let l := s.hif.cpls
  let i := (l.idxOf? old).getD l.length
  { s with hif := { s.hif with cpls := l.take i ++ new ++ l.drop (i + 1) } }

/-- What follows once a completion is posted: BAD_DESC is counted and releases its descriptor (R343), a response is
delivered (R36) and its slot is free (R67). -/
def cplPosted (s : State) (c : Cpl) : State :=
  if c.status = 0x05 then
    descDone (s.bump Off.HIF_BADDESC_CNT) (if h : c.sq < 16 then ringSQ ⟨c.sq, h⟩ else ringAQ) c.desc
  else if c.status = 0x10 ∨ c.status = 0x03 then s
  else if c.conn.isSome then delivered s c.deadline
  else delivered (s.dropTxn c.an) c.deadline

/-- Posts the entry of a completion whose response bytes are out, at byte index `off` of GONE if they went there. -/
def postCplEntry (s : State) (r : RingId) (c : Cpl) (off : Nat) : State :=
  match postSlot s r (cplBytes c s.now off) with
  | .done s1 _ => cplPosted (putCpl s1 c []) c
  | .wait s1 => s1
  | .stopped s1 => s1

/-- Posts a completion whose response goes to GONE (R345, R347). -/
def postViaGone (s : State) (r : RingId) (c : Cpl) : State :=
  match postBytes s ringGONE c.rsp with
  | .done s1 off => postCplEntry s1 r c off
  | .wait s1 => s1
  | .stopped s1 => s1

/-- Writes the response at RSP_ADDR and posts the completion; a failed write moves the response to GONE (R344, R345). A failure
of the host was counted when the host failed (R335). -/
def postDirect (s : State) (r : RingId) (c : Cpl) : State :=
  match hifWrite s (hostPa c.addr) (c.rsp.take c.cap) with
  | (true, s1) => postCplEntry s1 r c 0
  | (false, s1) =>
    let m : Cpl := { c with moved := true }
    postViaGone (putCpl (if s.hif.failing then s1 else hostError s1 (hostPa c.addr)) c [m]) r m

/-- Posts a completion on CQ `r` (R344 to R347): nothing is written while the ring has no room (R352). -/
def postCpl (s : State) (r : RingId) (c : Cpl) : State :=
  if !ringRuns s r then s
  else if !ringRoom s r 1 then noteWait s r
  else if c.moved || c.conn.isSome then postViaGone s r c
  else if c.rsp.length = 0 ∨ c.cap = 0 then postCplEntry s r c 0
  else postDirect s r c

/-- The 64 bytes of an admin completion (R350). -/
def acplBytes (a : ACpl) (now : Nat) : List Byte :=
  bytesOf [a.status, 2 * b2n a.late, 0, 0] ++ leBytes 4 a.cid ++ leBytes 8 a.r0 ++ zeros 8 ++ leBytes 8 now ++ zeros 32

/-! ## Exception entries -/

/-- A frame for the host for which EXC has no room now (R348). -/
def frameLost (s : State) (e : Exc) : Bool :=
  e.kind == 1 && (!ringRuns s ringEXC || !ringRoom s ringEXC e.bytes.length)

/-- Frames for which EXC has no room are discarded and counted, also behind an entry that waits (R348). -/
def dropFrames (s : State) : State :=
  let n := s.hif.excs.countP (frameLost s)
  if n = 0 then s
  else
    let s1 := s.bump Off.HIF_EXCDROP_CNT n
    { s1 with hif := { s1.hif with excs := s.hif.excs.filter fun e => !frameLost s e } }

/-- EXC_POST (R348): a KIND 1 frame is discarded when there is no room, every other entry waits. -/
def execExcPost (s0 : State) : Host.Outcome State Fault Refusal :=
  let s := dropFrames s0
  match s.hif.excs with
  | [] => .next s
  | e :: t =>
      match postBytes s ringEXC e.bytes with
      | .done s1 _ => .next { s1 with hif := { s1.hif with excs := t } }
      | .wait s1 => .next s1
      | .stopped s1 => .next s1

/-! ## Rings and interrupts -/

/-- RING_ENABLE (R340): ENABLE of a ring goes to 1. -/
def execRingEnable (r : RingId) (s : State) : Host.Outcome State Fault Refusal :=
  .next (if s.getF (Fld.HIF_RING_CFG_ENABLE r.val) = 1 then s
         else startRing (s.setF (Fld.HIF_RING_CFG_ENABLE r.val) 1) r)

/-- RING_IRQ_TIMER (R355): IRQ_US microseconds since the first entry not yet signalled. -/
def execRingIrqTimer (r : RingId) (s : State) : Host.Outcome State Fault Refusal :=
  let x := s.ring r
  .next (if 0 < x.unsig ∧ x.unsigAt + 1000 * s.getF (Fld.HIF_RING_CFG_IRQ_US r.val) ≤ s.now then signalRing s r else s)

/-- A post that has waited longer than DRAIN_NS and is not counted yet. -/
def waitOver (s : State) (r : RingId) (w : Nat × Bool) : Bool :=
  !w.2 && decide (w.1 + s.getF (Fld.HIF_RING_CFG_DRAIN_NS r.val) < s.now)

/-- Counts every wait that is over its bound (R352). -/
def countWaits (s : State) (r : RingId) : State :=
  ((s.setF (Fld.HIF_RING_STATE_WAIT r.val) 1).bump Off.HIF_WAIT_CNT ((s.ring r).waits.countP (waitOver s r))).modRing r
    fun x => { x with waits := x.waits.map fun w => (w.1, w.2 || waitOver s r w) }

/-- DRAIN_TIMEOUT (R352): posts have waited longer than DRAIN_NS; each is counted once. -/
def execDrainTimeout (r : RingId) (s : State) : Host.Outcome State Fault Refusal :=
  .next (if (s.ring r).waits.any (waitOver s r) then countWaits s r else s)

/-- ERR of a ring for a failed access (HIF_RING_STATE). -/
def hostFailErr : HostFail → Nat
  | .refused => 2
  | .error => 3
  | .timeout => 4

/-- HOST_ACCESS_TIMEOUT (R335, R340): a device access to host memory fails; a ring's own access stops the ring, and any other, the
next one that HIF makes (log 18), ends as a refused access. -/
def execHostAccessTimeout (r : Option RingId) (f : HostFail) (s : State) : Host.Outcome State Fault Refusal :=
  match r with
  | none =>
    .next (if f = .refused then s
      else (let s1 := hostError s hostBase; { s1 with hif := { s1.hif with failing := true } }))
  | some q =>
    if ringRuns s q then
      .next (stopRing (if f = .refused then s else hostError s (ringBase s q)) q (hostFailErr f))
    else .next s

/-! ## The link -/

/-- The speeds and widths that HIF trains to (R333), as SPEED and WIDTH of HIF_STATUS. -/
def linkTrains (speed width : Nat) : Bool := [4, 5, 6].contains speed && [4, 8, 16].contains width

/-- HIF can train: it has started (step 3 of R358), and its reference clock runs (R453). -/
def hifReady (s : State) : Bool := islandState s 40 == 2 && !s.pwr.clkLost.contains .pcie

/-- PCIE_LINK_UP (R333): mode, speed and width of the trained link; the host has set Bus Master Enable (log 18). At another speed
or width the link does not train. -/
def execPcieLinkUp (cxl : Bool) (speed width : Nat) (s : State) : Host.Outcome State Fault Refusal :=
  .next (if !hifReady s ∨ !linkTrains speed width then s
    else (((s.setF Fld.HIF_STATUS_MODE (if cxl then 2 else 1)).setF Fld.HIF_STATUS_SPEED speed).setF
      Fld.HIF_STATUS_WIDTH width).setF Fld.HIF_STATUS_BME 1)

/-- The link is down: MODE, speed, width and Bus Master Enable read as zero, and host memory is unbacked (R335). -/
def linkDownHost (s : State) : State := s.setReg Off.HIF_STATUS 0

/-- PCIE_LINK_DOWN (R335). -/
def execPcieLinkDown (s : State) : Host.Outcome State Fault Refusal := .next (linkDownHost s)

/-- PCIE_PERST (R450): the link is held in reset. -/
def execPciePerst (s : State) : Host.Outcome State Fault Refusal := .next (linkDownHost s)

end Sys2Proof.Machine
end

