-- ==== Sys2Proof/Machine/Flags.lean ====
section
/-! DEFINITION. The condition code: comparisons (R188, R189), the carry instructions (R147), wide division (R150),
decimal results (R140). -/

namespace Sys2Proof.Machine

/-- CC of a comparison: 0 equal, 1 the first lower, 2 the first higher (R188). -/
def ccCompare (eq lower : Bool) : Nat := if eq then 0 else if lower then 1 else 2

/-- CC of a signed comparison. -/
def ccSigned (a b : Word) : Nat := ccCompare (a == b) (a.slt b)

/-- CC of an unsigned comparison. -/
def ccUnsigned (a b : Word) : Nat := ccCompare (a == b) (a.ult b)

/-- A carry instruction's result and CC: CC[0] is the carry or borrow, CC[1] the zero test, chained when `chain`
(R147). -/
def ccCarry (carry : Bool) (r : Word) (chain : Bool) (old : Nat) : Nat :=
  (if carry then 1 else 0) + (if r = 0 ∧ (!chain ∨ old / 2 % 2 = 1) then 2 else 0)

/-- ADDS and ADDC: the sum with carry in, and the carry out of bit 63 (R147). -/
def addCarry (a b : Word) (cin : Nat) : Word × Bool :=
  (a + b + BitVec.ofNat 64 cin, decide (2 ^ 64 ≤ a.toNat + b.toNat + cin))

/-- SUBS and SUBB: the difference with borrow in, and whether Ga < Gb + borrow as unsigned numbers (R147). -/
def subBorrow (a b : Word) (cin : Nat) : Word × Bool :=
  (a - b - BitVec.ofNat 64 cin, decide (a.toNat < b.toNat + cin))

/-- CC of a decimal result: 0 zero, 1 negative, 2 positive, 3 overflow (R140). -/
def ccDecimal (overflow zero neg : Bool) : Nat := if overflow then 3 else if zero then 0 else if neg then 1 else 2

/-- CC of an integer comparison of decimal values. -/
def ccInt (a b : Int) : Nat := ccCompare (a == b) (decide (a < b))

end Sys2Proof.Machine
end

