-- ==== Sys2Proof/Machine/SysCtl.lean ====
section
/-! DEFINITION. What SYS does on its own account: time steps and pulses (R431 to R434), authenticated debug (R435), refused
BAR0 accesses (R422), and the SMBus pointer (R441). -/

namespace Sys2Proof.Machine

/-! ## DEVTIME -/

/-- Adds a step to the T_IN of every entry of the stand-in log and to BOOT_T_PG (R373). -/
def stepStandin (s : State) (delta : Word) : State :=
  let d := delta.toNat
  let s1 := (List.range (siLog s)).foldl (fun s k =>
    let e := logRead s k
    logPut s k (patch e 8 (leBytes 8 ((fld e 8 8 + d) % 2 ^ 64)))) s
  s1.setReg Off.BOOT_T_PG ((s1.reg Off.BOOT_T_PG + d) % 2 ^ 64)

/-- PTP_PPS_OUT rises (R434). -/
def ppsRise (s : State) : State := { s with sys := { s.sys with ppsOut := some s.now } }

/-- A step is refused: after release, |DELTA| above STEP_MAX_NS (R432). -/
def stepRefused (s : State) (delta : Word) : Bool :=
  s.getF Fld.BOOT_STATUS_PHASE == 6 && decide (s.getF Fld.SYS_TIME_CFG_STEP_MAX_NS < delta.toInt.natAbs)

/-- A write of SYS_TIME_STEP (R432). One edge follows a step across a second boundary (R434). -/
def timeStep (s : State) (delta : Word) : State :=
  if stepRefused s delta then (s.setF Fld.SYS_STATUS_STEP_REFUSED 1).evt 10
  else
    let move (t : Nat) : Nat := (t + delta.toNat) % 2 ^ 64
    let s0 : State := { s with
      devtime := s.devtime + delta, sys := { s.sys with lastPps := s.sys.lastPps.map move, ppsOut := s.sys.ppsOut.map move } }
    let s1 := stepStandin s0 delta
    let crossed := decide (s.now / 1000000000 ≠ s1.now / 1000000000)
    (if s.getF Fld.SYS_PPS_OUT_EN = 1 ∧ crossed then ppsRise s1 else s1).evt 10

/-- PPS_SEEN: an edge was captured within the last 1.5 s. -/
def ppsSeen (s : State) : Bool :=
  match s.sys.lastPps with
  | some t => decide (s.now ≤ t + 1500000000)
  | none => false

/-- The fraction of DEVTIME advances by ADJ; the nanoseconds that it carries come with it (R431). -/
def nextNs (s : State) : State :=
  let f : Int := s.sys.frac + toSigned 32 (s.getF Fld.SYS_TIME_RATE_ADJ)
  let n := 1 + f / 2 ^ 32
  { s with devtime := s.devtime + BitVec.ofInt 64 n, sys := { s.sys with frac := (f % 2 ^ 32).toNat } }

/-! ## Authenticated debug (R435) -/

/-- Shows a challenge. -/
def putChallenge (s : State) (bs : List Byte) : State :=
  (List.range 6).foldl (fun s i => s.setReg (Off.SYS_DBG_CHAL i) (fld bs (8 * i) 8)) s

/-- The challenge shown. -/
def challenge (s : State) : List Byte := (List.range 6).flatMap fun i => leBytes 8 (s.reg (Off.SYS_DBG_CHAL i))

/-- NEWCHAL: 48 bytes from the DRBG. -/
def debugNew (s : State) : State :=
  let (bs, s1) := s.random 48
  { putChallenge s1 bs with sys := { s1.sys with dbgChal := true } }

/-- RESULT of a response block, in the order of its codes. -/
def debugResult (s : State) (k : Nat) (block : Option (List Byte)) : Nat :=
  if s.policy 1 then 2
  else match block with
    | none =>
      if s.fuseBytes (0x70 + 48 * k) 48 = zeros 48 ∨ bitAt (s.fuseByte 0x130) k then 3
      else if s.sys.dbgChal then 6 else 5
    | some b =>
      let pub := sliceOf b 0 97
      if !ownerKeyOk s k pub then 3
      else if !sigOk pub (sliceOf b 0x64 96) (challenge s ++ serialOf s) then 4
      else if !s.sys.dbgChal then 5
      else 1

/-- GO: the block is read as class HIF and checked; a pass starts zeroisation, and debug follows it. The challenge is used
up. -/
def debugCheck (s : State) (addr k : Nat) : State :=
  if s.sys.dbgWait then s
  else
    let (block, s1) := islandRead s .hif (hostPa addr) 256
    let r := debugResult s1 k block
    let s2 := putChallenge (s1.setF Fld.SYS_DBG_CTRL_RESULT r) (zeros 48)
    let s3 : State := { s2 with sys := { s2.sys with dbgChal := false, dbgWait := (r == 1) } }
    if r = 1 then (zeroise s3 0).setF Fld.ADM_CTRL_ENABLE 0 else s3

/-- Debug is enabled once the zeroisation is over. -/
def debugEnable (s : State) : State :=
  if s.sys.dbgWait then
    let s1 := (((s.setF Fld.SYS_DBG_CTRL_ACTIVE 1).setF Fld.SYS_STATUS_DEBUG 1)).evt 13
    { s1 with sys := { s1.sys with dbgWait := false } }
  else s

/-- SMB_ALERT_N is low: an event that SYS_EVT_EN enables is set (R440). -/
def smbAlertLow (s : State) : Bool := s.evtSummary != 0

/-! ## Refused BAR0 accesses -/

/-- Records the first BAR0 access that found no register (1) or was aborted (2) (R422, R334). -/
def badAccess (s : State) (reason : Nat) (write : Bool) (off size : Nat) : State :=
  if s.getF Fld.SYS_STATUS_BAD_ACCESS = 1 then s
  else
    (s.setF Fld.SYS_STATUS_BAD_ACCESS 1).setReg Off.SYS_BAD_ACCESS
      (b2n write * 2 ^ 63 + reason % 16 * 2 ^ 56 + size % 16 * 2 ^ 48 + off % 2 ^ 24)

end Sys2Proof.Machine
end

