-- ==== Sys2Proof/Machine/RegEffects.lean ====
section
/-! DEFINITION. What a write to a setup register does beyond the value of its fields: the actions of its WO fields, and what
follows a changed field. -/

namespace Sys2Proof.Machine

/-- A write of SYS_DBG_CTRL (R435); one that sets NEWCHAL and GO, or GO while another is checked, is discarded. -/
def dbgEffect (v : Nat) (before s : State) : State :=
  if (bitAt v 0 ∧ bitAt v 1) ∨ (bitAt v 1 ∧ before.sys.dbgWait) then before
  else if bitAt v 0 then debugNew s
  else if bitAt v 1 then debugCheck s (s.getF Fld.SYS_DBG_CTRL_ADDR * 64) (s.getF Fld.SYS_DBG_CTRL_KEYIDX)
  else s

/-- A write of BOOT_CTRL. -/
def bootCtrlEffect (v : Nat) (s : State) : State :=
  let s1 := if bitAt v 1 then bootLoad s else s
  let s2 := if bitAt v 2 then svnCommit s1 else s1
  if bitAt v 0 then bootRelease s2 else s2

/-- A write of BOOT_RESET, which acts only with CONFIRM (R356). -/
def bootResetEffect (v : Nat) (s : State) : State :=
  if bitsOf v 48 16 ≠ 0xB007 then s
  else match v % 4 with
    | 1 => warmResetTo s 2 false
    | 2 => coldResetTo s
    | _ => s

/-- A write of HIF_RING_CFG[r] that changes ENABLE (R340). -/
def ringCfgEffect (r : RingId) (before s : State) : State :=
  let old := before.getF (Fld.HIF_RING_CFG_ENABLE r.val)
  let new := s.getF (Fld.HIF_RING_CFG_ENABLE r.val)
  if old = 0 ∧ new = 1 then startRing s r else if old = 1 ∧ new = 0 then endRing s r else s

/-- Which of `n` registers `stride` bytes apart lies at an offset. -/
def indexIn (off base stride n : Nat) : Option (Fin n) :=
  let k := (off - base) / stride
  if h : k < n then (if base ≤ off ∧ (off - base) % stride = 0 then some ⟨k, h⟩ else none) else none

/-- The effect of a write to PWR_ISL_CTRL[i], HIF_RING_CFG[r] or THM_SENSOR[k]. -/
def elementEffect (i : Option (Fin 44)) (r : Option (Fin 40)) (k : Option (Fin 64)) (v : Nat) (before s : State) : State :=
  match i, r, k with
  | some i, _, _ => islandAction s i (v % 4)
  | _, some r, _ => ringCfgEffect r before s
  | _, _, some k =>
    if bitAt v 63 then { s with pwr := { s.pwr with fresh := s.pwr.fresh.filter fun j => j != k.val } } else s
  | _, _, _ => s

/-- Effects of registers that stand in arrays. -/
def arrayEffect (off v : Nat) (before s : State) : State :=
  elementEffect (indexIn off (Off.PWR_ISL_CTRL 0) 8 44) (indexIn off (Off.HIF_RING_CFG 0) 32 40)
    (indexIn off (Off.THM_SENSOR 0) 8 64) v before s

/-- The effect of a write of `v` to the register at `off`, on the state in which its fields have taken their values. -/
def regEffect (off v : Nat) (before s : State) : State :=
  if off = Off.SYS_EVT ∨ off = Off.SYS_EVT_EN then
    (if s.evtSummary ≠ 0 then s.msix (s.getF Fld.SYS_EVT_EN_VECTOR) else s)
  else if off = Off.SYS_TIME_STEP then timeStep s (BitVec.ofNat 64 v)
  else if off = Off.SYS_TIME_CFG then noteTimeSource s
  else if off = Off.SYS_DBG_CTRL then dbgEffect v before s
  else if off = Off.BOOT_CTRL then bootCtrlEffect v s
  else if off = Off.BOOT_RESET then bootResetEffect v s
  else if off = Off.BOOT_FUSE_PROG then fuseProgram s (v % 2 ^ 16)
  else if off = Off.PWR_AVS then avsWrite s
  else if off = Off.NET_CTRL then regroupPorts s
  else if off = Off.JNL_CTRL then noteFull s
  else if off = Off.MPU_COMMIT then (if bitAt v 0 then requestActivation s else s)
  else if off = Off.MPU_SKEY then skeyWrite s v
  else arrayEffect off v before s

end Sys2Proof.Machine
end

