-- ==== Sys2Proof/Machine/SetupRegs.lean ====
section
/-! DEFINITION. Reads and writes of the setup registers (R7, R8, R422 to R426), for the host and for the cores. -/

namespace Sys2Proof.Machine

/-- Release has locked the RWL fields (R375). -/
def State.locked (s : State) : Bool := s.getF Fld.SYS_STATUS_LOCKED = 1

/-- Byte rings by ring index (R336): EXC, MIR, EXP and GONE. -/
def isByteRing (r : Nat) : Bool := r == 2 || r == 3 || r == 4 || r == 5

/-- What is stored for a written field value; `k` is the register's index. -/
def Clamp.apply (cl : Clamp) (k x : Nat) : Nat :=
  match cl with
  | .keep => x
  | .range lo hi => clampNat lo hi x
  | .range64 lo hi => clampNat lo hi (x / 64 * 64)
  | .subst bad good => if x = bad then good else x
  | .above top good => if top < x then good else x
  | .low12 => x / 4096 * 4096
  | .signed32 m =>
    let v := toSigned 32 x
    if v < -(m : Int) then ofSigned 32 (-(m : Int)) else if (m : Int) < v then m else x
  | .ringLog => if isByteRing k then clampNat 20 32 x else clampNat 4 16 x

/-- One field of a register after a write: `w` holds the written bits and `m` marks the bits that the access covers. -/
def RField.written (f : RField) (k : Nat) (locked : Bool) (old w m : Nat) : Nat :=
  let o := bitsOf old f.lo f.width
  let wf := bitsOf w f.lo f.width
  let mf := bitsOf m f.lo f.width
  let merged := (o &&& ((2 ^ f.width - 1) ^^^ mf)) ||| (wf &&& mf)
  match f.acc with
  | .ro => o
  | .wo => o
  | .rw => if mf = 0 then o else f.clamp.apply k merged
  | .rwl => if mf = 0 ∨ locked then o else f.clamp.apply k merged
  | .w1c => o &&& ((2 ^ f.width - 1) ^^^ (wf &&& mf))

/-- A register's value after a write to its fields; reserved bits stay zero (R8). -/
def RegGroup.written (g : RegGroup) (k : Nat) (locked : Bool) (old w m : Nat) : Nat :=
  g.fields.foldl (fun a f => putBits a f.lo f.width (f.written k locked old w m)) old

/-- W1C fields wider than their clearing write: PWR_ISL_STATUS.ERR is cleared by any non-zero write, THM_SENSOR.MAX by
a 1 in bit 63 (R395); DRAIN_NS of GONE and of a CQ is stored as 20,000 at most (R354); CRY_STATUS.ZEROISED keeps while an enabled tamper input is low (R278); CRY_CTRL.CLEAR_OK takes a
1 only if the fuses permit clear entry (R275). -/
def specialWritten (s : State) (off old w m new : Nat) : Nat :=
  if Off.PWR_ISL_STATUS 0 ≤ off ∧ off ≤ Off.PWR_ISL_STATUS 43 then
    (if bitsOf (w &&& m) 8 4 ≠ 0 then putBits new 8 4 0 else putBits new 8 4 (bitsOf old 8 4))
  else if Off.THM_SENSOR 0 ≤ off ∧ off ≤ Off.THM_SENSOR 63 then
    (if bitAt (w &&& m) 63 then putBits new 48 16 0 else putBits new 48 16 (bitsOf old 48 16))
  else if off = Off.HIF_RING_CFG 5 ∨ (Off.HIF_RING_CFG 24 ≤ off ∧ off ≤ Off.HIF_RING_CFG 39 ∧ off % 32 = 8) then
    putBits new 32 32 (min 20000 (bitsOf new 32 32))
  else if off = Off.CRY_STATUS then
    (if s.tamperLow then putBits new 8 1 (bitsOf old 8 1) else new)
  else if off = Off.CRY_CTRL then
    (if s.clearEntryFused then new else putBits new 1 1 0)
  else new

/-- A write of the covered bits `m` of `w` to the register at `off`. -/
def regStore (s : State) (off w m : Nat) : State :=
  match RegMap.at? off with
  | none => s
  | some (g, k) =>
    let hasWo := g.fields.any fun f => f.acc == .wo
    let whole := m = 2 ^ (8 * g.bytes) - 1
    if hasWo ∧ !whole then s
    else
      let old := s.reg off
      let new := specialWritten s off old w m (g.written k s.locked old w m)
      regEffect off (w &&& m) s (s.setReg off new)

/-- A write of 8 bytes or fewer at a BAR0 offset: the register or registers it covers, the lower offset first (R423).
A core's write of 1 or 2 bytes covers those bytes of the register (log 23). -/
def regWrite (s : State) (off size w : Nat) : State :=
  match regCovering off with
  | none => s
  | some (start, bytes) =>
    if size = 8 ∧ bytes = 4 then
      let s1 := regStore s start (w % 2 ^ 32) (2 ^ 32 - 1)
      match regCovering (off + 4) with
      | some (st2, 4) => regStore s1 st2 (w / 2 ^ 32) (2 ^ 32 - 1)
      | _ => s1
    else
      let sh := 8 * (off - start)
      regStore s start ((w % 2 ^ (8 * size)) <<< sh) ((2 ^ (8 * size) - 1) <<< sh)

/-- The code of a requester's read latch (R424). -/
def requesterCode : Requester → Nat
  | .host => 0
  | .core c => c.val + 1

/-- The value that a register reads as: DEVTIME, the serial number and the fuses come from where they are held
(R431, R427, R360); ROOT_SEED reads as zero; the held locks are counted (R259), and PPS_SEEN follows the last edge. -/
def regValue (s : State) (off : Nat) : Nat :=
  if off = Off.SYS_DEVTIME then s.now
  else if off = Off.SYS_SERIAL 0 then s.reg (Off.BOOT_FUSE_RD 0)
  else if off = Off.SYS_SERIAL 1 then s.reg (Off.BOOT_FUSE_RD 1)
  else if off = Off.LDG_STATUS then putBits (s.reg off) 32 32 s.ldg.locks.length
  else if off = Off.SYS_STATUS then putBits (s.reg off) 5 1 (b2n (ppsSeen s))
  else if Off.BOOT_FUSE_RD 0 ≤ off ∧ off ≤ Off.BOOT_FUSE_RD 1023 then s.fuseVisible ((off - Off.BOOT_FUSE_RD 0) / 8)
  else s.reg off

/-- Whether every field of a register is RO (R424). -/
def allRo (off : Nat) : Bool :=
  match RegMap.at? off with
  | some (g, _) => g.fields.all fun f => f.acc == .ro
  | none => false

/-- A read of 8 bytes or fewer at a BAR0 offset, with the read latch of the requester (R423, R424). A core's read of
1 or 2 bytes returns those bytes of the register (log 23). -/
def regRead (s : State) (who : Requester) (off size : Nat) : Nat × State :=
  match regCovering off with
  | none => (0, s)
  | some (start, bytes) =>
    if size = 8 ∧ bytes = 4 then
      (regValue s start % 2 ^ 32 +
        (match regCovering (off + 4) with
         | some (st2, 4) => regValue s st2 % 2 ^ 32 * 2 ^ 32
         | _ => 0), s)
    else
      let v := regValue s start
      let mine : Nat × Nat × Nat → Bool := fun p => p.1 == requesterCode who && p.2.1 == start
      if size = 4 ∧ bytes = 8 ∧ off = start ∧ allRo start then
        (v % 2 ^ 32, { s with sys := { s.sys with
          latches := (requesterCode who, start, v / 2 ^ 32) :: s.sys.latches.filter fun p => !mine p } })
      else if size = 4 ∧ bytes = 8 ∧ off = start + 4 then
        match s.sys.latches.find? mine with
        | some p => (p.2.2, { s with sys := { s.sys with latches := s.sys.latches.filter fun p => !mine p } })
        | none => (v / 2 ^ 32, s)
      else (bitsOf v (8 * (off - start)) (8 * size), s)

end Sys2Proof.Machine
end

