-- ==== Sys2Proof/Machine/Windows.lean ====
section
/-! DEFINITION. Accesses through the Kolat remote windows (R199, R329): a load waits for its answer, a store is posted;
and the trap machine check (R398). -/

namespace Sys2Proof.Machine

/-- Logs a trap machine check (R398): CLASS 0x11, SEVERITY 5. -/
def logTrapMchk (s : State) (c : CoreId) (b : BankId) (addr : Word) : State :=
  s.report { island := (coreUnit c).1, unit := (coreUnit c).2, cls := .timeout, severity := 5, code := 0x01,
             bank := b.val, an := (s.bank c b).an.toNat, detail := addr.toNat }

/-- A trap machine check at the PC of a bank (R398). -/
def trapMchk (s : State) (c : CoreId) (b : BankId) (addr : Word) : State :=
  takeTrap (logTrapMchk s c b addr) c b 0x01 addr (s.bank c b).pc

/-- The body of WREAD, and the head of that of WWRITE (R309). -/
def windowBody (a size : Nat) : List Byte := leBytes 8 (a % 2 ^ 40) ++ [byte size] ++ zeros 7

/-- The context on whose behalf bank `b` accesses memory: its own, or in bank 15 the one that bank 15 serves (R99). -/
def servedBank (s : State) (c : CoreId) (b : BankId) : BankId :=
  if b = bank15 then (match (s.core c).b15 with | some x => x.bank | none => b) else b

/-- The origin of an access of bank `b` (R86, R309). -/
def originOf (s : State) (c : CoreId) (b : BankId) : Origin :=
  let x := s.bank c b
  let o := servedBank s c b
  let run := match (s.bank c o).ctx with | some y => y.run | none => 0
  { an := x.an.toNat, deadline := x.deadline.toNat, tag := tagOf c o run 0, key := x.key }

/-- How an access through TLB entry `i` was translated (R212). -/
def viaOf (s : State) (c : CoreId) (i : Option Nat) : Via :=
  { entry := i.bind fun j => ((s.core c).tlb[j]?).map fun e => (e.w0, e.w1), inval := [] }

/-- Sends a window request (R309, R329): its request number. -/
def windowRequest (s : State) (o : Origin) (w : Nat) (what : KWhat) (type : Nat) (body : List Byte) : Nat × State :=
  kolRequest s (s.getF (Fld.KOL_WIN_NODE w)) what type o.key o.an o.deadline
    (fun no => o.tag + no % 2 ^ 17 * 2 ^ 15) body

/-- Sends WREAD for a load of bank `b` through window `w`; the core waits for WIN_RSP (R131, R329). With Kolat out of
service the access completes at once with MCHK (R323). -/
def windowLoad (s : State) (c : CoreId) (b : BankId) (va w a size : Nat) (d : Reg) (sx fp : Bool) (via : Via) : State :=
  if kolEnabled s then
    let r := windowRequest s (originOf s c b) w (.wread c) 0x12 (windowBody a size)
    r.2.modCore c fun k => { k with wait := some (.window r.1 va d size sx fp via) }
  else trapMchk s c b (BitVec.ofNat 64 va)

/-- Sends WREAD for one access of a sequenced instruction, or of a fetch, of bank `b`; the core waits for its bytes (R121,
R199, R329). -/
def windowBytes (s : State) (c : CoreId) (b : BankId) (n : WinNeed) : State :=
  match targetOf n.pa with
  | .window w a =>
    if kolEnabled s then
      let r := windowRequest s (originOf s c b) w (.wread c) 0x12 (windowBody a n.size)
      r.2.modCore c fun k => { k with wait := some (.bytes r.1 n.va n.pa n.size (viaOf s c n.tlb)) }
    else trapMchk s c b (BitVec.ofNat 64 n.va)
  | _ => s

/-- Records a posted store that its target has not acknowledged (R121, R398). -/
def notePostedSt (s : State) (c : CoreId) (p : PostedSt) : State :=
  s.modCore c fun k => { k with posted := k.posted ++ [p] }

/-- Sends WWRITE for a posted store of core `c` (R121, R309, R329), in the name of the run that stored. With Kolat out of
service it stays unacknowledged and its MCHK is due at once (R323, R398). -/
def windowStore (s : State) (c : CoreId) (o : Origin) (via : Via) (va w a size v : Nat) : State :=
  if kolEnabled s then
    let r := windowRequest s o w (.wwrite c) 0x13 (windowBody a size ++ leBytes 8 v)
    notePostedSt r.2 c { req := some r.1, va := va, via := via }
  else notePostedSt s c { req := some (2 ^ 17), va := va, via := via }

end Sys2Proof.Machine
end

