-- ==== Sys2Proof/Machine/Stores.lean ====
section
/-! DEFINITION. Loads and stores of a core: the store queue (R113, R114, R118), device accesses (R121), and the one
operation each for a load and a store of an ordinary access (R115, R188). -/

namespace Sys2Proof.Machine

/-- Writes bytes given as cells. -/
def writeCells (m : List Host.Cell) : List Host.Cell → List Host.Cell
  | [] => m
  | p :: t => writeCells (memSet m p.1 p.2) t

/-- A device store at its target (R121, R425): a setup register, a remote window, a device region, or host memory, which
acknowledges it later (R131; log 18). -/
def deviceStore (s : State) (c : CoreId) (e : SqEntry) : State :=
  match e.cells with
  | [] => s
  | p :: _ =>
    let v := leNat (e.cells.map fun q => q.2)
    match targetOf p.1 with
    | .setup off => regWrite s off e.cells.length v
    | .window w a => windowStore s c e.org e.via e.va w a e.cells.length v
    | .host _ => notePostedSt { s with mem := writeCells s.mem e.cells } c { req := none, va := e.va, via := e.via }
    | _ => { s with mem := writeCells s.mem e.cells }

/-- The store at the head of the queue becomes visible, or is performed if it is a device store (R114, R121). A store to
normal memory takes the port and the line with write permission (R107, R114). -/
def drainHead (s : State) (c : CoreId) : State :=
  match (s.core c).sq with
  | [] => s
  | e :: t =>
    let s1 := s.modCore c fun k => { k with sq := t }
    if e.dev then deviceStore s1 c e
    else
      let s2 : State := { s1 with mem := writeCells s1.mem e.cells }
      match e.cells with
      | [] => s2
      | p :: _ => l1Data s2 c true p.1 1

/-- Drains `n` stores. -/
def drainN (s : State) (c : CoreId) : Nat → State
  | 0 => s
  | n + 1 => drainN (drainHead s c) c n

/-- Drains the whole queue. -/
def drainAll (s : State) (c : CoreId) : State := drainN s c (s.core c).sq.length

/-- What a core has stored is written before anything outside it reads or writes memory for the run in bank `b` (log 45). -/
def settleRun (s : State) (t : Txn) : State :=
  match t.where_ with
  | some (c, _) => drainAll s c
  | none => s

/-- The capacity of the store queue (R113). -/
def sqSize : Nat := 32

/-- Whether a store writes a byte of a fetched word (R118). -/
def Core.hitsCode (k : Core) (e : SqEntry) : Bool :=
  !e.dev && k.pq.any fun w => e.cells.any fun p => decide (w.pa ≤ p.1 ∧ p.1 < w.pa + 16)

/-- A store retires into the queue. A full queue first drains its head (R113; log 10). A store into a fetched word is noted
for the end of its instruction (R118, R164). -/
def pushStore (s : State) (c : CoreId) (e : SqEntry) : State :=
  let s1 := if sqSize ≤ (s.core c).sq.length then drainHead s c else s
  s1.modCore c fun k => { k with sq := k.sq ++ [e], smc := k.smc || k.hitsCode e }

/-- The cells of consecutive bytes. -/
def cellsAt (a : Nat) : List Byte → List Host.Cell
  | [] => []
  | b :: t => (a, b) :: cellsAt (a + 1) t

/-- Splits consecutive bytes into the pieces that lie within aligned 8-byte units (R138, R164). -/
def unitsFuel : Nat → Nat → List Byte → List (Nat × List Byte)
  | 0, _, _ => []
  | f + 1, a, bs =>
    match bs with
    | [] => []
    | _ :: _ =>
      let m := 8 - a % 8
      (a, bs.take m) :: unitsFuel f (a + m) (bs.drop m)

/-- The pieces of a multi-byte store. -/
def unitsOf (a : Nat) (bs : List Byte) : List (Nat × List Byte) := unitsFuel (bs.length + 1) a bs

/-- Splits a range into naturally aligned accesses of 8, 4, 2 or 1 bytes (log 22). -/
def accessesFuel : Nat → Nat → Nat → List (Nat × Nat)
  | 0, _, _ => []
  | f + 1, a, n =>
    if n = 0 then [] else
    let m := if a % 8 = 0 ∧ 8 ≤ n then 8 else if a % 4 = 0 ∧ 4 ≤ n then 4 else if a % 2 = 0 ∧ 2 ≤ n then 2 else 1
    (a, m) :: accessesFuel f (a + m) (n - m)

/-- The device accesses of a range (R121). -/
def accessesOf (a n : Nat) : List (Nat × Nat) := accessesFuel n a n

/-- The pieces in which a store of bytes at a physical address is made: one for each aligned 8-byte unit (R138, R164), for
a device target naturally aligned ones. -/
def piecesOf (dev : Bool) (a : Nat) (bs : List Byte) : List (Nat × List Byte) :=
  if dev then (accessesOf a bs.length).map fun p => (p.1, (bs.drop (p.1 - a)).take p.2) else unitsOf a bs

/-- Stores bytes of bank `b` at a physical address, one queue entry for each piece. -/
def storePhys (s : State) (c : CoreId) (b : BankId) (q : Phys) (bs : List Byte) : State :=
  (piecesOf q.dev q.pa bs).foldl (fun s p =>
    pushStore s c { cells := cellsAt p.1 p.2, dev := q.dev, va := q.va + (p.1 - q.pa), org := originOf s c b,
                    via := viaOf s c q.tlb }) s

/-- Stores the bytes of an operand through its checked parts, and moves append pointers (R217). -/
def storeParts (s : State) (c : CoreId) (b : BankId) : List (Phys × Nat) → List Byte → State
  | [], _ => s
  | (p, n) :: t, bs =>
    let s1 := markUse (appendAdvance s (s.bank c b).initiator p.pa n) c p.tlb
    storeParts (storePhys s1 c b p (bs.take n)) c b t (bs.drop n)

/-- The queue position after the youngest store that writes a byte of a range, with that store. -/
def lastOverlap (pa n : Nat) : List SqEntry → Nat → Option (Nat × SqEntry) → Option (Nat × SqEntry)
  | [], _, acc => acc
  | e :: t, i, acc =>
    lastOverlap pa n t (i + 1) (if e.cells.any fun p => decide (pa ≤ p.1 ∧ p.1 < pa + n) then some (i + 1, e) else acc)

/-- A load of `n` bytes of normal memory meets the store queue (R116): the youngest store to an overlapping byte forwards if
it holds every byte and both lie in one aligned 8-byte unit; otherwise every older overlapping store is first written to the
L1. -/
def settleLoad (s : State) (c : CoreId) (pa n : Nat) : State :=
  match lastOverlap pa n (s.core c).sq 0 none with
  | none => s
  | some (i, e) =>
    if pa / 8 = (pa + n - 1) / 8 ∧ (List.range n).all fun j => (e.cells.lookup (pa + j)).isSome then s else drainN s c i

/-- A read of normal memory by the data side: its bytes, and what the access leaves (R107, R116). -/
def loadNormal (s : State) (c : CoreId) (pa n : Nat) : List Byte × State :=
  let s1 := l1Data (settleLoad s c pa n) c false pa n
  (coreRead s1 c pa n, s1)

/-- The bytes of a range behind a remote window that the core has received, or the first access that is still to be made. -/
def windowHave (k : Core) (p : Phys) (n : Nat) : Except WinNeed (List Byte) :=
  match (accessesOf p.pa n).find? fun a => (k.win.lookup a.1).isNone with
  | some a => .error { va := p.va + (a.1 - p.pa), pa := a.1, size := a.2, tlb := p.tlb }
  | none => .ok ((List.range n).map fun i => (k.win.lookup (p.pa + i)).getD 0)

/-- The bytes that a read of a checked part gives a sequenced instruction: memory through the store queue, or the
device's answer (R121). A part behind a remote window is read by one WREAD for each access; what has not been answered is
noted, and the instruction waits for it (R199, R329). -/
def readPart (s : State) (c : CoreId) (p : Phys) (n : Nat) : List Byte × State :=
  if p.dev then
    let s1 := drainAll s c
    match targetOf p.pa with
    | .setup off => let r := regRead s1 (.core c) off n; (leBytes n r.1, r.2)
    | .window _ _ =>
      (match windowHave (s1.core c) p n with
       | .ok bs => (bs, s1)
       | .error w => (zeros n, if (s1.core c).need.isNone then s1.modCore c fun k => { k with need := some w } else s1))
    | _ => (s1.rd p.pa n, s1)
  else loadNormal s c p.pa n

/-- The bytes of an operand through its checked parts. -/
def readParts (s : State) (c : CoreId) : List (Phys × Nat) → List Byte × State
  | [] => ([], s)
  | (p, n) :: t =>
    let r := readPart (markUse s c p.tlb) c p n
    let r2 := readParts r.2 c t
    (r.1 ++ r2.1, r2.2)

/-! ## Ordinary accesses -/

/-- The effective address Ga + IMM16 (R181). -/
def effAddr (s : State) (c : CoreId) (b : BankId) (a : Reg) (imm : BitVec 16) : Word := s.g c b a + imm.signExtend 64

/-- Where a loaded value goes. -/
def putLoaded (s : State) (c : CoreId) (b : BankId) (d : Reg) (sx fp : Bool) (size v : Nat) : State :=
  let w : Word := BitVec.ofNat 64 v
  let w := if sx then sextFrom (8 * size) w else w
  if fp then s.setFr c d w else s.setG c b d w

/-- An ordinary load of `size` bytes (R115, R116, R121, R188). -/
def loadBody (c : CoreId) (size : Nat) (sx fp : Bool) (d a : Reg) (imm : BitVec 16) (b : BankId) (s : State) : IRes :=
  let ea := effAddr s c b a imm
  if ea.toNat % size ≠ 0 then .trap s 0x10 ea
  else match checkPart s c b .read ea.toNat size with
    | .error e => .trap s (e.code .read) ea
    | .ok p =>
      let s1 := markUse s c p.tlb
      if p.dev then
        let s2 := drainAll s1 c
        match targetOf p.pa with
        | .setup off => let r := regRead s2 (.core c) off size; .done (putLoaded r.2 c b d sx fp size r.1)
        | .window w o => .hold (windowLoad s2 c b ea.toNat w o size d sx fp (viaOf s2 c p.tlb))
        | _ => .done (putLoaded s2 c b d sx fp size (leNat (s2.rd p.pa size)))
      else let r := loadNormal s1 c p.pa size; .done (putLoaded r.2 c b d sx fp size (leNat r.1))

/-- An ordinary store of the low `size` bytes of `v` (R115, R188). -/
def storeBody (c : CoreId) (size : Nat) (v : Word) (a : Reg) (imm : BitVec 16) (b : BankId) (s : State) : IRes :=
  let ea := effAddr s c b a imm
  if ea.toNat % size ≠ 0 then .trap s 0x10 ea
  else match checkPart s c b .write ea.toNat size with
    | .error e => .trap s (e.code .write) ea
    | .ok p => .done (storeParts s c b [(p, size)] (leBytes size v.toNat))

end Sys2Proof.Machine
end

