-- ==== Sys2Proof/Machine/Frame.lean ====
section
/-! DEFINITION. The frame that every instruction runs in (R103, R104, R108, R109, R118, R128). -/

namespace Sys2Proof.Machine

/-- The bank in which core `c` can execute an instruction now, if any: in service, a current bank whose context runs,
and no instruction that waits (R87, R99, R125). -/
def readyBank (s : State) (c : CoreId) : Option BankId :=
  let k := s.core c
  match k.cur with
  | none => none
  | some b =>
    if k.svc = .inService ∧ k.wait = none then
      if b = bank15 then (if k.b15.isSome then some b else none)
      else if (k.bank b).runnable then some b else none
    else none

/-- The exceptions whose EPC is the next instruction (R127): SCALL, BREAK, DOVF. -/
def epcNext (cause : Nat) : Bool := cause == 0x0D || cause == 0x0E || cause == 0x22

/-- The fetch checks of an instruction of `len` bytes at the PC (R109, R128 item 2). -/
def fetchCheck (s : State) (c : CoreId) (b : BankId) (len : Nat) : Except Refused (List (Phys × Nat)) :=
  let pc := (s.bank c b).pc.toNat
  if pc % 4 ≠ 0 then .error { cause := 0x04, bad := pc } else checkRange s c b .fetch pc len

/-- Moves a bank to a new PC after an instruction in line; fetch words before it leave the queue (R108). -/
def advancePc (s : State) (c : CoreId) (b : BankId) (len : Nat) : State :=
  s.modCore c fun k =>
    let pc := (k.bank b).pc + BitVec.ofNat 64 len
    { k.modBank b fun x => { x with pc := pc } with
      pq := k.pq.dropWhile fun w => decide (w.addr + 16 ≤ pc.toNat) }

/-- A taken branch (R108): the prefetch queue is emptied. -/
def jumpPc (s : State) (c : CoreId) (b : BankId) (pc : Word) : State :=
  s.modCore c fun k => { k.modBank b fun x => { x with pc := pc } with pq := [] }

/-- A store of the instruction has written a fetched word (R118, R164): once it has been written to the L1, with the older
ones, the queue is emptied. -/
def settleCode (s : State) (c : CoreId) : State :=
  if (s.core c).smc then (drainAll s c).modCore c fun k => { k with smc := false, pq := [] } else s

/-- What remote windows have answered is used up when the instruction ends. -/
def dropWin (s : State) (c : CoreId) : State :=
  if (s.core c).win = [] then s else s.modCore c fun k => { k with win := [] }

/-- Ends an instruction as its body answered. -/
def finishInstr (c : CoreId) (b : BankId) (len : Nat) (pc : Word) : IRes → State
  | .done s => advancePc (settleCode (dropWin s c) c) c b len
  | .jump s t => jumpPc (settleCode (dropWin s c) c) c b t
  | .trap s cause bad => takeTrap s c b cause bad (if epcNext cause then pc + BitVec.ofNat 64 len else pc)
  | .hold s => dropWin s c
  | .own s => s

/-- PART and PROG are cleared by an instruction that is not interruptible (R104). -/
def clearPart (s : State) (c : CoreId) (b : BankId) : State :=
  if (s.bank c b).part then s.modBank c b fun x => x.setProgress false 0 else s

/-- The state that a body answers with. -/
def IRes.state : IRes → State
  | .done s => s
  | .jump s _ => s
  | .trap s _ _ => s
  | .hold s => s
  | .own s => s

/-- Ends an instruction, unless it needs bytes behind a remote window that have not been answered (R121, R199): then
nothing that it did counts, the core sends the access and waits, and the instruction executes again with the answer. -/
def settleInstr (c : CoreId) (b : BankId) (len : Nat) (pc : Word) (before : State) (r : IRes) : State :=
  match (r.state.core c).need with
  | some w => windowBytes before c b w
  | none => finishInstr c b len pc r

/-- Executes one instruction of core `c`: fetch exceptions, ILLEGAL, PRIV, then the body (R128). While an MPU activation
drains, its fetch is held at the check (R225). `legal` answers
R180, `priv` marks a supervisor instruction, `intr` one that R104 lets resume. -/
def runInstr (c : CoreId) (len : Nat) (legal : BankId → Bool) (priv intr : Bool) (body : BankId → State → IRes)
    (s : State) : State :=
  match readyBank s c with
  | none => s
  | some b =>
    if s.getF Fld.MPU_STATUS_DRAINING = 1 then s else
    let pc := (s.bank c b).pc
    match fetchCheck s c b len with
    | .error r => takeTrap s c b r.cause (BitVec.ofNat 64 r.bad) pc
    | .ok ps =>
      let s1 := markParts s c ps
      if !legal b then takeTrap s1 c b 0x0B 0 pc
      else if priv && (s1.bank c b).user then takeTrap s1 c b 0x0C 0 pc
      else
        let s2 := if intr then s1 else clearPart s1 c b
        settleInstr c b len pc s2 (body b s2)

/-- A base instruction that any mode may execute and that is always legal. -/
def baseInstr (c : CoreId) (body : BankId → State → IRes) (s : State) : State :=
  runInstr c 4 (fun _ => true) false false body s

end Sys2Proof.Machine
end

