-- ==== Sys2Proof/Machine/LoadStore.lean ====
section
/-! DEFINITION. The lazy swap of the F and DA sets (R84), and the load, store, hint and branch instructions
(R188, R109, R183). -/

namespace Sys2Proof.Machine

/-! ## The lazy floating-point and decimal area -/

/-- Whether a bank has a context whose lazy set is worth saving (R84 item 1). -/
def Core.bound (k : Core) (b : BankId) : Bool := if b = bank15 then k.b15.isSome else (k.bank b).ctx.isSome

/-- Whether the context of a bank has used the F set since binding (R84 item 2). -/
def Core.usedF (k : Core) (b : BankId) : Bool :=
  if b = bank15 then (match k.b15 with | some x => x.usedF | none => false)
  else match (k.bank b).ctx with | some x => x.usedF | none => false

/-- Whether the context of a bank has used the DA set since binding. -/
def Core.usedD (k : Core) (b : BankId) : Bool :=
  if b = bank15 then (match k.b15 with | some x => x.usedD | none => false)
  else match (k.bank b).ctx with | some x => x.usedD | none => false

/-- Marks the F set used by a bank's context. -/
def Core.markF (k : Core) (b : BankId) : Core :=
  if b = bank15 then { k with b15 := k.b15.map fun x => { x with usedF := true } }
  else k.modBank b fun v => { v with ctx := v.ctx.map fun x => { x with usedF := true } }

/-- Marks the DA set used by a bank's context. -/
def Core.markD (k : Core) (b : BankId) : Core :=
  if b = bank15 then { k with b15 := k.b15.map fun x => { x with usedD := true } }
  else k.modBank b fun v => { v with ctx := v.ctx.map fun x => { x with usedD := true } }

/-- The F set from its 256 bytes (R82). -/
def fOf (bs : List Byte) : Vector Word 32 := Vector.ofFn fun i : Fin 32 => BitVec.ofNat 64 (fld bs (8 * i.val) 8)

/-- The DA set from its 256 bytes (R82). -/
def daOf (bs : List Byte) : Vector (BitVec 256) 8 :=
  Vector.ofFn fun i : Fin 8 => BitVec.ofNat 256 (fld bs (32 * i.val) 32)

/-- The lazy swap of the F set for bank `b` (R84). -/
def lazyF (s : State) (c : CoreId) (b : BankId) : State :=
  let k := s.core c
  if k.fOwner = some b then s
  else
    let s1 := match k.fOwner with
      | some o => if k.bound o then hwWrite s c (bankArea c o + 0x300) (k.f.toList.flatMap fun w => leBytes 8 w.toNat) else s
      | none => s
    let fr := if k.usedF b then fOf (coreRead s1 c (bankArea c b + 0x300) 256) else Vector.replicate 32 0
    (if k.usedF b then l1Access s1 c false (bankArea c b + 0x300) 256 else s1).modCore c fun k => ({ k with f := fr, fOwner := some b }).markF b

/-- The lazy swap of the DA set for bank `b` (R84). -/
def lazyD (s : State) (c : CoreId) (b : BankId) : State :=
  let k := s.core c
  if k.dOwner = some b then s
  else
    let s1 := match k.dOwner with
      | some o =>
        if k.bound o then hwWrite s c (bankArea c o + 0x400) (k.da.toList.flatMap fun w => leBytes 32 w.toNat) else s
      | none => s
    let dr := if k.usedD b then daOf (coreRead s1 c (bankArea c b + 0x400) 256) else Vector.replicate 8 daZero
    (if k.usedD b then l1Access s1 c false (bankArea c b + 0x400) 256 else s1).modCore c fun k => ({ k with da := dr, dOwner := some b }).markD b

/-! ## Loads and stores -/

/-- A load into a general register. -/
def loadOp (c : CoreId) (size : Nat) (sx : Bool) (d a : Reg) (imm : BitVec 16) (s : State) : State :=
  baseInstr c (loadBody c size sx false d a imm) s

/-- A store of a general register. -/
def storeOp (c : CoreId) (size : Nat) (d a : Reg) (imm : BitVec 16) (s : State) : State :=
  baseInstr c (fun b s => storeBody c size (s.g c b d) a imm b s) s

/-- LDB (R188). -/
def execLdb (c : CoreId) (d a : Reg) (imm : BitVec 16) (s : State) : Host.Outcome State Fault Refusal :=
  .next (loadOp c 1 false d a imm s)
/-- LDH (R188). -/
def execLdh (c : CoreId) (d a : Reg) (imm : BitVec 16) (s : State) : Host.Outcome State Fault Refusal :=
  .next (loadOp c 2 false d a imm s)
/-- LDW (R188). -/
def execLdw (c : CoreId) (d a : Reg) (imm : BitVec 16) (s : State) : Host.Outcome State Fault Refusal :=
  .next (loadOp c 4 false d a imm s)
/-- LDD (R188). -/
def execLdd (c : CoreId) (d a : Reg) (imm : BitVec 16) (s : State) : Host.Outcome State Fault Refusal :=
  .next (loadOp c 8 false d a imm s)
/-- LDBS (R188). -/
def execLdbs (c : CoreId) (d a : Reg) (imm : BitVec 16) (s : State) : Host.Outcome State Fault Refusal :=
  .next (loadOp c 1 true d a imm s)
/-- LDHS (R188). -/
def execLdhs (c : CoreId) (d a : Reg) (imm : BitVec 16) (s : State) : Host.Outcome State Fault Refusal :=
  .next (loadOp c 2 true d a imm s)
/-- LDWS (R188). -/
def execLdws (c : CoreId) (d a : Reg) (imm : BitVec 16) (s : State) : Host.Outcome State Fault Refusal :=
  .next (loadOp c 4 true d a imm s)
/-- STB (R188). -/
def execStb (c : CoreId) (d a : Reg) (imm : BitVec 16) (s : State) : Host.Outcome State Fault Refusal :=
  .next (storeOp c 1 d a imm s)
/-- STH (R188). -/
def execSth (c : CoreId) (d a : Reg) (imm : BitVec 16) (s : State) : Host.Outcome State Fault Refusal :=
  .next (storeOp c 2 d a imm s)
/-- STW (R188). -/
def execStw (c : CoreId) (d a : Reg) (imm : BitVec 16) (s : State) : Host.Outcome State Fault Refusal :=
  .next (storeOp c 4 d a imm s)
/-- STD (R188). -/
def execStd (c : CoreId) (d a : Reg) (imm : BitVec 16) (s : State) : Host.Outcome State Fault Refusal :=
  .next (storeOp c 8 d a imm s)
/-- FLDD (R188): 8 bytes into an F register. -/
def execFldd (c : CoreId) (d a : Reg) (imm : BitVec 16) (s : State) : Host.Outcome State Fault Refusal :=
  .next (baseInstr c (fun b s => loadBody c 8 false true d a imm b (lazyF s c b)) s)
/-- FLDS (R188): 4 bytes into [31:0], [63:32] zero. -/
def execFlds (c : CoreId) (d a : Reg) (imm : BitVec 16) (s : State) : Host.Outcome State Fault Refusal :=
  .next (baseInstr c (fun b s => loadBody c 4 false true d a imm b (lazyF s c b)) s)
/-- FSTD (R188). -/
def execFstd (c : CoreId) (d a : Reg) (imm : BitVec 16) (s : State) : Host.Outcome State Fault Refusal :=
  .next (baseInstr c (fun b s => let s1 := lazyF s c b; storeBody c 8 (s1.f c d) a imm b s1) s)
/-- FSTS (R188): stores [31:0]. -/
def execFsts (c : CoreId) (d a : Reg) (imm : BitVec 16) (s : State) : Host.Outcome State Fault Refusal :=
  .next (baseInstr c (fun b s => let s1 := lazyF s c b; storeBody c 4 (s1.f c d) a imm b s1) s)

/-- PREF (R188, R230): the line of the address is obtained, with write permission for a prefetch for writing; it is dropped
if any check of the line fails or the line is not normal memory. -/
def execPref (c : CoreId) (wr : Bool) (a : Reg) (imm : BitVec 16) (s : State) : Host.Outcome State Fault Refusal :=
  .next (baseInstr c (fun b s =>
    let line := (effAddr s c b a imm).toNat / 64 * 64
    match checkPart s c b (if wr then .write else .read) line 64 with
    | .error _ => .done s
    | .ok p => .done (if p.dev then s else l1Data (markUse s c p.tlb) c wr p.pa 64)) s)

/-! ## Branches -/

/-- The counter that predicts a branch: its index is a function of PC and global history that the text after R108 does not
give (log 63). -/
def Predictor.index (p : Predictor) (pc : Word) : Nat := Config.predictIndex pc.toNat p.history % 4096

/-- A two-bit counter: 2 and 3 predict taken (log 63). -/
def Predictor.counter (p : Predictor) (pc : Word) : BitVec 2 := Sparse.get (fun _ => 0#2) p.counters (p.index pc)

/-- The direction that the history table predicts. -/
def Predictor.taken (p : Predictor) (pc : Word) : Bool := (p.counter pc).getLsbD 1

/-- The entry of the target buffer for a branch (log 63). -/
def Predictor.slot (pc : Word) : Nat := pc.toNat / 4 % 256

/-- The predictor after a conditional branch: its counter moves toward the outcome, and the history takes it in (log 63). -/
def Predictor.learn (p : Predictor) (pc : Word) (taken : Bool) : Predictor :=
  let n := p.counter pc
  let m := if taken then (if n = 3 then n else n + 1) else (if n = 0 then n else n - 1)
  { p with counters := Sparse.set (fun _ => 0#2) p.counters (p.index pc) m,
           history := (2 * p.history + b2n taken) % 4096 }

/-- The predictor after a taken branch: its target is entered in the target buffer. -/
def Predictor.enter (p : Predictor) (pc target : Word) : Predictor :=
  { p with targets := (slot pc, (pc, target)) :: p.targets.filter fun e => e.1 != slot pc }

/-- The return stack after a jump that links (log 63): the eight newest return addresses. -/
def Predictor.call (p : Predictor) (link : Word) : Predictor := { p with returns := (link :: p.returns).take 8 }

/-- The return stack after a jump that does not link. -/
def Predictor.ret (p : Predictor) : Predictor := { p with returns := p.returns.drop 1 }

/-- Changes the predictor of a core. -/
def State.modBp (s : State) (c : CoreId) (f : Predictor → Predictor) : State := s.modCore c fun k => { k with bp := f k.bp }

/-- A conditional branch that is not taken: a predicted-taken redirect has emptied the queue, and the mispredicted path is
cleared (R108). -/
def notTaken (s : State) (c : CoreId) (pc : Word) : State :=
  let s1 := if (s.core c).bp.taken pc then s.modCore c fun k => { k with pq := [] } else s
  s1.modBp c fun p => p.learn pc false

/-- BC (R183, R188): branches when bit CC of MASK is set; 0b1111 always. -/
def execBc (c : CoreId) (mask : BitVec 4) (disp : BitVec 22) (s : State) : Host.Outcome State Fault Refusal :=
  .next (baseInstr c (fun b s =>
    let pc := (s.bank c b).pc
    let t := pc + disp.signExtend 64 <<< 2
    if mask.getLsbD (s.cc c b) then .jump (s.modBp c fun p => (p.learn pc true).enter pc t) t
    else .done (notTaken s c pc)) s)

/-- JAL (R183, R188). -/
def execJal (c : CoreId) (d : Reg) (disp : BitVec 21) (s : State) : Host.Outcome State Fault Refusal :=
  .next (baseInstr c (fun b s =>
    let pc := (s.bank c b).pc
    let t := pc + disp.signExtend 64 <<< 2
    .jump ((s.setG c b d (pc + 4)).modBp c fun p => if d = 0 then p.enter pc t else (p.enter pc t).call (pc + 4)) t) s)

/-- JALR (R181, R188): the target is formed before Gd is written. -/
def execJalr (c : CoreId) (d a : Reg) (imm : BitVec 16) (s : State) : Host.Outcome State Fault Refusal :=
  .next (baseInstr c (fun b s =>
    let t := effAddr s c b a imm
    let pc := (s.bank c b).pc
    .jump ((s.setG c b d (pc + 4)).modBp c fun p => if d = 0 then (p.enter pc t).ret else (p.enter pc t).call (pc + 4)) t) s)

end Sys2Proof.Machine
end

