-- ==== Sys2Proof/Machine/CryptoOps.lean ====
section
/-! DEFINITION. What blocking instructions share (R92), cut-offs (R33), and CRYPT (R260, R261). -/

namespace Sys2Proof.Machine

/-! ## Blocking instructions -/

/-- A blocking instruction retires and its context gives up the core (R92). Its retired stores stay in the store queue
(R112). -/
def blockOn (s : State) (c : CoreId) (b : BankId) (why : Block) : State :=
  let s1 := advancePc s c b 4
  let s2 := reportCycles s1 c b
  s2.modCore c fun k =>
    Core.yieldBank (k.modBank b fun v => { v with ctx := v.ctx.map fun x => { x with block := some why } })

/-- The transaction whose context is bound to a bank. -/
def ctxTxn (s : State) (c : CoreId) (b : BankId) : Option Txn :=
  match (s.bank c b).ctx with
  | some x => s.txn? x.an
  | none => none

/-- A cut-off of the context in a bank (R33, R101): a quarantine with the reason while bank 15 serves it. -/
def cutOff (s : State) (c : CoreId) (b : BankId) (reason : Nat) : State :=
  match (s.bank c b).ctx with
  | none => s
  | some x =>
    match (s.core c).b15 with
    | some y => if y.bank = b then quarantine s c b y.cause reason else endRun s x.an (.decline reason)
    | none => endRun s x.an (.decline reason)

/-! ## CRYPT -/

/-- Whether the limits of a kind depend on the key (R261). -/
def keyDependent (op : Nat) : Bool :=
  op == 0x30 || op == 0x31 || op == 0x1A || op == 0x1B || op == 0x20 || op == 0x34 || op == 0x35

/-- The modulus length that CRYPT takes (R261): the slot's, or 8 × IN_LEN for a slot without an RSA key. -/
def takenModulus (k : Option KeySlot) (d : Desc) : Nat :=
  match k with
  | some x => if x.modLen = 0 then 8 * d.inLen else x.modLen
  | none => 8 * d.inLen

/-- The public exponent that the cost uses; free where the slot has none (log 7). -/
def takenExponent (s : State) (k : Option KeySlot) : Nat :=
  match k with
  | some x => if x.modLen = 0 then Config.emptyExponent s.freeCtr else (rsaParts x.mat).2.1
  | none => Config.emptyExponent s.freeCtr

/-- The physical parts of a checked operand. -/
def physParts (ps : List (Phys × Nat)) : List (Nat × Nat) := ps.map fun p => (p.1.pa, p.2)

/-- Checks IN, AUX and OUT in the order of step 4 of R261. -/
def checkBuffers (s : State) (c : CoreId) (b : BankId) (d : Desc) :
    Except Refused (List (Phys × Nat) × List (Phys × Nat) × List (Phys × Nat)) :=
  match checkRange s c b .read d.inp d.inLen with
  | .error r => .error r
  | .ok i =>
    match checkRange s c b .read d.aux d.auxLen with
    | .error r => .error r
    | .ok x =>
      match checkRange s c b .write d.out d.outLen with
      | .error r => .error r
      | .ok o => .ok (i, x, o)

/-- Whether a job would exceed the budget (R33). -/
def overCrypto (t : Txn) (k : EngineKind) (cost : Nat) : Bool :=
  decide (t.pd.cryptOps < t.nCrypt + 1) ||
    match k with
    | .pke => decide (t.pd.pkeNs < t.declPke + cost)
    | .sym => decide (t.pd.symNs < t.declSym + cost)

/-- Counts an issued job against the run (R33, R264). -/
def Txn.issueJob (t : Txn) (k : EngineKind) (cost : Nat) : Txn :=
  match k with
  | .pke => { t with nCrypt := t.nCrypt + 1, declPke := t.declPke + cost }
  | .sym => { t with nCrypt := t.nCrypt + 1, declSym := t.declSym + cost }

/-- Issues a job: COST is written, the parts captured, the context blocks (R261). -/
def issueJob (s : State) (c : CoreId) (b : BankId) (t : Txn) (d : Desc) (desc cost : Nat)
    (i x o : List (Phys × Nat)) : State :=
  let k := s.keyOf 0 d.key1
  let e := opEngine d.op
  let j : CJob :=
    { id := s.cry.nextJob, who := .program, cluster := (tileOf c).val / 4, data := [], res := [], bkt := 0, an := t.an, run := t.run, core := c, bank := b, deadline := t.deadline, kind := e,
      op := d.op, param := d.param, key1 := d.key1, key2 := d.key2, inp := physParts i, aux := physParts x,
      out := physParts o, outCap := d.outLen, mlen := d.mlen, desc := desc, cost := cost, key := (s.bank c b).key,
      typ := (if keyDependent d.op then
          match k with
          | some y => some (y.type, if isRsa d.op then takenModulus k d else y.modLen)
          | none => none
        else none),
      reissued := false, fails := 0, avoid := [], keys := none, work := 0, told := false, st := .waiting }
  let s1 := hwWrite (markParts (markParts (markParts s c i) c x) c o) c (desc + 0x2C) (leBytes 4 cost)
  let s2 := { s1 with cry := { s1.cry with jobs := s1.cry.jobs ++ [j], nextJob := s1.cry.nextJob + 1 } }
  blockOn (s2.modTxn t.an fun t => t.issueJob e cost) c b .crypto

/-- The checks of R261 from the descriptor on. -/
def cryptChecked (c : CoreId) (b : BankId) (ga : Word) (ps : List (Phys × Nat)) (s : State) : IRes :=
  let r := readParts s c ps
  let d := readDesc r.1
  let s1 := markParts r.2 c ps
  let k := s1.keyOf 0 d.key1
  let m := takenModulus k d
  let ty := match k with | some x => x.type | none => 0
  if (s1.core c).need.isSome then .hold s1
  else if !descOk d ty m then .trap s1 0x29 ga
  else match checkBuffers s1 c b d with
    | .error e => .trap s1 e.cause (BitVec.ofNat 64 e.bad)
    | .ok (i, x, o) =>
      let cost := costOf d ty m (takenExponent s1 k)
      match ctxTxn s1 c b, ps with
      | some t, p :: _ =>
        if overCrypto t (opEngine d.op) cost then .own (cutOff s1 c b 0x11)
        else .own (issueJob { s1 with freeCtr := s1.freeCtr + 1 } c b t d p.1.pa cost i x o)
      | _, _ => .hold s1

/-- The body of CRYPT (R261). -/
def cryptBody (c : CoreId) (a : Reg) (b : BankId) (s : State) : IRes :=
  let ga := s.g c b a
  if b = bank15 then .trap s 0x0C 0
  else if s.getF Fld.CRY_CTRL_ENABLE = 0 then .trap s 0x29 ga
  else if ga.toNat % 64 ≠ 0 then .trap s 0x29 ga
  else match checkRange s c b .read ga.toNat 64 with
    | .error e => .trap s e.cause (BitVec.ofNat 64 e.bad)
    | .ok ps =>
      match checkRange s c b .write ga.toNat 64 with
      | .error e => .trap s e.cause (BitVec.ofNat 64 e.bad)
      | .ok _ => cryptChecked c b ga ps s

/-- CRYPT Ga (R260, R261). -/
def execCrypt (c : CoreId) (a : Reg) (s : State) : Host.Outcome State Fault Refusal :=
  .next (baseInstr c (cryptBody c a) s)

end Sys2Proof.Machine
end

