-- ==== Sys2Proof/Decode.lean ====
section
/-! DEFINITION. Decoding. The table gives its rows no bits, so no word spells a command by the table
(`decodeTableWord`). The instruction words of a Porilnus core are decoded by R177 to R196 (`porDecode`): the
ILLEGAL_INSTRUCTION event is for the words that it does not define. -/

namespace Sys2Proof

/-- The command that a word spells by the table's bits: the table gives bits to none of its rows. -/
def decodeTableWord (_nbits _w : Nat) : Option Instr := none

/-! ## Fields of an instruction word -/

/-- Bits [lo + n - 1 : lo] of a word. -/
def wbits (w : BitVec 32) (lo n : Nat) : Nat := (w.toNat >>> lo) % 2 ^ n

/-- A five-bit register field (R178). -/
def wreg (w : BitVec 32) (lo : Nat) : Reg := ⟨(w.toNat >>> lo) % 32, Nat.mod_lt _ (by decide)⟩

/-- The major opcode (R177). -/
def major (w : BitVec 32) : Nat := wbits w 26 6

/-- A long instruction has two words (R177). -/
def isLong (w : BitVec 32) : Bool := major w == 0x3E

/-- Bytes of the instruction that begins with a word (R177). -/
def instrBytes (w : BitVec 32) : Nat := if isLong w then 8 else 4

/-- An instruction if the fields that must be zero are zero (R180). -/
def ifZero (z : Nat) (i : Instr) : Option Instr := if z = 0 then some i else none

/-! ## The register groups -/

/-- Major INT (R189). -/
def decodeInt (c : CoreId) (w : BitVec 32) : Option Instr :=
  let d := wreg w 21
  let a := wreg w 16
  let b := wreg w 11
  let sh := wbits w 0 6
  let shf : Fin 64 := ⟨w.toNat % 64, Nat.mod_lt _ (by decide)⟩
  match wbits w 6 5 with
  | 0x00 => ifZero sh (.add c d a b)
  | 0x01 => ifZero sh (.sub c d a b)
  | 0x02 => ifZero sh (.and c d a b)
  | 0x03 => ifZero sh (.or c d a b)
  | 0x04 => ifZero sh (.xor c d a b)
  | 0x05 => ifZero sh (.andn c d a b)
  | 0x06 => ifZero sh (.sll c d a b)
  | 0x07 => ifZero sh (.srl c d a b)
  | 0x08 => ifZero sh (.sra c d a b)
  | 0x09 => ifZero b.val (.slli c d a shf)
  | 0x0A => ifZero b.val (.srli c d a shf)
  | 0x0B => ifZero b.val (.srai c d a shf)
  | 0x0C => ifZero sh (.adds c d a b)
  | 0x0D => ifZero sh (.addc c d a b)
  | 0x0E => ifZero sh (.subs c d a b)
  | 0x0F => ifZero sh (.subb c d a b)
  | 0x10 => ifZero (sh + d.val) (.cmp c a b)
  | 0x11 => ifZero (sh + d.val) (.cmpu c a b)
  | 0x12 => ifZero (sh + b.val) (.sextb c d a)
  | 0x13 => ifZero (sh + b.val) (.sexth c d a)
  | 0x14 => ifZero (sh + b.val) (.sextw c d a)
  | _ => none

/-- Major MULDIV (R190). -/
def decodeMulDiv (c : CoreId) (w : BitVec 32) : Option Instr :=
  let d := wreg w 21
  let a := wreg w 16
  let b := wreg w 11
  let z := wbits w 0 6
  match wbits w 6 5 with
  | 0x00 => ifZero z (.mul c d a b)
  | 0x01 => ifZero z (.mulwu c d a b)
  | 0x02 => ifZero z (.mulws c d a b)
  | 0x03 => ifZero z (.divu c d a b)
  | 0x04 => ifZero z (.divs c d a b)
  | 0x05 => ifZero z (.remu c d a b)
  | 0x06 => ifZero z (.rems c d a b)
  | 0x07 => ifZero z (.divwu c d a b)
  | _ => none

/-- Major FP (R191). -/
def decodeFp (c : CoreId) (w : BitVec 32) : Option Instr :=
  let d := wreg w 21
  let a := wreg w 16
  let b := wreg w 11
  let f := wreg w 6
  let z := wbits w 0 1 == 1
  match wbits w 1 5 with
  | 0x00 => ifZero f.val (.fadd c z d a b)
  | 0x01 => ifZero f.val (.fsub c z d a b)
  | 0x02 => ifZero f.val (.fmul c z d a b)
  | 0x03 => ifZero f.val (.fdiv c z d a b)
  | 0x04 => some (.fma c z d a b f)
  | 0x05 => ifZero (f.val + b.val) (.fsqrt c z d a)
  | 0x06 => ifZero (f.val + b.val) (.fcvt c z d a)
  | 0x07 => ifZero (f.val + b.val) (.fcvti c z d a)
  | 0x08 => ifZero (f.val + b.val) (.fcvtiz c z d a)
  | 0x09 => ifZero (f.val + b.val) (.fcvtf c z d a)
  | 0x0A => ifZero (f.val + d.val) (.fcmpq c z a b)
  | 0x0B => ifZero (f.val + d.val) (.fcmps c z a b)
  | 0x0C => ifZero (f.val + b.val) (.fmvfg c z d a)
  | 0x0D => ifZero (f.val + b.val) (.fmvgf c z d a)
  | 0x0E => ifZero (f.val + b.val) (.fneg c z d a)
  | 0x0F => ifZero (f.val + b.val) (.fabs c z d a)
  | _ => none

/-- Majors MULTI and STRING (R192). -/
def decodeMulti (c : CoreId) (w : BitVec 32) : Option Instr :=
  let d := wreg w 21
  let a := wreg w 16
  let b := wreg w 11
  let t := wbits w 6 5
  match wbits w 0 6 with
  | 0x00 => ifZero t (.stm c d b a none)
  | 0x01 => ifZero t (.ldm c d b a none)
  | 0x02 => ifZero (t + d.val) (.rslk c a b none)
  | _ => none

/-- Major STRING (R192). -/
def decodeString (c : CoreId) (w : BitVec 32) : Option Instr :=
  let d := wreg w 21
  let a := wreg w 16
  let b := wreg w 11
  let t := wreg w 6
  match wbits w 0 6 with
  | 0x00 => ifZero t.val (.smov c d a b none)
  | 0x01 => ifZero t.val (.smovx c d a b none)
  | 0x02 => ifZero t.val (.sfill c d a b none)
  | 0x03 => ifZero t.val (.scmp c d a b none)
  | 0x04 => some (.str c d a b t none)
  | 0x05 => some (.sscan c a b t d none)
  | 0x06 => some (.scvu c d a b t none)
  | 0x07 => some (.scvs c d a b t none)
  | 0x08 => ifZero t.val (.edit c d a b none)
  | _ => none

/-! ## System groups -/

/-- Major SYSTEM (R193, R194). -/
def decodeSystem (c : CoreId) (w : BitVec 32) : Option Instr :=
  let d := wreg w 21
  let a := wreg w 16
  let b := wreg w 11
  let z := wbits w 0 6
  let abc := d.val + a.val + b.val
  match wbits w 6 5 with
  | 0x00 => ifZero (z + abc) (.scall c)
  | 0x01 => ifZero (z + abc) (.breakpoint c)
  | 0x02 => ifZero (z + abc) (.fenceSl c)
  | 0x03 => ifZero (z + abc) (.fenceDev c)
  | 0x04 => ifZero (z + abc) (.fenceAll c)
  | 0x05 => ifZero (z + abc) (.csync c)
  | 0x06 => ifZero (z + abc) (.isync c)
  | 0x07 => if b.val ≤ 0x0C then ifZero (z + a.val) (.ctlr c d b) else none
  | 0x08 => if b.val ≤ 0x0C then ifZero (z + d.val) (.ctlw c b a) else none
  | _ => none

/-- Major PRIVOP (R195). -/
def decodePrivop (c : CoreId) (w : BitVec 32) : Option Instr :=
  let d := wreg w 21
  let a := wreg w 16
  let b := wreg w 11
  let bc := wbits w 0 1
  let z := wbits w 1 5
  match wbits w 6 5 with
  | 0x00 => ifZero (z + bc + d.val + a.val + b.val) (.tret c)
  | 0x01 => ifZero (z + bc + d.val + a.val + b.val) (.quar c)
  | 0x02 => ifZero (z + bc + d.val + a.val + b.val) (.msync c)
  | 0x03 => ifZero (z + bc + d.val + a.val + b.val) (.tlbsync c)
  | 0x04 => ifZero (z + bc + d.val) (.tlbins c a b)
  | 0x05 => ifZero (z + bc + b.val) (.tlbrd c d a)
  | 0x06 => ifZero (z + bc + b.val) (.tlbfind c d a)
  | 0x07 => ifZero (z + d.val + b.val) (.tlbiv c a (bc == 1))
  | 0x08 => ifZero (z + d.val + b.val) (.tlbia c a (bc == 1))
  | 0x09 => ifZero (z + bc + d.val) (.fkset c a b)
  | 0x0A => ifZero (z + bc + b.val) (.fkget c d a)
  | 0x0B => ifZero (z + bc) (.tlbset c d a b)
  | _ => none

/-- Major LEDGER (R196). -/
def decodeLedger (c : CoreId) (w : BitVec 32) : Option Instr :=
  let d := wreg w 21
  let a := wreg w 16
  let b := wreg w 11
  let z := wbits w 0 6
  match wbits w 6 5 with
  | 0x00 => ifZero z (.ldl c d a b)
  | 0x01 => ifZero z (.ldlu c d a b)
  | 0x02 => ifZero z (.stl c d a b)
  | 0x03 => ifZero (z + d.val) (.del c a b)
  | 0x04 => ifZero (z + d.val + a.val + b.val) (.commit c)
  | 0x05 => ifZero (z + d.val + b.val) (.abort c a)
  | _ => none

/-- Major ASYNC (R196). -/
def decodeAsync (c : CoreId) (w : BitVec 32) : Option Instr :=
  let a := wreg w 16
  let z := wbits w 0 6 + wbits w 21 5 + wbits w 11 5
  match wbits w 6 5 with
  | 0x00 => ifZero z (.crypt c a)
  | 0x01 => ifZero z (.waitt c a)
  | _ => none

/-! ## The long format -/

/-- A packed operand: LiF at most 31 (R185). -/
def packedOp (m : MOp) : Bool := decide (m.lf.toNat ≤ 31)

/-- A zoned operand: LiF at most 62 (R185). -/
def zonedOp (m : MOp) : Bool := decide (m.lf.toNat ≤ 62)

/-- A register position: displacement and length field zero (R185). -/
def regOp (m : MOp) : Bool := m.disp == 0 && m.lf == 0

/-- An accumulator position: bits [4:3] of the register field zero as well (R185). -/
def accOp (m : MOp) : Bool := regOp m && decide (m.base.val < 8)

/-- The accumulator that a position names. -/
def accOf (m : MOp) : Fin 8 := ⟨m.base.val % 8, Nat.mod_lt _ (by decide)⟩

/-- An instruction if a condition holds. -/
def ifOk (b : Bool) (i : Instr) : Option Instr := if b then some i else none

/-- Major LONG (R184 to R186). -/
def decodeLong (c : CoreId) (w v : BitVec 32) : Option Instr :=
  let x : MOp := { base := wreg w 15, disp := BitVec.ofNat 10 (wbits v 10 10), lf := BitVec.ofNat 6 (wbits v 26 6) }
  let y : MOp := { base := wreg w 10, disp := BitVec.ofNat 10 (wbits v 0 10), lf := BitVec.ofNat 6 (wbits v 20 6) }
  let n := wbits w 3 7
  let pp := packedOp x && packedOp y && n == 0
  let ap := accOp x && packedOp y && n == 0
  if wbits w 0 3 ≠ 0 then none
  else match wbits w 20 6 with
  | 0x01 => ifOk pp (.dadd c x y)
  | 0x02 => ifOk pp (.dsub c x y)
  | 0x03 => ifOk pp (.dmul c x y)
  | 0x04 => ifOk pp (.ddiv c x y)
  | 0x05 => ifOk pp (.dmod c x y)
  | 0x06 => ifOk pp (.dcpy c x y)
  | 0x07 => ifOk pp (.dcmp c x y)
  | 0x08 => ifOk (packedOp x && packedOp y && n != 64) (.dshf c x y (BitVec.ofNat 7 n))
  | 0x09 => ifOk (packedOp x && regOp y && y.base == 0 && n == 0) (.dtst c x)
  | 0x0A => ifOk (packedOp x && zonedOp y && n == 0) (.packz c x y)
  | 0x0B => ifOk (zonedOp x && packedOp y && n == 0) (.unpkz c x y)
  | 0x0C => ifOk (regOp x && packedOp y && n == 0) (.cvpb c x.base y)
  | 0x0D => ifOk (packedOp x && regOp y && n == 0) (.cvbp c x y.base)
  | 0x10 => ifOk ap (.dlda c (accOf x) y)
  | 0x11 => ifOk (packedOp x && accOp y && n == 0) (.dsta c x (accOf y))
  | 0x12 => ifOk ap (.dada c (accOf x) y)
  | 0x13 => ifOk ap (.dsba c (accOf x) y)
  | 0x14 => ifOk ap (.dmla c (accOf x) y)
  | 0x15 => ifOk ap (.dcpa c (accOf x) y)
  | 0x16 => ifOk (accOp x && accOp y && n == 0) (.dadr c (accOf x) (accOf y))
  | _ => none

/-! ## The opcode map -/

/-- The instruction that one or two words encode on core `c`, if the opcode map defines it (R177 to R196). The register
rules of R161 and of item 1 of R174 are not part of the encoding; the instruction's own meaning applies them. -/
def porDecode (c : CoreId) (w v : BitVec 32) : Option Instr :=
  let d := wreg w 21
  let a := wreg w 16
  let imm : BitVec 16 := w.setWidth 16
  match major w with
  | 0x01 => decodeInt c w
  | 0x02 => decodeMulDiv c w
  | 0x03 => decodeFp c w
  | 0x04 => some (.addi c d a imm)
  | 0x05 => some (.andi c d a imm)
  | 0x06 => some (.ori c d a imm)
  | 0x07 => some (.xori c d a imm)
  | 0x08 => ifZero a.val (.lui c d imm)
  | 0x09 => ifZero d.val (.cmpi c a imm)
  | 0x0A => ifZero d.val (.cmpui c a imm)
  | 0x10 => some (.ldb c d a imm)
  | 0x11 => some (.ldh c d a imm)
  | 0x12 => some (.ldw c d a imm)
  | 0x13 => some (.ldd c d a imm)
  | 0x14 => some (.ldbs c d a imm)
  | 0x15 => some (.ldhs c d a imm)
  | 0x16 => some (.ldws c d a imm)
  | 0x17 => ifZero (d.val / 2) (.pref c (d.val % 2 == 1) a imm)
  | 0x18 => some (.stb c d a imm)
  | 0x19 => some (.sth c d a imm)
  | 0x1A => some (.stw c d a imm)
  | 0x1B => some (.std c d a imm)
  | 0x1C => some (.fldd c d a imm)
  | 0x1D => some (.fstd c d a imm)
  | 0x1E => some (.flds c d a imm)
  | 0x1F => some (.fsts c d a imm)
  | 0x20 => some (.bc c (BitVec.ofNat 4 (wbits w 22 4)) (w.setWidth 22))
  | 0x21 => some (.jal c d (w.setWidth 21))
  | 0x22 => some (.jalr c d a imm)
  | 0x23 => decodeMulti c w
  | 0x24 => decodeString c w
  | 0x25 => some (.svlk c d a imm none)
  | 0x28 => decodeSystem c w
  | 0x29 => decodePrivop c w
  | 0x2A => decodeLedger c w
  | 0x2B => decodeAsync c w
  | 0x3E => decodeLong c w v
  | _ => none

end Sys2Proof
end

