-- ==== Sys2Proof/Machine/Multi.lean ====
section
/-! DEFINITION. The interruptible multi-register instructions STM, LDM, SVLK and RSLK (R103 to R106, R192, R416). -/

namespace Sys2Proof.Machine

/-- Sets PART and PROG to a number of completed positions (R103): PART is 1 once a register has moved. -/
def State.progress (s : State) (c : CoreId) (b : BankId) (k : Nat) : State :=
  s.modBank c b fun x => x.setProgress (decide (0 < k)) k

/-- PART and PROG cleared at completion (R103). -/
def State.noProgress (s : State) (c : CoreId) (b : BankId) : State := s.modBank c b fun x => x.setProgress false 0

/-- The position at which an execution starts (R103). -/
def startPos (x : Bank) : Nat := if x.part then x.prog else 0

/-- Whether the `n` bytes from `a` wrap past the top of the 64-bit address space (R416). -/
def wraps (a n : Nat) : Bool := decide (0 < n) && decide (2 ^ 64 < a + n)

/-- The checked part that holds offset `off` of an operand, with the offset within it. -/
def physAt : List (Phys × Nat) → Nat → Option (Phys × Nat)
  | [], _ => none
  | (p, n) :: t, off => if off < n then some (p.shift off, n - off) else physAt t (off - n)

/-- Eight bytes stored by bank `b` at a checked address. -/
def store8 (s : State) (c : CoreId) (b : BankId) (p : Phys) (v : Word) : State := storePhys s c b p (leBytes 8 v.toNat)

/-- Eight bytes stored by bank `b` at a checked address, and the append pointers moved past them (R217). -/
def append8 (s : State) (c : CoreId) (b : BankId) (p : Phys) (v : Word) : State :=
  store8 (appendAdvance s (s.bank c b).initiator p.pa 8) c b p v

/-- Eight bytes read at a checked address. -/
def load8 (s : State) (c : CoreId) (p : Phys) : Word × State :=
  let r := readPart s c p 8
  (BitVec.ofNat 64 (leNat r.1), r.2)

/-- Positions of STM and LDM in the order in which they are taken, from position `from_` on: ascending, but LDM passes the
position of its base and takes it last (R105). -/
def multiOrder (n from_ : Nat) (last : Option Nat) : List Nat :=
  let up := (List.range n).drop from_
  match last with
  | some p => (up.filter fun k => k != p) ++ [p]
  | none => up

/-- The first position of an execution that started at position `p0` that lies in the 4 KiB part of position `k`; a base that
is taken again after the others is a part of its own (R105, R224). -/
def partStart (base n p0 k : Nat) : Nat :=
  (((List.range n).drop p0).find? fun i => (base + 8 * i) / 4096 == (base + 8 * k) / 4096).getD k

/-- The bytes of an operand part that starts at `va`, for an operand that ends before `fin`. -/
def partLen (va fin : Nat) : Nat := min (fin - va) (4096 - va % 4096)

/-- PART and PROG as STM and LDM leave them (R103): nothing is recorded before a register has moved. -/
def State.multiProgress (s : State) (c : CoreId) (b : BankId) (moved : Bool) (k : Nat) : State :=
  s.modBank c b fun x => if moved then x.setProgress true k else x.setProgress false 0

/-- PROG before a position is taken: its number, or the count of positions once only the base is left (R103, R105; log 64). -/
def multiProg (n : Nat) (last : Option Nat) (k : Nat) : Nat := if last = some k then n else k

/-- The checked part in which position `k` lies, as its 4 KiB block: one that this execution has reached already, or one
that is checked now from its first position on (R105). -/
def multiPart (s : State) (c : CoreId) (b : BankId) (kind : Kind) (base n p0 k : Nat) (pages : List (Nat × Phys)) :
    Except ChkFail Phys :=
  match pages.lookup ((base + 8 * k) / 4096) with
  | some p => .ok p
  | none =>
    let va := (base + 8 * partStart base n p0 k) % 2 ^ 64
    (checkPart s c b kind va (partLen va (va + 8 * (n - partStart base n p0 k)))).map fun p =>
      { p with pa := p.pa - va % 4096, va := va - va % 4096 }

/-- Moves registers position by position. `moved` tells whether one has moved, `left` counts the checkpoints until a caller
stop is taken, `pages` holds the checked 4 KiB parts. -/
def multiLoop (c : CoreId) (b : BankId) (a : Reg) (base n p0 : Nat) (st : Bool) (last : Option Nat) :
    List Nat → Bool → Option Nat → List (Nat × Phys) → State → IRes
  | [], _, _, _, s => .done (s.noProgress c b)
  | k :: rest, moved, left, pages, s =>
    if left = some 0 then .hold (s.multiProgress c b moved (multiProg n last k))
    else
      let va := (base + 8 * k) % 2 ^ 64
      let r := regOf (a.val + k)
      let kind := if st then Kind.write else Kind.read
      match multiPart s c b kind base n p0 k pages with
      | .error e =>
        let f := partStart base n p0 k
        .trap (s.multiProgress c b moved f) (e.code kind) (BitVec.ofNat 64 ((base + 8 * f) % 2 ^ 64))
      | .ok p =>
        let here : Phys := p.shift (va % 4096)
        let s1 := markUse s c p.tlb
        let s2 :=
          if st then append8 s1 c b here (s1.g c b r)
          else let v := load8 s1 c here; v.2.setG c b r v.1
        multiLoop c b a base n p0 st last rest true (left.map (· - 1)) (((base + 8 * k) / 4096, p) :: pages) s2

/-- STM and LDM (R105). -/
def multiBody (c : CoreId) (a bb x : Reg) (st : Bool) (stop : Option Nat) (b : BankId) (s : State) : IRes :=
  let base := (s.g c b x).toNat
  let n := (bb.val + 32 - a.val) % 32 + 1
  let p0 := startPos (s.bank c b)
  let first := (base + 8 * p0) % 2 ^ 64
  if base % 8 ≠ 0 then .trap s 0x10 (BitVec.ofNat 64 base)
  else if wraps first (8 * (n - p0)) then .trap s 0x03 (BitVec.ofNat 64 first)
  else
    let xp := (x.val + 32 - a.val) % 32
    let last := if !st ∧ xp < n then some xp else none
    multiLoop c b a base n p0 st last (multiOrder n p0 last) (s.bank c b).part stop [] s

/-- STM Ga, Gb, (Gx) (R105). -/
def execStm (c : CoreId) (a b x : Reg) (stop : Option Nat) (s : State) : Host.Outcome State Fault Refusal :=
  .next (runInstr c 4 (fun _ => true) false true (multiBody c a b x true stop) s)

/-- LDM Ga, Gb, (Gx) (R105). -/
def execLdm (c : CoreId) (a b x : Reg) (stop : Option Nat) (s : State) : Host.Outcome State Fault Refusal :=
  .next (runInstr c 4 (fun _ => true) false true (multiBody c a b x false stop) s)

/-- One position of SVLK, 0 to 63: the register moves if its mask bit is set; answers whether it moved (R106). -/
def svlkPos (c : CoreId) (b : BankId) (mask : Nat) (ps : List (Phys × Nat)) (n : Nat) (s : State) : Bool × State :=
  if n < 32 then
    if n ≠ 0 ∧ bitAt mask n then
      match physAt ps (8 * n) with
      | some (p, _) => (true, append8 s c b p (s.g c b (regOf n)))
      | none => (false, s)
    else (false, s)
  else if bitAt mask n then
    let s1 := lazyF s c b
    match physAt ps (0x100 + 8 * (n - 32)) with
    | some (p, _) => (true, append8 s1 c b p (s1.f c (regOf (n - 32))))
    | none => (false, s1)
  else (false, s)

/-- One position of RSLK, 0 to 63; the base and the mask register wait for position 64 (R106). -/
def rslkPos (c : CoreId) (b : BankId) (bb m : Reg) (mask : Nat) (ps : List (Phys × Nat)) (n : Nat) (s : State) :
    Bool × State :=
  if n < 32 then
    if n ≠ 0 ∧ bitAt mask n ∧ n ≠ bb.val ∧ n ≠ m.val then
      match physAt ps (8 * n) with
      | some (p, _) => let v := load8 s c p; (true, v.2.setG c b (regOf n) v.1)
      | none => (false, s)
    else (false, s)
  else if bitAt mask n then
    let s1 := lazyF s c b
    match physAt ps (0x100 + 8 * (n - 32)) with
    | some (p, _) => let v := load8 s1 c p; (true, v.2.setFr c (regOf (n - 32)) v.1)
    | none => (false, s1)
  else (false, s)

/-- Takes the positions up to 63, then the last one. -/
def linkLoop (c : CoreId) (b : BankId) (pos : Nat → State → Bool × State) (last : State → IRes) :
    List Nat → Option Nat → State → IRes
  | [], left, s => if left = some 0 then .hold (s.progress c b 64) else last s
  | n :: t, left, s =>
    if left = some 0 then .hold (s.progress c b n)
    else
      let r := pos n s
      linkLoop c b pos last t (if r.1 then left.map (· - 1) else left) r.2

/-- The common start of SVLK and RSLK: alignment, wrap, the pre-check of the whole area, then the positions (R106). -/
def linkBody (c : CoreId) (bb : Reg) (kind : Kind) (stop : Option Nat)
    (pos : List (Phys × Nat) → Nat → State → Bool × State) (last : List (Phys × Nat) → State → IRes)
    (b : BankId) (s : State) : IRes :=
  let base := (s.g c b bb).toNat
  if base % 64 ≠ 0 then .trap s 0x10 (BitVec.ofNat 64 base)
  else if wraps base 512 then .trap s 0x03 (BitVec.ofNat 64 base)
  else match checkRange s c b kind base 512 with
    | .error r => .trap s r.cause (BitVec.ofNat 64 r.bad)
    | .ok ps =>
      let s1 := markParts s c ps
      linkLoop c b (pos ps) (last ps) ((List.range 64).drop (startPos (s.bank c b))) stop s1

/-- SVLK Gb, Gm, target (R106, R192). -/
def execSvlk (c : CoreId) (bb m : Reg) (imm : BitVec 16) (stop : Option Nat) (s : State) :
    Host.Outcome State Fault Refusal :=
  .next (runInstr c 4 (fun _ => true) false true (fun b s =>
    let mask := (s.g c b m).toNat
    let pc := (s.bank c b).pc
    linkBody c bb .write stop (fun ps n s => svlkPos c b mask ps n s)
      (fun ps s =>
        let s1 := match physAt ps 0 with
          | some (p, _) => append8 s c b p (pc + 4)
          | none => s
        .jump (s1.noProgress c b) (pc + imm.signExtend 64 <<< 2)) b s) s)

/-- RSLK Gb, Gm (R106). -/
def execRslk (c : CoreId) (bb m : Reg) (stop : Option Nat) (s : State) : Host.Outcome State Fault Refusal :=
  .next (runInstr c 4 (fun _ => true) false true (fun b s =>
    let mask := (s.g c b m).toNat
    let one (ps : List (Phys × Nat)) (r : Reg) (s : State) : State :=
      if r.val ≠ 0 ∧ bitAt mask r.val then
        match physAt ps (8 * r.val) with
        | some (p, _) => let v := load8 s c p; v.2.setG c b r v.1
        | none => s
      else s
    linkBody c bb .read stop (fun ps n s => rslkPos c b bb m mask ps n s)
      (fun ps s =>
        let l := match physAt ps 0 with
          | some (p, _) => load8 s c p
          | none => (0, s)
        .jump ((one ps bb (one ps m l.2)).noProgress c b) l.1) b s) s)

end Sys2Proof.Machine
end

