-- ==== Sys2Proof/Machine/Decimal.lean ====
section
/-! DEFINITION. Packed and zoned decimal operands (R132 to R135), how a decimal instruction executes (R136 to R140),
and the decimal instructions of the long format (R141 to R146, R184 to R186). -/

namespace Sys2Proof.Machine

/-! ## Operand formats -/

/-- A decimal value with the sign as read, so that a negative zero is kept apart. -/
structure Dec where
  neg : Bool
  mag : Nat
  deriving DecidableEq, Repr

/-- The integer that a decimal operand stands for. -/
def Dec.val (d : Dec) : Int := if d.neg then -(d.mag : Int) else d.mag

/-- The sign of a packed operand: 0xB and 0xD negative, 0xA, 0xC, 0xE and 0xF positive (R132). -/
def packedSign (n : Nat) : Option Bool :=
  if n = 0xB ∨ n = 0xD then some true else if 0xA ≤ n then some false else none

/-- The sign of a zoned operand: the zone of its last byte (R134). -/
def zonedSign (z : Nat) : Option Bool :=
  if z = 0x7 ∨ z = 0xB ∨ z = 0xD then some true
  else if z = 0x3 ∨ z = 0xA ∨ z = 0xC ∨ z = 0xE ∨ z = 0xF then some false else none

/-- Reads a packed operand; none if a digit or the sign is invalid (R132). -/
def readPacked (bs : List Byte) : Option Dec :=
  let ns := nibbles bs
  match digitsVal ns.dropLast, packedSign (ns.getLastD 0) with
  | some m, some n => some { neg := n, mag := m }
  | _, _ => none

/-- Reads a zoned operand (R134). -/
def readZoned (bs : List Byte) : Option Dec :=
  match digitsVal (bs.map fun b => b.toNat % 16), zonedSign ((bs.getLastD 0).toNat / 16) with
  | some m, some n => some { neg := n, mag := m }
  | _, _ => none

/-- A packed result of `len` bytes with the preferred sign; stored digits all zero take 0xC unless `keepz`
(R133). -/
def writePacked (len : Nat) (keepz : Bool) (d : Dec) : List Byte :=
  let m := d.mag % 10 ^ (2 * len - 1)
  let neg := d.neg && (m ≠ 0 || keepz)
  packNibbles (digitsOf (2 * len - 1) m ++ [if neg then 0xD else 0xC])

/-- A zoned result of `len` bytes under DCTL.ZONE and ZSIGN (R144). -/
def writeZoned (len : Nat) (zone zsign : Bool) (d : Dec) : List Byte :=
  let m := d.mag % 10 ^ len
  let z := if zone then 0x3 else 0xF
  let neg := d.neg && m ≠ 0
  let last := if zsign then z
    else if zone then (if neg then 0x7 else 0x3) else (if neg then 0xD else 0xC)
  let ds := digitsOf len m
  (ds.dropLast.map fun x => byte (16 * z + x)) ++ [byte (16 * last + ds.getLastD 0)]

/-- The decimal value of an integer. -/
def Dec.ofInt (x : Int) : Dec := { neg := decide (x < 0), mag := x.natAbs }

/-! ## DCTL -/

/-- DCTL.DRND. -/
def dRnd (w : Word) : Nat := Bits.get w 16 2
/-- DCTL.ZSIGN. -/
def dZsign (w : Word) : Bool := w.getLsbD 10
/-- DCTL.ZONE. -/
def dZone (w : Word) : Bool := w.getLsbD 9
/-- DCTL.KEEPZ. -/
def dKeepz (w : Word) : Bool := w.getLsbD 8
/-- DCTL.DOT. -/
def dDot (w : Word) : Bool := w.getLsbD 1

/-- The magnitude divided by 10^k and rounded as DRND selects (R143). -/
def roundDigits (drnd m k : Nat) : Nat :=
  let p := 10 ^ k
  let q := m / p
  let r := m % p
  let up := match drnd with
    | 0 => false
    | 1 => decide (p ≤ 2 * r)
    | 2 => decide (p < 2 * r) || (2 * r == p && q % 2 == 1)
    | _ => decide (r ≠ 0)
  if up then q + 1 else q

/-! ## The two phases of a decimal instruction -/

/-- How an operand is accessed (R136): a source, the destination, or both. -/
inductive Use where
  | src
  | dst
  | both
  deriving DecidableEq, Repr

/-- The order in which the checks of R223 are made. -/
def ChkFail.rank : ChkFail → Nat
  | .miss => 2 | .multi => 3 | .perm => 4 | .accessed => 5 | .dirty => 6 | .mpu => 8 | .key => 9 | .absent => 10 | .poison => 11

/-- Checks a part for the access it receives; for both, the first failing check of the two (R136, R223). -/
def checkUse (s : State) (c : CoreId) (b : BankId) (u : Use) (va len : Nat) : Except Nat Phys :=
  let rd := checkPart s c b .read va len
  let wr := checkPart s c b .write va len
  match u with
  | .src => rd.mapError (ChkFail.code .read)
  | .dst => wr.mapError (ChkFail.code .write)
  | .both =>
    match rd, wr with
    | .ok _, .ok p => .ok p
    | .error e, .ok _ => .error (e.code .read)
    | .ok _, .error e => .error (e.code .write)
    | .error e, .error g => if g.rank < e.rank then .error (g.code .write) else .error (e.code .read)

/-- Checks the parts of an operand in ascending order. -/
def checkUseParts (s : State) (c : CoreId) (b : BankId) (u : Use) :
    List (Nat × Nat) → Except Refused (List (Phys × Nat))
  | [] => .ok []
  | p :: t =>
    match checkUse s c b u p.1 p.2 with
    | .error e => .error { cause := e, bad := p.1 }
    | .ok x =>
      match checkUseParts s c b u t with
      | .error e => .error e
      | .ok l => .ok ((x, p.2) :: l)

/-- A memory operand of a long instruction with its use. -/
structure DOp where
  addr : Nat
  len : Nat
  use : Use
  zoned : Bool
  deriving DecidableEq, Repr

/-- A long-format operand: G(B) + D, of length field + 1 (R181, R184, R185). -/
def dop (s : State) (c : CoreId) (b : BankId) (m : MOp) (use : Use) (zoned : Bool) : DOp :=
  { addr := (s.g c b m.base + m.disp.setWidth 64).toNat, len := m.lf.toNat + 1, use := use, zoned := zoned }

/-- Checks every operand: wraps first (R416), then the parts of operand 1, then of operand 2 (R136). -/
def checkOps (s : State) (c : CoreId) (b : BankId) (ops : List DOp) : Except Refused (List (List (Phys × Nat))) :=
  match ops.find? fun o => wraps o.addr o.len with
  | some o => .error { cause := 0x03, bad := o.addr }
  | none =>
    ops.foldl (fun acc o =>
      match acc with
      | .error e => .error e
      | .ok l => (checkUseParts s c b o.use (partsOf o.addr o.len)).map fun ps => l ++ [ps]) (.ok [])

/-- The value of a source operand through its checked parts. -/
def readDop (s : State) (c : CoreId) (o : DOp) (ps : List (Phys × Nat)) : Option Dec × State :=
  let r := readParts s c ps
  (if o.zoned then readZoned r.1 else readPacked r.1, r.2)

/-- The accumulator as a source (R135). -/
def readDa (s : State) (c : CoreId) (n : Fin 8) : Option Dec := readPacked (s.da c n)

/-- Ends a decimal instruction: CC, DOVF, and the DOVF trap when DOT is set (R139, R140). -/
def decEnd (c : CoreId) (b : BankId) (cc : Nat) (ovf : Bool) (s : State) : IRes :=
  let s1 := s.setCC c b cc
  if ovf then
    let s2 := s1.modBank c b fun x => x.sticky .dctl 1
    if dDot (s2.bank c b).dctl then .trap s2 0x22 0 else .done s2
  else .done s1

/-- CC of an exact decimal result (R140). -/
def ccDec (ovf : Bool) (v : Dec) : Nat := ccDecimal ovf (v.mag == 0) v.neg

/-- Stores a packed result into a checked operand and ends (R133, R138, R139). -/
def packEnd (c : CoreId) (b : BankId) (o : DOp) (ps : List (Phys × Nat)) (keepz : Bool) (v : Dec) (s : State) : IRes :=
  let ovf := decide (10 ^ (2 * o.len - 1) ≤ v.mag)
  decEnd c b (ccDec ovf v) ovf (storeParts s c b ps (writePacked o.len keepz v))

/-- Writes an accumulator and ends (R135). -/
def daEnd (c : CoreId) (b : BankId) (n : Fin 8) (v : Dec) (s : State) : IRes :=
  let ovf := decide (10 ^ 63 ≤ v.mag)
  decEnd c b (ccDec ovf v) ovf (s.setDa c n (writePacked 32 false v))

/-- What a two-operand arithmetic instruction does with its values: a result, or a divide by zero. -/
inductive DRes where
  | value (v : Dec)
  | div0
  deriving DecidableEq, Repr

/-- The quotient of DDIV (R142). -/
def ddivRes (x y : Dec) : DRes :=
  if y.mag = 0 then .div0 else .value { neg := x.neg != y.neg, mag := x.mag / y.mag }

/-- The remainder of DMOD (R142). -/
def dmodRes (x y : Dec) : DRes :=
  if y.mag = 0 then .div0 else .value { neg := x.neg, mag := x.mag % y.mag }

/-- A long operation on two packed memory operands, the first of which is source and destination. -/
def decBody (c : CoreId) (ma mb : MOp) (f : Dec → Dec → DRes) (b : BankId) (s : State) : IRes :=
  let oa := dop s c b ma .both false
  let ob := dop s c b mb .src false
  match checkOps s c b [oa, ob] with
  | .error r => .trap s r.cause (BitVec.ofNat 64 r.bad)
  | .ok pss =>
    let pa := pss.getD 0 []
    let ra := readDop s c oa pa
    let rb := readDop ra.2 c ob (pss.getD 1 [])
    match ra.1, rb.1 with
    | none, _ => .trap rb.2 0x20 (BitVec.ofNat 64 oa.addr)
    | _, none => .trap rb.2 0x20 (BitVec.ofNat 64 ob.addr)
    | some x, some y =>
      match f x y with
      | .div0 => .trap rb.2 0x21 (BitVec.ofNat 64 ob.addr)
      | .value v => packEnd c b oa pa false v rb.2

/-- A long operation that stores into operand 1 a function of operand 2. -/
def decCopyBody (c : CoreId) (ma mb : MOp) (zb : Bool) (f : Word → Dec → Dec) (keep : Word → Dec → Bool) (b : BankId)
    (s : State) : IRes :=
  let oa := dop s c b ma .dst false
  let ob := dop s c b mb .src zb
  match checkOps s c b [oa, ob] with
  | .error r => .trap s r.cause (BitVec.ofNat 64 r.bad)
  | .ok pss =>
    let rb := readDop s c ob (pss.getD 1 [])
    match rb.1 with
    | none => .trap rb.2 0x20 (BitVec.ofNat 64 ob.addr)
    | some y =>
      let ctl := (s.bank c b).dctl
      packEnd c b oa (pss.getD 0 []) (keep ctl y) (f ctl y) rb.2

/-- Legal length fields of packed and zoned operands (R185). -/
def legalP (m : MOp) : Bool := m.lf.toNat ≤ 31
/-- Legal length field of a zoned operand (R185). -/
def legalZ (m : MOp) : Bool := m.lf.toNat ≤ 62

/-- Runs a long instruction. -/
def longInstr (c : CoreId) (legal : Bool) (body : BankId → State → IRes) (s : State) : State :=
  runInstr c 8 (fun _ => legal) false false body s

/-- DADD (R141). -/
def execDadd (c : CoreId) (a b : MOp) (s : State) : Host.Outcome State Fault Refusal :=
  .next (longInstr c (legalP a && legalP b) (decBody c a b fun x y => .value (.ofInt (x.val + y.val))) s)
/-- DSUB (R141). -/
def execDsub (c : CoreId) (a b : MOp) (s : State) : Host.Outcome State Fault Refusal :=
  .next (longInstr c (legalP a && legalP b) (decBody c a b fun x y => .value (.ofInt (x.val - y.val))) s)
/-- DMUL (R141): the exact product. -/
def execDmul (c : CoreId) (a b : MOp) (s : State) : Host.Outcome State Fault Refusal :=
  .next (longInstr c (legalP a && legalP b) (decBody c a b fun x y => .value (.ofInt (x.val * y.val))) s)
/-- DDIV (R142). -/
def execDdiv (c : CoreId) (a b : MOp) (s : State) : Host.Outcome State Fault Refusal :=
  .next (longInstr c (legalP a && legalP b) (decBody c a b ddivRes) s)
/-- DMOD (R142). -/
def execDmod (c : CoreId) (a b : MOp) (s : State) : Host.Outcome State Fault Refusal :=
  .next (longInstr c (legalP a && legalP b) (decBody c a b dmodRes) s)
/-- DCPY (R141): KEEPZ keeps a negative zero. -/
def execDcpy (c : CoreId) (a b : MOp) (s : State) : Host.Outcome State Fault Refusal :=
  .next (longInstr c (legalP a && legalP b)
    (decCopyBody c a b false (fun _ y => y) fun w y => dKeepz w && y.neg && y.mag == 0) s)

/-- DCMP (R140): compares and stores nothing. -/
def execDcmp (c : CoreId) (a b : MOp) (s : State) : Host.Outcome State Fault Refusal :=
  .next (longInstr c (legalP a && legalP b) (fun k s =>
    let oa := dop s c k a .src false
    let ob := dop s c k b .src false
    match checkOps s c k [oa, ob] with
    | .error r => .trap s r.cause (BitVec.ofNat 64 r.bad)
    | .ok pss =>
      let ra := readDop s c oa (pss.getD 0 [])
      let rb := readDop ra.2 c ob (pss.getD 1 [])
      match ra.1, rb.1 with
      | none, _ => .trap rb.2 0x20 (BitVec.ofNat 64 oa.addr)
      | _, none => .trap rb.2 0x20 (BitVec.ofNat 64 ob.addr)
      | some x, some y => .done (rb.2.setCC c k (ccInt x.val y.val))) s)

/-- DSHF (R143): a := b × 10^n, rounded for negative n; N = −64 is not listed (R184). -/
def execDshf (c : CoreId) (a b : MOp) (n : BitVec 7) (s : State) : Host.Outcome State Fault Refusal :=
  .next (longInstr c (legalP a && legalP b && n ≠ 0x40#7)
    (decCopyBody c a b false (fun w y =>
      if n.toInt < 0 then { y with mag := roundDigits (dRnd w) y.mag (-n.toInt).toNat }
      else { y with mag := y.mag * 10 ^ n.toNat }) fun _ _ => false) s)

/-- DTST (R141): validates and sets CC. -/
def execDtst (c : CoreId) (a : MOp) (s : State) : Host.Outcome State Fault Refusal :=
  .next (longInstr c (legalP a) (fun k s =>
    let oa := dop s c k a .src false
    match checkOps s c k [oa] with
    | .error r => .trap s r.cause (BitVec.ofNat 64 r.bad)
    | .ok pss =>
      let ra := readDop s c oa (pss.getD 0 [])
      match ra.1 with
      | none => .trap ra.2 0x20 (BitVec.ofNat 64 oa.addr)
      | some x => .done (ra.2.setCC c k (ccDec false x))) s)

/-- PACKZ (R144): packed a := zoned z. -/
def execPackz (c : CoreId) (a z : MOp) (s : State) : Host.Outcome State Fault Refusal :=
  .next (longInstr c (legalP a && legalZ z) (decCopyBody c a z true (fun _ y => y) fun _ _ => false) s)

/-- UNPKZ (R144): zoned z := packed a. -/
def execUnpkz (c : CoreId) (z a : MOp) (s : State) : Host.Outcome State Fault Refusal :=
  .next (longInstr c (legalZ z && legalP a) (fun k s =>
    let oz := dop s c k z .dst true
    let oa := dop s c k a .src false
    match checkOps s c k [oz, oa] with
    | .error r => .trap s r.cause (BitVec.ofNat 64 r.bad)
    | .ok pss =>
      let ra := readDop s c oa (pss.getD 1 [])
      match ra.1 with
      | none => .trap ra.2 0x20 (BitVec.ofNat 64 oa.addr)
      | some x =>
        let w := (s.bank c k).dctl
        let ovf := decide (10 ^ oz.len ≤ x.mag)
        decEnd c k (ccDec ovf x) ovf
          (storeParts ra.2 c k (pss.getD 0 []) (writeZoned oz.len (dZone w) (dZsign w) x))) s)

/-- CVPB (R145): Gd := the value of b modulo 2^64. -/
def execCvpb (c : CoreId) (d : Reg) (b : MOp) (s : State) : Host.Outcome State Fault Refusal :=
  .next (longInstr c (legalP b) (fun k s =>
    let ob := dop s c k b .src false
    match checkOps s c k [ob] with
    | .error r => .trap s r.cause (BitVec.ofNat 64 r.bad)
    | .ok pss =>
      let rb := readDop s c ob (pss.getD 0 [])
      match rb.1 with
      | none => .trap rb.2 0x20 (BitVec.ofNat 64 ob.addr)
      | some x =>
        let ovf := decide (x.val < -(2 ^ 63 : Int) ∨ (2 ^ 63 : Int) ≤ x.val)
        decEnd c k (ccDec ovf x) ovf (rb.2.setG c k d (BitVec.ofInt 64 x.val))) s)

/-- CVBP (R145): a := the signed value of Ga. -/
def execCvbp (c : CoreId) (a : MOp) (g : Reg) (s : State) : Host.Outcome State Fault Refusal :=
  .next (longInstr c (legalP a) (fun k s =>
    let oa := dop s c k a .dst false
    match checkOps s c k [oa] with
    | .error r => .trap s r.cause (BitVec.ofNat 64 r.bad)
    | .ok pss => packEnd c k oa (pss.getD 0 []) false (.ofInt (s.g c k g).toInt) s) s)

/-- An operation on DAn and a packed memory operand; `useDa` says that DAn is a source (R135). -/
def daOp (c : CoreId) (n : Fin 8) (b : MOp) (useDa : Bool) (f : Dec → Dec → BankId → State → IRes) (s : State) : State :=
  longInstr c (legalP b) (fun k s0 =>
    let s := lazyD s0 c k
    let ob := dop s c k b .src false
    match checkOps s c k [ob] with
    | .error r => .trap s r.cause (BitVec.ofNat 64 r.bad)
    | .ok pss =>
      let x := if useDa then readDa s c n else some { neg := false, mag := 0 }
      let rb := readDop s c ob (pss.getD 0 [])
      match x, rb.1 with
      | none, _ => .trap rb.2 0x20 0
      | _, none => .trap rb.2 0x20 (BitVec.ofNat 64 ob.addr)
      | some x, some y => f x y k rb.2) s

/-- DLDA (R141): DAn := b. -/
def execDlda (c : CoreId) (n : Fin 8) (b : MOp) (s : State) : Host.Outcome State Fault Refusal :=
  .next (daOp c n b false (fun _ y k s => daEnd c k n y s) s)
/-- DADA (R141). -/
def execDada (c : CoreId) (n : Fin 8) (b : MOp) (s : State) : Host.Outcome State Fault Refusal :=
  .next (daOp c n b true (fun x y k s => daEnd c k n (.ofInt (x.val + y.val)) s) s)
/-- DSBA (R141). -/
def execDsba (c : CoreId) (n : Fin 8) (b : MOp) (s : State) : Host.Outcome State Fault Refusal :=
  .next (daOp c n b true (fun x y k s => daEnd c k n (.ofInt (x.val - y.val)) s) s)
/-- DMLA (R141). -/
def execDmla (c : CoreId) (n : Fin 8) (b : MOp) (s : State) : Host.Outcome State Fault Refusal :=
  .next (daOp c n b true (fun x y k s => daEnd c k n (.ofInt (x.val * y.val)) s) s)
/-- DCPA (R140): compares DAn with b. -/
def execDcpa (c : CoreId) (n : Fin 8) (b : MOp) (s : State) : Host.Outcome State Fault Refusal :=
  .next (daOp c n b true (fun x y k s => .done (s.setCC c k (ccInt x.val y.val))) s)

/-- DSTA (R141): a := DAn. -/
def execDsta (c : CoreId) (a : MOp) (n : Fin 8) (s : State) : Host.Outcome State Fault Refusal :=
  .next (longInstr c (legalP a) (fun k s0 =>
    let s := lazyD s0 c k
    let oa := dop s c k a .dst false
    match checkOps s c k [oa] with
    | .error r => .trap s r.cause (BitVec.ofNat 64 r.bad)
    | .ok pss =>
      match readDa s c n with
      | none => .trap s 0x20 0
      | some x => packEnd c k oa (pss.getD 0 []) false x s) s)

/-- DADR (R141): DAn := DAn + DAm. -/
def execDadr (c : CoreId) (n m : Fin 8) (s : State) : Host.Outcome State Fault Refusal :=
  .next (longInstr c true (fun k s0 =>
    let s := lazyD s0 c k
    match readDa s c n, readDa s c m with
    | some x, some y => daEnd c k n (.ofInt (x.val + y.val)) s
    | _, _ => .trap s 0x20 0) s)

end Sys2Proof.Machine
end

