-- ==== Sys2Proof/Machine/Strings.lean ====
section
/-! DEFINITION. The string, translate, scan and conversion instructions (R161 to R170, R416). -/

namespace Sys2Proof.Machine

/-- What a string instruction walks: destination, source and second source addresses, the bytes that remain, the
length of a descending run, whether a byte has been processed, and the result byte of SSCAN. -/
structure Walk where
  d : Nat
  s : Nat
  s2 : Nat
  n : Nat
  total : Nat
  moved : Bool
  f : Nat
  deriving DecidableEq, Repr

/-- What one step answers: it goes on, it completes the instruction with a condition code, or a check failed. -/
inductive SOut where
  | cont (w : Walk) (s : State)
  | fin (w : Walk) (cc : Nat) (s : State)
  | fail (r : Refused)
  deriving DecidableEq, Repr

/-- Bytes left in the 4 KiB block of an address. -/
def pageLeft (a : Nat) : Nat := 4096 - a % 4096

/-- An address that advanced, modulo 2^64. -/
def wrap64 (a : Nat) : Nat := a % 2 ^ 64

/-- Runs steps until the length is used up, the step completes the instruction, or a stop or a trap comes. `save`
writes the registers at a checkpoint; `complete` writes them at completion (R161, R163). -/
def strLoop (c : CoreId) (b : BankId) (prog : Nat) (step : Walk → State → SOut) (save complete : Walk → State → State)
    (endCc : Option Nat) : Nat → Option Nat → Walk → State → IRes
  | 0, _, _, s => .done s
  | fuel + 1, left, w, s =>
    let finish (cc : Option Nat) (w : Walk) (s : State) : IRes :=
      let s1 := (complete w s).noProgress c b
      .done (match cc with | some v => s1.setCC c b v | none => s1)
    let checkpoint (s : State) : State :=
      if w.moved then (save w s).modBank c b fun x => x.setProgress true prog else s
    if w.n = 0 then finish endCc w s
    else if left = some 0 then .hold (checkpoint s)
    else match step w s with
      | .fail r => .trap (checkpoint s) r.cause (BitVec.ofNat 64 r.bad)
      | .fin w' cc s' => finish (some cc) w' s'
      | .cont w' s' => strLoop c b prog step save complete endCc fuel (left.map (· - 1)) w' s'

/-- Byte `i` of a checked operand. -/
def byteAt (s : State) (c : CoreId) (ps : List (Phys × Nat)) (i : Nat) : Byte × State :=
  match physAt ps i with
  | some (p, _) => let r := readPart s c p 1; (r.1.headD 0, r.2)
  | none => (0, s)

/-- Stores byte `i` of a checked operand. -/
def putByteAt (s : State) (c : CoreId) (b : BankId) (ps : List (Phys × Nat)) (i : Nat) (v : Byte) : State :=
  match physAt ps i with
  | some (p, _) => storePhys s c b p [v]
  | none => s

/-- Checks the operands of a step in their order (R162): reads, then the destination. -/
def checkStep (s : State) (c : CoreId) (b : BankId) (reads : List (Nat × Nat)) (dst : Nat × Nat) :
    Except Refused (List (List (Phys × Nat)) × List (Phys × Nat)) :=
  let rs : Except Refused (List (List (Phys × Nat))) := reads.foldl (fun acc p =>
    match acc with
    | .error e => .error e
    | .ok l => (checkRange s c b .read p.1 p.2).map fun ps => l ++ [ps]) (.ok [])
  match rs with
  | .error e => .error e
  | .ok l => (checkRange s c b .write dst.1 dst.2).map fun d => (l, d)

/-- Marks the TLB entries that a step's accesses used. -/
def markStep (s : State) (c : CoreId) (b : BankId) (rs : List (List (Phys × Nat))) (d : List (Phys × Nat)) : State :=
  let s1 := rs.foldl (fun s ps => markParts s c ps) s
  d.foldl (fun s p => appendAdvance (markUse s c p.1.tlb) (s.bank c b).initiator p.1.pa p.2) s1

/-- Copies bytes `i`, `i + 1`, … of the source, one at a time in ascending order, each changed by `f`. -/
def copyUp (c : CoreId) (b : BankId) (src dst : List (Phys × Nat)) (f : Byte → State → Byte × State) : Nat → Nat → State → State
  | 0, _, s => s
  | n + 1, i, s =>
    let v := byteAt s c src i
    let u := f v.1 v.2
    copyUp c b src dst f n (i + 1) (putByteAt u.2 c b dst i u.1)

/-- Copies bytes `i - 1`, …, 0 of the source in descending order. -/
def copyDown (c : CoreId) (b : BankId) (src dst : List (Phys × Nat)) : Nat → State → State
  | 0, s => s
  | i + 1, s => let v := byteAt s c src i; copyDown c b src dst i (putByteAt v.2 c b dst i v.1)

/-- The operand that wraps first, as UALIGN (R416). -/
def wrapFault (ops : List (Nat × Nat)) : Option Refused :=
  (ops.find? fun p => wraps p.1 p.2).map fun p => { cause := 0x03, bad := p.1 }

/-- The length of a string instruction: Gn[31:0] (R161). -/
def strLen (s : State) (c : CoreId) (b : BankId) (n : Reg) : Nat := (s.g c b n).toNat % 2 ^ 32

/-- A 64-bit register value from a number. -/
def w64 (n : Nat) : Word := BitVec.ofNat 64 n

/-- The frame of a string instruction: R161's register rules, then the body. -/
def strInstr (c : CoreId) (legal : Bool) (body : BankId → State → IRes) (s : State) : State :=
  runInstr c 4 (fun _ => legal) false true body s

/-- One ascending step of `size` bytes that copies through `f`. -/
def moveStep (c : CoreId) (b : BankId) (size : Nat) (tab : Option (Nat × Nat))
    (f : List (Phys × Nat) → Byte → State → Byte × State) (w : Walk) (s : State) : SOut :=
  let m := min (min size w.n) (min (pageLeft w.s) (pageLeft w.d))
  match checkStep s c b ((w.s, m) :: tab.toList) (w.d, m) with
  | .error r => .fail r
  | .ok (rs, ds) =>
    let s1 := markStep s c b rs ds
    let s2 := copyUp c b (rs.getD 0 []) ds (f (rs.getD 1 [])) m 0 s1
    .cont { w with d := wrap64 (w.d + m), s := wrap64 (w.s + m), n := w.n - m, moved := true } s2

/-- Writes Gd, Gs and Gn of a move at a checkpoint or at completion. -/
def saveMove (c : CoreId) (b : BankId) (d sr n : Reg) (w : Walk) (s : State) : State :=
  ((s.setG c b d (w64 w.d)).setG c b sr (w64 w.s)).setG c b n (w64 w.n)

/-- The walk of a move as the registers stand. -/
def walkOf (s : State) (c : CoreId) (b : BankId) (d sr n : Reg) : Walk :=
  { d := (s.g c b d).toNat, s := (s.g c b sr).toNat, s2 := 0, n := strLen s c b n, total := 0,
    moved := false, f := 0 }

/-- SMOV and ascending SMOVX (R165). -/
def smovBody (c : CoreId) (d sr n : Reg) (stop : Option Nat) (b : BankId) (s : State) : IRes :=
  let w := walkOf s c b d sr n
  match if w.n = 0 then none else wrapFault [(w.s, w.n), (w.d, w.n)] with
  | some r => .trap s r.cause (w64 r.bad)
  | none =>
    strLoop c b 0 (moveStep c b 64 none fun _ v s => (v, s)) (saveMove c b d sr n) (saveMove c b d sr n) none
      (w.n + 1) stop w s

/-- SMOV Gd, Gs, Gn (R165). -/
def execSmov (c : CoreId) (d s_ n : Reg) (stop : Option Nat) (s : State) : Host.Outcome State Fault Refusal :=
  .next (strInstr c (n != d && n != s_) (smovBody c d s_ n stop) s)

/-- One descending step of SMOVX: it ends at a 64-byte boundary counted from the top of the run, or at a 4 KiB boundary (R162,
R166). -/
def moveDownStep (c : CoreId) (b : BankId) (w : Walk) (s : State) : SOut :=
  let top (a : Nat) : Nat := (a + w.n - 1) % 4096 + 1
  let m := min (min (64 - (w.total - w.n) % 64) w.n) (min (top w.s) (top w.d))
  let o := w.n - m
  match checkStep s c b [(w.s + o, m)] (w.d + o, m) with
  | .error r => .fail r
  | .ok (rs, ds) =>
    let s1 := markStep s c b rs ds
    .cont { w with n := o, moved := true } (copyDown c b (rs.getD 0 []) ds m s1)

/-- SMOVX (R166): it chooses its direction when PART is 0, and keeps the run's length in Gn[63:32] when descending. -/
def smovxBody (c : CoreId) (d sr n : Reg) (stop : Option Nat) (b : BankId) (s : State) : IRes :=
  let w0 := walkOf s c b d sr n
  let x := s.bank c b
  let down := if x.part then x.prog % 2 == 1 else decide (w0.s < w0.d ∧ w0.d < w0.s + w0.n)
  if down then
    let w := { w0 with total := if x.part then (s.g c b n).toNat / 2 ^ 32 else w0.n }
    match if w.n = 0 then none else wrapFault [(w.s, w.n), (w.d, w.n)] with
    | some r => .trap s r.cause (w64 r.bad)
    | none =>
      strLoop c b 1 (moveDownStep c b) (fun w s => s.setG c b n (w64 (w.total * 2 ^ 32 + w.n)))
        (fun w s => ((s.setG c b d (w64 (w.d + w.total))).setG c b sr (w64 (w.s + w.total))).setG c b n 0)
        none (w.n + 1) stop w s
  else smovBody c d sr n stop b s

/-- SMOVX Gd, Gs, Gn (R166). -/
def execSmovx (c : CoreId) (d s_ n : Reg) (stop : Option Nat) (s : State) : Host.Outcome State Fault Refusal :=
  .next (strInstr c (n != d && n != s_) (smovxBody c d s_ n stop) s)

/-- SFILL Gd, Gb, Gn (R165). -/
def execSfill (c : CoreId) (d bb n : Reg) (stop : Option Nat) (s : State) : Host.Outcome State Fault Refusal :=
  .next (strInstr c (n != d && n != bb) (fun b s =>
    let w := { walkOf s c b d d n with s := 0 }
    let v : Byte := (s.g c b bb).setWidth 8
    match if w.n = 0 then none else wrapFault [(w.d, w.n)] with
    | some r => .trap s r.cause (w64 r.bad)
    | none =>
      let step (w : Walk) (s : State) : SOut :=
        let m := min (min 64 w.n) (pageLeft w.d)
        match checkStep s c b [] (w.d, m) with
        | .error r => .fail r
        | .ok (_, ds) =>
          let s1 := markStep s c b [] ds
          let s2 := (List.range m).foldl (fun s i => putByteAt s c b ds i v) s1
          .cont { w with d := wrap64 (w.d + m), n := w.n - m, moved := true } s2
      let save (w : Walk) (s : State) : State := (s.setG c b d (w64 w.d)).setG c b n (w64 w.n)
      strLoop c b 0 step save save none (w.n + 1) stop w s) s)

/-- Compares `n` bytes from offset `i` on: the offset of the first that differ and whether Ga's is lower. -/
def compareUp (c : CoreId) (p q : List (Phys × Nat)) : Nat → Nat → State → Option (Nat × Bool) × State
  | 0, _, s => (none, s)
  | n + 1, i, s =>
    let x := byteAt s c p i
    let y := byteAt x.2 c q i
    if x.1 = y.1 then compareUp c p q n (i + 1) y.2 else (some (i, x.1.ult y.1), y.2)

/-- SCMP Ga, Gb, Gn (R165). -/
def execScmp (c : CoreId) (a bb n : Reg) (stop : Option Nat) (s : State) : Host.Outcome State Fault Refusal :=
  .next (strInstr c (n != a && n != bb) (fun b s =>
    let w := { walkOf s c b 0 a n with s2 := (s.g c b bb).toNat }
    match if w.n = 0 then none else wrapFault [(w.s, w.n), (w.s2, w.n)] with
    | some r => .trap s r.cause (w64 r.bad)
    | none =>
      let step (w : Walk) (s : State) : SOut :=
        let m := min (min 64 w.n) (min (pageLeft w.s) (pageLeft w.s2))
        match checkStep s c b [(w.s, m), (w.s2, m)] (0, 0) with
        | .error r => .fail r
        | .ok (rs, _) =>
          let s1 := markStep s c b rs []
          let r := compareUp c (rs.getD 0 []) (rs.getD 1 []) m 0 s1
          let adv (k : Nat) : Walk :=
            { w with s := wrap64 (w.s + k), s2 := wrap64 (w.s2 + k), n := w.n - k, moved := true }
          match r.1 with
          | some (k, lower) => .fin (adv k) (if lower then 1 else 2) r.2
          | none => .cont (adv m) r.2
      let save (w : Walk) (s : State) : State :=
        ((s.setG c b a (w64 w.s)).setG c b bb (w64 w.s2)).setG c b n (w64 w.n)
      strLoop c b 0 step save save (some 0) (w.n + 1) stop w s) s)

/-- The byte of a checked table at an index. -/
def tableByte (c : CoreId) (tab : List (Phys × Nat)) (v : Byte) (s : State) : Byte × State := byteAt s c tab v.toNat

/-- STR Gd, Gs, Gn, Gt (R165): the table is 256 bytes at Gt. -/
def execStr (c : CoreId) (d s_ n t : Reg) (stop : Option Nat) (s : State) : Host.Outcome State Fault Refusal :=
  .next (strInstr c (n != d && n != s_ && t != d && t != s_ && n != t) (fun b s =>
    let w := walkOf s c b d s_ n
    let tab := (s.g c b t).toNat
    match if w.n = 0 then none else wrapFault [(w.s, w.n), (tab, 256), (w.d, w.n)] with
    | some r => .trap s r.cause (w64 r.bad)
    | none =>
      strLoop c b 0 (moveStep c b 32 (some (tab, 256)) (tableByte c)) (saveMove c b d s_ n) (saveMove c b d s_ n) none
        (w.n + 1) stop w s) s)

/-- Scans `n` bytes from offset `i` on for a byte whose table entry is not zero: its offset and the entry. -/
def scanUp (c : CoreId) (src tab : List (Phys × Nat)) : Nat → Nat → State → Option (Nat × Byte) × State
  | 0, _, s => (none, s)
  | n + 1, i, s =>
    let v := byteAt s c src i
    let f := tableByte c tab v.1 v.2
    if f.1 = 0 then scanUp c src tab n (i + 1) f.2 else (some (i, f.1), f.2)

/-- SSCAN Ga, Gn, Gt, Gf (R165). -/
def execSscan (c : CoreId) (a n t f : Reg) (stop : Option Nat) (s : State) : Host.Outcome State Fault Refusal :=
  .next (strInstr c (n != a && t != a && f != a && n != t && n != f && t != f) (fun b s =>
    let w := walkOf s c b 0 a n
    let tab := (s.g c b t).toNat
    match if w.n = 0 then none else wrapFault [(w.s, w.n), (tab, 256)] with
    | some r => .trap s r.cause (w64 r.bad)
    | none =>
      let step (w : Walk) (s : State) : SOut :=
        let m := min (min 32 w.n) (pageLeft w.s)
        match checkStep s c b [(w.s, m), (tab, 256)] (0, 0) with
        | .error r => .fail r
        | .ok (rs, _) =>
          let r := scanUp c (rs.getD 0 []) (rs.getD 1 []) m 0 (markStep s c b rs [])
          let adv (k : Nat) (v : Nat) : Walk := { w with s := wrap64 (w.s + k), n := w.n - k, moved := true, f := v }
          match r.1 with
          | some (k, v) => .fin (adv k v.toNat) 1 r.2
          | none => .cont (adv m 0) r.2
      let save (w : Walk) (s : State) : State := (s.setG c b a (w64 w.s)).setG c b n (w64 w.n)
      let complete (w : Walk) (s : State) : State := if strLen s c b n = 0 then (save w s) else (save w s).setG c b f (w64 w.f)
      strLoop c b 0 step save complete (some 0) (w.n + 1) stop w s) s)

/-! ## Character conversion -/

/-- What a conversion makes of the next character: its output and the source bytes it takes, the condition code of a stop,
or a sequence that reaches past the step. -/
inductive ConvOne where
  | out (bytes : List Byte) (taken : Nat)
  | stop (cc : Nat)
  | past
  deriving DecidableEq, Repr

/-- The step of a conversion, one character at a time (R168): the character is read, its destination bytes are checked and
stored together, and the next character sees them. The step ends after `m` source bytes or at the destination's 4 KiB
boundary; a destination that is refused is refused for the first character of a step, before anything of it is stored (R162).
`i` counts source bytes and `o` destination bytes. -/
def convLoop (c : CoreId) (b : BankId) (w : Walk) (m : Nat) (one : Nat → State → ConvOne × State) :
    Nat → Nat → Nat → State → SOut
  | 0, i, o, s => .cont { w with d := wrap64 (w.d + o), s := wrap64 (w.s + i), n := w.n - i, moved := true } s
  | fuel + 1, i, o, s =>
    let here : Walk := { w with d := wrap64 (w.d + o), s := wrap64 (w.s + i), n := w.n - i, moved := w.moved || decide (0 < i) }
    if m ≤ i then .cont here s
    else match one i s with
      | (.stop cc, s1) => .fin here cc s1
      | (.past, s1) => .cont here s1
      | (.out u k, s1) =>
        if 0 < o ∧ pageLeft w.d < o + u.length then .cont here s1
        else match checkRange s1 c b .write (wrap64 (w.d + o)) u.length with
          | .error r => if i = 0 ∧ (s1.core c).need.isNone then .fail r else .cont here s1
          | .ok ds => convLoop c b w m one fuel (i + k) (o + u.length) (storeParts s1 c b ds u)

/-- The character of SCVU at offset `i` (R169). -/
def scvuOne (c : CoreId) (src tab : List (Phys × Nat)) (i : Nat) (s : State) : ConvOne × State :=
  let v := byteAt s c src i
  let ok := byteAt v.2 c tab (512 + v.1.toNat / 8)
  if !ok.1.getLsbD (v.1.toNat % 8) then (.stop 3, ok.2)
  else let cp := byteAt ok.2 c tab v.1.toNat; (.out (utf8Small cp.1.toNat) 1, cp.2)

/-- SCVU Gd, Gs, Gn, Gt (R169): the character table is 576 bytes at Gt (R167). -/
def execScvu (c : CoreId) (d s_ n t : Reg) (stop : Option Nat) (s : State) : Host.Outcome State Fault Refusal :=
  .next (strInstr c (n != d && n != s_ && t != d && t != s_ && n != t) (fun b s =>
    let w := walkOf s c b d s_ n
    let tab := (s.g c b t).toNat
    match if w.n = 0 then none else wrapFault [(w.s, w.n), (tab, 576), (w.d, 2 * w.n)] with
    | some r => .trap s r.cause (w64 r.bad)
    | none =>
      let step (w : Walk) (s : State) : SOut :=
        let m := min (min 32 w.n) (pageLeft w.s)
        match checkStep s c b [(w.s, m), (tab, 576)] (0, 0) with
        | .error r => .fail r
        | .ok (rs, _) =>
          convLoop c b w m (scvuOne c (rs.getD 0 []) (rs.getD 1 [])) m 0 0 (markStep s c b rs [])
      strLoop c b 0 step (saveMove c b d s_ n) (saveMove c b d s_ n) (some 0) (w.n + 1) stop w s) s)

/-- The sequence of SCVS at offset `i` within `m` checked source bytes of `n` that remain (R170). -/
def scvsOne (c : CoreId) (src tab : List (Phys × Nat)) (m n i : Nat) (s : State) : ConvOne × State :=
  let v := byteAt s c src i
  let len := utf8Len v.1.toNat
  if len = 0 ∨ n < i + len then (.stop 3, v.2)
  else if m < i + len then (.past, v.2)
  else
    let r := (List.range (len - 1)).foldl (fun (acc : List Nat × State) k =>
      let x := byteAt acc.2 c src (i + 1 + k); (acc.1 ++ [x.1.toNat], x.2)) ([v.1.toNat], v.2)
    match utf8Decode r.1 with
    | none => (.stop 3, r.2)
    | some cp =>
      if 0xFF < cp then (.stop 1, r.2)
      else
        let ok := byteAt r.2 c tab (544 + cp / 8)
        if !ok.1.getLsbD (cp % 8) then (.stop 1, ok.2)
        else let o := byteAt ok.2 c tab (256 + cp); (.out [o.1] len, o.2)

/-- The source bytes that a step of SCVS checks: its `m` bytes, or the whole first sequence where that reaches past them, so
that a sequence across the step's end is taken as a step of its own (R162, R168). -/
def scvsSpan (c : CoreId) (src : List (Phys × Nat)) (m n : Nat) (s : State) : Nat :=
  let len := utf8Len (byteAt s c src 0).1.toNat
  if m < len ∧ len ≤ n then len else m

/-- SCVS Gd, Gs, Gn, Gt (R170). -/
def execScvs (c : CoreId) (d s_ n t : Reg) (stop : Option Nat) (s : State) : Host.Outcome State Fault Refusal :=
  .next (strInstr c (n != d && n != s_ && t != d && t != s_ && n != t) (fun b s =>
    let w := walkOf s c b d s_ n
    let tab := (s.g c b t).toNat
    match if w.n = 0 then none else wrapFault [(w.s, w.n), (tab, 576), (w.d, w.n)] with
    | some r => .trap s r.cause (w64 r.bad)
    | none =>
      let step (w : Walk) (s : State) : SOut :=
        let m := min (min 32 w.n) (pageLeft w.s)
        match checkStep s c b [(w.s, m), (tab, 576)] (0, 0) with
        | .error r => .fail r
        | .ok (rs0, _) =>
          let m' := scvsSpan c (rs0.getD 0 []) m w.n s
          match checkStep s c b [(w.s, m'), (tab, 576)] (0, 0) with
          | .error r => .fail r
          | .ok (rs, _) =>
            convLoop c b w m' (scvsOne c (rs.getD 0 []) (rs.getD 1 []) m' w.n) m' 0 0 (markStep s c b rs [])
      strLoop c b 0 step (saveMove c b d s_ n) (saveMove c b d s_ n) (some 0) (w.n + 1) stop w s) s)

end Sys2Proof.Machine
end

