-- ==== Sys2Proof/Machine/Edit.lean ====
section
/-! DEFINITION. EDIT and the picture language (R172 to R176). -/

namespace Sys2Proof.Machine

/-- A picture code with the offset of its first byte and its literal bytes (R173). -/
structure PicCode where
  off : Nat
  code : Nat
  lits : List Byte
  deriving DecidableEq, Repr

/-- Why the picture cannot be used: an exception while it is read, a picture error at an offset (R174 items 2, 3), or a byte
behind a remote window that has not been answered (R121). -/
inductive PicFail where
  | refused (r : Refused)
  | picture (off : Nat)
  | missing (s : State)
  deriving DecidableEq, Repr

/-- Reads picture byte `off`; `last` is the offset of the code it belongs to. Byte 256 lies outside the picture. -/
def picByte (s : State) (c : CoreId) (b : BankId) (gp off last : Nat) : Except PicFail (Byte × State) :=
  if 256 ≤ off then .error (.picture last)
  else if 2 ^ 64 ≤ gp + off then .error (.refused { cause := 0x03, bad := gp })
  else match checkPart s c b .read (gp + off) 1 with
    | .error e => .error (.refused { cause := e.code .read, bad := gp + off })
    | .ok p =>
      let r := readPart (markUse s c p.tlb) c p 1
      if (r.2.core c).need.isSome then .error (.missing r.2) else .ok (r.1.headD 0, r.2)

/-- Reads `n` literal bytes. -/
def picLits (s : State) (c : CoreId) (b : BankId) (gp off last : Nat) : Nat → Except PicFail (List Byte × State)
  | 0 => .ok ([], s)
  | n + 1 =>
    match picByte s c b gp off last with
    | .error e => .error e
    | .ok (v, s1) =>
      match picLits s1 c b gp (off + 1) last n with
      | .error e => .error e
      | .ok (l, s2) => .ok (v :: l, s2)

/-- Reads the literal bytes that follow a code, CUR's k byte among them (R173). -/
def picOperands (s : State) (c : CoreId) (b : BankId) (gp off code : Nat) : Except PicFail (List Byte × State) :=
  if code = 3 ∨ code = 4 ∨ code = 5 then picLits s c b gp (off + 1) off 1
  else if code = 7 then
    match picByte s c b gp (off + 1) off with
    | .error e => .error e
    | .ok (k, s1) =>
      if k = 0 ∨ 4 < k.toNat then .error (.picture (off + 1))
      else match picLits s1 c b gp (off + 2) off k.toNat with
        | .error e => .error e
        | .ok (l, s2) => .ok (k :: l, s2)
  else .ok ([], s)

/-- The codes of a picture in which an offending byte has been found: the reading goes on to END or to the 256th byte, so that an
exception of a later byte comes first (R174 item 2), and what it finds is the first offending byte. Each further byte is taken
as a code of one byte (log 24). -/
def picRest (c : CoreId) (b : BankId) (gp bad : Nat) : Nat → Nat → State → PicFail
  | 0, _, _ => .picture bad
  | fuel + 1, off, s =>
    match picByte s c b gp off bad with
    | .error e => e
    | .ok (v, s1) => if v = 0 then .picture bad else picRest c b gp bad fuel (off + 1) s1

/-- Reads codes up to END. After an undefined code or a CUR length the rest is read as `picRest` states (log 24); without an
END the offending byte is the last code begun. -/
def picCodes (c : CoreId) (b : BankId) (gp : Nat) :
    Nat → Nat → Nat → List PicCode → State → Except PicFail (List PicCode × State)
  | 0, _, last, _, _ => .error (.picture last)
  | fuel + 1, off, last, acc, s =>
    match picByte s c b gp off last with
    | .error e => .error e
    | .ok (v, s1) =>
      if 0x0B < v.toNat then .error (picRest c b gp off 256 (off + 1) s1)
      else match picOperands s1 c b gp off v.toNat with
        | .error (.picture o) => .error (if o = off then .picture o else picRest c b gp o 256 (o + 1) s1)
        | .error e => .error e
        | .ok (l, s2) =>
          let acc' := acc ++ [{ off := off, code := v.toNat, lits := l }]
          if v = 0 then .ok (acc', s2) else picCodes c b gp fuel (off + 1 + l.length) off acc' s2

/-- A picture as read: L, CSET and its codes, END last (R172). -/
structure Picture where
  len : Nat
  cset : Nat
  codes : List PicCode
  deriving DecidableEq, Repr

/-- DIGIT and ZDIGIT take a digit. -/
def PicCode.takesDigit (p : PicCode) : Bool := p.code == 1 || p.code == 2

/-- Output bytes of a code (R173). -/
def PicCode.outLen (p : PicCode) : Nat :=
  match p.code with
  | 1 => 1 | 2 => 1 | 4 => 1 | 5 => 1 | 7 => p.lits.length - 1 | 8 => 1 | 9 => 1 | 10 => 2 | 11 => 2
  | _ => 0

/-- Reads and checks a picture (R174 items 2 and 3): an offending L or CSET byte comes before any offending code. -/
def readPicture (s : State) (c : CoreId) (b : BankId) (gp : Nat) : Except PicFail (Picture × State) :=
  match picLits s c b gp 0 0 2 with
  | .error e => .error e
  | .ok (hd, s1) =>
    let len := (hd.getD 0 0).toNat
    let cset := (hd.getD 1 0).toNat
    let headBad : Option Nat := if len = 0 ∨ 32 < len then some 0 else if 1 < cset then some 1 else none
    match picCodes c b gp 255 2 2 [] s1 with
    | .error (.refused r) => .error (.refused r)
    | .error (.missing s2) => .error (.missing s2)
    | .error (.picture o) => .error (.picture (headBad.getD o))
    | .ok (codes, s2) =>
      match headBad with
      | some o => .error (.picture o)
      | none =>
        if codes.countP PicCode.takesDigit ≠ 2 * len - 1 then .error (.picture ((codes.getLast?.map (·.off)).getD 0))
        else .ok ({ len := len, cset := cset, codes := codes }, s2)

/-- What EDIT knows while it runs: destination, pad, digits still to take, digits taken, the started flag (R173). -/
structure EditRun where
  d : Nat
  pad : Byte
  digits : List Nat
  taken : Nat
  started : Bool
  deriving DecidableEq, Repr

/-- Output of one code (R173), with the run after it. -/
def PicCode.act (p : PicCode) (cset : Nat) (neg : Bool) (r : EditRun) : List Byte × EditRun :=
  let a := cset = 0
  let dig (n : Nat) : Byte := byte ((if a then 0x30 else 0xF0) + n)
  let lit := p.lits.headD 0
  let n := r.digits.headD 0
  let r1 := { r with digits := r.digits.drop 1, taken := r.taken + 1 }
  let minus : Byte := if a then 0x2D else 0x60
  match p.code with
  | 1 => ([dig n], { r1 with started := true })
  | 2 => if !r.started ∧ n = 0 then ([r.pad], r1) else ([dig n], { r1 with started := true })
  | 3 => ([], { r with pad := lit })
  | 4 => ([lit], r)
  | 5 => ([if r.started then lit else r.pad], r)
  | 6 => ([], { r with started := true })
  | 7 => (p.lits.drop 1, r)
  | 8 => ([if neg then minus else r.pad], r)
  | 9 => ([if neg then minus else if a then 0x2B else 0x4E], r)
  | 10 => (if neg then (if a then [0x43, 0x52] else [0xC3, 0xD9]) else [r.pad, r.pad], r)
  | 11 => (if neg then (if a then [0x44, 0x42] else [0xC4, 0xC2]) else [r.pad, r.pad], r)
  | _ => ([], r)

/-- A checkpoint of EDIT before the code at `off` (R175): at the picture's first code nothing has been done yet. -/
def editCheckpoint (c : CoreId) (b : BankId) (d : Reg) (off : Nat) (r : EditRun) (s : State) : State :=
  if off = 2 then s
  else (s.setG c b d (w64 r.d)).modBank c b fun x =>
    x.setProgress true (off + r.taken * 2 ^ 8 + b2n r.started * 2 ^ 14)

/-- One code per step (R174), up to END. -/
def editLoop (c : CoreId) (b : BankId) (d : Reg) (cset : Nat) (neg zero : Bool) :
    List PicCode → Option Nat → EditRun → State → IRes
  | [], _, _, s => .done s
  | p :: t, left, r, s =>
    if left = some 0 then .hold (editCheckpoint c b d p.off r s)
    else if p.code = 0 then
      .done (((s.setG c b d (w64 r.d)).noProgress c b).setCC c b (if zero then 0 else if neg then 1 else 2))
    else
      let (out, r') := p.act cset neg r
      match checkRange s c b .write r.d out.length with
      | .error e => .trap (editCheckpoint c b d p.off r s) e.cause (w64 e.bad)
      | .ok ds =>
        editLoop c b d cset neg zero t (left.map (· - 1)) { r' with d := wrap64 (r.d + out.length) }
          (storeParts s c b ds out)

/-- The started flag, the pad and the digit count that the codes before an offset leave (R175). -/
def editBefore (p : Picture) (off : Nat) : List PicCode := p.codes.filter fun q => decide (q.off < off)

/-- Checks of R174 from item 4 on, for a picture that passed, then the run. -/
def editSource (c : CoreId) (b : BankId) (d : Reg) (gs off taken : Nat) (started : Bool) (p : Picture)
    (stop : Option Nat) (s : State) : IRes :=
  let left := p.codes.filter fun q => decide (off ≤ q.off)
  let dst := (s.g c b d).toNat
  let outLen := (left.map PicCode.outLen).sum
  let pad0 : Byte := if p.cset = 0 then 0x20 else 0x40
  let pad := (editBefore p off).foldl (fun a q => if q.code = 3 then q.lits.headD a else a) pad0
  match wrapFault [(gs, p.len), (dst, outLen)] with
  | some r => .trap s r.cause (w64 r.bad)
  | none =>
    match checkRange s c b .read gs p.len with
    | .error r => .trap s r.cause (w64 r.bad)
    | .ok ps =>
      let src := readParts s c ps
      match readPacked src.1 with
      | none => .trap src.2 0x20 (w64 gs)
      | some v =>
        editLoop c b d p.cset (v.neg && v.mag != 0) (v.mag == 0) left stop
          { d := dst, pad := pad, digits := (digitsOf (2 * p.len - 1) v.mag).drop taken, taken := taken,
            started := started } src.2

/-- EDIT's body (R174, R175). -/
def editBody (c : CoreId) (d gp gs : Reg) (stop : Option Nat) (b : BankId) (s : State) : IRes :=
  let pa := (s.g c b gp).toNat
  let x := s.bank c b
  match readPicture s c b pa with
  | .error (.missing s1) => .hold s1
  | .error (.refused r) => .trap s r.cause (w64 r.bad)
  | .error (.picture o) => .trap s 0x25 (w64 (pa + o))
  | .ok (p, s1) =>
    let off := if x.part then bitsOf x.prog 0 8 else 2
    let taken := if x.part then bitsOf x.prog 8 6 else 0
    let started := x.part && bitAt x.prog 14
    if !(p.codes.any fun q => q.off == off) ∨ (editBefore p off).countP PicCode.takesDigit ≠ taken then
      .trap s1 0x25 (w64 (pa + off))
    else editSource c b d (s.g c b gs).toNat off taken started p stop s1

/-- EDIT Gd, Gp, Gs (R172 to R176). -/
def execEdit (c : CoreId) (d p s_ : Reg) (stop : Option Nat) (s : State) : Host.Outcome State Fault Refusal :=
  .next (strInstr c (d != p && d != s_) (editBody c d p s_ stop) s)

end Sys2Proof.Machine
end

