-- ==== Sys2Proof/Machine/System.lean ====
section
/-! DEFINITION. The SYSTEM and PRIVOP instructions (R193 to R195): calls, fences, CTL access, TRET and QUAR, MSYNC, the
TLB instructions (R202 to R212) and the storage-key instructions (R222); and the fetch, drain and time-out events of the
pipeline (R108, R114, R131, R398). -/

namespace Sys2Proof.Machine

/-! ## Calls, fences, synchronisation -/

/-- SCALL (R193). -/
def execScall (c : CoreId) (s : State) : Host.Outcome State Fault Refusal :=
  .next (baseInstr c (fun _ s => .trap s 0x0D 0) s)

/-- BREAK (R193). -/
def execBreakpoint (c : CoreId) (s : State) : Host.Outcome State Fault Refusal :=
  .next (baseInstr c (fun _ s => .trap s 0x0E 0) s)

/-- FENCE.SL (R123): every older store is made visible. -/
def execFenceSl (c : CoreId) (s : State) : Host.Outcome State Fault Refusal :=
  .next (baseInstr c (fun _ s => .done (drainAll s c)) s)

/-- Every older store is visible, and the instruction waits until every posted store is acknowledged (R123). -/
def fenceDevBody (c : CoreId) (_b : BankId) (s : State) : IRes :=
  let s1 := drainAll s c
  if (s1.core c).posted = [] then .done s1 else .hold s1

/-- FENCE.DEV (R123). -/
def execFenceDev (c : CoreId) (s : State) : Host.Outcome State Fault Refusal :=
  .next (baseInstr c (fenceDevBody c) s)

/-- FENCE.ALL (R123): both orders; every older access has completed when it retires. -/
def execFenceAll (c : CoreId) (s : State) : Host.Outcome State Fault Refusal :=
  .next (baseInstr c (fenceDevBody c) s)

/-- Empties the prefetch queue: fetch starts again after the instruction (R108). -/
def refetch (c : CoreId) (s : State) : State := s.modCore c fun k => { k with pq := [] }

/-- CSYNC (R124): pending CTL values take effect. -/
def execCsync (c : CoreId) (s : State) : Host.Outcome State Fault Refusal :=
  .next (baseInstr c (fun b s => .done (refetch c (s.modCore c fun k => k.applyPend b))) s)

/-- ISYNC (R119): the prefetch queue is emptied. -/
def execIsync (c : CoreId) (s : State) : Host.Outcome State Fault Refusal :=
  .next (baseInstr c (fun _ s => .done (refetch c s)) s)

/-- User-mode access to a CTL register (R194): reads. -/
def Ctl.userRead : Ctl → Bool
  | .status => true
  | .fpctl => true
  | .dctl => true
  | .deadline => true
  | .an => true
  | _ => false

/-- User-mode access to a CTL register (R194): writes. -/
def Ctl.userWrite : Ctl → Bool
  | .fpctl => true
  | .dctl => true
  | _ => false

/-- CTLR Gd, ctl (R124, R194); in user mode STATUS shows only CC. -/
def execCtlr (c : CoreId) (d ctl : Reg) (s : State) : Host.Outcome State Fault Refusal :=
  .next (runInstr c 4 (fun _ => (ctlOf ctl.val).isSome) false false (fun b s =>
    match ctlOf ctl.val with
    | none => .trap s 0x0B 0
    | some r =>
      let user := (s.bank c b).user
      if user ∧ !r.userRead then .trap s 0x0C 0
      else
        let v := (s.core c).readCtl b r
        .done (s.setG c b d (if user ∧ r = .status then v &&& 0xC0000 else v))) s)

/-- CTLW ctl, Ga (R124, R194). -/
def execCtlw (c : CoreId) (ctl a : Reg) (s : State) : Host.Outcome State Fault Refusal :=
  .next (runInstr c 4 (fun _ => (ctlOf ctl.val).isSome) false false (fun b s =>
    match ctlOf ctl.val with
    | none => .trap s 0x0B 0
    | some r =>
      if (s.bank c b).user ∧ !r.userWrite then .trap s 0x0C 0
      else .done (s.modCore c fun k => k.pendCtl b r (s.g c b a))) s)

/-- A supervisor instruction that is always legal. -/
def privInstr (c : CoreId) (body : BankId → State → IRes) (s : State) : State :=
  runInstr c 4 (fun _ => true) true false body s

/-- TRET (R98, R100): at level 0 it raises PRIV; in bank 15 it returns to the context's bank. -/
def execTret (c : CoreId) (s : State) : Host.Outcome State Fault Refusal :=
  .next (privInstr c (fun b s =>
    if b = bank15 then
      match (s.core c).b15 with
      | some x => .own (nestReturn s c x)
      | none => .hold s
    else if (s.bank c b).tl = 0 then .trap s 0x0C 0
    else .own (trapReturn s c b)) s)

/-- QUAR (R100, R102), defined in bank 15 only (R195); the cause logged is that of the trap at level 4. -/
def execQuar (c : CoreId) (s : State) : Host.Outcome State Fault Refusal :=
  .next (runInstr c 4 (fun b => b == bank15) true false (fun _ s =>
    match (s.core c).b15 with
    | some x => .own (quarantine s c x.bank x.cause 0x15)
    | none => .hold s) s)

/-! ## The MPU activation -/

/-- MSYNC (R125, R225): requests an activation and waits for it. -/
def execMsync (c : CoreId) (s : State) : Host.Outcome State Fault Refusal :=
  .next (privInstr c (fun _ s =>
    .hold ((requestActivation s).modCore c fun k => { k with wait := some .msync })) s)

/-! ## The TLB -/

/-- Writable bits of TLB entry word 0 and word 1 (R202). -/
def tlbMask0 : Word := 0x0000_1F0F_FFFF_FFFF
/-- Writable bits of word 1. -/
def tlbMask1 : Word := 0xFFFE_FFFF_FFFF_F03F

/-- The valid pinned entries but the one at an index. -/
def Core.pinnedBut (k : Core) (i : Nat) : Nat :=
  (List.range 128).countP fun j => j != i && match k.tlb[j]? with
    | some e => e.w1.getLsbD 63 && e.w1.getLsbD 49
    | none => false

/-- The entry that TLBINS or TLBSET writes at an index (R203). -/
def Core.normalise (k : Core) (i : Nat) (a b : Word) : TlbEntry :=
  let w0 := a &&& tlbMask0
  let w1 := b &&& tlbMask1
  let size := min 28 (Bits.get w0 40 5)
  let vpn := Bits.get w0 0 36 / 2 ^ size * 2 ^ size
  let pfn := Bits.get w1 12 36 / 2 ^ size * 2 ^ size
  let pin := w1.getLsbD 49 && !(w1.getLsbD 63 && decide (k.pinmax < k.pinnedBut i + 1))
  { w0 := Bits.put (Bits.put w0 40 5 size) 0 36 vpn, w1 := Bits.put (Bits.put w1 12 36 pfn) 49 1 (b2n pin), use := false }

/-- Writes a TLB entry; its use bit is cleared (R207). -/
def Core.writeTlb (k : Core) (i : Nat) (a b : Word) : Core :=
  if h : i < 128 then { k with tlb := k.tlb.set i (k.normalise i a b) } else k

/-- The search of R207 from the hand: the chosen index, with the use bits it passed cleared. -/
def handSearch : Nat → Nat → Vector TlbEntry 128 → Nat × Vector TlbEntry 128
  | 0, i, t => (i % 128, t)
  | fuel + 1, i, t =>
    let j : Fin 128 := ⟨i % 128, Nat.mod_lt _ (by decide)⟩
    let e := t[j]
    if e.w1.getLsbD 49 then handSearch fuel (i + 1) (t.set j { e with use := false })
    else if e.use then handSearch fuel (i + 1) (t.set j { e with use := false })
    else (j.val, t)

/-- The index that TLBINS chooses (R207). -/
def Core.chooseTlb (k : Core) : Nat × Vector TlbEntry 128 :=
  match (List.range 128).find? fun i => match k.tlb[i]? with | some e => !e.w1.getLsbD 63 | none => false with
  | some i => (i, k.tlb)
  | none => handSearch 256 k.hand k.tlb

/-- TLBINS Ga, Gb (R203, R206, R207). -/
def execTlbins (c : CoreId) (a b : Reg) (s : State) : Host.Outcome State Fault Refusal :=
  .next (privInstr c (fun bk s =>
    let k := s.core c
    let r := k.chooseTlb
    let k1 := { k with tlb := r.2 }.writeTlb r.1 (s.g c bk a) (s.g c bk b)
    .done (s.setCore c { k1 with hand := (r.1 + 1) % 128, pq := [] })) s)

/-- TLBSET Gd, Ga, Gb (R202, R203). -/
def execTlbset (c : CoreId) (d a b : Reg) (s : State) : Host.Outcome State Fault Refusal :=
  .next (privInstr c (fun bk s =>
    .done (s.setCore c
      { (s.core c).writeTlb ((s.g c bk d).toNat % 128) (s.g c bk a) (s.g c bk b) with pq := [] })) s)

/-- TLBRD Gd, Ga (R202): the two words into Gd and G(d + 1). -/
def execTlbrd (c : CoreId) (d a : Reg) (s : State) : Host.Outcome State Fault Refusal :=
  .next (privInstr c (fun bk s =>
    let i : Fin 128 := ⟨(s.g c bk a).toNat % 128, Nat.mod_lt _ (by decide)⟩
    let e := (s.core c).tlb[i]
    .done ((s.setG c bk d e.w0).setG c bk (regOf (d.val + 1)) e.w1)) s)

/-- Bits [63:48] of an address all equal bit 47 (R182). -/
def canonical (va : Nat) : Bool := va >>> 47 == 0 || va >>> 47 == 0x1FFFF

/-- TLBFIND's result (R207). -/
def Core.tlbFind (k : Core) (va asid : Nat) : Word :=
  match if canonical va then k.tlbHits va asid else [] with
  | [] => BitVec.ofNat 64 (2 ^ 63)
  | [i] => BitVec.ofNat 64 i
  | i :: _ => BitVec.ofNat 64 (2 ^ 62 + i)

/-- TLBFIND Gd, Ga (R207). -/
def execTlbfind (c : CoreId) (d a : Reg) (s : State) : Host.Outcome State Fault Refusal :=
  .next (privInstr c (fun bk s =>
    .done (s.setG c bk d ((s.core c).tlbFind (s.g c bk a).toNat (Bits.get (s.bank c bk).asid 0 12)))) s)

/-- An access in flight that was translated under an entry which core `c` invalidates by a broadcast (R212). -/
def Via.mark (v : Via) (p : TlbEntry → Bool) (c : CoreId) : Via :=
  match v.entry with
  | some e => if p { w0 := e.1, w1 := e.2, use := false } then { v with inval := c :: v.inval } else v
  | none => v

/-- Marks what a waiting instruction has in flight. -/
def CoreWait.mark (w : CoreWait) (p : TlbEntry → Bool) (c : CoreId) : CoreWait :=
  match w with
  | .window q va d size sx fp v => .window q va d size sx fp (v.mark p c)
  | .bytes q va pa size v => .bytes q va pa size (v.mark p c)
  | .msync => .msync
  | .tlbsync => .tlbsync
  | .fkset pa v => .fkset pa v

/-- Marks the accesses of a core that are in flight under an entry which core `c` invalidates by a broadcast. -/
def Core.markInval (k : Core) (p : TlbEntry → Bool) (c : CoreId) : Core :=
  { k with sq := k.sq.map fun e => { e with via := e.via.mark p c },
           posted := k.posted.map fun e => { e with via := e.via.mark p c },
           wait := k.wait.map fun w => w.mark p c }

/-- Whether a waiting access is one that the TLBSYNC of core `c` waits for. -/
def CoreWait.owes (w : CoreWait) (c : CoreId) : Bool :=
  match w with
  | .window _ _ _ _ _ _ v => v.inval.contains c
  | .bytes _ _ _ _ v => v.inval.contains c
  | .msync => false
  | .tlbsync => false
  | .fkset _ _ => false

/-- Whether a core still has an access in flight under an entry that core `c` has invalidated by a broadcast. -/
def Core.owes (k : Core) (c : CoreId) : Bool :=
  k.sq.any (fun e => e.via.inval.contains c) || k.posted.any (fun e => e.via.inval.contains c) ||
    (match k.wait with | some w => w.owes c | none => false)

/-- Invalidates the entries that a test names. -/
def Core.invalidate (k : Core) (p : TlbEntry → Bool) : Core :=
  { k with tlb := k.tlb.map fun e => if p e then { e with w1 := Bits.put e.w1 63 1 0 } else e, pq := [] }

/-- Invalidates on one core or on all 96 (R212; log 21). -/
def invalidateOn (s : State) (c : CoreId) (bcast : Bool) (p : TlbEntry → Bool) : State :=
  if bcast then { s with cores := s.cores.map fun k => (k.invalidate p).markInval p c } else s.modCore c fun k => k.invalidate p

/-- The entries that TLBIV names (R212). -/
def tlbivHits (ga : Nat) (e : TlbEntry) : Bool := e.hits ga (bitsOf ga 0 12)

/-- The entries that TLBIA names (R212). -/
def tlbiaHits (ga : Nat) (e : TlbEntry) : Bool :=
  bitAt ga 12 || (!e.w1.getLsbD 62 && Bits.get e.w1 50 12 == bitsOf ga 0 12)

/-- TLBIV Ga (R206, R212). -/
def execTlbiv (c : CoreId) (a : Reg) (bcast : Bool) (s : State) : Host.Outcome State Fault Refusal :=
  .next (privInstr c (fun bk s => .done (invalidateOn s c bcast (tlbivHits (s.g c bk a).toNat))) s)

/-- TLBIA Ga (R206, R212). -/
def execTlbia (c : CoreId) (a : Reg) (bcast : Bool) (s : State) : Host.Outcome State Fault Refusal :=
  .next (privInstr c (fun bk s => .done (invalidateOn s c bcast (tlbiaHits (s.g c bk a).toNat))) s)

/-! ## Storage keys -/

/-- The frame address that FKSET and FKGET name: Ga as a physical address (R222, R181). -/
def keyAddr (v : Word) : Nat := v.toNat

/-- FKSET Ga, Gb (R222): the core waits for every key cache; a frame without a key needs none. -/
def execFkset (c : CoreId) (a b : Reg) (s : State) : Host.Outcome State Fault Refusal :=
  .next (privInstr c (fun bk s =>
    let pa := keyAddr (s.g c bk a)
    if keyed pa then
      .hold (s.modCore c fun k => { k with wait := some (.fkset pa ((s.g c bk b).toNat % 32)) })
    else .done s) s)

/-- FKGET Gd, Ga (R222). -/
def execFkget (c : CoreId) (d a : Reg) (s : State) : Host.Outcome State Fault Refusal :=
  .next (privInstr c (fun bk s =>
    .done (s.setG c bk d (BitVec.ofNat 64 (frameKey s (keyAddr (s.g c bk a)))))) s)

/-! ## Waiting instructions that complete -/

/-- The oldest instruction of a core, which waited, retires. -/
def retireWait (s : State) (c : CoreId) : State :=
  match (s.core c).cur with
  | some b => advancePc (s.modCore c fun k => { k with wait := none }) c b 4
  | none => s.modCore c fun k => { k with wait := none }

/-- All core indices. -/
def allCores : List CoreId := List.finRange 96

/-- What the TLBSYNC of a core waits for: an access of some core under an entry that it has invalidated by a broadcast
(R212). -/
def syncOwed (s : State) (c : CoreId) : Bool := allCores.any fun d => (s.core d).owes c

/-- TLBSYNC (R125, R212): every broadcast of this core has acted on every core (log 21); it waits for the accesses that were
translated before. -/
def execTlbsync (c : CoreId) (s : State) : Host.Outcome State Fault Refusal :=
  .next (privInstr c (fun _ s =>
    if syncOwed s c then .hold (s.modCore c fun k => { k with wait := some .tlbsync }) else .done s) s)

/-- A TLBSYNC whose last access has completed retires. -/
def retireTlbsync (s : State) (c : CoreId) : State :=
  if (s.core c).wait = some .tlbsync ∧ !syncOwed s c then retireWait s c else s

/-- Every TLBSYNC that has nothing to wait for any more retires. -/
def settleSyncs (s : State) : State := allCores.foldl retireTlbsync s

/-! ## Events of the pipeline -/

/-- A fetch finds its bytes written to the L1: queued stores of the core to them are written first (R118). -/
def settleFetch (s : State) (c : CoreId) (pa : Nat) : State :=
  if (s.core c).sq.any fun e => !e.dev && e.cells.any fun p => decide (pa ≤ p.1 ∧ p.1 < pa + 16) then drainAll s c else s

/-- Fills a fetch word (R108, R229): a fault mark if any check fails; from the L1; or, behind a remote window, from the
answers of that window, which the core asks for and waits for (R199). Answers none while it waits. -/
def fetchWord (s : State) (c : CoreId) (b : BankId) (va : Nat) : Option FetchWord × State :=
  match checkPart s c b .fetch va 16 with
  | .error _ => (some { addr := va, pa := 0, bytes := none }, s)
  | .ok p =>
    match targetOf p.pa with
    | .window _ _ =>
      (match windowHave (s.core c) p 16 with
       | .ok bs => (some { addr := va, pa := p.pa, bytes := some bs }, markUse s c p.tlb)
       | .error w => (none, if (s.core c).wait.isNone then windowBytes s c b w else s))
    | _ =>
      let s1 := l1Access (settleFetch (markUse s c p.tlb) c p.pa) c false p.pa 16
      (some { addr := va, pa := p.pa, bytes := some (s1.rd p.pa 16) }, s1)

/-- The bank for which a core fetches: its current one, while its context runs, whether or not its oldest instruction waits
(R108). -/
def fetchBank (s : State) (c : CoreId) : Option BankId :=
  let k := s.core c
  match k.cur with
  | none => none
  | some b =>
    if k.svc = .inService ∧ (if b = bank15 then k.b15.isSome else (k.bank b).runnable) then some b else none

/-- INSTRUCTION_FETCH (R107, R108): a fetch word enters a prefetch queue that has room, in a cycle in which the data side leaves
the port free; in one in which it has the port, fetch is held off (log 63). -/
def execInstructionFetch (c : CoreId) (s : State) : Host.Outcome State Fault Refusal :=
  .next (match fetchBank s c with
    | none => s
    | some b =>
      let k := s.core c
      if k.port then s.modCore c fun k => { k with port := false }
      else if 4 ≤ k.pq.length ∨ s.getF Fld.MPU_STATUS_DRAINING = 1 then s
      else
        let va := match k.pq.getLast? with
          | some w => wrap64 (w.addr + 16)
          | none => (s.bank c b).pc.toNat / 16 * 16
        match fetchWord s c b va with
        | (some w, s1) => s1.modCore c fun k => { k with pq := k.pq ++ [w] }
        | (none, s1) => s1)

/-- STORE_DRAIN (R114, R121): the head of the store queue becomes visible. -/
def execStoreDrain (c : CoreId) (s : State) : Host.Outcome State Fault Refusal := .next (settleSyncs (drainHead s c))

/-- A host access of a core that fails is counted (R335). -/
def countHostError (s : State) (host : Bool) : State := if host then s.bump Off.HIF_HOSTERR_CNT else s

/-- ASYNC_MCHK (R398): the oldest unacknowledged posted store raises MCHK at the next interrupt point. -/
def execAsyncMchk (c : CoreId) (s : State) : Host.Outcome State Fault Refusal :=
  .next (match readyBank s c, (s.core c).posted with
    | some b, p :: t =>
      settleSyncs (trapMchk (countHostError (s.modCore c fun k => { k with posted := t }) p.req.isNone) c b
        (BitVec.ofNat 64 p.va))
    | _, _ => s)

/-- Whether a waiting instruction waits for an access through a remote window. -/
def CoreWait.onWindow : CoreWait → Bool
  | .window _ _ _ _ _ _ _ => true
  | .bytes _ _ _ _ _ => true
  | .msync => false
  | .tlbsync => false
  | .fkset _ _ => false

/-- The bank whose oldest instruction accesses memory: a bank that can execute, or one whose access waits. -/
def accessBank (s : State) (c : CoreId) : Option BankId :=
  match (s.core c).wait, (s.core c).cur with
  | some w, some b => if w.onWindow then some b else none
  | _, _ => readyBank s c

/-- Whether an address that an access of bank `b` uses lies in host memory. -/
def reachesHost (s : State) (c : CoreId) (b : BankId) (va : Nat) : Bool :=
  match checkPart s c b .read va 1 with
  | .ok p => (match targetOf p.pa with | .host _ => true | _ => false)
  | .error _ => false

/-- ACCESS_TIMEOUT (R131, R335, R398): the access of the oldest instruction completes with MCHK, precisely. -/
def execAccessTimeout (c : CoreId) (addr : Word) (s : State) : Host.Outcome State Fault Refusal :=
  .next (match accessBank s c with
    | some b =>
      settleSyncs (trapMchk (countHostError (s.modCore c fun k => { k with wait := none })
        (reachesHost s c b addr.toNat)) c b addr)
    | none => s)

/-- ILLEGAL_INSTRUCTION (R180): a word that the opcode map does not define raises ILLEGAL after its fetch exceptions; an
encoding that is defined is not this event. -/
def execIllegalInstruction (c : CoreId) (w0 w1 : BitVec 32) (s : State) : Host.Outcome State Fault Refusal :=
  .next (if (porDecode c w0 w1).isSome then s
    else runInstr c (instrBytes w0) (fun _ => false) false false (fun _ s => .hold s) s)

end Sys2Proof.Machine
end

