-- ==== Sys2Proof/Machine/Caller.lean ====
section
/-! DEFINITION. The caller (R86 to R93, R101): binding, selection, timers, cut-offs, boundary responses and machine
checks; and the faults of a core's sequencer (R399, R414, R415, R419). -/

namespace Sys2Proof.Machine

/-! ## Binding -/

/-- The head of a tile queue (R88): the queued transaction that comes first by priority. -/
def queueHead (s : State) (t : TileId) : Option Txn :=
  (s.txns.filter fun x => decide (x.tile = t ∧ x.phase = .queued ∧ x.si = false)).foldl (fun acc x =>
    match acc with
    | none => some x
    | some y => if older x.deadline x.an y.deadline y.an then some x else acc) none

/-- The lowest free bank of a core (R88). -/
def Core.freeBank? (k : Core) : Option BankId := contextBanks.find? fun b => (k.bank b).ctx.isNone

/-- Remaining CYCLES of the contexts bound to a core (R88). -/
def remainingCycles (s : State) (c : CoreId) : Nat :=
  contextBanks.foldl (fun n b =>
    match (s.bank c b).ctx with
    | some x => match s.txn? x.an with
      | some t => n + (t.pd.cycles - x.mcycles / 1000)
      | none => n
    | none => n) 0

/-- The core and bank into which a tile binds (R88). -/
def bindPlace (s : State) (t : TileId) : Option (CoreId × BankId) :=
  ((coresOf t).filterMap fun c =>
    if coreServes s c then (s.core c).freeBank?.map fun b => (c, b) else none).foldl (fun acc p =>
      match acc with
      | none => some p
      | some q => if remainingCycles s p.1 < remainingCycles s q.1 then some p else acc) none

/-- G5 at program start (R14). -/
def startG5 (t : Txn) : Nat := t.prog % 65536 + t.pd.cls % 4 * 2 ^ 16 + t.replays % 16 * 2 ^ 18

/-- The lower half at program start (R14, R68). -/
def startLo (s : State) (t : Txn) (c : CoreId) (b : BankId) : Vector Word 16 :=
  let w (n : Nat) : Word := BitVec.ofNat 64 n
  ((((((((Vector.replicate 16 0).set 1 (w t.g1)).set 2 (w t.g2)).set 3 (w t.an)).set 4 (w t.deadline)).set 5
    (w (startG5 t))).set 6 (w (s.getF Fld.XLT_SCR_VA_VA * 4096 + scratchOff s c b))).set 7 (w (t.pd.scratchKib * 1024)))

/-- The bank at program start (R14): every register that the table does not list is zero. -/
def startBank (s : State) (t : Txn) (c : CoreId) (b : BankId) : Bank :=
  { lo := startLo s t c b, w0 := Vector.replicate 16 0, w1 := Vector.replicate 16 0, pc := BitVec.ofNat 64 t.pd.entry,
    status := BitVec.ofNat 64 (3 + t.pd.key % 16 * 2 ^ 20), bwr := 0, asid := BitVec.ofNat 64 (t.pd.asid % 4096),
    an := BitVec.ofNat 64 t.an, deadline := BitVec.ofNat 64 t.deadline, epc := 0, cause := 0, badaddr := 0, fpctl := 0,
    dctl := 0, pend := [],
    ctx := some { an := t.an, run := t.run, block := none, usedF := false, usedD := false, mcycles := 0 } }

/-- Binds a transaction into a bank (R14, R15, R68, R88): the scratch area is zeroed, the response record and the write
log are as at the start. -/
def bindInto (s : State) (t : Txn) (c : CoreId) (b : BankId) : State :=
  let s1 := tileWrite s (tileOf c) (tileAddr (tileOf c).val (scratchOff s c b)) (zeros (t.pd.scratchKib * 1024))
  let s2 := tileWrite (tileWrite s1 (tileOf c) t.rspPa t.rspImage) (tileOf c) (wlogAddr s c b) (zeros 1024)
  let s3 := s2.modTxn t.an fun t => { t with phase := .bound c b, owner := .owned }
  s3.modCore c fun k => Core.select (k.setBank b (startBank s t c b))

/-- The context that a bank wound would wound (R89): the latest bound context of an in-service core of the tile that is
not running and has not retired COMMIT, if the head comes before it. -/
def bankVictim (s : State) (t : TileId) (h : Txn) : Option Txn :=
  ((s.txns.filter fun x =>
    match x.phase with
    | .bound c b => decide (tileOf c = t) && coreServes s c && decide (x.owner = .owned) &&
        decide ((s.core c).cur ≠ some b) &&
        (match (s.core c).b15 with | some y => y.bank != b | none => true) &&
        older h.deadline h.an x.deadline x.an
    | _ => false)).foldl (fun acc x =>
      match acc with
      | none => some x
      | some y => if older y.deadline y.an x.deadline x.an then some x else acc) none

/-- BIND (R88, R89). A tile that quiesces or does not run binds no new transaction (R387). -/
def execBind (t : TileId) (s : State) : Host.Outcome State Fault Refusal :=
  .next (if !tileInService s t then s else match queueHead s t with
    | none => s
    | some h =>
      match bindPlace s t with
      | some (c, b) => bindInto s h c b
      | none =>
        match bankVictim s t h with
        | none => s
        | some v =>
          let s1 := endRun (s.bump Off.LDG_WOUND_CNT) v.an .countedReplay
          match bindPlace s1 t with
          | some (c, b) => bindInto s1 h c b
          | none => s1)

/-! ## Selection, timers and cut-offs -/

/-- CALLER_STOP (R87, R101, R112): the running context is stopped at an interrupt point for one that comes first; bank
15 is not stopped, nor an instruction that still waits. -/
def execCallerStop (c : CoreId) (s : State) : Host.Outcome State Fault Refusal :=
  .next (s.modCore c fun k =>
    match k.cur, k.best with
    | some b, some n =>
      if b ≠ bank15 ∧ b ≠ n ∧ k.wait = none ∧ k.svc = .inService ∧ (k.bank n).before (k.bank b) then k.switchTo n else k
    | _, _ => k)

/-- TIMER_EXPIRY (R86): the caller's timer of a context has reached its DEVTIME. -/
def execTimerExpiry (c : CoreId) (b : BankId) (s : State) : Host.Outcome State Fault Refusal :=
  .next (match (s.bank c b).ctx with
    | some x =>
      match x.block with
      | some (.timer t) => if t ≤ s.now then wake s c b else s
      | _ => s
    | none => s)

/-- WAITT Ga (R86, R196). -/
def execWaitt (c : CoreId) (a : Reg) (s : State) : Host.Outcome State Fault Refusal :=
  .next (baseInstr c (fun b s =>
    if b = bank15 then .trap s 0x0C 0
    else .own (blockOn s c b (.timer (s.g c b a).toNat))) s)

/-- Declines a transaction that has no JSN, bound or not (R33, R34, R86, R101). -/
def cutOffTxn (s : State) (t : Txn) (reason : Nat) : State :=
  match t.phase with
  | .bound c b => cutOff s c b reason
  | _ => endRun s t.an (.decline reason)

/-- DEADLINE_ALARM (R33, R34): fires ADM_EGRESS.NS before the deadline of a transaction without a JSN. -/
def execDeadlineAlarm (an : Nat) (s : State) : Host.Outcome State Fault Refusal :=
  .next (match s.txn? an with
    | some t => if t.undecided ∧ t.jsn = none ∧ t.deadline ≤ s.now + t.egress then cutOffTxn s t 0x13 else s
    | none => s)

/-- BUDGET_EXCEEDED (R33, R93): the cycles of a run exceed CYCLES before COMMIT has retired. -/
def execBudgetExceeded (c : CoreId) (b : BankId) (s : State) : Host.Outcome State Fault Refusal :=
  .next (match (s.bank c b).ctx, ctxTxn s c b with
    | some x, some t =>
      if t.owner = .owned ∧ t.pd.cycles * 1000 < x.mcycles then cutOff s c b 0x10 else s
    | _, _ => s)

/-- Whether a context has a request outstanding at a boundary: it is blocked on the ledger or on crypto, or its core's
access waits (R383, R385). -/
def requestOut (s : State) (c : CoreId) (b : BankId) (x : Ctx) : Bool :=
  match x.block with
  | some .ledger => true
  | some .crypto => true
  | some _ => false
  | none => decide ((s.core c).cur = some b) ||
      (decide ((s.core c).cur = some bank15) && (match (s.core c).b15 with | some y => y.bank == b | none => false))

/-- BOUNDARY_RESPONSE (R86, R385): ISLAND_ABSENT or ISLAND_RESET ends the run for a fault replay (R254). -/
def execBoundaryResponse (c : CoreId) (b : BankId) (k : Boundary) (s : State) : Host.Outcome State Fault Refusal :=
  have _ := k
  .next (match (s.bank c b).ctx with
    | some x => if requestOut s c b x then endIfOwned s x.an x.run .faultReplay else s
    | none => s)

/-- The run of a context that waits at a boundary ends for a fault replay (R385). -/
def boundaryReset (s : State) (p : CoreId × BankId) : State :=
  match (s.bank p.1 p.2).ctx with
  | some x => if requestOut s p.1 p.2 x then endIfOwned s x.an x.run .faultReplay else s
  | none => s

/-- MACHINE_CHECK (R400): a machine-check event reaches the owner flag of the context in a bank. -/
def execMachineCheck (c : CoreId) (b : BankId) (s : State) : Host.Outcome State Fault Refusal :=
  .next (match (s.bank c b).ctx with
    | some x =>
      if s.mchks.contains (x.an, x.run) then
        endIfOwned { s with mchks := s.mchks.filter fun p => p != (x.an, x.run) } x.an x.run .faultReplay
      else s
    | none => s)

/-- BANK15_TIMEOUT (R101): bank 15 has been current for 10,000 core cycles. -/
def execBank15Timeout (c : CoreId) (s : State) : Host.Outcome State Fault Refusal :=
  .next (match (s.core c).cur, (s.core c).b15 with
    | some b, some x =>
      if b = bank15 ∧ 10000000 ≤ x.mcycles then quarantine s c x.bank x.cause 0x15 else s
    | _, _ => s)

/-! ## Faults of a core -/

/-- The runs bound to a core. -/
def Core.runs (k : Core) : List (Nat × Nat) :=
  contextBanks.filterMap fun b => (k.bank b).ctx.map fun x => (x.an, x.run)

/-- A fault machine check of CLASS 0x01 (R399, R401): the core stops, the entry names MCHK, the current bank and its
EPC, every bound context is sent a machine check, and the core starts its self-test. What its queues still hold is
lost (log 46). -/
def faultStop (s : State) (c : CoreId) : State :=
  let k := s.core c
  if k.svc = .inService then
    let b : BankId := k.cur.getD 0
    let s1 := s.report { island := (coreUnit c).1, unit := (coreUnit c).2, cls := .core, severity := 1, code := 0x01,
                         bank := b.val, an := (match k.cur with | some b => (k.bank b).an.toNat | none => 0),
                         detail := (match k.cur with | some b => (k.bank b).pc.toNat | none => 0) }
    let s2 := s1.modCore c fun k =>
      { k with svc := .testing, cur := none, b15 := none, wait := none, pq := [], sq := [], posted := [],
               win := [], need := none, smc := false, port := false, bp := Predictor.reset, fOwner := none, dOwner := none }
    let s3 := { l1Empty s2 c with mchks := s2.mchks ++ k.runs }
    let f := Fld.ERR_CORE_MAP_INSVC (c.val / 64)
    faultHold (startTest (s3.setF f (putBits (s3.getF f) (c.val % 64) 1 0)) (.core c))
  else s

/-- CORE_FAULT_STOP (R399). -/
def execCoreFaultStop (c : CoreId) (s : State) : Host.Outcome State Fault Refusal := .next (faultStop s c)

/-- MICROCODE_WATCHDOG (R414): 256 counted microcycles of a sequenced instruction of the running context. -/
def execMicrocodeWatchdog (c : CoreId) (s : State) : Host.Outcome State Fault Refusal :=
  .next (match readyBank s c with
    | some _ => faultStop s c
    | none => s)

/-- WAIT_BOUND_EXPIRY (R415): MEM ends its access under R131, OLDEST has no bound, every other condition is a fault. -/
def execWaitBoundExpiry (c : CoreId) (code : Fin 7) (addr : Word) (s : State) : Host.Outcome State Fault Refusal :=
  .next (match readyBank s c with
    | none => s
    | some b => if code = 0 then trapMchk s c b addr else if code = 5 then s else faultStop s c)

/-- CONTROL_STORE_SCRUB (R419): a single-bit error is corrected and counted; a double-bit error is rewritten from the
retention copy and is a fault of CLASS 0x01. -/
def execControlStoreScrub (c : CoreId) (word : Nat) (e : EccState) (s : State) : Host.Outcome State Fault Refusal :=
  .next (match e with
    | .clean => s
    | .single =>
      if (s.core c).svc = .inService ∧ word < 16384 then
        s.report { island := (coreUnit c).1, unit := (coreUnit c).2, cls := .core, severity := 0, detail := word }
      else s
    | .uncorrectable => if word < 16384 then faultStop s c else s)

end Sys2Proof.Machine
end

