-- ==== Sys2Proof/Machine/LedgerOps.lean ====
section
/-! DEFINITION. The ledger instructions (R236 to R242, R249, R250) and the events of the ledger store: responses, wounds
and the release of an ended run (R238, R245, R246). -/

namespace Sys2Proof.Machine

/-! ## Placement (R240, R316) -/

/-- The shard-map entry of a hash (R316). -/
def shardEntry (s : State) (h : Nat) : Nat := leNat (s.rd (s.getF Fld.KOL_SMAP_BASE * 4096 + 2 * bitsOf h 32 16) 2)

/-- The node that holds a key (R240). -/
def ownerOf (s : State) (x : Bench) (h : Nat) : Nat := if x.sharded then bitsOf (shardEntry s h) 0 10 else s.node

/-- Whether the slice of a key is frozen (R318). -/
def frozenKey (s : State) (x : Bench) (h : Nat) : Bool := x.sharded && bitAt (shardEntry s h) 15

/-! ## Issue -/

/-- Whether the write log has room for an operation (R236, R242): a new key takes an entry, and a first STL an image. -/
def logRoom (s : State) (l : List WEntry) (bench : Nat) (op : LOp) (key : Option (List Byte)) : Bool :=
  let old := key.bind fun k => logEntry l bench k
  let needImg := op == .stl && (old.bind fun e => e.img).isNone
  (old.isSome || decide (l.length < 64)) &&
    (!needImg || decide (64 * nextImage s l + (s.bench bench).recSize ≤ 16384))

/-- Whether an operation would exceed LDG_OPS or REMOTE_OPS (R33, R240). -/
def overLedger (t : Txn) (remote : Bool) : Bool :=
  if remote then decide (t.pd.remoteOps < t.nRemote + 1) else decide (t.pd.ldgOps < t.nLdg + 1)

/-- The OP code of LOP (R309). -/
def LOp.code : LOp → Nat
  | .ldl => 0 | .ldlu => 1 | .stl => 2 | .del => 3

/-- The body of LOP (R309). -/
def lopBody (op bench hash : Nat) (key data : List Byte) : List Byte :=
  bytesOf [op, bench, key.length, 0] ++ leBytes 4 data.length ++ leBytes 8 hash ++
    sliceOf key 0 (roundUp key.length 8) ++ data

/-- Sends an issued operation to the ledger store that holds its key (R237, R240, R244, R318, R323). -/
def issueOp (s : State) (r : LReq) : State :=
  let x := s.bench r.bench
  let refused (s : State) : State := { s with ldg := { s.ldg with reqs := s.ldg.reqs ++ [{ r with st := .refused }] } }
  let node := ownerOf s x r.hash
  if node ≠ s.node then
    if !kolEnabled s then refused s
    else
      let q := kolRequest s node (.lop r.an r.run r.core r.bank) 0x10 r.akey r.an r.deadline
        (tagOf r.core r.bank r.run) (lopBody r.op.code r.bench r.hash r.key r.data)
      { q.2 with ldg := { q.2.ldg with reqs := q.2.ldg.reqs ++ [{ r with remote := some (node, q.1) }] } }
  else if frozenKey s x r.hash then refused s
  else
    let s0 := mpuSettled s
    let l := match s0.txn? r.an with | some t => logOf s0 t | none => []
    match refuseOp s0 r.initiator r.bench l r.op r.key r.akey with
    | some s1 => refused s1
    | none => requestLock s0 r

/-- The operand checks of R236 that come after LDG_OP: the key's parts, then the buffer's. -/
def ledgerParts (s : State) (c : CoreId) (b : BankId) (op : LOp) (gk gr klen size : Nat) :
    Except Refused (List (Phys × Nat) × List (Phys × Nat)) :=
  match checkRange s c b .read gk klen with
  | .error e => .error e
  | .ok k =>
    match op with
    | .del => .ok (k, [])
    | _ =>
      match checkRange s c b (if op = .stl then .read else .write) gr size with
      | .error e => .error e
      | .ok p => .ok (k, p)

/-- The read of the key for the room check, where its checks pass. -/
def peekRead (s : State) (c : CoreId) (b : BankId) (gk klen : Nat) : Option (List Byte × State) :=
  match checkRange s c b .read gk klen with
  | .ok ps => some (readParts s c ps)
  | .error _ => none

/-- The key bytes that the room check looks up, where they can be read. -/
def peekKey (s : State) (c : CoreId) (b : BankId) (gk klen : Nat) : Option (List Byte) :=
  (peekRead s c b gk klen).map fun r => r.1

/-- The key lies behind a remote window that has not answered yet (R121, R199): the state in which the core asks for it. -/
def peekAsks (s : State) (c : CoreId) (b : BankId) (gk klen : Nat) : Option State :=
  match peekRead s c b gk klen with
  | some r => if (r.2.core c).need.isSome then some r.2 else none
  | none => none

/-- The read of an instruction's key and, for STL, of its record (R236). -/
def ledgerRead (s : State) (c : CoreId) (op : LOp) (kp bp : List (Phys × Nat)) : List Byte × List Byte × State :=
  let k := readParts s c kp
  let d := if op = .stl then readParts k.2 c bp else ([], k.2)
  (k.1, d.1, d.2)

/-- Issues a ledger instruction whose checks have passed (R236). -/
def ledgerIssue (c : CoreId) (b : BankId) (op : LOp) (bench : Nat) (t : Txn) (kp bp : List (Phys × Nat)) (s : State) :
    State :=
  let x := s.bench bench
  let r := ledgerRead s c op kp bp
  let s1 := markParts (markParts r.2.2 c kp) c bp
  let h := x.hashOf r.1
  let remote := decide (ownerOf s1 x h ≠ s1.node)
  if overLedger t remote then cutOff s1 c b 0x12
  else
    let q : LReq :=
      { an := t.an, run := t.run, core := c, bank := b, op := op, bench := bench, hash := h, key := r.1,
        buf := physParts bp, data := (r.2.1.drop x.dataOff).take x.dataLen, akey := (s1.bank c b).key,
        user := (s1.bank c b).user, deadline := t.deadline, st := .waiting, peer := none, remote := none,
        sent := [] }
    let s2 := s1.modTxn t.an fun t => if remote then { t with nRemote := t.nRemote + 1 } else { t with nLdg := t.nLdg + 1 }
    issueOp (blockOn s2 c b .ledger) q

/-- The body of LDL, LDLU, STL and DEL (R236). -/
def ledgerBody (op : LOp) (c : CoreId) (r k n : Reg) (b : BankId) (s : State) : IRes :=
  let gn := (s.g c b n).toNat
  let gr := (s.g c b r).toNat
  let gk := (s.g c b k).toNat
  let bench := gn % 256
  let x := s.bench bench
  if b = bank15 then .trap s 0x0C 0
  else match ctxTxn s c b with
    | none => .hold s
    | some t =>
      if s.getF Fld.LDG_CTRL_ENABLE = 0 ∨ 256 ≤ gn ∨ !x.online ∨ (op ≠ .del ∧ gr % 64 ≠ 0) then .trap s 0x28 0
      else match peekAsks s c b gk x.klen with
      | some s1 => .hold s1
      | none =>
        if !logRoom s (logOf s t) bench op (peekKey s c b gk x.klen) then .trap s 0x28 0
        else match ledgerParts s c b op gk gr x.klen x.recSize with
          | .error e => .trap s e.cause (BitVec.ofNat 64 e.bad)
          | .ok (kp, bp) =>
            let s1 := (ledgerRead s c op kp bp).2.2
            if (s1.core c).need.isSome then .hold s1 else .own (ledgerIssue c b op bench t kp bp s)

/-- LDL Gr, Gk, Gn (R236, R238). -/
def execLdl (c : CoreId) (r k n : Reg) (s : State) : Host.Outcome State Fault Refusal :=
  .next (baseInstr c (ledgerBody .ldl c r k n) s)

/-- LDLU Gr, Gk, Gn (R236, R238). -/
def execLdlu (c : CoreId) (r k n : Reg) (s : State) : Host.Outcome State Fault Refusal :=
  .next (baseInstr c (ledgerBody .ldlu c r k n) s)

/-- STL Gr, Gk, Gn (R236, R238). -/
def execStl (c : CoreId) (r k n : Reg) (s : State) : Host.Outcome State Fault Refusal :=
  .next (baseInstr c (ledgerBody .stl c r k n) s)

/-- DEL Gk, Gn (R236, R238). -/
def execDel (c : CoreId) (k n : Reg) (s : State) : Host.Outcome State Fault Refusal :=
  .next (baseInstr c (ledgerBody .del c 0 k n) s)

/-! ## COMMIT and ABORT -/

/-- At COMMIT retirement a response record in a small slot is copied to its extension (R403). -/
def copyResponse (s : State) (t : Txn) : State :=
  match targetOf t.rspPa with
  | .tile _ _ => s.wr (extRsp s t.home t.slot) (s.rd t.rspPa (s.getF Fld.XLT_REC_RSP_BYTES))
  | _ => s

/-- The other nodes that a write log names (R324). -/
def logNodes (s : State) (l : List WEntry) : List Nat := ((l.map fun e => e.node).filter fun n => n != s.node).eraseDups

/-- Sends PREPARE to every participant of a COMMIT (R309, R324). -/
def sendPrepares (s : State) (t : Txn) : State :=
  let ns := logNodes s t.wlog
  if ns = [] then s
  else
    let x : XPrep := { an := t.an, run := t.run, answers := ns.map fun n => (n, none) }
    ns.foldl (fun s n =>
      (kolRequest s n (.prepare t.an t.run) 0x11 t.pd.key t.an t.deadline (fun no => runTag t + no * 2 ^ 15)
        (leBytes 2 (t.wlog.countP fun e => e.node == n) ++ zeros 6)).2)
      { s with kol := { s.kol with preps := s.kol.preps ++ [x] } }

/-- COMMIT retires (R91, R245, R250): the flag is COMMITTING and the write log is with JNL, as it then stands in the tile store
(R242). -/
def commitRetire (c : CoreId) (b : BankId) (t : Txn) (s : State) : State :=
  let s1 := blockOn (settleRun s t) c b .commit
  let l := logOf s1 t
  sendPrepares ((copyResponse s1 t).modTxn t.an fun t => { t with owner := .committing, wlog := l }) { t with wlog := l }

/-- COMMIT (R250, R196). -/
def execCommit (c : CoreId) (s : State) : Host.Outcome State Fault Refusal :=
  .next (baseInstr c (fun b s =>
    if b = bank15 then .trap s 0x0C 0
    else if s.getF Fld.LDG_CTRL_ENABLE = 0 then .trap s 0x28 0
    else match ctxTxn s c b with
      | some t => .own (commitRetire c b t s)
      | none => .hold s) s)

/-- A reason word of the form of R249. -/
def abortForm (v : Nat) : Bool := decide (v < 512 ∧ 0x40 ≤ v % 256 ∧ v % 256 ≤ 0x7F)

/-- ABORT Ga (R249). -/
def execAbort (c : CoreId) (a : Reg) (s : State) : Host.Outcome State Fault Refusal :=
  .next (baseInstr c (fun b s =>
    let v := (s.g c b a).toNat
    if b = bank15 then .trap s 0x0C 0
    else if s.getF Fld.LDG_CTRL_ENABLE = 0 ∨ !abortForm v then .trap s 0x28 0
    else match ctxTxn s c b with
      | some t =>
        .own (endRun ((reportCycles s c b).bump Off.LDG_ABORT_CNT) t.an
          (if bitAt v 8 then .countedReplay else .decline (v % 256)))
      | none => .hold s) s)

/-! ## Events -/

/-- Writes a record to the captured parts of a buffer, and moves append pointers (R217). -/
def writeBuffer (s : State) (c : CoreId) (i : Initiator) : List (Nat × Nat) → List Byte → State
  | [], _ => s
  | (p, n) :: t, bs => writeBuffer (hwWrite (appendAdvance s i p n) c p (bs.take n)) c i t (bs.drop n)

/-- The response to a local context (R238): log, buffer, CC, and the context runs again. -/
def respond (s0 : State) (r : LReq) (node : Nat) (a : LAns) : State :=
  match s0.txn? r.an with
  | none => s0
  | some t =>
    let s := settleRun s0 t
    let l0 := logOf s t
    let e := stepEntry s l0 node r.bench r.hash r.key r.op a.cc r.data a.slot
    let l := putEntry l0 e
    let s1 := storeLog (s.modTxn r.an fun t => { t with wlog := l }) r.core r.bank t.wlog.length l e
    let s2 := if a.record = [] then s1 else writeBuffer s1 r.core r.initiator r.buf a.record
    wake (s2.setCC r.core r.bank a.cc) r.core r.bank

/-- Whether a request's run is still bound where it was issued. -/
def reqLive (s : State) (r : LReq) : Bool :=
  match s.txn? r.an with
  | some t => t.run == r.run && decide (t.phase = .bound r.core r.bank)
  | none => false

/-- The granted operation of a local context acts and is answered (R238). Its accesses are checked again, as what it meets may
have changed while it waited (R237); one that reads lost data ends its run (R257). -/
def localAct (s0 : State) (r : LReq) : State :=
  match s0.txn? r.an with
  | none => s0
  | some t =>
    let s := settleRun s0 t
    let l := logOf s t
    match refuseOp s r.initiator r.bench l r.op r.key r.akey with
    | some s1 => regrant (wake ((undoLock s1 r l).setCC r.core r.bank 3) r.core r.bank)
    | none =>
      if opPoisoned s r.bench l r.op r.key then endIfOwned s r.an r.run .faultReplay
      else
        let (a, s1) := ledgerAct s r.an r.run r.bench r.hash l r.op r.key
        respond (s1.bump Off.LDG_OPS_CNT) r s1.node a

/-- LEDGER_RESPONSE (R86, R237, R238): the granted or refused local operation of a bank is answered. -/
def execLedgerResponse (c : CoreId) (b : BankId) (s : State) : Host.Outcome State Fault Refusal :=
  .next (match s.ldg.reqs.find? fun r => r.core == c && r.bank == b && r.peer.isNone && r.remote.isNone &&
      decide (r.st ≠ .waiting) && reqLive s r with
    | none => s
    | some r =>
      let s1 := mpuSettled (dropLReq s r.an r.run)
      if r.st = .refused then wake (s1.setCC c b 3) c b else localAct s1 r)

/-- A wound acts on the owner flag of a run (R245): one that finds OWNED is counted and ends the run. -/
def woundRun (s : State) (an run : Nat) : State :=
  match s.txn? an with
  | some t => if t.owner = .owned ∧ t.run = run then endRun (s.bump Off.LDG_WOUND_CNT) an .countedReplay else s
  | none => s

/-- WOUND (R245): a wound reaches the owner flag of the context in a bank. -/
def execWound (c : CoreId) (b : BankId) (s : State) : Host.Outcome State Fault Refusal :=
  .next (match (s.bank c b).ctx with
    | some x =>
      if s.ldg.wounds.contains (x.an, x.run) then
        woundRun { s with ldg := { s.ldg with wounds := s.ldg.wounds.filter fun p => p != (x.an, x.run) } } x.an x.run
      else s
    | none => s)

/-- RELEASE to the nodes of an ended run (R321). -/
def sendRelease (s : State) (an deadline tag : Nat) (ns : List Nat) : State :=
  kolSendAll s ns fun n => { type := 0x31, dest := n, an := an, deadline := deadline, tag := tag, body := zeros 8 }

/-- Releases what one ended run held, here and at its peers (R246, R321). -/
def releaseEnded (s : State) (e : EndedRun) : State :=
  let s1 := releaseRun s e.an e.run
  let s2 := { s1 with
    ldg := { s1.ldg with ended := s1.ldg.ended.filter fun q => q != e, wounds := s1.ldg.wounds.filter fun p => p != (e.an, e.run) },
    kol := { s1.kol with preps := s1.kol.preps.filter fun p => !(p.an == e.an && p.run == e.run) } }
  sendRelease s2 e.an e.deadline e.tag e.nodes

/-- RUN_END_RELEASE (R246). -/
def execRunEndRelease (an : Nat) (s : State) : Host.Outcome State Fault Refusal :=
  .next ((s.ldg.ended.filter fun e => e.an == an).foldl releaseEnded s)

end Sys2Proof.Machine
end

