-- ==== Sys2Proof/Machine/JournalOps.lean ====
section
/-! DEFINITION. The journal at work (13): JSN assignment and commit (R250 to R252), completion and mirroring (R284 to R287),
epochs and their seals (R289 to R293), export (R294), and global seals (R295). -/

namespace Sys2Proof.Machine

/-! ## JSN assignment -/

/-- The answers of a run's participants, if any were asked (R324). -/
def prepOf (s : State) (an run : Nat) : Option XPrep := s.kol.preps.find? fun p => p.an == an && p.run == run

/-- Forgets the answers of a run's participants. -/
def dropPrep (s : State) (an run : Nat) : State :=
  { s with kol := { s.kol with preps := s.kol.preps.filter fun p => !(p.an == an && p.run == run) } }

/-- Whether every lock of a log on this node is still held by the run (R250). -/
def locksHeld (s : State) (t : Txn) : Bool :=
  t.wlog.all fun e => e.node != s.node ||
    s.ldg.locks.any fun k => k.bench == e.bench && k.hash == e.hash && k.an == t.an && k.run == t.run &&
      (k.excl || decide (e.op = .shared))

/-- What validation finds (R250, R325): a pass, a refusal, or answers that are still outstanding. -/
inductive Verdict where
  | pass
  | refuse (e : RunEnd)
  | waits
  deriving DecidableEq, Repr

/-- Validation of a log (R250, R252, R325). -/
def validate (s : State) (t : Txn) : Verdict :=
  let as : List (Option Nat) := match prepOf s t.an t.run with | some p => p.answers.map fun a => a.2 | none => []
  if as.any fun a => a.isNone then .waits
  else if as.any fun a => a == some 3 || a == some 4 then .refuse .faultReplay
  else if as.any fun a => a == some 2 then .refuse .countedReplay
  else if locksHeld s t then .pass else .refuse .faultReplay

/-- Sends APPLY to the participants of a commit (R326). -/
def sendApply (s : State) (an run deadline tag jsn node : Nat) : State :=
  kolSend { s with kol := { s.kol with
      applies := s.kol.applies ++ [{ an := an, run := run, deadline := deadline, node := node, tag := tag, jsn := jsn, at_ := s.now }] } }
    { type := 0x32, dest := node, an := an, deadline := deadline, tag := tag, body := leBytes 8 jsn }

/-- The bank of a committed context is free (R91). -/
def freeContext (s : State) (t : Txn) : State :=
  match t.where_ with
  | some (c, b) => s.modCore c fun k => k.freeBank b
  | none => s

/-- A log that passes (R250, R251): its record takes the next JSN, its writes are applied, its locks released, and its
participants told. -/
def commitTxn (s : State) (t : Txn) : State :=
  let j := s.jnl.next
  let s1 := (assignRec s (commitHead t 0) (writeEntries s t.wlog)).bump Off.JNL_COMMIT_CNT
  let s2 := releaseRun (applyWrites s1 j t.an t.run t.wlog) t.an t.run
  let s3 := (freeContext (dropPrep s2 t.an t.run) t).modTxn t.an fun t =>
    { t with phase := .committed, owner := .ended, jsn := some j }
  noteFull ((logNodes s t.wlog).foldl (fun s n => sendApply s t.an t.run t.deadline (runTag t) j n) s3).countOutstanding

/-- JSN_ASSIGNMENT (R250, R252): the COMMIT of a transaction reaches JSN assignment. -/
def execJsnAssignment (an : Nat) (s : State) : Host.Outcome State Fault Refusal :=
  .next (match s.txn? an with
    | none => s
    | some t =>
      if t.owner = .committing ∧ t.jsn = none then
        match validate s t with
        | .waits => s
        | .refuse e => endRun s an e
        | .pass => if canAssign s then commitTxn s t else noteFull s
      else s)

/-! ## Completion and the mirror -/

/-- RECORD_COMPLETE (R285). -/
def execRecordComplete (s : State) : Host.Outcome State Fault Refusal :=
  .next (match nextRec s with | some r => completeRec s r | none => s)

/-- Splits the bytes of a group into mirror entries by their LEN fields (R286). -/
def splitEntries : Nat → List Byte → List (List Byte)
  | 0, _ => []
  | f + 1, bs =>
    if bs = [] then [] else
    let n := 64 + fld bs 8 4
    bs.take n :: splitEntries f (bs.drop n)

/-- The entries of a group. -/
def MGroup.entries (g : MGroup) : List (List Byte) := splitEntries g.jsns.length g.bytes

/-- Bytes of the mirror ring that a group takes (R337). -/
def MGroup.ringLen (g : MGroup) : Nat := (g.entries.map fun e => roundUp e.length 64).foldl (· + ·) 0

/-- Posts the entries of a group on MIR; false if the ring stops on the way. -/
def postEntries : List (List Byte) → State → Bool × State
  | [], s => (true, s)
  | e :: t, s =>
    match postBytes s ringMIR e with
    | .done s1 _ => postEntries t s1
    | .wait s1 => (false, s1)
    | .stopped s1 => (false, s1)

/-- Sends a group to the mirror peer as MIRROR messages of up to 4,096 bytes (R330); `off` is the next GOFF. -/
def sendMirror (first : Nat) : Nat → Nat → List Byte → State → State
  | 0, _, _, s => s
  | f + 1, off, bs, s =>
    let d := bs.take 4096
    let rest := bs.drop 4096
    let s1 := kolSend s { type := 0x14, dest := s.getF Fld.JNL_MIRROR_PEER, flags := b2n (decide (rest = [])),
                          body := leBytes 8 first ++ leBytes 4 off ++ leBytes 4 d.length ++ d }
    if rest = [] then s1 else sendMirror first f (off + 4096) rest s1

/-- Sends a group to the peer. -/
def mirrorToPeer (s : State) (g : MGroup) : State := sendMirror g.first (g.bytes.length / 4096 + 1) 0 g.bytes s

/-- JNL_MIRROR.TARGET names the host ring. -/
def toHost (s : State) : Bool := s.getF Fld.JNL_MIRROR_TARGET == 0 || s.getF Fld.JNL_MIRROR_TARGET == 2
/-- JNL_MIRROR.TARGET names the Kolat peer. -/
def toPeer (s : State) : Bool := s.getF Fld.JNL_MIRROR_TARGET == 1 || s.getF Fld.JNL_MIRROR_TARGET == 2

/-- Where the last 8 bytes of a group on MIR lie in host memory (R286). -/
def probeAddr (s : State) : Nat :=
  s.getF (Fld.HIF_RING_BASE_BASE ringMIR.val) * 4096 + ((s.ring ringMIR).prod + ringSize s ringMIR - 8) % ringSize s ringMIR

/-- The group has been sent and waits for its acknowledgement. In PCIe mode a read of its last 8 bytes on MIR follows it
(R286). -/
def groupSent (s : State) (g : MGroup) : State :=
  let probe := if toHost s ∧ s.getF Fld.HIF_STATUS_MODE = 1 then some (probeAddr s) else none
  let s1 : State := { s with jnl := { s.jnl with
    due := s.jnl.due.filter fun x => x.first != g.first,
    sent := s.jnl.sent ++ [{ g with at_ := s.now, host := toHost s, peer := toPeer s, late := false, probe := probe }] } }
  match probe with
  | some a => { s1 with out := s1.out ++ [.hostRead a 8] }
  | none => s1

/-- A group that finds no room on MIR waits and is counted (R353). -/
def groupWaits (s : State) (g : MGroup) : State :=
  if g.late then s
  else
    let s1 := ((noteWait s ringMIR).setF (Fld.HIF_RING_STATE_WAIT ringMIR.val) 1).bump Off.HIF_WAIT_CNT
    { s1 with jnl := { s1.jnl with
      due := s1.jnl.due.map fun x => if x.first = g.first then { x with late := true } else x } }

/-- Sends a group to its targets (R286, R330, R353). -/
def sendGroup (s : State) (g : MGroup) : State :=
  if toHost s then
    if !ringRuns s ringMIR then s
    else if !decide (ringUsed s ringMIR + g.ringLen ≤ ringSize s ringMIR) then groupWaits s g
    else match postEntries g.entries s with
      | (true, s1) => groupSent (if toPeer s then mirrorToPeer s1 g else s1) g
      | (false, s1) => s1
  else groupSent (mirrorToPeer s g) g

/-- The group in gathering closes GROUP_NS after its first entry (R286). -/
def closeExpired (s : State) : State :=
  match s.jnl.group with
  | some g => if g.at_ + s.getF Fld.JNL_MIRROR_GROUP_NS ≤ s.now then closeGroup s else s
  | none => s

/-- MIRROR_GROUP_SEND (R286): the first group that has reached 64 KiB, or whose first entry is GROUP_NS old, is sent. -/
def execMirrorGroupSend (s : State) : Host.Outcome State Fault Refusal :=
  .next (match (closeExpired s).jnl.due with
    | g :: _ => sendGroup (closeExpired s) g
    | [] => s)

/-- A group acknowledged by every target (R16, R286): its committed responses are handed on. -/
def ackGroup (s : State) (g : MGroup) : State :=
  let s1 : State := { s with jnl := { s.jnl with
    sent := s.jnl.sent.filter fun x => x.first != g.first,
    recs := s.jnl.recs.map fun r => if g.jsns.contains r.jsn then { r with acked := true } else r } }
  let ts := s1.txns.filter fun t => match t.jsn with | some j => g.jsns.contains j | none => false
  ts.foldl (fun s t => handWhenReady (s.modTxn t.an fun t => { t with mirrored := true }) t.an) s1

/-- One target acknowledges a group. -/
def ackTarget (s : State) (g : MGroup) (host : Bool) : State :=
  let g1 : MGroup := if host then { g with host := false } else { g with peer := false }
  if g1.host ∨ g1.peer then
    { s with jnl := { s.jnl with sent := s.jnl.sent.map fun x => if x.first = g.first then g1 else x } }
  else ackGroup s g1

/-- MIRROR_ACK (R286, R330): the host's acknowledgement of the oldest group that lacks it, while a host link is up: the
global-observation response in CXL mode, the completion of the read in PCIe mode; or a peer's message. -/
def execMirrorAck (m : MirrorFrom) (s : State) : Host.Outcome State Fault Refusal :=
  .next (match m with
    | .host =>
      match s.jnl.sent.find? fun g => g.host with
      | some g => if s.getF Fld.HIF_STATUS_MODE = 0 then s else ackTarget s g true
      | none => s
    | .kolat h first glen => onMessage s h 0x23 (leBytes 8 first ++ leBytes 4 glen ++ zeros 4) fun s =>
        match s.jnl.sent.find? fun g => g.peer && g.first == first && g.bytes.length == glen with
        | some g => if h.src = s.getF Fld.JNL_MIRROR_PEER then ackTarget s g false else s
        | none => s)

/-- Marks a group late (R287). -/
def markLate (s : State) (g : MGroup) : State :=
  let s1 := if g.late then s else (s.setF Fld.JNL_STATUS_MIRROR_LATE 1).bump Off.JNL_MLATE_CNT
  let s2 := { s1 with jnl := { s1.jnl with
    sent := s1.jnl.sent.map fun x => if x.first = g.first then { x with late := true, at_ := s.now } else x } }
  if g.peer then mirrorToPeer s2 g else s2

/-- MIRROR_TARGET_TIMEOUT (R287, R330): a group is unacknowledged TARGET_NS after it was sent; a peer's is sent again. -/
def execMirrorTargetTimeout (s : State) : Host.Outcome State Fault Refusal :=
  .next (match s.jnl.sent.find? fun g =>
      decide (g.at_ + s.getF Fld.JNL_MIRROR_TARGET_NS < s.now) && (!g.late || g.peer) with
    | some g => markLate s g
    | none => s)

/-! ## Epochs -/

/-- The seam that falls next and its GEPOCH (R289, R314): the next multiple of LEN_US, or the one that a TICK named. -/
def nextSeam (s : State) : Option (Nat × Option KTick) :=
  if s.getF Fld.KOL_CTRL_TOPO = 0 then
    let len := 1000 * s.getF Fld.JNL_EPOCH_LEN_US
    some ((s.jnl.seamOpen / len + 1) * len, none)
  else s.kol.tick.map fun t => (t.seam, some t)

/-- At a seam JNL moves to the other area if it is armed and the current one runs low (R288). -/
def areaSwitch (s : State) : State :=
  let a := s.getF Fld.JNL_STATUS_AREA
  if areaFree s a < 1024 * s.getF (Fld.JNL_AREA_LOW_KIB a) ∧ s.getF (Fld.JNL_AREA_ARMED (1 - a)) = 1 then
    queueExport ((s.setF (Fld.JNL_AREA_ARMED a) 0).setF Fld.JNL_STATUS_AREA (1 - a)) (areaEvent a)
  else s

/-- A seam reaches JSN assignment (R289). -/
def doSeam (s : State) (seam : Nat) (t : Option KTick) : State :=
  let e : JEpoch := { epoch := s.getF Fld.JNL_STATUS_EPOCH, first := s.jnl.first, last := s.jnl.next - 1,
                      seamOpen := s.jnl.seamOpen, seamClose := seam, flags := 0, gepoch := t.map fun t => t.gepoch,
                      st := .closing, sealBytes := [], retryAt := 0, exported := 0 }
  let s1 := { s with jnl := { s.jnl with closing := s.jnl.closing ++ [e] } }
  let s2 := s1.setF Fld.JNL_STATUS_EPOCH (e.epoch + 1)
  let s3 := headRec s2 seam (s.jnl.next - 1)
  noteFull (match t with | some t => cascadeSeam s3 t | none => s3)

/-- EPOCH_SEAM (R288, R289). A node that is not yet released has no epoch to close: the seam that a TICK names still applies its
map and passes (R314, R318). -/
def execEpochSeam (s : State) : Host.Outcome State Fault Refusal :=
  .next (match nextSeam s with
    | some (seam, t) =>
      if s.now < seam then s
      else if s.jnl.running then
        let s1 := areaSwitch s
        if canAssign s1 then doSeam s1 seam t else noteFull s1
      else (match t with | some t => cascadeSeam s t | none => s)
    | none => s)

/-- Changes the closing epoch that begins at a JSN. -/
def modEpoch (s : State) (first : Nat) (f : JEpoch → JEpoch) : State :=
  { s with jnl := { s.jnl with closing := s.jnl.closing.map fun e => if e.first = first then f e else e } }

/-- The first epoch whose tree is not closed. -/
def openEpoch (s : State) : Option JEpoch := s.jnl.closing.find? fun e => decide (e.st = .closing)

/-- Every record of an epoch is complete. -/
def epochComplete (s : State) (e : JEpoch) : Bool := (epochRecs s e.first e.last).all fun r => r.complete

/-- The epoch whose seal is to be signed: the first that is not sealed (R293). -/
def sealEpoch (s : State) : Option JEpoch :=
  match s.jnl.closing.find? fun e => decide (e.st ≠ .sealed) with
  | some e => if e.st = .signing then some e else none
  | none => none

/-- The seal deadline of an epoch (R293). -/
def sealDeadline (s : State) (e : JEpoch) : Nat := e.seamClose + s.getF Fld.JNL_EPOCH_STRAGGLER_NS + 1000000

/-- Issues the sign job of the epoch whose turn it is, unless it is out or waits for its retry (R293). -/
def signNext (s : State) : State :=
  match sealEpoch s with
  | some e =>
    if e.retryAt = 0 ∧ (signJob s (.seal e.first)).isNone then
      issueSign s (.seal e.first) (s.getF Fld.JNL_SEAL_SLOT) (sealDeadline s e)
    else s
  | none => s

/-- EPOCH_CLOSE (R290): every record up to the last JSN is complete and the seal job is issued. -/
def execEpochClose (s : State) : Host.Outcome State Fault Refusal :=
  .next (match openEpoch s with
    | some e => if epochComplete s e then signNext (modEpoch s e.first fun e => { e with st := .signing }) else s
    | none => s)

/-- STRAGGLER_TIMEOUT (R290): of the first closing epoch whose bound has passed with a record incomplete. -/
def execStragglerTimeout (s : State) : Host.Outcome State Fault Refusal :=
  .next (match s.jnl.closing.find? fun e => decide (e.st = .closing) && !epochComplete s e && !bitAt e.flags 0 &&
      decide (e.seamClose + s.getF Fld.JNL_EPOCH_STRAGGLER_NS ≤ s.now) with
    | some e =>
      modEpoch ((s.setF Fld.JNL_STATUS_STRAG_LATE 1).bump Off.JNL_STRAG_CNT) e.first fun e =>
        { e with flags := putBits e.flags 0 1 1 }
    | none => s)

/-- Sends an epoch's seal to the lead (R295, R314). -/
def sendSeal (s : State) (e : JEpoch) (bs : List Byte) : State :=
  match e.gepoch with
  | none => s
  | some g =>
    if s.getF Fld.KOL_STATUS_ACTING_LEAD = 1 then
      { s with kol := { s.kol with seals := s.kol.seals ++ [(s.node, g, sha384 bs)] } }
    else kolSend s { type := 0x33, dest := s.kol.lead, body := leBytes 4 g ++ zeros 4 ++ bs }

/-- An epoch has its seal: it is counted, and the next seal chains to it (R292). -/
def noteSeal (s : State) (e : JEpoch) (bs : List Byte) : State :=
  let s1 := (modEpoch s e.first fun e => { e with st := .sealed, sealBytes := bs }).bump Off.JNL_SEAL_CNT
  { s1 with jnl := { s1.jnl with prevSeal := sha384 bs } }

/-- Queues the export entry of a seal that has been journalled. -/
def exportSeal (s : State) (e : JEpoch) : State :=
  match journalledSeal s e with
  | some r => queueExport s (sealEntry s e r)
  | none => s

/-- The seal of an epoch is signed (R293): journalled, posted for export, sent to the lead. Before release a tail's seal has no
JSN yet: release journals it (R296; log 41). -/
def finishSeal (s : State) (e : JEpoch) (bs : List Byte) : State :=
  if !s.jnl.running then
    let s1 := noteSeal s e bs
    { s1 with jnl := { s1.jnl with tailSeal := some bs } }
  else
    let s1 := noteSeal (assignRec s { kind := 4, nent := 1 } bs) e bs
    noteFull (signNext (sendSeal (exportSeal s1 { e with sealBytes := bs }) e bs))

/-- SEAL_COMPLETE (R293): the sign job of the epoch whose turn it is has ended. Without a JSN to assign it waits; a job that did
not end with OK sets SEAL_FAIL. -/
def execSealComplete (s : State) : Host.Outcome State Fault Refusal :=
  .next (match sealEpoch s with
    | none => s
    | some e =>
      match signJob s (.seal e.first) with
      | none => s
      | some j =>
        match signOutcome j with
        | none => s
        | some none =>
          modEpoch ((s.dropJob j.id).setF Fld.JNL_STATUS_SEAL_FAIL 1) e.first fun e =>
            { e with retryAt := s.now + 1000000 }
        | some (some bs) =>
          if s.jnl.running && !canAssign s then noteFull s else finishSeal (s.dropJob j.id) e bs)

/-- SEAL_RETRY (R293): once per millisecond. -/
def execSealRetry (s : State) : Host.Outcome State Fault Refusal :=
  .next (match sealEpoch s with
    | some e =>
      if 0 < e.retryAt ∧ e.retryAt ≤ s.now then signNext (modEpoch s e.first fun e => { e with retryAt := 0 }) else s
    | none => s)

/-! ## Export -/

/-- The next entry of the sealed epochs (R294), and the state once it is posted. -/
def nextExport (s : State) : Option (List Byte × State) :=
  match s.jnl.closing with
  | [] => none
  | e :: t =>
    if e.st ≠ .sealed then none
    else
      let l := epochRecs s e.first e.last
      if 256 * e.exported < l.length then
        if (batchOf l e.exported).all fun r => r.acked then
          some (batchEntry s e e.exported, modEpoch s e.first fun e => { e with exported := e.exported + 1 })
        else none
      else
        (journalledSeal s e).map fun r => (sealEntry s e r, { s with jnl := { s.jnl with
          closing := t, outChain := (match l.getLast? with | some r => r.chain | none => s.jnl.outChain),
          recs := s.jnl.recs.filter fun r => decide (e.last < r.jsn) } })

/-- EXPORT_POST (R294, R351): the next entry is posted on EXP when it has room. -/
def execExportPost (s : State) : Host.Outcome State Fault Refusal :=
  .next (match s.jnl.exports with
    | bs :: t =>
      match postBytes s ringEXP bs with
      | .done s1 _ => { s1 with jnl := { s1.jnl with exports := t } }
      | .wait s1 => s1
      | .stopped s1 => s1
    | [] =>
      match nextExport s with
      | none => s
      | some (bs, s1) =>
        match postBytes s1 ringEXP bs with
        | .done s2 _ => s2
        | .wait s2 => { s2 with jnl := s.jnl }
        | .stopped s2 => { s2 with jnl := s.jnl })

/-! ## Global seals -/

/-- The lead forms the global tree of a seam and issues the sign job of its seal (R295); no later seal is added. -/
def formGseal (s : State) (w : GWait) : State :=
  let s1 : State := { s with kol := { s.kol with
    gwaits := s.kol.gwaits.map fun x => if x.gepoch = w.gepoch then { x with formed := true } else x } }
  issueSign s1 (.gseal w.gepoch) (s.getF Fld.JNL_SEAL_GSLOT)
    (w.seam + 1000 * s.getF Fld.JNL_GSEAL_WAIT_US + 1000000)

/-- GSEAL_WAIT_EXPIRY (R295): WAIT_US after a global seam, or every seal has arrived, at the acting lead (R312, R313). A seal that
is signed and could not yet be journalled is journalled, and a sign job that failed is issued again (log 31). -/
def execGsealWaitExpiry (s : State) : Host.Outcome State Fault Refusal :=
  .next (if s.getF Fld.KOL_STATUS_ACTING_LEAD = 0 then s else match s.kol.gwaits with
    | w :: _ =>
      if (signJob s (.gseal w.gepoch)).isSome then finishGseal s
      else if w.formed ∨ w.seam + 1000 * s.getF Fld.JNL_GSEAL_WAIT_US ≤ s.now ∨
          w.members.all (fun n => (sealOf s w.gepoch n).isSome) then formGseal s w
      else s
    | [] => s)

/-- This node keeps the global seal chain: it is the acting lead or the deputy (R312). -/
def keepsChain (s : State) : Bool :=
  s.getF Fld.KOL_STATUS_ACTING_LEAD == 1 || s.getF Fld.KOL_ROLE_DEPUTY == s.node

/-- Journals a global seal of the lead (R295), once (R311). -/
def takeGseal (s : State) (bs : List Byte) : State :=
  if (match s.kol.gseen with | some g => decide (fld bs 0 4 ≤ g) | none => false) then s
  else if !canAssign s then noteFull s
  else
    let s1 := assignRec s { kind := 5, nent := 1 } bs
    noteFull { s1 with kol := { s1.kol with
      gseen := some (fld bs 0 4), gprev := (if keepsChain s then some (sha384 bs) else s1.kol.gprev) } }

/-- GSEAL (R295): a global seal arrives and is journalled; lead and deputy keep the chain (R312). -/
def execGseal (h : KHdr) (bytes : List Byte) (s : State) : Host.Outcome State Fault Refusal :=
  .next (onMessage s h 0x34 (sliceOf bytes 0 512) fun s => takeGseal s (sliceOf bytes 0 512))

/-- SEAL_MESSAGE (R295, R314): the lead receives the seal of a node for a seam that it still waits for. -/
def execSealMessage (h : KHdr) (gepoch : Nat) (bytes : List Byte) (s : State) : Host.Outcome State Fault Refusal :=
  .next (onMessage s h 0x33 (leBytes 4 gepoch ++ zeros 4 ++ sliceOf bytes 0 336) fun s =>
    let ahead : Bool := match s.kol.lastSeam with | some t => decide (t.gepoch < gepoch) | none => true
    if s.getF Fld.KOL_STATUS_ACTING_LEAD = 1 ∧ (ahead ∨ s.kol.gwaits.any (fun w => w.gepoch == gepoch && !w.formed)) then
      { s with kol := { s.kol with seals := s.kol.seals ++ [(h.src, gepoch, sha384 (sliceOf bytes 0 336))] } }
    else s)

end Sys2Proof.Machine
end

