-- ==== Sys2Proof/Machine/KolMsgs.lean ====
section
/-! DEFINITION. Kolat at work (14): links and bonds (R300, R302, R306), lead and deputy (R312 to R315), the shard map (R318),
remote operations and cross-shard commit as owner and as coordinator (R319 to R328), windows (R329) and mirroring as a peer
(R330). -/

namespace Sys2Proof.Machine

/-! ## Links and bonds -/

/-- The directions of the topology: two for each dimension, or the eight ports of a tree. -/
def kolDirs (s : State) : Nat := if s.getF Fld.KOL_CTRL_TOPO = 4 then 8 else 2 * (kolSizes s).length

/-- A tree link between a node and its parent is known to have failed, from either end. -/
def treeDown (s : State) (n : Nat) : Bool :=
  s.kol.down.contains (n, 0) || s.kol.down.contains ((n - 1) / 7, n - 7 * ((n - 1) / 7))

/-- Whether a node is absent: every bond toward it has failed (R321); in a tree, a link of the only route to it (R306). -/
def absentNode (s : State) (n : Nat) : Bool :=
  if n = s.node then false
  else if s.getF Fld.KOL_CTRL_TOPO = 4 then
    let up := treePath 10 n
    let me := treePath 10 s.node
    (up.filter fun k => !me.contains k && k != 0).any (treeDown s) ||
      (me.filter fun k => !up.contains k && k != 0).any (treeDown s)
  else
    let sizes := kolSizes s
    !sizes.isEmpty && (List.range sizes.length).all fun d => linkDown s sizes n d true && linkDown s sizes n d false

/-- The host is told of an orphaned reservation (R328, R348). -/
def reportOrphan (s : State) (an : Nat) : State :=
  queueExc (s.setF Fld.KOL_STATUS_ORPHAN 1)
    { kind := 5, conn := none, bytes := excBytes 5 0 0 0 0 0 0 0 an [] }

/-- Drops the reservations of a run, its locks and slots (R246, R321). -/
def freeRsv (s : State) (an run : Nat) : State :=
  releaseRun { s with kol := { s.kol with rsv := s.kol.rsv.filter fun v => !(v.an == an && v.run == run) } } an run

/-- The runs that hold reservations here and satisfy a test. -/
def rsvRuns (s : State) (p : Rsv → Bool) : List (Nat × Nat) :=
  ((s.kol.rsv.filter p).map fun v => (v.an, v.run)).eraseDups

/-- A node has become absent (R321, R328): its reservations are freed, or held and reported if PREPARED. -/
def nodeAbsent (s : State) (n : Nat) : State :=
  let s1 := (rsvRuns s fun v => v.an / 2 ^ 54 == n && !v.prepared).foldl (fun s p => freeRsv s p.1 p.2) s
  (rsvRuns s1 fun v => v.an / 2 ^ 54 == n && v.prepared).foldl (fun s p => reportOrphan s p.1) s1

/-- Follows a change of the failed links: nodes that it makes absent. -/
def noteAbsences (before s : State) : State :=
  (((s.kol.rsv.map fun v => v.an / 2 ^ 54).eraseDups).filter fun n => absentNode s n && !absentNode before n).foldl
    nodeAbsent s

/-- Sends LINKSTATE to every member (R306, R309). -/
def sendLinkstate (s : State) (bond : Nat) (recovered : Bool) : State :=
  kolSendAll s ((members s).filter fun n => n != s.node) fun n =>
    { type := 0x03, dest := n, body := leBytes 2 s.node ++ bytesOf [bond, b2n recovered] ++ zeros 4 }

/-- A port fails (R302, R306, R397): its messages are lost; a bond left without a port is announced. -/
def failKport (s : State) (p : Fin 8) : State :=
  if s.getF (Fld.KOL_PORT_STATUS_LINK_UP p.val) = 0 then s
  else
    let s1 := (s.setF (Fld.KOL_PORT_STATUS_LINK_UP p.val) 0).setF (Fld.KOL_PORT_STATUS_FAILED p.val) 1
    let s2 := faultHold ((s1.modPort p fun _ => KPort.reset).report
      { island := 39, unit := p.val, cls := .kolat, severity := 1 })
    let topo := s.getF Fld.KOL_CTRL_TOPO
    let dir := bondOf topo p
    if dir < 8 ∧ bondUp s2 dir = [] ∧ !s2.kol.down.contains (s.node, bondName topo dir) then
      let s3 := { s2 with kol := { s2.kol with down := s2.kol.down ++ [(s.node, bondName topo dir)] } }
      noteAbsences s (sendLinkstate s3 (bondName topo dir) false)
    else s2

/-- Every kept flit after ACK is sent again (R300); RETRY_MAX resends of one flit fail the port (R302). -/
def resendFrom (s : State) (p : Fin 8) (ack : Nat) : State :=
  let s1 := s.modPort p fun k =>
    let k1 := k.acked ack
    { k1 with sent := k1.sent.map fun q => { q with resends := q.resends + 1 } }
  let again := s1.kol.ports[p].sent
  let s2 : State := { s1 with out := s1.out ++ again.reverse.map fun q => Emit.flit p q.bytes }
  let s3 := s2.bump Off.KOL_RETRY_CNT again.length
  if again.any fun q => decide (s.getF Fld.KOL_LINK_RETRY_MAX ≤ q.resends) then failKport s3 p else s3

/-- LINK_RESEND (R300, R302): a NAK causes a resend here; a received flit that fails its check is discarded and answered with
NAK. -/
def execLinkResend (p : Fin 8) (w : LinkFail) (s : State) : Host.Outcome State Fault Refusal :=
  .next (if s.getF (Fld.KOL_PORT_STATUS_LINK_UP p.val) = 0 then s
    else match w with
      | .nak ack => resendFrom s p ack
      | .badFlit => linkDiscard s p 0)

/-- KPORT_FAIL (R302). -/
def execKportFail (p : Fin 8) (cause : PortCause) (s : State) : Host.Outcome State Fault Refusal :=
  .next (failKport (match cause with | .fecRate => s.bump Off.KOL_FECUNC_CNT | _ => s) p)

/-- BOND_RECOVER (R306): a port is trained and in service, which needs its reference clock (R453); a bond that had failed is
announced. -/
def execBondRecover (p : Fin 8) (s : State) : Host.Outcome State Fault Refusal :=
  let topo := s.getF Fld.KOL_CTRL_TOPO
  let dir := bondOf topo p
  if 8 ≤ dir ∨ s.getF (Fld.KOL_PORT_STATUS_LINK_UP p.val) = 1 ∨ s.pwr.clkLost.contains .kol then .next s
  else
    let s1 := (learnNeighbour (s.setF (Fld.KOL_PORT_STATUS_LINK_UP p.val) 1) p).modPort p fun _ => KPort.reset
    let me := (s.node, bondName topo dir)
    if s.kol.down.contains me then
      .next (sendLinkstate { s1 with kol := { s1.kol with down := s1.kol.down.filter fun x => x != me } } me.2 true)
    else .next s1

/-- LINKSTATE (R306, R321, R328). -/
def execLinkstate (h : KHdr) (node : Nat) (bond : Fin 8) (recovered : Bool) (s : State) :
    Host.Outcome State Fault Refusal :=
  .next (onMessage s h 0x03 (leBytes 2 node ++ bytesOf [bond.val, b2n recovered] ++ zeros 4) fun s =>
    let l := s.kol.down.filter fun x => x != (node, bond.val)
    noteAbsences s { s with kol := { s.kol with down := if recovered then l else l ++ [(node, bond.val)] } })

/-! ## Lead and deputy -/

/-- LGEN that this node follows. -/
def lgenOf (s : State) : Nat := s.getF Fld.KOL_STATUS_LGEN
/-- This node is the acting lead. -/
def actingLead (s : State) : Bool := s.getF Fld.KOL_STATUS_ACTING_LEAD = 1
/-- This node is the deputy and not the lead. -/
def isDeputy (s : State) : Bool := s.getF Fld.KOL_ROLE_DEPUTY == s.node && !actingLead s

/-- Follows the lead of a higher generation (R313); one that stops acting as lead forms no more global seals. -/
def followLead (s : State) (lgen lead : Nat) : State :=
  if lgenOf s < lgen then
    let s1 := (s.setF Fld.KOL_STATUS_LGEN lgen).setF Fld.KOL_STATUS_ACTING_LEAD (b2n (decide (lead = s.node)))
    { s1 with kol := { s1.kol with lead := lead, gwaits := if lead = s.node then s1.kol.gwaits else [] } }
  else s

/-- The body of HEARTBEAT (R309). -/
def heartbeatBody (lgen : Nat) (rev : Bool) (sent : Nat) : List Byte :=
  leBytes 2 lgen ++ [byte (b2n rev)] ++ zeros 5 ++ leBytes 8 sent

/-- HEARTBEAT_SEND (R313): lead and deputy send each other a HEARTBEAT on both routes. -/
def execHeartbeatSend (s : State) : Host.Outcome State Fault Refusal :=
  let dest := if actingLead s then s.getF Fld.KOL_ROLE_DEPUTY else s.kol.lead
  if (actingLead s ∨ isDeputy s) ∧ dest ≠ s.node then
    let m (rev : Bool) : KMsg := {
      type := 0x01, dest := dest,
      body := heartbeatBody (lgenOf s) rev s.now }
    .next (kolSend (kolSend s (m false)) (m true) true)
  else .next s

/-- HEARTBEAT (R313): one of a higher generation names its sender the lead, as only a node that has taken over runs ahead of
the one that it sends to (DEDUCED, log 19). -/
def execHeartbeat (h : KHdr) (lgen : Nat) (route : Bool) (sent : Nat) (s : State) : Host.Outcome State Fault Refusal :=
  .next (onMessage s h 0x01 (heartbeatBody lgen route sent) (fun s =>
    let s1 := { s with kol := { s.kol with hbAt := s.now } }
    let s2 := if actingLead s ∧ h.src = s.getF Fld.KOL_ROLE_DEPUTY then s1.setF Fld.KOL_STATUS_NO_DEPUTY 0 else s1
    followLead s2 lgen h.src) route)

/-- LEAD_LOSS_TIMEOUT (R313): no HEARTBEAT for LOSS_US. The deputy takes over, and its first TICK names the newest generation
that it holds (R318); a lead has lost its deputy. -/
def execLeadLossTimeout (s : State) : Host.Outcome State Fault Refusal :=
  if s.now < s.kol.hbAt + 1000 * s.getF Fld.KOL_LEAD_LOSS_US then .next s
  else if isDeputy s then
    let g := (lgenOf s + 1) % 65536
    let s1 := (s.setF Fld.KOL_STATUS_LGEN g).setF Fld.KOL_STATUS_ACTING_LEAD 1
    let acks := match s.kol.map with
      | some m => if m.full then ((m.entries.map fun (e : Nat × Nat) => e.2 % 1024) ++ members s).eraseDups else s.kol.mapAcked
      | none => s.kol.mapAcked
    let s2 := { s1 with kol := { s1.kol with lead := s.node, mapAcked := acks } }
    .next (kolSendAll s2 ((members s2).filter fun n => n != s.node) fun n =>
      { type := 0x04, dest := n, body := leBytes 2 g ++ leBytes 2 s.node ++ zeros 4 })
  else if actingLead s then .next (s.setF Fld.KOL_STATUS_NO_DEPUTY 1)
  else .next s

/-- TAKEOVER (R313). -/
def execTakeover (h : KHdr) (lgen lead : Nat) (s : State) : Host.Outcome State Fault Refusal :=
  .next (onMessage s h 0x04 (leBytes 2 lgen ++ leBytes 2 lead ++ zeros 4) fun s => followLead s lgen lead)

/-- JOINED: the node holds the shard map and a TICK (R314). -/
def noteJoined (s : State) : State :=
  let map : Bool := s.getF Fld.KOL_STATUS_SMAP_GEN != 0 || (match s.kol.map with | some m => m.full | none => false)
  if s.kol.tick.isSome ∧ map then s.setF Fld.KOL_STATUS_JOINED 1 else s

/-- The newest generation that every member has acknowledged (R318), else the one in force. -/
def newestGen (s : State) : Nat :=
  match s.kol.map with
  | some m =>
    let named := (m.entries.map fun e => e.2 % 1024).eraseDups
    if m.full ∧ ((named ++ members s).all fun n => n == s.node || s.kol.mapAcked.contains n) then m.gen
    else s.getF Fld.KOL_STATUS_SMAP_GEN
  | none => s.getF Fld.KOL_STATUS_SMAP_GEN

/-- The seam that the lead names next (R314): LEN_US after the last, or the first one at least 500 µs away. -/
def leadSeam (s : State) : Nat × Nat :=
  let len := 1000 * s.getF Fld.JNL_EPOCH_LEN_US
  match s.kol.lastSeam with
  | some t => (t.seam + len, t.gepoch + 1)
  | none => (roundUp (s.now + 500000) len, s.getF Fld.KOL_GEPOCH_NEXT)

/-- The body of TICK (R309). -/
def tickBody (seam gepoch gen lgen : Nat) : List Byte :=
  leBytes 8 seam ++ leBytes 4 gepoch ++ leBytes 4 gen ++ leBytes 2 lgen ++ zeros 6

/-- TICK_SEND (R314): the acting lead names the next seam at least 500 µs before it. -/
def execTickSend (s : State) : Host.Outcome State Fault Refusal :=
  let x := leadSeam s
  if actingLead s ∧ s.kol.tick = none ∧ s.now + 500000 ≤ x.1 then
    let g := newestGen s
    let s1 := noteJoined { s with kol := { s.kol with tick := some { seam := x.1, gepoch := x.2, gen := g } } }
    .next (kolSendAll s1 ((members s).filter fun n => n != s.node) fun n =>
      { type := 0x02, dest := n, body := tickBody x.1 x.2 g (lgenOf s) })
  else .next s

/-- TICK (R313, R314): one of a lower generation is discarded; one for a seam that has been applied names no next seam. -/
def execTick (h : KHdr) (seam gepoch smapGen lgen : Nat) (s : State) : Host.Outcome State Fault Refusal :=
  .next (onMessage s h 0x02 (tickBody seam gepoch smapGen lgen) fun s =>
    if lgen < lgenOf s then s
    else
      let s1 := followLead s lgen h.src
      if (match s.kol.lastSeam with | some t => decide (seam ≤ t.seam) | none => false) then s1
      else noteJoined { s1 with kol := { s1.kol with tick := some { seam := seam, gepoch := gepoch, gen := smapGen } } })

/-- TICK_MISS (R314): no TICK for the next seam 100 µs before it. -/
def execTickMiss (s : State) : Host.Outcome State Fault Refusal :=
  match s.kol.lastSeam, s.kol.tick with
  | some t, none =>
    let seam := t.seam + 1000 * s.getF Fld.JNL_EPOCH_LEN_US
    if seam ≤ s.now + 100000 then
      .next { s.setF Fld.KOL_STATUS_TICK_MISS 1 with
        kol := { s.kol with tick := some { seam := seam, gepoch := t.gepoch + 1, gen := s.getF Fld.KOL_STATUS_SMAP_GEN } } }
    else .next s
  | _, _ => .next s

/-- The body of a TIME message (R309). -/
def timeBody (kind t1 t2 t3 : Nat) : List Byte := [byte kind] ++ zeros 7 ++ leBytes 8 t1 ++ leBytes 8 t2 ++ leBytes 8 t3

/-- TIME_EXCHANGE (R315). -/
def execTimeExchange (s : State) : Host.Outcome State Fault Refusal :=
  .next (if actingLead s ∨ s.getF Fld.KOL_CTRL_TOPO = 0 then s
    else kolSend s { type := 0x05, dest := s.kol.lead, body := timeBody 0 s.now 0 0 })

/-- TIME_REQUEST (R309, R315): the lead answers from its reserved send buffer. -/
def execTimeRequest (h : KHdr) (t1 : Nat) (s : State) : Host.Outcome State Fault Refusal :=
  .next (onMessage s h 0x05 (timeBody 0 t1 0 0) fun s =>
    if actingLead s then kolSendReserved s { type := 0x05, dest := h.src, body := timeBody 1 t1 s.now s.now } else s)

/-- TIME_ANSWER (R315): the offset from the lead, the path delay taken as symmetric. -/
def execTimeAnswer (h : KHdr) (t1 t2 t3 : Nat) (s : State) : Host.Outcome State Fault Refusal :=
  .next (onMessage s h 0x05 (timeBody 1 t1 t2 t3) fun s =>
    let ofs : Int := (((t1 : Int) - t2) + ((s.now : Int) - t3)) / 2
    let s1 := s.setF Fld.KOL_TIME_OFS_OFS (ofSigned 64 ofs)
    if (s.getF Fld.KOL_TIME_SKEW_NS : Int) < ofs ∨ ofs < -(s.getF Fld.KOL_TIME_SKEW_NS : Int) then
      (s1.setF Fld.KOL_STATUS_SKEW 1).report
        { island := 39, unit := 0xFF, cls := .environment, severity := 5, detail := ofSigned 64 ofs }
    else s1)

/-! ## The shard map -/

/-- Enters entries of a generation from a first slice on. -/
def mapEntries (m : NewMap) (first : Nat) (es : List Nat) : NewMap :=
  let new := (List.range es.length).map fun i => (first + i, es.getD i 0)
  let l := (m.entries.filter fun e => !(decide (first ≤ e.1) && decide (e.1 < first + es.length))) ++ new
  { m with entries := l, full := decide (65536 ≤ l.length) }

/-- MAP (R309, R318): a member that holds every slice of the generation answers APPLIED. -/
def execMap (h : KHdr) (gen first : Nat) (entries : List Nat) (s : State) : Host.Outcome State Fault Refusal :=
  .next (onMessage s h 0x35 (leBytes 4 gen ++ leBytes 2 first ++ leBytes 2 entries.length ++ entries.flatMap (leBytes 2)) fun s =>
    let cur := match s.kol.map with
      | some m => if m.gen = gen then some m else if gen < m.gen then none else some { gen := gen, entries := [], full := false }
      | none => if gen ≤ s.getF Fld.KOL_STATUS_SMAP_GEN then none else some { gen := gen, entries := [], full := false }
    match cur with
    | none => s
    | some m =>
      let m1 := mapEntries m first entries
      let s1 := noteJoined { s with kol := { s.kol with map := some m1 } }
      if m1.full ∧ !m.full then kolSend s1 { type := 0x24, dest := h.src, body := leBytes 8 gen ++ leBytes 8 0 } else s1)

/-- APPLIED (R309, R311, R318, R326): the answer to an APPLY, or to a MAP. -/
def execApplied (h : KHdr) (ref partJsn : Nat) (s : State) : Host.Outcome State Fault Refusal :=
  .next (onMessage s h 0x24 (leBytes 8 ref ++ leBytes 8 partJsn) fun s =>
    let mine (a : XApply) : Bool := a.an == h.an && a.run % 16 == tagRun h.tag && a.node == h.src && a.jsn == ref
    if s.kol.applies.any mine then
      { s with kol := { s.kol with applies := s.kol.applies.filter fun a => !mine a } }
    else match s.kol.map with
      | some m =>
        if m.gen = ref ∧ !s.kol.mapAcked.contains h.src then
          { s with kol := { s.kol with mapAcked := s.kol.mapAcked ++ [h.src] } }
        else s
      | none => s)

/-! ## Remote operations -/

/-- The operation of an OP code (R309). -/
def lopOf (op : Nat) : LOp := match op with | 0 => .ldl | 1 => .ldlu | 2 => .stl | _ => .del

/-- The mark that this node keeps of a run, if any. -/
def markOf (s : State) (an run : Nat) : Option Mark := s.kol.marks.find? fun m => m.an == an && m.run == run

/-- LOP (R317 to R321, R323): taken, or answered with CC 3. -/
def execLop (h : KHdr) (op bench : Nat) (keyhash : Word) (key data : List Byte) (s : State) :
    Host.Outcome State Fault Refusal :=
  .next (onMessage s h 0x10 (lopBody op bench keyhash.toNat key data) fun s =>
    let r : LReq := { an := h.an, run := tagRun h.tag, core := 0, bank := 0, op := lopOf op, bench := bench,
                      hash := keyhash.toNat, key := key, buf := [], data := data, akey := h.key % 16, user := false,
                      deadline := h.deadline, st := .waiting, peer := some (h.src, h.tag), remote := none,
                      sent := [] }
    let no (s : State) : State := answerLop s r .refused
    let x := s.bench bench
    if !kolEnabled s ∨ (markOf s r.an r.run).isSome ∨ ownerOf s x r.hash ≠ s.node ∨ frozenKey s x r.hash then no s
    else
      let s0 := mpuSettled s
      match refuseOp s0 .kol bench (rsvLog s0 r.an r.run) r.op key r.akey with
      | some s1 => no s1
      | none => requestLock s0 r)

/-- LOP_RSP (R86, R308): the answer reaches the context that waits for it; one for an ended run is discarded. -/
def execLopRsp (h : KHdr) (cc : Nat) (record : List Byte) (s : State) : Host.Outcome State Fault Refusal :=
  .next (onMessage s h 0x20 (lopRspBody { cc := cc, record := record, slot := none }) fun s =>
    match s.kreq? (tagNo h.tag) with
    | some { no, node := _, at_ := _, what := .lop an run c b } =>
      let s1 := dropReq s no
      match s1.ldg.reqs.find? fun r => r.an == an && r.run == run && r.remote == some (h.src, no) with
      | none => s1
      | some r =>
        let s2 := dropLReq s1 an run
        if !reqLive s2 r then s2
        else if cc = 3 then wake (s2.setCC c b 3) c b
        else respond s2 r h.src { cc := cc, record := record, slot := none }
    | _ => s)

/-- Answers a PREPARE (R309, R324). -/
def answerPrepare (s : State) (h : KHdr) (result : Nat) : State :=
  kolSend (if result = 1 then s else s.bump Off.KOL_LOST_CNT)
    { type := 0x21, dest := h.src, an := h.an, deadline := h.deadline, tag := h.tag, body := [byte result] ++ zeros 7 }

/-- A reservation is held with its lock (R319). -/
def rsvHeld (s : State) (v : Rsv) : Bool :=
  s.ldg.locks.any fun k => k.bench == v.e.bench && k.hash == v.e.hash && k.an == v.an && k.run == v.run

/-- PREPARE (R321, R324): the reservations of the run are all held, or some were freed or lost by a reset. -/
def execPrepare (h : KHdr) (nrsv : Nat) (s : State) : Host.Outcome State Fault Refusal :=
  .next (onMessage s h 0x11 (leBytes 2 nrsv ++ zeros 6) fun s =>
    let run := tagRun h.tag
    let held := s.kol.rsv.countP fun v => v.an == h.an && v.run == run && rsvHeld s v
    if (markOf s h.an run).isSome then answerPrepare s h 2
    else if held = nrsv then
      answerPrepare { s with kol := { s.kol with
        rsv := s.kol.rsv.map fun v => if v.an = h.an ∧ v.run = run then { v with prepared := true } else v } } h 1
    else answerPrepare s h (if s.kol.lost.contains (h.an, run) then 3 else 2))

/-- Records a participant's answer. -/
def putAnswer (s : State) (an run node result : Nat) : State :=
  { s with kol := { s.kol with preps := s.kol.preps.map fun p =>
    if p.an = an ∧ p.run = run then
      { p with answers := p.answers.map fun a => if a.1 = node then (a.1, some result) else a }
    else p } }

/-- PREP_RSP (R325). -/
def execPrepRsp (h : KHdr) (result : Nat) (s : State) : Host.Outcome State Fault Refusal :=
  .next (onMessage s h 0x21 ([byte result] ++ zeros 7) fun s =>
    match s.kreq? (tagNo h.tag) with
    | some { no, node, at_ := _, what := .prepare an run } => putAnswer (dropReq s no) an run node result
    | _ => s)

/-- Answers an APPLY (R309, R326). -/
def answerApply (s : State) (h : KHdr) (coordJsn partJsn : Nat) : State :=
  kolSend s { type := 0x24, dest := h.src, an := h.an, deadline := h.deadline, tag := h.tag,
              body := leBytes 8 coordJsn ++ leBytes 8 partJsn }

/-- Applies the reservations of a run that its coordinator has committed (R326): a participant record if any writes. -/
def applyRsv (s : State) (an run coord coordJsn : Nat) : Nat × State :=
  let l := rsvLog s an run
  let j := s.jnl.next
  let s1 :=
    if l.any WEntry.writes then
      applyWrites ((assignRec s { kind := 7, nent := 1 + writeCount l, an := an }
        (leBytes 2 coord ++ zeros 6 ++ leBytes 8 coordJsn ++ writeEntries s l)).bump Off.KOL_XCOMMIT_CNT) j an run l
    else s
  let part := if l.any WEntry.writes then j else 0
  let s2 := freeRsv s1 an run
  let m : Mark := { an := an, run := run, until_ := s.now + 1000 * s.getF Fld.KOL_E2E_HOLD_US, applied := some (coordJsn, part) }
  (part, noteFull { s2 with kol := { s2.kol with marks := m :: s2.kol.marks } })

/-- APPLY (R326): a repeated one is answered again. One that writes waits for its resend while JNL assigns no JSN. -/
def execApply (h : KHdr) (coordJsn : Nat) (s : State) : Host.Outcome State Fault Refusal :=
  .next (onMessage s h 0x32 (leBytes 8 coordJsn) fun s =>
    let run := tagRun h.tag
    match markOf s h.an run with
    | some m =>
      match m.applied with
      | some (_, part) => answerApply s h coordJsn part
      | none => answerApply s h coordJsn 0
    | none =>
      if (rsvLog s h.an run).any WEntry.writes ∧ !canAssign s then noteFull s
      else let r := applyRsv s h.an run h.src coordJsn; answerApply r.2 h coordJsn r.1)

/-- APPLY_RESEND (R311): no APPLIED within TIMEOUT_NS. -/
def execApplyResend (an node : Nat) (s : State) : Host.Outcome State Fault Refusal :=
  .next (match s.kol.applies.find? fun a => a.an == an && a.node == node &&
      decide (a.at_ + s.getF Fld.KOL_E2E_TIMEOUT_NS ≤ s.now) with
    | none => s
    | some a =>
      let s1 := { s with kol := { s.kol with applies := s.kol.applies.map fun x => if x = a then { a with at_ := s.now } else x } }
      kolSend s1 { type := 0x32, dest := node, an := an, deadline := a.deadline, tag := a.tag,
                   body := leBytes 8 a.jsn })

/-- WOUND_MESSAGE (R245, R320): the wound acts on the owner flag of the holder's run. -/
def execWoundMessage (h : KHdr) (reqAn reqDeadline : Nat) (s : State) : Host.Outcome State Fault Refusal :=
  .next (onMessage s h 0x30 (leBytes 8 reqAn ++ leBytes 8 reqDeadline) fun s =>
    match s.txn? h.an with
    | some t => if t.run % 16 = tagRun h.tag then woundRun s t.an t.run else s
    | none => s)

/-- WOUND_RESEND (R311): while a request waits, the WOUND messages that were sent for it are sent again. -/
def execWoundResend (an : Nat) (s : State) : Host.Outcome State Fault Refusal :=
  .next ((s.ldg.reqs.filter fun r => r.an == an && decide (r.st = .waiting)).foldl
    (fun s r => r.sent.foldl (fun s k => woundMessage s r k) s) s)

/-- KOL_RELEASE (R321): the owner frees what the run held and marks it ended. -/
def execKolRelease (h : KHdr) (s : State) : Host.Outcome State Fault Refusal :=
  .next (onMessage s h 0x31 (zeros 8) fun s0 =>
    let run := tagRun h.tag
    let s := { s0 with kol := { s0.kol with lost := s0.kol.lost.filter fun p => p != (h.an, run) } }
    let s1 := freeRsv s h.an run
    if (markOf s h.an run).isSome then s1
    else { s1 with kol := { s1.kol with marks :=
      { an := h.an, run := run, until_ := s.now + 1000 * s.getF Fld.KOL_E2E_HOLD_US, applied := none } :: s1.kol.marks } })

/-- RESERVATION_LEASE_EXPIRY (R321). -/
def execReservationLeaseExpiry (an run : Nat) (s : State) : Host.Outcome State Fault Refusal :=
  .next (if s.kol.rsv.any (fun v => v.an == an && v.run == run && !v.prepared &&
      decide (v.deadline + 1000 * s.getF Fld.KOL_E2E_LEASE_US ≤ s.now)) then freeRsv s an run else s)

/-- HOLD_EXPIRY (R321, R326): the memory of an ended or applied run is dropped after HOLD_US. -/
def execHoldExpiry (an run : Nat) (s : State) : Host.Outcome State Fault Refusal :=
  .next { s with kol := { s.kol with
    marks := s.kol.marks.filter fun m => !(m.an == an && m.run == run && decide (m.until_ ≤ s.now)) } }

/-- What the requester of an unanswered REQ gets (R311, R325, R329): ISLAND_ABSENT, a timed-out answer, or MCHK. -/
def timeoutReq (s : State) (r : KReq) : State :=
  match r.what with
  | .lop an run _ _ => endIfOwned s an run .faultReplay
  | .prepare an run => putAnswer s an run r.node 4
  | .wread c =>
    match (s.core c).wait, (s.core c).cur with
    | some (.window q va _ _ _ _ _), some b =>
      if q = r.no then trapMchk (s.modCore c fun k => { k with wait := none }) c b (BitVec.ofNat 64 va) else s
    | some (.bytes q va _ _ _), some b =>
      if q = r.no then trapMchk (s.modCore c fun k => { k with wait := none }) c b (BitVec.ofNat 64 va) else s
    | _, _ => s
  | .wwrite _ => s

/-- KOL_TIMEOUT (R311): no answer within TIMEOUT_NS. A posted store stays for ASYNC_MCHK. -/
def execKolTimeout (req : Nat) (s : State) : Host.Outcome State Fault Refusal :=
  .next (match s.kreq? req with
    | some r =>
      if r.at_ + s.getF Fld.KOL_E2E_TIMEOUT_NS ≤ s.now then timeoutReq ((dropReq s req).bump Off.KOL_TIMEOUT_CNT) r else s
    | none => s)

/-! ## Windows -/

/-- Answers a window request (R309, R329). -/
def answerWindow (s : State) (h : KHdr) (status : Nat) (data : List Byte) : State :=
  kolSend s { type := 0x22, dest := h.src, an := h.an, deadline := h.deadline, tag := h.tag,
              body := [byte status] ++ zeros 7 ++ sliceOf data 0 8 }

/-- WREAD (R329): performed as class KOL with key 0; one of lost data is not answered. -/
def execWread (h : KHdr) (offset size : Nat) (s : State) : Host.Outcome State Fault Refusal :=
  .next (onMessage s h 0x12 (windowBody offset size) fun s =>
    let a := offset % 2 ^ 40
    if !(backed s a && backed s (a + size - 1)) then answerWindow s h 2 []
    else if poisoned s a size then s
    else match islandRead s .kol a size with
      | (some bs, s1) => answerWindow s1 h 0 bs
      | (none, s1) => answerWindow s1 h 1 [])

/-- WWRITE (R329). -/
def execWwrite (h : KHdr) (offset size : Nat) (data : Word) (s : State) : Host.Outcome State Fault Refusal :=
  .next (onMessage s h 0x13 (windowBody offset size ++ leBytes 8 data.toNat) fun s =>
    let a := offset % 2 ^ 40
    if !(backed s a && backed s (a + size - 1)) then answerWindow s h 2 []
    else
      let r := islandWrite s .kol a (leBytes size data.toNat)
      answerWindow r.2 h (b2n (!r.1)) [])

/-- A window load of core `c` completes (R131, R329): its register, or MPU at the load. -/
def windowDone (s : State) (c : CoreId) (no status v : Nat) : State :=
  match (s.core c).wait, (s.core c).cur with
  | some (.window q va d size sx fp _), some b =>
    if q ≠ no then s
    else
      let s1 := s.modCore c fun k => { k with wait := none }
      if status = 0 then advancePc (putLoaded s1 c b d sx fp size (v % 2 ^ (8 * size))) c b 4
      else takeTrap s1 c b 0x16 (BitVec.ofNat 64 va) (s.bank c b).pc
  | some (.bytes q va pa size _), some b =>
    if q ≠ no then s
    else
      let s1 := s.modCore c fun k => { k with wait := none }
      if status = 0 then s1.modCore c fun k => { k with win := cellsAt pa (leBytes size v) ++ k.win }
      else takeTrap s1 c b 0x16 (BitVec.ofNat 64 va) (s.bank c b).pc
  | _, _ => s

/-- WIN_RSP (R121, R329). -/
def execWinRsp (h : KHdr) (status : Nat) (data : Word) (s : State) : Host.Outcome State Fault Refusal :=
  .next (onMessage s h 0x22 ([byte status] ++ zeros 7 ++ leBytes 8 data.toNat) fun s =>
    match s.kreq? (tagNo h.tag) with
    | some { no, node := _, at_ := _, what := .wread c } =>
      settleSyncs (windowDone (dropReq s no) c no status data.toNat)
    | some { no, node := _, at_ := _, what := .wwrite c } =>
      settleSyncs ((dropReq s no).modCore c fun k => { k with posted := k.posted.filter fun p => p.req != some no })
    | _ => s)

/-! ## Mirroring as a peer -/

/-- Appends held data in its order (R330): none when the region refuses a write. -/
def mirrorDrain : Nat → State → MirrorRx → Option MirrorRx × State
  | 0, s, m => (some m, s)
  | f + 1, s, m =>
    match m.held.find? fun p => p.1 == m.got with
    | none => (some m, s)
    | some p =>
      let k := s.getF Fld.KOL_MRX_RGN
      match islandWrite s .kol (s.getF (Fld.MPU_APTR_APTR k)) p.2 with
      | (false, s1) => (none, s1)
      | (true, s1) =>
        mirrorDrain f s1 { m with got := m.got + p.2.length, held := m.held.filter fun q => q.1 != p.1 }

/-- MIRROR (R330): group data is appended in order; MIRROR_ACK when the whole group is written. -/
def execMirror (h : KHdr) (firstJsn goff : Nat) (data : List Byte) (s : State) : Host.Outcome State Fault Refusal :=
  .next (onMessage s h 0x14 (leBytes 8 firstJsn ++ leBytes 4 goff ++ leBytes 4 data.length ++ data) fun s =>
    let same (m : MirrorRx) : Bool := m.src == h.src && m.first == firstJsn
    let fresh : MirrorRx := { src := h.src, first := firstJsn, got := 0, held := [], len := none }
    let m0 := match s.kol.mrx.find? same with
      | some m => if goff < m.got then fresh else m
      | none => fresh
    let m1 : MirrorRx := { m0 with
      held := (goff, data) :: m0.held.filter fun q => q.1 != goff,
      len := (if h.last then some (goff + data.length) else m0.len) }
    let rest := s.kol.mrx.filter fun m => !same m
    match mirrorDrain (m1.held.length + 1) s m1 with
    | (none, s1) => { s1 with kol := { s1.kol with mrx := rest } }
    | (some m, s1) =>
      if m.len = some m.got then
        kolSend { s1 with kol := { s1.kol with mrx := rest } }
          { type := 0x23, dest := h.src, an := h.an, deadline := h.deadline, tag := h.tag,
            body := leBytes 8 firstJsn ++ leBytes 4 m.got ++ zeros 4 }
      else { s1 with kol := { s1.kol with mrx := rest ++ [m] } })

/-- KOL_ENABLE_WRITE (R323). -/
def execKolEnableWrite (v : Bool) (s : State) : Host.Outcome State Fault Refusal :=
  .next (s.setF Fld.KOL_CTRL_ENABLE (b2n v))

end Sys2Proof.Machine
end

