-- ==== Sys2Proof/Machine/Admission.lean ====
section
/-! DEFINITION. Admission (R21 to R31): program descriptors, one decision, and the command that takes one framed message. -/

namespace Sys2Proof.Machine

/-! ## Program descriptors (R23, R24) -/

/-- A program descriptor from its 64 bytes. -/
def readBudget (b : List Byte) : Budget :=
  { entry := fld b 0 8, asid := fld b 8 2 % 4096, key := fld b 10 1 % 16, cls := fld b 11 1 % 4, cycles := fld b 12 4,
    blockNs := fld b 16 4, pkeNs := fld b 20 4, symNs := fld b 24 4, cryptOps := fld b 28 2, ldgOps := fld b 30 2,
    remoteOps := fld b 32 2, scratchKib := fld b 34 2, declineTpl := fld b 36 2 }

/-- Address of a program descriptor. -/
def pdtAddr (s : State) (p : Nat) : Nat := s.getF Fld.ADM_PDT_BASE * 4096 + 64 * p

/-- The descriptor of a program as ADM sees it: from its cache, or from memory into it (R26). The cache keeps every descriptor that
it has read until a descriptor update of that program: DESIGN CHOICE (log 14). -/
def descriptor (s : State) (p : Nat) : List Byte × State :=
  match s.adm.pdt.lookup p with
  | some b => (b, s)
  | none =>
    let b := s.rd (pdtAddr s p) 64
    (b, { s with adm := { pdt := (p, b) :: s.adm.pdt } })

/-- The descriptor that a route gives, if it passes R23. -/
def programFor (s : State) (d : Dialect) (key : Nat) : Option (Nat × Budget) × State :=
  match d.route key with
  | none => (none, s)
  | some p =>
    if s.getF Fld.ADM_PDT_COUNT ≤ p then (none, s)
    else
      let (b, s1) := descriptor s p
      let pd := readBudget b
      if !bitAt (fld b 11 1) 7 ∨ d.templates.length ≤ pd.declineTpl ∨ s.getF Fld.XLT_SCR_AREA_KIB < pd.scratchKib then
        (none, s1)
      else (some (p, pd), s1)

/-! ## One decision -/

/-- A framed message as ADM takes it. -/
structure Taken where
  src : TxnSrc
  tin : Nat
  dialect : Nat
  bytes : List Byte
  note : Bool
  deriving DecidableEq, Repr

/-- Refuses a message with a reason (R32): counted, and its busy response is due. -/
def refuseMsg (s : State) (m : Taken) (dtab reason : Nat) (si : Bool) : State :=
  let s1 := s.bump (Off.ADM_REFUSE_CNT (reason - 1))
  { s1 with busy := s1.busy ++
      [{ at_ := s.now, src := m.src, dialect := m.dialect, dtab := dtab, si := si, msg := m.bytes, reason := reason }] }

/-- The lowest free slot of a tile (R67). -/
def freeSlot_ (s : State) (t : TileId) (max_ : Nat) (si : Bool) : Nat :=
  ((List.range max_).find? fun i => !(s.txns.any fun x => x.home == t && x.si == si && x.slot == i)).getD 0

/-- The ACCEPTED notice of R346. -/
def noteAccepted (s : State) (m : Taken) (an deadline : Nat) : State :=
  match m.note, m.src with
  | true, .sq n tag _ _ =>
    queueCpl s { cq := n.val, status := 0x10, reason := 0, sq := n.val, rsp := [], addr := 0, cap := 0, tag := tag,
                 an := an, jsn := 0, deadline := deadline, conn := none, moved := false, desc := none }
  | _, _ => s

/-- Adds an accepted transaction (R13, R29, R31). -/
def addTxn (s : State) (m : Taken) (an deadline dtab prog key bkt : Nat) (pd : Budget) (t : TileId) (si : Bool) : State :=
  let x : Txn :=
    { an := an, deadline := deadline, tin := m.tin, src := m.src, dialect := m.dialect, dtab := dtab, prog := prog,
      pd := pd, egress := s.getF Fld.ADM_EGRESS_NS, tile := t, home := t,
      slot := freeSlot_ s t (if si then 64 else tileMax s) si, bkt := bkt, si := si, typeKey := leBytes 4 key,
      msg := m.bytes, reqPa := 0, reqLen := 0, rspPa := 0, rspImage := [], g1 := 0, g2 := 0, phase := .parse,
      owner := .ended, run := 0, counted := 0, replays := 0, remCyc := pd.cycles, remPke := pd.pkeNs,
      remSym := pd.symNs, nCrypt := 0, nLdg := 0, nRemote := 0, declPke := 0, declSym := 0, wlog := [], jsn := none,
      rsp := none, code := 0, mirrored := false, tpl := none }
  noteAccepted ((({ s with txns := s.txns ++ [x] }).bump Off.ADM_ACCEPT_CNT).countOutstanding) m an deadline

/-- accept (R29): the AN is the device id and the next local sequence. -/
def acceptMsg (s : State) (m : Taken) (deadline dtab prog key bkt : Nat) (pd : Budget) (t : TileId) : State :=
  let n := s.getF Fld.ADM_ANSEQ_NEXT
  let an := s.getF Fld.ADM_ANSEQ_DEVICE_ID * 2 ^ 54 + n
  addTxn (s.setF Fld.ADM_ANSEQ_NEXT (n + 1)) m an deadline dtab prog key bkt pd t false

/-- The tests of R29 that follow the deadline, for a message with a program. -/
def testMsg (s : State) (m : Taken) (dtab prog key : Nat) (pd : Budget) : State :=
  let deadline := m.tin + s.getF (Fld.ADM_CLASS_DEADLINE_NS pd.cls)
  let margin := pd.blockNs + s.getF Fld.ADM_EGRESS_NS
  if deadline ≤ s.now + margin then refuseMsg s m dtab 3 false
  else
    let starts := bucketStarts s
    let b := bucketOf starts (deadline - margin)
    if 65536 ≤ s.txns.countP Txn.undecided then refuseMsg s m dtab 4 false
    else if !fits s starts .pke b pd.pkeNs then refuseMsg s m dtab 5 false
    else if !fits s starts .sym b pd.symNs then refuseMsg s m dtab 6 false
    else match bestTile s starts b (allTiles.filter (tileTakes s starts b pd.cycles)) with
      | none => refuseMsg s m dtab 7 false
      | some t => acceptMsg s m deadline dtab prog key b pd t

/-- admit (R29). -/
def admitMsg (s : State) (m : Taken) : State :=
  let (dtab, s1) := dialectEntry s m.dialect
  if s.getF Fld.ADM_CTRL_ENABLE = 0 ∨ s.getF Fld.XLT_CTRL_ENABLE = 0 then refuseMsg s1 m dtab 2 false
  else
    let (d, s2) := dialectAt s1 false dtab
    match d with
    | none => refuseMsg s2 m dtab 1 false
    | some d =>
      match typeKey d m.bytes with
      | none => refuseMsg s2 m dtab 1 false
      | some key =>
        match programFor s2 d key with
        | (none, s3) => refuseMsg s3 m dtab 1 false
        | (some (p, pd), s3) => testMsg s3 m dtab p key pd

/-! ## Stand-in (R366 to R368) -/

/-- BOOT_STATUS.PHASE. -/
def bootPhase (s : State) : Nat := s.getF Fld.BOOT_STATUS_PHASE

/-- Stand-in serves: it opened, and release has not begun (R358, R375). -/
def standinServes (s : State) : Bool := s.boot.siOpen && (bootPhase s == 3 || bootPhase s == 4)

/-- A stand-in budget: class A, nothing counted (R367). -/
def standinBudget : Budget :=
  { entry := 0, asid := 0, key := 0, cls := 0, cycles := 0, blockNs := 0, pkeNs := 0, symNs := 0, cryptOps := 0,
    ldgOps := 0, remoteOps := 0, scratchKib := 0, declineTpl := 1 }

/-- Takes a stand-in message (R367, R368): one that is too long, or beyond 64 outstanding, or that finds the log full, is
refused with DISABLED; one whose deadline has passed with LATE (log 40). -/
def standinMsg (s : State) (m : Taken) : State :=
  let deadline := m.tin + 2000000
  if 2048 < m.bytes.length ∨ 64 ≤ (s.txns.countP fun t => t.si) ∨ 131072 ≤ s.getF Fld.BOOT_STATUS_SILOG then
    refuseMsg s m standinTable 2 true
  else if deadline ≤ s.now + s.getF Fld.ADM_EGRESS_NS then refuseMsg s m standinTable 3 true
  else
    let (d, s1) := dialectAt s true standinTable
    let key := (d.bind fun d => typeKey d m.bytes).getD 0
    let an := s.getF Fld.ADM_ANSEQ_DEVICE_ID * 2 ^ 54 + 2 ^ 53 + s.boot.siNext % 2 ^ 53
    addTxn { s1 with boot := { s1.boot with siNext := s1.boot.siNext + 1 } } m an deadline standinTable 0xFFFF key
      (bucketOf (bucketStarts s) deadline) standinBudget 0 true

/-! ## Taking messages -/

/-- ADM takes a message: before release as stand-in, after it under R29; in between it waits (R366, R375). -/
def takeMsg (s : State) (m : Taken) : State :=
  if bootPhase s = 6 then admitMsg s m else standinMsg s m

/-- ADM takes messages now. -/
def admTakes (s : State) : Bool := bootPhase s == 6 || standinServes s

/-- The oldest handover of a handle whose framer holds a message (R48). -/
def framedConn (s : State) (h : Nat) : Option Conn := s.net.conns.find? fun c => c.h == h && !c.msgs.isEmpty

/-- A closed connection is forgotten once ADM has taken its last message (R48). -/
def dropIfEmpty (s : State) (c : Conn) : State := if c.st = .closed ∧ c.msgs = [] then dropConn s c else putConn s c

/-- ADM takes the next framed message of a connection. NET sends no window update for the room that this makes; its next segment
carries the window (R49; log 16). -/
def takeFromConn (s : State) (h : Nat) : State :=
  match framedConn s h with
  | none => s
  | some c =>
    match c.msgs with
    | [] => s
    | (bs, tin) :: t =>
      takeMsg (dropIfEmpty s { c with msgs := t })
        { src := .conn c.h c.gen c.tag, tin := tin, dialect := c.dialect, bytes := bs, note := false }

/-- The SQ whose turn it is (R343): the next after the one served last that holds a message. -/
def nextSq (s : State) : Option (Fin 16) :=
  ((List.range 16).map fun i : Nat => (⟨(s.hif.turn + 1 + i) % 16, Nat.mod_lt _ (by decide)⟩ : Fin 16)).find? fun n =>
    s.hif.msgs.any fun m => m.sq == n

/-- ADM takes the next message of a submission ring; its descriptor is then done (R343). -/
def takeFromSq (s : State) (n : Fin 16) : State :=
  match s.hif.msgs.find? fun m => m.sq == n with
  | none => s
  | some m =>
    let i := (s.hif.msgs.idxOf? m).getD 0
    let s1 : State := { s with hif := { s.hif with
      msgs := s.hif.msgs.take i ++ s.hif.msgs.drop (i + 1), turn := n.val } }
    let s2 := descDone (s1.bump Off.HIF_SQ_CNT) (ringSQ n) m.idx
    takeMsg s2 { src := .sq n m.tag m.rspAddr m.rspCap, tin := m.tin, dialect := m.dialect, bytes := m.bytes,
                 note := m.note }

/-- ADMIT (R29): ADM takes one framed message and decides it. -/
def execAdmission (m : MsgSource) (s : State) : Host.Outcome State Fault Refusal :=
  .next (if !admTakes s then s
    else match m with
      | .conn h => takeFromConn s h
      | .sq n => if nextSq s = some n ∧ bootPhase s = 6 then takeFromSq s n else s)

end Sys2Proof.Machine
end

