-- ==== Sys2Proof/Machine/NetRecv.lean ====
section
/-! DEFINITION. What NET receives (03): frames, packets and TCP segments (R44, R46, R49), TLS records, framing (R52), and
the ports' failures and frames of the host (R54, R55, R349). Log 16 holds the readings of the RFCs, log 29 what goes to
the host. -/

namespace Sys2Proof.Machine

/-! ## Frames for the host -/

/-- The port is in service with its link trained; in stand-in service PORT.0 alone (R43, R366). -/
def portServes (s : State) (p : Fin 8) : Bool :=
  portLinkUp s p && (if standinServes s then p.val == 0 else s.getF Fld.NET_CTRL_ENABLE == 1)

/-- Counts one host frame of a port in the current millisecond: none beyond EXC_RATE. -/
def excAllowed (s : State) (p : Fin 8) : Option State :=
  let ms := s.now / 1000000
  let x := s.net.exc[p]
  let n := if x.1 = ms then x.2 else 0
  if s.getF Fld.NET_CTRL_EXC_RATE ≤ n then none
  else some { s with net := { s.net with exc := s.net.exc.set p (ms, n + 1) } }

/-- Gives a frame to the host (R348, KIND 1), with its fraction of a nanosecond for a PTP event message (R53). -/
def giveHost (s : State) (p : Fin 8) (frame : List Byte) (frac : Nat) : State :=
  match excAllowed s p with
  | none => s.bump Off.HIF_EXCDROP_CNT
  | some s1 => queueExc s1 { kind := 1, conn := none,
                             bytes := excBytes 1 p.val 0 0 0 0 s.now frac 0 frame }

/-! ## Packets -/

/-- A TCP segment as received: where from and where to, its header fields, options and data; `odd` marks IPv4 options or
IPv6 extension headers. -/
structure Seg where
  v6 : Bool
  src : List Byte
  dst : List Byte
  sport : Nat
  dport : Nat
  seq : Nat
  ack : Nat
  flags : Nat
  wnd : Nat
  opts : List Byte
  data : List Byte
  odd : Bool
  deriving DecidableEq, Repr

/-- What a packet is to NET: discarded for a checksum, the host's, or a segment. -/
inductive Packet where
  | bad
  | host
  | seg (x : Seg)
  deriving DecidableEq, Repr

/-- The TCP segment in the payload of a packet. `whole` says that the payload is complete, so that its checksum covers
it. -/
def readTcp (v6 : Bool) (src dst t : List Byte) (odd whole : Bool) : Packet :=
  let off := 4 * (fld t 12 1 / 16)
  let pseudo := src ++ dst ++
    (if v6 then beBytes 4 t.length ++ bytesOf [0, 0, 0, 6] else bytesOf [0, 6] ++ beBytes 2 t.length)
  if t.length < 20 then .host
  else if whole ∧ onesSum (pseudo ++ t) ≠ 65535 then .bad
  else if off < 20 ∨ t.length < off then .host
  else .seg { v6 := v6, src := src, dst := dst, sport := fldBe t 0 2, dport := fldBe t 2 2, seq := fldBe t 4 4,
              ack := fldBe t 8 4, flags := fld t 13 1, wnd := fldBe t 14 2, opts := sliceOf t 20 (off - 20),
              data := t.drop off, odd := odd }

/-- An IPv4 packet. -/
def readIpv4 (b : List Byte) : Packet :=
  let hl := 4 * (fld b 0 1 % 16)
  let len := fldBe b 2 2
  if fld b 0 1 / 16 ≠ 4 ∨ hl < 20 ∨ len < hl ∨ b.length < len then .host
  else if onesSum (b.take hl) ≠ 65535 then .bad
  else if fldBe b 6 2 % 16384 ≠ 0 ∨ fld b 9 1 ≠ 6 then .host
  else readTcp false (sliceOf b 12 4) (sliceOf b 16 4) ((b.take len).drop hl) (decide (20 < hl)) true

/-- The payload of an IPv6 packet after its extension headers: TCP bytes, whether there were any, whether the payload is
whole. -/
def ipv6Payload : Nat → Nat → List Byte → Bool → Bool → Option (List Byte × Bool × Bool)
  | 0, _, _, _, _ => none
  | fuel + 1, next, b, odd, whole =>
    if next = 6 then some (b, odd, whole)
    else if b.length < 8 then none
    else if next = 44 then
      if fldBe b 2 2 / 8 ≠ 0 then none
      else ipv6Payload fuel (fld b 0 1) (b.drop 8) true (whole && fldBe b 2 2 % 2 == 0)
    else if next = 51 then ipv6Payload fuel (fld b 0 1) (b.drop (4 * (fld b 1 1 + 2))) true whole
    else if next = 0 ∨ next = 43 ∨ next = 60 ∨ next = 135 ∨ next = 139 ∨ next = 140 then
      ipv6Payload fuel (fld b 0 1) (b.drop (8 * (fld b 1 1 + 1))) true whole
    else none

/-- An IPv6 packet. -/
def readIpv6 (b : List Byte) : Packet :=
  let len := fldBe b 4 2
  if fld b 0 1 / 16 ≠ 6 ∨ b.length < 40 + len then .host
  else match ipv6Payload 16 (fld b 6 1) (sliceOf b 40 len) false true with
    | none => .host
    | some (t, odd, whole) => readTcp true (sliceOf b 8 16) (sliceOf b 24 16) t odd whole

/-- Whether a packet is an IEEE 1588 event message (R53): message types 0 to 3, over Ethernet or to UDP port 319. -/
def ptpEvent (etype : Nat) (b : List Byte) : Bool :=
  let udp (n : Nat) : Bool := fldBe b (n + 2) 2 == 319 && decide (fld b (n + 8) 1 % 16 < 4)
  if etype = 0x88F7 then decide (fld b 0 1 % 16 < 4)
  else if etype = 0x0800 then fld b 9 1 == 17 && udp (4 * (fld b 0 1 % 16))
  else etype == 0x86DD && fld b 6 1 == 17 && udp 40

/-! ## TLS records and framing -/

/-- What the framer finds at the head of the stream (R52). -/
inductive Framed where
  | more
  | error
  | empty (rest : List (Byte × Nat))
  | msg (bytes : List Byte) (tin : Nat) (rest : List (Byte × Nat))
  deriving DecidableEq, Repr

/-- A message of `n` bytes after a prefix of `k`. -/
def framedMsg (p : List (Byte × Nat)) (k n : Nat) : Framed :=
  if 65536 < n then .error
  else if n = 0 then .empty (p.drop k)
  else if p.length < k + n then .more
  else
    let m := (p.drop k).take n
    .msg (m.map fun x => x.1) ((m.getLast?.map fun x => x.2).getD 0) (p.drop (k + n))

/-- One step of the framer (R52, the table *Framing codes*). Under code 5 a length of zero is a keep-alive whether it counts the
prefix (2) or not (0), and 1, less than the prefix, is a framing error (log 16). -/
def frameOne (c : Conn) : Framed :=
  let bs := c.plain.map fun x => x.1
  let pre (k : Nat) : Bool := decide (k ≤ bs.length)
  match c.framing with
  | 1 => if pre 2 then framedMsg c.plain 2 (fldBe bs 0 2) else .more
  | 2 => if pre 4 then framedMsg c.plain 4 (fldBe bs 0 4) else .more
  | 3 =>
    let ds := bs.take 4
    if ds.all fun d => decide (0x30 ≤ d.toNat) && decide (d.toNat ≤ 0x39) then
      if pre 4 then framedMsg c.plain 4 (ds.foldl (fun a d => 10 * a + (d.toNat - 0x30)) 0) else .more
    else .error
  | 4 =>
    match bs.idxOf? (byte (fld c.entry 0x0B 1)) with
    | some 0 => .empty (c.plain.drop 1)
    | some n =>
      match framedMsg c.plain 0 n with
      | .msg m t r => .msg m t (r.drop 1)
      | r => r
    | none => if 65536 < bs.length then .error else .more
  | _ =>
    if pre 2 then
      (let n := fldBe bs 0 2; if n = 0 then .empty (c.plain.drop 2) else if n = 1 then .error else framedMsg c.plain 2 (n - 2))
    else .more

/-- Splits the decrypted stream of a connection into messages (R49, R52). -/
def frameAll : Nat → State → Conn → State
  | 0, s, c => putConn s c
  | fuel + 1, s, c =>
    match frameOne c with
    | .more => putConn s c
    | .error => startDrain (putConn s c) c 0x06
    | .empty r => frameAll fuel (s.bump Off.NET_KEEPALIVE_CNT) { c with plain := r }
    | .msg m t r => frameAll fuel s { c with plain := r, msgs := c.msgs ++ [(m, t)] }

/-- The content and its type in the plaintext of a record. -/
def innerContent (pt : List Byte) : List Byte × Nat :=
  let r := pt.reverse.dropWhile fun b => b == 0
  ((r.drop 1).reverse, (r.headD 0).toNat)

/-- What the content of an authenticated record does: application data, handshake, alert. -/
def recordContent (s : State) (c : Conn) (content : List Byte) (times : List Nat) (ty : Nat) : State :=
  if ty = 0x17 then
    let p := c.plain ++ content.zip times
    frameAll (p.length + 1) s { c with plain := p }
  else if ty = 0x16 then
    let c1 : Conn := { c with st := .paused }
    connEvent (connWrite (putConn s c1) c.h 0 [2]) c1 3 0 content
  else if ty = 0x15 then startDrain (putConn s c) c 0x04
  else closeConn s c 0x05

/-- After a record: REKEY_DUE, or handback where the keys are worn out (R51). -/
def afterRecord (s : State) (h gen : Nat) : State :=
  match s.conn? h gen with
  | none => s
  | some c => if c.st = .closed then s else if rekeyOver c then closeConn s c 0x05 else noteRekey s c

/-- Processes the whole records that an active connection holds, in order. -/
def processRecords : Nat → State → Nat → Nat → State
  | 0, s, _, _ => s
  | fuel + 1, s, h, gen =>
    match s.conn? h gen with
    | none => s
    | some c =>
      let hdr := (c.rbuf.take 5).map fun x => x.1
      let len := fldBe hdr 3 2
      if c.st ≠ .active ∨ c.rbuf.length < 5 then s
      else if fld hdr 0 1 ≠ 0x17 ∨ 16640 < len then closeConn s c 0x05
      else if c.rbuf.length < 5 + len then s
      else
        let body := (c.rbuf.drop 5).take len
        let opened : Option (List Byte) := match s.keyOf (trafficSpace c.h) c.rxKey with
          | some k => aeadOpen c.suite k (recordNonce c.rxIv c.rxSeq) hdr (body.map fun x => x.1)
          | none => none
        match opened with
        | none => closeConn s c 0x05
        | some pt =>
          let x := innerContent pt
          let c1 : Conn := { c with rbuf := c.rbuf.drop (5 + len), rxSeq := c.rxSeq + 1 }
          let s1 := recordContent (putConn s c1) c1 x.1 (body.map fun y => y.2) x.2
          processRecords fuel (afterRecord s1 h gen) h gen

/-- Processes what a connection has received. -/
def readStream (s : State) (c : Conn) : State := processRecords (c.rbuf.length + 1) s c.h c.gen

/-! ## TCP -/

/-- The body of a TCP option. -/
def tcpOption (kind : Nat) : Nat → List Byte → Option (List Byte)
  | 0, _ => none
  | fuel + 1, bs =>
    match bs with
    | [] => none
    | b :: t =>
      if b = 0 then none
      else if b = 1 then tcpOption kind fuel t
      else
        let n := (t.headD 0).toNat
        if n < 2 then none
        else if b.toNat = kind then some ((t.take (n - 1)).drop 1)
        else tcpOption kind fuel (t.drop (n - 1))

/-- Received SACK blocks that lie within what has been sent (R49). -/
def sackBlocks (t : Tcp) (body : List Byte) : List (Nat × Nat) :=
  ((List.range (body.length / 8)).map fun i => (fldBe body (8 * i) 4, fldBe body (8 * i + 4) 4)).filter fun b =>
    seqLt b.1 b.2 && !seqLt b.1 t.una && !seqLt t.max_ b.2

/-- RFC 6298 with a sample of the round trip in ns: the smoothed time, its variation and the timeout. -/
def rttSample (s : State) (t : Tcp) (r : Nat) : Tcp :=
  match t.srtt with
  | none => { t with srtt := some r, rttvar := r / 2, rto := clampRto s (r + 4 * (r / 2)), timed := none }
  | some x =>
    let d := if x < r then r - x else x - r
    let v := (3 * t.rttvar + d) / 4
    let x2 := (7 * x + r) / 8
    { t with srtt := some x2, rttvar := v, rto := clampRto s (x2 + 4 * v), timed := none }

/-- The congestion window after `n` bytes are newly acknowledged outside recovery (RFC 5681). -/
def grownCwnd (t : Tcp) (mss n : Nat) : Nat :=
  if t.cwnd < t.ssthresh then t.cwnd + min n mss else t.cwnd + max 1 (mss * mss / max 1 t.cwnd)

/-- A new acknowledgement (R49): what it covers leaves the buffer, and the window grows or recovery goes on (RFC 6582). -/
def ackNew (s : State) (c : Conn) (ack : Nat) : State :=
  let t := c.tcp
  let n := seqDist t.una ack
  let mss := c.mss s
  let t1 : Tcp := match t.timed with
    | some (q, at_) => if seqLt ack q then t else rttSample s t (s.now - at_)
    | none => t
  let full : Bool := match t.recover with | some r => !seqLt ack r | none => true
  let cwnd := match t.recover with
    | none => grownCwnd t mss n
    | some _ => if full then t.ssthresh else t.cwnd - n + (if mss ≤ n then mss else 0)
  let t2 : Tcp := { t1 with
    una := ack, nxt := (if seqLt t.nxt ack then ack else t.nxt), cwnd := cwnd, dup := 0, tries := 0,
    recover := (if full then none else t.recover), timed := (if full then t1.timed else none), sacked := t.sacked.filter fun b => seqLt ack b.2,
    rtoAt := (if ack % 2 ^ 32 = t.max_ then none else some (s.now + t1.rto)) }
  let c1 : Conn := { c with
    tcp := t2, sbuf := c.sbuf.drop n,
    rsps := c.rsps.filter fun r => match r.endSeq with | some e => seqLt ack e | none => true }
  if full then putConn s c1 else resendFirst (putConn s c1) c1

/-- A duplicate acknowledgement (R49): the third starts a fast retransmit, unless bytes sent before the last recovery or timeout
are still unacknowledged (RFC 6582). -/
def ackDup (s : State) (c : Conn) : State :=
  let t := c.tcp
  let mss := c.mss s
  if t.recover.isSome then putConn s { c with tcp := { t with cwnd := t.cwnd + mss } }
  else if t.dup + 1 < 3 ∨ (t.high.any fun r => !seqLt r t.una) then putConn s { c with tcp := { t with dup := t.dup + 1 } }
  else
    let half := halfFlight s c
    let c1 : Conn := { c with tcp := { t with
      dup := 3, ssthresh := half, cwnd := half + 3 * mss, recover := some t.max_, high := some t.max_, timed := none } }
    resendFirst (putConn s c1) c1

/-- The peer's window: a closed one is probed (R49); what was sent into it is timed again when it opens. -/
def setWindow (s : State) (t : Tcp) (wnd : Nat) : Tcp :=
  if wnd = 0 then
    { t with wnd := 0, closedAt := some (t.closedAt.getD s.now),
             probeAt := (if t.closedAt.isSome then t.probeAt else s.now + t.rto) }
  else
    { t with wnd := wnd, closedAt := none,
             rtoAt := (if t.closedAt.isSome ∧ t.una ≠ t.max_ then some (t.rtoAt.getD (s.now + t.rto)) else t.rtoAt) }

/-- The acknowledgement and window fields of a segment; false where it acknowledges what was never sent. -/
def takeAck (s : State) (c : Conn) (x : Seg) : Bool × State :=
  let t := c.tcp
  if seqLt t.max_ x.ack then (false, sendAck s c)
  else
    let wnd := x.wnd * 2 ^ min 14 (fld c.entry 6 1)
    let blocks := if c.flag 2 then ((tcpOption 5 40 x.opts).map (sackBlocks t)).getD [] else []
    let t1 := setWindow s { t with sacked := (t.sacked ++ blocks).eraseDups } wnd
    let c1 : Conn := { c with tcp := t1 }
    let same := decide (x.ack = t.una) && x.data.isEmpty && x.flags % 4 == 0 && wnd == t.wnd && t.una != t.max_
    if seqLt t.una x.ack then (true, ackNew s c1 x.ack)
    else if same then (true, ackDup s c1)
    else (true, putConn s c1)

/-! ### Data -/

/-- A piece of an out-of-order range by its distance from the next byte expected. -/
abbrev Piece : Type := Nat × List (Byte × Nat)

/-- What of a piece a range does not cover. -/
def cutPiece (r p : Piece) : List Piece :=
  let e := r.1 + r.2.length
  ([(p.1, p.2.take (r.1 - p.1)), (max p.1 e, p.2.drop (e - p.1))] : List Piece).filter fun q => !q.2.isEmpty

/-- Inserts a piece in order. -/
def insertPiece (p : Piece) : List Piece → List Piece
  | [] => [p]
  | q :: t => if p.1 ≤ q.1 then p :: q :: t else q :: insertPiece p t

/-- Joins pieces that touch. -/
def joinPieces : List Piece → List Piece
  | [] => []
  | p :: t =>
    match joinPieces t with
    | [] => [p]
    | q :: u => if p.1 + p.2.length = q.1 then (p.1, p.2 ++ q.2) :: u else p :: q :: u

/-- Ranges with a piece added; bytes already held stay (R53). -/
def addPiece (rs : List Piece) (p : Piece) : List Piece :=
  let new := rs.foldl (fun ps r => ps.flatMap (cutPiece r)) [p]
  joinPieces (new.foldl (fun l q => insertPiece q l) rs)

/-- Puts received data in its place: what is now in order joins the stream; none where it would open a range too many. -/
def placeData (s : State) (c : Conn) (off : Nat) (data : List (Byte × Nat)) : Option Conn :=
  let rs : List Piece := c.ooo.map fun r => (seqDist c.rcv r.1, r.2)
  let all := addPiece rs (off, data)
  match all with
  | (0, bs) :: t =>
    let rcv := seqAdd c.rcv bs.length
    some { c with rbuf := c.rbuf ++ bs, rcv := rcv, ooo := t.map fun r => (seqAdd c.rcv r.1, r.2) }
  | _ =>
    if s.getF Fld.NET_RXBUF_OOO_RANGES < all.length then none
    else some { c with ooo := all.map fun r => (seqAdd c.rcv r.1, r.2) }

/-- Acknowledges data in order (R49): every second full-sized segment at once, any other within DELACK_US; at once after a
gap. -/
def ackData (s : State) (c : Conn) (n : Nat) (gap : Bool) : State :=
  let k := c.ackCnt + (if c.mss s ≤ n then 1 else 0)
  if gap ∨ 2 ≤ k then sendAck (putConn s c) c
  else putConn s { c with ackCnt := k, ackAt := some (c.ackAt.getD (s.now + 1000 * s.getF Fld.NET_TCP_DELACK_US)) }

/-- A FIN in order (R46, R48): acknowledged, after the messages before it are framed. -/
def takeFin (s : State) (h gen : Nat) : State :=
  match s.conn? h gen with
  | none => s
  | some c =>
    if c.st = .closed then s
    else
      let c1 : Conn := { c with rcv := seqAdd c.rcv 1 }
      let s1 := sendAck (putConn s c1) c1
      match s1.conn? h gen with
      | some c2 => startDrain s1 c2 0x01
      | none => s1

/-- The data of an acceptable segment (R48, R49). A connection that drains takes none. -/
def takeData (s : State) (c : Conn) (x : Seg) (wnd : Nat) : State :=
  let draining : Bool := match c.st with | .draining _ => true | _ => false
  let behind := if seqLt x.seq c.rcv then seqDist x.seq c.rcv else 0
  let off := if seqLt x.seq c.rcv then 0 else seqDist c.rcv x.seq
  let all := (x.data.drop behind).map fun b => (b, s.now)
  let data := all.take (wnd - off)
  let fin := bitAt x.flags 0 && data.length == all.length
  if draining then s
  else if wnd = 0 ∧ x.data ≠ [] then sendAck s c
  else if data = [] ∧ !fin then (if behind = 0 then s else sendAck s c)
  else
    let placed : Option Conn := if data = [] then some c else placeData s c off data
    match placed with
    | none => s
    | some c1 =>
      let s1 := if data = [] then s
        else ackData s c1 data.length (decide (c1.rcv = c.rcv) || !c.ooo.isEmpty)
      let s2 := readStream s1 c1
      if fin ∧ c1.rcv = seqAdd x.seq x.data.length then takeFin s2 c.h c.gen else s2

/-- Whether a segment lies in the receive window (RFC 9293). -/
def acceptable (c : Conn) (x : Seg) (wnd : Nat) : Bool :=
  let len := x.data.length + b2n (bitAt x.flags 0) + b2n (bitAt x.flags 1)
  let inside (q : Nat) : Bool := decide (seqDist c.rcv q < wnd)
  if wnd = 0 then x.seq % 2 ^ 32 == c.rcv
  else inside x.seq || (decide (0 < len) && inside (seqAdd x.seq (len - 1)))

/-- A segment of a handed-over connection (R46, R49). -/
def takeSegment (s : State) (c0 : Conn) (x : Seg) : State :=
  let ts := (tcpOption 8 40 x.opts).map fun b => fldBe b 0 4
  let wnd := recvWindow s c0
  let rst := bitAt x.flags 2
  let stale : Bool := match ts with | some v => seqLt v c0.tsRecent | none => false
  if x.odd then startDrain s c0 0x0B
  else if c0.stamps ∧ ts.isNone ∧ !rst then s
  else if c0.stamps ∧ stale ∧ !rst then sendAck s c0
  else if !acceptable c0 x wnd then (if rst then s else sendAck s c0)
  else if rst then closeConn s c0 0x02
  else if bitAt x.flags 1 then sendAck s c0
  else if bitAt x.flags 5 then startDrain s c0 0x03
  else if !bitAt x.flags 4 then s
  else
    let c : Conn := match ts with
      | some v => if c0.stamps ∧ !seqLt c0.rcv x.seq then { c0 with tsRecent := v } else c0
      | none => c0
    match takeAck s c x with
    | (false, s1) => s1
    | (true, s1) =>
      match s1.conn? c.h c.gen with
      | some c1 => takeData s1 c1 x wnd
      | none => s1

/-- The connection of a segment on a port. -/
def connOf (s : State) (p : Fin 8) (x : Seg) : Option Conn :=
  s.net.conns.find? fun c =>
    servesPort c p && c.v6 == x.v6 && c.localIp == x.dst && c.remoteIp == x.src &&
      fld c.entry 0x0C 2 == x.dport && fld c.entry 0x0E 2 == x.sport

/-! ## The receive MAC -/

/-- The payload of an accepted frame by its type (R44, the table *Protocol support on the data path*). -/
def takeFrame (s : State) (p : Fin 8) (frame : List Byte) (etype : Nat) (body : List Byte) : State :=
  if etype = 0x8808 ∧ (fldBe body 0 2 = 1 ∨ fldBe body 0 2 = 0x0101) then s.bump Off.NET_PAUSE_CNT
  else if s.getF Fld.NET_CTRL_PTP_EN = 1 ∧ ptpEvent etype body then giveHost s p frame (s.sys.frac / 65536)
  else
    let pkt := if etype = 0x0800 then readIpv4 body else if etype = 0x86DD then readIpv6 body else .host
    match pkt with
    | .bad => s.bump Off.NET_CSUM_CNT
    | .host => giveHost s p frame 0
    | .seg x =>
      match connOf s p x with
      | none => giveHost s p frame 0
      | some c => takeSegment s c x

/-- FRAME_RECEIVE (R44): a frame with its FCS arrives on a port. -/
def execFrameReceive (p : Fin 8) (bs : List Byte) (s : State) : Host.Outcome State Fault Refusal :=
  .next (
    let frame := bs.take (bs.length - 4)
    let tagged := fldBe frame 12 2 = 0x8100
    let n := if tagged then 18 else 14
    let etype := fldBe frame (n - 2) 2
    if !portServes s p ∨ bs.length < 18 ∨ frame.length < n then s
    else if leNat (bs.drop (bs.length - 4)) ≠ ethFcs frame then s
    else if tagged ∧ etype = 0x8100 then s
    else if s.getF (Fld.NET_PORT_MTU p.val) + n < frame.length then s
    else takeFrame s p frame etype (frame.drop n))

/-! ## Ports -/

/-- A port that is up fails (R54). With its partner up and FAILOVER_EN its connections move there; with its partner down
they, and any left on the partner, are handed back. In stand-in service PORT.0 alone serves and has no partner (R366). -/
def failPort (s : State) (p : Fin 8) : State :=
  if s.getF (Fld.NET_PORT_STATUS_LINK_UP p.val) ≠ 1 then s
  else
    let s1 := faultHold ((s.setF (Fld.NET_PORT_STATUS_LINK_UP p.val) 0).report
      { island := 38, unit := p.val, cls := .eth, severity := 1 })
    if !portLinkUp s (partner p) ∨ standinService s then
      (portConns s p ++ portConns s (partner p)).foldl (fun s c => closeConn s c 0x09) s1
    else if s.getF Fld.NET_CTRL_FAILOVER_EN = 1 then failOver s1 p
    else s1

/-- PORT_FAIL (R54). -/
def execPortFail (p : Fin 8) (cause : PortCause) (s : State) : Host.Outcome State Fault Refusal :=
  have _ := cause
  .next (failPort s p)

/-- PORT_LINK_UP (R55): a port that MODE groups has trained and aligned; connections stay where they are. Without its reference
clock no lane aligns (R453). -/
def execPortLinkUp (p : Fin 8) (s : State) : Host.Outcome State Fault Refusal :=
  .next (if portGrouped s p ∧ !s.pwr.clkLost.contains .eth then s.setF (Fld.NET_PORT_STATUS_LINK_UP p.val) 1 else s)

/-- Whether the fields of a transmit descriptor are in range (R349). -/
def txDescOk (s : State) (d : List Byte) : Bool :=
  decide (fld d 0 1 < 8) && decide (fld d 1 1 < 2) && decide (60 ≤ fld d 2 2) &&
    decide (fld d 2 2 ≤ s.getF (Fld.NET_PORT_MTU (fld d 0 1 % 8)) + 22) && fld d 4 4 == 0 && fld d 24 40 == 0

/-- An event message in an Ethernet frame, tagged or not (R44, R53). -/
def ptpFrame (frame : List Byte) : Bool :=
  let n := if fldBe frame 12 2 = 0x8100 then 18 else 14
  ptpEvent (fldBe frame (n - 2) 2) (frame.drop n)

/-- Sends the frame of a transmit descriptor (R349); a PAUSE or PFC frame of the host, which the MAC itself never forms, is sent
as any other (R44; log 29). A timestamp that is requested is taken of an event message while PTP_EN is 1 (R53; log 29). -/
def sendHostFrame (s : State) (d : List Byte) : State :=
  let p : Fin 8 := ⟨fld d 0 1 % 8, Nat.mod_lt _ (by decide)⟩
  match hifRead s (hostPa (fld d 8 8)) (fld d 2 2) with
  | (none, s1) => s1
  | (some frame, s1) =>
    if !portServes s1 p then s1
    else
      let s2 := sendFrame s1 p frame
      if fld d 1 1 = 1 ∧ s.getF Fld.NET_CTRL_PTP_EN = 1 ∧ ptpFrame frame then
        queueExc s2 { kind := 6, conn := none,
                      bytes := excBytes 6 p.val 0 0 0 (fld d 16 8) s.now (s.sys.frac / 65536) 0 [] }
      else s2

/-- The host has written an entry into the slot of a ring that HIF takes next (log 3). -/
def hostPuts (s : State) (r : RingId) (bs : List Byte) : State := s.wr (slotPa s r (s.ring r).cons) (sliceOf bs 0 64)

/-- TXQ_TRANSMIT (R349): the next transmit descriptor, as which the host has written `desc` (log 3), is read and taken. -/
def execTxqTransmit (desc : List Byte) (s0 : State) : Host.Outcome State Fault Refusal :=
  let s := hostPuts s0 ringTXQ desc
  .next (if !ringHasEntry s ringTXQ then s0
    else match islandRead s .hif (slotPa s ringTXQ (s.ring ringTXQ).cons) 64 with
      | (none, s1) => stopRing s1 ringTXQ 2
      | (some desc, s1) =>
        let s2 := if txDescOk s1 desc then sendHostFrame s1 desc else s1.bump Off.HIF_RINGERR_CNT
        if ringRuns s2 ringTXQ then takeEntry s2 ringTXQ else s2)

end Sys2Proof.Machine
end

