-- ==== Sys2Proof/Machine/NetAdmin.lean ====
section
/-! DEFINITION. The admin commands of NET: handover (R45), close (R46), rekey ("TLS record states") and port move (R55). -/

namespace Sys2Proof.Machine

/-! ## Handover -/

/-- The fields of an entry that the host writes are in range, its reserved bytes zero, and its port one that MODE groups (R43, R45).
For which of these beyond the slots, SUITE and FRAMING a handover is refused is not stated (log 16). -/
def entryOk (s : State) (e : List Byte) : Bool :=
  portGrouped s ⟨fld e 2 1 % 8, Nat.mod_lt _ (by decide)⟩ &&
  fld e 1 1 / 16 == 0 && fld e 2 1 / 8 == 0 && decide (fld e 6 1 ≤ 14) && decide (fld e 7 1 ≤ 14) &&
    decide (1 ≤ fld e 0x0A 1) && decide (fld e 0x0A 1 ≤ 5) && fld e 0x36 2 == 0 && fld e 0x4C 4 == 0 &&
    decide (1 ≤ fld e 0x60 1) && decide (fld e 0x60 1 ≤ 3) && fld e 0x61 3 == 0

/-- A slot of a handle's traffic space holds a TLS_TRAFFIC key (R45, R274). -/
def trafficKey (s : State) (h slot : Nat) : Bool :=
  match s.keyOf (trafficSpace h) slot with
  | some k => k.usage 13
  | none => false

/-- The limits of stand-in connections (R367). -/
def standinConnOk (s : State) (h : Nat) (e : List Byte) : Bool :=
  decide (h < 1024) && fld e 2 1 == 0 && fld e 3 1 == s.boot.siDialect % 256

/-- Whether a handle names an entry. -/
def handleOk (s : State) (h : Nat) : Bool := standinService s || decide (h < s.getF Fld.NET_CONN_COUNT_COUNT)

/-- The TCP state of a connection at handover (R45, the table *Protocol support on the data path*). -/
def newTcp (s : State) (e : List Byte) : Tcp :=
  let nxt := fld e 0x38 4
  let wnd := fld e 0x40 4
  let mss := max 1 (fld e 8 2)
  let rto := clampRto s 1000000000
  { una := nxt, nxt := nxt, max_ := nxt, wnd := wnd, cwnd := s.getF Fld.NET_TCP_INIT_CWND * mss, ssthresh := 2 ^ 30,
    dup := 0, recover := none, high := none, sacked := [], srtt := none, rttvar := 0, rto := rto, rtoAt := none, tries := 0,
    timed := none, closedAt := (if wnd = 0 then some s.now else none), probeAt := s.now + rto }

/-- A connection as its entry describes it (R45). -/
def newConn (s : State) (h : Nat) (e : List Byte) : Conn :=
  { h := h, gen := s.net.nextGen, entry := patch e 0 [1], st := .active,
    port := ⟨fld e 2 1 % 8, Nat.mod_lt _ (by decide)⟩, tcp := newTcp s e, sbuf := [], rsps := [], rcv := fld e 0x3C 4,
    rbuf := [], ooo := [], tsRecent := fld e 0x44 4, ackCnt := 0, ackAt := none, rxSeq := fld e 0x50 8,
    txSeq := fld e 0x58 8, rxKey := fld e 0x64 2, txKey := fld e 0x66 2, rxIv := sliceOf e 0x68 12,
    txIv := sliceOf e 0x74 12, plain := [], msgs := [], rekeyDue := false }

/-- Handover (R45): the entry must be FREE. -/
def admHandover (a : AdminCmd) (s : State) : AdmRes × State :=
  let h := a.p0
  if !handleOk s h then admEnds .invalid s
  else match connRead s h with
    | (none, s1) => admEnds .invalid s1
    | (some e, s1) =>
      if fld e 0 1 ≠ 0 ∨ (s1.open? h).isSome then admEnds .wrongState s1
      else if !entryOk s1 e ∨ !trafficKey s1 h (fld e 0x64 2) ∨ !trafficKey s1 h (fld e 0x66 2) ∨
          (standinService s1 ∧ !standinConnOk s1 h e) then admEnds .invalid s1
      else
        let c := newConn s1 h e
        admEnds .success (connWrite { s1 with net := { s1.net with
          conns := s1.net.conns ++ [c], nextGen := s1.net.nextGen + 1 } } h 0 [1])

/-! ## The others -/

/-- Close (R46, R48): done when STATE is DRAINING. -/
def admClose (a : AdminCmd) (s : State) : AdmRes × State :=
  match s.open? a.p0 with
  | none => admEnds .wrongState s
  | some c => admEnds .success (startDrain s c 0x0A)

/-- A rekey block (R350). -/
structure Rekey where
  rxKey : Nat
  txKey : Nat
  flags : Nat
  rxIv : List Byte
  txIv : List Byte
  record : List Byte
  deriving DecidableEq, Repr

/-- A rekey block from its bytes; none where its structure is wrong. -/
def readRekey (b : List Byte) : Option Rekey :=
  let n := fld b 0x20 4
  if b.length < 0x30 ∨ b.length < 0x30 + n ∨ 4 ≤ fld b 4 1 ∨ fld b 5 3 ≠ 0 ∨ fld b 0x24 12 ≠ 0 then none
  else
    let r := sliceOf b 0x30 n
    if n ≠ 0 ∧ (n < 5 ∨ fldBe r 3 2 + 5 ≠ n) then none
    else some { rxKey := fld b 0 2, txKey := fld b 2 2, flags := fld b 4 1, rxIv := sliceOf b 8 12,
                txIv := sliceOf b 0x14 12, record := r }

/-- Installs new keys and queues the host's record behind what is already sealed; the connection is ACTIVE again and its
held records are processed. -/
def rekeyConn (s : State) (c : Conn) (k : Rekey) : State :=
  let rx := bitAt k.flags 0
  let tx := bitAt k.flags 1
  let c1 : Conn := { c with
    st := .active, sbuf := c.sbuf ++ k.record, rekeyDue := false,
    rxKey := (if rx then k.rxKey else c.rxKey), rxIv := (if rx then k.rxIv else c.rxIv),
    rxSeq := (if rx then 0 else c.rxSeq), txKey := (if tx then k.txKey else c.txKey),
    txIv := (if tx then k.txIv else c.txIv),
    txSeq := (if tx then 0 else c.txSeq + b2n (decide (k.record ≠ []))) }
  readStream (connWrite (putConn s c1) c.h 0 [1]) c1

/-- Rekey ("TLS record states"). -/
def admRekey (a : AdminCmd) (s : State) : AdmRes × State :=
  match s.open? a.p0 with
  | none => admEnds .wrongState s
  | some c =>
    if c.st ≠ .active ∧ c.st ≠ .paused then admEnds .wrongState s
    else match hostRead s a.addr a.len with
      | (none, s1) => admEnds .dataRefused s1
      | (some b, s1) =>
        match readRekey b with
        | none => admEnds .invalid s1
        | some k =>
          if (bitAt k.flags 0 ∧ !trafficKey s1 c.h k.rxKey) ∨ (bitAt k.flags 1 ∧ !trafficKey s1 c.h k.txKey) then
            admEnds .invalid s1
          else admEnds .success (rekeyConn s1 c k)

/-- Port move (R55): the connection and its queue go to a port that is up. -/
def admPortMove (a : AdminCmd) (s : State) : AdmRes × State :=
  let p : Fin 8 := ⟨a.p1 % 8, Nat.mod_lt _ (by decide)⟩
  match s.open? a.p0 with
  | none => admEnds .wrongState s
  | some c =>
    if !portLinkUp s p then admEnds .wrongState s
    else admEnds .success (moveConn s p false c)

end Sys2Proof.Machine
end

