-- ==== Sys2Proof/Machine/Admin.lean ====
section
/-! DEFINITION. Admin commands (R350): how HIF takes them into their two lanes, and the commands of ADM, XLT, the ledger
store, the journal and Kolat. Log 43 holds the statuses that no rule states. -/

namespace Sys2Proof.Machine

/-! ## Tables -/

/-- Descriptor update (R26): the table, then ADM's cache. -/
def admDescriptorUpdate (a : AdminCmd) (s : State) : AdmRes × State :=
  if 4096 ≤ a.p0 then admEnds .invalid s
  else match hostRead s a.addr 64 with
    | (none, s1) => admEnds .dataRefused s1
    | (some b, s1) =>
      match islandWrite s1 .hif (pdtAddr s1 a.p0) b with
      | (false, s2) => admEnds .dataRefused s2
      | (true, s2) => admEnds .success { s2 with adm := { s2.adm with pdt := s2.adm.pdt.filter fun p => p.1 != a.p0 } }

/-- Transactions, and refused messages whose response is not built, under a dialect table (R56). -/
def underTable (s : State) (dtab : Nat) : Bool :=
  s.txns.any (fun t => !t.si && t.dtab == dtab) || s.busy.any (fun b => !b.si && b.dtab == dtab) ||
    s.xlt.any fun w => match w.what with | .busy b => !b.si && b.dtab == dtab | _ => false

/-- The table that a dialect-load command names passes R57. -/
def tableLoads (s : State) (pa : Nat) : Bool × State :=
  match islandRead s .xlt pa 64 with
  | (none, s1) => (false, s1)
  | (some hdr, s1) =>
    match islandRead s1 .xlt pa (max 64 (tableSize hdr)) with
    | (none, s2) => (false, s2)
    | (some t, s2) => (dialectOk (t.take (tableSize hdr)) (s2.getF Fld.XLT_REC_RSP_BYTES), s2)

/-- Dialect load (R56, R57): done once nothing classified under the old table remains. -/
def admDialectLoad (a : AdminCmd) (s : State) : AdmRes × State :=
  if 256 ≤ a.p0 ∨ a.p1 = 0 then admEnds .invalid s
  else
    let (ok, s1) := tableLoads s a.p1
    if !ok then admEnds .invalid s1
    else
      let (old, s2) := dialectEntry s1 a.p0
      match islandWrite s2 .xlt (s.getF Fld.XLT_DTAB_BASE * 4096 + 8 * a.p0) (leBytes 8 a.p1) with
      | (false, s3) => admEnds .invalid s3
      | (true, s3) => if old = 0 ∨ old = a.p1 then admEnds .success s3 else (.wait (.dialect old), s3)

/-! ## Benches -/

/-- Bytes of a bench's record area. -/
def Bench.recBytes (x : Bench) : Nat := x.cap * x.recSize
/-- Bytes of a bench's index area with its bitmap (R232). -/
def Bench.idxBytes (x : Bench) : Nat := 64 * 2 ^ x.log2 + roundUp (ceilDiv x.cap 8) 4096

/-- The fields of a bench descriptor are in range (R231, R232). -/
def Bench.rangesOk (x : Bench) : Bool :=
  x.recBase % 4096 == 0 && x.idxBase % 4096 == 0 && decide (1 ≤ x.cap) && decide (x.cap ≤ 768000000) &&
    decide (x.size ≤ 2) && decide (1 ≤ x.klen) && decide (x.klen ≤ 32) && decide (10 ≤ x.log2) && decide (x.log2 ≤ 30) &&
    x.key / 32 == 0 && decide (x.state ≤ 2) && x.flags / 2 == 0 && x.reserved == 0 &&
    decide (16 + x.keyf + 8 ≤ x.recSize) && decide (x.cap ≤ 6 * 2 ^ x.log2)

/-- An area lies wholly in backed HBM. -/
def areaBacked (s : State) (a n : Nat) : Bool := decide (a + n ≤ hbmLimit s)

/-- Two areas overlap. -/
def overlap (a n b m : Nat) : Bool := decide (a < b + m) && decide (b < a + n)

/-- The areas of two benches overlap. -/
def benchesOverlap (x y : Bench) : Bool :=
  overlap x.recBase x.recBytes y.recBase y.recBytes || overlap x.recBase x.recBytes y.idxBase y.idxBytes ||
    overlap x.idxBase x.idxBytes y.recBase y.recBytes || overlap x.idxBase x.idxBytes y.idxBase y.idxBytes

/-- The other benches that are not OFF. -/
def liveBenches (s : State) (n : Nat) : List Bench :=
  ((List.range 256).filter fun i => i != n).map s.bench |>.filter fun x => x.state != 0

/-- Geometry, SEED and KEY are the same (R232). -/
def Bench.sameShape (x y : Bench) : Bool :=
  x.recBase == y.recBase && x.idxBase == y.idxBase && x.cap == y.cap && x.size == y.size && x.klen == y.klen &&
    x.log2 == y.log2 && x.key == y.key && x.k0 == y.k0 && x.k1 == y.k1

/-- The refusals of R232: none if the descriptor may take the place of the one in force. -/
def benchRefusal (s : State) (n : Nat) (x : Bench) : Option AdmStatus :=
  let old := s.bench n
  let others := liveBenches s n
  if !x.rangesOk ∨ !areaBacked s x.recBase x.recBytes ∨ !areaBacked s x.idxBase x.idxBytes ∨
      (others.any fun y => benchesOverlap x y) ∨
      (x.state ≠ 0 ∧ 768000000 < (others.map fun y => y.cap).sum + x.cap) then some .invalid
  else if old.state ≠ 0 ∧ !x.sameShape old then some .wrongState
  else if x.state = 0 ∨ x.state = old.state ∨ (old.state = 0 ∧ x.state = 1) ∨ (old.state = 1 ∧ x.state = 2) then none
  else some .wrongState

/-- A transaction holds a lock on a bench (R232). -/
def benchLocked (s : State) (n : Nat) : Bool := s.ldg.locks.any fun k => k.bench == n

/-- Puts a descriptor into the table. -/
def putBench (s : State) (n : Nat) (b : List Byte) : State := s.wr (benchAddr s n) b

/-- Bench configure (R231, R232): a change to OFF waits for the locks. -/
def admBenchConfigure (a : AdminCmd) (s : State) : AdmRes × State :=
  if 256 ≤ a.p0 then admEnds .invalid s
  else match hostRead s a.addr 64 with
    | (none, s1) => admEnds .dataRefused s1
    | (some b, s1) =>
      match benchRefusal s1 a.p0 (readBench b) with
      | some st => admEnds st s1
      | none =>
        if (readBench b).state = 0 ∧ (s1.bench a.p0).state ≠ 0 ∧ benchLocked s1 a.p0 then (.wait (.bench a.p0 b), s1)
        else admEnds .success (putBench s1 a.p0 b)

/-- Loads one record into a bench with a VERSION (R233, R259); none when the bench is full. -/
def loadRecord (s : State) (n : Nat) (x : Bench) (jsn : Nat) (r : List Byte) : Option State :=
  let key := sliceOf r 16 x.klen
  let data := r.drop x.dataOff
  let rec_ := x.record n jsn key data
  match x.lookup s key with
  | some slot => some (putRecord s (x.slotAddr slot) rec_)
  | none => (insertSlot s n x (x.hashOf key) false).map fun p =>
      setBitmap (putRecord p.2 (x.slotAddr p.1) rec_) x p.1 true

/-- Loads records in buffer order until the bench is full: how many, and the state. -/
def loadRecords (n : Nat) (x : Bench) (jsn : Nat) : Nat → List (List Byte) → State → Nat × State
  | k, [], s => (k, s)
  | k, r :: t, s =>
    match loadRecord s n x jsn r with
    | none => (k, s)
    | some s1 => loadRecords n x jsn (k + 1) t s1

/-- Bulk load (R259): a LOADING bench. While JNL assigns no JSN the command waits. -/
def admBulkLoad (a : AdminCmd) (s : State) : AdmRes × State :=
  let x := s.bench a.p0
  if 256 ≤ a.p0 then admEnds .invalid s
  else if x.state ≠ 1 ∨ !s.jnl.running then admEnds .wrongState s
  else if a.len % x.recSize ≠ 0 ∨ a.len = 0 then admEnds .invalid s
  else if !canAssign s then (.wait (.queued 0x21 a), noteFull s)
  else match hostRead s a.addr a.len with
    | (none, s1) => admEnds .dataRefused s1
    | (some b, s1) =>
      let rs := chunks x.recSize (b.length / x.recSize + 1) b
      let jsn := s1.jnl.next
      let (k, s2) := loadRecords a.p0 x jsn 0 rs s1
      let s3 := noteFull (assignRec s2 { kind := 2, nent := 1 }
        (bytesOf [a.p0, 0, 0, 0] ++ leBytes 4 k ++ sha384 (b.take (k * x.recSize))))
      (.done (if k < rs.length then .benchFull else .success) k, s3)

/-! ## Transactions -/

/-- Cancel (R253): before JSN assignment the transaction is declined; after it the commit stands. -/
def admCancel (a : AdminCmd) (s : State) : AdmRes × State :=
  match s.txn? a.p1 with
  | none => admEnds .unknownAn s
  | some t =>
    if t.jsn.isSome then admEnds .completed s
    else if t.undecided then admEnds .cancelled (endRun s t.an (.decline 0x16))
    else admEnds .unknownAn s

/-! ## The journal tail (R296; log 41) -/

/-- The records in the bytes of mirror entries, as records of the journal that are complete and mirrored. -/
def tailRecs (bs : List Byte) : List JRec :=
  (splitEntries (bs.length / 128 + 1) bs).map fun e =>
    let r := e.drop 64
    { jsn := fld e 0 8, kind := fld r 0 1, epoch := fld e 0x0C 4, bytes := r, leaf := leafHash r,
      chain := sliceOf e 0x10 48, complete := true, acked := true }

/-- Consecutive JSNs and chain values that satisfy R284. -/
def tailLinks : List JRec → Bool
  | a :: b :: t => b.jsn == a.jsn + 1 && b.chain == chainHash a.chain b.leaf && tailLinks (b :: t)
  | _ => true

/-- Whether the entries agree with the resume values (R296): the resume point lies before the first entry, whose CHAIN then
follows from RESUME.CHAIN by R284, or after one of the entries, which then has RESUME.CHAIN (log 41). -/
def tailMeets (s : State) (l : List JRec) : Bool :=
  let next := s.getF Fld.JNL_RESUME_JSN_NEXT
  let chain := regHash s Off.JNL_RESUME_CHAIN
  (match l.head? with
    | some r => r.jsn == next && r.chain == chainHash chain r.leaf
    | none => false) ||
  l.any fun r => r.jsn + 1 == next && r.chain == chain

/-- The checks of R296 on a journal tail. -/
def tailOk (s : State) (l : List JRec) : Bool := tailLinks l && tailMeets s l

/-- The STAMP of a record (R281). -/
def JRec.stamp (r : JRec) : Nat := fld r.bytes 0x18 8

/-- The tail epoch (R292, R296): its own epoch number, FLAGS[2], SEAM_CLOSE one after the STAMP of its last record. -/
def tailEpoch (first last : JRec) (seamOpen : Nat) : JEpoch :=
  { epoch := last.epoch, first := first.jsn, last := last.jsn, seamOpen := seamOpen, seamClose := last.stamp + 1, flags := 4,
    gepoch := none, st := .signing, sealBytes := [], retryAt := 0, exported := 0 }

/-- JNL takes a tail up: its epoch is closed and its seal's turn comes. No rule gives the SEAM_OPEN of a tail epoch, nor a chain
value before its first record where the resume point lies further on (free values, log 41). -/
def takeTail (s : State) (l : List JRec) (first last : JRec) : State :=
  let (o, s1) := s.openBytes 48
  let seam := Config.openValue s1.freeCtr % 2 ^ 64
  let before := if first.jsn = s.getF Fld.JNL_RESUME_JSN_NEXT then regHash s Off.JNL_RESUME_CHAIN else o
  signNext { s1 with
    freeCtr := s1.freeCtr + 1,
    jnl := { s1.jnl with recs := l, outChain := before, prevSeal := regHash s Off.JNL_RESUME_SEAL,
                         closing := [tailEpoch first last seam] } }

/-- Journal tail (R296): before release, once. The command completes when the tail is sealed. -/
def admJournalTail (a : AdminCmd) (s : State) : AdmRes × State :=
  if s.jnl.running ∨ 5 ≤ bootPhase s ∨ s.jnl.recs ≠ [] then admEnds .wrongState s
  else match hostRead s a.addr a.len with
    | (none, s1) => admEnds .dataRefused s1
    | (some bs, s1) =>
      let l := tailRecs bs
      match l.head?, l.getLast? with
      | some first, some last =>
        if !tailOk s1 l then admEnds .authFail s1 else (.wait (.tail l.length), takeTail s1 l first last)
      | _, _ => admEnds .invalid s1

/-! ## The shard map (R318) -/

/-- Sends a generation of the map to a node as MAP messages (R309). -/
def sendMap (s : State) (gen : Nat) (bs : List Byte) (n : Nat) : State :=
  (List.range 32).foldl (fun s i =>
    kolSend s { type := 0x35, dest := n, flags := b2n (i == 31),
                body := leBytes 4 gen ++ leBytes 2 (2048 * i) ++ leBytes 2 2048 ++ sliceOf bs (4096 * i) 4096 }) s

/-- A slice whose owner a new map changes has been FROZEN since a seam 600 ms ago (R318). -/
def mayMove (s : State) (slice new : Nat) : Bool :=
  smapEntry s slice % 1024 == new % 1024 ||
    s.kol.frozen.any fun f => f.1 == slice && decide (f.2 + 600000000 ≤ s.now)

/-- Map update (R318): done when the generation is in force. -/
def admMapUpdate (a : AdminCmd) (s : State) : AdmRes × State :=
  if !actingLead s then admEnds .notLead s
  else match hostRead s a.addr 131072 with
    | (none, s1) => admEnds .dataRefused s1
    | (some bs, s1) =>
      let es := (List.range 65536).map fun i => fld bs (2 * i) 2
      if es.any fun e => bitsOf e 10 5 != 0 || decide (kolNodes s1 ≤ e % 1024) then admEnds .invalid s1
      else if !((List.range 65536).all fun i => mayMove s1 i (es.getD i 0)) then admEnds .wrongState s1
      else
        let gen := max (s1.getF Fld.KOL_STATUS_SMAP_GEN) ((s1.kol.map.map fun m => m.gen).getD 0) + 1
        let m : NewMap := { gen := gen, entries := (List.range 65536).map fun i => (i, es.getD i 0), full := true }
        let to_ := ((members s1 ++ es.map fun e => e % 1024).eraseDups).filter fun n => n != s1.node
        let s2 := noteJoined { s1 with kol := { s1.kol with map := some m, mapAcked := [] } }
        (.wait (.map gen), to_.foldl (fun s n => sendMap s gen bs n) s2)

/-- The live records of a slice in a bench: slot and key. -/
def sliceRecs (s : State) (x : Bench) (slice : Nat) : List (List Byte) :=
  (List.range x.cap).filterMap fun slot =>
    if bitAt (memGet s.mem (x.bitmapAddr slot)).toNat (slot % 8) then
      let key := sliceOf (s.rd (x.slotAddr slot) x.dataOff) 16 x.klen
      if bitsOf (x.hashOf key) 32 16 = slice then some key else none
    else none

/-- Removes the records of a slice from a bench; how many. -/
def moveBench (slice : Nat) (p : Nat × State) (n : Nat) : Nat × State :=
  let x := p.2.bench n
  if x.sharded ∧ x.state ≠ 0 then
    let ks := sliceRecs p.2 x slice
    (p.1 + ks.length, ks.foldl (fun s k => applyEntry 0 0 0 s
      { hash := x.hashOf k, bench := n, op := .remove, node := s.node, key := k, img := none, data := [], slot := none }) p.2)
  else p

/-- Slice transfer (R318): the records of a frozen slice that this node owns leave it; how they travel is not described
(log 42). -/
def admSliceTransfer (a : AdminCmd) (s : State) : AdmRes × State :=
  if 65536 ≤ a.p0 ∨ kolNodes s ≤ a.p1 ∨ a.p1 = s.node then admEnds .invalid s
  else if !bitAt (smapEntry s a.p0) 15 ∨ smapEntry s a.p0 % 1024 ≠ s.node then admEnds .wrongState s
  else let r := (List.range 256).foldl (moveBench a.p0) (0, s); (.done .success r.1, r.2)

/-- The runs of an orphaned AN: PREPARED reservations of an absent node (R328). -/
def orphans (s : State) (an : Nat) : List (Nat × Nat) :=
  rsvRuns s fun v => v.an == an && v.prepared && absentNode s (v.an / 2 ^ 54)

/-- Orphan resolve (R328): applies with a COORD_JSN, or releases. -/
def admOrphanResolve (a : AdminCmd) (s : State) : AdmRes × State :=
  let l := orphans s a.p1
  if l = [] then admEnds .unknownAn s
  else if a.p2 = 0 then admEnds .success (l.foldl (fun s p => freeRsv s p.1 p.2) s)
  else if !canAssign s ∧ (l.any fun p => (rsvLog s p.1 p.2).any WEntry.writes) then (.wait (.queued 0x52 a), noteFull s)
  else admEnds .success (l.foldl (fun s p => (applyRsv s p.1 p.2 (p.1 / 2 ^ 54) a.p2).2) s)

/-! ## Lanes -/

/-- The opcodes of the table *Admin commands*. -/
def admListed (opc : Nat) : Bool :=
  [0x01, 0x02, 0x03, 0x04, 0x10, 0x11, 0x20, 0x21, 0x22, 0x30, 0x31, 0x32, 0x33, 0x34, 0x35, 0x36, 0x40, 0x50, 0x51,
   0x52].contains opc

/-- The quick lane. -/
def admQuick (opc : Nat) : Bool := [0x01, 0x02, 0x03, 0x04, 0x10, 0x22, 0x33, 0x36, 0x52].contains opc

/-- The commands that act during stand-in service (R366). -/
def admStandin (opc : Nat) : Bool := [0x01, 0x02, 0x03, 0x30, 0x32, 0x33, 0x36, 0x40].contains opc

/-- What an admin command does when it executes. -/
def admBody (opc : Nat) (a : AdminCmd) (s : State) : AdmRes × State :=
  if standinService s ∧ !admStandin opc then admEnds .wrongState s
  else match opc with
    | 0x01 => admHandover a s
    | 0x02 => admClose a s
    | 0x03 => admRekey a s
    | 0x04 => admPortMove a s
    | 0x10 => admDescriptorUpdate a s
    | 0x11 => admDialectLoad a s
    | 0x20 => admBenchConfigure a s
    | 0x21 => admBulkLoad a s
    | 0x22 => admCancel a s
    | 0x30 => admKeyLoad a s
    | 0x31 => admKeyExport a s
    | 0x32 => admKeyDelete a s
    | 0x33 => admKeyInfo a s
    | 0x34 => admKeySave a s
    | 0x35 => admKeyRestore a s
    | 0x36 => admZeroise a s
    | 0x40 => admJournalTail a s
    | 0x50 => admMapUpdate a s
    | 0x51 => admSliceTransfer a s
    | 0x52 => admOrphanResolve a s
    | _ => admEnds .unknownOp s

/-- The completion of a command. -/
def admDone (s : State) (cid : Nat) (st : AdmStatus) (r0 : Nat) : State :=
  queueAdmin s { cid := cid, status := st.code, late := decide (st = .completed), r0 := r0 }

/-- Whether what a command waits for has come about, with the state and R0 when it has. -/
def admReady (s : State) : AdmWait → Option (Nat × State)
  | .queued _ _ => none
  | .dialect t => if underTable s t then none else some (0, s)
  | .jobs ids =>
    if s.cry.jobs.any fun j => ids.contains j.id && (match j.st with | .latched _ => false | _ => true) then none
    else some (0, s)
  | .bench n b => if benchLocked s n then none else some (0, putBench s n b)
  | .zeroise => if s.cry.zeroing then none else some (0, s)
  | .map gen => if gen ≤ s.getF Fld.KOL_STATUS_SMAP_GEN then some (gen, s) else none
  | .tail n => if s.jnl.tailSeal.isSome ∨ s.jnl.running then some (n, s) else none

/-- The first command of a lane. -/
def laneHead (s : State) (quick : Bool) : Option AdmJob := s.hif.admin.find? fun j => j.quick == quick

/-- Removes the first command of a lane. -/
def dropHead (s : State) (j : AdmJob) : State := { s with hif := { s.hif with admin := s.hif.admin.erase j } }

/-- Executes a command at the head of its lane: it completes, or stays there with what it waits for. -/
def admRun (s : State) (quick : Bool) (cid opc : Nat) (a : AdminCmd) : State :=
  match admBody opc a s with
  | (.done st r0, s1) => admDone s1 cid st r0
  | (.wait w, s1) =>
    { s1 with hif := { s1.hif with admin := { cid := cid, quick := quick, wait := w } :: s1.hif.admin } }

/-- Moves a lane on: a command whose wait is over completes, and the next one executes. -/
def laneStep (quick : Bool) : Nat → State → State
  | 0, s => s
  | f + 1, s =>
    match laneHead s quick with
    | none => s
    | some j =>
      match j.wait with
      | .queued opc a =>
        let s1 := admRun (dropHead s j) quick j.cid opc a
        if laneHead s1 quick = some j then s1 else laneStep quick f s1
      | w =>
        match admReady s w with
        | none => s
        | some (r0, s1) => laneStep quick f (admDone (dropHead s1 j) j.cid .success r0)

/-- Moves both lanes on (R350). -/
def admProgress (s : State) : State :=
  let n := s.hif.admin.length + 1
  laneStep false n (laneStep true n s)

/-- What happens when a command is taken, whatever its lane waits for: zeroisation starts (R278), and a journal tail is named (R296,
R374). -/
def takenAdmin (opc : Nat) (s : State) : State :=
  if opc = 0x36 then zeroise s 0
  else if opc = 0x40 ∧ !s.jnl.running then { s with jnl := { s.jnl with tailNamed := true } }
  else s

/-- The 64 bytes of an admin command (the table of that name). -/
def admEntry (opc : Nat) (a : AdminCmd) : List Byte :=
  bytesOf [opc, 0, 0, 0] ++ leBytes 4 a.cid ++ leBytes 8 a.addr ++ leBytes 4 a.len ++ leBytes 4 a.p0 ++ leBytes 8 a.p1 ++
    leBytes 8 a.p2 ++ zeros 24

/-- An admin command from its 64 bytes. -/
def readAdm (b : List Byte) : AdminCmd :=
  { cid := fld b 4 4, addr := fld b 8 8, len := fld b 0x10 4, p0 := fld b 0x14 4, p1 := fld b 0x18 8, p2 := fld b 0x20 8 }

/-- HIF takes the next admin command, as which the host has written opcode `op` and `cmd` into the ring (log 3), and assigns it to
its lane (R350). -/
def takeAdmin (op : Nat) (cmd : AdminCmd) (s0 : State) : State :=
  let sp := admProgress s0
  let s := hostPuts sp ringAQ (admEntry op cmd)
  if !ringHasEntry s ringAQ then sp
  else match islandRead s .hif (slotPa s ringAQ (s.ring ringAQ).cons) 64 with
    | (none, s1) => stopRing s1 ringAQ 2
    | (some b, s1) =>
      let opc := fld b 0 1
      let a := readAdm b
      let s2 := takenAdmin opc (takeEntry s1 ringAQ)
      if !admListed opc then admDone s2 a.cid .unknownOp 0
      else if (laneHead s2 (admQuick opc)).isNone then admRun s2 (admQuick opc) a.cid opc a
      else { s2 with hif := { s2.hif with
        admin := s2.hif.admin ++ [{ cid := a.cid, quick := admQuick opc, wait := .queued opc a }] } }

/-- COMPLETION_POST (R344, R350): the next completion of a CQ, or the next admin completion. -/
def execCompletionPost (r : RingId) (s0 : State) : Host.Outcome State Fault Refusal :=
  if r = ringACQ then
    let s := admProgress s0
    match s.hif.acpls with
    | [] => .next s
    | a :: t =>
      match postSlot s r (acplBytes a s.now) with
      | .done s1 _ => .next { s1 with hif := { s1.hif with acpls := t } }
      | .wait s1 => .next s1
      | .stopped s1 => .next s1
  else if 24 ≤ r.val then
    match nextCpl s0 (r.val - 24) with
    | none => .next s0
    | some c => .next (postCpl s0 r c)
  else .next s0

/-! ## The commands -/

/-- HANDOVER (R45, R350). -/
def execHandover (a : AdminCmd) (s : State) : Host.Outcome State Fault Refusal := .next (takeAdmin 0x01 a s)
/-- CLOSE (R46). -/
def execClose (a : AdminCmd) (s : State) : Host.Outcome State Fault Refusal := .next (takeAdmin 0x02 a s)
/-- REKEY (R51, R350). -/
def execRekey (a : AdminCmd) (s : State) : Host.Outcome State Fault Refusal := .next (takeAdmin 0x03 a s)
/-- PORT_MOVE (R55). -/
def execPortMove (a : AdminCmd) (s : State) : Host.Outcome State Fault Refusal := .next (takeAdmin 0x04 a s)
/-- DESCRIPTOR_UPDATE (R26). -/
def execDescriptorUpdate (a : AdminCmd) (s : State) : Host.Outcome State Fault Refusal := .next (takeAdmin 0x10 a s)
/-- DIALECT_LOAD (R56, R57). -/
def execDialectLoad (a : AdminCmd) (s : State) : Host.Outcome State Fault Refusal := .next (takeAdmin 0x11 a s)
/-- BENCH_CONFIGURE (R231, R232). -/
def execBenchConfigure (a : AdminCmd) (s : State) : Host.Outcome State Fault Refusal := .next (takeAdmin 0x20 a s)
/-- BULK_LOAD (R259). -/
def execBulkLoad (a : AdminCmd) (s : State) : Host.Outcome State Fault Refusal := .next (takeAdmin 0x21 a s)
/-- CANCEL (R253). -/
def execCancel (a : AdminCmd) (s : State) : Host.Outcome State Fault Refusal := .next (takeAdmin 0x22 a s)
/-- KEY_LOAD (R274, R275). -/
def execKeyLoad (a : AdminCmd) (s : State) : Host.Outcome State Fault Refusal := .next (takeAdmin 0x30 a s)
/-- KEY_EXPORT (R275). -/
def execKeyExport (a : AdminCmd) (s : State) : Host.Outcome State Fault Refusal := .next (takeAdmin 0x31 a s)
/-- KEY_DELETE (R276). -/
def execKeyDelete (a : AdminCmd) (s : State) : Host.Outcome State Fault Refusal := .next (takeAdmin 0x32 a s)
/-- KEY_INFO (R274). -/
def execKeyInfo (a : AdminCmd) (s : State) : Host.Outcome State Fault Refusal := .next (takeAdmin 0x33 a s)
/-- KEY_SAVE (R277). -/
def execKeySave (a : AdminCmd) (s : State) : Host.Outcome State Fault Refusal := .next (takeAdmin 0x34 a s)
/-- KEY_RESTORE (R277). -/
def execKeyRestore (a : AdminCmd) (s : State) : Host.Outcome State Fault Refusal := .next (takeAdmin 0x35 a s)
/-- ZEROISE (R278). -/
def execZeroise (a : AdminCmd) (s : State) : Host.Outcome State Fault Refusal := .next (takeAdmin 0x36 a s)
/-- JOURNAL_TAIL (R296). -/
def execJournalTail (a : AdminCmd) (s : State) : Host.Outcome State Fault Refusal := .next (takeAdmin 0x40 a s)
/-- MAP_UPDATE (R318). -/
def execMapUpdate (a : AdminCmd) (s : State) : Host.Outcome State Fault Refusal := .next (takeAdmin 0x50 a s)
/-- SLICE_TRANSFER (R318). -/
def execSliceTransfer (a : AdminCmd) (s : State) : Host.Outcome State Fault Refusal := .next (takeAdmin 0x51 a s)
/-- ORPHAN_RESOLVE (R328). -/
def execOrphanResolve (a : AdminCmd) (s : State) : Host.Outcome State Fault Refusal := .next (takeAdmin 0x52 a s)
/-- ADMIN_UNKNOWN_OP (R350): an opcode that is not listed completes with UNKNOWN_OP and has no effect. -/
def execAdminUnknownOp (opc : Nat) (a : AdminCmd) (s : State) : Host.Outcome State Fault Refusal :=
  .next (if admListed opc then s else takeAdmin opc a s)

end Sys2Proof.Machine
end

