-- ==== Sys2Proof/Machine/Standin.lean ====
section
/-! DEFINITION. The stand-in decision (R370 to R372). -/

namespace Sys2Proof.Machine

/-! ## What a rule sees of a record -/

/-- A field of a request record, none if absent (R70). -/
def recField (rec_ : List Byte) (fid : Nat) : Option (List Byte) :=
  let w := dirWord rec_ fid
  if w % 2 ^ 16 = 0 then none else some (sliceOf rec_ (w % 2 ^ 16 * 8) (w / 2 ^ 16))

/-- A canonical amount in minor units: none if negative, zero if absent (R370). -/
def siAmount (rec_ : List Byte) (fid : Nat) : Option Nat :=
  match recField rec_ fid with
  | none => some 0
  | some v =>
    let ns := nibbles (sliceOf v 0 10)
    let m := (ns.take 19).foldl (fun a d => 10 * a + d) 0
    if ns.getD 19 0 = 0xD ∧ m ≠ 0 then none else some m

/-- Canonical digits as a number, zero if absent (R370). -/
def siNumber (rec_ : List Byte) (fid : Nat) : Nat :=
  ((recField rec_ fid).getD []).foldl (fun a b => 10 * a + b.toNat % 16) 0

/-- The MAC of a request over its RAW bytes up to MACIN_LEN; none if the key does not serve (R370; log 60). -/
def siMac (s : State) (d : Dialect) (h : SiHead) (input : List Byte) : Option (List Byte) :=
  let k := s.keyOf 0 h.macKey
  match keyStatus k (macTypes h.macAlg) [1] none 0, k with
  | none, some x =>
    some ((match h.macAlg with
      | 1 => cmac x.cipher input
      | 2 => retailMac x.mat (max 1 d.macPad) input
      | _ => hmac256 x.mat input).take h.macLen)
  | _, _ => none

/-- The value of a MAC field, from text for an ISO 20022 dialect (R73). -/
def macValue (d : Dialect) (v : List Byte) : List Byte :=
  if d.xml then packNibbles (v.map fun b =>
    let x := b.toNat
    if x < 0x40 then x % 16 else x % 16 + 9)
  else v

/-- mac_ok of R370. -/
def siMacOk (s : State) (d : Dialect) (h : SiHead) (rec_ : List Byte) : Bool :=
  match recField rec_ h.mac with
  | none => false
  | some v =>
    let m := macValue d v
    match siMac s d h (sliceOf rec_ (fld rec_ 0x30 4) (fld rec_ 0x38 4)) with
    | some x => decide (h.macLen ≤ m.length) && m.take h.macLen == x
    | none => false

/-! ## The decision (R370) -/

/-- What standin_decide answers: refuse, or a template with the rule's index and how it decides. -/
inductive SiOutcome where
  | refuse
  | decline (tpl rule : Nat)
  | approve (tpl rule : Nat)
  | velocity (r : SiRule) (rule : Nat)
  deriving DecidableEq, Repr

/-- Whether a rule matches. -/
def SiRule.matches_ (r : SiRule) (key cur : Nat) (amt : Option Nat) (present : Nat → Bool) : Bool :=
  key &&& r.mask == r.key &&& r.mask && (r.currency == 0 || r.currency == cur) && (r.absent == 0 || !present r.absent) &&
    match amt with
    | some a => decide (a ≤ r.amtMax)
    | none => false

/-- The outcome of a rule that matches. -/
def SiRule.outcome (r : SiRule) (i : Nat) : SiOutcome :=
  if bitAt r.flags 1 then .refuse
  else if bitAt r.flags 0 ∧ bitAt r.flags 2 then .velocity r i
  else if bitAt r.flags 0 then .approve r.template i
  else .decline r.template i

/-- standin_decide (R370), from the rules of the table. -/
def siDecide (h : SiHead) (macOk : Bool) (rules : List SiRule) (key cur : Nat) (amt : Option Nat) (present : Nat → Bool) :
    SiOutcome :=
  if h.mac ≠ 0 ∧ !macOk then .decline h.badMac 0xFFFE
  else match rules.zipIdx.find? fun p => p.1.matches_ key cur amt present with
    | some p => p.1.outcome p.2
    | none => if h.noMatch = 0xFFFF then .refuse else .decline h.noMatch 0xFFFF

/-! ## Accumulators (R371; log 60) -/

/-- The first 19 account digits, packed, left-aligned, with 0xF in unused nibbles (R372). -/
def siAcct (digits : List Byte) : List Byte :=
  packNibbles ((digits.take 19).map (fun b => b.toNat % 16) ++ List.replicate (20 - min 19 digits.length) 0xF)

/-- Where entry `i` of the accumulators lies (R368). -/
def accAddr (i : Nat) : Nat := tileAddr 0 0x10_0000 + 32 * (i % 16384)

/-- An accumulator. -/
structure SiAcc where
  used : Bool
  hash : Nat
  acct : List Byte
  count : Nat
  total : Nat
  deriving DecidableEq, Repr

/-- Reads an accumulator. -/
def accAt (s : State) (i : Nat) : SiAcc :=
  let b := s.rd (accAddr i) 32
  { used := fld b 18 1 != 0, hash := fld b 0 8, acct := sliceOf b 8 10, count := fld b 20 4, total := fld b 24 8 }

/-- Writes an accumulator. -/
def putAcc (s : State) (i : Nat) (a : SiAcc) : State :=
  s.wr (accAddr i) (leBytes 8 a.hash ++ sliceOf a.acct 0 10 ++ bytesOf [1, 0] ++ leBytes 4 a.count ++ leBytes 8 a.total)

/-- The entry of an account, or the first free one, among 8 consecutive entries from its hash (R371). -/
def findAcc (s : State) (hash : Nat) (acct : List Byte) : Option (Nat × SiAcc) :=
  (((List.range 8).map fun k => (hash % 16384 + k, accAt s (hash % 16384 + k))).find? fun p =>
    !p.2.used || (p.2.hash == hash && p.2.acct == acct)).map fun p =>
    if p.2.used then p else (p.1, { used := true, hash := hash, acct := acct, count := 0, total := 0 })

/-- The check and update of R371, one atomic step: whether the approval stands. -/
def velocity (s : State) (h : SiHead) (r : SiRule) (digits : List Byte) (amt : Nat) : Bool × State :=
  match findAcc s (sipHash h.k0 h.k1 digits) (siAcct digits) with
  | none => (false, s)
  | some (i, a) =>
    if a.count + 1 ≤ r.cntMax ∧ a.total + amt ≤ h.acctMax then
      (true, putAcc s i { a with count := a.count + 1, total := a.total + amt })
    else (false, s)

/-- The template, rule and decision of an outcome at the log append. -/
def settle (s : State) (h : SiHead) (digits : List Byte) (amt : Nat) : SiOutcome → Option (Nat × Nat × Nat × State)
  | .refuse => none
  | .decline t i => some (t, i, 2, s)
  | .approve t i => some (t, i, 1, s)
  | .velocity r i =>
    let v := velocity s h r digits amt
    some (if v.1 then (r.template, i, 1, v.2) else (r.alt, i, 2, v.2))

/-! ## The commit of a stand-in decision (R372) -/

/-- An entry of the stand-in log. -/
def logEntryOf (s : State) (t : Txn) (digits : List Byte) (cur : Nat) (amt : Option Nat) (rule dec : Nat)
    (code : List Byte) : List Byte :=
  leBytes 8 t.an ++ leBytes 8 t.tin ++ leBytes 4 ((s.now + 2 ^ 64 - t.tin) % 2 ^ 32) ++ sliceOf t.typeKey 0 4 ++
    siAcct digits ++ leBytes 2 cur ++ leBytes 8 (amt.getD (2 ^ 64 - 1)) ++ leBytes 2 rule ++ bytesOf [dec, 0] ++
    sliceOf code 0 4 ++ leBytes 4 (match t.src with | .conn h _ _ => h % 2 ^ 18 | _ => 0) ++ zeros 8

/-- A refused message is answered with DISABLED and not logged (R370). -/
def siRefuse (s : State) (t : Txn) : State :=
  refuseMsg ((s.dropTxn t.an).countOutstanding)
    { src := t.src, tin := t.tin, dialect := t.dialect, bytes := t.msg, note := false } t.dtab 2 true

/-- Appends the entry of a decision (R372). A stand-in lane then builds the response of its template (R367), which goes on at once:
the log's entry stands for the mirror (R372). -/
def siCommit (s : State) (d : Dialect) (t : Txn) (digits : List Byte) (cur : Nat) (amt : Option Nat)
    (tpl rule dec : Nat) : State :=
  let x := d.templates.getD tpl (readTemplate [])
  let n := siLog s
  let s1 := (logPut s n (logEntryOf s t digits cur amt rule dec x.code)).setF Fld.BOOT_STATUS_SILOG (n + 1)
  (s1.modTxn t.an fun t => { t with phase := .committed, owner := .ended, tpl := some tpl, mirrored := true }).countOutstanding

/-- Decides a stand-in transaction whose record is written. -/
def siRun (s : State) (d : Dialect) (t : Txn) : State :=
  let h := siHead s
  let rules := siRules (s.rd (tileAddr 0 0x18_0000) (64 + 32 * h.nrule))
  let rec_ := s.rd t.reqPa t.reqLen
  let digits := (recField rec_ h.acct).getD []
  let amt := siAmount rec_ h.amount
  let cur := siNumber rec_ h.currency
  let o := siDecide h (siMacOk s d h rec_) rules (leNat t.typeKey) cur amt fun f => (recField rec_ f).isSome
  match settle s h digits (amt.getD 0) o with
  | none => siRefuse s t
  | some (tpl, rule, dec, s1) =>
    if 131072 ≤ siLog s then siRefuse s t else siCommit s1 d t digits cur amt tpl rule dec

/-- A core of TILE.0 is in service (R367, R370). -/
def tileZeroServes (s : State) : Bool := 1 ≤ coresInService s 0 && islandState s 0 == 2

/-- The MAC of a request can be computed: no MAC is asked for, or a SYM engine of CRYPTO.0 serves (R367, R370). -/
def macReady (s : State) : Bool := (siHead s).mac == 0 || decide (1 ≤ clusterEngines s .sym 0)

/-- STANDIN_DECIDE (R370 to R372). -/
def execStandinDecide (an : Nat) (s : State) : Host.Outcome State Fault Refusal :=
  .next (match s.txn? an with
    | none => s
    | some t =>
      if t.si ∧ t.phase = .queued ∧ standinService s ∧ tileZeroServes s ∧ macReady s then
        match dialectAt s true t.dtab with
        | (some d, s1) => releaseProgress (siRun s1 d t)
        | (none, s1) => s1
      else s)

end Sys2Proof.Machine
end

