-- ==== Sys2Proof/Machine/FaultOps.lean ====
section
/-! DEFINITION. Faults as commands (R256 to R258, R396 to R407): the loss of a tile, lanes, HBM lines and stacks, the fabric,
paired islands, and self-tests. -/

namespace Sys2Proof.Machine

/-! ## Escalation (R407) -/

/-- An uncovered fault of an island, the fabric or the last XLT lane: UNCOVERED, and with ESC_EN a warm reset, announced by an
entry of SEVERITY 4 (log 57). -/
def uncovered (s : State) (r : ErrReport) : State :=
  let s1 := (s.report { r with severity := 3 }).setF Fld.ERR_STATUS_UNCOVERED 1
  if s1.getF Fld.ERR_CTRL_ESC_EN = 1 then warmResetTo (s1.report { r with severity := 4 }) 3 false else s1

/-! ## HBM -/

/-- The stack that holds the data of a line. -/
def lineStack (s : State) (line : Nat) : Nat := (lineStacks (s.getF Fld.LDG_HBM_MODE) line).headD 0

/-- A backed line (R258). -/
def lineBacked (s : State) (line : Nat) : Bool := decide (64 * line + 64 ≤ hbmLimit s)

/-- A line that its ECC cannot correct can be rebuilt or read from its copy: not under MODE 0b10, and with no stack gone that
takes part (R256, R406). -/
def canRebuild (s : State) (line : Nat) : Bool :=
  s.getF Fld.LDG_HBM_MODE != 2 && (lineStacks (s.getF Fld.LDG_HBM_MODE) line).all fun k => !stackGone s k

/-- What a report of a line names. -/
def lineReport (s : State) (line : Nat) (cls : ErrClass) (severity : Nat) : ErrReport :=
  { island := 34 + lineStack s line, unit := lineStack s line, cls := cls, severity := severity, detail := 64 * line }

/-- The data of a line is lost (R257, R406): marked, and logged once with its address. -/
def loseLine (s : State) (line : Nat) : State :=
  if s.ldg.poison.contains line then s
  else
    let s1 := s.report (lineReport s line .loss 3)
    { s1 with ldg := { s1.ldg with poison := line :: s1.ldg.poison } }

/-- HBM_SCRUB (R258): what the scrub of a line finds. A corrected or rebuilt line is written back as it was. -/
def execHbmScrub (line : Nat) (e : EccState) (s : State) : Host.Outcome State Fault Refusal :=
  .next (if !lineBacked s line then s
    else match e with
      | .clean => s
      | .single => s.report (lineReport s line .line 0)
      | .uncorrectable =>
        if canRebuild s line then faultHold (s.report (lineReport s line .line 1)) else loseLine s line)

/-- HBM_DATA_LOSS (R257, R406): a line that its ECC cannot correct and that cannot be rebuilt. -/
def execHbmDataLoss (line : Nat) (s : State) : Host.Outcome State Fault Refusal :=
  .next (if lineBacked s line ∧ !canRebuild s line then loseLine s line else s)

/-- A second stack is lost, or the only one under MODE 0b10 (R406): after a second, JNL assigns no JSN and ADM is disabled. -/
def stackLoss (s : State) (k : Nat) (second : Bool) : State :=
  let s1 := s.report { island := 34 + k, unit := k, cls := .loss, severity := 3 }
  if second then ({ s1 with jnl := { s1.jnl with halted := true } } : State).setF Fld.ADM_CTRL_ENABLE 0 else s1

/-- HBM_STACK_FAIL (R256, R406). -/
def execHbmStackFail (k : Fin 4) (s : State) : Host.Outcome State Fault Refusal :=
  .next (if s.err.retired.contains (stackCode k.val) then s
    else
      let second := ([0, 1, 2, 3] : List Nat).any fun j => j != k.val && stackGone s j
      let s1 := faultHold (s.report { island := 34 + k.val, unit := k.val, cls := .stack, severity := 1 })
      let s2 : State := { s1 with err := { s1.err with retired := stackCode k.val :: s1.err.retired } }
      let s3 := if second then s2 else (s2.setF Fld.LDG_STATUS_STACK k.val).setF Fld.LDG_STATUS_DEGRADED 1
      if second ∨ s.getF Fld.LDG_HBM_MODE = 2 then stackLoss s3 k.val second else s3)

/-! ## The fabric, paired islands and lanes -/

/-- FABRIC_FAULT (R397, R385, R407): a transfer that a CRC fails is sent again; a failed link or router is routed round, and
every request caught in it receives ISLAND_RESET; a fault that leaves the fabric unable to serve is uncovered. -/
def execFabricFault (link : Nat) (e : FabricEnd) (caught : List (CoreId × BankId)) (s : State) :
    Host.Outcome State Fault Refusal :=
  let r : ErrReport := { island := 44, unit := link % 256, cls := .fabric, severity := 1 }
  .next (match e with
    | .resent => s.report { r with severity := 0 }
    | .routed => caught.foldl boundaryReset (faultHold (s.report r))
    | .unserved => uncovered (caught.foldl boundaryReset s) r)

/-- PAIRED_MISMATCH (R405, R407): the copies of a paired island disagree, and it goes on simplex; a simplex island is
uncovered. -/
def execPairedMismatch (i : Fin 44) (s : State) : Host.Outcome State Fault Refusal :=
  let r : ErrReport := { island := i.val, unit := 0xFF, cls := .paired, severity := 1 }
  .next (if i.val < 38 then s
    else if bitAt (s.getF Fld.ERR_SIMPLEX_ISL) i.val then uncovered s r
    else
      let s1 := faultHold (s.report r)
      (s1.setF Fld.ERR_SIMPLEX_ISL (putBits (s1.getF Fld.ERR_SIMPLEX_ISL) i.val 1 1)).setF Fld.ERR_STATUS_SIMPLEX 1)

/-- What a report of an XLT lane names. -/
def laneReport (lane : Fin 32) (severity : Nat) (outcome : Bool) : ErrReport :=
  { island := 30 + lane.val / 8, unit := lane.val % 8, cls := .xlt, severity := severity, outcome := outcome }

/-- A lane is in service: neither retired nor under test. -/
def laneWorks (s : State) (l : Fin 32) : Bool := bitAt (s.getF Fld.XLT_CTRL_LANES) l.val && !s.inTest (.xltLane l)

/-- A lane that is in service can serve: its island runs (R387, R407). -/
def laneCanServe (s : State) (l : Fin 32) : Bool := laneWorks s l && islandState s (30 + l.val / 8) == 2

/-- XLT_LANE_FAULT (R78, R397, R407): the lane is tested, and its work is another lane's: a response of it that waits for its MAC
is built again. -/
def execXltLaneFault (lane : Fin 32) (s : State) : Host.Outcome State Fault Refusal :=
  .next (if !laneWorks s lane then s
    else
      let s1 := dropLaneWork (faultHold (startTest (s.report (laneReport lane 1 false)) (.xltLane lane))) lane
      if (List.finRange 32).any (laneCanServe s1) then s1 else uncovered s1 (laneReport lane 3 false))

/-- JNL_LANE_FAULT (R285, R397): the leaf hash of a record was computed twice and differs; another lane builds the record
again. Which lane it was is open (log 57). -/
def execJnlLaneFault (jsn : Nat) (s : State) : Host.Outcome State Fault Refusal :=
  .next (if s.jnl.recs.any fun r => r.jsn == jsn && !r.complete then
      let (n, s1) := s.draw
      let lane := Config.openValue n % 256
      faultHold (startTest (s1.report { island := 42, unit := lane, cls := .jnl, severity := 1, detail := jsn })
        (.jnlLane lane))
    else s)

/-! ## Self-tests (R402) -/

/-- What a report of a unit under test names. -/
def unitReport (u : TestUnit) (severity : Nat) : ErrReport :=
  match u with
  | .core c => { island := (coreUnit c).1, unit := (coreUnit c).2, cls := .core, severity := severity, outcome := true }
  | .engine .pke e => { island := 24 + e.val / 8, unit := e.val % 8, cls := .pke, severity := severity, outcome := true }
  | .engine .sym e => { island := 24 + e.val / 8, unit := e.val % 8, cls := .sym, severity := severity, outcome := true }
  | .xltLane l => laneReport l severity true
  | .jnlLane l => { island := 42, unit := l % 256, cls := .jnl, severity := severity, outcome := true }

/-- A tile or a cluster that had no unit in service joins service again, at the clock of R41. -/
def joinAt (s : State) (i : Fin 44) : State := if islandState s i.val = 2 then setClk s i (joinClock s i) else s

/-- A unit returns to service (R402); with it, an island that had none does (R41). -/
def returnUnit (s : State) (u : TestUnit) : State :=
  match u with
  | .core c =>
    let f := Fld.ERR_CORE_MAP_INSVC (c.val / 64)
    let s1 := if coresInService s (tileOf c) = 0 then joinAt s ⟨(tileOf c).val, by omega⟩ else s
    (s1.setF f (putBits (s1.getF f) (c.val % 64) 1 1)).modCore c fun k => Core.select { k with svc := .inService }
  | .engine k e =>
    let n := clusterEngines s .pke (e.val / 8) + clusterEngines s .sym (e.val / 8)
    setEngine (if n = 0 then joinAt s ⟨24 + e.val / 8, by omega⟩ else s) k e true
  | .xltLane _ => s
  | .jnlLane _ => s

/-- A unit is retired. -/
def retireUnit (s : State) (u : TestUnit) : State :=
  let note (s : State) : State :=
    { s.bump Off.ERR_RETIRE_CNT with err := { s.err with retired := unitCode u :: s.err.retired } }
  match u with
  | .core c => retireCore s c
  | .engine k e => note (setEngine s k e false)
  | .xltLane l => note (s.setF Fld.XLT_CTRL_LANES (putBits (s.getF Fld.XLT_CTRL_LANES) l.val 1 0))
  | .jnlLane _ => note s

/-- SELF_TEST_DONE (R402): a unit that passes returns, unless STRIKES of its faults fall within RETIRE_S seconds; else it is
retired. -/
def execSelfTestDone (u : TestUnit) (pass : Bool) (s : State) : Host.Outcome State Fault Refusal :=
  .next (if !s.inTest u then s
    else
      let back := pass && decide (strikesOf s u < s.getF Fld.ERR_CFG_STRIKES)
      let s1 := (endTest s u).report (unitReport u (if back then 1 else 2))
      if back then returnUnit s1 u else retireUnit s1 u)

/-- FAULT_HOLD_EXPIRY (R396): 10 ms have passed since every fault. -/
def execFaultHoldExpiry (s : State) : Host.Outcome State Fault Refusal :=
  .next (if s.err.faults.any fun p => decide (s.now < p.2 + 10000000) then s else s.setF Fld.ADM_STATUS_FAULT_HOLD 0)

/-! ## The loss of a tile (R403, R404) -/

/-- Transactions in priority order (R12). -/
def byPriority (l : List Txn) : List Txn := l.mergeSort fun a b => !older b.deadline b.an a.deadline a.an

/-- A transaction that the loss of a tile sends to another: it has no JSN, and no technical decline waits. -/
def Txn.moves (x : Txn) (t : TileId) : Bool := x.tile == t && !x.si && x.undecided && x.jsn.isNone

/-- ADM gives a transaction to the tile in service with the most slack at its bucket (R404). Its records are those in the
extensions of its slot, which windows 2 and 3 address. -/
def reassign (s : State) (x : Txn) : State :=
  let starts := bucketStarts s
  match bestTile s starts (bucketOf starts x.bkt) (allTiles.filter (tileInService s)) with
  | none => s
  | some u =>
    let i := x.home.val * tileMax s + x.slot
    s.modTxn x.an fun y =>
      match y.phase with
      | .parse => { y with tile := u }
      | _ => { y with
          tile := u, reqPa := extReq s y.home y.slot, rspPa := extRsp s y.home y.slot, g1 := windowVa s 2 (i * 131072),
          g2 := windowVa s 3 (i * 65536) }

/-- A transaction that loses its tile makes a fault replay; one whose message is not yet parsed has made no run. -/
def loseRun (s : State) (x : Txn) : State :=
  match x.phase with
  | .parse => s
  | _ => endRun s x.an .faultReplay

/-- The tile and its cores are retired as a whole (R403 step 1). -/
def retireTile (s : State) (t : TileId) : State :=
  let s1 := (coresOf t).foldl (fun s c =>
    let f := Fld.ERR_CORE_MAP_INSVC (c.val / 64)
    l1Empty ((s.setF f (putBits (s.getF f) (c.val % 64) 1 0)).modCore c fun _ => { Core.reset with svc := .retired }) c) s
  let codes := tileCode t.val :: (coresOf t).map fun c => c.val
  let s2 : State := { s1.bump Off.ERR_RETIRE_CNT with err := { s1.err with
    retired := codes ++ s1.err.retired.filter fun x => !codes.contains x,
    testing := s1.err.testing.filter fun x => !codes.contains x } }
  let i : Fin 44 := ⟨t.val, by omega⟩
  avsWrite (setClk (setIslandState (clearTileStore s2 t.val) i 5) i 0)

/-- Responses of committed transactions are serialised from their extensions (R403 step 3). -/
def useExtensions (s : State) (t : TileId) : State :=
  { s with txns := s.txns.map fun x =>
      if x.home = t ∧ !x.si ∧ x.jsn.isSome then { x with rspPa := extRsp s x.home x.slot } else x }

/-- TILE_LOSS (R403, R404): a fault that the tile cannot correct. -/
def execTileLoss (t : TileId) (s : State) : Host.Outcome State Fault Refusal :=
  .next (if s.err.retired.contains (tileCode t.val) then s
    else
      let s1 := faultHold (s.report { island := t.val, unit := 0xFF, cls := .tile, severity := 2 })
      let moving := byPriority (s1.txns.filter fun x => x.moves t)
      let s2 := retireTile (moving.foldl loseRun s1) t
      (moving.foldl reassign (useExtensions s2 t)).countOutstanding)

end Sys2Proof.Machine
end

