-- ==== Sys2Proof/Machine/FloatArith.lean ====
section
/-! DEFINITION. IEEE 754-2019 binary32 and binary64 arithmetic as R152 to R155 fix it: every result is rounded once
from its exact value. Numbers are exact pairs of a magnitude and a power of two. -/

namespace Sys2Proof.Machine

/-- A binary format: precision, exponent width, and the total width of an encoding. -/
structure FFmt where
  prec : Nat
  expBits : Nat
  deriving DecidableEq, Repr

/-- binary64. -/
def FFmt.b64 : FFmt := { prec := 53, expBits := 11 }
/-- binary32. -/
def FFmt.b32 : FFmt := { prec := 24, expBits := 8 }
/-- The format that SZ names (R191). -/
def FFmt.ofSz (dbl : Bool) : FFmt := if dbl then .b64 else .b32
/-- Exponent bias, which is also the largest exponent. -/
def FFmt.bias (f : FFmt) : Int := 2 ^ (f.expBits - 1) - 1
/-- Smallest normal exponent. -/
def FFmt.emin (f : FFmt) : Int := 1 - f.bias
/-- Width of an encoding. -/
def FFmt.width (f : FFmt) : Nat := f.prec + f.expBits
/-- Fraction bits. -/
def FFmt.frac (f : FFmt) : Nat := f.prec - 1
/-- The default NaN (R154). -/
def FFmt.defaultNaN (f : FFmt) : Nat := (2 ^ f.expBits - 1) <<< f.frac + 2 ^ (f.frac - 1)
/-- Infinity without its sign. -/
def FFmt.inf (f : FFmt) : Nat := (2 ^ f.expBits - 1) <<< f.frac
/-- The largest finite magnitude. -/
def FFmt.maxFinite (f : FFmt) : Nat := f.inf - 1
/-- An encoding with a sign. -/
def FFmt.signed (f : FFmt) (neg : Bool) (mag : Nat) : Nat := (if neg then 2 ^ (f.width - 1) else 0) + mag

/-- What an encoding stands for: a NaN with its bits, an infinity, or ± m × 2^e. -/
inductive FVal where
  | nan (bits : Nat)
  | inf (neg : Bool)
  | fin (neg : Bool) (m : Nat) (e : Int)
  deriving DecidableEq, Repr

/-- Reads an encoding; with DAZ a subnormal operand becomes a zero of the same sign (R155). -/
def FFmt.unpack (f : FFmt) (daz : Bool) (x : Nat) : FVal :=
  let neg := x.testBit (f.width - 1)
  let ex := bitsOf x f.frac f.expBits
  let fr := bitsOf x 0 f.frac
  if ex = 2 ^ f.expBits - 1 then (if fr = 0 then .inf neg else .nan (x % 2 ^ f.width))
  else if ex = 0 then .fin neg (if daz then 0 else fr) (f.emin - f.frac)
  else .fin neg (2 ^ f.frac + fr) ((ex : Int) - f.bias - f.frac)

/-- Whether NaN bits are signalling. -/
def FFmt.isSnan (f : FFmt) (bits : Nat) : Bool := !bits.testBit (f.frac - 1)
/-- A NaN made quiet, its payload otherwise kept (R154). -/
def FFmt.quiet (f : FFmt) (bits : Nat) : Nat := bits ||| 2 ^ (f.frac - 1)

/-- What an operation answers: the encoding and the exceptions it signals; `tiny` is tininess after rounding (R153). -/
structure FRes where
  bits : Nat
  nv : Bool := false
  dz : Bool := false
  of_ : Bool := false
  nx : Bool := false
  tiny : Bool := false
  deriving DecidableEq, Repr

/-- Bit length of a number. -/
def bitLen (n : Nat) : Nat := if n = 0 then 0 else n.log2 + 1

/-- Whether rounding adds one: `rm` is FPCTL.RM (0 RNE, 1 RTZ, 2 RUP, 3 RDN), `q` the kept digits, the rest is
compared with one half. -/
def roundsUp (rm : Nat) (neg : Bool) (q : Nat) (above half exact : Bool) : Bool :=
  match rm with
  | 0 => above || (half && q % 2 == 1)
  | 1 => false
  | 2 => !neg && !exact
  | _ => neg && !exact

/-- (m + δ) × 2^e rounded to a multiple of 2^q, where 0 < δ < 1 if `sticky`: the multiple and whether it is exact. -/
def roundAt (rm : Nat) (neg : Bool) (m : Nat) (e : Int) (sticky : Bool) (q : Int) : Nat × Bool :=
  if q ≤ e then
    let v := m <<< (e - q).toNat
    if sticky then (if roundsUp rm neg v false false false then v + 1 else v, false) else (v, true)
  else
    let sh := (q - e).toNat
    let v := m >>> sh
    let r := m % 2 ^ sh
    let h := 2 ^ (sh - 1)
    let exact := r == 0 && !sticky
    (if roundsUp rm neg v (decide (h < r) || (r == h && sticky)) (r == h && !sticky) exact then v + 1 else v, exact)

/-- Rounds an exact value to the format (R153); with FTZ a tiny result becomes zero with UF and NX (R155). -/
def FFmt.round (f : FFmt) (rm : Nat) (ftz : Bool) (neg : Bool) (m : Nat) (e : Int) (sticky : Bool) : FRes :=
  if m = 0 ∧ !sticky then { bits := f.signed neg 0 }
  else
    let top : Int := e + bitLen m - 1
    let qu : Int := top - f.frac
    let u := roundAt rm neg m e sticky qu
    let topU : Int := if u.1 = 2 ^ f.prec then top + 1 else top
    let tiny := decide (topU < f.emin)
    if tiny && ftz then { bits := f.signed neg 0, nx := true, tiny := true }
    else
      let q : Int := if qu < f.emin - f.frac then f.emin - f.frac else qu
      let r := roundAt rm neg m e sticky q
      let carry := decide (r.1 = 2 ^ f.prec)
      let sig := if carry then 2 ^ f.frac else r.1
      let qf := if carry then q + 1 else q
      if f.bias - f.frac < qf then
        let toInf := rm = 0 ∨ (rm = 2 ∧ !neg) ∨ (rm = 3 ∧ neg)
        { bits := f.signed neg (if toInf then f.inf else f.maxFinite), of_ := true, nx := true }
      else
        let mag := if sig < 2 ^ f.frac then sig
                   else (qf + f.frac + f.bias).toNat <<< f.frac + (sig - 2 ^ f.frac)
        { bits := f.signed neg mag, nx := !r.2, tiny := tiny }

/-- The operands' NaN result, if any: the first NaN in operand order, quietened; NV for any signalling NaN (R154). -/
def FFmt.nanResult (f : FFmt) (vs : List FVal) : Option FRes :=
  let nans := vs.filterMap fun v => match v with | .nan b => some b | _ => none
  match nans with
  | [] => none
  | b :: _ => some { bits := f.quiet b, nv := nans.any f.isSnan }

/-- An invalid operation without a NaN operand (R154). -/
def FFmt.invalid (f : FFmt) : FRes := { bits := f.defaultNaN, nv := true }

/-- The signed integer of a magnitude. -/
def withSign (neg : Bool) (m : Nat) : Int := if neg then -(m : Int) else m

/-- The exact sum of two finite values, rounded; an exact zero takes the sign of R153. -/
def FFmt.addFin (f : FFmt) (rm : Nat) (ftz : Bool) (n1 : Bool) (m1 : Nat) (e1 : Int) (n2 : Bool) (m2 : Nat) (e2 : Int) :
    FRes :=
  let e := if e1 ≤ e2 then e1 else e2
  let x := withSign n1 (m1 <<< (e1 - e).toNat) + withSign n2 (m2 <<< (e2 - e).toNat)
  if x = 0 then
    { bits := f.signed (if n1 = n2 then n1 else decide (rm = 3)) 0 }
  else f.round rm ftz (decide (x < 0)) x.natAbs e false

/-- FADD; FSUB inverts the sign of b first (R152). -/
def FFmt.add (f : FFmt) (rm : Nat) (ftz : Bool) (a b : FVal) : FRes :=
  match f.nanResult [a, b] with
  | some r => r
  | none =>
    match a, b with
    | .inf s, .inf t => if s = t then { bits := f.signed s f.inf } else f.invalid
    | .inf s, _ => { bits := f.signed s f.inf }
    | _, .inf t => { bits := f.signed t f.inf }
    | .fin n1 m1 e1, .fin n2 m2 e2 => f.addFin rm ftz n1 m1 e1 n2 m2 e2
    | _, _ => f.invalid

/-- A value with its sign inverted; a NaN is unchanged, as an operand of FSUB. -/
def FVal.neg : FVal → FVal
  | .nan b => .nan b
  | .inf s => .inf (!s)
  | .fin s m e => .fin (!s) m e

/-- FMUL (R152). -/
def FFmt.mul (f : FFmt) (rm : Nat) (ftz : Bool) (a b : FVal) : FRes :=
  match f.nanResult [a, b] with
  | some r => r
  | none =>
    match a, b with
    | .inf s, .inf t => { bits := f.signed (s != t) f.inf }
    | .inf s, .fin t m _ => if m = 0 then f.invalid else { bits := f.signed (s != t) f.inf }
    | .fin s m _, .inf t => if m = 0 then f.invalid else { bits := f.signed (s != t) f.inf }
    | .fin n1 m1 e1, .fin n2 m2 e2 => f.round rm ftz (n1 != n2) (m1 * m2) (e1 + e2) false
    | _, _ => f.invalid

/-- FDIV (R152): a finite dividend by zero raises DZ. -/
def FFmt.div (f : FFmt) (rm : Nat) (ftz : Bool) (a b : FVal) : FRes :=
  match f.nanResult [a, b] with
  | some r => r
  | none =>
    match a, b with
    | .inf _, .inf _ => f.invalid
    | .inf s, .fin t _ _ => { bits := f.signed (s != t) f.inf }
    | .fin s _ _, .inf t => { bits := f.signed (s != t) 0 }
    | .fin n1 m1 e1, .fin n2 m2 e2 =>
      if m2 = 0 then
        if m1 = 0 then f.invalid else { bits := f.signed (n1 != n2) f.inf, dz := true }
      else if m1 = 0 then { bits := f.signed (n1 != n2) 0 }
      else
        let k := bitLen m2 + f.prec + 3
        let x := m1 <<< k
        f.round rm ftz (n1 != n2) (x / m2) (e1 - e2 - k) (decide (x % m2 ≠ 0))
    | _, _ => f.invalid

/-- FMA: a × b + c with one rounding; ∞ × 0 + c raises NV even for a quiet NaN c, and the result is then c (R154). -/
def FFmt.fma (f : FFmt) (rm : Nat) (ftz : Bool) (a b c : FVal) : FRes :=
  let inf0 := match a, b with
    | .inf _, .fin _ m _ => m == 0
    | .fin _ m _, .inf _ => m == 0
    | _, _ => false
  match f.nanResult [a, b, c] with
  | some r => { r with nv := r.nv || inf0 }
  | none =>
    if inf0 then f.invalid
    else
      let prodInf : Option Bool := match a, b with
        | .inf s, .inf t => some (s != t)
        | .inf s, .fin t _ _ => some (s != t)
        | .fin s _ _, .inf t => some (s != t)
        | _, _ => none
      match prodInf, c with
      | some s, .inf t => if s = t then { bits := f.signed s f.inf } else f.invalid
      | some s, _ => { bits := f.signed s f.inf }
      | none, .inf t => { bits := f.signed t f.inf }
      | none, .fin n3 m3 e3 =>
        match a, b with
        | .fin n1 m1 e1, .fin n2 m2 e2 => f.addFin rm ftz (n1 != n2) (m1 * m2) (e1 + e2) n3 m3 e3
        | _, _ => f.invalid
      | none, _ => f.invalid

/-- Integer square root, one bit at a time from bit `i - 1` down. -/
def isqrtFrom (n : Nat) : Nat → Nat → Nat
  | 0, r => r
  | i + 1, r => let t := r + 2 ^ i; isqrtFrom n i (if t * t ≤ n then t else r)

/-- Integer square root. -/
def isqrt (n : Nat) : Nat := isqrtFrom n (bitLen n / 2 + 1) 0

/-- FSQRT (R152): the root of −0 is −0, of any other negative value invalid. -/
def FFmt.sqrt (f : FFmt) (rm : Nat) (ftz : Bool) (a : FVal) : FRes :=
  match f.nanResult [a] with
  | some r => r
  | none =>
    match a with
    | .inf false => { bits := f.signed false f.inf }
    | .inf true => f.invalid
    | .fin s m e =>
      if m = 0 then { bits := f.signed s 0 }
      else if s then f.invalid
      else
        let k := 2 * f.prec + 4
        let odd := (e - k) % 2 ≠ 0
        let k2 := if odd then k + 1 else k
        let x := m <<< k2
        let r := isqrt x
        f.round rm ftz false r ((e - k2) / 2) (decide (r * r ≠ x))
    | _ => f.invalid

/-- FCVT from one format to another; a NaN keeps its high-order payload bits (R154). -/
def FFmt.convert (f g : FFmt) (rm : Nat) (ftz : Bool) (a : FVal) : FRes :=
  match a with
  | .nan b =>
    let q := f.quiet b
    let fr := bitsOf q 0 f.frac
    let fr' := if g.frac ≤ f.frac then fr >>> (f.frac - g.frac) else fr <<< (g.frac - f.frac)
    { bits := g.signed (q.testBit (f.width - 1)) (g.inf + fr'), nv := f.isSnan b }
  | .inf s => { bits := g.signed s g.inf }
  | .fin s m e => g.round rm ftz s m e false

/-- FCVTI and FCVTIZ: to a signed 64-bit integer (R154). -/
def toInt64 (f : FFmt) (rm : Nat) (a : FVal) : FRes :=
  match a with
  | .nan _ => { bits := 2 ^ 63, nv := true }
  | .inf s => { bits := if s then 2 ^ 63 else 2 ^ 63 - 1, nv := true }
  | .fin s m e =>
    have _ := f
    let r := if 64 ≤ e ∧ m ≠ 0 then (2 ^ 64, true) else roundAt rm s m e false 0
    let v := withSign s r.1
    if v < -(2 ^ 63 : Int) then { bits := 2 ^ 63, nv := true }
    else if (2 ^ 63 : Int) ≤ v then { bits := 2 ^ 63 - 1, nv := true }
    else { bits := ofSigned 64 v, nx := !r.2 }

/-- FCVTF: from a signed 64-bit integer. -/
def FFmt.ofInt64 (f : FFmt) (rm : Nat) (v : Int) : FRes := f.round rm false (decide (v < 0)) v.natAbs 0 false

/-- The order of two values: 0 equal, 1 less, 2 greater, 3 unordered (R154). -/
def FVal.compare (a b : FVal) : Nat :=
  let key : FVal → Option Int := fun v => match v with
    | .nan _ => none
    | .inf s => some (if s then -1 else 1)
    | .fin _ _ _ => some 0
  match a, b with
  | .fin s m e, .fin t n g =>
    let q := if e ≤ g then e else g
    let x := withSign s (m <<< (e - q).toNat)
    let y := withSign t (n <<< (g - q).toNat)
    if x = y then 0 else if x < y then 1 else 2
  | _, _ =>
    match key a, key b with
    | some x, some y => if x = y then 0 else if x < y then 1 else 2
    | _, _ => 3

/-- Whether a value is a NaN. -/
def FVal.isNan : FVal → Bool
  | .nan _ => true
  | _ => false

/-- Whether a value is a signalling NaN of the format. -/
def FVal.isSnan (f : FFmt) : FVal → Bool
  | .nan b => f.isSnan b
  | _ => false

end Sys2Proof.Machine
end

