-- ==== Sys2Proof/Machine/Float.lean ====
section
/-! DEFINITION. The floating-point instructions (R152 to R159, R191). -/

namespace Sys2Proof.Machine

/-- FPCTL.RM. -/
def fpRm (w : Word) : Nat := Bits.get w 5 2
/-- FPCTL.TE, bits NV, DZ, OF, UF, NX from bit 4 down. -/
def fpTe (w : Word) : Nat := Bits.get w 8 5
/-- FPCTL.FTZ. -/
def fpFtz (w : Word) : Bool := w.getLsbD 16
/-- FPCTL.DAZ. -/
def fpDaz (w : Word) : Bool := w.getLsbD 17

/-- The exceptions an operation signals, as FLAGS bits; with TE.UF set every tiny result signals UF, otherwise only
a tiny and inexact one (R153, R156). -/
def FRes.signals (r : FRes) (te : Nat) : Nat :=
  16 * b2n r.nv + 8 * b2n r.dz + 4 * b2n r.of_ + 2 * b2n (r.tiny && (bitAt te 1 || r.nx)) + b2n r.nx

/-- FPCTL.XCAUSE set, in the register and in a pending value of it: the values that a trap writes follow pending writes (R124,
R156). -/
def Bank.setXcause (x : Bank) (sig : Nat) : Bank :=
  { x with fpctl := Bits.put x.fpctl 27 5 sig,
           pend := x.pend.map fun p => if p.1 = Ctl.fpctl.num then (p.1, Bits.put p.2 27 5 sig) else p }

/-- Retires an operation (R156): the flags are ORed in and the result is written, or FP is raised with XCAUSE set and
nothing else changed. -/
def fpRetire (c : CoreId) (b : BankId) (r : FRes) (write : State → State) (s : State) : IRes :=
  let te := fpTe (s.bank c b).fpctl
  let sig := r.signals te
  if sig &&& te ≠ 0 then .trap (s.modBank c b fun x => x.setXcause sig) 0x24 0
  else .done (write (s.modBank c b fun x => x.sticky .fpctl (BitVec.ofNat 64 sig)))

/-- An operation on the F set: the lazy swap of R84, then the operation under FPCTL. -/
def fpInstr (c : CoreId) (op : BankId → Word → State → FRes) (write : BankId → Nat → State → State) (s : State) : State :=
  baseInstr c (fun b s0 =>
    let s := lazyF s0 c b
    let r := op b (s.bank c b).fpctl s
    fpRetire c b r (write b r.bits) s) s

/-- Writes an encoding to Fd; a binary32 result has bits [63:32] zero (R152). -/
def writeF (c : CoreId) (d : Reg) (_ : BankId) (bits : Nat) (s : State) : State := s.setFr c d (BitVec.ofNat 64 bits)

/-- An F operand as a value of the format (R152, R155). -/
def fVal (s : State) (c : CoreId) (dbl : Bool) (ctl : Word) (r : Reg) : FVal :=
  (FFmt.ofSz dbl).unpack (fpDaz ctl) (s.f c r).toNat

/-- A two-operand operation. -/
def fp2 (c : CoreId) (dbl : Bool) (d a b : Reg) (f : FFmt → Nat → Bool → FVal → FVal → FRes) (s : State) : State :=
  fpInstr c (fun _ w s => f (FFmt.ofSz dbl) (fpRm w) (fpFtz w) (fVal s c dbl w a) (fVal s c dbl w b)) (writeF c d) s

/-- FADD (R152). -/
def execFadd (c : CoreId) (dbl : Bool) (d a b : Reg) (s : State) : Host.Outcome State Fault Refusal :=
  .next (fp2 c dbl d a b FFmt.add s)
/-- FSUB (R152). -/
def execFsub (c : CoreId) (dbl : Bool) (d a b : Reg) (s : State) : Host.Outcome State Fault Refusal :=
  .next (fp2 c dbl d a b (fun f rm z x y => f.add rm z x y.neg) s)
/-- FMUL (R152). -/
def execFmul (c : CoreId) (dbl : Bool) (d a b : Reg) (s : State) : Host.Outcome State Fault Refusal :=
  .next (fp2 c dbl d a b FFmt.mul s)
/-- FDIV (R152). -/
def execFdiv (c : CoreId) (dbl : Bool) (d a b : Reg) (s : State) : Host.Outcome State Fault Refusal :=
  .next (fp2 c dbl d a b FFmt.div s)
/-- FMA (R152, R191): Fd := Fa × Fb + FC. -/
def execFma (c : CoreId) (dbl : Bool) (d a b cc : Reg) (s : State) : Host.Outcome State Fault Refusal :=
  .next (fpInstr c (fun _ w s => (FFmt.ofSz dbl).fma (fpRm w) (fpFtz w) (fVal s c dbl w a) (fVal s c dbl w b)
    (fVal s c dbl w cc)) (writeF c d) s)
/-- FSQRT (R152). -/
def execFsqrt (c : CoreId) (dbl : Bool) (d a : Reg) (s : State) : Host.Outcome State Fault Refusal :=
  .next (fpInstr c (fun _ w s => (FFmt.ofSz dbl).sqrt (fpRm w) (fpFtz w) (fVal s c dbl w a)) (writeF c d) s)
/-- FCVT (R152, R191): SZ gives the source format, the result has the other. -/
def execFcvt (c : CoreId) (dbl : Bool) (d a : Reg) (s : State) : Host.Outcome State Fault Refusal :=
  .next (fpInstr c (fun _ w s => (FFmt.ofSz dbl).convert (FFmt.ofSz !dbl) (fpRm w) (fpFtz w) (fVal s c dbl w a))
    (writeF c d) s)
/-- FCVTI (R152): to a signed 64-bit integer in Gd under RM. -/
def execFcvti (c : CoreId) (dbl : Bool) (d a : Reg) (s : State) : Host.Outcome State Fault Refusal :=
  .next (fpInstr c (fun _ w s => toInt64 (FFmt.ofSz dbl) (fpRm w) (fVal s c dbl w a))
    (fun b v s => s.setG c b d (BitVec.ofNat 64 v)) s)
/-- FCVTIZ (R152): rounding toward zero. -/
def execFcvtiz (c : CoreId) (dbl : Bool) (d a : Reg) (s : State) : Host.Outcome State Fault Refusal :=
  .next (fpInstr c (fun _ w s => toInt64 (FFmt.ofSz dbl) 1 (fVal s c dbl w a))
    (fun b v s => s.setG c b d (BitVec.ofNat 64 v)) s)
/-- FCVTF (R152): from the signed 64-bit integer in Ga. -/
def execFcvtf (c : CoreId) (dbl : Bool) (d a : Reg) (s : State) : Host.Outcome State Fault Refusal :=
  .next (fpInstr c (fun b w s => (FFmt.ofSz dbl).ofInt64 (fpRm w) (s.g c b a).toInt) (writeF c d) s)
/-- FCMPQ (R154): NV only for a signalling NaN. -/
def execFcmpq (c : CoreId) (dbl : Bool) (a b : Reg) (s : State) : Host.Outcome State Fault Refusal :=
  .next (fpInstr c (fun _ w s =>
      let x := fVal s c dbl w a; let y := fVal s c dbl w b
      { bits := x.compare y, nv := x.isSnan (FFmt.ofSz dbl) || y.isSnan (FFmt.ofSz dbl) })
    (fun k v s => s.setCC c k v) s)
/-- FCMPS (R154): NV for any NaN. -/
def execFcmps (c : CoreId) (dbl : Bool) (a b : Reg) (s : State) : Host.Outcome State Fault Refusal :=
  .next (fpInstr c (fun _ w s =>
      let x := fVal s c dbl w a; let y := fVal s c dbl w b
      { bits := x.compare y, nv := x.isNan || y.isNan })
    (fun k v s => s.setCC c k v) s)

/-- A move or sign operation: it raises no flag (R191). -/
def fpMove (c : CoreId) (f : BankId → State → State) (s : State) : State :=
  baseInstr c (fun b s => .done (f b (lazyF s c b))) s

/-- The bits of an F register that SZ names, zero-extended (R191). -/
def szBits (dbl : Bool) (w : Word) : Word := if dbl then w else (w.setWidth 32).setWidth 64

/-- FMVFG (R191): Gd := bits of Fa. -/
def execFmvfg (c : CoreId) (dbl : Bool) (d a : Reg) (s : State) : Host.Outcome State Fault Refusal :=
  .next (fpMove c (fun b s => s.setG c b d (szBits dbl (s.f c a))) s)
/-- FMVGF (R191): Fd := bits of Ga. -/
def execFmvgf (c : CoreId) (dbl : Bool) (d a : Reg) (s : State) : Host.Outcome State Fault Refusal :=
  .next (fpMove c (fun b s => s.setFr c d (szBits dbl (s.g c b a))) s)
/-- The sign bit of the format that SZ names. -/
def szSign (dbl : Bool) : Word := if dbl then 0x8000_0000_0000_0000 else 0x8000_0000
/-- FNEG (R191): the sign bit inverted. -/
def execFneg (c : CoreId) (dbl : Bool) (d a : Reg) (s : State) : Host.Outcome State Fault Refusal :=
  .next (fpMove c (fun _ s => s.setFr c d (szBits dbl (s.f c a) ^^^ szSign dbl)) s)
/-- FABS (R191): the sign bit cleared. -/
def execFabs (c : CoreId) (dbl : Bool) (d a : Reg) (s : State) : Host.Outcome State Fault Refusal :=
  .next (fpMove c (fun _ s => s.setFr c d (szBits dbl (s.f c a) &&& ~~~szSign dbl)) s)

end Sys2Proof.Machine
end

