-- ==== Sys2Proof/Machine/Integer.lean ====
section
/-! DEFINITION. The integer instructions: majors INT and MULDIV and the immediate forms (R147 to R151, R188 to R190). -/

namespace Sys2Proof.Machine

/-- An instruction that writes Gd a function of Ga and Gb and changes nothing else. -/
def aluOp (c : CoreId) (d a b : Reg) (f : Word → Word → Word) (s : State) : State :=
  baseInstr c (fun k s => .done (s.setG c k d (f (s.g c k a) (s.g c k b)))) s

/-- An instruction that writes Gd a function of Ga alone. -/
def aluOp1 (c : CoreId) (d a : Reg) (f : Word → Word) (s : State) : State :=
  baseInstr c (fun k s => .done (s.setG c k d (f (s.g c k a)))) s

/-- A comparison of Ga with a value: it sets CC and writes no register. -/
def cmpOp (c : CoreId) (a : Reg) (v : BankId → State → Word) (f : Word → Word → Nat) (s : State) : State :=
  baseInstr c (fun k s => .done (s.setCC c k (f (s.g c k a) (v k s)))) s

/-- A carry instruction (R147): the result goes to Gd and CC is set. -/
def carryOp (c : CoreId) (d a b : Reg) (chain : Bool) (f : Word → Word → Nat → Word × Bool) (s : State) : State :=
  baseInstr c (fun k s =>
    let r := f (s.g c k a) (s.g c k b) (if chain then s.cc c k % 2 else 0)
    .done ((s.setG c k d r.1).setCC c k (ccCarry r.2 r.1 chain (s.cc c k)))) s

/-- A widening multiply (R148): the low half to Gd, the high half to G(d + 1). -/
def wideMul (c : CoreId) (d a b : Reg) (f : Word → Word → Nat) (s : State) : State :=
  baseInstr c (fun k s =>
    let p := f (s.g c k a) (s.g c k b)
    .done ((s.setG c k d (BitVec.ofNat 64 p)).setG c k (Reg.succ d) (BitVec.ofNat 64 (p / 2 ^ 64)))) s

/-- A division (R149): a divisor of zero raises IDIV0 and writes nothing. -/
def divOp (c : CoreId) (d a b : Reg) (f : Word → Word → Word) (s : State) : State :=
  baseInstr c (fun k s =>
    if s.g c k b = 0 then .trap s 0x23 0 else .done (s.setG c k d (f (s.g c k a) (s.g c k b)))) s

/-- The signed quotient, truncated toward zero; −2^63 ÷ −1 is −2^63 (R149). -/
def sdiv64 (a b : Word) : Word := BitVec.ofInt 64 (a.toInt.tdiv b.toInt)

/-- The signed remainder, which takes the sign of the dividend (R149). -/
def srem64 (a b : Word) : Word := BitVec.ofInt 64 (a.toInt.tmod b.toInt)

/-- The signed 128-bit product modulo 2^128. -/
def smul128 (a b : Word) : Nat := ((a.toInt * b.toInt) % (2 ^ 128 : Int)).toNat

/-- ADD (R189). -/
def execAdd (c : CoreId) (d a b : Reg) (s : State) : Host.Outcome State Fault Refusal :=
  .next (aluOp c d a b (· + ·) s)
/-- SUB (R189). -/
def execSub (c : CoreId) (d a b : Reg) (s : State) : Host.Outcome State Fault Refusal :=
  .next (aluOp c d a b (· - ·) s)
/-- AND (R189). -/
def execAnd (c : CoreId) (d a b : Reg) (s : State) : Host.Outcome State Fault Refusal :=
  .next (aluOp c d a b (· &&& ·) s)
/-- OR (R189). -/
def execOr (c : CoreId) (d a b : Reg) (s : State) : Host.Outcome State Fault Refusal :=
  .next (aluOp c d a b (· ||| ·) s)
/-- XOR (R189). -/
def execXor (c : CoreId) (d a b : Reg) (s : State) : Host.Outcome State Fault Refusal :=
  .next (aluOp c d a b (· ^^^ ·) s)
/-- ANDN (R189): Ga and not Gb. -/
def execAndn (c : CoreId) (d a b : Reg) (s : State) : Host.Outcome State Fault Refusal :=
  .next (aluOp c d a b (fun x y => x &&& ~~~y) s)
/-- SLL (R189): by Gb[5:0]. -/
def execSll (c : CoreId) (d a b : Reg) (s : State) : Host.Outcome State Fault Refusal :=
  .next (aluOp c d a b (fun x y => x <<< (y.toNat % 64)) s)
/-- SRL (R189). -/
def execSrl (c : CoreId) (d a b : Reg) (s : State) : Host.Outcome State Fault Refusal :=
  .next (aluOp c d a b (fun x y => x >>> (y.toNat % 64)) s)
/-- SRA (R189). -/
def execSra (c : CoreId) (d a b : Reg) (s : State) : Host.Outcome State Fault Refusal :=
  .next (aluOp c d a b (fun x y => x.sshiftRight (y.toNat % 64)) s)
/-- SLLI (R189): by SH. -/
def execSlli (c : CoreId) (d a : Reg) (sh : Fin 64) (s : State) : Host.Outcome State Fault Refusal :=
  .next (aluOp1 c d a (fun x => x <<< sh.val) s)
/-- SRLI (R189). -/
def execSrli (c : CoreId) (d a : Reg) (sh : Fin 64) (s : State) : Host.Outcome State Fault Refusal :=
  .next (aluOp1 c d a (fun x => x >>> sh.val) s)
/-- SRAI (R189). -/
def execSrai (c : CoreId) (d a : Reg) (sh : Fin 64) (s : State) : Host.Outcome State Fault Refusal :=
  .next (aluOp1 c d a (fun x => x.sshiftRight sh.val) s)
/-- ADDS (R147). -/
def execAdds (c : CoreId) (d a b : Reg) (s : State) : Host.Outcome State Fault Refusal :=
  .next (carryOp c d a b false addCarry s)
/-- ADDC (R147). -/
def execAddc (c : CoreId) (d a b : Reg) (s : State) : Host.Outcome State Fault Refusal :=
  .next (carryOp c d a b true addCarry s)
/-- SUBS (R147). -/
def execSubs (c : CoreId) (d a b : Reg) (s : State) : Host.Outcome State Fault Refusal :=
  .next (carryOp c d a b false subBorrow s)
/-- SUBB (R147). -/
def execSubb (c : CoreId) (d a b : Reg) (s : State) : Host.Outcome State Fault Refusal :=
  .next (carryOp c d a b true subBorrow s)
/-- CMP (R189). -/
def execCmp (c : CoreId) (a b : Reg) (s : State) : Host.Outcome State Fault Refusal :=
  .next (cmpOp c a (fun k s => s.g c k b) ccSigned s)
/-- CMPU (R189). -/
def execCmpu (c : CoreId) (a b : Reg) (s : State) : Host.Outcome State Fault Refusal :=
  .next (cmpOp c a (fun k s => s.g c k b) ccUnsigned s)
/-- SEXTB (R189). -/
def execSextb (c : CoreId) (d a : Reg) (s : State) : Host.Outcome State Fault Refusal :=
  .next (aluOp1 c d a (sextFrom 8) s)
/-- SEXTH (R189). -/
def execSexth (c : CoreId) (d a : Reg) (s : State) : Host.Outcome State Fault Refusal :=
  .next (aluOp1 c d a (sextFrom 16) s)
/-- SEXTW (R189). -/
def execSextw (c : CoreId) (d a : Reg) (s : State) : Host.Outcome State Fault Refusal :=
  .next (aluOp1 c d a (sextFrom 32) s)
/-- MUL (R190): the low 64 bits of the product. -/
def execMul (c : CoreId) (d a b : Reg) (s : State) : Host.Outcome State Fault Refusal :=
  .next (aluOp c d a b (· * ·) s)
/-- MULWU (R148). -/
def execMulwu (c : CoreId) (d a b : Reg) (s : State) : Host.Outcome State Fault Refusal :=
  .next (wideMul c d a b (fun x y => x.toNat * y.toNat) s)
/-- MULWS (R148). -/
def execMulws (c : CoreId) (d a b : Reg) (s : State) : Host.Outcome State Fault Refusal :=
  .next (wideMul c d a b smul128 s)
/-- DIVU (R149). -/
def execDivu (c : CoreId) (d a b : Reg) (s : State) : Host.Outcome State Fault Refusal :=
  .next (divOp c d a b (fun x y => BitVec.ofNat 64 (x.toNat / y.toNat)) s)
/-- DIVS (R149). -/
def execDivs (c : CoreId) (d a b : Reg) (s : State) : Host.Outcome State Fault Refusal :=
  .next (divOp c d a b sdiv64 s)
/-- REMU (R149). -/
def execRemu (c : CoreId) (d a b : Reg) (s : State) : Host.Outcome State Fault Refusal :=
  .next (divOp c d a b (fun x y => BitVec.ofNat 64 (x.toNat % y.toNat)) s)
/-- REMS (R149). -/
def execRems (c : CoreId) (d a b : Reg) (s : State) : Host.Outcome State Fault Refusal :=
  .next (divOp c d a b srem64 s)

/-- DIVWU (R150): G(a + 1):Ga by Gb; quotient to Gd, remainder to G(d + 1), CC. -/
def execDivwu (c : CoreId) (d a b : Reg) (s : State) : Host.Outcome State Fault Refusal :=
  .next (baseInstr c (fun k s =>
    let hi := (s.g c k (Reg.succ a)).toNat
    let y := (s.g c k b).toNat
    let x := hi * 2 ^ 64 + (s.g c k a).toNat
    if y = 0 then .trap s 0x23 0
    else .done (((s.setG c k d (BitVec.ofNat 64 (x / y))).setG c k (Reg.succ d) (BitVec.ofNat 64 (x % y))).setCC c k
      (if hi < y then 0 else 1))) s)

/-- ADDI (R188): IMM16 sign-extended. -/
def execAddi (c : CoreId) (d a : Reg) (imm : BitVec 16) (s : State) : Host.Outcome State Fault Refusal :=
  .next (aluOp1 c d a (fun x => x + imm.signExtend 64) s)
/-- ANDI (R188): IMM16 zero-extended. -/
def execAndi (c : CoreId) (d a : Reg) (imm : BitVec 16) (s : State) : Host.Outcome State Fault Refusal :=
  .next (aluOp1 c d a (fun x => x &&& imm.setWidth 64) s)
/-- ORI (R188). -/
def execOri (c : CoreId) (d a : Reg) (imm : BitVec 16) (s : State) : Host.Outcome State Fault Refusal :=
  .next (aluOp1 c d a (fun x => x ||| imm.setWidth 64) s)
/-- XORI (R188). -/
def execXori (c : CoreId) (d a : Reg) (imm : BitVec 16) (s : State) : Host.Outcome State Fault Refusal :=
  .next (aluOp1 c d a (fun x => x ^^^ imm.setWidth 64) s)
/-- LUI (R188): IMM16 × 65,536, sign-extended from bit 31. -/
def execLui (c : CoreId) (d : Reg) (imm : BitVec 16) (s : State) : Host.Outcome State Fault Refusal :=
  .next (aluOp1 c d 0 (fun _ => sextFrom 32 (imm.setWidth 64 <<< 16)) s)
/-- CMPI (R188): with IMM16 sign-extended, signed. -/
def execCmpi (c : CoreId) (a : Reg) (imm : BitVec 16) (s : State) : Host.Outcome State Fault Refusal :=
  .next (cmpOp c a (fun _ _ => imm.signExtend 64) ccSigned s)
/-- CMPUI (R188): with IMM16 zero-extended, unsigned. -/
def execCmpui (c : CoreId) (a : Reg) (imm : BitVec 16) (s : State) : Host.Outcome State Fault Refusal :=
  .next (cmpOp c a (fun _ _ => imm.setWidth 64) ccUnsigned s)

end Sys2Proof.Machine
end

