-- ==== Sys2Proof/Machine/Keys.lean ====
section
/-! DEFINITION. MPU activation (R225, R226) and storage keys (R222, R228) as commands. -/

namespace Sys2Proof.Machine

/-- MPU_COMMIT_GO (R225): a write of 1 to MPU_COMMIT.GO. -/
def execMpuCommitGo (s : State) : Host.Outcome State Fault Refusal := .next (requestActivation s)

/-- The MSYNC of a core that waits for an activation retires (R125, R226). -/
def retireMsync (s : State) (c : CoreId) : State :=
  if (s.core c).wait = some .msync then retireWait s c else s

/-- No access that a core has checked is still to be performed or answered (R225 steps 1 and 3). -/
def accessesDone (s : State) : Bool :=
  allCores.all fun c => (s.core c).sq.isEmpty && (s.core c).posted.isEmpty &&
    (match (s.core c).wait with | some w => !w.onWindow | none => true)

/-- MPU_ACTIVATION (R225 step 3): an activation takes place once every access checked before has completed, and every MSYNC
whose activation has taken place retires. -/
def execMpuActivation (s : State) : Host.Outcome State Fault Refusal :=
  .next (if s.getF Fld.MPU_STATUS_DRAINING = 1 then
      (if accessesDone s then allCores.foldl retireMsync (activateAll s) else s)
    else allCores.foldl retireMsync s)

/-- MPU_SKEY_WRITE (R222). -/
def execMpuSkeyWrite (v : Word) (s : State) : Host.Outcome State Fault Refusal := .next (skeyWrite s v.toNat)

/-- The first core whose FKSET waits, with the frame address and the key. -/
def waitingFkset (s : State) : Option (CoreId × Nat × Nat) :=
  allCores.findSome? fun c => match (s.core c).wait with
    | some (.fkset pa v) => some (c, pa, v)
    | _ => none

/-- STORAGE_KEY_ACKED (R222, R228): every key cache has acknowledged one change, that of MPU_SKEY before those of FKSET
(log 49). From now on the new key governs; BUSY clears, or the FKSET retires. -/
def execStorageKeyAcked (s : State) : Host.Outcome State Fault Refusal :=
  .next (if s.skey.isSome then finishSkey s
    else match waitingFkset s with
      | some (c, pa, v) => retireWait (setFrameKey s pa v) c
      | none => s)

end Sys2Proof.Machine
end

