-- ==== Sys2Proof/Machine/PowerOps.lean ====
section
/-! DEFINITION. Clock scaling, island actions, temperature, the rail and the reference clocks as commands (R41, R380 to R395,
R453). -/

namespace Sys2Proof.Machine

/-! ## Clocks -/

/-- CLOCK_SCALE_EVAL (R41). -/
def execClockScaleEval (i : Fin 30) (s : State) : Host.Outcome State Fault Refusal := .next (noteClamp (evalClock s i))

/-- CLOCK_HOLD_EXPIRY (R41): the target has stayed below the clock for HOLD_US, and the clock is lowered to it. -/
def execClockHoldExpiry (i : Fin 30) (s : State) : Host.Outcome State Fault Refusal :=
  .next (match (s.isl (islOf i)).lowSince, clockTarget s i with
    | some t0, some t =>
      if t0 + 1000 * s.getF Fld.ADM_SCALE_HOLD_US ≤ s.now ∧ t < clkOf s (islOf i) then lowerTo s i t else s
    | _, _ => s)

/-- The clock of an island runs: it is in service or still completes its work (R384). -/
def tileRunsAt (s : State) (i : Fin 30) : Bool := islandState s i.val == 2 || islandState s i.val == 3

/-- OPERATING_POINT_DONE (R380): the voltage ramp and the clock switch are over. A clock that comes out above both F_lim and the
target, which may have fallen meanwhile, is lowered at once (R393). An island that has stopped makes no change. -/
def execOperatingPointDone (i : Fin 30) (s : State) : Host.Outcome State Fault Refusal :=
  .next (match (s.isl (islOf i)).want with
    | none => s
    | some f =>
      if tileRunsAt s i then noteClamp (evalClock ((setClk s (islOf i) f).modIsl (islOf i) fun x => { x with want := none }) i)
      else s)

/-! ## Island actions -/

/-- ISLAND_RUN (R386). -/
def execIslandRun (i : Fin 44) (s : State) : Host.Outcome State Fault Refusal := .next (islandAction s i 0)

/-- ISLAND_HOLD (R386, R387). -/
def execIslandHold (i : Fin 44) (s : State) : Host.Outcome State Fault Refusal := .next (islandAction s i 1)

/-- ISLAND_OFF (R386, R387). -/
def execIslandOff (i : Fin 44) (s : State) : Host.Outcome State Fault Refusal := .next (islandAction s i 2)

/-- ISLAND_RESET (R386, R387). -/
def execIslandReset (i : Fin 44) (s : State) : Host.Outcome State Fault Refusal := .next (islandAction s i 3)

/-- A transaction that still needs the tile of its records: undecided, or with its response not yet built (R384, R387). -/
def Txn.needsTile (x : Txn) (t : Nat) : Bool :=
  (x.tile.val == t || x.home.val == t) &&
    match x.phase with
    | .serialised => false
    | .handed => false
    | _ => true

/-- An island has completed its outstanding work (the table *Island actions*): a lane that waits for a MAC has started it. -/
def workDone (s : State) (i : Fin 44) : Bool :=
  if i.val < 24 then !(s.txns.any fun x => x.needsTile i.val)
  else if i.val < 30 then
    !(s.cry.jobs.any fun j => match j.st with | .running e _ => 24 + e.val / 8 == i.val | _ => false)
  else if i.val < 34 then !(s.xlt.any fun w => 30 + w.lane.val / 8 == i.val)
  else true

/-- The cores of a tile after its reset, with their L1s empty: TVEC and PINMAX come from `keep`, and service is as it was
(R388). -/
def resetCores (s : State) (t : TileId) (keep : Core → Word × Nat) : State :=
  (coresOf t).foldl (fun s c => l1Empty (s.modCore c fun k =>
    { Core.reset with svc := k.svc, tvec := (keep k).1, pinmax := (keep k).2 }) c) s

/-- A tile whose power goes: SYS retention keeps TVEC and TLBCFG of its cores (R388). -/
def tileOff (s : State) (t : TileId) : State :=
  let kept := (coresOf t).map fun c => (c.val, (s.core c).tvec, (s.core c).pinmax)
  let s1 := resetCores (clearTileStore s t.val) t fun _ => (0, 32)
  { s1 with pwr := { s1.pwr with kept := kept ++ s1.pwr.kept.filter fun p => p.1 / 4 != t.val } }

/-- The reply to a request of this node that the ledger store holds and has not passed to its boundary. -/
def heldReply (r : LReq) : Bool := r.peer.isNone && r.remote.isNone && decide (r.st ≠ .waiting)

/-- A reset of an LDG island loses locks and reservations that it held (R252, R324), and drops the replies that it has not passed
to its boundary: their requesters receive ISLAND_RESET (R385). Which ones it held is open (log 55). -/
def loseLocks (s : State) : State :=
  let n := s.ldg.locks.length
  let m := n + s.kol.rsv.length
  let gone (k : Nat) : Bool := bitAt (Config.openValue (s.freeCtr + k)) 0
  let lost := (s.ldg.locks.zipIdx.filter fun p => gone p.2).map (fun p => (p.1.an, p.1.run)) ++
    (s.kol.rsv.zipIdx.filter fun p => gone (n + p.2)).map fun p => (p.1.an, p.1.run)
  let dropped := (s.ldg.reqs.zipIdx.filter fun p => gone (m + p.2) && heldReply p.1).map fun p => (p.1.core, p.1.bank)
  dropped.foldl boundaryReset { s with
    ldg := { s.ldg with locks := (s.ldg.locks.zipIdx.filter fun p => !gone p.2).map fun p => p.1 },
    kol := { s.kol with
      rsv := (s.kol.rsv.zipIdx.filter fun p => !gone (n + p.2)).map fun p => p.1,
      lost := (s.kol.lost ++ lost.filter fun p => p.1 / 2 ^ 54 != s.node).eraseDups },
    freeCtr := s.freeCtr + m + s.ldg.reqs.length }

/-- The contents that an island loses when it is reset or loses power (R388; log 54). -/
def loseIsland (s : State) (i : Fin 44) (off : Bool) : State :=
  if h : i.val < 24 then
    let t : TileId := ⟨i.val, h⟩
    if off then tileOff s t else resetCores (clearTileStore s t.val) t fun _ => (0, 32)
  else if 34 ≤ i.val ∧ i.val < 38 then loseLocks s
  else s

/-- The stores that a tile's cores hold become visible before the tile stops. -/
def drainTile (s : State) (i : Fin 44) : State :=
  if h : i.val < 24 then (coresOf ⟨i.val, h⟩).foldl drainAll s else s

/-- ISLAND_QUIESCED (R384, R386): the island is held, off, or reset and on its way back. -/
def execIslandQuiesced (i : Fin 44) (s : State) : Host.Outcome State Fault Refusal :=
  .next (if islandState s i.val ≠ 3 ∨ !workDone s i then s
    else
      let s1 := (setClk (drainTile s i) i 0).modIsl i fun x => { x with want := none, lowSince := none }
      match (s.isl i).action with
      | some 1 => (setIslandState s1 i 4).modIsl i fun x => { x with action := none }
      | some 2 => (setIslandState (loseIsland s1 i true) i 0).modIsl i fun x => { x with action := none }
      | some 3 => setIslandState (loseIsland s1 i false) i 1
      | _ => s)

/-- Restores what SYS retention kept for the cores of a tile (R388). -/
def restoreKept (s : State) (i : Fin 44) : State :=
  if h : i.val < 24 then
    let s1 := (coresOf ⟨i.val, h⟩).foldl (fun s c =>
      match s.pwr.kept.find? fun p => p.1 == c.val with
      | some p => s.modCore c fun k => { k with tvec := p.2.1, pinmax := p.2.2 }
      | none => s) s
    { s1 with pwr := { s1.pwr with kept := s1.pwr.kept.filter fun p => p.1 / 4 != i.val } }
  else s

/-- The lines of a stack have been rebuilt: DEGRADED clears unless a stack has failed (R387). -/
def restoreStack (s : State) (i : Fin 44) : State :=
  if 34 ≤ i.val ∧ i.val < 38 ∧ !((List.range 4).any fun k => s.err.retired.contains (stackCode k)) then
    s.setF Fld.LDG_STATUS_DEGRADED 0
  else s

/-- ISLAND_RETURN (R387, R388): an island that starts is in service again. -/
def execIslandReturn (i : Fin 44) (s : State) : Host.Outcome State Fault Refusal :=
  .next (if islandState s i.val = 1 ∧ (s.isl i).action.isSome then
      let s1 := setClk (restoreLog (restoreStack (restoreKept s i) i) i.val) i (joinClock s i)
      (setIslandState s1 i 2).modIsl i fun x => { x with action := none }
    else s)

/-! ## Temperature -/

/-- The value that a failed sensor reports (R390): never above 134.875 °C. With no working sensor in the device it is open
(log 52). -/
def substitute (s : State) (k : Nat) : Int × State :=
  let works (j : Nat) : Bool := j != k && s.getF (Fld.THM_SENSOR_FAULT j) == 0
  let top (l : List Nat) : Option Int := (l.map fun j => tempOf s j).max?
  let near := (List.range 64).filter fun j => works j && sensorIsland j == sensorIsland k
  match top near, top ((List.range 64).filter works) with
  | some t, _ => (min 1079 (t + 16), s)
  | none, some t => (min 1079 (t + 80), s)
  | none, none => let d := s.draw; (min 1079 (toSigned 16 (Config.openValue d.1)), d.2)

/-- Writes a sensor's TEMP. -/
def putTemp (s : State) (k : Nat) (t : Int) : State := s.setF (Fld.THM_SENSOR_TEMP k) (ofSigned 16 t)

/-- Keeps the highest reading since MAX was cleared (log 52). -/
def noteMax (s : State) (k : Nat) (t : Int) : State :=
  let old := toSigned 16 (s.getF (Fld.THM_SENSOR_MAX k))
  let s1 := if s.pwr.fresh.contains k ∧ t ≤ old then s else s.setF (Fld.THM_SENSOR_MAX k) (ofSigned 16 t)
  { s1 with pwr := { s1.pwr with fresh := k :: s1.pwr.fresh.filter fun j => j != k } }

/-- Counts successive readings of 135 °C or above (R395). -/
def noteHot (s : State) (k : Nat) (t : Int) : State :=
  let n := (s.pwr.hot.lookup k).getD 0
  let rest := s.pwr.hot.filter fun p => p.1 != k
  { s with pwr := { s.pwr with hot := (if 1080 ≤ t then (k, n + 1) :: rest else rest) } }

/-- The self-check of a sensor fails: an entry of CLASS 0x14 and SEVERITY 1 (R390). -/
def failSensor (s : State) (k : Nat) : State :=
  let s1 := s.setF (Fld.THM_SENSOR_FAULT k) 1
  let s2 := faultHold (s1.report { island := sensorIsland k, unit := k, cls := .environment, severity := 1 })
  { s2 with pwr := { s2.pwr with hot := s2.pwr.hot.filter fun p => p.1 != k } }

/-- A reading at or above the hysteresis ends the cooling of an island's limit (R391). -/
def breakCool (s : State) (k : Nat) (t : Int) : State :=
  match scaledIslands.find? fun i => i.val == sensorIsland k with
  | none => s
  | some i => s.modIsl (islOf i) fun x =>
      { x with cool := x.cool && decide (t ≤ x.limTemp - 8 * (s.getF Fld.THM_CFG_HYST_C : Int)) }

/-- THM_STATUS after a reading: the highest reading and its sensor, and OVER125 (R394). -/
def noteThermal (s : State) (t : Int) : State :=
  let best := (List.range 64).foldl (fun b k => if tempOf s b < tempOf s k then k else b) 0
  let s1 := (s.setF Fld.THM_STATUS_HOTTEST (ofSigned 16 (tempOf s best))).setF Fld.THM_STATUS_SENSOR best
  if 1000 < t then s1.setF Fld.THM_STATUS_OVER125 1 else s1

/-- Above 125 °C an island's running clock is held at or below F_lim, whatever its target (R394). -/
def holdHot (s : State) (k : Nat) : State :=
  match scaledIslands.find? fun i => i.val == sensorIsland k with
  | none => s
  | some i => if islandHot s (islOf i) then evalClock s i else s

/-- SENSOR_SAMPLE (R390, R394): a reading in eighths of a degree, or a failed self-check; a failed sensor reports its substitute from
then on. -/
def execSensorSample (k : Fin 64) (reading : Option Int) (s : State) : Host.Outcome State Fault Refusal :=
  let k := k.val
  .next (
    let s1 := if reading.isNone ∧ s.getF (Fld.THM_SENSOR_FAULT k) = 0 then failSensor s k else s
    match (if s1.getF (Fld.THM_SENSOR_FAULT k) = 0 then reading else none) with
    | some r =>
      let t := toSigned 16 (ofSigned 16 r)
      noteClamp (holdHot (noteThermal (breakCool (noteHot (noteMax (putTemp s1 k t) k t) k t) k t) t) k)
    | none =>
      let v := substitute s1 k
      noteClamp (holdHot (noteThermal (breakCool (putTemp v.2 k v.1) k v.1) v.1) k))

/-- The limit that a temperature gives (R391). -/
def rawLimit (s : State) (i : Fin 30) (t : Int) : Nat :=
  let above := t - 8 * (s.getF Fld.THM_CFG_DERATE_C : Int)
  let top := fMax s (islOf i)
  if above ≤ 0 then top
  else max 400 (top - 100 * ceilDiv above.toNat (8 * s.getF Fld.THM_CFG_STEP_C))

/-- One period of the thermal model for an island's limit (R391). -/
def moveLimit (s : State) (i : Fin 30) : State :=
  let t := islandTemp s (islOf i)
  let raw := rawLimit s i t
  s.modIsl (islOf i) fun x =>
    let low := decide (t ≤ x.limTemp - 8 * (s.getF Fld.THM_CFG_HYST_C : Int))
    if raw < x.lim then { x with lim := raw, limTemp := t, cool := false }
    else if x.lim < raw ∧ x.cool ∧ low then { x with lim := min raw (x.lim + 100), cool := low }
    else { x with cool := low }

/-- Sets F_cap. -/
def setCap (s : State) (i : Fin 30) (f : Nat) : State := s.setF (Fld.PWR_ISL_STATUS_FCAP_MHZ i.val) f

/-- The voltage that the rail needs for an island at a point (R382). -/
def railNeed (s : State) (i : Fin 30) (f : Nat) : Nat :=
  if s.getF Fld.PWR_AVS_ENABLE = 0 then 850
  else clampNat 600 850 ((islandMv s (islOf i) f).toNat + 30 + s.getF Fld.PWR_AVS_MARGIN_MV)

/-- Raises F_cap to a point once the rail has the voltage; until then the point waits (R382, R392). -/
def raiseCap (s : State) (i : Fin 30) (f : Nat) : State :=
  if railNeed s i f ≤ s.getF Fld.PWR_AVS_MEAS_MV then
    (setCap s i f).modIsl (islOf i) fun x => { x with rise := none }
  else s.modIsl (islOf i) fun x => { x with rise := some f }

/-- F_cap moves toward F_lim by at most one point, and down no further than the floor g (R392). -/
def moveCap (s : State) (i : Fin 30) : State :=
  let cap := fCap s i.val
  let lim := (s.isl (islOf i)).lim
  if lim < cap then
    let g := (demandPoint s i 1 64).getD 400
    (setCap s i (min cap (max (cap - 100) (max g lim)))).modIsl (islOf i) fun x => { x with rise := none }
  else if cap < lim then raiseCap s i (min lim (cap + 100))
  else s.modIsl (islOf i) fun x => { x with rise := none }

/-- The thermal model acts on an island that has been brought up and is not retired. -/
def modelled (s : State) (i : Fin 30) : Bool := fMax s (islOf i) != 0 && islandState s i.val != 5

/-- One period of the thermal model for an island: F_lim, F_cap, and then the clock (R391 to R394). -/
def thermalStep (s : State) (i : Fin 30) : State :=
  if modelled s i then evalClock (moveCap (moveLimit s i) i) i else s

/-- THERMAL_MODEL_PERIOD (R391, R392). -/
def execThermalModelPeriod (s : State) : Host.Outcome State Fault Refusal :=
  .next (noteClamp (noteDerate (avsWrite (scaledIslands.foldl thermalStep s))))

/-! ## The rail -/

/-- Since when the read-back has differed from the target by more than 25 mV (R382). -/
def noteRail (s : State) (measured : Nat) : State :=
  let target := s.getF Fld.PWR_AVS_TARGET_MV
  let off := decide (target + 25 < measured ∨ measured + 25 < target)
  { s with pwr := { s.pwr with avsOff := (if off then s.pwr.avsOff.or (some s.now) else none) } }

/-- AVS_UPDATE (R382): PWR writes the target and reads the rail back; capacity clocks that waited for it rise. -/
def execAvsUpdate (measured : Nat) (s : State) : Host.Outcome State Fault Refusal :=
  .next (
    let s1 := (avsWrite s).setF Fld.PWR_AVS_MEAS_MV measured
    let s2 := noteRail s1 measured
    let s3 := scaledIslands.foldl (fun s i => match (s.isl (islOf i)).rise with
      | some f => evalClock (raiseCap s i f) i
      | none => s) s2
    noteDerate s3)

/-- AVS_FAULT (R382): the read-back has differed by more than 25 mV for more than 1 ms. -/
def execAvsFault (measured : Nat) (s : State) : Host.Outcome State Fault Refusal :=
  .next (
    let s1 := noteRail (s.setF Fld.PWR_AVS_MEAS_MV measured) measured
    if s1.pwr.avsOff.any fun t => decide (t + 1000000 < s1.now) then
      (s1.setF Fld.PWR_AVS_FAULT 1).report
        { island := 43, unit := 0xFF, cls := .environment, severity := 5, detail := measured }
    else s1)

/-! ## Reference clocks (R453) -/

/-- REFCLK_LOSS (R453). -/
def execRefclkLoss (k : RefClk) (s : State) : Host.Outcome State Fault Refusal :=
  .next (if s.pwr.clkLost.contains k then s
    else
      let s1 : State := { s with pwr := { s.pwr with clkLost := k :: s.pwr.clkLost } }
      match k with
      | .eth => allPorts.foldl failPort s1
      | .kol => allPorts.foldl failKport s1
      | .pcie => linkDownHost s1
      | .sys25 => noteTimeSource (s1.report { island := 43, unit := 0xFF, cls := .environment, severity := 5 })
      | .time10 => noteTimeSource s1)

/-- REFCLK_RESTORE (R453): an input that was lost has run for 1 ms without loss. -/
def execRefclkRestore (k : RefClk) (s : State) : Host.Outcome State Fault Refusal :=
  .next (if s.pwr.clkLost.contains k then
      noteTimeSource { s with pwr := { s.pwr with clkLost := s.pwr.clkLost.filter fun x => x != k } }
    else s)

end Sys2Proof.Machine
end

