-- ==== Sys2Proof/Machine/SysOps.lean ====
section
/-! DEFINITION. The setup registers, time, debug, and the SMBus as commands (R334, R422 to R435, R441); resets, power and
bring-up as commands (R356 to R365, R374 to R376, R395, R445, R446). -/

namespace Sys2Proof.Machine

/-! ## Registers -/

/-- A size and alignment that BAR0 takes (R334). -/
def bar0Shape (off size : Nat) : Bool := (size == 4 || size == 8) && off % size == 0 && decide (off + size ≤ 2 ^ 24)

/-- A write by the host (R334, R422, R423). -/
def hostRegWrite (s : State) (off size v : Nat) : State :=
  if !bar0Shape off size then badAccess s 2 true off size
  else if (regCovering off).isNone then badAccess s 1 true off size
  else regWrite s off size v

/-- The host reaches BAR0: HIF has trained its link (R426). -/
def hostReaches (s : State) : Bool := s.getF Fld.HIF_STATUS_MODE != 0

/-- The host's access to BAR0 completes (R334, R422). -/
def answerHost (s : State) (v : Option Nat) : State := { s with out := s.out ++ [.completion v] }

/-- A 4-byte read by the host (R422, R424): what it returns is the first part of `regRead`, and zero where no register lies. -/
def hostHalfRead (s : State) (off : Nat) : State :=
  if !bar0Shape off 4 then answerHost (badAccess s 2 false off 4) none
  else if (regCovering off).isNone then answerHost (badAccess s 1 false off 4) (some 0)
  else answerHost (regRead s .host off 4).2 (some (regRead s .host off 4).1)

/-- REGISTER_WRITE (R7, R8, R423, R425, R426): a write of 4 or 8 bytes by the host, or of 1, 2, 4 or 8 bytes by a core, applies
under the access codes of its fields. -/
def execRegisterWrite (who : Requester) (off size : Nat) (v : Word) (s : State) : Host.Outcome State Fault Refusal :=
  .next (match who with
    | .host => if hostReaches s then hostRegWrite s off size v.toNat else s
    | .core _ =>
      if (size = 1 ∨ size = 2 ∨ size = 4 ∨ size = 8) ∧ off % size = 0 then regWrite s off size v.toNat else s)

/-- LATCHED_HALF_READ (R424): a 4-byte read; what it returns is the first part of `regRead`. -/
def execLatchedHalfRead (who : Requester) (off : Nat) (s : State) : Host.Outcome State Fault Refusal :=
  .next (match who with
    | .host => if hostReaches s then hostHalfRead s off else s
    | .core _ => if off % 4 = 0 then (regRead s who off 4).2 else s)

/-- BAR0_UNMAPPED_ACCESS (R422, R426): an allowed access to an offset that holds no register; a read returns zero. -/
def execBar0UnmappedAccess (write : Bool) (off size : Nat) (s : State) : Host.Outcome State Fault Refusal :=
  .next (if hostReaches s ∧ bar0Shape off size ∧ (regCovering off).isNone then
      (if write then badAccess s 1 write off size else answerHost (badAccess s 1 write off size) (some 0))
    else s)

/-- BAR0_ABORT (R334, R426): an access of another size or alignment has no effect but its record; it is completed with
Completer Abort. -/
def execBar0Abort (write : Bool) (off size : Nat) (s : State) : Host.Outcome State Fault Refusal :=
  .next (if hostReaches s ∧ ¬bar0Shape off size then answerHost (badAccess s 2 write off size) none else s)

/-- SYS_EVT_CLEAR (R429, R430). -/
def execSysEvtClear (bits : Word) (s : State) : Host.Outcome State Fault Refusal :=
  .next (regWrite s Off.SYS_EVT 8 bits.toNat)

/-- SYS_EVT_EN_WRITE (R430). -/
def execSysEvtEnWrite (v : Word) (s : State) : Host.Outcome State Fault Refusal :=
  .next (regWrite s Off.SYS_EVT_EN 8 v.toNat)

/-! ## The SMBus -/

/-- SMBUS_BLOCK_WRITE (R441). -/
def execSmbusBlockWrite (ptr : BitVec 24) (s : State) : Host.Outcome State Fault Refusal :=
  .next { s with sys := { s.sys with smbPtr := ptr.toNat } }

/-- The 8 bytes that the SMBus reads at an offset that is a multiple of 8: the registers of SYS, BOOT, PWR, THM and ERR, and
zero elsewhere (R441). -/
def smbusWord (s : State) (off : Nat) : List Byte := leBytes 8 (if off < 0x5_0000 then (regRead s .host off 8).1 else 0)

/-- The 8 bytes at the pointer, which need not be a multiple of 8 (R441). -/
def smbusData (s : State) : List Byte :=
  let p := s.sys.smbPtr
  let start := p / 8 * 8
  ((smbusWord s start ++ smbusWord s (start + 8)).drop (p % 8)).take 8

/-- SMBUS_BLOCK_READ (R441): the bytes at the pointer go out, and the pointer advances by 8. -/
def execSmbusBlockRead (s : State) : Host.Outcome State Fault Refusal :=
  .next { s with out := s.out ++ [.smbus (smbusData s)], sys := { s.sys with smbPtr := (s.sys.smbPtr + 8) % 2 ^ 24 } }

/-! ## Time -/

/-- TIME_STEP (R432). -/
def execTimeStep (delta : Word) (s : State) : Host.Outcome State Fault Refusal := .next (timeStep s delta)

/-- TIME_RATE_WRITE (R431). -/
def execTimeRateWrite (adj : BitVec 32) (s : State) : Host.Outcome State Fault Refusal :=
  .next (regWrite s Off.SYS_TIME_RATE 8 adj.toNat)

/-- An edge comes less than 500 ms after the last one taken. -/
def ppsTooSoon (s : State) : Bool :=
  match s.sys.lastPps with
  | some t => decide (s.now < t + 500000000)
  | none => false

/-- PPS_EDGE (R434). -/
def execPpsEdge (rising : Bool) (s : State) : Host.Outcome State Fault Refusal :=
  .next (if (s.getF Fld.SYS_TIME_CFG_PPS_EDGE == b2n (!rising)) && !ppsTooSoon s then
      ({ s.setReg Off.SYS_PPS_CAP s.now with sys := { s.sys with lastPps := some s.now } } : State).evt 9
    else s)

/-- DEVTIME is a multiple of 1,000,000,000 ns, or the rate has carried it over one (R431, R434). -/
def atSecond (s : State) : Bool :=
  s.now % 1000000000 == 0 || s.now % 1000000000 == 1 && s.sys.ppsOut != some (s.now - 1)

/-- PPS_OUT_RISE (R434). -/
def execPpsOutRise (s : State) : Host.Outcome State Fault Refusal :=
  .next (if s.getF Fld.SYS_PPS_OUT_EN = 1 ∧ atSecond s then ppsRise s else s)

/-- PPS_OUT_FALL (R434). -/
def execPpsOutFall (s : State) : Host.Outcome State Fault Refusal :=
  .next (match s.sys.ppsOut with
    | some t =>
      if t + s.getF Fld.SYS_PPS_OUT_WIDTH_NS ≤ s.now then { s with sys := { s.sys with ppsOut := none } } else s
    | none => s)

/-! ## Debug -/

/-- DEBUG_NEWCHAL (R435). -/
def execDebugNewchal (s : State) : Host.Outcome State Fault Refusal := .next (debugNew s)

/-- DEBUG_GO (R435): a write of SYS_DBG_CTRL with ADDR, KEYIDX and GO. -/
def execDebugGo (addr : Nat) (keyidx : Fin 4) (s : State) : Host.Outcome State Fault Refusal :=
  .next (regWrite s Off.SYS_DBG_CTRL 8 (bitsOf addr 6 41 * 64 + keyidx.val * 16 + 2))

/-- ZEROISATION_DONE (R278): the general space is overwritten, the wrapping key of the traffic spaces destroyed, and the
DRBG reseeded; debug that waited for it is enabled (R435). -/
def execZeroisationDone (s : State) : Host.Outcome State Fault Refusal :=
  .next (if s.cry.zeroing then
      debugEnable (noteSlots { s with cry := { s.cry with keys := [], cache := [], wrapGen := s.cry.wrapGen + 1, zeroing := false } })
    else s)

/-! ## Resets -/

/-- COLD_RESET (R356): COLD_RESET_N or the loss of VDD_AON. -/
def execColdReset (_k : ColdCause) (s : State) : Host.Outcome State Fault Refusal := .next (coldResetTo s)

/-- WARM_RESET (R356, R357): WARM_RESET_N is low. -/
def execWarmReset (s : State) : Host.Outcome State Fault Refusal := .next (warmResetTo s 1 true)

/-- WARM_RESET_N_RISE (R358). -/
def execWarmResetNRise (s : State) : Host.Outcome State Fault Refusal := .next (warmRise s)

/-- BOOT_RESET_WARM (R356): a write of BOOT_RESET with KIND 1. -/
def execBootResetWarm (confirm : BitVec 16) (s : State) : Host.Outcome State Fault Refusal :=
  .next (regWrite s Off.BOOT_RESET 8 (confirm.toNat * 2 ^ 48 + 1))

/-- BOOT_RESET_COLD (R356): a write of BOOT_RESET with KIND 2. -/
def execBootResetCold (confirm : BitVec 16) (s : State) : Host.Outcome State Fault Refusal :=
  .next (regWrite s Off.BOOT_RESET 8 (confirm.toNat * 2 ^ 48 + 2))

/-- The working sensor that has read 135 °C or above three times in succession (R395). -/
def tripSensor (s : State) : Option Nat :=
  (List.range 64).find? fun k => decide (3 ≤ (s.pwr.hot.lookup k).getD 0) && s.getF (Fld.THM_SENSOR_FAULT k) == 0

/-- THERMAL_TRIP (R395): THERM_TRIP_N goes low, and SYS removes power until a cold reset. -/
def execThermalTrip (s : State) : Host.Outcome State Fault Refusal :=
  .next (match tripSensor s with
    | none => s
    | some k =>
      if s.pwr.trip then s
      else
        let s1 := s.report { island := sensorIsland k, unit := k, cls := .environment, severity := 5,
                             detail := s.getF (Fld.THM_SENSOR_TEMP k) }
        powerLoss { s1 with pwr := { s1.pwr with trip := true } })

/-- RAIL_LOSS (R446): the loss of VDD_AON, rail 3, is a cold reset; any other drives PWR_FAULT_N low, and SYS removes power
until a cold reset. -/
def execRailLoss (rail : Fin 10) (s : State) : Host.Outcome State Fault Refusal :=
  .next (if rail = 3 then coldResetTo s
    else if s.pwr.railFault ∨ (s.boot.step = 0 ∧ !s.pwr.trip) then s
    else
      let s1 := s.report { island := 43, unit := 0xFF, cls := .environment, severity := 5, detail := rail.val }
      powerLoss { s1 with pwr := { s1.pwr with railFault := true } })

/-! ## Bring-up -/

/-- POWER_GOOD (R445). -/
def execPowerGood (s : State) : Host.Outcome State Fault Refusal := .next (powerGood s)

/-- IMAGE_SELECT (R363). -/
def execImageSelect (s : State) : Host.Outcome State Fault Refusal := .next (imageSelect s)

/-- MICROCODE_LOAD (R418). -/
def execMicrocodeLoad (bad : List CoreId) (s : State) : Host.Outcome State Fault Refusal := .next (microcodeLoad s bad)

/-- STANDIN_OPEN (R358, R364). -/
def execStandinOpen (s : State) : Host.Outcome State Fault Refusal := .next (standinOpen s)

/-- HBM_INIT_DONE (R358). -/
def execHbmInitDone (s : State) : Host.Outcome State Fault Refusal := .next (hbmInitDone s)

/-- Applies the pairs of a SETUP section as writes of the host (R362). -/
def applySetup (b : List Byte) (s : State) : State :=
  (List.range (b.length / 16)).foldl (fun s i => hostRegWrite s (fld b (16 * i) 8) 8 (fld b (16 * i + 8) 8)) s

/-- BRINGUP_READY (R358, R362). -/
def execBringupReady (s : State) : Host.Outcome State Fault Refusal :=
  .next (if s.boot.step ≠ 9 then s
    else
      let s1 := bringupRest s
      match sectionOf s.boot.image 5 with
      | some b => applySetup b s1
      | none => s1)

/-- BOOT_LOAD (R359). -/
def execBootLoad (s : State) : Host.Outcome State Fault Refusal := .next (bootLoad s)

/-- BOOT_RELEASE (R374, R375). -/
def execBootRelease (s : State) : Host.Outcome State Fault Refusal := .next (bootRelease s)

/-- STANDIN_TILES_JOIN (R376). -/
def execStandinTilesJoin (s : State) : Host.Outcome State Fault Refusal := .next (standinTilesJoin s)

/-- SVN_COMMIT (R365). -/
def execSvnCommit (s : State) : Host.Outcome State Fault Refusal := .next (svnCommit s)

/-- FUSE_PROGRAM (R360). -/
def execFuseProgram (bit : BitVec 16) (s : State) : Host.Outcome State Fault Refusal := .next (fuseProgram s bit.toNat)

/-- FUSE_WRITE_DONE (R360, R365). -/
def execFuseWriteDone (s : State) : Host.Outcome State Fault Refusal := .next (fuseWriteDone s)

end Sys2Proof.Machine
end

