-- ==== Sys2Proof/Machine/Dispatch.lean ====
section
/-! DEFINITION. The meaning of every command, by one direct call. -/

namespace Sys2Proof.Machine

/-- What a command does to everything but the queue. -/
def exec (i : Instr) (s : State) : Host.Outcome State Fault Refusal :=
  match i with
  | .frameReceive p frame => Sys2Proof.Machine.execFrameReceive p frame s
  | .handbackComplete h => Sys2Proof.Machine.execHandbackComplete h s
  | .segmentTransmit p => Sys2Proof.Machine.execSegmentTransmit p s
  | .retransmitTimeout h => Sys2Proof.Machine.execRetransmitTimeout h s
  | .delayedAckTimer h => Sys2Proof.Machine.execDelayedAckTimer h s
  | .zeroWindowProbe h => Sys2Proof.Machine.execZeroWindowProbe h s
  | .persistLimit h => Sys2Proof.Machine.execPersistLimit h s
  | .stallBoundExpiry h => Sys2Proof.Machine.execStallBoundExpiry h s
  | .portFail p cause => Sys2Proof.Machine.execPortFail p cause s
  | .txqTransmit desc => Sys2Proof.Machine.execTxqTransmit desc s
  | .admission m => Sys2Proof.Machine.execAdmission m s
  | .xltParse lane => Sys2Proof.Machine.execXltParse lane s
  | .xltEchoScan lane => Sys2Proof.Machine.execXltEchoScan lane s
  | .technicalDecline lane => Sys2Proof.Machine.execTechnicalDecline lane s
  | .xltSerialise lane => Sys2Proof.Machine.execXltSerialise lane s
  | .xltEnableWrite v => Sys2Proof.Machine.execXltEnableWrite v s
  | .bind t => Sys2Proof.Machine.execBind t s
  | .callerStop c => Sys2Proof.Machine.execCallerStop c s
  | .timerExpiry c b => Sys2Proof.Machine.execTimerExpiry c b s
  | .deadlineAlarm an => Sys2Proof.Machine.execDeadlineAlarm an s
  | .budgetExceeded c b => Sys2Proof.Machine.execBudgetExceeded c b s
  | .boundaryResponse c b k => Sys2Proof.Machine.execBoundaryResponse c b k s
  | .machineCheck c b => Sys2Proof.Machine.execMachineCheck c b s
  | .bank15Timeout c => Sys2Proof.Machine.execBank15Timeout c s
  | .instructionFetch c => Sys2Proof.Machine.execInstructionFetch c s
  | .storeDrain c => Sys2Proof.Machine.execStoreDrain c s
  | .asyncMchk c => Sys2Proof.Machine.execAsyncMchk c s
  | .accessTimeout c addr => Sys2Proof.Machine.execAccessTimeout c addr s
  | .add c d a b => Sys2Proof.Machine.execAdd c d a b s
  | .sub c d a b => Sys2Proof.Machine.execSub c d a b s
  | .and c d a b => Sys2Proof.Machine.execAnd c d a b s
  | .or c d a b => Sys2Proof.Machine.execOr c d a b s
  | .xor c d a b => Sys2Proof.Machine.execXor c d a b s
  | .andn c d a b => Sys2Proof.Machine.execAndn c d a b s
  | .sll c d a b => Sys2Proof.Machine.execSll c d a b s
  | .srl c d a b => Sys2Proof.Machine.execSrl c d a b s
  | .sra c d a b => Sys2Proof.Machine.execSra c d a b s
  | .slli c d a sh => Sys2Proof.Machine.execSlli c d a sh s
  | .srli c d a sh => Sys2Proof.Machine.execSrli c d a sh s
  | .srai c d a sh => Sys2Proof.Machine.execSrai c d a sh s
  | .adds c d a b => Sys2Proof.Machine.execAdds c d a b s
  | .addc c d a b => Sys2Proof.Machine.execAddc c d a b s
  | .subs c d a b => Sys2Proof.Machine.execSubs c d a b s
  | .subb c d a b => Sys2Proof.Machine.execSubb c d a b s
  | .cmp c a b => Sys2Proof.Machine.execCmp c a b s
  | .cmpu c a b => Sys2Proof.Machine.execCmpu c a b s
  | .sextb c d a => Sys2Proof.Machine.execSextb c d a s
  | .sexth c d a => Sys2Proof.Machine.execSexth c d a s
  | .sextw c d a => Sys2Proof.Machine.execSextw c d a s
  | .mul c d a b => Sys2Proof.Machine.execMul c d a b s
  | .mulwu c d a b => Sys2Proof.Machine.execMulwu c d a b s
  | .mulws c d a b => Sys2Proof.Machine.execMulws c d a b s
  | .divu c d a b => Sys2Proof.Machine.execDivu c d a b s
  | .divs c d a b => Sys2Proof.Machine.execDivs c d a b s
  | .remu c d a b => Sys2Proof.Machine.execRemu c d a b s
  | .rems c d a b => Sys2Proof.Machine.execRems c d a b s
  | .divwu c d a b => Sys2Proof.Machine.execDivwu c d a b s
  | .fadd c dbl d a b => Sys2Proof.Machine.execFadd c dbl d a b s
  | .fsub c dbl d a b => Sys2Proof.Machine.execFsub c dbl d a b s
  | .fmul c dbl d a b => Sys2Proof.Machine.execFmul c dbl d a b s
  | .fdiv c dbl d a b => Sys2Proof.Machine.execFdiv c dbl d a b s
  | .fma c dbl d a b cc => Sys2Proof.Machine.execFma c dbl d a b cc s
  | .fsqrt c dbl d a => Sys2Proof.Machine.execFsqrt c dbl d a s
  | .fcvt c dbl d a => Sys2Proof.Machine.execFcvt c dbl d a s
  | .fcvti c dbl d a => Sys2Proof.Machine.execFcvti c dbl d a s
  | .fcvtiz c dbl d a => Sys2Proof.Machine.execFcvtiz c dbl d a s
  | .fcvtf c dbl d a => Sys2Proof.Machine.execFcvtf c dbl d a s
  | .fcmpq c dbl a b => Sys2Proof.Machine.execFcmpq c dbl a b s
  | .fcmps c dbl a b => Sys2Proof.Machine.execFcmps c dbl a b s
  | .fmvfg c dbl d a => Sys2Proof.Machine.execFmvfg c dbl d a s
  | .fmvgf c dbl d a => Sys2Proof.Machine.execFmvgf c dbl d a s
  | .fneg c dbl d a => Sys2Proof.Machine.execFneg c dbl d a s
  | .fabs c dbl d a => Sys2Proof.Machine.execFabs c dbl d a s
  | .addi c d a imm => Sys2Proof.Machine.execAddi c d a imm s
  | .andi c d a imm => Sys2Proof.Machine.execAndi c d a imm s
  | .ori c d a imm => Sys2Proof.Machine.execOri c d a imm s
  | .xori c d a imm => Sys2Proof.Machine.execXori c d a imm s
  | .lui c d imm => Sys2Proof.Machine.execLui c d imm s
  | .cmpi c a imm => Sys2Proof.Machine.execCmpi c a imm s
  | .cmpui c a imm => Sys2Proof.Machine.execCmpui c a imm s
  | .ldb c d a imm => Sys2Proof.Machine.execLdb c d a imm s
  | .ldh c d a imm => Sys2Proof.Machine.execLdh c d a imm s
  | .ldw c d a imm => Sys2Proof.Machine.execLdw c d a imm s
  | .ldd c d a imm => Sys2Proof.Machine.execLdd c d a imm s
  | .ldbs c d a imm => Sys2Proof.Machine.execLdbs c d a imm s
  | .ldhs c d a imm => Sys2Proof.Machine.execLdhs c d a imm s
  | .ldws c d a imm => Sys2Proof.Machine.execLdws c d a imm s
  | .pref c wr a imm => Sys2Proof.Machine.execPref c wr a imm s
  | .stb c d a imm => Sys2Proof.Machine.execStb c d a imm s
  | .sth c d a imm => Sys2Proof.Machine.execSth c d a imm s
  | .stw c d a imm => Sys2Proof.Machine.execStw c d a imm s
  | .std c d a imm => Sys2Proof.Machine.execStd c d a imm s
  | .fldd c d a imm => Sys2Proof.Machine.execFldd c d a imm s
  | .fstd c d a imm => Sys2Proof.Machine.execFstd c d a imm s
  | .flds c d a imm => Sys2Proof.Machine.execFlds c d a imm s
  | .fsts c d a imm => Sys2Proof.Machine.execFsts c d a imm s
  | .bc c mask disp => Sys2Proof.Machine.execBc c mask disp s
  | .jal c d disp => Sys2Proof.Machine.execJal c d disp s
  | .jalr c d a imm => Sys2Proof.Machine.execJalr c d a imm s
  | .stm c a b x stop => Sys2Proof.Machine.execStm c a b x stop s
  | .ldm c a b x stop => Sys2Proof.Machine.execLdm c a b x stop s
  | .svlk c b m imm stop => Sys2Proof.Machine.execSvlk c b m imm stop s
  | .rslk c b m stop => Sys2Proof.Machine.execRslk c b m stop s
  | .smov c d xs n stop => Sys2Proof.Machine.execSmov c d xs n stop s
  | .smovx c d xs n stop => Sys2Proof.Machine.execSmovx c d xs n stop s
  | .sfill c d b n stop => Sys2Proof.Machine.execSfill c d b n stop s
  | .scmp c a b n stop => Sys2Proof.Machine.execScmp c a b n stop s
  | .str c d xs n t stop => Sys2Proof.Machine.execStr c d xs n t stop s
  | .sscan c a n t f stop => Sys2Proof.Machine.execSscan c a n t f stop s
  | .scvu c d xs n t stop => Sys2Proof.Machine.execScvu c d xs n t stop s
  | .scvs c d xs n t stop => Sys2Proof.Machine.execScvs c d xs n t stop s
  | .edit c d p xs stop => Sys2Proof.Machine.execEdit c d p xs stop s
  | .scall c => Sys2Proof.Machine.execScall c s
  | .breakpoint c => Sys2Proof.Machine.execBreakpoint c s
  | .fenceSl c => Sys2Proof.Machine.execFenceSl c s
  | .fenceDev c => Sys2Proof.Machine.execFenceDev c s
  | .fenceAll c => Sys2Proof.Machine.execFenceAll c s
  | .csync c => Sys2Proof.Machine.execCsync c s
  | .isync c => Sys2Proof.Machine.execIsync c s
  | .ctlr c d ctl => Sys2Proof.Machine.execCtlr c d ctl s
  | .ctlw c ctl a => Sys2Proof.Machine.execCtlw c ctl a s
  | .tret c => Sys2Proof.Machine.execTret c s
  | .quar c => Sys2Proof.Machine.execQuar c s
  | .msync c => Sys2Proof.Machine.execMsync c s
  | .tlbsync c => Sys2Proof.Machine.execTlbsync c s
  | .tlbins c a b => Sys2Proof.Machine.execTlbins c a b s
  | .tlbset c d a b => Sys2Proof.Machine.execTlbset c d a b s
  | .tlbrd c d a => Sys2Proof.Machine.execTlbrd c d a s
  | .tlbfind c d a => Sys2Proof.Machine.execTlbfind c d a s
  | .tlbiv c a bcast => Sys2Proof.Machine.execTlbiv c a bcast s
  | .tlbia c a bcast => Sys2Proof.Machine.execTlbia c a bcast s
  | .fkset c a b => Sys2Proof.Machine.execFkset c a b s
  | .fkget c d a => Sys2Proof.Machine.execFkget c d a s
  | .ldl c r k n => Sys2Proof.Machine.execLdl c r k n s
  | .ldlu c r k n => Sys2Proof.Machine.execLdlu c r k n s
  | .stl c r k n => Sys2Proof.Machine.execStl c r k n s
  | .del c k n => Sys2Proof.Machine.execDel c k n s
  | .commit c => Sys2Proof.Machine.execCommit c s
  | .abort c a => Sys2Proof.Machine.execAbort c a s
  | .crypt c a => Sys2Proof.Machine.execCrypt c a s
  | .waitt c a => Sys2Proof.Machine.execWaitt c a s
  | .dadd c a b => Sys2Proof.Machine.execDadd c a b s
  | .dsub c a b => Sys2Proof.Machine.execDsub c a b s
  | .dmul c a b => Sys2Proof.Machine.execDmul c a b s
  | .ddiv c a b => Sys2Proof.Machine.execDdiv c a b s
  | .dmod c a b => Sys2Proof.Machine.execDmod c a b s
  | .dcpy c a b => Sys2Proof.Machine.execDcpy c a b s
  | .dcmp c a b => Sys2Proof.Machine.execDcmp c a b s
  | .dshf c a b n => Sys2Proof.Machine.execDshf c a b n s
  | .dtst c a => Sys2Proof.Machine.execDtst c a s
  | .packz c a z => Sys2Proof.Machine.execPackz c a z s
  | .unpkz c z a => Sys2Proof.Machine.execUnpkz c z a s
  | .cvpb c d b => Sys2Proof.Machine.execCvpb c d b s
  | .cvbp c a g => Sys2Proof.Machine.execCvbp c a g s
  | .dlda c n b => Sys2Proof.Machine.execDlda c n b s
  | .dsta c a n => Sys2Proof.Machine.execDsta c a n s
  | .dada c n b => Sys2Proof.Machine.execDada c n b s
  | .dsba c n b => Sys2Proof.Machine.execDsba c n b s
  | .dmla c n b => Sys2Proof.Machine.execDmla c n b s
  | .dcpa c n b => Sys2Proof.Machine.execDcpa c n b s
  | .dadr c n m => Sys2Proof.Machine.execDadr c n m s
  | .microcodeWatchdog c => Sys2Proof.Machine.execMicrocodeWatchdog c s
  | .waitBoundExpiry c code addr => Sys2Proof.Machine.execWaitBoundExpiry c code addr s
  | .controlStoreScrub c word e => Sys2Proof.Machine.execControlStoreScrub c word e s
  | .ledgerResponse c b => Sys2Proof.Machine.execLedgerResponse c b s
  | .wound c b => Sys2Proof.Machine.execWound c b s
  | .runEndRelease an => Sys2Proof.Machine.execRunEndRelease an s
  | .jsnAssignment an => Sys2Proof.Machine.execJsnAssignment an s
  | .hbmScrub line e => Sys2Proof.Machine.execHbmScrub line e s
  | .recordComplete => Sys2Proof.Machine.execRecordComplete s
  | .mirrorGroupSend => Sys2Proof.Machine.execMirrorGroupSend s
  | .mirrorAck m => Sys2Proof.Machine.execMirrorAck m s
  | .mirrorTargetTimeout => Sys2Proof.Machine.execMirrorTargetTimeout s
  | .epochSeam => Sys2Proof.Machine.execEpochSeam s
  | .epochClose => Sys2Proof.Machine.execEpochClose s
  | .stragglerTimeout => Sys2Proof.Machine.execStragglerTimeout s
  | .sealComplete => Sys2Proof.Machine.execSealComplete s
  | .sealRetry => Sys2Proof.Machine.execSealRetry s
  | .exportPost => Sys2Proof.Machine.execExportPost s
  | .gsealWaitExpiry => Sys2Proof.Machine.execGsealWaitExpiry s
  | .gseal h bytes => Sys2Proof.Machine.execGseal h bytes s
  | .sealMessage h gepoch bytes => Sys2Proof.Machine.execSealMessage h gepoch bytes s
  | .linkResend p ack => Sys2Proof.Machine.execLinkResend p ack s
  | .kportFail p cause => Sys2Proof.Machine.execKportFail p cause s
  | .linkstate h node bond recovered => Sys2Proof.Machine.execLinkstate h node bond recovered s
  | .heartbeatSend => Sys2Proof.Machine.execHeartbeatSend s
  | .heartbeat h lgen route sent => Sys2Proof.Machine.execHeartbeat h lgen route sent s
  | .leadLossTimeout => Sys2Proof.Machine.execLeadLossTimeout s
  | .takeover h lgen lead => Sys2Proof.Machine.execTakeover h lgen lead s
  | .tickSend => Sys2Proof.Machine.execTickSend s
  | .tick h seam gepoch smapGen lgen => Sys2Proof.Machine.execTick h seam gepoch smapGen lgen s
  | .tickMiss => Sys2Proof.Machine.execTickMiss s
  | .timeExchange => Sys2Proof.Machine.execTimeExchange s
  | .timeRequest h t1 => Sys2Proof.Machine.execTimeRequest h t1 s
  | .timeAnswer h t1 t2 t3 => Sys2Proof.Machine.execTimeAnswer h t1 t2 t3 s
  | .map h gen first entries => Sys2Proof.Machine.execMap h gen first entries s
  | .applied h ref partJsn => Sys2Proof.Machine.execApplied h ref partJsn s
  | .lop h op bench keyhash key data => Sys2Proof.Machine.execLop h op bench keyhash key data s
  | .lopRsp h cc record => Sys2Proof.Machine.execLopRsp h cc record s
  | .prepare h nrsv => Sys2Proof.Machine.execPrepare h nrsv s
  | .prepRsp h result => Sys2Proof.Machine.execPrepRsp h result s
  | .apply h coordJsn => Sys2Proof.Machine.execApply h coordJsn s
  | .applyResend an node => Sys2Proof.Machine.execApplyResend an node s
  | .woundMessage h reqAn reqDeadline => Sys2Proof.Machine.execWoundMessage h reqAn reqDeadline s
  | .woundResend an => Sys2Proof.Machine.execWoundResend an s
  | .kolRelease h => Sys2Proof.Machine.execKolRelease h s
  | .reservationLeaseExpiry an run => Sys2Proof.Machine.execReservationLeaseExpiry an run s
  | .holdExpiry an run => Sys2Proof.Machine.execHoldExpiry an run s
  | .kolTimeout req => Sys2Proof.Machine.execKolTimeout req s
  | .wread h offset size => Sys2Proof.Machine.execWread h offset size s
  | .wwrite h offset size data => Sys2Proof.Machine.execWwrite h offset size data s
  | .winRsp h status data => Sys2Proof.Machine.execWinRsp h status data s
  | .mirror h firstJsn goff data => Sys2Proof.Machine.execMirror h firstJsn goff data s
  | .kolEnableWrite v => Sys2Proof.Machine.execKolEnableWrite v s
  | .doorbellSnoop r => Sys2Proof.Machine.execDoorbellSnoop r s
  | .doorbellPoll => Sys2Proof.Machine.execDoorbellPoll s
  | .doorbellRead r => Sys2Proof.Machine.execDoorbellRead r s
  | .submissionFetch sq => Sys2Proof.Machine.execSubmissionFetch sq s
  | .completionPost r => Sys2Proof.Machine.execCompletionPost r s
  | .excPost => Sys2Proof.Machine.execExcPost s
  | .ringEnable r => Sys2Proof.Machine.execRingEnable r s
  | .ringIrqTimer r => Sys2Proof.Machine.execRingIrqTimer r s
  | .drainTimeout r => Sys2Proof.Machine.execDrainTimeout r s
  | .hostAccessTimeout r f => Sys2Proof.Machine.execHostAccessTimeout r f s
  | .pcieLinkUp cxl speed width => Sys2Proof.Machine.execPcieLinkUp cxl speed width s
  | .pciePerst => Sys2Proof.Machine.execPciePerst s
  | .handover a => Sys2Proof.Machine.execHandover a s
  | .close a => Sys2Proof.Machine.execClose a s
  | .rekey a => Sys2Proof.Machine.execRekey a s
  | .portMove a => Sys2Proof.Machine.execPortMove a s
  | .descriptorUpdate a => Sys2Proof.Machine.execDescriptorUpdate a s
  | .dialectLoad a => Sys2Proof.Machine.execDialectLoad a s
  | .benchConfigure a => Sys2Proof.Machine.execBenchConfigure a s
  | .bulkLoad a => Sys2Proof.Machine.execBulkLoad a s
  | .cancel a => Sys2Proof.Machine.execCancel a s
  | .keyLoad a => Sys2Proof.Machine.execKeyLoad a s
  | .keyExport a => Sys2Proof.Machine.execKeyExport a s
  | .keyDelete a => Sys2Proof.Machine.execKeyDelete a s
  | .keyInfo a => Sys2Proof.Machine.execKeyInfo a s
  | .keySave a => Sys2Proof.Machine.execKeySave a s
  | .keyRestore a => Sys2Proof.Machine.execKeyRestore a s
  | .zeroise a => Sys2Proof.Machine.execZeroise a s
  | .journalTail a => Sys2Proof.Machine.execJournalTail a s
  | .mapUpdate a => Sys2Proof.Machine.execMapUpdate a s
  | .sliceTransfer a => Sys2Proof.Machine.execSliceTransfer a s
  | .orphanResolve a => Sys2Proof.Machine.execOrphanResolve a s
  | .cryptoJobStart k e => Sys2Proof.Machine.execCryptoJobStart k e s
  | .completionLatch job => Sys2Proof.Machine.execCompletionLatch job s
  | .cryptoCompletion c b => Sys2Proof.Machine.execCryptoCompletion c b s
  | .jobAbort job => Sys2Proof.Machine.execJobAbort job s
  | .tamperInput xi => Sys2Proof.Machine.execTamperInput xi s
  | .zeroisationDone => Sys2Proof.Machine.execZeroisationDone s
  | .trafficSpaceWipe => Sys2Proof.Machine.execTrafficSpaceWipe s
  | .mpuCommitGo => Sys2Proof.Machine.execMpuCommitGo s
  | .mpuActivation => Sys2Proof.Machine.execMpuActivation s
  | .mpuSkeyWrite v => Sys2Proof.Machine.execMpuSkeyWrite v s
  | .storageKeyAcked => Sys2Proof.Machine.execStorageKeyAcked s
  | .clockScaleEval xi => Sys2Proof.Machine.execClockScaleEval xi s
  | .clockHoldExpiry xi => Sys2Proof.Machine.execClockHoldExpiry xi s
  | .operatingPointDone xi => Sys2Proof.Machine.execOperatingPointDone xi s
  | .islandRun xi => Sys2Proof.Machine.execIslandRun xi s
  | .islandHold xi => Sys2Proof.Machine.execIslandHold xi s
  | .islandOff xi => Sys2Proof.Machine.execIslandOff xi s
  | .islandReset xi => Sys2Proof.Machine.execIslandReset xi s
  | .islandQuiesced xi => Sys2Proof.Machine.execIslandQuiesced xi s
  | .islandReturn xi => Sys2Proof.Machine.execIslandReturn xi s
  | .sensorSample k reading => Sys2Proof.Machine.execSensorSample k reading s
  | .thermalModelPeriod => Sys2Proof.Machine.execThermalModelPeriod s
  | .thermalTrip => Sys2Proof.Machine.execThermalTrip s
  | .avsUpdate measured => Sys2Proof.Machine.execAvsUpdate measured s
  | .avsFault measured => Sys2Proof.Machine.execAvsFault measured s
  | .railLoss rail => Sys2Proof.Machine.execRailLoss rail s
  | .refclkLoss k => Sys2Proof.Machine.execRefclkLoss k s
  | .refclkRestore k => Sys2Proof.Machine.execRefclkRestore k s
  | .coreFaultStop c => Sys2Proof.Machine.execCoreFaultStop c s
  | .engineFault k e => Sys2Proof.Machine.execEngineFault k e s
  | .tileLoss t => Sys2Proof.Machine.execTileLoss t s
  | .xltLaneFault lane => Sys2Proof.Machine.execXltLaneFault lane s
  | .jnlLaneFault jsn => Sys2Proof.Machine.execJnlLaneFault jsn s
  | .hbmStackFail k => Sys2Proof.Machine.execHbmStackFail k s
  | .hbmDataLoss line => Sys2Proof.Machine.execHbmDataLoss line s
  | .fabricFault link failed caught => Sys2Proof.Machine.execFabricFault link failed caught s
  | .pairedMismatch xi => Sys2Proof.Machine.execPairedMismatch xi s
  | .keyStoreFault slot => Sys2Proof.Machine.execKeyStoreFault slot s
  | .selfTestDone u pass => Sys2Proof.Machine.execSelfTestDone u pass s
  | .faultHoldExpiry => Sys2Proof.Machine.execFaultHoldExpiry s
  | .coldReset k => Sys2Proof.Machine.execColdReset k s
  | .warmReset => Sys2Proof.Machine.execWarmReset s
  | .bootResetWarm confirm => Sys2Proof.Machine.execBootResetWarm confirm s
  | .bootResetCold confirm => Sys2Proof.Machine.execBootResetCold confirm s
  | .powerGood => Sys2Proof.Machine.execPowerGood s
  | .imageSelect => Sys2Proof.Machine.execImageSelect s
  | .microcodeLoad bad => Sys2Proof.Machine.execMicrocodeLoad bad s
  | .standinOpen => Sys2Proof.Machine.execStandinOpen s
  | .hbmInitDone => Sys2Proof.Machine.execHbmInitDone s
  | .bringupReady => Sys2Proof.Machine.execBringupReady s
  | .bootLoad => Sys2Proof.Machine.execBootLoad s
  | .bootRelease => Sys2Proof.Machine.execBootRelease s
  | .standinTilesJoin => Sys2Proof.Machine.execStandinTilesJoin s
  | .svnCommit => Sys2Proof.Machine.execSvnCommit s
  | .fuseProgram bit => Sys2Proof.Machine.execFuseProgram bit s
  | .standinDecide an => Sys2Proof.Machine.execStandinDecide an s
  | .timeStep delta => Sys2Proof.Machine.execTimeStep delta s
  | .timeRateWrite adj => Sys2Proof.Machine.execTimeRateWrite adj s
  | .ppsEdge rising => Sys2Proof.Machine.execPpsEdge rising s
  | .ppsOutRise => Sys2Proof.Machine.execPpsOutRise s
  | .ppsOutFall => Sys2Proof.Machine.execPpsOutFall s
  | .debugNewchal => Sys2Proof.Machine.execDebugNewchal s
  | .debugGo addr keyidx => Sys2Proof.Machine.execDebugGo addr keyidx s
  | .sysEvtClear bits => Sys2Proof.Machine.execSysEvtClear bits s
  | .sysEvtEnWrite v => Sys2Proof.Machine.execSysEvtEnWrite v s
  | .latchedHalfRead who off => Sys2Proof.Machine.execLatchedHalfRead who off s
  | .bar0UnmappedAccess write off size => Sys2Proof.Machine.execBar0UnmappedAccess write off size s
  | .bar0Abort write off size => Sys2Proof.Machine.execBar0Abort write off size s
  | .smbusBlockWrite ptr => Sys2Proof.Machine.execSmbusBlockWrite ptr s
  | .smbusBlockRead => Sys2Proof.Machine.execSmbusBlockRead s
  | .registerWrite who off size v => Sys2Proof.Machine.execRegisterWrite who off size v s
  | .portLinkUp p => Sys2Proof.Machine.execPortLinkUp p s
  | .bondRecover p => Sys2Proof.Machine.execBondRecover p s
  | .pcieLinkDown => Sys2Proof.Machine.execPcieLinkDown s
  | .fuseWriteDone => Sys2Proof.Machine.execFuseWriteDone s
  | .warmResetNRise => Sys2Proof.Machine.execWarmResetNRise s
  | .tamperInputHigh xi => Sys2Proof.Machine.execTamperInputHigh xi s
  | .adminUnknownOp opc a => Sys2Proof.Machine.execAdminUnknownOp opc a s
  | .illegalInstruction c w0 w1 => Sys2Proof.Machine.execIllegalInstruction c w0 w1 s

end Sys2Proof.Machine
end

