-- ==== Sys2Proof/Machine/Time.lean ====
section
/-! DEFINITION. Time: what the block does on its own when no command waits (log 2). -/

namespace Sys2Proof.Machine

/-- The cycles of one nanosecond, in thousandths, charged to the context whose bank is current, and to its stay in bank 15
(R93, R101). -/
def Core.charge (k : Core) (mcycles : Nat) : Core :=
  let add (b : BankId) (k : Core) : Core :=
    k.modBank b fun v => { v with ctx := v.ctx.map fun x => { x with mcycles := x.mcycles + mcycles } }
  match k.cur, k.b15 with
  | some b, some y =>
    if b = bank15 then add y.bank { k with b15 := some { y with mcycles := y.mcycles + mcycles } } else add b k
  | some b, none => add b k
  | none, _ => k

/-- One nanosecond of a core: its cycles are charged at its tile's clock, the data side lets the L1 port go, and host memory
acknowledges the posted stores that it has received (R93, R107, R131; log 2). -/
def Core.pass (k : Core) (mhz : Nat) : Core :=
  { k.charge mhz with port := false, posted := k.posted.filter fun p => p.req.isSome }

/-- Clock of the tile of a core in MHz, zero while it does not run (R93, R384, R389). -/
def coreMhz (s : State) (c : CoreId) : Nat :=
  if tileRuns s (tileOf c) then s.getF (Fld.PWR_ISL_STATUS_CLK_MHZ (tileOf c).val) else 0

/-- A core for which a nanosecond changes nothing. -/
def Core.quiet (k : Core) : Bool := k.cur.isNone && !k.port && k.posted.isEmpty

/-- One nanosecond of the cores. -/
def passCores (s : State) : State :=
  settleSyncs (allCores.foldl (fun s c =>
    if (s.core c).quiet then s else s.modCore c fun k => k.pass (coreMhz s c)) s)

/-- The tick: one nanosecond of the time source passes (R431), for the cores too, and what waits inside the block and can go
on does so: admin commands (R350) and a release whose stand-in work has ended (R375). -/
def tick (s : State) : State := releaseProgress (admProgress (passCores (nextNs s)))

end Sys2Proof.Machine
end

