-- ==== Sys2Proof/Machine/Step.lean ====
section
/-! DEFINITION. The step: the command at the front of the queue is taken and run; on an empty queue time passes. -/

namespace Sys2Proof.Machine

/-- Takes the command at the front of the queue and runs it with the rest of the queue; with an empty queue the block
lets one nanosecond pass (log 2). -/
def step (s : State) : Host.Outcome State Fault Refusal :=
  match s.pending with
  | [] => .next (tick s)
  | i :: rest => exec i { s with pending := rest }

/-- The state with the command that a word spells in front of its queue: the table spells none, so the state. -/
def State.withFetchWord (s : State) (nbits w : Nat) : State :=
  match decodeTableWord nbits w with
  | some i => { s with pending := i :: s.pending }
  | none => s

end Sys2Proof.Machine
end

