-- ==== Sys2Proof/WellFormed.lean ====
section
/-! DEFINITION. Well-formed commands: operands within the ranges that the specification gives them. An instruction that
breaks the register rules of R161, R174, R185 or R194 is encodable and raises ILLEGAL (R180); the other checks state what
an event or a request can carry at all. The meanings are total and do not rest on these checks. -/

namespace Sys2Proof

/-- A size of a register or memory access in bytes. -/
def wfSize (n : Nat) : Bool := n == 1 || n == 2 || n == 4 || n == 8

/-- An access to the setup registers: within 16 MiB, aligned to its size (R423). -/
def wfBar0 (off size : Nat) : Bool := wfSize size && off % size == 0 && decide (off + size ≤ 2 ^ 24)

/-- The header of a Kolat message (R308, R297): fields within their widths, at least one flit. -/
def KHdr.wf (h : KHdr) : Bool :=
  decide (h.src < 1024) && decide (h.dest < 1024) && decide (h.seq < 4096) && decide (h.key < 16) && decide (0 < h.flits) &&
    decide (h.an < 2 ^ 64) && decide (h.deadline < 2 ^ 64) && decide (h.tag < 2 ^ 32)

/-- The fields of an admin command (R350) within their widths. -/
def AdminCmd.wf (a : AdminCmd) : Bool :=
  decide (a.cid < 2 ^ 32) && decide (a.addr < 2 ^ 64) && decide (a.len < 2 ^ 32) && decide (a.p0 < 2 ^ 32) &&
    decide (a.p1 < 2 ^ 64) && decide (a.p2 < 2 ^ 64)

/-- The register rule of a string instruction with a length register (R161). -/
def wfDistinct : List Reg → Bool
  | [] => true
  | r :: t => t.all (fun q => q != r) && wfDistinct t

/-- Whether a command is well-formed. -/
def Instr.wf : Instr → Bool
  | .frameReceive _ f => decide (18 ≤ f.length)
  | .txqTransmit d => d.length == 64
  | .smov _ d s n _ => n != d && n != s
  | .smovx _ d s n _ => n != d && n != s
  | .sfill _ d b n _ => n != d && n != b
  | .scmp _ a b n _ => n != a && n != b
  | .str _ d s n t _ => n != d && n != s && t != d && t != s && n != t
  | .sscan _ a n t f _ => wfDistinct [a, n, t, f]
  | .scvu _ d s n t _ => n != d && n != s && t != d && t != s && n != t
  | .scvs _ d s n t _ => n != d && n != s && t != d && t != s && n != t
  | .edit _ d p s _ => d != p && d != s
  | .ctlr _ _ ctl => decide (ctl.val ≤ 0x0C)
  | .ctlw _ ctl _ => decide (ctl.val ≤ 0x0C)
  | .dadd _ a b => packedOp a && packedOp b
  | .dsub _ a b => packedOp a && packedOp b
  | .dmul _ a b => packedOp a && packedOp b
  | .ddiv _ a b => packedOp a && packedOp b
  | .dmod _ a b => packedOp a && packedOp b
  | .dcpy _ a b => packedOp a && packedOp b
  | .dcmp _ a b => packedOp a && packedOp b
  | .dshf _ a b n => packedOp a && packedOp b && n != 0x40#7
  | .dtst _ a => packedOp a
  | .packz _ a z => packedOp a && zonedOp z
  | .unpkz _ z a => zonedOp z && packedOp a
  | .cvpb _ _ b => packedOp b
  | .cvbp _ a _ => packedOp a
  | .dlda _ _ b => packedOp b
  | .dsta _ a _ => packedOp a
  | .dada _ _ b => packedOp b
  | .dsba _ _ b => packedOp b
  | .dmla _ _ b => packedOp b
  | .dcpa _ _ b => packedOp b
  | .controlStoreScrub _ w _ => decide (w < 16384)
  | .gseal h _ => h.wf
  | .sealMessage h _ _ => h.wf
  | .linkstate h n _ _ => h.wf && decide (n < 1024)
  | .heartbeat h _ _ _ => h.wf
  | .takeover h _ l => h.wf && decide (l < 1024)
  | .tick h _ _ _ _ => h.wf
  | .timeRequest h _ => h.wf
  | .timeAnswer h _ _ _ => h.wf
  | .map h _ f es => h.wf && decide (f + es.length ≤ 4096)
  | .applied h _ _ => h.wf
  | .lop h op b _ k _ => h.wf && decide (op < 4) && decide (b < 4096) && decide (k.length ≤ 64)
  | .lopRsp h _ _ => h.wf
  | .prepare h _ => h.wf
  | .prepRsp h _ => h.wf
  | .apply h _ => h.wf
  | .applyResend _ n => decide (n < 1024)
  | .woundMessage h _ _ => h.wf
  | .kolRelease h => h.wf
  | .wread h o n => h.wf && wfSize n && decide (o < 2 ^ 40)
  | .wwrite h o n _ => h.wf && wfSize n && decide (o < 2 ^ 40)
  | .winRsp h _ _ => h.wf
  | .mirror h _ _ d => h.wf && decide (d.length ≤ 65536)
  | .mirrorAck (.kolat h _ _) => h.wf
  | .handover a => a.wf
  | .close a => a.wf
  | .rekey a => a.wf
  | .portMove a => a.wf
  | .descriptorUpdate a => a.wf
  | .dialectLoad a => a.wf
  | .benchConfigure a => a.wf
  | .bulkLoad a => a.wf
  | .cancel a => a.wf
  | .keyLoad a => a.wf
  | .keyExport a => a.wf
  | .keyDelete a => a.wf
  | .keyInfo a => a.wf
  | .keySave a => a.wf
  | .keyRestore a => a.wf
  | .zeroise a => a.wf
  | .journalTail a => a.wf
  | .mapUpdate a => a.wf
  | .sliceTransfer a => a.wf
  | .orphanResolve a => a.wf
  | .adminUnknownOp _ a => a.wf
  | .registerWrite (.host) o n _ => wfBar0 o n && (n == 4 || n == 8)
  | .registerWrite (.core _) o n _ => wfBar0 o n
  | .bar0UnmappedAccess _ o n => wfBar0 o n
  | .bar0Abort _ o n => decide (0 < n) && decide (o < 2 ^ 24)
  | .debugGo a _ => a % 8 == 0 && decide (a < 2 ^ 48)
  | .illegalInstruction c w v => (porDecode c w v).isNone
  | _ => true

end Sys2Proof
end

