-- ==== Sys2Proof/Safety.lean ====
section
/-! DEFINITION. What counts as a sound state and a safe step, and what it is for a core to retire an instruction, in the
terms that the statements use. -/

namespace Sys2Proof

open Machine

/-- The maps of the state are in their canonical forms: memory, storage keys and setup registers. -/
def Canonical (s : State) : Prop :=
  Memory.wf s.mem ∧ Sparse.WF (fun _ => 0#5) s.skeys ∧ Sparse.WF RegMap.reset s.regs

/-- A step that neither faults nor refuses. -/
def Steps (s t : State) : Prop := step s = .next t

/-- Core `c` can execute an instruction of `len` bytes at its PC in bank `b`: the bank is current and its context runs,
no MPU activation drains, the fetch passes its checks with the parts `ps` (R87, R109, R125, R223, R225), and no read of a
remote window is still to be sent (R121; between commands none is). -/
def Ready (s : State) (c : CoreId) (b : BankId) (len : Nat) (ps : List (Phys × Nat)) : Prop :=
  readyBank s c = some b ∧ s.getF Fld.MPU_STATUS_DRAINING ≠ 1 ∧ fetchCheck s c b len = .ok ps ∧ (s.core c).need = none

/-- The state on which an instruction that is not interruptible acts once it is fetched: the TLB entries that the fetch
used are marked (R207) and PART and PROG are zero (R104). -/
def fetched (s : State) (c : CoreId) (b : BankId) (ps : List (Phys × Nat)) : State := clearPart (markParts s c ps) c b

/-- An instruction whose effect has given `v` has found all its bytes: none lies behind a remote window whose answer is still
to come (R121, R199). Then the instruction ends; otherwise it waits for the answer. -/
def AsksNone (v : State) (c : CoreId) : Prop := (v.core c).need = none

/-- The instruction of `len` bytes whose effect has given `v` ends in line: what remote windows have answered for it is
used up, a store of it over fetched code has been written and empties the queue (R118), and the PC moves past it. -/
def ended (v : State) (c : CoreId) (b : BankId) (len : Nat) : State := advancePc (settleCode (dropWin v c) c) c b len

/-- The instruction whose effect has given `v` ends and branches to `t`. -/
def jumped (v : State) (c : CoreId) (b : BankId) (t : Word) : State := jumpPc (settleCode (dropWin v c) c) c b t

/-- An instruction of `len` bytes retires with the effect `f`, and the PC moves past it. -/
def retired (s : State) (c : CoreId) (b : BankId) (len : Nat) (ps : List (Phys × Nat)) (f : State → State) : State :=
  ended (f (fetched s c b ps)) c b len

/-- An interruptible instruction (R103, R104) retires with the effect `f`; PART and PROG were kept for it. -/
def retiredI (s : State) (c : CoreId) (b : BankId) (ps : List (Phys × Nat)) (f : State → State) : State :=
  ended (f (markParts s c ps)) c b 4

/-- A message arrives for this node: its port is in service and its flits follow those received before (R300, R305). -/
def Arrives (s : State) (h : KHdr) : Prop :=
  s.getF (Fld.KOL_PORT_STATUS_LINK_UP h.port.val) ≠ 0 ∧ linkInOrder s h = true ∧ h.dest = s.node

/-- The host has written opcode `op` with the operands `a` as the next entry of AQ, nothing in the lanes moves on by itself, and
HIF's read of the entry is granted: `t` is the state once HIF has taken the entry (R350). -/
def AdminTaken (s : State) (op : Nat) (a : AdminCmd) (t : State) : Prop :=
  let w := hostPuts s ringAQ (admEntry op a)
  a.wf = true ∧ admProgress s = s ∧ ringHasEntry s ringAQ = true ∧
    islandRead w .hif (slotPa w ringAQ (w.ring ringAQ).cons) 64 = (some (admEntry op a), w) ∧ t = takeEntry w ringAQ

/-- A storage place of the general registers of a core: a bank, its lower half, window 0 or window 1, and an index
(R80). -/
abbrev RegCell := BankId × Fin 3 × Fin 16

/-- What a storage place holds. -/
def cellOf (k : Core) (x : RegCell) : Word :=
  match x.2.1 with
  | 0 => (k.bank x.1).lo[x.2.2]
  | 1 => (k.bank x.1).w0[x.2.2]
  | 2 => (k.bank x.1).w1[x.2.2]

/-- Window 0 or window 1 as the half of a storage place. -/
def winHalf (w1 : Bool) : Fin 3 := if w1 then 2 else 1

/-- The storage place that a register number names in bank `b`, by the bank's BWR and its window in use; none for a
register that reads as zero (R80, R81, R178): G0; G1 to G15, the bank's lower half; G16 to G31, the window in use, or what
CTL.BWR.VIEW selects. -/
def placeOf (bwr : Word) (window : Bool) (b : BankId) (r : Reg) : Option RegCell :=
  let vb : BankId := ⟨Bits.get bwr 16 4, Nat.mod_lt _ (by decide)⟩
  if r = 0 then none
  else if r.val < 16 then some (b, 0, halfIndex r)
  else if Bits.get bwr 8 2 = 1 then (if halfIndex r = 0 then none else some (vb, 0, halfIndex r))
  else if Bits.get bwr 8 2 = 2 then some (vb, winHalf (bwr.getLsbD 12), halfIndex r)
  else some (b, winHalf window, halfIndex r)

/-- The storage place that a register number names in a bank of a core. -/
def namedCell (k : Core) (b : BankId) (r : Reg) : Option RegCell := placeOf (k.bank b).bwr (k.bank b).window b r

/-- Everything but core `c` is the same. -/
def OnlyCore (s t : State) (c : CoreId) : Prop :=
  { t with cores := s.cores } = s ∧ ∀ d, d ≠ c → t.core d = s.core d

end Sys2Proof
end

