-- ==== Sys2Proof/Certificates/Slice0/Obligations.lean ====
section
/-! DEFINITION. The statements about the LN96 model, for the provers. Each docstring names the rules that the statement
rests on; a value or a reading that is the model's own names its log entry. -/

open Sys2Proof Sys2Proof.Machine

/-! ## The cores: integer instructions -/

/-- The integer instructions that write Gd a function of their operands (R148, R178, R188 to R190): the result, and
nothing else but the PC, the TLB's use bits and PART with PROG. -/
def Obligations.IntegerResults : Prop :=
  ∀ (s : State) (c : CoreId) (k : BankId) (ps : List (Phys × Nat)) (d a b : Reg) (sh : Fin 64) (imm : BitVec 16),
    Ready s c k 4 ps →
    let x := s.g c k a
    let y := s.g c k b
    let wr (v : Word) : Host.Outcome State Fault Refusal := .next (retired s c k 4 ps fun u => u.setG c k d v)
    exec (.add c d a b) s = wr (x + y) ∧ exec (.sub c d a b) s = wr (x - y) ∧
    exec (.and c d a b) s = wr (x &&& y) ∧ exec (.or c d a b) s = wr (x ||| y) ∧
    exec (.xor c d a b) s = wr (x ^^^ y) ∧ exec (.andn c d a b) s = wr (x &&& ~~~y) ∧
    exec (.sll c d a b) s = wr (x <<< (y.toNat % 64)) ∧ exec (.srl c d a b) s = wr (x >>> (y.toNat % 64)) ∧
    exec (.sra c d a b) s = wr (x.sshiftRight (y.toNat % 64)) ∧
    exec (.slli c d a sh) s = wr (x <<< sh.val) ∧ exec (.srli c d a sh) s = wr (x >>> sh.val) ∧
    exec (.srai c d a sh) s = wr (x.sshiftRight sh.val) ∧
    exec (.sextb c d a) s = wr ((x.setWidth 8).signExtend 64) ∧
    exec (.sexth c d a) s = wr ((x.setWidth 16).signExtend 64) ∧
    exec (.sextw c d a) s = wr ((x.setWidth 32).signExtend 64) ∧
    exec (.mul c d a b) s = wr (x * y) ∧
    exec (.addi c d a imm) s = wr (x + imm.signExtend 64) ∧ exec (.andi c d a imm) s = wr (x &&& imm.setWidth 64) ∧
    exec (.ori c d a imm) s = wr (x ||| imm.setWidth 64) ∧ exec (.xori c d a imm) s = wr (x ^^^ imm.setWidth 64) ∧
    exec (.lui c d imm) s = wr ((imm ++ 0#16).signExtend 64)

/-- The carry instructions (R147): the sum or the difference in Gd, the carry or borrow in CC[0] and the zero test in
CC[1], which ADDC and SUBB chain with the old CC[1]; and the comparisons, which write CC only (R188, R189). -/
def Obligations.CarryAndCompare : Prop :=
  ∀ (s : State) (c : CoreId) (k : BankId) (ps : List (Phys × Nat)) (d a b : Reg) (imm : BitVec 16), Ready s c k 4 ps →
    let x := s.g c k a
    let y := s.g c k b
    let cin := s.cc c k % 2
    let z := decide (s.cc c k / 2 % 2 = 1)
    let out (v : Word) (carry zero : Bool) : Host.Outcome State Fault Refusal :=
      .next (retired s c k 4 ps fun u => (u.setG c k d v).setCC c k (b2n carry + 2 * b2n zero))
    let cc (n : Nat) : Host.Outcome State Fault Refusal := .next (retired s c k 4 ps fun u => u.setCC c k n)
    let i : Word := imm.signExtend 64
    let n : Word := imm.setWidth 64
    exec (.adds c d a b) s = out (x + y) (decide (2 ^ 64 ≤ x.toNat + y.toNat)) (x + y == 0) ∧
    exec (.addc c d a b) s = out (x + y + BitVec.ofNat 64 cin) (decide (2 ^ 64 ≤ x.toNat + y.toNat + cin))
      (x + y + BitVec.ofNat 64 cin == 0 && z) ∧
    exec (.subs c d a b) s = out (x - y) (decide (x.toNat < y.toNat)) (x - y == 0) ∧
    exec (.subb c d a b) s = out (x - y - BitVec.ofNat 64 cin) (decide (x.toNat < y.toNat + cin))
      (x - y - BitVec.ofNat 64 cin == 0 && z) ∧
    exec (.cmp c a b) s = cc (if x = y then 0 else if x.toInt < y.toInt then 1 else 2) ∧
    exec (.cmpu c a b) s = cc (if x = y then 0 else if x.toNat < y.toNat then 1 else 2) ∧
    exec (.cmpi c a imm) s = cc (if x = i then 0 else if x.toInt < i.toInt then 1 else 2) ∧
    exec (.cmpui c a imm) s = cc (if x = n then 0 else if x.toNat < n.toNat then 1 else 2)

/-- Multiplication and division (R148 to R150): the halves of a product, quotients and remainders for a divisor other
than zero; a divisor of zero raises IDIV0, cause 0x23, and writes no register. -/
def Obligations.MultiplyDivide : Prop :=
  ∀ (s : State) (c : CoreId) (k : BankId) (ps : List (Phys × Nat)) (d a b : Reg), Ready s c k 4 ps →
    let x := s.g c k a
    let y := s.g c k b
    let d1 : Reg := ⟨(d.val + 1) % 32, Nat.mod_lt _ (by decide)⟩
    let a1 : Reg := ⟨(a.val + 1) % 32, Nat.mod_lt _ (by decide)⟩
    let pair (lo hi : Word) (u : State) : State := (u.setG c k d lo).setG c k d1 hi
    let wr (v : Word) : Host.Outcome State Fault Refusal := .next (retired s c k 4 ps fun u => u.setG c k d v)
    let wide : Nat := (s.g c k a1).toNat * 2 ^ 64 + x.toNat
    (exec (.mulwu c d a b) s = .next (retired s c k 4 ps (pair (BitVec.ofNat 64 (x.toNat * y.toNat))
      (BitVec.ofNat 64 (x.toNat * y.toNat / 2 ^ 64))))) ∧
    (exec (.mulws c d a b) s = .next (retired s c k 4 ps (pair (BitVec.ofInt 64 (x.toInt * y.toInt))
      (BitVec.ofInt 64 (x.toInt * y.toInt / 2 ^ 64))))) ∧
    (y ≠ 0 → exec (.divu c d a b) s = wr (BitVec.ofNat 64 (x.toNat / y.toNat)) ∧
      exec (.remu c d a b) s = wr (BitVec.ofNat 64 (x.toNat % y.toNat)) ∧
      exec (.divs c d a b) s = wr (BitVec.ofInt 64 (x.toInt.tdiv y.toInt)) ∧
      exec (.rems c d a b) s = wr (BitVec.ofInt 64 (x.toInt.tmod y.toInt)) ∧
      exec (.divwu c d a b) s = .next (retired s c k 4 ps fun u =>
        (pair (BitVec.ofNat 64 (wide / y.toNat)) (BitVec.ofNat 64 (wide % y.toNat)) u).setCC c k
          (if (s.g c k a1).toNat < y.toNat then 0 else 1))) ∧
    (y = 0 →
      let t : Host.Outcome State Fault Refusal := .next (takeTrap (fetched s c k ps) c k 0x23 0 (s.bank c k).pc)
      exec (.divu c d a b) s = t ∧ exec (.divs c d a b) s = t ∧ exec (.remu c d a b) s = t ∧
        exec (.rems c d a b) s = t ∧ exec (.divwu c d a b) s = t)

/-! ## The cores: registers and the frame of an instruction -/

/-- Reading back what was written (R80, R81, R178): a write of a general register changes the storage place that the
number names, through the window or the view, and no other; a number that names none reads as zero and discards the
write. The frame is that of one core and says that no other part of the state changes.
The frame of an instruction that retires (R104, R108, R207) while none of the fetched words has been overwritten (R118):
beside what its effect changes, the PC moves past it, the fetch words before it leave the prefetch queue, PART is zero, PROG
is zero where PART was set, and TLB entries keep their words; what remote windows had answered for it is used up; memory,
every register, every other bank and core, and every other part of the state are as before. -/
def Obligations.RegisterFrame : Prop :=
  (∀ (s : State) (c : CoreId) (b : BankId) (r : Reg) (v : Word),
     (s.g c b r = match namedCell (s.core c) b r with | none => 0 | some x => cellOf (s.core c) x) ∧
     (∀ x, cellOf ((s.setG c b r v).core c) x = if namedCell (s.core c) b r = some x then v else cellOf (s.core c) x) ∧
     (s.setG c b r v).g c b r = (if (namedCell (s.core c) b r).isSome then v else 0) ∧
     OnlyCore s (s.setG c b r v) c ∧
     (∀ b', let x := (s.setG c b r v).bank c b'
       { x with lo := (s.bank c b').lo, w0 := (s.bank c b').w0, w1 := (s.bank c b').w1 } = s.bank c b') ∧
     { (s.setG c b r v).core c with banks := (s.core c).banks } = s.core c) ∧
  (∀ (s : State) (c : CoreId) (b : BankId) (len : Nat) (ps : List (Phys × Nat)),
     (s.core c).smc = false →
     let t := retired s c b len ps fun u => u
     OnlyCore s t c ∧
     (t.bank c b).pc = (s.bank c b).pc + BitVec.ofNat 64 len ∧
     (t.bank c b).part = false ∧
     (∀ b', b' ≠ b → t.bank c b' = s.bank c b') ∧
     { t.bank c b with pc := (s.bank c b).pc, status := (s.bank c b).status } = s.bank c b ∧
     (∀ lo w, lo + w ≤ 47 → Bits.get (t.bank c b).status lo w = Bits.get (s.bank c b).status lo w) ∧
     (∀ i : Fin 128, (t.core c).tlb[i].w0 = (s.core c).tlb[i].w0 ∧ (t.core c).tlb[i].w1 = (s.core c).tlb[i].w1) ∧
     { t.core c with banks := (s.core c).banks, tlb := (s.core c).tlb, pq := (s.core c).pq, win := (s.core c).win } =
       s.core c)


/-! ## The cores: loads, stores, branches -/

/-- The ordinary loads (R115, R116, R188): an aligned access that passes its checks and is no device access gives the
register the bytes that the load reads, extended as the mnemonic says; LDB to LDD and the signed forms write Gd, FLDS and
FLDD write Fd. PREF obtains the line, with write permission for a prefetch for writing, and is dropped where a check of the
line fails (R230); it writes no register and no memory.
What a load of normal memory reads (R116, R122): the bytes that the core sees, its own queued stores, youngest first, before
memory; older overlapping stores that cannot forward are written first, and no store of another core changes.
A misaligned ordinary load or store raises MISALIGN, cause 0x10, with BADADDR the effective address, and neither
loads nor stores (R115). -/
def Obligations.LoadResults : Prop :=
  (∀ (s : State) (c : CoreId) (k : BankId) (ps : List (Phys × Nat)) (d a : Reg) (imm : BitVec 16), Ready s c k 4 ps →
     let u := fetched s c k ps
     let ea : Word := s.g c k a + imm.signExtend 64
     let ret (i : Instr) (f : State → State) : Prop := AsksNone (f u) c → exec i s = .next (retired s c k 4 ps f)
     let ld (size : Nat) (f : Nat → Word) (i : Instr) : Prop :=
       ∀ p, ea.toNat % size = 0 → checkPart u c k .read ea.toNat size = .ok p → p.dev = false →
         ret i fun u =>
           let r := loadNormal (markUse u c p.tlb) c p.pa size
           r.2.setG c k d (f (leNat r.1))
     let fl (size : Nat) (i : Instr) : Prop :=
       ∀ p, ea.toNat % size = 0 → checkPart (lazyF u c k) c k .read ea.toNat size = .ok p → p.dev = false →
         ret i fun u =>
           let r := loadNormal (markUse (lazyF u c k) c p.tlb) c p.pa size
           r.2.setFr c d (BitVec.ofNat 64 (leNat r.1))
     let z (v : Nat) : Word := BitVec.ofNat 64 v
     let sx (n : Nat) (v : Nat) : Word := (BitVec.ofNat n v).signExtend 64
     ld 1 z (.ldb c d a imm) ∧ ld 2 z (.ldh c d a imm) ∧ ld 4 z (.ldw c d a imm) ∧ ld 8 z (.ldd c d a imm) ∧
       ld 1 (sx 8) (.ldbs c d a imm) ∧ ld 2 (sx 16) (.ldhs c d a imm) ∧ ld 4 (sx 32) (.ldws c d a imm) ∧
       fl 4 (.flds c d a imm) ∧ fl 8 (.fldd c d a imm) ∧
       ∀ (wr : Bool) (line : Nat), line = ea.toNat / 64 * 64 →
         (∀ e, checkPart u c k (if wr then .write else .read) line 64 = .error e →
           exec (.pref c wr a imm) s = .next (retired s c k 4 ps id)) ∧
         (∀ p, checkPart u c k (if wr then .write else .read) line 64 = .ok p →
           (p.dev = true → exec (.pref c wr a imm) s = .next (retired s c k 4 ps id)) ∧
           (p.dev = false → exec (.pref c wr a imm) s =
             .next (retired s c k 4 ps fun u => l1Data (markUse u c p.tlb) c wr p.pa 64)) ∧
           (l1Data (markUse u c p.tlb) c wr p.pa 64).mem = s.mem ∧
           ∀ b, ((l1Data (markUse u c p.tlb) c wr p.pa 64).core c).readG k b = s.g c k b)) ∧
  (∀ (s : State) (c : CoreId) (pa n : Nat), 0 < n →
     (∀ e ∈ (s.core c).sq, e.dev = false ∧ (e.cells.map fun q => q.1).Nodup) →
     let r := loadNormal s c pa n
     r.1 = coreRead s c pa n ∧ (∀ x, coreByte r.2 c x = coreByte s c x) ∧ (∀ d, d ≠ c → r.2.core d = s.core d) ∧
       (r.2.core c).sq.length ≤ (s.core c).sq.length ∧ (r.2.core c).banks = (s.core c).banks ∧ r.2.regs = s.regs) ∧
  (∀ (s : State) (c : CoreId) (k : BankId) (ps : List (Phys × Nat)) (d a : Reg) (imm : BitVec 16), Ready s c k 4 ps →
     let ea : Word := s.g c k a + imm.signExtend 64
     let t : Host.Outcome State Fault Refusal := .next (takeTrap (fetched s c k ps) c k 0x10 ea (s.bank c k).pc)
     (ea.toNat % 2 ≠ 0 → exec (.ldh c d a imm) s = t ∧ exec (.ldhs c d a imm) s = t ∧ exec (.sth c d a imm) s = t) ∧
       (ea.toNat % 4 ≠ 0 → exec (.ldw c d a imm) s = t ∧ exec (.ldws c d a imm) s = t ∧ exec (.stw c d a imm) s = t) ∧
       (ea.toNat % 8 ≠ 0 → exec (.ldd c d a imm) s = t ∧ exec (.std c d a imm) s = t))

/-- The ordinary stores (R113, R115, R188): an aligned access that passes its checks puts the low bytes of its
register, least significant first, into the core's store queue at the checked address.
What a store leaves, its frame, and when it is visible (R113, R114, R116, R118): while the queue has room for its
pieces, no byte of memory changes; the storing core sees the stored bytes at their address and every other byte as before; no
register of a core changes. A drained store of ordinary memory leaves the head of the queue, its bytes are in memory and every
other byte is as before.
Where it rests on the model's reading, that is log 10. -/
def Obligations.StoreResults : Prop :=
  (∀ (s : State) (c : CoreId) (k : BankId) (ps : List (Phys × Nat)) (d a : Reg) (imm : BitVec 16), Ready s c k 4 ps →
     let u := fetched s c k ps
     let ea : Word := s.g c k a + imm.signExtend 64
     let ret (i : Instr) (f : State → State) : Prop := AsksNone (f u) c → exec i s = .next (retired s c k 4 ps f)
     let st (size : Nat) (i : Instr) : Prop :=
       ∀ p, ea.toNat % size = 0 → checkPart u c k .write ea.toNat size = .ok p →
         ret i fun u => storeParts u c k [(p, size)] (leBytes size (s.g c k d).toNat)
     let fs (size : Nat) (i : Instr) : Prop :=
       ∀ p, ea.toNat % size = 0 → checkPart (lazyF u c k) c k .write ea.toNat size = .ok p →
         ret i fun u => storeParts (lazyF u c k) c k [(p, size)] (leBytes size ((lazyF u c k).f c d).toNat)
     st 1 (.stb c d a imm) ∧ st 2 (.sth c d a imm) ∧ st 4 (.stw c d a imm) ∧ st 8 (.std c d a imm) ∧
       fs 4 (.fsts c d a imm) ∧ fs 8 (.fstd c d a imm)) ∧
  ((∀ (s : State) (c : CoreId) (k : BankId) (p : Phys) (bs : List Byte), p.dev = false → bs ≠ [] →
       (s.core c).sq.length + (unitsOf p.pa bs).length ≤ 32 →
       let t := storeParts s c k [(p, bs.length)] bs
       t.mem = s.mem ∧ coreRead t c p.pa bs.length = bs ∧
         (∀ x, x < p.pa ∨ p.pa + bs.length ≤ x → coreByte t c x = coreByte s c x) ∧
         (∀ d, d ≠ c → t.core d = s.core d) ∧ (t.core c).banks = (s.core c).banks ∧ (t.core c).f = (s.core c).f ∧
         (t.core c).da = (s.core c).da) ∧
   (∀ (s : State) (c : CoreId) (a : Nat) (bs : List Byte) (va : Nat) (o : Origin) (v : Via) (rest : List SqEntry),
       (s.core c).sq = { cells := cellsAt a bs, dev := false, va := va, org := o, via := v } :: rest →
       ∃ t, exec (.storeDrain c) s = .next t ∧ (t.core c).sq = rest ∧ t.rd a bs.length = bs ∧
         (∀ x, x < a ∨ a + bs.length ≤ x → memGet t.mem x = memGet s.mem x) ∧ t.regs = s.regs))

/-- Branches (R108, R181, R183, R188): BC is taken when bit CC of its mask is set; JAL and JALR
write the address of the next instruction to Gd, JALR after it has formed its target; a taken branch empties the prefetch
queue, and so does a branch that was predicted taken and is not. Each changes the predictor (log 63) and no other state. -/
def Obligations.BranchResults : Prop :=
  ∀ (s : State) (c : CoreId) (k : BankId) (ps : List (Phys × Nat)) (d a : Reg) (imm : BitVec 16) (mask : BitVec 4)
    (disp : BitVec 22) (disp1 : BitVec 21), Ready s c k 4 ps →
    let u := fetched s c k ps
    let pc := (s.bank c k).pc
    (mask.getLsbD (s.cc c k) = true →
      ∃ f, exec (.bc c mask disp) s = .next (jumped (u.modBp c f) c k (pc + disp.signExtend 64 <<< 2))) ∧
    (mask.getLsbD (s.cc c k) = false → ∃ f, exec (.bc c mask disp) s = .next (retired s c k 4 ps fun v =>
      (if (s.core c).bp.taken pc then v.modCore c fun m => { m with pq := [] } else v).modBp c f)) ∧
    (∃ f, exec (.jal c d disp1) s = .next (jumped ((u.setG c k d (pc + 4)).modBp c f) c k
      (pc + disp1.signExtend 64 <<< 2))) ∧
    ∃ f, exec (.jalr c d a imm) s = .next (jumped ((u.setG c k d (pc + 4)).modBp c f) c k
      (s.g c k a + imm.signExtend 64))

/-! ## The cores: floating point -/

/-- Floating-point arithmetic (R84, R152 to R156, R191): on the F set of the context, under FPCTL as it stands, an
operation that signals no enabled exception writes its rounded result and ORs its exceptions into FLAGS; FCVTI and FCVTIZ
write Gd, the comparisons write CC, the others Fd.
The moves between the register sets and the sign operations raise no flag (R191): FMVFG gives Gd the bits of the
format that SZ names, zero-extended, FMVGF the same the other way, FNEG inverts the sign bit of that format and FABS clears
it. -/
def Obligations.FloatResults : Prop :=
  (∀ (s : State) (c : CoreId) (k : BankId) (ps : List (Phys × Nat)) (z : Bool) (d a b e : Reg), Ready s c k 4 ps →
     let u := lazyF (fetched s c k ps) c k
     let ctl := (u.bank c k).fpctl
     let fm := FFmt.ofSz z
     let rm := fpRm ctl
     let ftz := fpFtz ctl
     let x := fVal u c z ctl a
     let y := fVal u c z ctl b
     let runs (i : Instr) (r : FRes) (put : State → State) : Prop :=
       r.signals (fpTe ctl) &&& fpTe ctl = 0 →
         exec i s = .next (retired s c k 4 ps fun v =>
           put ((lazyF v c k).modBank c k fun w => w.sticky .fpctl (BitVec.ofNat 64 (r.signals (fpTe ctl)))))
     let toF (r : FRes) (v : State) : State := v.setFr c d (BitVec.ofNat 64 r.bits)
     let toG (r : FRes) (v : State) : State := v.setG c k d (BitVec.ofNat 64 r.bits)
     let f (i : Instr) (r : FRes) : Prop := runs i r (toF r)
     let g (i : Instr) (r : FRes) : Prop := runs i r (toG r)
     f (.fadd c z d a b) (fm.add rm ftz x y) ∧ f (.fsub c z d a b) (fm.add rm ftz x y.neg) ∧
       f (.fmul c z d a b) (fm.mul rm ftz x y) ∧ f (.fdiv c z d a b) (fm.div rm ftz x y) ∧
       f (.fma c z d a b e) (fm.fma rm ftz x y (fVal u c z ctl e)) ∧ f (.fsqrt c z d a) (fm.sqrt rm ftz x) ∧
       f (.fcvt c z d a) (fm.convert (FFmt.ofSz !z) rm ftz x) ∧ g (.fcvti c z d a) (toInt64 fm rm x) ∧
       g (.fcvtiz c z d a) (toInt64 fm 1 x) ∧ f (.fcvtf c z d a) (fm.ofInt64 rm (s.g c k a).toInt) ∧
       runs (.fcmpq c z a b) { bits := x.compare y, nv := x.isSnan fm || y.isSnan fm } (fun v => v.setCC c k (x.compare y)) ∧
       runs (.fcmps c z a b) { bits := x.compare y, nv := x.isNan || y.isNan } (fun v => v.setCC c k (x.compare y))) ∧
  (∀ (s : State) (c : CoreId) (k : BankId) (ps : List (Phys × Nat)) (z : Bool) (d a : Reg), Ready s c k 4 ps →
     let u := lazyF (fetched s c k ps) c k
     let low (w : Word) : Word := if z then w else w &&& 0xFFFF_FFFF
     let sign : Word := if z then 0x8000_0000_0000_0000 else 0x8000_0000
     let runs (i : Instr) (put : State → State) : Prop := exec i s = .next (retired s c k 4 ps fun v => put (lazyF v c k))
     runs (.fmvfg c z d a) (fun v => v.setG c k d (low (u.f c a))) ∧
       runs (.fmvgf c z d a) (fun v => v.setFr c d (low (u.g c k a))) ∧
       runs (.fneg c z d a) (fun v => v.setFr c d (low (u.f c a) ^^^ sign)) ∧
       runs (.fabs c z d a) (fun v => v.setFr c d (low (u.f c a) &&& ~~~sign)))


/-! ## The cores: instructions of several accesses -/

/-- STM and LDM (R103, R105) from their first position, without a caller's stop, over an operand within one 4 KiB
block: STM stores the registers Ga to Gb in order, LDM loads them, its base register last; each position is one 8-byte
access through the checked part. They retire with PART and PROG zero.
Where it rests on the model's reading, that is log 11. -/
def Obligations.MultiRegister : Prop :=
  ∀ (s : State) (c : CoreId) (k : BankId) (ps : List (Phys × Nat)) (a b x : Reg) (p : Phys), Ready s c k 4 ps →
    let u := markParts s c ps
    let base := (s.g c k x).toNat
    let n := (b.val + 32 - a.val) % 32 + 1
    let reg (i : Nat) : Reg := ⟨(a.val + i) % 32, Nat.mod_lt _ (by decide)⟩
    let xp := (x.val + 32 - a.val) % 32
    let block : Phys := { p with pa := p.pa - base % 4096, va := p.va - base % 4096 }
    let at_ (i : Nat) : Phys := block.shift ((base + 8 * i) % 4096)
    let ret (i : Instr) (f : State → State) : Prop := AsksNone (f u) c → exec i s = .next (retiredI s c k ps f)
    (s.bank c k).part = false → base % 8 = 0 → base + 8 * n ≤ 2 ^ 64 → base % 4096 + 8 * n ≤ 4096 →
    (checkPart u c k .write base (8 * n) = .ok p →
      ret (.stm c a b x none) fun u =>
        ((List.range n).foldl (fun v i =>
          let w := markUse v c p.tlb
          storePhys (appendAdvance w (w.bank c k).initiator (at_ i).pa 8) c k (at_ i)
            (leBytes 8 (w.g c k (reg i)).toNat)) u).noProgress c k) ∧
    (checkPart u c k .read base (8 * n) = .ok p →
      ret (.ldm c a b x none) fun u =>
        ((((List.range n).filter fun i => i != xp) ++ (if xp < n then [xp] else [])).foldl (fun v i =>
          let r := readPart (markUse v c p.tlb) c (at_ i) 8
          r.2.setG c k (reg i) (BitVec.ofNat 64 (leNat r.1))) u).noProgress c k)

/-- SVLK and RSLK (R106) from their first position: with the whole 512-byte area checked, the positions 0 to 63 are
taken in order; SVLK stores the address of the next instruction as G0's position and branches, RSLK restores its mask
register and its base last and branches to the address that it loads. Position n below 32 stores or loads Gn at 8 n, position
32 + n the Fn of the context at 0x100 + 8 n, where its mask bit is set; G0 never moves, and a position whose bit is clear changes
nothing.
Where it rests on the model's reading, that is log 11. -/
def Obligations.SaveLink : Prop :=
  (∀ (s : State) (c : CoreId) (k : BankId) (ps qs : List (Phys × Nat)) (b m : Reg) (imm : BitVec 16) (p : Phys) (l : Nat),
      Ready s c k 4 ps →
      let u := markParts s c ps
      let v := markParts u c qs
      let base := (s.g c k b).toNat
      let mask := (s.g c k m).toNat
      let pc := (s.bank c k).pc
      (s.bank c k).part = false → base % 64 = 0 → base + 512 ≤ 2 ^ 64 → physAt qs 0 = some (p, l) →
      let svlk : State :=
        let w := (List.range 64).foldl (fun v n => (svlkPos c k mask qs n v).2) v
        (storePhys (appendAdvance w (w.bank c k).initiator p.pa 8) c k p (leBytes 8 (pc + 4).toNat)).noProgress c k
      (checkRange u c k .write base 512 = .ok qs → AsksNone svlk c →
        exec (.svlk c b m imm none) s =
          .next (jumped svlk c k (pc + imm.signExtend 64 <<< 2))) ∧
      (checkRange u c k .read base 512 = .ok qs →
        let one (r : Reg) (v : State) : State :=
          match physAt qs (8 * r.val) with
          | some (q, _) => if r.val ≠ 0 ∧ mask.testBit r.val = true then
              (readPart v c q 8).2.setG c k r (BitVec.ofNat 64 (leNat (readPart v c q 8).1)) else v
          | none => v
        let w := (List.range 64).foldl (fun v n => (rslkPos c k b m mask qs n v).2) v
        let r := readPart w c p 8
        let rslk := (one b (one m r.2)).noProgress c k
        AsksNone rslk c → exec (.rslk c b m none) s = .next (jumped rslk c k (BitVec.ofNat 64 (leNat r.1))))) ∧
  (∀ (s : State) (c : CoreId) (k : BankId) (b m : Reg) (mask n : Nat) (qs : List (Phys × Nat)) (p : Phys) (l : Nat), n < 32 →
      let r : Reg := ⟨n % 32, Nat.mod_lt _ (by decide)⟩
      let ok := physAt qs (8 * n) = some (p, l)
      let okF := physAt qs (0x100 + 8 * n) = some (p, l)
      (mask.testBit n = false → (svlkPos c k mask qs n s).2 = s ∧ (rslkPos c k b m mask qs n s).2 = s) ∧
      (n = 0 → (svlkPos c k mask qs n s).2 = s ∧ (rslkPos c k b m mask qs n s).2 = s) ∧
      (mask.testBit n = true → n ≠ 0 → ok → (svlkPos c k mask qs n s).2 =
        storePhys (appendAdvance s (s.bank c k).initiator p.pa 8) c k p (leBytes 8 (s.g c k r).toNat)) ∧
      (mask.testBit n = true → n ≠ 0 → ok → n ≠ b.val → n ≠ m.val →
        (rslkPos c k b m mask qs n s).2 =
          (readPart s c p 8).2.setG c k r (BitVec.ofNat 64 (leNat (readPart s c p 8).1))) ∧
      (mask.testBit (32 + n) = false →
        (svlkPos c k mask qs (32 + n) s).2 = s ∧ (rslkPos c k b m mask qs (32 + n) s).2 = s) ∧
      (mask.testBit (32 + n) = true → okF →
        (svlkPos c k mask qs (32 + n) s).2 =
          (let v := lazyF s c k
           storePhys (appendAdvance v (v.bank c k).initiator p.pa 8) c k p (leBytes 8 (v.f c r).toNat)) ∧
        (rslkPos c k b m mask qs (32 + n) s).2 =
          (readPart (lazyF s c k) c p 8).2.setFr c r (BitVec.ofNat 64 (leNat (readPart (lazyF s c k) c p 8).1))))

/-! ## The cores: strings -/

/-- The moves and the fill (R161 to R166) over a run that one step takes, without a caller's stop: the bytes are copied
in ascending order, by SMOVX in descending order where the destination begins inside the source, by SFILL from the low byte
of its register; addresses advance by the length and the length register becomes zero. A step of SMOVX that descends ends where 64 bytes have
been moved from the top of the run (R166).
Where it rests on the model's reading, that is log 11. -/
def Obligations.StringMoves : Prop :=
  ∀ (s : State) (c : CoreId) (k : BankId) (ps rs ds ts : List (Phys × Nat)) (d a n t b : Reg), Ready s c k 4 ps →
    let u := markParts s c ps
    let dst := (s.g c k d).toNat
    let src := (s.g c k a).toNat
    let tab := (s.g c k t).toNat
    let len := (s.g c k n).toNat % 2 ^ 32
    let w (x : Nat) : Word := BitVec.ofNat 64 x
    let fin (i : Instr) (v : State) : Prop :=
      let t := (((v.setG c k d (w (dst + len))).setG c k a (w (src + len))).setG c k n 0).noProgress c k
      AsksNone t c → exec i s = .next (ended t c k 4)
    (s.bank c k).part = false → n ≠ d → n ≠ a → 0 < len →
    dst % 4096 + len ≤ 4096 → src % 4096 + len ≤ 4096 → dst + len ≤ 2 ^ 64 → src + len ≤ 2 ^ 64 →
    checkRange u c k .read src len = .ok rs → checkRange u c k .write dst len = .ok ds →
    (len ≤ 64 → fin (.smov c d a n none) (copyUp c k rs ds (fun v s => (v, s)) len 0 (markStep u c k [rs] ds))) ∧
    (len ≤ 64 → ¬(src < dst ∧ dst < src + len) →
      fin (.smovx c d a n none) (copyUp c k rs ds (fun v s => (v, s)) len 0 (markStep u c k [rs] ds))) ∧
    (len ≤ 64 → src < dst → dst < src + len →
      fin (.smovx c d a n none) (copyDown c k rs ds len (markStep u c k [rs] ds))) ∧
    (len ≤ 64 → n ≠ b →
      let t := ((((List.range len).foldl (fun v i => putByteAt v c k ds i ((s.g c k b).setWidth 8))
        (markStep u c k [] ds)).setG c k d (w (dst + len))).setG c k n 0).noProgress c k
      AsksNone t c → exec (.sfill c d b n none) s = .next (ended t c k 4)) ∧
    (len ≤ 32 → t ≠ d → t ≠ a → n ≠ t → tab + 256 ≤ 2 ^ 64 → checkRange u c k .read tab 256 = .ok ts →
      fin (.str c d a n t none) (copyUp c k rs ds (tableByte c ts) len 0 (markStep u c k [rs, ts] ds)))

/-- SCMP and SSCAN (R161, R165) over a run that one step takes: SCMP sets CC 0 for equal runs, 1 or 2 where Ga's byte is
the lower or the higher at the first difference, and its addresses stop there; SSCAN sets CC 1 at the first byte whose table
entry is not zero, with the entry in its result register, and CC 0 where there is none, with zero there.
Where it rests on the model's reading, that is log 11. -/
def Obligations.StringScans : Prop :=
  ∀ (s : State) (c : CoreId) (k : BankId) (ps rs qs : List (Phys × Nat)) (a b n f : Reg), Ready s c k 4 ps →
    let u := markParts s c ps
    let x := (s.g c k a).toNat
    let y := (s.g c k b).toNat
    let len := (s.g c k n).toNat % 2 ^ 32
    let w (v : Nat) : Word := BitVec.ofNat 64 v
    (s.bank c k).part = false → n ≠ a → n ≠ b → 0 < len → x % 4096 + len ≤ 4096 → x + len ≤ 2 ^ 64 →
    checkRange u c k .read x len = .ok rs →
    (len ≤ 64 → y % 4096 + len ≤ 4096 → y + len ≤ 2 ^ 64 → checkRange u c k .read y len = .ok qs →
      checkRange u c k .write 0 0 = .ok [] →
      let r := compareUp c rs qs len 0 (markStep u c k [rs, qs] [])
      let i := match r.1 with | some p => p.1 | none => len
      let cc := match r.1 with | some p => (if p.2 then 1 else 2) | none => 0
      let t := ((((r.2.setG c k a (w (x + i))).setG c k b (w (y + i))).setG c k n (w (len - i))).noProgress c k).setCC c k cc
      AsksNone t c → exec (.scmp c a b n none) s = .next (ended t c k 4)) ∧
    (len ≤ 32 → y + 256 ≤ 2 ^ 64 → f ≠ a → n ≠ f → b ≠ f → b ≠ a → checkRange u c k .read y 256 = .ok qs →
      checkRange u c k .write 0 0 = .ok [] →
      let r := scanUp c rs qs len 0 (markStep u c k [rs, qs] [])
      let i := match r.1 with | some p => p.1 | none => len
      let v := match r.1 with | some p => p.2.toNat | none => 0
      strLen r.2 c k n ≠ 0 →
      let t := ((((r.2.setG c k a (w (x + i))).setG c k n (w (len - i))).setG c k f (w v)).noProgress c k).setCC c k
        (if r.1.isSome then 1 else 0)
      AsksNone t c → exec (.sscan c a n b f none) s = .next (ended t c k 4))

/-- SCVU, SCVS (R167 to R170) and EDIT (R172 to R176). A conversion of a run of no bytes completes with CC 0 and checks
nothing. SCVU of a run within one step whose characters all convert, each valid in the table and its output writable when its turn
comes, stores the UTF-8 of each and completes with CC 0; a first byte that is not valid completes it at once with CC 3. SCVS of
a run that is one whole UTF-8 sequence of a code point that the table holds stores its byte and completes with CC 0. EDIT of
a picture that passes its checks, over a source that is packed decimal, with the output of each code writable when its turn
comes, writes what the codes put out in order and leaves the destination after the last byte and CC by the number's sign.
Where it rests on the model's readings, those are logs 11 and 24. -/
def Obligations.ConvertAndEdit : Prop :=
  ∀ (s : State) (c : CoreId) (k : BankId) (ps rs ts : List (Phys × Nat)) (d a n t : Reg), Ready s c k 4 ps →
    let u := markParts s c ps
    let dst := (s.g c k d).toNat
    let src := (s.g c k a).toNat
    let tab := (s.g c k t).toNat
    let len := (s.g c k n).toNat % 2 ^ 32
    let w (x : Nat) : Word := BitVec.ofNat 64 x
    let fin (i : Instr) (v : State) (o m cc : Nat) : Prop :=
      let t := ((((v.setG c k d (w ((dst + o) % 2 ^ 64))).setG c k a (w ((src + m) % 2 ^ 64))).setG c k n
        (w (len - m))).noProgress c k).setCC c k cc
      AsksNone t c → exec i s = .next (ended t c k 4)
    (s.bank c k).part = false →
    (n ≠ d → n ≠ a → t ≠ d → t ≠ a → n ≠ t →
      (len = 0 → fin (.scvu c d a n t none) u 0 0 0 ∧ fin (.scvs c d a n t none) u 0 0 0) ∧
      (0 < len → len ≤ 32 → src % 4096 + len ≤ 4096 → src + len ≤ 2 ^ 64 → dst + 2 * len ≤ 2 ^ 64 → tab + 576 ≤ 2 ^ 64 →
        checkRange u c k .read src len = .ok rs → checkRange u c k .read tab 576 = .ok ts →
        checkRange u c k .write 0 0 = .ok [] →
        let m := markStep u c k [rs, ts] []
        let char (v : State) (i : Nat) : Byte × State := byteAt v c rs i
        let valid (v : State) (i : Nat) : Byte × State :=
          byteAt (char v i).2 c ts (512 + (char v i).1.toNat / 8)
        let point (v : State) (i : Nat) : Byte × State := byteAt (valid v i).2 c ts (char v i).1.toNat
        let isValid (v : State) (i : Nat) : Bool := (valid v i).1.getLsbD ((char v i).1.toNat % 8)
        let put (x : Nat × State) (i : Nat) : Nat × State :=
          let q := point x.2 i
          match checkRange q.2 c k .write ((dst + x.1) % 2 ^ 64) (utf8Small q.1.toNat).length with
          | .ok ds => (x.1 + (utf8Small q.1.toNat).length, storeParts q.2 c k ds (utf8Small q.1.toNat))
          | .error _ => x
        let upTo (i : Nat) : Nat × State := (List.range i).foldl put (0, m)
        ((∀ i, i < len → isValid (upTo i).2 i = true ∧
            (checkRange (point (upTo i).2 i).2 c k .write ((dst + (upTo i).1) % 2 ^ 64)
              (utf8Small (point (upTo i).2 i).1.toNat).length).isOk = true ∧
            (0 < i → dst % 4096 + (upTo i).1 + (utf8Small (point (upTo i).2 i).1.toNat).length ≤ 4096)) →
          fin (.scvu c d a n t none) (upTo len).2 (upTo len).1 len 0) ∧
        (isValid m 0 = false → fin (.scvu c d a n t none) (valid m 0).2 0 0 3) ∧
        (∀ (sv : State) (cp : Nat) (ds : List (Phys × Nat)), utf8Len (char m 0).1.toNat = len →
          utf8Len (char u 0).1.toNat = len →
          let seq := (List.range (len - 1)).foldl (fun (x : List Nat × State) j =>
            let y := byteAt x.2 c rs (1 + j)
            (x.1 ++ [y.1.toNat], y.2)) ([(char m 0).1.toNat], (char m 0).2)
          utf8Decode seq.1 = some cp → cp ≤ 0xFF →
          let ok := byteAt seq.2 c ts (544 + cp / 8)
          ok.1.getLsbD (cp % 8) = true →
          let o := byteAt ok.2 c ts (256 + cp)
          sv = o.2 → checkRange sv c k .write dst 1 = .ok ds →
          fin (.scvs c d a n t none) (storeParts sv c k ds [o.1]) 1 len 0))) ∧
    (d ≠ a → d ≠ n → ∀ (p : Picture) (codes : List PicCode) (q : PicCode) (v : State) (x : Dec),
      let gs := (s.g c k n).toNat
      let dst := (v.g c k d).toNat
      readPicture u c k src = .ok (p, v) → p.codes = codes ++ [q] → q.code = 0 → codes.all (fun y => y.code != 0) = true →
      (p.codes.all fun y => decide (2 ≤ y.off)) = true → (p.codes.any fun y => y.off == 2) = true →
      checkRange v c k .read gs p.len = .ok rs → gs + p.len ≤ 2 ^ 64 → dst + (p.codes.map PicCode.outLen).sum ≤ 2 ^ 64 →
      readPacked (readParts v c rs).1 = some x →
      let neg := x.neg && x.mag != 0
      let start : EditRun × State :=
        ({ d := dst, pad := if p.cset = 0 then 0x20 else 0x40, digits := digitsOf (2 * p.len - 1) x.mag, taken := 0,
           started := false }, (readParts v c rs).2)
      let act (r : EditRun × State) (y : PicCode) : EditRun × State :=
        let o := y.act p.cset neg r.1
        match checkRange r.2 c k .write r.1.d o.1.length with
        | .ok ds => ({ o.2 with d := (r.1.d + o.1.length) % 2 ^ 64 }, storeParts r.2 c k ds o.1)
        | .error _ => r
      let upTo (i : Nat) : EditRun × State := (codes.take i).foldl act start
      (∀ i y, codes[i]? = some y →
        (checkRange (upTo i).2 c k .write (upTo i).1.d (y.act p.cset neg (upTo i).1).1.length).isOk = true) →
      let e := upTo codes.length
      let z := ((e.2.setG c k d (w e.1.d)).noProgress c k).setCC c k (if x.mag = 0 then 0 else if neg then 1 else 2)
      AsksNone z c → exec (.edit c d a n none) s = .next (ended z c k 4))

/-! ## The cores: exceptions, control registers, synchronisation -/

/-- SCALL and BREAK (R127, R193): they take exception 0x0D and 0x0E with EPC the next instruction. A word that the
opcode map does not define takes ILLEGAL, 0x0B, at its own address (R180), as do CTL numbers above 0x0C (R194) and QUAR
outside bank 15 (R195); the supervisor instructions in user mode take PRIV, 0x0C (R127, R195), as do CRYPT, the ledger
instructions, WAITT and COMMIT in bank 15 (R100). None of them has another effect. -/
def Obligations.ExceptionCauses : Prop :=
  ∀ (s : State) (c : CoreId) (k : BankId) (ps : List (Phys × Nat)) (d a b : Reg) (bcast : Bool), Ready s c k 4 ps →
    let pc := (s.bank c k).pc
    let u := fetched s c k ps
    let priv (i : Instr) : Prop := (s.bank c k).user = true → exec i s = .next (takeTrap (markParts s c ps) c k 0x0C 0 pc)
    let in15 (i : Instr) : Prop := k = bank15 → exec i s = .next (takeTrap u c k 0x0C 0 pc)
    exec (.scall c) s = .next (takeTrap u c k 0x0D 0 (pc + 4)) ∧
    exec (.breakpoint c) s = .next (takeTrap u c k 0x0E 0 (pc + 4)) ∧
    (∀ w0 w1, porDecode c w0 w1 = none → instrBytes w0 = 4 →
      exec (.illegalInstruction c w0 w1) s = .next (takeTrap (markParts s c ps) c k 0x0B 0 pc)) ∧
    (0x0C < b.val → exec (.ctlr c d b) s = .next (takeTrap (markParts s c ps) c k 0x0B 0 pc) ∧
      exec (.ctlw c b a) s = .next (takeTrap (markParts s c ps) c k 0x0B 0 pc)) ∧
    (k ≠ bank15 → exec (.quar c) s = .next (takeTrap (markParts s c ps) c k 0x0B 0 pc)) ∧
    priv (.tret c) ∧ priv (.msync c) ∧ priv (.tlbsync c) ∧ priv (.tlbins c a b) ∧ priv (.tlbset c d a b) ∧
    priv (.tlbrd c d a) ∧ priv (.tlbfind c d a) ∧ priv (.tlbiv c a bcast) ∧ priv (.tlbia c a bcast) ∧
    priv (.fkset c a b) ∧ priv (.fkget c d a) ∧
    in15 (.ldl c d a b) ∧ in15 (.ldlu c d a b) ∧ in15 (.stl c d a b) ∧ in15 (.del c a b) ∧ in15 (.commit c) ∧
    in15 (.abort c a) ∧ in15 (.crypt c a) ∧ in15 (.waitt c a)

/-- Trap entry (R95, R97): from trap level L, 0 to 3, with the pending CTL writes in effect, EPC, CAUSE and BADADDR are
written; the frame of level L + 1 is in memory with the layout of R97; STATUS becomes TL L + 1, USER, XLATE, KEY, PART and
PROG zero and every other bit unchanged; VIEW becomes zero; the new window is zero but G16, the frame's address; G1 to G15
stay; the PC is the vector of the cause and the prefetch queue is empty. No other byte of memory changes.
A trap taken at level 4 (R99): bank 15 is current with the values of the table, at the vector of NEST_ERR; the
context's bank keeps everything but its PC, which is the resume address. -/
def Obligations.TrapEntry : Prop :=
  (∀ (s : State) (c : CoreId) (b : BankId) (cause : Nat) (bad epc : Word),
     let k := (s.core c).applyPend b
     let x := k.bank b
     let lvl := x.tl + 1
     let frame := frameAddr c b lvl
     let t := takeTrap s c b cause bad epc
     let y := t.bank c b
     let bytes := leBytes 8 epc.toNat ++ leBytes 8 bad.toNat ++ leBytes 8 x.status.toNat ++
       leBytes 8 (Bits.put x.bwr 0 1 (x.tl % 2)).toNat ++ [byte cause, if 2 ≤ lvl then 1 else 0] ++ zeros 30 ++
       (if 2 ≤ lvl then winBytes (if lvl % 2 = 1 then x.w1 else x.w0) else [])
     b ≠ bank15 → cause < 64 → (s.bank c b).tl < 4 → x.tl = (s.bank c b).tl →
     y.epc = (epc.setWidth 48).signExtend 64 ∧ y.cause = BitVec.ofNat 64 cause ∧ y.badaddr = bad ∧
     y.tl = lvl ∧ y.user = false ∧ y.xlate = false ∧ y.key = 0 ∧ y.part = false ∧ y.prog = 0 ∧ y.cc = x.cc ∧
     (∀ i, i < 47 → i ≠ 0 → i ≠ 1 → ¬(8 ≤ i ∧ i ≤ 10) → ¬(20 ≤ i ∧ i ≤ 23) →
       y.status.getLsbD i = x.status.getLsbD i) ∧
     Bits.get y.bwr 8 2 = 0 ∧ (∀ i, i < 64 → ¬(8 ≤ i ∧ i ≤ 9) → y.bwr.getLsbD i = x.bwr.getLsbD i) ∧
     (∀ r : Reg, 16 ≤ r.val → t.g c b r = if r = 16 then BitVec.ofNat 64 frame else 0) ∧
     (∀ r : Reg, r.val < 16 → t.g c b r = k.readG b r) ∧
     (if lvl % 2 = 1 then y.w0 = x.w0 else y.w1 = x.w1) ∧
     y.pc = k.tvec + BitVec.ofNat 64 (0x40 * cause) ∧ y.pend = [] ∧ (t.core c).pq = [] ∧
     coreRead t c frame bytes.length = bytes ∧
     (∀ a, a < frame ∨ frame + bytes.length ≤ a → coreByte t c a = coreByte s c a) ∧
     (∀ d, d ≠ c → t.core d = s.core d) ∧ t.regs = s.regs) ∧
  (∀ (s : State) (c : CoreId) (b : BankId) (cause : Nat) (bad epc : Word), b ≠ bank15 → cause < 64 → (s.bank c b).tl = 4 →
     let t := takeTrap s c b cause bad epc
     let y := t.bank c bank15
     (t.core c).cur = some bank15 ∧ t.bank c b = { s.bank c b with pc := epc } ∧
     t.g c bank15 1 = BitVec.ofNat 64 b.val ∧ t.g c bank15 2 = BitVec.ofNat 64 cause ∧ t.g c bank15 3 = epc ∧
     t.g c bank15 4 = bad ∧ t.g c bank15 5 = BitVec.ofNat 64 (bankArea c b) ∧
     (∀ r : Reg, 5 < r.val → t.g c bank15 r = 0) ∧
     y.status = 0x400 ∧ y.bwr = BitVec.ofNat 64 (b.val * 2 ^ 16) ∧ y.an = (s.bank c b).an ∧
     y.deadline = (s.bank c b).deadline ∧ y.pc = (s.core c).tvec + 0x80 ∧ y.asid = 0 ∧ y.epc = 0 ∧ y.cause = 0 ∧
     y.badaddr = 0 ∧ y.fpctl = 0 ∧ y.dctl = 0 ∧ y.pend = [] ∧
     (∀ b', b' ≠ b → b' ≠ bank15 → t.bank c b' = s.bank c b') ∧ t.mem = s.mem ∧ t.regs = s.regs)

/-- TRET (R98, R100, R127): in supervisor mode at level 1 to 4 it restores PC, STATUS with TL one lower, and BWR from the
frame of its level, reserved bits of those words not taken (R8), reloads the saved window where the frame has one, and EPC,
CAUSE and BADADDR from the frame below; the prefetch queue is empty, and memory, the other registers and the other banks stay.
At level 0 it raises PRIV. In bank 15 it returns to the context's bank at the resume address of the entry. -/
def Obligations.TrapReturn : Prop :=
  ∀ (s : State) (c : CoreId) (b : BankId) (ps : List (Phys × Nat)), Ready s c b 4 ps → (s.bank c b).user = false →
    let u := fetched s c b ps
    (b ≠ bank15 → (s.bank c b).tl = 0 → exec (.tret c) s = .next (takeTrap u c b 0x0C 0 (s.bank c b).pc)) ∧
    (∀ x, b = bank15 → (s.core c).b15 = some x → x.bank ≠ bank15 → (s.bank c bank15).pend = [] →
      ∃ t, exec (.tret c) s = .next t ∧ (t.core c).cur = some x.bank ∧ (t.core c).b15 = none ∧ (t.core c).pq = [] ∧
        t.bank c x.bank = { s.bank c x.bank with pc := x.resume } ∧ t.mem = s.mem) ∧
    (let k := (s.core c).applyPend b
     let x := k.bank b
     let lvl := x.tl
     let fr := coreRead s c (frameAddr c b lvl) 192
     let below := coreRead s c (frameAddr c b (lvl - 1)) 192
     let st : Word := BitVec.ofNat 64 (fld fr 0x10 8)
     let bw : Word := BitVec.ofNat 64 (fld fr 0x18 8) &&& 0x000F_1300
     b ≠ bank15 → 0 < lvl → lvl < 5 → ∃ t, exec (.tret c) s = .next t ∧
       let y := t.bank c b
       y.pc = BitVec.ofNat 64 (fld fr 0 8) ∧ y.tl = lvl - 1 ∧
       (Bits.get bw 8 2 ≠ 3 → y.bwr = bw) ∧
       (Bits.get bw 8 2 = 3 → Bits.get y.bwr 8 2 = 0 ∧ ∀ i, i < 64 → ¬(8 ≤ i ∧ i ≤ 9) → y.bwr.getLsbD i = bw.getLsbD i) ∧
       (∀ i, i < 64 → ¬(8 ≤ i ∧ i ≤ 10) → y.status.getLsbD i = (st &&& 0xFFFF_8000_00FC_0003).getLsbD i) ∧
       (bitAt (fld fr 0x21 1) 0 = true →
         (if lvl % 2 = 1 then y.w1 else y.w0) = winOf (sliceOf fr 0x40 128)) ∧
       (bitAt (fld fr 0x21 1) 0 = false → y.w0 = x.w0 ∧ y.w1 = x.w1) ∧ y.lo = x.lo ∧
       (2 ≤ lvl → y.epc = ((BitVec.ofNat 64 (fld below 0 8)).setWidth 48).signExtend 64 ∧
         y.badaddr = BitVec.ofNat 64 (fld below 8 8) ∧ y.cause = BitVec.ofNat 64 (fld below 0x20 1 % 64)) ∧
       (lvl = 1 → y.epc = x.epc ∧ y.badaddr = x.badaddr ∧ y.cause = x.cause) ∧ y.fpctl = x.fpctl ∧ y.dctl = x.dctl ∧
       y.asid = x.asid ∧ (∀ b', b' ≠ b → t.bank c b' = s.bank c b') ∧ (∀ d, d ≠ c → t.core d = s.core d) ∧
       (t.core c).pq = [] ∧ t.mem = s.mem ∧ t.regs = s.regs)

/-- Fences and synchronisation (R119, R123 to R125, R212): the FENCE variants drain the store queue, after which the
core's ordinary stores are in memory; FENCE.DEV and FENCE.ALL retire when every posted store is acknowledged and wait until
then; CSYNC puts the pending CTL writes in effect; CSYNC and ISYNC empty the prefetch queue; TLBSYNC retires when no core has
an access in flight under an entry that this core has invalidated by a broadcast, and waits until then.
Where it rests on the model's reading, that is log 21. -/
def Obligations.FencesAndSync : Prop :=
  ∀ (s : State) (c : CoreId) (k : BankId) (ps : List (Phys × Nat)), Ready s c k 4 ps →
    let u := fetched s c k ps
    (AsksNone (drainAll u c) c → exec (.fenceSl c) s = .next (retired s c k 4 ps fun u => drainAll u c)) ∧
    (AsksNone (drainAll u c) c → ((drainAll u c).core c).posted = [] →
      exec (.fenceDev c) s = .next (retired s c k 4 ps fun u => drainAll u c) ∧
      exec (.fenceAll c) s = .next (retired s c k 4 ps fun u => drainAll u c)) ∧
    (AsksNone (drainAll u c) c → ((drainAll u c).core c).posted ≠ [] →
      exec (.fenceDev c) s = .next (dropWin (drainAll u c) c) ∧ exec (.fenceAll c) s = .next (dropWin (drainAll u c) c)) ∧
    ((∀ e ∈ (s.core c).sq, e.dev = false ∧ (e.cells.map fun p => p.1).Nodup) →
      ((drainAll s c).core c).sq = [] ∧ (∀ a, memGet (drainAll s c).mem a = coreByte s c a) ∧
        (drainAll s c).regs = s.regs) ∧
    exec (.csync c) s = .next (retired s c k 4 ps fun u => u.modCore c fun m => { m.applyPend k with pq := [] }) ∧
    exec (.isync c) s = .next (retired s c k 4 ps fun u => u.modCore c fun m => { m with pq := [] }) ∧
    ((s.bank c k).user = false → (∀ d, (s.core d).owes c = false) → exec (.tlbsync c) s = .next (retired s c k 4 ps id)) ∧
    ((s.bank c k).user = false → (∃ d, (s.core d).owes c = true) →
      exec (.tlbsync c) s = .next (dropWin (u.modCore c fun m => { m with wait := some .tlbsync }) c))

/-- CTLR and CTLW (R124, R194): a read gives the pending value, or what the hardware last set; in user mode the
registers of R194 only, of STATUS the CC alone. A write is pending: it reads back, it leaves every value in force, and AN
and DEADLINE take none. When the pending writes take effect, the register holds what was written. -/
def Obligations.ControlRegisters : Prop :=
  ∀ (s : State) (c : CoreId) (k : BankId) (ps : List (Phys × Nat)) (d a : Reg) (n : Fin 32) (r : Ctl), Ready s c k 4 ps →
    let u := fetched s c k ps
    let user := (s.bank c k).user
    ctlOf n.val = some r →
    ((user = true → r.userRead = true) → exec (.ctlr c d n) s = .next (retired s c k 4 ps fun u =>
      u.setG c k d (if user = true ∧ r = .status then (u.core c).readCtl k r &&& 0xC0000 else (u.core c).readCtl k r))) ∧
    ((user = true → r.userWrite = true) → exec (.ctlw c n a) s = .next (retired s c k 4 ps fun u =>
      u.modCore c fun m => m.pendCtl k r (s.g c k a))) ∧
    (user = true → r.userRead = false → exec (.ctlr c d n) s = .next (takeTrap u c k 0x0C 0 (s.bank c k).pc)) ∧
    (user = true → r.userWrite = false → exec (.ctlw c n a) s = .next (takeTrap u c k 0x0C 0 (s.bank c k).pc)) ∧
    (∀ (m : Core) (v : Word), r ≠ .an → r ≠ .deadline →
      (m.pendCtl k r v).readCtl k r = (r.store v ||| (m.ctlNow k r &&& ~~~r.mask)) ∧
      (∀ q, (m.pendCtl k r v).ctlNow k q = m.ctlNow k q) ∧
      (∀ q, q ≠ r → (m.pendCtl k r v).readCtl k q = m.readCtl k q)) ∧
    (∀ (m : Core) (v : Word), r = .an ∨ r = .deadline → m.pendCtl k r v = m) ∧
    (∀ (m : Core) (v : Word), (m.bank k).pend = [] → (r = .fpctl ∨ r = .dctl ∨ r = .asid ∨ r = .cause ∨ r = .badaddr ∨
      r = .tvec ∨ r = .epc) → ((m.pendCtl k r v).applyPend k).ctlNow k r = r.store v)

/-! ## The cores: translation and storage keys -/

/-- The TLB instructions in supervisor mode (R202, R203, R206, R207, R212): each acts on the core's entries as named
and retires; the instructions that write or invalidate empty the prefetch queue.
A written TLB entry (R202 to R204): SIZE above 28 is stored as 28, VPN and PFN are aligned to the size, the use bit
is clear; other entries stay. An entry that matches an address translates it to the frame with the offset kept. TLBFIND
gives the index of the one match, bit 63 for none and bit 62 with the lowest index for several. TLBINS takes the lowest
index that is not valid where there is one. A broadcast invalidates on every core and notes what each has in flight under the
entries, for TLBSYNC.
Where it rests on the model's reading, that is log 21. -/
def Obligations.TlbInstructions : Prop :=
  (∀ (s : State) (c : CoreId) (k : BankId) (ps : List (Phys × Nat)) (d a b : Reg), Ready s c k 4 ps →
     (s.bank c k).user = false →
     let x := s.g c k a
     let y := s.g c k b
     let i : Fin 128 := ⟨x.toNat % 128, Nat.mod_lt _ (by decide)⟩
     let d1 : Reg := ⟨(d.val + 1) % 32, Nat.mod_lt _ (by decide)⟩
     let ret (f : State → State) : Host.Outcome State Fault Refusal := .next (retired s c k 4 ps f)
     let inv (p : TlbEntry → Bool) (m : Core) : Core :=
       { m with tlb := m.tlb.map fun e => if p e then { e with w1 := Bits.put e.w1 63 1 0 } else e, pq := [] }
     exec (.tlbins c a b) s = ret (fun u => u.modCore c fun m =>
       { ({ m with tlb := m.chooseTlb.2 }.writeTlb m.chooseTlb.1 x y) with hand := (m.chooseTlb.1 + 1) % 128, pq := [] }) ∧
     exec (.tlbset c d a b) s = ret (fun u => u.modCore c fun m =>
       { m.writeTlb ((s.g c k d).toNat % 128) x y with pq := [] }) ∧
     exec (.tlbrd c d a) s = ret (fun u =>
       (u.setG c k d ((s.core c).tlb[i]).w0).setG c k d1 ((s.core c).tlb[i]).w1) ∧
     exec (.tlbfind c d a) s = ret (fun u =>
       u.setG c k d ((u.core c).tlbFind x.toNat (Bits.get (s.bank c k).asid 0 12))) ∧
     exec (.tlbiv c a false) s = ret (fun u => u.modCore c (inv (tlbivHits x.toNat))) ∧
     exec (.tlbia c a false) s = ret (fun u => u.modCore c (inv (tlbiaHits x.toNat))) ∧
     exec (.tlbiv c a true) s = ret (fun u =>
       { u with cores := u.cores.map fun m => (inv (tlbivHits x.toNat) m).markInval (tlbivHits x.toNat) c }) ∧
     exec (.tlbia c a true) s = ret (fun u =>
       { u with cores := u.cores.map fun m => (inv (tlbiaHits x.toNat) m).markInval (tlbiaHits x.toNat) c })) ∧
  (∀ (m : Core) (i : Fin 128) (x y : Word) (va asid : Nat),
     let t := m.writeTlb i.val x y
     let e := t.tlb[i]
     let size := min 28 (Bits.get x 40 5)
     Bits.get e.w0 40 5 = size ∧ Bits.get e.w0 0 36 = Bits.get x 0 36 / 2 ^ size * 2 ^ size ∧
     Bits.get e.w1 12 36 = Bits.get y 12 36 / 2 ^ size * 2 ^ size ∧ e.use = false ∧
     (∀ j, j < 6 → e.w1.getLsbD j = y.getLsbD j) ∧ e.w1.getLsbD 62 = y.getLsbD 62 ∧ e.w1.getLsbD 63 = y.getLsbD 63 ∧
     Bits.get e.w1 50 12 = Bits.get y 50 12 ∧
     (e.w1.getLsbD 49 = true → y.getLsbD 49 = true) ∧
     (∀ j : Fin 128, j ≠ i → t.tlb[j] = m.tlb[j]) ∧
     (e.hits va asid = true → va < 2 ^ 48 →
       e.translate va / 2 ^ (12 + size) = Bits.get y 12 36 / 2 ^ size ∧
       e.translate va % 2 ^ (12 + size) = va % 2 ^ (12 + size)) ∧
     (m.tlbHits va asid = [i.val] → canonical va = true → m.tlbFind va asid = BitVec.ofNat 64 i.val) ∧
     (m.tlbHits va asid = [] → m.tlbFind va asid = 0x8000_0000_0000_0000) ∧
     (∀ j1 j2 js, m.tlbHits va asid = j1 :: j2 :: js → canonical va = true →
       m.tlbFind va asid = BitVec.ofNat 64 (2 ^ 62 + j1) ∧ j1 < j2) ∧
     (∀ j : Fin 128, m.tlb[j].w1.getLsbD 63 = false → (∀ j' : Fin 128, j' < j → m.tlb[j'].w1.getLsbD 63 = true) →
       m.chooseTlb = (j.val, m.tlb)))

/-- The permission and storage-key rules (R205, R220 to R222): what an entry and a frame key allow; FKGET reads the key
of a frame, FKSET of a keyed frame waits for the key caches, and the acknowledgement sets the key and retires it; a frame
without a key takes none. MSYNC requests the activation and waits for it.
Storage keys under change (R220 to R222, R228): MPU_SKEY of a frame with a key waits, BUSY, until every key cache has
acknowledged it; from then on the frame has the new key. An FKSET that waits retires then, with the key in force. No other
frame changes.
Where it rests on the model's reading, that is log 49. -/
def Obligations.StorageKeys : Prop :=
  (∀ (s : State) (c : CoreId) (k : BankId) (ps : List (Phys × Nat)) (d a b : Reg), Ready s c k 4 ps →
     (s.bank c k).user = false →
     let u := fetched s c k ps
     let pa := (s.g c k a).toNat
     let v := (s.g c k b).toNat % 32
     exec (.fkget c d a) s = .next (retired s c k 4 ps fun u => u.setG c k d (BitVec.ofNat 64 (frameKey s pa))) ∧
     (keyed pa = true → exec (.fkset c a b) s =
       .next (dropWin (u.modCore c fun m => { m with wait := some (.fkset pa v) }) c)) ∧
     (keyed pa = false → exec (.fkset c a b) s = .next (retired s c k 4 ps id)) ∧
     exec (.msync c) s =
       .next (dropWin ((u.setF Fld.MPU_STATUS_DRAINING 1).modCore c fun m => { m with wait := some .msync }) c) ∧
     (∀ pa' : Nat, keyed pa' = true → frameKey (setFrameKey s pa' v) pa' = v ∧
       ∀ q, q / 4096 ≠ pa' / 4096 → frameKey (setFrameKey s pa' v) q = frameKey s q) ∧
     (∀ (kd : Kind) (key fk : Nat) (rg : Bool), keyAllows kd key fk rg = true ↔
       key = 0 ∨ key = fk ∨ (kd ≠ .write ∧ rg = false)) ∧
     (∀ (e : TlbEntry) (user : Bool), (e.permits .read user = true ↔ e.w1.getLsbD 0 = true ∧ (user = true → e.w1.getLsbD 3 = true)) ∧
       (e.permits .write user = true ↔ e.w1.getLsbD 1 = true ∧ (user = true → e.w1.getLsbD 3 = true)) ∧
       (e.permits .fetch user = true ↔ e.w1.getLsbD 2 = true ∧ e.w1.getLsbD 3 = user))) ∧
  (∀ (s : State) (v : Word),
     let pa := v.toNat / 4096 % 2 ^ 36 * 4096
     (s.skey = none → keyed pa = true → exec (.mpuSkeyWrite v) s =
       .next { s.setF Fld.MPU_SKEY_BUSY 1 with skey := some (pa, v.toNat % 32) }) ∧
     (s.skey = none → keyed pa = false → exec (.mpuSkeyWrite v) s = .next s) ∧
     (∀ a x, s.skey = some (a, x) → keyed a = true → x < 32 → ∃ t, exec (.storageKeyAcked) s = .next t ∧
       t.getF Fld.MPU_SKEY_BUSY = 0 ∧ t.skey = none ∧ frameKey t a = x ∧ t.mem = s.mem ∧ t.cores = s.cores ∧
       ∀ q, q / 4096 ≠ a / 4096 → frameKey t q = frameKey s q) ∧
     (∀ c a x b, s.skey = none → waitingFkset s = some (c, a, x) → (s.core c).cur = some b → keyed a = true → x < 32 →
       ∃ t, exec (.storageKeyAcked) s = .next t ∧ (t.core c).wait = none ∧ (t.bank c b).pc = (s.bank c b).pc + 4 ∧
         frameKey t a = x ∧ t.mem = s.mem ∧ ∀ d, d ≠ c → t.core d = s.core d))


/-! ## The cores: decimal -/

/-- The decimal formats (R132 to R134, R144): a packed result of L bytes holds the low-order 2L - 1 digits of the
magnitude and the preferred sign, which reads back; digits that are all zero take the positive sign unless KEEPZ keeps it; a
zoned result of L bytes holds the low-order L digits and reads back; an operand with a digit nibble above 9 in it is
invalid.
Decimal arithmetic on two packed operands (R136 to R142): with both operands checked and valid, operand 1 receives
the sum, the difference, the product, the quotient truncated toward zero, or the remainder with the sign of the dividend;
CC says zero, negative or positive. A result of too many digits leaves its low-order digits, sets DOVF and CC 3, and takes
DOVF, 0x22, with EPC the next instruction where DOT is set. DCMP compares and stores nothing. A divisor of zero raises DDIV0,
0x21, an invalid operand DDATA, 0x20, with BADADDR its first byte, and nothing is stored. -/
def Obligations.DecimalArithmetic : Prop :=
  ((∀ (n : Nat) (keepz : Bool) (d : Dec), 0 < n →
     let m := d.mag % 10 ^ (2 * n - 1)
     (writePacked n keepz d).length = n ∧
     readPacked (writePacked n keepz d) = some { neg := d.neg && (decide (m ≠ 0) || keepz), mag := m } ∧
     ((writePacked n keepz d).getLastD 0).toNat % 16 = (if d.neg && (decide (m ≠ 0) || keepz) then 0xD else 0xC)) ∧
   (∀ (n : Nat) (zone : Bool) (d : Dec), 0 < n →
     let m := d.mag % 10 ^ n
     (writeZoned n zone false d).length = n ∧
     readZoned (writeZoned n zone false d) = some { neg := d.neg && decide (m ≠ 0), mag := m }) ∧
   (∀ (bs rest : List Byte) (x : Byte), 0xA0 ≤ x.toNat → readPacked (bs ++ x :: rest) = none) ∧
   (∀ bs : List Byte, (bs.getLastD 0).toNat % 16 < 0xA → bs ≠ [] → readPacked bs = none)) ∧
  (∀ (s : State) (c : CoreId) (k : BankId) (ps pa pb : List (Phys × Nat)) (a b : MOp) (v1 v2 : State) (ox oy : Option Dec),
     Ready s c k 8 ps → a.lf.toNat ≤ 31 → b.lf.toNat ≤ 31 →
     let u := fetched s c k ps
     let opnd (m : MOp) (use : Use) : DOp :=
       { addr := (s.g c k m.base + m.disp.setWidth 64).toNat, len := m.lf.toNat + 1, use := use, zoned := false }
     let n := a.lf.toNat + 1
     let pc := (s.bank c k).pc
     let rd (pa pb : List (Phys × Nat)) : Prop :=
       readDop u c (opnd a .both) pa = (ox, v1) ∧ readDop v1 c (opnd b .src) pb = (oy, v2)
     let five (p : Instr → Prop) : Prop :=
       p (.dadd c a b) ∧ p (.dsub c a b) ∧ p (.dmul c a b) ∧ p (.ddiv c a b) ∧ p (.dmod c a b)
     let ret (i : Instr) (w : State) : Prop := AsksNone w c → exec i s = .next (ended w c k 8)
     let traps (i : Instr) (cause addr : Nat) (w : State) : Prop :=
       AsksNone w c → exec i s = .next (takeTrap w c k cause (BitVec.ofNat 64 addr) pc)
     let result (i : Instr) (r : Int) : Prop :=
       let w := storeParts v2 c k pa (writePacked n false (Dec.ofInt r))
       let w' := (w.setCC c k 3).modBank c k fun x => x.sticky .dctl 1
       (r.natAbs < 10 ^ (2 * n - 1) → ret i (w.setCC c k (if r = 0 then 0 else if r < 0 then 1 else 2))) ∧
       (10 ^ (2 * n - 1) ≤ r.natAbs → dDot (w'.bank c k).dctl = false → ret i w') ∧
       (10 ^ (2 * n - 1) ≤ r.natAbs → dDot (w'.bank c k).dctl = true → AsksNone w' c →
         exec i s = .next (takeTrap w' c k 0x22 0 (pc + 8)))
     (checkOps u c k [opnd a .both, opnd b .src] = .ok [pa, pb] → rd pa pb →
       (∀ x y, ox = some x → oy = some y →
         result (.dadd c a b) (x.val + y.val) ∧ result (.dsub c a b) (x.val - y.val) ∧
         result (.dmul c a b) (x.val * y.val) ∧
         (y.mag ≠ 0 → result (.ddiv c a b) (x.val.tdiv y.val) ∧ result (.dmod c a b) (x.val.tmod y.val)) ∧
         (y.mag = 0 → traps (.ddiv c a b) 0x21 (opnd b .src).addr v2 ∧ traps (.dmod c a b) 0x21 (opnd b .src).addr v2)) ∧
       (ox = none → five fun i => traps i 0x20 (opnd a .both).addr v2) ∧
       (ox.isSome → oy = none → five fun i => traps i 0x20 (opnd b .src).addr v2)) ∧
     (∀ x y, checkOps u c k [opnd a .src, opnd b .src] = .ok [pa, pb] →
       readDop u c (opnd a .src) pa = (some x, v1) → readDop v1 c (opnd b .src) pb = (some y, v2) →
       ret (.dcmp c a b) (v2.setCC c k (if x.val = y.val then 0 else if x.val < y.val then 1 else 2))))

/-- Copies, shifts and conversions (R141, R143 to R145): DCPY, DSHF and PACKZ store a value of operand 2 into operand 1,
DSHF its product with 10^n, or for negative n its magnitude rounded as DRND selects; UNPKZ stores zoned digits; CVPB writes Gd
modulo 2^64; CVBP stores the signed value of a register; DTST sets CC. The ends are those of DecimalArithmetic. -/
def Obligations.DecimalCopies : Prop :=
  ∀ (s : State) (c : CoreId) (k : BankId) (ps pa pb : List (Phys × Nat)) (d g : Reg) (a b : MOp) (n : BitVec 7)
    (y : Dec) (v : State), Ready s c k 8 ps → a.lf.toNat ≤ 31 →
    let u := fetched s c k ps
    let opnd (m : MOp) (use : Use) (z : Bool) : DOp :=
      { addr := (s.g c k m.base + m.disp.setWidth 64).toNat, len := m.lf.toNat + 1, use := use, zoned := z }
    let pc := (s.bank c k).pc
    let ctl := (s.bank c k).dctl
    let ret (i : Instr) (w : State) : Prop := AsksNone w c → exec i s = .next (ended w c k 8)
    let ends (i : Instr) (limit : Nat) (r : Dec) (w : State) : Prop :=
      let w' := (w.setCC c k 3).modBank c k fun x => x.sticky .dctl 1
      (r.mag < limit → ret i (w.setCC c k (if r.mag = 0 then 0 else if r.neg then 1 else 2))) ∧
      (limit ≤ r.mag → dDot (w'.bank c k).dctl = false → ret i w') ∧
      (limit ≤ r.mag → dDot (w'.bank c k).dctl = true → AsksNone w' c →
        exec i s = .next (takeTrap w' c k 0x22 0 (pc + 8)))
    let packs (i : Instr) (keepz : Bool) (r : Dec) (w : State) : Prop :=
      ends i (10 ^ (2 * (a.lf.toNat + 1) - 1)) r (storeParts w c k pa (writePacked (a.lf.toNat + 1) keepz r))
    let p := 10 ^ (-n.toInt).toNat
    let q := y.mag / p
    let r := y.mag % p
    let rounded := match dRnd ctl with
      | 0 => q
      | 1 => if p ≤ 2 * r then q + 1 else q
      | 2 => if p < 2 * r ∨ (2 * r = p ∧ q % 2 = 1) then q + 1 else q
      | _ => if r ≠ 0 then q + 1 else q
    (b.lf.toNat ≤ 31 → checkOps u c k [opnd a .dst false, opnd b .src false] = .ok [pa, pb] →
      readDop u c (opnd b .src false) pb = (some y, v) →
      packs (.dcpy c a b) (dKeepz ctl && y.neg && y.mag == 0) y v ∧
      (0 ≤ n.toInt → packs (.dshf c a b n) false { y with mag := y.mag * 10 ^ n.toInt.toNat } v) ∧
      (n.toInt < 0 → n ≠ 0x40 → packs (.dshf c a b n) false { y with mag := rounded } v)) ∧
    (b.lf.toNat ≤ 62 → checkOps u c k [opnd a .dst false, opnd b .src true] = .ok [pa, pb] →
      readDop u c (opnd b .src true) pb = (some y, v) → packs (.packz c a b) false y v) ∧
    (b.lf.toNat ≤ 62 → checkOps u c k [opnd b .dst true, opnd a .src false] = .ok [pb, pa] →
      readDop u c (opnd a .src false) pa = (some y, v) →
      ends (.unpkz c b a) (10 ^ (b.lf.toNat + 1)) y
        (storeParts v c k pb (writeZoned (b.lf.toNat + 1) (dZone ctl) (dZsign ctl) y))) ∧
    (checkOps u c k [opnd a .src false] = .ok [pa] → readDop u c (opnd a .src false) pa = (some y, v) →
      ret (.dtst c a) (v.setCC c k (if y.mag = 0 then 0 else if y.neg then 1 else 2)) ∧
      ends (.cvpb c d a) (if y.neg then 2 ^ 63 + 1 else 2 ^ 63) y (v.setG c k d (BitVec.ofInt 64 y.val))) ∧
    (checkOps u c k [opnd a .dst false] = .ok [pa] → packs (.cvbp c a g) false (Dec.ofInt (s.g c k g).toInt) u)

/-- The accumulators (R84, R135, R141): after the lazy swap of the DA set, DLDA writes its accumulator, DADA, DSBA, DMLA
and DADR write the sum, the difference, the product, and the sum of two accumulators, DCPA compares, and DSTA stores. A
source accumulator that is invalid raises DDATA with BADADDR zero.
The lazy sets (R84): the first F or DA instruction of a context that does not own the set saves the owner's set to
the save area of its bank, where a context is still bound there, and loads its own, or zeroes where the context has not
used the set since it was bound; afterwards the context owns it. An owner's instruction swaps nothing. -/
def Obligations.Accumulators : Prop :=
  (∀ (s : State) (c : CoreId) (k : BankId) (ps pb : List (Phys × Nat)) (n m : Fin 8) (b : MOp) (x z y : Dec) (v : State),
     Ready s c k 8 ps → b.lf.toNat ≤ 31 →
     let u := lazyD (fetched s c k ps) c k
     let opnd (use : Use) : DOp :=
       { addr := (u.g c k b.base + b.disp.setWidth 64).toNat, len := b.lf.toNat + 1, use := use, zoned := false }
     let pc := (s.bank c k).pc
     let ret (i : Instr) (w : State) : Prop := AsksNone w c → exec i s = .next (ended w c k 8)
     let ends (i : Instr) (limit : Nat) (r : Dec) (w : State) : Prop :=
       let w' := (w.setCC c k 3).modBank c k fun x => x.sticky .dctl 1
       (r.mag < limit → ret i (w.setCC c k (if r.mag = 0 then 0 else if r.neg then 1 else 2))) ∧
       (limit ≤ r.mag → dDot (w'.bank c k).dctl = false → ret i w') ∧
       (limit ≤ r.mag → dDot (w'.bank c k).dctl = true → AsksNone w' c →
         exec i s = .next (takeTrap w' c k 0x22 0 (pc + 8)))
     let acc (i : Instr) (r : Dec) (w : State) : Prop := ends i (10 ^ 63) r (w.setDa c n (writePacked 32 false r))
     (checkOps u c k [opnd .src] = .ok [pb] → readDop u c (opnd .src) pb = (some y, v) →
       acc (.dlda c n b) y v ∧
       (readDa u c n = some x →
         acc (.dada c n b) (Dec.ofInt (x.val + y.val)) v ∧ acc (.dsba c n b) (Dec.ofInt (x.val - y.val)) v ∧
         acc (.dmla c n b) (Dec.ofInt (x.val * y.val)) v ∧
         ret (.dcpa c n b) (v.setCC c k (if x.val = y.val then 0 else if x.val < y.val then 1 else 2))) ∧
       (readDa u c n = none → AsksNone v c → exec (.dada c n b) s = .next (takeTrap v c k 0x20 0 pc) ∧
         exec (.dsba c n b) s = .next (takeTrap v c k 0x20 0 pc) ∧
         exec (.dmla c n b) s = .next (takeTrap v c k 0x20 0 pc) ∧
         exec (.dcpa c n b) s = .next (takeTrap v c k 0x20 0 pc))) ∧
     (readDa u c n = none ∨ readDa u c m = none → exec (.dadr c n m) s = .next (takeTrap u c k 0x20 0 pc)) ∧
     (readDa u c n = none → checkOps u c k [opnd .dst] = .ok [pb] →
       exec (.dsta c b n) s = .next (takeTrap u c k 0x20 0 pc)) ∧
     (readDa u c n = some x → readDa u c m = some z → acc (.dadr c n m) (Dec.ofInt (x.val + z.val)) u) ∧
     (checkOps u c k [opnd .dst] = .ok [pb] → readDa u c n = some x →
       ends (.dsta c b n) (10 ^ (2 * (b.lf.toNat + 1) - 1)) x
         (storeParts u c k pb (writePacked (b.lf.toNat + 1) false x)))) ∧
  (∀ (s : State) (c : CoreId) (b : BankId),
     ((s.core c).fOwner = some b → lazyF s c b = s) ∧ ((s.core c).dOwner = some b → lazyD s c b = s) ∧
     ((lazyF s c b).core c).fOwner = some b ∧ ((lazyD s c b).core c).dOwner = some b ∧
     ((s.core c).fOwner ≠ some b → (s.core c).usedF b = false →
       ((lazyF s c b).core c).f = Vector.replicate 32 0) ∧
     ((s.core c).dOwner ≠ some b → (s.core c).usedD b = false →
       ((lazyD s c b).core c).da = Vector.replicate 8 (BitVec.ofNat 256 (0x0C <<< 248))) ∧
     (∀ o, (s.core c).fOwner = some o → o ≠ b → (s.core c).bound o = true →
       ∀ i : Fin 32, coreRead (lazyF s c b) c (bankArea c o + 0x300 + 8 * i.val) 8 = leBytes 8 ((s.core c).f[i]).toNat) ∧
     (∀ o, (s.core c).dOwner = some o → o ≠ b → (s.core c).bound o = true →
       ∀ i : Fin 8, coreRead (lazyD s c b) c (bankArea c o + 0x400 + 32 * i.val) 32 = leBytes 32 ((s.core c).da[i]).toNat) ∧
     ((s.core c).fOwner ≠ some b → (s.core c).usedF b = true → (∀ o, (s.core c).fOwner = some o → o = b ∨ (s.core c).bound o = false) →
       ∀ i : Fin 32, leBytes 8 (((lazyF s c b).core c).f[i]).toNat = coreRead s c (bankArea c b + 0x300 + 8 * i.val) 8) ∧
     ((s.core c).dOwner ≠ some b → (s.core c).usedD b = true → (∀ o, (s.core c).dOwner = some o → o = b ∨ (s.core c).bound o = false) →
       ∀ i : Fin 8, leBytes 32 (((lazyD s c b).core c).da[i]).toNat = coreRead s c (bankArea c b + 0x400 + 32 * i.val) 32) ∧
     (lazyF s c b).regs = s.regs ∧ (lazyD s c b).regs = s.regs)


/-! ## The caller and the end of a run -/

/-- Binding (R14, R68, R88, R89): in a tile in service, BIND takes the queued transaction of the tile that comes first by
priority to the in-service core with the smallest total of remaining CYCLES among those with a free bank, into its lowest free
bank; the bank has the values of program start, its scratch area and its write log are zero, its response record is the
starting one, and the transaction is bound and OWNED. Where no bank is free, the latest bound context that does not run,
has not retired COMMIT and comes after the head is wounded for a counted replay, and the head binds into its bank.
Where it rests on the model's readings, those are logs 8 and 48. -/
def Obligations.Binding : Prop :=
  ∀ (s : State) (t : TileId) (h : Txn) (c : CoreId) (b : BankId), tileInService s t = true → queueHead s t = some h →
    (h ∈ s.txns ∧ h.tile = t ∧ h.phase = .queued ∧
      ∀ x ∈ s.txns, x.tile = t → x.phase = .queued → x.si = false → older x.deadline x.an h.deadline h.an = false) ∧
    (bindPlace s t = some (c, b) →
      exec (.bind t) s = .next (bindInto s h c b) ∧
      tileOf c = t ∧ coreServes s c = true ∧ b ≠ bank15 ∧ (s.bank c b).ctx = none ∧ (∀ b', b' < b → (s.bank c b').ctx ≠ none) ∧
      (∀ d b', tileOf d = t → coreServes s d = true → b' ≠ bank15 → (s.bank d b').ctx = none →
        remainingCycles s c ≤ remainingCycles s d)) ∧
    (∀ v, bindPlace s t = none → bankVictim s t h = some v →
      (v ∈ s.txns ∧ v.owner = .owned ∧ older h.deadline h.an v.deadline v.an = true ∧
        ∃ c' b', v.phase = .bound c' b' ∧ tileOf c' = t ∧ (s.core c').cur ≠ some b') ∧
      (bindPlace (endRun (s.bump Off.LDG_WOUND_CNT) v.an .countedReplay) t = some (c, b) →
        exec (.bind t) s = .next (bindInto (endRun (s.bump Off.LDG_WOUND_CNT) v.an .countedReplay) h c b))) ∧
    (let u := bindInto s h c b
     let x := u.bank c b
     let w (n : Nat) : Word := BitVec.ofNat 64 n
     let scr := tileAddr (tileOf c).val (scratchOff s c b)
     let log := wlogAddr s c b
     x.pc = w h.pd.entry ∧ x.status = w (3 + h.pd.key % 16 * 2 ^ 20) ∧ x.bwr = 0 ∧ x.asid = w (h.pd.asid % 4096) ∧
     x.an = w h.an ∧ x.deadline = w h.deadline ∧ x.epc = 0 ∧ x.cause = 0 ∧ x.badaddr = 0 ∧ x.fpctl = 0 ∧ x.dctl = 0 ∧
     x.pend = [] ∧ x.w0 = Vector.replicate 16 0 ∧ x.w1 = Vector.replicate 16 0 ∧
     x.lo.toList = [0, w h.g1, w h.g2, w h.an, w h.deadline,
       w (h.prog % 65536 + h.pd.cls % 4 * 2 ^ 16 + h.replays % 16 * 2 ^ 18),
       w (s.getF Fld.XLT_SCR_VA_VA * 4096 + scratchOff s c b), w (h.pd.scratchKib * 1024), 0, 0, 0, 0, 0, 0, 0, 0] ∧
     x.ctx = some { an := h.an, run := h.run, block := none, usedF := false, usedD := false, mcycles := 0 } ∧
     (∀ i < h.pd.scratchKib * 1024, scr + i < h.rspPa ∨ h.rspPa + h.rspImage.length ≤ scr + i →
       coreByte u c (scr + i) = 0) ∧
     (∀ i (hi : i < h.rspImage.length), h.rspPa + i < log ∨ log + 1024 ≤ h.rspPa + i →
       coreByte u c (h.rspPa + i) = h.rspImage[i]) ∧
     (∀ i < 1024, coreByte u c (log + i) = 0) ∧
     (∀ b', b' ≠ b → u.bank c b' = s.bank c b') ∧
     (s.txn? h.an = some h → u.txn? h.an = some { h with phase := .bound c b, owner := .owned }))

/-- The end of a run (R15, R31, R35, R86, R245, R246, R252, R254): the transaction starts again from its accepted image
with its run number advanced, an empty write log and its budgets restored, counted only below REPLAY_MAX, or is declined
with its reason, its consumed cycles reported; its flag is ENDED, its bank is free, and the run is noted for the release of
its locks. An event of an earlier run, or one that finds the flag not OWNED, is discarded. -/
def Obligations.RunEnds : Prop :=
  ∀ (s : State) (an run : Nat) (e : RunEnd) (t : Txn), s.txn? an = some t →
    let u := endRun s an e
    let max := s.getF Fld.LDG_CTRL_REPLAY_MAX
    let again (n : Nat) : Txn :=
      { t with phase := .queued, run := t.run + 1, counted := n, replays := min 15 (t.replays + 1), remCyc := t.pd.cycles,
               remPke := t.pd.pkeNs, remSym := t.pd.symNs, nCrypt := 0, nLdg := 0, nRemote := 0, declPke := 0, declSym := 0,
               wlog := [], owner := .ended }
    let left : Nat := match t.phase with
      | .bound c b => (match (s.bank c b).ctx with | some x => t.pd.cycles - x.mcycles / 1000 | none => t.remCyc)
      | _ => t.remCyc
    let declined (r : Nat) : Txn :=
      { t with phase := .declined r, run := t.run + 1, wlog := [], owner := .ended, remCyc := left }
    (e = .faultReplay → u.txn? an = some (again t.counted)) ∧
    (e = .countedReplay → t.counted < max → u.txn? an = some (again (t.counted + 1))) ∧
    (e = .countedReplay → max ≤ t.counted → u.txn? an = some (declined 0x14)) ∧
    (∀ r, e = .decline r → u.txn? an = some (declined r)) ∧
    (∀ an', an' ≠ an → u.txn? an' = s.txn? an') ∧
    (∃ x, u.ldg.ended = s.ldg.ended ++ [x] ∧ x.an = an ∧ x.run = t.run) ∧ u.ldg.locks = s.ldg.locks ∧
    (∀ c b, t.phase = .bound c b → (u.bank c b).ctx = none ∧ (u.bank c b).pend = [] ∧ (u.core c).fOwner ≠ some b ∧
      (u.core c).dOwner ≠ some b) ∧
    (t.owner = .owned → t.run = run → endIfOwned s an run e = u) ∧
    (t.owner ≠ .owned → endIfOwned s an run e = s) ∧ (t.run ≠ run → endIfOwned s an run e = s)

/-- The caller's events (R33, R34, R86, R87, R93, R100 to R102, R112, R245, R399, R400): each acts where its condition
holds. A stop makes the first runnable context current at an empty prefetch queue and keeps the retired stores; a timer at or
past its time wakes its context; a cut-off declines; QUAR, 10,000 cycles in bank 15, or an exception there quarantine the
context that bank 15 serves, with the cause of the trap that entered it; a boundary response and a machine check replay; a
wound replays and is counted.
Where it rests on the model's readings, those are logs 8 and 46. -/
def Obligations.CallerEvents : Prop :=
  ∀ (s : State) (c : CoreId) (b n : BankId) (x : Ctx) (t : Txn) (kd : Boundary),
    ((s.core c).cur = some b → (s.core c).best = some n → b ≠ bank15 → b ≠ n → (s.core c).wait = none →
      (s.core c).svc = .inService → ((s.core c).bank n).before ((s.core c).bank b) = true →
      exec (.callerStop c) s =
        .next (s.modCore c fun k => { k with cur := some n, pq := [], win := [], need := none })) ∧
    ((s.core c).cur = some bank15 → exec (.callerStop c) s = .next s) ∧
    ((s.bank c b).ctx = some x →
      (∀ w, x.block = some (.timer w) → w ≤ s.now → exec (.timerExpiry c b) s = .next (wake s c b)) ∧
      (requestOut s c b x = true →
        exec (.boundaryResponse c b kd) s = .next (endIfOwned s x.an x.run .faultReplay)) ∧
      (s.mchks.contains (x.an, x.run) = true → exec (.machineCheck c b) s =
        .next (endIfOwned { s with mchks := s.mchks.filter fun p => p != (x.an, x.run) } x.an x.run .faultReplay)) ∧
      (s.ldg.wounds.contains (x.an, x.run) = true → s.txn? x.an = some t → t.owner = .owned → t.run = x.run →
        exec (.wound c b) s =
          .next (endRun (({ s with ldg := { s.ldg with
            wounds := s.ldg.wounds.filter fun p => p != (x.an, x.run) } } : State).bump Off.LDG_WOUND_CNT) x.an .countedReplay)) ∧
      (s.txn? x.an = some t → t.owner = .owned → t.pd.cycles * 1000 < x.mcycles →
        ((s.core c).b15 = none → exec (.budgetExceeded c b) s = .next (endRun s x.an (.decline 0x10))) ∧
        (∀ y, (s.core c).b15 = some y → y.bank = b →
          exec (.budgetExceeded c b) s = .next (quarantine s c b y.cause 0x10)))) ∧
    (s.txn? t.an = some t → t.undecided = true → t.jsn = none → t.deadline ≤ s.now + t.egress →
      (∀ c' b', t.phase = .bound c' b' → (s.core c').b15 = none ∧ ∃ y, (s.bank c' b').ctx = some y ∧ y.an = t.an) →
      exec (.deadlineAlarm t.an) s = .next (endRun s t.an (.decline 0x13))) ∧
    (∀ y, (s.core c).cur = some bank15 → (s.core c).b15 = some y →
      (10000000 ≤ y.mcycles → exec (.bank15Timeout c) s = .next (quarantine s c y.bank y.cause 0x15)) ∧
      (∀ ps, Ready s c bank15 4 ps → (s.bank c bank15).user = false → exec (.quar c) s =
        .next (quarantine (fetched s c bank15 ps) c y.bank y.cause 0x15)) ∧
      (∀ (cause : Nat) (bad epc : Word), cause ≠ poisonCause →
        takeTrap s c bank15 cause bad epc = quarantine s c y.bank cause 0x15)) ∧
    ((s.bank c b).ctx = some x → s.txn? x.an = some t → ∀ cause reason : Nat,
      ∃ left, (quarantine s c b cause reason).txn? x.an =
        some { t with phase := .declined reason, run := t.run + 1, wlog := [], owner := .ended, remCyc := left })

/-- Blocking and waking (R31, R86, R91 to R93, R112, R196): WAITT retires, its context waits for the timer with its cycles
reported, and the core goes to the first runnable context or idles, at an empty prefetch queue; the retired stores stay in
the store queue. A wake makes the context runnable again, and an idle core takes it. -/
def Obligations.Blocking : Prop :=
  ∀ (s : State) (c : CoreId) (k : BankId) (ps : List (Phys × Nat)) (a : Reg) (why : Block) (x : Ctx) (t : Txn),
    k ≠ bank15 → (s.bank c k).ctx = some x →
    (Ready s c k 4 ps →
      exec (.waitt c a) s = .next (blockOn (fetched s c k ps) c k (.timer (s.g c k a).toNat))) ∧
    (s.txn? x.an = some t → (s.core c).cur = some k → (s.core c).svc = .inService →
      let u := blockOn s c k why
      u.bank c k = { s.bank c k with pc := (s.bank c k).pc + 4, ctx := some { x with block := some why } } ∧
      u.txn? x.an = some { t with remCyc := t.pd.cycles - x.mcycles / 1000 } ∧
      (u.core c).cur ≠ some k ∧ (u.core c).cur = (u.core c).best ∧ (u.core c).pq = [] ∧ (u.core c).sq = (s.core c).sq ∧
      u.mem = s.mem ∧ u.regs = s.regs) ∧
    (let u := wake s c k
     u.bank c k = { s.bank c k with ctx := some { x with block := none } } ∧
     ((s.core c).cur ≠ none → (u.core c).cur = (s.core c).cur) ∧
     ((s.core c).cur = none → (s.core c).svc = .inService → (u.core c).cur = (u.core c).best) ∧
     u.mem = s.mem ∧ u.regs = s.regs ∧ u.txns = s.txns)

/-- The events of the pipeline (R107, R108, R118, R131, R335, R397 to R399, R414, R415, R419): a fetch word enters a queue
that has room in a cycle in which the data side leaves the port free; its bytes come from the L1, once queued stores to them
are written, and a failed check leaves a fault mark. An unacknowledged posted store and an access that times out take MCHK,
0x01, with BADADDR the address that the instruction used, counted where host memory failed; the watchdog, a wait bound other
than MEM and OLDEST, and an error that the scrub cannot correct stop the core: it is out of service, nothing is current, its
queues are empty, its ready map bit is clear, and a machine check is on its way to every bound context.
Where it rests on the model's readings, those are logs 9, 46 and 63. -/
def Obligations.PipelineEvents : Prop :=
  ∀ (s : State) (c : CoreId) (k : BankId) (word : Nat) (code : Fin 7) (addr : Word),
    (fetchBank s c = some k →
      ((s.core c).port = true →
        exec (.instructionFetch c) s = .next (s.modCore c fun m => { m with port := false })) ∧
      ((s.core c).port = false → (s.core c).pq.length < 4 → s.getF Fld.MPU_STATUS_DRAINING ≠ 1 →
        let va := match (s.core c).pq.getLast? with
          | some w => (w.addr + 16) % 2 ^ 64
          | none => (s.bank c k).pc.toNat / 16 * 16
        (∀ p, checkPart s c k .fetch va 16 = .ok p →
          ((∀ w o, targetOf p.pa ≠ .window w o) →
            let u := l1Access (settleFetch (markUse s c p.tlb) c p.pa) c false p.pa 16
            exec (.instructionFetch c) s = .next (u.modCore c fun m =>
              { m with pq := m.pq ++ [{ addr := va, pa := p.pa, bytes := some (u.rd p.pa 16) }] })) ∧
          (∀ w o, targetOf p.pa = .window w o →
            (∀ bs, windowHave (s.core c) p 16 = .ok bs → exec (.instructionFetch c) s =
              .next ((markUse s c p.tlb).modCore c fun m =>
                { m with pq := m.pq ++ [{ addr := va, pa := p.pa, bytes := some bs }] })) ∧
            (∀ n, windowHave (s.core c) p 16 = .error n → (s.core c).wait = none →
              exec (.instructionFetch c) s = .next (windowBytes s c k n)))) ∧
        (∀ e, checkPart s c k .fetch va 16 = .error e → exec (.instructionFetch c) s = .next (s.modCore c fun m =>
          { m with pq := m.pq ++ [{ addr := va, pa := 0, bytes := none }] })))) ∧
    (readyBank s c = some k →
      (∀ p rest, (s.core c).posted = p :: rest → exec (.asyncMchk c) s =
        .next (settleSyncs (trapMchk (countHostError (s.modCore c fun m => { m with posted := rest }) p.req.isNone) c k
          (BitVec.ofNat 64 p.va)))) ∧
      exec (.microcodeWatchdog c) s = .next (faultStop s c) ∧
      (code = 0 → exec (.waitBoundExpiry c code addr) s = .next (trapMchk s c k addr)) ∧
      (code = 5 → exec (.waitBoundExpiry c code addr) s = .next s) ∧
      (code ≠ 0 → code ≠ 5 → exec (.waitBoundExpiry c code addr) s = .next (faultStop s c))) ∧
    (accessBank s c = some k → exec (.accessTimeout c addr) s =
      .next (settleSyncs (trapMchk (countHostError (s.modCore c fun m => { m with wait := none })
        (reachesHost s c k addr.toNat)) c k addr))) ∧
    (trapMchk s c k addr = takeTrap (logTrapMchk s c k addr) c k 0x01 addr (s.bank c k).pc) ∧
    (exec (.controlStoreScrub c word .clean) s = .next s) ∧
    (word < 16384 → exec (.controlStoreScrub c word .uncorrectable) s = .next (faultStop s c)) ∧
    (word < 16384 → (s.core c).svc = .inService → exec (.controlStoreScrub c word .single) s =
      .next (s.report { island := c.val / 4, unit := c.val % 4, cls := .core, severity := 0, detail := word })) ∧
    exec (.coreFaultStop c) s = .next (faultStop s c) ∧
    ((s.core c).svc = .inService →
      let u := faultStop s c
      (u.core c).svc = .testing ∧ (u.core c).cur = none ∧ (u.core c).wait = none ∧ (u.core c).sq = [] ∧
      (u.core c).pq = [] ∧ (u.core c).posted = [] ∧
      u.mchks = s.mchks ++ (s.core c).runs ∧ u.core c = { u.core c with banks := (s.core c).banks, tlb := (s.core c).tlb } ∧
      (u.getF (Fld.ERR_CORE_MAP_INSVC (c.val / 64))).testBit (c.val % 64) = false ∧ u.mem = s.mem ∧
      ∀ d, d ≠ c → u.core d = s.core d)

/-! ## The ledger instructions -/

/-- Issue of the ledger instructions (R33, R236, R237, R240): with the unit enabled, the bench online, room in the write
log and both operands checked, the request carries the operation, the bench, the hash of the key and the captured data to
the ledger store that holds the key, and the context waits for its response; one operation of the run is counted. A budget
that would be exceeded ends the run. A disabled unit, a bench number or a buffer address out of form, a bench that is not
online and a full write log raise LDG_OP, 0x28; then an operand's failed check raises its own cause. -/
def Obligations.LedgerIssue : Prop :=
  ∀ (s : State) (c : CoreId) (k : BankId) (ps : List (Phys × Nat)) (r ky n : Reg) (op : LOp) (t : Txn)
    (kp bp : List (Phys × Nat)), Ready s c k 4 ps → k ≠ bank15 →
    let u := fetched s c k ps
    let i : Instr := match op with
      | .ldl => .ldl c r ky n
      | .ldlu => .ldlu c r ky n
      | .stl => .stl c r ky n
      | .del => .del c ky n
    let gr := match op with | .del => 0 | _ => (s.g c k r).toNat
    let gk := (s.g c k ky).toNat
    let gn := (s.g c k n).toNat
    let x := s.bench gn
    let d := ledgerRead u c op kp bp
    let v := markParts (markParts d.2.2 c kp) c bp
    let h := x.hashOf d.1
    let far := decide (ownerOf v x h ≠ v.node)
    let q : LReq :=
      { an := t.an, run := t.run, core := c, bank := k, op := op, bench := gn, hash := h, key := d.1,
        buf := physParts bp, data := (d.2.1.drop x.dataOff).take x.dataLen, akey := (v.bank c k).key, user := (v.bank c k).user,
        deadline := t.deadline, st := .waiting, peer := none, remote := none, sent := [] }
    let room := logRoom u (logOf u t) gn op (peekKey u c k gk x.klen)
    ctxTxn u c k = some t →
    (s.getF Fld.LDG_CTRL_ENABLE ≠ 0 → gn < 256 → x.online = true → gr % 64 = 0 → peekAsks u c k gk x.klen = none →
      (room = true → ledgerParts u c k op gk gr x.klen x.recSize = .ok (kp, bp) → AsksNone d.2.2 c →
        (overLedger t far = true → exec i s = .next (cutOff v c k 0x12)) ∧
        (overLedger t far = false → exec i s = .next (issueOp (blockOn (v.modTxn t.an fun t =>
          if far then { t with nRemote := t.nRemote + 1 } else { t with nLdg := t.nLdg + 1 }) c k .ledger) q))) ∧
      (room = false → exec i s = .next (takeTrap u c k 0x28 0 (s.bank c k).pc)) ∧
      (∀ e, room = true → ledgerParts u c k op gk gr x.klen x.recSize = .error e →
        exec i s = .next (takeTrap u c k e.cause (BitVec.ofNat 64 e.bad) (s.bank c k).pc))) ∧
    (s.getF Fld.LDG_CTRL_ENABLE = 0 ∨ 256 ≤ gn ∨ (s.bench (gn % 256)).online = false ∨ gr % 64 ≠ 0 →
      exec i s = .next (takeTrap u c k 0x28 0 (s.bank c k).pc))

/-- Locks (R243 to R245, R319): a request whose key no other transaction holds in conflict, and no earlier request
waits for, takes its lock at once; else it waits, and each conflicting local holder of later priority is wounded; a holder
of earlier priority is not. Nothing else of the ledger state changes.
Where it rests on the model's reading, that is log 48. -/
def Obligations.LedgerLocks : Prop :=
  ∀ (s : State) (r : LReq), r.peer = none → r.remote = none →
    (∀ l ∈ s.ldg.locks, l.node = s.node) →
    let s1 : State := { s with ldg := { s.ldg with reqs := s.ldg.reqs ++ [r] } }
    let u := requestLock s r
    (grantable s1 r = true →
      (∃ l ∈ u.ldg.locks, l.bench = r.bench ∧ l.hash = r.hash ∧ l.an = r.an ∧ l.run = r.run ∧
        (r.op.excl = true → l.excl = true)) ∧
      (∃ q ∈ u.ldg.reqs, q = { r with st := .granted }) ∧ u.ldg.wounds = s.ldg.wounds) ∧
    (grantable s1 r = false →
      u.ldg.locks = s.ldg.locks ∧ r ∈ u.ldg.reqs ∧
      (∀ l ∈ conflicting s r, older r.deadline r.an l.deadline l.an = true → (l.an, l.run) ∈ u.ldg.wounds) ∧
      (∀ p ∈ u.ldg.wounds, p ∈ s.ldg.wounds ∨
        ∃ l ∈ conflicting s r, older r.deadline r.an l.deadline l.an = true ∧ p = (l.an, l.run))) ∧
    u.ldg.slots = s.ldg.slots ∧ u.ldg.ended = s.ldg.ended ∧ u.mem = s.mem ∧ u.cores = s.cores ∧ u.txns = s.txns

/-- The response to a ledger instruction and the release of an ended run (R237 to R239, R242, R246, R257): a refused
operation answers CC 3; a granted one is checked again and acts under its lock on what the run sees, is counted, answers its
CC, and enters the write log: LDL and LDLU CC 0 with the record, or CC 1; STL CC 0 on a key that is there, CC 1 on one that
it inserts, CC 2 where the bench is full; DEL CC 0 or 1. One that would read lost data ends its run. After RUN_END_RELEASE
the ended run holds no lock and no request.
Where it rests on the model's readings, those are logs 7, 45 and 48. -/
def Obligations.LedgerResponses : Prop :=
  ∀ (s : State) (c : CoreId) (b : BankId) (r : LReq) (t : Txn),
    (s.ldg.reqs.find? fun r => r.core == c && r.bank == b && r.peer.isNone && r.remote.isNone &&
      decide (r.st ≠ .waiting) && reqLive s r) = some r →
    let s1 := mpuSettled (dropLReq s r.an r.run)
    s1.txn? r.an = some t →
    let w := settleRun s1 t
    let l := logOf w t
    let act := ledgerAct w r.an r.run r.bench r.hash l r.op r.key
    (r.st = .refused → exec (.ledgerResponse c b) s = .next (wake (s1.setCC c b 3) c b)) ∧
    (r.st ≠ .refused →
      (∀ m, refuseOp w r.initiator r.bench l r.op r.key r.akey = some m → exec (.ledgerResponse c b) s =
        .next (regrant (wake ((undoLock m r l).setCC r.core r.bank 3) r.core r.bank))) ∧
      (refuseOp w r.initiator r.bench l r.op r.key r.akey = none →
        (opPoisoned w r.bench l r.op r.key = false →
          exec (.ledgerResponse c b) s = .next (respond (act.2.bump Off.LDG_OPS_CNT) r act.2.node act.1)) ∧
        (opPoisoned w r.bench l r.op r.key = true →
          exec (.ledgerResponse c b) s = .next (endIfOwned w r.an r.run .faultReplay)))) ∧
    (let v := viewOf w l r.bench r.key
     let x := w.bench r.bench
     (∀ e, v = .own e → act.1.cc = 0 ∧ (r.op = .ldl ∨ r.op = .ldlu → act.1.record = imageOf w e)) ∧
     (∀ slot, v = .record slot → act.1.cc = 0 ∧
       (r.op = .ldl ∨ r.op = .ldlu → act.1.record = w.rd (x.slotAddr slot) x.recSize)) ∧
     (v = .absent → r.op ≠ .stl → act.1.cc = 1 ∧ act.1.record = []) ∧
     (v = .absent → r.op = .stl → (∀ e, logEntry l r.bench r.key = some e → e.op ≠ .remove) →
       act.1.cc = (if (insertSlot w r.bench x r.hash true).isSome then 1 else 2))) ∧
    (∀ e : EndedRun, (s.ldg.ended.filter fun q => q.an == e.an) = [e] →
      exec (.runEndRelease e.an) s = .next (releaseEnded s e)) ∧
    (∀ an run, (∀ l ∈ (releaseRun s an run).ldg.locks, ¬(l.an = an ∧ l.run = run)) ∧
      (∀ q ∈ (releaseRun s an run).ldg.reqs, ¬(q.an = an ∧ q.run = run)) ∧
      (s.ldg.slots = [] → s.ldg.reqs = [] →
        (releaseRun s an run).ldg.locks = s.ldg.locks.filter fun l => !(l.an == an && l.run == run)))

/-- COMMIT and ABORT (R91, R242, R249, R250, R324): COMMIT retires, its context waits for JNL with its write log as the tile
store then holds it, the owner flag is COMMITTING, and every other node that the write log names is asked to prepare; ABORT
ends the run, declined with its reason, or replayed where bit 8 is set, and is counted. ABORT with a word of another form
raises LDG_OP, as both do with the unit disabled.
Where it rests on the model's reading, that is log 45. -/
def Obligations.CommitAndAbort : Prop :=
  ∀ (s : State) (c : CoreId) (k : BankId) (ps : List (Phys × Nat)) (a : Reg) (t : Txn), Ready s c k 4 ps → k ≠ bank15 →
    let u := fetched s c k ps
    let v := (s.g c k a).toNat
    let pc := (s.bank c k).pc
    (s.getF Fld.LDG_CTRL_ENABLE ≠ 0 → ctxTxn u c k = some t →
      (let w := blockOn (settleRun u t) c k .commit
       let l := logOf w t
       let z := (copyResponse w t).modTxn t.an fun t => { t with owner := .committing, wlog := l }
       exec (.commit c) s = .next (sendPrepares z { t with wlog := l }) ∧
       (∀ x, z.txn? t.an = some x → x.owner = .committing ∧ x.wlog = l) ∧
       (∀ x, (w.bank c k).ctx = some x → x.block = some .commit) ∧
       ((∀ e ∈ l, e.node = z.node) → exec (.commit c) s = .next z) ∧
       (∀ e ∈ l, e.node ≠ z.node → ∃ p ∈ (sendPrepares z { t with wlog := l }).kol.preps,
         p.an = t.an ∧ p.run = t.run ∧ (e.node, none) ∈ p.answers)) ∧
      (v < 512 → 0x40 ≤ v % 256 → v % 256 ≤ 0x7F →
        exec (.abort c a) s = .next (endRun ((reportCycles u c k).bump Off.LDG_ABORT_CNT) t.an
          (if v.testBit 8 then .countedReplay else .decline (v % 256))))) ∧
    (¬(v < 512 ∧ 0x40 ≤ v % 256 ∧ v % 256 ≤ 0x7F) → exec (.abort c a) s = .next (takeTrap u c k 0x28 0 pc)) ∧
    (s.getF Fld.LDG_CTRL_ENABLE = 0 →
      exec (.commit c) s = .next (takeTrap u c k 0x28 0 pc) ∧ exec (.abort c a) s = .next (takeTrap u c k 0x28 0 pc))

/-- CRYPT (R33, R260, R261): with the unit enabled and a descriptor that its limits allow, the checked parts, the cost and
the keys become a job that waits for an engine; the cost is written back, the run's operations are counted, and the context
waits. Beyond the budget the run is cut off. A misaligned descriptor, a disabled unit, and a descriptor outside its limits
raise CRY_OP, 0x29, with BADADDR the descriptor's address.
Where it rests on the model's reading, that is log 7. -/
def Obligations.CryptIssue : Prop :=
  ∀ (s : State) (c : CoreId) (k : BankId) (ps : List (Phys × Nat)) (a : Reg) (q q' i x o : List (Phys × Nat)) (t : Txn),
    Ready s c k 4 ps → k ≠ bank15 →
    let u := fetched s c k ps
    let ga := s.g c k a
    let pc := (s.bank c k).pc
    let bad : Host.Outcome State Fault Refusal := .next (takeTrap u c k 0x29 ga pc)
    (s.getF Fld.CRY_CTRL_ENABLE = 0 → exec (.crypt c a) s = bad) ∧
    (ga.toNat % 64 ≠ 0 → exec (.crypt c a) s = bad) ∧
    (s.getF Fld.CRY_CTRL_ENABLE ≠ 0 → ga.toNat % 64 = 0 → q ≠ [] →
      checkRange u c k .read ga.toNat 64 = .ok q → checkRange u c k .write ga.toNat 64 = .ok q' →
      let r := readParts u c q
      let d := readDesc r.1
      let v := markParts r.2 c q
      let key := v.keyOf 0 d.key1
      let ty := match key with | some y => y.type | none => 0
      let m := takenModulus key d
      let cost := costOf d ty m (takenExponent v key)
      AsksNone v c →
      (descOk d ty m = false → exec (.crypt c a) s = .next (takeTrap v c k 0x29 ga pc)) ∧
      (∀ e, descOk d ty m = true → checkBuffers v c k d = .error e →
        exec (.crypt c a) s = .next (takeTrap v c k e.cause (BitVec.ofNat 64 e.bad) pc)) ∧
      (descOk d ty m = true → checkBuffers v c k d = .ok (i, x, o) → ctxTxn v c k = some t →
        (overCrypto t (opEngine d.op) cost = true → exec (.crypt c a) s = .next (cutOff v c k 0x11)) ∧
        (overCrypto t (opEngine d.op) cost = false → ∀ p l rest, q = (p, l) :: rest →
          let w := issueJob { v with freeCtr := v.freeCtr + 1 } c k t d p.pa cost i x o
          exec (.crypt c a) s = .next w ∧
          (∃ j, w.cry.jobs = v.cry.jobs ++ [j] ∧ j.an = t.an ∧ j.run = t.run ∧ j.core = c ∧ j.bank = k ∧ j.op = d.op ∧
            j.cost = cost ∧ j.key1 = d.key1 ∧ j.key2 = d.key2 ∧ j.inp = physParts i ∧ j.aux = physParts x ∧
            j.out = physParts o ∧ j.st = .waiting) ∧
          w.rd (p.pa + 0x2C) 4 = leBytes 4 cost ∧
          (∀ y, (w.bank c k).ctx = some y → y.block = some .crypto) ∧
          (∀ y, w.txn? t.an = some y → y.nCrypt = t.nCrypt + 1))))

/-! ## Network ports and the translator -/

/-- The receive path of a port (R44, R46, R348): a frame with a wrong FCS changes nothing; a good frame within the MTU
goes by its type: PAUSE and checksum errors are counted, a segment of a connection goes to it, and any other frame to the host.
An acceptable RST closes its connection. TXQ_TRANSMIT reads the descriptor that the host has written, sends the frame of a valid
one, skips and counts any other, and takes the entry (R349). A port of the MODE in force that trains is up (R43, R55); one that
fails is down, and with its partner down its connections are handed back, else with failover on they move to the partner (R54).
Where it rests on the model's readings, those are logs 3, 16, 29 and 61. -/
def Obligations.NetworkPorts : Prop :=
  ∀ (s : State) (p : Fin 8) (bs : List Byte) (cause : PortCause),
    let frame := bs.take (bs.length - 4)
    let etype := fldBe frame 12 2
    let body := frame.drop 14
    (leNat (bs.drop (bs.length - 4)) ≠ ethFcs frame → exec (.frameReceive p bs) s = .next s) ∧
    (portServes s p = true → 18 ≤ bs.length → leNat (bs.drop (bs.length - 4)) = ethFcs frame → etype ≠ 0x8100 →
      frame.length ≤ s.getF (Fld.NET_PORT_MTU p.val) + 14 →
      exec (.frameReceive p bs) s = .next (takeFrame s p frame etype body) ∧
      (etype = 0x8808 → fldBe body 0 2 = 1 → takeFrame s p frame etype body = s.bump Off.NET_PAUSE_CNT) ∧
      (etype = 0x0800 → s.getF Fld.NET_CTRL_PTP_EN ≠ 1 →
        (readIpv4 body = .bad → takeFrame s p frame etype body = s.bump Off.NET_CSUM_CNT) ∧
        (readIpv4 body = .host → takeFrame s p frame etype body = giveHost s p frame 0) ∧
        (∀ x, readIpv4 body = .seg x → connOf s p x = none → takeFrame s p frame etype body = giveHost s p frame 0) ∧
        (∀ x c, readIpv4 body = .seg x → connOf s p x = some c →
          takeFrame s p frame etype body = takeSegment s c x))) ∧
    (∀ (c : Conn) (x : Seg), x.odd = false → acceptable c x (recvWindow s c) = true → x.flags.testBit 2 = true →
      takeSegment s c x = closeConn s c 0x02) ∧
    (∀ (d b : List Byte) (v : State),
      let u := hostPuts s ringTXQ d
      ringHasEntry u ringTXQ = true → islandRead u .hif (slotPa u ringTXQ (u.ring ringTXQ).cons) 64 = (some b, v) →
      (txDescOk v b = true → ringRuns (sendHostFrame v b) ringTXQ = true →
        exec (.txqTransmit d) s = .next (takeEntry (sendHostFrame v b) ringTXQ)) ∧
      (txDescOk v b = false → ringRuns (v.bump Off.HIF_RINGERR_CNT) ringTXQ = true →
        exec (.txqTransmit d) s = .next (takeEntry (v.bump Off.HIF_RINGERR_CNT) ringTXQ))) ∧
    (portGrouped s p = true → RefClk.eth ∉ s.pwr.clkLost → ∃ t, exec (.portLinkUp p) s = .next t ∧
      t.getF (Fld.NET_PORT_STATUS_LINK_UP p.val) = 1 ∧ t.mem = s.mem ∧ t.net = s.net) ∧
    (portGrouped s p = false ∨ RefClk.eth ∈ s.pwr.clkLost → exec (.portLinkUp p) s = .next s) ∧
    (s.getF (Fld.NET_PORT_STATUS_LINK_UP p.val) = 1 →
      let s1 := faultHold ((s.setF (Fld.NET_PORT_STATUS_LINK_UP p.val) 0).report
        { island := 38, unit := p.val, cls := .eth, severity := 1 })
      (portLinkUp s (partner p) = true → standinService s = false → s.getF Fld.NET_CTRL_FAILOVER_EN = 1 →
        exec (.portFail p cause) s = .next (failOver s1 p)) ∧
      (portLinkUp s (partner p) = false → exec (.portFail p cause) s =
        .next ((portConns s p ++ portConns s (partner p)).foldl (fun s c => closeConn s c 0x09) s1))) ∧
    (s.getF (Fld.NET_PORT_STATUS_LINK_UP p.val) ≠ 1 → exec (.portFail p cause) s = .next s)

/-- The events of a connection (R46, R47, R49 to R51): the segment of the connection with the earliest deadline is sent;
a retransmission timeout halves the flight for the threshold, sends the first unacknowledged bytes again with the doubled
timeout, and at the last retry hands the connection back with reason 7; the delayed acknowledgement, the probe of a closed
window, and the persist limit, reason 8; a drained connection is handed back; responses beyond the stall bound are counted
once. A connection that is handed back with no message waiting is gone, and each of its responses is a CONN_GONE
completion.
Where it rests on the model's readings, those are logs 16 and 29. -/
def Obligations.ConnectionEvents : Prop :=
  ∀ (s : State) (c : Conn) (h : Nat),
    (s.open? h = some c →
      (∀ t, c.tcp.rtoAt = some t → t ≤ s.now → s.getF Fld.NET_TCP_RETRIES ≤ c.tcp.tries + 1 →
        exec (.retransmitTimeout h) s = .next (closeConn s c 0x07)) ∧
      (∀ t, c.tcp.rtoAt = some t → t ≤ s.now → c.tcp.tries + 1 < s.getF Fld.NET_TCP_RETRIES →
        let rto := min (1000000 * s.getF Fld.NET_TCP_RTO_MAX_MS) (max (1000 * s.getF Fld.NET_TCP_RTO_MIN_US) (2 * c.tcp.rto))
        let c1 : Conn := { c with tcp := { c.tcp with
          ssthresh := max (seqDist c.tcp.una c.tcp.max_ / 2) (2 * c.mss s), cwnd := c.mss s,
          nxt := (c.tcp.una + resendLen s c) % 2 ^ 32, dup := 0, recover := none, high := some c.tcp.max_, rto := rto,
          rtoAt := some (s.now + rto), tries := c.tcp.tries + 1, timed := none } }
        exec (.retransmitTimeout h) s = .next (resendFirst (putConn s c1) c1)) ∧
      (∀ t, c.ackAt = some t → t ≤ s.now → exec (.delayedAckTimer h) s = .next (sendSegment s c c.tcp.nxt false [])) ∧
      (∀ t, c.tcp.closedAt = some t → c.tcp.probeAt ≤ s.now → c.sbuf ≠ [] → rekeyOver c = false →
        let c1 : Conn := { c with tcp := { c.tcp with probeAt := s.now + clampRto s (s.now - t) } }
        exec (.zeroWindowProbe h) s = .next (sendProbe (noteRekey s c1) c1)) ∧
      (∀ t, c.tcp.closedAt = some t → t + 1000000 * s.getF Fld.NET_STALL_PERSIST_MAX_MS < s.now →
        exec (.persistLimit h) s = .next (closeConn s c 0x08)) ∧
      (∀ r, c.st = .draining r → inflight s c = 0 → c.rsps = [] → c.sbuf = [] →
        exec (.handbackComplete h) s = .next (closeConn s c r)) ∧
      (let late (r : NRsp) : Bool := !r.stalled && waitsWindow c r && decide (r.at_ + s.getF Fld.NET_STALL_STALL_NS < s.now)
       exec (.stallBoundExpiry h) s = .next (putConn (s.bump Off.NET_STALL_CNT (c.rsps.countP late))
         { c with rsps := c.rsps.map fun r => if late r then { r with stalled := true } else r }))) ∧
    (∀ (p : Fin 8) (c1 : Conn), portLinkUp s p = true → nextSender s p = some c →
      rekeyOver (readyToSend s c) = false →
      (noteRekey s (readyToSend s c)).conn? (readyToSend s c).h (readyToSend s c).gen = some c1 →
      let s1 := noteRekey s (readyToSend s c)
      exec (.segmentTransmit p) s = .next (sendBytes s1 c1 (sendable s1 c1))) ∧
    (∀ reason, c.msgs = [] → s.getF Fld.MPU_STATUS_DRAINING ≠ 1 →
      (∀ x ∈ (closeConn s c reason).net.conns, ¬(x.h = c.h ∧ x.gen = c.gen)) ∧
      (closeConn s c reason).hif.cpls.length = s.hif.cpls.length + c.rsps.length ∧
      ∀ q ∈ (closeConn s c reason).hif.cpls, q ∈ s.hif.cpls ∨ (q.status = 0x04 ∧ q.conn = some c.h))

/-- Admission (R21, R22, R29, R31, R32, R343): after release ADM takes the next message of a connection, or of the
submission ring whose turn it is, and decides it. The tests of R29 in order refuse with LATE 3, FULL 4, PKE 5, SYM 6 or CORE
7, count the refusal, and leave a busy response due; a message that passes is accepted with the next AN of the device and
counted, on the tile with the most slack.
Where it rests on the model's readings, those are logs 13, 14 and 40. -/
def Obligations.Admission : Prop :=
  ∀ (s : State), 
    (∀ (h : Nat) (c : Conn) (bs : List Byte) (tin : Nat) (t : List (List Byte × Nat)), s.getF Fld.BOOT_STATUS_PHASE = 6 →
      framedConn s h = some c → c.msgs = (bs, tin) :: t → bootPhase (dropIfEmpty s { c with msgs := t }) = 6 →
      exec (.admission (.conn h)) s = .next (admitMsg (dropIfEmpty s { c with msgs := t })
        { src := .conn c.h c.gen c.tag, tin := tin, dialect := c.dialect, bytes := bs, note := false })) ∧
    (∀ n : Fin 16, s.getF Fld.BOOT_STATUS_PHASE = 6 → nextSq s = some n →
      exec (.admission (.sq n)) s = .next (takeFromSq s n)) ∧
    (∀ (m : Taken) (dtab prog key : Nat) (pd : Budget),
      let deadline := m.tin + s.getF (Fld.ADM_CLASS_DEADLINE_NS pd.cls)
      let margin := pd.blockNs + s.getF Fld.ADM_EGRESS_NS
      let st := bucketStarts s
      let b := bucketOf st (deadline - margin)
      let u := testMsg s m dtab prog key pd
      let no (r : Nat) : State := { s.bump (Off.ADM_REFUSE_CNT (r - 1)) with busy := s.busy ++
        [{ at_ := s.now, src := m.src, dialect := m.dialect, dtab := dtab, si := false, msg := m.bytes, reason := r }] }
      let room := s.txns.countP Txn.undecided < 65536
      let pke := fits s st .pke b pd.pkeNs
      let sym := fits s st .sym b pd.symNs
      let tile := bestTile s st b (allTiles.filter (tileTakes s st b pd.cycles))
      (deadline ≤ s.now + margin → u = no 3) ∧
      (s.now + margin < deadline → ¬room → u = no 4) ∧
      (s.now + margin < deadline → room → pke = false → u = no 5) ∧
      (s.now + margin < deadline → room → pke = true → sym = false → u = no 6) ∧
      (s.now + margin < deadline → room → pke = true → sym = true → tile = none → u = no 7) ∧
      (∀ t, s.now + margin < deadline → room → pke = true → sym = true → tile = some t →
        u = acceptMsg s m deadline dtab prog key b pd t ∧
        ∃ x, u.txns = s.txns ++ [x] ∧ x.an = s.getF Fld.ADM_ANSEQ_DEVICE_ID * 2 ^ 54 + s.getF Fld.ADM_ANSEQ_NEXT ∧
          x.deadline = deadline ∧ x.tin = m.tin ∧ x.tile = t ∧ x.phase = .parse ∧ x.msg = m.bytes ∧ x.prog = prog ∧
          x.jsn = none ∧ x.counted = 0 ∧ x.remCyc = pd.cycles)) ∧
    (∀ m : Taken, s.getF Fld.ADM_CTRL_ENABLE = 0 ∨ s.getF Fld.XLT_CTRL_ENABLE = 0 →
      admitMsg s m = refuseMsg (dialectEntry s m.dialect).2 m (dialectEntry s m.dialect).1 2 false)

/-- The lanes of XLT (R16, R35, R66, R67, R72 to R77, R265): a lane in service takes the work that comes first. A message
that parses becomes a request and a response record and joins the tile queue; one that does not is answered from template 1
with the error's code; a refused message is answered from template 0; a cut-off one from its decline template; a committed
response is serialised, or, where its record is at fault, answered from template 2. A response that needs a MAC waits for a
SYM job on the cluster of its lane, charged to the program, and goes on with it. XLT_CTRL.ENABLE takes its value.
Where it rests on the model's readings, those are logs 25, 31 and 50. -/
def Obligations.Translation : Prop :=
  (∀ (s : State) (v : Bool), ∃ u, exec (.xltEnableWrite v) s = .next u ∧
    u.getF Fld.XLT_CTRL_ENABLE = (if v then 1 else 0) ∧ u.mem = s.mem ∧ u.txns = s.txns ∧ u.cores = s.cores) ∧
  ∀ (s s1 : State) (lane : Fin 32) (d : Dialect) (t : Txn), laneServes s lane = true →
    (laneTxn s lane = some t →
      (t ∈ s.txns ∧ ∀ j ∈ laneJobs s lane, older j.deadline j.an t.deadline t.an = false) ∧
      (dialectAt s t.si t.dtab = (some d, s1) →
        (t.phase = .parse → exec (.xltParse lane) s = .next (releaseProgress (parseTxn s1 lane d t)) ∧
          ∀ e, (parseMsg d t.msg true).err = some e → parseTxn s1 lane d t = sendTempl s1 lane d t 1 e true) ∧
        (∀ reason, t.phase = .declined reason → exec (.technicalDecline lane) s =
          .next (releaseProgress (sendTempl s1 lane d t t.pd.declineTpl { code := reason, off := 0, fid := 0 } true))) ∧
        (t.phase = .committed →
          (∀ tpl, t.tpl = some tpl → exec (.xltSerialise lane) s =
            .next (releaseProgress (sendTempl s1 lane d t tpl { code := 0, off := 0, fid := 0 } true))) ∧
          (t.tpl = none → exec (.xltSerialise lane) s = .next (releaseProgress (serialiseTxn s1 lane d t)) ∧
            ∀ rec_ s2, xltRead s1 t.si t.rspPa (recAreas s1 d t).rspMax = (some rec_, s2) →
              let w := serialiseRecord d rec_ (recAreas s1 d t).rspMax
              (∀ bs n, w = .bytes bs n → serialiseTxn s1 lane d t = handWhenReady
                ((s2.bump Off.XLT_SUBST_CNT n).modTxn t.an fun t => { t with rsp := some bs, phase := .serialised }) t.an) ∧
              (∀ m, w = .mac m →
                serialiseTxn s1 lane d t = issueMac s2 lane d (.committed t.an) t.deadline t.an t.run m) ∧
              (∀ e, w = .error e → serialiseTxn s1 lane d t = sendTempl s2 lane d t 2 e true))))) ∧
    (∀ b s2, laneBusy s lane = some b →
      let s0 : State := { s with busy := s.busy.erase b }
      (dialectAt s0 b.si b.dtab = (none, s2) → exec (.xltEchoScan lane) s = .next (releaseProgress (handBusy s2 b []))) ∧
      (dialectAt s0 b.si b.dtab = (some d, s2) →
        exec (.xltEchoScan lane) s = .next (releaseProgress (sendBusy s2 lane d b true)) ∧
        ∀ bs n s3, templated s2 d 0 (hexReason b.reason) (parseMsg d b.msg false) true = (.bytes bs n, s3) →
          sendBusy s2 lane d b true = handBusy (s3.bump Off.XLT_SUBST_CNT n) b bs)) ∧
    (∀ tpl e s2, t.tpl = none →
      let r := templated s1 d tpl (hexReason e.code) (t.echoOf d) true
      (∀ bs n reason, t.phase = .declined reason → r = (.bytes bs n, s2) → sendTempl s1 lane d t tpl e true =
        handTxn (s2.bump Off.XLT_SUBST_CNT n) { t with rsp := some bs, code := e.code }) ∧
      (∀ bs n, t.phase = .parse → r = (.bytes bs n, s2) → sendTempl s1 lane d t tpl e true =
        handTxn (noteXltErr ((s2.bump Off.XLT_SUBST_CNT n).bump Off.XLT_PERR_CNT) t.dialect e)
          { t with rsp := some bs, code := e.code }) ∧
      (∀ m, r = (.mac m, s2) → sendTempl s1 lane d t tpl e true =
        issueMac s2 lane d (.templated t.an tpl e.code e.off e.fid) t.deadline t.an t.run m)) ∧
    (∀ what deadline an run m,
      let u := issueMac s1 lane d what deadline an run m
      (∃ j, u.cry.jobs = s1.cry.jobs ++ [j] ∧ j.kind = .sym ∧ j.op = macOp d.macAlg ∧ j.key1 = d.macKey ∧ j.data = m.input ∧
        j.cluster = 3 * lane.val / 16 ∧ j.deadline = deadline ∧ j.an = an ∧ j.run = run ∧ j.st = .waiting ∧
        (s1.txn? an = some t → t.run = run → u.txn? an = some { t with declSym := t.declSym + j.cost })) ∧
      ∃ w, u.xlt = s1.xlt ++ [w] ∧ w.lane = lane ∧ w.what = what) ∧
    (∀ w mac, macOutcome s w = some (0x01, mac) → laneResume s w =
      macDone { s with
        xlt := s.xlt.filter fun x => x.job != w.job,
        cry := { s.cry with jobs := s.cry.jobs.filter fun j => j.id != w.job } } w mac) ∧
    (∀ w an mac, w.what = .committed an → macDone s w mac =
      handWhenReady ((s.bump Off.XLT_SUBST_CNT w.subst).modTxn an fun t =>
        { t with rsp := some (w.pre ++ (if w.hex then macHex mac else mac) ++ w.post), phase := .serialised }) an)

/-! ## The journal -/

/-- JSN assignment, completion and the mirror (R250 to R252, R280, R284 to R287, R324 to R326, R330): a COMMIT whose log
is valid takes the next JSN, without a gap, and is committed; one that is not valid ends as R252 says; one that finds no room
waits. A record completes in JSN order with its leaf and chain hashes. A group that reaches 64 KiB, or the age GROUP_NS,
closes and goes to its targets in turn, on MIR in PCIe mode with a read after it; the last acknowledgement marks its
records, and a late group is marked late and counted.
Where it rests on the model's readings, those are logs 33, 34 and 62. -/
def Obligations.JournalCommit : Prop :=
  ∀ (s : State) (t : Txn) (r : JRec) (g : MGroup),
    (s.txn? t.an = some t → t.owner = .committing → t.jsn = none →
      (∀ e, validate s t = .refuse e → exec (.jsnAssignment t.an) s = .next (endRun s t.an e)) ∧
      (validate s t = .pass → canAssign s = true → exec (.jsnAssignment t.an) s = .next (commitTxn s t)) ∧
      (validate s t = .pass → canAssign s = false → exec (.jsnAssignment t.an) s = .next (noteFull s)) ∧
      (s.getF Fld.MPU_STATUS_DRAINING ≠ 1 →
        (commitTxn s t).txn? t.an = some { t with phase := .committed, owner := .ended, jsn := some s.jnl.next } ∧
        (commitTxn s t).jnl.next = s.jnl.next + 1)) ∧
    (∀ (hd : JHead) (body : List Byte),
      let u := assignRec s hd body
      u.jnl.next = s.jnl.next + 1 ∧ u.reg Off.JNL_LAST_JSN = s.jnl.next % 2 ^ 64 ∧ u.mem = s.mem ∧
      ∃ x, u.jnl.recs = s.jnl.recs ++ [x] ∧ x.jsn = s.jnl.next ∧ x.epoch = s.getF Fld.JNL_STATUS_EPOCH ∧
        x.complete = false ∧ x.bytes = recordOf s.node s.jnl.next (s.getF Fld.JNL_STATUS_EPOCH) s.now hd body) ∧
    ((s.jnl.recs.find? fun x => !x.complete) = some r → s.getF Fld.MPU_STATUS_DRAINING ≠ 1 →
      ∃ u, exec (.recordComplete) s = .next u ∧
      u.jnl.chain = sha384 (2 :: (s.jnl.chain ++ sha384 (0 :: r.bytes))) ∧
      (∃ x ∈ u.jnl.recs, x.jsn = r.jsn ∧ x.bytes = r.bytes ∧ x.complete = true ∧ x.leaf = sha384 (0 :: r.bytes) ∧
        x.chain = u.jnl.chain) ∧ u.jnl.next = s.jnl.next) ∧
    (∀ bs, s.jnl.group = some g →
      let g1 : MGroup := { g with jsns := g.jsns ++ [r.jsn], bytes := g.bytes ++ bs }
      let u := groupAppend s r bs
      (65536 ≤ (g.bytes ++ bs).length → u.jnl.group = none ∧ u.jnl.due = s.jnl.due ++ [g1]) ∧
      ((g.bytes ++ bs).length < 65536 → u.jnl.group = some g1 ∧ u.jnl.due = s.jnl.due)) ∧
    (let u := closeExpired s
     (∀ rest, u.jnl.due = g :: rest → exec (.mirrorGroupSend) s = .next (sendGroup u g)) ∧
     (s.jnl.group = some g → g.at_ + s.getF Fld.JNL_MIRROR_GROUP_NS ≤ s.now →
       u.jnl.group = none ∧ u.jnl.due = s.jnl.due ++ [g]) ∧
     (s.jnl.group = some g → s.now < g.at_ + s.getF Fld.JNL_MIRROR_GROUP_NS → u = s)) ∧
    (toHost s = false → sendGroup s g = groupSent (mirrorToPeer s g) g) ∧
    (∃ x ∈ (groupSent s g).jnl.sent, x.first = g.first ∧ x.bytes = g.bytes ∧ x.at_ = s.now ∧ x.host = toHost s ∧
      x.peer = toPeer s ∧ x.late = false) ∧
    (toHost s = true → s.getF Fld.HIF_STATUS_MODE = 1 → ∃ a, (groupSent s g).out = s.out ++ [.hostRead a 8]) ∧
    (s.getF Fld.HIF_STATUS_MODE ≠ 0 → (s.jnl.sent.find? fun g => g.host) = some g →
      exec (.mirrorAck .host) s = .next (ackTarget s g true)) ∧
    (∀ (h : KHdr) (first glen : Nat), Arrives s h →
      let u := linkReceive s h
      (u.jnl.sent.find? fun g => g.peer && g.first == first && g.bytes.length == glen) = some g →
      h.src = u.getF Fld.JNL_MIRROR_PEER → exec (.mirrorAck (.kolat h first glen)) s = .next (ackTarget u g false)) ∧
    (g.peer = false → ackTarget s g true = ackGroup s { g with host := false }) ∧
    (s.txns = [] → ∀ x ∈ (ackGroup s g).jnl.recs, x.jsn ∈ g.jsns → x.acked = true) ∧
    ((s.jnl.sent.find? fun g => decide (g.at_ + s.getF Fld.JNL_MIRROR_TARGET_NS < s.now) && (!g.late || g.peer)) = some g →
      exec (.mirrorTargetTimeout) s = .next (markLate s g) ∧
      (g.late = false → g.peer = false → (markLate s g).getF Fld.JNL_STATUS_MIRROR_LATE = 1 ∧
        (markLate s g).reg Off.JNL_MLATE_CNT = (s.reg Off.JNL_MLATE_CNT + 1) % 2 ^ 64))

/-- Epochs, seals and export (R265, R288 to R295, R311, R312, R314, R330): at its seam an epoch closes and the next opens with
a head record; an epoch whose records are complete has its seal signed by a job on CRYPTO.0 with the deadline of R293; one
that is late past STRAGGLER_NS is marked and counted; a seal that is signed is journalled and the next one chains to it, one
that could not be signed sets SEAL_FAIL and is tried again; export entries leave in order; a global seal is formed by the
acting lead after its wait or with every seal, journalled once where it arrives, and a node's seal is kept by the lead; a
mirrored group is appended in order.
Where it rests on the model's readings, those are logs 28, 31, 33 and 38. -/
def Obligations.JournalEpochs : Prop :=
  ∀ (s : State) (e : JEpoch),
    (∀ seam tk, nextSeam s = some (seam, tk) → seam ≤ s.now →
      (s.jnl.running = true → canAssign (areaSwitch s) = true →
        exec (.epochSeam) s = .next (doSeam (areaSwitch s) seam tk) ∧
        ∃ x y, (doSeam (areaSwitch s) seam tk).jnl.closing = s.jnl.closing ++ [x] ∧ x.seamClose = seam ∧
          x.last + 1 = max 1 s.jnl.next ∧ x.first = s.jnl.first ∧
          (doSeam (areaSwitch s) seam tk).jnl.recs = s.jnl.recs ++ [y] ∧ y.kind = 3 ∧ y.jsn = s.jnl.next) ∧
      (s.jnl.running = false → ∀ t, tk = some t → exec (.epochSeam) s = .next (cascadeSeam s t))) ∧
    (openEpoch s = some e → epochComplete s e = true →
      exec (.epochClose) s = .next (signNext (modEpoch s e.first fun e => { e with st := .signing }))) ∧
    ((s.jnl.closing.find? fun e => decide (e.st = .closing) && !epochComplete s e && !bitAt e.flags 0 &&
        decide (e.seamClose + s.getF Fld.JNL_EPOCH_STRAGGLER_NS ≤ s.now)) = some e →
      exec (.stragglerTimeout) s = .next (modEpoch ((s.setF Fld.JNL_STATUS_STRAG_LATE 1).bump Off.JNL_STRAG_CNT) e.first
        fun e => { e with flags := putBits e.flags 0 1 1 })) ∧
    (sealEpoch s = some e →
      (e.retryAt = 0 → signJob s (.seal e.first) = none → ∃ j, (signNext s).cry.jobs = s.cry.jobs ++ [j] ∧
        j.who = .seal e.first ∧ j.kind = .pke ∧ j.op = 0x31 ∧ j.cluster = 0 ∧ j.an = 0 ∧ j.st = .waiting ∧
        j.key1 = s.getF Fld.JNL_SEAL_SLOT ∧ j.deadline = e.seamClose + s.getF Fld.JNL_EPOCH_STRAGGLER_NS + 1000000) ∧
      (0 < e.retryAt → e.retryAt ≤ s.now →
        exec (.sealRetry) s = .next (signNext (modEpoch s e.first fun e => { e with retryAt := 0 }))) ∧
      (∀ j, signJob s (.seal e.first) = some j →
        (signOutcome j = some none → ∃ t, exec (.sealComplete) s = .next t ∧ t.getF Fld.JNL_STATUS_SEAL_FAIL = 1 ∧
          ∀ x ∈ t.jnl.closing, x.first = e.first → x.retryAt = s.now + 1000000) ∧
        (∀ bs, signOutcome j = some (some bs) → s.jnl.running = true → canAssign s = true →
          ∃ t, exec (.sealComplete) s = .next t ∧ t.jnl.prevSeal = sha384 bs ∧
            ∃ y ∈ t.jnl.recs, y.jsn = s.jnl.next ∧ y.kind = 4))) ∧
    (∀ bs t s1 i, s.jnl.exports = bs :: t → postBytes s ringEXP bs = .done s1 i →
      exec (.exportPost) s = .next { s1 with jnl := { s1.jnl with exports := t } }) ∧
    (∀ bs s1 s2 i, s.jnl.exports = [] → nextExport s = some (bs, s1) → postBytes s1 ringEXP bs = .done s2 i →
      exec (.exportPost) s = .next s2) ∧
    (∀ w rest, s.kol.gwaits = w :: rest → s.getF Fld.KOL_STATUS_ACTING_LEAD ≠ 0 → signJob s (.gseal w.gepoch) = none →
      (w.seam + 1000 * s.getF Fld.JNL_GSEAL_WAIT_US ≤ s.now ∨ (w.members.all fun n => (sealOf s w.gepoch n).isSome) = true) →
      exec (.gsealWaitExpiry) s = .next (formGseal s w) ∧
      ∃ j, (formGseal s w).cry.jobs = s.cry.jobs ++ [j] ∧ j.who = .gseal w.gepoch ∧ j.kind = .pke ∧ j.op = 0x31 ∧
        j.key1 = s.getF Fld.JNL_SEAL_GSLOT ∧ j.deadline = w.seam + 1000 * s.getF Fld.JNL_GSEAL_WAIT_US + 1000000) ∧
    (s.getF Fld.KOL_STATUS_ACTING_LEAD = 0 → exec (.gsealWaitExpiry) s = .next s) ∧
    (∀ (h : KHdr) (bs : List Byte), Arrives s h →
      let u := linkReceive s h
      ((∀ g, u.kol.gseen = some g → g < fld bs 0 4) → 4 ≤ bs.length → canAssign u = true → ∃ t,
        exec (.gseal h bs) s = .next t ∧ t.jnl.next = u.jnl.next + 1 ∧ t.kol.gseen = some (fld bs 0 4) ∧
        (keepsChain u = true → t.kol.gprev = some (sha384 (sliceOf bs 0 512)))) ∧
      (∀ g, u.kol.gseen = some g → fld bs 0 4 ≤ g → 4 ≤ bs.length → exec (.gseal h bs) s = .next u) ∧
      (∀ gepoch, u.getF Fld.KOL_STATUS_ACTING_LEAD = 1 →
        (u.kol.gwaits.any fun w => w.gepoch == gepoch && !w.formed) = true →
        exec (.sealMessage h gepoch bs) s = .next { u with kol := { u.kol with
          seals := u.kol.seals ++ [(h.src, gepoch, sha384 (sliceOf bs 0 336))] } }) ∧
      (∀ first : Nat, (u.kol.mrx.any fun m => m.src == h.src && m.first == first) = false →
        (islandWrite u .kol (u.getF (Fld.MPU_APTR_APTR (u.getF Fld.KOL_MRX_RGN))) bs).1 = true → h.last = true → bs ≠ [] →
        exec (.mirror h first 0 bs) s =
          let w := (islandWrite u .kol (u.getF (Fld.MPU_APTR_APTR (u.getF Fld.KOL_MRX_RGN))) bs).2
          .next (kolSend { w with kol := { w.kol with mrx := u.kol.mrx.filter fun m => !(m.src == h.src && m.first == first) } }
            { type := 0x23, dest := h.src, an := h.an, deadline := h.deadline, tag := h.tag,
              body := leBytes 8 first ++ leBytes 4 bs.length ++ zeros 4 })))

/-! ## Kolat -/

/-- Links, lead and time in a cascade (R300 to R302, R305, R306, R309, R312 to R315, R318, R323): a message out of order is
discarded with one NAK, one for another node goes on, and each other does on its port in service what its rule says; a NAK
resends every kept flit after its ACK, and a flit resent RETRY_MAX times fails the port, which loses its state; a recovered
one is up; a higher lead generation is followed, a lower TICK is discarded, one for a seam that has passed names no seam, a
missed TICK names the next; the time offset is the mean of both differences; map entries are kept until the generation is full.
Where it rests on the model's readings, those are logs 19, 35, 39 and 61. -/
def Obligations.CascadeLinks : Prop :=
  ∀ (s : State) (h : KHdr) (p : Fin 8),
    let u := linkReceive s h
    (s.getF (Fld.KOL_PORT_STATUS_LINK_UP h.port.val) ≠ 0 → ∀ type body f rev,
      (linkInOrder s h = false → onMessage s h type body f rev = linkDiscard s h.port h.vc.val) ∧
      (linkInOrder s h = true → h.dest ≠ s.node → onMessage s h type body f rev = kolForward u h (msgOf h type body) rev)) ∧
    (Arrives s h →
      (∀ node (bond : Fin 8) (rec_ : Bool), exec (.linkstate h node bond rec_) s =
        .next (noteAbsences u { u with kol := { u.kol with down := (u.kol.down.filter fun x => x != (node, bond.val)) ++
          (if rec_ then [] else [(node, bond.val)]) } })) ∧
      (∀ lgen (route : Bool) sent, ∃ t, exec (.heartbeat h lgen route sent) s = .next t ∧ t.kol.hbAt = s.now ∧
        (u.getF Fld.KOL_STATUS_LGEN < lgen → lgen < 65536 → t.getF Fld.KOL_STATUS_LGEN = lgen ∧ t.kol.lead = h.src ∧
          t.getF Fld.KOL_STATUS_ACTING_LEAD = (if h.src = u.node then 1 else 0)) ∧
        (lgen ≤ u.getF Fld.KOL_STATUS_LGEN → t.getF Fld.KOL_STATUS_LGEN = u.getF Fld.KOL_STATUS_LGEN ∧
          t.kol.lead = u.kol.lead)) ∧
      (∀ lgen lead, ∃ t, exec (.takeover h lgen lead) s = .next t ∧
        (u.getF Fld.KOL_STATUS_LGEN < lgen → lgen < 65536 → t.getF Fld.KOL_STATUS_LGEN = lgen ∧ t.kol.lead = lead ∧
          t.getF Fld.KOL_STATUS_ACTING_LEAD = (if lead = u.node then 1 else 0)) ∧
        (lgen ≤ u.getF Fld.KOL_STATUS_LGEN → t = u)) ∧
      (∀ seam gepoch gen lgen,
        (lgen < u.getF Fld.KOL_STATUS_LGEN → exec (.tick h seam gepoch gen lgen) s = .next u) ∧
        (u.getF Fld.KOL_STATUS_LGEN ≤ lgen → ∃ t, exec (.tick h seam gepoch gen lgen) s = .next t ∧
          ((∀ l, u.kol.lastSeam = some l → l.seam < seam) →
            t.kol.tick = some { seam := seam, gepoch := gepoch, gen := gen }) ∧
          (∀ l, u.kol.lastSeam = some l → seam ≤ l.seam → t.kol.tick = u.kol.tick))) ∧
      (∀ t1, actingLead u = true → exec (.timeRequest h t1) s =
        .next (kolSendReserved u { type := 0x05, dest := h.src, body := timeBody 1 t1 s.now s.now })) ∧
      (∀ t1 t2 t3 : Nat,
        let ofs : Int := (((t1 : Int) - t2) + ((s.now : Int) - t3)) / 2
        (ofs.natAbs ≤ u.getF Fld.KOL_TIME_SKEW_NS →
          exec (.timeAnswer h t1 t2 t3) s = .next (u.setF Fld.KOL_TIME_OFS_OFS (ofSigned 64 ofs))) ∧
        (u.getF Fld.KOL_TIME_SKEW_NS < ofs.natAbs → ∃ t, exec (.timeAnswer h t1 t2 t3) s = .next t ∧
          t.getF Fld.KOL_STATUS_SKEW = 1)) ∧
      (∀ gen first es, u.kol.map = none → u.getF Fld.KOL_STATUS_SMAP_GEN < gen → es.length < 65536 →
        ∃ t m, exec (.map h gen first es) s = .next t ∧ t.kol.map = some m ∧ m.gen = gen ∧ m.full = false ∧
          ∀ i, i < es.length → (first + i, es.getD i 0) ∈ m.entries)) ∧
    (s.getF (Fld.KOL_PORT_STATUS_LINK_UP p.val) ≠ 0 →
      (∀ ack,
        let again := (s.kol.ports[p].sent.filter fun q => !seqLe q.seq ack).map fun q => { q with resends := q.resends + 1 }
        let s1 := s.modPort p fun k => { k with sent := again }
        let s2 := ({ s1 with out := s1.out ++ again.reverse.map fun q => Emit.flit p q.bytes } : State).bump Off.KOL_RETRY_CNT
          again.length
        exec (.linkResend p (.nak ack)) s =
          .next (if (again.any fun q => decide (s.getF Fld.KOL_LINK_RETRY_MAX ≤ q.resends)) then failKport s2 p else s2)) ∧
      (s.kol.ports[p].naked = false → exec (.linkResend p .badFlit) s =
        .next (sendControl (s.modPort p fun k => { k with naked := true }) p 0 true)) ∧
      (s.kol.ports[p].naked = true → exec (.linkResend p .badFlit) s = .next s)) ∧
    (exec (.kportFail p .alignment) s = .next (failKport s p) ∧
      exec (.kportFail p .fecRate) s = .next (failKport (s.bump Off.KOL_FECUNC_CNT) p)) ∧
    (RefClk.kol ∈ s.pwr.clkLost → exec (.bondRecover p) s = .next s) ∧
    (bondOf (s.getF Fld.KOL_CTRL_TOPO) p < 8 → s.getF (Fld.KOL_PORT_STATUS_LINK_UP p.val) = 0 → s.kol.down = [] →
      RefClk.kol ∉ s.pwr.clkLost →
      exec (.bondRecover p) s = .next (((s.setF (Fld.KOL_PORT_STATUS_LINK_UP p.val) 1).setF
        (Fld.KOL_PORT_STATUS_NEIGHBOUR p.val) (kolNeighbour s p)).modPort p fun _ => KPort.reset)) ∧
    (let dest := if actingLead s then s.getF Fld.KOL_ROLE_DEPUTY else s.kol.lead
     let m (rev : Bool) : KMsg := {
       type := 0x01, dest := dest,
       body := leBytes 2 (s.getF Fld.KOL_STATUS_LGEN) ++ [byte (b2n rev)] ++ zeros 5 ++ leBytes 8 s.now }
     (actingLead s = true ∨ isDeputy s = true) → dest ≠ s.node →
       exec (.heartbeatSend) s = .next (kolSend (kolSend s (m false)) (m true) true)) ∧
    (s.kol.hbAt + 1000 * s.getF Fld.KOL_LEAD_LOSS_US ≤ s.now →
      (isDeputy s = true → ∃ t, exec (.leadLossTimeout) s = .next t ∧ t.getF Fld.KOL_STATUS_ACTING_LEAD = 1 ∧
        t.getF Fld.KOL_STATUS_LGEN = (s.getF Fld.KOL_STATUS_LGEN + 1) % 65536 ∧ t.kol.lead = s.node) ∧
      (actingLead s = true → exec (.leadLossTimeout) s = .next (s.setF Fld.KOL_STATUS_NO_DEPUTY 1))) ∧
    (actingLead s = true → s.kol.tick = none → s.now + 500000 ≤ (leadSeam s).1 → ∃ t, exec (.tickSend) s = .next t ∧
      t.kol.tick = some { seam := (leadSeam s).1, gepoch := (leadSeam s).2, gen := newestGen s }) ∧
    (∀ t, s.kol.lastSeam = some t → s.kol.tick = none → t.seam + 1000 * s.getF Fld.JNL_EPOCH_LEN_US ≤ s.now + 100000 →
      ∃ v, exec (.tickMiss) s = .next v ∧ v.getF Fld.KOL_STATUS_TICK_MISS = 1 ∧
        v.kol.tick = some { seam := t.seam + 1000 * s.getF Fld.JNL_EPOCH_LEN_US, gepoch := t.gepoch + 1,
                            gen := s.getF Fld.KOL_STATUS_SMAP_GEN }) ∧
    (actingLead s = false → s.getF Fld.KOL_CTRL_TOPO ≠ 0 → exec (.timeExchange) s =
      .next (kolSend s { type := 0x05, dest := s.kol.lead, body := timeBody 0 s.now 0 0 })) ∧
    (∀ v : Bool, ∃ t, exec (.kolEnableWrite v) s = .next t ∧ t.getF Fld.KOL_CTRL_ENABLE = (if v then 1 else 0) ∧
      t.kol = s.kol ∧ t.mem = s.mem)

/-- Remote operations, cross-shard commit and windows (R199, R311, R317 to R321, R323 to R329): an owner takes or refuses a
peer's operation; an answer reaches the context that waits for it; PREPARE marks the run's reservations or says LOST; APPLY
writes and remembers a committed run, and a repeated one is only answered; RELEASE, a lease that expires and a hold that
expires drop what was kept; an unanswered request times out; a window request is performed as class KOL and its answer
completes the load or the store.
Where it rests on the model's readings, those are logs 30, 36 and 37. -/
def Obligations.CascadeOperations : Prop :=
  ∀ (s : State) (h : KHdr),
    let u := linkReceive s h
    let run := tagRun h.tag
    (Arrives s h →
      (∀ op bench (kh : Word) (key data : List Byte),
        let r : LReq :=
          { an := h.an, run := run, core := 0, bank := 0, op := lopOf op, bench := bench, hash := kh.toNat, key := key,
            buf := [], data := data, akey := h.key % 16, user := false, deadline := h.deadline, st := .waiting,
            peer := some (h.src, h.tag), remote := none, sent := [] }
        let x := u.bench bench
        let v := mpuSettled u
        (kolEnabled u = true → markOf u h.an run = none → ownerOf u x kh.toNat = u.node → frozenKey u x kh.toNat = false →
          (refuseOp v .kol bench (rsvLog v h.an run) (lopOf op) key (h.key % 16) = none →
            exec (.lop h op bench kh key data) s = .next (requestLock v r)) ∧
          (∀ w, refuseOp v .kol bench (rsvLog v h.an run) (lopOf op) key (h.key % 16) = some w →
            exec (.lop h op bench kh key data) s = .next (answerLop w r { cc := 3, record := [], slot := none }))) ∧
        (kolEnabled u = false ∨ (markOf u h.an run).isSome = true ∨ ownerOf u x kh.toNat ≠ u.node ∨
            frozenKey u x kh.toNat = true →
          exec (.lop h op bench kh key data) s = .next (answerLop u r { cc := 3, record := [], slot := none }))) ∧
      (∀ cc record no node at_ an run' c b r, u.kreq? (tagNo h.tag) = some { no := no, node := node, at_ := at_, what := .lop an run' c b } →
        ((dropReq u no).ldg.reqs.find? fun r => r.an == an && r.run == run' && r.remote == some (h.src, no)) = some r →
        reqLive (dropLReq (dropReq u no) an run') r = true →
        exec (.lopRsp h cc record) s = .next (
          let v := dropLReq (dropReq u no) an run'
          if cc = 3 then wake (v.setCC c b 3) c b else respond v r h.src { cc := cc, record := record, slot := none })) ∧
      (∀ nrsv,
        (markOf u h.an run = none → (u.kol.rsv.countP fun v => v.an == h.an && v.run == run && rsvHeld u v) = nrsv →
          exec (.prepare h nrsv) s = .next (answerPrepare { u with kol := { u.kol with rsv := u.kol.rsv.map fun v =>
            if v.an = h.an ∧ v.run = run then { v with prepared := true } else v } } h 1)) ∧
        (markOf u h.an run = none → (u.kol.rsv.countP fun v => v.an == h.an && v.run == run && rsvHeld u v) ≠ nrsv →
          exec (.prepare h nrsv) s = .next (answerPrepare u h (if u.kol.lost.contains (h.an, run) then 3 else 2))) ∧
        ((markOf u h.an run).isSome = true → exec (.prepare h nrsv) s = .next (answerPrepare u h 2))) ∧
      (∀ result no node at_ an run', u.kreq? (tagNo h.tag) = some { no := no, node := node, at_ := at_, what := .prepare an run' } →
        exec (.prepRsp h result) s = .next (putAnswer (dropReq u no) an run' node result)) ∧
      (∀ jsn,
        (markOf u h.an run = none → ((rsvLog u h.an run).any WEntry.writes = true → canAssign u = true) → exec (.apply h jsn) s =
          .next (answerApply (applyRsv u h.an run h.src jsn).2 h jsn (applyRsv u h.an run h.src jsn).1)) ∧
        (∀ m j part, markOf u h.an run = some m → m.applied = some (j, part) →
          exec (.apply h jsn) s = .next (answerApply u h jsn part))) ∧
      (∀ ref part, (u.kol.applies.any fun a => a.an == h.an && a.run % 16 == run && a.node == h.src && a.jsn == ref) = true →
        exec (.applied h ref part) s = .next { u with kol := { u.kol with applies := u.kol.applies.filter fun a =>
          !(a.an == h.an && a.run % 16 == run && a.node == h.src && a.jsn == ref) } }) ∧
      (∀ a d t, u.txn? h.an = some t → t.run % 16 = run →
        exec (.woundMessage h a d) s = .next (woundRun u t.an t.run)) ∧
      (markOf u h.an run = none → exec (.kolRelease h) s =
        let v := freeRsv { u with kol := { u.kol with lost := u.kol.lost.filter fun p => p != (h.an, run) } } h.an run
        .next { v with kol := { v.kol with marks :=
          { an := h.an, run := run, until_ := u.now + 1000 * u.getF Fld.KOL_E2E_HOLD_US, applied := none } :: v.kol.marks } }) ∧
      (∀ off size,
        let a := off % 2 ^ 40
        (backed u a && backed u (a + size - 1)) = true →
        (∀ bs s1, poisoned u a size = false → islandRead u .kol a size = (some bs, s1) →
          exec (.wread h off size) s = .next (answerWindow s1 h 0 bs)) ∧
        (∀ data : Word, exec (.wwrite h off size data) s =
          let r := islandWrite u .kol a (leBytes size data.toNat)
          .next (answerWindow r.2 h (if r.1 then 0 else 1) []))) ∧
      (∀ status (data : Word) no node at_ c,
        (u.kreq? (tagNo h.tag) = some { no := no, node := node, at_ := at_, what := .wread c } →
          exec (.winRsp h status data) s = .next (settleSyncs (windowDone (dropReq u no) c no status data.toNat))) ∧
        (u.kreq? (tagNo h.tag) = some { no := no, node := node, at_ := at_, what := .wwrite c } →
          exec (.winRsp h status data) s =
            .next (settleSyncs ((dropReq u no).modCore c fun k =>
              { k with posted := k.posted.filter fun p => p.req != some no }))))) ∧
    (∀ c b no va pa size v via, (s.core c).wait = some (.bytes no va pa size via) → (s.core c).cur = some b →
      let s1 := s.modCore c fun k => { k with wait := none }
      windowDone s c no 0 v = s1.modCore c (fun k => { k with win := cellsAt pa (leBytes size v) ++ k.win }) ∧
      windowDone s c no 1 v = takeTrap s1 c b 0x16 (BitVec.ofNat 64 va) (s.bank c b).pc) ∧
    (∀ c b no va d size (sx fp : Bool) v via, (s.core c).wait = some (.window no va d size sx fp via) →
      (s.core c).cur = some b →
      let s1 := s.modCore c fun k => { k with wait := none }
      windowDone s c no 0 v = advancePc (putLoaded s1 c b d sx fp size (v % 2 ^ (8 * size))) c b 4 ∧
      windowDone s c no 1 v = takeTrap s1 c b 0x16 (BitVec.ofNat 64 va) (s.bank c b).pc) ∧
    (∀ an node a, (s.kol.applies.find? fun a => a.an == an && a.node == node &&
        decide (a.at_ + s.getF Fld.KOL_E2E_TIMEOUT_NS ≤ s.now)) = some a →
      exec (.applyResend an node) s = .next (kolSend
        { s with kol := { s.kol with applies := s.kol.applies.map fun x => if x = a then { a with at_ := s.now } else x } }
        { type := 0x32, dest := node, an := an, deadline := a.deadline, tag := a.tag, body := leBytes 8 a.jsn })) ∧
    (∀ r, s.ldg.reqs = [r] → r.st = .waiting → exec (.woundResend r.an) s =
      .next (r.sent.foldl (fun s k => woundMessage s r k) s)) ∧
    (∀ r ∈ s.ldg.reqs, ∀ k : Lock, k.node ≠ s.node →
      ∃ q ∈ (sendWound s r k).ldg.reqs, q.an = r.an ∧ q.run = r.run ∧ k ∈ q.sent) ∧
    (∀ an run', (s.kol.rsv.any fun v => v.an == an && v.run == run' && !v.prepared &&
        decide (v.deadline + 1000 * s.getF Fld.KOL_E2E_LEASE_US ≤ s.now)) = true →
      exec (.reservationLeaseExpiry an run') s = .next (freeRsv s an run')) ∧
    (∀ an run', exec (.holdExpiry an run') s = .next { s with kol := { s.kol with
      marks := s.kol.marks.filter fun m => !(m.an == an && m.run == run' && decide (m.until_ ≤ s.now)) } }) ∧
    (∀ r, s.kreq? r.no = some r → r.at_ + s.getF Fld.KOL_E2E_TIMEOUT_NS ≤ s.now →
      let v := (dropReq s r.no).bump Off.KOL_TIMEOUT_CNT
      (∀ an run' c b, r.what = .lop an run' c b → exec (.kolTimeout r.no) s = .next (endIfOwned v an run' .faultReplay)) ∧
      (∀ an run', r.what = .prepare an run' → exec (.kolTimeout r.no) s = .next (putAnswer v an run' r.node 4)) ∧
      (∀ c b va d size sx fp via, r.what = .wread c → (s.core c).wait = some (.window r.no va d size sx fp via) →
        (s.core c).cur = some b →
        exec (.kolTimeout r.no) s = .next (trapMchk (v.modCore c fun k => { k with wait := none }) c b (BitVec.ofNat 64 va))) ∧
      (∀ c, r.what = .wwrite c → exec (.kolTimeout r.no) s = .next v))

/-! ## Host rings -/

/-- The start of a ring and its doorbells (R335 to R337, R340, R341): when ENABLE goes to 1 the doorbell word becomes both
indices; a refused read stops the ring with ERR 2. A snoop in CXL mode and a poll in PCIe mode issue reads of the lines of
running rings; a completed read gives the new index, kept with its DEVTIME on a submission ring, or, for an impossible
value, stops the ring with ERR 1. A stop counts in HIF_RINGERR_CNT and touches no other ring. A failed access of the ring
itself stops it; a failure of another access is counted, and that access then ends as a refused one.
Where it rests on the model's readings, those are logs 18 and 32. -/
def Obligations.RingsAndDoorbells : Prop :=
  ∀ (s : State) (r : RingId),
    (let s0 := (s.setF (Fld.HIF_RING_CFG_ENABLE r.val) 1).setF (Fld.HIF_RING_STATE_ERR r.val) 0
     s.getF (Fld.HIF_RING_CFG_ENABLE r.val) = 0 →
      (∀ bs, islandRead s0 (ringClass r) (doorbellPa s r) (ringIdxBytes r) = (some bs, s0) →
        ∃ t, exec (.ringEnable r) s = .next t ∧ (t.ring r).prod = leNat bs ∧ (t.ring r).cons = leNat bs ∧
          t.getF (Fld.HIF_RING_STATE_RUN r.val) = 1 ∧ t.getF (Fld.HIF_RING_STATE_ERR r.val) = 0 ∧
          t.getF (Fld.HIF_RING_IDX_IDX r.val) = leNat bs % 2 ^ 64 ∧ t.mem = s.mem ∧ ∀ q, q ≠ r → t.ring q = s.ring q) ∧
      (∀ s1, islandRead s0 (ringClass r) (doorbellPa s r) (ringIdxBytes r) = (none, s1) →
        exec (.ringEnable r) s = .next (stopRing s1 r 2))) ∧
    (s.getF (Fld.HIF_RING_CFG_ENABLE r.val) = 1 → exec (.ringEnable r) s = .next s) ∧
    (∀ err, err < 16 →
      let t := stopRing s r err
      t.getF (Fld.HIF_RING_STATE_RUN r.val) = 0 ∧ t.getF (Fld.HIF_RING_STATE_ERR r.val) = err ∧
      t.reg Off.HIF_RINGERR_CNT = (s.reg Off.HIF_RINGERR_CNT + 1) % 2 ^ 64 ∧ t.mem = s.mem ∧ t.txns = s.txns ∧
      ∀ q, q ≠ r → t.ring q = s.ring q) ∧
    (s.getF Fld.HIF_STATUS_MODE = 2 → ringRuns s r = true →
      exec (.doorbellSnoop r) s = .next (s.modRing r fun x => { x with reading := true })) ∧
    (s.getF Fld.HIF_STATUS_MODE ≠ 2 → exec (.doorbellSnoop r) s = .next s) ∧
    (s.getF Fld.HIF_STATUS_MODE = 1 → ∃ t, exec (.doorbellPoll) s = .next t ∧ t.regs = s.regs ∧ t.mem = s.mem ∧
      ∀ q, t.ring q = { s.ring q with reading := ringRuns s q || (s.ring q).reading }) ∧
    ((s.ring r).reading = true → ringRuns s r = true →
      let s1 := s.modRing r fun x => { x with reading := false }
      (∀ bs, islandRead s1 (ringClass r) (doorbellPa s r) (ringIdxBytes r) = (some bs, s1) →
        (hostProduced r = true → ringDist r (s.ring r).cons (leNat bs) ≤ ringSize s r → leNat bs ≠ (s.ring r).prod →
          exec (.doorbellRead r) s = .next (s1.modRing r fun y =>
            { y with prod := leNat bs, seen := (if 8 ≤ r.val then y.seen ++ [(leNat bs, s.now)] else y.seen) })) ∧
        (hostProduced r = true → leNat bs = (s.ring r).prod → ringDist r (s.ring r).cons (leNat bs) ≤ ringSize s r →
          exec (.doorbellRead r) s = .next s1) ∧
        (hostProduced r = false → ringDist r (leNat bs) (s.ring r).prod ≤ ringSize s r →
          exec (.doorbellRead r) s = .next (s1.modRing r fun y => { y with cons := leNat bs })) ∧
        (ringSize s r < (if hostProduced r = true then ringDist r (s.ring r).cons (leNat bs)
          else ringDist r (leNat bs) (s.ring r).prod) → exec (.doorbellRead r) s = .next (stopRing s1 r 1))) ∧
      (∀ s2, islandRead s1 (ringClass r) (doorbellPa s r) (ringIdxBytes r) = (none, s2) →
        exec (.doorbellRead r) s = .next (stopRing s2 r 2))) ∧
    (ringRuns s r = true →
      exec (.hostAccessTimeout (some r) .refused) s = .next (stopRing s r 2) ∧
      exec (.hostAccessTimeout (some r) .error) s = .next (stopRing (hostError s (ringBase s r)) r 3) ∧
      exec (.hostAccessTimeout (some r) .timeout) s = .next (stopRing (hostError s (ringBase s r)) r 4)) ∧
    (∀ f, f ≠ .refused → 
      let s1 := hostError s hostBase
      let t := { s1 with hif := { s1.hif with failing := true } }
      exec (.hostAccessTimeout none f) s = .next t ∧ t.mem = s.mem ∧
        t.reg Off.HIF_HOSTERR_CNT = (s.reg Off.HIF_HOSTERR_CNT + 1) % 2 ^ 64 ∧
        ∀ pa n bs, (hifRead t pa n).1 = none ∧ (hifWrite t pa bs).1 = false ∧ (hifRead t pa n).2.hif.failing = false)

/-- Submissions and completions (R338, R343 to R348, R351, R352, R355): a good descriptor that an observed doorbell covers
has its message copied in with the t_in of the observation; a BAD_DESC is only answered. A slot entry is written whole, with
its phase, before the index that covers it. The response bytes go out before their completion, to RSP_ADDR or, where that
write fails, to GONE with MOVED set. Entries go to EXC in order, and every frame for which there is no room is dropped and
counted. A vector is signalled for entries older than IRQ_US, and every post that waits longer than DRAIN_NS is counted. The
link trains at 16, 32 or 64 GT/s with 4, 8 or 16 lanes.
Where it rests on the model's readings, those are logs 3 and 18. -/
def Obligations.SubmissionsAndCompletions : Prop :=
  ∀ (s : State) (n : Fin 16),
    (∀ (tin : Nat) (bs m : List Byte),
      let r := ringSQ n
      let s1 := s.modRing r fun x => { x with seen := [] }
      let x := s.ring r
      let d := readSubDesc bs
      ringRuns s r = true → x.seen = [((x.cons + 1) % 2 ^ 32, tin)] → x.cons < 2 ^ 32 → x.fetched = x.cons → x.flight = [] →
      islandRead s1 .hif (slotPa s r x.cons) 64 = (some bs, s1) →
      (d.op = 1 → d.reserved = 0 → 1 ≤ d.len → d.len ≤ 65536 → ∀ e s2,
        dialectEntry (s1.modRing r fun y => { y with flight := [(x.cons, false)], fetched := (x.cons + 1) % 2 ^ 32 })
          d.dialect = (e, s2) →
        (∀ s3, e ≠ 0 → hifRead s2 (hostPa d.addr) d.len = (some m, s3) →
          exec (.submissionFetch n) s = .next { s3 with hif := { s3.hif with
            msgs := s3.hif.msgs ++ [{ sq := n, idx := some x.cons, tin := tin, dialect := d.dialect, note := d.flags.testBit 0,
                                      tag := d.tag, rspAddr := d.rspAddr, rspCap := d.rspCap, bytes := m }] } }) ∧
        (e = 0 → exec (.submissionFetch n) s = .next (queueCpl s2 (badDesc n x.cons d))) ∧
        (∀ s3, e ≠ 0 → hifRead s2 (hostPa d.addr) d.len = (none, s3) →
          exec (.submissionFetch n) s = .next (queueCpl s3 (badDesc n x.cons d)))) ∧
      (d.op ≠ 1 ∨ d.reserved ≠ 0 ∨ d.len = 0 ∨ 65536 < d.len → ∃ t, exec (.submissionFetch n) s = .next t ∧
        t.hif.msgs = s.hif.msgs ∧ t.hif.cpls = s.hif.cpls ++ [badDesc n x.cons d])) ∧
    (∀ (r : RingId) (bs : List Byte) (s1 : State), ringBytes r = false → ringRuns s r = true →
      ringUsed s r + 1 ≤ ringSize s r →
      let i := (s.ring r).prod
      let phase := if (i / ringSize s r) % 2 = 1 then 0 else 1
      islandWrite s (ringClass r) (slotPa s r i)
        (patch (sliceOf bs 0 64) 1 [BitVec.ofNat 8 ((bs.getD 1 0).toNat / 2 * 2 + phase)]) = (true, s1) →
      ∃ t, postSlot s r bs = .done t i ∧ (t.ring r).prod = (i + 1) % 2 ^ 32) ∧
    (∀ (r : RingId) (c : Cpl), 24 ≤ r.val → nextCpl s (r.val - 24) = some c → ringRuns s r = true →
      ringUsed s r + 1 ≤ ringSize s r →
      (cplBytes c s.now 0).length = 64 ∧
      (c.moved = false → c.conn = none →
        (∀ s1 s2 i, c.rsp ≠ [] → c.cap ≠ 0 → hifWrite s (hostPa c.addr) (c.rsp.take c.cap) = (true, s1) →
          postSlot s1 r (cplBytes c s1.now 0) = .done s2 i →
          exec (.completionPost r) s = .next (cplPosted (putCpl s2 c []) c)) ∧
        (∀ s2 i, (c.rsp = [] ∨ c.cap = 0) → postSlot s r (cplBytes c s.now 0) = .done s2 i →
          exec (.completionPost r) s = .next (cplPosted (putCpl s2 c []) c)) ∧
        (∀ s1 s2 s3 off i, c.rsp ≠ [] → c.cap ≠ 0 →
          hifWrite s (hostPa c.addr) (c.rsp.take c.cap) = (false, s1) →
          let m : Cpl := { c with moved := true }
          let u := putCpl (if s.hif.failing = true then s1 else hostError s1 (hostPa c.addr)) c [m]
          postBytes u ringGONE c.rsp = .done s2 off → postSlot s2 r (cplBytes m s2.now off) = .done s3 i →
          exec (.completionPost r) s = .next (cplPosted (putCpl s3 m []) m))) ∧
      (∀ s1 s2 off i, c.moved = true ∨ c.conn.isSome = true → postBytes s ringGONE c.rsp = .done s1 off →
        postSlot s1 r (cplBytes c s1.now off) = .done s2 i →
        exec (.completionPost r) s = .next (cplPosted (putCpl s2 c []) c))) ∧
    (∀ (r : RingId) (c : Cpl), 24 ≤ r.val → nextCpl s (r.val - 24) = some c → ringRuns s r = true →
      ringSize s r < ringUsed s r + 1 → exec (.completionPost r) s = .next (noteWait s r)) ∧
    (∀ (a : ACpl) t s1 i, s.hif.admin = [] → s.hif.acpls = a :: t → postSlot s ringACQ (acplBytes a s.now) = .done s1 i →
      exec (.completionPost ringACQ) s = .next { s1 with hif := { s1.hif with acpls := t } }) ∧
    (let lost (e : Exc) : Prop := e.kind = 1 ∧ (ringRuns s ringEXC = false ∨ ringRoom s ringEXC e.bytes.length = false)
     let d := dropFrames s
     let n := s.hif.excs.countP (frameLost s)
     (∀ e, frameLost s e = true ↔ lost e) ∧ d.hif.excs = s.hif.excs.filter (fun e => !frameLost s e) ∧ d.mem = s.mem ∧
     (n ≠ 0 → d.reg Off.HIF_EXCDROP_CNT = (s.reg Off.HIF_EXCDROP_CNT + n) % 2 ^ 64) ∧ (n = 0 → d = s) ∧
     (d.hif.excs = [] → exec (.excPost) s = .next d) ∧
     ∀ (e : Exc) rest, d.hif.excs = e :: rest →
      (∀ s1 i, postBytes d ringEXC e.bytes = .done s1 i →
        exec (.excPost) s = .next { s1 with hif := { s1.hif with excs := rest } }) ∧
      (ringRuns d ringEXC = true → ringRoom d ringEXC e.bytes.length = false →
        exec (.excPost) s = .next (noteWait d ringEXC))) ∧
    (∀ r : RingId,
      (0 < (s.ring r).unsig → (s.ring r).unsigAt + 1000 * s.getF (Fld.HIF_RING_CFG_IRQ_US r.val) ≤ s.now →
        exec (.ringIrqTimer r) s = .next (signalRing s r)) ∧
      (∀ w, waitOver s r w = true ↔ w.2 = false ∧ w.1 + s.getF (Fld.HIF_RING_CFG_DRAIN_NS r.val) < s.now) ∧
      ((noteWait s r).ring r).waits =
        (s.ring r).waits ++ List.replicate (queuedOn s r - (s.ring r).waits.length) (s.now, false) ∧
      (∀ w, w ∈ (s.ring r).waits → waitOver s r w = true → ∃ u, exec (.drainTimeout r) s = .next u ∧
        u.getF (Fld.HIF_RING_STATE_WAIT r.val) = 1 ∧ u.mem = s.mem ∧ (∀ v, waitOver u r v = true → v ∉ (u.ring r).waits) ∧
        (u.ring r).waits.map (·.1) = (s.ring r).waits.map (·.1) ∧
        u.reg Off.HIF_WAIT_CNT = (s.reg Off.HIF_WAIT_CNT + (s.ring r).waits.countP (waitOver s r)) % 2 ^ 64)) ∧
    (∀ (cxl : Bool) (speed width : Nat),
      (speed ∈ [4, 5, 6] → width ∈ [4, 8, 16] → islandState s 40 = 2 → RefClk.pcie ∉ s.pwr.clkLost → ∃ t,
        exec (.pcieLinkUp cxl speed width) s = .next t ∧
        t.getF Fld.HIF_STATUS_MODE = (if cxl then 2 else 1) ∧ t.getF Fld.HIF_STATUS_SPEED = speed ∧
        t.getF Fld.HIF_STATUS_WIDTH = width ∧ t.getF Fld.HIF_STATUS_BME = 1 ∧ t.mem = s.mem ∧ t.hif = s.hif) ∧
      (speed ∉ [4, 5, 6] ∨ width ∉ [4, 8, 16] ∨ islandState s 40 ≠ 2 ∨ RefClk.pcie ∈ s.pwr.clkLost →
        exec (.pcieLinkUp cxl speed width) s = .next s)) ∧
    (∃ t, exec (.pcieLinkDown) s = .next t ∧ exec (.pciePerst) s = .next t ∧ t.reg Off.HIF_STATUS = 0 ∧ hostBacked t = false ∧
      t.mem = s.mem ∧ t.hif = s.hif)

/-! ## Admin commands -/

/-- The admin lanes (R350): HIF takes the command at the front of AQ, and with its lane empty executes it: it completes
with its status and R0, or stays at the head of the lane with what it waits for; behind another command of its lane it
waits its turn. In stand-in service a command that R366 does not allow ends with WRONG_STATE; an opcode that is not
listed ends with UNKNOWN_OP and has no other effect. The opcode of each command and its lane are those of the table. The
fields of a command are where the table puts them. A zeroisation starts and a journal tail is named when its command is
taken, whatever its lane waits for.
Where it rests on the model's readings, those are logs 3 and 43. -/
def Obligations.AdminLanes : Prop :=
  ∀ (s t : State) (a : AdminCmd),
    (∀ (i : Instr) (opc : Nat) (quick : Bool),
      (i, opc, quick) ∈ [
        (Instr.handover a, 0x01, true), (.close a, 0x02, true), (.rekey a, 0x03, true), (.portMove a, 0x04, true),
        (.descriptorUpdate a, 0x10, true), (.dialectLoad a, 0x11, false), (.benchConfigure a, 0x20, false),
        (.bulkLoad a, 0x21, false), (.cancel a, 0x22, true), (.keyLoad a, 0x30, false), (.keyExport a, 0x31, false),
        (.keyDelete a, 0x32, false), (.keyInfo a, 0x33, true), (.keySave a, 0x34, false), (.keyRestore a, 0x35, false),
        (.zeroise a, 0x36, true), (.journalTail a, 0x40, false), (.mapUpdate a, 0x50, false),
        (.sliceTransfer a, 0x51, false), (.orphanResolve a, 0x52, true)] →
      AdminTaken s opc a t →
      let s1 := takenAdmin opc t
      (opc ≠ 0x36 → opc ≠ 0x40 → s1 = t) ∧ (opc = 0x36 → s1 = zeroise t 0) ∧
      (opc = 0x40 → t.jnl.running = false → s1 = { t with jnl := { t.jnl with tailNamed := true } }) ∧
      (laneHead s1 quick = none →
        (∀ st r0 u, admBody opc a s1 = (.done st r0, u) → exec i s = .next (admDone u a.cid st r0)) ∧
        (∀ w u, admBody opc a s1 = (.wait w, u) → exec i s = .next { u with hif := { u.hif with
          admin := { cid := a.cid, quick := quick, wait := w } :: u.hif.admin } }) ∧
        (standinService s1 = true → opc ∉ [0x01, 0x02, 0x03, 0x30, 0x32, 0x33, 0x36, 0x40] →
          exec i s = .next (admDone s1 a.cid .wrongState 0))) ∧
      (∀ j, laneHead s1 quick = some j → exec i s = .next { s1 with hif := { s1.hif with
        admin := s1.hif.admin ++ [{ cid := a.cid, quick := quick, wait := .queued opc a }] } })) ∧
    (∀ opc, opc < 256 → opc ∉ [0x01, 0x02, 0x03, 0x04, 0x10, 0x11, 0x20, 0x21, 0x22, 0x30, 0x31, 0x32, 0x33, 0x34, 0x35, 0x36,
        0x40, 0x50, 0x51, 0x52] → AdminTaken s opc a t →
      exec (.adminUnknownOp opc a) s = .next (admDone t a.cid .unknownOp 0)) ∧
    (∀ u st r0, ∃ c, (admDone u a.cid st r0).hif.acpls = u.hif.acpls ++ [c] ∧ c.cid = a.cid ∧ c.status = st.code ∧ c.r0 = r0 ∧
      (c.late = true ↔ st = .completed)) ∧
    (∀ b : List Byte, let c := readAdm b
      c.cid = leNat (sliceOf b 4 4) ∧ c.addr = leNat (sliceOf b 8 8) ∧ c.len = leNat (sliceOf b 16 4) ∧
      c.p0 = leNat (sliceOf b 20 4) ∧ c.p1 = leNat (sliceOf b 24 8) ∧ c.p2 = leNat (sliceOf b 32 8)) ∧
    (∀ opc, AdminTaken s opc a t → (t.ring ringAQ).cons = ((s.ring ringAQ).cons + 1) % 2 ^ 32 ∧ t.hif.admin = s.hif.admin)

/-- The admin commands of NET, ADM, XLT, the ledger store and Kolat where they take effect (R26, R45, R46, R55 to R57,
R231 to R233, R253, R259, R318, R328; "TLS record states"): each completes with SUCCESS, or the status of the table, on
the state that its rule gives. A bulk load journals its load also when the bench was full at once, and it waits while the
journal assigns no JSN.
Where it rests on the model's readings, those are logs 3, 16, 29, 42, 43 and 44. -/
def Obligations.AdminObjects : Prop :=
  ∀ (s s1 : State) (a : AdminCmd), s.hif.admin = [] →
    let ok (t : State) : Host.Outcome State Fault Refusal := .next (admDone t a.cid .success 0)
    (AdminTaken s 0x01 a s1 → ∀ e s2, handleOk s1 a.p0 = true → connRead s1 a.p0 = (some e, s2) →
      (leNat (e.take 1) = 0 → s2.open? a.p0 = none → entryOk s2 e = true → trafficKey s2 a.p0 (leNat ((e.drop 0x64).take 2)) = true →
        trafficKey s2 a.p0 (leNat ((e.drop 0x66).take 2)) = true → (standinService s2 = true → standinConnOk s2 a.p0 e = true) →
        e.length = 256 → exec (.handover a) s = ok (connWrite { s2 with net := { s2.net with
          conns := s2.net.conns ++ [newConn s2 a.p0 e], nextGen := s2.net.nextGen + 1 } } a.p0 0 [1])) ∧
      ((s2.open? a.p0).isSome = true → exec (.handover a) s = .next (admDone s2 a.cid .wrongState 0))) ∧
    (∀ c, s1.open? a.p0 = some c →
      (AdminTaken s 0x02 a s1 → exec (.close a) s = ok (startDrain s1 c 0x0A)) ∧
      (AdminTaken s 0x03 a s1 → ∀ bs s2 k, c.st = .active ∨ c.st = .paused → hostRead s1 a.addr a.len = (some bs, s2) →
        readRekey bs = some k →
        (k.flags.testBit 0 = true → trafficKey s2 c.h k.rxKey = true) →
        (k.flags.testBit 1 = true → trafficKey s2 c.h k.txKey = true) → exec (.rekey a) s = ok (rekeyConn s2 c k)) ∧
      (∀ p : Fin 8, p.val = a.p1 % 8 → AdminTaken s 0x04 a s1 → standinService s1 = false →
        (portLinkUp s1 p = true → exec (.portMove a) s = ok (moveConn s1 p false c)) ∧
        (portLinkUp s1 p = false → exec (.portMove a) s = .next (admDone s1 a.cid .wrongState 0)))) ∧
    (standinService s1 = false →
      (AdminTaken s 0x10 a s1 → ∀ bs s2 s3, a.p0 < 4096 → hostRead s1 a.addr 64 = (some bs, s2) →
        islandWrite s2 .hif (pdtAddr s2 a.p0) bs = (true, s3) → exec (.descriptorUpdate a) s =
          ok { s3 with adm := { s3.adm with pdt := s3.adm.pdt.filter fun p => p.1 != a.p0 } }) ∧
      (AdminTaken s 0x11 a s1 → ∀ s2 s3 s4 old, a.p0 < 256 → a.p1 ≠ 0 → tableLoads s1 a.p1 = (true, s2) →
        dialectEntry s2 a.p0 = (old, s3) →
        islandWrite s3 .xlt (s1.getF Fld.XLT_DTAB_BASE * 4096 + 8 * a.p0) (leBytes 8 a.p1) = (true, s4) →
        (old = 0 ∨ old = a.p1 → exec (.dialectLoad a) s = ok s4) ∧
        (old ≠ 0 → old ≠ a.p1 → exec (.dialectLoad a) s = .next { s4 with hif := { s4.hif with
          admin := { cid := a.cid, quick := false, wait := .dialect old } :: s4.hif.admin } })) ∧
      (AdminTaken s 0x20 a s1 → ∀ bs s2, a.p0 < 256 → hostRead s1 a.addr 64 = (some bs, s2) →
        (benchRefusal s2 a.p0 (readBench bs) = none →
          let held := (readBench bs).state = 0 ∧ (s2.bench a.p0).state ≠ 0 ∧ benchLocked s2 a.p0 = true
          (¬held → exec (.benchConfigure a) s = ok (s2.wr (benchAddr s2 a.p0) bs)) ∧
          (held → exec (.benchConfigure a) s = .next { s2 with hif := { s2.hif with
            admin := { cid := a.cid, quick := false, wait := .bench a.p0 bs } :: s2.hif.admin } })) ∧
        (∀ st, benchRefusal s2 a.p0 (readBench bs) = some st →
          exec (.benchConfigure a) s = .next (admDone s2 a.cid st 0))) ∧
      (AdminTaken s 0x21 a s1 → a.p0 < 256 → (s1.bench a.p0).state = 1 → s1.jnl.running = true → a.len ≠ 0 →
        a.len % (s1.bench a.p0).recSize = 0 →
        (∀ bs s2, canAssign s1 = true → hostRead s1 a.addr a.len = (some bs, s2) →
          let rs := chunks (s1.bench a.p0).recSize (bs.length / (s1.bench a.p0).recSize + 1) bs
          let l := loadRecords a.p0 (s1.bench a.p0) s2.jnl.next 0 rs s2
          exec (.bulkLoad a) s = .next (admDone (noteFull (assignRec l.2 { kind := 2, nent := 1 }
            (bytesOf [a.p0, 0, 0, 0] ++ leBytes 4 l.1 ++ sha384 (bs.take (l.1 * (s1.bench a.p0).recSize)))))
              a.cid (if l.1 < rs.length then .benchFull else .success) l.1)) ∧
        (canAssign s1 = false → exec (.bulkLoad a) s = .next { noteFull s1 with hif := { (noteFull s1).hif with
          admin := { cid := a.cid, quick := false, wait := .queued 0x21 a } :: (noteFull s1).hif.admin } })) ∧
      (AdminTaken s 0x22 a s1 →
        (s1.txn? a.p1 = none → exec (.cancel a) s = .next (admDone s1 a.cid .unknownAn 0)) ∧
        (∀ t, s1.txn? a.p1 = some t →
          (t.jsn.isSome = true → exec (.cancel a) s = .next (admDone s1 a.cid .completed 0)) ∧
          (t.jsn = none → t.undecided = true →
            exec (.cancel a) s = .next (admDone (endRun s1 t.an (.decline 0x16)) a.cid .cancelled 0)))) ∧
      (AdminTaken s 0x50 a s1 →
        (actingLead s1 = false → exec (.mapUpdate a) s = .next (admDone s1 a.cid .notLead 0)) ∧
        (∀ bs s2, actingLead s1 = true → hostRead s1 a.addr 131072 = (some bs, s2) →
          (∀ i, i < 65536 → let e := leNat ((bs.drop (2 * i)).take 2)
            e / 1024 % 32 = 0 ∧ e % 1024 < kolNodes s2 ∧ mayMove s2 i e = true) → bs.length = 131072 →
          ∃ t m, exec (.mapUpdate a) s = .next t ∧ t.kol.map = some m ∧ m.full = true ∧
            s2.getF Fld.KOL_STATUS_SMAP_GEN < m.gen ∧
            t.hif.admin = [{ cid := a.cid, quick := false, wait := .map m.gen }] ∧
            ∀ i, i < 65536 → (i, leNat ((bs.drop (2 * i)).take 2)) ∈ m.entries)) ∧
      (AdminTaken s 0x51 a s1 → a.p0 < 65536 → a.p1 < kolNodes s1 → a.p1 ≠ s1.node →
        (smapEntry s1 a.p0).testBit 15 = true → smapEntry s1 a.p0 % 1024 = s1.node →
        let r := (List.range 256).foldl (moveBench a.p0) (0, s1)
        exec (.sliceTransfer a) s = .next (admDone r.2 a.cid .success r.1)) ∧
      (AdminTaken s 0x52 a s1 →
        let l := orphans s1 a.p1
        (l = [] → exec (.orphanResolve a) s = .next (admDone s1 a.cid .unknownAn 0)) ∧
        (l ≠ [] → a.p2 = 0 → exec (.orphanResolve a) s = ok (l.foldl (fun s p => freeRsv s p.1 p.2) s1)) ∧
        (l ≠ [] → a.p2 ≠ 0 → (canAssign s1 = true ∨ ∀ p ∈ l, ∀ w ∈ rsvLog s1 p.1 p.2, w.writes = false) →
          exec (.orphanResolve a) s = ok (l.foldl (fun s p => (applyRsv s p.1 p.2 (p.1 / 2 ^ 54) a.p2).2) s1))))

/-- The admin commands of the key store and the journal tail (R274 to R279, R295, R296): a key load fills an empty slot
with its material and answers the slot header, a traffic key also as a wrapped copy and in NET's cache; a key export writes
what R275 allows, a key delete empties the slot and completes when every job that read the key has set its latch, a
key info answers the header. While ZEROISED is 1 key loads and restores are refused. A key image goes out and comes
back. A zeroisation sets ZEROISED and empties every slot when its command is taken and completes when its steps are done;
TAMPER_INPUT starts one when an enabled input goes low. A journal tail that links to the resume values is taken up as one
epoch, and its command completes when that epoch is sealed.
Where it rests on the model's readings, those are logs 7, 26, 41 and 43. -/
def Obligations.AdminKeys : Prop :=
  ∀ (s s1 : State) (a : AdminCmd), s.hif.admin = [] →
    let space := a.p0 / 2 ^ 16 % 16
    let slot := a.p0 % 2 ^ 16
    let form := a.p1 % 2 ^ 32
    let attr := a.p1 / 2 ^ 32 % 2 ^ 32
    (AdminTaken s 0x30 a s1 →
      (s1.getF Fld.CRY_STATUS_ZEROISED = 1 → exec (.keyLoad a) s = .next (admDone s1 a.cid .zeroised 0)) ∧
      (∀ data s2 m mat, s1.getF Fld.CRY_STATUS_ZEROISED = 0 → space ≤ 8 → (space = 0 → slot ≠ 0) → form ≤ 2 →
        attrOk space attr = true → (form = 2 → s1.getF Fld.CRY_CTRL_CLEAR_OK = 1) → slotOf s1 space slot = none →
        hostRead s1 a.addr a.len = (some data, s2) → loadedKey s2 form attr a.p2 data = .ok m →
        slotMaterial (attr / 2 ^ 24 % 32) m = some mat →
        (space = 0 → (m.length + 15) / 16 ≤ s1.getF Fld.CRY_STATUS_MAT_FREE) →
        ∃ t k, exec (.keyLoad a) s = .next (admDone t a.cid .success k.header) ∧
          (space = 0 → t.cry.keys = s2.cry.keys ++ [k] ∧ t.cry.wrapped = s2.cry.wrapped) ∧
          (space ≠ 0 → t.cry.keys = s2.cry.keys ∧ t.cry.cache = s2.cry.cache ++ [k] ∧
            { gen := s2.cry.wrapGen, key := k } ∈ t.cry.wrapped) ∧
          k.space = space ∧ k.slot = slot ∧ k.mat = mat ∧ k.header / 2 ^ 32 = 2 ^ 31 + attr % 2 ^ 31 ∧
          k.header / 2 ^ 15 % 2 ^ 8 = (m.length + 15) / 16 % 2 ^ 8 ∧ t.mem = s2.mem)) ∧
    (standinService s1 = false →
      (AdminTaken s 0x31 a s1 →
        (∀ k bs s2 s3, s1.keyOf 0 slot = some k → exportedKey s1 k a.p2 = (.ok bs, s2) → bs.length ≤ a.len →
          hostWrite s2 a.addr bs = (true, s3) → exec (.keyExport a) s = .next (admDone s3 a.cid .success bs.length)) ∧
        (∀ k st s2, s1.keyOf 0 slot = some k → exportedKey s1 k a.p2 = (.error st, s2) →
          exec (.keyExport a) s = .next (admDone s2 a.cid st 0))) ∧
      (AdminTaken s 0x34 a s1 →
        ∀ s2, (keyImage s1).1.length ≤ a.len → hostWrite (keyImage s1).2 a.addr (keyImage s1).1 = (true, s2) →
          exec (.keySave a) s = .next (admDone s2 a.cid .success (keyImage s1).1.length)) ∧
      (AdminTaken s 0x35 a s1 → ∀ bs s2, hostRead s1 a.addr a.len = (some bs, s2) →
        (s2.getF Fld.CRY_STATUS_ZEROISED = 1 → exec (.keyRestore a) s = .next (admDone s2 a.cid .zeroised 0)) ∧
        (s2.getF Fld.CRY_STATUS_ZEROISED = 0 → s2.cry.keys ≠ [] →
          exec (.keyRestore a) s = .next (admDone s2 a.cid .wrongState 0)) ∧
        (s2.getF Fld.CRY_STATUS_ZEROISED = 0 → s2.cry.keys = [] →
          (∀ ks, openImage s2 bs = some ks → ∃ t, exec (.keyRestore a) s = .next (admDone t a.cid .success bs.length) ∧
            t.cry = { s2.cry with keys := ks } ∧ t.mem = s2.mem) ∧
          (openImage s2 bs = none → exec (.keyRestore a) s = .next (admDone s2 a.cid .authFail 0))))) ∧
    (AdminTaken s 0x32 a s1 → ∀ k, slotOf s1 space slot = some k →
      let t := noteSlots (clearSlot s1 space slot)
      (readersOf s1 k = [] → exec (.keyDelete a) s = .next (admDone t a.cid .success 0)) ∧
      (readersOf s1 k ≠ [] → exec (.keyDelete a) s = .next { t with hif := { t.hif with
        admin := { cid := a.cid, quick := false, wait := .jobs (readersOf s1 k) } :: t.hif.admin } }) ∧
      slotOf t space slot = none) ∧
    (AdminTaken s 0x33 a s1 → exec (.keyInfo a) s =
      .next (admDone s1 a.cid .success (((s1.keyOf space slot).map fun k => k.header).getD 0))) ∧
    (AdminTaken s 0x36 a s1 → let t := zeroise s1 0
      laneHead t true = none → exec (.zeroise a) s = .next { t with hif := { t.hif with
        admin := { cid := a.cid, quick := true, wait := .zeroise } :: t.hif.admin } }) ∧
    (∀ (v : State) (n : Nat), let t := startZeroise v n
      t.cry.zeroing = true ∧ t.cry.wiping = true ∧ (∀ x y, t.keyOf x y = none) ∧
      admReady t .zeroise = none ∧ ∀ u : State, u.cry.zeroing = false → admReady u .zeroise = some (0, u)) ∧
    (∀ i : Fin 4,
      let low := { s with sys := { s.sys with tamper := s.sys.tamper / 2 ^ (i.val + 1) * 2 ^ (i.val + 1) + 2 ^ i.val +
        s.sys.tamper % 2 ^ i.val } }
      ((s.getF Fld.CRY_TAMPER_EN).testBit i.val = true → s.sys.tamper.testBit i.val = false →
        exec (.tamperInput i) s = .next (zeroise low (2 ^ i.val))) ∧
      ((s.getF Fld.CRY_TAMPER_EN).testBit i.val = false ∨ s.sys.tamper.testBit i.val = true →
        exec (.tamperInput i) s = .next low) ∧
      (exec (.tamperInputHigh i) s = .next { s with sys := { s.sys with
        tamper := s.sys.tamper / 2 ^ (i.val + 1) * 2 ^ (i.val + 1) + s.sys.tamper % 2 ^ i.val } })) ∧
    (∀ bs s2 first last, AdminTaken s 0x40 a s1 → s1.jnl.running = false → s1.getF Fld.BOOT_STATUS_PHASE < 5 →
      s1.jnl.recs = [] →
      hostRead { s1 with jnl := { s1.jnl with tailNamed := true } } a.addr a.len = (some bs, s2) →
      (tailRecs bs).head? = some first → (tailRecs bs).getLast? = some last →
      (tailOk s2 (tailRecs bs) = true →
        let t := takeTail s2 (tailRecs bs) first last
        exec (.journalTail a) s = .next { t with hif := { t.hif with
          admin := { cid := a.cid, quick := false, wait := .tail (tailRecs bs).length } :: t.hif.admin } } ∧
        t.jnl.recs = tailRecs bs ∧ t.jnl.closing.map (·.first) = [first.jsn] ∧ t.jnl.closing.map (·.last) = [last.jsn] ∧
        t.jnl.closing.map (·.flags) = [4] ∧
        t.jnl.closing.map (·.seamClose) = [leNat (sliceOf last.bytes 0x18 8) + 1] ∧
        (s1.jnl.tailSeal = none → admReady t (.tail (tailRecs bs).length) = none)) ∧
      (tailOk s2 (tailRecs bs) = false → exec (.journalTail a) s = .next (admDone s2 a.cid .authFail 0))) ∧
    (∀ (v : State) (n : Nat), v.jnl.tailSeal.isSome = true → admReady v (.tail n) = some (n, v))

/-! ## Crypto jobs, the MPU and storage keys -/

/-- The life of a crypto job (R262, R264 to R269, R272, R276, R278, R279, R397): a free engine takes, of the waiting jobs of its
kind, the first by priority, ties to its own cluster, with its keys, or ends it with the status of the key check; a job that is
issued again keeps the keys that it read. It reads its input, computes, writes its output and latches; a refused part ends it
with MPU_REFUSED, 0x06. A signature and an RSA private result are checked by a second PKE; a result that fails its check faults
the engine, and the job is issued again to other engines. The result of a job of XLT or JNL is kept for it. The completion wakes
its context with the CC of the status, or, of a run that has ended, is discarded. An abort of an ended run reaches a job before
or after its latch, and charges it. A faulty engine leaves service and its job is issued again. The end of a zeroisation leaves
the general space and NET's cache empty and puts a new wrapping key in force; the wrapped copies under the old one are
overwritten after it.
Where it rests on the model's readings, those are logs 7, 15, 27 and 50. -/
def Obligations.CryptoJobs : Prop :=
  ∀ (s : State) (k : EngineKind) (e : Fin 48) (j : CJob) (c : CoreId) (b : BankId),
    (engineTakes s k e = true → engineBusy s k e = false → nextJob s k e = some j →
      let s1 := startJob s j e
      let runs (ks : Option KeySlot × Option KeySlot) :=
        s.modJob j.id fun j => { j with st := .running e s.now, keys := some ks }
      exec (.cryptoJobStart k e) s = .next (settleJobs (s1.modJob j.id fun j => { j with data := jobData s1 j })) ∧
      (∀ ks, j.keys = none → jobKeys s j = .ok ks → s1 = runs ks) ∧
      (∀ st, j.keys = none → jobKeys s j = .error st → s1 = endJob s j st 0 []) ∧
      (∀ ks, j.keys = some ks → s1 = runs ks) ∧
      j.kind = k ∧ j.st = .waiting ∧ j ∈ s.cry.jobs ∧ mayTake s e j = true ∧
      ∀ i ∈ s.cry.jobs, i.kind = k → i.st = .waiting → mayTake s e i = true →
        (s.cry.zeroing = true → jobRandom i.op i.outCap = 0) → takesFirst e i j = false) ∧
    (engineTakes s k e = false ∨ engineBusy s k e = true → exec (.cryptoJobStart k e) s = .next s) ∧
    (∀ t0 inp aux, s.job? j.id = some j → j.who = .program → j.st = .running e t0 → readCaptured s j.inp = (some inp, s) →
      readCaptured s j.aux = (some aux, s) →
      let p := s.random (jobRandom j.op j.outCap)
      let r := jobCompute j.op j.param j.mlen j.outCap j.slots.1 j.slots.2 inp aux p.1
      let second := secondPke p.2 e
      (r.status ≠ 0x01 → exec (.completionLatch j.id) s = .next (settleJobs (endJob p.2 j r.status 0 []))) ∧
      (r.status = 0x01 → opChecked j.op = false ∨ (second.isSome = true ∧ resultChecks j j.slots.1 inp r = true) →
        (∀ s2, writeCaptured p.2 j.out r.out = (true, s2) →
          exec (.completionLatch j.id) s = .next (settleJobs (endJob s2 j 0x01 r.out.length []))) ∧
        (∀ s2, writeCaptured p.2 j.out r.out = (false, s2) →
          exec (.completionLatch j.id) s = .next (settleJobs (endJob s2 j 0x06 0 [])))) ∧
      (r.status = 0x01 → opChecked j.op = true → second = none → exec (.completionLatch j.id) s = .next (settleJobs s)) ∧
      (∀ x, r.status = 0x01 → opChecked j.op = true → second = some x → resultChecks j j.slots.1 inp r = false →
        exec (.completionLatch j.id) s =
          .next (settleJobs (reissueJob (engineFaulted (p.2.bump Off.CRY_SIGFAIL_CNT) j.kind e 0x09) j true [e, x]))) ∧
      (∀ x, second = some x → x ≠ e ∧ engineTakes p.2 .pke x = true ∧ engineBusy p.2 .pke x = false ∧
        (x.val / 8 = e.val / 8 → ∀ y : Fin 48, engineTakes p.2 .pke y = true → y.val / 8 = e.val / 8))) ∧
    (∀ t0, s.job? j.id = some j → j.who ≠ .program → j.st = .running e t0 →
      let p := s.random (jobRandom j.op j.outCap)
      let r := jobCompute j.op j.param j.mlen j.outCap j.slots.1 j.slots.2 j.input [] p.1
      r.status = 0x01 → opChecked j.op = false ∨
        ((secondPke p.2 e).isSome = true ∧ resultChecks j j.slots.1 j.input r = true) →
      exec (.completionLatch j.id) s = .next (settleJobs (endJob p.2 j 0x01 r.out.length r.out))) ∧
    (∀ t0 s1, s.job? j.id = some j → j.who = .program → j.st = .running e t0 → readCaptured s j.inp = (none, s1) →
      exec (.completionLatch j.id) s = .next (settleJobs (endJob s1 j 0x06 0 []))) ∧
    (∀ st n res, s.job? j.id = some j → (endJob s j st n res).job? j.id =
      some { j with st := .latched st, work := workNow s j, res := res } ∧ (endJob s j st n res).cry.keys = s.cry.keys) ∧
    (∀ st, s.cry.jobs = [j] → j.who = .program → j.told = false → j.core = c → j.bank = b → j.st = .latched st →
      let t := s.dropJob j.id
      (jobLive s j = false → exec (.cryptoCompletion c b) s = .next (s.modJob j.id fun j => { j with told := true })) ∧
      (jobLive s j = true → st = 0x09 → exec (.cryptoCompletion c b) s = .next (endIfOwned t j.an j.run .faultReplay)) ∧
      (jobLive s j = true → st ≠ 0x09 → exec (.cryptoCompletion c b) s =
        .next (wake (t.setCC c b (if st = 1 then 0 else if st = 2 then 1 else if st = 3 then 2 else 3)) c b))) ∧
    (s.job? j.id = some j → j.who = .program →
      (jobLive s j = true → exec (.jobAbort j.id) s = .next s) ∧
      (jobLive s j = false → (∀ st, j.st ≠ .latched st) →
        exec (.jobAbort j.id) s = .next (((stopJob s j 0x07).bump Off.CRY_ABORT_CNT).dropJob j.id)) ∧
      (∀ st, jobLive s j = false → j.st = .latched st → st ≠ 0x07 → st ≠ 0x08 →
        let s1 := (islandWrite s .cry (j.desc + 0x07)
          [BitVec.ofNat 8 (1 + 2 * if j.reissued then 1 else 0)]).2.bump Off.CRY_ABLATE_CNT
        exec (.jobAbort j.id) s = .next ((chargeJob s1 j (j.cost - chargeOf s j st)).dropJob j.id))) ∧
    (engineInService s k e = true →
      let s1 := engineFaulted s k e 0
      engineInService s1 k e = false ∧ s1.getF Fld.ADM_STATUS_FAULT_HOLD = 1 ∧
      (engineBusy s k e = false → exec (.engineFault k e) s = .next s1) ∧
      (∀ t0, s.cry.jobs = [j] → j.kind = k → j.st = .running e t0 →
        exec (.engineFault k e) s = .next (settleJobs (reissueJob s1 j false [e])) ∧
        ((∃ e', engineTakes s1 k e' = true) → j.fails < 2 → (reissueJob s1 j false [e]).cry.jobs =
          [{ j with work := workNow s1 j, st := .waiting, reissued := true, avoid := [e] }]) ∧
        ((∀ e', engineTakes s1 k e' = false) → reissueJob s1 j false [e] = endJob s1 j 0x09 0 []))) ∧
    (∀ slot, exec (.keyStoreFault slot) s =
      .next (s.report { island := 24, unit := 0xFF, cls := .keystore, severity := 1, detail := slot })) ∧
    (s.cry.zeroing = true → s.sys.dbgWait = false → ∃ t, exec (.zeroisationDone) s = .next t ∧
      t.cry = { s.cry with keys := [], cache := [], wrapGen := s.cry.wrapGen + 1, zeroing := false } ∧
      t.getF Fld.CRY_STATUS_SLOTS_USED = 0 ∧ t.getF Fld.CRY_STATUS_MAT_FREE = 32768 ∧ t.mem = s.mem ∧
      ((∀ w ∈ s.cry.wrapped, w.gen ≤ s.cry.wrapGen) → ∀ x y, t.keyOf x y = none)) ∧
    (s.cry.wiping = true → s.cry.zeroing = false → exec (.trafficSpaceWipe) s = .next { s with cry := { s.cry with
      wiping := false, wrapped := s.cry.wrapped.filter fun w => w.gen == s.cry.wrapGen } })

/-- The MPU (R215 to R219, R225, R226): an access is allowed exactly if some active region applies to it, every applying
region grants its kind and has its type, a fetch is not from device memory, and a write to append-only memory starts at
every pointer and ends within every region. A refused island read or write gives and changes nothing in memory, and the
first is kept in MPU_FAULT; an allowed one moves the pointers. A request of an activation drains; an island access that comes
meanwhile is made under the new set. The activation waits until every core access checked before is done; then the
shadow set is active with its pointers and GEN advances, and an MSYNC that waits for it retires.
Where it rests on the model's reading, that is log 62. -/
def Obligations.MpuRules : Prop :=
  ∀ (s : State) (i : Initiator) (kd : Kind),
    (∀ start fin pa ty : Nat,
      let on (g : Region) : Prop := ∃ n, n < 256 ∧ activeRegion s n = some g ∧ g.base ≤ pa ∧ pa < g.base + g.size ∧
        g.init.testBit i.bit = true
      (mpuCheck s i kd start fin pa = some ty ↔
        (∃ g, on g) ∧ (∀ g, on g → g.grants kd = true ∧ g.type = ty) ∧ (kd = .fetch → ty ≠ 1) ∧
        (kd = .write → ty = 2 → ∀ g, on g →
          s.getF (Fld.MPU_APTR_APTR g.index) = start ∧ fin ≤ g.base + g.size))) ∧
    (let s0 := mpuSettled s
     (s.getF Fld.MPU_STATUS_DRAINING = 1 → s0 = activateAll s) ∧ (s.getF Fld.MPU_STATUS_DRAINING ≠ 1 → s0 = s) ∧
     (∀ pa n : Nat,
      (∀ s1, islandRead s i pa n = (none, s1) → s1.mem = s.mem ∧ s1.txns = s.txns ∧ s1.cores = s.cores) ∧
      (∀ bs s1, islandRead s i pa n = (some bs, s1) → s1 = s0 ∧ bs = s.rd pa n ∧ islandRefused s0 i .read pa n = none)) ∧
     (∀ (pa : Nat) (bs : List Byte) (s1 : State),
      (islandWrite s i pa bs = (true, s1) → s1.mem = (s.wr pa bs).mem ∧ s1.txns = s.txns ∧ s1.cores = s.cores ∧
        islandRefused s0 i .write pa bs.length = none ∧
        ∀ g, g ∈ applying s0 i pa → g.type = 2 → pa + bs.length < 2 ^ 48 →
          s1.getF (Fld.MPU_APTR_APTR g.index) = pa + bs.length) ∧
      (islandWrite s i pa bs = (false, s1) → s1.mem = s.mem ∧ s1.txns = s.txns ∧ s1.cores = s.cores ∧
        ((islandRefused s0 i .write pa bs.length).isSome = true →
          (s.getF Fld.MPU_FAULT_VALID = 0 → s1.getF Fld.MPU_FAULT_VALID = 1 ∧ s1.getF Fld.MPU_FAULT_WRITE = 1 ∧
            s1.getF Fld.MPU_FAULT_CLASS = i.bit) ∧
          (s.getF Fld.MPU_FAULT_VALID = 1 → s1.getF Fld.MPU_FAULT_ADDR = s.getF Fld.MPU_FAULT_ADDR))))) ∧
    (∃ t, exec (.mpuCommitGo) s = .next t ∧ t.getF Fld.MPU_STATUS_DRAINING = 1 ∧
      t.getF Fld.MPU_STATUS_GEN = s.getF Fld.MPU_STATUS_GEN ∧ t.mem = s.mem ∧ t.skeys = s.skeys ∧ t.cores = s.cores ∧
      ∀ n, n < 256 → activeRegion t n = activeRegion s n) ∧
    (accessesDone s = true ↔ ∀ c, (s.core c).sq = [] ∧ (s.core c).posted = [] ∧
      ∀ w, (s.core c).wait = some w → w.onWindow = false) ∧
    (s.getF Fld.MPU_STATUS_DRAINING = 1 → accessesDone s = false → exec (.mpuActivation) s = .next s) ∧
    (s.getF Fld.MPU_STATUS_DRAINING = 1 → accessesDone s = true → ∃ t, exec (.mpuActivation) s = .next t ∧
      t.getF Fld.MPU_STATUS_DRAINING = 0 ∧ t.getF Fld.MPU_STATUS_GEN = (s.getF Fld.MPU_STATUS_GEN + 1) % 2 ^ 32 ∧
      t.mem = s.mem ∧ t.skeys = s.skeys ∧
      (∀ n, n < 256 → t.reg (Off.MPU_ACT_BASE n) = s.reg (Off.MPU_RGN_BASE n) ∧
        t.reg (Off.MPU_ACT_ATTR n) = s.reg (Off.MPU_RGN_ATTR n) ∧
        t.getF (Fld.MPU_APTR_APTR n) = newPointer s n % 2 ^ 48) ∧
      (∀ c b, (s.core c).wait = some .msync → (s.core c).cur = some b →
        (t.core c).wait = none ∧ (t.bank c b).pc = (s.bank c b).pc + 4)) ∧
    (s.getF Fld.MPU_STATUS_DRAINING ≠ 1 → ∃ t, exec (.mpuActivation) s = .next t ∧ t.regs = s.regs ∧ t.mem = s.mem ∧
      ∀ c, ((s.core c).wait = some .msync → (t.core c).wait = none) ∧
        ((s.core c).wait ≠ some .msync → t.core c = s.core c))

/-! ## Power, clocks and temperature -/

/-- Clocks and island actions (R41, R380, R384, R386 to R388, R393, R394): a clock below its target is raised at once; one above
it waits for the hold and is then lowered to it; one above both its limit and its target, or above its limit while a sensor reads
above 125 °C, is lowered at once. A raise is in effect when its change is done, and the clock is then evaluated again; an island
that has stopped makes no change. An action that is refused changes nothing but ERR; one that is accepted quiesces the island, or
starts it. A quiesced island is held with its state, off, or
on its way back; OFF and RESET empty a tile's store and the banks of its cores, and OFF keeps TVEC and TLBCFG for its
return. An island that returns runs at the clock of its kind, and a tile of the stand-in log has its copy again.
Where it rests on the model's readings, those are logs 51, 53, 54, 55 and 60. -/
def Obligations.ClocksAndIslands : Prop :=
  ∀ (s : State) (i : Fin 30) (j : Fin 44),
    (∀ t, islandState s i.val = 2 ∨ islandState s i.val = 3 → clockTarget s i = some t → islandHot s (islOf i) = false →
      let x := s.isl (islOf i)
      let clk := clkOf s (islOf i)
      (clk ≤ x.lim → x.want.getD clk < t → ∃ u, exec (.clockScaleEval i) s = .next u ∧
        u.isl (islOf i) = { x with want := some t, lowSince := none } ∧ clkOf u (islOf i) = clk ∧ u.mem = s.mem) ∧
      (clk ≤ x.lim → t ≤ x.want.getD clk → t < clk → ∃ u, exec (.clockScaleEval i) s = .next u ∧
        u.isl (islOf i) = { x with lowSince := x.lowSince.or (some s.now) } ∧ clkOf u (islOf i) = clk) ∧
      (clk ≤ x.lim → t ≤ x.want.getD clk → clk ≤ t → ∃ u, exec (.clockScaleEval i) s = .next u ∧
        u.isl (islOf i) = { x with lowSince := none } ∧ clkOf u (islOf i) = clk) ∧
      (x.lim < clk → t < clk → clk < 2 ^ 16 → ∃ u, exec (.clockScaleEval i) s = .next u ∧
        u.isl (islOf i) = { x with want := some (max x.lim t), lowSince := none } ∧ clkOf u (islOf i) = max x.lim t)) ∧
    (∀ t, islandState s i.val = 2 ∨ islandState s i.val = 3 → clockTarget s i = some t → islandHot s (islOf i) = true →
      (s.isl (islOf i)).lim < clkOf s (islOf i) → ∃ u, exec (.clockScaleEval i) s = .next u ∧
        clkOf u (islOf i) = (s.isl (islOf i)).lim ∧ (u.isl (islOf i)).want = some (s.isl (islOf i)).lim ∧ u.mem = s.mem) ∧
    (∀ t0 t, (s.isl (islOf i)).lowSince = some t0 → clockTarget s i = some t → t < clkOf s (islOf i) →
      (t0 + 1000 * s.getF Fld.ADM_SCALE_HOLD_US ≤ s.now → ∃ u, exec (.clockHoldExpiry i) s = .next u ∧
        clkOf u (islOf i) = t ∧ (u.isl (islOf i)).want = some t ∧ (u.isl (islOf i)).lowSince = none ∧ u.mem = s.mem) ∧
      (s.now < t0 + 1000 * s.getF Fld.ADM_SCALE_HOLD_US → exec (.clockHoldExpiry i) s = .next s)) ∧
    (∀ f, (s.isl (islOf i)).want = some f → f < 2 ^ 16 →
      (islandState s i.val = 2 ∨ islandState s i.val = 3 → ∃ v u, clkOf v (islOf i) = f ∧
        v.isl (islOf i) = { s.isl (islOf i) with want := none } ∧ v.mem = s.mem ∧ v.txns = s.txns ∧
        exec (.operatingPointDone i) s = .next u ∧ exec (.clockScaleEval i) v = .next u) ∧
      (islandState s i.val ≠ 2 → islandState s i.val ≠ 3 → exec (.operatingPointDone i) s = .next s)) ∧
    (∀ (c : Instr) (a : Nat),
      (c, a) ∈ [(Instr.islandRun j, 0), (.islandHold j, 1), (.islandOff j, 2), (.islandReset j, 3)] →
      (actionError s j a ≠ 0 → exec c s = .next (s.setF (Fld.PWR_ISL_STATUS_ERR j.val) (actionError s j a))) ∧
      (actionError s j a = 0 → actionIdle s j a = true → exec c s = .next s) ∧
      (actionError s j a = 0 → actionIdle s j a = false → ∃ u, exec c s = .next u ∧
        islandState u j.val = (if a = 0 then 1 else 3) ∧ (u.isl j).action = some a ∧ (u.isl j).want = none ∧ u.mem = s.mem ∧
        u.cores = s.cores ∧ (a ≠ 0 → 34 ≤ j.val → u.getF Fld.LDG_STATUS_DEGRADED = 1))) ∧
    (actionError s j 0 = 1 ↔ 38 ≤ j.val ∨ islandState s j.val = 5) ∧
    (islandState s j.val = 3 → workDone s j = true →
      let v := drainTile s j
      let v1 := (setClk v j 0).modIsl j fun x => { x with want := none, lowSince := none }
      ((s.isl j).action = some 1 → ∃ u, exec (.islandQuiesced j) s = .next u ∧ islandState u j.val = 4 ∧ clkOf u j = 0 ∧
        (u.isl j).action = none ∧ (u.isl j).want = none ∧ u.mem = v.mem ∧ u.cores = v.cores) ∧
      ((s.isl j).action = some 2 → ∃ u, exec (.islandQuiesced j) s = .next u ∧ islandState u j.val = 0 ∧
        (u.isl j).action = none ∧ (34 ≤ j.val → j.val < 38 → u.ldg = (loseLocks v1).ldg ∧ u.mem = (loseLocks v1).mem) ∧
        ∀ t : TileId, t.val = j.val → clkOf u j = 0 ∧
          (∀ o, o < 0x40_0000 → memGet u.mem (tileAddr t.val o) = 0) ∧
          ∀ c : CoreId, c.val / 4 = t.val → u.core c = { Core.reset with svc := (v.core c).svc } ∧
            u.pwr.kept.lookup c.val = some ((v.core c).tvec, (v.core c).pinmax)) ∧
      ((s.isl j).action = some 3 → ∃ u, exec (.islandQuiesced j) s = .next u ∧ islandState u j.val = 1 ∧
        (34 ≤ j.val → j.val < 38 → u.ldg = (loseLocks v1).ldg ∧ u.mem = (loseLocks v1).mem) ∧
        ∀ t : TileId, t.val = j.val → clkOf u j = 0 ∧ (∀ o, o < 0x40_0000 → memGet u.mem (tileAddr t.val o) = 0) ∧
          ∀ c : CoreId, c.val / 4 = t.val → u.core c = { Core.reset with svc := (v.core c).svc })) ∧
    (islandState s j.val = 3 → workDone s j = false → exec (.islandQuiesced j) s = .next s) ∧
    (islandState s j.val = 1 → (s.isl j).action.isSome = true → ∃ u, exec (.islandReturn j) s = .next u ∧
      islandState u j.val = 2 ∧ clkOf u j = joinClock s j ∧ (u.isl j).action = none ∧
      (j.val < 20 ∨ 24 ≤ j.val → u.mem = s.mem) ∧
      (20 ≤ j.val → j.val < 24 → u.mem = (restoreLog (restoreKept s j) j.val).mem) ∧
      ∀ c : CoreId, c.val / 4 = j.val → ∀ p, (s.pwr.kept.find? fun p => p.1 == c.val) = some p →
        u.core c = { s.core c with tvec := p.2.1, pinmax := p.2.2 })

/-- Temperature and the rail (R382, R390 to R392, R395, R446, R453): a reading is stored and counted toward the trip, a
failed self-check marks the sensor; a period lowers a limit at once to what the temperature gives, raises it by one point
after its cooling, and moves F_cap by one point; a trip and the loss of a rail remove power from every island but SYS until a
cold reset; a rail that has differed by more than 25 mV for more than 1 ms is reported; a lost reference takes its links down.
Where it rests on the model's readings, those are logs 51, 52, 56 and 61. -/
def Obligations.TemperatureAndRail : Prop :=
  ∀ (s : State) (k : Fin 64) (i : Fin 30) (mv : Nat),
    (∀ r : Int, -32768 ≤ r → r < 32768 → s.getF (Fld.THM_SENSOR_FAULT k.val) = 0 → ∃ t,
      exec (.sensorSample k (some r)) s = .next t ∧ tempOf t k.val = r ∧
      t.pwr.hot.lookup k.val = (if 1080 ≤ r then some ((s.pwr.hot.lookup k.val).getD 0 + 1) else none) ∧
      (1000 < r → t.getF Fld.THM_STATUS_OVER125 = 1) ∧
      toSigned 16 (t.getF (Fld.THM_SENSOR_MAX k.val)) = (if k.val ∈ s.pwr.fresh
        then max r (toSigned 16 (s.getF (Fld.THM_SENSOR_MAX k.val))) else r) ∧ t.mem = s.mem) ∧
    (s.getF (Fld.THM_SENSOR_FAULT k.val) = 0 → ∃ t, exec (.sensorSample k none) s = .next t ∧
      t.getF (Fld.THM_SENSOR_FAULT k.val) = 1 ∧ t.getF Fld.ADM_STATUS_FAULT_HOLD = 1 ∧ tempOf t k.val ≤ 1079 ∧
      t.pwr.hot.lookup k.val = none) ∧
    (exec (.thermalModelPeriod) s = .next (noteClamp (noteDerate (avsWrite (scaledIslands.foldl thermalStep s))))) ∧
    (let t := islandTemp s (islOf i)
     let raw := rawLimit s i t
     let x := s.isl (islOf i)
     let y := (moveLimit s i).isl (islOf i)
     (t ≤ 8 * (s.getF Fld.THM_CFG_DERATE_C : Int) → raw = fMax s (islOf i)) ∧
     (∀ n : Nat, t = 8 * (s.getF Fld.THM_CFG_DERATE_C : Int) + n → 0 < n → 0 < s.getF Fld.THM_CFG_STEP_C →
       raw = max 400 (fMax s (islOf i) - 100 * ((n + 8 * s.getF Fld.THM_CFG_STEP_C - 1) / (8 * s.getF Fld.THM_CFG_STEP_C)))) ∧
     (raw < x.lim → y.lim = raw) ∧ (x.lim < raw → y.lim = x.lim ∨ y.lim = min raw (x.lim + 100)) ∧
     (x.lim < raw → x.cool = false → y.lim = x.lim) ∧ (x.lim = raw → y.lim = raw) ∧
     (x.lim < raw → x.cool = true → t ≤ x.limTemp - 8 * (s.getF Fld.THM_CFG_HYST_C : Int) →
       y.lim = min raw (x.lim + 100))) ∧
    (let x := s.isl (islOf i)
     let cap := fCap s i.val
     (x.lim < cap → fCap (moveCap s i) i.val =
       min cap (max (cap - 100) (max ((demandPoint s i 1 64).getD 400) x.lim)) % 2 ^ 16) ∧
     (cap < x.lim → railNeed s i (min x.lim (cap + 100)) ≤ s.getF Fld.PWR_AVS_MEAS_MV →
       fCap (moveCap s i) i.val = min x.lim (cap + 100) % 2 ^ 16) ∧
     (cap < x.lim → s.getF Fld.PWR_AVS_MEAS_MV < railNeed s i (min x.lim (cap + 100)) →
       fCap (moveCap s i) i.val = cap ∧ ((moveCap s i).isl (islOf i)).rise = some (min x.lim (cap + 100)))) ∧
    (tripSensor s = none → exec (.thermalTrip) s = .next s) ∧
    (∀ n, tripSensor s = some n → s.pwr.trip = false → ∃ t, exec (.thermalTrip) s = .next t ∧ t.pwr.trip = true ∧
      t.boot.step = 0 ∧ (∀ q : Fin 43, islandState t q.val = 0 ∨ islandState t q.val = 5) ∧
      (∀ a, a < hostBase → memGet t.mem a = 0) ∧ t.txns = []) ∧
    (mv < 2 ^ 16 → ∃ t, exec (.avsUpdate mv) s = .next t ∧ t.getF Fld.PWR_AVS_MEAS_MV = mv ∧
      t.getF Fld.PWR_AVS_TARGET_MV = avsTarget s ∧ t.mem = s.mem ∧
      t.pwr.avsOff = (if avsTarget s + 25 < mv ∨ mv + 25 < avsTarget s then s.pwr.avsOff.or (some s.now) else none)) ∧
    (600 ≤ avsTarget s ∧ avsTarget s ≤ 850) ∧
    (s.boot.step < 11 ∨ s.getF Fld.PWR_AVS_ENABLE = 0 → avsTarget s = 850) ∧
    (mv < 2 ^ 16 →
      let off := s.getF Fld.PWR_AVS_TARGET_MV + 25 < mv ∨ mv + 25 < s.getF Fld.PWR_AVS_TARGET_MV
      (∀ t0, off → s.pwr.avsOff = some t0 → t0 + 1000000 < s.now → ∃ t, exec (.avsFault mv) s = .next t ∧
        t.getF Fld.PWR_AVS_FAULT = 1 ∧ t.getF Fld.PWR_AVS_MEAS_MV = mv ∧ t.mem = s.mem) ∧
      (¬off ∨ (∀ t0, s.pwr.avsOff = some t0 → s.now ≤ t0 + 1000000) → ∃ t, exec (.avsFault mv) s = .next t ∧
        t.getF Fld.PWR_AVS_FAULT = s.getF Fld.PWR_AVS_FAULT ∧ t.getF Fld.PWR_AVS_MEAS_MV = mv ∧ t.mem = s.mem ∧
        (off → t.pwr.avsOff = s.pwr.avsOff.or (some s.now)) ∧ (¬off → t.pwr.avsOff = none))) ∧
    (∀ rail : Fin 10,
      (rail = 3 → exec (.railLoss rail) s = .next (coldResetTo s)) ∧
      (rail ≠ 3 → s.pwr.railFault = false → s.boot.step ≠ 0 → ∃ t, exec (.railLoss rail) s = .next t ∧
        t.pwr.railFault = true ∧ t.boot.step = 0 ∧ (∀ q : Fin 43, islandState t q.val = 0 ∨ islandState t q.val = 5) ∧
        (∀ a, a < hostBase → memGet t.mem a = 0) ∧ t.txns = [])) ∧
    (∀ r : RefClk, r ∉ s.pwr.clkLost →
      (∃ t, exec (.refclkLoss r) s = .next t ∧ r ∈ t.pwr.clkLost ∧
        (r = .eth → ∀ p : Fin 8, t.getF (Fld.NET_PORT_STATUS_LINK_UP p.val) ≠ 1) ∧
        (r = .kol → ∀ p : Fin 8, t.getF (Fld.KOL_PORT_STATUS_LINK_UP p.val) ≠ 1) ∧
        (r = .pcie → t.reg Off.HIF_STATUS = 0) ∧
        (r = .sys25 → s.getF Fld.SYS_TIME_CFG_SRC = 0 → t.getF Fld.SYS_STATUS_TIME_SRC_OK = 0) ∧
        (r = .time10 → s.getF Fld.SYS_TIME_CFG_SRC = 1 → t.getF Fld.SYS_STATUS_TIME_SRC_OK = 0)) ∧
      exec (.refclkRestore r) s = .next s) ∧
    (∀ r : RefClk, r ∈ s.pwr.clkLost → ∃ t, exec (.refclkRestore r) s = .next t ∧
      t.pwr.clkLost = s.pwr.clkLost.filter (fun x => x != r) ∧ t.mem = s.mem ∧
      (r = .sys25 → s.getF Fld.SYS_TIME_CFG_SRC = 0 → t.getF Fld.SYS_STATUS_TIME_SRC_OK = 1))


/-! ## Faults -/

/-- Faults of tiles, lanes, paired islands, the fabric and units under test (R385, R397, R402 to R405, R407): a lost tile is
retired with its cores and its store is gone; each of its transactions without a JSN makes a fault replay that is not
counted. A faulty lane is tested and drops the response that it holds, for another lane; when no other XLT lane of a running
island is left, when the other copy of a simplex island fails, or when the fabric cannot serve, the fault is
uncovered, and with ESC_EN a warm reset follows. A unit that passes its test returns, unless its faults reach STRIKES; else
it is retired. FAULT_HOLD clears when no fault is younger than 10 ms.
Where it rests on the model's reading, that is log 57. -/
def Obligations.UnitFaults : Prop :=
  ∀ (s : State) (t : TileId) (lane : Fin 32) (i : Fin 44),
    (s.err.retired.contains (tileCode t.val) = false → (s.txns.map fun x => x.an).Nodup →
      ∃ u, exec (.tileLoss t) s = .next u ∧ islandState u t.val = 5 ∧ u.getF Fld.ADM_STATUS_FAULT_HOLD = 1 ∧
        u.err.retired.contains (tileCode t.val) = true ∧ (∀ o, o < 0x40_0000 → memGet u.mem (tileAddr t.val o) = 0) ∧
        (∀ c : CoreId, c.val / 4 = t.val → u.core c = { Core.reset with svc := .retired } ∧
          (u.getF (Fld.ERR_CORE_MAP_INSVC (c.val / 64))).testBit (c.val % 64) = false) ∧
        ∀ x, x ∈ s.txns → x.moves t = true → x.phase ≠ .parse → ∃ y, u.txn? x.an = some y ∧ y.run = x.run + 1 ∧
          y.counted = x.counted ∧ y.wlog = [] ∧ y.phase = .queued ∧ y.owner = .ended) ∧
    (s.err.retired.contains (tileCode t.val) = true → exec (.tileLoss t) s = .next s) ∧
    (laneWorks s lane = true → ∃ u, exec (.xltLaneFault lane) s = .next u ∧
      ((∃ l, l ≠ lane ∧ laneCanServe s l = true) → u.inTest (.xltLane lane) = true ∧ u.getF Fld.ADM_STATUS_FAULT_HOLD = 1 ∧
        u.mem = s.mem ∧ u.txns = s.txns ∧ u.xlt = s.xlt.filter fun w => w.lane != lane) ∧
      ((∀ l, l ≠ lane → laneCanServe s l = false) →
        (s.getF Fld.ERR_CTRL_ESC_EN = 0 → u.getF Fld.ERR_STATUS_UNCOVERED = 1) ∧
        (s.getF Fld.ERR_CTRL_ESC_EN = 1 → ∃ v, u = warmResetTo v 3 false ∧ v.mem = s.mem ∧ v.txns = s.txns ∧
          v.getF Fld.ERR_STATUS_UNCOVERED = 1))) ∧
    (∀ jsn, (s.jnl.recs.any fun r => r.jsn == jsn && !r.complete) = true → ∃ u, exec (.jnlLaneFault jsn) s = .next u ∧
      u.getF Fld.ADM_STATUS_FAULT_HOLD = 1 ∧ u.jnl = s.jnl ∧ u.mem = s.mem) ∧
    (∀ link caught,
      exec (.fabricFault link .resent caught) s =
        .next (s.report { island := 44, unit := link % 256, cls := .fabric, severity := 0 }) ∧
      exec (.fabricFault link .routed caught) s = .next (caught.foldl boundaryReset
        (faultHold (s.report { island := 44, unit := link % 256, cls := .fabric, severity := 1 }))) ∧
      (let v := caught.foldl boundaryReset s
       (v.getF Fld.ERR_CTRL_ESC_EN = 0 → ∃ u, exec (.fabricFault link .unserved caught) s = .next u ∧
         u.getF Fld.ERR_STATUS_UNCOVERED = 1 ∧ u.mem = v.mem ∧ u.txns = v.txns) ∧
       (v.getF Fld.ERR_CTRL_ESC_EN = 1 → ∃ u, exec (.fabricFault link .unserved caught) s = .next (warmResetTo u 3 false) ∧
         u.getF Fld.ERR_STATUS_UNCOVERED = 1 ∧ u.mem = v.mem ∧ u.txns = v.txns)) ∧
      (∀ c b x, (s.bank c b).ctx = some x → requestOut s c b x = true →
        boundaryReset s (c, b) = endIfOwned s x.an x.run .faultReplay)) ∧
    (i.val < 38 → exec (.pairedMismatch i) s = .next s) ∧
    (38 ≤ i.val →
      ((s.getF Fld.ERR_SIMPLEX_ISL).testBit i.val = false → ∃ u, exec (.pairedMismatch i) s = .next u ∧
        (u.getF Fld.ERR_SIMPLEX_ISL).testBit i.val = true ∧ u.getF Fld.ERR_STATUS_SIMPLEX = 1 ∧ u.mem = s.mem ∧
        u.txns = s.txns) ∧
      ((s.getF Fld.ERR_SIMPLEX_ISL).testBit i.val = true →
        (s.getF Fld.ERR_CTRL_ESC_EN = 0 → ∃ u, exec (.pairedMismatch i) s = .next u ∧
          u.getF Fld.ERR_STATUS_UNCOVERED = 1 ∧ u.mem = s.mem) ∧
        (s.getF Fld.ERR_CTRL_ESC_EN = 1 → ∃ v, exec (.pairedMismatch i) s = .next (warmResetTo v 3 false) ∧
          v.mem = s.mem ∧ v.txns = s.txns ∧ v.getF Fld.ERR_STATUS_UNCOVERED = 1))) ∧
    (∀ (u : TestUnit) (pass : Bool), s.inTest u = false → exec (.selfTestDone u pass) s = .next s) ∧
    (∀ (k : EngineKind) (e : Fin 48), s.inTest (.engine k e) = true →
      (strikesOf s (.engine k e) < s.getF Fld.ERR_CFG_STRIKES → ∃ u, exec (.selfTestDone (.engine k e) true) s = .next u ∧
        engineInService u k e = true ∧ u.inTest (.engine k e) = false) ∧
      (∃ u, exec (.selfTestDone (.engine k e) false) s = .next u ∧ engineInService u k e = false ∧
        u.err.retired.contains (unitCode (.engine k e)) = true) ∧
      (s.getF Fld.ERR_CFG_STRIKES ≤ strikesOf s (.engine k e) → ∃ u,
        exec (.selfTestDone (.engine k e) true) s = .next u ∧ engineInService u k e = false)) ∧
    (∀ c : CoreId, s.inTest (.core c) = true →
      (strikesOf s (.core c) < s.getF Fld.ERR_CFG_STRIKES → ∃ u, exec (.selfTestDone (.core c) true) s = .next u ∧
        (u.core c).svc = .inService ∧ (u.getF (Fld.ERR_CORE_MAP_INSVC (c.val / 64))).testBit (c.val % 64) = true ∧
        (u.core c).banks = (s.core c).banks ∧ u.mem = s.mem) ∧
      (∃ u, exec (.selfTestDone (.core c) false) s = .next u ∧ (u.core c).svc = .retired ∧
        (u.getF (Fld.ERR_CORE_MAP_INSVC (c.val / 64))).testBit (c.val % 64) = false ∧ u.mem = s.mem)) ∧
    ((∀ p ∈ s.err.faults, p.2 + 10000000 ≤ s.now) →
      exec (.faultHoldExpiry) s = .next (s.setF Fld.ADM_STATUS_FAULT_HOLD 0)) ∧
    ((∃ p ∈ s.err.faults, s.now < p.2 + 10000000) → exec (.faultHoldExpiry) s = .next s)

/-- Faults of HBM (R256 to R258, R397, R406): a first failed stack is served from the others, DEGRADED; after a second JNL
assigns no JSN and ADM is disabled. The scrub of a line corrects it, rebuilds it, or marks it lost; a lost line reads as
poisoned and is logged once. No byte of memory changes.
Where it rests on the model's readings, those are logs 47 and 57. -/
def Obligations.HbmFaults : Prop :=
  ∀ (s : State) (k : Fin 4) (line : Nat) (e : EccState),
    (s.err.retired.contains (stackCode k.val) = false →
      ((∀ j : Fin 4, j ≠ k → stackGone s j.val = false) → ∃ t, exec (.hbmStackFail k) s = .next t ∧
        t.getF Fld.LDG_STATUS_DEGRADED = 1 ∧ t.getF Fld.LDG_STATUS_STACK = k.val ∧ stackGone t k.val = true ∧
        t.getF Fld.ADM_STATUS_FAULT_HOLD = 1 ∧ t.mem = s.mem ∧ t.jnl = s.jnl) ∧
      ((∃ j : Fin 4, j ≠ k ∧ stackGone s j.val = true) → ∃ t, exec (.hbmStackFail k) s = .next t ∧
        t.jnl.halted = true ∧ t.getF Fld.ADM_CTRL_ENABLE = 0 ∧ stackGone t k.val = true ∧ t.mem = s.mem ∧
        canAssign t = false)) ∧
    (s.err.retired.contains (stackCode k.val) = true → exec (.hbmStackFail k) s = .next s) ∧
    (lineBacked s line = true →
      exec (.hbmScrub line .clean) s = .next s ∧
      (∃ t, exec (.hbmScrub line .single) s = .next t ∧ t.mem = s.mem ∧ t.ldg = s.ldg ∧
        t.reg Off.ERR_CE_CNT = (s.reg Off.ERR_CE_CNT + 1) % 2 ^ 64) ∧
      (canRebuild s line = true → ∃ t, exec (.hbmScrub line .uncorrectable) s = .next t ∧ t.mem = s.mem ∧ t.ldg = s.ldg ∧
        t.getF Fld.ADM_STATUS_FAULT_HOLD = 1) ∧
      (canRebuild s line = false → exec (.hbmScrub line .uncorrectable) s = .next (loseLine s line) ∧
        exec (.hbmDataLoss line) s = .next (loseLine s line))) ∧
    (lineBacked s line = false → exec (.hbmScrub line e) s = .next s ∧ exec (.hbmDataLoss line) s = .next s) ∧
    (canRebuild s line = true → exec (.hbmDataLoss line) s = .next s) ∧
    (s.ldg.poison.contains line = false → (loseLine s line).ldg.poison = line :: s.ldg.poison ∧
      (loseLine s line).mem = s.mem) ∧
    (s.ldg.poison.contains line = true → loseLine s line = s) ∧
    (∀ pa n, pa < 64 * line + 64 → 64 * line < pa + n → poisoned (loseLine s line) pa n = true)


/-! ## Resets and bring-up -/

/-- The resets (R356 to R358, R445): a cold reset keeps the fuses and what lies outside the device and nothing else; a warm
reset first completes the records that have a JSN, keeps HBM with its storage keys, DEVTIME, the error log and the fuses,
and discards every transaction and connection; while WARM_RESET_N is low the device waits. BOOT_RESET acts only with
CONFIRM 0xB007. Power-good starts SYS with DEVTIME 0.
Where it rests on the model's readings, those are logs 17 and 61. -/
def Obligations.Resets : Prop :=
  ∀ (s : State) (k : ColdCause),
    (let t := coldResetTo s
     exec (.coldReset k) s = .next t ∧ t.devtime = 0 ∧ t.txns = [] ∧ t.skeys = [] ∧ t.cry.keys = [] ∧ t.net.conns = [] ∧
     t.cores = State.reset.cores ∧ t.err = State.reset.err ∧ t.boot.step = 0 ∧ t.pwr.trip = false ∧ t.pwr.railFault = false ∧
     t.boot.flash = s.boot.flash ∧ t.pending = s.pending ∧
     (∀ a, memGet t.mem a = if hostBase ≤ a then memGet s.mem a else 0) ∧
     (∀ n, n < 1024 → t.reg (Off.BOOT_FUSE_RD n) = s.reg (Off.BOOT_FUSE_RD n)) ∧
     (∀ off, off < Off.BOOT_FUSE_RD 0 ∨ Off.BOOT_FUSE_RD 1023 < off → t.reg off = State.reset.reg off)) ∧
    (s.pwr.trip = false → s.pwr.railFault = false → s.boot.step ≠ 0 → ∃ t, exec (.warmReset) s = .next t ∧
      t.txns = [] ∧ t.net.conns = [] ∧ t.cry.keys = [] ∧ t.devtime = s.devtime ∧ t.skeys = (quiesce s).skeys ∧
      t.boot.warmLow = true ∧ t.boot.step = 2 ∧ t.getF Fld.SYS_RESET_CAUSE_CAUSE = 1 ∧ t.getF Fld.BOOT_STATUS_WARM = 1 ∧
      t.getF Fld.BOOT_STATUS_PHASE = 0 ∧ t.getF Fld.SYS_STATUS_LOCKED = 0 ∧ t.pending = s.pending ∧
      (∀ a, a ≤ 0x0017_FFFF_FFFF → memGet t.mem a = memGet (quiesce s).mem a) ∧
      (∀ n, n < 1024 → t.reg (Off.BOOT_FUSE_RD n) = s.reg (Off.BOOT_FUSE_RD n)) ∧
      (∀ n, n < 1024 → t.reg (Off.ERR_LOG n) = (quiesce s).reg (Off.ERR_LOG n)) ∧
      t.reg Off.BOOT_WARM_JSN = (quiesce s).reg Off.BOOT_WARM_JSN ∧ ∀ c, (t.core c).svc = .retired ↔ (s.core c).svc = .retired) ∧
    (s.pwr.trip = true ∨ s.pwr.railFault = true → exec (.warmReset) s = .next s) ∧
    ((s.jnl.recs.all fun r => r.complete) = true → s.getF Fld.BOOT_STATUS_PHASE ≠ 6 → s.reg Off.JNL_LAST_JSN ≠ 0 →
      (quiesce s).reg Off.BOOT_WARM_JSN = s.reg Off.JNL_LAST_JSN ∧ (quiesce s).mem = s.mem) ∧
    (s.boot.warmLow = false → exec (.warmResetNRise) s = .next s) ∧
    (s.boot.warmLow = true → s.boot.step = 2 → ∃ t, exec (.warmResetNRise) s = .next t ∧ t.boot.warmLow = false ∧
      t.boot.step = 3 ∧ t.getF Fld.BOOT_STATUS_PHASE = (if bootSrc s = 1 then 2 else 1) ∧ islandState t 40 = 2 ∧
      t.mem = s.mem) ∧
    (∀ confirm : BitVec 16,
      (confirm ≠ 0xB007 → ∃ t u, exec (.bootResetWarm confirm) s = .next t ∧ exec (.bootResetCold confirm) s = .next u ∧
        t.mem = s.mem ∧ u.mem = s.mem ∧ t.txns = s.txns ∧ u.txns = s.txns ∧ ∀ off, t.reg off = s.reg off ∧ u.reg off = s.reg off) ∧
      (confirm = 0xB007 → ∃ v, exec (.bootResetWarm confirm) s = .next (warmResetTo v 2 false) ∧
        exec (.bootResetCold confirm) s = .next (coldResetTo v) ∧ v.mem = s.mem ∧ v.txns = s.txns ∧ v.jnl = s.jnl ∧
        ∀ off, v.reg off = s.reg off)) ∧
    (s.boot.step = 0 → s.pwr.trip = false → s.pwr.railFault = false → s.boot.warmLow = false → ∃ t,
      exec (.powerGood) s = .next t ∧ t.devtime = 0 ∧ t.boot.step = 3 ∧ islandState t 43 = 2 ∧ clkOf t 43 = 200 ∧
      t.getF Fld.BOOT_STATUS_PHASE = (if bootSrc t = 1 then 2 else 1) ∧
      t.getF Fld.ADM_ANSEQ_DEVICE_ID = t.getF Fld.SYS_STRAP_NODE_ID ∧ t.mem = s.mem) ∧
    (s.boot.step ≠ 0 → exec (.powerGood) s = .next s)

/-- Bring-up (R358 to R365, R417, R418): the device boots from the flash slot that passes, of two the one with the higher
sequence, or from the host's image, else it fails with the error; the microcode of the image is in force, and a core that
does not compare is retired; stand-in opens under the rules and the dialect of the image, unless a section fails; HBM is
zero after a cold reset and kept after a warm one; the device is READY and the SETUP section is applied. Fuses are
programmed where R360 and R365 allow it, and a programmed bit reads 1. The islands of the stand-in set start with stand-in or in
its place, the others and the remaining Ethernet and Kolat ports with READY.
Where it rests on the model's readings, those are logs 58 and 61. -/
def Obligations.BringUp : Prop :=
  ∀ (s : State),
    (s.boot.step = 3 → s.getF Fld.BOOT_STATUS_PHASE = 1 →
      let a := slotImage s 0
      let b := slotImage s 0x100_0000
      let seq (x : List Byte) : Nat := leNat ((x.drop 0x0C).take 4)
      (imageError s a = 0 → imageError s b = 0 → 16 ≤ a.length → 16 ≤ b.length →
        exec (.imageSelect) s = .next (if seq b ≤ seq a then takeImage s a 0 else takeImage s b 1)) ∧
      (imageError s a = 0 → imageError s b ≠ 0 → exec (.imageSelect) s = .next (takeImage s a 0)) ∧
      (imageError s a ≠ 0 → imageError s b = 0 → exec (.imageSelect) s = .next (takeImage s b 1)) ∧
      (imageError s a ≠ 0 → imageError s b ≠ 0 → ∃ t, exec (.imageSelect) s = .next t ∧
        t.getF Fld.BOOT_STATUS_ERR = imageError s a ∧ t.getF Fld.BOOT_STATUS_PHASE = (if bootSrc s = 2 then 2 else 15) ∧
        t.boot = s.boot)) ∧
    (∀ b slot, slot < 4 → (takeImage s b slot).boot.image = b ∧ (takeImage s b slot).boot.step = 4 ∧
      (takeImage s b slot).getF Fld.BOOT_STATUS_SLOT = slot ∧ (takeImage s b slot).getF Fld.BOOT_STATUS_ERR = 0) ∧
    (s.boot.step = 3 → s.getF Fld.BOOT_STATUS_PHASE = 2 →
      let b := s.rd (hostPa (s.getF Fld.BOOT_HIMG_ADDR * 64)) (min (2 ^ 24) (s.getF Fld.BOOT_HIMG_LEN_LEN))
      (hostBacked s = false → exec (.bootLoad) s = .next (s.setF Fld.BOOT_STATUS_ERR 0x0A)) ∧
      (hostBacked s = true → imageError s b = 0 → exec (.bootLoad) s = .next (takeImage s b 2)) ∧
      (hostBacked s = true → imageError s b ≠ 0 →
        exec (.bootLoad) s = .next (s.setF Fld.BOOT_STATUS_ERR (imageError s b)))) ∧
    (∀ m bad, s.boot.step = 4 → sectionOf s.boot.image 1 = some m → ∃ t, exec (.microcodeLoad bad) s = .next t ∧
      t.boot.step = 5 ∧ (∀ i, i < 8 * leNat ((m.drop 8).take 4) → i + 0x160 < m.length → i < 131072 →
        t.boot.ucode[i]? = m[0x160 + i]?) ∧ t.mem = s.mem ∧
      ∀ c, (t.core c).svc = .retired ↔ (s.core c).svc = .retired ∨ c ∈ bad) ∧
    (s.boot.step = 5 → ∃ t, exec (.standinOpen) s = .next t ∧ t.boot.step = 8 ∧
      (∀ dial rules, sectionOf s.boot.image 2 = some dial → sectionOf s.boot.image 3 = some rules →
        sectionOf s.boot.image 4 = none →
        (siSectionsOk dial rules = true → s.policy 3 = false → t.boot.siOpen = true ∧
          t.getF Fld.BOOT_STATUS_PHASE = 3 ∧ t.reg Off.BOOT_T_SI = s.now ∧
          t.rd (tileAddr 0 0x19_0000) (tableSize dial) = dial.take (tableSize dial)) ∧
        (siSectionsOk dial rules = false → t.boot.siOpen = s.boot.siOpen ∧ t.getF Fld.BOOT_STATUS_ERR = 0x09)) ∧
      (∀ dial, sectionOf s.boot.image 2 = some dial → sectionOf s.boot.image 3 = none → sectionOf s.boot.image 4 = none →
        t.boot.siOpen = s.boot.siOpen ∧
        t.getF Fld.BOOT_STATUS_ERR = if siDialectOk dial = true then s.getF Fld.BOOT_STATUS_ERR else 0x09) ∧
      ∀ i ∈ standinSet, islandState t i.val = if islandState s i.val = 5 then 5 else 2) ∧
    (s.boot.step = 8 → ∃ t, exec (.hbmInitDone) s = .next t ∧ t.boot.step = 9 ∧ t.regs = s.regs ∧
      (s.getF Fld.BOOT_STATUS_WARM = 1 → t.mem = s.mem ∧ t.skeys = s.skeys) ∧
      (s.getF Fld.BOOT_STATUS_WARM = 0 → t.skeys = [] ∧ t.ldg.poison = [] ∧ (∀ a, a ≤ 0x0017_FFFF_FFFF → memGet t.mem a = 0) ∧
        ∀ a, 0x0017_FFFF_FFFF < a → memGet t.mem a = memGet s.mem a)) ∧
    (s.boot.step = 9 → (sectionOf s.boot.image 5 = none → ∃ t, exec (.bringupReady) s = .next t ∧
        t.getF Fld.BOOT_STATUS_PHASE = 4 ∧ t.boot.step = 11 ∧ t.mem = s.mem ∧
        (∀ i : Fin 44, i ∉ standinSet → i ≠ 43 → islandState t i.val = if islandState s i.val = 5 then 5 else 2) ∧
        (RefClk.kol ∉ s.pwr.clkLost → ∀ p : Fin 8, t.getF (Fld.KOL_PORT_STATUS_LINK_UP p.val) = 1) ∧
        (RefClk.eth ∉ s.pwr.clkLost → ∀ p : Fin 8, p ≠ 0 → portGrouped s p = true →
          t.getF (Fld.NET_PORT_STATUS_LINK_UP p.val) = 1)) ∧
      (∀ b, sectionOf s.boot.image 5 = some b → exec (.bringupReady) s = .next (applySetup b (bringupRest s)))) ∧
    (s.getF Fld.BOOT_STATUS_PHASE = 6 → ∃ t, exec (.svnCommit) s = .next t ∧ t.getF Fld.BOOT_STATUS_FUSE_BUSY = 1 ∧
      t.boot.fusing = s.boot.fusing ++ ((List.range (leNat ((s.boot.image.drop 0x10).take 1))).map (fun i => 8 * 0x140 + i) ++
        (List.range s.boot.ucodeSvn).map fun i => 8 * 0x150 + i) ∧ t.mem = s.mem) ∧
    (s.getF Fld.BOOT_STATUS_PHASE ≠ 6 → exec (.svnCommit) s = .next s) ∧
    (∀ bit : BitVec 16,
      (0x380 ≤ bit.toNat → bit.toNat < 0x990 → s.getF Fld.BOOT_STATUS_PHASE ≠ 6 → ∃ t, exec (.fuseProgram bit) s = .next t ∧
        t.getF Fld.BOOT_STATUS_FUSE_BUSY = 1 ∧ t.boot.fusing = s.boot.fusing ++ [bit.toNat] ∧ t.mem = s.mem) ∧
      (bit.toNat < 0x380 ∨ 0x990 ≤ bit.toNat ∨ s.getF Fld.BOOT_STATUS_PHASE = 6 → exec (.fuseProgram bit) s = .next s)) ∧
    (∃ t, exec (.fuseWriteDone) s = .next t ∧ t.getF Fld.BOOT_STATUS_FUSE_BUSY = 0 ∧ t.boot.fusing = [] ∧
      ∀ i, i < 65536 → fuseBit t i = (fuseBit s i || decide (i ∈ s.boot.fusing)))

/-- Stand-in decisions and full release (R370 to R376): the decision follows the rules in order; it commits when both
copies of its log entry are written, with the count advanced, and a REFUSE is answered and not logged. A release whose first
failed condition has a code changes nothing else, a journal tail that is named and not sealed among them; one that passes, with
nothing of stand-in outstanding and room in the journal for every record of epoch 0, locks the RWL fields and is RELEASED, and
without the room it stays under way. TILE.0, and once epoch 0 is in its area the tiles of the log, are zeroed and join service.
Where it rests on the model's readings, those are logs 41, 59 and 60. -/
def Obligations.StandinAndRelease : Prop :=
  (∀ (h : SiHead) (macOk : Bool) (rules : List SiRule) (key cur : Nat) (amt : Option Nat) (present : Nat → Bool),
    let decide_ := siDecide h macOk rules key cur amt present
    let hit (r : SiRule) : Prop := key &&& r.mask = r.key &&& r.mask ∧ (r.currency = 0 ∨ r.currency = cur) ∧
      (r.absent = 0 ∨ present r.absent = false) ∧ ∃ a, amt = some a ∧ a ≤ r.amtMax
    (h.mac ≠ 0 → macOk = false → decide_ = .decline h.badMac 0xFFFE) ∧
    (h.mac = 0 ∨ macOk = true →
      (∀ i r, rules[i]? = some r → hit r → (∀ j r', j < i → rules[j]? = some r' → ¬ hit r') →
        (r.flags.testBit 1 = true → decide_ = .refuse) ∧
        (r.flags.testBit 1 = false → r.flags.testBit 0 = true → decide_ =
          if r.flags.testBit 2 then .velocity r i else .approve r.template i) ∧
        (r.flags.testBit 1 = false → r.flags.testBit 0 = false → decide_ = .decline r.template i)) ∧
      ((∀ r ∈ rules, ¬ hit r) → decide_ = if h.noMatch = 0xFFFF then .refuse else .decline h.noMatch 0xFFFF))) ∧
  (∀ (s s1 : State) (t : Txn) (d : Dialect), s.txn? t.an = some t → t.si = true → t.phase = .queued →
    standinService s = true → tileZeroServes s = true → (siHead s).mac = 0 ∨ 1 ≤ clusterEngines s .sym 0 → dialectAt s true t.dtab = (some d, s1) →
    let h := siHead s1
    let r := s1.rd t.reqPa t.reqLen
    let rules := siRules (s1.rd (tileAddr 0 0x18_0000) (64 + 32 * h.nrule))
    let digits := (recField r h.acct).getD []
    let amt := siAmount r h.amount
    let cur := siNumber r h.currency
    let o := siDecide h (siMacOk s1 d h r) rules (leNat t.typeKey) cur amt fun f => (recField r f).isSome
    (settle s1 h digits (amt.getD 0) o = none → exec (.standinDecide t.an) s = .next (releaseProgress (siRefuse s1 t))) ∧
    (∀ tpl rule dec s2, settle s1 h digits (amt.getD 0) o = some (tpl, rule, dec, s2) →
      (siLog s1 < 131072 →
        let u := siCommit s2 d t digits cur amt tpl rule dec
        let code := (d.templates.getD tpl (readTemplate [])).code
        exec (.standinDecide t.an) s = .next (releaseProgress u) ∧ siLog u = siLog s1 + 1 ∧
          u.mem = (logPut s2 (siLog s1) (logEntryOf s2 t digits cur amt rule dec code)).mem) ∧
      (131072 ≤ siLog s1 → exec (.standinDecide t.an) s = .next (releaseProgress (siRefuse s1 t))))) ∧
  (∀ (s : State) (n : Nat) (e : List Byte), n < 131072 → e.length = 64 →
    (logPut s n e).rd (logAddr false n) 64 = e ∧ (logPut s n e).rd (logAddr true n) 64 = e ∧ (logPut s n e).regs = s.regs) ∧
  (∀ (s : State) (h : SiHead) (r : SiRule) (digits : List Byte) (amt i : Nat) (a : SiAcc),
    (findAcc s (sipHash h.k0 h.k1 digits) (siAcct digits) = none → velocity s h r digits amt = (false, s)) ∧
    (findAcc s (sipHash h.k0 h.k1 digits) (siAcct digits) = some (i, a) →
      (a.count + 1 ≤ r.cntMax → a.total + amt ≤ h.acctMax →
        velocity s h r digits amt = (true, putAcc s i { a with count := a.count + 1, total := a.total + amt })) ∧
      (r.cntMax < a.count + 1 ∨ h.acctMax < a.total + amt → velocity s h r digits amt = (false, s)))) ∧
  (∀ s : State,
    (releaseError s ≠ 0 → exec (.bootRelease) s = .next (s.setF Fld.BOOT_STATUS_REL_ERR (releaseError s))) ∧
    (s.getF Fld.BOOT_STATUS_PHASE ≠ 4 → releaseError s = 0x20) ∧
    (releaseError s = 0 → standinDone s = false → ∃ t, exec (.bootRelease) s = .next t ∧
      t.getF Fld.BOOT_STATUS_PHASE = 5 ∧ t.getF Fld.BOOT_STATUS_REL_ERR = 0 ∧ t.mem = s.mem ∧ t.jnl = s.jnl) ∧
    (s.jnl.tailNamed = true → s.jnl.tailSeal = none → releaseError s ≠ 0) ∧
    (releaseError s = 0 → standinDone s = true →
      let s1 := (s.setF Fld.BOOT_STATUS_REL_ERR 0).setF Fld.BOOT_STATUS_PHASE 5
      let u := journalEpochZero (siLog s + 2) s1
      (siLog u < u.boot.relAt → releaseRoom u = true → ∃ t, exec (.bootRelease) s = .next t ∧
        t.getF Fld.BOOT_STATUS_PHASE = 6 ∧ t.getF Fld.SYS_STATUS_LOCKED = 1 ∧ t.reg Off.BOOT_T_REL = s.now ∧
        t.jnl.running = true ∧ t.boot.siOpen = false) ∧
      (u.boot.relAt ≤ siLog u ∨ releaseRoom u = false → exec (.bootRelease) s = .next (noteFull u) ∧
        (noteFull u).getF Fld.BOOT_STATUS_PHASE = 5)) ∧
    (s.getF Fld.BOOT_STATUS_PHASE ≠ 6 → exec (.standinTilesJoin) s = .next s) ∧
    (s.getF Fld.BOOT_STATUS_PHASE = 6 → ∃ t, exec (.standinTilesJoin) s = .next t ∧
      (islandState s 0 = 1 → (s.isl 0).action = none → islandState t 0 = 2 ∧
        ∀ o, o < 0x40_0000 → memGet t.mem (tileAddr 0 o) = 0) ∧
      ((s.jnl.recs.all fun r => r.epoch != 0 || r.complete) = true → s.boot.relAt ≠ 0 → t.getF Fld.BOOT_STATUS_SILOG = 0 ∧
        ∀ n : Fin 44, 20 ≤ n.val → n.val < 24 → islandState s n.val = 1 → (s.isl n).action = none →
          islandState t n.val = 2 ∧ ∀ o, o < 0x40_0000 → memGet t.mem (tileAddr n.val o) = 0)))


/-! ## Setup registers, time and debug -/

/-- Setup registers (R7, R8, R334, R422 to R426, R429, R430, R441): the host reaches them while its link is trained, a core
always. A write sets the bits of RW fields, of RWL fields until
release has locked them, clears W1C bits where it writes 1, and leaves RO fields and reserved bits as they are; a write of
one half leaves the other. A read of the lower half of an RO register latches the upper half for its requester, once. An
access that finds no register, or that BAR0 aborts, is recorded, the first of them only, and completes with zero or with
Completer Abort. A write to SYS_EVT or SYS_EVT_EN
that leaves an enabled event signals the vector: a message, or, masked, its pending bit. An SMBus Block Read sends the 8 bytes at
its pointer, which advances by 8.
Where it rests on the model's readings, those are logs 3, 23 and 65. -/
def Obligations.SetupRegisters : Prop :=
  ∀ (s : State) (who : Requester) (off k : Nat) (g : RegGroup) (v : Word),
    (RegMap.at? off = some (g, k) → g.bytes = 8 → off % 8 = 0 → (∀ x b u, regEffect off x b u = u) →
      (∀ old w m new, specialWritten s off old w m new = new) →
      (∃ t, (hostReaches s = true → exec (.registerWrite .host off 8 v) s = .next t) ∧
        (∀ c, exec (.registerWrite (.core c) off 8 v) s = .next t) ∧ t.mem = s.mem ∧
        (∀ o, o ≠ off → t.reg o = s.reg o) ∧
        (∀ f ∈ g.fields, ∀ i, i < f.width →
          let old := (s.reg off).testBit (f.lo + i)
          let new := (t.reg off).testBit (f.lo + i)
          (f.acc = .ro ∨ f.acc = .wo → new = old) ∧
          (f.acc = .rw → f.clamp = .keep → new = v.getLsbD (f.lo + i)) ∧
          (f.acc = .rwl → f.clamp = .keep → new = if s.getF Fld.SYS_STATUS_LOCKED = 1 then old else v.getLsbD (f.lo + i)) ∧
          (f.acc = .w1c → new = (old && !v.getLsbD (f.lo + i)))) ∧
        ∀ i, (∀ f ∈ g.fields, i < f.lo ∨ f.lo + f.width ≤ i) → (t.reg off).testBit i = (s.reg off).testBit i) ∧
      (hostReaches s = true → (∀ f ∈ g.fields, f.acc ≠ .wo ∧ f.clamp = .keep) → ∃ t,
        exec (.registerWrite .host off 4 v) s = .next t ∧ ∀ i, 32 ≤ i → (t.reg off).testBit i = (s.reg off).testBit i) ∧
      ((∃ f ∈ g.fields, f.acc = .wo) → exec (.registerWrite .host off 4 v) s = .next s)) ∧
    (RegMap.at? off = some (g, k) → g.bytes = 8 → off % 8 = 0 → (∀ f ∈ g.fields, f.acc = .ro) →
      (who = .host → hostReaches s = true) →
      ∃ t, exec (.latchedHalfRead who off) s = .next t ∧ t.regs = s.regs ∧ t.mem = s.mem ∧
        (regRead s who off 4).1 = regValue s off % 2 ^ 32 ∧ (regRead t who (off + 4) 4).1 = regValue s off / 2 ^ 32 ∧
        ∃ u, exec (.latchedHalfRead who (off + 4)) t = .next u ∧
          (∀ w, w ≠ who → u.sys.latches.find? (fun p => p.1 == requesterCode w) =
            s.sys.latches.find? (fun p => p.1 == requesterCode w)) ∧
          (u.sys.latches.any fun p => p.1 == requesterCode who && p.2.1 == off) = false) ∧
    (∀ (write : Bool) (o size : Nat),
      (hostReaches s = true → bar0Shape o size = true → regCovering o = none → s.getF Fld.SYS_STATUS_BAD_ACCESS = 0 → ∃ t,
        exec (.bar0UnmappedAccess write o size) s = .next t ∧
        t.out = (if write then s.out else s.out ++ [.completion (some 0)]) ∧ t.getF Fld.SYS_STATUS_BAD_ACCESS = 1 ∧ t.mem = s.mem ∧
        t.reg Off.SYS_BAD_ACCESS = (if write then 2 ^ 63 else 0) + 2 ^ 56 + size * 2 ^ 48 + o) ∧
      (hostReaches s = true → bar0Shape o size = false → s.getF Fld.SYS_STATUS_BAD_ACCESS = 0 → ∃ t,
        exec (.bar0Abort write o size) s = .next t ∧ t.out = s.out ++ [.completion none] ∧ t.getF Fld.SYS_STATUS_BAD_ACCESS = 1 ∧ t.mem = s.mem ∧
        t.reg Off.SYS_BAD_ACCESS = (if write then 2 ^ 63 else 0) + 2 * 2 ^ 56 + size % 16 * 2 ^ 48 + o % 2 ^ 24) ∧
      (s.getF Fld.SYS_STATUS_BAD_ACCESS = 1 → ∃ t u, exec (.bar0UnmappedAccess write o size) s = .next t ∧
        exec (.bar0Abort write o size) s = .next u ∧ t.regs = s.regs ∧ u.regs = s.regs ∧ t.mem = s.mem ∧ u.mem = s.mem) ∧
      (hostReaches s = false → exec (.bar0UnmappedAccess write o size) s = .next s ∧
        exec (.bar0Abort write o size) s = .next s ∧ exec (.registerWrite .host o size v) s = .next s ∧
        exec (.latchedHalfRead .host o) s = .next s)) ∧
    (hostReaches s = true ↔ s.getF Fld.HIF_STATUS_MODE ≠ 0) ∧
    (hostReaches s = true → bar0Shape off 4 = true → (regCovering off).isSome = true → ∃ t,
      exec (.latchedHalfRead .host off) s = .next t ∧ t.out = s.out ++ [.completion (some (regRead s .host off 4).1)]) ∧
    (∃ t, exec (.sysEvtClear v) s = .next t ∧ t.mem = s.mem ∧
      (∀ i, i < 14 → (t.getF Fld.SYS_EVT_EVT).testBit i = ((s.getF Fld.SYS_EVT_EVT).testBit i && !v.getLsbD i)) ∧
      let u := s.msix (s.getF Fld.SYS_EVT_EN_VECTOR)
      t.out = (if t.evtSummary = 0 then s.out else u.out) ∧ t.hif = (if t.evtSummary = 0 then s.hif else u.hif)) ∧
    (∃ t, exec (.sysEvtEnWrite v) s = .next t ∧ t.mem = s.mem ∧ t.getF Fld.SYS_EVT_EN_EN = v.toNat % 2 ^ 14 ∧
      t.getF Fld.SYS_EVT_EN_VECTOR = v.toNat / 2 ^ 16 % 2 ^ 6 ∧ t.getF Fld.SYS_EVT_EVT = s.getF Fld.SYS_EVT_EVT ∧
      let u := s.msix (t.getF Fld.SYS_EVT_EN_VECTOR)
      t.out = (if t.evtSummary = 0 then s.out else u.out) ∧ t.hif = (if t.evtSummary = 0 then s.hif else u.hif)) ∧
    (∀ (u : State) (n : Fin 64),
      (u.hif.msix[n].masked = false → u.msix n.val = { u with out := u.out ++ [.msix n.val] }) ∧
      (u.hif.msix[n].masked = true → (u.msix n.val).out = u.out ∧ ((u.msix n.val).hif.msix[n]).pending = true)) ∧
    (∀ ptr : BitVec 24, exec (.smbusBlockWrite ptr) s = .next { s with sys := { s.sys with smbPtr := ptr.toNat } }) ∧
    (exec (.smbusBlockRead) s = .next { s with
        out := s.out ++ [.smbus (smbusData s)], sys := { s.sys with smbPtr := (s.sys.smbPtr + 8) % 2 ^ 24 } } ∧
      (s.sys.smbPtr < 0x5_0000 → s.sys.smbPtr % 8 = 0 → smbusData s = leBytes 8 (regRead s .host s.sys.smbPtr 8).1) ∧
      (0x5_0000 ≤ s.sys.smbPtr → smbusData s = List.replicate 8 0))

/-- Time and debug (R373, R431, R432, R434, R435): a step adds DELTA to DEVTIME, to T_IN of every entry of the stand-in log
and to BOOT_T_PG, and sets its event; after release one above STEP_MAX_NS is refused. ADJ is stored within its bounds. A
selected PPS edge is captured, one that follows another within 500 ms is not. A challenge serves one GO; a GO that passes
starts zeroisation, clears ADM_CTRL.ENABLE, and debug is enabled when the zeroisation is over.
Where it rests on the model's reading, that is log 61. -/
def Obligations.TimeAndDebug : Prop :=
  ∀ (s : State) (delta : Word) (adj : BitVec 32) (rising : Bool),
    let bound := s.getF Fld.SYS_TIME_CFG_STEP_MAX_NS
    (s.getF Fld.BOOT_STATUS_PHASE = 6 → bound < delta.toInt.natAbs → ∃ t, exec (.timeStep delta) s = .next t ∧
      t.devtime = s.devtime ∧ t.getF Fld.SYS_STATUS_STEP_REFUSED = 1 ∧ t.mem = s.mem ∧
      (t.getF Fld.SYS_EVT_EVT).testBit 10 = true) ∧
    (s.getF Fld.BOOT_STATUS_PHASE ≠ 6 ∨ delta.toInt.natAbs ≤ bound → ∃ t, exec (.timeStep delta) s = .next t ∧
      t.devtime = s.devtime + delta ∧ t.reg Off.BOOT_T_PG = (s.reg Off.BOOT_T_PG + delta.toNat) % 2 ^ 64 ∧
      (t.getF Fld.SYS_EVT_EVT).testBit 10 = true ∧ t.txns = s.txns ∧ t.jnl = s.jnl ∧
      (siLog s ≤ 131072 → ∀ n, n < siLog s →
        leNat (((logRead t n).drop 8).take 8) = (leNat (((logRead s n).drop 8).take 8) + delta.toNat) % 2 ^ 64) ∧
      (s.getF Fld.SYS_PPS_OUT_EN = 1 → s.now / 1000000000 ≠ t.now / 1000000000 → t.sys.ppsOut = some t.now)) ∧
    (∃ t, exec (.timeRateWrite adj) s = .next t ∧ t.devtime = s.devtime ∧ t.mem = s.mem ∧
      toSigned 32 (t.getF Fld.SYS_TIME_RATE_ADJ) = max (-2147483) (min 2147483 adj.toInt)) ∧
    (s.getF Fld.SYS_TIME_RATE_ADJ = 0 → s.sys.frac < 2 ^ 32 → (nextNs s).devtime = s.devtime + 1) ∧
    (s.getF Fld.SYS_TIME_CFG_PPS_EDGE = (if rising then 0 else 1) →
      ((∀ t0, s.sys.lastPps = some t0 → t0 + 500000000 ≤ s.now) → ∃ t, exec (.ppsEdge rising) s = .next t ∧
        t.reg Off.SYS_PPS_CAP = s.now ∧ t.sys.lastPps = some s.now ∧ (t.getF Fld.SYS_EVT_EVT).testBit 9 = true ∧
        t.mem = s.mem) ∧
      (∀ t0, s.sys.lastPps = some t0 → s.now < t0 + 500000000 → exec (.ppsEdge rising) s = .next s)) ∧
    (s.getF Fld.SYS_TIME_CFG_PPS_EDGE = (if rising then 1 else 0) → exec (.ppsEdge rising) s = .next s) ∧
    (s.getF Fld.SYS_PPS_OUT_EN = 1 → s.now % 1000000000 = 0 →
      exec (.ppsOutRise) s = .next { s with sys := { s.sys with ppsOut := some s.now } }) ∧
    (∀ t0, s.sys.ppsOut = some t0 → t0 + s.getF Fld.SYS_PPS_OUT_WIDTH_NS ≤ s.now →
      exec (.ppsOutFall) s = .next { s with sys := { s.sys with ppsOut := none } }) ∧
    (∃ t, exec (.debugNewchal) s = .next t ∧ challenge t = drbgFrom s.freeCtr 48 ∧ t.sys.dbgChal = true ∧ t.mem = s.mem) ∧
    (∀ (addr : Nat) (keyidx : Fin 4), s.sys.dbgWait = false → ∃ v, v.mem = s.mem ∧ v.sys = s.sys ∧ v.cry = s.cry ∧
      exec (.debugGo addr keyidx) s = .next (debugCheck v (addr / 64 % 2 ^ 41 * 64) keyidx.val)) ∧
    (∀ addr n b v1, s.sys.dbgWait = false → islandRead s .hif (hostPa addr) 256 = (b, v1) →
      let u := debugCheck s addr n
      let r := debugResult v1 n b
      u.getF Fld.SYS_DBG_CTRL_RESULT = r ∧ u.sys.dbgChal = false ∧
      (r ≠ 1 → u.cry = s.cry ∧ u.sys.dbgWait = false) ∧
      (r = 1 → u.sys.dbgWait = true ∧ u.cry.zeroing = true ∧ u.getF Fld.ADM_CTRL_ENABLE = 0) ∧
      (s.policy 1 = true → r = 2)) ∧
    (s.cry.zeroing = true → s.sys.dbgWait = true → ∃ t, exec (.zeroisationDone) s = .next t ∧ t.cry.keys = [] ∧
      t.cry.zeroing = false ∧ t.getF Fld.SYS_DBG_CTRL_ACTIVE = 1 ∧ t.getF Fld.SYS_STATUS_DEBUG = 1 ∧ t.sys.dbgWait = false)


/-! ## The block -/

/-- A step takes the command at the front of the queue and is exec of it on the state with the rest of the queue; every
command answers a next state. With an empty queue the step is the block's own tick (log 2). The table spells no command as
bits, so a word places none. -/
def Obligations.StepRunsFront : Prop :=
  (∀ (c : Instr) (rest : List Instr) (s : State), s.pending = c :: rest → step s = exec c { s with pending := rest }) ∧
  (∀ (c : Instr) (s : State), ∃ t, exec c s = .next t) ∧
  (∀ s : State, s.pending = [] → step s = .next (tick s)) ∧
  (∀ (s : State) (nbits w : Nat), decodeTableWord nbits w = none ∧ s.withFetchWord nbits w = s)

/-- Reset leaves every setup register at the value of its table, memory with nothing listed, every storage key 0 (R220),
DEVTIME at 0, no key, no connection, no transaction, no command, and every core in service with no context; its maps are in
canonical form. Only the values that the specification gives are claimed.
An unlisted byte of memory is log 4's, and the registers' internal zeros are log 5's. -/
def Obligations.ResetState : Prop :=
  Canonical State.reset ∧ (∀ off, State.reset.reg off = (RegMap.reset off).toNat) ∧ State.reset.mem = [] ∧
  (∀ pa, frameKey State.reset pa = 0) ∧ State.reset.devtime = 0 ∧ State.reset.cry.keys = [] ∧ State.reset.net.conns = [] ∧
  State.reset.txns = [] ∧ State.reset.pending = [] ∧ State.reset.boot.step = 0 ∧
  (∀ c b, (State.reset.bank c b).ctx = none ∧ (State.reset.core c).svc = .inService ∧ (State.reset.core c).cur = none) ∧
  State.reset.getF Fld.ADM_CTRL_ENABLE = 0 ∧ State.reset.getF Fld.HIF_CTRL_ENABLE = 0 ∧
  State.reset.getF Fld.BOOT_STATUS_PHASE = 0 ∧ State.reset.getF Fld.HIF_POLL_INTERVAL_NS = 2000 ∧
  State.reset.getF Fld.ERR_CFG_RETIRE_S = 86400 ∧ State.reset.getF Fld.ERR_CTRL_ESC_EN = 1

/-- Every command and every step keeps memory, storage keys and setup registers in their canonical forms, addresses
rising and no entry equal to what an unlisted address reads as, so that equal contents are equal data; a command leaves the
queue alone, and a step takes exactly its front. -/
def Obligations.CanonicalKept : Prop :=
  (∀ (c : Instr) (s : State), Canonical s → ∃ t, exec c s = .next t ∧ Canonical t ∧ t.pending = s.pending) ∧
  (∀ s : State, Canonical s → ∃ t, step s = .next t ∧ Canonical t ∧ t.pending = s.pending.tail)
end

