-- ==== Sys2Proof/Laws/Exec.lean ====
section
/-! SUPPORT. Which meaning each command has: the arms of the dispatch, one equation each, so that no proof unfolds it. -/

namespace Sys2Proof.Laws

open Sys2Proof Sys2Proof.Machine

variable (s : State)

theorem exec_frameReceive (p : Fin 8) (frame : List Byte) : exec (.frameReceive p frame) s = execFrameReceive p frame s := rfl
theorem exec_handbackComplete (h : Nat) : exec (.handbackComplete h) s = execHandbackComplete h s := rfl
theorem exec_segmentTransmit (p : Fin 8) : exec (.segmentTransmit p) s = execSegmentTransmit p s := rfl
theorem exec_retransmitTimeout (h : Nat) : exec (.retransmitTimeout h) s = execRetransmitTimeout h s := rfl
theorem exec_delayedAckTimer (h : Nat) : exec (.delayedAckTimer h) s = execDelayedAckTimer h s := rfl
theorem exec_zeroWindowProbe (h : Nat) : exec (.zeroWindowProbe h) s = execZeroWindowProbe h s := rfl
theorem exec_persistLimit (h : Nat) : exec (.persistLimit h) s = execPersistLimit h s := rfl
theorem exec_stallBoundExpiry (h : Nat) : exec (.stallBoundExpiry h) s = execStallBoundExpiry h s := rfl
theorem exec_portFail (p : Fin 8) (cause : PortCause) : exec (.portFail p cause) s = execPortFail p cause s := rfl
theorem exec_txqTransmit (desc : List Byte) : exec (.txqTransmit desc) s = execTxqTransmit desc s := rfl
theorem exec_admission (m : MsgSource) : exec (.admission m) s = execAdmission m s := rfl
theorem exec_xltParse (lane : Fin 32) : exec (.xltParse lane) s = execXltParse lane s := rfl
theorem exec_xltEchoScan (lane : Fin 32) : exec (.xltEchoScan lane) s = execXltEchoScan lane s := rfl
theorem exec_technicalDecline (lane : Fin 32) : exec (.technicalDecline lane) s = execTechnicalDecline lane s := rfl
theorem exec_xltSerialise (lane : Fin 32) : exec (.xltSerialise lane) s = execXltSerialise lane s := rfl
theorem exec_xltEnableWrite (v : Bool) : exec (.xltEnableWrite v) s = execXltEnableWrite v s := rfl
theorem exec_bind (t : TileId) : exec (.bind t) s = execBind t s := rfl
theorem exec_callerStop (c : CoreId) : exec (.callerStop c) s = execCallerStop c s := rfl
theorem exec_timerExpiry (c : CoreId) (b : BankId) : exec (.timerExpiry c b) s = execTimerExpiry c b s := rfl
theorem exec_deadlineAlarm (an : Nat) : exec (.deadlineAlarm an) s = execDeadlineAlarm an s := rfl
theorem exec_budgetExceeded (c : CoreId) (b : BankId) : exec (.budgetExceeded c b) s = execBudgetExceeded c b s := rfl
theorem exec_boundaryResponse (c : CoreId) (b : BankId) (k : Boundary) : exec (.boundaryResponse c b k) s = execBoundaryResponse c b k s := rfl
theorem exec_machineCheck (c : CoreId) (b : BankId) : exec (.machineCheck c b) s = execMachineCheck c b s := rfl
theorem exec_bank15Timeout (c : CoreId) : exec (.bank15Timeout c) s = execBank15Timeout c s := rfl
theorem exec_instructionFetch (c : CoreId) : exec (.instructionFetch c) s = execInstructionFetch c s := rfl
theorem exec_storeDrain (c : CoreId) : exec (.storeDrain c) s = execStoreDrain c s := rfl
theorem exec_asyncMchk (c : CoreId) : exec (.asyncMchk c) s = execAsyncMchk c s := rfl
theorem exec_accessTimeout (c : CoreId) (addr : Word) : exec (.accessTimeout c addr) s = execAccessTimeout c addr s := rfl
theorem exec_add (c : CoreId) (d a b : Reg) : exec (.add c d a b) s = execAdd c d a b s := rfl
theorem exec_sub (c : CoreId) (d a b : Reg) : exec (.sub c d a b) s = execSub c d a b s := rfl
theorem exec_and (c : CoreId) (d a b : Reg) : exec (.and c d a b) s = execAnd c d a b s := rfl
theorem exec_or (c : CoreId) (d a b : Reg) : exec (.or c d a b) s = execOr c d a b s := rfl
theorem exec_xor (c : CoreId) (d a b : Reg) : exec (.xor c d a b) s = execXor c d a b s := rfl
theorem exec_andn (c : CoreId) (d a b : Reg) : exec (.andn c d a b) s = execAndn c d a b s := rfl
theorem exec_sll (c : CoreId) (d a b : Reg) : exec (.sll c d a b) s = execSll c d a b s := rfl
theorem exec_srl (c : CoreId) (d a b : Reg) : exec (.srl c d a b) s = execSrl c d a b s := rfl
theorem exec_sra (c : CoreId) (d a b : Reg) : exec (.sra c d a b) s = execSra c d a b s := rfl
theorem exec_slli (c : CoreId) (d a : Reg) (sh : Fin 64) : exec (.slli c d a sh) s = execSlli c d a sh s := rfl
theorem exec_srli (c : CoreId) (d a : Reg) (sh : Fin 64) : exec (.srli c d a sh) s = execSrli c d a sh s := rfl
theorem exec_srai (c : CoreId) (d a : Reg) (sh : Fin 64) : exec (.srai c d a sh) s = execSrai c d a sh s := rfl
theorem exec_adds (c : CoreId) (d a b : Reg) : exec (.adds c d a b) s = execAdds c d a b s := rfl
theorem exec_addc (c : CoreId) (d a b : Reg) : exec (.addc c d a b) s = execAddc c d a b s := rfl
theorem exec_subs (c : CoreId) (d a b : Reg) : exec (.subs c d a b) s = execSubs c d a b s := rfl
theorem exec_subb (c : CoreId) (d a b : Reg) : exec (.subb c d a b) s = execSubb c d a b s := rfl
theorem exec_cmp (c : CoreId) (a b : Reg) : exec (.cmp c a b) s = execCmp c a b s := rfl
theorem exec_cmpu (c : CoreId) (a b : Reg) : exec (.cmpu c a b) s = execCmpu c a b s := rfl
theorem exec_sextb (c : CoreId) (d a : Reg) : exec (.sextb c d a) s = execSextb c d a s := rfl
theorem exec_sexth (c : CoreId) (d a : Reg) : exec (.sexth c d a) s = execSexth c d a s := rfl
theorem exec_sextw (c : CoreId) (d a : Reg) : exec (.sextw c d a) s = execSextw c d a s := rfl
theorem exec_mul (c : CoreId) (d a b : Reg) : exec (.mul c d a b) s = execMul c d a b s := rfl
theorem exec_mulwu (c : CoreId) (d a b : Reg) : exec (.mulwu c d a b) s = execMulwu c d a b s := rfl
theorem exec_mulws (c : CoreId) (d a b : Reg) : exec (.mulws c d a b) s = execMulws c d a b s := rfl
theorem exec_divu (c : CoreId) (d a b : Reg) : exec (.divu c d a b) s = execDivu c d a b s := rfl
theorem exec_divs (c : CoreId) (d a b : Reg) : exec (.divs c d a b) s = execDivs c d a b s := rfl
theorem exec_remu (c : CoreId) (d a b : Reg) : exec (.remu c d a b) s = execRemu c d a b s := rfl
theorem exec_rems (c : CoreId) (d a b : Reg) : exec (.rems c d a b) s = execRems c d a b s := rfl
theorem exec_divwu (c : CoreId) (d a b : Reg) : exec (.divwu c d a b) s = execDivwu c d a b s := rfl
theorem exec_fadd (c : CoreId) (dbl : Bool) (d a b : Reg) : exec (.fadd c dbl d a b) s = execFadd c dbl d a b s := rfl
theorem exec_fsub (c : CoreId) (dbl : Bool) (d a b : Reg) : exec (.fsub c dbl d a b) s = execFsub c dbl d a b s := rfl
theorem exec_fmul (c : CoreId) (dbl : Bool) (d a b : Reg) : exec (.fmul c dbl d a b) s = execFmul c dbl d a b s := rfl
theorem exec_fdiv (c : CoreId) (dbl : Bool) (d a b : Reg) : exec (.fdiv c dbl d a b) s = execFdiv c dbl d a b s := rfl
theorem exec_fma (c : CoreId) (dbl : Bool) (d a b cc : Reg) : exec (.fma c dbl d a b cc) s = execFma c dbl d a b cc s := rfl
theorem exec_fsqrt (c : CoreId) (dbl : Bool) (d a : Reg) : exec (.fsqrt c dbl d a) s = execFsqrt c dbl d a s := rfl
theorem exec_fcvt (c : CoreId) (dbl : Bool) (d a : Reg) : exec (.fcvt c dbl d a) s = execFcvt c dbl d a s := rfl
theorem exec_fcvti (c : CoreId) (dbl : Bool) (d a : Reg) : exec (.fcvti c dbl d a) s = execFcvti c dbl d a s := rfl
theorem exec_fcvtiz (c : CoreId) (dbl : Bool) (d a : Reg) : exec (.fcvtiz c dbl d a) s = execFcvtiz c dbl d a s := rfl
theorem exec_fcvtf (c : CoreId) (dbl : Bool) (d a : Reg) : exec (.fcvtf c dbl d a) s = execFcvtf c dbl d a s := rfl
theorem exec_fcmpq (c : CoreId) (dbl : Bool) (a b : Reg) : exec (.fcmpq c dbl a b) s = execFcmpq c dbl a b s := rfl
theorem exec_fcmps (c : CoreId) (dbl : Bool) (a b : Reg) : exec (.fcmps c dbl a b) s = execFcmps c dbl a b s := rfl
theorem exec_fmvfg (c : CoreId) (dbl : Bool) (d a : Reg) : exec (.fmvfg c dbl d a) s = execFmvfg c dbl d a s := rfl
theorem exec_fmvgf (c : CoreId) (dbl : Bool) (d a : Reg) : exec (.fmvgf c dbl d a) s = execFmvgf c dbl d a s := rfl
theorem exec_fneg (c : CoreId) (dbl : Bool) (d a : Reg) : exec (.fneg c dbl d a) s = execFneg c dbl d a s := rfl
theorem exec_fabs (c : CoreId) (dbl : Bool) (d a : Reg) : exec (.fabs c dbl d a) s = execFabs c dbl d a s := rfl
theorem exec_addi (c : CoreId) (d a : Reg) (imm : BitVec 16) : exec (.addi c d a imm) s = execAddi c d a imm s := rfl
theorem exec_andi (c : CoreId) (d a : Reg) (imm : BitVec 16) : exec (.andi c d a imm) s = execAndi c d a imm s := rfl
theorem exec_ori (c : CoreId) (d a : Reg) (imm : BitVec 16) : exec (.ori c d a imm) s = execOri c d a imm s := rfl
theorem exec_xori (c : CoreId) (d a : Reg) (imm : BitVec 16) : exec (.xori c d a imm) s = execXori c d a imm s := rfl
theorem exec_lui (c : CoreId) (d : Reg) (imm : BitVec 16) : exec (.lui c d imm) s = execLui c d imm s := rfl
theorem exec_cmpi (c : CoreId) (a : Reg) (imm : BitVec 16) : exec (.cmpi c a imm) s = execCmpi c a imm s := rfl
theorem exec_cmpui (c : CoreId) (a : Reg) (imm : BitVec 16) : exec (.cmpui c a imm) s = execCmpui c a imm s := rfl
theorem exec_ldb (c : CoreId) (d a : Reg) (imm : BitVec 16) : exec (.ldb c d a imm) s = execLdb c d a imm s := rfl
theorem exec_ldh (c : CoreId) (d a : Reg) (imm : BitVec 16) : exec (.ldh c d a imm) s = execLdh c d a imm s := rfl
theorem exec_ldw (c : CoreId) (d a : Reg) (imm : BitVec 16) : exec (.ldw c d a imm) s = execLdw c d a imm s := rfl
theorem exec_ldd (c : CoreId) (d a : Reg) (imm : BitVec 16) : exec (.ldd c d a imm) s = execLdd c d a imm s := rfl
theorem exec_ldbs (c : CoreId) (d a : Reg) (imm : BitVec 16) : exec (.ldbs c d a imm) s = execLdbs c d a imm s := rfl
theorem exec_ldhs (c : CoreId) (d a : Reg) (imm : BitVec 16) : exec (.ldhs c d a imm) s = execLdhs c d a imm s := rfl
theorem exec_ldws (c : CoreId) (d a : Reg) (imm : BitVec 16) : exec (.ldws c d a imm) s = execLdws c d a imm s := rfl
theorem exec_pref (c : CoreId) (wr : Bool) (a : Reg) (imm : BitVec 16) : exec (.pref c wr a imm) s = execPref c wr a imm s := rfl
theorem exec_stb (c : CoreId) (d a : Reg) (imm : BitVec 16) : exec (.stb c d a imm) s = execStb c d a imm s := rfl
theorem exec_sth (c : CoreId) (d a : Reg) (imm : BitVec 16) : exec (.sth c d a imm) s = execSth c d a imm s := rfl
theorem exec_stw (c : CoreId) (d a : Reg) (imm : BitVec 16) : exec (.stw c d a imm) s = execStw c d a imm s := rfl
theorem exec_std (c : CoreId) (d a : Reg) (imm : BitVec 16) : exec (.std c d a imm) s = execStd c d a imm s := rfl
theorem exec_fldd (c : CoreId) (d a : Reg) (imm : BitVec 16) : exec (.fldd c d a imm) s = execFldd c d a imm s := rfl
theorem exec_fstd (c : CoreId) (d a : Reg) (imm : BitVec 16) : exec (.fstd c d a imm) s = execFstd c d a imm s := rfl
theorem exec_flds (c : CoreId) (d a : Reg) (imm : BitVec 16) : exec (.flds c d a imm) s = execFlds c d a imm s := rfl
theorem exec_fsts (c : CoreId) (d a : Reg) (imm : BitVec 16) : exec (.fsts c d a imm) s = execFsts c d a imm s := rfl
theorem exec_bc (c : CoreId) (mask : BitVec 4) (disp : BitVec 22) : exec (.bc c mask disp) s = execBc c mask disp s := rfl
theorem exec_jal (c : CoreId) (d : Reg) (disp : BitVec 21) : exec (.jal c d disp) s = execJal c d disp s := rfl
theorem exec_jalr (c : CoreId) (d a : Reg) (imm : BitVec 16) : exec (.jalr c d a imm) s = execJalr c d a imm s := rfl
theorem exec_stm (c : CoreId) (a b x : Reg) (stop : Option Nat) : exec (.stm c a b x stop) s = execStm c a b x stop s := rfl
theorem exec_ldm (c : CoreId) (a b x : Reg) (stop : Option Nat) : exec (.ldm c a b x stop) s = execLdm c a b x stop s := rfl
theorem exec_svlk (c : CoreId) (b m : Reg) (imm : BitVec 16) (stop : Option Nat) : exec (.svlk c b m imm stop) s = execSvlk c b m imm stop s := rfl
theorem exec_rslk (c : CoreId) (b m : Reg) (stop : Option Nat) : exec (.rslk c b m stop) s = execRslk c b m stop s := rfl
theorem exec_smov (c : CoreId) (d xs n : Reg) (stop : Option Nat) : exec (.smov c d xs n stop) s = execSmov c d xs n stop s := rfl
theorem exec_smovx (c : CoreId) (d xs n : Reg) (stop : Option Nat) : exec (.smovx c d xs n stop) s = execSmovx c d xs n stop s := rfl
theorem exec_sfill (c : CoreId) (d b n : Reg) (stop : Option Nat) : exec (.sfill c d b n stop) s = execSfill c d b n stop s := rfl
theorem exec_scmp (c : CoreId) (a b n : Reg) (stop : Option Nat) : exec (.scmp c a b n stop) s = execScmp c a b n stop s := rfl
theorem exec_str (c : CoreId) (d xs n t : Reg) (stop : Option Nat) : exec (.str c d xs n t stop) s = execStr c d xs n t stop s := rfl
theorem exec_sscan (c : CoreId) (a n t f : Reg) (stop : Option Nat) : exec (.sscan c a n t f stop) s = execSscan c a n t f stop s := rfl
theorem exec_scvu (c : CoreId) (d xs n t : Reg) (stop : Option Nat) : exec (.scvu c d xs n t stop) s = execScvu c d xs n t stop s := rfl
theorem exec_scvs (c : CoreId) (d xs n t : Reg) (stop : Option Nat) : exec (.scvs c d xs n t stop) s = execScvs c d xs n t stop s := rfl
theorem exec_edit (c : CoreId) (d p xs : Reg) (stop : Option Nat) : exec (.edit c d p xs stop) s = execEdit c d p xs stop s := rfl
theorem exec_scall (c : CoreId) : exec (.scall c) s = execScall c s := rfl
theorem exec_breakpoint (c : CoreId) : exec (.breakpoint c) s = execBreakpoint c s := rfl
theorem exec_fenceSl (c : CoreId) : exec (.fenceSl c) s = execFenceSl c s := rfl
theorem exec_fenceDev (c : CoreId) : exec (.fenceDev c) s = execFenceDev c s := rfl
theorem exec_fenceAll (c : CoreId) : exec (.fenceAll c) s = execFenceAll c s := rfl
theorem exec_csync (c : CoreId) : exec (.csync c) s = execCsync c s := rfl
theorem exec_isync (c : CoreId) : exec (.isync c) s = execIsync c s := rfl
theorem exec_ctlr (c : CoreId) (d ctl : Reg) : exec (.ctlr c d ctl) s = execCtlr c d ctl s := rfl
theorem exec_ctlw (c : CoreId) (ctl a : Reg) : exec (.ctlw c ctl a) s = execCtlw c ctl a s := rfl
theorem exec_tret (c : CoreId) : exec (.tret c) s = execTret c s := rfl
theorem exec_quar (c : CoreId) : exec (.quar c) s = execQuar c s := rfl
theorem exec_msync (c : CoreId) : exec (.msync c) s = execMsync c s := rfl
theorem exec_tlbsync (c : CoreId) : exec (.tlbsync c) s = execTlbsync c s := rfl
theorem exec_tlbins (c : CoreId) (a b : Reg) : exec (.tlbins c a b) s = execTlbins c a b s := rfl
theorem exec_tlbset (c : CoreId) (d a b : Reg) : exec (.tlbset c d a b) s = execTlbset c d a b s := rfl
theorem exec_tlbrd (c : CoreId) (d a : Reg) : exec (.tlbrd c d a) s = execTlbrd c d a s := rfl
theorem exec_tlbfind (c : CoreId) (d a : Reg) : exec (.tlbfind c d a) s = execTlbfind c d a s := rfl
theorem exec_tlbiv (c : CoreId) (a : Reg) (bcast : Bool) : exec (.tlbiv c a bcast) s = execTlbiv c a bcast s := rfl
theorem exec_tlbia (c : CoreId) (a : Reg) (bcast : Bool) : exec (.tlbia c a bcast) s = execTlbia c a bcast s := rfl
theorem exec_fkset (c : CoreId) (a b : Reg) : exec (.fkset c a b) s = execFkset c a b s := rfl
theorem exec_fkget (c : CoreId) (d a : Reg) : exec (.fkget c d a) s = execFkget c d a s := rfl
theorem exec_ldl (c : CoreId) (r k n : Reg) : exec (.ldl c r k n) s = execLdl c r k n s := rfl
theorem exec_ldlu (c : CoreId) (r k n : Reg) : exec (.ldlu c r k n) s = execLdlu c r k n s := rfl
theorem exec_stl (c : CoreId) (r k n : Reg) : exec (.stl c r k n) s = execStl c r k n s := rfl
theorem exec_del (c : CoreId) (k n : Reg) : exec (.del c k n) s = execDel c k n s := rfl
theorem exec_commit (c : CoreId) : exec (.commit c) s = execCommit c s := rfl
theorem exec_abort (c : CoreId) (a : Reg) : exec (.abort c a) s = execAbort c a s := rfl
theorem exec_crypt (c : CoreId) (a : Reg) : exec (.crypt c a) s = execCrypt c a s := rfl
theorem exec_waitt (c : CoreId) (a : Reg) : exec (.waitt c a) s = execWaitt c a s := rfl
theorem exec_dadd (c : CoreId) (a b : MOp) : exec (.dadd c a b) s = execDadd c a b s := rfl
theorem exec_dsub (c : CoreId) (a b : MOp) : exec (.dsub c a b) s = execDsub c a b s := rfl
theorem exec_dmul (c : CoreId) (a b : MOp) : exec (.dmul c a b) s = execDmul c a b s := rfl
theorem exec_ddiv (c : CoreId) (a b : MOp) : exec (.ddiv c a b) s = execDdiv c a b s := rfl
theorem exec_dmod (c : CoreId) (a b : MOp) : exec (.dmod c a b) s = execDmod c a b s := rfl
theorem exec_dcpy (c : CoreId) (a b : MOp) : exec (.dcpy c a b) s = execDcpy c a b s := rfl
theorem exec_dcmp (c : CoreId) (a b : MOp) : exec (.dcmp c a b) s = execDcmp c a b s := rfl
theorem exec_dshf (c : CoreId) (a b : MOp) (n : BitVec 7) : exec (.dshf c a b n) s = execDshf c a b n s := rfl
theorem exec_dtst (c : CoreId) (a : MOp) : exec (.dtst c a) s = execDtst c a s := rfl
theorem exec_packz (c : CoreId) (a z : MOp) : exec (.packz c a z) s = execPackz c a z s := rfl
theorem exec_unpkz (c : CoreId) (z a : MOp) : exec (.unpkz c z a) s = execUnpkz c z a s := rfl
theorem exec_cvpb (c : CoreId) (d : Reg) (b : MOp) : exec (.cvpb c d b) s = execCvpb c d b s := rfl
theorem exec_cvbp (c : CoreId) (a : MOp) (g : Reg) : exec (.cvbp c a g) s = execCvbp c a g s := rfl
theorem exec_dlda (c : CoreId) (n : Fin 8) (b : MOp) : exec (.dlda c n b) s = execDlda c n b s := rfl
theorem exec_dsta (c : CoreId) (a : MOp) (n : Fin 8) : exec (.dsta c a n) s = execDsta c a n s := rfl
theorem exec_dada (c : CoreId) (n : Fin 8) (b : MOp) : exec (.dada c n b) s = execDada c n b s := rfl
theorem exec_dsba (c : CoreId) (n : Fin 8) (b : MOp) : exec (.dsba c n b) s = execDsba c n b s := rfl
theorem exec_dmla (c : CoreId) (n : Fin 8) (b : MOp) : exec (.dmla c n b) s = execDmla c n b s := rfl
theorem exec_dcpa (c : CoreId) (n : Fin 8) (b : MOp) : exec (.dcpa c n b) s = execDcpa c n b s := rfl
theorem exec_dadr (c : CoreId) (n m : Fin 8) : exec (.dadr c n m) s = execDadr c n m s := rfl
theorem exec_microcodeWatchdog (c : CoreId) : exec (.microcodeWatchdog c) s = execMicrocodeWatchdog c s := rfl
theorem exec_waitBoundExpiry (c : CoreId) (code : Fin 7) (addr : Word) : exec (.waitBoundExpiry c code addr) s = execWaitBoundExpiry c code addr s := rfl
theorem exec_controlStoreScrub (c : CoreId) (word : Nat) (e : EccState) : exec (.controlStoreScrub c word e) s = execControlStoreScrub c word e s := rfl
theorem exec_ledgerResponse (c : CoreId) (b : BankId) : exec (.ledgerResponse c b) s = execLedgerResponse c b s := rfl
theorem exec_wound (c : CoreId) (b : BankId) : exec (.wound c b) s = execWound c b s := rfl
theorem exec_runEndRelease (an : Nat) : exec (.runEndRelease an) s = execRunEndRelease an s := rfl
theorem exec_jsnAssignment (an : Nat) : exec (.jsnAssignment an) s = execJsnAssignment an s := rfl
theorem exec_hbmScrub (line : Nat) (e : EccState) : exec (.hbmScrub line e) s = execHbmScrub line e s := rfl
theorem exec_recordComplete : exec (.recordComplete) s = execRecordComplete s := rfl
theorem exec_mirrorGroupSend : exec (.mirrorGroupSend) s = execMirrorGroupSend s := rfl
theorem exec_mirrorAck (m : MirrorFrom) : exec (.mirrorAck m) s = execMirrorAck m s := rfl
theorem exec_mirrorTargetTimeout : exec (.mirrorTargetTimeout) s = execMirrorTargetTimeout s := rfl
theorem exec_epochSeam : exec (.epochSeam) s = execEpochSeam s := rfl
theorem exec_epochClose : exec (.epochClose) s = execEpochClose s := rfl
theorem exec_stragglerTimeout : exec (.stragglerTimeout) s = execStragglerTimeout s := rfl
theorem exec_sealComplete : exec (.sealComplete) s = execSealComplete s := rfl
theorem exec_sealRetry : exec (.sealRetry) s = execSealRetry s := rfl
theorem exec_exportPost : exec (.exportPost) s = execExportPost s := rfl
theorem exec_gsealWaitExpiry : exec (.gsealWaitExpiry) s = execGsealWaitExpiry s := rfl
theorem exec_gseal (h : KHdr) (bytes : List Byte) : exec (.gseal h bytes) s = execGseal h bytes s := rfl
theorem exec_sealMessage (h : KHdr) (gepoch : Nat) (bytes : List Byte) : exec (.sealMessage h gepoch bytes) s = execSealMessage h gepoch bytes s := rfl
theorem exec_linkResend (p : Fin 8) (w : LinkFail) : exec (.linkResend p w) s = execLinkResend p w s := rfl
theorem exec_kportFail (p : Fin 8) (cause : PortCause) : exec (.kportFail p cause) s = execKportFail p cause s := rfl
theorem exec_linkstate (h : KHdr) (node : Nat) (bond : Fin 8) (recovered : Bool) : exec (.linkstate h node bond recovered) s = execLinkstate h node bond recovered s := rfl
theorem exec_heartbeatSend : exec (.heartbeatSend) s = execHeartbeatSend s := rfl
theorem exec_heartbeat (h : KHdr) (lgen : Nat) (route : Bool) (sent : Nat) : exec (.heartbeat h lgen route sent) s = execHeartbeat h lgen route sent s := rfl
theorem exec_leadLossTimeout : exec (.leadLossTimeout) s = execLeadLossTimeout s := rfl
theorem exec_takeover (h : KHdr) (lgen lead : Nat) : exec (.takeover h lgen lead) s = execTakeover h lgen lead s := rfl
theorem exec_tickSend : exec (.tickSend) s = execTickSend s := rfl
theorem exec_tick (h : KHdr) (seam gepoch smapGen lgen : Nat) : exec (.tick h seam gepoch smapGen lgen) s = execTick h seam gepoch smapGen lgen s := rfl
theorem exec_tickMiss : exec (.tickMiss) s = execTickMiss s := rfl
theorem exec_timeExchange : exec (.timeExchange) s = execTimeExchange s := rfl
theorem exec_timeRequest (h : KHdr) (t1 : Nat) : exec (.timeRequest h t1) s = execTimeRequest h t1 s := rfl
theorem exec_timeAnswer (h : KHdr) (t1 t2 t3 : Nat) : exec (.timeAnswer h t1 t2 t3) s = execTimeAnswer h t1 t2 t3 s := rfl
theorem exec_map (h : KHdr) (gen first : Nat) (entries : List Nat) : exec (.map h gen first entries) s = execMap h gen first entries s := rfl
theorem exec_applied (h : KHdr) (ref partJsn : Nat) : exec (.applied h ref partJsn) s = execApplied h ref partJsn s := rfl
theorem exec_lop (h : KHdr) (op bench : Nat) (keyhash : Word) (key data : List Byte) : exec (.lop h op bench keyhash key data) s = execLop h op bench keyhash key data s := rfl
theorem exec_lopRsp (h : KHdr) (cc : Nat) (record : List Byte) : exec (.lopRsp h cc record) s = execLopRsp h cc record s := rfl
theorem exec_prepare (h : KHdr) (nrsv : Nat) : exec (.prepare h nrsv) s = execPrepare h nrsv s := rfl
theorem exec_prepRsp (h : KHdr) (result : Nat) : exec (.prepRsp h result) s = execPrepRsp h result s := rfl
theorem exec_apply (h : KHdr) (coordJsn : Nat) : exec (.apply h coordJsn) s = execApply h coordJsn s := rfl
theorem exec_applyResend (an node : Nat) : exec (.applyResend an node) s = execApplyResend an node s := rfl
theorem exec_woundMessage (h : KHdr) (reqAn reqDeadline : Nat) : exec (.woundMessage h reqAn reqDeadline) s = execWoundMessage h reqAn reqDeadline s := rfl
theorem exec_woundResend (an : Nat) : exec (.woundResend an) s = execWoundResend an s := rfl
theorem exec_kolRelease (h : KHdr) : exec (.kolRelease h) s = execKolRelease h s := rfl
theorem exec_reservationLeaseExpiry (an run : Nat) : exec (.reservationLeaseExpiry an run) s = execReservationLeaseExpiry an run s := rfl
theorem exec_holdExpiry (an run : Nat) : exec (.holdExpiry an run) s = execHoldExpiry an run s := rfl
theorem exec_kolTimeout (req : Nat) : exec (.kolTimeout req) s = execKolTimeout req s := rfl
theorem exec_wread (h : KHdr) (offset size : Nat) : exec (.wread h offset size) s = execWread h offset size s := rfl
theorem exec_wwrite (h : KHdr) (offset size : Nat) (data : Word) : exec (.wwrite h offset size data) s = execWwrite h offset size data s := rfl
theorem exec_winRsp (h : KHdr) (status : Nat) (data : Word) : exec (.winRsp h status data) s = execWinRsp h status data s := rfl
theorem exec_mirror (h : KHdr) (firstJsn goff : Nat) (data : List Byte) : exec (.mirror h firstJsn goff data) s = execMirror h firstJsn goff data s := rfl
theorem exec_kolEnableWrite (v : Bool) : exec (.kolEnableWrite v) s = execKolEnableWrite v s := rfl
theorem exec_doorbellSnoop (r : Fin 40) : exec (.doorbellSnoop r) s = execDoorbellSnoop r s := rfl
theorem exec_doorbellPoll : exec (.doorbellPoll) s = execDoorbellPoll s := rfl
theorem exec_doorbellRead (r : Fin 40) : exec (.doorbellRead r) s = execDoorbellRead r s := rfl
theorem exec_submissionFetch (sq : Fin 16) : exec (.submissionFetch sq) s = execSubmissionFetch sq s := rfl
theorem exec_completionPost (r : Fin 40) : exec (.completionPost r) s = execCompletionPost r s := rfl
theorem exec_excPost : exec (.excPost) s = execExcPost s := rfl
theorem exec_ringEnable (r : Fin 40) : exec (.ringEnable r) s = execRingEnable r s := rfl
theorem exec_ringIrqTimer (r : Fin 40) : exec (.ringIrqTimer r) s = execRingIrqTimer r s := rfl
theorem exec_drainTimeout (r : Fin 40) : exec (.drainTimeout r) s = execDrainTimeout r s := rfl
theorem exec_hostAccessTimeout (r : Option (Fin 40)) (f : HostFail) : exec (.hostAccessTimeout r f) s = execHostAccessTimeout r f s := rfl
theorem exec_pcieLinkUp (cxl : Bool) (speed width : Nat) : exec (.pcieLinkUp cxl speed width) s = execPcieLinkUp cxl speed width s := rfl
theorem exec_pciePerst : exec (.pciePerst) s = execPciePerst s := rfl
theorem exec_handover (a : AdminCmd) : exec (.handover a) s = execHandover a s := rfl
theorem exec_close (a : AdminCmd) : exec (.close a) s = execClose a s := rfl
theorem exec_rekey (a : AdminCmd) : exec (.rekey a) s = execRekey a s := rfl
theorem exec_portMove (a : AdminCmd) : exec (.portMove a) s = execPortMove a s := rfl
theorem exec_descriptorUpdate (a : AdminCmd) : exec (.descriptorUpdate a) s = execDescriptorUpdate a s := rfl
theorem exec_dialectLoad (a : AdminCmd) : exec (.dialectLoad a) s = execDialectLoad a s := rfl
theorem exec_benchConfigure (a : AdminCmd) : exec (.benchConfigure a) s = execBenchConfigure a s := rfl
theorem exec_bulkLoad (a : AdminCmd) : exec (.bulkLoad a) s = execBulkLoad a s := rfl
theorem exec_cancel (a : AdminCmd) : exec (.cancel a) s = execCancel a s := rfl
theorem exec_keyLoad (a : AdminCmd) : exec (.keyLoad a) s = execKeyLoad a s := rfl
theorem exec_keyExport (a : AdminCmd) : exec (.keyExport a) s = execKeyExport a s := rfl
theorem exec_keyDelete (a : AdminCmd) : exec (.keyDelete a) s = execKeyDelete a s := rfl
theorem exec_keyInfo (a : AdminCmd) : exec (.keyInfo a) s = execKeyInfo a s := rfl
theorem exec_keySave (a : AdminCmd) : exec (.keySave a) s = execKeySave a s := rfl
theorem exec_keyRestore (a : AdminCmd) : exec (.keyRestore a) s = execKeyRestore a s := rfl
theorem exec_zeroise (a : AdminCmd) : exec (.zeroise a) s = execZeroise a s := rfl
theorem exec_journalTail (a : AdminCmd) : exec (.journalTail a) s = execJournalTail a s := rfl
theorem exec_mapUpdate (a : AdminCmd) : exec (.mapUpdate a) s = execMapUpdate a s := rfl
theorem exec_sliceTransfer (a : AdminCmd) : exec (.sliceTransfer a) s = execSliceTransfer a s := rfl
theorem exec_orphanResolve (a : AdminCmd) : exec (.orphanResolve a) s = execOrphanResolve a s := rfl
theorem exec_cryptoJobStart (k : EngineKind) (e : Fin 48) : exec (.cryptoJobStart k e) s = execCryptoJobStart k e s := rfl
theorem exec_completionLatch (job : Nat) : exec (.completionLatch job) s = execCompletionLatch job s := rfl
theorem exec_cryptoCompletion (c : CoreId) (b : BankId) : exec (.cryptoCompletion c b) s = execCryptoCompletion c b s := rfl
theorem exec_jobAbort (job : Nat) : exec (.jobAbort job) s = execJobAbort job s := rfl
theorem exec_tamperInput (xi : Fin 4) : exec (.tamperInput xi) s = execTamperInput xi s := rfl
theorem exec_zeroisationDone : exec (.zeroisationDone) s = execZeroisationDone s := rfl
theorem exec_trafficSpaceWipe : exec (.trafficSpaceWipe) s = execTrafficSpaceWipe s := rfl
theorem exec_mpuCommitGo : exec (.mpuCommitGo) s = execMpuCommitGo s := rfl
theorem exec_mpuActivation : exec (.mpuActivation) s = execMpuActivation s := rfl
theorem exec_mpuSkeyWrite (v : Word) : exec (.mpuSkeyWrite v) s = execMpuSkeyWrite v s := rfl
theorem exec_storageKeyAcked : exec (.storageKeyAcked) s = execStorageKeyAcked s := rfl
theorem exec_clockScaleEval (xi : Fin 30) : exec (.clockScaleEval xi) s = execClockScaleEval xi s := rfl
theorem exec_clockHoldExpiry (xi : Fin 30) : exec (.clockHoldExpiry xi) s = execClockHoldExpiry xi s := rfl
theorem exec_operatingPointDone (xi : Fin 30) : exec (.operatingPointDone xi) s = execOperatingPointDone xi s := rfl
theorem exec_islandRun (xi : Fin 44) : exec (.islandRun xi) s = execIslandRun xi s := rfl
theorem exec_islandHold (xi : Fin 44) : exec (.islandHold xi) s = execIslandHold xi s := rfl
theorem exec_islandOff (xi : Fin 44) : exec (.islandOff xi) s = execIslandOff xi s := rfl
theorem exec_islandReset (xi : Fin 44) : exec (.islandReset xi) s = execIslandReset xi s := rfl
theorem exec_islandQuiesced (xi : Fin 44) : exec (.islandQuiesced xi) s = execIslandQuiesced xi s := rfl
theorem exec_islandReturn (xi : Fin 44) : exec (.islandReturn xi) s = execIslandReturn xi s := rfl
theorem exec_sensorSample (k : Fin 64) (reading : Option Int) : exec (.sensorSample k reading) s = execSensorSample k reading s := rfl
theorem exec_thermalModelPeriod : exec (.thermalModelPeriod) s = execThermalModelPeriod s := rfl
theorem exec_thermalTrip : exec (.thermalTrip) s = execThermalTrip s := rfl
theorem exec_avsUpdate (measured : Nat) : exec (.avsUpdate measured) s = execAvsUpdate measured s := rfl
theorem exec_avsFault (measured : Nat) : exec (.avsFault measured) s = execAvsFault measured s := rfl
theorem exec_railLoss (rail : Fin 10) : exec (.railLoss rail) s = execRailLoss rail s := rfl
theorem exec_refclkLoss (k : RefClk) : exec (.refclkLoss k) s = execRefclkLoss k s := rfl
theorem exec_refclkRestore (k : RefClk) : exec (.refclkRestore k) s = execRefclkRestore k s := rfl
theorem exec_coreFaultStop (c : CoreId) : exec (.coreFaultStop c) s = execCoreFaultStop c s := rfl
theorem exec_engineFault (k : EngineKind) (e : Fin 48) : exec (.engineFault k e) s = execEngineFault k e s := rfl
theorem exec_tileLoss (t : TileId) : exec (.tileLoss t) s = execTileLoss t s := rfl
theorem exec_xltLaneFault (lane : Fin 32) : exec (.xltLaneFault lane) s = execXltLaneFault lane s := rfl
theorem exec_jnlLaneFault (jsn : Nat) : exec (.jnlLaneFault jsn) s = execJnlLaneFault jsn s := rfl
theorem exec_hbmStackFail (k : Fin 4) : exec (.hbmStackFail k) s = execHbmStackFail k s := rfl
theorem exec_hbmDataLoss (line : Nat) : exec (.hbmDataLoss line) s = execHbmDataLoss line s := rfl
theorem exec_fabricFault (link : Nat) (e : FabricEnd) (caught : List (CoreId × BankId)) : exec (.fabricFault link e caught) s = execFabricFault link e caught s := rfl
theorem exec_pairedMismatch (xi : Fin 44) : exec (.pairedMismatch xi) s = execPairedMismatch xi s := rfl
theorem exec_keyStoreFault (slot : Nat) : exec (.keyStoreFault slot) s = execKeyStoreFault slot s := rfl
theorem exec_selfTestDone (u : TestUnit) (pass : Bool) : exec (.selfTestDone u pass) s = execSelfTestDone u pass s := rfl
theorem exec_faultHoldExpiry : exec (.faultHoldExpiry) s = execFaultHoldExpiry s := rfl
theorem exec_coldReset (k : ColdCause) : exec (.coldReset k) s = execColdReset k s := rfl
theorem exec_warmReset : exec (.warmReset) s = execWarmReset s := rfl
theorem exec_bootResetWarm (confirm : BitVec 16) : exec (.bootResetWarm confirm) s = execBootResetWarm confirm s := rfl
theorem exec_bootResetCold (confirm : BitVec 16) : exec (.bootResetCold confirm) s = execBootResetCold confirm s := rfl
theorem exec_powerGood : exec (.powerGood) s = execPowerGood s := rfl
theorem exec_imageSelect : exec (.imageSelect) s = execImageSelect s := rfl
theorem exec_microcodeLoad (bad : List CoreId) : exec (.microcodeLoad bad) s = execMicrocodeLoad bad s := rfl
theorem exec_standinOpen : exec (.standinOpen) s = execStandinOpen s := rfl
theorem exec_hbmInitDone : exec (.hbmInitDone) s = execHbmInitDone s := rfl
theorem exec_bringupReady : exec (.bringupReady) s = execBringupReady s := rfl
theorem exec_bootLoad : exec (.bootLoad) s = execBootLoad s := rfl
theorem exec_bootRelease : exec (.bootRelease) s = execBootRelease s := rfl
theorem exec_standinTilesJoin : exec (.standinTilesJoin) s = execStandinTilesJoin s := rfl
theorem exec_svnCommit : exec (.svnCommit) s = execSvnCommit s := rfl
theorem exec_fuseProgram (bit : BitVec 16) : exec (.fuseProgram bit) s = execFuseProgram bit s := rfl
theorem exec_standinDecide (an : Nat) : exec (.standinDecide an) s = execStandinDecide an s := rfl
theorem exec_timeStep (delta : Word) : exec (.timeStep delta) s = execTimeStep delta s := rfl
theorem exec_timeRateWrite (adj : BitVec 32) : exec (.timeRateWrite adj) s = execTimeRateWrite adj s := rfl
theorem exec_ppsEdge (rising : Bool) : exec (.ppsEdge rising) s = execPpsEdge rising s := rfl
theorem exec_ppsOutRise : exec (.ppsOutRise) s = execPpsOutRise s := rfl
theorem exec_ppsOutFall : exec (.ppsOutFall) s = execPpsOutFall s := rfl
theorem exec_debugNewchal : exec (.debugNewchal) s = execDebugNewchal s := rfl
theorem exec_debugGo (addr : Nat) (keyidx : Fin 4) : exec (.debugGo addr keyidx) s = execDebugGo addr keyidx s := rfl
theorem exec_sysEvtClear (bits : Word) : exec (.sysEvtClear bits) s = execSysEvtClear bits s := rfl
theorem exec_sysEvtEnWrite (v : Word) : exec (.sysEvtEnWrite v) s = execSysEvtEnWrite v s := rfl
theorem exec_latchedHalfRead (who : Requester) (off : Nat) : exec (.latchedHalfRead who off) s = execLatchedHalfRead who off s := rfl
theorem exec_bar0UnmappedAccess (write : Bool) (off size : Nat) : exec (.bar0UnmappedAccess write off size) s = execBar0UnmappedAccess write off size s := rfl
theorem exec_bar0Abort (write : Bool) (off size : Nat) : exec (.bar0Abort write off size) s = execBar0Abort write off size s := rfl
theorem exec_smbusBlockWrite (ptr : BitVec 24) : exec (.smbusBlockWrite ptr) s = execSmbusBlockWrite ptr s := rfl
theorem exec_smbusBlockRead : exec (.smbusBlockRead) s = execSmbusBlockRead s := rfl
theorem exec_registerWrite (who : Requester) (off size : Nat) (v : Word) : exec (.registerWrite who off size v) s = execRegisterWrite who off size v s := rfl
theorem exec_portLinkUp (p : Fin 8) : exec (.portLinkUp p) s = execPortLinkUp p s := rfl
theorem exec_bondRecover (p : Fin 8) : exec (.bondRecover p) s = execBondRecover p s := rfl
theorem exec_pcieLinkDown : exec (.pcieLinkDown) s = execPcieLinkDown s := rfl
theorem exec_fuseWriteDone : exec (.fuseWriteDone) s = execFuseWriteDone s := rfl
theorem exec_warmResetNRise : exec (.warmResetNRise) s = execWarmResetNRise s := rfl
theorem exec_tamperInputHigh (xi : Fin 4) : exec (.tamperInputHigh xi) s = execTamperInputHigh xi s := rfl
theorem exec_adminUnknownOp (opc : Nat) (a : AdminCmd) : exec (.adminUnknownOp opc a) s = execAdminUnknownOp opc a s := rfl
theorem exec_illegalInstruction (c : CoreId) (w0 w1 : BitVec 32) : exec (.illegalInstruction c w0 w1) s = execIllegalInstruction c w0 w1 s := rfl

end Sys2Proof.Laws
end

