-- ==== Sys2Proof/Laws/Sparse.lean ====
section
/-! SUPPORT. The laws of sparse maps: a read after a write, a write that leaves the other keys alone, and the canonical
form, which every map operation keeps; then the same for bytes of memory and for setup registers. -/

namespace Sys2Proof.Machine

variable {α : Type}

/-! ## The operations -/

theorem Sparse.wf_erase {d : Nat → α} {m : List (Nat × α)} (h : Sparse.WF d m) (k : Nat) :
    Sparse.WF d (Sparse.erase m k) :=
  ⟨h.1.filter _, fun p hp => h.2 p (List.mem_of_mem_filter hp)⟩

theorem Sparse.wf_filter {d : Nat → α} {m : List (Nat × α)} (h : Sparse.WF d m) (f : Nat × α → Bool) :
    Sparse.WF d (m.filter f) :=
  ⟨h.1.filter _, fun p hp => h.2 p (List.mem_of_mem_filter hp)⟩

theorem Sparse.wf_nil (d : Nat → α) : Sparse.WF d [] := ⟨List.Pairwise.nil, fun _ h => nomatch h⟩

theorem Sparse.mem_insert {k : Nat} {v : α} {m : List (Nat × α)} {p : Nat × α} :
    p ∈ Sparse.insert k v m ↔ p = (k, v) ∨ p ∈ m := by
  induction m with
  | nil => simp [Sparse.insert]
  | cons q t ih =>
    unfold Sparse.insert
    split
    · simp
    · simp only [List.mem_cons, ih]; tauto

theorem Sparse.wf_insert {d : Nat → α} {m : List (Nat × α)} {k : Nat} {v : α} (h : Sparse.WF d m)
    (hk : ∀ p ∈ m, p.1 ≠ k) (hv : v ≠ d k) : Sparse.WF d (Sparse.insert k v m) := by
  refine ⟨?_, fun p hp => ?_⟩
  · obtain ⟨h1, -⟩ := h
    induction m with
    | nil => simp [Sparse.insert]
    | cons q t ih =>
      rw [List.pairwise_cons] at h1
      unfold Sparse.insert
      split
      · rename_i hlt
        refine List.pairwise_cons.2 ⟨fun p hp => ?_, List.pairwise_cons.2 h1⟩
        rcases List.mem_cons.1 hp with rfl | hp
        · exact hlt
        · exact lt_trans hlt (h1.1 p hp)
      · rename_i hlt
        refine List.pairwise_cons.2 ⟨fun p hp => ?_, ih (fun p hp => hk p (List.mem_cons_of_mem _ hp)) h1.2⟩
        rcases Sparse.mem_insert.1 hp with rfl | hp
        · exact lt_of_le_of_ne (not_lt.1 hlt) (hk q List.mem_cons_self)
        · exact h1.1 p hp
  · rcases Sparse.mem_insert.1 hp with rfl | hp
    · exact hv
    · exact h.2 p hp

theorem Sparse.key_ne_of_mem_erase {m : List (Nat × α)} {k : Nat} : ∀ p ∈ Sparse.erase m k, p.1 ≠ k := by
  intro p hp
  simpa [Sparse.erase] using (List.mem_filter.1 hp).2

theorem Sparse.wf_set [DecidableEq α] {d : Nat → α} {m : List (Nat × α)} (h : Sparse.WF d m) (k : Nat) (v : α) :
    Sparse.WF d (Sparse.set d m k v) := by
  unfold Sparse.set
  split
  · exact Sparse.wf_erase h k
  · rename_i hv
    exact Sparse.wf_insert (Sparse.wf_erase h k) Sparse.key_ne_of_mem_erase hv

theorem Sparse.lookup_cons_eq (q : Nat × α) (m : List (Nat × α)) (j : Nat) :
    (q :: m).lookup j = if j = q.1 then some q.2 else m.lookup j := by
  rw [List.lookup_cons]
  by_cases h : j = q.1
  · simp [h]
  · simp [h, beq_eq_false_iff_ne.2 h]

theorem Sparse.lookup_erase (m : List (Nat × α)) (k j : Nat) :
    (Sparse.erase m k).lookup j = if j = k then none else m.lookup j := by
  induction m with
  | nil => simp [Sparse.erase]
  | cons q t ih =>
    unfold Sparse.erase at ih ⊢
    rw [List.filter_cons]
    by_cases hi : q.1 = k
    · simp only [hi, bne_self_eq_false, Bool.false_eq_true, if_false, ih, Sparse.lookup_cons_eq]
      split <;> rfl
    · simp only [bne_iff_ne, ne_eq, hi, not_false_eq_true, if_true, Sparse.lookup_cons_eq, ih]
      by_cases hj : j = q.1
      · simp [hj, hi]
      · simp [hj]

theorem Sparse.lookup_insert {m : List (Nat × α)} {k : Nat} (v : α) (hk : ∀ p ∈ m, p.1 ≠ k) (j : Nat) :
    (Sparse.insert k v m).lookup j = if j = k then some v else m.lookup j := by
  induction m with
  | nil => simp [Sparse.insert, Sparse.lookup_cons_eq]
  | cons q t ih =>
    have hi : q.1 ≠ k := hk q List.mem_cons_self
    unfold Sparse.insert
    split
    · simp [Sparse.lookup_cons_eq]
    · simp only [Sparse.lookup_cons_eq, ih fun p hp => hk p (List.mem_cons_of_mem _ hp)]
      by_cases hj : j = q.1
      · simp [hj, hi]
      · simp [hj]

/-- A read after a write: the written key has the value, every other key what it had. -/
theorem Sparse.get_set [DecidableEq α] (d : Nat → α) (m : List (Nat × α)) (k j : Nat) (v : α) :
    Sparse.get d (Sparse.set d m k v) j = if j = k then v else Sparse.get d m j := by
  unfold Sparse.get Sparse.set
  by_cases hv : v = d k
  · rw [if_pos hv, Sparse.lookup_erase]
    by_cases hj : j = k
    · subst hj; simp [hv]
    · simp [hj]
  · rw [if_neg hv, Sparse.lookup_insert v Sparse.key_ne_of_mem_erase, Sparse.lookup_erase]
    by_cases hj : j = k <;> simp [hj]

/-! ## Memory -/

/-- One byte of memory after a write of one. -/
theorem memGet_memSet (m : List Host.Cell) (a b : Nat) (v : Byte) :
    memGet (memSet m a v) b = if b = a then v else memGet m b :=
  Sparse.get_set memDefault m a b v

theorem wf_memSet {m : List Host.Cell} (h : Memory.wf m) (a : Nat) (v : Byte) : Memory.wf (memSet m a v) :=
  Sparse.wf_set h a v

theorem wf_memWrite {m : List Host.Cell} (h : Memory.wf m) (a : Nat) (bs : List Byte) :
    Memory.wf (memWrite m a bs) := by
  induction bs generalizing m a with
  | nil => exact h
  | cons b t ih => exact ih (wf_memSet h a b) (a + 1)

/-- A write leaves every byte outside its range alone. -/
theorem memGet_memWrite_of_not_mem (m : List Host.Cell) (a b : Nat) (bs : List Byte)
    (h : b < a ∨ a + bs.length ≤ b) : memGet (memWrite m a bs) b = memGet m b := by
  induction bs generalizing m a with
  | nil => rfl
  | cons x t ih =>
    simp only [List.length_cons] at h
    rw [memWrite, ih _ _ (by omega), memGet_memSet, if_neg (by omega)]

/-- A byte inside the range of a write reads as the byte written there. -/
theorem memGet_memWrite_of_mem (m : List Host.Cell) (a i : Nat) (bs : List Byte) (h : i < bs.length) :
    memGet (memWrite m a bs) (a + i) = bs[i] := by
  induction bs generalizing m a i with
  | nil => exact absurd h (Nat.not_lt_zero i)
  | cons x t ih =>
    rw [memWrite]
    cases i with
    | zero =>
      rw [memGet_memWrite_of_not_mem _ _ _ _ (by omega), memGet_memSet, if_pos (by omega)]
      rfl
    | succ j =>
      have := ih (memSet m a x) (a + 1) j (by simpa using h)
      rw [show a + (j + 1) = a + 1 + j by omega, this]
      rfl

/-- Reading back what was written gives it. -/
theorem memRead_memWrite (m : List Host.Cell) (a : Nat) (bs : List Byte) :
    memRead (memWrite m a bs) a bs.length = bs := by
  have aux : ∀ (n i : Nat), i + n = bs.length → memRead (memWrite m a bs) (a + i) n = bs.drop i := by
    intro n
    induction n with
    | zero => intro i h; simp [memRead, List.drop_of_length_le (by omega : bs.length ≤ i)]
    | succ n ih =>
      intro i h
      rw [memRead, memGet_memWrite_of_mem m a i bs (by omega), Nat.add_assoc, ih (i + 1) (by omega),
        ← List.drop_eq_getElem_cons]
  simpa using aux bs.length 0 (by omega)

/-! ## Setup registers -/

/-- A setup register after a write of one. -/
theorem reg_setReg (s : State) (off off' v : Nat) :
    (s.setReg off v).reg off' = if off' = off then v % 2 ^ 64 else s.reg off' := by
  unfold State.setReg State.reg
  rw [Sparse.get_set]
  split
  · simp
  · rfl

/-- A counter after it has counted. -/
theorem reg_bump (s : State) (off off' n : Nat) :
    (s.bump off n).reg off' = if off' = off then (s.reg off + n) % 2 ^ 64 else s.reg off' := by
  unfold State.bump
  rw [reg_setReg]
  split <;> simp

end Sys2Proof.Machine
end

