-- ==== Sys2Proof/Laws/Sound.lean ====
section
/-! SUPPORT. What every operation keeps: the queue of commands and the canonical forms of the maps. `Sound q t` says that
`t` waits for the commands `q` and is canonical; the files beside this one prove it of each operation. -/

namespace Sys2Proof.Laws

open Sys2Proof Sys2Proof.Machine

/-- The queue is `q` and the maps are in their canonical forms. -/
def Sound (q : List Instr) (t : State) : Prop := t.pending = q ∧ Canonical t

/-- A property of what an option holds. -/
@[irreducible] def InO {α : Type} (P : α → Prop) : Option α → Prop
  | none => True
  | some a => P a

/-- A property of what an answer holds. -/
@[irreducible] def InE {ε α : Type} (P : α → Prop) : Except ε α → Prop
  | .error _ => True
  | .ok a => P a

/-- The state that an instruction's body answers with is sound. -/
@[irreducible] def SoundI (q : List Instr) : IRes → Prop
  | .done s => Sound q s
  | .jump s _ => Sound q s
  | .trap s _ _ => Sound q s
  | .hold s => Sound q s
  | .own s => Sound q s

/-- The state that a step of a string instruction answers with is sound. -/
@[irreducible] def SoundS (q : List Instr) : SOut → Prop
  | .cont _ s => Sound q s
  | .fin _ _ s => Sound q s
  | .fail _ => True

/-- The state that a post to a ring answers with is sound. -/
@[irreducible] def SoundPosted (q : List Instr) : Posted → Prop
  | .done s _ => Sound q s
  | .wait s => Sound q s
  | .stopped s => Sound q s

/-- A command's outcome is sound: a fault or a refusal, or a sound next state. -/
@[irreducible] def SoundOut (q : List Instr) : Host.Outcome State Fault Refusal → Prop
  | .next t => Sound q t
  | .fault _ => True
  | .refused _ => True

section
variable {q : List Instr} {s : State}
theorem SoundI.done (h : Sound q s) : SoundI q (.done s) := by
  unfold SoundI; exact h
theorem SoundI.jump {t : Word} (h : Sound q s) : SoundI q (.jump s t) := by
  unfold SoundI; exact h
theorem SoundI.trap {c : Nat} {w : Word} (h : Sound q s) : SoundI q (.trap s c w) := by
  unfold SoundI; exact h
theorem SoundI.hold (h : Sound q s) : SoundI q (.hold s) := by
  unfold SoundI; exact h
theorem SoundI.own (h : Sound q s) : SoundI q (.own s) := by
  unfold SoundI; exact h
theorem SoundS.cont {w : Walk} (h : Sound q s) : SoundS q (.cont w s) := by
  unfold SoundS; exact h
theorem SoundS.fin {w : Walk} {c : Nat} (h : Sound q s) : SoundS q (.fin w c s) := by
  unfold SoundS; exact h
theorem SoundS.fail {r : Refused} : SoundS q (.fail r) := by
  unfold SoundS; exact trivial
theorem SoundPosted.done {i : Nat} (h : Sound q s) : SoundPosted q (.done s i) := by
  unfold SoundPosted; exact h
theorem SoundPosted.wait (h : Sound q s) : SoundPosted q (.wait s) := by
  unfold SoundPosted; exact h
theorem SoundPosted.stopped (h : Sound q s) : SoundPosted q (.stopped s) := by
  unfold SoundPosted; exact h
theorem SoundOut.next (h : Sound q s) : SoundOut q (.next s) := by
  unfold SoundOut; exact h
theorem Sound.ite {c : Prop} [Decidable c] {a b : State} (h1 : Sound q a) (h2 : Sound q b) :
    Sound q (if c then a else b) := by split <;> assumption
theorem Sound.of_snd {α : Type} {r : α × State} {a : α} (h : Sound q r.2) (e : r = (a, s)) : Sound q s := by
  subst e; exact h
theorem Sound.of_some {o : Option State} (h : InO (fun r => Sound q r) o) (e : o = some s) : Sound q s := by
  subst e; unfold InO at h; exact h
theorem Sound.of_some2 {α : Type} {o : Option (α × State)} {a : α} (h : InO (fun r => Sound q r.2) o)
    (e : o = some (a, s)) : Sound q s := by
  subst e; unfold InO at h; exact h
theorem Sound.of_some3 {α β : Type} {o : Option (α × β × State)} {a : α} {b : β}
    (h : InO (fun r => Sound q r.2.2) o) (e : o = some (a, b, s)) : Sound q s := by
  subst e; unfold InO at h; exact h
theorem Sound.of_some4 {α β γ : Type} {o : Option (α × β × γ × State)} {a : α} {b : β} {c : γ}
    (h : InO (fun r => Sound q r.2.2.2) o) (e : o = some (a, b, c, s)) : Sound q s := by
  subst e; unfold InO at h; exact h
theorem Sound.of_ok2 {ε α : Type} {o : Except ε (α × State)} {a : α} (h : InE (fun r => Sound q r.2) o)
    (e : o = .ok (a, s)) : Sound q s := by
  subst e; unfold InE at h; exact h
theorem Sound.of_done {r : Posted} {i : Nat} (h : SoundPosted q r) (e : r = .done s i) : Sound q s := by
  subst e; unfold SoundPosted at h; exact h
theorem Sound.of_cont {r : SOut} {w : Walk} (h : SoundS q r) (e : r = .cont w s) : Sound q s := by
  subst e; unfold SoundS at h; exact h
theorem Sound.of_fin {r : SOut} {w : Walk} {c : Nat} (h : SoundS q r) (e : r = .fin w c s) : Sound q s := by
  subst e; unfold SoundS at h; exact h
theorem Sound.of_wait {r : Posted} (h : SoundPosted q r) (e : r = .wait s) : Sound q s := by
  subst e; unfold SoundPosted at h; exact h
theorem Sound.of_stopped {r : Posted} (h : SoundPosted q r) (e : r = .stopped s) : Sound q s := by
  subst e; unfold SoundPosted at h; exact h
theorem SoundI.ite {c : Prop} [Decidable c] {a b : IRes} (h1 : SoundI q a) (h2 : SoundI q b) :
    SoundI q (if c then a else b) := by split <;> assumption
end

theorem InO.none {α : Type} {P : α → Prop} : InO P none := by unfold InO; trivial
theorem InO.some {α : Type} {P : α → Prop} {a : α} (h : P a) : InO P (some a) := by unfold InO; exact h
theorem InO.of {α : Type} {P : α → Prop} {o : Option α} {a : α} (h : InO P o) (e : o = Option.some a) : P a := by
  subst e; unfold InO at h; exact h
theorem InO.map {α β : Type} {P : β → Prop} {o : Option α} {f : α → β} {Q : α → Prop} (h : InO Q o)
    (hf : ∀ a, Q a → P (f a)) : InO P (o.map f) := by
  cases o with
  | none => exact InO.none
  | some a => unfold InO at h; exact InO.some (hf a h)
theorem InO.mapAll {α β : Type} {P : β → Prop} {o : Option α} {f : α → β} (hf : ∀ a, P (f a)) : InO P (o.map f) := by
  cases o with
  | none => exact InO.none
  | some a => exact InO.some (hf a)
theorem SoundI.doneI {q : List Instr} {s : State} (h : SoundI q (.done s)) : Sound q s := by unfold SoundI at h; exact h
theorem SoundI.jumpI {q : List Instr} {s : State} {t : Word} (h : SoundI q (.jump s t)) : Sound q s := by
  unfold SoundI at h; exact h
theorem SoundI.trapI {q : List Instr} {s : State} {c : Nat} {w : Word} (h : SoundI q (.trap s c w)) : Sound q s := by
  unfold SoundI at h; exact h
theorem SoundI.holdI {q : List Instr} {s : State} (h : SoundI q (.hold s)) : Sound q s := by unfold SoundI at h; exact h
theorem SoundI.ownI {q : List Instr} {s : State} (h : SoundI q (.own s)) : Sound q s := by unfold SoundI at h; exact h
theorem InE.error {ε α : Type} {P : α → Prop} {e : ε} : InE P (.error e) := by unfold InE; trivial
theorem InE.ok {ε α : Type} {P : α → Prop} {a : α} (h : P a) : InE (ε := ε) P (.ok a) := by unfold InE; exact h
theorem InE.of {ε α : Type} {P : α → Prop} {o : Except ε α} {a : α} (h : InE P o) (e : o = .ok a) : P a := by
  subst e; unfold InE at h; exact h
theorem Sound.of_eq {q : List Instr} {s t : State} (h : Sound q s) (e : s = t) : Sound q t := e ▸ h

/-- An update of the other fields. -/
theorem Sound.upd {q : List Instr} {s : State} (h : Sound q s) (cores l1 devtime txns busy xlt ldg kol jnl cry hif net err
    sys pwr boot adm skey mchks out freeCtr) :
    Sound q (State.mk s.mem s.skeys s.regs cores l1 devtime txns busy xlt ldg kol jnl cry hif net err sys pwr boot adm skey
      mchks out freeCtr s.pending) := h

theorem Sound.foldl {α : Type} {q : List Instr} {f : State → α → State} {s : State} (h : Sound q s) (l : List α)
    (hf : ∀ s a, Sound q s → Sound q (f s a)) : Sound q (l.foldl f s) := by
  induction l generalizing s with
  | nil => exact h
  | cons a t ih => exact ih (hf s a h)

theorem Sound.foldl2 {α β : Type} {q : List Instr} {f : β × State → α → β × State} {p : β × State} (h : Sound q p.2)
    (l : List α) (hf : ∀ p a, Sound q p.2 → Sound q (f p a).2) : Sound q (l.foldl f p).2 := by
  induction l generalizing p with
  | nil => exact h
  | cons a t ih => exact ih (hf p a h)

theorem foldl_inv {α β : Type} {P : β → Prop} {f : β → α → β} {s : β} (h : P s) (l : List α)
    (hf : ∀ s a, P s → P (f s a)) : P (l.foldl f s) := by
  induction l generalizing s with
  | nil => exact h
  | cons a t ih => exact ih (hf s a h)

theorem Sound.setMem {q : List Instr} {s : State} (h : Sound q s) (m : List Host.Cell) (hm : Memory.wf m) :
    Sound q { s with mem := m } := ⟨h.1, hm, h.2.2⟩

theorem Sound.setRegs {q : List Instr} {s : State} (h : Sound q s) (m : List (Nat × BitVec 64))
    (hm : Sparse.WF RegMap.reset m) : Sound q { s with regs := m } := ⟨h.1, h.2.1, h.2.2.1, hm⟩

theorem Sound.setSkeys {q : List Instr} {s : State} (h : Sound q s) (m : List (Nat × BitVec 5))
    (hm : Sparse.WF (fun _ => 0#5) m) : Sound q { s with skeys := m } := ⟨h.1, h.2.1, hm, h.2.2.2⟩

end Sys2Proof.Laws
end

