-- ==== Sys2Proof/Laws/KeepsUnits.lean ====
section
/-! SUPPORT. One lemma for each operation of Mem, Mpu, RunEnd, L1, Operands, Units, CryptJobs, Ops, Areas, Rings, Deliver, KeyAdmin, KolLink, under its name: the operation keeps
the queue of commands and the canonical forms of the maps. -/

namespace Sys2Proof.Laws

open Sys2Proof Sys2Proof.Machine

variable {q : List Instr}

/-! ## Mem -/

theorem Sound.wr {s : State} {a : Nat} {bs : List Byte} (h_s : Sound q s) : Sound q (State.wr s a bs) :=
  ⟨h_s.1, wf_memWrite h_s.2.1 _ _, h_s.2.2⟩

theorem Sound.setReg {s : State} {off v : Nat} (h_s : Sound q s) :  Sound q (State.setReg s off v) := by
  exact Sound.setRegs h_s _ (Sparse.wf_set h_s.2.2.2 _ _)

theorem Sound.bump {s : State} {off : ℕ} {n : optParam ℕ 1} (h_s : Sound q s) : Sound q (State.bump s off n) := by
  unfold Machine.State.bump
  repeat' first
    | with_reducible assumption | with_reducible apply Sound.setReg

theorem Sound.draw {s : State} (h_s : Sound q s) : Sound q ((State.draw s).2) := by
  unfold Machine.State.draw
  repeat' first
    | with_reducible assumption | fail_if_no_progress with_reducible apply Sound.upd

theorem Sound.random {s : State} {n : ℕ} (h_s : Sound q s) : Sound q ((State.random s n).2) := by
  unfold Machine.State.random
  repeat' first
    | with_reducible assumption | fail_if_no_progress with_reducible apply Sound.upd

theorem Sound.openBytes {s : State} {n : ℕ} (h_s : Sound q s) : Sound q ((State.openBytes s n).2) := by
  unfold Machine.State.openBytes
  repeat' first
    | with_reducible assumption | intro _ | fail_if_no_progress with_reducible apply Sound.upd

theorem Sound.msix {s : State} {v : ℕ} (h_s : Sound q s) : Sound q (State.msix s v) := by
  unfold Machine.State.msix
  repeat' first
    | with_reducible assumption | with_reducible apply Sound.msix | with_reducible apply Sound.ite
    | fail_if_no_progress with_reducible apply Sound.upd

theorem Sound.evtRaise {s : State} {before : ℕ} (h_s : Sound q s) : Sound q (State.evtRaise s before) := by
  unfold Machine.State.evtRaise
  repeat' first
    | with_reducible assumption | with_reducible apply Sound.msix | with_reducible apply Sound.ite

theorem Sound.evt {s : State} {bit : ℕ} (h_s : Sound q s) : Sound q (State.evt s bit) := by
  unfold Machine.State.evt
  repeat' first
    | with_reducible assumption | with_reducible apply Sound.setReg | with_reducible apply Sound.evtRaise

theorem Sound.setF {s : State} {f : FieldRef} {v : ℕ} (h_s : Sound q s) : Sound q (State.setF s f v) := by
  unfold Machine.State.setF
  repeat' first
    | with_reducible assumption | with_reducible apply Sound.setReg | with_reducible apply Sound.evt | dsimp only
    | split

theorem Sound.noteFault {s : State} {r : ErrReport} (h_s : Sound q s) : Sound q (noteFault s r) := by
  unfold Machine.noteFault
  repeat' first
    | with_reducible assumption | intro _ | with_reducible apply Sound.bump | with_reducible apply Sound.setF
    | with_reducible apply Sound.ite | fail_if_no_progress with_reducible apply Sound.upd

theorem Sound.writeEntry {s : State} {r : ErrReport} {second : Bool} (h_s : Sound q s) : Sound q (writeEntry s r
    second) := by
  unfold Machine.writeEntry
  repeat' first
    | with_reducible assumption | with_reducible apply Sound.setReg | with_reducible apply Sound.bump
    | with_reducible apply Sound.msix | with_reducible apply Sound.setF | with_reducible apply Sound.wr
    | with_reducible apply Sound.ite | fail_if_no_progress with_reducible apply Sound.upd

theorem Sound.report {s : State} {r : ErrReport} (h_s : Sound q s) : Sound q (State.report s r) := by
  unfold Machine.State.report
  repeat' first
    | with_reducible assumption | intro _ | with_reducible apply Sound.bump | with_reducible apply Sound.noteFault
    | with_reducible apply Sound.writeEntry | with_reducible apply Sound.ite
    | fail_if_no_progress with_reducible apply Sound.upd

/-! ## Mpu -/

theorem Sound.appendAdvance {s : State} {i : Initiator} {pa len : ℕ} (h_s : Sound q s) : Sound q (appendAdvance s i pa
    len) := by
  unfold Machine.appendAdvance
  repeat' first
    | with_reducible assumption | intro _ | with_reducible apply Sound.setF | with_reducible apply Sound.ite
    | with_reducible apply Sound.foldl

theorem Sound.setFrameKey {s : State} {pa v : Nat} (h_s : Sound q s) :  Sound q (setFrameKey s pa v) := by
  unfold Machine.setFrameKey
  split
  · exact Sound.setSkeys h_s _ (Sparse.wf_set h_s.2.2.1 _ _)
  · exact h_s

theorem Sound.requestActivation {s : State} (h_s : Sound q s) : Sound q (requestActivation s) := by
  unfold Machine.requestActivation
  repeat' first
    | with_reducible assumption | with_reducible apply Sound.setF

theorem Sound.activateRegion {s : State} {k : ℕ} (h_s : Sound q s) : Sound q (activateRegion s k) := by
  unfold Machine.activateRegion
  repeat' first
    | with_reducible assumption | with_reducible apply Sound.setReg | with_reducible apply Sound.setF

theorem Sound.activateAll {s : State} (h_s : Sound q s) : Sound q (activateAll s) := by
  unfold Machine.activateAll
  repeat' first
    | with_reducible assumption | intro _ | with_reducible apply Sound.setF
    | with_reducible apply Sound.activateRegion | with_reducible apply Sound.foldl

theorem Sound.refuseAccess {s : State} {i : Initiator} {k : Kind} {pa : ℕ} (h_s : Sound q s) : Sound q (refuseAccess s
    i k pa) := by
  unfold Machine.refuseAccess
  repeat' first
    | with_reducible assumption | with_reducible apply Sound.setF | with_reducible apply Sound.report
    | with_reducible apply Sound.ite

theorem Sound.mpuSettled {s : State} (h_s : Sound q s) : Sound q (mpuSettled s) := by
  unfold Machine.mpuSettled
  repeat' first
    | with_reducible assumption | with_reducible apply Sound.activateAll | with_reducible apply Sound.ite

theorem Sound.readChecked {s : State} {i : Initiator} {pa n : ℕ} (h_s : Sound q s) : Sound q ((readChecked s i pa
    n).2) := by
  unfold Machine.readChecked
  repeat' first
    | with_reducible assumption | with_reducible apply Sound.refuseAccess | with_reducible apply Sound.ite
    | dsimp only | split

theorem Sound.islandRead {s : State} {i : Initiator} {pa n : ℕ} (h_s : Sound q s) : Sound q ((islandRead s i pa n).2)
    := by
  unfold Machine.islandRead
  repeat' first
    | with_reducible assumption | with_reducible apply Sound.mpuSettled | with_reducible apply Sound.readChecked

theorem Sound.writeChecked {s : State} {i : Initiator} {pa : ℕ} {bs : List Byte} (h_s : Sound q s) : Sound q
    ((writeChecked s i pa bs).2) := by
  unfold Machine.writeChecked
  repeat' first
    | with_reducible assumption | with_reducible apply Sound.wr | with_reducible apply Sound.appendAdvance
    | with_reducible apply Sound.refuseAccess | with_reducible apply Sound.ite | dsimp only | split

theorem Sound.islandWrite {s : State} {i : Initiator} {pa : ℕ} {bs : List Byte} (h_s : Sound q s) : Sound q
    ((islandWrite s i pa bs).2) := by
  unfold Machine.islandWrite
  repeat' first
    | with_reducible assumption | with_reducible apply Sound.mpuSettled | with_reducible apply Sound.writeChecked

theorem Sound.hifRead {s : State} {pa n : ℕ} (h_s : Sound q s) : Sound q ((hifRead s pa n).2) := by
  unfold Machine.hifRead
  repeat' first
    | with_reducible assumption | with_reducible apply Sound.islandRead | with_reducible apply Sound.ite
    | fail_if_no_progress with_reducible apply Sound.upd | dsimp only | split

theorem Sound.hifWrite {s : State} {pa : ℕ} {bs : List Byte} (h_s : Sound q s) : Sound q ((hifWrite s pa bs).2) := by
  unfold Machine.hifWrite
  repeat' first
    | with_reducible assumption | with_reducible apply Sound.islandWrite | with_reducible apply Sound.ite
    | fail_if_no_progress with_reducible apply Sound.upd | dsimp only | split

theorem Sound.finishSkey {s : State} (h_s : Sound q s) : Sound q (finishSkey s) := by
  unfold Machine.finishSkey
  repeat' first
    | with_reducible assumption | with_reducible apply Sound.setF | with_reducible apply Sound.setFrameKey
    | fail_if_no_progress with_reducible apply Sound.upd | dsimp only | split

theorem Sound.skeyWrite {s : State} {v : ℕ} (h_s : Sound q s) : Sound q (skeyWrite s v) := by
  unfold Machine.skeyWrite
  repeat' first
    | with_reducible assumption | with_reducible apply Sound.setF | with_reducible apply Sound.finishSkey
    | with_reducible apply Sound.ite | fail_if_no_progress with_reducible apply Sound.upd

/-! ## RunEnd -/

theorem Sound.setCore {s : State} {c : CoreId} {k : Core} (h_s : Sound q s) : Sound q (State.setCore s c k) := by
  unfold Machine.State.setCore
  repeat' first
    | with_reducible assumption | fail_if_no_progress with_reducible apply Sound.upd

theorem Sound.modCore {s : State} {c : CoreId} {f : Core → Core} (h_s : Sound q s) : Sound q (State.modCore s c f) :=
    by
  unfold Machine.State.modCore
  repeat' first
    | with_reducible assumption | with_reducible apply Sound.setCore

theorem Sound.modBank {s : State} {c : CoreId} {b : BankId} {f : Bank → Bank} (h_s : Sound q s) : Sound q
    (State.modBank s c b f) := by
  unfold Machine.State.modBank
  repeat' first
    | with_reducible assumption | intro _ | with_reducible apply Sound.modCore

theorem Sound.modTxn {s : State} {an : ℕ} {f : Txn → Txn} (h_s : Sound q s) : Sound q (State.modTxn s an f) := by
  unfold Machine.State.modTxn
  repeat' first
    | with_reducible assumption | intro _ | with_reducible apply Sound.ite
    | fail_if_no_progress with_reducible apply Sound.upd

theorem Sound.dropTxn {s : State} {an : ℕ} (h_s : Sound q s) : Sound q (State.dropTxn s an) := by
  unfold Machine.State.dropTxn
  repeat' first
    | with_reducible assumption | intro _ | fail_if_no_progress with_reducible apply Sound.upd

theorem Sound.countOutstanding {s : State} (h_s : Sound q s) : Sound q (State.countOutstanding s) := by
  unfold Machine.State.countOutstanding
  repeat' first
    | with_reducible assumption | with_reducible apply Sound.setF

theorem Sound.countEnd {s : State} {t' : Txn} {e : RunEnd} (h_s : Sound q s) : Sound q (countEnd s t' e) := by
  unfold Machine.countEnd
  repeat' first
    | with_reducible assumption | with_reducible apply Sound.bump | with_reducible apply Sound.ite | dsimp only
    | split

theorem Sound.reportCycles {s : State} {c : CoreId} {b : BankId} (h_s : Sound q s) : Sound q (reportCycles s c b) :=
    by
  unfold Machine.reportCycles
  repeat' first
    | with_reducible assumption | intro _ | with_reducible apply Sound.modTxn | dsimp only | split

theorem Sound.endRun {s : State} {an : ℕ} {e : RunEnd} (h_s : Sound q s) : Sound q (endRun s an e) := by
  unfold Machine.endRun
  repeat' first
    | with_reducible assumption | intro _ | with_reducible apply Sound.modCore | with_reducible apply Sound.modTxn
    | with_reducible apply Sound.countOutstanding | with_reducible apply Sound.countEnd
    | fail_if_no_progress with_reducible apply Sound.upd | dsimp only | split

theorem Sound.endIfOwned {s : State} {an run : ℕ} {e : RunEnd} (h_s : Sound q s) : Sound q (endIfOwned s an run e) :=
    by
  unfold Machine.endIfOwned
  repeat' first
    | with_reducible assumption | with_reducible apply Sound.endRun | with_reducible apply Sound.ite | dsimp only
    | split

theorem Sound.wake {s : State} {c : CoreId} {b : BankId} (h_s : Sound q s) : Sound q (wake s c b) := by
  unfold Machine.wake
  repeat' first
    | with_reducible assumption | intro _ | with_reducible apply Sound.modCore

theorem Sound.quarantine {s : State} {c : CoreId} {b : BankId} {cause reason : ℕ} (h_s : Sound q s) : Sound q
    (quarantine s c b cause reason) := by
  unfold Machine.quarantine
  repeat' first
    | with_reducible assumption | with_reducible apply Sound.report | with_reducible apply Sound.endRun | dsimp only
    | split

/-! ## L1 -/

theorem Sound.l1Room {s : State} {c : CoreId} {n : ℕ} (h_s : Sound q s) : Sound q ((l1Room s c n).2) := by
  unfold Machine.l1Room
  repeat' first
    | with_reducible assumption | intro _ | fail_if_no_progress with_reducible apply Sound.upd | dsimp only | split

theorem Sound.l1Line {s : State} {c : CoreId} {wr : Bool} {n : ℕ} (h_s : Sound q s) : Sound q (l1Line s c wr n) := by
  unfold Machine.l1Line
  repeat' first
    | with_reducible assumption | intro _ | with_reducible apply Sound.l1Room | with_reducible apply Sound.wr
    | with_reducible apply Sound.ite | fail_if_no_progress with_reducible apply Sound.upd

theorem Sound.l1Access {s : State} {c : CoreId} {wr : Bool} {pa n : ℕ} (h_s : Sound q s) : Sound q (l1Access s c wr pa
    n) := by
  unfold Machine.l1Access
  repeat' first
    | with_reducible assumption | intro _ | with_reducible apply Sound.l1Line | with_reducible apply Sound.wr
    | with_reducible apply Sound.ite | with_reducible apply Sound.foldl

theorem Sound.l1Data {s : State} {c : CoreId} {wr : Bool} {pa n : ℕ} (h_s : Sound q s) : Sound q (l1Data s c wr pa n)
    := by
  unfold Machine.l1Data
  repeat' first
    | with_reducible assumption | intro _ | with_reducible apply Sound.modCore | with_reducible apply Sound.l1Access

theorem Sound.l1Empty {s : State} {c : CoreId} (h_s : Sound q s) : Sound q (l1Empty s c) := by
  unfold Machine.l1Empty
  repeat' first
    | with_reducible assumption | intro _ | fail_if_no_progress with_reducible apply Sound.upd

/-! ## Operands -/

theorem Sound.setCC {s : State} {c : CoreId} {b : BankId} {v : ℕ} (h_s : Sound q s) : Sound q (State.setCC s c b v) :=
    by
  unfold Machine.State.setCC
  repeat' first
    | with_reducible assumption | intro _ | with_reducible apply Sound.modBank

theorem Sound.setG {s : State} {c : CoreId} {b : BankId} {r : Reg} {v : Word} (h_s : Sound q s) : Sound q (State.setG
    s c b r v) := by
  unfold Machine.State.setG
  repeat' first
    | with_reducible assumption | intro _ | with_reducible apply Sound.modCore

theorem Sound.setFr {s : State} {c : CoreId} {r : Reg} {v : Word} (h_s : Sound q s) : Sound q (State.setFr s c r v) :=
    by
  unfold Machine.State.setFr
  repeat' first
    | with_reducible assumption | intro _ | with_reducible apply Sound.modCore

theorem Sound.setDa {s : State} {c : CoreId} {n : Fin 8} {bs : List Byte} (h_s : Sound q s) : Sound q (State.setDa s c
    n bs) := by
  unfold Machine.State.setDa
  repeat' first
    | with_reducible assumption | intro _ | with_reducible apply Sound.modCore

/-! ## Units -/

theorem Sound.faultHold {s : State} (h_s : Sound q s) : Sound q (faultHold s) := by
  unfold Machine.faultHold
  repeat' first
    | with_reducible assumption | with_reducible apply Sound.setF

theorem Sound.startTest {s : State} {u : TestUnit} (h_s : Sound q s) : Sound q (startTest s u) := by
  unfold Machine.startTest
  repeat' first
    | with_reducible assumption | intro _ | fail_if_no_progress with_reducible apply Sound.upd

theorem Sound.endTest {s : State} {u : TestUnit} (h_s : Sound q s) : Sound q (endTest s u) := by
  unfold Machine.endTest
  repeat' first
    | with_reducible assumption | intro _ | fail_if_no_progress with_reducible apply Sound.upd

theorem Sound.settleWork {s : State} {i : ℕ} (h_s : Sound q s) : Sound q (settleWork s i) := by
  unfold Machine.settleWork
  repeat' first
    | with_reducible assumption | intro _ | with_reducible apply Sound.ite
    | fail_if_no_progress with_reducible apply Sound.upd

theorem Sound.setEngine {s : State} {k : EngineKind} {e : Fin 48} {v : Bool} (h_s : Sound q s) : Sound q (setEngine s
    k e v) := by
  unfold Machine.setEngine
  repeat' first
    | with_reducible assumption | with_reducible apply Sound.setF

theorem Sound.engineFaulted {s : State} {k : EngineKind} {e : Fin 48} {code : ℕ} (h_s : Sound q s) : Sound q
    (engineFaulted s k e code) := by
  unfold Machine.engineFaulted
  repeat' first
    | with_reducible assumption | with_reducible apply Sound.report | with_reducible apply Sound.faultHold
    | with_reducible apply Sound.startTest | with_reducible apply Sound.setEngine

/-! ## CryptJobs -/

theorem Sound.modJob {s : State} {id : ℕ} {f : CJob → CJob} (h_s : Sound q s) : Sound q (State.modJob s id f) := by
  unfold Machine.State.modJob
  repeat' first
    | with_reducible assumption | intro _ | with_reducible apply Sound.ite
    | fail_if_no_progress with_reducible apply Sound.upd

theorem Sound.dropJob {s : State} {id : ℕ} (h_s : Sound q s) : Sound q (State.dropJob s id) := by
  unfold Machine.State.dropJob
  repeat' first
    | with_reducible assumption | intro _ | fail_if_no_progress with_reducible apply Sound.upd

theorem Sound.writeStatus {s : State} {j : CJob} {status xf outLen : ℕ} (h_s : Sound q s) : Sound q (writeStatus s j
    status xf outLen) := by
  unfold Machine.writeStatus
  repeat' first
    | with_reducible assumption | with_reducible apply Sound.islandWrite

theorem Sound.readCaptured {s : State} {x1 : List (ℕ × ℕ)} (h_s : Sound q s) : Sound q ((readCaptured s x1).2) := by
  unfold Machine.readCaptured
  repeat' first
    | with_reducible assumption | with_reducible apply Sound.readCaptured | with_reducible apply Sound.islandRead
    | dsimp only | split | with_reducible refine Sound.of_snd ?_ (by assumption)

theorem Sound.writeCaptured {s : State} {x1 : List (ℕ × ℕ)} {x2 : List Byte} (h_s : Sound q s) : Sound q
    ((writeCaptured s x1 x2).2) := by
  unfold Machine.writeCaptured
  repeat' first
    | with_reducible assumption | with_reducible apply Sound.writeCaptured | with_reducible apply Sound.islandWrite
    | with_reducible apply Sound.ite | dsimp only | split | with_reducible refine Sound.of_snd ?_ (by assumption)

theorem Sound.chargeJob {s : State} {j : CJob} {n : ℕ} (h_s : Sound q s) : Sound q (chargeJob s j n) := by
  unfold Machine.chargeJob
  repeat' first
    | with_reducible assumption | intro _ | with_reducible apply Sound.modTxn

theorem Sound.noteStatus {s : State} {j : CJob} {status outLen : ℕ} (h_s : Sound q s) : Sound q (noteStatus s j status
    outLen) := by
  unfold Machine.noteStatus
  repeat' first
    | with_reducible assumption | with_reducible apply Sound.writeStatus | with_reducible apply Sound.ite

theorem Sound.endJob {s : State} {j : CJob} {status outLen : ℕ} {res : List Byte} (h_s : Sound q s) : Sound q (endJob
    s j status outLen res) := by
  unfold Machine.endJob
  repeat' first
    | with_reducible assumption | intro _ | with_reducible apply Sound.bump | with_reducible apply Sound.modJob
    | with_reducible apply Sound.chargeJob | with_reducible apply Sound.noteStatus | with_reducible apply Sound.ite
    | fail_if_no_progress with_reducible apply Sound.upd

theorem Sound.startJob {s : State} {j : CJob} {e : Fin 48} (h_s : Sound q s) : Sound q (startJob s j e) := by
  unfold Machine.startJob
  repeat' first
    | with_reducible assumption | intro _ | with_reducible apply Sound.modJob | with_reducible apply Sound.endJob
    | fail_if_no_progress with_reducible apply Sound.upd | dsimp only | split

theorem Sound.reissueJob {s : State} {j : CJob} {failed : Bool} {pair : List (Fin 48)} (h_s : Sound q s) : Sound q
    (reissueJob s j failed pair) := by
  unfold Machine.reissueJob
  repeat' first
    | with_reducible assumption | intro _ | with_reducible apply Sound.bump | with_reducible apply Sound.modJob
    | with_reducible apply Sound.endJob | with_reducible apply Sound.ite

theorem Sound.giveResult {s : State} {j : CJob} {r : JobRes} (h_s : Sound q s) : Sound q (giveResult s j r) := by
  unfold Machine.giveResult
  repeat' first
    | with_reducible assumption | with_reducible apply Sound.writeCaptured | with_reducible apply Sound.endJob
    | with_reducible apply Sound.ite | dsimp only | split | with_reducible refine Sound.of_snd ?_ (by assumption)

theorem Sound.latchJob {s s0 : State} {j : CJob} {e : Fin 48} {inp : List Byte} {r : JobRes} (h_s : Sound q s) (h_s0 :
    Sound q s0) : Sound q (latchJob s s0 j e inp r) := by
  unfold Machine.latchJob
  repeat' first
    | with_reducible assumption | with_reducible apply Sound.bump | with_reducible apply Sound.engineFaulted
    | with_reducible apply Sound.reissueJob | with_reducible apply Sound.giveResult | with_reducible apply Sound.ite
    | dsimp only | split

theorem Sound.jobInput {s : State} {j : CJob} (h_s : Sound q s) : Sound q ((jobInput s j).2) := by
  unfold Machine.jobInput
  repeat' first
    | with_reducible assumption | with_reducible apply Sound.readCaptured | with_reducible apply Sound.ite
    | dsimp only | split | with_reducible refine Sound.of_snd ?_ (by assumption)

theorem Sound.finishJob {s : State} {j : CJob} {e : Fin 48} (h_s : Sound q s) : Sound q (finishJob s j e) := by
  unfold Machine.finishJob
  repeat' first
    | with_reducible assumption | with_reducible apply Sound.random | with_reducible apply Sound.endJob
    | with_reducible apply Sound.latchJob | with_reducible apply Sound.jobInput | dsimp only | split
    | with_reducible refine Sound.of_snd ?_ (by assumption)

theorem Sound.execCryptoCompletion {c : CoreId} {b : BankId} {s : State} (h_s : Sound q s) : SoundOut q
    (execCryptoCompletion c b s) := by
  unfold Machine.execCryptoCompletion
  repeat' first
    | with_reducible assumption | intro _ | with_reducible apply Sound.endIfOwned | with_reducible apply Sound.wake
    | with_reducible apply Sound.setCC | with_reducible apply Sound.modJob | with_reducible apply Sound.dropJob
    | with_reducible apply Sound.ite | with_reducible apply SoundOut.next
    | fail_if_no_progress with_reducible apply Sound.upd | dsimp only | split

theorem Sound.stopJob {s : State} {j : CJob} {status : ℕ} (h_s : Sound q s) : Sound q (stopJob s j status) := by
  unfold Machine.stopJob
  repeat' first
    | with_reducible assumption | intro _ | with_reducible apply Sound.modJob
    | with_reducible apply Sound.writeCaptured | with_reducible apply Sound.chargeJob
    | with_reducible apply Sound.noteStatus | with_reducible apply Sound.ite
    | fail_if_no_progress with_reducible apply Sound.upd

theorem Sound.lateAbort {s : State} {j : CJob} {status : ℕ} (h_s : Sound q s) : Sound q (lateAbort s j status) := by
  unfold Machine.lateAbort
  repeat' first
    | with_reducible assumption | with_reducible apply Sound.bump | with_reducible apply Sound.islandWrite
    | with_reducible apply Sound.chargeJob

theorem Sound.execJobAbort {job : ℕ} {s : State} (h_s : Sound q s) : SoundOut q (execJobAbort job s) := by
  unfold Machine.execJobAbort
  repeat' first
    | with_reducible assumption | with_reducible apply Sound.bump | with_reducible apply Sound.dropJob
    | with_reducible apply Sound.stopJob | with_reducible apply Sound.lateAbort | with_reducible apply Sound.ite
    | with_reducible apply SoundOut.next | dsimp only | split

theorem Sound.execKeyStoreFault {slot : ℕ} {s : State} (h_s : Sound q s) : SoundOut q (execKeyStoreFault slot s) := by
  unfold Machine.execKeyStoreFault
  repeat' first
    | with_reducible assumption | with_reducible apply Sound.report | with_reducible apply SoundOut.next

/-! ## Ops -/

theorem Sound.markUse {s : State} {c : CoreId} {i : Option ℕ} (h_s : Sound q s) : Sound q (markUse s c i) := by
  unfold Machine.markUse
  repeat' first
    | with_reducible assumption | intro _ | with_reducible apply Sound.modCore | with_reducible apply Sound.ite
    | fail_if_no_progress with_reducible apply Sound.upd | dsimp only | split

theorem Sound.markParts {s : State} {c : CoreId} {ps : List (Phys × ℕ)} (h_s : Sound q s) : Sound q (markParts s c ps)
    := by
  unfold Machine.markParts
  repeat' first
    | with_reducible assumption | intro _ | with_reducible apply Sound.markUse | with_reducible apply Sound.foldl

theorem Sound.hwWrite {s : State} {c : CoreId} {a : ℕ} {bs : List Byte} (h_s : Sound q s) : Sound q (hwWrite s c a bs)
    := by
  unfold Machine.hwWrite
  repeat' first
    | with_reducible assumption | intro _ | with_reducible apply Sound.wr | with_reducible apply Sound.modCore
    | with_reducible apply Sound.l1Access

theorem Sound.tileWrite {s : State} {t : TileId} {a : ℕ} {bs : List Byte} (h_s : Sound q s) : Sound q (tileWrite s t a
    bs) := by
  unfold Machine.tileWrite
  repeat' first
    | with_reducible assumption | intro _ | with_reducible apply Sound.wr | with_reducible apply Sound.modCore
    | with_reducible apply Sound.foldl

theorem Sound.enterTrap {s : State} {c : CoreId} {b : BankId} {cause : ℕ} {bad epc : Word} (h_s : Sound q s) : Sound q
    (enterTrap s c b cause bad epc) := by
  unfold Machine.enterTrap
  repeat' first
    | with_reducible assumption | with_reducible apply Sound.setCore | with_reducible apply Sound.hwWrite

theorem Sound.enterNest {s : State} {c : CoreId} {b : BankId} {cause : ℕ} {bad epc : Word} (h_s : Sound q s) : Sound q
    (enterNest s c b cause bad epc) := by
  unfold Machine.enterNest
  repeat' first
    | with_reducible assumption | intro _ | with_reducible apply Sound.modCore

theorem Sound.contextMchk {s : State} {c : CoreId} {b : BankId} (h_s : Sound q s) : Sound q (contextMchk s c b) := by
  unfold Machine.contextMchk
  repeat' first
    | with_reducible assumption | with_reducible apply Sound.endIfOwned | with_reducible apply Sound.ite
    | fail_if_no_progress with_reducible apply Sound.upd | dsimp only | split

theorem Sound.takeTrap {s : State} {c : CoreId} {b : BankId} {cause : ℕ} {bad epc : Word} (h_s : Sound q s) : Sound q
    (takeTrap s c b cause bad epc) := by
  unfold Machine.takeTrap
  repeat' first
    | with_reducible assumption | with_reducible apply Sound.quarantine | with_reducible apply Sound.enterTrap
    | with_reducible apply Sound.enterNest | with_reducible apply Sound.contextMchk | with_reducible apply Sound.ite
    | dsimp only | split

theorem Sound.trapReturn {s : State} {c : CoreId} {b : BankId} (h_s : Sound q s) : Sound q (trapReturn s c b) := by
  unfold Machine.trapReturn
  repeat' first
    | with_reducible assumption | with_reducible apply Sound.setCore | with_reducible apply Sound.l1Access

theorem Sound.nestReturn {s : State} {c : CoreId} {x : Bank15} (h_s : Sound q s) : Sound q (nestReturn s c x) := by
  unfold Machine.nestReturn
  repeat' first
    | with_reducible assumption | intro _ | with_reducible apply Sound.modCore

/-! ## Areas -/

theorem Sound.dialectEntry {s : State} {i : ℕ} (h_s : Sound q s) : Sound q ((dialectEntry s i).2) := by
  unfold Machine.dialectEntry
  repeat' first
    | with_reducible assumption | with_reducible apply Sound.islandRead | dsimp only | split
    | with_reducible refine Sound.of_snd ?_ (by assumption)

/-! ## Rings -/

theorem Sound.modRing {s : State} {r : RingId} {f : Ring → Ring} (h_s : Sound q s) : Sound q (State.modRing s r f) :=
    by
  unfold Machine.State.modRing
  repeat' first
    | with_reducible assumption | with_reducible apply Sound.ite | fail_if_no_progress with_reducible apply Sound.upd

theorem Sound.stopRing {s : State} {r : RingId} {err : ℕ} (h_s : Sound q s) : Sound q (stopRing s r err) := by
  unfold Machine.stopRing
  repeat' first
    | with_reducible assumption | intro _ | with_reducible apply Sound.bump | with_reducible apply Sound.setF
    | with_reducible apply Sound.modRing

theorem Sound.showIndex {s : State} {r : RingId} (h_s : Sound q s) : Sound q (showIndex s r) := by
  unfold Machine.showIndex
  repeat' first
    | with_reducible assumption | with_reducible apply Sound.setF

theorem Sound.forgetDescs {s : State} {r : RingId} (h_s : Sound q s) : Sound q (forgetDescs s r) := by
  unfold Machine.forgetDescs
  repeat' first
    | with_reducible assumption | intro _ | with_reducible apply Sound.ite
    | fail_if_no_progress with_reducible apply Sound.upd

theorem Sound.startRing {s : State} {r : RingId} (h_s : Sound q s) : Sound q (startRing s r) := by
  unfold Machine.startRing
  repeat' first
    | with_reducible assumption | intro _ | with_reducible apply Sound.setF | with_reducible apply Sound.islandRead
    | with_reducible apply Sound.modRing | with_reducible apply Sound.stopRing | with_reducible apply Sound.showIndex
    | with_reducible apply Sound.forgetDescs | fail_if_no_progress with_reducible apply Sound.upd | dsimp only | split

theorem Sound.endRing {s : State} {r : RingId} (h_s : Sound q s) : Sound q (endRing s r) := by
  unfold Machine.endRing
  repeat' first
    | with_reducible assumption | intro _ | with_reducible apply Sound.setF | with_reducible apply Sound.modRing

theorem Sound.writeStatusIdx {s : State} {r : RingId} (h_s : Sound q s) : Sound q (writeStatusIdx s r) := by
  unfold Machine.writeStatusIdx
  repeat' first
    | with_reducible assumption | with_reducible apply Sound.islandWrite | with_reducible apply Sound.stopRing
    | with_reducible apply Sound.showIndex | with_reducible apply Sound.ite

theorem Sound.signalRing {s : State} {r : RingId} (h_s : Sound q s) : Sound q (signalRing s r) := by
  unfold Machine.signalRing
  repeat' first
    | with_reducible assumption | intro _ | with_reducible apply Sound.msix | with_reducible apply Sound.modRing

theorem Sound.notePosted {s : State} {r : RingId} (h_s : Sound q s) : Sound q (notePosted s r) := by
  unfold Machine.notePosted
  repeat' first
    | with_reducible assumption | intro _ | with_reducible apply Sound.modRing | with_reducible apply Sound.signalRing
    | with_reducible apply Sound.ite

theorem Sound.noteWait {s : State} {r : RingId} (h_s : Sound q s) : Sound q (noteWait s r) := by
  unfold Machine.noteWait
  repeat' first
    | with_reducible assumption | intro _ | with_reducible apply Sound.modRing

theorem Sound.writeRingBytes {s : State} {r : RingId} {i : ℕ} {bs : List Byte} (h_s : Sound q s) : Sound q
    ((writeRingBytes s r i bs).2) := by
  unfold Machine.writeRingBytes
  repeat' first
    | with_reducible assumption | with_reducible apply Sound.islandWrite | with_reducible apply Sound.ite | dsimp only
    | split

theorem Sound.postBytes {s : State} {r : RingId} {bs : List Byte} (h_s : Sound q s) : SoundPosted q (postBytes s r bs)
    := by
  unfold Machine.postBytes
  repeat' first
    | with_reducible assumption | intro _ | with_reducible apply Sound.modRing | with_reducible apply Sound.stopRing
    | with_reducible apply Sound.writeStatusIdx | with_reducible apply Sound.notePosted
    | with_reducible apply Sound.noteWait | with_reducible apply Sound.writeRingBytes | with_reducible apply Sound.ite
    | with_reducible apply SoundPosted.done | with_reducible apply SoundPosted.wait
    | with_reducible apply SoundPosted.stopped | fail_if_no_progress with_reducible apply Sound.upd | dsimp only
    | split

theorem Sound.postSlot {s : State} {r : RingId} {bs : List Byte} (h_s : Sound q s) : SoundPosted q (postSlot s r bs)
    := by
  unfold Machine.postSlot
  repeat' first
    | with_reducible assumption | intro _ | with_reducible apply Sound.islandWrite
    | with_reducible apply Sound.modRing | with_reducible apply Sound.stopRing
    | with_reducible apply Sound.writeStatusIdx | with_reducible apply Sound.notePosted
    | with_reducible apply Sound.noteWait | with_reducible apply Sound.ite | with_reducible apply SoundPosted.done
    | with_reducible apply SoundPosted.wait | with_reducible apply SoundPosted.stopped
    | fail_if_no_progress with_reducible apply Sound.upd | dsimp only | split

theorem Sound.queueCpl {s : State} {c : Cpl} (h_s : Sound q s) : Sound q (queueCpl s c) := by
  unfold Machine.queueCpl
  repeat' first
    | with_reducible assumption | with_reducible apply Sound.ite | fail_if_no_progress with_reducible apply Sound.upd

theorem Sound.queueAdmin {s : State} {a : ACpl} (h_s : Sound q s) : Sound q (queueAdmin s a) := by
  unfold Machine.queueAdmin
  repeat' first
    | with_reducible assumption | with_reducible apply Sound.ite | fail_if_no_progress with_reducible apply Sound.upd

theorem Sound.queueExc {s : State} {e : Exc} (h_s : Sound q s) : Sound q (queueExc s e) := by
  unfold Machine.queueExc
  repeat' first
    | with_reducible assumption | with_reducible apply Sound.ite | fail_if_no_progress with_reducible apply Sound.upd

theorem Sound.advanceCons {s : State} {r : RingId} (h_s : Sound q s) : Sound q (advanceCons s r) := by
  unfold Machine.advanceCons
  repeat' first
    | with_reducible assumption | intro _ | with_reducible apply Sound.modRing
    | with_reducible apply Sound.writeStatusIdx | with_reducible apply Sound.ite

theorem Sound.descDone {s : State} {r : RingId} {idx : Option ℕ} (h_s : Sound q s) : Sound q (descDone s r idx) := by
  unfold Machine.descDone
  repeat' first
    | with_reducible assumption | intro _ | with_reducible apply Sound.modRing
    | with_reducible apply Sound.advanceCons | with_reducible apply Sound.ite
    | fail_if_no_progress with_reducible apply Sound.upd | dsimp only | split

theorem Sound.takeEntry {s : State} {r : RingId} (h_s : Sound q s) : Sound q (takeEntry s r) := by
  unfold Machine.takeEntry
  repeat' first
    | with_reducible assumption | intro _ | with_reducible apply Sound.modRing
    | with_reducible apply Sound.writeStatusIdx

/-! ## Deliver -/

theorem Sound.putConn {s : State} {c : Conn} (h_s : Sound q s) : Sound q (putConn s c) := by
  unfold Machine.putConn
  repeat' first
    | with_reducible assumption | intro _ | with_reducible apply Sound.ite
    | fail_if_no_progress with_reducible apply Sound.upd

theorem Sound.dropConn {s : State} {c : Conn} (h_s : Sound q s) : Sound q (dropConn s c) := by
  unfold Machine.dropConn
  repeat' first
    | with_reducible assumption | intro _ | fail_if_no_progress with_reducible apply Sound.upd

theorem Sound.connWrite {s : State} {h off : ℕ} {bs : List Byte} (h_s : Sound q s) : Sound q (connWrite s h off bs) :=
    by
  unfold Machine.connWrite
  repeat' first
    | with_reducible assumption | with_reducible apply Sound.wr | with_reducible apply Sound.islandWrite
    | with_reducible apply Sound.ite

theorem Sound.connRead {s : State} {h : ℕ} (h_s : Sound q s) : Sound q ((connRead s h).2) := by
  unfold Machine.connRead
  repeat' first
    | with_reducible assumption | with_reducible apply Sound.islandRead | with_reducible apply Sound.ite | dsimp only
    | split

theorem Sound.connEvent {s : State} {c : Conn} {kind reason : ℕ} {data : List Byte} (h_s : Sound q s) : Sound q
    (connEvent s c kind reason data) := by
  unfold Machine.connEvent
  repeat' first
    | with_reducible assumption | with_reducible apply Sound.queueExc

theorem Sound.delivered {s : State} {deadline : ℕ} (h_s : Sound q s) : Sound q (delivered s deadline) := by
  unfold Machine.delivered
  repeat' first
    | with_reducible assumption | with_reducible apply Sound.bump | with_reducible apply Sound.ite

theorem Sound.discardPartial {s : State} {c : Conn} (h_s : Sound q s) : Sound q (discardPartial s c) := by
  unfold Machine.discardPartial
  repeat' first
    | with_reducible assumption | with_reducible apply Sound.bump | with_reducible apply Sound.putConn

theorem Sound.closeConn {s : State} {c : Conn} {reason : ℕ} (h_s : Sound q s) : Sound q (closeConn s c reason) := by
  unfold Machine.closeConn
  repeat' first
    | with_reducible assumption | intro _ | with_reducible apply Sound.bump | with_reducible apply Sound.queueCpl
    | with_reducible apply Sound.putConn | with_reducible apply Sound.dropConn | with_reducible apply Sound.connWrite
    | with_reducible apply Sound.connEvent | with_reducible apply Sound.ite | with_reducible apply Sound.foldl

theorem Sound.startDrain {s : State} {c : Conn} {reason : ℕ} (h_s : Sound q s) : Sound q (startDrain s c reason) := by
  unfold Machine.startDrain
  repeat' first
    | with_reducible assumption | with_reducible apply Sound.bump | with_reducible apply Sound.putConn
    | with_reducible apply Sound.connWrite | fail_if_no_progress with_reducible apply Sound.upd | dsimp only | split

theorem Sound.handToNet {s : State} {h gen tag : ℕ} {r : NRsp} (h_s : Sound q s) : Sound q (handToNet s h gen tag r)
    := by
  unfold Machine.handToNet
  repeat' first
    | with_reducible assumption | with_reducible apply Sound.queueCpl | with_reducible apply Sound.putConn
    | with_reducible apply Sound.ite | fail_if_no_progress with_reducible apply Sound.upd | dsimp only | split

theorem Sound.handTxn {s : State} {t : Txn} (h_s : Sound q s) : Sound q (handTxn s t) := by
  unfold Machine.handTxn
  repeat' first
    | with_reducible assumption | intro _ | with_reducible apply Sound.modTxn | with_reducible apply Sound.dropTxn
    | with_reducible apply Sound.countOutstanding | with_reducible apply Sound.queueCpl
    | with_reducible apply Sound.handToNet | with_reducible apply Sound.ite
    | fail_if_no_progress with_reducible apply Sound.upd | dsimp only | split

theorem Sound.handWhenReady {s : State} {an : ℕ} (h_s : Sound q s) : Sound q (handWhenReady s an) := by
  unfold Machine.handWhenReady
  repeat' first
    | with_reducible assumption | with_reducible apply Sound.handTxn | with_reducible apply Sound.serialised
    | with_reducible apply Sound.ite | dsimp only | split

theorem Sound.handBusy {s : State} {b : BusyRsp} {rsp : List Byte} (h_s : Sound q s) : Sound q (handBusy s b rsp) :=
    by
  unfold Machine.handBusy
  repeat' first
    | with_reducible assumption | with_reducible apply Sound.queueCpl | with_reducible apply Sound.handToNet
    | dsimp only | split

/-! ## KeyAdmin -/

theorem Sound.admEnds {st : AdmStatus} {s : State} (h_s : Sound q s) : Sound q ((admEnds st s).2) := by
  unfold Machine.admEnds
  repeat' first
    | with_reducible assumption

theorem Sound.hostRead {s : State} {addr len : ℕ} (h_s : Sound q s) : Sound q ((hostRead s addr len).2) := by
  unfold Machine.hostRead
  repeat' first
    | with_reducible assumption | with_reducible apply Sound.hifRead | with_reducible apply Sound.ite | dsimp only
    | split

theorem Sound.hostWrite {s : State} {addr : ℕ} {bs : List Byte} (h_s : Sound q s) : Sound q ((hostWrite s addr bs).2)
    := by
  unfold Machine.hostWrite
  repeat' first
    | with_reducible assumption | with_reducible apply Sound.hifWrite | with_reducible apply Sound.ite | dsimp only
    | split

theorem Sound.noteSlots {s : State} (h_s : Sound q s) : Sound q (noteSlots s) := by
  unfold Machine.noteSlots
  repeat' first
    | with_reducible assumption | with_reducible apply Sound.setF

theorem Sound.putKey {s : State} {k : KeySlot} (h_s : Sound q s) : Sound q (putKey s k) := by
  unfold Machine.putKey
  repeat' first
    | with_reducible assumption | intro _ | with_reducible apply Sound.ite
    | fail_if_no_progress with_reducible apply Sound.upd

theorem Sound.clearSlot {s : State} {space slot : ℕ} (h_s : Sound q s) : Sound q (clearSlot s space slot) := by
  unfold Machine.clearSlot
  repeat' first
    | with_reducible assumption | intro _ | fail_if_no_progress with_reducible apply Sound.upd

theorem Sound.fillSlot {s : State} {space slot attr n : ℕ} {mat : List Byte} (h_s : Sound q s) : Sound q ((fillSlot s
    space slot attr n mat).2) := by
  unfold Machine.fillSlot
  repeat' first
    | with_reducible assumption | with_reducible apply Sound.noteSlots | with_reducible apply Sound.putKey
    | fail_if_no_progress with_reducible apply Sound.upd

theorem Sound.admKeyLoad {a : AdminCmd} {s : State} (h_s : Sound q s) : Sound q ((admKeyLoad a s).2) := by
  unfold Machine.admKeyLoad
  repeat' first
    | with_reducible assumption | with_reducible apply Sound.admEnds | with_reducible apply Sound.hostRead
    | with_reducible apply Sound.fillSlot | with_reducible apply Sound.ite | dsimp only | split
    | with_reducible refine Sound.of_snd ?_ (by assumption)

theorem Sound.exportedKey {s : State} {k : KeySlot} {kek : ℕ} (h_s : Sound q s) : Sound q ((exportedKey s k kek).2) :=
    by
  unfold Machine.exportedKey
  repeat' first
    | with_reducible assumption | with_reducible apply Sound.random | with_reducible apply Sound.openBytes
    | with_reducible apply Sound.ite | dsimp only | split

theorem Sound.admKeyExport {a : AdminCmd} {s : State} (h_s : Sound q s) : Sound q ((admKeyExport a s).2) := by
  unfold Machine.admKeyExport
  repeat' first
    | with_reducible assumption | with_reducible apply Sound.admEnds | with_reducible apply Sound.hostWrite
    | with_reducible apply Sound.exportedKey | with_reducible apply Sound.ite | dsimp only | split
    | with_reducible refine Sound.of_snd ?_ (by assumption)

theorem Sound.admKeyDelete {a : AdminCmd} {s : State} (h_s : Sound q s) : Sound q ((admKeyDelete a s).2) := by
  unfold Machine.admKeyDelete
  repeat' first
    | with_reducible assumption | with_reducible apply Sound.admEnds | with_reducible apply Sound.noteSlots
    | with_reducible apply Sound.clearSlot | dsimp only | split

theorem Sound.admKeyInfo {a : AdminCmd} {s : State} (h_s : Sound q s) : Sound q ((admKeyInfo a s).2) := by
  unfold Machine.admKeyInfo
  repeat' first
    | with_reducible assumption

theorem Sound.keyImage {s : State} (h_s : Sound q s) : Sound q ((keyImage s).2) := by
  unfold Machine.keyImage
  repeat' first
    | with_reducible assumption | with_reducible apply Sound.random

theorem Sound.admKeySave {a : AdminCmd} {s : State} (h_s : Sound q s) : Sound q ((admKeySave a s).2) := by
  unfold Machine.admKeySave
  repeat' first
    | with_reducible assumption | with_reducible apply Sound.admEnds | with_reducible apply Sound.hostWrite
    | with_reducible apply Sound.keyImage | with_reducible apply Sound.ite | dsimp only | split
    | with_reducible refine Sound.of_snd ?_ (by assumption)

theorem Sound.restoreImage {s : State} {bs : List Byte} (h_s : Sound q s) : Sound q ((restoreImage s bs).2) := by
  unfold Machine.restoreImage
  repeat' first
    | with_reducible assumption | with_reducible apply Sound.noteSlots | with_reducible apply Sound.ite
    | fail_if_no_progress with_reducible apply Sound.upd | dsimp only | split

theorem Sound.admKeyRestore {a : AdminCmd} {s : State} (h_s : Sound q s) : Sound q ((admKeyRestore a s).2) := by
  unfold Machine.admKeyRestore
  repeat' first
    | with_reducible assumption | with_reducible apply Sound.admEnds | with_reducible apply Sound.hostRead
    | with_reducible apply Sound.restoreImage | with_reducible apply Sound.ite | dsimp only | split
    | with_reducible refine Sound.of_snd ?_ (by assumption)

theorem Sound.startZeroise {s : State} {inputs : ℕ} (h_s : Sound q s) : Sound q (startZeroise s inputs) := by
  unfold Machine.startZeroise
  repeat' first
    | with_reducible assumption | intro _ | with_reducible apply Sound.setF | with_reducible apply Sound.stopJob
    | with_reducible apply Sound.closeConn | with_reducible apply Sound.foldl | with_reducible apply Sound.foldl2
    | fail_if_no_progress with_reducible apply Sound.upd

theorem Sound.execTamperInputHigh {i : Fin 4} {s : State} (h_s : Sound q s) : SoundOut q (execTamperInputHigh i s) :=
    by
  unfold Machine.execTamperInputHigh
  repeat' first
    | with_reducible assumption | with_reducible apply SoundOut.next
    | fail_if_no_progress with_reducible apply Sound.upd

theorem Sound.execTrafficSpaceWipe {s : State} (h_s : Sound q s) : SoundOut q (execTrafficSpaceWipe s) := by
  unfold Machine.execTrafficSpaceWipe
  repeat' first
    | with_reducible assumption | intro _ | with_reducible apply Sound.ite | with_reducible apply SoundOut.next
    | fail_if_no_progress with_reducible apply Sound.upd

/-! ## KolLink -/

theorem Sound.learnNeighbour {s : State} {p : Fin 8} (h_s : Sound q s) : Sound q (learnNeighbour s p) := by
  unfold Machine.learnNeighbour
  repeat' first
    | with_reducible assumption | with_reducible apply Sound.setF | with_reducible apply Sound.ite

theorem Sound.modPort {s : State} {p : Fin 8} {f : KPort → KPort} (h_s : Sound q s) : Sound q (State.modPort s p f) :=
    by
  unfold Machine.State.modPort
  repeat' first
    | with_reducible assumption | fail_if_no_progress with_reducible apply Sound.upd

theorem Sound.pumpPort {s : State} {p : Fin 8} (h_s : Sound q s) : Sound q (pumpPort s p) := by
  unfold Machine.pumpPort
  repeat' first
    | with_reducible assumption | intro _ | with_reducible apply Sound.modPort
    | fail_if_no_progress with_reducible apply Sound.upd

theorem Sound.kolSend {s : State} {m : KMsg} {rev : optParam Bool false} {came : optParam (Option ℕ) none} (h_s :
    Sound q s) : Sound q (kolSend s m rev came) := by
  unfold Machine.kolSend
  repeat' first
    | with_reducible assumption | intro _ | with_reducible apply Sound.modPort | with_reducible apply Sound.pumpPort
    | fail_if_no_progress with_reducible apply Sound.upd | dsimp only | split

theorem Sound.kolSendReserved {s : State} {m : KMsg} (h_s : Sound q s) : Sound q (kolSendReserved s m) := by
  unfold Machine.kolSendReserved
  repeat' first
    | with_reducible assumption | intro _ | with_reducible apply Sound.modPort
    | fail_if_no_progress with_reducible apply Sound.upd | dsimp only | split

theorem Sound.kolSendAll {s : State} {ns : List ℕ} {f : ℕ → KMsg} (h_s : Sound q s) : Sound q (kolSendAll s ns f) :=
    by
  unfold Machine.kolSendAll
  repeat' first
    | with_reducible assumption | intro _ | with_reducible apply Sound.kolSend | with_reducible apply Sound.foldl

theorem Sound.sendControl {s : State} {p : Fin 8} {vc : ℕ} {nak : Bool} (h_s : Sound q s) : Sound q (sendControl s p
    vc nak) := by
  unfold Machine.sendControl
  repeat' first
    | with_reducible assumption | fail_if_no_progress with_reducible apply Sound.upd

theorem Sound.linkDiscard {s : State} {p : Fin 8} {vc : ℕ} (h_s : Sound q s) : Sound q (linkDiscard s p vc) := by
  unfold Machine.linkDiscard
  repeat' first
    | with_reducible assumption | intro _ | with_reducible apply Sound.modPort
    | with_reducible apply Sound.sendControl | with_reducible apply Sound.ite

theorem Sound.linkReceive {s : State} {h : KHdr} (h_s : Sound q s) : Sound q (linkReceive s h) := by
  unfold Machine.linkReceive
  repeat' first
    | with_reducible assumption | intro _ | with_reducible apply Sound.modPort | with_reducible apply Sound.pumpPort
    | with_reducible apply Sound.sendControl

theorem Sound.kolForward {s : State} {h : KHdr} {m : KMsg} {rev : Bool} (h_s : Sound q s) : Sound q (kolForward s h m
    rev) := by
  unfold Machine.kolForward
  repeat' first
    | with_reducible assumption | with_reducible apply Sound.kolSend

theorem Sound.onMessage {s : State} {h : KHdr} {type : ℕ} {body : List Byte} {f : State → State} {rev : optParam Bool
    false} (h_s : Sound q s) (h_f : ∀ y0, Sound q y0 → Sound q (f y0)) : Sound q (onMessage s h type body f rev) := by
  unfold Machine.onMessage
  repeat' first
    | with_reducible assumption | with_reducible apply Sound.linkDiscard | with_reducible apply Sound.linkReceive
    | with_reducible apply Sound.kolForward | with_reducible apply h_f | with_reducible apply Sound.ite

theorem Sound.newReq {s : State} {node : ℕ} {w : KWhat} (h_s : Sound q s) : Sound q ((newReq s node w).2) := by
  unfold Machine.newReq
  repeat' first
    | with_reducible assumption | fail_if_no_progress with_reducible apply Sound.upd

theorem Sound.dropReq {s : State} {no : ℕ} (h_s : Sound q s) : Sound q (dropReq s no) := by
  unfold Machine.dropReq
  repeat' first
    | with_reducible assumption | intro _ | fail_if_no_progress with_reducible apply Sound.upd

theorem Sound.kolRequest {s : State} {node : ℕ} {w : KWhat} {type key an deadline : ℕ} {tag : ℕ → ℕ} {body : List
    Byte} (h_s : Sound q s) : Sound q ((kolRequest s node w type key an deadline tag body).2) := by
  unfold Machine.kolRequest
  repeat' first
    | with_reducible assumption | with_reducible apply Sound.kolSend | with_reducible apply Sound.newReq

end Sys2Proof.Laws
end

