-- ==== Sys2Proof/Laws/KeepsRings.lean ====
section
/-! SUPPORT. One lemma for each operation of Ledger, Journal, NetSend, NetMove, Power, Boot, Release, Xlt, under its name: the operation keeps
the queue of commands and the canonical forms of the maps. -/

namespace Sys2Proof.Laws

open Sys2Proof Sys2Proof.Machine

variable {q : List Instr}

/-! ## Ledger -/

theorem Sound.moveEntries {x : Bench} {x1 x2 x3 x4 : ℕ} {x5 : List ℕ} {x6 : State} (h_x6 : Sound q x6) : InO (fun r =>
    Sound q r.2) (moveEntries x x1 x2 x3 x4 x5 x6) := by
  unfold Machine.moveEntries
  repeat' first
    | with_reducible assumption | with_reducible apply Sound.moveEntries | with_reducible apply Sound.wr
    | with_reducible exact InO.none | with_reducible apply InO.some | dsimp only | split

theorem Sound.entryMoves {s : State} {x : Bench} {h e : ℕ} (h_s : Sound q s) : InO (fun r => Sound q r.2) (entryMoves
    s x h e) := by
  unfold Machine.entryMoves
  repeat' first
    | with_reducible assumption | intro _ | with_reducible apply Sound.wr | with_reducible apply Sound.moveEntries
    | with_reducible exact InO.none | with_reducible apply InO.some
    | with_reducible refine InO.map (Q := fun r => Sound q r.2) ?_ ?_ | with_reducible refine InO.mapAll ?_
    | fail_if_no_progress with_reducible apply Sound.upd | dsimp only | split

theorem Sound.placeEntry {s : State} {x : Bench} {h e : ℕ} (h_s : Sound q s) : InO (fun r => Sound q r) (placeEntry s
    x h e) := by
  unfold Machine.placeEntry
  repeat' first
    | with_reducible assumption | intro _ | with_reducible apply Sound.entryMoves | with_reducible exact InO.none
    | with_reducible apply InO.some | with_reducible refine InO.map (Q := fun r => Sound q r.2) ?_ ?_

theorem Sound.insertMoves {s : State} {n : ℕ} {x : Bench} {h : ℕ} {pending : Bool} (h_s : Sound q s) : InO (fun r =>
    Sound q r.2.2) (insertMoves s n x h pending) := by
  unfold Machine.insertMoves
  repeat' first
    | with_reducible assumption | intro _ | with_reducible apply Sound.entryMoves | with_reducible exact InO.none
    | with_reducible apply InO.some | with_reducible refine InO.map (Q := fun r => Sound q r.2) ?_ ?_
    | with_reducible refine InO.mapAll ?_ | fail_if_no_progress with_reducible apply Sound.upd | dsimp only | split

theorem Sound.insertSlot {s : State} {n : ℕ} {x : Bench} {h : ℕ} {pending : Bool} (h_s : Sound q s) : InO (fun r =>
    Sound q r.2) (insertSlot s n x h pending) := by
  unfold Machine.insertSlot
  repeat' first
    | with_reducible assumption | intro _ | with_reducible apply Sound.insertMoves | with_reducible exact InO.none
    | with_reducible apply InO.some | with_reducible refine InO.map (Q := fun r => Sound q r.2.2) ?_ ?_

theorem Sound.setBitmap {s : State} {x : Bench} {slot : ℕ} {v : Bool} (h_s : Sound q s) : Sound q (setBitmap s x slot
    v) := by
  unfold Machine.setBitmap
  repeat' first
    | with_reducible assumption | with_reducible apply Sound.wr

theorem Sound.freeReserved {s : State} {r : SlotRes} (h_s : Sound q s) : Sound q (freeReserved s r) := by
  unfold Machine.freeReserved
  repeat' first
    | with_reducible assumption | intro _ | with_reducible apply Sound.wr
    | fail_if_no_progress with_reducible apply Sound.upd | dsimp only | split

theorem Sound.storeLog {s : State} {c : CoreId} {b : BankId} {n : ℕ} {l : List WEntry} {e : WEntry} (h_s : Sound q s)
    : Sound q (storeLog s c b n l e) := by
  unfold Machine.storeLog
  repeat' first
    | with_reducible assumption | with_reducible apply Sound.tileWrite | with_reducible apply Sound.ite | dsimp only
    | split

theorem Sound.actStore {s : State} {an run bench hash : ℕ} {l : List WEntry} {key : List Byte} {v : View} (h_s : Sound
    q s) : Sound q ((actStore s an run bench hash l key v).2) := by
  unfold Machine.actStore
  repeat' first
    | with_reducible assumption | with_reducible apply Sound.insertSlot | with_reducible apply Sound.ite
    | fail_if_no_progress with_reducible apply Sound.upd | dsimp only | split
    | with_reducible refine Sound.of_some2 ?_ (by assumption)

theorem Sound.actDelete {s : State} {an run bench : ℕ} {v : View} (h_s : Sound q s) : Sound q ((actDelete s an run
    bench v).2) := by
  unfold Machine.actDelete
  repeat' first
    | with_reducible assumption | intro _ | with_reducible apply Sound.freeReserved | with_reducible apply Sound.foldl
    | with_reducible apply Sound.foldl2 | dsimp only | split

theorem Sound.ledgerAct {s : State} {an run bench hash : ℕ} {l : List WEntry} {op : LOp} {key : List Byte} (h_s :
    Sound q s) : Sound q ((ledgerAct s an run bench hash l op key).2) := by
  unfold Machine.ledgerAct
  repeat' first
    | with_reducible assumption | with_reducible apply Sound.actStore | with_reducible apply Sound.actDelete
    | dsimp only | split

theorem Sound.refuseOp {s : State} {i : Initiator} {bench : ℕ} {l : List WEntry} {op : LOp} {key : List Byte} {akey :
    ℕ} (h_s : Sound q s) : InO (fun r => Sound q r) (refuseOp s i bench l op key akey) := by
  unfold Machine.refuseOp
  repeat' first
    | with_reducible assumption | intro _ | with_reducible apply Sound.bump | with_reducible apply Sound.refuseAccess
    | with_reducible apply Sound.ite | with_reducible exact InO.none | with_reducible apply InO.some
    | with_reducible refine InO.mapAll ?_ | dsimp only | split

theorem Sound.takeLock {s : State} {r : LReq} (h_s : Sound q s) : Sound q (takeLock s r) := by
  unfold Machine.takeLock
  repeat' first
    | with_reducible assumption | intro _ | with_reducible apply Sound.ite
    | fail_if_no_progress with_reducible apply Sound.upd

theorem Sound.modReq {s : State} {an run : ℕ} {f : LReq → LReq} (h_s : Sound q s) : Sound q (modReq s an run f) := by
  unfold Machine.modReq
  repeat' first
    | with_reducible assumption | intro _ | with_reducible apply Sound.ite
    | fail_if_no_progress with_reducible apply Sound.upd

theorem Sound.dropLReq {s : State} {an run : ℕ} (h_s : Sound q s) : Sound q (dropLReq s an run) := by
  unfold Machine.dropLReq
  repeat' first
    | with_reducible assumption | intro _ | fail_if_no_progress with_reducible apply Sound.upd

theorem Sound.woundMessage {s : State} {r : LReq} {k : Lock} (h_s : Sound q s) : Sound q (woundMessage s r k) := by
  unfold Machine.woundMessage
  repeat' first
    | with_reducible assumption | with_reducible apply Sound.bump | with_reducible apply Sound.kolSend

theorem Sound.sendWound {s : State} {r : LReq} {k : Lock} (h_s : Sound q s) : Sound q (sendWound s r k) := by
  unfold Machine.sendWound
  repeat' first
    | with_reducible assumption | intro _ | with_reducible apply Sound.modReq
    | with_reducible apply Sound.woundMessage | with_reducible apply Sound.ite
    | fail_if_no_progress with_reducible apply Sound.upd

theorem Sound.woundFor {s : State} {r : LReq} (h_s : Sound q s) : Sound q (woundFor s r) := by
  unfold Machine.woundFor
  repeat' first
    | with_reducible assumption | intro _ | with_reducible apply Sound.sendWound | with_reducible apply Sound.ite
    | with_reducible apply Sound.foldl | with_reducible apply Sound.foldl2 | dsimp only | split

theorem Sound.putRsv {s : State} {an run deadline tag : ℕ} {e : WEntry} (h_s : Sound q s) : Sound q (putRsv s an run
    deadline tag e) := by
  unfold Machine.putRsv
  repeat' first
    | with_reducible assumption | intro _ | with_reducible apply Sound.ite
    | fail_if_no_progress with_reducible apply Sound.upd

theorem Sound.answerLop {s : State} {r : LReq} {a : LAns} (h_s : Sound q s) : Sound q (answerLop s r a) := by
  unfold Machine.answerLop
  repeat' first
    | with_reducible assumption | with_reducible apply Sound.kolSend | dsimp only | split

theorem Sound.undoLock {s : State} {r : LReq} {l : List WEntry} (h_s : Sound q s) : Sound q (undoLock s r l) := by
  unfold Machine.undoLock
  repeat' first
    | with_reducible assumption | intro _ | with_reducible apply Sound.ite
    | fail_if_no_progress with_reducible apply Sound.upd

theorem Sound.servePeer {s0 : State} {r : LReq} (h_s0 : Sound q s0) : Sound q (servePeer s0 r) := by
  unfold Machine.servePeer
  repeat' first
    | with_reducible assumption | with_reducible apply Sound.bump | with_reducible apply Sound.mpuSettled
    | with_reducible apply Sound.ledgerAct | with_reducible apply Sound.refuseOp | with_reducible apply Sound.dropLReq
    | with_reducible apply Sound.putRsv | with_reducible apply Sound.answerLop | with_reducible apply Sound.undoLock
    | with_reducible apply Sound.ite | dsimp only | split | with_reducible refine Sound.of_some ?_ (by assumption)

theorem Sound.grantReq {s : State} {r : LReq} (h_s : Sound q s) : Sound q (grantReq s r) := by
  unfold Machine.grantReq
  repeat' first
    | with_reducible assumption | intro _ | with_reducible apply Sound.takeLock | with_reducible apply Sound.modReq
    | with_reducible apply Sound.servePeer | with_reducible apply Sound.ite

theorem Sound.requestLock {s : State} {r : LReq} (h_s : Sound q s) : Sound q (requestLock s r) := by
  unfold Machine.requestLock
  repeat' first
    | with_reducible assumption | with_reducible apply Sound.woundFor | with_reducible apply Sound.grantReq
    | with_reducible apply Sound.ite | fail_if_no_progress with_reducible apply Sound.upd

theorem Sound.regrant {s : State} (h_s : Sound q s) : Sound q (regrant s) := by
  unfold Machine.regrant
  repeat' first
    | with_reducible assumption | intro _ | with_reducible apply Sound.grantReq | with_reducible apply Sound.ite
    | with_reducible apply Sound.foldl

theorem Sound.releaseRun {s : State} {an run : ℕ} (h_s : Sound q s) : Sound q (releaseRun s an run) := by
  unfold Machine.releaseRun
  repeat' first
    | with_reducible assumption | intro _ | with_reducible apply Sound.freeReserved
    | with_reducible apply Sound.regrant | with_reducible apply Sound.foldl | with_reducible apply Sound.foldl2
    | fail_if_no_progress with_reducible apply Sound.upd

/-! ## Journal -/

theorem Sound.noteFull {s : State} (h_s : Sound q s) : Sound q (noteFull s) := by
  unfold Machine.noteFull
  repeat' first
    | with_reducible assumption | with_reducible apply Sound.setF

theorem Sound.assignAt {s : State} {epoch stamp : ℕ} {h : JHead} {body : List Byte} (h_s : Sound q s) : Sound q
    (assignAt s epoch stamp h body) := by
  unfold Machine.assignAt
  repeat' first
    | with_reducible assumption | with_reducible apply Sound.setReg
    | fail_if_no_progress with_reducible apply Sound.upd

theorem Sound.assignRec {s : State} {h : JHead} {body : List Byte} (h_s : Sound q s) : Sound q (assignRec s h body) :=
    by
  unfold Machine.assignRec
  repeat' first
    | with_reducible assumption | with_reducible apply Sound.assignAt

theorem Sound.putRecord {s : State} {a : ℕ} {bs : List Byte} (h_s : Sound q s) : Sound q (putRecord s a bs) := by
  unfold Machine.putRecord
  repeat' first
    | with_reducible assumption | intro _ | with_reducible apply Sound.wr
    | fail_if_no_progress with_reducible apply Sound.upd

theorem Sound.applyEntry {jsn an run : ℕ} {s : State} {e : WEntry} (h_s : Sound q s) : Sound q (applyEntry jsn an run
    s e) := by
  unfold Machine.applyEntry
  repeat' first
    | with_reducible assumption | intro _ | with_reducible apply Sound.wr | with_reducible apply Sound.setBitmap
    | with_reducible apply Sound.putRecord | fail_if_no_progress with_reducible apply Sound.upd | dsimp only | split

theorem Sound.applyWrites {s : State} {jsn an run : ℕ} {l : List WEntry} (h_s : Sound q s) : Sound q (applyWrites s
    jsn an run l) := by
  unfold Machine.applyWrites
  repeat' first
    | with_reducible assumption | intro _ | with_reducible apply Sound.applyEntry | with_reducible apply Sound.foldl

theorem Sound.issueSign {s : State} {who : JobFor} {slot deadline : ℕ} (h_s : Sound q s) : Sound q (issueSign s who
    slot deadline) := by
  unfold Machine.issueSign
  repeat' first
    | with_reducible assumption | fail_if_no_progress with_reducible apply Sound.upd

theorem Sound.queueExport {s : State} {bs : List Byte} (h_s : Sound q s) : Sound q (queueExport s bs) := by
  unfold Machine.queueExport
  repeat' first
    | with_reducible assumption | fail_if_no_progress with_reducible apply Sound.upd

theorem Sound.areaAppend {s : State} {bs : List Byte} (h_s : Sound q s) : Sound q (areaAppend s bs) := by
  unfold Machine.areaAppend
  repeat' first
    | with_reducible assumption | with_reducible apply Sound.islandWrite

theorem Sound.closeGroup {s : State} (h_s : Sound q s) : Sound q (closeGroup s) := by
  unfold Machine.closeGroup
  repeat' first
    | with_reducible assumption | fail_if_no_progress with_reducible apply Sound.upd | dsimp only | split

theorem Sound.groupAppend {s : State} {r : JRec} {bs : List Byte} (h_s : Sound q s) : Sound q (groupAppend s r bs) :=
    by
  unfold Machine.groupAppend
  repeat' first
    | with_reducible assumption | with_reducible apply Sound.closeGroup | with_reducible apply Sound.ite
    | fail_if_no_progress with_reducible apply Sound.upd

theorem Sound.completeRec {s : State} {r : JRec} (h_s : Sound q s) : Sound q (completeRec s r) := by
  unfold Machine.completeRec
  repeat' first
    | with_reducible assumption | intro _ | with_reducible apply Sound.noteFull
    | with_reducible apply Sound.areaAppend | with_reducible apply Sound.groupAppend | with_reducible apply Sound.ite
    | fail_if_no_progress with_reducible apply Sound.upd

theorem Sound.headRec {s : State} {seam prevLast : ℕ} (h_s : Sound q s) : Sound q (headRec s seam prevLast) := by
  unfold Machine.headRec
  repeat' first
    | with_reducible assumption | with_reducible apply Sound.assignRec
    | fail_if_no_progress with_reducible apply Sound.upd

theorem Sound.applyMap {s : State} {t : KTick} (h_s : Sound q s) : Sound q (applyMap s t) := by
  unfold Machine.applyMap
  repeat' first
    | with_reducible assumption | intro _ | with_reducible apply Sound.wr | with_reducible apply Sound.setF
    | with_reducible apply Sound.ite | with_reducible apply Sound.foldl | with_reducible apply Sound.foldl2
    | fail_if_no_progress with_reducible apply Sound.upd | dsimp only | split

theorem Sound.cascadeSeam {s : State} {t : KTick} (h_s : Sound q s) : Sound q (cascadeSeam s t) := by
  unfold Machine.cascadeSeam
  repeat' first
    | with_reducible assumption | with_reducible apply Sound.applyMap | with_reducible apply Sound.tick
    | with_reducible apply Sound.ite | fail_if_no_progress with_reducible apply Sound.upd

theorem Sound.finishGseal {s : State} (h_s : Sound q s) : Sound q (finishGseal s) := by
  unfold Machine.finishGseal
  repeat' first
    | with_reducible assumption | intro _ | with_reducible apply Sound.bump | with_reducible apply Sound.setF
    | with_reducible apply Sound.dropJob | with_reducible apply Sound.kolSendAll | with_reducible apply Sound.noteFull
    | with_reducible apply Sound.assignRec | with_reducible apply Sound.ite
    | fail_if_no_progress with_reducible apply Sound.upd | dsimp only | split

/-! ## NetSend -/

theorem Sound.regroupPorts {s : State} (h_s : Sound q s) : Sound q (regroupPorts s) := by
  unfold Machine.regroupPorts
  repeat' first
    | with_reducible assumption | intro _ | with_reducible apply Sound.setF | with_reducible apply Sound.ite
    | with_reducible apply Sound.foldl

theorem Sound.sendFrame {s : State} {p : Fin 8} {frame : List Byte} (h_s : Sound q s) : Sound q (sendFrame s p frame)
    := by
  unfold Machine.sendFrame
  repeat' first
    | with_reducible assumption | with_reducible apply Sound.ite | fail_if_no_progress with_reducible apply Sound.upd

theorem Sound.ipPacket {s : State} {c : Conn} {tcp : List Byte} (h_s : Sound q s) : Sound q ((ipPacket s c tcp).2) :=
    by
  unfold Machine.ipPacket
  repeat' first
    | with_reducible assumption | with_reducible apply Sound.openBytes | with_reducible apply Sound.ite | dsimp only
    | split

theorem Sound.sendSegment {s : State} {c : Conn} {seq : ℕ} {push : Bool} {data : List Byte} (h_s : Sound q s) : Sound
    q (sendSegment s c seq push data) := by
  unfold Machine.sendSegment
  repeat' first
    | with_reducible assumption | with_reducible apply Sound.putConn | with_reducible apply Sound.sendFrame
    | with_reducible apply Sound.ipPacket | fail_if_no_progress with_reducible apply Sound.upd | dsimp only | split

theorem Sound.sendAck {s : State} {c : Conn} (h_s : Sound q s) : Sound q (sendAck s c) := by
  unfold Machine.sendAck
  repeat' first
    | with_reducible assumption | with_reducible apply Sound.sendSegment

theorem Sound.noteRekey {s : State} {c : Conn} (h_s : Sound q s) : Sound q (noteRekey s c) := by
  unfold Machine.noteRekey
  repeat' first
    | with_reducible assumption | with_reducible apply Sound.putConn | with_reducible apply Sound.connEvent
    | with_reducible apply Sound.ite

theorem Sound.noteDelivered {s : State} {c : Conn} {from_ to_ : ℕ} (h_s : Sound q s) : Sound q (noteDelivered s c
    from_ to_) := by
  unfold Machine.noteDelivered
  repeat' first
    | with_reducible assumption | intro _ | with_reducible apply Sound.delivered | with_reducible apply Sound.ite
    | with_reducible apply Sound.foldl | with_reducible apply Sound.foldl2 | dsimp only | split

theorem Sound.sendBytes {s : State} {c : Conn} {n : ℕ} (h_s : Sound q s) : Sound q (sendBytes s c n) := by
  unfold Machine.sendBytes
  repeat' first
    | with_reducible assumption | with_reducible apply Sound.bump | with_reducible apply Sound.putConn
    | with_reducible apply Sound.sendSegment | with_reducible apply Sound.noteDelivered
    | with_reducible apply Sound.ite

theorem Sound.keepOrRekey {s : State} {c : Conn} (h_s : Sound q s) : InO (fun r => Sound q r) (keepOrRekey s c) := by
  unfold Machine.keepOrRekey
  repeat' first
    | with_reducible assumption | with_reducible apply Sound.closeConn | with_reducible apply Sound.ite
    | with_reducible exact InO.none | with_reducible apply InO.some | dsimp only | split

theorem Sound.execSegmentTransmit {p : Fin 8} {s : State} (h_s : Sound q s) : SoundOut q (execSegmentTransmit p s) :=
    by
  unfold Machine.execSegmentTransmit
  repeat' first
    | with_reducible assumption | with_reducible apply Sound.noteRekey | with_reducible apply Sound.sendBytes
    | with_reducible apply Sound.keepOrRekey | with_reducible apply Sound.ite | with_reducible apply SoundOut.next
    | dsimp only | split | with_reducible refine Sound.of_some ?_ (by assumption)

theorem Sound.resendFirst {s : State} {c : Conn} (h_s : Sound q s) : Sound q (resendFirst s c) := by
  unfold Machine.resendFirst
  repeat' first
    | with_reducible assumption | with_reducible apply Sound.bump | with_reducible apply Sound.sendSegment
    | with_reducible apply Sound.ite

theorem Sound.execRetransmitTimeout {h : ℕ} {s : State} (h_s : Sound q s) : SoundOut q (execRetransmitTimeout h s) :=
    by
  unfold Machine.execRetransmitTimeout
  repeat' first
    | with_reducible assumption | with_reducible apply Sound.putConn | with_reducible apply Sound.closeConn
    | with_reducible apply Sound.resendFirst | with_reducible apply Sound.ite | with_reducible apply SoundOut.next
    | fail_if_no_progress with_reducible apply Sound.upd | dsimp only | split

theorem Sound.execDelayedAckTimer {h : ℕ} {s : State} (h_s : Sound q s) : SoundOut q (execDelayedAckTimer h s) := by
  unfold Machine.execDelayedAckTimer
  repeat' first
    | with_reducible assumption | with_reducible apply Sound.sendAck | with_reducible apply Sound.ite
    | with_reducible apply SoundOut.next | dsimp only | split

theorem Sound.sendProbe {s : State} {c : Conn} (h_s : Sound q s) : Sound q (sendProbe s c) := by
  unfold Machine.sendProbe
  repeat' first
    | with_reducible assumption | with_reducible apply Sound.putConn | with_reducible apply Sound.sendSegment
    | with_reducible apply Sound.noteDelivered

theorem Sound.execZeroWindowProbe {h : ℕ} {s : State} (h_s : Sound q s) : SoundOut q (execZeroWindowProbe h s) := by
  unfold Machine.execZeroWindowProbe
  repeat' first
    | with_reducible assumption | with_reducible apply Sound.noteRekey | with_reducible apply Sound.keepOrRekey
    | with_reducible apply Sound.sendProbe | with_reducible apply Sound.ite | with_reducible apply SoundOut.next
    | fail_if_no_progress with_reducible apply Sound.upd | dsimp only | split
    | with_reducible refine Sound.of_some ?_ (by assumption)

theorem Sound.execPersistLimit {h : ℕ} {s : State} (h_s : Sound q s) : SoundOut q (execPersistLimit h s) := by
  unfold Machine.execPersistLimit
  repeat' first
    | with_reducible assumption | with_reducible apply Sound.closeConn | with_reducible apply Sound.ite
    | with_reducible apply SoundOut.next | dsimp only | split

theorem Sound.execStallBoundExpiry {h : ℕ} {s : State} (h_s : Sound q s) : SoundOut q (execStallBoundExpiry h s) := by
  unfold Machine.execStallBoundExpiry
  repeat' first
    | with_reducible assumption | intro _ | with_reducible apply Sound.bump | with_reducible apply Sound.putConn
    | with_reducible apply Sound.ite | with_reducible apply SoundOut.next
    | fail_if_no_progress with_reducible apply Sound.upd | dsimp only | split

theorem Sound.execHandbackComplete {h : ℕ} {s : State} (h_s : Sound q s) : SoundOut q (execHandbackComplete h s) := by
  unfold Machine.execHandbackComplete
  repeat' first
    | with_reducible assumption | with_reducible apply Sound.closeConn | with_reducible apply Sound.ite
    | with_reducible apply SoundOut.next | dsimp only | split

/-! ## NetMove -/

theorem Sound.announce {s : State} {p : Fin 8} {c : Conn} (h_s : Sound q s) : Sound q (announce s p c) := by
  unfold Machine.announce
  repeat' first
    | with_reducible assumption | with_reducible apply Sound.sendFrame

theorem Sound.moveConn {s : State} {p : Fin 8} {resend : Bool} {c : Conn} (h_s : Sound q s) : Sound q (moveConn s p
    resend c) := by
  unfold Machine.moveConn
  repeat' first
    | with_reducible assumption | with_reducible apply Sound.putConn | with_reducible apply Sound.connWrite

theorem Sound.failOver {s : State} {p : Fin 8} (h_s : Sound q s) : Sound q (failOver s p) := by
  unfold Machine.failOver
  repeat' first
    | with_reducible assumption | intro _ | with_reducible apply Sound.setF | with_reducible apply Sound.queueExc
    | with_reducible apply Sound.announce | with_reducible apply Sound.moveConn | with_reducible apply Sound.ite
    | with_reducible apply Sound.foldl

/-! ## Power -/

theorem Sound.modIsl {s : State} {i : Fin 44} {f : IslPwr → IslPwr} (h_s : Sound q s) : Sound q (State.modIsl s i f)
    := by
  unfold Machine.State.modIsl
  repeat' first
    | with_reducible assumption | fail_if_no_progress with_reducible apply Sound.upd

theorem Sound.setIslandState {s : State} {i : Fin 44} {v : ℕ} (h_s : Sound q s) : Sound q (setIslandState s i v) := by
  unfold Machine.setIslandState
  repeat' first
    | with_reducible assumption | with_reducible apply Sound.setF

theorem Sound.setClk {s : State} {i : Fin 44} {f : ℕ} (h_s : Sound q s) : Sound q (setClk s i f) := by
  unfold Machine.setClk
  repeat' first
    | with_reducible assumption | with_reducible apply Sound.setF | with_reducible apply Sound.settleWork

theorem Sound.startFixed {s : State} {i : Fin 44} (h_s : Sound q s) : Sound q (startFixed s i) := by
  unfold Machine.startFixed
  repeat' first
    | with_reducible assumption | with_reducible apply Sound.setF | with_reducible apply Sound.setIslandState
    | with_reducible apply Sound.setClk

theorem Sound.avsWrite {s : State} (h_s : Sound q s) : Sound q (avsWrite s) := by
  unfold Machine.avsWrite
  repeat' first
    | with_reducible assumption | with_reducible apply Sound.setF

theorem Sound.raiseTo {s : State} {i : Fin 30} {f : ℕ} (h_s : Sound q s) : Sound q (raiseTo s i f) := by
  unfold Machine.raiseTo
  repeat' first
    | with_reducible assumption | intro _ | with_reducible apply Sound.modIsl

theorem Sound.lowerTo {s : State} {i : Fin 30} {f : ℕ} (h_s : Sound q s) : Sound q (lowerTo s i f) := by
  unfold Machine.lowerTo
  repeat' first
    | with_reducible assumption | intro _ | with_reducible apply Sound.modIsl | with_reducible apply Sound.setClk

theorem Sound.evalClock {s : State} {i : Fin 30} (h_s : Sound q s) : Sound q (evalClock s i) := by
  unfold Machine.evalClock
  repeat' first
    | with_reducible assumption | intro _ | with_reducible apply Sound.modIsl | with_reducible apply Sound.raiseTo
    | with_reducible apply Sound.lowerTo | with_reducible apply Sound.ite
    | fail_if_no_progress with_reducible apply Sound.upd | dsimp only | split

theorem Sound.noteClamp {s : State} (h_s : Sound q s) : Sound q (noteClamp s) := by
  unfold Machine.noteClamp
  repeat' first
    | with_reducible assumption | intro _ | with_reducible apply Sound.setF

theorem Sound.noteDerate {s : State} (h_s : Sound q s) : Sound q (noteDerate s) := by
  unfold Machine.noteDerate
  repeat' first
    | with_reducible assumption | intro _ | with_reducible apply Sound.setF

theorem Sound.quiesceStack {s : State} {i : Fin 44} (h_s : Sound q s) : Sound q (quiesceStack s i) := by
  unfold Machine.quiesceStack
  repeat' first
    | with_reducible assumption | with_reducible apply Sound.setF | with_reducible apply Sound.ite

theorem Sound.islandAction {s : State} {i : Fin 44} {a : ℕ} (h_s : Sound q s) : Sound q (islandAction s i a) := by
  unfold Machine.islandAction
  repeat' first
    | with_reducible assumption | intro _ | with_reducible apply Sound.setF | with_reducible apply Sound.modIsl
    | with_reducible apply Sound.setIslandState | with_reducible apply Sound.quiesceStack
    | with_reducible apply Sound.ite

theorem Sound.clearTileStore {s : State} {t : Nat} (h_s : Sound q s) :  Sound q (clearTileStore s t) := by
  exact Sound.setMem h_s _ (Sparse.wf_filter h_s.2.1 _)

theorem Sound.noteTimeSource {s : State} (h_s : Sound q s) : Sound q (noteTimeSource s) := by
  unfold Machine.noteTimeSource
  repeat' first
    | with_reducible assumption | with_reducible apply Sound.setF

/-! ## Boot -/

theorem Sound.filterRegs {q : List Instr} {s : State} (h : Sound q s) (f : Nat × BitVec 64 → Bool) :
    Sparse.WF RegMap.reset (s.regs.filter f) := Sparse.wf_filter h.2.2.2 f

theorem Sound.dropHbm {q : List Instr} {s : State} (h : Sound q s) (f : Host.Cell → Bool) (l : Ldg)
    (x : Boot) : Sound q { s with mem := s.mem.filter f, skeys := [], ldg := l, boot := x } :=
  ⟨h.1, Sparse.wf_filter h.2.1 f, Sparse.wf_nil _, h.2.2.2⟩

theorem Sound.retireCore {s : State} {c : CoreId} (h_s : Sound q s) : Sound q (retireCore s c) := by
  unfold Machine.retireCore
  repeat' first
    | with_reducible assumption | intro _ | with_reducible apply Sound.bump | with_reducible apply Sound.setF
    | with_reducible apply Sound.modCore | with_reducible apply Sound.setClk | with_reducible apply Sound.avsWrite
    | with_reducible apply Sound.ite | fail_if_no_progress with_reducible apply Sound.upd

theorem Sound.noteRetired {s : State} (h_s : Sound q s) : Sound q (noteRetired s) := by
  unfold Machine.noteRetired
  repeat' first
    | with_reducible assumption | intro _ | with_reducible apply Sound.setF | with_reducible apply Sound.setEngine
    | with_reducible apply Sound.ite | with_reducible apply Sound.foldl | with_reducible apply Sound.foldl2
    | dsimp only | split

theorem Sound.islandsOff {s : State} (h_s : Sound q s) : Sound q (islandsOff s) := by
  unfold Machine.islandsOff
  repeat' first
    | with_reducible assumption | intro _ | with_reducible apply Sound.setIslandState
    | with_reducible apply Sound.setClk | with_reducible apply Sound.ite | with_reducible apply Sound.foldl

theorem Sound.strapRegs {s : State} (h_s : Sound q s) : Sound q (strapRegs s) := by
  unfold Machine.strapRegs
  repeat' first
    | with_reducible assumption | with_reducible apply Sound.setF

theorem Sound.completeAll {x0 : ℕ} {x1 : State} (h_x1 : Sound q x1) : Sound q (completeAll x0 x1) := by
  unfold Machine.completeAll
  repeat' first
    | with_reducible assumption | with_reducible apply Sound.completeAll | with_reducible apply Sound.completeRec
    | fail_if_no_progress with_reducible apply Sound.upd | dsimp only | split

theorem Sound.emptyLog {s : State} (h_s : Sound q s) : Sound q (emptyLog s) := by
  unfold Machine.emptyLog
  repeat' first
    | with_reducible assumption | intro _ | with_reducible apply Sound.setF | with_reducible apply Sound.ite

theorem Sound.quiesce {s : State} (h_s : Sound q s) : Sound q (quiesce s) := by
  unfold Machine.quiesce
  repeat' first
    | with_reducible assumption | with_reducible apply Sound.setReg | with_reducible apply Sound.completeAll
    | with_reducible apply Sound.emptyLog | with_reducible apply Sound.ite

theorem Sound.islandReset {q : List Instr} {s : State} {hbm log : Bool} {regs : List (Nat × BitVec 64)}
    (h_s : Sound q s) (hr : Sparse.WF RegMap.reset regs) : Sound q (islandReset s hbm log regs) := by
  refine ⟨h_s.1, Sparse.wf_filter h_s.2.1 _, ?_, hr⟩
  unfold Machine.islandReset
  dsimp only
  split
  · exact h_s.2.2.1
  · exact Sparse.wf_nil _

theorem Sound.carryFields {old s : State} (h_old : Sound q old) (h_s : Sound q s) : Sound q (carryFields old s) := by
  unfold Machine.carryFields
  repeat' first
    | with_reducible assumption | intro _ | with_reducible apply Sound.setReg | with_reducible apply Sound.foldl

theorem Sound.noteWarm {s : State} {cause : ℕ} (h_s : Sound q s) : Sound q (noteWarm s cause) := by
  unfold Machine.noteWarm
  repeat' first
    | with_reducible assumption | with_reducible apply Sound.setF

theorem Sound.portsDown {s : State} (h_s : Sound q s) : Sound q (portsDown s) := by
  unfold Machine.portsDown
  repeat' first
    | with_reducible assumption | intro _ | with_reducible apply Sound.setF | with_reducible apply Sound.foldl

theorem Sound.warmBody {s : State} {cause : ℕ} {pin : Bool} (h_s : Sound q s) : Sound q (warmBody s cause pin) := by
  unfold Machine.warmBody
  repeat' first
    | with_reducible assumption | intro _ | with_reducible apply Sound.setReg | with_reducible apply Sound.setF
    | with_reducible apply Sound.noteRetired | with_reducible apply Sound.islandsOff
    | with_reducible apply Sound.strapRegs | with_reducible apply Sound.quiesce | with_reducible apply Sound.portsDown
    | with_reducible apply Sound.islandReset | with_reducible apply Sound.carryFields
    | with_reducible apply Sound.noteWarm | with_reducible apply Sound.filterRegs
    | fail_if_no_progress with_reducible apply Sound.upd

theorem Sound.bringupStart {s : State} (h_s : Sound q s) : Sound q (bringupStart s) := by
  unfold Machine.bringupStart
  repeat' first
    | with_reducible assumption | with_reducible apply Sound.setReg | with_reducible apply Sound.setF
    | with_reducible apply Sound.startFixed | with_reducible apply Sound.ite
    | fail_if_no_progress with_reducible apply Sound.upd

theorem Sound.warmResetTo {s : State} {cause : ℕ} {pin : Bool} (h_s : Sound q s) : Sound q (warmResetTo s cause pin)
    := by
  unfold Machine.warmResetTo
  repeat' first
    | with_reducible assumption | with_reducible apply Sound.warmBody | with_reducible apply Sound.bringupStart
    | with_reducible apply Sound.ite | fail_if_no_progress with_reducible apply Sound.upd

theorem Sound.warmRise {s : State} (h_s : Sound q s) : Sound q (warmRise s) := by
  unfold Machine.warmRise
  repeat' first
    | with_reducible assumption | with_reducible apply Sound.bringupStart | with_reducible apply Sound.ite
    | fail_if_no_progress with_reducible apply Sound.upd

theorem Sound.coldResetTo {q : List Instr} {s : State} (h_s : Sound q s) : Sound q (coldResetTo s) :=
  ⟨h_s.1, Sparse.wf_filter h_s.2.1 _, Sparse.wf_nil _, Sparse.wf_filter h_s.2.2.2 _⟩

theorem Sound.powerLoss {s : State} (h_s : Sound q s) : Sound q (powerLoss s) := by
  unfold Machine.powerLoss
  repeat' first
    | with_reducible assumption | intro _ | with_reducible apply Sound.setF | with_reducible apply Sound.islandsOff
    | with_reducible apply Sound.islandReset | with_reducible apply Sound.filterRegs | with_reducible apply Sound.portsDown
    | fail_if_no_progress with_reducible apply Sound.upd

theorem Sound.powerGood {s : State} (h_s : Sound q s) : Sound q (powerGood s) := by
  unfold Machine.powerGood
  repeat' first
    | with_reducible assumption | with_reducible apply Sound.setReg | with_reducible apply Sound.startFixed
    | with_reducible apply Sound.noteTimeSource | with_reducible apply Sound.strapRegs
    | with_reducible apply Sound.bringupStart | with_reducible apply Sound.ite
    | fail_if_no_progress with_reducible apply Sound.upd

theorem Sound.takeImage {s : State} {b : List Byte} {slot : ℕ} (h_s : Sound q s) : Sound q (takeImage s b slot) := by
  unfold Machine.takeImage
  repeat' first
    | with_reducible assumption | with_reducible apply Sound.setF | fail_if_no_progress with_reducible apply Sound.upd

theorem Sound.imageSelect {s : State} (h_s : Sound q s) : Sound q (imageSelect s) := by
  unfold Machine.imageSelect
  repeat' first
    | with_reducible assumption | with_reducible apply Sound.setF | with_reducible apply Sound.takeImage
    | with_reducible apply Sound.ite

theorem Sound.bootLoad {s : State} (h_s : Sound q s) : Sound q (bootLoad s) := by
  unfold Machine.bootLoad
  repeat' first
    | with_reducible assumption | with_reducible apply Sound.setF | with_reducible apply Sound.takeImage
    | with_reducible apply Sound.ite

theorem Sound.microcodeLoad {s : State} {bad : List CoreId} (h_s : Sound q s) : Sound q (microcodeLoad s bad) := by
  unfold Machine.microcodeLoad
  repeat' first
    | with_reducible assumption | intro _ | with_reducible apply Sound.setReg | with_reducible apply Sound.report
    | with_reducible apply Sound.retireCore | with_reducible apply Sound.ite | with_reducible apply Sound.foldl
    | with_reducible apply Sound.foldl2 | fail_if_no_progress with_reducible apply Sound.upd | dsimp only | split

theorem Sound.islandUp {s : State} {i : Fin 44} (h_s : Sound q s) : Sound q (islandUp s i) := by
  unfold Machine.islandUp
  repeat' first
    | with_reducible assumption | intro _ | with_reducible apply Sound.setF | with_reducible apply Sound.modIsl
    | with_reducible apply Sound.setIslandState | with_reducible apply Sound.setClk
    | with_reducible apply Sound.startFixed | with_reducible apply Sound.ite
    | fail_if_no_progress with_reducible apply Sound.upd | dsimp only | split

theorem Sound.restoreKeys {s : State} (h_s : Sound q s) : Sound q ((restoreKeys s).2) := by
  unfold Machine.restoreKeys
  repeat' first
    | with_reducible assumption | with_reducible apply Sound.restoreImage | dsimp only | split

theorem Sound.openStandin {s : State} {index : ℕ} {dial rules : List Byte} (h_s : Sound q s) : Sound q (openStandin s
    index dial rules) := by
  unfold Machine.openStandin
  repeat' first
    | with_reducible assumption | intro _ | with_reducible apply Sound.wr | with_reducible apply Sound.setReg
    | with_reducible apply Sound.setF | with_reducible apply Sound.islandUp | with_reducible apply Sound.foldl
    | with_reducible apply Sound.foldl2 | fail_if_no_progress with_reducible apply Sound.upd

theorem Sound.standinOpen {s : State} (h_s : Sound q s) : Sound q (standinOpen s) := by
  unfold Machine.standinOpen
  repeat' first
    | with_reducible assumption | intro _ | with_reducible apply Sound.setReg | with_reducible apply Sound.setF
    | with_reducible apply Sound.islandUp | with_reducible apply Sound.restoreKeys
    | with_reducible apply Sound.openStandin | with_reducible apply Sound.ite | with_reducible apply Sound.foldl
    | with_reducible apply Sound.foldl2 | fail_if_no_progress with_reducible apply Sound.upd | dsimp only | split

theorem Sound.hbmInitDone {s : State} (h_s : Sound q s) : Sound q (hbmInitDone s) := by
  unfold Machine.hbmInitDone
  dsimp only
  exact Sound.ite h_s (Sound.ite (h_s.upd ..) (Sound.dropHbm h_s ..))

theorem Sound.trainKolat {s : State} (h_s : Sound q s) : Sound q (trainKolat s) := by
  unfold Machine.trainKolat
  repeat' first
    | with_reducible assumption | intro _ | with_reducible apply Sound.setF
    | with_reducible apply Sound.learnNeighbour | with_reducible apply Sound.foldl | with_reducible apply Sound.ite

theorem Sound.trainEth {s : State} (h_s : Sound q s) : Sound q (trainEth s) := by
  unfold Machine.trainEth
  repeat' first
    | with_reducible assumption | intro _ | with_reducible apply Sound.setF | with_reducible apply Sound.ite
    | with_reducible apply Sound.foldl

theorem Sound.bringupRest {s : State} (h_s : Sound q s) : Sound q (bringupRest s) := by
  unfold Machine.bringupRest
  repeat' first
    | with_reducible assumption | intro _ | with_reducible apply Sound.setF | with_reducible apply Sound.avsWrite
    | with_reducible apply Sound.islandUp | with_reducible apply Sound.trainKolat
    | with_reducible apply Sound.trainEth | with_reducible apply Sound.ite | with_reducible apply Sound.foldl
    | with_reducible apply Sound.foldl2 | fail_if_no_progress with_reducible apply Sound.upd

/-! ## Release -/

theorem Sound.restoreLog {s : State} {t : ℕ} (h_s : Sound q s) : Sound q (restoreLog s t) := by
  unfold Machine.restoreLog
  repeat' first
    | with_reducible assumption | intro _ | with_reducible apply Sound.wr | with_reducible apply Sound.ite
    | with_reducible apply Sound.foldl

theorem Sound.logPut {s : State} {k : ℕ} {e : List Byte} (h_s : Sound q s) : Sound q (logPut s k e) := by
  unfold Machine.logPut
  repeat' first
    | with_reducible assumption | with_reducible apply Sound.wr

theorem Sound.resumeJournal {s : State} (h_s : Sound q s) : Sound q (resumeJournal s) := by
  unfold Machine.resumeJournal
  repeat' first
    | with_reducible assumption | with_reducible apply Sound.setF | with_reducible apply Sound.ite
    | fail_if_no_progress with_reducible apply Sound.upd | dsimp only | split

theorem Sound.journalAdvice {s : State} {k : ℕ} (h_s : Sound q s) : Sound q (journalAdvice s k) := by
  unfold Machine.journalAdvice
  repeat' first
    | with_reducible assumption | with_reducible apply Sound.bump | with_reducible apply Sound.insertSlot
    | with_reducible apply Sound.assignAt | with_reducible apply Sound.applyEntry | dsimp only | split
    | with_reducible refine Sound.of_some2 ?_ (by assumption)

theorem Sound.epochZeroRec {s : State} (h_s : Sound q s) : Sound q (epochZeroRec s) := by
  unfold Machine.epochZeroRec
  repeat' first
    | with_reducible assumption | with_reducible apply Sound.noteFull | with_reducible apply Sound.headRec
    | with_reducible apply Sound.resumeJournal | with_reducible apply Sound.journalAdvice
    | with_reducible apply Sound.ite | fail_if_no_progress with_reducible apply Sound.upd

theorem Sound.journalEpochZero {x0 : ℕ} {x1 : State} (h_x1 : Sound q x1) : Sound q (journalEpochZero x0 x1) := by
  unfold Machine.journalEpochZero
  repeat' first
    | with_reducible assumption | with_reducible apply Sound.journalEpochZero | with_reducible apply Sound.noteFull
    | with_reducible apply Sound.epochZeroRec | with_reducible apply Sound.ite | dsimp only | split

theorem Sound.closeEpochZero {s : State} (h_s : Sound q s) : Sound q (closeEpochZero s) := by
  unfold Machine.closeEpochZero
  repeat' first
    | with_reducible assumption | fail_if_no_progress with_reducible apply Sound.upd

theorem Sound.moveStandin {s : State} (h_s : Sound q s) : Sound q (moveStandin s) := by
  unfold Machine.moveStandin
  repeat' first
    | with_reducible assumption | intro _ | with_reducible apply Sound.setF | with_reducible apply Sound.islandWrite
    | with_reducible apply Sound.closeConn | with_reducible apply Sound.failOver | with_reducible apply Sound.ite
    | with_reducible apply Sound.foldl | with_reducible apply Sound.foldl2
    | fail_if_no_progress with_reducible apply Sound.upd

theorem Sound.journalTailSeal {s : State} (h_s : Sound q s) : Sound q (journalTailSeal s) := by
  unfold Machine.journalTailSeal
  repeat' first
    | with_reducible assumption | with_reducible apply Sound.assignRec
    | fail_if_no_progress with_reducible apply Sound.upd | dsimp only | split

theorem Sound.passOldSeam {s : State} (h_s : Sound q s) : Sound q (passOldSeam s) := by
  unfold Machine.passOldSeam
  repeat' first
    | with_reducible assumption | with_reducible apply Sound.cascadeSeam | with_reducible apply Sound.tick
    | with_reducible apply Sound.ite | dsimp only | split

theorem Sound.joinLead {s0 : State} (h_s0 : Sound q s0) : Sound q (joinLead s0) := by
  unfold Machine.joinLead
  repeat' first
    | with_reducible assumption | intro _ | with_reducible apply Sound.setF
    | with_reducible apply Sound.learnNeighbour | with_reducible apply Sound.ite | with_reducible apply Sound.foldl
    | with_reducible apply Sound.foldl2 | fail_if_no_progress with_reducible apply Sound.upd

theorem Sound.awaitJoin {s : State} {t : Fin 44} (h_s : Sound q s) : Sound q (awaitJoin s t) := by
  unfold Machine.awaitJoin
  repeat' first
    | with_reducible assumption | with_reducible apply Sound.setIslandState | with_reducible apply Sound.ite

theorem Sound.finishRelease {s : State} (h_s : Sound q s) : Sound q (finishRelease s) := by
  unfold Machine.finishRelease
  repeat' first
    | with_reducible assumption | intro _ | with_reducible apply Sound.setReg | with_reducible apply Sound.setF
    | with_reducible apply Sound.noteFull | with_reducible apply Sound.headRec
    | with_reducible apply Sound.journalTailSeal | with_reducible apply Sound.passOldSeam
    | with_reducible apply Sound.joinLead | with_reducible apply Sound.awaitJoin | with_reducible apply Sound.foldl
    | with_reducible apply Sound.foldl2 | fail_if_no_progress with_reducible apply Sound.upd

theorem Sound.releaseProgress {s : State} (h_s : Sound q s) : Sound q (releaseProgress s) := by
  unfold Machine.releaseProgress
  repeat' first
    | with_reducible assumption | with_reducible apply Sound.noteFull | with_reducible apply Sound.journalEpochZero
    | with_reducible apply Sound.closeEpochZero | with_reducible apply Sound.moveStandin
    | with_reducible apply Sound.finishRelease | with_reducible apply Sound.ite

theorem Sound.bootRelease {s : State} (h_s : Sound q s) : Sound q (bootRelease s) := by
  unfold Machine.bootRelease
  repeat' first
    | with_reducible assumption | with_reducible apply Sound.setF | with_reducible apply Sound.releaseProgress
    | with_reducible apply Sound.ite

theorem Sound.joinTile {s : State} {t : Fin 44} (h_s : Sound q s) : Sound q (joinTile s t) := by
  unfold Machine.joinTile
  repeat' first
    | with_reducible assumption | with_reducible apply Sound.setIslandState | with_reducible apply Sound.setClk
    | with_reducible apply Sound.clearTileStore | with_reducible apply Sound.ite

theorem Sound.standinTilesJoin {s : State} (h_s : Sound q s) : Sound q (standinTilesJoin s) := by
  unfold Machine.standinTilesJoin
  repeat' first
    | with_reducible assumption | intro _ | with_reducible apply Sound.setF | with_reducible apply Sound.joinTile
    | with_reducible apply Sound.ite | with_reducible apply Sound.foldl | with_reducible apply Sound.foldl2
    | fail_if_no_progress with_reducible apply Sound.upd

theorem Sound.programFuses {s : State} {bits : List ℕ} (h_s : Sound q s) : Sound q (programFuses s bits) := by
  unfold Machine.programFuses
  repeat' first
    | with_reducible assumption | with_reducible apply Sound.setF | fail_if_no_progress with_reducible apply Sound.upd

theorem Sound.svnCommit {s : State} (h_s : Sound q s) : Sound q (svnCommit s) := by
  unfold Machine.svnCommit
  repeat' first
    | with_reducible assumption | intro _ | with_reducible apply Sound.programFuses | with_reducible apply Sound.ite

theorem Sound.fuseProgram {s : State} {bit : ℕ} (h_s : Sound q s) : Sound q (fuseProgram s bit) := by
  unfold Machine.fuseProgram
  repeat' first
    | with_reducible assumption | with_reducible apply Sound.programFuses | with_reducible apply Sound.ite

theorem Sound.fuseWriteDone {s : State} (h_s : Sound q s) : Sound q (fuseWriteDone s) := by
  unfold Machine.fuseWriteDone
  repeat' first
    | with_reducible assumption | intro _ | with_reducible apply Sound.setReg | with_reducible apply Sound.setF
    | with_reducible apply Sound.foldl | with_reducible apply Sound.foldl2
    | fail_if_no_progress with_reducible apply Sound.upd

/-! ## Xlt -/

theorem Sound.xltRead {s : State} {si : Bool} {pa n : ℕ} (h_s : Sound q s) : Sound q ((xltRead s si pa n).2) := by
  unfold Machine.xltRead
  repeat' first
    | with_reducible assumption | with_reducible apply Sound.islandRead | with_reducible apply Sound.ite | dsimp only
    | split

theorem Sound.xltWrite {s : State} {si : Bool} {pa : ℕ} {bs : List Byte} (h_s : Sound q s) : Sound q (xltWrite s si pa
    bs) := by
  unfold Machine.xltWrite
  repeat' first
    | with_reducible assumption | with_reducible apply Sound.wr | with_reducible apply Sound.islandWrite
    | with_reducible apply Sound.ite

theorem Sound.dialectAt {s : State} {si : Bool} {pa : ℕ} (h_s : Sound q s) : Sound q ((dialectAt s si pa).2) := by
  unfold Machine.dialectAt
  repeat' first
    | with_reducible assumption | with_reducible apply Sound.xltRead | with_reducible apply Sound.ite | dsimp only
    | split | with_reducible refine Sound.of_snd ?_ (by assumption)

theorem Sound.noteXltErr {s : State} {dialect : ℕ} {e : XErr} (h_s : Sound q s) : Sound q (noteXltErr s dialect e) :=
    by
  unfold Machine.noteXltErr
  repeat' first
    | with_reducible assumption | with_reducible apply Sound.setReg

theorem Sound.issueMac {s : State} {lane : Fin 32} {d : Dialect} {what : LaneFor} {deadline an run : ℕ} {m : MacText}
    (h_s : Sound q s) : Sound q (issueMac s lane d what deadline an run m) := by
  unfold Machine.issueMac
  repeat' first
    | with_reducible assumption | intro _ | with_reducible apply Sound.modTxn | with_reducible apply Sound.ite
    | fail_if_no_progress with_reducible apply Sound.upd

theorem Sound.templateHeader {s : State} {d : Dialect} {vals : Vals} (h_s : Sound q s) : Sound q ((templateHeader s d
    vals).2) := by
  unfold Machine.templateHeader
  repeat' first
    | with_reducible assumption | with_reducible apply Sound.openBytes | dsimp only | split

theorem Sound.templated {s : State} {d : Dialect} {tpl : ℕ} {reason : List Byte} {p : Parsed} {mac : Bool} (h_s :
    Sound q s) : Sound q ((templated s d tpl reason p mac).2) := by
  unfold Machine.templated
  repeat' first
    | with_reducible assumption | with_reducible apply Sound.templateHeader

theorem Sound.noteSubst {s : State} {n : ℕ} (h_s : Sound q s) : Sound q (noteSubst s n) := by
  unfold Machine.noteSubst
  repeat' first
    | with_reducible assumption | with_reducible apply Sound.bump

theorem Sound.answerTempl {s : State} {lane : Fin 32} {t : Txn} {e : XErr} {bs : List Byte} (h_s : Sound q s) : Sound
    q (answerTempl s lane t e bs) := by
  unfold Machine.answerTempl
  repeat' first
    | with_reducible assumption | intro _ | with_reducible apply Sound.bump | with_reducible apply Sound.report
    | with_reducible apply Sound.modTxn | with_reducible apply Sound.handTxn
    | with_reducible apply Sound.handWhenReady | with_reducible apply Sound.noteXltErr
    | with_reducible apply Sound.serialised | with_reducible apply Sound.ite
    | fail_if_no_progress with_reducible apply Sound.upd | dsimp only | split

theorem Sound.sendTempl {s : State} {lane : Fin 32} {d : Dialect} {t : Txn} {tpl : ℕ} {e : XErr} {mac : Bool} (h_s :
    Sound q s) : Sound q (sendTempl s lane d t tpl e mac) := by
  unfold Machine.sendTempl
  repeat' first
    | with_reducible assumption | with_reducible apply Sound.issueMac | with_reducible apply Sound.templated
    | with_reducible apply Sound.noteSubst | with_reducible apply Sound.answerTempl | dsimp only | split
    | with_reducible refine Sound.of_snd ?_ (by assumption)

theorem Sound.sendBusy {s : State} {lane : Fin 32} {d : Dialect} {b : BusyRsp} {mac : Bool} (h_s : Sound q s) : Sound
    q (sendBusy s lane d b mac) := by
  unfold Machine.sendBusy
  repeat' first
    | with_reducible assumption | with_reducible apply Sound.handBusy | with_reducible apply Sound.issueMac
    | with_reducible apply Sound.templated | with_reducible apply Sound.noteSubst | dsimp only | split
    | with_reducible refine Sound.of_snd ?_ (by assumption)

theorem Sound.writeRequest {s : State} {t : Txn} {a : RecAreas} {bs : List Byte} (h_s : Sound q s) : Sound q
    (writeRequest s t a bs) := by
  unfold Machine.writeRequest
  repeat' first
    | with_reducible assumption | with_reducible apply Sound.wr | with_reducible apply Sound.xltWrite
    | with_reducible apply Sound.ite

theorem Sound.placeRecords {s : State} {t : Txn} {a : RecAreas} {req rsp : List Byte} (h_s : Sound q s) : Sound q
    (placeRecords s t a req rsp) := by
  unfold Machine.placeRecords
  repeat' first
    | with_reducible assumption | intro _ | with_reducible apply Sound.bump | with_reducible apply Sound.modTxn
    | with_reducible apply Sound.xltWrite | with_reducible apply Sound.writeRequest

theorem Sound.parseError {s : State} {lane : Fin 32} {d : Dialect} {t : Txn} {e : XErr} (h_s : Sound q s) : Sound q
    (parseError s lane d t e) := by
  unfold Machine.parseError
  repeat' first
    | with_reducible assumption | with_reducible apply Sound.sendTempl

theorem Sound.parseTxn {s : State} {lane : Fin 32} {d : Dialect} {t : Txn} (h_s : Sound q s) : Sound q (parseTxn s
    lane d t) := by
  unfold Machine.parseTxn
  repeat' first
    | with_reducible assumption | with_reducible apply Sound.placeRecords | with_reducible apply Sound.parseError
    | with_reducible apply Sound.ite | dsimp only | split

theorem Sound.execXltParse {lane : Fin 32} {s : State} (h_s : Sound q s) : SoundOut q (execXltParse lane s) := by
  unfold Machine.execXltParse
  repeat' first
    | with_reducible assumption | with_reducible apply Sound.releaseProgress | with_reducible apply Sound.dialectAt
    | with_reducible apply Sound.parseTxn | with_reducible apply Sound.ite | with_reducible apply SoundOut.next
    | dsimp only | split | with_reducible refine Sound.of_snd ?_ (by assumption)

theorem Sound.execXltEchoScan {lane : Fin 32} {s : State} (h_s : Sound q s) : SoundOut q (execXltEchoScan lane s) :=
    by
  unfold Machine.execXltEchoScan
  repeat' first
    | with_reducible assumption | with_reducible apply Sound.handBusy | with_reducible apply Sound.releaseProgress
    | with_reducible apply Sound.dialectAt | with_reducible apply Sound.sendBusy | with_reducible apply Sound.ite
    | with_reducible apply SoundOut.next | fail_if_no_progress with_reducible apply Sound.upd | dsimp only | split
    | with_reducible refine Sound.of_snd ?_ (by assumption)

theorem Sound.execTechnicalDecline {lane : Fin 32} {s : State} (h_s : Sound q s) : SoundOut q (execTechnicalDecline
    lane s) := by
  unfold Machine.execTechnicalDecline
  repeat' first
    | with_reducible assumption | with_reducible apply Sound.releaseProgress | with_reducible apply Sound.dialectAt
    | with_reducible apply Sound.sendTempl | with_reducible apply Sound.ite | with_reducible apply SoundOut.next
    | dsimp only | split | with_reducible refine Sound.of_snd ?_ (by assumption)

theorem Sound.serialiseFault {s : State} {lane : Fin 32} {d : Dialect} {t : Txn} {e : XErr} (h_s : Sound q s) : Sound
    q (serialiseFault s lane d t e) := by
  unfold Machine.serialiseFault
  repeat' first
    | with_reducible assumption | with_reducible apply Sound.sendTempl

theorem Sound.serialised {s : State} {an : ℕ} {bs : List Byte} {n : ℕ} (h_s : Sound q s) : Sound q (serialised s an bs
    n) := by
  unfold Machine.serialised
  repeat' first
    | with_reducible assumption | intro _ | with_reducible apply Sound.modTxn
    | with_reducible apply Sound.handWhenReady | with_reducible apply Sound.noteSubst

theorem Sound.serialiseTxn {s : State} {lane : Fin 32} {d : Dialect} {t : Txn} (h_s : Sound q s) : Sound q
    (serialiseTxn s lane d t) := by
  unfold Machine.serialiseTxn
  repeat' first
    | with_reducible assumption | with_reducible apply Sound.xltRead | with_reducible apply Sound.issueMac
    | with_reducible apply Sound.serialiseFault | with_reducible apply Sound.serialised | dsimp only | split
    | with_reducible refine Sound.of_snd ?_ (by assumption)

theorem Sound.execXltSerialise {lane : Fin 32} {s : State} (h_s : Sound q s) : SoundOut q (execXltSerialise lane s) :=
    by
  unfold Machine.execXltSerialise
  repeat' first
    | with_reducible assumption | with_reducible apply Sound.releaseProgress | with_reducible apply Sound.dialectAt
    | with_reducible apply Sound.sendTempl | with_reducible apply Sound.serialiseTxn | with_reducible apply Sound.ite
    | with_reducible apply SoundOut.next | dsimp only | split | with_reducible refine Sound.of_snd ?_ (by assumption)

theorem Sound.macDone {s : State} {w : LaneWork} {mac : List Byte} (h_s : Sound q s) : Sound q (macDone s w mac) := by
  unfold Machine.macDone
  repeat' first
    | with_reducible assumption | with_reducible apply Sound.handBusy | with_reducible apply Sound.noteSubst
    | with_reducible apply Sound.answerTempl | with_reducible apply Sound.serialised
    | with_reducible apply Sound.templated | dsimp only | split

theorem Sound.macFailed {s : State} {w : LaneWork} (h_s : Sound q s) : Sound q (macFailed s w) := by
  unfold Machine.macFailed
  repeat' first
    | with_reducible assumption | with_reducible apply Sound.bump | with_reducible apply Sound.handBusy
    | with_reducible apply Sound.dialectAt | with_reducible apply Sound.answerTempl
    | with_reducible apply Sound.sendTempl | with_reducible apply Sound.sendBusy
    | with_reducible apply Sound.serialiseFault | with_reducible apply Sound.templated | dsimp only | split
    | with_reducible refine Sound.of_snd ?_ (by assumption)

theorem Sound.laneResume {s : State} {w : LaneWork} (h_s : Sound q s) : Sound q (laneResume s w) := by
  unfold Machine.laneResume
  repeat' first
    | with_reducible assumption | intro _ | with_reducible apply Sound.macDone | with_reducible apply Sound.macFailed
    | with_reducible apply Sound.ite | fail_if_no_progress with_reducible apply Sound.upd | dsimp only | split

theorem Sound.settleMacs {s : State} (h_s : Sound q s) : Sound q (settleMacs s) := by
  unfold Machine.settleMacs
  repeat' first
    | with_reducible assumption | intro _ | with_reducible apply Sound.releaseProgress
    | with_reducible apply Sound.laneResume | with_reducible apply Sound.foldl

theorem Sound.dropLaneWork {s : State} {l : Fin 32} (h_s : Sound q s) : Sound q (dropLaneWork s l) := by
  unfold Machine.dropLaneWork
  repeat' first
    | with_reducible assumption | intro _ | fail_if_no_progress with_reducible apply Sound.upd

theorem Sound.execXltEnableWrite {v : Bool} {s : State} (h_s : Sound q s) : SoundOut q (execXltEnableWrite v s) := by
  unfold Machine.execXltEnableWrite
  repeat' first
    | with_reducible assumption | with_reducible apply Sound.setF | with_reducible apply SoundOut.next

end Sys2Proof.Laws
end

