-- ==== Sys2Proof/Laws/KeepsBoot.lean ====
section
/-! SUPPORT. One lemma for each operation of Engines, HostRings, SysCtl, RegEffects, SetupRegs, Windows, Stores, Frame, LoadStore, CryptoOps, Multi, Decimal, under its name: the operation keeps
the queue of commands and the canonical forms of the maps. -/

namespace Sys2Proof.Laws

open Sys2Proof Sys2Proof.Machine

variable {q : List Instr}

/-! ## Engines -/

theorem Sound.settleJobs {s : State} (h_s : Sound q s) : Sound q (settleJobs s) := by
  unfold Machine.settleJobs
  repeat' first
    | with_reducible assumption | with_reducible apply Sound.finishGseal | with_reducible apply Sound.settleMacs

theorem Sound.execCryptoJobStart {k : EngineKind} {e : Fin 48} {s : State} (h_s : Sound q s) : SoundOut q
    (execCryptoJobStart k e s) := by
  unfold Machine.execCryptoJobStart
  repeat' first
    | with_reducible assumption | intro _ | with_reducible apply Sound.modJob | with_reducible apply Sound.startJob
    | with_reducible apply Sound.settleJobs | with_reducible apply Sound.ite | with_reducible apply SoundOut.next
    | fail_if_no_progress with_reducible apply Sound.upd | dsimp only | split

theorem Sound.execCompletionLatch {job : ℕ} {s : State} (h_s : Sound q s) : SoundOut q (execCompletionLatch job s) :=
    by
  unfold Machine.execCompletionLatch
  repeat' first
    | with_reducible assumption | with_reducible apply Sound.finishJob | with_reducible apply Sound.settleJobs
    | with_reducible apply SoundOut.next | dsimp only | split

theorem Sound.execEngineFault {k : EngineKind} {e : Fin 48} {s : State} (h_s : Sound q s) : SoundOut q
    (execEngineFault k e s) := by
  unfold Machine.execEngineFault
  repeat' first
    | with_reducible assumption | with_reducible apply Sound.engineFaulted | with_reducible apply Sound.reissueJob
    | with_reducible apply Sound.settleJobs | with_reducible apply Sound.ite | with_reducible apply SoundOut.next
    | dsimp only | split

theorem Sound.zeroise {s : State} {inputs : ℕ} (h_s : Sound q s) : Sound q (zeroise s inputs) := by
  unfold Machine.zeroise
  repeat' first
    | with_reducible assumption | with_reducible apply Sound.startZeroise | with_reducible apply Sound.settleJobs

theorem Sound.admZeroise {_a : AdminCmd} {s : State} (h_s : Sound q s) : Sound q ((admZeroise _a s).2) := by
  unfold Machine.admZeroise
  repeat' first
    | with_reducible assumption

theorem Sound.execTamperInput {i : Fin 4} {s : State} (h_s : Sound q s) : SoundOut q (execTamperInput i s) := by
  unfold Machine.execTamperInput
  repeat' first
    | with_reducible assumption | with_reducible apply Sound.zeroise | with_reducible apply Sound.ite
    | with_reducible apply SoundOut.next | fail_if_no_progress with_reducible apply Sound.upd

/-! ## HostRings -/

theorem Sound.hostError {s : State} {pa : ℕ} (h_s : Sound q s) : Sound q (hostError s pa) := by
  unfold Machine.hostError
  repeat' first
    | with_reducible assumption | with_reducible apply Sound.bump | with_reducible apply Sound.report

theorem Sound.issueRead {s : State} {r : RingId} (h_s : Sound q s) : Sound q (issueRead s r) := by
  unfold Machine.issueRead
  repeat' first
    | with_reducible assumption | intro _ | with_reducible apply Sound.modRing | with_reducible apply Sound.ite

theorem Sound.execDoorbellSnoop {r : RingId} {s : State} (h_s : Sound q s) : SoundOut q (execDoorbellSnoop r s) := by
  unfold Machine.execDoorbellSnoop
  repeat' first
    | with_reducible assumption | with_reducible apply Sound.issueRead | with_reducible apply Sound.ite
    | with_reducible apply SoundOut.next

theorem Sound.execDoorbellPoll {s : State} (h_s : Sound q s) : SoundOut q (execDoorbellPoll s) := by
  unfold Machine.execDoorbellPoll
  repeat' first
    | with_reducible assumption | intro _ | with_reducible apply Sound.issueRead | with_reducible apply Sound.ite
    | with_reducible apply Sound.foldl | with_reducible apply Sound.foldl2 | with_reducible apply SoundOut.next

theorem Sound.observe {s : State} {r : RingId} {v : ℕ} (h_s : Sound q s) : Sound q (observe s r v) := by
  unfold Machine.observe
  repeat' first
    | with_reducible assumption | intro _ | with_reducible apply Sound.modRing | with_reducible apply Sound.stopRing
    | with_reducible apply Sound.ite

theorem Sound.execDoorbellRead {r : RingId} {s : State} (h_s : Sound q s) : SoundOut q (execDoorbellRead r s) := by
  unfold Machine.execDoorbellRead
  repeat' first
    | with_reducible assumption | intro _ | with_reducible apply Sound.islandRead | with_reducible apply Sound.modRing
    | with_reducible apply Sound.stopRing | with_reducible apply Sound.observe | with_reducible apply Sound.ite
    | with_reducible apply SoundOut.next | fail_if_no_progress with_reducible apply Sound.upd | dsimp only | split
    | with_reducible refine Sound.of_snd ?_ (by assumption)

theorem Sound.fetchDesc {n : Fin 16} {tin : ℕ} {s : State} {i : ℕ} (h_s : Sound q s) : Sound q (fetchDesc n tin s i)
    := by
  unfold Machine.fetchDesc
  repeat' first
    | with_reducible assumption | intro _ | with_reducible apply Sound.islandRead | with_reducible apply Sound.hifRead
    | with_reducible apply Sound.dialectEntry | with_reducible apply Sound.modRing
    | with_reducible apply Sound.stopRing | with_reducible apply Sound.queueCpl | with_reducible apply Sound.ite
    | fail_if_no_progress with_reducible apply Sound.upd | dsimp only | split
    | with_reducible refine Sound.of_snd ?_ (by assumption)

theorem Sound.fetchBatch {n : Fin 16} {s : State} {p : ℕ × ℕ} (h_s : Sound q s) : Sound q (fetchBatch n s p) := by
  unfold Machine.fetchBatch
  repeat' first
    | with_reducible assumption | intro _ | with_reducible apply Sound.fetchDesc | with_reducible apply Sound.foldl

theorem Sound.execSubmissionFetch {n : Fin 16} {s : State} (h_s : Sound q s) : SoundOut q (execSubmissionFetch n s) :=
    by
  unfold Machine.execSubmissionFetch
  repeat' first
    | with_reducible assumption | intro _ | with_reducible apply Sound.modRing | with_reducible apply Sound.fetchBatch
    | with_reducible apply Sound.ite | with_reducible apply Sound.foldl | with_reducible apply Sound.foldl2
    | with_reducible apply SoundOut.next | fail_if_no_progress with_reducible apply Sound.upd | dsimp only | split

theorem Sound.putCpl {s : State} {old : Cpl} {new : List Cpl} (h_s : Sound q s) : Sound q (putCpl s old new) := by
  unfold Machine.putCpl
  repeat' first
    | with_reducible assumption | with_reducible apply Sound.ite | fail_if_no_progress with_reducible apply Sound.upd

theorem Sound.cplPosted {s : State} {c : Cpl} (h_s : Sound q s) : Sound q (cplPosted s c) := by
  unfold Machine.cplPosted
  repeat' first
    | with_reducible assumption | with_reducible apply Sound.bump | with_reducible apply Sound.dropTxn
    | with_reducible apply Sound.descDone | with_reducible apply Sound.delivered | with_reducible apply Sound.ite

theorem Sound.postCplEntry {s : State} {r : RingId} {c : Cpl} {off : ℕ} (h_s : Sound q s) : Sound q (postCplEntry s r
    c off) := by
  unfold Machine.postCplEntry
  repeat' first
    | with_reducible assumption | with_reducible apply Sound.postSlot | with_reducible apply Sound.putCpl
    | with_reducible apply Sound.cplPosted | dsimp only | split
    | with_reducible refine Sound.of_done ?_ (by assumption) | with_reducible refine Sound.of_wait ?_ (by assumption)
    | with_reducible refine Sound.of_stopped ?_ (by assumption)

theorem Sound.postViaGone {s : State} {r : RingId} {c : Cpl} (h_s : Sound q s) : Sound q (postViaGone s r c) := by
  unfold Machine.postViaGone
  repeat' first
    | with_reducible assumption | with_reducible apply Sound.postBytes | with_reducible apply Sound.postCplEntry
    | dsimp only | split | with_reducible refine Sound.of_done ?_ (by assumption)
    | with_reducible refine Sound.of_wait ?_ (by assumption)
    | with_reducible refine Sound.of_stopped ?_ (by assumption)

theorem Sound.postDirect {s : State} {r : RingId} {c : Cpl} (h_s : Sound q s) : Sound q (postDirect s r c) := by
  unfold Machine.postDirect
  repeat' first
    | with_reducible assumption | with_reducible apply Sound.hifWrite | with_reducible apply Sound.hostError
    | with_reducible apply Sound.putCpl | with_reducible apply Sound.postCplEntry
    | with_reducible apply Sound.postViaGone | with_reducible apply Sound.ite
    | fail_if_no_progress with_reducible apply Sound.upd | dsimp only | split
    | with_reducible refine Sound.of_snd ?_ (by assumption)

theorem Sound.postCpl {s : State} {r : RingId} {c : Cpl} (h_s : Sound q s) : Sound q (postCpl s r c) := by
  unfold Machine.postCpl
  repeat' first
    | with_reducible assumption | with_reducible apply Sound.noteWait | with_reducible apply Sound.postCplEntry
    | with_reducible apply Sound.postViaGone | with_reducible apply Sound.postDirect | with_reducible apply Sound.ite

theorem Sound.dropFrames {s : State} (h_s : Sound q s) : Sound q (dropFrames s) := by
  unfold Machine.dropFrames
  repeat' first
    | with_reducible assumption | intro _ | with_reducible apply Sound.bump | with_reducible apply Sound.ite
    | fail_if_no_progress with_reducible apply Sound.upd

theorem Sound.execExcPost {s0 : State} (h_s0 : Sound q s0) : SoundOut q (execExcPost s0) := by
  unfold Machine.execExcPost
  repeat' first
    | with_reducible assumption | with_reducible apply Sound.postBytes | with_reducible apply Sound.dropFrames
    | with_reducible apply Sound.ite | with_reducible apply SoundOut.next
    | fail_if_no_progress with_reducible apply Sound.upd | dsimp only | split
    | with_reducible refine Sound.of_done ?_ (by assumption) | with_reducible refine Sound.of_wait ?_ (by assumption)
    | with_reducible refine Sound.of_stopped ?_ (by assumption)

theorem Sound.execRingEnable {r : RingId} {s : State} (h_s : Sound q s) : SoundOut q (execRingEnable r s) := by
  unfold Machine.execRingEnable
  repeat' first
    | with_reducible assumption | with_reducible apply Sound.setF | with_reducible apply Sound.startRing
    | with_reducible apply Sound.ite | with_reducible apply SoundOut.next

theorem Sound.execRingIrqTimer {r : RingId} {s : State} (h_s : Sound q s) : SoundOut q (execRingIrqTimer r s) := by
  unfold Machine.execRingIrqTimer
  repeat' first
    | with_reducible assumption | with_reducible apply Sound.signalRing | with_reducible apply Sound.ite
    | with_reducible apply SoundOut.next

theorem Sound.countWaits {s : State} {r : RingId} (h_s : Sound q s) : Sound q (countWaits s r) := by
  unfold Machine.countWaits
  repeat' first
    | with_reducible assumption | intro _ | with_reducible apply Sound.bump | with_reducible apply Sound.setF
    | with_reducible apply Sound.modRing

theorem Sound.execDrainTimeout {r : RingId} {s : State} (h_s : Sound q s) : SoundOut q (execDrainTimeout r s) := by
  unfold Machine.execDrainTimeout
  repeat' first
    | with_reducible assumption | with_reducible apply Sound.countWaits | with_reducible apply Sound.ite
    | with_reducible apply SoundOut.next

theorem Sound.execHostAccessTimeout {r : Option RingId} {f : HostFail} {s : State} (h_s : Sound q s) : SoundOut q
    (execHostAccessTimeout r f s) := by
  unfold Machine.execHostAccessTimeout
  repeat' first
    | with_reducible assumption | with_reducible apply Sound.stopRing | with_reducible apply Sound.hostError
    | with_reducible apply Sound.ite | with_reducible apply SoundOut.next
    | fail_if_no_progress with_reducible apply Sound.upd | dsimp only | split

theorem Sound.execPcieLinkUp {cxl : Bool} {speed width : ℕ} {s : State} (h_s : Sound q s) : SoundOut q (execPcieLinkUp
    cxl speed width s) := by
  unfold Machine.execPcieLinkUp
  repeat' first
    | with_reducible assumption | with_reducible apply Sound.setF | with_reducible apply Sound.ite
    | with_reducible apply SoundOut.next

theorem Sound.linkDownHost {s : State} (h_s : Sound q s) : Sound q (linkDownHost s) := by
  unfold Machine.linkDownHost
  repeat' first
    | with_reducible assumption | with_reducible apply Sound.setReg

theorem Sound.execPcieLinkDown {s : State} (h_s : Sound q s) : SoundOut q (execPcieLinkDown s) := by
  unfold Machine.execPcieLinkDown
  repeat' first
    | with_reducible assumption | with_reducible apply Sound.linkDownHost | with_reducible apply SoundOut.next

theorem Sound.execPciePerst {s : State} (h_s : Sound q s) : SoundOut q (execPciePerst s) := by
  unfold Machine.execPciePerst
  repeat' first
    | with_reducible assumption | with_reducible apply Sound.linkDownHost | with_reducible apply SoundOut.next

/-! ## SysCtl -/

theorem Sound.stepStandin {s : State} {delta : Word} (h_s : Sound q s) : Sound q (stepStandin s delta) := by
  unfold Machine.stepStandin
  repeat' first
    | with_reducible assumption | intro _ | with_reducible apply Sound.setReg | with_reducible apply Sound.logPut
    | with_reducible apply Sound.foldl

theorem Sound.ppsRise {s : State} (h_s : Sound q s) : Sound q (ppsRise s) := by
  unfold Machine.ppsRise
  repeat' first
    | with_reducible assumption | fail_if_no_progress with_reducible apply Sound.upd

theorem Sound.timeStep {s : State} {delta : Word} (h_s : Sound q s) : Sound q (timeStep s delta) := by
  unfold Machine.timeStep
  repeat' first
    | with_reducible assumption | with_reducible apply Sound.evt | with_reducible apply Sound.setF
    | with_reducible apply Sound.stepStandin | with_reducible apply Sound.ppsRise | with_reducible apply Sound.ite
    | fail_if_no_progress with_reducible apply Sound.upd

theorem Sound.nextNs {s : State} (h_s : Sound q s) : Sound q (nextNs s) := by
  unfold Machine.nextNs
  repeat' first
    | with_reducible assumption | fail_if_no_progress with_reducible apply Sound.upd

theorem Sound.putChallenge {s : State} {bs : List Byte} (h_s : Sound q s) : Sound q (putChallenge s bs) := by
  unfold Machine.putChallenge
  repeat' first
    | with_reducible assumption | intro _ | with_reducible apply Sound.setReg | with_reducible apply Sound.foldl

theorem Sound.debugNew {s : State} (h_s : Sound q s) : Sound q (debugNew s) := by
  unfold Machine.debugNew
  repeat' first
    | with_reducible assumption | with_reducible apply Sound.random | with_reducible apply Sound.putChallenge
    | fail_if_no_progress with_reducible apply Sound.upd

theorem Sound.debugCheck {s : State} {addr k : ℕ} (h_s : Sound q s) : Sound q (debugCheck s addr k) := by
  unfold Machine.debugCheck
  repeat' first
    | with_reducible assumption | with_reducible apply Sound.setF | with_reducible apply Sound.islandRead
    | with_reducible apply Sound.zeroise | with_reducible apply Sound.putChallenge | with_reducible apply Sound.ite
    | fail_if_no_progress with_reducible apply Sound.upd

theorem Sound.debugEnable {s : State} (h_s : Sound q s) : Sound q (debugEnable s) := by
  unfold Machine.debugEnable
  repeat' first
    | with_reducible assumption | with_reducible apply Sound.evt | with_reducible apply Sound.setF
    | with_reducible apply Sound.ite | fail_if_no_progress with_reducible apply Sound.upd

theorem Sound.badAccess {s : State} {reason : ℕ} {write : Bool} {off size : ℕ} (h_s : Sound q s) : Sound q (badAccess
    s reason write off size) := by
  unfold Machine.badAccess
  repeat' first
    | with_reducible assumption | with_reducible apply Sound.setReg | with_reducible apply Sound.setF
    | with_reducible apply Sound.ite

/-! ## RegEffects -/

theorem Sound.dbgEffect {v : ℕ} {before s : State} (h_before : Sound q before) (h_s : Sound q s) : Sound q (dbgEffect
    v before s) := by
  unfold Machine.dbgEffect
  repeat' first
    | with_reducible assumption | with_reducible apply Sound.debugNew | with_reducible apply Sound.debugCheck
    | with_reducible apply Sound.ite

theorem Sound.bootCtrlEffect {v : ℕ} {s : State} (h_s : Sound q s) : Sound q (bootCtrlEffect v s) := by
  unfold Machine.bootCtrlEffect
  repeat' first
    | with_reducible assumption | with_reducible apply Sound.bootLoad | with_reducible apply Sound.bootRelease
    | with_reducible apply Sound.svnCommit | with_reducible apply Sound.ite

theorem Sound.bootResetEffect {v : ℕ} {s : State} (h_s : Sound q s) : Sound q (bootResetEffect v s) := by
  unfold Machine.bootResetEffect
  repeat' first
    | with_reducible assumption | with_reducible apply Sound.warmResetTo | with_reducible apply Sound.coldResetTo
    | with_reducible apply Sound.ite | dsimp only | split

theorem Sound.ringCfgEffect {r : RingId} {before s : State} (h_before : Sound q before) (h_s : Sound q s) : Sound q
    (ringCfgEffect r before s) := by
  unfold Machine.ringCfgEffect
  repeat' first
    | with_reducible assumption | with_reducible apply Sound.startRing | with_reducible apply Sound.endRing
    | with_reducible apply Sound.ite

theorem Sound.elementEffect {i : Option (Fin 44)} {r : Option (Fin 40)} {k : Option (Fin 64)} {v : ℕ} {before s :
    State} (h_before : Sound q before) (h_s : Sound q s) : Sound q (elementEffect i r k v before s) := by
  unfold Machine.elementEffect
  repeat' first
    | with_reducible assumption | intro _ | with_reducible apply Sound.islandAction
    | with_reducible apply Sound.ringCfgEffect | with_reducible apply Sound.ite
    | fail_if_no_progress with_reducible apply Sound.upd | dsimp only | split

theorem Sound.arrayEffect {off v : ℕ} {before s : State} (h_before : Sound q before) (h_s : Sound q s) : Sound q
    (arrayEffect off v before s) := by
  unfold Machine.arrayEffect
  repeat' first
    | with_reducible assumption | with_reducible apply Sound.elementEffect

theorem Sound.regEffect {off v : ℕ} {before s : State} (h_before : Sound q before) (h_s : Sound q s) : Sound q
    (regEffect off v before s) := by
  unfold Machine.regEffect
  repeat' first
    | with_reducible assumption | with_reducible apply Sound.msix | with_reducible apply Sound.requestActivation
    | with_reducible apply Sound.skeyWrite | with_reducible apply Sound.noteFull
    | with_reducible apply Sound.regroupPorts | with_reducible apply Sound.avsWrite
    | with_reducible apply Sound.noteTimeSource | with_reducible apply Sound.fuseProgram
    | with_reducible apply Sound.timeStep | with_reducible apply Sound.dbgEffect
    | with_reducible apply Sound.bootCtrlEffect | with_reducible apply Sound.bootResetEffect
    | with_reducible apply Sound.arrayEffect | with_reducible apply Sound.ite

/-! ## SetupRegs -/

theorem Sound.regStore {s : State} {off w m : ℕ} (h_s : Sound q s) : Sound q (regStore s off w m) := by
  unfold Machine.regStore
  repeat' first
    | with_reducible assumption | intro _ | with_reducible apply Sound.setReg | with_reducible apply Sound.regEffect
    | with_reducible apply Sound.ite | dsimp only | split

theorem Sound.regWrite {s : State} {off size w : ℕ} (h_s : Sound q s) : Sound q (regWrite s off size w) := by
  unfold Machine.regWrite
  repeat' first
    | with_reducible assumption | with_reducible apply Sound.regStore | with_reducible apply Sound.ite | dsimp only
    | split

theorem Sound.regRead {s : State} {who : Requester} {off size : ℕ} (h_s : Sound q s) : Sound q ((regRead s who off
    size).2) := by
  unfold Machine.regRead
  repeat' first
    | with_reducible assumption | intro _ | with_reducible apply Sound.ite
    | fail_if_no_progress with_reducible apply Sound.upd | dsimp only | split

/-! ## Windows -/

theorem Sound.logTrapMchk {s : State} {c : CoreId} {b : BankId} {addr : Word} (h_s : Sound q s) : Sound q (logTrapMchk
    s c b addr) := by
  unfold Machine.logTrapMchk
  repeat' first
    | with_reducible assumption | with_reducible apply Sound.report

theorem Sound.trapMchk {s : State} {c : CoreId} {b : BankId} {addr : Word} (h_s : Sound q s) : Sound q (trapMchk s c b
    addr) := by
  unfold Machine.trapMchk
  repeat' first
    | with_reducible assumption | with_reducible apply Sound.takeTrap | with_reducible apply Sound.logTrapMchk

theorem Sound.windowRequest {s : State} {o : Origin} {w : ℕ} {what : KWhat} {type : ℕ} {body : List Byte} (h_s : Sound
    q s) : Sound q ((windowRequest s o w what type body).2) := by
  unfold Machine.windowRequest
  repeat' first
    | with_reducible assumption | intro _ | with_reducible apply Sound.kolRequest

theorem Sound.windowLoad {s : State} {c : CoreId} {b : BankId} {va w a size : ℕ} {d : Reg} {sx fp : Bool} {via : Via}
    (h_s : Sound q s) : Sound q (windowLoad s c b va w a size d sx fp via) := by
  unfold Machine.windowLoad
  repeat' first
    | with_reducible assumption | intro _ | with_reducible apply Sound.modCore | with_reducible apply Sound.trapMchk
    | with_reducible apply Sound.windowRequest | with_reducible apply Sound.ite

theorem Sound.windowBytes {s : State} {c : CoreId} {b : BankId} {n : WinNeed} (h_s : Sound q s) : Sound q (windowBytes
    s c b n) := by
  unfold Machine.windowBytes
  repeat' first
    | with_reducible assumption | intro _ | with_reducible apply Sound.modCore | with_reducible apply Sound.trapMchk
    | with_reducible apply Sound.windowRequest | with_reducible apply Sound.ite
    | fail_if_no_progress with_reducible apply Sound.upd | dsimp only | split

theorem Sound.notePostedSt {s : State} {c : CoreId} {p : PostedSt} (h_s : Sound q s) : Sound q (notePostedSt s c p) :=
    by
  unfold Machine.notePostedSt
  repeat' first
    | with_reducible assumption | intro _ | with_reducible apply Sound.modCore

theorem Sound.windowStore {s : State} {c : CoreId} {o : Origin} {via : Via} {va w a size v : ℕ} (h_s : Sound q s) :
    Sound q (windowStore s c o via va w a size v) := by
  unfold Machine.windowStore
  repeat' first
    | with_reducible assumption | with_reducible apply Sound.windowRequest | with_reducible apply Sound.notePostedSt
    | with_reducible apply Sound.ite

/-! ## Stores -/

theorem wf_writeCells {m : List Host.Cell} (h : Memory.wf m) (l : List Host.Cell) : Memory.wf (writeCells m l) := by
  induction l generalizing m with
  | nil => exact h
  | cons p t ih => exact ih (wf_memSet h p.1 p.2)

theorem Sound.cells {q : List Instr} {s : State} (h : Sound q s) (l : List Host.Cell) :
    Sound q { s with mem := writeCells s.mem l } := Sound.setMem h _ (wf_writeCells h.2.1 l)

theorem Sound.deviceStore {s : State} {c : CoreId} {e : SqEntry} (h_s : Sound q s) : Sound q (deviceStore s c e) := by
  unfold Machine.deviceStore
  repeat' first
    | with_reducible assumption | intro _ | with_reducible apply Sound.regWrite
    | with_reducible apply Sound.notePostedSt | with_reducible apply Sound.windowStore
    | with_reducible apply Sound.cells | fail_if_no_progress with_reducible apply Sound.upd | dsimp only | split

theorem Sound.drainHead {s : State} {c : CoreId} (h_s : Sound q s) : Sound q (drainHead s c) := by
  unfold Machine.drainHead
  repeat' first
    | with_reducible assumption | intro _ | with_reducible apply Sound.modCore | with_reducible apply Sound.l1Data
    | with_reducible apply Sound.deviceStore | with_reducible apply Sound.ite | with_reducible apply Sound.cells
    | fail_if_no_progress with_reducible apply Sound.upd | dsimp only | split

theorem Sound.drainN {s : State} {c : CoreId} {x2 : ℕ} (h_s : Sound q s) : Sound q (drainN s c x2) := by
  unfold Machine.drainN
  repeat' first
    | with_reducible assumption | with_reducible apply Sound.drainN | with_reducible apply Sound.drainHead
    | dsimp only | split

theorem Sound.drainAll {s : State} {c : CoreId} (h_s : Sound q s) : Sound q (drainAll s c) := by
  unfold Machine.drainAll
  repeat' first
    | with_reducible assumption | with_reducible apply Sound.drainN

theorem Sound.settleRun {s : State} {t : Txn} (h_s : Sound q s) : Sound q (settleRun s t) := by
  unfold Machine.settleRun
  repeat' first
    | with_reducible assumption | with_reducible apply Sound.drainAll | dsimp only | split

theorem Sound.pushStore {s : State} {c : CoreId} {e : SqEntry} (h_s : Sound q s) : Sound q (pushStore s c e) := by
  unfold Machine.pushStore
  repeat' first
    | with_reducible assumption | intro _ | with_reducible apply Sound.modCore | with_reducible apply Sound.drainHead
    | with_reducible apply Sound.ite

theorem Sound.storePhys {s : State} {c : CoreId} {b : BankId} {x3 : Phys} {bs : List Byte} (h_s : Sound q s) : Sound q
    (storePhys s c b x3 bs) := by
  unfold Machine.storePhys
  repeat' first
    | with_reducible assumption | intro _ | with_reducible apply Sound.pushStore | with_reducible apply Sound.foldl

theorem Sound.storeParts {s : State} {c : CoreId} {b : BankId} {x3 : List (Phys × ℕ)} {x4 : List Byte} (h_s : Sound q
    s) : Sound q (storeParts s c b x3 x4) := by
  unfold Machine.storeParts
  repeat' first
    | with_reducible assumption | with_reducible apply Sound.storeParts | with_reducible apply Sound.appendAdvance
    | with_reducible apply Sound.markUse | with_reducible apply Sound.storePhys | dsimp only | split

theorem Sound.settleLoad {s : State} {c : CoreId} {pa n : ℕ} (h_s : Sound q s) : Sound q (settleLoad s c pa n) := by
  unfold Machine.settleLoad
  repeat' first
    | with_reducible assumption | intro _ | with_reducible apply Sound.drainN | with_reducible apply Sound.ite
    | dsimp only | split

theorem Sound.loadNormal {s : State} {c : CoreId} {pa n : ℕ} (h_s : Sound q s) : Sound q ((loadNormal s c pa n).2) :=
    by
  unfold Machine.loadNormal
  repeat' first
    | with_reducible assumption | with_reducible apply Sound.l1Data | with_reducible apply Sound.settleLoad

theorem Sound.readPart {s : State} {c : CoreId} {p : Phys} {n : ℕ} (h_s : Sound q s) : Sound q ((readPart s c p n).2)
    := by
  unfold Machine.readPart
  repeat' first
    | with_reducible assumption | intro _ | with_reducible apply Sound.modCore | with_reducible apply Sound.regRead
    | with_reducible apply Sound.drainAll | with_reducible apply Sound.loadNormal | with_reducible apply Sound.ite
    | fail_if_no_progress with_reducible apply Sound.upd | dsimp only | split

theorem Sound.readParts {s : State} {c : CoreId} {x2 : List (Phys × ℕ)} (h_s : Sound q s) : Sound q ((readParts s c
    x2).2) := by
  unfold Machine.readParts
  repeat' first
    | with_reducible assumption | with_reducible apply Sound.readParts | with_reducible apply Sound.markUse
    | with_reducible apply Sound.readPart | dsimp only | split

theorem Sound.putLoaded {s : State} {c : CoreId} {b : BankId} {d : Reg} {sx fp : Bool} {size v : ℕ} (h_s : Sound q s)
    : Sound q (putLoaded s c b d sx fp size v) := by
  unfold Machine.putLoaded
  repeat' first
    | with_reducible assumption | with_reducible apply Sound.setG | with_reducible apply Sound.setFr
    | with_reducible apply Sound.ite

theorem Sound.loadBody {c : CoreId} {size : ℕ} {sx fp : Bool} {d a : Reg} {imm : BitVec 16} {b : BankId} {s : State}
    (h_s : Sound q s) : SoundI q (loadBody c size sx fp d a imm b s) := by
  unfold Machine.loadBody
  repeat' first
    | with_reducible assumption | with_reducible apply Sound.markUse | with_reducible apply Sound.regRead
    | with_reducible apply Sound.windowLoad | with_reducible apply Sound.drainAll
    | with_reducible apply Sound.loadNormal | with_reducible apply Sound.putLoaded | with_reducible apply Sound.ite
    | with_reducible apply SoundI.ite | with_reducible apply SoundI.done | with_reducible apply SoundI.trap
    | with_reducible apply SoundI.hold | dsimp only | split

theorem Sound.storeBody {c : CoreId} {size : ℕ} {v : Word} {a : Reg} {imm : BitVec 16} {b : BankId} {s : State} (h_s :
    Sound q s) : SoundI q (storeBody c size v a imm b s) := by
  unfold Machine.storeBody
  repeat' first
    | with_reducible assumption | with_reducible apply Sound.storeParts | with_reducible apply Sound.ite
    | with_reducible apply SoundI.ite | with_reducible apply SoundI.done | with_reducible apply SoundI.trap
    | dsimp only | split

/-! ## Frame -/

theorem Sound.advancePc {s : State} {c : CoreId} {b : BankId} {len : ℕ} (h_s : Sound q s) : Sound q (advancePc s c b
    len) := by
  unfold Machine.advancePc
  repeat' first
    | with_reducible assumption | intro _ | with_reducible apply Sound.modCore

theorem Sound.jumpPc {s : State} {c : CoreId} {b : BankId} {pc : Word} (h_s : Sound q s) : Sound q (jumpPc s c b pc)
    := by
  unfold Machine.jumpPc
  repeat' first
    | with_reducible assumption | intro _ | with_reducible apply Sound.modCore

theorem Sound.settleCode {s : State} {c : CoreId} (h_s : Sound q s) : Sound q (settleCode s c) := by
  unfold Machine.settleCode
  repeat' first
    | with_reducible assumption | intro _ | with_reducible apply Sound.modCore | with_reducible apply Sound.drainAll
    | with_reducible apply Sound.ite

theorem Sound.dropWin {s : State} {c : CoreId} (h_s : Sound q s) : Sound q (dropWin s c) := by
  unfold Machine.dropWin
  repeat' first
    | with_reducible assumption | intro _ | with_reducible apply Sound.modCore | with_reducible apply Sound.ite

theorem Sound.finishInstr {c : CoreId} {b : BankId} {len : ℕ} {pc : Word} {x4 : IRes} (h_x4 : SoundI q x4) : Sound q
    (finishInstr c b len pc x4) := by
  unfold Machine.finishInstr
  repeat' first
    | with_reducible assumption | with_reducible apply Sound.takeTrap | with_reducible apply Sound.advancePc
    | with_reducible apply Sound.jumpPc | with_reducible apply Sound.settleCode | with_reducible apply Sound.dropWin
    | with_reducible apply Sound.ite | with_reducible exact SoundI.doneI h_x4 | with_reducible exact SoundI.jumpI h_x4
    | with_reducible exact SoundI.trapI h_x4 | with_reducible exact SoundI.holdI h_x4
    | with_reducible exact SoundI.ownI h_x4 | dsimp only | split

theorem Sound.clearPart {s : State} {c : CoreId} {b : BankId} (h_s : Sound q s) : Sound q (clearPart s c b) := by
  unfold Machine.clearPart
  repeat' first
    | with_reducible assumption | intro _ | with_reducible apply Sound.modBank | with_reducible apply Sound.ite

theorem Sound.state {x0 : IRes} (h_x0 : SoundI q x0) : Sound q (IRes.state x0) := by
  unfold Machine.IRes.state
  repeat' first
    | with_reducible assumption | with_reducible exact SoundI.doneI h_x0 | with_reducible exact SoundI.jumpI h_x0
    | with_reducible exact SoundI.trapI h_x0 | with_reducible exact SoundI.holdI h_x0
    | with_reducible exact SoundI.ownI h_x0 | dsimp only | split

theorem Sound.settleInstr {c : CoreId} {b : BankId} {len : ℕ} {pc : Word} {before : State} {r : IRes} (h_before :
    Sound q before) (h_r : SoundI q r) : Sound q (settleInstr c b len pc before r) := by
  unfold Machine.settleInstr
  repeat' first
    | with_reducible assumption | with_reducible apply Sound.windowBytes | with_reducible apply Sound.finishInstr
    | with_reducible apply Sound.state | with_reducible exact SoundI.doneI h_r | with_reducible exact SoundI.jumpI h_r
    | with_reducible exact SoundI.trapI h_r | with_reducible exact SoundI.holdI h_r
    | with_reducible exact SoundI.ownI h_r | dsimp only | split

theorem Sound.runInstr {c : CoreId} {len : ℕ} {legal : BankId → Bool} {priv intr : Bool} {body : BankId → State →
    IRes} {s : State} (h_body : ∀ y0 y1, Sound q y1 → SoundI q (body y0 y1)) (h_s : Sound q s) : Sound q (runInstr c
    len legal priv intr body s) := by
  unfold Machine.runInstr
  repeat' first
    | with_reducible assumption | with_reducible apply Sound.markParts | with_reducible apply Sound.takeTrap
    | with_reducible apply Sound.clearPart | with_reducible apply Sound.settleInstr | with_reducible apply h_body
    | with_reducible apply Sound.ite | dsimp only | split

theorem Sound.baseInstr {c : CoreId} {body : BankId → State → IRes} {s : State} (h_body : ∀ y0 y1, Sound q y1 → SoundI
    q (body y0 y1)) (h_s : Sound q s) : Sound q (baseInstr c body s) := by
  unfold Machine.baseInstr
  repeat' first
    | with_reducible assumption | intro _ | with_reducible apply Sound.runInstr

/-! ## LoadStore -/

theorem Sound.lazyF {s : State} {c : CoreId} {b : BankId} (h_s : Sound q s) : Sound q (lazyF s c b) := by
  unfold Machine.lazyF
  repeat' first
    | with_reducible assumption | intro _ | with_reducible apply Sound.modCore | with_reducible apply Sound.l1Access
    | with_reducible apply Sound.hwWrite | with_reducible apply Sound.ite
    | fail_if_no_progress with_reducible apply Sound.upd | dsimp only | split

theorem Sound.lazyD {s : State} {c : CoreId} {b : BankId} (h_s : Sound q s) : Sound q (lazyD s c b) := by
  unfold Machine.lazyD
  repeat' first
    | with_reducible assumption | intro _ | with_reducible apply Sound.modCore | with_reducible apply Sound.l1Access
    | with_reducible apply Sound.hwWrite | with_reducible apply Sound.ite
    | fail_if_no_progress with_reducible apply Sound.upd | dsimp only | split

theorem Sound.loadOp {c : CoreId} {size : ℕ} {sx : Bool} {d a : Reg} {imm : BitVec 16} {s : State} (h_s : Sound q s) :
    Sound q (loadOp c size sx d a imm s) := by
  unfold Machine.loadOp
  repeat' first
    | with_reducible assumption | intro _ | with_reducible apply Sound.loadBody | with_reducible apply Sound.baseInstr

theorem Sound.storeOp {c : CoreId} {size : ℕ} {d a : Reg} {imm : BitVec 16} {s : State} (h_s : Sound q s) : Sound q
    (storeOp c size d a imm s) := by
  unfold Machine.storeOp
  repeat' first
    | with_reducible assumption | intro _ | with_reducible apply Sound.storeBody
    | with_reducible apply Sound.baseInstr

theorem Sound.execLdb {c : CoreId} {d a : Reg} {imm : BitVec 16} {s : State} (h_s : Sound q s) : SoundOut q (execLdb c
    d a imm s) := by
  unfold Machine.execLdb
  repeat' first
    | with_reducible assumption | intro _ | with_reducible apply Sound.loadOp | with_reducible apply Sound.loadBody
    | with_reducible apply Sound.storeBody | with_reducible apply Sound.baseInstr | with_reducible apply Sound.lazyF
    | with_reducible apply Sound.storeOp | with_reducible apply Sound.execLdh | with_reducible apply Sound.execLdw
    | with_reducible apply Sound.execLdd | with_reducible apply Sound.execLdbs | with_reducible apply Sound.execLdhs
    | with_reducible apply Sound.execLdws | with_reducible apply Sound.execStb | with_reducible apply Sound.execSth
    | with_reducible apply Sound.execStw | with_reducible apply Sound.execStd | with_reducible apply Sound.execFldd
    | with_reducible apply Sound.execFlds | with_reducible apply Sound.execFstd | with_reducible apply Sound.execFsts
    | with_reducible apply SoundOut.next

theorem Sound.execLdh {c : CoreId} {d a : Reg} {imm : BitVec 16} {s : State} (h_s : Sound q s) : SoundOut q (execLdh c
    d a imm s) := by
  unfold Machine.execLdh
  repeat' first
    | with_reducible assumption | intro _ | with_reducible apply Sound.loadOp | with_reducible apply Sound.loadBody
    | with_reducible apply Sound.storeBody | with_reducible apply Sound.baseInstr | with_reducible apply Sound.lazyF
    | with_reducible apply Sound.storeOp | with_reducible apply Sound.execLdw | with_reducible apply Sound.execLdd
    | with_reducible apply Sound.execLdbs | with_reducible apply Sound.execLdhs | with_reducible apply Sound.execLdws
    | with_reducible apply Sound.execStb | with_reducible apply Sound.execSth | with_reducible apply Sound.execStw
    | with_reducible apply Sound.execStd | with_reducible apply Sound.execFldd | with_reducible apply Sound.execFlds
    | with_reducible apply Sound.execFstd | with_reducible apply Sound.execFsts | with_reducible apply SoundOut.next

theorem Sound.execLdw {c : CoreId} {d a : Reg} {imm : BitVec 16} {s : State} (h_s : Sound q s) : SoundOut q (execLdw c
    d a imm s) := by
  unfold Machine.execLdw
  repeat' first
    | with_reducible assumption | intro _ | with_reducible apply Sound.loadOp | with_reducible apply Sound.loadBody
    | with_reducible apply Sound.storeBody | with_reducible apply Sound.baseInstr | with_reducible apply Sound.lazyF
    | with_reducible apply Sound.storeOp | with_reducible apply Sound.execLdd | with_reducible apply Sound.execLdbs
    | with_reducible apply Sound.execLdhs | with_reducible apply Sound.execLdws | with_reducible apply Sound.execStb
    | with_reducible apply Sound.execSth | with_reducible apply Sound.execStw | with_reducible apply Sound.execStd
    | with_reducible apply Sound.execFldd | with_reducible apply Sound.execFlds | with_reducible apply Sound.execFstd
    | with_reducible apply Sound.execFsts | with_reducible apply SoundOut.next

theorem Sound.execLdd {c : CoreId} {d a : Reg} {imm : BitVec 16} {s : State} (h_s : Sound q s) : SoundOut q (execLdd c
    d a imm s) := by
  unfold Machine.execLdd
  repeat' first
    | with_reducible assumption | intro _ | with_reducible apply Sound.loadOp | with_reducible apply Sound.loadBody
    | with_reducible apply Sound.storeBody | with_reducible apply Sound.baseInstr | with_reducible apply Sound.lazyF
    | with_reducible apply Sound.storeOp | with_reducible apply Sound.execLdbs | with_reducible apply Sound.execLdhs
    | with_reducible apply Sound.execLdws | with_reducible apply Sound.execStb | with_reducible apply Sound.execSth
    | with_reducible apply Sound.execStw | with_reducible apply Sound.execStd | with_reducible apply Sound.execFldd
    | with_reducible apply Sound.execFlds | with_reducible apply Sound.execFstd | with_reducible apply Sound.execFsts
    | with_reducible apply SoundOut.next

theorem Sound.execLdbs {c : CoreId} {d a : Reg} {imm : BitVec 16} {s : State} (h_s : Sound q s) : SoundOut q (execLdbs
    c d a imm s) := by
  unfold Machine.execLdbs
  repeat' first
    | with_reducible assumption | intro _ | with_reducible apply Sound.loadOp | with_reducible apply Sound.loadBody
    | with_reducible apply Sound.storeBody | with_reducible apply Sound.baseInstr | with_reducible apply Sound.lazyF
    | with_reducible apply Sound.storeOp | with_reducible apply Sound.execLdhs | with_reducible apply Sound.execLdws
    | with_reducible apply Sound.execStb | with_reducible apply Sound.execSth | with_reducible apply Sound.execStw
    | with_reducible apply Sound.execStd | with_reducible apply Sound.execFldd | with_reducible apply Sound.execFlds
    | with_reducible apply Sound.execFstd | with_reducible apply Sound.execFsts | with_reducible apply SoundOut.next

theorem Sound.execLdhs {c : CoreId} {d a : Reg} {imm : BitVec 16} {s : State} (h_s : Sound q s) : SoundOut q (execLdhs
    c d a imm s) := by
  unfold Machine.execLdhs
  repeat' first
    | with_reducible assumption | intro _ | with_reducible apply Sound.loadOp | with_reducible apply Sound.loadBody
    | with_reducible apply Sound.storeBody | with_reducible apply Sound.baseInstr | with_reducible apply Sound.lazyF
    | with_reducible apply Sound.storeOp | with_reducible apply Sound.execLdws | with_reducible apply Sound.execStb
    | with_reducible apply Sound.execSth | with_reducible apply Sound.execStw | with_reducible apply Sound.execStd
    | with_reducible apply Sound.execFldd | with_reducible apply Sound.execFlds | with_reducible apply Sound.execFstd
    | with_reducible apply Sound.execFsts | with_reducible apply SoundOut.next

theorem Sound.execLdws {c : CoreId} {d a : Reg} {imm : BitVec 16} {s : State} (h_s : Sound q s) : SoundOut q (execLdws
    c d a imm s) := by
  unfold Machine.execLdws
  repeat' first
    | with_reducible assumption | intro _ | with_reducible apply Sound.loadOp | with_reducible apply Sound.loadBody
    | with_reducible apply Sound.storeBody | with_reducible apply Sound.baseInstr | with_reducible apply Sound.lazyF
    | with_reducible apply Sound.storeOp | with_reducible apply Sound.execStb | with_reducible apply Sound.execSth
    | with_reducible apply Sound.execStw | with_reducible apply Sound.execStd | with_reducible apply Sound.execFldd
    | with_reducible apply Sound.execFlds | with_reducible apply Sound.execFstd | with_reducible apply Sound.execFsts
    | with_reducible apply SoundOut.next

theorem Sound.execStb {c : CoreId} {d a : Reg} {imm : BitVec 16} {s : State} (h_s : Sound q s) : SoundOut q (execStb c
    d a imm s) := by
  unfold Machine.execStb
  repeat' first
    | with_reducible assumption | intro _ | with_reducible apply Sound.storeOp | with_reducible apply Sound.loadBody
    | with_reducible apply Sound.storeBody | with_reducible apply Sound.baseInstr | with_reducible apply Sound.lazyF
    | with_reducible apply Sound.execSth | with_reducible apply Sound.execStw | with_reducible apply Sound.execStd
    | with_reducible apply Sound.execFldd | with_reducible apply Sound.execFlds | with_reducible apply Sound.execFstd
    | with_reducible apply Sound.execFsts | with_reducible apply SoundOut.next

theorem Sound.execSth {c : CoreId} {d a : Reg} {imm : BitVec 16} {s : State} (h_s : Sound q s) : SoundOut q (execSth c
    d a imm s) := by
  unfold Machine.execSth
  repeat' first
    | with_reducible assumption | intro _ | with_reducible apply Sound.storeOp | with_reducible apply Sound.loadBody
    | with_reducible apply Sound.storeBody | with_reducible apply Sound.baseInstr | with_reducible apply Sound.lazyF
    | with_reducible apply Sound.execStw | with_reducible apply Sound.execStd | with_reducible apply Sound.execFldd
    | with_reducible apply Sound.execFlds | with_reducible apply Sound.execFstd | with_reducible apply Sound.execFsts
    | with_reducible apply SoundOut.next

theorem Sound.execStw {c : CoreId} {d a : Reg} {imm : BitVec 16} {s : State} (h_s : Sound q s) : SoundOut q (execStw c
    d a imm s) := by
  unfold Machine.execStw
  repeat' first
    | with_reducible assumption | intro _ | with_reducible apply Sound.storeOp | with_reducible apply Sound.loadBody
    | with_reducible apply Sound.storeBody | with_reducible apply Sound.baseInstr | with_reducible apply Sound.lazyF
    | with_reducible apply Sound.execStd | with_reducible apply Sound.execFldd | with_reducible apply Sound.execFlds
    | with_reducible apply Sound.execFstd | with_reducible apply Sound.execFsts | with_reducible apply SoundOut.next

theorem Sound.execStd {c : CoreId} {d a : Reg} {imm : BitVec 16} {s : State} (h_s : Sound q s) : SoundOut q (execStd c
    d a imm s) := by
  unfold Machine.execStd
  repeat' first
    | with_reducible assumption | intro _ | with_reducible apply Sound.storeOp | with_reducible apply Sound.loadBody
    | with_reducible apply Sound.storeBody | with_reducible apply Sound.baseInstr | with_reducible apply Sound.lazyF
    | with_reducible apply Sound.execFldd | with_reducible apply Sound.execFlds | with_reducible apply Sound.execFstd
    | with_reducible apply Sound.execFsts | with_reducible apply SoundOut.next

theorem Sound.execFldd {c : CoreId} {d a : Reg} {imm : BitVec 16} {s : State} (h_s : Sound q s) : SoundOut q (execFldd
    c d a imm s) := by
  unfold Machine.execFldd
  repeat' first
    | with_reducible assumption | intro _ | with_reducible apply Sound.loadBody | with_reducible apply Sound.baseInstr
    | with_reducible apply Sound.lazyF | with_reducible apply Sound.storeBody | with_reducible apply Sound.execFlds
    | with_reducible apply Sound.execFstd | with_reducible apply Sound.execFsts | with_reducible apply SoundOut.next

theorem Sound.execFlds {c : CoreId} {d a : Reg} {imm : BitVec 16} {s : State} (h_s : Sound q s) : SoundOut q (execFlds
    c d a imm s) := by
  unfold Machine.execFlds
  repeat' first
    | with_reducible assumption | intro _ | with_reducible apply Sound.loadBody | with_reducible apply Sound.baseInstr
    | with_reducible apply Sound.lazyF | with_reducible apply Sound.storeBody | with_reducible apply Sound.execFstd
    | with_reducible apply Sound.execFsts | with_reducible apply SoundOut.next

theorem Sound.execFstd {c : CoreId} {d a : Reg} {imm : BitVec 16} {s : State} (h_s : Sound q s) : SoundOut q (execFstd
    c d a imm s) := by
  unfold Machine.execFstd
  repeat' first
    | with_reducible assumption | intro _ | with_reducible apply Sound.storeBody
    | with_reducible apply Sound.baseInstr | with_reducible apply Sound.lazyF | with_reducible apply Sound.execFsts
    | with_reducible apply SoundOut.next

theorem Sound.execFsts {c : CoreId} {d a : Reg} {imm : BitVec 16} {s : State} (h_s : Sound q s) : SoundOut q (execFsts
    c d a imm s) := by
  unfold Machine.execFsts
  repeat' first
    | with_reducible assumption | intro _ | with_reducible apply Sound.storeBody
    | with_reducible apply Sound.baseInstr | with_reducible apply Sound.lazyF | with_reducible apply SoundOut.next

theorem Sound.execPref {c : CoreId} {wr : Bool} {a : Reg} {imm : BitVec 16} {s : State} (h_s : Sound q s) : SoundOut q
    (execPref c wr a imm s) := by
  unfold Machine.execPref
  repeat' first
    | with_reducible assumption | intro _ | with_reducible apply Sound.l1Data | with_reducible apply Sound.markUse
    | with_reducible apply Sound.baseInstr | with_reducible apply Sound.wr | with_reducible apply Sound.ite
    | with_reducible apply SoundI.done | with_reducible apply SoundOut.next | dsimp only | split

theorem Sound.modBp {s : State} {c : CoreId} {f : Predictor → Predictor} (h_s : Sound q s) : Sound q (State.modBp s c
    f) := by
  unfold Machine.State.modBp
  repeat' first
    | with_reducible assumption | intro _ | with_reducible apply Sound.modCore

theorem Sound.notTaken {s : State} {c : CoreId} {pc : Word} (h_s : Sound q s) : Sound q (notTaken s c pc) := by
  unfold Machine.notTaken
  repeat' first
    | with_reducible assumption | intro _ | with_reducible apply Sound.modCore | with_reducible apply Sound.modBp
    | with_reducible apply Sound.ite

theorem Sound.execBc {c : CoreId} {mask : BitVec 4} {disp : BitVec 22} {s : State} (h_s : Sound q s) : SoundOut q
    (execBc c mask disp s) := by
  unfold Machine.execBc
  repeat' first
    | with_reducible assumption | intro _ | with_reducible apply Sound.baseInstr | with_reducible apply Sound.modBp
    | with_reducible apply Sound.notTaken | with_reducible apply Sound.ite | with_reducible apply SoundI.done
    | with_reducible apply SoundI.jump | with_reducible apply SoundOut.next | dsimp only | split

theorem Sound.execJal {c : CoreId} {d : Reg} {disp : BitVec 21} {s : State} (h_s : Sound q s) : SoundOut q (execJal c
    d disp s) := by
  unfold Machine.execJal
  repeat' first
    | with_reducible assumption | intro _ | with_reducible apply Sound.setG | with_reducible apply Sound.baseInstr
    | with_reducible apply Sound.modBp | with_reducible apply Sound.ite | with_reducible apply SoundI.jump
    | with_reducible apply SoundOut.next

theorem Sound.execJalr {c : CoreId} {d a : Reg} {imm : BitVec 16} {s : State} (h_s : Sound q s) : SoundOut q (execJalr
    c d a imm s) := by
  unfold Machine.execJalr
  repeat' first
    | with_reducible assumption | intro _ | with_reducible apply Sound.setG | with_reducible apply Sound.baseInstr
    | with_reducible apply Sound.modBp | with_reducible apply Sound.ite | with_reducible apply SoundI.jump
    | with_reducible apply SoundOut.next

/-! ## CryptoOps -/

theorem Sound.blockOn {s : State} {c : CoreId} {b : BankId} {why : Block} (h_s : Sound q s) : Sound q (blockOn s c b
    why) := by
  unfold Machine.blockOn
  repeat' first
    | with_reducible assumption | intro _ | with_reducible apply Sound.modCore
    | with_reducible apply Sound.reportCycles | with_reducible apply Sound.advancePc

theorem Sound.cutOff {s : State} {c : CoreId} {b : BankId} {reason : ℕ} (h_s : Sound q s) : Sound q (cutOff s c b
    reason) := by
  unfold Machine.cutOff
  repeat' first
    | with_reducible assumption | with_reducible apply Sound.endRun | with_reducible apply Sound.quarantine
    | with_reducible apply Sound.ite | dsimp only | split

theorem Sound.issueJob {s : State} {c : CoreId} {b : BankId} {t : Txn} {d : Desc} {desc cost : ℕ} {i x o : List (Phys
    × ℕ)} (h_s : Sound q s) : Sound q (issueJob s c b t d desc cost i x o) := by
  unfold Machine.issueJob
  repeat' first
    | with_reducible assumption | intro _ | with_reducible apply Sound.modTxn | with_reducible apply Sound.markParts
    | with_reducible apply Sound.hwWrite | with_reducible apply Sound.blockOn | with_reducible apply Sound.ite
    | fail_if_no_progress with_reducible apply Sound.upd

theorem Sound.cryptChecked {c : CoreId} {b : BankId} {ga : Word} {ps : List (Phys × ℕ)} {s : State} (h_s : Sound q s)
    : SoundI q (cryptChecked c b ga ps s) := by
  unfold Machine.cryptChecked
  repeat' first
    | with_reducible assumption | with_reducible apply Sound.markParts | with_reducible apply Sound.readParts
    | with_reducible apply Sound.cutOff | with_reducible apply Sound.issueJob | with_reducible apply Sound.ite
    | with_reducible apply SoundI.ite | with_reducible apply SoundI.trap | with_reducible apply SoundI.hold
    | with_reducible apply SoundI.own | fail_if_no_progress with_reducible apply Sound.upd | dsimp only | split

theorem Sound.cryptBody {c : CoreId} {a : Reg} {b : BankId} {s : State} (h_s : Sound q s) : SoundI q (cryptBody c a b
    s) := by
  unfold Machine.cryptBody
  repeat' first
    | with_reducible assumption | with_reducible apply Sound.cryptChecked | with_reducible apply Sound.ite
    | with_reducible apply SoundI.ite | with_reducible apply SoundI.trap | dsimp only | split

theorem Sound.execCrypt {c : CoreId} {a : Reg} {s : State} (h_s : Sound q s) : SoundOut q (execCrypt c a s) := by
  unfold Machine.execCrypt
  repeat' first
    | with_reducible assumption | intro _ | with_reducible apply Sound.baseInstr
    | with_reducible apply Sound.cryptBody | with_reducible apply SoundOut.next

/-! ## Multi -/

theorem Sound.progress {s : State} {c : CoreId} {b : BankId} {k : ℕ} (h_s : Sound q s) : Sound q (State.progress s c b
    k) := by
  unfold Machine.State.progress
  repeat' first
    | with_reducible assumption | intro _ | with_reducible apply Sound.modBank

theorem Sound.noProgress {s : State} {c : CoreId} {b : BankId} (h_s : Sound q s) : Sound q (State.noProgress s c b) :=
    by
  unfold Machine.State.noProgress
  repeat' first
    | with_reducible assumption | intro _ | with_reducible apply Sound.modBank

theorem Sound.store8 {s : State} {c : CoreId} {b : BankId} {p : Phys} {v : Word} (h_s : Sound q s) : Sound q (store8 s
    c b p v) := by
  unfold Machine.store8
  repeat' first
    | with_reducible assumption | with_reducible apply Sound.storePhys

theorem Sound.append8 {s : State} {c : CoreId} {b : BankId} {p : Phys} {v : Word} (h_s : Sound q s) : Sound q (append8
    s c b p v) := by
  unfold Machine.append8
  repeat' first
    | with_reducible assumption | with_reducible apply Sound.appendAdvance | with_reducible apply Sound.store8

theorem Sound.load8 {s : State} {c : CoreId} {p : Phys} (h_s : Sound q s) : Sound q ((load8 s c p).2) := by
  unfold Machine.load8
  repeat' first
    | with_reducible assumption | with_reducible apply Sound.readPart

theorem Sound.multiProgress {s : State} {c : CoreId} {b : BankId} {moved : Bool} {k : ℕ} (h_s : Sound q s) : Sound q
    (State.multiProgress s c b moved k) := by
  unfold Machine.State.multiProgress
  repeat' first
    | with_reducible assumption | intro _ | with_reducible apply Sound.modBank

theorem Sound.multiLoop {c : CoreId} {b : BankId} {a : Reg} {base n p0 : ℕ} {st : Bool} {last : Option ℕ} {x8 : List
    ℕ} {x9 : Bool} {x10 : Option ℕ} {x11 : List (ℕ × Phys)} {x12 : State} (h_x12 : Sound q x12) : SoundI q (multiLoop
    c b a base n p0 st last x8 x9 x10 x11 x12) := by
  unfold Machine.multiLoop
  repeat' first
    | with_reducible assumption | with_reducible apply Sound.multiLoop | with_reducible apply Sound.setG
    | with_reducible apply Sound.markUse | with_reducible apply Sound.noProgress | with_reducible apply Sound.append8
    | with_reducible apply Sound.load8 | with_reducible apply Sound.multiProgress | with_reducible apply Sound.ite
    | with_reducible apply SoundI.ite | with_reducible apply SoundI.done | with_reducible apply SoundI.trap
    | with_reducible apply SoundI.hold | dsimp only | split

theorem Sound.multiBody {c : CoreId} {a bb x : Reg} {st : Bool} {stop : Option ℕ} {b : BankId} {s : State} (h_s :
    Sound q s) : SoundI q (multiBody c a bb x st stop b s) := by
  unfold Machine.multiBody
  repeat' first
    | with_reducible assumption | with_reducible apply Sound.multiLoop | with_reducible apply Sound.ite
    | with_reducible apply SoundI.ite | with_reducible apply SoundI.trap

theorem Sound.execStm {c : CoreId} {a b x : Reg} {stop : Option ℕ} {s : State} (h_s : Sound q s) : SoundOut q (execStm
    c a b x stop s) := by
  unfold Machine.execStm
  repeat' first
    | with_reducible assumption | intro _ | with_reducible apply Sound.runInstr | with_reducible apply Sound.multiBody
    | with_reducible apply SoundOut.next

theorem Sound.execLdm {c : CoreId} {a b x : Reg} {stop : Option ℕ} {s : State} (h_s : Sound q s) : SoundOut q (execLdm
    c a b x stop s) := by
  unfold Machine.execLdm
  repeat' first
    | with_reducible assumption | intro _ | with_reducible apply Sound.runInstr | with_reducible apply Sound.multiBody
    | with_reducible apply SoundOut.next

theorem Sound.svlkPos {c : CoreId} {b : BankId} {mask : ℕ} {ps : List (Phys × ℕ)} {n : ℕ} {s : State} (h_s : Sound q
    s) : Sound q ((svlkPos c b mask ps n s).2) := by
  unfold Machine.svlkPos
  repeat' first
    | with_reducible assumption | with_reducible apply Sound.lazyF | with_reducible apply Sound.append8
    | with_reducible apply Sound.ite | dsimp only | split

theorem Sound.rslkPos {c : CoreId} {b : BankId} {bb m : Reg} {mask : ℕ} {ps : List (Phys × ℕ)} {n : ℕ} {s : State}
    (h_s : Sound q s) : Sound q ((rslkPos c b bb m mask ps n s).2) := by
  unfold Machine.rslkPos
  repeat' first
    | with_reducible assumption | with_reducible apply Sound.setG | with_reducible apply Sound.setFr
    | with_reducible apply Sound.lazyF | with_reducible apply Sound.load8 | with_reducible apply Sound.ite
    | dsimp only | split

theorem Sound.linkLoop {c : CoreId} {b : BankId} {pos : ℕ → State → Bool × State} {last : State → IRes} {x4 : List ℕ}
    {x5 : Option ℕ} {x6 : State} (h_pos : ∀ y0 y1, Sound q y1 → Sound q ((pos y0 y1).2)) (h_last : ∀ y0, Sound q y0 →
    SoundI q (last y0)) (h_x6 : Sound q x6) : SoundI q (linkLoop c b pos last x4 x5 x6) := by
  unfold Machine.linkLoop
  repeat' first
    | with_reducible assumption | intro _ | with_reducible apply Sound.linkLoop | with_reducible apply Sound.progress
    | with_reducible apply h_pos | with_reducible apply h_last | with_reducible apply Sound.ite
    | with_reducible apply SoundI.ite | with_reducible apply SoundI.hold | dsimp only | split

theorem Sound.linkBody {c : CoreId} {bb : Reg} {kind : Kind} {stop : Option ℕ} {pos : List (Phys × ℕ) → ℕ → State →
    Bool × State} {last : List (Phys × ℕ) → State → IRes} {b : BankId} {s : State} (h_pos : ∀ y0 y1 y2, Sound q y2 →
    Sound q ((pos y0 y1 y2).2)) (h_last : ∀ y0 y1, Sound q y1 → SoundI q (last y0 y1)) (h_s : Sound q s) : SoundI q
    (linkBody c bb kind stop pos last b s) := by
  unfold Machine.linkBody
  repeat' first
    | with_reducible assumption | intro _ | with_reducible apply Sound.markParts | with_reducible apply Sound.linkLoop
    | with_reducible apply h_pos | with_reducible apply h_last | with_reducible apply Sound.ite
    | with_reducible apply SoundI.ite | with_reducible apply SoundI.trap | dsimp only | split

theorem Sound.execSvlk {c : CoreId} {bb m : Reg} {imm : BitVec 16} {stop : Option ℕ} {s : State} (h_s : Sound q s) :
    SoundOut q (execSvlk c bb m imm stop s) := by
  unfold Machine.execSvlk
  repeat' first
    | with_reducible assumption | intro _ | with_reducible apply Sound.runInstr
    | with_reducible apply Sound.noProgress | with_reducible apply Sound.append8 | with_reducible apply Sound.svlkPos
    | with_reducible apply Sound.linkBody | with_reducible apply SoundI.jump | with_reducible apply SoundOut.next
    | dsimp only | split

theorem Sound.execRslk {c : CoreId} {bb m : Reg} {stop : Option ℕ} {s : State} (h_s : Sound q s) : SoundOut q
    (execRslk c bb m stop s) := by
  unfold Machine.execRslk
  repeat' first
    | with_reducible assumption | intro _ | with_reducible apply Sound.setG | with_reducible apply Sound.runInstr
    | with_reducible apply Sound.noProgress | with_reducible apply Sound.load8 | with_reducible apply Sound.rslkPos
    | with_reducible apply Sound.linkBody | with_reducible apply Sound.ite | with_reducible apply SoundI.jump
    | with_reducible apply SoundOut.next | dsimp only | split

/-! ## Decimal -/

theorem Sound.readDop {s : State} {c : CoreId} {o : DOp} {ps : List (Phys × ℕ)} (h_s : Sound q s) : Sound q ((readDop
    s c o ps).2) := by
  unfold Machine.readDop
  repeat' first
    | with_reducible assumption | with_reducible apply Sound.readParts

theorem Sound.decEnd {c : CoreId} {b : BankId} {cc : ℕ} {ovf : Bool} {s : State} (h_s : Sound q s) : SoundI q (decEnd
    c b cc ovf s) := by
  unfold Machine.decEnd
  repeat' first
    | with_reducible assumption | intro _ | with_reducible apply Sound.modBank | with_reducible apply Sound.setCC
    | with_reducible apply Sound.ite | with_reducible apply SoundI.ite | with_reducible apply SoundI.done
    | with_reducible apply SoundI.trap

theorem Sound.packEnd {c : CoreId} {b : BankId} {o : DOp} {ps : List (Phys × ℕ)} {keepz : Bool} {v : Dec} {s : State}
    (h_s : Sound q s) : SoundI q (packEnd c b o ps keepz v s) := by
  unfold Machine.packEnd
  repeat' first
    | with_reducible assumption | with_reducible apply Sound.storeParts | with_reducible apply Sound.decEnd

theorem Sound.daEnd {c : CoreId} {b : BankId} {n : Fin 8} {v : Dec} {s : State} (h_s : Sound q s) : SoundI q (daEnd c
    b n v s) := by
  unfold Machine.daEnd
  repeat' first
    | with_reducible assumption | with_reducible apply Sound.setDa | with_reducible apply Sound.decEnd

theorem Sound.decBody {c : CoreId} {ma mb : MOp} {f : Dec → Dec → DRes} {b : BankId} {s : State} (h_s : Sound q s) :
    SoundI q (decBody c ma mb f b s) := by
  unfold Machine.decBody
  repeat' first
    | with_reducible assumption | with_reducible apply Sound.readDop | with_reducible apply Sound.packEnd
    | with_reducible apply SoundI.trap | dsimp only | split

theorem Sound.decCopyBody {c : CoreId} {ma mb : MOp} {zb : Bool} {f : Word → Dec → Dec} {keep : Word → Dec → Bool} {b
    : BankId} {s : State} (h_s : Sound q s) : SoundI q (decCopyBody c ma mb zb f keep b s) := by
  unfold Machine.decCopyBody
  repeat' first
    | with_reducible assumption | with_reducible apply Sound.readDop | with_reducible apply Sound.packEnd
    | with_reducible apply SoundI.trap | dsimp only | split

theorem Sound.longInstr {c : CoreId} {legal : Bool} {body : BankId → State → IRes} {s : State} (h_body : ∀ y0 y1,
    Sound q y1 → SoundI q (body y0 y1)) (h_s : Sound q s) : Sound q (longInstr c legal body s) := by
  unfold Machine.longInstr
  repeat' first
    | with_reducible assumption | intro _ | with_reducible apply Sound.runInstr

theorem Sound.execDadd {c : CoreId} {a b : MOp} {s : State} (h_s : Sound q s) : SoundOut q (execDadd c a b s) := by
  unfold Machine.execDadd
  repeat' first
    | with_reducible assumption | intro _ | with_reducible apply Sound.decBody | with_reducible apply Sound.longInstr
    | with_reducible apply Sound.decCopyBody | with_reducible apply Sound.execDsub
    | with_reducible apply Sound.execDmul | with_reducible apply Sound.execDdiv | with_reducible apply Sound.execDmod
    | with_reducible apply Sound.execDcpy | with_reducible apply SoundOut.next

theorem Sound.execDsub {c : CoreId} {a b : MOp} {s : State} (h_s : Sound q s) : SoundOut q (execDsub c a b s) := by
  unfold Machine.execDsub
  repeat' first
    | with_reducible assumption | intro _ | with_reducible apply Sound.decBody | with_reducible apply Sound.longInstr
    | with_reducible apply Sound.decCopyBody | with_reducible apply Sound.execDmul
    | with_reducible apply Sound.execDdiv | with_reducible apply Sound.execDmod | with_reducible apply Sound.execDcpy
    | with_reducible apply SoundOut.next

theorem Sound.execDmul {c : CoreId} {a b : MOp} {s : State} (h_s : Sound q s) : SoundOut q (execDmul c a b s) := by
  unfold Machine.execDmul
  repeat' first
    | with_reducible assumption | intro _ | with_reducible apply Sound.decBody | with_reducible apply Sound.longInstr
    | with_reducible apply Sound.decCopyBody | with_reducible apply Sound.execDdiv
    | with_reducible apply Sound.execDmod | with_reducible apply Sound.execDcpy | with_reducible apply SoundOut.next

theorem Sound.execDdiv {c : CoreId} {a b : MOp} {s : State} (h_s : Sound q s) : SoundOut q (execDdiv c a b s) := by
  unfold Machine.execDdiv
  repeat' first
    | with_reducible assumption | intro _ | with_reducible apply Sound.decBody | with_reducible apply Sound.longInstr
    | with_reducible apply Sound.decCopyBody | with_reducible apply Sound.execDmod
    | with_reducible apply Sound.execDcpy | with_reducible apply SoundOut.next

theorem Sound.execDmod {c : CoreId} {a b : MOp} {s : State} (h_s : Sound q s) : SoundOut q (execDmod c a b s) := by
  unfold Machine.execDmod
  repeat' first
    | with_reducible assumption | intro _ | with_reducible apply Sound.decBody | with_reducible apply Sound.longInstr
    | with_reducible apply Sound.decCopyBody | with_reducible apply Sound.execDcpy
    | with_reducible apply SoundOut.next

theorem Sound.execDcpy {c : CoreId} {a b : MOp} {s : State} (h_s : Sound q s) : SoundOut q (execDcpy c a b s) := by
  unfold Machine.execDcpy
  repeat' first
    | with_reducible assumption | intro _ | with_reducible apply Sound.decCopyBody
    | with_reducible apply Sound.longInstr | with_reducible apply SoundOut.next

theorem Sound.execDcmp {c : CoreId} {a b : MOp} {s : State} (h_s : Sound q s) : SoundOut q (execDcmp c a b s) := by
  unfold Machine.execDcmp
  repeat' first
    | with_reducible assumption | intro _ | with_reducible apply Sound.setCC | with_reducible apply Sound.readDop
    | with_reducible apply Sound.longInstr | with_reducible apply SoundI.done | with_reducible apply SoundI.trap
    | with_reducible apply SoundOut.next | dsimp only | split

theorem Sound.execDshf {c : CoreId} {a b : MOp} {n : BitVec 7} {s : State} (h_s : Sound q s) : SoundOut q (execDshf c
    a b n s) := by
  unfold Machine.execDshf
  repeat' first
    | with_reducible assumption | intro _ | with_reducible apply Sound.decCopyBody
    | with_reducible apply Sound.longInstr | with_reducible apply Sound.ite | with_reducible apply SoundOut.next

theorem Sound.execDtst {c : CoreId} {a : MOp} {s : State} (h_s : Sound q s) : SoundOut q (execDtst c a s) := by
  unfold Machine.execDtst
  repeat' first
    | with_reducible assumption | intro _ | with_reducible apply Sound.setCC | with_reducible apply Sound.readDop
    | with_reducible apply Sound.longInstr | with_reducible apply SoundI.done | with_reducible apply SoundI.trap
    | with_reducible apply SoundOut.next | dsimp only | split

theorem Sound.execPackz {c : CoreId} {a z : MOp} {s : State} (h_s : Sound q s) : SoundOut q (execPackz c a z s) := by
  unfold Machine.execPackz
  repeat' first
    | with_reducible assumption | intro _ | with_reducible apply Sound.decCopyBody
    | with_reducible apply Sound.longInstr | with_reducible apply SoundOut.next

theorem Sound.execUnpkz {c : CoreId} {z a : MOp} {s : State} (h_s : Sound q s) : SoundOut q (execUnpkz c z a s) := by
  unfold Machine.execUnpkz
  repeat' first
    | with_reducible assumption | intro _ | with_reducible apply Sound.storeParts | with_reducible apply Sound.readDop
    | with_reducible apply Sound.decEnd | with_reducible apply Sound.longInstr | with_reducible apply SoundI.trap
    | with_reducible apply SoundOut.next | dsimp only | split

theorem Sound.execCvpb {c : CoreId} {d : Reg} {b : MOp} {s : State} (h_s : Sound q s) : SoundOut q (execCvpb c d b s)
    := by
  unfold Machine.execCvpb
  repeat' first
    | with_reducible assumption | intro _ | with_reducible apply Sound.setG | with_reducible apply Sound.readDop
    | with_reducible apply Sound.decEnd | with_reducible apply Sound.longInstr | with_reducible apply SoundI.trap
    | with_reducible apply SoundOut.next | dsimp only | split

theorem Sound.execCvbp {c : CoreId} {a : MOp} {g : Reg} {s : State} (h_s : Sound q s) : SoundOut q (execCvbp c a g s)
    := by
  unfold Machine.execCvbp
  repeat' first
    | with_reducible assumption | intro _ | with_reducible apply Sound.packEnd | with_reducible apply Sound.longInstr
    | with_reducible apply SoundI.trap | with_reducible apply SoundOut.next | dsimp only | split

theorem Sound.daOp {c : CoreId} {n : Fin 8} {b : MOp} {useDa : Bool} {f : Dec → Dec → BankId → State → IRes} {s :
    State} (h_f : ∀ y0 y1 y2 y3, Sound q y3 → SoundI q (f y0 y1 y2 y3)) (h_s : Sound q s) : Sound q (daOp c n b useDa
    f s) := by
  unfold Machine.daOp
  repeat' first
    | with_reducible assumption | intro _ | with_reducible apply Sound.lazyD | with_reducible apply Sound.readDop
    | with_reducible apply Sound.longInstr | with_reducible apply h_f | with_reducible apply Sound.ite
    | with_reducible apply SoundI.trap | dsimp only | split

theorem Sound.execDlda {c : CoreId} {n : Fin 8} {b : MOp} {s : State} (h_s : Sound q s) : SoundOut q (execDlda c n b
    s) := by
  unfold Machine.execDlda
  repeat' first
    | with_reducible assumption | intro _ | with_reducible apply Sound.daEnd | with_reducible apply Sound.daOp
    | with_reducible apply Sound.setCC | with_reducible apply Sound.execDada | with_reducible apply Sound.execDsba
    | with_reducible apply Sound.execDmla | with_reducible apply Sound.execDcpa | with_reducible apply SoundOut.next

theorem Sound.execDada {c : CoreId} {n : Fin 8} {b : MOp} {s : State} (h_s : Sound q s) : SoundOut q (execDada c n b
    s) := by
  unfold Machine.execDada
  repeat' first
    | with_reducible assumption | intro _ | with_reducible apply Sound.daEnd | with_reducible apply Sound.daOp
    | with_reducible apply Sound.setCC | with_reducible apply Sound.execDsba | with_reducible apply Sound.execDmla
    | with_reducible apply Sound.execDcpa | with_reducible apply SoundOut.next

theorem Sound.execDsba {c : CoreId} {n : Fin 8} {b : MOp} {s : State} (h_s : Sound q s) : SoundOut q (execDsba c n b
    s) := by
  unfold Machine.execDsba
  repeat' first
    | with_reducible assumption | intro _ | with_reducible apply Sound.daEnd | with_reducible apply Sound.daOp
    | with_reducible apply Sound.setCC | with_reducible apply Sound.execDmla | with_reducible apply Sound.execDcpa
    | with_reducible apply SoundOut.next

theorem Sound.execDmla {c : CoreId} {n : Fin 8} {b : MOp} {s : State} (h_s : Sound q s) : SoundOut q (execDmla c n b
    s) := by
  unfold Machine.execDmla
  repeat' first
    | with_reducible assumption | intro _ | with_reducible apply Sound.daEnd | with_reducible apply Sound.daOp
    | with_reducible apply Sound.setCC | with_reducible apply Sound.execDcpa | with_reducible apply SoundOut.next

theorem Sound.execDcpa {c : CoreId} {n : Fin 8} {b : MOp} {s : State} (h_s : Sound q s) : SoundOut q (execDcpa c n b
    s) := by
  unfold Machine.execDcpa
  repeat' first
    | with_reducible assumption | intro _ | with_reducible apply Sound.setCC | with_reducible apply Sound.daOp
    | with_reducible apply SoundI.done | with_reducible apply SoundOut.next

theorem Sound.execDsta {c : CoreId} {a : MOp} {n : Fin 8} {s : State} (h_s : Sound q s) : SoundOut q (execDsta c a n
    s) := by
  unfold Machine.execDsta
  repeat' first
    | with_reducible assumption | intro _ | with_reducible apply Sound.lazyD | with_reducible apply Sound.packEnd
    | with_reducible apply Sound.longInstr | with_reducible apply SoundI.trap | with_reducible apply SoundOut.next
    | dsimp only | split

theorem Sound.execDadr {c : CoreId} {n m : Fin 8} {s : State} (h_s : Sound q s) : SoundOut q (execDadr c n m s) := by
  unfold Machine.execDadr
  repeat' first
    | with_reducible assumption | intro _ | with_reducible apply Sound.lazyD | with_reducible apply Sound.daEnd
    | with_reducible apply Sound.longInstr | with_reducible apply SoundI.trap | with_reducible apply SoundOut.next
    | dsimp only | split

end Sys2Proof.Laws
end

