-- ==== Sys2Proof/Laws/KeepsCores.lean ====
section
/-! SUPPORT. One lemma for each operation of Strings, Edit, System, Caller, LedgerOps, JournalOps, under its name: the operation keeps
the queue of commands and the canonical forms of the maps. -/

namespace Sys2Proof.Laws

open Sys2Proof Sys2Proof.Machine

variable {q : List Instr}

/-! ## Strings -/

theorem Sound.strLoop {c : CoreId} {b : BankId} {prog : ℕ} {step : Walk → State → SOut} {save complete : Walk → State
    → State} {endCc : Option ℕ} {x7 : ℕ} {x8 : Option ℕ} {x9 : Walk} {x10 : State} (h_step : ∀ y0 y1, Sound q y1 →
    SoundS q (step y0 y1)) (h_save : ∀ y0 y1, Sound q y1 → Sound q (save y0 y1)) (h_complete : ∀ y0 y1, Sound q y1 →
    Sound q (complete y0 y1)) (h_x10 : Sound q x10) : SoundI q (strLoop c b prog step save complete endCc x7 x8 x9
    x10) := by
  unfold Machine.strLoop
  repeat' first
    | with_reducible assumption | intro _ | with_reducible apply Sound.strLoop | with_reducible apply Sound.modBank
    | with_reducible apply Sound.setCC | with_reducible apply Sound.noProgress | with_reducible apply h_step
    | with_reducible apply h_save | with_reducible apply h_complete | with_reducible apply Sound.ite
    | with_reducible apply SoundI.ite | with_reducible apply SoundI.done | with_reducible apply SoundI.trap
    | with_reducible apply SoundI.hold | fail_if_no_progress with_reducible apply Sound.upd | dsimp only | split
    | with_reducible refine Sound.of_cont ?_ (by assumption) | with_reducible refine Sound.of_fin ?_ (by assumption)

theorem Sound.byteAt {s : State} {c : CoreId} {ps : List (Phys × ℕ)} {i : ℕ} (h_s : Sound q s) : Sound q ((byteAt s c
    ps i).2) := by
  unfold Machine.byteAt
  repeat' first
    | with_reducible assumption | with_reducible apply Sound.readPart | dsimp only | split

theorem Sound.putByteAt {s : State} {c : CoreId} {b : BankId} {ps : List (Phys × ℕ)} {i : ℕ} {v : Byte} (h_s : Sound q
    s) : Sound q (putByteAt s c b ps i v) := by
  unfold Machine.putByteAt
  repeat' first
    | with_reducible assumption | with_reducible apply Sound.storePhys | dsimp only | split

theorem Sound.markStep {s : State} {c : CoreId} {b : BankId} {rs : List (List (Phys × ℕ))} {d : List (Phys × ℕ)} (h_s
    : Sound q s) : Sound q (markStep s c b rs d) := by
  unfold Machine.markStep
  repeat' first
    | with_reducible assumption | intro _ | with_reducible apply Sound.appendAdvance
    | with_reducible apply Sound.markUse | with_reducible apply Sound.markParts | with_reducible apply Sound.foldl

theorem Sound.copyUp {c : CoreId} {b : BankId} {src dst : List (Phys × ℕ)} {f : Byte → State → Byte × State} {x5 x6 :
    ℕ} {x7 : State} (h_f : ∀ y0 y1, Sound q y1 → Sound q ((f y0 y1).2)) (h_x7 : Sound q x7) : Sound q (copyUp c b src
    dst f x5 x6 x7) := by
  unfold Machine.copyUp
  repeat' first
    | with_reducible assumption | intro _ | with_reducible apply Sound.copyUp | with_reducible apply Sound.byteAt
    | with_reducible apply Sound.putByteAt | with_reducible apply h_f | dsimp only | split

theorem Sound.copyDown {c : CoreId} {b : BankId} {src dst : List (Phys × ℕ)} {x4 : ℕ} {x5 : State} (h_x5 : Sound q x5)
    : Sound q (copyDown c b src dst x4 x5) := by
  unfold Machine.copyDown
  repeat' first
    | with_reducible assumption | with_reducible apply Sound.copyDown | with_reducible apply Sound.byteAt
    | with_reducible apply Sound.putByteAt | dsimp only | split

theorem Sound.strInstr {c : CoreId} {legal : Bool} {body : BankId → State → IRes} {s : State} (h_body : ∀ y0 y1, Sound
    q y1 → SoundI q (body y0 y1)) (h_s : Sound q s) : Sound q (strInstr c legal body s) := by
  unfold Machine.strInstr
  repeat' first
    | with_reducible assumption | intro _ | with_reducible apply Sound.runInstr

theorem Sound.moveStep {c : CoreId} {b : BankId} {size : ℕ} {tab : Option (ℕ × ℕ)} {f : List (Phys × ℕ) → Byte → State
    → Byte × State} {w : Walk} {s : State} (h_f : ∀ y0 y1 y2, Sound q y2 → Sound q ((f y0 y1 y2).2)) (h_s : Sound q s)
    : SoundS q (moveStep c b size tab f w s) := by
  unfold Machine.moveStep
  repeat' first
    | with_reducible assumption | intro _ | with_reducible apply Sound.markStep | with_reducible apply Sound.copyUp
    | with_reducible apply h_f | with_reducible apply SoundS.cont | with_reducible apply SoundS.fail
    | fail_if_no_progress with_reducible apply Sound.upd | dsimp only | split

theorem Sound.saveMove {c : CoreId} {b : BankId} {d sr n : Reg} {w : Walk} {s : State} (h_s : Sound q s) : Sound q
    (saveMove c b d sr n w s) := by
  unfold Machine.saveMove
  repeat' first
    | with_reducible assumption | with_reducible apply Sound.setG

theorem Sound.smovBody {c : CoreId} {d sr n : Reg} {stop : Option ℕ} {b : BankId} {s : State} (h_s : Sound q s) :
    SoundI q (smovBody c d sr n stop b s) := by
  unfold Machine.smovBody
  repeat' first
    | with_reducible assumption | intro _ | with_reducible apply Sound.strLoop | with_reducible apply Sound.moveStep
    | with_reducible apply Sound.saveMove | with_reducible apply Sound.ite | with_reducible apply SoundI.ite
    | with_reducible apply SoundI.trap | dsimp only | split

theorem Sound.execSmov {c : CoreId} {d s_ n : Reg} {stop : Option ℕ} {s : State} (h_s : Sound q s) : SoundOut q
    (execSmov c d s_ n stop s) := by
  unfold Machine.execSmov
  repeat' first
    | with_reducible assumption | intro _ | with_reducible apply Sound.strInstr | with_reducible apply Sound.smovBody
    | with_reducible apply SoundOut.next

theorem Sound.moveDownStep {c : CoreId} {b : BankId} {w : Walk} {s : State} (h_s : Sound q s) : SoundS q (moveDownStep
    c b w s) := by
  unfold Machine.moveDownStep
  repeat' first
    | with_reducible assumption | with_reducible apply Sound.markStep | with_reducible apply Sound.copyDown
    | with_reducible apply SoundS.cont | with_reducible apply SoundS.fail
    | fail_if_no_progress with_reducible apply Sound.upd | dsimp only | split

theorem Sound.smovxBody {c : CoreId} {d sr n : Reg} {stop : Option ℕ} {b : BankId} {s : State} (h_s : Sound q s) :
    SoundI q (smovxBody c d sr n stop b s) := by
  unfold Machine.smovxBody
  repeat' first
    | with_reducible assumption | intro _ | with_reducible apply Sound.setG | with_reducible apply Sound.strLoop
    | with_reducible apply Sound.smovBody | with_reducible apply Sound.moveDownStep | with_reducible apply Sound.ite
    | with_reducible apply SoundI.ite | with_reducible apply SoundI.trap
    | fail_if_no_progress with_reducible apply Sound.upd | dsimp only | split

theorem Sound.execSmovx {c : CoreId} {d s_ n : Reg} {stop : Option ℕ} {s : State} (h_s : Sound q s) : SoundOut q
    (execSmovx c d s_ n stop s) := by
  unfold Machine.execSmovx
  repeat' first
    | with_reducible assumption | intro _ | with_reducible apply Sound.strInstr | with_reducible apply Sound.smovxBody
    | with_reducible apply SoundOut.next

theorem Sound.execSfill {c : CoreId} {d bb n : Reg} {stop : Option ℕ} {s : State} (h_s : Sound q s) : SoundOut q
    (execSfill c d bb n stop s) := by
  unfold Machine.execSfill
  repeat' first
    | with_reducible assumption | intro _ | with_reducible apply Sound.setG | with_reducible apply Sound.strLoop
    | with_reducible apply Sound.putByteAt | with_reducible apply Sound.markStep | with_reducible apply Sound.strInstr
    | with_reducible apply Sound.ite | with_reducible apply SoundI.ite | with_reducible apply Sound.foldl
    | with_reducible apply Sound.foldl2 | with_reducible apply SoundI.trap | with_reducible apply SoundS.cont
    | with_reducible apply SoundS.fail | with_reducible apply SoundOut.next
    | fail_if_no_progress with_reducible apply Sound.upd | dsimp only | split

theorem Sound.compareUp {c : CoreId} {p x2 : List (Phys × ℕ)} {x3 x4 : ℕ} {x5 : State} (h_x5 : Sound q x5) : Sound q
    ((compareUp c p x2 x3 x4 x5).2) := by
  unfold Machine.compareUp
  repeat' first
    | with_reducible assumption | with_reducible apply Sound.compareUp | with_reducible apply Sound.byteAt
    | with_reducible apply Sound.ite | dsimp only | split

theorem Sound.execScmp {c : CoreId} {a bb n : Reg} {stop : Option ℕ} {s : State} (h_s : Sound q s) : SoundOut q
    (execScmp c a bb n stop s) := by
  unfold Machine.execScmp
  repeat' first
    | with_reducible assumption | intro _ | with_reducible apply Sound.setG | with_reducible apply Sound.strLoop
    | with_reducible apply Sound.markStep | with_reducible apply Sound.strInstr | with_reducible apply Sound.compareUp
    | with_reducible apply Sound.ite | with_reducible apply SoundI.ite | with_reducible apply SoundI.trap
    | with_reducible apply SoundS.cont | with_reducible apply SoundS.fin | with_reducible apply SoundS.fail
    | with_reducible apply SoundOut.next | fail_if_no_progress with_reducible apply Sound.upd | dsimp only | split

theorem Sound.tableByte {c : CoreId} {tab : List (Phys × ℕ)} {v : Byte} {s : State} (h_s : Sound q s) : Sound q
    ((tableByte c tab v s).2) := by
  unfold Machine.tableByte
  repeat' first
    | with_reducible assumption | with_reducible apply Sound.byteAt

theorem Sound.execStr {c : CoreId} {d s_ n t : Reg} {stop : Option ℕ} {s : State} (h_s : Sound q s) : SoundOut q
    (execStr c d s_ n t stop s) := by
  unfold Machine.execStr
  repeat' first
    | with_reducible assumption | intro _ | with_reducible apply Sound.strLoop | with_reducible apply Sound.strInstr
    | with_reducible apply Sound.moveStep | with_reducible apply Sound.saveMove | with_reducible apply Sound.tableByte
    | with_reducible apply Sound.ite | with_reducible apply SoundI.ite | with_reducible apply SoundI.trap
    | with_reducible apply SoundOut.next | dsimp only | split

theorem Sound.scanUp {c : CoreId} {src tab : List (Phys × ℕ)} {x3 x4 : ℕ} {x5 : State} (h_x5 : Sound q x5) : Sound q
    ((scanUp c src tab x3 x4 x5).2) := by
  unfold Machine.scanUp
  repeat' first
    | with_reducible assumption | with_reducible apply Sound.scanUp | with_reducible apply Sound.byteAt
    | with_reducible apply Sound.tableByte | with_reducible apply Sound.ite | dsimp only | split

theorem Sound.execSscan {c : CoreId} {a n t f : Reg} {stop : Option ℕ} {s : State} (h_s : Sound q s) : SoundOut q
    (execSscan c a n t f stop s) := by
  unfold Machine.execSscan
  repeat' first
    | with_reducible assumption | intro _ | with_reducible apply Sound.setG | with_reducible apply Sound.strLoop
    | with_reducible apply Sound.markStep | with_reducible apply Sound.strInstr | with_reducible apply Sound.scanUp
    | with_reducible apply Sound.ite | with_reducible apply SoundI.ite | with_reducible apply SoundI.trap
    | with_reducible apply SoundS.cont | with_reducible apply SoundS.fin | with_reducible apply SoundS.fail
    | with_reducible apply SoundOut.next | fail_if_no_progress with_reducible apply Sound.upd | dsimp only | split

theorem Sound.convLoop {c : CoreId} {b : BankId} {w : Walk} {m : ℕ} {one : ℕ → State → ConvOne × State} {x5 x6 x7 : ℕ}
    {x8 : State} (h_one : ∀ y0 y1, Sound q y1 → Sound q ((one y0 y1).2)) (h_x8 : Sound q x8) : SoundS q (convLoop c b
    w m one x5 x6 x7 x8) := by
  unfold Machine.convLoop
  repeat' first
    | with_reducible assumption | intro _ | with_reducible apply Sound.convLoop
    | with_reducible apply Sound.storeParts | with_reducible apply h_one | with_reducible apply Sound.ite
    | with_reducible apply SoundS.cont | with_reducible apply SoundS.fin | with_reducible apply SoundS.fail
    | fail_if_no_progress with_reducible apply Sound.upd | dsimp only | split
    | with_reducible refine Sound.of_cont ?_ (by assumption) | with_reducible refine Sound.of_fin ?_ (by assumption)
    | with_reducible refine Sound.of_snd ?_ (by assumption)

theorem Sound.scvuOne {c : CoreId} {src tab : List (Phys × ℕ)} {i : ℕ} {s : State} (h_s : Sound q s) : Sound q
    ((scvuOne c src tab i s).2) := by
  unfold Machine.scvuOne
  repeat' first
    | with_reducible assumption | with_reducible apply Sound.byteAt | with_reducible apply Sound.ite | dsimp only
    | split

theorem Sound.execScvu {c : CoreId} {d s_ n t : Reg} {stop : Option ℕ} {s : State} (h_s : Sound q s) : SoundOut q
    (execScvu c d s_ n t stop s) := by
  unfold Machine.execScvu
  repeat' first
    | with_reducible assumption | intro _ | with_reducible apply Sound.strLoop | with_reducible apply Sound.markStep
    | with_reducible apply Sound.strInstr | with_reducible apply Sound.saveMove | with_reducible apply Sound.convLoop
    | with_reducible apply Sound.scvuOne | with_reducible apply Sound.ite | with_reducible apply SoundI.ite
    | with_reducible apply SoundI.trap | with_reducible apply SoundS.fail | with_reducible apply SoundOut.next
    | dsimp only | split

theorem Sound.scvsOne {c : CoreId} {src tab : List (Phys × ℕ)} {m n i : ℕ} {s : State} (h_s : Sound q s) : Sound q
    ((scvsOne c src tab m n i s).2) := by
  unfold Machine.scvsOne
  repeat' first
    | with_reducible assumption | intro _ | with_reducible apply Sound.byteAt | with_reducible apply Sound.ite
    | with_reducible apply Sound.foldl | with_reducible apply Sound.foldl2 | dsimp only | split

theorem Sound.execScvs {c : CoreId} {d s_ n t : Reg} {stop : Option ℕ} {s : State} (h_s : Sound q s) : SoundOut q
    (execScvs c d s_ n t stop s) := by
  unfold Machine.execScvs
  repeat' first
    | with_reducible assumption | intro _ | with_reducible apply Sound.strLoop | with_reducible apply Sound.markStep
    | with_reducible apply Sound.strInstr | with_reducible apply Sound.saveMove | with_reducible apply Sound.convLoop
    | with_reducible apply Sound.scvsOne | with_reducible apply Sound.ite | with_reducible apply SoundI.ite
    | with_reducible apply SoundI.trap | with_reducible apply SoundS.fail | with_reducible apply SoundOut.next
    | dsimp only | split

/-! ## Edit -/

/-- The state in which the reading of a picture asks for a byte is sound. -/
@[irreducible] def SoundPF (q : List Instr) : PicFail → Prop
  | .missing s => Sound q s
  | .refused _ => True
  | .picture _ => True

/-- What the reading of a picture answers with is sound. -/
@[irreducible] def SoundPic {α : Type} (q : List Instr) : Except PicFail (α × State) → Prop
  | .error e => SoundPF q e
  | .ok r => Sound q r.2

theorem SoundPF.missing {q : List Instr} {s : State} (h : Sound q s) : SoundPF q (.missing s) := by
  unfold SoundPF; exact h
theorem SoundPF.refused {q : List Instr} {r : Refused} : SoundPF q (.refused r) := by
  unfold SoundPF; trivial
theorem SoundPF.picture {q : List Instr} {o : Nat} : SoundPF q (.picture o) := by
  unfold SoundPF; trivial
theorem SoundPic.error {α : Type} {q : List Instr} {e : PicFail} (h : SoundPF q e) :
    SoundPic q (.error e : Except PicFail (α × State)) := by
  unfold SoundPic; exact h
theorem SoundPic.ok {α : Type} {q : List Instr} {r : α × State} (h : Sound q r.2) :
    SoundPic q (.ok r : Except PicFail (α × State)) := by
  unfold SoundPic; exact h
theorem Sound.of_pic {α : Type} {q : List Instr} {o : Except PicFail (α × State)} {a : α} {s : State} (h : SoundPic q o)
    (e : o = .ok (a, s)) : Sound q s := by
  subst e; unfold SoundPic at h; exact h
theorem SoundPF.of_pic {α : Type} {q : List Instr} {o : Except PicFail (α × State)} {f : PicFail} (h : SoundPic q o)
    (e : o = .error f) : SoundPF q f := by
  subst e; unfold SoundPic at h; exact h
theorem Sound.of_missing {q : List Instr} {s : State} (h : SoundPF q (.missing s)) : Sound q s := by
  unfold SoundPF at h; exact h

theorem Sound.picByte {s : State} {c : CoreId} {b : BankId} {gp off last : ℕ} (h_s : Sound q s) :
    SoundPic q (picByte s c b gp off last) := by
  unfold Machine.picByte
  repeat' first
    | with_reducible assumption | with_reducible apply Sound.markUse | with_reducible apply Sound.readPart
    | with_reducible apply SoundPic.error | with_reducible apply SoundPic.ok | with_reducible apply SoundPF.missing
    | with_reducible exact SoundPF.refused | with_reducible exact SoundPF.picture | dsimp only | split

theorem Sound.picLits {s : State} {c : CoreId} {b : BankId} {gp off last n : ℕ} (h_s : Sound q s) :
    SoundPic q (picLits s c b gp off last n) := by
  induction n generalizing s off with
  | zero => exact SoundPic.ok h_s
  | succ n ih =>
    unfold Machine.picLits
    split
    · exact SoundPic.error (SoundPF.of_pic (Sound.picByte h_s) (by assumption))
    · have h1 := Sound.of_pic (Sound.picByte h_s) (by assumption)
      split
      · exact SoundPic.error (SoundPF.of_pic (ih h1) (by assumption))
      · exact SoundPic.ok (Sound.of_pic (ih h1) (by assumption))

theorem Sound.picOperands {s : State} {c : CoreId} {b : BankId} {gp off code : ℕ} (h_s : Sound q s) :
    SoundPic q (picOperands s c b gp off code) := by
  unfold Machine.picOperands
  split
  · exact Sound.picLits h_s
  · split
    · split
      · exact SoundPic.error (SoundPF.of_pic (Sound.picByte h_s) (by assumption))
      · have h1 := Sound.of_pic (Sound.picByte h_s) (by assumption)
        split
        · exact SoundPic.error SoundPF.picture
        · split
          · exact SoundPic.error (SoundPF.of_pic (Sound.picLits h1) (by assumption))
          · exact SoundPic.ok (Sound.of_pic (Sound.picLits h1) (by assumption))
    · exact SoundPic.ok h_s

theorem Sound.picRest {c : CoreId} {b : BankId} {gp bad n off : ℕ} {s : State} (h_s : Sound q s) :
    SoundPF q (picRest c b gp bad n off s) := by
  induction n generalizing s off with
  | zero => exact SoundPF.picture
  | succ n ih =>
    unfold Machine.picRest
    split
    · exact SoundPF.of_pic (Sound.picByte h_s) (by assumption)
    · split
      · exact SoundPF.picture
      · exact ih (Sound.of_pic (Sound.picByte h_s) (by assumption))

theorem Sound.picCodes {c : CoreId} {b : BankId} {gp n off last : ℕ} {acc : List PicCode} {s : State} (h_s : Sound q s) :
    SoundPic q (picCodes c b gp n off last acc s) := by
  induction n generalizing s off last acc with
  | zero => exact SoundPic.error SoundPF.picture
  | succ n ih =>
    unfold Machine.picCodes
    split
    · exact SoundPic.error (SoundPF.of_pic (Sound.picByte h_s) (by assumption))
    · have h1 := Sound.of_pic (Sound.picByte h_s) (by assumption)
      split
      · exact SoundPic.error (Sound.picRest h1)
      · split
        · split
          · exact SoundPic.error SoundPF.picture
          · exact SoundPic.error (Sound.picRest h1)
        · exact SoundPic.error (SoundPF.of_pic (Sound.picOperands h1) (by assumption))
        · have h2 := Sound.of_pic (Sound.picOperands h1) (by assumption)
          dsimp only
          split
          · exact SoundPic.ok h2
          · exact ih h2

theorem Sound.readPicture {s : State} {c : CoreId} {b : BankId} {gp : ℕ} (h_s : Sound q s) :
    SoundPic q (readPicture s c b gp) := by
  unfold Machine.readPicture
  split
  · exact SoundPic.error (SoundPF.of_pic (Sound.picLits h_s) (by assumption))
  · have h1 := Sound.of_pic (Sound.picLits h_s) (by assumption)
    dsimp only
    split
    · exact SoundPic.error SoundPF.refused
    · exact SoundPic.error (SoundPF.of_pic (Sound.picCodes h1) (by assumption))
    · exact SoundPic.error SoundPF.picture
    · have h2 := Sound.of_pic (Sound.picCodes h1) (by assumption)
      split
      · exact SoundPic.error SoundPF.picture
      · split
        · exact SoundPic.error SoundPF.picture
        · exact SoundPic.ok h2

theorem Sound.editCheckpoint {c : CoreId} {b : BankId} {d : Reg} {off : ℕ} {r : EditRun} {s : State} (h_s : Sound q s)
    : Sound q (editCheckpoint c b d off r s) := by
  unfold Machine.editCheckpoint
  repeat' first
    | with_reducible assumption | intro _ | with_reducible apply Sound.modBank | with_reducible apply Sound.setG
    | with_reducible apply Sound.ite

theorem Sound.editLoop {c : CoreId} {b : BankId} {d : Reg} {cset : ℕ} {neg zero : Bool} {x6 : List PicCode} {x7 :
    Option ℕ} {x8 : EditRun} {x9 : State} (h_x9 : Sound q x9) : SoundI q (editLoop c b d cset neg zero x6 x7 x8 x9) :=
    by
  unfold Machine.editLoop
  repeat' first
    | with_reducible assumption | with_reducible apply Sound.editLoop | with_reducible apply Sound.setCC
    | with_reducible apply Sound.setG | with_reducible apply Sound.storeParts | with_reducible apply Sound.noProgress
    | with_reducible apply Sound.editCheckpoint | with_reducible apply Sound.ite | with_reducible apply SoundI.ite
    | with_reducible apply SoundI.done | with_reducible apply SoundI.trap | with_reducible apply SoundI.hold
    | fail_if_no_progress with_reducible apply Sound.upd | dsimp only | split

theorem Sound.editSource {c : CoreId} {b : BankId} {d : Reg} {gs off taken : ℕ} {started : Bool} {p : Picture} {stop :
    Option ℕ} {s : State} (h_s : Sound q s) : SoundI q (editSource c b d gs off taken started p stop s) := by
  unfold Machine.editSource
  repeat' first
    | with_reducible assumption | intro _ | with_reducible apply Sound.readParts | with_reducible apply Sound.editLoop
    | with_reducible apply Sound.ite | with_reducible apply SoundI.ite | with_reducible apply Sound.foldl
    | with_reducible apply Sound.foldl2 | with_reducible apply SoundI.trap | dsimp only | split

theorem Sound.editBody {c : CoreId} {d gp gs : Reg} {stop : Option ℕ} {b : BankId} {s : State} (h_s : Sound q s) :
    SoundI q (editBody c d gp gs stop b s) := by
  unfold Machine.editBody
  dsimp only
  split
  · exact SoundI.hold (Sound.of_missing (SoundPF.of_pic (Sound.readPicture h_s) (by assumption)))
  · exact SoundI.trap h_s
  · exact SoundI.trap h_s
  · have h1 := Sound.of_pic (Sound.readPicture h_s) (by assumption)
    repeat' first
   
      | with_reducible exact SoundI.trap h1
      | with_reducible exact Sound.editSource h1
      | split

theorem Sound.execEdit {c : CoreId} {d p s_ : Reg} {stop : Option ℕ} {s : State} (h_s : Sound q s) : SoundOut q
    (execEdit c d p s_ stop s) := by
  unfold Machine.execEdit
  repeat' first
    | with_reducible assumption | intro _ | with_reducible apply Sound.strInstr | with_reducible apply Sound.editBody
    | with_reducible apply SoundOut.next

/-! ## System -/

theorem Sound.execScall {c : CoreId} {s : State} (h_s : Sound q s) : SoundOut q (execScall c s) := by
  unfold Machine.execScall
  repeat' first
    | with_reducible assumption | intro _ | with_reducible apply Sound.baseInstr | with_reducible apply SoundI.trap
    | with_reducible apply SoundOut.next

theorem Sound.execBreakpoint {c : CoreId} {s : State} (h_s : Sound q s) : SoundOut q (execBreakpoint c s) := by
  unfold Machine.execBreakpoint
  repeat' first
    | with_reducible assumption | intro _ | with_reducible apply Sound.baseInstr | with_reducible apply SoundI.trap
    | with_reducible apply SoundOut.next

theorem Sound.execFenceSl {c : CoreId} {s : State} (h_s : Sound q s) : SoundOut q (execFenceSl c s) := by
  unfold Machine.execFenceSl
  repeat' first
    | with_reducible assumption | intro _ | with_reducible apply Sound.drainAll | with_reducible apply Sound.baseInstr
    | with_reducible apply SoundI.done | with_reducible apply SoundOut.next

theorem Sound.fenceDevBody {c : CoreId} {_b : BankId} {s : State} (h_s : Sound q s) : SoundI q (fenceDevBody c _b s)
    := by
  unfold Machine.fenceDevBody
  repeat' first
    | with_reducible assumption | with_reducible apply Sound.drainAll | with_reducible apply Sound.ite
    | with_reducible apply SoundI.ite | with_reducible apply SoundI.done | with_reducible apply SoundI.hold

theorem Sound.execFenceDev {c : CoreId} {s : State} (h_s : Sound q s) : SoundOut q (execFenceDev c s) := by
  unfold Machine.execFenceDev
  repeat' first
    | with_reducible assumption | intro _ | with_reducible apply Sound.baseInstr
    | with_reducible apply Sound.fenceDevBody | with_reducible apply SoundOut.next

theorem Sound.execFenceAll {c : CoreId} {s : State} (h_s : Sound q s) : SoundOut q (execFenceAll c s) := by
  unfold Machine.execFenceAll
  repeat' first
    | with_reducible assumption | intro _ | with_reducible apply Sound.baseInstr
    | with_reducible apply Sound.fenceDevBody | with_reducible apply SoundOut.next

theorem Sound.refetch {c : CoreId} {s : State} (h_s : Sound q s) : Sound q (refetch c s) := by
  unfold Machine.refetch
  repeat' first
    | with_reducible assumption | intro _ | with_reducible apply Sound.modCore

theorem Sound.execCsync {c : CoreId} {s : State} (h_s : Sound q s) : SoundOut q (execCsync c s) := by
  unfold Machine.execCsync
  repeat' first
    | with_reducible assumption | intro _ | with_reducible apply Sound.modCore | with_reducible apply Sound.baseInstr
    | with_reducible apply Sound.refetch | with_reducible apply SoundI.done | with_reducible apply SoundOut.next

theorem Sound.execIsync {c : CoreId} {s : State} (h_s : Sound q s) : SoundOut q (execIsync c s) := by
  unfold Machine.execIsync
  repeat' first
    | with_reducible assumption | intro _ | with_reducible apply Sound.baseInstr | with_reducible apply Sound.refetch
    | with_reducible apply SoundI.done | with_reducible apply SoundOut.next

theorem Sound.execCtlr {c : CoreId} {d ctl : Reg} {s : State} (h_s : Sound q s) : SoundOut q (execCtlr c d ctl s) :=
    by
  unfold Machine.execCtlr
  repeat' first
    | with_reducible assumption | intro _ | with_reducible apply Sound.setG | with_reducible apply Sound.runInstr
    | with_reducible apply Sound.ite | with_reducible apply SoundI.done | with_reducible apply SoundI.trap
    | with_reducible apply SoundOut.next | dsimp only | split

theorem Sound.execCtlw {c : CoreId} {ctl a : Reg} {s : State} (h_s : Sound q s) : SoundOut q (execCtlw c ctl a s) :=
    by
  unfold Machine.execCtlw
  repeat' first
    | with_reducible assumption | intro _ | with_reducible apply Sound.modCore | with_reducible apply Sound.runInstr
    | with_reducible apply Sound.ite | with_reducible apply SoundI.done | with_reducible apply SoundI.trap
    | with_reducible apply SoundOut.next | dsimp only | split

theorem Sound.privInstr {c : CoreId} {body : BankId → State → IRes} {s : State} (h_body : ∀ y0 y1, Sound q y1 → SoundI
    q (body y0 y1)) (h_s : Sound q s) : Sound q (privInstr c body s) := by
  unfold Machine.privInstr
  repeat' first
    | with_reducible assumption | intro _ | with_reducible apply Sound.runInstr

theorem Sound.execTret {c : CoreId} {s : State} (h_s : Sound q s) : SoundOut q (execTret c s) := by
  unfold Machine.execTret
  repeat' first
    | with_reducible assumption | intro _ | with_reducible apply Sound.trapReturn
    | with_reducible apply Sound.nestReturn | with_reducible apply Sound.privInstr | with_reducible apply Sound.ite
    | with_reducible apply SoundI.trap | with_reducible apply SoundI.hold | with_reducible apply SoundI.own
    | with_reducible apply SoundOut.next | dsimp only | split

theorem Sound.execQuar {c : CoreId} {s : State} (h_s : Sound q s) : SoundOut q (execQuar c s) := by
  unfold Machine.execQuar
  repeat' first
    | with_reducible assumption | intro _ | with_reducible apply Sound.quarantine
    | with_reducible apply Sound.runInstr | with_reducible apply SoundI.hold | with_reducible apply SoundI.own
    | with_reducible apply SoundOut.next | dsimp only | split

theorem Sound.execMsync {c : CoreId} {s : State} (h_s : Sound q s) : SoundOut q (execMsync c s) := by
  unfold Machine.execMsync
  repeat' first
    | with_reducible assumption | intro _ | with_reducible apply Sound.requestActivation
    | with_reducible apply Sound.modCore | with_reducible apply Sound.privInstr | with_reducible apply SoundI.hold
    | with_reducible apply SoundOut.next

theorem Sound.execTlbins {c : CoreId} {a b : Reg} {s : State} (h_s : Sound q s) : SoundOut q (execTlbins c a b s) :=
    by
  unfold Machine.execTlbins
  repeat' first
    | with_reducible assumption | intro _ | with_reducible apply Sound.setCore | with_reducible apply Sound.privInstr
    | with_reducible apply SoundI.done | with_reducible apply SoundOut.next

theorem Sound.execTlbset {c : CoreId} {d a b : Reg} {s : State} (h_s : Sound q s) : SoundOut q (execTlbset c d a b s)
    := by
  unfold Machine.execTlbset
  repeat' first
    | with_reducible assumption | intro _ | with_reducible apply Sound.setCore | with_reducible apply Sound.privInstr
    | with_reducible apply SoundI.done | with_reducible apply SoundOut.next

theorem Sound.execTlbrd {c : CoreId} {d a : Reg} {s : State} (h_s : Sound q s) : SoundOut q (execTlbrd c d a s) := by
  unfold Machine.execTlbrd
  repeat' first
    | with_reducible assumption | intro _ | with_reducible apply Sound.setG | with_reducible apply Sound.privInstr
    | with_reducible apply SoundI.done | with_reducible apply SoundOut.next

theorem Sound.execTlbfind {c : CoreId} {d a : Reg} {s : State} (h_s : Sound q s) : SoundOut q (execTlbfind c d a s) :=
    by
  unfold Machine.execTlbfind
  repeat' first
    | with_reducible assumption | intro _ | with_reducible apply Sound.setG | with_reducible apply Sound.privInstr
    | with_reducible apply SoundI.done | with_reducible apply SoundOut.next

theorem Sound.invalidateOn {s : State} {c : CoreId} {bcast : Bool} {p : TlbEntry → Bool} (h_s : Sound q s) : Sound q
    (invalidateOn s c bcast p) := by
  unfold Machine.invalidateOn
  repeat' first
    | with_reducible assumption | intro _ | with_reducible apply Sound.modCore | with_reducible apply Sound.ite
    | fail_if_no_progress with_reducible apply Sound.upd

theorem Sound.execTlbiv {c : CoreId} {a : Reg} {bcast : Bool} {s : State} (h_s : Sound q s) : SoundOut q (execTlbiv c
    a bcast s) := by
  unfold Machine.execTlbiv
  repeat' first
    | with_reducible assumption | intro _ | with_reducible apply Sound.privInstr
    | with_reducible apply Sound.invalidateOn | with_reducible apply SoundI.done | with_reducible apply SoundOut.next

theorem Sound.execTlbia {c : CoreId} {a : Reg} {bcast : Bool} {s : State} (h_s : Sound q s) : SoundOut q (execTlbia c
    a bcast s) := by
  unfold Machine.execTlbia
  repeat' first
    | with_reducible assumption | intro _ | with_reducible apply Sound.privInstr
    | with_reducible apply Sound.invalidateOn | with_reducible apply SoundI.done | with_reducible apply SoundOut.next

theorem Sound.execFkset {c : CoreId} {a b : Reg} {s : State} (h_s : Sound q s) : SoundOut q (execFkset c a b s) := by
  unfold Machine.execFkset
  repeat' first
    | with_reducible assumption | intro _ | with_reducible apply Sound.modCore | with_reducible apply Sound.privInstr
    | with_reducible apply Sound.ite | with_reducible apply SoundI.done | with_reducible apply SoundI.hold
    | with_reducible apply SoundOut.next | fail_if_no_progress with_reducible apply Sound.upd | dsimp only | split

theorem Sound.execFkget {c : CoreId} {d a : Reg} {s : State} (h_s : Sound q s) : SoundOut q (execFkget c d a s) := by
  unfold Machine.execFkget
  repeat' first
    | with_reducible assumption | intro _ | with_reducible apply Sound.setG | with_reducible apply Sound.privInstr
    | with_reducible apply SoundI.done | with_reducible apply SoundOut.next

theorem Sound.retireWait {s : State} {c : CoreId} (h_s : Sound q s) : Sound q (retireWait s c) := by
  unfold Machine.retireWait
  repeat' first
    | with_reducible assumption | intro _ | with_reducible apply Sound.modCore | with_reducible apply Sound.advancePc
    | fail_if_no_progress with_reducible apply Sound.upd | dsimp only | split

theorem Sound.execTlbsync {c : CoreId} {s : State} (h_s : Sound q s) : SoundOut q (execTlbsync c s) := by
  unfold Machine.execTlbsync
  repeat' first
    | with_reducible assumption | intro _ | with_reducible apply Sound.modCore | with_reducible apply Sound.privInstr
    | with_reducible apply Sound.ite | with_reducible apply SoundI.done | with_reducible apply SoundI.hold
    | with_reducible apply SoundOut.next | fail_if_no_progress with_reducible apply Sound.upd | dsimp only | split

theorem Sound.retireTlbsync {s : State} {c : CoreId} (h_s : Sound q s) : Sound q (retireTlbsync s c) := by
  unfold Machine.retireTlbsync
  repeat' first
    | with_reducible assumption | with_reducible apply Sound.retireWait | with_reducible apply Sound.ite

theorem Sound.settleSyncs {s : State} (h_s : Sound q s) : Sound q (settleSyncs s) := by
  unfold Machine.settleSyncs
  repeat' first
    | with_reducible assumption | intro _ | with_reducible apply Sound.retireTlbsync
    | with_reducible apply Sound.foldl

theorem Sound.settleFetch {s : State} {c : CoreId} {pa : ℕ} (h_s : Sound q s) : Sound q (settleFetch s c pa) := by
  unfold Machine.settleFetch
  repeat' first
    | with_reducible assumption | intro _ | with_reducible apply Sound.drainAll | with_reducible apply Sound.ite

theorem Sound.fetchWord {s : State} {c : CoreId} {b : BankId} {va : ℕ} (h_s : Sound q s) : Sound q ((fetchWord s c b
    va).2) := by
  unfold Machine.fetchWord
  repeat' first
    | with_reducible assumption | with_reducible apply Sound.l1Access | with_reducible apply Sound.markUse
    | with_reducible apply Sound.windowBytes | with_reducible apply Sound.settleFetch | with_reducible apply Sound.ite
    | dsimp only | split

theorem Sound.execInstructionFetch {c : CoreId} {s : State} (h_s : Sound q s) : SoundOut q (execInstructionFetch c s)
    := by
  unfold Machine.execInstructionFetch
  repeat' first
    | with_reducible assumption | intro _ | with_reducible apply Sound.modCore | with_reducible apply Sound.fetchWord
    | with_reducible apply Sound.ite | with_reducible apply SoundOut.next
    | fail_if_no_progress with_reducible apply Sound.upd | dsimp only | split
    | with_reducible refine Sound.of_snd ?_ (by assumption)

theorem Sound.execStoreDrain {c : CoreId} {s : State} (h_s : Sound q s) : SoundOut q (execStoreDrain c s) := by
  unfold Machine.execStoreDrain
  repeat' first
    | with_reducible assumption | with_reducible apply Sound.drainHead | with_reducible apply Sound.settleSyncs
    | with_reducible apply SoundOut.next

theorem Sound.countHostError {s : State} {host : Bool} (h_s : Sound q s) : Sound q (countHostError s host) := by
  unfold Machine.countHostError
  repeat' first
    | with_reducible assumption | with_reducible apply Sound.bump | with_reducible apply Sound.ite

theorem Sound.execAsyncMchk {c : CoreId} {s : State} (h_s : Sound q s) : SoundOut q (execAsyncMchk c s) := by
  unfold Machine.execAsyncMchk
  repeat' first
    | with_reducible assumption | intro _ | with_reducible apply Sound.modCore | with_reducible apply Sound.trapMchk
    | with_reducible apply Sound.settleSyncs | with_reducible apply Sound.countHostError
    | with_reducible apply SoundOut.next | fail_if_no_progress with_reducible apply Sound.upd | dsimp only | split

theorem Sound.execAccessTimeout {c : CoreId} {addr : Word} {s : State} (h_s : Sound q s) : SoundOut q
    (execAccessTimeout c addr s) := by
  unfold Machine.execAccessTimeout
  repeat' first
    | with_reducible assumption | intro _ | with_reducible apply Sound.modCore | with_reducible apply Sound.trapMchk
    | with_reducible apply Sound.settleSyncs | with_reducible apply Sound.countHostError
    | with_reducible apply SoundOut.next | fail_if_no_progress with_reducible apply Sound.upd | dsimp only | split

theorem Sound.execIllegalInstruction {c : CoreId} {w0 w1 : BitVec 32} {s : State} (h_s : Sound q s) : SoundOut q
    (execIllegalInstruction c w0 w1 s) := by
  unfold Machine.execIllegalInstruction
  repeat' first
    | with_reducible assumption | intro _ | with_reducible apply Sound.runInstr | with_reducible apply Sound.ite
    | with_reducible apply SoundI.hold | with_reducible apply SoundOut.next

/-! ## Caller -/

theorem Sound.bindInto {s : State} {t : Txn} {c : CoreId} {b : BankId} (h_s : Sound q s) : Sound q (bindInto s t c b)
    := by
  unfold Machine.bindInto
  repeat' first
    | with_reducible assumption | intro _ | with_reducible apply Sound.modCore | with_reducible apply Sound.modTxn
    | with_reducible apply Sound.tileWrite

theorem Sound.execBind {t : TileId} {s : State} (h_s : Sound q s) : SoundOut q (execBind t s) := by
  unfold Machine.execBind
  repeat' first
    | with_reducible assumption | with_reducible apply Sound.bump | with_reducible apply Sound.endRun
    | with_reducible apply Sound.bindInto | with_reducible apply Sound.ite | with_reducible apply SoundOut.next
    | dsimp only | split

theorem Sound.execCallerStop {c : CoreId} {s : State} (h_s : Sound q s) : SoundOut q (execCallerStop c s) := by
  unfold Machine.execCallerStop
  repeat' first
    | with_reducible assumption | intro _ | with_reducible apply Sound.modCore | with_reducible apply Sound.ite
    | with_reducible apply SoundOut.next

theorem Sound.execTimerExpiry {c : CoreId} {b : BankId} {s : State} (h_s : Sound q s) : SoundOut q (execTimerExpiry c
    b s) := by
  unfold Machine.execTimerExpiry
  repeat' first
    | with_reducible assumption | with_reducible apply Sound.wake | with_reducible apply Sound.ite
    | with_reducible apply SoundOut.next | dsimp only | split

theorem Sound.execWaitt {c : CoreId} {a : Reg} {s : State} (h_s : Sound q s) : SoundOut q (execWaitt c a s) := by
  unfold Machine.execWaitt
  repeat' first
    | with_reducible assumption | intro _ | with_reducible apply Sound.baseInstr | with_reducible apply Sound.blockOn
    | with_reducible apply Sound.ite | with_reducible apply SoundI.trap | with_reducible apply SoundI.own
    | with_reducible apply SoundOut.next | dsimp only | split

theorem Sound.cutOffTxn {s : State} {t : Txn} {reason : ℕ} (h_s : Sound q s) : Sound q (cutOffTxn s t reason) := by
  unfold Machine.cutOffTxn
  repeat' first
    | with_reducible assumption | with_reducible apply Sound.endRun | with_reducible apply Sound.cutOff | dsimp only
    | split

theorem Sound.execDeadlineAlarm {an : ℕ} {s : State} (h_s : Sound q s) : SoundOut q (execDeadlineAlarm an s) := by
  unfold Machine.execDeadlineAlarm
  repeat' first
    | with_reducible assumption | with_reducible apply Sound.cutOffTxn | with_reducible apply Sound.ite
    | with_reducible apply SoundOut.next | dsimp only | split

theorem Sound.execBudgetExceeded {c : CoreId} {b : BankId} {s : State} (h_s : Sound q s) : SoundOut q
    (execBudgetExceeded c b s) := by
  unfold Machine.execBudgetExceeded
  repeat' first
    | with_reducible assumption | with_reducible apply Sound.cutOff | with_reducible apply Sound.ite
    | with_reducible apply SoundOut.next | dsimp only | split

theorem Sound.execBoundaryResponse {c : CoreId} {b : BankId} {k : Boundary} {s : State} (h_s : Sound q s) : SoundOut q
    (execBoundaryResponse c b k s) := by
  unfold Machine.execBoundaryResponse
  repeat' first
    | with_reducible assumption | with_reducible apply Sound.endIfOwned | with_reducible apply Sound.ite
    | with_reducible apply SoundOut.next | dsimp only | split

theorem Sound.boundaryReset {s : State} {p : CoreId × BankId} (h_s : Sound q s) : Sound q (boundaryReset s p) := by
  unfold Machine.boundaryReset
  repeat' first
    | with_reducible assumption | with_reducible apply Sound.endIfOwned | with_reducible apply Sound.ite | dsimp only
    | split

theorem Sound.execMachineCheck {c : CoreId} {b : BankId} {s : State} (h_s : Sound q s) : SoundOut q (execMachineCheck
    c b s) := by
  unfold Machine.execMachineCheck
  repeat' first
    | with_reducible assumption | intro _ | with_reducible apply Sound.endIfOwned | with_reducible apply Sound.ite
    | with_reducible apply SoundOut.next | fail_if_no_progress with_reducible apply Sound.upd | dsimp only | split

theorem Sound.execBank15Timeout {c : CoreId} {s : State} (h_s : Sound q s) : SoundOut q (execBank15Timeout c s) := by
  unfold Machine.execBank15Timeout
  repeat' first
    | with_reducible assumption | with_reducible apply Sound.quarantine | with_reducible apply Sound.ite
    | with_reducible apply SoundOut.next | dsimp only | split

theorem Sound.faultStop {s : State} {c : CoreId} (h_s : Sound q s) : Sound q (faultStop s c) := by
  unfold Machine.faultStop
  repeat' first
    | with_reducible assumption | intro _ | with_reducible apply Sound.setF | with_reducible apply Sound.report
    | with_reducible apply Sound.modCore | with_reducible apply Sound.l1Empty | with_reducible apply Sound.faultHold
    | with_reducible apply Sound.startTest | with_reducible apply Sound.ite
    | fail_if_no_progress with_reducible apply Sound.upd

theorem Sound.execCoreFaultStop {c : CoreId} {s : State} (h_s : Sound q s) : SoundOut q (execCoreFaultStop c s) := by
  unfold Machine.execCoreFaultStop
  repeat' first
    | with_reducible assumption | with_reducible apply Sound.faultStop | with_reducible apply SoundOut.next

theorem Sound.execMicrocodeWatchdog {c : CoreId} {s : State} (h_s : Sound q s) : SoundOut q (execMicrocodeWatchdog c
    s) := by
  unfold Machine.execMicrocodeWatchdog
  repeat' first
    | with_reducible assumption | with_reducible apply Sound.faultStop | with_reducible apply SoundOut.next
    | dsimp only | split

theorem Sound.execWaitBoundExpiry {c : CoreId} {code : Fin 7} {addr : Word} {s : State} (h_s : Sound q s) : SoundOut q
    (execWaitBoundExpiry c code addr s) := by
  unfold Machine.execWaitBoundExpiry
  repeat' first
    | with_reducible assumption | with_reducible apply Sound.trapMchk | with_reducible apply Sound.faultStop
    | with_reducible apply Sound.ite | with_reducible apply SoundOut.next | dsimp only | split

theorem Sound.execControlStoreScrub {c : CoreId} {word : ℕ} {e : EccState} {s : State} (h_s : Sound q s) : SoundOut q
    (execControlStoreScrub c word e s) := by
  unfold Machine.execControlStoreScrub
  repeat' first
    | with_reducible assumption | with_reducible apply Sound.report | with_reducible apply Sound.faultStop
    | with_reducible apply Sound.ite | with_reducible apply SoundOut.next | dsimp only | split

/-! ## LedgerOps -/

theorem Sound.issueOp {s : State} {r : LReq} (h_s : Sound q s) : Sound q (issueOp s r) := by
  unfold Machine.issueOp
  repeat' first
    | with_reducible assumption | with_reducible apply Sound.mpuSettled | with_reducible apply Sound.kolRequest
    | with_reducible apply Sound.refuseOp | with_reducible apply Sound.requestLock | with_reducible apply Sound.ite
    | fail_if_no_progress with_reducible apply Sound.upd | dsimp only | split
    | with_reducible refine Sound.of_some ?_ (by assumption)

theorem Sound.peekRead {s : State} {c : CoreId} {b : BankId} {gk klen : ℕ} (h_s : Sound q s) : InO (fun r => Sound q
    r.2) (peekRead s c b gk klen) := by
  unfold Machine.peekRead
  repeat' first
    | with_reducible assumption | with_reducible apply Sound.readParts | with_reducible exact InO.none
    | with_reducible apply InO.some | dsimp only | split

theorem Sound.peekAsks {s : State} {c : CoreId} {b : BankId} {gk klen : ℕ} (h_s : Sound q s) : InO (fun r => Sound q
    r) (peekAsks s c b gk klen) := by
  unfold Machine.peekAsks
  repeat' first
    | with_reducible assumption | with_reducible apply Sound.peekRead | with_reducible apply Sound.ite
    | with_reducible exact InO.none | with_reducible apply InO.some | dsimp only | split
    | with_reducible refine Sound.of_some2 ?_ (by assumption)

theorem Sound.ledgerRead {s : State} {c : CoreId} {op : LOp} {kp bp : List (Phys × ℕ)} (h_s : Sound q s) : Sound q
    ((ledgerRead s c op kp bp).2.2) := by
  unfold Machine.ledgerRead
  repeat' first
    | with_reducible assumption | with_reducible apply Sound.readParts | with_reducible apply Sound.ite | dsimp only
    | split

theorem Sound.ledgerIssue {c : CoreId} {b : BankId} {op : LOp} {bench : ℕ} {t : Txn} {kp bp : List (Phys × ℕ)} {s :
    State} (h_s : Sound q s) : Sound q (ledgerIssue c b op bench t kp bp s) := by
  unfold Machine.ledgerIssue
  repeat' first
    | with_reducible assumption | intro _ | with_reducible apply Sound.modTxn | with_reducible apply Sound.markParts
    | with_reducible apply Sound.blockOn | with_reducible apply Sound.cutOff | with_reducible apply Sound.issueOp
    | with_reducible apply Sound.ledgerRead | with_reducible apply Sound.ite

theorem Sound.ledgerBody {op : LOp} {c : CoreId} {r k n : Reg} {b : BankId} {s : State} (h_s : Sound q s) : SoundI q
    (ledgerBody op c r k n b s) := by
  unfold Machine.ledgerBody
  repeat' first
    | with_reducible assumption | with_reducible apply Sound.peekAsks | with_reducible apply Sound.ledgerRead
    | with_reducible apply Sound.ledgerIssue | with_reducible apply Sound.ite | with_reducible apply SoundI.ite
    | with_reducible apply SoundI.trap | with_reducible apply SoundI.hold | with_reducible apply SoundI.own
    | dsimp only | split | with_reducible refine Sound.of_some ?_ (by assumption)

theorem Sound.execLdl {c : CoreId} {r k n : Reg} {s : State} (h_s : Sound q s) : SoundOut q (execLdl c r k n s) := by
  unfold Machine.execLdl
  repeat' first
    | with_reducible assumption | intro _ | with_reducible apply Sound.baseInstr
    | with_reducible apply Sound.ledgerBody | with_reducible apply SoundOut.next

theorem Sound.execLdlu {c : CoreId} {r k n : Reg} {s : State} (h_s : Sound q s) : SoundOut q (execLdlu c r k n s) :=
    by
  unfold Machine.execLdlu
  repeat' first
    | with_reducible assumption | intro _ | with_reducible apply Sound.baseInstr
    | with_reducible apply Sound.ledgerBody | with_reducible apply SoundOut.next

theorem Sound.execStl {c : CoreId} {r k n : Reg} {s : State} (h_s : Sound q s) : SoundOut q (execStl c r k n s) := by
  unfold Machine.execStl
  repeat' first
    | with_reducible assumption | intro _ | with_reducible apply Sound.baseInstr
    | with_reducible apply Sound.ledgerBody | with_reducible apply SoundOut.next

theorem Sound.execDel {c : CoreId} {k n : Reg} {s : State} (h_s : Sound q s) : SoundOut q (execDel c k n s) := by
  unfold Machine.execDel
  repeat' first
    | with_reducible assumption | intro _ | with_reducible apply Sound.baseInstr
    | with_reducible apply Sound.ledgerBody | with_reducible apply SoundOut.next

theorem Sound.copyResponse {s : State} {t : Txn} (h_s : Sound q s) : Sound q (copyResponse s t) := by
  unfold Machine.copyResponse
  repeat' first
    | with_reducible assumption | with_reducible apply Sound.wr | dsimp only | split

theorem Sound.sendPrepares {s : State} {t : Txn} (h_s : Sound q s) : Sound q (sendPrepares s t) := by
  unfold Machine.sendPrepares
  repeat' first
    | with_reducible assumption | intro _ | with_reducible apply Sound.kolRequest | with_reducible apply Sound.ite
    | with_reducible apply Sound.foldl | with_reducible apply Sound.foldl2
    | fail_if_no_progress with_reducible apply Sound.upd

theorem Sound.commitRetire {c : CoreId} {b : BankId} {t : Txn} {s : State} (h_s : Sound q s) : Sound q (commitRetire c
    b t s) := by
  unfold Machine.commitRetire
  repeat' first
    | with_reducible assumption | intro _ | with_reducible apply Sound.modTxn | with_reducible apply Sound.settleRun
    | with_reducible apply Sound.blockOn | with_reducible apply Sound.copyResponse
    | with_reducible apply Sound.sendPrepares

theorem Sound.execCommit {c : CoreId} {s : State} (h_s : Sound q s) : SoundOut q (execCommit c s) := by
  unfold Machine.execCommit
  repeat' first
    | with_reducible assumption | intro _ | with_reducible apply Sound.baseInstr
    | with_reducible apply Sound.commitRetire | with_reducible apply Sound.ite | with_reducible apply SoundI.trap
    | with_reducible apply SoundI.hold | with_reducible apply SoundI.own | with_reducible apply SoundOut.next
    | dsimp only | split

theorem Sound.execAbort {c : CoreId} {a : Reg} {s : State} (h_s : Sound q s) : SoundOut q (execAbort c a s) := by
  unfold Machine.execAbort
  repeat' first
    | with_reducible assumption | intro _ | with_reducible apply Sound.bump | with_reducible apply Sound.reportCycles
    | with_reducible apply Sound.endRun | with_reducible apply Sound.baseInstr | with_reducible apply Sound.ite
    | with_reducible apply SoundI.trap | with_reducible apply SoundI.hold | with_reducible apply SoundI.own
    | with_reducible apply SoundOut.next | dsimp only | split

theorem Sound.writeBuffer {s : State} {c : CoreId} {i : Initiator} {x3 : List (ℕ × ℕ)} {x4 : List Byte} (h_s : Sound q
    s) : Sound q (writeBuffer s c i x3 x4) := by
  unfold Machine.writeBuffer
  repeat' first
    | with_reducible assumption | with_reducible apply Sound.writeBuffer | with_reducible apply Sound.appendAdvance
    | with_reducible apply Sound.hwWrite | dsimp only | split

theorem Sound.respond {s0 : State} {r : LReq} {node : ℕ} {a : LAns} (h_s0 : Sound q s0) : Sound q (respond s0 r node
    a) := by
  unfold Machine.respond
  repeat' first
    | with_reducible assumption | intro _ | with_reducible apply Sound.modTxn | with_reducible apply Sound.wake
    | with_reducible apply Sound.setCC | with_reducible apply Sound.storeLog | with_reducible apply Sound.settleRun
    | with_reducible apply Sound.writeBuffer | with_reducible apply Sound.ite
    | fail_if_no_progress with_reducible apply Sound.upd | dsimp only | split

theorem Sound.localAct {s0 : State} {r : LReq} (h_s0 : Sound q s0) : Sound q (localAct s0 r) := by
  unfold Machine.localAct
  repeat' first
    | with_reducible assumption | with_reducible apply Sound.bump | with_reducible apply Sound.endIfOwned
    | with_reducible apply Sound.wake | with_reducible apply Sound.setCC | with_reducible apply Sound.ledgerAct
    | with_reducible apply Sound.refuseOp | with_reducible apply Sound.undoLock | with_reducible apply Sound.regrant
    | with_reducible apply Sound.settleRun | with_reducible apply Sound.respond | with_reducible apply Sound.ite
    | dsimp only | split | with_reducible refine Sound.of_some ?_ (by assumption)

theorem Sound.execLedgerResponse {c : CoreId} {b : BankId} {s : State} (h_s : Sound q s) : SoundOut q
    (execLedgerResponse c b s) := by
  unfold Machine.execLedgerResponse
  repeat' first
    | with_reducible assumption | intro _ | with_reducible apply Sound.mpuSettled | with_reducible apply Sound.wake
    | with_reducible apply Sound.setCC | with_reducible apply Sound.dropLReq | with_reducible apply Sound.localAct
    | with_reducible apply Sound.ite | with_reducible apply SoundOut.next | dsimp only | split

theorem Sound.woundRun {s : State} {an run : ℕ} (h_s : Sound q s) : Sound q (woundRun s an run) := by
  unfold Machine.woundRun
  repeat' first
    | with_reducible assumption | with_reducible apply Sound.bump | with_reducible apply Sound.endRun
    | with_reducible apply Sound.ite | dsimp only | split

theorem Sound.execWound {c : CoreId} {b : BankId} {s : State} (h_s : Sound q s) : SoundOut q (execWound c b s) := by
  unfold Machine.execWound
  repeat' first
    | with_reducible assumption | intro _ | with_reducible apply Sound.woundRun | with_reducible apply Sound.ite
    | with_reducible apply SoundOut.next | fail_if_no_progress with_reducible apply Sound.upd | dsimp only | split

theorem Sound.sendRelease {s : State} {an deadline tag : ℕ} {ns : List ℕ} (h_s : Sound q s) : Sound q (sendRelease s
    an deadline tag ns) := by
  unfold Machine.sendRelease
  repeat' first
    | with_reducible assumption | intro _ | with_reducible apply Sound.kolSendAll

theorem Sound.releaseEnded {s : State} {e : EndedRun} (h_s : Sound q s) : Sound q (releaseEnded s e) := by
  unfold Machine.releaseEnded
  repeat' first
    | with_reducible assumption | intro _ | with_reducible apply Sound.releaseRun
    | with_reducible apply Sound.sendRelease | fail_if_no_progress with_reducible apply Sound.upd

theorem Sound.execRunEndRelease {an : ℕ} {s : State} (h_s : Sound q s) : SoundOut q (execRunEndRelease an s) := by
  unfold Machine.execRunEndRelease
  repeat' first
    | with_reducible assumption | intro _ | with_reducible apply Sound.releaseEnded | with_reducible apply Sound.foldl
    | with_reducible apply Sound.foldl2 | with_reducible apply SoundOut.next

/-! ## JournalOps -/

theorem Sound.dropPrep {s : State} {an run : ℕ} (h_s : Sound q s) : Sound q (dropPrep s an run) := by
  unfold Machine.dropPrep
  repeat' first
    | with_reducible assumption | intro _ | fail_if_no_progress with_reducible apply Sound.upd

theorem Sound.sendApply {s : State} {an run deadline tag jsn node : ℕ} (h_s : Sound q s) : Sound q (sendApply s an run
    deadline tag jsn node) := by
  unfold Machine.sendApply
  repeat' first
    | with_reducible assumption | with_reducible apply Sound.kolSend
    | fail_if_no_progress with_reducible apply Sound.upd

theorem Sound.freeContext {s : State} {t : Txn} (h_s : Sound q s) : Sound q (freeContext s t) := by
  unfold Machine.freeContext
  repeat' first
    | with_reducible assumption | intro _ | with_reducible apply Sound.modCore | dsimp only | split

theorem Sound.commitTxn {s : State} {t : Txn} (h_s : Sound q s) : Sound q (commitTxn s t) := by
  unfold Machine.commitTxn
  repeat' first
    | with_reducible assumption | intro _ | with_reducible apply Sound.bump | with_reducible apply Sound.modTxn
    | with_reducible apply Sound.countOutstanding | with_reducible apply Sound.releaseRun
    | with_reducible apply Sound.noteFull | with_reducible apply Sound.assignRec
    | with_reducible apply Sound.applyWrites | with_reducible apply Sound.dropPrep
    | with_reducible apply Sound.sendApply | with_reducible apply Sound.freeContext | with_reducible apply Sound.foldl

theorem Sound.execJsnAssignment {an : ℕ} {s : State} (h_s : Sound q s) : SoundOut q (execJsnAssignment an s) := by
  unfold Machine.execJsnAssignment
  repeat' first
    | with_reducible assumption | with_reducible apply Sound.endRun | with_reducible apply Sound.noteFull
    | with_reducible apply Sound.commitTxn | with_reducible apply Sound.ite | with_reducible apply SoundOut.next
    | dsimp only | split

theorem Sound.execRecordComplete {s : State} (h_s : Sound q s) : SoundOut q (execRecordComplete s) := by
  unfold Machine.execRecordComplete
  repeat' first
    | with_reducible assumption | with_reducible apply Sound.completeRec | with_reducible apply SoundOut.next
    | fail_if_no_progress with_reducible apply Sound.upd | dsimp only | split

theorem Sound.postEntries {x0 : List (List Byte)} {x1 : State} (h_x1 : Sound q x1) : Sound q ((postEntries x0 x1).2)
    := by
  unfold Machine.postEntries
  repeat' first
    | with_reducible assumption | with_reducible apply Sound.postEntries | with_reducible apply Sound.postBytes
    | dsimp only | split | with_reducible refine Sound.of_done ?_ (by assumption)
    | with_reducible refine Sound.of_wait ?_ (by assumption)
    | with_reducible refine Sound.of_stopped ?_ (by assumption)

theorem Sound.sendMirror {first x1 x2 : ℕ} {x3 : List Byte} {x4 : State} (h_x4 : Sound q x4) : Sound q (sendMirror
    first x1 x2 x3 x4) := by
  unfold Machine.sendMirror
  repeat' first
    | with_reducible assumption | with_reducible apply Sound.sendMirror | with_reducible apply Sound.kolSend
    | with_reducible apply Sound.ite | dsimp only | split

theorem Sound.mirrorToPeer {s : State} {g : MGroup} (h_s : Sound q s) : Sound q (mirrorToPeer s g) := by
  unfold Machine.mirrorToPeer
  repeat' first
    | with_reducible assumption | with_reducible apply Sound.sendMirror

theorem Sound.groupSent {s : State} {g : MGroup} (h_s : Sound q s) : Sound q (groupSent s g) := by
  unfold Machine.groupSent
  repeat' first
    | with_reducible assumption | intro _ | with_reducible apply Sound.hostRead | with_reducible apply Sound.ite
    | fail_if_no_progress with_reducible apply Sound.upd | dsimp only | split

theorem Sound.groupWaits {s : State} {g : MGroup} (h_s : Sound q s) : Sound q (groupWaits s g) := by
  unfold Machine.groupWaits
  repeat' first
    | with_reducible assumption | intro _ | with_reducible apply Sound.bump | with_reducible apply Sound.setF
    | with_reducible apply Sound.noteWait | with_reducible apply Sound.ite
    | fail_if_no_progress with_reducible apply Sound.upd

theorem Sound.sendGroup {s : State} {g : MGroup} (h_s : Sound q s) : Sound q (sendGroup s g) := by
  unfold Machine.sendGroup
  repeat' first
    | with_reducible assumption | with_reducible apply Sound.postEntries | with_reducible apply Sound.mirrorToPeer
    | with_reducible apply Sound.groupSent | with_reducible apply Sound.groupWaits | with_reducible apply Sound.ite
    | dsimp only | split | with_reducible refine Sound.of_snd ?_ (by assumption)

theorem Sound.closeExpired {s : State} (h_s : Sound q s) : Sound q (closeExpired s) := by
  unfold Machine.closeExpired
  repeat' first
    | with_reducible assumption | with_reducible apply Sound.closeGroup | with_reducible apply Sound.ite | dsimp only
    | split

theorem Sound.execMirrorGroupSend {s : State} (h_s : Sound q s) : SoundOut q (execMirrorGroupSend s) := by
  unfold Machine.execMirrorGroupSend
  repeat' first
    | with_reducible assumption | with_reducible apply Sound.sendGroup | with_reducible apply Sound.closeExpired
    | with_reducible apply SoundOut.next | dsimp only | split

theorem Sound.ackGroup {s : State} {g : MGroup} (h_s : Sound q s) : Sound q (ackGroup s g) := by
  unfold Machine.ackGroup
  repeat' first
    | with_reducible assumption | intro _ | with_reducible apply Sound.modTxn
    | with_reducible apply Sound.handWhenReady | with_reducible apply Sound.ite | with_reducible apply Sound.foldl
    | with_reducible apply Sound.foldl2 | fail_if_no_progress with_reducible apply Sound.upd

theorem Sound.ackTarget {s : State} {g : MGroup} {host : Bool} (h_s : Sound q s) : Sound q (ackTarget s g host) := by
  unfold Machine.ackTarget
  repeat' first
    | with_reducible assumption | intro _ | with_reducible apply Sound.ackGroup | with_reducible apply Sound.ite
    | fail_if_no_progress with_reducible apply Sound.upd

theorem Sound.execMirrorAck {m : MirrorFrom} {s : State} (h_s : Sound q s) : SoundOut q (execMirrorAck m s) := by
  unfold Machine.execMirrorAck
  repeat' first
    | with_reducible assumption | intro _ | with_reducible apply Sound.onMessage
    | with_reducible apply Sound.ackTarget | with_reducible apply Sound.ite | with_reducible apply SoundOut.next
    | dsimp only | split

theorem Sound.markLate {s : State} {g : MGroup} (h_s : Sound q s) : Sound q (markLate s g) := by
  unfold Machine.markLate
  repeat' first
    | with_reducible assumption | intro _ | with_reducible apply Sound.bump | with_reducible apply Sound.setF
    | with_reducible apply Sound.mirrorToPeer | with_reducible apply Sound.ite
    | fail_if_no_progress with_reducible apply Sound.upd

theorem Sound.execMirrorTargetTimeout {s : State} (h_s : Sound q s) : SoundOut q (execMirrorTargetTimeout s) := by
  unfold Machine.execMirrorTargetTimeout
  repeat' first
    | with_reducible assumption | intro _ | with_reducible apply Sound.markLate | with_reducible apply SoundOut.next
    | dsimp only | split

theorem Sound.areaSwitch {s : State} (h_s : Sound q s) : Sound q (areaSwitch s) := by
  unfold Machine.areaSwitch
  repeat' first
    | with_reducible assumption | with_reducible apply Sound.setF | with_reducible apply Sound.queueExport
    | with_reducible apply Sound.ite

theorem Sound.doSeam {s : State} {seam : ℕ} {t : Option KTick} (h_s : Sound q s) : Sound q (doSeam s seam t) := by
  unfold Machine.doSeam
  repeat' first
    | with_reducible assumption | intro _ | with_reducible apply Sound.setF | with_reducible apply Sound.noteFull
    | with_reducible apply Sound.headRec | with_reducible apply Sound.cascadeSeam
    | fail_if_no_progress with_reducible apply Sound.upd | dsimp only | split

theorem Sound.execEpochSeam {s : State} (h_s : Sound q s) : SoundOut q (execEpochSeam s) := by
  unfold Machine.execEpochSeam
  repeat' first
    | with_reducible assumption | with_reducible apply Sound.noteFull | with_reducible apply Sound.cascadeSeam
    | with_reducible apply Sound.areaSwitch | with_reducible apply Sound.doSeam | with_reducible apply Sound.ite
    | with_reducible apply SoundOut.next | fail_if_no_progress with_reducible apply Sound.upd | dsimp only | split

theorem Sound.modEpoch {s : State} {first : ℕ} {f : JEpoch → JEpoch} (h_s : Sound q s) : Sound q (modEpoch s first f)
    := by
  unfold Machine.modEpoch
  repeat' first
    | with_reducible assumption | intro _ | with_reducible apply Sound.ite
    | fail_if_no_progress with_reducible apply Sound.upd

theorem Sound.signNext {s : State} (h_s : Sound q s) : Sound q (signNext s) := by
  unfold Machine.signNext
  repeat' first
    | with_reducible assumption | with_reducible apply Sound.issueSign | with_reducible apply Sound.ite | dsimp only
    | split

theorem Sound.execEpochClose {s : State} (h_s : Sound q s) : SoundOut q (execEpochClose s) := by
  unfold Machine.execEpochClose
  repeat' first
    | with_reducible assumption | intro _ | with_reducible apply Sound.modEpoch | with_reducible apply Sound.signNext
    | with_reducible apply Sound.ite | with_reducible apply SoundOut.next
    | fail_if_no_progress with_reducible apply Sound.upd | dsimp only | split

theorem Sound.execStragglerTimeout {s : State} (h_s : Sound q s) : SoundOut q (execStragglerTimeout s) := by
  unfold Machine.execStragglerTimeout
  repeat' first
    | with_reducible assumption | intro _ | with_reducible apply Sound.bump | with_reducible apply Sound.setF
    | with_reducible apply Sound.modEpoch | with_reducible apply SoundOut.next
    | fail_if_no_progress with_reducible apply Sound.upd | dsimp only | split

theorem Sound.sendSeal {s : State} {e : JEpoch} {bs : List Byte} (h_s : Sound q s) : Sound q (sendSeal s e bs) := by
  unfold Machine.sendSeal
  repeat' first
    | with_reducible assumption | with_reducible apply Sound.kolSend | with_reducible apply Sound.ite
    | fail_if_no_progress with_reducible apply Sound.upd | dsimp only | split

theorem Sound.noteSeal {s : State} {e : JEpoch} {bs : List Byte} (h_s : Sound q s) : Sound q (noteSeal s e bs) := by
  unfold Machine.noteSeal
  repeat' first
    | with_reducible assumption | intro _ | with_reducible apply Sound.bump | with_reducible apply Sound.modEpoch
    | fail_if_no_progress with_reducible apply Sound.upd

theorem Sound.exportSeal {s : State} {e : JEpoch} (h_s : Sound q s) : Sound q (exportSeal s e) := by
  unfold Machine.exportSeal
  repeat' first
    | with_reducible assumption | with_reducible apply Sound.queueExport | dsimp only | split

theorem Sound.finishSeal {s : State} {e : JEpoch} {bs : List Byte} (h_s : Sound q s) : Sound q (finishSeal s e bs) :=
    by
  unfold Machine.finishSeal
  repeat' first
    | with_reducible assumption | with_reducible apply Sound.noteFull | with_reducible apply Sound.assignRec
    | with_reducible apply Sound.signNext | with_reducible apply Sound.sendSeal | with_reducible apply Sound.noteSeal
    | with_reducible apply Sound.exportSeal | with_reducible apply Sound.ite
    | fail_if_no_progress with_reducible apply Sound.upd

theorem Sound.execSealComplete {s : State} (h_s : Sound q s) : SoundOut q (execSealComplete s) := by
  unfold Machine.execSealComplete
  repeat' first
    | with_reducible assumption | intro _ | with_reducible apply Sound.setF | with_reducible apply Sound.dropJob
    | with_reducible apply Sound.noteFull | with_reducible apply Sound.modEpoch
    | with_reducible apply Sound.finishSeal | with_reducible apply Sound.ite | with_reducible apply SoundOut.next
    | fail_if_no_progress with_reducible apply Sound.upd | dsimp only | split

theorem Sound.execSealRetry {s : State} (h_s : Sound q s) : SoundOut q (execSealRetry s) := by
  unfold Machine.execSealRetry
  repeat' first
    | with_reducible assumption | intro _ | with_reducible apply Sound.modEpoch | with_reducible apply Sound.signNext
    | with_reducible apply Sound.ite | with_reducible apply SoundOut.next
    | fail_if_no_progress with_reducible apply Sound.upd | dsimp only | split

theorem Sound.nextExport {s : State} (h_s : Sound q s) : InO (fun r => Sound q r.2) (nextExport s) := by
  unfold Machine.nextExport
  repeat' first
    | with_reducible assumption | intro _ | with_reducible apply Sound.modEpoch | with_reducible apply Sound.ite
    | with_reducible exact InO.none | with_reducible apply InO.some | with_reducible refine InO.mapAll ?_
    | fail_if_no_progress with_reducible apply Sound.upd | dsimp only | split

theorem Sound.execExportPost {s : State} (h_s : Sound q s) : SoundOut q (execExportPost s) := by
  unfold Machine.execExportPost
  repeat' first
    | with_reducible assumption | with_reducible apply Sound.postBytes | with_reducible apply Sound.nextExport
    | with_reducible apply SoundOut.next | fail_if_no_progress with_reducible apply Sound.upd | dsimp only | split
    | with_reducible refine Sound.of_done ?_ (by assumption) | with_reducible refine Sound.of_wait ?_ (by assumption)
    | with_reducible refine Sound.of_stopped ?_ (by assumption)
    | with_reducible refine Sound.of_some2 ?_ (by assumption)

theorem Sound.formGseal {s : State} {w : GWait} (h_s : Sound q s) : Sound q (formGseal s w) := by
  unfold Machine.formGseal
  repeat' first
    | with_reducible assumption | intro _ | with_reducible apply Sound.issueSign | with_reducible apply Sound.ite
    | fail_if_no_progress with_reducible apply Sound.upd

theorem Sound.execGsealWaitExpiry {s : State} (h_s : Sound q s) : SoundOut q (execGsealWaitExpiry s) := by
  unfold Machine.execGsealWaitExpiry
  repeat' first
    | with_reducible assumption | intro _ | with_reducible apply Sound.finishGseal
    | with_reducible apply Sound.formGseal | with_reducible apply Sound.ite | with_reducible apply SoundOut.next
    | dsimp only | split

theorem Sound.takeGseal {s : State} {bs : List Byte} (h_s : Sound q s) : Sound q (takeGseal s bs) := by
  unfold Machine.takeGseal
  repeat' first
    | with_reducible assumption | with_reducible apply Sound.noteFull | with_reducible apply Sound.assignRec
    | with_reducible apply Sound.ite | fail_if_no_progress with_reducible apply Sound.upd

theorem Sound.execGseal {h : KHdr} {bytes : List Byte} {s : State} (h_s : Sound q s) : SoundOut q (execGseal h bytes
    s) := by
  unfold Machine.execGseal
  repeat' first
    | with_reducible assumption | intro _ | with_reducible apply Sound.onMessage
    | with_reducible apply Sound.takeGseal | with_reducible apply SoundOut.next

theorem Sound.execSealMessage {h : KHdr} {gepoch : ℕ} {bytes : List Byte} {s : State} (h_s : Sound q s) : SoundOut q
    (execSealMessage h gepoch bytes s) := by
  unfold Machine.execSealMessage
  repeat' first
    | with_reducible assumption | intro _ | with_reducible apply Sound.onMessage | with_reducible apply Sound.ite
    | with_reducible apply SoundOut.next | fail_if_no_progress with_reducible apply Sound.upd

end Sys2Proof.Laws
end

