-- ==== Sys2Proof/Laws/KeepsTxns.lean ====
section
/-! SUPPORT. One lemma for each operation of KolMsgs, Admission, NetRecv, NetAdmin, Admin, Standin, under its name: the operation keeps
the queue of commands and the canonical forms of the maps. -/

namespace Sys2Proof.Laws

open Sys2Proof Sys2Proof.Machine

variable {q : List Instr}

/-! ## KolMsgs -/

theorem Sound.reportOrphan {s : State} {an : ℕ} (h_s : Sound q s) : Sound q (reportOrphan s an) := by
  unfold Machine.reportOrphan
  repeat' first
    | with_reducible assumption | with_reducible apply Sound.setF | with_reducible apply Sound.queueExc

theorem Sound.freeRsv {s : State} {an run : ℕ} (h_s : Sound q s) : Sound q (freeRsv s an run) := by
  unfold Machine.freeRsv
  repeat' first
    | with_reducible assumption | intro _ | with_reducible apply Sound.releaseRun
    | fail_if_no_progress with_reducible apply Sound.upd

theorem Sound.nodeAbsent {s : State} {n : ℕ} (h_s : Sound q s) : Sound q (nodeAbsent s n) := by
  unfold Machine.nodeAbsent
  repeat' first
    | with_reducible assumption | intro _ | with_reducible apply Sound.reportOrphan
    | with_reducible apply Sound.freeRsv | with_reducible apply Sound.foldl

theorem Sound.noteAbsences {before s : State} (h_before : Sound q before) (h_s : Sound q s) : Sound q (noteAbsences
    before s) := by
  unfold Machine.noteAbsences
  repeat' first
    | with_reducible assumption | intro _ | with_reducible apply Sound.nodeAbsent | with_reducible apply Sound.foldl

theorem Sound.sendLinkstate {s : State} {bond : ℕ} {recovered : Bool} (h_s : Sound q s) : Sound q (sendLinkstate s
    bond recovered) := by
  unfold Machine.sendLinkstate
  repeat' first
    | with_reducible assumption | intro _ | with_reducible apply Sound.kolSendAll

theorem Sound.failKport {s : State} {p : Fin 8} (h_s : Sound q s) : Sound q (failKport s p) := by
  unfold Machine.failKport
  repeat' first
    | with_reducible assumption | intro _ | with_reducible apply Sound.setF | with_reducible apply Sound.report
    | with_reducible apply Sound.faultHold | with_reducible apply Sound.modPort
    | with_reducible apply Sound.noteAbsences | with_reducible apply Sound.sendLinkstate
    | with_reducible apply Sound.ite | fail_if_no_progress with_reducible apply Sound.upd

theorem Sound.resendFrom {s : State} {p : Fin 8} {ack : ℕ} (h_s : Sound q s) : Sound q (resendFrom s p ack) := by
  unfold Machine.resendFrom
  repeat' first
    | with_reducible assumption | intro _ | with_reducible apply Sound.bump | with_reducible apply Sound.modPort
    | with_reducible apply Sound.failKport | with_reducible apply Sound.ite
    | fail_if_no_progress with_reducible apply Sound.upd

theorem Sound.execLinkResend {p : Fin 8} {w : LinkFail} {s : State} (h_s : Sound q s) : SoundOut q (execLinkResend p w
    s) := by
  unfold Machine.execLinkResend
  repeat' first
    | with_reducible assumption | with_reducible apply Sound.linkDiscard | with_reducible apply Sound.resendFrom
    | with_reducible apply Sound.ite | with_reducible apply SoundOut.next | dsimp only | split

theorem Sound.execKportFail {p : Fin 8} {cause : PortCause} {s : State} (h_s : Sound q s) : SoundOut q (execKportFail
    p cause s) := by
  unfold Machine.execKportFail
  repeat' first
    | with_reducible assumption | with_reducible apply Sound.bump | with_reducible apply Sound.failKport
    | with_reducible apply SoundOut.next | fail_if_no_progress with_reducible apply Sound.upd | dsimp only | split

theorem Sound.execBondRecover {p : Fin 8} {s : State} (h_s : Sound q s) : SoundOut q (execBondRecover p s) := by
  unfold Machine.execBondRecover
  repeat' first
    | with_reducible assumption | intro _ | with_reducible apply Sound.setF
    | with_reducible apply Sound.learnNeighbour | with_reducible apply Sound.modPort
    | with_reducible apply Sound.sendLinkstate | with_reducible apply Sound.ite | with_reducible apply SoundOut.next
    | fail_if_no_progress with_reducible apply Sound.upd | dsimp only | split

theorem Sound.execLinkstate {h : KHdr} {node : ℕ} {bond : Fin 8} {recovered : Bool} {s : State} (h_s : Sound q s) :
    SoundOut q (execLinkstate h node bond recovered s) := by
  unfold Machine.execLinkstate
  repeat' first
    | with_reducible assumption | intro _ | with_reducible apply Sound.onMessage
    | with_reducible apply Sound.noteAbsences | with_reducible apply Sound.ite | with_reducible apply SoundOut.next
    | fail_if_no_progress with_reducible apply Sound.upd

theorem Sound.followLead {s : State} {lgen lead : ℕ} (h_s : Sound q s) : Sound q (followLead s lgen lead) := by
  unfold Machine.followLead
  repeat' first
    | with_reducible assumption | with_reducible apply Sound.setF | with_reducible apply Sound.ite
    | fail_if_no_progress with_reducible apply Sound.upd

theorem Sound.execHeartbeatSend {s : State} (h_s : Sound q s) : SoundOut q (execHeartbeatSend s) := by
  unfold Machine.execHeartbeatSend
  repeat' first
    | with_reducible assumption | with_reducible apply Sound.kolSend | with_reducible apply Sound.ite
    | with_reducible apply SoundOut.next | dsimp only | split

theorem Sound.execHeartbeat {h : KHdr} {lgen : ℕ} {route : Bool} {sent : ℕ} {s : State} (h_s : Sound q s) : SoundOut q
    (execHeartbeat h lgen route sent s) := by
  unfold Machine.execHeartbeat
  repeat' first
    | with_reducible assumption | intro _ | with_reducible apply Sound.setF | with_reducible apply Sound.onMessage
    | with_reducible apply Sound.followLead | with_reducible apply Sound.ite | with_reducible apply SoundOut.next
    | fail_if_no_progress with_reducible apply Sound.upd

theorem Sound.execLeadLossTimeout {s : State} (h_s : Sound q s) : SoundOut q (execLeadLossTimeout s) := by
  unfold Machine.execLeadLossTimeout
  repeat' first
    | with_reducible assumption | intro _ | with_reducible apply Sound.setF | with_reducible apply Sound.kolSendAll
    | with_reducible apply Sound.ite | with_reducible apply SoundOut.next
    | fail_if_no_progress with_reducible apply Sound.upd | dsimp only | split

theorem Sound.execTakeover {h : KHdr} {lgen lead : ℕ} {s : State} (h_s : Sound q s) : SoundOut q (execTakeover h lgen
    lead s) := by
  unfold Machine.execTakeover
  repeat' first
    | with_reducible assumption | intro _ | with_reducible apply Sound.onMessage
    | with_reducible apply Sound.followLead | with_reducible apply SoundOut.next

theorem Sound.noteJoined {s : State} (h_s : Sound q s) : Sound q (noteJoined s) := by
  unfold Machine.noteJoined
  repeat' first
    | with_reducible assumption | with_reducible apply Sound.setF | with_reducible apply Sound.tick
    | with_reducible apply Sound.ite

theorem Sound.execTickSend {s : State} (h_s : Sound q s) : SoundOut q (execTickSend s) := by
  unfold Machine.execTickSend
  repeat' first
    | with_reducible assumption | intro _ | with_reducible apply Sound.kolSendAll
    | with_reducible apply Sound.noteJoined | with_reducible apply Sound.tick | with_reducible apply Sound.ite
    | with_reducible apply SoundOut.next | fail_if_no_progress with_reducible apply Sound.upd | dsimp only | split

theorem Sound.execTick {h : KHdr} {seam gepoch smapGen lgen : ℕ} {s : State} (h_s : Sound q s) : SoundOut q (execTick
    h seam gepoch smapGen lgen s) := by
  unfold Machine.execTick
  repeat' first
    | with_reducible assumption | intro _ | with_reducible apply Sound.onMessage
    | with_reducible apply Sound.followLead | with_reducible apply Sound.noteJoined | with_reducible apply Sound.tick
    | with_reducible apply Sound.ite | with_reducible apply SoundOut.next
    | fail_if_no_progress with_reducible apply Sound.upd

theorem Sound.execTickMiss {s : State} (h_s : Sound q s) : SoundOut q (execTickMiss s) := by
  unfold Machine.execTickMiss
  repeat' first
    | with_reducible assumption | with_reducible apply Sound.setF | with_reducible apply Sound.tick
    | with_reducible apply Sound.ite | with_reducible apply SoundOut.next
    | fail_if_no_progress with_reducible apply Sound.upd | dsimp only | split

theorem Sound.execTimeExchange {s : State} (h_s : Sound q s) : SoundOut q (execTimeExchange s) := by
  unfold Machine.execTimeExchange
  repeat' first
    | with_reducible assumption | with_reducible apply Sound.kolSend | with_reducible apply Sound.ite
    | with_reducible apply SoundOut.next

theorem Sound.execTimeRequest {h : KHdr} {t1 : ℕ} {s : State} (h_s : Sound q s) : SoundOut q (execTimeRequest h t1 s)
    := by
  unfold Machine.execTimeRequest
  repeat' first
    | with_reducible assumption | intro _ | with_reducible apply Sound.kolSendReserved
    | with_reducible apply Sound.onMessage | with_reducible apply Sound.ite | with_reducible apply SoundOut.next

theorem Sound.execTimeAnswer {h : KHdr} {t1 t2 t3 : ℕ} {s : State} (h_s : Sound q s) : SoundOut q (execTimeAnswer h t1
    t2 t3 s) := by
  unfold Machine.execTimeAnswer
  repeat' first
    | with_reducible assumption | intro _ | with_reducible apply Sound.setF | with_reducible apply Sound.report
    | with_reducible apply Sound.onMessage | with_reducible apply Sound.ite | with_reducible apply SoundOut.next

theorem Sound.execMap {h : KHdr} {gen first : ℕ} {entries : List ℕ} {s : State} (h_s : Sound q s) : SoundOut q
    (execMap h gen first entries s) := by
  unfold Machine.execMap
  repeat' first
    | with_reducible assumption | intro _ | with_reducible apply Sound.kolSend | with_reducible apply Sound.onMessage
    | with_reducible apply Sound.noteJoined | with_reducible apply Sound.ite | with_reducible apply SoundOut.next
    | fail_if_no_progress with_reducible apply Sound.upd | dsimp only | split

theorem Sound.execApplied {h : KHdr} {ref partJsn : ℕ} {s : State} (h_s : Sound q s) : SoundOut q (execApplied h ref
    partJsn s) := by
  unfold Machine.execApplied
  repeat' first
    | with_reducible assumption | intro _ | with_reducible apply Sound.onMessage | with_reducible apply Sound.ite
    | with_reducible apply SoundOut.next | fail_if_no_progress with_reducible apply Sound.upd | dsimp only | split

theorem Sound.execLop {h : KHdr} {op bench : ℕ} {keyhash : Word} {key data : List Byte} {s : State} (h_s : Sound q s)
    : SoundOut q (execLop h op bench keyhash key data s) := by
  unfold Machine.execLop
  repeat' first
    | with_reducible assumption | intro _ | with_reducible apply Sound.mpuSettled
    | with_reducible apply Sound.onMessage | with_reducible apply Sound.refuseOp
    | with_reducible apply Sound.answerLop | with_reducible apply Sound.requestLock | with_reducible apply Sound.ite
    | with_reducible apply SoundOut.next | dsimp only | split | with_reducible refine Sound.of_some ?_ (by assumption)

theorem Sound.execLopRsp {h : KHdr} {cc : ℕ} {record : List Byte} {s : State} (h_s : Sound q s) : SoundOut q
    (execLopRsp h cc record s) := by
  unfold Machine.execLopRsp
  repeat' first
    | with_reducible assumption | intro _ | with_reducible apply Sound.wake | with_reducible apply Sound.setCC
    | with_reducible apply Sound.onMessage | with_reducible apply Sound.dropReq | with_reducible apply Sound.dropLReq
    | with_reducible apply Sound.respond | with_reducible apply Sound.ite | with_reducible apply SoundOut.next
    | dsimp only | split

theorem Sound.answerPrepare {s : State} {h : KHdr} {result : ℕ} (h_s : Sound q s) : Sound q (answerPrepare s h result)
    := by
  unfold Machine.answerPrepare
  repeat' first
    | with_reducible assumption | with_reducible apply Sound.bump | with_reducible apply Sound.kolSend
    | with_reducible apply Sound.ite

theorem Sound.execPrepare {h : KHdr} {nrsv : ℕ} {s : State} (h_s : Sound q s) : SoundOut q (execPrepare h nrsv s) :=
    by
  unfold Machine.execPrepare
  repeat' first
    | with_reducible assumption | intro _ | with_reducible apply Sound.onMessage
    | with_reducible apply Sound.answerPrepare | with_reducible apply Sound.ite | with_reducible apply SoundOut.next
    | fail_if_no_progress with_reducible apply Sound.upd

theorem Sound.putAnswer {s : State} {an run node result : ℕ} (h_s : Sound q s) : Sound q (putAnswer s an run node
    result) := by
  unfold Machine.putAnswer
  repeat' first
    | with_reducible assumption | intro _ | with_reducible apply Sound.ite
    | fail_if_no_progress with_reducible apply Sound.upd

theorem Sound.execPrepRsp {h : KHdr} {result : ℕ} {s : State} (h_s : Sound q s) : SoundOut q (execPrepRsp h result s)
    := by
  unfold Machine.execPrepRsp
  repeat' first
    | with_reducible assumption | intro _ | with_reducible apply Sound.onMessage | with_reducible apply Sound.dropReq
    | with_reducible apply Sound.putAnswer | with_reducible apply SoundOut.next | dsimp only | split

theorem Sound.answerApply {s : State} {h : KHdr} {coordJsn partJsn : ℕ} (h_s : Sound q s) : Sound q (answerApply s h
    coordJsn partJsn) := by
  unfold Machine.answerApply
  repeat' first
    | with_reducible assumption | with_reducible apply Sound.kolSend

theorem Sound.applyRsv {s : State} {an run coord coordJsn : ℕ} (h_s : Sound q s) : Sound q ((applyRsv s an run coord
    coordJsn).2) := by
  unfold Machine.applyRsv
  repeat' first
    | with_reducible assumption | with_reducible apply Sound.bump | with_reducible apply Sound.noteFull
    | with_reducible apply Sound.assignRec | with_reducible apply Sound.applyWrites
    | with_reducible apply Sound.freeRsv | with_reducible apply Sound.ite
    | fail_if_no_progress with_reducible apply Sound.upd

theorem Sound.execApply {h : KHdr} {coordJsn : ℕ} {s : State} (h_s : Sound q s) : SoundOut q (execApply h coordJsn s)
    := by
  unfold Machine.execApply
  repeat' first
    | with_reducible assumption | intro _ | with_reducible apply Sound.onMessage | with_reducible apply Sound.noteFull
    | with_reducible apply Sound.answerApply | with_reducible apply Sound.applyRsv | with_reducible apply Sound.ite
    | with_reducible apply SoundOut.next | dsimp only | split

theorem Sound.execApplyResend {an node : ℕ} {s : State} (h_s : Sound q s) : SoundOut q (execApplyResend an node s) :=
    by
  unfold Machine.execApplyResend
  repeat' first
    | with_reducible assumption | intro _ | with_reducible apply Sound.kolSend | with_reducible apply Sound.ite
    | with_reducible apply SoundOut.next | fail_if_no_progress with_reducible apply Sound.upd | dsimp only | split

theorem Sound.execWoundMessage {h : KHdr} {reqAn reqDeadline : ℕ} {s : State} (h_s : Sound q s) : SoundOut q
    (execWoundMessage h reqAn reqDeadline s) := by
  unfold Machine.execWoundMessage
  repeat' first
    | with_reducible assumption | intro _ | with_reducible apply Sound.onMessage | with_reducible apply Sound.woundRun
    | with_reducible apply Sound.ite | with_reducible apply SoundOut.next | dsimp only | split

theorem Sound.execWoundResend {an : ℕ} {s : State} (h_s : Sound q s) : SoundOut q (execWoundResend an s) := by
  unfold Machine.execWoundResend
  repeat' first
    | with_reducible assumption | intro _ | with_reducible apply Sound.woundMessage | with_reducible apply Sound.foldl
    | with_reducible apply Sound.foldl2 | with_reducible apply SoundOut.next

theorem Sound.execKolRelease {h : KHdr} {s : State} (h_s : Sound q s) : SoundOut q (execKolRelease h s) := by
  unfold Machine.execKolRelease
  repeat' first
    | with_reducible assumption | intro _ | with_reducible apply Sound.onMessage | with_reducible apply Sound.freeRsv
    | with_reducible apply Sound.ite | with_reducible apply SoundOut.next
    | fail_if_no_progress with_reducible apply Sound.upd

theorem Sound.execReservationLeaseExpiry {an run : ℕ} {s : State} (h_s : Sound q s) : SoundOut q
    (execReservationLeaseExpiry an run s) := by
  unfold Machine.execReservationLeaseExpiry
  repeat' first
    | with_reducible assumption | intro _ | with_reducible apply Sound.freeRsv | with_reducible apply Sound.ite
    | with_reducible apply SoundOut.next

theorem Sound.execHoldExpiry {an run : ℕ} {s : State} (h_s : Sound q s) : SoundOut q (execHoldExpiry an run s) := by
  unfold Machine.execHoldExpiry
  repeat' first
    | with_reducible assumption | intro _ | with_reducible apply SoundOut.next
    | fail_if_no_progress with_reducible apply Sound.upd

theorem Sound.timeoutReq {s : State} {r : KReq} (h_s : Sound q s) : Sound q (timeoutReq s r) := by
  unfold Machine.timeoutReq
  repeat' first
    | with_reducible assumption | intro _ | with_reducible apply Sound.modCore | with_reducible apply Sound.endIfOwned
    | with_reducible apply Sound.trapMchk | with_reducible apply Sound.putAnswer | with_reducible apply Sound.ite
    | fail_if_no_progress with_reducible apply Sound.upd | dsimp only | split

theorem Sound.execKolTimeout {req : ℕ} {s : State} (h_s : Sound q s) : SoundOut q (execKolTimeout req s) := by
  unfold Machine.execKolTimeout
  repeat' first
    | with_reducible assumption | with_reducible apply Sound.bump | with_reducible apply Sound.dropReq
    | with_reducible apply Sound.timeoutReq | with_reducible apply Sound.ite | with_reducible apply SoundOut.next
    | dsimp only | split

theorem Sound.answerWindow {s : State} {h : KHdr} {status : ℕ} {data : List Byte} (h_s : Sound q s) : Sound q
    (answerWindow s h status data) := by
  unfold Machine.answerWindow
  repeat' first
    | with_reducible assumption | with_reducible apply Sound.kolSend

theorem Sound.execWread {h : KHdr} {offset size : ℕ} {s : State} (h_s : Sound q s) : SoundOut q (execWread h offset
    size s) := by
  unfold Machine.execWread
  repeat' first
    | with_reducible assumption | intro _ | with_reducible apply Sound.islandRead
    | with_reducible apply Sound.onMessage | with_reducible apply Sound.answerWindow | with_reducible apply Sound.ite
    | with_reducible apply SoundOut.next | dsimp only | split | with_reducible refine Sound.of_snd ?_ (by assumption)

theorem Sound.execWwrite {h : KHdr} {offset size : ℕ} {data : Word} {s : State} (h_s : Sound q s) : SoundOut q
    (execWwrite h offset size data s) := by
  unfold Machine.execWwrite
  repeat' first
    | with_reducible assumption | intro _ | with_reducible apply Sound.islandWrite
    | with_reducible apply Sound.onMessage | with_reducible apply Sound.answerWindow | with_reducible apply Sound.ite
    | with_reducible apply SoundOut.next

theorem Sound.windowDone {s : State} {c : CoreId} {no status v : ℕ} (h_s : Sound q s) : Sound q (windowDone s c no
    status v) := by
  unfold Machine.windowDone
  repeat' first
    | with_reducible assumption | intro _ | with_reducible apply Sound.modCore | with_reducible apply Sound.takeTrap
    | with_reducible apply Sound.putLoaded | with_reducible apply Sound.advancePc | with_reducible apply Sound.ite
    | fail_if_no_progress with_reducible apply Sound.upd | dsimp only | split

theorem Sound.execWinRsp {h : KHdr} {status : ℕ} {data : Word} {s : State} (h_s : Sound q s) : SoundOut q (execWinRsp
    h status data s) := by
  unfold Machine.execWinRsp
  repeat' first
    | with_reducible assumption | intro _ | with_reducible apply Sound.modCore | with_reducible apply Sound.onMessage
    | with_reducible apply Sound.dropReq | with_reducible apply Sound.settleSyncs
    | with_reducible apply Sound.windowDone | with_reducible apply SoundOut.next
    | fail_if_no_progress with_reducible apply Sound.upd | dsimp only | split

theorem Sound.mirrorDrain {x0 : ℕ} {x1 : State} {x2 : MirrorRx} (h_x1 : Sound q x1) : Sound q ((mirrorDrain x0 x1
    x2).2) := by
  unfold Machine.mirrorDrain
  repeat' first
    | with_reducible assumption | intro _ | with_reducible apply Sound.mirrorDrain
    | with_reducible apply Sound.islandWrite | fail_if_no_progress with_reducible apply Sound.upd | dsimp only | split
    | with_reducible refine Sound.of_snd ?_ (by assumption)

theorem Sound.execMirror {h : KHdr} {firstJsn goff : ℕ} {data : List Byte} {s : State} (h_s : Sound q s) : SoundOut q
    (execMirror h firstJsn goff data s) := by
  unfold Machine.execMirror
  repeat' first
    | with_reducible assumption | intro _ | with_reducible apply Sound.kolSend | with_reducible apply Sound.onMessage
    | with_reducible apply Sound.mirrorDrain | with_reducible apply Sound.ite | with_reducible apply SoundOut.next
    | fail_if_no_progress with_reducible apply Sound.upd | dsimp only | split
    | with_reducible refine Sound.of_snd ?_ (by assumption)

theorem Sound.execKolEnableWrite {v : Bool} {s : State} (h_s : Sound q s) : SoundOut q (execKolEnableWrite v s) := by
  unfold Machine.execKolEnableWrite
  repeat' first
    | with_reducible assumption | with_reducible apply Sound.setF | with_reducible apply SoundOut.next

/-! ## Admission -/

theorem Sound.descriptor {s : State} {p : ℕ} (h_s : Sound q s) : Sound q ((descriptor s p).2) := by
  unfold Machine.descriptor
  repeat' first
    | with_reducible assumption | fail_if_no_progress with_reducible apply Sound.upd | dsimp only | split

theorem Sound.programFor {s : State} {d : Dialect} {key : ℕ} (h_s : Sound q s) : Sound q ((programFor s d key).2) :=
    by
  unfold Machine.programFor
  repeat' first
    | with_reducible assumption | with_reducible apply Sound.descriptor | with_reducible apply Sound.ite | dsimp only
    | split

theorem Sound.refuseMsg {s : State} {m : Taken} {dtab reason : ℕ} {si : Bool} (h_s : Sound q s) : Sound q (refuseMsg s
    m dtab reason si) := by
  unfold Machine.refuseMsg
  repeat' first
    | with_reducible assumption | with_reducible apply Sound.bump | fail_if_no_progress with_reducible apply Sound.upd

theorem Sound.noteAccepted {s : State} {m : Taken} {an deadline : ℕ} (h_s : Sound q s) : Sound q (noteAccepted s m an
    deadline) := by
  unfold Machine.noteAccepted
  repeat' first
    | with_reducible assumption | with_reducible apply Sound.queueCpl | dsimp only | split

theorem Sound.addTxn {s : State} {m : Taken} {an deadline dtab prog key bkt : ℕ} {pd : Budget} {t : TileId} {si :
    Bool} (h_s : Sound q s) : Sound q (addTxn s m an deadline dtab prog key bkt pd t si) := by
  unfold Machine.addTxn
  repeat' first
    | with_reducible assumption | with_reducible apply Sound.bump | with_reducible apply Sound.countOutstanding
    | with_reducible apply Sound.noteAccepted | with_reducible apply Sound.ite
    | fail_if_no_progress with_reducible apply Sound.upd

theorem Sound.acceptMsg {s : State} {m : Taken} {deadline dtab prog key bkt : ℕ} {pd : Budget} {t : TileId} (h_s :
    Sound q s) : Sound q (acceptMsg s m deadline dtab prog key bkt pd t) := by
  unfold Machine.acceptMsg
  repeat' first
    | with_reducible assumption | with_reducible apply Sound.setF | with_reducible apply Sound.addTxn

theorem Sound.testMsg {s : State} {m : Taken} {dtab prog key : ℕ} {pd : Budget} (h_s : Sound q s) : Sound q (testMsg s
    m dtab prog key pd) := by
  unfold Machine.testMsg
  repeat' first
    | with_reducible assumption | with_reducible apply Sound.refuseMsg | with_reducible apply Sound.acceptMsg
    | with_reducible apply Sound.ite | dsimp only | split

theorem Sound.admitMsg {s : State} {m : Taken} (h_s : Sound q s) : Sound q (admitMsg s m) := by
  unfold Machine.admitMsg
  repeat' first
    | with_reducible assumption | with_reducible apply Sound.dialectEntry | with_reducible apply Sound.dialectAt
    | with_reducible apply Sound.programFor | with_reducible apply Sound.refuseMsg
    | with_reducible apply Sound.testMsg | with_reducible apply Sound.ite | dsimp only | split
    | with_reducible refine Sound.of_snd ?_ (by assumption)

theorem Sound.standinMsg {s : State} {m : Taken} (h_s : Sound q s) : Sound q (standinMsg s m) := by
  unfold Machine.standinMsg
  repeat' first
    | with_reducible assumption | intro _ | with_reducible apply Sound.dialectAt
    | with_reducible apply Sound.refuseMsg | with_reducible apply Sound.addTxn | with_reducible apply Sound.ite
    | fail_if_no_progress with_reducible apply Sound.upd

theorem Sound.takeMsg {s : State} {m : Taken} (h_s : Sound q s) : Sound q (takeMsg s m) := by
  unfold Machine.takeMsg
  repeat' first
    | with_reducible assumption | with_reducible apply Sound.admitMsg | with_reducible apply Sound.standinMsg
    | with_reducible apply Sound.ite

theorem Sound.dropIfEmpty {s : State} {c : Conn} (h_s : Sound q s) : Sound q (dropIfEmpty s c) := by
  unfold Machine.dropIfEmpty
  repeat' first
    | with_reducible assumption | with_reducible apply Sound.putConn | with_reducible apply Sound.dropConn
    | with_reducible apply Sound.ite

theorem Sound.takeFromConn {s : State} {h : ℕ} (h_s : Sound q s) : Sound q (takeFromConn s h) := by
  unfold Machine.takeFromConn
  repeat' first
    | with_reducible assumption | with_reducible apply Sound.takeMsg | with_reducible apply Sound.dropIfEmpty
    | fail_if_no_progress with_reducible apply Sound.upd | dsimp only | split

theorem Sound.takeFromSq {s : State} {n : Fin 16} (h_s : Sound q s) : Sound q (takeFromSq s n) := by
  unfold Machine.takeFromSq
  repeat' first
    | with_reducible assumption | intro _ | with_reducible apply Sound.bump | with_reducible apply Sound.descDone
    | with_reducible apply Sound.takeMsg | with_reducible apply Sound.ite
    | fail_if_no_progress with_reducible apply Sound.upd | dsimp only | split

theorem Sound.execAdmission {m : MsgSource} {s : State} (h_s : Sound q s) : SoundOut q (execAdmission m s) := by
  unfold Machine.execAdmission
  repeat' first
    | with_reducible assumption | with_reducible apply Sound.takeFromConn | with_reducible apply Sound.takeFromSq
    | with_reducible apply Sound.ite | with_reducible apply SoundOut.next | dsimp only | split

/-! ## NetRecv -/

theorem Sound.excAllowed {s : State} {p : Fin 8} (h_s : Sound q s) : InO (fun r => Sound q r) (excAllowed s p) := by
  unfold Machine.excAllowed
  repeat' first
    | with_reducible assumption | with_reducible apply Sound.ite | with_reducible exact InO.none
    | with_reducible apply InO.some | fail_if_no_progress with_reducible apply Sound.upd | dsimp only | split

theorem Sound.giveHost {s : State} {p : Fin 8} {frame : List Byte} {frac : ℕ} (h_s : Sound q s) : Sound q (giveHost s
    p frame frac) := by
  unfold Machine.giveHost
  repeat' first
    | with_reducible assumption | with_reducible apply Sound.bump | with_reducible apply Sound.queueExc
    | with_reducible apply Sound.excAllowed | dsimp only | split
    | with_reducible refine Sound.of_some ?_ (by assumption)

theorem Sound.frameAll {x0 : ℕ} {x1 : State} {x2 : Conn} (h_x1 : Sound q x1) : Sound q (frameAll x0 x1 x2) := by
  unfold Machine.frameAll
  repeat' first
    | with_reducible assumption | with_reducible apply Sound.frameAll | with_reducible apply Sound.bump
    | with_reducible apply Sound.putConn | with_reducible apply Sound.startDrain
    | fail_if_no_progress with_reducible apply Sound.upd | dsimp only | split

theorem Sound.recordContent {s : State} {c : Conn} {content : List Byte} {times : List ℕ} {ty : ℕ} (h_s : Sound q s) :
    Sound q (recordContent s c content times ty) := by
  unfold Machine.recordContent
  repeat' first
    | with_reducible assumption | with_reducible apply Sound.putConn | with_reducible apply Sound.connWrite
    | with_reducible apply Sound.connEvent | with_reducible apply Sound.closeConn
    | with_reducible apply Sound.startDrain | with_reducible apply Sound.frameAll | with_reducible apply Sound.ite

theorem Sound.afterRecord {s : State} {h gen : ℕ} (h_s : Sound q s) : Sound q (afterRecord s h gen) := by
  unfold Machine.afterRecord
  repeat' first
    | with_reducible assumption | with_reducible apply Sound.closeConn | with_reducible apply Sound.noteRekey
    | with_reducible apply Sound.ite | dsimp only | split

theorem Sound.processRecords {x0 : ℕ} {x1 : State} {x2 x3 : ℕ} (h_x1 : Sound q x1) : Sound q (processRecords x0 x1 x2
    x3) := by
  unfold Machine.processRecords
  repeat' first
    | with_reducible assumption | intro _ | with_reducible apply Sound.processRecords
    | with_reducible apply Sound.putConn | with_reducible apply Sound.closeConn
    | with_reducible apply Sound.recordContent | with_reducible apply Sound.afterRecord
    | with_reducible apply Sound.ite | fail_if_no_progress with_reducible apply Sound.upd | dsimp only | split

theorem Sound.readStream {s : State} {c : Conn} (h_s : Sound q s) : Sound q (readStream s c) := by
  unfold Machine.readStream
  repeat' first
    | with_reducible assumption | with_reducible apply Sound.processRecords

theorem Sound.ackNew {s : State} {c : Conn} {ack : ℕ} (h_s : Sound q s) : Sound q (ackNew s c ack) := by
  unfold Machine.ackNew
  repeat' first
    | with_reducible assumption | intro _ | with_reducible apply Sound.putConn
    | with_reducible apply Sound.resendFirst | with_reducible apply Sound.ite

theorem Sound.ackDup {s : State} {c : Conn} (h_s : Sound q s) : Sound q (ackDup s c) := by
  unfold Machine.ackDup
  repeat' first
    | with_reducible assumption | intro _ | with_reducible apply Sound.putConn
    | with_reducible apply Sound.resendFirst | with_reducible apply Sound.ite

theorem Sound.takeAck {s : State} {c : Conn} {x : Seg} (h_s : Sound q s) : Sound q ((takeAck s c x).2) := by
  unfold Machine.takeAck
  repeat' first
    | with_reducible assumption | with_reducible apply Sound.putConn | with_reducible apply Sound.sendAck
    | with_reducible apply Sound.ackNew | with_reducible apply Sound.ackDup | with_reducible apply Sound.ite
    | fail_if_no_progress with_reducible apply Sound.upd | dsimp only | split

theorem Sound.ackData {s : State} {c : Conn} {n : ℕ} {gap : Bool} (h_s : Sound q s) : Sound q (ackData s c n gap) :=
    by
  unfold Machine.ackData
  repeat' first
    | with_reducible assumption | with_reducible apply Sound.putConn | with_reducible apply Sound.sendAck
    | with_reducible apply Sound.ite

theorem Sound.takeFin {s : State} {h gen : ℕ} (h_s : Sound q s) : Sound q (takeFin s h gen) := by
  unfold Machine.takeFin
  repeat' first
    | with_reducible assumption | with_reducible apply Sound.putConn | with_reducible apply Sound.startDrain
    | with_reducible apply Sound.sendAck | with_reducible apply Sound.ite
    | fail_if_no_progress with_reducible apply Sound.upd | dsimp only | split

theorem Sound.takeData {s : State} {c : Conn} {x : Seg} {wnd : ℕ} (h_s : Sound q s) : Sound q (takeData s c x wnd) :=
    by
  unfold Machine.takeData
  repeat' first
    | with_reducible assumption | intro _ | with_reducible apply Sound.sendAck | with_reducible apply Sound.readStream
    | with_reducible apply Sound.ackData | with_reducible apply Sound.takeFin | with_reducible apply Sound.ite
    | fail_if_no_progress with_reducible apply Sound.upd | dsimp only | split

theorem Sound.takeSegment {s : State} {c0 : Conn} {x : Seg} (h_s : Sound q s) : Sound q (takeSegment s c0 x) := by
  unfold Machine.takeSegment
  repeat' first
    | with_reducible assumption | intro _ | with_reducible apply Sound.closeConn
    | with_reducible apply Sound.startDrain | with_reducible apply Sound.sendAck | with_reducible apply Sound.takeAck
    | with_reducible apply Sound.takeData | with_reducible apply Sound.ite
    | fail_if_no_progress with_reducible apply Sound.upd | dsimp only | split
    | with_reducible refine Sound.of_snd ?_ (by assumption)

theorem Sound.takeFrame {s : State} {p : Fin 8} {frame : List Byte} {etype : ℕ} {body : List Byte} (h_s : Sound q s) :
    Sound q (takeFrame s p frame etype body) := by
  unfold Machine.takeFrame
  repeat' first
    | with_reducible assumption | with_reducible apply Sound.bump | with_reducible apply Sound.giveHost
    | with_reducible apply Sound.takeSegment | with_reducible apply Sound.ite | dsimp only | split

theorem Sound.execFrameReceive {p : Fin 8} {bs : List Byte} {s : State} (h_s : Sound q s) : SoundOut q
    (execFrameReceive p bs s) := by
  unfold Machine.execFrameReceive
  repeat' first
    | with_reducible assumption | with_reducible apply Sound.takeFrame | with_reducible apply Sound.ite
    | with_reducible apply SoundOut.next

theorem Sound.failPort {s : State} {p : Fin 8} (h_s : Sound q s) : Sound q (failPort s p) := by
  unfold Machine.failPort
  repeat' first
    | with_reducible assumption | intro _ | with_reducible apply Sound.setF | with_reducible apply Sound.report
    | with_reducible apply Sound.faultHold | with_reducible apply Sound.closeConn
    | with_reducible apply Sound.failOver | with_reducible apply Sound.ite | with_reducible apply Sound.foldl

theorem Sound.execPortFail {p : Fin 8} {cause : PortCause} {s : State} (h_s : Sound q s) : SoundOut q (execPortFail p
    cause s) := by
  unfold Machine.execPortFail
  repeat' first
    | with_reducible assumption | with_reducible apply Sound.failPort | with_reducible apply SoundOut.next

theorem Sound.execPortLinkUp {p : Fin 8} {s : State} (h_s : Sound q s) : SoundOut q (execPortLinkUp p s) := by
  unfold Machine.execPortLinkUp
  repeat' first
    | with_reducible assumption | with_reducible apply Sound.setF | with_reducible apply Sound.ite
    | with_reducible apply SoundOut.next

theorem Sound.sendHostFrame {s : State} {d : List Byte} (h_s : Sound q s) : Sound q (sendHostFrame s d) := by
  unfold Machine.sendHostFrame
  repeat' first
    | with_reducible assumption | with_reducible apply Sound.hifRead | with_reducible apply Sound.queueExc
    | with_reducible apply Sound.sendFrame | with_reducible apply Sound.ite | dsimp only | split
    | with_reducible refine Sound.of_snd ?_ (by assumption)

theorem Sound.hostPuts {s : State} {r : RingId} {bs : List Byte} (h_s : Sound q s) : Sound q (hostPuts s r bs) := by
  unfold Machine.hostPuts
  repeat' first
    | with_reducible assumption | with_reducible apply Sound.wr

theorem Sound.execTxqTransmit {desc : List Byte} {s0 : State} (h_s0 : Sound q s0) : SoundOut q (execTxqTransmit desc
    s0) := by
  unfold Machine.execTxqTransmit
  repeat' first
    | with_reducible assumption | with_reducible apply Sound.bump | with_reducible apply Sound.islandRead
    | with_reducible apply Sound.stopRing | with_reducible apply Sound.takeEntry
    | with_reducible apply Sound.sendHostFrame | with_reducible apply Sound.hostPuts | with_reducible apply Sound.ite
    | with_reducible apply SoundOut.next | dsimp only | split | with_reducible refine Sound.of_snd ?_ (by assumption)

/-! ## NetAdmin -/

theorem Sound.admHandover {a : AdminCmd} {s : State} (h_s : Sound q s) : Sound q ((admHandover a s).2) := by
  unfold Machine.admHandover
  repeat' first
    | with_reducible assumption | with_reducible apply Sound.connWrite | with_reducible apply Sound.connRead
    | with_reducible apply Sound.admEnds | with_reducible apply Sound.ite
    | fail_if_no_progress with_reducible apply Sound.upd | dsimp only | split
    | with_reducible refine Sound.of_snd ?_ (by assumption)

theorem Sound.admClose {a : AdminCmd} {s : State} (h_s : Sound q s) : Sound q ((admClose a s).2) := by
  unfold Machine.admClose
  repeat' first
    | with_reducible assumption | with_reducible apply Sound.startDrain | with_reducible apply Sound.admEnds
    | dsimp only | split

theorem Sound.rekeyConn {s : State} {c : Conn} {k : Rekey} (h_s : Sound q s) : Sound q (rekeyConn s c k) := by
  unfold Machine.rekeyConn
  repeat' first
    | with_reducible assumption | with_reducible apply Sound.putConn | with_reducible apply Sound.connWrite
    | with_reducible apply Sound.readStream

theorem Sound.admRekey {a : AdminCmd} {s : State} (h_s : Sound q s) : Sound q ((admRekey a s).2) := by
  unfold Machine.admRekey
  repeat' first
    | with_reducible assumption | with_reducible apply Sound.admEnds | with_reducible apply Sound.hostRead
    | with_reducible apply Sound.rekeyConn | with_reducible apply Sound.ite | dsimp only | split
    | with_reducible refine Sound.of_snd ?_ (by assumption)

theorem Sound.admPortMove {a : AdminCmd} {s : State} (h_s : Sound q s) : Sound q ((admPortMove a s).2) := by
  unfold Machine.admPortMove
  repeat' first
    | with_reducible assumption | with_reducible apply Sound.admEnds | with_reducible apply Sound.moveConn
    | with_reducible apply Sound.ite | dsimp only | split

/-! ## Admin -/

theorem Sound.admDescriptorUpdate {a : AdminCmd} {s : State} (h_s : Sound q s) : Sound q ((admDescriptorUpdate a s).2)
    := by
  unfold Machine.admDescriptorUpdate
  repeat' first
    | with_reducible assumption | intro _ | with_reducible apply Sound.islandWrite
    | with_reducible apply Sound.admEnds | with_reducible apply Sound.hostRead | with_reducible apply Sound.ite
    | fail_if_no_progress with_reducible apply Sound.upd | dsimp only | split
    | with_reducible refine Sound.of_snd ?_ (by assumption)

theorem Sound.tableLoads {s : State} {pa : ℕ} (h_s : Sound q s) : Sound q ((tableLoads s pa).2) := by
  unfold Machine.tableLoads
  repeat' first
    | with_reducible assumption | with_reducible apply Sound.islandRead | dsimp only | split
    | with_reducible refine Sound.of_snd ?_ (by assumption)

theorem Sound.admDialectLoad {a : AdminCmd} {s : State} (h_s : Sound q s) : Sound q ((admDialectLoad a s).2) := by
  unfold Machine.admDialectLoad
  repeat' first
    | with_reducible assumption | with_reducible apply Sound.islandWrite | with_reducible apply Sound.dialectEntry
    | with_reducible apply Sound.admEnds | with_reducible apply Sound.tableLoads | with_reducible apply Sound.ite
    | dsimp only | split | with_reducible refine Sound.of_snd ?_ (by assumption)

theorem Sound.putBench {s : State} {n : ℕ} {b : List Byte} (h_s : Sound q s) : Sound q (putBench s n b) := by
  unfold Machine.putBench
  repeat' first
    | with_reducible assumption | with_reducible apply Sound.wr

theorem Sound.admBenchConfigure {a : AdminCmd} {s : State} (h_s : Sound q s) : Sound q ((admBenchConfigure a s).2) :=
    by
  unfold Machine.admBenchConfigure
  repeat' first
    | with_reducible assumption | with_reducible apply Sound.admEnds | with_reducible apply Sound.hostRead
    | with_reducible apply Sound.putBench | with_reducible apply Sound.state | with_reducible apply Sound.ite
    | dsimp only | split | with_reducible refine Sound.of_snd ?_ (by assumption)

theorem Sound.loadRecord {s : State} {n : ℕ} {x : Bench} {jsn : ℕ} {r : List Byte} (h_s : Sound q s) : InO (fun r =>
    Sound q r) (loadRecord s n x jsn r) := by
  unfold Machine.loadRecord
  repeat' first
    | with_reducible assumption | intro _ | with_reducible apply Sound.insertSlot
    | with_reducible apply Sound.setBitmap | with_reducible apply Sound.putRecord | with_reducible exact InO.none
    | with_reducible apply InO.some | with_reducible refine InO.map (Q := fun r => Sound q r.2) ?_ ?_
    | with_reducible refine InO.mapAll ?_ | dsimp only | split

theorem Sound.loadRecords {n : ℕ} {x : Bench} {jsn x3 : ℕ} {x4 : List (List Byte)} {x5 : State} (h_x5 : Sound q x5) :
    Sound q ((loadRecords n x jsn x3 x4 x5).2) := by
  unfold Machine.loadRecords
  repeat' first
    | with_reducible assumption | with_reducible apply Sound.loadRecords | with_reducible apply Sound.loadRecord
    | dsimp only | split | with_reducible refine Sound.of_some ?_ (by assumption)

theorem Sound.admBulkLoad {a : AdminCmd} {s : State} (h_s : Sound q s) : Sound q ((admBulkLoad a s).2) := by
  unfold Machine.admBulkLoad
  repeat' first
    | with_reducible assumption | with_reducible apply Sound.admEnds | with_reducible apply Sound.hostRead
    | with_reducible apply Sound.noteFull | with_reducible apply Sound.assignRec
    | with_reducible apply Sound.loadRecords | with_reducible apply Sound.state | with_reducible apply Sound.ite
    | dsimp only | split | with_reducible refine Sound.of_snd ?_ (by assumption)

theorem Sound.admCancel {a : AdminCmd} {s : State} (h_s : Sound q s) : Sound q ((admCancel a s).2) := by
  unfold Machine.admCancel
  repeat' first
    | with_reducible assumption | with_reducible apply Sound.endRun | with_reducible apply Sound.admEnds
    | with_reducible apply Sound.ite | dsimp only | split

theorem Sound.takeTail {s : State} {l : List JRec} {first last : JRec} (h_s : Sound q s) : Sound q (takeTail s l first
    last) := by
  unfold Machine.takeTail
  repeat' first
    | with_reducible assumption | with_reducible apply Sound.openBytes | with_reducible apply Sound.signNext
    | with_reducible apply Sound.ite | fail_if_no_progress with_reducible apply Sound.upd

theorem Sound.admJournalTail {a : AdminCmd} {s : State} (h_s : Sound q s) : Sound q ((admJournalTail a s).2) := by
  unfold Machine.admJournalTail
  repeat' first
    | with_reducible assumption | with_reducible apply Sound.admEnds | with_reducible apply Sound.hostRead
    | with_reducible apply Sound.takeTail | with_reducible apply Sound.ite | dsimp only | split
    | with_reducible refine Sound.of_snd ?_ (by assumption)

theorem Sound.sendMap {s : State} {gen : ℕ} {bs : List Byte} {n : ℕ} (h_s : Sound q s) : Sound q (sendMap s gen bs n)
    := by
  unfold Machine.sendMap
  repeat' first
    | with_reducible assumption | intro _ | with_reducible apply Sound.kolSend | with_reducible apply Sound.foldl

theorem Sound.admMapUpdate {a : AdminCmd} {s : State} (h_s : Sound q s) : Sound q ((admMapUpdate a s).2) := by
  unfold Machine.admMapUpdate
  repeat' first
    | with_reducible assumption | intro _ | with_reducible apply Sound.admEnds | with_reducible apply Sound.hostRead
    | with_reducible apply Sound.noteJoined | with_reducible apply Sound.sendMap | with_reducible apply Sound.ite
    | with_reducible apply Sound.foldl | with_reducible apply Sound.foldl2
    | fail_if_no_progress with_reducible apply Sound.upd | dsimp only | split
    | with_reducible refine Sound.of_snd ?_ (by assumption)

theorem Sound.moveBench {slice : ℕ} {p : ℕ × State} {n : ℕ} (h_p : Sound q p.2) : Sound q ((moveBench slice p n).2) :=
    by
  unfold Machine.moveBench
  repeat' first
    | with_reducible assumption | intro _ | with_reducible apply Sound.applyEntry | with_reducible apply Sound.state
    | with_reducible apply Sound.ite | with_reducible apply Sound.foldl | with_reducible apply Sound.foldl2
    | dsimp only | split

theorem Sound.admSliceTransfer {a : AdminCmd} {s : State} (h_s : Sound q s) : Sound q ((admSliceTransfer a s).2) := by
  unfold Machine.admSliceTransfer
  repeat' first
    | with_reducible assumption | intro _ | with_reducible apply Sound.admEnds | with_reducible apply Sound.moveBench
    | with_reducible apply Sound.ite | with_reducible apply Sound.foldl | with_reducible apply Sound.foldl2
    | dsimp only | split

theorem Sound.admOrphanResolve {a : AdminCmd} {s : State} (h_s : Sound q s) : Sound q ((admOrphanResolve a s).2) := by
  unfold Machine.admOrphanResolve
  repeat' first
    | with_reducible assumption | intro _ | with_reducible apply Sound.admEnds | with_reducible apply Sound.noteFull
    | with_reducible apply Sound.freeRsv | with_reducible apply Sound.applyRsv | with_reducible apply Sound.ite
    | with_reducible apply Sound.foldl | with_reducible apply Sound.foldl2 | dsimp only | split

theorem Sound.admBody {opc : ℕ} {a : AdminCmd} {s : State} (h_s : Sound q s) : Sound q ((admBody opc a s).2) := by
  unfold Machine.admBody
  repeat' first
    | with_reducible assumption | with_reducible apply Sound.admEnds | with_reducible apply Sound.admKeyLoad
    | with_reducible apply Sound.admKeyExport | with_reducible apply Sound.admKeyDelete
    | with_reducible apply Sound.admKeyInfo | with_reducible apply Sound.admKeySave
    | with_reducible apply Sound.admKeyRestore | with_reducible apply Sound.admZeroise
    | with_reducible apply Sound.admHandover | with_reducible apply Sound.admClose
    | with_reducible apply Sound.admRekey | with_reducible apply Sound.admPortMove
    | with_reducible apply Sound.admDescriptorUpdate | with_reducible apply Sound.admDialectLoad
    | with_reducible apply Sound.admBenchConfigure | with_reducible apply Sound.admBulkLoad
    | with_reducible apply Sound.admCancel | with_reducible apply Sound.admJournalTail
    | with_reducible apply Sound.admMapUpdate | with_reducible apply Sound.admSliceTransfer
    | with_reducible apply Sound.admOrphanResolve | with_reducible apply Sound.ite | dsimp only | split

theorem Sound.admDone {s : State} {cid : ℕ} {st : AdmStatus} {r0 : ℕ} (h_s : Sound q s) : Sound q (admDone s cid st
    r0) := by
  unfold Machine.admDone
  repeat' first
    | with_reducible assumption | with_reducible apply Sound.queueAdmin

theorem Sound.admReady {s : State} {x1 : AdmWait} (h_s : Sound q s) : InO (fun r => Sound q r.2) (admReady s x1) := by
  unfold Machine.admReady
  repeat' first
    | with_reducible assumption | intro _ | with_reducible apply Sound.putBench | with_reducible apply Sound.zeroise
    | with_reducible apply Sound.ite | with_reducible exact InO.none | with_reducible apply InO.some
    | with_reducible refine InO.mapAll ?_ | fail_if_no_progress with_reducible apply Sound.upd | dsimp only | split

theorem Sound.dropHead {s : State} {j : AdmJob} (h_s : Sound q s) : Sound q (dropHead s j) := by
  unfold Machine.dropHead
  repeat' first
    | with_reducible assumption | with_reducible apply Sound.ite | fail_if_no_progress with_reducible apply Sound.upd

theorem Sound.admRun {s : State} {quick : Bool} {cid opc : ℕ} {a : AdminCmd} (h_s : Sound q s) : Sound q (admRun s
    quick cid opc a) := by
  unfold Machine.admRun
  repeat' first
    | with_reducible assumption | with_reducible apply Sound.admBody | with_reducible apply Sound.admDone
    | with_reducible apply Sound.ite | fail_if_no_progress with_reducible apply Sound.upd | dsimp only | split
    | with_reducible refine Sound.of_snd ?_ (by assumption)

theorem Sound.laneStep {quick : Bool} {x1 : ℕ} {x2 : State} (h_x2 : Sound q x2) : Sound q (laneStep quick x1 x2) := by
  unfold Machine.laneStep
  repeat' first
    | with_reducible assumption | with_reducible apply Sound.laneStep | with_reducible apply Sound.admDone
    | with_reducible apply Sound.admReady | with_reducible apply Sound.dropHead | with_reducible apply Sound.admRun
    | with_reducible apply Sound.ite | dsimp only | split | with_reducible refine Sound.of_some2 ?_ (by assumption)

theorem Sound.admProgress {s : State} (h_s : Sound q s) : Sound q (admProgress s) := by
  unfold Machine.admProgress
  repeat' first
    | with_reducible assumption | with_reducible apply Sound.laneStep

theorem Sound.takenAdmin {opc : ℕ} {s : State} (h_s : Sound q s) : Sound q (takenAdmin opc s) := by
  unfold Machine.takenAdmin
  repeat' first
    | with_reducible assumption | with_reducible apply Sound.zeroise | with_reducible apply Sound.ite
    | fail_if_no_progress with_reducible apply Sound.upd

theorem Sound.takeAdmin {op : ℕ} {cmd : AdminCmd} {s0 : State} (h_s0 : Sound q s0) : Sound q (takeAdmin op cmd s0) :=
    by
  unfold Machine.takeAdmin
  repeat' first
    | with_reducible assumption | with_reducible apply Sound.islandRead | with_reducible apply Sound.stopRing
    | with_reducible apply Sound.takeEntry | with_reducible apply Sound.hostPuts | with_reducible apply Sound.admDone
    | with_reducible apply Sound.admRun | with_reducible apply Sound.admProgress
    | with_reducible apply Sound.takenAdmin | with_reducible apply Sound.ite
    | fail_if_no_progress with_reducible apply Sound.upd | dsimp only | split
    | with_reducible refine Sound.of_snd ?_ (by assumption)

theorem Sound.execCompletionPost {r : RingId} {s0 : State} (h_s0 : Sound q s0) : SoundOut q (execCompletionPost r s0)
    := by
  unfold Machine.execCompletionPost
  repeat' first
    | with_reducible assumption | with_reducible apply Sound.postSlot | with_reducible apply Sound.postCpl
    | with_reducible apply Sound.admProgress | with_reducible apply Sound.ite | with_reducible apply SoundOut.next
    | fail_if_no_progress with_reducible apply Sound.upd | dsimp only | split
    | with_reducible refine Sound.of_done ?_ (by assumption) | with_reducible refine Sound.of_wait ?_ (by assumption)
    | with_reducible refine Sound.of_stopped ?_ (by assumption)

theorem Sound.execHandover {a : AdminCmd} {s : State} (h_s : Sound q s) : SoundOut q (execHandover a s) := by
  unfold Machine.execHandover
  repeat' first
    | with_reducible assumption | with_reducible apply Sound.takeAdmin | with_reducible apply Sound.execClose
    | with_reducible apply Sound.execRekey | with_reducible apply Sound.execPortMove
    | with_reducible apply Sound.execDescriptorUpdate | with_reducible apply Sound.execDialectLoad
    | with_reducible apply Sound.execBenchConfigure | with_reducible apply Sound.execBulkLoad
    | with_reducible apply Sound.execCancel | with_reducible apply Sound.execKeyLoad
    | with_reducible apply Sound.execKeyExport | with_reducible apply Sound.execKeyDelete
    | with_reducible apply Sound.execKeyInfo | with_reducible apply Sound.execKeySave
    | with_reducible apply Sound.execKeyRestore | with_reducible apply Sound.execZeroise
    | with_reducible apply Sound.execJournalTail | with_reducible apply Sound.execMapUpdate
    | with_reducible apply Sound.execSliceTransfer | with_reducible apply Sound.execOrphanResolve
    | with_reducible apply Sound.execAdminUnknownOp | with_reducible apply Sound.ite
    | with_reducible apply SoundOut.next

theorem Sound.execClose {a : AdminCmd} {s : State} (h_s : Sound q s) : SoundOut q (execClose a s) := by
  unfold Machine.execClose
  repeat' first
    | with_reducible assumption | with_reducible apply Sound.takeAdmin | with_reducible apply Sound.execRekey
    | with_reducible apply Sound.execPortMove | with_reducible apply Sound.execDescriptorUpdate
    | with_reducible apply Sound.execDialectLoad | with_reducible apply Sound.execBenchConfigure
    | with_reducible apply Sound.execBulkLoad | with_reducible apply Sound.execCancel
    | with_reducible apply Sound.execKeyLoad | with_reducible apply Sound.execKeyExport
    | with_reducible apply Sound.execKeyDelete | with_reducible apply Sound.execKeyInfo
    | with_reducible apply Sound.execKeySave | with_reducible apply Sound.execKeyRestore
    | with_reducible apply Sound.execZeroise | with_reducible apply Sound.execJournalTail
    | with_reducible apply Sound.execMapUpdate | with_reducible apply Sound.execSliceTransfer
    | with_reducible apply Sound.execOrphanResolve | with_reducible apply Sound.execAdminUnknownOp
    | with_reducible apply Sound.ite | with_reducible apply SoundOut.next

theorem Sound.execRekey {a : AdminCmd} {s : State} (h_s : Sound q s) : SoundOut q (execRekey a s) := by
  unfold Machine.execRekey
  repeat' first
    | with_reducible assumption | with_reducible apply Sound.takeAdmin | with_reducible apply Sound.execPortMove
    | with_reducible apply Sound.execDescriptorUpdate | with_reducible apply Sound.execDialectLoad
    | with_reducible apply Sound.execBenchConfigure | with_reducible apply Sound.execBulkLoad
    | with_reducible apply Sound.execCancel | with_reducible apply Sound.execKeyLoad
    | with_reducible apply Sound.execKeyExport | with_reducible apply Sound.execKeyDelete
    | with_reducible apply Sound.execKeyInfo | with_reducible apply Sound.execKeySave
    | with_reducible apply Sound.execKeyRestore | with_reducible apply Sound.execZeroise
    | with_reducible apply Sound.execJournalTail | with_reducible apply Sound.execMapUpdate
    | with_reducible apply Sound.execSliceTransfer | with_reducible apply Sound.execOrphanResolve
    | with_reducible apply Sound.execAdminUnknownOp | with_reducible apply Sound.ite
    | with_reducible apply SoundOut.next

theorem Sound.execPortMove {a : AdminCmd} {s : State} (h_s : Sound q s) : SoundOut q (execPortMove a s) := by
  unfold Machine.execPortMove
  repeat' first
    | with_reducible assumption | with_reducible apply Sound.takeAdmin
    | with_reducible apply Sound.execDescriptorUpdate | with_reducible apply Sound.execDialectLoad
    | with_reducible apply Sound.execBenchConfigure | with_reducible apply Sound.execBulkLoad
    | with_reducible apply Sound.execCancel | with_reducible apply Sound.execKeyLoad
    | with_reducible apply Sound.execKeyExport | with_reducible apply Sound.execKeyDelete
    | with_reducible apply Sound.execKeyInfo | with_reducible apply Sound.execKeySave
    | with_reducible apply Sound.execKeyRestore | with_reducible apply Sound.execZeroise
    | with_reducible apply Sound.execJournalTail | with_reducible apply Sound.execMapUpdate
    | with_reducible apply Sound.execSliceTransfer | with_reducible apply Sound.execOrphanResolve
    | with_reducible apply Sound.execAdminUnknownOp | with_reducible apply Sound.ite
    | with_reducible apply SoundOut.next

theorem Sound.execDescriptorUpdate {a : AdminCmd} {s : State} (h_s : Sound q s) : SoundOut q (execDescriptorUpdate a
    s) := by
  unfold Machine.execDescriptorUpdate
  repeat' first
    | with_reducible assumption | with_reducible apply Sound.takeAdmin | with_reducible apply Sound.execDialectLoad
    | with_reducible apply Sound.execBenchConfigure | with_reducible apply Sound.execBulkLoad
    | with_reducible apply Sound.execCancel | with_reducible apply Sound.execKeyLoad
    | with_reducible apply Sound.execKeyExport | with_reducible apply Sound.execKeyDelete
    | with_reducible apply Sound.execKeyInfo | with_reducible apply Sound.execKeySave
    | with_reducible apply Sound.execKeyRestore | with_reducible apply Sound.execZeroise
    | with_reducible apply Sound.execJournalTail | with_reducible apply Sound.execMapUpdate
    | with_reducible apply Sound.execSliceTransfer | with_reducible apply Sound.execOrphanResolve
    | with_reducible apply Sound.execAdminUnknownOp | with_reducible apply Sound.ite
    | with_reducible apply SoundOut.next

theorem Sound.execDialectLoad {a : AdminCmd} {s : State} (h_s : Sound q s) : SoundOut q (execDialectLoad a s) := by
  unfold Machine.execDialectLoad
  repeat' first
    | with_reducible assumption | with_reducible apply Sound.takeAdmin | with_reducible apply Sound.execBenchConfigure
    | with_reducible apply Sound.execBulkLoad | with_reducible apply Sound.execCancel
    | with_reducible apply Sound.execKeyLoad | with_reducible apply Sound.execKeyExport
    | with_reducible apply Sound.execKeyDelete | with_reducible apply Sound.execKeyInfo
    | with_reducible apply Sound.execKeySave | with_reducible apply Sound.execKeyRestore
    | with_reducible apply Sound.execZeroise | with_reducible apply Sound.execJournalTail
    | with_reducible apply Sound.execMapUpdate | with_reducible apply Sound.execSliceTransfer
    | with_reducible apply Sound.execOrphanResolve | with_reducible apply Sound.execAdminUnknownOp
    | with_reducible apply Sound.ite | with_reducible apply SoundOut.next

theorem Sound.execBenchConfigure {a : AdminCmd} {s : State} (h_s : Sound q s) : SoundOut q (execBenchConfigure a s) :=
    by
  unfold Machine.execBenchConfigure
  repeat' first
    | with_reducible assumption | with_reducible apply Sound.takeAdmin | with_reducible apply Sound.execBulkLoad
    | with_reducible apply Sound.execCancel | with_reducible apply Sound.execKeyLoad
    | with_reducible apply Sound.execKeyExport | with_reducible apply Sound.execKeyDelete
    | with_reducible apply Sound.execKeyInfo | with_reducible apply Sound.execKeySave
    | with_reducible apply Sound.execKeyRestore | with_reducible apply Sound.execZeroise
    | with_reducible apply Sound.execJournalTail | with_reducible apply Sound.execMapUpdate
    | with_reducible apply Sound.execSliceTransfer | with_reducible apply Sound.execOrphanResolve
    | with_reducible apply Sound.execAdminUnknownOp | with_reducible apply Sound.ite
    | with_reducible apply SoundOut.next

theorem Sound.execBulkLoad {a : AdminCmd} {s : State} (h_s : Sound q s) : SoundOut q (execBulkLoad a s) := by
  unfold Machine.execBulkLoad
  repeat' first
    | with_reducible assumption | with_reducible apply Sound.takeAdmin | with_reducible apply Sound.execCancel
    | with_reducible apply Sound.execKeyLoad | with_reducible apply Sound.execKeyExport
    | with_reducible apply Sound.execKeyDelete | with_reducible apply Sound.execKeyInfo
    | with_reducible apply Sound.execKeySave | with_reducible apply Sound.execKeyRestore
    | with_reducible apply Sound.execZeroise | with_reducible apply Sound.execJournalTail
    | with_reducible apply Sound.execMapUpdate | with_reducible apply Sound.execSliceTransfer
    | with_reducible apply Sound.execOrphanResolve | with_reducible apply Sound.execAdminUnknownOp
    | with_reducible apply Sound.ite | with_reducible apply SoundOut.next

theorem Sound.execCancel {a : AdminCmd} {s : State} (h_s : Sound q s) : SoundOut q (execCancel a s) := by
  unfold Machine.execCancel
  repeat' first
    | with_reducible assumption | with_reducible apply Sound.takeAdmin | with_reducible apply Sound.execKeyLoad
    | with_reducible apply Sound.execKeyExport | with_reducible apply Sound.execKeyDelete
    | with_reducible apply Sound.execKeyInfo | with_reducible apply Sound.execKeySave
    | with_reducible apply Sound.execKeyRestore | with_reducible apply Sound.execZeroise
    | with_reducible apply Sound.execJournalTail | with_reducible apply Sound.execMapUpdate
    | with_reducible apply Sound.execSliceTransfer | with_reducible apply Sound.execOrphanResolve
    | with_reducible apply Sound.execAdminUnknownOp | with_reducible apply Sound.ite
    | with_reducible apply SoundOut.next

theorem Sound.execKeyLoad {a : AdminCmd} {s : State} (h_s : Sound q s) : SoundOut q (execKeyLoad a s) := by
  unfold Machine.execKeyLoad
  repeat' first
    | with_reducible assumption | with_reducible apply Sound.takeAdmin | with_reducible apply Sound.execKeyExport
    | with_reducible apply Sound.execKeyDelete | with_reducible apply Sound.execKeyInfo
    | with_reducible apply Sound.execKeySave | with_reducible apply Sound.execKeyRestore
    | with_reducible apply Sound.execZeroise | with_reducible apply Sound.execJournalTail
    | with_reducible apply Sound.execMapUpdate | with_reducible apply Sound.execSliceTransfer
    | with_reducible apply Sound.execOrphanResolve | with_reducible apply Sound.execAdminUnknownOp
    | with_reducible apply Sound.ite | with_reducible apply SoundOut.next

theorem Sound.execKeyExport {a : AdminCmd} {s : State} (h_s : Sound q s) : SoundOut q (execKeyExport a s) := by
  unfold Machine.execKeyExport
  repeat' first
    | with_reducible assumption | with_reducible apply Sound.takeAdmin | with_reducible apply Sound.execKeyDelete
    | with_reducible apply Sound.execKeyInfo | with_reducible apply Sound.execKeySave
    | with_reducible apply Sound.execKeyRestore | with_reducible apply Sound.execZeroise
    | with_reducible apply Sound.execJournalTail | with_reducible apply Sound.execMapUpdate
    | with_reducible apply Sound.execSliceTransfer | with_reducible apply Sound.execOrphanResolve
    | with_reducible apply Sound.execAdminUnknownOp | with_reducible apply Sound.ite
    | with_reducible apply SoundOut.next

theorem Sound.execKeyDelete {a : AdminCmd} {s : State} (h_s : Sound q s) : SoundOut q (execKeyDelete a s) := by
  unfold Machine.execKeyDelete
  repeat' first
    | with_reducible assumption | with_reducible apply Sound.takeAdmin | with_reducible apply Sound.execKeyInfo
    | with_reducible apply Sound.execKeySave | with_reducible apply Sound.execKeyRestore
    | with_reducible apply Sound.execZeroise | with_reducible apply Sound.execJournalTail
    | with_reducible apply Sound.execMapUpdate | with_reducible apply Sound.execSliceTransfer
    | with_reducible apply Sound.execOrphanResolve | with_reducible apply Sound.execAdminUnknownOp
    | with_reducible apply Sound.ite | with_reducible apply SoundOut.next

theorem Sound.execKeyInfo {a : AdminCmd} {s : State} (h_s : Sound q s) : SoundOut q (execKeyInfo a s) := by
  unfold Machine.execKeyInfo
  repeat' first
    | with_reducible assumption | with_reducible apply Sound.takeAdmin | with_reducible apply Sound.execKeySave
    | with_reducible apply Sound.execKeyRestore | with_reducible apply Sound.execZeroise
    | with_reducible apply Sound.execJournalTail | with_reducible apply Sound.execMapUpdate
    | with_reducible apply Sound.execSliceTransfer | with_reducible apply Sound.execOrphanResolve
    | with_reducible apply Sound.execAdminUnknownOp | with_reducible apply Sound.ite
    | with_reducible apply SoundOut.next

theorem Sound.execKeySave {a : AdminCmd} {s : State} (h_s : Sound q s) : SoundOut q (execKeySave a s) := by
  unfold Machine.execKeySave
  repeat' first
    | with_reducible assumption | with_reducible apply Sound.takeAdmin | with_reducible apply Sound.execKeyRestore
    | with_reducible apply Sound.execZeroise | with_reducible apply Sound.execJournalTail
    | with_reducible apply Sound.execMapUpdate | with_reducible apply Sound.execSliceTransfer
    | with_reducible apply Sound.execOrphanResolve | with_reducible apply Sound.execAdminUnknownOp
    | with_reducible apply Sound.ite | with_reducible apply SoundOut.next

theorem Sound.execKeyRestore {a : AdminCmd} {s : State} (h_s : Sound q s) : SoundOut q (execKeyRestore a s) := by
  unfold Machine.execKeyRestore
  repeat' first
    | with_reducible assumption | with_reducible apply Sound.takeAdmin | with_reducible apply Sound.execZeroise
    | with_reducible apply Sound.execJournalTail | with_reducible apply Sound.execMapUpdate
    | with_reducible apply Sound.execSliceTransfer | with_reducible apply Sound.execOrphanResolve
    | with_reducible apply Sound.execAdminUnknownOp | with_reducible apply Sound.ite
    | with_reducible apply SoundOut.next

theorem Sound.execZeroise {a : AdminCmd} {s : State} (h_s : Sound q s) : SoundOut q (execZeroise a s) := by
  unfold Machine.execZeroise
  repeat' first
    | with_reducible assumption | with_reducible apply Sound.takeAdmin | with_reducible apply Sound.execJournalTail
    | with_reducible apply Sound.execMapUpdate | with_reducible apply Sound.execSliceTransfer
    | with_reducible apply Sound.execOrphanResolve | with_reducible apply Sound.execAdminUnknownOp
    | with_reducible apply Sound.ite | with_reducible apply SoundOut.next

theorem Sound.execJournalTail {a : AdminCmd} {s : State} (h_s : Sound q s) : SoundOut q (execJournalTail a s) := by
  unfold Machine.execJournalTail
  repeat' first
    | with_reducible assumption | with_reducible apply Sound.takeAdmin | with_reducible apply Sound.execMapUpdate
    | with_reducible apply Sound.execSliceTransfer | with_reducible apply Sound.execOrphanResolve
    | with_reducible apply Sound.execAdminUnknownOp | with_reducible apply Sound.ite
    | with_reducible apply SoundOut.next

theorem Sound.execMapUpdate {a : AdminCmd} {s : State} (h_s : Sound q s) : SoundOut q (execMapUpdate a s) := by
  unfold Machine.execMapUpdate
  repeat' first
    | with_reducible assumption | with_reducible apply Sound.takeAdmin | with_reducible apply Sound.execSliceTransfer
    | with_reducible apply Sound.execOrphanResolve | with_reducible apply Sound.execAdminUnknownOp
    | with_reducible apply Sound.ite | with_reducible apply SoundOut.next

theorem Sound.execSliceTransfer {a : AdminCmd} {s : State} (h_s : Sound q s) : SoundOut q (execSliceTransfer a s) :=
    by
  unfold Machine.execSliceTransfer
  repeat' first
    | with_reducible assumption | with_reducible apply Sound.takeAdmin | with_reducible apply Sound.execOrphanResolve
    | with_reducible apply Sound.execAdminUnknownOp | with_reducible apply Sound.ite
    | with_reducible apply SoundOut.next

theorem Sound.execOrphanResolve {a : AdminCmd} {s : State} (h_s : Sound q s) : SoundOut q (execOrphanResolve a s) :=
    by
  unfold Machine.execOrphanResolve
  repeat' first
    | with_reducible assumption | with_reducible apply Sound.takeAdmin | with_reducible apply Sound.execAdminUnknownOp
    | with_reducible apply Sound.ite | with_reducible apply SoundOut.next

theorem Sound.execAdminUnknownOp {opc : ℕ} {a : AdminCmd} {s : State} (h_s : Sound q s) : SoundOut q
    (execAdminUnknownOp opc a s) := by
  unfold Machine.execAdminUnknownOp
  repeat' first
    | with_reducible assumption | with_reducible apply Sound.takeAdmin | with_reducible apply Sound.ite
    | with_reducible apply SoundOut.next

/-! ## Standin -/

theorem Sound.putAcc {s : State} {i : ℕ} {a : SiAcc} (h_s : Sound q s) : Sound q (putAcc s i a) := by
  unfold Machine.putAcc
  repeat' first
    | with_reducible assumption | with_reducible apply Sound.wr

theorem Sound.velocity {s : State} {h : SiHead} {r : SiRule} {digits : List Byte} {amt : ℕ} (h_s : Sound q s) : Sound
    q ((velocity s h r digits amt).2) := by
  unfold Machine.velocity
  repeat' first
    | with_reducible assumption | with_reducible apply Sound.putAcc | with_reducible apply Sound.ite
    | fail_if_no_progress with_reducible apply Sound.upd | dsimp only | split

theorem Sound.settle {s : State} {h : SiHead} {digits : List Byte} {amt : ℕ} {x4 : SiOutcome} (h_s : Sound q s) : InO
    (fun r => Sound q r.2.2.2) (settle s h digits amt x4) := by
  unfold Machine.settle
  repeat' first
    | with_reducible assumption | with_reducible apply Sound.velocity | with_reducible apply Sound.ite
    | with_reducible exact InO.none | with_reducible apply InO.some | dsimp only | split

theorem Sound.siRefuse {s : State} {t : Txn} (h_s : Sound q s) : Sound q (siRefuse s t) := by
  unfold Machine.siRefuse
  repeat' first
    | with_reducible assumption | with_reducible apply Sound.dropTxn | with_reducible apply Sound.countOutstanding
    | with_reducible apply Sound.refuseMsg

theorem Sound.siCommit {s : State} {d : Dialect} {t : Txn} {digits : List Byte} {cur : ℕ} {amt : Option ℕ} {tpl rule
    dec : ℕ} (h_s : Sound q s) : Sound q (siCommit s d t digits cur amt tpl rule dec) := by
  unfold Machine.siCommit
  repeat' first
    | with_reducible assumption | intro _ | with_reducible apply Sound.setF | with_reducible apply Sound.modTxn
    | with_reducible apply Sound.countOutstanding | with_reducible apply Sound.logPut

theorem Sound.siRun {s : State} {d : Dialect} {t : Txn} (h_s : Sound q s) : Sound q (siRun s d t) := by
  unfold Machine.siRun
  repeat' first
    | with_reducible assumption | intro _ | with_reducible apply Sound.settle | with_reducible apply Sound.siRefuse
    | with_reducible apply Sound.siCommit | with_reducible apply Sound.ite | dsimp only | split
    | with_reducible refine Sound.of_some4 ?_ (by assumption)

theorem Sound.execStandinDecide {an : ℕ} {s : State} (h_s : Sound q s) : SoundOut q (execStandinDecide an s) := by
  unfold Machine.execStandinDecide
  repeat' first
    | with_reducible assumption | with_reducible apply Sound.releaseProgress | with_reducible apply Sound.dialectAt
    | with_reducible apply Sound.siRun | with_reducible apply Sound.ite | with_reducible apply SoundOut.next
    | dsimp only | split | with_reducible refine Sound.of_snd ?_ (by assumption)

end Sys2Proof.Laws
end

