-- ==== Sys2Proof/Laws/KeepsLinks.lean ====
section
/-! SUPPORT. One lemma for each operation of FaultOps, Float, Integer, Keys, PowerOps, SysOps, Time, under its name: the operation keeps
the queue of commands and the canonical forms of the maps. -/

namespace Sys2Proof.Laws

open Sys2Proof Sys2Proof.Machine

variable {q : List Instr}

/-! ## FaultOps -/

theorem Sound.uncovered {s : State} {r : ErrReport} (h_s : Sound q s) : Sound q (uncovered s r) := by
  unfold Machine.uncovered
  repeat' first
    | with_reducible assumption | with_reducible apply Sound.setF | with_reducible apply Sound.report
    | with_reducible apply Sound.warmResetTo | with_reducible apply Sound.ite

theorem Sound.loseLine {s : State} {line : ℕ} (h_s : Sound q s) : Sound q (loseLine s line) := by
  unfold Machine.loseLine
  repeat' first
    | with_reducible assumption | with_reducible apply Sound.report | with_reducible apply Sound.ite
    | fail_if_no_progress with_reducible apply Sound.upd

theorem Sound.execHbmScrub {line : ℕ} {e : EccState} {s : State} (h_s : Sound q s) : SoundOut q (execHbmScrub line e
    s) := by
  unfold Machine.execHbmScrub
  repeat' first
    | with_reducible assumption | with_reducible apply Sound.report | with_reducible apply Sound.faultHold
    | with_reducible apply Sound.loseLine | with_reducible apply Sound.ite | with_reducible apply SoundOut.next
    | dsimp only | split

theorem Sound.execHbmDataLoss {line : ℕ} {s : State} (h_s : Sound q s) : SoundOut q (execHbmDataLoss line s) := by
  unfold Machine.execHbmDataLoss
  repeat' first
    | with_reducible assumption | with_reducible apply Sound.loseLine | with_reducible apply Sound.ite
    | with_reducible apply SoundOut.next

theorem Sound.stackLoss {s : State} {k : ℕ} {second : Bool} (h_s : Sound q s) : Sound q (stackLoss s k second) := by
  unfold Machine.stackLoss
  repeat' first
    | with_reducible assumption | with_reducible apply Sound.setF | with_reducible apply Sound.report
    | with_reducible apply Sound.ite | fail_if_no_progress with_reducible apply Sound.upd

theorem Sound.execHbmStackFail {k : Fin 4} {s : State} (h_s : Sound q s) : SoundOut q (execHbmStackFail k s) := by
  unfold Machine.execHbmStackFail
  repeat' first
    | with_reducible assumption | intro _ | with_reducible apply Sound.setF | with_reducible apply Sound.report
    | with_reducible apply Sound.faultHold | with_reducible apply Sound.stackLoss | with_reducible apply Sound.ite
    | with_reducible apply SoundOut.next | fail_if_no_progress with_reducible apply Sound.upd

theorem Sound.execFabricFault {link : ℕ} {e : FabricEnd} {caught : List (CoreId × BankId)} {s : State} (h_s : Sound q
    s) : SoundOut q (execFabricFault link e caught s) := by
  unfold Machine.execFabricFault
  repeat' first
    | with_reducible assumption | intro _ | with_reducible apply Sound.report | with_reducible apply Sound.faultHold
    | with_reducible apply Sound.boundaryReset | with_reducible apply Sound.uncovered | with_reducible apply Sound.ite
    | with_reducible apply Sound.foldl | with_reducible apply Sound.foldl2 | with_reducible apply SoundOut.next
    | dsimp only | split

theorem Sound.execPairedMismatch {i : Fin 44} {s : State} (h_s : Sound q s) : SoundOut q (execPairedMismatch i s) :=
    by
  unfold Machine.execPairedMismatch
  repeat' first
    | with_reducible assumption | with_reducible apply Sound.setF | with_reducible apply Sound.report
    | with_reducible apply Sound.faultHold | with_reducible apply Sound.uncovered | with_reducible apply Sound.ite
    | with_reducible apply SoundOut.next

theorem Sound.execXltLaneFault {lane : Fin 32} {s : State} (h_s : Sound q s) : SoundOut q (execXltLaneFault lane s) :=
    by
  unfold Machine.execXltLaneFault
  repeat' first
    | with_reducible assumption | with_reducible apply Sound.report | with_reducible apply Sound.faultHold
    | with_reducible apply Sound.startTest | with_reducible apply Sound.dropLaneWork
    | with_reducible apply Sound.uncovered | with_reducible apply Sound.ite | with_reducible apply SoundOut.next

theorem Sound.execJnlLaneFault {jsn : ℕ} {s : State} (h_s : Sound q s) : SoundOut q (execJnlLaneFault jsn s) := by
  unfold Machine.execJnlLaneFault
  repeat' first
    | with_reducible assumption | intro _ | with_reducible apply Sound.draw | with_reducible apply Sound.report
    | with_reducible apply Sound.faultHold | with_reducible apply Sound.startTest | with_reducible apply Sound.ite
    | with_reducible apply SoundOut.next

theorem Sound.joinAt {s : State} {i : Fin 44} (h_s : Sound q s) : Sound q (joinAt s i) := by
  unfold Machine.joinAt
  repeat' first
    | with_reducible assumption | with_reducible apply Sound.setClk | with_reducible apply Sound.ite

theorem Sound.returnUnit {s : State} {u : TestUnit} (h_s : Sound q s) : Sound q (returnUnit s u) := by
  unfold Machine.returnUnit
  repeat' first
    | with_reducible assumption | intro _ | with_reducible apply Sound.setF | with_reducible apply Sound.modCore
    | with_reducible apply Sound.setEngine | with_reducible apply Sound.joinAt | with_reducible apply Sound.ite
    | fail_if_no_progress with_reducible apply Sound.upd | dsimp only | split

theorem Sound.retireUnit {s : State} {u : TestUnit} (h_s : Sound q s) : Sound q (retireUnit s u) := by
  unfold Machine.retireUnit
  repeat' first
    | with_reducible assumption | with_reducible apply Sound.bump | with_reducible apply Sound.setF
    | with_reducible apply Sound.setEngine | with_reducible apply Sound.retireCore
    | fail_if_no_progress with_reducible apply Sound.upd | dsimp only | split

theorem Sound.execSelfTestDone {u : TestUnit} {pass : Bool} {s : State} (h_s : Sound q s) : SoundOut q
    (execSelfTestDone u pass s) := by
  unfold Machine.execSelfTestDone
  repeat' first
    | with_reducible assumption | with_reducible apply Sound.report | with_reducible apply Sound.endTest
    | with_reducible apply Sound.returnUnit | with_reducible apply Sound.retireUnit | with_reducible apply Sound.ite
    | with_reducible apply SoundOut.next

theorem Sound.execFaultHoldExpiry {s : State} (h_s : Sound q s) : SoundOut q (execFaultHoldExpiry s) := by
  unfold Machine.execFaultHoldExpiry
  repeat' first
    | with_reducible assumption | intro _ | with_reducible apply Sound.setF | with_reducible apply Sound.ite
    | with_reducible apply SoundOut.next

theorem Sound.reassign {s : State} {x : Txn} (h_s : Sound q s) : Sound q (reassign s x) := by
  unfold Machine.reassign
  repeat' first
    | with_reducible assumption | intro _ | with_reducible apply Sound.modTxn
    | fail_if_no_progress with_reducible apply Sound.upd | dsimp only | split

theorem Sound.loseRun {s : State} {x : Txn} (h_s : Sound q s) : Sound q (loseRun s x) := by
  unfold Machine.loseRun
  repeat' first
    | with_reducible assumption | with_reducible apply Sound.endRun | dsimp only | split

theorem Sound.retireTile {s : State} {t : TileId} (h_s : Sound q s) : Sound q (retireTile s t) := by
  unfold Machine.retireTile
  repeat' first
    | with_reducible assumption | intro _ | with_reducible apply Sound.bump | with_reducible apply Sound.setF
    | with_reducible apply Sound.modCore | with_reducible apply Sound.setIslandState
    | with_reducible apply Sound.setClk | with_reducible apply Sound.avsWrite
    | with_reducible apply Sound.clearTileStore | with_reducible apply Sound.foldl | with_reducible apply Sound.foldl2
    | with_reducible apply Sound.l1Empty | fail_if_no_progress with_reducible apply Sound.upd

theorem Sound.useExtensions {s : State} {t : TileId} (h_s : Sound q s) : Sound q (useExtensions s t) := by
  unfold Machine.useExtensions
  repeat' first
    | with_reducible assumption | intro _ | with_reducible apply Sound.ite
    | fail_if_no_progress with_reducible apply Sound.upd

theorem Sound.execTileLoss {t : TileId} {s : State} (h_s : Sound q s) : SoundOut q (execTileLoss t s) := by
  unfold Machine.execTileLoss
  repeat' first
    | with_reducible assumption | intro _ | with_reducible apply Sound.report
    | with_reducible apply Sound.countOutstanding | with_reducible apply Sound.faultHold
    | with_reducible apply Sound.reassign | with_reducible apply Sound.loseRun | with_reducible apply Sound.retireTile
    | with_reducible apply Sound.useExtensions | with_reducible apply Sound.ite | with_reducible apply Sound.foldl
    | with_reducible apply Sound.foldl2 | with_reducible apply SoundOut.next

/-! ## Float -/

theorem Sound.fpRetire {c : CoreId} {b : BankId} {r : FRes} {write : State → State} {s : State} (h_write : ∀ y0, Sound
    q y0 → Sound q (write y0)) (h_s : Sound q s) : SoundI q (fpRetire c b r write s) := by
  unfold Machine.fpRetire
  repeat' first
    | with_reducible assumption | intro _ | with_reducible apply Sound.modBank | with_reducible apply h_write
    | with_reducible apply Sound.ite | with_reducible apply SoundI.ite | with_reducible apply SoundI.done
    | with_reducible apply SoundI.trap

theorem Sound.fpInstr {c : CoreId} {op : BankId → Word → State → FRes} {write : BankId → ℕ → State → State} {s :
    State} (h_write : ∀ y0 y1 y2, Sound q y2 → Sound q (write y0 y1 y2)) (h_s : Sound q s) : Sound q (fpInstr c op
    write s) := by
  unfold Machine.fpInstr
  repeat' first
    | with_reducible assumption | intro _ | with_reducible apply Sound.baseInstr | with_reducible apply Sound.lazyF
    | with_reducible apply Sound.fpRetire | with_reducible apply h_write

theorem Sound.writeF {c : CoreId} {d : Reg} {x2 : BankId} {bits : ℕ} {s : State} (h_s : Sound q s) : Sound q (writeF c
    d x2 bits s) := by
  unfold Machine.writeF
  repeat' first
    | with_reducible assumption | with_reducible apply Sound.setFr

theorem Sound.fp2 {c : CoreId} {dbl : Bool} {d a b : Reg} {f : FFmt → ℕ → Bool → FVal → FVal → FRes} {s : State} (h_s
    : Sound q s) : Sound q (fp2 c dbl d a b f s) := by
  unfold Machine.fp2
  repeat' first
    | with_reducible assumption | intro _ | with_reducible apply Sound.fpInstr | with_reducible apply Sound.writeF

theorem Sound.execFadd {c : CoreId} {dbl : Bool} {d a b : Reg} {s : State} (h_s : Sound q s) : SoundOut q (execFadd c
    dbl d a b s) := by
  unfold Machine.execFadd
  repeat' first
    | with_reducible assumption | intro _ | with_reducible apply Sound.fp2 | with_reducible apply Sound.setCC
    | with_reducible apply Sound.setG | with_reducible apply Sound.fpInstr | with_reducible apply Sound.writeF
    | with_reducible apply Sound.execFsub | with_reducible apply Sound.execFmul | with_reducible apply Sound.execFdiv
    | with_reducible apply Sound.execFma | with_reducible apply Sound.execFsqrt | with_reducible apply Sound.execFcvt
    | with_reducible apply Sound.execFcvti | with_reducible apply Sound.execFcvtiz
    | with_reducible apply Sound.execFcvtf | with_reducible apply Sound.execFcmpq
    | with_reducible apply Sound.execFcmps | with_reducible apply SoundOut.next

theorem Sound.execFsub {c : CoreId} {dbl : Bool} {d a b : Reg} {s : State} (h_s : Sound q s) : SoundOut q (execFsub c
    dbl d a b s) := by
  unfold Machine.execFsub
  repeat' first
    | with_reducible assumption | intro _ | with_reducible apply Sound.fp2 | with_reducible apply Sound.setCC
    | with_reducible apply Sound.setG | with_reducible apply Sound.fpInstr | with_reducible apply Sound.writeF
    | with_reducible apply Sound.execFmul | with_reducible apply Sound.execFdiv | with_reducible apply Sound.execFma
    | with_reducible apply Sound.execFsqrt | with_reducible apply Sound.execFcvt
    | with_reducible apply Sound.execFcvti | with_reducible apply Sound.execFcvtiz
    | with_reducible apply Sound.execFcvtf | with_reducible apply Sound.execFcmpq
    | with_reducible apply Sound.execFcmps | with_reducible apply SoundOut.next

theorem Sound.execFmul {c : CoreId} {dbl : Bool} {d a b : Reg} {s : State} (h_s : Sound q s) : SoundOut q (execFmul c
    dbl d a b s) := by
  unfold Machine.execFmul
  repeat' first
    | with_reducible assumption | intro _ | with_reducible apply Sound.fp2 | with_reducible apply Sound.setCC
    | with_reducible apply Sound.setG | with_reducible apply Sound.fpInstr | with_reducible apply Sound.writeF
    | with_reducible apply Sound.execFdiv | with_reducible apply Sound.execFma | with_reducible apply Sound.execFsqrt
    | with_reducible apply Sound.execFcvt | with_reducible apply Sound.execFcvti
    | with_reducible apply Sound.execFcvtiz | with_reducible apply Sound.execFcvtf
    | with_reducible apply Sound.execFcmpq | with_reducible apply Sound.execFcmps | with_reducible apply SoundOut.next

theorem Sound.execFdiv {c : CoreId} {dbl : Bool} {d a b : Reg} {s : State} (h_s : Sound q s) : SoundOut q (execFdiv c
    dbl d a b s) := by
  unfold Machine.execFdiv
  repeat' first
    | with_reducible assumption | intro _ | with_reducible apply Sound.fp2 | with_reducible apply Sound.setCC
    | with_reducible apply Sound.setG | with_reducible apply Sound.fpInstr | with_reducible apply Sound.writeF
    | with_reducible apply Sound.execFma | with_reducible apply Sound.execFsqrt | with_reducible apply Sound.execFcvt
    | with_reducible apply Sound.execFcvti | with_reducible apply Sound.execFcvtiz
    | with_reducible apply Sound.execFcvtf | with_reducible apply Sound.execFcmpq
    | with_reducible apply Sound.execFcmps | with_reducible apply SoundOut.next

theorem Sound.execFma {c : CoreId} {dbl : Bool} {d a b cc : Reg} {s : State} (h_s : Sound q s) : SoundOut q (execFma c
    dbl d a b cc s) := by
  unfold Machine.execFma
  repeat' first
    | with_reducible assumption | intro _ | with_reducible apply Sound.fpInstr | with_reducible apply Sound.writeF
    | with_reducible apply Sound.setCC | with_reducible apply Sound.setG | with_reducible apply Sound.execFsqrt
    | with_reducible apply Sound.execFcvt | with_reducible apply Sound.execFcvti
    | with_reducible apply Sound.execFcvtiz | with_reducible apply Sound.execFcvtf
    | with_reducible apply Sound.execFcmpq | with_reducible apply Sound.execFcmps | with_reducible apply SoundOut.next

theorem Sound.execFsqrt {c : CoreId} {dbl : Bool} {d a : Reg} {s : State} (h_s : Sound q s) : SoundOut q (execFsqrt c
    dbl d a s) := by
  unfold Machine.execFsqrt
  repeat' first
    | with_reducible assumption | intro _ | with_reducible apply Sound.fpInstr | with_reducible apply Sound.writeF
    | with_reducible apply Sound.setCC | with_reducible apply Sound.setG | with_reducible apply Sound.execFcvt
    | with_reducible apply Sound.execFcvti | with_reducible apply Sound.execFcvtiz
    | with_reducible apply Sound.execFcvtf | with_reducible apply Sound.execFcmpq
    | with_reducible apply Sound.execFcmps | with_reducible apply SoundOut.next

theorem Sound.execFcvt {c : CoreId} {dbl : Bool} {d a : Reg} {s : State} (h_s : Sound q s) : SoundOut q (execFcvt c
    dbl d a s) := by
  unfold Machine.execFcvt
  repeat' first
    | with_reducible assumption | intro _ | with_reducible apply Sound.fpInstr | with_reducible apply Sound.writeF
    | with_reducible apply Sound.setCC | with_reducible apply Sound.setG | with_reducible apply Sound.execFcvti
    | with_reducible apply Sound.execFcvtiz | with_reducible apply Sound.execFcvtf
    | with_reducible apply Sound.execFcmpq | with_reducible apply Sound.execFcmps | with_reducible apply SoundOut.next

theorem Sound.execFcvti {c : CoreId} {dbl : Bool} {d a : Reg} {s : State} (h_s : Sound q s) : SoundOut q (execFcvti c
    dbl d a s) := by
  unfold Machine.execFcvti
  repeat' first
    | with_reducible assumption | intro _ | with_reducible apply Sound.setG | with_reducible apply Sound.fpInstr
    | with_reducible apply Sound.setCC | with_reducible apply Sound.writeF | with_reducible apply Sound.execFcvtiz
    | with_reducible apply Sound.execFcvtf | with_reducible apply Sound.execFcmpq
    | with_reducible apply Sound.execFcmps | with_reducible apply SoundOut.next

theorem Sound.execFcvtiz {c : CoreId} {dbl : Bool} {d a : Reg} {s : State} (h_s : Sound q s) : SoundOut q (execFcvtiz
    c dbl d a s) := by
  unfold Machine.execFcvtiz
  repeat' first
    | with_reducible assumption | intro _ | with_reducible apply Sound.setG | with_reducible apply Sound.fpInstr
    | with_reducible apply Sound.setCC | with_reducible apply Sound.writeF | with_reducible apply Sound.execFcvtf
    | with_reducible apply Sound.execFcmpq | with_reducible apply Sound.execFcmps | with_reducible apply SoundOut.next

theorem Sound.execFcvtf {c : CoreId} {dbl : Bool} {d a : Reg} {s : State} (h_s : Sound q s) : SoundOut q (execFcvtf c
    dbl d a s) := by
  unfold Machine.execFcvtf
  repeat' first
    | with_reducible assumption | intro _ | with_reducible apply Sound.fpInstr | with_reducible apply Sound.writeF
    | with_reducible apply Sound.setCC | with_reducible apply Sound.execFcmpq | with_reducible apply Sound.execFcmps
    | with_reducible apply SoundOut.next

theorem Sound.execFcmpq {c : CoreId} {dbl : Bool} {a b : Reg} {s : State} (h_s : Sound q s) : SoundOut q (execFcmpq c
    dbl a b s) := by
  unfold Machine.execFcmpq
  repeat' first
    | with_reducible assumption | intro _ | with_reducible apply Sound.setCC | with_reducible apply Sound.fpInstr
    | with_reducible apply Sound.execFcmps | with_reducible apply SoundOut.next

theorem Sound.execFcmps {c : CoreId} {dbl : Bool} {a b : Reg} {s : State} (h_s : Sound q s) : SoundOut q (execFcmps c
    dbl a b s) := by
  unfold Machine.execFcmps
  repeat' first
    | with_reducible assumption | intro _ | with_reducible apply Sound.setCC | with_reducible apply Sound.fpInstr
    | with_reducible apply SoundOut.next

theorem Sound.fpMove {c : CoreId} {f : BankId → State → State} {s : State} (h_f : ∀ y0 y1, Sound q y1 → Sound q (f y0
    y1)) (h_s : Sound q s) : Sound q (fpMove c f s) := by
  unfold Machine.fpMove
  repeat' first
    | with_reducible assumption | intro _ | with_reducible apply Sound.baseInstr | with_reducible apply Sound.lazyF
    | with_reducible apply h_f | with_reducible apply SoundI.done

theorem Sound.execFmvfg {c : CoreId} {dbl : Bool} {d a : Reg} {s : State} (h_s : Sound q s) : SoundOut q (execFmvfg c
    dbl d a s) := by
  unfold Machine.execFmvfg
  repeat' first
    | with_reducible assumption | intro _ | with_reducible apply Sound.setG | with_reducible apply Sound.fpMove
    | with_reducible apply Sound.setFr | with_reducible apply Sound.execFmvgf | with_reducible apply Sound.execFneg
    | with_reducible apply Sound.execFabs | with_reducible apply Sound.ite | with_reducible apply SoundOut.next

theorem Sound.execFmvgf {c : CoreId} {dbl : Bool} {d a : Reg} {s : State} (h_s : Sound q s) : SoundOut q (execFmvgf c
    dbl d a s) := by
  unfold Machine.execFmvgf
  repeat' first
    | with_reducible assumption | intro _ | with_reducible apply Sound.setFr | with_reducible apply Sound.fpMove
    | with_reducible apply Sound.execFneg | with_reducible apply Sound.execFabs | with_reducible apply Sound.ite
    | with_reducible apply SoundOut.next

theorem Sound.execFneg {c : CoreId} {dbl : Bool} {d a : Reg} {s : State} (h_s : Sound q s) : SoundOut q (execFneg c
    dbl d a s) := by
  unfold Machine.execFneg
  repeat' first
    | with_reducible assumption | intro _ | with_reducible apply Sound.setFr | with_reducible apply Sound.fpMove
    | with_reducible apply Sound.execFabs | with_reducible apply SoundOut.next

theorem Sound.execFabs {c : CoreId} {dbl : Bool} {d a : Reg} {s : State} (h_s : Sound q s) : SoundOut q (execFabs c
    dbl d a s) := by
  unfold Machine.execFabs
  repeat' first
    | with_reducible assumption | intro _ | with_reducible apply Sound.setFr | with_reducible apply Sound.fpMove
    | with_reducible apply SoundOut.next

/-! ## Integer -/

theorem Sound.aluOp {c : CoreId} {d a b : Reg} {f : Word → Word → Word} {s : State} (h_s : Sound q s) : Sound q (aluOp
    c d a b f s) := by
  unfold Machine.aluOp
  repeat' first
    | with_reducible assumption | intro _ | with_reducible apply Sound.setG | with_reducible apply Sound.baseInstr
    | with_reducible apply SoundI.done

theorem Sound.aluOp1 {c : CoreId} {d a : Reg} {f : Word → Word} {s : State} (h_s : Sound q s) : Sound q (aluOp1 c d a
    f s) := by
  unfold Machine.aluOp1
  repeat' first
    | with_reducible assumption | intro _ | with_reducible apply Sound.setG | with_reducible apply Sound.baseInstr
    | with_reducible apply SoundI.done

theorem Sound.cmpOp {c : CoreId} {a : Reg} {v : BankId → State → Word} {f : Word → Word → ℕ} {s : State} (h_s : Sound
    q s) : Sound q (cmpOp c a v f s) := by
  unfold Machine.cmpOp
  repeat' first
    | with_reducible assumption | intro _ | with_reducible apply Sound.setCC | with_reducible apply Sound.baseInstr
    | with_reducible apply SoundI.done

theorem Sound.carryOp {c : CoreId} {d a b : Reg} {chain : Bool} {f : Word → Word → ℕ → Word × Bool} {s : State} (h_s :
    Sound q s) : Sound q (carryOp c d a b chain f s) := by
  unfold Machine.carryOp
  repeat' first
    | with_reducible assumption | intro _ | with_reducible apply Sound.setCC | with_reducible apply Sound.setG
    | with_reducible apply Sound.baseInstr | with_reducible apply Sound.ite | with_reducible apply SoundI.done

theorem Sound.wideMul {c : CoreId} {d a b : Reg} {f : Word → Word → ℕ} {s : State} (h_s : Sound q s) : Sound q
    (wideMul c d a b f s) := by
  unfold Machine.wideMul
  repeat' first
    | with_reducible assumption | intro _ | with_reducible apply Sound.setG | with_reducible apply Sound.baseInstr
    | with_reducible apply SoundI.done

theorem Sound.divOp {c : CoreId} {d a b : Reg} {f : Word → Word → Word} {s : State} (h_s : Sound q s) : Sound q (divOp
    c d a b f s) := by
  unfold Machine.divOp
  repeat' first
    | with_reducible assumption | intro _ | with_reducible apply Sound.setG | with_reducible apply Sound.baseInstr
    | with_reducible apply Sound.ite | with_reducible apply SoundI.done | with_reducible apply SoundI.trap
    | dsimp only | split

theorem Sound.execAdd {c : CoreId} {d a b : Reg} {s : State} (h_s : Sound q s) : SoundOut q (execAdd c d a b s) := by
  unfold Machine.execAdd
  repeat' first
    | with_reducible assumption | intro _ | with_reducible apply Sound.aluOp | with_reducible apply Sound.aluOp1
    | with_reducible apply Sound.cmpOp | with_reducible apply Sound.carryOp | with_reducible apply Sound.wideMul
    | with_reducible apply Sound.divOp | with_reducible apply Sound.execSub | with_reducible apply Sound.execAnd
    | with_reducible apply Sound.execOr | with_reducible apply Sound.execXor | with_reducible apply Sound.execAndn
    | with_reducible apply Sound.execSll | with_reducible apply Sound.execSrl | with_reducible apply Sound.execSra
    | with_reducible apply Sound.execSlli | with_reducible apply Sound.execSrli | with_reducible apply Sound.execSrai
    | with_reducible apply Sound.execAdds | with_reducible apply Sound.execAddc | with_reducible apply Sound.execSubs
    | with_reducible apply Sound.execSubb | with_reducible apply Sound.execCmp | with_reducible apply Sound.execCmpu
    | with_reducible apply Sound.execSextb | with_reducible apply Sound.execSexth
    | with_reducible apply Sound.execSextw | with_reducible apply Sound.execMul | with_reducible apply Sound.execMulwu
    | with_reducible apply Sound.execMulws | with_reducible apply Sound.execDivu | with_reducible apply Sound.execDivs
    | with_reducible apply Sound.execRemu | with_reducible apply Sound.execRems | with_reducible apply SoundOut.next

theorem Sound.execSub {c : CoreId} {d a b : Reg} {s : State} (h_s : Sound q s) : SoundOut q (execSub c d a b s) := by
  unfold Machine.execSub
  repeat' first
    | with_reducible assumption | intro _ | with_reducible apply Sound.aluOp | with_reducible apply Sound.aluOp1
    | with_reducible apply Sound.cmpOp | with_reducible apply Sound.carryOp | with_reducible apply Sound.wideMul
    | with_reducible apply Sound.divOp | with_reducible apply Sound.execAnd | with_reducible apply Sound.execOr
    | with_reducible apply Sound.execXor | with_reducible apply Sound.execAndn | with_reducible apply Sound.execSll
    | with_reducible apply Sound.execSrl | with_reducible apply Sound.execSra | with_reducible apply Sound.execSlli
    | with_reducible apply Sound.execSrli | with_reducible apply Sound.execSrai | with_reducible apply Sound.execAdds
    | with_reducible apply Sound.execAddc | with_reducible apply Sound.execSubs | with_reducible apply Sound.execSubb
    | with_reducible apply Sound.execCmp | with_reducible apply Sound.execCmpu | with_reducible apply Sound.execSextb
    | with_reducible apply Sound.execSexth | with_reducible apply Sound.execSextw | with_reducible apply Sound.execMul
    | with_reducible apply Sound.execMulwu | with_reducible apply Sound.execMulws
    | with_reducible apply Sound.execDivu | with_reducible apply Sound.execDivs | with_reducible apply Sound.execRemu
    | with_reducible apply Sound.execRems | with_reducible apply SoundOut.next

theorem Sound.execAnd {c : CoreId} {d a b : Reg} {s : State} (h_s : Sound q s) : SoundOut q (execAnd c d a b s) := by
  unfold Machine.execAnd
  repeat' first
    | with_reducible assumption | intro _ | with_reducible apply Sound.aluOp | with_reducible apply Sound.aluOp1
    | with_reducible apply Sound.cmpOp | with_reducible apply Sound.carryOp | with_reducible apply Sound.wideMul
    | with_reducible apply Sound.divOp | with_reducible apply Sound.execOr | with_reducible apply Sound.execXor
    | with_reducible apply Sound.execAndn | with_reducible apply Sound.execSll | with_reducible apply Sound.execSrl
    | with_reducible apply Sound.execSra | with_reducible apply Sound.execSlli | with_reducible apply Sound.execSrli
    | with_reducible apply Sound.execSrai | with_reducible apply Sound.execAdds | with_reducible apply Sound.execAddc
    | with_reducible apply Sound.execSubs | with_reducible apply Sound.execSubb | with_reducible apply Sound.execCmp
    | with_reducible apply Sound.execCmpu | with_reducible apply Sound.execSextb
    | with_reducible apply Sound.execSexth | with_reducible apply Sound.execSextw | with_reducible apply Sound.execMul
    | with_reducible apply Sound.execMulwu | with_reducible apply Sound.execMulws
    | with_reducible apply Sound.execDivu | with_reducible apply Sound.execDivs | with_reducible apply Sound.execRemu
    | with_reducible apply Sound.execRems | with_reducible apply SoundOut.next

theorem Sound.execOr {c : CoreId} {d a b : Reg} {s : State} (h_s : Sound q s) : SoundOut q (execOr c d a b s) := by
  unfold Machine.execOr
  repeat' first
    | with_reducible assumption | intro _ | with_reducible apply Sound.aluOp | with_reducible apply Sound.aluOp1
    | with_reducible apply Sound.cmpOp | with_reducible apply Sound.carryOp | with_reducible apply Sound.wideMul
    | with_reducible apply Sound.divOp | with_reducible apply Sound.execXor | with_reducible apply Sound.execAndn
    | with_reducible apply Sound.execSll | with_reducible apply Sound.execSrl | with_reducible apply Sound.execSra
    | with_reducible apply Sound.execSlli | with_reducible apply Sound.execSrli | with_reducible apply Sound.execSrai
    | with_reducible apply Sound.execAdds | with_reducible apply Sound.execAddc | with_reducible apply Sound.execSubs
    | with_reducible apply Sound.execSubb | with_reducible apply Sound.execCmp | with_reducible apply Sound.execCmpu
    | with_reducible apply Sound.execSextb | with_reducible apply Sound.execSexth
    | with_reducible apply Sound.execSextw | with_reducible apply Sound.execMul | with_reducible apply Sound.execMulwu
    | with_reducible apply Sound.execMulws | with_reducible apply Sound.execDivu | with_reducible apply Sound.execDivs
    | with_reducible apply Sound.execRemu | with_reducible apply Sound.execRems | with_reducible apply SoundOut.next

theorem Sound.execXor {c : CoreId} {d a b : Reg} {s : State} (h_s : Sound q s) : SoundOut q (execXor c d a b s) := by
  unfold Machine.execXor
  repeat' first
    | with_reducible assumption | intro _ | with_reducible apply Sound.aluOp | with_reducible apply Sound.aluOp1
    | with_reducible apply Sound.cmpOp | with_reducible apply Sound.carryOp | with_reducible apply Sound.wideMul
    | with_reducible apply Sound.divOp | with_reducible apply Sound.execAndn | with_reducible apply Sound.execSll
    | with_reducible apply Sound.execSrl | with_reducible apply Sound.execSra | with_reducible apply Sound.execSlli
    | with_reducible apply Sound.execSrli | with_reducible apply Sound.execSrai | with_reducible apply Sound.execAdds
    | with_reducible apply Sound.execAddc | with_reducible apply Sound.execSubs | with_reducible apply Sound.execSubb
    | with_reducible apply Sound.execCmp | with_reducible apply Sound.execCmpu | with_reducible apply Sound.execSextb
    | with_reducible apply Sound.execSexth | with_reducible apply Sound.execSextw | with_reducible apply Sound.execMul
    | with_reducible apply Sound.execMulwu | with_reducible apply Sound.execMulws
    | with_reducible apply Sound.execDivu | with_reducible apply Sound.execDivs | with_reducible apply Sound.execRemu
    | with_reducible apply Sound.execRems | with_reducible apply SoundOut.next

theorem Sound.execAndn {c : CoreId} {d a b : Reg} {s : State} (h_s : Sound q s) : SoundOut q (execAndn c d a b s) :=
    by
  unfold Machine.execAndn
  repeat' first
    | with_reducible assumption | intro _ | with_reducible apply Sound.aluOp | with_reducible apply Sound.aluOp1
    | with_reducible apply Sound.cmpOp | with_reducible apply Sound.carryOp | with_reducible apply Sound.wideMul
    | with_reducible apply Sound.divOp | with_reducible apply Sound.execSll | with_reducible apply Sound.execSrl
    | with_reducible apply Sound.execSra | with_reducible apply Sound.execSlli | with_reducible apply Sound.execSrli
    | with_reducible apply Sound.execSrai | with_reducible apply Sound.execAdds | with_reducible apply Sound.execAddc
    | with_reducible apply Sound.execSubs | with_reducible apply Sound.execSubb | with_reducible apply Sound.execCmp
    | with_reducible apply Sound.execCmpu | with_reducible apply Sound.execSextb
    | with_reducible apply Sound.execSexth | with_reducible apply Sound.execSextw | with_reducible apply Sound.execMul
    | with_reducible apply Sound.execMulwu | with_reducible apply Sound.execMulws
    | with_reducible apply Sound.execDivu | with_reducible apply Sound.execDivs | with_reducible apply Sound.execRemu
    | with_reducible apply Sound.execRems | with_reducible apply SoundOut.next

theorem Sound.execSll {c : CoreId} {d a b : Reg} {s : State} (h_s : Sound q s) : SoundOut q (execSll c d a b s) := by
  unfold Machine.execSll
  repeat' first
    | with_reducible assumption | intro _ | with_reducible apply Sound.aluOp | with_reducible apply Sound.aluOp1
    | with_reducible apply Sound.cmpOp | with_reducible apply Sound.carryOp | with_reducible apply Sound.wideMul
    | with_reducible apply Sound.divOp | with_reducible apply Sound.execSrl | with_reducible apply Sound.execSra
    | with_reducible apply Sound.execSlli | with_reducible apply Sound.execSrli | with_reducible apply Sound.execSrai
    | with_reducible apply Sound.execAdds | with_reducible apply Sound.execAddc | with_reducible apply Sound.execSubs
    | with_reducible apply Sound.execSubb | with_reducible apply Sound.execCmp | with_reducible apply Sound.execCmpu
    | with_reducible apply Sound.execSextb | with_reducible apply Sound.execSexth
    | with_reducible apply Sound.execSextw | with_reducible apply Sound.execMul | with_reducible apply Sound.execMulwu
    | with_reducible apply Sound.execMulws | with_reducible apply Sound.execDivu | with_reducible apply Sound.execDivs
    | with_reducible apply Sound.execRemu | with_reducible apply Sound.execRems | with_reducible apply SoundOut.next

theorem Sound.execSrl {c : CoreId} {d a b : Reg} {s : State} (h_s : Sound q s) : SoundOut q (execSrl c d a b s) := by
  unfold Machine.execSrl
  repeat' first
    | with_reducible assumption | intro _ | with_reducible apply Sound.aluOp | with_reducible apply Sound.aluOp1
    | with_reducible apply Sound.cmpOp | with_reducible apply Sound.carryOp | with_reducible apply Sound.wideMul
    | with_reducible apply Sound.divOp | with_reducible apply Sound.execSra | with_reducible apply Sound.execSlli
    | with_reducible apply Sound.execSrli | with_reducible apply Sound.execSrai | with_reducible apply Sound.execAdds
    | with_reducible apply Sound.execAddc | with_reducible apply Sound.execSubs | with_reducible apply Sound.execSubb
    | with_reducible apply Sound.execCmp | with_reducible apply Sound.execCmpu | with_reducible apply Sound.execSextb
    | with_reducible apply Sound.execSexth | with_reducible apply Sound.execSextw | with_reducible apply Sound.execMul
    | with_reducible apply Sound.execMulwu | with_reducible apply Sound.execMulws
    | with_reducible apply Sound.execDivu | with_reducible apply Sound.execDivs | with_reducible apply Sound.execRemu
    | with_reducible apply Sound.execRems | with_reducible apply SoundOut.next

theorem Sound.execSra {c : CoreId} {d a b : Reg} {s : State} (h_s : Sound q s) : SoundOut q (execSra c d a b s) := by
  unfold Machine.execSra
  repeat' first
    | with_reducible assumption | intro _ | with_reducible apply Sound.aluOp | with_reducible apply Sound.aluOp1
    | with_reducible apply Sound.cmpOp | with_reducible apply Sound.carryOp | with_reducible apply Sound.wideMul
    | with_reducible apply Sound.divOp | with_reducible apply Sound.execSlli | with_reducible apply Sound.execSrli
    | with_reducible apply Sound.execSrai | with_reducible apply Sound.execAdds | with_reducible apply Sound.execAddc
    | with_reducible apply Sound.execSubs | with_reducible apply Sound.execSubb | with_reducible apply Sound.execCmp
    | with_reducible apply Sound.execCmpu | with_reducible apply Sound.execSextb
    | with_reducible apply Sound.execSexth | with_reducible apply Sound.execSextw | with_reducible apply Sound.execMul
    | with_reducible apply Sound.execMulwu | with_reducible apply Sound.execMulws
    | with_reducible apply Sound.execDivu | with_reducible apply Sound.execDivs | with_reducible apply Sound.execRemu
    | with_reducible apply Sound.execRems | with_reducible apply SoundOut.next

theorem Sound.execSlli {c : CoreId} {d a : Reg} {sh : Fin 64} {s : State} (h_s : Sound q s) : SoundOut q (execSlli c d
    a sh s) := by
  unfold Machine.execSlli
  repeat' first
    | with_reducible assumption | intro _ | with_reducible apply Sound.aluOp1 | with_reducible apply Sound.aluOp
    | with_reducible apply Sound.cmpOp | with_reducible apply Sound.carryOp | with_reducible apply Sound.wideMul
    | with_reducible apply Sound.divOp | with_reducible apply Sound.execSrli | with_reducible apply Sound.execSrai
    | with_reducible apply Sound.execAdds | with_reducible apply Sound.execAddc | with_reducible apply Sound.execSubs
    | with_reducible apply Sound.execSubb | with_reducible apply Sound.execCmp | with_reducible apply Sound.execCmpu
    | with_reducible apply Sound.execSextb | with_reducible apply Sound.execSexth
    | with_reducible apply Sound.execSextw | with_reducible apply Sound.execMul | with_reducible apply Sound.execMulwu
    | with_reducible apply Sound.execMulws | with_reducible apply Sound.execDivu | with_reducible apply Sound.execDivs
    | with_reducible apply Sound.execRemu | with_reducible apply Sound.execRems | with_reducible apply SoundOut.next

theorem Sound.execSrli {c : CoreId} {d a : Reg} {sh : Fin 64} {s : State} (h_s : Sound q s) : SoundOut q (execSrli c d
    a sh s) := by
  unfold Machine.execSrli
  repeat' first
    | with_reducible assumption | intro _ | with_reducible apply Sound.aluOp1 | with_reducible apply Sound.aluOp
    | with_reducible apply Sound.cmpOp | with_reducible apply Sound.carryOp | with_reducible apply Sound.wideMul
    | with_reducible apply Sound.divOp | with_reducible apply Sound.execSrai | with_reducible apply Sound.execAdds
    | with_reducible apply Sound.execAddc | with_reducible apply Sound.execSubs | with_reducible apply Sound.execSubb
    | with_reducible apply Sound.execCmp | with_reducible apply Sound.execCmpu | with_reducible apply Sound.execSextb
    | with_reducible apply Sound.execSexth | with_reducible apply Sound.execSextw | with_reducible apply Sound.execMul
    | with_reducible apply Sound.execMulwu | with_reducible apply Sound.execMulws
    | with_reducible apply Sound.execDivu | with_reducible apply Sound.execDivs | with_reducible apply Sound.execRemu
    | with_reducible apply Sound.execRems | with_reducible apply SoundOut.next

theorem Sound.execSrai {c : CoreId} {d a : Reg} {sh : Fin 64} {s : State} (h_s : Sound q s) : SoundOut q (execSrai c d
    a sh s) := by
  unfold Machine.execSrai
  repeat' first
    | with_reducible assumption | intro _ | with_reducible apply Sound.aluOp1 | with_reducible apply Sound.aluOp
    | with_reducible apply Sound.cmpOp | with_reducible apply Sound.carryOp | with_reducible apply Sound.wideMul
    | with_reducible apply Sound.divOp | with_reducible apply Sound.execAdds | with_reducible apply Sound.execAddc
    | with_reducible apply Sound.execSubs | with_reducible apply Sound.execSubb | with_reducible apply Sound.execCmp
    | with_reducible apply Sound.execCmpu | with_reducible apply Sound.execSextb
    | with_reducible apply Sound.execSexth | with_reducible apply Sound.execSextw | with_reducible apply Sound.execMul
    | with_reducible apply Sound.execMulwu | with_reducible apply Sound.execMulws
    | with_reducible apply Sound.execDivu | with_reducible apply Sound.execDivs | with_reducible apply Sound.execRemu
    | with_reducible apply Sound.execRems | with_reducible apply SoundOut.next

theorem Sound.execAdds {c : CoreId} {d a b : Reg} {s : State} (h_s : Sound q s) : SoundOut q (execAdds c d a b s) :=
    by
  unfold Machine.execAdds
  repeat' first
    | with_reducible assumption | intro _ | with_reducible apply Sound.carryOp | with_reducible apply Sound.aluOp
    | with_reducible apply Sound.aluOp1 | with_reducible apply Sound.cmpOp | with_reducible apply Sound.wideMul
    | with_reducible apply Sound.divOp | with_reducible apply Sound.execAddc | with_reducible apply Sound.execSubs
    | with_reducible apply Sound.execSubb | with_reducible apply Sound.execCmp | with_reducible apply Sound.execCmpu
    | with_reducible apply Sound.execSextb | with_reducible apply Sound.execSexth
    | with_reducible apply Sound.execSextw | with_reducible apply Sound.execMul | with_reducible apply Sound.execMulwu
    | with_reducible apply Sound.execMulws | with_reducible apply Sound.execDivu | with_reducible apply Sound.execDivs
    | with_reducible apply Sound.execRemu | with_reducible apply Sound.execRems | with_reducible apply SoundOut.next

theorem Sound.execAddc {c : CoreId} {d a b : Reg} {s : State} (h_s : Sound q s) : SoundOut q (execAddc c d a b s) :=
    by
  unfold Machine.execAddc
  repeat' first
    | with_reducible assumption | intro _ | with_reducible apply Sound.carryOp | with_reducible apply Sound.aluOp
    | with_reducible apply Sound.aluOp1 | with_reducible apply Sound.cmpOp | with_reducible apply Sound.wideMul
    | with_reducible apply Sound.divOp | with_reducible apply Sound.execSubs | with_reducible apply Sound.execSubb
    | with_reducible apply Sound.execCmp | with_reducible apply Sound.execCmpu | with_reducible apply Sound.execSextb
    | with_reducible apply Sound.execSexth | with_reducible apply Sound.execSextw | with_reducible apply Sound.execMul
    | with_reducible apply Sound.execMulwu | with_reducible apply Sound.execMulws
    | with_reducible apply Sound.execDivu | with_reducible apply Sound.execDivs | with_reducible apply Sound.execRemu
    | with_reducible apply Sound.execRems | with_reducible apply SoundOut.next

theorem Sound.execSubs {c : CoreId} {d a b : Reg} {s : State} (h_s : Sound q s) : SoundOut q (execSubs c d a b s) :=
    by
  unfold Machine.execSubs
  repeat' first
    | with_reducible assumption | intro _ | with_reducible apply Sound.carryOp | with_reducible apply Sound.aluOp
    | with_reducible apply Sound.aluOp1 | with_reducible apply Sound.cmpOp | with_reducible apply Sound.wideMul
    | with_reducible apply Sound.divOp | with_reducible apply Sound.execSubb | with_reducible apply Sound.execCmp
    | with_reducible apply Sound.execCmpu | with_reducible apply Sound.execSextb
    | with_reducible apply Sound.execSexth | with_reducible apply Sound.execSextw | with_reducible apply Sound.execMul
    | with_reducible apply Sound.execMulwu | with_reducible apply Sound.execMulws
    | with_reducible apply Sound.execDivu | with_reducible apply Sound.execDivs | with_reducible apply Sound.execRemu
    | with_reducible apply Sound.execRems | with_reducible apply SoundOut.next

theorem Sound.execSubb {c : CoreId} {d a b : Reg} {s : State} (h_s : Sound q s) : SoundOut q (execSubb c d a b s) :=
    by
  unfold Machine.execSubb
  repeat' first
    | with_reducible assumption | intro _ | with_reducible apply Sound.carryOp | with_reducible apply Sound.aluOp
    | with_reducible apply Sound.aluOp1 | with_reducible apply Sound.cmpOp | with_reducible apply Sound.wideMul
    | with_reducible apply Sound.divOp | with_reducible apply Sound.execCmp | with_reducible apply Sound.execCmpu
    | with_reducible apply Sound.execSextb | with_reducible apply Sound.execSexth
    | with_reducible apply Sound.execSextw | with_reducible apply Sound.execMul | with_reducible apply Sound.execMulwu
    | with_reducible apply Sound.execMulws | with_reducible apply Sound.execDivu | with_reducible apply Sound.execDivs
    | with_reducible apply Sound.execRemu | with_reducible apply Sound.execRems | with_reducible apply SoundOut.next

theorem Sound.execCmp {c : CoreId} {a b : Reg} {s : State} (h_s : Sound q s) : SoundOut q (execCmp c a b s) := by
  unfold Machine.execCmp
  repeat' first
    | with_reducible assumption | intro _ | with_reducible apply Sound.cmpOp | with_reducible apply Sound.aluOp
    | with_reducible apply Sound.aluOp1 | with_reducible apply Sound.wideMul | with_reducible apply Sound.divOp
    | with_reducible apply Sound.execCmpu | with_reducible apply Sound.execSextb
    | with_reducible apply Sound.execSexth | with_reducible apply Sound.execSextw | with_reducible apply Sound.execMul
    | with_reducible apply Sound.execMulwu | with_reducible apply Sound.execMulws
    | with_reducible apply Sound.execDivu | with_reducible apply Sound.execDivs | with_reducible apply Sound.execRemu
    | with_reducible apply Sound.execRems | with_reducible apply SoundOut.next

theorem Sound.execCmpu {c : CoreId} {a b : Reg} {s : State} (h_s : Sound q s) : SoundOut q (execCmpu c a b s) := by
  unfold Machine.execCmpu
  repeat' first
    | with_reducible assumption | intro _ | with_reducible apply Sound.cmpOp | with_reducible apply Sound.aluOp
    | with_reducible apply Sound.aluOp1 | with_reducible apply Sound.wideMul | with_reducible apply Sound.divOp
    | with_reducible apply Sound.execSextb | with_reducible apply Sound.execSexth
    | with_reducible apply Sound.execSextw | with_reducible apply Sound.execMul | with_reducible apply Sound.execMulwu
    | with_reducible apply Sound.execMulws | with_reducible apply Sound.execDivu | with_reducible apply Sound.execDivs
    | with_reducible apply Sound.execRemu | with_reducible apply Sound.execRems | with_reducible apply SoundOut.next

theorem Sound.execSextb {c : CoreId} {d a : Reg} {s : State} (h_s : Sound q s) : SoundOut q (execSextb c d a s) := by
  unfold Machine.execSextb
  repeat' first
    | with_reducible assumption | intro _ | with_reducible apply Sound.aluOp1 | with_reducible apply Sound.aluOp
    | with_reducible apply Sound.wideMul | with_reducible apply Sound.divOp | with_reducible apply Sound.execSexth
    | with_reducible apply Sound.execSextw | with_reducible apply Sound.execMul | with_reducible apply Sound.execMulwu
    | with_reducible apply Sound.execMulws | with_reducible apply Sound.execDivu | with_reducible apply Sound.execDivs
    | with_reducible apply Sound.execRemu | with_reducible apply Sound.execRems | with_reducible apply SoundOut.next

theorem Sound.execSexth {c : CoreId} {d a : Reg} {s : State} (h_s : Sound q s) : SoundOut q (execSexth c d a s) := by
  unfold Machine.execSexth
  repeat' first
    | with_reducible assumption | intro _ | with_reducible apply Sound.aluOp1 | with_reducible apply Sound.aluOp
    | with_reducible apply Sound.wideMul | with_reducible apply Sound.divOp | with_reducible apply Sound.execSextw
    | with_reducible apply Sound.execMul | with_reducible apply Sound.execMulwu | with_reducible apply Sound.execMulws
    | with_reducible apply Sound.execDivu | with_reducible apply Sound.execDivs | with_reducible apply Sound.execRemu
    | with_reducible apply Sound.execRems | with_reducible apply SoundOut.next

theorem Sound.execSextw {c : CoreId} {d a : Reg} {s : State} (h_s : Sound q s) : SoundOut q (execSextw c d a s) := by
  unfold Machine.execSextw
  repeat' first
    | with_reducible assumption | intro _ | with_reducible apply Sound.aluOp1 | with_reducible apply Sound.aluOp
    | with_reducible apply Sound.wideMul | with_reducible apply Sound.divOp | with_reducible apply Sound.execMul
    | with_reducible apply Sound.execMulwu | with_reducible apply Sound.execMulws
    | with_reducible apply Sound.execDivu | with_reducible apply Sound.execDivs | with_reducible apply Sound.execRemu
    | with_reducible apply Sound.execRems | with_reducible apply SoundOut.next

theorem Sound.execMul {c : CoreId} {d a b : Reg} {s : State} (h_s : Sound q s) : SoundOut q (execMul c d a b s) := by
  unfold Machine.execMul
  repeat' first
    | with_reducible assumption | intro _ | with_reducible apply Sound.aluOp | with_reducible apply Sound.wideMul
    | with_reducible apply Sound.divOp | with_reducible apply Sound.execMulwu | with_reducible apply Sound.execMulws
    | with_reducible apply Sound.execDivu | with_reducible apply Sound.execDivs | with_reducible apply Sound.execRemu
    | with_reducible apply Sound.execRems | with_reducible apply SoundOut.next

theorem Sound.execMulwu {c : CoreId} {d a b : Reg} {s : State} (h_s : Sound q s) : SoundOut q (execMulwu c d a b s) :=
    by
  unfold Machine.execMulwu
  repeat' first
    | with_reducible assumption | intro _ | with_reducible apply Sound.wideMul | with_reducible apply Sound.divOp
    | with_reducible apply Sound.execMulws | with_reducible apply Sound.execDivu | with_reducible apply Sound.execDivs
    | with_reducible apply Sound.execRemu | with_reducible apply Sound.execRems | with_reducible apply SoundOut.next

theorem Sound.execMulws {c : CoreId} {d a b : Reg} {s : State} (h_s : Sound q s) : SoundOut q (execMulws c d a b s) :=
    by
  unfold Machine.execMulws
  repeat' first
    | with_reducible assumption | intro _ | with_reducible apply Sound.wideMul | with_reducible apply Sound.divOp
    | with_reducible apply Sound.execDivu | with_reducible apply Sound.execDivs | with_reducible apply Sound.execRemu
    | with_reducible apply Sound.execRems | with_reducible apply SoundOut.next

theorem Sound.execDivu {c : CoreId} {d a b : Reg} {s : State} (h_s : Sound q s) : SoundOut q (execDivu c d a b s) :=
    by
  unfold Machine.execDivu
  repeat' first
    | with_reducible assumption | intro _ | with_reducible apply Sound.divOp | with_reducible apply Sound.execDivs
    | with_reducible apply Sound.execRemu | with_reducible apply Sound.execRems | with_reducible apply SoundOut.next

theorem Sound.execDivs {c : CoreId} {d a b : Reg} {s : State} (h_s : Sound q s) : SoundOut q (execDivs c d a b s) :=
    by
  unfold Machine.execDivs
  repeat' first
    | with_reducible assumption | intro _ | with_reducible apply Sound.divOp | with_reducible apply Sound.execRemu
    | with_reducible apply Sound.execRems | with_reducible apply SoundOut.next

theorem Sound.execRemu {c : CoreId} {d a b : Reg} {s : State} (h_s : Sound q s) : SoundOut q (execRemu c d a b s) :=
    by
  unfold Machine.execRemu
  repeat' first
    | with_reducible assumption | intro _ | with_reducible apply Sound.divOp | with_reducible apply Sound.execRems
    | with_reducible apply SoundOut.next

theorem Sound.execRems {c : CoreId} {d a b : Reg} {s : State} (h_s : Sound q s) : SoundOut q (execRems c d a b s) :=
    by
  unfold Machine.execRems
  repeat' first
    | with_reducible assumption | with_reducible apply Sound.divOp | with_reducible apply SoundOut.next

theorem Sound.execDivwu {c : CoreId} {d a b : Reg} {s : State} (h_s : Sound q s) : SoundOut q (execDivwu c d a b s) :=
    by
  unfold Machine.execDivwu
  repeat' first
    | with_reducible assumption | intro _ | with_reducible apply Sound.setCC | with_reducible apply Sound.setG
    | with_reducible apply Sound.baseInstr | with_reducible apply Sound.ite | with_reducible apply SoundI.done
    | with_reducible apply SoundI.trap | with_reducible apply SoundOut.next | dsimp only | split

theorem Sound.execAddi {c : CoreId} {d a : Reg} {imm : BitVec 16} {s : State} (h_s : Sound q s) : SoundOut q (execAddi
    c d a imm s) := by
  unfold Machine.execAddi
  repeat' first
    | with_reducible assumption | intro _ | with_reducible apply Sound.aluOp1 | with_reducible apply Sound.cmpOp
    | with_reducible apply Sound.execAndi | with_reducible apply Sound.execOri | with_reducible apply Sound.execXori
    | with_reducible apply Sound.execLui | with_reducible apply Sound.execCmpi | with_reducible apply Sound.execCmpui
    | with_reducible apply SoundOut.next

theorem Sound.execAndi {c : CoreId} {d a : Reg} {imm : BitVec 16} {s : State} (h_s : Sound q s) : SoundOut q (execAndi
    c d a imm s) := by
  unfold Machine.execAndi
  repeat' first
    | with_reducible assumption | intro _ | with_reducible apply Sound.aluOp1 | with_reducible apply Sound.cmpOp
    | with_reducible apply Sound.execOri | with_reducible apply Sound.execXori | with_reducible apply Sound.execLui
    | with_reducible apply Sound.execCmpi | with_reducible apply Sound.execCmpui | with_reducible apply SoundOut.next

theorem Sound.execOri {c : CoreId} {d a : Reg} {imm : BitVec 16} {s : State} (h_s : Sound q s) : SoundOut q (execOri c
    d a imm s) := by
  unfold Machine.execOri
  repeat' first
    | with_reducible assumption | intro _ | with_reducible apply Sound.aluOp1 | with_reducible apply Sound.cmpOp
    | with_reducible apply Sound.execXori | with_reducible apply Sound.execLui | with_reducible apply Sound.execCmpi
    | with_reducible apply Sound.execCmpui | with_reducible apply SoundOut.next

theorem Sound.execXori {c : CoreId} {d a : Reg} {imm : BitVec 16} {s : State} (h_s : Sound q s) : SoundOut q (execXori
    c d a imm s) := by
  unfold Machine.execXori
  repeat' first
    | with_reducible assumption | intro _ | with_reducible apply Sound.aluOp1 | with_reducible apply Sound.cmpOp
    | with_reducible apply Sound.execLui | with_reducible apply Sound.execCmpi | with_reducible apply Sound.execCmpui
    | with_reducible apply SoundOut.next

theorem Sound.execLui {c : CoreId} {d : Reg} {imm : BitVec 16} {s : State} (h_s : Sound q s) : SoundOut q (execLui c d
    imm s) := by
  unfold Machine.execLui
  repeat' first
    | with_reducible assumption | intro _ | with_reducible apply Sound.aluOp1 | with_reducible apply Sound.cmpOp
    | with_reducible apply Sound.execCmpi | with_reducible apply Sound.execCmpui | with_reducible apply SoundOut.next

theorem Sound.execCmpi {c : CoreId} {a : Reg} {imm : BitVec 16} {s : State} (h_s : Sound q s) : SoundOut q (execCmpi c
    a imm s) := by
  unfold Machine.execCmpi
  repeat' first
    | with_reducible assumption | intro _ | with_reducible apply Sound.cmpOp | with_reducible apply Sound.execCmpui
    | with_reducible apply SoundOut.next

theorem Sound.execCmpui {c : CoreId} {a : Reg} {imm : BitVec 16} {s : State} (h_s : Sound q s) : SoundOut q (execCmpui
    c a imm s) := by
  unfold Machine.execCmpui
  repeat' first
    | with_reducible assumption | intro _ | with_reducible apply Sound.cmpOp | with_reducible apply SoundOut.next

/-! ## Keys -/

theorem Sound.execMpuCommitGo {s : State} (h_s : Sound q s) : SoundOut q (execMpuCommitGo s) := by
  unfold Machine.execMpuCommitGo
  repeat' first
    | with_reducible assumption | with_reducible apply Sound.requestActivation | with_reducible apply SoundOut.next

theorem Sound.retireMsync {s : State} {c : CoreId} (h_s : Sound q s) : Sound q (retireMsync s c) := by
  unfold Machine.retireMsync
  repeat' first
    | with_reducible assumption | with_reducible apply Sound.retireWait | with_reducible apply Sound.ite

theorem Sound.execMpuActivation {s : State} (h_s : Sound q s) : SoundOut q (execMpuActivation s) := by
  unfold Machine.execMpuActivation
  repeat' first
    | with_reducible assumption | intro _ | with_reducible apply Sound.activateAll
    | with_reducible apply Sound.retireMsync | with_reducible apply Sound.ite | with_reducible apply Sound.foldl
    | with_reducible apply Sound.foldl2 | with_reducible apply SoundOut.next

theorem Sound.execMpuSkeyWrite {v : Word} {s : State} (h_s : Sound q s) : SoundOut q (execMpuSkeyWrite v s) := by
  unfold Machine.execMpuSkeyWrite
  repeat' first
    | with_reducible assumption | with_reducible apply Sound.skeyWrite | with_reducible apply SoundOut.next

theorem Sound.execStorageKeyAcked {s : State} (h_s : Sound q s) : SoundOut q (execStorageKeyAcked s) := by
  unfold Machine.execStorageKeyAcked
  repeat' first
    | with_reducible assumption | with_reducible apply Sound.setFrameKey | with_reducible apply Sound.finishSkey
    | with_reducible apply Sound.retireWait | with_reducible apply Sound.ite | with_reducible apply SoundOut.next
    | dsimp only | split

/-! ## PowerOps -/

theorem Sound.execClockScaleEval {i : Fin 30} {s : State} (h_s : Sound q s) : SoundOut q (execClockScaleEval i s) :=
    by
  unfold Machine.execClockScaleEval
  repeat' first
    | with_reducible assumption | with_reducible apply Sound.evalClock | with_reducible apply Sound.noteClamp
    | with_reducible apply SoundOut.next

theorem Sound.execClockHoldExpiry {i : Fin 30} {s : State} (h_s : Sound q s) : SoundOut q (execClockHoldExpiry i s) :=
    by
  unfold Machine.execClockHoldExpiry
  repeat' first
    | with_reducible assumption | with_reducible apply Sound.lowerTo | with_reducible apply Sound.ite
    | with_reducible apply SoundOut.next | dsimp only | split

theorem Sound.execOperatingPointDone {i : Fin 30} {s : State} (h_s : Sound q s) : SoundOut q (execOperatingPointDone i
    s) := by
  unfold Machine.execOperatingPointDone
  repeat' first
    | with_reducible assumption | intro _ | with_reducible apply Sound.modIsl | with_reducible apply Sound.setClk
    | with_reducible apply Sound.evalClock | with_reducible apply Sound.noteClamp | with_reducible apply Sound.ite
    | with_reducible apply SoundOut.next | fail_if_no_progress with_reducible apply Sound.upd | dsimp only | split

theorem Sound.execIslandRun {i : Fin 44} {s : State} (h_s : Sound q s) : SoundOut q (execIslandRun i s) := by
  unfold Machine.execIslandRun
  repeat' first
    | with_reducible assumption | with_reducible apply Sound.islandAction | with_reducible apply SoundOut.next

theorem Sound.execIslandHold {i : Fin 44} {s : State} (h_s : Sound q s) : SoundOut q (execIslandHold i s) := by
  unfold Machine.execIslandHold
  repeat' first
    | with_reducible assumption | with_reducible apply Sound.islandAction | with_reducible apply SoundOut.next

theorem Sound.execIslandOff {i : Fin 44} {s : State} (h_s : Sound q s) : SoundOut q (execIslandOff i s) := by
  unfold Machine.execIslandOff
  repeat' first
    | with_reducible assumption | with_reducible apply Sound.islandAction | with_reducible apply SoundOut.next

theorem Sound.execIslandReset {i : Fin 44} {s : State} (h_s : Sound q s) : SoundOut q (execIslandReset i s) := by
  unfold Machine.execIslandReset
  repeat' first
    | with_reducible assumption | with_reducible apply Sound.islandAction | with_reducible apply SoundOut.next

theorem Sound.resetCores {s : State} {t : TileId} {keep : Core → Word × ℕ} (h_s : Sound q s) : Sound q (resetCores s t
    keep) := by
  unfold Machine.resetCores
  repeat' first
    | with_reducible assumption | intro _ | with_reducible apply Sound.modCore | with_reducible apply Sound.foldl
    | with_reducible apply Sound.l1Empty

theorem Sound.tileOff {s : State} {t : TileId} (h_s : Sound q s) : Sound q (tileOff s t) := by
  unfold Machine.tileOff
  repeat' first
    | with_reducible assumption | intro _ | with_reducible apply Sound.clearTileStore
    | with_reducible apply Sound.resetCores | fail_if_no_progress with_reducible apply Sound.upd

theorem Sound.loseLocks {s : State} (h_s : Sound q s) : Sound q (loseLocks s) := by
  unfold Machine.loseLocks
  repeat' first
    | with_reducible assumption | intro _ | with_reducible apply Sound.boundaryReset
    | with_reducible apply Sound.foldl | with_reducible apply Sound.foldl2
    | fail_if_no_progress with_reducible apply Sound.upd

theorem Sound.loseIsland {s : State} {i : Fin 44} {off : Bool} (h_s : Sound q s) : Sound q (loseIsland s i off) := by
  unfold Machine.loseIsland
  repeat' first
    | with_reducible assumption | intro _ | with_reducible apply Sound.clearTileStore
    | with_reducible apply Sound.resetCores | with_reducible apply Sound.tileOff
    | with_reducible apply Sound.loseLocks | with_reducible apply Sound.ite | dsimp only | split

theorem Sound.drainTile {s : State} {i : Fin 44} (h_s : Sound q s) : Sound q (drainTile s i) := by
  unfold Machine.drainTile
  repeat' first
    | with_reducible assumption | intro _ | with_reducible apply Sound.drainAll | with_reducible apply Sound.ite
    | with_reducible apply Sound.foldl | with_reducible apply Sound.foldl2 | dsimp only | split

theorem Sound.execIslandQuiesced {i : Fin 44} {s : State} (h_s : Sound q s) : SoundOut q (execIslandQuiesced i s) :=
    by
  unfold Machine.execIslandQuiesced
  repeat' first
    | with_reducible assumption | intro _ | with_reducible apply Sound.modIsl
    | with_reducible apply Sound.setIslandState | with_reducible apply Sound.setClk
    | with_reducible apply Sound.loseIsland | with_reducible apply Sound.drainTile | with_reducible apply Sound.ite
    | with_reducible apply SoundOut.next | fail_if_no_progress with_reducible apply Sound.upd | dsimp only | split

theorem Sound.restoreKept {s : State} {i : Fin 44} (h_s : Sound q s) : Sound q (restoreKept s i) := by
  unfold Machine.restoreKept
  repeat' first
    | with_reducible assumption | intro _ | with_reducible apply Sound.modCore | with_reducible apply Sound.ite
    | with_reducible apply Sound.foldl | with_reducible apply Sound.foldl2
    | fail_if_no_progress with_reducible apply Sound.upd | dsimp only | split

theorem Sound.restoreStack {s : State} {i : Fin 44} (h_s : Sound q s) : Sound q (restoreStack s i) := by
  unfold Machine.restoreStack
  repeat' first
    | with_reducible assumption | intro _ | with_reducible apply Sound.setF | with_reducible apply Sound.ite

theorem Sound.execIslandReturn {i : Fin 44} {s : State} (h_s : Sound q s) : SoundOut q (execIslandReturn i s) := by
  unfold Machine.execIslandReturn
  repeat' first
    | with_reducible assumption | intro _ | with_reducible apply Sound.modIsl
    | with_reducible apply Sound.setIslandState | with_reducible apply Sound.setClk
    | with_reducible apply Sound.restoreLog | with_reducible apply Sound.restoreKept
    | with_reducible apply Sound.restoreStack | with_reducible apply Sound.ite | with_reducible apply SoundOut.next

theorem Sound.substitute {s : State} {k : ℕ} (h_s : Sound q s) : Sound q ((substitute s k).2) := by
  unfold Machine.substitute
  repeat' first
    | with_reducible assumption | intro _ | with_reducible apply Sound.draw | dsimp only | split

theorem Sound.putTemp {s : State} {k : ℕ} {t : ℤ} (h_s : Sound q s) : Sound q (putTemp s k t) := by
  unfold Machine.putTemp
  repeat' first
    | with_reducible assumption | with_reducible apply Sound.setF

theorem Sound.noteMax {s : State} {k : ℕ} {t : ℤ} (h_s : Sound q s) : Sound q (noteMax s k t) := by
  unfold Machine.noteMax
  repeat' first
    | with_reducible assumption | intro _ | with_reducible apply Sound.setF | with_reducible apply Sound.ite
    | fail_if_no_progress with_reducible apply Sound.upd

theorem Sound.noteHot {s : State} {k : ℕ} {t : ℤ} (h_s : Sound q s) : Sound q (noteHot s k t) := by
  unfold Machine.noteHot
  repeat' first
    | with_reducible assumption | intro _ | with_reducible apply Sound.ite
    | fail_if_no_progress with_reducible apply Sound.upd

theorem Sound.failSensor {s : State} {k : ℕ} (h_s : Sound q s) : Sound q (failSensor s k) := by
  unfold Machine.failSensor
  repeat' first
    | with_reducible assumption | intro _ | with_reducible apply Sound.setF | with_reducible apply Sound.report
    | with_reducible apply Sound.faultHold | fail_if_no_progress with_reducible apply Sound.upd

theorem Sound.breakCool {s : State} {k : ℕ} {t : ℤ} (h_s : Sound q s) : Sound q (breakCool s k t) := by
  unfold Machine.breakCool
  repeat' first
    | with_reducible assumption | intro _ | with_reducible apply Sound.modIsl
    | fail_if_no_progress with_reducible apply Sound.upd | dsimp only | split

theorem Sound.noteThermal {s : State} {t : ℤ} (h_s : Sound q s) : Sound q (noteThermal s t) := by
  unfold Machine.noteThermal
  repeat' first
    | with_reducible assumption | intro _ | with_reducible apply Sound.setF | with_reducible apply Sound.ite

theorem Sound.holdHot {s : State} {k : ℕ} (h_s : Sound q s) : Sound q (holdHot s k) := by
  unfold Machine.holdHot
  repeat' first
    | with_reducible assumption | with_reducible apply Sound.evalClock | with_reducible apply Sound.ite | split

theorem Sound.execSensorSample {k : Fin 64} {reading : Option ℤ} {s : State} (h_s : Sound q s) : SoundOut q
    (execSensorSample k reading s) := by
  unfold Machine.execSensorSample
  repeat' first
    | with_reducible assumption | with_reducible apply Sound.noteClamp | with_reducible apply Sound.substitute
    | with_reducible apply Sound.putTemp | with_reducible apply Sound.noteMax | with_reducible apply Sound.noteHot
    | with_reducible apply Sound.failSensor | with_reducible apply Sound.breakCool
    | with_reducible apply Sound.noteThermal | with_reducible apply Sound.holdHot | with_reducible apply Sound.ite
    | with_reducible apply SoundOut.next
    | dsimp only | split

theorem Sound.moveLimit {s : State} {i : Fin 30} (h_s : Sound q s) : Sound q (moveLimit s i) := by
  unfold Machine.moveLimit
  repeat' first
    | with_reducible assumption | intro _ | with_reducible apply Sound.modIsl

theorem Sound.setCap {s : State} {i : Fin 30} {f : ℕ} (h_s : Sound q s) : Sound q (setCap s i f) := by
  unfold Machine.setCap
  repeat' first
    | with_reducible assumption | with_reducible apply Sound.setF

theorem Sound.raiseCap {s : State} {i : Fin 30} {f : ℕ} (h_s : Sound q s) : Sound q (raiseCap s i f) := by
  unfold Machine.raiseCap
  repeat' first
    | with_reducible assumption | intro _ | with_reducible apply Sound.modIsl | with_reducible apply Sound.setCap
    | with_reducible apply Sound.ite

theorem Sound.moveCap {s : State} {i : Fin 30} (h_s : Sound q s) : Sound q (moveCap s i) := by
  unfold Machine.moveCap
  repeat' first
    | with_reducible assumption | intro _ | with_reducible apply Sound.modIsl | with_reducible apply Sound.setCap
    | with_reducible apply Sound.raiseCap | with_reducible apply Sound.ite

theorem Sound.thermalStep {s : State} {i : Fin 30} (h_s : Sound q s) : Sound q (thermalStep s i) := by
  unfold Machine.thermalStep
  repeat' first
    | with_reducible assumption | with_reducible apply Sound.evalClock | with_reducible apply Sound.moveLimit
    | with_reducible apply Sound.moveCap | with_reducible apply Sound.ite

theorem Sound.execThermalModelPeriod {s : State} (h_s : Sound q s) : SoundOut q (execThermalModelPeriod s) := by
  unfold Machine.execThermalModelPeriod
  repeat' first
    | with_reducible assumption | intro _ | with_reducible apply Sound.avsWrite | with_reducible apply Sound.noteClamp
    | with_reducible apply Sound.noteDerate | with_reducible apply Sound.thermalStep
    | with_reducible apply Sound.foldl | with_reducible apply Sound.foldl2 | with_reducible apply SoundOut.next

theorem Sound.noteRail {s : State} {measured : ℕ} (h_s : Sound q s) : Sound q (noteRail s measured) := by
  unfold Machine.noteRail
  repeat' first
    | with_reducible assumption | with_reducible apply Sound.ite | fail_if_no_progress with_reducible apply Sound.upd

theorem Sound.execAvsUpdate {measured : ℕ} {s : State} (h_s : Sound q s) : SoundOut q (execAvsUpdate measured s) := by
  unfold Machine.execAvsUpdate
  repeat' first
    | with_reducible assumption | intro _ | with_reducible apply Sound.setF | with_reducible apply Sound.avsWrite
    | with_reducible apply Sound.evalClock | with_reducible apply Sound.noteDerate
    | with_reducible apply Sound.raiseCap | with_reducible apply Sound.noteRail | with_reducible apply Sound.foldl
    | with_reducible apply Sound.foldl2 | with_reducible apply SoundOut.next | dsimp only | split

theorem Sound.execAvsFault {measured : ℕ} {s : State} (h_s : Sound q s) : SoundOut q (execAvsFault measured s) := by
  unfold Machine.execAvsFault
  repeat' first
    | with_reducible assumption | intro _ | with_reducible apply Sound.setF | with_reducible apply Sound.report
    | with_reducible apply Sound.noteRail | with_reducible apply Sound.ite | with_reducible apply SoundOut.next

theorem Sound.execRefclkLoss {k : RefClk} {s : State} (h_s : Sound q s) : SoundOut q (execRefclkLoss k s) := by
  unfold Machine.execRefclkLoss
  repeat' first
    | with_reducible assumption | intro _ | with_reducible apply Sound.report
    | with_reducible apply Sound.noteTimeSource | with_reducible apply Sound.linkDownHost
    | with_reducible apply Sound.failKport | with_reducible apply Sound.failPort | with_reducible apply Sound.ite
    | with_reducible apply Sound.foldl | with_reducible apply Sound.foldl2 | with_reducible apply SoundOut.next
    | fail_if_no_progress with_reducible apply Sound.upd | dsimp only | split

theorem Sound.execRefclkRestore {k : RefClk} {s : State} (h_s : Sound q s) : SoundOut q (execRefclkRestore k s) := by
  unfold Machine.execRefclkRestore
  repeat' first
    | with_reducible assumption | intro _ | with_reducible apply Sound.noteTimeSource | with_reducible apply Sound.ite
    | with_reducible apply SoundOut.next | fail_if_no_progress with_reducible apply Sound.upd

/-! ## SysOps -/

theorem Sound.hostRegWrite {s : State} {off size v : ℕ} (h_s : Sound q s) : Sound q (hostRegWrite s off size v) := by
  unfold Machine.hostRegWrite
  repeat' first
    | with_reducible assumption | with_reducible apply Sound.badAccess | with_reducible apply Sound.regWrite
    | with_reducible apply Sound.ite

theorem Sound.hostHalfRead {s : State} {off : ℕ} (h_s : Sound q s) : Sound q (hostHalfRead s off) := by
  unfold Machine.hostHalfRead Machine.answerHost
  repeat' first
    | with_reducible assumption | with_reducible apply Sound.badAccess | with_reducible apply Sound.regRead
    | with_reducible apply Sound.ite | fail_if_no_progress with_reducible apply Sound.upd

theorem Sound.execRegisterWrite {who : Requester} {off size : ℕ} {v : Word} {s : State} (h_s : Sound q s) : SoundOut q
    (execRegisterWrite who off size v s) := by
  unfold Machine.execRegisterWrite
  repeat' first
    | with_reducible assumption | with_reducible apply Sound.regWrite | with_reducible apply Sound.hostRegWrite
    | with_reducible apply Sound.ite | with_reducible apply SoundOut.next | dsimp only | split

theorem Sound.execLatchedHalfRead {who : Requester} {off : ℕ} {s : State} (h_s : Sound q s) : SoundOut q
    (execLatchedHalfRead who off s) := by
  unfold Machine.execLatchedHalfRead
  repeat' first
    | with_reducible assumption | with_reducible apply Sound.regRead | with_reducible apply Sound.hostHalfRead
    | with_reducible apply Sound.ite | with_reducible apply SoundOut.next | dsimp only | split

theorem Sound.execBar0UnmappedAccess {write : Bool} {off size : ℕ} {s : State} (h_s : Sound q s) : SoundOut q
    (execBar0UnmappedAccess write off size s) := by
  unfold Machine.execBar0UnmappedAccess Machine.answerHost
  repeat' first
    | with_reducible assumption | with_reducible apply Sound.badAccess | with_reducible apply Sound.ite
    | with_reducible apply SoundOut.next | fail_if_no_progress with_reducible apply Sound.upd

theorem Sound.execBar0Abort {write : Bool} {off size : ℕ} {s : State} (h_s : Sound q s) : SoundOut q (execBar0Abort
    write off size s) := by
  unfold Machine.execBar0Abort Machine.answerHost
  repeat' first
    | with_reducible assumption | with_reducible apply Sound.badAccess | with_reducible apply Sound.ite
    | with_reducible apply SoundOut.next | fail_if_no_progress with_reducible apply Sound.upd

theorem Sound.execSysEvtClear {bits : Word} {s : State} (h_s : Sound q s) : SoundOut q (execSysEvtClear bits s) := by
  unfold Machine.execSysEvtClear
  repeat' first
    | with_reducible assumption | with_reducible apply Sound.regWrite | with_reducible apply SoundOut.next

theorem Sound.execSysEvtEnWrite {v : Word} {s : State} (h_s : Sound q s) : SoundOut q (execSysEvtEnWrite v s) := by
  unfold Machine.execSysEvtEnWrite
  repeat' first
    | with_reducible assumption | with_reducible apply Sound.regWrite | with_reducible apply SoundOut.next

theorem Sound.execSmbusBlockWrite {ptr : BitVec 24} {s : State} (h_s : Sound q s) : SoundOut q (execSmbusBlockWrite
    ptr s) := by
  unfold Machine.execSmbusBlockWrite
  repeat' first
    | with_reducible assumption | with_reducible apply SoundOut.next
    | fail_if_no_progress with_reducible apply Sound.upd

theorem Sound.execSmbusBlockRead {s : State} (h_s : Sound q s) : SoundOut q (execSmbusBlockRead s) := by
  unfold Machine.execSmbusBlockRead
  repeat' first
    | with_reducible assumption | with_reducible apply SoundOut.next
    | fail_if_no_progress with_reducible apply Sound.upd

theorem Sound.execTimeStep {delta : Word} {s : State} (h_s : Sound q s) : SoundOut q (execTimeStep delta s) := by
  unfold Machine.execTimeStep
  repeat' first
    | with_reducible assumption | with_reducible apply Sound.timeStep | with_reducible apply SoundOut.next

theorem Sound.execTimeRateWrite {adj : BitVec 32} {s : State} (h_s : Sound q s) : SoundOut q (execTimeRateWrite adj s)
    := by
  unfold Machine.execTimeRateWrite
  repeat' first
    | with_reducible assumption | with_reducible apply Sound.regWrite | with_reducible apply SoundOut.next

theorem Sound.execPpsEdge {rising : Bool} {s : State} (h_s : Sound q s) : SoundOut q (execPpsEdge rising s) := by
  unfold Machine.execPpsEdge
  repeat' first
    | with_reducible assumption | with_reducible apply Sound.setReg | with_reducible apply Sound.evt
    | with_reducible apply Sound.ite | with_reducible apply SoundOut.next
    | fail_if_no_progress with_reducible apply Sound.upd

theorem Sound.execPpsOutRise {s : State} (h_s : Sound q s) : SoundOut q (execPpsOutRise s) := by
  unfold Machine.execPpsOutRise
  repeat' first
    | with_reducible assumption | with_reducible apply Sound.ppsRise | with_reducible apply Sound.ite
    | with_reducible apply SoundOut.next

theorem Sound.execPpsOutFall {s : State} (h_s : Sound q s) : SoundOut q (execPpsOutFall s) := by
  unfold Machine.execPpsOutFall
  repeat' first
    | with_reducible assumption | with_reducible apply Sound.ite | with_reducible apply SoundOut.next
    | fail_if_no_progress with_reducible apply Sound.upd | dsimp only | split

theorem Sound.execDebugNewchal {s : State} (h_s : Sound q s) : SoundOut q (execDebugNewchal s) := by
  unfold Machine.execDebugNewchal
  repeat' first
    | with_reducible assumption | with_reducible apply Sound.debugNew | with_reducible apply SoundOut.next

theorem Sound.execDebugGo {addr : ℕ} {keyidx : Fin 4} {s : State} (h_s : Sound q s) : SoundOut q (execDebugGo addr
    keyidx s) := by
  unfold Machine.execDebugGo
  repeat' first
    | with_reducible assumption | with_reducible apply Sound.regWrite | with_reducible apply SoundOut.next

theorem Sound.execZeroisationDone {s : State} (h_s : Sound q s) : SoundOut q (execZeroisationDone s) := by
  unfold Machine.execZeroisationDone
  repeat' first
    | with_reducible assumption | with_reducible apply Sound.noteSlots | with_reducible apply Sound.debugEnable
    | with_reducible apply Sound.ite | with_reducible apply SoundOut.next
    | fail_if_no_progress with_reducible apply Sound.upd

theorem Sound.execColdReset {_k : ColdCause} {s : State} (h_s : Sound q s) : SoundOut q (execColdReset _k s) := by
  unfold Machine.execColdReset
  repeat' first
    | with_reducible assumption | with_reducible apply Sound.coldResetTo | with_reducible apply SoundOut.next

theorem Sound.execWarmReset {s : State} (h_s : Sound q s) : SoundOut q (execWarmReset s) := by
  unfold Machine.execWarmReset
  repeat' first
    | with_reducible assumption | with_reducible apply Sound.warmResetTo | with_reducible apply SoundOut.next

theorem Sound.execWarmResetNRise {s : State} (h_s : Sound q s) : SoundOut q (execWarmResetNRise s) := by
  unfold Machine.execWarmResetNRise
  repeat' first
    | with_reducible assumption | with_reducible apply Sound.warmRise | with_reducible apply SoundOut.next

theorem Sound.execBootResetWarm {confirm : BitVec 16} {s : State} (h_s : Sound q s) : SoundOut q (execBootResetWarm
    confirm s) := by
  unfold Machine.execBootResetWarm
  repeat' first
    | with_reducible assumption | with_reducible apply Sound.regWrite | with_reducible apply SoundOut.next

theorem Sound.execBootResetCold {confirm : BitVec 16} {s : State} (h_s : Sound q s) : SoundOut q (execBootResetCold
    confirm s) := by
  unfold Machine.execBootResetCold
  repeat' first
    | with_reducible assumption | with_reducible apply Sound.regWrite | with_reducible apply SoundOut.next

theorem Sound.execThermalTrip {s : State} (h_s : Sound q s) : SoundOut q (execThermalTrip s) := by
  unfold Machine.execThermalTrip
  repeat' first
    | with_reducible assumption | with_reducible apply Sound.report | with_reducible apply Sound.powerLoss
    | with_reducible apply Sound.ite | with_reducible apply SoundOut.next
    | fail_if_no_progress with_reducible apply Sound.upd | dsimp only | split

theorem Sound.execRailLoss {rail : Fin 10} {s : State} (h_s : Sound q s) : SoundOut q (execRailLoss rail s) := by
  unfold Machine.execRailLoss
  repeat' first
    | with_reducible assumption | with_reducible apply Sound.report | with_reducible apply Sound.coldResetTo
    | with_reducible apply Sound.powerLoss | with_reducible apply Sound.ite | with_reducible apply SoundOut.next
    | fail_if_no_progress with_reducible apply Sound.upd

theorem Sound.execPowerGood {s : State} (h_s : Sound q s) : SoundOut q (execPowerGood s) := by
  unfold Machine.execPowerGood
  repeat' first
    | with_reducible assumption | with_reducible apply Sound.powerGood | with_reducible apply SoundOut.next

theorem Sound.execImageSelect {s : State} (h_s : Sound q s) : SoundOut q (execImageSelect s) := by
  unfold Machine.execImageSelect
  repeat' first
    | with_reducible assumption | with_reducible apply Sound.imageSelect | with_reducible apply SoundOut.next

theorem Sound.execMicrocodeLoad {bad : List CoreId} {s : State} (h_s : Sound q s) : SoundOut q (execMicrocodeLoad bad
    s) := by
  unfold Machine.execMicrocodeLoad
  repeat' first
    | with_reducible assumption | with_reducible apply Sound.microcodeLoad | with_reducible apply SoundOut.next

theorem Sound.execStandinOpen {s : State} (h_s : Sound q s) : SoundOut q (execStandinOpen s) := by
  unfold Machine.execStandinOpen
  repeat' first
    | with_reducible assumption | with_reducible apply Sound.standinOpen | with_reducible apply SoundOut.next

theorem Sound.execHbmInitDone {s : State} (h_s : Sound q s) : SoundOut q (execHbmInitDone s) := by
  unfold Machine.execHbmInitDone
  repeat' first
    | with_reducible assumption | with_reducible apply Sound.hbmInitDone | with_reducible apply SoundOut.next

theorem Sound.applySetup {b : List Byte} {s : State} (h_s : Sound q s) : Sound q (applySetup b s) := by
  unfold Machine.applySetup
  repeat' first
    | with_reducible assumption | intro _ | with_reducible apply Sound.hostRegWrite | with_reducible apply Sound.foldl

theorem Sound.execBringupReady {s : State} (h_s : Sound q s) : SoundOut q (execBringupReady s) := by
  unfold Machine.execBringupReady
  repeat' first
    | with_reducible assumption | with_reducible apply Sound.bringupRest | with_reducible apply Sound.applySetup
    | with_reducible apply Sound.ite | with_reducible apply SoundOut.next | dsimp only | split

theorem Sound.execBootLoad {s : State} (h_s : Sound q s) : SoundOut q (execBootLoad s) := by
  unfold Machine.execBootLoad
  repeat' first
    | with_reducible assumption | with_reducible apply Sound.bootLoad | with_reducible apply SoundOut.next

theorem Sound.execBootRelease {s : State} (h_s : Sound q s) : SoundOut q (execBootRelease s) := by
  unfold Machine.execBootRelease
  repeat' first
    | with_reducible assumption | with_reducible apply Sound.bootRelease | with_reducible apply SoundOut.next

theorem Sound.execStandinTilesJoin {s : State} (h_s : Sound q s) : SoundOut q (execStandinTilesJoin s) := by
  unfold Machine.execStandinTilesJoin
  repeat' first
    | with_reducible assumption | with_reducible apply Sound.standinTilesJoin | with_reducible apply SoundOut.next

theorem Sound.execSvnCommit {s : State} (h_s : Sound q s) : SoundOut q (execSvnCommit s) := by
  unfold Machine.execSvnCommit
  repeat' first
    | with_reducible assumption | with_reducible apply Sound.svnCommit | with_reducible apply SoundOut.next

theorem Sound.execFuseProgram {bit : BitVec 16} {s : State} (h_s : Sound q s) : SoundOut q (execFuseProgram bit s) :=
    by
  unfold Machine.execFuseProgram
  repeat' first
    | with_reducible assumption | with_reducible apply Sound.fuseProgram | with_reducible apply SoundOut.next

theorem Sound.execFuseWriteDone {s : State} (h_s : Sound q s) : SoundOut q (execFuseWriteDone s) := by
  unfold Machine.execFuseWriteDone
  repeat' first
    | with_reducible assumption | with_reducible apply Sound.fuseWriteDone | with_reducible apply SoundOut.next

/-! ## Time -/

theorem Sound.passCores {s : State} (h_s : Sound q s) : Sound q (passCores s) := by
  unfold Machine.passCores
  repeat' first
    | with_reducible assumption | intro _ | with_reducible apply Sound.modCore
    | with_reducible apply Sound.settleSyncs | with_reducible apply Sound.ite | with_reducible apply Sound.foldl

theorem Sound.tick {s : State} (h_s : Sound q s) : Sound q (tick s) := by
  unfold Machine.tick
  repeat' first
    | with_reducible assumption | with_reducible apply Sound.releaseProgress | with_reducible apply Sound.nextNs
    | with_reducible apply Sound.admProgress | with_reducible apply Sound.passCores

end Sys2Proof.Laws
end

