-- ==== Sys2Proof/Laws/PerInstr.lean ====
section
/-! SUPPORT. Statements about every command, as syntax. The table gives its rows no bits, so no word of the table's numbering
spells a command (family `NoWord`); a command reaches the block through its queue alone. -/

namespace Sys2Proof.Laws

/-- No word spells the command by the table's bits. -/
def NoWord.Statement (i : Instr) : Prop := ∀ nbits w : Nat, decodeTableWord nbits w ≠ some i

theorem decodeTableWord_ne (i : Instr) : NoWord.Statement i := fun _ _ h => nomatch h

end Sys2Proof.Laws

theorem Sys2Proof.Laws.NoWord.frameReceive : ∀ x1 x2, Sys2Proof.Laws.NoWord.Statement (Sys2Proof.Instr.frameReceive x1 x2) :=
  fun _ _ => Sys2Proof.Laws.decodeTableWord_ne _

theorem Sys2Proof.Laws.NoWord.handbackComplete : ∀ x1, Sys2Proof.Laws.NoWord.Statement (Sys2Proof.Instr.handbackComplete x1) :=
  fun _ => Sys2Proof.Laws.decodeTableWord_ne _

theorem Sys2Proof.Laws.NoWord.segmentTransmit : ∀ x1, Sys2Proof.Laws.NoWord.Statement (Sys2Proof.Instr.segmentTransmit x1) :=
  fun _ => Sys2Proof.Laws.decodeTableWord_ne _

theorem Sys2Proof.Laws.NoWord.retransmitTimeout : ∀ x1, Sys2Proof.Laws.NoWord.Statement (Sys2Proof.Instr.retransmitTimeout x1) :=
  fun _ => Sys2Proof.Laws.decodeTableWord_ne _

theorem Sys2Proof.Laws.NoWord.delayedAckTimer : ∀ x1, Sys2Proof.Laws.NoWord.Statement (Sys2Proof.Instr.delayedAckTimer x1) :=
  fun _ => Sys2Proof.Laws.decodeTableWord_ne _

theorem Sys2Proof.Laws.NoWord.zeroWindowProbe : ∀ x1, Sys2Proof.Laws.NoWord.Statement (Sys2Proof.Instr.zeroWindowProbe x1) :=
  fun _ => Sys2Proof.Laws.decodeTableWord_ne _

theorem Sys2Proof.Laws.NoWord.persistLimit : ∀ x1, Sys2Proof.Laws.NoWord.Statement (Sys2Proof.Instr.persistLimit x1) :=
  fun _ => Sys2Proof.Laws.decodeTableWord_ne _

theorem Sys2Proof.Laws.NoWord.stallBoundExpiry : ∀ x1, Sys2Proof.Laws.NoWord.Statement (Sys2Proof.Instr.stallBoundExpiry x1) :=
  fun _ => Sys2Proof.Laws.decodeTableWord_ne _

theorem Sys2Proof.Laws.NoWord.portFail : ∀ x1 x2, Sys2Proof.Laws.NoWord.Statement (Sys2Proof.Instr.portFail x1 x2) :=
  fun _ _ => Sys2Proof.Laws.decodeTableWord_ne _

theorem Sys2Proof.Laws.NoWord.txqTransmit : ∀ x1, Sys2Proof.Laws.NoWord.Statement (Sys2Proof.Instr.txqTransmit x1) :=
  fun _ => Sys2Proof.Laws.decodeTableWord_ne _

theorem Sys2Proof.Laws.NoWord.admission : ∀ x1, Sys2Proof.Laws.NoWord.Statement (Sys2Proof.Instr.admission x1) :=
  fun _ => Sys2Proof.Laws.decodeTableWord_ne _

theorem Sys2Proof.Laws.NoWord.xltParse : ∀ x1, Sys2Proof.Laws.NoWord.Statement (Sys2Proof.Instr.xltParse x1) :=
  fun _ => Sys2Proof.Laws.decodeTableWord_ne _

theorem Sys2Proof.Laws.NoWord.xltEchoScan : ∀ x1, Sys2Proof.Laws.NoWord.Statement (Sys2Proof.Instr.xltEchoScan x1) :=
  fun _ => Sys2Proof.Laws.decodeTableWord_ne _

theorem Sys2Proof.Laws.NoWord.technicalDecline : ∀ x1, Sys2Proof.Laws.NoWord.Statement (Sys2Proof.Instr.technicalDecline x1) :=
  fun _ => Sys2Proof.Laws.decodeTableWord_ne _

theorem Sys2Proof.Laws.NoWord.xltSerialise : ∀ x1, Sys2Proof.Laws.NoWord.Statement (Sys2Proof.Instr.xltSerialise x1) :=
  fun _ => Sys2Proof.Laws.decodeTableWord_ne _

theorem Sys2Proof.Laws.NoWord.xltEnableWrite : ∀ x1, Sys2Proof.Laws.NoWord.Statement (Sys2Proof.Instr.xltEnableWrite x1) :=
  fun _ => Sys2Proof.Laws.decodeTableWord_ne _

theorem Sys2Proof.Laws.NoWord.bind : ∀ x1, Sys2Proof.Laws.NoWord.Statement (Sys2Proof.Instr.bind x1) :=
  fun _ => Sys2Proof.Laws.decodeTableWord_ne _

theorem Sys2Proof.Laws.NoWord.callerStop : ∀ x1, Sys2Proof.Laws.NoWord.Statement (Sys2Proof.Instr.callerStop x1) :=
  fun _ => Sys2Proof.Laws.decodeTableWord_ne _

theorem Sys2Proof.Laws.NoWord.timerExpiry : ∀ x1 x2, Sys2Proof.Laws.NoWord.Statement (Sys2Proof.Instr.timerExpiry x1 x2) :=
  fun _ _ => Sys2Proof.Laws.decodeTableWord_ne _

theorem Sys2Proof.Laws.NoWord.deadlineAlarm : ∀ x1, Sys2Proof.Laws.NoWord.Statement (Sys2Proof.Instr.deadlineAlarm x1) :=
  fun _ => Sys2Proof.Laws.decodeTableWord_ne _

theorem Sys2Proof.Laws.NoWord.budgetExceeded : ∀ x1 x2, Sys2Proof.Laws.NoWord.Statement (Sys2Proof.Instr.budgetExceeded x1 x2) :=
  fun _ _ => Sys2Proof.Laws.decodeTableWord_ne _

theorem Sys2Proof.Laws.NoWord.boundaryResponse : ∀ x1 x2 x3, Sys2Proof.Laws.NoWord.Statement (Sys2Proof.Instr.boundaryResponse x1 x2 x3) :=
  fun _ _ _ => Sys2Proof.Laws.decodeTableWord_ne _

theorem Sys2Proof.Laws.NoWord.machineCheck : ∀ x1 x2, Sys2Proof.Laws.NoWord.Statement (Sys2Proof.Instr.machineCheck x1 x2) :=
  fun _ _ => Sys2Proof.Laws.decodeTableWord_ne _

theorem Sys2Proof.Laws.NoWord.bank15Timeout : ∀ x1, Sys2Proof.Laws.NoWord.Statement (Sys2Proof.Instr.bank15Timeout x1) :=
  fun _ => Sys2Proof.Laws.decodeTableWord_ne _

theorem Sys2Proof.Laws.NoWord.instructionFetch : ∀ x1, Sys2Proof.Laws.NoWord.Statement (Sys2Proof.Instr.instructionFetch x1) :=
  fun _ => Sys2Proof.Laws.decodeTableWord_ne _

theorem Sys2Proof.Laws.NoWord.storeDrain : ∀ x1, Sys2Proof.Laws.NoWord.Statement (Sys2Proof.Instr.storeDrain x1) :=
  fun _ => Sys2Proof.Laws.decodeTableWord_ne _

theorem Sys2Proof.Laws.NoWord.asyncMchk : ∀ x1, Sys2Proof.Laws.NoWord.Statement (Sys2Proof.Instr.asyncMchk x1) :=
  fun _ => Sys2Proof.Laws.decodeTableWord_ne _

theorem Sys2Proof.Laws.NoWord.accessTimeout : ∀ x1 x2, Sys2Proof.Laws.NoWord.Statement (Sys2Proof.Instr.accessTimeout x1 x2) :=
  fun _ _ => Sys2Proof.Laws.decodeTableWord_ne _

theorem Sys2Proof.Laws.NoWord.add : ∀ x1 x2 x3 x4, Sys2Proof.Laws.NoWord.Statement (Sys2Proof.Instr.add x1 x2 x3 x4) :=
  fun _ _ _ _ => Sys2Proof.Laws.decodeTableWord_ne _

theorem Sys2Proof.Laws.NoWord.sub : ∀ x1 x2 x3 x4, Sys2Proof.Laws.NoWord.Statement (Sys2Proof.Instr.sub x1 x2 x3 x4) :=
  fun _ _ _ _ => Sys2Proof.Laws.decodeTableWord_ne _

theorem Sys2Proof.Laws.NoWord.and : ∀ x1 x2 x3 x4, Sys2Proof.Laws.NoWord.Statement (Sys2Proof.Instr.and x1 x2 x3 x4) :=
  fun _ _ _ _ => Sys2Proof.Laws.decodeTableWord_ne _

theorem Sys2Proof.Laws.NoWord.or : ∀ x1 x2 x3 x4, Sys2Proof.Laws.NoWord.Statement (Sys2Proof.Instr.or x1 x2 x3 x4) :=
  fun _ _ _ _ => Sys2Proof.Laws.decodeTableWord_ne _

theorem Sys2Proof.Laws.NoWord.xor : ∀ x1 x2 x3 x4, Sys2Proof.Laws.NoWord.Statement (Sys2Proof.Instr.xor x1 x2 x3 x4) :=
  fun _ _ _ _ => Sys2Proof.Laws.decodeTableWord_ne _

theorem Sys2Proof.Laws.NoWord.andn : ∀ x1 x2 x3 x4, Sys2Proof.Laws.NoWord.Statement (Sys2Proof.Instr.andn x1 x2 x3 x4) :=
  fun _ _ _ _ => Sys2Proof.Laws.decodeTableWord_ne _

theorem Sys2Proof.Laws.NoWord.sll : ∀ x1 x2 x3 x4, Sys2Proof.Laws.NoWord.Statement (Sys2Proof.Instr.sll x1 x2 x3 x4) :=
  fun _ _ _ _ => Sys2Proof.Laws.decodeTableWord_ne _

theorem Sys2Proof.Laws.NoWord.srl : ∀ x1 x2 x3 x4, Sys2Proof.Laws.NoWord.Statement (Sys2Proof.Instr.srl x1 x2 x3 x4) :=
  fun _ _ _ _ => Sys2Proof.Laws.decodeTableWord_ne _

theorem Sys2Proof.Laws.NoWord.sra : ∀ x1 x2 x3 x4, Sys2Proof.Laws.NoWord.Statement (Sys2Proof.Instr.sra x1 x2 x3 x4) :=
  fun _ _ _ _ => Sys2Proof.Laws.decodeTableWord_ne _

theorem Sys2Proof.Laws.NoWord.slli : ∀ x1 x2 x3 x4, Sys2Proof.Laws.NoWord.Statement (Sys2Proof.Instr.slli x1 x2 x3 x4) :=
  fun _ _ _ _ => Sys2Proof.Laws.decodeTableWord_ne _

theorem Sys2Proof.Laws.NoWord.srli : ∀ x1 x2 x3 x4, Sys2Proof.Laws.NoWord.Statement (Sys2Proof.Instr.srli x1 x2 x3 x4) :=
  fun _ _ _ _ => Sys2Proof.Laws.decodeTableWord_ne _

theorem Sys2Proof.Laws.NoWord.srai : ∀ x1 x2 x3 x4, Sys2Proof.Laws.NoWord.Statement (Sys2Proof.Instr.srai x1 x2 x3 x4) :=
  fun _ _ _ _ => Sys2Proof.Laws.decodeTableWord_ne _

theorem Sys2Proof.Laws.NoWord.adds : ∀ x1 x2 x3 x4, Sys2Proof.Laws.NoWord.Statement (Sys2Proof.Instr.adds x1 x2 x3 x4) :=
  fun _ _ _ _ => Sys2Proof.Laws.decodeTableWord_ne _

theorem Sys2Proof.Laws.NoWord.addc : ∀ x1 x2 x3 x4, Sys2Proof.Laws.NoWord.Statement (Sys2Proof.Instr.addc x1 x2 x3 x4) :=
  fun _ _ _ _ => Sys2Proof.Laws.decodeTableWord_ne _

theorem Sys2Proof.Laws.NoWord.subs : ∀ x1 x2 x3 x4, Sys2Proof.Laws.NoWord.Statement (Sys2Proof.Instr.subs x1 x2 x3 x4) :=
  fun _ _ _ _ => Sys2Proof.Laws.decodeTableWord_ne _

theorem Sys2Proof.Laws.NoWord.subb : ∀ x1 x2 x3 x4, Sys2Proof.Laws.NoWord.Statement (Sys2Proof.Instr.subb x1 x2 x3 x4) :=
  fun _ _ _ _ => Sys2Proof.Laws.decodeTableWord_ne _

theorem Sys2Proof.Laws.NoWord.cmp : ∀ x1 x2 x3, Sys2Proof.Laws.NoWord.Statement (Sys2Proof.Instr.cmp x1 x2 x3) :=
  fun _ _ _ => Sys2Proof.Laws.decodeTableWord_ne _

theorem Sys2Proof.Laws.NoWord.cmpu : ∀ x1 x2 x3, Sys2Proof.Laws.NoWord.Statement (Sys2Proof.Instr.cmpu x1 x2 x3) :=
  fun _ _ _ => Sys2Proof.Laws.decodeTableWord_ne _

theorem Sys2Proof.Laws.NoWord.sextb : ∀ x1 x2 x3, Sys2Proof.Laws.NoWord.Statement (Sys2Proof.Instr.sextb x1 x2 x3) :=
  fun _ _ _ => Sys2Proof.Laws.decodeTableWord_ne _

theorem Sys2Proof.Laws.NoWord.sexth : ∀ x1 x2 x3, Sys2Proof.Laws.NoWord.Statement (Sys2Proof.Instr.sexth x1 x2 x3) :=
  fun _ _ _ => Sys2Proof.Laws.decodeTableWord_ne _

theorem Sys2Proof.Laws.NoWord.sextw : ∀ x1 x2 x3, Sys2Proof.Laws.NoWord.Statement (Sys2Proof.Instr.sextw x1 x2 x3) :=
  fun _ _ _ => Sys2Proof.Laws.decodeTableWord_ne _

theorem Sys2Proof.Laws.NoWord.mul : ∀ x1 x2 x3 x4, Sys2Proof.Laws.NoWord.Statement (Sys2Proof.Instr.mul x1 x2 x3 x4) :=
  fun _ _ _ _ => Sys2Proof.Laws.decodeTableWord_ne _

theorem Sys2Proof.Laws.NoWord.mulwu : ∀ x1 x2 x3 x4, Sys2Proof.Laws.NoWord.Statement (Sys2Proof.Instr.mulwu x1 x2 x3 x4) :=
  fun _ _ _ _ => Sys2Proof.Laws.decodeTableWord_ne _

theorem Sys2Proof.Laws.NoWord.mulws : ∀ x1 x2 x3 x4, Sys2Proof.Laws.NoWord.Statement (Sys2Proof.Instr.mulws x1 x2 x3 x4) :=
  fun _ _ _ _ => Sys2Proof.Laws.decodeTableWord_ne _

theorem Sys2Proof.Laws.NoWord.divu : ∀ x1 x2 x3 x4, Sys2Proof.Laws.NoWord.Statement (Sys2Proof.Instr.divu x1 x2 x3 x4) :=
  fun _ _ _ _ => Sys2Proof.Laws.decodeTableWord_ne _

theorem Sys2Proof.Laws.NoWord.divs : ∀ x1 x2 x3 x4, Sys2Proof.Laws.NoWord.Statement (Sys2Proof.Instr.divs x1 x2 x3 x4) :=
  fun _ _ _ _ => Sys2Proof.Laws.decodeTableWord_ne _

theorem Sys2Proof.Laws.NoWord.remu : ∀ x1 x2 x3 x4, Sys2Proof.Laws.NoWord.Statement (Sys2Proof.Instr.remu x1 x2 x3 x4) :=
  fun _ _ _ _ => Sys2Proof.Laws.decodeTableWord_ne _

theorem Sys2Proof.Laws.NoWord.rems : ∀ x1 x2 x3 x4, Sys2Proof.Laws.NoWord.Statement (Sys2Proof.Instr.rems x1 x2 x3 x4) :=
  fun _ _ _ _ => Sys2Proof.Laws.decodeTableWord_ne _

theorem Sys2Proof.Laws.NoWord.divwu : ∀ x1 x2 x3 x4, Sys2Proof.Laws.NoWord.Statement (Sys2Proof.Instr.divwu x1 x2 x3 x4) :=
  fun _ _ _ _ => Sys2Proof.Laws.decodeTableWord_ne _

theorem Sys2Proof.Laws.NoWord.fadd : ∀ x1 x2 x3 x4 x5, Sys2Proof.Laws.NoWord.Statement (Sys2Proof.Instr.fadd x1 x2 x3 x4 x5) :=
  fun _ _ _ _ _ => Sys2Proof.Laws.decodeTableWord_ne _

theorem Sys2Proof.Laws.NoWord.fsub : ∀ x1 x2 x3 x4 x5, Sys2Proof.Laws.NoWord.Statement (Sys2Proof.Instr.fsub x1 x2 x3 x4 x5) :=
  fun _ _ _ _ _ => Sys2Proof.Laws.decodeTableWord_ne _

theorem Sys2Proof.Laws.NoWord.fmul : ∀ x1 x2 x3 x4 x5, Sys2Proof.Laws.NoWord.Statement (Sys2Proof.Instr.fmul x1 x2 x3 x4 x5) :=
  fun _ _ _ _ _ => Sys2Proof.Laws.decodeTableWord_ne _

theorem Sys2Proof.Laws.NoWord.fdiv : ∀ x1 x2 x3 x4 x5, Sys2Proof.Laws.NoWord.Statement (Sys2Proof.Instr.fdiv x1 x2 x3 x4 x5) :=
  fun _ _ _ _ _ => Sys2Proof.Laws.decodeTableWord_ne _

theorem Sys2Proof.Laws.NoWord.fma : ∀ x1 x2 x3 x4 x5 x6, Sys2Proof.Laws.NoWord.Statement (Sys2Proof.Instr.fma x1 x2 x3 x4 x5 x6) :=
  fun _ _ _ _ _ _ => Sys2Proof.Laws.decodeTableWord_ne _

theorem Sys2Proof.Laws.NoWord.fsqrt : ∀ x1 x2 x3 x4, Sys2Proof.Laws.NoWord.Statement (Sys2Proof.Instr.fsqrt x1 x2 x3 x4) :=
  fun _ _ _ _ => Sys2Proof.Laws.decodeTableWord_ne _

theorem Sys2Proof.Laws.NoWord.fcvt : ∀ x1 x2 x3 x4, Sys2Proof.Laws.NoWord.Statement (Sys2Proof.Instr.fcvt x1 x2 x3 x4) :=
  fun _ _ _ _ => Sys2Proof.Laws.decodeTableWord_ne _

theorem Sys2Proof.Laws.NoWord.fcvti : ∀ x1 x2 x3 x4, Sys2Proof.Laws.NoWord.Statement (Sys2Proof.Instr.fcvti x1 x2 x3 x4) :=
  fun _ _ _ _ => Sys2Proof.Laws.decodeTableWord_ne _

theorem Sys2Proof.Laws.NoWord.fcvtiz : ∀ x1 x2 x3 x4, Sys2Proof.Laws.NoWord.Statement (Sys2Proof.Instr.fcvtiz x1 x2 x3 x4) :=
  fun _ _ _ _ => Sys2Proof.Laws.decodeTableWord_ne _

theorem Sys2Proof.Laws.NoWord.fcvtf : ∀ x1 x2 x3 x4, Sys2Proof.Laws.NoWord.Statement (Sys2Proof.Instr.fcvtf x1 x2 x3 x4) :=
  fun _ _ _ _ => Sys2Proof.Laws.decodeTableWord_ne _

theorem Sys2Proof.Laws.NoWord.fcmpq : ∀ x1 x2 x3 x4, Sys2Proof.Laws.NoWord.Statement (Sys2Proof.Instr.fcmpq x1 x2 x3 x4) :=
  fun _ _ _ _ => Sys2Proof.Laws.decodeTableWord_ne _

theorem Sys2Proof.Laws.NoWord.fcmps : ∀ x1 x2 x3 x4, Sys2Proof.Laws.NoWord.Statement (Sys2Proof.Instr.fcmps x1 x2 x3 x4) :=
  fun _ _ _ _ => Sys2Proof.Laws.decodeTableWord_ne _

theorem Sys2Proof.Laws.NoWord.fmvfg : ∀ x1 x2 x3 x4, Sys2Proof.Laws.NoWord.Statement (Sys2Proof.Instr.fmvfg x1 x2 x3 x4) :=
  fun _ _ _ _ => Sys2Proof.Laws.decodeTableWord_ne _

theorem Sys2Proof.Laws.NoWord.fmvgf : ∀ x1 x2 x3 x4, Sys2Proof.Laws.NoWord.Statement (Sys2Proof.Instr.fmvgf x1 x2 x3 x4) :=
  fun _ _ _ _ => Sys2Proof.Laws.decodeTableWord_ne _

theorem Sys2Proof.Laws.NoWord.fneg : ∀ x1 x2 x3 x4, Sys2Proof.Laws.NoWord.Statement (Sys2Proof.Instr.fneg x1 x2 x3 x4) :=
  fun _ _ _ _ => Sys2Proof.Laws.decodeTableWord_ne _

theorem Sys2Proof.Laws.NoWord.fabs : ∀ x1 x2 x3 x4, Sys2Proof.Laws.NoWord.Statement (Sys2Proof.Instr.fabs x1 x2 x3 x4) :=
  fun _ _ _ _ => Sys2Proof.Laws.decodeTableWord_ne _

theorem Sys2Proof.Laws.NoWord.addi : ∀ x1 x2 x3 x4, Sys2Proof.Laws.NoWord.Statement (Sys2Proof.Instr.addi x1 x2 x3 x4) :=
  fun _ _ _ _ => Sys2Proof.Laws.decodeTableWord_ne _

theorem Sys2Proof.Laws.NoWord.andi : ∀ x1 x2 x3 x4, Sys2Proof.Laws.NoWord.Statement (Sys2Proof.Instr.andi x1 x2 x3 x4) :=
  fun _ _ _ _ => Sys2Proof.Laws.decodeTableWord_ne _

theorem Sys2Proof.Laws.NoWord.ori : ∀ x1 x2 x3 x4, Sys2Proof.Laws.NoWord.Statement (Sys2Proof.Instr.ori x1 x2 x3 x4) :=
  fun _ _ _ _ => Sys2Proof.Laws.decodeTableWord_ne _

theorem Sys2Proof.Laws.NoWord.xori : ∀ x1 x2 x3 x4, Sys2Proof.Laws.NoWord.Statement (Sys2Proof.Instr.xori x1 x2 x3 x4) :=
  fun _ _ _ _ => Sys2Proof.Laws.decodeTableWord_ne _

theorem Sys2Proof.Laws.NoWord.lui : ∀ x1 x2 x3, Sys2Proof.Laws.NoWord.Statement (Sys2Proof.Instr.lui x1 x2 x3) :=
  fun _ _ _ => Sys2Proof.Laws.decodeTableWord_ne _

theorem Sys2Proof.Laws.NoWord.cmpi : ∀ x1 x2 x3, Sys2Proof.Laws.NoWord.Statement (Sys2Proof.Instr.cmpi x1 x2 x3) :=
  fun _ _ _ => Sys2Proof.Laws.decodeTableWord_ne _

theorem Sys2Proof.Laws.NoWord.cmpui : ∀ x1 x2 x3, Sys2Proof.Laws.NoWord.Statement (Sys2Proof.Instr.cmpui x1 x2 x3) :=
  fun _ _ _ => Sys2Proof.Laws.decodeTableWord_ne _

theorem Sys2Proof.Laws.NoWord.ldb : ∀ x1 x2 x3 x4, Sys2Proof.Laws.NoWord.Statement (Sys2Proof.Instr.ldb x1 x2 x3 x4) :=
  fun _ _ _ _ => Sys2Proof.Laws.decodeTableWord_ne _

theorem Sys2Proof.Laws.NoWord.ldh : ∀ x1 x2 x3 x4, Sys2Proof.Laws.NoWord.Statement (Sys2Proof.Instr.ldh x1 x2 x3 x4) :=
  fun _ _ _ _ => Sys2Proof.Laws.decodeTableWord_ne _

theorem Sys2Proof.Laws.NoWord.ldw : ∀ x1 x2 x3 x4, Sys2Proof.Laws.NoWord.Statement (Sys2Proof.Instr.ldw x1 x2 x3 x4) :=
  fun _ _ _ _ => Sys2Proof.Laws.decodeTableWord_ne _

theorem Sys2Proof.Laws.NoWord.ldd : ∀ x1 x2 x3 x4, Sys2Proof.Laws.NoWord.Statement (Sys2Proof.Instr.ldd x1 x2 x3 x4) :=
  fun _ _ _ _ => Sys2Proof.Laws.decodeTableWord_ne _

theorem Sys2Proof.Laws.NoWord.ldbs : ∀ x1 x2 x3 x4, Sys2Proof.Laws.NoWord.Statement (Sys2Proof.Instr.ldbs x1 x2 x3 x4) :=
  fun _ _ _ _ => Sys2Proof.Laws.decodeTableWord_ne _

theorem Sys2Proof.Laws.NoWord.ldhs : ∀ x1 x2 x3 x4, Sys2Proof.Laws.NoWord.Statement (Sys2Proof.Instr.ldhs x1 x2 x3 x4) :=
  fun _ _ _ _ => Sys2Proof.Laws.decodeTableWord_ne _

theorem Sys2Proof.Laws.NoWord.ldws : ∀ x1 x2 x3 x4, Sys2Proof.Laws.NoWord.Statement (Sys2Proof.Instr.ldws x1 x2 x3 x4) :=
  fun _ _ _ _ => Sys2Proof.Laws.decodeTableWord_ne _

theorem Sys2Proof.Laws.NoWord.pref : ∀ x1 x2 x3 x4, Sys2Proof.Laws.NoWord.Statement (Sys2Proof.Instr.pref x1 x2 x3 x4) :=
  fun _ _ _ _ => Sys2Proof.Laws.decodeTableWord_ne _

theorem Sys2Proof.Laws.NoWord.stb : ∀ x1 x2 x3 x4, Sys2Proof.Laws.NoWord.Statement (Sys2Proof.Instr.stb x1 x2 x3 x4) :=
  fun _ _ _ _ => Sys2Proof.Laws.decodeTableWord_ne _

theorem Sys2Proof.Laws.NoWord.sth : ∀ x1 x2 x3 x4, Sys2Proof.Laws.NoWord.Statement (Sys2Proof.Instr.sth x1 x2 x3 x4) :=
  fun _ _ _ _ => Sys2Proof.Laws.decodeTableWord_ne _

theorem Sys2Proof.Laws.NoWord.stw : ∀ x1 x2 x3 x4, Sys2Proof.Laws.NoWord.Statement (Sys2Proof.Instr.stw x1 x2 x3 x4) :=
  fun _ _ _ _ => Sys2Proof.Laws.decodeTableWord_ne _

theorem Sys2Proof.Laws.NoWord.std : ∀ x1 x2 x3 x4, Sys2Proof.Laws.NoWord.Statement (Sys2Proof.Instr.std x1 x2 x3 x4) :=
  fun _ _ _ _ => Sys2Proof.Laws.decodeTableWord_ne _

theorem Sys2Proof.Laws.NoWord.fldd : ∀ x1 x2 x3 x4, Sys2Proof.Laws.NoWord.Statement (Sys2Proof.Instr.fldd x1 x2 x3 x4) :=
  fun _ _ _ _ => Sys2Proof.Laws.decodeTableWord_ne _

theorem Sys2Proof.Laws.NoWord.fstd : ∀ x1 x2 x3 x4, Sys2Proof.Laws.NoWord.Statement (Sys2Proof.Instr.fstd x1 x2 x3 x4) :=
  fun _ _ _ _ => Sys2Proof.Laws.decodeTableWord_ne _

theorem Sys2Proof.Laws.NoWord.flds : ∀ x1 x2 x3 x4, Sys2Proof.Laws.NoWord.Statement (Sys2Proof.Instr.flds x1 x2 x3 x4) :=
  fun _ _ _ _ => Sys2Proof.Laws.decodeTableWord_ne _

theorem Sys2Proof.Laws.NoWord.fsts : ∀ x1 x2 x3 x4, Sys2Proof.Laws.NoWord.Statement (Sys2Proof.Instr.fsts x1 x2 x3 x4) :=
  fun _ _ _ _ => Sys2Proof.Laws.decodeTableWord_ne _

theorem Sys2Proof.Laws.NoWord.bc : ∀ x1 x2 x3, Sys2Proof.Laws.NoWord.Statement (Sys2Proof.Instr.bc x1 x2 x3) :=
  fun _ _ _ => Sys2Proof.Laws.decodeTableWord_ne _

theorem Sys2Proof.Laws.NoWord.jal : ∀ x1 x2 x3, Sys2Proof.Laws.NoWord.Statement (Sys2Proof.Instr.jal x1 x2 x3) :=
  fun _ _ _ => Sys2Proof.Laws.decodeTableWord_ne _

theorem Sys2Proof.Laws.NoWord.jalr : ∀ x1 x2 x3 x4, Sys2Proof.Laws.NoWord.Statement (Sys2Proof.Instr.jalr x1 x2 x3 x4) :=
  fun _ _ _ _ => Sys2Proof.Laws.decodeTableWord_ne _

theorem Sys2Proof.Laws.NoWord.stm : ∀ x1 x2 x3 x4 x5, Sys2Proof.Laws.NoWord.Statement (Sys2Proof.Instr.stm x1 x2 x3 x4 x5) :=
  fun _ _ _ _ _ => Sys2Proof.Laws.decodeTableWord_ne _

theorem Sys2Proof.Laws.NoWord.ldm : ∀ x1 x2 x3 x4 x5, Sys2Proof.Laws.NoWord.Statement (Sys2Proof.Instr.ldm x1 x2 x3 x4 x5) :=
  fun _ _ _ _ _ => Sys2Proof.Laws.decodeTableWord_ne _

theorem Sys2Proof.Laws.NoWord.svlk : ∀ x1 x2 x3 x4 x5, Sys2Proof.Laws.NoWord.Statement (Sys2Proof.Instr.svlk x1 x2 x3 x4 x5) :=
  fun _ _ _ _ _ => Sys2Proof.Laws.decodeTableWord_ne _

theorem Sys2Proof.Laws.NoWord.rslk : ∀ x1 x2 x3 x4, Sys2Proof.Laws.NoWord.Statement (Sys2Proof.Instr.rslk x1 x2 x3 x4) :=
  fun _ _ _ _ => Sys2Proof.Laws.decodeTableWord_ne _

theorem Sys2Proof.Laws.NoWord.smov : ∀ x1 x2 x3 x4 x5, Sys2Proof.Laws.NoWord.Statement (Sys2Proof.Instr.smov x1 x2 x3 x4 x5) :=
  fun _ _ _ _ _ => Sys2Proof.Laws.decodeTableWord_ne _

theorem Sys2Proof.Laws.NoWord.smovx : ∀ x1 x2 x3 x4 x5, Sys2Proof.Laws.NoWord.Statement (Sys2Proof.Instr.smovx x1 x2 x3 x4 x5) :=
  fun _ _ _ _ _ => Sys2Proof.Laws.decodeTableWord_ne _

theorem Sys2Proof.Laws.NoWord.sfill : ∀ x1 x2 x3 x4 x5, Sys2Proof.Laws.NoWord.Statement (Sys2Proof.Instr.sfill x1 x2 x3 x4 x5) :=
  fun _ _ _ _ _ => Sys2Proof.Laws.decodeTableWord_ne _

theorem Sys2Proof.Laws.NoWord.scmp : ∀ x1 x2 x3 x4 x5, Sys2Proof.Laws.NoWord.Statement (Sys2Proof.Instr.scmp x1 x2 x3 x4 x5) :=
  fun _ _ _ _ _ => Sys2Proof.Laws.decodeTableWord_ne _

theorem Sys2Proof.Laws.NoWord.str : ∀ x1 x2 x3 x4 x5 x6, Sys2Proof.Laws.NoWord.Statement (Sys2Proof.Instr.str x1 x2 x3 x4 x5 x6) :=
  fun _ _ _ _ _ _ => Sys2Proof.Laws.decodeTableWord_ne _

theorem Sys2Proof.Laws.NoWord.sscan : ∀ x1 x2 x3 x4 x5 x6, Sys2Proof.Laws.NoWord.Statement (Sys2Proof.Instr.sscan x1 x2 x3 x4 x5 x6) :=
  fun _ _ _ _ _ _ => Sys2Proof.Laws.decodeTableWord_ne _

theorem Sys2Proof.Laws.NoWord.scvu : ∀ x1 x2 x3 x4 x5 x6, Sys2Proof.Laws.NoWord.Statement (Sys2Proof.Instr.scvu x1 x2 x3 x4 x5 x6) :=
  fun _ _ _ _ _ _ => Sys2Proof.Laws.decodeTableWord_ne _

theorem Sys2Proof.Laws.NoWord.scvs : ∀ x1 x2 x3 x4 x5 x6, Sys2Proof.Laws.NoWord.Statement (Sys2Proof.Instr.scvs x1 x2 x3 x4 x5 x6) :=
  fun _ _ _ _ _ _ => Sys2Proof.Laws.decodeTableWord_ne _

theorem Sys2Proof.Laws.NoWord.edit : ∀ x1 x2 x3 x4 x5, Sys2Proof.Laws.NoWord.Statement (Sys2Proof.Instr.edit x1 x2 x3 x4 x5) :=
  fun _ _ _ _ _ => Sys2Proof.Laws.decodeTableWord_ne _

theorem Sys2Proof.Laws.NoWord.scall : ∀ x1, Sys2Proof.Laws.NoWord.Statement (Sys2Proof.Instr.scall x1) :=
  fun _ => Sys2Proof.Laws.decodeTableWord_ne _

theorem Sys2Proof.Laws.NoWord.breakpoint : ∀ x1, Sys2Proof.Laws.NoWord.Statement (Sys2Proof.Instr.breakpoint x1) :=
  fun _ => Sys2Proof.Laws.decodeTableWord_ne _

theorem Sys2Proof.Laws.NoWord.fenceSl : ∀ x1, Sys2Proof.Laws.NoWord.Statement (Sys2Proof.Instr.fenceSl x1) :=
  fun _ => Sys2Proof.Laws.decodeTableWord_ne _

theorem Sys2Proof.Laws.NoWord.fenceDev : ∀ x1, Sys2Proof.Laws.NoWord.Statement (Sys2Proof.Instr.fenceDev x1) :=
  fun _ => Sys2Proof.Laws.decodeTableWord_ne _

theorem Sys2Proof.Laws.NoWord.fenceAll : ∀ x1, Sys2Proof.Laws.NoWord.Statement (Sys2Proof.Instr.fenceAll x1) :=
  fun _ => Sys2Proof.Laws.decodeTableWord_ne _

theorem Sys2Proof.Laws.NoWord.csync : ∀ x1, Sys2Proof.Laws.NoWord.Statement (Sys2Proof.Instr.csync x1) :=
  fun _ => Sys2Proof.Laws.decodeTableWord_ne _

theorem Sys2Proof.Laws.NoWord.isync : ∀ x1, Sys2Proof.Laws.NoWord.Statement (Sys2Proof.Instr.isync x1) :=
  fun _ => Sys2Proof.Laws.decodeTableWord_ne _

theorem Sys2Proof.Laws.NoWord.ctlr : ∀ x1 x2 x3, Sys2Proof.Laws.NoWord.Statement (Sys2Proof.Instr.ctlr x1 x2 x3) :=
  fun _ _ _ => Sys2Proof.Laws.decodeTableWord_ne _

theorem Sys2Proof.Laws.NoWord.ctlw : ∀ x1 x2 x3, Sys2Proof.Laws.NoWord.Statement (Sys2Proof.Instr.ctlw x1 x2 x3) :=
  fun _ _ _ => Sys2Proof.Laws.decodeTableWord_ne _

theorem Sys2Proof.Laws.NoWord.tret : ∀ x1, Sys2Proof.Laws.NoWord.Statement (Sys2Proof.Instr.tret x1) :=
  fun _ => Sys2Proof.Laws.decodeTableWord_ne _

theorem Sys2Proof.Laws.NoWord.quar : ∀ x1, Sys2Proof.Laws.NoWord.Statement (Sys2Proof.Instr.quar x1) :=
  fun _ => Sys2Proof.Laws.decodeTableWord_ne _

theorem Sys2Proof.Laws.NoWord.msync : ∀ x1, Sys2Proof.Laws.NoWord.Statement (Sys2Proof.Instr.msync x1) :=
  fun _ => Sys2Proof.Laws.decodeTableWord_ne _

theorem Sys2Proof.Laws.NoWord.tlbsync : ∀ x1, Sys2Proof.Laws.NoWord.Statement (Sys2Proof.Instr.tlbsync x1) :=
  fun _ => Sys2Proof.Laws.decodeTableWord_ne _

theorem Sys2Proof.Laws.NoWord.tlbins : ∀ x1 x2 x3, Sys2Proof.Laws.NoWord.Statement (Sys2Proof.Instr.tlbins x1 x2 x3) :=
  fun _ _ _ => Sys2Proof.Laws.decodeTableWord_ne _

theorem Sys2Proof.Laws.NoWord.tlbset : ∀ x1 x2 x3 x4, Sys2Proof.Laws.NoWord.Statement (Sys2Proof.Instr.tlbset x1 x2 x3 x4) :=
  fun _ _ _ _ => Sys2Proof.Laws.decodeTableWord_ne _

theorem Sys2Proof.Laws.NoWord.tlbrd : ∀ x1 x2 x3, Sys2Proof.Laws.NoWord.Statement (Sys2Proof.Instr.tlbrd x1 x2 x3) :=
  fun _ _ _ => Sys2Proof.Laws.decodeTableWord_ne _

theorem Sys2Proof.Laws.NoWord.tlbfind : ∀ x1 x2 x3, Sys2Proof.Laws.NoWord.Statement (Sys2Proof.Instr.tlbfind x1 x2 x3) :=
  fun _ _ _ => Sys2Proof.Laws.decodeTableWord_ne _

theorem Sys2Proof.Laws.NoWord.tlbiv : ∀ x1 x2 x3, Sys2Proof.Laws.NoWord.Statement (Sys2Proof.Instr.tlbiv x1 x2 x3) :=
  fun _ _ _ => Sys2Proof.Laws.decodeTableWord_ne _

theorem Sys2Proof.Laws.NoWord.tlbia : ∀ x1 x2 x3, Sys2Proof.Laws.NoWord.Statement (Sys2Proof.Instr.tlbia x1 x2 x3) :=
  fun _ _ _ => Sys2Proof.Laws.decodeTableWord_ne _

theorem Sys2Proof.Laws.NoWord.fkset : ∀ x1 x2 x3, Sys2Proof.Laws.NoWord.Statement (Sys2Proof.Instr.fkset x1 x2 x3) :=
  fun _ _ _ => Sys2Proof.Laws.decodeTableWord_ne _

theorem Sys2Proof.Laws.NoWord.fkget : ∀ x1 x2 x3, Sys2Proof.Laws.NoWord.Statement (Sys2Proof.Instr.fkget x1 x2 x3) :=
  fun _ _ _ => Sys2Proof.Laws.decodeTableWord_ne _

theorem Sys2Proof.Laws.NoWord.ldl : ∀ x1 x2 x3 x4, Sys2Proof.Laws.NoWord.Statement (Sys2Proof.Instr.ldl x1 x2 x3 x4) :=
  fun _ _ _ _ => Sys2Proof.Laws.decodeTableWord_ne _

theorem Sys2Proof.Laws.NoWord.ldlu : ∀ x1 x2 x3 x4, Sys2Proof.Laws.NoWord.Statement (Sys2Proof.Instr.ldlu x1 x2 x3 x4) :=
  fun _ _ _ _ => Sys2Proof.Laws.decodeTableWord_ne _

theorem Sys2Proof.Laws.NoWord.stl : ∀ x1 x2 x3 x4, Sys2Proof.Laws.NoWord.Statement (Sys2Proof.Instr.stl x1 x2 x3 x4) :=
  fun _ _ _ _ => Sys2Proof.Laws.decodeTableWord_ne _

theorem Sys2Proof.Laws.NoWord.del : ∀ x1 x2 x3, Sys2Proof.Laws.NoWord.Statement (Sys2Proof.Instr.del x1 x2 x3) :=
  fun _ _ _ => Sys2Proof.Laws.decodeTableWord_ne _

theorem Sys2Proof.Laws.NoWord.commit : ∀ x1, Sys2Proof.Laws.NoWord.Statement (Sys2Proof.Instr.commit x1) :=
  fun _ => Sys2Proof.Laws.decodeTableWord_ne _

theorem Sys2Proof.Laws.NoWord.abort : ∀ x1 x2, Sys2Proof.Laws.NoWord.Statement (Sys2Proof.Instr.abort x1 x2) :=
  fun _ _ => Sys2Proof.Laws.decodeTableWord_ne _

theorem Sys2Proof.Laws.NoWord.crypt : ∀ x1 x2, Sys2Proof.Laws.NoWord.Statement (Sys2Proof.Instr.crypt x1 x2) :=
  fun _ _ => Sys2Proof.Laws.decodeTableWord_ne _

theorem Sys2Proof.Laws.NoWord.waitt : ∀ x1 x2, Sys2Proof.Laws.NoWord.Statement (Sys2Proof.Instr.waitt x1 x2) :=
  fun _ _ => Sys2Proof.Laws.decodeTableWord_ne _

theorem Sys2Proof.Laws.NoWord.dadd : ∀ x1 x2 x3, Sys2Proof.Laws.NoWord.Statement (Sys2Proof.Instr.dadd x1 x2 x3) :=
  fun _ _ _ => Sys2Proof.Laws.decodeTableWord_ne _

theorem Sys2Proof.Laws.NoWord.dsub : ∀ x1 x2 x3, Sys2Proof.Laws.NoWord.Statement (Sys2Proof.Instr.dsub x1 x2 x3) :=
  fun _ _ _ => Sys2Proof.Laws.decodeTableWord_ne _

theorem Sys2Proof.Laws.NoWord.dmul : ∀ x1 x2 x3, Sys2Proof.Laws.NoWord.Statement (Sys2Proof.Instr.dmul x1 x2 x3) :=
  fun _ _ _ => Sys2Proof.Laws.decodeTableWord_ne _

theorem Sys2Proof.Laws.NoWord.ddiv : ∀ x1 x2 x3, Sys2Proof.Laws.NoWord.Statement (Sys2Proof.Instr.ddiv x1 x2 x3) :=
  fun _ _ _ => Sys2Proof.Laws.decodeTableWord_ne _

theorem Sys2Proof.Laws.NoWord.dmod : ∀ x1 x2 x3, Sys2Proof.Laws.NoWord.Statement (Sys2Proof.Instr.dmod x1 x2 x3) :=
  fun _ _ _ => Sys2Proof.Laws.decodeTableWord_ne _

theorem Sys2Proof.Laws.NoWord.dcpy : ∀ x1 x2 x3, Sys2Proof.Laws.NoWord.Statement (Sys2Proof.Instr.dcpy x1 x2 x3) :=
  fun _ _ _ => Sys2Proof.Laws.decodeTableWord_ne _

theorem Sys2Proof.Laws.NoWord.dcmp : ∀ x1 x2 x3, Sys2Proof.Laws.NoWord.Statement (Sys2Proof.Instr.dcmp x1 x2 x3) :=
  fun _ _ _ => Sys2Proof.Laws.decodeTableWord_ne _

theorem Sys2Proof.Laws.NoWord.dshf : ∀ x1 x2 x3 x4, Sys2Proof.Laws.NoWord.Statement (Sys2Proof.Instr.dshf x1 x2 x3 x4) :=
  fun _ _ _ _ => Sys2Proof.Laws.decodeTableWord_ne _

theorem Sys2Proof.Laws.NoWord.dtst : ∀ x1 x2, Sys2Proof.Laws.NoWord.Statement (Sys2Proof.Instr.dtst x1 x2) :=
  fun _ _ => Sys2Proof.Laws.decodeTableWord_ne _

theorem Sys2Proof.Laws.NoWord.packz : ∀ x1 x2 x3, Sys2Proof.Laws.NoWord.Statement (Sys2Proof.Instr.packz x1 x2 x3) :=
  fun _ _ _ => Sys2Proof.Laws.decodeTableWord_ne _

theorem Sys2Proof.Laws.NoWord.unpkz : ∀ x1 x2 x3, Sys2Proof.Laws.NoWord.Statement (Sys2Proof.Instr.unpkz x1 x2 x3) :=
  fun _ _ _ => Sys2Proof.Laws.decodeTableWord_ne _

theorem Sys2Proof.Laws.NoWord.cvpb : ∀ x1 x2 x3, Sys2Proof.Laws.NoWord.Statement (Sys2Proof.Instr.cvpb x1 x2 x3) :=
  fun _ _ _ => Sys2Proof.Laws.decodeTableWord_ne _

theorem Sys2Proof.Laws.NoWord.cvbp : ∀ x1 x2 x3, Sys2Proof.Laws.NoWord.Statement (Sys2Proof.Instr.cvbp x1 x2 x3) :=
  fun _ _ _ => Sys2Proof.Laws.decodeTableWord_ne _

theorem Sys2Proof.Laws.NoWord.dlda : ∀ x1 x2 x3, Sys2Proof.Laws.NoWord.Statement (Sys2Proof.Instr.dlda x1 x2 x3) :=
  fun _ _ _ => Sys2Proof.Laws.decodeTableWord_ne _

theorem Sys2Proof.Laws.NoWord.dsta : ∀ x1 x2 x3, Sys2Proof.Laws.NoWord.Statement (Sys2Proof.Instr.dsta x1 x2 x3) :=
  fun _ _ _ => Sys2Proof.Laws.decodeTableWord_ne _

theorem Sys2Proof.Laws.NoWord.dada : ∀ x1 x2 x3, Sys2Proof.Laws.NoWord.Statement (Sys2Proof.Instr.dada x1 x2 x3) :=
  fun _ _ _ => Sys2Proof.Laws.decodeTableWord_ne _

theorem Sys2Proof.Laws.NoWord.dsba : ∀ x1 x2 x3, Sys2Proof.Laws.NoWord.Statement (Sys2Proof.Instr.dsba x1 x2 x3) :=
  fun _ _ _ => Sys2Proof.Laws.decodeTableWord_ne _

theorem Sys2Proof.Laws.NoWord.dmla : ∀ x1 x2 x3, Sys2Proof.Laws.NoWord.Statement (Sys2Proof.Instr.dmla x1 x2 x3) :=
  fun _ _ _ => Sys2Proof.Laws.decodeTableWord_ne _

theorem Sys2Proof.Laws.NoWord.dcpa : ∀ x1 x2 x3, Sys2Proof.Laws.NoWord.Statement (Sys2Proof.Instr.dcpa x1 x2 x3) :=
  fun _ _ _ => Sys2Proof.Laws.decodeTableWord_ne _

theorem Sys2Proof.Laws.NoWord.dadr : ∀ x1 x2 x3, Sys2Proof.Laws.NoWord.Statement (Sys2Proof.Instr.dadr x1 x2 x3) :=
  fun _ _ _ => Sys2Proof.Laws.decodeTableWord_ne _

theorem Sys2Proof.Laws.NoWord.microcodeWatchdog : ∀ x1, Sys2Proof.Laws.NoWord.Statement (Sys2Proof.Instr.microcodeWatchdog x1) :=
  fun _ => Sys2Proof.Laws.decodeTableWord_ne _

theorem Sys2Proof.Laws.NoWord.waitBoundExpiry : ∀ x1 x2 x3, Sys2Proof.Laws.NoWord.Statement (Sys2Proof.Instr.waitBoundExpiry x1 x2 x3) :=
  fun _ _ _ => Sys2Proof.Laws.decodeTableWord_ne _

theorem Sys2Proof.Laws.NoWord.controlStoreScrub : ∀ x1 x2 x3, Sys2Proof.Laws.NoWord.Statement (Sys2Proof.Instr.controlStoreScrub x1 x2 x3) :=
  fun _ _ _ => Sys2Proof.Laws.decodeTableWord_ne _

theorem Sys2Proof.Laws.NoWord.ledgerResponse : ∀ x1 x2, Sys2Proof.Laws.NoWord.Statement (Sys2Proof.Instr.ledgerResponse x1 x2) :=
  fun _ _ => Sys2Proof.Laws.decodeTableWord_ne _

theorem Sys2Proof.Laws.NoWord.wound : ∀ x1 x2, Sys2Proof.Laws.NoWord.Statement (Sys2Proof.Instr.wound x1 x2) :=
  fun _ _ => Sys2Proof.Laws.decodeTableWord_ne _

theorem Sys2Proof.Laws.NoWord.runEndRelease : ∀ x1, Sys2Proof.Laws.NoWord.Statement (Sys2Proof.Instr.runEndRelease x1) :=
  fun _ => Sys2Proof.Laws.decodeTableWord_ne _

theorem Sys2Proof.Laws.NoWord.jsnAssignment : ∀ x1, Sys2Proof.Laws.NoWord.Statement (Sys2Proof.Instr.jsnAssignment x1) :=
  fun _ => Sys2Proof.Laws.decodeTableWord_ne _

theorem Sys2Proof.Laws.NoWord.hbmScrub : ∀ x1 x2, Sys2Proof.Laws.NoWord.Statement (Sys2Proof.Instr.hbmScrub x1 x2) :=
  fun _ _ => Sys2Proof.Laws.decodeTableWord_ne _

theorem Sys2Proof.Laws.NoWord.recordComplete : Sys2Proof.Laws.NoWord.Statement (Sys2Proof.Instr.recordComplete) :=
  Sys2Proof.Laws.decodeTableWord_ne _

theorem Sys2Proof.Laws.NoWord.mirrorGroupSend : Sys2Proof.Laws.NoWord.Statement (Sys2Proof.Instr.mirrorGroupSend) :=
  Sys2Proof.Laws.decodeTableWord_ne _

theorem Sys2Proof.Laws.NoWord.mirrorAck : ∀ x1, Sys2Proof.Laws.NoWord.Statement (Sys2Proof.Instr.mirrorAck x1) :=
  fun _ => Sys2Proof.Laws.decodeTableWord_ne _

theorem Sys2Proof.Laws.NoWord.mirrorTargetTimeout : Sys2Proof.Laws.NoWord.Statement (Sys2Proof.Instr.mirrorTargetTimeout) :=
  Sys2Proof.Laws.decodeTableWord_ne _

theorem Sys2Proof.Laws.NoWord.epochSeam : Sys2Proof.Laws.NoWord.Statement (Sys2Proof.Instr.epochSeam) :=
  Sys2Proof.Laws.decodeTableWord_ne _

theorem Sys2Proof.Laws.NoWord.epochClose : Sys2Proof.Laws.NoWord.Statement (Sys2Proof.Instr.epochClose) :=
  Sys2Proof.Laws.decodeTableWord_ne _

theorem Sys2Proof.Laws.NoWord.stragglerTimeout : Sys2Proof.Laws.NoWord.Statement (Sys2Proof.Instr.stragglerTimeout) :=
  Sys2Proof.Laws.decodeTableWord_ne _

theorem Sys2Proof.Laws.NoWord.sealComplete : Sys2Proof.Laws.NoWord.Statement (Sys2Proof.Instr.sealComplete) :=
  Sys2Proof.Laws.decodeTableWord_ne _

theorem Sys2Proof.Laws.NoWord.sealRetry : Sys2Proof.Laws.NoWord.Statement (Sys2Proof.Instr.sealRetry) :=
  Sys2Proof.Laws.decodeTableWord_ne _

theorem Sys2Proof.Laws.NoWord.exportPost : Sys2Proof.Laws.NoWord.Statement (Sys2Proof.Instr.exportPost) :=
  Sys2Proof.Laws.decodeTableWord_ne _

theorem Sys2Proof.Laws.NoWord.gsealWaitExpiry : Sys2Proof.Laws.NoWord.Statement (Sys2Proof.Instr.gsealWaitExpiry) :=
  Sys2Proof.Laws.decodeTableWord_ne _

theorem Sys2Proof.Laws.NoWord.gseal : ∀ x1 x2, Sys2Proof.Laws.NoWord.Statement (Sys2Proof.Instr.gseal x1 x2) :=
  fun _ _ => Sys2Proof.Laws.decodeTableWord_ne _

theorem Sys2Proof.Laws.NoWord.sealMessage : ∀ x1 x2 x3, Sys2Proof.Laws.NoWord.Statement (Sys2Proof.Instr.sealMessage x1 x2 x3) :=
  fun _ _ _ => Sys2Proof.Laws.decodeTableWord_ne _

theorem Sys2Proof.Laws.NoWord.linkResend : ∀ x1 x2, Sys2Proof.Laws.NoWord.Statement (Sys2Proof.Instr.linkResend x1 x2) :=
  fun _ _ => Sys2Proof.Laws.decodeTableWord_ne _

theorem Sys2Proof.Laws.NoWord.kportFail : ∀ x1 x2, Sys2Proof.Laws.NoWord.Statement (Sys2Proof.Instr.kportFail x1 x2) :=
  fun _ _ => Sys2Proof.Laws.decodeTableWord_ne _

theorem Sys2Proof.Laws.NoWord.linkstate : ∀ x1 x2 x3 x4, Sys2Proof.Laws.NoWord.Statement (Sys2Proof.Instr.linkstate x1 x2 x3 x4) :=
  fun _ _ _ _ => Sys2Proof.Laws.decodeTableWord_ne _

theorem Sys2Proof.Laws.NoWord.heartbeatSend : Sys2Proof.Laws.NoWord.Statement (Sys2Proof.Instr.heartbeatSend) :=
  Sys2Proof.Laws.decodeTableWord_ne _

theorem Sys2Proof.Laws.NoWord.heartbeat : ∀ x1 x2 x3 x4, Sys2Proof.Laws.NoWord.Statement (Sys2Proof.Instr.heartbeat x1 x2 x3 x4) :=
  fun _ _ _ _ => Sys2Proof.Laws.decodeTableWord_ne _

theorem Sys2Proof.Laws.NoWord.leadLossTimeout : Sys2Proof.Laws.NoWord.Statement (Sys2Proof.Instr.leadLossTimeout) :=
  Sys2Proof.Laws.decodeTableWord_ne _

theorem Sys2Proof.Laws.NoWord.takeover : ∀ x1 x2 x3, Sys2Proof.Laws.NoWord.Statement (Sys2Proof.Instr.takeover x1 x2 x3) :=
  fun _ _ _ => Sys2Proof.Laws.decodeTableWord_ne _

theorem Sys2Proof.Laws.NoWord.tickSend : Sys2Proof.Laws.NoWord.Statement (Sys2Proof.Instr.tickSend) :=
  Sys2Proof.Laws.decodeTableWord_ne _

theorem Sys2Proof.Laws.NoWord.tick : ∀ x1 x2 x3 x4 x5, Sys2Proof.Laws.NoWord.Statement (Sys2Proof.Instr.tick x1 x2 x3 x4 x5) :=
  fun _ _ _ _ _ => Sys2Proof.Laws.decodeTableWord_ne _

theorem Sys2Proof.Laws.NoWord.tickMiss : Sys2Proof.Laws.NoWord.Statement (Sys2Proof.Instr.tickMiss) :=
  Sys2Proof.Laws.decodeTableWord_ne _

theorem Sys2Proof.Laws.NoWord.timeExchange : Sys2Proof.Laws.NoWord.Statement (Sys2Proof.Instr.timeExchange) :=
  Sys2Proof.Laws.decodeTableWord_ne _

theorem Sys2Proof.Laws.NoWord.timeRequest : ∀ x1 x2, Sys2Proof.Laws.NoWord.Statement (Sys2Proof.Instr.timeRequest x1 x2) :=
  fun _ _ => Sys2Proof.Laws.decodeTableWord_ne _

theorem Sys2Proof.Laws.NoWord.timeAnswer : ∀ x1 x2 x3 x4, Sys2Proof.Laws.NoWord.Statement (Sys2Proof.Instr.timeAnswer x1 x2 x3 x4) :=
  fun _ _ _ _ => Sys2Proof.Laws.decodeTableWord_ne _

theorem Sys2Proof.Laws.NoWord.map : ∀ x1 x2 x3 x4, Sys2Proof.Laws.NoWord.Statement (Sys2Proof.Instr.map x1 x2 x3 x4) :=
  fun _ _ _ _ => Sys2Proof.Laws.decodeTableWord_ne _

theorem Sys2Proof.Laws.NoWord.applied : ∀ x1 x2 x3, Sys2Proof.Laws.NoWord.Statement (Sys2Proof.Instr.applied x1 x2 x3) :=
  fun _ _ _ => Sys2Proof.Laws.decodeTableWord_ne _

theorem Sys2Proof.Laws.NoWord.lop : ∀ x1 x2 x3 x4 x5 x6, Sys2Proof.Laws.NoWord.Statement (Sys2Proof.Instr.lop x1 x2 x3 x4 x5 x6) :=
  fun _ _ _ _ _ _ => Sys2Proof.Laws.decodeTableWord_ne _

theorem Sys2Proof.Laws.NoWord.lopRsp : ∀ x1 x2 x3, Sys2Proof.Laws.NoWord.Statement (Sys2Proof.Instr.lopRsp x1 x2 x3) :=
  fun _ _ _ => Sys2Proof.Laws.decodeTableWord_ne _

theorem Sys2Proof.Laws.NoWord.prepare : ∀ x1 x2, Sys2Proof.Laws.NoWord.Statement (Sys2Proof.Instr.prepare x1 x2) :=
  fun _ _ => Sys2Proof.Laws.decodeTableWord_ne _

theorem Sys2Proof.Laws.NoWord.prepRsp : ∀ x1 x2, Sys2Proof.Laws.NoWord.Statement (Sys2Proof.Instr.prepRsp x1 x2) :=
  fun _ _ => Sys2Proof.Laws.decodeTableWord_ne _

theorem Sys2Proof.Laws.NoWord.apply : ∀ x1 x2, Sys2Proof.Laws.NoWord.Statement (Sys2Proof.Instr.apply x1 x2) :=
  fun _ _ => Sys2Proof.Laws.decodeTableWord_ne _

theorem Sys2Proof.Laws.NoWord.applyResend : ∀ x1 x2, Sys2Proof.Laws.NoWord.Statement (Sys2Proof.Instr.applyResend x1 x2) :=
  fun _ _ => Sys2Proof.Laws.decodeTableWord_ne _

theorem Sys2Proof.Laws.NoWord.woundMessage : ∀ x1 x2 x3, Sys2Proof.Laws.NoWord.Statement (Sys2Proof.Instr.woundMessage x1 x2 x3) :=
  fun _ _ _ => Sys2Proof.Laws.decodeTableWord_ne _

theorem Sys2Proof.Laws.NoWord.woundResend : ∀ x1, Sys2Proof.Laws.NoWord.Statement (Sys2Proof.Instr.woundResend x1) :=
  fun _ => Sys2Proof.Laws.decodeTableWord_ne _

theorem Sys2Proof.Laws.NoWord.kolRelease : ∀ x1, Sys2Proof.Laws.NoWord.Statement (Sys2Proof.Instr.kolRelease x1) :=
  fun _ => Sys2Proof.Laws.decodeTableWord_ne _

theorem Sys2Proof.Laws.NoWord.reservationLeaseExpiry : ∀ x1 x2, Sys2Proof.Laws.NoWord.Statement (Sys2Proof.Instr.reservationLeaseExpiry x1 x2) :=
  fun _ _ => Sys2Proof.Laws.decodeTableWord_ne _

theorem Sys2Proof.Laws.NoWord.holdExpiry : ∀ x1 x2, Sys2Proof.Laws.NoWord.Statement (Sys2Proof.Instr.holdExpiry x1 x2) :=
  fun _ _ => Sys2Proof.Laws.decodeTableWord_ne _

theorem Sys2Proof.Laws.NoWord.kolTimeout : ∀ x1, Sys2Proof.Laws.NoWord.Statement (Sys2Proof.Instr.kolTimeout x1) :=
  fun _ => Sys2Proof.Laws.decodeTableWord_ne _

theorem Sys2Proof.Laws.NoWord.wread : ∀ x1 x2 x3, Sys2Proof.Laws.NoWord.Statement (Sys2Proof.Instr.wread x1 x2 x3) :=
  fun _ _ _ => Sys2Proof.Laws.decodeTableWord_ne _

theorem Sys2Proof.Laws.NoWord.wwrite : ∀ x1 x2 x3 x4, Sys2Proof.Laws.NoWord.Statement (Sys2Proof.Instr.wwrite x1 x2 x3 x4) :=
  fun _ _ _ _ => Sys2Proof.Laws.decodeTableWord_ne _

theorem Sys2Proof.Laws.NoWord.winRsp : ∀ x1 x2 x3, Sys2Proof.Laws.NoWord.Statement (Sys2Proof.Instr.winRsp x1 x2 x3) :=
  fun _ _ _ => Sys2Proof.Laws.decodeTableWord_ne _

theorem Sys2Proof.Laws.NoWord.mirror : ∀ x1 x2 x3 x4, Sys2Proof.Laws.NoWord.Statement (Sys2Proof.Instr.mirror x1 x2 x3 x4) :=
  fun _ _ _ _ => Sys2Proof.Laws.decodeTableWord_ne _

theorem Sys2Proof.Laws.NoWord.kolEnableWrite : ∀ x1, Sys2Proof.Laws.NoWord.Statement (Sys2Proof.Instr.kolEnableWrite x1) :=
  fun _ => Sys2Proof.Laws.decodeTableWord_ne _

theorem Sys2Proof.Laws.NoWord.doorbellSnoop : ∀ x1, Sys2Proof.Laws.NoWord.Statement (Sys2Proof.Instr.doorbellSnoop x1) :=
  fun _ => Sys2Proof.Laws.decodeTableWord_ne _

theorem Sys2Proof.Laws.NoWord.doorbellPoll : Sys2Proof.Laws.NoWord.Statement (Sys2Proof.Instr.doorbellPoll) :=
  Sys2Proof.Laws.decodeTableWord_ne _

theorem Sys2Proof.Laws.NoWord.doorbellRead : ∀ x1, Sys2Proof.Laws.NoWord.Statement (Sys2Proof.Instr.doorbellRead x1) :=
  fun _ => Sys2Proof.Laws.decodeTableWord_ne _

theorem Sys2Proof.Laws.NoWord.submissionFetch : ∀ x1, Sys2Proof.Laws.NoWord.Statement (Sys2Proof.Instr.submissionFetch x1) :=
  fun _ => Sys2Proof.Laws.decodeTableWord_ne _

theorem Sys2Proof.Laws.NoWord.completionPost : ∀ x1, Sys2Proof.Laws.NoWord.Statement (Sys2Proof.Instr.completionPost x1) :=
  fun _ => Sys2Proof.Laws.decodeTableWord_ne _

theorem Sys2Proof.Laws.NoWord.excPost : Sys2Proof.Laws.NoWord.Statement (Sys2Proof.Instr.excPost) :=
  Sys2Proof.Laws.decodeTableWord_ne _

theorem Sys2Proof.Laws.NoWord.ringEnable : ∀ x1, Sys2Proof.Laws.NoWord.Statement (Sys2Proof.Instr.ringEnable x1) :=
  fun _ => Sys2Proof.Laws.decodeTableWord_ne _

theorem Sys2Proof.Laws.NoWord.ringIrqTimer : ∀ x1, Sys2Proof.Laws.NoWord.Statement (Sys2Proof.Instr.ringIrqTimer x1) :=
  fun _ => Sys2Proof.Laws.decodeTableWord_ne _

theorem Sys2Proof.Laws.NoWord.drainTimeout : ∀ x1, Sys2Proof.Laws.NoWord.Statement (Sys2Proof.Instr.drainTimeout x1) :=
  fun _ => Sys2Proof.Laws.decodeTableWord_ne _

theorem Sys2Proof.Laws.NoWord.hostAccessTimeout : ∀ x1 x2, Sys2Proof.Laws.NoWord.Statement (Sys2Proof.Instr.hostAccessTimeout x1 x2) :=
  fun _ _ => Sys2Proof.Laws.decodeTableWord_ne _

theorem Sys2Proof.Laws.NoWord.pcieLinkUp : ∀ x1 x2 x3, Sys2Proof.Laws.NoWord.Statement (Sys2Proof.Instr.pcieLinkUp x1 x2 x3) :=
  fun _ _ _ => Sys2Proof.Laws.decodeTableWord_ne _

theorem Sys2Proof.Laws.NoWord.pciePerst : Sys2Proof.Laws.NoWord.Statement (Sys2Proof.Instr.pciePerst) :=
  Sys2Proof.Laws.decodeTableWord_ne _

theorem Sys2Proof.Laws.NoWord.handover : ∀ x1, Sys2Proof.Laws.NoWord.Statement (Sys2Proof.Instr.handover x1) :=
  fun _ => Sys2Proof.Laws.decodeTableWord_ne _

theorem Sys2Proof.Laws.NoWord.close : ∀ x1, Sys2Proof.Laws.NoWord.Statement (Sys2Proof.Instr.close x1) :=
  fun _ => Sys2Proof.Laws.decodeTableWord_ne _

theorem Sys2Proof.Laws.NoWord.rekey : ∀ x1, Sys2Proof.Laws.NoWord.Statement (Sys2Proof.Instr.rekey x1) :=
  fun _ => Sys2Proof.Laws.decodeTableWord_ne _

theorem Sys2Proof.Laws.NoWord.portMove : ∀ x1, Sys2Proof.Laws.NoWord.Statement (Sys2Proof.Instr.portMove x1) :=
  fun _ => Sys2Proof.Laws.decodeTableWord_ne _

theorem Sys2Proof.Laws.NoWord.descriptorUpdate : ∀ x1, Sys2Proof.Laws.NoWord.Statement (Sys2Proof.Instr.descriptorUpdate x1) :=
  fun _ => Sys2Proof.Laws.decodeTableWord_ne _

theorem Sys2Proof.Laws.NoWord.dialectLoad : ∀ x1, Sys2Proof.Laws.NoWord.Statement (Sys2Proof.Instr.dialectLoad x1) :=
  fun _ => Sys2Proof.Laws.decodeTableWord_ne _

theorem Sys2Proof.Laws.NoWord.benchConfigure : ∀ x1, Sys2Proof.Laws.NoWord.Statement (Sys2Proof.Instr.benchConfigure x1) :=
  fun _ => Sys2Proof.Laws.decodeTableWord_ne _

theorem Sys2Proof.Laws.NoWord.bulkLoad : ∀ x1, Sys2Proof.Laws.NoWord.Statement (Sys2Proof.Instr.bulkLoad x1) :=
  fun _ => Sys2Proof.Laws.decodeTableWord_ne _

theorem Sys2Proof.Laws.NoWord.cancel : ∀ x1, Sys2Proof.Laws.NoWord.Statement (Sys2Proof.Instr.cancel x1) :=
  fun _ => Sys2Proof.Laws.decodeTableWord_ne _

theorem Sys2Proof.Laws.NoWord.keyLoad : ∀ x1, Sys2Proof.Laws.NoWord.Statement (Sys2Proof.Instr.keyLoad x1) :=
  fun _ => Sys2Proof.Laws.decodeTableWord_ne _

theorem Sys2Proof.Laws.NoWord.keyExport : ∀ x1, Sys2Proof.Laws.NoWord.Statement (Sys2Proof.Instr.keyExport x1) :=
  fun _ => Sys2Proof.Laws.decodeTableWord_ne _

theorem Sys2Proof.Laws.NoWord.keyDelete : ∀ x1, Sys2Proof.Laws.NoWord.Statement (Sys2Proof.Instr.keyDelete x1) :=
  fun _ => Sys2Proof.Laws.decodeTableWord_ne _

theorem Sys2Proof.Laws.NoWord.keyInfo : ∀ x1, Sys2Proof.Laws.NoWord.Statement (Sys2Proof.Instr.keyInfo x1) :=
  fun _ => Sys2Proof.Laws.decodeTableWord_ne _

theorem Sys2Proof.Laws.NoWord.keySave : ∀ x1, Sys2Proof.Laws.NoWord.Statement (Sys2Proof.Instr.keySave x1) :=
  fun _ => Sys2Proof.Laws.decodeTableWord_ne _

theorem Sys2Proof.Laws.NoWord.keyRestore : ∀ x1, Sys2Proof.Laws.NoWord.Statement (Sys2Proof.Instr.keyRestore x1) :=
  fun _ => Sys2Proof.Laws.decodeTableWord_ne _

theorem Sys2Proof.Laws.NoWord.zeroise : ∀ x1, Sys2Proof.Laws.NoWord.Statement (Sys2Proof.Instr.zeroise x1) :=
  fun _ => Sys2Proof.Laws.decodeTableWord_ne _

theorem Sys2Proof.Laws.NoWord.journalTail : ∀ x1, Sys2Proof.Laws.NoWord.Statement (Sys2Proof.Instr.journalTail x1) :=
  fun _ => Sys2Proof.Laws.decodeTableWord_ne _

theorem Sys2Proof.Laws.NoWord.mapUpdate : ∀ x1, Sys2Proof.Laws.NoWord.Statement (Sys2Proof.Instr.mapUpdate x1) :=
  fun _ => Sys2Proof.Laws.decodeTableWord_ne _

theorem Sys2Proof.Laws.NoWord.sliceTransfer : ∀ x1, Sys2Proof.Laws.NoWord.Statement (Sys2Proof.Instr.sliceTransfer x1) :=
  fun _ => Sys2Proof.Laws.decodeTableWord_ne _

theorem Sys2Proof.Laws.NoWord.orphanResolve : ∀ x1, Sys2Proof.Laws.NoWord.Statement (Sys2Proof.Instr.orphanResolve x1) :=
  fun _ => Sys2Proof.Laws.decodeTableWord_ne _

theorem Sys2Proof.Laws.NoWord.cryptoJobStart : ∀ x1 x2, Sys2Proof.Laws.NoWord.Statement (Sys2Proof.Instr.cryptoJobStart x1 x2) :=
  fun _ _ => Sys2Proof.Laws.decodeTableWord_ne _

theorem Sys2Proof.Laws.NoWord.completionLatch : ∀ x1, Sys2Proof.Laws.NoWord.Statement (Sys2Proof.Instr.completionLatch x1) :=
  fun _ => Sys2Proof.Laws.decodeTableWord_ne _

theorem Sys2Proof.Laws.NoWord.cryptoCompletion : ∀ x1 x2, Sys2Proof.Laws.NoWord.Statement (Sys2Proof.Instr.cryptoCompletion x1 x2) :=
  fun _ _ => Sys2Proof.Laws.decodeTableWord_ne _

theorem Sys2Proof.Laws.NoWord.jobAbort : ∀ x1, Sys2Proof.Laws.NoWord.Statement (Sys2Proof.Instr.jobAbort x1) :=
  fun _ => Sys2Proof.Laws.decodeTableWord_ne _

theorem Sys2Proof.Laws.NoWord.tamperInput : ∀ x1, Sys2Proof.Laws.NoWord.Statement (Sys2Proof.Instr.tamperInput x1) :=
  fun _ => Sys2Proof.Laws.decodeTableWord_ne _

theorem Sys2Proof.Laws.NoWord.zeroisationDone : Sys2Proof.Laws.NoWord.Statement (Sys2Proof.Instr.zeroisationDone) :=
  Sys2Proof.Laws.decodeTableWord_ne _

theorem Sys2Proof.Laws.NoWord.trafficSpaceWipe : Sys2Proof.Laws.NoWord.Statement (Sys2Proof.Instr.trafficSpaceWipe) :=
  Sys2Proof.Laws.decodeTableWord_ne _

theorem Sys2Proof.Laws.NoWord.mpuCommitGo : Sys2Proof.Laws.NoWord.Statement (Sys2Proof.Instr.mpuCommitGo) :=
  Sys2Proof.Laws.decodeTableWord_ne _

theorem Sys2Proof.Laws.NoWord.mpuActivation : Sys2Proof.Laws.NoWord.Statement (Sys2Proof.Instr.mpuActivation) :=
  Sys2Proof.Laws.decodeTableWord_ne _

theorem Sys2Proof.Laws.NoWord.mpuSkeyWrite : ∀ x1, Sys2Proof.Laws.NoWord.Statement (Sys2Proof.Instr.mpuSkeyWrite x1) :=
  fun _ => Sys2Proof.Laws.decodeTableWord_ne _

theorem Sys2Proof.Laws.NoWord.storageKeyAcked : Sys2Proof.Laws.NoWord.Statement (Sys2Proof.Instr.storageKeyAcked) :=
  Sys2Proof.Laws.decodeTableWord_ne _

theorem Sys2Proof.Laws.NoWord.clockScaleEval : ∀ x1, Sys2Proof.Laws.NoWord.Statement (Sys2Proof.Instr.clockScaleEval x1) :=
  fun _ => Sys2Proof.Laws.decodeTableWord_ne _

theorem Sys2Proof.Laws.NoWord.clockHoldExpiry : ∀ x1, Sys2Proof.Laws.NoWord.Statement (Sys2Proof.Instr.clockHoldExpiry x1) :=
  fun _ => Sys2Proof.Laws.decodeTableWord_ne _

theorem Sys2Proof.Laws.NoWord.operatingPointDone : ∀ x1, Sys2Proof.Laws.NoWord.Statement (Sys2Proof.Instr.operatingPointDone x1) :=
  fun _ => Sys2Proof.Laws.decodeTableWord_ne _

theorem Sys2Proof.Laws.NoWord.islandRun : ∀ x1, Sys2Proof.Laws.NoWord.Statement (Sys2Proof.Instr.islandRun x1) :=
  fun _ => Sys2Proof.Laws.decodeTableWord_ne _

theorem Sys2Proof.Laws.NoWord.islandHold : ∀ x1, Sys2Proof.Laws.NoWord.Statement (Sys2Proof.Instr.islandHold x1) :=
  fun _ => Sys2Proof.Laws.decodeTableWord_ne _

theorem Sys2Proof.Laws.NoWord.islandOff : ∀ x1, Sys2Proof.Laws.NoWord.Statement (Sys2Proof.Instr.islandOff x1) :=
  fun _ => Sys2Proof.Laws.decodeTableWord_ne _

theorem Sys2Proof.Laws.NoWord.islandReset : ∀ x1, Sys2Proof.Laws.NoWord.Statement (Sys2Proof.Instr.islandReset x1) :=
  fun _ => Sys2Proof.Laws.decodeTableWord_ne _

theorem Sys2Proof.Laws.NoWord.islandQuiesced : ∀ x1, Sys2Proof.Laws.NoWord.Statement (Sys2Proof.Instr.islandQuiesced x1) :=
  fun _ => Sys2Proof.Laws.decodeTableWord_ne _

theorem Sys2Proof.Laws.NoWord.islandReturn : ∀ x1, Sys2Proof.Laws.NoWord.Statement (Sys2Proof.Instr.islandReturn x1) :=
  fun _ => Sys2Proof.Laws.decodeTableWord_ne _

theorem Sys2Proof.Laws.NoWord.sensorSample : ∀ x1 x2, Sys2Proof.Laws.NoWord.Statement (Sys2Proof.Instr.sensorSample x1 x2) :=
  fun _ _ => Sys2Proof.Laws.decodeTableWord_ne _

theorem Sys2Proof.Laws.NoWord.thermalModelPeriod : Sys2Proof.Laws.NoWord.Statement (Sys2Proof.Instr.thermalModelPeriod) :=
  Sys2Proof.Laws.decodeTableWord_ne _

theorem Sys2Proof.Laws.NoWord.thermalTrip : Sys2Proof.Laws.NoWord.Statement (Sys2Proof.Instr.thermalTrip) :=
  Sys2Proof.Laws.decodeTableWord_ne _

theorem Sys2Proof.Laws.NoWord.avsUpdate : ∀ x1, Sys2Proof.Laws.NoWord.Statement (Sys2Proof.Instr.avsUpdate x1) :=
  fun _ => Sys2Proof.Laws.decodeTableWord_ne _

theorem Sys2Proof.Laws.NoWord.avsFault : ∀ x1, Sys2Proof.Laws.NoWord.Statement (Sys2Proof.Instr.avsFault x1) :=
  fun _ => Sys2Proof.Laws.decodeTableWord_ne _

theorem Sys2Proof.Laws.NoWord.railLoss : ∀ x1, Sys2Proof.Laws.NoWord.Statement (Sys2Proof.Instr.railLoss x1) :=
  fun _ => Sys2Proof.Laws.decodeTableWord_ne _

theorem Sys2Proof.Laws.NoWord.refclkLoss : ∀ x1, Sys2Proof.Laws.NoWord.Statement (Sys2Proof.Instr.refclkLoss x1) :=
  fun _ => Sys2Proof.Laws.decodeTableWord_ne _

theorem Sys2Proof.Laws.NoWord.refclkRestore : ∀ x1, Sys2Proof.Laws.NoWord.Statement (Sys2Proof.Instr.refclkRestore x1) :=
  fun _ => Sys2Proof.Laws.decodeTableWord_ne _

theorem Sys2Proof.Laws.NoWord.coreFaultStop : ∀ x1, Sys2Proof.Laws.NoWord.Statement (Sys2Proof.Instr.coreFaultStop x1) :=
  fun _ => Sys2Proof.Laws.decodeTableWord_ne _

theorem Sys2Proof.Laws.NoWord.engineFault : ∀ x1 x2, Sys2Proof.Laws.NoWord.Statement (Sys2Proof.Instr.engineFault x1 x2) :=
  fun _ _ => Sys2Proof.Laws.decodeTableWord_ne _

theorem Sys2Proof.Laws.NoWord.tileLoss : ∀ x1, Sys2Proof.Laws.NoWord.Statement (Sys2Proof.Instr.tileLoss x1) :=
  fun _ => Sys2Proof.Laws.decodeTableWord_ne _

theorem Sys2Proof.Laws.NoWord.xltLaneFault : ∀ x1, Sys2Proof.Laws.NoWord.Statement (Sys2Proof.Instr.xltLaneFault x1) :=
  fun _ => Sys2Proof.Laws.decodeTableWord_ne _

theorem Sys2Proof.Laws.NoWord.jnlLaneFault : ∀ x1, Sys2Proof.Laws.NoWord.Statement (Sys2Proof.Instr.jnlLaneFault x1) :=
  fun _ => Sys2Proof.Laws.decodeTableWord_ne _

theorem Sys2Proof.Laws.NoWord.hbmStackFail : ∀ x1, Sys2Proof.Laws.NoWord.Statement (Sys2Proof.Instr.hbmStackFail x1) :=
  fun _ => Sys2Proof.Laws.decodeTableWord_ne _

theorem Sys2Proof.Laws.NoWord.hbmDataLoss : ∀ x1, Sys2Proof.Laws.NoWord.Statement (Sys2Proof.Instr.hbmDataLoss x1) :=
  fun _ => Sys2Proof.Laws.decodeTableWord_ne _

theorem Sys2Proof.Laws.NoWord.fabricFault : ∀ x1 x2 x3, Sys2Proof.Laws.NoWord.Statement (Sys2Proof.Instr.fabricFault x1 x2 x3) :=
  fun _ _ _ => Sys2Proof.Laws.decodeTableWord_ne _

theorem Sys2Proof.Laws.NoWord.pairedMismatch : ∀ x1, Sys2Proof.Laws.NoWord.Statement (Sys2Proof.Instr.pairedMismatch x1) :=
  fun _ => Sys2Proof.Laws.decodeTableWord_ne _

theorem Sys2Proof.Laws.NoWord.keyStoreFault : ∀ x1, Sys2Proof.Laws.NoWord.Statement (Sys2Proof.Instr.keyStoreFault x1) :=
  fun _ => Sys2Proof.Laws.decodeTableWord_ne _

theorem Sys2Proof.Laws.NoWord.selfTestDone : ∀ x1 x2, Sys2Proof.Laws.NoWord.Statement (Sys2Proof.Instr.selfTestDone x1 x2) :=
  fun _ _ => Sys2Proof.Laws.decodeTableWord_ne _

theorem Sys2Proof.Laws.NoWord.faultHoldExpiry : Sys2Proof.Laws.NoWord.Statement (Sys2Proof.Instr.faultHoldExpiry) :=
  Sys2Proof.Laws.decodeTableWord_ne _

theorem Sys2Proof.Laws.NoWord.coldReset : ∀ x1, Sys2Proof.Laws.NoWord.Statement (Sys2Proof.Instr.coldReset x1) :=
  fun _ => Sys2Proof.Laws.decodeTableWord_ne _

theorem Sys2Proof.Laws.NoWord.warmReset : Sys2Proof.Laws.NoWord.Statement (Sys2Proof.Instr.warmReset) :=
  Sys2Proof.Laws.decodeTableWord_ne _

theorem Sys2Proof.Laws.NoWord.bootResetWarm : ∀ x1, Sys2Proof.Laws.NoWord.Statement (Sys2Proof.Instr.bootResetWarm x1) :=
  fun _ => Sys2Proof.Laws.decodeTableWord_ne _

theorem Sys2Proof.Laws.NoWord.bootResetCold : ∀ x1, Sys2Proof.Laws.NoWord.Statement (Sys2Proof.Instr.bootResetCold x1) :=
  fun _ => Sys2Proof.Laws.decodeTableWord_ne _

theorem Sys2Proof.Laws.NoWord.powerGood : Sys2Proof.Laws.NoWord.Statement (Sys2Proof.Instr.powerGood) :=
  Sys2Proof.Laws.decodeTableWord_ne _

theorem Sys2Proof.Laws.NoWord.imageSelect : Sys2Proof.Laws.NoWord.Statement (Sys2Proof.Instr.imageSelect) :=
  Sys2Proof.Laws.decodeTableWord_ne _

theorem Sys2Proof.Laws.NoWord.microcodeLoad : ∀ x1, Sys2Proof.Laws.NoWord.Statement (Sys2Proof.Instr.microcodeLoad x1) :=
  fun _ => Sys2Proof.Laws.decodeTableWord_ne _

theorem Sys2Proof.Laws.NoWord.standinOpen : Sys2Proof.Laws.NoWord.Statement (Sys2Proof.Instr.standinOpen) :=
  Sys2Proof.Laws.decodeTableWord_ne _

theorem Sys2Proof.Laws.NoWord.hbmInitDone : Sys2Proof.Laws.NoWord.Statement (Sys2Proof.Instr.hbmInitDone) :=
  Sys2Proof.Laws.decodeTableWord_ne _

theorem Sys2Proof.Laws.NoWord.bringupReady : Sys2Proof.Laws.NoWord.Statement (Sys2Proof.Instr.bringupReady) :=
  Sys2Proof.Laws.decodeTableWord_ne _

theorem Sys2Proof.Laws.NoWord.bootLoad : Sys2Proof.Laws.NoWord.Statement (Sys2Proof.Instr.bootLoad) :=
  Sys2Proof.Laws.decodeTableWord_ne _

theorem Sys2Proof.Laws.NoWord.bootRelease : Sys2Proof.Laws.NoWord.Statement (Sys2Proof.Instr.bootRelease) :=
  Sys2Proof.Laws.decodeTableWord_ne _

theorem Sys2Proof.Laws.NoWord.standinTilesJoin : Sys2Proof.Laws.NoWord.Statement (Sys2Proof.Instr.standinTilesJoin) :=
  Sys2Proof.Laws.decodeTableWord_ne _

theorem Sys2Proof.Laws.NoWord.svnCommit : Sys2Proof.Laws.NoWord.Statement (Sys2Proof.Instr.svnCommit) :=
  Sys2Proof.Laws.decodeTableWord_ne _

theorem Sys2Proof.Laws.NoWord.fuseProgram : ∀ x1, Sys2Proof.Laws.NoWord.Statement (Sys2Proof.Instr.fuseProgram x1) :=
  fun _ => Sys2Proof.Laws.decodeTableWord_ne _

theorem Sys2Proof.Laws.NoWord.standinDecide : ∀ x1, Sys2Proof.Laws.NoWord.Statement (Sys2Proof.Instr.standinDecide x1) :=
  fun _ => Sys2Proof.Laws.decodeTableWord_ne _

theorem Sys2Proof.Laws.NoWord.timeStep : ∀ x1, Sys2Proof.Laws.NoWord.Statement (Sys2Proof.Instr.timeStep x1) :=
  fun _ => Sys2Proof.Laws.decodeTableWord_ne _

theorem Sys2Proof.Laws.NoWord.timeRateWrite : ∀ x1, Sys2Proof.Laws.NoWord.Statement (Sys2Proof.Instr.timeRateWrite x1) :=
  fun _ => Sys2Proof.Laws.decodeTableWord_ne _

theorem Sys2Proof.Laws.NoWord.ppsEdge : ∀ x1, Sys2Proof.Laws.NoWord.Statement (Sys2Proof.Instr.ppsEdge x1) :=
  fun _ => Sys2Proof.Laws.decodeTableWord_ne _

theorem Sys2Proof.Laws.NoWord.ppsOutRise : Sys2Proof.Laws.NoWord.Statement (Sys2Proof.Instr.ppsOutRise) :=
  Sys2Proof.Laws.decodeTableWord_ne _

theorem Sys2Proof.Laws.NoWord.ppsOutFall : Sys2Proof.Laws.NoWord.Statement (Sys2Proof.Instr.ppsOutFall) :=
  Sys2Proof.Laws.decodeTableWord_ne _

theorem Sys2Proof.Laws.NoWord.debugNewchal : Sys2Proof.Laws.NoWord.Statement (Sys2Proof.Instr.debugNewchal) :=
  Sys2Proof.Laws.decodeTableWord_ne _

theorem Sys2Proof.Laws.NoWord.debugGo : ∀ x1 x2, Sys2Proof.Laws.NoWord.Statement (Sys2Proof.Instr.debugGo x1 x2) :=
  fun _ _ => Sys2Proof.Laws.decodeTableWord_ne _

theorem Sys2Proof.Laws.NoWord.sysEvtClear : ∀ x1, Sys2Proof.Laws.NoWord.Statement (Sys2Proof.Instr.sysEvtClear x1) :=
  fun _ => Sys2Proof.Laws.decodeTableWord_ne _

theorem Sys2Proof.Laws.NoWord.sysEvtEnWrite : ∀ x1, Sys2Proof.Laws.NoWord.Statement (Sys2Proof.Instr.sysEvtEnWrite x1) :=
  fun _ => Sys2Proof.Laws.decodeTableWord_ne _

theorem Sys2Proof.Laws.NoWord.latchedHalfRead : ∀ x1 x2, Sys2Proof.Laws.NoWord.Statement (Sys2Proof.Instr.latchedHalfRead x1 x2) :=
  fun _ _ => Sys2Proof.Laws.decodeTableWord_ne _

theorem Sys2Proof.Laws.NoWord.bar0UnmappedAccess : ∀ x1 x2 x3, Sys2Proof.Laws.NoWord.Statement (Sys2Proof.Instr.bar0UnmappedAccess x1 x2 x3) :=
  fun _ _ _ => Sys2Proof.Laws.decodeTableWord_ne _

theorem Sys2Proof.Laws.NoWord.bar0Abort : ∀ x1 x2 x3, Sys2Proof.Laws.NoWord.Statement (Sys2Proof.Instr.bar0Abort x1 x2 x3) :=
  fun _ _ _ => Sys2Proof.Laws.decodeTableWord_ne _

theorem Sys2Proof.Laws.NoWord.smbusBlockWrite : ∀ x1, Sys2Proof.Laws.NoWord.Statement (Sys2Proof.Instr.smbusBlockWrite x1) :=
  fun _ => Sys2Proof.Laws.decodeTableWord_ne _

theorem Sys2Proof.Laws.NoWord.smbusBlockRead : Sys2Proof.Laws.NoWord.Statement (Sys2Proof.Instr.smbusBlockRead) :=
  Sys2Proof.Laws.decodeTableWord_ne _

theorem Sys2Proof.Laws.NoWord.registerWrite : ∀ x1 x2 x3 x4, Sys2Proof.Laws.NoWord.Statement (Sys2Proof.Instr.registerWrite x1 x2 x3 x4) :=
  fun _ _ _ _ => Sys2Proof.Laws.decodeTableWord_ne _

theorem Sys2Proof.Laws.NoWord.portLinkUp : ∀ x1, Sys2Proof.Laws.NoWord.Statement (Sys2Proof.Instr.portLinkUp x1) :=
  fun _ => Sys2Proof.Laws.decodeTableWord_ne _

theorem Sys2Proof.Laws.NoWord.bondRecover : ∀ x1, Sys2Proof.Laws.NoWord.Statement (Sys2Proof.Instr.bondRecover x1) :=
  fun _ => Sys2Proof.Laws.decodeTableWord_ne _

theorem Sys2Proof.Laws.NoWord.pcieLinkDown : Sys2Proof.Laws.NoWord.Statement (Sys2Proof.Instr.pcieLinkDown) :=
  Sys2Proof.Laws.decodeTableWord_ne _

theorem Sys2Proof.Laws.NoWord.fuseWriteDone : Sys2Proof.Laws.NoWord.Statement (Sys2Proof.Instr.fuseWriteDone) :=
  Sys2Proof.Laws.decodeTableWord_ne _

theorem Sys2Proof.Laws.NoWord.warmResetNRise : Sys2Proof.Laws.NoWord.Statement (Sys2Proof.Instr.warmResetNRise) :=
  Sys2Proof.Laws.decodeTableWord_ne _

theorem Sys2Proof.Laws.NoWord.tamperInputHigh : ∀ x1, Sys2Proof.Laws.NoWord.Statement (Sys2Proof.Instr.tamperInputHigh x1) :=
  fun _ => Sys2Proof.Laws.decodeTableWord_ne _

theorem Sys2Proof.Laws.NoWord.adminUnknownOp : ∀ x1 x2, Sys2Proof.Laws.NoWord.Statement (Sys2Proof.Instr.adminUnknownOp x1 x2) :=
  fun _ _ => Sys2Proof.Laws.decodeTableWord_ne _

theorem Sys2Proof.Laws.NoWord.illegalInstruction : ∀ x1 x2 x3, Sys2Proof.Laws.NoWord.Statement (Sys2Proof.Instr.illegalInstruction x1 x2 x3) :=
  fun _ _ _ => Sys2Proof.Laws.decodeTableWord_ne _
end

