-- ==== Sys2Proof/Laws/State.lean ====
section
/-! SUPPORT. What each update of the state leaves alone, field by field, and what a read gives after a write: the laws
that keep later proofs from unfolding a record update. -/

namespace Sys2Proof.Machine

/-! ## State.setCore -/

@[simp] theorem State.mem_setCore (s : State) (c : CoreId) (k : Core) : (s.setCore c k).mem = s.mem := rfl
@[simp] theorem State.skeys_setCore (s : State) (c : CoreId) (k : Core) : (s.setCore c k).skeys = s.skeys := rfl
@[simp] theorem State.regs_setCore (s : State) (c : CoreId) (k : Core) : (s.setCore c k).regs = s.regs := rfl
@[simp] theorem State.l1_setCore (s : State) (c : CoreId) (k : Core) : (s.setCore c k).l1 = s.l1 := rfl
@[simp] theorem State.devtime_setCore (s : State) (c : CoreId) (k : Core) : (s.setCore c k).devtime = s.devtime := rfl
@[simp] theorem State.txns_setCore (s : State) (c : CoreId) (k : Core) : (s.setCore c k).txns = s.txns := rfl
@[simp] theorem State.busy_setCore (s : State) (c : CoreId) (k : Core) : (s.setCore c k).busy = s.busy := rfl
@[simp] theorem State.xlt_setCore (s : State) (c : CoreId) (k : Core) : (s.setCore c k).xlt = s.xlt := rfl
@[simp] theorem State.ldg_setCore (s : State) (c : CoreId) (k : Core) : (s.setCore c k).ldg = s.ldg := rfl
@[simp] theorem State.kol_setCore (s : State) (c : CoreId) (k : Core) : (s.setCore c k).kol = s.kol := rfl
@[simp] theorem State.jnl_setCore (s : State) (c : CoreId) (k : Core) : (s.setCore c k).jnl = s.jnl := rfl
@[simp] theorem State.cry_setCore (s : State) (c : CoreId) (k : Core) : (s.setCore c k).cry = s.cry := rfl
@[simp] theorem State.hif_setCore (s : State) (c : CoreId) (k : Core) : (s.setCore c k).hif = s.hif := rfl
@[simp] theorem State.net_setCore (s : State) (c : CoreId) (k : Core) : (s.setCore c k).net = s.net := rfl
@[simp] theorem State.err_setCore (s : State) (c : CoreId) (k : Core) : (s.setCore c k).err = s.err := rfl
@[simp] theorem State.sys_setCore (s : State) (c : CoreId) (k : Core) : (s.setCore c k).sys = s.sys := rfl
@[simp] theorem State.pwr_setCore (s : State) (c : CoreId) (k : Core) : (s.setCore c k).pwr = s.pwr := rfl
@[simp] theorem State.boot_setCore (s : State) (c : CoreId) (k : Core) : (s.setCore c k).boot = s.boot := rfl
@[simp] theorem State.adm_setCore (s : State) (c : CoreId) (k : Core) : (s.setCore c k).adm = s.adm := rfl
@[simp] theorem State.skey_setCore (s : State) (c : CoreId) (k : Core) : (s.setCore c k).skey = s.skey := rfl
@[simp] theorem State.mchks_setCore (s : State) (c : CoreId) (k : Core) : (s.setCore c k).mchks = s.mchks := rfl
@[simp] theorem State.out_setCore (s : State) (c : CoreId) (k : Core) : (s.setCore c k).out = s.out := rfl
@[simp] theorem State.freeCtr_setCore (s : State) (c : CoreId) (k : Core) : (s.setCore c k).freeCtr = s.freeCtr := rfl
@[simp] theorem State.pending_setCore (s : State) (c : CoreId) (k : Core) : (s.setCore c k).pending = s.pending := rfl

/-! ## State.modCore -/

@[simp] theorem State.mem_modCore (s : State) (c : CoreId) (f : Core → Core) : (s.modCore c f).mem = s.mem := rfl
@[simp] theorem State.skeys_modCore (s : State) (c : CoreId) (f : Core → Core) : (s.modCore c f).skeys = s.skeys := rfl
@[simp] theorem State.regs_modCore (s : State) (c : CoreId) (f : Core → Core) : (s.modCore c f).regs = s.regs := rfl
@[simp] theorem State.l1_modCore (s : State) (c : CoreId) (f : Core → Core) : (s.modCore c f).l1 = s.l1 := rfl
@[simp] theorem State.devtime_modCore (s : State) (c : CoreId) (f : Core → Core) : (s.modCore c f).devtime = s.devtime := rfl
@[simp] theorem State.txns_modCore (s : State) (c : CoreId) (f : Core → Core) : (s.modCore c f).txns = s.txns := rfl
@[simp] theorem State.busy_modCore (s : State) (c : CoreId) (f : Core → Core) : (s.modCore c f).busy = s.busy := rfl
@[simp] theorem State.xlt_modCore (s : State) (c : CoreId) (f : Core → Core) : (s.modCore c f).xlt = s.xlt := rfl
@[simp] theorem State.ldg_modCore (s : State) (c : CoreId) (f : Core → Core) : (s.modCore c f).ldg = s.ldg := rfl
@[simp] theorem State.kol_modCore (s : State) (c : CoreId) (f : Core → Core) : (s.modCore c f).kol = s.kol := rfl
@[simp] theorem State.jnl_modCore (s : State) (c : CoreId) (f : Core → Core) : (s.modCore c f).jnl = s.jnl := rfl
@[simp] theorem State.cry_modCore (s : State) (c : CoreId) (f : Core → Core) : (s.modCore c f).cry = s.cry := rfl
@[simp] theorem State.hif_modCore (s : State) (c : CoreId) (f : Core → Core) : (s.modCore c f).hif = s.hif := rfl
@[simp] theorem State.net_modCore (s : State) (c : CoreId) (f : Core → Core) : (s.modCore c f).net = s.net := rfl
@[simp] theorem State.err_modCore (s : State) (c : CoreId) (f : Core → Core) : (s.modCore c f).err = s.err := rfl
@[simp] theorem State.sys_modCore (s : State) (c : CoreId) (f : Core → Core) : (s.modCore c f).sys = s.sys := rfl
@[simp] theorem State.pwr_modCore (s : State) (c : CoreId) (f : Core → Core) : (s.modCore c f).pwr = s.pwr := rfl
@[simp] theorem State.boot_modCore (s : State) (c : CoreId) (f : Core → Core) : (s.modCore c f).boot = s.boot := rfl
@[simp] theorem State.adm_modCore (s : State) (c : CoreId) (f : Core → Core) : (s.modCore c f).adm = s.adm := rfl
@[simp] theorem State.skey_modCore (s : State) (c : CoreId) (f : Core → Core) : (s.modCore c f).skey = s.skey := rfl
@[simp] theorem State.mchks_modCore (s : State) (c : CoreId) (f : Core → Core) : (s.modCore c f).mchks = s.mchks := rfl
@[simp] theorem State.out_modCore (s : State) (c : CoreId) (f : Core → Core) : (s.modCore c f).out = s.out := rfl
@[simp] theorem State.freeCtr_modCore (s : State) (c : CoreId) (f : Core → Core) : (s.modCore c f).freeCtr = s.freeCtr := rfl
@[simp] theorem State.pending_modCore (s : State) (c : CoreId) (f : Core → Core) : (s.modCore c f).pending = s.pending := rfl

/-! ## State.modBank -/

@[simp] theorem State.mem_modBank (s : State) (c : CoreId) (b : BankId) (f : Bank → Bank) : (s.modBank c b f).mem = s.mem := rfl
@[simp] theorem State.skeys_modBank (s : State) (c : CoreId) (b : BankId) (f : Bank → Bank) : (s.modBank c b f).skeys = s.skeys := rfl
@[simp] theorem State.regs_modBank (s : State) (c : CoreId) (b : BankId) (f : Bank → Bank) : (s.modBank c b f).regs = s.regs := rfl
@[simp] theorem State.l1_modBank (s : State) (c : CoreId) (b : BankId) (f : Bank → Bank) : (s.modBank c b f).l1 = s.l1 := rfl
@[simp] theorem State.devtime_modBank (s : State) (c : CoreId) (b : BankId) (f : Bank → Bank) : (s.modBank c b f).devtime = s.devtime := rfl
@[simp] theorem State.txns_modBank (s : State) (c : CoreId) (b : BankId) (f : Bank → Bank) : (s.modBank c b f).txns = s.txns := rfl
@[simp] theorem State.busy_modBank (s : State) (c : CoreId) (b : BankId) (f : Bank → Bank) : (s.modBank c b f).busy = s.busy := rfl
@[simp] theorem State.xlt_modBank (s : State) (c : CoreId) (b : BankId) (f : Bank → Bank) : (s.modBank c b f).xlt = s.xlt := rfl
@[simp] theorem State.ldg_modBank (s : State) (c : CoreId) (b : BankId) (f : Bank → Bank) : (s.modBank c b f).ldg = s.ldg := rfl
@[simp] theorem State.kol_modBank (s : State) (c : CoreId) (b : BankId) (f : Bank → Bank) : (s.modBank c b f).kol = s.kol := rfl
@[simp] theorem State.jnl_modBank (s : State) (c : CoreId) (b : BankId) (f : Bank → Bank) : (s.modBank c b f).jnl = s.jnl := rfl
@[simp] theorem State.cry_modBank (s : State) (c : CoreId) (b : BankId) (f : Bank → Bank) : (s.modBank c b f).cry = s.cry := rfl
@[simp] theorem State.hif_modBank (s : State) (c : CoreId) (b : BankId) (f : Bank → Bank) : (s.modBank c b f).hif = s.hif := rfl
@[simp] theorem State.net_modBank (s : State) (c : CoreId) (b : BankId) (f : Bank → Bank) : (s.modBank c b f).net = s.net := rfl
@[simp] theorem State.err_modBank (s : State) (c : CoreId) (b : BankId) (f : Bank → Bank) : (s.modBank c b f).err = s.err := rfl
@[simp] theorem State.sys_modBank (s : State) (c : CoreId) (b : BankId) (f : Bank → Bank) : (s.modBank c b f).sys = s.sys := rfl
@[simp] theorem State.pwr_modBank (s : State) (c : CoreId) (b : BankId) (f : Bank → Bank) : (s.modBank c b f).pwr = s.pwr := rfl
@[simp] theorem State.boot_modBank (s : State) (c : CoreId) (b : BankId) (f : Bank → Bank) : (s.modBank c b f).boot = s.boot := rfl
@[simp] theorem State.adm_modBank (s : State) (c : CoreId) (b : BankId) (f : Bank → Bank) : (s.modBank c b f).adm = s.adm := rfl
@[simp] theorem State.skey_modBank (s : State) (c : CoreId) (b : BankId) (f : Bank → Bank) : (s.modBank c b f).skey = s.skey := rfl
@[simp] theorem State.mchks_modBank (s : State) (c : CoreId) (b : BankId) (f : Bank → Bank) : (s.modBank c b f).mchks = s.mchks := rfl
@[simp] theorem State.out_modBank (s : State) (c : CoreId) (b : BankId) (f : Bank → Bank) : (s.modBank c b f).out = s.out := rfl
@[simp] theorem State.freeCtr_modBank (s : State) (c : CoreId) (b : BankId) (f : Bank → Bank) : (s.modBank c b f).freeCtr = s.freeCtr := rfl
@[simp] theorem State.pending_modBank (s : State) (c : CoreId) (b : BankId) (f : Bank → Bank) : (s.modBank c b f).pending = s.pending := rfl

/-! ## State.setG -/

@[simp] theorem State.mem_setG (s : State) (c : CoreId) (b : BankId) (r : Reg) (v : Word) : (s.setG c b r v).mem = s.mem := rfl
@[simp] theorem State.skeys_setG (s : State) (c : CoreId) (b : BankId) (r : Reg) (v : Word) : (s.setG c b r v).skeys = s.skeys := rfl
@[simp] theorem State.regs_setG (s : State) (c : CoreId) (b : BankId) (r : Reg) (v : Word) : (s.setG c b r v).regs = s.regs := rfl
@[simp] theorem State.l1_setG (s : State) (c : CoreId) (b : BankId) (r : Reg) (v : Word) : (s.setG c b r v).l1 = s.l1 := rfl
@[simp] theorem State.devtime_setG (s : State) (c : CoreId) (b : BankId) (r : Reg) (v : Word) : (s.setG c b r v).devtime = s.devtime := rfl
@[simp] theorem State.txns_setG (s : State) (c : CoreId) (b : BankId) (r : Reg) (v : Word) : (s.setG c b r v).txns = s.txns := rfl
@[simp] theorem State.busy_setG (s : State) (c : CoreId) (b : BankId) (r : Reg) (v : Word) : (s.setG c b r v).busy = s.busy := rfl
@[simp] theorem State.xlt_setG (s : State) (c : CoreId) (b : BankId) (r : Reg) (v : Word) : (s.setG c b r v).xlt = s.xlt := rfl
@[simp] theorem State.ldg_setG (s : State) (c : CoreId) (b : BankId) (r : Reg) (v : Word) : (s.setG c b r v).ldg = s.ldg := rfl
@[simp] theorem State.kol_setG (s : State) (c : CoreId) (b : BankId) (r : Reg) (v : Word) : (s.setG c b r v).kol = s.kol := rfl
@[simp] theorem State.jnl_setG (s : State) (c : CoreId) (b : BankId) (r : Reg) (v : Word) : (s.setG c b r v).jnl = s.jnl := rfl
@[simp] theorem State.cry_setG (s : State) (c : CoreId) (b : BankId) (r : Reg) (v : Word) : (s.setG c b r v).cry = s.cry := rfl
@[simp] theorem State.hif_setG (s : State) (c : CoreId) (b : BankId) (r : Reg) (v : Word) : (s.setG c b r v).hif = s.hif := rfl
@[simp] theorem State.net_setG (s : State) (c : CoreId) (b : BankId) (r : Reg) (v : Word) : (s.setG c b r v).net = s.net := rfl
@[simp] theorem State.err_setG (s : State) (c : CoreId) (b : BankId) (r : Reg) (v : Word) : (s.setG c b r v).err = s.err := rfl
@[simp] theorem State.sys_setG (s : State) (c : CoreId) (b : BankId) (r : Reg) (v : Word) : (s.setG c b r v).sys = s.sys := rfl
@[simp] theorem State.pwr_setG (s : State) (c : CoreId) (b : BankId) (r : Reg) (v : Word) : (s.setG c b r v).pwr = s.pwr := rfl
@[simp] theorem State.boot_setG (s : State) (c : CoreId) (b : BankId) (r : Reg) (v : Word) : (s.setG c b r v).boot = s.boot := rfl
@[simp] theorem State.adm_setG (s : State) (c : CoreId) (b : BankId) (r : Reg) (v : Word) : (s.setG c b r v).adm = s.adm := rfl
@[simp] theorem State.skey_setG (s : State) (c : CoreId) (b : BankId) (r : Reg) (v : Word) : (s.setG c b r v).skey = s.skey := rfl
@[simp] theorem State.mchks_setG (s : State) (c : CoreId) (b : BankId) (r : Reg) (v : Word) : (s.setG c b r v).mchks = s.mchks := rfl
@[simp] theorem State.out_setG (s : State) (c : CoreId) (b : BankId) (r : Reg) (v : Word) : (s.setG c b r v).out = s.out := rfl
@[simp] theorem State.freeCtr_setG (s : State) (c : CoreId) (b : BankId) (r : Reg) (v : Word) : (s.setG c b r v).freeCtr = s.freeCtr := rfl
@[simp] theorem State.pending_setG (s : State) (c : CoreId) (b : BankId) (r : Reg) (v : Word) : (s.setG c b r v).pending = s.pending := rfl

/-! ## State.setCC -/

@[simp] theorem State.mem_setCC (s : State) (c : CoreId) (b : BankId) (v : Nat) : (s.setCC c b v).mem = s.mem := rfl
@[simp] theorem State.skeys_setCC (s : State) (c : CoreId) (b : BankId) (v : Nat) : (s.setCC c b v).skeys = s.skeys := rfl
@[simp] theorem State.regs_setCC (s : State) (c : CoreId) (b : BankId) (v : Nat) : (s.setCC c b v).regs = s.regs := rfl
@[simp] theorem State.l1_setCC (s : State) (c : CoreId) (b : BankId) (v : Nat) : (s.setCC c b v).l1 = s.l1 := rfl
@[simp] theorem State.devtime_setCC (s : State) (c : CoreId) (b : BankId) (v : Nat) : (s.setCC c b v).devtime = s.devtime := rfl
@[simp] theorem State.txns_setCC (s : State) (c : CoreId) (b : BankId) (v : Nat) : (s.setCC c b v).txns = s.txns := rfl
@[simp] theorem State.busy_setCC (s : State) (c : CoreId) (b : BankId) (v : Nat) : (s.setCC c b v).busy = s.busy := rfl
@[simp] theorem State.xlt_setCC (s : State) (c : CoreId) (b : BankId) (v : Nat) : (s.setCC c b v).xlt = s.xlt := rfl
@[simp] theorem State.ldg_setCC (s : State) (c : CoreId) (b : BankId) (v : Nat) : (s.setCC c b v).ldg = s.ldg := rfl
@[simp] theorem State.kol_setCC (s : State) (c : CoreId) (b : BankId) (v : Nat) : (s.setCC c b v).kol = s.kol := rfl
@[simp] theorem State.jnl_setCC (s : State) (c : CoreId) (b : BankId) (v : Nat) : (s.setCC c b v).jnl = s.jnl := rfl
@[simp] theorem State.cry_setCC (s : State) (c : CoreId) (b : BankId) (v : Nat) : (s.setCC c b v).cry = s.cry := rfl
@[simp] theorem State.hif_setCC (s : State) (c : CoreId) (b : BankId) (v : Nat) : (s.setCC c b v).hif = s.hif := rfl
@[simp] theorem State.net_setCC (s : State) (c : CoreId) (b : BankId) (v : Nat) : (s.setCC c b v).net = s.net := rfl
@[simp] theorem State.err_setCC (s : State) (c : CoreId) (b : BankId) (v : Nat) : (s.setCC c b v).err = s.err := rfl
@[simp] theorem State.sys_setCC (s : State) (c : CoreId) (b : BankId) (v : Nat) : (s.setCC c b v).sys = s.sys := rfl
@[simp] theorem State.pwr_setCC (s : State) (c : CoreId) (b : BankId) (v : Nat) : (s.setCC c b v).pwr = s.pwr := rfl
@[simp] theorem State.boot_setCC (s : State) (c : CoreId) (b : BankId) (v : Nat) : (s.setCC c b v).boot = s.boot := rfl
@[simp] theorem State.adm_setCC (s : State) (c : CoreId) (b : BankId) (v : Nat) : (s.setCC c b v).adm = s.adm := rfl
@[simp] theorem State.skey_setCC (s : State) (c : CoreId) (b : BankId) (v : Nat) : (s.setCC c b v).skey = s.skey := rfl
@[simp] theorem State.mchks_setCC (s : State) (c : CoreId) (b : BankId) (v : Nat) : (s.setCC c b v).mchks = s.mchks := rfl
@[simp] theorem State.out_setCC (s : State) (c : CoreId) (b : BankId) (v : Nat) : (s.setCC c b v).out = s.out := rfl
@[simp] theorem State.freeCtr_setCC (s : State) (c : CoreId) (b : BankId) (v : Nat) : (s.setCC c b v).freeCtr = s.freeCtr := rfl
@[simp] theorem State.pending_setCC (s : State) (c : CoreId) (b : BankId) (v : Nat) : (s.setCC c b v).pending = s.pending := rfl

/-! ## State.setFr -/

@[simp] theorem State.mem_setFr (s : State) (c : CoreId) (r : Reg) (v : Word) : (s.setFr c r v).mem = s.mem := rfl
@[simp] theorem State.skeys_setFr (s : State) (c : CoreId) (r : Reg) (v : Word) : (s.setFr c r v).skeys = s.skeys := rfl
@[simp] theorem State.regs_setFr (s : State) (c : CoreId) (r : Reg) (v : Word) : (s.setFr c r v).regs = s.regs := rfl
@[simp] theorem State.l1_setFr (s : State) (c : CoreId) (r : Reg) (v : Word) : (s.setFr c r v).l1 = s.l1 := rfl
@[simp] theorem State.devtime_setFr (s : State) (c : CoreId) (r : Reg) (v : Word) : (s.setFr c r v).devtime = s.devtime := rfl
@[simp] theorem State.txns_setFr (s : State) (c : CoreId) (r : Reg) (v : Word) : (s.setFr c r v).txns = s.txns := rfl
@[simp] theorem State.busy_setFr (s : State) (c : CoreId) (r : Reg) (v : Word) : (s.setFr c r v).busy = s.busy := rfl
@[simp] theorem State.xlt_setFr (s : State) (c : CoreId) (r : Reg) (v : Word) : (s.setFr c r v).xlt = s.xlt := rfl
@[simp] theorem State.ldg_setFr (s : State) (c : CoreId) (r : Reg) (v : Word) : (s.setFr c r v).ldg = s.ldg := rfl
@[simp] theorem State.kol_setFr (s : State) (c : CoreId) (r : Reg) (v : Word) : (s.setFr c r v).kol = s.kol := rfl
@[simp] theorem State.jnl_setFr (s : State) (c : CoreId) (r : Reg) (v : Word) : (s.setFr c r v).jnl = s.jnl := rfl
@[simp] theorem State.cry_setFr (s : State) (c : CoreId) (r : Reg) (v : Word) : (s.setFr c r v).cry = s.cry := rfl
@[simp] theorem State.hif_setFr (s : State) (c : CoreId) (r : Reg) (v : Word) : (s.setFr c r v).hif = s.hif := rfl
@[simp] theorem State.net_setFr (s : State) (c : CoreId) (r : Reg) (v : Word) : (s.setFr c r v).net = s.net := rfl
@[simp] theorem State.err_setFr (s : State) (c : CoreId) (r : Reg) (v : Word) : (s.setFr c r v).err = s.err := rfl
@[simp] theorem State.sys_setFr (s : State) (c : CoreId) (r : Reg) (v : Word) : (s.setFr c r v).sys = s.sys := rfl
@[simp] theorem State.pwr_setFr (s : State) (c : CoreId) (r : Reg) (v : Word) : (s.setFr c r v).pwr = s.pwr := rfl
@[simp] theorem State.boot_setFr (s : State) (c : CoreId) (r : Reg) (v : Word) : (s.setFr c r v).boot = s.boot := rfl
@[simp] theorem State.adm_setFr (s : State) (c : CoreId) (r : Reg) (v : Word) : (s.setFr c r v).adm = s.adm := rfl
@[simp] theorem State.skey_setFr (s : State) (c : CoreId) (r : Reg) (v : Word) : (s.setFr c r v).skey = s.skey := rfl
@[simp] theorem State.mchks_setFr (s : State) (c : CoreId) (r : Reg) (v : Word) : (s.setFr c r v).mchks = s.mchks := rfl
@[simp] theorem State.out_setFr (s : State) (c : CoreId) (r : Reg) (v : Word) : (s.setFr c r v).out = s.out := rfl
@[simp] theorem State.freeCtr_setFr (s : State) (c : CoreId) (r : Reg) (v : Word) : (s.setFr c r v).freeCtr = s.freeCtr := rfl
@[simp] theorem State.pending_setFr (s : State) (c : CoreId) (r : Reg) (v : Word) : (s.setFr c r v).pending = s.pending := rfl

/-! ## State.setDa -/

@[simp] theorem State.mem_setDa (s : State) (c : CoreId) (n : Fin 8) (v : List Byte) : (s.setDa c n v).mem = s.mem := rfl
@[simp] theorem State.skeys_setDa (s : State) (c : CoreId) (n : Fin 8) (v : List Byte) : (s.setDa c n v).skeys = s.skeys := rfl
@[simp] theorem State.regs_setDa (s : State) (c : CoreId) (n : Fin 8) (v : List Byte) : (s.setDa c n v).regs = s.regs := rfl
@[simp] theorem State.l1_setDa (s : State) (c : CoreId) (n : Fin 8) (v : List Byte) : (s.setDa c n v).l1 = s.l1 := rfl
@[simp] theorem State.devtime_setDa (s : State) (c : CoreId) (n : Fin 8) (v : List Byte) : (s.setDa c n v).devtime = s.devtime := rfl
@[simp] theorem State.txns_setDa (s : State) (c : CoreId) (n : Fin 8) (v : List Byte) : (s.setDa c n v).txns = s.txns := rfl
@[simp] theorem State.busy_setDa (s : State) (c : CoreId) (n : Fin 8) (v : List Byte) : (s.setDa c n v).busy = s.busy := rfl
@[simp] theorem State.xlt_setDa (s : State) (c : CoreId) (n : Fin 8) (v : List Byte) : (s.setDa c n v).xlt = s.xlt := rfl
@[simp] theorem State.ldg_setDa (s : State) (c : CoreId) (n : Fin 8) (v : List Byte) : (s.setDa c n v).ldg = s.ldg := rfl
@[simp] theorem State.kol_setDa (s : State) (c : CoreId) (n : Fin 8) (v : List Byte) : (s.setDa c n v).kol = s.kol := rfl
@[simp] theorem State.jnl_setDa (s : State) (c : CoreId) (n : Fin 8) (v : List Byte) : (s.setDa c n v).jnl = s.jnl := rfl
@[simp] theorem State.cry_setDa (s : State) (c : CoreId) (n : Fin 8) (v : List Byte) : (s.setDa c n v).cry = s.cry := rfl
@[simp] theorem State.hif_setDa (s : State) (c : CoreId) (n : Fin 8) (v : List Byte) : (s.setDa c n v).hif = s.hif := rfl
@[simp] theorem State.net_setDa (s : State) (c : CoreId) (n : Fin 8) (v : List Byte) : (s.setDa c n v).net = s.net := rfl
@[simp] theorem State.err_setDa (s : State) (c : CoreId) (n : Fin 8) (v : List Byte) : (s.setDa c n v).err = s.err := rfl
@[simp] theorem State.sys_setDa (s : State) (c : CoreId) (n : Fin 8) (v : List Byte) : (s.setDa c n v).sys = s.sys := rfl
@[simp] theorem State.pwr_setDa (s : State) (c : CoreId) (n : Fin 8) (v : List Byte) : (s.setDa c n v).pwr = s.pwr := rfl
@[simp] theorem State.boot_setDa (s : State) (c : CoreId) (n : Fin 8) (v : List Byte) : (s.setDa c n v).boot = s.boot := rfl
@[simp] theorem State.adm_setDa (s : State) (c : CoreId) (n : Fin 8) (v : List Byte) : (s.setDa c n v).adm = s.adm := rfl
@[simp] theorem State.skey_setDa (s : State) (c : CoreId) (n : Fin 8) (v : List Byte) : (s.setDa c n v).skey = s.skey := rfl
@[simp] theorem State.mchks_setDa (s : State) (c : CoreId) (n : Fin 8) (v : List Byte) : (s.setDa c n v).mchks = s.mchks := rfl
@[simp] theorem State.out_setDa (s : State) (c : CoreId) (n : Fin 8) (v : List Byte) : (s.setDa c n v).out = s.out := rfl
@[simp] theorem State.freeCtr_setDa (s : State) (c : CoreId) (n : Fin 8) (v : List Byte) : (s.setDa c n v).freeCtr = s.freeCtr := rfl
@[simp] theorem State.pending_setDa (s : State) (c : CoreId) (n : Fin 8) (v : List Byte) : (s.setDa c n v).pending = s.pending := rfl

/-! ## State.noProgress -/

@[simp] theorem State.mem_noProgress (s : State) (c : CoreId) (b : BankId) : (s.noProgress c b).mem = s.mem := rfl
@[simp] theorem State.skeys_noProgress (s : State) (c : CoreId) (b : BankId) : (s.noProgress c b).skeys = s.skeys := rfl
@[simp] theorem State.regs_noProgress (s : State) (c : CoreId) (b : BankId) : (s.noProgress c b).regs = s.regs := rfl
@[simp] theorem State.l1_noProgress (s : State) (c : CoreId) (b : BankId) : (s.noProgress c b).l1 = s.l1 := rfl
@[simp] theorem State.devtime_noProgress (s : State) (c : CoreId) (b : BankId) : (s.noProgress c b).devtime = s.devtime := rfl
@[simp] theorem State.txns_noProgress (s : State) (c : CoreId) (b : BankId) : (s.noProgress c b).txns = s.txns := rfl
@[simp] theorem State.busy_noProgress (s : State) (c : CoreId) (b : BankId) : (s.noProgress c b).busy = s.busy := rfl
@[simp] theorem State.xlt_noProgress (s : State) (c : CoreId) (b : BankId) : (s.noProgress c b).xlt = s.xlt := rfl
@[simp] theorem State.ldg_noProgress (s : State) (c : CoreId) (b : BankId) : (s.noProgress c b).ldg = s.ldg := rfl
@[simp] theorem State.kol_noProgress (s : State) (c : CoreId) (b : BankId) : (s.noProgress c b).kol = s.kol := rfl
@[simp] theorem State.jnl_noProgress (s : State) (c : CoreId) (b : BankId) : (s.noProgress c b).jnl = s.jnl := rfl
@[simp] theorem State.cry_noProgress (s : State) (c : CoreId) (b : BankId) : (s.noProgress c b).cry = s.cry := rfl
@[simp] theorem State.hif_noProgress (s : State) (c : CoreId) (b : BankId) : (s.noProgress c b).hif = s.hif := rfl
@[simp] theorem State.net_noProgress (s : State) (c : CoreId) (b : BankId) : (s.noProgress c b).net = s.net := rfl
@[simp] theorem State.err_noProgress (s : State) (c : CoreId) (b : BankId) : (s.noProgress c b).err = s.err := rfl
@[simp] theorem State.sys_noProgress (s : State) (c : CoreId) (b : BankId) : (s.noProgress c b).sys = s.sys := rfl
@[simp] theorem State.pwr_noProgress (s : State) (c : CoreId) (b : BankId) : (s.noProgress c b).pwr = s.pwr := rfl
@[simp] theorem State.boot_noProgress (s : State) (c : CoreId) (b : BankId) : (s.noProgress c b).boot = s.boot := rfl
@[simp] theorem State.adm_noProgress (s : State) (c : CoreId) (b : BankId) : (s.noProgress c b).adm = s.adm := rfl
@[simp] theorem State.skey_noProgress (s : State) (c : CoreId) (b : BankId) : (s.noProgress c b).skey = s.skey := rfl
@[simp] theorem State.mchks_noProgress (s : State) (c : CoreId) (b : BankId) : (s.noProgress c b).mchks = s.mchks := rfl
@[simp] theorem State.out_noProgress (s : State) (c : CoreId) (b : BankId) : (s.noProgress c b).out = s.out := rfl
@[simp] theorem State.freeCtr_noProgress (s : State) (c : CoreId) (b : BankId) : (s.noProgress c b).freeCtr = s.freeCtr := rfl
@[simp] theorem State.pending_noProgress (s : State) (c : CoreId) (b : BankId) : (s.noProgress c b).pending = s.pending := rfl

/-! ## State.wr -/

@[simp] theorem State.skeys_wr (s : State) (a : Nat) (v : List Byte) : (s.wr a v).skeys = s.skeys := rfl
@[simp] theorem State.regs_wr (s : State) (a : Nat) (v : List Byte) : (s.wr a v).regs = s.regs := rfl
@[simp] theorem State.cores_wr (s : State) (a : Nat) (v : List Byte) : (s.wr a v).cores = s.cores := rfl
@[simp] theorem State.devtime_wr (s : State) (a : Nat) (v : List Byte) : (s.wr a v).devtime = s.devtime := rfl
@[simp] theorem State.txns_wr (s : State) (a : Nat) (v : List Byte) : (s.wr a v).txns = s.txns := rfl
@[simp] theorem State.busy_wr (s : State) (a : Nat) (v : List Byte) : (s.wr a v).busy = s.busy := rfl
@[simp] theorem State.xlt_wr (s : State) (a : Nat) (v : List Byte) : (s.wr a v).xlt = s.xlt := rfl
@[simp] theorem State.ldg_wr (s : State) (a : Nat) (v : List Byte) : (s.wr a v).ldg = s.ldg := rfl
@[simp] theorem State.kol_wr (s : State) (a : Nat) (v : List Byte) : (s.wr a v).kol = s.kol := rfl
@[simp] theorem State.jnl_wr (s : State) (a : Nat) (v : List Byte) : (s.wr a v).jnl = s.jnl := rfl
@[simp] theorem State.cry_wr (s : State) (a : Nat) (v : List Byte) : (s.wr a v).cry = s.cry := rfl
@[simp] theorem State.hif_wr (s : State) (a : Nat) (v : List Byte) : (s.wr a v).hif = s.hif := rfl
@[simp] theorem State.net_wr (s : State) (a : Nat) (v : List Byte) : (s.wr a v).net = s.net := rfl
@[simp] theorem State.err_wr (s : State) (a : Nat) (v : List Byte) : (s.wr a v).err = s.err := rfl
@[simp] theorem State.sys_wr (s : State) (a : Nat) (v : List Byte) : (s.wr a v).sys = s.sys := rfl
@[simp] theorem State.pwr_wr (s : State) (a : Nat) (v : List Byte) : (s.wr a v).pwr = s.pwr := rfl
@[simp] theorem State.boot_wr (s : State) (a : Nat) (v : List Byte) : (s.wr a v).boot = s.boot := rfl
@[simp] theorem State.adm_wr (s : State) (a : Nat) (v : List Byte) : (s.wr a v).adm = s.adm := rfl
@[simp] theorem State.skey_wr (s : State) (a : Nat) (v : List Byte) : (s.wr a v).skey = s.skey := rfl
@[simp] theorem State.mchks_wr (s : State) (a : Nat) (v : List Byte) : (s.wr a v).mchks = s.mchks := rfl
@[simp] theorem State.out_wr (s : State) (a : Nat) (v : List Byte) : (s.wr a v).out = s.out := rfl
@[simp] theorem State.freeCtr_wr (s : State) (a : Nat) (v : List Byte) : (s.wr a v).freeCtr = s.freeCtr := rfl
@[simp] theorem State.pending_wr (s : State) (a : Nat) (v : List Byte) : (s.wr a v).pending = s.pending := rfl

/-! ## State.setReg -/

@[simp] theorem State.mem_setReg (s : State) (a v : Nat) : (s.setReg a v).mem = s.mem := rfl
@[simp] theorem State.skeys_setReg (s : State) (a v : Nat) : (s.setReg a v).skeys = s.skeys := rfl
@[simp] theorem State.cores_setReg (s : State) (a v : Nat) : (s.setReg a v).cores = s.cores := rfl
@[simp] theorem State.l1_setReg (s : State) (a v : Nat) : (s.setReg a v).l1 = s.l1 := rfl
@[simp] theorem State.devtime_setReg (s : State) (a v : Nat) : (s.setReg a v).devtime = s.devtime := rfl
@[simp] theorem State.txns_setReg (s : State) (a v : Nat) : (s.setReg a v).txns = s.txns := rfl
@[simp] theorem State.busy_setReg (s : State) (a v : Nat) : (s.setReg a v).busy = s.busy := rfl
@[simp] theorem State.xlt_setReg (s : State) (a v : Nat) : (s.setReg a v).xlt = s.xlt := rfl
@[simp] theorem State.ldg_setReg (s : State) (a v : Nat) : (s.setReg a v).ldg = s.ldg := rfl
@[simp] theorem State.kol_setReg (s : State) (a v : Nat) : (s.setReg a v).kol = s.kol := rfl
@[simp] theorem State.jnl_setReg (s : State) (a v : Nat) : (s.setReg a v).jnl = s.jnl := rfl
@[simp] theorem State.cry_setReg (s : State) (a v : Nat) : (s.setReg a v).cry = s.cry := rfl
@[simp] theorem State.hif_setReg (s : State) (a v : Nat) : (s.setReg a v).hif = s.hif := rfl
@[simp] theorem State.net_setReg (s : State) (a v : Nat) : (s.setReg a v).net = s.net := rfl
@[simp] theorem State.err_setReg (s : State) (a v : Nat) : (s.setReg a v).err = s.err := rfl
@[simp] theorem State.sys_setReg (s : State) (a v : Nat) : (s.setReg a v).sys = s.sys := rfl
@[simp] theorem State.pwr_setReg (s : State) (a v : Nat) : (s.setReg a v).pwr = s.pwr := rfl
@[simp] theorem State.boot_setReg (s : State) (a v : Nat) : (s.setReg a v).boot = s.boot := rfl
@[simp] theorem State.adm_setReg (s : State) (a v : Nat) : (s.setReg a v).adm = s.adm := rfl
@[simp] theorem State.skey_setReg (s : State) (a v : Nat) : (s.setReg a v).skey = s.skey := rfl
@[simp] theorem State.mchks_setReg (s : State) (a v : Nat) : (s.setReg a v).mchks = s.mchks := rfl
@[simp] theorem State.out_setReg (s : State) (a v : Nat) : (s.setReg a v).out = s.out := rfl
@[simp] theorem State.freeCtr_setReg (s : State) (a v : Nat) : (s.setReg a v).freeCtr = s.freeCtr := rfl
@[simp] theorem State.pending_setReg (s : State) (a v : Nat) : (s.setReg a v).pending = s.pending := rfl

/-! ## State.bump -/

@[simp] theorem State.mem_bump (s : State) (a n : Nat) : (s.bump a n).mem = s.mem := rfl
@[simp] theorem State.skeys_bump (s : State) (a n : Nat) : (s.bump a n).skeys = s.skeys := rfl
@[simp] theorem State.cores_bump (s : State) (a n : Nat) : (s.bump a n).cores = s.cores := rfl
@[simp] theorem State.l1_bump (s : State) (a n : Nat) : (s.bump a n).l1 = s.l1 := rfl
@[simp] theorem State.devtime_bump (s : State) (a n : Nat) : (s.bump a n).devtime = s.devtime := rfl
@[simp] theorem State.txns_bump (s : State) (a n : Nat) : (s.bump a n).txns = s.txns := rfl
@[simp] theorem State.busy_bump (s : State) (a n : Nat) : (s.bump a n).busy = s.busy := rfl
@[simp] theorem State.xlt_bump (s : State) (a n : Nat) : (s.bump a n).xlt = s.xlt := rfl
@[simp] theorem State.ldg_bump (s : State) (a n : Nat) : (s.bump a n).ldg = s.ldg := rfl
@[simp] theorem State.kol_bump (s : State) (a n : Nat) : (s.bump a n).kol = s.kol := rfl
@[simp] theorem State.jnl_bump (s : State) (a n : Nat) : (s.bump a n).jnl = s.jnl := rfl
@[simp] theorem State.cry_bump (s : State) (a n : Nat) : (s.bump a n).cry = s.cry := rfl
@[simp] theorem State.hif_bump (s : State) (a n : Nat) : (s.bump a n).hif = s.hif := rfl
@[simp] theorem State.net_bump (s : State) (a n : Nat) : (s.bump a n).net = s.net := rfl
@[simp] theorem State.err_bump (s : State) (a n : Nat) : (s.bump a n).err = s.err := rfl
@[simp] theorem State.sys_bump (s : State) (a n : Nat) : (s.bump a n).sys = s.sys := rfl
@[simp] theorem State.pwr_bump (s : State) (a n : Nat) : (s.bump a n).pwr = s.pwr := rfl
@[simp] theorem State.boot_bump (s : State) (a n : Nat) : (s.bump a n).boot = s.boot := rfl
@[simp] theorem State.adm_bump (s : State) (a n : Nat) : (s.bump a n).adm = s.adm := rfl
@[simp] theorem State.skey_bump (s : State) (a n : Nat) : (s.bump a n).skey = s.skey := rfl
@[simp] theorem State.mchks_bump (s : State) (a n : Nat) : (s.bump a n).mchks = s.mchks := rfl
@[simp] theorem State.out_bump (s : State) (a n : Nat) : (s.bump a n).out = s.out := rfl
@[simp] theorem State.freeCtr_bump (s : State) (a n : Nat) : (s.bump a n).freeCtr = s.freeCtr := rfl
@[simp] theorem State.pending_bump (s : State) (a n : Nat) : (s.bump a n).pending = s.pending := rfl

/-! ## State.modTxn -/

@[simp] theorem State.mem_modTxn (s : State) (a : Nat) (f : Txn → Txn) : (s.modTxn a f).mem = s.mem := rfl
@[simp] theorem State.skeys_modTxn (s : State) (a : Nat) (f : Txn → Txn) : (s.modTxn a f).skeys = s.skeys := rfl
@[simp] theorem State.regs_modTxn (s : State) (a : Nat) (f : Txn → Txn) : (s.modTxn a f).regs = s.regs := rfl
@[simp] theorem State.cores_modTxn (s : State) (a : Nat) (f : Txn → Txn) : (s.modTxn a f).cores = s.cores := rfl
@[simp] theorem State.l1_modTxn (s : State) (a : Nat) (f : Txn → Txn) : (s.modTxn a f).l1 = s.l1 := rfl
@[simp] theorem State.devtime_modTxn (s : State) (a : Nat) (f : Txn → Txn) : (s.modTxn a f).devtime = s.devtime := rfl
@[simp] theorem State.busy_modTxn (s : State) (a : Nat) (f : Txn → Txn) : (s.modTxn a f).busy = s.busy := rfl
@[simp] theorem State.xlt_modTxn (s : State) (a : Nat) (f : Txn → Txn) : (s.modTxn a f).xlt = s.xlt := rfl
@[simp] theorem State.ldg_modTxn (s : State) (a : Nat) (f : Txn → Txn) : (s.modTxn a f).ldg = s.ldg := rfl
@[simp] theorem State.kol_modTxn (s : State) (a : Nat) (f : Txn → Txn) : (s.modTxn a f).kol = s.kol := rfl
@[simp] theorem State.jnl_modTxn (s : State) (a : Nat) (f : Txn → Txn) : (s.modTxn a f).jnl = s.jnl := rfl
@[simp] theorem State.cry_modTxn (s : State) (a : Nat) (f : Txn → Txn) : (s.modTxn a f).cry = s.cry := rfl
@[simp] theorem State.hif_modTxn (s : State) (a : Nat) (f : Txn → Txn) : (s.modTxn a f).hif = s.hif := rfl
@[simp] theorem State.net_modTxn (s : State) (a : Nat) (f : Txn → Txn) : (s.modTxn a f).net = s.net := rfl
@[simp] theorem State.err_modTxn (s : State) (a : Nat) (f : Txn → Txn) : (s.modTxn a f).err = s.err := rfl
@[simp] theorem State.sys_modTxn (s : State) (a : Nat) (f : Txn → Txn) : (s.modTxn a f).sys = s.sys := rfl
@[simp] theorem State.pwr_modTxn (s : State) (a : Nat) (f : Txn → Txn) : (s.modTxn a f).pwr = s.pwr := rfl
@[simp] theorem State.boot_modTxn (s : State) (a : Nat) (f : Txn → Txn) : (s.modTxn a f).boot = s.boot := rfl
@[simp] theorem State.adm_modTxn (s : State) (a : Nat) (f : Txn → Txn) : (s.modTxn a f).adm = s.adm := rfl
@[simp] theorem State.skey_modTxn (s : State) (a : Nat) (f : Txn → Txn) : (s.modTxn a f).skey = s.skey := rfl
@[simp] theorem State.mchks_modTxn (s : State) (a : Nat) (f : Txn → Txn) : (s.modTxn a f).mchks = s.mchks := rfl
@[simp] theorem State.out_modTxn (s : State) (a : Nat) (f : Txn → Txn) : (s.modTxn a f).out = s.out := rfl
@[simp] theorem State.freeCtr_modTxn (s : State) (a : Nat) (f : Txn → Txn) : (s.modTxn a f).freeCtr = s.freeCtr := rfl
@[simp] theorem State.pending_modTxn (s : State) (a : Nat) (f : Txn → Txn) : (s.modTxn a f).pending = s.pending := rfl

/-! ## State.dropTxn -/

@[simp] theorem State.mem_dropTxn (s : State) (a : Nat) : (s.dropTxn a).mem = s.mem := rfl
@[simp] theorem State.skeys_dropTxn (s : State) (a : Nat) : (s.dropTxn a).skeys = s.skeys := rfl
@[simp] theorem State.regs_dropTxn (s : State) (a : Nat) : (s.dropTxn a).regs = s.regs := rfl
@[simp] theorem State.cores_dropTxn (s : State) (a : Nat) : (s.dropTxn a).cores = s.cores := rfl
@[simp] theorem State.l1_dropTxn (s : State) (a : Nat) : (s.dropTxn a).l1 = s.l1 := rfl
@[simp] theorem State.devtime_dropTxn (s : State) (a : Nat) : (s.dropTxn a).devtime = s.devtime := rfl
@[simp] theorem State.busy_dropTxn (s : State) (a : Nat) : (s.dropTxn a).busy = s.busy := rfl
@[simp] theorem State.xlt_dropTxn (s : State) (a : Nat) : (s.dropTxn a).xlt = s.xlt := rfl
@[simp] theorem State.ldg_dropTxn (s : State) (a : Nat) : (s.dropTxn a).ldg = s.ldg := rfl
@[simp] theorem State.kol_dropTxn (s : State) (a : Nat) : (s.dropTxn a).kol = s.kol := rfl
@[simp] theorem State.jnl_dropTxn (s : State) (a : Nat) : (s.dropTxn a).jnl = s.jnl := rfl
@[simp] theorem State.cry_dropTxn (s : State) (a : Nat) : (s.dropTxn a).cry = s.cry := rfl
@[simp] theorem State.hif_dropTxn (s : State) (a : Nat) : (s.dropTxn a).hif = s.hif := rfl
@[simp] theorem State.net_dropTxn (s : State) (a : Nat) : (s.dropTxn a).net = s.net := rfl
@[simp] theorem State.err_dropTxn (s : State) (a : Nat) : (s.dropTxn a).err = s.err := rfl
@[simp] theorem State.sys_dropTxn (s : State) (a : Nat) : (s.dropTxn a).sys = s.sys := rfl
@[simp] theorem State.pwr_dropTxn (s : State) (a : Nat) : (s.dropTxn a).pwr = s.pwr := rfl
@[simp] theorem State.boot_dropTxn (s : State) (a : Nat) : (s.dropTxn a).boot = s.boot := rfl
@[simp] theorem State.adm_dropTxn (s : State) (a : Nat) : (s.dropTxn a).adm = s.adm := rfl
@[simp] theorem State.skey_dropTxn (s : State) (a : Nat) : (s.dropTxn a).skey = s.skey := rfl
@[simp] theorem State.mchks_dropTxn (s : State) (a : Nat) : (s.dropTxn a).mchks = s.mchks := rfl
@[simp] theorem State.out_dropTxn (s : State) (a : Nat) : (s.dropTxn a).out = s.out := rfl
@[simp] theorem State.freeCtr_dropTxn (s : State) (a : Nat) : (s.dropTxn a).freeCtr = s.freeCtr := rfl
@[simp] theorem State.pending_dropTxn (s : State) (a : Nat) : (s.dropTxn a).pending = s.pending := rfl

/-! ## State.modJob -/

@[simp] theorem State.mem_modJob (s : State) (a : Nat) (f : CJob → CJob) : (s.modJob a f).mem = s.mem := rfl
@[simp] theorem State.skeys_modJob (s : State) (a : Nat) (f : CJob → CJob) : (s.modJob a f).skeys = s.skeys := rfl
@[simp] theorem State.regs_modJob (s : State) (a : Nat) (f : CJob → CJob) : (s.modJob a f).regs = s.regs := rfl
@[simp] theorem State.cores_modJob (s : State) (a : Nat) (f : CJob → CJob) : (s.modJob a f).cores = s.cores := rfl
@[simp] theorem State.l1_modJob (s : State) (a : Nat) (f : CJob → CJob) : (s.modJob a f).l1 = s.l1 := rfl
@[simp] theorem State.devtime_modJob (s : State) (a : Nat) (f : CJob → CJob) : (s.modJob a f).devtime = s.devtime := rfl
@[simp] theorem State.txns_modJob (s : State) (a : Nat) (f : CJob → CJob) : (s.modJob a f).txns = s.txns := rfl
@[simp] theorem State.busy_modJob (s : State) (a : Nat) (f : CJob → CJob) : (s.modJob a f).busy = s.busy := rfl
@[simp] theorem State.xlt_modJob (s : State) (a : Nat) (f : CJob → CJob) : (s.modJob a f).xlt = s.xlt := rfl
@[simp] theorem State.ldg_modJob (s : State) (a : Nat) (f : CJob → CJob) : (s.modJob a f).ldg = s.ldg := rfl
@[simp] theorem State.kol_modJob (s : State) (a : Nat) (f : CJob → CJob) : (s.modJob a f).kol = s.kol := rfl
@[simp] theorem State.jnl_modJob (s : State) (a : Nat) (f : CJob → CJob) : (s.modJob a f).jnl = s.jnl := rfl
@[simp] theorem State.hif_modJob (s : State) (a : Nat) (f : CJob → CJob) : (s.modJob a f).hif = s.hif := rfl
@[simp] theorem State.net_modJob (s : State) (a : Nat) (f : CJob → CJob) : (s.modJob a f).net = s.net := rfl
@[simp] theorem State.err_modJob (s : State) (a : Nat) (f : CJob → CJob) : (s.modJob a f).err = s.err := rfl
@[simp] theorem State.sys_modJob (s : State) (a : Nat) (f : CJob → CJob) : (s.modJob a f).sys = s.sys := rfl
@[simp] theorem State.pwr_modJob (s : State) (a : Nat) (f : CJob → CJob) : (s.modJob a f).pwr = s.pwr := rfl
@[simp] theorem State.boot_modJob (s : State) (a : Nat) (f : CJob → CJob) : (s.modJob a f).boot = s.boot := rfl
@[simp] theorem State.adm_modJob (s : State) (a : Nat) (f : CJob → CJob) : (s.modJob a f).adm = s.adm := rfl
@[simp] theorem State.skey_modJob (s : State) (a : Nat) (f : CJob → CJob) : (s.modJob a f).skey = s.skey := rfl
@[simp] theorem State.mchks_modJob (s : State) (a : Nat) (f : CJob → CJob) : (s.modJob a f).mchks = s.mchks := rfl
@[simp] theorem State.out_modJob (s : State) (a : Nat) (f : CJob → CJob) : (s.modJob a f).out = s.out := rfl
@[simp] theorem State.freeCtr_modJob (s : State) (a : Nat) (f : CJob → CJob) : (s.modJob a f).freeCtr = s.freeCtr := rfl
@[simp] theorem State.pending_modJob (s : State) (a : Nat) (f : CJob → CJob) : (s.modJob a f).pending = s.pending := rfl

/-! ## State.dropJob -/

@[simp] theorem State.mem_dropJob (s : State) (a : Nat) : (s.dropJob a).mem = s.mem := rfl
@[simp] theorem State.skeys_dropJob (s : State) (a : Nat) : (s.dropJob a).skeys = s.skeys := rfl
@[simp] theorem State.regs_dropJob (s : State) (a : Nat) : (s.dropJob a).regs = s.regs := rfl
@[simp] theorem State.cores_dropJob (s : State) (a : Nat) : (s.dropJob a).cores = s.cores := rfl
@[simp] theorem State.l1_dropJob (s : State) (a : Nat) : (s.dropJob a).l1 = s.l1 := rfl
@[simp] theorem State.devtime_dropJob (s : State) (a : Nat) : (s.dropJob a).devtime = s.devtime := rfl
@[simp] theorem State.txns_dropJob (s : State) (a : Nat) : (s.dropJob a).txns = s.txns := rfl
@[simp] theorem State.busy_dropJob (s : State) (a : Nat) : (s.dropJob a).busy = s.busy := rfl
@[simp] theorem State.xlt_dropJob (s : State) (a : Nat) : (s.dropJob a).xlt = s.xlt := rfl
@[simp] theorem State.ldg_dropJob (s : State) (a : Nat) : (s.dropJob a).ldg = s.ldg := rfl
@[simp] theorem State.kol_dropJob (s : State) (a : Nat) : (s.dropJob a).kol = s.kol := rfl
@[simp] theorem State.jnl_dropJob (s : State) (a : Nat) : (s.dropJob a).jnl = s.jnl := rfl
@[simp] theorem State.hif_dropJob (s : State) (a : Nat) : (s.dropJob a).hif = s.hif := rfl
@[simp] theorem State.net_dropJob (s : State) (a : Nat) : (s.dropJob a).net = s.net := rfl
@[simp] theorem State.err_dropJob (s : State) (a : Nat) : (s.dropJob a).err = s.err := rfl
@[simp] theorem State.sys_dropJob (s : State) (a : Nat) : (s.dropJob a).sys = s.sys := rfl
@[simp] theorem State.pwr_dropJob (s : State) (a : Nat) : (s.dropJob a).pwr = s.pwr := rfl
@[simp] theorem State.boot_dropJob (s : State) (a : Nat) : (s.dropJob a).boot = s.boot := rfl
@[simp] theorem State.adm_dropJob (s : State) (a : Nat) : (s.dropJob a).adm = s.adm := rfl
@[simp] theorem State.skey_dropJob (s : State) (a : Nat) : (s.dropJob a).skey = s.skey := rfl
@[simp] theorem State.mchks_dropJob (s : State) (a : Nat) : (s.dropJob a).mchks = s.mchks := rfl
@[simp] theorem State.out_dropJob (s : State) (a : Nat) : (s.dropJob a).out = s.out := rfl
@[simp] theorem State.freeCtr_dropJob (s : State) (a : Nat) : (s.dropJob a).freeCtr = s.freeCtr := rfl
@[simp] theorem State.pending_dropJob (s : State) (a : Nat) : (s.dropJob a).pending = s.pending := rfl

/-! ## State.modPort -/

@[simp] theorem State.mem_modPort (s : State) (p : Fin 8) (f : KPort → KPort) : (s.modPort p f).mem = s.mem := rfl
@[simp] theorem State.skeys_modPort (s : State) (p : Fin 8) (f : KPort → KPort) : (s.modPort p f).skeys = s.skeys := rfl
@[simp] theorem State.regs_modPort (s : State) (p : Fin 8) (f : KPort → KPort) : (s.modPort p f).regs = s.regs := rfl
@[simp] theorem State.cores_modPort (s : State) (p : Fin 8) (f : KPort → KPort) : (s.modPort p f).cores = s.cores := rfl
@[simp] theorem State.l1_modPort (s : State) (p : Fin 8) (f : KPort → KPort) : (s.modPort p f).l1 = s.l1 := rfl
@[simp] theorem State.devtime_modPort (s : State) (p : Fin 8) (f : KPort → KPort) : (s.modPort p f).devtime = s.devtime := rfl
@[simp] theorem State.txns_modPort (s : State) (p : Fin 8) (f : KPort → KPort) : (s.modPort p f).txns = s.txns := rfl
@[simp] theorem State.busy_modPort (s : State) (p : Fin 8) (f : KPort → KPort) : (s.modPort p f).busy = s.busy := rfl
@[simp] theorem State.xlt_modPort (s : State) (p : Fin 8) (f : KPort → KPort) : (s.modPort p f).xlt = s.xlt := rfl
@[simp] theorem State.ldg_modPort (s : State) (p : Fin 8) (f : KPort → KPort) : (s.modPort p f).ldg = s.ldg := rfl
@[simp] theorem State.jnl_modPort (s : State) (p : Fin 8) (f : KPort → KPort) : (s.modPort p f).jnl = s.jnl := rfl
@[simp] theorem State.cry_modPort (s : State) (p : Fin 8) (f : KPort → KPort) : (s.modPort p f).cry = s.cry := rfl
@[simp] theorem State.hif_modPort (s : State) (p : Fin 8) (f : KPort → KPort) : (s.modPort p f).hif = s.hif := rfl
@[simp] theorem State.net_modPort (s : State) (p : Fin 8) (f : KPort → KPort) : (s.modPort p f).net = s.net := rfl
@[simp] theorem State.err_modPort (s : State) (p : Fin 8) (f : KPort → KPort) : (s.modPort p f).err = s.err := rfl
@[simp] theorem State.sys_modPort (s : State) (p : Fin 8) (f : KPort → KPort) : (s.modPort p f).sys = s.sys := rfl
@[simp] theorem State.pwr_modPort (s : State) (p : Fin 8) (f : KPort → KPort) : (s.modPort p f).pwr = s.pwr := rfl
@[simp] theorem State.boot_modPort (s : State) (p : Fin 8) (f : KPort → KPort) : (s.modPort p f).boot = s.boot := rfl
@[simp] theorem State.adm_modPort (s : State) (p : Fin 8) (f : KPort → KPort) : (s.modPort p f).adm = s.adm := rfl
@[simp] theorem State.skey_modPort (s : State) (p : Fin 8) (f : KPort → KPort) : (s.modPort p f).skey = s.skey := rfl
@[simp] theorem State.mchks_modPort (s : State) (p : Fin 8) (f : KPort → KPort) : (s.modPort p f).mchks = s.mchks := rfl
@[simp] theorem State.out_modPort (s : State) (p : Fin 8) (f : KPort → KPort) : (s.modPort p f).out = s.out := rfl
@[simp] theorem State.freeCtr_modPort (s : State) (p : Fin 8) (f : KPort → KPort) : (s.modPort p f).freeCtr = s.freeCtr := rfl
@[simp] theorem State.pending_modPort (s : State) (p : Fin 8) (f : KPort → KPort) : (s.modPort p f).pending = s.pending := rfl

/-! ## State.modRing -/

@[simp] theorem State.mem_modRing (s : State) (r : RingId) (f : Ring → Ring) : (s.modRing r f).mem = s.mem := rfl
@[simp] theorem State.skeys_modRing (s : State) (r : RingId) (f : Ring → Ring) : (s.modRing r f).skeys = s.skeys := rfl
@[simp] theorem State.regs_modRing (s : State) (r : RingId) (f : Ring → Ring) : (s.modRing r f).regs = s.regs := rfl
@[simp] theorem State.cores_modRing (s : State) (r : RingId) (f : Ring → Ring) : (s.modRing r f).cores = s.cores := rfl
@[simp] theorem State.l1_modRing (s : State) (r : RingId) (f : Ring → Ring) : (s.modRing r f).l1 = s.l1 := rfl
@[simp] theorem State.devtime_modRing (s : State) (r : RingId) (f : Ring → Ring) : (s.modRing r f).devtime = s.devtime := rfl
@[simp] theorem State.txns_modRing (s : State) (r : RingId) (f : Ring → Ring) : (s.modRing r f).txns = s.txns := rfl
@[simp] theorem State.busy_modRing (s : State) (r : RingId) (f : Ring → Ring) : (s.modRing r f).busy = s.busy := rfl
@[simp] theorem State.xlt_modRing (s : State) (r : RingId) (f : Ring → Ring) : (s.modRing r f).xlt = s.xlt := rfl
@[simp] theorem State.ldg_modRing (s : State) (r : RingId) (f : Ring → Ring) : (s.modRing r f).ldg = s.ldg := rfl
@[simp] theorem State.kol_modRing (s : State) (r : RingId) (f : Ring → Ring) : (s.modRing r f).kol = s.kol := rfl
@[simp] theorem State.jnl_modRing (s : State) (r : RingId) (f : Ring → Ring) : (s.modRing r f).jnl = s.jnl := rfl
@[simp] theorem State.cry_modRing (s : State) (r : RingId) (f : Ring → Ring) : (s.modRing r f).cry = s.cry := rfl
@[simp] theorem State.net_modRing (s : State) (r : RingId) (f : Ring → Ring) : (s.modRing r f).net = s.net := rfl
@[simp] theorem State.err_modRing (s : State) (r : RingId) (f : Ring → Ring) : (s.modRing r f).err = s.err := rfl
@[simp] theorem State.sys_modRing (s : State) (r : RingId) (f : Ring → Ring) : (s.modRing r f).sys = s.sys := rfl
@[simp] theorem State.pwr_modRing (s : State) (r : RingId) (f : Ring → Ring) : (s.modRing r f).pwr = s.pwr := rfl
@[simp] theorem State.boot_modRing (s : State) (r : RingId) (f : Ring → Ring) : (s.modRing r f).boot = s.boot := rfl
@[simp] theorem State.adm_modRing (s : State) (r : RingId) (f : Ring → Ring) : (s.modRing r f).adm = s.adm := rfl
@[simp] theorem State.skey_modRing (s : State) (r : RingId) (f : Ring → Ring) : (s.modRing r f).skey = s.skey := rfl
@[simp] theorem State.mchks_modRing (s : State) (r : RingId) (f : Ring → Ring) : (s.modRing r f).mchks = s.mchks := rfl
@[simp] theorem State.out_modRing (s : State) (r : RingId) (f : Ring → Ring) : (s.modRing r f).out = s.out := rfl
@[simp] theorem State.freeCtr_modRing (s : State) (r : RingId) (f : Ring → Ring) : (s.modRing r f).freeCtr = s.freeCtr := rfl
@[simp] theorem State.pending_modRing (s : State) (r : RingId) (f : Ring → Ring) : (s.modRing r f).pending = s.pending := rfl

/-! ## State.modIsl -/

@[simp] theorem State.mem_modIsl (s : State) (i : Fin 44) (f : IslPwr → IslPwr) : (s.modIsl i f).mem = s.mem := rfl
@[simp] theorem State.skeys_modIsl (s : State) (i : Fin 44) (f : IslPwr → IslPwr) : (s.modIsl i f).skeys = s.skeys := rfl
@[simp] theorem State.regs_modIsl (s : State) (i : Fin 44) (f : IslPwr → IslPwr) : (s.modIsl i f).regs = s.regs := rfl
@[simp] theorem State.cores_modIsl (s : State) (i : Fin 44) (f : IslPwr → IslPwr) : (s.modIsl i f).cores = s.cores := rfl
@[simp] theorem State.l1_modIsl (s : State) (i : Fin 44) (f : IslPwr → IslPwr) : (s.modIsl i f).l1 = s.l1 := rfl
@[simp] theorem State.devtime_modIsl (s : State) (i : Fin 44) (f : IslPwr → IslPwr) : (s.modIsl i f).devtime = s.devtime := rfl
@[simp] theorem State.txns_modIsl (s : State) (i : Fin 44) (f : IslPwr → IslPwr) : (s.modIsl i f).txns = s.txns := rfl
@[simp] theorem State.busy_modIsl (s : State) (i : Fin 44) (f : IslPwr → IslPwr) : (s.modIsl i f).busy = s.busy := rfl
@[simp] theorem State.xlt_modIsl (s : State) (i : Fin 44) (f : IslPwr → IslPwr) : (s.modIsl i f).xlt = s.xlt := rfl
@[simp] theorem State.ldg_modIsl (s : State) (i : Fin 44) (f : IslPwr → IslPwr) : (s.modIsl i f).ldg = s.ldg := rfl
@[simp] theorem State.kol_modIsl (s : State) (i : Fin 44) (f : IslPwr → IslPwr) : (s.modIsl i f).kol = s.kol := rfl
@[simp] theorem State.jnl_modIsl (s : State) (i : Fin 44) (f : IslPwr → IslPwr) : (s.modIsl i f).jnl = s.jnl := rfl
@[simp] theorem State.cry_modIsl (s : State) (i : Fin 44) (f : IslPwr → IslPwr) : (s.modIsl i f).cry = s.cry := rfl
@[simp] theorem State.hif_modIsl (s : State) (i : Fin 44) (f : IslPwr → IslPwr) : (s.modIsl i f).hif = s.hif := rfl
@[simp] theorem State.net_modIsl (s : State) (i : Fin 44) (f : IslPwr → IslPwr) : (s.modIsl i f).net = s.net := rfl
@[simp] theorem State.err_modIsl (s : State) (i : Fin 44) (f : IslPwr → IslPwr) : (s.modIsl i f).err = s.err := rfl
@[simp] theorem State.sys_modIsl (s : State) (i : Fin 44) (f : IslPwr → IslPwr) : (s.modIsl i f).sys = s.sys := rfl
@[simp] theorem State.boot_modIsl (s : State) (i : Fin 44) (f : IslPwr → IslPwr) : (s.modIsl i f).boot = s.boot := rfl
@[simp] theorem State.adm_modIsl (s : State) (i : Fin 44) (f : IslPwr → IslPwr) : (s.modIsl i f).adm = s.adm := rfl
@[simp] theorem State.skey_modIsl (s : State) (i : Fin 44) (f : IslPwr → IslPwr) : (s.modIsl i f).skey = s.skey := rfl
@[simp] theorem State.mchks_modIsl (s : State) (i : Fin 44) (f : IslPwr → IslPwr) : (s.modIsl i f).mchks = s.mchks := rfl
@[simp] theorem State.out_modIsl (s : State) (i : Fin 44) (f : IslPwr → IslPwr) : (s.modIsl i f).out = s.out := rfl
@[simp] theorem State.freeCtr_modIsl (s : State) (i : Fin 44) (f : IslPwr → IslPwr) : (s.modIsl i f).freeCtr = s.freeCtr := rfl
@[simp] theorem State.pending_modIsl (s : State) (i : Fin 44) (f : IslPwr → IslPwr) : (s.modIsl i f).pending = s.pending := rfl

/-! ## State.evtRaise, State.evt, State.setF and State.report -/

/-- `t` differs from `s` at most in the setup registers, the error collector, the MSI-X vectors and what has left the
pins. -/
def Quiet (s t : State) : Prop :=
  t = { s with regs := t.regs, out := t.out, err := t.err, hif := { s.hif with msix := t.hif.msix } }

theorem Quiet.refl (s : State) : Quiet s s := rfl

theorem Quiet.upd {s t : State} (h : Quiet s t) (r : List (Nat × BitVec 64)) (e : Err) (o : List Emit) :
    Quiet s { t with regs := r, err := e, out := o } := by
  unfold Quiet at h ⊢; rw [h]

theorem Quiet.updMsix {s t : State} (h : Quiet s t) (v : Vector MsixVec 64) :
    Quiet s { t with hif := { t.hif with msix := v } } := by
  unfold Quiet at h ⊢; rw [h]

theorem Quiet.trans {s t u : State} (h1 : Quiet s t) (h2 : Quiet t u) : Quiet s u := by
  unfold Quiet at h1 h2 ⊢; rw [h2, h1]

theorem Quiet.ite {s a b : State} {c : Prop} [Decidable c] (h1 : Quiet s a) (h2 : Quiet s b) :
    Quiet s (if c then a else b) := by
  by_cases h : c
  · rw [if_pos h]; exact h1
  · rw [if_neg h]; exact h2

theorem Quiet.setReg {s t : State} (h : Quiet s t) (a v : Nat) : Quiet s (t.setReg a v) := h.upd _ t.err t.out
theorem Quiet.bump {s t : State} (h : Quiet s t) (a n : Nat) : Quiet s (t.bump a n) := h.setReg _ _
theorem Quiet.msix {s t : State} (h : Quiet s t) (v : Nat) : Quiet s (t.msix v) :=
  Quiet.ite (h.updMsix _) (h.upd t.regs t.err _)
theorem Quiet.evtRaise {s t : State} (h : Quiet s t) (k : Nat) : Quiet s (t.evtRaise k) := Quiet.ite (h.msix _) h
theorem Quiet.evt {s t : State} (h : Quiet s t) (k : Nat) : Quiet s (t.evt k) := (h.setReg _ _).evtRaise _

theorem Quiet.setF {s t : State} (h : Quiet s t) (f : FieldRef) (v : Nat) : Quiet s (t.setF f v) := by
  unfold State.setF
  generalize eventOf f (t.getF f) (v % 2 ^ f.width) = e
  cases e with
  | none => exact h.setReg _ _
  | some k => exact (h.setReg _ _).evt k

theorem Quiet.countOutstanding {s t : State} (h : Quiet s t) : Quiet s t.countOutstanding := h.setF _ _

theorem Quiet.noteFault {s t : State} (h : Quiet s t) (r : ErrReport) : Quiet s (noteFault t r) := by
  unfold Machine.noteFault
  refine Quiet.ite ?_ h
  refine Quiet.upd (Quiet.bump ?_ _ _) _ _ _
  exact Quiet.ite ((h.setF _ _).bump _ _) h

theorem Quiet.writeEntry {s t : State} (h : Quiet s t) (r : ErrReport) (b : Bool) : Quiet s (writeEntry t r b) := by
  unfold Machine.writeEntry
  refine Quiet.ite (Quiet.upd ((h.bump _ _).setF _ _) _ _ _) ?_
  have h1 : ∀ a b c d e f g i, Quiet s ((((t.setReg a b).setReg c d).setReg e f).setReg g i) :=
    fun a b c d e f g i => (((h.setReg a b).setReg c d).setReg e f).setReg g i
  exact Quiet.ite (((Quiet.upd (h1 ..) _ _ _).setF _ _).msix _) ((Quiet.upd (h1 ..) _ _ _).setF _ _)

theorem Quiet.report {s t : State} (h : Quiet s t) (r : ErrReport) : Quiet s (t.report r) := by
  unfold State.report
  refine Quiet.ite ?_ ((h.noteFault r).writeEntry r _)
  exact Quiet.ite (h.bump _ _) ((Quiet.upd (h.bump _ _) _ _ _).writeEntry r false)

theorem Quiet.mem {s t : State} (h : Quiet s t) : t.mem = s.mem := by unfold Quiet at h; rw [h]
theorem Quiet.skeys {s t : State} (h : Quiet s t) : t.skeys = s.skeys := by unfold Quiet at h; rw [h]
theorem Quiet.cores {s t : State} (h : Quiet s t) : t.cores = s.cores := by unfold Quiet at h; rw [h]
theorem Quiet.l1 {s t : State} (h : Quiet s t) : t.l1 = s.l1 := by unfold Quiet at h; rw [h]
theorem Quiet.devtime {s t : State} (h : Quiet s t) : t.devtime = s.devtime := by unfold Quiet at h; rw [h]
theorem Quiet.txns {s t : State} (h : Quiet s t) : t.txns = s.txns := by unfold Quiet at h; rw [h]
theorem Quiet.busy {s t : State} (h : Quiet s t) : t.busy = s.busy := by unfold Quiet at h; rw [h]
theorem Quiet.xlt {s t : State} (h : Quiet s t) : t.xlt = s.xlt := by unfold Quiet at h; rw [h]
theorem Quiet.ldg {s t : State} (h : Quiet s t) : t.ldg = s.ldg := by unfold Quiet at h; rw [h]
theorem Quiet.kol {s t : State} (h : Quiet s t) : t.kol = s.kol := by unfold Quiet at h; rw [h]
theorem Quiet.jnl {s t : State} (h : Quiet s t) : t.jnl = s.jnl := by unfold Quiet at h; rw [h]
theorem Quiet.cry {s t : State} (h : Quiet s t) : t.cry = s.cry := by unfold Quiet at h; rw [h]
theorem Quiet.net {s t : State} (h : Quiet s t) : t.net = s.net := by unfold Quiet at h; rw [h]
theorem Quiet.sys {s t : State} (h : Quiet s t) : t.sys = s.sys := by unfold Quiet at h; rw [h]
theorem Quiet.pwr {s t : State} (h : Quiet s t) : t.pwr = s.pwr := by unfold Quiet at h; rw [h]
theorem Quiet.boot {s t : State} (h : Quiet s t) : t.boot = s.boot := by unfold Quiet at h; rw [h]
theorem Quiet.adm {s t : State} (h : Quiet s t) : t.adm = s.adm := by unfold Quiet at h; rw [h]
theorem Quiet.skey {s t : State} (h : Quiet s t) : t.skey = s.skey := by unfold Quiet at h; rw [h]
theorem Quiet.mchks {s t : State} (h : Quiet s t) : t.mchks = s.mchks := by unfold Quiet at h; rw [h]
theorem Quiet.freeCtr {s t : State} (h : Quiet s t) : t.freeCtr = s.freeCtr := by unfold Quiet at h; rw [h]
theorem Quiet.pending {s t : State} (h : Quiet s t) : t.pending = s.pending := by unfold Quiet at h; rw [h]

theorem Quiet.hif {s t : State} (h : Quiet s t) : t.hif = { s.hif with msix := t.hif.msix } := by
  unfold Quiet at h; rw [h]

@[simp] theorem State.mem_msix (s : State) (v : Nat) : (s.msix v).mem = s.mem := ((Quiet.refl s).msix v).mem
@[simp] theorem State.skeys_msix (s : State) (v : Nat) : (s.msix v).skeys = s.skeys := ((Quiet.refl s).msix v).skeys
@[simp] theorem State.cores_msix (s : State) (v : Nat) : (s.msix v).cores = s.cores := ((Quiet.refl s).msix v).cores
@[simp] theorem State.l1_msix (s : State) (v : Nat) : (s.msix v).l1 = s.l1 := ((Quiet.refl s).msix v).l1
@[simp] theorem State.devtime_msix (s : State) (v : Nat) : (s.msix v).devtime = s.devtime := ((Quiet.refl s).msix v).devtime
@[simp] theorem State.txns_msix (s : State) (v : Nat) : (s.msix v).txns = s.txns := ((Quiet.refl s).msix v).txns
@[simp] theorem State.busy_msix (s : State) (v : Nat) : (s.msix v).busy = s.busy := ((Quiet.refl s).msix v).busy
@[simp] theorem State.xlt_msix (s : State) (v : Nat) : (s.msix v).xlt = s.xlt := ((Quiet.refl s).msix v).xlt
@[simp] theorem State.ldg_msix (s : State) (v : Nat) : (s.msix v).ldg = s.ldg := ((Quiet.refl s).msix v).ldg
@[simp] theorem State.kol_msix (s : State) (v : Nat) : (s.msix v).kol = s.kol := ((Quiet.refl s).msix v).kol
@[simp] theorem State.jnl_msix (s : State) (v : Nat) : (s.msix v).jnl = s.jnl := ((Quiet.refl s).msix v).jnl
@[simp] theorem State.cry_msix (s : State) (v : Nat) : (s.msix v).cry = s.cry := ((Quiet.refl s).msix v).cry
@[simp] theorem State.net_msix (s : State) (v : Nat) : (s.msix v).net = s.net := ((Quiet.refl s).msix v).net
@[simp] theorem State.sys_msix (s : State) (v : Nat) : (s.msix v).sys = s.sys := ((Quiet.refl s).msix v).sys
@[simp] theorem State.pwr_msix (s : State) (v : Nat) : (s.msix v).pwr = s.pwr := ((Quiet.refl s).msix v).pwr
@[simp] theorem State.boot_msix (s : State) (v : Nat) : (s.msix v).boot = s.boot := ((Quiet.refl s).msix v).boot
@[simp] theorem State.adm_msix (s : State) (v : Nat) : (s.msix v).adm = s.adm := ((Quiet.refl s).msix v).adm
@[simp] theorem State.skey_msix (s : State) (v : Nat) : (s.msix v).skey = s.skey := ((Quiet.refl s).msix v).skey
@[simp] theorem State.mchks_msix (s : State) (v : Nat) : (s.msix v).mchks = s.mchks := ((Quiet.refl s).msix v).mchks
@[simp] theorem State.freeCtr_msix (s : State) (v : Nat) : (s.msix v).freeCtr = s.freeCtr := ((Quiet.refl s).msix v).freeCtr
@[simp] theorem State.pending_msix (s : State) (v : Nat) : (s.msix v).pending = s.pending := ((Quiet.refl s).msix v).pending

@[simp] theorem State.mem_evtRaise (s : State) (k : Nat) : (s.evtRaise k).mem = s.mem := ((Quiet.refl s).evtRaise k).mem
@[simp] theorem State.skeys_evtRaise (s : State) (k : Nat) : (s.evtRaise k).skeys = s.skeys := ((Quiet.refl s).evtRaise k).skeys
@[simp] theorem State.cores_evtRaise (s : State) (k : Nat) : (s.evtRaise k).cores = s.cores := ((Quiet.refl s).evtRaise k).cores
@[simp] theorem State.l1_evtRaise (s : State) (k : Nat) : (s.evtRaise k).l1 = s.l1 := ((Quiet.refl s).evtRaise k).l1
@[simp] theorem State.devtime_evtRaise (s : State) (k : Nat) : (s.evtRaise k).devtime = s.devtime := ((Quiet.refl s).evtRaise k).devtime
@[simp] theorem State.txns_evtRaise (s : State) (k : Nat) : (s.evtRaise k).txns = s.txns := ((Quiet.refl s).evtRaise k).txns
@[simp] theorem State.busy_evtRaise (s : State) (k : Nat) : (s.evtRaise k).busy = s.busy := ((Quiet.refl s).evtRaise k).busy
@[simp] theorem State.xlt_evtRaise (s : State) (k : Nat) : (s.evtRaise k).xlt = s.xlt := ((Quiet.refl s).evtRaise k).xlt
@[simp] theorem State.ldg_evtRaise (s : State) (k : Nat) : (s.evtRaise k).ldg = s.ldg := ((Quiet.refl s).evtRaise k).ldg
@[simp] theorem State.kol_evtRaise (s : State) (k : Nat) : (s.evtRaise k).kol = s.kol := ((Quiet.refl s).evtRaise k).kol
@[simp] theorem State.jnl_evtRaise (s : State) (k : Nat) : (s.evtRaise k).jnl = s.jnl := ((Quiet.refl s).evtRaise k).jnl
@[simp] theorem State.cry_evtRaise (s : State) (k : Nat) : (s.evtRaise k).cry = s.cry := ((Quiet.refl s).evtRaise k).cry
@[simp] theorem State.net_evtRaise (s : State) (k : Nat) : (s.evtRaise k).net = s.net := ((Quiet.refl s).evtRaise k).net
@[simp] theorem State.sys_evtRaise (s : State) (k : Nat) : (s.evtRaise k).sys = s.sys := ((Quiet.refl s).evtRaise k).sys
@[simp] theorem State.pwr_evtRaise (s : State) (k : Nat) : (s.evtRaise k).pwr = s.pwr := ((Quiet.refl s).evtRaise k).pwr
@[simp] theorem State.boot_evtRaise (s : State) (k : Nat) : (s.evtRaise k).boot = s.boot := ((Quiet.refl s).evtRaise k).boot
@[simp] theorem State.adm_evtRaise (s : State) (k : Nat) : (s.evtRaise k).adm = s.adm := ((Quiet.refl s).evtRaise k).adm
@[simp] theorem State.skey_evtRaise (s : State) (k : Nat) : (s.evtRaise k).skey = s.skey := ((Quiet.refl s).evtRaise k).skey
@[simp] theorem State.mchks_evtRaise (s : State) (k : Nat) : (s.evtRaise k).mchks = s.mchks := ((Quiet.refl s).evtRaise k).mchks
@[simp] theorem State.freeCtr_evtRaise (s : State) (k : Nat) : (s.evtRaise k).freeCtr = s.freeCtr := ((Quiet.refl s).evtRaise k).freeCtr
@[simp] theorem State.pending_evtRaise (s : State) (k : Nat) : (s.evtRaise k).pending = s.pending := ((Quiet.refl s).evtRaise k).pending

@[simp] theorem State.mem_evt (s : State) (k : Nat) : (s.evt k).mem = s.mem := ((Quiet.refl s).evt k).mem
@[simp] theorem State.skeys_evt (s : State) (k : Nat) : (s.evt k).skeys = s.skeys := ((Quiet.refl s).evt k).skeys
@[simp] theorem State.cores_evt (s : State) (k : Nat) : (s.evt k).cores = s.cores := ((Quiet.refl s).evt k).cores
@[simp] theorem State.l1_evt (s : State) (k : Nat) : (s.evt k).l1 = s.l1 := ((Quiet.refl s).evt k).l1
@[simp] theorem State.devtime_evt (s : State) (k : Nat) : (s.evt k).devtime = s.devtime := ((Quiet.refl s).evt k).devtime
@[simp] theorem State.txns_evt (s : State) (k : Nat) : (s.evt k).txns = s.txns := ((Quiet.refl s).evt k).txns
@[simp] theorem State.busy_evt (s : State) (k : Nat) : (s.evt k).busy = s.busy := ((Quiet.refl s).evt k).busy
@[simp] theorem State.xlt_evt (s : State) (k : Nat) : (s.evt k).xlt = s.xlt := ((Quiet.refl s).evt k).xlt
@[simp] theorem State.ldg_evt (s : State) (k : Nat) : (s.evt k).ldg = s.ldg := ((Quiet.refl s).evt k).ldg
@[simp] theorem State.kol_evt (s : State) (k : Nat) : (s.evt k).kol = s.kol := ((Quiet.refl s).evt k).kol
@[simp] theorem State.jnl_evt (s : State) (k : Nat) : (s.evt k).jnl = s.jnl := ((Quiet.refl s).evt k).jnl
@[simp] theorem State.cry_evt (s : State) (k : Nat) : (s.evt k).cry = s.cry := ((Quiet.refl s).evt k).cry
@[simp] theorem State.net_evt (s : State) (k : Nat) : (s.evt k).net = s.net := ((Quiet.refl s).evt k).net
@[simp] theorem State.sys_evt (s : State) (k : Nat) : (s.evt k).sys = s.sys := ((Quiet.refl s).evt k).sys
@[simp] theorem State.pwr_evt (s : State) (k : Nat) : (s.evt k).pwr = s.pwr := ((Quiet.refl s).evt k).pwr
@[simp] theorem State.boot_evt (s : State) (k : Nat) : (s.evt k).boot = s.boot := ((Quiet.refl s).evt k).boot
@[simp] theorem State.adm_evt (s : State) (k : Nat) : (s.evt k).adm = s.adm := ((Quiet.refl s).evt k).adm
@[simp] theorem State.skey_evt (s : State) (k : Nat) : (s.evt k).skey = s.skey := ((Quiet.refl s).evt k).skey
@[simp] theorem State.mchks_evt (s : State) (k : Nat) : (s.evt k).mchks = s.mchks := ((Quiet.refl s).evt k).mchks
@[simp] theorem State.freeCtr_evt (s : State) (k : Nat) : (s.evt k).freeCtr = s.freeCtr := ((Quiet.refl s).evt k).freeCtr
@[simp] theorem State.pending_evt (s : State) (k : Nat) : (s.evt k).pending = s.pending := ((Quiet.refl s).evt k).pending

@[simp] theorem State.mem_setF (s : State) (g : FieldRef) (v : Nat) : (s.setF g v).mem = s.mem := ((Quiet.refl s).setF g v).mem
@[simp] theorem State.skeys_setF (s : State) (g : FieldRef) (v : Nat) : (s.setF g v).skeys = s.skeys := ((Quiet.refl s).setF g v).skeys
@[simp] theorem State.cores_setF (s : State) (g : FieldRef) (v : Nat) : (s.setF g v).cores = s.cores := ((Quiet.refl s).setF g v).cores
@[simp] theorem State.l1_setF (s : State) (g : FieldRef) (v : Nat) : (s.setF g v).l1 = s.l1 := ((Quiet.refl s).setF g v).l1
@[simp] theorem State.devtime_setF (s : State) (g : FieldRef) (v : Nat) : (s.setF g v).devtime = s.devtime := ((Quiet.refl s).setF g v).devtime
@[simp] theorem State.txns_setF (s : State) (g : FieldRef) (v : Nat) : (s.setF g v).txns = s.txns := ((Quiet.refl s).setF g v).txns
@[simp] theorem State.busy_setF (s : State) (g : FieldRef) (v : Nat) : (s.setF g v).busy = s.busy := ((Quiet.refl s).setF g v).busy
@[simp] theorem State.xlt_setF (s : State) (g : FieldRef) (v : Nat) : (s.setF g v).xlt = s.xlt := ((Quiet.refl s).setF g v).xlt
@[simp] theorem State.ldg_setF (s : State) (g : FieldRef) (v : Nat) : (s.setF g v).ldg = s.ldg := ((Quiet.refl s).setF g v).ldg
@[simp] theorem State.kol_setF (s : State) (g : FieldRef) (v : Nat) : (s.setF g v).kol = s.kol := ((Quiet.refl s).setF g v).kol
@[simp] theorem State.jnl_setF (s : State) (g : FieldRef) (v : Nat) : (s.setF g v).jnl = s.jnl := ((Quiet.refl s).setF g v).jnl
@[simp] theorem State.cry_setF (s : State) (g : FieldRef) (v : Nat) : (s.setF g v).cry = s.cry := ((Quiet.refl s).setF g v).cry
@[simp] theorem State.net_setF (s : State) (g : FieldRef) (v : Nat) : (s.setF g v).net = s.net := ((Quiet.refl s).setF g v).net
@[simp] theorem State.sys_setF (s : State) (g : FieldRef) (v : Nat) : (s.setF g v).sys = s.sys := ((Quiet.refl s).setF g v).sys
@[simp] theorem State.pwr_setF (s : State) (g : FieldRef) (v : Nat) : (s.setF g v).pwr = s.pwr := ((Quiet.refl s).setF g v).pwr
@[simp] theorem State.boot_setF (s : State) (g : FieldRef) (v : Nat) : (s.setF g v).boot = s.boot := ((Quiet.refl s).setF g v).boot
@[simp] theorem State.adm_setF (s : State) (g : FieldRef) (v : Nat) : (s.setF g v).adm = s.adm := ((Quiet.refl s).setF g v).adm
@[simp] theorem State.skey_setF (s : State) (g : FieldRef) (v : Nat) : (s.setF g v).skey = s.skey := ((Quiet.refl s).setF g v).skey
@[simp] theorem State.mchks_setF (s : State) (g : FieldRef) (v : Nat) : (s.setF g v).mchks = s.mchks := ((Quiet.refl s).setF g v).mchks
@[simp] theorem State.freeCtr_setF (s : State) (g : FieldRef) (v : Nat) : (s.setF g v).freeCtr = s.freeCtr := ((Quiet.refl s).setF g v).freeCtr
@[simp] theorem State.pending_setF (s : State) (g : FieldRef) (v : Nat) : (s.setF g v).pending = s.pending := ((Quiet.refl s).setF g v).pending

@[simp] theorem State.mem_countOutstanding (s : State) : (s.countOutstanding).mem = s.mem := ((Quiet.refl s).countOutstanding).mem
@[simp] theorem State.skeys_countOutstanding (s : State) : (s.countOutstanding).skeys = s.skeys := ((Quiet.refl s).countOutstanding).skeys
@[simp] theorem State.cores_countOutstanding (s : State) : (s.countOutstanding).cores = s.cores := ((Quiet.refl s).countOutstanding).cores
@[simp] theorem State.l1_countOutstanding (s : State) : (s.countOutstanding).l1 = s.l1 := ((Quiet.refl s).countOutstanding).l1
@[simp] theorem State.devtime_countOutstanding (s : State) : (s.countOutstanding).devtime = s.devtime := ((Quiet.refl s).countOutstanding).devtime
@[simp] theorem State.txns_countOutstanding (s : State) : (s.countOutstanding).txns = s.txns := ((Quiet.refl s).countOutstanding).txns
@[simp] theorem State.busy_countOutstanding (s : State) : (s.countOutstanding).busy = s.busy := ((Quiet.refl s).countOutstanding).busy
@[simp] theorem State.xlt_countOutstanding (s : State) : (s.countOutstanding).xlt = s.xlt := ((Quiet.refl s).countOutstanding).xlt
@[simp] theorem State.ldg_countOutstanding (s : State) : (s.countOutstanding).ldg = s.ldg := ((Quiet.refl s).countOutstanding).ldg
@[simp] theorem State.kol_countOutstanding (s : State) : (s.countOutstanding).kol = s.kol := ((Quiet.refl s).countOutstanding).kol
@[simp] theorem State.jnl_countOutstanding (s : State) : (s.countOutstanding).jnl = s.jnl := ((Quiet.refl s).countOutstanding).jnl
@[simp] theorem State.cry_countOutstanding (s : State) : (s.countOutstanding).cry = s.cry := ((Quiet.refl s).countOutstanding).cry
@[simp] theorem State.net_countOutstanding (s : State) : (s.countOutstanding).net = s.net := ((Quiet.refl s).countOutstanding).net
@[simp] theorem State.sys_countOutstanding (s : State) : (s.countOutstanding).sys = s.sys := ((Quiet.refl s).countOutstanding).sys
@[simp] theorem State.pwr_countOutstanding (s : State) : (s.countOutstanding).pwr = s.pwr := ((Quiet.refl s).countOutstanding).pwr
@[simp] theorem State.boot_countOutstanding (s : State) : (s.countOutstanding).boot = s.boot := ((Quiet.refl s).countOutstanding).boot
@[simp] theorem State.adm_countOutstanding (s : State) : (s.countOutstanding).adm = s.adm := ((Quiet.refl s).countOutstanding).adm
@[simp] theorem State.skey_countOutstanding (s : State) : (s.countOutstanding).skey = s.skey := ((Quiet.refl s).countOutstanding).skey
@[simp] theorem State.mchks_countOutstanding (s : State) : (s.countOutstanding).mchks = s.mchks := ((Quiet.refl s).countOutstanding).mchks
@[simp] theorem State.freeCtr_countOutstanding (s : State) : (s.countOutstanding).freeCtr = s.freeCtr := ((Quiet.refl s).countOutstanding).freeCtr
@[simp] theorem State.pending_countOutstanding (s : State) : (s.countOutstanding).pending = s.pending := ((Quiet.refl s).countOutstanding).pending

@[simp] theorem State.mem_report (s : State) (r : ErrReport) : (s.report r).mem = s.mem := ((Quiet.refl s).report r).mem
@[simp] theorem State.skeys_report (s : State) (r : ErrReport) : (s.report r).skeys = s.skeys := ((Quiet.refl s).report r).skeys
@[simp] theorem State.cores_report (s : State) (r : ErrReport) : (s.report r).cores = s.cores := ((Quiet.refl s).report r).cores
@[simp] theorem State.l1_report (s : State) (r : ErrReport) : (s.report r).l1 = s.l1 := ((Quiet.refl s).report r).l1
@[simp] theorem State.devtime_report (s : State) (r : ErrReport) : (s.report r).devtime = s.devtime := ((Quiet.refl s).report r).devtime
@[simp] theorem State.txns_report (s : State) (r : ErrReport) : (s.report r).txns = s.txns := ((Quiet.refl s).report r).txns
@[simp] theorem State.busy_report (s : State) (r : ErrReport) : (s.report r).busy = s.busy := ((Quiet.refl s).report r).busy
@[simp] theorem State.xlt_report (s : State) (r : ErrReport) : (s.report r).xlt = s.xlt := ((Quiet.refl s).report r).xlt
@[simp] theorem State.ldg_report (s : State) (r : ErrReport) : (s.report r).ldg = s.ldg := ((Quiet.refl s).report r).ldg
@[simp] theorem State.kol_report (s : State) (r : ErrReport) : (s.report r).kol = s.kol := ((Quiet.refl s).report r).kol
@[simp] theorem State.jnl_report (s : State) (r : ErrReport) : (s.report r).jnl = s.jnl := ((Quiet.refl s).report r).jnl
@[simp] theorem State.cry_report (s : State) (r : ErrReport) : (s.report r).cry = s.cry := ((Quiet.refl s).report r).cry
@[simp] theorem State.net_report (s : State) (r : ErrReport) : (s.report r).net = s.net := ((Quiet.refl s).report r).net
@[simp] theorem State.sys_report (s : State) (r : ErrReport) : (s.report r).sys = s.sys := ((Quiet.refl s).report r).sys
@[simp] theorem State.pwr_report (s : State) (r : ErrReport) : (s.report r).pwr = s.pwr := ((Quiet.refl s).report r).pwr
@[simp] theorem State.boot_report (s : State) (r : ErrReport) : (s.report r).boot = s.boot := ((Quiet.refl s).report r).boot
@[simp] theorem State.adm_report (s : State) (r : ErrReport) : (s.report r).adm = s.adm := ((Quiet.refl s).report r).adm
@[simp] theorem State.skey_report (s : State) (r : ErrReport) : (s.report r).skey = s.skey := ((Quiet.refl s).report r).skey
@[simp] theorem State.mchks_report (s : State) (r : ErrReport) : (s.report r).mchks = s.mchks := ((Quiet.refl s).report r).mchks
@[simp] theorem State.freeCtr_report (s : State) (r : ErrReport) : (s.report r).freeCtr = s.freeCtr := ((Quiet.refl s).report r).freeCtr
@[simp] theorem State.pending_report (s : State) (r : ErrReport) : (s.report r).pending = s.pending := ((Quiet.refl s).report r).pending

@[simp] theorem State.regs_msix (s : State) (v : Nat) : (s.msix v).regs = s.regs := by unfold State.msix; dsimp only; split <;> rfl
@[simp] theorem State.err_msix (s : State) (v : Nat) : (s.msix v).err = s.err := by unfold State.msix; dsimp only; split <;> rfl

@[simp] theorem State.err_setF (s : State) (g : FieldRef) (v : Nat) : (s.setF g v).err = s.err := by
  unfold State.setF
  generalize eventOf g (s.getF g) (v % 2 ^ g.width) = e
  cases e with
  | none => rfl
  | some k =>
    show ((s.setReg _ _).evt k).err = _
    unfold State.evt State.evtRaise
    rw [apply_ite State.err]
    simp

/-! ## Reads after writes -/

@[simp] theorem State.core_setCore_self (s : State) (c : CoreId) (k : Core) : (s.setCore c k).core c = k := by
  unfold State.core State.setCore; simp

theorem State.core_setCore_ne (s : State) (c d : CoreId) (k : Core) (h : d ≠ c) : (s.setCore c k).core d = s.core d := by
  unfold State.core State.setCore
  have h' : c.val ≠ d.val := fun e => h (Fin.ext e.symm)
  simp [h']

@[simp] theorem State.core_modCore_self (s : State) (c : CoreId) (f : Core → Core) :
    (s.modCore c f).core c = f (s.core c) := State.core_setCore_self ..

theorem State.core_modCore_ne (s : State) (c d : CoreId) (f : Core → Core) (h : d ≠ c) :
    (s.modCore c f).core d = s.core d := State.core_setCore_ne _ _ _ _ h

@[simp] theorem Core.bank_setBank_self (k : Core) (b : BankId) (v : Bank) : (k.setBank b v).bank b = v := by
  unfold Core.bank Core.setBank; simp

theorem Core.bank_setBank_ne (k : Core) (b d : BankId) (v : Bank) (h : d ≠ b) : (k.setBank b v).bank d = k.bank d := by
  unfold Core.bank Core.setBank
  have h' : b.val ≠ d.val := fun e => h (Fin.ext e.symm)
  simp [h']

@[simp] theorem Core.bank_modBank_self (k : Core) (b : BankId) (f : Bank → Bank) :
    (k.modBank b f).bank b = f (k.bank b) := Core.bank_setBank_self ..

theorem Core.bank_modBank_ne (k : Core) (b d : BankId) (f : Bank → Bank) (h : d ≠ b) :
    (k.modBank b f).bank d = k.bank d := Core.bank_setBank_ne _ _ _ _ h

@[simp] theorem State.bank_modBank_self (s : State) (c : CoreId) (b : BankId) (f : Bank → Bank) :
    (s.modBank c b f).bank c b = f (s.bank c b) := by
  unfold State.bank State.modBank; simp

/-- The state of a core depends on the cores alone. -/
theorem State.core_congr {s t : State} (h : s.cores = t.cores) (c : CoreId) : s.core c = t.core c := by
  unfold State.core; rw [h]

@[simp] theorem State.core_setF (s : State) (f : FieldRef) (v : Nat) (c : CoreId) : (s.setF f v).core c = s.core c :=
  State.core_congr (by simp) c
@[simp] theorem State.core_bump (s : State) (a n : Nat) (c : CoreId) : (s.bump a n).core c = s.core c := rfl
@[simp] theorem State.core_setReg (s : State) (a v : Nat) (c : CoreId) : (s.setReg a v).core c = s.core c := rfl
@[simp] theorem State.core_report (s : State) (r : ErrReport) (c : CoreId) : (s.report r).core c = s.core c :=
  State.core_congr (by simp) c
@[simp] theorem State.core_wr (s : State) (a : Nat) (v : List Byte) (c : CoreId) : (s.wr a v).core c = s.core c := rfl
@[simp] theorem State.core_modTxn (s : State) (a : Nat) (f : Txn → Txn) (c : CoreId) :
    (s.modTxn a f).core c = s.core c := rfl

/-- The accepted transactions depend on the table alone. -/
theorem State.txn?_congr {s t : State} (h : s.txns = t.txns) (a : Nat) : s.txn? a = t.txn? a := by
  unfold State.txn?; rw [h]

theorem State.txn?_an {s : State} {a : Nat} {t : Txn} (h : s.txn? a = some t) : t.an = a := by
  unfold State.txn? at h
  simpa using List.find?_some h

/-- A transaction after a change of it that keeps its AN. -/
theorem State.txn?_modTxn_self (s : State) (a : Nat) (f : Txn → Txn) (hf : ∀ t, t.an = a → (f t).an = a) :
    (s.modTxn a f).txn? a = (s.txn? a).map f := by
  unfold State.txn? State.modTxn
  dsimp only
  induction s.txns with
  | nil => rfl
  | cons t l ih =>
    by_cases h : t.an = a
    · simp [h, hf t h]
    · simp [h, ih]

theorem State.txn?_modTxn_ne (s : State) (a b : Nat) (f : Txn → Txn) (hab : b ≠ a) (hf : ∀ t, t.an = a → (f t).an = a) :
    (s.modTxn a f).txn? b = s.txn? b := by
  unfold State.txn? State.modTxn
  dsimp only
  induction s.txns with
  | nil => rfl
  | cons t l ih =>
    by_cases h : t.an = a
    · simp [h, hf t h, Ne.symm hab, ih]
    · have h3 : (if t.an = a then f t else t) = t := if_neg h
      rw [List.map_cons, List.find?_cons, List.find?_cons, h3, ih]

/-! ## Registers and fields -/

/-- A field depends on its register alone. -/
theorem State.getF_congr {s t : State} (f : FieldRef) (h : s.reg f.off = t.reg f.off) : s.getF f = t.getF f := by
  unfold State.getF; rw [h]

theorem State.reg_congr {s t : State} (h : s.regs = t.regs) (a : Nat) : s.reg a = t.reg a := by
  unfold State.reg; rw [h]

@[simp] theorem State.reg_msix (s : State) (v a : Nat) : (s.msix v).reg a = s.reg a := State.reg_congr (by simp) a

theorem State.reg_lt (s : State) (a : Nat) : s.reg a < 2 ^ 64 := by
  unfold State.reg; exact BitVec.isLt _

theorem State.reg_evtRaise (s : State) (k a : Nat) : (s.evtRaise k).reg a = s.reg a := by
  unfold State.evtRaise; split <;> simp

/-- Raising a system event writes SYS_EVT and no other register. -/
theorem State.reg_evt_ne (s : State) (k a : Nat) (h : a ≠ Off.SYS_EVT) : (s.evt k).reg a = s.reg a := by
  unfold State.evt; rw [State.reg_evtRaise, reg_setReg, if_neg h]

/-- Writing a field writes its register and perhaps SYS_EVT, and no other register. -/
theorem State.reg_setF_ne (s : State) (f : FieldRef) (v a : Nat) (h1 : a ≠ f.off) (h2 : a ≠ Off.SYS_EVT) :
    (s.setF f v).reg a = s.reg a := by
  unfold State.setF
  generalize eventOf f (s.getF f) (v % 2 ^ f.width) = e
  cases e with
  | none => dsimp only; rw [reg_setReg, if_neg h1]
  | some k => dsimp only; rw [State.reg_evt_ne _ _ _ h2, reg_setReg, if_neg h1]

theorem State.reg_setF_self (s : State) (f : FieldRef) (v : Nat) (h : f.off ≠ Off.SYS_EVT) :
    (s.setF f v).reg f.off = putBits (s.reg f.off) f.lo f.width v % 2 ^ 64 := by
  unfold State.setF
  generalize eventOf f (s.getF f) (v % 2 ^ f.width) = e
  cases e with
  | none => dsimp only; rw [reg_setReg, if_pos rfl]
  | some k => dsimp only; rw [State.reg_evt_ne _ _ _ h, reg_setReg, if_pos rfl]

/-- Bit `j` of a number with a field replaced. -/
theorem testBit_putBits (x lo w v j : Nat) :
    (putBits x lo w v).testBit j = if lo ≤ j ∧ j < lo + w then v.testBit (j - lo) else x.testBit j := by
  have e : putBits x lo w v = 2 ^ lo * (2 ^ w * (x / 2 ^ (lo + w)) + v % 2 ^ w) + x % 2 ^ lo := by
    unfold putBits
    rw [Nat.shiftLeft_eq, Nat.shiftLeft_eq, Nat.shiftRight_eq_div_pow, Nat.pow_add]; ring
  rw [e, Nat.testBit_two_pow_mul_add _ (Nat.mod_lt _ (Nat.two_pow_pos lo))]
  by_cases h1 : j < lo
  · rw [if_pos h1, if_neg (by omega), Nat.testBit_mod_two_pow]; simp [h1]
  · rw [if_neg h1, Nat.testBit_two_pow_mul_add _ (Nat.mod_lt _ (Nat.two_pow_pos w))]
    by_cases h2 : j < lo + w
    · rw [if_pos (by omega), if_pos (by omega), Nat.testBit_mod_two_pow]; simp; omega
    · rw [if_neg (by omega), if_neg (by omega), Nat.testBit_div_two_pow]; congr 1; omega

theorem bitsOf_putBits_self (x lo w v : Nat) : bitsOf (putBits x lo w v) lo w = v % 2 ^ w := by
  apply Nat.eq_of_testBit_eq; intro i
  unfold bitsOf
  rw [Nat.testBit_mod_two_pow, Nat.testBit_mod_two_pow, Nat.testBit_shiftRight, testBit_putBits]
  by_cases h : i < w
  · rw [if_pos (by omega)]; simp
  · simp [h]

theorem bitsOf_putBits_ne (x lo w v lo' w' : Nat) (h : lo' + w' ≤ lo ∨ lo + w ≤ lo') :
    bitsOf (putBits x lo w v) lo' w' = bitsOf x lo' w' := by
  apply Nat.eq_of_testBit_eq; intro i
  unfold bitsOf
  rw [Nat.testBit_mod_two_pow, Nat.testBit_mod_two_pow, Nat.testBit_shiftRight, Nat.testBit_shiftRight, testBit_putBits]
  by_cases h2 : i < w'
  · rw [if_neg (by omega)]
  · simp [h2]

theorem bitsOf_mod (x lo w : Nat) (h : lo + w ≤ 64) : bitsOf (x % 2 ^ 64) lo w = bitsOf x lo w := by
  apply Nat.eq_of_testBit_eq; intro i
  unfold bitsOf
  rw [Nat.testBit_mod_two_pow, Nat.testBit_mod_two_pow, Nat.testBit_shiftRight, Nat.testBit_shiftRight,
    Nat.testBit_mod_two_pow]
  by_cases h2 : i < w
  · simp [h2, show lo + i < 64 by omega]
  · simp [h2]

/-- A field after it has been written; SYS_EVT apart, which the write itself can raise a bit of. -/
theorem State.getF_setF_self (s : State) (f : FieldRef) (v : Nat) (h : f.off ≠ Off.SYS_EVT) (hw : f.lo + f.width ≤ 64) :
    (s.setF f v).getF f = v % 2 ^ f.width := by
  unfold State.getF
  rw [State.reg_setF_self _ _ _ h, bitsOf_mod _ _ _ hw, bitsOf_putBits_self]

/-- Another field of the same register. -/
theorem State.getF_setF_beside (s : State) (f g : FieldRef) (v : Nat) (h : f.off ≠ Off.SYS_EVT) (e : g.off = f.off)
    (hw : g.lo + g.width ≤ 64) (hd : g.lo + g.width ≤ f.lo ∨ f.lo + f.width ≤ g.lo) :
    (s.setF f v).getF g = s.getF g := by
  unfold State.getF
  rw [e, State.reg_setF_self _ _ _ h, bitsOf_mod _ _ _ hw, bitsOf_putBits_ne _ _ _ _ _ _ hd]

/-- A field of another register. -/
theorem State.getF_setF_ne (s : State) (f g : FieldRef) (v : Nat) (h1 : g.off ≠ f.off) (h2 : g.off ≠ Off.SYS_EVT) :
    (s.setF f v).getF g = s.getF g :=
  State.getF_congr g (State.reg_setF_ne s f v g.off h1 h2)

/-- A field after a counter has counted. -/
theorem State.getF_bump_ne (s : State) (g : FieldRef) (a n : Nat) (h : g.off ≠ a) : (s.bump a n).getF g = s.getF g :=
  State.getF_congr g (by rw [reg_bump, if_neg h])

end Sys2Proof.Machine
end

