-- ==== Sys2Proof/Laws/Run.lean ====
section
/-! SUPPORT. How a core runs an instruction: what the fetch leaves, and the frame of every instruction as one equation. -/

namespace Sys2Proof.Laws

open Sys2Proof Sys2Proof.Machine

/-! ## What the fetch leaves -/

theorem setCore_core (s : State) (c : CoreId) : s.setCore c (s.core c) = s := by
  unfold State.setCore State.core
  have : s.cores.set c s.cores[c] = s.cores := by simp
  rw [this]

theorem modCore_modCore (s : State) (c : CoreId) (f g : Core → Core) :
    (s.modCore c f).modCore c g = s.modCore c fun k => g (f k) := by
  unfold State.modCore
  rw [State.core_setCore_self]
  unfold State.setCore
  simp

/-- The fetch and the data checks mark TLB entries and change nothing else. -/
theorem markUse_eq (s : State) (c : CoreId) (i : Option Nat) :
    ∃ T, markUse s c i = s.modCore c fun k => { k with tlb := T } := by
  cases i with
  | none => exact ⟨(s.core c).tlb, (setCore_core s c).symm⟩
  | some j =>
    unfold markUse
    by_cases h : j < 128
    · exact ⟨(s.core c).tlb.set j { (s.core c).tlb[j] with use := true }, by
        unfold State.modCore; simp only [h, dite_true]⟩
    · exact ⟨(s.core c).tlb, by unfold State.modCore; simp only [h, dite_false]⟩

theorem markParts_eq (s : State) (c : CoreId) (ps : List (Phys × Nat)) :
    ∃ T, markParts s c ps = s.modCore c fun k => { k with tlb := T } := by
  unfold markParts
  induction ps generalizing s with
  | nil => exact ⟨(s.core c).tlb, (setCore_core s c).symm⟩
  | cons p t ih =>
    obtain ⟨T1, h1⟩ := markUse_eq s c p.1.tlb
    obtain ⟨T2, h2⟩ := ih (markUse s c p.1.tlb)
    exact ⟨T2, by rw [List.foldl_cons, h2, h1, modCore_modCore]⟩

/-- The fields of a control word after another field has been written. -/
theorem Bits.get_put_ne (w : Word) (lo n v lo' n' : Nat) (h : lo' + n' ≤ lo ∨ lo + n ≤ lo') (h' : lo' + n' ≤ 64) :
    Bits.get (Bits.put w lo n v) lo' n' = Bits.get w lo' n' := by
  unfold Bits.get Bits.put
  rw [BitVec.toNat_ofNat, bitsOf_mod _ _ _ h', bitsOf_putBits_ne _ _ _ _ _ _ h]

theorem Bits.get_put_self (w : Word) (lo n v : Nat) (h : lo + n ≤ 64) : Bits.get (Bits.put w lo n v) lo n = v % 2 ^ n := by
  unfold Bits.get Bits.put
  rw [BitVec.toNat_ofNat, bitsOf_mod _ _ _ h, bitsOf_putBits_self]

theorem Bits.lsb_put_ne (w : Word) (lo n v i : Nat) (h : i < lo ∨ lo + n ≤ i) (h' : i < 64) :
    (Bits.put w lo n v).getLsbD i = w.getLsbD i := by
  unfold Bits.put
  rw [BitVec.getLsbD_ofNat, testBit_putBits, if_neg (by omega)]
  simp [h', BitVec.getLsbD]

/-- Setting PART and PROG leaves the lower 47 bits of STATUS. -/
theorem get_setProgress (x : Bank) (p : Bool) (n lo w : Nat) (h : lo + w ≤ 47) :
    Bits.get (x.setProgress p n).status lo w = Bits.get x.status lo w := by
  unfold Bank.setProgress
  dsimp only
  rw [Bits.get_put_ne _ _ _ _ _ _ (by omega) (by omega), Bits.get_put_ne _ _ _ _ _ _ (by omega) (by omega)]

theorem lsb_setProgress (x : Bank) (p : Bool) (n i : Nat) (h : i < 47) :
    (x.setProgress p n).status.getLsbD i = x.status.getLsbD i := by
  unfold Bank.setProgress
  dsimp only
  rw [Bits.lsb_put_ne _ _ _ _ _ (by omega) (by omega), Bits.lsb_put_ne _ _ _ _ _ (by omega) (by omega)]

/-- The bank after a fetch: STATUS with PART and PROG cleared where PART was set (R104). -/
def unparted (x : Bank) : Bank := if x.part then x.setProgress false 0 else x

theorem setBank_bank (k : Core) (b : BankId) : k.setBank b (k.bank b) = k := by
  unfold Core.setBank Core.bank
  have : k.banks.set b k.banks[b] = k.banks := by simp
  rw [this]

theorem clearPart_eq (s : State) (c : CoreId) (b : BankId) : clearPart s c b = s.modBank c b unparted := by
  unfold clearPart
  by_cases h : (s.bank c b).part
  · rw [if_pos h]
    unfold State.modBank State.modCore Core.modBank
    have : unparted ((s.core c).bank b) = ((s.core c).bank b).setProgress false 0 := if_pos h
    dsimp only
    rw [this]
  · rw [if_neg h]
    unfold State.modBank State.modCore Core.modBank
    have : unparted ((s.core c).bank b) = (s.core c).bank b := if_neg h
    dsimp only
    rw [this, setBank_bank, setCore_core]

/-- The fetched state in one equation. -/
theorem fetched_eq (s : State) (c : CoreId) (b : BankId) (ps : List (Phys × Nat)) :
    ∃ T, fetched s c b ps = s.modCore c fun k => ({ k with tlb := T }).modBank b unparted := by
  obtain ⟨T, h⟩ := markParts_eq s c ps
  refine ⟨T, ?_⟩
  unfold fetched
  rw [clearPart_eq, h]
  exact modCore_modCore ..

/-! ## What an instruction reads after the fetch -/

theorem unparted_lo (x : Bank) : (unparted x).lo = x.lo := by unfold unparted; split <;> rfl
theorem unparted_w0 (x : Bank) : (unparted x).w0 = x.w0 := by unfold unparted; split <;> rfl
theorem unparted_w1 (x : Bank) : (unparted x).w1 = x.w1 := by unfold unparted; split <;> rfl
theorem unparted_pc (x : Bank) : (unparted x).pc = x.pc := by unfold unparted; split <;> rfl
theorem unparted_bwr (x : Bank) : (unparted x).bwr = x.bwr := by unfold unparted; split <;> rfl
theorem unparted_fpctl (x : Bank) : (unparted x).fpctl = x.fpctl := by unfold unparted; split <;> rfl
theorem unparted_dctl (x : Bank) : (unparted x).dctl = x.dctl := by unfold unparted; split <;> rfl
theorem unparted_asid (x : Bank) : (unparted x).asid = x.asid := by unfold unparted; split <;> rfl
theorem unparted_ctx (x : Bank) : (unparted x).ctx = x.ctx := by unfold unparted; split <;> rfl
theorem unparted_get (x : Bank) (lo w : Nat) (h : lo + w ≤ 47) :
    Bits.get (unparted x).status lo w = Bits.get x.status lo w := by
  unfold unparted; split
  · exact get_setProgress _ _ _ _ _ h
  · rfl
theorem unparted_lsb (x : Bank) (i : Nat) (h : i < 47) : (unparted x).status.getLsbD i = x.status.getLsbD i := by
  unfold unparted; split
  · exact lsb_setProgress _ _ _ _ h
  · rfl

/-- A general register reads as its storage place holds. -/
theorem readG_cell (k : Core) (b : BankId) (r : Reg) :
    k.readG b r = match namedCell k b r with | none => 0 | some x => cellOf k x := by
  unfold Core.readG namedCell placeOf
  dsimp only
  by_cases h0 : r = 0
  · simp [h0]
  · rw [if_neg h0, if_neg h0]
    by_cases h1 : r.val < 16
    · rw [if_pos h1, if_pos h1]; rfl
    · rw [if_neg h1, if_neg h1]
      by_cases h2 : Bits.get (k.bank b).bwr 8 2 = 1
      · rw [if_pos h2, if_pos h2]
        by_cases h3 : halfIndex r = 0
        · rw [if_pos h3, if_pos h3]
        · rw [if_neg h3, if_neg h3]; rfl
      · rw [if_neg h2, if_neg h2]
        by_cases h4 : Bits.get (k.bank b).bwr 8 2 = 2
        · rw [if_pos h4, if_pos h4]
          unfold Bank.getWin winHalf cellOf
          cases (k.bank b).bwr.getLsbD 12 <;> rfl
        · rw [if_neg h4, if_neg h4]
          unfold Bank.getWin winHalf cellOf
          cases (k.bank b).window <;> rfl

theorem core_fetched (s : State) (c : CoreId) (b : BankId) (ps : List (Phys × Nat)) :
    ∃ T, (fetched s c b ps).core c = ({ s.core c with tlb := T } : Core).modBank b unparted := by
  obtain ⟨T, h⟩ := fetched_eq s c b ps
  exact ⟨T, by rw [h, State.core_modCore_self]⟩

theorem bank_fetched (s : State) (c : CoreId) (b : BankId) (ps : List (Phys × Nat)) :
    (fetched s c b ps).bank c b = unparted (s.bank c b) := by
  obtain ⟨T, h⟩ := core_fetched s c b ps
  unfold State.bank; rw [h, Core.bank_modBank_self]; rfl

theorem bank_fetched_ne (s : State) (c : CoreId) (b d : BankId) (ps : List (Phys × Nat)) (hd : d ≠ b) :
    (fetched s c b ps).bank c d = s.bank c d := by
  obtain ⟨T, h⟩ := core_fetched s c b ps
  unfold State.bank; rw [h, Core.bank_modBank_ne _ _ _ _ hd]; rfl

theorem namedCell_fetched (s : State) (c : CoreId) (b : BankId) (ps : List (Phys × Nat)) (r : Reg) :
    namedCell ((fetched s c b ps).core c) b r = namedCell (s.core c) b r := by
  have hb : ((fetched s c b ps).core c).bank b = unparted ((s.core c).bank b) := bank_fetched s c b ps
  have hw : (unparted ((s.core c).bank b)).window = ((s.core c).bank b).window := by
    unfold Bank.window Bank.tl; rw [unparted_get _ _ _ (by omega)]
  unfold namedCell
  rw [hb, unparted_bwr, hw]

theorem cellOf_fetched (s : State) (c : CoreId) (b : BankId) (ps : List (Phys × Nat)) (x : RegCell) :
    cellOf ((fetched s c b ps).core c) x = cellOf (s.core c) x := by
  obtain ⟨d, f, i⟩ := x
  have hb : ∀ d, (((fetched s c b ps).core c).bank d).lo = ((s.core c).bank d).lo ∧
      (((fetched s c b ps).core c).bank d).w0 = ((s.core c).bank d).w0 ∧
      (((fetched s c b ps).core c).bank d).w1 = ((s.core c).bank d).w1 := by
    intro d
    by_cases h : d = b
    · subst h
      have := bank_fetched s c d ps
      unfold State.bank at this
      rw [this]; exact ⟨unparted_lo _, unparted_w0 _, unparted_w1 _⟩
    · have := bank_fetched_ne s c b d ps h
      unfold State.bank at this
      rw [this]; exact ⟨rfl, rfl, rfl⟩
  unfold cellOf
  dsimp only
  rw [(hb d).1, (hb d).2.1, (hb d).2.2]

/-- A fetch changes no general register. -/
theorem g_fetched (s : State) (c : CoreId) (b : BankId) (ps : List (Phys × Nat)) (r : Reg) :
    (fetched s c b ps).g c b r = s.g c b r := by
  unfold State.g
  rw [readG_cell, readG_cell, namedCell_fetched]
  cases namedCell (s.core c) b r with
  | none => rfl
  | some x => exact cellOf_fetched ..

theorem cc_fetched (s : State) (c : CoreId) (b : BankId) (ps : List (Phys × Nat)) :
    (fetched s c b ps).cc c b = s.cc c b := by
  unfold State.cc Bank.cc; rw [bank_fetched, unparted_get _ _ _ (by omega)]

theorem pc_fetched (s : State) (c : CoreId) (b : BankId) (ps : List (Phys × Nat)) :
    ((fetched s c b ps).bank c b).pc = (s.bank c b).pc := by rw [bank_fetched, unparted_pc]

theorem user_fetched (s : State) (c : CoreId) (b : BankId) (ps : List (Phys × Nat)) :
    ((fetched s c b ps).bank c b).user = (s.bank c b).user := by
  unfold Bank.user; rw [bank_fetched, unparted_lsb _ _ (by omega)]

theorem user_markParts (s : State) (c : CoreId) (b : BankId) (ps : List (Phys × Nat)) :
    ((markParts s c ps).bank c b).user = (s.bank c b).user := by
  obtain ⟨T, h⟩ := markParts_eq s c ps
  unfold State.bank; rw [h, State.core_modCore_self]; rfl

theorem need_markParts (s : State) (c : CoreId) (ps : List (Phys × Nat)) :
    ((markParts s c ps).core c).need = (s.core c).need := by
  obtain ⟨T, h⟩ := markParts_eq s c ps
  rw [h, State.core_modCore_self]

theorem need_fetched (s : State) (c : CoreId) (b : BankId) (ps : List (Phys × Nat)) :
    ((fetched s c b ps).core c).need = (s.core c).need := by
  obtain ⟨T, h⟩ := fetched_eq s c b ps
  rw [h, State.core_modCore_self]; rfl

/-! ## The frame of an instruction -/

/-- An instruction that found nothing missing behind a remote window ends as its body answered. -/
theorem settleInstr_need {c : CoreId} {b : BankId} {len : Nat} {pc : Word} {u : State} {r : IRes}
    (h : (r.state.core c).need = none) : settleInstr c b len pc u r = finishInstr c b len pc r := by
  unfold settleInstr; rw [h]

theorem settleInstr_done {c : CoreId} {b : BankId} {len : Nat} {pc : Word} {u v : State} (h : (v.core c).need = none) :
    settleInstr c b len pc u (.done v) = ended v c b len := settleInstr_need h

theorem settleInstr_jump {c : CoreId} {b : BankId} {len : Nat} {pc t : Word} {u v : State} (h : (v.core c).need = none) :
    settleInstr c b len pc u (.jump v t) = jumped v c b t := settleInstr_need h

theorem settleInstr_trap {c : CoreId} {b : BankId} {len : Nat} {pc : Word} {u v : State} {cause : Nat} {bad : Word}
    (h : (v.core c).need = none) : settleInstr c b len pc u (.trap v cause bad) =
      takeTrap v c b cause bad (if epcNext cause then pc + BitVec.ofNat 64 len else pc) := settleInstr_need h

/-- An instruction that is ready, legal and permitted does what its body answers. -/
theorem runInstr_ready {s : State} {c : CoreId} {b : BankId} {len : Nat} {ps : List (Phys × Nat)}
    {legal : BankId → Bool} {priv intr : Bool} {body : BankId → State → IRes} (h : Ready s c b len ps)
    (hl : legal b = true) (hp : priv = true → (s.bank c b).user = false) :
    runInstr c len legal priv intr body s =
      let u := if intr then markParts s c ps else fetched s c b ps
      settleInstr c b len (s.bank c b).pc u (body b u) := by
  obtain ⟨h1, h2, h3, _⟩ := h
  unfold runInstr
  rw [h1]
  dsimp only
  rw [if_neg h2, h3]
  dsimp only
  rw [hl]
  have hu : (priv && ((markParts s c ps).bank c b).user) = false := by
    rw [user_markParts]
    cases priv with
    | false => rfl
    | true => simpa using hp rfl
  simp only [Bool.not_true, Bool.false_eq_true, if_false, hu]
  rfl

theorem baseInstr_ready {s : State} {c : CoreId} {b : BankId} {ps : List (Phys × Nat)}
    {body : BankId → State → IRes} (h : Ready s c b 4 ps) :
    baseInstr c body s = settleInstr c b 4 (s.bank c b).pc (fetched s c b ps) (body b (fetched s c b ps)) := by
  unfold baseInstr
  rw [runInstr_ready h rfl (by simp)]
  simp

/-- An instruction that the mode does not permit takes PRIV, after its fetch (R128). -/
theorem runInstr_priv {s : State} {c : CoreId} {b : BankId} {len : Nat} {ps : List (Phys × Nat)}
    {legal : BankId → Bool} {intr : Bool} {body : BankId → State → IRes} (h : Ready s c b len ps)
    (hl : legal b = true) (hu : (s.bank c b).user = true) :
    runInstr c len legal true intr body s = takeTrap (markParts s c ps) c b 0x0C 0 (s.bank c b).pc := by
  obtain ⟨h1, h2, h3, _⟩ := h
  unfold runInstr
  rw [h1]
  dsimp only
  rw [if_neg h2, h3]
  dsimp only
  rw [hl, user_markParts, hu]
  simp

/-- An encoding that is not legal takes ILLEGAL, after its fetch (R128, R180). -/
theorem runInstr_illegal {s : State} {c : CoreId} {b : BankId} {len : Nat} {ps : List (Phys × Nat)}
    {legal : BankId → Bool} {priv intr : Bool} {body : BankId → State → IRes} (h : Ready s c b len ps)
    (hl : legal b = false) :
    runInstr c len legal priv intr body s = takeTrap (markParts s c ps) c b 0x0B 0 (s.bank c b).pc := by
  obtain ⟨h1, h2, h3, _⟩ := h
  unfold runInstr
  rw [h1]
  dsimp only
  rw [if_neg h2, h3]
  dsimp only
  rw [hl]
  simp

end Sys2Proof.Laws
end

