-- ==== Sys2Proof/Tests/Slice0.lean ====
section
/-! SUPPORT. Tests: each check of well-formedness refuses an ill-formed command; for each statement with hypotheses,
states and operands that meet them together (`meets_<statement>`); and results the spec gives for fixed operands
(`test_...`). Where a statement names the state that an operation leaves, it is the second part of the pair shown here. -/

namespace Sys2Proof.Tests

open Sys2Proof Sys2Proof.Machine

set_option Elab.async false

/-! ## Well-formedness: each check refuses -/

/-- A Kolat header of no flits, which R308 does not allow. -/
def noFlits : KHdr :=
  { port := 0, vc := 0, flits := 0, seq := 0, ack := none, credit := none, src := 0, dest := 0, key := 0, last := true, an := 0,
    deadline := 0, tag := 0 }
/-- A Kolat header of one flit. -/
def oneFlit : KHdr := { noFlits with flits := 1 }
/-- An admin command of zeros. -/
def noParams : AdminCmd := { cid := 0, addr := 0, len := 0, p0 := 0, p1 := 0, p2 := 0 }

theorem test_wf_frames : (Instr.frameReceive 0 []).wf = false ∧ (Instr.txqTransmit []).wf = false := by decide

theorem test_wf_strings :
    (Instr.smov 0 1 2 1 none).wf = false ∧ (Instr.smovx 0 1 2 2 none).wf = false ∧ (Instr.sfill 0 1 2 1 none).wf = false ∧
      (Instr.scmp 0 1 2 1 none).wf = false ∧ (Instr.str 0 1 2 3 3 none).wf = false ∧
      (Instr.sscan 0 1 2 3 1 none).wf = false ∧ (Instr.scvu 0 1 2 1 3 none).wf = false ∧
      (Instr.scvs 0 1 2 3 2 none).wf = false ∧ (Instr.edit 0 1 1 3 none).wf = false := by decide

theorem test_wf_control : (Instr.ctlr 0 1 13).wf = false ∧ (Instr.ctlw 0 13 1).wf = false := by decide

/-- A memory operand whose length field is `n` (R185). -/
def mop (n : BitVec 6) : MOp := { base := 1, disp := 0, lf := n }

theorem test_wf_decimal :
    (Instr.dadd 0 (mop 32) (mop 0)).wf = false ∧ (Instr.dsub 0 (mop 0) (mop 32)).wf = false ∧
      (Instr.dmul 0 (mop 32) (mop 0)).wf = false ∧ (Instr.ddiv 0 (mop 0) (mop 32)).wf = false ∧
      (Instr.dmod 0 (mop 32) (mop 0)).wf = false ∧ (Instr.dcpy 0 (mop 0) (mop 32)).wf = false ∧
      (Instr.dcmp 0 (mop 32) (mop 0)).wf = false ∧ (Instr.dshf 0 (mop 0) (mop 0) 0x40).wf = false ∧
      (Instr.dtst 0 (mop 32)).wf = false ∧ (Instr.packz 0 (mop 0) (mop 63)).wf = false ∧
      (Instr.unpkz 0 (mop 63) (mop 0)).wf = false ∧ (Instr.cvpb 0 1 (mop 32)).wf = false ∧
      (Instr.cvbp 0 (mop 32) 1).wf = false ∧ (Instr.dlda 0 0 (mop 32)).wf = false ∧ (Instr.dsta 0 (mop 32) 0).wf = false ∧
      (Instr.dada 0 0 (mop 32)).wf = false ∧ (Instr.dsba 0 0 (mop 32)).wf = false ∧ (Instr.dmla 0 0 (mop 32)).wf = false ∧
      (Instr.dcpa 0 0 (mop 32)).wf = false := by decide +kernel

theorem test_wf_kolat :
    (Instr.gseal noFlits []).wf = false ∧ (Instr.sealMessage noFlits 0 []).wf = false ∧
      (Instr.linkstate oneFlit 1024 0 false).wf = false ∧ (Instr.heartbeat noFlits 0 false 0).wf = false ∧
      (Instr.takeover oneFlit 0 1024).wf = false ∧ (Instr.tick noFlits 0 0 0 0).wf = false ∧
      (Instr.timeRequest noFlits 0).wf = false ∧ (Instr.timeAnswer noFlits 0 0 0).wf = false ∧
      (Instr.map oneFlit 0 4096 [0]).wf = false ∧ (Instr.applied noFlits 0 0).wf = false ∧
      (Instr.lop oneFlit 4 0 0 [] []).wf = false ∧ (Instr.lopRsp noFlits 0 []).wf = false ∧
      (Instr.prepare noFlits 0).wf = false ∧ (Instr.prepRsp noFlits 0).wf = false ∧ (Instr.apply noFlits 0).wf = false ∧
      (Instr.applyResend 0 1024).wf = false ∧ (Instr.woundMessage noFlits 0 0).wf = false ∧
      (Instr.kolRelease noFlits).wf = false ∧ (Instr.wread oneFlit 0 3).wf = false ∧ (Instr.wwrite oneFlit 0 5 0).wf = false ∧
      (Instr.winRsp noFlits 0 0).wf = false ∧ (Instr.mirror noFlits 0 0 []).wf = false ∧
      (Instr.mirrorAck (.kolat noFlits 0 0)).wf = false ∧ (Instr.controlStoreScrub 0 16384 .clean).wf = false := by
  decide +kernel

theorem test_wf_admin :
    let a : AdminCmd := { noParams with cid := 2 ^ 32 }
    [Instr.handover a, .close a, .rekey a, .portMove a, .descriptorUpdate a, .dialectLoad a, .benchConfigure a, .bulkLoad a,
      .cancel a, .keyLoad a, .keyExport a, .keyDelete a, .keyInfo a, .keySave a, .keyRestore a, .zeroise a, .journalTail a,
      .mapUpdate a, .sliceTransfer a, .orphanResolve a, .adminUnknownOp 0x60 a].all (fun i => !i.wf) = true := by
  decide +kernel

theorem test_wf_registers :
    (Instr.registerWrite .host 0 2 0).wf = false ∧ (Instr.registerWrite (.core 0) 1 2 0).wf = false ∧
      (Instr.bar0UnmappedAccess true 4 8).wf = false ∧ (Instr.bar0Abort false 0 0).wf = false ∧
      (Instr.debugGo 4 0).wf = false := by decide +kernel

/-- ADD G1, G2, G3 is a defined word (R177, R189), so no ILLEGAL_INSTRUCTION event carries it. -/
theorem test_wf_illegal : (Instr.illegalInstruction 0 0x04221800 0).wf = false := by decide +kernel

/-! ## Small states -/

/-- A context that has just been bound. -/
def ctx0 : Ctx := { an := 1, run := 0, block := none, usedF := false, usedD := false, mcycles := 0 }

/-- After reset, with one region that lets every class read, write and fetch low memory, and bank 0 of core 0 current. -/
def demo : State :=
  ((State.reset.setReg (Off.MPU_ACT_ATTR 0) 0xFF0701).setReg (Off.MPU_ACT_BASE 0) 48).modCore 0 fun k =>
    { k.modBank 0 (fun x => { x with ctx := some ctx0, pc := 0x1000 }) with cur := some 0 }

/-- An untranslated address of ordinary memory. -/
def ph (a : Nat) : Phys := { pa := a, va := a, dev := false, tlb := none }

/-- An operand in one part. -/
def part1 (a n : Nat) : List (Phys × Nat) := [(ph a, n)]

/-- The state with G1, G2, ... of bank 0 of core 0. -/
def regsOf (l : List Nat) (s : State) : State :=
  (l.zip (List.range 31)).foldl (fun s p => s.setG 0 0 ⟨(p.2 + 1) % 32, Nat.mod_lt _ (by decide)⟩ (BitVec.ofNat 64 p.1)) s

/-- The access of a store in these tests: of no context, untranslated. -/
def org0 : Origin := { an := 0, deadline := 0, tag := 0, key := 0 }
/-- Untranslated. -/
def via0 : Via := { entry := none, inval := [] }
/-- Three bytes of ordinary memory in a store queue. -/
def queued : SqEntry := { cells := cellsAt 0x2008 [1, 2, 3], dev := false, va := 0x2008, org := org0, via := via0 }

/-- The state with bank 0 of core 0 changed. -/
def bank0 (f : Bank → Bank) (s : State) : State := s.modCore 0 fun k => k.modBank 0 f

/-- The state with bank 15 of core 0 current, after a trap at level 4. -/
def in15 (s : State) : State :=
  s.modCore 0 fun k => { k.modBank 15 (fun x => { x with pc := 0x1000, status := 0x400 }) with
    cur := some 15, b15 := some { bank := 0, resume := 0x44, cause := 0x10, mcycles := 0, usedF := false, usedD := false } }

/-- User mode, at trap level 3. -/
def inUser (s : State) : State := bank0 (fun x => { x with status := 0x302 }) s

/-! ## Base instructions -/

/-- The hypothesis of IntegerResults, CarryAndCompare, BranchResults, FloatResults, FencesAndSync and the frame of
RegisterFrame. -/
theorem meets_ready : Ready demo 0 0 4 (part1 0x1000 4) := by
  unfold Ready; decide +kernel

/-- IntegerResults, MultiplyDivide: operands at the ends of their range, and a divisor of zero. -/
theorem meets_MultiplyDivide :
    let s := regsOf [0xFFFF_FFFF_FFFF_FFFF, 3, 0] demo
    Ready s 0 0 4 (part1 0x1000 4) ∧ s.g 0 0 2 ≠ 0 ∧ s.g 0 0 3 = 0 := by
  unfold Ready; decide +kernel

/-- ADDS carries out of bit 63 and finds zero (R147): CC is 3. -/
theorem test_adds_wraps :
    let s := regsOf [0xFFFF_FFFF_FFFF_FFFF, 1] demo
    ∃ t, exec (.adds 0 3 1 2) s = .next t ∧ t.g 0 0 3 = 0 ∧ t.cc 0 0 = 3 := by
  refine ⟨_, Laws.exec_adds .., ?_⟩
  decide +kernel

/-- A number that names a storage place, one that VIEW gives none, and G0 (RegisterFrame; R80, R178). -/
theorem meets_RegisterFrame :
    let k := ((bank0 (fun x => { x with bwr := 0x100 }) demo).core 0)
    namedCell k 0 5 = some (0, 0, 5) ∧ namedCell k 0 16 = none ∧ namedCell k 0 31 = some (0, 0, 15) ∧
      namedCell k 0 0 = none := by decide +kernel

/-- LoadResults and StoreResults: aligned accesses of each size that pass, and misaligned ones. -/
theorem meets_LoadResults :
    let s := regsOf [0x2008, 0x2007] demo
    let u := fetched s 0 0 (part1 0x1000 4)
    Ready s 0 0 4 (part1 0x1000 4) ∧ checkPart u 0 0 .read 0x2008 8 = .ok (ph 0x2008) ∧
      checkPart u 0 0 .write 0x2008 8 = .ok (ph 0x2008) ∧ checkPart (lazyF u 0 0) 0 0 .read 0x2008 4 = .ok (ph 0x2008) ∧
      checkPart (lazyF u 0 0) 0 0 .write 0x2008 8 = .ok (ph 0x2008) ∧
      (s.g 0 0 1 + (0 : BitVec 16).signExtend 64).toNat % 8 = 0 ∧
      (s.g 0 0 2 + (0 : BitVec 16).signExtend 64).toNat % 2 ≠ 0 ∧
      AsksNone (loadNormal (markUse u 0 none) 0 0x2008 8).2 0 ∧
      AsksNone (loadNormal (markUse (lazyF u 0 0) 0 none) 0 0x2008 4).2 0 ∧
      AsksNone (storeParts u 0 0 [(ph 0x2008, 8)] (leBytes 8 0)) 0 ∧
      checkPart u 0 0 .read 0x2000 64 = .ok (ph 0x2000) ∧ checkPart u 0 0 .write 0x2000 64 = .ok (ph 0x2000) ∧
      ((checkPart u 0 0 .read 0x1_0000_0000_0000 64).isOk = false) := by
  unfold Ready AsksNone; decide +kernel

/-- StoreResults: a queue with room, and one with an ordinary store at its head. -/
theorem meets_StoreResults :
    let s := demo.modCore 0 fun k => { k with sq := [queued] }
    (s.core 0).sq = queued :: [] ∧ (∀ e ∈ (s.core 0).sq, e.dev = false ∧ (e.cells.map fun q => q.1).Nodup) ∧
      (s.core 0).sq.length + (unitsOf 0x2008 [4, 5]).length ≤ 32 ∧ (ph 0x2008).dev = false := by decide +kernel

/-- BranchResults: CC 0 taken and not taken. -/
theorem meets_BranchResults :
    Ready demo 0 0 4 (part1 0x1000 4) ∧ (1 : BitVec 4).getLsbD (demo.cc 0 0) = true ∧
      (14 : BitVec 4).getLsbD (demo.cc 0 0) = false := by
  unfold Ready; decide +kernel

/-- FloatResults: 1 + 1 signals nothing. -/
theorem meets_FloatResults :
    let u := lazyF (fetched demo 0 0 (part1 0x1000 4)) 0 0
    Ready demo 0 0 4 (part1 0x1000 4) ∧
      ((FFmt.ofSz true).add (fpRm (u.bank 0 0).fpctl) (fpFtz (u.bank 0 0).fpctl) (fVal u 0 true (u.bank 0 0).fpctl 1)
        (fVal u 0 true (u.bank 0 0).fpctl 2)).signals (fpTe (u.bank 0 0).fpctl) &&& fpTe (u.bank 0 0).fpctl = 0 := by
  unfold Ready; decide +kernel

/-! ## Instructions of several accesses -/

/-- MultiRegister: G1 to G3 at an operand that ends with its 4 KiB block. -/
theorem meets_MultiRegister :
    let s := regsOf [0x2FE8] demo
    let u := markParts s 0 (part1 0x1000 4)
    Ready s 0 0 4 (part1 0x1000 4) ∧ (s.bank 0 0).part = false ∧ (s.g 0 0 1).toNat = 0x2FE8 ∧ 0x2FE8 % 4096 + 24 ≤ 4096 ∧
      checkPart u 0 0 .write 0x2FE8 24 = .ok (ph 0x2FE8) ∧ checkPart u 0 0 .read 0x2FE8 24 = .ok (ph 0x2FE8) ∧
      AsksNone (readPart (markUse u 0 none) 0 (ph 0x2FE8) 8).2 0 := by
  unfold Ready AsksNone; decide +kernel

/-- SaveLink: an area across two blocks, and its first position. -/
theorem meets_SaveLink :
    let s := regsOf [0x2F00, 0xFFFF_FFFF] demo
    let u := markParts s 0 (part1 0x1000 4)
    let qs := part1 0x2F00 256 ++ part1 0x3000 256
    Ready s 0 0 4 (part1 0x1000 4) ∧ (s.bank 0 0).part = false ∧ (s.g 0 0 1).toNat % 64 = 0 ∧
      checkRange u 0 0 .write 0x2F00 512 = .ok qs ∧ checkRange u 0 0 .read 0x2F00 512 = .ok qs ∧
      physAt qs 0 = some (ph 0x2F00, 256) ∧ (physAt qs (8 * 31)).isSome = true ∧ (physAt qs (0x100 + 8 * 31)).isSome = true ∧
      (s.g 0 0 2).toNat.testBit 31 = true ∧ (s.g 0 0 2).toNat.testBit 32 = false ∧
      AsksNone ((List.range 64).foldl (fun v n => (svlkPos 0 0 0xFFFF_FFFF qs n v).2) (markParts u 0 qs)) 0 ∧
      AsksNone ((List.range 64).foldl (fun v n => (rslkPos 0 0 1 2 0xFFFF_FFFF qs n v).2) (markParts u 0 qs)) 0 := by
  unfold Ready AsksNone; decide +kernel

/-- StringMoves: the destination inside the source, and a run that ends with both blocks; a table of 256 bytes. -/
theorem meets_StringMoves :
    let s := regsOf [0x2FC8, 0x2FC0, 32, 0x3000] demo
    let u := markParts s 0 (part1 0x1000 4)
    Ready s 0 0 4 (part1 0x1000 4) ∧ (s.bank 0 0).part = false ∧ (s.g 0 0 3).toNat % 2 ^ 32 = 32 ∧
      (s.g 0 0 2).toNat < (s.g 0 0 1).toNat ∧ (s.g 0 0 1).toNat < (s.g 0 0 2).toNat + 32 ∧
      checkRange u 0 0 .read 0x2FC0 32 = .ok (part1 0x2FC0 32) ∧ checkRange u 0 0 .write 0x2FC8 32 = .ok (part1 0x2FC8 32) ∧
      checkRange u 0 0 .read 0x3000 256 = .ok (part1 0x3000 256) ∧
      AsksNone (copyUp 0 0 (part1 0x2FC0 32) (part1 0x2FC8 32) (fun v s => (v, s)) 32 0
        (markStep u 0 0 [part1 0x2FC0 32] (part1 0x2FC8 32))) 0 ∧
      AsksNone (copyUp 0 0 (part1 0x2FC0 32) (part1 0x2FC8 32) (tableByte 0 (part1 0x3000 256)) 32 0
        (markStep u 0 0 [part1 0x2FC0 32, part1 0x3000 256] (part1 0x2FC8 32))) 0 ∧
      AsksNone (copyDown 0 0 (part1 0x2FC0 32) (part1 0x2FC8 32) 32
        (markStep u 0 0 [part1 0x2FC0 32] (part1 0x2FC8 32))) 0 := by
  unfold Ready AsksNone; decide +kernel

/-- StringScans: two operands of 64 bytes to the end of their block. -/
theorem meets_StringScans :
    let s := regsOf [0x2FC0, 0x3000, 32] demo
    let u := markParts s 0 (part1 0x1000 4)
    Ready s 0 0 4 (part1 0x1000 4) ∧ (s.bank 0 0).part = false ∧ (s.g 0 0 3).toNat % 2 ^ 32 = 32 ∧
      checkRange u 0 0 .read 0x2FC0 32 = .ok (part1 0x2FC0 32) ∧ checkRange u 0 0 .read 0x3000 32 = .ok (part1 0x3000 32) ∧
      checkRange u 0 0 .read 0x3000 256 = .ok (part1 0x3000 256) ∧ checkRange u 0 0 .write 0 0 = .ok [] ∧
      strLen (scanUp 0 (part1 0x2FC0 32) (part1 0x3000 256) 32 0
        (markStep u 0 0 [part1 0x2FC0 32, part1 0x3000 256] [])).2 0 0 3 ≠ 0 ∧
      AsksNone (scanUp 0 (part1 0x2FC0 32) (part1 0x3000 32) 32 0
        (markStep u 0 0 [part1 0x2FC0 32, part1 0x3000 256] [])).2 0 ∧
      AsksNone (compareUp 0 (part1 0x2FC0 32) (part1 0x3000 32) 32 0
        (markStep u 0 0 [part1 0x2FC0 32, part1 0x3000 32] [])).2 0 := by
  unfold Ready AsksNone; decide +kernel

/-- ConvertAndEdit, SCVU: a run of no bytes; two bytes which the table at 0x3000 converts, to one and to two bytes of UTF-8;
and a run whose first byte the table does not convert. -/
theorem meets_ConvertAndEdit_scvu :
    let s := (((((regsOf [0x2100, 0x2000, 2, 0x3000, 0] demo).wr 0x2000 [1, 2]).wr 0x3001 [65, 0xE9]).wr 0x3200 [6]))
    let u := markParts s 0 (part1 0x1000 4)
    let rs := part1 0x2000 2
    let ts := part1 0x3000 576
    let m := markStep u 0 0 [rs, ts] []
    let char (v : State) (i : Nat) : Byte × State := byteAt v 0 rs i
    let valid (v : State) (i : Nat) : Byte × State := byteAt (char v i).2 0 ts (512 + (char v i).1.toNat / 8)
    let point (v : State) (i : Nat) : Byte × State := byteAt (valid v i).2 0 ts (char v i).1.toNat
    let isValid (v : State) (i : Nat) : Bool := (valid v i).1.getLsbD ((char v i).1.toNat % 8)
    let put (x : Nat × State) (i : Nat) : Nat × State :=
      let q := point x.2 i
      match checkRange q.2 0 0 .write ((0x2100 + x.1) % 2 ^ 64) (utf8Small q.1.toNat).length with
      | .ok ds => (x.1 + (utf8Small q.1.toNat).length, storeParts q.2 0 0 ds (utf8Small q.1.toNat))
      | .error _ => x
    let upTo (i : Nat) : Nat × State := (List.range i).foldl put (0, m)
    let bad := markStep (u.wr 0x3200 [4]) 0 0 [rs, ts] []
    Ready s 0 0 4 (part1 0x1000 4) ∧ (s.bank 0 0).part = false ∧ (s.g 0 0 3).toNat % 2 ^ 32 = 2 ∧
      (s.g 0 0 5).toNat % 2 ^ 32 = 0 ∧
      checkRange u 0 0 .read 0x2000 2 = .ok rs ∧ checkRange u 0 0 .read 0x3000 576 = .ok ts ∧
      checkRange u 0 0 .write 0 0 = .ok [] ∧
      (∀ i, i < 2 → isValid (upTo i).2 i = true ∧
        (checkRange (point (upTo i).2 i).2 0 0 .write ((0x2100 + (upTo i).1) % 2 ^ 64)
          (utf8Small (point (upTo i).2 i).1.toNat).length).isOk = true ∧
        (0 < i → 0x100 + (upTo i).1 + (utf8Small (point (upTo i).2 i).1.toNat).length ≤ 4096)) ∧
      (upTo 2).1 = 3 ∧ AsksNone (upTo 2).2 0 ∧ coreRead (upTo 2).2 0 0x2100 3 = [65, 0xC3, 0xA9] ∧
      isValid bad 0 = false ∧ AsksNone (valid bad 0).2 0 := by
  unfold Ready AsksNone; decide +kernel

/-- ConvertAndEdit, SCVS: the two bytes of U+00E9, which the table at 0x3000 holds as 0x51. -/
theorem meets_ConvertAndEdit_scvs :
    let s := (((regsOf [0x2100, 0x2000, 2, 0x3000] demo).wr 0x2000 [0xC3, 0xA9]).wr 0x31E9 [0x51]).wr 0x323D [2]
    let u := markParts s 0 (part1 0x1000 4)
    let rs := part1 0x2000 2
    let ts := part1 0x3000 576
    let m := markStep u 0 0 [rs, ts] []
    let char (v : State) (i : Nat) : Byte × State := byteAt v 0 rs i
    let seq := (List.range 1).foldl (fun (x : List Nat × State) j =>
      let y := byteAt x.2 0 rs (1 + j)
      (x.1 ++ [y.1.toNat], y.2)) ([(char m 0).1.toNat], (char m 0).2)
    let ok := byteAt seq.2 0 ts (544 + 0xE9 / 8)
    let o := byteAt ok.2 0 ts (256 + 0xE9)
    Ready s 0 0 4 (part1 0x1000 4) ∧ utf8Len (char m 0).1.toNat = 2 ∧ utf8Len (char u 0).1.toNat = 2 ∧
      utf8Decode seq.1 = some 0xE9 ∧ ok.1.getLsbD (0xE9 % 8) = true ∧ o.1 = 0x51 ∧
      checkRange o.2 0 0 .write 0x2100 1 = .ok (part1 0x2100 1) ∧
      AsksNone (storeParts o.2 0 0 (part1 0x2100 1) [o.1]) 0 := by
  unfold Ready AsksNone; decide +kernel

/-- ConvertAndEdit, EDIT: a whole picture over the packed number 12. -/
theorem meets_ConvertAndEdit_edit :
    let s := ((regsOf [0x2100, 0x2000, 0x2040] demo).wr 0x2000 (bytesOf [2, 0, 4, 0x24, 2, 5, 0x2C, 1, 6, 1, 8, 0])).wr 0x2040
      (bytesOf [0x12, 0x3C])
    let u := markParts s 0 (part1 0x1000 4)
    (match readPicture u 0 0 0x2000 with
     | .ok (p, v) =>
        let codes := p.codes.dropLast
        let rs := part1 0x2040 2
        let start : EditRun × State :=
          ({ d := 0x2100, pad := if p.cset = 0 then 0x20 else 0x40, digits := digitsOf 3 123, taken := 0, started := false },
            (readParts v 0 rs).2)
        let act (r : EditRun × State) (y : PicCode) : EditRun × State :=
          let o := y.act p.cset false r.1
          match checkRange r.2 0 0 .write r.1.d o.1.length with
          | .ok ds => ({ o.2 with d := (r.1.d + o.1.length) % 2 ^ 64 }, storeParts r.2 0 0 ds o.1)
          | .error _ => r
        let upTo (i : Nat) : EditRun × State := (codes.take i).foldl act start
        (p.codes.getLast?.map PicCode.code == some 0) && codes.all (fun y => y.code != 0) &&
          (p.codes.all fun y => decide (2 ≤ y.off)) && (p.codes.any fun y => y.off == 2) && p.len == 2 &&
          decide (checkRange v 0 0 .read 0x2040 2 = .ok rs) && decide (readPacked (readParts v 0 rs).1 = some ⟨false, 123⟩) &&
          ((List.range codes.length).all fun i => match codes[i]? with
            | some y => (checkRange (upTo i).2 0 0 .write (upTo i).1.d (y.act p.cset false (upTo i).1).1.length).isOk
            | none => true) &&
          decide (((upTo codes.length).2.core 0).need = none)
     | _ => false) = true := by decide +kernel

/-! ## Exceptions and control -/

/-- ExceptionCauses: user mode, bank 15, an undefined word and CTL 13. -/
theorem meets_ExceptionCauses :
    Ready (inUser demo) 0 0 4 (part1 0x1000 4) ∧ ((inUser demo).bank 0 0).user = true ∧
      Ready (in15 demo) 0 15 4 (part1 0x1000 4) ∧ (15 : BankId) = bank15 ∧ porDecode 0 0xFFFF_FFFF 0 = none ∧
      instrBytes 0xFFFF_FFFF = 4 ∧ 0x0C < (13 : Reg).val := by
  unfold Ready; decide +kernel

/-- TrapEntry: levels 0, 3 and 4. -/
theorem meets_TrapEntry :
    (0 : BankId) ≠ bank15 ∧ (demo.bank 0 0).tl = 0 ∧ (((demo.core 0).applyPend 0).bank 0).tl = 0 ∧
      ((inUser demo).bank 0 0).tl = 3 ∧ (((inUser demo).core 0).applyPend 0 |>.bank 0).tl = 3 ∧
      ((bank0 (fun x => { x with status := 0x400 }) demo).bank 0 0).tl = 4 := by decide +kernel

/-- TrapReturn: levels 0, 1 and 4, and bank 15. -/
theorem meets_TrapReturn :
    let s1 := bank0 (fun x => { x with status := 0x100 }) demo
    let s4 := bank0 (fun x => { x with status := 0x400 }) demo
    Ready s1 0 0 4 (part1 0x1000 4) ∧ (s1.bank 0 0).user = false ∧ (s1.bank 0 0).tl = 1 ∧ (demo.bank 0 0).tl = 0 ∧
      (demo.bank 0 0).user = false ∧ (((s4.core 0).applyPend 0).bank 0).tl = 4 ∧
      Ready (in15 demo) 0 15 4 (part1 0x1000 4) ∧ ((in15 demo).bank 0 15).user = false ∧ (0 : BankId) ≠ bank15 ∧
      ((in15 demo).core 0).b15 = some { bank := 0, resume := 0x44, cause := 0x10, mcycles := 0, usedF := false, usedD := false } ∧
      ((in15 demo).bank 0 bank15).pend = [] := by
  unfold Ready; decide +kernel

/-- Core 1 holds a store that it translated under an entry which core 0 has invalidated. -/
def owing : State := demo.modCore 1 fun k => { k with sq := [{ queued with via := { via0 with inval := [0] } }] }

/-- FencesAndSync: no posted store, one posted store, and ordinary queued stores. -/
theorem meets_FencesAndSync :
    let s := demo.modCore 0 fun k => { k with posted := [{ req := some 1, va := 2, via := via0 }] }
    let q := demo.modCore 0 fun k => { k with sq := [queued] }
    Ready s 0 0 4 (part1 0x1000 4) ∧ ((drainAll (fetched demo 0 0 (part1 0x1000 4)) 0).core 0).posted = [] ∧
      ((drainAll (fetched s 0 0 (part1 0x1000 4)) 0).core 0).posted ≠ [] ∧
      AsksNone (drainAll (fetched s 0 0 (part1 0x1000 4)) 0) 0 ∧
      (∀ e ∈ (q.core 0).sq, e.dev = false ∧ (e.cells.map fun p => p.1).Nodup) ∧ (demo.bank 0 0).user = false ∧
      (∀ d : CoreId, (demo.core d).owes 0 = false) ∧ ((owing.core 1).owes 0 = true) ∧ Ready owing 0 0 4 (part1 0x1000 4) := by
  unfold Ready AsksNone; decide +kernel

/-- ControlRegisters: the numbers 0 and 12, what user mode may and may not do, AN, and no pending write. -/
theorem meets_ControlRegisters :
    ctlOf 0 = some .status ∧ (ctlOf 12).isSome = true ∧ Ctl.userRead .status = true ∧ Ctl.userWrite .fpctl = true ∧
      Ctl.userRead .tvec = false ∧ Ctl.userWrite .tvec = false ∧ Ctl.tvec ≠ .an ∧ (demo.bank 0 0).pend = [] := by
  decide +kernel

/-- TlbInstructions: supervisor mode, an entry that matches an address, and no match. -/
theorem meets_TlbInstructions :
    let m := (demo.core 0).writeTlb 127 0x7 0xC000_0000_0000_503F
    let e := m.tlb[(127 : Fin 128)]
    Ready demo 0 0 4 (part1 0x1000 4) ∧ (demo.bank 0 0).user = false ∧ e.hits 0x7123 0 = true ∧ m.tlbHits 0x7123 0 = [127] ∧
      canonical 0x7123 = true ∧ m.tlbHits 0x9000 0 = [] := by
  unfold Ready; decide +kernel

/-- StorageKeys: frames with and without a key, an MPU_SKEY and an FKSET that wait. -/
theorem meets_StorageKeys :
    let s := { demo with skey := some (0x5000, 9) }
    let f := demo.modCore 0 fun k => { k with wait := some (.fkset 0x5000 9) }
    Ready demo 0 0 4 (part1 0x1000 4) ∧ (demo.bank 0 0).user = false ∧ keyed 0x2000_0000_5000 = true ∧
      keyed 0x8000_0000_1234 = false ∧ demo.skey = none ∧ s.skey = some (0x5000, 9) ∧ keyed 0x5000 = true ∧ f.skey = none ∧
      waitingFkset f = some (0, 0x5000, 9) ∧ (f.core 0).cur = some 0 := by
  unfold Ready; decide +kernel

/-! ## Decimal -/

/-- Operands 1 and 2 of the long format: at G1, 2 bytes, and at G2, 3 bytes. -/
def opA : MOp := { base := 1, disp := 0, lf := 1 }
/-- Operand 2. -/
def opB : MOp := { base := 2, disp := 0, lf := 2 }
/-- A packed source or both. -/
def dop (a n : Nat) (u : Use) : DOp := { addr := a, len := n, use := u, zoned := false }
/-- 999 at G1 and a number at G2. -/
def packed (b : List Byte) : State := ((regsOf [0x2000, 0x2100] demo).wr 0x2000 [0x99, 0x9C]).wr 0x2100 b

/-- DecimalArithmetic: 999 with 45 (a sum of too many digits, with DOT), with 0, and with an invalid operand. -/
theorem meets_DecimalArithmetic :
    let s := packed [0x00, 0x04, 0x5C]
    let u := fetched s 0 0 (part1 0x1000 8)
    Ready s 0 0 8 (part1 0x1000 8) ∧
      checkOps u 0 0 [dop 0x2000 2 .both, dop 0x2100 3 .src] = .ok [part1 0x2000 2, part1 0x2100 3] ∧
      checkOps u 0 0 [dop 0x2000 2 .src, dop 0x2100 3 .src] = .ok [part1 0x2000 2, part1 0x2100 3] ∧
      (readDop u 0 (dop 0x2000 2 .both) (part1 0x2000 2)).1 = some ⟨false, 999⟩ ∧
      (readDop u 0 (dop 0x2100 3 .src) (part1 0x2100 3)).1 = some ⟨false, 45⟩ ∧ dDot (s.bank 0 0).dctl = true ∧
      (readDop (packed [0, 0, 0x0C]) 0 (dop 0x2100 3 .src) (part1 0x2100 3)).1 = some ⟨false, 0⟩ ∧
      (readDop (packed [0xAA, 0, 0x0C]) 0 (dop 0x2100 3 .src) (part1 0x2100 3)).1 = none ∧ 0xA0 ≤ (0xA0 : Byte).toNat ∧
      (([0x12, 0x33] : List Byte).getLastD 0).toNat % 16 < 0xA ∧
      AsksNone (storeParts (readDop u 0 (dop 0x2000 2 .both) (part1 0x2000 2)).2 0 0 (part1 0x2000 2)
        (writePacked 2 false (Dec.ofInt 1044))) 0 := by
  unfold Ready AsksNone; decide +kernel

/-- DecimalCopies: a packed source into a packed and a zoned destination, and shifts both ways. -/
theorem meets_DecimalCopies :
    let s := packed [0x00, 0x04, 0x5C]
    let u := fetched s 0 0 (part1 0x1000 8)
    let z : DOp := { addr := 0x2100, len := 3, use := .dst, zoned := true }
    Ready s 0 0 8 (part1 0x1000 8) ∧
      checkOps u 0 0 [dop 0x2000 2 .dst, dop 0x2100 3 .src] = .ok [part1 0x2000 2, part1 0x2100 3] ∧
      (readDop u 0 (dop 0x2100 3 .src) (part1 0x2100 3)).1 = some ⟨false, 45⟩ ∧
      checkOps u 0 0 [z, dop 0x2000 2 .src] = .ok [part1 0x2100 3, part1 0x2000 2] ∧
      (readDop u 0 (dop 0x2000 2 .src) (part1 0x2000 2)).1 = some ⟨false, 999⟩ ∧
      checkOps u 0 0 [dop 0x2000 2 .src] = .ok [part1 0x2000 2] ∧ checkOps u 0 0 [dop 0x2000 2 .dst] = .ok [part1 0x2000 2] ∧
      0 ≤ (63 : BitVec 7).toInt ∧ (0x41 : BitVec 7).toInt < 0 ∧ (0x41 : BitVec 7) ≠ 0x40 := by
  unfold Ready; decide +kernel

/-- DecimalCopies, PACKZ: a zoned source of three digits. -/
theorem meets_DecimalCopies_zoned :
    let s := packed [0x31, 0x32, 0x33]
    let u := fetched s 0 0 (part1 0x1000 8)
    let z : DOp := { addr := 0x2100, len := 3, use := .src, zoned := true }
    checkOps u 0 0 [dop 0x2000 2 .dst, z] = .ok [part1 0x2000 2, part1 0x2100 3] ∧
      (readDop u 0 z (part1 0x2100 3)).1 = some ⟨false, 123⟩ := by decide +kernel

/-- Accumulators: a valid and an invalid accumulator; a set that another bound context owns; and one used before. -/
theorem meets_Accumulators :
    let s := packed [0x00, 0x04, 0x5C]
    let u := lazyD (fetched s 0 0 (part1 0x1000 8)) 0 0
    let bad := demo.modCore 0 fun k => { k with da := Vector.replicate 8 0, dOwner := some 0 }
    let own := demo.modCore 0 fun k => { k.modBank 1 (fun x => { x with ctx := some ctx0 }) with
      fOwner := some 1, dOwner := some 1 }
    let used := bank0 (fun x => { x with ctx := some { ctx0 with usedF := true } }) demo
    Ready s 0 0 8 (part1 0x1000 8) ∧ checkOps u 0 0 [dop 0x2100 3 .src] = .ok [part1 0x2100 3] ∧
      checkOps u 0 0 [dop 0x2100 3 .dst] = .ok [part1 0x2100 3] ∧
      (readDop u 0 (dop 0x2100 3 .src) (part1 0x2100 3)).1 = some ⟨false, 45⟩ ∧ readDa u 0 7 = some ⟨false, 0⟩ ∧
      readDa (lazyD bad 0 0) 0 0 = none ∧ (own.core 0).fOwner = some 1 ∧ (own.core 0).dOwner = some 1 ∧
      (own.core 0).bound 1 = true ∧ (own.core 0).usedF 0 = false ∧ (own.core 0).usedD 0 = false ∧
      (used.core 0).fOwner ≠ some 0 ∧ (used.core 0).usedF 0 = true ∧ (used.core 0).fOwner = none := by
  unfold Ready; decide +kernel

/-! ## Transactions -/

/-- A program's budgets. -/
def pd0 : Budget :=
  { entry := 0x4000, asid := 5, key := 3, cls := 1, cycles := 100, blockNs := 1000, pkeNs := 500, symNs := 600, cryptOps := 2,
    ldgOps := 3, remoteOps := 1, scratchKib := 4, declineTpl := 0 }
/-- A transaction bound to bank 0 of core 0. -/
def txn0 : Txn :=
  { an := 1, deadline := 5000, tin := 10, src := .conn 0 0 7, dialect := 0, dtab := 0, prog := 2, pd := pd0, egress := 100,
    tile := 0, home := 0, slot := 0, bkt := 0, si := false, typeKey := [], msg := [1, 2, 3], reqPa := 0x2000_0010_0000,
    reqLen := 16, rspPa := 0x2000_0020_0000, rspImage := [9, 9], g1 := 11, g2 := 22, phase := .bound 0 0, owner := .owned,
    run := 0, counted := 0, replays := 0, remCyc := 50, remPke := 1, remSym := 2, nCrypt := 0, nLdg := 0, nRemote := 0,
    declPke := 0, declSym := 0, wlog := [], jsn := none, rsp := none, code := 0, mirrored := false, tpl := none }
/-- A transaction that waits in tile 0's queue. -/
def txn2 : Txn := { txn0 with an := 2, deadline := 100, phase := .queued, owner := .ended }
/-- The state with these transactions. -/
def withT (l : List Txn) (s : State) : State := { s with txns := l }
/-- Core 0 in service in an island that runs. -/
def up : State := (demo.setReg (Off.ERR_CORE_MAP 0) 0xFFFF_FFFF_FFFF_FFFF).setF (Fld.PWR_ISL_STATUS_STATE 0) 2
/-- Every bank of tile 0 bound to a transaction of later priority. -/
def full : State :=
  withT [txn0, txn2, { txn0 with an := 3, deadline := 9000, phase := .bound 0 1 }]
    ((List.range 4).foldl (fun s j => s.modCore ⟨j % 4, by omega⟩ fun k =>
      { k with banks := k.banks.map fun b => { b with ctx := some { ctx0 with an := 3 } } }) up)

/-- Binding: a free bank, and no free bank but one that can be wounded. -/
theorem meets_Binding :
    let s := withT [txn0, txn2] up
    (queueHead s 0 = some txn2 ∧ (bindPlace s 0).isSome = true) ∧
      queueHead full 0 = some txn2 ∧ bindPlace full 0 = none ∧
      (match bankVictim full 0 txn2 with
       | some v => (bindPlace (endRun (full.bump Off.LDG_WOUND_CNT) v.an .countedReplay) 0).isSome
       | none => false) = true := by
  decide +kernel

/-- RunEnds: an owned transaction below and at REPLAY_MAX, and a transaction not owned. -/
theorem meets_RunEnds :
    let s := withT [txn0, txn2, { txn0 with an := 4, counted := 7 }] (up.setF Fld.LDG_CTRL_REPLAY_MAX 7)
    s.txn? 1 = some txn0 ∧ txn0.counted < s.getF Fld.LDG_CTRL_REPLAY_MAX ∧ s.txn? 4 = some { txn0 with an := 4, counted := 7 } ∧
      s.getF Fld.LDG_CTRL_REPLAY_MAX ≤ 7 ∧ txn0.owner = .owned ∧ txn0.run = 0 ∧ s.txn? 2 = some txn2 ∧ txn2.owner ≠ .owned ∧
      txn2.run ≠ 1 := by
  decide +kernel

/-- A second context, in bank 1, of earlier priority. -/
def two : State :=
  withT [txn0, { txn0 with an := 2, deadline := 100, phase := .bound 0 1 }] (up.modCore 0 fun k =>
    (k.modBank 0 fun b => { b with deadline := 5000, an := 1 }).modBank 1 fun b =>
      { b with ctx := some { ctx0 with an := 2, mcycles := 200000 }, deadline := 100, an := 2 })
/-- Bank 15 of core 0 current on behalf of bank 0, past its bound. -/
def in15b : State :=
  two.modCore 0 fun k =>
    { (k.modBank 15 fun b => { b with pc := 0x1000, status := 0x400 }) with
      cur := some 15, b15 := some { bank := 0, resume := 0x44, cause := 0x14, mcycles := 10000000, usedF := false, usedD := false } }

/-- CallerEvents: a context of earlier priority, a timer at its time, a ledger request out with a machine check and a
wound for it, a budget passed, and a deadline reached at the cut-off. -/
theorem meets_CallerEvents :
    let c1 : Ctx := { ctx0 with an := 2, mcycles := 200000 }
    let tim : State := { two.modBank 0 1 fun b => { b with ctx := some { c1 with block := some (.timer 5) } } with devtime := 5 }
    let out : State := { two.modBank 0 1 fun b => { b with ctx := some { c1 with block := some .ledger } } with
      mchks := [(2, 0)], ldg := { two.ldg with wounds := [(2, 0)] } }
    let t2 : Txn := { txn0 with an := 2, deadline := 100, phase := .bound 0 1 }
    ((two.core 0).cur = some 0 ∧ (two.core 0).best = some 1 ∧ (two.core 0).wait = none ∧ (two.core 0).svc = .inService ∧
      ((two.core 0).bank 1).before ((two.core 0).bank 0) = true) ∧
    ((tim.bank 0 1).ctx = some { c1 with block := some (.timer 5) } ∧ 5 ≤ tim.now) ∧
    ((out.bank 0 1).ctx = some { c1 with block := some .ledger } ∧ requestOut out 0 1 { c1 with block := some .ledger } = true ∧
      out.mchks.contains (2, 0) = true ∧ out.ldg.wounds.contains (2, 0) = true ∧ out.txn? 2 = some t2) ∧
    ((two.bank 0 1).ctx = some c1 ∧ two.txn? 2 = some t2 ∧ t2.owner = .owned ∧ t2.run = c1.run ∧
      t2.pd.cycles * 1000 < c1.mcycles ∧ (two.core 0).b15 = none) ∧
    (t2.undecided = true ∧ t2.jsn = none ∧ t2.deadline ≤ two.now + t2.egress) := by
  decide +kernel

/-- CallerEvents, bank 15: at its bound, and ready for QUAR. -/
theorem meets_CallerEvents_bank15 :
    (in15b.core 0).cur = some bank15 ∧
      (in15b.core 0).b15 = some { bank := 0, resume := 0x44, cause := 0x14, mcycles := 10000000, usedF := false, usedD := false } ∧
      Ready in15b 0 bank15 4 (part1 0x1000 4) ∧ (in15b.bank 0 bank15).user = false ∧ 0x0B ≠ poisonCause ∧
      (in15b.bank 0 0).ctx = some ctx0 ∧ in15b.txn? 1 = some txn0 := by
  unfold Ready; decide +kernel

/-- Blocking: a current context in service, an idle core and one that is not. -/
theorem meets_Blocking :
    (0 : BankId) ≠ bank15 ∧ (two.bank 0 0).ctx = some ctx0 ∧ Ready two 0 0 4 (part1 0x1000 4) ∧ (two.core 0).sq = [] ∧
      two.txn? 1 = some txn0 ∧ (two.core 0).cur = some 0 ∧ (two.core 0).svc = .inService ∧
      ((two.modCore 0 fun k => { k with cur := none }).core 0).cur = none := by
  unfold Ready; decide +kernel

/-- PipelineEvents: a queue with room, a fetch that is refused, posted stores, and a control-store word. -/
theorem meets_PipelineEvents :
    let s := up.modCore 0 fun k => { k with posted := [{ req := some 1, va := 2, via := via0 }] }
    let f := up.modBank 0 0 fun b => { b with pc := 0xFF_0000_0000_0000 }
    readyBank s 0 = some 0 ∧ fetchBank s 0 = some 0 ∧ (s.core 0).port = false ∧ accessBank s 0 = some 0 ∧
      (s.core 0).wait = none ∧ (s.core 0).pq.length < 4 ∧ s.getF Fld.MPU_STATUS_DRAINING ≠ 1 ∧ (s.core 0).pq.getLast? = none ∧
      checkPart s 0 0 .fetch 0x1000 16 = .ok (ph 0x1000) ∧ (s.core 0).posted = { req := some 1, va := 2, via := via0 } :: [] ∧ fetchBank f 0 = some 0 ∧
      (match checkPart f 0 0 .fetch 0xFF_0000_0000_0000 16 with | .error _ => true | .ok _ => false) = true ∧
      16383 < 16384 ∧ (s.core 0).svc = .inService := by
  decide +kernel

/-- PipelineEvents: a fetch through a remote window that no answer has come for, and one whose bytes have come; and a core
that an access has held since, with the port taken. -/
theorem meets_PipelineEvents_window :
    let w := (up.setF (Fld.KOL_WIN_VALID 0) 1).modBank 0 0 fun b => { b with pc := 0x4000_0001_0000 }
    let p := ph 0x4000_0001_0000
    let got := w.modCore 0 fun k => { k with win := (List.range 16).map fun i => (0x4000_0001_0000 + i, (7 : Byte)) }
    checkPart w 0 0 .fetch 0x4000_0001_0000 16 = .ok { p with dev := true } ∧
      (match windowHave (w.core 0) p 16 with | .error n => n.size == 8 | .ok _ => false) = true ∧
      windowHave (got.core 0) p 16 = .ok (List.replicate 16 7) ∧ (w.core 0).wait = none ∧
      targetOf p.pa = .window 0 0x10000 ∧ fetchBank w 0 = some 0 ∧
      ((up.modCore 0 fun k => { k with port := true }).core 0).port = true := by
  decide +kernel

/-! ## The ledger -/

/-- Bench 3's descriptor: base 0x20000, index 0x30000, 8 slots, keys of 8 bytes and records of 512. -/
def bdesc : List Byte :=
  leBytes 8 0x20000 ++ leBytes 8 0x30000 ++ leBytes 4 8 ++ bytesOf [0, 8, 1, 0, 2, 0] ++ zeros 6 ++ leBytes 8 7 ++ leBytes 8 9 ++ zeros 16
/-- A key. -/
def kbytes : List Byte := bytesOf [1, 2, 3, 4, 5, 6, 7, 8]
/-- The ledger unit with bench 3, and registers for its instructions. -/
def bst : State :=
  withT [txn0] (((((regsOf [0x2000, 0x2100, 3, 0x41, 0x145] demo).setF Fld.LDG_BTAB_BASE 0x10).wr (0x10000 + 192) bdesc).wr
    0x2100 kbytes).setF Fld.LDG_CTRL_ENABLE 1)
/-- The hash of the key. -/
def kh : Nat := (bst.bench 3).hashOf kbytes
/-- Bench 3 with a record of the key in slot 2. -/
def bstRec : State :=
  setBitmap (((placeEntry bst (bst.bench 3) kh (indexEntry false (hashTag kh) 2)).getD bst).wr 0x20080
    ((bst.bench 3).record 3 1 kbytes [1, 2, 3])) (bst.bench 3) 2 true

/-- LedgerIssue: within the budget and beyond it. -/
theorem meets_LedgerIssue :
    let u := fetched bst 0 0 (part1 0x1000 4)
    let b := withT [{ txn0 with nLdg := 3 }] bst
    let far := fun (s : State) => decide (ownerOf s (s.bench 3) kh ≠ s.node)
    Ready bst 0 0 4 (part1 0x1000 4) ∧ ctxTxn u 0 0 = some txn0 ∧ bst.getF Fld.LDG_CTRL_ENABLE ≠ 0 ∧
      (bst.g 0 0 3).toNat = 3 ∧ (bst.bench 3).online = true ∧ (bst.g 0 0 1).toNat % 64 = 0 ∧
      logRoom u (logOf u txn0) 3 .stl (peekKey u 0 0 0x2100 8) = true ∧
      ledgerParts u 0 0 .stl 0x2100 0x2000 8 (bst.bench 3).recSize = .ok (part1 0x2100 8, part1 0x2000 (bst.bench 3).recSize) ∧
      overLedger txn0 (far bst) = false ∧ overLedger { txn0 with nLdg := 3 } (far b) = true ∧
      (bst.bench 1).online = false := by
  unfold Ready; decide +kernel

/-- A request of transaction 1 on the key. -/
def lreq (op : LOp) (st : LSt) : LReq :=
  { an := 1, run := 0, core := 0, bank := 0, op := op, bench := 3, hash := kh, key := kbytes, buf := [(0x2000, 64)],
    data := [5, 6, 7], akey := 0, user := false, deadline := 5000, st := st, peer := none, remote := none, sent := [] }
/-- A lock of another transaction on the key. -/
def lock2 (d : Nat) : Lock := { bench := 3, hash := kh, an := 2, run := 0, excl := true, deadline := d, node := 0, tag := 0 }
/-- The ledger with these locks and requests, and a run that ended. -/
def withL (l : List Lock) (q : List LReq) (s : State) : State :=
  { s with ldg := { s.ldg with locks := l, reqs := q, ended := [{ an := 1, run := 0, deadline := 5, tag := 0, nodes := [] }] } }

/-- LedgerLocks: a free key, a holder of later priority, and one of earlier priority. -/
theorem meets_LedgerLocks :
    let r := lreq .stl .waiting
    let free := withL [] [r] bst
    let held := withL [lock2 9000] [r] bst
    grantable free r = true ∧ grantable held r = false ∧ lock2 9000 ∈ conflicting (withL [lock2 9000] [] bst) r ∧
      older r.deadline r.an 9000 2 = true ∧ older r.deadline r.an 100 2 = false ∧ (lock2 9000).node = bst.node ∧
      r.peer = none ∧ r.remote = none := by
  decide +kernel

/-- LedgerResponses: a granted request on a key that is there and one that is not, a request that the regions refuse when it
acts, a refused request, a poisoned record. -/
theorem meets_LedgerResponses :
    let pick := fun (s : State) => s.ldg.reqs.find? fun r => r.core == 0 && r.bank == 0 && r.peer.isNone && r.remote.isNone &&
      decide (r.st ≠ .waiting) && reqLive s r
    let a := withL [] [lreq .ldl .granted] bstRec
    let p := { a with ldg := { a.ldg with poison := [0x802] } }
    let at_ := fun (s : State) => settleRun (mpuSettled (dropLReq s 1 0)) txn0
    let r := lreq .ldl .granted
    pick a = some r ∧ (mpuSettled (dropLReq a 1 0)).txn? 1 = some txn0 ∧
      refuseOp (at_ a) r.initiator 3 (logOf (at_ a) txn0) .ldl kbytes 0 = none ∧
      (refuseOp (at_ (a.setReg (Off.MPU_ACT_ATTR 0) 0)) r.initiator 3 (logOf (at_ a) txn0) .ldl kbytes 0).isSome = true ∧
      opPoisoned (at_ a) 3 (logOf (at_ a) txn0) .ldl kbytes = false ∧
      opPoisoned (at_ p) 3 (logOf (at_ p) txn0) .ldl kbytes = true ∧
      viewOf (at_ a) (logOf (at_ a) txn0) 3 kbytes = .record 2 ∧
      viewOf bst [] 3 kbytes = .absent ∧ pick (withL [] [lreq .stl .refused] bst) = some (lreq .stl .refused) ∧
      (a.ldg.ended.filter fun q => q.an == 1) = [{ an := 1, run := 0, deadline := 5, tag := 0, nodes := [] }] ∧
      bst.ldg.slots = [] ∧ bst.ldg.reqs = [] := by
  decide +kernel

/-- CommitAndAbort: the unit enabled and disabled, both reasons at the ends of their range, and a word of another form. -/
theorem meets_CommitAndAbort :
    let s := regsOf [0x40, 0x17F, 0x200] bst
    Ready s 0 0 4 (part1 0x1000 4) ∧ s.getF Fld.LDG_CTRL_ENABLE ≠ 0 ∧ ctxTxn (fetched s 0 0 (part1 0x1000 4)) 0 0 = some txn0 ∧
      (s.g 0 0 1).toNat = 0x40 ∧ (s.g 0 0 2).toNat = 0x17F ∧ 512 ≤ (s.g 0 0 3).toNat ∧ demo.getF Fld.LDG_CTRL_ENABLE = 0 := by
  unfold Ready; decide +kernel

/-! ## CRYPT -/

/-- A descriptor of an operation without a key over three bytes. -/
def cdesc (op : Nat) : List Byte :=
  bytesOf [op, 0] ++ zeros 6 ++ leBytes 8 0x2300 ++ leBytes 4 3 ++ leBytes 4 32 ++ leBytes 8 0x2400 ++ zeros 32
/-- CRYPT with G1 the descriptor's address and G2 a misaligned one. -/
def cst (op ns : Nat) : State :=
  withT [{ txn0 with pd := { pd0 with symNs := ns } }] (((((regsOf [0x2200, 0x2201] demo).wr 0x2200 (cdesc op)).wr 0x2300
    [1, 2, 3]).setF Fld.CRY_CTRL_ENABLE 1))

/-- CryptIssue: SHA-256 within the budget and beyond it, and an operation that does not exist. -/
theorem meets_CryptIssue :
    let s := cst 1 100000
    let u := fetched s 0 0 (part1 0x1000 4)
    let r := readParts u 0 (part1 0x2200 64)
    let v := markParts r.2 0 (part1 0x2200 64)
    let d := readDesc r.1
    let cost := costOf d 0 (takenModulus none d) (takenExponent v none)
    Ready s 0 0 4 (part1 0x1000 4) ∧ s.getF Fld.CRY_CTRL_ENABLE ≠ 0 ∧ (s.g 0 0 1).toNat % 64 = 0 ∧
      checkRange u 0 0 .read 0x2200 64 = .ok (part1 0x2200 64) ∧ checkRange u 0 0 .write 0x2200 64 = .ok (part1 0x2200 64) ∧
      v.keyOf 0 d.key1 = none ∧ descOk d 0 (takenModulus none d) = true ∧ descOk (readDesc (cdesc 0x7F)) 0 0 = false ∧
      (match checkBuffers v 0 0 d with | .ok _ => true | .error _ => false) = true ∧
      ctxTxn v 0 0 = some { txn0 with pd := { pd0 with symNs := 100000 } } ∧
      overCrypto { txn0 with pd := { pd0 with symNs := 100000 } } (opEngine d.op) cost = false ∧
      overCrypto { txn0 with pd := { pd0 with symNs := 0 } } (opEngine d.op) cost = true ∧ (s.g 0 0 2).toNat % 64 ≠ 0 ∧
      demo.getF Fld.CRY_CTRL_ENABLE = 0 := by
  unfold Ready; decide +kernel

/-! ## The network -/

/-- A connection's table entry. -/
def ent : List Byte :=
  patch (patch (patch (patch (patch (patch (patch (zeros 128) 0 [1]) 8 (leBytes 2 100)) 0x60 [1]) 0x10 (bytesOf [5, 6, 7, 8]))
    0x20 (bytesOf [1, 2, 3, 4])) 0x0C (leBytes 2 2000)) 0x0E (leBytes 2 1000)
/-- A connection with data to send and a retransmission timer that has run out. -/
def conn0 : Conn :=
  { newConn State.reset 5 ent with
    tcp := { newTcp State.reset ent with una := 100, nxt := 150, max_ := 200, cwnd := 1000, wnd := 500, rtoAt := some 50, rto := 1000, closedAt := none },
    sbuf := bytesOf (List.range 120), rcv := 7 }
/-- A response for that connection. -/
def rsp0 : NRsp := { rsp := [1, 2], an := 1, jsn := 1, deadline := 100, reason := 0, at_ := 0, stalled := false, endSeq := none }
/-- The state with these connections. -/
def withC (l : List Conn) (s : State) : State := { s with net := { s.net with conns := l } }
/-- Port 0 up. -/
def net0 : State :=
  { (((demo.setF (Fld.NET_PORT_STATUS_LINK_UP 0) 1).setF Fld.NET_CTRL_ENABLE 1).setF (Fld.PWR_ISL_STATUS_STATE 38) 2) with
    devtime := 100000000000 }

/-- A frame with its FCS. -/
def fcs (b : List Byte) : List Byte := b ++ leBytes 4 (ethFcs b)
/-- An Ethernet frame of a type. -/
def eth (ty : Nat) (b : List Byte) : List Byte := bytesOf [1, 2, 3, 4, 5, 6, 7, 8, 9, 10, 11, 12] ++ beBytes 2 ty ++ b
/-- An IPv4 RST segment at sequence number 7 (RFC 791, RFC 9293), with these destination octets and right checksums. -/
def rst (dst : List Byte) : List Byte :=
  let h (ck : Nat) := bytesOf [0x45, 0] ++ beBytes 2 40 ++ zeros 4 ++ bytesOf [64, 6] ++ beBytes 2 ck ++ bytesOf [1, 2, 3, 4] ++ dst
  let t (ck : Nat) := beBytes 2 1000 ++ beBytes 2 2000 ++ beBytes 4 7 ++ beBytes 4 100 ++ bytesOf [0x50, 4] ++ beBytes 2 50 ++
    beBytes 2 ck ++ zeros 2
  h (inetSum (h 0)) ++ t (inetSum (bytesOf [1, 2, 3, 4] ++ dst ++ bytesOf [0, 6] ++ beBytes 2 20 ++ t 0))

/-- NetworkPorts: a wrong FCS, PAUSE, a checksum error, a segment of no connection, and a RST of a connection. -/
theorem meets_NetworkPorts :
    let s := withC [conn0] net0
    let ok := rst (bytesOf [5, 6, 7, 8])
    leNat ((eth 0x0800 ok).drop ((eth 0x0800 ok).length - 4)) ≠ ethFcs ((eth 0x0800 ok).take ((eth 0x0800 ok).length - 4)) ∧
      portServes s 0 = true ∧ 18 ≤ (fcs (eth 0x0800 ok)).length ∧
      leNat ((fcs (eth 0x0800 ok)).drop 54) = ethFcs (eth 0x0800 ok) ∧ fldBe (eth 0x0800 ok) 12 2 = 0x0800 ∧
      (eth 0x0800 ok).length ≤ s.getF (Fld.NET_PORT_MTU 0) + 14 ∧
      fldBe (eth 0x8808 (beBytes 2 1)) 12 2 = 0x8808 ∧ fldBe (beBytes 2 1) 0 2 = 1 ∧ s.getF Fld.NET_CTRL_PTP_EN ≠ 1 ∧
      readIpv4 (patch ok 13 [0x44]) = .bad ∧
      (match readIpv4 (rst (bytesOf [5, 6, 7, 9])) with | .seg x => (connOf s 0 x).isNone | _ => false) = true ∧
      (match readIpv4 ok with
       | .seg x => (connOf s 0 x).isSome && !x.odd && acceptable conn0 x (recvWindow s conn0) && x.flags.testBit 2
       | _ => false) = true := by
  decide +kernel

/-- HIF in PCIe mode with ring `r` running over memory from 0x8000_0040_0000, one entry ahead of the device. -/
def ringOn (r : RingId) (s : State) : State :=
  ((((((s.setF Fld.HIF_CTRL_ENABLE 1).setF Fld.HIF_STATUS_MODE 1).setF Fld.HIF_STATUS_BME 1).setF (Fld.HIF_RING_STATE_RUN r.val) 1).setF
    (Fld.HIF_RING_BASE_BASE r.val) 0x400).setF (Fld.HIF_RING_CFG_LOG2SIZE r.val) 6).modRing r fun x => { x with prod := x.cons + 1 }

/-- A transmit descriptor: 60 bytes at 0x8000_0050_0000 on PORT.0. -/
def txd (port : Nat) : List Byte := bytesOf [port, 0, 60, 0] ++ zeros 4 ++ leBytes 8 0x500000 ++ zeros 48

/-- NetworkPorts, TXQ_TRANSMIT: a valid descriptor in TXQ, and one of a port that does not exist. -/
theorem meets_NetworkPorts_transmit :
    let s := ringOn ringTXQ net0
    let v := hostPuts s ringTXQ (txd 0)
    let w := hostPuts s ringTXQ (txd 9)
    ringHasEntry v ringTXQ = true ∧ islandRead v .hif (slotPa v ringTXQ (v.ring ringTXQ).cons) 64 = (some (txd 0), v) ∧
      txDescOk v (txd 0) = true ∧ ringRuns (sendHostFrame v (txd 0)) ringTXQ = true ∧ ringHasEntry w ringTXQ = true ∧
      islandRead w .hif (slotPa w ringTXQ (w.ring ringTXQ).cons) 64 = (some (txd 9), w) ∧ txDescOk w (txd 9) = false ∧
      ringRuns (w.bump Off.HIF_RINGERR_CNT) ringTXQ = true := by
  decide +kernel

/-- NetworkPorts, PORT_LINK_UP and PORT_FAIL: a port that MODE groups; the partner up and down. -/
theorem meets_NetworkPorts_failover :
    let s := (net0.setF (Fld.NET_PORT_STATUS_LINK_UP 1) 1).setF Fld.NET_CTRL_FAILOVER_EN 1
    portGrouped s 0 = true ∧ s.getF (Fld.NET_PORT_STATUS_LINK_UP 0) = 1 ∧ portLinkUp s (partner 0) = true ∧
      standinService s = false ∧ s.getF Fld.NET_CTRL_FAILOVER_EN = 1 ∧ portLinkUp net0 (partner 0) = false ∧
      net0.getF (Fld.NET_PORT_STATUS_LINK_UP 3) ≠ 1 ∧ RefClk.eth ∉ s.pwr.clkLost ∧
      (portGrouped s 3 = false ∧
        RefClk.eth ∈ ({ s with pwr := { s.pwr with clkLost := [.eth] } } : State).pwr.clkLost) := by
  decide +kernel

/-- ConnectionEvents: the last retry and the one before it, an acknowledgement due, a closed window past its probe and its
limit, a drained connection, and a connection that sends next. -/
theorem meets_ConnectionEvents :
    let last : Conn := { conn0 with
      tcp := { conn0.tcp with tries := 20, closedAt := some 3, probeAt := 7 }, rsps := [rsp0], ackAt := some 4 }
    let dr : Conn := { conn0 with st := .draining 4, sbuf := [], tcp := { conn0.tcp with nxt := 100, max_ := 100 } }
    let s := withC [last] net0
    let f := withC [conn0] net0
    s.open? 5 = some last ∧ f.open? 5 = some conn0 ∧ 50 ≤ s.now ∧ s.getF Fld.NET_TCP_RETRIES ≤ last.tcp.tries + 1 ∧
      conn0.tcp.tries + 1 < s.getF Fld.NET_TCP_RETRIES ∧ last.ackAt = some 4 ∧ last.tcp.closedAt = some 3 ∧
      last.tcp.probeAt ≤ s.now ∧ last.sbuf ≠ [] ∧ rekeyOver last = false ∧
      3 + 1000000 * s.getF Fld.NET_STALL_PERSIST_MAX_MS < s.now ∧
      ((withC [dr] net0).open? 5 = some dr ∧ inflight (withC [dr] net0) dr = 0 ∧ dr.rsps = []) ∧ portLinkUp f 0 = true ∧
      nextSender f 0 = some conn0 ∧ rekeyOver (readyToSend f conn0) = false ∧
      ((noteRekey f (readyToSend f conn0)).conn? (readyToSend f conn0).h (readyToSend f conn0).gen).isSome = true ∧
      conn0.msgs = [] ∧ f.getF Fld.MPU_STATUS_DRAINING ≠ 1 := by
  decide +kernel

/-! ## Admission and translation -/

/-- The device released, with every island running. -/
def released : State :=
  (List.range 44).foldl (fun s i => (s.setF (Fld.PWR_ISL_STATUS_STATE i) 2).setF (Fld.PWR_ISL_STATUS_FCAP_MHZ i) 2000)
    (((((((demo.setF Fld.ADM_CTRL_ENABLE 1).setF Fld.XLT_CTRL_ENABLE 1).setF Fld.BOOT_STATUS_PHASE 6).setReg (Off.ERR_CORE_MAP 0)
      0xFFFF_FFFF_FFFF_FFFF).setF Fld.CRY_PKE_MAP_INSVC 0xFFFF_FFFF_FFFF).setF Fld.CRY_SYM_MAP_INSVC 0xFFFF_FFFF_FFFF))

/-- Admission: a framed message, a message of a submission ring, and a message that comes too late. -/
theorem meets_Admission :
    let c : Conn := { conn0 with msgs := [([1], 2)] }
    let m : HMsg := { sq := 3, idx := none, tin := 0, dialect := 0, note := false, tag := 0, rspAddr := 0, rspCap := 0, bytes := [] }
    let s := withC [c] { released with hif := { released.hif with msgs := [m] } }
    s.getF Fld.BOOT_STATUS_PHASE = 6 ∧ framedConn s 5 = some c ∧ bootPhase (dropIfEmpty s { c with msgs := [] }) = 6 ∧
      nextSq s = some 3 ∧ demo.getF Fld.ADM_CTRL_ENABLE = 0 ∧
      (2 + s.getF (Fld.ADM_CLASS_DEADLINE_NS 1) ≤ 5000000000 + (pd0.blockNs + s.getF Fld.ADM_EGRESS_NS)) := by
  decide +kernel

/-- Admission: no PKE time, no symmetric time, no core time, and each test passed. -/
theorem meets_Admission_tests :
    let s := released.setF (Fld.ADM_CLASS_DEADLINE_NS 1) 0xFFFF_FFFF
    let margin := pd0.blockNs + s.getF Fld.ADM_EGRESS_NS
    let st := bucketStarts s
    s.now + margin < 0xFFFF_FFFF ∧ s.getF (Fld.ADM_CLASS_DEADLINE_NS 1) = 0xFFFF_FFFF ∧
      s.txns.countP Txn.undecided < 65536 ∧ bucketOf st (0xFFFF_FFFF - margin) = 522000000 ∧
      fits s st .pke 522000000 500 = true ∧ fits s st .pke 522000000 (2 ^ 60) = false ∧ fits s st .sym 522000000 600 = true ∧
      fits s st .sym 522000000 (2 ^ 60) = false ∧ tileTakes s st 522000000 100 0 = true ∧ tileTakes s st 522000000 (2 ^ 60) 0 = false := by
  decide +kernel

/-- A job of an operation without a key over three bytes. -/
def job0 : CJob :=
  { id := 4, who := .program, cluster := 0, data := [], res := [], bkt := 0, an := 1, run := 0, core := 0, bank := 0,
    deadline := 5000, kind := .sym, op := 1, param := 0, key1 := 0, key2 := 0, inp := [(0x2300, 3)], aux := [],
    out := [(0x2400, 32)], outCap := 32, mlen := 0, desc := 0x2200, cost := 300, key := 0, typ := none, reissued := false,
    fails := 0, avoid := [], keys := none, work := 0, told := false, st := .waiting }

/-- Lane 0 in service, with these transactions and refused messages. -/
def laned (ts : List Txn) (bs : List BusyRsp) : State := { released.setF Fld.XLT_CTRL_LANES 1 with txns := ts, busy := bs }
/-- A refused message whose dialect table lies at an address. -/
def refused0 (dtab : Nat) : BusyRsp :=
  { at_ := 1, src := .conn 0 0 7, dialect := 0, dtab := dtab, si := false, msg := [1], reason := 3 }

/-- Translation: work of each kind, the earliest deadline first, with a dialect table and without one. -/
theorem meets_Translation :
    let p : Txn := { txn0 with phase := .parse, dtab := 0x10000 }
    let d : Txn := { txn0 with an := 2, deadline := 4000, phase := .declined 0x10, dtab := 0x10000 }
    let k : Txn := { txn0 with an := 3, deadline := 3000, phase := .committed, dtab := 0x10000 }
    let s := laned [p] []
    laneServes s 0 = true ∧ laneTxn s 0 = some p ∧ laneTxn (laned [p, d] []) 0 = some d ∧
      laneTxn (laned [p, d, k] []) 0 = some k ∧ laneTxn (laned [{ k with tpl := some 1 }] []) 0 = some { k with tpl := some 1 } ∧
      k.tpl = none ∧ laneBusy (laned [] [refused0 0x10000]) 0 = some (refused0 0x10000) ∧
      laneBusy (laned [] [refused0 0]) 0 = some (refused0 0) ∧ (dialectAt s false 0x10000).1.isSome = true ∧
      (dialectAt s false 0).1 = none ∧ (xltRead s false k.rspPa 16).1.isSome = true ∧
      (match (dialectAt s false 0x10000).1 with
       | some d => (parseMsg d [1] true).err.isSome && (match (templated s d 0 [] (parseMsg d [1] false) true).1 with
          | .bytes _ _ => true
          | _ => false)
       | none => false) = true := by
  decide +kernel

/-- Translation: a response whose MAC job has ended with OK. -/
theorem meets_Translation_mac :
    let w : LaneWork := { lane := 0, job := 4, what := .committed 1, pre := [7], post := [], hex := false, subst := 0 }
    let s : State := { laned [txn0] [] with
      xlt := [w], cry := { State.reset.cry with jobs := [{ job0 with who := .mac 0, st := .latched 1, res := [9, 9] }] } }
    macOutcome s w = some (0x01, [9, 9]) ∧ s.txn? 1 = some txn0 ∧ txn0.run = 0 := by
  decide +kernel

/-! ## The journal -/

/-- The journal enabled, with its area in region 2. -/
def j0 : State :=
  ((((bst.setF Fld.JNL_CTRL_ENABLE 1).setF (Fld.JNL_AREA_RGN 0) 2).setReg (Off.MPU_ACT_ATTR 2) 0xFF0321).setReg
    (Off.MPU_ACT_BASE 2) (0x40000000 + 24)).setF (Fld.MPU_APTR_APTR 2) 0x40000000
/-- A write log of one record. -/
def wlog1 : List WEntry :=
  [{ hash := kh, bench := 3, op := .replace, node := 0, key := kbytes, img := some 0, data := [8], slot := none }]
/-- A committing transaction. -/
def tc : Txn := { txn0 with owner := .committing, wlog := wlog1 }
/-- Its lock. -/
def lock1 : Lock := { bench := 3, hash := kh, an := 1, run := 0, excl := true, deadline := 5, node := 0, tag := 0 }
/-- A record of the journal. -/
def jr (n : Nat) : JRec :=
  { jsn := n, kind := 1, epoch := 0, bytes := [1, 2, 3], leaf := [], chain := [], complete := false, acked := false }
/-- A mirror group. -/
def mg : MGroup := { first := 1, jsns := [1, 2], bytes := zeros 70, at_ := 0, host := false, peer := false, late := false, probe := none }
/-- Records that are not complete, a group that is old enough, and groups sent to both targets. -/
def jd : State :=
  { j0 with
    txns := [], devtime := 1000000000,
    jnl := { j0.jnl with
      recs := [jr 1, jr 2], group := some mg, sent := [{ mg with first := 7, host := true }, { mg with first := 8, peer := true }] } }

/-- JournalCommit, JSN assignment: a log that is valid, with room and without; and one that is not valid. -/
theorem meets_JournalCommit :
    let s := { withT [tc] j0 with ldg := { j0.ldg with locks := [lock1] } }
    s.txn? 1 = some tc ∧ tc.owner = .committing ∧ tc.jsn = none ∧ validate s tc = .pass ∧ canAssign s = true ∧
      canAssign { withT [tc] bst with ldg := { bst.ldg with locks := [lock1] } } = false ∧
      validate { withT [tc] bst with ldg := { bst.ldg with locks := [lock1] } } tc = .pass ∧
      (match validate (withT [tc] j0) tc with | .refuse _ => true | _ => false) = true := by
  decide +kernel

/-- The same in PCIe mode with the host as the target. -/
def pcie : State := (jd.setF Fld.JNL_MIRROR_TARGET 0).setF Fld.HIF_STATUS_MODE 1

/-- JournalCommit, records and groups: a group that is old enough and one that is not, and one byte below and at 64 KiB. -/
theorem meets_JournalCommit_groups :
    let h : MGroup := { mg with first := 7, host := true }
    let p : MGroup := { mg with first := 8, peer := true }
    let k := jd.setF (Fld.KOL_PORT_STATUS_LINK_UP 0) 1
    (jd.jnl.recs.find? fun x => !x.complete) = some (jr 1) ∧ jd.jnl.group = some mg ∧
      mg.at_ + jd.getF Fld.JNL_MIRROR_GROUP_NS ≤ jd.now ∧ j0.now < mg.at_ + j0.getF Fld.JNL_MIRROR_GROUP_NS ∧
      jd.getF Fld.MPU_STATUS_DRAINING ≠ 1 ∧ toHost (jd.setF Fld.JNL_MIRROR_TARGET 1) = false ∧
      (closeExpired { jd with jnl := { jd.jnl with due := [mg] } }).jnl.due = [mg, mg] ∧
      65536 ≤ (mg.bytes ++ zeros 65466).length ∧ (mg.bytes ++ zeros 65465).length < 65536 ∧
      (toHost pcie = true ∧ pcie.getF Fld.HIF_STATUS_MODE = 1) ∧
      (jd.jnl.sent.find? fun g => g.host) = some h ∧ h.peer = false ∧ jd.txns = [] ∧ Arrives k oneFlit ∧
      ((linkReceive k oneFlit).jnl.sent.find? fun g => g.peer && g.first == 8 && g.bytes.length == 70) = some p ∧
      oneFlit.src = (linkReceive k oneFlit).getF Fld.JNL_MIRROR_PEER ∧
      (jd.jnl.sent.find? fun g => decide (g.at_ + jd.getF Fld.JNL_MIRROR_TARGET_NS < jd.now) && (!g.late || g.peer)) = some h ∧
      h.late = false := by
  unfold Arrives; decide +kernel

/-- An epoch that is closing. -/
def ep (st : EpochSt) (retry : Nat) : JEpoch :=
  { epoch := 3, first := 1, last := 2, seamOpen := 0, seamClose := 500, flags := 0, gepoch := none, st := st, sealBytes := [],
    retryAt := retry, exported := 0 }
/-- The journal with that epoch and its records. -/
def jep (e : JEpoch) (done : Bool) : State :=
  { j0 with
    devtime := 1000000000,
    jnl := { j0.jnl with
      running := true, closing := [e], recs := [{ jr 1 with complete := done }, { jr 2 with complete := done }] } }

/-- The sign job of a seal, with its status. -/
def signed (who : JobFor) (st : JobSt) : CJob := { job0 with who := who, st := st, data := [1], res := [2] }
/-- The journal with that epoch and that sign job. -/
def jsig (e : JEpoch) (j : CJob) : State := { jep e true with cry := { State.reset.cry with jobs := [j] } }

/-- JournalEpochs: an epoch whose records are complete and one that is late, a seam that is past, with the journal running and
in a node that is not released, a seal that is signed, one that could not be, and one that is tried again; an export entry. -/
theorem meets_JournalEpochs :
    let s := jep (ep .closing 0) true
    let l := jep (ep .closing 0) false
    let n := jep (ep .signing 0) true
    let r := jep (ep .signing 7) true
    let ok := jsig (ep .signing 0) (signed (.seal 1) (.latched 1))
    let no := jsig (ep .signing 0) (signed (.seal 1) (.latched 2))
    let c := { j0.setF Fld.KOL_CTRL_TOPO 1 with kol := { j0.kol with tick := some ⟨0, 6, 7⟩ } }
    openEpoch s = some (ep .closing 0) ∧ epochComplete s (ep .closing 0) = true ∧ epochComplete l (ep .closing 0) = false ∧
      (l.jnl.closing.find? fun e => decide (e.st = .closing) && !epochComplete l e && !bitAt e.flags 0 &&
        decide (e.seamClose + l.getF Fld.JNL_EPOCH_STRAGGLER_NS ≤ l.now)) = some (ep .closing 0) ∧
      (match nextSeam s with | some p => decide (p.1 ≤ s.now) | none => false) = true ∧ s.jnl.running = true ∧
      canAssign (areaSwitch s) = true ∧ (nextSeam c = some (0, some ⟨0, 6, 7⟩) ∧ 0 ≤ c.now ∧ c.jnl.running = false) ∧
      sealEpoch n = some (ep .signing 0) ∧ signJob n (.seal 1) = none ∧ sealEpoch r = some (ep .signing 7) ∧ 7 ≤ r.now ∧
      sealEpoch ok = some (ep .signing 0) ∧ signJob ok (.seal 1) = some (signed (.seal 1) (.latched 1)) ∧
      signOutcome (signed (.seal 1) (.latched 1)) = some (some [1, 2]) ∧ canAssign ok = true ∧ ok.jnl.running = true ∧
      signJob no (.seal 1) = some (signed (.seal 1) (.latched 2)) ∧ signOutcome (signed (.seal 1) (.latched 2)) = some none := by
  decide +kernel

/-- EXP running and empty. -/
def expOn (s : State) : State :=
  ((ringOn ringEXP s).setF (Fld.HIF_RING_CFG_LOG2SIZE ringEXP.val) 20).modRing ringEXP fun x => { x with prod := 0 }

/-- JournalEpochs, export: an entry that waits, and none that waits but one that is next. -/
theorem meets_JournalEpochs_export :
    let x : State := { expOn j0 with jnl := { j0.jnl with exports := [[1, 2]] } }
    let y : State := { expOn (jep (ep .sealed 0) true) with jnl := { (jep (ep .sealed 0) true).jnl with
      recs := [{ jr 1 with complete := true, acked := true }, { jr 2 with complete := true, acked := true }] } }
    (x.jnl.exports = [1, 2] :: [] ∧ (match postBytes x ringEXP [1, 2] with | .done _ _ => true | _ => false) = true) ∧
      y.jnl.exports = [] ∧ (match nextExport y with
        | some (bs, s1) => (match postBytes s1 ringEXP bs with | .done _ _ => true | _ => false)
        | none => false) = true := by
  decide +kernel

/-- JournalEpochs, global seals and mirrored groups. -/
theorem meets_JournalEpochs_cascade :
    let w : GWait := { gepoch := 1, seam := 5, members := [0, 1], formed := false }
    let s := { (j0.setF (Fld.KOL_PORT_STATUS_LINK_UP 0) 1).setF Fld.KOL_STATUS_ACTING_LEAD 1 with
      devtime := 1000000000, kol := { j0.kol with gwaits := [w] } }
    let t := { s with devtime := 6, kol := { s.kol with seals := [(0, 1, [1]), (1, 1, [2])] } }
    let old := { s with kol := { s.kol with gseen := some 9 } }
    let u := linkReceive s oneFlit
    s.kol.gwaits = w :: [] ∧ 5 + 1000 * s.getF Fld.JNL_GSEAL_WAIT_US ≤ s.now ∧ signJob s (.gseal 1) = none ∧
      ((w.members.all fun n => (sealOf t w.gepoch n).isSome) = true ∧ t.now < 5 + 1000 * t.getF Fld.JNL_GSEAL_WAIT_US) ∧
      j0.getF Fld.KOL_STATUS_ACTING_LEAD = 0 ∧ Arrives s oneFlit ∧ u.kol.gseen = none ∧
      (Arrives old oneFlit ∧ (linkReceive old oneFlit).kol.gseen = some 9 ∧ fld (zeros 512) 0 4 ≤ 9) ∧ keepsChain u = true ∧
      canAssign u = true ∧ u.getF Fld.KOL_STATUS_ACTING_LEAD = 1 ∧ (u.kol.gwaits.any fun w => w.gepoch == 1 && !w.formed) = true ∧
      (u.kol.mrx.any fun m => m.src == 0 && m.first == 4) = false ∧
      (islandWrite u .kol (u.getF (Fld.MPU_APTR_APTR (u.getF Fld.KOL_MRX_RGN))) [1, 2]).1 = true ∧ oneFlit.last = true := by
  unfold Arrives; decide +kernel

/-! ## Kolat -/

/-- A node of a cascade with port 0 up, and flits sent on it. -/
def kol1 : State :=
  let s := ((((demo.setF (Fld.KOL_PORT_STATUS_LINK_UP 0) 1).setF Fld.KOL_CTRL_TOPO 1).setF Fld.KOL_CTRL_XM1 3).setF
    Fld.KOL_CTRL_ENABLE 1)
  { s with
    devtime := 1000000000,
    kol := { s.kol with
      ports := s.kol.ports.set 0 { KPort.reset with sent := [⟨3, [1], 0⟩, ⟨2, [2], 0⟩, ⟨1, [3], 7⟩] }, lead := 1,
      lastSeam := some ⟨5, 6, 7⟩, hbAt := 0 } }
/-- The same node as the acting lead. -/
def kolLead : State :=
  let s := (kol1.setF Fld.KOL_STATUS_ACTING_LEAD 1).setF Fld.KOL_ROLE_DEPUTY 1
  { s with kol := { s.kol with lead := 0 } }

/-- CascadeLinks: the messages of a port that is up, in order, out of order and for another node; a generation that is higher,
equal and lower than the one followed; a TICK for a seam to come and for one that has passed. -/
theorem meets_CascadeLinks :
    let u := linkReceive kol1 oneFlit
    let lg := linkReceive (kol1.setF Fld.KOL_STATUS_LGEN 0xFFFF) oneFlit
    Arrives kol1 oneFlit ∧ linkInOrder kol1 { oneFlit with seq := 1 } = false ∧
      (linkInOrder kol1 { oneFlit with dest := 5 } = true ∧ (5 : Nat) ≠ kol1.node) ∧
      actingLead (linkReceive kolLead oneFlit) = true ∧ Arrives kolLead oneFlit ∧ u.getF Fld.KOL_STATUS_LGEN < 65535 ∧
      u.getF Fld.KOL_STATUS_LGEN ≤ 0 ∧ 0 < lg.getF Fld.KOL_STATUS_LGEN ∧ u.kol.lastSeam = some ⟨5, 6, 7⟩ ∧
      (0 : Int).natAbs ≤ u.getF Fld.KOL_TIME_SKEW_NS ∧ u.getF Fld.KOL_TIME_SKEW_NS < (2 ^ 60 : Int).natAbs ∧ u.kol.map = none ∧
      u.getF Fld.KOL_STATUS_SMAP_GEN < 1 := by
  unfold Arrives; decide +kernel

/-- CascadeLinks: the events of a port and of the lead. -/
theorem meets_CascadeLinks_events :
    let dep := kol1.setF Fld.KOL_ROLE_DEPUTY 0
    let far := { kolLead with kol := { kolLead.kol with lastSeam := some ⟨10000000000, 6, 7⟩ } }
    let naked := kol1.modPort 0 fun k => { k with naked := true }
    (kol1.kol.ports[(0 : Fin 8)].sent.filter fun q => !seqLe q.seq 3) = [] ∧
      (kol1.kol.ports[(0 : Fin 8)].sent.filter fun q => !seqLe q.seq 1) ≠ [] ∧
      (kol1.getF Fld.KOL_LINK_RETRY_MAX ≤ 7 + 1 ∧ 1 < kol1.getF Fld.KOL_LINK_RETRY_MAX) ∧
      (kol1.kol.ports[(0 : Fin 8)].naked = false ∧ naked.kol.ports[(0 : Fin 8)].naked = true) ∧
      bondOf (kol1.getF Fld.KOL_CTRL_TOPO) 0 < 8 ∧ RefClk.kol ∉ (kol1.setF (Fld.KOL_PORT_STATUS_LINK_UP 0) 0).pwr.clkLost ∧
      RefClk.kol ∈ ({ kol1 with pwr := { kol1.pwr with clkLost := [.kol] } } : State).pwr.clkLost ∧
      (kol1.setF (Fld.KOL_PORT_STATUS_LINK_UP 0) 0).getF (Fld.KOL_PORT_STATUS_LINK_UP 0) = 0 ∧ kol1.kol.down = [] ∧
      actingLead kolLead = true ∧ kolLead.getF Fld.KOL_ROLE_DEPUTY ≠ kolLead.node ∧ isDeputy dep = true ∧
      dep.kol.lead ≠ dep.node ∧
      dep.kol.hbAt + 1000 * dep.getF Fld.KOL_LEAD_LOSS_US ≤ dep.now ∧ far.kol.tick = none ∧
      far.now + 500000 ≤ (leadSeam far).1 ∧ kol1.kol.lastSeam = some ⟨5, 6, 7⟩ ∧ kol1.kol.tick = none ∧
      5 + 1000 * kol1.getF Fld.JNL_EPOCH_LEN_US ≤ kol1.now + 100000 ∧ actingLead kol1 = false ∧
      kol1.getF Fld.KOL_CTRL_TOPO ≠ 0 := by
  decide +kernel

/-- A state with one request to another node. -/
def kreq (w : KWhat) (s : State) : State := { s with devtime := 10000000000, kol := { s.kol with reqs := [⟨0, 0, 0, w⟩] } }
/-- The ledger of a node with port 0 up. -/
def kled : State := (((j0.setF (Fld.KOL_PORT_STATUS_LINK_UP 0) 1).setF Fld.KOL_CTRL_ENABLE 1))
/-- The header of a message about transaction 1. -/
def hdr1 : KHdr := { oneFlit with an := 1, deadline := 2 }
/-- The reservations of a prepared run. -/
def held : State :=
  { kled with
    devtime := 10000000000,
    kol := { kled.kol with
      marks := [⟨1, 0, 0, some (1, 0)⟩], applies := [⟨1, 0, 5, 0, 0, 1, 0⟩],
      rsv := wlog1.map fun e => { an := 1, run := 0, deadline := 0, prepared := false, tag := 0, e := e } } }

/-- CascadeOperations: a peer's operation that is taken and one that the regions refuse, an answer to a context, and the
messages of a commit: with every reservation held, with one that is not, and of a run that has ended. -/
theorem meets_CascadeOperations :
    let u := linkReceive kled hdr1
    let x := u.bench 3
    let q : LReq := { lreq .ldl .waiting with remote := some (0, 0) }
    let a := linkReceive (kreq (.lop 1 0 0 0) { kled with ldg := { kled.ldg with reqs := [q] } }) hdr1
    let p := linkReceive (kreq (.prepare 1 0) held) hdr1
    let shut := mpuSettled (linkReceive (kled.setReg (Off.MPU_ACT_ATTR 0) 0) hdr1)
    let free := linkReceive { held with kol := { held.kol with marks := [] } } hdr1
    Arrives kled hdr1 ∧ kolEnabled u = true ∧ markOf u 1 0 = none ∧ ownerOf u x kh = u.node ∧
      frozenKey u x kh = false ∧ refuseOp (mpuSettled u) .kol 3 (rsvLog (mpuSettled u) 1 0) .ldl kbytes 0 = none ∧
      (refuseOp shut .kol 3 (rsvLog shut 1 0) .ldl kbytes 0).isSome = true ∧
      kolEnabled (linkReceive (j0.setF (Fld.KOL_PORT_STATUS_LINK_UP 0) 1) hdr1) = false ∧
      (a.kreq? (tagNo 0) = some { no := 0, node := 0, at_ := 0, what := .lop 1 0 0 0 } ∧
        ((dropReq a 0).ldg.reqs.find? fun r => r.an == 1 && r.run == 0 && r.remote == some (0, 0)) = some q ∧
        reqLive (dropLReq (dropReq a 0) 1 0) q = true) ∧
      (p.kreq? (tagNo 0) = some { no := 0, node := 0, at_ := 0, what := .prepare 1 0 } ∧
        markOf p 1 0 = some ⟨1, 0, 0, some (1, 0)⟩ ∧
        (p.kol.applies.any fun a => a.an == 1 && a.run % 16 == 0 && a.node == 0 && a.jsn == 1) = true) ∧
      (u.kol.rsv.countP fun v => v.an == 1 && v.run == 0 && rsvHeld u v) = 0 ∧ canAssign u = true ∧ u.txn? 1 = some txn0 ∧
      (markOf free 1 0 = none ∧ (free.kol.rsv.countP fun v => v.an == 1 && v.run == 0 && rsvHeld free v) ≠ 1 ∧
        free.kol.rsv.length = 1) := by
  unfold Arrives; decide +kernel

/-- CascadeOperations: windows, wounds, leases, holds and time-outs. -/
theorem meets_CascadeOperations_events :
    let c := kreq (.wread 0) (kled.modCore 0 fun k => { k with wait := some (.window 0 8 3 8 false false via0) })
    let b := kreq (.wread 0) (kled.modCore 0 fun k => { k with wait := some (.bytes 0 8 8 8 via0) })
    let u := linkReceive c hdr1
    let w : LReq := lreq .stl .waiting
    let g := kreq (.wwrite 0) { kled with ldg := { kled.ldg with reqs := [w] } }
    Arrives c hdr1 ∧ (backed u 0x1000 && backed u 0x1007) = true ∧ poisoned u 0x1000 8 = false ∧
      (islandRead u .kol 0x1000 8).1.isSome = true ∧
      u.kreq? (tagNo 0) = some { no := 0, node := 0, at_ := 0, what := .wread 0 } ∧
      (linkReceive g hdr1).kreq? (tagNo 0) = some { no := 0, node := 0, at_ := 0, what := .wwrite 0 } ∧
      (c.core 0).wait = some (.window 0 8 3 8 false false via0) ∧ (c.core 0).cur = some 0 ∧
      (b.core 0).wait = some (.bytes 0 8 8 8 via0) ∧ (b.core 0).cur = some 0 ∧
      (held.kol.applies.find? fun a => a.an == 1 && a.node == 0 &&
        decide (a.at_ + held.getF Fld.KOL_E2E_TIMEOUT_NS ≤ held.now)) = some ⟨1, 0, 5, 0, 0, 1, 0⟩ ∧
      g.ldg.reqs = [w] ∧ w.st = .waiting ∧ w ∈ g.ldg.reqs ∧ ({ lock1 with node := 5 } : Lock).node ≠ g.node ∧
      (held.kol.rsv.any fun v => v.an == 1 && v.run == 0 && !v.prepared &&
        decide (v.deadline + 1000 * held.getF Fld.KOL_E2E_LEASE_US ≤ held.now)) = true ∧
      g.kreq? 0 = some ⟨0, 0, 0, .wwrite 0⟩ ∧ 0 + g.getF Fld.KOL_E2E_TIMEOUT_NS ≤ g.now := by
  unfold Arrives; decide +kernel

/-! ## Host rings -/

/-- A ring that runs. -/
def ringUp (r log2 base : Nat) (s : State) : State :=
  (((s.setF (Fld.HIF_RING_CFG_LOG2SIZE r) log2).setF (Fld.HIF_RING_CFG_ENABLE r) 1).setF (Fld.HIF_RING_STATE_RUN r) 1).setF
    (Fld.HIF_RING_BASE_BASE r) base
/-- HIF on a PCIe link. -/
def hif0 : State :=
  ((((demo.setF Fld.HIF_CTRL_ENABLE 1).setF Fld.HIF_STATUS_MODE 1).setF Fld.HIF_STATUS_BME 1).setF Fld.HIF_DBELL_BASE 0x100).setF
    Fld.HIF_STAT_BASE 0x110
/-- HIF with the rings 0 to 6, submission ring 0 and completion ring 0. -/
def hif2 : State :=
  ringUp 24 5 0x500 (ringUp 8 5 0x400
    { (List.range 7).foldl (fun s r => ringUp r 6 (0x200 + 16 * r) s) hif0 with devtime := 5000000 })
/-- A doorbell word in host memory. -/
def dbell (r v : Nat) (s : State) : State := s.wr (hostBase + 0x100000 + 64 * r) (leBytes 8 v)
/-- A ring whose doorbell read has been issued. -/
def rdy (r : RingId) (p c : Nat) (s : State) : State := s.modRing r fun x => { x with reading := true, prod := p, cons := c }
/-- The bytes that an island read gives. -/
def bytesRead (s : State) (i : Initiator) (pa n : Nat) : Option (List Byte) := (islandRead s i pa n).1

/-- RingsAndDoorbells: a ring that starts, one whose read is refused, a running ring in both modes. -/
theorem meets_RingsAndDoorbells :
    let s := dbell 8 3 hif0
    let s0 := (s.setF (Fld.HIF_RING_CFG_ENABLE 8) 1).setF (Fld.HIF_RING_STATE_ERR 8) 0
    let no := s0.setF Fld.HIF_STATUS_BME 0
    s.getF (Fld.HIF_RING_CFG_ENABLE 8) = 0 ∧ bytesRead s0 (ringClass 8) (doorbellPa s 8) (ringIdxBytes 8) = some (leBytes 4 3) ∧
      bytesRead no (ringClass 8) (doorbellPa s 8) (ringIdxBytes 8) = none ∧ hif2.getF (Fld.HIF_RING_CFG_ENABLE 8) = 1 ∧
      ringRuns hif2 8 = true ∧ hif2.getF Fld.HIF_STATUS_MODE = 1 ∧ (hif2.setF Fld.HIF_STATUS_MODE 2).getF Fld.HIF_STATUS_MODE = 2 ∧
      15 < 16 := by
  decide +kernel

/-- RingsAndDoorbells, DOORBELL_READ: a new index, the same one, one of the host's consumer, and impossible ones. -/
theorem meets_RingsAndDoorbells_read :
    let got := fun (r : RingId) (s : State) =>
      bytesRead (s.modRing r fun x => { x with reading := false }) (ringClass r) (doorbellPa s r) (ringIdxBytes r)
    let a := dbell 8 3 (rdy 8 0 0 hif2)
    let b := dbell 8 70 (rdy 8 0 0 hif2)
    let c := dbell 24 3 (rdy 24 5 1 hif2)
    (a.ring 8).reading = true ∧ ringRuns a 8 = true ∧ got 8 a = some (leBytes 4 3) ∧ hostProduced 8 = true ∧
      ringDist 8 0 3 ≤ ringSize a 8 ∧ 3 ≠ (a.ring 8).prod ∧ got 8 (rdy 8 0 0 hif2) = some (leBytes 4 0) ∧
      got 8 b = some (leBytes 4 70) ∧ ringSize b 8 < ringDist 8 0 70 ∧ hostProduced 24 = false ∧
      got 24 c = some (leBytes 4 3) ∧ ringDist 24 3 5 ≤ ringSize c 24 ∧
      got 8 ((rdy 8 0 0 hif2).setF Fld.HIF_STATUS_BME 0) = none := by
  decide +kernel

/-- A submission descriptor. -/
def subd (op len : Nat) : List Byte :=
  bytesOf [op, 3, 1, 0] ++ leBytes 4 len ++ leBytes 8 0x600000 ++ leBytes 8 77 ++ leBytes 8 0x700000 ++ leBytes 4 16 ++ zeros 28
/-- A descriptor that a doorbell covers, with its dialect and its message. -/
def subs (d : List Byte) : State :=
  ((((hif2.setF Fld.XLT_DTAB_BASE 0x10).wr 0x10018 (leBytes 8 0x5000)).wr (hostBase + 0x600000) [1, 2, 3, 4]).wr
    (hostBase + 0x400000 + 128) d).modRing 8 fun x => { x with prod := 3, cons := 2, fetched := 2, seen := [(3, 99)] }

/-- SubmissionsAndCompletions, SUBMISSION_FETCH: a good descriptor, and two that are BAD_DESC. -/
theorem meets_SubmissionsAndCompletions_fetch :
    let s := subs (subd 1 4)
    let s1 := s.modRing 8 fun x => { x with seen := [] }
    let v := s1.modRing 8 fun y => { y with flight := [(2, false)], fetched := 3 }
    let e := dialectEntry v (readSubDesc (subd 1 4)).dialect
    ringSQ 0 = 8 ∧ ringRuns s 8 = true ∧ (s.ring 8).seen = [((2 + 1) % 2 ^ 32, 99)] ∧ (s.ring 8).cons = 2 ∧
      (s.ring 8).fetched = 2 ∧ (s.ring 8).flight = [] ∧ bytesRead s1 .hif (slotPa s 8 2) 64 = some (subd 1 4) ∧
      (readSubDesc (subd 1 4)).op = 1 ∧ (readSubDesc (subd 1 4)).reserved = 0 ∧ (readSubDesc (subd 1 4)).len = 4 ∧ e.1 ≠ 0 ∧
      bytesRead e.2 .hif (hostPa 0x600000) 4 = some [1, 2, 3, 4] ∧ (readSubDesc (subd 2 4)).op ≠ 1 ∧
      (readSubDesc (subd 1 0)).len = 0 := by
  decide +kernel

/-- A completion with a response. -/
def cpl (rsp : List Byte) (cap : Nat) (moved : Bool) : Cpl :=
  { cq := 0, status := 1, reason := 0, sq := 0, rsp := rsp, addr := 0x700000, cap := cap, tag := 5, an := 1, jsn := 2, deadline := 10,
    conn := none, moved := moved, desc := none }
/-- Whether an entry goes out. -/
def wentOut : Posted → Bool
  | .done _ _ => true
  | _ => false

/-- SubmissionsAndCompletions, posts: a slot entry, completions with and without response bytes, moved ones, admin
completions and exceptions, with room and without. -/
theorem meets_SubmissionsAndCompletions_posts :
    let c := cpl [1, 2] 8 false
    let s := { hif2 with hif := { hif2.hif with cpls := [c] } }
    let w := islandWrite s .hif (hostPa c.addr) [1, 2]
    let e : Exc := { kind := 1, conn := none, bytes := excBytes 1 0 0 0 0 0 0 0 0 [] }
    let x := { hif2 with hif := { hif2.hif with excs := [e], acpls := [{ cid := 4, status := 1, late := false, r0 := 9 }] } }
    let f := x.modRing ringEXC fun y => { y with prod := 64 }
    ringBytes 24 = false ∧ ringRuns s 24 = true ∧ ringUsed s 24 + 1 ≤ ringSize s 24 ∧ nextCpl s 0 = some c ∧
      (islandWrite s (ringClass 24) (slotPa s 24 (s.ring 24).prod) (zeros 64)).1 = true ∧ w.1 = true ∧
      wentOut (postSlot w.2 24 (cplBytes c w.2.now 0)) = true ∧ wentOut (postSlot s 24 (cplBytes (cpl [] 8 false) s.now 0)) = true ∧
      wentOut (postBytes s ringGONE [1, 2]) = true ∧ x.hif.admin = [] ∧
      wentOut (postSlot x ringACQ (acplBytes { cid := 4, status := 1, late := false, r0 := 9 } x.now)) = true ∧
      wentOut (postBytes x ringEXC e.bytes) = true ∧ ringRuns f ringEXC = true ∧ ringRoom f ringEXC e.bytes.length = false ∧
      ringRuns hif0 ringEXC = false := by
  decide +kernel

/-- SubmissionsAndCompletions, the link, vectors, waits and frames without room: one post over its bound and one that is not. -/
theorem meets_SubmissionsAndCompletions_timers :
    let s := hif2.modRing 24 fun x => { x with prod := 32, unsig := 2, unsigAt := 100, waits := [(50, false), (5000000, false)] }
    let e : Exc := { kind := 1, conn := none, bytes := excBytes 1 0 0 0 0 0 0 0 0 [] }
    let x := { hif0 with hif := { hif0.hif with excs := [e, { e with kind := 4 }] } }
    let up := hif0.setF (Fld.PWR_ISL_STATUS_STATE 40) 2
    islandState up 40 = 2 ∧ RefClk.pcie ∉ up.pwr.clkLost ∧ islandState hif0 40 ≠ 2 ∧
      0 < (s.ring 24).unsig ∧ (s.ring 24).unsigAt + 1000 * s.getF (Fld.HIF_RING_CFG_IRQ_US 24) ≤ s.now ∧
      (50, false) ∈ (s.ring 24).waits ∧ waitOver s 24 (50, false) = true ∧ waitOver s 24 (5000000, false) = false ∧
      frameLost x e = true ∧ frameLost x { e with kind := 4 } = false ∧ x.hif.excs.countP (frameLost x) = 1 ∧
      hif2.hif.excs.countP (frameLost hif2) = 0 ∧ (dropFrames x).hif.excs = [{ e with kind := 4 }] ∧
      (cpl [1, 2] 8 false).rsp ≠ [] ∧ (hifWrite hif0 (hostPa 0x700000) [1, 2]).1 = true ∧
      (hifWrite { hif0 with hif := { hif0.hif with failing := true } } (hostPa 0x700000) [1, 2]).1 = false := by
  decide +kernel

/-! ## Admin commands -/

/-- A state with an entry in AQ. -/
def adm0 : State := hif2.modRing ringAQ fun x => { x with prod := 1 }
/-- The same after HIF has taken the entry that the host has written. -/
def adm1 (op : Nat) (a : AdminCmd) (s : State) : State := takeEntry (hostPuts s ringAQ (admEntry op a)) ringAQ
/-- The status of an admin command that ends at once. -/
def ends : AdmRes × State → Option AdmStatus
  | (.done st _, _) => some st
  | _ => none

/-- AdminLanes: a command in AQ that ends at once, and one that waits. -/
theorem meets_AdminLanes :
    AdminTaken adm0 0x33 noParams (adm1 0x33 noParams adm0) ∧ laneHead (adm1 0x33 noParams adm0) true = none ∧
      (ends (admBody 0x33 noParams (adm1 0x33 noParams adm0))).isSome = true ∧
      AdminTaken adm0 0x36 noParams (adm1 0x36 noParams adm0) ∧
      (ends (admBody 0x36 noParams (zeroise (adm1 0x36 noParams adm0) 0))).isNone = true ∧
      AdminTaken adm0 0x60 noParams (adm1 0x60 noParams adm0) := by
  unfold AdminTaken; decide +kernel

/-- AdminLanes: stand-in service, a command behind another, and a journal tail while the journal runs and while it does not. -/
theorem meets_AdminLanes_waits :
    let si := { adm0 with boot := { adm0.boot with siOpen := true } }
    let j : AdmJob := { cid := 1, quick := true, wait := .zeroise }
    let v := { adm0 with cry := { adm0.cry with zeroing := true }, hif := { adm0.hif with admin := [j] } }
    AdminTaken si 0x20 noParams (adm1 0x20 noParams si) ∧ standinService (adm1 0x20 noParams si) = true ∧
      (0x20 : Nat) ∉ [0x01, 0x02, 0x03, 0x30, 0x32, 0x33, 0x36, 0x40] ∧ AdminTaken v 0x22 noParams (adm1 0x22 noParams v) ∧
      laneHead (adm1 0x22 noParams v) true = some j ∧ AdminTaken adm0 0x40 noParams (adm1 0x40 noParams adm0) ∧
      (adm1 0x40 noParams adm0).jnl.running = false := by
  unfold AdminTaken; decide +kernel

/-- The connection table and its keys. -/
def admNet : State :=
  let k : KeySlot := { space := trafficSpace 5, slot := 0, header := 2 ^ (32 + 13) + 2 ^ 63, mat := zeros 32 }
  let s := ((adm0.setF Fld.NET_CONN_BASE_BASE 0x20).setF Fld.NET_CONN_COUNT_COUNT 6)
  { s with cry := { s.cry with cache := [k] } }
/-- Handle 5. -/
def at5 : AdminCmd := { noParams with p0 := 5 }

/-- AdminObjects, connections: a FREE entry that is in order, an open one, and a port that is up and one that is not. -/
theorem meets_AdminObjects_connections :
    let e := patch (patch (patch (zeros 256) 0x0A [1]) 0x60 [1]) 8 (leBytes 2 100)
    let s0 := admNet.wr 0x20500 e
    let s := adm1 0x01 at5 s0
    let o0 := withC [conn0] (admNet.setF (Fld.NET_PORT_STATUS_LINK_UP 0) 1)
    let o := adm1 0x03 at5 o0
    (AdminTaken s0 0x01 at5 s ∧ s0.hif.admin = [] ∧ handleOk s 5 = true ∧ (connRead s 5).1 = some e ∧
        (s.open? 5).isNone = true ∧ entryOk s e = true ∧ e.length = 256 ∧
        trafficKey s 5 0 = true ∧ standinService s = false) ∧
      (o.open? 5 = some conn0 ∧ conn0.st = .active ∧ AdminTaken o0 0x03 at5 o ∧ (o.open? 5).isSome = true ∧
        (hostRead o 0 0x30).1 = some (zeros 0x30) ∧ (readRekey (zeros 0x30)).isSome = true) ∧
      portLinkUp (adm1 0x04 at5 o0) 0 = true ∧ portLinkUp s 0 = false := by
  unfold AdminTaken; decide +kernel

/-- AdminObjects, tables, benches and transactions. -/
theorem meets_AdminObjects_tables :
    let s0 := withT [txn0, { txn0 with an := 2, jsn := some 3 }] adm0
    let s := adm1 0x10 at5 s0
    let w := hostRead s 0x800 64
    let on := readBench (patch (patch bdesc 0x18 [1]) 0x16 [10])
    AdminTaken s0 0x10 at5 s ∧ standinService s = false ∧ w.1 = some (zeros 64) ∧
      (islandWrite w.2 .hif (pdtAddr w.2 5) (zeros 64)).1 = true ∧
      (benchRefusal w.2 5 on).isSome = false ∧ on.state = 1 ∧ (s.bench 5).state = 0 ∧
      (benchRefusal w.2 5 (readBench (zeros 64))).isSome = true ∧ benchLocked s 5 = false ∧
      s.txn? 9 = none ∧ s.txn? 1 = some txn0 ∧ txn0.jsn = none ∧ txn0.undecided = true ∧
      (s.txn? 2).isSome = true ∧ actingLead s = false ∧ orphans s 9 = [] ∧ (tableLoads s 0x10000).1 = false ∧
      (adm1 0x21 at5 (bst.modRing 0 id)).bench 3 = bst.bench 3 := by
  unfold AdminTaken; decide +kernel

/-- AdminKeys: a slot that is filled and one that is empty; the unit zeroised and not. -/
theorem meets_AdminKeys :
    let k : KeySlot := { space := 0, slot := 7, header := 7 * 2 ^ 56 + 2 ^ 63 + 2 ^ 47, mat := zeros 64 }
    let s0 := { adm0.setF Fld.CRY_CTRL_CLEAR_OK 1 with cry := { adm0.cry with keys := [k] } }
    let s := adm1 0x30 at5 s0
    let z := adm1 0x30 at5 (adm0.setF Fld.CRY_STATUS_ZEROISED 1)
    AdminTaken s0 0x30 at5 s ∧
      z.getF Fld.CRY_STATUS_ZEROISED = 1 ∧ s.getF Fld.CRY_STATUS_ZEROISED = 0 ∧ s.getF Fld.CRY_CTRL_CLEAR_OK = 1 ∧
      slotOf s 0 9 = none ∧ attrOk 0 (0x01000400) = true ∧ (hostRead s 0 16).1 = some (zeros 16) ∧
      (match loadedKey s 2 0x01000400 0 (zeros 16) with | .ok m => (slotMaterial 1 m).isSome | .error _ => false) = true ∧
      1 ≤ s.getF Fld.CRY_STATUS_MAT_FREE ∧ s.keyOf 0 7 = some k ∧
      (match (exportedKey s k 0).1 with | .ok bs => bs.length == 64 | .error _ => false) = true ∧
      (hostWrite s 0 (zeros 64)).1 = true ∧ readersOf s k = [] ∧
      readersOf { s with cry := { s.cry with jobs := [{ job0 with st := .running 0 0, keys := some (some k, none) }] } } k = [4] ∧
      slotOf s 0 7 = some k ∧ openImage s (zeros 43) = none ∧ s.cry.keys ≠ [] ∧ adm0.cry.keys = [] := by
  unfold AdminTaken; decide +kernel

/-- One journal record that links to the resume values of reset but for its CHAIN. -/
def tailBad : List JRec := [{ jr 0 with bytes := zeros 64 }]

/-- AdminKeys, tamper inputs and the journal tail. -/
theorem meets_AdminKeys_events :
    let s := adm1 0x40 noParams adm0
    let t := adm0.setF Fld.CRY_TAMPER_EN 1
    (t.getF Fld.CRY_TAMPER_EN).testBit 0 = true ∧ t.sys.tamper.testBit 0 = false ∧ (t.getF Fld.CRY_TAMPER_EN).testBit 3 = false ∧
      AdminTaken adm0 0x40 noParams s ∧ s.jnl.running = false ∧ s.getF Fld.BOOT_STATUS_PHASE < 5 ∧ s.jnl.recs = [] ∧
      s.jnl.tailSeal = none ∧ tailOk s tailBad = false ∧ tailRecs (zeros 128) ≠ [] := by
  unfold AdminTaken; decide +kernel

/-! ## Crypto jobs and the MPU -/

/-- The crypto clusters with that job. -/
def cry0 (j : CJob) : State :=
  let s := withT [txn0] ((released.modBank 0 0 fun b => { b with ctx := some { ctx0 with block := some .crypto } }).wr 0x2300 [1, 2, 3])
  { s with cry := { s.cry with jobs := [j] } }

/-- CryptoJobs: a waiting job and a free engine, a running one, latched ones, one of XLT, and one whose run has ended. -/
theorem meets_CryptoJobs :
    let s := cry0 job0
    let r : CJob := { job0 with st := .running 3 0, keys := some (none, none) }
    let l : CJob := { job0 with st := .latched 1 }
    let d : CJob := { job0 with run := 9 }
    let m : CJob := { r with who := .mac 0, data := [1, 2] }
    engineTakes s .sym 3 = true ∧ engineBusy s .sym 3 = false ∧ nextJob s .sym 3 = some job0 ∧
      (match jobKeys s job0 with | .ok (none, none) => true | _ => false) = true ∧ engineTakes demo .sym 3 = false ∧
      (match jobKeys s { job0 with op := 0x10, key1 := 9 } with | .error _ => true | .ok _ => false) = true ∧
      (cry0 r).job? 4 = some r ∧ readCaptured (cry0 r) r.inp = (some [1, 2, 3], cry0 r) ∧
      readCaptured (cry0 r) r.aux = (some [], cry0 r) ∧
      (jobCompute r.op r.param r.mlen r.outCap r.slots.1 r.slots.2 [1, 2, 3] [] []).status = 1 ∧ opChecked r.op = false ∧
      (readCaptured ((cry0 r).setReg (Off.MPU_ACT_ATTR 0) 0) r.inp).1 = none ∧ jobLive (cry0 l) l = true ∧
      jobLive (cry0 d) d = false ∧ engineInService s .sym 3 = true ∧ engineBusy (cry0 r) .sym 3 = true ∧ s.sys.dbgWait = false ∧
      (cry0 m).job? 4 = some m ∧ m.who ≠ .program ∧ (jobCompute m.op m.param m.mlen m.outCap m.slots.1 m.slots.2 m.input [] []).status = 1 ∧
      (secondPke s 0).isSome = true ∧ secondPke demo 0 = none := by
  decide +kernel

/-- MpuRules: an access that one region allows, one that none does, a region of append-only memory, and accesses that an
activation waits for and none. -/
theorem meets_MpuRules :
    let s := (((demo.setReg (Off.MPU_ACT_ATTR 0) 0).setReg (Off.MPU_ACT_ATTR 2) 0xFF0321).setReg (Off.MPU_ACT_BASE 2)
      (0x40000000 + 24)).setF (Fld.MPU_APTR_APTR 2) 0x40000000
    let d := s.setF Fld.MPU_STATUS_DRAINING 1
    let w := d.modCore 0 fun k => { k with sq := [queued] }
    mpuCheck demo .hif .read 0x1000 0x1008 0x1000 = some 0 ∧ mpuCheck s .hif .read 0x1000 0x1008 0x1000 = none ∧
      mpuCheck s .jnl .write 0x40000000 0x40000008 0x40000000 = some 2 ∧
      mpuCheck s .jnl .write 0x40000008 0x40000010 0x40000008 = none ∧
      (islandRead demo .hif 0x1000 8).1.isSome = true ∧ (islandRead s .hif 0x1000 8).1 = none ∧
      (islandWrite s .jnl 0x40000000 [1]).1 = true ∧ (islandWrite s .hif 0x1000 [1]).1 = false ∧
      (islandRefused (mpuSettled s) .hif .write 0x1000 1).isSome = true ∧
      s.getF Fld.MPU_FAULT_VALID = 0 ∧ (s.setF Fld.MPU_FAULT_VALID 1).getF Fld.MPU_FAULT_VALID = 1 ∧
      d.getF Fld.MPU_STATUS_DRAINING = 1 ∧ accessesDone d = true ∧ accessesDone w = false ∧
      ((demo.modCore 0 fun k => { k with wait := some .msync }).core 0).wait = some .msync := by
  decide +kernel

/-! ## Power, clocks and temperature -/

/-- The tile islands and the LDG islands run. -/
def isl0 : State :=
  (List.range 38).foldl (fun s i => s.setF (Fld.PWR_ISL_STATUS_STATE i) 2) (demo.setReg (Off.ERR_CORE_MAP 0) 0xFFFF_FFFF_FFFF_FFFF)

/-- ClocksAndIslands: a clock below its target, one above it in its hold and after it, and one above its limit. -/
theorem meets_ClocksAndIslands :
    let s := (((isl0.setF Fld.ADM_CTRL_SCALE_EN 0).setF (Fld.PWR_ISL_STATUS_FCAP_MHZ 0) 2000).setF (Fld.PWR_ISL_STATUS_CLK_MHZ 0) 1000).modIsl 0 fun x =>
      { x with lim := 1500, want := none, lowSince := some 0 }
    let hi := { (s.setF (Fld.PWR_ISL_STATUS_CLK_MHZ 0) 2100) with devtime := 1000000000 }
    let hot := (List.range 64).foldl (fun s k => s.setF (Fld.THM_SENSOR_TEMP k) 1001) hi
    islandState s 0 = 2 ∧ clockTarget s 0 = some 2000 ∧ islandHot s 0 = false ∧ clkOf s 0 ≤ (s.isl 0).lim ∧
      (s.isl 0).want.getD (clkOf s 0) < 2000 ∧ clockTarget hi 0 = some 2000 ∧ 2000 < clkOf hi 0 ∧ (hi.isl 0).lim < clkOf hi 0 ∧
      (hi.isl 0).lowSince = some 0 ∧ 0 + 1000 * hi.getF Fld.ADM_SCALE_HOLD_US ≤ hi.now ∧
      ((s.modIsl 0 fun x => { x with want := some 1200 }).isl 0).want = some 1200 ∧
      (islandHot hot 0 = true ∧ clockTarget hot 0 = some 2000 ∧ (hot.isl 0).lim < clkOf hot 0) := by
  decide +kernel

/-- ClocksAndIslands: actions that are refused, that have nothing to do and that start; a quiesced island; a return. -/
theorem meets_ClocksAndIslands_actions :
    let q := ((isl0.setF (Fld.PWR_ISL_STATUS_STATE 5) 3).modIsl 5 fun x => { x with action := some 2 })
    let b := withT [{ txn0 with tile := 5, home := 5 }] q
    let r := ((isl0.setF (Fld.PWR_ISL_STATUS_STATE 5) 1).modIsl 5 fun x => { x with action := some 3 })
    actionError isl0 40 0 = 1 ∧ actionError isl0 5 0 = 0 ∧ actionIdle isl0 5 0 = true ∧ actionError isl0 34 1 = 0 ∧
      actionIdle isl0 34 1 = false ∧ islandState q 5 = 3 ∧ workDone q 5 = true ∧ (q.isl 5).action = some 2 ∧
      workDone b 5 = false ∧ islandState r 5 = 1 ∧ (r.isl 5).action.isSome = true := by
  decide +kernel

/-- TemperatureAndRail: limits and capacities that fall and rise, a trip, a rail that is off, a lost clock. -/
theorem meets_TemperatureAndRail :
    let s := (isl0.setF (Fld.PWR_ISL_STATUS_FMAX_MHZ 0) 2000).setF (Fld.PWR_ISL_STATUS_FCAP_MHZ 0) 1500
    let lo := s.modIsl 0 fun x => { x with lim := 1000 }
    let hi := s.modIsl 0 fun x => { x with lim := 2100 }
    let v := hi.setF Fld.PWR_AVS_MEAS_MV 850
    let t := { s with pwr := { s.pwr with hot := [(5, 3)] }, boot := { s.boot with step := 11 } }
    let c := { s with pwr := { s.pwr with clkLost := [.eth] } }
    let o := { s with devtime := 1000001, pwr := { s.pwr with avsOff := some 0 } }
    s.getF (Fld.THM_SENSOR_FAULT 0) = 0 ∧ islandTemp s 0 ≤ 8 * (s.getF Fld.THM_CFG_DERATE_C : Int) ∧ rawLimit s 0 0 = 2000 ∧
      0 < s.getF Fld.THM_CFG_STEP_C ∧ (lo.isl 0).lim < 2000 ∧ 2000 < (hi.isl 0).lim ∧ (lo.isl 0).lim < fCap lo 0 ∧
      fCap hi 0 < (hi.isl 0).lim ∧ railNeed v 0 1600 ≤ v.getF Fld.PWR_AVS_MEAS_MV ∧
      hi.getF Fld.PWR_AVS_MEAS_MV < railNeed hi 0 1600 ∧ tripSensor s = none ∧ tripSensor t = some 5 ∧ t.pwr.trip = false ∧
      t.pwr.railFault = false ∧ t.boot.step ≠ 0 ∧ s.getF Fld.PWR_AVS_TARGET_MV + 25 < 0xFFFF ∧ RefClk.eth ∉ s.pwr.clkLost ∧
      RefClk.eth ∈ c.pwr.clkLost ∧
      (o.pwr.avsOff = some 0 ∧ o.getF Fld.PWR_AVS_TARGET_MV + 25 < 0xFFFF ∧ 0 + 1000000 < o.now) ∧ s.pwr.avsOff = none := by
  decide +kernel

/-! ## Faults -/

/-- UnitFaults: a tile in service with a transaction, lanes, records, islands with a copy and without, and units in test. -/
theorem meets_UnitFaults :
    let s := withT [{ txn0 with phase := .queued }] (isl0.setF Fld.XLT_CTRL_LANES 3)
    let r := { s with err := { s.err with retired := [tileCode 0] } }
    let u := { s with err := { s.err with testing := [unitCode (.engine .pke 3), unitCode (.core 5)], faults := [(7, 0)] } }
    let x := { u with devtime := 10000000 }
    let m := s.setF Fld.ERR_SIMPLEX_ISL (2 ^ 40)
    s.err.retired.contains (tileCode 0) = false ∧ (s.txns.map fun x => x.an).Nodup ∧
      ({ txn0 with phase := .queued } : Txn).moves 0 = true ∧ r.err.retired.contains (tileCode 0) = true ∧ laneWorks s 0 = true ∧
      laneCanServe s 1 = true ∧ (∀ l : Fin 32, l ≠ 0 → laneCanServe (s.setF Fld.XLT_CTRL_LANES 1) l = false) ∧
      laneWorks (s.setF Fld.XLT_CTRL_LANES 1) 0 = true ∧
      (jd.jnl.recs.any fun r => r.jsn == 2 && !r.complete) = true ∧ (s.getF Fld.ERR_SIMPLEX_ISL).testBit 40 = false ∧
      (m.getF Fld.ERR_SIMPLEX_ISL).testBit 40 = true ∧ m.getF Fld.ERR_CTRL_ESC_EN = 1 ∧
      (m.setF Fld.ERR_CTRL_ESC_EN 0).getF Fld.ERR_CTRL_ESC_EN = 0 ∧ s.inTest (.core 5) = false ∧
      u.inTest (.engine .pke 3) = true ∧ u.inTest (.core 5) = true ∧ strikesOf u (.core 5) < u.getF Fld.ERR_CFG_STRIKES ∧
      (u.setF Fld.ERR_CFG_STRIKES 0).getF Fld.ERR_CFG_STRIKES ≤ strikesOf u (.engine .pke 3) ∧
      (∃ p ∈ u.err.faults, u.now < p.2 + 10000000) ∧ (∀ p ∈ x.err.faults, p.2 + 10000000 ≤ x.now) := by
  decide +kernel

/-- HbmFaults: a first and a second failed stack; lines that are backed, that can be rebuilt, that cannot and that are lost. -/
theorem meets_HbmFaults :
    let s := isl0
    let one := { s with err := { s.err with retired := [stackCode 1] } }
    let bare := s.setF Fld.LDG_HBM_MODE 2
    let lost := { s with ldg := { s.ldg with poison := [5] } }
    s.err.retired.contains (stackCode 0) = false ∧ (∀ j : Fin 4, j ≠ 0 → stackGone s j.val = false) ∧
      (∃ j : Fin 4, j ≠ 0 ∧ stackGone one j.val = true) ∧ one.err.retired.contains (stackCode 1) = true ∧
      lineBacked s 5 = true ∧ lineBacked s (2 ^ 60) = false ∧ canRebuild s 5 = true ∧ canRebuild bare 5 = false ∧
      s.ldg.poison.contains 5 = false ∧ lost.ldg.poison.contains 5 = true := by
  decide +kernel

/-! ## Resets, bring-up, release -/

/-- Resets: a device that runs, one that is tripped, one held by WARM_RESET_N, and one before power-good. -/
theorem meets_Resets :
    let s := { (demo.setReg Off.JNL_LAST_JSN 44) with boot := { demo.boot with step := 11 } }
    let t := { s with pwr := { s.pwr with trip := true } }
    let w := { demo with boot := { demo.boot with step := 2, warmLow := true } }
    s.pwr.trip = false ∧ s.pwr.railFault = false ∧ s.boot.step ≠ 0 ∧ t.pwr.trip = true ∧
      (s.jnl.recs.all fun r => r.complete) = true ∧ s.getF Fld.BOOT_STATUS_PHASE ≠ 6 ∧ s.reg Off.JNL_LAST_JSN ≠ 0 ∧
      s.boot.warmLow = false ∧ w.boot.warmLow = true ∧ w.boot.step = 2 ∧ (0xB008 : BitVec 16) ≠ 0xB007 ∧ demo.boot.step = 0 ∧
      demo.pwr.trip = false ∧ demo.pwr.railFault = false ∧ demo.boot.warmLow = false := by
  decide +kernel

/-- An image of two sections, the first of type 1 and the second of a type. -/
def img (ty2 : Nat) : List Byte :=
  let sec (ty : Nat) := bytesOf [ty, 0, 0, 0] ++ leBytes 4 0x200 ++ leBytes 4 0x1A0
  patch (patch (patch (patch (zeros 0x3A0) 0 (bytesOf [0x4C, 0x4E, 0x43, 0x49, 1, 0, 2, 0] ++ leBytes 4 0x3A0)) 0xA0 (sec 1)) 0xE0
    (sec ty2)) 0x208 [1]
/-- A device at a step of its bring-up with an image. -/
def booting (step phase : Nat) (image : List Byte) : State :=
  let s := hif0.setF Fld.BOOT_STATUS_PHASE phase
  { s with boot := { s.boot with step := step, image := image } }

/-- BringUp: no image that passes, a host that is there and one that is not, images with and without their sections. -/
theorem meets_BringUp :
    let s := booting 3 1 []
    let h := booting 3 2 []
    let a := slotImage s 0
    s.boot.step = 3 ∧ s.getF Fld.BOOT_STATUS_PHASE = 1 ∧ imageError s a ≠ 0 ∧ imageError s (slotImage s 0x100_0000) ≠ 0 ∧
      h.getF Fld.BOOT_STATUS_PHASE = 2 ∧ hostBacked h = true ∧ hostBacked (h.setF Fld.HIF_STATUS_BME 0) = false ∧
      (sectionOf (booting 4 1 (img 5)).boot.image 1).isSome = true ∧ 0 < 8 * leNat (((sliceOf (img 5) 0x200 0x1A0).drop 8).take 4) ∧
      (sectionOf (img 5) 5).isSome = true ∧ sectionOf (img 2) 5 = none ∧ (sectionOf (img 2) 2).isSome = true ∧
      sectionOf (img 2) 4 = none ∧ siSectionsOk (zeros 64) (zeros 64) = false ∧ s.policy 3 = false ∧
      RefClk.kol ∉ s.pwr.clkLost ∧ RefClk.eth ∉ s.pwr.clkLost ∧ s.getF Fld.BOOT_STATUS_WARM = 0 ∧ (s.setF Fld.BOOT_STATUS_WARM 1).getF Fld.BOOT_STATUS_WARM = 1 ∧
      (0x380 : BitVec 16).toNat < 0x990 ∧ 0x380 ≤ (0x98F : BitVec 16).toNat ∧ (0x37F : BitVec 16).toNat < 0x380 := by
  decide +kernel

/-- A signed image of one MICROCODE section of one word: header and section table, its signature, and the section with its own
signature. Both keys are the generator of P-384, whose private key is 1; with the nonce 1 the signature of a digest z is r = Gx
and s = z + r mod n (FIPS 186-5). -/
def signedImg : List Byte :=
  beBytes 48 0x4c4e434901000100e8020000070000000000000000000000000000000000000000000000000000000000000000000000 ++
    beBytes 48 0x04aa87ca22be8b05378eb1c71ef320ad746e1d3b628ba79b9859f741e082542a385502f25dbf55296c3a545e3872760a ++
    beBytes 48 0xb73617de4a96262c6f5d9e98bf9292dc29f8f41dbd289a147ce9da3113b5f0b8c00a60b1ce1d7e819d7a431d7c90ea0e ++
    beBytes 48 0x5f000000000000000000000000000000010000008001000068010000000000001c434eee5beaca2589df761e1c9629cd ++
    beBytes 48 0x28e422083f7917b391cdebe29c7a1edf31ea6cf017404ef8b18f650e646d2847aa87ca22be8b05378eb1c71ef320ad74 ++
    beBytes 48 0x6e1d3b628ba79b9859f741e082542a385502f25dbf55296c3a545e3872760ab7ec6f79d5fe4cdf51b1cab12df4f9aec3 ++
    beBytes 48 0xf71806daac9685a78d8b5addea4d04271261c9ab7281217835f84db6db3a258f00000000000000000000000000000000 ++
    beBytes 48 0x000000000000000000000000000000000000000000000000000000000000000000000000000000000000000000000000 ++
    beBytes 48 0x4c4e554301000000010000000000000004aa87ca22be8b05378eb1c71ef320ad746e1d3b628ba79b9859f741e082542a ++
    beBytes 48 0x385502f25dbf55296c3a545e3872760ab73617de4a96262c6f5d9e98bf9292dc29f8f41dbd289a147ce9da3113b5f0b8 ++
    beBytes 48 0xc00a60b1ce1d7e819d7a431d7c90ea0e5f00000000000000000000000000000000000000000000000000000000000000 ++
    beBytes 48 0x000000000000000000000000000000000000000000000000000000000000000000000000000000000000000000000000 ++
    beBytes 48 0x000000000000000000000000000000000000000000000000000000000000000000000000000000000000000000000000 ++
    beBytes 48 0x00000000000000000000000000000000aa87ca22be8b05378eb1c71ef320ad746e1d3b628ba79b9859f741e082542a38 ++
    beBytes 48 0x5502f25dbf55296c3a545e3872760ab728870a5347135bdbecf6d37fad5d1409f9e86a1a0f7cb8250e9632e1bbf325ad ++
    beBytes 24 0xead9ee680fc0403d55963456656218510102030405060708
/-- SHA-384 of the key, as the fuses hold it. -/
def keyHash : List Byte := beBytes 48 0x8c4f262412b7f9ed867606705a130de5212fd048fbaf8c3842f4a240f4b45ba0c90f82194ccdda3ed89c96b0afe1d51d
/-- A device at image selection whose fuses hold the key's hash and whose flash slot A holds that image. -/
def fused : State :=
  let s := (List.range 6).foldl (fun s i => (s.setReg (Off.BOOT_FUSE_RD (8 + i)) (fld keyHash (8 * i) 8)).setReg
    (Off.BOOT_FUSE_RD (14 + i)) (fld keyHash (8 * i) 8)) (booting 3 1 [])
  { s with boot := { s.boot with flash := (List.range' 0 744).zip signedImg } }

/-- Reading a list of cells at consecutive addresses. -/
theorem lookup_zip (l : List Byte) : ∀ k i, i < l.length → ((List.range' k l.length).zip l).lookup (k + i) = l[i]? := by
  induction l with
  | nil => intro k i h; exact absurd h (Nat.not_lt_zero i)
  | cons x t ih =>
    intro k i h
    cases i with
    | zero => simp [List.range'_succ]
    | succ j =>
      have e : (k + (j + 1) == k) = false := by simp
      have h' : k + (j + 1) = k + 1 + j := by omega
      simp only [List.length_cons, List.range'_succ, List.zip_cons_cons, List.lookup, e, List.getElem?_cons_succ]
      rw [h']
      exact ih (k + 1) j (by simpa using h)

/-- A flash that holds a list of bytes from address 0 gives its first bytes. -/
theorem flash_zip (s : State) (l : List Byte) (e : s.boot.flash = (List.range' 0 l.length).zip l) (n : Nat) (h : n ≤ l.length) :
    flashRead s 0 n = l.take n := by
  refine List.ext_getElem (by simp [flashRead, h]) fun i h1 h2 => ?_
  have hi : i < l.length := by simp at h2; omega
  simp only [flashRead, flashByte, e, List.getElem_map, List.getElem_range, lookup_zip _ 0 i hi, List.getElem?_eq_getElem hi,
    Option.getD_some, List.getElem_take]

/-- The image has 744 bytes. -/
theorem signedImg_length : signedImg.length = 744 := by decide +kernel

/-- The flash gives the image's first bytes. -/
theorem flash_fused (n : Nat) (h : n ≤ 744) : flashRead fused 0 n = signedImg.take n :=
  flash_zip fused signedImg (by rw [signedImg_length]; rfl) n (by rw [signedImg_length]; exact h)

/-- BringUp: an image that passes every check in flash slot A. -/
theorem meets_BringUp_image :
    slotImage fused 0 = signedImg ∧ fused.boot.step = 3 ∧ fused.getF Fld.BOOT_STATUS_PHASE = 1 := by
  refine ⟨?_, by decide +kernel, by decide +kernel⟩
  have m : imgMagic (signedImg.take 0xA0) = true := by decide +kernel
  have l : max 0xA0 (min (imgLen (signedImg.take 0xA0)) (2 ^ 24)) = 744 := by decide +kernel
  have e : slotImage fused 0 = if imgMagic (flashRead fused 0 0xA0) then
      flashRead fused 0 (max 0xA0 (min (imgLen (flashRead fused 0 0xA0)) (2 ^ 24))) else flashRead fused 0 0xA0 := rfl
  rw [e, flash_fused 0xA0 (by decide), if_pos m, l, flash_fused 744 (Nat.le_refl _)]
  exact List.take_of_length_le (Nat.le_of_eq signedImg_length)

/-- BringUp: the image passes every check, and slot B holds none. -/
theorem meets_BringUp_passes : imageError fused signedImg = 0 ∧ imageError fused (slotImage fused 0x100_0000) ≠ 0 := by
  decide +kernel

/-- A dialect table of an account and an amount field, one route and three templates. -/
def dial0 : List Byte :=
  bytesOf [0x45, 0x57, 0x44, 0x31, 1, 0, 0, 0, 1, 0, 0, 2, 8, 0, 0, 0, 2, 0, 1, 0, 0, 0, 3, 0] ++ leBytes 4 0x40 ++ leBytes 4 0x60 ++
    zeros 4 ++ leBytes 4 0x68 ++ zeros 8 ++ bytesOf [0, 0, 0, 4, 0, 0, 0, 0] ++ leBytes 4 0x98 ++ zeros 4 ++
    bytesOf [1, 0, 2, 0, 19, 0, 1, 2, 0, 0, 0, 0, 0, 0, 0, 0] ++ bytesOf [2, 0, 4, 0, 12, 0, 4, 3, 0, 0, 0, 0, 0, 0, 0, 0] ++ zeros 56
/-- Stand-in rules over that dialect. -/
def rules0 : List Byte :=
  bytesOf [0x53, 0x49, 0x52, 0x31, 1, 0, 0, 0, 1, 0, 2, 0, 1, 0, 0, 0, 0, 0, 0, 4] ++ zeros 76
/-- An image with the sections SI_DIALECT and SI_RULES. -/
def imgSi : List Byte :=
  let sec (ty off len : Nat) := bytesOf [ty, 0, 0, 0] ++ leBytes 4 off ++ leBytes 4 len
  patch (patch (patch (patch (patch (zeros 0x300) 0 (bytesOf [0x4C, 0x4E, 0x43, 0x49, 1, 0, 2, 0] ++ leBytes 4 0x300)) 0xA0
    (sec 2 0x180 0x98)) 0xE0 (sec 3 0x240 0x60)) 0x180 dial0) 0x240 rules0

/-- BringUp, STANDIN_OPEN: sections that are in range. -/
theorem meets_BringUp_standin :
    sectionOf imgSi 2 = some dial0 ∧ sectionOf imgSi 3 = some rules0 ∧ sectionOf imgSi 4 = none ∧
      siSectionsOk dial0 rules0 = true := by
  decide +kernel

/-- A stand-in rule that every message meets. -/
def siRule (flags : Nat) : SiRule :=
  { key := 0, mask := 0, amtMax := 100, currency := 0, absent := 0, template := 4, alt := 5, cntMax := 2, flags := flags, reserved := 0 }

/-- StandinAndRelease, rules: with a wrong MAC, with the first rule that is met after one that is not, and with none. -/
theorem meets_StandinAndRelease_rules :
    let h := readSiHead (zeros 64)
    let hit (r : SiRule) : Prop := 0 &&& r.mask = r.key &&& r.mask ∧ (r.currency = 0 ∨ r.currency = 7) ∧
      (r.absent = 0 ∨ false = false) ∧ ∃ a, some 100 = some a ∧ a ≤ r.amtMax
    ({ h with mac := 3 } : SiHead).mac ≠ 0 ∧ h.mac = 0 ∧ hit (siRule 2) ∧ hit (siRule 1) ∧ hit (siRule 5) ∧ hit (siRule 0) ∧
      ¬hit { siRule 2 with currency := 8 } ∧ ¬hit { siRule 2 with amtMax := 99 } := by
  refine ⟨by decide, by decide, ⟨rfl, .inl rfl, .inl rfl, 100, rfl, by decide⟩, ⟨rfl, .inl rfl, .inl rfl, 100, rfl, by decide⟩,
    ⟨rfl, .inl rfl, .inl rfl, 100, rfl, by decide⟩, ⟨rfl, .inl rfl, .inl rfl, 100, rfl, by decide⟩, ?_, ?_⟩
  · rintro ⟨-, h | h, -⟩ <;> revert h <;> decide
  · rintro ⟨-, -, -, a, h, g⟩
    cases h
    revert g
    decide

/-- A stand-in transaction in TILE.0's queue. -/
def siTxn : Txn := { txn0 with si := true, phase := .queued, dtab := 0x10000, reqPa := 0x20000 }
/-- Stand-in service, with a rule header. -/
def si0 (noMatch : Nat) : State :=
  withT [siTxn] ({ (isl0.setF Fld.BOOT_STATUS_PHASE 3) with boot := { isl0.boot with siOpen := true } }.wr (tileAddr 0 0x18_0016)
    (leBytes 2 noMatch))

/-- StandinAndRelease, decisions: one that is logged, one that finds the log full, and a REFUSE. -/
theorem meets_StandinAndRelease_decide :
    let s := si0 0
    let d := dialectAt s true 0x10000
    let h := siHead d.2
    let r := d.2.rd 0x20000 16
    let full := s.setF Fld.BOOT_STATUS_SILOG 131072
    s.txn? 1 = some siTxn ∧ siTxn.si = true ∧ standinService s = true ∧ tileZeroServes s = true ∧ d.1.isSome = true ∧
      siLog d.2 < 131072 ∧ siLog full = 131072 ∧ ((recField r h.acct).getD []).length = 0 ∧
      (settle d.2 h [] 0 (.decline 0 0xFFFF)).isSome = true ∧ (settle d.2 h [] 0 .refuse).isNone = true ∧
      (siHead (si0 0xFFFF)).noMatch = 0xFFFF ∧ h.noMatch = 0 ∧ (findAcc s (sipHash h.k0 h.k1 []) (siAcct [])).isSome = true := by
  decide +kernel

/-- StandinAndRelease, release: no condition fails, with stand-in work and without; one fails; tiles that join. -/
theorem meets_StandinAndRelease_release :
    let s := ((demo.setF Fld.BOOT_STATUS_PHASE 4).setF Fld.JNL_CTRL_ENABLE 1).setF (Fld.JNL_AREA_ARMED 0) 1
    let w := withT [siTxn] s
    let j := (demo.setF Fld.BOOT_STATUS_PHASE 6).setF (Fld.PWR_ISL_STATUS_STATE 0) 1
    let u := journalEpochZero (siLog s + 2) ((s.setF Fld.BOOT_STATUS_REL_ERR 0).setF Fld.BOOT_STATUS_PHASE 5)
    let n := { s with jnl := { s.jnl with tailNamed := true } }
    releaseError s = 0 ∧ standinDone s = true ∧ releaseError w = 0 ∧ standinDone w = false ∧ releaseError demo = 0x20 ∧
      demo.getF Fld.BOOT_STATUS_PHASE ≠ 4 ∧ j.getF Fld.BOOT_STATUS_PHASE = 6 ∧ islandState j 0 = 1 ∧ (j.isl 0).action = none ∧
      (j.jnl.recs.all fun r => r.epoch != 0 || r.complete) = true ∧
      (siLog u < u.boot.relAt ∧ releaseRoom u = true ∧ u.boot.relAt ≠ 0) ∧
      (n.jnl.tailNamed = true ∧ n.jnl.tailSeal = none) := by
  decide +kernel

/-! ## Setup registers, time and debug -/

/-- SetupRegisters: a register without further effect, one of RO fields, and accesses that find none. -/
theorem meets_SetupRegisters :
    (∃ g k, RegMap.at? Off.LDG_BTAB = some (g, k) ∧ g.bytes = 8 ∧ ∀ f ∈ g.fields, f.acc ≠ .wo ∧ f.clamp = .keep) ∧
      Off.LDG_BTAB % 8 = 0 ∧ (∀ x b u, regEffect Off.LDG_BTAB x b u = u) ∧
      (∀ s old w m new, specialWritten s Off.LDG_BTAB old w m new = new) ∧
      (∃ g k, RegMap.at? Off.BOOT_T_PG = some (g, k) ∧ g.bytes = 8 ∧ ∀ f ∈ g.fields, f.acc = .ro) ∧ Off.BOOT_T_PG % 8 = 0 := by
  refine ⟨⟨_, _, rfl, rfl, by decide⟩, by decide, fun _ _ _ => rfl, fun _ _ _ _ _ => rfl, ⟨_, _, rfl, rfl, by decide⟩, by decide⟩

/-- SetupRegisters, accesses that find no register or are aborted; the end of the SMBus range. -/
theorem meets_SetupRegisters_bad :
    bar0Shape 0x4_FFF8 8 = true ∧ regCovering 0x4_FFF8 = none ∧ bar0Shape 0x100 3 = false ∧
      hostReaches (demo.setF Fld.HIF_STATUS_MODE 1) = true ∧ hostReaches demo = false ∧
      (demo.setF Fld.HIF_STATUS_MODE 1).getF Fld.SYS_STATUS_BAD_ACCESS = 0 ∧ bar0Shape Off.LDG_BTAB 4 = true ∧
      (regCovering Off.LDG_BTAB).isSome = true ∧ (demo.setF Fld.SYS_STATUS_BAD_ACCESS 1).getF Fld.SYS_STATUS_BAD_ACCESS = 1 ∧
      0x4_FFF8 < 0x5_0000 ∧ 0x4_FFF8 % 8 = 0 ∧ (demo.hif.msix[(5 : Fin 64)]).masked = false := by
  decide +kernel

/-- TimeAndDebug: a step within its bound and beyond it, edges, pulses, and a debug request in a device that is released. -/
theorem meets_TimeAndDebug :
    let s := { (((demo.setF Fld.SYS_PPS_OUT_EN 1).setF Fld.BOOT_STATUS_PHASE 6).setF Fld.SYS_TIME_CFG_STEP_MAX_NS 1000) with
      devtime := 5000000000 }
    let p := { s with sys := { s.sys with lastPps := some 4900000000, ppsOut := some 4000000000 } }
    let z := { s with cry := { s.cry with zeroing := true }, sys := { s.sys with dbgWait := true } }
    s.getF Fld.BOOT_STATUS_PHASE = 6 ∧ s.getF Fld.SYS_TIME_CFG_STEP_MAX_NS < (-1001 : Word).toInt.natAbs ∧
      (-1000 : Word).toInt.natAbs ≤ s.getF Fld.SYS_TIME_CFG_STEP_MAX_NS ∧ s.getF Fld.SYS_PPS_OUT_EN = 1 ∧
      s.now / 1000000000 ≠ (5000000000 + (-1000 : Word)).toNat / 1000000000 ∧ s.getF Fld.SYS_TIME_RATE_ADJ = 0 ∧
      s.sys.frac < 2 ^ 32 ∧ s.getF Fld.SYS_TIME_CFG_PPS_EDGE = 0 ∧ s.sys.lastPps = none ∧ p.sys.lastPps = some 4900000000 ∧
      p.now < 4900000000 + 500000000 ∧ s.now % 1000000000 = 0 ∧ p.sys.ppsOut = some 4000000000 ∧
      4000000000 + p.getF Fld.SYS_PPS_OUT_WIDTH_NS ≤ p.now ∧ s.sys.dbgWait = false ∧ z.cry.zeroing = true ∧
      z.sys.dbgWait = true := by
  decide +kernel

/-! ## The block -/

/-- StepRunsFront: a command at the front of the queue, and an empty queue. -/
theorem meets_StepRunsFront :
    ({ State.reset with pending := [.doorbellPoll] } : State).pending = .doorbellPoll :: [] ∧ State.reset.pending = [] := by
  decide

/-- CanonicalKept: reset is in canonical form. -/
theorem meets_CanonicalKept : Canonical State.reset := by unfold Canonical; decide +kernel

/-- A step runs the command in front and takes it from the queue: with no link, DOORBELL_SNOOP changes nothing (R340). -/
theorem test_step_front :
    (match step { State.reset with pending := [.doorbellSnoop 3, .warmReset] } with
     | .next t => t.pending == [.warmReset] && t.regs == []
     | _ => false) = true := by
  decide +kernel

end Sys2Proof.Tests
end

namespace Sys2Proof.Proofs

open Sys2Proof Sys2Proof.Machine Sys2Proof.Laws

/-! # Setup registers (R7, R8, R334, R422 to R426, R429, R430, R441)

## Bits of fields -/

/-- A bit of a field of a number. -/
theorem testBit_bitsOf (x lo w i : Nat) : (bitsOf x lo w).testBit i = (decide (i < w) && x.testBit (lo + i)) := by
  unfold bitsOf
  rw [Nat.testBit_mod_two_pow, Nat.testBit_shiftRight]

/-- A bit that none of the replaced fields holds stays as it is. -/
theorem testBit_foldl_putBits_outside (val : RField → Nat) (fields : List RField) (x i : Nat)
    (h : ∀ f ∈ fields, i < f.lo ∨ f.lo + f.width ≤ i) :
    (fields.foldl (fun a f => putBits a f.lo f.width (val f)) x).testBit i = x.testBit i := by
  induction fields generalizing x with
  | nil => rfl
  | cons f fs ih =>
    have hf : ¬(f.lo ≤ i ∧ i < f.lo + f.width) := by have := h f List.mem_cons_self; omega
    rw [List.foldl_cons, ih _ fun g hg => h g (List.mem_cons_of_mem _ hg), testBit_putBits, if_neg hf]

/-- Two fields of a register share no bit. -/
def RField.Apart (f g : RField) : Prop := f.lo + f.width ≤ g.lo ∨ g.lo + g.width ≤ f.lo

/-- Of fields that share no bit, each holds its own value after all are replaced. -/
theorem testBit_foldl_putBits_of_mem (val : RField → Nat) {fields : List RField} (x : Nat)
    (ha : fields.Pairwise RField.Apart) {f : RField} (hf : f ∈ fields) {i : Nat} (hi : i < f.width) :
    (fields.foldl (fun a f => putBits a f.lo f.width (val f)) x).testBit (f.lo + i) = (val f).testBit i := by
  induction fields generalizing x with
  | nil => exact absurd hf List.not_mem_nil
  | cons g gs ih =>
    obtain ⟨hg, hgs⟩ := List.pairwise_cons.1 ha
    rw [List.foldl_cons]
    rcases List.mem_cons.1 hf with rfl | hmem
    · have outside : ∀ g ∈ gs, f.lo + i < g.lo ∨ g.lo + g.width ≤ f.lo + i := fun g hg' => by
        have := hg g hg'; unfold RField.Apart at this; omega
      rw [testBit_foldl_putBits_outside _ _ _ _ outside, testBit_putBits, if_pos (by omega), Nat.add_sub_cancel_left]
    · exact ih _ hgs hmem

/-! ## The register map -/

/-- The fields of a register share no bit and lie within its 64 bits. -/
def RegGroup.Formed (g : RegGroup) : Prop := g.fields.Pairwise RField.Apart ∧ ∀ f ∈ g.fields, f.lo + f.width ≤ 64

theorem block_formed (n : Nat) : ∀ g ∈ RegMap.block n, RegGroup.Formed g := by
  unfold RegGroup.Formed RField.Apart
  by_cases h : n < 14
  · have all : ∀ m : Fin 14, ∀ g ∈ RegMap.block m.val, g.fields.Pairwise
        (fun a b => a.lo + a.width ≤ b.lo ∨ b.lo + b.width ≤ a.lo) ∧ ∀ f ∈ g.fields, f.lo + f.width ≤ 64 := by
      decide +kernel
    exact all ⟨n, h⟩
  · obtain ⟨m, rfl⟩ := Nat.exists_eq_add_of_le' (Nat.le_of_not_lt h)
    exact fun g hg => absurd hg List.not_mem_nil

section
variable {off k : Nat} {g : RegGroup} (hat : RegMap.at? off = some (g, k))
include hat

theorem mem_block_of_at? : g ∈ RegMap.block (off / 65536) := by
  obtain ⟨g', hmem, he⟩ := List.exists_of_findSome?_eq_some hat
  obtain ⟨_, -, hk⟩ := Option.map_eq_some_iff.1 he
  cases hk
  exact hmem

theorem formed_of_at? : RegGroup.Formed g := block_formed _ g (mem_block_of_at? hat)

/-- R421: the registers lie in the first 14 blocks of 64 KiB. -/
theorem offset_lt_of_at? : off < 14 * 65536 := by
  by_contra hge
  obtain ⟨m, hm⟩ := Nat.exists_eq_add_of_le' (show 14 ≤ off / 65536 by omega)
  have hmem := mem_block_of_at? hat
  rw [hm] at hmem
  exact List.not_mem_nil hmem

variable (hbytes : g.bytes = 8) (halign : off % 8 = 0)
include hbytes halign

theorem regCovering_start : regCovering off = some (off, 8) := by
  unfold regCovering
  simp [halign, hat, hbytes]

theorem regCovering_upper : regCovering (off + 4) = some (off, 8) := by
  have hmod : (off + 4) % 8 = 4 := by omega
  unfold regCovering
  simp [hmod, hat, hbytes]

omit hbytes in
theorem bar0Shape_of_at? {d size : Nat} (hd : d = 0 ∧ (size = 4 ∨ size = 8) ∨ d = 4 ∧ size = 4) :
    bar0Shape (off + d) size = true := by
  have := offset_lt_of_at? hat
  unfold bar0Shape
  rcases hd with ⟨rfl, rfl | rfl⟩ | ⟨rfl, rfl⟩ <;> simp <;> omega

end

/-! ## What a write stores in a field -/

/-- Of the bits that an access covers the new value, of the others the old one. -/
theorem testBit_merged (old w m lo width : Nat) {i : Nat} (hi : i < width) :
    ((bitsOf old lo width &&& ((2 ^ width - 1) ^^^ bitsOf m lo width)) ||| (bitsOf w lo width &&& bitsOf m lo width)).testBit i =
      if m.testBit (lo + i) then w.testBit (lo + i) else old.testBit (lo + i) := by
  simp only [Nat.testBit_or, Nat.testBit_and, Nat.testBit_xor, Nat.testBit_two_pow_sub_one, testBit_bitsOf, hi, decide_true,
    Bool.true_and]
  cases m.testBit (lo + i) <;> simp

/-- A field that the access does not touch has no covered bit. -/
theorem testBit_eq_false_of_bitsOf_eq_zero {m lo width i : Nat} (h : bitsOf m lo width = 0) (hi : i < width) :
    m.testBit (lo + i) = false := by
  have := testBit_bitsOf m lo width i
  rw [h] at this
  simpa [hi] using this.symm

section
variable {f : RField} (k : Nat) (locked : Bool) (old w m : Nat) {i : Nat} (hi : i < f.width)
include hi

theorem testBit_written_readOnly (ha : f.acc = .ro ∨ f.acc = .wo) :
    (f.written k locked old w m).testBit i = old.testBit (f.lo + i) := by
  unfold RField.written
  rcases ha with ha | ha <;> simp [ha, testBit_bitsOf, hi]

theorem testBit_written_w1c (ha : f.acc = .w1c) :
    (f.written k locked old w m).testBit i =
      (old.testBit (f.lo + i) && !(w.testBit (f.lo + i) && m.testBit (f.lo + i))) := by
  unfold RField.written
  simp [ha, testBit_bitsOf, hi, Nat.testBit_two_pow_sub_one]

theorem testBit_written_rw (ha : f.acc = .rw) (hc : f.clamp = .keep) :
    (f.written k locked old w m).testBit i =
      if m.testBit (f.lo + i) then w.testBit (f.lo + i) else old.testBit (f.lo + i) := by
  unfold RField.written
  simp only [ha, hc, Clamp.apply]
  split
  · next h => rw [testBit_eq_false_of_bitsOf_eq_zero h hi, testBit_bitsOf]; simp [hi]
  · exact testBit_merged old w m f.lo f.width hi

theorem testBit_written_rwl (ha : f.acc = .rwl) (hc : f.clamp = .keep) :
    (f.written k locked old w m).testBit i = if locked then old.testBit (f.lo + i) else
      if m.testBit (f.lo + i) then w.testBit (f.lo + i) else old.testBit (f.lo + i) := by
  cases locked with
  | true =>
    unfold RField.written
    simp [ha, testBit_bitsOf, hi]
  | false =>
    have hrw : f.written k false old w m = RField.written { f with acc := .rw } k false old w m := by
      unfold RField.written; simp [ha]
    rw [hrw, testBit_written_rw (f := { f with acc := .rw }) k false old w m hi rfl hc]
    simp

/-- A bit that the access does not cover stays as it is. -/
theorem testBit_written_uncovered (hc : f.clamp = .keep) (hm : m.testBit (f.lo + i) = false) :
    (f.written k locked old w m).testBit i = old.testBit (f.lo + i) := by
  cases ha : f.acc with
  | ro => exact testBit_written_readOnly k locked old w m hi (.inl ha)
  | wo => exact testBit_written_readOnly k locked old w m hi (.inr ha)
  | rw => rw [testBit_written_rw k locked old w m hi ha hc]; simp [hm]
  | rwl => rw [testBit_written_rwl k locked old w m hi ha hc]; simp [hm]
  | w1c => rw [testBit_written_w1c k locked old w m hi ha]; simp [hm]

end

/-! ## What a write stores in a register -/

section
variable {g : RegGroup} (k : Nat) (locked : Bool) (old w m : Nat)

theorem testBit_groupWritten_of_mem (hg : RegGroup.Formed g) {f : RField} (hf : f ∈ g.fields) {i : Nat} (hi : i < f.width) :
    (g.written k locked old w m).testBit (f.lo + i) = (f.written k locked old w m).testBit i :=
  testBit_foldl_putBits_of_mem _ old hg.1 hf hi

/-- R8: reserved bits. -/
theorem testBit_groupWritten_reserved {i : Nat} (h : ∀ f ∈ g.fields, i < f.lo ∨ f.lo + f.width ≤ i) :
    (g.written k locked old w m).testBit i = old.testBit i :=
  testBit_foldl_putBits_outside _ _ old i h

theorem testBit_groupWritten_uncovered (hg : RegGroup.Formed g) (hc : ∀ f ∈ g.fields, f.clamp = .keep) {i : Nat}
    (hm : m.testBit i = false) : (g.written k locked old w m).testBit i = old.testBit i := by
  by_cases h : ∃ f ∈ g.fields, f.lo ≤ i ∧ i < f.lo + f.width
  · obtain ⟨f, hf, hlo, hhi⟩ := h
    obtain ⟨j, rfl⟩ := Nat.exists_eq_add_of_le hlo
    have hj : j < f.width := by omega
    rw [testBit_groupWritten_of_mem k locked old w m hg hf hj, testBit_written_uncovered k locked old w m hj (hc f hf) hm]
  · refine testBit_groupWritten_reserved k locked old w m fun f hf => ?_
    by_contra hin
    exact h ⟨f, hf, by omega, by omega⟩

end

/-- The part of a register that a write stores. -/
theorem testBit_reg_setReg (s : State) (off v : Nat) {i : Nat} (hi : i < 64) :
    ((s.setReg off v).reg off).testBit i = v.testBit i := by
  rw [reg_setReg, if_pos rfl, Nat.testBit_mod_two_pow]
  simp [hi]

theorem testBit_reg_of_le (s : State) (off : Nat) {i : Nat} (hi : 64 ≤ i) : (s.reg off).testBit i = false :=
  Nat.testBit_lt_two_pow (lt_of_lt_of_le (s.reg_lt off) (Nat.pow_le_pow_right (by decide) hi))

/-! ## Writes -/

/-- The bits that a write of the whole register covers. -/
theorem testBit_whole {i : Nat} (hi : i < 64) : (2 ^ 64 - 1).testBit i = true := by
  rw [Nat.testBit_two_pow_sub_one]; simpa using hi

/-- The bits that a write of the lower half does not cover. -/
theorem testBit_lowerHalf {i : Nat} (hi : 32 ≤ i) : (2 ^ 32 - 1).testBit i = false := by
  rw [Nat.testBit_two_pow_sub_one]; simpa using hi

theorem locked_eq_true_iff (s : State) : s.locked = true ↔ s.getF Fld.SYS_STATUS_LOCKED = 1 := by
  unfold State.locked; simp

section
variable {off k : Nat} {g : RegGroup} (hat : RegMap.at? off = some (g, k)) (hbytes : g.bytes = 8) (halign : off % 8 = 0)
include hat hbytes

/-- R425: a write takes effect in a register without WO fields, and in any register as a whole. -/
theorem regStore_taken (s : State) (w m : Nat) (hwo : (∀ f ∈ g.fields, f.acc ≠ .wo) ∨ m = 2 ^ 64 - 1) :
    regStore s off w m = regEffect off (w &&& m) s
      (s.setReg off (specialWritten s off (s.reg off) w m (g.written k s.locked (s.reg off) w m))) := by
  have htaken : ¬((g.fields.any fun f => f.acc == .wo) = true ∧ (!decide (m = 2 ^ (8 * g.bytes) - 1)) = true) := by
    rw [hbytes]
    rcases hwo with hnone | hwhole
    · simpa using fun f hf ha => absurd ha (hnone f hf)
    · simp [hwhole]
  unfold regStore
  simp only [hat]
  exact if_neg htaken

/-- A write to a register that has no further effect: only the register takes a value. -/
theorem regStore_plain {s : State} (heffect : ∀ x b u, regEffect off x b u = u)
    (hspecial : ∀ old w m new, specialWritten s off old w m new = new) (w m : Nat)
    (hwo : (∀ f ∈ g.fields, f.acc ≠ .wo) ∨ m = 2 ^ 64 - 1) :
    regStore s off w m = s.setReg off (g.written k s.locked (s.reg off) w m) := by
  rw [regStore_taken hat hbytes s w m hwo, heffect, hspecial]

/-- R425: a part of a register with WO fields is not written. -/
theorem regStore_part_of_wo (s : State) (w m : Nat) (hwo : ∃ f ∈ g.fields, f.acc = .wo) (hm : m ≠ 2 ^ 64 - 1) :
    regStore s off w m = s := by
  have hany : (g.fields.any fun f => f.acc == .wo) = true := by simpa using hwo
  unfold regStore
  simp only [hat]
  exact if_pos ⟨hany, by simpa [hbytes] using hm⟩

include halign

theorem regWrite_whole (s : State) (v : Word) : regWrite s off 8 v.toNat = regStore s off v.toNat (2 ^ 64 - 1) := by
  have hv : v.toNat % 2 ^ (8 * 8) = v.toNat := Nat.mod_eq_of_lt v.isLt
  unfold regWrite
  simp only [regCovering_start hat hbytes halign, hv]
  simp

theorem regWrite_lowerHalf (s : State) (w : Nat) : regWrite s off 4 w = regStore s off (w % 2 ^ 32) (2 ^ 32 - 1) := by
  unfold regWrite
  simp only [regCovering_start hat hbytes halign]
  simp

theorem hostRegWrite_start (s : State) {size : Nat} (hsize : size = 4 ∨ size = 8) (w : Nat) :
    hostRegWrite s off size w = regWrite s off size w := by
  have hshape : bar0Shape off size = true := bar0Shape_of_at? hat halign (d := 0) (.inl ⟨rfl, hsize⟩)
  unfold hostRegWrite
  simp [hshape, regCovering_start hat hbytes halign]

/-- REGISTER_WRITE of a whole register, by the host or by a core. -/
theorem exec_registerWrite_whole (s : State) (who : Requester) (hwho : who = .host → hostReaches s = true) (v : Word) :
    exec (.registerWrite who off 8 v) s = .next (regStore s off v.toNat (2 ^ 64 - 1)) := by
  rw [exec_registerWrite, ← regWrite_whole hat hbytes halign]
  unfold execRegisterWrite
  cases who with
  | host => simp only [hwho rfl, if_true, hostRegWrite_start hat hbytes halign s (.inr rfl)]
  | core c => simp [halign]

/-- REGISTER_WRITE of the lower half of a register by the host. -/
theorem exec_registerWrite_lowerHalf (s : State) (hreach : hostReaches s = true) (v : Word) :
    exec (.registerWrite .host off 4 v) s = .next (regStore s off (v.toNat % 2 ^ 32) (2 ^ 32 - 1)) := by
  rw [exec_registerWrite, ← regWrite_lowerHalf hat hbytes halign]
  unfold execRegisterWrite
  simp only [hreach, if_true, hostRegWrite_start hat hbytes halign s (.inl rfl)]

omit halign hbytes

/-- A bit of a field after a write of the whole register. -/
theorem testBit_written_whole (s : State) (v : Word) {f : RField} (hf : f ∈ g.fields) {i : Nat} (hi : i < f.width) :
    let new := ((s.setReg off (g.written k s.locked (s.reg off) v.toNat (2 ^ 64 - 1))).reg off).testBit (f.lo + i)
    let old := (s.reg off).testBit (f.lo + i)
    (f.acc = .ro ∨ f.acc = .wo → new = old) ∧
    (f.acc = .rw → f.clamp = .keep → new = v.getLsbD (f.lo + i)) ∧
    (f.acc = .rwl → f.clamp = .keep → new = if s.getF Fld.SYS_STATUS_LOCKED = 1 then old else v.getLsbD (f.lo + i)) ∧
    (f.acc = .w1c → new = (old && !v.getLsbD (f.lo + i))) := by
  intro new old
  have hformed := formed_of_at? hat
  have h64 : f.lo + i < 64 := by have := hformed.2 f hf; omega
  have hnew : new = (f.written k s.locked (s.reg off) v.toNat (2 ^ 64 - 1)).testBit i :=
    (testBit_reg_setReg s off _ h64).trans (testBit_groupWritten_of_mem k _ _ _ _ hformed hf hi)
  have hv : v.getLsbD (f.lo + i) = v.toNat.testBit (f.lo + i) := rfl
  rw [hnew, hv]
  refine ⟨fun ha => testBit_written_readOnly k _ _ _ _ hi ha, fun ha hc => ?_, fun ha hc => ?_, fun ha => ?_⟩
  · rw [testBit_written_rw k _ _ _ _ hi ha hc, testBit_whole h64, if_pos rfl]
  · rw [testBit_written_rwl k _ _ _ _ hi ha hc, testBit_whole h64, if_pos rfl]
    exact if_congr (locked_eq_true_iff s) rfl rfl
  · rw [testBit_written_w1c k _ _ _ _ hi ha, testBit_whole h64, Bool.and_true]

omit hat

/-- R8: a reserved bit after a write of the register. -/
theorem testBit_written_reserved (s : State) (w m : Nat) {i : Nat} (h : ∀ f ∈ g.fields, i < f.lo ∨ f.lo + f.width ≤ i) :
    ((s.setReg off (g.written k s.locked (s.reg off) w m)).reg off).testBit i = (s.reg off).testBit i := by
  by_cases h64 : i < 64
  · rw [testBit_reg_setReg s off _ h64, testBit_groupWritten_reserved k _ _ _ _ h]
  · rw [testBit_reg_of_le _ _ (by omega), testBit_reg_of_le _ _ (by omega)]

include hat

/-- A bit of the upper half after a write of the lower half. -/
theorem testBit_written_lowerHalf (s : State) (w : Nat) (hc : ∀ f ∈ g.fields, f.clamp = .keep) {i : Nat} (hi : 32 ≤ i) :
    ((s.setReg off (g.written k s.locked (s.reg off) w (2 ^ 32 - 1))).reg off).testBit i = (s.reg off).testBit i := by
  by_cases h64 : i < 64
  · rw [testBit_reg_setReg s off _ h64,
      testBit_groupWritten_uncovered k _ _ _ _ (formed_of_at? hat) hc (testBit_lowerHalf hi)]
  · rw [testBit_reg_of_le _ _ (by omega), testBit_reg_of_le _ _ (by omega)]

end

/-! ## Reads and their latches -/

theorem hostReaches_congr {s t : State} (h : s.regs = t.regs) : hostReaches s = hostReaches t := by
  unfold hostReaches
  rw [State.getF_congr _ (State.reg_congr h _)]

theorem requesterCode_injective {a b : Requester} (h : requesterCode a = requesterCode b) : a = b := by
  match a, b with
  | .host, .host => rfl
  | .host, .core d => exact absurd h (Nat.succ_ne_zero d.val).symm
  | .core c, .host => exact absurd h (Nat.succ_ne_zero c.val)
  | .core c, .core d => rw [Fin.ext (Nat.succ.inj h)]

/-- A latch of a requester for the register at an offset. -/
def latchOf (who : Requester) (off : Nat) (p : Nat × Nat × Nat) : Bool := p.1 == requesterCode who && p.2.1 == off

/-- The latches without the one of a requester for a register. -/
def latchesBut (s : State) (who : Requester) (off : Nat) : List (Nat × Nat × Nat) :=
  s.sys.latches.filter fun p => !latchOf who off p

/-- The read of a lower half that latches the upper half `hi`. -/
def latched (s : State) (who : Requester) (off hi : Nat) : State :=
  { s with sys := { s.sys with latches := (requesterCode who, off, hi) :: latchesBut s who off } }

/-- The read of an upper half that uses the latch up. -/
def unlatched (s : State) (who : Requester) (off : Nat) : State :=
  { s with sys := { s.sys with latches := latchesBut s who off } }

theorem find?_latchesBut_ne (s : State) {who w : Requester} (off : Nat) (h : w ≠ who) :
    (latchesBut s who off).find? (fun p => p.1 == requesterCode w) =
      s.sys.latches.find? (fun p => p.1 == requesterCode w) := by
  have hcode : requesterCode w ≠ requesterCode who := fun e => h (requesterCode_injective e)
  unfold latchesBut
  rw [List.find?_filter]
  congr 1
  funext p
  by_cases hp : p.1 = requesterCode w <;> simp [latchOf, hp, hcode]

theorem any_latchOf_latchesBut (s : State) (who : Requester) (off : Nat) :
    (latchesBut s who off).any (latchOf who off) = false := by
  simp [latchesBut]

theorem latchesBut_latched (s : State) (who : Requester) (off hi : Nat) :
    latchesBut (latched s who off hi) who off = latchesBut s who off := by
  simp [latchesBut, latched, latchOf]

section
variable {off k : Nat} {g : RegGroup} (hat : RegMap.at? off = some (g, k)) (hbytes : g.bytes = 8) (halign : off % 8 = 0)
include hat

theorem allRo_of_at? (hro : ∀ f ∈ g.fields, f.acc = .ro) : allRo off = true := by
  unfold allRo
  simp only [hat]
  simpa using hro

include hbytes halign

/-- R424: a read of the lower half of an RO register latches the upper half. -/
theorem regRead_lower (s : State) (who : Requester) (hro : ∀ f ∈ g.fields, f.acc = .ro) :
    regRead s who off 4 = (regValue s off % 2 ^ 32, latched s who off (regValue s off / 2 ^ 32)) := by
  unfold regRead
  simp only [regCovering_start hat hbytes halign]
  simp [allRo_of_at? hat hro, latched, latchesBut, latchOf]

/-- R424: the read of the upper half that follows returns what was latched. -/
theorem regRead_upper {t : State} {who : Requester} {hi : Nat} {rest : List (Nat × Nat × Nat)}
    (h : t.sys.latches = (requesterCode who, off, hi) :: rest) :
    regRead t who (off + 4) 4 = (hi, unlatched t who off) := by
  unfold regRead
  simp only [regCovering_upper hat hbytes halign]
  simp [h, unlatched, latchesBut, latchOf]

end

/-- What a requester sees of a read: a read of the host completes on its link. -/
def answered (s : State) (who : Requester) (v : Nat) : State :=
  match who with
  | .host => answerHost s (some v)
  | .core _ => s

section
variable (s : State) (who : Requester) (v : Nat)
@[simp] theorem answered_regs : (answered s who v).regs = s.regs := by cases who <;> rfl
@[simp] theorem answered_mem : (answered s who v).mem = s.mem := by cases who <;> rfl
@[simp] theorem answered_sys : (answered s who v).sys = s.sys := by cases who <;> rfl
end

/-- LATCHED_HALF_READ where a register lies. -/
theorem exec_latchedHalfRead_covered (s : State) (who : Requester) (off : Nat) (hwho : who = .host → hostReaches s = true)
    (hshape : bar0Shape off 4 = true) (hcov : (regCovering off).isSome = true) :
    exec (.latchedHalfRead who off) s = .next (answered (regRead s who off 4).2 who (regRead s who off 4).1) := by
  rw [exec_latchedHalfRead]
  unfold execLatchedHalfRead
  cases who with
  | host =>
    have hsome : (regCovering off).isNone = false := by simpa using hcov
    simp [hwho rfl, hostHalfRead, hshape, hsome, answered]
  | core c =>
    have h4 : off % 4 = 0 := by
      unfold bar0Shape at hshape
      simp only [Bool.and_eq_true, beq_iff_eq] at hshape
      exact hshape.1.2
    simp [h4, answered]

@[simp] theorem regRead_out (s : State) (who : Requester) (off size : Nat) : (regRead s who off size).2.out = s.out := by
  unfold regRead
  split
  · rfl
  · dsimp only
    split
    · rfl
    · split
      · rfl
      · split
        · split <;> rfl
        · rfl

/-! ## Refused accesses -/

theorem eventOf_badAccess (old new : Nat) : eventOf Fld.SYS_STATUS_BAD_ACCESS old new = none := by
  unfold eventOf
  rfl

/-- A field whose change raises no system event is written in its register alone. -/
theorem setF_of_eventOf_eq_none {f : FieldRef} (h : ∀ old new, eventOf f old new = none) (s : State) (v : Nat) :
    s.setF f v = s.setReg f.off (putBits (s.reg f.off) f.lo f.width v) := by
  unfold State.setF
  rw [h]

theorem badAccess_recorded {s : State} (h : s.getF Fld.SYS_STATUS_BAD_ACCESS = 1) (reason : Nat) (write : Bool)
    (off size : Nat) : badAccess s reason write off size = s := if_pos h

/-- R422: the record of the first access that is refused. -/
theorem badAccess_first {s : State} (h : s.getF Fld.SYS_STATUS_BAD_ACCESS = 0) (reason : Nat) (write : Bool) (off size : Nat) :
    badAccess s reason write off size = (s.setF Fld.SYS_STATUS_BAD_ACCESS 1).setReg Off.SYS_BAD_ACCESS
      (b2n write * 2 ^ 63 + reason % 16 * 2 ^ 56 + size % 16 * 2 ^ 48 + off % 2 ^ 24) := by
  unfold badAccess
  rw [if_neg (by rw [h]; decide)]

/-- R422: SYS_BAD_ACCESS holds WRITE, REASON, SIZE and OFFSET side by side. -/
theorem badAccess_record_lt (reason : Nat) (write : Bool) (off size : Nat) :
    (b2n write * 2 ^ 63 + reason % 16 * 2 ^ 56 + size % 16 * 2 ^ 48 + off % 2 ^ 24) % 2 ^ 64 =
      (if write then 2 ^ 63 else 0) + reason % 16 * 2 ^ 56 + size % 16 * 2 ^ 48 + off % 2 ^ 24 := by
  cases write <;> simp [b2n] <;> omega

section
variable {s : State} (h : s.getF Fld.SYS_STATUS_BAD_ACCESS = 0) (reason : Nat) (write : Bool) (off size : Nat)
include h

theorem badAccess_first_out : (badAccess s reason write off size).out = s.out := by
  rw [badAccess_first h, State.out_setReg, setF_of_eventOf_eq_none eventOf_badAccess, State.out_setReg]

theorem badAccess_first_mem : (badAccess s reason write off size).mem = s.mem := by
  rw [badAccess_first h]
  simp

theorem badAccess_first_recorded : (badAccess s reason write off size).getF Fld.SYS_STATUS_BAD_ACCESS = 1 := by
  rw [badAccess_first h, State.getF_congr (t := s.setF Fld.SYS_STATUS_BAD_ACCESS 1) _
    (by rw [reg_setReg]; exact if_neg (by decide))]
  exact State.getF_setF_self s _ 1 (by decide) (by decide)

theorem badAccess_first_record : (badAccess s reason write off size).reg Off.SYS_BAD_ACCESS =
    (if write then 2 ^ 63 else 0) + reason % 16 * 2 ^ 56 + size % 16 * 2 ^ 48 + off % 2 ^ 24 := by
  rw [badAccess_first h, reg_setReg, if_pos rfl, badAccess_record_lt]

end

/-! ## Events -/

/-- R430: the summary depends on the registers alone. -/
theorem evtSummary_congr {s t : State} (h : s.regs = t.regs) : s.evtSummary = t.evtSummary := by
  unfold State.evtSummary
  rw [State.getF_congr _ (State.reg_congr h _), State.getF_congr Fld.SYS_EVT_EN_EN (State.reg_congr h _)]

theorem getElem_val_mod (v : Vector MsixVec 64) (n : Fin 64) :
    v[(⟨n.val % 64, Nat.mod_lt _ (by decide)⟩ : Fin 64)] = v[n] := by
  congr 1
  exact Fin.ext (Nat.mod_eq_of_lt n.isLt)

/-- A vector that is not masked sends its message. -/
theorem msix_unmasked (u : State) (n : Fin 64) (h : u.hif.msix[n].masked = false) :
    u.msix n.val = { u with out := u.out ++ [.msix n.val] } := by
  unfold State.msix
  dsimp only
  rw [if_neg (by rw [getElem_val_mod, h]; decide)]

/-- A masked vector becomes pending. -/
theorem msix_masked (u : State) (n : Fin 64) (h : u.hif.msix[n].masked = true) :
    (u.msix n.val).out = u.out ∧ ((u.msix n.val).hif.msix[n]).pending = true := by
  unfold State.msix
  dsimp only
  rw [if_pos (by rw [getElem_val_mod, h])]
  exact ⟨rfl, by simp [Nat.mod_eq_of_lt n.isLt]⟩

/-- A message leaves the registers alone and does not depend on them. -/
theorem msix_setReg (s : State) (off x v : Nat) : (s.setReg off x).msix v = (s.msix v).setReg off x := by
  by_cases h : s.hif.msix[(⟨v % 64, Nat.mod_lt _ (by decide)⟩ : Fin 64)].masked = true
  · have h' : (s.setReg off x).hif.msix[(⟨v % 64, Nat.mod_lt _ (by decide)⟩ : Fin 64)].masked = true := h
    unfold State.msix
    dsimp only
    rw [if_pos h, if_pos h']
    rfl
  · have h' : ¬(s.setReg off x).hif.msix[(⟨v % 64, Nat.mod_lt _ (by decide)⟩ : Fin 64)].masked = true := h
    unfold State.msix
    dsimp only
    rw [if_neg h, if_neg h']
    rfl

/-- A register of system events that a write has given a value, and the message of its summary (R430). -/
def signalled (s : State) : State := if s.evtSummary ≠ 0 then s.msix (s.getF Fld.SYS_EVT_EN_VECTOR) else s

@[simp] theorem signalled_regs (s : State) : (signalled s).regs = s.regs := by
  unfold signalled; split <;> simp

@[simp] theorem signalled_mem (s : State) : (signalled s).mem = s.mem := by
  unfold signalled; split <;> simp

theorem signalled_getF (s : State) (f : FieldRef) : (signalled s).getF f = s.getF f :=
  State.getF_congr f (State.reg_congr (signalled_regs s) _)

/-- What goes out after a write of `x` to a register of system events, `vec` being the vector from then on. -/
theorem signalled_setReg_out (s : State) (off x : Nat) {vec : Nat}
    (hvec : (signalled (s.setReg off x)).getF Fld.SYS_EVT_EN_VECTOR = vec) :
    let t := signalled (s.setReg off x)
    t.out = (if t.evtSummary = 0 then s.out else (s.msix vec).out) ∧
      t.hif = (if t.evtSummary = 0 then s.hif else (s.msix vec).hif) := by
  intro t
  have hsum : t.evtSummary = (s.setReg off x).evtSummary := evtSummary_congr (signalled_regs _)
  rw [hsum]
  by_cases h : (s.setReg off x).evtSummary = 0
  · have ht : t = s.setReg off x := if_neg (not_not_intro h)
    rw [if_pos h, if_pos h, ht]
    exact ⟨rfl, rfl⟩
  · have ht : t = (s.msix vec).setReg off x := by
      rw [← msix_setReg, ← hvec, signalled_getF]
      exact if_pos h
    rw [if_neg h, if_neg h, ht]
    exact ⟨rfl, rfl⟩

theorem at?_SYS_EVT : RegMap.at? Off.SYS_EVT = some (⟨0x40, 8, 1, 8, [⟨0, 14, .w1c, 0, .keep⟩], []⟩, 0) := by decide

theorem at?_SYS_EVT_EN :
    RegMap.at? Off.SYS_EVT_EN = some (⟨0x48, 8, 1, 8, [⟨16, 6, .rw, 0, .keep⟩, ⟨0, 14, .rw, 0, .keep⟩], []⟩, 0) := by decide

/-- A write of the whole of SYS_EVT or SYS_EVT_EN. -/
theorem regWrite_event (s : State) {off k : Nat} {g : RegGroup} (hat : RegMap.at? off = some (g, k))
    (hoff : off = Off.SYS_EVT ∨ off = Off.SYS_EVT_EN) (hbytes : g.bytes = 8) (v : Word) :
    regWrite s off 8 v.toNat = signalled (s.setReg off (g.written k s.locked (s.reg off) v.toNat (2 ^ 64 - 1))) := by
  have halign : off % 8 = 0 := by rcases hoff with rfl | rfl <;> rfl
  have heffect : ∀ x b u, regEffect off x b u = signalled u := fun x b u => if_pos hoff
  have hspecial : ∀ old w m new, specialWritten s off old w m new = new := fun old w m new => by
    rcases hoff with rfl | rfl <;> rfl
  rw [regWrite_whole hat hbytes halign, regStore_taken hat hbytes s _ _ (.inr rfl), heffect, hspecial]

/-! ## The SMBus -/

theorem leBytes_length (n x : Nat) : (leBytes n x).length = n := by
  induction n generalizing x with
  | zero => rfl
  | succ n ih => rw [leBytes, List.length_cons, ih]

theorem leBytes_zero (n : Nat) : leBytes n 0 = List.replicate n 0 := by
  induction n with
  | zero => rfl
  | succ n ih => rw [leBytes, ih]; rfl

/-- R441: at a pointer that is a multiple of 8, the register's bytes. -/
theorem smbusData_aligned (s : State) (hlt : s.sys.smbPtr < 0x5_0000) (h8 : s.sys.smbPtr % 8 = 0) :
    smbusData s = leBytes 8 (regRead s .host s.sys.smbPtr 8).1 := by
  have hstart : s.sys.smbPtr / 8 * 8 = s.sys.smbPtr := by omega
  unfold smbusData
  simp only [hstart, h8, List.drop_zero, smbusWord, if_pos hlt]
  rw [List.take_append_of_le_length (by rw [leBytes_length]), List.take_of_length_le (by rw [leBytes_length])]

/-- R441: beyond ERR, zeros. -/
theorem smbusData_beyond (s : State) (hge : 0x5_0000 ≤ s.sys.smbPtr) : smbusData s = List.replicate 8 0 := by
  have hlo : ¬s.sys.smbPtr / 8 * 8 < 0x5_0000 := by omega
  have hhi : ¬s.sys.smbPtr / 8 * 8 + 8 < 0x5_0000 := by omega
  unfold smbusData
  simp only [smbusWord, if_neg hlo, if_neg hhi, leBytes_zero, List.replicate_append_replicate, List.drop_replicate,
    List.take_replicate]
  congr 1
  omega

/-! ## The commands -/

section
variable {off k : Nat} {g : RegGroup} (hat : RegMap.at? off = some (g, k))
include hat

/-- A writable field that takes every value reads as what has been written. -/
theorem bitsOf_written_rw (s : State) (v : Word) {f : RField} (hf : f ∈ g.fields) (ha : f.acc = .rw) (hc : f.clamp = .keep) :
    bitsOf ((s.setReg off (g.written k s.locked (s.reg off) v.toNat (2 ^ 64 - 1))).reg off) f.lo f.width =
      bitsOf v.toNat f.lo f.width := by
  apply Nat.eq_of_testBit_eq
  intro i
  rw [testBit_bitsOf, testBit_bitsOf]
  by_cases hi : i < f.width
  · obtain ⟨-, hrw, -, -⟩ := testBit_written_whole hat s v hf hi
    rw [hrw ha hc]
    rfl
  · simp [hi]

variable (hbytes : g.bytes = 8) (halign : off % 8 = 0)
include hbytes halign

/-- A read of the lower half of an RO register by the host or by a core. -/
theorem exec_latchedHalfRead_lower (s : State) (who : Requester) (hwho : who = .host → hostReaches s = true)
    (hro : ∀ f ∈ g.fields, f.acc = .ro) :
    exec (.latchedHalfRead who off) s =
      .next (answered (latched s who off (regValue s off / 2 ^ 32)) who (regValue s off % 2 ^ 32)) := by
  have hshape : bar0Shape off 4 = true := bar0Shape_of_at? hat halign (d := 0) (.inl ⟨rfl, .inl rfl⟩)
  rw [exec_latchedHalfRead_covered s who off hwho hshape (by rw [regCovering_start hat hbytes halign]; rfl),
    regRead_lower hat hbytes halign s who hro]

/-- A read of the upper half where the lower half has been read. -/
theorem exec_latchedHalfRead_upper (t : State) (who : Requester) (hwho : who = .host → hostReaches t = true)
    {hi : Nat} {rest : List (Nat × Nat × Nat)} (h : t.sys.latches = (requesterCode who, off, hi) :: rest) :
    exec (.latchedHalfRead who (off + 4)) t = .next (answered (unlatched t who off) who hi) := by
  have hshape : bar0Shape (off + 4) 4 = true := bar0Shape_of_at? hat halign (.inr ⟨rfl, rfl⟩)
  rw [exec_latchedHalfRead_covered t who _ hwho hshape (by rw [regCovering_upper hat hbytes halign]; rfl),
    regRead_upper hat hbytes halign h]

end

section
variable {s : State} (write : Bool) (off size : Nat)

/-- BAR0_UNMAPPED_ACCESS. -/
theorem exec_bar0UnmappedAccess_reached (hreach : hostReaches s = true) (hshape : bar0Shape off size = true)
    (hnone : regCovering off = none) : exec (.bar0UnmappedAccess write off size) s = .next
      (if write then badAccess s 1 write off size else answerHost (badAccess s 1 write off size) (some 0)) := by
  rw [exec_bar0UnmappedAccess]
  unfold execBar0UnmappedAccess
  rw [if_pos ⟨hreach, hshape, by rw [hnone]; rfl⟩]

/-- BAR0_ABORT. -/
theorem exec_bar0Abort_reached (hreach : hostReaches s = true) (hshape : bar0Shape off size = false) :
    exec (.bar0Abort write off size) s = .next (answerHost (badAccess s 2 write off size) none) := by
  rw [exec_bar0Abort]
  unfold execBar0Abort
  rw [if_pos ⟨hreach, by rw [hshape]; decide⟩]

/-- R422: after the first refused access, a further one leaves the registers and memory as they are. -/
theorem exec_bar0UnmappedAccess_recorded (h : s.getF Fld.SYS_STATUS_BAD_ACCESS = 1) :
    ∃ t, exec (.bar0UnmappedAccess write off size) s = .next t ∧ t.regs = s.regs ∧ t.mem = s.mem := by
  rw [exec_bar0UnmappedAccess]
  unfold execBar0UnmappedAccess
  refine ⟨_, rfl, ?_⟩
  rw [badAccess_recorded h]
  split
  · cases write <;> exact ⟨rfl, rfl⟩
  · exact ⟨rfl, rfl⟩

theorem exec_bar0Abort_recorded (h : s.getF Fld.SYS_STATUS_BAD_ACCESS = 1) :
    ∃ t, exec (.bar0Abort write off size) s = .next t ∧ t.regs = s.regs ∧ t.mem = s.mem := by
  rw [exec_bar0Abort]
  unfold execBar0Abort
  refine ⟨_, rfl, ?_⟩
  rw [badAccess_recorded h]
  split <;> exact ⟨rfl, rfl⟩

/-- R426: while the link is not trained no access of the host reaches BAR0. -/
theorem exec_host_unreached (h : hostReaches s = false) (v : Word) :
    exec (.bar0UnmappedAccess write off size) s = .next s ∧ exec (.bar0Abort write off size) s = .next s ∧
      exec (.registerWrite .host off size v) s = .next s ∧ exec (.latchedHalfRead .host off) s = .next s := by
  rw [exec_bar0UnmappedAccess, exec_bar0Abort, exec_registerWrite, exec_latchedHalfRead]
  unfold execBar0UnmappedAccess execBar0Abort execRegisterWrite execLatchedHalfRead
  simp [h]

/-- R422, R334: what the first refused access leaves and how it completes. -/
theorem exec_bar0UnmappedAccess_first (hreach : hostReaches s = true) (hshape : bar0Shape off size = true)
    (hnone : regCovering off = none) (hclear : s.getF Fld.SYS_STATUS_BAD_ACCESS = 0) :
    ∃ t, exec (.bar0UnmappedAccess write off size) s = .next t ∧
      t.out = (if write then s.out else s.out ++ [.completion (some 0)]) ∧ t.getF Fld.SYS_STATUS_BAD_ACCESS = 1 ∧
      t.mem = s.mem ∧ t.reg Off.SYS_BAD_ACCESS = (if write then 2 ^ 63 else 0) + 2 ^ 56 + size * 2 ^ 48 + off := by
  have hsize : size % 16 = size ∧ off % 2 ^ 24 = off := by
    unfold bar0Shape at hshape
    simp only [Bool.and_eq_true, Bool.or_eq_true, beq_iff_eq, decide_eq_true_eq] at hshape
    omega
  have hrecord := badAccess_first_record hclear 1 write off size
  rw [hsize.1, hsize.2, Nat.mod_eq_of_lt (by decide : 1 < 16), Nat.one_mul] at hrecord
  have hout := badAccess_first_out hclear 1 write off size
  have hset := badAccess_first_recorded hclear 1 write off size
  have hmem := badAccess_first_mem hclear 1 write off size
  refine ⟨_, exec_bar0UnmappedAccess_reached write off size hreach hshape hnone, ?_⟩
  cases write with
  | true => exact ⟨hout, hset, hmem, hrecord⟩
  | false => exact ⟨congrArg (· ++ [Emit.completion (some 0)]) hout, hset, hmem, hrecord⟩

theorem exec_bar0Abort_first (hreach : hostReaches s = true) (hshape : bar0Shape off size = false)
    (hclear : s.getF Fld.SYS_STATUS_BAD_ACCESS = 0) :
    ∃ t, exec (.bar0Abort write off size) s = .next t ∧ t.out = s.out ++ [.completion none] ∧
      t.getF Fld.SYS_STATUS_BAD_ACCESS = 1 ∧ t.mem = s.mem ∧
      t.reg Off.SYS_BAD_ACCESS =
        (if write then 2 ^ 63 else 0) + 2 * 2 ^ 56 + size % 16 * 2 ^ 48 + off % 2 ^ 24 :=
  ⟨_, exec_bar0Abort_reached write off size hreach hshape,
    congrArg (· ++ [Emit.completion none]) (badAccess_first_out hclear 2 write off size),
    badAccess_first_recorded hclear 2 write off size, badAccess_first_mem hclear 2 write off size,
    badAccess_first_record hclear 2 write off size⟩

end

/-- A field of a register of system events after the write, where it lies in another register. -/
theorem getF_signalled_setReg_ne (s : State) (off x : Nat) (f : FieldRef) (h : f.off ≠ off) :
    (signalled (s.setReg off x)).getF f = s.getF f := by
  rw [signalled_getF, State.getF_congr f]
  rw [reg_setReg, if_neg h]

/-- SYS_EVT_CLEAR (R429, R430). -/
theorem exec_sysEvtClear_signalled (s : State) (v : Word) : ∃ t, exec (.sysEvtClear v) s = .next t ∧ t.mem = s.mem ∧
    (∀ i, i < 14 → (t.getF Fld.SYS_EVT_EVT).testBit i = ((s.getF Fld.SYS_EVT_EVT).testBit i && !v.getLsbD i)) ∧
    let u := s.msix (s.getF Fld.SYS_EVT_EN_VECTOR)
    t.out = (if t.evtSummary = 0 then s.out else u.out) ∧ t.hif = (if t.evtSummary = 0 then s.hif else u.hif) := by
  refine ⟨_, congrArg Host.Outcome.next (regWrite_event s at?_SYS_EVT (.inl rfl) rfl v), by simp, fun i hi => ?_, ?_⟩
  · obtain ⟨-, -, -, hw1c⟩ := testBit_written_whole at?_SYS_EVT s v (List.mem_singleton.2 rfl) hi
    rw [signalled_getF]
    show (bitsOf (State.reg _ Off.SYS_EVT) 0 14).testBit i = ((bitsOf (s.reg Off.SYS_EVT) 0 14).testBit i && _)
    rw [testBit_bitsOf, testBit_bitsOf, decide_eq_true hi, Bool.true_and, Bool.true_and]
    simpa only [Nat.zero_add] using hw1c rfl
  · exact signalled_setReg_out s _ _ (getF_signalled_setReg_ne s _ _ _ (by decide))

/-- SYS_EVT_EN_WRITE (R430). -/
theorem exec_sysEvtEnWrite_signalled (s : State) (v : Word) : ∃ t, exec (.sysEvtEnWrite v) s = .next t ∧ t.mem = s.mem ∧
    t.getF Fld.SYS_EVT_EN_EN = v.toNat % 2 ^ 14 ∧ t.getF Fld.SYS_EVT_EN_VECTOR = v.toNat / 2 ^ 16 % 2 ^ 6 ∧
    t.getF Fld.SYS_EVT_EVT = s.getF Fld.SYS_EVT_EVT ∧
    let u := s.msix (t.getF Fld.SYS_EVT_EN_VECTOR)
    t.out = (if t.evtSummary = 0 then s.out else u.out) ∧ t.hif = (if t.evtSummary = 0 then s.hif else u.hif) := by
  refine ⟨_, congrArg Host.Outcome.next (regWrite_event s at?_SYS_EVT_EN (.inr rfl) rfl v), by simp, ?_, ?_,
    getF_signalled_setReg_ne s _ _ _ (by decide), signalled_setReg_out s _ _ rfl⟩
  · rw [signalled_getF]
    exact bitsOf_written_rw at?_SYS_EVT_EN s v (f := ⟨0, 14, .rw, 0, .keep⟩) (by simp) rfl rfl
  · rw [signalled_getF, ← Nat.shiftRight_eq_div_pow]
    exact bitsOf_written_rw at?_SYS_EVT_EN s v (f := ⟨16, 6, .rw, 0, .keep⟩) (by simp) rfl rfl

/-- R426: the host reaches BAR0 exactly when HIF has trained its link. -/
theorem hostReaches_eq_true_iff (s : State) : hostReaches s = true ↔ s.getF Fld.HIF_STATUS_MODE ≠ 0 := by
  unfold hostReaches
  exact bne_iff_ne

/-- R424: both halves of an RO register read as one value, and its latch serves once. -/
theorem latch_serves_once (s : State) (who : Requester) {off k : Nat} {g : RegGroup} (hat : RegMap.at? off = some (g, k))
    (hbytes : g.bytes = 8) (halign : off % 8 = 0) (hro : ∀ f ∈ g.fields, f.acc = .ro)
    (hwho : who = .host → hostReaches s = true) :
    ∃ t, exec (.latchedHalfRead who off) s = .next t ∧ t.regs = s.regs ∧ t.mem = s.mem ∧
      (regRead s who off 4).1 = regValue s off % 2 ^ 32 ∧ (regRead t who (off + 4) 4).1 = regValue s off / 2 ^ 32 ∧
      ∃ u, exec (.latchedHalfRead who (off + 4)) t = .next u ∧
        (∀ w, w ≠ who → u.sys.latches.find? (fun p => p.1 == requesterCode w) =
          s.sys.latches.find? (fun p => p.1 == requesterCode w)) ∧
        (u.sys.latches.any fun p => p.1 == requesterCode who && p.2.1 == off) = false := by
  let t := answered (latched s who off (regValue s off / 2 ^ 32)) who (regValue s off % 2 ^ 32)
  have hregs : t.regs = s.regs := answered_regs _ _ _
  have hlatches : t.sys.latches = (requesterCode who, off, regValue s off / 2 ^ 32) :: latchesBut s who off := by
    rw [show t.sys = _ from answered_sys _ _ _]
    rfl
  have hrest : ∀ hi, (answered (unlatched t who off) who hi).sys.latches = latchesBut s who off := fun hi => by
    rw [answered_sys, ← latchesBut_latched s who off (regValue s off / 2 ^ 32)]
    show latchesBut t who off = _
    unfold latchesBut
    rw [hlatches]
    rfl
  refine ⟨t, exec_latchedHalfRead_lower hat hbytes halign s who hwho hro, hregs, answered_mem _ _ _, ?_, ?_,
    _, exec_latchedHalfRead_upper hat hbytes halign t who (fun h => (hostReaches_congr hregs).trans (hwho h)) hlatches,
    fun w hw => ?_, ?_⟩
  · rw [regRead_lower hat hbytes halign s who hro]
  · rw [regRead_upper hat hbytes halign hlatches]
  · rw [hrest]
    exact find?_latchesBut_ne s off hw
  · rw [hrest]
    exact any_latchOf_latchesBut s who off

/-- Settles O56: a write stores field by field in the one register it names, a half read latches the other half, the first
refused access is recorded, and what a write of the event registers enables is signalled. -/
theorem setupRegisters : Obligations.SetupRegisters := by
  intro s who off k g v
  refine ⟨fun hat hbytes halign heffect hspecial => ⟨?whole, ?lowerHalf, ?partOfWo⟩,
    fun hat hbytes halign hro hwho => latch_serves_once s who hat hbytes halign hro hwho,
    fun write o size => ⟨exec_bar0UnmappedAccess_first write o size, exec_bar0Abort_first write o size,
      fun h => ?recorded, fun h => exec_host_unreached write o size h v⟩,
    hostReaches_eq_true_iff s, fun hreach hshape hcov => ?answered,
    exec_sysEvtClear_signalled s v, exec_sysEvtEnWrite_signalled s v,
    fun u n => ⟨msix_unmasked u n, msix_masked u n⟩, exec_smbusBlockWrite s,
    exec_smbusBlockRead s, smbusData_aligned s, smbusData_beyond s⟩
  case whole =>
    have hexec := exec_registerWrite_whole hat hbytes halign s
    simp only [regStore_plain (s := s) hat hbytes heffect hspecial _ _ (.inr rfl)] at hexec
    refine ⟨_, fun hreach => hexec .host (fun _ => hreach) v, fun c => hexec (.core c) nofun v, State.mem_setReg _ _ _,
      fun o ho => ?_, fun f hf i hi => testBit_written_whole hat s v hf hi,
      fun i hi => testBit_written_reserved s _ _ hi⟩
    rw [reg_setReg, if_neg ho]
  case lowerHalf =>
    intro hreach hfields
    have hexec := exec_registerWrite_lowerHalf hat hbytes halign s hreach v
    rw [regStore_plain hat hbytes heffect hspecial _ _ (.inl fun f hf => (hfields f hf).1)] at hexec
    exact ⟨_, hexec, fun i hi => testBit_written_lowerHalf hat s _ (fun f hf => (hfields f hf).2) hi⟩
  case partOfWo =>
    intro hwo
    cases hreach : hostReaches s with
    | true =>
      rw [exec_registerWrite_lowerHalf hat hbytes halign s hreach v, regStore_part_of_wo hat hbytes s _ _ hwo (by decide)]
    | false => exact (exec_host_unreached true off 4 hreach v).2.2.1
  case recorded =>
    obtain ⟨t, ht, htregs, htmem⟩ := exec_bar0UnmappedAccess_recorded write o size h
    obtain ⟨u, hu, huregs, humem⟩ := exec_bar0Abort_recorded write o size h
    exact ⟨t, u, ht, hu, htregs, huregs, htmem, humem⟩
  case answered =>
    refine ⟨_, exec_latchedHalfRead_covered s .host off (fun _ => hreach) hshape hcov, ?_⟩
    exact congrArg (· ++ [Emit.completion (some (regRead s .host off 4).1)]) (regRead_out s .host off 4)

end Sys2Proof.Proofs

namespace Sys2Proof.Proofs

open Sys2Proof Sys2Proof.Machine Sys2Proof.Laws

/-! # The end of a run (R15, R31, R35, R86, R245, R246, R252, R254)

## The bank that is freed -/

/-- Giving up the core changes what is current and fetched; the banks and the lazy owners stay. -/
theorem yieldBank_keeps (k : Machine.Core) :
    k.yieldBank.banks = k.banks ∧ k.yieldBank.fOwner = k.fOwner ∧ k.yieldBank.dOwner = k.dOwner := by
  unfold Core.yieldBank Core.select
  split
  · split <;> exact ⟨rfl, rfl, rfl⟩
  · exact ⟨rfl, rfl, rfl⟩

@[simp] theorem banks_yieldBank (k : Machine.Core) : k.yieldBank.banks = k.banks := (yieldBank_keeps k).1
@[simp] theorem fOwner_yieldBank (k : Machine.Core) : k.yieldBank.fOwner = k.fOwner := (yieldBank_keeps k).2.1
@[simp] theorem dOwner_yieldBank (k : Machine.Core) : k.yieldBank.dOwner = k.dOwner := (yieldBank_keeps k).2.2

theorem banks_freeBank (k : Machine.Core) (b : BankId) :
    (k.freeBank b).banks = (k.modBank b fun v => { v with ctx := none, pend := [] }).banks := by
  unfold Core.freeBank
  extract_lets k1 k2 in15
  split
  · exact banks_yieldBank _
  · split
    · exact banks_yieldBank _
    · rfl

theorem bank_freeBank_self (k : Machine.Core) (b : BankId) :
    (k.freeBank b).bank b = { k.bank b with ctx := none, pend := [] } := by
  unfold Core.bank
  rw [banks_freeBank]
  exact Core.bank_modBank_self k b _

/-- A lazy owner that is given up is held by the bank no more. -/
theorem givenUp_ne (o : Option BankId) (b : BankId) : (if o = some b then none else o) ≠ some b := by
  split
  · nofun
  · assumption

/-- It is not taken up again when bank 15 gives up its own. -/
theorem ne_of_givenUp {o : Option BankId} {b : BankId} (h : o ≠ some b) (c : BankId) :
    (if o = some c then none else o) ≠ some b := by
  split
  · nofun
  · exact h

theorem owners_freeBank_ne (k : Machine.Core) (b : BankId) :
    (k.freeBank b).fOwner ≠ some b ∧ (k.freeBank b).dOwner ≠ some b := by
  have hf := givenUp_ne k.fOwner b
  have hd := givenUp_ne k.dOwner b
  unfold Core.freeBank
  extract_lets k1 k2 in15
  split
  · rw [fOwner_yieldBank, dOwner_yieldBank]
    exact ⟨ne_of_givenUp hf _, ne_of_givenUp hd _⟩
  · split
    · rw [fOwner_yieldBank, dOwner_yieldBank]
      exact ⟨hf, hd⟩
    · exact ⟨hf, hd⟩

/-! ## What the end of a run does to the state -/

/-- Counting the end of a run writes at most one counter. -/
theorem countEnd_counts (s : State) (t : Txn) (e : RunEnd) :
    countEnd s t e = s ∨ ∃ off, countEnd s t e = s.bump off := by
  unfold countEnd
  split
  · split
    · exact .inr ⟨_, rfl⟩
    · exact .inl rfl
  · exact .inr ⟨_, rfl⟩
  · exact .inl rfl

theorem countEnd_keeps (s : State) (t : Txn) (e : RunEnd) :
    (countEnd s t e).txns = s.txns ∧ (countEnd s t e).cores = s.cores ∧ (countEnd s t e).ldg = s.ldg := by
  rcases countEnd_counts s t e with h | ⟨off, h⟩ <;> rw [h] <;> exact ⟨rfl, rfl, rfl⟩

@[simp] theorem txns_countEnd (s : State) (t : Txn) (e : RunEnd) : (countEnd s t e).txns = s.txns :=
  (countEnd_keeps s t e).1
@[simp] theorem cores_countEnd (s : State) (t : Txn) (e : RunEnd) : (countEnd s t e).cores = s.cores :=
  (countEnd_keeps s t e).2.1
@[simp] theorem ldg_countEnd (s : State) (t : Txn) (e : RunEnd) : (countEnd s t e).ldg = s.ldg :=
  (countEnd_keeps s t e).2.2

/-- The cycles that a transaction has left when its run ends: those that the caller reports for a bound one (R31, R93). -/
def cyclesLeft (s : State) (t : Txn) : Nat :=
  match t.phase with
  | .bound c b => (match (s.bank c b).ctx with | some x => t.pd.cycles - x.mcycles / 1000 | none => t.remCyc)
  | _ => t.remCyc

/-- A transaction whose run stops, with its cycles reported. -/
def stoppedTxn (s : State) (t : Txn) : Txn :=
  match t.where_ with
  | some (c, b) => (match (s.bank c b).ctx with | some x => t.reported x.mcycles | none => t)
  | none => t

theorem where_of_bound {t : Txn} {c : CoreId} {b : BankId} (h : t.phase = .bound c b) : t.where_ = some (c, b) := by
  unfold Txn.where_
  rw [h]

theorem where_of_not_bound {t : Txn} (h : ∀ c b, t.phase ≠ .bound c b) : t.where_ = none := by
  unfold Txn.where_
  split
  · exact absurd ‹_› (h _ _)
  · rfl

theorem stoppedTxn_eq (s : State) (t : Txn) : stoppedTxn s t = { t with remCyc := cyclesLeft s t } := by
  generalize hn : cyclesLeft s t = n
  unfold cyclesLeft at hn
  unfold stoppedTxn
  split at hn
  case h_1 c b hp =>
    rw [where_of_bound hp]
    subst hn
    dsimp only
    split <;> rfl
  case h_2 hp =>
    rw [where_of_not_bound hp]
    subst hn
    rfl

/-- What becomes of a transaction whose run ends. -/
def runOutcome (s : State) (t : Txn) (e : RunEnd) : Txn :=
  (stoppedTxn s t).finishRun e (s.getF Fld.LDG_CTRL_REPLAY_MAX)

/-- The state after the bank of a transaction is freed. -/
def bankFreed (s : State) (t : Txn) : State :=
  match t.where_ with
  | some (c, b) => s.modCore c fun k => k.freeBank b
  | none => s

/-- The note that a run has ended, for the release of its locks. -/
def endNote (s : State) (an : Nat) (t : Txn) : EndedRun :=
  { an := an, run := t.run, deadline := t.deadline, tag := runTag t, nodes := runNodes s t }

/-- The state after the end of a run is noted. -/
def runNoted (s : State) (er : EndedRun) : State := { s with ldg := { s.ldg with ended := s.ldg.ended ++ [er] } }

theorem an_finishRun (t : Txn) (e : RunEnd) (n : Nat) : (t.finishRun e n).an = t.an := by
  unfold Txn.finishRun
  split
  · rfl
  · split <;> rfl
  · rfl

theorem an_runOutcome (s : State) (t : Txn) (e : RunEnd) : (runOutcome s t e).an = t.an := by
  unfold runOutcome
  rw [an_finishRun, stoppedTxn_eq]

theorem bankFreed_keeps (s : State) (t : Txn) : (bankFreed s t).txns = s.txns ∧ (bankFreed s t).ldg = s.ldg := by
  unfold bankFreed
  split <;> exact ⟨rfl, rfl⟩

theorem bankFreed_of_bound (s : State) {t : Txn} {c : CoreId} {b : BankId} (h : t.phase = .bound c b) :
    bankFreed s t = s.modCore c fun k => k.freeBank b := by
  unfold bankFreed
  rw [where_of_bound h]

section
variable {s : State} {an : Nat} {t : Txn} (e : RunEnd) (h : s.txn? an = some t)
include h

theorem endRun_eq : endRun s an e =
    (countEnd (runNoted ((bankFreed s t).modTxn an fun _ => runOutcome s t e) (endNote s an t)) (runOutcome s t e)
      e).countOutstanding := by
  unfold endRun
  rw [h]
  rfl

theorem txns_endRun : (endRun s an e).txns = (s.modTxn an fun _ => runOutcome s t e).txns := by
  rw [endRun_eq e h, State.txns_countOutstanding, txns_countEnd]
  exact congrArg (List.map _) (bankFreed_keeps s t).1

theorem cores_endRun : (endRun s an e).cores = (bankFreed s t).cores := by
  rw [endRun_eq e h, State.cores_countOutstanding, cores_countEnd]
  rfl

theorem ldg_endRun : (endRun s an e).ldg = { s.ldg with ended := s.ldg.ended ++ [endNote s an t] } := by
  rw [endRun_eq e h, State.ldg_countOutstanding, ldg_countEnd, ← (bankFreed_keeps s t).2]
  rfl

theorem txn?_endRun_self : (endRun s an e).txn? an = some (runOutcome s t e) := by
  rw [State.txn?_congr (txns_endRun e h),
    State.txn?_modTxn_self s an _ fun _ _ => (an_runOutcome s t e).trans (State.txn?_an h), h]
  rfl

theorem txn?_endRun_ne {an' : Nat} (hne : an' ≠ an) : (endRun s an e).txn? an' = s.txn? an' := by
  rw [State.txn?_congr (txns_endRun e h)]
  exact State.txn?_modTxn_ne s an an' _ hne fun _ _ => (an_runOutcome s t e).trans (State.txn?_an h)

theorem core_endRun_of_bound {c : CoreId} {b : BankId} (hb : t.phase = .bound c b) :
    (endRun s an e).core c = (s.core c).freeBank b := by
  rw [State.core_congr (cores_endRun e h), bankFreed_of_bound s hb, State.core_modCore_self]

/-- R102: the bank of the run that has ended holds no context, and neither lazy owner is it. -/
theorem bank_free_of_endRun {c : CoreId} {b : BankId} (hb : t.phase = .bound c b) :
    ((endRun s an e).bank c b).ctx = none ∧ ((endRun s an e).bank c b).pend = [] ∧
      ((endRun s an e).core c).fOwner ≠ some b ∧ ((endRun s an e).core c).dOwner ≠ some b := by
  unfold State.bank
  rw [core_endRun_of_bound e h hb, bank_freeBank_self]
  exact ⟨rfl, rfl, owners_freeBank_ne _ _⟩

/-- An event acts on the current run of an owned transaction alone (R86, R245). -/
theorem endIfOwned_eq (run : Nat) :
    endIfOwned s an run e = if t.owner = .owned ∧ t.run = run then endRun s an e else s := by
  unfold endIfOwned
  rw [h]

end

/-- Settles O25: what the end of a run writes, and when an event ends one. -/
theorem runEnds : Obligations.RunEnds := by
  intro s an run e t h u max again left declined
  have after : u.txn? an = some (({ t with remCyc := left } : Txn).finishRun e max) := by
    rw [txn?_endRun_self e h, runOutcome, stoppedTxn_eq]
    rfl
  have hldg := ldg_endRun e h
  refine ⟨?fault, ?counted, ?exhausted, ?decline, fun _ hne => txn?_endRun_ne e h hne, ?noted, congrArg (·.locks) hldg,
    fun c b hb => bank_free_of_endRun e h hb, ?owned, ?notOwned, ?otherRun⟩
  case fault =>
    rintro rfl
    exact after
  case counted =>
    rintro rfl hlt
    exact after.trans (congrArg some (if_pos hlt))
  case exhausted =>
    rintro rfl hle
    exact after.trans (congrArg some (if_neg (Nat.not_lt.2 hle)))
  case decline =>
    rintro r rfl
    exact after
  case noted => exact ⟨_, congrArg (·.ended) hldg, rfl, rfl⟩
  case owned => exact fun howner hrun => (endIfOwned_eq e h run).trans (if_pos ⟨howner, hrun⟩)
  case notOwned => exact fun howner => (endIfOwned_eq e h run).trans (if_neg fun hc => howner hc.1)
  case otherRun => exact fun hrun => (endIfOwned_eq e h run).trans (if_neg fun hc => hrun hc.2)

end Sys2Proof.Proofs

namespace Sys2Proof.Proofs

open Sys2Proof Sys2Proof.Machine Sys2Proof.Laws

/-! # The lanes of XLT (R16, R35, R66, R67, R72 to R77, R265)

## Which work comes first -/

/-- What does not come before one piece of work does not come before an earlier one. -/
theorem older_eq_false_of_older {d a d1 a1 d2 a2 : Nat} (h : older d a d1 a1 = false) (h2 : older d2 a2 d1 a1 = true) :
    older d a d2 a2 = false := by
  simp only [older, Bool.or_eq_false_iff, Bool.or_eq_true, Bool.and_eq_true, Bool.and_eq_false_iff, decide_eq_false_iff_not,
    decide_eq_true_eq, beq_iff_eq, beq_eq_false_iff_ne] at *
  omega

theorem older_self (d a : Nat) : older d a d a = false := by simp [older]

theorem firstJob_concat (l : List LaneJob) (x : LaneJob) :
    firstJob (l ++ [x]) = match firstJob l with
      | none => some x
      | some y => if older x.deadline x.an y.deadline y.an then some x else some y := by
  unfold firstJob
  rw [List.foldl_append, List.foldl_cons, List.foldl_nil]
  generalize List.foldl _ none l = acc
  cases acc <;> rfl

theorem eq_nil_of_firstJob_eq_none {l : List LaneJob} (h : firstJob l = none) : l = [] := by
  induction l using List.reverseRecOn with
  | nil => rfl
  | append_singleton l x _ =>
    rw [firstJob_concat] at h
    split at h
    · cases h
    · split at h <;> cases h

/-- R74: the work that comes first waits, and nothing that waits comes before it. -/
theorem firstJob_eq_some {l : List LaneJob} {x : LaneJob} (h : firstJob l = some x) :
    x ∈ l ∧ ∀ j ∈ l, older j.deadline j.an x.deadline x.an = false := by
  induction l using List.reverseRecOn generalizing x with
  | nil => cases h
  | append_singleton l z ih =>
    rw [firstJob_concat] at h
    simp only [List.mem_append, List.mem_singleton]
    split at h
    case h_1 hnone =>
      cases h
      simp [eq_nil_of_firstJob_eq_none hnone, older_self]
    case h_2 y hy =>
      obtain ⟨hmem, hfirst⟩ := ih hy
      split at h <;> cases h
      case isTrue hold =>
        refine ⟨.inr rfl, ?_⟩
        rintro j (hj | rfl)
        · exact older_eq_false_of_older (hfirst j hj) hold
        · exact older_self _ _
      case isFalse hold =>
        refine ⟨.inl hmem, ?_⟩
        rintro j (hj | rfl)
        · exact hfirst j hj
        · exact Bool.eq_false_iff.2 hold

theorem firstJob_of_laneTxn {s : State} {lane : Fin 32} {t : Txn} (h : laneTxn s lane = some t) :
    firstJob (laneJobs s lane) = some (.txn t) := by
  unfold laneTxn at h
  split at h
  case h_1 u hu =>
    cases h
    exact hu
  case h_2 => cases h

theorem mem_txns_of_mem_laneJobs {s : State} {lane : Fin 32} {t : Txn} (h : .txn t ∈ laneJobs s lane) : t ∈ s.txns := by
  unfold laneJobs at h
  simp only [List.mem_append, List.mem_map, LaneJob.txn.injEq, exists_eq_right, reduceCtorEq, and_false, exists_false,
    or_false] at h
  exact List.mem_of_mem_filter h

/-- R74: what a lane takes next is an accepted transaction, and no work of the lane comes before it. -/
theorem laneTxn_eq_some {s : State} {lane : Fin 32} {t : Txn} (h : laneTxn s lane = some t) :
    t ∈ s.txns ∧ ∀ j ∈ laneJobs s lane, older j.deadline j.an t.deadline t.an = false := by
  obtain ⟨hmem, hfirst⟩ := firstJob_eq_some (firstJob_of_laneTxn h)
  exact ⟨mem_txns_of_mem_laneJobs hmem, hfirst⟩

/-! ## The commands of a lane -/

section
variable {s s1 : State} {lane : Fin 32} {d : Dialect} {t : Txn} (hserves : laneServes s lane = true)
include hserves

section
variable (hnext : laneTxn s lane = some t) (hdialect : dialectAt s t.si t.dtab = (some d, s1))
include hnext hdialect

/-- R67: a lane in service parses the accepted message that comes first. -/
theorem exec_xltParse_next (hphase : t.phase = .parse) :
    exec (.xltParse lane) s = .next (releaseProgress (parseTxn s1 lane d t)) := by
  rw [exec_xltParse]
  simp [execXltParse, hserves, hnext, hphase, hdialect]

/-- R35: the decline that comes first is answered from the decline template of its program. -/
theorem exec_technicalDecline_next {reason : Nat} (hphase : t.phase = .declined reason) :
    exec (.technicalDecline lane) s =
      .next (releaseProgress (sendTempl s1 lane d t t.pd.declineTpl { code := reason, off := 0, fid := 0 } true)) := by
  have hreason : t.declineReason = some reason := by simp [Txn.declineReason, hphase]
  rw [exec_technicalDecline]
  simp [execTechnicalDecline, hserves, hnext, hreason, hdialect]

/-- R370: the response of a stand-in decision is built from its template. -/
theorem exec_xltSerialise_template (hphase : t.phase = .committed) {tpl : Nat} (htpl : t.tpl = some tpl) :
    exec (.xltSerialise lane) s =
      .next (releaseProgress (sendTempl s1 lane d t tpl { code := 0, off := 0, fid := 0 } true)) := by
  rw [exec_xltSerialise]
  simp [execXltSerialise, hserves, hnext, hphase, hdialect, htpl]

/-- R72: the committed response that comes first is serialised from its record. -/
theorem exec_xltSerialise_record (hphase : t.phase = .committed) (htpl : t.tpl = none) :
    exec (.xltSerialise lane) s = .next (releaseProgress (serialiseTxn s1 lane d t)) := by
  rw [exec_xltSerialise]
  simp [execXltSerialise, hserves, hnext, hphase, hdialect, htpl]

end

section
variable {b : BusyRsp} (hnext : laneBusy s lane = some b)
include hnext

/-- Log 25: without a dialect table a refused message has an empty response. -/
theorem exec_xltEchoScan_no_dialect (hdialect : dialectAt { s with busy := s.busy.erase b } b.si b.dtab = (none, s1)) :
    exec (.xltEchoScan lane) s = .next (releaseProgress (handBusy s1 b [])) := by
  rw [exec_xltEchoScan]
  simp [execXltEchoScan, hserves, hnext, hdialect]

/-- R32, R74: a refused message is answered from template 0. -/
theorem exec_xltEchoScan_dialect (hdialect : dialectAt { s with busy := s.busy.erase b } b.si b.dtab = (some d, s1)) :
    exec (.xltEchoScan lane) s = .next (releaseProgress (sendBusy s1 lane d b true)) := by
  rw [exec_xltEchoScan]
  simp [execXltEchoScan, hserves, hnext, hdialect]

end

end

/-! ## Responses: of records, of templates, with a MAC -/

section
variable {s s1 : State} {lane : Fin 32} {d : Dialect} {t : Txn}

/-- R76: a message that does not parse is answered from template 1 with the code of its error. -/
theorem parseTxn_of_err {e : XErr} (h : (parseMsg d t.msg true).err = some e) :
    parseTxn s lane d t = sendTempl s lane d t 1 e true := by
  unfold parseTxn
  dsimp only
  rw [h]
  rfl

theorem sendTempl_bytes {tpl : Nat} {e : XErr} {mac : Bool} {bs : List Byte} {n : Nat} (htpl : t.tpl = none)
    (h : templated s d tpl (hexReason e.code) (t.echoOf d) mac = (.bytes bs n, s1)) :
    sendTempl s lane d t tpl e mac = answerTempl (s1.bump Off.XLT_SUBST_CNT n) lane t e bs := by
  have hreason : t.reasonText e.code = hexReason e.code := by simp [Txn.reasonText, htpl]
  unfold sendTempl
  rw [hreason, h]
  rfl

theorem sendTempl_mac {tpl : Nat} {e : XErr} {mac : Bool} {m : MacText} (htpl : t.tpl = none)
    (h : templated s d tpl (hexReason e.code) (t.echoOf d) mac = (.mac m, s1)) :
    sendTempl s lane d t tpl e mac =
      issueMac s1 lane d (.templated t.an tpl e.code e.off e.fid) t.deadline t.an t.run m := by
  have hreason : t.reasonText e.code = hexReason e.code := by simp [Txn.reasonText, htpl]
  unfold sendTempl
  rw [hreason, h]

theorem answerTempl_declined {reason : Nat} (h : t.phase = .declined reason) (e : XErr) (bs : List Byte) :
    answerTempl s lane t e bs = handTxn s { t with rsp := some bs, code := e.code } := by
  unfold answerTempl
  rw [h]

theorem answerTempl_parse (h : t.phase = .parse) (e : XErr) (bs : List Byte) :
    answerTempl s lane t e bs =
      handTxn (noteXltErr (s.bump Off.XLT_PERR_CNT) t.dialect e) { t with rsp := some bs, code := e.code } := by
  unfold answerTempl
  rw [h]

theorem sendBusy_bytes {b : BusyRsp} {mac : Bool} {bs : List Byte} {n : Nat}
    (h : templated s d 0 (hexReason b.reason) (parseMsg d b.msg false) mac = (.bytes bs n, s1)) :
    sendBusy s lane d b mac = handBusy (s1.bump Off.XLT_SUBST_CNT n) b bs := by
  unfold sendBusy
  rw [h]
  rfl

end

section
variable {s s1 : State} {lane : Fin 32} {d : Dialect} {t : Txn} {rec_ : List Byte}
variable (hread : xltRead s t.si t.rspPa (recAreas s d t).rspMax = (some rec_, s1))
include hread

/-- R72: a response that needs no MAC goes on as it stands. -/
theorem serialiseTxn_bytes {bs : List Byte} {n : Nat}
    (h : serialiseRecord d rec_ (recAreas s d t).rspMax = .bytes bs n) :
    serialiseTxn s lane d t = serialised s1 t.an bs n := by
  simp only [serialiseTxn, hread, h]

/-- R73: a response that needs a MAC waits for its job. -/
theorem serialiseTxn_mac {m : MacText} (h : serialiseRecord d rec_ (recAreas s d t).rspMax = .mac m) :
    serialiseTxn s lane d t = issueMac s1 lane d (.committed t.an) t.deadline t.an t.run m := by
  simp only [serialiseTxn, hread, h]

/-- R77: a record at fault is answered from template 2. -/
theorem serialiseTxn_error {e : XErr} (h : serialiseRecord d rec_ (recAreas s d t).rspMax = .error e) :
    serialiseTxn s lane d t = sendTempl s1 lane d t 2 e true := by
  simp only [serialiseTxn, hread, h]
  rfl

end

section
variable (s : State) (lane : Fin 32) (d : Dialect) (what : LaneFor) (deadline an run : Nat) (m : MacText)

/-- The job that computes the MAC of a response (R73, R265). -/
def macJob : CJob :=
  let op := macOp d.macAlg
  let param := if d.macAlg = 2 then max 1 d.macPad else 0
  { id := s.cry.nextJob, who := .mac lane, cluster := 3 * lane.val / 16, data := m.input, res := [], bkt := 0, an := an,
    run := run, core := 0, bank := 0, deadline := deadline, kind := .sym, op := op, param := param, key1 := d.macKey,
    key2 := 0, inp := [], aux := [], out := [], outCap := d.macLen, mlen := d.macLen, desc := 0,
    cost := macCost op param m.input.length, key := 0, typ := none, reissued := false, fails := 0, avoid := [],
    keys := none, work := 0, told := false, st := .waiting }

theorem jobs_issueMac : (issueMac s lane d what deadline an run m).cry.jobs =
    s.cry.jobs ++ [macJob s lane d deadline an run m] := rfl

/-- R73: the engine time of the MAC is charged to the transaction whose run asks for it. -/
theorem txn?_issueMac {t : Txn} (h : s.txn? an = some t) (hrun : t.run = run) :
    (issueMac s lane d what deadline an run m).txn? an =
      some { t with declSym := t.declSym + (macJob s lane d deadline an run m).cost } := by
  unfold issueMac
  dsimp only
  rw [State.txn?_modTxn_self _ _ _ fun u hu => ?an]
  case an => split <;> exact hu
  show Option.map _ (s.txn? an) = _
  rw [h, Option.map_some, if_pos hrun]
  rfl

end

/-- R73: a response goes on when its MAC job has ended with OK; the job and the work are done. -/
theorem laneResume_of_ok {s : State} {w : LaneWork} {mac : List Byte} (h : macOutcome s w = some (0x01, mac)) :
    laneResume s w = macDone { s with
      xlt := s.xlt.filter fun x => x.job != w.job,
      cry := { s.cry with jobs := s.cry.jobs.filter fun j => j.id != w.job } } w mac := by
  unfold laneResume
  rw [h]
  rfl

theorem macDone_committed (s : State) {w : LaneWork} {an : Nat} (h : w.what = .committed an) (mac : List Byte) :
    macDone s w mac = serialised s an (w.whole mac) w.subst := by
  unfold macDone
  rw [h]

/-- R75: ENABLE holds what is written. -/
theorem getF_xltEnableWrite (s : State) (v : Bool) :
    (s.setF Fld.XLT_CTRL_ENABLE (b2n v)).getF Fld.XLT_CTRL_ENABLE = if v then 1 else 0 := by
  rw [State.getF_setF_self s _ _ (by decide) (by decide)]
  cases v <;> rfl

/-- Settles O37: what a lane does with the work that comes first, and how a response waits for its MAC. -/
theorem translation : Obligations.Translation := by
  refine ⟨fun s v => ⟨_, exec_xltEnableWrite s v, getF_xltEnableWrite s v, State.mem_setF _ _ _, State.txns_setF _ _ _,
    State.cores_setF _ _ _⟩, fun s s1 lane d t hserves => ⟨fun hnext => ⟨laneTxn_eq_some hnext, fun hdialect =>
      ⟨?parse, fun reason => exec_technicalDecline_next hserves hnext hdialect, ?committed⟩⟩, ?refused, ?template, ?mac,
    fun w mac => laneResume_of_ok, fun w an mac hw => macDone_committed _ hw mac⟩⟩
  case parse => exact fun hphase => ⟨exec_xltParse_next hserves hnext hdialect hphase, fun e => parseTxn_of_err⟩
  case committed =>
    intro hphase
    refine ⟨fun tpl => exec_xltSerialise_template hserves hnext hdialect hphase,
      fun htpl => ⟨exec_xltSerialise_record hserves hnext hdialect hphase htpl, fun rec_ s2 hread => ?_⟩⟩
    exact ⟨fun bs n => serialiseTxn_bytes hread, fun m => serialiseTxn_mac hread, fun e => serialiseTxn_error hread⟩
  case refused =>
    intro b s2 hbusy
    exact ⟨exec_xltEchoScan_no_dialect hserves hbusy, fun hdialect =>
      ⟨exec_xltEchoScan_dialect hserves hbusy hdialect, fun bs n s3 => sendBusy_bytes⟩⟩
  case template =>
    intro tpl e s2 htpl
    refine ⟨fun bs n reason hphase h => ?declined, fun bs n hphase h => ?notParsed, fun m => sendTempl_mac htpl⟩
    case declined => rw [sendTempl_bytes htpl h, answerTempl_declined hphase]
    case notParsed => rw [sendTempl_bytes htpl h, answerTempl_parse hphase]
  case mac =>
    intro what deadline an run m
    exact ⟨⟨_, jobs_issueMac s1 lane d what deadline an run m, rfl, rfl, rfl, rfl, rfl, rfl, rfl, rfl, rfl,
      txn?_issueMac s1 lane d what deadline an run m⟩, _, rfl, rfl, rfl⟩

end Sys2Proof.Proofs

namespace Sys2Proof.Proofs

open Sys2Proof Sys2Proof.Machine Sys2Proof.Laws

/-! # The Ethernet ports (R43, R44, R46, R54, R55, R348, R349)

## Frames -/

/-- What NET does with a packet of a port: discards it for its checksum, gives its frame to the host, or hands its segment
to the connection that it belongs to (R44, R46). -/
def packetTaken (s : State) (p : Fin 8) (frame : List Byte) : Packet → State
  | .bad => s.bump Off.NET_CSUM_CNT
  | .host => giveHost s p frame 0
  | .seg x => match connOf s p x with
    | none => giveHost s p frame 0
    | some c => takeSegment s c x

section
variable {s : State} {p : Fin 8} {frame body : List Byte} {x : Seg}

theorem packetTaken_seg_none (h : connOf s p x = none) : packetTaken s p frame (.seg x) = giveHost s p frame 0 := by
  simp only [packetTaken, h]

theorem packetTaken_seg_some {c : Conn} (h : connOf s p x = some c) :
    packetTaken s p frame (.seg x) = takeSegment s c x := by
  simp only [packetTaken, h]

theorem takeFrame_pause (h : fldBe body 0 2 = 1) : takeFrame s p frame 0x8808 body = s.bump Off.NET_PAUSE_CNT := by
  unfold takeFrame
  rw [if_pos ⟨rfl, .inl h⟩]

/-- Without timestamps of event messages an IPv4 frame goes by its packet. -/
theorem takeFrame_ipv4 (hptp : s.getF Fld.NET_CTRL_PTP_EN ≠ 1) :
    takeFrame s p frame 0x0800 body = packetTaken s p frame (readIpv4 body) := by
  unfold takeFrame
  rw [if_neg fun h => absurd h.1 (by decide), if_neg fun h => hptp h.1]
  rfl

end

section
variable {s : State} {p : Fin 8} {bs : List Byte}

/-- R44: a frame whose FCS is wrong is dropped. -/
theorem exec_frameReceive_wrong_fcs (h : leNat (bs.drop (bs.length - 4)) ≠ ethFcs (bs.take (bs.length - 4))) :
    exec (.frameReceive p bs) s = .next s := by
  rw [exec_frameReceive]
  simp [execFrameReceive, h]

/-- R44: an untagged frame with a right FCS and within the MTU goes by its type. -/
theorem exec_frameReceive_untagged (hserves : portServes s p = true) (hlen : 18 ≤ bs.length)
    (hfcs : leNat (bs.drop (bs.length - 4)) = ethFcs (bs.take (bs.length - 4)))
    (htag : fldBe (bs.take (bs.length - 4)) 12 2 ≠ 0x8100)
    (hmtu : (bs.take (bs.length - 4)).length ≤ s.getF (Fld.NET_PORT_MTU p.val) + 14) :
    exec (.frameReceive p bs) s = .next (takeFrame s p (bs.take (bs.length - 4))
      (fldBe (bs.take (bs.length - 4)) 12 2) ((bs.take (bs.length - 4)).drop 14)) := by
  have hwhole : 14 ≤ bs.length - 4 := by omega
  rw [exec_frameReceive]
  unfold execFrameReceive
  simp only [if_neg htag]
  rw [if_neg (by simp [hserves, hlen, hwhole]), if_neg (not_not.2 hfcs), if_neg fun h => htag h.1,
    if_neg (Nat.not_lt.2 hmtu)]

end

/-- R46: an acceptable RST hands its connection back with reason 2. -/
theorem takeSegment_rst {s : State} {c : Conn} {x : Seg} (hodd : x.odd = false)
    (hacc : acceptable c x (recvWindow s c) = true) (hrst : x.flags.testBit 2 = true) :
    takeSegment s c x = closeConn s c 0x02 := by
  have hrst : bitAt x.flags 2 = true := hrst
  simp [takeSegment, hodd, hacc, hrst]

/-! ## Frames of the host -/

section
variable {s v : State} {desc b : List Byte} (hentry : ringHasEntry (hostPuts s ringTXQ desc) ringTXQ = true)
  (hread : islandRead (hostPuts s ringTXQ desc) .hif
    (slotPa (hostPuts s ringTXQ desc) ringTXQ ((hostPuts s ringTXQ desc).ring ringTXQ).cons) 64 = (some b, v))
include hentry hread

/-- R349: the descriptor that is read decides what is sent, and the entry is taken while the ring still runs. -/
theorem exec_txqTransmit_read {w : State}
    (hw : (if txDescOk v b then sendHostFrame v b else v.bump Off.HIF_RINGERR_CNT) = w) (hruns : ringRuns w ringTXQ = true) :
    exec (.txqTransmit desc) s = .next (takeEntry w ringTXQ) := by
  subst hw
  rw [exec_txqTransmit]
  simp [execTxqTransmit, hentry, hread, hruns]

end

/-! ## Ports up and down -/

theorem exec_portLinkUp_trained {s : State} {p : Fin 8} (hmode : portGrouped s p = true) (hclk : RefClk.eth ∉ s.pwr.clkLost) :
    exec (.portLinkUp p) s = .next (s.setF (Fld.NET_PORT_STATUS_LINK_UP p.val) 1) := by
  rw [exec_portLinkUp]
  simp [execPortLinkUp, hmode, hclk]

/-- R43, R453: no port trains that MODE does not group, and none without the reference clock. -/
theorem exec_portLinkUp_untrained {s : State} {p : Fin 8} (h : portGrouped s p = false ∨ RefClk.eth ∈ s.pwr.clkLost) :
    exec (.portLinkUp p) s = .next s := by
  rw [exec_portLinkUp]
  rcases h with h | h <;> simp [execPortLinkUp, h]

theorem portStatus_ne_sysEvt (n : Nat) : (Fld.NET_PORT_STATUS_LINK_UP n).off ≠ Off.SYS_EVT := by
  unfold Fld.NET_PORT_STATUS_LINK_UP Off.SYS_EVT
  dsimp only
  omega

theorem getF_linkUp_setF (s : State) (n : Nat) :
    (s.setF (Fld.NET_PORT_STATUS_LINK_UP n) 1).getF (Fld.NET_PORT_STATUS_LINK_UP n) = 1 :=
  State.getF_setF_self s _ 1 (portStatus_ne_sysEvt n) (by decide : 0 + 1 ≤ 64)

/-- The state in which a port has gone down, with its fault held and reported (R54). -/
def portDown (s : State) (p : Fin 8) : State :=
  faultHold ((s.setF (Fld.NET_PORT_STATUS_LINK_UP p.val) 0).report
    { island := 38, unit := p.val, cls := .eth, severity := 1 })

section
variable {s : State} {p : Fin 8}

theorem failPort_of_not_up (h : s.getF (Fld.NET_PORT_STATUS_LINK_UP p.val) ≠ 1) : failPort s p = s := by
  unfold failPort
  rw [if_pos h]

/-- R54: what becomes of the connections of a port that was up. -/
theorem failPort_of_up (h : s.getF (Fld.NET_PORT_STATUS_LINK_UP p.val) = 1) :
    failPort s p =
      if !portLinkUp s (partner p) ∨ standinService s then
        (portConns s p ++ portConns s (partner p)).foldl (fun s c => closeConn s c 0x09) (portDown s p)
      else if s.getF Fld.NET_CTRL_FAILOVER_EN = 1 then failOver (portDown s p) p
      else portDown s p := by
  unfold failPort
  rw [if_neg (not_not.2 h)]
  rfl

theorem exec_portFail_next (cause : PortCause) : exec (.portFail p cause) s = .next (failPort s p) := by
  rw [exec_portFail]
  rfl

end

/-- Settles O34: what a port receives and sends for the host, and what a port that comes up or fails leaves. -/
theorem networkPorts : Obligations.NetworkPorts := by
  intro s p bs cause frame etype body
  refine ⟨exec_frameReceive_wrong_fcs, fun hserves hlen hfcs htag hmtu =>
      ⟨exec_frameReceive_untagged hserves hlen hfcs htag hmtu, ?pause, ?ipv4⟩,
    fun c x => takeSegment_rst, ?transmit, fun hmode hclk => ⟨_, exec_portLinkUp_trained hmode hclk, getF_linkUp_setF s p,
      State.mem_setF _ _ _, State.net_setF _ _ _⟩, exec_portLinkUp_untrained, ?fails, ?alreadyDown⟩
  case pause =>
    intro htype hop
    rw [htype]
    exact takeFrame_pause hop
  case ipv4 =>
    intro htype hptp
    rw [htype, takeFrame_ipv4 hptp]
    refine ⟨fun h => ?_, fun h => ?_, fun x h hconn => ?_, fun x c h hconn => ?_⟩ <;> rw [h]
    · rfl
    · rfl
    · exact packetTaken_seg_none hconn
    · exact packetTaken_seg_some hconn
  case transmit =>
    intro d b v u hentry hread
    exact ⟨fun hok => exec_txqTransmit_read hentry hread (if_pos hok),
      fun hbad => exec_txqTransmit_read hentry hread (if_neg (ne_true_of_eq_false hbad))⟩
  case fails =>
    intro hup s1
    rw [exec_portFail_next, failPort_of_up hup]
    refine ⟨fun hpartner hstandin hfailover => ?moved, fun hpartner => ?handedBack⟩
    case moved => rw [if_neg (by simp [hpartner, hstandin]), if_pos hfailover]; rfl
    case handedBack => rw [if_pos (by simp [hpartner])]; rfl
  case alreadyDown =>
    intro hdown
    rw [exec_portFail_next, failPort_of_not_up hdown]

end Sys2Proof.Proofs

namespace Sys2Proof.Proofs

open Sys2Proof Sys2Proof.Machine Sys2Proof.Laws

/-! # The events of a connection (R46, R47, R49 to R51)

## What a write to the connection table leaves alone -/

theorem quiet_activateRegion {s t : State} (h : Quiet s t) (k : Nat) : Quiet s (activateRegion t k) :=
  ((h.setF _ _).setReg _ _).setReg _ _

theorem quiet_mpuSettled (s : State) : Quiet s (mpuSettled s) := by
  unfold mpuSettled activateAll
  exact .ite (((foldl_inv (P := Quiet s) (.refl s) _ fun _ k h => quiet_activateRegion h k).setF _ _).setF _ _) (.refl s)

theorem quiet_refuseAccess (s : State) (i : Initiator) (k : Kind) (pa : Nat) : Quiet s (refuseAccess s i k pa) := by
  unfold refuseAccess
  exact (Quiet.ite (((((Quiet.refl s).setF _ _).setF _ _).setF _ _).setF _ _) (.refl s)).report _

theorem quiet_appendAdvance (s : State) (i : Initiator) (pa n : Nat) : Quiet s (appendAdvance s i pa n) := by
  unfold appendAdvance
  exact foldl_inv (P := Quiet s) (.refl s) _ fun _ _ h => .ite (h.setF _ _) h

/-- The connections and the completions that wait for HIF are the same. -/
def SameConnsCpls (s t : State) : Prop := t.net = s.net ∧ t.hif.cpls = s.hif.cpls

theorem SameConnsCpls.trans {s t u : State} (h1 : SameConnsCpls s t) (h2 : SameConnsCpls t u) : SameConnsCpls s u :=
  ⟨h2.1.trans h1.1, h2.2.trans h1.2⟩

theorem sameConnsCpls_of_quiet {s t : State} (h : Quiet s t) : SameConnsCpls s t :=
  ⟨h.net, by rw [h.hif]⟩

theorem sameConnsCpls_wr (s : State) (a : Nat) (bs : List Byte) : SameConnsCpls s (s.wr a bs) := ⟨rfl, rfl⟩

theorem sameConnsCpls_writeChecked (s : State) (i : Initiator) (pa : Nat) (bs : List Byte) :
    SameConnsCpls s (writeChecked s i pa bs).2 := by
  unfold writeChecked
  split
  · split
    · exact ⟨rfl, rfl⟩
    · exact (sameConnsCpls_wr s pa bs).trans (sameConnsCpls_of_quiet (quiet_appendAdvance _ _ _ _))
  · exact sameConnsCpls_of_quiet (quiet_refuseAccess _ _ _ _)

theorem sameConnsCpls_islandWrite (s : State) (i : Initiator) (pa : Nat) (bs : List Byte) :
    SameConnsCpls s (islandWrite s i pa bs).2 :=
  (sameConnsCpls_of_quiet (quiet_mpuSettled s)).trans (sameConnsCpls_writeChecked _ i pa bs)

theorem sameConnsCpls_connWrite (s : State) (h off : Nat) (bs : List Byte) : SameConnsCpls s (connWrite s h off bs) := by
  unfold connWrite
  split
  · exact sameConnsCpls_wr _ _ _
  · exact sameConnsCpls_islandWrite _ _ _ _

/-! ## A connection that is handed back -/

/-- R47: each response becomes a completion, behind those that wait. -/
theorem foldl_queueCpl_goneCpl (s : State) (h tag : Nat) (rs : List NRsp) :
    rs.foldl (fun s r => queueCpl s (goneCpl s h tag r)) s =
      { s with hif := { s.hif with cpls := s.hif.cpls ++ rs.map (goneCpl s h tag) } } := by
  induction rs generalizing s with
  | nil => rw [List.map_nil, List.append_nil]; rfl
  | cons r rs ih =>
    rw [List.foldl_cons, ih, List.map_cons, ← List.singleton_append, ← List.append_assoc]
    rfl

/-- The state when the entry of a connection that is handed back is written and its event queued (R46). -/
def closeNoted (s : State) (c : Conn) (reason : Nat) : State :=
  connEvent (connWrite (s.bump Off.NET_DISCARD_CNT c.plain.length) c.h 0 (closedEntry s c reason)) c 2 reason []

theorem sameConnsCpls_closeNoted (s : State) (c : Conn) (reason : Nat) : SameConnsCpls s (closeNoted s c reason) :=
  (sameConnsCpls_of_quiet ((Quiet.refl s).bump _ _)).trans (sameConnsCpls_connWrite _ _ _ _)

theorem mem_conns_dropConn {s : State} {c x : Conn} : x ∈ (dropConn s c).net.conns → ¬(x.h = c.h ∧ x.gen = c.gen) := by
  intro h ⟨hh, hgen⟩
  simpa [hh, hgen] using (List.mem_filter.1 h).2

section
variable {s : State} {c : Conn} (reason : Nat) (hmsgs : c.msgs = [])
include hmsgs

theorem closeConn_of_no_msgs :
    closeConn s c reason =
      dropConn (c.rsps.foldl (fun s r => queueCpl s (goneCpl s c.h c.tag r)) (closeNoted s c reason)) c := by
  unfold closeConn
  rw [if_pos hmsgs]
  rfl

theorem cpls_closeConn_of_no_msgs :
    (closeConn s c reason).hif.cpls = s.hif.cpls ++ c.rsps.map (goneCpl (closeNoted s c reason) c.h c.tag) := by
  rw [closeConn_of_no_msgs reason hmsgs, foldl_queueCpl_goneCpl, ← (sameConnsCpls_closeNoted s c reason).2]
  rfl

theorem not_mem_conns_closeConn : ∀ x ∈ (closeConn s c reason).net.conns, ¬(x.h = c.h ∧ x.gen = c.gen) := by
  rw [closeConn_of_no_msgs reason hmsgs]
  exact fun _ => mem_conns_dropConn

theorem mem_cpls_closeConn {q : Cpl} (h : q ∈ (closeConn s c reason).hif.cpls) :
    q ∈ s.hif.cpls ∨ (q.status = 0x04 ∧ q.conn = some c.h) := by
  rw [cpls_closeConn_of_no_msgs reason hmsgs] at h
  refine (List.mem_append.1 h).imp_right fun hgone => ?_
  obtain ⟨r, -, rfl⟩ := List.mem_map.1 hgone
  exact ⟨rfl, rfl⟩

end

/-! ## Timers -/

/-- A connection after a retransmission timeout that is not the last (R49). -/
def timedOut (s : State) (c : Conn) : Conn :=
  { c with tcp := { c.tcp with
      ssthresh := halfFlight s c, cwnd := c.mss s, nxt := seqAdd c.tcp.una (resendLen s c), dup := 0, recover := none,
      high := some c.tcp.max_, rto := clampRto s (2 * c.tcp.rto), rtoAt := some (s.now + clampRto s (2 * c.tcp.rto)),
      tries := c.tcp.tries + 1, timed := none } }

/-- A connection whose closed window is probed, with the next probe due after the interval so far (R49). -/
def probed (s : State) (c : Conn) (closedAt : Nat) : Conn :=
  { c with tcp := { c.tcp with probeAt := s.now + clampRto s (s.now - closedAt) } }

/-- A response that has waited for the window beyond the stall bound and is not counted yet (R50). -/
def stallsLate (s : State) (c : Conn) (r : NRsp) : Bool :=
  !r.stalled && waitsWindow c r && decide (r.at_ + s.getF Fld.NET_STALL_STALL_NS < s.now)

section
variable {s : State} {c : Conn} {h t : Nat} (hopen : s.open? h = some c)
include hopen

theorem exec_retransmitTimeout_last (hrto : c.tcp.rtoAt = some t) (hdue : t ≤ s.now)
    (htries : s.getF Fld.NET_TCP_RETRIES ≤ c.tcp.tries + 1) :
    exec (.retransmitTimeout h) s = .next (closeConn s c 0x07) := by
  rw [exec_retransmitTimeout]
  simp [execRetransmitTimeout, hopen, hrto, Nat.not_lt.2 hdue, htries]

theorem exec_retransmitTimeout_again (hrto : c.tcp.rtoAt = some t) (hdue : t ≤ s.now)
    (htries : c.tcp.tries + 1 < s.getF Fld.NET_TCP_RETRIES) :
    exec (.retransmitTimeout h) s = .next (resendFirst (putConn s (timedOut s c)) (timedOut s c)) := by
  rw [exec_retransmitTimeout]
  simp [execRetransmitTimeout, hopen, hrto, Nat.not_lt.2 hdue, Nat.not_le.2 htries, timedOut]

theorem exec_delayedAckTimer_due (hack : c.ackAt = some t) (hdue : t ≤ s.now) :
    exec (.delayedAckTimer h) s = .next (sendSegment s c c.tcp.nxt false []) := by
  rw [exec_delayedAckTimer]
  simp [execDelayedAckTimer, hopen, hack, hdue, sendAck]

theorem exec_zeroWindowProbe_due (hclosed : c.tcp.closedAt = some t) (hdue : c.tcp.probeAt ≤ s.now) (hbuf : c.sbuf ≠ [])
    (hkeys : rekeyOver c = false) :
    exec (.zeroWindowProbe h) s = .next (sendProbe (noteRekey s (probed s c t)) (probed s c t)) := by
  rw [exec_zeroWindowProbe]
  simp [execZeroWindowProbe, hopen, hclosed, Nat.not_lt.2 hdue, hbuf, keepOrRekey, hkeys, probed]

theorem exec_persistLimit_over (hclosed : c.tcp.closedAt = some t)
    (hover : t + 1000000 * s.getF Fld.NET_STALL_PERSIST_MAX_MS < s.now) :
    exec (.persistLimit h) s = .next (closeConn s c 0x08) := by
  rw [exec_persistLimit]
  simp [execPersistLimit, hopen, hclosed, hover]

theorem exec_handbackComplete_drained {r : Nat} (hst : c.st = .draining r) (hflight : inflight s c = 0) (hrsps : c.rsps = [])
    (hbuf : c.sbuf = []) : exec (.handbackComplete h) s = .next (closeConn s c r) := by
  rw [exec_handbackComplete]
  simp [execHandbackComplete, hopen, hst, hflight, hrsps, hbuf]

theorem exec_stallBoundExpiry_open :
    exec (.stallBoundExpiry h) s = .next (putConn (s.bump Off.NET_STALL_CNT (c.rsps.countP (stallsLate s c)))
      { c with rsps := c.rsps.map fun r => if stallsLate s c r then { r with stalled := true } else r }) := by
  rw [exec_stallBoundExpiry]
  simp only [execStallBoundExpiry, hopen]
  rfl

end

/-- R50: a port that is up sends a segment of the connection whose turn it is, while its keys are good. -/
theorem exec_segmentTransmit_next {s : State} {p : Fin 8} {c c1 : Conn} (hup : portLinkUp s p = true)
    (hnext : nextSender s p = some c) (hkeys : rekeyOver (readyToSend s c) = false)
    (hconn : (noteRekey s (readyToSend s c)).conn? (readyToSend s c).h (readyToSend s c).gen = some c1) :
    exec (.segmentTransmit p) s =
      .next (sendBytes (noteRekey s (readyToSend s c)) c1 (sendable (noteRekey s (readyToSend s c)) c1)) := by
  rw [exec_segmentTransmit]
  simp [execSegmentTransmit, hup, hnext, keepOrRekey, hkeys, hconn]

/-- Settles O35: what each event of a connection does, and what a handback leaves. -/
theorem connectionEvents : Obligations.ConnectionEvents := by
  intro s c h
  refine ⟨fun hopen => ⟨fun t => exec_retransmitTimeout_last hopen, fun t => exec_retransmitTimeout_again hopen,
      fun t => exec_delayedAckTimer_due hopen, fun t => exec_zeroWindowProbe_due hopen,
      fun t => exec_persistLimit_over hopen, fun r => exec_handbackComplete_drained hopen,
      exec_stallBoundExpiry_open hopen⟩,
    fun p c1 => exec_segmentTransmit_next, fun reason hmsgs _ => ⟨not_mem_conns_closeConn reason hmsgs, ?count,
      fun q => mem_cpls_closeConn reason hmsgs⟩⟩
  case count => rw [cpls_closeConn_of_no_msgs reason hmsgs, List.length_append, List.length_map]

end Sys2Proof.Proofs

namespace Sys2Proof.Proofs

open Sys2Proof Sys2Proof.Machine Sys2Proof.Laws

/-! # What the operations of a core leave

## The fetch and the end of an instruction -/

@[simp] theorem regs_fetched (s : State) (c : CoreId) (b : BankId) (ps : List (Phys × Nat)) :
    (fetched s c b ps).regs = s.regs := by
  obtain ⟨T, h⟩ := fetched_eq s c b ps
  rw [h, State.regs_modCore]

@[simp] theorem getF_fetched (s : State) (c : CoreId) (b : BankId) (ps : List (Phys × Nat)) (f : FieldRef) :
    (fetched s c b ps).getF f = s.getF f :=
  State.getF_congr f (State.reg_congr (regs_fetched s c b ps) _)

theorem asksNone_fetched {s : State} {c : CoreId} {b : BankId} {len : Nat} {ps : List (Phys × Nat)} (h : Ready s c b len ps) :
    AsksNone (fetched s c b ps) c :=
  (need_fetched s c b ps).trans h.2.2.2

/-- An instruction that has done everything itself leaves the state that it answers with. -/
theorem settleInstr_own {c : CoreId} {b : BankId} {len : Nat} {pc : Word} {u v : State} (h : AsksNone v c) :
    settleInstr c b len pc u (.own v) = v := settleInstr_need h

/-- A base instruction that is ready and whose body raises a cause traps. -/
theorem baseInstr_trap {s u : State} {c : CoreId} {b : BankId} {ps : List (Phys × Nat)} {body : BankId → State → IRes}
    {cause : Nat} {bad : Word} (hready : Ready s c b 4 ps) (hu : AsksNone u c) (hcause : epcNext cause = false)
    (hbody : body b (fetched s c b ps) = .trap u cause bad) :
    baseInstr c body s = takeTrap u c b cause bad (s.bank c b).pc := by
  rw [baseInstr_ready hready, hbody, settleInstr_trap hu, hcause]
  rfl

theorem baseInstr_own {s v : State} {c : CoreId} {b : BankId} {ps : List (Phys × Nat)} {body : BankId → State → IRes}
    (hready : Ready s c b 4 ps) (hv : AsksNone v c) (hbody : body b (fetched s c b ps) = .own v) :
    baseInstr c body s = v := by
  rw [baseInstr_ready hready, hbody, settleInstr_own hv]

theorem baseInstr_done {s v : State} {c : CoreId} {b : BankId} {ps : List (Phys × Nat)} {body : BankId → State → IRes}
    (hready : Ready s c b 4 ps) (hv : AsksNone v c) (hbody : body b (fetched s c b ps) = .done v) :
    baseInstr c body s = ended v c b 4 := by
  rw [baseInstr_ready hready, hbody, settleInstr_done hv]

/-! ## The L1 -/

/-- An access to a line changes what the L1s hold, and may draw the way of the line. -/
theorem l1Line_eq (s : State) (c : CoreId) (wr : Bool) (n : Nat) :
    ∃ l m, l1Line s c wr n = { s with l1 := l, freeCtr := m } := by
  unfold l1Line
  dsimp only
  split
  · exact ⟨_, s.freeCtr, rfl⟩
  · unfold l1Room
    dsimp only
    split
    · exact ⟨_, s.freeCtr, rfl⟩
    · exact ⟨_, _, rfl⟩

/-- What memory, the registers and the cores are like after an access through an L1: as before. -/
def SameButL1 (s t : State) : Prop := t.cores = s.cores ∧ t.mem = s.mem ∧ t.regs = s.regs

theorem sameButL1_l1Access (s : State) (c : CoreId) (wr : Bool) (pa n : Nat) : SameButL1 s (l1Access s c wr pa n) := by
  unfold l1Access
  split
  · refine foldl_inv (P := SameButL1 s) ⟨rfl, rfl, rfl⟩ _ fun t m ht => ?_
    obtain ⟨l, k, h⟩ := l1Line_eq t c wr m
    rw [h]
    exact ht
  · exact ⟨rfl, rfl, rfl⟩

@[simp] theorem mem_l1Access (s : State) (c : CoreId) (wr : Bool) (pa n : Nat) : (l1Access s c wr pa n).mem = s.mem :=
  (sameButL1_l1Access s c wr pa n).2.1
@[simp] theorem regs_l1Access (s : State) (c : CoreId) (wr : Bool) (pa n : Nat) : (l1Access s c wr pa n).regs = s.regs :=
  (sameButL1_l1Access s c wr pa n).2.2
@[simp] theorem core_l1Access (s : State) (c : CoreId) (wr : Bool) (pa n : Nat) (d : CoreId) :
    (l1Access s c wr pa n).core d = s.core d :=
  State.core_congr (sameButL1_l1Access s c wr pa n).1 d

/-! ## A core's view of memory (R116) -/

/-- What a core sees depends on its store queue and on memory alone. -/
theorem coreByte_congr {s t : State} {c : CoreId} (hsq : (t.core c).sq = (s.core c).sq) (hmem : t.mem = s.mem) (x : Nat) :
    coreByte t c x = coreByte s c x := by
  unfold coreByte
  rw [hsq, hmem]

theorem coreRead_eq_map (s : State) (c : CoreId) (a n : Nat) :
    coreRead s c a n = (List.range n).map fun i => coreByte s c (a + i) := by
  induction n generalizing a with
  | zero => rfl
  | succ n ih =>
    rw [coreRead, ih, List.range_succ_eq_map, List.map_cons, List.map_map]
    refine congrArg _ (List.map_congr_left fun i _ => ?_)
    exact congrArg (coreByte s c) (by simp only [Nat.succ_eq_add_one]; omega)

theorem coreRead_congr {s t : State} {c : CoreId} (hsq : (t.core c).sq = (s.core c).sq) (hmem : t.mem = s.mem) (a n : Nat) :
    coreRead t c a n = coreRead s c a n := by
  rw [coreRead_eq_map, coreRead_eq_map]
  exact List.map_congr_left fun i _ => coreByte_congr hsq hmem _

@[simp] theorem length_coreRead (s : State) (c : CoreId) (a n : Nat) : (coreRead s c a n).length = n := by
  rw [coreRead_eq_map, List.length_map, List.length_range]

/-- A part of what a core reads is what it reads of that part. -/
theorem take_drop_coreRead (s : State) (c : CoreId) (a : Nat) {n off m : Nat} (h : off + m ≤ n) :
    ((coreRead s c a n).drop off).take m = coreRead s c (a + off) m := by
  apply List.ext_getElem
  · simp; omega
  · intro i h1 h2
    simp [coreRead_eq_map, Nat.add_assoc]

/-! ## Writes of a core's own hardware (R83) -/

theorem lookup_filter_fst {α : Type} (p : Nat → Bool) (l : List (Nat × α)) (x : Nat) :
    (l.filter fun q => p q.1).lookup x = if p x then l.lookup x else none := by
  induction l with
  | nil => simp
  | cons q l ih =>
    rw [List.filter_cons]
    by_cases hx : x = q.1
    · subst hx
      by_cases hp : p q.1 = true
      · simp [hp, List.lookup]
      · simpa [hp] using ih
    · have hbeq : (x == q.1) = false := beq_eq_false_iff_ne.2 hx
      by_cases hp : p q.1 = true <;> simp [hp, List.lookup, hbeq, ih]

/-- A queue from which a range is dropped holds no byte of it, and every other byte as before. -/
theorem sqByte_sqDrop (sq : List SqEntry) (a n x : Nat) :
    sqByte (sqDrop sq a n) x = if x < a ∨ a + n ≤ x then sqByte sq x else none := by
  unfold sqByte sqDrop
  rw [List.foldl_map]
  simp only [lookup_filter_fst (fun y => decide (y < a ∨ a + n ≤ y)), decide_eq_true_eq]
  by_cases h : x < a ∨ a + n ≤ x
  · simp only [h, if_true]
  · simp only [h, if_false]
    exact foldl_inv (P := (· = none)) rfl sq fun _ _ hnone => hnone

section
variable (s : State) (c : CoreId) (a : Nat) (bs : List Byte)

theorem core_hwWrite_self : (hwWrite s c a bs).core c = { s.core c with sq := sqDrop (s.core c).sq a bs.length } := by
  unfold hwWrite
  rw [core_l1Access, State.core_wr, State.core_modCore_self]

theorem core_hwWrite_ne {d : CoreId} (h : d ≠ c) : (hwWrite s c a bs).core d = s.core d := by
  unfold hwWrite
  rw [core_l1Access, State.core_wr, State.core_modCore_ne _ _ _ _ h]

@[simp] theorem regs_hwWrite : (hwWrite s c a bs).regs = s.regs := by
  unfold hwWrite
  rw [regs_l1Access]
  rfl

theorem mem_hwWrite : (hwWrite s c a bs).mem = memWrite s.mem a bs := by
  unfold hwWrite
  rw [mem_l1Access]
  rfl

theorem coreByte_hwWrite_outside {x : Nat} (h : x < a ∨ a + bs.length ≤ x) :
    coreByte (hwWrite s c a bs) c x = coreByte s c x := by
  unfold coreByte
  rw [core_hwWrite_self, mem_hwWrite, sqByte_sqDrop, if_pos h, memGet_memWrite_of_not_mem _ _ _ _ h]

theorem coreByte_hwWrite_inside {i : Nat} (h : i < bs.length) : coreByte (hwWrite s c a bs) c (a + i) = bs[i] := by
  unfold coreByte
  rw [core_hwWrite_self, mem_hwWrite, sqByte_sqDrop, if_neg (by omega), memGet_memWrite_of_mem _ _ _ _ h]
  rfl

/-- The core sees the bytes that its hardware has written. -/
theorem coreRead_hwWrite {off m : Nat} (h : off + m ≤ bs.length) :
    coreRead (hwWrite s c a bs) c (a + off) m = (bs.drop off).take m := by
  apply List.ext_getElem
  · simp; omega
  · intro i h1 h2
    have hi : off + i < bs.length := by simp at h1; omega
    simp [coreRead_eq_map, Nat.add_assoc, coreByte_hwWrite_inside s c a bs hi]

end

/-! ## Bytes and numbers -/

theorem leNat_lt (bs : List Byte) : leNat bs < 256 ^ bs.length := by
  induction bs with
  | nil => exact Nat.one_pos
  | cons b t ih =>
    have hb := b.isLt
    rw [leNat, List.length_cons, Nat.pow_succ]
    omega

theorem leBytes_leNat (bs : List Byte) : leBytes bs.length (leNat bs) = bs := by
  induction bs with
  | nil => rfl
  | cons b t ih =>
    have hb := b.isLt
    have hhead : BitVec.ofNat 8 (b.toNat + 256 * leNat t) = b :=
      BitVec.eq_of_toNat_eq (by rw [BitVec.toNat_ofNat]; omega)
    have htail : (b.toNat + 256 * leNat t) / 256 = leNat t := by omega
    rw [List.length_cons, leBytes, leNat, hhead, htail, ih]

/-- A field that lies within a block is its bytes. -/
theorem sliceOf_eq_of_le {bs : List Byte} {off n : Nat} (h : off + n ≤ bs.length) : sliceOf bs off n = (bs.drop off).take n := by
  have hlen : ((bs.drop off).take n).length = n := by simp; omega
  unfold sliceOf
  dsimp only
  rw [hlen, Nat.sub_self]
  exact List.append_nil _

end Sys2Proof.Proofs

namespace Sys2Proof.Proofs

open Sys2Proof Sys2Proof.Machine Sys2Proof.Laws

/-! # TRET (R98, R100, R124) -/

/-- R98: TRET at trap level 0 takes PRIV. -/
theorem exec_tret_level_zero {s : State} {c : CoreId} {b : BankId} {ps : List (Phys × Nat)} (hready : Ready s c b 4 ps)
    (hsuper : (s.bank c b).user = false) (hb : b ≠ bank15) (hlevel : (s.bank c b).tl = 0) :
    exec (.tret c) s = .next (takeTrap (fetched s c b ps) c b 0x0C 0 (s.bank c b).pc) := by
  have hlevel : ((fetched s c b ps).bank c b).tl = 0 := by
    rw [Bank.tl, bank_fetched, unparted_get _ _ _ (by omega)]
    exact hlevel
  have hneed := asksNone_fetched hready
  rw [exec_tret]
  unfold execTret privInstr
  rw [runInstr_ready hready rfl fun _ => hsuper]
  simp only [Bool.false_eq_true, hb, hlevel, if_false, if_true]
  rw [settleInstr_trap hneed]
  rfl

/-- After reset, with low memory open and bank 0 of core 0 current at trap level 0, and a pending write of STATUS whose value
has a bit of TL, which no CTLW stores (R8, R94). -/
def pendingLevel : State :=
  ((State.reset.setReg (Off.MPU_ACT_ATTR 0) 0xFF0701).setReg (Off.MPU_ACT_BASE 0) 48).modCore 0 fun k =>
    { k.modBank 0 (fun x => { x with
        ctx := some { an := 1, run := 0, block := none, usedF := false, usedD := false, mcycles := 0 },
        pc := 0x1000, pend := [(Ctl.status.num, 0x100)] }) with cur := some 0 }

/-- The instruction word of `pendingLevel` as its fetch checks it. -/
def pendingFetch : List (Phys × Nat) := [({ pa := 0x1000, va := 0x1000, dev := false, tlb := none }, 4)]

theorem ready_pendingLevel : Ready pendingLevel 0 0 4 pendingFetch := by
  unfold Ready
  decide +kernel

theorem level_pendingLevel : (pendingLevel.bank 0 0).user = false ∧ (pendingLevel.bank 0 0).tl = 0 ∧
    (((pendingLevel.core 0).applyPend 0).bank 0).tl = 1 := by
  decide +kernel

theorem level_after_pendingLevel :
    ((takeTrap (fetched pendingLevel 0 0 pendingFetch) 0 0 0x0C 0 (pendingLevel.bank 0 0).pc).bank 0 0).tl = 2 := by
  decide +kernel

/-- Refutes O16: the statement takes the trap level after the pending writes, TRET tests it before them. Where a pending
write of STATUS holds a level bit, as no CTLW leaves one, TRET takes PRIV to level 2 and restores nothing. -/
theorem not_trapReturn : ¬ Obligations.TrapReturn := by
  intro h
  obtain ⟨hsuper, hlevel, hpending⟩ := level_pendingLevel
  obtain ⟨-, -, hreturn⟩ := h pendingLevel 0 0 pendingFetch ready_pendingLevel hsuper
  obtain ⟨t, ht, -, htl, -⟩ := hreturn (by decide) (by rw [hpending]; decide) (by rw [hpending]; decide)
  rw [exec_tret_level_zero ready_pendingLevel hsuper (by decide) hlevel] at ht
  have htrap := Host.Outcome.next.inj ht
  rw [← htrap, hpending, level_after_pendingLevel] at htl
  exact absurd htl (by decide)

end Sys2Proof.Proofs

namespace Sys2Proof.Proofs

open Sys2Proof Sys2Proof.Machine Sys2Proof.Laws

/-! # COMMIT and ABORT (R91, R242, R249, R250, R324)

## What asks for no window -/

theorem need_yieldBank (k : Machine.Core) : k.yieldBank.need = none := by
  unfold Core.yieldBank Core.select
  split
  · split <;> rfl
  · rfl

theorem need_freeBank {k : Machine.Core} (b : BankId) (h : k.need = none) : (k.freeBank b).need = none := by
  unfold Core.freeBank
  extract_lets k1 k2 in15
  split
  · exact need_yieldBank _
  · split
    · exact need_yieldBank _
    · exact h

theorem asksNone_blockOn (s : State) (c : CoreId) (b : BankId) (why : Block) : AsksNone (blockOn s c b why) c := by
  unfold AsksNone blockOn
  rw [State.core_modCore_self]
  exact need_yieldBank _

theorem asksNone_endRun {s : State} {c : CoreId} (an : Nat) (e : RunEnd) (h : AsksNone s c) : AsksNone (endRun s an e) c := by
  cases ht : s.txn? an with
  | none =>
    unfold endRun
    rwa [ht]
  | some t =>
    unfold AsksNone
    rw [State.core_congr (cores_endRun e ht)]
    unfold bankFreed
    split
    · rename_i d b _
      by_cases hd : c = d
      · subst hd
        rw [State.core_modCore_self]
        exact need_freeBank b h
      · rw [State.core_modCore_ne _ _ _ _ hd]
        exact h
    · exact h

/-! ## The context that waits -/

/-- R92: the context of a blocking instruction waits for what the instruction names. -/
theorem block_of_blockOn {s : State} {c : CoreId} {b : BankId} {why : Block} {x : Ctx}
    (h : ((blockOn s c b why).bank c b).ctx = some x) : x.block = some why := by
  unfold blockOn State.bank at h
  rw [State.core_modCore_self] at h
  unfold Core.bank at h
  rw [banks_yieldBank] at h
  change (Core.bank (Core.modBank _ b _) b).ctx = some x at h
  rw [Core.bank_modBank_self] at h
  obtain ⟨y, -, rfl⟩ := Option.map_eq_some_iff.1 h
  rfl

/-! ## The participants (R309, R324) -/

/-- What sending a message leaves: the cores, and what is known of prepared commits. -/
def SamePreps (s t : State) : Prop := t.cores = s.cores ∧ t.kol.preps = s.kol.preps

theorem samePreps_kolSend (s : State) (m : KMsg) : SamePreps s (kolSend s m) := by
  unfold kolSend
  split <;> exact ⟨rfl, rfl⟩

theorem samePreps_kolRequest (s : State) (node : Nat) (w : KWhat) (type key an deadline : Nat) (tag : Nat → Nat)
    (body : List Byte) : SamePreps s (kolRequest s node w type key an deadline tag body).2 :=
  samePreps_kolSend (newReq s node w).2 _

/-- The COMMIT of a transaction that waits for the answers of the other nodes. -/
def prepared (s : State) (t : Txn) : XPrep :=
  { an := t.an, run := t.run, answers := (logNodes s t.wlog).map fun n => (n, none) }

theorem mem_logNodes {s : State} {l : List WEntry} {e : WEntry} (he : e ∈ l) (hnode : e.node ≠ s.node) :
    e.node ∈ logNodes s l := by
  unfold logNodes
  rw [List.mem_eraseDups, List.mem_filter]
  exact ⟨List.mem_map_of_mem he, by simpa using hnode⟩

theorem sendPrepares_of_local {s : State} {t : Txn} (h : ∀ e ∈ t.wlog, e.node = s.node) : sendPrepares s t = s := by
  have hnodes : logNodes s t.wlog = [] := by
    unfold logNodes
    rw [List.filter_eq_nil_iff.2]
    · rfl
    · intro n hn
      obtain ⟨e, he, rfl⟩ := List.mem_map.1 hn
      simp [h e he]
  unfold sendPrepares
  exact if_pos hnodes

theorem sendPrepares_keeps (s : State) (t : Txn) :
    (sendPrepares s t).cores = s.cores ∧
      (logNodes s t.wlog ≠ [] → (sendPrepares s t).kol.preps = s.kol.preps ++ [prepared s t]) := by
  unfold sendPrepares
  dsimp only
  split
  case isTrue h => exact ⟨rfl, fun hne => absurd h hne⟩
  case isFalse h =>
    let begun : State := { s with kol := { s.kol with preps := s.kol.preps ++ [prepared s t] } }
    have hsent : SamePreps begun ((logNodes s t.wlog).foldl (fun s n =>
        (kolRequest s n (.prepare t.an t.run) 0x11 t.pd.key t.an t.deadline (fun no => runTag t + no * 2 ^ 15)
          (leBytes 2 (t.wlog.countP fun e => e.node == n) ++ zeros 6)).2) begun) :=
      foldl_inv (P := SamePreps begun) ⟨rfl, rfl⟩ _ fun u n hu =>
        have hn := samePreps_kolRequest u n (.prepare t.an t.run) 0x11 t.pd.key t.an t.deadline
          (fun no => runTag t + no * 2 ^ 15) (leBytes 2 (t.wlog.countP fun e => e.node == n) ++ zeros 6)
        ⟨hn.1.trans hu.1, hn.2.trans hu.2⟩
    exact ⟨hsent.1, fun _ => hsent.2⟩

/-- R324: each other node that the write log names is asked. -/
theorem asked_of_sendPrepares {s : State} {t : Txn} {e : WEntry} (he : e ∈ t.wlog) (hnode : e.node ≠ s.node) :
    ∃ p ∈ (sendPrepares s t).kol.preps, p.an = t.an ∧ p.run = t.run ∧ (e.node, none) ∈ p.answers := by
  have hmem := mem_logNodes he hnode
  have hpreps := (sendPrepares_keeps s t).2 (List.ne_nil_of_mem hmem)
  refine ⟨prepared s t, ?_, rfl, rfl, List.mem_map_of_mem hmem⟩
  rw [hpreps]
  exact List.mem_append_right _ (List.mem_singleton_self _)

/-! ## COMMIT -/

@[simp] theorem cores_copyResponse (s : State) (t : Txn) : (copyResponse s t).cores = s.cores := by
  unfold copyResponse
  split <;> rfl

/-- R250: the owner flag of a transaction that commits, and the write log that JNL has of it. -/
theorem committing_of_txn? {s : State} {an : Nat} {l : List WEntry} {x : Txn}
    (h : (s.modTxn an fun t => { t with owner := .committing, wlog := l }).txn? an = some x) :
    x.owner = .committing ∧ x.wlog = l := by
  rw [State.txn?_modTxn_self] at h
  · obtain ⟨y, -, rfl⟩ := Option.map_eq_some_iff.1 h
    exact ⟨rfl, rfl⟩
  · exact fun _ han => han

theorem asksNone_commitRetire (s : State) (c : CoreId) (b : BankId) (t : Txn) : AsksNone (commitRetire c b t s) c := by
  unfold AsksNone commitRetire
  dsimp only
  rw [State.core_congr (sendPrepares_keeps _ _).1, State.core_modTxn, State.core_congr (cores_copyResponse _ _)]
  exact asksNone_blockOn ..

section
variable {s : State} {c : CoreId} {k : BankId} {ps : List (Phys × Nat)} {a : Reg} {t : Txn} (hready : Ready s c k 4 ps)
  (hk : k ≠ bank15)
include hready hk

/-- R196: neither instruction acts with the unit disabled. -/
theorem exec_commit_disabled (hoff : s.getF Fld.LDG_CTRL_ENABLE = 0) :
    exec (.commit c) s = .next (takeTrap (fetched s c k ps) c k 0x28 0 (s.bank c k).pc) := by
  rw [exec_commit]
  refine congrArg _ (baseInstr_trap hready (asksNone_fetched hready) rfl ?_)
  simp [hk, hoff]

theorem exec_abort_refused (h : s.getF Fld.LDG_CTRL_ENABLE = 0 ∨ abortForm (s.g c k a).toNat = false) :
    exec (.abort c a) s = .next (takeTrap (fetched s c k ps) c k 0x28 0 (s.bank c k).pc) := by
  rw [exec_abort]
  refine congrArg _ (baseInstr_trap hready (asksNone_fetched hready) rfl ?_)
  simpa [hk, g_fetched] using fun hon hform => absurd h (by simp [hon, hform])

variable (hon : s.getF Fld.LDG_CTRL_ENABLE ≠ 0) (ht : ctxTxn (fetched s c k ps) c k = some t)
include hon ht

theorem exec_commit_retires : exec (.commit c) s = .next (commitRetire c k t (fetched s c k ps)) := by
  rw [exec_commit]
  refine congrArg _ (baseInstr_own hready (asksNone_commitRetire _ c k t) ?_)
  simp [hk, hon, ht]

/-- R249: ABORT ends the run as its word says. -/
theorem exec_abort_ends (hform : abortForm (s.g c k a).toNat = true) :
    exec (.abort c a) s = .next (endRun ((reportCycles (fetched s c k ps) c k).bump Off.LDG_ABORT_CNT) t.an
      (if bitAt (s.g c k a).toNat 8 then .countedReplay else .decline ((s.g c k a).toNat % 256))) := by
  have hasks : AsksNone ((reportCycles (fetched s c k ps) c k).bump Off.LDG_ABORT_CNT) c := by
    unfold AsksNone reportCycles
    rw [State.core_bump]
    split <;> exact asksNone_fetched hready
  rw [exec_abort]
  refine congrArg _ (baseInstr_own hready (asksNone_endRun _ _ hasks) ?_)
  simp [hk, hon, ht, g_fetched, hform]

end

/-- Settles O32: what COMMIT leaves with the journal and asks of other nodes, how ABORT ends a run, and what refuses both. -/
theorem commitAndAbort : Obligations.CommitAndAbort := by
  intro s c k ps a t hready hk u v pc
  refine ⟨fun hon ht => ⟨?commit, fun hlt hlow hhigh => ?abort⟩, fun hform => ?refused,
    fun hoff => ⟨exec_commit_disabled hready hk hoff, exec_abort_refused hready hk (.inl hoff)⟩⟩
  case commit =>
    intro w l z
    have hretires : exec (.commit c) s = .next (sendPrepares z { t with wlog := l }) := exec_commit_retires hready hk hon ht
    exact ⟨hretires, fun x => committing_of_txn?, fun x => block_of_blockOn,
      fun hlocal => hretires.trans (congrArg _ (sendPrepares_of_local hlocal)),
      fun e he hnode => asked_of_sendPrepares he hnode⟩
  case abort =>
    exact exec_abort_ends hready hk hon ht (decide_eq_true ⟨hlt, hlow, hhigh⟩)
  case refused => exact exec_abort_refused hready hk (.inr (decide_eq_false hform))

end Sys2Proof.Proofs

namespace Sys2Proof.Proofs

open Sys2Proof Sys2Proof.Machine Sys2Proof.Laws

/-! # General registers and the frame of an instruction (R80, R81, R104, R108, R118, R178, R207)

## Storage places -/

/-- A set of sixteen registers of a bank: its lower half, window 0 or window 1 (R80). -/
def bankSet (y : Bank) (half : Fin 3) : Vector Word 16 :=
  match half with
  | 0 => y.lo
  | 1 => y.w0
  | 2 => y.w1

/-- A bank with a register of one of its three sets replaced. -/
def bankPut (y : Bank) (half : Fin 3) (i : Fin 16) (v : Word) : Bank :=
  match half with
  | 0 => { y with lo := y.lo.set i v }
  | 1 => { y with w0 := y.w0.set i v }
  | 2 => { y with w1 := y.w1.set i v }

theorem bankSet_bankPut (y : Bank) (half half' : Fin 3) (i : Fin 16) (v : Word) :
    bankSet (bankPut y half i v) half' = if half = half' then (bankSet y half).set i v else bankSet y half' := by
  fin_cases half <;> fin_cases half' <;> rfl

theorem cellOf_eq (k : Machine.Core) (x : RegCell) : cellOf k x = (bankSet (k.bank x.1) x.2.1)[x.2.2] := by
  obtain ⟨b, half, i⟩ := x
  fin_cases half <;> rfl

/-- A core with a storage place replaced. -/
def cellPut (k : Machine.Core) (x : RegCell) (v : Word) : Machine.Core := k.modBank x.1 fun y => bankPut y x.2.1 x.2.2 v

theorem setWin_eq_bankPut (y : Bank) (w1 : Bool) (i : Fin 16) (v : Word) : y.setWin w1 i v = bankPut y (winHalf w1) i v := by
  cases w1 <;> rfl

/-- A write of a general register is one of the place that its number names (R80, R81, R178). -/
theorem writeG_cell (k : Machine.Core) (b : BankId) (r : Reg) (v : Word) :
    k.writeG b r v = match namedCell k b r with | none => k | some x => cellPut k x v := by
  unfold Core.writeG namedCell placeOf
  dsimp only
  by_cases h0 : r = 0
  · rw [if_pos h0, if_pos h0]
  · rw [if_neg h0, if_neg h0]
    by_cases hlo : r.val < 16
    · rw [if_pos hlo, if_pos hlo]
      rfl
    · rw [if_neg hlo, if_neg hlo]
      by_cases hview1 : Bits.get (k.bank b).bwr 8 2 = 1
      · rw [if_pos hview1, if_pos hview1]
        by_cases hhalf : halfIndex r = 0
        · rw [if_pos hhalf, if_pos hhalf]
        · rw [if_neg hhalf, if_neg hhalf]
          rfl
      · rw [if_neg hview1, if_neg hview1]
        by_cases hview2 : Bits.get (k.bank b).bwr 8 2 = 2
        · rw [if_pos hview2, if_pos hview2]
          simp only [setWin_eq_bankPut]
          rfl
        · rw [if_neg hview2, if_neg hview2]
          exact congrArg (k.setBank b) (setWin_eq_bankPut ..)

/-- What a write of a register leaves of a bank: all but its registers. -/
def SameButRegs (x y : Bank) : Prop := { y with lo := x.lo, w0 := x.w0, w1 := x.w1 } = x

section
variable {x y : Bank} (h : SameButRegs x y)
include h

theorem SameButRegs.bwr : y.bwr = x.bwr := by unfold SameButRegs at h; rw [← h]
theorem SameButRegs.status : y.status = x.status := by unfold SameButRegs at h; rw [← h]

end

theorem sameButRegs_bankPut (y : Bank) (half : Fin 3) (i : Fin 16) (v : Word) : SameButRegs y (bankPut y half i v) := by
  fin_cases half <;> rfl

theorem sameButRegs_cellPut (k : Machine.Core) (x : RegCell) (v : Word) (b : BankId) :
    SameButRegs (k.bank b) ((cellPut k x v).bank b) := by
  unfold cellPut
  by_cases hb : b = x.1
  · subst hb
    rw [Core.bank_modBank_self]
    exact sameButRegs_bankPut ..
  · rw [Core.bank_modBank_ne _ _ _ _ hb]
    rfl

theorem cellOf_cellPut (k : Machine.Core) (x y : RegCell) (v : Word) :
    cellOf (cellPut k x v) y = if some x = some y then v else cellOf k y := by
  obtain ⟨b, half, i⟩ := x
  obtain ⟨d, half', j⟩ := y
  rw [cellOf_eq, cellOf_eq]
  unfold cellPut
  dsimp only
  by_cases hd : d = b
  · subst hd
    rw [Core.bank_modBank_self, bankSet_bankPut]
    by_cases hhalf : half = half'
    · subst hhalf
      simp [Vector.getElem_set, Fin.ext_iff]
    · simp [hhalf]
  · rw [if_neg fun h => hd (congrArg Prod.fst (Option.some.inj h)).symm, Core.bank_modBank_ne _ _ _ _ hd]

/-- A number names the same place where BWR and the level are as before. -/
theorem namedCell_congr {k m : Machine.Core} {b : BankId} (hbwr : (m.bank b).bwr = (k.bank b).bwr)
    (hwin : (m.bank b).window = (k.bank b).window) (r : Reg) : namedCell m b r = namedCell k b r := by
  unfold namedCell
  rw [hbwr, hwin]

theorem namedCell_cellPut (k : Machine.Core) (x : RegCell) (v : Word) (b : BankId) (r : Reg) :
    namedCell (cellPut k x v) b r = namedCell k b r := by
  have h := sameButRegs_cellPut k x v b
  refine namedCell_congr h.bwr ?_ r
  unfold Bank.window Bank.tl
  rw [h.status]

/-! ## Reads after writes of a register -/

section
variable (s : State) (c : CoreId) (b : BankId) (r : Reg) (v : Word)

theorem core_setG : (s.setG c b r v).core c = (s.core c).writeG b r v := State.core_modCore_self ..

theorem cellOf_setG (x : RegCell) :
    cellOf ((s.setG c b r v).core c) x = if namedCell (s.core c) b r = some x then v else cellOf (s.core c) x := by
  rw [core_setG, writeG_cell]
  cases namedCell (s.core c) b r with
  | none => rw [if_neg nofun]
  | some y => exact cellOf_cellPut ..

theorem namedCell_setG : namedCell ((s.setG c b r v).core c) b r = namedCell (s.core c) b r := by
  rw [core_setG, writeG_cell]
  cases h : namedCell (s.core c) b r with
  | none => exact h
  | some y => exact (namedCell_cellPut ..).trans h

/-- R178: a number that names no place discards the write. -/
theorem g_setG_self : (s.setG c b r v).g c b r = if (namedCell (s.core c) b r).isSome then v else 0 := by
  unfold State.g
  rw [readG_cell, namedCell_setG]
  cases h : namedCell (s.core c) b r with
  | none => rfl
  | some x =>
    dsimp only
    rw [cellOf_setG, h, if_pos rfl]
    rfl

theorem onlyCore_modCore (f : Machine.Core → Machine.Core) : OnlyCore s (s.modCore c f) c :=
  ⟨rfl, fun _ hd => State.core_modCore_ne _ _ _ _ hd⟩

theorem sameButRegs_setG (b' : BankId) : SameButRegs (s.bank c b') ((s.setG c b r v).bank c b') := by
  unfold State.bank
  rw [core_setG, writeG_cell]
  cases namedCell (s.core c) b r with
  | none => rfl
  | some x => exact sameButRegs_cellPut ..

end

theorem writeG_keeps (k : Machine.Core) (b : BankId) (r : Reg) (v : Word) :
    { k.writeG b r v with banks := k.banks } = k := by
  rw [writeG_cell]
  cases namedCell k b r <;> rfl

/-! ## An instruction that ends in line -/

theorem dropWin_eq (s : State) (c : CoreId) : dropWin s c = s.modCore c fun k => { k with win := [] } := by
  unfold dropWin
  split
  case isTrue h =>
    have hcore : ({ s.core c with win := [] } : Machine.Core) = s.core c := by rw [← h]
    exact ((congrArg (s.setCore c) hcore).trans (setCore_core s c)).symm
  case isFalse => rfl

/-- A bank whose PC has moved past an instruction of `len` bytes. -/
def pcMoved (len : Nat) (x : Bank) : Bank := { x with pc := x.pc + BitVec.ofNat 64 len }

/-- A core whose instruction of `len` bytes ends in line, with no fetched word overwritten. -/
def lineEnd (b : BankId) (len : Nat) (k : Machine.Core) : Machine.Core :=
  { k.modBank b (pcMoved len) with
    win := [], pq := k.pq.dropWhile fun w => decide (w.addr + 16 ≤ ((k.bank b).pc + BitVec.ofNat 64 len).toNat) }

theorem bank_lineEnd_self (b : BankId) (len : Nat) (k : Machine.Core) :
    (lineEnd b len k).bank b = pcMoved len (k.bank b) := Core.bank_modBank_self k b (pcMoved len)

theorem bank_lineEnd_ne {b d : BankId} (h : d ≠ b) (len : Nat) (k : Machine.Core) : (lineEnd b len k).bank d = k.bank d :=
  Core.bank_modBank_ne k b d (pcMoved len) h

theorem ended_of_not_smc {v : State} {c : CoreId} (h : (v.core c).smc = false) (b : BankId) (len : Nat) :
    ended v c b len = v.modCore c (lineEnd b len) := by
  have hdrop : ((dropWin v c).core c).smc = false := by rw [dropWin_eq, State.core_modCore_self]; exact h
  unfold ended settleCode
  rw [if_neg (by rw [hdrop]; nofun), dropWin_eq]
  exact modCore_modCore ..

/-- The TLB of a core after a fetch has marked the entries that it used (R207). -/
def markedTlb (s : State) (c : CoreId) (ps : List (Phys × Nat)) : Vector TlbEntry 128 := ((markParts s c ps).core c).tlb

theorem markParts_eq_markedTlb (s : State) (c : CoreId) (ps : List (Phys × Nat)) :
    markParts s c ps = s.modCore c fun k => { k with tlb := markedTlb s c ps } := by
  obtain ⟨T, h⟩ := markParts_eq s c ps
  have hT : markedTlb s c ps = T := by
    unfold markedTlb
    rw [h, State.core_modCore_self]
  rw [hT, h]

/-- The words of the entries of a TLB. -/
def SameWords (t u : Vector TlbEntry 128) : Prop := ∀ i : Fin 128, u[i].w0 = t[i].w0 ∧ u[i].w1 = t[i].w1

theorem sameWords_markUse (s : State) (c : CoreId) (i : Option Nat) :
    SameWords (s.core c).tlb ((markUse s c i).core c).tlb := by
  intro n
  unfold markUse
  cases i with
  | none => exact ⟨rfl, rfl⟩
  | some j =>
    dsimp only
    rw [State.core_modCore_self]
    split
    · by_cases hn : j = n.val
      · subst hn; simp
      · simp [hn]
    · exact ⟨rfl, rfl⟩

/-- R207: marking an entry changes none of its words. -/
theorem sameWords_markedTlb (s : State) (c : CoreId) (ps : List (Phys × Nat)) : SameWords (s.core c).tlb (markedTlb s c ps) :=
  foldl_inv (P := fun t => SameWords (s.core c).tlb (t.core c).tlb) (fun _ => ⟨rfl, rfl⟩) ps fun t p ht i =>
    have hmark := sameWords_markUse t c p.1.tlb i
    ⟨hmark.1.trans (ht i).1, hmark.2.trans (ht i).2⟩

/-- R104: no progress is recorded after the fetch of an instruction that is not interruptible. -/
theorem part_unparted (x : Bank) : (unparted x).part = false := by
  unfold unparted
  split
  case isTrue =>
    unfold Bank.part Bank.setProgress
    dsimp only
    rw [Bits.lsb_put_ne _ _ _ _ _ (by omega) (by omega)]
    unfold Bits.put
    rw [BitVec.getLsbD_ofNat, testBit_putBits]
    rfl
  case isFalse h => exact Bool.eq_false_iff.2 h

/-- A fetch changes PART and PROG of a bank alone. -/
theorem unparted_keeps (x : Bank) : { unparted x with pc := x.pc, status := x.status } = x := by
  unfold unparted
  split <;> rfl

section
variable {s : State} {c : CoreId} (b : BankId) (len : Nat) (ps : List (Phys × Nat)) (h : (s.core c).smc = false)
include h

/-- The frame of an instruction in one equation. -/
theorem retired_id_eq : retired s c b len ps (fun u => u) = s.modCore c fun k =>
    lineEnd b len (({ k with tlb := markedTlb s c ps } : Machine.Core).modBank b unparted) := by
  have hfetched : fetched s c b ps =
      s.modCore c fun k => ({ k with tlb := markedTlb s c ps } : Machine.Core).modBank b unparted := by
    unfold fetched
    rw [clearPart_eq, markParts_eq_markedTlb]
    exact modCore_modCore ..
  have hsmc : ((fetched s c b ps).core c).smc = false := by
    rw [hfetched, State.core_modCore_self]
    exact h
  unfold retired
  rw [ended_of_not_smc hsmc, hfetched]
  exact modCore_modCore ..

theorem bank_retired_id : (retired s c b len ps fun u => u).bank c b =
    pcMoved len (unparted (s.bank c b)) := by
  unfold State.bank
  rw [retired_id_eq b len ps h, State.core_modCore_self, bank_lineEnd_self, Core.bank_modBank_self]
  rfl

theorem bank_retired_id_ne {d : BankId} (hd : d ≠ b) : (retired s c b len ps fun u => u).bank c d = s.bank c d := by
  unfold State.bank
  rw [retired_id_eq b len ps h, State.core_modCore_self, bank_lineEnd_ne hd, Core.bank_modBank_ne _ _ _ _ hd]
  rfl

end

/-- Settles O4: a register write changes the one place that its number names; an instruction that retires with no effect moves
its PC, takes back PART and PROG, and leaves the rest. -/
theorem registerFrame : Obligations.RegisterFrame := by
  refine ⟨fun s c b r v => ⟨readG_cell _ b r, cellOf_setG s c b r v, g_setG_self s c b r v, onlyCore_modCore s c _,
    sameButRegs_setG s c b r v, ?_⟩, fun s c b len ps h => ?_⟩
  · rw [core_setG]
    exact writeG_keeps ..
  · have hbank := bank_retired_id b len ps h
    have hcore := retired_id_eq b len ps h
    refine ⟨hcore ▸ onlyCore_modCore s c _, ?pc, ?part, fun d hd => bank_retired_id_ne b len ps h hd, ?bank, ?status,
      ?tlb, ?core⟩
    case pc =>
      rw [hbank, ← unparted_pc (s.bank c b)]
      rfl
    case part => rw [hbank]; exact part_unparted _
    case bank =>
      rw [hbank]
      exact unparted_keeps _
    case status =>
      intro lo w hw
      rw [hbank]
      exact unparted_get _ _ _ hw
    case tlb =>
      rw [hcore, State.core_modCore_self]
      exact sameWords_markedTlb s c ps
    case core =>
      rw [hcore, State.core_modCore_self]
      rfl

end Sys2Proof.Proofs

namespace Sys2Proof.Proofs

open Sys2Proof Sys2Proof.Machine Sys2Proof.Laws

/-! # The lazy register sets (R83, R84)

## Writes of registers ask for no window -/

@[simp] theorem need_writeG (k : Machine.Core) (b : BankId) (r : Reg) (v : Word) : (k.writeG b r v).need = k.need := by
  rw [← congrArg Core.need (writeG_keeps k b r v)]

section
variable {s : State} {c : CoreId} {b : BankId}

@[simp] theorem asksNone_modBank {f : Bank → Bank} : AsksNone (s.modBank c b f) c ↔ AsksNone s c := by
  unfold AsksNone State.modBank
  rw [State.core_modCore_self]
  rfl

@[simp] theorem asksNone_setCC {v : Nat} : AsksNone (s.setCC c b v) c ↔ AsksNone s c := asksNone_modBank

@[simp] theorem asksNone_setG {r : Reg} {v : Word} : AsksNone (s.setG c b r v) c ↔ AsksNone s c := by
  unfold AsksNone State.setG
  rw [State.core_modCore_self, need_writeG]

@[simp] theorem asksNone_setFr {r : Reg} {v : Word} : AsksNone (s.setFr c r v) c ↔ AsksNone s c := by
  unfold AsksNone State.setFr
  rw [State.core_modCore_self]

end

/-! ## The sets in memory -/

/-- The 256 bytes of the F set (R82). -/
def fBytes (k : Machine.Core) : List Byte := k.f.toList.flatMap fun w => leBytes 8 w.toNat

/-- The 256 bytes of the DA set (R82). -/
def daBytes (k : Machine.Core) : List Byte := k.da.toList.flatMap fun w => leBytes 32 w.toNat

/-- The bytes of an entry among the bytes of a list of entries of one size. -/
theorem take_drop_flatMap_leBytes {w m : Nat} (l : List (BitVec w)) {i : Nat} (h : i < l.length) :
    ((l.flatMap fun x => leBytes m x.toNat).drop (m * i)).take m = leBytes m l[i].toNat := by
  induction l generalizing i with
  | nil => exact absurd h (Nat.not_lt_zero i)
  | cons x l ih =>
    rw [List.flatMap_cons]
    cases i with
    | zero =>
      have htake := List.take_left (l₁ := leBytes m x.toNat) (l₂ := l.flatMap fun x => leBytes m x.toNat)
      rwa [leBytes_length] at htake
    | succ j =>
      have hdrop := List.drop_left (l₁ := leBytes m x.toNat) (l₂ := l.flatMap fun x => leBytes m x.toNat)
      rw [leBytes_length] at hdrop
      rw [Nat.mul_succ, Nat.add_comm, ← List.drop_drop, hdrop, ih (Nat.lt_of_succ_lt_succ h)]
      rfl

theorem length_flatMap_leBytes {w : Nat} (m : Nat) (l : List (BitVec w)) :
    (l.flatMap fun x => leBytes m x.toNat).length = m * l.length := by
  induction l with
  | nil => rfl
  | cons x l ih => rw [List.flatMap_cons, List.length_append, leBytes_length, ih, List.length_cons, Nat.mul_succ, Nat.add_comm]

theorem length_fBytes (k : Machine.Core) : (fBytes k).length = 256 := by
  unfold fBytes
  rw [length_flatMap_leBytes, Vector.length_toList]

theorem length_daBytes (k : Machine.Core) : (daBytes k).length = 256 := by
  unfold daBytes
  rw [length_flatMap_leBytes, Vector.length_toList]

/-- A field of a block that lies within it gives back its bytes. -/
theorem leBytes_fld {w : Nat} {bs : List Byte} {off n : Nat} (h : off + n ≤ bs.length) (hw : w = 8 * n) :
    leBytes n (BitVec.ofNat w (fld bs off n)).toNat = (bs.drop off).take n := by
  unfold fld
  rw [sliceOf_eq_of_le h]
  generalize hpart : (bs.drop off).take n = part
  have hlen : part.length = n := by rw [← hpart]; simp; omega
  have hlt := leNat_lt part
  have hpow : 256 ^ n = 2 ^ w := by rw [hw, Nat.pow_mul]
  rw [hlen, hpow] at hlt
  rw [BitVec.toNat_ofNat, Nat.mod_eq_of_lt hlt, ← hlen, leBytes_leNat]

/-! ## The swap -/

/-- The save of a lazy set to its owner's area, where a context is still bound there (R84 item 1). -/
def lazySaved (s : State) (c : CoreId) (owner : Option BankId) (off : Nat) (bs : List Byte) : State :=
  match owner with
  | some o => if (s.core c).bound o then hwWrite s c (bankArea c o + off) bs else s
  | none => s

/-- The line accesses of the load of a lazy set (R84 item 2). -/
def lazyRead (s : State) (c : CoreId) (used : Bool) (a : Nat) : State := if used then l1Access s c false a 256 else s

section
variable (s : State) (c : CoreId)

theorem sameButL1_lazyRead (used : Bool) (a : Nat) : SameButL1 s (lazyRead s c used a) := by
  unfold lazyRead
  split
  · exact sameButL1_l1Access ..
  · exact ⟨rfl, rfl, rfl⟩

@[simp] theorem regs_lazySaved (owner : Option BankId) (off : Nat) (bs : List Byte) :
    (lazySaved s c owner off bs).regs = s.regs := by
  unfold lazySaved
  split
  · split
    · exact regs_hwWrite ..
    · rfl
  · rfl

/-- The save leaves the core but for stores that it overtakes. -/
theorem core_lazySaved (owner : Option BankId) (off : Nat) (bs : List Byte) :
    ∃ q, (lazySaved s c owner off bs).core c = { s.core c with sq := q } := by
  unfold lazySaved
  split
  · split
    · exact ⟨_, core_hwWrite_self ..⟩
    · exact ⟨_, rfl⟩
  · exact ⟨_, rfl⟩

theorem lazySaved_bound {o : BankId} (h : (s.core c).bound o = true) (off : Nat) (bs : List Byte) :
    lazySaved s c (some o) off bs = hwWrite s c (bankArea c o + off) bs :=
  if_pos h

theorem lazySaved_unbound {owner : Option BankId} (h : ∀ o, owner = some o → (s.core c).bound o = false) (off : Nat)
    (bs : List Byte) : lazySaved s c owner off bs = s := by
  unfold lazySaved
  split
  · exact if_neg (by rw [h _ rfl]; nofun)
  · rfl

end

/-- The state in which the F set has been saved and its lines for the new owner have been read. -/
def fSaved (s : State) (c : CoreId) : State := lazySaved s c (s.core c).fOwner 0x300 (fBytes (s.core c))

/-- The state in which the DA set has been saved. -/
def dSaved (s : State) (c : CoreId) : State := lazySaved s c (s.core c).dOwner 0x400 (daBytes (s.core c))

/-- The F set that a new owner finds (R84 item 2). -/
def fFound (s : State) (c : CoreId) (b : BankId) : Vector Word 32 :=
  if (s.core c).usedF b then fOf (coreRead (fSaved s c) c (bankArea c b + 0x300) 256) else Vector.replicate 32 0

/-- The DA set that a new owner finds. -/
def dFound (s : State) (c : CoreId) (b : BankId) : Vector (BitVec 256) 8 :=
  if (s.core c).usedD b then daOf (coreRead (dSaved s c) c (bankArea c b + 0x400) 256) else Vector.replicate 8 daZero

section
variable {s : State} {c : CoreId} {b : BankId}

theorem lazyF_of_owner (h : (s.core c).fOwner = some b) : lazyF s c b = s := if_pos h
theorem lazyD_of_owner (h : (s.core c).dOwner = some b) : lazyD s c b = s := if_pos h

theorem lazyF_of_not_owner (h : (s.core c).fOwner ≠ some b) :
    lazyF s c b = (lazyRead (fSaved s c) c ((s.core c).usedF b) (bankArea c b + 0x300)).modCore c fun k =>
      ({ k with f := fFound s c b, fOwner := some b } : Machine.Core).markF b := if_neg h

theorem lazyD_of_not_owner (h : (s.core c).dOwner ≠ some b) :
    lazyD s c b = (lazyRead (dSaved s c) c ((s.core c).usedD b) (bankArea c b + 0x400)).modCore c fun k =>
      ({ k with da := dFound s c b, dOwner := some b } : Machine.Core).markD b := if_neg h

/-- The core after a swap of the F set. -/
theorem core_lazyF_of_not_owner (h : (s.core c).fOwner ≠ some b) :
    ∃ q, (lazyF s c b).core c = ({ s.core c with sq := q, f := fFound s c b, fOwner := some b } : Machine.Core).markF b := by
  obtain ⟨q, hq⟩ := core_lazySaved s c (s.core c).fOwner 0x300 (fBytes (s.core c))
  refine ⟨q, ?_⟩
  rw [lazyF_of_not_owner h, State.core_modCore_self, State.core_congr (sameButL1_lazyRead ..).1]
  unfold fSaved
  rw [hq]

theorem core_lazyD_of_not_owner (h : (s.core c).dOwner ≠ some b) :
    ∃ q, (lazyD s c b).core c = ({ s.core c with sq := q, da := dFound s c b, dOwner := some b } : Machine.Core).markD b := by
  obtain ⟨q, hq⟩ := core_lazySaved s c (s.core c).dOwner 0x400 (daBytes (s.core c))
  refine ⟨q, ?_⟩
  rw [lazyD_of_not_owner h, State.core_modCore_self, State.core_congr (sameButL1_lazyRead ..).1]
  unfold dSaved
  rw [hq]

end

/-! ## What the mark of a used set leaves -/

/-- The marks of R84 lie with the contexts: every bank is as before but for its context. -/
def SameButCtx (k m : Machine.Core) : Prop := ∀ d, ∃ x, m.bank d = { k.bank d with ctx := x }

theorem SameButCtx.readG {k m : Machine.Core} (h : SameButCtx k m) (b : BankId) (r : Reg) : m.readG b r = k.readG b r := by
  obtain ⟨x, hb⟩ := h b
  have hnamed : namedCell m b r = namedCell k b r := namedCell_congr (by rw [hb]) (by rw [hb]; rfl) r
  rw [readG_cell, readG_cell, hnamed]
  cases namedCell k b r with
  | none => rfl
  | some y =>
    obtain ⟨z, hy⟩ := h y.1
    dsimp only
    rw [cellOf_eq, cellOf_eq, hy]
    rfl

theorem sameButCtx_markF (k : Machine.Core) (b : BankId) : SameButCtx k (k.markF b) := by
  intro d
  unfold Core.markF
  split
  · exact ⟨_, rfl⟩
  · by_cases hd : d = b
    · subst hd
      exact ⟨_, Core.bank_modBank_self ..⟩
    · exact ⟨_, Core.bank_modBank_ne _ _ _ _ hd⟩

section
variable (k : Machine.Core) (b : BankId)

@[simp] theorem need_markF : (k.markF b).need = k.need := by unfold Core.markF; split <;> rfl
@[simp] theorem need_markD : (k.markD b).need = k.need := by unfold Core.markD; split <;> rfl
@[simp] theorem sq_markF : (k.markF b).sq = k.sq := by unfold Core.markF; split <;> rfl
@[simp] theorem sq_markD : (k.markD b).sq = k.sq := by unfold Core.markD; split <;> rfl
@[simp] theorem f_markF : (k.markF b).f = k.f := by unfold Core.markF; split <;> rfl
@[simp] theorem da_markD : (k.markD b).da = k.da := by unfold Core.markD; split <;> rfl
@[simp] theorem fOwner_markF : (k.markF b).fOwner = k.fOwner := by unfold Core.markF; split <;> rfl
@[simp] theorem dOwner_markD : (k.markD b).dOwner = k.dOwner := by unfold Core.markD; split <;> rfl

end

/-! ## What a swap leaves -/

section
variable {s : State} {c : CoreId} {b : BankId}

theorem asksNone_lazyF (h : AsksNone s c) : AsksNone (lazyF s c b) c := by
  by_cases howner : (s.core c).fOwner = some b
  · rwa [lazyF_of_owner howner]
  · obtain ⟨q, hq⟩ := core_lazyF_of_not_owner howner
    unfold AsksNone
    rw [hq, need_markF]
    exact h

theorem asksNone_lazyD (h : AsksNone s c) : AsksNone (lazyD s c b) c := by
  by_cases howner : (s.core c).dOwner = some b
  · rwa [lazyD_of_owner howner]
  · obtain ⟨q, hq⟩ := core_lazyD_of_not_owner howner
    unfold AsksNone
    rw [hq, need_markD]
    exact h

/-- The swap of the F set changes no general register. -/
theorem g_lazyF (d : BankId) (r : Reg) : (lazyF s c b).g c d r = s.g c d r := by
  by_cases howner : (s.core c).fOwner = some b
  · rw [lazyF_of_owner howner]
  · obtain ⟨q, hq⟩ := core_lazyF_of_not_owner howner
    unfold State.g
    rw [hq]
    exact SameButCtx.readG (sameButCtx_markF _ b) d r

@[simp] theorem regs_lazyF : (lazyF s c b).regs = s.regs := by
  by_cases howner : (s.core c).fOwner = some b
  · rw [lazyF_of_owner howner]
  · rw [lazyF_of_not_owner howner, State.regs_modCore, (sameButL1_lazyRead ..).2.2]
    exact regs_lazySaved ..

@[simp] theorem regs_lazyD : (lazyD s c b).regs = s.regs := by
  by_cases howner : (s.core c).dOwner = some b
  · rw [lazyD_of_owner howner]
  · rw [lazyD_of_not_owner howner, State.regs_modCore, (sameButL1_lazyRead ..).2.2]
    exact regs_lazySaved ..

end

end Sys2Proof.Proofs

namespace Sys2Proof.Proofs

open Sys2Proof Sys2Proof.Machine Sys2Proof.Laws

/-! # Floating point (R84, R152 to R156, R191) -/

/-- The bits that SZ names of an F register are all of it, or the low 32. -/
theorem szBits_eq (z : Bool) (w : Word) : szBits z w = if z then w else w &&& 0xFFFF_FFFF := by
  cases z with
  | true => rfl
  | false =>
    refine BitVec.eq_of_toNat_eq ?_
    have hmask : w.toNat &&& 0xFFFF_FFFF = w.toNat % 2 ^ 32 := Nat.and_two_pow_sub_one_eq_mod w.toNat 32
    simp only [szBits, Bool.false_eq_true, if_false, BitVec.toNat_setWidth, BitVec.toNat_and]
    change _ = w.toNat &&& 0xFFFF_FFFF
    rw [hmask]
    omega

/-- FPCTL as a floating-point instruction finds it. -/
def fpctlFound (s : State) (c : CoreId) (k : BankId) (ps : List (Phys × Nat)) : Word :=
  ((lazyF (fetched s c k ps) c k).bank c k).fpctl

/-- The state after the lazy swap in which exceptions have been ORed into FLAGS (R153). -/
def flagged (v : State) (c : CoreId) (k : BankId) (signals : Nat) : State :=
  (lazyF v c k).modBank c k fun w => w.sticky .fpctl (BitVec.ofNat 64 signals)

/-- An operation with this result signals no exception that FPCTL enables (R156). -/
def Unsignalled (s : State) (c : CoreId) (k : BankId) (ps : List (Phys × Nat)) (r : FRes) : Prop :=
  r.signals (fpTe (fpctlFound s c k ps)) &&& fpTe (fpctlFound s c k ps) = 0

/-- A floating-point instruction retires: its flags are raised, then its result is put where it belongs. -/
def fpRetired (s : State) (c : CoreId) (k : BankId) (ps : List (Phys × Nat)) (r : FRes) (put : State → State) : State :=
  retired s c k 4 ps fun v => put (flagged v c k (r.signals (fpTe (fpctlFound s c k ps))))

section
variable {s : State} {c : CoreId} {k : BankId} {ps : List (Phys × Nat)} (hready : Ready s c k 4 ps)
include hready

theorem asksNone_lazyF_fetched : AsksNone (lazyF (fetched s c k ps) c k) c := asksNone_lazyF (asksNone_fetched hready)

/-- R191: a move or sign operation retires with what it puts after the lazy swap. -/
theorem exec_fpMove {i : Instr} {f : BankId → State → State} {put : State → State} (hexec : exec i s = .next (fpMove c f s))
    (hput : f k (lazyF (fetched s c k ps) c k) = put (lazyF (fetched s c k ps) c k))
    (hasks : AsksNone (put (lazyF (fetched s c k ps) c k)) c) :
    exec i s = .next (retired s c k 4 ps fun v => put (lazyF v c k)) :=
  hexec.trans (congrArg _ (baseInstr_done hready hasks (congrArg IRes.done hput)))

variable {i : Instr} {op : BankId → Word → State → FRes} {r : FRes}

/-- R156: an operation that signals no enabled exception writes its result and raises its flags. -/
theorem exec_fpInstr {write : BankId → Nat → State → State} (hexec : exec i s = .next (fpInstr c op write s))
    (hwrite : ∀ v, AsksNone v c → AsksNone (write k r.bits v) c)
    (hop : op k (fpctlFound s c k ps) (lazyF (fetched s c k ps) c k) = r) (hsig : Unsignalled s c k ps r) :
    exec i s = .next (fpRetired s c k ps r (write k r.bits)) := by
  refine hexec.trans (congrArg _ (baseInstr_done hready
    (hwrite _ (asksNone_modBank.2 (asksNone_lazyF_fetched hready))) ?_))
  subst hop
  unfold fpRetire
  exact if_neg (not_not.2 hsig)

theorem exec_fp_toF {d : Reg} (hexec : exec i s = .next (fpInstr c op (writeF c d) s))
    (hop : op k (fpctlFound s c k ps) (lazyF (fetched s c k ps) c k) = r) (hsig : Unsignalled s c k ps r) :
    exec i s = .next (fpRetired s c k ps r fun v => v.setFr c d (BitVec.ofNat 64 r.bits)) :=
  exec_fpInstr hready (write := writeF c d) hexec (fun _ h => asksNone_setFr.2 h) hop hsig

theorem exec_fp_toG {d : Reg} (hexec : exec i s = .next (fpInstr c op (fun b v s => s.setG c b d (BitVec.ofNat 64 v)) s))
    (hop : op k (fpctlFound s c k ps) (lazyF (fetched s c k ps) c k) = r) (hsig : Unsignalled s c k ps r) :
    exec i s = .next (fpRetired s c k ps r fun v => v.setG c k d (BitVec.ofNat 64 r.bits)) :=
  exec_fpInstr hready (write := fun b v s => s.setG c b d (BitVec.ofNat 64 v)) hexec (fun _ h => asksNone_setG.2 h) hop hsig

theorem exec_fp_toCC (hexec : exec i s = .next (fpInstr c op (fun b v s => s.setCC c b v) s))
    (hop : op k (fpctlFound s c k ps) (lazyF (fetched s c k ps) c k) = r) (hsig : Unsignalled s c k ps r) :
    exec i s = .next (fpRetired s c k ps r fun v => v.setCC c k r.bits) :=
  exec_fpInstr hready (write := fun b v s => s.setCC c b v) hexec (fun _ h => asksNone_setCC.2 h) hop hsig

end

/-- Settles O8: what each operation of the F set writes where it signals no enabled exception, and what the moves write. -/
theorem floatResults : Obligations.FloatResults := by
  refine ⟨?arithmetic, ?moves⟩
  case arithmetic =>
    intro s c k ps z d a b e hready u ctl fm rm ftz x y runs toF toG f g
    have hga : u.g c k a = s.g c k a := (g_lazyF k a).trans (g_fetched s c k ps a)
    exact ⟨fun h => exec_fp_toF hready (exec_fadd ..) rfl h, fun h => exec_fp_toF hready (exec_fsub ..) rfl h,
      fun h => exec_fp_toF hready (exec_fmul ..) rfl h, fun h => exec_fp_toF hready (exec_fdiv ..) rfl h,
      fun h => exec_fp_toF hready (exec_fma ..) rfl h, fun h => exec_fp_toF hready (exec_fsqrt ..) rfl h,
      fun h => exec_fp_toF hready (exec_fcvt ..) rfl h, fun h => exec_fp_toG hready (exec_fcvti ..) rfl h,
      fun h => exec_fp_toG hready (exec_fcvtiz ..) rfl h,
      fun h => exec_fp_toF hready (exec_fcvtf ..) (congrArg (fun w : Word => fm.ofInt64 rm w.toInt) hga) h,
      fun h => exec_fp_toCC hready (exec_fcmpq ..) rfl h, fun h => exec_fp_toCC hready (exec_fcmps ..) rfl h⟩
  case moves =>
    intro s c k ps z d a hready u low sign runs
    have hlow (w : Word) : szBits z w = low w := szBits_eq z w
    have hasks := asksNone_lazyF_fetched hready
    refine ⟨?fmvfg, ?fmvgf, ?fneg, ?fabs⟩
    case fmvfg =>
      exact exec_fpMove hready (put := fun v => v.setG c k d (low (u.f c a))) (exec_fmvfg ..)
        (congrArg (u.setG c k d) (hlow _)) (asksNone_setG.2 hasks)
    case fmvgf =>
      exact exec_fpMove hready (put := fun v => v.setFr c d (low (u.g c k a))) (exec_fmvgf ..)
        (congrArg (u.setFr c d) (hlow _)) (asksNone_setFr.2 hasks)
    case fneg =>
      exact exec_fpMove hready (put := fun v => v.setFr c d (low (u.f c a) ^^^ sign)) (exec_fneg ..)
        (congrArg (fun w => u.setFr c d (w ^^^ sign)) (hlow _)) (asksNone_setFr.2 hasks)
    case fabs =>
      exact exec_fpMove hready (put := fun v => v.setFr c d (low (u.f c a) &&& ~~~sign)) (exec_fabs ..)
        (congrArg (fun w => u.setFr c d (w &&& ~~~sign)) (hlow _)) (asksNone_setFr.2 hasks)

end Sys2Proof.Proofs

namespace Sys2Proof.Proofs

open Sys2Proof Sys2Proof.Machine Sys2Proof.Laws

/-! # Instructions of several accesses (R103, R105, R106)

## Interruptible instructions -/

theorem g_markParts (s : State) (c : CoreId) (b : BankId) (ps : List (Phys × Nat)) (r : Reg) :
    (markParts s c ps).g c b r = s.g c b r := by
  obtain ⟨T, h⟩ := markParts_eq s c ps
  unfold State.g
  rw [h, State.core_modCore_self]
  rfl

theorem bank_markParts (s : State) (c : CoreId) (b : BankId) (ps : List (Phys × Nat)) :
    (markParts s c ps).bank c b = s.bank c b := by
  obtain ⟨T, h⟩ := markParts_eq s c ps
  unfold State.bank
  rw [h, State.core_modCore_self]
  rfl

section
variable {s v : State} {c : CoreId} {b : BankId} {ps : List (Phys × Nat)} {body : BankId → State → IRes}
  (hready : Ready s c b 4 ps) (hv : AsksNone v c)
include hready hv

theorem runInstr_intr_done (hbody : body b (markParts s c ps) = .done v) :
    runInstr c 4 (fun _ => true) false true body s = ended v c b 4 := by
  rw [runInstr_ready hready rfl Bool.noConfusion]
  exact (congrArg _ hbody).trans (settleInstr_done hv)

theorem runInstr_intr_jump {t : Word} (hbody : body b (markParts s c ps) = .jump v t) :
    runInstr c 4 (fun _ => true) false true body s = jumped v c b t := by
  rw [runInstr_ready hready rfl Bool.noConfusion]
  exact (congrArg _ hbody).trans (settleInstr_jump hv)

end

theorem startPos_of_not_part {x : Bank} (h : x.part = false) : startPos x = 0 := if_neg (by rw [h]; nofun)

theorem wraps_eq_false {a n : Nat} (h : a + n ≤ 2 ^ 64) : wraps a n = false := by
  unfold wraps
  rw [decide_eq_false (Nat.not_lt.2 h), Bool.and_false]

/-- A checked part keeps the address that it was checked for (R127). -/
theorem va_of_checkPhys {s : State} {own : TileId} {x : Bank} {k : Kind} {va pa len : Nat} {tlb : Option Nat} {p : Phys}
    (h : checkPhys s own x k va pa len tlb = .ok p) : p.va = va := by
  unfold checkPhys at h
  split at h
  · cases h
  · split at h
    · cases h
    · split_ifs at h
      cases h
      rfl

theorem va_of_checkPart {s : State} {c : CoreId} {b : BankId} {k : Kind} {va len : Nat} {p : Phys}
    (h : checkPart s c b k va len = .ok p) : p.va = va := by
  unfold checkPart at h
  dsimp only at h
  split at h
  · split at h
    · cases h
    · split at h
      · cases h
      · split at h
        · cases h
        · split_ifs at h
          exact va_of_checkPhys h
      · cases h
  · split at h
    · cases h
    · exact va_of_checkPhys h

/-! ## STM and LDM -/

/-- The checked 4 KiB block of an operand whose checked part is `p`. -/
def blockOf (p : Phys) (base : Nat) : Phys := { p with pa := p.pa - base % 4096, va := p.va - base % 4096 }

/-- One position of STM or LDM within a checked block. -/
def multiMove (c : CoreId) (b : BankId) (a : Reg) (base : Nat) (st : Bool) (block : Phys) (v : State) (i : Nat) : State :=
  let here := block.shift ((base + 8 * i) % 4096)
  let w := markUse v c block.tlb
  if st then append8 w c b here (w.g c b (regOf (a.val + i)))
  else (load8 w c here).2.setG c b (regOf (a.val + i)) (load8 w c here).1

/-- How STM or LDM accesses its operand. -/
def multiKind (st : Bool) : Kind := if st then .write else .read

section
variable {base n : Nat} (hblock : base % 4096 + 8 * n ≤ 4096)
include hblock

/-- The positions of an operand within one block share its first as the start of their part. -/
theorem partStart_block {i : Nat} (hi : i < n) : partStart base n 0 i = 0 := by
  obtain ⟨m, rfl⟩ := Nat.exists_eq_succ_of_ne_zero (Nat.ne_zero_of_lt hi)
  have hsame : base / 4096 = (base + 8 * i) / 4096 := by omega
  unfold partStart
  rw [List.drop_zero, List.range_succ_eq_map]
  simp [hsame]

variable (hend : base + 8 * n ≤ 2 ^ 64) {c : CoreId} {b : BankId} {st : Bool} {p : Phys} {v : State} {pages : List (Nat × Phys)}
  (hpages : pages.lookup (base / 4096) = some (blockOf p base) ∨
    pages = [] ∧ checkPart v c b (multiKind st) base (8 * n) = .ok p)
include hend hpages

/-- Every position lies in the block that the first one has had checked. -/
theorem multiPart_block {i : Nat} (hi : i < n) : multiPart v c b (multiKind st) base n 0 i pages = .ok (blockOf p base) := by
  have hsame : (base + 8 * i) / 4096 = base / 4096 := by omega
  unfold multiPart
  rw [hsame]
  rcases hpages with hfound | ⟨rfl, hcheck⟩
  · rw [hfound]
  · have hva : base % 2 ^ 64 = base := Nat.mod_eq_of_lt (by omega)
    have hlen : partLen base (base + 8 * n) = 8 * n := by
      unfold partLen
      omega
    simp only [List.lookup, partStart_block hblock hi, Nat.mul_zero, Nat.add_zero, Nat.sub_zero, hva, hlen, hcheck]
    unfold blockOf
    rw [va_of_checkPart hcheck]
    rfl

/-- Without a caller's stop, positions within one block are all taken, in the order given. -/
theorem multiLoop_block (a : Reg) (last : Option Nat) (l : List Nat) (hl : ∀ i ∈ l, i < n) (moved : Bool) :
    multiLoop c b a base n 0 st last l moved none pages v =
      .done ((l.foldl (multiMove c b a base st (blockOf p base)) v).noProgress c b) := by
  induction l generalizing v pages moved with
  | nil => rfl
  | cons i l ih =>
    have hi : i < n := hl i List.mem_cons_self
    have hpart := multiPart_block hblock hend hpages hi
    have hva : (base + 8 * i) % 2 ^ 64 = base + 8 * i := Nat.mod_eq_of_lt (by omega)
    have hsame : (base + 8 * i) / 4096 = base / 4096 := by omega
    rw [multiLoop, if_neg nofun]
    dsimp only
    rw [show (if st = true then Kind.write else Kind.read) = multiKind st from rfl, hpart]
    dsimp only
    rw [hva, hsame, List.foldl_cons]
    exact ih (.inl (by simp)) (fun j hj => hl j (List.mem_cons_of_mem i hj)) true

end

theorem lt_of_mem_multiOrder {n : Nat} {last : Option Nat} (hlast : ∀ p, last = some p → p < n) :
    ∀ i ∈ multiOrder n 0 last, i < n := by
  intro i hi
  unfold multiOrder at hi
  cases last with
  | none => exact List.mem_range.1 (by simpa using hi)
  | some p =>
    rcases List.mem_append.1 hi with h | h
    · exact List.mem_range.1 (by simpa using (List.mem_filter.1 h).1)
    · rw [List.mem_singleton.1 h]
      exact hlast p rfl

/-- R105: the order in which LDM takes its positions, with its base at position `xp`. -/
theorem multiOrder_load (n xp : Nat) : multiOrder n 0 (if xp < n then some xp else none) =
    ((List.range n).filter fun i => i != xp) ++ (if xp < n then [xp] else []) := by
  unfold multiOrder
  by_cases h : xp < n
  · simp [h]
  · have hall : ∀ i ∈ List.range n, (i != xp) = true := fun i hi => by
      have := List.mem_range.1 hi
      simp; omega
    simp [h, List.filter_eq_self.2 hall]

section
variable {s : State} {c : CoreId} {b : BankId} {a bb x : Reg} {base n : Nat} {p : Phys} {st : Bool} {last : Option Nat}
  (hpart : (s.bank c b).part = false) (hbase : (s.g c b x).toNat = base) (hn : (bb.val + 32 - a.val) % 32 + 1 = n)
  (hlast : (if !st ∧ (x.val + 32 - a.val) % 32 < n then some ((x.val + 32 - a.val) % 32) else none) = last)
  (halign : base % 8 = 0) (hend : base + 8 * n ≤ 2 ^ 64) (hblock : base % 4096 + 8 * n ≤ 4096)
  (hcheck : checkPart s c b (multiKind st) base (8 * n) = .ok p)
include hpart hbase hn hlast halign hend hblock hcheck

/-- STM and LDM from their first position over an operand in one block. -/
theorem multiBody_block : multiBody c a bb x st none b s =
    .done (((multiOrder n 0 last).foldl (multiMove c b a base st (blockOf p base)) s).noProgress c b) := by
  have hfirst : base % 2 ^ 64 = base := Nat.mod_eq_of_lt (hbase ▸ (s.g c b x).isLt)
  have hbound : ∀ q, last = some q → q < n := by
    rintro q rfl
    split at hlast
    case isTrue h => cases hlast; exact h.2
    case isFalse => cases hlast
  unfold multiBody
  simp only [hbase, hn, startPos_of_not_part hpart, Nat.mul_zero, Nat.add_zero, Nat.sub_zero, hfirst, halign,
    wraps_eq_false hend, hlast, ne_eq, not_true_eq_false, if_false, Bool.false_eq_true]
  exact multiLoop_block hblock hend (.inr ⟨rfl, hcheck⟩) a last _ (lt_of_mem_multiOrder hbound) _

end

/-- Settles O9: the positions that STM and LDM take over an operand within one block, and the order in which they take them. -/
theorem multiRegister : Obligations.MultiRegister := by
  intro s c k ps a b x p hready u base n reg xp block at_ ret hpart halign hend hblock
  have hbase : (u.g c k x).toNat = base := congrArg BitVec.toNat (g_markParts ..)
  have hpart : (u.bank c k).part = false := (congrArg Bank.part (bank_markParts ..)).trans hpart
  refine ⟨fun hcheck hasks => ?stm, fun hcheck hasks => ?ldm⟩
  case stm =>
    exact congrArg Host.Outcome.next (runInstr_intr_done hready hasks
      (multiBody_block (st := true) (last := none) hpart hbase rfl rfl halign hend hblock hcheck))
  case ldm =>
    have hlast : (if !false ∧ xp < n then some xp else none) = if xp < n then some xp else none := by simp
    have hbody := multiBody_block (st := false) hpart hbase rfl hlast halign hend hblock hcheck
    rw [multiOrder_load] at hbody
    exact congrArg Host.Outcome.next (runInstr_intr_done hready hasks hbody)

end Sys2Proof.Proofs

namespace Sys2Proof.Proofs

open Sys2Proof Sys2Proof.Machine Sys2Proof.Laws

/-! # SVLK and RSLK (R106) -/

/-- Without a caller's stop every position is taken, then the last one. -/
theorem linkLoop_none (c : CoreId) (b : BankId) (pos : Nat → State → Bool × State) (last : State → IRes) (l : List Nat)
    (s : State) : linkLoop c b pos last l none s = last (l.foldl (fun v n => (pos n v).2) s) := by
  induction l generalizing s with
  | nil => rfl
  | cons n l ih =>
    rw [linkLoop, if_neg nofun]
    dsimp only
    rw [Option.map_none, ite_self, ih, List.foldl_cons]

/-- SVLK and RSLK from their first position, with their area checked. -/
theorem linkBody_first {s : State} {c : CoreId} {b : BankId} {bb : Reg} {kind : Kind} {qs : List (Phys × Nat)}
    (pos : List (Phys × Nat) → Nat → State → Bool × State) (last : List (Phys × Nat) → State → IRes)
    (hpart : (s.bank c b).part = false) (halign : (s.g c b bb).toNat % 64 = 0) (hend : (s.g c b bb).toNat + 512 ≤ 2 ^ 64)
    (hcheck : checkRange s c b kind (s.g c b bb).toNat 512 = .ok qs) :
    linkBody c bb kind none pos last b s =
      last qs ((List.range 64).foldl (fun v n => (pos qs n v).2) (markParts s c qs)) := by
  unfold linkBody
  rw [if_neg (not_not_intro halign), wraps_eq_false hend, if_neg Bool.false_ne_true, hcheck, startPos_of_not_part hpart]
  exact linkLoop_none ..

/-- The base or the mask register as RSLK loads it after all other positions. -/
def linkLate (c : CoreId) (b : BankId) (mask : Nat) (qs : List (Phys × Nat)) (r : Reg) (v : State) : State :=
  match physAt qs (8 * r.val) with
  | some (q, _) => if r.val ≠ 0 ∧ mask.testBit r.val = true then
      (readPart v c q 8).2.setG c b r (BitVec.ofNat 64 (leNat (readPart v c q 8).1)) else v
  | none => v

/-- `execRslk` asks for the mask bit before it looks for the checked part. -/
theorem linkLate_eq (c : CoreId) (b : BankId) (mask : Nat) (qs : List (Phys × Nat)) (r : Reg) (v : State) :
    (if r.val ≠ 0 ∧ bitAt mask r.val then
      match physAt qs (8 * r.val) with
      | some (p, _) => (load8 v c p).2.setG c b r (load8 v c p).1
      | none => v
    else v) = linkLate c b mask qs r v := by
  unfold linkLate
  cases physAt qs (8 * r.val) with
  | none => exact ite_self v
  | some q => rfl

section
variable {s : State} {c : CoreId} {k : BankId} {ps qs : List (Phys × Nat)} {b m : Reg} {p : Phys} {l : Nat}
  (hready : Ready s c k 4 ps) (hpart : (s.bank c k).part = false) (halign : (s.g c k b).toNat % 64 = 0)
  (hend : (s.g c k b).toNat + 512 ≤ 2 ^ 64) (hp : physAt qs 0 = some (p, l))
include hready hpart halign hend hp

theorem exec_svlk_first {imm : BitVec 16} {v w : State}
    (hcheck : checkRange (markParts s c ps) c k .write (s.g c k b).toNat 512 = .ok qs)
    (hv : (List.range 64).foldl (fun v n => (svlkPos c k (s.g c k m).toNat qs n v).2) (markParts (markParts s c ps) c qs) = v)
    (hw : (append8 v c k p ((s.bank c k).pc + 4)).noProgress c k = w) (hasks : AsksNone w c) :
    exec (.svlk c b m imm none) s = .next (jumped w c k ((s.bank c k).pc + imm.signExtend 64 <<< 2)) := by
  rw [exec_svlk, execSvlk]
  refine congrArg Host.Outcome.next (runInstr_intr_jump hready hasks ?_)
  rw [← g_markParts s c k ps b] at halign hend hcheck
  dsimp only
  rw [linkBody_first _ _ ((congrArg Bank.part (bank_markParts ..)).trans hpart) halign hend hcheck, hp]
  dsimp only
  rw [g_markParts s c k ps m, bank_markParts, hv, hw]

theorem exec_rslk_first {v w : State}
    (hcheck : checkRange (markParts s c ps) c k .read (s.g c k b).toNat 512 = .ok qs)
    (hv : (List.range 64).foldl (fun v n => (rslkPos c k b m (s.g c k m).toNat qs n v).2) (markParts (markParts s c ps) c qs) = v)
    (hw : (linkLate c k (s.g c k m).toNat qs b (linkLate c k (s.g c k m).toNat qs m (load8 v c p).2)).noProgress c k = w)
    (hasks : AsksNone w c) :
    exec (.rslk c b m none) s = .next (jumped w c k (load8 v c p).1) := by
  rw [exec_rslk, execRslk]
  refine congrArg Host.Outcome.next (runInstr_intr_jump hready hasks ?_)
  rw [← g_markParts s c k ps b] at halign hend hcheck
  dsimp only
  rw [linkBody_first _ _ ((congrArg Bank.part (bank_markParts ..)).trans hpart) halign hend hcheck, hp]
  rw [g_markParts s c k ps m, hv, ← hw]
  refine congrArg (fun u : State => IRes.jump (u.noProgress c k) (load8 v c p).1) ?_
  exact (linkLate_eq ..).trans (congrArg (linkLate c k _ qs b) (linkLate_eq ..))

end

/-! ## One position -/

section
variable (s : State) (c : CoreId) (k : BankId) (b m : Reg) (mask : Nat) (qs : List (Phys × Nat)) {n : Nat}

theorem svlkPos_gen (hn : n < 32) : svlkPos c k mask qs n s =
    if n ≠ 0 ∧ mask.testBit n then
      match physAt qs (8 * n) with
      | some (p, _) => (true, append8 s c k p (s.g c k (regOf n)))
      | none => (false, s)
    else (false, s) := if_pos hn

theorem rslkPos_gen (hn : n < 32) : rslkPos c k b m mask qs n s =
    if n ≠ 0 ∧ mask.testBit n ∧ n ≠ b.val ∧ n ≠ m.val then
      match physAt qs (8 * n) with
      | some (p, _) => (true, (load8 s c p).2.setG c k (regOf n) (load8 s c p).1)
      | none => (false, s)
    else (false, s) := if_pos hn

theorem svlkPos_float : svlkPos c k mask qs (32 + n) s =
    if mask.testBit (32 + n) then
      match physAt qs (0x100 + 8 * n) with
      | some (p, _) => (true, append8 (lazyF s c k) c k p ((lazyF s c k).f c (regOf n)))
      | none => (false, lazyF s c k)
    else (false, s) := by
  unfold svlkPos
  rw [if_neg (by omega), Nat.add_sub_cancel_left]
  rfl

theorem rslkPos_float : rslkPos c k b m mask qs (32 + n) s =
    if mask.testBit (32 + n) then
      match physAt qs (0x100 + 8 * n) with
      | some (p, _) => (true, (load8 (lazyF s c k) c p).2.setFr c (regOf n) (load8 (lazyF s c k) c p).1)
      | none => (false, lazyF s c k)
    else (false, s) := by
  unfold rslkPos
  rw [if_neg (by omega), Nat.add_sub_cancel_left]
  rfl

end

/-- Settles O10: every position of SVLK and RSLK in order, and what each one moves. -/
theorem saveLink : Obligations.SaveLink := by
  refine ⟨fun s c k ps qs b m imm p l hready => ?whole, fun s c k b m mask n qs p l hn => ?position⟩
  case whole =>
    intro u v base mask pc hpart halign hend hp svlk
    refine ⟨fun hcheck hasks => exec_svlk_first hready hpart halign hend hp hcheck rfl rfl hasks, ?rslk⟩
    intro hcheck one w r rslk hasks
    exact exec_rslk_first hready hpart halign hend hp hcheck rfl rfl hasks
  case position =>
    intro r ok okF
    rw [svlkPos_gen s c k mask qs hn, rslkPos_gen s c k b m mask qs hn, svlkPos_float, rslkPos_float]
    refine ⟨fun hbit => ?clear, fun hzero => ?zero, fun hbit hne hok => ?store, fun hbit hne hok hnb hnm => ?load,
      fun hbit => ?clearF, fun hbit hok => ?moveF⟩
    case clear => simp [hbit]
    case zero => simp [hzero]
    case store =>
      rw [if_pos ⟨hne, hbit⟩, hok]
      rfl
    case load =>
      rw [if_pos ⟨hne, hbit, hnb, hnm⟩, hok]
      rfl
    case clearF => simp [hbit]
    case moveF =>
      rw [if_pos hbit, if_pos hbit, hok]
      exact ⟨rfl, rfl⟩

end Sys2Proof.Proofs

namespace Sys2Proof.Proofs

open Sys2Proof Sys2Proof.Machine Sys2Proof.Laws

/-! # The decimal accumulators and the lazy sets (R84, R135, R141)

## How a decimal instruction ends (R139, R140) -/

/-- The state in which a decimal result that does not fit is reported: CC 3 and DOVF. -/
def decOverflow (w : State) (c : CoreId) (k : BankId) : State := (w.setCC c k 3).modBank c k fun x => x.sticky .dctl 1

/-- The state in which a decimal result that fits is reported: CC gives its sign. -/
def decFits (w : State) (c : CoreId) (k : BankId) (r : Dec) : State :=
  w.setCC c k (if r.mag = 0 then 0 else if r.neg then 1 else 2)

theorem ccDec_false (r : Dec) : ccDec false r = if r.mag = 0 then 0 else if r.neg then 1 else 2 := by
  simp [ccDec, ccDecimal]

section
variable {c : CoreId} {k : BankId} {w : State} {r : Dec} {limit : Nat}

theorem decEnd_fits (h : r.mag < limit) :
    decEnd c k (ccDec (decide (limit ≤ r.mag)) r) (decide (limit ≤ r.mag)) w = .done (decFits w c k r) := by
  rw [decide_eq_false (Nat.not_le.2 h), ccDec_false]
  rfl

theorem decEnd_overflow (h : limit ≤ r.mag) :
    decEnd c k (ccDec (decide (limit ≤ r.mag)) r) (decide (limit ≤ r.mag)) w =
      if dDot ((decOverflow w c k).bank c k).dctl then .trap (decOverflow w c k) 0x22 0 else .done (decOverflow w c k) := by
  rw [decide_eq_true h, decEnd, if_pos rfl]
  rfl

end

theorem ccInt_eq (x y : Int) : ccInt x y = if x = y then 0 else if x < y then 1 else 2 := by
  simp [ccInt, ccCompare]

/-! ## Instructions of 8 bytes -/

/-- Instruction `i` of 8 bytes does in `s` what its body answers for the fetched state. -/
def LongBody (s : State) (c : CoreId) (k : BankId) (ps : List (Phys × Nat)) (i : Instr) (r : IRes) : Prop :=
  exec i s = .next (settleInstr c k 8 (s.bank c k).pc (fetched s c k ps) r)

section
variable {s : State} {c : CoreId} {k : BankId} {ps : List (Phys × Nat)}

theorem longBody_of_exec {legal : Bool} {body : BankId → State → IRes} {i : Instr} {r : IRes} (hready : Ready s c k 8 ps)
    (hlegal : legal = true) (hexec : exec i s = .next (longInstr c legal body s)) (hbody : body k (fetched s c k ps) = r) :
    LongBody s c k ps i r :=
  hbody ▸ hexec.trans (congrArg _ (runInstr_ready hready hlegal Bool.noConfusion))

variable {i : Instr} {w : State}

theorem LongBody.done (h : LongBody s c k ps i (.done w)) (hw : AsksNone w c) : exec i s = .next (ended w c k 8) :=
  h.trans (congrArg _ (settleInstr_done hw))

/-- A cause that leaves EPC at the instruction. -/
theorem LongBody.trap {cause : Nat} {bad : Word} (h : LongBody s c k ps i (.trap w cause bad)) (hw : AsksNone w c)
    (hcause : epcNext cause = false) : exec i s = .next (takeTrap w c k cause bad (s.bank c k).pc) := by
  refine h.trans (congrArg _ ?_)
  rw [settleInstr_trap hw, hcause]
  rfl

/-- How a decimal instruction with exact result `r` ends: CC by its sign where it fits, else DOVF, which traps where DOT
is set. -/
def DecEnds (s : State) (c : CoreId) (k : BankId) (i : Instr) (limit : Nat) (r : Dec) (w : State) : Prop :=
  (r.mag < limit → AsksNone (decFits w c k r) c → exec i s = .next (ended (decFits w c k r) c k 8)) ∧
  (limit ≤ r.mag → dDot ((decOverflow w c k).bank c k).dctl = false → AsksNone (decOverflow w c k) c →
    exec i s = .next (ended (decOverflow w c k) c k 8)) ∧
  (limit ≤ r.mag → dDot ((decOverflow w c k).bank c k).dctl = true → AsksNone (decOverflow w c k) c →
    exec i s = .next (takeTrap (decOverflow w c k) c k 0x22 0 ((s.bank c k).pc + 8)))

theorem decEnds_of_body {limit : Nat} {r : Dec}
    (h : LongBody s c k ps i (decEnd c k (ccDec (decide (limit ≤ r.mag)) r) (decide (limit ≤ r.mag)) w)) :
    DecEnds s c k i limit r w := by
  refine ⟨fun hfits hasks => ?fits, fun hlimit hdot hasks => ?silent, fun hlimit hdot hasks => ?traps⟩
  case fits =>
    rw [decEnd_fits hfits] at h
    exact h.done hasks
  case silent =>
    rw [decEnd_overflow hlimit, hdot, if_neg Bool.false_ne_true] at h
    exact h.done hasks
  case traps =>
    rw [decEnd_overflow hlimit, hdot, if_pos rfl] at h
    exact h.trans (congrArg _ (settleInstr_trap hasks))

end

/-! ## The accumulators -/

section
variable {s : State} {c : CoreId} {k : BankId} {ps pb : List (Phys × Nat)} (hready : Ready s c k 8 ps)
include hready

theorem asksNone_lazyD_fetched : AsksNone (lazyD (fetched s c k ps) c k) c := asksNone_lazyD (asksNone_fetched hready)

variable {i : Instr} {n : Fin 8} {b : MOp} {useDa : Bool} {f : Dec → Dec → BankId → State → IRes} {x y : Dec} {v : State}
  (hlegal : b.lf.toNat ≤ 31) (hexec : exec i s = .next (daOp c n b useDa f s))
  (hcheck : checkOps (lazyD (fetched s c k ps) c k) c k [dop (lazyD (fetched s c k ps) c k) c k b .src false] = .ok [pb])
  (hread : readDop (lazyD (fetched s c k ps) c k) c (dop (lazyD (fetched s c k ps) c k) c k b .src false) pb = (some y, v))
include hlegal hexec hcheck hread

/-- An operation on an accumulator and memory, with both of its values valid. -/
theorem daOp_value (hx : (if useDa then readDa (lazyD (fetched s c k ps) c k) c n else some { neg := false, mag := 0 }) = some x) :
    LongBody s c k ps i (f x y k v) := by
  refine longBody_of_exec hready (decide_eq_true hlegal) hexec ?_
  dsimp only
  rw [hcheck]
  simp only [List.getD_cons_zero, hread, hx]

/-- R135: an accumulator that is invalid as a source raises DDATA with BADADDR zero. -/
theorem daOp_invalid (huse : useDa = true) (hx : readDa (lazyD (fetched s c k ps) c k) c n = none) :
    LongBody s c k ps i (.trap v 0x20 0) := by
  refine longBody_of_exec hready (decide_eq_true hlegal) hexec ?_
  dsimp only
  rw [hcheck]
  simp only [List.getD_cons_zero, hread, hx, huse, if_true]

end

section
variable {s : State} {c : CoreId} {k : BankId} {ps pb : List (Phys × Nat)} (hready : Ready s c k 8 ps)
  {n : Fin 8} {b : MOp} {x y : Dec} {v : State} (hlegal : b.lf.toNat ≤ 31)
  (hcheck : checkOps (lazyD (fetched s c k ps) c k) c k [dop (lazyD (fetched s c k ps) c k) c k b .src false] = .ok [pb])
  (hread : readDop (lazyD (fetched s c k ps) c k) c (dop (lazyD (fetched s c k ps) c k) c k b .src false) pb = (some y, v))
include hready hlegal hcheck hread

theorem dlda_value : LongBody s c k ps (.dlda c n b) (daEnd c k n y v) :=
  daOp_value (f := fun _ y k s => daEnd c k n y s) hready hlegal (exec_dlda ..) hcheck hread rfl

variable (hx : readDa (lazyD (fetched s c k ps) c k) c n = some x)
include hx

theorem dada_value : LongBody s c k ps (.dada c n b) (daEnd c k n (.ofInt (x.val + y.val)) v) :=
  daOp_value (f := fun x y k s => daEnd c k n (.ofInt (x.val + y.val)) s) hready hlegal (exec_dada ..) hcheck hread hx

theorem dsba_value : LongBody s c k ps (.dsba c n b) (daEnd c k n (.ofInt (x.val - y.val)) v) :=
  daOp_value (f := fun x y k s => daEnd c k n (.ofInt (x.val - y.val)) s) hready hlegal (exec_dsba ..) hcheck hread hx

theorem dmla_value : LongBody s c k ps (.dmla c n b) (daEnd c k n (.ofInt (x.val * y.val)) v) :=
  daOp_value (f := fun x y k s => daEnd c k n (.ofInt (x.val * y.val)) s) hready hlegal (exec_dmla ..) hcheck hread hx

theorem dcpa_value : LongBody s c k ps (.dcpa c n b) (.done (v.setCC c k (ccInt x.val y.val))) :=
  daOp_value (f := fun x y k s => .done (s.setCC c k (ccInt x.val y.val))) hready hlegal (exec_dcpa ..) hcheck hread hx

end

section
variable {s : State} {c : CoreId} {k : BankId} {ps pb : List (Phys × Nat)} (hready : Ready s c k 8 ps)
  {n m : Fin 8} {b : MOp} {x z : Dec}
include hready

theorem dadr_value (hx : readDa (lazyD (fetched s c k ps) c k) c n = some x)
    (hz : readDa (lazyD (fetched s c k ps) c k) c m = some z) :
    LongBody s c k ps (.dadr c n m) (daEnd c k n (.ofInt (x.val + z.val)) (lazyD (fetched s c k ps) c k)) := by
  refine longBody_of_exec hready rfl (exec_dadr ..) ?_
  dsimp only
  rw [hx, hz]

theorem dadr_invalid (h : readDa (lazyD (fetched s c k ps) c k) c n = none ∨ readDa (lazyD (fetched s c k ps) c k) c m = none) :
    LongBody s c k ps (.dadr c n m) (.trap (lazyD (fetched s c k ps) c k) 0x20 0) := by
  refine longBody_of_exec hready rfl (exec_dadr ..) ?_
  dsimp only
  rcases h with h | h
  · rw [h]
  · rw [h]
    cases readDa (lazyD (fetched s c k ps) c k) c n <;> rfl

variable (hlegal : b.lf.toNat ≤ 31)
  (hcheck : checkOps (lazyD (fetched s c k ps) c k) c k [dop (lazyD (fetched s c k ps) c k) c k b .dst false] = .ok [pb])
include hlegal hcheck

theorem dsta_value (hx : readDa (lazyD (fetched s c k ps) c k) c n = some x) :
    LongBody s c k ps (.dsta c b n) (packEnd c k (dop (lazyD (fetched s c k ps) c k) c k b .dst false) pb false x
      (lazyD (fetched s c k ps) c k)) := by
  refine longBody_of_exec hready (decide_eq_true hlegal) (exec_dsta ..) ?_
  dsimp only
  rw [hcheck, hx]
  rfl

theorem dsta_invalid (hx : readDa (lazyD (fetched s c k ps) c k) c n = none) :
    LongBody s c k ps (.dsta c b n) (.trap (lazyD (fetched s c k ps) c k) 0x20 0) := by
  refine longBody_of_exec hready (decide_eq_true hlegal) (exec_dsta ..) ?_
  dsimp only
  rw [hcheck, hx]

end

/-! ## What a swap saves and loads -/

section
variable {s : State} {c : CoreId} {b o : BankId}

theorem leBytes_getElem_fOf {bs : List Byte} (h : bs.length = 256) (i : Fin 32) :
    leBytes 8 ((fOf bs)[i]).toNat = (bs.drop (8 * i.val)).take 8 := by
  have hfield : (fOf bs)[i] = BitVec.ofNat 64 (fld bs (8 * i.val) 8) := by simp [fOf]
  rw [hfield, leBytes_fld (by omega) rfl]

theorem leBytes_getElem_daOf {bs : List Byte} (h : bs.length = 256) (i : Fin 8) :
    leBytes 32 ((daOf bs)[i]).toNat = (bs.drop (32 * i.val)).take 32 := by
  have hfield : (daOf bs)[i] = BitVec.ofNat 256 (fld bs (32 * i.val) 32) := by simp [daOf]
  rw [hfield, leBytes_fld (by omega) rfl]

theorem take_drop_fBytes (k : Machine.Core) (i : Fin 32) : ((fBytes k).drop (8 * i.val)).take 8 = leBytes 8 (k.f[i]).toNat := by
  unfold fBytes
  rw [take_drop_flatMap_leBytes k.f.toList (by simp), Vector.getElem_toList]
  rfl

theorem take_drop_daBytes (k : Machine.Core) (i : Fin 8) :
    ((daBytes k).drop (32 * i.val)).take 32 = leBytes 32 (k.da[i]).toNat := by
  unfold daBytes
  rw [take_drop_flatMap_leBytes k.da.toList (by simp), Vector.getElem_toList]
  rfl

theorem coreRead_modCore {s : State} {c : CoreId} {f : Machine.Core → Machine.Core} (h : (f (s.core c)).sq = (s.core c).sq)
    (a n : Nat) : coreRead (s.modCore c f) c a n = coreRead s c a n :=
  coreRead_congr (s := s) (t := s.modCore c f) (by rw [State.core_modCore_self, h]) rfl a n

/-- After a swap the core sees the memory that the save of the F set has left. -/
theorem coreRead_lazyF (h : (s.core c).fOwner ≠ some b) (a n : Nat) :
    coreRead (lazyF s c b) c a n = coreRead (fSaved s c) c a n := by
  have hsame := sameButL1_lazyRead (fSaved s c) c ((s.core c).usedF b) (bankArea c b + 0x300)
  rw [lazyF_of_not_owner h]
  rw [coreRead_modCore (by rw [sq_markF])]
  exact coreRead_congr (congrArg Core.sq (State.core_congr hsame.1 c)) hsame.2.1 a n

theorem coreRead_lazyD (h : (s.core c).dOwner ≠ some b) (a n : Nat) :
    coreRead (lazyD s c b) c a n = coreRead (dSaved s c) c a n := by
  have hsame := sameButL1_lazyRead (dSaved s c) c ((s.core c).usedD b) (bankArea c b + 0x400)
  rw [lazyD_of_not_owner h]
  rw [coreRead_modCore (by rw [sq_markD])]
  exact coreRead_congr (congrArg Core.sq (State.core_congr hsame.1 c)) hsame.2.1 a n

section
variable (howner : (s.core c).fOwner = some o) (hne : o ≠ b) (hbound : (s.core c).bound o = true)
include howner hne hbound

theorem saved_lazyF (i : Fin 32) :
    coreRead (lazyF s c b) c (bankArea c o + 0x300 + 8 * i.val) 8 = leBytes 8 ((s.core c).f[i]).toNat := by
  rw [coreRead_lazyF (by rw [howner]; exact fun h => hne (Option.some.inj h)), fSaved, howner, lazySaved_bound s c hbound,
    coreRead_hwWrite _ _ _ _ (by rw [length_fBytes]; omega), take_drop_fBytes]

end

section
variable (howner : (s.core c).dOwner = some o) (hne : o ≠ b) (hbound : (s.core c).bound o = true)
include howner hne hbound

theorem saved_lazyD (i : Fin 8) :
    coreRead (lazyD s c b) c (bankArea c o + 0x400 + 32 * i.val) 32 = leBytes 32 ((s.core c).da[i]).toNat := by
  rw [coreRead_lazyD (by rw [howner]; exact fun h => hne (Option.some.inj h)), dSaved, howner, lazySaved_bound s c hbound,
    coreRead_hwWrite _ _ _ _ (by rw [length_daBytes]; omega), take_drop_daBytes]

end

theorem f_lazyF (h : (s.core c).fOwner ≠ some b) : ((lazyF s c b).core c).f = fFound s c b := by
  obtain ⟨q, hq⟩ := core_lazyF_of_not_owner h
  rw [hq, f_markF]

theorem da_lazyD (h : (s.core c).dOwner ≠ some b) : ((lazyD s c b).core c).da = dFound s c b := by
  obtain ⟨q, hq⟩ := core_lazyD_of_not_owner h
  rw [hq, da_markD]

theorem fOwner_lazyF : ((lazyF s c b).core c).fOwner = some b := by
  by_cases h : (s.core c).fOwner = some b
  · rwa [lazyF_of_owner h]
  · obtain ⟨q, hq⟩ := core_lazyF_of_not_owner h
    rw [hq, fOwner_markF]

theorem dOwner_lazyD : ((lazyD s c b).core c).dOwner = some b := by
  by_cases h : (s.core c).dOwner = some b
  · rwa [lazyD_of_owner h]
  · obtain ⟨q, hq⟩ := core_lazyD_of_not_owner h
    rw [hq, dOwner_markD]

/-- R84: the set of a context that has used it, found where no owner's set is saved first. -/
theorem loaded_lazyF (h : (s.core c).fOwner ≠ some b) (hused : (s.core c).usedF b = true)
    (hunsaved : ∀ o, (s.core c).fOwner = some o → (s.core c).bound o = false) (i : Fin 32) :
    leBytes 8 (((lazyF s c b).core c).f[i]).toNat = coreRead s c (bankArea c b + 0x300 + 8 * i.val) 8 := by
  have hfound : fFound s c b = fOf (coreRead s c (bankArea c b + 0x300) 256) := by
    rw [fFound, if_pos hused, fSaved, lazySaved_unbound s c hunsaved]
  rw [f_lazyF h, hfound, leBytes_getElem_fOf (length_coreRead ..), take_drop_coreRead _ _ _ (by omega)]

theorem loaded_lazyD (h : (s.core c).dOwner ≠ some b) (hused : (s.core c).usedD b = true)
    (hunsaved : ∀ o, (s.core c).dOwner = some o → (s.core c).bound o = false) (i : Fin 8) :
    leBytes 32 (((lazyD s c b).core c).da[i]).toNat = coreRead s c (bankArea c b + 0x400 + 32 * i.val) 32 := by
  have hfound : dFound s c b = daOf (coreRead s c (bankArea c b + 0x400) 256) := by
    rw [dFound, if_pos hused, dSaved, lazySaved_unbound s c hunsaved]
  rw [da_lazyD h, hfound, leBytes_getElem_daOf (length_coreRead ..), take_drop_coreRead _ _ _ (by omega)]

/-- An owner that may still be `b` itself is another's where `b` does not own the set. -/
theorem unbound_of_not_owner {owner : Option BankId} {p : BankId → Bool} (h : owner ≠ some b)
    (hor : ∀ o, owner = some o → o = b ∨ p o = false) (o : BankId) (ho : owner = some o) : p o = false :=
  (hor o ho).resolve_left fun heq => h (heq ▸ ho)

end

/-- Settles O23: how each instruction of the accumulators ends, and what the swaps of the lazy sets save and load. -/
theorem accumulators : Obligations.Accumulators := by
  refine ⟨?instructions, ?sets⟩
  case instructions =>
    intro s c k ps pb n m b x z y v hready hlegal u opnd pc ret ends acc
    have hu : AsksNone u c := asksNone_lazyD_fetched hready
    refine ⟨fun hcheck hread => ⟨?dlda, fun hx => ⟨?dada, ?dsba, ?dmla, ?dcpa⟩,
        fun hx hv => ⟨?dada', ?dsba', ?dmla', ?dcpa'⟩⟩,
      fun hx => (dadr_invalid hready hx).trap hu rfl, fun hx hcheck => (dsta_invalid hready hlegal hcheck hx).trap hu rfl,
      fun hx hz => decEnds_of_body (dadr_value hready hx hz),
      fun hcheck hx => decEnds_of_body (dsta_value hready hlegal hcheck hx)⟩
    case dlda => exact decEnds_of_body (dlda_value hready hlegal hcheck hread)
    case dada => exact decEnds_of_body (dada_value hready hlegal hcheck hread hx)
    case dsba => exact decEnds_of_body (dsba_value hready hlegal hcheck hread hx)
    case dmla => exact decEnds_of_body (dmla_value hready hlegal hcheck hread hx)
    case dcpa =>
      rw [← ccInt_eq]
      exact fun hw => (dcpa_value hready hlegal hcheck hread hx).done hw
    case dada' => exact (daOp_invalid hready hlegal (exec_dada ..) hcheck hread rfl hx).trap hv rfl
    case dsba' => exact (daOp_invalid hready hlegal (exec_dsba ..) hcheck hread rfl hx).trap hv rfl
    case dmla' => exact (daOp_invalid hready hlegal (exec_dmla ..) hcheck hread rfl hx).trap hv rfl
    case dcpa' => exact (daOp_invalid hready hlegal (exec_dcpa ..) hcheck hread rfl hx).trap hv rfl
  case sets =>
    intro s c b
    exact ⟨lazyF_of_owner, lazyD_of_owner, fOwner_lazyF, dOwner_lazyD,
      fun h hused => (f_lazyF h).trans (if_neg (by rw [hused]; nofun)),
      fun h hused => (da_lazyD h).trans (if_neg (by rw [hused]; nofun)),
      fun o howner hne hbound => saved_lazyF howner hne hbound, fun o howner hne hbound => saved_lazyD howner hne hbound,
      fun h hused hor => loaded_lazyF h hused (unbound_of_not_owner h hor),
      fun h hused hor => loaded_lazyD h hused (unbound_of_not_owner h hor), regs_lazyF, regs_lazyD⟩

end Sys2Proof.Proofs

namespace Sys2Proof.Proofs

open Sys2Proof Sys2Proof.Machine Sys2Proof.Laws

/-! # Trap entry (R95, R97, R99)

## Bits of a control word -/

theorem lsb_put (w : Word) (lo n v : Nat) {i : Nat} (h : i < 64) :
    (Bits.put w lo n v).getLsbD i = if lo ≤ i ∧ i < lo + n then v.testBit (i - lo) else w.getLsbD i := by
  unfold Bits.put
  rw [BitVec.getLsbD_ofNat, testBit_putBits, decide_eq_true h, Bool.true_and]
  rfl

section
variable (st : Word) (lvl : Nat)

theorem get_trapStatus_tl : Bits.get (trapStatus st lvl) 8 3 = lvl % 2 ^ 3 := by
  unfold trapStatus
  simp (disch := omega) only [Bits.get_put_ne, Bits.get_put_self]

theorem get_trapStatus_key : Bits.get (trapStatus st lvl) 20 4 = 0 := by
  unfold trapStatus
  simp (disch := omega) only [Bits.get_put_ne, Bits.get_put_self, Nat.zero_mod]

theorem get_trapStatus_prog : Bits.get (trapStatus st lvl) 48 16 = 0 := by
  unfold trapStatus
  rw [Bits.get_put_self _ _ _ _ (by omega), Nat.zero_mod]

theorem get_trapStatus_cc : Bits.get (trapStatus st lvl) 18 2 = Bits.get st 18 2 := by
  unfold trapStatus
  simp (disch := omega) only [Bits.get_put_ne]

/-- R95 step 4: XLATE, USER and PART are zero. -/
theorem lsb_trapStatus_mode : (trapStatus st lvl).getLsbD 0 = false ∧ (trapStatus st lvl).getLsbD 1 = false ∧
    (trapStatus st lvl).getLsbD 47 = false := by
  unfold trapStatus
  simp only [lsb_put _ _ _ _ (i := 0) (by decide), lsb_put _ _ _ _ (i := 1) (by decide), lsb_put _ _ _ _ (i := 47) (by decide)]
  simp

/-- R95 step 4: every other bit is unchanged. -/
theorem lsb_trapStatus_ne {i : Nat} (h : i < 47) (h0 : i ≠ 0) (h1 : i ≠ 1) (htl : ¬(8 ≤ i ∧ i ≤ 10))
    (hkey : ¬(20 ≤ i ∧ i ≤ 23)) : (trapStatus st lvl).getLsbD i = st.getLsbD i := by
  unfold trapStatus
  rw [Bits.lsb_put_ne _ _ _ _ _ (by omega) (by omega), Bits.lsb_put_ne _ _ _ _ _ (by omega) (by omega),
    Bits.lsb_put_ne _ _ _ _ _ (by omega) (by omega), Bits.lsb_put_ne _ _ _ _ _ (by omega) (by omega),
    Bits.lsb_put_ne _ _ _ _ _ (by omega) (by omega)]

end

/-! ## The pending writes (R124) -/

theorem sq_putCtl (k : Machine.Core) (b : BankId) (r : Ctl) (v : Word) : (k.putCtl b r v).sq = k.sq := by
  cases r <;> rfl

@[simp] theorem sq_applyPend (k : Machine.Core) (b : BankId) : (k.applyPend b).sq = k.sq := by
  unfold Core.applyPend
  refine foldl_inv (P := fun m : Machine.Core => m.sq = k.sq) rfl _ fun m p hm => ?_
  split
  · exact (sq_putCtl ..).trans hm
  · exact hm

@[simp] theorem pend_applyPend (k : Machine.Core) (b : BankId) : ((k.applyPend b).bank b).pend = [] := by
  unfold Core.applyPend
  rw [Core.bank_modBank_self]

/-! ## General registers outside a view -/

theorem readG_low (k : Machine.Core) (b : BankId) {r : Reg} (h : r.val < 16) :
    k.readG b r = if r = 0 then 0 else (k.bank b).lo[halfIndex r] := by
  unfold Core.readG
  rw [if_pos h]

theorem readG_window {k : Machine.Core} {b : BankId} {r : Reg} (h : 16 ≤ r.val) (hview : Bits.get (k.bank b).bwr 8 2 = 0) :
    k.readG b r = ((k.bank b).win (k.bank b).window)[halfIndex r] := by
  have hne : r ≠ 0 := by
    rintro rfl
    exact absurd h (by decide)
  unfold Core.readG
  rw [if_neg hne, if_neg (Nat.not_lt.2 h), hview]
  cases (k.bank b).window <;> rfl

/-! ## The bank that takes a trap -/

theorem win_putWin_self (x : Bank) (w1 : Bool) (v : Vector Word 16) : (x.putWin w1 v).win w1 = v := by cases w1 <;> rfl
theorem lo_putWin (x : Bank) (w1 : Bool) (v : Vector Word 16) : (x.putWin w1 v).lo = x.lo := by cases w1 <;> rfl
theorem pend_putWin (x : Bank) (w1 : Bool) (v : Vector Word 16) : (x.putWin w1 v).pend = x.pend := by cases w1 <;> rfl

section
variable (x : Bank) (tvec : Word) (cause : Nat) (bad epc : Word) (lvl frame : Nat)

theorem lo_enter : (x.enter tvec cause bad epc lvl frame).lo = x.lo := lo_putWin ..
theorem pend_enter : (x.enter tvec cause bad epc lvl frame).pend = x.pend := pend_putWin ..

theorem view_enter : Bits.get (x.enter tvec cause bad epc lvl frame).bwr 8 2 = 0 := Bits.get_put_self _ _ _ _ (by omega)

/-- The window that entry to a level leaves alone. -/
theorem saved_enter : if lvl % 2 = 1 then (x.enter tvec cause bad epc lvl frame).w0 = x.w0
    else (x.enter tvec cause bad epc lvl frame).w1 = x.w1 := by
  unfold Bank.enter Bank.putWin
  split <;> simp [*]

variable {lvl} (hlvl : lvl < 8)
include hlvl

theorem tl_enter : (x.enter tvec cause bad epc lvl frame).tl = lvl := by
  refine (get_trapStatus_tl ..).trans ?_
  omega

/-- R95 step 5: the window of the new level. -/
theorem window_enter : (x.enter tvec cause bad epc lvl frame).win (x.enter tvec cause bad epc lvl frame).window =
    trapWindow frame := by
  unfold Bank.window
  rw [tl_enter _ _ _ _ _ _ hlvl]
  exact win_putWin_self ..

end

theorem trapWindow_halfIndex (frame : Nat) {r : Reg} (h : 16 ≤ r.val) :
    (trapWindow frame)[halfIndex r] = if r = 16 then BitVec.ofNat 64 frame else 0 := by
  have hfirst : 0 = r.val % 16 ↔ r = 16 := by
    rw [Fin.ext_iff]
    change 0 = r.val % 16 ↔ r.val = 16
    omega
  simp [trapWindow, halfIndex, Vector.getElem_set, hfirst]

theorem b2n_window (x : Bank) : b2n x.window = x.tl % 2 := by
  unfold Bank.window
  rcases Nat.mod_two_eq_zero_or_one x.tl with h | h <;> rw [h] <;> rfl

/-- The frame of R97, with a cause that fits its byte. -/
theorem frameBytes_eq (x : Bank) (bwr : Word) {cause : Nat} (bad epc : Word) (lvl : Nat) (h : cause < 64) :
    frameBytes x bwr cause bad epc lvl =
      leBytes 8 epc.toNat ++ leBytes 8 bad.toNat ++ leBytes 8 x.status.toNat ++ leBytes 8 bwr.toNat ++
        [byte cause, if 2 ≤ lvl then 1 else 0] ++ zeros 30 ++
        (if 2 ≤ lvl then winBytes (if lvl % 2 = 1 then x.w1 else x.w0) else []) := by
  unfold frameBytes
  rw [Nat.mod_eq_of_lt h]
  by_cases h2 : 2 ≤ lvl <;> by_cases hodd : lvl % 2 = 1 <;> simp [h2, hodd, bytesOf, b2n, Bank.win, byte]

/-! ## Entry to a trap level (R95) -/

section
variable (s : State) (c : CoreId) (b : BankId) (cause : Nat) (bad epc : Word)

/-- The bank with its pending writes in effect, as it takes the trap. -/
def trapBank : Bank := ((s.core c).applyPend b).bank b

/-- The frame's address and its bytes. -/
def trapFrame : Nat := frameAddr c b ((trapBank s c b).tl + 1)

/-- The bank after the entry. -/
def trapped : Bank :=
  (trapBank s c b).enter ((s.core c).applyPend b).tvec cause bad epc ((trapBank s c b).tl + 1) (trapFrame s c b)

def trapBytes : List Byte :=
  frameBytes (trapBank s c b) (((s.core c).applyPend b).ctlNow b .bwr) cause bad epc ((trapBank s c b).tl + 1)

/-- The state that the frame is written in. -/
def trapSwitched : State :=
  s.setCore c { ((s.core c).applyPend b).setBank b (trapped s c b cause bad epc) with pq := [], win := [], need := none }

theorem enterTrap_eq : enterTrap s c b cause bad epc =
    hwWrite (trapSwitched s c b cause bad epc) c (trapFrame s c b) (trapBytes s c b cause bad epc) := rfl

theorem core_enterTrap_self : ∃ q, (enterTrap s c b cause bad epc).core c =
    { ((s.core c).applyPend b).setBank b (trapped s c b cause bad epc) with pq := [], win := [], need := none, sq := q } := by
  rw [enterTrap_eq, core_hwWrite_self, trapSwitched, State.core_setCore_self]
  exact ⟨_, rfl⟩

theorem core_enterTrap_ne {d : CoreId} (h : d ≠ c) : (enterTrap s c b cause bad epc).core d = s.core d := by
  rw [enterTrap_eq, core_hwWrite_ne _ _ _ _ h, trapSwitched, State.core_setCore_ne _ _ _ _ h]

theorem pq_enterTrap : ((enterTrap s c b cause bad epc).core c).pq = [] := by
  obtain ⟨q, hq⟩ := core_enterTrap_self s c b cause bad epc
  rw [hq]

theorem bank_enterTrap : (enterTrap s c b cause bad epc).bank c b = trapped s c b cause bad epc := by
  obtain ⟨q, hq⟩ := core_enterTrap_self s c b cause bad epc
  unfold State.bank
  rw [hq]
  exact Core.bank_setBank_self ..

theorem regs_enterTrap : (enterTrap s c b cause bad epc).regs = s.regs := by
  rw [enterTrap_eq, regs_hwWrite]
  rfl

theorem coreRead_enterTrap :
    coreRead (enterTrap s c b cause bad epc) c (trapFrame s c b) (trapBytes s c b cause bad epc).length =
      trapBytes s c b cause bad epc := by
  have hread := coreRead_hwWrite (trapSwitched s c b cause bad epc) c (trapFrame s c b) (trapBytes s c b cause bad epc)
    (off := 0) (Nat.zero_add _).le
  rwa [List.drop_zero, List.take_length] at hread

/-- R95: the core sees no other byte of memory change. -/
theorem coreByte_enterTrap {a : Nat}
    (h : a < trapFrame s c b ∨ trapFrame s c b + (trapBytes s c b cause bad epc).length ≤ a) :
    coreByte (enterTrap s c b cause bad epc) c a = coreByte s c a := by
  rw [enterTrap_eq, coreByte_hwWrite_outside _ _ _ _ h]
  refine coreByte_congr (s := s) (t := trapSwitched s c b cause bad epc) ?_ rfl a
  rw [trapSwitched, State.core_setCore_self]
  exact sq_applyPend ..

/-- R95 step 5: G1 to G15 stay. -/
theorem g_enterTrap_low {r : Reg} (h : r.val < 16) :
    (enterTrap s c b cause bad epc).g c b r = ((s.core c).applyPend b).readG b r := by
  have hlo : (((enterTrap s c b cause bad epc).core c).bank b).lo = (((s.core c).applyPend b).bank b).lo :=
    (congrArg Bank.lo (bank_enterTrap ..)).trans (lo_enter ..)
  rw [State.g, readG_low _ _ h, readG_low _ _ h, hlo]

variable {s c b}

/-- R95 step 5: the new window is zero but for the frame's address. -/
theorem g_enterTrap_window (hlvl : (trapBank s c b).tl + 1 < 8) {r : Reg} (h : 16 ≤ r.val) :
    (enterTrap s c b cause bad epc).g c b r = if r = 16 then BitVec.ofNat 64 (trapFrame s c b) else 0 := by
  have hbank : ((enterTrap s c b cause bad epc).core c).bank b = trapped s c b cause bad epc := bank_enterTrap ..
  rw [State.g, readG_window h (by rw [hbank]; exact view_enter ..), hbank, ← trapWindow_halfIndex _ h]
  exact congrArg (·[halfIndex r]) (window_enter _ _ _ _ _ _ hlvl)

theorem trapBytes_eq {cause : Nat} (bad epc : Word) (h : cause < 64) : trapBytes s c b cause bad epc =
    leBytes 8 epc.toNat ++ leBytes 8 bad.toNat ++ leBytes 8 (trapBank s c b).status.toNat ++
      leBytes 8 (Bits.put (trapBank s c b).bwr 0 1 ((trapBank s c b).tl % 2)).toNat ++
      [byte cause, if 2 ≤ (trapBank s c b).tl + 1 then 1 else 0] ++ zeros 30 ++
      (if 2 ≤ (trapBank s c b).tl + 1 then
        winBytes (if ((trapBank s c b).tl + 1) % 2 = 1 then (trapBank s c b).w1 else (trapBank s c b).w0) else []) := by
  unfold trapBytes
  rw [frameBytes_eq _ _ _ _ _ h, ← b2n_window]
  rfl

theorem ne_poisonCause {cause : Nat} (h : cause < 64) : cause ≠ poisonCause := Nat.ne_of_lt h

/-- A trap from level 0 to 3 of a context's bank enters the next level. -/
theorem takeTrap_of_level_lt (hb : b ≠ bank15) (hcause : cause < 64) (hlvl : (s.bank c b).tl < 4) :
    takeTrap s c b cause bad epc = enterTrap s c b cause bad epc := by
  unfold takeTrap
  rw [if_neg (ne_poisonCause hcause), if_neg hb, if_neg (Nat.not_le.2 hlvl)]

theorem takeTrap_of_level_four (hb : b ≠ bank15) (hcause : cause < 64) (hlvl : (s.bank c b).tl = 4) :
    takeTrap s c b cause bad epc = enterNest s c b cause bad epc := by
  unfold takeTrap
  rw [if_neg (ne_poisonCause hcause), if_neg hb, if_pos hlvl.ge]

end

/-! ## A trap taken at level 4 (R99) -/

section
variable (s : State) (c : CoreId) (b : BankId) (cause : Nat) (bad epc : Word)

theorem bank_enterNest_bank15 : (enterNest s c b cause bad epc).bank c bank15 =
    bank15Entry c b (s.core c).tvec (s.bank c b).an (s.bank c b).deadline cause bad epc := by
  unfold State.bank enterNest
  rw [State.core_modCore_self]
  exact Core.bank_setBank_self ..

theorem bank_enterNest_ne {d : BankId} (h : d ≠ bank15) : (enterNest s c b cause bad epc).bank c d =
    (((s.core c).setBank b { s.bank c b with pc := epc })).bank d := by
  unfold State.bank enterNest
  rw [State.core_modCore_self]
  exact Core.bank_setBank_ne _ _ _ _ h

theorem cur_enterNest : ((enterNest s c b cause bad epc).core c).cur = some bank15 := by
  unfold enterNest
  rw [State.core_modCore_self]

theorem status_bank15Entry : Bits.put 0 8 3 4 = 0x400 := by decide

theorem bwr_bank15Entry : ∀ b : BankId, Bits.put 0 16 4 b.val = BitVec.ofNat 64 (b.val * 2 ^ 16) := by decide

/-- R99: the registers past G5 are zero. -/
theorem upper_bank15Entry (tvec an deadline : Word) {r : Reg} (h : 5 < r.val) :
    (if r.val < 16 then
      if r = 0 then 0 else (bank15Entry c b tvec an deadline cause bad epc).lo[halfIndex r]
    else 0) = 0 := by
  split
  case isFalse => rfl
  case isTrue hlow =>
    have hmod : r.val % 16 = r.val := Nat.mod_eq_of_lt hlow
    have hset (i : Nat) (hi : i ≤ 5) : i ≠ r.val := by omega
    simp [bank15Entry, halfIndex, hmod, hset]

/-- R99: the general registers of bank 15 at the entry. -/
theorem g_enterNest (r : Reg) : (enterNest s c b cause bad epc).g c bank15 r =
    if r.val < 16 then
      if r = 0 then 0 else (bank15Entry c b (s.core c).tvec (s.bank c b).an (s.bank c b).deadline cause bad epc).lo[halfIndex r]
    else 0 := by
  have hbank : ((enterNest s c b cause bad epc).core c).bank bank15 = _ := bank_enterNest_bank15 ..
  unfold State.g
  by_cases h : r.val < 16
  · rw [readG_low _ _ h, hbank, if_pos h]
  · have hview : Bits.get (Bits.put 0 16 4 b.val) 8 2 = 0 := by
      rw [Bits.get_put_ne _ _ _ _ _ _ (by omega) (by omega)]
      rfl
    rw [readG_window (Nat.not_lt.1 h) (by rw [hbank]; exact hview), hbank, if_neg h]
    unfold Bank.win bank15Entry
    simp

end

/-- Settles O15: the bank, the frame and what else is left after entry to a trap level, and bank 15 after NEST_ERR. -/
theorem trapEntry : Obligations.TrapEntry := by
  refine ⟨?level, ?nest⟩
  case level =>
    intro s c b cause bad epc k x lvl frame t y bytes hb hcause htl hx
    have ht : t = enterTrap s c b cause bad epc := takeTrap_of_level_lt cause bad epc hb hcause htl
    have hlvl : x.tl + 1 < 8 := by omega
    have hy : y = trapped s c b cause bad epc := by
      rw [← bank_enterTrap, ← ht]
    have hbytes : bytes = trapBytes s c b cause bad epc := (trapBytes_eq bad epc hcause).symm
    obtain ⟨hxlate, huser, hpart⟩ := lsb_trapStatus_mode x.status lvl
    rw [hbytes, ht, hy]
    exact ⟨rfl, congrArg (BitVec.ofNat 64) (Nat.mod_eq_of_lt hcause), rfl, tl_enter _ _ _ _ _ _ hlvl, huser, hxlate,
      get_trapStatus_key .., hpart, get_trapStatus_prog .., get_trapStatus_cc ..,
      fun i h h0 h1 htl hkey => lsb_trapStatus_ne _ _ h h0 h1 htl hkey, view_enter ..,
      fun i h hview => Bits.lsb_put_ne _ _ _ _ _ (by omega) h, fun r h => g_enterTrap_window cause bad epc hlvl h,
      fun r h => g_enterTrap_low _ _ _ _ _ _ h, saved_enter .., rfl, (pend_enter ..).trans (pend_applyPend ..),
      pq_enterTrap .., coreRead_enterTrap .., fun a h => coreByte_enterTrap _ _ _ _ _ _ h,
      fun d h => core_enterTrap_ne _ _ _ _ _ _ h, regs_enterTrap ..⟩
  case nest =>
    intro s c b cause bad epc hb hcause htl t y
    have ht : t = enterNest s c b cause bad epc := takeTrap_of_level_four cause bad epc hb hcause htl
    have hy : y = bank15Entry c b (s.core c).tvec (s.bank c b).an (s.bank c b).deadline cause bad epc := by
      rw [← bank_enterNest_bank15, ← ht]
    rw [ht, hy]
    refine ⟨cur_enterNest .., ?bank, g_enterNest .., g_enterNest .., g_enterNest .., g_enterNest .., g_enterNest .., ?upper,
      status_bank15Entry, bwr_bank15Entry b, rfl, rfl, rfl, rfl, rfl, rfl, rfl, rfl, rfl, rfl, ?others, rfl, rfl⟩
    case bank => exact (bank_enterNest_ne _ _ _ _ _ _ hb).trans (Core.bank_setBank_self ..)
    case upper => exact fun r h => (g_enterNest ..).trans (upper_bank15Entry _ _ _ _ _ _ _ _ h)
    case others =>
      exact fun d hd hd15 => (bank_enterNest_ne _ _ _ _ _ _ hd15).trans (Core.bank_setBank_ne _ _ _ _ hd)

end Sys2Proof.Proofs

namespace Sys2Proof.Proofs

open Sys2Proof Sys2Proof.Machine Sys2Proof.Laws

/-! # Refused instructions (R100, R127, R180, R193 to R195)

## What a ready instruction ends with -/

section
variable {s : State} {c : CoreId} {b : BankId} {ps : List (Phys × Nat)} (hready : Ready s c b 4 ps) {i : Instr}
  {body : BankId → State → IRes}
include hready

/-- R127: the EPC of a few causes is the next instruction. -/
theorem exec_trap {cause : Nat} {bad : Word} (hexec : exec i s = .next (baseInstr c body s))
    (hbody : body b (fetched s c b ps) = .trap (fetched s c b ps) cause bad) :
    exec i s = .next (takeTrap (fetched s c b ps) c b cause bad
      (if epcNext cause then (s.bank c b).pc + 4 else (s.bank c b).pc)) := by
  rw [hexec, baseInstr_ready hready, hbody, settleInstr_trap (asksNone_fetched hready)]
  rfl

/-- R127, R195: a supervisor instruction in user mode takes PRIV. -/
theorem exec_supervisor_of_user (hexec : exec i s = .next (privInstr c body s)) (huser : (s.bank c b).user = true) :
    exec i s = .next (takeTrap (markParts s c ps) c b 0x0C 0 (s.bank c b).pc) :=
  hexec.trans (congrArg _ (runInstr_priv hready rfl huser))

/-- R180: an encoding that is not legal takes ILLEGAL. -/
theorem exec_of_not_legal {legal : BankId → Bool} {priv intr : Bool}
    (hexec : exec i s = .next (runInstr c 4 legal priv intr body s)) (hlegal : legal b = false) :
    exec i s = .next (takeTrap (markParts s c ps) c b 0x0B 0 (s.bank c b).pc) :=
  hexec.trans (congrArg _ (runInstr_illegal hready hlegal))

end

/-- R180: a word that the opcode map does not define takes ILLEGAL. -/
theorem exec_illegalInstruction_of_undefined {s : State} {c : CoreId} {b : BankId} {ps : List (Phys × Nat)}
    (hready : Ready s c b 4 ps) {w0 w1 : BitVec 32} (hword : porDecode c w0 w1 = none) (hlen : instrBytes w0 = 4) :
    exec (.illegalInstruction c w0 w1) s = .next (takeTrap (markParts s c ps) c b 0x0B 0 (s.bank c b).pc) := by
  rw [exec_illegalInstruction]
  unfold execIllegalInstruction
  rw [hword, hlen]
  exact congrArg _ (runInstr_illegal hready rfl)

/-- R194: numbers above 0x0C name no control register. -/
theorem ctlOf_eq_none {n : Nat} (h : 0x0C < n) : ctlOf n = none := by
  obtain ⟨m, rfl⟩ := Nat.exists_eq_add_of_le' h
  rfl

/-- R100: the ledger instructions are not for bank 15. -/
theorem ledgerBody_bank15 (op : LOp) (c : CoreId) (r k n : Reg) (s : State) :
    ledgerBody op c r k n bank15 s = .trap s 0x0C 0 := by
  unfold ledgerBody
  exact if_pos rfl

theorem cryptBody_bank15 (c : CoreId) (a : Reg) (s : State) : cryptBody c a bank15 s = .trap s 0x0C 0 := by
  unfold cryptBody
  exact if_pos rfl

/-- Settles O14: the cause and the EPC of each refused instruction, by how its frame refuses it or by its body. -/
theorem exceptionCauses : Obligations.ExceptionCauses := by
  intro s c k ps d a b bcast hready pc u priv in15
  have hprivileged {i : Instr} {body : BankId → State → IRes} (hexec : exec i s = .next (privInstr c body s)) : priv i :=
    exec_supervisor_of_user hready hexec
  have hin15 {i : Instr} {body : BankId → State → IRes} (hexec : exec i s = .next (baseInstr c body s))
      (hbody : body bank15 u = .trap u 0x0C 0) : in15 i := fun h => by
    subst h
    exact exec_trap hready hexec hbody
  refine ⟨exec_trap hready (exec_scall ..) rfl, exec_trap hready (exec_breakpoint ..) rfl,
    fun w0 w1 => exec_illegalInstruction_of_undefined hready, ?control, ?quarantine,
    hprivileged (exec_tret ..), hprivileged (exec_msync ..), hprivileged (exec_tlbsync ..), hprivileged (exec_tlbins ..),
    hprivileged (exec_tlbset ..), hprivileged (exec_tlbrd ..), hprivileged (exec_tlbfind ..), hprivileged (exec_tlbiv ..),
    hprivileged (exec_tlbia ..), hprivileged (exec_fkset ..), hprivileged (exec_fkget ..),
    hin15 (exec_ldl ..) (ledgerBody_bank15 ..), hin15 (exec_ldlu ..) (ledgerBody_bank15 ..),
    hin15 (exec_stl ..) (ledgerBody_bank15 ..), hin15 (exec_del ..) (ledgerBody_bank15 ..),
    hin15 (exec_commit ..) (if_pos rfl), hin15 (exec_abort ..) (if_pos rfl), hin15 (exec_crypt ..) (cryptBody_bank15 ..),
    hin15 (exec_waitt ..) (if_pos rfl)⟩
  case control =>
    intro hnum
    have hlegal : (ctlOf b.val).isSome = false := by rw [ctlOf_eq_none hnum]; rfl
    exact ⟨exec_of_not_legal hready (exec_ctlr ..) hlegal, exec_of_not_legal hready (exec_ctlw ..) hlegal⟩
  case quarantine => exact fun hne => exec_of_not_legal hready (exec_quar ..) (beq_eq_false_iff_ne.2 hne)

end Sys2Proof.Proofs

namespace Sys2Proof.Proofs

open Sys2Proof Sys2Proof.Machine Sys2Proof.Laws

/-! # Control registers (R8, R124, R194)

## Pending writes -/

theorem ctlOf_num (r : Ctl) : ctlOf r.num = some r := by cases r <;> rfl

theorem num_inj {q r : Ctl} (h : q.num = r.num) : q = r :=
  Option.some.inj ((ctlOf_num q).symm.trans ((congrArg ctlOf h).trans (ctlOf_num r)))

/-- A core with other pending writes of a bank. -/
def withPend (m : Machine.Core) (b : BankId) (l : List (Nat × Word)) : Machine.Core := m.modBank b fun x => { x with pend := l }

theorem bank_withPend (m : Machine.Core) (b : BankId) (l : List (Nat × Word)) :
    (withPend m b l).bank b = { m.bank b with pend := l } := Core.bank_modBank_self ..

/-- R124: what is pending is not in force. -/
@[simp] theorem ctlNow_withPend (m : Machine.Core) (b : BankId) (l : List (Nat × Word)) (q : Ctl) :
    (withPend m b l).ctlNow b q = m.ctlNow b q := by
  unfold Core.ctlNow
  rw [bank_withPend]
  cases q <;> rfl

section
variable (m : Machine.Core) (b : BankId) {r : Ctl} (v : Word)

theorem pendCtl_of_readOnly (h : r = .an ∨ r = .deadline) : m.pendCtl b r v = m := if_pos h

variable (h : ¬(r = .an ∨ r = .deadline))
include h

theorem pendCtl_eq : m.pendCtl b r v = withPend m b ((r.num, r.store v) :: Sparse.erase (m.bank b).pend r.num) := if_neg h

theorem pending_pendCtl (q : Ctl) :
    ((m.pendCtl b r v).bank b).pending q = if q = r then some (r.store v) else (m.bank b).pending q := by
  rw [pendCtl_eq m b v h, bank_withPend]
  unfold Bank.pending
  rw [Sparse.lookup_cons_eq, Sparse.lookup_erase]
  by_cases hq : q = r
  · rw [if_pos (congrArg Ctl.num hq), if_pos hq]
  · have hnum : q.num ≠ r.num := fun e => hq (num_inj e)
    rw [if_neg hnum, if_neg hnum, if_neg hq]

theorem ctlNow_pendCtl (q : Ctl) : (m.pendCtl b r v).ctlNow b q = m.ctlNow b q := by
  rw [pendCtl_eq m b v h, ctlNow_withPend]

/-- R124: a pending write reads back, its read-only fields as the hardware holds them. -/
theorem readCtl_pendCtl_self :
    (m.pendCtl b r v).readCtl b r = (r.store v ||| (m.ctlNow b r &&& ~~~r.mask)) := by
  unfold Core.readCtl
  rw [pending_pendCtl m b v h, if_pos rfl, ctlNow_pendCtl m b v h]

theorem readCtl_pendCtl_ne {q : Ctl} (hq : q ≠ r) : (m.pendCtl b r v).readCtl b q = m.readCtl b q := by
  unfold Core.readCtl
  rw [pending_pendCtl m b v h, if_neg hq, ctlNow_pendCtl m b v h]

/-- R124: a write that alone is pending takes effect. -/
theorem applyPend_pendCtl (hnone : (m.bank b).pend = []) :
    (m.pendCtl b r v).applyPend b = withPend ((m.pendCtl b r v).putCtl b r (r.store v)) b [] := by
  have hpend : ((m.pendCtl b r v).bank b).pend = [(r.num, r.store v)] := by
    rw [pendCtl_eq m b v h, bank_withPend, hnone]
    rfl
  unfold Core.applyPend
  rw [hpend, List.foldl_cons, List.foldl_nil, ctlOf_num]
  rfl

end

/-- A control register whose every field software writes holds what it is set to. -/
theorem ctlNow_putCtl_self (m : Machine.Core) (b : BankId) {r : Ctl} (v : Word) (h : r = .fpctl ∨ r = .dctl ∨ r = .asid ∨
    r = .cause ∨ r = .badaddr ∨ r = .tvec ∨ r = .epc) : (m.putCtl b r v).ctlNow b r = v := by
  unfold Core.ctlNow Core.putCtl
  rcases h with rfl | rfl | rfl | rfl | rfl | rfl | rfl <;> simp only [Core.bank_modBank_self]

@[simp] theorem need_putCtl (m : Machine.Core) (b : BankId) (r : Ctl) (v : Word) : (m.putCtl b r v).need = m.need := by
  cases r <;> rfl

@[simp] theorem need_pendCtl (m : Machine.Core) (b : BankId) (r : Ctl) (v : Word) : (m.pendCtl b r v).need = m.need := by
  unfold Core.pendCtl
  split <;> rfl

@[simp] theorem need_applyPend (m : Machine.Core) (b : BankId) : (m.applyPend b).need = m.need := by
  unfold Core.applyPend
  refine foldl_inv (P := fun k : Machine.Core => k.need = m.need) rfl _ fun k p hk => ?_
  split
  · exact (need_putCtl ..).trans hk
  · exact hk

/-! ## CTLR and CTLW -/

section
variable {s : State} {c : CoreId} {b : BankId} {ps : List (Phys × Nat)} (hready : Ready s c b 4 ps) {n : Fin 32} {r : Ctl}
  (hctl : ctlOf n.val = some r) {i : Instr} {allowed : Bool} {v : State}
include hready hctl

/-- An instruction that accesses a control register in the form of CTLR and CTLW: PRIV where the mode does not allow it. -/
theorem exec_ctl {body : BankId → State → IRes}
    (hexec : exec i s = .next (runInstr c 4 (fun _ => (ctlOf n.val).isSome) false false body s))
    (hbody : body b (fetched s c b ps) =
      if ((fetched s c b ps).bank c b).user ∧ !allowed then .trap (fetched s c b ps) 0x0C 0 else .done v) :
    (((s.bank c b).user = true → allowed = true) → AsksNone v c → exec i s = .next (ended v c b 4)) ∧
    ((s.bank c b).user = true → allowed = false →
      exec i s = .next (takeTrap (fetched s c b ps) c b 0x0C 0 (s.bank c b).pc)) := by
  have hlegal : (ctlOf n.val).isSome = true := by rw [hctl]; rfl
  rw [hexec, runInstr_ready hready hlegal fun h => absurd h Bool.false_ne_true]
  dsimp only
  rw [if_neg Bool.false_ne_true, hbody, user_fetched]
  refine ⟨fun hallowed hasks => ?_, fun huser hnot => ?_⟩
  · rw [if_neg, settleInstr_done hasks]
    rintro ⟨huser, hnot⟩
    rw [hallowed huser] at hnot
    exact Bool.false_ne_true hnot
  · rw [if_pos ⟨huser, by rw [hnot]; rfl⟩, settleInstr_trap (asksNone_fetched hready)]
    rfl

end

/-- Settles O18: the reads, the pending writes and their effect, each through the pending value of one register. -/
theorem controlRegisters : Obligations.ControlRegisters := by
  intro s c k ps d a n r hready u user hctl
  have hasks : AsksNone u c := asksNone_fetched hready
  have huser : (u.bank c k).user = user := user_fetched s c k ps
  have hread := exec_ctl hready hctl (allowed := r.userRead) (exec_ctlr s c d n) (v := u.setG c k d
    (if user = true ∧ r = .status then (u.core c).readCtl k r &&& 0xC0000 else (u.core c).readCtl k r))
    (by rw [hctl, ← huser])
  have hwrite := exec_ctl hready hctl (allowed := r.userWrite) (exec_ctlw s c n a)
    (v := u.modCore c fun m => m.pendCtl k r (s.g c k a)) (by rw [hctl, ← g_fetched s c k ps a])
  refine ⟨fun hallowed => hread.1 hallowed (asksNone_setG.2 hasks), fun hallowed => hwrite.1 hallowed ?needs, hread.2, hwrite.2,
    fun m v han hdead => ?pending, fun m v => pendCtl_of_readOnly m k v, fun m v hnone hr => ?effect⟩
  case needs =>
    unfold AsksNone
    rw [State.core_modCore_self, need_pendCtl]
    exact hasks
  case pending =>
    have hw : ¬(r = .an ∨ r = .deadline) := not_or.2 ⟨han, hdead⟩
    exact ⟨readCtl_pendCtl_self m k v hw, ctlNow_pendCtl m k v hw, fun q hq => readCtl_pendCtl_ne m k v hw hq⟩
  case effect =>
    have hw : ¬(r = .an ∨ r = .deadline) := by
      rintro (rfl | rfl) <;> simp at hr
    rw [applyPend_pendCtl m k v hw hnone, ctlNow_withPend, ctlNow_putCtl_self _ _ _ hr]

end Sys2Proof.Proofs

namespace Sys2Proof.Proofs

open Sys2Proof Sys2Proof.Machine Sys2Proof.Laws

/-! # The store queue (R107, R113, R114, R116, R118)

## The bytes of a queue -/

/-- The bytes of a queue, each store before those that are older. -/
theorem sqByte_eq_foldl_or (sq : List SqEntry) (x : Nat) :
    sqByte sq x = sq.foldl (fun acc e => (e.cells.lookup x).or acc) none := by
  unfold sqByte
  congr 1
  funext acc e
  cases e.cells.lookup x <;> rfl

theorem foldl_or {α β : Type} (g : α → Option β) (l : List α) (acc : Option β) :
    l.foldl (fun acc e => (g e).or acc) acc = (l.foldl (fun acc e => (g e).or acc) none).or acc := by
  induction l generalizing acc with
  | nil => rfl
  | cons e t ih => rw [List.foldl_cons, List.foldl_cons, ih, ih ((g e).or none), Option.or_none, Option.or_assoc]

/-- What the oldest store gives is taken where no younger one writes the byte. -/
theorem sqByte_cons (e : SqEntry) (sq : List SqEntry) (x : Nat) :
    sqByte (e :: sq) x = (sqByte sq x).or (e.cells.lookup x) := by
  rw [sqByte_eq_foldl_or, sqByte_eq_foldl_or, List.foldl_cons, foldl_or, Option.or_none]

/-- R116: the youngest store to a byte gives it. -/
theorem sqByte_concat (sq : List SqEntry) (e : SqEntry) (x : Nat) :
    sqByte (sq ++ [e]) x = (e.cells.lookup x).or (sqByte sq x) := by
  rw [sqByte_eq_foldl_or, sqByte_eq_foldl_or, List.foldl_append, List.foldl_cons, List.foldl_nil]

/-- A byte of memory after cells with different addresses are written. -/
theorem memGet_writeCells {cells : List Host.Cell} (h : (cells.map fun q => q.1).Nodup) (m : List Host.Cell) (x : Nat) :
    memGet (writeCells m cells) x = (cells.lookup x).getD (memGet m x) := by
  induction cells generalizing m with
  | nil => rfl
  | cons p t ih =>
    rw [List.map_cons, List.nodup_cons] at h
    rw [writeCells, ih h.2, memGet_memSet, Sparse.lookup_cons_eq]
    by_cases hx : x = p.1
    · have hnot : t.lookup x = none := List.lookup_eq_none_iff.2 fun q hq => by
        subst hx
        exact bne_iff_ne.2 fun he => h.1 (he ▸ List.mem_map_of_mem hq)
      rw [if_pos hx, if_pos hx, hnot]
      rfl
    · rw [if_neg hx, if_neg hx]

/-! ## Accesses of the data side -/

@[simp] theorem mem_l1Data (s : State) (c : CoreId) (wr : Bool) (pa n : Nat) : (l1Data s c wr pa n).mem = s.mem := by
  unfold l1Data
  rw [State.mem_modCore, mem_l1Access]

@[simp] theorem regs_l1Data (s : State) (c : CoreId) (wr : Bool) (pa n : Nat) : (l1Data s c wr pa n).regs = s.regs := by
  unfold l1Data
  rw [State.regs_modCore, regs_l1Access]

theorem core_l1Data_self (s : State) (c : CoreId) (wr : Bool) (pa n : Nat) :
    (l1Data s c wr pa n).core c = { s.core c with port := true } := by
  unfold l1Data
  rw [State.core_modCore_self, core_l1Access]

theorem core_l1Data_ne (s : State) {c d : CoreId} (h : d ≠ c) (wr : Bool) (pa n : Nat) :
    (l1Data s c wr pa n).core d = s.core d := by
  unfold l1Data
  rw [State.core_modCore_ne _ _ _ _ h, core_l1Access]

/-! ## Stores of normal memory that drain -/

/-- What an access of the data side and the draining of a core's stores of normal memory leave: the registers, the other cores,
all of the core but its queue and its port, and what the core sees. -/
structure SameView (c : CoreId) (s t : State) : Prop where
  regs : t.regs = s.regs
  others : ∀ d, d ≠ c → t.core d = s.core d
  core : { t.core c with sq := (s.core c).sq, port := (s.core c).port } = s.core c
  bytes : ∀ x, coreByte t c x = coreByte s c x

namespace SameView

variable {c : CoreId} {s t u : State}

theorem refl (c : CoreId) (s : State) : SameView c s s := ⟨rfl, fun _ _ => rfl, rfl, fun _ => rfl⟩

theorem trans (h : SameView c s t) (h' : SameView c t u) : SameView c s u where
  regs := h'.regs.trans h.regs
  others d hd := (h'.others d hd).trans (h.others d hd)
  core := by rw [← h.core, ← h'.core]
  bytes x := (h'.bytes x).trans (h.bytes x)

theorem banks (h : SameView c s t) : (t.core c).banks = (s.core c).banks := by rw [← h.core]

end SameView

theorem sameView_l1Data (s : State) (c : CoreId) (wr : Bool) (pa n : Nat) : SameView c s (l1Data s c wr pa n) where
  regs := regs_l1Data ..
  others d hd := core_l1Data_ne s hd wr pa n
  core := by rw [core_l1Data_self]
  bytes := coreByte_congr (by rw [core_l1Data_self]) (mem_l1Data ..)

/-- A queued store of normal memory that writes each of its bytes once. -/
def PlainStore (e : SqEntry) : Prop := e.dev = false ∧ (e.cells.map fun q => q.1).Nodup

/-- The state once the oldest store, of normal memory, has left the queue and its bytes are in memory. -/
def headWritten (s : State) (c : CoreId) (e : SqEntry) (t : List SqEntry) : State :=
  ({ s with mem := writeCells s.mem e.cells } : State).modCore c fun k => { k with sq := t }

theorem core_headWritten_self (s : State) (c : CoreId) (e : SqEntry) (t : List SqEntry) :
    (headWritten s c e t).core c = { s.core c with sq := t } := by
  unfold headWritten
  rw [State.core_modCore_self]
  rfl

section
variable {s : State} {c : CoreId} {e : SqEntry} {t : List SqEntry} (hsq : (s.core c).sq = e :: t)
include hsq

/-- R114: the head becomes visible; where it writes anything its line is obtained. -/
theorem drainHead_eq (hdev : e.dev = false) : drainHead s c = match e.cells with
    | [] => headWritten s c e t
    | p :: _ => l1Data (headWritten s c e t) c true p.1 1 := by
  unfold drainHead
  rw [hsq]
  dsimp only
  rw [if_neg (by rw [hdev]; nofun)]
  rfl

theorem mem_drainHead (hdev : e.dev = false) : (drainHead s c).mem = writeCells s.mem e.cells := by
  rw [drainHead_eq hsq hdev]
  split
  · rfl
  · exact mem_l1Data ..

theorem sameView_headWritten (hplain : PlainStore e) : SameView c s (headWritten s c e t) where
  regs := rfl
  others d hd := (State.core_modCore_ne _ _ _ _ hd).trans rfl
  core := by rw [core_headWritten_self]
  bytes x := by
    unfold coreByte
    rw [core_headWritten_self, hsq, sqByte_cons, show (headWritten s c e t).mem = writeCells s.mem e.cells from rfl,
      memGet_writeCells hplain.2]
    cases sqByte t x <;> rfl

theorem sq_drainHead (hdev : e.dev = false) : ((drainHead s c).core c).sq = t := by
  have hhead : ((headWritten s c e t).core c).sq = t := by rw [core_headWritten_self]
  rw [drainHead_eq hsq hdev]
  split
  · exact hhead
  · rw [core_l1Data_self]
    exact hhead

theorem sameView_drainHead (hplain : PlainStore e) : SameView c s (drainHead s c) := by
  rw [drainHead_eq hsq hplain.1]
  split
  · exact sameView_headWritten hsq hplain
  · exact (sameView_headWritten hsq hplain).trans (sameView_l1Data ..)

end

/-- Draining stores of normal memory changes nothing that the core sees, and takes them from the queue. -/
theorem sameView_drainN {s : State} {c : CoreId} (n : Nat) (hplain : ∀ e ∈ (s.core c).sq, PlainStore e) :
    SameView c s (drainN s c n) ∧ ((drainN s c n).core c).sq = (s.core c).sq.drop n := by
  induction n generalizing s with
  | zero => exact ⟨SameView.refl c s, rfl⟩
  | succ n ih =>
    rw [drainN]
    cases hsq : (s.core c).sq with
    | nil =>
      have hhead : drainHead s c = s := by
        unfold drainHead
        rw [hsq]
      have hrest := ih hplain
      rw [hhead]
      rwa [hsq, List.drop_nil] at hrest
    | cons e t =>
      rw [hsq] at hplain
      have he := hplain e List.mem_cons_self
      have htail := sq_drainHead hsq he.1
      have hrest := ih (s := drainHead s c) (by
        rw [htail]
        exact fun y hy => hplain y (List.mem_cons_of_mem _ hy))
      exact ⟨(sameView_drainHead hsq he).trans hrest.1, by rw [hrest.2, htail, List.drop_succ_cons]⟩

/-- R114: once the whole queue has drained, memory holds what the core sees. -/
theorem drainAll_plain {s : State} {c : CoreId} (hplain : ∀ e ∈ (s.core c).sq, PlainStore e) :
    ((drainAll s c).core c).sq = [] ∧ (∀ a, memGet (drainAll s c).mem a = coreByte s c a) ∧
      (drainAll s c).regs = s.regs := by
  obtain ⟨hview, hdrop⟩ := sameView_drainN (s.core c).sq.length hplain
  have hempty : ((drainAll s c).core c).sq = [] := hdrop.trans (List.drop_length ..)
  refine ⟨hempty, fun a => ?_, hview.regs⟩
  have hbyte := hview.bytes a
  rw [← hbyte]
  change _ = coreByte (drainAll s c) c a
  unfold coreByte
  rw [hempty]
  rfl

end Sys2Proof.Proofs

namespace Sys2Proof.Proofs

open Sys2Proof Sys2Proof.Machine Sys2Proof.Laws

/-! # Fences and synchronisation (R119, R123 to R125, R212) -/

/-- An instruction that does not retire yet leaves the state that it answers with, and uses up what windows have answered. -/
theorem settleInstr_hold {c : CoreId} {b : BankId} {len : Nat} {pc : Word} {u v : State} (h : AsksNone v c) :
    settleInstr c b len pc u (.hold v) = dropWin v c := settleInstr_need h

/-- A fetch leaves what its core has in flight. -/
theorem owes_fetched (s : State) (c : CoreId) (b : BankId) (ps : List (Phys × Nat)) (d e : CoreId) :
    ((fetched s c b ps).core d).owes e = (s.core d).owes e := by
  obtain ⟨T, h⟩ := fetched_eq s c b ps
  rw [h]
  by_cases hd : d = c
  · subst hd
    rw [State.core_modCore_self]
    rfl
  · rw [State.core_modCore_ne _ _ _ _ hd]

/-- R212: a TLBSYNC waits for some core's access. -/
theorem syncOwed_iff (s : State) (c : CoreId) : syncOwed s c = true ↔ ∃ d, (s.core d).owes c = true := by
  unfold syncOwed allCores
  simp

section
variable {s : State} {c : CoreId} {b : BankId} {ps : List (Phys × Nat)} (hready : Ready s c b 4 ps) {i : Instr} {v : State}
include hready

theorem exec_base_done {body : BankId → State → IRes} (hexec : exec i s = .next (baseInstr c body s)) (hv : AsksNone v c)
    (hbody : body b (fetched s c b ps) = .done v) : exec i s = .next (ended v c b 4) :=
  hexec.trans (congrArg _ (baseInstr_done hready hv hbody))

theorem exec_base_hold {body : BankId → State → IRes} (hexec : exec i s = .next (baseInstr c body s)) (hv : AsksNone v c)
    (hbody : body b (fetched s c b ps) = .hold v) : exec i s = .next (dropWin v c) := by
  rw [hexec, baseInstr_ready hready, hbody, settleInstr_hold hv]

/-- R123: FENCE.DEV and FENCE.ALL retire where every posted store is acknowledged. -/
theorem exec_fence_acknowledged (hexec : exec i s = .next (baseInstr c (fenceDevBody c) s))
    (hasks : AsksNone (drainAll (fetched s c b ps) c) c) (hposted : ((drainAll (fetched s c b ps) c).core c).posted = []) :
    exec i s = .next (ended (drainAll (fetched s c b ps) c) c b 4) :=
  exec_base_done hready hexec hasks (if_pos hposted)

theorem exec_fence_waits (hexec : exec i s = .next (baseInstr c (fenceDevBody c) s))
    (hasks : AsksNone (drainAll (fetched s c b ps) c) c) (hposted : ((drainAll (fetched s c b ps) c).core c).posted ≠ []) :
    exec i s = .next (dropWin (drainAll (fetched s c b ps) c) c) :=
  exec_base_hold hready hexec hasks (if_neg hposted)

variable (huser : (s.bank c b).user = false)
include huser

/-- R127: a supervisor instruction in supervisor mode does what its body answers. -/
theorem privInstr_ready (body : BankId → State → IRes) : privInstr c body s =
    settleInstr c b 4 (s.bank c b).pc (fetched s c b ps) (body b (fetched s c b ps)) :=
  runInstr_ready hready rfl fun _ => huser

theorem exec_tlbsync_settled (hnone : ∀ d, (s.core d).owes c = false) :
    exec (.tlbsync c) s = .next (retired s c b 4 ps id) := by
  have howed : ¬syncOwed (fetched s c b ps) c = true := by
    rw [syncOwed_iff]
    rintro ⟨d, hd⟩
    rw [owes_fetched, hnone] at hd
    exact Bool.false_ne_true hd
  rw [exec_tlbsync]
  unfold execTlbsync
  rw [privInstr_ready hready huser, if_neg howed, settleInstr_done (asksNone_fetched hready)]
  rfl

theorem exec_tlbsync_waits (hsome : ∃ d, (s.core d).owes c = true) : exec (.tlbsync c) s =
    .next (dropWin ((fetched s c b ps).modCore c fun m => { m with wait := some .tlbsync }) c) := by
  have howed : syncOwed (fetched s c b ps) c = true := by
    rw [syncOwed_iff]
    obtain ⟨d, hd⟩ := hsome
    exact ⟨d, (owes_fetched ..).trans hd⟩
  have hasks : AsksNone ((fetched s c b ps).modCore c fun m => { m with wait := some .tlbsync }) c := by
    unfold AsksNone
    rw [State.core_modCore_self]
    exact asksNone_fetched hready
  rw [exec_tlbsync]
  unfold execTlbsync
  rw [privInstr_ready hready huser, if_pos howed, settleInstr_hold hasks]

end

/-- Settles O17: the fences through the draining of the queue, the synchronisation instructions through what they wait for. -/
theorem fencesAndSync : Obligations.FencesAndSync := by
  intro s c k ps hready u
  have hasks : AsksNone u c := asksNone_fetched hready
  refine ⟨fun h => exec_base_done hready (exec_fenceSl ..) h rfl,
    fun h hposted => ⟨exec_fence_acknowledged hready (exec_fenceDev ..) h hposted,
      exec_fence_acknowledged hready (exec_fenceAll ..) h hposted⟩,
    fun h hposted => ⟨exec_fence_waits hready (exec_fenceDev ..) h hposted,
      exec_fence_waits hready (exec_fenceAll ..) h hposted⟩,
    drainAll_plain, ?csync, ?isync, exec_tlbsync_settled hready, exec_tlbsync_waits hready⟩
  case csync =>
    refine exec_base_done hready (exec_csync ..) ?_ (congrArg IRes.done (modCore_modCore ..))
    unfold AsksNone
    rw [State.core_modCore_self]
    exact (need_applyPend ..).trans hasks
  case isync =>
    refine exec_base_done hready (exec_isync ..) ?_ rfl
    unfold AsksNone
    rw [State.core_modCore_self]
    exact hasks

end Sys2Proof.Proofs

namespace Sys2Proof.Proofs

open Sys2Proof Sys2Proof.Machine Sys2Proof.Laws

/-! # Stores (R113 to R118, R188)

## The bytes of the pieces of a store -/

/-- The byte that bytes at an address hold at another. -/
def byteAt (a : Nat) (bs : List Byte) (x : Nat) : Option Byte := if a ≤ x then bs[x - a]? else none

theorem byteAt_inside {a i : Nat} {bs : List Byte} (h : i < bs.length) : byteAt a bs (a + i) = some bs[i] := by
  unfold byteAt
  rw [if_pos (Nat.le_add_right ..), Nat.add_sub_cancel_left, List.getElem?_eq_getElem h]

theorem byteAt_outside {a x : Nat} {bs : List Byte} (h : x < a ∨ a + bs.length ≤ x) : byteAt a bs x = none := by
  unfold byteAt
  split
  · exact List.getElem?_eq_none (by omega)
  · rfl

theorem lookup_cellsAt (a : Nat) (bs : List Byte) (x : Nat) : (cellsAt a bs).lookup x = byteAt a bs x := by
  induction bs generalizing a with
  | nil => exact (byteAt_outside (Nat.lt_or_ge x a)).symm
  | cons v t ih =>
    rw [cellsAt, Sparse.lookup_cons_eq, ih]
    unfold byteAt
    rcases Nat.lt_trichotomy x a with hlt | rfl | hgt
    · rw [if_neg (by omega), if_neg (by omega), if_neg (by omega)]
    · rw [if_pos rfl, if_pos le_rfl, Nat.sub_self]
      rfl
    · rw [if_neg (by omega), if_pos (by omega), if_pos (by omega), show x - a = x - (a + 1) + 1 by omega,
        List.getElem?_cons_succ]

/-- Bytes that are cut in two. -/
theorem byteAt_cut (a m : Nat) (bs : List Byte) (x : Nat) :
    (byteAt (a + m) (bs.drop m) x).or (byteAt a (bs.take m) x) = byteAt a bs x := by
  by_cases h : a + m ≤ x
  · rw [byteAt_outside (bs := bs.take m) (by rw [List.length_take]; omega), Option.or_none]
    unfold byteAt
    rw [if_pos h, if_pos (by omega), List.getElem?_drop]
    congr 1
    omega
  · rw [byteAt_outside (Or.inl (by omega)), Option.none_or]
    unfold byteAt
    split
    · rw [List.getElem?_take, if_pos (by omega)]
    · rfl

/-- The byte that pieces hold at an address, a later one before an earlier one. -/
def piecesByte (l : List (Nat × List Byte)) (x : Nat) : Option Byte :=
  l.foldl (fun acc p => (byteAt p.1 p.2 x).or acc) none

theorem piecesByte_cons (p : Nat × List Byte) (l : List (Nat × List Byte)) (x : Nat) :
    piecesByte (p :: l) x = (piecesByte l x).or (byteAt p.1 p.2 x) := by
  unfold piecesByte
  rw [List.foldl_cons, foldl_or (fun p : Nat × List Byte => byteAt p.1 p.2 x), Option.or_none]

theorem piecesByte_unitsFuel {fuel : Nat} (a : Nat) {bs : List Byte} (h : bs.length < fuel) (x : Nat) :
    piecesByte (unitsFuel fuel a bs) x = byteAt a bs x := by
  induction fuel generalizing a bs with
  | zero => exact absurd h (Nat.not_lt_zero _)
  | succ fuel ih =>
    cases bs with
    | nil => exact (byteAt_outside (Nat.lt_or_ge x a)).symm
    | cons v t =>
      have hmod := Nat.mod_lt a (show 0 < 8 by omega)
      rw [unitsFuel, piecesByte_cons, ih _ (by rw [List.length_drop]; rw [List.length_cons] at h ⊢; omega)]
      exact byteAt_cut ..

/-- The pieces of a store are its bytes (R138, R164). -/
theorem piecesByte_unitsOf (a : Nat) (bs : List Byte) (x : Nat) : piecesByte (unitsOf a bs) x = byteAt a bs x :=
  piecesByte_unitsFuel a (Nat.lt_succ_self _) x

/-! ## Stores that enter the queue -/

/-- What stores of core `c` that found room in its queue leave; `g` gives the bytes that they hold. -/
structure Stored (c : CoreId) (s t : State) (g : Nat → Option Byte) : Prop where
  mem : t.mem = s.mem
  others : ∀ d, d ≠ c → t.core d = s.core d
  core : { t.core c with sq := (s.core c).sq, smc := (s.core c).smc, tlb := (s.core c).tlb } = s.core c
  bytes : ∀ x, sqByte (t.core c).sq x = (g x).or (sqByte (s.core c).sq x)

namespace Stored

variable {c : CoreId} {s t u : State} {g g' : Nat → Option Byte}

theorem refl (c : CoreId) (s : State) : Stored c s s fun _ => none := ⟨rfl, fun _ _ => rfl, rfl, fun _ => rfl⟩

theorem trans (h : Stored c s t g) (h' : Stored c t u g') : Stored c s u fun x => (g' x).or (g x) where
  mem := h'.mem.trans h.mem
  others d hd := (h'.others d hd).trans (h.others d hd)
  core := by rw [← h.core, ← h'.core]
  bytes x := by rw [h'.bytes, h.bytes, Option.or_assoc]

theorem coreByte_eq (h : Stored c s t g) (x : Nat) : coreByte t c x = (g x).getD (coreByte s c x) := by
  unfold coreByte
  rw [h.bytes, h.mem]
  cases g x <;> rfl

end Stored

/-- R113: a store retires into a queue that has room. -/
theorem pushStore_of_room {s : State} {c : CoreId} (e : SqEntry) (h : (s.core c).sq.length < 32) :
    pushStore s c e = s.modCore c fun k => { k with sq := k.sq ++ [e], smc := k.smc || k.hitsCode e } := by
  unfold pushStore
  rw [show (if sqSize ≤ (s.core c).sq.length then drainHead s c else s) = s from if_neg (Nat.not_le.2 h)]

theorem stored_pushStore {s : State} {c : CoreId} {e : SqEntry} {p : Nat × List Byte} (h : (s.core c).sq.length < 32)
    (hcells : e.cells = cellsAt p.1 p.2) : Stored c s (pushStore s c e) (byteAt p.1 p.2) where
  mem := by rw [pushStore_of_room e h, State.mem_modCore]
  others d hd := by rw [pushStore_of_room e h, State.core_modCore_ne _ _ _ _ hd]
  core := by rw [pushStore_of_room e h, State.core_modCore_self]
  bytes x := by rw [pushStore_of_room e h, State.core_modCore_self, sqByte_concat, hcells, lookup_cellsAt]

/-- Pieces that all find room. -/
theorem stored_foldl {c : CoreId} {f : State → Nat × List Byte → State}
    (hf : ∀ s p, ∃ e : SqEntry, e.cells = cellsAt p.1 p.2 ∧ f s p = pushStore s c e) (l : List (Nat × List Byte))
    {s : State} (hroom : (s.core c).sq.length + l.length ≤ 32) : Stored c s (l.foldl f s) (piecesByte l) := by
  induction l generalizing s with
  | nil => exact Stored.refl c s
  | cons p t ih =>
    obtain ⟨e, hcells, hpush⟩ := hf s p
    rw [List.length_cons] at hroom
    have hlt : (s.core c).sq.length < 32 := by omega
    have hlen : ((pushStore s c e).core c).sq.length = (s.core c).sq.length + 1 := by
      rw [pushStore_of_room e hlt, State.core_modCore_self, List.length_append]
      rfl
    have hpieces := (stored_pushStore hlt hcells).trans (ih (s := pushStore s c e) (by omega))
    rw [List.foldl_cons, hpush, funext (piecesByte_cons p t)]
    exact hpieces

theorem stored_markUse (s : State) (c : CoreId) (i : Option Nat) : Stored c s (markUse s c i) fun _ => none := by
  obtain ⟨T, h⟩ := markUse_eq s c i
  rw [h]
  exact ⟨rfl, fun d hd => State.core_modCore_ne _ _ _ _ hd, by rw [State.core_modCore_self],
    fun x => by rw [State.core_modCore_self, Option.none_or]⟩

theorem stored_of_quiet {s t : State} (h : Quiet s t) (c : CoreId) : Stored c s t fun _ => none where
  mem := h.mem
  others d _ := State.core_congr h.cores d
  core := by rw [State.core_congr h.cores c]
  bytes _ := by rw [State.core_congr h.cores c, Option.none_or]

theorem stored_storePhys {s : State} {c : CoreId} (b : BankId) {p : Phys} {bs : List Byte} (hdev : p.dev = false)
    (hroom : (s.core c).sq.length + (unitsOf p.pa bs).length ≤ 32) :
    Stored c s (storePhys s c b p bs) (byteAt p.pa bs) := by
  have hpieces : piecesOf p.dev p.pa bs = unitsOf p.pa bs := if_neg (by rw [hdev]; nofun)
  unfold storePhys
  rw [hpieces, ← funext (piecesByte_unitsOf p.pa bs)]
  exact stored_foldl (fun _ _ => ⟨_, rfl, rfl⟩) _ hroom

/-- R113, R138: a store of normal memory whose pieces find room. -/
theorem stored_storeParts {s : State} {c : CoreId} (b : BankId) {p : Phys} {bs : List Byte} (hdev : p.dev = false)
    (hroom : (s.core c).sq.length + (unitsOf p.pa bs).length ≤ 32) :
    Stored c s (storeParts s c b [(p, bs.length)] bs) (byteAt p.pa bs) := by
  have hquiet := quiet_appendAdvance s (s.bank c b).initiator p.pa bs.length
  have hmark := (stored_of_quiet hquiet c).trans (stored_markUse _ c p.tlb)
  have hsq : ((markUse (appendAdvance s (s.bank c b).initiator p.pa bs.length) c p.tlb).core c).sq = (s.core c).sq := by
    obtain ⟨T, h⟩ := markUse_eq (appendAdvance s (s.bank c b).initiator p.pa bs.length) c p.tlb
    rw [h, State.core_modCore_self, State.core_congr hquiet.cores]
  have hstore := hmark.trans (stored_storePhys b hdev (by rw [hsq]; exact hroom))
  simp only [Option.or_none] at hstore
  rw [storeParts, storeParts, List.take_length]
  exact hstore

/-- A core sees the bytes of its store, and every other byte as before (R116). -/
theorem coreRead_of_stored {s t : State} {c : CoreId} {a : Nat} {bs : List Byte} (h : Stored c s t (byteAt a bs)) :
    coreRead t c a bs.length = bs := by
  rw [coreRead_eq_map]
  apply List.ext_getElem
  · rw [List.length_map, List.length_range]
  · intro i _ hi
    rw [List.getElem_map, List.getElem_range, h.coreByte_eq, byteAt_inside hi]
    rfl

theorem coreByte_of_stored_outside {s t : State} {c : CoreId} {a : Nat} {bs : List Byte} (h : Stored c s t (byteAt a bs))
    {x : Nat} (hx : x < a ∨ a + bs.length ≤ x) : coreByte t c x = coreByte s c x := by
  rw [h.coreByte_eq, byteAt_outside hx]
  rfl

/-! ## Stores that drain -/

theorem writeCells_cellsAt (m : List Host.Cell) (a : Nat) (bs : List Byte) : writeCells m (cellsAt a bs) = memWrite m a bs := by
  induction bs generalizing m a with
  | nil => rfl
  | cons v t ih => exact ih (memSet m a v) (a + 1)

/-- What the retirement of an instruction that waited leaves: memory, setup registers and every store queue. -/
structure SameStores (s t : State) : Prop where
  mem : t.mem = s.mem
  regs : t.regs = s.regs
  queues : ∀ d, (t.core d).sq = (s.core d).sq

theorem sameStores_modCore (s : State) (c : CoreId) {f : Machine.Core → Machine.Core} (h : ∀ k, (f k).sq = k.sq) :
    SameStores s (s.modCore c f) where
  mem := rfl
  regs := rfl
  queues d := by
    by_cases hd : d = c
    · subst hd
      rw [State.core_modCore_self, h]
    · rw [State.core_modCore_ne _ _ _ _ hd]

theorem SameStores.trans {s t u : State} (h : SameStores s t) (h' : SameStores t u) : SameStores s u :=
  ⟨h'.mem.trans h.mem, h'.regs.trans h.regs, fun d => (h'.queues d).trans (h.queues d)⟩

theorem sameStores_retireTlbsync (s : State) (c : CoreId) : SameStores s (retireTlbsync s c) := by
  unfold retireTlbsync retireWait advancePc
  split
  · split
    · exact (sameStores_modCore s c fun _ => by rfl).trans (sameStores_modCore _ c fun _ => by rfl)
    · exact sameStores_modCore s c fun _ => by rfl
  · exact ⟨rfl, rfl, fun _ => rfl⟩

/-- R212: the TLBSYNCs that retire once an access has completed change no memory. -/
theorem sameStores_settleSyncs (s : State) : SameStores s (settleSyncs s) :=
  foldl_inv (P := SameStores s) ⟨rfl, rfl, fun _ => rfl⟩ _ fun _ c h => h.trans (sameStores_retireTlbsync _ c)

section
variable {s : State} {c : CoreId} {a va : Nat} {bs : List Byte} {o : Origin} {v : Via} {rest : List SqEntry}
  (hsq : (s.core c).sq = { cells := cellsAt a bs, dev := false, va := va, org := o, via := v } :: rest)
include hsq

/-- R114: a store of normal memory that drains. -/
theorem storeDrain_plain : SameStores (drainHead s c) (settleSyncs (drainHead s c)) ∧
    ((drainHead s c).core c).sq = rest ∧ (drainHead s c).mem = memWrite s.mem a bs ∧ (drainHead s c).regs = s.regs := by
  refine ⟨sameStores_settleSyncs _, sq_drainHead hsq rfl, (mem_drainHead hsq rfl).trans (writeCells_cellsAt ..), ?_⟩
  rw [drainHead_eq hsq rfl]
  split
  · rfl
  · exact regs_l1Data ..

end

/-! ## The ordinary stores -/

theorem effAddr_fetched (s : State) (c : CoreId) (b : BankId) (ps : List (Phys × Nat)) (a : Reg) (imm : BitVec 16) :
    effAddr (fetched s c b ps) c b a imm = s.g c b a + imm.signExtend 64 := by
  unfold effAddr
  rw [g_fetched]

theorem effAddr_lazyF (s : State) (c : CoreId) (b : BankId) (a : Reg) (imm : BitVec 16) :
    effAddr (lazyF s c b) c b a imm = effAddr s c b a imm := by
  unfold effAddr
  rw [g_lazyF]

/-- R115, R188: an aligned store that passes its checks. -/
theorem storeBody_checked {c : CoreId} {size : Nat} {v : Word} {a : Reg} {imm : BitVec 16} {b : BankId} {s : State} {ea : Word}
    {p : Phys} (hea : effAddr s c b a imm = ea) (halign : ea.toNat % size = 0)
    (hcheck : checkPart s c b .write ea.toNat size = .ok p) :
    storeBody c size v a imm b s = .done (storeParts s c b [(p, size)] (leBytes size v.toNat)) := by
  unfold storeBody
  rw [hea]
  dsimp only
  rw [if_neg (not_not.2 halign), hcheck]

/-- Settles O6: what an ordinary store puts into the queue, what the core then sees, and what a drained store leaves. -/
theorem storeResults : Obligations.StoreResults := by
  refine ⟨?ordinary, ?queued, ?drained⟩
  case ordinary =>
    intro s c k ps d a imm hready u ea ret st fs
    have hea : effAddr u c k a imm = ea := effAddr_fetched ..
    have hst {size : Nat} {i : Instr} (hexec : exec i s = .next (storeOp c size d a imm s)) : st size i :=
      fun p halign hcheck hasks => exec_base_done hready hexec hasks
        ((storeBody_checked hea halign hcheck).trans (by rw [g_fetched]))
    have hfs {size : Nat} {i : Instr} (hexec : exec i s = .next (baseInstr c (fun b s =>
        storeBody c size ((lazyF s c b).f c d) a imm b (lazyF s c b)) s)) : fs size i :=
      fun p halign hcheck hasks => exec_base_done hready hexec hasks
        (storeBody_checked ((effAddr_lazyF ..).trans hea) halign hcheck)
    exact ⟨hst (exec_stb ..), hst (exec_sth ..), hst (exec_stw ..), hst (exec_std ..), hfs (exec_fsts ..), hfs (exec_fstd ..)⟩
  case queued =>
    intro s c k p bs hdev _ hroom t
    have hstored : Stored c s t (byteAt p.pa bs) := stored_storeParts k hdev hroom
    exact ⟨hstored.mem, coreRead_of_stored hstored, fun x hx => coreByte_of_stored_outside hstored hx, hstored.others,
      by rw [← hstored.core], by rw [← hstored.core], by rw [← hstored.core]⟩
  case drained =>
    intro s c a bs va o v rest hsq
    obtain ⟨hsync, hqueue, hmem, hregs⟩ := storeDrain_plain hsq
    have hmem := hsync.mem.trans hmem
    refine ⟨settleSyncs (drainHead s c), exec_storeDrain .., (hsync.queues c).trans hqueue, ?_, fun x hx => ?_,
      hsync.regs.trans hregs⟩
    · unfold State.rd
      rw [hmem, memRead_memWrite]
    · rw [hmem, memGet_memWrite_of_not_mem _ _ _ _ hx]

end Sys2Proof.Proofs

namespace Sys2Proof.Proofs

open Sys2Proof Sys2Proof.Machine Sys2Proof.Laws

/-! # Loads (R115, R116, R122, R188, R230)

## What a fetch and the use of an entry leave -/

@[simp] theorem mem_fetched (s : State) (c : CoreId) (b : BankId) (ps : List (Phys × Nat)) : (fetched s c b ps).mem = s.mem := by
  obtain ⟨T, h⟩ := fetched_eq s c b ps
  rw [h, State.mem_modCore]

@[simp] theorem mem_markUse (s : State) (c : CoreId) (i : Option Nat) : (markUse s c i).mem = s.mem :=
  (stored_markUse s c i).mem

@[simp] theorem g_markUse (s : State) (c : CoreId) (i : Option Nat) (b : BankId) (r : Reg) :
    (markUse s c i).g c b r = s.g c b r := by
  obtain ⟨T, h⟩ := markUse_eq s c i
  unfold State.g
  rw [h, State.core_modCore_self]
  rfl

theorem asksNone_markUse {s : State} {c : CoreId} (h : AsksNone s c) (i : Option Nat) : AsksNone (markUse s c i) c := by
  obtain ⟨T, hT⟩ := markUse_eq s c i
  unfold AsksNone
  rw [hT, State.core_modCore_self]
  exact h

@[simp] theorem g_l1Data (s : State) (c : CoreId) (wr : Bool) (pa n : Nat) (b : BankId) (r : Reg) :
    (l1Data s c wr pa n).g c b r = s.g c b r := by
  unfold State.g
  rw [core_l1Data_self]
  rfl

theorem asksNone_l1Data {s : State} {c : CoreId} (h : AsksNone s c) (wr : Bool) (pa n : Nat) :
    AsksNone (l1Data s c wr pa n) c := by
  unfold AsksNone
  rw [core_l1Data_self]
  exact h

/-! ## The bytes of a load -/

/-- R116: older stores that a load writes first are the core's own, and it goes on seeing them. -/
theorem settleLoad_plain {s : State} {c : CoreId} (pa n : Nat) (hplain : ∀ e ∈ (s.core c).sq, PlainStore e) :
    SameView c s (settleLoad s c pa n) ∧ ((settleLoad s c pa n).core c).sq.length ≤ (s.core c).sq.length := by
  unfold settleLoad
  split
  · exact ⟨SameView.refl c s, le_rfl⟩
  · split
    · exact ⟨SameView.refl c s, le_rfl⟩
    · obtain ⟨hview, hdrop⟩ := sameView_drainN _ hplain
      exact ⟨hview, by rw [hdrop]; exact List.drop_sublist _ _ |>.length_le⟩

/-- R116, R122: a load of normal memory gives the bytes that the core sees, and it goes on seeing them. -/
theorem loadNormal_plain {s : State} {c : CoreId} (pa n : Nat) (hplain : ∀ e ∈ (s.core c).sq, PlainStore e) :
    (loadNormal s c pa n).1 = coreRead s c pa n ∧ SameView c s (loadNormal s c pa n).2 ∧
      ((loadNormal s c pa n).2.core c).sq.length ≤ (s.core c).sq.length := by
  obtain ⟨hsettled, hlen⟩ := settleLoad_plain pa n hplain
  have hview := hsettled.trans (sameView_l1Data (settleLoad s c pa n) c false pa n)
  refine ⟨?_, hview, ?_⟩
  · unfold loadNormal
    dsimp only
    rw [coreRead_eq_map, coreRead_eq_map]
    exact List.map_congr_left fun i _ => hview.bytes _
  · unfold loadNormal
    rw [core_l1Data_self]
    exact hlen

/-! ## The ordinary loads -/

section
variable {c : CoreId} {size : Nat} {sx fp : Bool} {d a : Reg} {imm : BitVec 16} {b : BankId} {s : State} {ea : Word}
  (hea : effAddr s c b a imm = ea)
include hea

/-- R115, R188: an aligned load of normal memory that passes its checks. -/
theorem loadBody_normal {p : Phys} (halign : ea.toNat % size = 0) (hcheck : checkPart s c b .read ea.toNat size = .ok p)
    (hdev : p.dev = false) : loadBody c size sx fp d a imm b s =
      .done (putLoaded (loadNormal (markUse s c p.tlb) c p.pa size).2 c b d sx fp size
        (leNat (loadNormal (markUse s c p.tlb) c p.pa size).1)) := by
  unfold loadBody
  rw [hea]
  dsimp only
  rw [if_neg (not_not.2 halign), hcheck]
  exact if_neg (by rw [hdev]; nofun)

/-- R115: a misaligned load. -/
theorem loadBody_misaligned (halign : ea.toNat % size ≠ 0) : loadBody c size sx fp d a imm b s = .trap s 0x10 ea := by
  unfold loadBody
  rw [hea]
  exact if_pos halign

theorem storeBody_misaligned {v : Word} (halign : ea.toNat % size ≠ 0) : storeBody c size v a imm b s = .trap s 0x10 ea := by
  unfold storeBody
  rw [hea]
  exact if_pos halign

end

/-- R188: what a load of `size` bytes into a general register extends. -/
def loadedWord (size : Nat) (sx : Bool) (v : Nat) : Word :=
  if sx then (BitVec.ofNat (8 * size) v).signExtend 64 else BitVec.ofNat 64 v

theorem putLoaded_general (s : State) (c : CoreId) (b : BankId) (d : Reg) (sx : Bool) {size : Nat} (hsize : size ≤ 8)
    (v : Nat) : putLoaded s c b d sx false size v = s.setG c b d (loadedWord size sx v) := by
  unfold putLoaded loadedWord sextFrom
  cases sx with
  | false => rfl
  | true => simp only [if_true, Bool.false_eq_true, if_false, BitVec.setWidth_ofNat_of_le (show 8 * size ≤ 64 by omega)]

section
variable {s : State} {c : CoreId} {k : BankId} {ps : List (Phys × Nat)} (hready : Ready s c k 4 ps) {a : Reg} {imm : BitVec 16}
  {wr : Bool} {line : Nat} (hline : line = (effAddr (fetched s c k ps) c k a imm).toNat / 64 * 64)
include hready hline

/-- R230: a prefetch of a line that fails a check is dropped. -/
theorem exec_pref_refused {e : ChkFail}
    (hcheck : checkPart (fetched s c k ps) c k (if wr then .write else .read) line 64 = .error e) :
    exec (.pref c wr a imm) s = .next (retired s c k 4 ps id) := by
  refine exec_base_done hready (exec_pref ..) (asksNone_fetched hready) ?_
  dsimp only
  rw [← hline, hcheck]
  rfl

section
variable {p : Phys}
  (hcheck : checkPart (fetched s c k ps) c k (if wr then .write else .read) line 64 = .ok p)
include hcheck

/-- R230: a prefetch of a line that is not normal memory is dropped. -/
theorem exec_pref_device (hdev : p.dev = true) : exec (.pref c wr a imm) s = .next (retired s c k 4 ps id) := by
  refine exec_base_done hready (exec_pref ..) (asksNone_fetched hready) ?_
  dsimp only
  rw [← hline, hcheck]
  exact congrArg IRes.done (if_pos hdev)

/-- R230: a prefetch obtains a line of normal memory. -/
theorem exec_pref_normal (hdev : p.dev = false) : exec (.pref c wr a imm) s =
    .next (retired s c k 4 ps fun u => l1Data (markUse u c p.tlb) c wr p.pa 64) := by
  refine exec_base_done hready (exec_pref ..) (asksNone_l1Data (asksNone_markUse (asksNone_fetched hready) _) ..) ?_
  dsimp only
  rw [← hline, hcheck]
  exact congrArg IRes.done (if_neg (by rw [hdev]; nofun))

end

end

/-- Settles O5: a load through the bytes that it reads, which are those that the core sees; a misaligned access; PREF. -/
theorem loadResults : Obligations.LoadResults := by
  refine ⟨?ordinary, ?bytes, ?misaligned⟩
  case ordinary =>
    intro s c k ps d a imm hready u ea ret ld fl z sx
    have hea : effAddr u c k a imm = ea := effAddr_fetched ..
    have hld (size : Nat) (signed : Bool) {i : Instr} (hsize : size ≤ 8)
        (hexec : exec i s = .next (loadOp c size signed d a imm s)) : ld size (loadedWord size signed) i :=
      fun p halign hcheck hdev hasks => exec_base_done hready hexec hasks
        ((loadBody_normal hea halign hcheck hdev).trans (congrArg _ (putLoaded_general _ _ _ _ _ hsize _)))
    have hfl {size : Nat} {i : Instr} (hexec : exec i s = .next (baseInstr c (fun b s =>
        loadBody c size false true d a imm b (lazyF s c b)) s)) : fl size i :=
      fun p halign hcheck hdev hasks => exec_base_done hready hexec hasks
        (loadBody_normal ((effAddr_lazyF ..).trans hea) halign hcheck hdev)
    refine ⟨hld 1 false (by omega) (exec_ldb ..), hld 2 false (by omega) (exec_ldh ..), hld 4 false (by omega) (exec_ldw ..),
      hld 8 false (by omega) (exec_ldd ..), hld 1 true (by omega) (exec_ldbs ..), hld 2 true (by omega) (exec_ldhs ..),
      hld 4 true (by omega) (exec_ldws ..), hfl (exec_flds ..), hfl (exec_fldd ..), fun wr line hline => ?_⟩
    rw [← hea] at hline
    refine ⟨fun e => exec_pref_refused hready hline, fun p hcheck => ⟨exec_pref_device hready hline hcheck,
      exec_pref_normal hready hline hcheck, ?_, fun b => ?_⟩⟩
    · rw [mem_l1Data, mem_markUse, mem_fetched]
    · exact (g_l1Data ..).trans ((g_markUse ..).trans (g_fetched ..))
  case bytes =>
    intro s c pa n _ hplain r
    obtain ⟨hread, hview, hlen⟩ := loadNormal_plain pa n hplain
    exact ⟨hread, hview.bytes, hview.others, hlen, hview.banks, hview.regs⟩
  case misaligned =>
    intro s c k ps d a imm hready ea t
    have hea : effAddr (fetched s c k ps) c k a imm = ea := effAddr_fetched ..
    have hmisaligned {i : Instr} {body : BankId → State → IRes} (hexec : exec i s = .next (baseInstr c body s))
        (hbody : body k (fetched s c k ps) = .trap (fetched s c k ps) 0x10 ea) : exec i s = t :=
      exec_trap hready hexec hbody
    exact ⟨fun h => ⟨hmisaligned (exec_ldh ..) (loadBody_misaligned hea h),
        hmisaligned (exec_ldhs ..) (loadBody_misaligned hea h),
        hmisaligned (exec_sth ..) (storeBody_misaligned hea h)⟩,
      fun h => ⟨hmisaligned (exec_ldw ..) (loadBody_misaligned hea h),
        hmisaligned (exec_ldws ..) (loadBody_misaligned hea h),
        hmisaligned (exec_stw ..) (storeBody_misaligned hea h)⟩,
      fun h => ⟨hmisaligned (exec_ldd ..) (loadBody_misaligned hea h),
        hmisaligned (exec_std ..) (storeBody_misaligned hea h)⟩⟩

end Sys2Proof.Proofs

namespace Sys2Proof.Proofs

open Sys2Proof Sys2Proof.Machine Sys2Proof.Laws

/-! # The events of the pipeline (R107, R108, R118, R131, R335, R397 to R399, R414, R415, R419)

## Fetch words -/

/-- The address of the next fetch word of a core (R108). -/
def nextFetch (s : State) (c : CoreId) (b : BankId) : Nat :=
  match (s.core c).pq.getLast? with
  | some w => wrap64 (w.addr + 16)
  | none => (s.bank c b).pc.toNat / 16 * 16

/-- A fetch word enters the queue. -/
def enterWord (s : State) (c : CoreId) (w : FetchWord) : State := s.modCore c fun m => { m with pq := m.pq ++ [w] }

/-- What INSTRUCTION_FETCH makes of a fetch word, or of the wait for one. -/
def fetchEnds (c : CoreId) (r : Option FetchWord × State) : State :=
  match r.1 with
  | some w => enterWord r.2 c w
  | none => r.2

section
variable {s : State} {c : CoreId} {b : BankId} (hbank : fetchBank s c = some b)
include hbank

/-- R107: in a cycle in which the data side has the port, fetch is held off. -/
theorem exec_fetch_of_port (hport : (s.core c).port = true) :
    exec (.instructionFetch c) s = .next (s.modCore c fun m => { m with port := false }) := by
  rw [exec_instructionFetch]
  unfold execInstructionFetch
  rw [hbank]
  exact congrArg _ (if_pos hport)

/-- R108: a queue that has room is filled. -/
theorem exec_fetch_of_room (hport : (s.core c).port = false) (hroom : (s.core c).pq.length < 4)
    (hdrain : s.getF Fld.MPU_STATUS_DRAINING ≠ 1) :
    exec (.instructionFetch c) s = .next (fetchEnds c (fetchWord s c b (nextFetch s c b))) := by
  rw [exec_instructionFetch]
  unfold execInstructionFetch nextFetch
  rw [hbank]
  dsimp only
  rw [if_neg (by rw [hport]; nofun), if_neg (not_or.2 ⟨Nat.not_le.2 hroom, hdrain⟩)]
  cases (s.core c).pq.getLast? with
  | none =>
    dsimp only
    rcases fetchWord s c b ((s.bank c b).pc.toNat / 16 * 16) with ⟨_ | w, t⟩ <;> rfl
  | some x =>
    dsimp only
    rcases fetchWord s c b (wrap64 (x.addr + 16)) with ⟨_ | w, t⟩ <;> rfl

end

section
variable {s : State} {c : CoreId} {b : BankId} {va : Nat}

/-- R229: a failed check leaves a fault mark. -/
theorem fetchWord_refused {e : ChkFail} (hcheck : checkPart s c b .fetch va 16 = .error e) :
    fetchWord s c b va = (some { addr := va, pa := 0, bytes := none }, s) := by
  unfold fetchWord
  rw [hcheck]

variable {p : Phys} (hcheck : checkPart s c b .fetch va 16 = .ok p)
include hcheck

/-- R108, R118: a fetch word comes from the L1, once queued stores to it are written. -/
theorem fetchWord_memory (htarget : ∀ w o, targetOf p.pa ≠ .window w o) :
    let t := l1Access (settleFetch (markUse s c p.tlb) c p.pa) c false p.pa 16
    fetchWord s c b va = (some { addr := va, pa := p.pa, bytes := some (t.rd p.pa 16) }, t) := by
  unfold fetchWord
  rw [hcheck]
  dsimp only
  split
  case h_1 w o h => exact absurd h (htarget w o)
  case h_2 => rfl

variable {w o : Nat} (htarget : targetOf p.pa = .window w o)
include htarget

/-- R199: a fetch word behind a remote window that has answered. -/
theorem fetchWord_answered {bs : List Byte} (hhave : windowHave (s.core c) p 16 = .ok bs) :
    fetchWord s c b va = (some { addr := va, pa := p.pa, bytes := some bs }, markUse s c p.tlb) := by
  unfold fetchWord
  rw [hcheck]
  dsimp only
  rw [htarget]
  dsimp only
  rw [hhave]

/-- R199: a fetch word behind a remote window that is asked for it. -/
theorem fetchWord_asks {n : WinNeed} (hneed : windowHave (s.core c) p 16 = .error n) (hwait : (s.core c).wait = none) :
    fetchWord s c b va = (none, windowBytes s c b n) := by
  unfold fetchWord
  rw [hcheck]
  dsimp only
  rw [htarget]
  dsimp only
  rw [hneed, hwait]
  rfl

end

/-! ## Machine checks (R131, R335, R398, R414, R415) -/

section
variable {s : State} {c : CoreId} {b : BankId}

/-- R398: the oldest posted store that no target has acknowledged. -/
theorem exec_asyncMchk_posted (hbank : readyBank s c = some b) {p : PostedSt} {rest : List PostedSt}
    (hposted : (s.core c).posted = p :: rest) : exec (.asyncMchk c) s = .next (settleSyncs
      (trapMchk (countHostError (s.modCore c fun m => { m with posted := rest }) p.req.isNone) c b (BitVec.ofNat 64 p.va))) := by
  rw [exec_asyncMchk]
  unfold execAsyncMchk
  rw [hbank, hposted]

/-- R131: the access of the oldest instruction times out. -/
theorem exec_accessTimeout_of_bank (hbank : accessBank s c = some b) (addr : Word) : exec (.accessTimeout c addr) s =
    .next (settleSyncs (trapMchk (countHostError (s.modCore c fun m => { m with wait := none })
      (reachesHost s c b addr.toNat)) c b addr)) := by
  rw [exec_accessTimeout]
  unfold execAccessTimeout
  rw [hbank]

theorem exec_microcodeWatchdog_ready (hbank : readyBank s c = some b) :
    exec (.microcodeWatchdog c) s = .next (faultStop s c) := by
  rw [exec_microcodeWatchdog]
  unfold execMicrocodeWatchdog
  rw [hbank]

/-- R415: what a wait bound ends, by its code. -/
theorem exec_waitBoundExpiry_ready (hbank : readyBank s c = some b) (code : Fin 7) (addr : Word) :
    exec (.waitBoundExpiry c code addr) s =
      .next (if code = 0 then trapMchk s c b addr else if code = 5 then s else faultStop s c) := by
  rw [exec_waitBoundExpiry]
  unfold execWaitBoundExpiry
  rw [hbank]

end

/-! ## The stop of a faulty core (R399, R401) -/

/-- A core that stops: its queues are lost (log 46), its banks and its TLB stay. -/
def stoppedCore (k : Machine.Core) : Machine.Core :=
  { k with svc := .testing, cur := none, b15 := none, wait := none, pq := [], sq := [], posted := [], win := [], need := none,
           smc := false, port := false, bp := Predictor.reset, fOwner := none, dOwner := none }

/-- The state in which the fault of a core is logged with `r`, the core has stopped, and machine checks are on their way. -/
def coreStopped (s : State) (c : CoreId) (r : ErrReport) : State :=
  let t := (s.report r).modCore c stoppedCore
  { l1Empty t c with mchks := t.mchks ++ (s.core c).runs }

theorem core_coreStopped_self (s : State) (c : CoreId) (r : ErrReport) :
    (coreStopped s c r).core c = stoppedCore (s.core c) := by
  change ((s.report r).modCore c stoppedCore).core c = _
  rw [State.core_modCore_self, State.core_report]

theorem core_coreStopped_ne (s : State) {c d : CoreId} (h : d ≠ c) (r : ErrReport) : (coreStopped s c r).core d = s.core d := by
  change ((s.report r).modCore c stoppedCore).core d = _
  rw [State.core_modCore_ne _ _ _ _ h, State.core_report]

theorem mem_coreStopped (s : State) (c : CoreId) (r : ErrReport) : (coreStopped s c r).mem = s.mem :=
  State.mem_report s r

theorem mchks_coreStopped (s : State) (c : CoreId) (r : ErrReport) :
    (coreStopped s c r).mchks = s.mchks ++ (s.core c).runs :=
  congrArg (· ++ (s.core c).runs) (State.mchks_report s r)

/-- The field of the ready map that holds a core's bit. -/
def readyMap (c : CoreId) : FieldRef := Fld.ERR_CORE_MAP_INSVC (c.val / 64)

/-- A state with a core's bit of the ready map clear. -/
def unready (s : State) (c : CoreId) : State := s.setF (readyMap c) (putBits (s.getF (readyMap c)) (c.val % 64) 1 0)

theorem faultStop_eq {s : State} {c : CoreId} (hsvc : (s.core c).svc = .inService) :
    ∃ r, faultStop s c = faultHold (startTest (unready (coreStopped s c r) c) (.core c)) :=
  ⟨_, if_pos hsvc⟩

/-- The self-test and the hold are kept with the collector and in a field. -/
theorem core_faultHold_startTest (s : State) (u : TestUnit) (d : CoreId) :
    (faultHold (startTest s u)).core d = s.core d := State.core_setF ..

theorem core_unready (s : State) (c d : CoreId) : (unready s c).core d = s.core d := State.core_setF ..

theorem readyMap_off_lt (c : CoreId) : 0x40028 ≤ (readyMap c).off ∧ (readyMap c).off ≤ 0x40030 := by
  change 0x40028 ≤ 0x40028 + 8 * (c.val / 64) ∧ 0x40028 + 8 * (c.val / 64) ≤ 0x40030
  omega

theorem getF_unready (s : State) (c : CoreId) : ((unready s c).getF (readyMap c)).testBit (c.val % 64) = false := by
  have hoff := readyMap_off_lt c
  have hevt : (readyMap c).off ≠ Off.SYS_EVT := fun h => by rw [h] at hoff; exact absurd hoff (by decide)
  unfold unready
  rw [State.getF_setF_self _ _ _ hevt (show 0 + 64 ≤ 64 by omega), Nat.testBit_mod_two_pow, testBit_putBits, if_pos (by omega),
    Nat.zero_testBit, Bool.and_false]

theorem getF_faultHold_startTest (s : State) (u : TestUnit) (c : CoreId) :
    (faultHold (startTest s u)).getF (readyMap c) = s.getF (readyMap c) := by
  have hoff := readyMap_off_lt c
  have hevt : (readyMap c).off ≠ Off.SYS_EVT := fun h => by rw [h] at hoff; exact absurd hoff (by decide)
  have hadm : (readyMap c).off ≠ Fld.ADM_STATUS_FAULT_HOLD.off := fun h => by rw [h] at hoff; exact absurd hoff (by decide)
  exact State.getF_setF_ne _ _ _ _ hadm hevt

/-- Settles O28: the cases of a fetch word; the machine checks, each by its command's conditions; the stop of a core. -/
theorem pipelineEvents : Obligations.PipelineEvents := by
  intro s c k word code addr
  refine ⟨fun hbank => ⟨exec_fetch_of_port hbank, fun hport hroom hdrain => ?fetch⟩, fun hbank => ?running,
    fun hbank => exec_accessTimeout_of_bank hbank addr, rfl, rfl, fun hword => congrArg _ (if_pos hword),
    fun hword hsvc => congrArg _ (if_pos ⟨hsvc, hword⟩), rfl, fun hsvc => ?stop⟩
  case fetch =>
    intro va
    have hfetch {r : Option FetchWord × State} (hword : fetchWord s c k va = r) :
        exec (.instructionFetch c) s = .next (fetchEnds c r) := hword ▸ exec_fetch_of_room hbank hport hroom hdrain
    exact ⟨fun p hcheck => ⟨fun htarget => hfetch (fetchWord_memory hcheck htarget), fun w o htarget =>
        ⟨fun bs hhave => hfetch (fetchWord_answered hcheck htarget hhave),
          fun n hneed hwait => hfetch (fetchWord_asks hcheck htarget hneed hwait)⟩⟩,
      fun e hcheck => hfetch (fetchWord_refused hcheck)⟩
  case running =>
    have hbound := exec_waitBoundExpiry_ready hbank code addr
    exact ⟨fun p rest hposted => exec_asyncMchk_posted hbank hposted, exec_microcodeWatchdog_ready hbank,
      fun h0 => by rw [hbound, if_pos h0], fun h5 => by rw [hbound, h5]; rfl, fun h0 h5 => by rw [hbound, if_neg h0, if_neg h5]⟩
  case stop =>
    obtain ⟨r, hr⟩ := faultStop_eq hsvc
    intro u
    have hu : u = faultHold (startTest (unready (coreStopped s c r) c) (.core c)) := hr
    have hcore : ∀ d, u.core d = (coreStopped s c r).core d := fun d => by
      rw [hu, core_faultHold_startTest, core_unready]
    have hself : u.core c = stoppedCore (s.core c) := (hcore c).trans (core_coreStopped_self s c r)
    have hready : (u.getF (readyMap c)).testBit (c.val % 64) = false := by
      rw [hu, getF_faultHold_startTest, getF_unready]
    rw [hself]
    refine ⟨rfl, rfl, rfl, rfl, rfl, rfl, ?_, rfl, hready, ?_, fun d hd => (hcore d).trans (core_coreStopped_ne s hd r)⟩
    · rw [hu]
      exact (State.mchks_setF ..).trans ((State.mchks_setF ..).trans (mchks_coreStopped s c r))
    · rw [hu]
      exact (State.mem_setF ..).trans ((State.mem_setF ..).trans (mem_coreStopped s c r))

end Sys2Proof.Proofs

namespace Sys2Proof.Proofs

open Sys2Proof Sys2Proof.Machine Sys2Proof.Laws

/-! # Integer arithmetic (R147 to R150, R178, R188 to R190)

## Condition codes -/

/-- R147: CC[0] is the carry, CC[1] the zero test, which a chained instruction takes together with the old CC[1]. -/
theorem ccCarry_eq (carry chain : Bool) (r : Word) (old : Nat) :
    ccCarry carry r chain old = b2n carry + 2 * b2n (r == 0 && (!chain || decide (old / 2 % 2 = 1))) := by
  have hzero : (r = 0 ∧ (!chain ∨ old / 2 % 2 = 1)) ↔ (r == 0 && (!chain || decide (old / 2 % 2 = 1))) = true := by simp
  unfold ccCarry
  simp only [hzero]
  cases r == 0 && (!chain || decide (old / 2 % 2 = 1)) <;> rfl

theorem ccSigned_eq (x y : Word) : ccSigned x y = if x = y then 0 else if x.toInt < y.toInt then 1 else 2 := by
  simp [ccSigned, ccCompare, BitVec.slt]

theorem ccUnsigned_eq (x y : Word) : ccUnsigned x y = if x = y then 0 else if x.toNat < y.toNat then 1 else 2 := by
  simp [ccUnsigned, ccCompare, BitVec.ult]

/-- R147: ADDS takes no carry in. -/
theorem addCarry_zero (x y : Word) : addCarry x y 0 = (x + y, decide (2 ^ 64 ≤ x.toNat + y.toNat)) := by simp [addCarry]

/-- R147: SUBS takes no borrow in. -/
theorem subBorrow_zero (x y : Word) : subBorrow x y 0 = (x - y, decide (x.toNat < y.toNat)) := by simp [subBorrow]

/-! ## What a base instruction retires with -/

section
variable {s : State} {c : CoreId} {k : BankId} {ps : List (Phys × Nat)} (hready : Ready s c k 4 ps) {i : Instr}
include hready

theorem exec_retired {body : BankId → State → IRes} {f : State → State} (hexec : exec i s = .next (baseInstr c body s))
    (hbody : body k (fetched s c k ps) = .done (f (fetched s c k ps))) (hf : AsksNone (f (fetched s c k ps)) c) :
    exec i s = .next (retired s c k 4 ps f) := exec_base_done hready hexec hf hbody

variable {d a b : Reg}

/-- R178, R189: an instruction of two operands writes Gd its result. -/
theorem exec_aluOp {f : Word → Word → Word} {v : Word} (hexec : exec i s = .next (aluOp c d a b f s))
    (hv : f (s.g c k a) (s.g c k b) = v) : exec i s = .next (retired s c k 4 ps fun u => u.setG c k d v) := by
  refine exec_retired hready hexec ?_ (asksNone_setG.2 (asksNone_fetched hready))
  rw [g_fetched, g_fetched, hv]

/-- R178, R188, R189: an instruction of one operand writes Gd its result. -/
theorem exec_aluOp1 {f : Word → Word} {v : Word} (hexec : exec i s = .next (aluOp1 c d a f s)) (hv : f (s.g c k a) = v) :
    exec i s = .next (retired s c k 4 ps fun u => u.setG c k d v) := by
  refine exec_retired hready hexec ?_ (asksNone_setG.2 (asksNone_fetched hready))
  rw [g_fetched, hv]

/-- R188, R189: a comparison writes CC alone. -/
theorem exec_cmpOp {y : BankId → State → Word} {f : Word → Word → Nat} {n : Nat}
    (hexec : exec i s = .next (cmpOp c a y f s)) (hn : f (s.g c k a) (y k (fetched s c k ps)) = n) :
    exec i s = .next (retired s c k 4 ps fun u => u.setCC c k n) := by
  refine exec_retired hready hexec ?_ (asksNone_setCC.2 (asksNone_fetched hready))
  rw [g_fetched, hn]

/-- R147: a carry instruction writes Gd its result, CC[0] its carry or borrow and CC[1] the zero test. -/
theorem exec_carryOp {chain : Bool} {f : Word → Word → Nat → Word × Bool} {v : Word} {carry zero : Bool}
    (hexec : exec i s = .next (carryOp c d a b chain f s))
    (hv : f (s.g c k a) (s.g c k b) (if chain then s.cc c k % 2 else 0) = (v, carry))
    (hzero : (v == 0 && (!chain || decide (s.cc c k / 2 % 2 = 1))) = zero) :
    exec i s = .next (retired s c k 4 ps fun u => (u.setG c k d v).setCC c k (b2n carry + 2 * b2n zero)) := by
  refine exec_retired hready hexec ?_ (asksNone_setCC.2 (asksNone_setG.2 (asksNone_fetched hready)))
  simp only [g_fetched, cc_fetched, hv, ccCarry_eq, hzero]

/-- R148: the halves of a product go to Gd and the register after it. -/
theorem exec_wideMul {f : Word → Word → Nat} {lo hi : Word} (hexec : exec i s = .next (wideMul c d a b f s))
    (hlo : BitVec.ofNat 64 (f (s.g c k a) (s.g c k b)) = lo)
    (hhi : BitVec.ofNat 64 (f (s.g c k a) (s.g c k b) / 2 ^ 64) = hi) :
    exec i s = .next (retired s c k 4 ps fun u => (u.setG c k d lo).setG c k (Reg.succ d) hi) := by
  refine exec_retired hready hexec ?_ (asksNone_setG.2 (asksNone_setG.2 (asksNone_fetched hready)))
  simp only [g_fetched, hlo, hhi]

/-- R149: a division by a divisor other than zero writes Gd its result. -/
theorem exec_divOp {f : Word → Word → Word} {v : Word} (hexec : exec i s = .next (divOp c d a b f s))
    (hne : s.g c k b ≠ 0) (hv : f (s.g c k a) (s.g c k b) = v) :
    exec i s = .next (retired s c k 4 ps fun u => u.setG c k d v) := by
  refine exec_retired hready hexec ?_ (asksNone_setG.2 (asksNone_fetched hready))
  rw [g_fetched, g_fetched, if_neg hne, hv]

/-- R149: a divisor of zero raises IDIV0. -/
theorem exec_divOp_zero {f : Word → Word → Word} (hexec : exec i s = .next (divOp c d a b f s)) (hzero : s.g c k b = 0) :
    exec i s = .next (takeTrap (fetched s c k ps) c k 0x23 0 (s.bank c k).pc) := by
  refine exec_trap hready hexec ?_
  rw [g_fetched, if_pos hzero]

/-- R150: the quotient and the remainder of a double word go to Gd and the register after it. -/
theorem exec_divwu_quotient (hne : s.g c k b ≠ 0) :
    let hi := (s.g c k (Reg.succ a)).toNat
    let y := (s.g c k b).toNat
    let x := hi * 2 ^ 64 + (s.g c k a).toNat
    exec (.divwu c d a b) s = .next (retired s c k 4 ps fun u =>
      ((u.setG c k d (BitVec.ofNat 64 (x / y))).setG c k (Reg.succ d) (BitVec.ofNat 64 (x % y))).setCC c k
        (if hi < y then 0 else 1)) := by
  intro hi y x
  refine exec_retired hready (exec_divwu ..) ?_
    (asksNone_setCC.2 (asksNone_setG.2 (asksNone_setG.2 (asksNone_fetched hready))))
  have hy : (s.g c k b).toNat ≠ 0 := fun h => hne (BitVec.eq_of_toNat_eq h)
  simp only [g_fetched]
  exact if_neg hy

theorem exec_divwu_zero (hzero : s.g c k b = 0) :
    exec (.divwu c d a b) s = .next (takeTrap (fetched s c k ps) c k 0x23 0 (s.bank c k).pc) := by
  refine exec_trap hready (exec_divwu ..) ?_
  rw [g_fetched s c k ps b, hzero]
  rfl

end

/-! ## The signed product (R148) and the immediate of LUI (R188) -/

theorem smul128_eq (x y : Word) : (smul128 x y : Int) = x.toInt * y.toInt % 2 ^ 128 :=
  Int.toNat_of_nonneg (Int.emod_nonneg _ (by decide))

theorem ofNat_smul128_low (x y : Word) : BitVec.ofNat 64 (smul128 x y) = BitVec.ofInt 64 (x.toInt * y.toInt) := by
  rw [← BitVec.ofInt_natCast, smul128_eq]
  exact BitVec.eq_of_toNat_eq (by simp only [BitVec.toNat_ofInt]; omega)

theorem ofNat_smul128_high (x y : Word) :
    BitVec.ofNat 64 (smul128 x y / 2 ^ 64) = BitVec.ofInt 64 (x.toInt * y.toInt / 2 ^ 64) := by
  rw [← BitVec.ofInt_natCast, Int.natCast_ediv, smul128_eq]
  exact BitVec.eq_of_toNat_eq (by simp only [BitVec.toNat_ofInt]; omega)

/-- R188: 65,536 times an immediate, as its bytes above two zero bytes. -/
theorem sextFrom_shiftLeft_16 (imm : BitVec 16) : sextFrom 32 (imm.setWidth 64 <<< 16) = (imm ++ 0#16).signExtend 64 := by
  have hlow : (imm.setWidth 64 <<< 16).setWidth 32 = imm ++ 0#16 := by
    refine BitVec.eq_of_toNat_eq ?_
    simp only [BitVec.toNat_setWidth, BitVec.toNat_shiftLeft, BitVec.toNat_append, BitVec.toNat_ofNat, Nat.shiftLeft_eq,
      Nat.zero_mod, Nat.or_zero]
    omega
  exact congrArg (BitVec.signExtend 64) hlow

/-- Settles O1: each instruction writes Gd a function of one operand or of two. -/
theorem integerResults : Obligations.IntegerResults := by
  intro s c k ps d a b sh imm hready x y wr
  exact ⟨exec_aluOp hready (exec_add ..) rfl, exec_aluOp hready (exec_sub ..) rfl, exec_aluOp hready (exec_and ..) rfl,
    exec_aluOp hready (exec_or ..) rfl, exec_aluOp hready (exec_xor ..) rfl, exec_aluOp hready (exec_andn ..) rfl,
    exec_aluOp hready (exec_sll ..) rfl, exec_aluOp hready (exec_srl ..) rfl, exec_aluOp hready (exec_sra ..) rfl,
    exec_aluOp1 hready (exec_slli ..) rfl, exec_aluOp1 hready (exec_srli ..) rfl, exec_aluOp1 hready (exec_srai ..) rfl,
    exec_aluOp1 hready (exec_sextb ..) rfl, exec_aluOp1 hready (exec_sexth ..) rfl, exec_aluOp1 hready (exec_sextw ..) rfl,
    exec_aluOp hready (exec_mul ..) rfl, exec_aluOp1 hready (exec_addi ..) rfl, exec_aluOp1 hready (exec_andi ..) rfl,
    exec_aluOp1 hready (exec_ori ..) rfl, exec_aluOp1 hready (exec_xori ..) rfl,
    exec_aluOp1 hready (exec_lui ..) (sextFrom_shiftLeft_16 ..)⟩

/-- Settles O2: the carry instructions by their result, carry and zero test; the comparisons by the CC that they write. -/
theorem carryAndCompare : Obligations.CarryAndCompare := by
  intro s c k ps d a b imm hready x y cin z out cc i n
  exact ⟨exec_carryOp hready (exec_adds ..) (addCarry_zero ..) (Bool.and_true _),
    exec_carryOp hready (exec_addc ..) rfl rfl,
    exec_carryOp hready (exec_subs ..) (subBorrow_zero ..) (Bool.and_true _),
    exec_carryOp hready (exec_subb ..) rfl rfl,
    exec_cmpOp hready (exec_cmp ..) ((ccSigned_eq ..).trans (by rw [g_fetched])),
    exec_cmpOp hready (exec_cmpu ..) ((ccUnsigned_eq ..).trans (by rw [g_fetched])),
    exec_cmpOp hready (exec_cmpi ..) (ccSigned_eq ..), exec_cmpOp hready (exec_cmpui ..) (ccUnsigned_eq ..)⟩

/-- Settles O3: the halves of a product, and a division by its divisor, other than zero or zero. -/
theorem multiplyDivide : Obligations.MultiplyDivide := by
  intro s c k ps d a b hready x y d1 a1 pair wr wide
  exact ⟨exec_wideMul hready (exec_mulwu ..) rfl rfl,
    exec_wideMul hready (exec_mulws ..) (ofNat_smul128_low ..) (ofNat_smul128_high ..),
    fun hne => ⟨exec_divOp hready (exec_divu ..) hne rfl, exec_divOp hready (exec_remu ..) hne rfl,
      exec_divOp hready (exec_divs ..) hne rfl, exec_divOp hready (exec_rems ..) hne rfl, exec_divwu_quotient hready hne⟩,
    fun hzero => ⟨exec_divOp_zero hready (exec_divu ..) hzero, exec_divOp_zero hready (exec_divs ..) hzero,
      exec_divOp_zero hready (exec_remu ..) hzero, exec_divOp_zero hready (exec_rems ..) hzero, exec_divwu_zero hready hzero⟩⟩

end Sys2Proof.Proofs

namespace Sys2Proof.Proofs

open Sys2Proof Sys2Proof.Machine Sys2Proof.Laws

/-! # The decimal formats (R132 to R134, R144)

## Digits -/

theorem digitsVal_concat (ds : List Nat) (d : Nat) :
    digitsVal (ds ++ [d]) = (digitsVal ds).bind fun v => if d ≤ 9 then some (10 * v + d) else none := by
  unfold digitsVal
  rw [List.foldl_append]
  rfl

theorem digitsVal_digitsOf (n m : Nat) : digitsVal (digitsOf n m) = some (m % 10 ^ n) := by
  induction n generalizing m with
  | zero => rw [pow_zero, Nat.mod_one]; rfl
  | succ n ih =>
    have hdigit : m % 10 ≤ 9 := by omega
    rw [digitsOf, digitsVal_concat, ih, Option.bind_some, if_pos hdigit, pow_succ', Nat.mod_mul, Nat.add_comm]

theorem length_digitsOf (n m : Nat) : (digitsOf n m).length = n := by
  induction n generalizing m with
  | zero => rfl
  | succ n ih => rw [digitsOf, List.length_append, ih]; rfl

theorem le_nine_of_mem_digitsOf {n m d : Nat} (h : d ∈ digitsOf n m) : d ≤ 9 := by
  induction n generalizing m with
  | zero => exact absurd h List.not_mem_nil
  | succ n ih =>
    rcases List.mem_append.1 h with h | h
    · exact ih h
    · rw [List.mem_singleton.1 h]; omega

/-- A digit above 9 makes every number that holds it invalid. -/
theorem digitsVal_eq_none {ds : List Nat} {d : Nat} (hd : d ∈ ds) (h : 9 < d) : digitsVal ds = none := by
  induction ds using List.reverseRecOn with
  | nil => exact absurd hd List.not_mem_nil
  | append_singleton ds e ih =>
    rw [digitsVal_concat]
    rcases List.mem_append.1 hd with hd | hd
    · rw [ih hd]; rfl
    · rw [← List.mem_singleton.1 hd, Option.bind_eq_none_iff]
      exact fun _ _ => if_neg (by omega)

/-! ## Nibbles -/

theorem nibbles_append (bs cs : List Byte) : nibbles (bs ++ cs) = nibbles bs ++ nibbles cs := List.flatMap_append

theorem nibbles_singleton (b : Byte) : nibbles [b] = [b.toNat / 16, b.toNat % 16] := rfl

theorem toNat_byte_of_nibbles {a b : Nat} (ha : a < 16) (hb : b < 16) : (byte (16 * a + b)).toNat = 16 * a + b := by
  rw [BitVec.toNat_ofNat]
  omega

theorem nibbles_packNibbles : ∀ {l : List Nat} {n : Nat}, l.length = 2 * n → (∀ x ∈ l, x < 16) →
    nibbles (packNibbles l) = l
  | [], _, _, _ => rfl
  | [_], n, hlen, _ => absurd hlen (by simp; omega)
  | a :: b :: t, n, hlen, hlt => by
    have ha : a < 16 := hlt a (by simp)
    have hb : b < 16 := hlt b (by simp)
    have ht : nibbles (packNibbles t) = t :=
      nibbles_packNibbles (n := n - 1) (by simp at hlen; omega) fun x hx => hlt x (by simp [hx])
    have hhigh : (16 * a + b) / 16 = a := by omega
    have hlow : (16 * a + b) % 16 = b := by omega
    rw [packNibbles, ← List.singleton_append, nibbles_append, nibbles_singleton, ht, toNat_byte_of_nibbles ha hb, hhigh, hlow]
    rfl

theorem length_packNibbles : ∀ {l : List Nat} {n : Nat}, l.length = 2 * n → (packNibbles l).length = n
  | [], n, hlen => by simp at hlen; exact hlen.symm
  | [_], n, hlen => absurd hlen (by simp; omega)
  | _ :: _ :: t, n, hlen => by
    have ht := length_packNibbles (l := t) (n := n - 1) (by simp at hlen; omega)
    have hpos : 0 < n := by simp at hlen; omega
    rw [packNibbles, List.length_cons, ht, Nat.sub_add_cancel hpos]

/-- The last nibble of an operand is the low half of its last byte. -/
theorem getLastD_nibbles (bs : List Byte) : (nibbles bs).getLastD 0 = (bs.getLastD 0).toNat % 16 := by
  induction bs using List.reverseRecOn with
  | nil => rfl
  | append_singleton bs b => simp [nibbles_append, nibbles_singleton]

/-! ## Packed operands (R132, R133) -/

theorem readPacked_eq_some {bs : List Byte} {ds : List Nat} {sign m : Nat} {neg : Bool} (hbs : nibbles bs = ds ++ [sign])
    (hds : digitsVal ds = some m) (hsign : packedSign sign = some neg) : readPacked bs = some { neg := neg, mag := m } := by
  unfold readPacked
  simp only [hbs, List.dropLast_concat, List.getLastD_concat, hds, hsign]

theorem readPacked_eq_none_of_digits {bs : List Byte} (h : digitsVal (nibbles bs).dropLast = none) :
    readPacked bs = none := by
  unfold readPacked
  simp only [h]

theorem readPacked_eq_none_of_sign {bs : List Byte} (h : packedSign ((nibbles bs).getLastD 0) = none) :
    readPacked bs = none := by
  unfold readPacked
  simp only [h]
  cases digitsVal (nibbles bs).dropLast <;> rfl

/-- R132: the low half of the last byte is no sign below 0xA. -/
theorem packedSign_eq_none {n : Nat} (h : n < 0xA) : packedSign n = none := by
  unfold packedSign
  rw [if_neg (by omega), if_neg (by omega)]

theorem readPacked_no_sign {bs : List Byte} (h : (bs.getLastD 0).toNat % 16 < 0xA) : readPacked bs = none :=
  readPacked_eq_none_of_sign (packedSign_eq_none (by rwa [getLastD_nibbles]))

/-- R132: the high half of a byte is a digit, wherever the byte stands. -/
theorem readPacked_no_digit (bs rest : List Byte) {x : Byte} (h : 0xA0 ≤ x.toNat) : readPacked (bs ++ x :: rest) = none := by
  refine readPacked_eq_none_of_digits (digitsVal_eq_none (d := x.toNat / 16) ?_ (by omega))
  have hx : nibbles (x :: rest) = x.toNat / 16 :: x.toNat % 16 :: nibbles rest := rfl
  rw [nibbles_append, hx, List.dropLast_append_of_ne_nil (List.cons_ne_nil _ _), List.dropLast_cons_cons]
  exact List.mem_append_right _ List.mem_cons_self

section
variable {n : Nat} (keepz : Bool) (d : Dec) (hn : 0 < n)

/-- R133: whether a packed result of `n` bytes is stored as negative. -/
def storedNeg (n : Nat) (keepz : Bool) (d : Dec) : Bool := d.neg && (decide (d.mag % 10 ^ (2 * n - 1) ≠ 0) || keepz)

/-- The preferred sign (R133). -/
def preferredSign (neg : Bool) : Nat := if neg then 0xD else 0xC

theorem packedSign_preferredSign (neg : Bool) : packedSign (preferredSign neg) = some neg := by cases neg <;> rfl

theorem preferredSign_lt (neg : Bool) : preferredSign neg < 16 := by cases neg <;> decide

/-- The nibbles of a packed result (R133). -/
def packedNibbles (n : Nat) (keepz : Bool) (d : Dec) : List Nat :=
  digitsOf (2 * n - 1) (d.mag % 10 ^ (2 * n - 1)) ++ [preferredSign (storedNeg n keepz d)]

theorem writePacked_eq : writePacked n keepz d = packNibbles (packedNibbles n keepz d) := rfl

include hn

theorem length_packedNibbles : (packedNibbles n keepz d).length = 2 * n := by
  rw [packedNibbles, List.length_append, length_digitsOf, List.length_singleton]
  omega

theorem length_writePacked : (writePacked n keepz d).length = n := by
  rw [writePacked_eq, length_packNibbles (length_packedNibbles keepz d hn)]

theorem nibbles_writePacked : nibbles (writePacked n keepz d) = packedNibbles n keepz d := by
  rw [writePacked_eq]
  refine nibbles_packNibbles (length_packedNibbles keepz d hn) fun x hx => ?_
  rcases List.mem_append.1 hx with hx | hx
  · have := le_nine_of_mem_digitsOf hx; omega
  · rw [List.mem_singleton.1 hx]
    exact preferredSign_lt _

theorem readPacked_writePacked : readPacked (writePacked n keepz d) =
    some { neg := storedNeg n keepz d, mag := d.mag % 10 ^ (2 * n - 1) } := by
  refine readPacked_eq_some (nibbles_writePacked keepz d hn) ?_ (packedSign_preferredSign _)
  rw [digitsVal_digitsOf, Nat.mod_mod]

theorem sign_writePacked :
    ((writePacked n keepz d).getLastD 0).toNat % 16 = preferredSign (storedNeg n keepz d) := by
  rw [← getLastD_nibbles, nibbles_writePacked keepz d hn, packedNibbles, List.getLastD_concat]

end

/-! ## Zoned operands (R134, R144) -/

/-- The zone of the last byte of a zoned result with its sign in it (R144). -/
def signZone (zone neg : Bool) : Nat := if zone then (if neg then 0x7 else 0x3) else (if neg then 0xD else 0xC)

theorem zonedSign_signZone (zone neg : Bool) : zonedSign (signZone zone neg) = some neg := by
  cases zone <;> cases neg <;> rfl

theorem signZone_lt (zone neg : Bool) : signZone zone neg < 16 := by cases zone <;> cases neg <;> decide

section
variable {z x : Nat} (hz : z < 16) (hx : x ≤ 9)
include hz hx

theorem mod_byte_zone : (byte (16 * z + x)).toNat % 16 = x := by
  rw [toNat_byte_of_nibbles hz (by omega)]
  omega

theorem div_byte_zone : (byte (16 * z + x)).toNat / 16 = z := by
  rw [toNat_byte_of_nibbles hz (by omega)]
  omega

end

section
variable (n : Nat) (zone : Bool) (d : Dec)

/-- The digits of a zoned result of `n + 1` bytes, each under the zone of ZONE, the last with the sign in its zone (R144). -/
theorem writeZoned_succ : writeZoned (n + 1) zone false d =
    ((digitsOf n (d.mag % 10 ^ (n + 1) / 10)).map fun x => byte (16 * (if zone then 0x3 else 0xF) + x)) ++
      [byte (16 * signZone zone (d.neg && decide (d.mag % 10 ^ (n + 1) ≠ 0)) + d.mag % 10 ^ (n + 1) % 10)] := by
  unfold writeZoned
  simp only [digitsOf, List.dropLast_concat, List.getLastD_concat]
  rfl

theorem length_writeZoned : (writeZoned (n + 1) zone false d).length = n + 1 := by
  rw [writeZoned_succ, List.length_append, List.length_map, length_digitsOf, List.length_singleton]

theorem digits_writeZoned :
    (writeZoned (n + 1) zone false d).map (fun b => b.toNat % 16) = digitsOf (n + 1) (d.mag % 10 ^ (n + 1)) := by
  rw [writeZoned_succ, List.map_append, List.map_map, digitsOf]
  refine congrArg₂ (· ++ ·) ?upper ?last
  case upper =>
    refine (List.map_congr_left fun x hx => ?_).trans (List.map_id _)
    exact mod_byte_zone (by cases zone <;> decide) (le_nine_of_mem_digitsOf hx)
  case last => exact congrArg (fun x => [x]) (mod_byte_zone (signZone_lt ..) (by omega))

theorem zone_writeZoned : ((writeZoned (n + 1) zone false d).getLastD 0).toNat / 16 =
    signZone zone (d.neg && decide (d.mag % 10 ^ (n + 1) ≠ 0)) := by
  rw [writeZoned_succ, List.getLastD_concat]
  exact div_byte_zone (signZone_lt ..) (by omega)

theorem readZoned_writeZoned : readZoned (writeZoned (n + 1) zone false d) =
    some { neg := d.neg && decide (d.mag % 10 ^ (n + 1) ≠ 0), mag := d.mag % 10 ^ (n + 1) } := by
  unfold readZoned
  simp only [digits_writeZoned, zone_writeZoned, digitsVal_digitsOf, zonedSign_signZone, Nat.mod_mod]

end

end Sys2Proof.Proofs

namespace Sys2Proof.Proofs

open Sys2Proof Sys2Proof.Machine Sys2Proof.Laws

/-! # Decimal arithmetic, copies and conversions (R136 to R145)

## Results -/

theorem ofInt_val (d : Dec) : Dec.ofInt d.val = { neg := d.neg && decide (d.mag ≠ 0), mag := d.mag } := by
  obtain ⟨neg, mag⟩ := d
  cases neg
  · simp [Dec.ofInt, Dec.val]
  · simp [Dec.ofInt, Dec.val, Nat.pos_iff_ne_zero]

/-- A negative zero is stored and reported as zero (R133, R140). -/
theorem packEnd_ofInt_val (c : CoreId) (k : BankId) (o : DOp) (p : List (Phys × Nat)) (d : Dec) (w : State) :
    packEnd c k o p false (.ofInt d.val) w = packEnd c k o p false d w := by
  by_cases hzero : d.mag = 0
  · simp [ofInt_val, packEnd, writePacked, ccDec, ccDecimal, hzero]
  · simp [ofInt_val, hzero]

theorem decFits_ofInt (w : State) (c : CoreId) (k : BankId) (r : Int) :
    decFits w c k (.ofInt r) = w.setCC c k (if r = 0 then 0 else if r < 0 then 1 else 2) := by
  simp [decFits, Dec.ofInt]

/-- R142: the quotient truncates toward zero. -/
theorem ddivRes_eq {x y : Dec} (h : y.mag ≠ 0) : ∃ q : Dec, ddivRes x y = .value q ∧ q.val = x.val.tdiv y.val := by
  refine ⟨_, if_neg h, ?_⟩
  obtain ⟨xneg, xmag⟩ := x
  obtain ⟨yneg, ymag⟩ := y
  cases xneg <;> cases yneg <;> simp [Dec.val, Int.neg_tdiv, Int.tdiv_neg]

/-- R142: the remainder takes the sign of the dividend. -/
theorem dmodRes_eq {x y : Dec} (h : y.mag ≠ 0) : ∃ q : Dec, dmodRes x y = .value q ∧ q.val = x.val.tmod y.val := by
  refine ⟨_, if_neg h, ?_⟩
  obtain ⟨xneg, xmag⟩ := x
  obtain ⟨yneg, ymag⟩ := y
  cases xneg <;> cases yneg <;> simp [Dec.val, Int.neg_tmod, Int.tmod_neg, Int.tmod_eq_emod_of_nonneg]

theorem roundDigits_eq (drnd m k : Nat) :
    let p := 10 ^ k
    let q := m / p
    let r := m % p
    roundDigits drnd m k = match drnd with
      | 0 => q
      | 1 => if p ≤ 2 * r then q + 1 else q
      | 2 => if p < 2 * r ∨ (2 * r = p ∧ q % 2 = 1) then q + 1 else q
      | _ => if r ≠ 0 then q + 1 else q := by
  intro p q r
  unfold roundDigits
  split <;> simp [p, q, r]

/-- R145: a value is outside the signed 64-bit range by its magnitude and sign. -/
theorem outside_int64_iff (d : Dec) :
    (d.val < -(2 ^ 63 : Int) ∨ (2 ^ 63 : Int) ≤ d.val) ↔ (if d.neg then 2 ^ 63 + 1 else 2 ^ 63) ≤ d.mag := by
  obtain ⟨neg, mag⟩ := d
  cases neg
  · simp only [Dec.val, Bool.false_eq_true, if_false]
    omega
  · simp only [Dec.val, if_true]
    omega

/-! ## Operands -/

section
variable {a b : MOp}

theorem legalP_eq_true (ha : a.lf.toNat ≤ 31) : legalP a = true := decide_eq_true ha

theorem legalZ_eq_true (ha : a.lf.toNat ≤ 62) : legalZ a = true := decide_eq_true ha

theorem legal_packed_packed (ha : a.lf.toNat ≤ 31) (hb : b.lf.toNat ≤ 31) : (legalP a && legalP b) = true :=
  Bool.and_eq_true_iff.2 ⟨legalP_eq_true ha, legalP_eq_true hb⟩

/-- R184: DSHF has no shift of −64. -/
theorem legal_dshf (ha : a.lf.toNat ≤ 31) (hb : b.lf.toNat ≤ 31) {n : BitVec 7} (hlisted : n ≠ 0x40#7) :
    (legalP a && legalP b && decide (n ≠ 0x40#7)) = true :=
  Bool.and_eq_true_iff.2 ⟨legal_packed_packed ha hb, decide_eq_true hlisted⟩

end

section
variable (s : State) (c : CoreId) (k : BankId) (ps : List (Phys × Nat))

theorem dop_fetched (m : MOp) (use : Use) (zoned : Bool) :
    dop (fetched s c k ps) c k m use zoned = dop s c k m use zoned := by
  unfold dop
  rw [g_fetched]

theorem dctl_fetched : ((fetched s c k ps).bank c k).dctl = (s.bank c k).dctl := by rw [bank_fetched, unparted_dctl]

end

/-! ## Arithmetic on two packed operands (R136 to R142) -/

section
variable {s : State} {c : CoreId} {k : BankId} {ps pa pb : List (Phys × Nat)} (hready : Ready s c k 8 ps)
  {a b : MOp} (ha : a.lf.toNat ≤ 31) (hb : b.lf.toNat ≤ 31) {oy : Option Dec} {x y : Dec} {v1 v2 : State}

include hready ha hb

section
variable (hcheck : checkOps (fetched s c k ps) c k [dop s c k a .both false, dop s c k b .src false] = .ok [pa, pb])
  {i : Instr} {f : Dec → Dec → DRes}
  (hexec : exec i s = .next (longInstr c (legalP a && legalP b) (decBody c a b f) s))
include hcheck hexec

section
variable (hx : readDop (fetched s c k ps) c (dop s c k a .both false) pa = (some x, v1))
  (hy : readDop v1 c (dop s c k b .src false) pb = (some y, v2))
include hx hy

theorem decBody_value {r : Dec} (hf : f x y = .value r) :
    LongBody s c k ps i (packEnd c k (dop s c k a .both false) pa false r v2) := by
  refine longBody_of_exec hready (legal_packed_packed ha hb) hexec ?_
  unfold decBody
  simp only [dop_fetched, hcheck, List.getD_cons_zero, List.getD_cons_succ, hx, hy, hf]

/-- R142: a divisor of zero raises DDIV0. -/
theorem decBody_div0 (hf : f x y = .div0) :
    LongBody s c k ps i (.trap v2 0x21 (BitVec.ofNat 64 (dop s c k b .src false).addr)) := by
  refine longBody_of_exec hready (legal_packed_packed ha hb) hexec ?_
  unfold decBody
  simp only [dop_fetched, hcheck, List.getD_cons_zero, List.getD_cons_succ, hx, hy, hf]

end

/-- R137: an invalid operand raises DDATA, operand 1 before operand 2. -/
theorem decBody_invalid_first (hx : readDop (fetched s c k ps) c (dop s c k a .both false) pa = (none, v1))
    (hy : readDop v1 c (dop s c k b .src false) pb = (oy, v2)) :
    LongBody s c k ps i (.trap v2 0x20 (BitVec.ofNat 64 (dop s c k a .both false).addr)) := by
  refine longBody_of_exec hready (legal_packed_packed ha hb) hexec ?_
  unfold decBody
  simp only [dop_fetched, hcheck, List.getD_cons_zero, List.getD_cons_succ, hx, hy]

theorem decBody_invalid_second (hx : readDop (fetched s c k ps) c (dop s c k a .both false) pa = (some x, v1))
    (hy : readDop v1 c (dop s c k b .src false) pb = (none, v2)) :
    LongBody s c k ps i (.trap v2 0x20 (BitVec.ofNat 64 (dop s c k b .src false).addr)) := by
  refine longBody_of_exec hready (legal_packed_packed ha hb) hexec ?_
  unfold decBody
  simp only [dop_fetched, hcheck, List.getD_cons_zero, List.getD_cons_succ, hx, hy]

end

theorem dcmp_value
    (hcheck : checkOps (fetched s c k ps) c k [dop s c k a .src false, dop s c k b .src false] = .ok [pa, pb])
    (hx : readDop (fetched s c k ps) c (dop s c k a .src false) pa = (some x, v1))
    (hy : readDop v1 c (dop s c k b .src false) pb = (some y, v2)) :
    LongBody s c k ps (.dcmp c a b) (.done (v2.setCC c k (ccInt x.val y.val))) := by
  refine longBody_of_exec hready (legal_packed_packed ha hb) (exec_dcmp ..) ?_
  simp only [dop_fetched, hcheck, List.getD_cons_zero, List.getD_cons_succ, hx, hy]

end

/-! ## Copies and conversions (R143 to R145) -/

section
variable {s : State} {c : CoreId} {k : BankId} {ps pa pb : List (Phys × Nat)} (hready : Ready s c k 8 ps)
  {a b : MOp} {y : Dec} {v : State}

include hready

theorem decCopyBody_value {legal zb : Bool} {f : Word → Dec → Dec} {keep : Word → Dec → Bool} {i : Instr} {keepz : Bool}
    {r : Dec} (hlegal : legal = true) (hexec : exec i s = .next (longInstr c legal (decCopyBody c a b zb f keep) s))
    (hcheck : checkOps (fetched s c k ps) c k [dop s c k a .dst false, dop s c k b .src zb] = .ok [pa, pb])
    (hread : readDop (fetched s c k ps) c (dop s c k b .src zb) pb = (some y, v))
    (hf : f (s.bank c k).dctl y = r) (hkeep : keep (s.bank c k).dctl y = keepz) :
    LongBody s c k ps i (packEnd c k (dop s c k a .dst false) pa keepz r v) := by
  refine longBody_of_exec hready hlegal hexec ?_
  unfold decCopyBody
  simp only [dop_fetched, dctl_fetched, hcheck, List.getD_cons_zero, List.getD_cons_succ, hread, hf, hkeep]

section
variable {n : BitVec 7} (hlisted : n ≠ 0x40#7) (ha : a.lf.toNat ≤ 31) (hb : b.lf.toNat ≤ 31)
  (hcheck : checkOps (fetched s c k ps) c k [dop s c k a .dst false, dop s c k b .src false] = .ok [pa, pb])
  (hread : readDop (fetched s c k ps) c (dop s c k b .src false) pb = (some y, v))
include hlisted ha hb hcheck hread

/-- R143: a shift to the left multiplies. -/
theorem dshf_value_left (hn : 0 ≤ n.toInt) : LongBody s c k ps (.dshf c a b n)
    (packEnd c k (dop s c k a .dst false) pa false { y with mag := y.mag * 10 ^ n.toInt.toNat } v) := by
  have hnat : n.toInt.toNat = n.toNat := by
    have hlt := n.isLt
    have hint := BitVec.toInt_eq_toNat_cond n
    split at hint
    · omega
    · omega
  refine decCopyBody_value hready (legal_dshf ha hb hlisted) (exec_dshf ..) hcheck hread
    ((if_neg (not_lt.2 hn)).trans ?_) rfl
  rw [hnat]

/-- R143: a shift to the right rounds as DRND selects. -/
theorem dshf_value_right (hn : n.toInt < 0) : LongBody s c k ps (.dshf c a b n)
    (packEnd c k (dop s c k a .dst false) pa false
      { y with mag := roundDigits (dRnd (s.bank c k).dctl) y.mag (-n.toInt).toNat } v) :=
  decCopyBody_value hready (legal_dshf ha hb hlisted) (exec_dshf ..) hcheck hread (if_pos hn) rfl

end

theorem unpkz_value (ha : a.lf.toNat ≤ 31) (hb : b.lf.toNat ≤ 62)
    (hcheck : checkOps (fetched s c k ps) c k [dop s c k b .dst true, dop s c k a .src false] = .ok [pb, pa])
    (hread : readDop (fetched s c k ps) c (dop s c k a .src false) pa = (some y, v)) :
    LongBody s c k ps (.unpkz c b a) (decEnd c k (ccDec (decide (10 ^ (b.lf.toNat + 1) ≤ y.mag)) y)
      (decide (10 ^ (b.lf.toNat + 1) ≤ y.mag)) (storeParts v c k pb
        (writeZoned (b.lf.toNat + 1) (dZone (s.bank c k).dctl) (dZsign (s.bank c k).dctl) y))) := by
  refine longBody_of_exec hready (Bool.and_eq_true_iff.2 ⟨legalZ_eq_true hb, legalP_eq_true ha⟩) (exec_unpkz ..) ?_
  simp only [dop_fetched, dctl_fetched, hcheck, List.getD_cons_zero, List.getD_cons_succ, hread]
  rfl

theorem cvbp_value {g : Reg} (ha : a.lf.toNat ≤ 31)
    (hcheck : checkOps (fetched s c k ps) c k [dop s c k a .dst false] = .ok [pa]) :
    LongBody s c k ps (.cvbp c a g)
      (packEnd c k (dop s c k a .dst false) pa false (.ofInt (s.g c k g).toInt) (fetched s c k ps)) := by
  refine longBody_of_exec hready (legalP_eq_true ha) (exec_cvbp ..) ?_
  simp only [dop_fetched, g_fetched, hcheck, List.getD_cons_zero]

section
variable (ha : a.lf.toNat ≤ 31)
  (hcheck : checkOps (fetched s c k ps) c k [dop s c k a .src false] = .ok [pa])
  (hread : readDop (fetched s c k ps) c (dop s c k a .src false) pa = (some y, v))
include ha hcheck hread

theorem dtst_value : LongBody s c k ps (.dtst c a) (.done (decFits v c k y)) := by
  refine longBody_of_exec hready (legalP_eq_true ha) (exec_dtst ..) ?_
  simp only [dop_fetched, hcheck, List.getD_cons_zero, hread, ccDec_false]
  rfl

theorem cvpb_value (d : Reg) :
    let limit := if y.neg then 2 ^ 63 + 1 else 2 ^ 63
    LongBody s c k ps (.cvpb c d a) (decEnd c k (ccDec (decide (limit ≤ y.mag)) y) (decide (limit ≤ y.mag))
      (v.setG c k d (BitVec.ofInt 64 y.val))) := by
  refine longBody_of_exec hready (legalP_eq_true ha) (exec_cvpb ..) ?_
  simp only [dop_fetched, hcheck, List.getD_cons_zero, hread, outside_int64_iff]

end

end

/-! ## The ends of a stored result (R138, R139) -/

/-- A packed result overflows by the digits of its operand. -/
theorem decEnds_packEnd {s : State} {c : CoreId} {k : BankId} {ps pa : List (Phys × Nat)} {i : Instr} {o : DOp} {keepz : Bool}
    {r : Dec} {w : State} (h : LongBody s c k ps i (packEnd c k o pa keepz r w)) :
    DecEnds s c k i (10 ^ (2 * o.len - 1)) r (storeParts w c k pa (writePacked o.len keepz r)) := decEnds_of_body h

/-- Settles O21: the formats read back what they store; arithmetic by whether its operands are valid and its divisor is zero. -/
theorem decimalArithmetic : Obligations.DecimalArithmetic := by
  refine ⟨⟨?packed, ?zoned, fun bs rest x hx => readPacked_no_digit bs rest hx, fun bs hsign _ => readPacked_no_sign hsign⟩,
    ?arithmetic⟩
  case packed =>
    intro n keepz d hn m
    exact ⟨length_writePacked keepz d hn, readPacked_writePacked keepz d hn, sign_writePacked keepz d hn⟩
  case zoned =>
    intro n zone d hn m
    obtain ⟨n, rfl⟩ := Nat.exists_eq_succ_of_ne_zero (Nat.ne_of_gt hn)
    exact ⟨length_writeZoned n zone d, readZoned_writeZoned n zone d⟩
  case arithmetic =>
    intro s c k ps pa pb a b v1 v2 ox oy hready ha hb u opnd n pc rd five ret traps result
    have result_of_packEnd (i : Instr) (r : Int)
        (h : LongBody s c k ps i (packEnd c k (dop s c k a .both false) pa false (.ofInt r) v2)) : result i r := by
      have hends := decEnds_packEnd h
      unfold DecEnds at hends
      rwa [decFits_ofInt] at hends
    refine ⟨fun hcheck ⟨hx, hy⟩ => ⟨?valid, ?invalidFirst, ?invalidSecond⟩, fun x y hcheck hx hy => ?dcmp⟩
    case valid =>
      rintro x y rfl rfl
      have hvalue {i : Instr} {f : Dec → Dec → DRes} {r : Dec} :=
        decBody_value (i := i) (f := f) (r := r) hready ha hb hcheck (hx := hx) (hy := hy)
      have hdiv0 {i : Instr} {f : Dec → Dec → DRes}
          (hexec : exec i s = .next (longInstr c (legalP a && legalP b) (decBody c a b f) s)) (hf : f x y = .div0) :
          traps i 0x21 (opnd b .src).addr v2 :=
        fun hw => (decBody_div0 hready ha hb hcheck hexec hx hy hf).trap hw rfl
      refine ⟨result_of_packEnd _ _ (hvalue (exec_dadd ..) rfl), result_of_packEnd _ _ (hvalue (exec_dsub ..) rfl),
        result_of_packEnd _ _ (hvalue (exec_dmul ..) rfl), fun hne => ⟨?ddiv, ?dmod⟩,
        fun hzero => ⟨hdiv0 (exec_ddiv ..) (if_pos hzero), hdiv0 (exec_dmod ..) (if_pos hzero)⟩⟩
      case ddiv =>
        obtain ⟨q, hq, hval⟩ := ddivRes_eq (x := x) hne
        refine result_of_packEnd _ _ ?_
        rw [← hval, packEnd_ofInt_val]
        exact hvalue (exec_ddiv ..) hq
      case dmod =>
        obtain ⟨q, hq, hval⟩ := dmodRes_eq (x := x) hne
        refine result_of_packEnd _ _ ?_
        rw [← hval, packEnd_ofInt_val]
        exact hvalue (exec_dmod ..) hq
    case invalidFirst =>
      rintro rfl
      have htraps {i : Instr} {f : Dec → Dec → DRes}
          (hexec : exec i s = .next (longInstr c (legalP a && legalP b) (decBody c a b f) s)) :
          traps i 0x20 (opnd a .both).addr v2 :=
        fun hw => (decBody_invalid_first hready ha hb hcheck hexec hx hy).trap hw rfl
      exact ⟨htraps (exec_dadd ..), htraps (exec_dsub ..), htraps (exec_dmul ..), htraps (exec_ddiv ..),
        htraps (exec_dmod ..)⟩
    case invalidSecond =>
      rintro hsome rfl
      obtain ⟨x, rfl⟩ := Option.isSome_iff_exists.1 hsome
      have htraps {i : Instr} {f : Dec → Dec → DRes}
          (hexec : exec i s = .next (longInstr c (legalP a && legalP b) (decBody c a b f) s)) :
          traps i 0x20 (opnd b .src).addr v2 :=
        fun hw => (decBody_invalid_second hready ha hb hcheck hexec hx hy).trap hw rfl
      exact ⟨htraps (exec_dadd ..), htraps (exec_dsub ..), htraps (exec_dmul ..), htraps (exec_ddiv ..),
        htraps (exec_dmod ..)⟩
    case dcmp =>
      rw [← ccInt_eq]
      exact fun hw => (dcmp_value hready ha hb hcheck hx hy).done hw

/-- Settles O22: each copy and conversion through the value that its body stores and the limit of its destination. -/
theorem decimalCopies : Obligations.DecimalCopies := by
  intro s c k ps pa pb d g a b n y v hready ha u opnd pc ctl ret ends packs p q r rounded
  refine ⟨fun hb hcheck hread => ⟨?dcpy, fun hn => ?dshfLeft, fun hn hlisted => ?dshfRight⟩, fun hb hcheck hread => ?packz,
    fun hb hcheck hread => ?unpkz, fun hcheck hread => ⟨?dtst, ?cvpb⟩, fun hcheck => ?cvbp⟩
  case dcpy =>
    exact decEnds_packEnd (decCopyBody_value hready (legal_packed_packed ha hb) (exec_dcpy ..) hcheck hread rfl rfl)
  case dshfLeft =>
    have hlisted : n ≠ 0x40#7 := fun h => absurd hn (by rw [h]; decide)
    exact decEnds_packEnd (dshf_value_left hready hlisted ha hb hcheck hread hn)
  case dshfRight =>
    have hround : roundDigits (dRnd ctl) y.mag (-n.toInt).toNat = rounded := roundDigits_eq ..
    rw [← hround]
    exact decEnds_packEnd (dshf_value_right hready hlisted ha hb hcheck hread hn)
  case packz =>
    exact decEnds_packEnd (decCopyBody_value hready (Bool.and_eq_true_iff.2 ⟨legalP_eq_true ha, legalZ_eq_true hb⟩)
      (exec_packz ..) hcheck hread rfl rfl)
  case unpkz => exact decEnds_of_body (unpkz_value hready ha hb hcheck hread)
  case dtst => exact fun hw => (dtst_value hready ha hcheck hread).done hw
  case cvpb => exact decEnds_of_body (cvpb_value hready ha hcheck hread d)
  case cvbp => exact decEnds_packEnd (cvbp_value hready ha hcheck)

end Sys2Proof.Proofs

namespace Sys2Proof.Proofs

open Sys2Proof Sys2Proof.Machine Sys2Proof.Laws

/-! # String instructions (R161 to R166)

## The frame of a string instruction -/

theorem w64_wrap64 (a : Nat) : w64 (wrap64 a) = w64 a :=
  BitVec.eq_of_toNat_eq (by simp [w64, wrap64])

theorem wrap64_toNat (x : Word) : wrap64 x.toNat = x.toNat := Nat.mod_eq_of_lt x.isLt

theorem le_pageLeft {a n : Nat} (h : a % 4096 + n ≤ 4096) : n ≤ pageLeft a := by unfold pageLeft; omega

/-- R416: operands that all end within the address space raise no UALIGN. -/
theorem wrapFault_eq_none {ops : List (Nat × Nat)} (h : ops.Forall fun p => p.1 + p.2 ≤ 2 ^ 64) :
    wrapFault ops = none := by
  have hnone : ops.find? (fun p => wraps p.1 p.2) = none := List.find?_eq_none.2 fun p hp => by
    rw [wraps_eq_false (List.forall_iff_forall_mem.1 h p hp)]
    exact Bool.false_ne_true
  unfold wrapFault
  rw [hnone]
  rfl

/-- A string instruction tests its operands for a wrap only where it has bytes to process. -/
theorem noWrap {n : Nat} {ops : List (Nat × Nat)} (h : ops.Forall fun p => p.1 + p.2 ≤ 2 ^ 64) :
    (if n = 0 then none else wrapFault ops) = none := by
  rw [wrapFault_eq_none h, ite_self]

theorem walkOf_markParts (s : State) (c : CoreId) (b : BankId) (ps : List (Phys × Nat)) (d sr n : Reg) :
    walkOf (markParts s c ps) c b d sr n = walkOf s c b d sr n := by
  unfold walkOf strLen
  rw [g_markParts, g_markParts, g_markParts]

/-- Instruction `i` retires in line with the state `v`, unless bytes behind a remote window are still to come (R121). -/
def Retires (s : State) (c : CoreId) (k : BankId) (i : Instr) (v : State) : Prop :=
  AsksNone v c → exec i s = .next (ended v c k 4)

theorem retires_of_body {s v : State} {c : CoreId} {k : BankId} {ps : List (Phys × Nat)} {i : Instr} {legal : Bool}
    {body : BankId → State → IRes} (hready : Ready s c k 4 ps) (hexec : exec i s = .next (strInstr c legal body s))
    (hlegal : legal = true) (hbody : body k (markParts s c ps) = .done v) : Retires s c k i v := fun hv => by
  subst hlegal
  exact hexec.trans (congrArg _ (runInstr_intr_done hready hv hbody))

/-! ## Operands and steps -/

/-- A run of `n` bytes at `a` that lies in one 4 KiB block and the address space, and whose parts `ps` pass their checks. -/
structure RunOf (s : State) (c : CoreId) (b : BankId) (kind : Kind) (a n : Nat) (ps : List (Phys × Nat)) : Prop where
  block : a % 4096 + n ≤ 4096
  fits : a + n ≤ 2 ^ 64
  checked : checkRange s c b kind a n = .ok ps

/-- The reads of a step, each checked with its parts. -/
def ReadsChecked (s : State) (c : CoreId) (b : BankId) : List (Nat × Nat) → List (List (Phys × Nat)) → Prop :=
  List.Forall₂ fun p ps => checkRange s c b .read p.1 p.2 = .ok ps

/-- One more read of a step is checked. -/
def addRead (s : State) (c : CoreId) (b : BankId) (acc : Except Refused (List (List (Phys × Nat)))) (p : Nat × Nat) :
    Except Refused (List (List (Phys × Nat))) :=
  match acc with
  | .error e => .error e
  | .ok l => (checkRange s c b .read p.1 p.2).map fun ps => l ++ [ps]

theorem checkStep_eq (s : State) (c : CoreId) (b : BankId) (reads : List (Nat × Nat)) (dst : Nat × Nat) :
    checkStep s c b reads dst =
      match reads.foldl (addRead s c b) (.ok []) with
      | .error e => .error e
      | .ok l => (checkRange s c b .write dst.1 dst.2).map fun d => (l, d) := rfl

section
variable {s : State} {c : CoreId} {b : BankId} {reads : List (Nat × Nat)} {rs : List (List (Phys × Nat))}
  (hreads : ReadsChecked s c b reads rs)
include hreads

theorem foldl_addRead (l : List (List (Phys × Nat))) : reads.foldl (addRead s c b) (.ok l) = .ok (l ++ rs) := by
  induction hreads generalizing l with
  | nil => rw [List.append_nil]; rfl
  | cons hp _ ih => rw [List.foldl_cons, addRead, hp, Except.map, ih, List.append_assoc, List.singleton_append]

/-- R162: a step whose operands pass their checks has their parts. -/
theorem checkStep_ok {dst : Nat × Nat} {ds : List (Phys × Nat)} (hwrite : checkRange s c b .write dst.1 dst.2 = .ok ds) :
    checkStep s c b reads dst = .ok (rs, ds) := by
  rw [checkStep_eq, foldl_addRead hreads, hwrite]
  rfl

end

/-- What the completion of a string instruction leaves. -/
def strEnd (c : CoreId) (b : BankId) (cc : Option Nat) (v : State) : State :=
  match cc with
  | some x => (v.noProgress c b).setCC c b x
  | none => v.noProgress c b

section
variable {c : CoreId} {b : BankId} {prog fuel : Nat} {step : Walk → State → SOut} {save complete : Walk → State → State}
  {endCc : Option Nat} {w w' : Walk} {s s' : State}

/-- A run of no bytes completes at once (R162). -/
theorem strLoop_empty (h : w.n = 0) : strLoop c b prog step save complete endCc (fuel + 1) none w s =
    .done (strEnd c b endCc (complete w s)) := by
  rw [strLoop, if_pos h]
  cases endCc <;> rfl

/-- A step that uses up the run completes the instruction. -/
theorem strLoop_last (hn : w.n ≠ 0) (hstep : step w s = .cont w' s') (h : w'.n = 0) :
    strLoop c b prog step save complete endCc (w.n + 1) none w s = .done (strEnd c b endCc (complete w' s')) := by
  obtain ⟨n, hsucc⟩ := Nat.exists_eq_succ_of_ne_zero hn
  rw [strLoop, if_neg hn, if_neg nofun, hstep, hsucc]
  exact strLoop_empty h

/-- A step that stops completes the instruction with its own condition code. -/
theorem strLoop_stop {cc : Nat} (hn : w.n ≠ 0) (hstep : step w s = .fin w' cc s') :
    strLoop c b prog step save complete endCc (fuel + 1) none w s = .done (strEnd c b (some cc) (complete w' s')) := by
  rw [strLoop, if_neg hn, if_neg nofun, hstep]
  rfl

end

/-! ## Moves and fills -/

/-- Gd, Gs and Gn of a move that has ended after `len` bytes. -/
def moveEnd (c : CoreId) (b : BankId) (d sr n : Reg) (dst src len : Nat) (v : State) : State :=
  (((v.setG c b d (w64 (dst + len))).setG c b sr (w64 (src + len))).setG c b n 0).noProgress c b

section
variable {s : State} {c : CoreId} {b : BankId} {w : Walk} {rs ds : List (Phys × Nat)} {d sr n : Reg} {prog : Nat}
  (hsrc : RunOf s c b .read w.s w.n rs) (hdst : RunOf s c b .write w.d w.n ds)
include hsrc hdst

/-- A run that one ascending step takes, through a table where there is one. -/
theorem strLoop_move (hn : w.n ≠ 0) {size : Nat} {tab : Option (Nat × Nat)} {ts : List (List (Phys × Nat))}
    (f : List (Phys × Nat) → Byte → State → Byte × State) (hsize : w.n ≤ size) (htab : ReadsChecked s c b tab.toList ts) :
    strLoop c b prog (moveStep c b size tab f) (saveMove c b d sr n) (saveMove c b d sr n) none (w.n + 1) none w s =
      .done (moveEnd c b d sr n w.d w.s w.n (copyUp c b rs ds (f (ts.getD 0 [])) w.n 0 (markStep s c b (rs :: ts) ds))) := by
  have hlen : min (min size w.n) (min (pageLeft w.s) (pageLeft w.d)) = w.n := by
    have := le_pageLeft hsrc.block
    have := le_pageLeft hdst.block
    omega
  have hstep : moveStep c b size tab f w s =
      .cont { w with d := wrap64 (w.d + w.n), s := wrap64 (w.s + w.n), n := w.n - w.n, moved := true }
        (copyUp c b rs ds (f (ts.getD 0 [])) w.n 0 (markStep s c b (rs :: ts) ds)) := by
    unfold moveStep
    dsimp only
    rw [hlen, checkStep_ok (.cons hsrc.checked htab) hdst.checked]
    rfl
  rw [strLoop_last hn hstep (Nat.sub_self w.n)]
  unfold saveMove
  dsimp only
  rw [w64_wrap64, w64_wrap64, Nat.sub_self]
  rfl

theorem smovBody_once (hw : walkOf s c b d sr n = w) (hn : w.n ≠ 0) (hsize : w.n ≤ 64) :
    smovBody c d sr n none b s = .done (moveEnd c b d sr n w.d w.s w.n
      (copyUp c b rs ds (fun v s => (v, s)) w.n 0 (markStep s c b [rs] ds))) := by
  unfold smovBody
  rw [hw]
  dsimp only
  rw [noWrap (by exact ⟨hsrc.fits, hdst.fits⟩)]
  dsimp only
  exact strLoop_move hsrc hdst hn (tab := none) (fun _ v s => (v, s)) hsize .nil

/-- R166: where the destination does not begin inside the source, SMOVX does what SMOV does. -/
theorem smovxBody_once_up (hw : walkOf s c b d sr n = w) (hn : w.n ≠ 0) (hsize : w.n ≤ 64)
    (hpart : (s.bank c b).part = false) (hup : ¬(w.s < w.d ∧ w.d < w.s + w.n)) :
    smovxBody c d sr n none b s = .done (moveEnd c b d sr n w.d w.s w.n
      (copyUp c b rs ds (fun v s => (v, s)) w.n 0 (markStep s c b [rs] ds))) := by
  rw [← smovBody_once hsrc hdst hw hn hsize]
  unfold smovxBody
  dsimp only
  rw [hw, hpart, if_neg Bool.false_ne_true, decide_eq_false hup, if_neg Bool.false_ne_true]

/-- A step of SMOVX takes a run of at most 64 bytes from its top to its end. -/
theorem moveDownStep_whole (hsize : w.n ≤ 64) (htotal : w.total = w.n) : moveDownStep c b w s =
    .cont { w with n := 0, moved := true } (copyDown c b rs ds w.n (markStep s c b [rs] ds)) := by
  have hlen : min (min (64 - (w.n - w.n) % 64) w.n) (min ((w.s + w.n - 1) % 4096 + 1) ((w.d + w.n - 1) % 4096 + 1)) =
      w.n := by
    have := hsrc.block
    have := hdst.block
    omega
  unfold moveDownStep
  dsimp only
  rw [htotal, hlen, Nat.sub_self, Nat.add_zero, Nat.add_zero, checkStep_ok (.cons hsrc.checked .nil) hdst.checked]
  rfl

/-- R166: where the destination begins inside the source, SMOVX moves the bytes in descending order. -/
theorem smovxBody_once_down (hw : walkOf s c b d sr n = w) (hn : w.n ≠ 0) (hsize : w.n ≤ 64)
    (hpart : (s.bank c b).part = false) (hdown : w.s < w.d ∧ w.d < w.s + w.n) :
    smovxBody c d sr n none b s = .done (moveEnd c b d sr n w.d w.s w.n
      (copyDown c b rs ds w.n (markStep s c b [rs] ds))) := by
  have hstep := moveDownStep_whole (w := { w with total := w.n }) hsrc hdst hsize rfl
  unfold smovxBody
  dsimp only
  rw [hw, hpart, if_neg Bool.false_ne_true, if_neg Bool.false_ne_true, decide_eq_true hdown, if_pos rfl,
    noWrap (by exact ⟨hsrc.fits, hdst.fits⟩)]
  dsimp only
  rw [strLoop_last (w := { w with total := w.n }) hn hstep rfl]
  rfl

end

/-- SFILL over a run that one step takes. -/
theorem sfill_once {s : State} {c : CoreId} {k : BankId} {ps ds : List (Phys × Nat)} {d b n : Reg} {w : Walk}
    (hready : Ready s c k 4 ps) (hw : walkOf s c k d d n = w) (hn : w.n ≠ 0) (hsize : w.n ≤ 64)
    (hdst : RunOf (markParts s c ps) c k .write w.d w.n ds) (hnd : n ≠ d) (hnb : n ≠ b) :
    Retires s c k (.sfill c d b n none) (((((List.range w.n).foldl (fun v i => putByteAt v c k ds i ((s.g c k b).setWidth 8))
      (markStep (markParts s c ps) c k [] ds)).setG c k d (w64 (w.d + w.n))).setG c k n 0).noProgress c k) := by
  have hlen : min (min 64 w.n) (pageLeft w.d) = w.n := by have := le_pageLeft hdst.block; omega
  refine retires_of_body hready (exec_sfill ..) (by simp [hnd, hnb]) ?_
  dsimp only
  rw [walkOf_markParts, g_markParts, hw, noWrap (by exact hdst.fits)]
  dsimp only
  rw [strLoop_last (w := { w with s := 0 }) hn (by
    dsimp only
    rw [hlen, checkStep_ok .nil hdst.checked]) (Nat.sub_self w.n)]
  dsimp only
  rw [w64_wrap64, Nat.sub_self]
  rfl

/-- STR over a run that one step takes. -/
theorem str_once {s : State} {c : CoreId} {k : BankId} {ps rs ds ts : List (Phys × Nat)} {d a n t : Reg} {w : Walk}
    (hready : Ready s c k 4 ps) (hw : walkOf s c k d a n = w) (hn : w.n ≠ 0) (hsize : w.n ≤ 32)
    (hsrc : RunOf (markParts s c ps) c k .read w.s w.n rs) (hdst : RunOf (markParts s c ps) c k .write w.d w.n ds)
    (htfits : (s.g c k t).toNat + 256 ≤ 2 ^ 64)
    (htread : checkRange (markParts s c ps) c k .read (s.g c k t).toNat 256 = .ok ts)
    (hlegal : (n != d && n != a && t != d && t != a && n != t) = true) :
    Retires s c k (.str c d a n t none) (moveEnd c k d a n w.d w.s w.n
      (copyUp c k rs ds (tableByte c ts) w.n 0 (markStep (markParts s c ps) c k [rs, ts] ds))) := by
  refine retires_of_body hready (exec_str ..) hlegal ?_
  dsimp only
  rw [walkOf_markParts, g_markParts, hw, noWrap (by exact ⟨hsrc.fits, htfits, hdst.fits⟩)]
  dsimp only
  exact strLoop_move hsrc hdst hn (tab := some _) (ts := [ts]) (tableByte c) hsize (.cons htread .nil)

/-- Settles O11: each move and the fill by the one step that takes its run. -/
theorem stringMoves : Obligations.StringMoves := by
  intro s c k ps rs ds ts d a n t b hready u dst src tab len w fin hpart hnd hna hlen hdblock hsblock hdfits hsfits hread
    hwrite
  have hsrc : RunOf u c k .read src len rs := ⟨hsblock, hsfits, hread⟩
  have hdst : RunOf u c k .write dst len ds := ⟨hdblock, hdfits, hwrite⟩
  have hpart : (u.bank c k).part = false := (congrArg Bank.part (bank_markParts ..)).trans hpart
  have hwalk : walkOf u c k d a n = walkOf s c k d a n := walkOf_markParts ..
  have hlegal : (n != d && n != a) = true := by simp [hnd, hna]
  refine ⟨fun hsize => ?smov, fun hsize hup => ?smovxUp, fun hsize hlo hhi => ?smovxDown, fun hsize hnb => ?sfill,
    fun hsize htd hta hnt htfits htread => ?str⟩
  case smov =>
    exact retires_of_body hready (exec_smov ..) hlegal
      (smovBody_once (w := walkOf s c k d a n) hsrc hdst hwalk hlen.ne' hsize)
  case smovxUp =>
    exact retires_of_body hready (exec_smovx ..) hlegal
      (smovxBody_once_up (w := walkOf s c k d a n) hsrc hdst hwalk hlen.ne' hsize hpart hup)
  case smovxDown =>
    exact retires_of_body hready (exec_smovx ..) hlegal
      (smovxBody_once_down (w := walkOf s c k d a n) hsrc hdst hwalk hlen.ne' hsize hpart ⟨hlo, hhi⟩)
  case sfill =>
    exact sfill_once (w := walkOf s c k d d n) hready rfl hlen.ne' hsize hdst hnd hnb
  case str =>
    exact str_once (w := walkOf s c k d a n) hready rfl hlen.ne' hsize hsrc hdst htfits htread
      (by simp [hnd, hna, htd, hta, hnt])

end Sys2Proof.Proofs

namespace Sys2Proof.Proofs

open Sys2Proof Sys2Proof.Machine Sys2Proof.Laws

/-! # Comparisons and scans (R165) -/

/-- R162: the checks of a step that reads two operands and writes nothing. -/
theorem checkStep_reads {s : State} {c : CoreId} {b : BankId} {a m a' m' : Nat} {rs qs : List (Phys × Nat)}
    (hfirst : checkRange s c b .read a m = .ok rs) (hsecond : checkRange s c b .read a' m' = .ok qs)
    (hnothing : checkRange s c b .write 0 0 = .ok []) : checkStep s c b [(a, m), (a', m')] (0, 0) = .ok ([rs, qs], []) :=
  checkStep_ok (.cons hfirst (.cons hsecond .nil)) hnothing

/-- The offset at which a comparison or a scan of `len` bytes has ended. -/
def stopAt {α : Type} (len : Nat) (r : Option (Nat × α)) : Nat :=
  match r with
  | some p => p.1
  | none => len

/-- CC of SCMP (R165). -/
def compareCc (r : Option (Nat × Bool)) : Nat :=
  match r with
  | some p => if p.2 then 1 else 2
  | none => 0

/-- The entry that SSCAN writes to its result register (R165). -/
def scanEntry (r : Option (Nat × Byte)) : Nat :=
  match r with
  | some p => p.2.toNat
  | none => 0

section
variable {s v : State} {c : CoreId} {k : BankId} {ps rs qs : List (Phys × Nat)} {a n b f : Reg} {w : Walk} {y : Nat}
  (hready : Ready s c k 4 ps) (hw : walkOf s c k 0 a n = w) (hy : (s.g c k b).toNat = y) (hn : w.n ≠ 0)
  (hrun : RunOf (markParts s c ps) c k .read w.s w.n rs)
  (hnothing : checkRange (markParts s c ps) c k .write 0 0 = .ok [])
include hready hw hy hn hrun hnothing

/-- SCMP over runs that one step takes. -/
theorem scmp_once (hsize : w.n ≤ 64) (hsecond : RunOf (markParts s c ps) c k .read y w.n qs) (hna : n ≠ a) (hnb : n ≠ b)
    {r : Option (Nat × Bool)} (hr : compareUp c rs qs w.n 0 (markStep (markParts s c ps) c k [rs, qs] []) = (r, v)) :
    Retires s c k (.scmp c a b n none) (((((v.setG c k a (w64 (w.s + stopAt w.n r))).setG c k b
      (w64 (y + stopAt w.n r))).setG c k n (w64 (w.n - stopAt w.n r))).noProgress c k).setCC c k (compareCc r)) := by
  have hlen : min (min 64 w.n) (min (pageLeft w.s) (pageLeft y)) = w.n := by
    have := le_pageLeft hrun.block
    have := le_pageLeft hsecond.block
    omega
  have hchecks := checkStep_reads hrun.checked hsecond.checked hnothing
  refine retires_of_body hready (exec_scmp ..) (by simp [hna, hnb]) ?_
  dsimp only
  rw [walkOf_markParts, g_markParts, hw, hy, noWrap (by exact ⟨hrun.fits, hsecond.fits⟩)]
  dsimp only
  cases r with
  | none =>
    rw [strLoop_last (w := { w with s2 := y }) hn
      (by simp only [hlen, hchecks, List.getD_cons_zero, List.getD_cons_succ, hr]; rfl) (Nat.sub_self w.n)]
    dsimp only
    rw [w64_wrap64, w64_wrap64]
    rfl
  | some p =>
    rw [strLoop_stop (w := { w with s2 := y }) hn
      (by simp only [hlen, hchecks, List.getD_cons_zero, List.getD_cons_succ, hr]; rfl)]
    dsimp only
    rw [w64_wrap64, w64_wrap64]
    rfl

/-- SSCAN over a run that one step takes, where its length is not zero at the end. -/
theorem sscan_once (hsize : w.n ≤ 32) (hfits : y + 256 ≤ 2 ^ 64)
    (htable : checkRange (markParts s c ps) c k .read y 256 = .ok qs)
    (hlegal : (n != a && b != a && f != a && n != b && n != f && b != f) = true) {r : Option (Nat × Byte)}
    (hr : scanUp c rs qs w.n 0 (markStep (markParts s c ps) c k [rs, qs] []) = (r, v)) (hlast : strLen v c k n ≠ 0) :
    Retires s c k (.sscan c a n b f none) (((((v.setG c k a (w64 (w.s + stopAt w.n r))).setG c k n
      (w64 (w.n - stopAt w.n r))).setG c k f (w64 (scanEntry r))).noProgress c k).setCC c k (if r.isSome then 1 else 0)) := by
  have hlen : min (min 32 w.n) (pageLeft w.s) = w.n := by have := le_pageLeft hrun.block; omega
  have hchecks := checkStep_reads hrun.checked htable hnothing
  refine retires_of_body hready (exec_sscan ..) hlegal ?_
  dsimp only
  rw [walkOf_markParts, g_markParts, hw, hy, noWrap (by exact ⟨hrun.fits, hfits⟩)]
  dsimp only
  cases r with
  | none =>
    rw [strLoop_last hn (by simp only [hlen, hchecks, List.getD_cons_zero, List.getD_cons_succ, hr]; rfl)
      (Nat.sub_self w.n), if_neg hlast]
    dsimp only
    rw [w64_wrap64]
    rfl
  | some p =>
    rw [strLoop_stop hn (by simp only [hlen, hchecks, List.getD_cons_zero, List.getD_cons_succ, hr]; rfl), if_neg hlast]
    dsimp only
    rw [w64_wrap64]
    rfl

end

/-- Settles O12: SCMP and SSCAN by where the one step that takes their run ends. -/
theorem stringScans : Obligations.StringScans := by
  intro s c k ps rs qs a b n f hready u x y len w hpart hna hnb hlen hblock hfits hread
  have hrun : RunOf u c k .read x len rs := ⟨hblock, hfits, hread⟩
  refine ⟨fun hsize hyblock hyfits hyread hnothing => ?scmp,
    fun hsize hyfits hfa hnf hbf hba htable hnothing => ?sscan⟩
  case scmp =>
    intro r
    have hends := scmp_once (w := walkOf s c k 0 a n) hready rfl rfl hlen.ne' hrun hnothing hsize
      ⟨hyblock, hyfits, hyread⟩ hna hnb (r := r.1) (v := r.2) rfl
    clear_value r
    obtain ⟨_ | p, v⟩ := r
    · exact hends
    · exact hends
  case sscan =>
    intro r i entry hlast
    have hends := sscan_once (w := walkOf s c k 0 a n) hready rfl rfl hlen.ne' hrun hnothing hsize hyfits htable
      (f := f) (by simp [hna, hnb, hfa, hnf, hbf, hba])
      (r := r.1) (v := r.2) rfl hlast
    clear_value r
    obtain ⟨_ | p, v⟩ := r
    · exact hends
    · exact hends

end Sys2Proof.Proofs

namespace Sys2Proof.Proofs

open Sys2Proof Sys2Proof.Machine Sys2Proof.Laws

/-! # Character conversion (R167 to R170)

## The characters of a step -/

section
variable {c : CoreId} {b : BankId} {w : Walk} {m fuel i o : Nat} {one : Nat → State → ConvOne × State} {s s' : State}

/-- A step of a conversion ends when its source bytes are used up. -/
theorem convLoop_end (hi : 0 < i) (hm : m ≤ i) : convLoop c b w m one fuel i o s =
    .cont { w with d := wrap64 (w.d + o), s := wrap64 (w.s + i), n := w.n - i, moved := true } s := by
  cases fuel with
  | zero => rfl
  | succ fuel =>
    rw [convLoop, if_pos hm, decide_eq_true hi, Bool.or_true]

/-- A character that stops the conversion. -/
theorem convLoop_stop {cc : Nat} (hfuel : fuel ≠ 0) (hi : i < m) (hone : one i s = (.stop cc, s')) :
    convLoop c b w m one fuel i o s =
      .fin { w with d := wrap64 (w.d + o), s := wrap64 (w.s + i), n := w.n - i, moved := w.moved || decide (0 < i) }
        cc s' := by
  obtain ⟨fuel, rfl⟩ := Nat.exists_eq_succ_of_ne_zero hfuel
  rw [convLoop, if_neg (Nat.not_le.2 hi), hone]

/-- A character whose output lies in the destination's block and is writable. -/
theorem convLoop_out {u : List Byte} {taken : Nat} {ds : List (Phys × Nat)} (hi : i < m)
    (hone : one i s = (.out u taken, s')) (hblock : 0 < o → w.d % 4096 + o + u.length ≤ 4096)
    (hwrite : checkRange s' c b .write (wrap64 (w.d + o)) u.length = .ok ds) :
    convLoop c b w m one (fuel + 1) i o s =
      convLoop c b w m one fuel (i + taken) (o + u.length) (storeParts s' c b ds u) := by
  have hfits : ¬(0 < o ∧ pageLeft w.d < o + u.length) := fun ⟨ho, hlt⟩ => by
    have := hblock ho
    unfold pageLeft at hlt
    omega
  rw [convLoop, if_neg (Nat.not_le.2 hi), hone]
  dsimp only
  rw [if_neg hfits, hwrite]

end

/-! ## How a conversion ends -/

/-- What a conversion leaves that completes with `cc`, `o` bytes written and `m` taken (R169, R170). -/
def convEnd (c : CoreId) (b : BankId) (d sr n : Reg) (w : Walk) (o m cc : Nat) (v : State) : State :=
  ((((v.setG c b d (w64 (wrap64 (w.d + o)))).setG c b sr (w64 (wrap64 (w.s + m)))).setG c b n (w64 (w.n - m))).noProgress c
    b).setCC c b cc

/-- The step of a conversion answers `r` where it ends the instruction with `cc`, `o` bytes written and `m` taken. -/
inductive ConvEnds (w : Walk) (o : Nat) (v : State) : Nat → Nat → SOut → Prop where
  | whole : ConvEnds w o v w.n 0
      (.cont { w with d := wrap64 (w.d + o), s := wrap64 (w.s + w.n), n := w.n - w.n, moved := true } v)
  | stop (m cc : Nat) (moved : Bool) :
    ConvEnds w o v m cc (.fin { w with d := wrap64 (w.d + o), s := wrap64 (w.s + m), n := w.n - m, moved := moved } cc v)

/-- A conversion that its first step ends. -/
theorem strLoop_conv {c : CoreId} {b : BankId} {d sr n : Reg} {step : Walk → State → SOut} {w : Walk} {s v : State}
    {o m cc : Nat} (hn : w.n ≠ 0) (hends : ConvEnds w o v m cc (step w s)) :
    strLoop c b 0 step (saveMove c b d sr n) (saveMove c b d sr n) (some 0) (w.n + 1) none w s =
      .done (convEnd c b d sr n w o m cc v) := by
  generalize hstep : step w s = r at hends
  cases hends with
  | whole =>
    rw [strLoop_last hn hstep (Nat.sub_self w.n)]
    rfl
  | stop m cc moved =>
    rw [strLoop_stop hn hstep]
    rfl

section
variable {s : State} {c : CoreId} {k : BankId} {ps : List (Phys × Nat)} {d a n t : Reg} {w : Walk}
  (hready : Ready s c k 4 ps) (hw : walkOf s c k d a n = w)
  (hlegal : (n != d && n != a && t != d && t != a && n != t) = true)
include hready hw hlegal

/-- R162: a conversion of no bytes completes with CC 0. -/
theorem conv_empty (hn : w.n = 0) :
    Retires s c k (.scvu c d a n t none) (convEnd c k d a n w 0 0 0 (markParts s c ps)) ∧
    Retires s c k (.scvs c d a n t none) (convEnd c k d a n w 0 0 0 (markParts s c ps)) := by
  have hsaved : strEnd c k (some 0) (saveMove c k d a n w (markParts s c ps)) =
      convEnd c k d a n w 0 0 0 (markParts s c ps) := by
    unfold convEnd saveMove
    rw [w64_wrap64, w64_wrap64]
    rfl
  refine ⟨retires_of_body hready (exec_scvu ..) hlegal ?_, retires_of_body hready (exec_scvs ..) hlegal ?_⟩
  all_goals
    dsimp only
    rw [walkOf_markParts, hw, if_pos hn]
    dsimp only
    rw [strLoop_empty hn, hsaved]

variable {rs ts : List (Phys × Nat)} {o m cc : Nat} {v : State} (hn : w.n ≠ 0) (hsize : w.n ≤ 32)
  (hrun : RunOf (markParts s c ps) c k .read w.s w.n rs) (hdfits : w.d + 2 * w.n ≤ 2 ^ 64)
  (htfits : (s.g c k t).toNat + 576 ≤ 2 ^ 64)
  (htable : checkRange (markParts s c ps) c k .read (s.g c k t).toNat 576 = .ok ts)
  (hnothing : checkRange (markParts s c ps) c k .write 0 0 = .ok [])
include hn hsize hrun hdfits htfits htable hnothing

/-- SCVU over a run that one step takes. -/
theorem scvu_once (hends : ConvEnds w o v m cc
      (convLoop c k w w.n (scvuOne c rs ts) w.n 0 0 (markStep (markParts s c ps) c k [rs, ts] []))) :
    Retires s c k (.scvu c d a n t none) (convEnd c k d a n w o m cc v) := by
  have hlen : min (min 32 w.n) (pageLeft w.s) = w.n := by have := le_pageLeft hrun.block; omega
  refine retires_of_body hready (exec_scvu ..) hlegal ?_
  dsimp only
  rw [walkOf_markParts, g_markParts, hw, noWrap (by exact ⟨hrun.fits, htfits, hdfits⟩)]
  dsimp only
  refine strLoop_conv hn ?_
  rw [hlen, checkStep_reads hrun.checked htable hnothing]
  exact hends

/-- SCVS over a run that one step takes: the step checks the run once for its bytes and once for its first sequence. -/
theorem scvs_once (hends : ConvEnds w o v m cc
      (convLoop c k w w.n (scvsOne c rs ts w.n w.n) w.n 0 0 (markStep (markParts s c ps) c k [rs, ts] []))) :
    Retires s c k (.scvs c d a n t none) (convEnd c k d a n w o m cc v) := by
  have hlen : min (min 32 w.n) (pageLeft w.s) = w.n := by have := le_pageLeft hrun.block; omega
  have hdone : w.d + w.n ≤ 2 ^ 64 := by omega
  have hspan (qs : List (Phys × Nat)) (u : State) : scvsSpan c qs w.n w.n u = w.n := if_neg fun h => by omega
  refine retires_of_body hready (exec_scvs ..) hlegal ?_
  dsimp only
  rw [walkOf_markParts, g_markParts, hw, noWrap (by exact ⟨hrun.fits, htfits, hdone⟩)]
  dsimp only
  refine strLoop_conv hn ?_
  rw [hlen, checkStep_reads hrun.checked htable hnothing]
  dsimp only
  rw [hspan, checkStep_reads hrun.checked htable hnothing]
  exact hends

end

/-! ## SCVU (R169) -/

section
variable (c : CoreId) (k : BankId) (rs ts : List (Phys × Nat)) (dst : Nat)

/-- The byte of the table that says whether the character at offset `i` is valid (R167). -/
def charCheck (v : State) (i : Nat) : Byte × State :=
  Machine.byteAt (Machine.byteAt v c rs i).2 c ts (512 + (Machine.byteAt v c rs i).1.toNat / 8)

/-- The table has a code point for the character at offset `i`. -/
def charValid (v : State) (i : Nat) : Bool := (charCheck c rs ts v i).1.getLsbD ((Machine.byteAt v c rs i).1.toNat % 8)

/-- The code point of the character at offset `i`. -/
def charPoint (v : State) (i : Nat) : Byte × State :=
  Machine.byteAt (charCheck c rs ts v i).2 c ts (Machine.byteAt v c rs i).1.toNat

/-- The UTF-8 of the character at offset `i`. -/
def charUtf8 (v : State) (i : Nat) : List Byte := utf8Small (charPoint c rs ts v i).1.toNat

/-- The checked destination of the character at offset `i`, after `o` bytes of output. -/
def charDest (o : Nat) (v : State) (i : Nat) : Except Refused (List (Phys × Nat)) :=
  checkRange (charPoint c rs ts v i).2 c k .write ((dst + o) % 2 ^ 64) (charUtf8 c rs ts v i).length

/-- The output bytes and the state after the character at offset `i`. -/
def putChar (x : Nat × State) (i : Nat) : Nat × State :=
  match charDest c k rs ts dst x.1 x.2 i with
  | .ok ds =>
    (x.1 + (charUtf8 c rs ts x.2 i).length, storeParts (charPoint c rs ts x.2 i).2 c k ds (charUtf8 c rs ts x.2 i))
  | .error _ => x

/-- The output bytes and the state after the first `i` characters. -/
def putChars (v : State) (i : Nat) : Nat × State := (List.range i).foldl (putChar c k rs ts dst) (0, v)

theorem putChars_succ (v : State) (i : Nat) :
    putChars c k rs ts dst v (i + 1) = putChar c k rs ts dst (putChars c k rs ts dst v i) i := by
  unfold putChars
  rw [List.range_succ, List.foldl_append, List.foldl_cons, List.foldl_nil]

/-- The character at offset `i` converts: it is valid, and its output is writable and in the destination's block. -/
structure CharConverts (x : Nat × State) (i : Nat) : Prop where
  valid : charValid c rs ts x.2 i = true
  writable : (charDest c k rs ts dst x.1 x.2 i).isOk = true
  block : 0 < i → dst % 4096 + x.1 + (charUtf8 c rs ts x.2 i).length ≤ 4096

end

section
variable {c : CoreId} {k : BankId} {rs ts : List (Phys × Nat)} {v : State} {i : Nat}

theorem scvuOne_valid (h : charValid c rs ts v i = true) :
    scvuOne c rs ts i v = (.out (charUtf8 c rs ts v i) 1, (charPoint c rs ts v i).2) := by
  have hgoes : ¬(!charValid c rs ts v i) = true := by rw [h]; nofun
  unfold scvuOne
  exact if_neg hgoes

theorem scvuOne_invalid (h : charValid c rs ts v i = false) :
    scvuOne c rs ts i v = (.stop 3, (charCheck c rs ts v i).2) := by
  have hstops : (!charValid c rs ts v i) = true := by rw [h]; rfl
  unfold scvuOne
  exact if_pos hstops

variable {w : Walk}

/-- A character that converts is read, and its output is stored. -/
theorem convLoop_char {m fuel : Nat} {x : Nat × State} (hi : i < m) (hconv : CharConverts c k rs ts w.d x i)
    (hfirst : 0 < x.1 → 0 < i) :
    convLoop c k w m (scvuOne c rs ts) (fuel + 1) i x.1 x.2 =
      convLoop c k w m (scvuOne c rs ts) fuel (i + 1) (putChar c k rs ts w.d x i).1 (putChar c k rs ts w.d x i).2 := by
  obtain ⟨hvalid, hwritable, hblock⟩ := hconv
  unfold putChar
  cases hdest : charDest c k rs ts w.d x.1 x.2 i with
  | error r => rw [hdest] at hwritable; cases hwritable
  | ok ds => exact convLoop_out hi (scvuOne_valid hvalid) (fun ho => hblock (hfirst ho)) hdest

/-- Characters that all convert are stored one after the other. -/
theorem convLoop_chars (hconv : ∀ i, i < w.n → CharConverts c k rs ts w.d (putChars c k rs ts w.d v i) i) (i : Nat)
    (hi : i ≤ w.n) : convLoop c k w w.n (scvuOne c rs ts) w.n 0 0 v =
      convLoop c k w w.n (scvuOne c rs ts) (w.n - i) i (putChars c k rs ts w.d v i).1 (putChars c k rs ts w.d v i).2 := by
  induction i with
  | zero => rfl
  | succ i ih =>
    have hfuel : w.n - i = w.n - (i + 1) + 1 := by omega
    have hfirst : 0 < (putChars c k rs ts w.d v i).1 → 0 < i := fun ho => Nat.pos_of_ne_zero fun h => by
      subst h
      exact Nat.lt_irrefl 0 ho
    rw [ih (by omega), hfuel, convLoop_char (by omega) (hconv i (by omega)) hfirst, putChars_succ]

/-- SCVU of a run whose characters all convert. -/
theorem convEnds_scvu (hn : w.n ≠ 0)
    (hconv : ∀ i, i < w.n → CharConverts c k rs ts w.d (putChars c k rs ts w.d v i) i) :
    ConvEnds w (putChars c k rs ts w.d v w.n).1 (putChars c k rs ts w.d v w.n).2 w.n 0
      (convLoop c k w w.n (scvuOne c rs ts) w.n 0 0 v) := by
  rw [convLoop_chars hconv w.n le_rfl, convLoop_end (Nat.pos_of_ne_zero hn) le_rfl]
  exact .whole

/-- SCVU of a run whose first byte is not valid. -/
theorem convEnds_scvu_invalid (hn : w.n ≠ 0) (h : charValid c rs ts v 0 = false) :
    ConvEnds w 0 (charCheck c rs ts v 0).2 0 3 (convLoop c k w w.n (scvuOne c rs ts) w.n 0 0 v) := by
  rw [convLoop_stop hn (Nat.pos_of_ne_zero hn) (scvuOne_invalid h)]
  exact .stop 0 3 _

end

/-! ## SCVS (R170) -/

/-- The first `len` bytes of a run, as SCVS reads a sequence of that length. -/
def readSeq (c : CoreId) (rs : List (Phys × Nat)) (len : Nat) (v : State) : List Nat × State :=
  (List.range (len - 1)).foldl
    (fun x j => (x.1 ++ [(Machine.byteAt x.2 c rs (1 + j)).1.toNat], (Machine.byteAt x.2 c rs (1 + j)).2))
    ([(Machine.byteAt v c rs 0).1.toNat], (Machine.byteAt v c rs 0).2)

/-- A whole sequence of a code point that the table holds gives one byte. -/
theorem scvsOne_whole {c : CoreId} {rs ts : List (Phys × Nat)} {len cp : Nat} {v : State} (hlen : len ≠ 0)
    (hseq : utf8Len (Machine.byteAt v c rs 0).1.toNat = len)
    (hdecode : utf8Decode (readSeq c rs len v).1 = some cp) (hcp : cp ≤ 0xFF)
    (hheld : (Machine.byteAt (readSeq c rs len v).2 c ts (544 + cp / 8)).1.getLsbD (cp % 8) = true) :
    let out := Machine.byteAt (Machine.byteAt (readSeq c rs len v).2 c ts (544 + cp / 8)).2 c ts (256 + cp)
    scvsOne c rs ts len len 0 v = (.out [out.1] len, out.2) := by
  intro out
  have hmalformed : ¬(len = 0 ∨ len < 0 + len) := by omega
  have hpast : ¬len < 0 + len := by omega
  unfold scvsOne
  dsimp only
  rw [hseq, if_neg hmalformed, if_neg hpast]
  unfold readSeq at hdecode hheld
  simp only [Nat.zero_add]
  rw [hdecode]
  dsimp only
  rw [if_neg (Nat.not_lt.2 hcp), hheld, if_neg (by nofun)]
  rfl

/-- SCVS of a run that is one whole sequence of a code point that the table holds. -/
theorem convEnds_scvs {c : CoreId} {k : BankId} {rs ts ds : List (Phys × Nat)} {w : Walk} {v : State}
    {out : Byte × State} (hn : w.n ≠ 0) (hone : scvsOne c rs ts w.n w.n 0 v = (.out [out.1] w.n, out.2))
    (hwrite : checkRange out.2 c k .write (wrap64 w.d) 1 = .ok ds) :
    ConvEnds w 1 (storeParts out.2 c k ds [out.1]) w.n 0 (convLoop c k w w.n (scvsOne c rs ts w.n w.n) w.n 0 0 v) := by
  obtain ⟨fuel, hsucc⟩ := Nat.exists_eq_succ_of_ne_zero hn
  have hstep := convLoop_out (b := k) (w := w) (fuel := fuel) (o := 0) (Nat.pos_of_ne_zero hn) hone nofun hwrite
  rw [Nat.zero_add, Nat.zero_add, convLoop_end (Nat.pos_of_ne_zero hn) le_rfl, Nat.add_one, ← hsucc] at hstep
  rw [hstep]
  exact .whole

end Sys2Proof.Proofs

namespace Sys2Proof.Proofs

open Sys2Proof Sys2Proof.Machine Sys2Proof.Laws

/-! # EDIT (R172 to R176)

## The codes of a picture -/

section
variable (c : CoreId) (k : BankId) (cset : Nat) (neg : Bool)

/-- The run and the state after one code: its output is checked and stored together (R174). -/
def editAct (x : EditRun × State) (y : PicCode) : EditRun × State :=
  match checkRange x.2 c k .write x.1.d (y.act cset neg x.1).1.length with
  | .ok ds => ({ (y.act cset neg x.1).2 with d := wrap64 (x.1.d + (y.act cset neg x.1).1.length) },
      storeParts x.2 c k ds (y.act cset neg x.1).1)
  | .error _ => x

/-- The output of a code is writable when its turn comes. -/
def CodeWritable (x : EditRun × State) (y : PicCode) : Prop :=
  (checkRange x.2 c k .write x.1.d (y.act cset neg x.1).1.length).isOk = true

/-- The run and the state after the first `i` codes. -/
def editUpTo (codes : List PicCode) (x : EditRun × State) (i : Nat) : EditRun × State :=
  (codes.take i).foldl (editAct c k cset neg) x

/-- What EDIT leaves at END: the destination after the last byte, and CC by the number's sign (R175). -/
def editEnd (d : Reg) (mag : Nat) (x : EditRun × State) : State :=
  ((x.2.setG c k d (w64 x.1.d)).noProgress c k).setCC c k (if mag = 0 then 0 else if neg then 1 else 2)

end

section
variable {c : CoreId} {k : BankId} {cset : Nat} {neg : Bool} {mag : Nat} {d : Reg} {x : EditRun × State} {y q : PicCode}
  {codes : List PicCode}

theorem editLoop_end (hq : q.code = 0) :
    editLoop c k d cset neg (mag == 0) (q :: codes) none x.1 x.2 = .done (editEnd c k neg d mag x) := by
  rw [editLoop, if_neg nofun, if_pos hq]
  simp only [beq_iff_eq]
  rfl

theorem editLoop_code (hy : y.code ≠ 0) (hwrite : CodeWritable c k cset neg x y) :
    editLoop c k d cset neg (mag == 0) (y :: codes) none x.1 x.2 =
      editLoop c k d cset neg (mag == 0) codes none (editAct c k cset neg x y).1 (editAct c k cset neg x y).2 := by
  unfold CodeWritable at hwrite
  unfold editAct
  rw [editLoop, if_neg nofun, if_neg hy]
  dsimp only
  cases hdest : checkRange x.2 c k .write x.1.d (y.act cset neg x.1).1.length with
  | error e => rw [hdest] at hwrite; cases hwrite
  | ok ds => rfl

/-- Codes whose outputs are all writable act in order, up to END. -/
theorem editLoop_codes (hq : q.code = 0) (hcodes : ∀ y ∈ codes, y.code ≠ 0)
    (hwrite : ∀ i y, codes[i]? = some y → CodeWritable c k cset neg (editUpTo c k cset neg codes x i) y) :
    editLoop c k d cset neg (mag == 0) (codes ++ [q]) none x.1 x.2 =
      .done (editEnd c k neg d mag (editUpTo c k cset neg codes x codes.length)) := by
  induction codes generalizing x with
  | nil => exact editLoop_end hq
  | cons y codes ih =>
    rw [List.cons_append, editLoop_code (x := x) (hcodes y List.mem_cons_self) (hwrite 0 y rfl)]
    exact ih (fun z hz => hcodes z (List.mem_cons_of_mem y hz)) fun i z hz => hwrite (i + 1) z hz

end

/-! ## The checks of an execution (R174) -/

/-- The run of EDIT before the first code of a picture. -/
def editStart (p : Picture) (mag dst : Nat) : EditRun :=
  { d := dst, pad := if p.cset = 0 then 0x20 else 0x40, digits := digitsOf (2 * p.len - 1) mag, taken := 0,
    started := false }

/-- A picture is read whole: END comes last and nowhere else, and its first code stands at offset 2 (R172, R174). -/
structure WholePicture (p : Picture) (codes : List PicCode) (q : PicCode) : Prop where
  split : p.codes = codes ++ [q]
  ends : q.code = 0
  acts : ∀ y ∈ codes, y.code ≠ 0
  offs : ∀ y ∈ p.codes, 2 ≤ y.off
  first : (p.codes.any fun y => y.off == 2) = true

/-- The source at `src` and the output at Gd pass the checks of R174 items 4 to 6, and the source holds `x`. -/
structure EditOperands (v : State) (c : CoreId) (k : BankId) (d : Reg) (p : Picture) (src : Nat) (rs : List (Phys × Nat))
    (x : Dec) : Prop where
  srcFits : src + p.len ≤ 2 ^ 64
  dstFits : (v.g c k d).toNat + (p.codes.map PicCode.outLen).sum ≤ 2 ^ 64
  checked : checkRange v c k .read src p.len = .ok rs
  packed : readPacked (readParts v c rs).1 = some x

section
variable {s v : State} {c : CoreId} {k : BankId} {d gp gs : Reg} {p : Picture} {rs : List (Phys × Nat)} {x : Dec}
  {src : Nat} (hoffs : ∀ y ∈ p.codes, 2 ≤ y.off)
include hoffs

/-- No code of a picture lies before its first. -/
theorem editBefore_start : editBefore p 2 = [] :=
  List.filter_eq_nil_iff.2 fun y hy => by simpa using Nat.lt_of_succ_le (hoffs y hy)

theorem editSource_start (hops : EditOperands v c k d p src rs x) :
    editSource c k d src 2 0 false p none v =
      editLoop c k d p.cset (x.neg && x.mag != 0) (x.mag == 0) p.codes none (editStart p x.mag (v.g c k d).toNat)
        (readParts v c rs).2 := by
  have hall : p.codes.filter (fun y => decide (2 ≤ y.off)) = p.codes :=
    List.filter_eq_self.2 fun y hy => decide_eq_true (hoffs y hy)
  unfold editSource
  dsimp only
  rw [hall, editBefore_start hoffs, wrapFault_eq_none (by exact ⟨hops.srcFits, hops.dstFits⟩)]
  dsimp only
  rw [hops.checked]
  dsimp only
  rw [hops.packed]
  rfl

/-- EDIT from its first code. -/
theorem editBody_start (hpart : (s.bank c k).part = false) (hpicture : readPicture s c k (s.g c k gp).toNat = .ok (p, v))
    (hfirst : (p.codes.any fun y => y.off == 2) = true) :
    editBody c d gp gs none k s = editSource c k d (s.g c k gs).toNat 2 0 false p none v := by
  unfold editBody
  dsimp only
  rw [hpicture]
  dsimp only
  rw [hpart, if_neg Bool.false_ne_true, if_neg Bool.false_ne_true, editBefore_start hoffs, hfirst]
  exact if_neg (by simp)

end

/-- EDIT of a picture that passes its checks, over a packed source. -/
theorem edit_once {s v : State} {c : CoreId} {k : BankId} {d gp gs : Reg} {ps rs : List (Phys × Nat)} {p : Picture}
    {codes : List PicCode} {q : PicCode} {x : Dec} {neg : Bool} (hready : Ready s c k 4 ps)
    (hpart : (s.bank c k).part = false) (hlegal : (d != gp && d != gs) = true)
    (hread : readPicture (markParts s c ps) c k (s.g c k gp).toNat = .ok (p, v)) (hpicture : WholePicture p codes q)
    (hops : EditOperands v c k d p (s.g c k gs).toNat rs x) (hneg : (x.neg && x.mag != 0) = neg) :
    let start := (editStart p x.mag (v.g c k d).toNat, (readParts v c rs).2)
    (∀ i y, codes[i]? = some y → CodeWritable c k p.cset neg (editUpTo c k p.cset neg codes start i) y) →
      Retires s c k (.edit c d gp gs none)
        (editEnd c k neg d x.mag (editUpTo c k p.cset neg codes start codes.length)) := by
  intro start hwrite
  obtain ⟨hsplit, hq, hcodes, hoffs, hfirst⟩ := hpicture
  refine retires_of_body hready (exec_edit ..) hlegal ?_
  rw [← g_markParts s c k ps gp] at hread
  rw [editBody_start hoffs ((congrArg Bank.part (bank_markParts ..)).trans hpart) hread hfirst, g_markParts,
    editSource_start hoffs hops, hneg, hsplit]
  exact editLoop_codes (x := start) hq hcodes hwrite

/-- Settles O13: SCVU and SCVS by how their one step ends, EDIT by the codes that act up to END. -/
theorem convertAndEdit : Obligations.ConvertAndEdit := by
  intro s c k ps rs ts d a n t hready u dst src tab len w fin hpart
  refine ⟨fun hnd hna htd hta hnt => ?conversions, ?edit⟩
  case conversions =>
    have hlegal : (n != d && n != a && t != d && t != a && n != t) = true := by simp [hnd, hna, htd, hta, hnt]
    refine ⟨fun hlen => conv_empty (w := walkOf s c k d a n) hready rfl hlegal hlen, ?run⟩
    intro hlen hsize hblock hfits hdfits htfits hread htable hnothing m char valid point isValid put upTo
    have hrun : RunOf u c k .read src len rs := ⟨hblock, hfits, hread⟩
    refine ⟨fun hconv => ?scvu, fun hinvalid => ?scvuInvalid, ?scvs⟩
    case scvu =>
      exact scvu_once (w := walkOf s c k d a n) hready rfl hlegal hlen.ne' hsize hrun hdfits htfits htable hnothing
        (convEnds_scvu hlen.ne' fun i hi =>
          have ⟨hvalid, hwritable, hfits⟩ := hconv i hi
          ⟨hvalid, hwritable, hfits⟩)
    case scvuInvalid =>
      exact scvu_once (w := walkOf s c k d a n) hready rfl hlegal hlen.ne' hsize hrun hdfits htfits htable hnothing
        (convEnds_scvu_invalid hlen.ne' hinvalid)
    case scvs =>
      intro sv cp ds hseq _ seq hdecode hcp ok hheld o hsv hwrite
      subst hsv
      have hdest : wrap64 dst = dst := wrap64_toNat _
      rw [← hdest] at hwrite
      exact scvs_once (w := walkOf s c k d a n) hready rfl hlegal hlen.ne' hsize hrun hdfits htfits htable hnothing
        (convEnds_scvs hlen.ne' (scvsOne_whole hlen.ne' hseq hdecode hcp hheld) hwrite)
  case edit =>
    intro hda hdn p codes q v x gs dst hread hsplit hq hne hoffs hfirst hsrc hsfits hdfits hpacked neg start act upTo hwrite
    have hpicture : WholePicture p codes q :=
      ⟨hsplit, hq, fun y hy => bne_iff_ne.1 (List.all_eq_true.1 hne y hy),
        fun y hy => of_decide_eq_true (List.all_eq_true.1 hoffs y hy), hfirst⟩
    exact edit_once hready hpart (by simp [hda, hdn]) hread hpicture ⟨hsfits, hdfits, hsrc, hpacked⟩ rfl hwrite

end Sys2Proof.Proofs

namespace Sys2Proof.Proofs

open Sys2Proof Sys2Proof.Machine Sys2Proof.Laws

/-! # Branches (R108, R181, R183, R188) -/

@[simp] theorem asksNone_modBp {s : State} {c : CoreId} {f : Predictor → Predictor} :
    AsksNone (s.modBp c f) c ↔ AsksNone s c := by
  unfold AsksNone State.modBp
  rw [State.core_modCore_self]

/-- A branch that is not taken needs no bytes of a remote window, whichever way it was predicted. -/
theorem asksNone_notTaken {s : State} {c : CoreId} {pc : Word} : AsksNone (notTaken s c pc) c ↔ AsksNone s c := by
  refine asksNone_modBp.trans ?_
  split
  case isTrue => unfold AsksNone; rw [State.core_modCore_self]
  case isFalse => rfl

/-- A fetch leaves the predictor. -/
theorem bp_fetched (s : State) (c : CoreId) (b : BankId) (ps : List (Phys × Nat)) :
    ((fetched s c b ps).core c).bp = (s.core c).bp := by
  obtain ⟨T, h⟩ := core_fetched s c b ps
  rw [h]
  rfl

/-- R108: a branch that was predicted taken and is not empties the prefetch queue; the fetch leaves the prediction. -/
theorem notTaken_fetched (s : State) (c : CoreId) (b : BankId) (ps : List (Phys × Nat)) (pc : Word) :
    notTaken (fetched s c b ps) c pc =
      (if (s.core c).bp.taken pc then (fetched s c b ps).modCore c fun m => { m with pq := [] }
        else fetched s c b ps).modBp c fun p => p.learn pc false := by
  unfold notTaken
  rw [bp_fetched]

section
variable {s : State} {c : CoreId} {k : BankId} {ps : List (Phys × Nat)} (hready : Ready s c k 4 ps)
include hready

/-- A base instruction that branches leaves what its body did, and the PC at the target. -/
theorem exec_base_jump {body : BankId → State → IRes} {i : Instr} {v : State} {t : Word}
    (hexec : exec i s = .next (baseInstr c body s)) (hv : AsksNone v c) (hbody : body k (fetched s c k ps) = .jump v t) :
    exec i s = .next (jumped v c k t) := by
  rw [hexec, baseInstr_ready hready, hbody, settleInstr_jump hv]

/-- R183, log 63: a taken BC enters its outcome and its target in the predictor. -/
theorem exec_bc_taken {mask : BitVec 4} (disp : BitVec 22) (hcc : mask.getLsbD (s.cc c k) = true) :
    let pc := (s.bank c k).pc
    let t := pc + disp.signExtend 64 <<< 2
    exec (.bc c mask disp) s = .next (jumped ((fetched s c k ps).modBp c fun p => (p.learn pc true).enter pc t) c k t) := by
  refine exec_base_jump hready (exec_bc ..) (asksNone_modBp.2 (asksNone_fetched hready)) ?_
  simp only [cc_fetched, pc_fetched, hcc, if_true]

/-- R108: a BC that is not taken ends in line. -/
theorem exec_bc_notTaken {mask : BitVec 4} (disp : BitVec 22) (hcc : mask.getLsbD (s.cc c k) = false) :
    exec (.bc c mask disp) s = .next (ended (notTaken (fetched s c k ps) c (s.bank c k).pc) c k 4) := by
  refine exec_base_done hready (exec_bc ..) (asksNone_notTaken.2 (asksNone_fetched hready)) ?_
  simp only [cc_fetched, pc_fetched, hcc, Bool.false_eq_true, if_false]

/-- R183, log 63: JAL links and branches; a link to G0 is not entered in the return stack. -/
theorem exec_jal_jumps (d : Reg) (disp : BitVec 21) :
    let pc := (s.bank c k).pc
    let t := pc + disp.signExtend 64 <<< 2
    exec (.jal c d disp) s = .next (jumped (((fetched s c k ps).setG c k d (pc + 4)).modBp c fun p =>
      if d = 0 then p.enter pc t else (p.enter pc t).call (pc + 4)) c k t) := by
  refine exec_base_jump hready (exec_jal ..) (asksNone_modBp.2 (asksNone_setG.2 (asksNone_fetched hready))) ?_
  simp only [pc_fetched]

/-- R181: JALR branches to the target that Ga gave before the link was written. -/
theorem exec_jalr_jumps (d a : Reg) (imm : BitVec 16) :
    let pc := (s.bank c k).pc
    let t := s.g c k a + imm.signExtend 64
    exec (.jalr c d a imm) s = .next (jumped (((fetched s c k ps).setG c k d (pc + 4)).modBp c fun p =>
      if d = 0 then (p.enter pc t).ret else (p.enter pc t).call (pc + 4)) c k t) := by
  refine exec_base_jump hready (exec_jalr ..) (asksNone_modBp.2 (asksNone_setG.2 (asksNone_fetched hready))) ?_
  simp only [effAddr, pc_fetched, g_fetched]

end

/-- Settles O7: BC by whether the bit of its mask is set; JAL and JALR by what they link and where they go. The predictor
of each is the one that its lemma names. -/
theorem branchResults : Obligations.BranchResults := by
  intro s c k ps d a imm mask disp disp1 hready u pc
  refine ⟨fun hcc => ⟨_, exec_bc_taken hready disp hcc⟩, fun hcc => ⟨fun p => p.learn pc false, ?notTaken⟩,
    ⟨_, exec_jal_jumps hready d disp1⟩, ⟨_, exec_jalr_jumps hready d a imm⟩⟩
  case notTaken =>
    rw [exec_bc_notTaken hready disp hcc, notTaken_fetched]
    rfl

end Sys2Proof.Proofs

namespace Sys2Proof.Proofs

open Sys2Proof Sys2Proof.Machine Sys2Proof.Laws

/-! # Every command answers a next state and keeps the canonical forms (R198, R220, R423; log 1) -/

/-- What a command answers waits for the same commands and is canonical. -/
theorem soundOut_exec {q : List Instr} {s : State} (h : Sound q s) (i : Instr) : SoundOut q (exec i s) :=
  match i with
  | .frameReceive .. => Sound.execFrameReceive h | .handbackComplete .. => Sound.execHandbackComplete h
  | .segmentTransmit .. => Sound.execSegmentTransmit h | .retransmitTimeout .. => Sound.execRetransmitTimeout h
  | .delayedAckTimer .. => Sound.execDelayedAckTimer h | .zeroWindowProbe .. => Sound.execZeroWindowProbe h
  | .persistLimit .. => Sound.execPersistLimit h | .stallBoundExpiry .. => Sound.execStallBoundExpiry h
  | .portFail _ k => Sound.execPortFail (cause := k) h | .txqTransmit .. => Sound.execTxqTransmit h
  | .admission .. => Sound.execAdmission h | .xltParse .. => Sound.execXltParse h
  | .xltEchoScan .. => Sound.execXltEchoScan h | .technicalDecline .. => Sound.execTechnicalDecline h
  | .xltSerialise .. => Sound.execXltSerialise h | .xltEnableWrite .. => Sound.execXltEnableWrite h
  | .bind .. => Sound.execBind h | .callerStop .. => Sound.execCallerStop h
  | .timerExpiry .. => Sound.execTimerExpiry h | .deadlineAlarm .. => Sound.execDeadlineAlarm h
  | .budgetExceeded .. => Sound.execBudgetExceeded h | .boundaryResponse _ _ k => Sound.execBoundaryResponse (k := k) h
  | .machineCheck .. => Sound.execMachineCheck h | .bank15Timeout .. => Sound.execBank15Timeout h
  | .instructionFetch .. => Sound.execInstructionFetch h | .storeDrain .. => Sound.execStoreDrain h
  | .asyncMchk .. => Sound.execAsyncMchk h | .accessTimeout .. => Sound.execAccessTimeout h
  | .add .. => Sound.execAdd h | .sub .. => Sound.execSub h | .and .. => Sound.execAnd h | .or .. => Sound.execOr h
  | .xor .. => Sound.execXor h | .andn .. => Sound.execAndn h | .sll .. => Sound.execSll h
  | .srl .. => Sound.execSrl h | .sra .. => Sound.execSra h | .slli .. => Sound.execSlli h
  | .srli .. => Sound.execSrli h | .srai .. => Sound.execSrai h | .adds .. => Sound.execAdds h
  | .addc .. => Sound.execAddc h | .subs .. => Sound.execSubs h | .subb .. => Sound.execSubb h
  | .cmp .. => Sound.execCmp h | .cmpu .. => Sound.execCmpu h | .sextb .. => Sound.execSextb h
  | .sexth .. => Sound.execSexth h | .sextw .. => Sound.execSextw h | .mul .. => Sound.execMul h
  | .mulwu .. => Sound.execMulwu h | .mulws .. => Sound.execMulws h | .divu .. => Sound.execDivu h
  | .divs .. => Sound.execDivs h | .remu .. => Sound.execRemu h | .rems .. => Sound.execRems h
  | .divwu .. => Sound.execDivwu h | .fadd .. => Sound.execFadd h | .fsub .. => Sound.execFsub h
  | .fmul .. => Sound.execFmul h | .fdiv .. => Sound.execFdiv h | .fma .. => Sound.execFma h
  | .fsqrt .. => Sound.execFsqrt h | .fcvt .. => Sound.execFcvt h | .fcvti .. => Sound.execFcvti h
  | .fcvtiz .. => Sound.execFcvtiz h | .fcvtf .. => Sound.execFcvtf h | .fcmpq .. => Sound.execFcmpq h
  | .fcmps .. => Sound.execFcmps h | .fmvfg .. => Sound.execFmvfg h | .fmvgf .. => Sound.execFmvgf h
  | .fneg .. => Sound.execFneg h | .fabs .. => Sound.execFabs h | .addi .. => Sound.execAddi h
  | .andi .. => Sound.execAndi h | .ori .. => Sound.execOri h | .xori .. => Sound.execXori h
  | .lui .. => Sound.execLui h | .cmpi .. => Sound.execCmpi h | .cmpui .. => Sound.execCmpui h
  | .ldb .. => Sound.execLdb h | .ldh .. => Sound.execLdh h | .ldw .. => Sound.execLdw h | .ldd .. => Sound.execLdd h
  | .ldbs .. => Sound.execLdbs h | .ldhs .. => Sound.execLdhs h | .ldws .. => Sound.execLdws h
  | .pref .. => Sound.execPref h | .stb .. => Sound.execStb h | .sth .. => Sound.execSth h
  | .stw .. => Sound.execStw h | .std .. => Sound.execStd h | .fldd .. => Sound.execFldd h
  | .fstd .. => Sound.execFstd h | .flds .. => Sound.execFlds h | .fsts .. => Sound.execFsts h
  | .bc .. => Sound.execBc h | .jal .. => Sound.execJal h | .jalr .. => Sound.execJalr h | .stm .. => Sound.execStm h
  | .ldm .. => Sound.execLdm h | .svlk .. => Sound.execSvlk h | .rslk .. => Sound.execRslk h
  | .smov .. => Sound.execSmov h | .smovx .. => Sound.execSmovx h | .sfill .. => Sound.execSfill h
  | .scmp .. => Sound.execScmp h | .str .. => Sound.execStr h | .sscan .. => Sound.execSscan h
  | .scvu .. => Sound.execScvu h | .scvs .. => Sound.execScvs h | .edit .. => Sound.execEdit h
  | .scall .. => Sound.execScall h | .breakpoint .. => Sound.execBreakpoint h | .fenceSl .. => Sound.execFenceSl h
  | .fenceDev .. => Sound.execFenceDev h | .fenceAll .. => Sound.execFenceAll h | .csync .. => Sound.execCsync h
  | .isync .. => Sound.execIsync h | .ctlr .. => Sound.execCtlr h | .ctlw .. => Sound.execCtlw h
  | .tret .. => Sound.execTret h | .quar .. => Sound.execQuar h | .msync .. => Sound.execMsync h
  | .tlbsync .. => Sound.execTlbsync h | .tlbins .. => Sound.execTlbins h | .tlbset .. => Sound.execTlbset h
  | .tlbrd .. => Sound.execTlbrd h | .tlbfind .. => Sound.execTlbfind h | .tlbiv .. => Sound.execTlbiv h
  | .tlbia .. => Sound.execTlbia h | .fkset .. => Sound.execFkset h | .fkget .. => Sound.execFkget h
  | .ldl .. => Sound.execLdl h | .ldlu .. => Sound.execLdlu h | .stl .. => Sound.execStl h
  | .del .. => Sound.execDel h | .commit .. => Sound.execCommit h | .abort .. => Sound.execAbort h
  | .crypt .. => Sound.execCrypt h | .waitt .. => Sound.execWaitt h | .dadd .. => Sound.execDadd h
  | .dsub .. => Sound.execDsub h | .dmul .. => Sound.execDmul h | .ddiv .. => Sound.execDdiv h
  | .dmod .. => Sound.execDmod h | .dcpy .. => Sound.execDcpy h | .dcmp .. => Sound.execDcmp h
  | .dshf .. => Sound.execDshf h | .dtst .. => Sound.execDtst h | .packz .. => Sound.execPackz h
  | .unpkz .. => Sound.execUnpkz h | .cvpb .. => Sound.execCvpb h | .cvbp .. => Sound.execCvbp h
  | .dlda .. => Sound.execDlda h | .dsta .. => Sound.execDsta h | .dada .. => Sound.execDada h
  | .dsba .. => Sound.execDsba h | .dmla .. => Sound.execDmla h | .dcpa .. => Sound.execDcpa h
  | .dadr .. => Sound.execDadr h | .microcodeWatchdog .. => Sound.execMicrocodeWatchdog h
  | .waitBoundExpiry .. => Sound.execWaitBoundExpiry h | .controlStoreScrub .. => Sound.execControlStoreScrub h
  | .ledgerResponse .. => Sound.execLedgerResponse h | .wound .. => Sound.execWound h
  | .runEndRelease .. => Sound.execRunEndRelease h | .jsnAssignment .. => Sound.execJsnAssignment h
  | .hbmScrub .. => Sound.execHbmScrub h | .recordComplete .. => Sound.execRecordComplete h
  | .mirrorGroupSend .. => Sound.execMirrorGroupSend h | .mirrorAck .. => Sound.execMirrorAck h
  | .mirrorTargetTimeout .. => Sound.execMirrorTargetTimeout h | .epochSeam .. => Sound.execEpochSeam h
  | .epochClose .. => Sound.execEpochClose h | .stragglerTimeout .. => Sound.execStragglerTimeout h
  | .sealComplete .. => Sound.execSealComplete h | .sealRetry .. => Sound.execSealRetry h
  | .exportPost .. => Sound.execExportPost h | .gsealWaitExpiry .. => Sound.execGsealWaitExpiry h
  | .gseal .. => Sound.execGseal h | .sealMessage .. => Sound.execSealMessage h
  | .linkResend .. => Sound.execLinkResend h | .kportFail .. => Sound.execKportFail h
  | .linkstate .. => Sound.execLinkstate h | .heartbeatSend .. => Sound.execHeartbeatSend h
  | .heartbeat .. => Sound.execHeartbeat h | .leadLossTimeout .. => Sound.execLeadLossTimeout h
  | .takeover .. => Sound.execTakeover h | .tickSend .. => Sound.execTickSend h | .tick .. => Sound.execTick h
  | .tickMiss .. => Sound.execTickMiss h | .timeExchange .. => Sound.execTimeExchange h
  | .timeRequest .. => Sound.execTimeRequest h | .timeAnswer .. => Sound.execTimeAnswer h | .map .. => Sound.execMap h
  | .applied .. => Sound.execApplied h | .lop .. => Sound.execLop h | .lopRsp .. => Sound.execLopRsp h
  | .prepare .. => Sound.execPrepare h | .prepRsp .. => Sound.execPrepRsp h | .apply .. => Sound.execApply h
  | .applyResend .. => Sound.execApplyResend h | .woundMessage .. => Sound.execWoundMessage h
  | .woundResend .. => Sound.execWoundResend h | .kolRelease .. => Sound.execKolRelease h
  | .reservationLeaseExpiry .. => Sound.execReservationLeaseExpiry h | .holdExpiry .. => Sound.execHoldExpiry h
  | .kolTimeout .. => Sound.execKolTimeout h | .wread .. => Sound.execWread h | .wwrite .. => Sound.execWwrite h
  | .winRsp .. => Sound.execWinRsp h | .mirror .. => Sound.execMirror h
  | .kolEnableWrite .. => Sound.execKolEnableWrite h | .doorbellSnoop .. => Sound.execDoorbellSnoop h
  | .doorbellPoll .. => Sound.execDoorbellPoll h | .doorbellRead .. => Sound.execDoorbellRead h
  | .submissionFetch .. => Sound.execSubmissionFetch h | .completionPost .. => Sound.execCompletionPost h
  | .excPost .. => Sound.execExcPost h | .ringEnable .. => Sound.execRingEnable h
  | .ringIrqTimer .. => Sound.execRingIrqTimer h | .drainTimeout .. => Sound.execDrainTimeout h
  | .hostAccessTimeout .. => Sound.execHostAccessTimeout h | .pcieLinkUp .. => Sound.execPcieLinkUp h
  | .pciePerst .. => Sound.execPciePerst h | .handover .. => Sound.execHandover h | .close .. => Sound.execClose h
  | .rekey .. => Sound.execRekey h | .portMove .. => Sound.execPortMove h
  | .descriptorUpdate .. => Sound.execDescriptorUpdate h | .dialectLoad .. => Sound.execDialectLoad h
  | .benchConfigure .. => Sound.execBenchConfigure h | .bulkLoad .. => Sound.execBulkLoad h
  | .cancel .. => Sound.execCancel h | .keyLoad .. => Sound.execKeyLoad h | .keyExport .. => Sound.execKeyExport h
  | .keyDelete .. => Sound.execKeyDelete h | .keyInfo .. => Sound.execKeyInfo h | .keySave .. => Sound.execKeySave h
  | .keyRestore .. => Sound.execKeyRestore h | .zeroise .. => Sound.execZeroise h
  | .journalTail .. => Sound.execJournalTail h | .mapUpdate .. => Sound.execMapUpdate h
  | .sliceTransfer .. => Sound.execSliceTransfer h | .orphanResolve .. => Sound.execOrphanResolve h
  | .cryptoJobStart .. => Sound.execCryptoJobStart h | .completionLatch .. => Sound.execCompletionLatch h
  | .cryptoCompletion .. => Sound.execCryptoCompletion h | .jobAbort .. => Sound.execJobAbort h
  | .tamperInput .. => Sound.execTamperInput h | .zeroisationDone .. => Sound.execZeroisationDone h
  | .trafficSpaceWipe .. => Sound.execTrafficSpaceWipe h | .mpuCommitGo .. => Sound.execMpuCommitGo h
  | .mpuActivation .. => Sound.execMpuActivation h | .mpuSkeyWrite .. => Sound.execMpuSkeyWrite h
  | .storageKeyAcked .. => Sound.execStorageKeyAcked h | .clockScaleEval .. => Sound.execClockScaleEval h
  | .clockHoldExpiry .. => Sound.execClockHoldExpiry h | .operatingPointDone .. => Sound.execOperatingPointDone h
  | .islandRun .. => Sound.execIslandRun h | .islandHold .. => Sound.execIslandHold h
  | .islandOff .. => Sound.execIslandOff h | .islandReset .. => Sound.execIslandReset h
  | .islandQuiesced .. => Sound.execIslandQuiesced h | .islandReturn .. => Sound.execIslandReturn h
  | .sensorSample .. => Sound.execSensorSample h | .thermalModelPeriod .. => Sound.execThermalModelPeriod h
  | .thermalTrip .. => Sound.execThermalTrip h | .avsUpdate .. => Sound.execAvsUpdate h
  | .avsFault .. => Sound.execAvsFault h | .railLoss .. => Sound.execRailLoss h
  | .refclkLoss .. => Sound.execRefclkLoss h | .refclkRestore .. => Sound.execRefclkRestore h
  | .coreFaultStop .. => Sound.execCoreFaultStop h | .engineFault .. => Sound.execEngineFault h
  | .tileLoss .. => Sound.execTileLoss h | .xltLaneFault .. => Sound.execXltLaneFault h
  | .jnlLaneFault .. => Sound.execJnlLaneFault h | .hbmStackFail .. => Sound.execHbmStackFail h
  | .hbmDataLoss .. => Sound.execHbmDataLoss h | .fabricFault .. => Sound.execFabricFault h
  | .pairedMismatch .. => Sound.execPairedMismatch h | .keyStoreFault .. => Sound.execKeyStoreFault h
  | .selfTestDone .. => Sound.execSelfTestDone h | .faultHoldExpiry .. => Sound.execFaultHoldExpiry h
  | .coldReset k => Sound.execColdReset (_k := k) h | .warmReset .. => Sound.execWarmReset h
  | .bootResetWarm .. => Sound.execBootResetWarm h | .bootResetCold .. => Sound.execBootResetCold h
  | .powerGood .. => Sound.execPowerGood h | .imageSelect .. => Sound.execImageSelect h
  | .microcodeLoad .. => Sound.execMicrocodeLoad h | .standinOpen .. => Sound.execStandinOpen h
  | .hbmInitDone .. => Sound.execHbmInitDone h | .bringupReady .. => Sound.execBringupReady h
  | .bootLoad .. => Sound.execBootLoad h | .bootRelease .. => Sound.execBootRelease h
  | .standinTilesJoin .. => Sound.execStandinTilesJoin h | .svnCommit .. => Sound.execSvnCommit h
  | .fuseProgram .. => Sound.execFuseProgram h | .standinDecide .. => Sound.execStandinDecide h
  | .timeStep .. => Sound.execTimeStep h | .timeRateWrite .. => Sound.execTimeRateWrite h
  | .ppsEdge .. => Sound.execPpsEdge h | .ppsOutRise .. => Sound.execPpsOutRise h
  | .ppsOutFall .. => Sound.execPpsOutFall h | .debugNewchal .. => Sound.execDebugNewchal h
  | .debugGo .. => Sound.execDebugGo h | .sysEvtClear .. => Sound.execSysEvtClear h
  | .sysEvtEnWrite .. => Sound.execSysEvtEnWrite h | .latchedHalfRead .. => Sound.execLatchedHalfRead h
  | .bar0UnmappedAccess .. => Sound.execBar0UnmappedAccess h | .bar0Abort .. => Sound.execBar0Abort h
  | .smbusBlockWrite .. => Sound.execSmbusBlockWrite h | .smbusBlockRead .. => Sound.execSmbusBlockRead h
  | .registerWrite .. => Sound.execRegisterWrite h | .portLinkUp .. => Sound.execPortLinkUp h
  | .bondRecover .. => Sound.execBondRecover h | .pcieLinkDown .. => Sound.execPcieLinkDown h
  | .fuseWriteDone .. => Sound.execFuseWriteDone h | .warmResetNRise .. => Sound.execWarmResetNRise h
  | .tamperInputHigh .. => Sound.execTamperInputHigh h | .adminUnknownOp .. => Sound.execAdminUnknownOp h
  | .illegalInstruction .. => Sound.execIllegalInstruction h

/-- Every command answers a next state: most by their form, ten by the branches of a condition on the state. -/
theorem exec_next (i : Instr) (s : State) : ∃ t, exec i s = .next t := by
  cases i with
  | doorbellRead | submissionFetch | excPost | completionPost | hostAccessTimeout | bondRecover | heartbeatSend
  | leadLossTimeout | tickSend | tickMiss =>
    simp only [exec_doorbellRead, execDoorbellRead, exec_submissionFetch, execSubmissionFetch, exec_excPost, execExcPost,
      exec_completionPost, execCompletionPost, exec_hostAccessTimeout, execHostAccessTimeout, exec_bondRecover,
      execBondRecover, exec_heartbeatSend, execHeartbeatSend, exec_leadLossTimeout, execLeadLossTimeout, exec_tickSend,
      execTickSend, exec_tickMiss, execTickMiss]
    repeat' split
    all_goals exact ⟨_, rfl⟩
  | _ => exact ⟨_, rfl⟩

/-- Every command keeps the canonical forms and leaves the queue alone. -/
theorem exec_keeps_canonical {s : State} (h : Canonical s) (i : Instr) :
    ∃ t, exec i s = .next t ∧ Canonical t ∧ t.pending = s.pending := by
  obtain ⟨t, ht⟩ := exec_next i s
  have hout : SoundOut s.pending (exec i s) := soundOut_exec ⟨rfl, h⟩ i
  rw [ht] at hout
  unfold SoundOut at hout
  exact ⟨t, ht, hout.2, hout.1⟩

theorem tick_keeps_canonical {s : State} (h : Canonical s) : Canonical (tick s) ∧ (tick s).pending = s.pending :=
  have hsound : Sound s.pending (tick s) := Sound.tick ⟨rfl, h⟩
  ⟨hsound.2, hsound.1⟩

/-- Settles O60: a command through what its operations keep, a step through its command, or through the tick where none waits. -/
theorem canonicalKept : Obligations.CanonicalKept := by
  refine ⟨fun i s h => exec_keeps_canonical h i, fun s h => ?_⟩
  unfold step
  cases hq : s.pending with
  | nil => exact ⟨tick s, rfl, (tick_keeps_canonical h).1, (tick_keeps_canonical h).2.trans hq⟩
  | cons i rest => exact exec_keeps_canonical (s := { s with pending := rest }) h i

end Sys2Proof.Proofs

namespace Sys2Proof.Proofs

open Sys2Proof Sys2Proof.Machine Sys2Proof.Laws

/-! # Reset (R5, R198, R220, R356, R423) -/

/-- The empty map is in canonical form. -/
theorem wf_nil {α : Type} (d : Nat → α) : Sparse.WF d [] := ⟨List.Pairwise.nil, nofun⟩

theorem reg_reset (off : Nat) : State.reset.reg off = (RegMap.reset off).toNat := rfl

theorem frameKey_reset (pa : Nat) : frameKey State.reset pa = 0 := by
  unfold frameKey
  cases targetOf pa <;> rfl

theorem core_reset (c : CoreId) : State.reset.core c = Core.reset := Vector.getElem_replicate ..

theorem bank_reset (c : CoreId) (b : BankId) : State.reset.bank c b = Bank.reset := by
  unfold State.bank
  rw [core_reset]
  exact Vector.getElem_replicate ..

/-- Settles O59: the maps are empty, every core and bank is the reset one, and the fields named read the tables' values. -/
theorem resetState : Obligations.ResetState := by
  refine ⟨⟨wf_nil _, wf_nil _, wf_nil _⟩, reg_reset, rfl, frameKey_reset, rfl, rfl, rfl, rfl, rfl, rfl, fun c b => ?cores, ?fields⟩
  case cores =>
    rw [bank_reset, core_reset]
    exact ⟨rfl, rfl, rfl⟩
  case fields => decide

end Sys2Proof.Proofs

namespace Sys2Proof.Proofs

open Sys2Proof Sys2Proof.Machine Sys2Proof.Laws

/-! # The TLB (R202 to R207, R212)

## Supervisor instructions -/

theorem asksNone_modCore {s : State} {c : CoreId} {f : Machine.Core → Machine.Core}
    (h : (f (s.core c)).need = (s.core c).need) : AsksNone (s.modCore c f) c ↔ AsksNone s c := by
  unfold AsksNone
  rw [State.core_modCore_self, h]

/-- A core after the fetch of an instruction: its TLB marked, PART and PROG of the bank cleared. -/
theorem core_fetched_eq (s : State) (c : CoreId) (b : BankId) (ps : List (Phys × Nat)) :
    (fetched s c b ps).core c = ({ s.core c with tlb := markedTlb s c ps } : Machine.Core).modBank b unparted := by
  unfold fetched
  rw [clearPart_eq, markParts_eq_markedTlb]
  unfold State.modBank
  rw [State.core_modCore_self, State.core_modCore_self]

theorem tlb_fetched (s : State) (c : CoreId) (b : BankId) (ps : List (Phys × Nat)) :
    SameWords (s.core c).tlb ((fetched s c b ps).core c).tlb := by
  rw [core_fetched_eq]
  exact sameWords_markedTlb s c ps

theorem asid_fetched (s : State) (c : CoreId) (b : BankId) (ps : List (Phys × Nat)) :
    ((fetched s c b ps).bank c b).asid = (s.bank c b).asid := by rw [bank_fetched, unparted_asid]

section
variable {s : State} {c : CoreId} {b : BankId} {ps : List (Phys × Nat)} (hready : Ready s c b 4 ps)
  (huser : (s.bank c b).user = false) {i : Instr} {body : BankId → State → IRes}
  (hexec : exec i s = .next (privInstr c body s))
include hready huser hexec

/-- A supervisor instruction whose body is done retires with the effect of the body. -/
theorem exec_priv_retires {f : State → State} (hbody : body b (fetched s c b ps) = .done (f (fetched s c b ps)))
    (hasks : AsksNone (f (fetched s c b ps)) c) : exec i s = .next (retired s c b 4 ps f) := by
  rw [hexec, privInstr_ready hready huser, hbody, settleInstr_done hasks]
  rfl

/-- A supervisor instruction whose body waits leaves what the body leaves. -/
theorem exec_priv_holds {v : State} (hbody : body b (fetched s c b ps) = .hold v) (hasks : AsksNone v c) :
    exec i s = .next (dropWin v c) := by
  rw [hexec, privInstr_ready hready huser, hbody, settleInstr_hold hasks]

/-- A supervisor instruction that changes a part of the core other than what it waits for retires with the change. -/
theorem exec_priv_modCore {f : Machine.Core → Machine.Core} (hneed : ∀ m, (f m).need = m.need)
    (hbody : body b (fetched s c b ps) = .done ((fetched s c b ps).modCore c f)) :
    exec i s = .next (retired s c b 4 ps fun u => u.modCore c f) :=
  exec_priv_retires hready huser hexec (f := fun u => u.modCore c f) hbody
    ((asksNone_modCore (hneed _)).2 (asksNone_fetched hready))

end

@[simp] theorem need_writeTlb (m : Machine.Core) (i : Nat) (x y : Word) : (m.writeTlb i x y).need = m.need := by
  unfold Core.writeTlb
  split <;> rfl

/-- An invalidation, on one core or on all, leaves what the core of the instruction finds missing. -/
theorem asksNone_invalidateOn {s : State} {c : CoreId} {bcast : Bool} {p : TlbEntry → Bool} :
    AsksNone (invalidateOn s c bcast p) c ↔ AsksNone s c := by
  cases bcast with
  | false => exact asksNone_modCore (f := fun k => k.invalidate p) rfl
  | true =>
    unfold invalidateOn AsksNone State.core
    simp [Core.markInval, Core.invalidate]

/-- R212: an invalidating instruction names its entries by Ga. -/
theorem exec_invalidates {s : State} {c : CoreId} {b : BankId} {ps : List (Phys × Nat)} (hready : Ready s c b 4 ps)
    (huser : (s.bank c b).user = false) {i : Instr} {a : Reg} {bcast : Bool} {names : Nat → TlbEntry → Bool}
    (hexec : exec i s = .next (privInstr c (fun d u => .done (invalidateOn u c bcast (names (u.g c d a).toNat))) s)) :
    exec i s = .next (retired s c b 4 ps fun u => invalidateOn u c bcast (names (s.g c b a).toNat)) :=
  exec_priv_retires hready huser hexec (f := fun u => invalidateOn u c bcast (names (s.g c b a).toNat))
    (by rw [g_fetched]) (asksNone_invalidateOn.2 (asksNone_fetched hready))

/-! ## A written entry (R202 to R204) -/

/-- A field that a mask keeps whole. -/
theorem get_and_mask (x mask : Word) (lo n : Nat) (h : ∀ i, i < n → mask.getLsbD (lo + i) = true) :
    Bits.get (x &&& mask) lo n = Bits.get x lo n := by
  apply Nat.eq_of_testBit_eq
  intro i
  unfold Bits.get
  rw [testBit_bitsOf, testBit_bitsOf, BitVec.toNat_and, Nat.testBit_and]
  by_cases hi : i < n
  · have hmask : mask.toNat.testBit (lo + i) = true := h i hi
    rw [hmask, Bool.and_true]
  · simp [hi]

theorem get_lt (w : Word) (lo n : Nat) : Bits.get w lo n < 2 ^ n := Nat.mod_lt _ (Nat.two_pow_pos n)

theorem align_lt {x m n : Nat} (h : x < m) : x / n * n < m := (Nat.div_mul_le_self x n).trans_lt h

section
variable (m : Machine.Core) (i : Nat) (x y : Word)

/-- The size that an entry takes from the word written: at most 28 (R203). -/
def storedSize (x : Word) : Nat := min 28 (Bits.get x 40 5)

/-- Whether an entry is stored as pinned (R203). -/
def storedPin (m : Machine.Core) (i : Nat) (y : Word) : Bool :=
  (y &&& tlbMask1).getLsbD 49 && !((y &&& tlbMask1).getLsbD 63 && decide (m.pinmax < m.pinnedBut i + 1))

/-- R203: the two words of a written entry, with the fields that software writes taken from `x` and `y`. -/
theorem normalise_eq : m.normalise i x y =
    { w0 := Bits.put (Bits.put (x &&& tlbMask0) 40 5 (storedSize x)) 0 36 (Bits.get x 0 36 / 2 ^ storedSize x * 2 ^ storedSize x),
      w1 := Bits.put (Bits.put (y &&& tlbMask1) 12 36 (Bits.get y 12 36 / 2 ^ storedSize x * 2 ^ storedSize x)) 49 1
        (b2n (storedPin m i y)),
      use := false } := by
  unfold Core.normalise storedSize storedPin
  dsimp only
  rw [get_and_mask x tlbMask0 40 5 (by decide), get_and_mask x tlbMask0 0 36 (by decide),
    get_and_mask y tlbMask1 12 36 (by decide)]

theorem size_normalise : Bits.get (m.normalise i x y).w0 40 5 = storedSize x := by
  rw [normalise_eq, Bits.get_put_ne _ _ _ _ _ _ (by omega) (by omega), Bits.get_put_self _ _ _ _ (by omega),
    Nat.mod_eq_of_lt (by unfold storedSize; omega)]

theorem vpn_normalise : Bits.get (m.normalise i x y).w0 0 36 = Bits.get x 0 36 / 2 ^ storedSize x * 2 ^ storedSize x := by
  rw [normalise_eq, Bits.get_put_self _ _ _ _ (by omega), Nat.mod_eq_of_lt (align_lt (get_lt x 0 36))]

theorem pfn_normalise : Bits.get (m.normalise i x y).w1 12 36 = Bits.get y 12 36 / 2 ^ storedSize x * 2 ^ storedSize x := by
  rw [normalise_eq, Bits.get_put_ne _ _ _ _ _ _ (by omega) (by omega), Bits.get_put_self _ _ _ _ (by omega),
    Nat.mod_eq_of_lt (align_lt (get_lt y 12 36))]

/-- A bit of word 1 outside the frame number and the pin is stored as written, where the register has it. -/
theorem lsb_normalise {j : Nat} (hj : j < 64) (hpfn : j < 12 ∨ 48 ≤ j) (hpin : j ≠ 49) (hmask : tlbMask1.getLsbD j = true) :
    (m.normalise i x y).w1.getLsbD j = y.getLsbD j := by
  rw [normalise_eq, Bits.lsb_put_ne _ _ _ _ _ (by omega) hj, Bits.lsb_put_ne _ _ _ _ _ (by omega) hj,
    BitVec.getLsbD_and, hmask, Bool.and_true]

theorem asid_normalise : Bits.get (m.normalise i x y).w1 50 12 = Bits.get y 50 12 := by
  rw [normalise_eq, Bits.get_put_ne _ _ _ _ _ _ (by omega) (by omega), Bits.get_put_ne _ _ _ _ _ _ (by omega) (by omega),
    get_and_mask y tlbMask1 50 12 (by decide)]

theorem pin_normalise (h : (m.normalise i x y).w1.getLsbD 49 = true) : y.getLsbD 49 = true := by
  have hpin : storedPin m i y = true := by
    rw [normalise_eq, lsb_put _ _ _ _ (by omega), if_pos (by omega)] at h
    cases hs : storedPin m i y with
    | false => rw [hs] at h; exact absurd h (by decide)
    | true => rfl
  unfold storedPin at hpin
  rw [Bool.and_eq_true, BitVec.getLsbD_and, Bool.and_eq_true] at hpin
  exact hpin.1.1

/-- R204: the frame of an aligned entry, with the offset kept. -/
theorem translate_normalise (va : Nat) : (m.normalise i x y).translate va =
    2 ^ (12 + storedSize x) * (Bits.get y 12 36 / 2 ^ storedSize x) + va % 2 ^ (12 + storedSize x) := by
  have hsize : storedSize x ≤ 28 := Nat.min_le_left ..
  have hframe : Bits.get y 12 36 / 2 ^ storedSize x < 2 ^ (48 - (12 + storedSize x)) := by
    rw [Nat.div_lt_iff_lt_mul (Nat.two_pow_pos _), ← Nat.pow_add]
    exact (get_lt y 12 36).trans_eq (congrArg _ (by omega))
  have hbase : Bits.get y 12 36 / 2 ^ storedSize x * 2 ^ storedSize x * 4096 =
      2 ^ (12 + storedSize x) * (Bits.get y 12 36 / 2 ^ storedSize x) := by
    rw [Nat.pow_add]
    ring
  unfold TlbEntry.translate bitsOf
  dsimp only
  rw [size_normalise, pfn_normalise, hbase, Nat.shiftRight_eq_div_pow, Nat.mul_div_cancel_left _ (Nat.two_pow_pos _),
    Nat.mod_eq_of_lt hframe, Nat.shiftLeft_eq, Nat.mul_comm]

end

section
variable (m : Machine.Core) (i : Fin 128) (x y : Word)

theorem writeTlb_self : (m.writeTlb i.val x y).tlb[i] = m.normalise i.val x y := by
  unfold Core.writeTlb
  rw [dif_pos i.isLt]
  simp

theorem writeTlb_ne {j : Fin 128} (h : j ≠ i) : (m.writeTlb i.val x y).tlb[j] = m.tlb[j] := by
  have hval : i.val ≠ j.val := fun e => h (Fin.ext e.symm)
  unfold Core.writeTlb
  rw [dif_pos i.isLt]
  simp [hval]

end

/-! ## Searches (R207) -/

section
variable {m : Machine.Core} {va asid : Nat}

/-- TLBFIND of a canonical address answers by the entries that match. -/
theorem tlbFind_one {i : Nat} (h : m.tlbHits va asid = [i]) (hva : canonical va = true) :
    m.tlbFind va asid = BitVec.ofNat 64 i := by
  unfold Core.tlbFind
  rw [if_pos hva, h]

theorem tlbFind_none (h : m.tlbHits va asid = []) : m.tlbFind va asid = 0x8000_0000_0000_0000 := by
  unfold Core.tlbFind
  rw [h, ite_self]
  rfl

theorem tlbFind_several {i j : Nat} {l : List Nat} (h : m.tlbHits va asid = i :: j :: l) (hva : canonical va = true) :
    m.tlbFind va asid = BitVec.ofNat 64 (2 ^ 62 + i) := by
  unfold Core.tlbFind
  rw [if_pos hva, h]

theorem tlbHits_rising : (m.tlbHits va asid).Pairwise (· < ·) := by
  unfold Core.tlbHits
  exact List.pairwise_lt_range.filter _

end

/-- R207: TLBINS takes the lowest index that is not valid. -/
theorem chooseTlb_of_invalid {m : Machine.Core} {j : Fin 128} (hj : m.tlb[j].w1.getLsbD 63 = false)
    (hlow : ∀ i : Fin 128, i < j → m.tlb[i].w1.getLsbD 63 = true) : m.chooseTlb = (j.val, m.tlb) := by
  unfold Core.chooseTlb
  rw [List.find?_range_eq_some (i := j.val) |>.2]
  refine ⟨?_, List.mem_range.2 j.isLt, fun i hi => ?_⟩
  · simpa using hj
  · have hi128 : i < 128 := hi.trans j.isLt
    simpa [hi128] using hlow ⟨i, hi128⟩ hi

/-- Settles O19: the instructions by the change of the core that their bodies make, the rules of an entry by the entry written. -/
theorem tlbInstructions : Obligations.TlbInstructions := by
  refine ⟨?instructions, fun m i x y va asid => ?entry⟩
  case instructions =>
    intro s c k ps d a b hready huser x y i d1 ret inv
    have hx : (fetched s c k ps).g c k a = x := g_fetched ..
    have hy : (fetched s c k ps).g c k b = y := g_fetched ..
    have hasks : AsksNone (fetched s c k ps) c := asksNone_fetched hready
    have hiv (bcast : Bool) := exec_invalidates hready huser (names := tlbivHits) (exec_tlbiv s c a bcast)
    have hia (bcast : Bool) := exec_invalidates hready huser (names := tlbiaHits) (exec_tlbia s c a bcast)
    refine ⟨?ins, ?set, ?rd, ?find, hiv false, hia false, hiv true, hia true⟩
    case ins =>
      refine exec_priv_modCore hready huser (exec_tlbins ..) (fun m => need_writeTlb ..) ?_
      rw [hx, hy]
      rfl
    case set =>
      refine exec_priv_modCore hready huser (exec_tlbset ..) (fun m => need_writeTlb ..) ?_
      rw [hx, hy, g_fetched]
      rfl
    case rd =>
      have hw := tlb_fetched s c k ps i
      refine exec_priv_retires hready huser (exec_tlbrd ..) ?_ (asksNone_setG.2 (asksNone_setG.2 hasks))
      dsimp only
      simp only [hx]
      rw [← hw.1, ← hw.2]
      rfl
    case find =>
      refine exec_priv_retires hready huser (exec_tlbfind ..) ?_ (asksNone_setG.2 hasks)
      rw [hx, asid_fetched]
  case entry =>
    intro t e size
    have he : e = m.normalise i.val x y := writeTlb_self m i x y
    rw [he]
    refine ⟨size_normalise .., vpn_normalise .., pfn_normalise .., rfl, fun j hj => ?low, ?bit62, ?bit63, asid_normalise ..,
      pin_normalise m i x y, fun j hj => writeTlb_ne m i x y hj, fun _ _ => ?translate, tlbFind_one, tlbFind_none,
      fun j1 j2 js h hva => ⟨tlbFind_several h hva, ?rising⟩, fun j hj hlow => chooseTlb_of_invalid hj hlow⟩
    case low =>
      have hmask : ∀ n, n < 6 → tlbMask1.getLsbD n = true := by decide
      exact lsb_normalise m i x y (by omega) (by omega) (by omega) (hmask j hj)
    case bit62 => exact lsb_normalise m i x y (by omega) (by omega) (by omega) (by decide)
    case bit63 => exact lsb_normalise m i x y (by omega) (by omega) (by omega) (by decide)
    case translate =>
      have hpos : 0 < 2 ^ (12 + storedSize x) := Nat.two_pow_pos _
      rw [show size = storedSize x from rfl, translate_normalise]
      exact ⟨by rw [Nat.mul_add_div hpos, Nat.div_eq_of_lt (Nat.mod_lt _ hpos), Nat.add_zero], by rw [Nat.mul_add_mod, Nat.mod_mod]⟩
    case rising =>
      have hpair := tlbHits_rising (m := m) (va := va) (asid := asid)
      rw [h] at hpair
      exact List.rel_of_pairwise_cons hpair List.mem_cons_self

end Sys2Proof.Proofs

namespace Sys2Proof.Proofs

open Sys2Proof Sys2Proof.Machine Sys2Proof.Laws

/-! # Storage keys (R205, R220 to R222, R228)

## The key of a frame -/

/-- A keyed frame's key is the entry of its number. -/
theorem frameKey_of_keyed {s : State} {pa : Nat} (h : keyed pa = true) :
    frameKey s pa = (Sparse.get (fun _ => 0#5) s.skeys (pa / 4096)).toNat := by
  unfold keyed at h
  unfold frameKey
  cases ht : targetOf pa with
  | hbm a => rfl
  | tile t a => rfl
  | setup a | window w a | host a | hole => rw [ht] at h; exact absurd h Bool.false_ne_true

theorem frameKey_of_not_keyed {s : State} {pa : Nat} (h : keyed pa = false) : frameKey s pa = 0 := by
  unfold keyed at h
  unfold frameKey
  cases ht : targetOf pa with
  | hbm a | tile t a => rw [ht] at h; exact absurd h.symm Bool.false_ne_true
  | setup a | window w a | host a | hole => rfl

/-- The key of a frame depends on the keys alone. -/
theorem frameKey_congr {s t : State} (h : t.skeys = s.skeys) (pa : Nat) : frameKey t pa = frameKey s pa := by
  unfold frameKey
  rw [h]

section
variable (s : State) {pa v : Nat} (hkeyed : keyed pa = true)
include hkeyed

/-- A change of a keyed frame's key writes the entry of its number. -/
theorem setFrameKey_of_keyed : setFrameKey s pa v =
    { s with skeys := Sparse.set (fun _ => 0#5) s.skeys (pa / 4096) (BitVec.ofNat 5 v) } := if_pos hkeyed

/-- R220: key and read guard are 5 bits. -/
theorem frameKey_setFrameKey_self (hv : v < 32) : frameKey (setFrameKey s pa v) pa = v := by
  rw [frameKey_of_keyed hkeyed, setFrameKey_of_keyed s hkeyed]
  dsimp only
  rw [Sparse.get_set, if_pos rfl, BitVec.toNat_ofNat, Nat.mod_eq_of_lt hv]

theorem frameKey_setFrameKey_ne {q : Nat} (hq : q / 4096 ≠ pa / 4096) : frameKey (setFrameKey s pa v) q = frameKey s q := by
  cases hk : keyed q with
  | false => rw [frameKey_of_not_keyed hk, frameKey_of_not_keyed hk]
  | true =>
    rw [frameKey_of_keyed hk, frameKey_of_keyed hk, setFrameKey_of_keyed s hkeyed]
    dsimp only
    rw [Sparse.get_set, if_neg hq]

end

/-- R221: which keys allow an access. -/
theorem keyAllows_iff (kd : Kind) (key fk : Nat) (rg : Bool) :
    keyAllows kd key fk rg = true ↔ key = 0 ∨ key = fk ∨ (kd ≠ .write ∧ rg = false) := by
  unfold keyAllows
  simp [or_assoc]

theorem skeys_fetched (s : State) (c : CoreId) (b : BankId) (ps : List (Phys × Nat)) :
    (fetched s c b ps).skeys = s.skeys := by
  obtain ⟨T, h⟩ := fetched_eq s c b ps
  rw [h]
  rfl

/-! ## MPU_SKEY -/

theorem finishSkey_none {s : State} (h : s.skey = none) : finishSkey s = s := by
  unfold finishSkey
  rw [h]

theorem finishSkey_some {s : State} {a x : Nat} (h : s.skey = some (a, x)) :
    finishSkey s = { (setFrameKey s a x).setF Fld.MPU_SKEY_BUSY 0 with skey := none } := by
  unfold finishSkey
  rw [h]

/-- R222: a write of MPU_SKEY names a frame and a key. -/
theorem skeyWrite_of_none {s : State} (h : s.skey = none) (v : Nat) : skeyWrite s v =
    if keyed (v / 4096 % 2 ^ 36 * 4096) then
      { s.setF Fld.MPU_SKEY_BUSY 1 with skey := some (v / 4096 % 2 ^ 36 * 4096, v % 32) }
    else s := by
  unfold skeyWrite bitsOf
  rw [finishSkey_none h, Nat.shiftRight_eq_div_pow, Nat.shiftRight_eq_div_pow, Nat.pow_zero, Nat.div_one]
  rfl

/-! ## Instructions that waited -/

theorem bank_advancePc_self (s : State) (c : CoreId) (b : BankId) (len : Nat) :
    (advancePc s c b len).bank c b = pcMoved len (s.bank c b) := by
  unfold advancePc State.bank
  rw [State.core_modCore_self]
  exact Core.bank_modBank_self (s.core c) b (pcMoved len)

theorem wait_advancePc_self (s : State) (c : CoreId) (b : BankId) (len : Nat) :
    ((advancePc s c b len).core c).wait = (s.core c).wait := by
  unfold advancePc
  rw [State.core_modCore_self]
  rfl

theorem retireWait_of_cur {s : State} {c : CoreId} {b : BankId} (hcur : (s.core c).cur = some b) :
    retireWait s c = advancePc (s.modCore c fun k => { k with wait := none }) c b 4 := by
  unfold retireWait
  rw [hcur]

/-- The oldest instruction of a core, which waited in bank `b`, has retired. -/
theorem core_retireWait_self {s : State} {c : CoreId} {b : BankId} (hcur : (s.core c).cur = some b) :
    ((retireWait s c).core c).wait = none ∧ ((retireWait s c).bank c b).pc = (s.bank c b).pc + 4 := by
  rw [retireWait_of_cur hcur, wait_advancePc_self, bank_advancePc_self]
  unfold State.bank
  rw [State.core_modCore_self]
  exact ⟨rfl, rfl⟩

theorem core_retireWait_ne {s : State} {c d : CoreId} (h : d ≠ c) : (retireWait s c).core d = s.core d := by
  unfold retireWait
  split
  · exact (State.core_modCore_ne _ _ _ _ h).trans (State.core_modCore_ne _ _ _ _ h)
  · exact State.core_modCore_ne _ _ _ _ h

/-- The retirement of an instruction that waited writes no memory, storage key or setup register. -/
theorem retireWait_keeps (s : State) (c : CoreId) :
    (retireWait s c).mem = s.mem ∧ (retireWait s c).skeys = s.skeys ∧ (retireWait s c).regs = s.regs := by
  unfold retireWait
  split <;> exact ⟨rfl, rfl, rfl⟩

theorem core_setFrameKey (s : State) (pa v : Nat) (c : CoreId) : (setFrameKey s pa v).core c = s.core c := by
  unfold setFrameKey
  split <;> rfl

/-- Settles O20: the instructions by their bodies, the rules of a key by the entry of a frame, the changes by what waits. -/
theorem storageKeys : Obligations.StorageKeys := by
  refine ⟨?instructions, fun s v => ?changes⟩
  case instructions =>
    intro s c k ps d a b hready huser u pa v
    have hasks : AsksNone u c := asksNone_fetched hready
    have ha : u.g c k a = s.g c k a := g_fetched ..
    have hb : u.g c k b = s.g c k b := g_fetched ..
    refine ⟨?get, fun hk => ?set, fun hk => ?unkeyed, ?sync, fun pa' hk => ⟨?self, ?other⟩, keyAllows_iff, fun e user => ?permits⟩
    case get =>
      refine exec_priv_retires hready huser (exec_fkget ..) ?_ (asksNone_setG.2 hasks)
      rw [g_fetched, frameKey_congr (skeys_fetched ..)]
      rfl
    case set =>
      refine exec_priv_holds hready huser (exec_fkset ..) ?_ ((asksNone_modCore rfl).2 hasks)
      rw [g_fetched, g_fetched]
      exact if_pos hk
    case unkeyed =>
      refine exec_priv_retires hready huser (exec_fkset ..) ?_ hasks
      rw [g_fetched]
      exact if_neg (Bool.eq_false_iff.1 hk)
    case sync =>
      refine exec_priv_holds hready huser (exec_msync ..) rfl ((asksNone_modCore rfl).2 ?_)
      unfold AsksNone
      rw [State.core_setF]
      exact hasks
    case self => exact frameKey_setFrameKey_self s hk (Nat.mod_lt _ (by omega))
    case other => exact fun q hq => frameKey_setFrameKey_ne s hk hq
    case permits =>
      unfold TlbEntry.permits
      cases user <;> simp
  case changes =>
    intro pa
    refine ⟨fun hnone hk => ?waits, fun hnone hk => ?unkeyed, fun a x hsome hk hx => ?acked, ?retires⟩
    case waits =>
      rw [exec_mpuSkeyWrite]
      unfold execMpuSkeyWrite
      rw [skeyWrite_of_none hnone, if_pos hk]
    case unkeyed =>
      rw [exec_mpuSkeyWrite]
      unfold execMpuSkeyWrite
      rw [skeyWrite_of_none hnone, if_neg (Bool.eq_false_iff.1 hk)]
    case acked =>
      refine ⟨finishSkey s, ?_, ?_⟩
      · rw [exec_storageKeyAcked]
        unfold execStorageKeyAcked
        rw [hsome]
        rfl
      · rw [finishSkey_some hsome]
        have hkeys (q : Nat) : frameKey { (setFrameKey s a x).setF Fld.MPU_SKEY_BUSY 0 with skey := none } q =
            frameKey (setFrameKey s a x) q := frameKey_congr (State.skeys_setF ..) q
        refine ⟨State.getF_setF_self _ _ _ (by decide) (by decide), rfl, ?_, ?_, ?_, fun q hq => ?_⟩
        · rw [hkeys, frameKey_setFrameKey_self s hk hx]
        · exact (State.mem_setF ..).trans (by rw [setFrameKey_of_keyed s hk])
        · exact (State.cores_setF ..).trans (by rw [setFrameKey_of_keyed s hk])
        · rw [hkeys, frameKey_setFrameKey_ne s hk hq]
    case retires =>
      intro c a x b hnone hwaits hcur hk hx
      refine ⟨retireWait (setFrameKey s a x) c, ?_, ?_⟩
      · rw [exec_storageKeyAcked]
        unfold execStorageKeyAcked
        rw [hnone, hwaits]
        rfl
      · have hself := core_retireWait_self (s := setFrameKey s a x) (c := c) (b := b) (by rw [core_setFrameKey]; exact hcur)
        obtain ⟨hmem, hkeys, -⟩ := retireWait_keeps (setFrameKey s a x) c
        refine ⟨hself.1, ?_, ?_, ?_, fun d hd => ?_⟩
        · rw [hself.2]
          unfold State.bank
          rw [core_setFrameKey]
        · rw [frameKey_congr hkeys, frameKey_setFrameKey_self s hk hx]
        · exact hmem.trans (by rw [setFrameKey_of_keyed s hk])
        · rw [core_retireWait_ne hd, core_setFrameKey]

end Sys2Proof.Proofs

namespace Sys2Proof.Proofs

open Sys2Proof Sys2Proof.Machine Sys2Proof.Laws

/-! # The MPU (R215 to R219, R225, R226)

## The check -/

/-- R216: the regions that apply to an access. -/
theorem mem_applying {s : State} {i : Initiator} {pa : Nat} {g : Region} : g ∈ applying s i pa ↔
    ∃ n, n < 256 ∧ activeRegion s n = some g ∧ g.base ≤ pa ∧ pa < g.base + g.size ∧ g.init.testBit i.bit = true := by
  unfold applying bitAt
  rw [List.mem_filter, List.mem_filterMap]
  simp only [List.mem_range, Bool.and_eq_true, decide_eq_true_eq]
  constructor
  · rintro ⟨⟨n, hn, hg⟩, hpa, hinit⟩
    exact ⟨n, hn, hg, hpa.1, hpa.2, hinit⟩
  · rintro ⟨n, hn, hg, hlow, hhigh, hinit⟩
    exact ⟨⟨n, hn, hg⟩, ⟨hlow, hhigh⟩, hinit⟩

/-- R216, R217: what the MPU allows, by the regions that apply. -/
theorem mpuCheck_eq_some (s : State) (i : Initiator) (kd : Kind) (start fin pa ty : Nat) :
    mpuCheck s i kd start fin pa = some ty ↔
      (∃ g, g ∈ applying s i pa) ∧ (∀ g ∈ applying s i pa, g.grants kd = true ∧ g.type = ty) ∧ (kd = .fetch → ty ≠ 1) ∧
        (kd = .write → ty = 2 → ∀ g ∈ applying s i pa,
          s.getF (Fld.MPU_APTR_APTR g.index) = start ∧ fin ≤ g.base + g.size) := by
  unfold mpuCheck
  cases applying s i pa with
  | nil => simp
  | cons g t =>
    dsimp only
    rw [ite_eq_iff, Option.some.injEq]
    simp only [Bool.and_eq_true, Bool.or_eq_true, List.all_eq_true, Bool.not_eq_true', Bool.and_eq_false_iff,
      decide_eq_false_iff_not, decide_eq_true_eq, beq_iff_eq, beq_eq_false_iff_ne, bne_iff_ne, ne_eq, reduceCtorEq, and_false,
      or_false]
    constructor
    · rintro ⟨⟨⟨hall, hfetch⟩, hwrite⟩, rfl⟩
      exact ⟨⟨g, List.mem_cons_self⟩, hall, fun hk => hfetch.resolve_left (not_not.2 hk),
        fun hk hty => (hwrite.resolve_left (not_or.2 ⟨not_not.2 hk, not_not.2 hty⟩))⟩
    · rintro ⟨-, hall, hfetch, hwrite⟩
      have hty : g.type = ty := (hall g List.mem_cons_self).2
      subst hty
      refine ⟨⟨⟨hall, ?_⟩, ?_⟩, rfl⟩
      · by_cases hk : kd = .fetch
        · exact .inr (hfetch hk)
        · exact .inl hk
      · by_cases hk : kd = .write
        · by_cases h2 : g.type = 2
          · exact .inr (hwrite hk h2)
          · exact .inl (.inr h2)
        · exact .inl (.inl hk)

/-- An active region depends on its two registers. -/
theorem activeRegion_congr {s t : State} {n : Nat} (hattr : t.reg (Off.MPU_ACT_ATTR n) = s.reg (Off.MPU_ACT_ATTR n))
    (hbase : t.reg (Off.MPU_ACT_BASE n) = s.reg (Off.MPU_ACT_BASE n)) : activeRegion t n = activeRegion s n := by
  unfold activeRegion
  rw [hattr, hbase]

/-! ## Activation -/

/-- A register of region `n` that an activation writes. -/
def activates (n a : Nat) : Prop := a = Off.MPU_ACT_BASE n ∨ a = Off.MPU_ACT_ATTR n ∨ a = Off.MPU_APTR n

section
variable (s : State) (n : Nat)

theorem reg_activateRegion_ne {a : Nat} (hevt : a ≠ Off.SYS_EVT) (h : ¬activates n a) : (activateRegion s n).reg a = s.reg a := by
  unfold activates at h
  rw [not_or, not_or] at h
  obtain ⟨hbase, hattr, hptr⟩ := h
  unfold activateRegion
  rw [reg_setReg, if_neg hattr, reg_setReg, if_neg hbase, State.reg_setF_ne _ _ _ _ hptr hevt]

theorem reg_activateRegion_attr : (activateRegion s n).reg (Off.MPU_ACT_ATTR n) = s.reg (Off.MPU_RGN_ATTR n) := by
  unfold activateRegion
  rw [reg_setReg, if_pos rfl, Nat.mod_eq_of_lt (State.reg_lt ..)]

theorem reg_activateRegion_base : (activateRegion s n).reg (Off.MPU_ACT_BASE n) = s.reg (Off.MPU_RGN_BASE n) := by
  have hne : Off.MPU_ACT_BASE n ≠ Off.MPU_ACT_ATTR n := by unfold Off.MPU_ACT_BASE Off.MPU_ACT_ATTR; omega
  unfold activateRegion
  rw [reg_setReg, if_neg hne, reg_setReg, if_pos rfl, Nat.mod_eq_of_lt (State.reg_lt ..)]

theorem pointer_activateRegion (hn : n < 256) :
    (activateRegion s n).getF (Fld.MPU_APTR_APTR n) = newPointer s n % 2 ^ 48 := by
  have hattr : (Fld.MPU_APTR_APTR n).off ≠ Off.MPU_ACT_ATTR n := by
    show 0x53000 + 8 * n ≠ 0x52008 + 16 * n
    omega
  have hbase : (Fld.MPU_APTR_APTR n).off ≠ Off.MPU_ACT_BASE n := by
    show 0x53000 + 8 * n ≠ 0x52000 + 16 * n
    omega
  have hevt : (Fld.MPU_APTR_APTR n).off ≠ Off.SYS_EVT := by
    show 0x53000 + 8 * n ≠ 0x40
    omega
  unfold activateRegion
  refine (State.getF_congr _ ?_).trans (State.getF_setF_self s (Fld.MPU_APTR_APTR n) (newPointer s n) hevt ?_)
  · rw [reg_setReg, if_neg hattr, reg_setReg, if_neg hbase]
  · show 0 + 48 ≤ 64
    omega

end

/-- The pointer of a region at an activation depends on the registers of the region. -/
theorem newPointer_congr {s t : State} {n : Nat} (hrattr : t.reg (Off.MPU_RGN_ATTR n) = s.reg (Off.MPU_RGN_ATTR n))
    (hrbase : t.reg (Off.MPU_RGN_BASE n) = s.reg (Off.MPU_RGN_BASE n))
    (h : ∀ a, activates n a → t.reg a = s.reg a) : newPointer t n = newPointer s n := by
  unfold newPointer
  rw [hrattr, hrbase, h _ (.inl rfl), h _ (.inr (.inl rfl)), State.getF_congr (Fld.MPU_APTR_APTR n) (h _ (.inr (.inr rfl)))]

/-- The first `n` regions of the shadow set of `s` are active in `t`, and no other register but SYS_EVT differs. -/
structure Activated (s t : State) (n : Nat) : Prop where
  base : ∀ k, k < n → t.reg (Off.MPU_ACT_BASE k) = s.reg (Off.MPU_RGN_BASE k)
  attr : ∀ k, k < n → t.reg (Off.MPU_ACT_ATTR k) = s.reg (Off.MPU_RGN_ATTR k)
  pointer : ∀ k, k < n → t.getF (Fld.MPU_APTR_APTR k) = newPointer s k % 2 ^ 48
  rest : ∀ a, a ≠ Off.SYS_EVT → (∀ k, k < n → ¬activates k a) → t.reg a = s.reg a

/-- The registers of different regions differ. -/
theorem activates_apart {j k a : Nat} (hj : j < 256) (hk : k < 256) (h : activates j a) (hne : j ≠ k) : ¬activates k a := by
  unfold activates Off.MPU_ACT_BASE Off.MPU_ACT_ATTR Off.MPU_APTR at *
  omega

theorem activates_ne_sysEvt {k a : Nat} (h : activates k a) : a ≠ Off.SYS_EVT := by
  unfold activates Off.MPU_ACT_BASE Off.MPU_ACT_ATTR Off.MPU_APTR at h
  unfold Off.SYS_EVT
  omega

/-- An activation writes no register of the shadow set. -/
theorem shadow_not_activated {j k : Nat} (hj : j < 256) (hk : k < 256) :
    ¬activates k (Off.MPU_RGN_BASE j) ∧ ¬activates k (Off.MPU_RGN_ATTR j) := by
  unfold activates Off.MPU_RGN_BASE Off.MPU_RGN_ATTR Off.MPU_ACT_BASE Off.MPU_ACT_ATTR Off.MPU_APTR
  omega

theorem shadow_ne_sysEvt (j : Nat) : Off.MPU_RGN_BASE j ≠ Off.SYS_EVT ∧ Off.MPU_RGN_ATTR j ≠ Off.SYS_EVT := by
  unfold Off.MPU_RGN_BASE Off.MPU_RGN_ATTR Off.SYS_EVT
  omega

theorem activated_zero (s : State) : Activated s s 0 := ⟨nofun, nofun, nofun, fun _ _ _ => rfl⟩

theorem Activated.succ {s t : State} {n : Nat} (h : Activated s t n) (hn : n < 256) :
    Activated s (activateRegion t n) (n + 1) := by
  have hshadow {a : Nat} (hevt : a ≠ Off.SYS_EVT) (hna : ∀ k, k < 256 → ¬activates k a) : t.reg a = s.reg a :=
    h.rest a hevt fun k hk => hna k (by omega)
  have hrattr : t.reg (Off.MPU_RGN_ATTR n) = s.reg (Off.MPU_RGN_ATTR n) :=
    hshadow (shadow_ne_sysEvt n).2 fun k hk => (shadow_not_activated hn hk).2
  have hrbase : t.reg (Off.MPU_RGN_BASE n) = s.reg (Off.MPU_RGN_BASE n) :=
    hshadow (shadow_ne_sysEvt n).1 fun k hk => (shadow_not_activated hn hk).1
  have hown (a : Nat) (ha : activates n a) : t.reg a = s.reg a :=
    h.rest a (activates_ne_sysEvt ha) fun k hk => activates_apart hn (by omega) ha (by omega)
  have hkeep {k a : Nat} (hk : k < n) (ha : activates k a) : (activateRegion t n).reg a = t.reg a :=
    reg_activateRegion_ne t n (activates_ne_sysEvt ha) (activates_apart (by omega) hn ha (by omega))
  refine ⟨fun k hk => ?_, fun k hk => ?_, fun k hk => ?_, fun a hevt ha => ?_⟩
  · rcases Nat.lt_succ_iff_lt_or_eq.1 hk with hk | rfl
    · rw [hkeep hk (.inl rfl), h.base k hk]
    · rw [reg_activateRegion_base, hrbase]
  · rcases Nat.lt_succ_iff_lt_or_eq.1 hk with hk | rfl
    · rw [hkeep hk (.inr (.inl rfl)), h.attr k hk]
    · rw [reg_activateRegion_attr, hrattr]
  · rcases Nat.lt_succ_iff_lt_or_eq.1 hk with hk | rfl
    · rw [State.getF_congr (Fld.MPU_APTR_APTR k) (hkeep hk (.inr (.inr rfl))), h.pointer k hk]
    · rw [pointer_activateRegion t k hn, newPointer_congr hrattr hrbase hown]
  · rw [reg_activateRegion_ne t n hevt (ha n (Nat.lt_succ_self n)), h.rest a hevt fun k hk => ha k (Nat.lt_succ_of_lt hk)]

theorem activated_foldl (s : State) : ∀ n, n ≤ 256 → Activated s ((List.range n).foldl activateRegion s) n
  | 0, _ => activated_zero s
  | n + 1, h => by
    rw [List.range_succ, List.foldl_append]
    exact (activated_foldl s n (Nat.le_of_succ_le h)).succ h

/-- The regions of the shadow set are active, and MPU_STATUS is as before. -/
def regionsActive (s : State) : State := (List.range 256).foldl activateRegion s

theorem activated_regionsActive (s : State) : Activated s (regionsActive s) 256 := activated_foldl s 256 (Nat.le_refl _)

theorem activateAll_eq (s : State) : activateAll s =
    ((regionsActive s).setF Fld.MPU_STATUS_DRAINING 0).setF Fld.MPU_STATUS_GEN ((regionsActive s).getF Fld.MPU_STATUS_GEN + 1) := rfl

theorem reg_activateAll_ne (s : State) {a : Nat} (hstatus : a ≠ Off.MPU_STATUS) (hevt : a ≠ Off.SYS_EVT) :
    (activateAll s).reg a = (regionsActive s).reg a := by
  rw [activateAll_eq, State.reg_setF_ne _ _ _ _ hstatus hevt, State.reg_setF_ne _ _ _ _ hstatus hevt]

/-- A register below the active set is no register of a region. -/
theorem not_activates_of_lt {k a : Nat} (h : a < 0x52000) : ¬activates k a := by
  unfold activates Off.MPU_ACT_BASE Off.MPU_ACT_ATTR Off.MPU_APTR
  omega

theorem gen_regionsActive (s : State) : (regionsActive s).getF Fld.MPU_STATUS_GEN = s.getF Fld.MPU_STATUS_GEN :=
  State.getF_congr _ ((activated_regionsActive s).rest _ (by decide) fun _ _ => not_activates_of_lt (by decide))

theorem draining_activateAll (s : State) : (activateAll s).getF Fld.MPU_STATUS_DRAINING = 0 := by
  rw [activateAll_eq, State.getF_setF_beside _ Fld.MPU_STATUS_GEN Fld.MPU_STATUS_DRAINING _ (by decide) rfl (by decide) (by decide),
    State.getF_setF_self _ _ _ (by decide) (by decide)]
  rfl

theorem gen_activateAll (s : State) :
    (activateAll s).getF Fld.MPU_STATUS_GEN = (s.getF Fld.MPU_STATUS_GEN + 1) % 2 ^ 32 := by
  rw [activateAll_eq, State.getF_setF_self _ _ _ (by decide) (by decide), gen_regionsActive]
  rfl

/-- R218, R225: the shadow set is active, with its pointers. -/
theorem regions_activateAll (s : State) {n : Nat} (hn : n < 256) :
    (activateAll s).reg (Off.MPU_ACT_BASE n) = s.reg (Off.MPU_RGN_BASE n) ∧
      (activateAll s).reg (Off.MPU_ACT_ATTR n) = s.reg (Off.MPU_RGN_ATTR n) ∧
      (activateAll s).getF (Fld.MPU_APTR_APTR n) = newPointer s n % 2 ^ 48 := by
  have hact := activated_regionsActive s
  have hsame {a : Nat} (ha : activates n a) : (activateAll s).reg a = (regionsActive s).reg a :=
    reg_activateAll_ne s (fun e => not_activates_of_lt (by rw [e]; decide) ha) (activates_ne_sysEvt ha)
  exact ⟨(hsame (.inl rfl)).trans (hact.base n hn), (hsame (.inr (.inl rfl))).trans (hact.attr n hn),
    (State.getF_congr _ (hsame (.inr (.inr rfl)))).trans (hact.pointer n hn)⟩

/-! ## Refusals (R219) -/

theorem mpuSettled_draining {s : State} (h : s.getF Fld.MPU_STATUS_DRAINING = 1) : mpuSettled s = activateAll s := if_pos h

theorem mpuSettled_settled {s : State} (h : s.getF Fld.MPU_STATUS_DRAINING ≠ 1) : mpuSettled s = s := if_neg h

/-- An activation leaves MPU_FAULT. -/
theorem fault_mpuSettled (s : State) : (mpuSettled s).reg Off.MPU_FAULT = s.reg Off.MPU_FAULT := by
  by_cases h : s.getF Fld.MPU_STATUS_DRAINING = 1
  · rw [mpuSettled_draining h, reg_activateAll_ne s (by decide) (by decide)]
    exact (activated_regionsActive s).rest _ (by decide) fun _ _ => not_activates_of_lt (by decide)
  · rw [mpuSettled_settled h]

section
variable (s : State) (r : ErrReport) {a : Nat} (ha : 0x50000 ≤ a)
include ha

/-- The collector writes its own registers, which lie below MPU's, and SYS_EVT. -/
theorem reg_noteFault : (noteFault s r).reg a = s.reg a := by
  have hevt : a ≠ Off.SYS_EVT := by unfold Off.SYS_EVT; omega
  have hstatus : a ≠ Fld.ERR_STATUS_SECOND.off := by show a ≠ 0x40010; omega
  have hsecond : a ≠ Off.ERR_SECOND_CNT := by unfold Off.ERR_SECOND_CNT; omega
  have hfault : a ≠ Off.ERR_FAULT_CNT := by unfold Off.ERR_FAULT_CNT; omega
  unfold noteFault
  split
  · have hcount (u : State) (h : u.reg a = s.reg a) : (u.bump Off.ERR_FAULT_CNT).reg a = s.reg a := by
      rw [reg_bump, if_neg hfault, h]
    refine hcount _ ?_
    split
    · rw [reg_bump, if_neg hsecond, State.reg_setF_ne _ _ _ _ hstatus hevt]
    · rfl
  · rfl

theorem reg_writeEntry (second : Bool) : (writeEntry s r second).reg a = s.reg a := by
  have hevt : a ≠ Off.SYS_EVT := by unfold Off.SYS_EVT; omega
  have hstatus : a ≠ Fld.ERR_STATUS_OVERFLOW.off := by show a ≠ 0x40010; omega
  have hlost : a ≠ Off.ERR_LOST_CNT := by unfold Off.ERR_LOST_CNT; omega
  have hptr : a ≠ Fld.ERR_LOG_PTR_WR.off := by show a ≠ 0x40018; omega
  have hlog (k : Nat) (hk : k < 1024) : a ≠ Off.ERR_LOG k := by unfold Off.ERR_LOG; omega
  unfold writeEntry
  dsimp only
  split
  · exact (State.reg_setF_ne _ _ _ _ hstatus hevt).trans ((reg_bump ..).trans (if_neg hlost))
  · have hlogged (e : List Byte) (k : Nat) (hk : k ≤ 1020) : ((((s.setReg (Off.ERR_LOG k) (fld e 0 8)).setReg
        (Off.ERR_LOG (k + 1)) (fld e 8 8)).setReg (Off.ERR_LOG (k + 2)) (fld e 16 8)).setReg (Off.ERR_LOG (k + 3))
        (fld e 24 8)).reg a = s.reg a := by
      rw [reg_setReg, if_neg (hlog _ (by omega)), reg_setReg, if_neg (hlog _ (by omega)), reg_setReg,
        if_neg (hlog _ (by omega)), reg_setReg, if_neg (hlog _ (by omega))]
    have hwritten (u : State) (v : Nat) (h : u.reg a = s.reg a) :
        ({ u with err := { u.err with lost := false } }.setF Fld.ERR_LOG_PTR_WR v).reg a = s.reg a :=
      (State.reg_setF_ne _ _ _ _ hptr hevt).trans h
    have hall := hlogged (errEntry s r second) (4 * (s.getF Fld.ERR_LOG_PTR_WR % 256)) (by omega)
    split
    · rw [State.reg_msix]
      exact hwritten _ _ hall
    · exact hwritten _ _ hall

theorem reg_report : (s.report r).reg a = s.reg a := by
  have hcorrected : a ≠ Off.ERR_CE_CNT := by unfold Off.ERR_CE_CNT; omega
  have hcount : (s.bump Off.ERR_CE_CNT).reg a = s.reg a := by rw [reg_bump, if_neg hcorrected]
  have hentry (u : State) (h : u.reg a = s.reg a) : (writeEntry u r false).reg a = s.reg a :=
    (reg_writeEntry u r ha false).trans h
  unfold State.report
  split
  · dsimp only
    split
    · exact hcount
    · refine hentry _ ?_
      exact hcount
  · rw [reg_writeEntry _ _ ha, reg_noteFault _ _ ha]

end

/-- R219: a first refusal is kept in MPU_FAULT. -/
theorem fault_refuseAccess_first {s : State} (h : s.getF Fld.MPU_FAULT_VALID = 0) (i : Initiator) (k : Kind) (pa : Nat) :
    (refuseAccess s i k pa).getF Fld.MPU_FAULT_VALID = 1 ∧
      (refuseAccess s i k pa).getF Fld.MPU_FAULT_WRITE = b2n (decide (k = .write)) ∧
      (refuseAccess s i k pa).getF Fld.MPU_FAULT_CLASS = i.bit := by
  have hevt : Off.MPU_FAULT ≠ Off.SYS_EVT := by decide
  have hbit : i.bit % 2 ^ 3 = i.bit := by cases i <;> rfl
  have hwrite : b2n (decide (k = .write)) % 2 ^ 1 = b2n (decide (k = .write)) := by cases k <;> rfl
  have hreport (u : State) (r : ErrReport) (f : FieldRef) (hf : f.off = Off.MPU_FAULT) : (u.report r).getF f = u.getF f :=
    State.getF_congr f (reg_report u r (by rw [hf]; decide))
  unfold refuseAccess
  rw [if_pos h, hreport _ _ Fld.MPU_FAULT_VALID rfl, hreport _ _ Fld.MPU_FAULT_WRITE rfl, hreport _ _ Fld.MPU_FAULT_CLASS rfl]
  refine ⟨?_, ?_, ?_⟩
  · rw [State.getF_setF_beside _ Fld.MPU_FAULT_ADDR Fld.MPU_FAULT_VALID _ hevt rfl (by decide) (by decide),
      State.getF_setF_beside _ Fld.MPU_FAULT_WRITE Fld.MPU_FAULT_VALID _ hevt rfl (by decide) (by decide),
      State.getF_setF_beside _ Fld.MPU_FAULT_CLASS Fld.MPU_FAULT_VALID _ hevt rfl (by decide) (by decide),
      State.getF_setF_self _ _ _ hevt (by decide)]
    rfl
  · rw [State.getF_setF_beside _ Fld.MPU_FAULT_ADDR Fld.MPU_FAULT_WRITE _ hevt rfl (by decide) (by decide),
      State.getF_setF_self _ _ _ hevt (by decide)]
    exact hwrite
  · rw [State.getF_setF_beside _ Fld.MPU_FAULT_ADDR Fld.MPU_FAULT_CLASS _ hevt rfl (by decide) (by decide),
      State.getF_setF_beside _ Fld.MPU_FAULT_WRITE Fld.MPU_FAULT_CLASS _ hevt rfl (by decide) (by decide),
      State.getF_setF_self _ _ _ hevt (by decide)]
    exact hbit

/-- R219: a later refusal leaves MPU_FAULT. -/
theorem fault_refuseAccess_later {s : State} (h : s.getF Fld.MPU_FAULT_VALID ≠ 0) (i : Initiator) (k : Kind) (pa : Nat) :
    (refuseAccess s i k pa).reg Off.MPU_FAULT = s.reg Off.MPU_FAULT := by
  unfold refuseAccess
  rw [if_neg h]
  exact reg_report _ _ (by decide)

/-! ## Append pointers (R217) -/

/-- The regions that apply depend on the setup registers alone. -/
theorem applying_congr {s t : State} (h : t.regs = s.regs) (i : Initiator) (pa : Nat) : applying t i pa = applying s i pa := by
  have hactive : activeRegion t = activeRegion s :=
    funext fun n => activeRegion_congr (State.reg_congr h _) (State.reg_congr h _)
  unfold applying
  rw [hactive]

/-- Moves the pointer of a region of append-only memory. -/
def movePointer (v : Nat) (s : State) (g : Region) : State := if g.type = 2 then s.setF (Fld.MPU_APTR_APTR g.index) v else s

theorem pointer_ne_sysEvt (n : Nat) : (Fld.MPU_APTR_APTR n).off ≠ Off.SYS_EVT := by
  show 0x53000 + 8 * n ≠ 0x40
  omega

theorem pointer_setF_self (s : State) (n v : Nat) :
    (s.setF (Fld.MPU_APTR_APTR n) v).getF (Fld.MPU_APTR_APTR n) = v % 2 ^ 48 :=
  State.getF_setF_self _ _ _ (pointer_ne_sysEvt n) (show 0 + 48 ≤ 64 by omega)

/-- A pointer that has been moved stays there when others, or it again, are moved to the same place. -/
theorem pointer_movePointer_of_moved {s : State} {n v : Nat} (g : Region) (h : s.getF (Fld.MPU_APTR_APTR n) = v % 2 ^ 48) :
    (movePointer v s g).getF (Fld.MPU_APTR_APTR n) = v % 2 ^ 48 := by
  unfold movePointer
  split
  · by_cases hn : g.index = n
    · rw [hn, pointer_setF_self]
    · have hoff : (Fld.MPU_APTR_APTR n).off ≠ (Fld.MPU_APTR_APTR g.index).off := by
        show 0x53000 + 8 * n ≠ 0x53000 + 8 * g.index
        omega
      rw [State.getF_setF_ne _ _ _ _ hoff (pointer_ne_sysEvt n), h]
  · exact h

theorem pointer_foldl_movePointer (v : Nat) {l : List Region} {g : Region} (hg : g ∈ l) (h2 : g.type = 2) (s : State) :
    (l.foldl (movePointer v) s).getF (Fld.MPU_APTR_APTR g.index) = v % 2 ^ 48 := by
  induction l generalizing s with
  | nil => exact absurd hg List.not_mem_nil
  | cons x t ih =>
    rw [List.foldl_cons]
    rcases List.mem_cons.1 hg with rfl | ht
    · refine foldl_inv (P := fun u : State => u.getF (Fld.MPU_APTR_APTR g.index) = v % 2 ^ 48) ?_ t
        fun u y hu => pointer_movePointer_of_moved y hu
      unfold movePointer
      rw [if_pos h2, pointer_setF_self]
    · exact ih ht _

theorem pointer_appendAdvance {s : State} {i : Initiator} {pa : Nat} {g : Region} (hg : g ∈ applying s i pa) (h2 : g.type = 2)
    (n : Nat) : (appendAdvance s i pa n).getF (Fld.MPU_APTR_APTR g.index) = (pa + n) % 2 ^ 48 :=
  pointer_foldl_movePointer (pa + n) hg h2 s

/-! ## Accesses of islands -/

section
variable {s s1 : State} {i : Initiator} {pa : Nat}

/-- R219, R384: a read that gives nothing changes at most what an activation and a refusal change. -/
theorem islandRead_none {n : Nat} (h : islandRead s i pa n = (none, s1)) : Quiet s s1 := by
  unfold islandRead readChecked at h
  split at h
  · split at h
    · rw [← (Prod.mk.inj h).2]
      exact quiet_mpuSettled s
    · exact absurd (Prod.mk.inj h).1 nofun
  · rw [← (Prod.mk.inj h).2]
    exact (quiet_mpuSettled s).trans (quiet_refuseAccess ..)

theorem islandRead_some {n : Nat} {bs : List Byte} (h : islandRead s i pa n = (some bs, s1)) :
    s1 = mpuSettled s ∧ bs = s.rd pa n ∧ islandRefused (mpuSettled s) i .read pa n = none := by
  unfold islandRead readChecked at h
  split at h
  case h_1 hnone =>
    split at h
    · exact absurd (Prod.mk.inj h).1 nofun
    · obtain ⟨hbs, hs⟩ := Prod.mk.inj h
      have hrd : (mpuSettled s).rd pa n = s.rd pa n := by
        unfold State.rd
        rw [(quiet_mpuSettled s).mem]
      exact ⟨hs.symm, (Option.some.inj hbs).symm.trans hrd, hnone⟩
  case h_2 => exact absurd (Prod.mk.inj h).1 nofun

variable {bs : List Byte}

theorem islandWrite_true (h : islandWrite s i pa bs = (true, s1)) :
    s1 = appendAdvance ((mpuSettled s).wr pa bs) i pa bs.length ∧ islandRefused (mpuSettled s) i .write pa bs.length = none := by
  unfold islandWrite writeChecked at h
  split at h
  case h_1 hnone =>
    split at h
    · exact absurd (Prod.mk.inj h).1 nofun
    · exact ⟨(Prod.mk.inj h).2.symm, hnone⟩
  case h_2 => exact absurd (Prod.mk.inj h).1 nofun

/-- A write that is not made finds the store absent, or it is refused. -/
theorem islandWrite_false (h : islandWrite s i pa bs = (false, s1)) :
    (s1 = mpuSettled s ∧ islandRefused (mpuSettled s) i .write pa bs.length = none) ∨
      ∃ p, s1 = refuseAccess (mpuSettled s) i .write p := by
  unfold islandWrite writeChecked at h
  split at h
  case h_1 hnone =>
    split at h
    · exact .inl ⟨(Prod.mk.inj h).2.symm, hnone⟩
    · exact absurd (Prod.mk.inj h).1 nofun
  case h_2 p _ => exact .inr ⟨p, (Prod.mk.inj h).2.symm⟩

end

/-! ## Instructions that wait for the activation (R125, R226) -/

section
variable {f : State → CoreId → State} (hf : ∀ s d e, e ≠ d → (f s d).core e = s.core e)
include hf

theorem core_foldl_of_not_mem {l : List CoreId} {c : CoreId} (hc : c ∉ l) (s : State) : (l.foldl f s).core c = s.core c := by
  induction l generalizing s with
  | nil => rfl
  | cons d t ih =>
    rw [List.mem_cons, not_or] at hc
    rw [List.foldl_cons, ih hc.2, hf s d c hc.1]

/-- A pass over the cores that changes each core at its own turn alone. -/
theorem core_foldl_of_mem {l : List CoreId} (hl : l.Nodup) (s : State) {c : CoreId} (hc : c ∈ l) :
    ∃ u : State, u.core c = s.core c ∧ (l.foldl f s).core c = (f u c).core c := by
  induction l generalizing s with
  | nil => exact absurd hc List.not_mem_nil
  | cons d t ih =>
    obtain ⟨hd, ht⟩ := List.nodup_cons.1 hl
    rw [List.foldl_cons]
    by_cases hcd : c = d
    · subst hcd
      exact ⟨s, rfl, core_foldl_of_not_mem hf hd _⟩
    · obtain ⟨u, hu, hfold⟩ := ih ht (f s d) ((List.mem_cons.1 hc).resolve_left hcd)
      exact ⟨u, hu.trans (hf s d c hcd), hfold⟩

end

/-- A core whose instruction waits for the activation retires it; another is left as it is. -/
theorem core_retireMsync_ne (s : State) (d e : CoreId) (h : e ≠ d) : (retireMsync s d).core e = s.core e := by
  unfold retireMsync
  split
  · exact core_retireWait_ne h
  · rfl

/-- Every MSYNC that waits retires. -/
def msyncsRetired (s : State) : State := allCores.foldl retireMsync s

theorem msyncsRetired_keeps (s : State) :
    (msyncsRetired s).mem = s.mem ∧ (msyncsRetired s).skeys = s.skeys ∧ (msyncsRetired s).regs = s.regs := by
  refine foldl_inv (P := fun t : State => t.mem = s.mem ∧ t.skeys = s.skeys ∧ t.regs = s.regs) ⟨rfl, rfl, rfl⟩ _ fun t c ht => ?_
  obtain ⟨hmem, hskeys, hregs⟩ := retireWait_keeps t c
  unfold retireMsync
  split
  · exact ⟨hmem.trans ht.1, hskeys.trans ht.2.1, hregs.trans ht.2.2⟩
  · exact ht

/-- The core of a pass is as its own turn leaves it. -/
theorem core_msyncsRetired (s : State) (c : CoreId) :
    ∃ u : State, u.core c = s.core c ∧ (msyncsRetired s).core c = (retireMsync u c).core c :=
  core_foldl_of_mem core_retireMsync_ne (List.nodup_finRange 96) s (List.mem_finRange c)

theorem wait_retireWait (s : State) (c : CoreId) : ((retireWait s c).core c).wait = none := by
  unfold retireWait
  split
  · rw [wait_advancePc_self, State.core_modCore_self]
  · rw [State.core_modCore_self]

theorem core_msyncsRetired_of_other {s : State} {c : CoreId} (h : (s.core c).wait ≠ some .msync) :
    (msyncsRetired s).core c = s.core c := by
  obtain ⟨u, hu, hc⟩ := core_msyncsRetired s c
  rw [hc]
  unfold retireMsync
  rw [if_neg (by rw [hu]; exact h), hu]

section
variable {s : State} {c : CoreId} (h : (s.core c).wait = some .msync)
include h

theorem core_msyncsRetired_of_wait :
    ∃ u : State, u.core c = s.core c ∧ (msyncsRetired s).core c = (retireWait u c).core c := by
  obtain ⟨u, hu, hc⟩ := core_msyncsRetired s c
  unfold retireMsync at hc
  rw [if_pos (by rw [hu]; exact h)] at hc
  exact ⟨u, hu, hc⟩

theorem wait_msyncsRetired : ((msyncsRetired s).core c).wait = none := by
  obtain ⟨u, -, hc⟩ := core_msyncsRetired_of_wait h
  rw [hc, wait_retireWait]

theorem pc_msyncsRetired {b : BankId} (hcur : (s.core c).cur = some b) :
    ((msyncsRetired s).bank c b).pc = (s.bank c b).pc + 4 := by
  obtain ⟨u, hu, hc⟩ := core_msyncsRetired_of_wait h
  have hpc := (core_retireWait_self (s := u) (c := c) (b := b) (by rw [hu]; exact hcur)).2
  unfold State.bank at hpc ⊢
  rw [hc, hpc, hu]

end

/-- R225: every access that a core has checked is done. -/
theorem accessesDone_iff (s : State) : accessesDone s = true ↔ ∀ c, (s.core c).sq = [] ∧ (s.core c).posted = [] ∧
    ∀ w, (s.core c).wait = some w → w.onWindow = false := by
  unfold accessesDone
  rw [List.all_eq_true]
  refine ⟨fun h c => ?_, fun h c _ => ?_⟩
  · have hc := h c (List.mem_finRange c)
    rw [Bool.and_eq_true, Bool.and_eq_true, List.isEmpty_iff, List.isEmpty_iff] at hc
    refine ⟨hc.1.1, hc.1.2, fun w hw => ?_⟩
    simpa [hw] using hc.2
  · obtain ⟨hsq, hposted, hwait⟩ := h c
    rw [hsq, hposted]
    cases hw : (s.core c).wait with
    | none => rfl
    | some w => simp [hwait w hw]

/-! ## The commands -/

section
variable {s : State}

theorem exec_mpuActivation_waits (hdrain : s.getF Fld.MPU_STATUS_DRAINING = 1) (hdone : accessesDone s = false) :
    exec (.mpuActivation) s = .next s := by
  rw [exec_mpuActivation]
  unfold execMpuActivation
  rw [if_pos hdrain, if_neg (Bool.eq_false_iff.1 hdone)]

theorem exec_mpuActivation_activates (hdrain : s.getF Fld.MPU_STATUS_DRAINING = 1) (hdone : accessesDone s = true) :
    exec (.mpuActivation) s = .next (msyncsRetired (activateAll s)) := by
  rw [exec_mpuActivation]
  unfold execMpuActivation
  rw [if_pos hdrain, if_pos hdone]
  rfl

theorem exec_mpuActivation_settled (hdrain : s.getF Fld.MPU_STATUS_DRAINING ≠ 1) :
    exec (.mpuActivation) s = .next (msyncsRetired s) := by
  rw [exec_mpuActivation]
  unfold execMpuActivation
  rw [if_neg hdrain]
  rfl

end

/-- R225: a request sets DRAINING and leaves the active set. -/
theorem activeRegion_requestActivation (s : State) {n : Nat} : activeRegion (requestActivation s) n = activeRegion s n := by
  have hkeep {a : Nat} (ha : activates n a) : (requestActivation s).reg a = s.reg a :=
    State.reg_setF_ne _ _ _ _ (fun e => not_activates_of_lt (by rw [e]; decide) ha) (activates_ne_sysEvt ha)
  exact activeRegion_congr (hkeep (.inr (.inl rfl))) (hkeep (.inl rfl))

theorem quiet_activateAll (s : State) : Quiet s (activateAll s) := by
  rw [activateAll_eq]
  exact ((foldl_inv (P := Quiet s) (.refl s) _ fun _ k h => quiet_activateRegion h k).setF _ _).setF _ _

/-- Settles O48: the check by the regions that apply, the accesses by the settled state, the activation region by region. -/
theorem mpuRules : Obligations.MpuRules := by
  intro s i kd
  have hq : Quiet s (mpuSettled s) := quiet_mpuSettled s
  refine ⟨fun start fin pa ty => ?check, ⟨mpuSettled_draining, mpuSettled_settled, fun pa n => ⟨fun s1 h => ?none, fun bs s1 => islandRead_some⟩,
    fun pa bs s1 => ⟨fun h => ?written, fun h => ?refused⟩⟩, ?request, accessesDone_iff s, exec_mpuActivation_waits,
    fun hdrain hdone => ?activates, fun hdrain => ?settled⟩
  case check =>
    rw [mpuCheck_eq_some]
    simp only [mem_applying]
  case none => exact ⟨(islandRead_none h).mem, (islandRead_none h).txns, (islandRead_none h).cores⟩
  case written =>
    obtain ⟨rfl, hnone⟩ := islandWrite_true h
    have hadv : Quiet ((mpuSettled s).wr pa bs) (appendAdvance ((mpuSettled s).wr pa bs) i pa bs.length) := quiet_appendAdvance ..
    refine ⟨hadv.mem.trans ?_, hadv.txns.trans hq.txns, hadv.cores.trans hq.cores, hnone, fun g hg h2 hfit => ?_⟩
    · unfold State.wr
      dsimp only
      rw [hq.mem]
    · have hg' : g ∈ applying ((mpuSettled s).wr pa bs) i pa := by
        have hsame : applying ((mpuSettled s).wr pa bs) i pa = applying (mpuSettled s) i pa := applying_congr rfl i pa
        rw [hsame]
        exact hg
      rw [pointer_appendAdvance hg' h2, Nat.mod_eq_of_lt hfit]
  case refused =>
    have hfault (f : FieldRef) (hf : f.off = Off.MPU_FAULT) : (mpuSettled s).getF f = s.getF f :=
      State.getF_congr f (by rw [hf]; exact fault_mpuSettled s)
    rcases islandWrite_false h with ⟨rfl, hnone⟩ | ⟨p, rfl⟩
    · exact ⟨hq.mem, hq.txns, hq.cores, fun hsome => absurd hsome (by rw [hnone]; nofun)⟩
    · have hr : Quiet s (refuseAccess (mpuSettled s) i .write p) := hq.trans (quiet_refuseAccess ..)
      refine ⟨hr.mem, hr.txns, hr.cores, fun _ => ⟨fun hvalid => ?_, fun hvalid => ?_⟩⟩
      · exact fault_refuseAccess_first ((hfault Fld.MPU_FAULT_VALID rfl).trans hvalid) i .write p
      · have hlater : (mpuSettled s).getF Fld.MPU_FAULT_VALID ≠ 0 := by rw [hfault Fld.MPU_FAULT_VALID rfl, hvalid]; decide
        exact (State.getF_congr Fld.MPU_FAULT_ADDR (fault_refuseAccess_later hlater i .write p)).trans (hfault Fld.MPU_FAULT_ADDR rfl)
  case request =>
    have hr : Quiet s (requestActivation s) := (Quiet.refl s).setF _ _
    refine ⟨requestActivation s, rfl, State.getF_setF_self _ _ _ (by decide) (by decide), ?_, hr.mem, hr.skeys, hr.cores,
      fun n _ => activeRegion_requestActivation s⟩
    exact State.getF_setF_beside _ Fld.MPU_STATUS_DRAINING Fld.MPU_STATUS_GEN _ (by decide) rfl (by decide) (by decide)
  case activates =>
    have ha : Quiet s (activateAll s) := quiet_activateAll s
    have hcore (c : CoreId) : (activateAll s).core c = s.core c := State.core_congr ha.cores c
    obtain ⟨hmem, hskeys, hregs⟩ := msyncsRetired_keeps (activateAll s)
    have hreg (a : Nat) : (msyncsRetired (activateAll s)).reg a = (activateAll s).reg a := State.reg_congr hregs a
    refine ⟨_, exec_mpuActivation_activates hdrain hdone, (State.getF_congr _ (hreg _)).trans (draining_activateAll s),
      (State.getF_congr _ (hreg _)).trans (gen_activateAll s), hmem.trans ha.mem, hskeys.trans ha.skeys, fun n hn => ?_,
      fun c b hwait hcur => ?_⟩
    · rw [hreg, hreg, State.getF_congr (Fld.MPU_APTR_APTR n) (hreg _)]
      exact regions_activateAll s hn
    · rw [← hcore c] at hwait hcur
      refine ⟨wait_msyncsRetired hwait, (pc_msyncsRetired hwait hcur).trans ?_⟩
      unfold State.bank
      rw [hcore]
  case settled =>
    obtain ⟨hmem, -, hregs⟩ := msyncsRetired_keeps s
    exact ⟨_, exec_mpuActivation_settled hdrain, hregs, hmem, fun c => ⟨wait_msyncsRetired, core_msyncsRetired_of_other⟩⟩

end Sys2Proof.Proofs


namespace Sys2Proof.Proofs
open Sys2Proof Sys2Proof.Machine Sys2Proof.Laws

/-! # Remote operations, cross-shard commit and windows (O41) -/

/-! ## A message that arrives -/

/-- R300, R305: a message in order for this node is delivered once its link has taken it. -/
theorem onMessage_of_arrives {s : State} {h : KHdr} (hin : Arrives s h) (type : Nat) (body : List Byte) (f : State → State) :
    onMessage s h type body f = f (linkReceive s h) := by
  obtain ⟨hup, horder, hdest⟩ := hin
  unfold onMessage
  rw [if_neg hup, horder]
  exact if_pos hdest

section
variable {s : State} {h : KHdr} (hin : Arrives s h)
include hin

/-! ## Remote operations (R317 to R321, R323) -/

/-- The request that a peer's operation stands for (R309, R320). -/
def peerRequest (h : KHdr) (op bench : Nat) (keyhash : Word) (key data : List Byte) : LReq :=
  { an := h.an, run := tagRun h.tag, core := 0, bank := 0, op := lopOf op, bench := bench, hash := keyhash.toNat, key := key,
    buf := [], data := data, akey := h.key % 16, user := false, deadline := h.deadline, st := .waiting,
    peer := some (h.src, h.tag), remote := none, sent := [] }

/-- R318, R323: an operation is not for this node to serve: out of service, of an ended run, of another shard's key or of a
frozen one. -/
def LopElsewhere (u : State) (h : KHdr) (bench : Nat) (keyhash : Word) : Prop :=
  kolEnabled u = false ∨ (markOf u h.an (tagRun h.tag)).isSome = true ∨ ownerOf u (u.bench bench) keyhash.toNat ≠ u.node ∨
    frozenKey u (u.bench bench) keyhash.toNat = true

variable (op bench : Nat) (keyhash : Word) (key data : List Byte)

theorem exec_lop_elsewhere (hno : LopElsewhere (linkReceive s h) h bench keyhash) :
    exec (.lop h op bench keyhash key data) s =
      .next (answerLop (linkReceive s h) (peerRequest h op bench keyhash key data) .refused) := by
  rw [exec_lop, execLop, onMessage_of_arrives hin]
  refine congrArg _ (if_pos ?_)
  rw [Bool.not_eq_true']
  exact hno

variable (hhere : ¬ LopElsewhere (linkReceive s h) h bench keyhash)
include hhere

theorem exec_lop_taken
    (htaken : refuseOp (mpuSettled (linkReceive s h)) .kol bench (rsvLog (mpuSettled (linkReceive s h)) h.an (tagRun h.tag))
      (lopOf op) key (h.key % 16) = none) :
    exec (.lop h op bench keyhash key data) s =
      .next (requestLock (mpuSettled (linkReceive s h)) (peerRequest h op bench keyhash key data)) := by
  rw [exec_lop, execLop, onMessage_of_arrives hin]
  dsimp only
  rw [if_neg (by rw [Bool.not_eq_true']; exact hhere), htaken]
  rfl

theorem exec_lop_refused {w : State}
    (hrefused : refuseOp (mpuSettled (linkReceive s h)) .kol bench
      (rsvLog (mpuSettled (linkReceive s h)) h.an (tagRun h.tag)) (lopOf op) key (h.key % 16) = some w) :
    exec (.lop h op bench keyhash key data) s =
      .next (answerLop w (peerRequest h op bench keyhash key data) .refused) := by
  rw [exec_lop, execLop, onMessage_of_arrives hin]
  dsimp only
  rw [if_neg (by rw [Bool.not_eq_true']; exact hhere), hrefused]
  rfl

end

/-! ## The other messages of a run (R86, R321, R324 to R326) -/

section
variable {s : State} {h : KHdr} (hin : Arrives s h)
include hin

/-- R86, R308: the answer reaches the context that waits for it. -/
theorem exec_lopRsp_live {cc no node at_ an run : Nat} {record : List Byte} {c : CoreId} {b : BankId} {r : LReq}
    (hreq : (linkReceive s h).kreq? (tagNo h.tag) = some { no := no, node := node, at_ := at_, what := .lop an run c b })
    (hfind : ((dropReq (linkReceive s h) no).ldg.reqs.find? fun r =>
      r.an == an && r.run == run && r.remote == some (h.src, no)) = some r)
    (hlive : reqLive (dropLReq (dropReq (linkReceive s h) no) an run) r = true) :
    exec (.lopRsp h cc record) s = .next (
      let v := dropLReq (dropReq (linkReceive s h) no) an run
      if cc = 3 then wake (v.setCC c b 3) c b else respond v r h.src { cc := cc, record := record, slot := none }) := by
  rw [exec_lopRsp, execLopRsp, onMessage_of_arrives hin]
  simp only [hreq, hfind, hlive, Bool.not_true, Bool.false_eq_true, if_false]

section
variable (nrsv : Nat) (hmark : markOf (linkReceive s h) h.an (tagRun h.tag) = none)
include hmark

/-- R324: all reservations that the coordinator counts are held, and stay until the run ends. -/
theorem exec_prepare_held
    (hheld : ((linkReceive s h).kol.rsv.countP fun v =>
      v.an == h.an && v.run == tagRun h.tag && rsvHeld (linkReceive s h) v) = nrsv) :
    exec (.prepare h nrsv) s = .next (answerPrepare { linkReceive s h with kol := { (linkReceive s h).kol with
      rsv := (linkReceive s h).kol.rsv.map fun v =>
        if v.an = h.an ∧ v.run = tagRun h.tag then { v with prepared := true } else v } } h 1) := by
  rw [exec_prepare, execPrepare, onMessage_of_arrives hin]
  dsimp only
  rw [hmark, if_neg (by decide), if_pos hheld]

/-- R321, R324: some reservation was freed, or lost by a reset. -/
theorem exec_prepare_lost
    (hheld : ((linkReceive s h).kol.rsv.countP fun v =>
      v.an == h.an && v.run == tagRun h.tag && rsvHeld (linkReceive s h) v) ≠ nrsv) :
    exec (.prepare h nrsv) s = .next (answerPrepare (linkReceive s h) h
      (if (linkReceive s h).kol.lost.contains (h.an, tagRun h.tag) then 3 else 2)) := by
  rw [exec_prepare, execPrepare, onMessage_of_arrives hin]
  dsimp only
  rw [hmark, if_neg (by decide), if_neg hheld]

end

/-- R321: an ended run holds nothing. -/
theorem exec_prepare_ended (nrsv : Nat) (hmark : (markOf (linkReceive s h) h.an (tagRun h.tag)).isSome = true) :
    exec (.prepare h nrsv) s = .next (answerPrepare (linkReceive s h) h 2) := by
  rw [exec_prepare, execPrepare, onMessage_of_arrives hin]
  exact congrArg _ (if_pos hmark)

theorem exec_prepRsp_of_req {result no node at_ an run : Nat}
    (hreq : (linkReceive s h).kreq? (tagNo h.tag) = some { no := no, node := node, at_ := at_, what := .prepare an run }) :
    exec (.prepRsp h result) s = .next (putAnswer (dropReq (linkReceive s h) no) an run node result) := by
  rw [exec_prepRsp, execPrepRsp, onMessage_of_arrives hin]
  simp only [hreq]

/-- R326: a committed run is applied and remembered. -/
theorem exec_apply_first (jsn : Nat) (hmark : markOf (linkReceive s h) h.an (tagRun h.tag) = none)
    (hroom : (rsvLog (linkReceive s h) h.an (tagRun h.tag)).any WEntry.writes = true → canAssign (linkReceive s h) = true) :
    exec (.apply h jsn) s = .next (answerApply (applyRsv (linkReceive s h) h.an (tagRun h.tag) h.src jsn).2 h jsn
      (applyRsv (linkReceive s h) h.an (tagRun h.tag) h.src jsn).1) := by
  have hgo : ¬((rsvLog (linkReceive s h) h.an (tagRun h.tag)).any WEntry.writes = true ∧
      (!canAssign (linkReceive s h)) = true) := fun ⟨hwrites, hfull⟩ => by
    rw [hroom hwrites] at hfull
    exact absurd hfull (by decide)
  rw [exec_apply, execApply, onMessage_of_arrives hin]
  simp only [hmark, if_neg hgo]

/-- R326: a repeated APPLY is answered from what the run left. -/
theorem exec_apply_repeated {jsn j part : Nat} {m : Mark} (hmark : markOf (linkReceive s h) h.an (tagRun h.tag) = some m)
    (happlied : m.applied = some (j, part)) : exec (.apply h jsn) s = .next (answerApply (linkReceive s h) h jsn part) := by
  rw [exec_apply, execApply, onMessage_of_arrives hin]
  simp only [hmark, happlied]

theorem exec_applied_of_mine {ref part : Nat} (hmine : ((linkReceive s h).kol.applies.any fun a =>
      a.an == h.an && a.run % 16 == tagRun h.tag && a.node == h.src && a.jsn == ref) = true) :
    exec (.applied h ref part) s = .next { linkReceive s h with kol := { (linkReceive s h).kol with
      applies := (linkReceive s h).kol.applies.filter fun a =>
        !(a.an == h.an && a.run % 16 == tagRun h.tag && a.node == h.src && a.jsn == ref) } } := by
  rw [exec_applied, execApplied, onMessage_of_arrives hin]
  exact congrArg _ (if_pos hmine)

theorem exec_woundMessage_of_run {a d : Nat} {t : Txn} (htxn : (linkReceive s h).txn? h.an = some t)
    (hrun : t.run % 16 = tagRun h.tag) : exec (.woundMessage h a d) s = .next (woundRun (linkReceive s h) t.an t.run) := by
  rw [exec_woundMessage, execWoundMessage, onMessage_of_arrives hin]
  simp only [htxn, if_pos hrun]

/-- R321: the owner frees what the run held and marks it ended. -/
theorem exec_kolRelease_unmarked (hmark : markOf (linkReceive s h) h.an (tagRun h.tag) = none) :
    exec (.kolRelease h) s =
      let u := linkReceive s h
      let v := freeRsv { u with kol := { u.kol with lost := u.kol.lost.filter fun p => p != (h.an, tagRun h.tag) } } h.an
        (tagRun h.tag)
      .next { v with kol := { v.kol with marks :=
        { an := h.an, run := tagRun h.tag, until_ := u.now + 1000 * u.getF Fld.KOL_E2E_HOLD_US, applied := none } ::
          v.kol.marks } } := by
  rw [exec_kolRelease, execKolRelease, onMessage_of_arrives hin]
  refine congrArg _ (if_neg ?_)
  change ¬ (markOf (linkReceive s h) h.an (tagRun h.tag)).isSome = true
  rw [hmark]
  decide

/-! ## Windows (R329) -/

section
variable {off size : Nat}
  (hbacked : (backed (linkReceive s h) (off % 2 ^ 40) && backed (linkReceive s h) (off % 2 ^ 40 + size - 1)) = true)
include hbacked

theorem exec_wread_allowed {bs : List Byte} {s1 : State} (hgood : poisoned (linkReceive s h) (off % 2 ^ 40) size = false)
    (hread : islandRead (linkReceive s h) .kol (off % 2 ^ 40) size = (some bs, s1)) :
    exec (.wread h off size) s = .next (answerWindow s1 h 0 bs) := by
  rw [exec_wread, execWread, onMessage_of_arrives hin]
  simp only [hbacked, hgood, hread, Bool.not_true, Bool.false_eq_true, if_false]

theorem exec_wwrite_backed (data : Word) : exec (.wwrite h off size data) s =
    let r := islandWrite (linkReceive s h) .kol (off % 2 ^ 40) (leBytes size data.toNat)
    .next (answerWindow r.2 h (if r.1 then 0 else 1) []) := by
  have hstatus (ok : Bool) : b2n (!ok) = if ok = true then 0 else 1 := by cases ok <;> rfl
  rw [exec_wwrite, execWwrite, onMessage_of_arrives hin]
  simp only [hbacked, hstatus, Bool.not_true, Bool.false_eq_true, if_false]

end

theorem exec_winRsp_wread {status no node at_ : Nat} {data : Word} {c : CoreId}
    (hreq : (linkReceive s h).kreq? (tagNo h.tag) = some { no := no, node := node, at_ := at_, what := .wread c }) :
    exec (.winRsp h status data) s =
      .next (settleSyncs (windowDone (dropReq (linkReceive s h) no) c no status data.toNat)) := by
  rw [exec_winRsp, execWinRsp, onMessage_of_arrives hin]
  simp only [hreq]

theorem exec_winRsp_wwrite {status no node at_ : Nat} {data : Word} {c : CoreId}
    (hreq : (linkReceive s h).kreq? (tagNo h.tag) = some { no := no, node := node, at_ := at_, what := .wwrite c }) :
    exec (.winRsp h status data) s = .next (settleSyncs ((dropReq (linkReceive s h) no).modCore c fun k =>
      { k with posted := k.posted.filter fun p => p.req != some no })) := by
  rw [exec_winRsp, execWinRsp, onMessage_of_arrives hin]
  simp only [hreq]

end

/-! ## What completes a window load (R131, R329) -/

section
variable {s : State} {c : CoreId} {b : BankId} {no va pa size v : Nat} {d : Reg} {sx fp : Bool}
  (hcur : (s.core c).cur = some b)
include hcur

theorem windowDone_bytes {via} (hwait : (s.core c).wait = some (.bytes no va pa size via)) :
    windowDone s c no 0 v = (s.modCore c fun k => { k with wait := none }).modCore c
      (fun k => { k with win := cellsAt pa (leBytes size v) ++ k.win }) ∧
    windowDone s c no 1 v = takeTrap (s.modCore c fun k => { k with wait := none }) c b 0x16 (BitVec.ofNat 64 va)
      (s.bank c b).pc := by
  unfold windowDone
  rw [hwait, hcur]
  exact ⟨(if_neg (by simp)).trans (if_pos rfl), (if_neg (by simp)).trans (if_neg (by decide))⟩

theorem windowDone_window {via} (hwait : (s.core c).wait = some (.window no va d size sx fp via)) :
    windowDone s c no 0 v = advancePc (putLoaded (s.modCore c fun k => { k with wait := none }) c b d sx fp size
      (v % 2 ^ (8 * size))) c b 4 ∧
    windowDone s c no 1 v = takeTrap (s.modCore c fun k => { k with wait := none }) c b 0x16 (BitVec.ofNat 64 va)
      (s.bank c b).pc := by
  unfold windowDone
  rw [hwait, hcur]
  exact ⟨(if_neg (by simp)).trans (if_pos rfl), (if_neg (by simp)).trans (if_neg (by decide))⟩

end

/-! ## Resends and what expires (R311, R321) -/

theorem exec_applyResend_of_due {s : State} {an node : Nat} {a : XApply}
    (hdue : (s.kol.applies.find? fun a => a.an == an && a.node == node &&
      decide (a.at_ + s.getF Fld.KOL_E2E_TIMEOUT_NS ≤ s.now)) = some a) :
    exec (.applyResend an node) s = .next (kolSend
      { s with kol := { s.kol with applies := s.kol.applies.map fun x => if x = a then { a with at_ := s.now } else x } }
      { type := 0x32, dest := node, an := an, deadline := a.deadline, tag := a.tag, body := leBytes 8 a.jsn }) := by
  rw [exec_applyResend, execApplyResend, hdue]

theorem exec_woundResend_of_waiting {s : State} {r : LReq} (hreqs : s.ldg.reqs = [r]) (hwait : r.st = .waiting) :
    exec (.woundResend r.an) s = .next (r.sent.foldl (fun s k => woundMessage s r k) s) := by
  have hsel : s.ldg.reqs.filter (fun q => q.an == r.an && decide (q.st = .waiting)) = [r] := by
    rw [hreqs]
    exact List.filter_cons_of_pos (by simp [hwait])
  rw [exec_woundResend, execWoundResend, hsel]
  rfl

theorem ldg_kolSend (s : State) (m : KMsg) : (kolSend s m).ldg = s.ldg := by
  unfold kolSend
  split <;> rfl

/-- R311: the request keeps the WOUND that was sent for it. -/
theorem sent_sendWound {s : State} {r : LReq} {k : Lock} (hr : r ∈ s.ldg.reqs) (hnode : k.node ≠ s.node) :
    ∃ q ∈ (sendWound s r k).ldg.reqs, q.an = r.an ∧ q.run = r.run ∧ k ∈ q.sent := by
  have hreqs : (woundMessage s r k).ldg.reqs = s.ldg.reqs := congrArg Ldg.reqs (ldg_kolSend _ _)
  unfold sendWound modReq
  rw [if_neg hnode]
  refine ⟨{ r with sent := r.sent ++ [k] }, List.mem_map.2 ⟨r, ?_, if_pos ⟨rfl, rfl⟩⟩, rfl, rfl, List.mem_append_right _ ?_⟩
  · rw [hreqs]
    exact hr
  · exact List.mem_singleton_self k

/-- R311: an unanswered request is dropped and counted, and its requester gets what R311 names. -/
theorem exec_kolTimeout_of_due {s : State} {r : KReq} (hreq : s.kreq? r.no = some r)
    (hdue : r.at_ + s.getF Fld.KOL_E2E_TIMEOUT_NS ≤ s.now) :
    exec (.kolTimeout r.no) s = .next (timeoutReq ((dropReq s r.no).bump Off.KOL_TIMEOUT_CNT) r) := by
  rw [exec_kolTimeout, execKolTimeout, hreq]
  exact congrArg _ (if_pos hdue)

theorem timeoutReq_window {s : State} {r : KReq} {c : CoreId} {b : BankId} {va size : Nat} {d : Reg} {sx fp : Bool} {via}
    (hwhat : r.what = .wread c) (hwait : (s.core c).wait = some (.window r.no va d size sx fp via))
    (hcur : (s.core c).cur = some b) :
    timeoutReq s r = trapMchk (s.modCore c fun k => { k with wait := none }) c b (BitVec.ofNat 64 va) := by
  unfold timeoutReq
  rw [hwhat]
  dsimp only
  rw [hwait, hcur]
  exact if_pos rfl

/-- Settles O41: a delivered message acts on the state that its link leaves, case by case. -/
theorem cascadeOperations : Obligations.CascadeOperations := by
  intro s h
  refine ⟨fun hin => ⟨fun op bench kh key data => ⟨fun hen hmark howner hfrozen => ?taken, exec_lop_elsewhere hin op bench kh key data⟩,
      fun cc record no node at_ an run c b r => exec_lopRsp_live hin,
      fun nrsv => ⟨exec_prepare_held hin nrsv, exec_prepare_lost hin nrsv, exec_prepare_ended hin nrsv⟩,
      fun result no node at_ an run => exec_prepRsp_of_req hin,
      fun jsn => ⟨exec_apply_first hin jsn, fun m j part => exec_apply_repeated hin⟩,
      fun ref part => exec_applied_of_mine hin,
      fun a d t => exec_woundMessage_of_run hin,
      exec_kolRelease_unmarked hin,
      fun off size hbacked => ⟨fun bs s1 => exec_wread_allowed hin hbacked, exec_wwrite_backed hin hbacked⟩,
      fun status data no node at_ c => ⟨exec_winRsp_wread hin, exec_winRsp_wwrite hin⟩⟩,
    fun c b no va pa size v via hwait hcur => windowDone_bytes hcur hwait,
    fun c b no va d size sx fp v via hwait hcur => windowDone_window hcur hwait,
    fun an node a => exec_applyResend_of_due,
    fun r => exec_woundResend_of_waiting,
    fun r hr k => sent_sendWound hr,
    fun an run hexp => congrArg _ (if_pos hexp),
    fun an run => rfl,
    fun r hreq hdue => ?timeout⟩
  case taken =>
    have hhere : ¬ LopElsewhere (linkReceive s h) h bench kh := by
      unfold LopElsewhere
      rw [hen, hmark, hfrozen]
      simpa using howner
    exact ⟨exec_lop_taken hin op bench kh key data hhere, fun w => exec_lop_refused hin op bench kh key data hhere⟩
  case timeout =>
    rw [exec_kolTimeout_of_due hreq hdue]
    have hcore (c : CoreId) : ((dropReq s r.no).bump Off.KOL_TIMEOUT_CNT).core c = s.core c := State.core_congr rfl c
    refine ⟨fun an run c b hwhat => ?_, fun an run hwhat => ?_, fun c b va d size sx fp via hwhat hwait hcur => ?_,
      fun c hwhat => ?_⟩
    · unfold timeoutReq
      rw [hwhat]
    · unfold timeoutReq
      rw [hwhat]
    · rw [timeoutReq_window hwhat ((congrArg _ (hcore c)).trans hwait) ((congrArg _ (hcore c)).trans hcur)]
    · unfold timeoutReq
      rw [hwhat]

end Sys2Proof.Proofs

namespace Sys2Proof.Proofs

open Sys2Proof Sys2Proof.Machine Sys2Proof.Laws

/-! # Lock grant, wait and wound (O30: R243 to R245)

## A request that takes its lock -/

/-- The ledger store with one more request. -/
def withRequest (s : State) (r : LReq) : State := { s with ldg := { s.ldg with reqs := s.ldg.reqs ++ [r] } }

theorem mem_reqs_withRequest (s : State) (r : LReq) : r ∈ (withRequest s r).ldg.reqs :=
  List.mem_append_right _ (List.mem_singleton_self r)

/-- R244: after the grant the run holds a lock that covers the request. -/
theorem exists_lock_takeLock (s : State) (r : LReq) : ∃ l ∈ (takeLock s r).ldg.locks,
    l.bench = r.bench ∧ l.hash = r.hash ∧ l.an = r.an ∧ l.run = r.run ∧ (r.op.excl = true → l.excl = true) := by
  unfold takeLock
  split
  case isTrue hcovers =>
    obtain ⟨l, hl, hcover⟩ := List.any_eq_true.1 hcovers
    simp only [Bool.and_eq_true, Bool.or_eq_true, beq_iff_eq, Bool.not_eq_true'] at hcover
    obtain ⟨⟨⟨⟨hbench, hhash⟩, han⟩, hrun⟩, hexcl⟩ := hcover
    exact ⟨l, hl, hbench, hhash, han, hrun, fun hop => hexcl.resolve_right (by simp [hop])⟩
  case isFalse => exact ⟨_, List.mem_append_right _ (List.mem_singleton_self _), rfl, rfl, rfl, rfl, id⟩

/-- Taking a lock changes the table of locks alone. -/
theorem takeLock_eq (s : State) (r : LReq) :
    takeLock s r = { s with ldg := { s.ldg with locks := (takeLock s r).ldg.locks } } := by
  unfold takeLock
  split <;> rfl

/-- A local request that is granted waits for its response (R238). -/
theorem grantReq_local {s : State} {r : LReq} (hpeer : r.peer = none) :
    grantReq s r = modReq (takeLock s r) r.an r.run fun r => { r with st := .granted } := by
  unfold grantReq
  rw [hpeer]
  rfl

theorem granted_mem_modReq {s : State} {r : LReq} (hr : r ∈ s.ldg.reqs) (f : LReq → LReq) :
    f r ∈ (modReq s r.an r.run f).ldg.reqs := List.mem_map.2 ⟨r, hr, if_pos ⟨rfl, rfl⟩⟩

/-! ## A request that waits (R244, R245) -/

/-- The wounded runs once the holder of a lock on this node has been wounded. -/
def addWound (ws : List (Nat × Nat)) (k : Lock) : List (Nat × Nat) :=
  if ws.contains (k.an, k.run) then ws else ws ++ [(k.an, k.run)]

theorem mem_addWound {ws : List (Nat × Nat)} {k : Lock} {p : Nat × Nat} :
    p ∈ addWound ws k ↔ p ∈ ws ∨ p = (k.an, k.run) := by
  unfold addWound
  split
  case isTrue h => exact ⟨.inl, fun hp => hp.elim id fun e => e ▸ List.contains_iff_mem.1 h⟩
  case isFalse => rw [List.mem_append, List.mem_singleton]

theorem mem_foldl_addWound {ks : List Lock} {ws : List (Nat × Nat)} {p : Nat × Nat} :
    p ∈ ks.foldl addWound ws ↔ p ∈ ws ∨ ∃ k ∈ ks, p = (k.an, k.run) := by
  induction ks generalizing ws with
  | nil => simp
  | cons k ks ih => rw [List.foldl_cons, ih, mem_addWound, or_assoc, List.exists_mem_cons_iff]

theorem sendWound_here {s : State} {k : Lock} (hk : k.node = s.node) (r : LReq) :
    sendWound s r k = { s with ldg := { s.ldg with wounds := addWound s.ldg.wounds k } } := by
  unfold sendWound addWound
  rw [if_pos hk]
  split <;> rfl

/-- R244: holders on this node are wounded at their owner flags, and nothing else changes. -/
theorem foldl_sendWound_here {s : State} {ks : List Lock} (hks : ∀ k ∈ ks, k.node = s.node) (r : LReq) :
    ks.foldl (fun s k => sendWound s r k) s = { s with ldg := { s.ldg with wounds := ks.foldl addWound s.ldg.wounds } } := by
  induction ks generalizing s with
  | nil => rfl
  | cons k ks ih =>
    rw [List.foldl_cons, sendWound_here (hks k List.mem_cons_self) r]
    exact ih fun j hj => hks j (List.mem_cons_of_mem _ hj)

/-- The locks on the key of a request whose holders come after it (R12, R244). -/
def laterHolders (s : State) (r : LReq) : List Lock :=
  (conflicting s r).filter fun k => older r.deadline r.an k.deadline k.an

theorem mem_laterHolders {s : State} {r : LReq} {k : Lock} :
    k ∈ laterHolders s r ↔ k ∈ conflicting s r ∧ older r.deadline r.an k.deadline k.an = true := List.mem_filter

/-- A local request needs no entry of the reservation table. -/
theorem woundFor_local {s : State} {r : LReq} (hpeer : r.peer = none) :
    woundFor s r = (laterHolders s r).foldl (fun s k => sendWound s r k) s := by
  have hroom : noRoom s r = false := by
    unfold noRoom
    rw [hpeer]
    rfl
  unfold woundFor
  rw [hroom]
  rfl

theorem woundFor_here {s : State} {r : LReq} (hpeer : r.peer = none) (hlocks : ∀ l ∈ s.ldg.locks, l.node = s.node) :
    woundFor s r = { s with ldg := { s.ldg with wounds := (laterHolders s r).foldl addWound s.ldg.wounds } } := by
  rw [woundFor_local hpeer]
  exact foldl_sendWound_here (fun k hk => hlocks k (List.mem_filter.1 (mem_laterHolders.1 hk).1).1) r

/-- Settles O30: by whether the request can be granted. -/
theorem ledgerLocks : Obligations.LedgerLocks := by
  intro s r hpeer _ hlocks s1 u
  by_cases hgrant : grantable s1 r = true
  case pos =>
    have hu : u = modReq (takeLock s1 r) r.an r.run fun r => { r with st := .granted } :=
      (if_pos hgrant).trans (grantReq_local hpeer)
    have hasked : r ∈ (takeLock s1 r).ldg.reqs := by
      rw [takeLock_eq]
      exact mem_reqs_withRequest s r
    refine ⟨fun _ => ⟨?_, ?_, ?_⟩, fun hno => absurd (hgrant.symm.trans hno) (by decide), ?_⟩
    · rw [hu]
      exact exists_lock_takeLock s1 r
    · rw [hu]
      exact ⟨_, granted_mem_modReq hasked _, rfl⟩
    · rw [hu, takeLock_eq]
      rfl
    · rw [hu, takeLock_eq]
      exact ⟨rfl, rfl, rfl, rfl, rfl⟩
  case neg =>
    have hu : u = { s1 with ldg := { s1.ldg with wounds := (laterHolders s1 r).foldl addWound s1.ldg.wounds } } :=
      (if_neg hgrant).trans (woundFor_here hpeer hlocks)
    refine ⟨fun hyes => absurd hyes hgrant, fun _ => ⟨?_, ?_, fun l hl hlater => ?_, fun p hp => ?_⟩, ?_⟩
    · rw [hu]
    · rw [hu]
      exact mem_reqs_withRequest s r
    · rw [hu]
      exact mem_foldl_addWound.2 (.inr ⟨l, mem_laterHolders.2 ⟨hl, hlater⟩, rfl⟩)
    · rw [hu] at hp
      refine (mem_foldl_addWound.1 hp).imp_right ?_
      rintro ⟨l, hl, rfl⟩
      exact ⟨l, (mem_laterHolders.1 hl).1, (mem_laterHolders.1 hl).2, rfl⟩
    · rw [hu]
      exact ⟨rfl, rfl, rfl, rfl, rfl⟩

end Sys2Proof.Proofs

namespace Sys2Proof.Proofs

open Sys2Proof Sys2Proof.Machine Sys2Proof.Laws

/-! # Ledger responses and the release of a run (O31: R237 to R239, R242, R246, R257)

## What leaves the transactions, the journal, the locks and the requests -/

/-- The accepted transactions, the journal, the locks and the requests are the same. -/
def SameHolders (s t : State) : Prop :=
  t.txns = s.txns ∧ t.jnl = s.jnl ∧ t.ldg.locks = s.ldg.locks ∧ t.ldg.reqs = s.ldg.reqs

theorem SameHolders.refl (s : State) : SameHolders s s := ⟨rfl, rfl, rfl, rfl⟩

theorem SameHolders.trans {s t u : State} (h1 : SameHolders s t) (h2 : SameHolders t u) : SameHolders s u :=
  ⟨h2.1.trans h1.1, h2.2.1.trans h1.2.1, h2.2.2.1.trans h1.2.2.1, h2.2.2.2.trans h1.2.2.2⟩

theorem sameHolders_of_quiet {s t : State} (h : Quiet s t) : SameHolders s t :=
  ⟨h.txns, h.jnl, congrArg Ldg.locks h.ldg, congrArg Ldg.reqs h.ldg⟩

theorem sameHolders_bump (s : State) (a n : Nat) : SameHolders s (s.bump a n) := .refl s

theorem sameHolders_wr (s : State) (a : Nat) (bs : List Byte) : SameHolders s (s.wr a bs) := .refl s

theorem sameHolders_kolSend (s : State) (m : KMsg) : SameHolders s (kolSend s m) := by
  unfold kolSend
  split <;> exact .refl s

theorem sameHolders_foldl {α : Type} {f : State → α → State} (hf : ∀ s a, SameHolders s (f s a)) (s : State) (l : List α) :
    SameHolders s (l.foldl f s) :=
  foldl_inv (P := SameHolders s) (.refl s) l fun t a h => h.trans (hf t a)

theorem SameHolders.ite_snd {α : Type} {s : State} {p q : α × State} {c : Prop} [Decidable c] (hp : SameHolders s p.2)
    (hq : SameHolders s q.2) : SameHolders s (if c then p else q).2 := by
  split <;> assumption

theorem sameHolders_freeReserved (s : State) (r : SlotRes) : SameHolders s (freeReserved s r) := by
  unfold freeReserved
  dsimp only
  split <;> exact ⟨rfl, rfl, rfl, rfl⟩

theorem sameHolders_moveEntries {x : Bench} {f hint b e : Nat} {l : List Nat} {s : State} {p : List Nat × State}
    (h : moveEntries x f hint b e l s = some p) : SameHolders s p.2 := by
  induction f generalizing hint b e l s with
  | zero => exact absurd h (by simp [moveEntries])
  | succ f ih =>
    unfold moveEntries at h
    split at h
    · rw [← Option.some.inj h]
      exact sameHolders_wr ..
    · exact (sameHolders_wr ..).trans (ih h)

theorem sameHolders_entryMoves {s : State} {x : Bench} {hash e : Nat} {p : List Nat × State}
    (h : entryMoves s x hash e = some p) : SameHolders s p.2 := by
  unfold entryMoves at h
  dsimp only at h
  split at h
  · rw [← Option.some.inj h]
    exact sameHolders_wr ..
  · split at h
    · rw [← Option.some.inj h]
      exact sameHolders_wr ..
    · obtain ⟨q, hq, rfl⟩ := Option.map_eq_some_iff.1 h
      exact (sameHolders_moveEntries hq).trans ⟨rfl, rfl, rfl, rfl⟩

/-- R235: an insert writes index entries. -/
theorem sameHolders_insertSlot {s s1 : State} {n hash slot : Nat} {x : Bench} {pending : Bool}
    (h : insertSlot s n x hash pending = some (slot, s1)) : SameHolders s s1 := by
  obtain ⟨p, hp, hs1⟩ := Option.map_eq_some_iff.1 h
  obtain ⟨-, rfl⟩ := Prod.mk.inj hs1
  unfold insertMoves at hp
  split at hp
  · exact absurd hp (by simp)
  · obtain ⟨q, hq, rfl⟩ := Option.map_eq_some_iff.1 hp
    exact (SameHolders.trans (t := { s with freeCtr := s.freeCtr + 1 }) ⟨rfl, rfl, rfl, rfl⟩ (sameHolders_entryMoves hq) :)

theorem sameHolders_actStore (s : State) (an run bench hash : Nat) (l : List WEntry) (key : List Byte) (v : View) :
    SameHolders s (actStore s an run bench hash l key v).2 := by
  cases v with
  | own e => exact .refl s
  | record slot => exact .refl s
  | absent =>
    unfold actStore
    dsimp only
    refine SameHolders.ite_snd (.refl s) ?_
    split
    case h_1 => exact .refl s
    case h_2 slot s1 hslot => exact (sameHolders_insertSlot hslot).trans ⟨rfl, rfl, rfl, rfl⟩

theorem sameHolders_actDelete (s : State) (an run bench : Nat) (v : View) :
    SameHolders s (actDelete s an run bench v).2 := by
  cases v with
  | own e =>
    unfold actDelete
    exact sameHolders_foldl sameHolders_freeReserved s _
  | record slot => exact .refl s
  | absent => exact .refl s

/-- R238, R239: an operation under its lock writes no lock and no request. -/
theorem sameHolders_ledgerAct (s : State) (an run bench hash : Nat) (l : List WEntry) (op : LOp) (key : List Byte) :
    SameHolders s (ledgerAct s an run bench hash l op key).2 := by
  unfold ledgerAct
  cases op with
  | ldl => exact .refl s
  | ldlu => exact .refl s
  | stl => exact sameHolders_actStore ..
  | del => exact sameHolders_actDelete ..

theorem sameHolders_refuseOp {s m : State} {i : Initiator} {bench akey : Nat} {l : List WEntry} {op : LOp} {key : List Byte}
    (h : refuseOp s i bench l op key akey = some m) : SameHolders s m := by
  unfold refuseOp at h
  dsimp only at h
  split at h
  · rw [← Option.some.inj h]
    exact sameHolders_bump ..
  · obtain ⟨p, -, rfl⟩ := Option.map_eq_some_iff.1 h
    exact (sameHolders_of_quiet (quiet_refuseAccess ..)).trans (sameHolders_bump ..)

theorem sameHolders_putRsv (s : State) (an run deadline tag : Nat) (e : WEntry) :
    SameHolders s (putRsv s an run deadline tag e) := by
  unfold putRsv
  dsimp only
  split <;> exact ⟨rfl, rfl, rfl, rfl⟩

theorem sameHolders_answerLop (s : State) (r : LReq) (a : LAns) : SameHolders s (answerLop s r a) := by
  unfold answerLop
  split
  · exact .refl s
  · exact sameHolders_kolSend ..

/-! ## What a grant keeps (R244) -/

/-- `P` rests on the transactions, the journal, the locks and the requests, and every change that a grant to `r` makes of these
keeps it. -/
structure KeptByGrant (P : State → Prop) (r : LReq) : Prop where
  same : ∀ {s t : State}, SameHolders s t → P s → P t
  take : ∀ {s : State}, P s → P (takeLock s r)
  grant : ∀ {s : State}, P s → P (modReq s r.an r.run fun q => { q with st := .granted })
  drop : ∀ {s : State}, P s → P (dropLReq s r.an r.run)
  undo : ∀ {s : State} (l : List WEntry), P s → P (undoLock s r l)

section
variable {P : State → Prop} {s : State} {r : LReq}

theorem KeptByGrant.servePeer (hP : KeptByGrant P r) (h : P s) : P (servePeer s r) := by
  have hsettled : P (mpuSettled s) := hP.same (sameHolders_of_quiet (quiet_mpuSettled s)) h
  unfold Machine.servePeer
  dsimp only
  split
  case h_1 m hm =>
    exact hP.same (sameHolders_answerLop ..) (hP.undo _ (hP.drop (hP.same (sameHolders_refuseOp hm) hsettled)))
  case h_2 =>
    split
    · exact hP.drop hsettled
    · refine hP.same ((sameHolders_bump ..).trans ((sameHolders_putRsv ..).trans (sameHolders_answerLop ..))) (hP.drop ?_)
      exact hP.same (sameHolders_ledgerAct ..) hsettled

theorem KeptByGrant.grantReq (hP : KeptByGrant P r) (h : P s) : P (grantReq s r) := by
  unfold Machine.grantReq
  dsimp only
  split
  · exact hP.servePeer (hP.take h)
  · exact hP.grant (hP.take h)

theorem mem_of_mem_insertByPriority {q : LReq} {l : List LReq} (h : q ∈ insertByPriority r l) : q = r ∨ q ∈ l := by
  induction l with
  | nil => exact .inl (List.mem_singleton.1 h)
  | cons a l ih =>
    unfold insertByPriority at h
    split at h
    · exact List.mem_cons.1 h
    · rcases List.mem_cons.1 h with rfl | h
      · exact .inr List.mem_cons_self
      · exact (ih h).imp_right (List.mem_cons_of_mem _)

theorem mem_of_mem_byPriority {q : LReq} {l : List LReq} (h : q ∈ l.foldl (fun l r => insertByPriority r l) []) : q ∈ l := by
  refine List.foldlRecOn (motive := fun acc => ∀ q ∈ acc, q ∈ l) l _ (fun q hq => absurd hq List.not_mem_nil) ?_ q h
  intro acc hacc r hr q hq
  rcases mem_of_mem_insertByPriority hq with rfl | hq
  · exact hr
  · exact hacc q hq

theorem KeptByGrant.regrant (hP : ∀ r ∈ s.ldg.reqs, KeptByGrant P r) (h : P s) : P (regrant s) := by
  unfold Machine.regrant
  refine List.foldlRecOn (motive := P) _ _ h fun u hu r hr => ?_
  have hkept : KeptByGrant P r := hP r (List.mem_filter.1 (mem_of_mem_byPriority hr)).1
  split
  · exact hkept.grantReq hu
  · exact hu

end

/-- The state in which what a run held has been given up and nothing is granted yet (R246). -/
def givenUp (s : State) (an run : Nat) : State :=
  let u := (s.ldg.slots.filter fun r => r.an == an && r.run == run).foldl freeReserved s
  { u with ldg := { u.ldg with
      locks := u.ldg.locks.filter fun k => !(k.an == an && k.run == run),
      reqs := u.ldg.reqs.filter fun r => !(r.an == an && r.run == run) } }

theorem releaseRun_eq (s : State) (an run : Nat) : releaseRun s an run = regrant (givenUp s an run) := rfl

/-! ## A run that holds nothing (R246) -/

/-- A run has no lock and no request. -/
def HoldsNothing (an run : Nat) (s : State) : Prop :=
  (∀ l ∈ s.ldg.locks, ¬(l.an = an ∧ l.run = run)) ∧ ∀ q ∈ s.ldg.reqs, ¬(q.an = an ∧ q.run = run)

theorem holdsNothing_givenUp (s : State) (an run : Nat) : HoldsNothing an run (givenUp s an run) := by
  constructor
  · rintro l hl ⟨rfl, rfl⟩
    exact absurd (List.mem_filter.1 hl).2 (by simp)
  · rintro q hq ⟨rfl, rfl⟩
    exact absurd (List.mem_filter.1 hq).2 (by simp)

theorem holdsNothing_takeLock {an run : Nat} {s : State} {r : LReq} (hr : ¬(r.an = an ∧ r.run = run))
    (h : HoldsNothing an run s) : HoldsNothing an run (takeLock s r) := by
  unfold takeLock
  split
  · exact h
  · refine ⟨fun l hl => ?_, h.2⟩
    rcases List.mem_append.1 hl with hl | hl
    · exact h.1 l (List.mem_filter.1 hl).1
    · rw [List.mem_singleton.1 hl]
      exact hr

theorem holdsNothing_undoLock {an run : Nat} {s : State} {r : LReq} {l : List WEntry} (h : HoldsNothing an run s) :
    HoldsNothing an run (undoLock s r l) := by
  refine ⟨fun k hk => ?_, h.2⟩
  unfold undoLock at hk
  dsimp only at hk
  split at hk
  · exact h.1 k (List.mem_filter.1 hk).1
  · obtain ⟨k', hk', rfl⟩ := List.mem_map.1 hk
    split <;> exact h.1 k' hk'

/-- A grant to another run gives this run nothing. -/
theorem keptByGrant_holdsNothing {an run : Nat} {r : LReq} (hr : ¬(r.an = an ∧ r.run = run)) :
    KeptByGrant (HoldsNothing an run) r where
  same hst h := by
    obtain ⟨-, -, hlocks, hreqs⟩ := hst
    unfold HoldsNothing
    rw [hlocks, hreqs]
    exact h
  take h := holdsNothing_takeLock hr h
  grant h := ⟨h.1, fun q hq => by
    obtain ⟨q', hq', rfl⟩ := List.mem_map.1 hq
    split <;> exact h.2 q' hq'⟩
  drop h := ⟨h.1, fun q hq => h.2 q (List.mem_filter.1 hq).1⟩
  undo _ h := holdsNothing_undoLock h

/-- R246: after its release a run has no lock and no request. -/
theorem holdsNothing_releaseRun (s : State) (an run : Nat) : HoldsNothing an run (releaseRun s an run) := by
  have hgiven := holdsNothing_givenUp s an run
  rw [releaseRun_eq]
  exact KeptByGrant.regrant (fun r hr => keptByGrant_holdsNothing (hgiven.2 r hr)) hgiven

theorem regrant_of_no_reqs {s : State} (h : s.ldg.reqs = []) : regrant s = s := by
  unfold regrant
  rw [h]
  rfl

/-- Where nobody waits, a release takes away the run's locks and grants none. -/
theorem locks_releaseRun {s : State} (hslots : s.ldg.slots = []) (hreqs : s.ldg.reqs = []) (an run : Nat) :
    (releaseRun s an run).ldg.locks = s.ldg.locks.filter fun l => !(l.an == an && l.run == run) := by
  have hgiven : (givenUp s an run).ldg.reqs = [] := by
    unfold givenUp
    rw [hslots]
    exact congrArg (List.filter _) hreqs
  rw [releaseRun_eq, regrant_of_no_reqs hgiven]
  unfold givenUp
  rw [hslots]
  rfl

theorem exec_runEndRelease_of_one {s : State} {e : EndedRun} (h : (s.ldg.ended.filter fun q => q.an == e.an) = [e]) :
    exec (.runEndRelease e.an) s = .next (releaseEnded s e) := by
  rw [exec_runEndRelease, execRunEndRelease, h]
  rfl

/-! ## The answer of an operation (R238, R239) -/

section
variable {s : State} {l : List WEntry} {bench : Nat} {key : List Byte} (an run hash : Nat)

theorem ledgerAct_of_own {e : WEntry} (hv : viewOf s l bench key = .own e) (op : LOp) :
    (ledgerAct s an run bench hash l op key).1.cc = 0 ∧
      (op = .ldl ∨ op = .ldlu → (ledgerAct s an run bench hash l op key).1.record = imageOf s e) := by
  cases op with
  | ldl => simp [ledgerAct, hv, actLoad]
  | ldlu => simp [ledgerAct, hv, actLoad]
  | stl => simp [ledgerAct, hv, actStore]
  | del => simp [ledgerAct, hv, actDelete]

theorem ledgerAct_of_record {slot : Nat} (hv : viewOf s l bench key = .record slot) (op : LOp) :
    (ledgerAct s an run bench hash l op key).1.cc = 0 ∧
      (op = .ldl ∨ op = .ldlu →
        (ledgerAct s an run bench hash l op key).1.record = s.rd ((s.bench bench).slotAddr slot) (s.bench bench).recSize) := by
  cases op with
  | ldl => simp [ledgerAct, hv, actLoad]
  | ldlu => simp [ledgerAct, hv, actLoad]
  | stl => simp [ledgerAct, hv, actStore]
  | del => simp [ledgerAct, hv, actDelete]

theorem ledgerAct_of_absent (hv : viewOf s l bench key = .absent) {op : LOp} (hop : op ≠ .stl) :
    (ledgerAct s an run bench hash l op key).1.cc = 1 ∧ (ledgerAct s an run bench hash l op key).1.record = [] := by
  cases op with
  | ldl => simp [ledgerAct, hv, actLoad]
  | ldlu => simp [ledgerAct, hv, actLoad]
  | stl => exact absurd rfl hop
  | del => simp [ledgerAct, hv, actDelete]

/-- R239: STL of a key that is not there inserts it, where the bench has room. -/
theorem cc_ledgerAct_insert (hv : viewOf s l bench key = .absent)
    (hkept : ∀ e, logEntry l bench key = some e → e.op ≠ .remove) :
    (ledgerAct s an run bench hash l .stl key).1.cc =
      if (insertSlot s bench (s.bench bench) hash true).isSome then 1 else 2 := by
  have hnot : (match logEntry l bench key with | some e => decide (e.op = WOp.remove) | none => false) = false := by
    split
    case h_1 e he => exact decide_eq_false (hkept e he)
    case h_2 => rfl
  unfold ledgerAct
  rw [hv]
  dsimp only [actStore]
  rw [if_neg (by rw [Bool.not_eq_true]; exact hnot)]
  cases insertSlot s bench (s.bench bench) hash true <;> rfl

end

/-! ## The response (R237, R257) -/

section
variable {s : State} {r : LReq} {t : Txn} (ht : s.txn? r.an = some t)
include ht

theorem localAct_of_refused {m : State} (hrefuse : refuseOp (settleRun s t) r.initiator r.bench (logOf (settleRun s t) t) r.op
      r.key r.akey = some m) :
    localAct s r = regrant (wake ((undoLock m r (logOf (settleRun s t) t)).setCC r.core r.bank 3) r.core r.bank) := by
  unfold localAct
  simp only [ht, hrefuse]

variable (hallow : refuseOp (settleRun s t) r.initiator r.bench (logOf (settleRun s t) t) r.op r.key r.akey = none)
include hallow

theorem localAct_of_poisoned (hp : opPoisoned (settleRun s t) r.bench (logOf (settleRun s t) t) r.op r.key = true) :
    localAct s r = endIfOwned (settleRun s t) r.an r.run .faultReplay := by
  unfold localAct
  simp only [ht, hallow, hp, if_true]

theorem localAct_of_sound (hp : opPoisoned (settleRun s t) r.bench (logOf (settleRun s t) t) r.op r.key = false) :
    let act := ledgerAct (settleRun s t) r.an r.run r.bench r.hash (logOf (settleRun s t) t) r.op r.key
    localAct s r = respond (act.2.bump Off.LDG_OPS_CNT) r act.2.node act.1 := by
  unfold localAct
  simp only [ht, hallow, hp, Bool.false_eq_true, if_false]

end

/-- R238: the response of the first answered request of a context. -/
theorem exec_ledgerResponse_of_find {s : State} {c : CoreId} {b : BankId} {r : LReq}
    (h : (s.ldg.reqs.find? fun r => r.core == c && r.bank == b && r.peer.isNone && r.remote.isNone &&
      decide (r.st ≠ .waiting) && reqLive s r) = some r) :
    exec (.ledgerResponse c b) s =
      let s1 := mpuSettled (dropLReq s r.an r.run)
      .next (if r.st = .refused then wake (s1.setCC c b 3) c b else localAct s1 r) := by
  rw [exec_ledgerResponse, execLedgerResponse, h]

/-- Settles O31: a response by what the checks find and what the run sees of the key, and what a release leaves of a run. -/
theorem ledgerResponses : Obligations.LedgerResponses := by
  intro s c b r t hfind s1 ht w l act
  have hexec := exec_ledgerResponse_of_find hfind
  have hacts (hst : r.st ≠ .refused) : exec (.ledgerResponse c b) s = .next (localAct s1 r) :=
    hexec.trans (congrArg _ (if_neg hst))
  refine ⟨fun hst => hexec.trans (congrArg _ (if_pos hst)), fun hst => ⟨fun m hm => ?_, fun hallow => ⟨fun hp => ?_, fun hp => ?_⟩⟩,
    ?_, fun e => exec_runEndRelease_of_one, fun an run => ?_⟩
  · rw [hacts hst, localAct_of_refused ht hm]
  · rw [hacts hst, localAct_of_sound ht hallow hp]
  · rw [hacts hst, localAct_of_poisoned ht hallow hp]
  · exact ⟨fun e hv => ledgerAct_of_own _ _ _ hv _, fun slot hv => ledgerAct_of_record _ _ _ hv _,
      fun hv hop => ledgerAct_of_absent _ _ _ hv hop, fun hv hop hkept => by
        have hcc := cc_ledgerAct_insert r.an r.run r.hash hv hkept
        rw [← hop] at hcc
        exact hcc⟩
  · obtain ⟨hlocks, hreqs⟩ := holdsNothing_releaseRun s an run
    exact ⟨hlocks, hreqs, fun hslots hnone => locks_releaseRun hslots hnone an run⟩

end Sys2Proof.Proofs

namespace Sys2Proof.Proofs

open Sys2Proof Sys2Proof.Machine Sys2Proof.Laws

/-! # JSN assignment, completion and mirroring (O38: R250 to R252, R280, R284 to R287, R324 to R326, R330)

## What leaves the transactions and the journal -/

/-- The accepted transactions and the journal are the same. -/
def SameRuns (s t : State) : Prop := t.txns = s.txns ∧ t.jnl = s.jnl

theorem SameRuns.refl (s : State) : SameRuns s s := ⟨rfl, rfl⟩

theorem SameRuns.trans {s t u : State} (h1 : SameRuns s t) (h2 : SameRuns t u) : SameRuns s u :=
  ⟨h2.1.trans h1.1, h2.2.trans h1.2⟩

theorem SameHolders.sameRuns {s t : State} (h : SameHolders s t) : SameRuns s t := ⟨h.1, h.2.1⟩

theorem sameRuns_of_quiet {s t : State} (h : Quiet s t) : SameRuns s t := ⟨h.txns, h.jnl⟩

theorem sameRuns_foldl {α : Type} {f : State → α → State} (hf : ∀ s a, SameRuns s (f s a)) (s : State) (l : List α) :
    SameRuns s (l.foldl f s) :=
  foldl_inv (P := SameRuns s) (.refl s) l fun t a h => h.trans (hf t a)

theorem sameRuns_takeLock (s : State) (r : LReq) : SameRuns s (takeLock s r) := by
  rw [takeLock_eq]
  exact .refl s

/-- Locks and requests are the ledger's own. -/
theorem keptByGrant_sameRuns (s : State) (r : LReq) : KeptByGrant (SameRuns s) r where
  same hst h := h.trans hst.sameRuns
  take h := h.trans (sameRuns_takeLock ..)
  grant h := h
  drop h := h
  undo _ h := h

theorem sameRuns_givenUp (s : State) (an run : Nat) : SameRuns s (givenUp s an run) :=
  (sameHolders_foldl sameHolders_freeReserved s _).sameRuns.trans ⟨rfl, rfl⟩

theorem sameRuns_releaseRun (s : State) (an run : Nat) : SameRuns s (releaseRun s an run) := by
  rw [releaseRun_eq]
  exact (sameRuns_givenUp s an run).trans (KeptByGrant.regrant (fun r _ => keptByGrant_sameRuns _ r) (.refl _))

section
variable {s t : State} (h : SameRuns s t)
include h

theorem SameRuns.wr (a : Nat) (bs : List Byte) : SameRuns s (t.wr a bs) := h

theorem SameRuns.bump (a n : Nat) : SameRuns s (t.bump a n) := h

theorem SameRuns.slots (l : List SlotRes) : SameRuns s { t with ldg := { t.ldg with slots := l } } := h

theorem SameRuns.putRecord (a : Nat) (bs : List Byte) : SameRuns s (putRecord t a bs) := h

theorem SameRuns.setBitmap (x : Bench) (slot : Nat) (v : Bool) : SameRuns s (setBitmap t x slot v) := h

theorem SameRuns.applies (l : List XApply) : SameRuns s { t with kol := { t.kol with applies := l } } := h

theorem SameRuns.dropPrep (an run : Nat) : SameRuns s (dropPrep t an run) := h

end

/-- R251: a write of a run goes to a record, the bitmap and the index. -/
theorem sameRuns_applyEntry (jsn an run : Nat) (s : State) (e : WEntry) : SameRuns s (applyEntry jsn an run s e) := by
  have hs := SameRuns.refl s
  unfold applyEntry
  dsimp only
  split
  · split
    · exact hs.putRecord _ _
    · exact hs
  · split
    · exact hs
    · split
      · exact (((hs.slots _).putRecord _ _).setBitmap _ _ _).wr _ _
      · exact ((hs.slots _).putRecord _ _).setBitmap _ _ _
  · split
    · split
      · exact (hs.wr _ _).setBitmap _ _ _
      · exact hs.setBitmap _ _ _
    · exact hs
  · exact hs

theorem sameRuns_applyWrites (s : State) (jsn an run : Nat) (l : List WEntry) : SameRuns s (applyWrites s jsn an run l) :=
  sameRuns_foldl (sameRuns_applyEntry jsn an run) s _

theorem sameRuns_freeContext (s : State) (t : Txn) : SameRuns s (freeContext s t) := by
  unfold freeContext
  split <;> exact ⟨rfl, rfl⟩

theorem sameRuns_sendApply (s : State) (an run deadline tag jsn node : Nat) :
    SameRuns s (sendApply s an run deadline tag jsn node) := by
  unfold sendApply
  exact ((SameRuns.refl s).applies _).trans (sameHolders_kolSend ..).sameRuns

theorem sameRuns_noteFull (s : State) : SameRuns s (noteFull s) := sameRuns_of_quiet ((Quiet.refl s).setF _ _)

theorem sameRuns_writeChecked (s : State) (i : Initiator) (pa : Nat) (bs : List Byte) :
    SameRuns s (writeChecked s i pa bs).2 := by
  unfold writeChecked
  split
  · split
    · exact .refl s
    · exact ((SameRuns.refl s).wr pa bs).trans (sameRuns_of_quiet (quiet_appendAdvance ..))
  · exact sameRuns_of_quiet (quiet_refuseAccess ..)

/-- R288: a mirror entry is written to the area's memory. -/
theorem sameRuns_areaAppend (s : State) (bs : List Byte) : SameRuns s (areaAppend s bs) :=
  (sameRuns_of_quiet (quiet_mpuSettled s)).trans (sameRuns_writeChecked ..)

/-! ## JSN assignment (R250 to R252, R280) -/

section
variable {s : State} {t : Txn} (ht : s.txn? t.an = some t) (howner : t.owner = .committing) (hjsn : t.jsn = none)
include ht howner hjsn

theorem exec_jsnAssignment_of_committing : exec (.jsnAssignment t.an) s = .next (match validate s t with
    | .waits => s
    | .refuse e => endRun s t.an e
    | .pass => if canAssign s then commitTxn s t else noteFull s) := by
  rw [exec_jsnAssignment, execJsnAssignment, ht]
  exact congrArg _ (if_pos ⟨howner, hjsn⟩)

/-- R252: a log that is not valid ends its run. -/
theorem exec_jsnAssignment_refused {e : RunEnd} (hv : validate s t = .refuse e) :
    exec (.jsnAssignment t.an) s = .next (endRun s t.an e) := by
  rw [exec_jsnAssignment_of_committing ht howner hjsn, hv]

theorem exec_jsnAssignment_commits (hv : validate s t = .pass) (hroom : canAssign s = true) :
    exec (.jsnAssignment t.an) s = .next (commitTxn s t) := by
  rw [exec_jsnAssignment_of_committing ht howner hjsn, hv]
  exact congrArg _ (if_pos hroom)

/-- R288: without room the commit waits. -/
theorem exec_jsnAssignment_full (hv : validate s t = .pass) (hroom : canAssign s = false) :
    exec (.jsnAssignment t.an) s = .next (noteFull s) := by
  rw [exec_jsnAssignment_of_committing ht howner hjsn, hv]
  exact congrArg _ (if_neg (by simp [hroom]))

end

/-- The state in which a run that commits has its JSN, its writes are applied and nothing is held for it (R250, R251). -/
def appliedRun (s : State) (t : Txn) : State :=
  let u := (assignRec s (commitHead t 0) (writeEntries s t.wlog)).bump Off.JNL_COMMIT_CNT
  freeContext (dropPrep (releaseRun (applyWrites u s.jnl.next t.an t.run t.wlog) t.an t.run) t.an t.run) t

/-- A transaction that has been committed with a JSN. -/
def committedAs (j : Nat) (t : Txn) : Txn := { t with phase := .committed, owner := .ended, jsn := some j }

theorem commitTxn_eq (s : State) (t : Txn) : commitTxn s t =
    noteFull ((logNodes s t.wlog).foldl (fun u n => sendApply u t.an t.run t.deadline (runTag t) s.jnl.next n)
      ((appliedRun s t).modTxn t.an (committedAs s.jnl.next))).countOutstanding := rfl

theorem sameRuns_appliedRun (s : State) (t : Txn) :
    SameRuns (assignRec s (commitHead t 0) (writeEntries s t.wlog)) (appliedRun s t) := by
  have hcounted := (SameRuns.refl (assignRec s (commitHead t 0) (writeEntries s t.wlog))).bump Off.JNL_COMMIT_CNT 1
  have hreleased := (hcounted.trans (sameRuns_applyWrites _ s.jnl.next t.an t.run t.wlog)).trans
    (sameRuns_releaseRun _ t.an t.run)
  unfold appliedRun
  exact (hreleased.dropPrep _ _).trans (sameRuns_freeContext _ t)

theorem sameRuns_commitTxn (s : State) (t : Txn) :
    SameRuns ((appliedRun s t).modTxn t.an (committedAs s.jnl.next)) (commitTxn s t) := by
  rw [commitTxn_eq]
  exact ((sameRuns_foldl (fun u n => sameRuns_sendApply u ..) _ _).trans
    (sameRuns_of_quiet (Quiet.refl _).countOutstanding)).trans (sameRuns_noteFull _)

/-- R250: the transaction has the next JSN and is committed. -/
theorem txn?_commitTxn {s : State} {t : Txn} (ht : s.txn? t.an = some t) :
    (commitTxn s t).txn? t.an = some (committedAs s.jnl.next t) := by
  have happlied : (appliedRun s t).txn? t.an = some t :=
    (State.txn?_congr (sameRuns_appliedRun s t).1 _).trans ht
  rw [State.txn?_congr (sameRuns_commitTxn s t).1, State.txn?_modTxn_self _ _ (committedAs _) fun _ han => han,
    happlied]
  rfl

theorem next_commitTxn (s : State) (t : Txn) : (commitTxn s t).jnl.next = s.jnl.next + 1 := by
  rw [(sameRuns_commitTxn s t).2]
  exact congrArg Jnl.next (sameRuns_appliedRun s t).2

/-- R280: LAST_JSN holds the JSN that was assigned last. -/
theorem lastJsn_assignRec (s : State) (hd : JHead) (body : List Byte) :
    (assignRec s hd body).reg Off.JNL_LAST_JSN = s.jnl.next % 2 ^ 64 := by
  unfold assignRec assignAt
  exact (reg_setReg ..).trans (if_pos rfl)

/-! ## Completion (R284, R285) -/

/-- A record with its leaf hash and the chain value after it. -/
def chained (s : State) (r : JRec) : JRec :=
  { r with leaf := leafHash r.bytes, chain := chainHash s.jnl.chain (leafHash r.bytes), complete := true }

/-- The records, the chain and the next JSN are the same. -/
def SameRecords (s t : State) : Prop :=
  t.jnl.chain = s.jnl.chain ∧ t.jnl.recs = s.jnl.recs ∧ t.jnl.next = s.jnl.next

section
variable {s t : State} (h : SameRecords s t)
include h

theorem SameRecords.group (g : Option MGroup) : SameRecords s { t with jnl := { t.jnl with group := g } } := h

theorem SameRecords.closeGroup : SameRecords s (closeGroup t) := by
  unfold Machine.closeGroup
  split <;> exact h

end

/-- R286: the mirror gathers copies of what the journal holds. -/
theorem sameRecords_groupAppend (s : State) (r : JRec) (bs : List Byte) : SameRecords s (groupAppend s r bs) := by
  have hgrown (g : MGroup) : SameRecords s { s with jnl := { s.jnl with group := some g } } :=
    SameRecords.group ⟨rfl, rfl, rfl⟩ _
  unfold groupAppend
  extract_lets g u
  by_cases hfull : 65536 ≤ g.bytes.length
  · rw [if_pos hfull]
    exact (hgrown g).closeGroup
  · rw [if_neg hfull]
    exact hgrown g

theorem jnl_completeRec (s : State) (r : JRec) :
    (completeRec s r).jnl.chain = chainHash s.jnl.chain (leafHash r.bytes) ∧
      (completeRec s r).jnl.recs = (s.jnl.recs.map fun x => if x.jsn = r.jsn then chained s r else x) ∧
      (completeRec s r).jnl.next = s.jnl.next := by
  unfold completeRec
  rw [(sameRuns_noteFull _).2]
  obtain ⟨hchain, hrecs, hnext⟩ := sameRecords_groupAppend (areaAppend { s with jnl := { s.jnl with
    chain := chainHash s.jnl.chain (leafHash r.bytes),
    recs := s.jnl.recs.map fun x => if x.jsn = r.jsn then chained s r else x } } (mirrorEntry (chained s r))) (chained s r)
    (mirrorEntry (chained s r))
  rw [(sameRuns_areaAppend _ _).2] at hchain hrecs hnext
  exact ⟨hchain, hrecs, hnext⟩

theorem exec_recordComplete_of_next {s : State} {r : JRec} (h : (s.jnl.recs.find? fun x => !x.complete) = some r) :
    exec (.recordComplete) s = .next (completeRec s r) := by
  rw [exec_recordComplete, execRecordComplete, nextRec, h]

/-! ## Groups (R286) -/

section
variable {s : State} {g : MGroup} (hgroup : s.jnl.group = some g)
include hgroup

theorem closeGroup_of_group :
    closeGroup s = { s with jnl := { s.jnl with group := none, due := s.jnl.due ++ [g] } } := by
  unfold closeGroup
  rw [hgroup]

/-- R286: a group takes an entry, and closes where it has reached 64 KiB. -/
theorem groupAppend_of_group (r : JRec) (bs : List Byte) : groupAppend s r bs =
    let g1 : MGroup := { g with jsns := g.jsns ++ [r.jsn], bytes := g.bytes ++ bs }
    let u : State := { s with jnl := { s.jnl with group := some g1 } }
    if 65536 ≤ g1.bytes.length then closeGroup u else u := by
  unfold groupAppend
  rw [hgroup]

theorem closeExpired_of_old (h : g.at_ + s.getF Fld.JNL_MIRROR_GROUP_NS ≤ s.now) :
    closeExpired s = { s with jnl := { s.jnl with group := none, due := s.jnl.due ++ [g] } } := by
  rw [← closeGroup_of_group hgroup]
  unfold closeExpired
  rw [hgroup]
  exact if_pos h

theorem closeExpired_of_young (h : s.now < g.at_ + s.getF Fld.JNL_MIRROR_GROUP_NS) : closeExpired s = s := by
  unfold closeExpired
  rw [hgroup]
  exact if_neg (Nat.not_le.2 h)

end

theorem exec_mirrorGroupSend_of_due {s : State} {g : MGroup} {rest : List MGroup}
    (h : (closeExpired s).jnl.due = g :: rest) : exec (.mirrorGroupSend) s = .next (sendGroup (closeExpired s) g) := by
  rw [exec_mirrorGroupSend, execMirrorGroupSend, h]

/-- R330: a group that is not for the host goes to the peer. -/
theorem sendGroup_of_peer {s : State} (h : toHost s = false) (g : MGroup) :
    sendGroup s g = groupSent (mirrorToPeer s g) g := by
  unfold sendGroup
  rw [h]
  rfl

/-- A group as it waits for its acknowledgements: the address of its probe is given in PCIe mode only (R286). -/
def awaited (s : State) (g : MGroup) : MGroup :=
  { g with at_ := s.now, host := toHost s, peer := toPeer s, late := false,
           probe := if toHost s ∧ s.getF Fld.HIF_STATUS_MODE = 1 then some (probeAddr s) else none }

theorem sent_groupSent (s : State) (g : MGroup) : (groupSent s g).jnl.sent = s.jnl.sent ++ [awaited s g] := by
  unfold groupSent
  dsimp only
  split <;> rfl

/-- R286: in PCIe mode a read of the last 8 bytes follows the group. -/
theorem out_groupSent_pcie {s : State} (hhost : toHost s = true) (hmode : s.getF Fld.HIF_STATUS_MODE = 1) (g : MGroup) :
    (groupSent s g).out = s.out ++ [.hostRead (probeAddr s) 8] := by
  unfold groupSent
  rw [if_pos ⟨hhost, hmode⟩]

/-! ## Acknowledgements and late groups (R16, R286, R287, R330) -/

theorem exec_mirrorAck_host {s : State} {g : MGroup} (hmode : s.getF Fld.HIF_STATUS_MODE ≠ 0)
    (h : (s.jnl.sent.find? fun g => g.host) = some g) : exec (.mirrorAck .host) s = .next (ackTarget s g true) := by
  rw [exec_mirrorAck, execMirrorAck]
  rw [h]
  exact congrArg _ (if_neg hmode)

theorem exec_mirrorAck_peer {s : State} {h : KHdr} (hin : Arrives s h) {first glen : Nat} {g : MGroup}
    (hfind : ((linkReceive s h).jnl.sent.find? fun g => g.peer && g.first == first && g.bytes.length == glen) = some g)
    (hsrc : h.src = (linkReceive s h).getF Fld.JNL_MIRROR_PEER) :
    exec (.mirrorAck (.kolat h first glen)) s = .next (ackTarget (linkReceive s h) g false) := by
  rw [exec_mirrorAck, execMirrorAck]
  rw [onMessage_of_arrives hin, hfind]
  exact congrArg _ (if_pos hsrc)

/-- R286: the last acknowledgement is the group's. -/
theorem ackTarget_host_last {g : MGroup} (hpeer : g.peer = false) (s : State) :
    ackTarget s g true = ackGroup s { g with host := false } := by
  unfold ackTarget
  exact if_neg (by simp [hpeer])

/-- The records of a group are acknowledged. -/
def ackRecs (g : MGroup) (l : List JRec) : List JRec :=
  l.map fun r => if g.jsns.contains r.jsn then { r with acked := true } else r

theorem recs_ackGroup_of_no_txns {s : State} (h : s.txns = []) (g : MGroup) :
    (ackGroup s g).jnl.recs = ackRecs g s.jnl.recs := by
  unfold ackGroup
  dsimp only
  rw [h]
  rfl

theorem acked_of_mem_ackRecs {g : MGroup} {l : List JRec} {x : JRec} (hx : x ∈ ackRecs g l) (hjsn : x.jsn ∈ g.jsns) :
    x.acked = true := by
  obtain ⟨r, -, rfl⟩ := List.mem_map.1 hx
  by_cases hr : g.jsns.contains r.jsn = true
  · rw [if_pos hr]
  · rw [if_neg hr] at hjsn
    exact absurd (List.contains_iff_mem.2 hjsn) hr

theorem exec_mirrorTargetTimeout_of_late {s : State} {g : MGroup} (h : (s.jnl.sent.find? fun g =>
      decide (g.at_ + s.getF Fld.JNL_MIRROR_TARGET_NS < s.now) && (!g.late || g.peer)) = some g) :
    exec (.mirrorTargetTimeout) s = .next (markLate s g) := by
  rw [exec_mirrorTargetTimeout, execMirrorTargetTimeout, h]

/-- R287: the first time that a group is late at the host is marked and counted. -/
theorem regs_markLate_first {g : MGroup} (hlate : g.late = false) (hpeer : g.peer = false) (s : State) :
    (markLate s g).regs = ((s.setF Fld.JNL_STATUS_MIRROR_LATE 1).bump Off.JNL_MLATE_CNT).regs := by
  unfold markLate
  rw [hlate, hpeer]
  rfl

theorem status_markLate_first {g : MGroup} (hlate : g.late = false) (hpeer : g.peer = false) (s : State) :
    (markLate s g).getF Fld.JNL_STATUS_MIRROR_LATE = 1 := by
  rw [State.getF_congr _ (State.reg_congr (regs_markLate_first hlate hpeer s) _), State.getF_bump_ne _ _ _ _ (by decide),
    State.getF_setF_self _ _ _ (by decide) (by decide)]
  rfl

theorem count_markLate_first {g : MGroup} (hlate : g.late = false) (hpeer : g.peer = false) (s : State) :
    (markLate s g).reg Off.JNL_MLATE_CNT = (s.reg Off.JNL_MLATE_CNT + 1) % 2 ^ 64 := by
  rw [State.reg_congr (regs_markLate_first hlate hpeer s), reg_bump, if_pos rfl,
    State.reg_setF_ne _ _ _ _ (by decide) (by decide)]

/-- Settles O38: what JSN assignment finds, a record's completion, a group by its size and age, and its acknowledgements. -/
theorem journalCommit : Obligations.JournalCommit := by
  intro s t r g
  refine ⟨fun ht howner hjsn => ⟨fun e => exec_jsnAssignment_refused ht howner hjsn,
      exec_jsnAssignment_commits ht howner hjsn, exec_jsnAssignment_full ht howner hjsn,
      fun _ => ⟨txn?_commitTxn ht, next_commitTxn s t⟩⟩,
    fun hd body => ⟨rfl, lastJsn_assignRec s hd body, rfl, _, rfl, rfl, rfl, rfl, rfl⟩,
    fun hnext _ => ?complete, fun bs hgroup => ?append,
    ⟨fun rest => exec_mirrorGroupSend_of_due, fun hgroup hold => ?old, fun hgroup => closeExpired_of_young hgroup⟩,
    fun hpeer => sendGroup_of_peer hpeer g, ?sent, fun hhost hmode => ⟨_, out_groupSent_pcie hhost hmode g⟩,
    exec_mirrorAck_host, fun h first glen hin => exec_mirrorAck_peer hin, fun hpeer => ackTarget_host_last hpeer s,
    fun hnone x hx hjsn => ?acked,
    fun hfind => ⟨exec_mirrorTargetTimeout_of_late hfind,
      fun hlate hpeer => ⟨status_markLate_first hlate hpeer s, count_markLate_first hlate hpeer s⟩⟩⟩
  case complete =>
    obtain ⟨hchain, hrecs, hjsn⟩ := jnl_completeRec s r
    have hmem : chained s r ∈ (completeRec s r).jnl.recs := by
      rw [hrecs]
      exact List.mem_map.2 ⟨r, List.mem_of_find?_eq_some hnext, if_pos rfl⟩
    exact ⟨_, exec_recordComplete_of_next hnext, hchain, ⟨_, hmem, rfl, rfl, rfl, rfl, hchain.symm⟩, hjsn⟩
  case append =>
    intro g1 u
    have hu : u = if 65536 ≤ g1.bytes.length then closeGroup { s with jnl := { s.jnl with group := some g1 } }
      else { s with jnl := { s.jnl with group := some g1 } } := groupAppend_of_group hgroup r bs
    refine ⟨fun hfull => ?_, fun hroom => ?_⟩
    · rw [hu, if_pos hfull, closeGroup_of_group rfl]
      exact ⟨rfl, rfl⟩
    · rw [hu, if_neg (Nat.not_le.2 hroom)]
      exact ⟨rfl, rfl⟩
  case old =>
    rw [closeExpired_of_old hgroup hold]
    exact ⟨rfl, rfl⟩
  case sent =>
    refine ⟨awaited s g, ?_, rfl, rfl, rfl, rfl, rfl, rfl⟩
    rw [sent_groupSent]
    exact List.mem_append_right _ (List.mem_singleton_self _)
  case acked =>
    rw [recs_ackGroup_of_no_txns hnone] at hx
    exact acked_of_mem_ackRecs hx hjsn

end Sys2Proof.Proofs

namespace Sys2Proof.Proofs

open Sys2Proof Sys2Proof.Machine Sys2Proof.Laws

/-! # Failed HBM stacks, scrubs and lost lines (O52: R256 to R258, R397, R406)

## What a report leaves -/

/-- The units that the collector knows as retired and the counter of corrected events are the same. -/
def SameTally (s t : State) : Prop := t.err.retired = s.err.retired ∧ t.reg Off.ERR_CE_CNT = s.reg Off.ERR_CE_CNT

theorem SameTally.refl (s : State) : SameTally s s := ⟨rfl, rfl⟩

section
variable {s t : State} (h : SameTally s t)
include h

theorem SameTally.setReg {a : Nat} (ha : Off.ERR_CE_CNT ≠ a) (v : Nat) : SameTally s (t.setReg a v) :=
  ⟨h.1, ((reg_setReg ..).trans (if_neg ha)).trans h.2⟩

theorem SameTally.bump {a : Nat} (ha : Off.ERR_CE_CNT ≠ a) (n : Nat) : SameTally s (t.bump a n) :=
  ⟨h.1, ((reg_bump ..).trans (if_neg ha)).trans h.2⟩

theorem SameTally.setF {f : FieldRef} (hf : Off.ERR_CE_CNT ≠ f.off) (v : Nat) : SameTally s (t.setF f v) :=
  ⟨(congrArg Err.retired (State.err_setF t f v)).trans h.1, (State.reg_setF_ne _ _ _ _ hf (by decide)).trans h.2⟩

theorem SameTally.msix (v : Nat) : SameTally s (t.msix v) :=
  ⟨(congrArg Err.retired (State.err_msix t v)).trans h.1, (State.reg_msix t v _).trans h.2⟩

theorem SameTally.upd (f : List (Nat × Nat)) (b : Bool) (l : List (Nat × Nat)) :
    SameTally s { t with err := { t.err with faults := f, lost := b, corrected := l } } := h

theorem SameTally.ite {u : State} {c : Prop} [Decidable c] (hu : SameTally s u) : SameTally s (if c then t else u) := by
  by_cases hc : c
  · rwa [if_pos hc]
  · rwa [if_neg hc]

theorem SameTally.noteFault (r : ErrReport) : SameTally s (noteFault t r) := by
  unfold Machine.noteFault
  refine SameTally.ite ?_ h
  refine SameTally.upd (SameTally.bump ?_ (by decide) _) _ _ _
  exact SameTally.ite ((h.setF (by decide) _).bump (by decide) _) h

theorem SameTally.writeEntry (r : ErrReport) (second : Bool) : SameTally s (writeEntry t r second) := by
  have hword (k : Nat) : Off.ERR_CE_CNT ≠ Off.ERR_LOG k := by
    show 0x40080 ≠ 0x41000 + 8 * k
    omega
  have hlog (k l m n w x y z : Nat) : SameTally s ((((t.setReg (Off.ERR_LOG k) w).setReg (Off.ERR_LOG l) x).setReg
      (Off.ERR_LOG m) y).setReg (Off.ERR_LOG n) z) :=
    (((h.setReg (hword k) w).setReg (hword l) x).setReg (hword m) y).setReg (hword n) z
  unfold Machine.writeEntry
  refine SameTally.ite (SameTally.upd ((h.bump (by decide) _).setF (by decide) _) _ _ _) ?_
  exact SameTally.ite (((SameTally.upd (hlog ..) _ _ _).setF (by decide) _).msix _)
    ((SameTally.upd (hlog ..) _ _ _).setF (by decide) _)

end

/-- A corrected event is counted, and the collector remembers when it was logged (R408). -/
def countCorrected (s : State) (l : List (Nat × Nat)) : State :=
  let u := s.bump Off.ERR_CE_CNT
  { u with err := { u.err with corrected := l } }

theorem countCorrected_tally (s : State) (l : List (Nat × Nat)) : (countCorrected s l).err.retired = s.err.retired ∧
    (countCorrected s l).reg Off.ERR_CE_CNT = (s.reg Off.ERR_CE_CNT + 1) % 2 ^ 64 := by
  have hregs : (countCorrected s l).regs = (s.bump Off.ERR_CE_CNT).regs := rfl
  exact ⟨rfl, by rw [State.reg_congr hregs, reg_bump, if_pos rfl]⟩

/-- R408: a corrected event is counted, whether or not it is logged. -/
theorem tally_report_corrected {r : ErrReport} (hr : r.severity = 0) (s : State) :
    ∃ l, SameTally (countCorrected s l) (s.report r) := by
  unfold State.report
  rw [if_pos hr]
  dsimp only
  split
  · exact ⟨s.err.corrected, .refl _⟩
  · exact ⟨_, (SameTally.refl (countCorrected s _)).writeEntry r false⟩

theorem ceCount_report {r : ErrReport} (hr : r.severity = 0) (s : State) :
    (s.report r).reg Off.ERR_CE_CNT = (s.reg Off.ERR_CE_CNT + 1) % 2 ^ 64 := by
  obtain ⟨l, -, hcount⟩ := tally_report_corrected hr s
  exact hcount.trans (countCorrected_tally s l).2

/-- A report retires no unit. -/
theorem retired_report (s : State) (r : ErrReport) : (s.report r).err.retired = s.err.retired := by
  by_cases hr : r.severity = 0
  · obtain ⟨l, hretired, -⟩ := tally_report_corrected hr s
    exact hretired.trans (countCorrected_tally s l).1
  · have hreport : s.report r = writeEntry (noteFault s r) r (isSecondFault s r) := if_neg hr
    rw [hreport]
    exact (((SameTally.refl s).noteFault r).writeEntry r _).1

/-- A unit of ADM, LDG or JNL keeps its fields over a report. -/
theorem getF_report (s : State) (r : ErrReport) {f : FieldRef} (hf : 0x50000 ≤ f.off) : (s.report r).getF f = s.getF f :=
  State.getF_congr f (reg_report s r hf)

/-- R399: a fault is absorbed, and admission knows of it. -/
theorem hold_faultHold (s : State) : (faultHold s).getF Fld.ADM_STATUS_FAULT_HOLD = 1 :=
  State.getF_setF_self _ _ _ (by decide) (by decide)

/-! ## The failure of a stack (R256, R406) -/

/-- The report of a failed stack. -/
def stackReport (k : Fin 4) : ErrReport := { island := 34 + k.val, unit := k.val, cls := .stack, severity := 1 }

/-- The report of what its failure has lost. -/
def stackLossReport (k : Fin 4) : ErrReport := { island := 34 + k.val, unit := k.val, cls := .loss, severity := 3 }

/-- The collector knows a unit as retired. -/
def retireCode (u : State) (code : Nat) : State := { u with err := { u.err with retired := code :: u.err.retired } }

/-- JNL assigns no JSN until a reset (R406). -/
def haltJournal (u : State) : State := { u with jnl := { u.jnl with halted := true } }

/-- The failure of a stack is absorbed, and the stack retired. -/
def stackRetired (s : State) (k : Fin 4) : State :=
  retireCode (faultHold (s.report (stackReport k))) (stackCode k.val)

/-- R256: the others serve a first failed stack. -/
def servedFromOthers (s : State) (k : Fin 4) : State :=
  ((stackRetired s k).setF Fld.LDG_STATUS_STACK k.val).setF Fld.LDG_STATUS_DEGRADED 1

/-- R406: after a second, JNL assigns no JSN and ADM is disabled. -/
def serviceHalted (s : State) (k : Fin 4) : State :=
  (haltJournal ((stackRetired s k).report (stackLossReport k))).setF Fld.ADM_CTRL_ENABLE 0

theorem retired_retireCode (u : State) (code : Nat) : (retireCode u code).err.retired = code :: u.err.retired := rfl

theorem keeps_retireCode (u : State) (code : Nat) : (retireCode u code).mem = u.mem ∧ (retireCode u code).jnl = u.jnl :=
  ⟨rfl, rfl⟩

theorem getF_retireCode (u : State) (code : Nat) (f : FieldRef) : (retireCode u code).getF f = u.getF f := rfl

theorem keeps_haltJournal (u : State) :
    (haltJournal u).mem = u.mem ∧ (haltJournal u).err = u.err ∧ (haltJournal u).jnl.halted = true := ⟨rfl, rfl, rfl⟩

theorem otherStackGone_iff (s : State) (k : Fin 4) :
    (([0, 1, 2, 3] : List Nat).any fun j => j != k.val && stackGone s j) = true ↔
      ∃ j : Fin 4, j ≠ k ∧ stackGone s j.val = true := by
  rw [List.any_eq_true]
  constructor
  · rintro ⟨j, hj, hgone⟩
    have hlt : j < 4 := by simp at hj; omega
    simp only [Bool.and_eq_true, bne_iff_ne] at hgone
    exact ⟨⟨j, hlt⟩, fun e => hgone.1 (congrArg Fin.val e), hgone.2⟩
  · rintro ⟨j, hne, hgone⟩
    refine ⟨j.val, by fin_cases j <;> decide, ?_⟩
    simp only [Bool.and_eq_true, bne_iff_ne]
    exact ⟨fun e => hne (Fin.ext e), hgone⟩

section
variable {s : State} {k : Fin 4} (hin : s.err.retired.contains (stackCode k.val) = false)
include hin

theorem exec_hbmStackFail_first (hfirst : ∀ j : Fin 4, j ≠ k → stackGone s j.val = false) :
    exec (.hbmStackFail k) s = .next (if s.getF Fld.LDG_HBM_MODE = 2 then (servedFromOthers s k).report (stackLossReport k)
      else servedFromOthers s k) := by
  have hnone : (([0, 1, 2, 3] : List Nat).any fun j => j != k.val && stackGone s j) = false := by
    rw [← Bool.not_eq_true, otherStackGone_iff]
    rintro ⟨j, hne, hgone⟩
    rw [hfirst j hne] at hgone
    exact absurd hgone (by decide)
  rw [exec_hbmStackFail, execHbmStackFail, hin, hnone]
  simp only [Bool.false_eq_true, if_false, false_or, stackLoss, servedFromOthers, stackRetired, retireCode, stackReport,
    stackLossReport]

theorem exec_hbmStackFail_second (hsecond : ∃ j : Fin 4, j ≠ k ∧ stackGone s j.val = true) :
    exec (.hbmStackFail k) s = .next (serviceHalted s k) := by
  rw [exec_hbmStackFail, execHbmStackFail, hin, (otherStackGone_iff s k).2 hsecond]
  simp only [Bool.false_eq_true, if_false, true_or, if_true, stackLoss, serviceHalted, haltJournal, stackRetired, retireCode,
    stackReport, stackLossReport]

end

/-- A retired stack answers nothing. -/
theorem stackGone_of_retired {t : State} {k : Nat} {l : List Nat} (h : t.err.retired = stackCode k :: l) :
    stackGone t k = true := by
  unfold stackGone
  rw [h, List.contains_cons, beq_self_eq_true]
  rfl

theorem retired_stackRetired (s : State) (k : Fin 4) :
    (stackRetired s k).err.retired = stackCode k.val :: s.err.retired := by
  unfold stackRetired faultHold
  rw [retired_retireCode, State.err_setF, retired_report]

theorem retired_servedFromOthers (s : State) (k : Fin 4) :
    (servedFromOthers s k).err.retired = stackCode k.val :: s.err.retired := by
  unfold servedFromOthers
  rw [State.err_setF, State.err_setF, retired_stackRetired]

theorem retired_serviceHalted (s : State) (k : Fin 4) :
    (serviceHalted s k).err.retired = stackCode k.val :: s.err.retired := by
  unfold serviceHalted
  rw [State.err_setF, (keeps_haltJournal _).2.1, retired_report, retired_stackRetired]

theorem degraded_servedFromOthers (s : State) (k : Fin 4) :
    (servedFromOthers s k).getF Fld.LDG_STATUS_DEGRADED = 1 ∧ (servedFromOthers s k).getF Fld.LDG_STATUS_STACK = k.val ∧
      (servedFromOthers s k).getF Fld.ADM_STATUS_FAULT_HOLD = 1 := by
  unfold servedFromOthers
  refine ⟨State.getF_setF_self _ _ _ (by decide) (by decide), ?_, ?_⟩
  · rw [State.getF_setF_beside _ Fld.LDG_STATUS_DEGRADED Fld.LDG_STATUS_STACK _ (by decide) rfl (by decide) (by decide),
      State.getF_setF_self _ _ _ (by decide) (by decide)]
    exact Nat.mod_eq_of_lt k.isLt
  · rw [State.getF_setF_ne _ Fld.LDG_STATUS_DEGRADED Fld.ADM_STATUS_FAULT_HOLD _ (by decide) (by decide),
      State.getF_setF_ne _ Fld.LDG_STATUS_STACK Fld.ADM_STATUS_FAULT_HOLD _ (by decide) (by decide)]
    unfold stackRetired
    rw [getF_retireCode, hold_faultHold]

theorem keeps_stackRetired (s : State) (k : Fin 4) : (stackRetired s k).mem = s.mem ∧ (stackRetired s k).jnl = s.jnl := by
  have hquiet : Quiet s (faultHold (s.report (stackReport k))) := ((Quiet.refl s).report _).setF _ _
  exact ⟨(keeps_retireCode _ _).1.trans hquiet.mem, (keeps_retireCode _ _).2.trans hquiet.jnl⟩

theorem keeps_servedFromOthers (s : State) (k : Fin 4) :
    (servedFromOthers s k).mem = s.mem ∧ (servedFromOthers s k).jnl = s.jnl := by
  unfold servedFromOthers
  rw [State.mem_setF, State.mem_setF, State.jnl_setF, State.jnl_setF]
  exact keeps_stackRetired s k

theorem keeps_serviceHalted (s : State) (k : Fin 4) :
    (serviceHalted s k).mem = s.mem ∧ (serviceHalted s k).jnl.halted = true := by
  unfold serviceHalted
  rw [State.mem_setF, State.jnl_setF, (keeps_haltJournal _).1, State.mem_report, (keeps_stackRetired s k).1]
  exact ⟨rfl, (keeps_haltJournal _).2.2⟩

/-- R406: JNL assigns no JSN once it is halted. -/
theorem canAssign_of_halted {s : State} (h : s.jnl.halted = true) : canAssign s = false := by
  simp [canAssign, h]

/-! ## Lines (R257, R258, R406) -/

section
variable {s : State} {line : Nat}

theorem loseLine_of_lost (h : s.ldg.poison.contains line = true) : loseLine s line = s := if_pos h

/-- The data of a line is marked as lost. -/
def poisonLine (u : State) (line : Nat) : State := { u with ldg := { u.ldg with poison := line :: u.ldg.poison } }

theorem keeps_poisonLine (u : State) (line : Nat) :
    (poisonLine u line).ldg.poison = line :: u.ldg.poison ∧ (poisonLine u line).mem = u.mem := ⟨rfl, rfl⟩

/-- R257: a line whose data is lost is reported and marked. -/
theorem loseLine_of_new (h : s.ldg.poison.contains line = false) :
    loseLine s line = poisonLine (s.report (lineReport s line .loss 3)) line := if_neg (by simpa using h)

theorem poison_loseLine (h : s.ldg.poison.contains line = false) : (loseLine s line).ldg.poison = line :: s.ldg.poison := by
  rw [loseLine_of_new h, (keeps_poisonLine _ _).1, State.ldg_report]

theorem mem_loseLine_of_new (h : s.ldg.poison.contains line = false) : (loseLine s line).mem = s.mem := by
  rw [loseLine_of_new h, (keeps_poisonLine _ _).2, State.mem_report]

/-- R257: the line is marked lost, whether it was before or not. -/
theorem line_mem_poison_loseLine : line ∈ (loseLine s line).ldg.poison := by
  cases h : s.ldg.poison.contains line
  · rw [poison_loseLine h]
    exact List.mem_cons_self
  · rw [loseLine_of_lost h]
    exact List.contains_iff_mem.1 h

/-- R257: what overlaps a lost line reads as poisoned. -/
theorem poisoned_of_mem {pa n : Nat} (hmem : line ∈ s.ldg.poison) (hlow : pa < 64 * line + 64) (hhigh : 64 * line < pa + n) :
    poisoned s pa n = true := by
  unfold poisoned
  refine Bool.or_eq_true_iff.2 (.inl (List.any_eq_true.2 ⟨line, hmem, ?_⟩))
  simpa using ⟨hlow, hhigh⟩

theorem exec_hbmScrub_unbacked (h : lineBacked s line = false) (e : EccState) : exec (.hbmScrub line e) s = .next s :=
  (exec_hbmScrub s line e).trans (congrArg _ (if_pos (by simp [h])))

variable (h : lineBacked s line = true)
include h

/-- R258: the scrub of a backed line, by what the ECC finds. -/
theorem exec_hbmScrub_backed (e : EccState) : exec (.hbmScrub line e) s = .next (match e with
    | .clean => s
    | .single => s.report (lineReport s line .line 0)
    | .uncorrectable =>
      if canRebuild s line then faultHold (s.report (lineReport s line .line 1)) else loseLine s line) :=
  (exec_hbmScrub s line e).trans (congrArg _ (if_neg (by simp [h])))

theorem exec_hbmScrub_rebuilt (hre : canRebuild s line = true) :
    exec (.hbmScrub line .uncorrectable) s = .next (faultHold (s.report (lineReport s line .line 1))) :=
  (exec_hbmScrub_backed h _).trans (congrArg _ (if_pos hre))

theorem exec_hbmScrub_lost (hre : canRebuild s line = false) :
    exec (.hbmScrub line .uncorrectable) s = .next (loseLine s line) :=
  (exec_hbmScrub_backed h _).trans (congrArg _ (if_neg (by simp [hre])))

theorem exec_hbmDataLoss_lost (hre : canRebuild s line = false) : exec (.hbmDataLoss line) s = .next (loseLine s line) := by
  rw [exec_hbmDataLoss, execHbmDataLoss]
  exact congrArg _ (if_pos ⟨h, by simp [hre]⟩)

end

/-- R257: data is lost only of a backed line that cannot be rebuilt. -/
theorem exec_hbmDataLoss_kept {s : State} {line : Nat} (h : lineBacked s line = false ∨ canRebuild s line = true) :
    exec (.hbmDataLoss line) s = .next s := by
  rw [exec_hbmDataLoss, execHbmDataLoss]
  refine congrArg _ (if_neg ?_)
  rintro ⟨hbacked, hre⟩
  rcases h with h | h
  · exact absurd (hbacked.symm.trans h) (by decide)
  · rw [h] at hre
    exact absurd hre (by decide)

/-- Settles O52: a first and a second failed stack, and what a scrub finds of a line. -/
theorem hbmFaults : Obligations.HbmFaults := by
  intro s k line e
  refine ⟨fun hin => ⟨fun hfirst => ?first, fun hsecond => ?second⟩, fun hin => congrArg _ (if_pos hin),
    fun hbacked => ⟨exec_hbmScrub_backed hbacked .clean, ?single, fun hre => ?rebuilt,
      fun hre => ⟨exec_hbmScrub_lost hbacked hre, exec_hbmDataLoss_lost hbacked hre⟩⟩,
    fun hno => ⟨exec_hbmScrub_unbacked hno e, exec_hbmDataLoss_kept (.inl hno)⟩, fun hre => exec_hbmDataLoss_kept (.inr hre),
    fun hnew => ⟨poison_loseLine hnew, mem_loseLine_of_new hnew⟩, loseLine_of_lost,
    fun pa n hlow hhigh => poisoned_of_mem line_mem_poison_loseLine hlow hhigh⟩
  case first =>
    obtain ⟨hdegraded, hstack, hhold⟩ := degraded_servedFromOthers s k
    obtain ⟨hmem, hjnl⟩ := keeps_servedFromOthers s k
    have hretired := retired_servedFromOthers s k
    refine ⟨_, exec_hbmStackFail_first hin hfirst, ?_⟩
    split
    · refine ⟨?_, ?_, stackGone_of_retired ((retired_report ..).trans hretired), ?_, (State.mem_report ..).trans hmem,
        (State.jnl_report ..).trans hjnl⟩
      · rw [getF_report _ _ (by decide), hdegraded]
      · rw [getF_report _ _ (by decide), hstack]
      · rw [getF_report _ _ (by decide), hhold]
    · exact ⟨hdegraded, hstack, stackGone_of_retired hretired, hhold, hmem, hjnl⟩
  case second =>
    obtain ⟨hmem, hhalted⟩ := keeps_serviceHalted s k
    refine ⟨_, exec_hbmStackFail_second hin hsecond, hhalted, State.getF_setF_self _ _ _ (by decide) (by decide),
      stackGone_of_retired (retired_serviceHalted s k), hmem, canAssign_of_halted hhalted⟩
  case single =>
    exact ⟨_, exec_hbmScrub_backed hbacked .single, State.mem_report .., State.ldg_report .., ceCount_report rfl s⟩
  case rebuilt =>
    refine ⟨_, exec_hbmScrub_rebuilt hbacked hre, ?_, ?_, hold_faultHold _⟩
    · exact (State.mem_setF ..).trans (State.mem_report ..)
    · exact (State.ldg_setF ..).trans (State.ldg_report ..)

end Sys2Proof.Proofs

namespace Sys2Proof.Proofs

open Sys2Proof Sys2Proof.Machine

/-! # The step (95_what_each_step_holds.md; log 1, log 2, log 3) -/

theorem step_of_pending {i : Instr} {rest : List Instr} {s : State} (h : s.pending = i :: rest) :
    step s = exec i { s with pending := rest } := by
  unfold step
  rw [h]

theorem step_of_empty {s : State} (h : s.pending = []) : step s = .next (tick s) := by
  unfold step
  rw [h]

/-- Settles O58: the branches of the step, and every command's answer (`exec_next`). -/
theorem stepRunsFront : Obligations.StepRunsFront :=
  ⟨fun _ _ _ => step_of_pending, exec_next, fun _ => step_of_empty, fun _ _ _ => ⟨rfl, rfl⟩⟩

end Sys2Proof.Proofs

namespace Sys2Proof.Proofs

open Sys2Proof Sys2Proof.Machine Sys2Proof.Laws

/-! # Host rings: start, stop and doorbells (O42: R335 to R337, R340, R341)

## A ring of the state -/

theorem ring_congr {s t : State} (h : t.hif.rings = s.hif.rings) (r : RingId) : t.ring r = s.ring r := by
  unfold State.ring
  rw [h]

theorem rings_of_quiet {s t : State} (h : Quiet s t) : t.hif.rings = s.hif.rings := by rw [h.hif]

theorem ring_of_quiet {s t : State} (h : Quiet s t) (r : RingId) : t.ring r = s.ring r := ring_congr (rings_of_quiet h) r

section
variable (s : State) (r : RingId)

@[simp] theorem ring_setF (g : FieldRef) (v : Nat) : (s.setF g v).ring r = s.ring r := ring_of_quiet ((Quiet.refl s).setF g v) r
@[simp] theorem ring_bump (a n : Nat) : (s.bump a n).ring r = s.ring r := rfl
@[simp] theorem ring_report (e : ErrReport) : (s.report e).ring r = s.ring r := ring_of_quiet ((Quiet.refl s).report e) r

@[simp] theorem ring_modRing_self (f : Ring → Ring) : (s.modRing r f).ring r = f (s.ring r) := by
  unfold State.ring State.modRing
  simp

theorem ring_modRing_ne {q : RingId} (h : q ≠ r) (f : Ring → Ring) : (s.modRing r f).ring q = s.ring q := by
  have hval : r.val ≠ q.val := fun e => h (Fin.ext e.symm)
  unfold State.ring State.modRing
  simp [hval]

@[simp] theorem ring_forgetDescs (q : RingId) : (forgetDescs s q).ring r = s.ring r := rfl

@[simp] theorem getF_modRing (f : Ring → Ring) (g : FieldRef) : (s.modRing r f).getF g = s.getF g := rfl
@[simp] theorem reg_modRing (f : Ring → Ring) (a : Nat) : (s.modRing r f).reg a = s.reg a := rfl
@[simp] theorem ringRuns_modRing (f : Ring → Ring) (q : RingId) : ringRuns (s.modRing r f) q = ringRuns s q := rfl
@[simp] theorem ringSize_modRing (f : Ring → Ring) (q : RingId) : ringSize (s.modRing r f) q = ringSize s q := rfl

/-! ## The stop of a ring (R340) -/

theorem ringState_ne_sysEvt (g : FieldRef) (h : g.off = Off.HIF_RING_STATE r.val) : g.off ≠ Off.SYS_EVT := by
  rw [h, Off.HIF_RING_STATE, Off.SYS_EVT]
  omega

/-- The stop of a ring in HIF_RING_STATE and its counter. -/
def ringHalted (err : Nat) : State :=
  ((s.setF (Fld.HIF_RING_STATE_RUN r.val) 0).setF (Fld.HIF_RING_STATE_ERR r.val) err).bump Off.HIF_RINGERR_CNT

theorem stopRing_eq (err : Nat) :
    stopRing s r err = (ringHalted s r err).modRing r fun x => { x with reading := false, seen := [] } := rfl

theorem quiet_ringHalted (err : Nat) : Quiet s (ringHalted s r err) :=
  (((Quiet.refl s).setF _ _).setF _ _).bump _ _

theorem getF_ringHalted {g : FieldRef} (h : g.off = Off.HIF_RING_STATE r.val) (err : Nat) : (ringHalted s r err).getF g =
    ((s.setF (Fld.HIF_RING_STATE_RUN r.val) 0).setF (Fld.HIF_RING_STATE_ERR r.val) err).getF g := by
  refine State.getF_bump_ne _ _ _ _ ?_
  rw [h, Off.HIF_RING_STATE, Off.HIF_RINGERR_CNT]
  omega

theorem stopRing_run (err : Nat) : (stopRing s r err).getF (Fld.HIF_RING_STATE_RUN r.val) = 0 := by
  have hevt : ∀ g : FieldRef, g.off = Off.HIF_RING_STATE r.val → g.off ≠ Off.SYS_EVT := ringState_ne_sysEvt r
  rw [stopRing_eq, getF_modRing, getF_ringHalted s r rfl,
    State.getF_setF_beside _ (Fld.HIF_RING_STATE_ERR r.val) (Fld.HIF_RING_STATE_RUN r.val) _ (hevt _ rfl) rfl
      (Nat.le_of_ble_eq_true rfl) (.inl (Nat.le_of_ble_eq_true rfl)),
    State.getF_setF_self _ (Fld.HIF_RING_STATE_RUN r.val) _ (hevt _ rfl) (Nat.le_of_ble_eq_true rfl)]
  rfl

theorem stopRing_err {err : Nat} (herr : err < 16) : (stopRing s r err).getF (Fld.HIF_RING_STATE_ERR r.val) = err := by
  rw [stopRing_eq, getF_modRing, getF_ringHalted s r rfl,
    State.getF_setF_self _ (Fld.HIF_RING_STATE_ERR r.val) _ (ringState_ne_sysEvt r _ rfl) (Nat.le_of_ble_eq_true rfl)]
  exact Nat.mod_eq_of_lt herr

theorem stopRing_counted (err : Nat) :
    (stopRing s r err).reg Off.HIF_RINGERR_CNT = (s.reg Off.HIF_RINGERR_CNT + 1) % 2 ^ 64 := by
  have hne : Off.HIF_RINGERR_CNT ≠ Off.HIF_RING_STATE r.val := by
    rw [Off.HIF_RINGERR_CNT, Off.HIF_RING_STATE]
    omega
  rw [stopRing_eq, reg_modRing, ringHalted, reg_bump, if_pos rfl, State.reg_setF_ne _ _ _ _ hne (by decide),
    State.reg_setF_ne _ _ _ _ hne (by decide)]

theorem mem_stopRing (err : Nat) : (stopRing s r err).mem = s.mem := (quiet_ringHalted s r err).mem

theorem txns_stopRing (err : Nat) : (stopRing s r err).txns = s.txns := (quiet_ringHalted s r err).txns

theorem ring_stopRing_ne {q : RingId} (h : q ≠ r) (err : Nat) : (stopRing s r err).ring q = s.ring q := by
  rw [stopRing_eq, ring_modRing_ne _ _ h, ring_of_quiet (quiet_ringHalted s r err)]

/-! ## The start of a ring (R340) -/

/-- ENABLE has gone to 1 and ERR is cleared; the doorbell has not been read. -/
def ringArmed : State := (s.setF (Fld.HIF_RING_CFG_ENABLE r.val) 1).setF (Fld.HIF_RING_STATE_ERR r.val) 0

/-- The ring runs from the doorbell value on. -/
def ringStarted (v : Nat) : State :=
  (forgetDescs ((ringArmed s r).setF (Fld.HIF_RING_STATE_RUN r.val) 1) r).modRing r fun _ =>
    { Ring.reset with prod := v, cons := v, fetched := v }

theorem doorbellPa_enabled : doorbellPa (s.setF (Fld.HIF_RING_CFG_ENABLE r.val) 1) r = doorbellPa s r := by
  unfold doorbellPa
  rw [State.getF_setF_ne]
  · show 0xD0018 ≠ 0xD0108 + 32 * r.val
    omega
  · decide

theorem ring_ringStarted_self (v : Nat) :
    (ringStarted s r v).ring r = { Ring.reset with prod := v, cons := v, fetched := v } := ring_modRing_self ..

theorem ring_ringStarted_ne {q : RingId} (h : q ≠ r) (v : Nat) : (ringStarted s r v).ring q = s.ring q := by
  unfold ringStarted ringArmed
  rw [ring_modRing_ne _ _ h, ring_forgetDescs, ring_setF, ring_setF, ring_setF]

theorem mem_ringStarted (v : Nat) : (ringStarted s r v).mem = s.mem := by
  show ((ringArmed s r).setF (Fld.HIF_RING_STATE_RUN r.val) 1).mem = s.mem
  rw [State.mem_setF, ringArmed, State.mem_setF, State.mem_setF]

theorem showIndex_ringStarted (v : Nat) :
    showIndex (ringStarted s r v) r = (ringStarted s r v).setF (Fld.HIF_RING_IDX_IDX r.val) v := by
  unfold showIndex
  rw [ring_ringStarted_self]
  exact congrArg _ (ite_self v)

variable {s r} (hoff : s.getF (Fld.HIF_RING_CFG_ENABLE r.val) = 0)
include hoff

theorem exec_ringEnable_started {bs : List Byte}
    (hread : islandRead (ringArmed s r) (ringClass r) (doorbellPa s r) (ringIdxBytes r) = (some bs, ringArmed s r)) :
    exec (.ringEnable r) s = .next ((ringStarted s r (leNat bs)).setF (Fld.HIF_RING_IDX_IDX r.val) (leNat bs)) := by
  rw [exec_ringEnable, execRingEnable, if_neg (by omega), startRing, doorbellPa_enabled]
  rw [ringArmed] at hread
  rw [hread]
  exact congrArg _ (showIndex_ringStarted s r _)

theorem exec_ringEnable_refused {s1 : State}
    (hread : islandRead (ringArmed s r) (ringClass r) (doorbellPa s r) (ringIdxBytes r) = (none, s1)) :
    exec (.ringEnable r) s = .next (stopRing s1 r 2) := by
  rw [exec_ringEnable, execRingEnable, if_neg (by omega), startRing, doorbellPa_enabled]
  rw [ringArmed] at hread
  rw [hread]

end

theorem exec_ringEnable_on {s : State} {r : RingId} (hon : s.getF (Fld.HIF_RING_CFG_ENABLE r.val) = 1) :
    exec (.ringEnable r) s = .next s := by
  rw [exec_ringEnable, execRingEnable, if_pos hon]

/-- What HIF shows of a ring that has started. -/
theorem shown_ringStarted (s : State) (r : RingId) (v : Nat) :
    let t := (ringStarted s r v).setF (Fld.HIF_RING_IDX_IDX r.val) v
    (t.ring r).prod = v ∧ (t.ring r).cons = v ∧ t.getF (Fld.HIF_RING_STATE_RUN r.val) = 1 ∧
      t.getF (Fld.HIF_RING_STATE_ERR r.val) = 0 ∧ t.getF (Fld.HIF_RING_IDX_IDX r.val) = v % 2 ^ 64 ∧ t.mem = s.mem ∧
      ∀ q, q ≠ r → t.ring q = s.ring q := by
  intro t
  have hevt : ∀ g : FieldRef, g.off = Off.HIF_RING_STATE r.val → g.off ≠ Off.SYS_EVT := ringState_ne_sysEvt r
  have hring : ∀ q, t.ring q = (ringStarted s r v).ring q := fun q => ring_setF ..
  have hstate : ∀ g : FieldRef, g.off = Off.HIF_RING_STATE r.val →
      t.getF g = ((ringArmed s r).setF (Fld.HIF_RING_STATE_RUN r.val) 1).getF g := fun g hg => by
    refine State.getF_setF_ne _ _ _ _ ?_ (hevt g hg)
    rw [hg]
    show 0xD0110 + 32 * r.val ≠ 0xD0118 + 32 * r.val
    omega
  refine ⟨?_, ?_, ?_, ?_, ?_, ?_, fun q hq => (hring q).trans (ring_ringStarted_ne s r hq v)⟩
  · rw [hring, ring_ringStarted_self]
  · rw [hring, ring_ringStarted_self]
  · rw [hstate _ rfl, State.getF_setF_self _ (Fld.HIF_RING_STATE_RUN r.val) _ (hevt _ rfl) (Nat.le_of_ble_eq_true rfl)]
    rfl
  · rw [hstate _ rfl, State.getF_setF_beside _ (Fld.HIF_RING_STATE_RUN r.val) (Fld.HIF_RING_STATE_ERR r.val) _ (hevt _ rfl) rfl
      (Nat.le_of_ble_eq_true rfl) (.inr (Nat.le_of_ble_eq_true rfl))]
    exact State.getF_setF_self _ (Fld.HIF_RING_STATE_ERR r.val) _ (hevt _ rfl) (Nat.le_of_ble_eq_true rfl)
  · refine State.getF_setF_self _ (Fld.HIF_RING_IDX_IDX r.val) _ ?_ (Nat.le_of_ble_eq_true rfl)
    show 0xD0118 + 32 * r.val ≠ 0x40
    omega
  · rw [State.mem_setF, mem_ringStarted]

/-! ## Doorbells (R341) -/

theorem issueRead_self (s : State) (r : RingId) :
    (issueRead s r).ring r = { s.ring r with reading := ringRuns s r || (s.ring r).reading } := by
  unfold issueRead
  split
  case isTrue h => rw [ring_modRing_self, h, Bool.true_or]
  case isFalse h => rw [Bool.eq_false_iff.2 h, Bool.false_or]

theorem issueRead_ne (s : State) {q r : RingId} (h : q ≠ r) : (issueRead s r).ring q = s.ring q := by
  unfold issueRead
  split
  · exact ring_modRing_ne s r h _
  · rfl

theorem keeps_issueRead (s : State) (r : RingId) : (issueRead s r).regs = s.regs ∧ (issueRead s r).mem = s.mem := by
  unfold issueRead
  split <;> exact ⟨rfl, rfl⟩

theorem ringRuns_congr {s t : State} (h : t.regs = s.regs) (r : RingId) : ringRuns t r = ringRuns s r := by
  unfold ringRuns
  rw [State.getF_congr _ (State.reg_congr h _), State.getF_congr (Fld.HIF_RING_STATE_RUN r.val) (State.reg_congr h _)]

/-- Reads of the doorbell lines of the running rings of a list. -/
theorem foldl_issueRead {l : List RingId} (hl : l.Nodup) (s : State) :
    (l.foldl issueRead s).regs = s.regs ∧ (l.foldl issueRead s).mem = s.mem ∧
      ∀ q, (l.foldl issueRead s).ring q =
        if q ∈ l then { s.ring q with reading := ringRuns s q || (s.ring q).reading } else s.ring q := by
  induction l generalizing s with
  | nil => exact ⟨rfl, rfl, fun _ => rfl⟩
  | cons r l ih =>
    obtain ⟨hr, hl⟩ := List.nodup_cons.1 hl
    obtain ⟨hregs, hmem, hring⟩ := ih hl (issueRead s r)
    obtain ⟨hregs1, hmem1⟩ := keeps_issueRead s r
    rw [List.foldl_cons]
    refine ⟨hregs.trans hregs1, hmem.trans hmem1, fun q => ?_⟩
    rw [hring, ringRuns_congr hregs1]
    by_cases hq : q = r
    · rw [hq, if_neg hr, if_pos List.mem_cons_self, issueRead_self]
    · simp only [issueRead_ne s hq, List.mem_cons, hq, false_or]

theorem exec_doorbellPoll_pcie {s : State} (h : s.getF Fld.HIF_STATUS_MODE = 1) :
    ∃ t, exec (.doorbellPoll) s = .next t ∧ t.regs = s.regs ∧ t.mem = s.mem ∧
      ∀ q, t.ring q = { s.ring q with reading := ringRuns s q || (s.ring q).reading } := by
  obtain ⟨hregs, hmem, hring⟩ := foldl_issueRead (List.nodup_finRange 40) s
  refine ⟨allRings.foldl issueRead s, ?_, hregs, hmem, fun q => (hring q).trans (if_pos (List.mem_finRange q))⟩
  rw [exec_doorbellPoll, execDoorbellPoll, if_pos h]

theorem exec_doorbellSnoop_cxl {s : State} {r : RingId} (hmode : s.getF Fld.HIF_STATUS_MODE = 2) (hruns : ringRuns s r = true) :
    exec (.doorbellSnoop r) s = .next (s.modRing r fun x => { x with reading := true }) := by
  rw [exec_doorbellSnoop, execDoorbellSnoop, if_pos hmode, issueRead, if_pos hruns]

theorem exec_doorbellSnoop_other {s : State} {r : RingId} (hmode : s.getF Fld.HIF_STATUS_MODE ≠ 2) :
    exec (.doorbellSnoop r) s = .next s := by
  rw [exec_doorbellSnoop, execDoorbellSnoop, if_neg hmode]

section
variable {s : State} {r : RingId} (hreading : (s.ring r).reading = true) (hruns : ringRuns s r = true)
include hreading hruns

theorem exec_doorbellRead_none {s2 : State}
    (h : islandRead (s.modRing r fun x => { x with reading := false }) (ringClass r) (doorbellPa s r) (ringIdxBytes r) = (none, s2)) :
    exec (.doorbellRead r) s = .next (stopRing s2 r 2) := by
  rw [exec_doorbellRead, execDoorbellRead, if_pos ⟨hreading, hruns⟩]
  dsimp only
  rw [h]

theorem exec_doorbellRead_some {s2 : State} {bs : List Byte}
    (h : islandRead (s.modRing r fun x => { x with reading := false }) (ringClass r) (doorbellPa s r) (ringIdxBytes r) = (some bs, s2)) :
    exec (.doorbellRead r) s = .next (observe s2 r (leNat bs)) := by
  rw [exec_doorbellRead, execDoorbellRead, if_pos ⟨hreading, hruns⟩]
  dsimp only
  rw [h]

end

section
variable {s : State} {r : RingId} {v : Nat}

/-- R341: a new producer index of the host. -/
theorem observe_produced (hprod : hostProduced r = true) (hdist : ringDist r (s.ring r).cons v ≤ ringSize s r)
    (hnew : v ≠ (s.ring r).prod) : observe s r v = s.modRing r fun y =>
      { y with prod := v, seen := (if 8 ≤ r.val then y.seen ++ [(v, s.now)] else y.seen) } := by
  unfold observe
  dsimp only
  rw [if_pos hprod, if_neg (by omega), if_neg hnew]

theorem observe_unchanged (hprod : hostProduced r = true) (hdist : ringDist r (s.ring r).cons v ≤ ringSize s r)
    (hsame : v = (s.ring r).prod) : observe s r v = s := by
  unfold observe
  dsimp only
  rw [if_pos hprod, if_neg (by omega), if_pos hsame]

/-- R341: a new consumer index of the host. -/
theorem observe_consumed (hprod : hostProduced r = false) (hdist : ringDist r v (s.ring r).prod ≤ ringSize s r) :
    observe s r v = s.modRing r fun y => { y with cons := v } := by
  unfold observe
  dsimp only
  rw [if_neg (by rw [hprod]; decide), if_neg (by omega)]

/-- R340: an impossible index stops the ring. -/
theorem observe_impossible (h : ringSize s r <
    (if hostProduced r = true then ringDist r (s.ring r).cons v else ringDist r v (s.ring r).prod)) :
    observe s r v = stopRing s r 1 := by
  unfold observe
  dsimp only
  split at h
  case isTrue hprod => rw [if_pos hprod, if_pos h]
  case isFalse hprod => rw [if_neg hprod, if_pos h]

end

/-! ## Accesses that the host fails (R335) -/

section
variable {s : State} {r : RingId} (hruns : ringRuns s r = true)
include hruns

theorem exec_hostAccessTimeout_refused : exec (.hostAccessTimeout (some r) .refused) s = .next (stopRing s r 2) := by
  rw [exec_hostAccessTimeout, execHostAccessTimeout, if_pos hruns, if_pos rfl, hostFailErr]

theorem exec_hostAccessTimeout_failed {f : HostFail} (hf : f ≠ .refused) :
    exec (.hostAccessTimeout (some r) f) s = .next (stopRing (hostError s (ringBase s r)) r (hostFailErr f)) := by
  rw [exec_hostAccessTimeout, execHostAccessTimeout, if_pos hruns, if_neg hf]

end

/-- The next access that is not a ring's ends as a refused one. -/
def failNext (u : State) : State := { u with hif := { u.hif with failing := true } }

theorem mem_failNext (u : State) : (failNext u).mem = u.mem := rfl

theorem reg_failNext (u : State) (a : Nat) : (failNext u).reg a = u.reg a := rfl

theorem failNext_fails (u : State) (pa n : Nat) (bs : List Byte) : (hifRead (failNext u) pa n).1 = none ∧
    (hifWrite (failNext u) pa bs).1 = false ∧ (hifRead (failNext u) pa n).2.hif.failing = false := ⟨rfl, rfl, rfl⟩

theorem exec_hostAccessTimeout_none {f : HostFail} (hf : f ≠ .refused) (s : State) :
    exec (.hostAccessTimeout none f) s = .next (failNext (hostError s hostBase)) := by
  rw [exec_hostAccessTimeout, execHostAccessTimeout]
  dsimp only
  rw [if_neg hf]
  rfl

theorem mem_hostError (s : State) (pa : Nat) : (hostError s pa).mem = s.mem := by
  rw [hostError, State.mem_report, State.mem_bump]

theorem counted_hostError (s : State) (pa : Nat) :
    (hostError s pa).reg Off.HIF_HOSTERR_CNT = (s.reg Off.HIF_HOSTERR_CNT + 1) % 2 ^ 64 := by
  rw [hostError, reg_report _ _ (by decide), reg_bump, if_pos rfl]

/-- Settles O42: the start by the answer of the doorbell read, the stop, the reads that a snoop and a poll issue, the value that a
read gives, and the host's failures. -/
theorem ringsAndDoorbells : Obligations.RingsAndDoorbells := by
  intro s r
  refine ⟨fun hoff => ⟨fun bs hread => ⟨_, exec_ringEnable_started hoff hread, shown_ringStarted s r _⟩,
      fun s1 hread => exec_ringEnable_refused hoff hread⟩,
    exec_ringEnable_on,
    fun err herr => ⟨stopRing_run s r err, stopRing_err s r herr, stopRing_counted s r err, mem_stopRing s r err,
      txns_stopRing s r err, fun q hq => ring_stopRing_ne s r hq err⟩,
    exec_doorbellSnoop_cxl, exec_doorbellSnoop_other, exec_doorbellPoll_pcie,
    fun hreading hruns => ⟨fun bs hread => ?read, fun s2 hread => exec_doorbellRead_none hreading hruns hread⟩,
    fun hruns => ⟨exec_hostAccessTimeout_refused hruns, exec_hostAccessTimeout_failed hruns nofun,
      exec_hostAccessTimeout_failed hruns nofun⟩,
    fun f hf => ⟨exec_hostAccessTimeout_none hf s, (mem_failNext _).trans (mem_hostError s _),
      (reg_failNext _ _).trans (counted_hostError s _), failNext_fails _⟩⟩
  case read =>
    have hring : (s.modRing r fun x => { x with reading := false }).ring r = { s.ring r with reading := false } :=
      ring_modRing_self ..
    rw [exec_doorbellRead_some hreading hruns hread]
    refine ⟨fun hprod hdist hnew => congrArg _ (observe_produced hprod ?_ ?_),
      fun hprod hsame hdist => congrArg _ (observe_unchanged hprod ?_ ?_),
      fun hprod hdist => congrArg _ (observe_consumed hprod ?_), fun h => congrArg _ (observe_impossible ?_)⟩
    all_goals simpa only [hring, ringSize_modRing]

end Sys2Proof.Proofs

namespace Sys2Proof.Proofs

open Sys2Proof Sys2Proof.Machine Sys2Proof.Laws

/-! # Epochs, seals and exported entries (O39: R265, R288 to R295, R311, R312, R314, R330)

## What the journal keeps beside an operation -/


theorem quiet_noteFull (s : State) : Quiet s (noteFull s) := (Quiet.refl s).setF _ _

theorem jnl_noteFull (s : State) : (noteFull s).jnl = s.jnl := (quiet_noteFull s).jnl
theorem kol_noteFull (s : State) : (noteFull s).kol = s.kol := (quiet_noteFull s).kol

theorem jnl_kolSend (s : State) (m : KMsg) : (kolSend s m).jnl = s.jnl := (sameHolders_kolSend s m).2.1

theorem jnl_applyMap (s : State) (t : KTick) : (applyMap s t).jnl = s.jnl := by
  unfold applyMap
  cases s.kol.map with
  | none => rfl
  | some m =>
    dsimp only
    split
    · rw [State.jnl_setF]
      exact foldl_inv (P := fun u : State => u.jnl = s.jnl) rfl _ fun u e h => h
    · rfl

/-- A seam in a cascade changes nothing of the journal (R314, R318). -/
theorem jnl_cascadeSeam (s : State) (t : KTick) : (cascadeSeam s t).jnl = s.jnl := by
  unfold cascadeSeam
  dsimp only
  split <;> exact jnl_applyMap s t

/-- The record that a journal assigns next (R280, R281). -/
def recAt (s : State) (h : JHead) (body : List Byte) : JRec :=
  { jsn := s.jnl.next, kind := h.kind, epoch := s.getF Fld.JNL_STATUS_EPOCH,
    bytes := recordOf s.node s.jnl.next (s.getF Fld.JNL_STATUS_EPOCH) s.now h body,
    leaf := [], chain := [], complete := false, acked := false }

theorem jnl_assignRec (s : State) (h : JHead) (body : List Byte) :
    (assignRec s h body).jnl = { s.jnl with next := s.jnl.next + 1, recs := s.jnl.recs ++ [recAt s h body] } := rfl

/-! ## The seam (R288, R289) -/

/-- The move to the other area queues an exported entry and changes nothing else of the journal (R288). -/
theorem jnl_areaSwitch (s : State) : ∃ l, (areaSwitch s).jnl = { s.jnl with exports := l } := by
  unfold areaSwitch
  dsimp only
  split
  · refine ⟨s.jnl.exports ++ [areaEvent (s.getF Fld.JNL_STATUS_AREA)], ?_⟩
    unfold queueExport
    simp only [State.jnl_setF]
  · exact ⟨_, rfl⟩

/-- The epoch that a seam closes (R289). -/
def closedEpoch (s : State) (seam : Nat) (t : Option KTick) : JEpoch :=
  { epoch := s.getF Fld.JNL_STATUS_EPOCH, first := s.jnl.first, last := s.jnl.next - 1, seamOpen := s.jnl.seamOpen,
    seamClose := seam, flags := 0, gepoch := t.map fun t => t.gepoch, st := .closing, sealBytes := [], retryAt := 0,
    exported := 0 }

/-- R289: the open epoch closes, and a head record opens the next. -/
theorem jnl_doSeam (s : State) (seam : Nat) (t : Option KTick) : ∃ y : JRec,
    (doSeam s seam t).jnl.closing = s.jnl.closing ++ [closedEpoch s seam t] ∧
    (doSeam s seam t).jnl.recs = s.jnl.recs ++ [y] ∧ y.kind = 3 ∧ y.jsn = s.jnl.next := by
  have hbase : ∀ u : State, u.jnl = { s.jnl with closing := s.jnl.closing ++ [closedEpoch s seam t] } → ∃ y : JRec,
      (headRec u seam (s.jnl.next - 1)).jnl.closing = s.jnl.closing ++ [closedEpoch s seam t] ∧
      (headRec u seam (s.jnl.next - 1)).jnl.recs = s.jnl.recs ++ [y] ∧ y.kind = 3 ∧ y.jsn = s.jnl.next := by
    intro u hu
    have hclosing : u.jnl.closing = s.jnl.closing ++ [closedEpoch s seam t] := by rw [hu]
    have hrecs : u.jnl.recs = s.jnl.recs := by rw [hu]
    have hnext : u.jnl.next = s.jnl.next := by rw [hu]
    exact ⟨_, hclosing, congrArg (· ++ [_]) hrecs, rfl, hnext⟩
  unfold doSeam
  dsimp only
  rw [jnl_noteFull]
  cases t with
  | none => exact hbase _ (State.jnl_setF _ _ _)
  | some t =>
    dsimp only
    rw [jnl_cascadeSeam]
    exact hbase _ (State.jnl_setF _ _ _)

theorem exec_epochSeam_running {s : State} {seam : Nat} {tk : Option KTick} (hnext : nextSeam s = some (seam, tk))
    (hdue : seam ≤ s.now) (hrun : s.jnl.running = true) (hcan : canAssign (areaSwitch s) = true) :
    exec (.epochSeam) s = .next (doSeam (areaSwitch s) seam tk) := by
  rw [exec_epochSeam, execEpochSeam, hnext]
  dsimp only
  rw [if_neg (Nat.not_lt.2 hdue), if_pos hrun, if_pos hcan]

theorem exec_epochSeam_unreleased {s : State} {seam : Nat} {tk : KTick} (hnext : nextSeam s = some (seam, some tk))
    (hdue : seam ≤ s.now) (hrun : s.jnl.running = false) :
    exec (.epochSeam) s = .next (cascadeSeam s tk) := by
  rw [exec_epochSeam, execEpochSeam, hnext]
  dsimp only
  rw [if_neg (Nat.not_lt.2 hdue), hrun]
  rfl

theorem seam_closes (s : State) (seam : Nat) (tk : Option KTick) :
    ∃ x y, (doSeam (areaSwitch s) seam tk).jnl.closing = s.jnl.closing ++ [x] ∧ x.seamClose = seam ∧
      x.last + 1 = max 1 s.jnl.next ∧ x.first = s.jnl.first ∧
      (doSeam (areaSwitch s) seam tk).jnl.recs = s.jnl.recs ++ [y] ∧ y.kind = 3 ∧ y.jsn = s.jnl.next := by
  obtain ⟨l, hl⟩ := jnl_areaSwitch s
  obtain ⟨y, hclosing, hrecs, hkind, hjsn⟩ := jnl_doSeam (areaSwitch s) seam tk
  rw [hl] at hclosing hrecs hjsn
  have hfirst : (areaSwitch s).jnl.first = s.jnl.first := by rw [hl]
  have hnext : (areaSwitch s).jnl.next = s.jnl.next := by rw [hl]
  refine ⟨_, y, hclosing, rfl, ?_, hfirst, hrecs, hkind, hjsn⟩
  change (areaSwitch s).jnl.next - 1 + 1 = _
  rw [hnext]
  omega

/-! ## The seal of an epoch (R290, R293) -/

theorem exec_epochClose_complete {s : State} {e : JEpoch} (hopen : openEpoch s = some e) (hdone : epochComplete s e = true) :
    exec (.epochClose) s = .next (signNext (modEpoch s e.first fun e => { e with st := .signing })) := by
  rw [exec_epochClose, execEpochClose, hopen]
  dsimp only
  rw [if_pos hdone]

theorem exec_stragglerTimeout_of_late {s : State} {e : JEpoch}
    (hlate : (s.jnl.closing.find? fun e => decide (e.st = .closing) && !epochComplete s e && !bitAt e.flags 0 &&
      decide (e.seamClose + s.getF Fld.JNL_EPOCH_STRAGGLER_NS ≤ s.now)) = some e) :
    exec (.stragglerTimeout) s = .next (modEpoch ((s.setF Fld.JNL_STATUS_STRAG_LATE 1).bump Off.JNL_STRAG_CNT) e.first
      fun e => { e with flags := putBits e.flags 0 1 1 }) := by
  rw [exec_stragglerTimeout, execStragglerTimeout, hlate]

/-- R265, R293, R295: the sign job of a seal joins the jobs of CRYPTO.0, with AN 0. -/
theorem issueSign_appends (s : State) (who : JobFor) (slot deadline : Nat) :
    ∃ j, (issueSign s who slot deadline).cry.jobs = s.cry.jobs ++ [j] ∧ j.who = who ∧ j.kind = .pke ∧ j.op = 0x31 ∧
      j.cluster = 0 ∧ j.an = 0 ∧ j.st = .waiting ∧ j.key1 = slot ∧ j.deadline = deadline :=
  ⟨_, rfl, rfl, rfl, rfl, rfl, rfl, rfl, rfl, rfl⟩

theorem signNext_of_turn {s : State} {e : JEpoch} (hseal : sealEpoch s = some e) (hretry : e.retryAt = 0)
    (hnone : signJob s (.seal e.first) = none) :
    signNext s = issueSign s (.seal e.first) (s.getF Fld.JNL_SEAL_SLOT) (sealDeadline s e) := by
  have hout : (signJob s (.seal e.first)).isNone = true := by rw [hnone]; rfl
  unfold signNext
  rw [hseal]
  dsimp only
  rw [if_pos ⟨hretry, hout⟩]

theorem jnl_signNext (s : State) : (signNext s).jnl = s.jnl := by
  unfold signNext
  cases sealEpoch s with
  | none => rfl
  | some e =>
    dsimp only
    split <;> rfl

theorem exec_sealRetry_due {s : State} {e : JEpoch} (hseal : sealEpoch s = some e) (hset : 0 < e.retryAt)
    (hdue : e.retryAt ≤ s.now) :
    exec (.sealRetry) s = .next (signNext (modEpoch s e.first fun e => { e with retryAt := 0 })) := by
  rw [exec_sealRetry, execSealRetry, hseal]
  dsimp only
  rw [if_pos ⟨hset, hdue⟩]

/-- R293: a changed epoch has the change. -/
theorem mem_modEpoch {s : State} {first : Nat} {f : JEpoch → JEpoch} {x : JEpoch}
    (hx : x ∈ (modEpoch s first f).jnl.closing) (hfirst : x.first = first) : ∃ e, x = f e := by
  obtain ⟨e, -, rfl⟩ := List.mem_map.1 hx
  by_cases he : e.first = first
  · exact ⟨e, if_pos he⟩
  · rw [if_neg he] at hfirst
    exact absurd hfirst he

/-- R293: a seal that could not be signed sets SEAL_FAIL, and is tried again a millisecond later. -/
theorem sealComplete_failed {s : State} {e : JEpoch} {j : CJob} (hseal : sealEpoch s = some e)
    (hjob : signJob s (.seal e.first) = some j) (hout : signOutcome j = some none) :
    ∃ t, exec (.sealComplete) s = .next t ∧ t.getF Fld.JNL_STATUS_SEAL_FAIL = 1 ∧
      ∀ x ∈ t.jnl.closing, x.first = e.first → x.retryAt = s.now + 1000000 := by
  refine ⟨modEpoch ((s.dropJob j.id).setF Fld.JNL_STATUS_SEAL_FAIL 1) e.first fun e =>
    { e with retryAt := s.now + 1000000 }, ?_, ?_, ?_⟩
  · rw [exec_sealComplete, execSealComplete, hseal]
    dsimp only
    rw [hjob]
    dsimp only
    rw [hout]
  · change ((s.dropJob j.id).setF Fld.JNL_STATUS_SEAL_FAIL 1).getF Fld.JNL_STATUS_SEAL_FAIL = 1
    rw [State.getF_setF_self _ _ _ (by decide) (by decide)]
    rfl
  · intro x hx hfirst
    obtain ⟨e', rfl⟩ := mem_modEpoch hx hfirst
    rfl

theorem jnl_exportSeal (s : State) (e : JEpoch) : ∃ l, (exportSeal s e).jnl = { s.jnl with exports := l } := by
  unfold exportSeal
  cases journalledSeal s e with
  | none => exact ⟨_, rfl⟩
  | some r => exact ⟨_, rfl⟩

theorem jnl_sendSeal (s : State) (e : JEpoch) (bs : List Byte) : (sendSeal s e bs).jnl = s.jnl := by
  unfold sendSeal
  cases e.gepoch with
  | none => rfl
  | some g =>
    dsimp only
    split
    · rfl
    · exact jnl_kolSend s _

/-- R292, R293: the seal of an epoch is journalled, and the next one chains to it. -/
theorem jnl_finishSeal {s : State} (hrun : s.jnl.running = true) (e : JEpoch) (bs : List Byte) :
    (finishSeal s e bs).jnl.prevSeal = sha384 bs ∧
      ∃ y ∈ (finishSeal s e bs).jnl.recs, y.jsn = s.jnl.next ∧ y.kind = 4 := by
  let s1 := noteSeal (assignRec s { kind := 4, nent := 1 } bs) e bs
  obtain ⟨l, hl⟩ := jnl_exportSeal s1 { e with sealBytes := bs }
  have heq : finishSeal s e bs = noteFull (signNext (sendSeal (exportSeal s1 { e with sealBytes := bs }) e bs)) := by
    unfold finishSeal
    rw [hrun]
    rfl
  have hjnl : (finishSeal s e bs).jnl = { s1.jnl with exports := l } := by
    rw [heq, jnl_noteFull, jnl_signNext, jnl_sendSeal, hl]
  rw [hjnl]
  exact ⟨rfl, recAt s { kind := 4, nent := 1 } bs, List.mem_append_right _ (List.mem_singleton.2 rfl), rfl, rfl⟩

theorem sealComplete_signed {s : State} {e : JEpoch} {j : CJob} {bs : List Byte} (hseal : sealEpoch s = some e)
    (hjob : signJob s (.seal e.first) = some j) (hout : signOutcome j = some (some bs)) (hrun : s.jnl.running = true)
    (hcan : canAssign s = true) :
    ∃ t, exec (.sealComplete) s = .next t ∧ t.jnl.prevSeal = sha384 bs ∧
      ∃ y ∈ t.jnl.recs, y.jsn = s.jnl.next ∧ y.kind = 4 := by
  refine ⟨finishSeal (s.dropJob j.id) e bs, ?_, jnl_finishSeal (s := s.dropJob j.id) hrun e bs⟩
  have hgo : ¬(s.jnl.running && !canAssign s) = true := by rw [hrun, hcan]; decide
  rw [exec_sealComplete, execSealComplete, hseal]
  dsimp only
  rw [hjob]
  dsimp only
  rw [hout]
  dsimp only
  rw [if_neg hgo]

/-! ## Export (R294) -/

theorem exec_exportPost_queued {s s1 : State} {bs : List Byte} {t : List (List Byte)} {i : Nat}
    (hq : s.jnl.exports = bs :: t) (hpost : postBytes s ringEXP bs = .done s1 i) :
    exec (.exportPost) s = .next { s1 with jnl := { s1.jnl with exports := t } } := by
  rw [exec_exportPost, execExportPost, hq]
  dsimp only
  rw [hpost]

theorem exec_exportPost_sealed {s s1 s2 : State} {bs : List Byte} {i : Nat} (hq : s.jnl.exports = [])
    (hnext : nextExport s = some (bs, s1)) (hpost : postBytes s1 ringEXP bs = .done s2 i) :
    exec (.exportPost) s = .next s2 := by
  rw [exec_exportPost, execExportPost, hq]
  dsimp only
  rw [hnext]
  dsimp only
  rw [hpost]

/-! ## Global seals (R295, R311, R312) -/

theorem exec_gsealWaitExpiry_forms {s : State} {w : GWait} {rest : List GWait} (hw : s.kol.gwaits = w :: rest)
    (hlead : s.getF Fld.KOL_STATUS_ACTING_LEAD ≠ 0) (hnone : signJob s (.gseal w.gepoch) = none)
    (hdue : w.seam + 1000 * s.getF Fld.JNL_GSEAL_WAIT_US ≤ s.now ∨
      (w.members.all fun n => (sealOf s w.gepoch n).isSome) = true) :
    exec (.gsealWaitExpiry) s = .next (formGseal s w) := by
  rw [exec_gsealWaitExpiry, execGsealWaitExpiry, if_neg hlead, hw]
  dsimp only
  rw [hnone, if_neg (by decide), if_pos (.inr hdue)]

theorem exec_gsealWaitExpiry_notLead {s : State} (hlead : s.getF Fld.KOL_STATUS_ACTING_LEAD = 0) :
    exec (.gsealWaitExpiry) s = .next s := by
  rw [exec_gsealWaitExpiry, execGsealWaitExpiry, if_pos hlead]

theorem formGseal_appends (s : State) (w : GWait) : ∃ j, (formGseal s w).cry.jobs = s.cry.jobs ++ [j] ∧
    j.who = .gseal w.gepoch ∧ j.kind = .pke ∧ j.op = 0x31 ∧ j.key1 = s.getF Fld.JNL_SEAL_GSLOT ∧
    j.deadline = w.seam + 1000 * s.getF Fld.JNL_GSEAL_WAIT_US + 1000000 :=
  ⟨_, rfl, rfl, rfl, rfl, rfl, rfl⟩

/-- A field that lies in both is the same in a block and in its slice. -/
theorem fld_sliceOf_zero {bs : List Byte} {k n : Nat} (hk : k ≤ n) (hlen : k ≤ bs.length) :
    fld (sliceOf bs 0 n) 0 k = fld bs 0 k := by
  have hslice : k ≤ (sliceOf bs 0 n).length := by simp [sliceOf, zeros]; omega
  have htake : (sliceOf bs 0 n).take k = bs.take k := by
    unfold sliceOf
    dsimp only
    rw [List.drop_zero, List.take_append_of_le_length (by simp; omega), List.take_take, Nat.min_eq_left hk]
  unfold fld
  rw [sliceOf_eq_of_le (bs := sliceOf bs 0 n) (by omega), sliceOf_eq_of_le (bs := bs) (n := k) (by omega)]
  simp only [List.drop_zero, htake]

/-- Whether the node has seen a global seal as late as this one (R311). -/
def seenGseal (s : State) (bs : List Byte) : Bool :=
  match s.kol.gseen with | some g => decide (fld bs 0 4 ≤ g) | none => false

theorem takeGseal_eq (s : State) (bs : List Byte) : takeGseal s bs =
    if seenGseal s bs then s
    else if !canAssign s then noteFull s
    else
      let s1 := assignRec s { kind := 5, nent := 1 } bs
      noteFull { s1 with kol := { s1.kol with
        gseen := some (fld bs 0 4), gprev := (if keepsChain s then some (sha384 bs) else s1.kol.gprev) } } := rfl

/-- R295, R311, R312: a later global seal is journalled, and lead and deputy keep the chain. -/
theorem takeGseal_new {s : State} {bs : List Byte} (hnew : seenGseal s bs = false) (hcan : canAssign s = true) :
    (takeGseal s bs).jnl.next = s.jnl.next + 1 ∧ (takeGseal s bs).kol.gseen = some (fld bs 0 4) ∧
      (keepsChain s = true → (takeGseal s bs).kol.gprev = some (sha384 bs)) := by
  rw [takeGseal_eq, hnew, if_neg (by decide), hcan, if_neg (by decide)]
  dsimp only
  rw [jnl_noteFull, kol_noteFull]
  exact ⟨rfl, rfl, fun hkeep => if_pos hkeep⟩

theorem takeGseal_seen {s : State} {bs : List Byte} (hseen : seenGseal s bs = true) : takeGseal s bs = s := by
  rw [takeGseal_eq, if_pos hseen]

section
variable {s : State} {h : KHdr} (hin : Arrives s h)
include hin

theorem exec_gseal_of_arrives (bs : List Byte) :
    exec (.gseal h bs) s = .next (takeGseal (linkReceive s h) (sliceOf bs 0 512)) := by
  rw [exec_gseal, execGseal, onMessage_of_arrives hin]

theorem gseal_new {bs : List Byte} (hnew : ∀ g, (linkReceive s h).kol.gseen = some g → g < fld bs 0 4)
    (hlen : 4 ≤ bs.length) (hcan : canAssign (linkReceive s h) = true) :
    ∃ t, exec (.gseal h bs) s = .next t ∧ t.jnl.next = (linkReceive s h).jnl.next + 1 ∧
      t.kol.gseen = some (fld bs 0 4) ∧
      (keepsChain (linkReceive s h) = true → t.kol.gprev = some (sha384 (sliceOf bs 0 512))) := by
  have hfld : fld (sliceOf bs 0 512) 0 4 = fld bs 0 4 := fld_sliceOf_zero (by decide) hlen
  have hunseen : seenGseal (linkReceive s h) (sliceOf bs 0 512) = false := by
    unfold seenGseal
    rw [hfld]
    cases hg : (linkReceive s h).kol.gseen with
    | none => rfl
    | some g => exact decide_eq_false (Nat.not_le.2 (hnew g hg))
  obtain ⟨hnext, hseen, hprev⟩ := takeGseal_new hunseen hcan
  rw [hfld] at hseen
  exact ⟨_, exec_gseal_of_arrives hin bs, hnext, hseen, hprev⟩

theorem gseal_seen {bs : List Byte} {g : Nat} (hg : (linkReceive s h).kol.gseen = some g) (hle : fld bs 0 4 ≤ g)
    (hlen : 4 ≤ bs.length) : exec (.gseal h bs) s = .next (linkReceive s h) := by
  have hfld : fld (sliceOf bs 0 512) 0 4 = fld bs 0 4 := fld_sliceOf_zero (by decide) hlen
  have hseen : seenGseal (linkReceive s h) (sliceOf bs 0 512) = true := by
    unfold seenGseal
    rw [hg, hfld]
    exact decide_eq_true hle
  rw [exec_gseal_of_arrives hin, takeGseal_seen hseen]

theorem exec_sealMessage_waiting {gepoch : Nat} (bs : List Byte)
    (hlead : (linkReceive s h).getF Fld.KOL_STATUS_ACTING_LEAD = 1)
    (hwait : ((linkReceive s h).kol.gwaits.any fun w => w.gepoch == gepoch && !w.formed) = true) :
    exec (.sealMessage h gepoch bs) s = .next { linkReceive s h with kol := { (linkReceive s h).kol with
      seals := (linkReceive s h).kol.seals ++ [(h.src, gepoch, sha384 (sliceOf bs 0 336))] } } := by
  rw [exec_sealMessage, execSealMessage, onMessage_of_arrives hin]
  dsimp only
  rw [if_pos ⟨hlead, .inr hwait⟩]

end

/-! ## A mirrored group (R330) -/

/-- The group of a mirror message that brings it whole. -/
def wholeGroup (h : KHdr) (first : Nat) (bs : List Byte) : MirrorRx :=
  { src := h.src, first := first, got := 0, held := [(0, bs)], len := some bs.length }

/-- Data at the place where the group continues is appended. -/
theorem mirrorDrain_whole {s w : State} {h : KHdr} {first : Nat} {bs : List Byte}
    (hw : islandWrite s .kol (s.getF (Fld.MPU_APTR_APTR (s.getF Fld.KOL_MRX_RGN))) bs = (true, w)) :
    mirrorDrain 2 s (wholeGroup h first bs) =
      (some { wholeGroup h first bs with got := bs.length, held := [] }, w) := by
  simp [mirrorDrain, wholeGroup, hw]

theorem exec_mirror_whole {s : State} {h : KHdr} (hin : Arrives s h) {first : Nat} {bs : List Byte}
    (hnew : ((linkReceive s h).kol.mrx.any fun m => m.src == h.src && m.first == first) = false)
    {w : State} (hw : islandWrite (linkReceive s h) .kol
      ((linkReceive s h).getF (Fld.MPU_APTR_APTR ((linkReceive s h).getF Fld.KOL_MRX_RGN))) bs = (true, w))
    (hlast : h.last = true) :
    exec (.mirror h first 0 bs) s =
      .next (kolSend { w with kol := { w.kol with
          mrx := (linkReceive s h).kol.mrx.filter fun m => !(m.src == h.src && m.first == first) } }
        { type := 0x23, dest := h.src, an := h.an, deadline := h.deadline, tag := h.tag,
          body := leBytes 8 first ++ leBytes 4 bs.length ++ zeros 4 }) := by
  have hnone : ((linkReceive s h).kol.mrx.find? fun m => m.src == h.src && m.first == first) = none := by
    rw [List.find?_eq_none]
    intro m hm hsame
    exact absurd (List.any_eq_true.2 ⟨m, hm, hsame⟩) (by rw [hnew]; decide)
  have hdrain := mirrorDrain_whole (h := h) (first := first) hw
  rw [exec_mirror, execMirror, onMessage_of_arrives hin]
  dsimp only
  rw [hnone, hlast]
  simp only [List.filter_nil, List.length_cons, List.length_nil, Nat.zero_add, if_true]
  unfold wholeGroup at hdrain
  rw [hdrain]
  dsimp only
  rw [if_pos rfl]

/-! ## The obligation -/

/-- Settles O39: each command of epochs, seals and exported entries by its own lemma above. -/
theorem journalEpochs : Obligations.JournalEpochs := by
  unfold Obligations.JournalEpochs
  intro s e
  refine ⟨fun seam tk hnext hdue => ⟨fun hrun hcan => ⟨exec_epochSeam_running hnext hdue hrun hcan, seam_closes s seam tk⟩, ?_⟩,
    exec_epochClose_complete, exec_stragglerTimeout_of_late, fun hseal => ⟨?_, exec_sealRetry_due hseal, fun j hjob =>
      ⟨sealComplete_failed hseal hjob, fun bs => sealComplete_signed hseal hjob⟩⟩,
    fun _ _ _ _ => exec_exportPost_queued, fun _ _ _ _ => exec_exportPost_sealed,
    fun w rest hw hlead hnone hdue => ⟨exec_gsealWaitExpiry_forms hw hlead hnone hdue, formGseal_appends s w⟩,
    exec_gsealWaitExpiry_notLead, fun h bs hin => ⟨gseal_new hin, fun g => gseal_seen hin, ?_, ?_⟩⟩
  · intro hrun t htk
    subst htk
    exact exec_epochSeam_unreleased hnext hdue hrun
  · intro hretry hnone
    rw [signNext_of_turn hseal hretry hnone]
    exact issueSign_appends s _ _ _
  · exact fun gepoch hlead hwait => exec_sealMessage_waiting hin bs hlead hwait
  · intro first hnew hok hlast _
    exact exec_mirror_whole hin hnew (Prod.ext hok rfl) hlast

end Sys2Proof.Proofs

namespace Sys2Proof.Proofs

open Sys2Proof Sys2Proof.Machine Sys2Proof.Laws

/-! # Submissions, completions, exception entries and interrupts (O43: R338, R343 to R348, R351, R352, R355)

## A slot entry (R338, R339) -/

/-- A write of an island leaves of HIF all but the interrupts that it raises. -/
theorem hif_islandWrite (s : State) (i : Initiator) (pa : Nat) (bs : List Byte) :
    ∃ m, (islandWrite s i pa bs).2.hif = { s.hif with msix := m } := by
  have hset : ∀ u : State, Quiet ((mpuSettled s).wr pa bs) u ∨ Quiet (mpuSettled s) u → ∃ m, u.hif = { s.hif with msix := m } := by
    intro u hu
    have hmid : u.hif = { (mpuSettled s).hif with msix := u.hif.msix } := hu.elim Quiet.hif Quiet.hif
    have hsettled := (quiet_mpuSettled s).hif
    exact ⟨u.hif.msix, by rw [hmid, hsettled]⟩
  cases hw : islandWrite s i pa bs with
  | mk ok s1 =>
    cases ok with
    | true =>
      obtain ⟨hs, -⟩ := islandWrite_true hw
      exact hset s1 (.inl (hs ▸ quiet_appendAdvance _ _ _ _))
    | false =>
      obtain ⟨hs, -⟩ | ⟨p, hs⟩ := islandWrite_false hw
      · exact hset s1 (.inr (hs ▸ Quiet.refl _))
      · exact hset s1 (.inr (hs ▸ quiet_refuseAccess _ _ _ _))

theorem rings_islandWrite (s : State) (i : Initiator) (pa : Nat) (bs : List Byte) :
    (islandWrite s i pa bs).2.hif.rings = s.hif.rings := by
  obtain ⟨m, hm⟩ := hif_islandWrite s i pa bs
  rw [hm]

theorem ring_islandWrite (s : State) (i : Initiator) (pa : Nat) (bs : List Byte) (r : RingId) :
    (islandWrite s i pa bs).2.ring r = s.ring r := ring_congr (rings_islandWrite s i pa bs) r

theorem ring_of_islandWrite {s s1 : State} {i : Initiator} {pa : Nat} {bs : List Byte} {ok : Bool}
    (hw : islandWrite s i pa bs = (ok, s1)) (r : RingId) : s1.ring r = s.ring r := by
  rw [← ring_islandWrite s i pa bs r, hw]

theorem ring_stopRing_self (s : State) (r : RingId) (err : Nat) :
    (stopRing s r err).ring r = { s.ring r with reading := false, seen := [] } := by
  rw [stopRing_eq, ring_modRing_self, ring_of_quiet (quiet_ringHalted s r err)]

theorem ring_showIndex (s : State) (r q : RingId) : (showIndex s r).ring q = s.ring q := ring_setF ..

/-- The status word shows the indices and does not move them (R339). -/
theorem indices_writeStatusIdx (s : State) (r : RingId) : ((writeStatusIdx s r).ring r).prod = (s.ring r).prod ∧
    ((writeStatusIdx s r).ring r).cons = (s.ring r).cons := by
  unfold writeStatusIdx
  dsimp only
  generalize (if hostProduced r then (s.ring r).cons else (s.ring r).prod) = v
  split
  · rw [ring_showIndex, ring_islandWrite]
    exact ⟨rfl, rfl⟩
  · rw [ring_showIndex, ring_stopRing_self, ring_islandWrite]
    exact ⟨rfl, rfl⟩

theorem admin_stopRing (s : State) (r : RingId) (err : Nat) : (stopRing s r err).hif.admin = s.hif.admin := by
  rw [stopRing_eq]
  have h := (quiet_ringHalted s r err).hif
  show (ringHalted s r err).hif.admin = s.hif.admin
  rw [h]

theorem admin_showIndex (s : State) (r : RingId) : (showIndex s r).hif.admin = s.hif.admin := by
  have h : Quiet s (showIndex s r) := (Quiet.refl s).setF _ _
  rw [h.hif]

theorem admin_writeStatusIdx (s : State) (r : RingId) : (writeStatusIdx s r).hif.admin = s.hif.admin := by
  unfold writeStatusIdx
  dsimp only
  generalize (if hostProduced r then (s.ring r).cons else (s.ring r).prod) = v
  obtain ⟨m, hm⟩ := hif_islandWrite s (ringClass r) (statusPa s r) (leBytes (ringIdxBytes r) v)
  split
  · rw [admin_showIndex, hm]
  · rw [admin_showIndex, admin_stopRing, hm]

theorem ring_msix (s : State) (v : Nat) (r : RingId) : (s.msix v).ring r = s.ring r :=
  ring_of_quiet ((Quiet.refl s).msix v) r

theorem prod_signalRing (s : State) (r : RingId) : ((signalRing s r).ring r).prod = (s.ring r).prod := by
  unfold signalRing
  rw [ring_msix, ring_modRing_self]

theorem prod_notePosted (s : State) (r : RingId) : ((notePosted s r).ring r).prod = (s.ring r).prod := by
  unfold notePosted
  dsimp only
  split
  · rw [prod_signalRing, ring_modRing_self]
  · rw [ring_modRing_self]

theorem ringRoom_slot {s : State} {r : RingId} (hslot : ringBytes r = false) (n : Nat) :
    ringRoom s r n = decide (ringUsed s r + 1 ≤ ringSize s r) := by
  unfold ringRoom
  rw [hslot]
  rfl

/-- The phase of an entry is the wrap bit of its index (R338). -/
theorem phase_eq (i k : Nat) : b2n (!bitAt i k) = if i / 2 ^ k % 2 = 1 then 0 else 1 := by
  unfold bitAt
  rw [Nat.testBit_eq_decide_div_mod_eq]
  by_cases h : i / 2 ^ k % 2 = 1
  · rw [if_pos h, decide_eq_true h]
    rfl
  · rw [if_neg h, decide_eq_false h]
    rfl

/-- A one-byte field is its byte. -/
theorem fld_one (bs : List Byte) (i : Nat) : fld bs i 1 = (bs.getD i 0).toNat := by
  unfold fld sliceOf
  rw [List.getD_eq_getElem?_getD, ← List.head?_drop]
  cases bs.drop i <;> simp [leNat, zeros]

/-- The state once an entry of a slot ring is written. -/
def slotPosted (s1 : State) (r : RingId) : State :=
  notePosted (writeStatusIdx (s1.modRing r fun x => { x with prod := (x.prod + 1) % ringMod r }) r) r

section
variable {s s1 : State} {r : RingId} {bs : List Byte} (hslot : ringBytes r = false) (hruns : ringRuns s r = true)
  (hroom : ringUsed s r + 1 ≤ ringSize s r)
include hslot hruns hroom

/-- R338: the entry is written whole, with its phase, and the index that covers it moves. -/
theorem postSlot_written
    (hw : islandWrite s (ringClass r) (slotPa s r (s.ring r).prod)
      (patch (sliceOf bs 0 64) 1 [BitVec.ofNat 8 ((bs.getD 1 0).toNat / 2 * 2 +
        (if ((s.ring r).prod / ringSize s r) % 2 = 1 then 0 else 1))]) = (true, s1)) :
    ∃ t, postSlot s r bs = .done t (s.ring r).prod ∧ (t.ring r).prod = ((s.ring r).prod + 1) % 2 ^ 32 := by
  have hring : s1.ring r = s.ring r := ring_of_islandWrite hw r
  have hmod : ringMod r = 2 ^ 32 := by unfold ringMod; rw [hslot]; rfl
  rw [ringSize, ← phase_eq, ← fld_one] at hw
  refine ⟨slotPosted s1 r, ?_, ?_⟩
  · unfold postSlot byte
    rw [hruns, ringRoom_slot hslot, decide_eq_true hroom]
    dsimp only
    rw [hw]
    rfl
  · rw [slotPosted, prod_notePosted, (indices_writeStatusIdx _ r).1, ring_modRing_self, hring, hmod]

end

/-! ## Submission (R343) -/

section
variable {s : State} {n : Fin 16} {tin : Nat} {bs : List Byte}

/-- The ring once HIF has taken note of the observed doorbell. -/
def seenTaken (s : State) (r : RingId) : State := s.modRing r fun x => { x with seen := [] }

/-- The ring while the descriptor at index `i` is in flight. -/
def inFlight (s : State) (r : RingId) (i : Nat) : State :=
  (seenTaken s r).modRing r fun y => { y with flight := [(i, false)], fetched := (i + 1) % 2 ^ 32 }

theorem modRing_congr {s : State} {r : RingId} {f g : Ring → Ring} (h : f (s.ring r) = g (s.ring r)) :
    s.modRing r f = s.modRing r g := by
  unfold State.ring at h
  unfold State.modRing
  rw [h]

theorem ringMod_SQ (n : Fin 16) : ringMod (ringSQ n) = 2 ^ 32 := by
  have h : ringBytes (ringSQ n) = false := by
    unfold ringBytes ringSQ
    simp only [Bool.and_eq_false_iff, decide_eq_false_iff_not]
    omega
  unfold ringMod
  rw [h]
  rfl

/-- One index further on is a distance of one. -/
theorem ringDist_succ (i : Nat) : ringDist (ringSQ n) i ((i + 1) % 2 ^ 32) = 1 := by
  unfold ringDist
  rw [ringMod_SQ]
  omega

theorem ringDist_self (i : Nat) : ringDist (ringSQ n) i i = 0 := by
  unfold ringDist
  rw [ringMod_SQ]
  omega

/-- HIF copies the message of a good descriptor in (R343). -/
def copyMessage (n : Fin 16) (tin i : Nat) (s3 : State) (d : SubDesc) : State :=
  match hifRead s3 (hostPa d.addr) d.len with
  | (none, s4) => queueCpl s4 (badDesc n i d)
  | (some m, s4) =>
    let msg : HMsg := { sq := n, idx := some i, tin := tin, dialect := d.dialect, note := bitAt d.flags 0,
                        tag := d.tag, rspAddr := d.rspAddr, rspCap := d.rspCap, bytes := m }
    { s4 with hif := { s4.hif with msgs := s4.hif.msgs ++ [msg] } }

/-- What HIF makes of a descriptor that it has read (R343). -/
def takeDesc (n : Fin 16) (tin i : Nat) (s2 : State) (d : SubDesc) : State :=
  if d.op ≠ 1 ∨ d.reserved ≠ 0 ∨ d.len = 0 ∨ 65536 < d.len then queueCpl s2 (badDesc n i d)
  else match dialectEntry s2 d.dialect with
    | (0, s3) => queueCpl s3 (badDesc n i d)
    | (_, s3) => copyMessage n tin i s3 d

theorem fetchDesc_of_read {s s1 : State} {i : Nat} (hruns : ringRuns s (ringSQ n) = true)
    (hread : islandRead s .hif (slotPa s (ringSQ n) i) 64 = (some bs, s1)) :
    fetchDesc n tin s i = takeDesc n tin i (s1.modRing (ringSQ n) fun x =>
      { x with flight := x.flight ++ [(i, false)], fetched := (i + 1) % ringMod (ringSQ n) }) (readSubDesc bs) := by
  unfold fetchDesc takeDesc
  dsimp only
  rw [hruns, hread]
  rfl

/-- R343: one observed doorbell write covers the descriptor at the consumer index. -/
theorem submissionFetch_one {x : Ring} (hruns : ringRuns s (ringSQ n) = true) (hx : s.ring (ringSQ n) = x)
    (hseen : x.seen = [((x.cons + 1) % 2 ^ 32, tin)]) (hcons : x.cons < 2 ^ 32) (hfetched : x.fetched = x.cons)
    (hflight : x.flight = [])
    (hread : islandRead (seenTaken s (ringSQ n)) .hif (slotPa s (ringSQ n) x.cons) 64 = (some bs, seenTaken s (ringSQ n))) :
    exec (.submissionFetch n) s = .next (takeDesc n tin x.cons (inFlight s (ringSQ n) x.cons) (readSubDesc bs)) := by
  have hring : (seenTaken s (ringSQ n)).ring (ringSQ n) = { x with seen := [] } := by
    rw [seenTaken, ring_modRing_self, hx]
  have hfetch : fetchDesc n tin (seenTaken s (ringSQ n)) x.cons =
      takeDesc n tin x.cons (inFlight s (ringSQ n) x.cons) (readSubDesc bs) := by
    rw [fetchDesc_of_read (s := seenTaken s (ringSQ n)) hruns hread, ringMod_SQ, inFlight]
    have hmod : (seenTaken s (ringSQ n)).modRing (ringSQ n) (fun y =>
          { y with flight := y.flight ++ [(x.cons, false)], fetched := (x.cons + 1) % 2 ^ 32 }) =
        (seenTaken s (ringSQ n)).modRing (ringSQ n) fun y =>
          { y with flight := [(x.cons, false)], fetched := (x.cons + 1) % 2 ^ 32 } := by
      refine modRing_congr ?_
      rw [hring]
      dsimp only
      rw [hflight, List.nil_append]
    rw [hmod]
  have hbatch : fetchBatch n (seenTaken s (ringSQ n)) ((x.cons + 1) % 2 ^ 32, tin) =
      fetchDesc n tin (seenTaken s (ringSQ n)) x.cons := by
    unfold fetchBatch
    dsimp only
    rw [hring, hfetched, ringDist_succ, ringDist_self, ringMod_SQ, Nat.sub_zero, List.range_one, List.foldl_cons,
      List.foldl_nil, Nat.add_zero, Nat.mod_eq_of_lt hcons]
  rw [exec_submissionFetch, execSubmissionFetch]
  rw [if_pos hruns, hx, hseen, List.foldl_cons, List.foldl_nil]
  exact congrArg _ (hbatch.trans hfetch)

section
variable {s2 : State} {d : SubDesc} {i : Nat}

theorem takeDesc_bad (hbad : d.op ≠ 1 ∨ d.reserved ≠ 0 ∨ d.len = 0 ∨ 65536 < d.len) :
    takeDesc n tin i s2 d = queueCpl s2 (badDesc n i d) := if_pos hbad

variable (hop : d.op = 1) (hres : d.reserved = 0) (hmin : 1 ≤ d.len) (hmax : d.len ≤ 65536)
include hop hres hmin hmax

theorem takeDesc_good {e : Nat} {s3 : State} (hentry : dialectEntry s2 d.dialect = (e, s3)) :
    takeDesc n tin i s2 d = if e = 0 then queueCpl s3 (badDesc n i d) else copyMessage n tin i s3 d := by
  unfold takeDesc
  rw [if_neg (by omega), hentry]
  cases e <;> rfl

theorem takeDesc_refused {e : Nat} {s3 s4 : State} (he : e ≠ 0) (hentry : dialectEntry s2 d.dialect = (e, s3))
    (hread : hifRead s3 (hostPa d.addr) d.len = (none, s4)) : takeDesc n tin i s2 d = queueCpl s4 (badDesc n i d) := by
  rw [takeDesc_good hop hres hmin hmax hentry, if_neg he, copyMessage, hread]

theorem takeDesc_message {e : Nat} {s3 s4 : State} {m : List Byte} (he : e ≠ 0)
    (hentry : dialectEntry s2 d.dialect = (e, s3)) (hread : hifRead s3 (hostPa d.addr) d.len = (some m, s4)) :
    takeDesc n tin i s2 d = { s4 with hif := { s4.hif with
      msgs := s4.hif.msgs ++ [{ sq := n, idx := some i, tin := tin, dialect := d.dialect, note := bitAt d.flags 0,
                                tag := d.tag, rspAddr := d.rspAddr, rspCap := d.rspCap, bytes := m }] } } := by
  rw [takeDesc_good hop hres hmin hmax hentry, if_neg he, copyMessage, hread]

end

end

/-! ## Completions (R344 to R347, R351) -/

theorem length_cplBytes (c : Cpl) (now off : Nat) : (cplBytes c now off).length = 64 := by
  simp [cplBytes, leBytes_length, bytesOf, zeros]

theorem ringBytes_CQ {r : RingId} (hr : 24 ≤ r.val) : ringBytes r = false := by
  unfold ringBytes
  simp only [Bool.and_eq_false_iff, decide_eq_false_iff_not]
  omega

/-- The response of a completion goes to RSP_ADDR. -/
theorem not_viaGone {c : Cpl} (hmoved : c.moved = false) (hconn : c.conn = none) : ¬(c.moved || c.conn.isSome) = true := by
  rw [hmoved, hconn]
  decide

section
variable {s : State} {r : RingId} {c : Cpl} (hr : 24 ≤ r.val) (hnext : nextCpl s (r.val - 24) = some c)
include hr hnext

theorem exec_completionPost_next : exec (.completionPost r) s = .next (postCpl s r c) := by
  have hne : r ≠ ringACQ := fun h => by rw [h] at hr; exact absurd hr (by decide)
  rw [exec_completionPost, execCompletionPost, if_neg hne, if_pos hr, hnext]

variable (hruns : ringRuns s r = true)
include hruns

theorem completionPost_full (hfull : ringSize s r < ringUsed s r + 1) :
    exec (.completionPost r) s = .next (noteWait s r) := by
  rw [exec_completionPost_next hr hnext, postCpl, hruns, ringRoom_slot (ringBytes_CQ hr), decide_eq_false (by omega)]
  rfl

variable (hroom : ringUsed s r + 1 ≤ ringSize s r)
include hroom

theorem completionPost_room : exec (.completionPost r) s = .next
    (if c.moved || c.conn.isSome then postViaGone s r c
      else if c.rsp.length = 0 ∨ c.cap = 0 then postCplEntry s r c 0 else postDirect s r c) := by
  rw [exec_completionPost_next hr hnext, postCpl, hruns, ringRoom_slot (ringBytes_CQ hr), decide_eq_true hroom]
  rfl

theorem completionPost_gone {s1 s2 : State} {off i : Nat} (hgone : c.moved = true ∨ c.conn.isSome = true)
    (hbytes : postBytes s ringGONE c.rsp = .done s1 off) (hslot : postSlot s1 r (cplBytes c s1.now off) = .done s2 i) :
    exec (.completionPost r) s = .next (cplPosted (putCpl s2 c []) c) := by
  rw [completionPost_room hr hnext hruns hroom, if_pos (by rw [Bool.or_eq_true]; exact hgone), postViaGone, hbytes]
  dsimp only
  rw [postCplEntry, hslot]

variable (hmoved : c.moved = false) (hconn : c.conn = none)
include hmoved hconn

theorem completionPost_bare {s2 : State} {i : Nat} (hnone : c.rsp = [] ∨ c.cap = 0)
    (hslot : postSlot s r (cplBytes c s.now 0) = .done s2 i) :
    exec (.completionPost r) s = .next (cplPosted (putCpl s2 c []) c) := by
  rw [completionPost_room hr hnext hruns hroom, if_neg (not_viaGone hmoved hconn),
    if_pos (by rw [List.length_eq_zero_iff]; exact hnone), postCplEntry, hslot]

variable (hrsp : c.rsp ≠ []) (hcap : c.cap ≠ 0)
include hrsp hcap

theorem completionPost_direct : exec (.completionPost r) s = .next (postDirect s r c) := by
  rw [completionPost_room hr hnext hruns hroom, if_neg (not_viaGone hmoved hconn),
    if_neg (by rw [List.length_eq_zero_iff]; exact not_or.2 ⟨hrsp, hcap⟩)]

theorem completionPost_written {s1 s2 : State} {i : Nat}
    (hw : hifWrite s (hostPa c.addr) (c.rsp.take c.cap) = (true, s1))
    (hslot : postSlot s1 r (cplBytes c s1.now 0) = .done s2 i) :
    exec (.completionPost r) s = .next (cplPosted (putCpl s2 c []) c) := by
  rw [completionPost_direct hr hnext hruns hroom hmoved hconn hrsp hcap, postDirect, hw]
  dsimp only
  rw [postCplEntry, hslot]

theorem completionPost_movedOut {s1 s2 s3 : State} {off i : Nat}
    (hw : hifWrite s (hostPa c.addr) (c.rsp.take c.cap) = (false, s1))
    (hbytes : postBytes (putCpl (if s.hif.failing = true then s1 else hostError s1 (hostPa c.addr)) c
      [{ c with moved := true }]) ringGONE c.rsp = .done s2 off)
    (hslot : postSlot s2 r (cplBytes { c with moved := true } s2.now off) = .done s3 i) :
    exec (.completionPost r) s =
      .next (cplPosted (putCpl s3 { c with moved := true } []) { c with moved := true }) := by
  rw [completionPost_direct hr hnext hruns hroom hmoved hconn hrsp hcap, postDirect, hw]
  dsimp only
  rw [postViaGone]
  dsimp only
  rw [hbytes]
  dsimp only
  rw [postCplEntry, hslot]

end

/-- With empty lanes nothing of the admin commands moves on. -/
theorem laneStep_empty {s : State} (h : s.hif.admin = []) (q : Bool) (k : Nat) : laneStep q k s = s := by
  have hhead : laneHead s q = none := by unfold laneHead; rw [h]; rfl
  cases k with
  | zero => rfl
  | succ k => rw [laneStep, hhead]

theorem admProgress_empty {s : State} (h : s.hif.admin = []) : admProgress s = s := by
  unfold admProgress
  dsimp only
  rw [laneStep_empty h, laneStep_empty h]

theorem completionPost_admin {s s1 : State} {a : ACpl} {t : List ACpl} {i : Nat} (hlanes : s.hif.admin = [])
    (hq : s.hif.acpls = a :: t) (hslot : postSlot s ringACQ (acplBytes a s.now) = .done s1 i) :
    exec (.completionPost ringACQ) s = .next { s1 with hif := { s1.hif with acpls := t } } := by
  rw [exec_completionPost, execCompletionPost, if_pos rfl, admProgress_empty hlanes]
  dsimp only
  rw [hq]
  dsimp only
  rw [hslot]

/-! ## Exception entries (R348) -/

theorem frameLost_iff {s : State} {e : Exc} : frameLost s e = true ↔
    e.kind = 1 ∧ (ringRuns s ringEXC = false ∨ ringRoom s ringEXC e.bytes.length = false) := by
  simp [frameLost]

theorem dropFrames_none {s : State} (h : s.hif.excs.countP (frameLost s) = 0) : dropFrames s = s := if_pos h

theorem dropFrames_some {s : State} (h : s.hif.excs.countP (frameLost s) ≠ 0) :
    (dropFrames s).reg Off.HIF_EXCDROP_CNT =
      (s.reg Off.HIF_EXCDROP_CNT + s.hif.excs.countP (frameLost s)) % 2 ^ 64 := by
  unfold dropFrames
  dsimp only
  rw [if_neg h]
  exact (reg_bump s Off.HIF_EXCDROP_CNT Off.HIF_EXCDROP_CNT _).trans (if_pos rfl)

/-- Every frame for which there is no room is dropped, and no other entry. -/
theorem excs_dropFrames (s : State) : (dropFrames s).hif.excs = s.hif.excs.filter fun e => !frameLost s e := by
  by_cases h : s.hif.excs.countP (frameLost s) = 0
  · rw [dropFrames_none h, eq_comm, List.filter_eq_self]
    intro e he
    rw [Bool.not_eq_true']
    exact Bool.eq_false_iff.2 (List.countP_eq_zero.1 h e he)
  · unfold dropFrames
    dsimp only
    rw [if_neg h]

theorem mem_dropFrames (s : State) : (dropFrames s).mem = s.mem := by
  unfold dropFrames
  dsimp only
  split <;> rfl

theorem exec_excPost_empty {s : State} (h : (dropFrames s).hif.excs = []) : exec (.excPost) s = .next (dropFrames s) := by
  rw [exec_excPost, execExcPost]
  dsimp only
  rw [h]

section
variable {s : State} {e : Exc} {rest : List Exc} (h : (dropFrames s).hif.excs = e :: rest)
include h

theorem exec_excPost_posted {s1 : State} {i : Nat} (hpost : postBytes (dropFrames s) ringEXC e.bytes = .done s1 i) :
    exec (.excPost) s = .next { s1 with hif := { s1.hif with excs := rest } } := by
  rw [exec_excPost, execExcPost]
  dsimp only
  rw [h]
  dsimp only
  rw [hpost]

theorem exec_excPost_waits (hruns : ringRuns (dropFrames s) ringEXC = true)
    (hroom : ringRoom (dropFrames s) ringEXC e.bytes.length = false) :
    exec (.excPost) s = .next (noteWait (dropFrames s) ringEXC) := by
  rw [exec_excPost, execExcPost]
  dsimp only
  rw [h]
  dsimp only
  rw [postBytes, hruns, hroom]
  rfl

end

/-! ## Interrupts and waits (R352, R355) -/

section
variable (s : State) (r : RingId)

theorem exec_ringIrqTimer_due {s : State} {r : RingId} (hunsig : 0 < (s.ring r).unsig)
    (hdue : (s.ring r).unsigAt + 1000 * s.getF (Fld.HIF_RING_CFG_IRQ_US r.val) ≤ s.now) :
    exec (.ringIrqTimer r) s = .next (signalRing s r) := by
  rw [exec_ringIrqTimer, execRingIrqTimer, if_pos ⟨hunsig, hdue⟩]

theorem waitOver_iff (w : Nat × Bool) :
    waitOver s r w = true ↔ w.2 = false ∧ w.1 + s.getF (Fld.HIF_RING_CFG_DRAIN_NS r.val) < s.now := by
  simp [waitOver]

theorem waits_noteWait : ((noteWait s r).ring r).waits =
    (s.ring r).waits ++ List.replicate (queuedOn s r - (s.ring r).waits.length) (s.now, false) := by
  unfold noteWait
  rw [ring_modRing_self]

theorem waits_countWaits : ((countWaits s r).ring r).waits = (s.ring r).waits.map fun w => (w.1, w.2 || waitOver s r w) := by
  unfold countWaits
  rw [ring_modRing_self, ring_bump, ring_setF]

theorem waitOver_countWaits (w : Nat × Bool) : waitOver (countWaits s r) r w = waitOver s r w := by
  have hcfg : (countWaits s r).getF (Fld.HIF_RING_CFG_DRAIN_NS r.val) = s.getF (Fld.HIF_RING_CFG_DRAIN_NS r.val) := by
    unfold countWaits
    rw [getF_modRing, State.getF_bump_ne, State.getF_setF_ne]
    · show 0xD0108 + 32 * r.val ≠ 0xD0110 + 32 * r.val
      omega
    · show 0xD0108 + 32 * r.val ≠ 0x40
      omega
    · show 0xD0108 + 32 * r.val ≠ Off.HIF_WAIT_CNT
      rw [Off.HIF_WAIT_CNT]
      omega
  have hnow : (countWaits s r).now = s.now := by
    exact congrArg BitVec.toNat (State.devtime_setF s (Fld.HIF_RING_STATE_WAIT r.val) 1)
  unfold waitOver
  rw [hcfg, hnow]

/-- A wait that has been counted is not over its bound again (R352). -/
theorem counted_countWaits {v : Nat × Bool} (hv : waitOver (countWaits s r) r v = true) :
    v ∉ ((countWaits s r).ring r).waits := by
  rw [waitOver_countWaits] at hv
  obtain ⟨hnot, hover⟩ := (waitOver_iff s r v).1 hv
  rw [waits_countWaits, List.mem_map]
  rintro ⟨w, -, rfl⟩
  obtain ⟨hw2, hwover⟩ := Bool.or_eq_false_iff.1 hnot
  exact absurd ((waitOver_iff s r w).2 ⟨hw2, hover⟩) (by rw [hwover]; decide)

theorem wait_countWaits : (countWaits s r).getF (Fld.HIF_RING_STATE_WAIT r.val) = 1 := by
  unfold countWaits
  rw [getF_modRing, State.getF_bump_ne,
    State.getF_setF_self _ (Fld.HIF_RING_STATE_WAIT r.val) _ (ringState_ne_sysEvt r _ rfl) (Nat.le_of_ble_eq_true rfl)]
  · rfl
  · show 0xD0110 + 32 * r.val ≠ Off.HIF_WAIT_CNT
    rw [Off.HIF_WAIT_CNT]
    omega

theorem counter_countWaits : (countWaits s r).reg Off.HIF_WAIT_CNT =
    (s.reg Off.HIF_WAIT_CNT + (s.ring r).waits.countP (waitOver s r)) % 2 ^ 64 := by
  have hne : Off.HIF_WAIT_CNT ≠ 0xD0110 + 32 * r.val := by
    rw [Off.HIF_WAIT_CNT]
    omega
  unfold countWaits
  rw [reg_modRing, reg_bump, if_pos rfl, State.reg_setF_ne _ (Fld.HIF_RING_STATE_WAIT r.val) _ _ hne (by decide)]

theorem exec_drainTimeout_over {w : Nat × Bool} (hw : w ∈ (s.ring r).waits) (hover : waitOver s r w = true) :
    exec (.drainTimeout r) s = .next (countWaits s r) := by
  rw [exec_drainTimeout, execDrainTimeout, if_pos (List.any_eq_true.2 ⟨w, hw, hover⟩)]

theorem firsts_countWaits : ((countWaits s r).ring r).waits.map (·.1) = (s.ring r).waits.map (·.1) := by
  rw [waits_countWaits, List.map_map]
  rfl

theorem mem_countWaits : (countWaits s r).mem = s.mem := State.mem_setF ..

end

/-! ## The link (R333, R335, R450) -/

/-- No field of HIF_STATUS raises a system event. -/
theorem hif_setF_status {g : FieldRef} (hg : ∀ old new, eventOf g old new = none) (s : State) (v : Nat) :
    (s.setF g v).hif = s.hif := by
  rw [setF_of_eventOf_eq_none hg]
  rfl

/-- HIF_STATUS once the link is up. -/
def linkUpHost (s : State) (cxl : Bool) (speed width : Nat) : State :=
  (((s.setF Fld.HIF_STATUS_MODE (if cxl then 2 else 1)).setF Fld.HIF_STATUS_SPEED speed).setF
    Fld.HIF_STATUS_WIDTH width).setF Fld.HIF_STATUS_BME 1

theorem hif_linkUpHost (s : State) (cxl : Bool) (speed width : Nat) : (linkUpHost s cxl speed width).hif = s.hif := by
  unfold linkUpHost
  rw [hif_setF_status, hif_setF_status, hif_setF_status, hif_setF_status]
  all_goals
    intro old new
    unfold eventOf
    rfl

theorem mem_linkUpHost (s : State) (cxl : Bool) (speed width : Nat) : (linkUpHost s cxl speed width).mem = s.mem := by
  unfold linkUpHost
  simp only [State.mem_setF]

/-- What HIF_STATUS shows of a link that is up. -/
theorem getF_linkUpHost (s : State) (cxl : Bool) {speed width : Nat} (hspeed : speed < 8) (hwidth : width < 256) :
    (linkUpHost s cxl speed width).getF Fld.HIF_STATUS_MODE = (if cxl then 2 else 1) ∧
      (linkUpHost s cxl speed width).getF Fld.HIF_STATUS_SPEED = speed ∧
      (linkUpHost s cxl speed width).getF Fld.HIF_STATUS_WIDTH = width ∧
      (linkUpHost s cxl speed width).getF Fld.HIF_STATUS_BME = 1 := by
  have hbeside : ∀ (u : State) (f g : FieldRef) (v : Nat), f.off = 0xD0008 → g.off = 0xD0008 → g.lo + g.width ≤ 64 →
      (g.lo + g.width ≤ f.lo ∨ f.lo + f.width ≤ g.lo) → (u.setF f v).getF g = u.getF g := fun u f g v hf hg hw hd =>
    State.getF_setF_beside u f g v (by rw [hf]; decide) (hg.trans hf.symm) hw hd
  unfold linkUpHost
  refine ⟨?_, ?_, ?_, ?_⟩
  · rw [hbeside _ _ _ _ rfl rfl (by decide) (by decide), hbeside _ _ _ _ rfl rfl (by decide) (by decide),
      hbeside _ _ _ _ rfl rfl (by decide) (by decide), State.getF_setF_self _ _ _ (by decide) (by decide)]
    cases cxl <;> rfl
  · rw [hbeside _ _ _ _ rfl rfl (by decide) (by decide), hbeside _ _ _ _ rfl rfl (by decide) (by decide),
      State.getF_setF_self _ _ _ (by decide) (by decide)]
    exact Nat.mod_eq_of_lt hspeed
  · rw [hbeside _ _ _ _ rfl rfl (by decide) (by decide), State.getF_setF_self _ _ _ (by decide) (by decide)]
    exact Nat.mod_eq_of_lt hwidth
  · rw [State.getF_setF_self _ _ _ (by decide) (by decide)]
    rfl

theorem hifReady_iff (s : State) : hifReady s = true ↔ islandState s 40 = 2 ∧ RefClk.pcie ∉ s.pwr.clkLost := by
  simp [hifReady]

theorem linkTrains_iff (speed width : Nat) :
    linkTrains speed width = true ↔ speed ∈ [4, 5, 6] ∧ width ∈ [4, 8, 16] := by
  simp [linkTrains]

theorem exec_pcieLinkUp_trains {s : State} {cxl : Bool} {speed width : Nat} (hready : hifReady s = true)
    (htrains : linkTrains speed width = true) :
    exec (.pcieLinkUp cxl speed width) s = .next (linkUpHost s cxl speed width) := by
  rw [exec_pcieLinkUp, execPcieLinkUp, hready, htrains, if_neg (by decide), linkUpHost]

theorem exec_pcieLinkUp_not {s : State} {cxl : Bool} {speed width : Nat}
    (hnot : ¬(hifReady s = true ∧ linkTrains speed width = true)) : exec (.pcieLinkUp cxl speed width) s = .next s := by
  rw [exec_pcieLinkUp, execPcieLinkUp, if_pos]
  rw [Bool.not_eq_true', Bool.not_eq_true', ← Bool.not_eq_true, ← Bool.not_eq_true]
  exact not_and_or.1 hnot

theorem pcieLinkUp_up {s : State} {cxl : Bool} {speed width : Nat} (hspeed : speed ∈ [4, 5, 6]) (hwidth : width ∈ [4, 8, 16])
    (hon : islandState s 40 = 2) (hclk : RefClk.pcie ∉ s.pwr.clkLost) : ∃ t,
      exec (.pcieLinkUp cxl speed width) s = .next t ∧
      t.getF Fld.HIF_STATUS_MODE = (if cxl then 2 else 1) ∧ t.getF Fld.HIF_STATUS_SPEED = speed ∧
      t.getF Fld.HIF_STATUS_WIDTH = width ∧ t.getF Fld.HIF_STATUS_BME = 1 ∧ t.mem = s.mem ∧ t.hif = s.hif := by
  have hs : speed < 8 := by simp at hspeed; omega
  have hw : width < 256 := by simp at hwidth; omega
  obtain ⟨hmode, hsp, hwd, hbme⟩ := getF_linkUpHost s cxl hs hw
  exact ⟨_, exec_pcieLinkUp_trains ((hifReady_iff s).2 ⟨hon, hclk⟩) ((linkTrains_iff speed width).2 ⟨hspeed, hwidth⟩),
    hmode, hsp, hwd, hbme, mem_linkUpHost .., hif_linkUpHost ..⟩

theorem pcieLinkUp_down {s : State} {cxl : Bool} {speed width : Nat} (hnot : speed ∉ [4, 5, 6] ∨ width ∉ [4, 8, 16] ∨
    islandState s 40 ≠ 2 ∨ RefClk.pcie ∈ s.pwr.clkLost) : exec (.pcieLinkUp cxl speed width) s = .next s := by
  refine exec_pcieLinkUp_not ?_
  rw [hifReady_iff, linkTrains_iff]
  rintro ⟨⟨hon, hclk⟩, hs, hw⟩
  obtain h | h | h | h := hnot
  · exact h hs
  · exact h hw
  · exact h hon
  · exact hclk h

theorem reg_linkDownHost (s : State) : (linkDownHost s).reg Off.HIF_STATUS = 0 := by
  rw [linkDownHost, reg_setReg, if_pos rfl]
  rfl

/-- Host memory is unbacked while the link is down (R335). -/
theorem hostBacked_linkDownHost (s : State) : hostBacked (linkDownHost s) = false := by
  have hmode : (linkDownHost s).getF Fld.HIF_STATUS_MODE = 0 := by
    show bitsOf ((linkDownHost s).reg Off.HIF_STATUS) 0 2 = 0
    rw [reg_linkDownHost]
    rfl
  unfold hostBacked
  rw [hmode]
  simp

/-! ## The obligation -/

/-- Settles O43: the fetch of one descriptor, the post of one slot entry, the completions, the exception entries, the waits and the
link, each by its lemmas above. -/
theorem submissionsAndCompletions : Obligations.SubmissionsAndCompletions := by
  unfold Obligations.SubmissionsAndCompletions
  intro s n
  refine ⟨fun tin bs m => ?submission, fun r bs s1 hslot hruns hroom hw => postSlot_written hslot hruns hroom hw,
    fun r c hr hnext hruns hroom => ⟨length_cplBytes c _ _, fun hmoved hconn =>
      ⟨fun s1 s2 i hrsp hcap => completionPost_written hr hnext hruns hroom hmoved hconn hrsp hcap,
        fun s2 i => completionPost_bare hr hnext hruns hroom hmoved hconn,
        fun s1 s2 s3 off i hrsp hcap => completionPost_movedOut hr hnext hruns hroom hmoved hconn hrsp hcap⟩,
      fun s1 s2 off i => completionPost_gone hr hnext hruns hroom⟩,
    fun r c hr hnext hruns => completionPost_full hr hnext hruns, fun a t s1 i => completionPost_admin,
    ⟨fun e => frameLost_iff, excs_dropFrames s, mem_dropFrames s, dropFrames_some, dropFrames_none, exec_excPost_empty,
      fun e rest h => ⟨fun s1 i => exec_excPost_posted h, exec_excPost_waits h⟩⟩,
    fun r => ⟨exec_ringIrqTimer_due, waitOver_iff s r, waits_noteWait s r, fun w hw hover =>
      ⟨_, exec_drainTimeout_over s r hw hover, wait_countWaits s r, mem_countWaits s r, fun v => counted_countWaits s r,
        firsts_countWaits s r, counter_countWaits s r⟩⟩,
    fun cxl speed width => ⟨pcieLinkUp_up, pcieLinkUp_down⟩,
    ⟨linkDownHost s, rfl, rfl, reg_linkDownHost s, hostBacked_linkDownHost s, rfl, rfl⟩⟩
  case submission =>
    intro r s1 x d hruns hseen hcons hfetched hflight hread
    have hexec : exec (.submissionFetch n) s = .next (takeDesc n tin x.cons (inFlight s r x.cons) d) :=
      submissionFetch_one hruns rfl hseen hcons hfetched hflight hread
    rw [hexec]
    refine ⟨fun hop hres hmin hmax e s2 hentry => ⟨fun s3 he hmsg => ?_, fun he => ?_, fun s3 he hmsg => ?_⟩, fun hbad => ?_⟩
    · exact congrArg _ (takeDesc_message hop hres hmin hmax he hentry hmsg)
    · exact congrArg _ ((takeDesc_good hop hres hmin hmax hentry).trans (if_pos he))
    · exact congrArg _ (takeDesc_refused hop hres hmin hmax he hentry hmsg)
    · exact ⟨_, congrArg _ (takeDesc_bad hbad), rfl, rfl⟩

end Sys2Proof.Proofs

namespace Sys2Proof.Proofs

open Sys2Proof Sys2Proof.Machine Sys2Proof.Laws

/-! # The admin lanes (O44: R350, R366)

## The entry of a command -/

theorem leNat_leBytes (n x : Nat) : leNat (leBytes n x) = x % 256 ^ n := by
  induction n generalizing x with
  | zero => rw [leBytes, leNat, Nat.pow_zero, Nat.mod_one]
  | succ n ih =>
    have hpow : 256 ^ (n + 1) = 256 * 256 ^ n := Nat.pow_succ'
    rw [leBytes, leNat, ih, BitVec.toNat_ofNat, hpow, Nat.mod_mul]

/-- A number that was written as a field of a block is what the field reads. -/
theorem fld_of_append {bs : List Byte} {off n x : Nat} {pre post : List Byte} (hbs : bs = pre ++ (leBytes n x ++ post))
    (hoff : pre.length = off) (hx : x < 256 ^ n) : fld bs off n = x := by
  have hdrop : bs.drop off = leBytes n x ++ post := by rw [hbs, List.drop_left' hoff]
  have htake : (leBytes n x ++ post).take n = leBytes n x := List.take_left' (leBytes_length n x)
  unfold fld sliceOf
  dsimp only
  rw [hdrop, htake, leBytes_length, Nat.sub_self]
  show leNat (leBytes n x ++ []) = x
  rw [List.append_nil, leNat_leBytes, Nat.mod_eq_of_lt hx]

/-- The entry of a command reads back as the command (R350). -/
theorem readAdm_admEntry (opc : Nat) {a : AdminCmd} (ha : a.wf = true) : readAdm (admEntry opc a) = a := by
  simp only [AdminCmd.wf, Bool.and_eq_true, decide_eq_true_eq] at ha
  obtain ⟨⟨⟨⟨⟨hcid, haddr⟩, hlen⟩, hp0⟩, hp1⟩, hp2⟩ := ha
  obtain ⟨cid, addr, len, p0, p1, p2⟩ := a
  have hlead : (bytesOf [opc, 0, 0, 0]).length = 4 := rfl
  unfold readAdm
  rw [AdminCmd.mk.injEq]
  refine ⟨fld_of_append (pre := bytesOf [opc, 0, 0, 0])
      (post := leBytes 8 addr ++ leBytes 4 len ++ leBytes 4 p0 ++ leBytes 8 p1 ++ leBytes 8 p2 ++ zeros 24) ?_ rfl hcid,
    fld_of_append (pre := bytesOf [opc, 0, 0, 0] ++ leBytes 4 cid)
      (post := leBytes 4 len ++ leBytes 4 p0 ++ leBytes 8 p1 ++ leBytes 8 p2 ++ zeros 24) ?_ rfl haddr,
    fld_of_append (pre := bytesOf [opc, 0, 0, 0] ++ leBytes 4 cid ++ leBytes 8 addr)
      (post := leBytes 4 p0 ++ leBytes 8 p1 ++ leBytes 8 p2 ++ zeros 24) ?_ rfl hlen,
    fld_of_append (pre := bytesOf [opc, 0, 0, 0] ++ leBytes 4 cid ++ leBytes 8 addr ++ leBytes 4 len)
      (post := leBytes 8 p1 ++ leBytes 8 p2 ++ zeros 24) ?_ rfl hp0,
    fld_of_append (pre := bytesOf [opc, 0, 0, 0] ++ leBytes 4 cid ++ leBytes 8 addr ++ leBytes 4 len ++ leBytes 4 p0)
      (post := leBytes 8 p2 ++ zeros 24) ?_ rfl hp1,
    fld_of_append (pre := bytesOf [opc, 0, 0, 0] ++ leBytes 4 cid ++ leBytes 8 addr ++ leBytes 4 len ++ leBytes 4 p0 ++
      leBytes 8 p1) (post := zeros 24) ?_ rfl hp2⟩
  all_goals simp only [admEntry, List.append_assoc]

theorem opcode_admEntry {opc : Nat} (hopc : opc < 256) (a : AdminCmd) : fld (admEntry opc a) 0 1 = opc := by
  rw [fld_one]
  show (BitVec.ofNat 8 opc).toNat = opc
  rw [BitVec.toNat_ofNat]
  exact Nat.mod_eq_of_lt hopc

/-! ## The command that HIF takes -/

/-- What becomes of a command that has been taken (R350, R366). -/
def runTaken (opc : Nat) (a : AdminCmd) (s1 : State) : State :=
  if !admListed opc then admDone s1 a.cid .unknownOp 0
  else if (laneHead s1 (admQuick opc)).isNone then admRun s1 (admQuick opc) a.cid opc a
  else { s1 with hif := { s1.hif with
    admin := s1.hif.admin ++ [{ cid := a.cid, quick := admQuick opc, wait := .queued opc a }] } }

theorem ring_hostPuts (s : State) (r : RingId) (bs : List Byte) (q : RingId) : (hostPuts s r bs).ring q = s.ring q := rfl

theorem ringHasEntry_hostPuts (s : State) (r : RingId) (bs : List Byte) (q : RingId) :
    ringHasEntry (hostPuts s r bs) q = ringHasEntry s q := by
  unfold ringHasEntry ringUsed
  rw [ring_hostPuts]
  rfl

theorem admin_modRing (s : State) (r : RingId) (f : Ring → Ring) : (s.modRing r f).hif.admin = s.hif.admin := rfl

theorem admin_hostPuts (s : State) (r : RingId) (bs : List Byte) : (hostPuts s r bs).hif.admin = s.hif.admin := rfl

/-- What HIF does with the bytes of an entry that it has read. -/
theorem takeAdmin_read {s s1 : State} {op : Nat} {cmd : AdminCmd} {b : List Byte} (hidle : admProgress s = s)
    (hentry : ringHasEntry (hostPuts s ringAQ (admEntry op cmd)) ringAQ = true)
    (hread : islandRead (hostPuts s ringAQ (admEntry op cmd)) .hif (slotPa (hostPuts s ringAQ (admEntry op cmd)) ringAQ
      ((hostPuts s ringAQ (admEntry op cmd)).ring ringAQ).cons) 64 = (some b, s1)) :
    takeAdmin op cmd s = runTaken (fld b 0 1) (readAdm b) (takenAdmin (fld b 0 1) (takeEntry s1 ringAQ)) := by
  unfold takeAdmin
  dsimp only
  rw [hidle, hentry, hread]
  rfl

section
variable {s t : State} {opc : Nat} {a : AdminCmd} (htaken : AdminTaken s opc a t)
include htaken

theorem takeAdmin_of_taken (hopc : opc < 256) : takeAdmin opc a s = runTaken opc a (takenAdmin opc t) := by
  obtain ⟨hwf, hidle, hentry, hread, ht⟩ := htaken
  have hholds := (ringHasEntry_hostPuts s ringAQ (admEntry opc a) ringAQ).trans hentry
  have htake := takeAdmin_read hidle hholds hread
  rwa [opcode_admEntry hopc, readAdm_admEntry opc hwf, ← ht] at htake

/-- Taking a command moves the ring's index on by one, and no lane. -/
theorem taken_ring : (t.ring ringAQ).cons = ((s.ring ringAQ).cons + 1) % 2 ^ 32 ∧ t.hif.admin = s.hif.admin := by
  obtain ⟨-, -, -, -, ht⟩ := htaken
  subst ht
  refine ⟨?_, ?_⟩
  · rw [takeEntry, (indices_writeStatusIdx _ _).2, ring_modRing_self, ringMod, if_neg (by decide), ring_hostPuts]
  · rw [takeEntry, admin_writeStatusIdx, admin_modRing, admin_hostPuts]

end

section
variable {s1 : State} {opc : Nat} {a : AdminCmd} (hlisted : admListed opc = true)
include hlisted

theorem runTaken_first (hlane : laneHead s1 (admQuick opc) = none) :
    runTaken opc a s1 = admRun s1 (admQuick opc) a.cid opc a := by
  unfold runTaken
  rw [hlisted, hlane]
  rfl

theorem runTaken_behind {j : AdmJob} (hlane : laneHead s1 (admQuick opc) = some j) :
    runTaken opc a s1 = { s1 with hif := { s1.hif with
      admin := s1.hif.admin ++ [{ cid := a.cid, quick := admQuick opc, wait := .queued opc a }] } } := by
  unfold runTaken
  rw [hlisted, hlane]
  rfl

end

section
variable {s1 u : State} {opc cid : Nat} {quick : Bool} {a : AdminCmd}

theorem admRun_done {st : AdmStatus} {r0 : Nat} (hbody : admBody opc a s1 = (.done st r0, u)) :
    admRun s1 quick cid opc a = admDone u cid st r0 := by
  unfold admRun
  rw [hbody]

theorem admRun_waits {w : AdmWait} (hbody : admBody opc a s1 = (.wait w, u)) :
    admRun s1 quick cid opc a =
      { u with hif := { u.hif with admin := { cid := cid, quick := quick, wait := w } :: u.hif.admin } } := by
  unfold admRun
  rw [hbody]

/-- R366: what a command that stand-in service does not allow does. -/
theorem admBody_standin (hstandin : standinService s1 = true) (hopc : admStandin opc = false) :
    admBody opc a s1 = (.done .wrongState 0, s1) := by
  unfold admBody
  rw [if_pos ⟨hstandin, by rw [hopc]; rfl⟩]
  rfl

end

/-! ## The table -/

/-- The commands of the table with their opcodes and their lanes (R350). -/
noncomputable def adminTable (a : AdminCmd) : List (Instr × Nat × Bool) := [
  (.handover a, 0x01, true), (.close a, 0x02, true), (.rekey a, 0x03, true), (.portMove a, 0x04, true),
  (.descriptorUpdate a, 0x10, true), (.dialectLoad a, 0x11, false), (.benchConfigure a, 0x20, false),
  (.bulkLoad a, 0x21, false), (.cancel a, 0x22, true), (.keyLoad a, 0x30, false), (.keyExport a, 0x31, false),
  (.keyDelete a, 0x32, false), (.keyInfo a, 0x33, true), (.keySave a, 0x34, false), (.keyRestore a, 0x35, false),
  (.zeroise a, 0x36, true), (.journalTail a, 0x40, false), (.mapUpdate a, 0x50, false),
  (.sliceTransfer a, 0x51, false), (.orphanResolve a, 0x52, true)]

/-- Each command of the table takes an entry of its opcode, in its lane. -/
theorem exec_adminTable (s : State) (a : AdminCmd) {i : Instr} {opc : Nat} {quick : Bool}
    (hi : (i, opc, quick) ∈ adminTable a) :
    exec i s = .next (takeAdmin opc a s) ∧ opc < 256 ∧ admListed opc = true ∧ admQuick opc = quick := by
  have hall : ∀ p ∈ adminTable a,
      exec p.1 s = .next (takeAdmin p.2.1 a s) ∧ p.2.1 < 256 ∧ admListed p.2.1 = true ∧ admQuick p.2.1 = p.2.2 := by
    unfold adminTable
    iterate 20 refine List.forall_mem_cons.2 ⟨⟨rfl, Nat.le_of_ble_eq_true rfl, rfl, rfl⟩, ?_⟩
    exact nofun
  exact hall _ hi

section
variable {s t : State} {a : AdminCmd} {i : Instr} {opc : Nat} {quick : Bool} (hi : (i, opc, quick) ∈ adminTable a)
  (htaken : AdminTaken s opc a t)
include hi htaken

theorem exec_admin : exec i s = .next (runTaken opc a (takenAdmin opc t)) := by
  obtain ⟨hexec, hopc, -, -⟩ := exec_adminTable s a hi
  rw [hexec, takeAdmin_of_taken htaken hopc]

/-- R350: with its lane empty a command executes. -/
theorem exec_admin_first (hlane : laneHead (takenAdmin opc t) quick = none) :
    exec i s = .next (admRun (takenAdmin opc t) quick a.cid opc a) := by
  obtain ⟨-, -, hlisted, rfl⟩ := exec_adminTable s a hi
  rw [exec_admin hi htaken, runTaken_first hlisted hlane]

theorem exec_admin_done (hlane : laneHead (takenAdmin opc t) quick = none) {st : AdmStatus} {r0 : Nat} {u : State}
    (hbody : admBody opc a (takenAdmin opc t) = (.done st r0, u)) : exec i s = .next (admDone u a.cid st r0) := by
  rw [exec_admin_first hi htaken hlane, admRun_done hbody]

theorem exec_admin_waits (hlane : laneHead (takenAdmin opc t) quick = none) {w : AdmWait} {u : State}
    (hbody : admBody opc a (takenAdmin opc t) = (.wait w, u)) : exec i s = .next { u with hif := { u.hif with
      admin := { cid := a.cid, quick := quick, wait := w } :: u.hif.admin } } := by
  rw [exec_admin_first hi htaken hlane, admRun_waits hbody]

/-- R350: behind another command of its lane a command waits its turn. -/
theorem exec_admin_behind {j : AdmJob} (hlane : laneHead (takenAdmin opc t) quick = some j) :
    exec i s = .next { takenAdmin opc t with hif := { (takenAdmin opc t).hif with
      admin := (takenAdmin opc t).hif.admin ++ [{ cid := a.cid, quick := quick, wait := .queued opc a }] } } := by
  obtain ⟨-, -, hlisted, rfl⟩ := exec_adminTable s a hi
  rw [exec_admin hi htaken, runTaken_behind hlisted hlane]

end

theorem admStandin_eq_false {opc : Nat} (h : opc ∉ [0x01, 0x02, 0x03, 0x30, 0x32, 0x33, 0x36, 0x40]) :
    admStandin opc = false := by
  unfold admStandin
  rw [List.contains_eq_mem, decide_eq_false h]

theorem takenAdmin_other {opc : Nat} (hz : opc ≠ 0x36) (ht : opc ≠ 0x40) (t : State) : takenAdmin opc t = t := by
  unfold takenAdmin
  rw [if_neg hz, if_neg fun h => ht h.1]

theorem takenAdmin_tail {t : State} (hrun : t.jnl.running = false) :
    takenAdmin 0x40 t = { t with jnl := { t.jnl with tailNamed := true } } := by
  unfold takenAdmin
  rw [if_neg (by decide), if_pos ⟨rfl, by rw [hrun]; rfl⟩]

/-- An opcode that the table does not list (R350). -/
theorem exec_adminUnknownOp_taken {s t : State} {opc : Nat} {a : AdminCmd} (hopc : opc < 256)
    (hnot : opc ∉ [0x01, 0x02, 0x03, 0x04, 0x10, 0x11, 0x20, 0x21, 0x22, 0x30, 0x31, 0x32, 0x33, 0x34, 0x35, 0x36, 0x40, 0x50,
      0x51, 0x52]) (htaken : AdminTaken s opc a t) :
    exec (.adminUnknownOp opc a) s = .next (admDone t a.cid .unknownOp 0) := by
  have hlisted : admListed opc = false := by
    unfold admListed
    rw [List.contains_eq_mem, decide_eq_false hnot]
  have hz : opc ≠ 0x36 := fun h => hnot (by rw [h]; decide)
  have ht : opc ≠ 0x40 := fun h => hnot (by rw [h]; decide)
  rw [exec_adminUnknownOp, execAdminUnknownOp, hlisted, if_neg (by decide), takeAdmin_of_taken htaken hopc,
    takenAdmin_other hz ht, runTaken, hlisted]
  rfl

/-- Settles O44: the table's commands through `exec_admin`, by the state of their lane. -/
theorem adminLanes : Obligations.AdminLanes := by
  unfold Obligations.AdminLanes
  intro s t a
  refine ⟨fun i opc quick hi htaken => ⟨fun hz ht => takenAdmin_other hz ht t, ?_, ?_, fun hlane => ⟨?_, ?_, ?_⟩, ?_⟩,
    fun opc hopc hnot htaken => exec_adminUnknownOp_taken hopc hnot htaken,
    fun u st r0 => ⟨_, rfl, rfl, rfl, rfl, decide_eq_true_iff⟩, fun b => ⟨rfl, rfl, rfl, rfl, rfl, rfl⟩,
    fun opc htaken => taken_ring htaken⟩
  · rintro rfl
    exact if_pos rfl
  · rintro rfl hrun
    exact takenAdmin_tail hrun
  · exact fun st r0 u hbody => exec_admin_done hi htaken hlane hbody
  · exact fun w u hbody => exec_admin_waits hi htaken hlane hbody
  · exact fun hstandin hopc => exec_admin_done hi htaken hlane (admBody_standin hstandin (admStandin_eq_false hopc))
  · exact fun j hlane => exec_admin_behind hi htaken hlane

end Sys2Proof.Proofs

namespace Sys2Proof.Proofs

open Sys2Proof Sys2Proof.Machine Sys2Proof.Laws

/-! # The admin commands of the key store and the journal tail (O46: R274 to R279, R295, R296)

## A command that HIF takes with empty lanes -/

section
variable {s t : State} {a : AdminCmd} {i : Instr} {opc : Nat} {quick : Bool} (hidle : s.hif.admin = [])
  (hi : (i, opc, quick) ∈ adminTable a) (htaken : AdminTaken s opc a t)
include hidle htaken

theorem laneHead_taken : laneHead t quick = none := by
  unfold laneHead
  rw [(taken_ring htaken).2, hidle]
  rfl

include hi
variable (hz : opc ≠ 0x36) (ht : opc ≠ 0x40)
include hz ht

theorem exec_admin_idle_done {st : AdmStatus} {r0 : Nat} {u : State} (hbody : admBody opc a t = (.done st r0, u)) :
    exec i s = .next (admDone u a.cid st r0) := by
  have hsame := takenAdmin_other hz ht t
  exact exec_admin_done hi htaken (by rw [hsame, laneHead_taken hidle htaken]) (by rw [hsame, hbody])

theorem exec_admin_idle_waits {w : AdmWait} {u : State} (hbody : admBody opc a t = (.wait w, u)) :
    exec i s = .next { u with hif := { u.hif with
      admin := { cid := a.cid, quick := quick, wait := w } :: u.hif.admin } } := by
  have hsame := takenAdmin_other hz ht t
  exact exec_admin_waits hi htaken (by rw [hsame, laneHead_taken hidle htaken]) (by rw [hsame, hbody])

end

section
variable (a : AdminCmd) (s : State)

/-! What a command of the key store does, stand-in service or not (R366). -/

theorem admBody_keyLoad : admBody 0x30 a s = admKeyLoad a s := if_neg fun h => absurd h.2 (by decide)
theorem admBody_keyDelete : admBody 0x32 a s = admKeyDelete a s := if_neg fun h => absurd h.2 (by decide)
theorem admBody_keyInfo : admBody 0x33 a s = admKeyInfo a s := if_neg fun h => absurd h.2 (by decide)
theorem admBody_zeroise : admBody 0x36 a s = admZeroise a s := if_neg fun h => absurd h.2 (by decide)
theorem admBody_journalTail : admBody 0x40 a s = admJournalTail a s := if_neg fun h => absurd h.2 (by decide)

variable {s} (hout : standinService s = false)
include hout

theorem admBody_keyExport : admBody 0x31 a s = admKeyExport a s := if_neg fun h => absurd h.1 (by rw [hout]; decide)
theorem admBody_keySave : admBody 0x34 a s = admKeySave a s := if_neg fun h => absurd h.1 (by rw [hout]; decide)
theorem admBody_keyRestore : admBody 0x35 a s = admKeyRestore a s := if_neg fun h => absurd h.1 (by rw [hout]; decide)

end

/-- A read of host memory for a command settles the MPU and moves nothing else. -/
theorem quiet_hostRead {s s1 : State} {addr len : Nat} {bs : List Byte} (h : hostRead s addr len = (some bs, s1)) :
    Quiet s s1 := by
  unfold hostRead at h
  split at h
  · obtain ⟨-, rfl⟩ := Prod.mk.inj h
    exact .refl s
  · unfold hifRead at h
    split at h
    · exact absurd (Prod.mk.inj h).1 nofun
    · obtain ⟨hs, -, -⟩ := islandRead_some h
      exact hs ▸ quiet_mpuSettled s

/-! ## Key load (R274, R275, R278) -/

section
variable {s s2 : State} {a : AdminCmd}

theorem admKeyLoad_zeroised (h : s.getF Fld.CRY_STATUS_ZEROISED = 1) : admKeyLoad a s = (.done .zeroised 0, s) := if_pos h

theorem admKeyLoad_loads {data m mat : List Byte} (hz : s.getF Fld.CRY_STATUS_ZEROISED = 0)
    (hspace : bitsOf a.p0 16 4 ≤ 8) (hslot0 : bitsOf a.p0 16 4 = 0 → bitsOf a.p0 0 16 ≠ 0) (hform : bitsOf a.p1 0 32 ≤ 2)
    (hattr : attrOk (bitsOf a.p0 16 4) (bitsOf a.p1 32 32) = true)
    (hclear : bitsOf a.p1 0 32 = 2 → s.getF Fld.CRY_CTRL_CLEAR_OK = 1)
    (hempty : slotOf s (bitsOf a.p0 16 4) (bitsOf a.p0 0 16) = none)
    (hread : hostRead s a.addr a.len = (some data, s2))
    (hkey : loadedKey s2 (bitsOf a.p1 0 32) (bitsOf a.p1 32 32) a.p2 data = .ok m)
    (hmat : slotMaterial (bitsOf (bitsOf a.p1 32 32) 24 5) m = some mat)
    (hroom : bitsOf a.p0 16 4 = 0 → ceilDiv m.length 16 ≤ s.getF Fld.CRY_STATUS_MAT_FREE) :
    admKeyLoad a s =
      (.done .success (fillSlot s2 (bitsOf a.p0 16 4) (bitsOf a.p0 0 16) (bitsOf a.p1 32 32) m.length mat).1,
        (fillSlot s2 (bitsOf a.p0 16 4) (bitsOf a.p0 0 16) (bitsOf a.p1 32 32) m.length mat).2) := by
  have hvalid : ¬(8 < bitsOf a.p0 16 4 ∨ (bitsOf a.p0 16 4 = 0 ∧ bitsOf a.p0 0 16 = 0) ∨ 2 < bitsOf a.p1 0 32 ∨
      (!attrOk (bitsOf a.p0 16 4) (bitsOf a.p1 32 32)) = true ∨
      (bitsOf a.p1 0 32 = 2 ∧ s.getF Fld.CRY_CTRL_CLEAR_OK = 0)) := by
    rintro (h | h | h | h | h)
    · omega
    · exact hslot0 h.1 h.2
    · omega
    · rw [hattr] at h
      exact absurd h (by decide)
    · exact absurd (hclear h.1) (by omega)
  have hfits : ¬(bitsOf a.p0 16 4 = 0 ∧ s.getF Fld.CRY_STATUS_MAT_FREE < ceilDiv m.length 16) := fun h =>
    absurd (hroom h.1) (by omega)
  unfold admKeyLoad
  dsimp only
  rw [if_neg (by omega), if_neg hvalid, hempty, if_neg (by decide), hread]
  dsimp only
  rw [hkey]
  dsimp only
  rw [hmat]
  dsimp only
  rw [if_neg hfits]

/-- The slot that a key load fills (R274). -/
def filledSlot (s : State) (space slot attr n : Nat) (mat : List Byte) : KeySlot :=
  { space := space, slot := slot, mat := mat,
    header := putBits (2 ^ 63 + attr % 2 ^ 31 * 2 ^ 32) 0 23 (ceilDiv n 16 * 2 ^ 15 + Config.openValue s.freeCtr % 2 ^ 15) }

theorem putBits_low (x w v : Nat) : putBits x 0 w v = x / 2 ^ w * 2 ^ w + v % 2 ^ w := by
  unfold putBits
  rw [Nat.zero_add, Nat.shiftLeft_zero, Nat.pow_zero, Nat.mod_one, Nat.add_zero, Nat.shiftRight_eq_div_pow,
    Nat.shiftLeft_eq]

/-- The header says that the slot is loaded, the attributes of the command and the units of the material (R274). -/
theorem header_filledSlot (s : State) (space slot attr n : Nat) (mat : List Byte) :
    (filledSlot s space slot attr n mat).header / 2 ^ 32 = 2 ^ 31 + attr % 2 ^ 31 ∧
      (filledSlot s space slot attr n mat).header / 2 ^ 15 % 2 ^ 8 = (n + 15) / 16 % 2 ^ 8 := by
  have hunits : ceilDiv n 16 = (n + 15) / 16 := rfl
  unfold filledSlot
  dsimp only
  rw [putBits_low, hunits]
  generalize (n + 15) / 16 = u
  have hoff : Config.openValue s.freeCtr % 2 ^ 15 < 2 ^ 15 := Nat.mod_lt _ (by decide)
  generalize Config.openValue s.freeCtr % 2 ^ 15 = off at hoff ⊢
  constructor <;> omega

theorem quiet_noteSlots (s : State) : Quiet s (noteSlots s) := ((Quiet.refl s).setF _ _).setF _ _

theorem cry_putKey_general {k : KeySlot} (h : k.space = 0) (s : State) :
    (putKey s k).cry = { s.cry with keys := s.cry.keys ++ [k] } := by
  rw [putKey, if_pos h]

theorem cry_putKey_traffic {k : KeySlot} (h : k.space ≠ 0) (s : State) : (putKey s k).cry = { s.cry with
    wrapped := (s.cry.wrapped.filter fun w => !w.key.at_ k.space k.slot) ++ [{ gen := s.cry.wrapGen, key := k }],
    cache := s.cry.cache ++ [k] } := by
  rw [putKey, if_neg h]

theorem mem_putKey (s : State) (k : KeySlot) : (putKey s k).mem = s.mem := by
  unfold putKey
  split <;> rfl

/-- R274: what the key store holds once the slot is filled. -/
theorem fillSlot_fills (s : State) (space slot attr n : Nat) (mat : List Byte) :
    let r := fillSlot s space slot attr n mat
    let k := filledSlot s space slot attr n mat
    r.1 = k.header ∧ (space = 0 → r.2.cry.keys = s.cry.keys ++ [k] ∧ r.2.cry.wrapped = s.cry.wrapped) ∧
      (space ≠ 0 → r.2.cry.keys = s.cry.keys ∧ r.2.cry.cache = s.cry.cache ++ [k] ∧
        { gen := s.cry.wrapGen, key := k } ∈ r.2.cry.wrapped) ∧ r.2.mem = s.mem := by
  intro r k
  have hq : Quiet (putKey { s with freeCtr := s.freeCtr + 1 } k) r.2 := quiet_noteSlots _
  refine ⟨rfl, fun h0 => ?_, fun h0 => ?_, hq.mem.trans (mem_putKey _ _)⟩
  · rw [hq.cry, cry_putKey_general h0]
    exact ⟨rfl, rfl⟩
  · rw [hq.cry, cry_putKey_traffic h0]
    exact ⟨rfl, rfl, List.mem_append_right _ (List.mem_singleton.2 rfl)⟩

end

/-! ## Keys that go out, save and restore (R275, R277) -/

section
variable {s : State} {a : AdminCmd}

theorem admKeyExport_writes {k : KeySlot} {bs : List Byte} {s2 s3 : State} (hk : s.keyOf 0 (bitsOf a.p0 0 16) = some k)
    (hexp : exportedKey s k a.p2 = (.ok bs, s2)) (hlen : bs.length ≤ a.len) (hw : hostWrite s2 a.addr bs = (true, s3)) :
    admKeyExport a s = (.done .success bs.length, s3) := by
  unfold admKeyExport
  rw [hk]
  dsimp only
  rw [hexp]
  dsimp only
  rw [if_neg (by omega), hw]

theorem admKeyExport_refused {k : KeySlot} {st : AdmStatus} {s2 : State} (hk : s.keyOf 0 (bitsOf a.p0 0 16) = some k)
    (hexp : exportedKey s k a.p2 = (.error st, s2)) : admKeyExport a s = (.done st 0, s2) := by
  unfold admKeyExport
  rw [hk]
  dsimp only
  rw [hexp]
  rfl

theorem admKeySave_writes {s2 : State} (hlen : (keyImage s).1.length ≤ a.len)
    (hw : hostWrite (keyImage s).2 a.addr (keyImage s).1 = (true, s2)) :
    admKeySave a s = (.done .success (keyImage s).1.length, s2) := by
  unfold admKeySave
  dsimp only
  rw [if_neg (by omega), hw]

theorem admKeyRestore_read {bs : List Byte} {s2 : State} (hread : hostRead s a.addr a.len = (some bs, s2)) :
    admKeyRestore a s = (.done (restoreImage s2 bs).1 (if (restoreImage s2 bs).1 = .success then bs.length else 0),
      (restoreImage s2 bs).2) := by
  unfold admKeyRestore
  rw [hread]

theorem admKeyRestore_refused {bs : List Byte} {s2 : State} {st : AdmStatus} (hread : hostRead s a.addr a.len = (some bs, s2))
    (hrestore : restoreImage s2 bs = (st, s2)) (hst : st ≠ .success) : admKeyRestore a s = (.done st 0, s2) := by
  rw [admKeyRestore_read hread, hrestore]
  dsimp only
  rw [if_neg hst]

theorem restoreImage_zeroised {bs : List Byte} (hz : s.getF Fld.CRY_STATUS_ZEROISED = 1) :
    restoreImage s bs = (.zeroised, s) := if_pos hz

variable {bs : List Byte} (hz : s.getF Fld.CRY_STATUS_ZEROISED = 0)
include hz

theorem restoreImage_notEmpty (hkeys : s.cry.keys ≠ []) : restoreImage s bs = (.wrongState, s) := by
  rw [restoreImage, if_neg (by omega), if_pos hkeys]

theorem restoreImage_unopened (hkeys : s.cry.keys = []) (hopen : openImage s bs = none) :
    restoreImage s bs = (.authFail, s) := by
  rw [restoreImage, if_neg (by omega), if_neg (not_not.2 hkeys), hopen]

theorem restoreImage_opened (hkeys : s.cry.keys = []) {ks : List KeySlot} (hopen : openImage s bs = some ks) :
    restoreImage s bs = (.success, noteSlots { s with cry := { s.cry with keys := s.cry.keys ++ ks } }) := by
  rw [restoreImage, if_neg (by omega), if_neg (not_not.2 hkeys), hopen]

end

theorem admKeyRestore_opened {s s2 : State} {a : AdminCmd} {bs : List Byte} {ks : List KeySlot}
    (hread : hostRead s a.addr a.len = (some bs, s2)) (hz : s2.getF Fld.CRY_STATUS_ZEROISED = 0)
    (hkeys : s2.cry.keys = []) (hopen : openImage s2 bs = some ks) :
    admKeyRestore a s =
      (.done .success bs.length, noteSlots { s2 with cry := { s2.cry with keys := s2.cry.keys ++ ks } }) := by
  rw [admKeyRestore_read hread, restoreImage_opened hz hkeys hopen]
  rfl

/-! ## Key delete (R276) -/

theorem at_of_slotOf {s : State} {space slot : Nat} {k : KeySlot} (h : slotOf s space slot = some k) :
    k.space = space ∧ k.slot = slot := by
  have hat : k.at_ space slot = true := by
    unfold slotOf at h
    split at h
    case isTrue h0 => 
      rw [h0]
      exact List.find?_some (p := fun q : KeySlot => q.at_ 0 slot) h
    case isFalse =>
      obtain ⟨w, hw, rfl⟩ := Option.map_eq_some_iff.1 h
      exact (Bool.and_eq_true_iff.1 (List.find?_some (p := fun w : WrappedKey => w.gen == s.cry.wrapGen && w.key.at_ space slot) hw)).2
  simpa [KeySlot.at_] using hat

theorem slotOf_clearSlot (s : State) (space slot : Nat) : slotOf (clearSlot s space slot) space slot = none := by
  unfold slotOf clearSlot
  split
  case isTrue h0 =>
    rw [List.find?_eq_none]
    intro k hk
    simpa [h0] using (List.mem_filter.1 hk).2
  case isFalse =>
    rw [Option.map_eq_none_iff, List.find?_eq_none]
    intro w hw
    have hnot := (List.mem_filter.1 hw).2
    rw [Bool.not_eq_true'] at hnot
    rw [hnot, Bool.and_false]
    decide

theorem slotOf_congr {s t : State} (h : t.cry = s.cry) (space slot : Nat) : slotOf t space slot = slotOf s space slot := by
  unfold slotOf
  rw [h]

theorem slotOf_deleted (s : State) (space slot : Nat) : slotOf (noteSlots (clearSlot s space slot)) space slot = none :=
  (slotOf_congr (quiet_noteSlots _).cry space slot).trans (slotOf_clearSlot s space slot)

section
variable {s : State} {a : AdminCmd} {k : KeySlot} (hk : slotOf s (bitsOf a.p0 16 4) (bitsOf a.p0 0 16) = some k)
include hk

theorem admKeyDelete_unread (hread : readersOf s k = []) :
    admKeyDelete a s = (.done .success 0, noteSlots (clearSlot s (bitsOf a.p0 16 4) (bitsOf a.p0 0 16))) := by
  obtain ⟨hspace, hslot⟩ := at_of_slotOf hk
  unfold admKeyDelete
  rw [hk]
  dsimp only
  rw [hread, hspace, hslot]
  rfl

theorem admKeyDelete_read (hread : readersOf s k ≠ []) :
    admKeyDelete a s = (.wait (.jobs (readersOf s k)), noteSlots (clearSlot s (bitsOf a.p0 16 4) (bitsOf a.p0 0 16))) := by
  obtain ⟨hspace, hslot⟩ := at_of_slotOf hk
  unfold admKeyDelete
  rw [hk]
  dsimp only
  rw [hspace, hslot]
  cases hids : readersOf s k with
  | nil => exact absurd hids hread
  | cons i ids => rfl

end

theorem admKeyInfo_eq (a : AdminCmd) (s : State) : admKeyInfo a s =
    (.done .success (((s.keyOf (bitsOf a.p0 16 4) (bitsOf a.p0 0 16)).map fun k => k.header).getD 0), s) := by
  unfold admKeyInfo
  cases s.keyOf (bitsOf a.p0 16 4) (bitsOf a.p0 0 16) <;> rfl

/-! ## Zeroisation (R278, R279) -/

theorem cry_islandWrite (s : State) (i : Initiator) (pa : Nat) (bs : List Byte) : (islandWrite s i pa bs).2.cry = s.cry := by
  have hset : (mpuSettled s).cry = s.cry := (quiet_mpuSettled s).cry
  cases hw : islandWrite s i pa bs with
  | mk ok s1 =>
    cases ok with
    | true =>
      obtain ⟨hs, -⟩ := islandWrite_true hw
      exact (hs ▸ (quiet_appendAdvance _ _ _ _).cry).trans hset
    | false =>
      obtain ⟨hs, -⟩ | ⟨p, hs⟩ := islandWrite_false hw
      · exact hs ▸ hset
      · exact (hs ▸ (quiet_refuseAccess _ _ _ _).cry).trans hset

theorem cry_connWrite (s : State) (h off : Nat) (bs : List Byte) : (connWrite s h off bs).cry = s.cry := by
  unfold connWrite
  split
  · rfl
  · exact cry_islandWrite _ _ _ _

/-- The hand-back of a connection changes nothing of CRYPTO. -/
theorem cry_closeConn (s : State) (c : Conn) (reason : Nat) : (closeConn s c reason).cry = s.cry := by
  have hnoted : (closeNoted s c reason).cry = s.cry := cry_connWrite _ _ _ _
  have hqueued : (c.rsps.foldl (fun s r => queueCpl s (goneCpl s c.h c.tag r)) (closeNoted s c reason)).cry = s.cry :=
    foldl_inv (P := fun u : State => u.cry = s.cry) hnoted _ fun _ _ h => h
  unfold closeConn
  split <;> exact hqueued

theorem startZeroise_cry (s : State) (n : Nat) :
    (startZeroise s n).cry.zeroing = true ∧ (startZeroise s n).cry.wiping = true := by
  unfold startZeroise
  exact foldl_inv (P := fun u : State => u.cry.zeroing = true ∧ u.cry.wiping = true) ⟨rfl, rfl⟩ _ fun u c h => by
    rw [cry_closeConn]
    exact h

/-- While a zeroisation is under way every slot reads as empty (R278). -/
theorem keyOf_zeroing {s : State} (h : s.cry.zeroing = true) (space slot : Nat) : s.keyOf space slot = none := if_pos h

theorem admReady_zeroise_of_zeroing {s : State} (h : s.cry.zeroing = true) : admReady s .zeroise = none := if_pos h

theorem admReady_zeroise_of_done {s : State} (h : s.cry.zeroing = false) : admReady s .zeroise = some (0, s) :=
  if_neg (by rw [h]; decide)

/-! ## Tamper inputs (R278, R448) -/

theorem putBits_one_true (x i : Nat) : putBits x i 1 1 = x / 2 ^ (i + 1) * 2 ^ (i + 1) + 2 ^ i + x % 2 ^ i := by
  simp [putBits, Nat.shiftRight_eq_div_pow, Nat.shiftLeft_eq]

theorem putBits_one_false (x i : Nat) : putBits x i 1 0 = x / 2 ^ (i + 1) * 2 ^ (i + 1) + x % 2 ^ i := by
  simp [putBits, Nat.shiftRight_eq_div_pow, Nat.shiftLeft_eq]

section
variable {s : State} {i : Fin 4}

/-- The state with a tamper input low. -/
def tamperLow (s : State) (i : Fin 4) : State :=
  { s with sys := { s.sys with tamper := s.sys.tamper / 2 ^ (i.val + 1) * 2 ^ (i.val + 1) + 2 ^ i.val + s.sys.tamper % 2 ^ i.val } }

theorem exec_tamperInput_eq : exec (.tamperInput i) s = .next
    (if bitAt (s.getF Fld.CRY_TAMPER_EN) i.val ∧ !bitAt s.sys.tamper i.val then zeroise (tamperLow s i) (2 ^ i.val)
      else tamperLow s i) := by
  rw [exec_tamperInput, execTamperInput]
  dsimp only
  rw [putBits_one_true]
  rfl

theorem exec_tamperInput_falls (hen : (s.getF Fld.CRY_TAMPER_EN).testBit i.val = true)
    (hhigh : s.sys.tamper.testBit i.val = false) :
    exec (.tamperInput i) s = .next (zeroise (tamperLow s i) (2 ^ i.val)) := by
  have hcond : bitAt (s.getF Fld.CRY_TAMPER_EN) i.val = true ∧ (!bitAt s.sys.tamper i.val) = true :=
    ⟨hen, by rw [bitAt, hhigh]; rfl⟩
  rw [exec_tamperInput_eq, if_pos hcond]

theorem exec_tamperInput_ignored
    (hnot : (s.getF Fld.CRY_TAMPER_EN).testBit i.val = false ∨ s.sys.tamper.testBit i.val = true) :
    exec (.tamperInput i) s = .next (tamperLow s i) := by
  have hcond : ¬(bitAt (s.getF Fld.CRY_TAMPER_EN) i.val = true ∧ (!bitAt s.sys.tamper i.val) = true) := by
    unfold bitAt
    rintro ⟨hen, hhigh⟩
    obtain h | h := hnot
    · exact absurd hen (by rw [h]; decide)
    · exact absurd hhigh (by rw [h]; decide)
  rw [exec_tamperInput_eq, if_neg hcond]

theorem exec_tamperInputHigh_eq : exec (.tamperInputHigh i) s = .next { s with sys := { s.sys with
    tamper := s.sys.tamper / 2 ^ (i.val + 1) * 2 ^ (i.val + 1) + s.sys.tamper % 2 ^ i.val } } := by
  rw [exec_tamperInputHigh, execTamperInputHigh, putBits_one_false]

end

/-! ## The journal tail (R296) -/

/-- The journal once the host has named a tail. -/
def tailNamed (s : State) : State := { s with jnl := { s.jnl with tailNamed := true } }

theorem laneHead_tailNamed (s : State) (quick : Bool) : laneHead (tailNamed s) quick = laneHead s quick := rfl

section
variable {s s2 : State} {a : AdminCmd} {bs : List Byte} {first last : JRec} (hrun : s.jnl.running = false)
  (hphase : s.getF Fld.BOOT_STATUS_PHASE < 5) (hrecs : s.jnl.recs = [])
  (hread : hostRead s a.addr a.len = (some bs, s2)) (hfirst : (tailRecs bs).head? = some first)
  (hlast : (tailRecs bs).getLast? = some last)
include hrun hphase hrecs hread hfirst hlast

theorem admJournalTail_eq : admJournalTail a s =
    if !tailOk s2 (tailRecs bs) then admEnds .authFail s2
    else (.wait (.tail (tailRecs bs).length), takeTail s2 (tailRecs bs) first last) := by
  have hopen : ¬(s.jnl.running = true ∨ 5 ≤ bootPhase s ∨ s.jnl.recs ≠ []) := by
    rintro (h | h | h)
    · rw [hrun] at h
      exact absurd h (by decide)
    · exact absurd hphase (Nat.not_lt.2 h)
    · exact h hrecs
  unfold admJournalTail
  rw [if_neg hopen, hread]
  dsimp only
  rw [hfirst, hlast]

end

/-- The epoch of a tail (R296) on the journal that takes it up. -/
theorem jnl_takeTail (s : State) (l : List JRec) (first last : JRec) : ∃ o o', (takeTail s l first last).jnl =
    { s.jnl with recs := l, outChain := o, prevSeal := regHash s Off.JNL_RESUME_SEAL,
                 closing := [tailEpoch first last o'] } := by
  unfold takeTail
  dsimp only
  rw [jnl_signNext]
  exact ⟨_, _, rfl⟩

theorem admReady_tail_unsealed {s : State} (n : Nat) (hseal : s.jnl.tailSeal = none) (hrun : s.jnl.running = false) :
    admReady s (.tail n) = none := by
  have hnot : ¬(s.jnl.tailSeal.isSome = true ∨ s.jnl.running = true) := by
    rw [hseal, hrun]
    decide
  exact if_neg hnot

theorem admReady_tail_sealed {s : State} (n : Nat) (hseal : s.jnl.tailSeal.isSome = true) :
    admReady s (.tail n) = some (n, s) := if_pos (.inl hseal)

/-! ## The obligation -/

section
variable {s s1 : State} {a : AdminCmd} (hidle : s.hif.admin = [])
include hidle

theorem exec_keyLoad_taken (htaken : AdminTaken s 0x30 a s1) {st : AdmStatus} {r0 : Nat} {u : State}
    (hbody : admKeyLoad a s1 = (.done st r0, u)) : exec (.keyLoad a) s = .next (admDone u a.cid st r0) :=
  exec_admin_idle_done (quick := false) hidle (by simp [adminTable]) htaken (by decide) (by decide) ((admBody_keyLoad a s1).trans hbody)

theorem exec_keyDelete_taken (htaken : AdminTaken s 0x32 a s1) {st : AdmStatus} {r0 : Nat} {u : State}
    (hbody : admKeyDelete a s1 = (.done st r0, u)) : exec (.keyDelete a) s = .next (admDone u a.cid st r0) :=
  exec_admin_idle_done (quick := false) hidle (by simp [adminTable]) htaken (by decide) (by decide) ((admBody_keyDelete a s1).trans hbody)

theorem exec_keyDelete_waits (htaken : AdminTaken s 0x32 a s1) {w : AdmWait} {u : State}
    (hbody : admKeyDelete a s1 = (.wait w, u)) : exec (.keyDelete a) s = .next { u with hif := { u.hif with
      admin := { cid := a.cid, quick := false, wait := w } :: u.hif.admin } } :=
  exec_admin_idle_waits (quick := false) hidle (by simp [adminTable]) htaken (by decide) (by decide) ((admBody_keyDelete a s1).trans hbody)

theorem exec_keyInfo_taken (htaken : AdminTaken s 0x33 a s1) : exec (.keyInfo a) s = .next
    (admDone s1 a.cid .success (((s1.keyOf (bitsOf a.p0 16 4) (bitsOf a.p0 0 16)).map fun k => k.header).getD 0)) :=
  exec_admin_idle_done (quick := true) hidle (by simp [adminTable]) htaken (by decide) (by decide)
    ((admBody_keyInfo a s1).trans (admKeyInfo_eq a s1))

omit hidle in
/-- R278: the zeroisation has started when its command is taken, and the command waits for its end. -/
theorem exec_zeroise_taken (htaken : AdminTaken s 0x36 a s1) (hlane : laneHead (zeroise s1 0) true = none) :
    exec (.zeroise a) s = .next { zeroise s1 0 with hif := { (zeroise s1 0).hif with
      admin := { cid := a.cid, quick := true, wait := .zeroise } :: (zeroise s1 0).hif.admin } } := by
  have hstart : takenAdmin 0x36 s1 = zeroise s1 0 := if_pos rfl
  have hexec := exec_admin_waits (i := .zeroise a) (quick := true) (by simp [adminTable]) htaken (by rw [hstart, hlane])
    (w := .zeroise) (u := zeroise s1 0) (by rw [hstart]; exact admBody_zeroise a _)
  exact hexec

/-- R296: with empty lanes a journal tail is named and looked at when its command is taken. -/
theorem exec_journalTail_taken (htaken : AdminTaken s 0x40 a s1) (hrun : s1.jnl.running = false) :
    exec (.journalTail a) s = .next (admRun (tailNamed s1) false a.cid 0x40 a) := by
  have hnamed : takenAdmin 0x40 s1 = tailNamed s1 := takenAdmin_tail hrun
  have hlane : laneHead (tailNamed s1) false = none :=
    (laneHead_tailNamed s1 false).trans (laneHead_taken (quick := false) hidle htaken)
  have hexec := exec_admin_first (i := .journalTail a) (quick := false) (by simp [adminTable]) htaken (by rw [hnamed, hlane])
  rwa [hnamed] at hexec

variable (hout : standinService s1 = false)
include hout

theorem exec_keyExport_taken (htaken : AdminTaken s 0x31 a s1) {st : AdmStatus} {r0 : Nat} {u : State}
    (hbody : admKeyExport a s1 = (.done st r0, u)) : exec (.keyExport a) s = .next (admDone u a.cid st r0) :=
  exec_admin_idle_done (quick := false) hidle (by simp [adminTable]) htaken (by decide) (by decide) ((admBody_keyExport a hout).trans hbody)

theorem exec_keySave_taken (htaken : AdminTaken s 0x34 a s1) {st : AdmStatus} {r0 : Nat} {u : State}
    (hbody : admKeySave a s1 = (.done st r0, u)) : exec (.keySave a) s = .next (admDone u a.cid st r0) :=
  exec_admin_idle_done (quick := false) hidle (by simp [adminTable]) htaken (by decide) (by decide) ((admBody_keySave a hout).trans hbody)

theorem exec_keyRestore_taken (htaken : AdminTaken s 0x35 a s1) {st : AdmStatus} {r0 : Nat} {u : State}
    (hbody : admKeyRestore a s1 = (.done st r0, u)) : exec (.keyRestore a) s = .next (admDone u a.cid st r0) :=
  exec_admin_idle_done (quick := false) hidle (by simp [adminTable]) htaken (by decide) (by decide) ((admBody_keyRestore a hout).trans hbody)

end

/-- Settles O46: each command by its body in `exec_admin_idle_done` or `exec_admin_idle_waits`. -/
theorem adminKeys : Obligations.AdminKeys := by
  unfold Obligations.AdminKeys
  intro s s1 a hidle
  have hspace : a.p0 / 2 ^ 16 % 16 = bitsOf a.p0 16 4 := by
    rw [bitsOf, Nat.shiftRight_eq_div_pow]
    rfl
  have hslot : a.p0 % 2 ^ 16 = bitsOf a.p0 0 16 := by rw [bitsOf, Nat.shiftRight_zero]
  have hform : a.p1 % 2 ^ 32 = bitsOf a.p1 0 32 := by rw [bitsOf, Nat.shiftRight_zero]
  have hattr : a.p1 / 2 ^ 32 % 2 ^ 32 = bitsOf a.p1 32 32 := by rw [bitsOf, Nat.shiftRight_eq_div_pow]
  have htype : bitsOf a.p1 32 32 / 2 ^ 24 % 32 = bitsOf (bitsOf a.p1 32 32) 24 5 := by
    rw [bitsOf, bitsOf, Nat.shiftRight_eq_div_pow, Nat.shiftRight_eq_div_pow]
    rfl
  rw [hspace, hslot, hform, hattr]
  intro space slot form attr
  refine ⟨fun htaken => ⟨fun hz => exec_keyLoad_taken hidle htaken (admKeyLoad_zeroised hz), ?load⟩,
    fun hout => ⟨fun htaken => ⟨fun k bs s2 s3 hk hexp hlen hw =>
        exec_keyExport_taken hidle hout htaken (admKeyExport_writes hk hexp hlen hw),
      fun k st s2 hk hexp => exec_keyExport_taken hidle hout htaken (admKeyExport_refused hk hexp)⟩,
      fun htaken s2 hlen hw => exec_keySave_taken hidle hout htaken (admKeySave_writes hlen hw), ?restore⟩,
    fun htaken k hk => ⟨fun hread => exec_keyDelete_taken hidle htaken (admKeyDelete_unread hk hread),
      fun hread => exec_keyDelete_waits hidle htaken (admKeyDelete_read hk hread), slotOf_deleted s1 space slot⟩,
    exec_keyInfo_taken hidle, exec_zeroise_taken,
    fun v n => ⟨(startZeroise_cry v n).1, (startZeroise_cry v n).2, keyOf_zeroing (startZeroise_cry v n).1,
      admReady_zeroise_of_zeroing (startZeroise_cry v n).1, fun u => admReady_zeroise_of_done⟩,
    fun i => ⟨exec_tamperInput_falls, exec_tamperInput_ignored, exec_tamperInputHigh_eq⟩, ?tail,
    fun v n => admReady_tail_sealed n⟩
  case load =>
    intro data s2 m mat hz hsp h0 hf hat hclear hempty hread hkey hmat hroom
    obtain ⟨hr0, hgeneral, htraffic, hmem⟩ := fillSlot_fills s2 space slot attr m.length mat
    obtain ⟨hhdr, hunits⟩ := header_filledSlot s2 space slot attr m.length mat
    refine ⟨_, _, ?_, hgeneral, htraffic, rfl, rfl, rfl, hhdr, hunits, hmem⟩
    rw [← hr0]
    exact exec_keyLoad_taken hidle htaken
      (admKeyLoad_loads hz hsp h0 hf hat hclear hempty hread hkey (htype ▸ hmat) hroom)
  case restore =>
    intro htaken bs s2 hread
    refine ⟨fun hz => exec_keyRestore_taken hidle hout htaken
        (admKeyRestore_refused hread (restoreImage_zeroised hz) (by decide)),
      fun hz hkeys => exec_keyRestore_taken hidle hout htaken
        (admKeyRestore_refused hread (restoreImage_notEmpty hz hkeys) (by decide)),
      fun hz hkeys => ⟨fun ks hopen => ⟨_, exec_keyRestore_taken hidle hout htaken
        (admKeyRestore_opened hread hz hkeys hopen), ?_, (quiet_noteSlots _).mem⟩, fun hopen =>
        exec_keyRestore_taken hidle hout htaken (admKeyRestore_refused hread ?_ (by decide))⟩⟩
    · rw [(quiet_noteSlots _).cry, hkeys, List.nil_append]
    · exact restoreImage_unopened hz hkeys hopen
  case tail =>
    intro bs s2 first last htaken hrun hphase hrecs hread hfirst hlast
    have hbody := (admBody_journalTail a (tailNamed s1)).trans
      (admJournalTail_eq (s := tailNamed s1) hrun hphase hrecs hread hfirst hlast)
    rw [exec_journalTail_taken hidle htaken hrun]
    refine ⟨fun hok => ?_, fun hbad => ?_⟩
    · rw [hok] at hbody
      obtain ⟨o, o', hjnl⟩ := jnl_takeTail s2 (tailRecs bs) first last
      have hjnl2 : s2.jnl = { s1.jnl with tailNamed := true } := (quiet_hostRead hread).jnl
      refine ⟨congrArg _ (admRun_waits hbody), ?_, ?_, ?_, ?_, ?_, fun hseal => admReady_tail_unsealed _ ?_ ?_⟩
      all_goals rw [hjnl]
      · rfl
      · rfl
      · rfl
      · rfl
      · rw [hjnl2]
        exact hseal
      · rw [hjnl2]
        exact hrun
    · rw [hbad] at hbody
      exact congrArg _ (admRun_done hbody)

end Sys2Proof.Proofs

namespace Sys2Proof.Proofs

open Sys2Proof Sys2Proof.Machine Sys2Proof.Laws

/-! # Links, lead and time in a cascade (O40: R300 to R302, R305, R306, R309, R312 to R315, R318, R323)

## Messages that are not delivered -/

section
variable {s : State} {h : KHdr} (hup : s.getF (Fld.KOL_PORT_STATUS_LINK_UP h.port.val) ≠ 0)
include hup

theorem onMessage_outOfOrder (hord : linkInOrder s h = false) (type : Nat) (body : List Byte) (f : State → State) (rev : Bool) :
    onMessage s h type body f rev = linkDiscard s h.port h.vc.val := by
  rw [onMessage, if_neg hup, hord]
  rfl

theorem onMessage_elsewhere (hord : linkInOrder s h = true) (hdest : h.dest ≠ s.node) (type : Nat) (body : List Byte)
    (f : State → State) (rev : Bool) :
    onMessage s h type body f rev = kolForward (linkReceive s h) h (msgOf h type body) rev := by
  rw [onMessage, if_neg hup, hord]
  exact if_neg hdest

end

theorem onMessage_arrives_rev {s : State} {h : KHdr} (hin : Arrives s h) (type : Nat) (body : List Byte) (f : State → State)
    (rev : Bool) : onMessage s h type body f rev = f (linkReceive s h) := by
  obtain ⟨hup, horder, hdest⟩ := hin
  rw [onMessage, if_neg hup, horder]
  exact if_pos hdest

theorem now_linkReceive (s : State) (h : KHdr) : (linkReceive s h).now = s.now := rfl

/-! ## KOL_STATUS -/

/-- A field of KOL_STATUS after a write of another one. -/
theorem getF_setF_kolStatus {f g : FieldRef} (hf : f.off = Off.KOL_STATUS) (hg : g.off = Off.KOL_STATUS)
    (hw : g.lo + g.width ≤ 64) (hd : g.lo + g.width ≤ f.lo ∨ f.lo + f.width ≤ g.lo) (s : State) (v : Nat) :
    (s.setF f v).getF g = s.getF g :=
  State.getF_setF_beside s f g v (by rw [hf]; decide) (hg.trans hf.symm) hw hd

/-- A field of another register than KOL_STATUS. -/
theorem getF_setF_notKolStatus {f g : FieldRef} (hf : f.off = Off.KOL_STATUS) (hg : g.off ≠ Off.KOL_STATUS)
    (hevt : g.off ≠ Off.SYS_EVT) (s : State) (v : Nat) : (s.setF f v).getF g = s.getF g :=
  State.getF_setF_ne s f g v (by rw [hf]; exact hg) hevt

theorem node_setF_kolStatus {f : FieldRef} (hf : f.off = Off.KOL_STATUS) (s : State) (v : Nat) : (s.setF f v).node = s.node :=
  getF_setF_notKolStatus hf (by decide) (by decide) s v

/-! ## The lead (R313) -/

/-- KOL_STATUS of a node that follows a new lead. -/
def leadNoted (s : State) (lgen lead : Nat) : State :=
  (s.setF Fld.KOL_STATUS_LGEN lgen).setF Fld.KOL_STATUS_ACTING_LEAD (b2n (decide (lead = s.node)))

theorem followLead_newer {s : State} {lgen : Nat} (h : lgenOf s < lgen) (lead : Nat) : followLead s lgen lead =
    { leadNoted s lgen lead with kol := { (leadNoted s lgen lead).kol with
      lead := lead, gwaits := if lead = s.node then (leadNoted s lgen lead).kol.gwaits else [] } } := if_pos h

theorem followLead_older {s : State} {lgen : Nat} (h : lgen ≤ lgenOf s) (lead : Nat) : followLead s lgen lead = s :=
  if_neg (Nat.not_lt.2 h)

theorem kol_leadNoted (s : State) (lgen lead : Nat) : (leadNoted s lgen lead).kol = s.kol := by
  unfold leadNoted
  rw [State.kol_setF, State.kol_setF]

/-- What a higher generation names is followed. -/
theorem followLead_follows {s : State} {lgen : Nat} (h : lgenOf s < lgen) (hlt : lgen < 65536) (lead : Nat) :
    (followLead s lgen lead).getF Fld.KOL_STATUS_LGEN = lgen ∧ (followLead s lgen lead).kol.lead = lead ∧
      (followLead s lgen lead).getF Fld.KOL_STATUS_ACTING_LEAD = if lead = s.node then 1 else 0 := by
  rw [followLead_newer h]
  refine ⟨?_, rfl, ?_⟩
  · show (leadNoted s lgen lead).getF Fld.KOL_STATUS_LGEN = lgen
    rw [leadNoted, getF_setF_kolStatus rfl rfl (by decide) (by decide),
      State.getF_setF_self _ _ _ (by decide) (by decide)]
    exact Nat.mod_eq_of_lt hlt
  · show (leadNoted s lgen lead).getF Fld.KOL_STATUS_ACTING_LEAD = _
    rw [leadNoted, State.getF_setF_self _ _ _ (by decide) (by decide)]
    by_cases hn : lead = s.node <;> simp [hn, b2n, Fld.KOL_STATUS_ACTING_LEAD]

/-- A new lead changes neither the seams nor the last HEARTBEAT. -/
theorem seams_followLead (s : State) (lgen lead : Nat) : (followLead s lgen lead).kol.tick = s.kol.tick ∧
    (followLead s lgen lead).kol.lastSeam = s.kol.lastSeam ∧ (followLead s lgen lead).kol.hbAt = s.kol.hbAt := by
  by_cases h : lgenOf s < lgen
  · have hkol := kol_leadNoted s lgen lead
    rw [followLead_newer h, ← hkol]
    exact ⟨rfl, rfl, rfl⟩
  · rw [followLead_older (Nat.not_lt.1 h)]
    exact ⟨rfl, rfl, rfl⟩

/-- The state once a HEARTBEAT is noted. -/
def heartbeatNoted (s : State) (src : Nat) : State :=
  let s1 := { s with kol := { s.kol with hbAt := s.now } }
  if actingLead s ∧ src = s.getF Fld.KOL_ROLE_DEPUTY then s1.setF Fld.KOL_STATUS_NO_DEPUTY 0 else s1

theorem heartbeatNoted_keeps (s : State) (src : Nat) : (heartbeatNoted s src).kol = { s.kol with hbAt := s.now } ∧
    lgenOf (heartbeatNoted s src) = lgenOf s ∧ (heartbeatNoted s src).node = s.node := by
  unfold heartbeatNoted
  dsimp only
  split
  · exact ⟨State.kol_setF _ _ _, getF_setF_kolStatus rfl rfl (by decide) (by decide) _ _, node_setF_kolStatus rfl _ _⟩
  · exact ⟨rfl, rfl, rfl⟩

section
variable {s : State} {h : KHdr} (hin : Arrives s h)
include hin

theorem exec_heartbeat_arrives (lgen : Nat) (route : Bool) (sent : Nat) :
    exec (.heartbeat h lgen route sent) s = .next (followLead (heartbeatNoted (linkReceive s h) h.src) lgen h.src) := by
  rw [exec_heartbeat, execHeartbeat, onMessage_arrives_rev hin]
  rfl

/-- R313: a HEARTBEAT is noted, and one of a higher generation names its sender the lead. -/
theorem heartbeat_noted (lgen : Nat) (route : Bool) (sent : Nat) :
    let u := linkReceive s h
    ∃ t, exec (.heartbeat h lgen route sent) s = .next t ∧ t.kol.hbAt = s.now ∧
      (u.getF Fld.KOL_STATUS_LGEN < lgen → lgen < 65536 → t.getF Fld.KOL_STATUS_LGEN = lgen ∧ t.kol.lead = h.src ∧
        t.getF Fld.KOL_STATUS_ACTING_LEAD = (if h.src = u.node then 1 else 0)) ∧
      (lgen ≤ u.getF Fld.KOL_STATUS_LGEN → t.getF Fld.KOL_STATUS_LGEN = u.getF Fld.KOL_STATUS_LGEN ∧
        t.kol.lead = u.kol.lead) := by
  intro u
  obtain ⟨hkol, hlgen, hnode⟩ := heartbeatNoted_keeps u h.src
  obtain ⟨-, -, hhb⟩ := seams_followLead (heartbeatNoted u h.src) lgen h.src
  have hat : (heartbeatNoted u h.src).kol.hbAt = s.now := by rw [hkol]; exact now_linkReceive s h
  refine ⟨_, exec_heartbeat_arrives hin lgen route sent, hhb.trans hat, fun hgt hlt => ?_, fun hle => ?_⟩
  · rw [← hnode]
    exact followLead_follows (hlgen.symm ▸ hgt) hlt h.src
  · rw [followLead_older (hlgen.symm ▸ hle)]
    exact ⟨hlgen, by rw [hkol]⟩

theorem exec_takeover_arrives (lgen lead : Nat) :
    exec (.takeover h lgen lead) s = .next (followLead (linkReceive s h) lgen lead) := by
  rw [exec_takeover, execTakeover, onMessage_of_arrives hin]

theorem takeover_follows (lgen lead : Nat) :
    let u := linkReceive s h
    ∃ t, exec (.takeover h lgen lead) s = .next t ∧
      (u.getF Fld.KOL_STATUS_LGEN < lgen → lgen < 65536 → t.getF Fld.KOL_STATUS_LGEN = lgen ∧ t.kol.lead = lead ∧
        t.getF Fld.KOL_STATUS_ACTING_LEAD = (if lead = u.node then 1 else 0)) ∧
      (lgen ≤ u.getF Fld.KOL_STATUS_LGEN → t = u) :=
  ⟨_, exec_takeover_arrives hin lgen lead, fun hgt hlt => followLead_follows hgt hlt lead,
    fun hle => followLead_older hle lead⟩

/-! ## Links that fail elsewhere (R306) -/

theorem exec_linkstate_arrives (node : Nat) (bond : Fin 8) (recovered : Bool) :
    exec (.linkstate h node bond recovered) s =
      .next (noteAbsences (linkReceive s h) { linkReceive s h with kol := { (linkReceive s h).kol with
        down := ((linkReceive s h).kol.down.filter fun x => x != (node, bond.val)) ++
          (if recovered then [] else [(node, bond.val)]) } }) := by
  rw [exec_linkstate, execLinkstate, onMessage_of_arrives hin]
  dsimp only
  cases recovered with
  | true => rw [if_pos rfl, if_pos rfl, List.append_nil]
  | false => rfl

end

/-! ## Seams (R313, R314) -/

theorem kol_noteJoined (s : State) : (noteJoined s).kol = s.kol := by
  unfold noteJoined
  dsimp only
  rw [apply_ite State.kol, State.kol_setF, ite_self]

/-- The seam that the node names next after a TICK. -/
def tickTaken (s : State) (seam gepoch gen lgen src : Nat) : State :=
  let s1 := followLead s lgen src
  if (match s.kol.lastSeam with | some t => decide (seam ≤ t.seam) | none => false) then s1
  else noteJoined { s1 with kol := { s1.kol with tick := some { seam := seam, gepoch := gepoch, gen := gen } } }

section
variable {s : State} {seam gepoch gen lgen src : Nat}

theorem tick_tickTaken_ahead (h : ∀ l, s.kol.lastSeam = some l → l.seam < seam) :
    (tickTaken s seam gepoch gen lgen src).kol.tick = some { seam := seam, gepoch := gepoch, gen := gen } := by
  have hnot : ¬(match s.kol.lastSeam with | some t => decide (seam ≤ t.seam) | none => false) = true := by
    cases hl : s.kol.lastSeam with
    | none => exact Bool.false_ne_true
    | some l =>
      rw [decide_eq_true_iff]
      exact Nat.not_le.2 (h l hl)
  unfold tickTaken
  dsimp only
  rw [if_neg hnot, kol_noteJoined]

theorem tick_tickTaken_passed {l : KTick} (hl : s.kol.lastSeam = some l) (h : seam ≤ l.seam) :
    (tickTaken s seam gepoch gen lgen src).kol.tick = s.kol.tick := by
  unfold tickTaken
  rw [hl]
  dsimp only
  rw [if_pos (decide_eq_true h)]
  exact (seams_followLead s lgen src).1

end

section
variable {s : State} {h : KHdr} (hin : Arrives s h) {lgen : Nat} (seam gepoch gen : Nat)
include hin

theorem exec_tick_lower (hlow : lgen < (linkReceive s h).getF Fld.KOL_STATUS_LGEN) :
    exec (.tick h seam gepoch gen lgen) s = .next (linkReceive s h) := by
  rw [exec_tick, execTick, onMessage_of_arrives hin]
  exact congrArg _ (if_pos hlow)

theorem exec_tick_taken (hle : (linkReceive s h).getF Fld.KOL_STATUS_LGEN ≤ lgen) :
    exec (.tick h seam gepoch gen lgen) s = .next (tickTaken (linkReceive s h) seam gepoch gen lgen h.src) := by
  rw [exec_tick, execTick, onMessage_of_arrives hin]
  exact congrArg _ (if_neg (Nat.not_lt.2 hle))

end

/-! ## Time (R315) -/

theorem exec_timeRequest_lead {s : State} {h : KHdr} (hin : Arrives s h) (t1 : Nat) (hlead : actingLead (linkReceive s h) = true) :
    exec (.timeRequest h t1) s = .next (kolSendReserved (linkReceive s h)
      { type := 0x05, dest := h.src, body := timeBody 1 t1 s.now s.now }) := by
  rw [exec_timeRequest, execTimeRequest, onMessage_of_arrives hin]
  exact congrArg _ (if_pos hlead)

/-- A node's offset from the lead (R315). -/
def timeOfs (now t1 t2 t3 : Nat) : Int := (((t1 : Int) - t2) + ((now : Int) - t3)) / 2

/-- The state once the offset is stored. -/
def ofsStored (s : State) (ofs : Int) : State := s.setF Fld.KOL_TIME_OFS_OFS (ofSigned 64 ofs)

section
variable {s : State} {h : KHdr} (hin : Arrives s h) (t1 t2 t3 : Nat)
include hin

theorem exec_timeAnswer_arrives : exec (.timeAnswer h t1 t2 t3) s = .next
    (if ((linkReceive s h).getF Fld.KOL_TIME_SKEW_NS : Int) < timeOfs s.now t1 t2 t3 ∨
        timeOfs s.now t1 t2 t3 < -((linkReceive s h).getF Fld.KOL_TIME_SKEW_NS : Int) then
      ((ofsStored (linkReceive s h) (timeOfs s.now t1 t2 t3)).setF Fld.KOL_STATUS_SKEW 1).report
        { island := 39, unit := 0xFF, cls := .environment, severity := 5, detail := ofSigned 64 (timeOfs s.now t1 t2 t3) }
    else ofsStored (linkReceive s h) (timeOfs s.now t1 t2 t3)) := by
  rw [exec_timeAnswer, execTimeAnswer, onMessage_of_arrives hin]
  rfl

theorem exec_timeAnswer_near (hnear : (timeOfs s.now t1 t2 t3).natAbs ≤ (linkReceive s h).getF Fld.KOL_TIME_SKEW_NS) :
    exec (.timeAnswer h t1 t2 t3) s = .next (ofsStored (linkReceive s h) (timeOfs s.now t1 t2 t3)) := by
  rw [exec_timeAnswer_arrives hin, if_neg (by omega)]

theorem timeAnswer_skewed (hfar : (linkReceive s h).getF Fld.KOL_TIME_SKEW_NS < (timeOfs s.now t1 t2 t3).natAbs) :
    ∃ t, exec (.timeAnswer h t1 t2 t3) s = .next t ∧ t.getF Fld.KOL_STATUS_SKEW = 1 := by
  refine ⟨_, (exec_timeAnswer_arrives hin t1 t2 t3).trans (congrArg _ (if_pos (by omega))), ?_⟩
  rw [getF_report _ _ (by decide), State.getF_setF_self _ _ _ (by decide) (by decide)]
  rfl

end

/-! ## The shard map (R309, R318) -/

/-- A generation of the map of which nothing has arrived yet. -/
def emptyMap (gen : Nat) : NewMap := { gen := gen, entries := [], full := false }

theorem mapEntries_empty {gen first : Nat} {es : List Nat} (hlen : es.length < 65536) :
    (mapEntries (emptyMap gen) first es).gen = gen ∧ (mapEntries (emptyMap gen) first es).full = false ∧
      ∀ i, i < es.length → (first + i, es.getD i 0) ∈ (mapEntries (emptyMap gen) first es).entries := by
  have hentries : (mapEntries (emptyMap gen) first es).entries =
      (List.range es.length).map fun i => (first + i, es.getD i 0) := List.nil_append _
  refine ⟨rfl, ?_, fun i hi => ?_⟩
  · show decide (65536 ≤ (mapEntries (emptyMap gen) first es).entries.length) = false
    rw [hentries, List.length_map, List.length_range]
    exact decide_eq_false (Nat.not_le.2 hlen)
  · rw [hentries]
    exact List.mem_map.2 ⟨i, List.mem_range.2 hi, rfl⟩

theorem map_entered {s : State} {h : KHdr} (hin : Arrives s h) {gen first : Nat} {es : List Nat}
    (hnone : (linkReceive s h).kol.map = none) (hnew : (linkReceive s h).getF Fld.KOL_STATUS_SMAP_GEN < gen)
    (hlen : es.length < 65536) :
    ∃ t m, exec (.map h gen first es) s = .next t ∧ t.kol.map = some m ∧ m.gen = gen ∧ m.full = false ∧
      ∀ i, i < es.length → (first + i, es.getD i 0) ∈ m.entries := by
  obtain ⟨hgen, hfull, hentries⟩ := mapEntries_empty (gen := gen) (first := first) hlen
  refine ⟨noteJoined { linkReceive s h with kol := { (linkReceive s h).kol with
    map := some (mapEntries (emptyMap gen) first es) } }, _, ?_, by rw [kol_noteJoined], hgen, hfull, hentries⟩
  rw [exec_map, execMap, onMessage_of_arrives hin]
  dsimp only
  rw [hnone]
  dsimp only
  rw [if_neg (Nat.not_le.2 hnew)]
  dsimp only
  unfold emptyMap at hfull ⊢
  rw [hfull, if_neg fun h => absurd h.1 (by decide)]

/-! ## Resends and ports (R300, R302, R306) -/

/-- The flits that a NAK sends again, each resent once more (R300). -/
def resentFlits (s : State) (p : Fin 8) (ack : Nat) : List SentFlit :=
  (s.kol.ports[p].sent.filter fun q => !seqLe q.seq ack).map fun q => { q with resends := q.resends + 1 }

theorem sent_modPort (s : State) (p : Fin 8) (f : KPort → KPort) : (s.modPort p f).kol.ports[p] = f s.kol.ports[p] := by
  unfold State.modPort
  simp

/-- The state once the flits after ACK have been sent again. -/
def flitsResent (s : State) (p : Fin 8) (again : List SentFlit) : State :=
  let s1 := s.modPort p fun k => { k with sent := again }
  ({ s1 with out := s1.out ++ again.reverse.map fun q => Emit.flit p q.bytes } : State).bump Off.KOL_RETRY_CNT again.length

theorem resendFrom_eq (s : State) (p : Fin 8) (ack : Nat) : resendFrom s p ack =
    if (resentFlits s p ack).any fun q => decide (s.getF Fld.KOL_LINK_RETRY_MAX ≤ q.resends) then
      failKport (flitsResent s p (resentFlits s p ack)) p
    else flitsResent s p (resentFlits s p ack) := by
  have hsent : ((s.modPort p fun k => { k.acked ack with
      sent := (k.acked ack).sent.map fun q => { q with resends := q.resends + 1 } }).kol.ports[p]).sent =
        resentFlits s p ack := by
    rw [sent_modPort]
    rfl
  unfold resendFrom
  dsimp only
  rw [hsent]
  rfl

section
variable {s : State} {p : Fin 8} (hup : s.getF (Fld.KOL_PORT_STATUS_LINK_UP p.val) ≠ 0)
include hup

theorem exec_linkResend_nak (ack : Nat) : exec (.linkResend p (.nak ack)) s = .next (resendFrom s p ack) := by
  rw [exec_linkResend, execLinkResend, if_neg hup]

theorem exec_linkResend_first (hn : s.kol.ports[p].naked = false) :
    exec (.linkResend p .badFlit) s = .next (sendControl (s.modPort p fun k => { k with naked := true }) p 0 true) := by
  rw [exec_linkResend, execLinkResend, if_neg hup, linkDiscard, hn, if_neg (by decide)]

theorem exec_linkResend_later (hn : s.kol.ports[p].naked = true) : exec (.linkResend p .badFlit) s = .next s := by
  rw [exec_linkResend, execLinkResend, if_neg hup, linkDiscard, if_pos hn]

end

theorem exec_bondRecover_noClock {s : State} {p : Fin 8} (hclk : RefClk.kol ∈ s.pwr.clkLost) :
    exec (.bondRecover p) s = .next s := by
  rw [exec_bondRecover, execBondRecover]
  dsimp only
  rw [if_pos (.inr (.inr (List.contains_iff_mem.2 hclk)))]

/-- The state once a port is up again. -/
def portUp (s : State) (p : Fin 8) : State := s.setF (Fld.KOL_PORT_STATUS_LINK_UP p.val) 1

theorem portStatus_ne (p : Fin 8) {a : Nat} (ha : a < 0xC0100) : a ≠ (Fld.KOL_PORT_STATUS_LINK_UP p.val).off := by
  show a ≠ 0xC0100 + 8 * p.val
  omega

theorem getF_portUp (s : State) (p : Fin 8) {g : FieldRef} (hg : g.off < 0xC0100) (hevt : g.off ≠ Off.SYS_EVT) :
    (portUp s p).getF g = s.getF g := State.getF_setF_ne _ _ _ _ (portStatus_ne p hg) hevt

theorem kolSizes_portUp (s : State) (p : Fin 8) : kolSizes (portUp s p) = kolSizes s := by
  unfold kolSizes
  rw [getF_portUp s p (by decide) (by decide), getF_portUp s p (by decide) (by decide), getF_portUp s p (by decide) (by decide),
    getF_portUp s p (by decide) (by decide)]

theorem kolNeighbour_portUp (s : State) (p : Fin 8) : kolNeighbour (portUp s p) p = kolNeighbour s p := by
  have hnode : (portUp s p).node = s.node := getF_portUp s p (by decide) (by decide)
  unfold kolNeighbour
  rw [kolSizes_portUp, hnode, getF_portUp s p (by decide) (by decide)]

theorem exec_bondRecover_up {s : State} {p : Fin 8} (hbond : bondOf (s.getF Fld.KOL_CTRL_TOPO) p < 8)
    (hdown : s.getF (Fld.KOL_PORT_STATUS_LINK_UP p.val) = 0) (hnone : s.kol.down = []) (hclk : RefClk.kol ∉ s.pwr.clkLost) :
    exec (.bondRecover p) s = .next (((portUp s p).setF (Fld.KOL_PORT_STATUS_NEIGHBOUR p.val) (kolNeighbour s p)).modPort p
      fun _ => KPort.reset) := by
  have hgo : ¬(8 ≤ bondOf (s.getF Fld.KOL_CTRL_TOPO) p ∨ s.getF (Fld.KOL_PORT_STATUS_LINK_UP p.val) = 1 ∨
      s.pwr.clkLost.contains .kol = true) := by
    rintro (h | h | h)
    · omega
    · omega
    · exact hclk (List.contains_iff_mem.1 h)
  have hlearn : learnNeighbour (portUp s p) p =
      (portUp s p).setF (Fld.KOL_PORT_STATUS_NEIGHBOUR p.val) (kolNeighbour s p) := by
    unfold learnNeighbour
    rw [getF_portUp s p (by decide) (by decide), if_pos hbond, kolNeighbour_portUp]
  rw [exec_bondRecover, execBondRecover]
  dsimp only
  rw [if_neg hgo, hnone, if_neg (by simp)]
  unfold portUp at hlearn ⊢
  rw [hlearn]

/-! ## What lead and deputy send (R313, R314) -/

theorem exec_heartbeatSend_sends {s : State} (hrole : actingLead s = true ∨ isDeputy s = true)
    (hdest : (if actingLead s then s.getF Fld.KOL_ROLE_DEPUTY else s.kol.lead) ≠ s.node) :
    exec (.heartbeatSend) s = .next (kolSend (kolSend s
      { type := 0x01, dest := if actingLead s then s.getF Fld.KOL_ROLE_DEPUTY else s.kol.lead,
        body := heartbeatBody (lgenOf s) false s.now })
      { type := 0x01, dest := if actingLead s then s.getF Fld.KOL_ROLE_DEPUTY else s.kol.lead,
        body := heartbeatBody (lgenOf s) true s.now } true) := by
  rw [exec_heartbeatSend, execHeartbeatSend]
  dsimp only
  rw [if_pos ⟨hrole, hdest⟩]

/-- What sending messages leaves of Kolat but its links. -/
def SameLead (s t : State) : Prop := t.regs = s.regs ∧ t.kol.lead = s.kol.lead ∧ t.kol.tick = s.kol.tick

theorem sameLead_kolSend (s : State) (m : KMsg) : SameLead s (kolSend s m) := by
  unfold kolSend
  split <;> exact ⟨rfl, rfl, rfl⟩

theorem sameLead_kolSendAll (s : State) (ns : List Nat) (f : Nat → KMsg) : SameLead s (kolSendAll s ns f) :=
  foldl_inv (P := SameLead s) ⟨rfl, rfl, rfl⟩ _ fun u n ⟨hregs, hlead, htick⟩ =>
    have ⟨hregs', hlead', htick'⟩ := sameLead_kolSend u (f n)
    ⟨hregs'.trans hregs, hlead'.trans hlead, htick'.trans htick⟩

theorem getF_of_regs {s t : State} (h : t.regs = s.regs) (g : FieldRef) : t.getF g = s.getF g :=
  State.getF_congr g (State.reg_congr h _)

/-- KOL_STATUS of a deputy that takes over. -/
def deputyLeads (s : State) : State :=
  (s.setF Fld.KOL_STATUS_LGEN ((lgenOf s + 1) % 65536)).setF Fld.KOL_STATUS_ACTING_LEAD 1

theorem getF_deputyLeads (s : State) : (deputyLeads s).getF Fld.KOL_STATUS_ACTING_LEAD = 1 ∧
    (deputyLeads s).getF Fld.KOL_STATUS_LGEN = (lgenOf s + 1) % 65536 := by
  unfold deputyLeads
  refine ⟨?_, ?_⟩
  · rw [State.getF_setF_self _ _ _ (by decide) (by decide)]
    rfl
  · rw [getF_setF_kolStatus rfl rfl (by decide) (by decide), State.getF_setF_self _ _ _ (by decide) (by decide)]
    have hwidth : 2 ^ Fld.KOL_STATUS_LGEN.width = 65536 := rfl
    rw [hwidth, Nat.mod_mod]

/-- The lead of a state. -/
def withLead (s : State) (lead : Nat) (acks : List Nat) : State :=
  { s with kol := { s.kol with lead := lead, mapAcked := acks } }

theorem getF_withLead (s : State) (lead : Nat) (acks : List Nat) (g : FieldRef) : (withLead s lead acks).getF g = s.getF g := rfl

/-- The members that hold the newest generation of the map as the new lead knows them (R318). -/
def takeoverAcks (s : State) : List Nat :=
  match s.kol.map with
  | some m => if m.full then ((m.entries.map fun (e : Nat × Nat) => e.2 % 1024) ++ members s).eraseDups else s.kol.mapAcked
  | none => s.kol.mapAcked

section
variable {s : State} (hlost : s.kol.hbAt + 1000 * s.getF Fld.KOL_LEAD_LOSS_US ≤ s.now)
include hlost

/-- R313: the deputy takes over and announces it to the members. -/
theorem exec_leadLossTimeout_deputy (hdep : isDeputy s = true) : exec (.leadLossTimeout) s =
    .next (kolSendAll (withLead (deputyLeads s) s.node (takeoverAcks s))
      ((members (withLead (deputyLeads s) s.node (takeoverAcks s))).filter fun n => n != s.node)
      fun n => { type := 0x04, dest := n, body := leBytes 2 ((lgenOf s + 1) % 65536) ++ leBytes 2 s.node ++ zeros 4 }) := by
  rw [exec_leadLossTimeout, execLeadLossTimeout, if_neg (Nat.not_lt.2 hlost), if_pos hdep]
  rfl

theorem leadLoss_takes (hdep : isDeputy s = true) : ∃ t, exec (.leadLossTimeout) s = .next t ∧
    t.getF Fld.KOL_STATUS_ACTING_LEAD = 1 ∧ t.getF Fld.KOL_STATUS_LGEN = (s.getF Fld.KOL_STATUS_LGEN + 1) % 65536 ∧
    t.kol.lead = s.node := by
  obtain ⟨hacting, hlgen⟩ := getF_deputyLeads s
  refine ⟨_, exec_leadLossTimeout_deputy hlost hdep, ?_⟩
  obtain ⟨hregs, hlead, -⟩ := sameLead_kolSendAll (withLead (deputyLeads s) s.node (takeoverAcks s)) _ _
  rw [getF_of_regs hregs, getF_of_regs hregs, getF_withLead, getF_withLead]
  exact ⟨hacting, hlgen, hlead⟩

theorem exec_leadLossTimeout_lead (hlead : actingLead s = true) :
    exec (.leadLossTimeout) s = .next (s.setF Fld.KOL_STATUS_NO_DEPUTY 1) := by
  have hnot : isDeputy s = false := by unfold isDeputy; rw [hlead, Bool.not_true, Bool.and_false]
  rw [exec_leadLossTimeout, execLeadLossTimeout, if_neg (Nat.not_lt.2 hlost), hnot, if_neg (by decide), if_pos hlead]

end

/-- The next seam named. -/
def seamNamed (s : State) (t : KTick) : State := { s with kol := { s.kol with tick := some t } }

theorem tickSend_names {s : State} (hlead : actingLead s = true) (hnone : s.kol.tick = none)
    (hfar : s.now + 500000 ≤ (leadSeam s).1) : ∃ t, exec (.tickSend) s = .next t ∧
      t.kol.tick = some { seam := (leadSeam s).1, gepoch := (leadSeam s).2, gen := newestGen s } := by
  refine ⟨kolSendAll (noteJoined (seamNamed s { seam := (leadSeam s).1, gepoch := (leadSeam s).2, gen := newestGen s }))
    ((members s).filter fun n => n != s.node) fun n =>
      { type := 0x02, dest := n, body := tickBody (leadSeam s).1 (leadSeam s).2 (newestGen s) (lgenOf s) }, ?_, ?_⟩
  · rw [exec_tickSend, execTickSend]
    dsimp only
    rw [if_pos ⟨hlead, hnone, hfar⟩]
    rfl
  · obtain ⟨-, -, htick⟩ := sameLead_kolSendAll
      (noteJoined (seamNamed s { seam := (leadSeam s).1, gepoch := (leadSeam s).2, gen := newestGen s }))
      ((members s).filter fun n => n != s.node) fun n =>
        { type := 0x02, dest := n, body := tickBody (leadSeam s).1 (leadSeam s).2 (newestGen s) (lgenOf s) }
    rw [htick, kol_noteJoined]
    rfl

theorem tickMiss_names {s : State} {t : KTick} (hlast : s.kol.lastSeam = some t) (hnone : s.kol.tick = none)
    (hdue : t.seam + 1000 * s.getF Fld.JNL_EPOCH_LEN_US ≤ s.now + 100000) :
    ∃ v, exec (.tickMiss) s = .next v ∧ v.getF Fld.KOL_STATUS_TICK_MISS = 1 ∧
      v.kol.tick = some { seam := t.seam + 1000 * s.getF Fld.JNL_EPOCH_LEN_US, gepoch := t.gepoch + 1,
                          gen := s.getF Fld.KOL_STATUS_SMAP_GEN } := by
  have hmiss : (s.setF Fld.KOL_STATUS_TICK_MISS 1).getF Fld.KOL_STATUS_TICK_MISS = 1 := by
    rw [State.getF_setF_self _ _ _ (by decide) (by decide)]
    rfl
  refine ⟨{ s.setF Fld.KOL_STATUS_TICK_MISS 1 with
    kol := { s.kol with tick := some { seam := t.seam + 1000 * s.getF Fld.JNL_EPOCH_LEN_US, gepoch := t.gepoch + 1,
                                       gen := s.getF Fld.KOL_STATUS_SMAP_GEN } } }, ?_, hmiss, rfl⟩
  rw [exec_tickMiss, execTickMiss, hlast, hnone]
  dsimp only
  rw [if_pos hdue]

theorem exec_timeExchange_asks {s : State} (hnot : actingLead s = false) (htopo : s.getF Fld.KOL_CTRL_TOPO ≠ 0) :
    exec (.timeExchange) s = .next (kolSend s { type := 0x05, dest := s.kol.lead, body := timeBody 0 s.now 0 0 }) := by
  have hgo : ¬(actingLead s = true ∨ s.getF Fld.KOL_CTRL_TOPO = 0) := by
    rw [hnot]
    exact fun h => h.elim (by decide) htopo
  rw [exec_timeExchange, execTimeExchange, if_neg hgo]

theorem kolEnable_written (s : State) (v : Bool) : ∃ t, exec (.kolEnableWrite v) s = .next t ∧
    t.getF Fld.KOL_CTRL_ENABLE = (if v then 1 else 0) ∧ t.kol = s.kol ∧ t.mem = s.mem := by
  refine ⟨s.setF Fld.KOL_CTRL_ENABLE (b2n v), exec_kolEnableWrite .., ?_, State.kol_setF .., State.mem_setF ..⟩
  rw [State.getF_setF_self _ _ _ (by decide) (by decide)]
  cases v <;> rfl

/-! ## The obligation -/

/-- Settles O40: each message and each event of links, lead and time by its lemma above. -/
theorem cascadeLinks : Obligations.CascadeLinks := by
  unfold Obligations.CascadeLinks
  intro s h p
  refine ⟨fun hup type body f rev => ⟨fun hord => onMessage_outOfOrder hup hord type body f rev,
      fun hord hdest => onMessage_elsewhere hup hord hdest type body f rev⟩,
    fun hin => ⟨exec_linkstate_arrives hin, heartbeat_noted hin, takeover_follows hin,
      fun seam gepoch gen lgen => ⟨exec_tick_lower hin seam gepoch gen, fun hle =>
        ⟨_, exec_tick_taken hin seam gepoch gen hle, tick_tickTaken_ahead, fun l => tick_tickTaken_passed⟩⟩,
      exec_timeRequest_lead hin,
      fun t1 t2 t3 => ⟨exec_timeAnswer_near hin t1 t2 t3, timeAnswer_skewed hin t1 t2 t3⟩,
      fun gen first es => map_entered hin⟩,
    fun hup => ⟨fun ack => (exec_linkResend_nak hup ack).trans (congrArg _ (resendFrom_eq s p ack)),
      exec_linkResend_first hup, exec_linkResend_later hup⟩,
    ⟨exec_kportFail .., exec_kportFail ..⟩, exec_bondRecover_noClock, exec_bondRecover_up, exec_heartbeatSend_sends,
    fun hlost => ⟨leadLoss_takes hlost, exec_leadLossTimeout_lead hlost⟩, tickSend_names, fun t => tickMiss_names,
    exec_timeExchange_asks, kolEnable_written s⟩

end Sys2Proof.Proofs

namespace Sys2Proof.Proofs

open Sys2Proof Sys2Proof.Machine Sys2Proof.Laws

/-! # The life of a crypto job (O47: R262, R264 to R269, R272, R276, R278, R279, R397)

## The first of a list -/

/-- Keeps the one that comes first. -/
def keepFirst {α : Type} (lt : α → α → Bool) (acc : Option α) (x : α) : Option α :=
  match acc with
  | none => some x
  | some y => if lt x y then some x else acc

section
variable {α : Type} {lt : α → α → Bool} (htrans : ∀ x y z, lt x y = true → lt y z = true → lt x z = true)
  (hirrefl : ∀ x, lt x x = false)
include htrans hirrefl

/-- What comes no later than another does not come after it. -/
theorem not_before_of_first {x r : α} (h : r = x ∨ lt r x = true) : lt x r = false := by
  obtain rfl | h := h
  · exact hirrefl r
  · by_contra hx
    exact absurd (htrans x r x (by simpa using hx) h) (by rw [hirrefl]; decide)

/-- The one that is kept comes from the list or was there, and nothing comes before it. -/
theorem foldl_keepFirst {l : List α} {acc : Option α} {r : α} (h : l.foldl (keepFirst lt) acc = some r) :
    (∀ y, acc = some y → r = y ∨ lt r y = true) ∧ (∀ x ∈ l, lt x r = false) ∧ (r ∈ l ∨ acc = some r) := by
  induction l generalizing acc with
  | nil =>
    subst h
    exact ⟨fun y hy => .inl (Option.some.inj hy), nofun, .inr rfl⟩
  | cons a l ih =>
    obtain ⟨hacc, hlist, hmem⟩ := ih h
    rw [List.forall_mem_cons, List.mem_cons]
    cases acc with
    | none =>
      refine ⟨nofun, ⟨not_before_of_first htrans hirrefl (hacc a rfl), hlist⟩, .inl ?_⟩
      exact hmem.elim .inr fun ha => .inl (Option.some.inj ha).symm
    | some y =>
      have hstep : keepFirst lt (some y) a = if lt a y then some a else some y := rfl
      rw [hstep] at hacc hmem
      by_cases hay : lt a y = true
      · rw [if_pos hay] at hacc hmem
        refine ⟨?_, ⟨not_before_of_first htrans hirrefl (hacc a rfl), hlist⟩, .inl ?_⟩
        · rintro _ ⟨⟩
          obtain rfl | hra := hacc a rfl
          · exact .inr hay
          · exact .inr (htrans _ _ _ hra hay)
        · exact hmem.elim .inr fun ha => .inl (Option.some.inj ha).symm
      · rw [if_neg hay] at hacc hmem
        refine ⟨hacc, ⟨?_, hlist⟩, hmem.imp_left .inr⟩
        by_contra hne
        have har : lt a r = true := by simpa using hne
        obtain rfl | hry := hacc y rfl
        · exact hay har
        · exact hay (htrans _ _ _ har hry)

end

theorem takesFirst_trans {e : Fin 48} (i j k : CJob) (hij : takesFirst e i j = true) (hjk : takesFirst e j k = true) :
    takesFirst e i k = true := by
  simp only [takesFirst, older, Bool.or_eq_true, Bool.and_eq_true, decide_eq_true_eq, beq_iff_eq, bne_iff_ne] at *
  omega

theorem takesFirst_irrefl (e : Fin 48) (i : CJob) : takesFirst e i i = false := by
  simp [takesFirst, older]

/-! ## The engine takes a job (R12, R265, R266, R272) -/

/-- A job that an engine may take now. -/
def takable (s : State) (k : EngineKind) (e : Fin 48) (j : CJob) : Bool :=
  decide (j.kind = k ∧ j.st = .waiting) && mayTake s e j && !(s.cry.zeroing && (jobRandom j.op j.outCap != 0))

theorem nextJob_eq (s : State) (k : EngineKind) (e : Fin 48) :
    nextJob s k e = (s.cry.jobs.filter (takable s k e)).foldl (keepFirst (takesFirst e)) none := by
  unfold nextJob
  refine congrArg (fun f => List.foldl f none _) ?_
  funext acc x
  cases acc <;> rfl

theorem takable_iff {s : State} {k : EngineKind} {e : Fin 48} {j : CJob} : takable s k e j = true ↔
    j.kind = k ∧ j.st = .waiting ∧ mayTake s e j = true ∧ (s.cry.zeroing = true → jobRandom j.op j.outCap = 0) := by
  cases hz : s.cry.zeroing <;> simp [takable, hz, and_assoc]

/-- The job that an engine takes is one that it may take, and none of those comes before it. -/
theorem nextJob_first {s : State} {k : EngineKind} {e : Fin 48} {j : CJob} (h : nextJob s k e = some j) :
    takable s k e j = true ∧ j ∈ s.cry.jobs ∧ ∀ i ∈ s.cry.jobs, takable s k e i = true → takesFirst e i j = false := by
  rw [nextJob_eq] at h
  obtain ⟨-, hfirst, hmem⟩ := foldl_keepFirst takesFirst_trans (takesFirst_irrefl e) h
  obtain ⟨hin, htake⟩ := List.mem_filter.1 (hmem.resolve_right nofun)
  exact ⟨htake, hin, fun i hi ht => hfirst i (List.mem_filter.2 ⟨hi, ht⟩)⟩

section
variable {s : State} {k : EngineKind} {e : Fin 48} {j : CJob}

theorem exec_cryptoJobStart_takes (htakes : engineTakes s k e = true) (hfree : engineBusy s k e = false)
    (hnext : nextJob s k e = some j) : exec (.cryptoJobStart k e) s =
      .next (settleJobs ((startJob s j e).modJob j.id fun i => { i with data := jobData (startJob s j e) i })) := by
  rw [exec_cryptoJobStart, execCryptoJobStart, htakes, hfree, if_neg (by decide), hnext]

theorem exec_cryptoJobStart_not (hnot : engineTakes s k e = false ∨ engineBusy s k e = true) :
    exec (.cryptoJobStart k e) s = .next s := by
  have hcond : (!engineTakes s k e || engineBusy s k e) = true := by
    obtain h | h := hnot
    · rw [h]
      rfl
    · rw [h, Bool.or_true]
  rw [exec_cryptoJobStart, execCryptoJobStart, if_pos hcond]

theorem startJob_ok {ks : Option KeySlot × Option KeySlot} (hkeys : j.keys = none) (hok : jobKeys s j = .ok ks) :
    startJob s j e = s.modJob j.id fun i => { i with st := .running e s.now, keys := some ks } := by
  rw [startJob, hkeys]
  dsimp only
  rw [hok]

theorem startJob_error {st : Nat} (hkeys : j.keys = none) (herr : jobKeys s j = .error st) :
    startJob s j e = endJob s j st 0 [] := by
  rw [startJob, hkeys]
  dsimp only
  rw [herr]

/-- A job that is issued again keeps the keys that it read (R276). -/
theorem startJob_again {ks : Option KeySlot × Option KeySlot} (hkeys : j.keys = some ks) :
    startJob s j e = s.modJob j.id fun i => { i with st := .running e s.now, keys := some ks } := by
  rw [startJob, hkeys]

/-! ## The job ends (R262, R266, R268) -/

theorem exec_completionLatch_running {t0 : Nat} (hjob : s.job? j.id = some j) (hst : j.st = .running e t0) :
    exec (.completionLatch j.id) s = .next (settleJobs (finishJob s j e)) := by
  rw [exec_completionLatch, execCompletionLatch, hjob]
  dsimp only
  rw [hst]

/-- What a job computes of its input, with the bytes that it draws. -/
def jobOutcome (s : State) (j : CJob) (inp aux : List Byte) : JobRes :=
  jobCompute j.op j.param j.mlen j.outCap j.slots.1 j.slots.2 inp aux (s.random (jobRandom j.op j.outCap)).1

/-- The state once a job has drawn its random bytes. -/
def jobDrawn (s : State) (j : CJob) : State := (s.random (jobRandom j.op j.outCap)).2

theorem finishJob_of_input {inp aux : List Byte} (h : jobInput s j = (some (inp, aux), s)) :
    finishJob s j e = latchJob (jobDrawn s j) s j e inp (jobOutcome s j inp aux) := by
  rw [finishJob, h]
  rfl

theorem jobInput_program {inp aux : List Byte} (hwho : j.who = .program) (hinp : readCaptured s j.inp = (some inp, s))
    (haux : readCaptured s j.aux = (some aux, s)) : jobInput s j = (some (inp, aux), s) := by
  rw [jobInput, if_neg (not_not.2 hwho), hinp]
  dsimp only
  rw [haux]

theorem jobInput_kept (hwho : j.who ≠ .program) : jobInput s j = (some (j.input, []), s) := if_pos hwho

theorem finishJob_refused {s1 : State} (hwho : j.who = .program) (hinp : readCaptured s j.inp = (none, s1)) :
    finishJob s j e = endJob s1 j 0x06 0 [] := by
  rw [finishJob, jobInput, if_neg (not_not.2 hwho), hinp]

section
variable {p : State} {inp : List Byte} {r : JobRes}

theorem latchJob_failed (hst : r.status ≠ 0x01) : latchJob p s j e inp r = endJob p j r.status 0 [] := by
  have hno : ¬(opChecked j.op && r.status == 0x01) = true := by simp [hst]
  rw [latchJob, if_neg hno, giveResult, if_pos hst]

/-- A result that needs no check, or that a second PKE has found right, is given. -/
theorem latchJob_given (h : opChecked j.op = false ∨ ((secondPke p e).isSome = true ∧ resultChecks j j.slots.1 inp r = true)) :
    latchJob p s j e inp r = giveResult p j r ∨ r.status ≠ 0x01 := by
  refine or_iff_not_imp_right.2 fun hst => ?_
  rw [latchJob]
  obtain h | ⟨hsecond, hcheck⟩ := h
  · rw [h]
    rfl
  · obtain ⟨x, hx⟩ := Option.isSome_iff_exists.1 hsecond
    rw [hx, hcheck]
    dsimp only
    rw [if_pos rfl, ite_self]

variable (hst : r.status = 0x01)
include hst

theorem latchJob_right (h : opChecked j.op = false ∨ ((secondPke p e).isSome = true ∧ resultChecks j j.slots.1 inp r = true)) :
    latchJob p s j e inp r = giveResult p j r := (latchJob_given h).resolve_right (not_not.2 hst)

theorem latchJob_waits (hop : opChecked j.op = true) (hnone : secondPke p e = none) : latchJob p s j e inp r = s := by
  rw [latchJob, if_pos (by rw [hop, hst]; rfl), hnone]

theorem latchJob_wrong (hop : opChecked j.op = true) {x : Fin 48} (hx : secondPke p e = some x)
    (hcheck : resultChecks j j.slots.1 inp r = false) : latchJob p s j e inp r =
      reissueJob (engineFaulted (p.bump Off.CRY_SIGFAIL_CNT) j.kind e 0x09) j true [e, x] := by
  rw [latchJob, if_pos (by rw [hop, hst]; rfl), hx]
  dsimp only
  rw [hcheck, if_neg (by decide)]

theorem giveResult_written {s2 : State} (hwho : j.who = .program) (hw : writeCaptured p j.out r.out = (true, s2)) :
    giveResult p j r = endJob s2 j 0x01 r.out.length [] := by
  rw [giveResult, if_neg (not_not.2 hst), if_pos hwho, hw]

theorem giveResult_refused {s2 : State} (hwho : j.who = .program) (hw : writeCaptured p j.out r.out = (false, s2)) :
    giveResult p j r = endJob s2 j 0x06 0 [] := by
  rw [giveResult, if_neg (not_not.2 hst), if_pos hwho, hw]

theorem giveResult_kept (hwho : j.who ≠ .program) : giveResult p j r = endJob p j 0x01 r.out.length r.out := by
  rw [giveResult, if_neg (not_not.2 hst), if_neg hwho]

end

/-- The PKEs that may check a result of an engine. -/
def checkers (s : State) (e : Fin 48) : List (Fin 48) :=
  (List.finRange 48).filter fun x => x != e && engineTakes s .pke x

theorem secondPke_eq (s : State) (e : Fin 48) : secondPke s e =
    (if ((checkers s e).filter fun x => x.val / 8 != e.val / 8) = [] then checkers s e
      else (checkers s e).filter fun x => x.val / 8 != e.val / 8).find? fun x => !engineBusy s .pke x := rfl

theorem mem_checkers {x : Fin 48} : x ∈ checkers s e ↔ x ≠ e ∧ engineTakes s .pke x = true := by
  simp [checkers]

/-- The checker is another free PKE, of another cluster where a PKE serves there (R266). -/
theorem secondPke_spec {x : Fin 48} (h : secondPke s e = some x) : x ≠ e ∧ engineTakes s .pke x = true ∧
    engineBusy s .pke x = false ∧
    (x.val / 8 = e.val / 8 → ∀ y : Fin 48, engineTakes s .pke y = true → y.val / 8 = e.val / 8) := by
  rw [secondPke_eq] at h
  have hfree : engineBusy s .pke x = false := by simpa using List.find?_some h
  have hmem := List.mem_of_find?_eq_some h
  by_cases hfar : ((checkers s e).filter fun x => x.val / 8 != e.val / 8) = []
  · rw [if_pos hfar] at hmem
    obtain ⟨hne, htakes⟩ := mem_checkers.1 hmem
    refine ⟨hne, htakes, hfree, fun _ y hy => ?_⟩
    by_contra hcl
    have hye : y ≠ e := fun h => hcl (by rw [h])
    have hyfar : y ∈ (checkers s e).filter fun x => x.val / 8 != e.val / 8 :=
      List.mem_filter.2 ⟨mem_checkers.2 ⟨hye, hy⟩, bne_iff_ne.2 hcl⟩
    rw [hfar] at hyfar
    exact absurd hyfar List.not_mem_nil
  · rw [if_neg hfar] at hmem
    obtain ⟨hin, hcl⟩ := List.mem_filter.1 hmem
    obtain ⟨hne, htakes⟩ := mem_checkers.1 hin
    exact ⟨hne, htakes, hfree, fun heq => absurd heq (bne_iff_ne.1 hcl)⟩

/-! ## What the end of a job leaves -/

theorem cry_chargeJob (s : State) (j : CJob) (n : Nat) : (chargeJob s j n).cry = s.cry := rfl

theorem cry_noteStatus (s : State) (j : CJob) (st n : Nat) : (noteStatus s j st n).cry = s.cry := by
  unfold noteStatus writeStatus
  split
  · dsimp only
    rw [cry_islandWrite, cry_islandWrite, cry_islandWrite]
  · rfl

theorem endJob_jobs (s : State) (j : CJob) (st n : Nat) (res : List Byte) : (endJob s j st n res).cry =
    { s.cry with jobs := s.cry.jobs.map fun i =>
        if i.id = j.id then { i with work := workNow s i, st := .latched st, res := res } else i } := by
  have hcry : ∀ u : State, u.cry = s.cry → (u.modJob j.id fun i => { i with work := workNow s i, st := .latched st, res := res }).cry =
      { s.cry with jobs := s.cry.jobs.map fun i =>
        if i.id = j.id then { i with work := workNow s i, st := .latched st, res := res } else i } := by
    intro u hu
    unfold State.modJob
    rw [hu]
  unfold endJob
  dsimp only
  refine hcry _ ?_
  have hnoted : ∀ n, (noteStatus (if st = 1 then s else { s with freeCtr := s.freeCtr + 1 }) j st n).cry = s.cry := by
    intro n
    rw [cry_noteStatus]
    split <;> rfl
  split <;> exact hnoted _

theorem job?_of_jobs {s t : State} {id : Nat} {f : CJob → CJob} (hf : ∀ i, (f i).id = i.id)
    (h : t.cry.jobs = s.cry.jobs.map fun i => if i.id = id then f i else i) : t.job? id = (s.job? id).map f := by
  unfold State.job?
  rw [h, List.find?_map]
  have hpred : ((fun i : CJob => i.id == id) ∘ fun i => if i.id = id then f i else i) = fun i => i.id == id := by
    funext i
    show ((if i.id = id then f i else i).id == id) = (i.id == id)
    split
    · rw [hf]
    · rfl
  rw [hpred]
  cases hfind : s.cry.jobs.find? fun i => i.id == id with
  | none => rfl
  | some i =>
    have hid : i.id = id := by simpa using List.find?_some hfind
    exact congrArg some (if_pos hid)

/-- The job has set its latch, with its output if it is of XLT or JNL. -/
theorem endJob_latched (hjob : s.job? j.id = some j) (st n : Nat) (res : List Byte) :
    (endJob s j st n res).job? j.id = some { j with st := .latched st, work := workNow s j, res := res } ∧
      (endJob s j st n res).cry.keys = s.cry.keys := by
  have hcry := endJob_jobs s j st n res
  refine ⟨?_, by rw [hcry]⟩
  rw [job?_of_jobs (s := s) (t := endJob s j st n res) (f := fun i => { i with work := workNow s i, st := .latched st, res := res })
    (fun _ => rfl) (by rw [hcry]), hjob]
  rfl

/-! ## The completion and the abort (R86, R262, R267 to R269) -/

theorem exec_cryptoCompletion_one {c : CoreId} {b : BankId} {st : Nat} (hjobs : s.cry.jobs = [j]) (hwho : j.who = .program)
    (htold : j.told = false) (hcore : j.core = c) (hbank : j.bank = b) (hst : j.st = .latched st) :
    exec (.cryptoCompletion c b) s = .next
      (if !jobLive s j then s.modJob j.id fun j => { j with told := true }
        else if st = 0x09 then endIfOwned (s.dropJob j.id) j.an j.run .faultReplay
        else wake ((s.dropJob j.id).setCC c b (statusCC st)) c b) := by
  rw [exec_cryptoCompletion, execCryptoCompletion, hjobs, List.find?_cons_of_pos (by simp [hwho, htold, hcore, hbank, hst])]
  dsimp only
  rw [hst]

section
variable (hjob : s.job? j.id = some j) (hwho : j.who = .program)
include hjob hwho

omit hwho in
theorem exec_jobAbort_live (hlive : jobLive s j = true) : exec (.jobAbort j.id) s = .next s := by
  rw [exec_jobAbort, execJobAbort, hjob]
  dsimp only
  rw [if_pos (.inr hlive)]

variable (hdead : jobLive s j = false)
include hdead

theorem exec_jobAbort_unlatched (hst : ∀ st, j.st ≠ .latched st) :
    exec (.jobAbort j.id) s = .next (((stopJob s j 0x07).bump Off.CRY_ABORT_CNT).dropJob j.id) := by
  rw [exec_jobAbort, execJobAbort, hjob]
  dsimp only
  rw [if_neg (by rw [hdead]; simp [hwho])]
  cases hs : j.st with
  | latched st => exact absurd hs (hst st)
  | waiting => rfl
  | running e t0 => rfl

theorem exec_jobAbort_latched {st : Nat} (hst : j.st = .latched st) (h7 : st ≠ 0x07) (h8 : st ≠ 0x08) :
    exec (.jobAbort j.id) s = .next ((lateAbort s j st).dropJob j.id) := by
  rw [exec_jobAbort, execJobAbort, hjob]
  dsimp only
  rw [if_neg (by rw [hdead]; simp [hwho]), hst]
  dsimp only
  rw [if_neg (not_or.2 ⟨h7, h8⟩)]

end

theorem xflags_late (j : CJob) : byte (j.xflags true) = BitVec.ofNat 8 (1 + 2 * if j.reissued then 1 else 0) := by
  cases h : j.reissued <;> simp [CJob.xflags, b2n, h]

/-! ## A faulty engine (R267, R397) -/

theorem cry_engineFaulted (s : State) (k : EngineKind) (e : Fin 48) (code : Nat) : (engineFaulted s k e code).cry = s.cry := by
  unfold engineFaulted faultHold
  dsimp only
  rw [State.cry_setF]
  unfold startTest setEngine
  dsimp only
  rw [State.cry_setF, State.cry_report]

theorem engineMap_shape (k : EngineKind) : (engineMap k).off ≠ Off.SYS_EVT ∧ (engineMap k).lo = 0 ∧ (engineMap k).width = 48 ∧
    (engineMap k).off ≠ Fld.ADM_STATUS_FAULT_HOLD.off := by
  cases k <;> decide

/-- A fault takes the engine out of service. -/
theorem engineInService_engineFaulted (s : State) (k : EngineKind) (e : Fin 48) (code : Nat) :
    engineInService (engineFaulted s k e code) k e = false := by
  obtain ⟨hevt, hlo, hwidth, hadm⟩ := engineMap_shape k
  have hmap : ∀ u : State, (faultHold (startTest (setEngine u k e false) (.engine k e))).getF (engineMap k) =
      putBits (u.getF (engineMap k)) e.val 1 0 % 2 ^ 48 := by
    intro u
    have hhold : ∀ w : State, (faultHold w).getF (engineMap k) = w.getF (engineMap k) := fun w =>
      State.getF_setF_ne _ _ _ _ hadm hevt
    have hset : (setEngine u k e false).getF (engineMap k) = putBits (u.getF (engineMap k)) e.val 1 0 % 2 ^ 48 := by
      unfold setEngine
      rw [State.getF_setF_self _ _ _ hevt (by omega), hwidth]
      rfl
    exact (hhold _).trans hset
  unfold engineInService engineFaulted
  dsimp only
  rw [hmap, bitAt, Nat.testBit_mod_two_pow, testBit_putBits, if_pos (by omega), Nat.zero_testBit, Bool.and_false]

theorem jobOn_free (hfree : engineBusy s k e = false) : jobOn s k e = none := by
  unfold jobOn
  rw [List.find?_eq_none]
  exact fun j hj => List.any_eq_false.1 hfree j hj

theorem jobOn_running {t0 : Nat} (hjobs : s.cry.jobs = [j]) (hkind : j.kind = k) (hst : j.st = .running e t0) :
    jobOn s k e = some j := by
  unfold jobOn
  rw [hjobs]
  exact List.find?_cons_of_pos (by simp [hkind, hst])

theorem exec_engineFault_idle (hsvc : engineInService s k e = true) (hon : jobOn s k e = none) :
    exec (.engineFault k e) s = .next (engineFaulted s k e 0) := by
  rw [exec_engineFault, execEngineFault, hsvc, if_neg (by decide), hon]

theorem exec_engineFault_on (hsvc : engineInService s k e = true) (hon : jobOn s k e = some j) :
    exec (.engineFault k e) s = .next (settleJobs (reissueJob (engineFaulted s k e 0) j false [e])) := by
  rw [exec_engineFault, execEngineFault, hsvc, if_neg (by decide), hon]

theorem reissueJob_taken (htake : ∃ x, engineTakes s j.kind x = true) (hfails : j.fails < 2) (hjobs : s.cry.jobs = [j])
    (pair : List (Fin 48)) : (reissueJob s j false pair).cry.jobs =
      [{ j with work := workNow s j, st := .waiting, reissued := true, avoid := pair }] := by
  obtain ⟨x, hx⟩ := htake
  have hany : ((List.finRange 48).any (engineTakes s j.kind)) = true := List.any_eq_true.2 ⟨x, List.mem_finRange x, hx⟩
  have hgo : ¬((!(List.finRange 48).any (engineTakes s j.kind)) = true ∨ 2 ≤ j.fails + b2n false) := by
    rw [hany]
    simp [b2n]
    omega
  unfold reissueJob
  dsimp only
  rw [if_neg hgo]
  unfold State.modJob
  dsimp only
  rw [State.cry_bump, hjobs, List.map_cons, if_pos rfl]
  rfl

theorem reissueJob_nowhere (hnone : ∀ x, engineTakes s j.kind x = false) (pair : List (Fin 48)) :
    reissueJob s j false pair = endJob s j 0x09 0 [] := by
  have hany : ((List.finRange 48).any (engineTakes s j.kind)) = false := List.any_eq_false.2 fun x _ => Bool.eq_false_iff.1 (hnone x)
  unfold reissueJob
  dsimp only
  rw [if_pos (.inl (by rw [hany]; rfl))]

end

/-! ## The end of a zeroisation (R278) -/

/-- The key store once a zeroisation is over. -/
def keysGone (s : State) : State :=
  { s with cry := { s.cry with keys := [], cache := [], wrapGen := s.cry.wrapGen + 1, zeroing := false } }

theorem exec_zeroisationDone_plain {s : State} (hz : s.cry.zeroing = true) (hwait : s.sys.dbgWait = false) :
    exec (.zeroisationDone) s = .next (noteSlots (keysGone s)) := by
  have hno : (noteSlots (keysGone s)).sys.dbgWait = false := (congrArg Sys.dbgWait (quiet_noteSlots _).sys).trans hwait
  rw [exec_zeroisationDone, execZeroisationDone, if_pos hz]
  unfold keysGone at hno ⊢
  rw [debugEnable, hno, if_neg (by decide)]

/-- CRY_STATUS with an empty general space (R274). -/
theorem getF_noteSlots_empty {s : State} (h : s.cry.keys = []) : (noteSlots s).getF Fld.CRY_STATUS_SLOTS_USED = 0 ∧
    (noteSlots s).getF Fld.CRY_STATUS_MAT_FREE = 32768 := by
  unfold noteSlots
  rw [h]
  refine ⟨?_, ?_⟩
  · rw [State.getF_setF_beside _ Fld.CRY_STATUS_MAT_FREE Fld.CRY_STATUS_SLOTS_USED _ (by decide) rfl (by decide) (by decide),
      State.getF_setF_self _ _ _ (by decide) (by decide)]
    rfl
  · rw [State.getF_setF_self _ _ _ (by decide) (by decide)]
    rfl

/-- No slot holds a key under the new wrapping key. -/
theorem keyOf_keysGone {s t : State} (h : t.cry = (keysGone s).cry) (hgen : ∀ w ∈ s.cry.wrapped, w.gen ≤ s.cry.wrapGen)
    (space slot : Nat) : t.keyOf space slot = none := by
  have hwrapped : (s.cry.wrapped.find? fun w => w.gen == s.cry.wrapGen + 1 && w.key.at_ space slot) = none := by
    rw [List.find?_eq_none]
    intro w hw hand
    have hne := hgen w hw
    have heq : w.gen = s.cry.wrapGen + 1 := by simpa using (Bool.and_eq_true_iff.1 hand).1
    omega
  have hslot : slotOf (keysGone s) space slot = none := by
    unfold slotOf keysGone
    dsimp only
    rw [hwrapped]
    split <;> rfl
  unfold State.keyOf
  rw [slotOf_congr h, hslot, h]
  unfold keysGone
  dsimp only
  split <;> simp

/-! ## The obligation -/

/-- Settles O47: the start, the latch, the completion, the abort and the fault of an engine, each by its lemmas above. -/
theorem cryptoJobs : Obligations.CryptoJobs := by
  unfold Obligations.CryptoJobs
  intro s k e j c b
  refine ⟨fun htakes hfree hnext => ?start, exec_cryptoJobStart_not, fun t0 inp aux hjob hwho hst hinp haux => ?program,
    fun t0 hjob hwho hst => ?kept, fun t0 s1 hjob hwho hst hinp => ?refused, fun st n res hjob => endJob_latched hjob st n res,
    fun st hjobs hwho htold hcore hbank hst => ?completion, fun hjob hwho => ⟨exec_jobAbort_live hjob,
      exec_jobAbort_unlatched hjob hwho, fun st hdead hst h7 h8 => ?late⟩,
    fun hsvc => ?fault, fun slot => exec_keyStoreFault .., fun hz hwait => ?zeroised, fun hw hz => ?wiped⟩
  case start =>
    obtain ⟨htake, hmem, hfirst⟩ := nextJob_first hnext
    obtain ⟨hkind, hst, hmay, -⟩ := takable_iff.1 htake
    exact ⟨exec_cryptoJobStart_takes htakes hfree hnext, fun ks => startJob_ok, fun st => startJob_error,
      fun ks => startJob_again, hkind, hst, hmem, hmay,
      fun i hi hk hw hm hz => hfirst i hi (takable_iff.2 ⟨hk, hw, hm, hz⟩)⟩
  case program =>
    intro p r second
    have hexec : exec (.completionLatch j.id) s = .next (settleJobs (latchJob p.2 s j e inp r)) := by
      rw [exec_completionLatch_running hjob hst, finishJob_of_input (jobInput_program hwho hinp haux)]
      rfl
    rw [hexec]
    refine ⟨fun hbad => by rw [latchJob_failed hbad], fun hok hcheck => ⟨fun s2 hw => ?_, fun s2 hw => ?_⟩,
      fun hok hop hnone => by rw [latchJob_waits hok hop hnone],
      fun x hok hop hx hcheck => by rw [latchJob_wrong hok hop hx hcheck], fun x hx => secondPke_spec hx⟩
    · rw [latchJob_right hok hcheck, giveResult_written hok hwho hw]
    · rw [latchJob_right hok hcheck, giveResult_refused hok hwho hw]
  case kept =>
    intro p r hok hcheck
    have hexec : exec (.completionLatch j.id) s = .next (settleJobs (latchJob p.2 s j e j.input r)) := by
      rw [exec_completionLatch_running hjob hst, finishJob_of_input (jobInput_kept hwho)]
      rfl
    rw [hexec, latchJob_right hok hcheck, giveResult_kept hok hwho]
  case refused => rw [exec_completionLatch_running hjob hst, finishJob_refused hwho hinp]
  case completion =>
    intro t
    rw [exec_cryptoCompletion_one hjobs hwho htold hcore hbank hst]
    refine ⟨fun hdead => ?_, fun hlive h9 => ?_, fun hlive h9 => ?_⟩
    · rw [hdead, if_pos (by decide)]
    · rw [hlive, if_neg (by decide), if_pos h9]
    · rw [hlive, if_neg (by decide), if_neg h9, statusCC]
  case late =>
    intro s1
    rw [exec_jobAbort_latched hjob hwho hdead hst h7 h8, lateAbort, xflags_late]
  case fault =>
    intro s1
    have hjobs1 : s1.cry = s.cry := cry_engineFaulted s k e 0
    refine ⟨engineInService_engineFaulted s k e 0, hold_faultHold _, fun hfree => ?_, fun t0 hjobs hkind hst => ⟨?_, ?_, ?_⟩⟩
    · exact exec_engineFault_idle hsvc (jobOn_free hfree)
    · exact exec_engineFault_on hsvc (jobOn_running hjobs hkind hst)
    · exact fun htake hfails => reissueJob_taken (hkind ▸ htake) hfails (hjobs1 ▸ hjobs) [e]
    · exact fun hnone => reissueJob_nowhere (hkind ▸ hnone) [e]
  case zeroised =>
    have hq := quiet_noteSlots (keysGone s)
    obtain ⟨hused, hfree⟩ := getF_noteSlots_empty (s := keysGone s) rfl
    exact ⟨_, exec_zeroisationDone_plain hz hwait, hq.cry, hused, hfree, hq.mem, keyOf_keysGone hq.cry⟩
  case wiped =>
    rw [exec_trafficSpaceWipe, execTrafficSpaceWipe, if_pos ⟨hw, by rw [hz]; rfl⟩]

end Sys2Proof.Proofs

namespace Sys2Proof.Proofs

open Sys2Proof Sys2Proof.Machine Sys2Proof.Laws

/-! # What power does to an island (R358, R377, R379, R384)

## Fields that do not meet -/

/-- A field off the bits that the write of a field takes. -/
theorem getF_setF_apart (s : State) {f g : FieldRef} (v : Nat) (hevt : g.off ≠ Off.SYS_EVT) (hw : g.lo + g.width ≤ 64)
    (h : g.off ≠ f.off ∨ g.lo + g.width ≤ f.lo ∨ f.lo + f.width ≤ g.lo) : (s.setF f v).getF g = s.getF g := by
  by_cases he : g.off = f.off
  · exact State.getF_setF_beside s f g v (he ▸ hevt) he hw (h.resolve_left (not_not.2 he))
  · exact State.getF_setF_ne s f g v he hevt

/-- A field of another register than the one that is set. -/
theorem getF_setReg_ne (s : State) {g : FieldRef} {off v : Nat} (h : g.off ≠ off) : (s.setReg off v).getF g = s.getF g :=
  State.getF_congr g (by rw [reg_setReg, if_neg h])

/-- A field of a state whose part beside the registers is replaced. -/
theorem getF_withBoot (s : State) (b : Boot) (f : FieldRef) : ({ s with boot := b } : State).getF f = s.getF f := rfl

theorem ite_lt_of_lt {c : Prop} [Decidable c] {n x y : Nat} (hx : x < n) (hy : y < n) : (if c then x else y) < n := by
  split
  · exact hx
  · exact hy

/-! ## What stays -/

/-- The status registers of the islands. -/
def IslReg (off : Nat) : Prop := Off.PWR_ISL_STATUS 0 ≤ off ∧ off ≤ Off.PWR_ISL_STATUS 43

theorem islReg_status (i : Fin 44) : IslReg (Off.PWR_ISL_STATUS i.val) := by
  unfold IslReg Off.PWR_ISL_STATUS
  omega

/-- A state with the power side of another. -/
def withPowerOf (s t : State) : State :=
  { s with
    regs := t.regs
    out := t.out
    hif := { s.hif with msix := t.hif.msix }
    err := t.err
    pwr := { s.pwr with isl := t.pwr.isl }
    cry := { s.cry with jobs := t.cry.jobs }
    freeCtr := t.freeCtr }

theorem eq_withPowerOf {s t : State} (h : Quiet s t) : t = withPowerOf s t := by
  unfold withPowerOf
  rw [h.pwr, h.cry, h.freeCtr]
  exact h

/-- Nothing changes but the status of islands, what PWR keeps for them, the work of crypto jobs, and what is signalled. -/
structure OnlyIslands (s t : State) : Prop where
  rest : t = withPowerOf s t
  err : t.err = s.err
  reg : ∀ off, ¬IslReg off → off ≠ Off.SYS_EVT → t.reg off = s.reg off

section
variable {s t u : State}

theorem OnlyIslands.refl (s : State) : OnlyIslands s s := ⟨rfl, rfl, fun _ _ _ => rfl⟩

theorem OnlyIslands.trans (h : OnlyIslands s t) (g : OnlyIslands t u) : OnlyIslands s u :=
  ⟨by rw [g.rest, h.rest]; rfl, g.err.trans h.err, fun off hi he => (g.reg off hi he).trans (h.reg off hi he)⟩

theorem OnlyIslands.mem (h : OnlyIslands s t) : t.mem = s.mem := by
  rw [h.rest]
  rfl

theorem OnlyIslands.skeys (h : OnlyIslands s t) : t.skeys = s.skeys := by
  rw [h.rest]
  rfl

theorem OnlyIslands.cores (h : OnlyIslands s t) : t.cores = s.cores := by
  rw [h.rest]
  rfl

theorem OnlyIslands.devtime (h : OnlyIslands s t) : t.devtime = s.devtime := by
  rw [h.rest]
  rfl

theorem OnlyIslands.txns (h : OnlyIslands s t) : t.txns = s.txns := by
  rw [h.rest]
  rfl

theorem OnlyIslands.boot (h : OnlyIslands s t) : t.boot = s.boot := by
  rw [h.rest]
  rfl

theorem OnlyIslands.net (h : OnlyIslands s t) : t.net = s.net := by
  rw [h.rest]
  rfl

theorem OnlyIslands.sys (h : OnlyIslands s t) : t.sys = s.sys := by
  rw [h.rest]
  rfl

theorem OnlyIslands.jnl (h : OnlyIslands s t) : t.jnl = s.jnl := by
  rw [h.rest]
  rfl

theorem OnlyIslands.keys (h : OnlyIslands s t) : t.cry.keys = s.cry.keys := by
  rw [h.rest]
  rfl

theorem OnlyIslands.pending (h : OnlyIslands s t) : t.pending = s.pending := by
  rw [h.rest]
  rfl

theorem OnlyIslands.clkLost (h : OnlyIslands s t) : t.pwr.clkLost = s.pwr.clkLost := by
  rw [h.rest]
  rfl


/-- A field outside the status registers of the islands. -/
theorem OnlyIslands.getF (h : OnlyIslands s t) {f : FieldRef} (hi : ¬IslReg f.off) (he : f.off ≠ Off.SYS_EVT) :
    t.getF f = s.getF f := State.getF_congr f (h.reg _ hi he)

theorem OnlyIslands.setF (h : OnlyIslands s t) (f : FieldRef) (v : Nat) (hf : IslReg f.off) : OnlyIslands s (t.setF f v) := by
  have hq := (Quiet.refl t).setF f v
  refine h.trans ⟨eq_withPowerOf hq, State.err_setF t f v, fun off hi he => ?_⟩
  exact State.reg_setF_ne t f v off (fun heq => hi (heq ▸ hf)) he

theorem OnlyIslands.modIsl (h : OnlyIslands s t) (i : Fin 44) (f : IslPwr → IslPwr) : OnlyIslands s (t.modIsl i f) :=
  h.trans ⟨rfl, rfl, fun _ _ _ => rfl⟩

theorem OnlyIslands.modIslDraw (h : OnlyIslands s t) (i : Fin 44) (f : IslPwr → IslPwr) :
    OnlyIslands s { t.modIsl i f with freeCtr := t.freeCtr + 1 } := h.trans ⟨rfl, rfl, fun _ _ _ => rfl⟩

theorem OnlyIslands.setIslandState (h : OnlyIslands s t) (i : Fin 44) (v : Nat) : OnlyIslands s (setIslandState t i v) :=
  h.setF _ v (islReg_status i)

theorem OnlyIslands.setClk (h : OnlyIslands s t) (i : Fin 44) (f : Nat) : OnlyIslands s (setClk t i f) :=
  OnlyIslands.setF (h.trans (u := settleWork t i.val) ⟨rfl, rfl, fun _ _ _ => rfl⟩) _ f (islReg_status i)

theorem OnlyIslands.startFixed (h : OnlyIslands s t) (i : Fin 44) : OnlyIslands s (startFixed t i) :=
  (OnlyIslands.setF (h.setClk i _) _ _ (islReg_status i)).setIslandState i 2

theorem OnlyIslands.islandUp (h : OnlyIslands s t) (i : Fin 44) : OnlyIslands s (islandUp t i) := by
  unfold Machine.islandUp
  split
  · exact h
  · split
    · refine ((OnlyIslands.modIsl (OnlyIslands.setF (OnlyIslands.setF (h.modIslDraw i _) _ _ ?_) _ _ ?_) _ _).setClk i
        _).setIslandState i 2 <;> exact islReg_status i
    · exact h.startFixed i

theorem OnlyIslands.foldl {α : Type} {f : State → α → State} (h : OnlyIslands s t) (l : List α)
    (hf : ∀ s a, OnlyIslands s (f s a)) : OnlyIslands s (l.foldl f t) :=
  foldl_inv h l fun _ a h' => h'.trans (hf _ a)

/-! ## The state of an island -/

/-- The fields above STATE, and those of the other registers, leave the state of every island. -/
theorem islandState_setF_above {f : FieldRef} (v j : Nat) (h : 3 ≤ f.lo) : islandState (s.setF f v) j = islandState s j :=
  getF_setF_apart s v (by show 0x20400 + 8 * j ≠ 0x40; omega) (by show 0 + 3 ≤ 64; decide) (.inr (.inl h))

theorem islandState_setF_off {f : FieldRef} (v j : Nat) (h : f.off ≠ Off.PWR_ISL_STATUS j) :
    islandState (s.setF f v) j = islandState s j :=
  State.getF_setF_ne s f _ v h.symm (by show 0x20400 + 8 * j ≠ 0x40; omega)

theorem islandState_setIslandState (i : Fin 44) (v j : Nat) :
    islandState (setIslandState s i v) j = if j = i.val then v % 8 else islandState s j := by
  split
  · next h =>
    subst h
    exact State.getF_setF_self s _ v (by show 0x20400 + 8 * i.val ≠ 0x40; omega) (by show 0 + 3 ≤ 64; decide)
  · next h => exact islandState_setF_off v j (by show 0x20400 + 8 * i.val ≠ 0x20400 + 8 * j; omega)

theorem islandState_setClk (i : Fin 44) (f j : Nat) : islandState (setClk s i f) j = islandState s j :=
  (islandState_setF_above (s := settleWork s i.val) f j (by show 3 ≤ 48; decide)).trans rfl

theorem islandState_startFixed (i : Fin 44) (j : Nat) :
    islandState (startFixed s i) j = if j = i.val then 2 else islandState s j := by
  unfold startFixed
  rw [islandState_setIslandState, islandState_setF_above _ _ (by show 3 ≤ 32; decide), islandState_setClk]

/-- The state of an island after it has started, unless it is retired. -/
theorem islandState_islandUp (i : Fin 44) (j : Nat) :
    islandState (islandUp s i) j = if j = i.val then (if islandState s j = 5 then 5 else 2) else islandState s j := by
  unfold islandUp
  split
  · next h5 =>
    split
    · next hj => rw [hj, h5, if_pos rfl]
    · rfl
  · next h5 =>
    have hstate : ∀ u : State, islandState u j = islandState s j → (if j = i.val then 2 else islandState u j) =
        if j = i.val then (if islandState s j = 5 then 5 else 2) else islandState s j := by
      intro u hu
      split
      · next hj => rw [hj, if_neg h5]
      · exact hu
    split
    · dsimp only
      rw [islandState_setIslandState]
      refine hstate _ ?_
      rw [islandState_setClk]
      refine Eq.trans (b := islandState (State.setF (State.setF _ _ _) _ _) j) rfl ?_
      rw [islandState_setF_above _ _ (by show 3 ≤ 32; decide), islandState_setF_above _ _ (by show 3 ≤ 16; decide)]
      rfl
    · rw [islandState_startFixed]
      exact hstate s rfl

/-- The islands of a list start, unless they are retired. -/
theorem islandState_foldl_islandUp (l : List (Fin 44)) (j : Nat) : islandState (l.foldl islandUp s) j =
    if ∃ i ∈ l, j = i.val then (if islandState s j = 5 then 5 else 2) else islandState s j := by
  induction l generalizing s with
  | nil => rw [if_neg (by simp)]; rfl
  | cons a l ih =>
    rw [List.foldl_cons, ih, islandState_islandUp]
    by_cases ha : j = a.val
    · rw [if_pos ha, if_pos (c := ∃ i ∈ a :: l, j = i.val) ⟨a, List.mem_cons_self, ha⟩]
      split_ifs <;> first | rfl | contradiction
    · have hiff : (∃ i ∈ a :: l, j = i.val) ↔ ∃ i ∈ l, j = i.val := by simp [ha]
      rw [if_neg ha]
      simp only [hiff]

end

/-! ## Folds -/

/-- What a fold does for an element and keeps from then on, it has done for each element of its list. -/
theorem foldl_reaches {α β : Type} {f : β → α → β} {ok : β → Prop} {P : β → Prop} {l : List α} {x : α} (hx : x ∈ l) {s : β}
    (hs : ok s) (hok : ∀ s a, ok s → ok (f s a)) (hself : ∀ s, ok s → P (f s x)) (hkeep : ∀ s a, P s → P (f s a)) :
    P (l.foldl f s) := by
  induction l generalizing s with
  | nil => exact absurd hx List.not_mem_nil
  | cons a l ih =>
    obtain rfl | hx := List.mem_cons.1 hx
    · exact foldl_inv (hself s hs) l fun s a h => hkeep s a h
    · exact ih hx (hok s a hs)

/-- A fold that passes over elements is the fold of the others. -/
theorem foldl_skip {α β : Type} (f : β → α → β) (p : α → Prop) [DecidablePred p] (l : List α) (s : β) :
    l.foldl (fun s a => if p a then s else f s a) s = (l.filter fun a => !decide (p a)).foldl f s := by
  rw [List.foldl_filter]
  congr 1
  funext s a
  by_cases h : p a <;> simp [h]

/-- Registers that are set one after another. -/
theorem foldl_setReg (off val : Nat → Nat) (l : List Nat) (s : State) :
    l.foldl (fun s i => s.setReg (off i) (val i)) s =
      { s with regs := (l.foldl (fun s i => s.setReg (off i) (val i)) s).regs } := by
  induction l generalizing s with
  | nil => rfl
  | cons a l ih =>
    rw [List.foldl_cons, ih]
    rfl

theorem mem_foldl_setReg (off val : Nat → Nat) (l : List Nat) (s : State) :
    (l.foldl (fun s i => s.setReg (off i) (val i)) s).mem = s.mem := by
  rw [foldl_setReg]

theorem cores_foldl_setReg (off val : Nat → Nat) (l : List Nat) (s : State) :
    (l.foldl (fun s i => s.setReg (off i) (val i)) s).cores = s.cores := by
  rw [foldl_setReg]

/-! ## Memory of which cells are dropped -/

/-- A cell that is dropped reads as one that nothing has written. -/
theorem memGet_filter (p : Nat → Bool) (m : List Host.Cell) (a : Nat) :
    memGet (m.filter fun q => p q.1) a = if p a then memGet m a else 0 := by
  unfold memGet Sparse.get
  rw [lookup_filter_fst]
  split <;> rfl

end Sys2Proof.Proofs

namespace Sys2Proof.Proofs

open Sys2Proof Sys2Proof.Machine Sys2Proof.Laws

/-! # Bring-up (O54: R358 to R365, R417, R418)

## The choice of the image (R359, R363) -/

/-- A field that the list ends within reads zeros after it. -/
theorem fld_eq_leNat_take (b : List Byte) (off n : Nat) : fld b off n = leNat ((b.drop off).take n) := by
  have hzeros : ∀ k (l : List Byte), leNat (l ++ zeros k) = leNat l := by
    intro k l
    induction l with
    | nil =>
      induction k with
      | zero => rfl
      | succ k ih =>
        show leNat (zeros (k + 1)) = 0
        rw [zeros, List.replicate_succ]
        show 0 + 256 * leNat (zeros k) = 0
        rw [show leNat (zeros k) = 0 from ih]
    | cons a l ih =>
      show a.toNat + 256 * leNat (l ++ zeros k) = a.toNat + 256 * leNat l
      rw [ih]
  exact hzeros _ _

section
variable {s : State}

/-- The slot whose image passes, of two the one with the higher sequence. -/
theorem imageSelect_found (hstep : s.boot.step = 3) (hphase : s.getF Fld.BOOT_STATUS_PHASE = 1)
    (h : imageError s (slotImage s 0) = 0 ∨ imageError s (slotImage s 0x100_0000) = 0) : imageSelect s =
      if imageError s (slotImage s 0) = 0 ∧ (imageError s (slotImage s 0x100_0000) ≠ 0 ∨
        fld (slotImage s 0x100_0000) 0x0C 4 ≤ fld (slotImage s 0) 0x0C 4)
      then takeImage s (slotImage s 0) 0 else takeImage s (slotImage s 0x100_0000) 1 := by
  unfold imageSelect
  rw [if_pos ⟨hstep, hphase⟩]
  dsimp only
  split
  · rfl
  · next ha =>
    rw [if_pos]
    by_contra hb
    exact ha ⟨h.resolve_right hb, .inl hb⟩

/-- No slot passes: the device waits for the host's image or has failed. -/
theorem imageSelect_none (hstep : s.boot.step = 3) (hphase : s.getF Fld.BOOT_STATUS_PHASE = 1)
    (ha : imageError s (slotImage s 0) ≠ 0) (hb : imageError s (slotImage s 0x100_0000) ≠ 0) : imageSelect s =
      if bootSrc s = 2 then ((s.setF Fld.BOOT_STATUS_ERR (imageError s (slotImage s 0))).setF Fld.BOOT_STATUS_PHASE 15).setF
        Fld.BOOT_STATUS_PHASE 2
      else (s.setF Fld.BOOT_STATUS_ERR (imageError s (slotImage s 0))).setF Fld.BOOT_STATUS_PHASE 15 := by
  unfold imageSelect
  rw [if_pos ⟨hstep, hphase⟩]
  dsimp only
  rw [if_neg fun h => ha h.1, if_neg hb]

theorem getF_phase_setF (s : State) (v : Nat) : (s.setF Fld.BOOT_STATUS_PHASE v).getF Fld.BOOT_STATUS_PHASE = v % 16 :=
  State.getF_setF_self s _ v (by decide) (by decide)

theorem getF_err_setF_phase (s : State) (v : Nat) :
    (s.setF Fld.BOOT_STATUS_PHASE v).getF Fld.BOOT_STATUS_ERR = s.getF Fld.BOOT_STATUS_ERR :=
  getF_setF_apart s v (by decide) (by decide) (by decide)

theorem getF_err_setF (s : State) (v : Nat) : (s.setF Fld.BOOT_STATUS_ERR v).getF Fld.BOOT_STATUS_ERR = v % 256 :=
  State.getF_setF_self s _ v (by decide) (by decide)

/-- The boot errors are one byte. -/
theorem imageError_lt (s : State) (b : List Byte) : imageError s b < 256 := by
  unfold imageError
  refine ite_lt_of_lt (by decide) (ite_lt_of_lt (by decide) (ite_lt_of_lt (by decide) (ite_lt_of_lt (by decide)
    (ite_lt_of_lt (by decide) (ite_lt_of_lt (by decide) (ite_lt_of_lt (by decide) ?_))))))
  split
  · exact ite_lt_of_lt (by decide) (by decide)
  · decide

theorem imageSelect_failed (hstep : s.boot.step = 3) (hphase : s.getF Fld.BOOT_STATUS_PHASE = 1)
    (ha : imageError s (slotImage s 0) ≠ 0) (hb : imageError s (slotImage s 0x100_0000) ≠ 0) :
    (imageSelect s).getF Fld.BOOT_STATUS_ERR = imageError s (slotImage s 0) ∧
      (imageSelect s).getF Fld.BOOT_STATUS_PHASE = (if bootSrc s = 2 then 2 else 15) ∧ (imageSelect s).boot = s.boot := by
  have herr := Nat.mod_eq_of_lt (imageError_lt s (slotImage s 0))
  rw [imageSelect_none hstep hphase ha hb]
  split
  · rw [getF_err_setF_phase, getF_err_setF_phase, getF_err_setF, herr, getF_phase_setF, State.boot_setF, State.boot_setF,
      State.boot_setF]
    exact ⟨rfl, rfl, rfl⟩
  · rw [getF_err_setF_phase, getF_err_setF, herr, getF_phase_setF, State.boot_setF, State.boot_setF]
    exact ⟨rfl, rfl, rfl⟩

theorem takeImage_spec (b : List Byte) {slot : Nat} (hslot : slot < 4) : (takeImage s b slot).boot.image = b ∧
    (takeImage s b slot).boot.step = 4 ∧ (takeImage s b slot).getF Fld.BOOT_STATUS_SLOT = slot ∧
    (takeImage s b slot).getF Fld.BOOT_STATUS_ERR = 0 := by
  have hregs : ∀ f : FieldRef, (takeImage s b slot).getF f =
      (((s.setF Fld.BOOT_STATUS_SLOT slot).setF Fld.BOOT_STATUS_ERR 0).setF Fld.BOOT_STATUS_PHASE 1).getF f := fun _ => rfl
  refine ⟨rfl, rfl, ?_, ?_⟩
  · rw [hregs, getF_setF_apart _ _ (by decide) (by decide) (by decide), getF_setF_apart _ _ (by decide) (by decide) (by decide),
      State.getF_setF_self _ _ _ (by decide) (by decide)]
    exact Nat.mod_eq_of_lt hslot
  · rw [hregs, getF_err_setF_phase, getF_err_setF]

/-- The image that BOOT_HIMG names in host memory. -/
def hostImage (s : State) : List Byte :=
  s.rd (hostPa (s.getF Fld.BOOT_HIMG_ADDR * 64)) (min (2 ^ 24) (s.getF Fld.BOOT_HIMG_LEN_LEN))

theorem bootLoad_eq (hstep : s.boot.step = 3) (hphase : s.getF Fld.BOOT_STATUS_PHASE = 2) : bootLoad s =
    if hostBacked s = true then
      (if imageError s (hostImage s) = 0 then takeImage s (hostImage s) 2
        else s.setF Fld.BOOT_STATUS_ERR (imageError s (hostImage s)))
    else s.setF Fld.BOOT_STATUS_ERR 0x0A := by
  unfold bootLoad
  rw [if_pos ⟨hstep, hphase⟩]
  cases hostBacked s <;> rfl

/-! ## Microcode (R417, R418) -/

theorem cores_retireCore (c : CoreId) :
    (retireCore s c).cores = s.cores.set c { s.core c with svc := .retired } := by
  unfold retireCore avsWrite setClk settleWork
  dsimp only
  split <;> simp [State.modCore, State.setCore]

/-- A core that is retired, and the others. -/
theorem core_retireCore (c d : CoreId) :
    (retireCore s c).core d = if d = c then { s.core c with svc := .retired } else s.core d := by
  have hset : (retireCore s c).core d = (s.setCore c { s.core c with svc := .retired }).core d := by
    unfold State.core
    rw [cores_retireCore]
    rfl
  rw [hset]
  split
  · next h => rw [h, State.core_setCore_self]
  · next h => rw [State.core_setCore_ne _ _ _ _ h]

theorem retireCore_keeps (c : CoreId) : (retireCore s c).mem = s.mem ∧ (retireCore s c).boot = s.boot := by
  unfold retireCore avsWrite setClk settleWork
  dsimp only
  split <;> simp [State.modCore, State.setCore]

/-- A core that did not compare: it is reported and retired. -/
def retireBad (s : State) (c : CoreId) : State :=
  retireCore (s.report { island := (coreUnit c).1, unit := (coreUnit c).2, cls := .core, severity := 2 }) c

theorem retireBad_keeps (c : CoreId) : (retireBad s c).mem = s.mem ∧ (retireBad s c).boot = s.boot := by
  obtain ⟨hmem, hboot⟩ := retireCore_keeps
    (s := s.report { island := (coreUnit c).1, unit := (coreUnit c).2, cls := .core, severity := 2 }) c
  exact ⟨hmem.trans (State.mem_report ..), hboot.trans (State.boot_report ..)⟩

theorem svc_foldl_retireBad (l : List CoreId) (c : CoreId) :
    ((l.foldl retireBad s).core c).svc = .retired ↔ (s.core c).svc = .retired ∨ c ∈ l := by
  induction l generalizing s with
  | nil => simp
  | cons a l ih =>
    rw [List.foldl_cons, ih, retireBad, core_retireCore, State.core_report, List.mem_cons]
    by_cases h : c = a
    · simp [h]
    · simp [h]

/-- The control store that an image's microcode fills. -/
def storeWords (m : List Byte) : List Byte :=
  sliceOf m 0x160 (8 * fld m 8 4) ++ (List.range (16384 - fld m 8 4)).flatMap fun _ => leBytes 8 0xF000_0000_0000_0000

theorem getElem?_storeWords {m : List Byte} {i : Nat} (hn : i < 8 * fld m 8 4) (hm : i + 0x160 < m.length) :
    (storeWords m)[i]? = m[0x160 + i]? := by
  have hlen : i < ((m.drop 0x160).take (8 * fld m 8 4)).length := by
    rw [List.length_take, List.length_drop]
    omega
  unfold storeWords sliceOf
  dsimp only
  rw [List.append_assoc, List.getElem?_append_left hlen, List.getElem?_take_of_lt hn, List.getElem?_drop]

/-- The registers that name the microcode in force. -/
def ucodeNoted (s : State) (m : List Byte) : State :=
  (List.range 6).foldl (fun s i => s.setReg (Off.BOOT_UCODE_DIGEST i) (fld (sha384 m) (8 * i) 8))
    (s.setReg Off.BOOT_UCODE (fld m 12 4 * 2 ^ 32 + fld m 6 1 * 2 ^ 24 + fld m 8 4))

theorem ucodeNoted_keeps (m : List Byte) : (ucodeNoted s m).mem = s.mem ∧ (ucodeNoted s m).cores = s.cores := by
  unfold ucodeNoted
  rw [mem_foldl_setReg, cores_foldl_setReg, State.mem_setReg, State.cores_setReg]
  exact ⟨rfl, rfl⟩

/-- The microcode of an image is in force. -/
def withUcode (u : State) (m : List Byte) : State :=
  { u with boot := { u.boot with step := 5, ucode := storeWords m, ucodeSvn := fld m 6 1 } }

theorem withUcode_spec (u : State) (m : List Byte) : (withUcode u m).boot.step = 5 ∧
    (withUcode u m).boot.ucode = storeWords m ∧ (withUcode u m).mem = u.mem ∧ (withUcode u m).cores = u.cores :=
  ⟨rfl, rfl, rfl, rfl⟩

theorem microcodeLoad_eq {m : List Byte} (bad : List CoreId) (hstep : s.boot.step = 4) (hm : sectionOf s.boot.image 1 = some m) :
    ∃ u : State, u.boot.step = 5 ∧ u.boot.ucode = storeWords m ∧ u.mem = s.mem ∧ u.cores = s.cores ∧
      microcodeLoad s bad = (bad.filter fun c => decide ((u.core c).svc ≠ .retired)).foldl retireBad u := by
  obtain ⟨hmem, hcores⟩ := ucodeNoted_keeps (s := s) m
  obtain ⟨h5, hwords, hkmem, hkcores⟩ := withUcode_spec (ucodeNoted s m) m
  refine ⟨withUcode (ucodeNoted s m) m, h5, hwords, hkmem.trans hmem, hkcores.trans hcores, ?_⟩
  unfold microcodeLoad
  rw [if_pos hstep, hm]
  rfl

theorem microcodeLoad_spec {m : List Byte} (bad : List CoreId) (hstep : s.boot.step = 4)
    (hm : sectionOf s.boot.image 1 = some m) : (microcodeLoad s bad).boot.step = 5 ∧
      (microcodeLoad s bad).boot.ucode = storeWords m ∧ (microcodeLoad s bad).mem = s.mem ∧
      ∀ c, ((microcodeLoad s bad).core c).svc = .retired ↔ (s.core c).svc = .retired ∨ c ∈ bad := by
  obtain ⟨u, hu5, hwords, hmem, hcores, heq⟩ := microcodeLoad_eq bad hstep hm
  have hcore : ∀ c, u.core c = s.core c := fun c => by unfold State.core; rw [hcores]
  obtain ⟨hkmem, hkboot⟩ := foldl_inv (P := fun v : State => v.mem = u.mem ∧ v.boot = u.boot) ⟨rfl, rfl⟩
    (bad.filter fun c => decide ((u.core c).svc ≠ .retired)) (f := retireBad)
    fun v c h => ⟨(retireBad_keeps c).1.trans h.1, (retireBad_keeps c).2.trans h.2⟩
  rw [heq, hkboot, hkmem]
  refine ⟨hu5, hwords, hmem, fun c => ?_⟩
  rw [svc_foldl_retireBad, List.mem_filter, hcore]
  by_cases h : (s.core c).svc = .retired <;> simp [h]

/-! ## Stand-in opens (R358, R364) -/

/-- The state after the key section, and whether it was taken. -/
def keySection (s : State) : Bool × State := restoreKeys { s with boot := { s.boot with step := 8 } }

/-- Every island of the stand-in set starts. -/
def standinUp (s : State) : State := standinSet.foldl islandUp s

theorem onlyIslands_standinUp (s : State) : OnlyIslands s (standinUp s) := (OnlyIslands.refl s).foldl _ fun s i =>
  (OnlyIslands.refl s).islandUp i

theorem keySection_none (h : sectionOf s.boot.image 4 = none) :
    keySection s = (true, { s with boot := { s.boot with step := 8 } }) := by
  unfold keySection restoreKeys
  dsimp only
  rw [h]

theorem restoreImage_keeps (b : List Byte) : (restoreImage s b).2.boot = s.boot ∧
    ∀ j < 44, islandState (restoreImage s b).2 j = islandState s j := by
  unfold restoreImage
  split
  · exact ⟨rfl, fun _ _ => rfl⟩
  · split
    · exact ⟨rfl, fun _ _ => rfl⟩
    · split
      · exact ⟨rfl, fun _ _ => rfl⟩
      · next ks _ =>
        have hslots : ∀ u : State, (noteSlots u).boot = u.boot ∧ ∀ j < 44, islandState (noteSlots u) j = islandState u j := by
          intro u
          have hoff : ∀ j < 44, Fld.CRY_STATUS_MAT_FREE.off ≠ Off.PWR_ISL_STATUS j := fun j hj => by
            show 0x90018 ≠ 0x20400 + 8 * j
            omega
          unfold noteSlots
          refine ⟨by simp, fun j hj => ?_⟩
          rw [islandState_setF_off _ _ (hoff j hj), islandState_setF_off (f := Fld.CRY_STATUS_SLOTS_USED) _ _ (hoff j hj)]
        exact ⟨(hslots _).1, fun j => (hslots _).2 j⟩

theorem keySection_keeps : (keySection s).2.boot = { s.boot with step := 8 } ∧
    ∀ j < 44, islandState (keySection s).2 j = islandState s j := by
  unfold keySection restoreKeys
  dsimp only
  split
  · exact ⟨rfl, fun _ _ => rfl⟩
  · obtain ⟨hboot, hisl⟩ := restoreImage_keeps (s := { s with boot := { s.boot with step := 8 } }) (by assumption)
    exact ⟨hboot, hisl⟩

section
variable {dial rules : List Byte}

/-- What stand-in is opened on: its sections in TILE.0, and port 0 trained. -/
def standinBase (s : State) (index : Nat) (dial rules : List Byte) : State :=
  let s1 := (s.wr (tileAddr 0 0x18_0000) rules).wr (tileAddr 0 0x19_0000) (dial.take (tableSize dial))
  let s2 := (s1.setReg Off.BOOT_T_SI s.now).setF (Fld.NET_PORT_STATUS_LINK_UP 0) (b2n (!s.pwr.clkLost.contains .eth))
  { s2 with boot := { s2.boot with siOpen := true, siDialect := index } }

theorem openStandin_eq (index : Nat) :
    openStandin s index dial rules = (standinUp (standinBase s index dial rules)).setF Fld.BOOT_STATUS_PHASE 3 := rfl

theorem standinBase_boot (index : Nat) :
    (standinBase s index dial rules).boot = { s.boot with siOpen := true, siDialect := index } := by
  unfold standinBase
  dsimp only
  rw [State.boot_setF]
  rfl

theorem standinBase_mem (index : Nat) : (standinBase s index dial rules).mem =
    memWrite (s.wr (tileAddr 0 0x18_0000) rules).mem (tileAddr 0 0x19_0000) (dial.take (tableSize dial)) := by
  unfold standinBase
  dsimp only
  rw [State.mem_setF]
  rfl

theorem standinBase_reg (index : Nat) {off : Nat} (h1 : off ≠ 0x70108) (h2 : off ≠ Off.SYS_EVT) :
    (standinBase s index dial rules).reg off = if off = Off.BOOT_T_SI then s.now else s.reg off := by
  have hreg : (standinBase s index dial rules).reg off = ((((s.wr (tileAddr 0 0x18_0000) rules).wr (tileAddr 0 0x19_0000)
      (dial.take (tableSize dial))).setReg Off.BOOT_T_SI s.now).setF (Fld.NET_PORT_STATUS_LINK_UP 0)
      (b2n (!s.pwr.clkLost.contains .eth))).reg off := rfl
  rw [hreg, State.reg_setF_ne _ _ _ _ h1 h2, reg_setReg, Nat.mod_eq_of_lt (show s.now < 2 ^ 64 from s.devtime.isLt)]
  rfl

theorem standinOpen_rules (hstep : s.boot.step = 5) (h2 : sectionOf s.boot.image 2 = some dial)
    (h3 : sectionOf s.boot.image 3 = some rules) : ∃ index, standinOpen s =
      if !(keySection s).1 ∨ !siSectionsOk dial rules then standinUp ((keySection s).2.setF Fld.BOOT_STATUS_ERR 0x09)
      else if s.policy 3 then standinUp (keySection s).2
      else openStandin (keySection s).2 index dial rules := by
  refine ⟨(((imgSections s.boot.image).find? fun x => x.type == 2).map fun x => x.index).getD 0, ?_⟩
  unfold standinOpen
  rw [if_neg (not_not.2 hstep), ← keySection]
  obtain ⟨ok, s1⟩ := keySection s
  dsimp only
  rw [h2, h3]
  rfl

theorem standinOpen_dialect (hstep : s.boot.step = 5) (h2 : sectionOf s.boot.image 2 = some dial)
    (h3 : sectionOf s.boot.image 3 = none) : standinOpen s =
      standinUp ((if (keySection s).1 && siDialectOk dial then (keySection s).2
        else (keySection s).2.setF Fld.BOOT_STATUS_ERR 0x09).setReg Off.BOOT_T_SI (keySection s).2.now) := by
  unfold standinOpen
  rw [if_neg (not_not.2 hstep), ← keySection]
  obtain ⟨ok, s1⟩ := keySection s
  dsimp only
  rw [h2, h3]
  rfl

theorem standinOpen_none (hstep : s.boot.step = 5) (h2 : sectionOf s.boot.image 2 = none) : standinOpen s =
      standinUp ((if (keySection s).1 then (keySection s).2
        else (keySection s).2.setF Fld.BOOT_STATUS_ERR 0x09).setReg Off.BOOT_T_SI (keySection s).2.now) := by
  unfold standinOpen
  rw [if_neg (not_not.2 hstep), ← keySection]
  obtain ⟨ok, s1⟩ := keySection s
  dsimp only
  rw [h2]
  rfl

/-- A state in which step 8 is over and no island has changed since. -/
def EighthStep (s u : State) : Prop := u.boot.step = 8 ∧ ∀ j < 44, islandState u j = islandState s j

theorem eighthStep_keySection : EighthStep s (keySection s).2 :=
  ⟨congrArg (fun b => b.step) keySection_keeps.1, keySection_keeps.2⟩

theorem EighthStep.setErr {u : State} (h : EighthStep s u) (v : Nat) : EighthStep s (u.setF Fld.BOOT_STATUS_ERR v) :=
  ⟨(congrArg (fun b => b.step) (State.boot_setF ..)).trans h.1, fun j hj => (islandState_setF_off v j
    (by show 0x10000 ≠ 0x20400 + 8 * j; omega)).trans (h.2 j hj)⟩

theorem EighthStep.setSi {u : State} (h : EighthStep s u) (v : Nat) : EighthStep s (u.setReg Off.BOOT_T_SI v) :=
  ⟨h.1, fun j hj => (getF_setReg_ne u (g := Fld.PWR_ISL_STATUS_STATE j) (by show 0x20400 + 8 * j ≠ 0x10030; omega)).trans
    (h.2 j hj)⟩

theorem EighthStep.base {u : State} (h : EighthStep s u) (index : Nat) : EighthStep s (standinBase u index dial rules) := by
  refine ⟨by rw [standinBase_boot]; exact h.1, fun j hj => (State.getF_congr _ ?_).trans (h.2 j hj)⟩
  refine (standinBase_reg index ?_ ?_).trans (if_neg ?_)
  · show 0x20400 + 8 * j ≠ 0x70108
    omega
  · show 0x20400 + 8 * j ≠ 0x40
    omega
  · show 0x20400 + 8 * j ≠ 0x10030
    omega

/-- Whatever the sections are, the islands of the stand-in set start on a state that step 8 leaves. -/
theorem standinOpen_shape (hstep : s.boot.step = 5) : ∃ u, EighthStep s u ∧
    (standinOpen s = standinUp u ∨ standinOpen s = (standinUp u).setF Fld.BOOT_STATUS_PHASE 3) := by
  have hkey := eighthStep_keySection (s := s)
  have hite : ∀ c : Bool, EighthStep s (if c then (keySection s).2 else (keySection s).2.setF Fld.BOOT_STATUS_ERR 0x09) :=
    fun c => by cases c <;> [exact hkey.setErr 9; exact hkey]
  cases h2 : sectionOf s.boot.image 2 with
  | none => exact ⟨_, (hite _).setSi _, .inl (standinOpen_none hstep h2)⟩
  | some dial =>
    cases h3 : sectionOf s.boot.image 3 with
    | none => exact ⟨_, (hite _).setSi _, .inl (standinOpen_dialect hstep h2 h3)⟩
    | some rules =>
      obtain ⟨index, heq⟩ := standinOpen_rules hstep h2 h3
      rw [heq]
      split
      · exact ⟨_, hkey.setErr 9, .inl rfl⟩
      · split
        · exact ⟨_, hkey, .inl rfl⟩
        · exact ⟨_, hkey.base index, .inr (openStandin_eq index)⟩

theorem islandState_standinUp {u : State} {i : Fin 44} (hi : i ∈ standinSet) :
    islandState (standinUp u) i.val = if islandState u i.val = 5 then 5 else 2 := by
  unfold standinUp
  rw [islandState_foldl_islandUp, if_pos ⟨i, hi, rfl⟩]

theorem standinOpen_islands (hstep : s.boot.step = 5) : (standinOpen s).boot.step = 8 ∧
    ∀ i ∈ standinSet, islandState (standinOpen s) i.val = if islandState s i.val = 5 then 5 else 2 := by
  obtain ⟨u, ⟨hu8, hisl⟩, heq⟩ := standinOpen_shape hstep
  have hup8 : (standinUp u).boot.step = 8 := by rw [(onlyIslands_standinUp u).boot, hu8]
  have hup : ∀ i ∈ standinSet, islandState (standinUp u) i.val = if islandState s i.val = 5 then 5 else 2 := fun i hi => by
    rw [islandState_standinUp hi, hisl _ i.isLt]
  obtain heq | heq := heq
  · rw [heq]
    exact ⟨hup8, hup⟩
  · rw [heq]
    refine ⟨by rw [State.boot_setF, hup8], fun i hi => ?_⟩
    rw [islandState_setF_off 3 i.val (by show 0x10000 ≠ 0x20400 + 8 * i.val; omega), hup i hi]

theorem not_islReg_of_lt {off : Nat} (h : off < 0x20400) : ¬IslReg off := fun hi => absurd hi.1 (Nat.not_le.2 h)

/-- A field of BOOT_STATUS as the islands start. -/
theorem getF_standinUp (u : State) {f : FieldRef} (h1 : f.off < 0x20400) (h2 : f.off ≠ Off.SYS_EVT) :
    (standinUp u).getF f = u.getF f := (onlyIslands_standinUp u).getF (not_islReg_of_lt h1) h2

/-- Stand-in has opened under the rules and the dialect of the image (R364, R368). -/
theorem standinOpen_opens (hstep : s.boot.step = 5) (h2 : sectionOf s.boot.image 2 = some dial)
    (h3 : sectionOf s.boot.image 3 = some rules) (h4 : sectionOf s.boot.image 4 = none)
    (hok : siSectionsOk dial rules = true) (hpol : s.policy 3 = false) : (standinOpen s).boot.siOpen = true ∧
      (standinOpen s).getF Fld.BOOT_STATUS_PHASE = 3 ∧ (standinOpen s).reg Off.BOOT_T_SI = s.now ∧
      (standinOpen s).rd (tileAddr 0 0x19_0000) (tableSize dial) = dial.take (tableSize dial) := by
  obtain ⟨index, heq⟩ := standinOpen_rules hstep h2 h3
  rw [keySection_none h4, if_neg (by simp [hok]), hpol, if_neg (by decide), openStandin_eq] at heq
  have hlen : (dial.take (tableSize dial)).length = tableSize dial := by
    have hle : tableSize dial ≤ dial.length := by
      simp only [siSectionsOk, siDialectOk, Bool.and_eq_true, decide_eq_true_eq] at hok
      omega
    rw [List.length_take, Nat.min_eq_left hle]
  have honly := onlyIslands_standinUp
    (standinBase { s with boot := { s.boot with step := 8 } } index dial rules)
  rw [heq]
  refine ⟨?_, getF_phase_setF _ 3, ?_, ?_⟩
  · rw [State.boot_setF, honly.boot, standinBase_boot]
  · rw [State.reg_setF_ne _ _ _ _ (by decide) (by decide), honly.reg _ (not_islReg_of_lt (by decide)) (by decide),
      standinBase_reg index (by decide) (by decide), if_pos rfl]
    rfl
  · unfold State.rd
    rw [State.mem_setF, honly.mem, standinBase_mem]
    have hread := memRead_memWrite (State.wr { s with boot := { s.boot with step := 8 } } (tileAddr 0 0x18_0000) rules).mem
      (tileAddr 0 0x19_0000) (dial.take (tableSize dial))
    rw [hlen] at hread
    exact hread

theorem standinOpen_refused (hstep : s.boot.step = 5) (h2 : sectionOf s.boot.image 2 = some dial)
    (h3 : sectionOf s.boot.image 3 = some rules) (h4 : sectionOf s.boot.image 4 = none)
    (hbad : siSectionsOk dial rules = false) : (standinOpen s).boot.siOpen = s.boot.siOpen ∧
      (standinOpen s).getF Fld.BOOT_STATUS_ERR = 0x09 := by
  obtain ⟨index, heq⟩ := standinOpen_rules hstep h2 h3
  rw [keySection_none h4, if_pos (.inr (by rw [hbad]; decide))] at heq
  rw [heq, (onlyIslands_standinUp _).boot, getF_standinUp _ (by decide) (by decide), getF_err_setF, State.boot_setF]
  exact ⟨rfl, rfl⟩

theorem standinOpen_dialectOnly (hstep : s.boot.step = 5) (h2 : sectionOf s.boot.image 2 = some dial)
    (h3 : sectionOf s.boot.image 3 = none) (h4 : sectionOf s.boot.image 4 = none) :
    (standinOpen s).boot.siOpen = s.boot.siOpen ∧ (standinOpen s).getF Fld.BOOT_STATUS_ERR =
      if siDialectOk dial = true then s.getF Fld.BOOT_STATUS_ERR else 0x09 := by
  have heq := standinOpen_dialect hstep h2 h3
  rw [keySection_none h4] at heq
  rw [heq, (onlyIslands_standinUp _).boot, getF_standinUp _ (by decide) (by decide), getF_setReg_ne _ (by decide)]
  dsimp only
  rw [Bool.true_and]
  cases siDialectOk dial with
  | true => exact ⟨rfl, rfl⟩
  | false =>
    rw [if_neg (by decide), if_neg (by decide), getF_err_setF]
    exact ⟨congrArg (fun b => b.siOpen) (State.boot_setF ..), rfl⟩

end

/-! ## HBM (R358) -/

theorem hbmInitDone_warm (hstep : s.boot.step = 8) (hwarm : s.getF Fld.BOOT_STATUS_WARM = 1) :
    hbmInitDone s = { s with boot := { s.boot with step := 9 } } := by
  unfold hbmInitDone
  rw [if_neg (not_not.2 hstep)]
  exact if_pos hwarm

theorem hbmInitDone_cold (hstep : s.boot.step = 8) (hwarm : s.getF Fld.BOOT_STATUS_WARM = 0) : hbmInitDone s =
    { s with
      boot := { s.boot with step := 9 }
      mem := s.mem.filter fun p => !inHbm p.1
      skeys := []
      ldg := { s.ldg with poison := [] } } := by
  unfold hbmInitDone
  rw [if_neg (not_not.2 hstep)]
  exact if_neg (fun h : s.getF Fld.BOOT_STATUS_WARM = 1 => absurd (hwarm.symm.trans h) (by decide))

theorem hbmInitDone_always (hstep : s.boot.step = 8) :
    (hbmInitDone s).boot.step = 9 ∧ (hbmInitDone s).regs = s.regs := by
  unfold hbmInitDone
  rw [if_neg (not_not.2 hstep)]
  dsimp only
  split
  · exact ⟨rfl, rfl⟩
  · exact ⟨rfl, rfl⟩

/-! ## The device is READY (R358, R417) -/

/-- The islands that start with READY. -/
def laterIslands : List (Fin 44) :=
  (List.finRange 44).filter fun i => !decide ((standinSet.any fun j => j.val == i.val) = true ∨ i.val = 43)

theorem mem_laterIslands {i : Fin 44} : i ∈ laterIslands ↔ i ∉ standinSet ∧ i ≠ 43 := by
  have h43 : i.val = 43 ↔ i = 43 := ⟨fun h => Fin.ext h, fun h => by rw [h]; rfl⟩
  have hmem : (standinSet.any fun j => j.val == i.val) = true ↔ i ∈ standinSet := by
    rw [List.any_eq_true]
    exact ⟨fun ⟨j, hj, hij⟩ => Fin.ext (by simpa using hij) ▸ hj, fun h => ⟨i, h, by simp⟩⟩
  unfold laterIslands
  rw [List.mem_filter]
  simp only [List.mem_finRange, true_and, Bool.not_eq_true', decide_eq_false_iff_not, not_or, hmem, h43]

theorem bringupRest_eq (s : State) : bringupRest s =
    avsWrite { (trainKolat (trainEth (laterIslands.foldl islandUp s))).setF Fld.BOOT_STATUS_PHASE 4 with
      boot := { (trainKolat (trainEth (laterIslands.foldl islandUp s))).boot with step := 11 } } := by
  have hskip := foldl_skip islandUp (fun i : Fin 44 => (standinSet.any fun j => j.val == i.val) = true ∨ i.val = 43)
    (List.finRange 44) s
  unfold bringupRest laterIslands
  rw [← hskip]

/-- A port of Kolat is trained and learns its neighbour. -/
def kolatUp (s : State) (p : Fin 8) : State := learnNeighbour (s.setF (Fld.KOL_PORT_STATUS_LINK_UP p.val) 1) p

/-- A port of Ethernet is trained if MODE groups it. -/
def ethUp (s : State) (p : Fin 8) : State :=
  if p.val ≠ 0 ∧ portGrouped s p then s.setF (Fld.NET_PORT_STATUS_LINK_UP p.val) 1 else s

theorem quiet_kolatUp (p : Fin 8) : Quiet s (kolatUp s p) := by
  unfold kolatUp learnNeighbour
  exact Quiet.ite (((Quiet.refl s).setF _ _).setF _ _) ((Quiet.refl s).setF _ _)

theorem quiet_ethUp (p : Fin 8) : Quiet s (ethUp s p) := Quiet.ite ((Quiet.refl s).setF _ _) (Quiet.refl s)

theorem quiet_trainKolat (s : State) : Quiet s (trainKolat s) :=
  Quiet.ite (Quiet.refl s) (foldl_inv (P := Quiet s) (Quiet.refl s) _ fun _ p h => h.trans (quiet_kolatUp p))

theorem quiet_trainEth (s : State) : Quiet s (trainEth s) :=
  Quiet.ite (Quiet.refl s) (foldl_inv (P := Quiet s) (Quiet.refl s) _ fun _ p h => h.trans (quiet_ethUp p))

/-- A field that is not of the status of a port of Kolat. -/
theorem getF_kolatUp (p : Fin 8) {g : FieldRef} (h1 : g.off < 0xC0100 ∨ 0xC0138 < g.off) (h2 : g.off ≠ Off.SYS_EVT) :
    (kolatUp s p).getF g = s.getF g := by
  have hoff : g.off ≠ Off.KOL_PORT_STATUS p.val := by
    show g.off ≠ 0xC0100 + 8 * p.val
    omega
  unfold kolatUp learnNeighbour
  split
  · rw [State.getF_setF_ne _ _ _ _ hoff h2, State.getF_setF_ne _ _ _ _ hoff h2]
  · rw [State.getF_setF_ne _ _ _ _ hoff h2]

theorem getF_kolatUp_self (p : Fin 8) : (kolatUp s p).getF (Fld.KOL_PORT_STATUS_LINK_UP p.val) = 1 := by
  have hup : (s.setF (Fld.KOL_PORT_STATUS_LINK_UP p.val) 1).getF (Fld.KOL_PORT_STATUS_LINK_UP p.val) = 1 :=
    State.getF_setF_self s _ 1 (by show 0xC0100 + 8 * p.val ≠ 0x40; omega) (by show 0 + 1 ≤ 64; decide)
  unfold kolatUp learnNeighbour
  split
  · rw [getF_setF_apart _ _ (by show 0xC0100 + 8 * p.val ≠ 0x40; omega) (by show 0 + 1 ≤ 64; decide)
      (.inr (.inl (by show 0 + 1 ≤ 16; decide))), hup]
  · exact hup

theorem getF_kolatUp_up (p q : Fin 8) (h : s.getF (Fld.KOL_PORT_STATUS_LINK_UP q.val) = 1) :
    (kolatUp s p).getF (Fld.KOL_PORT_STATUS_LINK_UP q.val) = 1 := by
  by_cases hpq : p = q
  · rw [hpq]
    exact getF_kolatUp_self q
  · have hoff : (Fld.KOL_PORT_STATUS_LINK_UP q.val).off ≠ Off.KOL_PORT_STATUS p.val := by
      show 0xC0100 + 8 * q.val ≠ 0xC0100 + 8 * p.val
      have hne : p.val ≠ q.val := fun h => hpq (Fin.ext h)
      omega
    have hevt : (Fld.KOL_PORT_STATUS_LINK_UP q.val).off ≠ Off.SYS_EVT := by
      show 0xC0100 + 8 * q.val ≠ 0x40
      omega
    unfold kolatUp learnNeighbour
    split
    · rw [State.getF_setF_ne _ _ _ _ hoff hevt, State.getF_setF_ne _ _ _ _ hoff hevt, h]
    · rw [State.getF_setF_ne _ _ _ _ hoff hevt, h]

theorem trainKolat_eq (hclk : RefClk.kol ∉ s.pwr.clkLost) : trainKolat s = allPorts.foldl kolatUp s :=
  if_neg fun h => hclk (List.contains_iff_mem.1 h)

theorem trainEth_eq (hclk : RefClk.eth ∉ s.pwr.clkLost) : trainEth s = allPorts.foldl ethUp s :=
  if_neg fun h => hclk (List.contains_iff_mem.1 h)

theorem trainKolat_up (hclk : RefClk.kol ∉ s.pwr.clkLost) (p : Fin 8) :
    (trainKolat s).getF (Fld.KOL_PORT_STATUS_LINK_UP p.val) = 1 := by
  rw [trainKolat_eq hclk]
  exact foldl_reaches (ok := fun _ => True) (P := fun u : State => u.getF (Fld.KOL_PORT_STATUS_LINK_UP p.val) = 1)
    (List.mem_finRange p) trivial (fun _ _ _ => trivial) (fun _ _ => getF_kolatUp_self p) fun _ q h => getF_kolatUp_up q p h

theorem getF_trainKolat {g : FieldRef} (h1 : g.off < 0xC0100 ∨ 0xC0138 < g.off) (h2 : g.off ≠ Off.SYS_EVT) :
    (trainKolat s).getF g = s.getF g := by
  unfold trainKolat
  split
  · rfl
  · exact foldl_inv (P := fun u : State => u.getF g = s.getF g) rfl _ fun _ p h => (getF_kolatUp p h1 h2).trans h

/-- A field that is not of the status of a port of Ethernet. -/
theorem getF_ethUp (p : Fin 8) {g : FieldRef} (h1 : g.off < 0x70108 ∨ 0x701E8 < g.off) (h2 : g.off ≠ Off.SYS_EVT) :
    (ethUp s p).getF g = s.getF g := by
  unfold ethUp
  split
  · exact State.getF_setF_ne _ _ _ _ (by show g.off ≠ 0x70108 + 32 * p.val; omega) h2
  · rfl

theorem getF_trainEth {g : FieldRef} (h1 : g.off < 0x70108 ∨ 0x701E8 < g.off) (h2 : g.off ≠ Off.SYS_EVT) :
    (trainEth s).getF g = s.getF g := by
  unfold trainEth
  split
  · rfl
  · exact foldl_inv (P := fun u : State => u.getF g = s.getF g) rfl _ fun _ p h => (getF_ethUp p h1 h2).trans h

theorem portGrouped_congr {t : State} (h : t.getF Fld.NET_CTRL_MODE = s.getF Fld.NET_CTRL_MODE) (p : Fin 8) :
    portGrouped t p = portGrouped s p := by
  unfold portGrouped
  rw [h]

theorem getF_setF_linkUp (p q : Fin 8) : (s.setF (Fld.NET_PORT_STATUS_LINK_UP p.val) 1).getF
    (Fld.NET_PORT_STATUS_LINK_UP q.val) = if q = p then 1 else s.getF (Fld.NET_PORT_STATUS_LINK_UP q.val) := by
  split
  · next h =>
    subst h
    exact State.getF_setF_self s _ 1 (by show 0x70108 + 32 * q.val ≠ 0x40; omega) (by show 0 + 1 ≤ 64; decide)
  · next h =>
    have hne : q.val ≠ p.val := fun hv => h (Fin.ext hv)
    exact State.getF_setF_ne _ _ _ _ (by show 0x70108 + 32 * q.val ≠ 0x70108 + 32 * p.val; omega)
      (by show 0x70108 + 32 * q.val ≠ 0x40; omega)

theorem trainEth_up (hclk : RefClk.eth ∉ s.pwr.clkLost) {p : Fin 8} (hp : p ≠ 0) (hgroup : portGrouped s p = true) :
    (trainEth s).getF (Fld.NET_PORT_STATUS_LINK_UP p.val) = 1 := by
  have hp0 : p.val ≠ 0 := fun h => hp (Fin.ext h)
  rw [trainEth_eq hclk]
  refine foldl_reaches (ok := fun u : State => u.getF Fld.NET_CTRL_MODE = s.getF Fld.NET_CTRL_MODE)
    (P := fun u : State => u.getF (Fld.NET_PORT_STATUS_LINK_UP p.val) = 1) (List.mem_finRange p) rfl
    (fun u q h => (getF_ethUp q (by decide) (by decide)).trans h) (fun u h => ?_) fun u q h => ?_
  · unfold ethUp
    rw [if_pos ⟨hp0, by rw [portGrouped_congr h, hgroup]⟩, getF_setF_linkUp, if_pos rfl]
  · unfold ethUp
    split
    · rw [getF_setF_linkUp, h, ite_self]
    · exact h

/-- What READY leaves where it is. -/
theorem bringupRest_getF {g : FieldRef} (h1 : g.off ≠ Off.BOOT_STATUS) (h2 : g.off ≠ Off.PWR_AVS) (h3 : g.off ≠ Off.SYS_EVT) :
    (bringupRest s).getF g = (trainKolat (trainEth (laterIslands.foldl islandUp s))).getF g := by
  rw [bringupRest_eq]
  exact (State.getF_setF_ne _ _ _ _ h2 h3).trans (State.getF_setF_ne _ _ _ _ h1 h3)

theorem onlyIslands_laterIslands (s : State) : OnlyIslands s (laterIslands.foldl islandUp s) :=
  (OnlyIslands.refl s).foldl _ fun s i => (OnlyIslands.refl s).islandUp i

theorem bringupRest_ready : (bringupRest s).getF Fld.BOOT_STATUS_PHASE = 4 ∧ (bringupRest s).boot.step = 11 ∧
    (bringupRest s).mem = s.mem := by
  rw [bringupRest_eq]
  unfold avsWrite
  refine ⟨?_, ?_, ?_⟩
  · rw [State.getF_setF_ne _ _ _ _ (by decide) (by decide)]
    rw [getF_withBoot, getF_phase_setF]
  · rw [State.boot_setF]
  · rw [State.mem_setF]
    exact (State.mem_setF ..).trans ((quiet_trainKolat _).mem.trans ((quiet_trainEth _).mem.trans
      (onlyIslands_laterIslands s).mem))

theorem bringupRest_island {i : Fin 44} (h1 : i ∉ standinSet) (h2 : i ≠ 43) :
    islandState (bringupRest s) i.val = if islandState s i.val = 5 then 5 else 2 := by
  have hevt : (Fld.PWR_ISL_STATUS_STATE i.val).off ≠ Off.SYS_EVT := by
    show 0x20400 + 8 * i.val ≠ 0x40
    omega
  have hget := bringupRest_getF (s := s) (g := Fld.PWR_ISL_STATUS_STATE i.val)
    (by show 0x20400 + 8 * i.val ≠ 0x10000; omega) (by show 0x20400 + 8 * i.val ≠ 0x20000; omega) hevt
  rw [getF_trainKolat (.inl (by show 0x20400 + 8 * i.val < 0xC0100; omega)) hevt,
    getF_trainEth (.inl (by show 0x20400 + 8 * i.val < 0x70108; omega)) hevt] at hget
  refine hget.trans ((islandState_foldl_islandUp laterIslands i.val).trans (if_pos ⟨i, mem_laterIslands.2 ⟨h1, h2⟩, rfl⟩))

theorem bringupRest_kolat (hclk : RefClk.kol ∉ s.pwr.clkLost) (p : Fin 8) :
    (bringupRest s).getF (Fld.KOL_PORT_STATUS_LINK_UP p.val) = 1 := by
  rw [bringupRest_getF (by show 0xC0100 + 8 * p.val ≠ 0x10000; omega) (by show 0xC0100 + 8 * p.val ≠ 0x20000; omega)
    (by show 0xC0100 + 8 * p.val ≠ 0x40; omega)]
  refine trainKolat_up ?_ p
  rw [(quiet_trainEth _).pwr, (onlyIslands_laterIslands s).clkLost]
  exact hclk

theorem bringupRest_eth (hclk : RefClk.eth ∉ s.pwr.clkLost) {p : Fin 8} (hp : p ≠ 0) (hgroup : portGrouped s p = true) :
    (bringupRest s).getF (Fld.NET_PORT_STATUS_LINK_UP p.val) = 1 := by
  have honly := onlyIslands_laterIslands s
  rw [bringupRest_getF (by show 0x70108 + 32 * p.val ≠ 0x10000; omega) (by show 0x70108 + 32 * p.val ≠ 0x20000; omega)
    (by show 0x70108 + 32 * p.val ≠ 0x40; omega), getF_trainKolat (.inl (by show 0x70108 + 32 * p.val < 0xC0100; omega))
    (by show 0x70108 + 32 * p.val ≠ 0x40; omega)]
  refine trainEth_up (by rw [honly.clkLost]; exact hclk) hp ?_
  rw [portGrouped_congr (honly.getF (fun h => absurd h.2 (by decide)) (by decide)), hgroup]

/-! ## Fuses (R360, R365) -/

theorem programFuses_spec (bits : List Nat) : (programFuses s bits).getF Fld.BOOT_STATUS_FUSE_BUSY = 1 ∧
    (programFuses s bits).boot.fusing = s.boot.fusing ++ bits ∧ (programFuses s bits).mem = s.mem := by
  unfold programFuses
  rw [getF_withBoot, State.getF_setF_self _ _ _ (by decide) (by decide)]
  exact ⟨rfl, rfl, State.mem_setF ..⟩

/-- A fuse bit is programmed. -/
def setFuse (s : State) (i : Nat) : State :=
  s.setReg (Off.BOOT_FUSE_RD (i / 64)) (putBits (s.reg (Off.BOOT_FUSE_RD (i / 64))) (i % 64) 1 1)

theorem reg_setFuse (i off : Nat) : (setFuse s i).reg off = if off = Off.BOOT_FUSE_RD (i / 64)
    then putBits (s.reg (Off.BOOT_FUSE_RD (i / 64))) (i % 64) 1 1 % 2 ^ 64 else s.reg off := reg_setReg ..

theorem testBit_setFuse (i k b : Nat) (hb : b < 64) : ((setFuse s i).reg (Off.BOOT_FUSE_RD k)).testBit b =
    ((s.reg (Off.BOOT_FUSE_RD k)).testBit b || decide (64 * k + b = i)) := by
  have hoff : Off.BOOT_FUSE_RD k = Off.BOOT_FUSE_RD (i / 64) ↔ k = i / 64 := by
    show 0x10100 + 8 * k = 0x10100 + 8 * (i / 64) ↔ k = i / 64
    omega
  rw [reg_setFuse]
  by_cases hk : k = i / 64
  · rw [if_pos (hoff.2 hk), Nat.testBit_mod_two_pow, testBit_putBits, ← hk, decide_eq_true hb, Bool.true_and]
    by_cases hib : b = i % 64
    · have hi : 64 * k + b = i := by omega
      rw [if_pos (by omega), decide_eq_true hi, Bool.or_true, hib, Nat.sub_self]
      rfl
    · rw [if_neg (by omega), decide_eq_false (by omega), Bool.or_false]
  · rw [if_neg fun h => hk (hoff.1 h), decide_eq_false (by omega), Bool.or_false]

theorem testBit_foldl_setFuse (l : List Nat) (k b : Nat) (hb : b < 64) :
    ((l.foldl setFuse s).reg (Off.BOOT_FUSE_RD k)).testBit b =
      ((s.reg (Off.BOOT_FUSE_RD k)).testBit b || decide (64 * k + b ∈ l)) := by
  induction l generalizing s with
  | nil => simp
  | cons i l ih =>
    rw [List.foldl_cons, ih, testBit_setFuse _ _ _ hb, Bool.or_assoc]
    simp only [List.mem_cons, Bool.decide_or]

theorem fuseBit_eq (s : State) (i : Nat) : fuseBit s i = (s.reg (Off.BOOT_FUSE_RD (i / 64))).testBit (i % 64) := by
  have h1 : i / 8 / 8 = i / 64 := by omega
  have h2 : 8 * (i / 8 % 8) + i % 8 = i % 64 := by omega
  have h3 : i % 8 < 8 := by omega
  unfold fuseBit State.fuseByte bitAt bitsOf
  rw [Nat.testBit_mod_two_pow, Nat.testBit_shiftRight, decide_eq_true h3, Bool.true_and, h1, h2]

theorem fuseWriteDone_eq (s : State) : fuseWriteDone s =
    { (s.boot.fusing.foldl setFuse s).setF Fld.BOOT_STATUS_FUSE_BUSY 0 with
      boot := { (s.boot.fusing.foldl setFuse s).boot with fusing := [] } } := rfl

theorem fuseBit_fuseWriteDone (i : Nat) :
    fuseBit (fuseWriteDone s) i = (fuseBit s i || decide (i ∈ s.boot.fusing)) := by
  have hreg : (fuseWriteDone s).reg (Off.BOOT_FUSE_RD (i / 64)) =
      (s.boot.fusing.foldl setFuse s).reg (Off.BOOT_FUSE_RD (i / 64)) := by
    rw [fuseWriteDone_eq]
    exact State.reg_setF_ne _ _ _ _ (by show 0x10100 + 8 * (i / 64) ≠ 0x10000; omega)
      (by show 0x10100 + 8 * (i / 64) ≠ 0x40; omega)
  rw [fuseBit_eq, fuseBit_eq, hreg, testBit_foldl_setFuse _ _ _ (by omega), Nat.div_add_mod]

end

/-! ## The obligation -/

/-- Settles O54: each step of bring-up by its lemmas above. -/
theorem bringUp : Obligations.BringUp := by
  unfold Obligations.BringUp
  intro s
  refine ⟨fun hstep hphase => ?select, fun b slot hslot => takeImage_spec b hslot, fun hstep hphase => ?load,
    fun m bad hstep hm => ?microcode, fun hstep => ?standin, fun hstep => ?hbm, fun hstep => ?ready,
    fun hphase => ⟨_, (exec_svnCommit s).trans (congrArg Host.Outcome.next (if_pos hphase)), ?svn⟩,
    fun hphase => (exec_svnCommit s).trans (congrArg Host.Outcome.next (if_neg hphase)), fun bit => ?fuse, ?done⟩
  case select =>
    intro a b seq
    refine ⟨fun ha hb _ _ => ?_, fun ha hb => ?_, fun ha hb => ?_, fun ha hb => ?_⟩
    · rw [exec_imageSelect, execImageSelect, imageSelect_found hstep hphase (.inl ha)]
      simp only [ne_eq, fld_eq_leNat_take, seq, a, b] at ha hb ⊢
      simp only [ha, hb, not_true, false_or, true_and]
    · rw [exec_imageSelect, execImageSelect, imageSelect_found hstep hphase (.inl ha), if_pos ⟨ha, .inl hb⟩]
    · rw [exec_imageSelect, execImageSelect, imageSelect_found hstep hphase (.inr hb), if_neg fun h => ha h.1]
    · exact ⟨_, rfl, imageSelect_failed hstep hphase ha hb⟩
  case load =>
    intro b
    have hload := bootLoad_eq hstep hphase
    refine ⟨fun hno => ?_, fun hyes herr => ?_, fun hyes herr => ?_⟩
    · rw [exec_bootLoad, execBootLoad, hload, if_neg (by rw [hno]; decide)]
    · rw [exec_bootLoad, execBootLoad, hload, if_pos hyes]
      exact congrArg _ (if_pos herr)
    · rw [exec_bootLoad, execBootLoad, hload, if_pos hyes]
      exact congrArg _ (if_neg herr)
  case microcode =>
    obtain ⟨h5, hwords, hmem, hsvc⟩ := microcodeLoad_spec bad hstep hm
    refine ⟨_, rfl, h5, fun i hi hlen _ => ?_, hmem, hsvc⟩
    rw [hwords]
    exact getElem?_storeWords (by rw [fld_eq_leNat_take]; exact hi) hlen
  case standin =>
    obtain ⟨h8, hisl⟩ := standinOpen_islands hstep
    exact ⟨_, rfl, h8, fun dial rules h2 h3 h4 => ⟨standinOpen_opens hstep h2 h3 h4, standinOpen_refused hstep h2 h3 h4⟩,
      fun dial h2 h3 h4 => standinOpen_dialectOnly hstep h2 h3 h4, hisl⟩
  case hbm =>
    obtain ⟨h9, hregs⟩ := hbmInitDone_always hstep
    refine ⟨_, rfl, h9, hregs, fun hwarm => ?_, fun hcold => ?_⟩
    · rw [hbmInitDone_warm hstep hwarm]
      exact ⟨rfl, rfl⟩
    · rw [hbmInitDone_cold hstep hcold]
      refine ⟨rfl, rfl, fun a ha => ?_, fun a ha => ?_⟩
      · exact (memGet_filter (fun x => !inHbm x) s.mem a).trans (if_neg (by simp [inHbm, ha]))
      · exact (memGet_filter (fun x => !inHbm x) s.mem a).trans (if_pos (by simp [inHbm]; omega))
  case ready =>
    refine ⟨fun hnone => ⟨bringupRest s, ?_, bringupRest_ready.1, bringupRest_ready.2.1, bringupRest_ready.2.2,
      fun i => bringupRest_island, bringupRest_kolat, fun hclk p => bringupRest_eth hclk⟩, fun b hsome => ?_⟩
    · rw [exec_bringupReady, execBringupReady, if_neg (not_not.2 hstep), hnone]
    · rw [exec_bringupReady, execBringupReady, if_neg (not_not.2 hstep), hsome]
  case svn =>
    rw [← fld_eq_leNat_take]
    exact programFuses_spec _
  case fuse =>
    refine ⟨fun h1 h2 hphase => ⟨_, (exec_fuseProgram s bit).trans (congrArg Host.Outcome.next (if_pos ⟨h1, h2, hphase⟩)),
      programFuses_spec _⟩,
      fun h => (exec_fuseProgram s bit).trans (congrArg Host.Outcome.next (if_neg fun hall => ?_))⟩
    obtain ⟨h1, h2, hphase⟩ := hall
    obtain h | h | h := h
    · exact absurd h1 (Nat.not_le.2 h)
    · exact absurd h2 (Nat.not_lt.2 h)
    · exact hphase h
  case done =>
    refine ⟨_, rfl, ?_, rfl, fun i _ => fuseBit_fuseWriteDone i⟩
    rw [fuseWriteDone_eq, getF_withBoot, State.getF_setF_self _ _ _ (by decide) (by decide)]
    rfl

end Sys2Proof.Proofs

namespace Sys2Proof.Proofs

open Sys2Proof Sys2Proof.Machine Sys2Proof.Laws

/-! # What the work of the units leaves alone

The end of a job, the records of JNL, a port that fails and the steps of release change memory, connections, transactions and
registers of their own units. What SYS and PWR keep, DEVTIME, the cores, the registers of SYS and BOOT, and whether
a port is up stay as they were. -/

/-- The registers of the Ethernet and Kolat ports. -/
def portReg (off : Nat) : Bool :=
  decide (0x70108 ≤ off ∧ off ≤ 0x701E8) || decide (0xC0100 ≤ off ∧ off ≤ 0xC0138)

/-- A register outside SYS and BOOT, and not of a port. -/
def sparesReg (off : Nat) : Bool := decide (0x20000 ≤ off) && !portReg off

/-- A field outside SYS and BOOT, and not LINK_UP of a port. -/
def sparesField (f : FieldRef) : Bool := decide (0x20000 ≤ f.off) && (decide (1 ≤ f.lo) || !portReg f.off)

/-- What SYS and PWR keep, DEVTIME, the cores, the registers of SYS and BOOT, and the links that are up are those
of `o`; so are whether stand-in is open, whether a zeroisation runs, and whether the journal does. -/
structure Steady (o t : State) : Prop where
  sys : t.sys = o.sys
  pwr : t.pwr = o.pwr
  devtime : t.devtime = o.devtime
  cores : t.cores = o.cores
  siOpen : t.boot.siOpen = o.boot.siOpen
  zeroing : t.cry.zeroing = o.cry.zeroing
  running : t.jnl.running = o.jnl.running
  reg : ∀ off, off < 0x20000 → off ≠ Off.SYS_EVT → t.reg off = o.reg off
  ethUp : ∀ p : Fin 8, t.getF (Fld.NET_PORT_STATUS_LINK_UP p.val) = o.getF (Fld.NET_PORT_STATUS_LINK_UP p.val)
  kolUp : ∀ p : Fin 8, t.getF (Fld.KOL_PORT_STATUS_LINK_UP p.val) = o.getF (Fld.KOL_PORT_STATUS_LINK_UP p.val)

section
variable {o s t : State}

theorem Steady.refl (o : State) : Steady o o :=
  ⟨rfl, rfl, rfl, rfl, rfl, rfl, rfl, fun _ _ _ => rfl, fun _ => rfl, fun _ => rfl⟩

theorem Steady.trans (h : Steady o s) (g : Steady s t) : Steady o t where
  sys := g.sys.trans h.sys
  pwr := g.pwr.trans h.pwr
  devtime := g.devtime.trans h.devtime
  cores := g.cores.trans h.cores
  siOpen := g.siOpen.trans h.siOpen
  zeroing := g.zeroing.trans h.zeroing
  running := g.running.trans h.running
  reg off h1 h2 := (g.reg off h1 h2).trans (h.reg off h1 h2)
  ethUp p := (g.ethUp p).trans (h.ethUp p)
  kolUp p := (g.kolUp p).trans (h.kolUp p)

/-- What differs in registers alone, none of SYS and BOOT and no LINK_UP among them. -/
theorem Steady.of_quiet (h : Steady o s) (hq : Quiet s t) (hreg : ∀ off, off < 0x20000 → off ≠ Off.SYS_EVT → t.reg off = s.reg off)
    (heth : ∀ p : Fin 8, t.getF (Fld.NET_PORT_STATUS_LINK_UP p.val) = s.getF (Fld.NET_PORT_STATUS_LINK_UP p.val))
    (hkol : ∀ p : Fin 8, t.getF (Fld.KOL_PORT_STATUS_LINK_UP p.val) = s.getF (Fld.KOL_PORT_STATUS_LINK_UP p.val)) :
    Steady o t :=
  h.trans ⟨hq.sys, hq.pwr, hq.devtime, hq.cores, by rw [hq.boot], by rw [hq.cry], by rw [hq.jnl], hreg, heth, hkol⟩

theorem Steady.setReg (h : Steady o s) {off v : Nat} (hoff : sparesReg off = true) : Steady o (s.setReg off v) := by
  unfold sparesReg portReg at hoff
  simp only [Bool.and_eq_true, Bool.not_eq_true', Bool.or_eq_false_iff, decide_eq_true_eq, decide_eq_false_iff_not] at hoff
  refine h.of_quiet ((Quiet.refl s).setReg off v) (fun a ha _ => ?_) (fun p => getF_setReg_ne s ?_) fun p => getF_setReg_ne s ?_
  · rw [reg_setReg, if_neg (by omega)]
  · show 0x70108 + 32 * p.val ≠ off
    omega
  · show 0xC0100 + 8 * p.val ≠ off
    omega

theorem Steady.bump (h : Steady o s) {off n : Nat} (hoff : sparesReg off = true) : Steady o (s.bump off n) := h.setReg hoff

theorem Steady.msix (h : Steady o s) {v : Nat} : Steady o (s.msix v) :=
  h.of_quiet ((Quiet.refl s).msix v) (fun _ _ _ => State.reg_msix ..) (fun _ => State.getF_congr _ (State.reg_msix ..))
    fun _ => State.getF_congr _ (State.reg_msix ..)

theorem Steady.setF (h : Steady o s) {f : FieldRef} {v : Nat} (hf : sparesField f = true) : Steady o (s.setF f v) := by
  unfold sparesField portReg at hf
  simp only [Bool.and_eq_true, Bool.not_eq_true', Bool.or_eq_true, Bool.or_eq_false_iff, decide_eq_true_eq,
    decide_eq_false_iff_not] at hf
  obtain ⟨hlow, hport⟩ := hf
  refine h.of_quiet ((Quiet.refl s).setF f v) (fun a ha he => State.reg_setF_ne s f v a (by omega) he)
    (fun p => getF_setF_apart s v (by show 0x70108 + 32 * p.val ≠ 0x40; omega) (by show 0 + 1 ≤ 64; decide) ?_)
    fun p => getF_setF_apart s v (by show 0xC0100 + 8 * p.val ≠ 0x40; omega) (by show 0 + 1 ≤ 64; decide) ?_
  · obtain h1 | ⟨h2, -⟩ := hport
    · exact .inr (.inl h1)
    · exact .inl (by show 0x70108 + 32 * p.val ≠ f.off; omega)
  · obtain h1 | ⟨-, h2⟩ := hport
    · exact .inr (.inl h1)
    · exact .inl (by show 0xC0100 + 8 * p.val ≠ f.off; omega)

theorem Steady.wr (h : Steady o s) {a : Nat} {bs : List Byte} : Steady o (s.wr a bs) :=
  h.trans ⟨rfl, rfl, rfl, rfl, rfl, rfl, rfl, fun _ _ _ => rfl, fun _ => rfl, fun _ => rfl⟩

theorem Steady.ite {c : Prop} [Decidable c] {a b : State} (h1 : Steady o a) (h2 : Steady o b) : Steady o (if c then a else b) := by
  split
  · exact h1
  · exact h2

/-- An update of what is not kept. -/
theorem Steady.upd {mem skeys l1 txns busy xlt ldg kol jnl cry hif net err boot adm skey mchks out freeCtr
    pending} (h : Steady o s) (hboot : boot.siOpen = s.boot.siOpen) (hcry : cry.zeroing = s.cry.zeroing) (hjnl : jnl.running = s.jnl.running) :
    Steady o (State.mk mem skeys s.regs s.cores l1 s.devtime txns busy xlt ldg kol jnl cry hif net err s.sys s.pwr boot adm
      skey mchks out freeCtr pending) :=
  h.trans ⟨rfl, rfl, rfl, rfl, hboot, hcry, hjnl, fun _ _ _ => rfl, fun _ => rfl, fun _ => rfl⟩

theorem Steady.foldl {α : Type} {f : State → α → State} (h : Steady o s) (l : List α)
    (hf : ∀ s a, Steady o s → Steady o (f s a)) : Steady o (l.foldl f s) := foldl_inv h l hf

theorem Steady.foldl_mem {α : Type} {f : State → α → State} (h : Steady o s) (l : List α)
    (hf : ∀ s, ∀ a ∈ l, Steady o s → Steady o (f s a)) : Steady o (l.foldl f s) := by
  induction l generalizing s with
  | nil => exact h
  | cons a l ih => exact ih (hf s a List.mem_cons_self h) fun s b hb => hf s b (List.mem_cons_of_mem _ hb)

theorem Steady.foldl2 {α β : Type} {f : β × State → α → β × State} {p : β × State} (h : Steady o p.2) (l : List α)
    (hf : ∀ p a, Steady o p.2 → Steady o (f p a).2) : Steady o (l.foldl f p).2 :=
  foldl_inv (P := fun p : β × State => Steady o p.2) h l hf

theorem Steady.of_snd {α : Type} {r : α × State} {a : α} (h : Steady o r.2) (e : r = (a, s)) : Steady o s := by
  rw [e] at h
  exact h

theorem Steady.of_some {r : Option State} (h : InO (fun u => Steady o u) r) (e : r = some s) : Steady o s := h.of e

theorem Steady.of_some2 {α : Type} {r : Option (α × State)} {a : α} (h : InO (fun u => Steady o u.2) r)
    (e : r = some (a, s)) : Steady o s := h.of e

end

section
variable {o : State}

theorem Steady.openBytes {s : State} {n : ℕ} (h_s : Steady o s) : Steady o ((State.openBytes s n).2) := by
  unfold Machine.State.openBytes
  repeat' first
    | with_reducible assumption | intro _ | fail_if_no_progress with_reducible refine Steady.upd ?_ rfl rfl rfl

theorem Steady.noteFault {s : State} {r : ErrReport} (h_s : Steady o s) : Steady o (noteFault s r) := by
  unfold Machine.noteFault
  repeat' first
    | with_reducible assumption | intro _ | with_reducible apply Steady.bump | with_reducible apply Steady.setF
    | with_reducible apply Steady.ite | fail_if_no_progress with_reducible refine Steady.upd ?_ rfl rfl rfl
    | exact rfl

theorem sparesReg_of_lt {off : Nat} (h1 : 0x20000 ≤ off) (h2 : off < 0x70108) : sparesReg off = true := by
  simp [sparesReg, portReg]
  omega

theorem sparesField_of_lt {f : FieldRef} (h1 : 0x20000 ≤ f.off) (h2 : f.off < 0x70108) : sparesField f = true := by
  simp [sparesField, portReg]
  omega

/-- A field of a port's status above LINK_UP. -/
theorem sparesField_of_above {f : FieldRef} (h1 : 0x20000 ≤ f.off) (h2 : 1 ≤ f.lo) : sparesField f = true := by
  simp [sparesField, h1, h2]

theorem Steady.writeEntry {s : State} {r : ErrReport} {second : Bool} (h_s : Steady o s) : Steady o (writeEntry s r
    second) := by
  have hlog (k : Nat) (hk : k < 1024) : sparesReg (Off.ERR_LOG k) = true :=
    sparesReg_of_lt (by show 0x20000 ≤ 0x41000 + 8 * k; omega) (by show 0x41000 + 8 * k < 0x70108; omega)
  unfold Machine.writeEntry
  refine Steady.ite (Steady.upd ((h_s.bump rfl).setF rfl) rfl rfl rfl) ?_
  have hentry (e : List Byte) (k : Nat) (hk : k ≤ 1020) : Steady o ((((s.setReg (Off.ERR_LOG k) (fld e 0 8)).setReg
      (Off.ERR_LOG (k + 1)) (fld e 8 8)).setReg (Off.ERR_LOG (k + 2)) (fld e 16 8)).setReg (Off.ERR_LOG (k + 3))
      (fld e 24 8)) :=
    (((h_s.setReg (hlog _ (by omega))).setReg (hlog _ (by omega))).setReg (hlog _ (by omega))).setReg (hlog _ (by omega))
  have hall := hentry (errEntry s r second) (4 * (s.getF Fld.ERR_LOG_PTR_WR % 256)) (by omega)
  have hptr (u : State) (hu : Steady o u) (v : Nat) :
      Steady o ({ u with err := { u.err with lost := false } }.setF Fld.ERR_LOG_PTR_WR v) :=
    Steady.setF (hu.upd rfl rfl rfl) rfl
  exact Steady.ite (hptr _ hall _).msix (hptr _ hall _)

theorem Steady.report {s : State} {r : ErrReport} (h_s : Steady o s) : Steady o (State.report s r) := by
  unfold Machine.State.report
  repeat' first
    | with_reducible assumption | intro _ | with_reducible apply Steady.bump | with_reducible apply Steady.noteFault
    | with_reducible apply Steady.writeEntry | with_reducible apply Steady.ite
    | fail_if_no_progress with_reducible refine Steady.upd ?_ rfl rfl rfl
    | exact rfl

theorem index_lt_of_applying {s : State} {i : Initiator} {pa : Nat} {g : Region} (h : g ∈ applying s i pa) : g.index < 256 := by
  obtain ⟨k, hk, hg, -⟩ := mem_applying.1 h
  unfold activeRegion at hg
  dsimp only at hg
  split at hg
  · cases hg
    exact hk
  · exact absurd hg nofun

theorem Steady.appendAdvance {s : State} {i : Initiator} {pa len : ℕ} (h_s : Steady o s) : Steady o (appendAdvance s i pa
    len) := by
  unfold Machine.appendAdvance
  refine h_s.foldl_mem _ fun u g hg hu => Steady.ite (hu.setF ?_) hu
  have hlt := index_lt_of_applying hg
  exact sparesField_of_lt (by show 0x20000 ≤ 0x53000 + 8 * g.index; omega) (by show 0x53000 + 8 * g.index < 0x70108; omega)

theorem Steady.activateRegion {s : State} {k : ℕ} (hk : k < 256) (h_s : Steady o s) : Steady o (activateRegion s k) := by
  unfold Machine.activateRegion
  refine Steady.setReg (Steady.setReg (h_s.setF ?_) ?_) ?_
  · exact sparesField_of_lt (by show 0x20000 ≤ 0x53000 + 8 * k; omega) (by show 0x53000 + 8 * k < 0x70108; omega)
  · exact sparesReg_of_lt (by show 0x20000 ≤ 0x52000 + 16 * k; omega) (by show 0x52000 + 16 * k < 0x70108; omega)
  · exact sparesReg_of_lt (by show 0x20000 ≤ 0x52008 + 16 * k; omega) (by show 0x52008 + 16 * k < 0x70108; omega)

theorem Steady.activateAll {s : State} (h_s : Steady o s) : Steady o (activateAll s) := by
  unfold Machine.activateAll
  exact ((h_s.foldl_mem _ fun u k hk hu => hu.activateRegion (List.mem_range.1 hk)).setF rfl).setF rfl

theorem Steady.refuseAccess {s : State} {i : Initiator} {k : Kind} {pa : ℕ} (h_s : Steady o s) : Steady o (refuseAccess s
    i k pa) := by
  unfold Machine.refuseAccess
  repeat' first
    | with_reducible assumption | with_reducible apply Steady.setF | with_reducible apply Steady.report
    | with_reducible apply Steady.ite
    | exact rfl

theorem Steady.mpuSettled {s : State} (h_s : Steady o s) : Steady o (mpuSettled s) := by
  unfold Machine.mpuSettled
  repeat' first
    | with_reducible assumption | with_reducible apply Steady.activateAll | with_reducible apply Steady.ite

theorem Steady.readChecked {s : State} {i : Initiator} {pa n : ℕ} (h_s : Steady o s) : Steady o ((readChecked s i pa
    n).2) := by
  unfold Machine.readChecked
  repeat' first
    | with_reducible assumption | with_reducible apply Steady.refuseAccess | with_reducible apply Steady.ite
    | dsimp only | split

theorem Steady.islandRead {s : State} {i : Initiator} {pa n : ℕ} (h_s : Steady o s) : Steady o ((islandRead s i pa n).2)
    := by
  unfold Machine.islandRead
  repeat' first
    | with_reducible assumption | with_reducible apply Steady.mpuSettled | with_reducible apply Steady.readChecked

theorem Steady.writeChecked {s : State} {i : Initiator} {pa : ℕ} {bs : List Byte} (h_s : Steady o s) : Steady o
    ((writeChecked s i pa bs).2) := by
  unfold Machine.writeChecked
  repeat' first
    | with_reducible assumption | with_reducible apply Steady.wr | with_reducible apply Steady.appendAdvance
    | with_reducible apply Steady.refuseAccess | with_reducible apply Steady.ite | dsimp only | split

theorem Steady.islandWrite {s : State} {i : Initiator} {pa : ℕ} {bs : List Byte} (h_s : Steady o s) : Steady o
    ((islandWrite s i pa bs).2) := by
  unfold Machine.islandWrite
  repeat' first
    | with_reducible assumption | with_reducible apply Steady.mpuSettled | with_reducible apply Steady.writeChecked

theorem Steady.modTxn {s : State} {an : ℕ} {f : Txn → Txn} (h_s : Steady o s) : Steady o (State.modTxn s an f) := by
  unfold Machine.State.modTxn
  repeat' first
    | with_reducible assumption | intro _ | with_reducible apply Steady.ite
    | fail_if_no_progress with_reducible refine Steady.upd ?_ rfl rfl rfl

theorem Steady.dropTxn {s : State} {an : ℕ} (h_s : Steady o s) : Steady o (State.dropTxn s an) := by
  unfold Machine.State.dropTxn
  repeat' first
    | with_reducible assumption | intro _ | fail_if_no_progress with_reducible refine Steady.upd ?_ rfl rfl rfl

theorem Steady.countOutstanding {s : State} (h_s : Steady o s) : Steady o (State.countOutstanding s) := by
  unfold Machine.State.countOutstanding
  repeat' first
    | with_reducible assumption | with_reducible apply Steady.setF
    | exact rfl

theorem Steady.faultHold {s : State} (h_s : Steady o s) : Steady o (faultHold s) := by
  unfold Machine.faultHold
  repeat' first
    | with_reducible assumption | with_reducible apply Steady.setF
    | exact rfl

theorem Steady.modJob {s : State} {id : ℕ} {f : CJob → CJob} (h_s : Steady o s) : Steady o (State.modJob s id f) := by
  unfold Machine.State.modJob
  repeat' first
    | with_reducible assumption | intro _ | with_reducible apply Steady.ite
    | fail_if_no_progress with_reducible refine Steady.upd ?_ rfl rfl rfl

theorem Steady.dropJob {s : State} {id : ℕ} (h_s : Steady o s) : Steady o (State.dropJob s id) := by
  unfold Machine.State.dropJob
  repeat' first
    | with_reducible assumption | intro _ | fail_if_no_progress with_reducible refine Steady.upd ?_ rfl rfl rfl

theorem Steady.writeStatus {s : State} {j : CJob} {status xf outLen : ℕ} (h_s : Steady o s) : Steady o (writeStatus s j
    status xf outLen) := by
  unfold Machine.writeStatus
  repeat' first
    | with_reducible assumption | with_reducible apply Steady.islandWrite

theorem Steady.readCaptured {s : State} {x1 : List (ℕ × ℕ)} (h_s : Steady o s) : Steady o ((readCaptured s x1).2) := by
  unfold Machine.readCaptured
  repeat' first
    | with_reducible assumption | with_reducible apply Steady.readCaptured | with_reducible apply Steady.islandRead
    | dsimp only | split | with_reducible refine Steady.of_snd ?_ (by assumption)

theorem Steady.writeCaptured {s : State} {x1 : List (ℕ × ℕ)} {x2 : List Byte} (h_s : Steady o s) : Steady o
    ((writeCaptured s x1 x2).2) := by
  unfold Machine.writeCaptured
  repeat' first
    | with_reducible assumption | with_reducible apply Steady.writeCaptured | with_reducible apply Steady.islandWrite
    | with_reducible apply Steady.ite | dsimp only | split | with_reducible refine Steady.of_snd ?_ (by assumption)

theorem Steady.chargeJob {s : State} {j : CJob} {n : ℕ} (h_s : Steady o s) : Steady o (chargeJob s j n) := by
  unfold Machine.chargeJob
  repeat' first
    | with_reducible assumption | intro _ | with_reducible apply Steady.modTxn

theorem Steady.noteStatus {s : State} {j : CJob} {status outLen : ℕ} (h_s : Steady o s) : Steady o (noteStatus s j status
    outLen) := by
  unfold Machine.noteStatus
  repeat' first
    | with_reducible assumption | with_reducible apply Steady.writeStatus | with_reducible apply Steady.ite

theorem Steady.stopJob {s : State} {j : CJob} {status : ℕ} (h_s : Steady o s) : Steady o (stopJob s j status) := by
  unfold Machine.stopJob
  repeat' first
    | with_reducible assumption | intro _ | with_reducible apply Steady.modJob
    | with_reducible apply Steady.writeCaptured | with_reducible apply Steady.chargeJob
    | with_reducible apply Steady.noteStatus | with_reducible apply Steady.ite
    | fail_if_no_progress with_reducible refine Steady.upd ?_ rfl rfl rfl

theorem Steady.queueCpl {s : State} {c : Cpl} (h_s : Steady o s) : Steady o (queueCpl s c) := by
  unfold Machine.queueCpl
  repeat' first
    | with_reducible assumption | with_reducible apply Steady.ite | fail_if_no_progress with_reducible refine Steady.upd ?_ rfl rfl rfl

theorem Steady.queueExc {s : State} {e : Exc} (h_s : Steady o s) : Steady o (queueExc s e) := by
  unfold Machine.queueExc
  repeat' first
    | with_reducible assumption | with_reducible apply Steady.ite | fail_if_no_progress with_reducible refine Steady.upd ?_ rfl rfl rfl

theorem Steady.putConn {s : State} {c : Conn} (h_s : Steady o s) : Steady o (putConn s c) := by
  unfold Machine.putConn
  repeat' first
    | with_reducible assumption | intro _ | with_reducible apply Steady.ite
    | fail_if_no_progress with_reducible refine Steady.upd ?_ rfl rfl rfl

theorem Steady.dropConn {s : State} {c : Conn} (h_s : Steady o s) : Steady o (dropConn s c) := by
  unfold Machine.dropConn
  repeat' first
    | with_reducible assumption | intro _ | fail_if_no_progress with_reducible refine Steady.upd ?_ rfl rfl rfl

theorem Steady.connWrite {s : State} {h off : ℕ} {bs : List Byte} (h_s : Steady o s) : Steady o (connWrite s h off bs) :=
    by
  unfold Machine.connWrite
  repeat' first
    | with_reducible assumption | with_reducible apply Steady.wr | with_reducible apply Steady.islandWrite
    | with_reducible apply Steady.ite

theorem Steady.connEvent {s : State} {c : Conn} {kind reason : ℕ} {data : List Byte} (h_s : Steady o s) : Steady o
    (connEvent s c kind reason data) := by
  unfold Machine.connEvent
  repeat' first
    | with_reducible assumption | with_reducible apply Steady.queueExc

theorem Steady.closeConn {s : State} {c : Conn} {reason : ℕ} (h_s : Steady o s) : Steady o (closeConn s c reason) := by
  unfold Machine.closeConn
  repeat' first
    | with_reducible assumption | intro _ | with_reducible apply Steady.bump | with_reducible apply Steady.queueCpl
    | with_reducible apply Steady.putConn | with_reducible apply Steady.dropConn | with_reducible apply Steady.connWrite
    | with_reducible apply Steady.connEvent | with_reducible apply Steady.ite | with_reducible apply Steady.foldl
    | exact rfl

theorem Steady.handToNet {s : State} {h gen tag : ℕ} {r : NRsp} (h_s : Steady o s) : Steady o (handToNet s h gen tag r)
    := by
  unfold Machine.handToNet
  repeat' first
    | with_reducible assumption | with_reducible apply Steady.queueCpl | with_reducible apply Steady.putConn
    | with_reducible apply Steady.ite | fail_if_no_progress with_reducible refine Steady.upd ?_ rfl rfl rfl | dsimp only | split

theorem Steady.handTxn {s : State} {t : Txn} (h_s : Steady o s) : Steady o (handTxn s t) := by
  unfold Machine.handTxn
  repeat' first
    | with_reducible assumption | intro _ | with_reducible apply Steady.modTxn | with_reducible apply Steady.dropTxn
    | with_reducible apply Steady.countOutstanding | with_reducible apply Steady.queueCpl
    | with_reducible apply Steady.handToNet | with_reducible apply Steady.ite
    | fail_if_no_progress with_reducible refine Steady.upd ?_ rfl rfl rfl | dsimp only | split

theorem Steady.handWhenReady {s : State} {an : ℕ} (h_s : Steady o s) : Steady o (handWhenReady s an) := by
  unfold Machine.handWhenReady
  repeat' first
    | with_reducible assumption | with_reducible apply Steady.handTxn | with_reducible apply Steady.serialised
    | with_reducible apply Steady.ite | dsimp only | split

theorem Steady.handBusy {s : State} {b : BusyRsp} {rsp : List Byte} (h_s : Steady o s) : Steady o (handBusy s b rsp) :=
    by
  unfold Machine.handBusy
  repeat' first
    | with_reducible assumption | with_reducible apply Steady.queueCpl | with_reducible apply Steady.handToNet
    | dsimp only | split

theorem Steady.learnNeighbour {s : State} {p : Fin 8} (h_s : Steady o s) : Steady o (learnNeighbour s p) := by
  unfold Machine.learnNeighbour
  refine Steady.ite (h_s.setF (sparesField_of_above ?_ ?_)) h_s
  · show 0x20000 ≤ 0xC0100 + 8 * p.val
    omega
  · show 1 ≤ 16
    decide

theorem Steady.modPort {s : State} {p : Fin 8} {f : KPort → KPort} (h_s : Steady o s) : Steady o (State.modPort s p f) :=
    by
  unfold Machine.State.modPort
  repeat' first
    | with_reducible assumption | fail_if_no_progress with_reducible refine Steady.upd ?_ rfl rfl rfl

theorem Steady.pumpPort {s : State} {p : Fin 8} (h_s : Steady o s) : Steady o (pumpPort s p) := by
  unfold Machine.pumpPort
  repeat' first
    | with_reducible assumption | intro _ | with_reducible apply Steady.modPort
    | fail_if_no_progress with_reducible refine Steady.upd ?_ rfl rfl rfl

theorem Steady.kolSend {s : State} {m : KMsg} {rev : Bool} {came : Option ℕ}
    (h_s : Steady o s) : Steady o (kolSend s m rev came) := by
  unfold Machine.kolSend
  repeat' first
    | with_reducible assumption | intro _ | with_reducible apply Steady.modPort | with_reducible apply Steady.pumpPort
    | fail_if_no_progress with_reducible refine Steady.upd ?_ rfl rfl rfl | dsimp only | split

theorem Steady.kolSendAll {s : State} {ns : List ℕ} {f : ℕ → KMsg} (h_s : Steady o s) : Steady o (kolSendAll s ns f) :=
    by
  unfold Machine.kolSendAll
  repeat' first
    | with_reducible assumption | intro _ | with_reducible apply Steady.kolSend | with_reducible apply Steady.foldl

theorem Steady.moveEntries {x : Bench} {x1 x2 x3 x4 : ℕ} {x5 : List ℕ} {x6 : State} (h_x6 : Steady o x6) : InO (fun r =>
    Steady o r.2) (moveEntries x x1 x2 x3 x4 x5 x6) := by
  unfold Machine.moveEntries
  repeat' first
    | with_reducible assumption | with_reducible apply Steady.moveEntries | with_reducible apply Steady.wr
    | with_reducible exact InO.none | with_reducible apply InO.some | dsimp only | split

theorem Steady.entryMoves {s : State} {x : Bench} {h e : ℕ} (h_s : Steady o s) : InO (fun r => Steady o r.2) (entryMoves
    s x h e) := by
  unfold Machine.entryMoves
  repeat' first
    | with_reducible assumption | intro _ | with_reducible apply Steady.wr | with_reducible apply Steady.moveEntries
    | with_reducible exact InO.none | with_reducible apply InO.some
    | with_reducible refine InO.map (Q := fun r => Steady o r.2) ?_ ?_ | with_reducible refine InO.mapAll ?_
    | fail_if_no_progress with_reducible refine Steady.upd ?_ rfl rfl rfl | dsimp only | split

theorem Steady.insertMoves {s : State} {n : ℕ} {x : Bench} {h : ℕ} {pending : Bool} (h_s : Steady o s) : InO (fun r =>
    Steady o r.2.2) (insertMoves s n x h pending) := by
  unfold Machine.insertMoves
  repeat' first
    | with_reducible assumption | intro _ | with_reducible apply Steady.entryMoves | with_reducible exact InO.none
    | with_reducible apply InO.some | with_reducible refine InO.map (Q := fun r => Steady o r.2) ?_ ?_
    | with_reducible refine InO.mapAll ?_ | fail_if_no_progress with_reducible refine Steady.upd ?_ rfl rfl rfl | dsimp only | split

theorem Steady.insertSlot {s : State} {n : ℕ} {x : Bench} {h : ℕ} {pending : Bool} (h_s : Steady o s) : InO (fun r =>
    Steady o r.2) (insertSlot s n x h pending) := by
  unfold Machine.insertSlot
  repeat' first
    | with_reducible assumption | intro _ | with_reducible apply Steady.insertMoves | with_reducible exact InO.none
    | with_reducible apply InO.some | with_reducible refine InO.map (Q := fun r => Steady o r.2.2) ?_ ?_

theorem Steady.setBitmap {s : State} {x : Bench} {slot : ℕ} {v : Bool} (h_s : Steady o s) : Steady o (setBitmap s x slot
    v) := by
  unfold Machine.setBitmap
  repeat' first
    | with_reducible assumption | with_reducible apply Steady.wr

theorem Steady.freeReserved {s : State} {r : SlotRes} (h_s : Steady o s) : Steady o (freeReserved s r) := by
  unfold Machine.freeReserved
  repeat' first
    | with_reducible assumption | intro _ | with_reducible apply Steady.wr
    | fail_if_no_progress with_reducible refine Steady.upd ?_ rfl rfl rfl | dsimp only | split

theorem Steady.actStore {s : State} {an run bench hash : ℕ} {l : List WEntry} {key : List Byte} {v : View}
    (h_s : Steady o s) : Steady o ((actStore s an run bench hash l key v).2) := by
  unfold Machine.actStore
  repeat' first
    | with_reducible assumption | with_reducible apply Steady.insertSlot | with_reducible apply Steady.ite
    | fail_if_no_progress with_reducible refine Steady.upd ?_ rfl rfl rfl | dsimp only | split
    | with_reducible refine Steady.of_some2 ?_ (by assumption)

theorem Steady.actDelete {s : State} {an run bench : ℕ} {v : View} (h_s : Steady o s) : Steady o ((actDelete s an run
    bench v).2) := by
  unfold Machine.actDelete
  repeat' first
    | with_reducible assumption | intro _ | with_reducible apply Steady.freeReserved | with_reducible apply Steady.foldl
    | with_reducible apply Steady.foldl2 | dsimp only | split

theorem Steady.ledgerAct {s : State} {an run bench hash : ℕ} {l : List WEntry} {op : LOp} {key : List Byte}
    (h_s : Steady o s) : Steady o ((ledgerAct s an run bench hash l op key).2) := by
  unfold Machine.ledgerAct
  repeat' first
    | with_reducible assumption | with_reducible apply Steady.actStore | with_reducible apply Steady.actDelete
    | dsimp only | split

theorem Steady.refuseOp {s : State} {i : Initiator} {bench : ℕ} {l : List WEntry} {op : LOp} {key : List Byte} {akey :
    ℕ} (h_s : Steady o s) : InO (fun r => Steady o r) (refuseOp s i bench l op key akey) := by
  unfold Machine.refuseOp
  repeat' first
    | with_reducible assumption | intro _ | with_reducible apply Steady.bump | with_reducible apply Steady.refuseAccess
    | with_reducible apply Steady.ite | with_reducible exact InO.none | with_reducible apply InO.some
    | with_reducible refine InO.mapAll ?_ | dsimp only | split
    | exact rfl

theorem Steady.takeLock {s : State} {r : LReq} (h_s : Steady o s) : Steady o (takeLock s r) := by
  unfold Machine.takeLock
  repeat' first
    | with_reducible assumption | intro _ | with_reducible apply Steady.ite
    | fail_if_no_progress with_reducible refine Steady.upd ?_ rfl rfl rfl

theorem Steady.modReq {s : State} {an run : ℕ} {f : LReq → LReq} (h_s : Steady o s) : Steady o (modReq s an run f) := by
  unfold Machine.modReq
  repeat' first
    | with_reducible assumption | intro _ | with_reducible apply Steady.ite
    | fail_if_no_progress with_reducible refine Steady.upd ?_ rfl rfl rfl

theorem Steady.dropLReq {s : State} {an run : ℕ} (h_s : Steady o s) : Steady o (dropLReq s an run) := by
  unfold Machine.dropLReq
  repeat' first
    | with_reducible assumption | intro _ | fail_if_no_progress with_reducible refine Steady.upd ?_ rfl rfl rfl

theorem Steady.putRsv {s : State} {an run deadline tag : ℕ} {e : WEntry} (h_s : Steady o s) : Steady o (putRsv s an run
    deadline tag e) := by
  unfold Machine.putRsv
  repeat' first
    | with_reducible assumption | intro _ | with_reducible apply Steady.ite
    | fail_if_no_progress with_reducible refine Steady.upd ?_ rfl rfl rfl

theorem Steady.answerLop {s : State} {r : LReq} {a : LAns} (h_s : Steady o s) : Steady o (answerLop s r a) := by
  unfold Machine.answerLop
  repeat' first
    | with_reducible assumption | with_reducible apply Steady.kolSend | dsimp only | split

theorem Steady.undoLock {s : State} {r : LReq} {l : List WEntry} (h_s : Steady o s) : Steady o (undoLock s r l) := by
  unfold Machine.undoLock
  repeat' first
    | with_reducible assumption | intro _ | with_reducible apply Steady.ite
    | fail_if_no_progress with_reducible refine Steady.upd ?_ rfl rfl rfl

theorem Steady.servePeer {s0 : State} {r : LReq} (h_s0 : Steady o s0) : Steady o (servePeer s0 r) := by
  unfold Machine.servePeer
  repeat' first
    | with_reducible assumption | with_reducible apply Steady.bump | with_reducible apply Steady.mpuSettled
    | with_reducible apply Steady.ledgerAct | with_reducible apply Steady.refuseOp | with_reducible apply Steady.dropLReq
    | with_reducible apply Steady.putRsv | with_reducible apply Steady.answerLop | with_reducible apply Steady.undoLock
    | with_reducible apply Steady.ite | dsimp only | split | with_reducible refine Steady.of_some ?_ (by assumption)
    | exact rfl

theorem Steady.grantReq {s : State} {r : LReq} (h_s : Steady o s) : Steady o (grantReq s r) := by
  unfold Machine.grantReq
  repeat' first
    | with_reducible assumption | intro _ | with_reducible apply Steady.takeLock | with_reducible apply Steady.modReq
    | with_reducible apply Steady.servePeer | with_reducible apply Steady.ite

theorem Steady.regrant {s : State} (h_s : Steady o s) : Steady o (regrant s) := by
  unfold Machine.regrant
  repeat' first
    | with_reducible assumption | intro _ | with_reducible apply Steady.grantReq | with_reducible apply Steady.ite
    | with_reducible apply Steady.foldl

theorem Steady.releaseRun {s : State} {an run : ℕ} (h_s : Steady o s) : Steady o (releaseRun s an run) := by
  unfold Machine.releaseRun
  repeat' first
    | with_reducible assumption | intro _ | with_reducible apply Steady.freeReserved
    | with_reducible apply Steady.regrant | with_reducible apply Steady.foldl | with_reducible apply Steady.foldl2
    | fail_if_no_progress with_reducible refine Steady.upd ?_ rfl rfl rfl

theorem Steady.noteFull {s : State} (h_s : Steady o s) : Steady o (noteFull s) := by
  unfold Machine.noteFull
  repeat' first
    | with_reducible assumption | with_reducible apply Steady.setF
    | exact rfl

theorem Steady.assignAt {s : State} {epoch stamp : ℕ} {h : JHead} {body : List Byte} (h_s : Steady o s) : Steady o
    (assignAt s epoch stamp h body) := by
  unfold Machine.assignAt
  repeat' first
    | with_reducible assumption | with_reducible apply Steady.setReg
    | fail_if_no_progress with_reducible refine Steady.upd ?_ rfl rfl rfl
    | exact rfl

theorem Steady.assignRec {s : State} {h : JHead} {body : List Byte} (h_s : Steady o s) : Steady o (assignRec s h body) :=
    by
  unfold Machine.assignRec
  repeat' first
    | with_reducible assumption | with_reducible apply Steady.assignAt

theorem Steady.putRecord {s : State} {a : ℕ} {bs : List Byte} (h_s : Steady o s) : Steady o (putRecord s a bs) := by
  unfold Machine.putRecord
  repeat' first
    | with_reducible assumption | intro _ | with_reducible apply Steady.wr
    | fail_if_no_progress with_reducible refine Steady.upd ?_ rfl rfl rfl

theorem Steady.applyEntry {jsn an run : ℕ} {s : State} {e : WEntry} (h_s : Steady o s) : Steady o (applyEntry jsn an run
    s e) := by
  unfold Machine.applyEntry
  repeat' first
    | with_reducible assumption | intro _ | with_reducible apply Steady.wr | with_reducible apply Steady.setBitmap
    | with_reducible apply Steady.putRecord | fail_if_no_progress with_reducible refine Steady.upd ?_ rfl rfl rfl | dsimp only | split

theorem Steady.areaAppend {s : State} {bs : List Byte} (h_s : Steady o s) : Steady o (areaAppend s bs) := by
  unfold Machine.areaAppend
  repeat' first
    | with_reducible assumption | with_reducible apply Steady.islandWrite

theorem Steady.closeGroup {s : State} (h_s : Steady o s) : Steady o (closeGroup s) := by
  unfold Machine.closeGroup
  repeat' first
    | with_reducible assumption | fail_if_no_progress with_reducible refine Steady.upd ?_ rfl rfl rfl | dsimp only | split

theorem Steady.groupAppend {s : State} {r : JRec} {bs : List Byte} (h_s : Steady o s) : Steady o (groupAppend s r bs) :=
    by
  unfold Machine.groupAppend
  repeat' first
    | with_reducible assumption | with_reducible apply Steady.closeGroup | with_reducible apply Steady.ite
    | fail_if_no_progress with_reducible refine Steady.upd ?_ rfl rfl rfl

theorem Steady.completeRec {s : State} {r : JRec} (h_s : Steady o s) : Steady o (completeRec s r) := by
  unfold Machine.completeRec
  repeat' first
    | with_reducible assumption | intro _ | with_reducible apply Steady.noteFull
    | with_reducible apply Steady.areaAppend | with_reducible apply Steady.groupAppend | with_reducible apply Steady.ite
    | fail_if_no_progress with_reducible refine Steady.upd ?_ rfl rfl rfl

theorem Steady.headRec {s : State} {seam prevLast : ℕ} (h_s : Steady o s) : Steady o (headRec s seam prevLast) := by
  unfold Machine.headRec
  repeat' first
    | with_reducible assumption | with_reducible apply Steady.assignRec
    | fail_if_no_progress with_reducible refine Steady.upd ?_ rfl rfl rfl

theorem Steady.applyMap {s : State} {t : KTick} (h_s : Steady o s) : Steady o (applyMap s t) := by
  unfold Machine.applyMap
  repeat' first
    | with_reducible assumption | intro _ | with_reducible apply Steady.wr | with_reducible apply Steady.setF
    | with_reducible apply Steady.ite | with_reducible apply Steady.foldl | with_reducible apply Steady.foldl2
    | fail_if_no_progress with_reducible refine Steady.upd ?_ rfl rfl rfl | dsimp only | split
    | exact rfl

theorem Steady.cascadeSeam {s : State} {t : KTick} (h_s : Steady o s) : Steady o (cascadeSeam s t) := by
  unfold Machine.cascadeSeam
  repeat' first
    | with_reducible assumption | with_reducible apply Steady.applyMap | with_reducible apply Steady.tick
    | with_reducible apply Steady.ite | fail_if_no_progress with_reducible refine Steady.upd ?_ rfl rfl rfl

theorem Steady.finishGseal {s : State} (h_s : Steady o s) : Steady o (finishGseal s) := by
  unfold Machine.finishGseal
  repeat' first
    | with_reducible assumption | intro _ | with_reducible apply Steady.bump | with_reducible apply Steady.setF
    | with_reducible apply Steady.dropJob | with_reducible apply Steady.kolSendAll | with_reducible apply Steady.noteFull
    | with_reducible apply Steady.assignRec | with_reducible apply Steady.ite
    | fail_if_no_progress with_reducible refine Steady.upd ?_ rfl rfl rfl | dsimp only | split
    | exact rfl

theorem Steady.sendFrame {s : State} {p : Fin 8} {frame : List Byte} (h_s : Steady o s) : Steady o (sendFrame s p frame)
    := by
  unfold Machine.sendFrame
  repeat' first
    | with_reducible assumption | with_reducible apply Steady.ite | fail_if_no_progress with_reducible refine Steady.upd ?_ rfl rfl rfl

theorem Steady.announce {s : State} {p : Fin 8} {c : Conn} (h_s : Steady o s) : Steady o (announce s p c) := by
  unfold Machine.announce
  repeat' first
    | with_reducible assumption | with_reducible apply Steady.sendFrame

theorem Steady.moveConn {s : State} {p : Fin 8} {resend : Bool} {c : Conn} (h_s : Steady o s) : Steady o (moveConn s p
    resend c) := by
  unfold Machine.moveConn
  repeat' first
    | with_reducible assumption | with_reducible apply Steady.putConn | with_reducible apply Steady.connWrite

theorem Steady.failOver {s : State} {p : Fin 8} (h_s : Steady o s) : Steady o (failOver s p) := by
  unfold Machine.failOver
  have hmoved := h_s.foldl (portConns s p) (f := fun s c => Machine.moveConn s (partner p) true c) fun _ _ hu => hu.moveConn
  have hsaid := hmoved.foldl (perAddress (portConns s p)) (f := fun s c => Machine.announce s (partner p) c) fun _ _ hu =>
    hu.announce
  refine Steady.ite hsaid (Steady.queueExc (hsaid.setF (sparesField_of_above ?_ ?_)))
  · show 0x20000 ≤ 0x70108 + 32 * p.val
    omega
  · show 1 ≤ 2
    decide

theorem Steady.setIslandState {s : State} {i : Fin 44} {v : ℕ} (h_s : Steady o s) : Steady o (setIslandState s i v) :=
  h_s.setF (sparesField_of_lt (by show 0x20000 ≤ 0x20400 + 8 * i.val; omega) (by show 0x20400 + 8 * i.val < 0x70108; omega))

theorem Steady.completeAll {x0 : ℕ} {x1 : State} (h_x1 : Steady o x1) : Steady o (completeAll x0 x1) := by
  unfold Machine.completeAll
  repeat' first
    | with_reducible assumption | with_reducible apply Steady.completeAll | with_reducible apply Steady.completeRec
    | fail_if_no_progress with_reducible refine Steady.upd ?_ rfl rfl rfl | dsimp only | split

theorem Steady.resumeJournal {s : State} (h_s : Steady o s) : Steady o (resumeJournal s) := by
  have hset : Steady o (s.setF Fld.JNL_STATUS_EPOCH 0) := h_s.setF rfl
  have hjnl : (s.setF Fld.JNL_STATUS_EPOCH 0).jnl = s.jnl := State.jnl_setF ..
  unfold Machine.resumeJournal
  split
  · exact hset.upd rfl rfl (by rw [hjnl])
  · exact hset.upd rfl rfl (by rw [hjnl])

theorem Steady.journalAdvice {s : State} {k : ℕ} (h_s : Steady o s) : Steady o (journalAdvice s k) := by
  unfold Machine.journalAdvice
  repeat' first
    | with_reducible assumption | with_reducible apply Steady.bump | with_reducible apply Steady.insertSlot
    | with_reducible apply Steady.assignAt | with_reducible apply Steady.applyEntry | dsimp only | split
    | with_reducible refine Steady.of_some2 ?_ (by assumption)
    | exact rfl

theorem Steady.epochZeroRec {s : State} (h_s : Steady o s) : Steady o (epochZeroRec s) := by
  unfold Machine.epochZeroRec
  repeat' first
    | with_reducible assumption | with_reducible apply Steady.noteFull | with_reducible apply Steady.headRec
    | with_reducible apply Steady.resumeJournal | with_reducible apply Steady.journalAdvice
    | with_reducible apply Steady.ite | fail_if_no_progress with_reducible refine Steady.upd ?_ rfl rfl rfl

theorem Steady.journalEpochZero {x0 : ℕ} {x1 : State} (h_x1 : Steady o x1) : Steady o (journalEpochZero x0 x1) := by
  unfold Machine.journalEpochZero
  repeat' first
    | with_reducible assumption | with_reducible apply Steady.journalEpochZero | with_reducible apply Steady.noteFull
    | with_reducible apply Steady.epochZeroRec | with_reducible apply Steady.ite | dsimp only | split

theorem Steady.closeEpochZero {s : State} (h_s : Steady o s) : Steady o (closeEpochZero s) := by
  unfold Machine.closeEpochZero
  repeat' first
    | with_reducible assumption | fail_if_no_progress with_reducible refine Steady.upd ?_ rfl rfl rfl

theorem Steady.journalTailSeal {s : State} (h_s : Steady o s) : Steady o (journalTailSeal s) := by
  unfold Machine.journalTailSeal
  repeat' first
    | with_reducible assumption | with_reducible apply Steady.assignRec
    | fail_if_no_progress with_reducible refine Steady.upd ?_ rfl rfl rfl | dsimp only | split

theorem Steady.passOldSeam {s : State} (h_s : Steady o s) : Steady o (passOldSeam s) := by
  unfold Machine.passOldSeam
  repeat' first
    | with_reducible assumption | with_reducible apply Steady.cascadeSeam | with_reducible apply Steady.tick
    | with_reducible apply Steady.ite | dsimp only | split

theorem Steady.joinLead {s0 : State} (h_s0 : Steady o s0) : Steady o (joinLead s0) := by
  unfold Machine.joinLead
  repeat' first
    | with_reducible assumption | intro _ | with_reducible apply Steady.setF
    | with_reducible apply Steady.learnNeighbour | with_reducible apply Steady.ite | with_reducible apply Steady.foldl
    | with_reducible apply Steady.foldl2 | fail_if_no_progress with_reducible refine Steady.upd ?_ rfl rfl rfl
    | exact rfl

theorem Steady.awaitJoin {s : State} {t : Fin 44} (h_s : Steady o s) : Steady o (awaitJoin s t) := by
  unfold Machine.awaitJoin
  repeat' first
    | with_reducible assumption | with_reducible apply Steady.setIslandState | with_reducible apply Steady.ite

theorem Steady.xltRead {s : State} {si : Bool} {pa n : ℕ} (h_s : Steady o s) : Steady o ((xltRead s si pa n).2) := by
  unfold Machine.xltRead
  repeat' first
    | with_reducible assumption | with_reducible apply Steady.islandRead | with_reducible apply Steady.ite | dsimp only
    | split

theorem Steady.dialectAt {s : State} {si : Bool} {pa : ℕ} (h_s : Steady o s) : Steady o ((dialectAt s si pa).2) := by
  unfold Machine.dialectAt
  repeat' first
    | with_reducible assumption | with_reducible apply Steady.xltRead | with_reducible apply Steady.ite | dsimp only
    | split | with_reducible refine Steady.of_snd ?_ (by assumption)

theorem Steady.noteXltErr {s : State} {dialect : ℕ} {e : XErr} (h_s : Steady o s) : Steady o (noteXltErr s dialect e) :=
    by
  unfold Machine.noteXltErr
  repeat' first
    | with_reducible assumption | with_reducible apply Steady.setReg
    | exact rfl

theorem Steady.issueMac {s : State} {lane : Fin 32} {d : Dialect} {what : LaneFor} {deadline an run : ℕ} {m : MacText}
    (h_s : Steady o s) : Steady o (issueMac s lane d what deadline an run m) := by
  unfold Machine.issueMac
  repeat' first
    | with_reducible assumption | intro _ | with_reducible apply Steady.modTxn | with_reducible apply Steady.ite
    | fail_if_no_progress with_reducible refine Steady.upd ?_ rfl rfl rfl

theorem Steady.templateHeader {s : State} {d : Dialect} {vals : Vals} (h_s : Steady o s) : Steady o ((templateHeader s d
    vals).2) := by
  unfold Machine.templateHeader
  repeat' first
    | with_reducible assumption | with_reducible apply Steady.openBytes | dsimp only | split

theorem Steady.templated {s : State} {d : Dialect} {tpl : ℕ} {reason : List Byte} {p : Parsed} {mac : Bool}
    (h_s : Steady o s) : Steady o ((templated s d tpl reason p mac).2) := by
  unfold Machine.templated
  repeat' first
    | with_reducible assumption | with_reducible apply Steady.templateHeader

theorem Steady.noteSubst {s : State} {n : ℕ} (h_s : Steady o s) : Steady o (noteSubst s n) := by
  unfold Machine.noteSubst
  repeat' first
    | with_reducible assumption | with_reducible apply Steady.bump
    | exact rfl

theorem Steady.answerTempl {s : State} {lane : Fin 32} {t : Txn} {e : XErr} {bs : List Byte}
    (h_s : Steady o s) : Steady o (answerTempl s lane t e bs) := by
  unfold Machine.answerTempl
  repeat' first
    | with_reducible assumption | intro _ | with_reducible apply Steady.bump | with_reducible apply Steady.report
    | with_reducible apply Steady.modTxn | with_reducible apply Steady.handTxn
    | with_reducible apply Steady.handWhenReady | with_reducible apply Steady.noteXltErr
    | with_reducible apply Steady.serialised | with_reducible apply Steady.ite
    | fail_if_no_progress with_reducible refine Steady.upd ?_ rfl rfl rfl | dsimp only | split
    | exact rfl

theorem Steady.sendTempl {s : State} {lane : Fin 32} {d : Dialect} {t : Txn} {tpl : ℕ} {e : XErr} {mac : Bool}
    (h_s : Steady o s) : Steady o (sendTempl s lane d t tpl e mac) := by
  unfold Machine.sendTempl
  repeat' first
    | with_reducible assumption | with_reducible apply Steady.issueMac | with_reducible apply Steady.templated
    | with_reducible apply Steady.noteSubst | with_reducible apply Steady.answerTempl | dsimp only | split
    | with_reducible refine Steady.of_snd ?_ (by assumption)

theorem Steady.sendBusy {s : State} {lane : Fin 32} {d : Dialect} {b : BusyRsp} {mac : Bool}
    (h_s : Steady o s) : Steady o (sendBusy s lane d b mac) := by
  unfold Machine.sendBusy
  repeat' first
    | with_reducible assumption | with_reducible apply Steady.handBusy | with_reducible apply Steady.issueMac
    | with_reducible apply Steady.templated | with_reducible apply Steady.noteSubst | dsimp only | split
    | with_reducible refine Steady.of_snd ?_ (by assumption)

theorem Steady.serialiseFault {s : State} {lane : Fin 32} {d : Dialect} {t : Txn} {e : XErr}
    (h_s : Steady o s) : Steady o (serialiseFault s lane d t e) := by
  unfold Machine.serialiseFault
  repeat' first
    | with_reducible assumption | with_reducible apply Steady.sendTempl

theorem Steady.serialised {s : State} {an : ℕ} {bs : List Byte} {n : ℕ} (h_s : Steady o s) : Steady o (serialised s an bs
    n) := by
  unfold Machine.serialised
  repeat' first
    | with_reducible assumption | intro _ | with_reducible apply Steady.modTxn
    | with_reducible apply Steady.handWhenReady | with_reducible apply Steady.noteSubst

theorem Steady.macDone {s : State} {w : LaneWork} {mac : List Byte} (h_s : Steady o s) : Steady o (macDone s w mac) := by
  unfold Machine.macDone
  repeat' first
    | with_reducible assumption | with_reducible apply Steady.handBusy | with_reducible apply Steady.noteSubst
    | with_reducible apply Steady.answerTempl | with_reducible apply Steady.serialised
    | with_reducible apply Steady.templated | dsimp only | split

theorem Steady.macFailed {s : State} {w : LaneWork} (h_s : Steady o s) : Steady o (macFailed s w) := by
  unfold Machine.macFailed
  repeat' first
    | with_reducible assumption | with_reducible apply Steady.bump | with_reducible apply Steady.handBusy
    | with_reducible apply Steady.dialectAt | with_reducible apply Steady.answerTempl
    | with_reducible apply Steady.sendTempl | with_reducible apply Steady.sendBusy
    | with_reducible apply Steady.serialiseFault | with_reducible apply Steady.templated | dsimp only | split
    | with_reducible refine Steady.of_snd ?_ (by assumption)
    | exact rfl

theorem Steady.laneResume {s : State} {w : LaneWork} (h_s : Steady o s) : Steady o (laneResume s w) := by
  unfold Machine.laneResume
  repeat' first
    | with_reducible assumption | intro _ | with_reducible apply Steady.macDone | with_reducible apply Steady.macFailed
    | with_reducible apply Steady.ite | fail_if_no_progress with_reducible refine Steady.upd ?_ rfl rfl rfl | dsimp only | split

theorem Steady.reportOrphan {s : State} {an : ℕ} (h_s : Steady o s) : Steady o (reportOrphan s an) := by
  unfold Machine.reportOrphan
  repeat' first
    | with_reducible assumption | with_reducible apply Steady.setF | with_reducible apply Steady.queueExc
    | exact rfl

theorem Steady.freeRsv {s : State} {an run : ℕ} (h_s : Steady o s) : Steady o (freeRsv s an run) := by
  unfold Machine.freeRsv
  repeat' first
    | with_reducible assumption | intro _ | with_reducible apply Steady.releaseRun
    | fail_if_no_progress with_reducible refine Steady.upd ?_ rfl rfl rfl

theorem Steady.nodeAbsent {s : State} {n : ℕ} (h_s : Steady o s) : Steady o (nodeAbsent s n) := by
  unfold Machine.nodeAbsent
  repeat' first
    | with_reducible assumption | intro _ | with_reducible apply Steady.reportOrphan
    | with_reducible apply Steady.freeRsv | with_reducible apply Steady.foldl

theorem Steady.noteAbsences {before s : State} (h_s : Steady o s) : Steady o (noteAbsences
    before s) := by
  unfold Machine.noteAbsences
  repeat' first
    | with_reducible assumption | intro _ | with_reducible apply Steady.nodeAbsent | with_reducible apply Steady.foldl

theorem Steady.sendLinkstate {s : State} {bond : ℕ} {recovered : Bool} (h_s : Steady o s) : Steady o (sendLinkstate s
    bond recovered) := by
  unfold Machine.sendLinkstate
  repeat' first
    | with_reducible assumption | intro _ | with_reducible apply Steady.kolSendAll

end

end Sys2Proof.Proofs

namespace Sys2Proof.Proofs

open Sys2Proof Sys2Proof.Machine Sys2Proof.Laws

/-! # The steps of release and of a zeroisation (R278, R375)

## Release -/

/-- The stand-in connections have gone to the main table. -/
def standinMoved (s : State) : State :=
  (standinConns s).foldl (fun s c =>
    (islandWrite s .net (mainConn s c.h) (s.rd (tileAddr 0 0x20_0000 + 256 * c.h) 256)).2) s

/-- Stand-in has closed. -/
def standinShut (u : State) : State := { u with boot := { u.boot with siOpen := false } }

/-- The connections of PORT.0 have gone to PORT.1, or back. -/
def standinHanded (u : State) : State :=
  if portLinkUp u 1 then failOver u 0 else (portConns u 0).foldl (fun s c => closeConn s c 0x09) u

theorem moveStandin_eq (s : State) :
    moveStandin s = (standinHanded (standinShut (standinMoved s))).setF (Fld.NET_PORT_STATUS_LINK_UP 0) 0 := rfl

/-- Release is marked: RWL fields lock, and BOOT_T_REL holds the time. -/
def releaseMarked (s : State) : State := (s.setF Fld.SYS_STATUS_LOCKED 1).setReg Off.BOOT_T_REL s.now

/-- The journal runs. -/
def journalRuns (u : State) : State := { u with jnl := { u.jnl with running := true } }

/-- The first main epoch has opened. -/
def mainEpochOpened (s : State) : State :=
  journalTailSeal (headRec ((releaseMarked s).setF Fld.JNL_STATUS_EPOCH (s.getF Fld.JNL_RESUME_EPOCH_NEXT)) s.now (s.jnl.next - 1))

/-- The cascade has been joined, and the tiles of stand-in wait. -/
def cascadeJoined (u : State) : State := standinTiles.foldl awaitJoin (passOldSeam (joinLead u))

theorem finishRelease_eq (s : State) :
    finishRelease s = noteFull ((cascadeJoined (journalRuns (mainEpochOpened s))).setF Fld.BOOT_STATUS_PHASE 6) := rfl

section
variable {o u : State}

theorem Steady.standinMoved (h : Steady o u) : Steady o (standinMoved u) := h.foldl _ fun _ _ h => h.islandWrite

theorem Steady.standinHanded (h : Steady o u) : Steady o (standinHanded u) :=
  Steady.ite h.failOver (h.foldl _ fun _ _ h => h.closeConn)

theorem Steady.cascadeJoined (h : Steady o u) : Steady o (cascadeJoined u) :=
  h.joinLead.passOldSeam.foldl _ fun _ _ h => h.awaitJoin

theorem steady_mainEpochOpened (s : State) : Steady (releaseMarked s) (mainEpochOpened s) :=
  ((Steady.refl _).setF rfl).headRec.journalTailSeal

end

/-! ## Zeroisation -/

/-- ZEROISED is set, with the tamper inputs. -/
def zeroiseMarked (s : State) (inputs : Nat) : State :=
  (s.setF Fld.CRY_STATUS_ZEROISED 1).setF Fld.CRY_STATUS_TAMPER (s.getF Fld.CRY_STATUS_TAMPER ||| inputs)

/-- Every job without its latch has been aborted. -/
def jobsStopped (s : State) : State :=
  (s.cry.jobs.filter fun j => match j.st with
    | .latched _ => false
    | _ => true).foldl (fun s j => stopJob s j 0x08) s

/-- The general space and the wrapped copies are being overwritten. -/
def zeroisingOn (s : State) : State := { s with cry := { s.cry with zeroing := true, wiping := true } }

/-- Every connection has been handed back. -/
def connsHandedBack (s : State) : State :=
  (s.net.conns.filter fun c => decide (c.st ≠ .closed)).foldl (fun s c => closeConn s c 0x05) s

theorem startZeroise_eq (s : State) (inputs : Nat) :
    startZeroise s inputs = connsHandedBack (zeroisingOn (jobsStopped (zeroiseMarked s inputs))) := rfl

section
variable {o u : State}

theorem Steady.jobsStopped (h : Steady o u) : Steady o (jobsStopped u) := h.foldl _ fun _ _ h => h.stopJob

theorem Steady.connsHandedBack (h : Steady o u) : Steady o (connsHandedBack u) := h.foldl _ fun _ _ h => h.closeConn

theorem steady_zeroiseMarked (s : State) (inputs : Nat) : Steady s (zeroiseMarked s inputs) :=
  ((Steady.refl s).setF rfl).setF rfl

end

end Sys2Proof.Proofs

namespace Sys2Proof.Proofs

open Sys2Proof Sys2Proof.Machine Sys2Proof.Laws

/-! # The stand-in log (R372, R373)

## Reads beside a write -/

theorem length_memRead (m : List Host.Cell) (a n : Nat) : (memRead m a n).length = n := by
  induction n generalizing a with
  | zero => rfl
  | succ n ih => rw [memRead, List.length_cons, ih]

/-- A read that the bytes of a write do not meet. -/
theorem memRead_memWrite_apart (m : List Host.Cell) {a n b : Nat} {bs : List Byte} (h : a + n ≤ b ∨ b + bs.length ≤ a) :
    memRead (memWrite m b bs) a n = memRead m a n := by
  induction n generalizing a with
  | zero => rfl
  | succ n ih => rw [memRead, memRead, memGet_memWrite_of_not_mem _ _ _ _ (by omega), ih (by omega)]

/-! ## Both copies of an entry -/

/-- The first copies, an array of 64-byte entries. -/
theorem logAddr_false (k : Nat) : logAddr false k = tileBase + 0x500_0000 + 64 * k := by
  show tileBase + (20 + k / 65536 + 2 * 0) * 0x40_0000 + 64 * (k % 65536) = tileBase + 0x500_0000 + 64 * k
  omega

/-- The second copies lie eight mebibytes on. -/
theorem logAddr_true (k : Nat) : logAddr true k = tileBase + 0x580_0000 + 64 * k := by
  show tileBase + (20 + k / 65536 + 2 * 1) * 0x40_0000 + 64 * (k % 65536) = tileBase + 0x580_0000 + 64 * k
  omega

section
variable {s : State} {k n : Nat} {e : List Byte}

theorem regs_logPut (s : State) (n : Nat) (e : List Byte) : (logPut s n e).regs = s.regs := rfl

/-- Each copy of an entry reads as it has been put, and every other as before. -/
theorem rd_logPut (hn : n < 131072) (hk : k < 131072) (he : e.length = 64) (second : Bool) :
    (logPut s n e).rd (logAddr second k) 64 = if k = n then e else s.rd (logAddr second k) 64 := by
  have hmem : (logPut s n e).mem = memWrite (memWrite s.mem (logAddr false n) e) (logAddr true n) e := rfl
  have hback : ∀ m a, memRead (memWrite m a e) a 64 = e := fun m a => by
    have h := memRead_memWrite m a e
    rwa [he] at h
  unfold State.rd
  rw [hmem, logAddr_false n, logAddr_true n]
  split
  · next h =>
    subst h
    cases second with
    | true =>
      rw [logAddr_true]
      exact hback _ _
    | false =>
      rw [logAddr_false, memRead_memWrite_apart _ (.inl (by omega))]
      exact hback _ _
  · next h =>
    cases second with
    | true => rw [logAddr_true, memRead_memWrite_apart _ (by omega), memRead_memWrite_apart _ (by omega)]
    | false => rw [logAddr_false, memRead_memWrite_apart _ (by omega), memRead_memWrite_apart _ (by omega)]

/-! ## A step of time on the log (R373) -/

/-- An entry of the log with its T_IN moved. -/
def movedEntry (d : Nat) (e : List Byte) : List Byte := patch e 8 (leBytes 8 ((fld e 8 8 + d) % 2 ^ 64))

/-- An entry is put back with its T_IN moved. -/
def moveEntry (d : Nat) (s : State) (k : Nat) : State := logPut s k (movedEntry d (logRead s k))

theorem length_logRead (s : State) (k : Nat) : (logRead s k).length = 64 := length_memRead ..

theorem length_movedEntry {d : Nat} (he : e.length = 64) : (movedEntry d e).length = 64 := by
  unfold movedEntry patch
  simp [leBytes_length, zeros, he]

theorem tin_movedEntry {d : Nat} (he : e.length = 64) :
    leNat (((movedEntry d e).drop 8).take 8) = (leNat ((e.drop 8).take 8) + d) % 2 ^ 64 := by
  have htin : (e.drop 8).take 8 = ((e.drop 8).take 8) ++ zeros (8 - ((e.drop 8).take 8).length) := by
    rw [List.length_take, List.length_drop, he]
    exact (List.append_nil _).symm
  have hpre : (e.take 8 ++ zeros (8 - e.length)).length = 8 := by
    rw [he]
    simp [he, zeros]
  unfold movedEntry patch
  rw [List.append_assoc, List.drop_left' hpre, List.take_left' (leBytes_length 8 _), leNat_leBytes, Nat.mod_eq_of_lt (by omega)]
  unfold fld sliceOf
  rw [← htin]

/-- Which copy is read, with all that decides it. -/
theorem logRead_congr {t : State} (hregs : t.regs = s.regs) (h : ∀ second, t.rd (logAddr second k) 64 = s.rd (logAddr second k) 64) :
    logRead t k = logRead s k := by
  have hholds : ∀ i, storeHolds t i = storeHolds s i := fun i => by
    unfold storeHolds islandState
    rw [State.getF_congr _ (State.reg_congr hregs _)]
  unfold logRead
  rw [hholds, h]

theorem logRead_of_copies {t : State} (h : ∀ second, t.rd (logAddr second k) 64 = e) : logRead t k = e := h _

/-- The entries below `m` have moved, and no register, nor any other part, has. -/
theorem foldl_moveEntry (s : State) (d m : Nat) (hm : m ≤ 131072) :
    let t := (List.range m).foldl (moveEntry d) s
    t.regs = s.regs ∧ ∀ j, j < 131072 → ∀ second, t.rd (logAddr second j) 64 =
      if j < m then movedEntry d (logRead s j) else s.rd (logAddr second j) 64 := by
  induction m with
  | zero => exact ⟨rfl, fun j _ second => (if_neg (Nat.not_lt_zero j)).symm⟩
  | succ m ih =>
    obtain ⟨hregs, hrd⟩ := ih (by omega)
    rw [List.range_succ, List.foldl_append, List.foldl_cons, List.foldl_nil]
    generalize (List.range m).foldl (moveEntry d) s = u at hregs hrd ⊢
    have hread : logRead u m = logRead s m :=
      logRead_congr hregs fun second => (hrd m (by omega) second).trans (if_neg (lt_irrefl m))
    have hlen : (movedEntry d (logRead u m)).length = 64 := length_movedEntry (length_logRead u m)
    refine ⟨hregs, fun j hj second => ?_⟩
    show (logPut u m (movedEntry d (logRead u m))).rd (logAddr second j) 64 = _
    rw [rd_logPut (by omega) hj hlen, hread, hrd j hj]
    by_cases hjm : j = m
    · rw [if_pos hjm, if_pos (by omega), hjm]
    · rw [if_neg hjm]
      exact if_congr (by omega) rfl rfl

theorem logRead_foldl_moveEntry {d m j : Nat} (hm : m ≤ 131072) (hj : j < m) :
    logRead ((List.range m).foldl (moveEntry d) s) j = movedEntry d (logRead s j) := by
  obtain ⟨-, hrd⟩ := foldl_moveEntry s d m hm
  exact logRead_of_copies fun second => (hrd j (by omega) second).trans (if_pos hj)

end

end Sys2Proof.Proofs

namespace Sys2Proof.Proofs

open Sys2Proof Sys2Proof.Machine Sys2Proof.Laws

/-! # Time and authenticated debug (O57: R373, R431, R432, R434, R435)

## Time steps (R373, R432) -/

/-- An event that is raised is set. -/
theorem testBit_evt (s : State) {b : Nat} (hb : b < 14) : ((s.evt b).getF Fld.SYS_EVT_EVT).testBit b = true := by
  have hreg : (s.evt b).reg Off.SYS_EVT = (s.reg Off.SYS_EVT ||| 2 ^ b) % 2 ^ 64 := by
    unfold State.evt
    rw [State.reg_evtRaise, reg_setReg, if_pos rfl]
  show (bitsOf ((s.evt b).reg Off.SYS_EVT) 0 14).testBit b = true
  rw [hreg]
  unfold bitsOf
  rw [Nat.testBit_mod_two_pow, Nat.testBit_shiftRight, Nat.testBit_mod_two_pow, Nat.testBit_or, Nat.zero_add,
    Nat.testBit_two_pow_self, Bool.or_true, Bool.and_true, decide_eq_true hb, decide_eq_true (show b < 64 by omega)]
  rfl

section
variable {s : State} {delta : Word}

theorem exec_timeStep_refused (hphase : s.getF Fld.BOOT_STATUS_PHASE = 6)
    (hbig : s.getF Fld.SYS_TIME_CFG_STEP_MAX_NS < delta.toInt.natAbs) :
    exec (.timeStep delta) s = .next ((s.setF Fld.SYS_STATUS_STEP_REFUSED 1).evt 10) := by
  have href : stepRefused s delta = true := by simp [stepRefused, hphase, hbig]
  rw [exec_timeStep, execTimeStep, timeStep, if_pos href]

/-- DEVTIME and what SYS counts in it, moved by a step. -/
def devtimeMoved (s : State) (delta : Word) : State :=
  { s with
    devtime := s.devtime + delta
    sys := { s.sys with
      lastPps := s.sys.lastPps.map fun t => (t + delta.toNat) % 2 ^ 64
      ppsOut := s.sys.ppsOut.map fun t => (t + delta.toNat) % 2 ^ 64 } }

/-- The stand-in log after a step. -/
def logMoved (s : State) (delta : Word) : State := (List.range (siLog s)).foldl (moveEntry delta.toNat) s

theorem devtimeMoved_keeps (s : State) (delta : Word) : (devtimeMoved s delta).devtime = s.devtime + delta ∧
    (devtimeMoved s delta).txns = s.txns ∧ (devtimeMoved s delta).jnl = s.jnl ∧
    (∀ off, (devtimeMoved s delta).reg off = s.reg off) := ⟨rfl, rfl, rfl, fun _ => rfl⟩

theorem siLog_devtimeMoved (s : State) (delta : Word) : siLog (devtimeMoved s delta) = siLog s := rfl

theorem stepStandin_eq (s : State) (delta : Word) : stepStandin s delta =
    (logMoved s delta).setReg Off.BOOT_T_PG (((logMoved s delta).reg Off.BOOT_T_PG + delta.toNat) % 2 ^ 64) := rfl

theorem logPut_keeps (u : State) (k : Nat) (e : List Byte) : (logPut u k e).devtime = u.devtime ∧
    (logPut u k e).txns = u.txns ∧ (logPut u k e).jnl = u.jnl ∧ (logPut u k e).regs = u.regs := ⟨rfl, rfl, rfl, rfl⟩

theorem logMoved_keeps (s : State) (delta : Word) : (logMoved s delta).devtime = s.devtime ∧
    (logMoved s delta).txns = s.txns ∧ (logMoved s delta).jnl = s.jnl ∧ (logMoved s delta).regs = s.regs :=
  foldl_inv (P := fun u : State => u.devtime = s.devtime ∧ u.txns = s.txns ∧ u.jnl = s.jnl ∧ u.regs = s.regs)
    ⟨rfl, rfl, rfl, rfl⟩ _ fun u k ⟨htime, htxns, hjnl, hregs⟩ => by
      obtain ⟨htime', htxns', hjnl', hregs'⟩ := logPut_keeps u k (movedEntry delta.toNat (logRead u k))
      exact ⟨htime'.trans htime, htxns'.trans htxns, hjnl'.trans hjnl, hregs'.trans hregs⟩

theorem stepStandin_keeps (s : State) (delta : Word) : (stepStandin s delta).devtime = s.devtime ∧
    (stepStandin s delta).txns = s.txns ∧ (stepStandin s delta).jnl = s.jnl ∧
    (stepStandin s delta).reg Off.BOOT_T_PG = (s.reg Off.BOOT_T_PG + delta.toNat) % 2 ^ 64 := by
  obtain ⟨htime, htxns, hjnl, hregs⟩ := logMoved_keeps s delta
  rw [stepStandin_eq]
  refine ⟨htime, htxns, hjnl, ?_⟩
  rw [reg_setReg, if_pos rfl, Nat.mod_mod, State.reg_congr hregs]

/-- Only the tile's state and the log itself decide what an entry reads as. -/
theorem logRead_of_mem {t u : State} (hmem : t.mem = u.mem) (hisl : ∀ i, islandState t i = islandState u i) (k : Nat) :
    logRead t k = logRead u k := by
  unfold logRead storeHolds State.rd
  rw [hmem, hisl]

theorem logRead_devtimeMoved (s : State) (delta : Word) (n : Nat) : logRead (devtimeMoved s delta) n = logRead s n :=
  logRead_of_mem rfl (fun _ => rfl) n

theorem logRead_stepStandin (hlog : siLog s ≤ 131072) {n : Nat} (hn : n < siLog s) :
    logRead (stepStandin s delta) n = movedEntry delta.toNat (logRead s n) := by
  have hmoved : logRead (logMoved s delta) n = movedEntry delta.toNat (logRead s n) := logRead_foldl_moveEntry hlog hn
  rw [stepStandin_eq, ← hmoved]
  refine logRead_of_mem (State.mem_setReg ..) (fun i => ?_) n
  exact getF_setReg_ne _ (by show 0x20400 + 8 * i ≠ 0x10028; omega)

/-- The log, DEVTIME and BOOT_T_PG after a step. -/
def timeMoved (s : State) (delta : Word) : State := stepStandin (devtimeMoved s delta) delta

theorem timeMoved_keeps (s : State) (delta : Word) : (timeMoved s delta).devtime = s.devtime + delta ∧
    (timeMoved s delta).txns = s.txns ∧ (timeMoved s delta).jnl = s.jnl ∧
    (timeMoved s delta).reg Off.BOOT_T_PG = (s.reg Off.BOOT_T_PG + delta.toNat) % 2 ^ 64 ∧
    (siLog s ≤ 131072 → ∀ n, n < siLog s → logRead (timeMoved s delta) n = movedEntry delta.toNat (logRead s n)) := by
  obtain ⟨htime, htxns, hjnl, hpg⟩ := stepStandin_keeps (devtimeMoved s delta) delta
  obtain ⟨htime', htxns', hjnl', hreg'⟩ := devtimeMoved_keeps s delta
  unfold timeMoved
  refine ⟨htime.trans htime', htxns.trans htxns', hjnl.trans hjnl', by rw [hpg, hreg'], fun hle n hn => ?_⟩
  rw [← siLog_devtimeMoved s delta] at hle hn
  rw [logRead_stepStandin hle hn, logRead_devtimeMoved]

/-- A step passes a second boundary while the output is on. -/
def passesSecond (s : State) (delta : Word) : Bool :=
  s.getF Fld.SYS_PPS_OUT_EN = 1 && decide (s.now / 1000000000 ≠ (timeMoved s delta).now / 1000000000)

/-- The edge touches what SYS keeps alone. -/
theorem ite_ppsRise_keeps (u : State) (c : Prop) [Decidable c] : (if c then ppsRise u else u).devtime = u.devtime ∧
    (if c then ppsRise u else u).regs = u.regs ∧ (if c then ppsRise u else u).mem = u.mem ∧
    (if c then ppsRise u else u).txns = u.txns ∧ (if c then ppsRise u else u).jnl = u.jnl := by
  split <;> exact ⟨rfl, rfl, rfl, rfl, rfl⟩

/-- The event of a step, after the edge of a second boundary that it crosses. -/
def stepEnded (c : Bool) (u : State) : State := (if c = true then ppsRise u else u).evt 10

theorem stepEnded_keeps (c : Bool) (u : State) : (stepEnded c u).devtime = u.devtime ∧ (stepEnded c u).txns = u.txns ∧
    (stepEnded c u).jnl = u.jnl ∧ (∀ k, logRead (stepEnded c u) k = logRead u k) ∧
    (∀ off, off ≠ Off.SYS_EVT → (stepEnded c u).reg off = u.reg off) ∧
    (stepEnded c u).now = u.now ∧ (c = true → (stepEnded c u).sys.ppsOut = some u.now) := by
  obtain ⟨htime, hregs, hmem, htxns, hjnl⟩ := ite_ppsRise_keeps u (c = true)
  have hedge : c = true → (if c = true then ppsRise u else u).sys.ppsOut = some u.now := fun h => by rw [if_pos h]; rfl
  unfold stepEnded
  generalize (if c = true then ppsRise u else u) = v at htime hregs hmem htxns hjnl hedge
  have hq := (Quiet.refl v).evt 10
  have hreg : ∀ off, off ≠ Off.SYS_EVT → (v.evt 10).reg off = u.reg off := fun off h =>
    (State.reg_evt_ne _ _ _ h).trans (State.reg_congr hregs _)
  refine ⟨hq.devtime.trans htime, hq.txns.trans htxns, hq.jnl.trans hjnl, logRead_of_mem (hq.mem.trans hmem) fun i => ?_,
    hreg, by rw [State.now, hq.devtime, htime]; rfl, fun h => (congrArg Sys.ppsOut hq.sys).trans (hedge h)⟩
  exact State.getF_congr _ (hreg _ (by show 0x20400 + 8 * i ≠ 0x40; omega))

theorem passesSecond_iff (s : State) (delta : Word) : passesSecond s delta = true ↔ s.getF Fld.SYS_PPS_OUT_EN = 1 ∧
    decide (s.now / 1000000000 ≠ (timeMoved s delta).now / 1000000000) = true := by
  rw [passesSecond, Bool.and_eq_true, decide_eq_true_iff]

/-- The state after a step that is taken. -/
theorem exec_timeStep_taken (hok : s.getF Fld.BOOT_STATUS_PHASE ≠ 6 ∨
    delta.toInt.natAbs ≤ s.getF Fld.SYS_TIME_CFG_STEP_MAX_NS) :
    exec (.timeStep delta) s = .next (stepEnded (passesSecond s delta) (timeMoved s delta)) := by
  have href : ¬stepRefused s delta = true := by
    simp only [stepRefused, Bool.and_eq_true, beq_iff_eq, decide_eq_true_eq, not_and]
    omega
  rw [exec_timeStep, execTimeStep, timeStep, if_neg href]
  exact congrArg (fun u => Host.Outcome.next (State.evt u 10)) (if_congr
    (passesSecond_iff s delta).symm rfl rfl)

theorem passesSecond_of_ne (hen : s.getF Fld.SYS_PPS_OUT_EN = 1)
    (hsec : s.now / 1000000000 ≠ (timeMoved s delta).now / 1000000000) : passesSecond s delta = true :=
  (passesSecond_iff s delta).2 ⟨hen, decide_eq_true hsec⟩

/-! ## The rate (R431) -/

theorem toSigned_ofSigned {w : Nat} {x : Int} (hw : 0 < w) (h1 : -2 ^ (w - 1) ≤ x) (h2 : x < 2 ^ (w - 1)) :
    toSigned w (ofSigned w x) = x := by
  obtain ⟨n, rfl⟩ : ∃ n, w = n + 1 := ⟨w - 1, by omega⟩
  rw [Nat.add_sub_cancel] at h1 h2
  have hpow : (2 : Int) ^ (n + 1) = 2 * 2 ^ n := by ring
  have hpos : (0 : Int) < 2 ^ n := by positivity
  have hcast : ((2 ^ (n + 1) : Nat) : Int) = 2 * 2 ^ n := by push_cast; ring
  have hcast' : ((2 ^ n : Nat) : Int) = 2 ^ n := by push_cast; ring
  unfold toSigned ofSigned
  rw [Nat.add_sub_cancel]
  dsimp only
  by_cases hx : 0 ≤ x
  · have hmod : x % 2 ^ (n + 1) = x := Int.emod_eq_of_lt hx (by omega)
    rw [hmod]
    have hlt : x.toNat < 2 ^ (n + 1) := by omega
    rw [Nat.mod_eq_of_lt hlt, if_pos (by omega)]
    omega
  · have hmod : x % 2 ^ (n + 1) = x + 2 ^ (n + 1) := by
      rw [← Int.add_emod_right, Int.emod_eq_of_lt (by omega) (by omega)]
    rw [hmod]
    have hlt : (x + 2 ^ (n + 1)).toNat < 2 ^ (n + 1) := by omega
    rw [Nat.mod_eq_of_lt hlt, if_neg (by omega)]
    omega

theorem toSigned_toNat (x : BitVec 32) : toSigned 32 x.toNat = x.toInt := by
  have hlt := x.isLt
  unfold toSigned
  rw [Nat.mod_eq_of_lt hlt, BitVec.toInt_eq_toNat_cond]
  dsimp only
  split_ifs <;> omega

theorem at?_SYS_TIME_RATE :
    RegMap.at? Off.SYS_TIME_RATE = some (⟨0x90, 8, 1, 8, [⟨0, 32, .rw, 0, .signed32 2147483⟩], []⟩, 0) := by decide

/-- ADJ within its bounds (R431). -/
theorem toSigned_clamped (adj : BitVec 32) : toSigned 32 (Clamp.apply (.signed32 2147483) 0 adj.toNat % 2 ^ 32) =
    max (-2147483) (min 2147483 adj.toInt) := by
  have hmod : ∀ x, toSigned 32 (x % 2 ^ 32) = toSigned 32 x := fun x => by
    unfold toSigned
    rw [Nat.mod_mod]
  have hlow : toSigned 32 (ofSigned 32 (-2147483)) = -2147483 := toSigned_ofSigned (by decide) (by decide) (by decide)
  have hhigh : toSigned 32 2147483 = 2147483 := by decide
  have hadj := toSigned_toNat adj
  rw [hmod]
  show toSigned 32 (if toSigned 32 adj.toNat < -2147483 then ofSigned 32 (-2147483)
    else if 2147483 < toSigned 32 adj.toNat then 2147483 else adj.toNat) = _
  rw [hadj]
  split_ifs
  · rw [hlow]
    omega
  · rw [hhigh]
    omega
  · rw [hadj]
    omega

/-- What a write of ADJ stores. -/
theorem written_adj (old : Nat) (locked : Bool) (adj : BitVec 32) :
    RField.written ⟨0, 32, .rw, 0, .signed32 2147483⟩ 0 locked old adj.toNat (2 ^ 64 - 1) =
      Clamp.apply (.signed32 2147483) 0 adj.toNat := by
  have hmask : bitsOf (2 ^ 64 - 1) 0 32 = 2 ^ 32 - 1 := by decide
  have hadj : bitsOf adj.toNat 0 32 = adj.toNat := Nat.mod_eq_of_lt adj.isLt
  unfold RField.written
  dsimp only
  rw [hmask, hadj, if_neg (by decide), Nat.xor_self, Nat.and_zero, Nat.zero_or, Nat.and_two_pow_sub_one_eq_mod,
    Nat.mod_eq_of_lt adj.isLt]

theorem exec_timeRateWrite_eq (s : State) (adj : BitVec 32) : exec (.timeRateWrite adj) s = .next
    (s.setReg Off.SYS_TIME_RATE (putBits (s.reg Off.SYS_TIME_RATE) 0 32 (Clamp.apply (.signed32 2147483) 0 adj.toNat))) := by
  have hv : adj.toNat = (BitVec.setWidth 64 adj).toNat := by
    rw [BitVec.toNat_setWidth, Nat.mod_eq_of_lt (lt_trans adj.isLt (by decide))]
  have hwrite : regWrite s Off.SYS_TIME_RATE 8 adj.toNat = regStore s Off.SYS_TIME_RATE adj.toNat (2 ^ 64 - 1) := by
    rw [hv]
    exact regWrite_whole at?_SYS_TIME_RATE rfl rfl s _
  rw [exec_timeRateWrite, execTimeRateWrite, hwrite,
    regStore_plain at?_SYS_TIME_RATE rfl (fun _ _ _ => rfl) (fun _ _ _ _ => rfl) _ _ (.inr rfl), RegGroup.written]
  exact congrArg (fun x => Host.Outcome.next (s.setReg Off.SYS_TIME_RATE (putBits (s.reg Off.SYS_TIME_RATE) 0 32 x)))
    (written_adj _ _ adj)

theorem getF_adjWritten (s : State) (x : Nat) :
    (s.setReg Off.SYS_TIME_RATE (putBits (s.reg Off.SYS_TIME_RATE) 0 32 x)).getF Fld.SYS_TIME_RATE_ADJ = x % 2 ^ 32 := by
  unfold State.getF
  rw [show Fld.SYS_TIME_RATE_ADJ.off = Off.SYS_TIME_RATE from rfl, reg_setReg, if_pos rfl, bitsOf_mod _ _ _ (by decide)]
  exact bitsOf_putBits_self _ 0 32 x

/-- DEVTIME counts nanoseconds (R431). -/
theorem nextNs_of_no_rate (hadj : s.getF Fld.SYS_TIME_RATE_ADJ = 0) (hfrac : s.sys.frac < 2 ^ 32) :
    (nextNs s).devtime = s.devtime + 1 := by
  have hn : (1 : Int) + ((s.sys.frac : Int) + toSigned 32 0) / 2 ^ 32 = 1 := by
    have hz : toSigned 32 0 = 0 := by decide
    rw [hz]
    omega
  unfold nextNs
  rw [hadj]
  dsimp only
  rw [hn]
  rfl

/-! ## Pulses per second (R434) -/

theorem exec_ppsEdge_eq (s : State) (rising : Bool) : exec (.ppsEdge rising) s = .next
    (if (s.getF Fld.SYS_TIME_CFG_PPS_EDGE == b2n (!rising)) && !ppsTooSoon s then
      ({ s.setReg Off.SYS_PPS_CAP s.now with sys := { s.sys with lastPps := some s.now } } : State).evt 9
    else s) := rfl

theorem ppsTooSoon_false (h : ∀ t0, s.sys.lastPps = some t0 → t0 + 500000000 ≤ s.now) : ppsTooSoon s = false := by
  unfold ppsTooSoon
  split
  · next t ht => simpa using h t ht
  · rfl

theorem ppsTooSoon_true {t0 : Nat} (h : s.sys.lastPps = some t0) (hsoon : s.now < t0 + 500000000) : ppsTooSoon s = true := by
  unfold ppsTooSoon
  rw [h]
  simpa using hsoon

theorem pps_selected {x : Nat} {rising : Bool} (h : x = if rising then 0 else 1) : (x == b2n (!rising)) = true := by
  rw [h]
  cases rising <;> rfl

theorem pps_unselected {x : Nat} {rising : Bool} (h : x = if rising then 1 else 0) : (x == b2n (!rising)) = false := by
  rw [h]
  cases rising <;> rfl

/-- A captured edge. -/
def ppsCaptured (s : State) : State := { s.setReg Off.SYS_PPS_CAP s.now with sys := { s.sys with lastPps := some s.now } }

theorem ppsCaptured_spec (s : State) : ((ppsCaptured s).evt 9).reg Off.SYS_PPS_CAP = s.now ∧
    ((ppsCaptured s).evt 9).sys.lastPps = some s.now ∧ (((ppsCaptured s).evt 9).getF Fld.SYS_EVT_EVT).testBit 9 = true ∧
    ((ppsCaptured s).evt 9).mem = s.mem := by
  have hq := (Quiet.refl (ppsCaptured s)).evt 9
  refine ⟨?_, by rw [hq.sys]; rfl, testBit_evt _ (by decide), hq.mem⟩
  rw [State.reg_evt_ne _ _ _ (by decide)]
  show (s.setReg Off.SYS_PPS_CAP s.now).reg Off.SYS_PPS_CAP = s.now
  rw [reg_setReg, if_pos rfl, Nat.mod_eq_of_lt (show s.now < 2 ^ 64 from s.devtime.isLt)]

theorem exec_ppsOutRise_at (hen : s.getF Fld.SYS_PPS_OUT_EN = 1) (hsec : s.now % 1000000000 = 0) :
    exec (.ppsOutRise) s = .next { s with sys := { s.sys with ppsOut := some s.now } } := by
  have hat : atSecond s = true := by simp [atSecond, hsec]
  rw [exec_ppsOutRise, execPpsOutRise, if_pos ⟨hen, hat⟩]
  rfl

theorem exec_ppsOutFall_over {t0 : Nat} (hout : s.sys.ppsOut = some t0)
    (hover : t0 + s.getF Fld.SYS_PPS_OUT_WIDTH_NS ≤ s.now) :
    exec (.ppsOutFall) s = .next { s with sys := { s.sys with ppsOut := none } } := by
  rw [exec_ppsOutFall, execPpsOutFall, hout]
  dsimp only
  rw [if_pos hover]

/-! ## The challenge (R435) -/

theorem length_drbgFrom (k n : Nat) : (drbgFrom k n).length = n := by
  induction n generalizing k with
  | zero => rfl
  | succ n ih => rw [drbgFrom, List.length_cons, ih]

/-- Bytes in words of eight, one after the other. -/
theorem flatMap_words (bs : List Byte) (n : Nat) (h : bs.length = 8 * n) :
    ((List.range n).flatMap fun i => leBytes 8 (fld bs (8 * i) 8)) = bs := by
  have hword : ∀ i, i < n → leBytes 8 (fld bs (8 * i) 8) = (bs.drop (8 * i)).take 8 := by
    intro i hi
    have hlen : ((bs.drop (8 * i)).take 8).length = 8 := by
      rw [List.length_take, List.length_drop]
      omega
    have hback := leBytes_leNat ((bs.drop (8 * i)).take 8)
    rw [hlen] at hback
    rw [fld_eq_leNat_take, hback]
  have hpre : ∀ m, m ≤ n → ((List.range m).flatMap fun i => leBytes 8 (fld bs (8 * i) 8)) = bs.take (8 * m) := by
    intro m
    induction m with
    | zero => exact fun _ => rfl
    | succ m ih =>
      intro hm
      rw [List.range_succ, List.flatMap_append, ih (by omega), List.flatMap_singleton, hword m (by omega), Nat.mul_add,
        Nat.mul_one, List.take_add]
  rw [hpre n (le_refl n), ← h, List.take_length]

theorem reg_foldl_setReg_ne {off val : Nat → Nat} {l : List Nat} (s : State) {a : Nat} (ha : ∀ i ∈ l, a ≠ off i) :
    (l.foldl (fun s i => s.setReg (off i) (val i)) s).reg a = s.reg a := by
  induction l generalizing s with
  | nil => rfl
  | cons b l ih =>
    rw [List.foldl_cons, ih _ fun i hi => ha i (List.mem_cons_of_mem _ hi), reg_setReg, if_neg (ha b List.mem_cons_self)]

theorem reg_foldl_setReg {off : Nat → Nat} (hinj : ∀ i j, off i = off j → i = j) (val : Nat → Nat) {l : List Nat}
    (hl : l.Nodup) (s : State) {i : Nat} (hi : i ∈ l) :
    (l.foldl (fun s i => s.setReg (off i) (val i)) s).reg (off i) = val i % 2 ^ 64 := by
  induction l generalizing s with
  | nil => exact absurd hi List.not_mem_nil
  | cons a l ih =>
    obtain ⟨ha, hl⟩ := List.nodup_cons.1 hl
    obtain rfl | hi := List.mem_cons.1 hi
    · rw [List.foldl_cons, reg_foldl_setReg_ne _ fun j hj h => ha (by rw [hinj _ _ h]; exact hj), reg_setReg, if_pos rfl]
    · exact ih hl _ hi

/-- The challenge that is shown is the one that was put. -/
theorem challenge_putChallenge {bs : List Byte} (h : bs.length = 48) : challenge (putChallenge s bs) = bs := by
  have hword : ∀ i, i < 6 → (putChallenge s bs).reg (Off.SYS_DBG_CHAL i) = fld bs (8 * i) 8 := by
    intro i hi
    have hlt : fld bs (8 * i) 8 < 2 ^ 64 := by
      have hlen : ((bs.drop (8 * i)).take 8).length ≤ 8 := List.length_take_le ..
      rw [fld_eq_leNat_take]
      exact lt_of_lt_of_le (leNat_lt _) (Nat.pow_le_pow_right (by decide) hlen)
    have hreg := reg_foldl_setReg (off := Off.SYS_DBG_CHAL)
      (fun i j hij => by have h2 : 0xC8 + 8 * i = 0xC8 + 8 * j := hij; omega) (fun i => fld bs (8 * i) 8)
      (List.nodup_range (n := 6)) s (List.mem_range.2 hi)
    rw [Nat.mod_eq_of_lt hlt] at hreg
    exact hreg
  have hmap : challenge (putChallenge s bs) = (List.range 6).flatMap fun i => leBytes 8 (fld bs (8 * i) 8) := by
    unfold challenge
    refine List.flatMap_congr fun i hi => ?_
    rw [hword i (List.mem_range.1 hi)]
  rw [hmap, flatMap_words bs 6 h]

theorem putChallenge_keeps (bs : List Byte) : (putChallenge s bs).mem = s.mem ∧ (putChallenge s bs).cry = s.cry ∧
    (putChallenge s bs).sys = s.sys ∧ ∀ off, off < 0xC8 → (putChallenge s bs).reg off = s.reg off := by
  have hfold : putChallenge s bs = { s with regs := (putChallenge s bs).regs } :=
    foldl_setReg Off.SYS_DBG_CHAL (fun i => fld bs (8 * i) 8) (List.range 6) s
  refine ⟨by rw [hfold], by rw [hfold], by rw [hfold], fun off hoff => ?_⟩
  exact reg_foldl_setReg_ne s fun i _ h => by
    have h2 : off = 0xC8 + 8 * i := h
    omega

theorem challenge_withSys (u : State) (x : Sys) : challenge { u with sys := x } = challenge u := rfl

theorem mem_withSys (u : State) (x : Sys) : ({ u with sys := x } : State).mem = u.mem := rfl

theorem debugNew_eq (s : State) : debugNew s = { putChallenge (s.random 48).2 (s.random 48).1 with
    sys := { (s.random 48).2.sys with dbgChal := true } } := rfl

theorem exec_debugNewchal_spec (s : State) : ∃ t, exec (.debugNewchal) s = .next t ∧
    challenge t = drbgFrom s.freeCtr 48 ∧ t.sys.dbgChal = true ∧ t.mem = s.mem := by
  refine ⟨_, exec_debugNewchal s, ?_, rfl, ?_⟩
  · rw [debugNew_eq, challenge_withSys, challenge_putChallenge (show (s.random 48).1.length = 48 from length_drbgFrom s.freeCtr 48)]
    rfl
  · rw [debugNew_eq, mem_withSys, (putChallenge_keeps _).1]
    rfl

/-! ## GO (R435) -/

theorem at?_SYS_DBG_CTRL : RegMap.at? Off.SYS_DBG_CTRL = some (⟨0xC0, 8, 1, 8, [⟨63, 1, .ro, 0, .keep⟩, ⟨56, 4, .ro, 0, .keep⟩,
    ⟨6, 41, .rw, 0, .keep⟩, ⟨4, 2, .rw, 0, .keep⟩, ⟨1, 1, .wo, 0, .keep⟩, ⟨0, 1, .wo, 0, .keep⟩], []⟩, 0) := by decide

/-- The word of a GO: ADDR, KEYIDX and the bit. -/
def goWord (addr : Nat) (keyidx : Fin 4) : Word := BitVec.ofNat 64 (bitsOf addr 6 41 * 64 + keyidx.val * 16 + 2)

theorem goWord_fields (addr : Nat) (keyidx : Fin 4) : (goWord addr keyidx).toNat = bitsOf addr 6 41 * 64 + keyidx.val * 16 + 2 ∧
    bitsOf (goWord addr keyidx).toNat 6 41 = addr / 64 % 2 ^ 41 ∧ bitsOf (goWord addr keyidx).toNat 4 2 = keyidx.val ∧
    (goWord addr keyidx).toNat.testBit 0 = false ∧ (goWord addr keyidx).toNat.testBit 1 = true := by
  have haddr : bitsOf addr 6 41 = addr / 64 % 2 ^ 41 := by rw [bitsOf, Nat.shiftRight_eq_div_pow]
  have hlt : addr / 64 % 2 ^ 41 < 2 ^ 41 := Nat.mod_lt _ (by decide)
  have hkey := keyidx.isLt
  have hword : (goWord addr keyidx).toNat = bitsOf addr 6 41 * 64 + keyidx.val * 16 + 2 := by
    rw [goWord, BitVec.toNat_ofNat, haddr, Nat.mod_eq_of_lt (by omega)]
  refine ⟨hword, ?_, ?_, ?_, ?_⟩
  · rw [hword, haddr, bitsOf, Nat.shiftRight_eq_div_pow]
    omega
  · rw [hword, haddr, bitsOf, Nat.shiftRight_eq_div_pow]
    omega
  · rw [hword, Nat.testBit_zero]
    simp
    omega
  · rw [hword, Nat.testBit_succ, Nat.testBit_zero]
    simp
    omega

theorem regEffect_dbgCtrl (v : Nat) (before u : State) : regEffect Off.SYS_DBG_CTRL v before u = dbgEffect v before u := rfl

/-- A write of GO alone, with no zeroisation to wait for, begins the check. -/
theorem dbgEffect_go {v : Nat} {before : State} (u : State) (hnew : v.testBit 0 = false) (hgo : v.testBit 1 = true)
    (hwait : before.sys.dbgWait = false) : dbgEffect v before u =
      debugCheck u (u.getF Fld.SYS_DBG_CTRL_ADDR * 64) (u.getF Fld.SYS_DBG_CTRL_KEYIDX) := by
  unfold dbgEffect bitAt
  rw [hnew, hgo, hwait, if_neg (by decide), if_neg (by decide), if_pos rfl]

/-- The register after a write of a GO. -/
def goWritten (s : State) (w : Word) : State := s.setReg Off.SYS_DBG_CTRL
  (RegGroup.written ⟨0xC0, 8, 1, 8, [⟨63, 1, .ro, 0, .keep⟩, ⟨56, 4, .ro, 0, .keep⟩, ⟨6, 41, .rw, 0, .keep⟩,
    ⟨4, 2, .rw, 0, .keep⟩, ⟨1, 1, .wo, 0, .keep⟩, ⟨0, 1, .wo, 0, .keep⟩], []⟩ 0 s.locked (s.reg Off.SYS_DBG_CTRL) w.toNat
    (2 ^ 64 - 1))

theorem goWritten_spec (s : State) (w : Word) :
    (goWritten s w).mem = s.mem ∧ (goWritten s w).sys = s.sys ∧ (goWritten s w).cry = s.cry ∧
    (goWritten s w).getF Fld.SYS_DBG_CTRL_ADDR = bitsOf w.toNat 6 41 ∧
    (goWritten s w).getF Fld.SYS_DBG_CTRL_KEYIDX = bitsOf w.toNat 4 2 :=
  ⟨rfl, rfl, rfl, bitsOf_written_rw at?_SYS_DBG_CTRL s w (f := ⟨6, 41, .rw, 0, .keep⟩) (by simp) rfl rfl,
    bitsOf_written_rw at?_SYS_DBG_CTRL s w (f := ⟨4, 2, .rw, 0, .keep⟩) (by simp) rfl rfl⟩

theorem regWrite_go (s : State) (w : Word) :
    regWrite s Off.SYS_DBG_CTRL 8 w.toNat = dbgEffect w.toNat s (goWritten s w) := by
  have hmask : w.toNat &&& (2 ^ 64 - 1) = w.toNat := by
    rw [Nat.and_two_pow_sub_one_eq_mod, Nat.mod_eq_of_lt w.isLt]
  rw [regWrite_whole at?_SYS_DBG_CTRL rfl rfl, regStore_taken at?_SYS_DBG_CTRL rfl s w.toNat (2 ^ 64 - 1) (.inr rfl),
    regEffect_dbgCtrl, hmask]
  rfl

theorem exec_debugGo_checked (addr : Nat) (keyidx : Fin 4) (hwait : s.sys.dbgWait = false) : ∃ v : State, v.mem = s.mem ∧
    v.sys = s.sys ∧ v.cry = s.cry ∧
    exec (.debugGo addr keyidx) s = .next (debugCheck v (addr / 64 % 2 ^ 41 * 64) keyidx.val) := by
  obtain ⟨hword, haddr, hkey, hnew, hgo⟩ := goWord_fields addr keyidx
  obtain ⟨hmem, hsys, hcry, hA, hK⟩ := goWritten_spec s (goWord addr keyidx)
  refine ⟨goWritten s (goWord addr keyidx), hmem, hsys, hcry, ?_⟩
  rw [exec_debugGo, execDebugGo, ← hword, regWrite_go, dbgEffect_go _ hnew hgo hwait, hA, hK, haddr, hkey]

/-! ## Zeroisation leaves the check of debug alone (R278, R435) -/

/-- What SYS keeps, its debug register, and whether a zeroisation runs. -/
structure DebugKept (o t : State) : Prop where
  sys : t.sys = o.sys
  zeroing : t.cry.zeroing = o.cry.zeroing
  ctrl : t.reg Off.SYS_DBG_CTRL = o.reg Off.SYS_DBG_CTRL

section
variable {o u : State}

theorem Steady.debugKept (h : Steady o u) : DebugKept o u := ⟨h.sys, h.zeroing, h.reg _ (by decide) (by decide)⟩

theorem DebugKept.refl (o : State) : DebugKept o o := ⟨rfl, rfl, rfl⟩

theorem DebugKept.trans {v : State} (h : DebugKept o u) (g : DebugKept u v) : DebugKept o v :=
  ⟨g.sys.trans h.sys, g.zeroing.trans h.zeroing, g.ctrl.trans h.ctrl⟩

theorem DebugKept.setF (h : DebugKept o u) {f : FieldRef} (v : Nat) (hf : f.off ≠ Off.SYS_DBG_CTRL) : DebugKept o (u.setF f v) :=
  h.trans ⟨State.sys_setF .., by rw [State.cry_setF], State.reg_setF_ne _ _ _ _ hf.symm (by decide)⟩

theorem DebugKept.ite {c : Prop} [Decidable c] {a b : State} (h1 : DebugKept o a) (h2 : DebugKept o b) :
    DebugKept o (if c then a else b) := by
  split
  · exact h1
  · exact h2

theorem debugKept_standinShut (o : State) : DebugKept o (standinShut o) := ⟨rfl, rfl, rfl⟩

theorem debugKept_moveStandin (o : State) : DebugKept o (moveStandin o) := by
  rw [moveStandin_eq]
  exact (((Steady.refl o).standinMoved.debugKept.trans (debugKept_standinShut _)).trans
    (Steady.refl _).standinHanded.debugKept).setF 0 (by decide)

theorem debugKept_releaseMarked (o : State) : DebugKept o (releaseMarked o) :=
  ((DebugKept.refl o).setF 1 (by decide)).trans ⟨rfl, rfl, by rw [releaseMarked, reg_setReg, if_neg (by decide)]⟩

theorem debugKept_journalRuns (o : State) : DebugKept o (journalRuns o) := ⟨rfl, rfl, rfl⟩

theorem debugKept_finishRelease (o : State) : DebugKept o (finishRelease o) := by
  rw [finishRelease_eq]
  exact ((((debugKept_releaseMarked o).trans (steady_mainEpochOpened o).debugKept).trans (debugKept_journalRuns _)).trans
    (Steady.refl _).cascadeJoined.debugKept).setF 6 (by decide) |>.trans (Steady.refl _).noteFull.debugKept

theorem debugKept_releaseProgress (o : State) : DebugKept o (releaseProgress o) := by
  have hzero : Steady o (journalEpochZero (siLog o + 2) o) := (Steady.refl o).journalEpochZero
  unfold releaseProgress
  refine DebugKept.ite (DebugKept.ite ?_ hzero.noteFull.debugKept) (DebugKept.refl o)
  exact (hzero.closeEpochZero.debugKept.trans (debugKept_moveStandin _)).trans (debugKept_finishRelease _)

theorem debugKept_settleJobs (o : State) : DebugKept o (settleJobs o) := by
  have hlanes : Steady o (o.xlt.foldl laneResume o) := (Steady.refl o).foldl _ fun _ _ h => h.laneResume
  exact (hlanes.debugKept.trans (debugKept_releaseProgress _)).trans (Steady.refl _).finishGseal.debugKept

/-- A zeroisation starts: it runs, and the check of debug stays where it is. -/
theorem zeroise_keeps (o : State) (inputs : Nat) : (zeroise o inputs).sys = o.sys ∧ (zeroise o inputs).cry.zeroing = true ∧
    (zeroise o inputs).reg Off.SYS_DBG_CTRL = o.reg Off.SYS_DBG_CTRL := by
  obtain ⟨hsys, hzeroing, hctrl⟩ := debugKept_settleJobs (startZeroise o inputs)
  have hstopped : Steady o (jobsStopped (zeroiseMarked o inputs)) := (steady_zeroiseMarked o inputs).jobsStopped
  have hback := (Steady.refl (zeroisingOn (jobsStopped (zeroiseMarked o inputs)))).connsHandedBack
  have hctrl0 : (startZeroise o inputs).reg Off.SYS_DBG_CTRL = o.reg Off.SYS_DBG_CTRL :=
    (hback.reg _ (by decide) (by decide)).trans (hstopped.reg _ (by decide) (by decide))
  exact ⟨hsys.trans (hback.sys.trans hstopped.sys), hzeroing.trans (startZeroise_cry o inputs).1, hctrl.trans hctrl0⟩

end

/-- The state in which the result of a check is shown. -/
def debugShown (v : State) (r : Nat) : State :=
  let u := putChallenge (v.setF Fld.SYS_DBG_CTRL_RESULT r) (zeros 48)
  { u with sys := { u.sys with dbgChal := false, dbgWait := (r == 1) } }

theorem debugCheck_eq {addr n : Nat} {b : Option (List Byte)} {v1 : State} (hwait : s.sys.dbgWait = false)
    (hread : islandRead s .hif (hostPa addr) 256 = (b, v1)) : debugCheck s addr n =
      if debugResult v1 n b = 1 then (zeroise (debugShown v1 (debugResult v1 n b)) 0).setF Fld.ADM_CTRL_ENABLE 0
      else debugShown v1 (debugResult v1 n b) := by
  unfold debugCheck
  rw [hwait, if_neg (by decide), hread]
  rfl

theorem debugShown_sys (v : State) (r : Nat) :
    (debugShown v r).sys.dbgChal = false ∧ (debugShown v r).sys.dbgWait = (r == 1) := ⟨rfl, rfl⟩

/-- A check that passes: zeroisation starts, and the admin interface is closed. -/
theorem debugPassed_spec (w : State) : ((zeroise w 0).setF Fld.ADM_CTRL_ENABLE 0).sys = w.sys ∧
    ((zeroise w 0).setF Fld.ADM_CTRL_ENABLE 0).cry.zeroing = true ∧
    ((zeroise w 0).setF Fld.ADM_CTRL_ENABLE 0).getF Fld.SYS_DBG_CTRL_RESULT = w.getF Fld.SYS_DBG_CTRL_RESULT ∧
    ((zeroise w 0).setF Fld.ADM_CTRL_ENABLE 0).getF Fld.ADM_CTRL_ENABLE = 0 := by
  obtain ⟨hsys, hzeroing, hctrl⟩ := zeroise_keeps w 0
  generalize zeroise w 0 = z at hsys hzeroing hctrl ⊢
  refine ⟨(State.sys_setF ..).trans hsys, (congrArg Cry.zeroing (State.cry_setF ..)).trans hzeroing, ?_, ?_⟩
  · rw [State.getF_setF_ne _ _ _ _ (by decide) (by decide)]
    exact State.getF_congr Fld.SYS_DBG_CTRL_RESULT hctrl
  · rw [State.getF_setF_self _ _ _ (by decide) (by decide)]
    rfl

theorem regs_withSys (u : State) (x : Sys) : ({ u with sys := x } : State).regs = u.regs := rfl

theorem cry_withSys (u : State) (x : Sys) : ({ u with sys := x } : State).cry = u.cry := rfl

theorem debugShown_keeps (v : State) {r : Nat} (hr : r < 16) :
    (debugShown v r).cry = v.cry ∧ (debugShown v r).getF Fld.SYS_DBG_CTRL_RESULT = r := by
  obtain ⟨-, hcry, -, hreg⟩ := putChallenge_keeps (s := v.setF Fld.SYS_DBG_CTRL_RESULT r) (zeros 48)
  unfold debugShown
  dsimp only
  refine ⟨?_, ?_⟩
  · rw [hcry, State.cry_setF]
  · rw [State.getF_congr _ (State.reg_congr (regs_withSys _ _) _), State.getF_congr _ (hreg _ (by decide)),
      State.getF_setF_self _ _ _ (by decide) (by decide)]
    exact Nat.mod_eq_of_lt hr

/-- The results are codes below 16. -/
theorem debugResult_lt (v : State) (n : Nat) (b : Option (List Byte)) : debugResult v n b < 16 := by
  unfold debugResult
  split
  · decide
  · cases b with
    | none => exact ite_lt_of_lt (by decide) (ite_lt_of_lt (by decide) (by decide))
    | some b => exact ite_lt_of_lt (by decide) (ite_lt_of_lt (by decide) (ite_lt_of_lt (by decide) (by decide)))

theorem debugResult_of_policy {v : State} (h : v.policy 1 = true) (n : Nat) (b : Option (List Byte)) : debugResult v n b = 2 :=
  if_pos h

theorem policy_congr {v : State} (h : ∀ off, off < 0x20000 → off ≠ Off.SYS_EVT → v.reg off = s.reg off) (i : Nat) :
    v.policy i = s.policy i := by
  unfold State.policy State.fuseByte
  rw [h _ (by decide) (by decide)]

/-- ACTIVE and DEBUG are set, with their event. -/
def debugOpened (s : State) : State := ((s.setF Fld.SYS_DBG_CTRL_ACTIVE 1).setF Fld.SYS_STATUS_DEBUG 1).evt 13

theorem debugOpened_spec (s : State) : (debugOpened s).cry = s.cry ∧ (debugOpened s).getF Fld.SYS_DBG_CTRL_ACTIVE = 1 ∧
    (debugOpened s).getF Fld.SYS_STATUS_DEBUG = 1 := by
  have hq := (((Quiet.refl s).setF Fld.SYS_DBG_CTRL_ACTIVE 1).setF Fld.SYS_STATUS_DEBUG 1).evt 13
  unfold debugOpened
  refine ⟨hq.cry, ?_, ?_⟩
  · rw [State.getF_congr _ (State.reg_evt_ne _ _ _ (by decide)), State.getF_setF_ne _ _ _ _ (by decide) (by decide),
      State.getF_setF_self _ _ _ (by decide) (by decide)]
    rfl
  · rw [State.getF_congr _ (State.reg_evt_ne _ _ _ (by decide)), State.getF_setF_self _ _ _ (by decide) (by decide)]
    rfl

/-- SYS waits for the zeroisation no longer. -/
def waitOver (u : State) : State := { u with sys := { u.sys with dbgWait := false } }

theorem waitOver_spec (u : State) : (waitOver u).cry = u.cry ∧ (∀ f, (waitOver u).getF f = u.getF f) ∧
    (waitOver u).sys.dbgWait = false := ⟨rfl, fun _ => rfl, rfl⟩

theorem debugEnable_eq (hwait : s.sys.dbgWait = true) : debugEnable s = waitOver (debugOpened s) := if_pos hwait

/-- Debug is enabled once the zeroisation is over. -/
theorem debugEnable_spec (hwait : s.sys.dbgWait = true) : (debugEnable s).cry = s.cry ∧
    (debugEnable s).getF Fld.SYS_DBG_CTRL_ACTIVE = 1 ∧ (debugEnable s).getF Fld.SYS_STATUS_DEBUG = 1 ∧
    (debugEnable s).sys.dbgWait = false := by
  obtain ⟨hcry, hactive, hdebug⟩ := debugOpened_spec s
  obtain ⟨hcry', hget, hwait'⟩ := waitOver_spec (debugOpened s)
  rw [debugEnable_eq hwait, hcry', hget, hget]
  exact ⟨hcry, hactive, hdebug, hwait'⟩

theorem exec_zeroisationDone_debug (hz : s.cry.zeroing = true) :
    exec (.zeroisationDone) s = .next (debugEnable (noteSlots (keysGone s))) := by
  rw [exec_zeroisationDone, execZeroisationDone, if_pos hz]
  rfl

end

/-! ## The obligation -/

/-- Settles O57: steps, rate and pulses by their equations; a GO by the frame of the zeroisation that it starts. -/
theorem timeAndDebug : Obligations.TimeAndDebug := by
  unfold Obligations.TimeAndDebug
  intro s delta adj rising bound
  refine ⟨fun hphase hbig => ⟨_, exec_timeStep_refused hphase hbig, ?refused⟩,
    fun hok => ⟨_, exec_timeStep_taken hok, ?taken⟩, ⟨_, exec_timeRateWrite_eq s adj, rfl, rfl, ?rate⟩, nextNs_of_no_rate,
    fun hsel => ⟨fun hlast => ⟨_, ?captured, ppsCaptured_spec s⟩, fun t0 hlast hsoon => ?soon⟩, fun hsel => ?unselected,
    exec_ppsOutRise_at, fun t0 => exec_ppsOutFall_over, exec_debugNewchal_spec s,
    fun addr keyidx => exec_debugGo_checked addr keyidx, fun addr n b v1 hwait hread => ?check, fun hz hwait => ?done⟩
  case refused =>
    have hq := ((Quiet.refl s).setF Fld.SYS_STATUS_STEP_REFUSED 1).evt 10
    refine ⟨hq.devtime, ?_, hq.mem, testBit_evt _ (by decide)⟩
    rw [State.getF_congr _ (State.reg_evt_ne _ _ _ (by decide)), State.getF_setF_self _ _ _ (by decide) (by decide)]
    rfl
  case taken =>
    obtain ⟨htime, htxns, hjnl, hpg, hlog⟩ := timeMoved_keeps s delta
    obtain ⟨hetime, hetxns, hejnl, helog, hereg, hnow, hedge⟩ := stepEnded_keeps (passesSecond s delta) (timeMoved s delta)
    refine ⟨hetime.trans htime, (hereg _ (by decide)).trans hpg, testBit_evt _ (by decide), hetxns.trans htxns,
      hejnl.trans hjnl, fun hle n hn => ?_, fun hen hsec => ?_⟩
    · rw [helog, hlog hle n hn]
      exact tin_movedEntry (length_logRead s n)
    · rw [hnow] at hsec ⊢
      exact hedge (passesSecond_of_ne hen hsec)
  case rate => rw [getF_adjWritten, toSigned_clamped]
  case captured => rw [exec_ppsEdge_eq, pps_selected hsel, ppsTooSoon_false hlast, if_pos (by decide)]; rfl
  case soon => rw [exec_ppsEdge_eq, ppsTooSoon_true hlast hsoon, if_neg (by simp)]
  case unselected => rw [exec_ppsEdge_eq, pps_unselected hsel, if_neg (by simp)]
  case check =>
    intro u r
    have hsteady : Steady s v1 := by
      have h := (Steady.refl s).islandRead (i := .hif) (pa := hostPa addr) (n := 256)
      rwa [hread] at h
    have hcry : v1.cry = s.cry := by
      cases b with
      | none => exact (islandRead_none hread).cry
      | some bs => rw [(islandRead_some hread).1, (quiet_mpuSettled s).cry]
    have hr : r < 16 := debugResult_lt v1 n b
    have hu : u = if r = 1 then (zeroise (debugShown v1 r) 0).setF Fld.ADM_CTRL_ENABLE 0 else debugShown v1 r :=
      debugCheck_eq hwait hread
    obtain ⟨hshown, hresult⟩ := debugShown_keeps v1 hr
    obtain ⟨hchal, hdwait⟩ := debugShown_sys v1 r
    have hpolicy : s.policy 1 = true → r = 2 := fun h =>
      debugResult_of_policy ((policy_congr hsteady.reg 1).trans h) n b
    by_cases hpass : r = 1
    · obtain ⟨hzsys, hzeroing, hzresult, hclosed⟩ := debugPassed_spec (debugShown v1 r)
      rw [hu, if_pos hpass]
      refine ⟨hzresult.trans hresult, ?_, fun h => absurd hpass h, fun _ => ⟨?_, hzeroing, hclosed⟩, hpolicy⟩
      · rw [hzsys, hchal]
      · rw [hzsys, hdwait, hpass]
        rfl
    · rw [hu, if_neg hpass]
      exact ⟨hresult, hchal, fun _ => ⟨hshown.trans hcry, by rw [hdwait, beq_eq_false_iff_ne.2 hpass]⟩,
        fun h => absurd h hpass, hpolicy⟩
  case done =>
    obtain ⟨hcry, hactive, hdebug, hwait'⟩ := debugEnable_spec (s := noteSlots (keysGone s))
      ((congrArg Sys.dbgWait (quiet_noteSlots _).sys).trans hwait)
    refine ⟨_, exec_zeroisationDone_debug hz, ?_, ?_, hactive, hdebug, hwait'⟩
    · rw [hcry, (quiet_noteSlots _).cry]
      rfl
    · rw [hcry, (quiet_noteSlots _).cry]
      rfl

end Sys2Proof.Proofs

namespace Sys2Proof.Proofs

open Sys2Proof Sys2Proof.Machine Sys2Proof.Laws

/-! # Temperature, rails and reference clocks (O50: R382, R390 to R392, R395, R446, R453)

## What a report leaves alone -/

/-- The registers of the error log: its pointer, its counters and its entries. -/
def LogReg (off : Nat) : Prop := off = 0x40018 ∨ 0x40080 ≤ off ∧ off ≤ 0x400A0 ∨ 0x41000 ≤ off ∧ off < 0x43000

/-- A field outside the error log and the events, and not SECOND or OVERFLOW of ERR_STATUS. -/
structure BesideLog (f : FieldRef) : Prop where
  evt : f.off ≠ Off.SYS_EVT
  width : f.lo + f.width ≤ 64
  log : ¬LogReg f.off
  status : f.off = Off.ERR_STATUS → 2 ≤ f.lo

/-- Such fields are those of `o`. -/
def SameBesideLog (o t : State) : Prop := ∀ f, BesideLog f → t.getF f = o.getF f

section
variable {o s t : State}

theorem SameBesideLog.setReg (h : SameBesideLog o s) {off v : Nat} (hoff : LogReg off) : SameBesideLog o (s.setReg off v) :=
  fun f hf => (getF_setReg_ne s fun he => hf.log (he ▸ hoff)).trans (h f hf)

theorem SameBesideLog.bump (h : SameBesideLog o s) {off n : Nat} (hoff : LogReg off) : SameBesideLog o (s.bump off n) :=
  h.setReg hoff

theorem SameBesideLog.setF (h : SameBesideLog o s) {f : FieldRef} {v : Nat}
    (hf : LogReg f.off ∨ f.off = Off.ERR_STATUS ∧ f.lo + f.width ≤ 2) : SameBesideLog o (s.setF f v) := by
  intro g hg
  refine (getF_setF_apart s v hg.evt hg.width ?_).trans (h g hg)
  by_cases he : g.off = f.off
  · obtain hlog | ⟨hstatus, hlow⟩ := hf
    · exact absurd (he ▸ hlog) hg.log
    · exact .inr (.inr (hlow.trans (hg.status (he.trans hstatus))))
  · exact .inl he

theorem SameBesideLog.withErr (h : SameBesideLog o s) (e : Err) : SameBesideLog o { s with err := e } := h

theorem logReg_entry {k : Nat} (hk : k < 1024) : LogReg (Off.ERR_LOG k) := by
  unfold LogReg Off.ERR_LOG
  omega

theorem sameBesideLog_noteFault (h : SameBesideLog o s) (r : ErrReport) : SameBesideLog o (noteFault s r) := by
  unfold noteFault
  split
  · refine SameBesideLog.withErr (SameBesideLog.bump ?_ (by unfold LogReg; decide)) _
    split
    · exact (h.setF (.inr (by decide))).bump (by unfold LogReg; decide)
    · exact h
  · exact h

theorem sameBesideLog_writeEntry (h : SameBesideLog o s) (r : ErrReport) (second : Bool) :
    SameBesideLog o (writeEntry s r second) := by
  unfold writeEntry
  dsimp only
  split
  · exact ((h.bump (by unfold LogReg; decide)).setF (.inr (by decide))).withErr _
  · have hentry (e : List Byte) (k : Nat) (hk : k ≤ 1020) : SameBesideLog o ((((s.setReg (Off.ERR_LOG k) (fld e 0 8)).setReg
        (Off.ERR_LOG (k + 1)) (fld e 8 8)).setReg (Off.ERR_LOG (k + 2)) (fld e 16 8)).setReg (Off.ERR_LOG (k + 3))
        (fld e 24 8)) :=
      (((h.setReg (logReg_entry (by omega))).setReg (logReg_entry (by omega))).setReg (logReg_entry (by omega))).setReg
        (logReg_entry (by omega))
    have hall := hentry (errEntry s r second) (4 * (s.getF Fld.ERR_LOG_PTR_WR % 256)) (by omega)
    have hptr (u : State) (hu : SameBesideLog o u) (x : Err) (v : Nat) :
        SameBesideLog o ({ u with err := x }.setF Fld.ERR_LOG_PTR_WR v) := (hu.withErr x).setF (.inl (.inl rfl))
    split
    · exact fun f hf => (State.getF_congr f (State.reg_msix ..)).trans (hptr _ hall _ _ f hf)
    · exact hptr _ hall _ _

theorem sameBesideLog_report (s : State) (r : ErrReport) : SameBesideLog s (s.report r) := by
  have hcounted : SameBesideLog s (s.bump Off.ERR_CE_CNT) :=
    SameBesideLog.bump (fun _ _ => rfl) (by unfold LogReg; decide)
  unfold State.report
  split
  · dsimp only
    split
    · exact hcounted
    · exact sameBesideLog_writeEntry (hcounted.withErr _) r false
  · exact sameBesideLog_writeEntry (sameBesideLog_noteFault (fun _ _ => rfl) r) r _

/-- A field below those of ERR after a report. -/
theorem getF_report_below (s : State) (r : ErrReport) {f : FieldRef} (hf : f.off < 0x40000) (he : f.off ≠ Off.SYS_EVT) :
    (s.report r).getF f = s.getF f := by
  have hwhole (u : State) : u.getF ⟨f.off, 0, 64⟩ = u.reg f.off := Nat.mod_eq_of_lt (State.reg_lt u f.off)
  have hsame := sameBesideLog_report s r ⟨f.off, 0, 64⟩
    ⟨he, by show 0 + 64 ≤ 64; decide, by show ¬LogReg f.off; unfold LogReg; omega, fun h => absurd (h ▸ hf) (by decide)⟩
  rw [hwhole, hwhole] at hsame
  exact State.getF_congr f hsame

end

/-! ## Signed fields -/

theorem toSigned_mod (w x : Nat) : toSigned w (x % 2 ^ w) = toSigned w x := by
  unfold toSigned
  rw [Nat.mod_mod]

theorem toSigned_ge (x : Nat) : -32768 ≤ toSigned 16 x := by
  unfold toSigned
  dsimp only
  split_ifs <;> omega

theorem toSigned_ofSigned_16 {x : Int} (h1 : -32768 ≤ x) (h2 : x < 32768) : toSigned 16 (ofSigned 16 x) = x :=
  toSigned_ofSigned (by decide) (by simpa using h1) (by simpa using h2)

section
variable {s t : State}

/-! ## Clocks follow what they are asked for (R386 to R388) -/

theorem OnlyIslands.pwr (h : OnlyIslands s t) : t.pwr = { s.pwr with isl := t.pwr.isl } := by
  conv_lhs => rw [h.rest]
  rfl

theorem onlyIslands_lowerTo (s : State) (i : Fin 30) (f : Nat) : OnlyIslands s (lowerTo s i f) :=
  ((OnlyIslands.refl s).setClk _ _).modIsl _ _

theorem onlyIslands_raiseTo (s : State) (i : Fin 30) (f : Nat) : OnlyIslands s (raiseTo s i f) :=
  (OnlyIslands.refl s).modIsl _ _

theorem OnlyIslands.ite {c : Prop} [Decidable c] {a b : State} (ha : OnlyIslands s a) (hb : OnlyIslands s b) :
    OnlyIslands s (if c then a else b) := by
  split
  · exact ha
  · exact hb

theorem onlyIslands_evalClock (s : State) (i : Fin 30) : OnlyIslands s (evalClock s i) := by
  unfold evalClock
  refine .ite (.refl s) ?_
  split
  · exact .refl s
  · exact .ite (onlyIslands_lowerTo ..) (.ite (onlyIslands_raiseTo ..) (.ite (onlyIslands_raiseTo ..)
      (.ite ((OnlyIslands.refl s).modIsl ..) ((OnlyIslands.refl s).modIsl ..))))

theorem onlyIslands_setCap (s : State) (i : Fin 30) (f : Nat) : OnlyIslands s (setCap s i f) :=
  (OnlyIslands.refl s).setF _ _ (islReg_status (islOf i))

theorem onlyIslands_raiseCap (s : State) (i : Fin 30) (f : Nat) : OnlyIslands s (raiseCap s i f) :=
  .ite ((onlyIslands_setCap s i f).modIsl ..) ((OnlyIslands.refl s).modIsl ..)

/-! ## A reading (R390, R394) -/

/-- Memory, the count toward the trip and the highest readings, and every register but those of the islands and
THM_STATUS, stay. -/
structure ReadingKept (s t : State) : Prop where
  mem : t.mem = s.mem
  hot : t.pwr.hot = s.pwr.hot
  reg : ∀ off, ¬IslReg off → off ≠ Fld.THM_STATUS_CLAMP.off → off ≠ Off.SYS_EVT → t.reg off = s.reg off

theorem ReadingKept.trans {u : State} (h : ReadingKept s t) (g : ReadingKept t u) : ReadingKept s u :=
  ⟨g.mem.trans h.mem, g.hot.trans h.hot, fun off h1 h2 h3 => (g.reg off h1 h2 h3).trans (h.reg off h1 h2 h3)⟩

theorem ReadingKept.of_onlyIslands (h : OnlyIslands s t) : ReadingKept s t :=
  ⟨h.mem, by rw [h.pwr], fun off h1 _ h3 => h.reg off h1 h3⟩

theorem readingKept_setF (s : State) {f : FieldRef} (v : Nat) (hf : f.off = Fld.THM_STATUS_CLAMP.off) :
    ReadingKept s (s.setF f v) :=
  ⟨State.mem_setF .., congrArg Pwr.hot (State.pwr_setF ..), fun off _ h2 h3 => State.reg_setF_ne s f v off (hf ▸ h2) h3⟩

theorem readingKept_breakCool (s : State) (k : Nat) (t : Int) : ReadingKept s (breakCool s k t) := by
  unfold breakCool
  split
  · exact .of_onlyIslands (.refl s)
  · exact .of_onlyIslands ((OnlyIslands.refl s).modIsl ..)

theorem readingKept_noteThermal (s : State) (t : Int) : ReadingKept s (noteThermal s t) := by
  unfold noteThermal
  have h (a b : Nat) := (readingKept_setF s (f := Fld.THM_STATUS_HOTTEST) a rfl).trans
    (readingKept_setF _ (f := Fld.THM_STATUS_SENSOR) b rfl)
  dsimp only
  split
  · exact (h _ _).trans (readingKept_setF _ _ rfl)
  · exact h _ _

theorem over125_noteThermal (s : State) {t : Int} (ht : 1000 < t) :
    (noteThermal s t).getF Fld.THM_STATUS_OVER125 = 1 := by
  unfold noteThermal
  dsimp only
  rw [if_pos ht, State.getF_setF_self _ _ _ (by decide) (by decide)]
  rfl

theorem onlyIslands_holdHot (s : State) (k : Nat) : OnlyIslands s (holdHot s k) := by
  unfold holdHot
  split
  · exact .refl s
  · exact .ite (onlyIslands_evalClock ..) (.refl s)

/-- What follows the count of a reading. -/
def sampled (s : State) (k : Nat) (t : Int) : State := noteClamp (holdHot (noteThermal (breakCool s k t) t) k)

theorem readingKept_sampled (s : State) (k : Nat) (t : Int) : ReadingKept s (sampled s k t) :=
  (((readingKept_breakCool s k t).trans (readingKept_noteThermal _ t)).trans (.of_onlyIslands (onlyIslands_holdHot _ k))).trans
    (readingKept_setF _ _ rfl)

theorem over125_sampled (s : State) (k : Nat) {t : Int} (ht : 1000 < t) :
    (sampled s k t).getF Fld.THM_STATUS_OVER125 = 1 := by
  unfold sampled noteClamp
  rw [getF_setF_apart _ _ (by decide) (by decide) (.inr (.inr (by decide))),
    (onlyIslands_holdHot _ k).getF (by unfold IslReg; decide) (by decide)]
  exact over125_noteThermal _ ht

/-- The registers of a sensor after what follows its reading. -/
theorem getF_sampled (s : State) (k : Fin 64) (j : Nat) (t : Int) {f : FieldRef} (hf : f.off = 0x30100 + 8 * k.val) :
    (sampled s j t).getF f = s.getF f := by
  refine State.getF_congr f ((readingKept_sampled s j t).reg _ ?_ ?_ ?_)
  · unfold IslReg Off.PWR_ISL_STATUS
    omega
  · show f.off ≠ 0x30008
    omega
  · show f.off ≠ 0x40
    omega

/-- A reading is stored. -/
theorem tempOf_putTemp (s : State) (k : Fin 64) {t : Int} (h1 : -32768 ≤ t) (h2 : t < 32768) :
    tempOf (putTemp s k.val t) k.val = t := by
  unfold tempOf putTemp
  rw [State.getF_setF_self _ _ _ (by show 0x30100 + 8 * k.val ≠ 0x40; omega) (by show 0 + 16 ≤ 64; decide)]
  exact (toSigned_mod 16 _).trans (toSigned_ofSigned_16 h1 h2)

theorem getF_putTemp_above (s : State) (k : Fin 64) (t : Int) {f : FieldRef} (hf : f.off = 0x30100 + 8 * k.val)
    (hlo : 16 ≤ f.lo) (hw : f.lo + f.width ≤ 64) : (putTemp s k.val t).getF f = s.getF f :=
  getF_setF_apart s _ (by show f.off ≠ 0x40; omega) hw (.inr (.inr hlo))

theorem noteMax_keeps (s : State) (k : Nat) (t : Int) : (noteMax s k t).mem = s.mem ∧ (noteMax s k t).pwr.hot = s.pwr.hot := by
  unfold noteMax
  dsimp only
  split
  · exact ⟨rfl, rfl⟩
  · exact ⟨State.mem_setF .., congrArg Pwr.hot (State.pwr_setF ..)⟩

theorem getF_noteMax_below (s : State) (k : Fin 64) (t : Int) {f : FieldRef} (hf : f.off = 0x30100 + 8 * k.val)
    (hw : f.lo + f.width ≤ 48) : (noteMax s k.val t).getF f = s.getF f := by
  unfold noteMax
  dsimp only
  split
  · rfl
  · exact getF_setF_apart s _ (by show f.off ≠ 0x40; omega) (by omega) (.inr (.inl hw))

theorem getF_withPwr (s : State) (p : Pwr) (f : FieldRef) : ({ s with pwr := p } : State).getF f = s.getF f := rfl

/-- MAX is the highest reading since it was cleared. -/
theorem max_noteMax (s : State) (k : Fin 64) {t : Int} (h1 : -32768 ≤ t) (h2 : t < 32768) :
    toSigned 16 ((noteMax s k.val t).getF (Fld.THM_SENSOR_MAX k.val)) = if k.val ∈ s.pwr.fresh
      then max t (toSigned 16 (s.getF (Fld.THM_SENSOR_MAX k.val))) else t := by
  have hset : toSigned 16 ((s.setF (Fld.THM_SENSOR_MAX k.val) (ofSigned 16 t)).getF (Fld.THM_SENSOR_MAX k.val)) = t := by
    rw [State.getF_setF_self _ _ _ (by show 0x30100 + 8 * k.val ≠ 0x40; omega) (by show 48 + 16 ≤ 64; decide)]
    exact (toSigned_mod 16 _).trans (toSigned_ofSigned_16 h1 h2)
  unfold noteMax
  dsimp only
  rw [getF_withPwr]
  by_cases hfresh : k.val ∈ s.pwr.fresh
  · rw [if_pos hfresh]
    by_cases hle : t ≤ toSigned 16 (s.getF (Fld.THM_SENSOR_MAX k.val))
    · rw [if_pos ⟨List.contains_iff_mem.2 hfresh, hle⟩, max_eq_right hle]
    · rw [if_neg (fun h => hle h.2), hset, max_eq_left (by omega)]
  · rw [if_neg (fun h => hfresh (List.contains_iff_mem.1 h.1)), if_neg hfresh, hset]

theorem noteHot_keeps (s : State) (k : Nat) (t : Int) : (noteHot s k t).mem = s.mem ∧ (noteHot s k t).regs = s.regs := ⟨rfl, rfl⟩

theorem lookup_filter_ne (l : List (Nat × Nat)) (k : Nat) : (l.filter fun p => p.1 != k).lookup k = none := by
  rw [lookup_filter_fst (fun x => x != k)]
  simp

/-- Successive readings of 135 °C are counted; one below ends the count (R395). -/
theorem hot_noteHot (s : State) (k : Nat) (t : Int) : (noteHot s k t).pwr.hot.lookup k =
    if 1080 ≤ t then some ((s.pwr.hot.lookup k).getD 0 + 1) else none := by
  unfold noteHot
  dsimp only
  split
  · rw [List.lookup_cons_self]
  · exact lookup_filter_ne _ k

/-- A reading of a sensor that works. -/
theorem exec_sensorSample_some (s : State) (k : Fin 64) {r : Int} (h1 : -32768 ≤ r) (h2 : r < 32768)
    (hfault : s.getF (Fld.THM_SENSOR_FAULT k.val) = 0) : exec (.sensorSample k (some r)) s =
      .next (sampled (noteHot (noteMax (putTemp s k.val r) k.val r) k.val r) k.val r) := by
  have hr : toSigned 16 (ofSigned 16 r) = r := toSigned_ofSigned_16 h1 h2
  have hworks : ¬((some r).isNone = true ∧ s.getF (Fld.THM_SENSOR_FAULT k.val) = 0) := fun h => absurd h.1 (by simp)
  rw [exec_sensorSample, execSensorSample]
  dsimp only
  rw [if_neg hworks, if_pos hfault]
  dsimp only
  rw [hr]
  rfl

/-! ## A sensor that fails (R390) -/

theorem failSensor_spec (s : State) (k : Fin 64) : (failSensor s k.val).getF (Fld.THM_SENSOR_FAULT k.val) = 1 ∧
    (failSensor s k.val).getF Fld.ADM_STATUS_FAULT_HOLD = 1 ∧ (failSensor s k.val).pwr.hot.lookup k.val = none := by
  unfold failSensor
  dsimp only
  refine ⟨?_, ?_, lookup_filter_ne _ _⟩
  · rw [getF_withPwr, faultHold, State.getF_setF_ne _ _ _ _ (by show 0x30100 + 8 * k.val ≠ 0x60040; omega)
      (by show 0x30100 + 8 * k.val ≠ 0x40; omega), getF_report_below _ _ (by show 0x30100 + 8 * k.val < 0x40000; omega)
      (by show 0x30100 + 8 * k.val ≠ 0x40; omega), State.getF_setF_self _ _ _ (by show 0x30100 + 8 * k.val ≠ 0x40; omega)
      (by show 16 + 1 ≤ 64; decide)]
    rfl
  · rw [getF_withPwr]
    exact hold_faultHold _

theorem max?_temps_ge {s : State} {l : List Nat} {t : Int} (h : (l.map fun j => tempOf s j).max? = some t) : -32768 ≤ t := by
  obtain ⟨j, -, rfl⟩ := List.mem_map.1 (List.max?_mem h)
  exact toSigned_ge _

/-- What a failed sensor reports is never above 134.875 °C. -/
theorem substitute_bounds (s : State) (k : Nat) : -32768 ≤ (substitute s k).1 ∧ (substitute s k).1 ≤ 1079 ∧
    (substitute s k).2.regs = s.regs ∧ (substitute s k).2.pwr = s.pwr := by
  unfold substitute
  dsimp only
  split
  · next h =>
    have := max?_temps_ge h
    exact ⟨by show -32768 ≤ min 1079 _; omega, min_le_left .., rfl, rfl⟩
  · next _ h =>
    have := max?_temps_ge h
    exact ⟨by show -32768 ≤ min 1079 _; omega, min_le_left .., rfl, rfl⟩
  · exact ⟨le_min (by decide) (toSigned_ge _), min_le_left .., rfl, rfl⟩

/-- A self-check that fails, of a sensor that worked. -/
theorem exec_sensorSample_none (s : State) (k : Fin 64) (hfault : s.getF (Fld.THM_SENSOR_FAULT k.val) = 0) :
    exec (.sensorSample k none) s = .next (sampled (putTemp (substitute (failSensor s k.val) k.val).2 k.val
      (substitute (failSensor s k.val) k.val).1) k.val (substitute (failSensor s k.val) k.val).1) := by
  have hfails : (none : Option Int).isNone = true ∧ s.getF (Fld.THM_SENSOR_FAULT k.val) = 0 := ⟨rfl, hfault⟩
  rw [exec_sensorSample, execSensorSample]
  dsimp only
  rw [if_pos hfails, ite_self]
  rfl

/-! ## The limits of an island (R391, R392) -/

theorem isl_modIsl_self (s : State) (i : Fin 44) (f : IslPwr → IslPwr) : (s.modIsl i f).isl i = f (s.isl i) := by
  simp [State.isl, State.modIsl]

theorem isl_setF (s : State) (f : FieldRef) (v : Nat) (i : Fin 44) : (s.setF f v).isl i = s.isl i := by
  unfold State.isl
  rw [State.pwr_setF]

theorem fCap_modIsl (s : State) (i : Fin 44) (f : IslPwr → IslPwr) (j : Nat) : fCap (s.modIsl i f) j = fCap s j := rfl

theorem fCap_setCap (s : State) (i : Fin 30) (f : Nat) : fCap (setCap s i f) i.val = f % 2 ^ 16 :=
  State.getF_setF_self s _ f (by show 0x20400 + 8 * i.val ≠ 0x40; omega) (by show 32 + 16 ≤ 64; decide)

/-- The limit after a period: down at once, up by one point after cooling. -/
theorem lim_moveLimit (s : State) (i : Fin 30) : ((moveLimit s i).isl (islOf i)).lim =
    if rawLimit s i (islandTemp s (islOf i)) < (s.isl (islOf i)).lim then rawLimit s i (islandTemp s (islOf i))
    else if (s.isl (islOf i)).lim < rawLimit s i (islandTemp s (islOf i)) ∧ (s.isl (islOf i)).cool = true ∧
        islandTemp s (islOf i) ≤ (s.isl (islOf i)).limTemp - 8 * (s.getF Fld.THM_CFG_HYST_C : Int)
      then min (rawLimit s i (islandTemp s (islOf i))) ((s.isl (islOf i)).lim + 100)
    else (s.isl (islOf i)).lim := by
  unfold moveLimit
  rw [isl_modIsl_self]
  simp only [decide_eq_true_eq]
  split_ifs <;> rfl

theorem rawLimit_below {i : Fin 30} {t : Int} (h : t ≤ 8 * (s.getF Fld.THM_CFG_DERATE_C : Int)) :
    rawLimit s i t = fMax s (islOf i) := if_pos (by omega)

theorem rawLimit_above {i : Fin 30} {t : Int} {n : Nat} (h : t = 8 * (s.getF Fld.THM_CFG_DERATE_C : Int) + n) (hn : 0 < n) :
    rawLimit s i t = max 400 (fMax s (islOf i) -
      100 * ((n + 8 * s.getF Fld.THM_CFG_STEP_C - 1) / (8 * s.getF Fld.THM_CFG_STEP_C))) := by
  have habove : t - 8 * (s.getF Fld.THM_CFG_DERATE_C : Int) = n := by omega
  unfold rawLimit
  dsimp only
  rw [habove, if_neg (by omega), Int.toNat_natCast]
  rfl

theorem fCap_moveCap_down {i : Fin 30} (h : (s.isl (islOf i)).lim < fCap s i.val) : fCap (moveCap s i) i.val =
    min (fCap s i.val) (max (fCap s i.val - 100) (max ((demandPoint s i 1 64).getD 400) (s.isl (islOf i)).lim)) % 2 ^ 16 := by
  unfold moveCap
  dsimp only
  rw [if_pos h, fCap_modIsl, fCap_setCap]

theorem moveCap_up {i : Fin 30} (h : fCap s i.val < (s.isl (islOf i)).lim) :
    moveCap s i = raiseCap s i (min (s.isl (islOf i)).lim (fCap s i.val + 100)) := by
  unfold moveCap
  dsimp only
  rw [if_neg (by omega), if_pos h]

theorem fCap_raiseCap {i : Fin 30} {f : Nat} (h : railNeed s i f ≤ s.getF Fld.PWR_AVS_MEAS_MV) :
    fCap (raiseCap s i f) i.val = f % 2 ^ 16 := by
  unfold raiseCap
  rw [if_pos h, fCap_modIsl, fCap_setCap]

theorem raiseCap_waits {i : Fin 30} {f : Nat} (h : s.getF Fld.PWR_AVS_MEAS_MV < railNeed s i f) :
    fCap (raiseCap s i f) i.val = fCap s i.val ∧ ((raiseCap s i f).isl (islOf i)).rise = some f := by
  unfold raiseCap
  rw [if_neg (by omega), fCap_modIsl, isl_modIsl_self]
  exact ⟨rfl, rfl⟩

/-! ## The rail (R382) -/

theorem avsTarget_bounds (s : State) : 600 ≤ avsTarget s ∧ avsTarget s ≤ 850 := by
  unfold avsTarget clampNat
  dsimp only
  split_ifs <;> omega

theorem avsTarget_off (h : s.boot.step < 11 ∨ s.getF Fld.PWR_AVS_ENABLE = 0) : avsTarget s = 850 := by
  unfold avsTarget
  exact if_pos (h.elim (fun h => .inr (.inl h)) .inl)

/-- The capacity clocks that waited for the rail rise. -/
def capsRaised (s : State) : State := scaledIslands.foldl (fun s i => match (s.isl (islOf i)).rise with
  | some f => evalClock (raiseCap s i f) i
  | none => s) s

theorem onlyIslands_capsRaised (s : State) : OnlyIslands s (capsRaised s) :=
  (OnlyIslands.refl s).foldl _ fun u i => by
    split
    · exact (onlyIslands_raiseCap ..).trans (onlyIslands_evalClock ..)
    · exact .refl u

/-- The target is written and the rail read back. -/
def railRead (s : State) (measured : Nat) : State := noteRail ((avsWrite s).setF Fld.PWR_AVS_MEAS_MV measured) measured

theorem exec_avsUpdate_eq (s : State) (measured : Nat) :
    exec (.avsUpdate measured) s = .next (noteDerate (capsRaised (railRead s measured))) := rfl

theorem noteRail_keeps (s : State) (measured : Nat) : (noteRail s measured).mem = s.mem ∧
    (∀ f, (noteRail s measured).getF f = s.getF f) ∧ (noteRail s measured).now = s.now ∧
    (noteRail s measured).pwr.avsOff = if s.getF Fld.PWR_AVS_TARGET_MV + 25 < measured ∨
      measured + 25 < s.getF Fld.PWR_AVS_TARGET_MV then s.pwr.avsOff.or (some s.now) else none := by
  refine ⟨rfl, fun _ => rfl, rfl, ?_⟩
  unfold noteRail
  simp only [decide_eq_true_eq]

theorem setF_meas_keeps (s : State) {mv : Nat} (hmv : mv < 2 ^ 16) : (s.setF Fld.PWR_AVS_MEAS_MV mv).mem = s.mem ∧
    (s.setF Fld.PWR_AVS_MEAS_MV mv).pwr = s.pwr ∧ (s.setF Fld.PWR_AVS_MEAS_MV mv).now = s.now ∧
    (s.setF Fld.PWR_AVS_MEAS_MV mv).getF Fld.PWR_AVS_MEAS_MV = mv ∧
    (∀ f : FieldRef, f.off ≠ Off.SYS_EVT → f.lo + f.width ≤ 48 → (s.setF Fld.PWR_AVS_MEAS_MV mv).getF f = s.getF f) := by
  refine ⟨State.mem_setF .., State.pwr_setF .., ?_, ?_, fun f he hlo => getF_setF_apart s mv he (by omega) (.inr (.inl hlo))⟩
  · rw [State.now, State.devtime_setF]
    rfl
  · rw [State.getF_setF_self _ _ _ (by decide) (by decide)]
    exact Nat.mod_eq_of_lt hmv

theorem railRead_spec (s : State) {mv : Nat} (hmv : mv < 2 ^ 16) : (railRead s mv).mem = s.mem ∧
    (railRead s mv).getF Fld.PWR_AVS_MEAS_MV = mv ∧ (railRead s mv).getF Fld.PWR_AVS_TARGET_MV = avsTarget s ∧
    (railRead s mv).pwr.avsOff =
      if avsTarget s + 25 < mv ∨ mv + 25 < avsTarget s then s.pwr.avsOff.or (some s.now) else none := by
  obtain ⟨hmem, hpwr, hnow, hmeas, hbeside⟩ := setF_meas_keeps (avsWrite s) hmv
  obtain ⟨hmem', hget, -, havs⟩ := noteRail_keeps ((avsWrite s).setF Fld.PWR_AVS_MEAS_MV mv) mv
  have htarget : (avsWrite s).getF Fld.PWR_AVS_TARGET_MV = avsTarget s := by
    unfold avsWrite
    rw [State.getF_setF_self _ _ _ (by decide) (by decide)]
    exact Nat.mod_eq_of_lt (lt_of_le_of_lt (avsTarget_bounds s).2 (by decide))
  have htarget' : ((avsWrite s).setF Fld.PWR_AVS_MEAS_MV mv).getF Fld.PWR_AVS_TARGET_MV = avsTarget s :=
    (hbeside _ (by decide) (by decide)).trans htarget
  have hnow' : (avsWrite s).now = s.now := by
    unfold avsWrite
    rw [State.now, State.devtime_setF]
    rfl
  refine ⟨hmem'.trans (hmem.trans (State.mem_setF ..)), (hget _).trans hmeas, (hget _).trans htarget', ?_⟩
  unfold railRead
  rw [havs, htarget', hpwr, hnow, hnow']
  unfold avsWrite
  rw [State.pwr_setF]

theorem noteDerate_keeps (s : State) : (noteDerate s).mem = s.mem ∧ (noteDerate s).pwr = s.pwr ∧
    (∀ f : FieldRef, f.off = Fld.PWR_AVS_MEAS_MV.off → (noteDerate s).getF f = s.getF f) := by
  unfold noteDerate
  refine ⟨by rw [State.mem_setF, State.mem_setF], by rw [State.pwr_setF, State.pwr_setF], fun f hf => ?_⟩
  rw [State.getF_setF_ne _ _ _ _ (by rw [hf]; decide) (by rw [hf]; decide),
    State.getF_setF_ne _ _ _ _ (by rw [hf]; decide) (by rw [hf]; decide)]

/-- PWR writes the target and reads the rail back. -/
theorem exec_avsUpdate_spec (s : State) {mv : Nat} (hmv : mv < 2 ^ 16) : ∃ t, exec (.avsUpdate mv) s = .next t ∧
    t.getF Fld.PWR_AVS_MEAS_MV = mv ∧ t.getF Fld.PWR_AVS_TARGET_MV = avsTarget s ∧ t.mem = s.mem ∧
    t.pwr.avsOff = (if avsTarget s + 25 < mv ∨ mv + 25 < avsTarget s then s.pwr.avsOff.or (some s.now) else none) := by
  obtain ⟨hmem, hmeas, htarget, havs⟩ := railRead_spec s hmv
  have hcaps := onlyIslands_capsRaised (railRead s mv)
  obtain ⟨hmem', hpwr', hget'⟩ := noteDerate_keeps (capsRaised (railRead s mv))
  refine ⟨_, exec_avsUpdate_eq s mv, ?_, ?_, hmem'.trans (hcaps.mem.trans hmem), ?_⟩
  · rw [hget' Fld.PWR_AVS_MEAS_MV rfl, hcaps.getF (by unfold IslReg; decide) (by decide), hmeas]
  · rw [hget' Fld.PWR_AVS_TARGET_MV rfl, hcaps.getF (by unfold IslReg; decide) (by decide), htarget]
  · rw [hpwr', hcaps.pwr, ← havs]

/-- The rail read back, its target as it was. -/
def railChecked (s : State) (measured : Nat) : State := noteRail (s.setF Fld.PWR_AVS_MEAS_MV measured) measured

theorem railChecked_spec (s : State) {mv : Nat} (hmv : mv < 2 ^ 16) : (railChecked s mv).mem = s.mem ∧
    (railChecked s mv).now = s.now ∧ (railChecked s mv).getF Fld.PWR_AVS_MEAS_MV = mv ∧
    (railChecked s mv).getF Fld.PWR_AVS_FAULT = s.getF Fld.PWR_AVS_FAULT ∧
    (railChecked s mv).pwr.avsOff = if s.getF Fld.PWR_AVS_TARGET_MV + 25 < mv ∨ mv + 25 < s.getF Fld.PWR_AVS_TARGET_MV
      then s.pwr.avsOff.or (some s.now) else none := by
  obtain ⟨hmem, hpwr, hnow, hmeas, hbeside⟩ := setF_meas_keeps s hmv
  obtain ⟨hmem', hget, hnow', havs⟩ := noteRail_keeps (s.setF Fld.PWR_AVS_MEAS_MV mv) mv
  refine ⟨hmem'.trans hmem, hnow'.trans hnow, (hget _).trans hmeas, (hget _).trans (hbeside _ (by decide) (by decide)), ?_⟩
  unfold railChecked
  rw [havs, hbeside _ (by decide) (by decide), hpwr, hnow]

/-- The report of a rail that has differed for too long. -/
def railReported (s : State) (measured : Nat) : State := (s.setF Fld.PWR_AVS_FAULT 1).report
  { island := 43, unit := 0xFF, cls := .environment, severity := 5, detail := measured }

theorem railReported_spec (s : State) (measured : Nat) : (railReported s measured).mem = s.mem ∧
    (railReported s measured).getF Fld.PWR_AVS_FAULT = 1 ∧
    (railReported s measured).getF Fld.PWR_AVS_MEAS_MV = s.getF Fld.PWR_AVS_MEAS_MV := by
  unfold railReported
  refine ⟨by rw [State.mem_report, State.mem_setF], ?_, ?_⟩
  · rw [getF_report_below _ _ (by decide) (by decide), State.getF_setF_self _ _ _ (by decide) (by decide)]
    rfl
  · rw [getF_report_below _ _ (by decide) (by decide),
      getF_setF_apart _ _ (by decide) (by decide) (.inr (.inr (by decide)))]

theorem exec_avsFault_eq (s : State) (measured : Nat) : exec (.avsFault measured) s = .next
    (if ((railChecked s measured).pwr.avsOff.any fun t => decide (t + 1000000 < (railChecked s measured).now)) = true
      then railReported (railChecked s measured) measured else railChecked s measured) := rfl

theorem exec_avsFault_late (s : State) {mv t0 : Nat} (hmv : mv < 2 ^ 16)
    (hoff : s.getF Fld.PWR_AVS_TARGET_MV + 25 < mv ∨ mv + 25 < s.getF Fld.PWR_AVS_TARGET_MV)
    (hsince : s.pwr.avsOff = some t0) (hlate : t0 + 1000000 < s.now) : ∃ t, exec (.avsFault mv) s = .next t ∧
      t.getF Fld.PWR_AVS_FAULT = 1 ∧ t.getF Fld.PWR_AVS_MEAS_MV = mv ∧ t.mem = s.mem := by
  obtain ⟨hmem, hnow, hmeas, -, havs⟩ := railChecked_spec s hmv
  obtain ⟨hmem', hfault, hmeas'⟩ := railReported_spec (railChecked s mv) mv
  rw [if_pos hoff, hsince, Option.some_or] at havs
  refine ⟨_, exec_avsFault_eq s mv, ?_⟩
  rw [if_pos (by rw [havs, hnow, Option.any_some]; exact decide_eq_true hlate)]
  exact ⟨hfault, hmeas'.trans hmeas, hmem'.trans hmem⟩

theorem exec_avsFault_soon (s : State) {mv : Nat} (hmv : mv < 2 ^ 16)
    (hsoon : ¬(s.getF Fld.PWR_AVS_TARGET_MV + 25 < mv ∨ mv + 25 < s.getF Fld.PWR_AVS_TARGET_MV) ∨
      ∀ t0, s.pwr.avsOff = some t0 → s.now ≤ t0 + 1000000) : ∃ t, exec (.avsFault mv) s = .next t ∧
      t.getF Fld.PWR_AVS_FAULT = s.getF Fld.PWR_AVS_FAULT ∧ t.getF Fld.PWR_AVS_MEAS_MV = mv ∧ t.mem = s.mem ∧
      t.pwr.avsOff = if s.getF Fld.PWR_AVS_TARGET_MV + 25 < mv ∨ mv + 25 < s.getF Fld.PWR_AVS_TARGET_MV
        then s.pwr.avsOff.or (some s.now) else none := by
  obtain ⟨hmem, hnow, hmeas, hfault, havs⟩ := railChecked_spec s hmv
  refine ⟨_, exec_avsFault_eq s mv, ?_⟩
  rw [if_neg ?_]
  · exact ⟨hfault, hmeas, hmem, havs⟩
  · rw [havs, hnow]
    split
    · next hoff =>
      cases hsince : s.pwr.avsOff with
      | none =>
        rw [Option.none_or, Option.any_some, decide_eq_true_iff]
        omega
      | some t0 =>
        have := hsoon.resolve_left (not_not.2 hoff) t0 hsince
        rw [Option.some_or, Option.any_some, decide_eq_true_iff]
        omega
    · rw [Option.any_none]
      exact Bool.false_ne_true

/-! ## The loss of power (R395, R446) -/

theorem quiet_portsDown (s : State) : Quiet s (portsDown s) := foldl_inv (.refl s) _ fun _ _ h => h.setF _ 0

theorem islandReset_spec (s : State) (hbm log : Bool) (regs : List (Nat × BitVec 64)) :
    (islandReset s hbm log regs).mem = s.mem.filter (fun p => (hbm && inHbm p.1) || inHost p.1 || (log && inLog p.1)) ∧
    (islandReset s hbm log regs).txns = [] ∧ (islandReset s hbm log regs).pwr.trip = s.pwr.trip ∧
    (islandReset s hbm log regs).pwr.railFault = s.pwr.railFault := ⟨rfl, rfl, rfl, rfl⟩

/-- An island without power, or one of a tile that is retired. -/
def offState (s : State) (i : Fin 43) : Nat :=
  if h : i.val < 24 then (if tileRetired s ⟨i.val, h⟩ then 5 else 0) else 0

/-- Removes power from one island. -/
def islandOff (s : State) (i : Fin 43) : State :=
  setClk (setIslandState s ⟨i.val, by omega⟩ (offState s i)) ⟨i.val, by omega⟩ 0

theorem islandsOff_eq (s : State) : islandsOff s = (List.finRange 43).foldl islandOff s := rfl

theorem offState_cases (s : State) (i : Fin 43) : offState s i = 0 ∨ offState s i = 5 := by
  unfold offState
  split_ifs <;> simp

theorem islandState_islandOff (s : State) (i : Fin 43) (j : Nat) :
    islandState (islandOff s i) j = if j = i.val then offState s i else islandState s j := by
  unfold islandOff
  rw [islandState_setClk, islandState_setIslandState]
  split
  · rcases offState_cases s i with h | h <;> rw [h]
  · rfl

theorem onlyIslands_islandOff (s : State) (i : Fin 43) : OnlyIslands s (islandOff s i) :=
  ((OnlyIslands.refl s).setIslandState _ _).setClk _ _

theorem onlyIslands_islandsOff (s : State) : OnlyIslands s (islandsOff s) := by
  rw [islandsOff_eq]
  exact (OnlyIslands.refl s).foldl _ onlyIslands_islandOff

theorem islandState_islandsOff (s : State) (q : Fin 43) :
    islandState (islandsOff s) q.val = 0 ∨ islandState (islandsOff s) q.val = 5 := by
  rw [islandsOff_eq]
  refine foldl_reaches (ok := fun _ => True) (P := fun u => islandState u q.val = 0 ∨ islandState u q.val = 5)
    (List.mem_finRange q) trivial (fun _ _ _ => trivial) (fun u _ => ?_) fun u i h => ?_
  · rw [islandState_islandOff, if_pos rfl]
    exact offState_cases u q
  · rw [islandState_islandOff]
    split
    · exact offState_cases u i
    · exact h

/-- What the loss of power leaves: no transaction, no memory of the device, no island that runs. -/
structure PowerLost (s t : State) : Prop where
  step : t.boot.step = 0
  islands : ∀ q : Fin 43, islandState t q.val = 0 ∨ islandState t q.val = 5
  mem : ∀ a, a < hostBase → memGet t.mem a = 0
  txns : t.txns = []
  trip : t.pwr.trip = s.pwr.trip
  railFault : t.pwr.railFault = s.pwr.railFault

/-- The state before the islands lose power: their contents are gone. -/
def powerCut (s : State) : State :=
  islandReset (portsDown (s.setF Fld.BOOT_STATUS_SILOG 0)) false false
    ((portsDown (s.setF Fld.BOOT_STATUS_SILOG 0)).regs.filter fun p => decide (p.1 < 0x5_0000))

theorem powerLoss_eq (s : State) : powerLoss s =
    { islandsOff (powerCut s) with boot := { (islandsOff (powerCut s)).boot with step := 0 } } := rfl

theorem powerCut_spec (s : State) : (∀ a, a < hostBase → memGet (powerCut s).mem a = 0) ∧ (powerCut s).txns = [] ∧
    (powerCut s).pwr.trip = s.pwr.trip ∧ (powerCut s).pwr.railFault = s.pwr.railFault := by
  have hq := (((Quiet.refl s).setF Fld.BOOT_STATUS_SILOG 0).trans (quiet_portsDown _)).pwr
  obtain ⟨hmem, htxns, htrip, hrail⟩ := islandReset_spec (portsDown (s.setF Fld.BOOT_STATUS_SILOG 0)) false false
    ((portsDown (s.setF Fld.BOOT_STATUS_SILOG 0)).regs.filter fun p => decide (p.1 < 0x5_0000))
  refine ⟨fun a ha => ?_, htxns, htrip.trans (congrArg Pwr.trip hq), hrail.trans (congrArg Pwr.railFault hq)⟩
  have hin : inHost a = false := decide_eq_false (by omega)
  unfold powerCut
  rw [hmem, memGet_filter (fun x => (false && inHbm x) || inHost x || (false && inLog x)), hin]
  rfl

theorem powerLost_withBoot {u t : State} (h : OnlyIslands s u) (hislands : ∀ q : Fin 43, islandState u q.val = 0 ∨
    islandState u q.val = 5) (hmem : ∀ a, a < hostBase → memGet s.mem a = 0) (htxns : s.txns = []) (b : Boot)
    (hb : b.step = 0) (ht : t = { u with boot := b }) : PowerLost s t := by
  have hpwr := h.pwr
  subst ht
  exact ⟨hb, hislands, fun a ha => (congrArg (memGet · a) h.mem).trans (hmem a ha), h.txns.trans htxns,
    (congrArg Pwr.trip hpwr).trans rfl, (congrArg Pwr.railFault hpwr).trans rfl⟩

theorem powerLost_powerLoss (s : State) : PowerLost s (powerLoss s) := by
  obtain ⟨hmem, htxns, htrip, hrail⟩ := powerCut_spec s
  have h := powerLost_withBoot (onlyIslands_islandsOff (powerCut s)) (islandState_islandsOff _) hmem htxns
    { (islandsOff (powerCut s)).boot with step := 0 } rfl (powerLoss_eq s)
  exact ⟨h.step, h.islands, h.mem, h.txns, h.trip.trans htrip, h.railFault.trans hrail⟩

theorem exec_thermalTrip_none (h : tripSensor s = none) : exec (.thermalTrip) s = .next s := by
  rw [exec_thermalTrip, execThermalTrip, h]

/-- The pin is driven, and power goes. -/
def tripped (s : State) (r : ErrReport) : State :=
  { s.report r with pwr := { (s.report r).pwr with trip := true } }

def railLost (s : State) (r : ErrReport) : State :=
  { s.report r with pwr := { (s.report r).pwr with railFault := true } }

theorem tripped_trip (s : State) (r : ErrReport) : (tripped s r).pwr.trip = true := rfl

theorem railLost_railFault (s : State) (r : ErrReport) : (railLost s r).pwr.railFault = true := rfl

/-- The entry of a trip. -/
def tripReport (s : State) (n : Nat) : ErrReport :=
  { island := sensorIsland n, unit := n, cls := .environment, severity := 5, detail := s.getF (Fld.THM_SENSOR_TEMP n) }

/-- The entry of a rail that is lost. -/
def railReport (rail : Fin 10) : ErrReport :=
  { island := 43, unit := 0xFF, cls := .environment, severity := 5, detail := rail.val }

theorem exec_thermalTrip_some {n : Nat} (h : tripSensor s = some n) (htrip : s.pwr.trip = false) :
    exec (.thermalTrip) s = .next (powerLoss (tripped s (tripReport s n))) := by
  rw [exec_thermalTrip, execThermalTrip, h]
  dsimp only
  rw [if_neg (by rw [htrip]; decide)]
  rfl

theorem exec_railLoss_other {rail : Fin 10} (h3 : rail ≠ 3) (hfault : s.pwr.railFault = false) (hstep : s.boot.step ≠ 0) :
    exec (.railLoss rail) s = .next (powerLoss (railLost s (railReport rail))) := by
  rw [exec_railLoss, execRailLoss, if_neg h3, if_neg (by simp [hfault, hstep])]
  rfl

/-! ## Reference clocks (R453) -/

/-- A port that fails is down; the others stay as they are. -/
theorem failPort_keeps (s : State) (p : Fin 8) : (failPort s p).pwr = s.pwr ∧
    (failPort s p).getF (Fld.NET_PORT_STATUS_LINK_UP p.val) ≠ 1 ∧
    (∀ q : Fin 8, q ≠ p → (failPort s p).getF (Fld.NET_PORT_STATUS_LINK_UP q.val) =
      s.getF (Fld.NET_PORT_STATUS_LINK_UP q.val)) := by
  by_cases hup : s.getF (Fld.NET_PORT_STATUS_LINK_UP p.val) = 1
  · have hdown : Steady (s.setF (Fld.NET_PORT_STATUS_LINK_UP p.val) 0) (portDown s p) :=
      ((Steady.refl _).report).faultHold
    have hall : Steady (s.setF (Fld.NET_PORT_STATUS_LINK_UP p.val) 0) (failPort s p) := by
      rw [failPort_of_up hup]
      exact .ite (hdown.foldl _ fun u c h => h.closeConn) (.ite hdown.failOver hdown)
    refine ⟨hall.pwr.trans (State.pwr_setF ..), ?_, fun q hq => ?_⟩
    · rw [hall.ethUp, State.getF_setF_self _ _ _ (by show 0x70108 + 32 * p.val ≠ 0x40; omega) (by show 0 + 1 ≤ 64; decide)]
      exact Nat.zero_ne_one
    · have hne : q.val ≠ p.val := fun h => hq (Fin.ext h)
      rw [hall.ethUp, State.getF_setF_ne _ _ _ _ (by show 0x70108 + 32 * q.val ≠ 0x70108 + 32 * p.val; omega)
        (by show 0x70108 + 32 * q.val ≠ 0x40; omega)]
  · rw [failPort_of_not_up hup]
    exact ⟨rfl, hup, fun _ _ => rfl⟩

/-- A Kolat port that is marked failed. -/
def kportMarked (s : State) (p : Fin 8) : State :=
  (s.setF (Fld.KOL_PORT_STATUS_LINK_UP p.val) 0).setF (Fld.KOL_PORT_STATUS_FAILED p.val) 1

theorem steady_withKol (s : State) (k : Kol) : Steady s { s with kol := k } := (Steady.refl s).upd rfl rfl rfl

theorem steady_failKport (hup : s.getF (Fld.KOL_PORT_STATUS_LINK_UP p.val) ≠ 0) :
    Steady (kportMarked s p) (failKport s p) := by
  unfold failKport
  rw [if_neg hup]
  have hfailed : Steady (kportMarked s p) (faultHold (((kportMarked s p).modPort p fun _ => KPort.reset).report
      { island := 39, unit := p.val, cls := .kolat, severity := 1 })) := (Steady.refl _).modPort.report.faultHold
  exact .ite (Steady.noteAbsences (Steady.sendLinkstate (hfailed.trans (steady_withKol _ _)))) hfailed

theorem failKport_keeps (s : State) (p : Fin 8) : (failKport s p).pwr = s.pwr ∧
    (failKport s p).getF (Fld.KOL_PORT_STATUS_LINK_UP p.val) ≠ 1 ∧
    (∀ q : Fin 8, q ≠ p → (failKport s p).getF (Fld.KOL_PORT_STATUS_LINK_UP q.val) =
      s.getF (Fld.KOL_PORT_STATUS_LINK_UP q.val)) := by
  by_cases hup : s.getF (Fld.KOL_PORT_STATUS_LINK_UP p.val) = 0
  · have hsame : failKport s p = s := if_pos hup
    rw [hsame, hup]
    exact ⟨rfl, by decide, fun _ _ => rfl⟩
  · have hall := steady_failKport hup
    have hbeside (q : Fin 8) : (kportMarked s p).getF (Fld.KOL_PORT_STATUS_LINK_UP q.val) =
        (s.setF (Fld.KOL_PORT_STATUS_LINK_UP p.val) 0).getF (Fld.KOL_PORT_STATUS_LINK_UP q.val) :=
      getF_setF_apart _ _ (by show 0xC0100 + 8 * q.val ≠ 0x40; omega) (by show 0 + 1 ≤ 64; decide)
        (.inr (.inl (by show 0 + 1 ≤ 1; decide)))
    refine ⟨hall.pwr.trans ?_, ?_, fun q hq => ?_⟩
    · unfold kportMarked
      rw [State.pwr_setF, State.pwr_setF]
    · rw [hall.kolUp, hbeside, State.getF_setF_self _ _ _ (by show 0xC0100 + 8 * p.val ≠ 0x40; omega)
        (by show 0 + 1 ≤ 64; decide)]
      exact Nat.zero_ne_one
    · have hne : q.val ≠ p.val := fun h => hq (Fin.ext h)
      rw [hall.kolUp, hbeside, State.getF_setF_ne _ _ _ _ (by show 0xC0100 + 8 * q.val ≠ 0xC0100 + 8 * p.val; omega)
        (by show 0xC0100 + 8 * q.val ≠ 0x40; omega)]

/-- Every port of a kind fails. -/
theorem allPorts_fail {f : State → Fin 8 → State} {up : Fin 8 → FieldRef} (hf : ∀ s p, (f s p).pwr = s.pwr ∧
    (f s p).getF (up p) ≠ 1 ∧ ∀ q, q ≠ p → (f s p).getF (up q) = s.getF (up q)) (s : State) :
    (allPorts.foldl f s).pwr = s.pwr ∧ ∀ p, (allPorts.foldl f s).getF (up p) ≠ 1 := by
  refine ⟨foldl_inv (P := fun u : State => u.pwr = s.pwr) rfl _ fun u p h => (hf u p).1.trans h, fun p => ?_⟩
  refine foldl_reaches (ok := fun _ => True) (P := fun u => u.getF (up p) ≠ 1) (List.mem_finRange p) trivial
    (fun _ _ _ => trivial) (fun u _ => (hf u p).2.1) fun u q h => ?_
  by_cases hq : p = q
  · exact hq ▸ (hf u q).2.1
  · rw [(hf u q).2.2 p hq]
    exact h

theorem noteTimeSource_keeps (s : State) : (noteTimeSource s).pwr = s.pwr ∧ (noteTimeSource s).mem = s.mem :=
  ⟨State.pwr_setF .., State.mem_setF ..⟩

/-- Whether the time source runs. -/
theorem timeSource_ok (s : State) {k : RefClk} (hk : k = if s.getF Fld.SYS_TIME_CFG_SRC = 0 then .sys25 else .time10) :
    (noteTimeSource s).getF Fld.SYS_STATUS_TIME_SRC_OK = b2n (!s.pwr.clkLost.contains k) := by
  unfold noteTimeSource
  rw [State.getF_setF_self _ _ _ (by decide) (by decide), hk]
  have hbit (b : Bool) : b2n b % 2 ^ Fld.SYS_STATUS_TIME_SRC_OK.width = b2n b := by cases b <;> rfl
  rw [hbit]
  split <;> rfl

/-- A clock is marked lost. -/
def clkMarked (s : State) (k : RefClk) : State := { s with pwr := { s.pwr with clkLost := k :: s.pwr.clkLost } }

theorem clkMarked_keeps (s : State) (k : RefClk) : (clkMarked s k).pwr.clkLost = k :: s.pwr.clkLost ∧
    ∀ f, (clkMarked s k).getF f = s.getF f := ⟨rfl, fun _ => rfl⟩

theorem exec_refclkLoss_new {k : RefClk} (h : k ∉ s.pwr.clkLost) : exec (.refclkLoss k) s = .next (match k with
    | .eth => allPorts.foldl failPort (clkMarked s k)
    | .kol => allPorts.foldl failKport (clkMarked s k)
    | .pcie => linkDownHost (clkMarked s k)
    | .sys25 => noteTimeSource ((clkMarked s k).report { island := 43, unit := 0xFF, cls := .environment, severity := 5 })
    | .time10 => noteTimeSource (clkMarked s k)) := by
  rw [exec_refclkLoss, execRefclkLoss, if_neg (fun hc => h (List.contains_iff_mem.1 hc))]
  cases k <;> rfl

/-- A clock that is lost takes its links down. -/
theorem exec_refclkLoss_spec {k : RefClk} (h : k ∉ s.pwr.clkLost) : ∃ t, exec (.refclkLoss k) s = .next t ∧
    k ∈ t.pwr.clkLost ∧ (k = .eth → ∀ p : Fin 8, t.getF (Fld.NET_PORT_STATUS_LINK_UP p.val) ≠ 1) ∧
    (k = .kol → ∀ p : Fin 8, t.getF (Fld.KOL_PORT_STATUS_LINK_UP p.val) ≠ 1) ∧ (k = .pcie → t.reg Off.HIF_STATUS = 0) ∧
    (k = .sys25 → s.getF Fld.SYS_TIME_CFG_SRC = 0 → t.getF Fld.SYS_STATUS_TIME_SRC_OK = 0) ∧
    (k = .time10 → s.getF Fld.SYS_TIME_CFG_SRC = 1 → t.getF Fld.SYS_STATUS_TIME_SRC_OK = 0) := by
  obtain ⟨hlost, hget⟩ := clkMarked_keeps s k
  have hin : k ∈ (clkMarked s k).pwr.clkLost := hlost ▸ List.mem_cons_self
  refine ⟨_, exec_refclkLoss_new h, ?_⟩
  cases k with
  | eth =>
    dsimp only
    obtain ⟨hpwr, hup⟩ := allPorts_fail failPort_keeps (clkMarked s .eth)
    generalize allPorts.foldl failPort (clkMarked s .eth) = t at hpwr hup ⊢
    rw [← hpwr] at hin
    exact ⟨hin, fun _ => hup, nofun, nofun, nofun, nofun⟩
  | kol =>
    dsimp only
    obtain ⟨hpwr, hup⟩ := allPorts_fail failKport_keeps (clkMarked s .kol)
    generalize allPorts.foldl failKport (clkMarked s .kol) = t at hpwr hup ⊢
    rw [← hpwr] at hin
    exact ⟨hin, nofun, fun _ => hup, nofun, nofun, nofun⟩
  | pcie => exact ⟨hin, nofun, nofun, fun _ => reg_linkDownHost _, nofun, nofun⟩
  | sys25 =>
    dsimp only
    generalize hr : ({ island := 43, unit := 0xFF, cls := .environment, severity := 5 } : ErrReport) = r
    have hin' : RefClk.sys25 ∈ ((clkMarked s .sys25).report r).pwr.clkLost := by
      rw [State.pwr_report]
      exact hin
    refine ⟨by rw [(noteTimeSource_keeps _).1]; exact hin', nofun, nofun, nofun, fun _ hsrc => ?_, nofun⟩
    rw [timeSource_ok (k := .sys25) _ (by rw [getF_report_below _ _ (by decide) (by decide), hget, hsrc, if_pos rfl]),
      List.contains_iff_mem.2 hin']
    rfl
  | time10 =>
    dsimp only
    refine ⟨by rw [(noteTimeSource_keeps _).1]; exact hin, nofun, nofun, nofun, nofun, fun _ hsrc => ?_⟩
    rw [timeSource_ok (k := .time10) _ (by rw [hget, hsrc, if_neg (by decide)]), List.contains_iff_mem.2 hin]
    rfl

theorem exec_refclkRestore_running {k : RefClk} (h : k ∉ s.pwr.clkLost) : exec (.refclkRestore k) s = .next s := by
  rw [exec_refclkRestore, execRefclkRestore, if_neg (fun hc => h (List.contains_iff_mem.1 hc))]

/-- A clock that was lost runs again. -/
def clkUnmarked (s : State) (k : RefClk) : State :=
  { s with pwr := { s.pwr with clkLost := s.pwr.clkLost.filter fun x => x != k } }

theorem clkUnmarked_keeps (s : State) (k : RefClk) : (clkUnmarked s k).mem = s.mem ∧
    (clkUnmarked s k).pwr.clkLost = s.pwr.clkLost.filter (fun x => x != k) ∧
    ∀ f, (clkUnmarked s k).getF f = s.getF f := ⟨rfl, rfl, fun _ => rfl⟩

theorem exec_refclkRestore_spec {k : RefClk} (h : k ∈ s.pwr.clkLost) : ∃ t, exec (.refclkRestore k) s = .next t ∧
    t.pwr.clkLost = s.pwr.clkLost.filter (fun x => x != k) ∧ t.mem = s.mem ∧
    (k = .sys25 → s.getF Fld.SYS_TIME_CFG_SRC = 0 → t.getF Fld.SYS_STATUS_TIME_SRC_OK = 1) := by
  obtain ⟨hmem, hlost, hget⟩ := clkUnmarked_keeps s k
  obtain ⟨hpwr', hmem'⟩ := noteTimeSource_keeps (clkUnmarked s k)
  have hexec : exec (.refclkRestore k) s = .next (noteTimeSource (clkUnmarked s k)) := by
    rw [exec_refclkRestore, execRefclkRestore, if_pos (List.contains_iff_mem.2 h)]
    rfl
  refine ⟨_, hexec, (congrArg Pwr.clkLost hpwr').trans hlost, hmem'.trans hmem, fun hk hsrc => ?_⟩
  have hout : (clkUnmarked s k).pwr.clkLost.contains k = false := by
    rw [hlost]
    simp
  rw [timeSource_ok (k := k) _ (by rw [hget, hsrc, if_pos rfl, hk]), hout]
  rfl

end

/-! ## The obligation -/

/-- Settles O50: each command by the equation of what it does, the loss of power and of a clock by what becomes of each
island and each port. -/
theorem temperatureAndRail : Obligations.TemperatureAndRail := by
  unfold Obligations.TemperatureAndRail
  intro s k i mv
  refine ⟨fun r h1 h2 hfault => ⟨_, exec_sensorSample_some s k h1 h2 hfault, ?reading⟩,
    fun hfault => ⟨_, exec_sensorSample_none s k hfault, ?failed⟩, rfl, ?limit, ?cap, exec_thermalTrip_none,
    fun n hn htrip => ⟨_, exec_thermalTrip_some hn htrip, ?trip⟩, exec_avsUpdate_spec s, avsTarget_bounds s, avsTarget_off,
    fun hmv => ⟨fun t0 hoff hsince hlate => exec_avsFault_late s hmv hoff hsince hlate, fun hsoon => ?soon⟩,
    fun rail => ⟨fun h3 => ?standby, fun h3 hfault hstep => ⟨_, exec_railLoss_other h3 hfault hstep, ?rail⟩⟩,
    fun r hr => ⟨exec_refclkLoss_spec hr, exec_refclkRestore_running hr⟩, fun r hr => exec_refclkRestore_spec hr⟩
  case reading =>
    obtain ⟨hmem, hhot, -⟩ := readingKept_sampled (noteHot (noteMax (putTemp s k.val r) k.val r) k.val r) k.val r
    obtain ⟨hmem', hregs'⟩ := noteHot_keeps (noteMax (putTemp s k.val r) k.val r) k.val r
    obtain ⟨hmem'', hhot''⟩ := noteMax_keeps (putTemp s k.val r) k.val r
    have hput : (putTemp s k.val r).pwr = s.pwr := State.pwr_setF ..
    have hget {f : FieldRef} (hf : f.off = 0x30100 + 8 * k.val) := (getF_sampled
      (noteHot (noteMax (putTemp s k.val r) k.val r) k.val r) k k.val r hf).trans (State.getF_congr f (State.reg_congr hregs' _))
    refine ⟨?_, ?_, over125_sampled _ _, ?_, hmem.trans (hmem'.trans (hmem''.trans (State.mem_setF ..)))⟩
    · have htemp : tempOf (noteMax (putTemp s k.val r) k.val r) k.val = r := by
        rw [tempOf, getF_noteMax_below _ _ _ rfl (by show 0 + 16 ≤ 48; decide)]
        exact tempOf_putTemp s k h1 h2
      rw [tempOf, hget rfl]
      exact htemp
    · rw [hhot, hot_noteHot, hhot'', hput]
    · rw [hget rfl, max_noteMax _ _ h1 h2, hput,
        getF_putTemp_above s k r rfl (by show 16 ≤ 48; decide) (by show 48 + 16 ≤ 64; decide)]
  case failed =>
    obtain ⟨hfault', hhold, hhot⟩ := failSensor_spec s k
    generalize failSensor s k.val = u at hfault' hhold hhot ⊢
    obtain ⟨hlow, hhigh, hregs, hpwr⟩ := substitute_bounds u k.val
    generalize substitute u k.val = v at hlow hhigh hregs hpwr ⊢
    have hkept := readingKept_sampled (putTemp v.2 k.val v.1) k.val v.1
    have hget (f : FieldRef) : v.2.getF f = u.getF f := State.getF_congr f (State.reg_congr hregs _)
    refine ⟨?_, ?_, ?_, ?_⟩
    · rw [getF_sampled _ k _ _ rfl, getF_putTemp_above _ _ _ rfl (by show 16 ≤ 16; decide) (by show 16 + 1 ≤ 64; decide),
        hget, hfault']
    · rw [State.getF_congr _ (hkept.reg Fld.ADM_STATUS_FAULT_HOLD.off (by unfold IslReg; decide) (by decide) (by decide)),
        putTemp, State.getF_setF_ne _ _ _ _ (by show 0x60040 ≠ 0x30100 + 8 * k.val; omega) (by decide), hget, hhold]
    · rw [tempOf, getF_sampled _ k _ _ rfl]
      exact (tempOf_putTemp v.2 k hlow (by omega)).trans_le hhigh
    · rw [hkept.hot, putTemp, State.pwr_setF, hpwr, hhot]
  case limit =>
    intro t raw x y
    have hlim : y.lim = if raw < x.lim then raw else if x.lim < raw ∧ x.cool = true ∧
        t ≤ x.limTemp - 8 * (s.getF Fld.THM_CFG_HYST_C : Int) then min raw (x.lim + 100) else x.lim := lim_moveLimit s i
    refine ⟨rawLimit_below, fun n ht hn _ => rawLimit_above ht hn, fun h => ?_, fun h => ?_, fun h hcool => ?_, fun h => ?_,
      fun h hcool hlow => ?_⟩
    · rw [hlim, if_pos h]
    · rw [hlim, if_neg (by omega)]
      split
      · exact .inr rfl
      · exact .inl rfl
    · rw [hlim, if_neg (by omega), if_neg (by simp [hcool])]
    · rw [hlim, if_neg (by omega), if_neg (by omega), h]
    · rw [hlim, if_neg (by omega), if_pos ⟨h, hcool, hlow⟩]
  case cap =>
    refine ⟨fCap_moveCap_down, fun h hrail => ?_, fun h hrail => ?_⟩
    · rw [moveCap_up h, fCap_raiseCap hrail]
    · rw [moveCap_up h]
      exact raiseCap_waits hrail
  case trip =>
    have h := powerLost_powerLoss (tripped s (tripReport s n))
    exact ⟨h.trip.trans (tripped_trip ..), h.step, h.islands, h.mem, h.txns⟩
  case rail =>
    have h := powerLost_powerLoss (railLost s (railReport rail))
    exact ⟨h.railFault.trans (railLost_railFault ..), h.step, h.islands, h.mem, h.txns⟩
  case soon =>
    obtain ⟨t, hexec, hfault, hmeas, hmem, havs⟩ := exec_avsFault_soon s hmv hsoon
    exact ⟨t, hexec, hfault, hmeas, hmem, fun hoff => by rw [havs, if_pos hoff], fun hoff => by rw [havs, if_neg hoff]⟩
  case standby => rw [exec_railLoss, execRailLoss, if_pos h3]

end Sys2Proof.Proofs

namespace Sys2Proof.Proofs

open Sys2Proof Sys2Proof.Machine Sys2Proof.Laws

/-! # Cold and warm resets (O53: R356 to R358, R445)

## What a reset leaves alone after the islands are reset -/

/-- The registers of SYS and BOOT, and the error log, without the events. -/
def KeptReg (off : Nat) : Prop := (off < 0x20000 ∨ 0x41000 ≤ off ∧ off < 0x43000) ∧ off ≠ Off.SYS_EVT

/-- Memory, storage keys, cores, DEVTIME, transactions, connections, keys and bring-up stay, and so do the registers of SYS
and BOOT and the error log. -/
structure ResetKept (s t : State) : Prop where
  mem : t.mem = s.mem
  skeys : t.skeys = s.skeys
  cores : t.cores = s.cores
  devtime : t.devtime = s.devtime
  txns : t.txns = s.txns
  boot : t.boot = s.boot
  net : t.net = s.net
  keys : t.cry.keys = s.cry.keys
  pending : t.pending = s.pending
  reg : ∀ off, KeptReg off → t.reg off = s.reg off

section
variable {s t u : State}

theorem ResetKept.refl (s : State) : ResetKept s s := ⟨rfl, rfl, rfl, rfl, rfl, rfl, rfl, rfl, rfl, fun _ _ => rfl⟩

theorem ResetKept.trans (h : ResetKept s t) (g : ResetKept t u) : ResetKept s u where
  mem := g.mem.trans h.mem
  skeys := g.skeys.trans h.skeys
  cores := g.cores.trans h.cores
  devtime := g.devtime.trans h.devtime
  txns := g.txns.trans h.txns
  boot := g.boot.trans h.boot
  net := g.net.trans h.net
  keys := g.keys.trans h.keys
  pending := g.pending.trans h.pending
  reg off hoff := (g.reg off hoff).trans (h.reg off hoff)

theorem ResetKept.of_onlyIslands (h : OnlyIslands s t) : ResetKept s t := by
  refine ⟨h.mem, h.skeys, h.cores, h.devtime, h.txns, h.boot, h.net, h.keys, h.pending, fun off hoff => ?_⟩
  obtain ⟨hoff, hevt⟩ := hoff
  refine h.reg off ?_ hevt
  unfold IslReg Off.PWR_ISL_STATUS
  omega

theorem ResetKept.of_quiet (hq : Quiet s t) (hreg : ∀ off, KeptReg off → t.reg off = s.reg off) : ResetKept s t :=
  ⟨hq.mem, hq.skeys, hq.cores, hq.devtime, hq.txns, hq.boot, hq.net, by rw [hq.cry], hq.pending, hreg⟩

/-- A field of a register that a reset does not keep. -/
theorem ResetKept.setF (h : ResetKept s t) {f : FieldRef} {v : Nat} (hf : 0x20000 ≤ f.off)
    (hlog : f.off < 0x41000 ∨ 0x43000 ≤ f.off) : ResetKept s (t.setF f v) :=
  h.trans (.of_quiet ((Quiet.refl t).setF f v) fun off hoff => State.reg_setF_ne t f v off
    (by obtain ⟨hoff, -⟩ := hoff; omega) hoff.2)

theorem ResetKept.foldl {α : Type} {f : State → α → State} (h : ResetKept s t) (l : List α)
    (hf : ∀ s a, ResetKept s (f s a)) : ResetKept s (l.foldl f t) :=
  foldl_inv h l fun _ a h' => h'.trans (hf _ a)

theorem ResetKept.ite {c : Prop} [Decidable c] {a b : State} (ha : ResetKept s a) (hb : ResetKept s b) :
    ResetKept s (if c then a else b) := by
  split
  · exact ha
  · exact hb

theorem resetKept_portsDown (s : State) : ResetKept s (portsDown s) :=
  (ResetKept.refl s).foldl _ fun u p => (ResetKept.refl u).setF (by show 0x20000 ≤ 0x70108 + 32 * p.val; omega)
    (.inr (by show 0x43000 ≤ 0x70108 + 32 * p.val; omega))

theorem resetKept_strapRegs (s : State) : ResetKept s (strapRegs s) :=
  (((ResetKept.refl s).setF (by decide) (by decide)).setF (by decide) (by decide)).setF (by decide) (by decide)

theorem resetKept_setEngine (s : State) (k : EngineKind) (e : Fin 48) (v : Bool) : ResetKept s (setEngine s k e v) := by
  cases k <;> exact (ResetKept.refl s).setF (by decide) (by decide)

theorem resetKept_noteRetired (s : State) : ResetKept s (noteRetired s) := by
  have hengines (gone : Nat → Bool) : ResetKept s ((List.finRange 48).foldl (fun s e =>
      let s1 := if gone (unitCode (.engine .pke e)) then setEngine s .pke e false else s
      if gone (unitCode (.engine .sym e)) then setEngine s1 .sym e false else s1) s) := by
    refine (ResetKept.refl s).foldl _ fun u e => ?_
    have hpke : ResetKept u (if gone (unitCode (.engine .pke e)) then setEngine u .pke e false else u) :=
      .ite (resetKept_setEngine ..) (.refl u)
    exact .ite (hpke.trans (resetKept_setEngine ..)) hpke
  have hlanes (gone : Nat → Bool) (u : State) : ResetKept u ((List.finRange 32).foldl (fun s l =>
      if gone (unitCode (.xltLane l)) then s.setF Fld.XLT_CTRL_LANES (putBits (s.getF Fld.XLT_CTRL_LANES) l.val 1 0)
      else s) u) :=
    (ResetKept.refl u).foldl _ fun v l => .ite ((ResetKept.refl v).setF (by decide) (by decide)) (.refl v)
  have hcores (u : State) : ResetKept u ((List.finRange 96).foldl (fun s c =>
      let f := Fld.ERR_CORE_MAP_INSVC (c.val / 64)
      s.setF f (putBits (s.getF f) (c.val % 64) 1 (b2n (decide ((s.core c).svc ≠ .retired))))) u) :=
    (ResetKept.refl u).foldl _ fun v c => (ResetKept.refl v).setF
      (by show 0x20000 ≤ 0x40028 + 8 * (c.val / 64); omega) (.inl (by show 0x40028 + 8 * (c.val / 64) < 0x41000; omega))
  have hall := ((hengines fun c => s.err.retired.contains c).trans (hlanes (fun c => s.err.retired.contains c) _)).trans
    (hcores _)
  unfold noteRetired
  dsimp only
  split
  · exact (hall.setF (by decide) (by decide)).setF (by decide) (by decide)
  · exact hall

/-! ## The start of bring-up (R358) -/

/-- BOOT_SRC comes from a strap and a fuse. -/
theorem bootSrc_congr (h : ∀ off, off < 0x20000 → off ≠ Off.SYS_EVT → off ≠ Off.BOOT_STATUS → off ≠ Off.BOOT_T_PG →
    t.reg off = s.reg off) : bootSrc t = bootSrc s := by
  unfold bootSrc State.policy State.fuseByte
  rw [h _ (by decide) (by decide) (by decide) (by decide),
    State.getF_congr _ (h Fld.SYS_STRAP_BOOT_SRC.off (by decide) (by decide) (by decide) (by decide))]

/-- HIF is started, and BOOT_T_PG is noted. -/
def hifStarted (s : State) : State := startFixed (s.setReg Off.BOOT_T_PG s.now) 40

/-- PHASE is set and the third step reached. -/
def imagePhase (s : State) (v : Nat) : State :=
  { s.setF Fld.BOOT_STATUS_PHASE v with boot := { (s.setF Fld.BOOT_STATUS_PHASE v).boot with step := 3 } }

theorem bringupStart_eq (s : State) :
    bringupStart s = imagePhase (hifStarted s) (if bootSrc (hifStarted s) = 1 then 2 else 1) := rfl

theorem boot_withBoot (s : State) (b : Boot) : ({ s with boot := b } : State).mem = s.mem ∧
    ({ s with boot := b } : State).devtime = s.devtime ∧ ({ s with boot := b } : State).boot = b ∧
    (∀ f, ({ s with boot := b } : State).getF f = s.getF f) ∧ ∀ off, ({ s with boot := b } : State).reg off = s.reg off :=
  ⟨rfl, rfl, rfl, fun _ => rfl, fun _ => rfl⟩

theorem imagePhase_spec (s : State) (v : Nat) : (imagePhase s v).mem = s.mem ∧ (imagePhase s v).devtime = s.devtime ∧
    (imagePhase s v).boot = { s.boot with step := 3 } ∧ (imagePhase s v).getF Fld.BOOT_STATUS_PHASE = v % 16 ∧
    (∀ j, islandState (imagePhase s v) j = islandState s j) ∧
    (∀ off, off ≠ Off.SYS_EVT → off ≠ Off.BOOT_STATUS → (imagePhase s v).reg off = s.reg off) := by
  obtain ⟨hmem, htime, hboot, hget, hreg⟩ := boot_withBoot (s.setF Fld.BOOT_STATUS_PHASE v)
    { (s.setF Fld.BOOT_STATUS_PHASE v).boot with step := 3 }
  unfold imagePhase
  refine ⟨hmem.trans (State.mem_setF ..), htime.trans (State.devtime_setF ..), ?_, (hget _).trans (getF_phase_setF s v),
    fun j => (hget _).trans (islandState_setF_off v j (by show 0x10000 ≠ 0x20400 + 8 * j; omega)),
    fun off he hst => (hreg off).trans (State.reg_setF_ne _ _ _ _ hst he)⟩
  rw [hboot, State.boot_setF]

theorem clkOf_startFixed (s : State) (i : Fin 44) : clkOf (startFixed s i) i = fixedMhz i % 2 ^ 16 := by
  have hevt : Off.PWR_ISL_STATUS i.val ≠ Off.SYS_EVT := by show 0x20400 + 8 * i.val ≠ 0x40; omega
  unfold clkOf startFixed setIslandState setClk
  rw [getF_setF_apart _ _ hevt (by show 48 + 16 ≤ 64; decide) (.inr (.inr (by show 0 + 3 ≤ 48; decide))),
    getF_setF_apart _ _ hevt (by show 48 + 16 ≤ 64; decide) (.inr (.inr (by show 32 + 16 ≤ 48; decide))),
    State.getF_setF_self _ _ _ hevt (by show 48 + 16 ≤ 64; decide)]
  rfl

theorem reg_startFixed_ne (s : State) (i : Fin 44) {off : Nat} (h : off ≠ Off.PWR_ISL_STATUS i.val) (he : off ≠ Off.SYS_EVT) :
    (startFixed s i).reg off = s.reg off := by
  unfold startFixed setIslandState setClk
  rw [State.reg_setF_ne _ _ _ _ h he, State.reg_setF_ne _ _ _ _ h he, State.reg_setF_ne _ _ _ _ h he]
  rfl

theorem reg_hifStarted (s : State) {off : Nat} (h : off ≠ Off.PWR_ISL_STATUS 40) (he : off ≠ Off.SYS_EVT)
    (hpg : off ≠ Off.BOOT_T_PG) : (hifStarted s).reg off = s.reg off := by
  unfold hifStarted
  rw [reg_startFixed_ne _ _ h he, reg_setReg, if_neg hpg]

theorem onlyIslands_startFixed (s : State) (i : Fin 44) : OnlyIslands s (startFixed s i) := (OnlyIslands.refl s).startFixed i

theorem hifStarted_keeps (s : State) : (hifStarted s).mem = s.mem ∧ (hifStarted s).devtime = s.devtime ∧
    (hifStarted s).boot = s.boot := by
  have h := onlyIslands_startFixed (s.setReg Off.BOOT_T_PG s.now) 40
  exact ⟨h.mem.trans (State.mem_setReg ..), h.devtime.trans (State.devtime_setReg ..), h.boot.trans (State.boot_setReg ..)⟩

/-- What the start of bring-up sets, and the registers that it leaves alone. -/
theorem bringupStart_spec (s : State) : (bringupStart s).mem = s.mem ∧ (bringupStart s).devtime = s.devtime ∧
    (bringupStart s).boot = { s.boot with step := 3 } ∧
    (bringupStart s).getF Fld.BOOT_STATUS_PHASE = (if bootSrc s = 1 then 2 else 1) ∧ islandState (bringupStart s) 40 = 2 ∧
    (∀ off, off ≠ Off.PWR_ISL_STATUS 40 → off ≠ Off.SYS_EVT → off ≠ Off.BOOT_T_PG → off ≠ Off.BOOT_STATUS →
      (bringupStart s).reg off = s.reg off) := by
  obtain ⟨hmem, htime, hboot⟩ := hifStarted_keeps s
  have hsrc : bootSrc (hifStarted s) = bootSrc s := bootSrc_congr fun off hlow hevt _ hpg =>
    reg_hifStarted s (by unfold Off.PWR_ISL_STATUS; omega) hevt hpg
  have hup : islandState (hifStarted s) 40 = 2 := by
    unfold hifStarted
    rw [islandState_startFixed, if_pos (by decide)]
  obtain ⟨hmem', htime', hboot', hphase, hislands, hreg⟩ :=
    imagePhase_spec (hifStarted s) (if bootSrc (hifStarted s) = 1 then 2 else 1)
  rw [bringupStart_eq]
  refine ⟨hmem'.trans hmem, htime'.trans htime, hboot'.trans (by rw [hboot]), hphase.trans ?_, (hislands 40).trans hup,
    fun off h he hpg hst => (hreg off he hst).trans (reg_hifStarted s h he hpg)⟩
  rw [hsrc]
  split <;> rfl

/-! ## A cold reset (R356) -/

/-- A register of those that are filtered. -/
theorem get_filter_regs (p : Nat → Bool) (l : List (Nat × BitVec 64)) (off : Nat) :
    (Sparse.get RegMap.reset (l.filter fun q => p q.1) off).toNat =
      if p off then (Sparse.get RegMap.reset l off).toNat else State.reset.reg off := by
  unfold Sparse.get
  rw [lookup_filter_fst]
  split <;> rfl

theorem reg_coldResetTo (s : State) (off : Nat) : (coldResetTo s).reg off =
    if (decide (Off.BOOT_FUSE_RD 0 ≤ off) && decide (off ≤ Off.BOOT_FUSE_RD 1023)) = true then s.reg off
    else State.reset.reg off :=
  get_filter_regs (fun x => decide (Off.BOOT_FUSE_RD 0 ≤ x) && decide (x ≤ Off.BOOT_FUSE_RD 1023)) s.regs off

theorem mem_coldResetTo (s : State) (a : Nat) : memGet (coldResetTo s).mem a = if hostBase ≤ a then memGet s.mem a else 0 := by
  have h := memGet_filter inHost s.mem a
  by_cases ha : hostBase ≤ a
  · rw [if_pos (show inHost a = true from decide_eq_true ha)] at h
    rw [if_pos ha]
    exact h
  · rw [if_neg (by simpa [inHost] using ha)] at h
    rw [if_neg ha]
    exact h

/-! ## A warm reset (R356, R357) -/

theorem pending_writeChecked (s : State) (i : Initiator) (pa : Nat) (bs : List Byte) :
    (writeChecked s i pa bs).2.pending = s.pending := by
  unfold writeChecked
  split
  · split
    · rfl
    · exact (quiet_appendAdvance ..).pending.trans (State.pending_wr ..)
  · exact (quiet_refuseAccess ..).pending

theorem pending_closeGroup (s : State) : (closeGroup s).pending = s.pending := by
  unfold closeGroup
  split <;> rfl

theorem pending_groupAppend (s : State) (r : JRec) (bs : List Byte) : (groupAppend s r bs).pending = s.pending := by
  unfold groupAppend
  extract_lets g u
  by_cases hfull : 65536 ≤ g.bytes.length
  · rw [if_pos hfull]
    exact pending_closeGroup _
  · rw [if_neg hfull]

theorem pending_completeRec (s : State) (r : JRec) : (completeRec s r).pending = s.pending := by
  unfold completeRec areaAppend
  dsimp only
  rw [(quiet_noteFull _).pending, pending_groupAppend, islandWrite, pending_writeChecked, (quiet_mpuSettled _).pending]

theorem pending_completeAll (n : Nat) (s : State) : (completeAll n s).pending = s.pending := by
  induction n generalizing s with
  | zero => rfl
  | succ n ih =>
    unfold completeAll
    split
    · rw [ih, pending_completeRec]
    · rfl

theorem quiet_emptyLog (s : State) : Quiet s (emptyLog s) := Quiet.ite ((Quiet.refl s).setF _ _) (.refl s)

theorem reg_emptyLog (s : State) {off : Nat} (h : off ≠ Off.BOOT_STATUS) (he : off ≠ Off.SYS_EVT) :
    (emptyLog s).reg off = s.reg off := by
  unfold emptyLog
  split
  · exact State.reg_setF_ne _ _ _ _ h he
  · rfl

/-- The last JSN is noted for the resume. -/
def jsnNoted (s : State) : State :=
  if s.reg Off.JNL_LAST_JSN = 0 then s else s.setReg Off.BOOT_WARM_JSN (s.reg Off.JNL_LAST_JSN)

theorem quiesce_eq (s : State) : quiesce s = jsnNoted (emptyLog (completeAll s.jnl.recs.length s)) := rfl

theorem quiet_jsnNoted (s : State) : Quiet s (jsnNoted s) := Quiet.ite (.refl s) ((Quiet.refl s).setReg _ _)

/-- The fuses. -/
theorem fuse_bounds {n : Nat} (hn : n < 1024) : 0x10100 ≤ Off.BOOT_FUSE_RD n ∧ Off.BOOT_FUSE_RD n ≤ 0x120F8 := by
  unfold Off.BOOT_FUSE_RD
  omega

theorem reg_jsnNoted (s : State) {off : Nat} (h : off ≠ Off.BOOT_WARM_JSN) : (jsnNoted s).reg off = s.reg off := by
  unfold jsnNoted
  split
  · rfl
  · rw [reg_setReg, if_neg h]

theorem quiesce_keeps (s : State) : (quiesce s).devtime = s.devtime ∧ (quiesce s).cores = s.cores ∧
    (quiesce s).pending = s.pending ∧ ∀ n, n < 1024 → (quiesce s).reg (Off.BOOT_FUSE_RD n) = s.reg (Off.BOOT_FUSE_RD n) := by
  have hsteady : Steady s (completeAll s.jnl.recs.length s) := (Steady.refl s).completeAll
  have hpending := pending_completeAll s.jnl.recs.length s
  rw [quiesce_eq]
  generalize completeAll s.jnl.recs.length s = u at hsteady hpending ⊢
  have hq := (quiet_emptyLog u).trans (quiet_jsnNoted _)
  refine ⟨hq.devtime.trans hsteady.devtime, hq.cores.trans hsteady.cores, hq.pending.trans hpending, fun n hn => ?_⟩
  obtain ⟨hlow, hhigh⟩ := fuse_bounds hn
  rw [reg_jsnNoted _ (by show _ ≠ 0x10040; omega), reg_emptyLog _ (by show _ ≠ 0x10000; omega) (by show _ ≠ 0x40; omega),
    hsteady.reg _ (by omega) (by show _ ≠ 0x40; omega)]

theorem completeAll_of_complete (h : (s.jnl.recs.all fun r => r.complete) = true) (n : Nat) : completeAll n s = s := by
  have hnone : nextRec s = none := by
    unfold nextRec
    rw [List.find?_eq_none]
    intro r hr
    simpa using List.all_eq_true.1 h r hr
  cases n with
  | zero => rfl
  | succ n =>
    unfold completeAll
    rw [hnone]

/-- With every record complete, the quiesce notes the last JSN and nothing else. -/
theorem quiesce_of_complete (h : (s.jnl.recs.all fun r => r.complete) = true) (hphase : s.getF Fld.BOOT_STATUS_PHASE ≠ 6)
    (hlast : s.reg Off.JNL_LAST_JSN ≠ 0) : quiesce s = s.setReg Off.BOOT_WARM_JSN (s.reg Off.JNL_LAST_JSN) := by
  have hempty : emptyLog s = s := if_neg fun hc => hphase hc.1
  rw [quiesce_eq, completeAll_of_complete h, hempty, jsnNoted, if_neg hlast]

/-- The quiesced device with its ports down. -/
def warmDown (s : State) : State := portsDown ((quiesce s).setF Fld.BOOT_STATUS_PHASE 0)

/-- The islands reset. -/
def warmFresh (s : State) : State :=
  islandReset (warmDown s) true (siLog (warmDown s) != 0) ((warmDown s).regs.filter fun p => warmKeeps p.1)

/-- The cause noted. -/
def warmNoted (s : State) (cause : Nat) : State :=
  (noteWarm (carryFields (warmDown s) (warmFresh s)) cause).setReg Off.ERR_SIMPLEX 0

/-- The islands off, the straps and what is retired in their registers. -/
def warmOff (s : State) : State := noteRetired (strapRegs (islandsOff s))

/-- The pin holds the device, or does not. -/
def pinHeld (s : State) (pin : Bool) : State := { s with boot := { s.boot with warmLow := pin } }

theorem warmBody_eq (s : State) (cause : Nat) (pin : Bool) :
    warmBody s cause pin = pinHeld (warmOff (warmNoted s cause)) pin := rfl

/-- A state of the parts that a reset sets, held by the pin. -/
structure HeldFrom (u t : State) (pin : Bool) : Prop where
  low : t.boot.warmLow = pin
  step : t.boot.step = u.boot.step
  txns : t.txns = u.txns
  net : t.net = u.net
  keys : t.cry.keys = u.cry.keys
  devtime : t.devtime = u.devtime
  skeys : t.skeys = u.skeys
  mem : t.mem = u.mem
  cores : t.cores = u.cores
  pending : t.pending = u.pending
  reg : ∀ off, KeptReg off → t.reg off = u.reg off

theorem heldFrom_pinHeld (u : State) (pin : Bool) : HeldFrom u (pinHeld u pin) pin :=
  ⟨rfl, rfl, rfl, rfl, rfl, rfl, rfl, rfl, rfl, rfl, fun _ _ => rfl⟩

theorem HeldFrom.of_kept {v u t : State} {pin : Bool} (g : HeldFrom u t pin) (h : ResetKept v u) : HeldFrom v t pin where
  low := g.low
  step := by rw [g.step, h.boot]
  txns := g.txns.trans h.txns
  net := g.net.trans h.net
  keys := g.keys.trans h.keys
  devtime := g.devtime.trans h.devtime
  skeys := g.skeys.trans h.skeys
  mem := g.mem.trans h.mem
  cores := g.cores.trans h.cores
  pending := g.pending.trans h.pending
  reg off hoff := (g.reg off hoff).trans (h.reg off hoff)

theorem resetKept_warmOff (s : State) : ResetKept s (warmOff s) :=
  ((ResetKept.of_onlyIslands (onlyIslands_islandsOff s)).trans (resetKept_strapRegs _)).trans (resetKept_noteRetired _)

theorem quiet_warmDown (s : State) : Quiet (quiesce s) (warmDown s) :=
  ((Quiet.refl _).setF Fld.BOOT_STATUS_PHASE 0).trans (quiet_portsDown _)

theorem quiet_carryFields (old s : State) : Quiet s (carryFields old s) := foldl_inv (.refl s) _ fun _ _ h => h.setReg _ _

theorem quiet_noteWarm (s : State) (cause : Nat) : Quiet s (noteWarm s cause) :=
  (((((Quiet.refl s).setF _ _).setF _ _).setF _ _).setF _ _).setF _ _

theorem quiet_warmNoted (s : State) (cause : Nat) : Quiet (warmFresh s) (warmNoted s cause) :=
  ((quiet_carryFields _ _).trans (quiet_noteWarm _ _)).setReg _ _

/-- The registers that a warm reset takes over unchanged: BOOT_WARM_JSN, the fuses and the error log. -/
def CarriedReg (off : Nat) : Prop := 0x10040 ≤ off ∧ (off < 0x20000 ∨ 0x41000 ≤ off ∧ off < 0x43000) ∧ warmKeeps off = true

theorem reg_warmDown {off : Nat} (h : CarriedReg off) : (warmDown s).reg off = (quiesce s).reg off := by
  obtain ⟨hlow, hrange, -⟩ := h
  unfold warmDown
  rw [(resetKept_portsDown _).reg off ⟨hrange, by show off ≠ 0x40; omega⟩,
    State.reg_setF_ne _ _ _ _ (by show off ≠ 0x10000; omega) (by show off ≠ 0x40; omega)]

theorem reg_islandReset (s : State) (hbm log : Bool) (regs : List (Nat × BitVec 64)) (off : Nat) :
    (islandReset s hbm log regs).reg off = (Sparse.get RegMap.reset regs off).toNat := rfl

theorem reg_warmFresh (s : State) (off : Nat) :
    (warmFresh s).reg off = if warmKeeps off = true then (warmDown s).reg off else State.reset.reg off := by
  unfold warmFresh
  rw [reg_islandReset, get_filter_regs]
  rfl

theorem reg_setReg_ne (s : State) {a off v : Nat} (h : off ≠ a) : (s.setReg a v).reg off = s.reg off := by
  rw [reg_setReg, if_neg h]

theorem reg_carryFields (old s : State) {off : Nat} (hstatus : off ≠ Off.BOOT_STATUS) (hmpu : off ≠ Fld.MPU_STATUS_GEN.off)
    (hcry : off ≠ Off.CRY_STATUS) : (carryFields old s).reg off = s.reg off := by
  unfold carryFields
  simp only [List.foldl_cons, List.foldl_nil]
  rw [reg_setReg_ne _ (show off ≠ Fld.BOOT_STATUS_FUSE_BUSY.off from hstatus),
    reg_setReg_ne _ (show off ≠ Fld.BOOT_STATUS_SILOG.off from hstatus),
    reg_setReg_ne _ (show off ≠ Fld.CRY_STATUS_TAMPER.off from hcry),
    reg_setReg_ne _ (show off ≠ Fld.CRY_STATUS_ZEROISED.off from hcry), reg_setReg_ne _ hmpu]

theorem reg_noteWarm (s : State) (cause : Nat) {off : Nat} (hcause : off ≠ Off.SYS_RESET_CAUSE)
    (hboot : off ≠ Off.BOOT_STATUS) (hsys : off ≠ Off.SYS_STATUS) (herr : off ≠ Off.ERR_STATUS) (hevt : off ≠ Off.SYS_EVT) :
    (noteWarm s cause).reg off = s.reg off := by
  unfold noteWarm
  rw [State.reg_setF_ne _ _ _ _ herr hevt, State.reg_setF_ne _ _ _ _ hsys hevt, State.reg_setF_ne _ _ _ _ hboot hevt,
    State.reg_setF_ne _ _ _ _ hcause hevt, State.reg_setF_ne _ _ _ _ hcause hevt]

theorem reg_warmNoted (s : State) (cause : Nat) {off : Nat} (h : CarriedReg off) :
    (warmNoted s cause).reg off = (quiesce s).reg off := by
  have hkeep := h.2.2
  have hdown := reg_warmDown (s := s) h
  obtain ⟨hlow, hrange, -⟩ := h
  unfold warmNoted
  rw [reg_setReg, if_neg (by show off ≠ 0x40020; omega), reg_noteWarm _ _ (by show off ≠ 0x28; omega)
    (by show off ≠ 0x10000; omega) (by show off ≠ 0x20; omega) (by show off ≠ 0x40010; omega) (by show off ≠ 0x40; omega),
    reg_carryFields _ _ (by show off ≠ 0x10000; omega) (by show off ≠ 0x50008; omega) (by show off ≠ 0x90018; omega),
    reg_warmFresh, if_pos hkeep, hdown]

theorem carriedReg_fuse {n : Nat} (hn : n < 1024) : CarriedReg (Off.BOOT_FUSE_RD n) := by
  obtain ⟨hlow, hhigh⟩ := fuse_bounds hn
  refine ⟨by omega, by omega, ?_⟩
  have h0 : Off.BOOT_FUSE_RD 0 ≤ Off.BOOT_FUSE_RD n := by unfold Off.BOOT_FUSE_RD; omega
  have h1 : Off.BOOT_FUSE_RD n ≤ Off.BOOT_FUSE_RD 1023 := by unfold Off.BOOT_FUSE_RD; omega
  simp [warmKeeps, h0, h1]

theorem carriedReg_log {n : Nat} (hn : n < 1024) : CarriedReg (Off.ERR_LOG n) := by
  have hlow : 0x41000 ≤ Off.ERR_LOG n := by unfold Off.ERR_LOG; omega
  have hhigh : Off.ERR_LOG n < 0x43000 := by unfold Off.ERR_LOG; omega
  refine ⟨by omega, .inr ⟨hlow, hhigh⟩, ?_⟩
  have h0 : 0x20000 ≤ Off.ERR_LOG n := by omega
  have h1 : Off.ERR_LOG n < 0x50000 := by omega
  simp [warmKeeps, h0, h1]

/-- A field of SYS or BOOT after the cause is noted. -/
theorem getF_warmNoted (s : State) (cause : Nat) {f : FieldRef} (h : f.off < 0x20000) : (warmNoted s cause).getF f =
    (noteWarm (carryFields (warmDown s) (warmFresh s)) cause).getF f :=
  getF_setReg_ne _ (by show f.off ≠ 0x40020; omega)

/-- What `noteWarm` sets. -/
theorem noteWarm_sets (s : State) (cause : Nat) : (noteWarm s cause).getF Fld.SYS_RESET_CAUSE_CAUSE = cause % 8 ∧
    (noteWarm s cause).getF Fld.BOOT_STATUS_WARM = 1 ∧ (noteWarm s cause).getF Fld.SYS_STATUS_LOCKED = 0 ∧
    (noteWarm s cause).getF Fld.BOOT_STATUS_PHASE = s.getF Fld.BOOT_STATUS_PHASE := by
  unfold noteWarm
  refine ⟨?_, ?_, ?_, ?_⟩
  · rw [State.getF_setF_ne _ _ _ _ (by decide) (by decide), State.getF_setF_ne _ _ _ _ (by decide) (by decide),
      State.getF_setF_ne _ _ _ _ (by decide) (by decide), getF_setF_apart _ _ (by decide) (by decide) (by decide),
      State.getF_setF_self _ _ _ (by decide) (by decide)]
    rfl
  · rw [State.getF_setF_ne _ _ _ _ (by decide) (by decide), State.getF_setF_ne _ _ _ _ (by decide) (by decide),
      State.getF_setF_self _ _ _ (by decide) (by decide)]
    rfl
  · rw [State.getF_setF_ne _ _ _ _ (by decide) (by decide), State.getF_setF_self _ _ _ (by decide) (by decide)]
    rfl
  · rw [State.getF_setF_ne _ _ _ _ (by decide) (by decide), State.getF_setF_ne _ _ _ _ (by decide) (by decide),
      getF_setF_apart _ _ (by decide) (by decide) (by decide), State.getF_setF_ne _ _ _ _ (by decide) (by decide),
      State.getF_setF_ne _ _ _ _ (by decide) (by decide)]

/-- A field beside one that is put into its register. -/
theorem getF_putField (s : State) {f g : FieldRef} (v : Nat) (hw : g.lo + g.width ≤ 64)
    (h : g.off ≠ f.off ∨ g.lo + g.width ≤ f.lo ∨ f.lo + f.width ≤ g.lo) :
    (s.setReg f.off (putBits (s.reg f.off) f.lo f.width v)).getF g = s.getF g := by
  unfold State.getF
  rw [reg_setReg]
  split
  · next heq =>
    rw [bitsOf_mod _ _ _ hw, bitsOf_putBits_ne _ _ _ _ _ _ (h.resolve_left (not_not.2 heq)), heq]
  · rfl

/-- Nothing that is carried over is in PHASE. -/
theorem phase_carryFields (old s : State) : (carryFields old s).getF Fld.BOOT_STATUS_PHASE = s.getF Fld.BOOT_STATUS_PHASE := by
  unfold carryFields
  simp only [List.foldl_cons, List.foldl_nil]
  rw [getF_putField _ _ (by decide) (by decide), getF_putField _ _ (by decide) (by decide),
    getF_putField _ _ (by decide) (by decide), getF_putField _ _ (by decide) (by decide),
    getF_putField _ _ (by decide) (by decide)]

theorem phase_warmFresh (s : State) : (warmFresh s).getF Fld.BOOT_STATUS_PHASE = 0 := by
  have hreg : (warmFresh s).reg Fld.BOOT_STATUS_PHASE.off = State.reset.reg Fld.BOOT_STATUS_PHASE.off := by
    rw [reg_warmFresh, if_neg (by decide)]
  rw [State.getF_congr Fld.BOOT_STATUS_PHASE hreg]
  decide

theorem islandReset_empties (s : State) (hbm log : Bool) (regs : List (Nat × BitVec 64)) :
    (islandReset s hbm log regs).txns = [] ∧ (islandReset s hbm log regs).net.conns = [] ∧
    (islandReset s hbm log regs).cry.keys = [] ∧ (islandReset s hbm log regs).devtime = s.devtime ∧
    (islandReset s hbm log regs).skeys = (if hbm then s.skeys else []) ∧ (islandReset s hbm log regs).boot.step = 2 ∧
    (islandReset s hbm log regs).pending = s.pending ∧ (islandReset s hbm log regs).cores = coresAfter s :=
  ⟨rfl, rfl, rfl, rfl, rfl, rfl, rfl, rfl⟩

theorem core_coresAfter (s : State) (c : CoreId) :
    (coresAfter s)[c] = { Core.reset with svc := (if (s.core c).svc = .retired then .retired else .inService) } := by
  simp [coresAfter]

/-- HBM is kept. -/
theorem mem_warmFresh (s : State) {a : Nat} (ha : a ≤ 0x0017_FFFF_FFFF) : memGet (warmFresh s).mem a = memGet (quiesce s).mem a := by
  obtain ⟨hmem, -⟩ := islandReset_spec (warmDown s) true (siLog (warmDown s) != 0)
    ((warmDown s).regs.filter fun p => warmKeeps p.1)
  have hin : inHbm a = true := decide_eq_true ha
  unfold warmFresh
  rw [hmem, memGet_filter (fun x => (true && inHbm x) || inHost x || (siLog (warmDown s) != 0 && inLog x)), hin,
    (quiet_warmDown s).mem, Bool.true_and, Bool.true_or, Bool.true_or, if_pos rfl]

/-- The parts of the state that the noted cause leaves, in the state that the pin holds. -/
theorem heldFrom_warmBody (s : State) (cause : Nat) (pin : Bool) : HeldFrom (warmNoted s cause) (warmBody s cause pin) pin :=
  (warmBody_eq s cause pin ▸ heldFrom_pinHeld _ pin).of_kept (resetKept_warmOff _)

/-- A warm reset discards what runs, and keeps HBM, the error log and the fuses. -/
theorem warmBody_spec (s : State) (pin : Bool) : (warmBody s 1 pin).txns = [] ∧ (warmBody s 1 pin).net.conns = [] ∧
    (warmBody s 1 pin).cry.keys = [] ∧ (warmBody s 1 pin).devtime = s.devtime ∧
    (warmBody s 1 pin).skeys = (quiesce s).skeys ∧ (warmBody s 1 pin).boot.warmLow = pin ∧
    (warmBody s 1 pin).boot.step = 2 ∧ (warmBody s 1 pin).getF Fld.SYS_RESET_CAUSE_CAUSE = 1 ∧
    (warmBody s 1 pin).getF Fld.BOOT_STATUS_WARM = 1 ∧ (warmBody s 1 pin).getF Fld.BOOT_STATUS_PHASE = 0 ∧
    (warmBody s 1 pin).getF Fld.SYS_STATUS_LOCKED = 0 ∧ (warmBody s 1 pin).pending = s.pending ∧
    (∀ a, a ≤ 0x0017_FFFF_FFFF → memGet (warmBody s 1 pin).mem a = memGet (quiesce s).mem a) ∧
    (∀ off, CarriedReg off → (warmBody s 1 pin).reg off = (quiesce s).reg off) ∧
    ∀ c, ((warmBody s 1 pin).core c).svc = .retired ↔ (s.core c).svc = .retired := by
  have hheld := heldFrom_warmBody s 1 pin
  obtain ⟨htxns', hconns', hkeys', htime', hskeys', hstep', hpending', hcores'⟩ := islandReset_empties (warmDown s) true
    (siLog (warmDown s) != 0) ((warmDown s).regs.filter fun p => warmKeeps p.1)
  rw [← warmFresh] at htxns' hconns' hkeys' htime' hskeys' hstep' hpending' hcores'
  obtain ⟨hqtime, hqcores, hqpending, -⟩ := quiesce_keeps s
  obtain ⟨hcause, hwarm, hlocked, hphase⟩ := noteWarm_sets (carryFields (warmDown s) (warmFresh s)) 1
  have hnoted := quiet_warmNoted s 1
  have hdown := quiet_warmDown s
  have hget {f : FieldRef} (h : f.off < 0x20000) (he : f.off ≠ Off.SYS_EVT) : (warmBody s 1 pin).getF f =
      (noteWarm (carryFields (warmDown s) (warmFresh s)) 1).getF f :=
    (State.getF_congr f (hheld.reg _ ⟨.inl h, he⟩)).trans (getF_warmNoted s 1 h)
  refine ⟨?_, ?_, ?_, ?_, ?_, hheld.low, ?_, ?_, ?_, ?_, ?_, ?_, fun a ha => ?_, fun off hoff => ?_, fun c => ?_⟩
  · rw [hheld.txns, hnoted.txns, htxns']
  · rw [hheld.net, hnoted.net, hconns']
  · rw [hheld.keys, hnoted.cry, hkeys']
  · rw [hheld.devtime, hnoted.devtime, htime', hdown.devtime, hqtime]
  · rw [hheld.skeys, hnoted.skeys, hskeys', hdown.skeys]
    rfl
  · rw [hheld.step, hnoted.boot, hstep']
  · rw [hget (by decide) (by decide), hcause]
  · rw [hget (by decide) (by decide), hwarm]
  · rw [hget (by decide) (by decide), hphase, phase_carryFields, phase_warmFresh]
  · rw [hget (by decide) (by decide), hlocked]
  · rw [hheld.pending, hnoted.pending, hpending', hdown.pending, hqpending]
  · rw [hheld.mem, hnoted.mem, mem_warmFresh s ha]
  · rw [hheld.reg off ⟨hoff.2.1, by obtain ⟨hlow, -⟩ := hoff; show off ≠ 0x40; omega⟩, reg_warmNoted s 1 hoff]
  · have hcore : ((warmBody s 1 pin).core c).svc = if ((warmDown s).core c).svc = .retired then .retired else .inService := by
      unfold State.core
      rw [hheld.cores, hnoted.cores, hcores', core_coresAfter]
      rfl
    have hsame : (warmDown s).core c = s.core c := by
      unfold State.core
      rw [hdown.cores, hqcores]
    rw [hcore, hsame]
    split <;> simp_all

theorem exec_warmReset_held (htrip : s.pwr.trip = false) (hrail : s.pwr.railFault = false) (hstep : s.boot.step ≠ 0) :
    exec (.warmReset) s = .next (warmBody s 1 true) := by
  have hpin : (warmBody s 1 (s.boot.warmLow || true)).boot.warmLow = true := by
    rw [(heldFrom_warmBody s 1 _).low, Bool.or_true]
  rw [exec_warmReset, execWarmReset, warmResetTo, if_neg (by simp [htrip, hrail]), if_neg hstep]
  dsimp only
  rw [if_pos hpin, Bool.or_true]

/-- WARM_RESET_N rises. -/
def pinRaised (s : State) : State := { s with boot := { s.boot with warmLow := false } }

theorem exec_warmResetNRise_low (hlow : s.boot.warmLow = true) (hstep : s.boot.step = 2) :
    exec (.warmResetNRise) s = .next (bringupStart (pinRaised s)) := by
  rw [exec_warmResetNRise, execWarmResetNRise, warmRise, if_neg (by simp [hlow])]
  exact congrArg Host.Outcome.next (if_pos hstep)

theorem exec_warmResetNRise_spec (hlow : s.boot.warmLow = true) (hstep : s.boot.step = 2) : ∃ t,
    exec (.warmResetNRise) s = .next t ∧ t.boot.warmLow = false ∧ t.boot.step = 3 ∧
    t.getF Fld.BOOT_STATUS_PHASE = (if bootSrc s = 1 then 2 else 1) ∧ islandState t 40 = 2 ∧ t.mem = s.mem := by
  obtain ⟨hmem, -, hboot, hphase, hup, -⟩ := bringupStart_spec (pinRaised s)
  have hsrc : bootSrc (pinRaised s) = bootSrc s := bootSrc_congr fun _ _ _ _ _ => rfl
  rw [hsrc] at hphase
  exact ⟨_, exec_warmResetNRise_low hlow hstep, by rw [hboot]; rfl, by rw [hboot], hphase, hup, hmem.trans rfl⟩

/-! ## BOOT_RESET (R356) -/

theorem at?_BOOT_RESET : RegMap.at? Off.BOOT_RESET =
    some (⟨0x10020, 8, 1, 8, [⟨48, 16, .wo, 0, .keep⟩, ⟨0, 2, .wo, 0, .keep⟩], []⟩, 0) := by decide

theorem putBits_bitsOf (x lo w : Nat) : putBits x lo w (bitsOf x lo w) = x := by
  apply Nat.eq_of_testBit_eq
  intro i
  rw [testBit_putBits]
  split
  · next h =>
    rw [testBit_bitsOf, decide_eq_true (by omega), Bool.true_and]
    congr 1
    omega
  · rfl

/-- The register of BOOT_RESET holds what it held. -/
def resetWritten (s : State) : State := s.setReg Off.BOOT_RESET (s.reg Off.BOOT_RESET)

theorem resetWritten_keeps (s : State) : (resetWritten s).mem = s.mem ∧ (resetWritten s).txns = s.txns ∧
    (resetWritten s).jnl = s.jnl ∧ ∀ off, (resetWritten s).reg off = s.reg off := by
  refine ⟨rfl, rfl, rfl, fun off => ?_⟩
  unfold resetWritten
  rw [reg_setReg]
  split
  · next h => rw [h, Nat.mod_eq_of_lt (State.reg_lt ..)]
  · rfl

theorem written_bootReset (locked : Bool) (old w m : Nat) : RegGroup.written
    ⟨0x10020, 8, 1, 8, [⟨48, 16, .wo, 0, .keep⟩, ⟨0, 2, .wo, 0, .keep⟩], []⟩ 0 locked old w m = old := by
  show putBits (putBits old 48 16 (bitsOf old 48 16)) 0 2 (bitsOf old 0 2) = old
  rw [putBits_bitsOf, putBits_bitsOf]

theorem regEffect_bootReset (v : Nat) (before u : State) : regEffect Off.BOOT_RESET v before u = bootResetEffect v u := rfl

/-- The word of a reset. -/
theorem regWrite_bootReset (s : State) (confirm : BitVec 16) {kind : Nat} (hkind : kind < 4) :
    regWrite s Off.BOOT_RESET 8 (confirm.toNat * 2 ^ 48 + kind) =
      bootResetEffect (confirm.toNat * 2 ^ 48 + kind) (resetWritten s) := by
  have hlt := confirm.isLt
  have hword : (BitVec.ofNat 64 (confirm.toNat * 2 ^ 48 + kind)).toNat = confirm.toNat * 2 ^ 48 + kind := by
    rw [BitVec.toNat_ofNat, Nat.mod_eq_of_lt (by omega)]
  have hmask : (confirm.toNat * 2 ^ 48 + kind) &&& (2 ^ 64 - 1) = confirm.toNat * 2 ^ 48 + kind := by
    rw [Nat.and_two_pow_sub_one_eq_mod, Nat.mod_eq_of_lt (by omega)]
  rw [← hword, regWrite_whole at?_BOOT_RESET rfl rfl, hword, regStore_taken at?_BOOT_RESET rfl s _ _ (.inr rfl),
    regEffect_bootReset, hmask, written_bootReset]
  rfl

theorem bootResetEffect_confirmed {v : Nat} (h : bitsOf v 48 16 = 0xB007) : bootResetEffect v s =
    if v % 4 = 1 then warmResetTo s 2 false else if v % 4 = 2 then coldResetTo s else s := by
  unfold bootResetEffect
  rw [if_neg (by simp [h])]
  have hlt : v % 4 < 4 := Nat.mod_lt _ (by decide)
  generalize v % 4 = k at hlt
  obtain rfl | rfl | rfl | rfl : k = 0 ∨ k = 1 ∨ k = 2 ∨ k = 3 := by omega
  all_goals rfl

theorem bitsOf_confirm (confirm : BitVec 16) {kind : Nat} (hkind : kind < 4) :
    bitsOf (confirm.toNat * 2 ^ 48 + kind) 48 16 = confirm.toNat := by
  have hlt := confirm.isLt
  rw [bitsOf, Nat.shiftRight_eq_div_pow]
  omega

theorem exec_bootReset_unconfirmed (s : State) {confirm : BitVec 16} (h : confirm ≠ 0xB007) :
    exec (.bootResetWarm confirm) s = .next (resetWritten s) ∧
    exec (.bootResetCold confirm) s = .next (resetWritten s) := by
  have hne : confirm.toNat ≠ 0xB007 := fun hc => h (BitVec.eq_of_toNat_eq (hc.trans (by decide)))
  have heffect {kind : Nat} (hkind : kind < 4) :
      bootResetEffect (confirm.toNat * 2 ^ 48 + kind) (resetWritten s) = resetWritten s :=
    if_pos (by rw [bitsOf_confirm confirm hkind]; exact hne)
  rw [exec_bootResetWarm, execBootResetWarm, exec_bootResetCold, execBootResetCold, regWrite_bootReset s confirm (by decide),
    regWrite_bootReset s confirm (by decide), heffect (by decide), heffect (by decide)]
  exact ⟨rfl, rfl⟩

theorem exec_bootReset_confirmed (s : State) : exec (.bootResetWarm 0xB007) s = .next (warmResetTo (resetWritten s) 2 false) ∧
    exec (.bootResetCold 0xB007) s = .next (coldResetTo (resetWritten s)) := by
  rw [exec_bootResetWarm, execBootResetWarm, exec_bootResetCold, execBootResetCold, regWrite_bootReset s _ (by decide),
    regWrite_bootReset s _ (by decide), bootResetEffect_confirmed (bitsOf_confirm _ (by decide)),
    bootResetEffect_confirmed (bitsOf_confirm _ (by decide)), if_pos (by decide), if_neg (by decide), if_pos (by decide)]
  exact ⟨rfl, rfl⟩

/-! ## Power-good (R445) -/

/-- DEVTIME counts from 0. -/
def powered (s : State) : State := { s with devtime := 0, boot := { s.boot with step := 2 } }

/-- The straps are sampled. -/
def strapped (s : State) : State :=
  (noteTimeSource (startFixed (powered s) 43)).setReg Off.SYS_STRAP (s.boot.straps % 2 ^ 10 +
    bitsOf s.boot.straps 16 1 * 2 ^ 16 + bitsOf s.boot.straps 18 2 * 2 ^ 18 + 2 ^ 63)

/-- The straps are in their registers, and BOOT_T_PG is noted. -/
def powerNoted (s : State) : State := (strapRegs (strapped s)).setReg Off.BOOT_T_PG (strapRegs (strapped s)).now

theorem powerGood_eq (hstep : s.boot.step = 0) (htrip : s.pwr.trip = false) (hrail : s.pwr.railFault = false) :
    powerGood s = if (powerNoted s).boot.warmLow = true then powerNoted s else bringupStart (powerNoted s) := by
  rw [powerGood, if_neg (by simp [hstep, htrip, hrail])]
  rfl

theorem quiet_strapRegs (s : State) : Quiet s (strapRegs s) := (((Quiet.refl s).setF _ _).setF _ _).setF _ _

theorem quiet_strapped (s : State) : Quiet (startFixed (powered s) 43) (strapped s) :=
  ((Quiet.refl _).setF _ _).setReg _ _

theorem powered_keeps (s : State) : (powered s).mem = s.mem ∧ (powered s).devtime = 0 ∧
    (powered s).boot = { s.boot with step := 2 } := ⟨rfl, rfl, rfl⟩

theorem powerNoted_keeps (s : State) : (powerNoted s).mem = s.mem ∧ (powerNoted s).devtime = 0 ∧
    (powerNoted s).boot = { s.boot with step := 2 } := by
  have hq := ((quiet_strapped s).trans (quiet_strapRegs _)).setReg Off.BOOT_T_PG (strapRegs (strapped s)).now
  have hstart := onlyIslands_startFixed (powered s) 43
  obtain ⟨hmem, htime, hboot⟩ := powered_keeps s
  exact ⟨hq.mem.trans (hstart.mem.trans hmem), hq.devtime.trans (hstart.devtime.trans htime),
    hq.boot.trans (hstart.boot.trans hboot)⟩

/-- SYS starts with its clock. -/
theorem island_powerNoted (s : State) : islandState (powerNoted s) 43 = 2 ∧ clkOf (powerNoted s) 43 = 200 := by
  have hreg : (powerNoted s).reg (Off.PWR_ISL_STATUS 43) = (startFixed (powered s) 43).reg (Off.PWR_ISL_STATUS 43) := by
    unfold powerNoted strapRegs strapped noteTimeSource
    rw [reg_setReg_ne _ (by decide), State.reg_setF_ne _ _ _ _ (by decide) (by decide),
      State.reg_setF_ne _ _ _ _ (by decide) (by decide), State.reg_setF_ne _ _ _ _ (by decide) (by decide),
      reg_setReg_ne _ (by decide), State.reg_setF_ne _ _ _ _ (by decide) (by decide)]
  constructor
  · rw [islandState, State.getF_congr (Fld.PWR_ISL_STATUS_STATE 43) hreg]
    exact (islandState_startFixed 43 43).trans (if_pos rfl)
  · refine (State.getF_congr (Fld.PWR_ISL_STATUS_CLK_MHZ 43) hreg).trans ?_
    exact clkOf_startFixed (powered s) 43

/-- DEVICE_ID is the strap's. -/
theorem deviceId_powerNoted (s : State) : (powerNoted s).getF Fld.ADM_ANSEQ_DEVICE_ID = (strapped s).getF Fld.SYS_STRAP_NODE_ID ∧
    (powerNoted s).getF Fld.SYS_STRAP_NODE_ID = (strapped s).getF Fld.SYS_STRAP_NODE_ID := by
  have hlt : (strapped s).getF Fld.SYS_STRAP_NODE_ID < 2 ^ 10 := Nat.mod_lt _ (by decide)
  unfold powerNoted strapRegs
  refine ⟨?_, ?_⟩
  · rw [getF_setReg_ne _ (by decide), State.getF_setF_ne _ _ _ _ (by decide) (by decide),
      State.getF_setF_ne _ _ _ _ (by decide) (by decide), State.getF_setF_self _ _ _ (by decide) (by decide)]
    exact Nat.mod_eq_of_lt hlt
  · rw [getF_setReg_ne _ (by decide), State.getF_setF_ne _ _ _ _ (by decide) (by decide),
      State.getF_setF_ne _ _ _ _ (by decide) (by decide), State.getF_setF_ne _ _ _ _ (by decide) (by decide)]

theorem exec_powerGood_spec (hstep : s.boot.step = 0) (htrip : s.pwr.trip = false) (hrail : s.pwr.railFault = false)
    (hlow : s.boot.warmLow = false) : ∃ t, exec (.powerGood) s = .next t ∧ t.devtime = 0 ∧ t.boot.step = 3 ∧
    islandState t 43 = 2 ∧ clkOf t 43 = 200 ∧ t.getF Fld.BOOT_STATUS_PHASE = (if bootSrc t = 1 then 2 else 1) ∧
    t.getF Fld.ADM_ANSEQ_DEVICE_ID = t.getF Fld.SYS_STRAP_NODE_ID ∧ t.mem = s.mem := by
  obtain ⟨hmem, htime, hboot⟩ := powerNoted_keeps s
  obtain ⟨hisl, hclk⟩ := island_powerNoted s
  obtain ⟨hid, hnode⟩ := deviceId_powerNoted s
  have hexec : exec (.powerGood) s = .next (bringupStart (powerNoted s)) := by
    rw [exec_powerGood, execPowerGood, powerGood_eq hstep htrip hrail, if_neg (by rw [hboot]; simp [hlow])]
  generalize powerNoted s = u at hmem htime hboot hisl hclk hid hnode hexec
  obtain ⟨hmem', htime', hboot', hphase, -, hreg⟩ := bringupStart_spec u
  have hget (f : FieldRef) (h : f.off ≠ Off.PWR_ISL_STATUS 40) (he : f.off ≠ Off.SYS_EVT) (hpg : f.off ≠ Off.BOOT_T_PG)
      (hst : f.off ≠ Off.BOOT_STATUS) : (bringupStart u).getF f = u.getF f := State.getF_congr f (hreg _ h he hpg hst)
  have hsrc : bootSrc (bringupStart u) = bootSrc u := bootSrc_congr fun off hlow' hevt hst hpg =>
    hreg off (by unfold Off.PWR_ISL_STATUS; omega) hevt hpg hst
  refine ⟨_, hexec, htime'.trans htime, by rw [hboot'], ?_, ?_, by rw [hsrc]; exact hphase, ?_, hmem'.trans hmem⟩
  · exact (hget (Fld.PWR_ISL_STATUS_STATE 43) (by decide) (by decide) (by decide) (by decide)).trans hisl
  · exact (hget (Fld.PWR_ISL_STATUS_CLK_MHZ 43) (by decide) (by decide) (by decide) (by decide)).trans hclk
  · rw [hget _ (by decide) (by decide) (by decide) (by decide), hget _ (by decide) (by decide) (by decide) (by decide), hid,
      hnode]

end

/-! ## The obligation -/

/-- Settles O53: a cold reset by what it filters, a warm reset by the frame of each of its parts, the rest by equations. -/
theorem resets : Obligations.Resets := by
  unfold Obligations.Resets
  intro s k
  refine ⟨⟨rfl, rfl, rfl, rfl, rfl, rfl, rfl, rfl, rfl, rfl, rfl, rfl, rfl, mem_coldResetTo s, fun n hn => ?fuse,
    fun off hoff => ?other⟩, fun htrip hrail hstep => ?warm, fun hoff => ?removed, fun hdone hphase hlast => ?quiesced,
    fun hlow => ?high, exec_warmResetNRise_spec, fun confirm => ⟨fun hne => ?unconfirmed, fun heq => ?confirmed⟩,
    exec_powerGood_spec, fun hstep => ?running⟩
  case fuse =>
    have h0 : Off.BOOT_FUSE_RD 0 ≤ Off.BOOT_FUSE_RD n := by unfold Off.BOOT_FUSE_RD; omega
    have h1 : Off.BOOT_FUSE_RD n ≤ Off.BOOT_FUSE_RD 1023 := by unfold Off.BOOT_FUSE_RD; omega
    rw [reg_coldResetTo, decide_eq_true h0, decide_eq_true h1, if_pos (by decide)]
  case other =>
    rw [reg_coldResetTo, if_neg]
    rw [Bool.and_eq_true, decide_eq_true_iff, decide_eq_true_iff]
    omega
  case warm =>
    obtain ⟨htxns, hconns, hkeys, htime, hskeys, hlow, hstep', hcause, hwarm, hphase, hlocked, hpending, hmem, hreg, hcore⟩ :=
      warmBody_spec s true
    obtain ⟨-, -, -, hfuse⟩ := quiesce_keeps s
    exact ⟨_, exec_warmReset_held htrip hrail hstep, htxns, hconns, hkeys, htime, hskeys, hlow, hstep', hcause, hwarm, hphase,
      hlocked, hpending, hmem, fun n hn => (hreg _ (carriedReg_fuse hn)).trans (hfuse n hn),
      fun n hn => hreg _ (carriedReg_log hn), hreg _ ⟨by decide, .inl (by decide), by decide⟩, hcore⟩
  case removed => rw [exec_warmReset, execWarmReset, warmResetTo, if_pos hoff]
  case quiesced =>
    rw [quiesce_of_complete hdone hphase hlast]
    exact ⟨by rw [reg_setReg, if_pos rfl, Nat.mod_eq_of_lt (State.reg_lt ..)], State.mem_setReg ..⟩
  case high => rw [exec_warmResetNRise, execWarmResetNRise, warmRise, if_pos (by simp [hlow])]
  case unconfirmed =>
    obtain ⟨hmem, htxns, -, hreg⟩ := resetWritten_keeps s
    obtain ⟨hexec, hexec'⟩ := exec_bootReset_unconfirmed s hne
    exact ⟨_, _, hexec, hexec', hmem, hmem, htxns, htxns, fun off => ⟨hreg off, hreg off⟩⟩
  case confirmed =>
    obtain ⟨hmem, htxns, hjnl, hreg⟩ := resetWritten_keeps s
    obtain ⟨hexec, hexec'⟩ := exec_bootReset_confirmed s
    subst heq
    exact ⟨_, hexec, hexec', hmem, htxns, hjnl, hreg⟩
  case running => rw [exec_powerGood, execPowerGood, powerGood, if_pos (.inl hstep)]

end Sys2Proof.Proofs

namespace Sys2Proof.Proofs

open Sys2Proof Sys2Proof.Machine Sys2Proof.Laws

/-! # Stand-in decisions and full release (O55: R370 to R376)

## The rules decide in order (R370) -/

section
variable {h : SiHead} {macOk : Bool} {rules : List SiRule} {key cur : Nat} {amt : Option Nat} {present : Nat → Bool}

/-- A rule matches on type, currency, field and amount. -/
theorem matches_iff (r : SiRule) : r.matches_ key cur amt present = true ↔
    key &&& r.mask = r.key &&& r.mask ∧ (r.currency = 0 ∨ r.currency = cur) ∧
      (r.absent = 0 ∨ present r.absent = false) ∧ ∃ a, amt = some a ∧ a ≤ r.amtMax := by
  unfold SiRule.matches_
  cases amt <;> simp [and_assoc]

theorem siDecide_bad_mac (hmac : h.mac ≠ 0) (hok : macOk = false) :
    siDecide h macOk rules key cur amt present = .decline h.badMac 0xFFFE := if_pos ⟨hmac, by simp [hok]⟩

/-- The first rule that matches, with its index. -/
theorem find?_zipIdx_first {α : Type} {p : α → Bool} {l : List α} {i : Nat} {r : α} (hr : l[i]? = some r) (hp : p r = true)
    (hbefore : ∀ j r', j < i → l[j]? = some r' → ¬p r' = true) (k : Nat) :
    (l.zipIdx k).find? (fun q => p q.1) = some (r, k + i) := by
  induction l generalizing i k with
  | nil => simp at hr
  | cons a l ih =>
    rw [List.zipIdx_cons, List.find?_cons]
    cases i with
    | zero =>
      obtain rfl : a = r := by simpa using hr
      rw [hp]
      rfl
    | succ i =>
      rw [Bool.eq_false_iff.2 (hbefore 0 a (Nat.succ_pos i) rfl)]
      exact (ih hr (fun j r' hj hr' => hbefore (j + 1) r' (Nat.succ_lt_succ hj) hr') (k + 1)).trans (by congr 2; omega)

theorem find?_zipIdx_none {α : Type} {p : α → Bool} {l : List α} (hnone : ∀ r ∈ l, ¬p r = true) (k : Nat) :
    (l.zipIdx k).find? (fun q => p q.1) = none := by
  rw [List.find?_eq_none]
  intro q hq
  exact hnone q.1 (List.fst_mem_of_mem_zipIdx hq)

theorem siDecide_first (hmac : h.mac = 0 ∨ macOk = true) {i : Nat} {r : SiRule} (hr : rules[i]? = some r)
    (hhit : r.matches_ key cur amt present = true)
    (hbefore : ∀ j r', j < i → rules[j]? = some r' → ¬r'.matches_ key cur amt present = true) :
    siDecide h macOk rules key cur amt present = r.outcome i := by
  have hfind := find?_zipIdx_first (p := fun r : SiRule => r.matches_ key cur amt present) hr hhit hbefore 0
  rw [Nat.zero_add] at hfind
  have hmacs : ¬(h.mac ≠ 0 ∧ (!macOk) = true) := by
    rintro ⟨h0, hbad⟩
    rcases hmac with hmac | hmac
    · exact h0 hmac
    · simp [hmac] at hbad
  unfold siDecide
  rw [if_neg hmacs, hfind]

theorem siDecide_no_match (hmac : h.mac = 0 ∨ macOk = true) (hnone : ∀ r ∈ rules, ¬r.matches_ key cur amt present = true) :
    siDecide h macOk rules key cur amt present = if h.noMatch = 0xFFFF then .refuse else .decline h.noMatch 0xFFFF := by
  have hfind := find?_zipIdx_none (p := fun r : SiRule => r.matches_ key cur amt present) hnone 0
  have hmacs : ¬(h.mac ≠ 0 ∧ (!macOk) = true) := by
    rintro ⟨h0, hbad⟩
    rcases hmac with hmac | hmac
    · exact h0 hmac
    · simp [hmac] at hbad
  unfold siDecide
  rw [if_neg hmacs, hfind]

/-- The flags of a rule decide its outcome. -/
theorem outcome_of_flags (r : SiRule) (i : Nat) : (r.flags.testBit 1 = true → r.outcome i = .refuse) ∧
    (r.flags.testBit 1 = false → r.flags.testBit 0 = true → r.outcome i =
      if r.flags.testBit 2 then .velocity r i else .approve r.template i) ∧
    (r.flags.testBit 1 = false → r.flags.testBit 0 = false → r.outcome i = .decline r.template i) := by
  unfold SiRule.outcome bitAt
  refine ⟨fun h1 => if_pos h1, fun h1 h0 => ?_, fun h1 h0 => ?_⟩
  · rw [if_neg (by simp [h1]), h0]
    cases r.flags.testBit 2 <;> simp
  · rw [if_neg (by simp [h1]), if_neg (by simp [h0]), if_neg (by simp [h0])]

end

section
variable {s t u : State}

/-! ## Accumulators (R371) -/

theorem velocity_of_none {h : SiHead} {r : SiRule} {digits : List Byte} {amt : Nat}
    (hacc : findAcc s (sipHash h.k0 h.k1 digits) (siAcct digits) = none) : velocity s h r digits amt = (false, s) := by
  unfold velocity
  rw [hacc]

theorem velocity_of_some {h : SiHead} {r : SiRule} {digits : List Byte} {amt i : Nat} {a : SiAcc}
    (hacc : findAcc s (sipHash h.k0 h.k1 digits) (siAcct digits) = some (i, a)) : velocity s h r digits amt =
      if a.count + 1 ≤ r.cntMax ∧ a.total + amt ≤ h.acctMax then
        (true, putAcc s i { a with count := a.count + 1, total := a.total + amt })
      else (false, s) := by
  unfold velocity
  rw [hacc]

/-- The check of an accumulator changes no register. -/
theorem regs_velocity (s : State) (h : SiHead) (r : SiRule) (digits : List Byte) (amt : Nat) :
    (velocity s h r digits amt).2.regs = s.regs := by
  cases hacc : findAcc s (sipHash h.k0 h.k1 digits) (siAcct digits) with
  | none => rw [velocity_of_none hacc]
  | some p =>
    rw [velocity_of_some hacc]
    split
    · exact State.regs_wr ..
    · rfl

theorem regs_settle {h : SiHead} {digits : List Byte} {amt tpl rule dec : Nat} {o : SiOutcome} {s2 : State}
    (hset : settle s h digits amt o = some (tpl, rule, dec, s2)) : s2.regs = s.regs := by
  cases o with
  | refuse => exact absurd hset (by simp [settle])
  | decline t i =>
    simp only [settle, Option.some.injEq, Prod.mk.injEq] at hset
    obtain ⟨-, -, -, rfl⟩ := hset
    rfl
  | approve t i =>
    simp only [settle, Option.some.injEq, Prod.mk.injEq] at hset
    obtain ⟨-, -, -, rfl⟩ := hset
    rfl
  | velocity r i =>
    have hregs := regs_velocity s h r digits amt
    simp only [settle, Option.some.injEq] at hset
    by_cases hv : (velocity s h r digits amt).1 = true
    · rw [if_pos hv, Prod.mk.injEq, Prod.mk.injEq, Prod.mk.injEq] at hset
      obtain ⟨-, -, -, rfl⟩ := hset
      exact hregs
    · rw [if_neg hv, Prod.mk.injEq, Prod.mk.injEq, Prod.mk.injEq] at hset
      obtain ⟨-, -, -, rfl⟩ := hset
      exact hregs

/-! ## The decision and its entry (R370 to R372) -/

theorem siLog_congr (h : t.regs = s.regs) : siLog t = siLog s := State.getF_congr _ (State.reg_congr h _)

/-- The entry of a decision is in both copies, and the count has advanced. -/
theorem siCommit_spec {d : Dialect} {x : Txn} {digits : List Byte} {cur tpl rule dec : Nat} {amt : Option Nat}
    (hroom : siLog s < 131072) : siLog (siCommit s d x digits cur amt tpl rule dec) = siLog s + 1 ∧
    (siCommit s d x digits cur amt tpl rule dec).mem = (logPut s (siLog s)
      (logEntryOf s x digits cur amt rule dec (d.templates.getD tpl (readTemplate [])).code)).mem := by
  unfold siCommit
  dsimp only
  generalize logPut s (siLog s) (logEntryOf s x digits cur amt rule dec (d.templates.getD tpl (readTemplate [])).code) = v
  have hset : siLog (v.setF Fld.BOOT_STATUS_SILOG (siLog s + 1)) = siLog s + 1 := by
    rw [siLog, State.getF_setF_self _ _ _ (by decide) (by decide)]
    exact Nat.mod_eq_of_lt (lt_of_lt_of_le (Nat.succ_lt_succ hroom) (by decide))
  have hmem : (v.setF Fld.BOOT_STATUS_SILOG (siLog s + 1)).mem = v.mem := State.mem_setF ..
  generalize v.setF Fld.BOOT_STATUS_SILOG (siLog s + 1) = w at hset hmem ⊢
  have hsteady := ((Steady.refl w).modTxn (an := x.an)
    (f := fun t => { t with phase := .committed, owner := .ended, tpl := some tpl, mirrored := true })).countOutstanding
  refine ⟨(State.getF_congr _ (hsteady.reg Fld.BOOT_STATUS_SILOG.off (by decide) (by decide))).trans hset, ?_⟩
  exact (State.mem_setF ..).trans hmem

/-- What the decision of a record comes to, and the memory and time it is made on. -/
theorem siRun_refused {d : Dialect} {x : Txn} (hset : settle s (siHead s)
    ((recField (s.rd x.reqPa x.reqLen) (siHead s).acct).getD []) ((siAmount (s.rd x.reqPa x.reqLen) (siHead s).amount).getD 0)
    (siDecide (siHead s) (siMacOk s d (siHead s) (s.rd x.reqPa x.reqLen))
      (siRules (s.rd (tileAddr 0 0x18_0000) (64 + 32 * (siHead s).nrule))) (leNat x.typeKey)
      (siNumber (s.rd x.reqPa x.reqLen) (siHead s).currency) (siAmount (s.rd x.reqPa x.reqLen) (siHead s).amount)
      fun f => (recField (s.rd x.reqPa x.reqLen) f).isSome) = none) : siRun s d x = siRefuse s x := by
  unfold siRun
  dsimp only
  rw [hset]

theorem siRun_settled {d : Dialect} {x : Txn} {tpl rule dec : Nat} {s2 : State} (hset : settle s (siHead s)
    ((recField (s.rd x.reqPa x.reqLen) (siHead s).acct).getD []) ((siAmount (s.rd x.reqPa x.reqLen) (siHead s).amount).getD 0)
    (siDecide (siHead s) (siMacOk s d (siHead s) (s.rd x.reqPa x.reqLen))
      (siRules (s.rd (tileAddr 0 0x18_0000) (64 + 32 * (siHead s).nrule))) (leNat x.typeKey)
      (siNumber (s.rd x.reqPa x.reqLen) (siHead s).currency) (siAmount (s.rd x.reqPa x.reqLen) (siHead s).amount)
      fun f => (recField (s.rd x.reqPa x.reqLen) f).isSome) = some (tpl, rule, dec, s2)) :
    siRun s d x = if 131072 ≤ siLog s then siRefuse s x else
      siCommit s2 d x ((recField (s.rd x.reqPa x.reqLen) (siHead s).acct).getD [])
        (siNumber (s.rd x.reqPa x.reqLen) (siHead s).currency) (siAmount (s.rd x.reqPa x.reqLen) (siHead s).amount) tpl rule
        dec := by
  unfold siRun
  dsimp only
  rw [hset]

theorem exec_standinDecide_ready {x : Txn} {d : Dialect} {s1 : State} (hx : s.txn? x.an = some x) (hsi : x.si = true)
    (hphase : x.phase = .queued) (hstandin : standinService s = true) (hserves : tileZeroServes s = true)
    (hmac : (siHead s).mac = 0 ∨ 1 ≤ clusterEngines s .sym 0) (hdialect : dialectAt s true x.dtab = (some d, s1)) :
    exec (.standinDecide x.an) s = .next (releaseProgress (siRun s1 d x)) := by
  have hready : macReady s = true := by
    unfold macReady
    rcases hmac with h | h <;> simp [h]
  rw [exec_standinDecide, execStandinDecide, hx]
  dsimp only
  rw [if_pos ⟨hsi, hphase, hstandin, hserves, hready⟩, hdialect]

/-! ## Release (R374, R375) -/

theorem releaseError_tail (h : s.jnl.tailNamed = true) (hseal : s.jnl.tailSeal = none) : releaseError s ≠ 0 := by
  unfold releaseError
  have hlast : (if s.jnl.tailNamed = true ∧ s.jnl.tailSeal = none then 0x25 else 0) = 0x25 := if_pos ⟨h, hseal⟩
  dsimp only
  rw [hlast]
  split_ifs <;> decide

/-- Release is under way. -/
def releasing (s : State) : State := (s.setF Fld.BOOT_STATUS_REL_ERR 0).setF Fld.BOOT_STATUS_PHASE 5

theorem bootRelease_refused (h : releaseError s ≠ 0) : bootRelease s = s.setF Fld.BOOT_STATUS_REL_ERR (releaseError s) :=
  if_pos h

theorem bootRelease_passes (h : releaseError s = 0) : bootRelease s = releaseProgress (releasing s) := if_neg (not_not.2 h)

theorem quiet_releasing (s : State) : Quiet s (releasing s) := ((Quiet.refl s).setF _ _).setF _ _

theorem releasing_spec (s : State) : (releasing s).getF Fld.BOOT_STATUS_PHASE = 5 ∧
    (releasing s).getF Fld.BOOT_STATUS_REL_ERR = 0 ∧ siLog (releasing s) = siLog s := by
  unfold releasing siLog
  refine ⟨getF_phase_setF _ 5, ?_, ?_⟩
  · rw [getF_setF_apart _ _ (by decide) (by decide) (by decide), State.getF_setF_self _ _ _ (by decide) (by decide)]
    rfl
  · rw [getF_setF_apart _ _ (by decide) (by decide) (by decide), getF_setF_apart _ _ (by decide) (by decide) (by decide)]

theorem standinDone_congr (htxns : t.txns = s.txns) (hbusy : t.busy = s.busy) (hxlt : t.xlt = s.xlt) :
    standinDone t = standinDone s := by
  unfold standinDone
  rw [htxns, hbusy, hxlt]

theorem standinDone_releasing (s : State) : standinDone (releasing s) = standinDone s :=
  standinDone_congr (quiet_releasing s).txns (quiet_releasing s).busy (quiet_releasing s).xlt

/-- The records of epoch 0 that the journal has taken. -/
def epochTaken (s : State) : State := journalEpochZero (siLog s + 2) (releasing s)

theorem bootRelease_waits (h : releaseError s = 0) (hdone : standinDone s = false) : bootRelease s = releasing s := by
  rw [bootRelease_passes h]
  exact if_neg fun hc => by rw [standinDone_releasing, hdone] at hc; exact absurd hc.2 (by decide)

theorem bootRelease_goes_on (h : releaseError s = 0) (hdone : standinDone s = true) : bootRelease s =
    if siLog (epochTaken s) < (epochTaken s).boot.relAt ∧ releaseRoom (epochTaken s) = true
      then finishRelease (moveStandin (closeEpochZero (epochTaken s))) else noteFull (epochTaken s) := by
  obtain ⟨hphase, -, hlog⟩ := releasing_spec s
  rw [bootRelease_passes h, releaseProgress, if_pos ⟨hphase, (standinDone_releasing s).trans hdone⟩, hlog]
  rfl

/-- Stand-in has closed and its port retrains. -/
theorem moveStandin_keeps (h : Steady s t) : (moveStandin t).boot.siOpen = false ∧ (moveStandin t).devtime = s.devtime := by
  have hmoved : Steady s (standinMoved t) := h.standinMoved
  have hhanded : Steady (standinShut (standinMoved t)) (standinHanded (standinShut (standinMoved t))) :=
    (Steady.refl _).standinHanded
  have hshut (v : State) : (standinShut v).boot.siOpen = false ∧ (standinShut v).devtime = v.devtime := ⟨rfl, rfl⟩
  obtain ⟨hopen, htime⟩ := hshut (standinMoved t)
  rw [moveStandin_eq, State.boot_setF, State.devtime_setF]
  exact ⟨hhanded.siOpen.trans hopen, hhanded.devtime.trans (htime.trans hmoved.devtime)⟩

theorem releaseMarked_spec (s : State) : (releaseMarked s).getF Fld.SYS_STATUS_LOCKED = 1 ∧
    (releaseMarked s).reg Off.BOOT_T_REL = s.now ∧ (releaseMarked s).boot = s.boot := by
  unfold releaseMarked
  refine ⟨?_, ?_, ?_⟩
  · rw [getF_setReg_ne _ (by decide), State.getF_setF_self _ _ _ (by decide) (by decide)]
    rfl
  · rw [reg_setReg, if_pos rfl]
    exact Nat.mod_eq_of_lt s.devtime.isLt
  · rw [State.boot_setReg, State.boot_setF]

theorem journalRuns_spec (s : State) : (journalRuns s).jnl.running = true ∧ (journalRuns s).boot = s.boot ∧
    ∀ off, (journalRuns s).reg off = s.reg off := ⟨rfl, rfl, fun _ => rfl⟩

/-- What the last step of release leaves. -/
theorem finishRelease_spec (s : State) : (finishRelease s).getF Fld.BOOT_STATUS_PHASE = 6 ∧
    (finishRelease s).getF Fld.SYS_STATUS_LOCKED = 1 ∧ (finishRelease s).reg Off.BOOT_T_REL = s.now ∧
    (finishRelease s).jnl.running = true ∧ (finishRelease s).boot.siOpen = s.boot.siOpen := by
  have hopened := steady_mainEpochOpened s
  obtain ⟨hlocked, htrel, hboot⟩ := releaseMarked_spec s
  obtain ⟨hruns, hboot', hreg'⟩ := journalRuns_spec (mainEpochOpened s)
  have hjoined : Steady (journalRuns (mainEpochOpened s)) (cascadeJoined (journalRuns (mainEpochOpened s))) :=
    (Steady.refl _).cascadeJoined
  have hsiOpen : (cascadeJoined (journalRuns (mainEpochOpened s))).boot.siOpen = s.boot.siOpen := by
    rw [hjoined.siOpen, hboot', hopened.siOpen, hboot]
  have hrunning : (cascadeJoined (journalRuns (mainEpochOpened s))).jnl.running = true := hjoined.running.trans hruns
  have hreg (off : Nat) (hlow : off < 0x20000) (he : off ≠ Off.SYS_EVT) :
      (cascadeJoined (journalRuns (mainEpochOpened s))).reg off = (releaseMarked s).reg off :=
    (hjoined.reg off hlow he).trans ((hreg' off).trans (hopened.reg off hlow he))
  rw [finishRelease_eq]
  generalize cascadeJoined (journalRuns (mainEpochOpened s)) = u at hsiOpen hrunning hreg ⊢
  have hnoted : Steady (u.setF Fld.BOOT_STATUS_PHASE 6) (noteFull (u.setF Fld.BOOT_STATUS_PHASE 6)) := (Steady.refl _).noteFull
  refine ⟨?_, ?_, ?_, ?_, ?_⟩
  · rw [State.getF_congr _ (hnoted.reg Fld.BOOT_STATUS_PHASE.off (by decide) (by decide)), getF_phase_setF]
  · rw [State.getF_congr _ (hnoted.reg Fld.SYS_STATUS_LOCKED.off (by decide) (by decide)),
      State.getF_setF_ne _ _ _ _ (by decide) (by decide), State.getF_congr _ (hreg _ (by decide) (by decide)), hlocked]
  · rw [hnoted.reg _ (by decide) (by decide), State.reg_setF_ne _ _ _ _ (by decide) (by decide), hreg _ (by decide) (by decide),
      htrel]
  · rw [hnoted.running, State.jnl_setF, hrunning]
  · rw [hnoted.siOpen, State.boot_setF, hsiOpen]

theorem steady_epochTaken (s : State) : Steady (releasing s) (epochTaken s) := (Steady.refl _).journalEpochZero

theorem steady_closeEpochZero (h : Steady s t) : Steady s (closeEpochZero t) := h.upd rfl rfl rfl

/-- A device whose epoch 0 is taken, with room for the head of the main epoch, is released. -/
theorem released_spec (s : State) : let t := finishRelease (moveStandin (closeEpochZero (epochTaken s)))
    t.getF Fld.BOOT_STATUS_PHASE = 6 ∧ t.getF Fld.SYS_STATUS_LOCKED = 1 ∧ t.reg Off.BOOT_T_REL = s.now ∧
    t.jnl.running = true ∧ t.boot.siOpen = false := by
  obtain ⟨hopen, htime⟩ := moveStandin_keeps (steady_closeEpochZero (steady_epochTaken s))
  generalize moveStandin (closeEpochZero (epochTaken s)) = v at hopen htime
  obtain ⟨hphase, hlocked, htrel, hruns, hopen'⟩ := finishRelease_spec v
  have hnow : v.now = s.now := by
    unfold State.now
    rw [htime, (quiet_releasing s).devtime]
  exact ⟨hphase, hlocked, htrel.trans hnow, hruns, hopen'.trans hopen⟩

theorem phase_noteFull_epochTaken (s : State) : (noteFull (epochTaken s)).getF Fld.BOOT_STATUS_PHASE = 5 := by
  have h : Steady (releasing s) (noteFull (epochTaken s)) := (steady_epochTaken s).noteFull
  rw [State.getF_congr _ (h.reg Fld.BOOT_STATUS_PHASE.off (by decide) (by decide)), (releasing_spec s).1]

/-! ## The tiles of stand-in join (R376) -/

/-- A tile runs, and its store is zero. -/
def Joined (s : State) (n : Nat) : Prop :=
  islandState s n = 2 ∧ ∀ o, o < 0x40_0000 → memGet s.mem (tileAddr n o) = 0

/-- A tile that waits for release. -/
def Awaits (s : State) (n : Fin 44) : Prop := islandState s n.val = 1 ∧ (s.isl n).action = none

theorem memGet_clearTileStore (s : State) (n a : Nat) : memGet (clearTileStore s n).mem a =
    if tileAddr n 0 ≤ a ∧ a < tileAddr n 0 + 0x40_0000 then 0 else memGet s.mem a := by
  have h := memGet_filter (fun x => decide (x < tileAddr n 0 ∨ tileAddr n 0 + 0x40_0000 ≤ x)) s.mem a
  unfold clearTileStore clearRange
  rw [h]
  by_cases hin : tileAddr n 0 ≤ a ∧ a < tileAddr n 0 + 0x40_0000
  · rw [if_pos hin, if_neg (by simp only [decide_eq_true_eq]; omega)]
  · rw [if_neg hin, if_pos (by simp only [decide_eq_true_eq]; omega)]

theorem clearTileStore_keeps (s : State) (n : Nat) : (clearTileStore s n).jnl = s.jnl ∧ (clearTileStore s n).boot = s.boot ∧
    (clearTileStore s n).pwr = s.pwr ∧ ∀ off, (clearTileStore s n).reg off = s.reg off := ⟨rfl, rfl, rfl, fun _ => rfl⟩

/-- The journal, bring-up and what PWR keeps stay; what is zero stays zero; so does every register but the state of tiles. -/
structure JoinKept (s t : State) : Prop where
  jnl : t.jnl = s.jnl
  boot : t.boot = s.boot
  pwr : t.pwr = s.pwr
  mem : ∀ a, memGet s.mem a = 0 → memGet t.mem a = 0
  reg : ∀ off, ¬IslReg off → off ≠ Off.SYS_EVT → t.reg off = s.reg off

theorem JoinKept.refl (s : State) : JoinKept s s := ⟨rfl, rfl, rfl, fun _ h => h, fun _ _ _ => rfl⟩

theorem JoinKept.trans (h : JoinKept s t) (g : JoinKept t u) : JoinKept s u :=
  ⟨g.jnl.trans h.jnl, g.boot.trans h.boot, g.pwr.trans h.pwr, fun a ha => g.mem a (h.mem a ha),
    fun off hi he => (g.reg off hi he).trans (h.reg off hi he)⟩

theorem joinKept_clearTileStore (s : State) (n : Nat) : JoinKept s (clearTileStore s n) := by
  obtain ⟨hjnl, hboot, hpwr, hreg⟩ := clearTileStore_keeps s n
  refine ⟨hjnl, hboot, hpwr, fun a ha => ?_, fun off _ _ => hreg off⟩
  rw [memGet_clearTileStore]
  split
  · rfl
  · exact ha

/-- A tile starts. -/
def tileStarted (s : State) (n : Fin 44) : State := setIslandState (setClk s n (joinClock s n)) n 2

theorem joinTile_eq (s : State) (n : Fin 44) : joinTile s n = if islandState s n.val = 4 then clearTileStore s n.val
    else if islandState s n.val = 1 ∧ (s.isl n).action.isNone = true then tileStarted (clearTileStore s n.val) n else s := rfl

theorem setClk_keeps (s : State) (n : Fin 44) (f : Nat) : (setClk s n f).pwr = s.pwr := (State.pwr_setF ..).trans rfl

theorem joinKept_tileStarted (s : State) (n : Fin 44) : JoinKept s (tileStarted s n) := by
  have h : OnlyIslands s (tileStarted s n) := ((OnlyIslands.refl s).setClk n _).setIslandState n 2
  exact ⟨h.jnl, h.boot, (State.pwr_setF ..).trans (setClk_keeps ..), fun a ha => by rw [h.mem]; exact ha, h.reg⟩

theorem joinKept_joinTile (s : State) (n : Fin 44) : JoinKept s (joinTile s n) := by
  rw [joinTile_eq]
  split
  · exact joinKept_clearTileStore s n.val
  · split
    · exact (joinKept_clearTileStore s n.val).trans (joinKept_tileStarted _ n)
    · exact .refl s

theorem islandState_clearTileStore (s : State) (n j : Nat) : islandState (clearTileStore s n) j = islandState s j := rfl

theorem islandState_tileStarted (s : State) (n : Fin 44) (j : Nat) :
    islandState (tileStarted s n) j = if j = n.val then 2 else islandState s j := by
  unfold tileStarted
  rw [islandState_setIslandState, islandState_setClk]

theorem islandState_joinTile_ne (s : State) (n : Fin 44) {j : Nat} (h : j ≠ n.val) :
    islandState (joinTile s n) j = islandState s j := by
  rw [joinTile_eq]
  split
  · rfl
  · split
    · rw [islandState_tileStarted, if_neg h, islandState_clearTileStore]
    · rfl

/-- A tile that waits joins. -/
theorem joined_joinTile_self {n : Fin 44} (h : Awaits s n) : Joined (joinTile s n) n.val := by
  obtain ⟨hstate, haction⟩ := h
  have hmem : (tileStarted (clearTileStore s n.val) n).mem = (clearTileStore s n.val).mem :=
    (((OnlyIslands.refl _).setClk n _).setIslandState n 2).mem
  rw [joinTile_eq, if_neg (by omega), if_pos ⟨hstate, by rw [haction]; rfl⟩]
  refine ⟨by rw [islandState_tileStarted, if_pos rfl], fun o ho => ?_⟩
  rw [hmem, memGet_clearTileStore, if_pos ⟨by unfold tileAddr; omega, by unfold tileAddr; omega⟩]

/-- A tile that has joined stays so when others join. -/
theorem joined_joinTile {n : Nat} (h : Joined s n) (m : Fin 44) : Joined (joinTile s m) n := by
  obtain ⟨hstate, hzero⟩ := h
  refine ⟨?_, fun o ho => (joinKept_joinTile s m).mem _ (hzero o ho)⟩
  by_cases hm : n = m.val
  · have hsame : joinTile s m = s := by
      rw [hm] at hstate
      rw [joinTile_eq, if_neg (by omega), if_neg (fun hc => by omega)]
    rw [hsame, hstate]
  · rw [islandState_joinTile_ne _ _ hm, hstate]

/-- The tiles of a list that wait join. -/
theorem joined_foldl {l : List (Fin 44)} {n : Fin 44} (hn : n ∈ l) (h : Awaits s n) : Joined (l.foldl joinTile s) n.val := by
  refine foldl_reaches (ok := fun u => Awaits u n ∨ Joined u n.val) (P := fun u => Joined u n.val) hn (.inl h) ?_ ?_
    fun u m hu => joined_joinTile hu m
  · rintro u m (⟨hstate, haction⟩ | hjoined)
    · by_cases hm : n = m
      · exact .inr (hm ▸ joined_joinTile_self (n := n) ⟨hstate, haction⟩)
      · have hpwr := (joinKept_joinTile u m).pwr
        refine .inl ⟨(islandState_joinTile_ne u m fun hc => hm (Fin.ext hc)).trans hstate, ?_⟩
        unfold State.isl
        rw [hpwr]
        exact haction
    · exact .inr (joined_joinTile hjoined m)
  · rintro u (hwaits | hjoined)
    · exact joined_joinTile_self hwaits
    · exact joined_joinTile hjoined n

theorem joined_foldl_of_joined {n : Nat} (l : List (Fin 44)) (h : Joined s n) : Joined (l.foldl joinTile s) n :=
  foldl_inv (P := fun u => Joined u n) h l fun _ m hu => joined_joinTile hu m

theorem joinKept_foldl (l : List (Fin 44)) (s : State) : JoinKept s (l.foldl joinTile s) :=
  foldl_inv (P := fun u => JoinKept s u) (.refl s) l fun u m h => h.trans (joinKept_joinTile u m)

/-- TILE.0 joins first. -/
def firstJoined (s : State) : State := if islandState s 0 = 1 then joinTile s 0 else s

/-- The tiles of the log join once epoch 0 is in its journal area. -/
def logJoined (s : State) : State := ([20, 21, 22, 23] : List (Fin 44)).foldl joinTile (s.setF Fld.BOOT_STATUS_SILOG 0)

/-- Nothing of the log is left to release. -/
def logOver (s : State) : State := { s with boot := { s.boot with relAt := 0 } }

theorem standinTilesJoin_eq (h : s.getF Fld.BOOT_STATUS_PHASE = 6) : standinTilesJoin s =
    if ((firstJoined s).jnl.recs.any fun r => r.epoch == 0 && !r.complete) = true ∨ (firstJoined s).boot.relAt = 0
      then firstJoined s else logOver (logJoined (firstJoined s)) := by
  rw [standinTilesJoin, if_neg (not_not.2 h), ← firstJoined]
  dsimp only
  generalize firstJoined s = u
  unfold logJoined
  generalize ([20, 21, 22, 23] : List (Fin 44)).foldl joinTile (u.setF Fld.BOOT_STATUS_SILOG 0) = v
  rfl

theorem joinKept_firstJoined (s : State) : JoinKept s (firstJoined s) := by
  unfold firstJoined
  split
  · exact joinKept_joinTile s 0
  · exact .refl s

theorem islandState_firstJoined_ne (s : State) {j : Nat} (h : j ≠ 0) : islandState (firstJoined s) j = islandState s j := by
  unfold firstJoined
  split
  · exact islandState_joinTile_ne s 0 h
  · rfl

theorem joined_setF_silog {n : Nat} (h : Joined s n) (v : Nat) : Joined (s.setF Fld.BOOT_STATUS_SILOG v) n := by
  obtain ⟨hstate, hzero⟩ := h
  refine ⟨(islandState_setF_off v n (by show 0x10000 ≠ 0x20400 + 8 * n; omega)).trans hstate, fun o ho => ?_⟩
  rw [State.mem_setF]
  exact hzero o ho

theorem joined_logOver {n : Nat} (h : Joined s n) : Joined (logOver s) n := h

theorem getF_logOver (s : State) (f : FieldRef) : (logOver s).getF f = s.getF f := rfl

theorem awaits_setF_silog {n : Fin 44} (h : Awaits s n) (v : Nat) : Awaits (s.setF Fld.BOOT_STATUS_SILOG v) n := by
  obtain ⟨hstate, haction⟩ := h
  refine ⟨(islandState_setF_off v n.val (by show 0x10000 ≠ 0x20400 + 8 * n.val; omega)).trans hstate, ?_⟩
  unfold State.isl
  rw [State.pwr_setF]
  exact haction

theorem awaits_firstJoined {n : Fin 44} (h : Awaits s n) (hn : n.val ≠ 0) : Awaits (firstJoined s) n := by
  obtain ⟨hstate, haction⟩ := h
  refine ⟨(islandState_firstJoined_ne s hn).trans hstate, ?_⟩
  unfold State.isl
  rw [(joinKept_firstJoined s).pwr]
  exact haction

theorem silog_logJoined (s : State) : (logJoined s).getF Fld.BOOT_STATUS_SILOG = 0 := by
  have h := joinKept_foldl [20, 21, 22, 23] (s.setF Fld.BOOT_STATUS_SILOG 0)
  unfold logJoined
  rw [State.getF_congr _ (h.reg Fld.BOOT_STATUS_SILOG.off (by unfold IslReg; decide) (by decide)),
    State.getF_setF_self _ _ _ (by decide) (by decide)]
  rfl

/-- TILE.0 joins, whatever the log waits for. -/
theorem joined_zero_of_awaits (h : Awaits s 0) (hphase : s.getF Fld.BOOT_STATUS_PHASE = 6) : Joined (standinTilesJoin s) 0 := by
  have hfirst : Joined (firstJoined s) 0 := by
    unfold firstJoined
    rw [if_pos (show islandState s 0 = 1 from h.1)]
    exact joined_joinTile_self h
  rw [standinTilesJoin_eq hphase]
  split
  · exact hfirst
  · exact joined_logOver (joined_foldl_of_joined _ (joined_setF_silog hfirst 0))

/-- The tiles of the log join once its records are in the journal area. -/
theorem standinTilesJoin_log (hphase : s.getF Fld.BOOT_STATUS_PHASE = 6)
    (hrecs : (s.jnl.recs.all fun r => r.epoch != 0 || r.complete) = true) (hrel : s.boot.relAt ≠ 0) :
    standinTilesJoin s = logOver (logJoined (firstJoined s)) := by
  have hkept := joinKept_firstJoined s
  rw [standinTilesJoin_eq hphase, hkept.jnl, hkept.boot, if_neg]
  rintro (hany | hzero)
  · obtain ⟨r, hr, hbad⟩ := List.any_eq_true.1 hany
    have hgood := List.all_eq_true.1 hrecs r hr
    cases hc : r.complete <;> simp_all
  · exact hrel hzero

end

/-! ## The obligation -/

/-- Settles O55: the decision by the first rule that matches, release by what its steps keep, the tiles by the fold that
joins them. -/
theorem standinAndRelease : Obligations.StandinAndRelease := by
  unfold Obligations.StandinAndRelease
  refine ⟨fun h macOk rules key cur amt present => ⟨siDecide_bad_mac, fun hmac => ⟨fun i r hr hhit hbefore => ?first,
    fun hnone => ?none⟩⟩, fun s s1 x d hx hsi hphase hstandin hserves hmac hdialect => ?decide,
    fun s n e hn he => ⟨(rd_logPut hn hn he false).trans (if_pos rfl), (rd_logPut hn hn he true).trans (if_pos rfl), rfl⟩,
    fun s h r digits amt i a => ⟨velocity_of_none, fun hacc => ⟨fun hcnt htot => ?within, fun hover => ?beyond⟩⟩,
    fun s => ⟨fun herr => ?refused, fun hphase => if_pos hphase, fun herr hdone => ?waits, releaseError_tail,
      fun herr hdone => ?release, fun hphase => ?early, fun hphase => ⟨_, exec_standinTilesJoin s, ?tile, ?log⟩⟩⟩
  case first =>
    have hdecide := siDecide_first (key := key) (cur := cur) (amt := amt) (present := present) hmac hr ((matches_iff r).2 hhit)
      fun j r' hj hr' hc => hbefore j r' hj hr' ((matches_iff r').1 hc)
    rw [hdecide]
    exact outcome_of_flags r i
  case none => exact siDecide_no_match hmac fun r hr hc => hnone r hr ((matches_iff r).1 hc)
  case decide =>
    have hexec := exec_standinDecide_ready hx hsi hphase hstandin hserves hmac hdialect
    refine ⟨fun hset => ?_, fun tpl rule dec s2 hset => ⟨fun hroom => ?_, fun hfull => ?_⟩⟩
    · rw [hexec, siRun_refused hset]
    · have hlog : siLog s2 = siLog s1 := siLog_congr (regs_settle hset)
      obtain ⟨hcount, hmem⟩ := siCommit_spec (s := s2) (d := d) (x := x) (cur := siNumber (s1.rd x.reqPa x.reqLen)
        (siHead s1).currency) (digits := (recField (s1.rd x.reqPa x.reqLen) (siHead s1).acct).getD []) (tpl := tpl)
        (rule := rule) (dec := dec) (amt := siAmount (s1.rd x.reqPa x.reqLen) (siHead s1).amount) (hlog ▸ hroom)
      rw [hlog] at hcount hmem
      exact ⟨by rw [hexec, siRun_settled hset, if_neg (by omega)], hcount, hmem⟩
    · rw [hexec, siRun_settled hset, if_pos hfull]
  case within => rw [velocity_of_some hacc, if_pos ⟨hcnt, htot⟩]
  case beyond => rw [velocity_of_some hacc, if_neg (by omega)]
  case refused => rw [exec_bootRelease, execBootRelease, bootRelease_refused herr]
  case waits =>
    obtain ⟨hphase, hrel, -⟩ := releasing_spec s
    have hq := quiet_releasing s
    exact ⟨_, by rw [exec_bootRelease, execBootRelease, bootRelease_waits herr hdone], hphase, hrel, hq.mem, hq.jnl⟩
  case release =>
    have hexec : exec (.bootRelease) s = .next _ := (exec_bootRelease s).trans
      (congrArg Host.Outcome.next (bootRelease_goes_on herr hdone))
    refine ⟨fun htaken hroom => ⟨_, hexec.trans (congrArg Host.Outcome.next (if_pos ⟨htaken, hroom⟩)), released_spec s⟩,
      fun hwaits => ⟨hexec.trans (congrArg Host.Outcome.next (if_neg ?_)), phase_noteFull_epochTaken s⟩⟩
    rintro ⟨htaken, hroom⟩
    rcases hwaits with hfew | hfull
    · exact absurd htaken (not_lt.2 hfew)
    · exact Bool.false_ne_true (hfull.symm.trans hroom)
  case early => rw [exec_standinTilesJoin, execStandinTilesJoin, standinTilesJoin, if_pos hphase]
  case tile => exact fun hstate haction => joined_zero_of_awaits ⟨hstate, haction⟩ hphase
  case log =>
    intro hrecs hrel
    rw [standinTilesJoin_log hphase hrecs hrel]
    refine ⟨(getF_logOver _ _).trans (silog_logJoined _), fun n hlow hhigh hstate haction => ?_⟩
    have hmem : n ∈ ([20, 21, 22, 23] : List (Fin 44)) := by
      obtain h | h | h | h : n.val = 20 ∨ n.val = 21 ∨ n.val = 22 ∨ n.val = 23 := by omega
      all_goals simp [Fin.ext_iff, h]
    exact joined_logOver (joined_foldl hmem
      (awaits_setF_silog (awaits_firstJoined ⟨hstate, haction⟩ (by omega)) 0))

end Sys2Proof.Proofs

namespace Sys2Proof.Proofs

open Sys2Proof Sys2Proof.Machine Sys2Proof.Laws

/-! # The loss of a tile, and faults that nothing covers (O51: R403, R404, R407)

## What a report leaves in the collector -/

section
variable {s t u : State}

/-- The units under test are those of `o`. -/
def SameTesting (o t : State) : Prop := t.err.testing = o.err.testing

theorem SameTesting.of_err (h : SameTesting s t) (he : u.err = t.err) : SameTesting s u := (congrArg Err.testing he).trans h

theorem SameTesting.withErr (h : SameTesting s t) {e : Err} (he : e.testing = t.err.testing) :
    SameTesting s { t with err := e } := he.trans h

theorem sameTesting_noteFault (s : State) (r : ErrReport) : SameTesting s (noteFault s r) := by
  have hrefl : SameTesting s s := rfl
  unfold noteFault
  split
  · refine SameTesting.withErr (SameTesting.of_err ?_ (State.err_bump ..)) rfl
    split
    · exact (hrefl.of_err (State.err_setF ..)).of_err (State.err_bump ..)
    · exact hrefl
  · exact hrefl

theorem sameTesting_writeEntry (s : State) (r : ErrReport) (second : Bool) : SameTesting s (writeEntry s r second) := by
  have hrefl : SameTesting s s := rfl
  unfold writeEntry
  dsimp only
  split
  · exact ((hrefl.of_err (State.err_bump ..)).of_err (State.err_setF ..)).withErr rfl
  · have hentry (e : List Byte) (k : Nat) : SameTesting s ((((s.setReg (Off.ERR_LOG k) (fld e 0 8)).setReg
        (Off.ERR_LOG (k + 1)) (fld e 8 8)).setReg (Off.ERR_LOG (k + 2)) (fld e 16 8)).setReg (Off.ERR_LOG (k + 3))
        (fld e 24 8)) := hrefl.of_err rfl
    have hall := hentry (errEntry s r second) (4 * (s.getF Fld.ERR_LOG_PTR_WR % 256))
    have hptr (u : State) (hu : SameTesting s u) (v : Nat) :
        SameTesting s ({ u with err := { u.err with lost := false } }.setF Fld.ERR_LOG_PTR_WR v) :=
      SameTesting.of_err (SameTesting.withErr (e := { u.err with lost := false }) hu rfl) (State.err_setF ..)
    split
    · exact (hptr _ hall _).of_err (State.err_msix _ _)
    · exact hptr _ hall _

/-- A report puts no unit under test. -/
theorem testing_report (s : State) (r : ErrReport) : (s.report r).err.testing = s.err.testing := by
  have hcounted : SameTesting s (s.bump Off.ERR_CE_CNT) := SameTesting.of_err (t := s) rfl (State.err_bump ..)
  unfold State.report
  split
  · dsimp only
    split
    · exact hcounted
    · exact (sameTesting_writeEntry _ r false).trans (hcounted.withErr rfl)
  · exact (sameTesting_writeEntry _ r _).trans (sameTesting_noteFault s r)

theorem inTest_congr (h : t.err.testing = s.err.testing) (u : TestUnit) : t.inTest u = s.inTest u := by
  unfold State.inTest
  rw [h]

theorem getF_faultHold_ne (s : State) {f : FieldRef} (h : f.off ≠ Fld.ADM_STATUS_FAULT_HOLD.off) (he : f.off ≠ Off.SYS_EVT) :
    (faultHold s).getF f = s.getF f := State.getF_setF_ne _ _ _ _ h he

theorem quiet_faultHold (s : State) : Quiet s (faultHold s) := (Quiet.refl s).setF _ 1

/-! ## A fault that nothing covers (R407) -/

/-- The entry and the mark of an uncovered fault. -/
def uncoveredMarked (s : State) (r : ErrReport) : State :=
  (s.report { r with severity := 3 }).setF Fld.ERR_STATUS_UNCOVERED 1

theorem uncovered_eq (s : State) (r : ErrReport) : uncovered s r = if (uncoveredMarked s r).getF Fld.ERR_CTRL_ESC_EN = 1
    then warmResetTo ((uncoveredMarked s r).report { r with severity := 4 }) 3 false else uncoveredMarked s r := rfl

theorem besideLog_uncovered : BesideLog Fld.ERR_STATUS_UNCOVERED :=
  ⟨by decide, by decide, by unfold LogReg; decide, fun _ => by decide⟩

theorem besideLog_escalate : BesideLog Fld.ERR_CTRL_ESC_EN :=
  ⟨by decide, by decide, by unfold LogReg; decide, fun h => absurd h (by decide)⟩

theorem uncoveredMarked_spec (s : State) (r : ErrReport) : (uncoveredMarked s r).mem = s.mem ∧
    (uncoveredMarked s r).txns = s.txns ∧ (uncoveredMarked s r).getF Fld.ERR_STATUS_UNCOVERED = 1 ∧
    (uncoveredMarked s r).getF Fld.ERR_CTRL_ESC_EN = s.getF Fld.ERR_CTRL_ESC_EN := by
  unfold uncoveredMarked
  refine ⟨by rw [State.mem_setF, State.mem_report], by rw [State.txns_setF, State.txns_report], ?_, ?_⟩
  · rw [State.getF_setF_self _ _ _ (by decide) (by decide)]
    rfl
  · rw [State.getF_setF_ne _ _ _ _ (by decide) (by decide), sameBesideLog_report _ _ _ besideLog_escalate]

/-- Without ESC_EN the fault is marked. -/
theorem uncovered_stays (r : ErrReport) (hesc : s.getF Fld.ERR_CTRL_ESC_EN = 0) : (uncovered s r).mem = s.mem ∧
    (uncovered s r).txns = s.txns ∧ (uncovered s r).getF Fld.ERR_STATUS_UNCOVERED = 1 := by
  obtain ⟨hmem, htxns, hunc, hesc'⟩ := uncoveredMarked_spec s r
  rw [uncovered_eq, if_neg (by rw [hesc', hesc]; decide)]
  exact ⟨hmem, htxns, hunc⟩

/-- With ESC_EN a warm reset follows. -/
theorem uncovered_escalates (r : ErrReport) (hesc : s.getF Fld.ERR_CTRL_ESC_EN = 1) : ∃ v, uncovered s r = warmResetTo v 3 false ∧
    v.mem = s.mem ∧ v.txns = s.txns ∧ v.getF Fld.ERR_STATUS_UNCOVERED = 1 := by
  obtain ⟨hmem, htxns, hunc, hesc'⟩ := uncoveredMarked_spec s r
  refine ⟨_, by rw [uncovered_eq, if_pos (by rw [hesc', hesc])], ?_, ?_, ?_⟩
  · rw [State.mem_report, hmem]
  · rw [State.txns_report, htxns]
  · rw [sameBesideLog_report _ _ _ besideLog_uncovered, hunc]

/-! ## Transactions that lose their run (R404) -/

/-- A fault replay of a transaction, not counted, waits. -/
def Replayed (s : State) (x : Txn) : Prop := ∃ y, s.txn? x.an = some y ∧ y.run = x.run + 1 ∧ y.counted = x.counted ∧
  y.wlog = [] ∧ y.phase = .queued ∧ y.owner = .ended

theorem Replayed.of_txn? {x : Txn} (h : Replayed s x) (ht : t.txn? x.an = s.txn? x.an) : Replayed t x := by
  obtain ⟨y, hy, hrest⟩ := h
  exact ⟨y, ht.trans hy, hrest⟩

/-- A function on transactions that leaves the run alone. -/
def KeepsRun (f : Txn → Txn) : Prop := ∀ y, (f y).an = y.an ∧ (f y).run = y.run ∧ (f y).counted = y.counted ∧
  (f y).wlog = y.wlog ∧ (f y).phase = y.phase ∧ (f y).owner = y.owner

theorem txn?_map {f : Txn → Txn} (hf : ∀ y, (f y).an = y.an) (ht : t.txns = s.txns.map f) (a : Nat) :
    t.txn? a = (s.txn? a).map f := by
  have hcomp : (fun y : Txn => y.an == a) ∘ f = fun y => y.an == a := funext fun y => by simp [hf]
  unfold State.txn?
  rw [ht, List.find?_map, hcomp]

theorem Replayed.map {x : Txn} {f : Txn → Txn} (h : Replayed s x) (hf : KeepsRun f) (ht : t.txns = s.txns.map f) :
    Replayed t x := by
  obtain ⟨y, hy, hrun, hcounted, hwlog, hphase, howner⟩ := h
  obtain ⟨-, hrun', hcounted', hwlog', hphase', howner'⟩ := hf y
  refine ⟨f y, ?_, hrun'.trans hrun, hcounted'.trans hcounted, hwlog'.trans hwlog, hphase'.trans hphase, howner'.trans howner⟩
  rw [txn?_map (fun z => (hf z).1) ht, hy]
  rfl

theorem loseRun_eq {x : Txn} (h : x.phase ≠ .parse) : loseRun s x = endRun s x.an .faultReplay := by
  unfold loseRun
  split
  · exact absurd ‹_› h
  · rfl

theorem loseRun_cases (s : State) (x : Txn) : loseRun s x = s ∨ loseRun s x = endRun s x.an .faultReplay := by
  by_cases h : x.phase = .parse
  · exact .inl (by unfold loseRun; rw [h])
  · exact .inr (loseRun_eq h)

theorem endRun_of_none {an : Nat} {e : RunEnd} (h : s.txn? an = none) : endRun s an e = s := by
  unfold endRun
  rw [h]

theorem txn?_loseRun_ne {x : Txn} {a : Nat} (ha : a ≠ x.an) : (loseRun s x).txn? a = s.txn? a := by
  rcases loseRun_cases s x with h | h
  · rw [h]
  · rw [h]
    cases hx : s.txn? x.an with
    | none => rw [endRun_of_none hx]
    | some y => exact txn?_endRun_ne _ hx ha

theorem txn?_foldl_loseRun_ne {l : List Txn} {a : Nat} (ha : a ∉ l.map fun x => x.an) : (l.foldl loseRun s).txn? a = s.txn? a := by
  induction l generalizing s with
  | nil => rfl
  | cons x l ih =>
    rw [List.map_cons, List.mem_cons, not_or] at ha
    exact (ih ha.2).trans (txn?_loseRun_ne ha.1)

theorem replayed_loseRun {x : Txn} (hx : s.txn? x.an = some x) (hphase : x.phase ≠ .parse) : Replayed (loseRun s x) x := by
  rw [loseRun_eq hphase]
  refine ⟨_, txn?_endRun_self .faultReplay hx, ?_⟩
  rw [runOutcome, stoppedTxn_eq]
  exact ⟨rfl, rfl, rfl, rfl, rfl⟩

/-- Each transaction of a list loses its run once. -/
theorem replayed_foldl_loseRun {l : List Txn} (hnodup : (l.map fun x => x.an).Nodup) (hl : ∀ y ∈ l, s.txn? y.an = some y)
    {x : Txn} (hx : x ∈ l) (hphase : x.phase ≠ .parse) : Replayed (l.foldl loseRun s) x := by
  induction l generalizing s with
  | nil => exact absurd hx List.not_mem_nil
  | cons a l ih =>
    rw [List.map_cons, List.nodup_cons] at hnodup
    obtain ⟨hout, hnodup⟩ := hnodup
    have hne : ∀ y ∈ l, y.an ≠ a.an := fun y hy he => hout (he ▸ List.mem_map_of_mem hy)
    obtain rfl | hx := List.mem_cons.1 hx
    · exact (replayed_loseRun (hl x List.mem_cons_self) hphase).of_txn? (txn?_foldl_loseRun_ne hout)
    · exact ih hnodup (fun y hy => (txn?_loseRun_ne (hne y hy)).trans (hl y (List.mem_cons_of_mem a hy))) hx

/-- A transaction is found under its AN. -/
theorem txn?_of_mem (hnodup : (s.txns.map fun x => x.an).Nodup) {x : Txn} (hx : x ∈ s.txns) : s.txn? x.an = some x := by
  unfold State.txn?
  generalize s.txns = l at hnodup hx
  induction l with
  | nil => exact absurd hx List.not_mem_nil
  | cons a l ih =>
    rw [List.map_cons, List.nodup_cons] at hnodup
    rw [List.find?_cons]
    obtain rfl | hx := List.mem_cons.1 hx
    · rw [beq_self_eq_true]
    · have hne : (a.an == x.an) = false := beq_eq_false_iff_ne.2 fun he => hnodup.1 (he ▸ List.mem_map_of_mem hx)
      rw [hne]
      exact ih hnodup.2 hx

/-- The hold of admission over the loss of a run. -/
theorem hold_loseRun (s : State) (x : Txn) :
    (loseRun s x).getF Fld.ADM_STATUS_FAULT_HOLD = s.getF Fld.ADM_STATUS_FAULT_HOLD := by
  rcases loseRun_cases s x with h | h
  · rw [h]
  · rw [h]
    cases hx : s.txn? x.an with
    | none => rw [endRun_of_none hx]
    | some y =>
      have hcount (w : State) : countEnd w (runOutcome s y .faultReplay) .faultReplay = w := rfl
      have hfreed : (bankFreed s y).regs = s.regs := by
        unfold bankFreed
        split <;> rfl
      rw [endRun_eq _ hx, hcount, State.countOutstanding, getF_setF_apart _ _ (by decide) (by decide) (by decide)]
      exact State.getF_congr _ (State.reg_congr hfreed _)

/-! ## The tile and its cores (R403) -/

/-- A core of the tile is retired. -/
def coreLost (s : State) (c : CoreId) : State :=
  l1Empty ((unready s c).modCore c fun _ => { Core.reset with svc := .retired }) c

/-- The cores of the tile are retired. -/
def coresLost (s : State) (t : TileId) : State := (coresOf t).foldl coreLost s

/-- The codes of the tile and its cores. -/
def tileCodes (t : TileId) : List Nat := tileCode t.val :: (coresOf t).map fun c => c.val

/-- The collector knows them as retired. -/
def tileNoted (s : State) (t : TileId) : State := { s.bump Off.ERR_RETIRE_CNT with err := { s.err with
  retired := tileCodes t ++ s.err.retired.filter fun x => !(tileCodes t).contains x,
  testing := s.err.testing.filter fun x => !(tileCodes t).contains x } }

/-- The tile is off and its store is gone. -/
def tileEmptied (s : State) (t : TileId) : State :=
  avsWrite (setClk (setIslandState (clearTileStore s t.val) ⟨t.val, by omega⟩ 5) ⟨t.val, by omega⟩ 0)

theorem retireTile_eq (s : State) (t : TileId) : retireTile s t = tileEmptied (tileNoted (coresLost s t) t) t := rfl

theorem testBit_unready (s : State) (c d : CoreId) : ((unready s d).getF (readyMap c)).testBit (c.val % 64) =
    if c = d then false else (s.getF (readyMap c)).testBit (c.val % 64) := by
  have hoff := readyMap_off_lt c
  have hevt : (readyMap c).off ≠ Off.SYS_EVT := fun h => by rw [h] at hoff; exact absurd hoff (by decide)
  by_cases hcd : c = d
  · rw [if_pos hcd, hcd]
    exact getF_unready s d
  · rw [if_neg hcd]
    by_cases hmap : c.val / 64 = d.val / 64
    · have hfield : readyMap d = readyMap c := by unfold readyMap; rw [hmap]
      have hne : c.val % 64 ≠ d.val % 64 := fun h => hcd (Fin.ext (by omega))
      unfold unready
      rw [hfield, State.getF_setF_self _ _ _ hevt (show 0 + 64 ≤ 64 by omega), Nat.testBit_mod_two_pow, testBit_putBits,
        if_neg (by omega), show (readyMap c).width = 64 from rfl, decide_eq_true (by omega), Bool.true_and]
    · have hne : (readyMap c).off ≠ (readyMap d).off := by
        show 0x40028 + 8 * (c.val / 64) ≠ 0x40028 + 8 * (d.val / 64)
        omega
      exact congrArg (fun x => Nat.testBit x _) (State.getF_setF_ne _ _ _ _ hne hevt)

/-- A core that is retired, with its bit of the ready map. -/
def CoreLost (s : State) (c : CoreId) : Prop := s.core c = { Core.reset with svc := .retired } ∧
  (s.getF (readyMap c)).testBit (c.val % 64) = false

theorem coreLost_keeps (s : State) (c : CoreId) : (coreLost s c).txns = s.txns ∧
    (∀ f : FieldRef, f.off ≠ (readyMap c).off → f.off ≠ Off.SYS_EVT → (coreLost s c).getF f = s.getF f) ∧
    (∀ f, (coreLost s c).getF f = (unready s c).getF f) :=
  ⟨State.txns_setF .., fun _ h he => State.getF_setF_ne s _ _ _ h he, fun _ => rfl⟩

theorem core_coreLost (s : State) (c d : CoreId) :
    (coreLost s d).core c = if c = d then { Core.reset with svc := .retired } else s.core c := by
  have hl1 : (coreLost s d).core c = ((unready s d).modCore d fun _ => { Core.reset with svc := .retired }).core c := rfl
  rw [hl1]
  split
  · next h => rw [h, State.core_modCore_self]
  · next h => rw [State.core_modCore_ne _ _ _ _ h, core_unready]

theorem lost_coreLost_self (s : State) (c : CoreId) : CoreLost (coreLost s c) c := by
  obtain ⟨-, -, hget⟩ := coreLost_keeps s c
  exact ⟨by rw [core_coreLost, if_pos rfl], by rw [hget, testBit_unready, if_pos rfl]⟩

theorem lost_coreLost {c : CoreId} (h : CoreLost s c) (d : CoreId) : CoreLost (coreLost s d) c := by
  by_cases hcd : c = d
  · exact hcd ▸ lost_coreLost_self s c
  · obtain ⟨-, -, hget⟩ := coreLost_keeps s d
    exact ⟨by rw [core_coreLost, if_neg hcd, h.1], by rw [hget, testBit_unready, if_neg hcd, h.2]⟩

theorem mem_coresOf {c : CoreId} {t : TileId} (h : c.val / 4 = t.val) : c ∈ coresOf t := by
  have h4 : c.val % 4 = 0 ∨ c.val % 4 = 1 ∨ c.val % 4 = 2 ∨ c.val % 4 = 3 := by omega
  unfold coresOf coreOf
  simp only [List.mem_cons, Fin.ext_iff]
  rcases h4 with h0 | h1 | h2 | h3
  · exact .inl (by show c.val = 4 * t.val + 0; omega)
  · exact .inr (.inl (by show c.val = 4 * t.val + 1; omega))
  · exact .inr (.inr (.inl (by show c.val = 4 * t.val + 2; omega)))
  · exact .inr (.inr (.inr (.inl (by show c.val = 4 * t.val + 3; omega))))

theorem lost_coresLost (s : State) {t : TileId} {c : CoreId} (h : c.val / 4 = t.val) : CoreLost (coresLost s t) c :=
  foldl_reaches (ok := fun _ => True) (P := fun u => CoreLost u c) (mem_coresOf h) trivial (fun _ _ _ => trivial)
    (fun u _ => lost_coreLost_self u c) fun _ d hu => lost_coreLost hu d

theorem coresLost_keeps (s : State) (t : TileId) : (coresLost s t).txns = s.txns ∧
    (coresLost s t).getF Fld.ADM_STATUS_FAULT_HOLD = s.getF Fld.ADM_STATUS_FAULT_HOLD := by
  refine foldl_inv (P := fun u : State => u.txns = s.txns ∧
    u.getF Fld.ADM_STATUS_FAULT_HOLD = s.getF Fld.ADM_STATUS_FAULT_HOLD) ⟨rfl, rfl⟩ _ fun u c ⟨htxns, hhold⟩ => ?_
  obtain ⟨htxns', hget, -⟩ := coreLost_keeps u c
  have hoff := readyMap_off_lt c
  exact ⟨htxns'.trans htxns, (hget _ (by show 0x60040 ≠ _; omega) (by decide)).trans hhold⟩

theorem tileNoted_keeps (s : State) (t : TileId) : (tileNoted s t).txns = s.txns ∧ (tileNoted s t).cores = s.cores ∧
    (∀ f : FieldRef, f.off ≠ Off.ERR_RETIRE_CNT → (tileNoted s t).getF f = s.getF f) ∧
    (tileNoted s t).err.retired.contains (tileCode t.val) = true := by
  refine ⟨rfl, rfl, fun f hf => getF_setReg_ne s hf, ?_⟩
  rw [List.contains_iff_mem]
  exact List.mem_append_left _ List.mem_cons_self

theorem avsWrite_keeps (s : State) : (avsWrite s).mem = s.mem ∧ (avsWrite s).txns = s.txns ∧ (avsWrite s).cores = s.cores ∧
    (avsWrite s).err = s.err ∧ ∀ f : FieldRef, f.off ≠ Fld.PWR_AVS_TARGET_MV.off → f.off ≠ Off.SYS_EVT →
      (avsWrite s).getF f = s.getF f :=
  ⟨State.mem_setF .., State.txns_setF .., State.cores_setF .., State.err_setF .., fun _ h he => State.getF_setF_ne s _ _ _ h he⟩

theorem tileEmptied_keeps (s : State) (t : TileId) : (tileEmptied s t).txns = s.txns ∧ (tileEmptied s t).cores = s.cores ∧
    (tileEmptied s t).err = s.err ∧ islandState (tileEmptied s t) t.val = 5 ∧
    (∀ o, o < 0x40_0000 → memGet (tileEmptied s t).mem (tileAddr t.val o) = 0) ∧
    (∀ f : FieldRef, ¬IslReg f.off → f.off ≠ Fld.PWR_AVS_TARGET_MV.off → f.off ≠ Off.SYS_EVT →
      (tileEmptied s t).getF f = s.getF f) := by
  have hoff : OnlyIslands (clearTileStore s t.val)
      (setClk (setIslandState (clearTileStore s t.val) ⟨t.val, by omega⟩ 5) ⟨t.val, by omega⟩ 0) :=
    ((OnlyIslands.refl _).setIslandState _ 5).setClk _ 0
  have hstate : islandState (setClk (setIslandState (clearTileStore s t.val) ⟨t.val, by omega⟩ 5) ⟨t.val, by omega⟩ 0) t.val =
      5 := by
    rw [islandState_setClk, islandState_setIslandState, if_pos rfl]
  unfold tileEmptied
  generalize setClk (setIslandState (clearTileStore s t.val) ⟨t.val, by omega⟩ 5) ⟨t.val, by omega⟩ 0 = u at hoff hstate ⊢
  obtain ⟨hmem, htxns, hcores, herr, hget⟩ := avsWrite_keeps u
  refine ⟨htxns.trans (hoff.txns.trans rfl), hcores.trans (hoff.cores.trans rfl), herr.trans (hoff.err.trans rfl), ?_,
    fun o ho => ?_, fun f hi ha he => (hget f ha he).trans ((hoff.getF hi he).trans rfl)⟩
  · exact (hget (Fld.PWR_ISL_STATUS_STATE t.val) (by show 0x20400 + 8 * t.val ≠ 0x20000; omega)
      (by show 0x20400 + 8 * t.val ≠ 0x40; omega)).trans hstate
  · rw [hmem, hoff.mem, memGet_clearTileStore, if_pos ⟨by unfold tileAddr; omega, by unfold tileAddr; omega⟩]

/-- What the loss of a tile leaves of it. -/
structure TileGone (s : State) (t : TileId) : Prop where
  island : islandState s t.val = 5
  hold : s.getF Fld.ADM_STATUS_FAULT_HOLD = 1
  retired : s.err.retired.contains (tileCode t.val) = true
  mem : ∀ o, o < 0x40_0000 → memGet s.mem (tileAddr t.val o) = 0
  cores : ∀ c : CoreId, c.val / 4 = t.val → CoreLost s c

theorem tileGone_retireTile (s : State) (t : TileId) (hhold : s.getF Fld.ADM_STATUS_FAULT_HOLD = 1) :
    TileGone (retireTile s t) t ∧ (retireTile s t).txns = s.txns := by
  obtain ⟨htxns1, hhold1⟩ := coresLost_keeps s t
  obtain ⟨htxns2, hcores2, hget2, hretired⟩ := tileNoted_keeps (coresLost s t) t
  obtain ⟨htxns3, hcores3, herr3, hisland, hmem, hget3⟩ := tileEmptied_keeps (tileNoted (coresLost s t) t) t
  have hlost := fun c hc => lost_coresLost s (t := t) (c := c) hc
  rw [retireTile_eq]
  refine ⟨⟨hisland, ?_, ?_, hmem, fun c hc => ⟨?_, ?_⟩⟩, htxns3.trans (htxns2.trans htxns1)⟩
  · rw [hget3 _ (by unfold IslReg; decide) (by decide) (by decide), hget2 _ (by decide), hhold1, hhold]
  · rw [herr3, hretired]
  · rw [State.core_congr (hcores3.trans hcores2), (hlost c hc).1]
  · have hoff := readyMap_off_lt c
    rw [hget3 _ (by unfold IslReg Off.PWR_ISL_STATUS; omega) (by show _ ≠ 0x20000; omega) (by show _ ≠ 0x40; omega),
      hget2 _ (by show _ ≠ 0x40090; omega), (hlost c hc).2]

/-- Nothing but the transactions changes. -/
def OnlyTxns (s t : State) : Prop := t = { s with txns := t.txns }

theorem onlyTxns_reassign (s : State) (x : Txn) : OnlyTxns s (reassign s x) := by
  unfold OnlyTxns reassign
  dsimp only
  split <;> rfl

theorem OnlyTxns.trans (h : OnlyTxns s t) (g : OnlyTxns t u) : OnlyTxns s u := by
  unfold OnlyTxns at *
  rw [g, h]

theorem OnlyTxns.tileGone (h : OnlyTxns s t) {x : TileId} (g : TileGone s x) : TileGone t x := by
  unfold OnlyTxns at h
  rw [h]
  exact ⟨g.island, g.hold, g.retired, g.mem, g.cores⟩

theorem tileGone_countOutstanding {x : TileId} (g : TileGone s x) : TileGone s.countOutstanding x := by
  unfold State.countOutstanding
  refine ⟨(islandState_setF_off _ _ (by show 0x60040 ≠ 0x20400 + 8 * x.val; omega)).trans g.island, ?_, ?_, ?_,
    fun c hc => ⟨?_, ?_⟩⟩
  · rw [getF_setF_apart _ _ (by decide) (by decide) (by decide), g.hold]
  · rw [State.err_setF, g.retired]
  · rw [State.mem_setF]
    exact g.mem
  · rw [State.core_setF, (g.cores c hc).1]
  · have hoff := readyMap_off_lt c
    rw [State.getF_setF_ne _ _ _ _ (by show _ ≠ 0x60040; omega) (by show _ ≠ 0x40; omega), (g.cores c hc).2]

/-- A transaction goes to another tile with its run as it is. -/
theorem reassign_map (s : State) (x : Txn) : ∃ f, KeepsRun f ∧ (reassign s x).txns = s.txns.map f := by
  unfold reassign
  dsimp only
  split
  · exact ⟨id, fun _ => ⟨rfl, rfl, rfl, rfl, rfl, rfl⟩, (List.map_id _).symm⟩
  · refine ⟨_, fun y => ?_, rfl⟩
    dsimp only
    split
    · split <;> exact ⟨rfl, rfl, rfl, rfl, rfl, rfl⟩
    · exact ⟨rfl, rfl, rfl, rfl, rfl, rfl⟩

theorem replayed_foldl_reassign {x : Txn} (l : List Txn) (h : Replayed s x) : Replayed (l.foldl reassign s) x :=
  foldl_inv (P := fun u => Replayed u x) h l fun u y hu => by
    obtain ⟨f, hf, hmap⟩ := reassign_map u y
    exact hu.map hf hmap

theorem onlyTxns_foldl_reassign (l : List Txn) (s : State) : OnlyTxns s (l.foldl reassign s) :=
  foldl_inv (P := fun u => OnlyTxns s u) (show s = { s with txns := s.txns } from rfl) l fun u y hu => hu.trans (onlyTxns_reassign u y)

theorem replayed_useExtensions {x : Txn} (h : Replayed s x) (t : TileId) : Replayed (useExtensions s t) x := by
  refine h.map (f := fun x => if x.home = t ∧ !x.si ∧ x.jsn.isSome then { x with rspPa := extRsp s x.home x.slot } else x)
    (fun y => ?_) rfl
  dsimp only
  split <;> exact ⟨rfl, rfl, rfl, rfl, rfl, rfl⟩

/-- The report of a tile that is lost, with the hold. -/
def tileReported (s : State) (t : TileId) : State :=
  faultHold (s.report { island := t.val, unit := 0xFF, cls := .tile, severity := 2 })

/-- The transactions that move. -/
def movingTxns (s : State) (t : TileId) : List Txn := byPriority (s.txns.filter fun x => x.moves t)

theorem exec_tileLoss_eq {t : TileId} (h : s.err.retired.contains (tileCode t.val) = false) : exec (.tileLoss t) s = .next
    ((movingTxns (tileReported s t) t).foldl reassign (useExtensions (retireTile
      ((movingTxns (tileReported s t) t).foldl loseRun (tileReported s t)) t) t)).countOutstanding := by
  rw [exec_tileLoss, execTileLoss, if_neg (by rw [h]; decide)]
  rfl

theorem txns_tileReported (s : State) (t : TileId) : (tileReported s t).txns = s.txns := by
  unfold tileReported
  rw [(quiet_faultHold _).txns, State.txns_report]

theorem mem_movingTxns {t : TileId} {x : Txn} : x ∈ movingTxns s t ↔ x ∈ s.txns ∧ x.moves t = true := by
  unfold movingTxns byPriority
  rw [List.mem_mergeSort, List.mem_filter]

theorem nodup_movingTxns (t : TileId) (h : (s.txns.map fun x => x.an).Nodup) : ((movingTxns s t).map fun x => x.an).Nodup := by
  have hfilter : ((s.txns.filter fun x => x.moves t).map fun x => x.an).Nodup := h.sublist (List.filter_sublist.map _)
  exact ((List.mergeSort_perm _ _).map _).nodup_iff.2 hfilter

/-- The loss of a tile: it is gone, and each run that it had is replayed. -/
theorem exec_tileLoss_spec {t : TileId} (h : s.err.retired.contains (tileCode t.val) = false)
    (hnodup : (s.txns.map fun x => x.an).Nodup) : ∃ u, exec (.tileLoss t) s = .next u ∧ TileGone u t ∧
    ∀ x, x ∈ s.txns → x.moves t = true → x.phase ≠ .parse → Replayed u x := by
  have htxns := txns_tileReported s t
  have hhold : (tileReported s t).getF Fld.ADM_STATUS_FAULT_HOLD = 1 := hold_faultHold _
  refine ⟨_, exec_tileLoss_eq h, ?_⟩
  generalize tileReported s t = v at htxns hhold
  rw [← htxns] at hnodup ⊢
  have hhold' : ((movingTxns v t).foldl loseRun v).getF Fld.ADM_STATUS_FAULT_HOLD = 1 :=
    foldl_inv (P := fun u : State => u.getF Fld.ADM_STATUS_FAULT_HOLD = 1) hhold _ fun u x hu => (hold_loseRun u x).trans hu
  have hreplayed : ∀ x ∈ movingTxns v t, x.phase ≠ .parse → Replayed ((movingTxns v t).foldl loseRun v) x := fun x hx =>
    replayed_foldl_loseRun (nodup_movingTxns t hnodup) (fun y hy => txn?_of_mem hnodup (mem_movingTxns.1 hy).1) hx
  generalize hw : (movingTxns v t).foldl loseRun v = w at hhold' hreplayed
  obtain ⟨hgone, htxns'⟩ := tileGone_retireTile w t hhold'
  have hext : OnlyTxns (retireTile w t) (useExtensions (retireTile w t) t) := rfl
  refine ⟨tileGone_countOutstanding ((hext.trans (onlyTxns_foldl_reassign _ _)).tileGone hgone), fun x hx hmoves hphase => ?_⟩
  have hlost := hreplayed x (mem_movingTxns.2 ⟨hx, hmoves⟩) hphase
  have hkept : Replayed (retireTile w t) x := hlost.of_txn? (State.txn?_congr htxns' _)
  exact (replayed_foldl_reassign _ (replayed_useExtensions hkept t)).of_txn?
    (State.txn?_congr (State.txns_countOutstanding _) _)

end

end Sys2Proof.Proofs

namespace Sys2Proof.Proofs

open Sys2Proof Sys2Proof.Machine Sys2Proof.Laws

/-! # Faults of lanes, paired islands, the fabric and tested units (O51: R385, R397, R402, R405, R407) -/

section
variable {s : State}

/-! ## Units under test (R402) -/

theorem inTest_startTest_self (s : State) (u : TestUnit) : (startTest s u).inTest u = true := by
  unfold State.inTest startTest
  exact List.contains_iff_mem.2 List.mem_cons_self

theorem inTest_startTest_ne (s : State) {u w : TestUnit} (h : unitCode w ≠ unitCode u) :
    (startTest s u).inTest w = s.inTest w := by
  unfold State.inTest startTest
  rw [Bool.eq_iff_iff, List.contains_iff_mem, List.contains_iff_mem]
  dsimp only
  rw [List.mem_cons, List.mem_filter, bne_iff_ne]
  exact ⟨fun hw => (hw.resolve_left h).1, fun hw => .inr ⟨hw, h⟩⟩

theorem inTest_endTest_self (s : State) (u : TestUnit) : (endTest s u).inTest u = false := by
  unfold State.inTest endTest
  rw [Bool.eq_false_iff, Ne, List.contains_iff_mem]
  dsimp only
  rw [List.mem_filter, bne_iff_ne]
  exact fun h => h.2 rfl

/-! ## A lane of XLT or JNL (R78, R285, R397) -/

/-- A lane under test, with its work given up. -/
def laneTested (s : State) (lane : Fin 32) : State :=
  dropLaneWork (faultHold (startTest (s.report (laneReport lane 1 false)) (.xltLane lane))) lane

theorem exec_xltLaneFault_of_works {lane : Fin 32} (h : laneWorks s lane = true) : exec (.xltLaneFault lane) s = .next
    (if (List.finRange 32).any (laneCanServe (laneTested s lane)) then laneTested s lane
      else uncovered (laneTested s lane) (laneReport lane 3 false)) := by
  rw [exec_xltLaneFault, execXltLaneFault, if_neg (by rw [h]; decide)]
  unfold laneTested
  dsimp only

theorem laneTested_keeps (s : State) (lane : Fin 32) : (laneTested s lane).mem = s.mem ∧ (laneTested s lane).txns = s.txns ∧
    ((laneTested s lane).xlt = s.xlt.filter fun w => w.lane != lane) ∧
    (laneTested s lane).getF Fld.ADM_STATUS_FAULT_HOLD = 1 := by
  have htested (u : State) : (dropLaneWork (faultHold (startTest u (.xltLane lane))) lane).mem = u.mem ∧
      (dropLaneWork (faultHold (startTest u (.xltLane lane))) lane).txns = u.txns ∧
      ((dropLaneWork (faultHold (startTest u (.xltLane lane))) lane).xlt = u.xlt.filter fun w => w.lane != lane) ∧
      (dropLaneWork (faultHold (startTest u (.xltLane lane))) lane).getF Fld.ADM_STATUS_FAULT_HOLD = 1 :=
    ⟨(quiet_faultHold _).mem, (quiet_faultHold _).txns, congrArg (List.filter _) (State.xlt_setF ..), hold_faultHold _⟩
  obtain ⟨hmem, htxns, hxlt, hhold⟩ := htested (s.report (laneReport lane 1 false))
  unfold laneTested
  exact ⟨by rw [hmem, State.mem_report], by rw [htxns, State.txns_report], by rw [hxlt, State.xlt_report], hhold⟩

theorem getF_laneTested (lane : Fin 32) {f : FieldRef} (h : BesideLog f) (hadm : f.off ≠ Fld.ADM_STATUS_FAULT_HOLD.off) :
    (laneTested s lane).getF f = s.getF f := by
  have htested (u : State) : (dropLaneWork (faultHold (startTest u (.xltLane lane))) lane).getF f = u.getF f :=
    getF_faultHold_ne (startTest u (.xltLane lane)) hadm h.evt
  unfold laneTested
  rw [htested, sameBesideLog_report s _ f h]

theorem testing_laneTested (s : State) (lane : Fin 32) : (laneTested s lane).err.testing =
    (startTest (s.report (laneReport lane 1 false)) (.xltLane lane)).err.testing :=
  congrArg Err.testing (State.err_setF (startTest (s.report (laneReport lane 1 false)) (.xltLane lane)) _ 1)

theorem inTest_laneTested_self (s : State) (lane : Fin 32) : (laneTested s lane).inTest (.xltLane lane) = true := by
  rw [inTest_congr (testing_laneTested s lane), inTest_startTest_self]

theorem inTest_laneTested_ne {lane l : Fin 32} (h : l ≠ lane) :
    (laneTested s lane).inTest (.xltLane l) = s.inTest (.xltLane l) := by
  rw [inTest_congr (testing_laneTested s lane), inTest_startTest_ne _ ?_, inTest_congr (testing_report ..)]
  intro hcode
  exact h (Fin.ext (Nat.add_left_cancel hcode))

theorem besideLog_lanes : BesideLog Fld.XLT_CTRL_LANES :=
  ⟨by decide, by decide, by unfold LogReg; decide, fun h => absurd h (by decide)⟩

theorem besideLog_islandState {i : Nat} (h : i < 44) : BesideLog (Fld.PWR_ISL_STATUS_STATE i) :=
  ⟨by show 0x20400 + 8 * i ≠ 0x40; omega, by show 0 + 3 ≤ 64; decide,
    by show ¬LogReg (0x20400 + 8 * i); unfold LogReg; omega, fun he => by
      have : 0x20400 + 8 * i = 0x40010 := he
      omega⟩

theorem islandState_laneTested (s : State) (lane : Fin 32) {i : Nat} (h : i < 44) :
    islandState (laneTested s lane) i = islandState s i :=
  getF_laneTested lane (besideLog_islandState h) (by show 0x20400 + 8 * i ≠ 0x60040; omega)

theorem laneCanServe_laneTested_ne {lane l : Fin 32} (h : l ≠ lane) :
    laneCanServe (laneTested s lane) l = laneCanServe s l := by
  unfold laneCanServe laneWorks
  rw [getF_laneTested lane besideLog_lanes (by decide), inTest_laneTested_ne h, islandState_laneTested s lane (by omega)]

theorem laneCanServe_laneTested_self (s : State) (lane : Fin 32) : laneCanServe (laneTested s lane) lane = false := by
  unfold laneCanServe laneWorks
  rw [inTest_laneTested_self, Bool.not_true, Bool.and_false, Bool.false_and]

theorem any_laneCanServe_laneTested (s : State) (lane : Fin 32) :
    (List.finRange 32).any (laneCanServe (laneTested s lane)) = true ↔ ∃ l, l ≠ lane ∧ laneCanServe s l = true := by
  rw [List.any_eq_true]
  constructor
  · rintro ⟨l, -, hserve⟩
    have hne : l ≠ lane := by
      rintro rfl
      rw [laneCanServe_laneTested_self] at hserve
      exact absurd hserve (by decide)
    exact ⟨l, hne, (laneCanServe_laneTested_ne hne).symm.trans hserve⟩
  · rintro ⟨l, hne, hserve⟩
    exact ⟨l, List.mem_finRange l, (laneCanServe_laneTested_ne hne).trans hserve⟩

/-- A lane that fails while another can serve is tested. -/
theorem exec_xltLaneFault_covered {lane : Fin 32} (h : laneWorks s lane = true) (hother : ∃ l, l ≠ lane ∧ laneCanServe s l = true) :
    exec (.xltLaneFault lane) s = .next (laneTested s lane) := by
  rw [exec_xltLaneFault_of_works h, if_pos ((any_laneCanServe_laneTested s lane).2 hother)]

/-- The last lane that can serve fails uncovered. -/
theorem exec_xltLaneFault_last {lane : Fin 32} (h : laneWorks s lane = true) (hlast : ∀ l, l ≠ lane → laneCanServe s l = false) :
    exec (.xltLaneFault lane) s = .next (uncovered (laneTested s lane) (laneReport lane 3 false)) := by
  rw [exec_xltLaneFault_of_works h, if_neg]
  rw [any_laneCanServe_laneTested]
  rintro ⟨l, hne, hserve⟩
  rw [hlast l hne] at hserve
  exact absurd hserve (by decide)

/-- The fault of a JNL lane: which lane it was is drawn. -/
theorem exec_jnlLaneFault_spec {jsn : Nat} (h : (s.jnl.recs.any fun r => r.jsn == jsn && !r.complete) = true) : ∃ u,
    exec (.jnlLaneFault jsn) s = .next u ∧ u.getF Fld.ADM_STATUS_FAULT_HOLD = 1 ∧ u.jnl = s.jnl ∧ u.mem = s.mem := by
  have htested (u : State) (w : TestUnit) : (faultHold (startTest u w)).getF Fld.ADM_STATUS_FAULT_HOLD = 1 ∧
      (faultHold (startTest u w)).jnl = u.jnl ∧ (faultHold (startTest u w)).mem = u.mem :=
    ⟨hold_faultHold _, State.jnl_setF .., State.mem_setF ..⟩
  rw [exec_jnlLaneFault, execJnlLaneFault, if_pos h]
  unfold State.draw
  dsimp only
  refine ⟨_, rfl, (htested _ _).1, ?_, ?_⟩
  · rw [(htested _ _).2.1, State.jnl_report]
  · rw [(htested _ _).2.2, State.mem_report]

/-! ## The fabric and the paired islands (R385, R405) -/

theorem boundaryReset_of_request {c : CoreId} {b : BankId} {x : Ctx} (hctx : (s.bank c b).ctx = some x)
    (hout : requestOut s c b x = true) : boundaryReset s (c, b) = endIfOwned s x.an x.run .faultReplay := by
  unfold boundaryReset
  dsimp only
  rw [hctx]
  exact if_pos hout

/-- A paired island goes on with one copy. -/
def simplexFrom (s : State) (i : Fin 44) : State :=
  (s.setF Fld.ERR_SIMPLEX_ISL (putBits (s.getF Fld.ERR_SIMPLEX_ISL) i.val 1 1)).setF Fld.ERR_STATUS_SIMPLEX 1

theorem simplexFrom_spec (s : State) (i : Fin 44) : ((simplexFrom s i).getF Fld.ERR_SIMPLEX_ISL).testBit i.val = true ∧
    (simplexFrom s i).getF Fld.ERR_STATUS_SIMPLEX = 1 ∧ (simplexFrom s i).mem = s.mem ∧ (simplexFrom s i).txns = s.txns := by
  unfold simplexFrom
  refine ⟨?_, ?_, by rw [State.mem_setF, State.mem_setF], by rw [State.txns_setF, State.txns_setF]⟩
  · rw [State.getF_setF_ne _ _ _ _ (by decide) (by decide), State.getF_setF_self _ _ _ (by decide) (by decide),
      Nat.testBit_mod_two_pow, testBit_putBits, if_pos (by omega), Nat.sub_self, show Fld.ERR_SIMPLEX_ISL.width = 44 from rfl,
      decide_eq_true i.isLt]
    rfl
  · rw [State.getF_setF_self _ _ _ (by decide) (by decide)]
    rfl

/-- What a report of a paired island names. -/
def pairedReport (i : Fin 44) : ErrReport := { island := i.val, unit := 0xFF, cls := .paired, severity := 1 }

theorem exec_pairedMismatch_first {i : Fin 44} (hi : 38 ≤ i.val) (h : (s.getF Fld.ERR_SIMPLEX_ISL).testBit i.val = false) :
    exec (.pairedMismatch i) s = .next (simplexFrom (faultHold (s.report (pairedReport i))) i) := by
  rw [exec_pairedMismatch, execPairedMismatch, if_neg (by omega), if_neg (by rw [bitAt, h]; decide)]
  rfl

theorem exec_pairedMismatch_simplex {i : Fin 44} (hi : 38 ≤ i.val) (h : (s.getF Fld.ERR_SIMPLEX_ISL).testBit i.val = true) :
    exec (.pairedMismatch i) s = .next (uncovered s (pairedReport i)) := by
  rw [exec_pairedMismatch, execPairedMismatch, if_neg (by omega)]
  exact congrArg _ (if_pos h)

/-! ## The end of a self-test (R402) -/

/-- The state in which a tested unit returns or is retired. -/
def testEnded (s : State) (u : TestUnit) (severity : Nat) : State := (endTest s u).report (unitReport u severity)

theorem exec_selfTestDone_eq {u : TestUnit} {pass back : Bool} (h : s.inTest u = true)
    (hback : (pass && decide (strikesOf s u < s.getF Fld.ERR_CFG_STRIKES)) = back) : exec (.selfTestDone u pass) s =
    .next (if back then returnUnit (testEnded s u 1) u else retireUnit (testEnded s u 2) u) := by
  rw [exec_selfTestDone, execSelfTestDone, if_neg (by rw [h]; decide)]
  unfold testEnded
  dsimp only
  rw [hback]
  cases back
  · rw [if_neg Bool.false_ne_true, if_neg Bool.false_ne_true, if_neg Bool.false_ne_true]
  · rw [if_pos rfl, if_pos rfl, if_pos rfl]

theorem exec_selfTestDone_returns {u : TestUnit} (h : s.inTest u = true) (hstrikes : strikesOf s u < s.getF Fld.ERR_CFG_STRIKES) :
    exec (.selfTestDone u true) s = .next (returnUnit (testEnded s u 1) u) :=
  exec_selfTestDone_eq (back := true) h (decide_eq_true hstrikes)

theorem exec_selfTestDone_retires {u : TestUnit} {pass : Bool} (h : s.inTest u = true)
    (hback : pass = false ∨ s.getF Fld.ERR_CFG_STRIKES ≤ strikesOf s u) :
    exec (.selfTestDone u pass) s = .next (retireUnit (testEnded s u 2) u) := by
  refine exec_selfTestDone_eq (back := false) h ?_
  obtain rfl | hstrikes := hback
  · rfl
  · rw [decide_eq_false (Nat.not_lt.2 hstrikes), Bool.and_false]

theorem testEnded_keeps (s : State) (u : TestUnit) (v : Nat) : (testEnded s u v).mem = s.mem ∧
    (∀ c, (testEnded s u v).core c = s.core c) ∧ (testEnded s u v).inTest u = false :=
  ⟨State.mem_report .., fun c => State.core_report _ _ c,
    (inTest_congr (testing_report (endTest s u) _) u).trans (inTest_endTest_self s u)⟩

theorem onlyIslands_joinAt (s : State) (i : Fin 44) : OnlyIslands s (joinAt s i) :=
  .ite ((OnlyIslands.refl s).setClk i _) (.refl s)

/-! ### Engines -/

theorem engineInService_setEngine (s : State) (k : EngineKind) (e : Fin 48) (v : Bool) :
    engineInService (setEngine s k e v) k e = v := by
  obtain ⟨hevt, hlo, hwidth, -⟩ := engineMap_shape k
  unfold engineInService setEngine
  rw [State.getF_setF_self _ _ _ hevt (by omega), hwidth, bitAt, Nat.testBit_mod_two_pow, testBit_putBits, if_pos (by omega),
    Nat.sub_self, decide_eq_true e.isLt]
  cases v <;> rfl

/-- A cluster that had no engine in service joins. -/
def clusterJoined (s : State) (e : Fin 48) : State :=
  if clusterEngines s .pke (e.val / 8) + clusterEngines s .sym (e.val / 8) = 0 then joinAt s ⟨24 + e.val / 8, by omega⟩ else s

theorem onlyIslands_clusterJoined (s : State) (e : Fin 48) : OnlyIslands s (clusterJoined s e) :=
  .ite (onlyIslands_joinAt s _) (.refl s)

theorem returnUnit_engine (s : State) (k : EngineKind) (e : Fin 48) :
    returnUnit s (.engine k e) = setEngine (clusterJoined s e) k e true := rfl

theorem inTest_returnUnit_engine (s : State) (k : EngineKind) (e : Fin 48) (u : TestUnit) :
    (returnUnit s (.engine k e)).inTest u = s.inTest u := by
  refine inTest_congr (congrArg Err.testing ?_) u
  rw [returnUnit_engine, setEngine, State.err_setF, (onlyIslands_clusterJoined s e).err]

theorem retireUnit_engine (s : State) (k : EngineKind) (e : Fin 48) :
    engineInService (retireUnit s (.engine k e)) k e = false ∧
    (retireUnit s (.engine k e)).err.retired.contains (unitCode (.engine k e)) = true := by
  have hmap : (engineMap k).off ≠ Off.ERR_RETIRE_CNT := by cases k <;> decide
  refine ⟨?_, List.contains_iff_mem.2 List.mem_cons_self⟩
  have hcounted : (retireUnit s (.engine k e)).getF (engineMap k) = (setEngine s k e false).getF (engineMap k) :=
    getF_setReg_ne (setEngine s k e false) hmap
  have hset := engineInService_setEngine s k e false
  unfold engineInService at hset ⊢
  rw [hcounted, hset]

/-! ### Cores -/

theorem svc_select (k : Core) : k.select.svc = k.svc ∧ k.select.banks = k.banks := by
  unfold Core.select
  split
  · split <;> exact ⟨rfl, rfl⟩
  · exact ⟨rfl, rfl⟩

/-- A tile that had no core in service joins. -/
def tileJoined (s : State) (c : CoreId) : State :=
  if coresInService s (tileOf c) = 0 then joinAt s ⟨(tileOf c).val, by omega⟩ else s

theorem onlyIslands_tileJoined (s : State) (c : CoreId) : OnlyIslands s (tileJoined s c) :=
  .ite (onlyIslands_joinAt s _) (.refl s)

/-- A state with a core's bit of the ready map set. -/
def ready (s : State) (c : CoreId) : State := s.setF (readyMap c) (putBits (s.getF (readyMap c)) (c.val % 64) 1 1)

theorem getF_ready (s : State) (c : CoreId) : ((ready s c).getF (readyMap c)).testBit (c.val % 64) = true := by
  have hoff := readyMap_off_lt c
  have hevt : (readyMap c).off ≠ Off.SYS_EVT := fun h => by rw [h] at hoff; exact absurd hoff (by decide)
  unfold ready
  rw [State.getF_setF_self _ _ _ hevt (show 0 + 64 ≤ 64 by omega), Nat.testBit_mod_two_pow, testBit_putBits, if_pos (by omega),
    Nat.sub_self, show (readyMap c).width = 64 from rfl, decide_eq_true (Nat.mod_lt _ (by decide))]
  rfl

theorem returnUnit_core (s : State) (c : CoreId) : returnUnit s (.core c) =
    (ready (tileJoined s c) c).modCore c fun k => Core.select { k with svc := .inService } := rfl

theorem returnUnit_core_spec (s : State) (c : CoreId) : ((returnUnit s (.core c)).core c).svc = .inService ∧
    ((returnUnit s (.core c)).getF (readyMap c)).testBit (c.val % 64) = true ∧
    ((returnUnit s (.core c)).core c).banks = (s.core c).banks ∧ (returnUnit s (.core c)).mem = s.mem := by
  have hjoin := onlyIslands_tileJoined s c
  have hmod (u : State) (f : Core → Core) : (u.modCore c f).getF (readyMap c) = u.getF (readyMap c) ∧ (u.modCore c f).mem = u.mem :=
    ⟨rfl, rfl⟩
  rw [returnUnit_core, State.core_modCore_self, (svc_select _).1, (svc_select _).2, (hmod _ _).1, (hmod _ _).2]
  refine ⟨rfl, getF_ready _ c, ?_, ?_⟩
  · rw [show (ready (tileJoined s c) c).core c = s.core c from (State.core_setF ..).trans (State.core_congr hjoin.cores c)]
  · exact (State.mem_setF ..).trans hjoin.mem

theorem getF_retireCore (s : State) (c : CoreId) : ((retireCore s c).getF (readyMap c)).testBit (c.val % 64) = false := by
  have hoff := readyMap_off_lt c
  have hcounted : ∀ x : List Nat, ((({ ((unready s c).bump Off.ERR_RETIRE_CNT).modCore c fun k => { k with svc := .retired } with
      err := { ((unready s c).bump Off.ERR_RETIRE_CNT).err with retired := x } } : State)).getF (readyMap c)).testBit (c.val % 64) =
      false := fun x => by
    refine (congrArg (Nat.testBit · _) (getF_setReg_ne (unready s c) ?_)).trans (getF_unready s c)
    show _ ≠ 0x40090
    omega
  have hparked (u : State) (i : Fin 44) : (avsWrite (setClk (u.setF (Fld.PWR_ISL_STATUS_STATE i.val) 5) i 0)).getF (readyMap c) =
      u.getF (readyMap c) := by
    obtain ⟨-, -, -, -, hget⟩ := avsWrite_keeps (setClk (u.setF (Fld.PWR_ISL_STATUS_STATE i.val) 5) i 0)
    have hisl := ((OnlyIslands.refl u).setF (Fld.PWR_ISL_STATUS_STATE i.val) 5 (islReg_status i)).setClk i 0
    rw [hget _ (by show _ ≠ 0x20000; omega) (by show _ ≠ 0x40; omega), hisl.getF (by unfold IslReg Off.PWR_ISL_STATUS; omega)
      (by show _ ≠ 0x40; omega)]
  unfold retireCore
  dsimp only
  split
  · exact (congrArg (Nat.testBit · _) (hparked _ ⟨(tileOf c).val, by omega⟩)).trans (hcounted _)
  · exact hcounted _

theorem retireUnit_core_spec (s : State) (c : CoreId) : ((retireUnit s (.core c)).core c).svc = .retired ∧
    ((retireUnit s (.core c)).getF (readyMap c)).testBit (c.val % 64) = false ∧ (retireUnit s (.core c)).mem = s.mem := by
  have heq : retireUnit s (.core c) = retireCore s c := rfl
  rw [heq, core_retireCore, if_pos rfl]
  exact ⟨rfl, getF_retireCore s c, (retireCore_keeps c).1⟩

end

/-- Settles O51: each fault by the state that its report leaves; an uncovered one by ESC_EN; a tested unit by its strikes. -/
theorem unitFaults : Obligations.UnitFaults := by
  intro s t lane i
  refine ⟨fun hin hnodup => ?lost, fun hgone => congrArg _ (if_pos hgone), fun hworks => ?lane, fun jsn => exec_jnlLaneFault_spec,
    fun link caught => ⟨rfl, rfl, ?unserved, fun c b x => boundaryReset_of_request⟩, fun hi => congrArg _ (if_pos hi),
    fun hi => ⟨fun hboth => ?pair, fun hsimplex => ?simplex⟩, fun u pass hidle => congrArg _ (if_pos (by rw [hidle]; rfl)),
    fun k e htest => ⟨fun hstrikes => ?engineBack, ?engineFails, fun hstrikes => ?engineStruck⟩,
    fun c htest => ⟨fun hstrikes => ?coreBack, ?coreFails⟩, fun hold => ?expired, fun hyoung => ?young⟩
  case lost =>
    obtain ⟨u, hexec, ⟨hisland, hhold, hretired, hmem, hcores⟩, hruns⟩ := exec_tileLoss_spec hin hnodup
    exact ⟨u, hexec, hisland, hhold, hretired, hmem, hcores, hruns⟩
  case lane =>
    obtain ⟨hmem, htxns, hxlt, hhold⟩ := laneTested_keeps s lane
    by_cases hother : ∃ l, l ≠ lane ∧ laneCanServe s l = true
    · refine ⟨_, exec_xltLaneFault_covered hworks hother,
        fun _ => ⟨inTest_laneTested_self s lane, hhold, hmem, htxns, hxlt⟩, fun hlast => ?_⟩
      obtain ⟨l, hne, hserve⟩ := hother
      exact absurd (hlast l hne) (by rw [hserve]; decide)
    · have hlast : ∀ l, l ≠ lane → laneCanServe s l = false := fun l hne =>
        Bool.eq_false_iff.2 fun hserve => hother ⟨l, hne, hserve⟩
      have hesc : (laneTested s lane).getF Fld.ERR_CTRL_ESC_EN = s.getF Fld.ERR_CTRL_ESC_EN :=
        getF_laneTested lane besideLog_escalate (by decide)
      refine ⟨_, exec_xltLaneFault_last hworks hlast, fun h => absurd h hother, fun _ => ⟨fun hoff => ?_, fun hon => ?_⟩⟩
      · exact (uncovered_stays _ (hesc.trans hoff)).2.2
      · obtain ⟨v, hv, hvmem, hvtxns, hunc⟩ := uncovered_escalates (laneReport lane 3 false) (hesc.trans hon)
        exact ⟨v, hv, hvmem.trans hmem, hvtxns.trans htxns, hunc⟩
  case unserved =>
    refine ⟨fun hoff => ?_, fun hon => ?_⟩
    · obtain ⟨hmem, htxns, hunc⟩ := uncovered_stays { island := 44, unit := link % 256, cls := .fabric, severity := 1 } hoff
      exact ⟨_, rfl, hunc, hmem, htxns⟩
    · obtain ⟨v, hv, hmem, htxns, hunc⟩ :=
        uncovered_escalates { island := 44, unit := link % 256, cls := .fabric, severity := 1 } hon
      exact ⟨v, congrArg _ hv, hunc, hmem, htxns⟩
  case pair =>
    obtain ⟨hbit, hsimplex, hmem, htxns⟩ := simplexFrom_spec (faultHold (s.report (pairedReport i))) i
    refine ⟨_, exec_pairedMismatch_first hi hboth, hbit, hsimplex, hmem.trans ?_, htxns.trans ?_⟩
    · rw [(quiet_faultHold _).mem, State.mem_report]
    · rw [(quiet_faultHold _).txns, State.txns_report]
  case simplex =>
    rw [exec_pairedMismatch_simplex hi hsimplex]
    refine ⟨fun hoff => ?_, fun hon => ?_⟩
    · obtain ⟨hmem, -, hunc⟩ := uncovered_stays (pairedReport i) hoff
      exact ⟨_, rfl, hunc, hmem⟩
    · obtain ⟨v, hv, hmem, htxns, hunc⟩ := uncovered_escalates (pairedReport i) hon
      exact ⟨v, congrArg _ hv, hmem, htxns, hunc⟩
  case engineBack =>
    obtain ⟨-, -, hover⟩ := testEnded_keeps s (.engine k e) 1
    refine ⟨_, exec_selfTestDone_returns htest hstrikes, ?_, (inTest_returnUnit_engine _ k e _).trans hover⟩
    rw [returnUnit_engine, engineInService_setEngine]
  case engineFails =>
    exact ⟨_, exec_selfTestDone_retires htest (.inl rfl), retireUnit_engine _ k e⟩
  case engineStruck =>
    exact ⟨_, exec_selfTestDone_retires htest (.inr hstrikes), (retireUnit_engine _ k e).1⟩
  case coreBack =>
    obtain ⟨hmem, hcore, -⟩ := testEnded_keeps s (.core c) 1
    obtain ⟨hsvc, hbit, hbanks, hmem'⟩ := returnUnit_core_spec (testEnded s (.core c) 1) c
    exact ⟨_, exec_selfTestDone_returns htest hstrikes, hsvc, hbit, hbanks.trans (congrArg Core.banks (hcore c)), hmem'.trans hmem⟩
  case coreFails =>
    obtain ⟨hmem, -, -⟩ := testEnded_keeps s (.core c) 2
    obtain ⟨hsvc, hbit, hmem'⟩ := retireUnit_core_spec (testEnded s (.core c) 2) c
    exact ⟨_, exec_selfTestDone_retires htest (.inl rfl), hsvc, hbit, hmem'.trans hmem⟩
  case expired =>
    refine congrArg _ (if_neg ?_)
    rw [List.any_eq_true]
    rintro ⟨p, hp, hlt⟩
    exact absurd (of_decide_eq_true hlt) (Nat.not_lt.2 (hold p hp))
  case young =>
    obtain ⟨p, hp, hlt⟩ := hyoung
    exact congrArg _ (if_pos (List.any_eq_true.2 ⟨p, hp, decide_eq_true hlt⟩))

end Sys2Proof.Proofs
